-- ==== Sys2Proof/Word.lean ====
section
/-! DEFINITION. The words the manual treats as bits: a byte, a 64-bit register or record word, and a raw
binary32 encoding. -/

namespace Sys2Proof

/-- One byte of a memory tier, of a record or of a message. -/
abbrev Byte := BitVec 8

/-- A register of R14 ("Registers are 64 bits wide and naturally aligned") or one word of a record. -/
abbrev W64 := BitVec 64

/-- A raw `FP32` encoding (R232). -/
abbrev F32 := BitVec 32

end Sys2Proof
end

