-- ==== Sys2Proof/Syntax.lean ====
section
/-! DEFINITION. The commands of the device: one constructor of `Instr` for each row of the operation table
(opcode_table.json), with the operands that row needs. The table gives no row any bits, so a command is its
constructor and its operands. Bounded types (`Fin`, `BitVec`) keep a command from naming a queue, a Dale, a unit or a
link that no part has. -/

namespace Sys2Proof

/-- Queue number (R40). -/
abbrev QId := Fin 4096
/-- Job number (R63). -/
abbrev JobId := Fin 256
/-- Dale number (R4). -/
abbrev DaleId := Fin 32
/-- PCIe port: 0 is A, 1 is B (R492). -/
abbrev PortId := Fin 2
/-- Logical unit number `16 × c + k` of a compute unit or a memory unit (R89, R109). -/
abbrev UnitId := Fin 1024
/-- Site within a Dale: row `s mod 32` of column `s / 32` (R109). -/
abbrev SiteId := Fin 64
/-- Armature core: West 0 to 31, East 32 to 63 (R49). -/
abbrev CoreId := Fin 64
/-- Link index of R420: 0 to 17 Altur, 18 to 21 Plain. -/
abbrev LinkId := Fin 22
/-- Logical port of R435. -/
abbrev LPort := Fin 8
/-- Serving binding (R385). -/
abbrev BindId := Fin 64
/-- Meander or Watershed group (R321, R347). -/
abbrev GroupId := Fin 16
/-- Chip number (R87). -/
abbrev ChipId := BitVec 12
/-- Role code of R569: 0 Owner, 1 Operator, 2 Observer. -/
abbrev RoleId := Fin 3

/-- Who writes a queue window (R41): a host on a port, or an Armature core. -/
inductive Origin where
  | port (p : PortId)
  | core (c : CoreId)
  deriving DecidableEq, Repr

/-- Who makes a register access: a host on a PCIe port (R495), the management sideband (R507), or the supervisor
firmware (R450, R593). -/
inductive Via where
  | port (p : PortId)
  | sideband
  | firmware
  deriving DecidableEq, Repr

/-- A calibration record (R546). `kind` is 0 to 5 as R546 lists them. -/
structure CalRecord where
  kind : Nat
  element : Nat
  tj : Nat
  vdd : Nat
  load : Nat
  laser : Int
  time : Nat
  deriving DecidableEq, Repr

/-- What the sensors give the governor at one period (R583, R585, R595, R596): the voltages in mV that hold package
power, each die's Tj and each die's stacks at their limits, and the measurements themselves. -/
structure GovInput where
  vCap : Nat
  vTjW : Nat
  vTjE : Nat
  vHbmW : Nat
  vHbmE : Nat
  tjW : Nat
  tjE : Nat
  hbmMax : Nat
  hbmStack : Nat
  oeMax : Nat
  oeEngine : Nat
  iW : Nat
  iE : Nat
  power : Nat
  energyMj : Nat
  deriving DecidableEq, Repr

/-- A message between devices (R442). `link` is the link it arrived on; `len` is `LEN`. -/
structure Msg where
  link : LinkId
  src : ChipId
  dst : ChipId
  vc : Nat
  poison : Bool
  job : JobId
  addr : Nat
  xid : BitVec 32
  arg0 : BitVec 32
  arg1 : BitVec 64
  len : Nat
  data : List Byte
  deriving DecidableEq, Repr

/-- A Plain response (R446): the status of `ARG0[1:0]` and the data. -/
structure PlainRsp where
  link : LinkId
  xid : BitVec 32
  status : Nat
  data : List Byte
  deriving DecidableEq, Repr

/-- A received flit (R432): its 256 bytes, and what the FEC saw of its codewords: how many had corrected symbols, how many were
uncorrectable, and the most symbols corrected in one. -/
structure Flit where
  bytes : List Byte
  cwCorrected : Nat
  cwUncorr : Nat
  peakSym : Nat
  deriving DecidableEq, Repr

/-- What an identity exchange shows (R428): the peer's chip and its validity, link, part code and role, and for a Plain
buffer its identity and capacity in GiB. -/
structure IdentInfo where
  chip : ChipId
  chipValid : Bool
  link : Nat
  part : BitVec 8
  plain : Bool
  bufId : BitVec 32
  capGib : Nat
  deriving DecidableEq, Repr

/-- A setup message of a ring run (R325). -/
structure RingSetupMsg where
  src : ChipId
  members : Nat
  index : Nat
  listCrc : BitVec 32
  runId : BitVec 32
  seqLen : Nat
  chunk : Nat
  zigzag : Bool
  lanes : Nat
  scount : Nat
  blockBytes : Nat
  deriving DecidableEq, Repr

/-- One segment of a circulating block (R327, R444), with the block head's fields. -/
structure RingBlockMsg where
  runId : BitVec 32
  lane : Nat
  origin : Nat
  step : Nat
  page : Nat
  stream : Nat
  rows : Nat
  gpos : Nat
  last : Bool
  segIndex : Nat
  segCount : Nat
  offset : Nat
  poison : Bool
  data : List Byte
  deriving DecidableEq, Repr

/-- The header every routed row and end marker carries (R366). -/
structure RouteHdr where
  layer : Nat
  batch : Nat
  members : Nat
  cap : Nat
  experts : Nat
  rowLines : Nat
  mapCrc : BitVec 32
  deriving DecidableEq, Repr

/-- One segment of a routed row (R363, R364, R444). `phase` is 1 for `DISPATCH` and 2 for `RETURN`; `slotQ` is the
index q of R362 for a dispatched row; `tag` is the tag of R362. -/
structure RouteRowMsg where
  src : Nat
  phase : Nat
  hdr : RouteHdr
  slotQ : Nat
  xid : BitVec 32
  tag : BitVec 32
  segIndex : Nat
  segCount : Nat
  offset : Nat
  poison : Bool
  data : List Byte
  deriving DecidableEq, Repr

/-- A collective step (R478): the tag, the fields both members must agree on, the sender's index, the element offset in
bytes within the destination, and the data. -/
structure CollStepMsg where
  gid : BitVec 16
  seq : BitVec 32
  stage : Nat
  src : Nat
  oper : Nat
  red : Nat
  fmt : Nat
  ordered : Bool
  bytes : Nat
  members : Nat
  root : Nat
  listCrc : BitVec 32
  offset : Nat
  poison : Bool
  data : List Byte
  deriving DecidableEq, Repr

/-- The header of a management message (R506) with its transport (R569): 0 I3C, 1 PCIe port A, 2 PCIe port B. -/
structure MgmtHdr where
  transport : Fin 3
  eid : Byte
  tag : BitVec 16
  session : BitVec 32
  mseq : BitVec 32
  mac : List Byte
  deriving DecidableEq, Repr

/-- One entry of a `TX_SET` (R507): offset, value and mask. -/
structure SetEntry where
  off : BitVec 26
  value : W64
  mask : W64
  deriving DecidableEq, Repr

/-- Width of a core's memory access in bytes: 1, 2, 4 or 8. -/
inductive MemW where
  | b1 | b2 | b4 | b8
  deriving DecidableEq, Repr

/-- The atomic operations of R464, in the order of their codes. -/
inductive AmoOp where
  | add | swap | and | or | xor | max | min | maxu | minu
  deriving DecidableEq, Repr

/-- One element of a vector load or store: its virtual address, its vector register and its first byte there. -/
structure VecElem where
  addr : W64
  reg : Fin 32
  off : Fin 64
  deriving DecidableEq, Repr

/-- What a CSR instruction does with its source value: replace, set bits, clear bits, or read only. -/
inductive CsrOp where
  | write | set | clear | read
  deriving DecidableEq, Repr

/-- What an ordinary RV64GCV user-mode instruction does, as the core sees it once decoded (R283). The manual names the
instruction set and does not restate it: a register result that depends only on registers is therefore an operand
(`result`), while every access that this manual governs (a load, a store, an AMO, LR and SC, a CSR access, a jump) is
carried out by the model. `len` is the length of the instruction in bytes; `flags` are the floating-point flags that
it raises; `fail` is an uncorrectable error or a failed self-check met while executing (R536). -/
inductive CoreAct where
  | intOp (len : Nat) (rd : Fin 32) (result : W64) (flags : BitVec 5)
  | floatOp (len : Nat) (fd : Fin 32) (result : W64) (flags : BitVec 5)
  | vectorOp (len : Nat) (vd : Fin 32) (result : List Byte) (flags : BitVec 5)
  | vectorConfig (len : Nat) (rd : Fin 32) (vl : W64) (vtype : W64)
  | jump (len : Nat) (rd : Fin 32) (target : W64)
  | load (len : Nat) (w : MemW) (signed : Bool) (rd : Fin 32) (rs1 : Fin 32) (imm : W64)
  | loadFloat (len : Nat) (w : MemW) (fd : Fin 32) (rs1 : Fin 32) (imm : W64)
  | store (len : Nat) (w : MemW) (rs2 : Fin 32) (rs1 : Fin 32) (imm : W64)
  | storeFloat (len : Nat) (w : MemW) (fs2 : Fin 32) (rs1 : Fin 32) (imm : W64)
  | vectorLoad (len : Nat) (w : MemW) (elems : List VecElem)
  | vectorStore (len : Nat) (w : MemW) (elems : List VecElem)
  | amo (op : AmoOp) (wide : Bool) (rd : Fin 32) (rs2 : Fin 32) (rs1 : Fin 32)
  | lr (wide : Bool) (rd : Fin 32) (rs1 : Fin 32)
  | sc (wide : Bool) (rd : Fin 32) (rs2 : Fin 32) (rs1 : Fin 32)
  | csr (number : BitVec 12) (op : CsrOp) (rd : Fin 32) (value : W64)
  | fence
  | fenceI
  | fail
  deriving DecidableEq, Repr


/-- The commands of the device, one constructor for each row of the operation table, in the table's order. Each
docstring gives the row's name and the rule that states it. -/
inductive Instr where
  /-- `POWER_GOOD` (R581): Once every rail has been in tolerance for 2 ms, the device declares power-good, samples SLOT_ID and starts the boot ROMs. -/
  | powerGood (slotId : BitVec 6) (romDisagree : Bool)
  /-- `DEVICE_READY` (R564): Boot or warm restart completes, FAULT_N rises and SEC_BOOT_STAT.MODE reads ready. -/
  | deviceReady (cal : List CalRecord)
  /-- `PWRFAIL` (R511): A filtered PWRFAIL_N fall starts the irreversible power-fail sequence, which sends GOING_DOWN and flushes the fault log. -/
  | pwrfail
  /-- `RAIL_UNDERVOLTAGE` (R582): A rail stays below tolerance for 10 µs after power-good and starts the R511 sequence. -/
  | railUndervoltage (rail : Fin 9)
  /-- `THERMTRIP` (R587): Tj or an HBM3 stack reaches 110 °C and the latched Plinth trip drives THERMTRIP_N low and requests 0.60 V. -/
  | thermtrip
  /-- `GOVERNOR_PERIOD` (R583): Every 100 µs the governor requests for each die the lowest voltage among set-point, power cap, Tj and HBM limits. -/
  | governorPeriod (g : GovInput)
  /-- `CURRENT_LIMIT` (R584): A 1 µs current sample above 820 A makes the Plinth step VDD_CORE down through AVSBus and hold it as a ceiling. -/
  | currentLimit (die : Fin 2) (steps : Fin 16)
  /-- `CURRENT_CEILING_EXPIRY` (R584): The 10 ms ceiling that the current limit imposed on the governor ends. -/
  | currentCeilingExpiry (die : Fin 2)
  /-- `RATE_WINDOW` (R36): Each 1 ms window of GLB_TIME updates the measured firing rate of each die. -/
  | rateWindow (west : BitVec 16) (east : BitVec 16)
  /-- `MARGIN_EVENT` (R25): A delay-line margin monitor measures a margin below 8% or 4%, logs a fault, and adds a trim step or retires the site. -/
  | marginEvent (site : BitVec 12) (margin : BitVec 8)
  /-- `TIMEBASE_LOCK` (R29): The timebase PLL first locks after power-on to the highest present source, and GLB_TIME starts at 0. -/
  | timebaseLock (timeref : Bool) (portA : Bool) (portB : Bool)
  /-- `TIMEREF_LOSS` (R29): A timebase source shows no edge for 200 ns; the PLL holds over and changes to the next present source. -/
  | timerefLoss (source : Fin 3)
  /-- `SOURCE_PRESENT` (R29): While in holdover, the first source to appear is taken within 100 µs of its first edge. -/
  | sourcePresent (source : Fin 3)
  /-- `SOURCE_RETAKE` (R29): A higher source has been present and stable for 10 ms and is taken back without stepping GLB_TIME. -/
  | sourceRetake (source : Fin 3)
  /-- `COMPARATOR_FIRE` (R39): GLB_TIME reaches an enabled comparator's target; the comparator signals its fence, raises its vector and clears EN. -/
  | comparatorFire (n : Fin 64)
  /-- `WINDOW_WRITE` (R41): A host or core write of record words into a queue window staging slot, dropped if it comes from the wrong port or is misaligned. -/
  | windowWrite (origin : Origin) (q : QId) (offset : BitVec 18) (bytes : List Byte)
  /-- `SEAL` (R43): A seal word written into a slot is checked, and the record is accepted, held or rejected. -/
  | seal (origin : Origin) (q : QId) (slot : BitVec 12) (word : W64)
  /-- `NOP` (R49): The queue command that does nothing but complete, and signal if asked. -/
  | nop (q : QId)
  /-- `FENCE_SIGNAL` (R55): The command signals a fence by set-max or add, optionally clearing ERR in the same update. -/
  | fenceSignal (q : QId)
  /-- `FENCE_WAIT` (R56): The command waits on a fence for a value with its own timeout and completes OK when satisfied with ERR clear. -/
  | fenceWait (q : QId)
  /-- `WAIT_SATISFIED` (R56): A waiting record's fence reaches its wait value; the record runs, or completes FENCED if ERR is set. -/
  | waitSatisfied (q : QId)
  /-- `WAIT_TIMEOUT` (R56): A fence wait reaches its tick limit with the value short and completes TIMEOUT. -/
  | waitTimeout (q : QId)
  /-- `IRQ_DELAY_EXPIRY` (R61): The moderation DELAY after the oldest unreported completion passes, and the queue's vector is raised. -/
  | irqDelayExpiry (q : QId)
  /-- `TX_BEGIN` (R66): The queue command opens a configuration transaction of a scope and returns a handle. -/
  | txBegin (q : QId)
  /-- `TX_COMMIT` (R68): The queue command validates the staged state and then waits for quiescence of the affected units. -/
  | txCommit (q : QId)
  /-- `ORDERING_POINT` (R68): Once quiescence is reached, every staged value is applied at one instant and held records proceed. -/
  | orderingPoint (handle : BitVec 16) (readBackFails : Bool)
  /-- `COMMIT_TIMEOUT` (R70): Quiescence is not reached within the commit timeout; the commit completes TIMEOUT and rolls back. -/
  | commitTimeout (handle : BitVec 16)
  /-- `TX_ABORT` (R70): The queue command rolls back an open transaction that has not reached its ordering point. -/
  | txAbort (q : QId)
  /-- `SET` (R50): The command writes masked register bits at once, or stages them in an open transaction. -/
  | set (q : QId)
  /-- `GET` (R50): The command returns a register value, or its value after commit when a TX is given. -/
  | get (q : QId)
  /-- `CAST_STAGE` (R113): The command checks a cast image header and stages the image into the standby slots through the hot set. -/
  | castStage (q : QId)
  /-- `CAST_STAGE_COMPLETE` (R113): Staging movers finish; the digest and program checks decide, and the slots end READY, DEFERRED or EMPTY. -/
  | castStageComplete (firstDale : DaleId)
  /-- `CAST_SWITCH` (R114): The command checks the standby slots and waits for runs in flight on the named Dales. -/
  | castSwitch (q : QId)
  /-- `CAST_SWAP` (R114): With runs drained and any deferred preload written, the active and standby slots swap at one instant. -/
  | castSwap (firstDale : DaleId)
  /-- `CAST_RUN` (R115): The command runs steps of the active cast on the named Dales with an argument block. -/
  | castRun (q : QId)
  /-- `CAST_EVICT` (R115): The command evicts the active or standby slot, ending a stage that is loading. -/
  | castEvict (q : QId)
  /-- `DALE_ZEROING_COMPLETE` (R116): The Terrace zeroing of a Dale that moved to another job completes, and waiting stages may proceed. -/
  | daleZeroingComplete (d : DaleId)
  /-- `MOVE` (R106): The command copies data between block lists with layout conversion only. -/
  | move (q : QId)
  /-- `FILL` (R106): The command fills a destination block list with a pattern. -/
  | fill (q : QId)
  /-- `MAP` (R51): The command writes consecutive leaf entries from a template after checking ownership and quota. -/
  | map (q : QId)
  /-- `UNMAP` (R96): MAP with bit 32 set clears the leaf groups of the named pages. -/
  | unmap (q : QId)
  /-- `CORE_RUN` (R53): The command starts the named Armature cores at an entry address and completes when all have exited. -/
  | coreRun (q : QId)
  /-- `CORE_RUN_TIMEOUT` (R53): A core run reaches its timeout; the cores are reset and the run completes TIMEOUT. -/
  | coreRunTimeout (q : QId) (seq : BitVec 48)
  /-- `REQ_ADMIT` (R383): The command checks an admission image and writes a request table entry. -/
  | reqAdmit (q : QId)
  /-- `REQ_CANCEL` (R407): The command cancels a request by index and GEN, or completes CANCEL_LATE. -/
  | reqCancel (q : QId)
  /-- `SERVE_START` (R385): The command runs serving steps on a model binding until the step count or STOP. -/
  | serveStart (q : QId)
  /-- `REQ_QUERY` (R384): The command returns word 0 of a request entry and writes a snapshot copy of the entry. -/
  | reqQuery (q : QId)
  /-- `RING_RUN` (R321): The command starts a Meander ring run that circulates KV streams around a ring group. -/
  | ringRun (q : QId)
  /-- `PLAN` (R351): The ROUTE phase that chooses experts, assigns slots and writes the plan area. -/
  | plan (q : QId)
  /-- `DISPATCH` (R363): The ROUTE phase that sends remote accepted rows and end markers to the expert group members. -/
  | dispatch (q : QId)
  /-- `RETURN` (R364): The ROUTE phase that sends expert output rows back to their source members. -/
  | routeReturn (q : QId)
  /-- `ROUTE_LIMIT` (R368): End markers are still missing after WSU_G_LIMIT ticks, and the phase completes TIMEOUT. -/
  | routeLimit (g : GroupId)
  /-- `SORTER_GRANT` (R367): The prefix-sum sorter is granted for one whole sort to the Watershed unit or the sampler. -/
  | sorterGrant (sampler : Bool)
  /-- `ALL_REDUCE` (R475): The COLLECTIVE operation that reduces all members' sources into every destination. -/
  | allReduce (q : QId)
  /-- `REDUCE_SCATTER` (R475): The COLLECTIVE operation that leaves part k of the reduction on member k. -/
  | reduceScatter (q : QId)
  /-- `ALL_GATHER` (R475): The COLLECTIVE operation that gathers every member's source on each member. -/
  | allGather (q : QId)
  /-- `BROADCAST` (R483): The COLLECTIVE operation that sends the root's source down a multicast tree. -/
  | broadcast (q : QId)
  /-- `ALL_TO_ALL` (R475): The COLLECTIVE operation in which each member's part j goes to member j. -/
  | allToAll (q : QId)
  /-- `BARRIER` (R475): The COLLECTIVE operation that completes once every member has started it. -/
  | barrier (q : QId)
  /-- `ORDER_TIMEOUT` (R479): A pending collective entry has not heard from all members within ORDER_TIMEOUT; it completes COLL_ORDER or is discarded. -/
  | orderTimeout (e : Nat)
  /-- `LAG_LIMIT` (R483): A DETACH broadcast branch stays full for LAG_LIMIT µs and is cut, completing its subtree LAGGARD. -/
  | lagLimit (e : Nat) (branch : Fin 4)
  /-- `SLOT_FIRING` (R136): A switch box fires slot j of its frame once its in-domain inputs have delivered and its outputs have acknowledged. -/
  | slotFiring (d : DaleId) (site : SiteId)
  /-- `TOKEN_DELIVERY` (R145): A token arrives at a unit or steering element port, has TAG_OP applied, and is admitted or dropped by the tag window. -/
  | tokenDelivery (d : DaleId) (site : SiteId) (port : Fin 14)
  /-- `CREDIT_RETURN` (R152): A credit reaches a channel producer, or refills from a spill region. -/
  | creditReturn (d : DaleId) (chan : Fin 4096)
  /-- `STEER` (R149): A STEER element fires for a tag and routes its data tokens to output 0 or 1. -/
  | steer (d : DaleId) (site : SiteId) (element : Fin 2) (tag : BitVec 16)
  /-- `JOIN` (R150): A JOIN element fires for a tag in PRED or MERGE mode and passes the selected tokens. -/
  | join (d : DaleId) (site : SiteId) (element : Fin 2) (tag : BitVec 16)
  /-- `TASK_SWITCH` (R189): A CU switches cooperatively to the next task that can issue, taking 4 firings. -/
  | taskSwitch (cu : UnitId)
  /-- `CAST_STEP_END` (R158): Every unit of a cast has finished its step; residue is discarded and the next step or completion follows. -/
  | castStepEnd (firstDale : DaleId)
  /-- `STALL_LIMIT` (R160): A channel has been blocked for 2^STALL_LOG2 ticks; the cast stops and the run completes STALLED. -/
  | stallLimit (firstDale : DaleId)
  /-- `STEP_LIMIT` (R161): A step reaches its step limit in ticks; the cast stops and the run completes TIMEOUT. -/
  | stepLimit (firstDale : DaleId)
  /-- `END` (R264): The stage instruction that ends the task's program for the step. -/
  | cuEnd (cu : UnitId)
  /-- `NEXT` (R263): The stage instruction that advances the task's tag base and discards tokens behind it. -/
  | cuNext (cu : UnitId)
  /-- `JMP` (R264): The stage instruction that jumps to TARGET. -/
  | cuJmp (cu : UnitId)
  /-- `BFIRST` (R264): The stage instruction that jumps when FIRST is 1. -/
  | cuBfirst (cu : UnitId)
  /-- `SETL` (R269): The stage instruction that sets a loop register. -/
  | cuSetl (cu : UnitId)
  /-- `LOOP` (R264): The stage instruction that decrements a loop register and branches. -/
  | cuLoop (cu : UnitId)
  /-- `MM` (R268): The two-word matrix instruction that issues C = A × B into an accumulator bank. -/
  | cuMm (cu : UnitId)
  /-- `MM_COMPLETE` (R173): A matrix instruction finishes its k steps, releasing waiting drains and loads. -/
  | mmComplete (cu : UnitId)
  /-- `LDB` (R180): The stage instruction that loads tokens from an input port into buffer lines. -/
  | cuLdb (cu : UnitId)
  /-- `LDS` (R180): The stage instruction that loads scale tokens into the scale store. -/
  | cuLds (cu : UnitId)
  /-- `STB` (R269): The stage instruction that writes a vector register's bytes into buffer lines. -/
  | cuStb (cu : UnitId)
  /-- `STS` (R269): The stage instruction that writes vector register bytes into the scale store. -/
  | cuSts (cu : UnitId)
  /-- `DRAIN` (R182): The stage instruction that copies a bank row into a vector register. -/
  | cuDrain (cu : UnitId)
  /-- `BLOAD` (R182): The stage instruction that copies a vector register into a bank row. -/
  | cuBload (cu : UnitId)
  /-- `ADD` (R185): The vector instruction that adds in binary32. -/
  | cuAdd (cu : UnitId)
  /-- `MUL` (R185): The vector instruction that multiplies in binary32. -/
  | cuMul (cu : UnitId)
  /-- `FMA` (R185): The vector instruction that does a fused multiply-add with one rounding. -/
  | cuFma (cu : UnitId)
  /-- `EXP2` (R185): The vector instruction that computes 2^x. -/
  | cuExp2 (cu : UnitId)
  /-- `RCP` (R185): The vector instruction that computes a reciprocal. -/
  | cuRcp (cu : UnitId)
  /-- `RSQRT` (R185): The vector instruction that computes a reciprocal square root. -/
  | cuRsqrt (cu : UnitId)
  /-- `MAX` (R185): The vector instruction that computes the IEEE 754-2019 maximum. -/
  | cuMax (cu : UnitId)
  /-- `CMP` (R185): The vector instruction that compares lanes into a mask register. -/
  | cuCmp (cu : UnitId)
  /-- `SEL` (R185): The vector instruction that selects per lane by mask. -/
  | cuSel (cu : UnitId)
  /-- `CVT` (R267): The vector instruction that converts between FP32 and a narrow format, with block and tensor scales. -/
  | cuCvt (cu : UnitId)
  /-- `RED` (R186): The vector instruction that sums or takes the maximum over 64 lanes in a fixed tree. -/
  | cuRed (cu : UnitId)
  /-- `ROWSUM` (R183): The vector instruction that adds the split-K part rows of a bank into effective rows. -/
  | cuRowsum (cu : UnitId)
  /-- `MOV` (R266): The vector instruction that copies a source, or receives tokens from a port, into a register. -/
  | cuMov (cu : UnitId)
  /-- `MOVI` (R266): The vector instruction that writes a 32-bit immediate into all lanes. -/
  | cuMovi (cu : UnitId)
  /-- `SEND` (R269): The stage instruction that sends a vector register or a control token on an output port. -/
  | cuSend (cu : UnitId)
  /-- `AFF_READ` (R208): The address-generator stream that reads an affine loop nest and sends tagged tokens. -/
  | affRead (mu : UnitId) (ag : Fin 4)
  /-- `AFF_WRITE` (R209): The address-generator stream that writes incoming tokens to an affine nest by tag. -/
  | affWrite (mu : UnitId) (ag : Fin 4)
  /-- `AFF_ADD` (R219): The address-generator stream that adds FP32 token lanes into Terrace lines. -/
  | affAdd (mu : UnitId) (ag : Fin 4)
  /-- `LIST_FETCH` (R210): The address-generator stream that fetches block-list data through translation into lines or a slot ring. -/
  | listFetch (mu : UnitId) (ag : Fin 4)
  /-- `LIST_STORE` (R210): The address-generator stream that stores Terrace lines or a ring to block-list addresses. -/
  | listStore (mu : UnitId) (ag : Fin 4)
  /-- `SYNC` (R276): The address-generator instruction that waits until another generator has completed c instructions. -/
  | muSync (mu : UnitId) (ag : Fin 4)
  /-- `AG_END` (R276): The END stream opcode that ends a generator's program for the step. -/
  | agEnd (mu : UnitId) (ag : Fin 4)
  /-- `PATROL_SCRUB` (R202): The patrol scrub reads a line in an idle firing and corrects or logs what it finds. -/
  | patrolScrub (mu : UnitId) (line : Nat) (outcome : Fin 3)
  /-- `HEAT_EPOCH` (R101): Every 2^EPOCH_LOG2 ticks all migration heat counters halve. -/
  | heatEpoch
  /-- `MIGRATION_PROMOTE` (R100): A hot Plain-resident migratable page is copied into a free migration pool frame. -/
  | migrationPromote (job : JobId) (va : W64)
  /-- `MIGRATION_DEMOTE` (R100): The coldest promoted page is demoted, and copied home only if it was written. -/
  | migrationDemote (job : JobId) (va : W64)
  /-- `MIGRATION_SWITCH` (R102): A completed migration copy holds accesses, rewrites the leaf, waits for caches and releases. -/
  | migrationSwitch (job : JobId) (va : W64)
  /-- `FZ_FREAD` (R285): The core instruction that reads a fence. -/
  | fzFread (c : CoreId) (rd : Fin 32) (rs1 : Fin 32)
  /-- `FZ_FWAIT` (R285): The core instruction that waits until a fence reaches a value. -/
  | fzFwait (c : CoreId) (rd : Fin 32) (rs1 : Fin 32) (rs2 : Fin 32)
  /-- `FZ_FWAIT_RETURN` (R284): A waiting FZ.FWAIT returns on the fence value and invalidates the core's clean lines. -/
  | fzFwaitReturn (c : CoreId)
  /-- `FZ_FSIG` (R285): The core instruction that writes back dirty lines and then signals a fence by set-max. -/
  | fzFsig (c : CoreId) (rs1 : Fin 32) (rs2 : Fin 32)
  /-- `FZ_FADD` (R285): The core instruction that writes back dirty lines and then adds to a fence. -/
  | fzFadd (c : CoreId) (rs1 : Fin 32) (rs2 : Fin 32)
  /-- `FZ_SEAL` (R286): The core instruction that writes a command record with its seal into a local queue window. -/
  | fzSeal (c : CoreId) (rd : Fin 32) (rs1 : Fin 32) (rs2 : Fin 32)
  /-- `FZ_XLATE` (R285): The core instruction that translates a virtual address without logging a fault. -/
  | fzXlate (c : CoreId) (rd : Fin 32) (rs1 : Fin 32)
  /-- `FZ_EXIT` (R288): The core instruction that ends the core's run with a value. -/
  | fzExit (c : CoreId) (rs1 : Fin 32)
  /-- `FZ_PACK` (R287): The core instruction that packs 64 FP32 values into the format of fzcfg. -/
  | fzPack (c : CoreId) (rd : Fin 32) (rs1 : Fin 32) (rs2 : Fin 32)
  /-- `FZ_UNPACK` (R285): The core instruction that unpacks a packed row and its scales into 64 FP32 values. -/
  | fzUnpack (c : CoreId) (rd : Fin 32) (rs1 : Fin 32) (rs2 : Fin 32)
  /-- `CORE_INSTRUCTION` (R283): An ordinary RV64GCV user-mode instruction executed by an Armature core. -/
  | coreInstruction (c : CoreId) (act : CoreAct)
  /-- `CORE_TRAP` (R288): A core exception ends the core run at once and resets the other named cores. -/
  | coreTrap (c : CoreId) (cause : BitVec 8)
  /-- `BATCH_FORMATION` (R390): The serving unit orders candidates, includes those that fit, grows pages and writes the step batch. -/
  | batchFormation (m : BindId)
  /-- `DRAFT_PASS` (R386): A step of the draft cast on its batch, followed by the sampler's proposals. -/
  | draftPass (m : BindId)
  /-- `SAMPLER_PASS` (R398): After the target step, the sampler samples logit rows and verifies drafts. -/
  | samplerPass (m : BindId)
  /-- `COMMIT_POINT` (R400): The serving step commits lengths, pending tokens and counts, writes output records and decides request ends. -/
  | commitPoint (m : BindId)
  /-- `FEED_RECORD` (R403): The follower reads its feed ring slot and takes, waits on or skips a mirrored record. -/
  | feedRecord (m : BindId)
  /-- `RANGE_RELEASE` (R303): An ended request's range is unmapped, its caches drained and its pages pushed, and the entry becomes FREE. -/
  | rangeRelease (e : BitVec 16)
  /-- `STEP_WORD` (R333): The Meander engine reads a step word written by the cast and counts the step done. -/
  | stepWord (g : GroupId) (index : Nat)
  /-- `RING_FEED` (R334): With all step words done, the engine feeds partial records with combine lanes into the feed ring. -/
  | ringFeed (g : GroupId)
  /-- `RING_STALL` (R336): A ring step or the feed exceeds RING_STALL ticks; the run aborts with a notice and completes RING_STALL. -/
  | ringStall (g : GroupId)
  /-- `RING_SETUP` (R325): A neighbour's setup message is received and compared against this member's slice of the ring. -/
  | ringSetup (g : GroupId) (m : RingSetupMsg)
  /-- `RING_BLOCK` (R327): A segment of a circulating block is received and written into a lane ring slot. -/
  | ringBlock (g : GroupId) (m : RingBlockMsg)
  /-- `RING_GRANT` (R328): The successor grants a free lane slot, allowing one block to be forwarded. -/
  | ringGrant (g : GroupId) (lane : Nat)
  /-- `RING_ACK` (R326): The successor acknowledges a forwarded block. -/
  | ringAck (g : GroupId) (lane : Nat)
  /-- `RING_ABORT` (R338): A received ring-abort notice is passed on and ends the run MEMBER_LOST or RING_STALL. -/
  | ringAbort (g : GroupId) (runId : BitVec 32) (cause : Fin 4) (member : Nat) (fromPred : Bool)
  /-- `ROUTE_ROW` (R444): A segment of an expert row is received and written, with its tag after the last segment. -/
  | routeRow (g : GroupId) (m : RouteRowMsg)
  /-- `ROUTE_END` (R365): A member's end marker arrives, possibly completing the receiver's DISPATCH or RETURN. -/
  | routeEnd (g : GroupId) (src : Nat) (phase : Nat) (hdr : RouteHdr) (xid : BitVec 32)
  /-- `COLL_STEP` (R478): A collective step message arrives and is matched by tag, held in the early store, or refused. -/
  | collStep (m : CollStepMsg)
  /-- `COLL_CREDIT` (R483): A collective credit arrives and lets the sender continue a step or branch. -/
  | collCredit (gid : BitVec 16) (seq : BitVec 32) (src : Nat) (code : Fin 5)
  /-- `READ` (R466): An inbound remote read is checked against export windows and answered. -/
  | read (m : Msg)
  /-- `READ_DATA` (R469): A read response arrives at the issuer with data or an error status. -/
  | readData (m : Msg)
  /-- `WRITE` (R466): An inbound remote write is checked against export windows, applied in lines and acknowledged. -/
  | write (m : Msg)
  /-- `WRITE_ACK` (R462): A write acknowledgement arrives at the issuer. -/
  | writeAck (m : Msg)
  /-- `ATOMIC` (R464): An inbound remote atomic is performed on a Basin word and the old value is returned. -/
  | atomic (m : Msg)
  /-- `ATOMIC_DATA` (R469): An atomic response arrives at the issuer. -/
  | atomicData (m : Msg)
  /-- `TILE_PUT` (R468): An inbound tile put writes Terrace lines or a slot-ring slot, or is refused BUSY. -/
  | tilePut (m : Msg)
  /-- `TILE_ACK` (R469): A tile-put acknowledgement arrives at the issuer. -/
  | tileAck (m : Msg)
  /-- `RING_PUT_RESEND` (R468): 1 µs after a BUSY refusal, the issuer resends the ring put. -/
  | ringPutResend (xid : BitVec 32)
  /-- `RM_TIMEOUT` (R470): A remote response is missing after RM_TIMEOUT_US, and the command completes TIMEOUT. -/
  | rmTimeout (xid : BitVec 32)
  /-- `FAULT_NOTICE` (R539): A fault notice is received, forwarded if new, and may add a lost chip or trigger promotion or stop. -/
  | faultNotice (m : Msg)
  /-- `GOING_DOWN` (R538): A power-fail notice from a chip is received and the chip enters the lost set. -/
  | goingDown (m : Msg)
  /-- `UNREACHABLE` (R441): An unreachable notice is received, and the command concerned completes MEMBER_LOST. -/
  | unreachable (m : Msg)
  /-- `P_DATA` (R447): A Plain read response arrives with good, poisoned, out-of-range or error status. -/
  | pData (m : PlainRsp)
  /-- `P_WACK` (R447): A Plain write completion arrives with its status. -/
  | pWack (m : PlainRsp)
  /-- `PLAIN_TIMEOUT` (R447): A Plain request is unanswered after TIMEOUT_US, and its command completes TIMEOUT. -/
  | plainTimeout (link : LinkId) (xid : BitVec 32)
  /-- `FLIT` (R433): A received flit is checked, delivered or NAKed, and its ACK and credit totals are taken. -/
  | flit (l : LinkId) (f : Flit)
  /-- `LIGHT_DETECTED` (R428): A DARK link detects receive light and enters TUNE. -/
  | lightDetected (l : LinkId)
  /-- `LIGHT_LOSS` (R429): Loss of receive light returns the link to DARK, and its port resends unacknowledged messages. -/
  | lightLoss (l : LinkId)
  /-- `TUNING_LOOP` (R423): Every 2 µs the tuning loop adjusts each ring heater. -/
  | tuningLoop (l : LinkId) (settings : List Nat)
  /-- `RING_LOCK_LOST` (R423): A ring stays outside its lock threshold for 100 µs or hits its heater limit, and the link leaves UP for TUNE. -/
  | ringLockLost (l : LinkId) (ring : Fin 8)
  /-- `RINGS_LOCKED` (R428): All rings of a link lock in TUNE; the link sends the training pattern and enters ALIGN. -/
  | ringsLocked (l : LinkId)
  /-- `PATTERN_DETECTED` (R428): The peer's training pattern is first detected, starting the ALIGN limit. -/
  | patternDetected (l : LinkId)
  /-- `CODEWORD_LOCK` (R428): Equalisers adapt and FEC codeword lock is reached on all wavelengths; the link enters IDENT. -/
  | codewordLock (l : LinkId)
  /-- `IDENT` (R430): The identity exchange completes and the link proceeds to CREDIT or holds with MISMATCH. -/
  | ident (l : LinkId) (info : IdentInfo)
  /-- `IDENT_RETRY` (R430): A mismatched link repeats the identity exchange every 10 ms. -/
  | identRetry (l : LinkId) (info : IdentInfo)
  /-- `CREDIT` (R428): Initial credits and replay positions are exchanged and the link enters UP. -/
  | credit (l : LinkId) (credits : List Nat) (replay : Nat)
  /-- `TRAINING_TIMEOUT` (R429): A TUNE, ALIGN or CREDIT limit expires; a failed attempt is counted and the third enters FAULTED. -/
  | trainingTimeout (l : LinkId)
  /-- `DRAIN_COMPLETE` (R428): A DRAIN link finishes its unacknowledged messages and goes to RECAL or OFF. -/
  | drainComplete (l : LinkId)
  /-- `RECAL_COMPLETE` (R428): In-service recalibration finishes and the link goes to TUNE. -/
  | recalComplete (l : LinkId)
  /-- `PORT_LOST` (R438): A logical port has had no carrying link for LOST_US µs; it is lost and its messages are returned. -/
  | portLost (p : LPort)
  /-- `LASER_LOW` (R422): A laser input wavelength falls below +13 dBm and ALT_LASER.LOW is set. -/
  | laserLow (l : Fin 12) (wave : Fin 8) (power : Int)
  /-- `CAL_VALIDITY_CHECK` (R547): Every 100 ms calibration records are checked and stale elements are queued for recalibration. -/
  | calValidityCheck
  /-- `RECALIBRATION` (R548): The supervisor firmware takes out and recalibrates a queued channel, link or site. -/
  | recalibration (kind : Nat) (element : Nat) (ok : Bool) (rec : CalRecord)
  /-- `COLUMN_RETIREMENT` (R530): Once the affected Dales are at rest, column states are copied east and the new column map takes effect. -/
  | columnRetirement (die : Fin 2)
  /-- `SADDLE_SPARE` (R532): A failed Saddle row link is replaced by a spare between two steps of its cast. -/
  | saddleSpare (die : Fin 2) (row : Fin 32)
  /-- `HBM_CHANNEL_REMAP` (R535): The copy of a retired HBM channel into the spare completes and the remap takes effect at one instant. -/
  | hbmChannelRemap (die : Fin 2)
  /-- `WARM_RESTART` (R537): A DEVICE fault stops the device, fences its chip and restarts the supervisor firmware. -/
  | warmRestart
  /-- `FW_CORE_READY` (R549): A rolling supervisor core reports ready on the new image and the roll continues. -/
  | fwCoreReady (core : Fin 4)
  /-- `FW_CORE_TIMEOUT` (R549): A rolling core does not report ready within 500 ms, and the roll is abandoned. -/
  | fwCoreTimeout (core : Fin 4)
  /-- `PERST_N` (R501): PERST_N_A or PERST_N_B is asserted and the port is lost. -/
  | perstN (p : PortId)
  /-- `FUNCTION_LEVEL_RESET` (R501): A function-level reset of a port makes it lost. -/
  | functionLevelReset (p : PortId)
  /-- `SURPRISE_DOWN` (R501): The PCIe link leaves L0 without recovering, and the port is lost. -/
  | surpriseDown (p : PortId)
  /-- `D3HOT_ENTRY` (R501): The function enters D3hot, and the port is lost. -/
  | d3hotEntry (p : PortId)
  /-- `PORT_RETURN` (R502): A lost port returns to L0 with its function enabled; LOST clears and its queues restart. -/
  | portReturn (p : PortId) (speed : Fin 8) (width : Fin 32)
  /-- `BUS_MASTER_DISABLE` (R501): Bus Master Enable is cleared, and device writes to the port are discarded. -/
  | busMasterDisable (p : PortId)
  /-- `APERTURE_ACCESS` (R496): A BAR4 access is mapped through GLB_APERTURE to the local space, or refused. -/
  | apertureAccess (p : PortId) (offset : BitVec 36) (wr : Bool) (bytes : List Byte)
  /-- `MSIX_UNMASK` (R500): A masked vector entry or function is unmasked and its pending vector is sent. -/
  | msixUnmask (p : PortId) (vector : Option (Fin 2048))
  /-- `REGISTER_WRITE` (R16): A direct BAR0 or sideband write to a register without a row of its own, under its access code. -/
  | registerWrite (via : Via) (offset : BitVec 26) (size : Nat) (value : W64)
  /-- `GLB_TIME_LOW_READ` (R31): A 32-bit read of GLB_TIME bits [31:0] latches the high half into the port's shadow. -/
  | glbTimeLowRead (via : Via)
  /-- `GLB_MARGIN_READ` (R37): Reading GLB_MARGIN returns WORST and sets it back to 0xFF. -/
  | glbMarginRead (via : Via)
  /-- `FAB_SADDLE_STAT_READ` (R165): Reading FAB_SADDLE_STAT returns MAX_LEAD and sets it to 0. -/
  | fabSaddleStatRead (via : Via)
  /-- `ALT_LINK_FEC_READ` (R454): Reading ALT_LINK_FEC returns PEAK_SYM and clears it. -/
  | altLinkFecRead (via : Via) (l : LinkId)
  /-- `WSU_SORT_STAT_READ` (R377): Reading WSU_SORT_STAT returns MAX_WAIT and clears it. -/
  | wsuSortStatRead (via : Via)
  /-- `FLT_LOG_READ` (R523): Reading a fault-log entry through BAR0 marks it as read. -/
  | fltLogRead (via : Via) (e : Fin 256) (word : Fin 4)
  /-- `GLB_HWIN_SIZE_READ` (R499): A read of a host window size returns only after writes issued under its earlier value have left the port. -/
  | glbHwinSizeRead (reader : PortId) (p : PortId) (w : Fin 16)
  /-- `GLB_HWIN_WRITE` (R499): A direct write from its own port sets a host-granted window, ignored if invalid. -/
  | glbHwinWrite (via : Via) (p : PortId) (w : Fin 16) (size : Bool) (value : W64)
  /-- `GLB_APERTURE_WRITE` (R496): A direct write from its own port sets the aperture, ignored unless the job belongs to the port. -/
  | glbApertureWrite (via : Via) (p : PortId) (value : W64)
  /-- `GLB_CMP_CTRL_WRITE` (R39): An owner's write of a comparator control arms it, firing at once if its target is already reached. -/
  | glbCmpCtrlWrite (via : Via) (n : Fin 64) (value : W64)
  /-- `QE_Q_CQ_WRITE` (R76): A write of a queue's completion ring base, accepted only from the bound port with nothing in flight. -/
  | qeQCqWrite (via : Via) (q : QId) (value : W64)
  /-- `QE_Q_CQ_HEAD_WRITE` (R78): A host advance of CQ_HEAD frees completion entries unless it passes unwritten ones. -/
  | qeQCqHeadWrite (via : Via) (q : QId) (value : W64)
  /-- `SRV_OUT_HEAD_WRITE` (R419): A host advance of an output ring head frees room unless it passes unwritten records. -/
  | srvOutHeadWrite (via : Via) (o : QId) (value : W64)
  /-- `FLT_NAN_INFO_WRITE` (R250): Writing 1 to VALID clears the trap record, HALT and COUNT, and the held records proceed. -/
  | fltNanInfoWrite (via : Via) (n : JobId) (value : W64)
  /-- `TR_CCACHE_UNPIN` (R118): A SET from a job releases that job's pin on a hot-set entry. -/
  | trCcacheUnpin (q : QId)
  /-- `SRV_KV_PUSH` (R300): A write pushes a page of class c onto the job's free list, or is rejected. -/
  | srvKvPush (via : Via) (n : JobId) (value : W64)
  /-- `KV_LIST_DRAIN` (R300): A write with DRAIN set pops every page of class c and returns its granules to unused. -/
  | kvListDrain (via : Via) (n : JobId) (value : W64)
  /-- `STOP` (R413): Writing STOP ends a binding's SERVE_START at the next commit point. -/
  | stop (via : Via) (m : BindId)
  /-- `PROMOTE` (R405): Writing PROMOTE promotes every FOLLOW entry of the binding at its next commit point. -/
  | promote (via : Via) (m : BindId)
  /-- `PROMOTE_NOW` (R542): Writing PROMOTE_NOW starts a Pendant promotion regardless of AUTO. -/
  | promoteNow (via : Via)
  /-- `RECAL` (R450): A firmware write of RECAL drains a link and recalibrates it. -/
  | recal (via : Via) (l : LinkId)
  /-- `FULL_SEARCH` (R450): A firmware write of FULL_SEARCH makes the link's next TUNE ignore its record. -/
  | fullSearch (via : Via) (l : LinkId)
  /-- `ENTDAA` (R505): I3C dynamic address assignment gives the device target an address. -/
  | entdaa (address : BitVec 7)
  /-- `SET_ENDPOINT_ID` (R505): The MCTP control message that sets the transport's endpoint ID. -/
  | setEndpointId (transport : Fin 3) (eid : Byte)
  /-- `GET_ENDPOINT_ID` (R505): The MCTP control message that returns the endpoint ID. -/
  | getEndpointId (transport : Fin 3)
  /-- `GET_MCTP_VERSION_SUPPORT` (R505): The MCTP control message that returns the supported MCTP versions. -/
  | getMctpVersionSupport (transport : Fin 3)
  /-- `GET_MESSAGE_TYPE_SUPPORT` (R505): The MCTP control message that returns the supported message types. -/
  | getMessageTypeSupport (transport : Fin 3)
  /-- `GET_VENDOR_DEFINED_MESSAGE_SUPPORT` (R505): The MCTP control message that returns vendor-defined message support. -/
  | getVendorDefinedMessageSupport (transport : Fin 3)
  /-- `GET_INFO` (R507): The management message that returns capability, board, boot state and firmware versions. -/
  | getInfo (h : MgmtHdr) (opcode : Byte) (payload : List Byte)
  /-- `SESSION_OPEN` (R569): The management message that names a role and returns a device nonce. -/
  | sessionOpen (h : MgmtHdr) (payload : List Byte)
  /-- `SESSION_AUTH` (R569): The management message that checks the answer, opens a session, or counts an authentication failure. -/
  | sessionAuth (h : MgmtHdr) (payload : List Byte)
  /-- `SESSION_CLOSE` (R508): The management message that ends the session and rolls back its transaction. -/
  | sessionClose (h : MgmtHdr)
  /-- `HEARTBEAT` (R507): The management message that restarts the session inactivity timer. -/
  | heartbeat (h : MgmtHdr)
  /-- `REG_READ` (R507): The management message that reads up to 120 BAR0 registers. -/
  | regRead (h : MgmtHdr) (offsets : List W64)
  /-- `REG_WRITE` (R507): The management message that writes PWR and ALT_LINK_OPT registers directly. -/
  | regWrite (h : MgmtHdr) (offset : W64) (value : W64)
  /-- `MGMT_TX_BEGIN` (R507): The management TX_BEGIN that opens a PARTITION transaction in an Owner session from the rack manager. -/
  | mgmtTxBegin (h : MgmtHdr) (scope : Nat) (timeout : W64)
  /-- `TX_SET` (R507): The management message that stages up to 40 SET entries. -/
  | txSet (h : MgmtHdr) (entries : List SetEntry)
  /-- `MGMT_TX_COMMIT` (R507): The management TX_COMMIT that commits the session's transaction under R68. -/
  | mgmtTxCommit (h : MgmtHdr)
  /-- `MGMT_TX_ABORT` (R507): The management TX_ABORT that rolls back the session's transaction. -/
  | mgmtTxAbort (h : MgmtHdr)
  /-- `FAULT_LOG` (R507): The management message that returns fault-log entries from an index onward. -/
  | faultLog (h : MgmtHdr) (index : Nat)
  /-- `TELEMETRY` (R507): The management message that returns power, temperatures, rates and link states. -/
  | telemetry (h : MgmtHdr)
  /-- `ATTEST` (R568): The management message that returns a signed attestation report over the caller's nonce. -/
  | attest (h : MgmtHdr) (nonce : List Byte)
  /-- `FW_STAGE` (R562): The management message that writes part of the inactive firmware image. -/
  | fwStage (h : MgmtHdr) (offset : Nat) (bytes : List Byte)
  /-- `FW_ACTIVATE` (R565): The management message that verifies the inactive image and starts the rolling update. -/
  | fwActivate (h : MgmtHdr)
  /-- `CAL_CTRL` (R507): The management message that requests recalibration of a named link or HBM channel. -/
  | calCtrl (h : MgmtHdr) (kind : Nat) (element : Nat)
  /-- `SESSION_TIMEOUT` (R508): A session has had no valid message for 30 s and ends. -/
  | sessionTimeout (r : RoleId)
  /-- `SESSION_EXPIRY` (R570): GLB_TIME reaches a session's expiry tick and the session ends. -/
  | sessionExpiry (r : RoleId)
  /-- `NONCE_EXPIRY` (R569): A pending role nonce lapses after 10 s. -/
  | nonceExpiry (r : RoleId)
  /-- `LOCKOUT_END` (R571): A role's authentication lock ends; its failure count returns to 0 and L increases. -/
  | lockoutEnd (r : RoleId)
  /-- `TIMEBASE_SLEW` (R30): While an offset remains, the timebase adds or withholds one tick in every 1,000, and ADJ_REMAIN shrinks toward zero. -/
  | timebaseSlew
  /-- `DATA_MOVER_DONE` (R106): A data mover finishes a block-list entry of a local MOVE or FILL, and the command completes after its last entry. -/
  | dataMoverDone (q : QId) (seq : BitVec 48)
  /-- `SORT_COMPLETE` (R367): A granted prefix-sum sort finishes, releasing the sorter to the other requester and letting the PLAN or the sampler's top-k continue. -/
  | sortComplete
  /-- `SADDLE_ROW_FAILURE` (R532): A Saddle row link fails, logging SADDLE_ROW, and is then spared between cast steps or, with both spares used, its row is fenced. -/
  | saddleRowFailure (die : Fin 2) (row : Fin 32)
  /-- `LASER_INPUT_RESTORED` (R422): Every wavelength of a laser input returns to +13 dBm or more, LOW clears, and the links it feeds may leave TUNE. -/
  | laserInputRestored (l : Fin 12) (power : Int)
  /-- `BUS_MASTER_ENABLE` (R501): The host sets Bus Master Enable again, and device writes to that port stop being discarded. -/
  | busMasterEnable (p : PortId)
  deriving DecidableEq, Repr

end Sys2Proof
end

