-- ==== Sys2Proof/Decode.lean ====
section
/-! DEFINITION. The word form of a command. The operation table gives no row any bits: a command of this block reaches it
as a write, a message, a record or an event, never as an encoded word. No word therefore spells a command. -/

namespace Sys2Proof

/-- The command that an `nbits`-bit word spells by the operation table: none, because no row of the table has bits. -/
def decodeTableWord (_nbits _w : Nat) : Option Instr := none

end Sys2Proof
end

