-- ==== Sys2Proof/Config.lean ====
section
/-! DEFINITION. The values the manual leaves open. A constant without a body is a free value: no proof can see what it
is, so a claim about it holds whatever it is. Each one is applied to the operands it depends on, or to the counter
`State.freeCtr`, which every draw advances. -/

namespace Sys2Proof.Config

/-- A fresh unconstrained number for each value of the counter. -/
opaque freeNat : Nat → Nat

/-- A byte of the board memory buffer that nothing has written (R599: "unpredictable"). -/
opaque plainByte : Nat → BitVec 8

/-- A byte of another chip's memory that no response has delivered. -/
opaque remoteByte : Nat → BitVec 8

/-- The last three header words of a message with values for which R442 gives no place, as a function of its type and its values. -/
opaque messageWords : Nat → List Nat → List (BitVec 8)

/-- Whether an SLH-DSA-SHAKE-256s signature over a message with a context string verifies under a public key (R563).
The manual names the algorithm and does not restate it. Arguments: public key, context, message, signature. -/
opaque slhVerify : List (BitVec 8) → List (BitVec 8) → List (BitVec 8) → List (BitVec 8) → Bool

/-- The SLH-DSA-SHAKE-256f signature that the signing engine makes with `ID_SK` (R568): 49,856 bytes over a message with
a context string. The counter stands for the randomness of the signer. -/
opaque slhSign : List (BitVec 8) → List (BitVec 8) → Nat → List (BitVec 8)

/-- SHAKE256 of the boot ROM contents (R567). The manual does not give the contents: 64 bytes, cut or filled by its user. -/
opaque romDigest : List (BitVec 8)

/-- A byte of the firmware store (slot B where `true`, offset) that no `FW_STAGE` has written (R562): what the manufacturer put
there, which the manual does not give. -/
opaque fwByte : Bool → Nat → BitVec 8

/-- The PCI-SIG vendor identifier of the manufacturer (R492, R506), which the manual does not give. -/
opaque vendorId : BitVec 16

/-- The data of the Get MCTP Version Support response (R505), which the manual does not give. -/
opaque mctpVersions : List (BitVec 8)

/-- The command set of the Get Vendor Defined Message Support response (R505), which the manual does not give. -/
opaque vendorCommandSet : BitVec 16

/-- The error, in units of the last place, of a vector function whose result the manual bounds and does not fix (R185):
opcode, operand, counter. A use reduces it into the bound the manual gives. -/
opaque ulpOffset : Nat → BitVec 32 → Nat → Int

end Sys2Proof.Config
end

