-- ==== Sys2Proof/Machine/Bits.lean ====
section
/-! DEFINITION. The helpers every family uses: fields of a 64-bit word, bytes and little-endian numbers, sparse maps
keyed by a natural number, and the cyclic redundancy checks the manual names. -/

namespace Sys2Proof.Machine

/-! ## Fields of a word -/

/-- The mask of `w` bits from bit `lo`. -/
def fieldMask (lo w : Nat) : W64 := ((1#64 <<< w) - 1#64) <<< lo

/-- The value of the `w` bits of `x` from bit `lo`. -/
def bitsOf (x : W64) (lo w : Nat) : Nat := (x.toNat >>> lo) % 2 ^ w

/-- `x` with its `w` bits from bit `lo` set to `v` (modulo `2^w`). -/
def setBits (x : W64) (lo w v : Nat) : W64 :=
  (x &&& ~~~ fieldMask lo w) ||| ((BitVec.ofNat 64 v <<< lo) &&& fieldMask lo w)

/-- Bit `i` of `x`. -/
def bitOf (x : W64) (i : Nat) : Bool := x.toNat.testBit i

/-- The bits of `new` where `mask` is 1 and those of `old` where it is 0. -/
def mergeMask (old new mask : W64) : W64 := (old &&& ~~~ mask) ||| (new &&& mask)

/-- `v` capped at the largest value of `w` bits: the manual's saturating counters. -/
def satTo (w v : Nat) : Nat := if v < 2 ^ w then v else 2 ^ w - 1

/-- The two's complement value of the `w` low bits of `v`. -/
def signedOf (w v : Nat) : Int :=
  let u := v % 2 ^ w
  if w ≠ 0 ∧ 2 ^ (w - 1) ≤ u then (u : Int) - (2 ^ w : Nat) else u

/-- The `w`-bit two's complement encoding of `v`. -/
def encodeSigned (w : Nat) (v : Int) : Nat := (v % ((2 ^ w : Nat) : Int)).toNat

/-- Rounding up of a quotient. -/
def ceilDiv (a b : Nat) : Nat := (a + b - 1) / b

/-- `⌈log2 n⌉`, with 0 for 0 and 1. -/
def clog2 (n : Nat) : Nat := if n ≤ 1 then 0 else Nat.log2 (n - 1) + 1

/-- `a` rounded up to a multiple of `b`. -/
def roundUp (a b : Nat) : Nat := ceilDiv a b * b

/-- The low bits `0 .. n-1` set in `m`, in rising order. -/
def maskList (m : Nat) (n : Nat) : List Nat := (List.range n).filter (fun i => m.testBit i)

/-! ## Bytes -/

/-- The little-endian value of a list of bytes. -/
def leNat : List Byte → Nat
  | [] => 0
  | b :: bs => b.toNat + 256 * leNat bs

/-- The `n` little-endian bytes of `v`. -/
def leBytes : Nat → Nat → List Byte
  | 0, _ => []
  | n + 1, v => BitVec.ofNat 8 v :: leBytes n (v / 256)

/-- The little-endian word of the first 8 bytes. -/
def leWord (bs : List Byte) : W64 := BitVec.ofNat 64 (leNat (bs.take 8))

/-- The bytes of `n` words from a list of bytes. -/
def leWords : Nat → List Byte → List W64
  | 0, _ => []
  | n + 1, bs => leWord bs :: leWords n (bs.drop 8)

/-- The bytes of a list of words, each little-endian. -/
def wordsBytes (ws : List W64) : List Byte := ws.flatMap (fun w => leBytes 8 w.toNat)

/-- `bs` cut or filled with zeros to `n` bytes. -/
def padTo (n : Nat) (bs : List Byte) : List Byte := bs.take n ++ List.replicate (n - bs.length) 0#8

/-- `n` bytes of `bs` from position `off`, with zeros past the end. -/
def slice (bs : List Byte) (off n : Nat) : List Byte := padTo n (bs.drop off)

/-- Element `i` of a list, or `d` outside it. -/
def nth {α : Type} (l : List α) (i : Nat) (d : α) : α := (l[i]?).getD d

/-- `l` with element `i` replaced; unchanged where there is none. -/
def setNth {α : Type} (l : List α) (i : Nat) (v : α) : List α := l.set i v

/-- `old` with `new` written over it from position `off`; what falls past the end of `old` is dropped. -/
def overlay (old : List Byte) (off : Nat) (new : List Byte) : List Byte :=
  let n := new.take (old.length - off)
  old.take off ++ n ++ old.drop (off + n.length)

/-- `l` cut into pieces of `n`; `fuel` bounds the number of pieces. -/
def chunksOf {α : Type} (n : Nat) : Nat → List α → List (List α)
  | 0, _ => []
  | fuel + 1, l => if l.isEmpty then [] else l.take n :: chunksOf n fuel (l.drop n)

/-! ## Sparse maps

A sparse map is a list of keys and values with strictly rising keys. -/

/-- A sparse map keyed by a number. -/
abbrev SMap (α : Type) := List (Nat × α)

/-- The value at a key. -/
def mget {α : Type} : SMap α → Nat → Option α
  | [], _ => none
  | (a, v) :: t, k => if a = k then some v else mget t k

/-- The value at a key, or `d` where the key is unlisted. -/
def mgetD {α : Type} (m : SMap α) (k : Nat) (d : α) : α := (mget m k).getD d

/-- The map with a value written at a key, in key order. -/
def mset {α : Type} : SMap α → Nat → α → SMap α
  | [], k, v => [(k, v)]
  | (a, w) :: t, k, v =>
    if a = k then (k, v) :: t
    else if k < a then (k, v) :: (a, w) :: t
    else (a, w) :: mset t k v

/-- The map without a key. -/
def merase {α : Type} : SMap α → Nat → SMap α
  | [], _ => []
  | (a, w) :: t, k => if a = k then t else (a, w) :: merase t k

/-- Keys strictly rise, and every key is above `lo` where one is given. -/
def msorted {α : Type} : SMap α → Bool
  | [] => true
  | [_] => true
  | (a, _) :: (b, w) :: t => a < b && msorted ((b, w) :: t)

/-- The map with every value at a key that satisfies `p` removed. -/
def mfilter {α : Type} (m : SMap α) (p : Nat → α → Bool) : SMap α := m.filter (fun x => p x.1 x.2)

/-- `f` applied to the value at a key, `d` standing for an unlisted key. -/
def mupd {α : Type} (m : SMap α) (k : Nat) (d : α) (f : α → α) : SMap α := mset m k (f (mgetD m k d))

/-! ## Sorted sets of numbers -/

/-- `k` put into a strictly rising list. -/
def sinsert : List Nat → Nat → List Nat
  | [], k => [k]
  | a :: t, k => if a = k then a :: t else if k < a then k :: a :: t else a :: sinsert t k

/-- `k` taken out of a list. -/
def sremove (l : List Nat) (k : Nat) : List Nat := l.filter (fun a => a != k)

/-! ## Cyclic redundancy checks -/

/-- One bit step of the CRC-16 of R42 (polynomial 0x1021, not reflected). -/
def crc16Bit (c : BitVec 16) : BitVec 16 :=
  if c.msb then (c <<< 1) ^^^ 0x1021#16 else c <<< 1

/-- One byte of the CRC-16 of R42. -/
def crc16Byte (c : BitVec 16) (b : Byte) : BitVec 16 :=
  let x := c ^^^ (b.setWidth 16 <<< 8)
  crc16Bit (crc16Bit (crc16Bit (crc16Bit (crc16Bit (crc16Bit (crc16Bit (crc16Bit x)))))))

/-- CRC-16/CCITT-FALSE (R42): polynomial 0x1021, initial value 0xFFFF, no reflection, no final XOR. -/
def crc16 (bs : List Byte) : BitVec 16 := bs.foldl crc16Byte 0xFFFF#16

/-- One bit step of the reflected CRC-32. -/
def crc32Bit (c : BitVec 32) : BitVec 32 :=
  if c.getLsbD 0 then (c >>> 1) ^^^ 0xEDB88320#32 else c >>> 1

/-- One byte of the reflected CRC-32. -/
def crc32Byte (c : BitVec 32) (b : Byte) : BitVec 32 :=
  let x := c ^^^ b.setWidth 32
  crc32Bit (crc32Bit (crc32Bit (crc32Bit (crc32Bit (crc32Bit (crc32Bit (crc32Bit x)))))))

/-- CRC-32 as in IEEE 802.3: polynomial 0x04C1_1DB7, reflected, initial value and final XOR of all ones. -/
def crc32 (bs : List Byte) : BitVec 32 := (bs.foldl crc32Byte 0xFFFFFFFF#32) ^^^ 0xFFFFFFFF#32

end Sys2Proof.Machine
end

