-- ==== Sys2Proof/Machine/Regs.lean ====
section
/-! DEFINITION. The BAR0 registers of the device: where each one lies, its fields, and each field's access code (R16),
reset value and transaction scope (R66), as the register tables of the manual give them. A register that the manual
gives with an index is one `Reg` with a stride and a count. The windows of the compute and memory units take the window
number of R192 and R222 as their first index. Where a table gives the reset as `Fuse`, `Strap` or `Firmware`, the table
here holds 0 and the value comes from `State.reset` or is computed when the register is read. -/

namespace Sys2Proof.Machine

/-- A register: its first offset in BAR0, and up to two strides with their counts. -/
structure Reg where
  base : Nat
  s1 : Nat
  n1 : Nat
  s2 : Nat
  n2 : Nat
  deriving DecidableEq, Repr

/-- A field of a register: its lowest bit and its width. -/
structure Field where
  reg : Reg
  lo : Nat
  width : Nat
  deriving DecidableEq, Repr

/-- The access codes of R16. -/
inductive Acc where
  | ro | rw | w1c | wo | rws | rwl
  deriving DecidableEq, Repr

/-- The scopes of R66, in the order of their codes. -/
inductive Scope where
  | partition | job | cast | serve
  deriving DecidableEq, Repr

/-- One row of a register table. -/
structure FieldInfo where
  lo : Nat
  width : Nat
  acc : Acc
  reset : Nat
  deriving DecidableEq, Repr

/-- One register table: the register, the scope of its `RWL` fields, and its fields. -/
structure RegInfo where
  reg : Reg
  scope : Scope
  fields : List FieldInfo
  deriving DecidableEq, Repr

/-- The BAR0 offset of a register at the given indexes. -/
def Reg.at (r : Reg) (i : Nat := 0) (j : Nat := 0) : Nat := r.base + r.s1 * i + r.s2 * j

/-! ## The registers -/

/-- `CAP_UNITS` (R10). -/
def R.CAP_UNITS : Reg := ⟨0x1000, 0x0, 1, 0x0, 1⟩
/-- `CAP_COUNTS` (R11). -/
def R.CAP_COUNTS : Reg := ⟨0x1008, 0x0, 1, 0x0, 1⟩
/-- `GLB_TIME` (R33). -/
def R.GLB_TIME : Reg := ⟨0x100, 0x0, 1, 0x0, 1⟩
/-- `GLB_TIME_ADJ` (R34). -/
def R.GLB_TIME_ADJ : Reg := ⟨0x108, 0x0, 1, 0x0, 1⟩
/-- `GLB_TIME_STATUS` (R35). -/
def R.GLB_TIME_STATUS : Reg := ⟨0x110, 0x0, 1, 0x0, 1⟩
/-- `GLB_RATE` (R36). -/
def R.GLB_RATE : Reg := ⟨0x118, 0x0, 1, 0x0, 1⟩
/-- `GLB_MARGIN` (R37). -/
def R.GLB_MARGIN : Reg := ⟨0x120, 0x0, 1, 0x0, 1⟩
/-- `GLB_CMP_TGT_n` (R38). -/
def R.GLB_CMP_TGT : Reg := ⟨0x800, 0x10, 64, 0x0, 1⟩
/-- `GLB_CMP_CTRL_n` (R39). -/
def R.GLB_CMP_CTRL : Reg := ⟨0x808, 0x10, 64, 0x0, 1⟩
/-- `QE_Q_CTRL_q` (R74). -/
def R.QE_Q_CTRL : Reg := ⟨0x100000, 0x40, 4096, 0x0, 1⟩
/-- `QE_Q_RING_q` (R75). -/
def R.QE_Q_RING : Reg := ⟨0x100008, 0x40, 4096, 0x0, 1⟩
/-- `QE_Q_CQ_q` (R76). -/
def R.QE_Q_CQ : Reg := ⟨0x100010, 0x40, 4096, 0x0, 1⟩
/-- `QE_Q_TAIL_q` (R77). -/
def R.QE_Q_TAIL : Reg := ⟨0x100018, 0x40, 4096, 0x0, 1⟩
/-- `QE_Q_HEAD_q` (R77). -/
def R.QE_Q_HEAD : Reg := ⟨0x100020, 0x40, 4096, 0x0, 1⟩
/-- `QE_Q_CQ_HEAD_q` (R78). -/
def R.QE_Q_CQ_HEAD : Reg := ⟨0x100028, 0x40, 4096, 0x0, 1⟩
/-- `QE_Q_IRQ_q` (R79). -/
def R.QE_Q_IRQ : Reg := ⟨0x100030, 0x40, 4096, 0x0, 1⟩
/-- `QE_Q_STAT_q` (R80). -/
def R.QE_Q_STAT : Reg := ⟨0x100038, 0x40, 4096, 0x0, 1⟩
/-- `QE_JOB_CTRL_n` (R81). -/
def R.QE_JOB_CTRL : Reg := ⟨0x140000, 0x40, 256, 0x0, 1⟩
/-- `QE_JOB_DALES_n` (R82). -/
def R.QE_JOB_DALES : Reg := ⟨0x140008, 0x40, 256, 0x0, 1⟩
/-- `QE_JOB_CORES_n` (R82). -/
def R.QE_JOB_CORES : Reg := ⟨0x140010, 0x40, 256, 0x0, 1⟩
/-- `QE_JOB_QUOTA_n` (R83). -/
def R.QE_JOB_QUOTA : Reg := ⟨0x140018, 0x40, 256, 0x0, 1⟩
/-- `QE_JOB_FENCE_n` (R83). -/
def R.QE_JOB_FENCE : Reg := ⟨0x140020, 0x40, 256, 0x0, 1⟩
/-- `QE_TX_STATE_s` (R84). -/
def R.QE_TX_STATE : Reg := ⟨0x160000, 0x8, 4, 0x0, 1⟩
/-- `QE_TX_CAST_n` (R84). -/
def R.QE_TX_CAST : Reg := ⟨0x161000, 0x8, 256, 0x0, 1⟩
/-- `QE_FENCE_f` (R85). -/
def R.QE_FENCE : Reg := ⟨0x180000, 0x8, 65536, 0x0, 1⟩
/-- `TR_CTX_n` (R121). -/
def R.TR_CTX : Reg := ⟨0x200000, 0x40, 256, 0x0, 1⟩
/-- `TR_MIG_POOL_n` (R122). -/
def R.TR_MIG_POOL : Reg := ⟨0x200008, 0x40, 256, 0x0, 1⟩
/-- `TR_MIG_STAT_n` (R123). -/
def R.TR_MIG_STAT : Reg := ⟨0x200010, 0x40, 256, 0x0, 1⟩
/-- `TR_FAULT_VA_n` (R124). -/
def R.TR_FAULT_VA : Reg := ⟨0x200018, 0x40, 256, 0x0, 1⟩
/-- `TR_FAULT_INFO_n` (R124). -/
def R.TR_FAULT_INFO : Reg := ⟨0x200020, 0x40, 256, 0x0, 1⟩
/-- `TR_BASIN_USED_n` (R125). -/
def R.TR_BASIN_USED : Reg := ⟨0x200028, 0x40, 256, 0x0, 1⟩
/-- `TR_MIG_CTRL` (R126). -/
def R.TR_MIG_CTRL : Reg := ⟨0x210000, 0x0, 1, 0x0, 1⟩
/-- `TR_CCACHE_CFG` (R127). -/
def R.TR_CCACHE_CFG : Reg := ⟨0x210008, 0x0, 1, 0x0, 1⟩
/-- `TR_CCACHE_STAT` (R127). -/
def R.TR_CCACHE_STAT : Reg := ⟨0x210010, 0x0, 1, 0x0, 1⟩
/-- `TR_CCACHE_HITS` (R127). -/
def R.TR_CCACHE_HITS : Reg := ⟨0x210018, 0x0, 1, 0x0, 1⟩
/-- `TR_CCACHE_UNPIN` (R128). -/
def R.TR_CCACHE_UNPIN : Reg := ⟨0x210020, 0x0, 1, 0x0, 1⟩
/-- `TR_BASIN_RSV` (R128). -/
def R.TR_BASIN_RSV : Reg := ⟨0x210028, 0x0, 1, 0x0, 1⟩
/-- `TR_SLOT_d` (R129). -/
def R.TR_SLOT : Reg := ⟨0x211000, 0x8, 32, 0x0, 1⟩
/-- `FAB_COL_MAP_W` (R164). -/
def R.FAB_COL_MAP_W : Reg := ⟨0x400000, 0x0, 1, 0x0, 1⟩
/-- `FAB_COL_MAP_E` (R164). -/
def R.FAB_COL_MAP_E : Reg := ⟨0x400008, 0x0, 1, 0x0, 1⟩
/-- `FAB_SADDLE_STAT` (R165). -/
def R.FAB_SADDLE_STAT : Reg := ⟨0x400010, 0x0, 1, 0x0, 1⟩
/-- `FAB_SADDLE_LINKS` (R166). -/
def R.FAB_SADDLE_LINKS : Reg := ⟨0x400018, 0x0, 1, 0x0, 1⟩
/-- `FAB_BORDER_d` (R167). -/
def R.FAB_BORDER : Reg := ⟨0x400100, 0x8, 32, 0x0, 1⟩
/-- `FAB_JOB_STAT_n` (R168). -/
def R.FAB_JOB_STAT : Reg := ⟨0x401000, 0x8, 256, 0x0, 1⟩
/-- `FAB_STALL_HEAD` (R169). -/
def R.FAB_STALL_HEAD : Reg := ⟨0x402000, 0x0, 1, 0x0, 1⟩
/-- `FAB_STALL_LOG_A_k` (R170). -/
def R.FAB_STALL_LOG_A : Reg := ⟨0x402100, 0x10, 16, 0x0, 1⟩
/-- `FAB_STALL_LOG_B_k` (R170). -/
def R.FAB_STALL_LOG_B : Reg := ⟨0x402108, 0x10, 16, 0x0, 1⟩
/-- `CU_ID` (R193). -/
def R.CU_ID : Reg := ⟨0x800000, 0x800, 1056, 0x0, 1⟩
/-- `CU_STAT` (R194). -/
def R.CU_STAT : Reg := ⟨0x800008, 0x800, 1056, 0x0, 1⟩
/-- `CU_TASK_t` (R195). -/
def R.CU_TASK : Reg := ⟨0x800010, 0x800, 1056, 0x8, 4⟩
/-- `CU_BANKS` (R196). -/
def R.CU_BANKS : Reg := ⟨0x800030, 0x800, 1056, 0x0, 1⟩
/-- `CU_MM_FIRINGS` (R197). -/
def R.CU_MM_FIRINGS : Reg := ⟨0x800038, 0x800, 1056, 0x0, 1⟩
/-- `CU_VEC_ISSUES` (R197). -/
def R.CU_VEC_ISSUES : Reg := ⟨0x800040, 0x800, 1056, 0x0, 1⟩
/-- `CU_SWITCHES` (R197). -/
def R.CU_SWITCHES : Reg := ⟨0x800048, 0x800, 1056, 0x0, 1⟩
/-- `CU_WAIT_TICKS` (R197). -/
def R.CU_WAIT_TICKS : Reg := ⟨0x800050, 0x800, 1056, 0x0, 1⟩
/-- `CU_ECC` (R198). -/
def R.CU_ECC : Reg := ⟨0x800058, 0x800, 1056, 0x0, 1⟩
/-- `MU_ID` (R223). -/
def R.MU_ID : Reg := ⟨0x1000000, 0x800, 1056, 0x0, 1⟩
/-- `MU_STAT` (R224). -/
def R.MU_STAT : Reg := ⟨0x1000008, 0x800, 1056, 0x0, 1⟩
/-- `MU_AG_a` (R225). -/
def R.MU_AG : Reg := ⟨0x1000010, 0x800, 1056, 0x8, 4⟩
/-- `MU_EXT_a` (R226). -/
def R.MU_EXT : Reg := ⟨0x1000030, 0x800, 1056, 0x8, 4⟩
/-- `MU_RING_GEOM_r` (R227). -/
def R.MU_RING_GEOM : Reg := ⟨0x1000050, 0x800, 1056, 0x10, 4⟩
/-- `MU_RING_PTR_r` (R228). -/
def R.MU_RING_PTR : Reg := ⟨0x1000058, 0x800, 1056, 0x10, 4⟩
/-- `MU_RING_OWN_r` (R229). -/
def R.MU_RING_OWN : Reg := ⟨0x1000090, 0x800, 1056, 0x8, 4⟩
/-- `MU_READ_LINES` (R230). -/
def R.MU_READ_LINES : Reg := ⟨0x10000b0, 0x800, 1056, 0x0, 1⟩
/-- `MU_WRITE_LINES` (R230). -/
def R.MU_WRITE_LINES : Reg := ⟨0x10000b8, 0x800, 1056, 0x0, 1⟩
/-- `MU_BANK_WAITS` (R230). -/
def R.MU_BANK_WAITS : Reg := ⟨0x10000c0, 0x800, 1056, 0x0, 1⟩
/-- `MU_PAD_LINES` (R230). -/
def R.MU_PAD_LINES : Reg := ⟨0x10000c8, 0x800, 1056, 0x0, 1⟩
/-- `MU_TLB_MISSES` (R230). -/
def R.MU_TLB_MISSES : Reg := ⟨0x10000d0, 0x800, 1056, 0x0, 1⟩
/-- `MU_ECC` (R231). -/
def R.MU_ECC : Reg := ⟨0x10000d8, 0x800, 1056, 0x0, 1⟩
/-- `FLT_NAN_CTRL_n` (R255). -/
def R.FLT_NAN_CTRL : Reg := ⟨0x1e80000, 0x40, 256, 0x0, 1⟩
/-- `FLT_NAN_INFO_n` (R256). -/
def R.FLT_NAN_INFO : Reg := ⟨0x1e80008, 0x40, 256, 0x0, 1⟩
/-- `FLT_NAN_WHERE_n` (R257). -/
def R.FLT_NAN_WHERE : Reg := ⟨0x1e80010, 0x40, 256, 0x0, 1⟩
/-- `FLT_NAN_CAST_n` (R258). -/
def R.FLT_NAN_CAST : Reg := ⟨0x1e80018, 0x40, 256, 0x0, 1⟩
/-- `FLT_NAN_OPS_n` (R259). -/
def R.FLT_NAN_OPS : Reg := ⟨0x1e80020, 0x40, 256, 0x0, 1⟩
/-- `FLT_NAN_OPX_n` (R259). -/
def R.FLT_NAN_OPX : Reg := ⟨0x1e80028, 0x40, 256, 0x0, 1⟩
/-- `FLT_NAN_TIME_n` (R258). -/
def R.FLT_NAN_TIME : Reg := ⟨0x1e80030, 0x40, 256, 0x0, 1⟩
/-- `SRV_KV_LAYOUT_j` (R311). -/
def R.SRV_KV_LAYOUT : Reg := ⟨0x1b00000, 0x8, 64, 0x0, 1⟩
/-- `SRV_KV_POOL_n` (R312). -/
def R.SRV_KV_POOL : Reg := ⟨0x1b01000, 0x20, 256, 0x0, 1⟩
/-- `SRV_KV_PUSH_n` (R313). -/
def R.SRV_KV_PUSH : Reg := ⟨0x1b01008, 0x20, 256, 0x0, 1⟩
/-- `SRV_KV_STAT_n` (R314). -/
def R.SRV_KV_STAT : Reg := ⟨0x1b01010, 0x20, 256, 0x0, 1⟩
/-- `SRV_FL_n_c` (R315). -/
def R.SRV_FL : Reg := ⟨0x1b10000, 0x100, 256, 0x8, 19⟩
/-- `MRE_G_CFG_g` (R342). -/
def R.MRE_G_CFG : Reg := ⟨0x1800000, 0x40, 16, 0x0, 1⟩
/-- `MRE_G_NBR_g` (R343). -/
def R.MRE_G_NBR : Reg := ⟨0x1800008, 0x40, 16, 0x0, 1⟩
/-- `MRE_G_SEQ_g` (R344). -/
def R.MRE_G_SEQ : Reg := ⟨0x1800010, 0x40, 16, 0x0, 1⟩
/-- `MRE_G_LIMIT_g` (R344). -/
def R.MRE_G_LIMIT : Reg := ⟨0x1800018, 0x40, 16, 0x0, 1⟩
/-- `MRE_G_STAT_g` (R345). -/
def R.MRE_G_STAT : Reg := ⟨0x1800020, 0x40, 16, 0x0, 1⟩
/-- `MRE_G_PROG_g` (R346). -/
def R.MRE_G_PROG : Reg := ⟨0x1800028, 0x40, 16, 0x0, 1⟩
/-- `MRE_G_STEPMAX_g` (R346). -/
def R.MRE_G_STEPMAX : Reg := ⟨0x1800030, 0x40, 16, 0x0, 1⟩
/-- `WSU_L_CFG_j` (R370). -/
def R.WSU_L_CFG : Reg := ⟨0x1900000, 0x20, 64, 0x0, 1⟩
/-- `WSU_L_PARAM_j` (R371). -/
def R.WSU_L_PARAM : Reg := ⟨0x1900008, 0x20, 64, 0x0, 1⟩
/-- `WSU_L_DROPS_j` (R372). -/
def R.WSU_L_DROPS : Reg := ⟨0x1900010, 0x20, 64, 0x0, 1⟩
/-- `WSU_G_CFG_g` (R373). -/
def R.WSU_G_CFG : Reg := ⟨0x1910000, 0x40, 16, 0x0, 1⟩
/-- `WSU_G_RECV_g` (R374). -/
def R.WSU_G_RECV : Reg := ⟨0x1910008, 0x40, 16, 0x0, 1⟩
/-- `WSU_G_RET_g` (R374). -/
def R.WSU_G_RET : Reg := ⟨0x1910010, 0x40, 16, 0x0, 1⟩
/-- `WSU_G_LIMIT_g` (R375). -/
def R.WSU_G_LIMIT : Reg := ⟨0x1910018, 0x40, 16, 0x0, 1⟩
/-- `WSU_G_STAT_g` (R376). -/
def R.WSU_G_STAT : Reg := ⟨0x1910020, 0x40, 16, 0x0, 1⟩
/-- `WSU_G_CHIPS_g_w` (R375). -/
def R.WSU_G_CHIPS : Reg := ⟨0x1920000, 0x80, 16, 0x8, 16⟩
/-- `WSU_SORT_STAT` (R377). -/
def R.WSU_SORT_STAT : Reg := ⟨0x1930000, 0x0, 1, 0x0, 1⟩
/-- `SRV_TABLE_STAT` (R418). -/
def R.SRV_TABLE_STAT : Reg := ⟨0x1a00000, 0x0, 1, 0x0, 1⟩
/-- `SRV_STOP_BASE` (R416). -/
def R.SRV_STOP_BASE : Reg := ⟨0x1a00008, 0x0, 1, 0x0, 1⟩
/-- `SRV_SPEC_STAT` (R418). -/
def R.SRV_SPEC_STAT : Reg := ⟨0x1a00010, 0x0, 1, 0x0, 1⟩
/-- `SRV_MODEL_CFG_m` (R411). -/
def R.SRV_MODEL_CFG : Reg := ⟨0x1a01000, 0x40, 64, 0x0, 1⟩
/-- `SRV_MODEL_BATCH_m` (R412). -/
def R.SRV_MODEL_BATCH : Reg := ⟨0x1a01008, 0x40, 64, 0x0, 1⟩
/-- `SRV_MODEL_LOGITS_m` (R412). -/
def R.SRV_MODEL_LOGITS : Reg := ⟨0x1a01010, 0x40, 64, 0x0, 1⟩
/-- `SRV_MODEL_ARGS_m` (R412). -/
def R.SRV_MODEL_ARGS : Reg := ⟨0x1a01018, 0x40, 64, 0x0, 1⟩
/-- `SRV_MODEL_LIMITS_m` (R412). -/
def R.SRV_MODEL_LIMITS : Reg := ⟨0x1a01020, 0x40, 64, 0x0, 1⟩
/-- `SRV_RUN_m` (R413). -/
def R.SRV_RUN : Reg := ⟨0x1a01028, 0x40, 64, 0x0, 1⟩
/-- `SRV_MIRROR_m` (R414). -/
def R.SRV_MIRROR : Reg := ⟨0x1a01030, 0x40, 64, 0x0, 1⟩
/-- `SRV_FEED_m` (R414). -/
def R.SRV_FEED : Reg := ⟨0x1a01038, 0x40, 64, 0x0, 1⟩
/-- `SRV_SAMP_i_w` (R415). -/
def R.SRV_SAMP0 : Reg := ⟨0x1a04000, 0x20, 256, 0x0, 1⟩
/-- `SRV_SAMP_i_w` (R415). -/
def R.SRV_SAMP1 : Reg := ⟨0x1a04008, 0x20, 256, 0x0, 1⟩
/-- `SRV_SAMP_i_w` (R415). -/
def R.SRV_SAMP2 : Reg := ⟨0x1a04010, 0x20, 256, 0x0, 1⟩
/-- `SRV_SAMP_i_w` (R415). -/
def R.SRV_SAMP3 : Reg := ⟨0x1a04018, 0x20, 256, 0x0, 1⟩
/-- `SRV_JOB_n` (R417). -/
def R.SRV_JOB : Reg := ⟨0x1a08000, 0x10, 256, 0x0, 1⟩
/-- `SRV_JOB_STAT_n` (R417). -/
def R.SRV_JOB_STAT : Reg := ⟨0x1a08008, 0x10, 256, 0x0, 1⟩
/-- `SRV_OUT_BASE_o` (R419). -/
def R.SRV_OUT_BASE : Reg := ⟨0x1a10000, 0x20, 4096, 0x0, 1⟩
/-- `SRV_OUT_CTRL_o` (R419). -/
def R.SRV_OUT_CTRL : Reg := ⟨0x1a10008, 0x20, 4096, 0x0, 1⟩
/-- `SRV_OUT_HEAD_o` (R419). -/
def R.SRV_OUT_HEAD : Reg := ⟨0x1a10010, 0x20, 4096, 0x0, 1⟩
/-- `SRV_OUT_TAIL_o` (R419). -/
def R.SRV_OUT_TAIL : Reg := ⟨0x1a10018, 0x20, 4096, 0x0, 1⟩
/-- `ALT_LINK_CTRL_l` (R450). -/
def R.ALT_LINK_CTRL : Reg := ⟨0x1c00000, 0x40, 22, 0x0, 1⟩
/-- `ALT_LINK_STAT_l` (R451). -/
def R.ALT_LINK_STAT : Reg := ⟨0x1c00008, 0x40, 22, 0x0, 1⟩
/-- `ALT_LINK_PEER_l` (R452). -/
def R.ALT_LINK_PEER : Reg := ⟨0x1c00010, 0x40, 22, 0x0, 1⟩
/-- `ALT_LINK_OPT_l` (R453). -/
def R.ALT_LINK_OPT : Reg := ⟨0x1c00018, 0x40, 22, 0x0, 1⟩
/-- `ALT_LINK_ERR_l` (R454). -/
def R.ALT_LINK_ERR : Reg := ⟨0x1c00020, 0x40, 22, 0x0, 1⟩
/-- `ALT_LINK_FEC_l` (R454). -/
def R.ALT_LINK_FEC : Reg := ⟨0x1c00028, 0x40, 22, 0x0, 1⟩
/-- `ALT_PORT_CFG_p` (R455). -/
def R.ALT_PORT_CFG : Reg := ⟨0x1c10000, 0x10, 8, 0x0, 1⟩
/-- `ALT_PORT_OWN_p` (R455). -/
def R.ALT_PORT_OWN : Reg := ⟨0x1c10008, 0x10, 8, 0x0, 1⟩
/-- `ALT_MESH` (R456). -/
def R.ALT_MESH : Reg := ⟨0x1c10100, 0x0, 1, 0x0, 1⟩
/-- `ALT_DIR_PORT` (R456). -/
def R.ALT_DIR_PORT : Reg := ⟨0x1c10108, 0x0, 1, 0x0, 1⟩
/-- `ALT_EXT` (R456). -/
def R.ALT_EXT : Reg := ⟨0x1c10110, 0x0, 1, 0x0, 1⟩
/-- `ALT_NET_STAT` (R457). -/
def R.ALT_NET_STAT : Reg := ⟨0x1c10118, 0x0, 1, 0x0, 1⟩
/-- `ALT_PORT_STAT_p` (R457). -/
def R.ALT_PORT_STAT : Reg := ⟨0x1c10200, 0x8, 8, 0x0, 1⟩
/-- `ALT_LASER_i` (R457). -/
def R.ALT_LASER : Reg := ⟨0x1c10300, 0x8, 12, 0x0, 1⟩
/-- `PLN_CAP` (R458). -/
def R.PLN_CAP : Reg := ⟨0x1d00000, 0x0, 1, 0x0, 1⟩
/-- `PLN_CFG` (R458). -/
def R.PLN_CFG : Reg := ⟨0x1d00008, 0x0, 1, 0x0, 1⟩
/-- `PLN_STAT` (R458). -/
def R.PLN_STAT : Reg := ⟨0x1d00010, 0x0, 1, 0x0, 1⟩
/-- `PLN_RSV_r` (R459). -/
def R.PLN_RSV : Reg := ⟨0x1d00100, 0x8, 16, 0x0, 1⟩
/-- `ALT_RM_CFG` (R487). -/
def R.ALT_RM_CFG : Reg := ⟨0x1c20000, 0x0, 1, 0x0, 1⟩
/-- `ALT_RM_STAT` (R488). -/
def R.ALT_RM_STAT : Reg := ⟨0x1c20008, 0x0, 1, 0x0, 1⟩
/-- `ALT_COLL_CFG` (R487). -/
def R.ALT_COLL_CFG : Reg := ⟨0x1c20010, 0x0, 1, 0x0, 1⟩
/-- `ALT_COLL_STAT` (R488). -/
def R.ALT_COLL_STAT : Reg := ⟨0x1c20018, 0x0, 1, 0x0, 1⟩
/-- `ALT_RM_WIN_BASE_w` (R489). -/
def R.ALT_RM_WIN_BASE : Reg := ⟨0x1c21000, 0x10, 64, 0x0, 1⟩
/-- `ALT_RM_WIN_CTRL_w` (R489). -/
def R.ALT_RM_WIN_CTRL : Reg := ⟨0x1c21008, 0x10, 64, 0x0, 1⟩
/-- `ALT_CG_CFG_g` (R490). -/
def R.ALT_CG_CFG : Reg := ⟨0x1c22000, 0x20, 64, 0x0, 1⟩
/-- `ALT_CG_GEOM_g` (R490). -/
def R.ALT_CG_GEOM : Reg := ⟨0x1c22008, 0x20, 64, 0x0, 1⟩
/-- `ALT_CG_LIST_g` (R490). -/
def R.ALT_CG_LIST : Reg := ⟨0x1c22010, 0x20, 64, 0x0, 1⟩
/-- `ALT_CG_STAT_g` (R491). -/
def R.ALT_CG_STAT : Reg := ⟨0x1c22018, 0x20, 64, 0x0, 1⟩
/-- `GLB_BOARD` (R515). -/
def R.GLB_BOARD : Reg := ⟨0x130, 0x0, 1, 0x0, 1⟩
/-- `GLB_PORT_STAT_p` (R516). -/
def R.GLB_PORT_STAT : Reg := ⟨0x200, 0x40, 2, 0x0, 1⟩
/-- `GLB_PORT_CFG_p` (R517). -/
def R.GLB_PORT_CFG : Reg := ⟨0x208, 0x40, 2, 0x0, 1⟩
/-- `GLB_APERTURE_p` (R518). -/
def R.GLB_APERTURE : Reg := ⟨0x210, 0x40, 2, 0x0, 1⟩
/-- `GLB_HWIN_BASE_p_w` (R519). -/
def R.GLB_HWIN_BASE : Reg := ⟨0xc00, 0x100, 2, 0x10, 16⟩
/-- `GLB_HWIN_SIZE_p_w` (R519). -/
def R.GLB_HWIN_SIZE : Reg := ⟨0xc08, 0x100, 2, 0x10, 16⟩
/-- `FLT_LOG_HEAD` (R553). -/
def R.FLT_LOG_HEAD : Reg := ⟨0x1e00000, 0x0, 1, 0x0, 1⟩
/-- `FLT_CLASS_CNT` (R553). -/
def R.FLT_CLASS_CNT : Reg := ⟨0x1e00008, 0x0, 1, 0x0, 1⟩
/-- `FLT_IRQ_p` (R554). -/
def R.FLT_IRQ : Reg := ⟨0x1e00010, 0x8, 2, 0x0, 1⟩
/-- `FLT_RECOV` (R555). -/
def R.FLT_RECOV : Reg := ⟨0x1e00020, 0x0, 1, 0x0, 1⟩
/-- `FLT_HBM` (R555). -/
def R.FLT_HBM : Reg := ⟨0x1e00028, 0x0, 1, 0x0, 1⟩
/-- `FLT_FAILED` (R556). -/
def R.FLT_FAILED : Reg := ⟨0x1e00030, 0x0, 1, 0x0, 1⟩
/-- `FLT_FAILED_CORES` (R556). -/
def R.FLT_FAILED_CORES : Reg := ⟨0x1e00038, 0x0, 1, 0x0, 1⟩
/-- `FLT_PENDANT` (R557). -/
def R.FLT_PENDANT : Reg := ⟨0x1e00040, 0x0, 1, 0x0, 1⟩
/-- `FLT_PROMOTE_MASK` (R557). -/
def R.FLT_PROMOTE_MASK : Reg := ⟨0x1e00048, 0x0, 1, 0x0, 1⟩
/-- `FLT_PENDANT_CMD` (R557). -/
def R.FLT_PENDANT_CMD : Reg := ⟨0x1e00050, 0x0, 1, 0x0, 1⟩
/-- `FLT_PENDANT_STAT` (R557). -/
def R.FLT_PENDANT_STAT : Reg := ⟨0x1e00058, 0x0, 1, 0x0, 1⟩
/-- `FLT_CAL_STAT` (R558). -/
def R.FLT_CAL_STAT : Reg := ⟨0x1e00060, 0x0, 1, 0x0, 1⟩
/-- `FLT_FW_STAT` (R558). -/
def R.FLT_FW_STAT : Reg := ⟨0x1e00068, 0x0, 1, 0x0, 1⟩
/-- `FLT_LOST_w` (R559). -/
def R.FLT_LOST : Reg := ⟨0x1e00400, 0x8, 64, 0x0, 1⟩
/-- `FLT_LOG_A_e` (R560). -/
def R.FLT_LOG_A : Reg := ⟨0x1e01000, 0x20, 256, 0x0, 1⟩
/-- `FLT_LOG_B_e` (R560). -/
def R.FLT_LOG_B : Reg := ⟨0x1e01008, 0x20, 256, 0x0, 1⟩
/-- `FLT_LOG_C_e` (R560). -/
def R.FLT_LOG_C : Reg := ⟨0x1e01010, 0x20, 256, 0x0, 1⟩
/-- `FLT_LOG_D_e` (R560). -/
def R.FLT_LOG_D : Reg := ⟨0x1e01018, 0x20, 256, 0x0, 1⟩
/-- `SEC_BOOT_STAT` (R576). -/
def R.SEC_BOOT_STAT : Reg := ⟨0x1f00000, 0x0, 1, 0x0, 1⟩
/-- `SEC_FUSES` (R576). -/
def R.SEC_FUSES : Reg := ⟨0x1f00008, 0x0, 1, 0x0, 1⟩
/-- `SEC_PLINTH_STAT` (R577). -/
def R.SEC_PLINTH_STAT : Reg := ⟨0x1f00010, 0x0, 1, 0x0, 1⟩
/-- `SEC_IDPK_w` (R577). -/
def R.SEC_IDPK : Reg := ⟨0x1f00040, 0x8, 8, 0x0, 1⟩
/-- `SEC_MEAS_r_w` (R577). -/
def R.SEC_MEAS : Reg := ⟨0x1f00100, 0x40, 4, 0x8, 8⟩
/-- `SEC_ROLE_r` (R578). -/
def R.SEC_ROLE : Reg := ⟨0x1f00200, 0x20, 3, 0x0, 1⟩
/-- `SEC_ROLE_TIME_r` (R578). -/
def R.SEC_ROLE_TIME : Reg := ⟨0x1f00208, 0x20, 3, 0x0, 1⟩
/-- `SEC_SESS_r` (R578). -/
def R.SEC_SESS : Reg := ⟨0x1f00210, 0x20, 3, 0x0, 1⟩
/-- `SEC_KEYNEW_w` (R579). -/
def R.SEC_KEYNEW : Reg := ⟨0x1f00300, 0x8, 4, 0x0, 1⟩
/-- `SEC_KEYNEW_CTRL` (R579). -/
def R.SEC_KEYNEW_CTRL : Reg := ⟨0x1f00320, 0x0, 1, 0x0, 1⟩
/-- `SEC_FENCE_w` (R579). -/
def R.SEC_FENCE : Reg := ⟨0x1f00400, 0x8, 64, 0x0, 1⟩
/-- `PWR_GOV` (R594). -/
def R.PWR_GOV : Reg := ⟨0x1f80000, 0x0, 1, 0x0, 1⟩
/-- `PWR_STAT` (R595). -/
def R.PWR_STAT : Reg := ⟨0x1f80008, 0x0, 1, 0x0, 1⟩
/-- `PWR_MEAS` (R595). -/
def R.PWR_MEAS : Reg := ⟨0x1f80010, 0x0, 1, 0x0, 1⟩
/-- `PWR_TEMP` (R596). -/
def R.PWR_TEMP : Reg := ⟨0x1f80018, 0x0, 1, 0x0, 1⟩
/-- `PWR_RAILS` (R597). -/
def R.PWR_RAILS : Reg := ⟨0x1f80020, 0x0, 1, 0x0, 1⟩
/-- `PWR_ENERGY` (R597). -/
def R.PWR_ENERGY : Reg := ⟨0x1f80028, 0x0, 1, 0x0, 1⟩

/-! ## The fields -/

/-! `CAP_UNITS` -/
/-- `CAP_UNITS.MRE_PRESENT`, RO (R10). -/
def F.CAP_UNITS_MRE_PRESENT : Field := ⟨R.CAP_UNITS, 0, 1⟩
/-- `CAP_UNITS.WSU_PRESENT`, RO (R10). -/
def F.CAP_UNITS_WSU_PRESENT : Field := ⟨R.CAP_UNITS, 1, 1⟩
/-- `CAP_UNITS.SAMPLER_PRESENT`, RO (R10). -/
def F.CAP_UNITS_SAMPLER_PRESENT : Field := ⟨R.CAP_UNITS, 2, 1⟩
/-- `CAP_UNITS.COLL_PRESENT`, RO (R10). -/
def F.CAP_UNITS_COLL_PRESENT : Field := ⟨R.CAP_UNITS, 3, 1⟩
/-- `CAP_UNITS.PART_CODE`, RO (R10). -/
def F.CAP_UNITS_PART_CODE : Field := ⟨R.CAP_UNITS, 8, 8⟩

/-! `CAP_COUNTS` -/
/-- `CAP_COUNTS.DALES`, RO (R11). -/
def F.CAP_COUNTS_DALES : Field := ⟨R.CAP_COUNTS, 0, 8⟩
/-- `CAP_COUNTS.CUS`, RO (R11). -/
def F.CAP_COUNTS_CUS : Field := ⟨R.CAP_COUNTS, 8, 16⟩
/-- `CAP_COUNTS.MUS`, RO (R11). -/
def F.CAP_COUNTS_MUS : Field := ⟨R.CAP_COUNTS, 24, 16⟩
/-- `CAP_COUNTS.HBM_STACKS`, RO (R11). -/
def F.CAP_COUNTS_HBM_STACKS : Field := ⟨R.CAP_COUNTS, 40, 4⟩
/-- `CAP_COUNTS.ALT_ACTIVE`, RO (R11). -/
def F.CAP_COUNTS_ALT_ACTIVE : Field := ⟨R.CAP_COUNTS, 44, 5⟩
/-- `CAP_COUNTS.ALT_SPARE`, RO (R11). -/
def F.CAP_COUNTS_ALT_SPARE : Field := ⟨R.CAP_COUNTS, 49, 2⟩
/-- `CAP_COUNTS.PLN_LINKS`, RO (R11). -/
def F.CAP_COUNTS_PLN_LINKS : Field := ⟨R.CAP_COUNTS, 51, 3⟩

/-! `GLB_TIME` -/
/-- `GLB_TIME.TICKS`, RO (R33). -/
def F.GLB_TIME_TICKS : Field := ⟨R.GLB_TIME, 0, 64⟩

/-! `GLB_TIME_ADJ` -/
/-- `GLB_TIME_ADJ.OFFSET`, RWL (R34). -/
def F.GLB_TIME_ADJ_OFFSET : Field := ⟨R.GLB_TIME_ADJ, 0, 32⟩

/-! `GLB_TIME_STATUS` -/
/-- `GLB_TIME_STATUS.SOURCE`, RO (R35). -/
def F.GLB_TIME_STATUS_SOURCE : Field := ⟨R.GLB_TIME_STATUS, 0, 2⟩
/-- `GLB_TIME_STATUS.HOLDOVER`, RO (R35). -/
def F.GLB_TIME_STATUS_HOLDOVER : Field := ⟨R.GLB_TIME_STATUS, 2, 1⟩
/-- `GLB_TIME_STATUS.SRC_CHANGED`, W1C (R35). -/
def F.GLB_TIME_STATUS_SRC_CHANGED : Field := ⟨R.GLB_TIME_STATUS, 3, 1⟩
/-- `GLB_TIME_STATUS.ADJ_REMAIN`, RO (R35). -/
def F.GLB_TIME_STATUS_ADJ_REMAIN : Field := ⟨R.GLB_TIME_STATUS, 8, 32⟩

/-! `GLB_RATE` -/
/-- `GLB_RATE.RATE_WEST`, RO (R36). -/
def F.GLB_RATE_RATE_WEST : Field := ⟨R.GLB_RATE, 0, 16⟩
/-- `GLB_RATE.RATE_EAST`, RO (R36). -/
def F.GLB_RATE_RATE_EAST : Field := ⟨R.GLB_RATE, 16, 16⟩
/-- `GLB_RATE.BELOW_FLOOR`, RO (R36). -/
def F.GLB_RATE_BELOW_FLOOR : Field := ⟨R.GLB_RATE, 32, 1⟩
/-- `GLB_RATE.WAS_BELOW`, W1C (R36). -/
def F.GLB_RATE_WAS_BELOW : Field := ⟨R.GLB_RATE, 33, 1⟩

/-! `GLB_MARGIN` -/
/-- `GLB_MARGIN.WORST`, RO (R37). -/
def F.GLB_MARGIN_WORST : Field := ⟨R.GLB_MARGIN, 0, 8⟩
/-- `GLB_MARGIN.WARN_COUNT`, RWS (R37). -/
def F.GLB_MARGIN_WARN_COUNT : Field := ⟨R.GLB_MARGIN, 8, 16⟩
/-- `GLB_MARGIN.CRIT_COUNT`, RWS (R37). -/
def F.GLB_MARGIN_CRIT_COUNT : Field := ⟨R.GLB_MARGIN, 24, 16⟩

/-! `GLB_CMP_TGT_n` -/
/-- `GLB_CMP_TGT_n.TARGET`, RW (R38). -/
def F.GLB_CMP_TGT_TARGET : Field := ⟨R.GLB_CMP_TGT, 0, 64⟩

/-! `GLB_CMP_CTRL_n` -/
/-- `GLB_CMP_CTRL_n.EN`, RW (R39). -/
def F.GLB_CMP_CTRL_EN : Field := ⟨R.GLB_CMP_CTRL, 0, 1⟩
/-- `GLB_CMP_CTRL_n.OWNER_JOB`, RWL (R39). -/
def F.GLB_CMP_CTRL_OWNER_JOB : Field := ⟨R.GLB_CMP_CTRL, 8, 8⟩
/-- `GLB_CMP_CTRL_n.OWNED`, RWL (R39). -/
def F.GLB_CMP_CTRL_OWNED : Field := ⟨R.GLB_CMP_CTRL, 16, 1⟩
/-- `GLB_CMP_CTRL_n.VECTOR`, RW (R39). -/
def F.GLB_CMP_CTRL_VECTOR : Field := ⟨R.GLB_CMP_CTRL, 17, 11⟩
/-- `GLB_CMP_CTRL_n.FENCE`, RW (R39). -/
def F.GLB_CMP_CTRL_FENCE : Field := ⟨R.GLB_CMP_CTRL, 28, 16⟩

/-! `QE_Q_CTRL_q` -/
/-- `QE_Q_CTRL_q.BOUND`, RWL (R74). -/
def F.QE_Q_CTRL_BOUND : Field := ⟨R.QE_Q_CTRL, 0, 1⟩
/-- `QE_Q_CTRL_q.CLASS`, RWL (R74). -/
def F.QE_Q_CTRL_CLASS : Field := ⟨R.QE_Q_CTRL, 1, 1⟩
/-- `QE_Q_CTRL_q.ADMIN`, RWL (R74). -/
def F.QE_Q_CTRL_ADMIN : Field := ⟨R.QE_Q_CTRL, 2, 1⟩
/-- `QE_Q_CTRL_q.PORT`, RWL (R74). -/
def F.QE_Q_CTRL_PORT : Field := ⟨R.QE_Q_CTRL, 3, 2⟩
/-- `QE_Q_CTRL_q.LOG2_SIZE`, RWL (R74). -/
def F.QE_Q_CTRL_LOG2_SIZE : Field := ⟨R.QE_Q_CTRL, 5, 5⟩
/-- `QE_Q_CTRL_q.JOB`, RWL (R74). -/
def F.QE_Q_CTRL_JOB : Field := ⟨R.QE_Q_CTRL, 10, 8⟩
/-- `QE_Q_CTRL_q.LOG2_CQ`, RWL (R74). -/
def F.QE_Q_CTRL_LOG2_CQ : Field := ⟨R.QE_Q_CTRL, 18, 5⟩
/-- `QE_Q_CTRL_q.WAIT_LOG2`, RWL (R74). -/
def F.QE_Q_CTRL_WAIT_LOG2 : Field := ⟨R.QE_Q_CTRL, 23, 5⟩

/-! `QE_Q_RING_q` -/
/-- `QE_Q_RING_q.BASE`, RWL (R75). -/
def F.QE_Q_RING_BASE : Field := ⟨R.QE_Q_RING, 0, 51⟩

/-! `QE_Q_CQ_q` -/
/-- `QE_Q_CQ_q.BASE`, RW (R76). -/
def F.QE_Q_CQ_BASE : Field := ⟨R.QE_Q_CQ, 0, 64⟩

/-! `QE_Q_TAIL_q` -/
/-- `QE_Q_TAIL_q.TAIL_SEQ`, RO (R77). -/
def F.QE_Q_TAIL_TAIL_SEQ : Field := ⟨R.QE_Q_TAIL, 0, 48⟩

/-! `QE_Q_HEAD_q` -/
/-- `QE_Q_HEAD_q.HEAD_SEQ`, RO (R77). -/
def F.QE_Q_HEAD_HEAD_SEQ : Field := ⟨R.QE_Q_HEAD, 0, 48⟩

/-! `QE_Q_CQ_HEAD_q` -/
/-- `QE_Q_CQ_HEAD_q.CQ_HEAD`, RW (R78). -/
def F.QE_Q_CQ_HEAD_CQ_HEAD : Field := ⟨R.QE_Q_CQ_HEAD, 0, 16⟩

/-! `QE_Q_IRQ_q` -/
/-- `QE_Q_IRQ_q.VECTOR`, RW (R79). -/
def F.QE_Q_IRQ_VECTOR : Field := ⟨R.QE_Q_IRQ, 0, 11⟩
/-- `QE_Q_IRQ_q.EN`, RW (R79). -/
def F.QE_Q_IRQ_EN : Field := ⟨R.QE_Q_IRQ, 11, 1⟩
/-- `QE_Q_IRQ_q.COUNT`, RW (R79). -/
def F.QE_Q_IRQ_COUNT : Field := ⟨R.QE_Q_IRQ, 12, 8⟩
/-- `QE_Q_IRQ_q.DELAY`, RW (R79). -/
def F.QE_Q_IRQ_DELAY : Field := ⟨R.QE_Q_IRQ, 20, 16⟩

/-! `QE_Q_STAT_q` -/
/-- `QE_Q_STAT_q.SEAL_REJECT`, RO (R80). -/
def F.QE_Q_STAT_SEAL_REJECT : Field := ⟨R.QE_Q_STAT, 0, 16⟩
/-- `QE_Q_STAT_q.LAST_REASON`, RO (R80). -/
def F.QE_Q_STAT_LAST_REASON : Field := ⟨R.QE_Q_STAT, 16, 4⟩
/-- `QE_Q_STAT_q.WAITING`, RO (R80). -/
def F.QE_Q_STAT_WAITING : Field := ⟨R.QE_Q_STAT, 20, 1⟩
/-- `QE_Q_STAT_q.IN_FLIGHT`, RO (R80). -/
def F.QE_Q_STAT_IN_FLIGHT : Field := ⟨R.QE_Q_STAT, 21, 7⟩
/-- `QE_Q_STAT_q.CANCEL_UNWRITTEN`, RO (R80). -/
def F.QE_Q_STAT_CANCEL_UNWRITTEN : Field := ⟨R.QE_Q_STAT, 28, 16⟩

/-! `QE_JOB_CTRL_n` -/
/-- `QE_JOB_CTRL_n.VALID`, RWL (R81). -/
def F.QE_JOB_CTRL_VALID : Field := ⟨R.QE_JOB_CTRL, 0, 1⟩
/-- `QE_JOB_CTRL_n.OWNER_PORT`, RWL (R81). -/
def F.QE_JOB_CTRL_OWNER_PORT : Field := ⟨R.QE_JOB_CTRL, 1, 1⟩
/-- `QE_JOB_CTRL_n.STALL_LOG2`, RWL (R81). -/
def F.QE_JOB_CTRL_STALL_LOG2 : Field := ⟨R.QE_JOB_CTRL, 2, 5⟩
/-- `QE_JOB_CTRL_n.STEP_LOG2`, RWL (R81). -/
def F.QE_JOB_CTRL_STEP_LOG2 : Field := ⟨R.QE_JOB_CTRL, 7, 5⟩

/-! `QE_JOB_DALES_n` -/
/-- `QE_JOB_DALES_n.DALES`, RWL (R82). -/
def F.QE_JOB_DALES_DALES : Field := ⟨R.QE_JOB_DALES, 0, 32⟩

/-! `QE_JOB_CORES_n` -/
/-- `QE_JOB_CORES_n.CORES`, RWL (R82). -/
def F.QE_JOB_CORES_CORES : Field := ⟨R.QE_JOB_CORES, 0, 64⟩

/-! `QE_JOB_QUOTA_n` -/
/-- `QE_JOB_QUOTA_n.QUOTA_MIB`, RWL (R83). -/
def F.QE_JOB_QUOTA_QUOTA_MIB : Field := ⟨R.QE_JOB_QUOTA, 0, 21⟩

/-! `QE_JOB_FENCE_n` -/
/-- `QE_JOB_FENCE_n.BASE`, RWL (R83). -/
def F.QE_JOB_FENCE_BASE : Field := ⟨R.QE_JOB_FENCE, 0, 16⟩
/-- `QE_JOB_FENCE_n.COUNT`, RWL (R83). -/
def F.QE_JOB_FENCE_COUNT : Field := ⟨R.QE_JOB_FENCE, 16, 17⟩

/-! `QE_TX_STATE_s` -/
/-- `QE_TX_STATE_s.OPEN`, RO (R84). -/
def F.QE_TX_STATE_OPEN : Field := ⟨R.QE_TX_STATE, 0, 1⟩
/-- `QE_TX_STATE_s.COMMITTING`, RO (R84). -/
def F.QE_TX_STATE_COMMITTING : Field := ⟨R.QE_TX_STATE, 1, 1⟩
/-- `QE_TX_STATE_s.BY_SESSION`, RO (R84). -/
def F.QE_TX_STATE_BY_SESSION : Field := ⟨R.QE_TX_STATE, 2, 1⟩
/-- `QE_TX_STATE_s.HANDLE`, RO (R84). -/
def F.QE_TX_STATE_HANDLE : Field := ⟨R.QE_TX_STATE, 16, 16⟩
/-- `QE_TX_STATE_s.QUEUE`, RO (R84). -/
def F.QE_TX_STATE_QUEUE : Field := ⟨R.QE_TX_STATE, 32, 12⟩
/-- `QE_TX_STATE_s.STAGED`, RO (R84). -/
def F.QE_TX_STATE_STAGED : Field := ⟨R.QE_TX_STATE, 44, 13⟩

/-! `QE_TX_CAST_n` -/
/-- `QE_TX_CAST_n.OPEN`, RO (R84). -/
def F.QE_TX_CAST_OPEN : Field := ⟨R.QE_TX_CAST, 0, 1⟩
/-- `QE_TX_CAST_n.COMMITTING`, RO (R84). -/
def F.QE_TX_CAST_COMMITTING : Field := ⟨R.QE_TX_CAST, 1, 1⟩
/-- `QE_TX_CAST_n.BY_SESSION`, RO (R84). -/
def F.QE_TX_CAST_BY_SESSION : Field := ⟨R.QE_TX_CAST, 2, 1⟩
/-- `QE_TX_CAST_n.HANDLE`, RO (R84). -/
def F.QE_TX_CAST_HANDLE : Field := ⟨R.QE_TX_CAST, 16, 16⟩
/-- `QE_TX_CAST_n.QUEUE`, RO (R84). -/
def F.QE_TX_CAST_QUEUE : Field := ⟨R.QE_TX_CAST, 32, 12⟩
/-- `QE_TX_CAST_n.STAGED`, RO (R84). -/
def F.QE_TX_CAST_STAGED : Field := ⟨R.QE_TX_CAST, 44, 13⟩

/-! `QE_FENCE_f` -/
/-- `QE_FENCE_f.VALUE`, RO (R85). -/
def F.QE_FENCE_VALUE : Field := ⟨R.QE_FENCE, 0, 63⟩
/-- `QE_FENCE_f.ERR`, RO (R85). -/
def F.QE_FENCE_ERR : Field := ⟨R.QE_FENCE, 63, 1⟩

/-! `TR_CTX_n` -/
/-- `TR_CTX_n.ROOT_VALID`, RO (R121). -/
def F.TR_CTX_ROOT_VALID : Field := ⟨R.TR_CTX, 0, 1⟩
/-- `TR_CTX_n.ROOT`, RO (R121). -/
def F.TR_CTX_ROOT : Field := ⟨R.TR_CTX, 12, 39⟩

/-! `TR_MIG_POOL_n` -/
/-- `TR_MIG_POOL_n.FIRST`, RWL (R122). -/
def F.TR_MIG_POOL_FIRST : Field := ⟨R.TR_MIG_POOL, 0, 20⟩
/-- `TR_MIG_POOL_n.FRAMES`, RWL (R122). -/
def F.TR_MIG_POOL_FRAMES : Field := ⟨R.TR_MIG_POOL, 20, 20⟩

/-! `TR_MIG_STAT_n` -/
/-- `TR_MIG_STAT_n.PROMOTED`, RO (R123). -/
def F.TR_MIG_STAT_PROMOTED : Field := ⟨R.TR_MIG_STAT, 0, 24⟩
/-- `TR_MIG_STAT_n.DEMOTED`, RO (R123). -/
def F.TR_MIG_STAT_DEMOTED : Field := ⟨R.TR_MIG_STAT, 24, 24⟩
/-- `TR_MIG_STAT_n.ABANDONED`, RO (R123). -/
def F.TR_MIG_STAT_ABANDONED : Field := ⟨R.TR_MIG_STAT, 48, 16⟩

/-! `TR_FAULT_VA_n` -/
/-- `TR_FAULT_VA_n.VA`, RO (R124). -/
def F.TR_FAULT_VA_VA : Field := ⟨R.TR_FAULT_VA, 0, 48⟩

/-! `TR_FAULT_INFO_n` -/
/-- `TR_FAULT_INFO_n.VALID`, W1C (R124). -/
def F.TR_FAULT_INFO_VALID : Field := ⟨R.TR_FAULT_INFO, 0, 1⟩
/-- `TR_FAULT_INFO_n.REASON`, RO (R124). -/
def F.TR_FAULT_INFO_REASON : Field := ⟨R.TR_FAULT_INFO, 1, 3⟩
/-- `TR_FAULT_INFO_n.LEVEL`, RO (R124). -/
def F.TR_FAULT_INFO_LEVEL : Field := ⟨R.TR_FAULT_INFO, 4, 2⟩
/-- `TR_FAULT_INFO_n.WRITE`, RO (R124). -/
def F.TR_FAULT_INFO_WRITE : Field := ⟨R.TR_FAULT_INFO, 6, 1⟩
/-- `TR_FAULT_INFO_n.COUNT`, RO (R124). -/
def F.TR_FAULT_INFO_COUNT : Field := ⟨R.TR_FAULT_INFO, 8, 16⟩

/-! `TR_BASIN_USED_n` -/
/-- `TR_BASIN_USED_n.USED_MIB`, RO (R125). -/
def F.TR_BASIN_USED_USED_MIB : Field := ⟨R.TR_BASIN_USED, 0, 21⟩

/-! `TR_MIG_CTRL` -/
/-- `TR_MIG_CTRL.CAP_PCT`, RWL (R126). -/
def F.TR_MIG_CTRL_CAP_PCT : Field := ⟨R.TR_MIG_CTRL, 0, 7⟩
/-- `TR_MIG_CTRL.EPOCH_LOG2`, RWL (R126). -/
def F.TR_MIG_CTRL_EPOCH_LOG2 : Field := ⟨R.TR_MIG_CTRL, 7, 6⟩
/-- `TR_MIG_CTRL.PROMOTE`, RWL (R126). -/
def F.TR_MIG_CTRL_PROMOTE : Field := ⟨R.TR_MIG_CTRL, 13, 8⟩
/-- `TR_MIG_CTRL.DEMOTE`, RWL (R126). -/
def F.TR_MIG_CTRL_DEMOTE : Field := ⟨R.TR_MIG_CTRL, 21, 8⟩

/-! `TR_CCACHE_CFG` -/
/-- `TR_CCACHE_CFG.FIRST`, RWL (R127). -/
def F.TR_CCACHE_CFG_FIRST : Field := ⟨R.TR_CCACHE_CFG, 0, 20⟩
/-- `TR_CCACHE_CFG.FRAMES`, RWL (R127). -/
def F.TR_CCACHE_CFG_FRAMES : Field := ⟨R.TR_CCACHE_CFG, 20, 20⟩

/-! `TR_CCACHE_STAT` -/
/-- `TR_CCACHE_STAT.ENTRIES`, RO (R127). -/
def F.TR_CCACHE_STAT_ENTRIES : Field := ⟨R.TR_CCACHE_STAT, 0, 9⟩
/-- `TR_CCACHE_STAT.PINNED`, RO (R127). -/
def F.TR_CCACHE_STAT_PINNED : Field := ⟨R.TR_CCACHE_STAT, 9, 9⟩
/-- `TR_CCACHE_STAT.USED_FRAMES`, RO (R127). -/
def F.TR_CCACHE_STAT_USED_FRAMES : Field := ⟨R.TR_CCACHE_STAT, 18, 20⟩

/-! `TR_CCACHE_HITS` -/
/-- `TR_CCACHE_HITS.HITS`, RO (R127). -/
def F.TR_CCACHE_HITS_HITS : Field := ⟨R.TR_CCACHE_HITS, 0, 32⟩
/-- `TR_CCACHE_HITS.MISSES`, RO (R127). -/
def F.TR_CCACHE_HITS_MISSES : Field := ⟨R.TR_CCACHE_HITS, 32, 32⟩

/-! `TR_CCACHE_UNPIN` -/
/-- `TR_CCACHE_UNPIN.ENTRY`, WO (R128). -/
def F.TR_CCACHE_UNPIN_ENTRY : Field := ⟨R.TR_CCACHE_UNPIN, 0, 8⟩

/-! `TR_BASIN_RSV` -/
/-- `TR_BASIN_RSV.RSV_MIB`, RO (R128). -/
def F.TR_BASIN_RSV_RSV_MIB : Field := ⟨R.TR_BASIN_RSV, 0, 21⟩

/-! `TR_SLOT_d` -/
/-- `TR_SLOT_d.A_STATE`, RO (R129). -/
def F.TR_SLOT_A_STATE : Field := ⟨R.TR_SLOT, 0, 3⟩
/-- `TR_SLOT_d.S_STATE`, RO (R129). -/
def F.TR_SLOT_S_STATE : Field := ⟨R.TR_SLOT, 3, 3⟩
/-- `TR_SLOT_d.A_FIRST`, RO (R129). -/
def F.TR_SLOT_A_FIRST : Field := ⟨R.TR_SLOT, 8, 5⟩
/-- `TR_SLOT_d.S_FIRST`, RO (R129). -/
def F.TR_SLOT_S_FIRST : Field := ⟨R.TR_SLOT, 16, 5⟩
/-- `TR_SLOT_d.A_ID`, RO (R129). -/
def F.TR_SLOT_A_ID : Field := ⟨R.TR_SLOT, 32, 32⟩

/-! `FAB_COL_MAP_W` -/
/-- `FAB_COL_MAP_W.RETIRED`, RO (R164). -/
def F.FAB_COL_MAP_W_RETIRED : Field := ⟨R.FAB_COL_MAP_W, 0, 6⟩

/-! `FAB_COL_MAP_E` -/
/-- `FAB_COL_MAP_E.RETIRED`, RO (R164). -/
def F.FAB_COL_MAP_E_RETIRED : Field := ⟨R.FAB_COL_MAP_E, 0, 6⟩

/-! `FAB_SADDLE_STAT` -/
/-- `FAB_SADDLE_STAT.HOLD_EVENTS`, RO (R165). -/
def F.FAB_SADDLE_STAT_HOLD_EVENTS : Field := ⟨R.FAB_SADDLE_STAT, 0, 16⟩
/-- `FAB_SADDLE_STAT.MAX_LEAD`, RO (R165). -/
def F.FAB_SADDLE_STAT_MAX_LEAD : Field := ⟨R.FAB_SADDLE_STAT, 16, 5⟩
/-- `FAB_SADDLE_STAT.LEAD_EAST`, RO (R165). -/
def F.FAB_SADDLE_STAT_LEAD_EAST : Field := ⟨R.FAB_SADDLE_STAT, 21, 1⟩
/-- `FAB_SADDLE_STAT.DEPTH`, RO (R165). -/
def F.FAB_SADDLE_STAT_DEPTH : Field := ⟨R.FAB_SADDLE_STAT, 22, 5⟩
/-- `FAB_SADDLE_STAT.SPARES_USED`, RO (R165). -/
def F.FAB_SADDLE_STAT_SPARES_USED : Field := ⟨R.FAB_SADDLE_STAT, 27, 4⟩

/-! `FAB_SADDLE_LINKS` -/
/-- `FAB_SADDLE_LINKS.W2E_SPARED`, RO (R166). -/
def F.FAB_SADDLE_LINKS_W2E_SPARED : Field := ⟨R.FAB_SADDLE_LINKS, 0, 32⟩
/-- `FAB_SADDLE_LINKS.E2W_SPARED`, RO (R166). -/
def F.FAB_SADDLE_LINKS_E2W_SPARED : Field := ⟨R.FAB_SADDLE_LINKS, 32, 32⟩

/-! `FAB_BORDER_d` -/
/-- `FAB_BORDER_d.JOB`, RO (R167). -/
def F.FAB_BORDER_JOB : Field := ⟨R.FAB_BORDER, 0, 8⟩
/-- `FAB_BORDER_d.DOMAIN_FIRST`, RO (R167). -/
def F.FAB_BORDER_DOMAIN_FIRST : Field := ⟨R.FAB_BORDER, 8, 5⟩
/-- `FAB_BORDER_d.WEST_FENCED`, RO (R167). -/
def F.FAB_BORDER_WEST_FENCED : Field := ⟨R.FAB_BORDER, 13, 1⟩
/-- `FAB_BORDER_d.EAST_FENCED`, RO (R167). -/
def F.FAB_BORDER_EAST_FENCED : Field := ⟨R.FAB_BORDER, 14, 1⟩

/-! `FAB_JOB_STAT_n` -/
/-- `FAB_JOB_STAT_n.STALLS`, RO (R168). -/
def F.FAB_JOB_STAT_STALLS : Field := ⟨R.FAB_JOB_STAT, 0, 16⟩
/-- `FAB_JOB_STAT_n.BORDER_DROPS`, RO (R168). -/
def F.FAB_JOB_STAT_BORDER_DROPS : Field := ⟨R.FAB_JOB_STAT, 16, 16⟩
/-- `FAB_JOB_STAT_n.RESIDUE`, RO (R168). -/
def F.FAB_JOB_STAT_RESIDUE : Field := ⟨R.FAB_JOB_STAT, 32, 16⟩
/-- `FAB_JOB_STAT_n.SPILL_PEAK`, RO (R168). -/
def F.FAB_JOB_STAT_SPILL_PEAK : Field := ⟨R.FAB_JOB_STAT, 48, 16⟩

/-! `FAB_STALL_HEAD` -/
/-- `FAB_STALL_HEAD.NEXT`, RO (R169). -/
def F.FAB_STALL_HEAD_NEXT : Field := ⟨R.FAB_STALL_HEAD, 0, 4⟩
/-- `FAB_STALL_HEAD.TOTAL`, RO (R169). -/
def F.FAB_STALL_HEAD_TOTAL : Field := ⟨R.FAB_STALL_HEAD, 16, 16⟩

/-! `FAB_STALL_LOG_A_k` -/
/-- `FAB_STALL_LOG_A_k.VALID`, W1C (R170). -/
def F.FAB_STALL_LOG_A_VALID : Field := ⟨R.FAB_STALL_LOG_A, 0, 1⟩
/-- `FAB_STALL_LOG_A_k.KIND`, RO (R170). -/
def F.FAB_STALL_LOG_A_KIND : Field := ⟨R.FAB_STALL_LOG_A, 1, 2⟩
/-- `FAB_STALL_LOG_A_k.JOB`, RO (R170). -/
def F.FAB_STALL_LOG_A_JOB : Field := ⟨R.FAB_STALL_LOG_A, 3, 8⟩
/-- `FAB_STALL_LOG_A_k.FIRST_DALE`, RO (R170). -/
def F.FAB_STALL_LOG_A_FIRST_DALE : Field := ⟨R.FAB_STALL_LOG_A, 11, 5⟩
/-- `FAB_STALL_LOG_A_k.REL_DALE`, RO (R170). -/
def F.FAB_STALL_LOG_A_REL_DALE : Field := ⟨R.FAB_STALL_LOG_A, 16, 5⟩
/-- `FAB_STALL_LOG_A_k.CHANNEL`, RO (R170). -/
def F.FAB_STALL_LOG_A_CHANNEL : Field := ⟨R.FAB_STALL_LOG_A, 21, 12⟩
/-- `FAB_STALL_LOG_A_k.DEST`, RO (R170). -/
def F.FAB_STALL_LOG_A_DEST : Field := ⟨R.FAB_STALL_LOG_A, 33, 4⟩
/-- `FAB_STALL_LOG_A_k.TAG`, RO (R170). -/
def F.FAB_STALL_LOG_A_TAG : Field := ⟨R.FAB_STALL_LOG_A, 37, 16⟩
/-- `FAB_STALL_LOG_A_k.TASK`, RO (R170). -/
def F.FAB_STALL_LOG_A_TASK : Field := ⟨R.FAB_STALL_LOG_A, 53, 2⟩

/-! `FAB_STALL_LOG_B_k` -/
/-- `FAB_STALL_LOG_B_k.TIME`, RO (R170). -/
def F.FAB_STALL_LOG_B_TIME : Field := ⟨R.FAB_STALL_LOG_B, 0, 64⟩

/-! `CU_ID` -/
/-- `CU_ID.DIE`, RO (R193). -/
def F.CU_ID_DIE : Field := ⟨R.CU_ID, 0, 1⟩
/-- `CU_ID.PHYS_ROW`, RO (R193). -/
def F.CU_ID_PHYS_ROW : Field := ⟨R.CU_ID, 1, 5⟩
/-- `CU_ID.PHYS_COL`, RO (R193). -/
def F.CU_ID_PHYS_COL : Field := ⟨R.CU_ID, 6, 6⟩
/-- `CU_ID.LOG_COL`, RO (R193). -/
def F.CU_ID_LOG_COL : Field := ⟨R.CU_ID, 12, 6⟩
/-- `CU_ID.LOGICAL_VALID`, RO (R193). -/
def F.CU_ID_LOGICAL_VALID : Field := ⟨R.CU_ID, 18, 1⟩
/-- `CU_ID.PRECISE`, RO (R193). -/
def F.CU_ID_PRECISE : Field := ⟨R.CU_ID, 19, 1⟩
/-- `CU_ID.DALE`, RO (R193). -/
def F.CU_ID_DALE : Field := ⟨R.CU_ID, 20, 5⟩
/-- `CU_ID.LOCAL_INDEX`, RO (R193). -/
def F.CU_ID_LOCAL_INDEX : Field := ⟨R.CU_ID, 25, 5⟩

/-! `CU_STAT` -/
/-- `CU_STAT.JOB`, RO (R194). -/
def F.CU_STAT_JOB : Field := ⟨R.CU_STAT, 0, 8⟩
/-- `CU_STAT.RUNNING`, RO (R194). -/
def F.CU_STAT_RUNNING : Field := ⟨R.CU_STAT, 8, 1⟩
/-- `CU_STAT.ACTIVE_TASK`, RO (R194). -/
def F.CU_STAT_ACTIVE_TASK : Field := ⟨R.CU_STAT, 9, 2⟩
/-- `CU_STAT.SWITCHING`, RO (R194). -/
def F.CU_STAT_SWITCHING : Field := ⟨R.CU_STAT, 11, 1⟩
/-- `CU_STAT.HALTED`, RO (R194). -/
def F.CU_STAT_HALTED : Field := ⟨R.CU_STAT, 12, 1⟩
/-- `CU_STAT.FIRST`, RO (R194). -/
def F.CU_STAT_FIRST : Field := ⟨R.CU_STAT, 13, 1⟩
/-- `CU_STAT.TASKS`, RO (R194). -/
def F.CU_STAT_TASKS : Field := ⟨R.CU_STAT, 14, 4⟩

/-! `CU_TASK_t` -/
/-- `CU_TASK_t.STATE`, RO (R195). -/
def F.CU_TASK_STATE : Field := ⟨R.CU_TASK, 0, 2⟩
/-- `CU_TASK_t.PC`, RO (R195). -/
def F.CU_TASK_PC : Field := ⟨R.CU_TASK, 2, 12⟩
/-- `CU_TASK_t.W`, RO (R195). -/
def F.CU_TASK_W : Field := ⟨R.CU_TASK, 14, 16⟩
/-- `CU_TASK_t.WAIT_PORT`, RO (R195). -/
def F.CU_TASK_WAIT_PORT : Field := ⟨R.CU_TASK, 30, 3⟩
/-- `CU_TASK_t.WAIT_TAG`, RO (R195). -/
def F.CU_TASK_WAIT_TAG : Field := ⟨R.CU_TASK, 33, 16⟩

/-! `CU_BANKS` -/
/-- `CU_BANKS.BANK0_TASK`, RO (R196). -/
def F.CU_BANKS_BANK0_TASK : Field := ⟨R.CU_BANKS, 0, 3⟩
/-- `CU_BANKS.BANK1_TASK`, RO (R196). -/
def F.CU_BANKS_BANK1_TASK : Field := ⟨R.CU_BANKS, 3, 3⟩
/-- `CU_BANKS.BANK2_TASK`, RO (R196). -/
def F.CU_BANKS_BANK2_TASK : Field := ⟨R.CU_BANKS, 6, 3⟩
/-- `CU_BANKS.BANK3_TASK`, RO (R196). -/
def F.CU_BANKS_BANK3_TASK : Field := ⟨R.CU_BANKS, 9, 3⟩
/-- `CU_BANKS.BANK4_TASK`, RO (R196). -/
def F.CU_BANKS_BANK4_TASK : Field := ⟨R.CU_BANKS, 12, 3⟩
/-- `CU_BANKS.BANK5_TASK`, RO (R196). -/
def F.CU_BANKS_BANK5_TASK : Field := ⟨R.CU_BANKS, 15, 3⟩
/-- `CU_BANKS.BANK6_TASK`, RO (R196). -/
def F.CU_BANKS_BANK6_TASK : Field := ⟨R.CU_BANKS, 18, 3⟩
/-- `CU_BANKS.BANK7_TASK`, RO (R196). -/
def F.CU_BANKS_BANK7_TASK : Field := ⟨R.CU_BANKS, 21, 3⟩

/-! `CU_MM_FIRINGS` -/
/-- `CU_MM_FIRINGS.COUNT`, RO (R197). -/
def F.CU_MM_FIRINGS_COUNT : Field := ⟨R.CU_MM_FIRINGS, 0, 64⟩

/-! `CU_VEC_ISSUES` -/
/-- `CU_VEC_ISSUES.COUNT`, RO (R197). -/
def F.CU_VEC_ISSUES_COUNT : Field := ⟨R.CU_VEC_ISSUES, 0, 64⟩

/-! `CU_SWITCHES` -/
/-- `CU_SWITCHES.COUNT`, RO (R197). -/
def F.CU_SWITCHES_COUNT : Field := ⟨R.CU_SWITCHES, 0, 64⟩

/-! `CU_WAIT_TICKS` -/
/-- `CU_WAIT_TICKS.COUNT`, RO (R197). -/
def F.CU_WAIT_TICKS_COUNT : Field := ⟨R.CU_WAIT_TICKS, 0, 64⟩

/-! `CU_ECC` -/
/-- `CU_ECC.CORRECTED`, RO (R198). -/
def F.CU_ECC_CORRECTED : Field := ⟨R.CU_ECC, 0, 16⟩
/-- `CU_ECC.UNCORRECTED`, RO (R198). -/
def F.CU_ECC_UNCORRECTED : Field := ⟨R.CU_ECC, 16, 16⟩
/-- `CU_ECC.LAST_WHERE`, RO (R198). -/
def F.CU_ECC_LAST_WHERE : Field := ⟨R.CU_ECC, 32, 3⟩

/-! `MU_ID` -/
/-- `MU_ID.DIE`, RO (R223). -/
def F.MU_ID_DIE : Field := ⟨R.MU_ID, 0, 1⟩
/-- `MU_ID.PHYS_ROW`, RO (R223). -/
def F.MU_ID_PHYS_ROW : Field := ⟨R.MU_ID, 1, 5⟩
/-- `MU_ID.PHYS_COL`, RO (R223). -/
def F.MU_ID_PHYS_COL : Field := ⟨R.MU_ID, 6, 6⟩
/-- `MU_ID.LOG_COL`, RO (R223). -/
def F.MU_ID_LOG_COL : Field := ⟨R.MU_ID, 12, 6⟩
/-- `MU_ID.LOGICAL_VALID`, RO (R223). -/
def F.MU_ID_LOGICAL_VALID : Field := ⟨R.MU_ID, 18, 1⟩
/-- `MU_ID.DALE`, RO (R223). -/
def F.MU_ID_DALE : Field := ⟨R.MU_ID, 19, 5⟩
/-- `MU_ID.LOCAL_INDEX`, RO (R223). -/
def F.MU_ID_LOCAL_INDEX : Field := ⟨R.MU_ID, 24, 5⟩
/-- `MU_ID.MU_NUMBER`, RO (R223). -/
def F.MU_ID_MU_NUMBER : Field := ⟨R.MU_ID, 29, 10⟩

/-! `MU_STAT` -/
/-- `MU_STAT.JOB`, RO (R224). -/
def F.MU_STAT_JOB : Field := ⟨R.MU_STAT, 0, 8⟩
/-- `MU_STAT.RUNNING`, RO (R224). -/
def F.MU_STAT_RUNNING : Field := ⟨R.MU_STAT, 8, 1⟩
/-- `MU_STAT.HALTED`, RO (R224). -/
def F.MU_STAT_HALTED : Field := ⟨R.MU_STAT, 9, 1⟩
/-- `MU_STAT.AG_USED`, RO (R224). -/
def F.MU_STAT_AG_USED : Field := ⟨R.MU_STAT, 10, 4⟩
/-- `MU_STAT.AG_DONE`, RO (R224). -/
def F.MU_STAT_AG_DONE : Field := ⟨R.MU_STAT, 14, 4⟩
/-- `MU_STAT.ZEROING`, RO (R224). -/
def F.MU_STAT_ZEROING : Field := ⟨R.MU_STAT, 18, 1⟩

/-! `MU_AG_a` -/
/-- `MU_AG_a.MODE`, RO (R225). -/
def F.MU_AG_MODE : Field := ⟨R.MU_AG, 0, 3⟩
/-- `MU_AG_a.STATE`, RO (R225). -/
def F.MU_AG_STATE : Field := ⟨R.MU_AG, 3, 2⟩
/-- `MU_AG_a.WAIT`, RO (R225). -/
def F.MU_AG_WAIT : Field := ⟨R.MU_AG, 5, 3⟩
/-- `MU_AG_a.PORT`, RO (R225). -/
def F.MU_AG_PORT : Field := ⟨R.MU_AG, 8, 2⟩
/-- `MU_AG_a.PC`, RO (R225). -/
def F.MU_AG_PC : Field := ⟨R.MU_AG, 10, 9⟩
/-- `MU_AG_a.TAG`, RO (R225). -/
def F.MU_AG_TAG : Field := ⟨R.MU_AG, 19, 16⟩
/-- `MU_AG_a.ENTRY`, RO (R225). -/
def F.MU_AG_ENTRY : Field := ⟨R.MU_AG, 35, 8⟩
/-- `MU_AG_a.RING`, RO (R225). -/
def F.MU_AG_RING : Field := ⟨R.MU_AG, 43, 2⟩

/-! `MU_EXT_a` -/
/-- `MU_EXT_a.EXT_X`, RO (R226). -/
def F.MU_EXT_EXT_X : Field := ⟨R.MU_EXT, 0, 24⟩
/-- `MU_EXT_a.EXT_Y`, RO (R226). -/
def F.MU_EXT_EXT_Y : Field := ⟨R.MU_EXT, 24, 20⟩
/-- `MU_EXT_a.EXT_Z`, RO (R226). -/
def F.MU_EXT_EXT_Z : Field := ⟨R.MU_EXT, 44, 20⟩

/-! `MU_RING_GEOM_r` -/
/-- `MU_RING_GEOM_r.BASE`, RO (R227). -/
def F.MU_RING_GEOM_BASE : Field := ⟨R.MU_RING_GEOM, 0, 14⟩
/-- `MU_RING_GEOM_r.SLOT_LINES_M1`, RO (R227). -/
def F.MU_RING_GEOM_SLOT_LINES_M1 : Field := ⟨R.MU_RING_GEOM, 14, 10⟩
/-- `MU_RING_GEOM_r.SLOTS`, RO (R227). -/
def F.MU_RING_GEOM_SLOTS : Field := ⟨R.MU_RING_GEOM, 24, 7⟩
/-- `MU_RING_GEOM_r.KEEP`, RO (R227). -/
def F.MU_RING_GEOM_KEEP : Field := ⟨R.MU_RING_GEOM, 31, 1⟩
/-- `MU_RING_GEOM_r.PRODUCER`, RO (R227). -/
def F.MU_RING_GEOM_PRODUCER : Field := ⟨R.MU_RING_GEOM, 32, 2⟩
/-- `MU_RING_GEOM_r.EXT_WPORT`, RO (R227). -/
def F.MU_RING_GEOM_EXT_WPORT : Field := ⟨R.MU_RING_GEOM, 34, 1⟩
/-- `MU_RING_GEOM_r.TWO_CONS`, RO (R227). -/
def F.MU_RING_GEOM_TWO_CONS : Field := ⟨R.MU_RING_GEOM, 35, 1⟩
/-- `MU_RING_GEOM_r.VALID`, RO (R227). -/
def F.MU_RING_GEOM_VALID : Field := ⟨R.MU_RING_GEOM, 36, 1⟩

/-! `MU_RING_PTR_r` -/
/-- `MU_RING_PTR_r.TAIL`, RO (R228). -/
def F.MU_RING_PTR_TAIL : Field := ⟨R.MU_RING_PTR, 0, 16⟩
/-- `MU_RING_PTR_r.HEAD`, RO (R228). -/
def F.MU_RING_PTR_HEAD : Field := ⟨R.MU_RING_PTR, 16, 16⟩
/-- `MU_RING_PTR_r.CONS0`, RO (R228). -/
def F.MU_RING_PTR_CONS0 : Field := ⟨R.MU_RING_PTR, 32, 16⟩
/-- `MU_RING_PTR_r.CONS1`, RO (R228). -/
def F.MU_RING_PTR_CONS1 : Field := ⟨R.MU_RING_PTR, 48, 16⟩

/-! `MU_RING_OWN_r` -/
/-- `MU_RING_OWN_r.OWNER_JOB`, RWL (R229). -/
def F.MU_RING_OWN_OWNER_JOB : Field := ⟨R.MU_RING_OWN, 0, 8⟩
/-- `MU_RING_OWN_r.OWNED`, RWL (R229). -/
def F.MU_RING_OWN_OWNED : Field := ⟨R.MU_RING_OWN, 8, 1⟩

/-! `MU_READ_LINES` -/
/-- `MU_READ_LINES.COUNT`, RO (R230). -/
def F.MU_READ_LINES_COUNT : Field := ⟨R.MU_READ_LINES, 0, 64⟩

/-! `MU_WRITE_LINES` -/
/-- `MU_WRITE_LINES.COUNT`, RO (R230). -/
def F.MU_WRITE_LINES_COUNT : Field := ⟨R.MU_WRITE_LINES, 0, 64⟩

/-! `MU_BANK_WAITS` -/
/-- `MU_BANK_WAITS.COUNT`, RO (R230). -/
def F.MU_BANK_WAITS_COUNT : Field := ⟨R.MU_BANK_WAITS, 0, 64⟩

/-! `MU_PAD_LINES` -/
/-- `MU_PAD_LINES.COUNT`, RO (R230). -/
def F.MU_PAD_LINES_COUNT : Field := ⟨R.MU_PAD_LINES, 0, 64⟩

/-! `MU_TLB_MISSES` -/
/-- `MU_TLB_MISSES.COUNT`, RO (R230). -/
def F.MU_TLB_MISSES_COUNT : Field := ⟨R.MU_TLB_MISSES, 0, 64⟩

/-! `MU_ECC` -/
/-- `MU_ECC.CORRECTED`, RO (R231). -/
def F.MU_ECC_CORRECTED : Field := ⟨R.MU_ECC, 0, 16⟩
/-- `MU_ECC.UNCORRECTED`, RO (R231). -/
def F.MU_ECC_UNCORRECTED : Field := ⟨R.MU_ECC, 16, 16⟩
/-- `MU_ECC.LAST_BANK`, RO (R231). -/
def F.MU_ECC_LAST_BANK : Field := ⟨R.MU_ECC, 32, 3⟩
/-- `MU_ECC.LAST_LINE`, RO (R231). -/
def F.MU_ECC_LAST_LINE : Field := ⟨R.MU_ECC, 35, 14⟩
/-- `MU_ECC.SCRUB_PASSES`, RO (R231). -/
def F.MU_ECC_SCRUB_PASSES : Field := ⟨R.MU_ECC, 49, 15⟩

/-! `FLT_NAN_CTRL_n` -/
/-- `FLT_NAN_CTRL_n.ENG_MODE`, RWL (R255). -/
def F.FLT_NAN_CTRL_ENG_MODE : Field := ⟨R.FLT_NAN_CTRL, 0, 1⟩

/-! `FLT_NAN_INFO_n` -/
/-- `FLT_NAN_INFO_n.VALID`, W1C (R256). -/
def F.FLT_NAN_INFO_VALID : Field := ⟨R.FLT_NAN_INFO, 0, 1⟩
/-- `FLT_NAN_INFO_n.HALT`, RO (R256). -/
def F.FLT_NAN_INFO_HALT : Field := ⟨R.FLT_NAN_INFO, 1, 1⟩
/-- `FLT_NAN_INFO_n.MODE`, RO (R256). -/
def F.FLT_NAN_INFO_MODE : Field := ⟨R.FLT_NAN_INFO, 2, 1⟩
/-- `FLT_NAN_INFO_n.UNIT_KIND`, RO (R256). -/
def F.FLT_NAN_INFO_UNIT_KIND : Field := ⟨R.FLT_NAN_INFO, 3, 3⟩
/-- `FLT_NAN_INFO_n.STAGE`, RO (R256). -/
def F.FLT_NAN_INFO_STAGE : Field := ⟨R.FLT_NAN_INFO, 6, 3⟩
/-- `FLT_NAN_INFO_n.TAG`, RO (R256). -/
def F.FLT_NAN_INFO_TAG : Field := ⟨R.FLT_NAN_INFO, 9, 16⟩
/-- `FLT_NAN_INFO_n.TASK`, RO (R256). -/
def F.FLT_NAN_INFO_TASK : Field := ⟨R.FLT_NAN_INFO, 25, 2⟩
/-- `FLT_NAN_INFO_n.LANE`, RO (R256). -/
def F.FLT_NAN_INFO_LANE : Field := ⟨R.FLT_NAN_INFO, 27, 6⟩
/-- `FLT_NAN_INFO_n.ROW`, RO (R256). -/
def F.FLT_NAN_INFO_ROW : Field := ⟨R.FLT_NAN_INFO, 33, 4⟩
/-- `FLT_NAN_INFO_n.COUNT`, RO (R256). -/
def F.FLT_NAN_INFO_COUNT : Field := ⟨R.FLT_NAN_INFO, 37, 16⟩

/-! `FLT_NAN_WHERE_n` -/
/-- `FLT_NAN_WHERE_n.FIRST_DALE`, RO (R257). -/
def F.FLT_NAN_WHERE_FIRST_DALE : Field := ⟨R.FLT_NAN_WHERE, 0, 5⟩
/-- `FLT_NAN_WHERE_n.REL_DALE`, RO (R257). -/
def F.FLT_NAN_WHERE_REL_DALE : Field := ⟨R.FLT_NAN_WHERE, 5, 5⟩
/-- `FLT_NAN_WHERE_n.LOCAL_INDEX`, RO (R257). -/
def F.FLT_NAN_WHERE_LOCAL_INDEX : Field := ⟨R.FLT_NAN_WHERE, 10, 5⟩
/-- `FLT_NAN_WHERE_n.AG`, RO (R257). -/
def F.FLT_NAN_WHERE_AG : Field := ⟨R.FLT_NAN_WHERE, 15, 2⟩
/-- `FLT_NAN_WHERE_n.PC`, RO (R257). -/
def F.FLT_NAN_WHERE_PC : Field := ⟨R.FLT_NAN_WHERE, 17, 11⟩

/-! `FLT_NAN_CAST_n` -/
/-- `FLT_NAN_CAST_n.CAST_ID`, RO (R258). -/
def F.FLT_NAN_CAST_CAST_ID : Field := ⟨R.FLT_NAN_CAST, 0, 64⟩

/-! `FLT_NAN_OPS_n` -/
/-- `FLT_NAN_OPS_n.SRC0`, RO (R259). -/
def F.FLT_NAN_OPS_SRC0 : Field := ⟨R.FLT_NAN_OPS, 0, 32⟩
/-- `FLT_NAN_OPS_n.SRC1`, RO (R259). -/
def F.FLT_NAN_OPS_SRC1 : Field := ⟨R.FLT_NAN_OPS, 32, 32⟩

/-! `FLT_NAN_OPX_n` -/
/-- `FLT_NAN_OPX_n.SRC2`, RO (R259). -/
def F.FLT_NAN_OPX_SRC2 : Field := ⟨R.FLT_NAN_OPX, 0, 32⟩
/-- `FLT_NAN_OPX_n.RESULT`, RO (R259). -/
def F.FLT_NAN_OPX_RESULT : Field := ⟨R.FLT_NAN_OPX, 32, 32⟩

/-! `FLT_NAN_TIME_n` -/
/-- `FLT_NAN_TIME_n.TIME`, RO (R258). -/
def F.FLT_NAN_TIME_TIME : Field := ⟨R.FLT_NAN_TIME, 0, 64⟩

/-! `SRV_KV_LAYOUT_j` -/
/-- `SRV_KV_LAYOUT_j.FMT`, RWL (R311). -/
def F.SRV_KV_LAYOUT_FMT : Field := ⟨R.SRV_KV_LAYOUT, 0, 4⟩
/-- `SRV_KV_LAYOUT_j.BLK`, RWL (R311). -/
def F.SRV_KV_LAYOUT_BLK : Field := ⟨R.SRV_KV_LAYOUT, 4, 3⟩
/-- `SRV_KV_LAYOUT_j.SFMT`, RWL (R311). -/
def F.SRV_KV_LAYOUT_SFMT : Field := ⟨R.SRV_KV_LAYOUT, 7, 1⟩
/-- `SRV_KV_LAYOUT_j.G0_LAYERS`, RWL (R311). -/
def F.SRV_KV_LAYOUT_G0_LAYERS : Field := ⟨R.SRV_KV_LAYOUT, 8, 8⟩
/-- `SRV_KV_LAYOUT_j.G0_HEADS_M1`, RWL (R311). -/
def F.SRV_KV_LAYOUT_G0_HEADS_M1 : Field := ⟨R.SRV_KV_LAYOUT, 16, 6⟩
/-- `SRV_KV_LAYOUT_j.G0_DIM_M1`, RWL (R311). -/
def F.SRV_KV_LAYOUT_G0_DIM_M1 : Field := ⟨R.SRV_KV_LAYOUT, 22, 2⟩
/-- `SRV_KV_LAYOUT_j.G1_LAYERS`, RWL (R311). -/
def F.SRV_KV_LAYOUT_G1_LAYERS : Field := ⟨R.SRV_KV_LAYOUT, 24, 8⟩
/-- `SRV_KV_LAYOUT_j.G1_HEADS_M1`, RWL (R311). -/
def F.SRV_KV_LAYOUT_G1_HEADS_M1 : Field := ⟨R.SRV_KV_LAYOUT, 32, 6⟩
/-- `SRV_KV_LAYOUT_j.G1_DIM_M1`, RWL (R311). -/
def F.SRV_KV_LAYOUT_G1_DIM_M1 : Field := ⟨R.SRV_KV_LAYOUT, 38, 2⟩
/-- `SRV_KV_LAYOUT_j.OWNER_JOB`, RWL (R311). -/
def F.SRV_KV_LAYOUT_OWNER_JOB : Field := ⟨R.SRV_KV_LAYOUT, 40, 8⟩
/-- `SRV_KV_LAYOUT_j.VALID`, RWL (R311). -/
def F.SRV_KV_LAYOUT_VALID : Field := ⟨R.SRV_KV_LAYOUT, 48, 1⟩
/-- `SRV_KV_LAYOUT_j.K_T`, RWL (R311). -/
def F.SRV_KV_LAYOUT_K_T : Field := ⟨R.SRV_KV_LAYOUT, 49, 1⟩

/-! `SRV_KV_POOL_n` -/
/-- `SRV_KV_POOL_n.FIRST`, RWL (R312). -/
def F.SRV_KV_POOL_FIRST : Field := ⟨R.SRV_KV_POOL, 0, 20⟩
/-- `SRV_KV_POOL_n.FRAMES`, RWL (R312). -/
def F.SRV_KV_POOL_FRAMES : Field := ⟨R.SRV_KV_POOL, 20, 20⟩

/-! `SRV_KV_PUSH_n` -/
/-- `SRV_KV_PUSH_n.CLASS`, WO (R313). -/
def F.SRV_KV_PUSH_CLASS : Field := ⟨R.SRV_KV_PUSH, 0, 5⟩
/-- `SRV_KV_PUSH_n.PAGE`, WO (R313). -/
def F.SRV_KV_PUSH_PAGE : Field := ⟨R.SRV_KV_PUSH, 5, 29⟩
/-- `SRV_KV_PUSH_n.DRAIN`, WO (R313). -/
def F.SRV_KV_PUSH_DRAIN : Field := ⟨R.SRV_KV_PUSH, 63, 1⟩

/-! `SRV_KV_STAT_n` -/
/-- `SRV_KV_STAT_n.EMPTY_ROWS`, RO (R314). -/
def F.SRV_KV_STAT_EMPTY_ROWS : Field := ⟨R.SRV_KV_STAT, 0, 32⟩
/-- `SRV_KV_STAT_n.PAGE_WAITS`, RO (R314). -/
def F.SRV_KV_STAT_PAGE_WAITS : Field := ⟨R.SRV_KV_STAT, 32, 16⟩
/-- `SRV_KV_STAT_n.PUSH_REJECT`, RO (R314). -/
def F.SRV_KV_STAT_PUSH_REJECT : Field := ⟨R.SRV_KV_STAT, 48, 12⟩
/-- `SRV_KV_STAT_n.EMPTY_BAD`, RO (R314). -/
def F.SRV_KV_STAT_EMPTY_BAD : Field := ⟨R.SRV_KV_STAT, 60, 1⟩

/-! `SRV_FL_n_c` -/
/-- `SRV_FL_n_c.HEAD`, RO (R315). -/
def F.SRV_FL_HEAD : Field := ⟨R.SRV_FL, 0, 29⟩
/-- `SRV_FL_n_c.COUNT`, RO (R315). -/
def F.SRV_FL_COUNT : Field := ⟨R.SRV_FL, 29, 29⟩
/-- `SRV_FL_n_c.CUT`, RO (R315). -/
def F.SRV_FL_CUT : Field := ⟨R.SRV_FL, 58, 1⟩

/-! `MRE_G_CFG_g` -/
/-- `MRE_G_CFG_g.VALID`, RWL (R342). -/
def F.MRE_G_CFG_VALID : Field := ⟨R.MRE_G_CFG, 0, 1⟩
/-- `MRE_G_CFG_g.OWNER_JOB`, RWL (R342). -/
def F.MRE_G_CFG_OWNER_JOB : Field := ⟨R.MRE_G_CFG, 1, 8⟩
/-- `MRE_G_CFG_g.MEMBERS_M1`, RWL (R342). -/
def F.MRE_G_CFG_MEMBERS_M1 : Field := ⟨R.MRE_G_CFG, 9, 10⟩
/-- `MRE_G_CFG_g.INDEX`, RWL (R342). -/
def F.MRE_G_CFG_INDEX : Field := ⟨R.MRE_G_CFG, 19, 10⟩
/-- `MRE_G_CFG_g.ZIGZAG`, RWL (R342). -/
def F.MRE_G_CFG_ZIGZAG : Field := ⟨R.MRE_G_CFG, 29, 1⟩
/-- `MRE_G_CFG_g.SEND_PORT`, RWL (R342). -/
def F.MRE_G_CFG_SEND_PORT : Field := ⟨R.MRE_G_CFG, 30, 3⟩
/-- `MRE_G_CFG_g.RECV_PORT`, RWL (R342). -/
def F.MRE_G_CFG_RECV_PORT : Field := ⟨R.MRE_G_CFG, 33, 3⟩

/-! `MRE_G_NBR_g` -/
/-- `MRE_G_NBR_g.PRED_CHIP`, RWL (R343). -/
def F.MRE_G_NBR_PRED_CHIP : Field := ⟨R.MRE_G_NBR, 0, 12⟩
/-- `MRE_G_NBR_g.SUCC_CHIP`, RWL (R343). -/
def F.MRE_G_NBR_SUCC_CHIP : Field := ⟨R.MRE_G_NBR, 12, 12⟩
/-- `MRE_G_NBR_g.LIST_CRC`, RWL (R343). -/
def F.MRE_G_NBR_LIST_CRC : Field := ⟨R.MRE_G_NBR, 24, 32⟩

/-! `MRE_G_SEQ_g` -/
/-- `MRE_G_SEQ_g.SEQ_LEN`, RWL (R344). -/
def F.MRE_G_SEQ_SEQ_LEN : Field := ⟨R.MRE_G_SEQ, 0, 28⟩
/-- `MRE_G_SEQ_g.CHUNK`, RWL (R344). -/
def F.MRE_G_SEQ_CHUNK : Field := ⟨R.MRE_G_SEQ, 28, 28⟩

/-! `MRE_G_LIMIT_g` -/
/-- `MRE_G_LIMIT_g.RING_STALL`, RWL (R344). -/
def F.MRE_G_LIMIT_RING_STALL : Field := ⟨R.MRE_G_LIMIT, 0, 32⟩

/-! `MRE_G_STAT_g` -/
/-- `MRE_G_STAT_g.STATE`, RO (R345). -/
def F.MRE_G_STAT_STATE : Field := ⟨R.MRE_G_STAT, 0, 3⟩
/-- `MRE_G_STAT_g.STEP`, RO (R345). -/
def F.MRE_G_STAT_STEP : Field := ⟨R.MRE_G_STAT, 3, 10⟩
/-- `MRE_G_STAT_g.LAST_STATUS`, RO (R345). -/
def F.MRE_G_STAT_LAST_STATUS : Field := ⟨R.MRE_G_STAT, 13, 8⟩
/-- `MRE_G_STAT_g.ABORT_CAUSE`, RO (R345). -/
def F.MRE_G_STAT_ABORT_CAUSE : Field := ⟨R.MRE_G_STAT, 21, 2⟩
/-- `MRE_G_STAT_g.ABORT_MEMBER`, RO (R345). -/
def F.MRE_G_STAT_ABORT_MEMBER : Field := ⟨R.MRE_G_STAT, 23, 10⟩

/-! `MRE_G_PROG_g` -/
/-- `MRE_G_PROG_g.STEPS_IN`, RO (R346). -/
def F.MRE_G_PROG_STEPS_IN : Field := ⟨R.MRE_G_PROG, 0, 11⟩
/-- `MRE_G_PROG_g.STEPS_FWD`, RO (R346). -/
def F.MRE_G_PROG_STEPS_FWD : Field := ⟨R.MRE_G_PROG, 11, 11⟩
/-- `MRE_G_PROG_g.STEPS_DONE`, RO (R346). -/
def F.MRE_G_PROG_STEPS_DONE : Field := ⟨R.MRE_G_PROG, 22, 11⟩

/-! `MRE_G_STEPMAX_g` -/
/-- `MRE_G_STEPMAX_g.STEPMAX`, RO (R346). -/
def F.MRE_G_STEPMAX_STEPMAX : Field := ⟨R.MRE_G_STEPMAX, 0, 32⟩
/-- `MRE_G_STEPMAX_g.RUN_ID`, RO (R346). -/
def F.MRE_G_STEPMAX_RUN_ID : Field := ⟨R.MRE_G_STEPMAX, 32, 32⟩

/-! `WSU_L_CFG_j` -/
/-- `WSU_L_CFG_j.VALID`, RWL (R370). -/
def F.WSU_L_CFG_VALID : Field := ⟨R.WSU_L_CFG, 0, 1⟩
/-- `WSU_L_CFG_j.OWNER_JOB`, RWL (R370). -/
def F.WSU_L_CFG_OWNER_JOB : Field := ⟨R.WSU_L_CFG, 1, 8⟩
/-- `WSU_L_CFG_j.MODE`, RWL (R370). -/
def F.WSU_L_CFG_MODE : Field := ⟨R.WSU_L_CFG, 9, 2⟩
/-- `WSU_L_CFG_j.RENORM`, RWL (R370). -/
def F.WSU_L_CFG_RENORM : Field := ⟨R.WSU_L_CFG, 11, 1⟩
/-- `WSU_L_CFG_j.K_MIN`, RWL (R370). -/
def F.WSU_L_CFG_K_MIN : Field := ⟨R.WSU_L_CFG, 12, 5⟩
/-- `WSU_L_CFG_j.K_MAX`, RWL (R370). -/
def F.WSU_L_CFG_K_MAX : Field := ⟨R.WSU_L_CFG, 17, 5⟩
/-- `WSU_L_CFG_j.HASH_K`, RWL (R370). -/
def F.WSU_L_CFG_HASH_K : Field := ⟨R.WSU_L_CFG, 22, 5⟩
/-- `WSU_L_CFG_j.EXPERTS`, RWL (R370). -/
def F.WSU_L_CFG_EXPERTS : Field := ⟨R.WSU_L_CFG, 27, 13⟩
/-- `WSU_L_CFG_j.CAP`, RWL (R370). -/
def F.WSU_L_CFG_CAP : Field := ⟨R.WSU_L_CFG, 40, 16⟩

/-! `WSU_L_PARAM_j` -/
/-- `WSU_L_PARAM_j.THRESH`, RWL (R371). -/
def F.WSU_L_PARAM_THRESH : Field := ⟨R.WSU_L_PARAM, 0, 32⟩
/-- `WSU_L_PARAM_j.SALT`, RWL (R371). -/
def F.WSU_L_PARAM_SALT : Field := ⟨R.WSU_L_PARAM, 32, 32⟩

/-! `WSU_L_DROPS_j` -/
/-- `WSU_L_DROPS_j.DROPPED`, RO (R372). -/
def F.WSU_L_DROPS_DROPPED : Field := ⟨R.WSU_L_DROPS, 0, 32⟩
/-- `WSU_L_DROPS_j.ALL_DROPPED`, RO (R372). -/
def F.WSU_L_DROPS_ALL_DROPPED : Field := ⟨R.WSU_L_DROPS, 32, 24⟩
/-- `WSU_L_DROPS_j.RENORM_SKIP`, RO (R372). -/
def F.WSU_L_DROPS_RENORM_SKIP : Field := ⟨R.WSU_L_DROPS, 56, 8⟩

/-! `WSU_G_CFG_g` -/
/-- `WSU_G_CFG_g.VALID`, RWL (R373). -/
def F.WSU_G_CFG_VALID : Field := ⟨R.WSU_G_CFG, 0, 1⟩
/-- `WSU_G_CFG_g.OWNER_JOB`, RWL (R373). -/
def F.WSU_G_CFG_OWNER_JOB : Field := ⟨R.WSU_G_CFG, 1, 8⟩
/-- `WSU_G_CFG_g.MEMBERS_M1`, RWL (R373). -/
def F.WSU_G_CFG_MEMBERS_M1 : Field := ⟨R.WSU_G_CFG, 9, 6⟩
/-- `WSU_G_CFG_g.INDEX`, RWL (R373). -/
def F.WSU_G_CFG_INDEX : Field := ⟨R.WSU_G_CFG, 15, 6⟩

/-! `WSU_G_RECV_g` -/
/-- `WSU_G_RECV_g.FIRST`, RWL (R374). -/
def F.WSU_G_RECV_FIRST : Field := ⟨R.WSU_G_RECV, 0, 20⟩
/-- `WSU_G_RECV_g.FRAMES`, RWL (R374). -/
def F.WSU_G_RECV_FRAMES : Field := ⟨R.WSU_G_RECV, 20, 20⟩

/-! `WSU_G_RET_g` -/
/-- `WSU_G_RET_g.FIRST`, RWL (R374). -/
def F.WSU_G_RET_FIRST : Field := ⟨R.WSU_G_RET, 0, 20⟩
/-- `WSU_G_RET_g.FRAMES`, RWL (R374). -/
def F.WSU_G_RET_FRAMES : Field := ⟨R.WSU_G_RET, 20, 20⟩

/-! `WSU_G_LIMIT_g` -/
/-- `WSU_G_LIMIT_g.LIMIT`, RWL (R375). -/
def F.WSU_G_LIMIT_LIMIT : Field := ⟨R.WSU_G_LIMIT, 0, 32⟩

/-! `WSU_G_STAT_g` -/
/-- `WSU_G_STAT_g.PHASE`, RO (R376). -/
def F.WSU_G_STAT_PHASE : Field := ⟨R.WSU_G_STAT, 0, 2⟩
/-- `WSU_G_STAT_g.HELD`, RO (R376). -/
def F.WSU_G_STAT_HELD : Field := ⟨R.WSU_G_STAT, 2, 1⟩
/-- `WSU_G_STAT_g.BATCH`, RO (R376). -/
def F.WSU_G_STAT_BATCH : Field := ⟨R.WSU_G_STAT, 3, 20⟩
/-- `WSU_G_STAT_g.LAST_STATUS`, RO (R376). -/
def F.WSU_G_STAT_LAST_STATUS : Field := ⟨R.WSU_G_STAT, 23, 8⟩
/-- `WSU_G_STAT_g.LAST_MEMBER`, RO (R376). -/
def F.WSU_G_STAT_LAST_MEMBER : Field := ⟨R.WSU_G_STAT, 31, 6⟩

/-! `WSU_G_CHIPS_g_w` -/
/-- `WSU_G_CHIPS_g_w.CHIP_0`, RWL (R375). -/
def F.WSU_G_CHIPS_CHIP_0 : Field := ⟨R.WSU_G_CHIPS, 0, 12⟩
/-- `WSU_G_CHIPS_g_w.CHIP_1`, RWL (R375). -/
def F.WSU_G_CHIPS_CHIP_1 : Field := ⟨R.WSU_G_CHIPS, 12, 12⟩
/-- `WSU_G_CHIPS_g_w.CHIP_2`, RWL (R375). -/
def F.WSU_G_CHIPS_CHIP_2 : Field := ⟨R.WSU_G_CHIPS, 24, 12⟩
/-- `WSU_G_CHIPS_g_w.CHIP_3`, RWL (R375). -/
def F.WSU_G_CHIPS_CHIP_3 : Field := ⟨R.WSU_G_CHIPS, 36, 12⟩

/-! `WSU_SORT_STAT` -/
/-- `WSU_SORT_STAT.SORTS`, RO (R377). -/
def F.WSU_SORT_STAT_SORTS : Field := ⟨R.WSU_SORT_STAT, 0, 32⟩
/-- `WSU_SORT_STAT.MAX_WAIT`, RO (R377). -/
def F.WSU_SORT_STAT_MAX_WAIT : Field := ⟨R.WSU_SORT_STAT, 32, 32⟩

/-! `SRV_TABLE_STAT` -/
/-- `SRV_TABLE_STAT.FREE`, RO (R418). -/
def F.SRV_TABLE_STAT_FREE : Field := ⟨R.SRV_TABLE_STAT, 0, 17⟩
/-- `SRV_TABLE_STAT.IMPLICIT_K`, RO (R418). -/
def F.SRV_TABLE_STAT_IMPLICIT_K : Field := ⟨R.SRV_TABLE_STAT, 17, 24⟩

/-! `SRV_STOP_BASE` -/
/-- `SRV_STOP_BASE.VA`, RWL (R416). -/
def F.SRV_STOP_BASE_VA : Field := ⟨R.SRV_STOP_BASE, 0, 51⟩

/-! `SRV_SPEC_STAT` -/
/-- `SRV_SPEC_STAT.PROPOSED`, RO (R418). -/
def F.SRV_SPEC_STAT_PROPOSED : Field := ⟨R.SRV_SPEC_STAT, 0, 32⟩
/-- `SRV_SPEC_STAT.ACCEPTED`, RO (R418). -/
def F.SRV_SPEC_STAT_ACCEPTED : Field := ⟨R.SRV_SPEC_STAT, 32, 32⟩

/-! `SRV_MODEL_CFG_m` -/
/-- `SRV_MODEL_CFG_m.VALID`, RWL (R411). -/
def F.SRV_MODEL_CFG_VALID : Field := ⟨R.SRV_MODEL_CFG, 0, 1⟩
/-- `SRV_MODEL_CFG_m.IS_DRAFT`, RWL (R411). -/
def F.SRV_MODEL_CFG_IS_DRAFT : Field := ⟨R.SRV_MODEL_CFG, 1, 1⟩
/-- `SRV_MODEL_CFG_m.OWNER_JOB`, RWL (R411). -/
def F.SRV_MODEL_CFG_OWNER_JOB : Field := ⟨R.SRV_MODEL_CFG, 2, 8⟩
/-- `SRV_MODEL_CFG_m.FIRST_DALE`, RWL (R411). -/
def F.SRV_MODEL_CFG_FIRST_DALE : Field := ⟨R.SRV_MODEL_CFG, 10, 5⟩
/-- `SRV_MODEL_CFG_m.DALES`, RWL (R411). -/
def F.SRV_MODEL_CFG_DALES : Field := ⟨R.SRV_MODEL_CFG, 15, 6⟩
/-- `SRV_MODEL_CFG_m.VOCAB_M1`, RWL (R411). -/
def F.SRV_MODEL_CFG_VOCAB_M1 : Field := ⟨R.SRV_MODEL_CFG, 21, 20⟩
/-- `SRV_MODEL_CFG_m.DRAFT`, RWL (R411). -/
def F.SRV_MODEL_CFG_DRAFT : Field := ⟨R.SRV_MODEL_CFG, 41, 6⟩

/-! `SRV_MODEL_BATCH_m` -/
/-- `SRV_MODEL_BATCH_m.VA`, RWL (R412). -/
def F.SRV_MODEL_BATCH_VA : Field := ⟨R.SRV_MODEL_BATCH, 0, 48⟩

/-! `SRV_MODEL_LOGITS_m` -/
/-- `SRV_MODEL_LOGITS_m.VA`, RWL (R412). -/
def F.SRV_MODEL_LOGITS_VA : Field := ⟨R.SRV_MODEL_LOGITS, 0, 48⟩

/-! `SRV_MODEL_ARGS_m` -/
/-- `SRV_MODEL_ARGS_m.VA`, RWL (R412). -/
def F.SRV_MODEL_ARGS_VA : Field := ⟨R.SRV_MODEL_ARGS, 0, 48⟩

/-! `SRV_MODEL_LIMITS_m` -/
/-- `SRV_MODEL_LIMITS_m.MAX_REQS`, RWL (R412). -/
def F.SRV_MODEL_LIMITS_MAX_REQS : Field := ⟨R.SRV_MODEL_LIMITS, 0, 13⟩
/-- `SRV_MODEL_LIMITS_m.MAX_ROWS`, RWL (R412). -/
def F.SRV_MODEL_LIMITS_MAX_ROWS : Field := ⟨R.SRV_MODEL_LIMITS, 13, 16⟩
/-- `SRV_MODEL_LIMITS_m.CHUNK`, RWL (R412). -/
def F.SRV_MODEL_LIMITS_CHUNK : Field := ⟨R.SRV_MODEL_LIMITS, 29, 16⟩

/-! `SRV_RUN_m` -/
/-- `SRV_RUN_m.STOP`, WO (R413). -/
def F.SRV_RUN_STOP : Field := ⟨R.SRV_RUN, 0, 1⟩
/-- `SRV_RUN_m.PROMOTE`, WO (R413). -/
def F.SRV_RUN_PROMOTE : Field := ⟨R.SRV_RUN, 1, 1⟩
/-- `SRV_RUN_m.RUNNING`, RO (R413). -/
def F.SRV_RUN_RUNNING : Field := ⟨R.SRV_RUN, 2, 1⟩
/-- `SRV_RUN_m.PHASE`, RO (R413). -/
def F.SRV_RUN_PHASE : Field := ⟨R.SRV_RUN, 3, 3⟩
/-- `SRV_RUN_m.STEP`, RO (R413). -/
def F.SRV_RUN_STEP : Field := ⟨R.SRV_RUN, 6, 58⟩

/-! `SRV_MIRROR_m` -/
/-- `SRV_MIRROR_m.EN`, RWL (R414). -/
def F.SRV_MIRROR_EN : Field := ⟨R.SRV_MIRROR, 0, 1⟩
/-- `SRV_MIRROR_m.FRAMES_LOG2`, RWL (R414). -/
def F.SRV_MIRROR_FRAMES_LOG2 : Field := ⟨R.SRV_MIRROR, 1, 4⟩
/-- `SRV_MIRROR_m.ADDR`, RWL (R414). -/
def F.SRV_MIRROR_ADDR : Field := ⟨R.SRV_MIRROR, 21, 42⟩

/-! `SRV_FEED_m` -/
/-- `SRV_FEED_m.FIRST`, RWL (R414). -/
def F.SRV_FEED_FIRST : Field := ⟨R.SRV_FEED, 0, 20⟩
/-- `SRV_FEED_m.FRAMES_LOG2`, RWL (R414). -/
def F.SRV_FEED_FRAMES_LOG2 : Field := ⟨R.SRV_FEED, 20, 4⟩

/-! `SRV_SAMP_i_w` -/
/-- `SRV_SAMP_i_w.TEMP`, RWL (R415). -/
def F.SRV_SAMP0_TEMP : Field := ⟨R.SRV_SAMP0, 0, 32⟩
/-- `SRV_SAMP_i_w.TOP_P`, RWL (R415). -/
def F.SRV_SAMP0_TOP_P : Field := ⟨R.SRV_SAMP0, 32, 32⟩

/-! `SRV_SAMP_i_w` -/
/-- `SRV_SAMP_i_w.MIN_P`, RWL (R415). -/
def F.SRV_SAMP1_MIN_P : Field := ⟨R.SRV_SAMP1, 0, 32⟩
/-- `SRV_SAMP_i_w.TOP_K`, RWL (R415). -/
def F.SRV_SAMP1_TOP_K : Field := ⟨R.SRV_SAMP1, 32, 11⟩

/-! `SRV_SAMP_i_w` -/
/-- `SRV_SAMP_i_w.REP`, RWL (R415). -/
def F.SRV_SAMP2_REP : Field := ⟨R.SRV_SAMP2, 0, 32⟩
/-- `SRV_SAMP_i_w.FREQ`, RWL (R415). -/
def F.SRV_SAMP2_FREQ : Field := ⟨R.SRV_SAMP2, 32, 32⟩

/-! `SRV_SAMP_i_w` -/
/-- `SRV_SAMP_i_w.PRES`, RWL (R415). -/
def F.SRV_SAMP3_PRES : Field := ⟨R.SRV_SAMP3, 0, 32⟩
/-- `SRV_SAMP_i_w.VALID`, RWL (R415). -/
def F.SRV_SAMP3_VALID : Field := ⟨R.SRV_SAMP3, 32, 1⟩
/-- `SRV_SAMP_i_w.OWNER_JOB`, RWL (R415). -/
def F.SRV_SAMP3_OWNER_JOB : Field := ⟨R.SRV_SAMP3, 33, 8⟩

/-! `SRV_JOB_n` -/
/-- `SRV_JOB_n.MAX_ENTRIES`, RWL (R417). -/
def F.SRV_JOB_MAX_ENTRIES : Field := ⟨R.SRV_JOB, 0, 17⟩

/-! `SRV_JOB_STAT_n` -/
/-- `SRV_JOB_STAT_n.IN_USE`, RO (R417). -/
def F.SRV_JOB_STAT_IN_USE : Field := ⟨R.SRV_JOB_STAT, 0, 17⟩
/-- `SRV_JOB_STAT_n.OUT_WAITS`, RO (R417). -/
def F.SRV_JOB_STAT_OUT_WAITS : Field := ⟨R.SRV_JOB_STAT, 17, 16⟩
/-- `SRV_JOB_STAT_n.MISSED`, RO (R417). -/
def F.SRV_JOB_STAT_MISSED : Field := ⟨R.SRV_JOB_STAT, 33, 16⟩
/-- `SRV_JOB_STAT_n.CANCEL_LATE`, RO (R417). -/
def F.SRV_JOB_STAT_CANCEL_LATE : Field := ⟨R.SRV_JOB_STAT, 49, 8⟩
/-- `SRV_JOB_STAT_n.FEED_DROPS`, RO (R417). -/
def F.SRV_JOB_STAT_FEED_DROPS : Field := ⟨R.SRV_JOB_STAT, 57, 7⟩

/-! `SRV_OUT_BASE_o` -/
/-- `SRV_OUT_BASE_o.BASE`, RWL (R419). -/
def F.SRV_OUT_BASE_BASE : Field := ⟨R.SRV_OUT_BASE, 0, 64⟩

/-! `SRV_OUT_CTRL_o` -/
/-- `SRV_OUT_CTRL_o.VALID`, RWL (R419). -/
def F.SRV_OUT_CTRL_VALID : Field := ⟨R.SRV_OUT_CTRL, 0, 1⟩
/-- `SRV_OUT_CTRL_o.OWNER_JOB`, RWL (R419). -/
def F.SRV_OUT_CTRL_OWNER_JOB : Field := ⟨R.SRV_OUT_CTRL, 1, 8⟩
/-- `SRV_OUT_CTRL_o.PORT`, RWL (R419). -/
def F.SRV_OUT_CTRL_PORT : Field := ⟨R.SRV_OUT_CTRL, 9, 2⟩
/-- `SRV_OUT_CTRL_o.LOG2`, RWL (R419). -/
def F.SRV_OUT_CTRL_LOG2 : Field := ⟨R.SRV_OUT_CTRL, 11, 5⟩
/-- `SRV_OUT_CTRL_o.VECTOR`, RWL (R419). -/
def F.SRV_OUT_CTRL_VECTOR : Field := ⟨R.SRV_OUT_CTRL, 16, 11⟩
/-- `SRV_OUT_CTRL_o.IRQ_EN`, RWL (R419). -/
def F.SRV_OUT_CTRL_IRQ_EN : Field := ⟨R.SRV_OUT_CTRL, 27, 1⟩

/-! `SRV_OUT_HEAD_o` -/
/-- `SRV_OUT_HEAD_o.HEAD`, RW (R419). -/
def F.SRV_OUT_HEAD_HEAD : Field := ⟨R.SRV_OUT_HEAD, 0, 20⟩

/-! `SRV_OUT_TAIL_o` -/
/-- `SRV_OUT_TAIL_o.TAIL`, RO (R419). -/
def F.SRV_OUT_TAIL_TAIL : Field := ⟨R.SRV_OUT_TAIL, 0, 20⟩

/-! `ALT_LINK_CTRL_l` -/
/-- `ALT_LINK_CTRL_l.EN`, RWL (R450). -/
def F.ALT_LINK_CTRL_EN : Field := ⟨R.ALT_LINK_CTRL, 0, 1⟩
/-- `ALT_LINK_CTRL_l.RECAL`, WO (R450). -/
def F.ALT_LINK_CTRL_RECAL : Field := ⟨R.ALT_LINK_CTRL, 1, 1⟩
/-- `ALT_LINK_CTRL_l.FULL_SEARCH`, WO (R450). -/
def F.ALT_LINK_CTRL_FULL_SEARCH : Field := ⟨R.ALT_LINK_CTRL, 2, 1⟩

/-! `ALT_LINK_STAT_l` -/
/-- `ALT_LINK_STAT_l.STATE`, RO (R451). -/
def F.ALT_LINK_STAT_STATE : Field := ⟨R.ALT_LINK_STAT, 0, 4⟩
/-- `ALT_LINK_STAT_l.LAST_FAIL`, RO (R451). -/
def F.ALT_LINK_STAT_LAST_FAIL : Field := ⟨R.ALT_LINK_STAT, 4, 4⟩
/-- `ALT_LINK_STAT_l.ATTEMPTS`, RO (R451). -/
def F.ALT_LINK_STAT_ATTEMPTS : Field := ⟨R.ALT_LINK_STAT, 8, 2⟩
/-- `ALT_LINK_STAT_l.CALSTALE`, RO (R451). -/
def F.ALT_LINK_STAT_CALSTALE : Field := ⟨R.ALT_LINK_STAT, 10, 1⟩
/-- `ALT_LINK_STAT_l.MISMATCH`, RO (R451). -/
def F.ALT_LINK_STAT_MISMATCH : Field := ⟨R.ALT_LINK_STAT, 11, 1⟩
/-- `ALT_LINK_STAT_l.CARRYING`, RO (R451). -/
def F.ALT_LINK_STAT_CARRYING : Field := ⟨R.ALT_LINK_STAT, 12, 1⟩
/-- `ALT_LINK_STAT_l.PORT`, RO (R451). -/
def F.ALT_LINK_STAT_PORT : Field := ⟨R.ALT_LINK_STAT, 13, 3⟩
/-- `ALT_LINK_STAT_l.NAMED`, RO (R451). -/
def F.ALT_LINK_STAT_NAMED : Field := ⟨R.ALT_LINK_STAT, 16, 1⟩
/-- `ALT_LINK_STAT_l.CHANGED`, W1C (R451). -/
def F.ALT_LINK_STAT_CHANGED : Field := ⟨R.ALT_LINK_STAT, 17, 1⟩

/-! `ALT_LINK_PEER_l` -/
/-- `ALT_LINK_PEER_l.PEER_CHIP`, RO (R452). -/
def F.ALT_LINK_PEER_PEER_CHIP : Field := ⟨R.ALT_LINK_PEER, 0, 12⟩
/-- `ALT_LINK_PEER_l.PEER_LINK`, RO (R452). -/
def F.ALT_LINK_PEER_PEER_LINK : Field := ⟨R.ALT_LINK_PEER, 12, 5⟩
/-- `ALT_LINK_PEER_l.PEER_PART`, RO (R452). -/
def F.ALT_LINK_PEER_PEER_PART : Field := ⟨R.ALT_LINK_PEER, 17, 8⟩
/-- `ALT_LINK_PEER_l.PEER_CHIP_VALID`, RO (R452). -/
def F.ALT_LINK_PEER_PEER_CHIP_VALID : Field := ⟨R.ALT_LINK_PEER, 25, 1⟩
/-- `ALT_LINK_PEER_l.VALID`, RO (R452). -/
def F.ALT_LINK_PEER_VALID : Field := ⟨R.ALT_LINK_PEER, 26, 1⟩

/-! `ALT_LINK_OPT_l` -/
/-- `ALT_LINK_OPT_l.TARGET_LAUNCH`, RW (R453). -/
def F.ALT_LINK_OPT_TARGET_LAUNCH : Field := ⟨R.ALT_LINK_OPT, 0, 8⟩
/-- `ALT_LINK_OPT_l.LAUNCH`, RO (R453). -/
def F.ALT_LINK_OPT_LAUNCH : Field := ⟨R.ALT_LINK_OPT, 8, 8⟩
/-- `ALT_LINK_OPT_l.RX_MIN`, RO (R453). -/
def F.ALT_LINK_OPT_RX_MIN : Field := ⟨R.ALT_LINK_OPT, 16, 8⟩
/-- `ALT_LINK_OPT_l.RING_LOCK`, RO (R453). -/
def F.ALT_LINK_OPT_RING_LOCK : Field := ⟨R.ALT_LINK_OPT, 24, 8⟩
/-- `ALT_LINK_OPT_l.CLAMPED`, RO (R453). -/
def F.ALT_LINK_OPT_CLAMPED : Field := ⟨R.ALT_LINK_OPT, 32, 1⟩

/-! `ALT_LINK_ERR_l` -/
/-- `ALT_LINK_ERR_l.CRC_ERR`, RO (R454). -/
def F.ALT_LINK_ERR_CRC_ERR : Field := ⟨R.ALT_LINK_ERR, 0, 16⟩
/-- `ALT_LINK_ERR_l.REPLAYS`, RO (R454). -/
def F.ALT_LINK_ERR_REPLAYS : Field := ⟨R.ALT_LINK_ERR, 16, 16⟩
/-- `ALT_LINK_ERR_l.RETRAINS`, RO (R454). -/
def F.ALT_LINK_ERR_RETRAINS : Field := ⟨R.ALT_LINK_ERR, 32, 16⟩
/-- `ALT_LINK_ERR_l.FENCE_DROPS`, RO (R454). -/
def F.ALT_LINK_ERR_FENCE_DROPS : Field := ⟨R.ALT_LINK_ERR, 48, 16⟩

/-! `ALT_LINK_FEC_l` -/
/-- `ALT_LINK_FEC_l.CW_CORRECTED`, RO (R454). -/
def F.ALT_LINK_FEC_CW_CORRECTED : Field := ⟨R.ALT_LINK_FEC, 0, 32⟩
/-- `ALT_LINK_FEC_l.CW_UNCORR`, RO (R454). -/
def F.ALT_LINK_FEC_CW_UNCORR : Field := ⟨R.ALT_LINK_FEC, 32, 16⟩
/-- `ALT_LINK_FEC_l.PEAK_SYM`, RO (R454). -/
def F.ALT_LINK_FEC_PEAK_SYM : Field := ⟨R.ALT_LINK_FEC, 48, 4⟩

/-! `ALT_PORT_CFG_p` -/
/-- `ALT_PORT_CFG_p.LINKS`, RWL (R455). -/
def F.ALT_PORT_CFG_LINKS : Field := ⟨R.ALT_PORT_CFG, 0, 22⟩
/-- `ALT_PORT_CFG_p.PEER_CHIP`, RWL (R455). -/
def F.ALT_PORT_CFG_PEER_CHIP : Field := ⟨R.ALT_PORT_CFG, 22, 12⟩
/-- `ALT_PORT_CFG_p.VALID`, RWL (R455). -/
def F.ALT_PORT_CFG_VALID : Field := ⟨R.ALT_PORT_CFG, 34, 1⟩
/-- `ALT_PORT_CFG_p.LOST_US`, RWL (R455). -/
def F.ALT_PORT_CFG_LOST_US : Field := ⟨R.ALT_PORT_CFG, 35, 8⟩

/-! `ALT_PORT_OWN_p` -/
/-- `ALT_PORT_OWN_p.OWNER_JOB`, RWL (R455). -/
def F.ALT_PORT_OWN_OWNER_JOB : Field := ⟨R.ALT_PORT_OWN, 0, 8⟩
/-- `ALT_PORT_OWN_p.OWNED`, RWL (R455). -/
def F.ALT_PORT_OWN_OWNED : Field := ⟨R.ALT_PORT_OWN, 8, 1⟩

/-! `ALT_MESH` -/
/-- `ALT_MESH.CHIP`, RWL (R456). -/
def F.ALT_MESH_CHIP : Field := ⟨R.ALT_MESH, 0, 12⟩
/-- `ALT_MESH.BASE`, RWL (R456). -/
def F.ALT_MESH_BASE : Field := ⟨R.ALT_MESH, 12, 12⟩
/-- `ALT_MESH.W_M1`, RWL (R456). -/
def F.ALT_MESH_W_M1 : Field := ⟨R.ALT_MESH, 24, 6⟩
/-- `ALT_MESH.H_M1`, RWL (R456). -/
def F.ALT_MESH_H_M1 : Field := ⟨R.ALT_MESH, 30, 6⟩
/-- `ALT_MESH.VALID`, RWL (R456). -/
def F.ALT_MESH_VALID : Field := ⟨R.ALT_MESH, 36, 1⟩

/-! `ALT_DIR_PORT` -/
/-- `ALT_DIR_PORT.PORT_0`, RWL (R456). -/
def F.ALT_DIR_PORT_PORT_0 : Field := ⟨R.ALT_DIR_PORT, 0, 3⟩
/-- `ALT_DIR_PORT.PORT_1`, RWL (R456). -/
def F.ALT_DIR_PORT_PORT_1 : Field := ⟨R.ALT_DIR_PORT, 4, 3⟩
/-- `ALT_DIR_PORT.PORT_2`, RWL (R456). -/
def F.ALT_DIR_PORT_PORT_2 : Field := ⟨R.ALT_DIR_PORT, 8, 3⟩
/-- `ALT_DIR_PORT.PORT_3`, RWL (R456). -/
def F.ALT_DIR_PORT_PORT_3 : Field := ⟨R.ALT_DIR_PORT, 12, 3⟩
/-- `ALT_DIR_PORT.VALID_0`, RWL (R456). -/
def F.ALT_DIR_PORT_VALID_0 : Field := ⟨R.ALT_DIR_PORT, 3, 1⟩
/-- `ALT_DIR_PORT.VALID_1`, RWL (R456). -/
def F.ALT_DIR_PORT_VALID_1 : Field := ⟨R.ALT_DIR_PORT, 7, 1⟩
/-- `ALT_DIR_PORT.VALID_2`, RWL (R456). -/
def F.ALT_DIR_PORT_VALID_2 : Field := ⟨R.ALT_DIR_PORT, 11, 1⟩
/-- `ALT_DIR_PORT.VALID_3`, RWL (R456). -/
def F.ALT_DIR_PORT_VALID_3 : Field := ⟨R.ALT_DIR_PORT, 15, 1⟩

/-! `ALT_EXT` -/
/-- `ALT_EXT.BASE`, RWL (R456). -/
def F.ALT_EXT_BASE : Field := ⟨R.ALT_EXT, 0, 12⟩
/-- `ALT_EXT.COUNT`, RWL (R456). -/
def F.ALT_EXT_COUNT : Field := ⟨R.ALT_EXT, 12, 13⟩
/-- `ALT_EXT.PORT`, RWL (R456). -/
def F.ALT_EXT_PORT : Field := ⟨R.ALT_EXT, 25, 3⟩
/-- `ALT_EXT.VALID`, RWL (R456). -/
def F.ALT_EXT_VALID : Field := ⟨R.ALT_EXT, 28, 1⟩

/-! `ALT_NET_STAT` -/
/-- `ALT_NET_STAT.UNREACH_SENT`, RO (R457). -/
def F.ALT_NET_STAT_UNREACH_SENT : Field := ⟨R.ALT_NET_STAT, 0, 16⟩
/-- `ALT_NET_STAT.FENCE_DROPS`, RO (R457). -/
def F.ALT_NET_STAT_FENCE_DROPS : Field := ⟨R.ALT_NET_STAT, 16, 16⟩
/-- `ALT_NET_STAT.BAD_MSG`, RO (R457). -/
def F.ALT_NET_STAT_BAD_MSG : Field := ⟨R.ALT_NET_STAT, 32, 16⟩
/-- `ALT_NET_STAT.UNROUTABLE`, RO (R457). -/
def F.ALT_NET_STAT_UNROUTABLE : Field := ⟨R.ALT_NET_STAT, 48, 16⟩

/-! `ALT_PORT_STAT_p` -/
/-- `ALT_PORT_STAT_p.CARRYING`, RO (R457). -/
def F.ALT_PORT_STAT_CARRYING : Field := ⟨R.ALT_PORT_STAT, 0, 22⟩
/-- `ALT_PORT_STAT_p.LOST`, RO (R457). -/
def F.ALT_PORT_STAT_LOST : Field := ⟨R.ALT_PORT_STAT, 22, 1⟩
/-- `ALT_PORT_STAT_p.LOST_EVT`, W1C (R457). -/
def F.ALT_PORT_STAT_LOST_EVT : Field := ⟨R.ALT_PORT_STAT, 23, 1⟩

/-! `ALT_LASER_i` -/
/-- `ALT_LASER_i.IN_MIN`, RO (R457). -/
def F.ALT_LASER_IN_MIN : Field := ⟨R.ALT_LASER, 0, 8⟩
/-- `ALT_LASER_i.PRESENT`, RO (R457). -/
def F.ALT_LASER_PRESENT : Field := ⟨R.ALT_LASER, 8, 8⟩
/-- `ALT_LASER_i.LOW`, RO (R457). -/
def F.ALT_LASER_LOW : Field := ⟨R.ALT_LASER, 16, 1⟩

/-! `PLN_CAP` -/
/-- `PLN_CAP.CAP_GIB`, RO (R458). -/
def F.PLN_CAP_CAP_GIB : Field := ⟨R.PLN_CAP, 0, 15⟩
/-- `PLN_CAP.VALID`, RO (R458). -/
def F.PLN_CAP_VALID : Field := ⟨R.PLN_CAP, 15, 1⟩
/-- `PLN_CAP.BUF_ID`, RO (R458). -/
def F.PLN_CAP_BUF_ID : Field := ⟨R.PLN_CAP, 32, 32⟩

/-! `PLN_CFG` -/
/-- `PLN_CFG.TIMEOUT_US`, RWL (R458). -/
def F.PLN_CFG_TIMEOUT_US : Field := ⟨R.PLN_CFG, 0, 8⟩

/-! `PLN_STAT` -/
/-- `PLN_STAT.POISONED`, RO (R458). -/
def F.PLN_STAT_POISONED : Field := ⟨R.PLN_STAT, 0, 16⟩
/-- `PLN_STAT.TIMEOUTS`, RO (R458). -/
def F.PLN_STAT_TIMEOUTS : Field := ⟨R.PLN_STAT, 16, 16⟩
/-- `PLN_STAT.REROUTED`, RO (R458). -/
def F.PLN_STAT_REROUTED : Field := ⟨R.PLN_STAT, 32, 16⟩
/-- `PLN_STAT.RANGE_ERR`, RO (R458). -/
def F.PLN_STAT_RANGE_ERR : Field := ⟨R.PLN_STAT, 48, 16⟩

/-! `PLN_RSV_r` -/
/-- `PLN_RSV_r.OWNER_JOB`, RWL (R459). -/
def F.PLN_RSV_OWNER_JOB : Field := ⟨R.PLN_RSV, 0, 8⟩
/-- `PLN_RSV_r.OWNED`, RWL (R459). -/
def F.PLN_RSV_OWNED : Field := ⟨R.PLN_RSV, 8, 1⟩
/-- `PLN_RSV_r.GBPS`, RWL (R459). -/
def F.PLN_RSV_GBPS : Field := ⟨R.PLN_RSV, 9, 7⟩

/-! `ALT_RM_CFG` -/
/-- `ALT_RM_CFG.RM_TIMEOUT_US`, RWL (R487). -/
def F.ALT_RM_CFG_RM_TIMEOUT_US : Field := ⟨R.ALT_RM_CFG, 0, 16⟩
/-- `ALT_RM_CFG.W_REQ`, RWL (R487). -/
def F.ALT_RM_CFG_W_REQ : Field := ⟨R.ALT_RM_CFG, 16, 4⟩
/-- `ALT_RM_CFG.W_POST`, RWL (R487). -/
def F.ALT_RM_CFG_W_POST : Field := ⟨R.ALT_RM_CFG, 20, 4⟩
/-- `ALT_RM_CFG.W_RING`, RWL (R487). -/
def F.ALT_RM_CFG_W_RING : Field := ⟨R.ALT_RM_CFG, 24, 4⟩
/-- `ALT_RM_CFG.W_COLL`, RWL (R487). -/
def F.ALT_RM_CFG_W_COLL : Field := ⟨R.ALT_RM_CFG, 28, 4⟩

/-! `ALT_RM_STAT` -/
/-- `ALT_RM_STAT.NO_WINDOW`, RO (R488). -/
def F.ALT_RM_STAT_NO_WINDOW : Field := ⟨R.ALT_RM_STAT, 0, 16⟩
/-- `ALT_RM_STAT.BUSY_RESENDS`, RO (R488). -/
def F.ALT_RM_STAT_BUSY_RESENDS : Field := ⟨R.ALT_RM_STAT, 16, 16⟩
/-- `ALT_RM_STAT.TIMEOUTS`, RO (R488). -/
def F.ALT_RM_STAT_TIMEOUTS : Field := ⟨R.ALT_RM_STAT, 32, 16⟩
/-- `ALT_RM_STAT.LATE`, RO (R488). -/
def F.ALT_RM_STAT_LATE : Field := ⟨R.ALT_RM_STAT, 48, 16⟩

/-! `ALT_COLL_CFG` -/
/-- `ALT_COLL_CFG.ORDER_TIMEOUT`, RWL (R487). -/
def F.ALT_COLL_CFG_ORDER_TIMEOUT : Field := ⟨R.ALT_COLL_CFG, 0, 32⟩
/-- `ALT_COLL_CFG.ONESHOT_KIB`, RWL (R487). -/
def F.ALT_COLL_CFG_ONESHOT_KIB : Field := ⟨R.ALT_COLL_CFG, 32, 16⟩
/-- `ALT_COLL_CFG.LAG_LIMIT`, RWL (R487). -/
def F.ALT_COLL_CFG_LAG_LIMIT : Field := ⟨R.ALT_COLL_CFG, 48, 16⟩

/-! `ALT_COLL_STAT` -/
/-- `ALT_COLL_STAT.PENDING`, RO (R488). -/
def F.ALT_COLL_STAT_PENDING : Field := ⟨R.ALT_COLL_STAT, 0, 3⟩
/-- `ALT_COLL_STAT.ORDER_FAILS`, RO (R488). -/
def F.ALT_COLL_STAT_ORDER_FAILS : Field := ⟨R.ALT_COLL_STAT, 8, 16⟩
/-- `ALT_COLL_STAT.LAGGARDS`, RO (R488). -/
def F.ALT_COLL_STAT_LAGGARDS : Field := ⟨R.ALT_COLL_STAT, 24, 16⟩
/-- `ALT_COLL_STAT.EARLY_DISCARDS`, RO (R488). -/
def F.ALT_COLL_STAT_EARLY_DISCARDS : Field := ⟨R.ALT_COLL_STAT, 40, 16⟩

/-! `ALT_RM_WIN_BASE_w` -/
/-- `ALT_RM_WIN_BASE_w.FIRST`, RWL (R489). -/
def F.ALT_RM_WIN_BASE_FIRST : Field := ⟨R.ALT_RM_WIN_BASE, 0, 30⟩
/-- `ALT_RM_WIN_BASE_w.FRAMES`, RWL (R489). -/
def F.ALT_RM_WIN_BASE_FRAMES : Field := ⟨R.ALT_RM_WIN_BASE, 30, 30⟩

/-! `ALT_RM_WIN_CTRL_w` -/
/-- `ALT_RM_WIN_CTRL_w.VALID`, RWL (R489). -/
def F.ALT_RM_WIN_CTRL_VALID : Field := ⟨R.ALT_RM_WIN_CTRL, 0, 1⟩
/-- `ALT_RM_WIN_CTRL_w.OWNER_JOB`, RWL (R489). -/
def F.ALT_RM_WIN_CTRL_OWNER_JOB : Field := ⟨R.ALT_RM_WIN_CTRL, 1, 8⟩
/-- `ALT_RM_WIN_CTRL_w.R`, RWL (R489). -/
def F.ALT_RM_WIN_CTRL_R : Field := ⟨R.ALT_RM_WIN_CTRL, 9, 1⟩
/-- `ALT_RM_WIN_CTRL_w.W`, RWL (R489). -/
def F.ALT_RM_WIN_CTRL_W : Field := ⟨R.ALT_RM_WIN_CTRL, 10, 1⟩
/-- `ALT_RM_WIN_CTRL_w.A`, RWL (R489). -/
def F.ALT_RM_WIN_CTRL_A : Field := ⟨R.ALT_RM_WIN_CTRL, 11, 1⟩
/-- `ALT_RM_WIN_CTRL_w.FIRST_CHIP`, RWL (R489). -/
def F.ALT_RM_WIN_CTRL_FIRST_CHIP : Field := ⟨R.ALT_RM_WIN_CTRL, 12, 12⟩
/-- `ALT_RM_WIN_CTRL_w.CHIP_COUNT`, RWL (R489). -/
def F.ALT_RM_WIN_CTRL_CHIP_COUNT : Field := ⟨R.ALT_RM_WIN_CTRL, 24, 13⟩
/-- `ALT_RM_WIN_CTRL_w.SRC_JOB`, RWL (R489). -/
def F.ALT_RM_WIN_CTRL_SRC_JOB : Field := ⟨R.ALT_RM_WIN_CTRL, 37, 8⟩
/-- `ALT_RM_WIN_CTRL_w.ANY_JOB`, RWL (R489). -/
def F.ALT_RM_WIN_CTRL_ANY_JOB : Field := ⟨R.ALT_RM_WIN_CTRL, 45, 1⟩
/-- `ALT_RM_WIN_CTRL_w.NOTIFY_FENCE`, RWL (R489). -/
def F.ALT_RM_WIN_CTRL_NOTIFY_FENCE : Field := ⟨R.ALT_RM_WIN_CTRL, 46, 16⟩
/-- `ALT_RM_WIN_CTRL_w.NOTIFY`, RWL (R489). -/
def F.ALT_RM_WIN_CTRL_NOTIFY : Field := ⟨R.ALT_RM_WIN_CTRL, 62, 1⟩

/-! `ALT_CG_CFG_g` -/
/-- `ALT_CG_CFG_g.VALID`, RWL (R490). -/
def F.ALT_CG_CFG_VALID : Field := ⟨R.ALT_CG_CFG, 0, 1⟩
/-- `ALT_CG_CFG_g.OWNER_JOB`, RWL (R490). -/
def F.ALT_CG_CFG_OWNER_JOB : Field := ⟨R.ALT_CG_CFG, 1, 8⟩
/-- `ALT_CG_CFG_g.KIND`, RWL (R490). -/
def F.ALT_CG_CFG_KIND : Field := ⟨R.ALT_CG_CFG, 9, 1⟩
/-- `ALT_CG_CFG_g.MEMBERS_M1`, RWL (R490). -/
def F.ALT_CG_CFG_MEMBERS_M1 : Field := ⟨R.ALT_CG_CFG, 10, 12⟩
/-- `ALT_CG_CFG_g.INDEX`, RWL (R490). -/
def F.ALT_CG_CFG_INDEX : Field := ⟨R.ALT_CG_CFG, 22, 12⟩
/-- `ALT_CG_CFG_g.GID`, RWL (R490). -/
def F.ALT_CG_CFG_GID : Field := ⟨R.ALT_CG_CFG, 34, 16⟩

/-! `ALT_CG_GEOM_g` -/
/-- `ALT_CG_GEOM_g.X0`, RWL (R490). -/
def F.ALT_CG_GEOM_X0 : Field := ⟨R.ALT_CG_GEOM, 0, 6⟩
/-- `ALT_CG_GEOM_g.Y0`, RWL (R490). -/
def F.ALT_CG_GEOM_Y0 : Field := ⟨R.ALT_CG_GEOM, 6, 6⟩
/-- `ALT_CG_GEOM_g.W_M1`, RWL (R490). -/
def F.ALT_CG_GEOM_W_M1 : Field := ⟨R.ALT_CG_GEOM, 12, 6⟩
/-- `ALT_CG_GEOM_g.H_M1`, RWL (R490). -/
def F.ALT_CG_GEOM_H_M1 : Field := ⟨R.ALT_CG_GEOM, 18, 6⟩

/-! `ALT_CG_LIST_g` -/
/-- `ALT_CG_LIST_g.LIST_BASE`, RWL (R490). -/
def F.ALT_CG_LIST_LIST_BASE : Field := ⟨R.ALT_CG_LIST, 0, 51⟩

/-! `ALT_CG_STAT_g` -/
/-- `ALT_CG_STAT_g.SEQ`, RO (R491). -/
def F.ALT_CG_STAT_SEQ : Field := ⟨R.ALT_CG_STAT, 0, 32⟩
/-- `ALT_CG_STAT_g.LIST_CRC`, RO (R491). -/
def F.ALT_CG_STAT_LIST_CRC : Field := ⟨R.ALT_CG_STAT, 32, 32⟩

/-! `GLB_BOARD` -/
/-- `GLB_BOARD.SLOT_ID`, RO (R515). -/
def F.GLB_BOARD_SLOT_ID : Field := ⟨R.GLB_BOARD, 0, 6⟩
/-- `GLB_BOARD.PWRFAIL`, RO (R515). -/
def F.GLB_BOARD_PWRFAIL : Field := ⟨R.GLB_BOARD, 6, 1⟩
/-- `GLB_BOARD.THERMTRIP`, RO (R515). -/
def F.GLB_BOARD_THERMTRIP : Field := ⟨R.GLB_BOARD, 7, 1⟩
/-- `GLB_BOARD.FAULT`, RO (R515). -/
def F.GLB_BOARD_FAULT : Field := ⟨R.GLB_BOARD, 8, 1⟩
/-- `GLB_BOARD.MGMT_DROPS`, RO (R515). -/
def F.GLB_BOARD_MGMT_DROPS : Field := ⟨R.GLB_BOARD, 16, 16⟩

/-! `GLB_PORT_STAT_p` -/
/-- `GLB_PORT_STAT_p.LINK_UP`, RO (R516). -/
def F.GLB_PORT_STAT_LINK_UP : Field := ⟨R.GLB_PORT_STAT, 0, 1⟩
/-- `GLB_PORT_STAT_p.SPEED`, RO (R516). -/
def F.GLB_PORT_STAT_SPEED : Field := ⟨R.GLB_PORT_STAT, 1, 3⟩
/-- `GLB_PORT_STAT_p.WIDTH`, RO (R516). -/
def F.GLB_PORT_STAT_WIDTH : Field := ⟨R.GLB_PORT_STAT, 4, 5⟩
/-- `GLB_PORT_STAT_p.LOST`, RO (R516). -/
def F.GLB_PORT_STAT_LOST : Field := ⟨R.GLB_PORT_STAT, 9, 1⟩
/-- `GLB_PORT_STAT_p.LOSS_EVT`, W1C (R516). -/
def F.GLB_PORT_STAT_LOSS_EVT : Field := ⟨R.GLB_PORT_STAT, 10, 1⟩
/-- `GLB_PORT_STAT_p.LOSS_CAUSE`, RO (R516). -/
def F.GLB_PORT_STAT_LOSS_CAUSE : Field := ⟨R.GLB_PORT_STAT, 11, 3⟩
/-- `GLB_PORT_STAT_p.DROPPED`, RO (R516). -/
def F.GLB_PORT_STAT_DROPPED : Field := ⟨R.GLB_PORT_STAT, 16, 16⟩
/-- `GLB_PORT_STAT_p.HWIN_DENY`, RO (R516). -/
def F.GLB_PORT_STAT_HWIN_DENY : Field := ⟨R.GLB_PORT_STAT, 32, 16⟩
/-- `GLB_PORT_STAT_p.APER_DENY`, RO (R516). -/
def F.GLB_PORT_STAT_APER_DENY : Field := ⟨R.GLB_PORT_STAT, 48, 16⟩

/-! `GLB_PORT_CFG_p` -/
/-- `GLB_PORT_CFG_p.LOSS_VEC`, RW (R517). -/
def F.GLB_PORT_CFG_LOSS_VEC : Field := ⟨R.GLB_PORT_CFG, 0, 11⟩
/-- `GLB_PORT_CFG_p.LOSS_EN`, RW (R517). -/
def F.GLB_PORT_CFG_LOSS_EN : Field := ⟨R.GLB_PORT_CFG, 11, 1⟩
/-- `GLB_PORT_CFG_p.PWRFAIL_VEC`, RW (R517). -/
def F.GLB_PORT_CFG_PWRFAIL_VEC : Field := ⟨R.GLB_PORT_CFG, 12, 11⟩
/-- `GLB_PORT_CFG_p.PWRFAIL_EN`, RW (R517). -/
def F.GLB_PORT_CFG_PWRFAIL_EN : Field := ⟨R.GLB_PORT_CFG, 23, 1⟩
/-- `GLB_PORT_CFG_p.FLUSH_WIN`, RW (R517). -/
def F.GLB_PORT_CFG_FLUSH_WIN : Field := ⟨R.GLB_PORT_CFG, 24, 4⟩
/-- `GLB_PORT_CFG_p.FLUSH_EN`, RW (R517). -/
def F.GLB_PORT_CFG_FLUSH_EN : Field := ⟨R.GLB_PORT_CFG, 28, 1⟩

/-! `GLB_APERTURE_p` -/
/-- `GLB_APERTURE_p.VALID`, RW (R518). -/
def F.GLB_APERTURE_VALID : Field := ⟨R.GLB_APERTURE, 0, 1⟩
/-- `GLB_APERTURE_p.JOB`, RW (R518). -/
def F.GLB_APERTURE_JOB : Field := ⟨R.GLB_APERTURE, 1, 8⟩
/-- `GLB_APERTURE_p.BASE`, RW (R518). -/
def F.GLB_APERTURE_BASE : Field := ⟨R.GLB_APERTURE, 30, 21⟩

/-! `GLB_HWIN_BASE_p_w` -/
/-- `GLB_HWIN_BASE_p_w.ADDR`, RW (R519). -/
def F.GLB_HWIN_BASE_ADDR : Field := ⟨R.GLB_HWIN_BASE, 12, 52⟩

/-! `GLB_HWIN_SIZE_p_w` -/
/-- `GLB_HWIN_SIZE_p_w.VALID`, RW (R519). -/
def F.GLB_HWIN_SIZE_VALID : Field := ⟨R.GLB_HWIN_SIZE, 0, 1⟩
/-- `GLB_HWIN_SIZE_p_w.PAGES`, RW (R519). -/
def F.GLB_HWIN_SIZE_PAGES : Field := ⟨R.GLB_HWIN_SIZE, 12, 40⟩

/-! `FLT_LOG_HEAD` -/
/-- `FLT_LOG_HEAD.NEXT`, RO (R553). -/
def F.FLT_LOG_HEAD_NEXT : Field := ⟨R.FLT_LOG_HEAD, 0, 8⟩
/-- `FLT_LOG_HEAD.TOTAL`, RO (R553). -/
def F.FLT_LOG_HEAD_TOTAL : Field := ⟨R.FLT_LOG_HEAD, 8, 32⟩
/-- `FLT_LOG_HEAD.OVERWRITTEN`, RO (R553). -/
def F.FLT_LOG_HEAD_OVERWRITTEN : Field := ⟨R.FLT_LOG_HEAD, 40, 16⟩

/-! `FLT_CLASS_CNT` -/
/-- `FLT_CLASS_CNT.COUNT_1`, RO (R553). -/
def F.FLT_CLASS_CNT_COUNT_1 : Field := ⟨R.FLT_CLASS_CNT, 0, 12⟩
/-- `FLT_CLASS_CNT.COUNT_2`, RO (R553). -/
def F.FLT_CLASS_CNT_COUNT_2 : Field := ⟨R.FLT_CLASS_CNT, 12, 12⟩
/-- `FLT_CLASS_CNT.COUNT_3`, RO (R553). -/
def F.FLT_CLASS_CNT_COUNT_3 : Field := ⟨R.FLT_CLASS_CNT, 24, 12⟩
/-- `FLT_CLASS_CNT.COUNT_4`, RO (R553). -/
def F.FLT_CLASS_CNT_COUNT_4 : Field := ⟨R.FLT_CLASS_CNT, 36, 12⟩
/-- `FLT_CLASS_CNT.COUNT_5`, RO (R553). -/
def F.FLT_CLASS_CNT_COUNT_5 : Field := ⟨R.FLT_CLASS_CNT, 48, 12⟩

/-! `FLT_IRQ_p` -/
/-- `FLT_IRQ_p.VECTOR`, RW (R554). -/
def F.FLT_IRQ_VECTOR : Field := ⟨R.FLT_IRQ, 0, 11⟩
/-- `FLT_IRQ_p.EN`, RW (R554). -/
def F.FLT_IRQ_EN : Field := ⟨R.FLT_IRQ, 11, 1⟩
/-- `FLT_IRQ_p.MIN_CLASS`, RW (R554). -/
def F.FLT_IRQ_MIN_CLASS : Field := ⟨R.FLT_IRQ, 12, 3⟩

/-! `FLT_RECOV` -/
/-- `FLT_RECOV.DALES`, RO (R555). -/
def F.FLT_RECOV_DALES : Field := ⟨R.FLT_RECOV, 0, 32⟩
/-- `FLT_RECOV.STACKS`, RO (R555). -/
def F.FLT_RECOV_STACKS : Field := ⟨R.FLT_RECOV, 32, 12⟩
/-- `FLT_RECOV.DIES`, RO (R555). -/
def F.FLT_RECOV_DIES : Field := ⟨R.FLT_RECOV, 44, 2⟩
/-- `FLT_RECOV.WARM`, RO (R555). -/
def F.FLT_RECOV_WARM : Field := ⟨R.FLT_RECOV, 46, 1⟩

/-! `FLT_HBM` -/
/-- `FLT_HBM.RET_W`, RO (R555). -/
def F.FLT_HBM_RET_W : Field := ⟨R.FLT_HBM, 0, 8⟩
/-- `FLT_HBM.COPYING_W`, RO (R555). -/
def F.FLT_HBM_COPYING_W : Field := ⟨R.FLT_HBM, 8, 1⟩
/-- `FLT_HBM.RET_E`, RO (R555). -/
def F.FLT_HBM_RET_E : Field := ⟨R.FLT_HBM, 16, 8⟩
/-- `FLT_HBM.COPYING_E`, RO (R555). -/
def F.FLT_HBM_COPYING_E : Field := ⟨R.FLT_HBM, 24, 1⟩
/-- `FLT_HBM.STACK_LOST`, RO (R555). -/
def F.FLT_HBM_STACK_LOST : Field := ⟨R.FLT_HBM, 32, 12⟩

/-! `FLT_FAILED` -/
/-- `FLT_FAILED.DALES`, RO (R556). -/
def F.FLT_FAILED_DALES : Field := ⟨R.FLT_FAILED, 0, 32⟩
/-- `FLT_FAILED.SPARE_BAD_W`, RO (R556). -/
def F.FLT_FAILED_SPARE_BAD_W : Field := ⟨R.FLT_FAILED, 32, 1⟩
/-- `FLT_FAILED.SPARE_BAD_E`, RO (R556). -/
def F.FLT_FAILED_SPARE_BAD_E : Field := ⟨R.FLT_FAILED, 33, 1⟩

/-! `FLT_FAILED_CORES` -/
/-- `FLT_FAILED_CORES.CORES`, RO (R556). -/
def F.FLT_FAILED_CORES_CORES : Field := ⟨R.FLT_FAILED_CORES, 0, 64⟩

/-! `FLT_PENDANT` -/
/-- `FLT_PENDANT.VALID`, RWL (R557). -/
def F.FLT_PENDANT_VALID : Field := ⟨R.FLT_PENDANT, 0, 1⟩
/-- `FLT_PENDANT.ROLE`, RWL (R557). -/
def F.FLT_PENDANT_ROLE : Field := ⟨R.FLT_PENDANT, 1, 1⟩
/-- `FLT_PENDANT.AUTO`, RWL (R557). -/
def F.FLT_PENDANT_AUTO : Field := ⟨R.FLT_PENDANT, 2, 1⟩
/-- `FLT_PENDANT.PROMOTED`, RO (R557). -/
def F.FLT_PENDANT_PROMOTED : Field := ⟨R.FLT_PENDANT, 3, 1⟩
/-- `FLT_PENDANT.STOPPED`, RO (R557). -/
def F.FLT_PENDANT_STOPPED : Field := ⟨R.FLT_PENDANT, 4, 1⟩

/-! `FLT_PROMOTE_MASK` -/
/-- `FLT_PROMOTE_MASK.BINDINGS`, RWL (R557). -/
def F.FLT_PROMOTE_MASK_BINDINGS : Field := ⟨R.FLT_PROMOTE_MASK, 0, 64⟩

/-! `FLT_PENDANT_CMD` -/
/-- `FLT_PENDANT_CMD.PROMOTE_NOW`, WO (R557). -/
def F.FLT_PENDANT_CMD_PROMOTE_NOW : Field := ⟨R.FLT_PENDANT_CMD, 0, 1⟩

/-! `FLT_PENDANT_STAT` -/
/-- `FLT_PENDANT_STAT.TRIGGER`, RO (R557). -/
def F.FLT_PENDANT_STAT_TRIGGER : Field := ⟨R.FLT_PENDANT_STAT, 0, 3⟩
/-- `FLT_PENDANT_STAT.TRIGGER_CHIP`, RO (R557). -/
def F.FLT_PENDANT_STAT_TRIGGER_CHIP : Field := ⟨R.FLT_PENDANT_STAT, 3, 12⟩
/-- `FLT_PENDANT_STAT.MIRROR_LOST`, RO (R557). -/
def F.FLT_PENDANT_STAT_MIRROR_LOST : Field := ⟨R.FLT_PENDANT_STAT, 16, 32⟩

/-! `FLT_CAL_STAT` -/
/-- `FLT_CAL_STAT.STALE`, RO (R558). -/
def F.FLT_CAL_STAT_STALE : Field := ⟨R.FLT_CAL_STAT, 0, 16⟩
/-- `FLT_CAL_STAT.RECALS`, RO (R558). -/
def F.FLT_CAL_STAT_RECALS : Field := ⟨R.FLT_CAL_STAT, 16, 16⟩
/-- `FLT_CAL_STAT.QUEUED`, RO (R558). -/
def F.FLT_CAL_STAT_QUEUED : Field := ⟨R.FLT_CAL_STAT, 32, 8⟩
/-- `FLT_CAL_STAT.DEFERRED`, RO (R558). -/
def F.FLT_CAL_STAT_DEFERRED : Field := ⟨R.FLT_CAL_STAT, 40, 1⟩

/-! `FLT_FW_STAT` -/
/-- `FLT_FW_STAT.IMAGE`, RO (R558). -/
def F.FLT_FW_STAT_IMAGE : Field := ⟨R.FLT_FW_STAT, 0, 4⟩
/-- `FLT_FW_STAT.ACTIVE_B`, RO (R558). -/
def F.FLT_FW_STAT_ACTIVE_B : Field := ⟨R.FLT_FW_STAT, 4, 1⟩
/-- `FLT_FW_STAT.ROLL`, RO (R558). -/
def F.FLT_FW_STAT_ROLL : Field := ⟨R.FLT_FW_STAT, 5, 3⟩
/-- `FLT_FW_STAT.ROLL_CORE`, RO (R558). -/
def F.FLT_FW_STAT_ROLL_CORE : Field := ⟨R.FLT_FW_STAT, 8, 2⟩

/-! `FLT_LOST_w` -/
/-- `FLT_LOST_w.LOST`, RWL (R559). -/
def F.FLT_LOST_LOST : Field := ⟨R.FLT_LOST, 0, 64⟩

/-! `FLT_LOG_A_e` -/
/-- `FLT_LOG_A_e.CODE`, RO (R560). -/
def F.FLT_LOG_A_CODE : Field := ⟨R.FLT_LOG_A, 0, 16⟩
/-- `FLT_LOG_A_e.JOB`, RO (R560). -/
def F.FLT_LOG_A_JOB : Field := ⟨R.FLT_LOG_A, 16, 8⟩
/-- `FLT_LOG_A_e.DOMAIN`, RO (R560). -/
def F.FLT_LOG_A_DOMAIN : Field := ⟨R.FLT_LOG_A, 24, 4⟩
/-- `FLT_LOG_A_e.ESCALATED`, RO (R560). -/
def F.FLT_LOG_A_ESCALATED : Field := ⟨R.FLT_LOG_A, 28, 1⟩
/-- `FLT_LOG_A_e.VALID`, RO (R560). -/
def F.FLT_LOG_A_VALID : Field := ⟨R.FLT_LOG_A, 29, 1⟩
/-- `FLT_LOG_A_e.INDEX`, RO (R560). -/
def F.FLT_LOG_A_INDEX : Field := ⟨R.FLT_LOG_A, 32, 12⟩
/-- `FLT_LOG_A_e.REPEAT`, RO (R560). -/
def F.FLT_LOG_A_REPEAT : Field := ⟨R.FLT_LOG_A, 44, 16⟩

/-! `FLT_LOG_B_e` -/
/-- `FLT_LOG_B_e.TIME`, RO (R560). -/
def F.FLT_LOG_B_TIME : Field := ⟨R.FLT_LOG_B, 0, 64⟩

/-! `FLT_LOG_C_e` -/
/-- `FLT_LOG_C_e.SEQ`, RO (R560). -/
def F.FLT_LOG_C_SEQ : Field := ⟨R.FLT_LOG_C, 0, 48⟩
/-- `FLT_LOG_C_e.QUEUE`, RO (R560). -/
def F.FLT_LOG_C_QUEUE : Field := ⟨R.FLT_LOG_C, 48, 12⟩
/-- `FLT_LOG_C_e.CMD_VALID`, RO (R560). -/
def F.FLT_LOG_C_CMD_VALID : Field := ⟨R.FLT_LOG_C, 60, 1⟩

/-! `FLT_LOG_D_e` -/
/-- `FLT_LOG_D_e.DATUM`, RO (R560). -/
def F.FLT_LOG_D_DATUM : Field := ⟨R.FLT_LOG_D, 0, 64⟩

/-! `SEC_BOOT_STAT` -/
/-- `SEC_BOOT_STAT.MODE`, RO (R576). -/
def F.SEC_BOOT_STAT_MODE : Field := ⟨R.SEC_BOOT_STAT, 0, 2⟩
/-- `SEC_BOOT_STAT.A_FAIL`, RO (R576). -/
def F.SEC_BOOT_STAT_A_FAIL : Field := ⟨R.SEC_BOOT_STAT, 2, 3⟩
/-- `SEC_BOOT_STAT.B_FAIL`, RO (R576). -/
def F.SEC_BOOT_STAT_B_FAIL : Field := ⟨R.SEC_BOOT_STAT, 5, 3⟩
/-- `SEC_BOOT_STAT.VERSION`, RO (R576). -/
def F.SEC_BOOT_STAT_VERSION : Field := ⟨R.SEC_BOOT_STAT, 8, 32⟩

/-! `SEC_FUSES` -/
/-- `SEC_FUSES.SVN`, RO (R576). -/
def F.SEC_FUSES_SVN : Field := ⟨R.SEC_FUSES, 0, 7⟩
/-- `SEC_FUSES.KEY_MIN`, RO (R576). -/
def F.SEC_FUSES_KEY_MIN : Field := ⟨R.SEC_FUSES, 7, 2⟩
/-- `SEC_FUSES.SLOT_OWNER`, RO (R576). -/
def F.SEC_FUSES_SLOT_OWNER : Field := ⟨R.SEC_FUSES, 9, 3⟩
/-- `SEC_FUSES.SLOT_OPERATOR`, RO (R576). -/
def F.SEC_FUSES_SLOT_OPERATOR : Field := ⟨R.SEC_FUSES, 12, 3⟩
/-- `SEC_FUSES.SLOT_OBSERVER`, RO (R576). -/
def F.SEC_FUSES_SLOT_OBSERVER : Field := ⟨R.SEC_FUSES, 15, 3⟩

/-! `SEC_PLINTH_STAT` -/
/-- `SEC_PLINTH_STAT.LAUNCH_CLAMPS`, RO (R577). -/
def F.SEC_PLINTH_STAT_LAUNCH_CLAMPS : Field := ⟨R.SEC_PLINTH_STAT, 0, 16⟩
/-- `SEC_PLINTH_STAT.FUSE_REFUSED`, RO (R577). -/
def F.SEC_PLINTH_STAT_FUSE_REFUSED : Field := ⟨R.SEC_PLINTH_STAT, 16, 16⟩
/-- `SEC_PLINTH_STAT.CURRENT_EVENTS`, RO (R577). -/
def F.SEC_PLINTH_STAT_CURRENT_EVENTS : Field := ⟨R.SEC_PLINTH_STAT, 32, 16⟩

/-! `SEC_IDPK_w` -/
/-- `SEC_IDPK_w.PK`, RO (R577). -/
def F.SEC_IDPK_PK : Field := ⟨R.SEC_IDPK, 0, 64⟩

/-! `SEC_MEAS_r_w` -/
/-- `SEC_MEAS_r_w.VALUE`, RO (R577). -/
def F.SEC_MEAS_VALUE : Field := ⟨R.SEC_MEAS, 0, 64⟩

/-! `SEC_ROLE_r` -/
/-- `SEC_ROLE_r.FAILS`, RO (R578). -/
def F.SEC_ROLE_FAILS : Field := ⟨R.SEC_ROLE, 0, 3⟩
/-- `SEC_ROLE_r.LEVEL`, RO (R578). -/
def F.SEC_ROLE_LEVEL : Field := ⟨R.SEC_ROLE, 3, 4⟩
/-- `SEC_ROLE_r.LOCKED`, RO (R578). -/
def F.SEC_ROLE_LOCKED : Field := ⟨R.SEC_ROLE, 7, 1⟩
/-- `SEC_ROLE_r.OPEN`, RO (R578). -/
def F.SEC_ROLE_OPEN : Field := ⟨R.SEC_ROLE, 8, 1⟩
/-- `SEC_ROLE_r.PENDING`, RO (R578). -/
def F.SEC_ROLE_PENDING : Field := ⟨R.SEC_ROLE, 9, 1⟩
/-- `SEC_ROLE_r.TRANSPORT`, RO (R578). -/
def F.SEC_ROLE_TRANSPORT : Field := ⟨R.SEC_ROLE, 10, 2⟩
/-- `SEC_ROLE_r.LOCKOUTS`, RO (R578). -/
def F.SEC_ROLE_LOCKOUTS : Field := ⟨R.SEC_ROLE, 12, 16⟩

/-! `SEC_ROLE_TIME_r` -/
/-- `SEC_ROLE_TIME_r.UNTIL`, RO (R578). -/
def F.SEC_ROLE_TIME_UNTIL : Field := ⟨R.SEC_ROLE_TIME, 0, 64⟩

/-! `SEC_SESS_r` -/
/-- `SEC_SESS_r.SESSION`, RO (R578). -/
def F.SEC_SESS_SESSION : Field := ⟨R.SEC_SESS, 0, 32⟩
/-- `SEC_SESS_r.MAC_FAIL`, RO (R578). -/
def F.SEC_SESS_MAC_FAIL : Field := ⟨R.SEC_SESS, 32, 16⟩

/-! `SEC_KEYNEW_w` -/
/-- `SEC_KEYNEW_w.WRAPPED`, WO (R579). -/
def F.SEC_KEYNEW_WRAPPED : Field := ⟨R.SEC_KEYNEW, 0, 64⟩

/-! `SEC_KEYNEW_CTRL` -/
/-- `SEC_KEYNEW_CTRL.ROLE`, WO (R579). -/
def F.SEC_KEYNEW_CTRL_ROLE : Field := ⟨R.SEC_KEYNEW_CTRL, 0, 2⟩
/-- `SEC_KEYNEW_CTRL.BURN`, WO (R579). -/
def F.SEC_KEYNEW_CTRL_BURN : Field := ⟨R.SEC_KEYNEW_CTRL, 2, 1⟩

/-! `SEC_FENCE_w` -/
/-- `SEC_FENCE_w.INSIDE`, RWL (R579). -/
def F.SEC_FENCE_INSIDE : Field := ⟨R.SEC_FENCE, 0, 64⟩

/-! `PWR_GOV` -/
/-- `PWR_GOV.SETPOINT_MV`, RW (R594). -/
def F.PWR_GOV_SETPOINT_MV : Field := ⟨R.PWR_GOV, 0, 10⟩
/-- `PWR_GOV.POWER_CAP_W`, RW (R594). -/
def F.PWR_GOV_POWER_CAP_W : Field := ⟨R.PWR_GOV, 10, 11⟩
/-- `PWR_GOV.TJ_TARGET`, RW (R594). -/
def F.PWR_GOV_TJ_TARGET : Field := ⟨R.PWR_GOV, 21, 7⟩

/-! `PWR_STAT` -/
/-- `PWR_STAT.VID_W`, RO (R595). -/
def F.PWR_STAT_VID_W : Field := ⟨R.PWR_STAT, 0, 10⟩
/-- `PWR_STAT.VID_E`, RO (R595). -/
def F.PWR_STAT_VID_E : Field := ⟨R.PWR_STAT, 10, 10⟩
/-- `PWR_STAT.LIMITER`, RO (R595). -/
def F.PWR_STAT_LIMITER : Field := ⟨R.PWR_STAT, 20, 3⟩
/-- `PWR_STAT.TRIPPED`, RO (R595). -/
def F.PWR_STAT_TRIPPED : Field := ⟨R.PWR_STAT, 23, 1⟩

/-! `PWR_MEAS` -/
/-- `PWR_MEAS.I_CORE_W`, RO (R595). -/
def F.PWR_MEAS_I_CORE_W : Field := ⟨R.PWR_MEAS, 0, 10⟩
/-- `PWR_MEAS.I_CORE_E`, RO (R595). -/
def F.PWR_MEAS_I_CORE_E : Field := ⟨R.PWR_MEAS, 10, 10⟩
/-- `PWR_MEAS.P_PKG`, RO (R595). -/
def F.PWR_MEAS_P_PKG : Field := ⟨R.PWR_MEAS, 20, 11⟩

/-! `PWR_TEMP` -/
/-- `PWR_TEMP.TJ_W`, RO (R596). -/
def F.PWR_TEMP_TJ_W : Field := ⟨R.PWR_TEMP, 0, 8⟩
/-- `PWR_TEMP.TJ_E`, RO (R596). -/
def F.PWR_TEMP_TJ_E : Field := ⟨R.PWR_TEMP, 8, 8⟩
/-- `PWR_TEMP.HBM_MAX`, RO (R596). -/
def F.PWR_TEMP_HBM_MAX : Field := ⟨R.PWR_TEMP, 16, 8⟩
/-- `PWR_TEMP.HBM_STACK`, RO (R596). -/
def F.PWR_TEMP_HBM_STACK : Field := ⟨R.PWR_TEMP, 24, 4⟩
/-- `PWR_TEMP.OE_MAX`, RO (R596). -/
def F.PWR_TEMP_OE_MAX : Field := ⟨R.PWR_TEMP, 28, 8⟩
/-- `PWR_TEMP.OE_ENGINE`, RO (R596). -/
def F.PWR_TEMP_OE_ENGINE : Field := ⟨R.PWR_TEMP, 36, 3⟩

/-! `PWR_RAILS` -/
/-- `PWR_RAILS.IN_TOL`, RO (R597). -/
def F.PWR_RAILS_IN_TOL : Field := ⟨R.PWR_RAILS, 0, 9⟩
/-- `PWR_RAILS.UV_RAIL`, RO (R597). -/
def F.PWR_RAILS_UV_RAIL : Field := ⟨R.PWR_RAILS, 9, 4⟩
/-- `PWR_RAILS.UV_EVT`, RO (R597). -/
def F.PWR_RAILS_UV_EVT : Field := ⟨R.PWR_RAILS, 13, 1⟩

/-! `PWR_ENERGY` -/
/-- `PWR_ENERGY.MJ`, RO (R597). -/
def F.PWR_ENERGY_MJ : Field := ⟨R.PWR_ENERGY, 0, 64⟩

/-! ## The table -/

/-- The register tables of the `CAP` block. -/
def regTableCap : List RegInfo := [
  ⟨R.CAP_UNITS, .job, [⟨0, 1, .ro, 0x0⟩, ⟨1, 1, .ro, 0x0⟩, ⟨2, 1, .ro, 0x0⟩, ⟨3, 1, .ro, 0x0⟩, ⟨8, 8, .ro, 0x0⟩]⟩,
  ⟨R.CAP_COUNTS, .job, [⟨0, 8, .ro, 0x0⟩, ⟨8, 16, .ro, 0x0⟩, ⟨24, 16, .ro, 0x0⟩, ⟨40, 4, .ro, 0x0⟩, ⟨44, 5, .ro, 0x0⟩, ⟨49, 2, .ro, 0x0⟩, ⟨51, 3, .ro, 0x0⟩]⟩]

/-- The register tables of the `GLB` block. -/
def regTableGlb : List RegInfo := [
  ⟨R.GLB_TIME, .job, [⟨0, 64, .ro, 0x0⟩]⟩,
  ⟨R.GLB_TIME_ADJ, .partition, [⟨0, 32, .rwl, 0x0⟩]⟩,
  ⟨R.GLB_TIME_STATUS, .job, [⟨0, 2, .ro, 0x0⟩, ⟨2, 1, .ro, 0x0⟩, ⟨3, 1, .w1c, 0x0⟩, ⟨8, 32, .ro, 0x0⟩]⟩,
  ⟨R.GLB_RATE, .job, [⟨0, 16, .ro, 0x0⟩, ⟨16, 16, .ro, 0x0⟩, ⟨32, 1, .ro, 0x0⟩, ⟨33, 1, .w1c, 0x0⟩]⟩,
  ⟨R.GLB_MARGIN, .job, [⟨0, 8, .ro, 0xff⟩, ⟨8, 16, .rws, 0x0⟩, ⟨24, 16, .rws, 0x0⟩]⟩,
  ⟨R.GLB_CMP_TGT, .job, [⟨0, 64, .rw, 0x0⟩]⟩,
  ⟨R.GLB_CMP_CTRL, .job, [⟨0, 1, .rw, 0x0⟩, ⟨8, 8, .rwl, 0x0⟩, ⟨16, 1, .rwl, 0x0⟩, ⟨17, 11, .rw, 0x0⟩, ⟨28, 16, .rw, 0x0⟩]⟩,
  ⟨R.GLB_BOARD, .job, [⟨0, 6, .ro, 0x0⟩, ⟨6, 1, .ro, 0x0⟩, ⟨7, 1, .ro, 0x0⟩, ⟨8, 1, .ro, 0x1⟩, ⟨16, 16, .ro, 0x0⟩]⟩,
  ⟨R.GLB_PORT_STAT, .job, [⟨0, 1, .ro, 0x0⟩, ⟨1, 3, .ro, 0x0⟩, ⟨4, 5, .ro, 0x0⟩, ⟨9, 1, .ro, 0x0⟩, ⟨10, 1, .w1c, 0x0⟩, ⟨11, 3, .ro, 0x0⟩, ⟨16, 16, .ro, 0x0⟩, ⟨32, 16, .ro, 0x0⟩, ⟨48, 16, .ro, 0x0⟩]⟩,
  ⟨R.GLB_PORT_CFG, .job, [⟨0, 11, .rw, 0x0⟩, ⟨11, 1, .rw, 0x0⟩, ⟨12, 11, .rw, 0x0⟩, ⟨23, 1, .rw, 0x0⟩, ⟨24, 4, .rw, 0x0⟩, ⟨28, 1, .rw, 0x0⟩]⟩,
  ⟨R.GLB_APERTURE, .job, [⟨0, 1, .rw, 0x0⟩, ⟨1, 8, .rw, 0x0⟩, ⟨30, 21, .rw, 0x0⟩]⟩,
  ⟨R.GLB_HWIN_BASE, .job, [⟨12, 52, .rw, 0x0⟩]⟩,
  ⟨R.GLB_HWIN_SIZE, .job, [⟨0, 1, .rw, 0x0⟩, ⟨12, 40, .rw, 0x0⟩]⟩]

/-- The register tables of the `QE` block. -/
def regTableQe : List RegInfo := [
  ⟨R.QE_Q_CTRL, .job, [⟨0, 1, .rwl, 0x0⟩, ⟨1, 1, .rwl, 0x0⟩, ⟨2, 1, .rwl, 0x0⟩, ⟨3, 2, .rwl, 0x0⟩, ⟨5, 5, .rwl, 0x6⟩, ⟨10, 8, .rwl, 0x0⟩, ⟨18, 5, .rwl, 0x6⟩, ⟨23, 5, .rwl, 0x1e⟩]⟩,
  ⟨R.QE_Q_RING, .job, [⟨0, 51, .rwl, 0x0⟩]⟩,
  ⟨R.QE_Q_CQ, .job, [⟨0, 64, .rw, 0x0⟩]⟩,
  ⟨R.QE_Q_TAIL, .job, [⟨0, 48, .ro, 0x0⟩]⟩,
  ⟨R.QE_Q_HEAD, .job, [⟨0, 48, .ro, 0x0⟩]⟩,
  ⟨R.QE_Q_CQ_HEAD, .job, [⟨0, 16, .rw, 0x0⟩]⟩,
  ⟨R.QE_Q_IRQ, .job, [⟨0, 11, .rw, 0x0⟩, ⟨11, 1, .rw, 0x0⟩, ⟨12, 8, .rw, 0x1⟩, ⟨20, 16, .rw, 0x0⟩]⟩,
  ⟨R.QE_Q_STAT, .job, [⟨0, 16, .ro, 0x0⟩, ⟨16, 4, .ro, 0x0⟩, ⟨20, 1, .ro, 0x0⟩, ⟨21, 7, .ro, 0x0⟩, ⟨28, 16, .ro, 0x0⟩]⟩,
  ⟨R.QE_JOB_CTRL, .job, [⟨0, 1, .rwl, 0x0⟩, ⟨1, 1, .rwl, 0x0⟩, ⟨2, 5, .rwl, 0x14⟩, ⟨7, 5, .rwl, 0x1f⟩]⟩,
  ⟨R.QE_JOB_DALES, .job, [⟨0, 32, .rwl, 0x0⟩]⟩,
  ⟨R.QE_JOB_CORES, .job, [⟨0, 64, .rwl, 0x0⟩]⟩,
  ⟨R.QE_JOB_QUOTA, .job, [⟨0, 21, .rwl, 0x0⟩]⟩,
  ⟨R.QE_JOB_FENCE, .job, [⟨0, 16, .rwl, 0x0⟩, ⟨16, 17, .rwl, 0x0⟩]⟩,
  ⟨R.QE_TX_STATE, .job, [⟨0, 1, .ro, 0x0⟩, ⟨1, 1, .ro, 0x0⟩, ⟨2, 1, .ro, 0x0⟩, ⟨16, 16, .ro, 0x0⟩, ⟨32, 12, .ro, 0x0⟩, ⟨44, 13, .ro, 0x0⟩]⟩,
  ⟨R.QE_TX_CAST, .job, [⟨0, 1, .ro, 0x0⟩, ⟨1, 1, .ro, 0x0⟩, ⟨2, 1, .ro, 0x0⟩, ⟨16, 16, .ro, 0x0⟩, ⟨32, 12, .ro, 0x0⟩, ⟨44, 13, .ro, 0x0⟩]⟩,
  ⟨R.QE_FENCE, .job, [⟨0, 63, .ro, 0x0⟩, ⟨63, 1, .ro, 0x0⟩]⟩]

/-- The register tables of the `TR` block. -/
def regTableTr : List RegInfo := [
  ⟨R.TR_CTX, .job, [⟨0, 1, .ro, 0x0⟩, ⟨12, 39, .ro, 0x0⟩]⟩,
  ⟨R.TR_MIG_POOL, .job, [⟨0, 20, .rwl, 0x0⟩, ⟨20, 20, .rwl, 0x0⟩]⟩,
  ⟨R.TR_MIG_STAT, .job, [⟨0, 24, .ro, 0x0⟩, ⟨24, 24, .ro, 0x0⟩, ⟨48, 16, .ro, 0x0⟩]⟩,
  ⟨R.TR_FAULT_VA, .job, [⟨0, 48, .ro, 0x0⟩]⟩,
  ⟨R.TR_FAULT_INFO, .job, [⟨0, 1, .w1c, 0x0⟩, ⟨1, 3, .ro, 0x0⟩, ⟨4, 2, .ro, 0x0⟩, ⟨6, 1, .ro, 0x0⟩, ⟨8, 16, .ro, 0x0⟩]⟩,
  ⟨R.TR_BASIN_USED, .job, [⟨0, 21, .ro, 0x0⟩]⟩,
  ⟨R.TR_MIG_CTRL, .job, [⟨0, 7, .rwl, 0xa⟩, ⟨7, 6, .rwl, 0x18⟩, ⟨13, 8, .rwl, 0x20⟩, ⟨21, 8, .rwl, 0x4⟩]⟩,
  ⟨R.TR_CCACHE_CFG, .job, [⟨0, 20, .rwl, 0x0⟩, ⟨20, 20, .rwl, 0x0⟩]⟩,
  ⟨R.TR_CCACHE_STAT, .job, [⟨0, 9, .ro, 0x0⟩, ⟨9, 9, .ro, 0x0⟩, ⟨18, 20, .ro, 0x0⟩]⟩,
  ⟨R.TR_CCACHE_HITS, .job, [⟨0, 32, .ro, 0x0⟩, ⟨32, 32, .ro, 0x0⟩]⟩,
  ⟨R.TR_CCACHE_UNPIN, .job, [⟨0, 8, .wo, 0x0⟩]⟩,
  ⟨R.TR_BASIN_RSV, .job, [⟨0, 21, .ro, 0x0⟩]⟩,
  ⟨R.TR_SLOT, .job, [⟨0, 3, .ro, 0x0⟩, ⟨3, 3, .ro, 0x0⟩, ⟨8, 5, .ro, 0x0⟩, ⟨16, 5, .ro, 0x0⟩, ⟨32, 32, .ro, 0x0⟩]⟩]

/-- The register tables of the `FAB` block. -/
def regTableFab : List RegInfo := [
  ⟨R.FAB_COL_MAP_W, .job, [⟨0, 6, .ro, 0x0⟩]⟩,
  ⟨R.FAB_COL_MAP_E, .job, [⟨0, 6, .ro, 0x0⟩]⟩,
  ⟨R.FAB_SADDLE_STAT, .job, [⟨0, 16, .ro, 0x0⟩, ⟨16, 5, .ro, 0x0⟩, ⟨21, 1, .ro, 0x0⟩, ⟨22, 5, .ro, 0x0⟩, ⟨27, 4, .ro, 0x0⟩]⟩,
  ⟨R.FAB_SADDLE_LINKS, .job, [⟨0, 32, .ro, 0x0⟩, ⟨32, 32, .ro, 0x0⟩]⟩,
  ⟨R.FAB_BORDER, .job, [⟨0, 8, .ro, 0xff⟩, ⟨8, 5, .ro, 0x0⟩, ⟨13, 1, .ro, 0x1⟩, ⟨14, 1, .ro, 0x1⟩]⟩,
  ⟨R.FAB_JOB_STAT, .job, [⟨0, 16, .ro, 0x0⟩, ⟨16, 16, .ro, 0x0⟩, ⟨32, 16, .ro, 0x0⟩, ⟨48, 16, .ro, 0x0⟩]⟩,
  ⟨R.FAB_STALL_HEAD, .job, [⟨0, 4, .ro, 0x0⟩, ⟨16, 16, .ro, 0x0⟩]⟩,
  ⟨R.FAB_STALL_LOG_A, .job, [⟨0, 1, .w1c, 0x0⟩, ⟨1, 2, .ro, 0x0⟩, ⟨3, 8, .ro, 0x0⟩, ⟨11, 5, .ro, 0x0⟩, ⟨16, 5, .ro, 0x0⟩, ⟨21, 12, .ro, 0x0⟩, ⟨33, 4, .ro, 0x0⟩, ⟨37, 16, .ro, 0x0⟩, ⟨53, 2, .ro, 0x0⟩]⟩,
  ⟨R.FAB_STALL_LOG_B, .job, [⟨0, 64, .ro, 0x0⟩]⟩]

/-- The register tables of the `CU` block. -/
def regTableCu : List RegInfo := [
  ⟨R.CU_ID, .job, [⟨0, 1, .ro, 0x0⟩, ⟨1, 5, .ro, 0x0⟩, ⟨6, 6, .ro, 0x0⟩, ⟨12, 6, .ro, 0x0⟩, ⟨18, 1, .ro, 0x0⟩, ⟨19, 1, .ro, 0x0⟩, ⟨20, 5, .ro, 0x0⟩, ⟨25, 5, .ro, 0x0⟩]⟩,
  ⟨R.CU_STAT, .job, [⟨0, 8, .ro, 0xff⟩, ⟨8, 1, .ro, 0x0⟩, ⟨9, 2, .ro, 0x0⟩, ⟨11, 1, .ro, 0x0⟩, ⟨12, 1, .ro, 0x0⟩, ⟨13, 1, .ro, 0x0⟩, ⟨14, 4, .ro, 0x0⟩]⟩,
  ⟨R.CU_TASK, .job, [⟨0, 2, .ro, 0x0⟩, ⟨2, 12, .ro, 0x0⟩, ⟨14, 16, .ro, 0x0⟩, ⟨30, 3, .ro, 0x0⟩, ⟨33, 16, .ro, 0x0⟩]⟩,
  ⟨R.CU_BANKS, .job, [⟨0, 3, .ro, 0x7⟩, ⟨3, 3, .ro, 0x7⟩, ⟨6, 3, .ro, 0x7⟩, ⟨9, 3, .ro, 0x7⟩, ⟨12, 3, .ro, 0x7⟩, ⟨15, 3, .ro, 0x7⟩, ⟨18, 3, .ro, 0x7⟩, ⟨21, 3, .ro, 0x7⟩]⟩,
  ⟨R.CU_MM_FIRINGS, .job, [⟨0, 64, .ro, 0x0⟩]⟩,
  ⟨R.CU_VEC_ISSUES, .job, [⟨0, 64, .ro, 0x0⟩]⟩,
  ⟨R.CU_SWITCHES, .job, [⟨0, 64, .ro, 0x0⟩]⟩,
  ⟨R.CU_WAIT_TICKS, .job, [⟨0, 64, .ro, 0x0⟩]⟩,
  ⟨R.CU_ECC, .job, [⟨0, 16, .ro, 0x0⟩, ⟨16, 16, .ro, 0x0⟩, ⟨32, 3, .ro, 0x0⟩]⟩]

/-- The register tables of the `MU` block. -/
def regTableMu : List RegInfo := [
  ⟨R.MU_ID, .job, [⟨0, 1, .ro, 0x0⟩, ⟨1, 5, .ro, 0x0⟩, ⟨6, 6, .ro, 0x0⟩, ⟨12, 6, .ro, 0x0⟩, ⟨18, 1, .ro, 0x0⟩, ⟨19, 5, .ro, 0x0⟩, ⟨24, 5, .ro, 0x0⟩, ⟨29, 10, .ro, 0x0⟩]⟩,
  ⟨R.MU_STAT, .job, [⟨0, 8, .ro, 0xff⟩, ⟨8, 1, .ro, 0x0⟩, ⟨9, 1, .ro, 0x0⟩, ⟨10, 4, .ro, 0x0⟩, ⟨14, 4, .ro, 0x0⟩, ⟨18, 1, .ro, 0x0⟩]⟩,
  ⟨R.MU_AG, .job, [⟨0, 3, .ro, 0x0⟩, ⟨3, 2, .ro, 0x0⟩, ⟨5, 3, .ro, 0x0⟩, ⟨8, 2, .ro, 0x0⟩, ⟨10, 9, .ro, 0x0⟩, ⟨19, 16, .ro, 0x0⟩, ⟨35, 8, .ro, 0x0⟩, ⟨43, 2, .ro, 0x0⟩]⟩,
  ⟨R.MU_EXT, .job, [⟨0, 24, .ro, 0x0⟩, ⟨24, 20, .ro, 0x0⟩, ⟨44, 20, .ro, 0x0⟩]⟩,
  ⟨R.MU_RING_GEOM, .job, [⟨0, 14, .ro, 0x0⟩, ⟨14, 10, .ro, 0x0⟩, ⟨24, 7, .ro, 0x0⟩, ⟨31, 1, .ro, 0x0⟩, ⟨32, 2, .ro, 0x0⟩, ⟨34, 1, .ro, 0x0⟩, ⟨35, 1, .ro, 0x0⟩, ⟨36, 1, .ro, 0x0⟩]⟩,
  ⟨R.MU_RING_PTR, .job, [⟨0, 16, .ro, 0x0⟩, ⟨16, 16, .ro, 0x0⟩, ⟨32, 16, .ro, 0x0⟩, ⟨48, 16, .ro, 0x0⟩]⟩,
  ⟨R.MU_RING_OWN, .job, [⟨0, 8, .rwl, 0x0⟩, ⟨8, 1, .rwl, 0x0⟩]⟩,
  ⟨R.MU_READ_LINES, .job, [⟨0, 64, .ro, 0x0⟩]⟩,
  ⟨R.MU_WRITE_LINES, .job, [⟨0, 64, .ro, 0x0⟩]⟩,
  ⟨R.MU_BANK_WAITS, .job, [⟨0, 64, .ro, 0x0⟩]⟩,
  ⟨R.MU_PAD_LINES, .job, [⟨0, 64, .ro, 0x0⟩]⟩,
  ⟨R.MU_TLB_MISSES, .job, [⟨0, 64, .ro, 0x0⟩]⟩,
  ⟨R.MU_ECC, .job, [⟨0, 16, .ro, 0x0⟩, ⟨16, 16, .ro, 0x0⟩, ⟨32, 3, .ro, 0x0⟩, ⟨35, 14, .ro, 0x0⟩, ⟨49, 15, .ro, 0x0⟩]⟩]

/-- The register tables of the `FLT` block. -/
def regTableFlt : List RegInfo := [
  ⟨R.FLT_NAN_CTRL, .job, [⟨0, 1, .rwl, 0x0⟩]⟩,
  ⟨R.FLT_NAN_INFO, .job, [⟨0, 1, .w1c, 0x0⟩, ⟨1, 1, .ro, 0x0⟩, ⟨2, 1, .ro, 0x0⟩, ⟨3, 3, .ro, 0x0⟩, ⟨6, 3, .ro, 0x0⟩, ⟨9, 16, .ro, 0x0⟩, ⟨25, 2, .ro, 0x0⟩, ⟨27, 6, .ro, 0x0⟩, ⟨33, 4, .ro, 0x0⟩, ⟨37, 16, .ro, 0x0⟩]⟩,
  ⟨R.FLT_NAN_WHERE, .job, [⟨0, 5, .ro, 0x0⟩, ⟨5, 5, .ro, 0x0⟩, ⟨10, 5, .ro, 0x0⟩, ⟨15, 2, .ro, 0x0⟩, ⟨17, 11, .ro, 0x0⟩]⟩,
  ⟨R.FLT_NAN_CAST, .job, [⟨0, 64, .ro, 0x0⟩]⟩,
  ⟨R.FLT_NAN_OPS, .job, [⟨0, 32, .ro, 0x0⟩, ⟨32, 32, .ro, 0x0⟩]⟩,
  ⟨R.FLT_NAN_OPX, .job, [⟨0, 32, .ro, 0x0⟩, ⟨32, 32, .ro, 0x0⟩]⟩,
  ⟨R.FLT_NAN_TIME, .job, [⟨0, 64, .ro, 0x0⟩]⟩,
  ⟨R.FLT_LOG_HEAD, .job, [⟨0, 8, .ro, 0x0⟩, ⟨8, 32, .ro, 0x0⟩, ⟨40, 16, .ro, 0x0⟩]⟩,
  ⟨R.FLT_CLASS_CNT, .job, [⟨0, 12, .ro, 0x0⟩, ⟨12, 12, .ro, 0x0⟩, ⟨24, 12, .ro, 0x0⟩, ⟨36, 12, .ro, 0x0⟩, ⟨48, 12, .ro, 0x0⟩]⟩,
  ⟨R.FLT_IRQ, .job, [⟨0, 11, .rw, 0x0⟩, ⟨11, 1, .rw, 0x0⟩, ⟨12, 3, .rw, 0x3⟩]⟩,
  ⟨R.FLT_RECOV, .job, [⟨0, 32, .ro, 0x0⟩, ⟨32, 12, .ro, 0x0⟩, ⟨44, 2, .ro, 0x0⟩, ⟨46, 1, .ro, 0x0⟩]⟩,
  ⟨R.FLT_HBM, .job, [⟨0, 8, .ro, 0xff⟩, ⟨8, 1, .ro, 0x0⟩, ⟨16, 8, .ro, 0xff⟩, ⟨24, 1, .ro, 0x0⟩, ⟨32, 12, .ro, 0x0⟩]⟩,
  ⟨R.FLT_FAILED, .job, [⟨0, 32, .ro, 0x0⟩, ⟨32, 1, .ro, 0x0⟩, ⟨33, 1, .ro, 0x0⟩]⟩,
  ⟨R.FLT_FAILED_CORES, .job, [⟨0, 64, .ro, 0x0⟩]⟩,
  ⟨R.FLT_PENDANT, .partition, [⟨0, 1, .rwl, 0x0⟩, ⟨1, 1, .rwl, 0x0⟩, ⟨2, 1, .rwl, 0x0⟩, ⟨3, 1, .ro, 0x0⟩, ⟨4, 1, .ro, 0x0⟩]⟩,
  ⟨R.FLT_PROMOTE_MASK, .serve, [⟨0, 64, .rwl, 0x0⟩]⟩,
  ⟨R.FLT_PENDANT_CMD, .job, [⟨0, 1, .wo, 0x0⟩]⟩,
  ⟨R.FLT_PENDANT_STAT, .job, [⟨0, 3, .ro, 0x0⟩, ⟨3, 12, .ro, 0x0⟩, ⟨16, 32, .ro, 0x0⟩]⟩,
  ⟨R.FLT_CAL_STAT, .job, [⟨0, 16, .ro, 0x0⟩, ⟨16, 16, .ro, 0x0⟩, ⟨32, 8, .ro, 0x0⟩, ⟨40, 1, .ro, 0x0⟩]⟩,
  ⟨R.FLT_FW_STAT, .job, [⟨0, 4, .ro, 0x0⟩, ⟨4, 1, .ro, 0x0⟩, ⟨5, 3, .ro, 0x0⟩, ⟨8, 2, .ro, 0x0⟩]⟩,
  ⟨R.FLT_LOST, .partition, [⟨0, 64, .rwl, 0x0⟩]⟩,
  ⟨R.FLT_LOG_A, .job, [⟨0, 16, .ro, 0x0⟩, ⟨16, 8, .ro, 0xff⟩, ⟨24, 4, .ro, 0x0⟩, ⟨28, 1, .ro, 0x0⟩, ⟨29, 1, .ro, 0x0⟩, ⟨32, 12, .ro, 0x0⟩, ⟨44, 16, .ro, 0x0⟩]⟩,
  ⟨R.FLT_LOG_B, .job, [⟨0, 64, .ro, 0x0⟩]⟩,
  ⟨R.FLT_LOG_C, .job, [⟨0, 48, .ro, 0x0⟩, ⟨48, 12, .ro, 0x0⟩, ⟨60, 1, .ro, 0x0⟩]⟩,
  ⟨R.FLT_LOG_D, .job, [⟨0, 64, .ro, 0x0⟩]⟩]

/-- The register tables of the `SRV` block. -/
def regTableSrv : List RegInfo := [
  ⟨R.SRV_KV_LAYOUT, .serve, [⟨0, 4, .rwl, 0x0⟩, ⟨4, 3, .rwl, 0x0⟩, ⟨7, 1, .rwl, 0x0⟩, ⟨8, 8, .rwl, 0x0⟩, ⟨16, 6, .rwl, 0x0⟩, ⟨22, 2, .rwl, 0x0⟩, ⟨24, 8, .rwl, 0x0⟩, ⟨32, 6, .rwl, 0x0⟩, ⟨38, 2, .rwl, 0x0⟩, ⟨40, 8, .rwl, 0x0⟩, ⟨48, 1, .rwl, 0x0⟩, ⟨49, 1, .rwl, 0x0⟩]⟩,
  ⟨R.SRV_KV_POOL, .job, [⟨0, 20, .rwl, 0x0⟩, ⟨20, 20, .rwl, 0x0⟩]⟩,
  ⟨R.SRV_KV_PUSH, .job, [⟨0, 5, .wo, 0x0⟩, ⟨5, 29, .wo, 0x0⟩, ⟨63, 1, .wo, 0x0⟩]⟩,
  ⟨R.SRV_KV_STAT, .job, [⟨0, 32, .ro, 0x0⟩, ⟨32, 16, .ro, 0x0⟩, ⟨48, 12, .ro, 0x0⟩, ⟨60, 1, .ro, 0x0⟩]⟩,
  ⟨R.SRV_FL, .job, [⟨0, 29, .ro, 0x0⟩, ⟨29, 29, .ro, 0x0⟩, ⟨58, 1, .ro, 0x0⟩]⟩,
  ⟨R.SRV_TABLE_STAT, .job, [⟨0, 17, .ro, 0x10000⟩, ⟨17, 24, .ro, 0x0⟩]⟩,
  ⟨R.SRV_STOP_BASE, .serve, [⟨0, 51, .rwl, 0x0⟩]⟩,
  ⟨R.SRV_SPEC_STAT, .job, [⟨0, 32, .ro, 0x0⟩, ⟨32, 32, .ro, 0x0⟩]⟩,
  ⟨R.SRV_MODEL_CFG, .serve, [⟨0, 1, .rwl, 0x0⟩, ⟨1, 1, .rwl, 0x0⟩, ⟨2, 8, .rwl, 0x0⟩, ⟨10, 5, .rwl, 0x0⟩, ⟨15, 6, .rwl, 0x0⟩, ⟨21, 20, .rwl, 0x0⟩, ⟨41, 6, .rwl, 0x3f⟩]⟩,
  ⟨R.SRV_MODEL_BATCH, .serve, [⟨0, 48, .rwl, 0x0⟩]⟩,
  ⟨R.SRV_MODEL_LOGITS, .serve, [⟨0, 48, .rwl, 0x0⟩]⟩,
  ⟨R.SRV_MODEL_ARGS, .serve, [⟨0, 48, .rwl, 0x0⟩]⟩,
  ⟨R.SRV_MODEL_LIMITS, .serve, [⟨0, 13, .rwl, 0x0⟩, ⟨13, 16, .rwl, 0x0⟩, ⟨29, 16, .rwl, 0x0⟩]⟩,
  ⟨R.SRV_RUN, .job, [⟨0, 1, .wo, 0x0⟩, ⟨1, 1, .wo, 0x0⟩, ⟨2, 1, .ro, 0x0⟩, ⟨3, 3, .ro, 0x0⟩, ⟨6, 58, .ro, 0x0⟩]⟩,
  ⟨R.SRV_MIRROR, .serve, [⟨0, 1, .rwl, 0x0⟩, ⟨1, 4, .rwl, 0x0⟩, ⟨21, 42, .rwl, 0x0⟩]⟩,
  ⟨R.SRV_FEED, .serve, [⟨0, 20, .rwl, 0x0⟩, ⟨20, 4, .rwl, 0x0⟩]⟩,
  ⟨R.SRV_SAMP0, .serve, [⟨0, 32, .rwl, 0x3f800000⟩, ⟨32, 32, .rwl, 0x3f800000⟩]⟩,
  ⟨R.SRV_SAMP1, .serve, [⟨0, 32, .rwl, 0x0⟩, ⟨32, 11, .rwl, 0x0⟩]⟩,
  ⟨R.SRV_SAMP2, .serve, [⟨0, 32, .rwl, 0x3f800000⟩, ⟨32, 32, .rwl, 0x0⟩]⟩,
  ⟨R.SRV_SAMP3, .serve, [⟨0, 32, .rwl, 0x0⟩, ⟨32, 1, .rwl, 0x0⟩, ⟨33, 8, .rwl, 0x0⟩]⟩,
  ⟨R.SRV_JOB, .job, [⟨0, 17, .rwl, 0x0⟩]⟩,
  ⟨R.SRV_JOB_STAT, .job, [⟨0, 17, .ro, 0x0⟩, ⟨17, 16, .ro, 0x0⟩, ⟨33, 16, .ro, 0x0⟩, ⟨49, 8, .ro, 0x0⟩, ⟨57, 7, .ro, 0x0⟩]⟩,
  ⟨R.SRV_OUT_BASE, .job, [⟨0, 64, .rwl, 0x0⟩]⟩,
  ⟨R.SRV_OUT_CTRL, .job, [⟨0, 1, .rwl, 0x0⟩, ⟨1, 8, .rwl, 0x0⟩, ⟨9, 2, .rwl, 0x0⟩, ⟨11, 5, .rwl, 0x6⟩, ⟨16, 11, .rwl, 0x0⟩, ⟨27, 1, .rwl, 0x0⟩]⟩,
  ⟨R.SRV_OUT_HEAD, .job, [⟨0, 20, .rw, 0x0⟩]⟩,
  ⟨R.SRV_OUT_TAIL, .job, [⟨0, 20, .ro, 0x0⟩]⟩]

/-- The register tables of the `MRE` block. -/
def regTableMre : List RegInfo := [
  ⟨R.MRE_G_CFG, .job, [⟨0, 1, .rwl, 0x0⟩, ⟨1, 8, .rwl, 0x0⟩, ⟨9, 10, .rwl, 0x0⟩, ⟨19, 10, .rwl, 0x0⟩, ⟨29, 1, .rwl, 0x0⟩, ⟨30, 3, .rwl, 0x0⟩, ⟨33, 3, .rwl, 0x0⟩]⟩,
  ⟨R.MRE_G_NBR, .job, [⟨0, 12, .rwl, 0x0⟩, ⟨12, 12, .rwl, 0x0⟩, ⟨24, 32, .rwl, 0x0⟩]⟩,
  ⟨R.MRE_G_SEQ, .job, [⟨0, 28, .rwl, 0x0⟩, ⟨28, 28, .rwl, 0x0⟩]⟩,
  ⟨R.MRE_G_LIMIT, .job, [⟨0, 32, .rwl, 0x1312d00⟩]⟩,
  ⟨R.MRE_G_STAT, .job, [⟨0, 3, .ro, 0x0⟩, ⟨3, 10, .ro, 0x0⟩, ⟨13, 8, .ro, 0x0⟩, ⟨21, 2, .ro, 0x0⟩, ⟨23, 10, .ro, 0x0⟩]⟩,
  ⟨R.MRE_G_PROG, .job, [⟨0, 11, .ro, 0x0⟩, ⟨11, 11, .ro, 0x0⟩, ⟨22, 11, .ro, 0x0⟩]⟩,
  ⟨R.MRE_G_STEPMAX, .job, [⟨0, 32, .ro, 0x0⟩, ⟨32, 32, .ro, 0x0⟩]⟩]

/-- The register tables of the `WSU` block. -/
def regTableWsu : List RegInfo := [
  ⟨R.WSU_L_CFG, .serve, [⟨0, 1, .rwl, 0x0⟩, ⟨1, 8, .rwl, 0x0⟩, ⟨9, 2, .rwl, 0x0⟩, ⟨11, 1, .rwl, 0x0⟩, ⟨12, 5, .rwl, 0x1⟩, ⟨17, 5, .rwl, 0x10⟩, ⟨22, 5, .rwl, 0x1⟩, ⟨27, 13, .rwl, 0x0⟩, ⟨40, 16, .rwl, 0x0⟩]⟩,
  ⟨R.WSU_L_PARAM, .serve, [⟨0, 32, .rwl, 0x0⟩, ⟨32, 32, .rwl, 0x0⟩]⟩,
  ⟨R.WSU_L_DROPS, .job, [⟨0, 32, .ro, 0x0⟩, ⟨32, 24, .ro, 0x0⟩, ⟨56, 8, .ro, 0x0⟩]⟩,
  ⟨R.WSU_G_CFG, .job, [⟨0, 1, .rwl, 0x0⟩, ⟨1, 8, .rwl, 0x0⟩, ⟨9, 6, .rwl, 0x0⟩, ⟨15, 6, .rwl, 0x0⟩]⟩,
  ⟨R.WSU_G_RECV, .job, [⟨0, 20, .rwl, 0x0⟩, ⟨20, 20, .rwl, 0x0⟩]⟩,
  ⟨R.WSU_G_RET, .job, [⟨0, 20, .rwl, 0x0⟩, ⟨20, 20, .rwl, 0x0⟩]⟩,
  ⟨R.WSU_G_LIMIT, .job, [⟨0, 32, .rwl, 0x1312d00⟩]⟩,
  ⟨R.WSU_G_STAT, .job, [⟨0, 2, .ro, 0x0⟩, ⟨2, 1, .ro, 0x0⟩, ⟨3, 20, .ro, 0x0⟩, ⟨23, 8, .ro, 0x0⟩, ⟨31, 6, .ro, 0x0⟩]⟩,
  ⟨R.WSU_G_CHIPS, .job, [⟨0, 12, .rwl, 0x0⟩, ⟨12, 12, .rwl, 0x0⟩, ⟨24, 12, .rwl, 0x0⟩, ⟨36, 12, .rwl, 0x0⟩]⟩,
  ⟨R.WSU_SORT_STAT, .job, [⟨0, 32, .ro, 0x0⟩, ⟨32, 32, .ro, 0x0⟩]⟩]

/-- The register tables of the `ALT` block. -/
def regTableAlt : List RegInfo := [
  ⟨R.ALT_LINK_CTRL, .partition, [⟨0, 1, .rwl, 0x1⟩, ⟨1, 1, .wo, 0x0⟩, ⟨2, 1, .wo, 0x0⟩]⟩,
  ⟨R.ALT_LINK_STAT, .job, [⟨0, 4, .ro, 0x0⟩, ⟨4, 4, .ro, 0x0⟩, ⟨8, 2, .ro, 0x0⟩, ⟨10, 1, .ro, 0x0⟩, ⟨11, 1, .ro, 0x0⟩, ⟨12, 1, .ro, 0x0⟩, ⟨13, 3, .ro, 0x0⟩, ⟨16, 1, .ro, 0x0⟩, ⟨17, 1, .w1c, 0x0⟩]⟩,
  ⟨R.ALT_LINK_PEER, .job, [⟨0, 12, .ro, 0x0⟩, ⟨12, 5, .ro, 0x0⟩, ⟨17, 8, .ro, 0x0⟩, ⟨25, 1, .ro, 0x0⟩, ⟨26, 1, .ro, 0x0⟩]⟩,
  ⟨R.ALT_LINK_OPT, .job, [⟨0, 8, .rw, 0x0⟩, ⟨8, 8, .ro, 0x0⟩, ⟨16, 8, .ro, 0x0⟩, ⟨24, 8, .ro, 0x0⟩, ⟨32, 1, .ro, 0x0⟩]⟩,
  ⟨R.ALT_LINK_ERR, .job, [⟨0, 16, .ro, 0x0⟩, ⟨16, 16, .ro, 0x0⟩, ⟨32, 16, .ro, 0x0⟩, ⟨48, 16, .ro, 0x0⟩]⟩,
  ⟨R.ALT_LINK_FEC, .job, [⟨0, 32, .ro, 0x0⟩, ⟨32, 16, .ro, 0x0⟩, ⟨48, 4, .ro, 0x0⟩]⟩,
  ⟨R.ALT_PORT_CFG, .partition, [⟨0, 22, .rwl, 0x0⟩, ⟨22, 12, .rwl, 0x0⟩, ⟨34, 1, .rwl, 0x0⟩, ⟨35, 8, .rwl, 0x14⟩]⟩,
  ⟨R.ALT_PORT_OWN, .job, [⟨0, 8, .rwl, 0x0⟩, ⟨8, 1, .rwl, 0x0⟩]⟩,
  ⟨R.ALT_MESH, .partition, [⟨0, 12, .rwl, 0x0⟩, ⟨12, 12, .rwl, 0x0⟩, ⟨24, 6, .rwl, 0x0⟩, ⟨30, 6, .rwl, 0x0⟩, ⟨36, 1, .rwl, 0x0⟩]⟩,
  ⟨R.ALT_DIR_PORT, .partition, [⟨0, 3, .rwl, 0x0⟩, ⟨4, 3, .rwl, 0x0⟩, ⟨8, 3, .rwl, 0x0⟩, ⟨12, 3, .rwl, 0x0⟩, ⟨3, 1, .rwl, 0x0⟩, ⟨7, 1, .rwl, 0x0⟩, ⟨11, 1, .rwl, 0x0⟩, ⟨15, 1, .rwl, 0x0⟩]⟩,
  ⟨R.ALT_EXT, .partition, [⟨0, 12, .rwl, 0x0⟩, ⟨12, 13, .rwl, 0x0⟩, ⟨25, 3, .rwl, 0x0⟩, ⟨28, 1, .rwl, 0x0⟩]⟩,
  ⟨R.ALT_NET_STAT, .job, [⟨0, 16, .ro, 0x0⟩, ⟨16, 16, .ro, 0x0⟩, ⟨32, 16, .ro, 0x0⟩, ⟨48, 16, .ro, 0x0⟩]⟩,
  ⟨R.ALT_PORT_STAT, .job, [⟨0, 22, .ro, 0x0⟩, ⟨22, 1, .ro, 0x0⟩, ⟨23, 1, .w1c, 0x0⟩]⟩,
  ⟨R.ALT_LASER, .job, [⟨0, 8, .ro, 0x0⟩, ⟨8, 8, .ro, 0x0⟩, ⟨16, 1, .ro, 0x0⟩]⟩,
  ⟨R.ALT_RM_CFG, .job, [⟨0, 16, .rwl, 0x3e8⟩, ⟨16, 4, .rwl, 0x1⟩, ⟨20, 4, .rwl, 0x4⟩, ⟨24, 4, .rwl, 0x4⟩, ⟨28, 4, .rwl, 0x4⟩]⟩,
  ⟨R.ALT_RM_STAT, .job, [⟨0, 16, .ro, 0x0⟩, ⟨16, 16, .ro, 0x0⟩, ⟨32, 16, .ro, 0x0⟩, ⟨48, 16, .ro, 0x0⟩]⟩,
  ⟨R.ALT_COLL_CFG, .job, [⟨0, 32, .rwl, 0x989680⟩, ⟨32, 16, .rwl, 0x400⟩, ⟨48, 16, .rwl, 0x3e8⟩]⟩,
  ⟨R.ALT_COLL_STAT, .job, [⟨0, 3, .ro, 0x0⟩, ⟨8, 16, .ro, 0x0⟩, ⟨24, 16, .ro, 0x0⟩, ⟨40, 16, .ro, 0x0⟩]⟩,
  ⟨R.ALT_RM_WIN_BASE, .job, [⟨0, 30, .rwl, 0x0⟩, ⟨30, 30, .rwl, 0x0⟩]⟩,
  ⟨R.ALT_RM_WIN_CTRL, .job, [⟨0, 1, .rwl, 0x0⟩, ⟨1, 8, .rwl, 0x0⟩, ⟨9, 1, .rwl, 0x0⟩, ⟨10, 1, .rwl, 0x0⟩, ⟨11, 1, .rwl, 0x0⟩, ⟨12, 12, .rwl, 0x0⟩, ⟨24, 13, .rwl, 0x0⟩, ⟨37, 8, .rwl, 0x0⟩, ⟨45, 1, .rwl, 0x0⟩, ⟨46, 16, .rwl, 0x0⟩, ⟨62, 1, .rwl, 0x0⟩]⟩,
  ⟨R.ALT_CG_CFG, .job, [⟨0, 1, .rwl, 0x0⟩, ⟨1, 8, .rwl, 0x0⟩, ⟨9, 1, .rwl, 0x0⟩, ⟨10, 12, .rwl, 0x0⟩, ⟨22, 12, .rwl, 0x0⟩, ⟨34, 16, .rwl, 0x0⟩]⟩,
  ⟨R.ALT_CG_GEOM, .job, [⟨0, 6, .rwl, 0x0⟩, ⟨6, 6, .rwl, 0x0⟩, ⟨12, 6, .rwl, 0x0⟩, ⟨18, 6, .rwl, 0x0⟩]⟩,
  ⟨R.ALT_CG_LIST, .job, [⟨0, 51, .rwl, 0x0⟩]⟩,
  ⟨R.ALT_CG_STAT, .job, [⟨0, 32, .ro, 0x0⟩, ⟨32, 32, .ro, 0x0⟩]⟩]

/-- The register tables of the `PLN` block. -/
def regTablePln : List RegInfo := [
  ⟨R.PLN_CAP, .job, [⟨0, 15, .ro, 0x0⟩, ⟨15, 1, .ro, 0x0⟩, ⟨32, 32, .ro, 0x0⟩]⟩,
  ⟨R.PLN_CFG, .job, [⟨0, 8, .rwl, 0x64⟩]⟩,
  ⟨R.PLN_STAT, .job, [⟨0, 16, .ro, 0x0⟩, ⟨16, 16, .ro, 0x0⟩, ⟨32, 16, .ro, 0x0⟩, ⟨48, 16, .ro, 0x0⟩]⟩,
  ⟨R.PLN_RSV, .job, [⟨0, 8, .rwl, 0x0⟩, ⟨8, 1, .rwl, 0x0⟩, ⟨9, 7, .rwl, 0x0⟩]⟩]

/-- The register tables of the `SEC` block. -/
def regTableSec : List RegInfo := [
  ⟨R.SEC_BOOT_STAT, .job, [⟨0, 2, .ro, 0x0⟩, ⟨2, 3, .ro, 0x0⟩, ⟨5, 3, .ro, 0x0⟩, ⟨8, 32, .ro, 0x0⟩]⟩,
  ⟨R.SEC_FUSES, .job, [⟨0, 7, .ro, 0x0⟩, ⟨7, 2, .ro, 0x0⟩, ⟨9, 3, .ro, 0x0⟩, ⟨12, 3, .ro, 0x0⟩, ⟨15, 3, .ro, 0x0⟩]⟩,
  ⟨R.SEC_PLINTH_STAT, .job, [⟨0, 16, .ro, 0x0⟩, ⟨16, 16, .ro, 0x0⟩, ⟨32, 16, .ro, 0x0⟩]⟩,
  ⟨R.SEC_IDPK, .job, [⟨0, 64, .ro, 0x0⟩]⟩,
  ⟨R.SEC_MEAS, .job, [⟨0, 64, .ro, 0x0⟩]⟩,
  ⟨R.SEC_ROLE, .job, [⟨0, 3, .ro, 0x0⟩, ⟨3, 4, .ro, 0x0⟩, ⟨7, 1, .ro, 0x0⟩, ⟨8, 1, .ro, 0x0⟩, ⟨9, 1, .ro, 0x0⟩, ⟨10, 2, .ro, 0x0⟩, ⟨12, 16, .ro, 0x0⟩]⟩,
  ⟨R.SEC_ROLE_TIME, .job, [⟨0, 64, .ro, 0x0⟩]⟩,
  ⟨R.SEC_SESS, .job, [⟨0, 32, .ro, 0x0⟩, ⟨32, 16, .ro, 0x0⟩]⟩,
  ⟨R.SEC_KEYNEW, .partition, [⟨0, 64, .wo, 0x0⟩]⟩,
  ⟨R.SEC_KEYNEW_CTRL, .partition, [⟨0, 2, .wo, 0x0⟩, ⟨2, 1, .wo, 0x0⟩]⟩,
  ⟨R.SEC_FENCE, .partition, [⟨0, 64, .rwl, 0x0⟩]⟩]

/-- The register tables of the `PWR` block. -/
def regTablePwr : List RegInfo := [
  ⟨R.PWR_GOV, .job, [⟨0, 10, .rw, 0x2ee⟩, ⟨10, 11, .rw, 0x708⟩, ⟨21, 7, .rw, 0x64⟩]⟩,
  ⟨R.PWR_STAT, .job, [⟨0, 10, .ro, 0x2ee⟩, ⟨10, 10, .ro, 0x2ee⟩, ⟨20, 3, .ro, 0x0⟩, ⟨23, 1, .ro, 0x0⟩]⟩,
  ⟨R.PWR_MEAS, .job, [⟨0, 10, .ro, 0x0⟩, ⟨10, 10, .ro, 0x0⟩, ⟨20, 11, .ro, 0x0⟩]⟩,
  ⟨R.PWR_TEMP, .job, [⟨0, 8, .ro, 0x0⟩, ⟨8, 8, .ro, 0x0⟩, ⟨16, 8, .ro, 0x0⟩, ⟨24, 4, .ro, 0x0⟩, ⟨28, 8, .ro, 0x0⟩, ⟨36, 3, .ro, 0x0⟩]⟩,
  ⟨R.PWR_RAILS, .job, [⟨0, 9, .ro, 0x1ff⟩, ⟨9, 4, .ro, 0xf⟩, ⟨13, 1, .ro, 0x0⟩]⟩,
  ⟨R.PWR_ENERGY, .job, [⟨0, 64, .ro, 0x0⟩]⟩]

/-- Every register table of the manual. -/
def regTable : List RegInfo :=
  regTableCap ++ regTableGlb ++ regTableQe ++ regTableTr ++ regTableFab ++ regTableCu ++ regTableMu ++ regTableFlt ++ regTableSrv ++ regTableMre ++ regTableWsu ++ regTableAlt ++ regTablePln ++ regTableSec ++ regTablePwr

/-- The element of a register that an offset names: the two indexes. -/
def Reg.index? (r : Reg) (off : Nat) : Option (Nat × Nat) :=
  if off < r.base then none
  else
    let d := off - r.base
    let i := if r.n1 ≤ 1 then 0 else d / r.s1
    let e := d - r.s1 * i
    let j := if r.n2 ≤ 1 then 0 else e / r.s2
    if e = r.s2 * j ∧ i < r.n1 ∧ j < r.n2 then some (i, j) else none

/-- The register table and the indexes that a BAR0 offset names (R494), or `none` where no register of the full part
lies. -/
def regAtIn : List RegInfo → Nat → Option (RegInfo × Nat × Nat)
  | [], _ => none
  | t :: ts, off =>
    match t.reg.index? off with
    | some (i, j) => some (t, i, j)
    | none => regAtIn ts off

/-- `regAtIn` over every register of the manual. -/
def regAt? (off : Nat) : Option (RegInfo × Nat × Nat) := regAtIn regTable off

/-- The mask of the bits of a register whose access code satisfies `p`. -/
def maskOf (p : Acc → Bool) (fs : List FieldInfo) : W64 :=
  fs.foldl (fun m f => if p f.acc then m ||| fieldMask f.lo f.width else m) 0

/-- The reset value that a register's table gives. -/
def resetOf (fs : List FieldInfo) : W64 :=
  fs.foldl (fun v f => setBits v f.lo f.width f.reset) 0

/-- The reset value at an offset; 0 where no register lies. -/
def regReset (off : Nat) : W64 :=
  match regAt? off with
  | some (t, _, _) => resetOf t.fields
  | none => 0

end Sys2Proof.Machine
end

