-- ==== Sys2Proof/Machine/State.lean ====
section
/-! DEFINITION. The state of the device as plain data, the reasons a command can stop, and the state after reset. Every
register of BAR0 lies in `State.regs`; the structures below hold what the manual gives the device beside them. -/

namespace Sys2Proof.Machine

/-! ## The part -/

/-- The three orderable parts of R3. -/
inductive Part where
  | x12 | s12 | s08
  deriving DecidableEq, Repr

/-- The one-time fuses of R561. `rootHash` holds four 32-byte hashes; `roleKeys` the burnt 32-byte keys of each role,
slot 0 first; `idSk` and `idPk` the identity pair. `KEY_MIN`, `SVN` and the active slots are kept as numbers. `repair` is the retired physical column of each die in the repair
fuses of R164. -/
structure Fuses where
  part : Part
  rootHash : List (List Byte)
  keyMin : Nat
  svn : Nat
  idPk : List Byte
  roleKeys : List (List (List Byte))
  activeSlot : List Nat
  slotsUsed : List Nat
  repair : List Nat
  deriving DecidableEq, Repr

/-- The firmware store of R562: the bytes of the two image slots, and whether the marker names slot B. -/
structure FwStore where
  slotA : SMap Byte
  slotB : SMap Byte
  activeB : Bool
  deriving DecidableEq, Repr

/-! ## Timebase -/

/-- The timebase of R28 to R31: the tick, whether the PLL has locked, which sources show edges (TIMEREF, port A, port B),
the tick since which each has shown them, the phase difference of the last changes of source not yet absorbed, the ticks since the
last slewed tick, the three shadows of the high half, and the tick at which the present window of R36 began. -/
structure Timebase where
  tick : W64
  locked : Bool
  present : List Bool
  presentAt : List Nat
  phase : Int
  slewPhase : Nat
  shadowA : BitVec 32
  shadowB : BitVec 32
  shadowS : BitVec 32
  rateStart : W64
  deriving DecidableEq, Repr

/-! ## Queues -/

/-- A 64-byte command record (R46). -/
structure Rec where
  w0 : W64
  w1 : W64
  w2 : W64
  w3 : W64
  w4 : W64
  w5 : W64
  w6 : W64
  w7 : W64
  deriving DecidableEq, Repr

/-- A staging slot of a queue window (R41, R44): which words have been written since it was cleared, the words, and
whether it holds an accepted record that waits for its turn. -/
structure Slot where
  written : List Bool
  words : List W64
  held : Bool
  deriving DecidableEq, Repr

/-- Where the record at the head of a queue stands in the order of R47: not yet looked at, waiting at step 5 on
`WAIT_FENCE` or as a `FENCE_WAIT` since a tick, or past step 5 and held there or at step 6. -/
inductive HeadPhase where
  | fresh
  | waitFence (since : Nat)
  | waitOp (since : Nat)
  | ready
  deriving DecidableEq, Repr

/-- A record in flight (R57): its sequence number, the record, the tick at which it started, its progress in entries and
in bytes, the phase of the present entry, the first failing status met, and whether a domain it used
began a recovery (R529). -/
structure Flight where
  seq : Nat
  cmd : Rec
  start : Nat
  entry : Nat
  bytes : Nat
  phase : Nat
  fail : Option Nat
  degraded : Bool
  deriving DecidableEq, Repr

/-- What a queue engine holds for a queue beside its registers: the staging slots, the phase of the head record, the
records in flight, the completion records written since binding, the entry the next one goes to, the entries written and
not yet consumed, the completions written since the last raise, the tick of the oldest of them (R41 to R61), and how often
the queue has restarted after a loss of its port: a record in flight is numbered by its `SEQ` plus 2^48 times the epoch it started in, so
that one that outlives a loss (R501) is told from a later one. -/
structure QState where
  slots : SMap Slot
  head : HeadPhase
  flights : List Flight
  cseq : Nat
  cqTail : Nat
  cqUsed : Nat
  unraised : Nat
  oldest : Nat
  epoch : Nat
  deriving DecidableEq, Repr

/-- Who opened a transaction (R66): a queue, or the management session of a role. -/
inductive Opener where
  | queue (q : Nat)
  | session (r : Nat)
  deriving DecidableEq, Repr

/-- A staged `SET` (R67): BAR0 offset, value and mask. -/
structure Staged where
  off : Nat
  value : W64
  mask : W64
  deriving DecidableEq, Repr

/-- A `CAST_SWITCH` or `CAST_EVICT` staged in a `CAST` transaction (R52): the Dales, and for an evict the slot. -/
structure StagedCast where
  first : Nat
  count : Nat
  evict : Bool
  active : Bool
  seq : Nat
  deriving DecidableEq, Repr

/-- An open transaction (R66 to R70). `job` is the job of a `CAST` transaction; `committing` is set from validation on,
with the tick at which the commit began and the sequence number of the `TX_COMMIT` record. -/
structure Tx where
  handle : Nat
  scope : Scope
  job : Nat
  opener : Opener
  timeout : Nat
  staged : List Staged
  casts : List StagedCast
  committing : Bool
  since : Nat
  commitSeq : Nat
  tag : BitVec 16
  deriving DecidableEq, Repr

/-! ## Ports -/

/-- What a PCIe port holds beside its registers: Bus Master Enable, the function mask of MSI-X, the vector table as 8-byte
words (two for each entry), and the pending bits (R492, R500). -/
structure PortSt where
  busMaster : Bool
  functionMask : Bool
  table : SMap W64
  pendingBits : List Nat
  deriving DecidableEq, Repr

/-! ## Faults, power, boot -/

/-- The kinds of fault domain of R526, in the order of their codes. -/
inductive Domain where
  | site | dale | hbmChannel | hbmStack | link | bundle | core | die | device | job | chip
  deriving DecidableEq, Repr

/-- A recovery in progress on a domain (R527). -/
structure Recovery where
  domain : Domain
  index : Nat
  deriving DecidableEq, Repr

/-- What the fault unit holds beside its registers: the log entries that have been read or flushed, the tick each entry was
last repeated, the recovering domains, the notice identifiers seen (newest first, at most 64), the counter of notices
this device originates, the links kept out of their ports (R527), and whether a promotion waits for a commit point. -/
structure FaultSt where
  readMarks : List Nat
  lastRepeat : SMap Nat
  recovering : List Recovery
  seenNotices : List Nat
  noticeCtr : Nat
  outLinks : List Nat
  promoting : Bool
  deriving DecidableEq, Repr

/-- Calibration (R546 to R548): the records, the elements queued as (kind, element), and the 6-bit trim code of
each site's delay line (R25), and the tick of the last check of the records. -/
structure CalSt where
  records : List CalRecord
  queued : List (Nat × Nat)
  trims : SMap Nat
  checked : Nat
  deriving DecidableEq, Repr

/-- Power and boot (R511, R564, R581 to R587): whether power-good has been declared, which boot stage has been reached
(`imageOk` once an image passed), the irreversible power-fail sequence, the current-limit ceiling of each die in mV with
the tick at which it ends, and the tick at which the power-fail sequence started. -/
structure PowerSt where
  good : Bool
  imageOk : Bool
  runningB : Bool
  stopped : Bool
  ceilW : Option Nat
  ceilE : Option Nat
  ceilWEnd : Nat
  ceilEEnd : Nat
  failedAt : Nat
  deriving DecidableEq, Repr

/-! ## Memory -/

/-- The memory tiers. `mem` holds the Terrace and the Basin at their local offsets (R88), `plain` the Plain as the device has
last written it or seen it delivered, `poison` the marked 64-byte units (offset / 64) of all three (R524). -/
structure Memory where
  mem : SMap Byte
  plain : SMap Byte
  poison : List Nat
  deriving DecidableEq, Repr

/-- A job's translation tables (R92 to R95): the Basin offset of each table by its key, and the entries by their key, as
`tableKey` and `entryKey` compute them. -/
structure PageTable where
  tables : SMap Nat
  entries : SMap W64
  deriving DecidableEq, Repr

/-- A migratable page (R100 to R102): its job and virtual page, its home in the Plain, the pool frame it is promoted to,
its heat, whether it was written while promoted, and a copy in progress (`1` promoting, `2` demoting) with the frame
claimed for it. -/
structure MigPage where
  job : Nat
  va : Nat
  home : Nat
  frame : Option Nat
  heat : Nat
  dirty : Bool
  copying : Nat
  copyFrame : Nat
  deriving DecidableEq, Repr

/-- An entry of a translation cache (R99): the job, the virtual address at which its page, or the range of its pointer entry, begins,
and the size of it. -/
structure TlbEntry where
  job : Nat
  va : Nat
  log2 : Nat
  deriving DecidableEq, Repr

/-- An image of the hot set (R117, R118): its identity and length, whether it is whole, the Basin frames that hold its bytes in order,
the jobs that pin it and the use counter of the last use. -/
structure HotImage where
  castId : W64
  digest : List Byte
  len : Nat
  whole : Bool
  frames : List Nat
  pins : List Nat
  lastUse : Nat
  deriving DecidableEq, Repr

/-- A cast that slots refer to (R112): its header, first Dale and Dale count, its hot-set entry (511 for none), the job and
image address it was staged from with the image length, and the program stores: unit programs by
`1024 × (1 for a memory unit) + 32 × relative Dale + local index`, slot tables by `64 × relative Dale + site`, and the valid
channel descriptors by `4096 × relative Dale + number`. -/
structure CastRef where
  header : List W64
  first : Nat
  count : Nat
  entry : Nat
  job : Nat
  addr : Nat
  len : Nat
  progs : SMap (List W64)
  tables : SMap (List W64)
  chans : SMap (List W64)
  deriving DecidableEq, Repr

/-- The states of a slot (R112), in the order of their codes. -/
inductive SlotState where
  | empty | loading | ready | deferred | running
  deriving DecidableEq, Repr

/-- A slot of a Dale: its state and the number of its cast in `Casts.refs`. -/
structure DaleSlot where
  state : SlotState
  cast : Nat
  deriving DecidableEq, Repr

/-- A staging in progress (R113): the queue and sequence number of its record and whether it waits for zeroing. -/
structure Staging where
  q : Nat
  seq : Nat
  cast : Nat
  hit : Bool
  deriving DecidableEq, Repr

/-- Casts: the referenced casts by number, the next number, the active and standby slots by Dale, the stagings in
progress, the hot set, its use counter, and the Dales whose Terrace is being zeroed (R112 to R118). -/
structure CastSt where
  refs : SMap CastRef
  nextRef : Nat
  active : SMap DaleSlot
  standby : SMap DaleSlot
  staging : List Staging
  hot : SMap HotImage
  useCtr : Nat
  zeroing : List Nat
  deriving DecidableEq, Repr

/-- Frames and translation: owners of Basin and of Plain frames by frame number (R96), each job's tables, the translation caches (by the
number of the memory unit; then, from 1,024 on, the data movers of each die, the walker of each die, and the pointer entries of each
walker), the migratable pages and the tick of the last heat epoch. -/
structure FrameSt where
  basinOwner : SMap Nat
  plainOwner : SMap Nat
  pages : SMap PageTable
  tlbs : SMap (List TlbEntry)
  mig : List MigPage
  epoch : Nat
  deriving DecidableEq, Repr

/-! ## Management -/

/-- An open management session (R508, R569): its number, its key, its transport, the caller's endpoint, the last accepted
`MSEQ`, the tick of the last valid message, the expiry tick, and the run of failed `MAC`s. -/
structure Session where
  sid : Nat
  key : List Byte
  transport : Nat
  eid : Byte
  lastMseq : Nat
  lastValid : Nat
  expiry : Nat
  macRun : Nat
  deriving DecidableEq, Repr

/-- What the device holds for a role beside its registers: the open session, the pending nonce with its tick, the lifetime
named with it, and the number of lockouts since the last success (R569 to R571). -/
structure RoleSt where
  session : Option Session
  nonce : Option (List Byte × Nat)
  deriving DecidableEq, Repr

/-- A firmware roll in progress (R549): the cores that have rolled, in order of `E1, E0, W1, W0`, the tick at which the
present core began, and the header of the `FW_ACTIVATE` request. -/
structure Roll where
  done : Nat
  since : Nat
  hdr : MgmtHdr
  deriving DecidableEq, Repr

/-- Management (R505 to R509): the I3C dynamic address, the endpoint identifier of each transport, the message allowance
of each transport in ticks (one message costs 2,000,000) with the tick it was last refilled, the roles, the last session number, and a roll
in progress. -/
structure MgmtSt where
  i3cAddr : Option (BitVec 7)
  eids : List Byte
  allowance : List Nat
  refilled : List Nat
  roles : List RoleSt
  lastSid : Nat
  roll : Option Roll
  deriving DecidableEq, Repr

/-! ## What leaves the device -/

/-- A message the device sends over Altur (R442): the logical port it leaves by, its opcode and its fields; `extra` holds the
fields that a ring, route or collective message carries beside them, in the order of their structures. -/
structure OutMsg where
  port : Nat
  op : Nat
  src : Nat
  dst : Nat
  vc : Nat
  poison : Bool
  job : Nat
  addr : Nat
  xid : Nat
  arg0 : Nat
  arg1 : Nat
  extra : List Nat
  data : List Byte
  deriving DecidableEq, Repr

/-- What the device sends to the world (R2), in the order in which it leaves: a write into host memory, an MSI-X vector, an
Altur message, a request on a Plain link (code, transaction, buffer address, bytes to read, data to write), a sideband
message body, an AVSBus voltage request in mV, a link-control flit (link; code 1 `NAK`, 3 the start of a replay; sequence number), a flit as its 256 bytes, the identity and
the initial credits that a training link sends (R428), and the data a read returns with its poison flag. -/
inductive Output where
  | hostWrite (p : PortId) (addr : W64) (data : List Byte)
  | vector (p : PortId) (v : Nat)
  | message (m : OutMsg)
  | plainReq (link : Nat) (code : Nat) (xid : Nat) (addr : Nat) (len : Nat) (poison : Bool) (data : List Byte)
  | mgmt (transport : Nat) (body : List Byte)
  | avs (die : Nat) (mv : Nat)
  | linkCtl (link : Nat) (code : Nat) (seq : Nat)
  | flit (link : Nat) (bytes : List Byte)
  | ident (link : Nat) (chip : Nat) (valid : Bool) (part : Nat)
  | credits (link : Nat) (buffers : List Nat) (replay : Nat)
  | readData (via : Via) (poison : Bool) (data : List Byte)
  deriving DecidableEq, Repr

/-! ## Links, ports and remote requests -/

/-- A message a logical port holds until its flits are acknowledged (R436, R437): the message, its port sequence number and the
link it went on (none while held). -/
structure TxMsg where
  msg : OutMsg
  pseq : Nat
  link : Option Nat
  deriving DecidableEq, Repr

/-- A data flit as the sender keeps it until it is acknowledged (R433): the logical port of its message (8 on a Plain link), the message's
port sequence number, its channel, whether it starts and ends the message, and its payload. -/
structure TxFlit where
  port : Nat
  pseq : Nat
  vc : Nat
  som : Bool
  eom : Bool
  payload : List Byte
  deriving DecidableEq, Repr

/-- What a link holds beside its registers (R423 to R434): the tick its state began, the tick the peer's pattern was first
seen, a requested full search, a full search in progress, a held `RECAL`, where `DRAIN` leads, the tick of the last
identity exchange, sequence numbers received and sent, consecutive replays of one number, the uncorrectable codewords of the
last millisecond (tick and number), flits freed, granted, freed by the peer and spent on each channel, the message being assembled on
each channel, the message last delivered, the heater settings, the data flits sent and not acknowledged, the channel whose credit total the
next flit carries, the data flits not yet sent, and the place of the weighted turn (R473) with the flits it has left. -/
structure LinkSt where
  since : Nat
  patternAt : Option Nat
  forceSearch : Bool
  searching : Bool
  recalHeld : Bool
  drainTo : Nat
  identAt : Nat
  rxNext : Nat
  txNext : Nat
  txAcked : Nat
  replaySeq : Nat
  replays : Nat
  cwLog : List (Nat × Nat)
  freed : List Nat
  granted : List Nat
  peerFreed : List Nat
  spent : List Nat
  assembling : List (List Byte)
  delivered : List Byte
  heaters : List Nat
  unacked : List TxFlit
  creditTurn : Nat
  queue : List TxFlit
  turn : Nat
  turnLeft : Nat
  deriving DecidableEq, Repr

/-- What a logical port holds beside its registers (R436 to R438): since when it has no carrying link, the next port
sequence number of each channel, and the messages held or unacknowledged. -/
structure PortRt where
  noCarry : Option Nat
  seqs : List Nat
  txq : List TxMsg
  deriving DecidableEq, Repr

/-- Who issued a remote or Plain request (R460): a record in flight, a memory unit's generator, an Armature core, the serving
unit for a mirror record, an inbound message that is answered from the Plain, the Watershed unit for a row or an end
marker of a group, or an access through the aperture of a port to the Plain (its offset, length and data; step 0 reads, step 1 reads
the rest of the lines that a write covers in part, step 2 writes). -/
inductive Issuer where
  | flight (q seq : Nat)
  | gen (mu ag : Nat)
  | core (c : Nat)
  | mirror (m : Nat)
  | reply (m : Msg) (op : Nat)
  | route (g : Nat) (row : Bool)
  | aperture (p a len : Nat) (data : List Byte) (step : Nat)
  deriving DecidableEq, Repr

/-- A request that awaits its response (R462, R447): its transaction, its issuer, the message (for a Plain request, its
code, address and length in the same fields), the Plain link or none, the tick it was sent, the result once known, and the
tick of a `BUSY` refusal. -/
structure Request where
  xid : Nat
  issuer : Issuer
  msg : OutMsg
  plainLink : Option Nat
  sentAt : Nat
  result : Option Nat
  busyAt : Option Nat
  deriving DecidableEq, Repr

/-- Links, ports and requests: link and port records, the next transaction number and the outstanding requests. -/
structure NetSt where
  links : SMap LinkSt
  ports : SMap PortRt
  nextXid : Nat
  requests : List Request
  deriving DecidableEq, Repr

/-- A link that has just been powered. -/
def LinkSt.fresh : LinkSt where
  since := 0
  patternAt := none
  forceSearch := false
  searching := false
  recalHeld := false
  drainTo := 0
  identAt := 0
  rxNext := 0
  txNext := 0
  txAcked := 0
  replaySeq := 0
  replays := 0
  cwLog := []
  freed := List.replicate 6 0
  granted := List.replicate 6 0
  peerFreed := List.replicate 6 0
  spent := List.replicate 6 0
  assembling := List.replicate 6 []
  delivered := []
  heaters := List.replicate 16 0
  unacked := []
  creditTurn := 0
  queue := []
  turn := 0
  turnLeft := 0

/-- A port that has sent nothing. -/
def PortRt.fresh : PortRt where
  noCarry := none
  seqs := List.replicate 6 0
  txq := []
/-! ## The fabric and its units -/

/-- A token (R144): tag, task id, `CTRL`, `POISON`, 64 bytes, its channel as `4096 × absolute Dale + number`, and, for a token
that left a `STEER`, the tag in the control token that steered it (R151). -/
structure Token where
  tag : Nat
  task : Nat
  ctrl : Bool
  poison : Bool
  payload : List Byte
  chan : Nat
  steerTag : Nat
  deriving DecidableEq, Repr

/-- A token held at a unit or element: the input port, the destination number within its channel, the tick since which it has
been held, and the token. -/
structure Held where
  port : Nat
  dest : Nat
  since : Nat
  token : Token
  deriving DecidableEq, Repr

/-- What an output port holds: its tokens, oldest first, and the tick since which it has held some. -/
structure OutPort where
  tokens : List Token
  since : Nat
  deriving DecidableEq, Repr

/-- A switch box (R135 to R137, R278): the slots it has fired in the step, the transfers that wait on its N, E, S and W inputs, and the token
that came over the local link from its unit in the last slot-firing, with its channel. -/
structure BoxSt where
  fired : Nat
  inputs : List (List (Option Token))
  fromUnit : List (Nat × Token) := []
  deriving DecidableEq, Repr

/-- A steering element (R148 to R150): tokens not yet admitted, tokens in its matching store, its base, the tags beyond the base
that have fired, and its outputs. -/
structure ElemSt where
  arrivals : List Held
  store : List Held
  base : Nat
  fired : List Nat
  outs : List OutPort
  deriving DecidableEq, Repr

/-- A channel (R152, R154): credits held for each destination, credits on their way back (destination numbers, oldest first),
tokens in the spill region, the place in the region of the oldest, and the tick at which a token last moved. -/
structure ChanSt where
  credits : List Nat
  returning : List Nat
  spilled : List Token
  spillAt : Nat
  moved : Nat
  deriving DecidableEq, Repr

/-- A buffer or scale load in progress (R180): task, input port, tag, whether it fills the scale store, the next line or scale
index, and the tokens still to come. -/
structure Intake where
  task : Nat
  port : Nat
  tag : Nat
  scales : Bool
  next : Nat
  left : Nat
  deriving DecidableEq, Repr

/-- A matrix instruction that runs (R173): its task, word index and two words, its tag, the tensor scales read at issue, the bytes
taken from its A and scale ports, the tokens still to come on each, and a poison mark met. -/
structure MmSt where
  task : Nat
  pc : Nat
  w0 : W64
  w1 : W64
  tag : Nat
  ta : BitVec 32
  tb : BitVec 32
  aBytes : List Byte
  sBytes : List Byte
  aLeft : Nat
  sLeft : Nat
  poison : Bool
  deriving DecidableEq, Repr

/-- A resident task (R188): next instruction, tag base, loop registers, vector lanes by `64 × register + lane`, mask registers, the
vector registers and mask registers that carry a poison mark, whether it has finished, and the random state of each lane. -/
structure TaskSt where
  pc : Nat
  tb : Nat
  loops : List Nat
  lanes : SMap (BitVec 32)
  masks : List W64
  marks : List Nat
  maskMarks : List Nat
  finished : Bool
  rng : List (BitVec 32)
  deriving DecidableEq, Repr

/-- A compute unit (R171): active task, tasks, resident-operand buffer, scale store and accumulator file (by
`1024 × bank + 64 × row + column`), marked banks, buffer lines and scale lines, loads and matrix instruction in progress,
tokens not yet admitted, tokens in the matching stores, output buffers, whether it is halted, and the tick of its last task switch. -/
structure CuSt where
  active : Nat
  tasks : List TaskSt
  buf : SMap Byte
  scales : SMap Byte
  acc : SMap (BitVec 32)
  bankMarks : List Nat
  lineMarks : List Nat
  scaleMarks : List Nat
  intakes : List Intake
  mm : Option MmSt
  arrivals : List Held
  store : List Held
  outs : List OutPort
  halted : Bool
  switchAt : Option Nat := none
  deriving DecidableEq, Repr

/-- An address generator (R206): next instruction, iterations or entries done in its stream, base of a writing stream, lines written
by iteration, the next Terrace line of a list stream, instructions completed, whether it has finished, the phase of a list
entry, the last tag sent, the wait it shows (R225) since a tick, and the 32 bytes of the list entry in progress as it was read. -/
structure AgSt where
  pc : Nat
  done : Nat
  base : Nat
  written : SMap Nat
  line : Nat
  completed : Nat
  finished : Bool
  phase : Nat
  tag : Nat
  wait : Nat
  since : Nat
  entry : List Byte := []
  deriving DecidableEq, Repr

/-- The counters of a slot ring (R215): slots written, and slots released by each consumer. -/
structure RingPtr where
  tail : Nat
  cons0 : Nat
  cons1 : Nat
  deriving DecidableEq, Repr

/-- A memory unit beside its Terrace: generators, rings, tokens not yet admitted, tokens admitted, outputs, whether halted. -/
structure MuSt where
  ags : List AgSt
  rings : List RingPtr
  arrivals : List Held
  store : List Held
  outs : List OutPort
  halted : Bool
  deriving DecidableEq, Repr

/-- Who runs a cast: a `CAST_RUN` in flight, or a serving step of a binding with its target or draft cast. -/
inductive RunOwner where
  | command (q seq : Nat)
  | serving (m : Nat) (draft : Bool) (q seq : Nat)
  deriving DecidableEq, Repr

/-- A binding of an argument block (R111): index, write permission, virtual base. -/
structure Binding where
  index : Nat
  write : Bool
  base : Nat
  deriving DecidableEq, Repr

/-- A cast that runs (R115, R158 to R161): its owner, cast number and bindings, steps asked for and done, whether a step is in flight,
its start and the ticks counted toward its limit, the fault that will decide its status at the end of the step (code and
`DETAIL`), the residue of the step, the tick of that fault and the rank of the unit it arose in, and a cause that stops the cast at the end
of the present tick (R601; code and `DETAIL`). -/
structure CastRun where
  owner : RunOwner
  job : Nat
  cast : Nat
  binds : List Binding
  total : Nat
  done : Nat
  stepping : Bool
  start : Nat
  ticks : Nat
  fault : Option (Nat × W64)
  residue : Nat
  faultAt : Nat := 0
  faultRank : Nat := 0
  stop : Option (Nat × W64) := none
  deriving DecidableEq, Repr

/-- The fabric: running casts by first Dale, runs of BE queues that yield between two steps (R65), the steps each active cast has started since it became active (by cast number), the casts that have started more than one,
the fenced Saddle rows (row, plus 32 for East to West; R532), the row links that have failed and wait for a spare (numbered alike), the spares spent in each direction, and the boxes, steering elements (by `2 × site number + element`), channels and units by their absolute numbers. -/
structure FabricSt where
  runs : SMap CastRun
  paused : List CastRun
  started : SMap Nat
  beyond : List Nat
  fencedRows : List Nat
  failedRows : List Nat
  sparesSpent : List Nat
  boxes : SMap BoxSt
  elems : SMap ElemSt
  chans : SMap ChanSt
  cus : SMap CuSt
  mus : SMap MuSt
  deriving DecidableEq, Repr


/-! ## Armature cores -/

/-- A line of a core's data cache (R284): its bytes, whether it is dirty, and whether its bytes carry a poison mark. -/
structure DataLine where
  bytes : List Byte
  dirty : Bool
  mark : Bool
  deriving DecidableEq, Repr

/-- What a core waits for: nothing, a line of its instruction or data cache, the old value of a remote atomic for a register
(width 64 where `wide`), a fence value for a register, or the acknowledgements of its written lines before a signal. -/
inductive CoreWait where
  | none
  | line (code : Bool) (addr : Nat)
  | atomic (wide : Bool) (rd : Nat)
  | fence (f : Nat) (v : Nat) (rd : Nat)
  | flush (f : Nat) (v : Nat) (add : Bool)
  deriving DecidableEq, Repr

/-- An Armature core that runs for a `CORE_RUN` (R283, R284): the queue and sequence number of the command, its job, the program
counter, the integer, floating-point and vector registers, the control registers that differ from zero, the firings
counted, the lines of its two caches by global line address, the address it holds a reservation on, what it waits for, its exit value,
whether a write of it met a poisoned leaf, and the status code, `RESULT` and `DETAIL` of a trap that has not yet ended its run. -/
structure CoreSt where
  q : Nat
  seq : Nat
  job : Nat
  pc : W64
  x : List W64
  fp : List W64
  v : List (List Byte)
  csrs : SMap W64
  cycles : Nat
  code : SMap (List Byte × Bool)
  data : SMap DataLine
  reserved : Option Nat
  wait : CoreWait
  exited : Option W64
  poisonWrite : Bool
  trapped : Option (Nat × W64 × W64) := none
  deriving DecidableEq, Repr


/-! ## Serving -/

/-- A request (R378): the 16 words of its entry, the cancels that wait for its cancel point (queue and sequence number), the list
pages mapped, the pages in use that its list entries name, whether it is in a serving step, the output records reserved for that step, whether it still holds its final-record
reservation, its final status once decided, the status that a later cancel of the decided end gets, the fed tokens of a follower
that it has not entered with their positions, and the position it expects next from the feed. -/
structure Req where
  words : List W64
  cancels : List (Nat × Nat)
  listPages : Nat
  listed : Nat := 0
  inStep : Bool
  reserved : Nat
  finalHeld : Bool
  cause : Option Nat
  cancelStatus : Option Nat
  feed : List (Nat × Nat)
  feedNext : Nat
  deriving DecidableEq, Repr

/-- A sampled distribution (R393 to R395): the kept candidates in candidate order with their weights, and the sum of them. -/
structure Dist where
  cands : List (Nat × BitVec 32)
  total : BitVec 32
  deriving DecidableEq, Repr

/-- What a request does in a step: a prompt chunk, a chunk of a shard, a decode, or the fed tokens of a follower. -/
inductive ItemKind where
  | prefill | shard | decode | follow
  deriving DecidableEq, Repr

/-- A request in a step's batch (R387, R390): its entry and generation, what it does, its rows, its effective draft length, its
first row, its first logit row and their number, the state it held, the drafts proposed with their distributions, the tokens the
step commits with the number accepted, and a fault met. -/
structure Item where
  entry : Nat
  gen : Nat
  kind : ItemKind
  rows : Nat
  ke : Nat
  firstRow : Nat
  logitFirst : Nat
  logitRows : Nat
  proposals : List Nat
  dists : List Dist
  tokens : List Nat
  accepted : Nat
  fault : Option Nat
  deriving DecidableEq, Repr

/-- A `SERVE_START` in flight on a binding (R385, R386): its record, the steps run, whether `STOP` was written, the number of the
step, its items, the draft pass, whether a draft pass ran, whether the cast of the phase runs, whether the target step has
started, the tick at which the pass became ready for the sampler, the KV views in the batch of the cast that runs, and whether the step commits
when the present tick is over (R407). -/
structure ServeRun where
  q : Nat
  seq : Nat
  done : Nat
  stop : Bool
  number : Nat
  items : List Item
  pass : Nat
  drafted : Bool
  casting : Bool
  target : Bool
  readyAt : Option Nat
  views : Nat
  commitDue : Bool := false
  deriving DecidableEq, Repr

/-- An output ring (R401, R409): records written since it was bound, records not yet consumed, records reserved for steps in
flight, and whether it is without room since its port was lost (R502). -/
structure OutRing where
  rseq : Nat
  used : Nat
  reserved : Nat
  dead : Bool
  deriving DecidableEq, Repr

/-- Serving: requests by entry, `SERVE_START`s in flight by binding, output rings, the pages that lie on a free list or are mapped
(Basin-relative 4 KiB page number, then class, with 32 added while on a list), the images read at step 3 by queue, the bindings
that a promotion waits for, the mirror sequence of each binding, the feed sequence each follower binding expects, and the tokens
of the last committed positions of each entry. -/
structure ServeSt where
  reqs : SMap Req
  runs : SMap ServeRun
  rings : SMap OutRing
  pages : SMap Nat
  images : SMap (List W64)
  promote : List Nat
  mirror : SMap Nat
  feed : SMap Nat
  history : SMap (List (Nat × Nat))
  deriving DecidableEq, Repr

/-! ## Meander -/

/-- A lane of a ring run (R322, R327, R328): its memory unit and ring, blocks of step 0 put in so far, blocks that have arrived
from the predecessor, blocks sent to the successor and acknowledged, grants from the successor not yet used and grants given to the
predecessor not yet used, and the segments received of the block that is arriving. -/
structure LaneSt where
  mu : Nat
  ring : Nat
  own : Nat
  arrived : Nat
  forwarded : Nat
  acked : Nat
  grants : Nat
  given : Nat
  segs : Nat
  deriving DecidableEq, Repr

/-- A ring run (R321 to R346): its record, job, entry, streams, partial area, query heads, whether it feeds, the feed ring, the lanes,
which neighbours' setup messages have agreed, the steps that have ended, the tick from which the present step or the feed is
timed, feed records written, the values m0 and E of the pair being fed, and the cause and member of a ring-abort notice that ends the run when
the present tick is over (R340). -/
structure RingRun where
  q : Nat
  seq : Nat
  job : Nat
  entry : Nat
  s0 : Nat
  scount : Nat
  part : Nat
  hq : Nat
  feed : Bool
  feedMu : Nat
  feedRing : Nat
  lanes : List LaneSt
  predOk : Bool
  succOk : Bool
  step : Nat
  since : Nat
  fed : Nat
  m0 : BitVec 32
  feedE : BitVec 32
  notice : Option (Nat × Nat) := none
  deriving DecidableEq, Repr

/-! ## Watershed -/

/-- A choice of an expert (R352 to R356): expert, weight, slot, and whether it holds one. -/
structure Choice where
  expert : Nat
  weight : BitVec 32
  slot : Nat
  accepted : Bool
  deriving DecidableEq, Repr

/-- The settings of an expert group that a `PLAN` captures (R351): the job, M, this member's index, the first frames of the receive and
the return area, and the chips of the members. -/
structure RouteSet where
  job : Nat
  members : Nat
  index : Nat
  recv : Nat
  ret : Nat
  chips : List Nat
  deriving DecidableEq, Repr

/-- The plan of a group (R351): the layer, token count and route block of the `PLAN`, whether hash selection applies, the settings and
map captured, the choices of each token in rank order, and the addresses of the route block. -/
structure RoutePlan where
  layer : Nat
  tokens : Nat
  block : Nat
  hash : Bool
  cfg : W64
  param : W64
  map : List Nat
  mapCrc : Nat
  choices : List (List Choice)
  planAt : Nat
  act : Nat
  rowLines : Nat
  group : RouteSet
  deriving DecidableEq, Repr

/-- A message of the next batch that is held (R366): a row segment or an end marker. -/
inductive HeldRoute where
  | row (m : RouteRowMsg)
  | done (src : Nat) (phase : Nat) (hdr : RouteHdr) (xid : BitVec 32)
  deriving DecidableEq, Repr

/-- An expert group (R351, R365): the layer, token count and route block of the last `PLAN` accepted, the plan in force with the last
phase that has completed under it, a plan that waits for the sorter, the `ROUTE` that runs, the tick from which the end markers are
timed, whether everything has been sent, the members whose end marker of each phase has arrived, rows sent in the phase, the segments
received of rows that are arriving (by phase, source and slot or tag), the slots filled in this batch, the member whose message was
refused before the phase it belongs to began, and the held messages. -/
structure RouteSt where
  key : Option (Nat × Nat × Nat)
  plan : Option RoutePlan
  stage : Nat
  draft : Option RoutePlan
  flight : Option (Nat × Nat)
  since : Nat
  sentAll : Bool
  ends : List (Nat × Nat)
  sent : Nat
  partial_ : SMap Nat
  filled : List Nat
  refused : Option Nat
  held : List HeldRoute
  deriving DecidableEq, Repr

/-- The Watershed unit and the sorter (R350, R367): groups, the `ROUTE` that runs and those that wait for the unit (group, queue,
sequence number), who holds the sorter (`1` the unit, `2` the sampler), since when each of them waits for it, who was granted
last, and the binding for which the sampler asked with the sorts done for its pass. -/
structure WsuSt where
  groups : SMap RouteSt
  running : Option Nat
  waiting : List (Nat × Nat × Nat)
  holder : Nat
  wsuWait : Option Nat
  sampWait : Option Nat
  lastGrant : Nat
  sampBinding : Nat
  sampSorts : Nat
  deriving DecidableEq, Repr

/-! ## Collectives -/

/-- The fields that the members of a collective must agree on (R478). -/
structure CollKey where
  oper : Nat
  red : Nat
  fmt : Nat
  ordered : Bool
  bytes : Nat
  members : Nat
  root : Nat
  listCrc : Nat
  deriving DecidableEq, Repr

/-- A piece of a collective's data on its way: stage, offset within the stage's data, bytes and poison mark. -/
structure CollPiece where
  stage : Nat
  offset : Nat
  data : List Byte
  poison : Bool
  deriving DecidableEq, Repr

/-- The flow to one member (R479, R483): pieces not yet sent, messages sent and not yet credited, the tick since which it has been full,
and whether the branch has been cut. -/
structure CollFlow where
  dest : Nat
  out : List CollPiece
  open_ : Nat
  fullSince : Option Nat
  cut : Bool
  deriving DecidableEq, Repr

/-- A pending collective (R479): its tag, its fields, its group, its record once it has started, whether it detaches, whether it runs
one-shot, its creation, the data received by stage and sender with the poison mark of each byte, the senders in the order in which
their contributions became whole, the members heard from, messages held uncredited by sender, the data worked on, the stage it is at,
whether the destination has been written, its flows, and a status that the end will carry with its `DETAIL`. -/
structure CollEntry where
  gid : Nat
  seq : Nat
  key : CollKey
  group : Nat
  started : Option (Nat × Nat)
  detach : Bool
  oneShot : Bool
  created : Nat
  inbox : SMap (List (Byte × Bool))
  whole : List Nat
  seen : List Nat
  early : SMap Nat
  work : List (Byte × Bool)
  stage : Nat
  written : Bool
  flows : List CollFlow
  status : Option Nat
  detail : W64
  deriving DecidableEq, Repr

/-- The member list of each collective group, copied at its commit (R476), and the pending collectives by slot. -/
structure CollSt where
  lists : SMap (List Nat)
  entries : SMap CollEntry
  deriving DecidableEq, Repr


/-! ## The state -/

/-- The device. `pending` is the queue of commands that wait; `regs` holds every register whose value differs from, or has
been written over, its reset value, keyed by BAR0 offset; `out` is what has left the device, oldest first; `freeCtr`
counts the free values drawn. `turns` is the queue each shared engine last started a record of, by engine and class (R64); `ringSetups` holds, by ring group, the setup messages that came before their run (R325); `remoteView` holds the bytes of other chips' memory as responses last delivered them. -/
structure State where
  pending : List Instr
  fuses : Fuses
  fw : FwStore
  regs : SMap W64
  tb : Timebase
  queues : SMap QState
  turns : SMap Nat
  txs : List Tx
  nextHandle : Nat
  memory : Memory
  remoteView : SMap Byte
  frames : FrameSt
  casts : CastSt
  portA : PortSt
  portB : PortSt
  faults : FaultSt
  cal : CalSt
  power : PowerSt
  mgmt : MgmtSt
  net : NetSt
  fabric : FabricSt
  cores : SMap CoreSt
  serve : ServeSt
  ringRuns : SMap RingRun
  ringSetups : SMap (List RingSetupMsg)
  wsu : WsuSt
  coll : CollSt
  out : List Output
  freeCtr : Nat
  deriving DecidableEq, Repr

/-! ## Stops -/

/-- Reasons a command can stop the machine with a fault. The manual gives every command of the table an effect or a
completion status, so no meaning raises one. -/
inductive Fault where
  /-- Raised by no meaning: kept so that the outcome type is closed. Safe. -/
  | never
  deriving DecidableEq, Repr

/-- Reasons a command can be refused. -/
inductive Refusal where
  /-- Raised by an arm of `exec` whose command has no meaning yet. Safe: the model stops where the hardware goes on. -/
  | notModelled (mnemonic : String)
  deriving DecidableEq, Repr

/-! ## Reset -/

/-- The fuses of a part as the model takes it: the full part, security version 0, key index 0, slot 0 of each role burnt
(R561). DESIGN CHOICE: the contents, which the manufacturer writes, are all zero. -/
def Fuses.factory : Fuses where
  part := .x12
  rootHash := List.replicate 4 (List.replicate 32 0#8)
  keyMin := 0
  svn := 0
  idPk := List.replicate 64 0#8
  roleKeys := List.replicate 3 [List.replicate 32 0#8]
  activeSlot := [0, 0, 0]
  slotsUsed := [1, 1, 1]
  repair := [32, 32]

/-- A queue that has just been bound or reset (R74). -/
def QState.fresh : QState where
  slots := []
  head := .fresh
  flights := []
  cseq := 0
  cqTail := 0
  cqUsed := 0
  unraised := 0
  oldest := 0
  epoch := 0

/-- A port at power-on: PCIe leaves Bus Master Enable and the function mask clear. PRESUMED: as PCIe gives them. -/
def PortSt.reset : PortSt where
  busMaster := false
  functionMask := false
  table := []
  pendingBits := []

/-- The registers whose reset value depends on the index (R72, R74, R81): queues 0 and 1, jobs 0 and 1. -/
def State.resetRegs : SMap W64 :=
  let put := fun (m : SMap W64) (x : Reg) (i : Nat) (fs : List (Field × Nat)) =>
    mset m (x.at i) (fs.foldl (fun v f => setBits v f.1.lo f.1.width f.2) (mgetD m (x.at i) (regReset (x.at i))))
  let m := put [] R.QE_Q_CTRL 0 [(F.QE_Q_CTRL_BOUND, 1), (F.QE_Q_CTRL_ADMIN, 1)]
  let m := put m R.QE_Q_CTRL 1
    [(F.QE_Q_CTRL_BOUND, 1), (F.QE_Q_CTRL_ADMIN, 1), (F.QE_Q_CTRL_PORT, 1), (F.QE_Q_CTRL_JOB, 1)]
  let m := put m R.QE_JOB_CTRL 0 [(F.QE_JOB_CTRL_VALID, 1)]
  let m := put m R.FAB_COL_MAP_W 0 [(F.FAB_COL_MAP_W_RETIRED, 32)]
  let m := put m R.FAB_COL_MAP_E 0 [(F.FAB_COL_MAP_E_RETIRED, 32)]
  put m R.QE_JOB_CTRL 1 [(F.QE_JOB_CTRL_VALID, 1), (F.QE_JOB_CTRL_OWNER_PORT, 1)]

/-- The device at power-on: every register at its reset value, memory with nothing listed, before power-good. -/
def State.reset : State where
  pending := []
  fuses := .factory
  fw := { slotA := [], slotB := [], activeB := false }
  regs := State.resetRegs
  tb := { tick := 0, locked := false, present := [false, false, false], presentAt := [0, 0, 0], phase := 0, slewPhase := 0,
          shadowA := 0, shadowB := 0, shadowS := 0, rateStart := 0 }
  queues := []
  turns := []
  txs := []
  nextHandle := 1
  memory := { mem := [], plain := [], poison := [] }
  remoteView := []
  frames := { basinOwner := [], plainOwner := [], pages := [], tlbs := [], mig := [], epoch := 0 }
  casts := { refs := [], nextRef := 0, active := [], standby := [], staging := [], hot := [], useCtr := 0, zeroing := [] }
  portA := .reset
  portB := .reset
  faults := { readMarks := [], lastRepeat := [], recovering := [], seenNotices := [], noticeCtr := 0, outLinks := [],
              promoting := false }
  cal := { records := [], queued := [], trims := [], checked := 0 }
  power := { good := false, imageOk := false, runningB := false, stopped := false, ceilW := none, ceilE := none,
             ceilWEnd := 0, ceilEEnd := 0, failedAt := 0 }
  mgmt := { i3cAddr := none, eids := [0, 0, 0], allowance := [128000000, 128000000, 128000000], refilled := [0, 0, 0],
            roles := List.replicate 3 { session := none, nonce := none }, lastSid := 0, roll := none }
  net := { links := [], ports := [], nextXid := 0, requests := [] }
  fabric := { runs := [], paused := [], started := [], beyond := [], fencedRows := [], failedRows := [], sparesSpent := [0, 0],
              boxes := [], elems := [], chans := [], cus := [], mus := [] }
  cores := []
  serve := { reqs := [], runs := [], rings := [], pages := [], images := [], promote := [], mirror := [], feed := [], history := [] }
  ringRuns := []
  ringSetups := []
  wsu := { groups := [], running := none, waiting := [], holder := 0, wsuWait := none, sampWait := none, lastGrant := 0,
           sampBinding := 64, sampSorts := 0 }
  coll := { lists := [], entries := [] }
  out := []
  freeCtr := 0

end Sys2Proof.Machine
end

