-- ==== Sys2Proof/Machine/Ops.lean ====
section
/-! DEFINITION. The operations every family shares: reading and writing registers, what the part carries, time, free
values, the local memory map, memory with its poison marks, frames, and what leaves the device. -/

namespace Sys2Proof.Machine

/-! ## Registers -/

/-- The stored value of the register at an offset: the value written, or the reset value (R16). -/
def State.reg (s : State) (off : Nat) : W64 := (mget s.regs off).getD (regReset off)

/-- The state with the register at an offset set. -/
def State.setReg (s : State) (off : Nat) (v : W64) : State := { s with regs := mset s.regs off v }

/-- The value of a register at its indexes. -/
def State.r (s : State) (x : Reg) (i : Nat := 0) (j : Nat := 0) : W64 := s.reg (x.at i j)

/-- The state with a register set. -/
def State.setR (s : State) (x : Reg) (v : W64) (i : Nat := 0) (j : Nat := 0) : State := s.setReg (x.at i j) v

/-- The value of a field. -/
def State.f (s : State) (x : Field) (i : Nat := 0) (j : Nat := 0) : Nat := bitsOf (s.r x.reg i j) x.lo x.width

/-- A one-bit field as a Boolean. -/
def State.fb (s : State) (x : Field) (i : Nat := 0) (j : Nat := 0) : Bool := s.f x i j != 0

/-- The state with a field set. -/
def State.setF (s : State) (x : Field) (v : Nat) (i : Nat := 0) (j : Nat := 0) : State :=
  s.setR x.reg (setBits (s.r x.reg i j) x.lo x.width v) i j

/-- The state with `n` added to a saturating counter. -/
def State.count (s : State) (x : Field) (i : Nat := 0) (j : Nat := 0) (n : Nat := 1) : State :=
  s.setF x (satTo x.width (s.f x i j + n)) i j

/-- The state with `n` added to a wrapping counter. -/
def State.countWrap (s : State) (x : Field) (i : Nat := 0) (j : Nat := 0) (n : Nat := 1) : State :=
  s.setF x (s.f x i j + n) i j

/-! ## Time and free values -/

/-- `GLB_TIME` (R28). -/
def State.now (s : State) : Nat := s.tb.tick.toNat

/-- The next free value. -/
def State.free (s : State) : Nat := Config.freeNat s.freeCtr

/-- The state with the free value drawn. -/
def State.drawn (s : State) : State := { s with freeCtr := s.freeCtr + 1 }

/-! ## The part (R3, R4) -/

/-- The part of the device. -/
def State.part (s : State) : Part := s.fuses.part

/-- `PART_CODE` (R10). -/
def Part.code : Part → Nat
  | .x12 => 1
  | .s12 => 2
  | .s08 => 3

/-- Whether the part carries Dale `d` (R4). -/
def Part.hasDale (p : Part) (d : Nat) : Bool :=
  match p with
  | .s08 => decide (d < 12) || (decide (16 ≤ d) && decide (d < 28))
  | _ => decide (d < 32)

/-- HBM3 stacks (R3). -/
def Part.stacks : Part → Nat
  | .s08 => 8
  | _ => 12

/-- Basin frames (R90). -/
def Part.basinFrames : Part → Nat
  | .s08 => 524288
  | _ => 786432

/-- Whether the part carries link `l` of R420: active links, spares, Plain links (R3, R4). -/
def Part.hasLink (p : Part) (l : Nat) : Bool :=
  match p with
  | .x12 => decide (l < 22)
  | .s12 => decide (l < 8) || l == 16 || (decide (18 ≤ l) && decide (l < 22))
  | .s08 => decide (l < 8) || l == 16 || l == 18 || l == 19

/-- Whether the Meander engine is present (R3). -/
def Part.hasMeander : Part → Bool
  | .x12 => true
  | _ => false

/-- Whether the Watershed unit is present (R3). -/
def Part.hasWatershed : Part → Bool
  | .s08 => false
  | _ => true

/-- `CAP_UNITS` (R10). -/
def Part.capUnits (p : Part) : W64 :=
  BitVec.ofNat 64 ((if p.hasMeander then 1 else 0) + (if p.hasWatershed then 2 else 0) + 4 + 8 + 256 * p.code)

/-- `CAP_COUNTS` (R11). -/
def Part.capCounts (p : Part) : W64 :=
  let c : Nat × Nat × Nat × Nat × Nat × Nat :=
    match p with
    | .x12 => (32, 1024, 12, 16, 2, 4)
    | .s12 => (32, 1024, 12, 8, 1, 4)
    | .s08 => (24, 768, 8, 8, 1, 2)
  let v := setBits 0 0 8 c.1
  let v := setBits v 8 16 c.2.1
  let v := setBits v 24 16 c.2.1
  let v := setBits v 40 4 c.2.2.1
  let v := setBits v 44 5 c.2.2.2.1
  let v := setBits v 49 2 c.2.2.2.2.1
  setBits v 51 3 c.2.2.2.2.2

/-- Whether Dale `d` is usable: the part carries it and it has not failed (R6, R531). -/
def State.hasDale (s : State) (d : Nat) : Bool := s.part.hasDale d && !(s.f F.FLT_FAILED_DALES).testBit d

/-- The die of Dale `d`: 0 West, 1 East (R4). -/
def dieOfDale (d : Nat) : Nat := if d < 16 then 0 else 1

/-- Whether Armature core `c` is usable (R536). -/
def State.hasCore (s : State) (c : Nat) : Bool := decide (c < 64) && !(s.f F.FLT_FAILED_CORES_CORES).testBit c

/-- Whether the unit numbered `n = 16 × column + k` lies in a usable Dale (R89). -/
def State.hasUnit (s : State) (n : Nat) : Bool := s.hasDale (n / 32)

/-! ## Whether work may start -/

/-- Whether the device runs: it has reported ready (R564), and no power-fail sequence (R511), trip (R587) or `DEVICE` fault
(R537) has stopped it. -/
def State.running (s : State) : Bool :=
  s.f F.SEC_BOOT_STAT_MODE == 1 && !s.fb F.GLB_BOARD_PWRFAIL && !s.fb F.PWR_STAT_TRIPPED && !s.power.stopped

/-- Whether port `p` is lost (R501). -/
def State.portLost (s : State) (p : Nat) : Bool := s.fb F.GLB_PORT_STAT_LOST p

/-- What a port holds beside its registers. -/
def State.port (s : State) (p : Nat) : PortSt := if p = 0 then s.portA else s.portB

/-- The state with a port replaced. -/
def State.setPort (s : State) (p : Nat) (x : PortSt) : State :=
  if p = 0 then { s with portA := x } else { s with portB := x }

/-! ## What leaves the device -/

/-- The state with something sent. -/
def State.emit (s : State) (o : Output) : State := { s with out := s.out ++ [o] }

/-- Whether a write of `len` bytes at a host address lies inside a host-granted window of port `p` (R498). -/
def State.inWindow (s : State) (p : Nat) (addr len : Nat) : Bool :=
  (List.range 16).any fun w =>
    s.fb F.GLB_HWIN_SIZE_VALID p w &&
    decide (s.f F.GLB_HWIN_BASE_ADDR p w * 4096 ≤ addr) &&
    decide (addr + len ≤ s.f F.GLB_HWIN_BASE_ADDR p w * 4096 + s.f F.GLB_HWIN_SIZE_PAGES p w * 4096)

/-- A write into the memory of the host on port `p`: discarded and counted in `DROPPED` while the port is lost or Bus Master
Enable is clear (R501), not issued and counted in `HWIN_DENY` outside every window (R498). -/
def State.hostWrite (s : State) (p : Nat) (addr : Nat) (bs : List Byte) : State :=
  if s.portLost p || !(s.port p).busMaster then s.count F.GLB_PORT_STAT_DROPPED p
  else if s.inWindow p addr bs.length then s.emit (.hostWrite (Fin.ofNat 2 p) (BitVec.ofNat 64 addr) bs)
  else s.count F.GLB_PORT_STAT_HWIN_DENY p

/-- Whether the MSI-X entry `v` of a port is masked: bit 0 of its vector control word. PRESUMED: entries are masked at
reset, as PCIe gives them. -/
def PortSt.masked (x : PortSt) (v : Nat) : Bool :=
  x.functionMask || (mgetD x.table (2 * v + 1) 0x100000000#64).toNat.testBit 32

/-- A vector raised on port `p` (R500): discarded for a lost port, discarded and counted while Bus Master Enable is clear,
kept pending while masked, and sent otherwise. -/
def State.raise (s : State) (p v : Nat) : State :=
  if s.portLost p || !(s.port p).busMaster then s.count F.GLB_PORT_STAT_DROPPED p
  else if (s.port p).masked v then
    s.setPort p { s.port p with pendingBits := sinsert (s.port p).pendingBits v }
  else s.emit (.vector (Fin.ofNat 2 p) v)

/-! ## The local map (R88 to R91) -/

/-- Whether two runs of numbers, each given by its first number and its length, share one. -/
def runsMeet (a la b lb : Nat) : Bool := decide (0 < la) && decide (0 < lb) && decide (a < b + lb) && decide (b < a + la)

/-- First Basin offset. -/
def basinBase : Nat := 0x020000000000
/-- First Plain offset. -/
def plainBase : Nat := 0x100000000000
/-- End of the Plain region of the full map. -/
def plainTop : Nat := 0x200000000000
/-- First offset of the control space. -/
def controlBase : Nat := 0x4000000000000
/-- Size of a frame, 2 MiB (R90). -/
def frameBytes : Nat := 0x200000

/-- The regions of the local space (R88). `none` is an offset in no region. -/
inductive Region where
  | terrace | basin | plain | control | none
  deriving DecidableEq, Repr

/-- The region of a local offset (R88), on the full map. -/
def regionOf (a : Nat) : Region :=
  if a < 0x40000000 then .terrace
  else if basinBase ≤ a ∧ a < 0x038000000000 then .basin
  else if plainBase ≤ a ∧ a < plainTop then .plain
  else if controlBase ≤ a ∧ a < 0x8000000000000 then .control
  else .none

/-- Whether the part, or the attached board memory, provides a local offset (R8, R88, R89). -/
def State.provides (s : State) (a : Nat) : Bool :=
  match regionOf a with
  | .terrace => s.hasUnit (a / 0x100000)
  | .basin => decide (a < basinBase + s.part.basinFrames * frameBytes)
  | .plain => decide (a < plainBase + s.f F.PLN_CAP_CAP_GIB * 0x40000000)
  | .control => true
  | .none => false

/-- Whether some part of a range of local offsets lies in a region but in a part of it that is not provided (R8, R88): an absent Dale's
Terrace, the Basin beyond the part's stacks, or the Plain beyond the attached memory. -/
def State.rangeAbsent (s : State) (a len : Nat) : Bool :=
  let basinEnd := basinBase + s.part.basinFrames * frameBytes
  let plainEnd := plainBase + s.f F.PLN_CAP_CAP_GIB * 0x40000000
  (List.range 32).any (fun d => !s.hasDale d && runsMeet a len (0x2000000 * d) 0x2000000) ||
  runsMeet a len basinEnd (0x038000000000 - basinEnd) || runsMeet a len plainEnd (plainTop - plainEnd)

/-- The Basin frame of a Basin offset (R90). -/
def frameOf (a : Nat) : Nat := (a - basinBase) / frameBytes

/-- The stack on which a Basin offset lies (R90). -/
def State.stackOf (s : State) (a : Nat) : Nat := frameOf a % s.part.stacks

/-- The pseudo-channel of its stack on which a Basin offset lies: its 256-byte block modulo 32 (R90). -/
def pseudoOf (a : Nat) : Nat := (a - basinBase) % frameBytes / 256 % 32

/-- The HBM channel, numbered through the stacks with 16 to each, on which a Basin offset lies (R90). -/
def State.channelOf (s : State) (a : Nat) : Nat := 16 * s.stackOf a + pseudoOf a / 2

/-- The HBM channels that a Basin range reaches. -/
def State.rangeOnChannel (s : State) (a len k : Nat) : Bool :=
  decide (0 < len) && (List.range ((a + len - 1) / 256 - a / 256 + 1)).any (fun i => s.channelOf ((a / 256 + i) * 256) == k)

/-- The local offset of Basin frame `f`. -/
def frameAddr (f : Nat) : Nat := basinBase + f * frameBytes

/-- The first frame of the range the firmware reserves (R91). -/
def State.reservedFrom (s : State) : Nat := s.part.basinFrames - s.f F.TR_BASIN_RSV_RSV_MIB / 2

/-- Whether Basin frame `f` lies in the reserved range (R91). -/
def State.reservedFrame (s : State) (f : Nat) : Bool := decide (s.reservedFrom ≤ f)

/-! ## Memory (R599, R524) -/

/-- What an unlisted byte of the Terrace or the Basin reads as: zero (R599). -/
def memDefault : Byte := 0#8

/-- The canonical form of a byte memory whose unlisted bytes read as zero: addresses strictly rise and no listed byte is
the default. -/
def memWf (m : SMap Byte) : Bool := msorted m && m.all (fun x => x.2 != memDefault)

/-- One byte of a canonical memory. -/
def memGet (m : SMap Byte) (a : Nat) : Byte := mgetD m a memDefault

/-- A byte written, keeping the canonical form. -/
def memSet (m : SMap Byte) (a : Nat) (b : Byte) : SMap Byte := if b = memDefault then merase m a else mset m a b

/-- A run of bytes written. -/
def memWrite : SMap Byte → Nat → List Byte → SMap Byte
  | m, _, [] => m
  | m, a, b :: bs => memWrite (memSet m a b) (a + 1) bs

/-- One byte at a local offset. -/
def State.byte (s : State) (a : Nat) : Byte :=
  if regionOf a = .plain then mgetD s.memory.plain a (Config.plainByte a) else memGet s.memory.mem a

/-- `n` bytes from a local offset. -/
def State.bytes (s : State) (a n : Nat) : List Byte := (List.range n).map (fun i => s.byte (a + i))

/-- The little-endian word at a local offset. -/
def State.word (s : State) (a : Nat) : W64 := leWord (s.bytes a 8)

/-- The 64-byte units that `n` bytes from `a` touch. -/
def unitsOf (a n : Nat) : List Nat := if n = 0 then [] else (List.range ((a + n - 1) / 64 - a / 64 + 1)).map (a / 64 + ·)

/-- Whether any unit of a range carries a poison mark (R524). -/
def State.poisoned (s : State) (a n : Nat) : Bool := (unitsOf a n).any (fun u => s.memory.poison.contains u)

/-- The marks after a store of `n` bytes at `a` (R524): a store of marked data marks every unit it touches; a store of
unmarked data clears the mark of each unit it writes whole and leaves the others. -/
def poisonAfter (ps : List Nat) (a n : Nat) (mark : Bool) : List Nat :=
  (unitsOf a n).foldl
    (fun l u => if mark then sinsert l u else if a ≤ 64 * u ∧ 64 * u + 64 ≤ a + n then sremove l u else l) ps

/-- The bytes of a Plain range as the device holds them. -/
def plainWrite : SMap Byte → Nat → List Byte → SMap Byte
  | m, _, [] => m
  | m, a, b :: bs => plainWrite (mset m a b) (a + 1) bs

/-- A store of bytes at a local offset, with or without a poison mark (R524). -/
def State.store (s : State) (a : Nat) (bs : List Byte) (mark : Bool := false) : State :=
  let m := s.memory
  let ps := poisonAfter m.poison a bs.length mark
  if regionOf a = .plain then { s with memory := { m with plain := plainWrite m.plain a bs, poison := ps } }
  else { s with memory := { m with mem := memWrite m.mem a bs, poison := ps } }

/-- A word stored at a local offset. -/
def State.storeWord (s : State) (a : Nat) (w : W64) : State := s.store a (leBytes 8 w.toNat)

/-- A range of the Terrace or Basin zeroed, poison marks included (R599, R116, R301). -/
def State.zero (s : State) (a n : Nat) : State :=
  let m := s.memory
  { s with memory := { m with
      mem := m.mem.filter (fun x => !(decide (a ≤ x.1) && decide (x.1 < a + n))),
      poison := m.poison.filter (fun u => !(decide (a ≤ 64 * u) && decide (64 * u + 64 ≤ a + n))) } }

/-! ## Jobs -/

/-- Whether job `n` is valid (R63). -/
def State.jobValid (s : State) (n : Nat) : Bool := s.fb F.QE_JOB_CTRL_VALID n

/-- Whether job `n` owns Dale `d`. -/
def State.ownsDale (s : State) (n d : Nat) : Bool := (s.f F.QE_JOB_DALES_DALES n).testBit d

/-- Whether job `n` owns Armature core `c`. -/
def State.ownsCore (s : State) (n c : Nat) : Bool := (s.f F.QE_JOB_CORES_CORES n).testBit c

/-- The job that owns Dale `d`. -/
def State.daleOwner (s : State) (d : Nat) : Option Nat :=
  (List.range 256).find? (fun n => s.jobValid n && s.ownsDale n d)

/-- Whether fence `f` lies in the range of job `n` (R54). -/
def State.ownsFence (s : State) (n f : Nat) : Bool :=
  decide (s.f F.QE_JOB_FENCE_BASE n ≤ f) && decide (f < s.f F.QE_JOB_FENCE_BASE n + s.f F.QE_JOB_FENCE_COUNT n)

/-- The job of queue `q`. -/
def State.queueJob (s : State) (q : Nat) : Nat := s.f F.QE_Q_CTRL_JOB q

/-- Whether Basin frame `f` lies in a pool of job `n` (R122, R298). -/
def State.poolFrame (s : State) (n f : Nat) : Bool :=
  (decide (s.f F.TR_MIG_POOL_FIRST n ≤ f) && decide (f < s.f F.TR_MIG_POOL_FIRST n + s.f F.TR_MIG_POOL_FRAMES n)) ||
  (decide (s.f F.SRV_KV_POOL_FIRST n ≤ f) && decide (f < s.f F.SRV_KV_POOL_FIRST n + s.f F.SRV_KV_POOL_FRAMES n))

/-- Whether Basin frame `f` is owned by job `n` (R96, R122, R298). -/
def State.ownsFrame (s : State) (n f : Nat) : Bool := mget s.frames.basinOwner f == some n || s.poolFrame n f

/-- Whether a range lies in the Basin of the part. -/
def State.inBasin (s : State) (a len : Nat) : Bool :=
  decide (basinBase ≤ a) && decide (0 < len) && decide (a + len ≤ basinBase + s.part.basinFrames * frameBytes)

/-- Whether every frame that a Basin range touches satisfies `p`. -/
def rangeFrames (p : Nat → Bool) (a len : Nat) : Bool :=
  (List.range (frameOf (a + len - 1) - frameOf a + 1)).all fun i => p (frameOf a + i)

/-- Whether a Basin range lies wholly in frames owned by job `n`, or, where `rsv`, in the reserved range (R75, R76). -/
def State.basinRangeOk (s : State) (n a len : Nat) (rsv : Bool) : Bool :=
  s.inBasin a len && (rangeFrames (s.ownsFrame n) a len || (rsv && rangeFrames s.reservedFrame a len))

/-! ## Queues -/

/-- What queue `q` holds beside its registers. -/
def State.queue (s : State) (q : Nat) : QState := mgetD s.queues q .fresh

/-- The state with what queue `q` holds replaced. -/
def State.setQueue (s : State) (q : Nat) (x : QState) : State := { s with queues := mset s.queues q x }

/-- Whether queue `q` is bound (R40). -/
def State.bound (s : State) (q : Nat) : Bool := s.fb F.QE_Q_CTRL_BOUND q

/-- Whether queue `q` is of class LC (R74). -/
def State.isLc (s : State) (q : Nat) : Bool := s.f F.QE_Q_CTRL_CLASS q == 0

/-- The die of queue `q`: 0 West, 1 East (R40). -/
def dieOfQueue (q : Nat) : Nat := if q < 2048 then 0 else 1

end Sys2Proof.Machine
end

