-- ==== Sys2Proof/Machine/Shake.lean ====
section
/-! DEFINITION. SHAKE256 and KMAC256, which the manual names for cast digests (R107), measurements (R567) and session
codes (R569). PRESUMED: as FIPS 202 and SP 800-185 define them. -/

namespace Sys2Proof.Machine

/-- The permutation's 1600-bit state as one vector: lane (x, y) is its bits from 64 (x + 5 y). -/
abbrev Sponge := BitVec 1600

/-- The lane at column `x` and row `y`, both taken modulo 5. -/
def Sponge.lane (a : Sponge) (x y : Nat) : W64 := a.extractLsb' (64 * (x % 5 + 5 * (y % 5))) 64

/-- The state whose lanes are the values of `f`. -/
def Sponge.build (f : Nat → Nat → W64) : Sponge :=
  (List.range 5).foldl (fun acc y =>
    (List.range 5).foldl (fun acc x => acc ||| (f x y).setWidth 1600 <<< (64 * (x + 5 * y))) acc) 0#1600

/-- The parity of column `x`. -/
def Sponge.parity (a : Sponge) (x : Nat) : W64 := (List.range 5).foldl (fun acc y => acc ^^^ a.lane x y) 0#64

/-- The rotation offsets in the order in which the walk (x, y), (y, 2 x + 3 y), … from (1, 0) meets the lanes. -/
def rotationWalk : Nat → Nat → Nat → Nat → List (Nat × Nat)
  | 0, _, _, _ => []
  | n + 1, t, x, y => (x + 5 * y, (t + 1) * (t + 2) / 2 % 64) :: rotationWalk n (t + 1) y ((2 * x + 3 * y) % 5)

/-- The rotation of lane (x, y); lane (0, 0), which the walk never meets, is not rotated. -/
def rotationAt (x y : Nat) : Nat := ((rotationWalk 24 0 1 0).lookup (x + 5 * y)).getD 0

/-- One step of the shift register with the polynomial x^8 + x^6 + x^5 + x^4 + 1 that makes the round constants. -/
def constStep (r : Byte) : Byte := if r.getLsbD 7 then r <<< 1 ^^^ 0x71#8 else r <<< 1

/-- The seven register bits of one round, each at its place 2^j − 1, and the register after them. -/
def constWord (r : Byte) : W64 × Byte :=
  (List.range 7).foldl (fun z j => ((if z.2.getLsbD 0 then z.1 ||| 1#64 <<< (2 ^ j - 1) else z.1), constStep z.2)) (0#64, r)

/-- The next state of a round and its register: parities of the neighbouring columns added, lanes rotated and moved,
rows combined, the round's constant added to lane (0, 0). -/
def Sponge.round (z : Sponge × Byte) : Sponge × Byte :=
  let mixed := Sponge.build (fun x y =>
    (z.1.lane x y ^^^ z.1.parity (x + 4) ^^^ (z.1.parity (x + 1)).rotateLeft 1).rotateLeft (rotationAt x y))
  let moved := Sponge.build (fun x y => mixed.lane (x + 3 * y) x)
  let k := constWord z.2
  (Sponge.build (fun x y => moved.lane x y ^^^ (moved.lane (x + 2) y &&& ~~~ moved.lane (x + 1) y)) ^^^ k.1.setWidth 1600, k.2)

/-- `n` rounds. -/
def Sponge.rounds : Nat → Sponge × Byte → Sponge
  | 0, z => z.1
  | n + 1, z => Sponge.rounds n (Sponge.round z)

/-- The whole permutation of 24 rounds. -/
def Sponge.permute (a : Sponge) : Sponge := Sponge.rounds 24 (a, 1#8)

/-- The rate of both functions in bytes. -/
def shakeRate : Nat := 136

/-- A message with a domain suffix, filled with zeros to whole blocks, the top bit of its last byte inverted. -/
def shakePad (suffix : Byte) (m : List Byte) : List Byte :=
  let p := padTo (roundUp (m.length + 1) shakeRate) (m ++ [suffix])
  p.dropLast ++ [nth p (p.length - 1) 0#8 ^^^ 0x80#8]

/-- The state after whole blocks have been absorbed. -/
def Sponge.take (p : List Byte) : Sponge :=
  (chunksOf shakeRate p.length p).foldl (fun a blk => (a ^^^ BitVec.ofNat 1600 (leNat blk)).permute) 0#1600

/-- `n` blocks of output. -/
def Sponge.give : Nat → Sponge → List Byte
  | 0, _ => []
  | n + 1, a => leBytes shakeRate a.toNat ++ Sponge.give n a.permute

/-- The sponge: a message with a domain suffix, `n` bytes of output. -/
def sponge (suffix : Byte) (m : List Byte) (n : Nat) : List Byte :=
  (Sponge.give (ceilDiv n shakeRate) (Sponge.take (shakePad suffix m))).take n

/-- SHAKE256. -/
def shake256 (m : List Byte) (n : Nat) : List Byte := sponge 0x1F#8 m n

/-- The big-endian bytes of a number, at least one. -/
def beBytes (v : Nat) : List Byte :=
  let n := max 1 (ceilDiv (if v = 0 then 0 else Nat.log2 v + 1) 8)
  (leBytes n v).reverse

/-- `left_encode` of SP 800-185. -/
def leftEncode (v : Nat) : List Byte := BitVec.ofNat 8 (beBytes v).length :: beBytes v

/-- `right_encode` of SP 800-185. -/
def rightEncode (v : Nat) : List Byte := beBytes v ++ [BitVec.ofNat 8 (beBytes v).length]

/-- `encode_string` of SP 800-185. -/
def encodeString (s : List Byte) : List Byte := leftEncode (8 * s.length) ++ s

/-- `bytepad` of SP 800-185 to the rate. -/
def bytepad (s : List Byte) : List Byte :=
  let x := leftEncode shakeRate ++ s
  padTo (roundUp x.length shakeRate) x

/-- KMAC256 with a key, a message, a customisation string and `n` bytes of output. -/
def kmac256 (key m custom : List Byte) (n : Nat) : List Byte :=
  let name : List Byte := [0x4B#8, 0x4D#8, 0x41#8, 0x43#8]
  sponge 0x04#8 (bytepad (encodeString name ++ encodeString custom) ++ bytepad (encodeString key) ++ m ++
    rightEncode (8 * n)) n

end Sys2Proof.Machine
end

