-- ==== Sys2Proof/Machine/Mctp.lean ====
section
/-! DEFINITION. Management messages: the body of R506, the `MAC` of R569, and answers in a session. -/

namespace Sys2Proof.Machine

/-- The bytes of a string of characters. -/
def ascii (cs : List Char) : List Byte := cs.map (fun c => BitVec.ofNat 8 c.toNat)

/-- The body of a message up to its `MAC` (R506). -/
def mgmtBody (op flags tag sid mseq status : Nat) (payload : List Byte) : List Byte :=
  [0x7E#8] ++ leBytes 2 Config.vendorId.toNat ++ [0x01#8, BitVec.ofNat 8 op, BitVec.ofNat 8 flags] ++ leBytes 2 tag ++
  leBytes 4 sid ++ leBytes 4 mseq ++ [BitVec.ofNat 8 status, 0#8, 0#8, 0#8] ++ payload

/-- The `MAC` of a message of a session under its key (R569). -/
def sessionMac (key body : List Byte) : List Byte := kmac256 key body (ascii ['F', 'Z', '2', ' ', 'M', 'S', 'G']) 32

/-- A message sent on a transport, with the `MAC` of a session key or with zeros outside a session. -/
def State.mgmtSend (s : State) (transport : Nat) (key : Option (List Byte)) (body : List Byte) : State :=
  s.emit (.mgmt transport (body ++ match key with
    | some k => sessionMac k body
    | none => List.replicate 32 0#8))

/-- What the device holds for a role. -/
def State.role (s : State) (r : Nat) : RoleSt := nth s.mgmt.roles r { session := none, nonce := none }

/-- What the device holds for a role replaced. -/
def State.setRole (s : State) (r : Nat) (x : RoleSt) : State :=
  { s with mgmt := { s.mgmt with roles := setNth s.mgmt.roles r x } }

/-- An answer in the open session of a role (R506, R569); none where no session is open. -/
def State.sessionAnswer (s : State) (r tag mseq op status : Nat) (payload : List Byte) : State :=
  match (s.role r).session with
  | none => s
  | some y => s.mgmtSend y.transport (some y.key) (mgmtBody op 1 tag y.sid mseq status payload)

end Sys2Proof.Machine
end

