-- ==== Sys2Proof/Machine/Flags.lean ====
section
/-! DEFINITION. The flags of the device: completion statuses, fences and their error marks, completion records and their
interrupts, and the fault log with its counters and escalation. -/

namespace Sys2Proof.Machine

/-! ## Statuses (R62) -/

/-- The completion statuses of R62. -/
inductive Status where
  | ok | absent | conflict | txAborted | fenced | poisoned | nanTrap | stalled | memberLost | collOrder | laggard
  | ringStall | denied | timeout | badCommand | cancelled | cancelLate | degraded | noSpace
  deriving DecidableEq, Repr

/-- The code of a status (R62). -/
def Status.code : Status → Nat
  | .ok => 0x00 | .absent => 0x01 | .conflict => 0x02 | .txAborted => 0x03 | .fenced => 0x04 | .poisoned => 0x05
  | .nanTrap => 0x06 | .stalled => 0x07 | .memberLost => 0x08 | .collOrder => 0x09 | .laggard => 0x0A
  | .ringStall => 0x0B | .denied => 0x0C | .timeout => 0x0D | .badCommand => 0x0E | .cancelled => 0x0F
  | .cancelLate => 0x10 | .degraded => 0x11 | .noSpace => 0x12

/-- The status with a code. -/
def Status.ofCode : Nat → Status
  | 0x01 => .absent | 0x02 => .conflict | 0x03 => .txAborted | 0x04 => .fenced | 0x05 => .poisoned | 0x06 => .nanTrap
  | 0x07 => .stalled | 0x08 => .memberLost | 0x09 => .collOrder | 0x0A => .laggard | 0x0B => .ringStall | 0x0C => .denied
  | 0x0D => .timeout | 0x0E => .badCommand | 0x0F => .cancelled | 0x10 => .cancelLate | 0x11 => .degraded | 0x12 => .noSpace
  | _ => .ok

/-- The statuses that count as success for a signal (R55). -/
def Status.success : Status → Bool
  | .ok | .cancelLate | .degraded => true
  | _ => false

/-! ## Fences (R54, R55) -/

/-- The largest fence value. -/
def fenceMax : Nat := 2 ^ 63 - 1

/-- The value of fence `f`. -/
def State.fenceValue (s : State) (f : Nat) : Nat := s.f F.QE_FENCE_VALUE f

/-- The error mark of fence `f`. -/
def State.fenceErr (s : State) (f : Nat) : Bool := s.fb F.QE_FENCE_ERR f

/-- The fence value a signal leaves (R55): with `add` the saturating sum, otherwise the larger value, a signal of 2^63 or
more acting as 2^63 − 1. -/
def signalValue (old value : Nat) (add : Bool) : Nat :=
  if add then min (old + value) fenceMax else max old (min value fenceMax)

/-- One signal on behalf of job `n` (R54, R55): not applied outside the job's fence range; `clear` clears the mark in the
same update, otherwise `err` sets it. -/
def State.signal (s : State) (n f value : Nat) (add err : Bool) (clear : Bool := false) : State :=
  if s.ownsFence n f then
    let v := signalValue (s.fenceValue f) value add
    let e := if clear then false else s.fenceErr f || err
    s.setR R.QE_FENCE (setBits (BitVec.ofNat 64 v) 63 1 (if e then 1 else 0)) f
  else s

/-! ## Record fields used at completion (R46) -/

/-- `OPCODE`. -/
def Rec.opcode (r : Rec) : Nat := bitsOf r.w0 0 8
/-- `WAIT`. -/
def Rec.wait (r : Rec) : Bool := bitOf r.w0 8
/-- `SIGNAL`. -/
def Rec.signal (r : Rec) : Bool := bitOf r.w0 9
/-- `SIG_ADD`. -/
def Rec.sigAdd (r : Rec) : Bool := bitOf r.w0 10
/-- `QUIET`. -/
def Rec.quiet (r : Rec) : Bool := bitOf r.w0 11
/-- `IRQ`. -/
def Rec.irq (r : Rec) : Bool := bitOf r.w0 12
/-- `BARRIER`. -/
def Rec.barrier (r : Rec) : Bool := bitOf r.w0 13
/-- `TX`. -/
def Rec.tx (r : Rec) : Nat := bitsOf r.w0 16 16
/-- `WAIT_FENCE`. -/
def Rec.waitFence (r : Rec) : Nat := bitsOf r.w0 32 16
/-- `SIGNAL_FENCE`. -/
def Rec.signalFence (r : Rec) : Nat := bitsOf r.w0 48 16

/-! ## Completion records (R58 to R61) -/

/-- Entries of the completion ring of queue `q`. -/
def State.cqSize (s : State) (q : Nat) : Nat := 2 ^ s.f F.QE_Q_CTRL_LOG2_CQ q

/-- Whether a record in flight started before the last loss of its queue's port (R501). -/
def State.orphan (s : State) (q seq : Nat) : Bool := seq / 2 ^ 48 != (s.queue q).epoch

/-- Completion entries of queue `q` that are neither unconsumed nor reserved by a record in flight (R60). -/
def State.cqFree (s : State) (q : Nat) : Nat := s.cqSize q - (s.queue q).cqUsed - ((s.queue q).flights.filter (fun x => !s.orphan q x.seq)).length

/-- A write to the completion ring of queue `q` at an offset within it: to the host of the bound port, or to the Basin for a
local queue (R59). -/
def State.cqWrite (s : State) (q off : Nat) (bs : List Byte) : State :=
  let a := s.f F.QE_Q_CQ_BASE q + off
  let p := s.f F.QE_Q_CTRL_PORT q
  if p < 2 then s.hostWrite p a bs else s.store a bs

/-- The vector of queue `q` raised (R61, R500): queues that are local raise none. -/
def State.queueRaise (s : State) (q : Nat) : State :=
  let s := s.setQueue q { s.queue q with unraised := 0 }
  if s.f F.QE_Q_CTRL_PORT q < 2 then s.raise (s.f F.QE_Q_CTRL_PORT q) (s.f F.QE_Q_IRQ_VECTOR q) else s

/-- The moderation of R61 after a completion record has been written: every record written since the last raise counts, and the queue
raises its vector only while `EN` is set. -/
def State.moderate (s : State) (q : Nat) (now : Bool) : State :=
  let x := s.queue q
  let s := s.setQueue q { x with unraised := x.unraised + 1, oldest := if x.unraised = 0 then s.now else x.oldest }
  if !s.fb F.QE_Q_IRQ_EN q then s
  else if now || decide (max 1 (s.f F.QE_Q_IRQ_COUNT q) ≤ (s.queue q).unraised) || s.f F.QE_Q_IRQ_DELAY q == 0 then
    s.queueRaise q
  else s

/-- A completion record written at the next entry of queue `q` (R58, R59): words 0 to 2 in one write, `CSEQ` in a second. -/
def State.writeCompletion (s : State) (q seq opcode : Nat) (st : Status) (result detail : W64) (now : Bool) : State :=
  let x := s.queue q
  let base := 32 * (x.cqTail % s.cqSize q)
  let w0 := setBits (setBits (BitVec.ofNat 64 (seq % 2 ^ 48)) 48 8 st.code) 56 8 opcode
  let s := s.cqWrite q base (wordsBytes [w0, result, detail])
  let s := s.cqWrite q (base + 24) (leBytes 8 (x.cseq + 1))
  let s := s.setQueue q { s.queue q with
    cseq := x.cseq + 1, cqTail := (x.cqTail + 1) % s.cqSize q, cqUsed := x.cqUsed + 1 }
  s.moderate q (now || st != .ok)

/-- The signal a record gives at its completion (R55). -/
def State.recordSignal (s : State) (q : Nat) (r : Rec) (st : Status) : State :=
  if r.signal then s.signal (s.queueJob q) r.signalFence r.w2.toNat r.sigAdd (!st.success) else s

/-- A record completes (R55, R58 to R61): its signal, then its completion record unless it is `QUIET` and `OK`. The completion of a
record that was in flight when its port was lost is discarded and counted, after a return as before it (R501). -/
def State.finish (s : State) (q seq : Nat) (r : Rec) (st : Status) (result : W64 := 0) (detail : W64 := 0) : State :=
  let s := s.recordSignal q r st
  if r.quiet && st == .ok then s
  else if s.orphan q seq then s.count F.GLB_PORT_STAT_DROPPED (s.f F.QE_Q_CTRL_PORT q)
  else s.writeCompletion q seq r.opcode st result detail r.irq

/-- A record that never started completes `CANCELLED` (R60): its completion is written only into an entry that is free
beyond the reservations of records in flight, and counts in `CANCEL_UNWRITTEN` otherwise. -/
def State.cancelUnstarted (s : State) (q seq : Nat) (r : Rec) : State :=
  let s := s.recordSignal q r .cancelled
  if 0 < s.cqFree q then s.writeCompletion q seq r.opcode .cancelled 0 0 r.irq
  else s.count F.QE_Q_STAT_CANCEL_UNWRITTEN q

/-- The record in flight of queue `q` with a sequence number. -/
def State.flight (s : State) (q seq : Nat) : Option Flight := (s.queue q).flights.find? (fun x => x.seq == seq)

/-- The record in flight of queue `q` with a `SEQ` and an opcode in a range. -/
def State.flightOf (s : State) (q seq lo hi : Nat) : Option Flight :=
  (s.queue q).flights.find? (fun x => x.seq % 2 ^ 48 == seq && decide (lo ≤ x.cmd.opcode) && decide (x.cmd.opcode ≤ hi))

/-- The record in flight replaced. -/
def State.setFlight (s : State) (q : Nat) (x : Flight) : State :=
  s.setQueue q { s.queue q with flights := (s.queue q).flights.map (fun y => if y.seq = x.seq then x else y) }

/-- A record in flight completes: it leaves the flights, and `OK` becomes `DEGRADED` where a domain it used began a recovery
during its run (R529). -/
def State.finishFlight (s : State) (q seq : Nat) (st : Status) (result : W64 := 0) (detail : W64 := 0) : State :=
  match s.flight q seq with
  | none => s
  | some x =>
    let s := s.setQueue q { s.queue q with flights := (s.queue q).flights.filter (fun y => y.seq != seq) }
    s.finish q seq x.cmd (if st = .ok ∧ x.degraded then .degraded else st) result detail

/-! ## Transactions: rolling back (R70) -/

/-- The transaction with a handle. -/
def State.tx (s : State) (h : Nat) : Option Tx := s.txs.find? (fun t => t.handle == h)

/-- A transaction rolled back (R70): every staged value is discarded and the scope is free. A pending `TX_COMMIT` completes
with the given status; that of a session is answered with it (R507). -/
def State.rollback (s : State) (h : Nat) (st : Status) (detail : W64 := 0) : State :=
  match s.tx h with
  | none => s
  | some t =>
    let s := { s with txs := s.txs.filter (fun u => u.handle != h) }
    if t.committing then
      match t.opener with
      | .queue q => s.finishFlight q t.commitSeq st 0 detail
      | .session r => s.sessionAnswer r t.tag.toNat t.commitSeq 0x14 st.code []
    else s

/-! ## Faults (R520 to R527) -/

/-- The code of a fault domain (R526). -/
def Domain.code : Domain → Nat
  | .site => 0 | .dale => 1 | .hbmChannel => 2 | .hbmStack => 3 | .link => 4 | .bundle => 5 | .core => 6 | .die => 7
  | .device => 8 | .job => 9 | .chip => 10

/-- The class of a fault code (R521). -/
def faultClass (code : Nat) : Nat := code / 0x1000

/-- The physical column of a site index: bits [11:6] of `CU_ID` (R193, R526). -/
def siteCol (i : Nat) : Nat := i / 64 % 64
/-- The die of a site index: bit 0 of `CU_ID`. -/
def siteDie (i : Nat) : Nat := i % 2
/-- The physical row of a site index: bits [5:1] of `CU_ID`. -/
def siteRow (i : Nat) : Nat := i / 2 % 32

/-- The number of logical columns of a die: 32, or 24 on FZ2-S08 (R4). It is also the physical number of the spare column
(R134). -/
def Part.dieCols : Part → Nat
  | .s08 => 24
  | _ => 32

/-- The retired physical column of a die; the part's `dieCols` or more for none (R134). -/
def State.retired (s : State) (die : Nat) : Nat :=
  if die = 0 then s.f F.FAB_COL_MAP_W_RETIRED else s.f F.FAB_COL_MAP_E_RETIRED

/-- The logical column, within its die, of physical column `p`: columns east of a retired one shift by one; the retired
column and an unused spare carry none (R130 to R134). -/
def State.logicalCol (s : State) (die p : Nat) : Option Nat :=
  let r := s.retired die
  if p < r ∧ p < s.part.dieCols then some p
  else if r < p ∧ p ≤ s.part.dieCols then some (p - 1)
  else none

/-- The physical column of a logical column within its die (R131). -/
def State.physCol (s : State) (die c : Nat) : Nat := if c < s.retired die then c else c + 1

/-- The register window of logical unit `n` (R191, R221). -/
def State.unitWindow (s : State) (n : Nat) : Nat :=
  let die := n / 512
  528 * die + 16 * s.physCol die (n / 16 % 32) + n % 16

/-- Lines of the Terrace that `n` bytes from a local offset touch, counted at their memory units (R230). -/
def State.countLines (s : State) (wr : Bool) (a n : Nat) : State :=
  if regionOf a ≠ .terrace ∨ n = 0 then s
  else
    (List.range ((a + n - 1) / 0x100000 - a / 0x100000 + 1)).foldl (fun s i =>
      let u := a / 0x100000 + i
      let lo := max a (0x100000 * u)
      let hi := min (a + n) (0x100000 * (u + 1))
      let k := (unitsOf lo (hi - lo)).length
      s.countWrap (if wr then F.MU_WRITE_LINES_COUNT else F.MU_READ_LINES_COUNT) (s.unitWindow u) 0 k) s

/-- The Dale of a site index. -/
def State.siteDale (s : State) (i : Nat) : Option Nat :=
  (s.logicalCol (siteDie i) (siteCol i)).map (fun c => (16 * siteDie i) + c / 2)

/-- The die of an HBM stack (R90). -/
def State.stackDie (s : State) (k : Nat) : Nat := if k < s.part.stacks / 2 then 0 else 1

/-- Whether the domain `(d, i)` contains `(e, j)`, itself included (R526). -/
def State.contains (s : State) (d : Domain) (i : Nat) (e : Domain) (j : Nat) : Bool :=
  if d = e ∧ i = j then true
  else
    match d, e with
    | .device, _ => true
    | .dale, .site => s.siteDale j == some i
    | .hbmStack, .hbmChannel => j / 16 == i
    | .bundle, .link => (s.f F.ALT_PORT_CFG_LINKS i).testBit j
    | .die, .site => siteDie j == i
    | .die, .dale => dieOfDale j == i
    | .die, .hbmStack => s.stackDie j == i
    | .die, .hbmChannel => s.stackDie (j / 16) == i
    | .die, .core => (if j < 32 then 0 else 1) == i
    | _, _ => false

/-- Whether a fault on a domain is escalated (R527): it, or a domain that contains it, is recovering. Job and chip domains
never are. -/
def State.escalates (s : State) (d : Domain) (i : Nat) : Bool :=
  d != .job && d != .chip && s.faults.recovering.any (fun r => s.contains r.domain r.index d i)

/-- The code under which a fault is logged: escalated by one class where R527 says so, up to `DEVICE`. -/
def State.faultCode (s : State) (code : Nat) (d : Domain) (i : Nat) : Nat :=
  if s.escalates d i && decide (faultClass code < 5) then code + 0x1000 else code

/-- The log entry that a `CORRECTED` fault coalesces with (R523). -/
def State.coalesceWith (s : State) (code : Nat) (d : Domain) (i job : Nat) : Option Nat :=
  if faultClass code ≠ 1 then none
  else (List.range 256).find? fun e =>
    s.fb F.FLT_LOG_A_VALID e && s.f F.FLT_LOG_A_CODE e == code && s.f F.FLT_LOG_A_DOMAIN e == d.code &&
    s.f F.FLT_LOG_A_INDEX e == i && s.f F.FLT_LOG_A_JOB e == job && decide (s.f F.FLT_LOG_A_REPEAT e < 0xFFFF) &&
    decide (s.now ≤ mgetD s.faults.lastRepeat e 0 + 1000000)

/-- The counter of a class in `FLT_CLASS_CNT`. -/
def classCounter (c : Nat) : Field := ⟨R.FLT_CLASS_CNT, 12 * (c - 1), 12⟩

/-- The vectors that a new log entry raises (R523, R554). -/
def State.faultVectors (s : State) (cls : Nat) : State :=
  [0, 1].foldl (fun s p =>
    if s.fb F.FLT_IRQ_EN p && decide (s.f F.FLT_IRQ_MIN_CLASS p ≤ cls) then s.raise p (s.f F.FLT_IRQ_VECTOR p) else s) s

/-- A new log entry written at `NEXT` (R523, R560). -/
def State.writeLog (s : State) (code : Nat) (esc : Bool) (d : Domain) (i job : Nat) (cmd : Option (Nat × Nat))
    (datum : W64) : State :=
  let e := s.f F.FLT_LOG_HEAD_NEXT
  let s := if s.fb F.FLT_LOG_A_VALID e && !s.faults.readMarks.contains e then s.count F.FLT_LOG_HEAD_OVERWRITTEN else s
  let a := setBits (BitVec.ofNat 64 code) 16 8 job
  let a := setBits a 24 4 d.code
  let a := setBits a 28 1 (if esc then 1 else 0)
  let a := setBits a 29 1 1
  let a := setBits a 32 12 i
  let c : W64 := match cmd with
    | none => 0
    | some (q, seq) => setBits (setBits (BitVec.ofNat 64 (seq % 2 ^ 48)) 48 12 q) 60 1 1
  let s := s.setR R.FLT_LOG_A a e
  let s := s.setR R.FLT_LOG_B s.tb.tick e
  let s := s.setR R.FLT_LOG_C c e
  let s := s.setR R.FLT_LOG_D datum e
  let s := s.setF F.FLT_LOG_HEAD_NEXT ((e + 1) % 256)
  let s := s.count F.FLT_LOG_HEAD_TOTAL
  let s := { s with faults := { s.faults with
    readMarks := sremove s.faults.readMarks e, lastRepeat := mset s.faults.lastRepeat e s.now } }
  s.faultVectors (faultClass code)

/-- A fault counted and logged under a code that escalation has already fixed (R523). -/
def State.logAs (s : State) (code : Nat) (esc : Bool) (d : Domain) (i : Nat) (job : Nat) (cmd : Option (Nat × Nat))
    (datum : W64) : State :=
  let s := s.count (classCounter (faultClass code))
  match s.coalesceWith code d i job with
  | some e =>
    let s := s.count F.FLT_LOG_A_REPEAT e
    { s with faults := { s.faults with lastRepeat := mset s.faults.lastRepeat e s.now } }
  | none => s.writeLog code esc d i job cmd datum

/-- The Dale of the unit at a window (R191), where there is one. -/
def State.windowDale (s : State) (w : Nat) : Option Nat :=
  (s.logicalCol (w / 528) (w % 528 / 16)).map (fun c => 16 * (w / 528) + c / 2)

/-- Whether a staged value touches Dale `d` (R68): a Dale mask that changes the bit, or another owner of a slot ring of the Dale. -/
def State.stagedTouchesDale (s : State) (t : Staged) (d : Nat) : Bool :=
  let diff := mergeMask (s.reg t.off) t.value t.mask ^^^ s.reg t.off
  match regAt? t.off with
  | some (x, w, _) =>
    (x.reg == R.QE_JOB_DALES && diff.toNat.testBit d) || (x.reg == R.MU_RING_OWN && diff != 0 && s.windowDale w == some d)
  | none => false

/-- Whether a commit changes a register of index `i`. -/
def State.txChanges (s : State) (t : Tx) (x : Reg) (i : Nat := 0) : Bool :=
  t.staged.any fun y => y.off == x.at i && mergeMask (s.reg y.off) y.value y.mask != s.reg y.off

/-- Whether a commit affects job `n` as a whole: it makes the job valid or invalid. -/
def State.txTouchesJob (s : State) (t : Tx) (n : Nat) : Bool :=
  t.staged.any fun y => y.off == R.QE_JOB_CTRL.at n && bitOf (mergeMask (s.reg y.off) y.value y.mask ^^^ s.reg y.off) 0

/-- Whether a transaction's commit affects Dale `d`. -/
def State.txTouchesDale (s : State) (t : Tx) (d : Nat) : Bool :=
  t.staged.any (fun x => s.stagedTouchesDale x d) ||
  t.casts.any (fun c => decide (c.first ≤ d) && decide (d < c.first + c.count))

/-- Whether a transaction's commit affects Armature core `c`. -/
def State.txTouchesCore (s : State) (t : Tx) (c : Nat) : Bool :=
  t.staged.any fun x =>
    match regAt? x.off with
    | some (y, _, _) =>
      y.reg == R.QE_JOB_CORES && (mergeMask (s.reg x.off) x.value x.mask ^^^ s.reg x.off).toNat.testBit c
    | none => false

/-- The present and the staged value of a register that a commit changes; none where it leaves the register as it is. -/
def State.stagedChange (s : State) (y : Staged) : List W64 :=
  let v := mergeMask (s.reg y.off) y.value y.mask
  if v = s.reg y.off then [] else [s.reg y.off, v]

/-- The logical ports whose links a commit changes, and the links named before and after, as a mask. -/
def State.txPortLinks (s : State) (t : Tx) (p : Nat) : Nat :=
  (t.staged.filter (fun y => y.off == R.ALT_PORT_CFG.at p)).foldl (fun m y =>
    (s.stagedChange y).foldl (fun m v => m ||| bitsOf v F.ALT_PORT_CFG_LINKS.lo F.ALT_PORT_CFG_LINKS.width) m) 0

/-- Whether a commit affects link `l`: its own control, or the links of a port that has or gets it. -/
def State.txTouchesLink (s : State) (t : Tx) (l : Nat) : Bool :=
  s.txChanges t R.ALT_LINK_CTRL l || (List.range 8).any (fun p => (s.txPortLinks t p).testBit l)

/-- Whether a commit affects the bundle of logical port `p`: the port itself, or a link that it has. -/
def State.txTouchesBundle (s : State) (t : Tx) (p : Nat) : Bool :=
  s.txChanges t R.ALT_PORT_CFG p || s.txChanges t R.ALT_PORT_OWN p ||
  (maskList (s.f F.ALT_PORT_CFG_LINKS p) 22).any (fun l => s.txTouchesLink t l)

/-- The fields that give a range of Basin frames, first frame and number. -/
def frameRanges : List (Field × Field) :=
  [(F.TR_MIG_POOL_FIRST, F.TR_MIG_POOL_FRAMES), (F.SRV_KV_POOL_FIRST, F.SRV_KV_POOL_FRAMES),
   (F.TR_CCACHE_CFG_FIRST, F.TR_CCACHE_CFG_FRAMES), (F.WSU_G_RECV_FIRST, F.WSU_G_RECV_FRAMES),
   (F.WSU_G_RET_FIRST, F.WSU_G_RET_FRAMES)]

/-- The Basin frames of a pool, the hot set, an area or a ring that a register value names, as runs of first frame and number. A ring of
a queue is at most 4 MiB long. -/
def namedFrames (x : Reg) (v : W64) : List (Nat × Nat) :=
  if x = R.QE_Q_RING then [(frameOf v.toNat, 3)]
  else (frameRanges.filter (fun c => c.1.reg == x)).map (fun c => (bitsOf v c.1.lo c.1.width, bitsOf v c.2.lo c.2.width))

/-- Whether a commit affects HBM stack `k`: it changes a range that has frames there (R90). -/
def State.txTouchesStack (s : State) (t : Tx) (k : Nat) : Bool :=
  t.staged.any fun y => match regAt? y.off with
    | none => false
    | some (x, _, _) => (s.stagedChange y).any fun v => (namedFrames x.reg v).any fun r =>
        (List.range (min r.2 s.part.stacks)).any (fun i => (r.1 + i) % s.part.stacks == k)

/-- Whether a fault's domain lies in a unit that a commit affects (R70). -/
def State.txTouches (s : State) (t : Tx) (d : Domain) (i : Nat) : Bool :=
  match d with
  | .link => s.txTouchesLink t i
  | .bundle => s.txTouchesBundle t i
  | .hbmStack => s.txTouchesStack t i
  | .hbmChannel => s.txTouchesStack t (i / 16)
  | .dale => s.txTouchesDale t i
  | .site => match s.siteDale i with
    | some k => s.txTouchesDale t k
    | none => false
  | .core => s.txTouchesCore t i
  | .die => (List.range 32).any (fun k => dieOfDale k == i && s.txTouchesDale t k) ||
      (List.range 64).any (fun c => c / 32 == i && s.txTouchesCore t c)
  | .device => true
  | .job | .chip => false

/-- The roll-back of every commit whose affected units a fault of class `UNIT` or higher reaches before its ordering point
(R70). -/
def State.faultRollback (s : State) (code : Nat) (d : Domain) (i e : Nat) : State :=
  if faultClass code < 3 then s
  else (s.txs.filter (fun t => t.committing && s.txTouches t d i)).foldl
    (fun s t => s.rollback t.handle .txAborted (setBits (BitVec.ofNat 64 e) 8 16 code)) s

/-- A Dale fails (R531): absent from now on, with its borders fenced. `FAB_BORDER` is computed from `FLT_FAILED`. -/
def State.failDale (s : State) (d : Nat) : State := s.setF F.FLT_FAILED_DALES (s.f F.FLT_FAILED_DALES ||| 2 ^ d)

/-- Whether a record in flight is a `CAST_RUN` that names Dale `k`. -/
def Flight.onDale (x : Flight) (k : Nat) : Bool :=
  let first := bitsOf x.cmd.w4 0 8
  x.cmd.opcode == 0x0A && decide (first ≤ k) && decide (k < first + bitsOf x.cmd.w4 8 8)

/-- Whether what issued a request is a record in flight, or runs for it. -/
def State.flightIssues (s : State) (q : Nat) (x : Flight) : Issuer → Bool
  | .flight a b => a == q && b == x.seq
  | .core c => (mget s.cores c).any (fun y => y.q == q && y.seq == x.seq)
  | .gen mu _ => x.onDale (mu / 32)
  | .mirror m => (mget s.serve.runs m).any (fun y => y.q == q && y.seq == x.seq)
  | _ => false

/-- Whether a message belongs to a record in flight: a request of it, or a message of its job's engine that it drives (R460). -/
def State.flightSends (s : State) (q : Nat) (x : Flight) (m : OutMsg) : Bool :=
  let own := m.src == s.f F.ALT_MESH_CHIP && m.job == s.queueJob q
  if m.op = 0x18 ∨ m.op = 0x19 then own && x.cmd.opcode == 0x20
  else if 0x10 ≤ m.op ∧ m.op ≤ 0x14 then own && x.cmd.opcode == 0x28
  else if m.op = 0x20 ∨ m.op = 0x21 then own && x.cmd.opcode == 0x30
  else s.net.requests.any (fun y => y.xid == m.xid && y.msg.op == m.op && s.flightIssues q x y.issuer)

/-- Whether a record in flight uses a domain (R529): the Dales that a `CAST_RUN` names, or a link that carries one of its messages. -/
def State.flightUses (s : State) (q : Nat) (x : Flight) (d : Domain) (i : Nat) : Bool :=
  match d with
  | .dale => x.onDale i
  | .site => match s.siteDale i with
    | some k => x.onDale k
    | none => false
  | .die => (List.range 32).any (fun k => dieOfDale k == i && x.onDale k)
  | .link => s.net.ports.any (fun p => p.2.txq.any (fun t => t.link == some i && s.flightSends q x t.msg)) ||
      s.net.requests.any (fun y => y.plainLink == some i && s.flightIssues q x y.issuer)
  | _ => false

/-- A recovery begun on a domain (R527); the records in flight that use it will complete `DEGRADED` in place of `OK` (R529). -/
def State.beginRecovery (s : State) (d : Domain) (i : Nat) : State :=
  let mark := fun (q : Nat) (x : Flight) => if s.flightUses q x d i then { x with degraded := true } else x
  { s with
    faults := { s.faults with recovering := { domain := d, index := i } :: s.faults.recovering }
    queues := s.queues.map (fun x => (x.1, { x.2 with flights := x.2.flights.map (mark x.1) })) }

/-- A recovery completed. -/
def State.endRecovery (s : State) (d : Domain) (i : Nat) : State :=
  { s with faults := { s.faults with recovering := s.faults.recovering.filter (fun r => r != { domain := d, index := i }) } }

/-- The Dales whose logical columns lie in physical columns `p` and east of it on a die (R530, step 1). -/
def State.dalesFrom (s : State) (die p : Nat) : List Nat :=
  (List.range 16).filterMap fun k =>
    if s.part.hasDale (16 * die + k) ∧ p ≤ 2 * k + 1 then some (16 * die + k) else none

/-- A `UNIT` fault at a site (R530, R531): it starts a column retirement where the die has an unused good spare, marks a
fault in the unused spare, does nothing more in a retired column, and fails the Dale otherwise. DEDUCED: a retirement in progress has used
the spare. -/
def State.siteUnit (s : State) (i : Nat) : State :=
  let die := siteDie i
  let p := siteCol i
  let none? := decide (s.part.dieCols ≤ s.retired die)
  let bad := s.fb (if die = 0 then F.FLT_FAILED_SPARE_BAD_W else F.FLT_FAILED_SPARE_BAD_E)
  if none? && p == s.part.dieCols then
    s.setF (if die = 0 then F.FLT_FAILED_SPARE_BAD_W else F.FLT_FAILED_SPARE_BAD_E) 1
  else if p == s.retired die then s
  else if none? && !bad && !s.faults.recovering.any (fun r => r.domain == .site && siteDie r.index == die) then
    (s.dalesFrom die p).foldl (fun s d => s.beginRecovery .dale d) (s.beginRecovery .site i)
  else match s.siteDale i with
    | some d => s.failDale d
    | none => s

/-- A `DEVICE` fault stops the device (R537, step 1): no record and no step starts, and `FAULT_N` goes low. -/
def State.stopDevice (s : State) : State :=
  { s.setF F.GLB_BOARD_FAULT 1 with power := { s.power with stopped := true } }

/-- A stack is lost (R535): logged as `HBM_STACK`, of class `DEVICE`. -/
def State.loseStack (s : State) (k : Nat) : State :=
  let s := s.logAs 0x5304 false .hbmStack k 0xFF none 0
  (s.setF F.FLT_HBM_STACK_LOST (s.f F.FLT_HBM_STACK_LOST ||| 2 ^ k)).stopDevice

/-- A channel fails (R534, R535): the copy into the spare of its die begins, or the stack is lost where that spare is in use. -/
def State.failChannel (s : State) (i : Nat) : State :=
  let die := s.stackDie (i / 16)
  let copying := if die = 0 then F.FLT_HBM_COPYING_W else F.FLT_HBM_COPYING_E
  if s.fb copying || s.f (if die = 0 then F.FLT_HBM_RET_W else F.FLT_HBM_RET_E) != 0xFF then s.loseStack (i / 16)
  else (s.setF copying 1).beginRecovery .hbmChannel i

/-- What a fault starts beside its log entry (R527, R530, R531, R535, R536): the outcome of its class in its domain. -/
def State.faultOutcome (s : State) (code : Nat) (d : Domain) (i : Nat) : State :=
  match faultClass code, d with
  | 5, _ => s.stopDevice
  | 3, .core => s.setF F.FLT_FAILED_CORES_CORES (s.f F.FLT_FAILED_CORES_CORES ||| 2 ^ i)
  | 3, .site => s.siteUnit i
  | 3, .hbmChannel => s.failChannel i
  | 4, .site => match s.siteDale i with
    | some k => s.failDale k
    | none => s
  | 4, .dale => s.failDale i
  | 4, .core => s.setF F.FLT_FAILED_CORES_CORES (s.f F.FLT_FAILED_CORES_CORES ||| 2 ^ i)
  | 4, .link => { s with faults := { s.faults with outLinks := sinsert s.faults.outLinks i } }
  | 4, .hbmChannel => s.loseStack (i / 16)
  | 4, .hbmStack => s.loseStack i
  | _, _ => s

/-- One fault (R520 to R527, R70): escalated where its domain is recovering, counted, logged, with the roll-back of the
commits it meets and the outcome of its class. -/
def State.fault (s : State) (code : Nat) (d : Domain) (i : Nat) (job : Nat := 0xFF) (cmd : Option (Nat × Nat) := none)
    (datum : W64 := 0) : State :=
  let c := s.faultCode code d i
  let e := s.f F.FLT_LOG_HEAD_NEXT
  let s := s.logAs c (c != code) d i job cmd datum
  let s := s.faultRollback c d i e
  s.faultOutcome c d i

/-- The `DETAIL` word of a status caused by a fault that is about to be logged (R58): log index and code. -/
def State.faultDetail (s : State) (code : Nat) : W64 := setBits (BitVec.ofNat 64 (s.f F.FLT_LOG_HEAD_NEXT)) 8 16 code

/-- `DETAIL` of a `BAD_COMMAND` (R58): the word and the bit of the field at fault. -/
def badField (word bit : Nat) : W64 := BitVec.ofNat 64 (word + 256 * bit)

/-- `DETAIL` of a `CONFLICT` (R71): resource type, index and holder. -/
def conflictDetail (type index holder : Nat) : W64 := setBits (setBits (BitVec.ofNat 64 type) 8 32 index) 40 8 holder

end Sys2Proof.Machine
end

