-- ==== Sys2Proof/Machine/Operands.lean ====
section
/-! DEFINITION. The operand forms of the device: command records, global and virtual addresses, translation entries and
walks, block-list entries, and reads and writes through a job's translation. -/

namespace Sys2Proof.Machine

/-! ## Command records (R46, R49) -/

/-- The record that 64 bytes hold. -/
def Rec.ofWords (ws : List W64) : Rec :=
  { w0 := nth ws 0 0, w1 := nth ws 1 0, w2 := nth ws 2 0, w3 := nth ws 3 0,
    w4 := nth ws 4 0, w5 := nth ws 5 0, w6 := nth ws 6 0, w7 := nth ws 7 0 }

/-- The words of a record in order. -/
def Rec.words (r : Rec) : List W64 := [r.w0, r.w1, r.w2, r.w3, r.w4, r.w5, r.w6, r.w7]

/-- The 64 bytes of a record. -/
def Rec.bytes (r : Rec) : List Byte := wordsBytes r.words

/-- The Basin offset of the ring entry of a sequence number (R44). -/
def State.ringAddr (s : State) (q seq : Nat) : Nat :=
  s.f F.QE_Q_RING_BASE q + 64 * (seq % 2 ^ s.f F.QE_Q_CTRL_LOG2_SIZE q)

/-- The record at the head of queue `q`, where the ring holds one (R45). -/
def State.headRec (s : State) (q : Nat) : Option Rec :=
  let h := s.f F.QE_Q_HEAD_HEAD_SEQ q
  if h = s.f F.QE_Q_TAIL_TAIL_SEQ q then none
  else some (Rec.ofWords (leWords 8 (s.bytes (s.ringAddr q h) 64)))

/-- The number by which the model knows the record at the head of queue `q`: its `SEQ`, with the queue's epoch above bit 47. -/
def State.headSeq (s : State) (q : Nat) : Nat := s.f F.QE_Q_HEAD_HEAD_SEQ q + 2 ^ 48 * (s.queue q).epoch

/-- Whether the record at the head of queue `q` carries a poison mark (R525). -/
def State.headPoisoned (s : State) (q : Nat) : Bool :=
  s.poisoned (s.ringAddr q (s.f F.QE_Q_HEAD_HEAD_SEQ q)) 64

/-- The first Dale of an operand `OP1`. -/
def Rec.firstDale (r : Rec) : Nat := bitsOf r.w4 0 8
/-- The Dale count of an operand `OP1`. -/
def Rec.daleCount (r : Rec) : Nat := bitsOf r.w4 8 8
/-- The Dales an operand `OP1` names. -/
def Rec.dales (r : Rec) : List Nat := (List.range r.daleCount).map (r.firstDale + ·)

/-! ## Global addresses (R87, R88) -/

/-- The device's own chip number. -/
def State.chip (s : State) : Nat := s.f F.ALT_MESH_CHIP

/-- What a global address names. -/
inductive Place where
  | bad
  | absent
  | here (off : Nat)
  | there (chip off : Nat)
  deriving DecidableEq, Repr

/-- The place of a global address (R87, R88). -/
def State.place (s : State) (g : Nat) : Place :=
  let off := g % 2 ^ 51
  let chip := g / 2 ^ 51
  if 2 ^ 63 ≤ g then .bad
  else if chip ≠ s.chip then .there chip off
  else if regionOf off = .none then .bad
  else if s.provides off then .here off
  else .absent

/-- The global address of a local offset. -/
def State.globalOf (s : State) (off : Nat) : Nat := s.chip * 2 ^ 51 + off

/-- Whether a chip lies inside the partition fence and outside the lost set (R441, R538, R574). -/
def State.inFence (s : State) (chip : Nat) : Bool :=
  (s.f F.SEC_FENCE_INSIDE (chip / 64)).testBit (chip % 64) && !(s.f F.FLT_LOST_LOST (chip / 64)).testBit (chip % 64)

/-! ## Translation entries (R93, R94) -/

/-- `V`. -/
def leafV (e : W64) : Bool := bitOf e 0
/-- `LEAF`. -/
def leafLeaf (e : W64) : Bool := bitOf e 1
/-- `R`. -/
def leafR (e : W64) : Bool := bitOf e 2
/-- `W`. -/
def leafW (e : W64) : Bool := bitOf e 3
/-- `POISON`. -/
def leafPoison (e : W64) : Bool := bitOf e 4
/-- `MIG`. -/
def leafMig (e : W64) : Bool := bitOf e 5
/-- `TIER`. -/
def leafTier (e : W64) : Nat := bitsOf e 6 2
/-- `LOG2_SIZE`. -/
def leafLog2 (e : W64) : Nat := bitsOf e 8 5
/-- The global address in `ADDR`: bits [62:12] of it in bits [63:13] of the entry. -/
def leafAddr (e : W64) : Nat := bitsOf e 13 51 * 4096

/-- The entry with another output address. -/
def leafWithAddr (e : W64) (g : Nat) : W64 := setBits e 13 51 (g / 4096)

/-- The level at which a leaf of size `2^n` sits (R94). -/
def leafLevel (n : Nat) : Nat := if n < 21 then 0 else if n < 30 then 1 else 2

/-- The lowest bit of the index of a level (R92). -/
def levelShift (l : Nat) : Nat := 12 + 9 * l

/-- The key of the entry that translates `va` at a level. -/
def entryKey (l va : Nat) : Nat := l * 2 ^ 40 + va / 2 ^ levelShift l

/-- The key of the table of a level that covers `va`. -/
def tableKey (l va : Nat) : Nat := l * 2 ^ 40 + va / 2 ^ levelShift (l + 1)

/-- The tables of job `n`. -/
def State.pageTable (s : State) (n : Nat) : PageTable := mgetD s.frames.pages n { tables := [], entries := [] }

/-- The level in the key of an entry or of a table. -/
def keyLevel (k : Nat) : Nat := k / 2 ^ 40
/-- The virtual address at which the entry of a key begins. -/
def keyVa (k : Nat) : Nat := k % 2 ^ 40 * 2 ^ levelShift (keyLevel k)
/-- The virtual address at which the table of a key begins. -/
def tableVa (k : Nat) : Nat := k % 2 ^ 40 * 2 ^ levelShift (keyLevel k + 1)

/-- A pointer entry to the table at a global address (R93). -/
def pointerWord (g : Nat) : W64 := setBits 1 13 51 (g / 4096)

/-- The place of the entry of a level for `va` in the table that holds it. -/
def PageTable.slotOf (p : PageTable) (l va : Nat) : Option Nat :=
  (mget p.tables (tableKey l va)).map (fun t => t + 8 * (va / 2 ^ levelShift l % 512))

/-- The entries that the tables of a job hold, leaves and pointers, each with the Basin offset at which it lies (R92 to R95). -/
def State.tableWords (s : State) (p : PageTable) : List (Nat × W64) :=
  (p.entries.filterMap fun x => (p.slotOf (keyLevel x.1) (keyVa x.1)).map (fun a => (a, x.2))) ++
  (p.tables.filterMap fun x =>
    if keyLevel x.1 = 3 then none
    else (p.slotOf (keyLevel x.1 + 1) (tableVa x.1)).map (fun a => (a, pointerWord (s.globalOf x.2))))

/-- Whether a cached entry of job `n` still stands when its tables change from `p` to `p'`: the leaf of its page, or the table its
pointer names, is the same. `k` is the number of the cache. -/
def TlbEntry.stands (x : TlbEntry) (p p' : PageTable) (k : Nat) : Bool :=
  if 1028 ≤ k then
    let key := tableKey ((x.log2 - 12) / 9 - 1) x.va
    mget p.tables key == mget p'.tables key
  else
    let key := entryKey (leafLevel x.log2) x.va
    mget p.entries key == mget p'.entries key

/-- The translation caches without what a change of the tables of job `n` makes stale (R51, R99, R102). -/
def State.dropStale (s : State) (n : Nat) (p' : PageTable) : SMap (List TlbEntry) :=
  s.frames.tlbs.map (fun c => (c.1, c.2.filter (fun x => x.job != n || x.stands (s.pageTable n) p' c.1)))

/-- The state with the tables of job `n` replaced: what they no longer hold is cleared in the Basin frames that hold them, what is new is
written there, and no cache keeps a stale entry. -/
def State.setPageTable (s : State) (n : Nat) (p : PageTable) : State :=
  let old := s.tableWords (s.pageTable n)
  let new := s.tableWords p
  let t := (old.filter (fun x => !new.contains x)).foldl (fun s x => s.storeWord x.1 0) s
  let t := (new.filter (fun x => !old.contains x)).foldl (fun s x => s.storeWord x.1 x.2) t
  { t with frames := { t.frames with pages := mset t.frames.pages n p, tlbs := s.dropStale n p } }

/-- The tier that the output address of a leaf has (R94): 0 Terrace, 1 Basin, 2 Plain, 3 another chip; 4 for none of them. -/
def State.tierOf (s : State) (g : Nat) : Nat :=
  if g / 2 ^ 51 ≠ s.chip then 3
  else match regionOf (g % 2 ^ 51) with
    | .terrace => 0
    | .basin => 1
    | .plain => 2
    | _ => 4

/-- How a walk ends (R92 to R97): at a leaf of a level, at a fault with its reason and level, or at an entry that carries a
poison mark (R525). -/
inductive Walk where
  | leaf (e : W64) (level : Nat)
  | fault (reason level : Nat)
  | poison
  deriving DecidableEq, Repr

/-- Whether the entry of a level that translates `va` carries a poison mark in the Basin. -/
def State.entryPoisoned (s : State) (p : PageTable) (l va : Nat) : Bool :=
  match mget p.tables (tableKey l va) with
  | some t => s.poisoned (t + 8 * (va / 2 ^ levelShift l % 512)) 8
  | none => false

/-- A walk from a level down; `fuel` is one more than the level. -/
def State.walkFrom (s : State) (p : PageTable) (va : Nat) : Nat → Walk
  | 0 => .fault 1 0
  | l + 1 =>
    if s.entryPoisoned p l va then .poison
    else match mget p.entries (entryKey l va) with
      | some e => if leafV e then .leaf e l else .fault 1 l
      | none =>
        if l ≠ 0 ∧ (mget p.tables (tableKey (l - 1) va)).isSome then s.walkFrom p va l
        else .fault 1 l

/-- The walk of a virtual address of job `n` (R92). -/
def State.walk (s : State) (n va : Nat) : Walk :=
  if 2 ^ 48 ≤ va then .fault 1 3
  else if !s.fb F.TR_CTX_ROOT_VALID n then .fault 1 3
  else s.walkFrom (s.pageTable n) va 4

/-! ## Translation caches (R99) -/

/-- The entries that a translation cache holds: 16 for a memory unit, 64 for the data movers of a die, 2,048 for a walker and 256 pointer
entries beside it. DESIGN CHOICE: the movers of a die share one cache, since the manual does not say how many movers there are. -/
def tlbSize (k : Nat) : Nat := if k < 1024 then 16 else if k < 1026 then 64 else if k < 1028 then 2048 else 256

/-- The cache of the movers of a die, of its walker, and of its pointer entries. -/
def moverTlb (die : Nat) : Nat := 1024 + die
/-- The walker's cache of a die. -/
def walkerTlb (die : Nat) : Nat := 1026 + die
/-- The pointer entries beside the walker of a die. -/
def pointerTlb (die : Nat) : Nat := 1028 + die

/-- What a translation cache holds. -/
def State.tlb (s : State) (k : Nat) : List TlbEntry := mgetD s.frames.tlbs k []

/-- Whether a cached entry covers an address of job `n`. -/
def TlbEntry.covers (x : TlbEntry) (n va : Nat) : Bool := x.job == n && x.va / 2 ^ x.log2 == va / 2 ^ x.log2

/-- An entry put into a cache; in a full one it takes the place of an entry that the manual does not name: a free value chooses it. -/
def State.tlbFill (s : State) (k : Nat) (x : TlbEntry) : State :=
  let l := s.tlb k
  if l.any (fun y => y.covers x.job x.va && y.log2 == x.log2) then s
  else if l.length < tlbSize k then { s with frames := { s.frames with tlbs := mset s.frames.tlbs k (l ++ [x]) } }
  else { s.drawn with frames := { s.frames with tlbs := mset s.frames.tlbs k (setNth l (s.free % l.length) x) } }

/-- The walk of a die for a page of job `n` whose leaf lies at a level: the walker's cache, and where it has no entry the pointers on the
way. -/
def State.walkFill (s : State) (die n va level log2 : Nat) : State :=
  if (s.tlb (walkerTlb die)).any (fun y => y.covers n va) then s
  else
    let t := ([3, 2, 1].filter (fun l => decide (level < l))).foldl (fun (t : State) l =>
      t.tlbFill (pointerTlb die) { job := n, va := va / 2 ^ levelShift l * 2 ^ levelShift l, log2 := levelShift l }) s
    t.tlbFill (walkerTlb die) { job := n, va := va / 2 ^ log2 * 2 ^ log2, log2 := log2 }

/-- A look-up of an address of job `n` in a cache in front of the walker of a die (R99): whether it misses. A miss walks, and the leaf it
finds enters the cache as one whole page. -/
def State.lookUp (s : State) (k die n va : Nat) : State × Bool :=
  if (s.tlb k).any (fun y => y.covers n va) then (s, false)
  else match s.walk n va with
    | .leaf e l =>
      let z := leafLog2 e
      if leafLeaf e && leafLevel z == l then
        ((s.walkFill die n va l z).tlbFill k { job := n, va := va / 2 ^ z * 2 ^ z, log2 := z }, true)
      else (s, true)
    | _ => (s, true)

/-- The look-ups of an access to a range, one for each 4 KiB it touches: how many miss. -/
def State.lookUps (s : State) (k die n va len : Nat) : State × Nat :=
  if len = 0 then (s, 0)
  else (List.range ((va + len - 1) / 4096 - va / 4096 + 1)).foldl (fun (x : State × Nat) i =>
    let r := x.1.lookUp k die n (max va ((va / 4096 + i) * 4096))
    (r.1, x.2 + if r.2 then 1 else 0)) (s, 0)

/-- What an access through a job's translation gives: the global address with its leaf, or a fault. -/
inductive Xlate where
  | ok (g : Nat) (leaf : W64)
  | fault (reason level : Nat)
  | poison
  deriving DecidableEq, Repr

/-- The translation of one access (R92 to R97). -/
def State.translate (s : State) (n va : Nat) (wr : Bool) : Xlate :=
  match s.walk n va with
  | .poison => .poison
  | .fault r l => .fault r l
  | .leaf e l =>
    let z := leafLog2 e
    if !leafLeaf e || decide (z < 12) || decide (30 < z) || leafLevel z != l then .fault 4 l
    else if leafAddr e % 2 ^ z ≠ 0 then .fault 5 l
    else if s.tierOf (leafAddr e) ≠ leafTier e then .fault 6 l
    else if wr && !leafW e then .fault 3 l
    else if !wr && !leafR e then .fault 2 l
    else .ok (leafAddr e + va % 2 ^ z) e

/-- The record of a translation fault (R97, R124): the `XLATE` fault of the job, the first address and reason since `VALID`
was cleared, and the count. -/
def State.xlateFault (s : State) (n va reason level : Nat) (wr : Bool) (cmd : Option (Nat × Nat)) : State :=
  let s := s.fault 0x4401 .job n n cmd (BitVec.ofNat 64 va)
  let cnt := satTo 16 (s.f F.TR_FAULT_INFO_COUNT n + 1)
  if s.fb F.TR_FAULT_INFO_VALID n then s.setF F.TR_FAULT_INFO_COUNT cnt n
  else
    let s := s.setF F.TR_FAULT_VA_VA va n
    let v := setBits (1 : W64) 1 3 reason
    let v := setBits v 4 2 level
    let v := setBits v 6 1 (if wr then 1 else 0)
    s.setR R.TR_FAULT_INFO (setBits v 8 16 1) n

/-! ## Reads and writes through translation -/

/-- Why an access through translation stops: a translation fault at an address, a poisoned translation entry, a place in no
region, or a place the device lacks. -/
inductive AccErr where
  | xlate (va reason level : Nat) (wr : Bool)
  | poison
  | bad
  | absent
  deriving DecidableEq, Repr

/-- One piece of a range: its place, its length and whether its leaf carries `POISON` (R98). -/
structure Piece where
  place : Place
  len : Nat
  leafPoison : Bool
  deriving DecidableEq, Repr

/-- The pieces of a virtual range, cut at 4 KiB boundaries; `fuel` bounds their number. -/
def State.pieces (s : State) (n : Nat) (wr : Bool) : Nat → Nat → Nat → Except AccErr (List Piece)
  | 0, _, _ => .ok []
  | fuel + 1, va, len =>
    if len = 0 then .ok []
    else
      let k := min len (4096 - va % 4096)
      match s.translate n va wr with
      | .fault r l => .error (.xlate va r l wr)
      | .poison => .error .poison
      | .ok g e =>
        match s.place g with
        | .bad => .error .bad
        | .absent => .error .absent
        | p =>
          match s.pieces n wr fuel (va + k) (len - k) with
          | .error x => .error x
          | .ok ps => .ok ({ place := p, len := k, leafPoison := leafPoison e } :: ps)

/-- The pieces of a whole virtual range. -/
def State.range (s : State) (n va len : Nat) (wr : Bool) : Except AccErr (List Piece) :=
  s.pieces n wr (len / 4096 + 2) va len

/-- Where the mark of a byte of another chip's memory is kept among the poison marks, as far as it has been delivered. -/
def remoteKey (c a : Nat) : Nat := 2 ^ 63 + c * 2 ^ 51 + a

/-- The bytes a piece reads. A place on another chip reads as the remote view holds it. -/
def State.pieceBytes (s : State) (p : Piece) : List Byte :=
  match p.place with
  | .here a => s.bytes a p.len
  | .there c a => (List.range p.len).map (fun i => mgetD s.remoteView (c * 2 ^ 51 + a + i) (Config.remoteByte (c * 2 ^ 51 + a + i)))
  | _ => []

/-- Whether a piece delivers a poison mark (R98, R524). -/
def State.piecePoison (s : State) (p : Piece) : Bool :=
  p.leafPoison || match p.place with
  | .here a => s.poisoned a p.len
  | .there c a => s.poisoned (remoteKey c a) p.len
  | _ => false

/-- The bytes of a virtual range with their poison mark. -/
def State.readVirt (s : State) (n va len : Nat) : Except AccErr (List Byte × Bool) :=
  match s.range n va len false with
  | .error e => .error e
  | .ok ps => .ok (ps.flatMap s.pieceBytes, ps.any s.piecePoison)

/-- The local pieces of a range written in order with the given bytes. A piece whose leaf carries `POISON` is discarded
(R98). -/
def State.writePieces : State → List Piece → List Byte → Bool → State
  | s, [], _, _ => s
  | s, p :: ps, bs, mark =>
    let s' := match p.place, p.leafPoison with
      | .here a, false => s.store a (bs.take p.len) mark
      | _, _ => s
    s'.writePieces ps (bs.drop p.len) mark

/-- The status that ends a command whose access stopped (R88, R97, R525). -/
def AccErr.status : AccErr → Status
  | .xlate .. => .denied
  | .poison => .poisoned
  | .bad => .badCommand
  | .absent => .absent

/-- The faults an access error logs for a command: a translation fault (R97), or `POISON_USED` (R525). -/
def State.accFault (s : State) (n : Nat) (e : AccErr) (cmd : Option (Nat × Nat)) : State :=
  match e with
  | .xlate va r l wr => s.xlateFault n va r l wr cmd
  | .poison => s.fault 0x4407 .job n n cmd
  | _ => s

/-- The `DETAIL` of a command that an access error ends (R58). -/
def State.accDetail (s : State) (e : AccErr) (word : Nat) : W64 :=
  match e with
  | .xlate .. => s.faultDetail 0x4401
  | .poison => s.faultDetail 0x4407
  | .bad => badField word 0
  | .absent => 0

/-! ## Block lists (R105) -/

/-- A block-list entry (R105). -/
structure Entry where
  base : Nat
  ext0 : Nat
  ext1 : Nat
  fmt : Nat
  shape : Nat
  blk : Nat
  dir : Bool
  sfmt : Bool
  tscale : Bool
  ext2 : Nat
  stride1 : Nat
  stride2 : Nat
  transpose : Bool
  reserved : Bool
  deriving DecidableEq, Repr

/-- The entry that 32 bytes hold. -/
def Entry.ofBytes (bs : List Byte) : Entry :=
  let ws := leWords 4 bs
  let w := fun i => nth ws i (0 : W64)
  { base := (w 0).toNat, ext0 := bitsOf (w 1) 0 24, ext1 := bitsOf (w 1) 24 24, fmt := bitsOf (w 1) 48 4,
    shape := bitsOf (w 1) 52 2, blk := bitsOf (w 1) 56 3, dir := bitOf (w 1) 59, sfmt := bitOf (w 1) 60,
    tscale := bitOf (w 1) 61, ext2 := bitsOf (w 2) 0 24, stride1 := bitsOf (w 2) 24 40, stride2 := bitsOf (w 3) 0 40,
    transpose := bitOf (w 3) 40,
    reserved := bitsOf (w 1) 54 2 != 0 || bitsOf (w 1) 62 2 != 0 || bitsOf (w 3) 41 23 != 0 }

/-- Bits of one element of a format code (R103); 0 for an undefined code. -/
def fmtBits : Nat → Nat
  | 0 => 32 | 1 => 16 | 2 => 16 | 3 => 8 | 4 => 8 | 5 => 6 | 6 => 6 | 7 => 4 | 8 => 8 | 9 => 4 | 10 => 8 | _ => 0

/-- Block length of a `BLK` code (R105); 0 for none. -/
def blkLen : Nat → Nat
  | 1 => 8 | 2 => 16 | 3 => 32 | 4 => 64 | 5 => 128 | _ => 0

end Sys2Proof.Machine
end

