-- ==== Sys2Proof/Machine/Queue.lean ====
section
/-! DEFINITION. The queue engine: windows and seals (R40 to R45), the seven steps of a record (R47, R57), waits (R56), and
the commands `NOP`, `FENCE_SIGNAL` and `FENCE_WAIT`. -/

namespace Sys2Proof.Machine

/-! ## Windows and seals (R41 to R44) -/

/-- A staging slot that holds nothing. -/
def Slot.empty : Slot := { written := List.replicate 8 false, words := List.replicate 8 0#64, held := false }

/-- The staging slot `j` of queue `q`. -/
def State.slot (s : State) (q j : Nat) : Slot := mgetD (s.queue q).slots j .empty

/-- The state with a staging slot replaced. -/
def State.setSlot (s : State) (q j : Nat) (x : Slot) : State :=
  s.setQueue q { s.queue q with slots := mset (s.queue q).slots j x }

/-- The state with a staging slot cleared. -/
def State.clearSlot (s : State) (q j : Nat) : State :=
  s.setQueue q { s.queue q with slots := merase (s.queue q).slots j }

/-- A rejected seal or a dropped write counted with its reason (R41, R43, R80). -/
def State.reject (s : State) (q reason : Nat) : State :=
  (s.count F.QE_Q_STAT_SEAL_REJECT q).setF F.QE_Q_STAT_LAST_REASON reason q

/-- Whether a write to the window of queue `q` comes from where the queue is bound (R41). -/
def State.windowOpen (s : State) (o : Origin) (q : Nat) : Bool :=
  s.bound q && match o with
    | .port p => s.f F.QE_Q_CTRL_PORT q == p.val
    | .core c => s.f F.QE_Q_CTRL_PORT q == 2 && s.ownsCore (s.queueJob q) c.val

/-- A record entering the ring at `TAIL_SEQ` from slot `j` (R44). -/
def State.enterRing (s : State) (q j : Nat) : State :=
  let t := s.f F.QE_Q_TAIL_TAIL_SEQ q
  let s := s.store (s.ringAddr q t) (wordsBytes (s.slot q j).words)
  let s := s.setF F.QE_Q_TAIL_TAIL_SEQ ((t + 1) % 2 ^ 48) q
  s.clearSlot q j

/-- Held records entering the ring while the next one is held (R44); `fuel` bounds their number. -/
def State.enterHeld : Nat → State → Nat → State
  | 0, s, _ => s
  | fuel + 1, s, q =>
    let t := s.f F.QE_Q_TAIL_TAIL_SEQ q
    let x := s.slot q (t % 4096)
    if x.held && bitsOf (nth x.words 7 0) 0 48 == t then enterHeld fuel (s.enterRing q (t % 4096)) q else s

/-- The code of the first condition of R43 that a seal fails; 0 when it passes all. -/
def State.sealReason (s : State) (q j : Nat) (w : W64) : Nat :=
  let x := s.slot q j
  let seq := bitsOf w 0 48
  let tail := s.f F.QE_Q_TAIL_TAIL_SEQ q
  let head := s.f F.QE_Q_HEAD_HEAD_SEQ q
  if !(x.written.take 7).all id then 3
  else if seq % 4096 ≠ j then 7
  else if !decide ((seq + 2 ^ 48 - tail) % 2 ^ 48 < 4096) then 2
  else if !decide ((seq + 2 ^ 48 - head) % 2 ^ 48 < 2 ^ s.f F.QE_Q_CTRL_LOG2_SIZE q) then 4
  else if bitsOf w 48 16 ≠ (crc16 ((wordsBytes (x.words.take 7 ++ [w])).take 62)).toNat then 1
  else 0

/-- A seal word written into slot `j` (R43, R44). -/
def State.sealSlot (s : State) (q j : Nat) (w : W64) : State :=
  let x := s.slot q j
  if x.held then s.reject q 5
  else
    let r := s.sealReason q j w
    if r ≠ 0 then (s.clearSlot q j).reject q r
    else
      let y := { x with words := setNth x.words 7 w, written := setNth x.written 7 true, held := true }
      (s.setSlot q j y).enterHeld 4096 q

/-- One aligned word written into a window (R41, R44); none where its slot holds a held record. -/
def State.windowWord (s : State) (q off : Nat) (w : W64) : Option State :=
  let j := off / 64
  let i := off % 64 / 8
  let x := s.slot q j
  if x.held then none
  else if i = 7 then some (s.sealSlot q j w)
  else some (s.setSlot q j { x with words := setNth x.words i w, written := setNth x.written i true })

/-- The words of one write put into a window, with whether some of them were dropped. -/
def State.windowWords (s : State) (q off : Nat) (ws : List W64) : State × Bool :=
  ((List.range ws.length).zip ws).foldl (fun (x : State × Bool) y =>
    match x.1.windowWord q (off + 8 * y.1) y.2 with
    | some t => (t, x.2)
    | none => (x.1, true)) (s, false)

/-- A write of bytes into the window of queue `q` (R41, R44): a write that is dropped, in whole or for the slots that hold a held record,
counts once. -/
def State.windowBytes (s : State) (o : Origin) (q off : Nat) (bs : List Byte) : State :=
  if !s.windowOpen o q || decide (off % 8 ≠ 0) || decide (bs.length % 8 ≠ 0) then s.reject q 6
  else
    let x := s.windowWords q off (leWords (bs.length / 8) bs)
    if x.2 then x.1.reject q 5 else x.1

/-! ## The steps of a record (R47) -/

/-- What an opcode brings to the steps of R47: presence (step 2), encoding (step 3, the `DETAIL` of a failure), whether it
takes a `TX`, the fence its operands name (step 4), ownership (step 6), the commits it is held by (R68), the shared engine
it uses (R64; 0 for none), what it does when it runs (step 7), with the record in flight, what keeps it from starting
yet (R65, R114), and what step 3 reads and checks beyond the encoding (R383). -/
structure CmdSpec where
  present : State → Rec → Bool
  encoding : State → Nat → Rec → Option W64
  takesTx : Bool
  opFence : Rec → Option Nat
  owns : State → Nat → Rec → Bool
  touches : State → Nat → Rec → Tx → Bool
  engine : Nat
  run : State → Nat → Nat → Rec → State
  hold : State → Nat → Rec → Bool := fun _ _ _ => false
  early : State → Nat → Rec → Except (State × Status × W64) State := fun s _ _ => .ok s

/-- The first reserved field of a record that is not zero, in fields given by word, lowest bit and width (R46, R49): the `DETAIL` that
names it by its word and the bit at which it lies (R58). -/
def reservedField (fs : List (Nat × Nat × Nat)) (r : Rec) : Option W64 :=
  (fs.find? (fun x => bitsOf (nth r.words x.1 0) x.2.1 x.2.2 != 0)).map (fun x => badField x.1 x.2.1)

/-- Whether a transaction stages a change to queue `q` (R68). -/
def State.txTouchesQueue (s : State) (t : Tx) (q : Nat) : Bool :=
  t.staged.any fun x =>
    (x.off == R.QE_Q_CTRL.at q || x.off == R.QE_Q_RING.at q) && mergeMask (s.reg x.off) x.value x.mask != s.reg x.off

/-- Whether a record of queue `q` touches a unit that a commit affects (R68): its queue, its job as a whole, the hot set for a stage, or what
its opcode names. -/
def State.recTouches (s : State) (c : CmdSpec) (q : Nat) (r : Rec) (t : Tx) : Bool :=
  s.txTouchesQueue t q || s.txTouchesJob t (s.queueJob q) || (r.opcode == 0x08 && s.txChanges t R.TR_CCACHE_CFG) || c.touches s q r t

/-- Whether a commit that waits for quiescence holds the record at step 6 (R68). A record that carries the commit's own handle is
answered at once (R67). -/
def State.heldByCommit (s : State) (c : CmdSpec) (q : Nat) (r : Rec) : Bool :=
  s.txs.any fun t => t.committing && r.tx != t.handle && s.recTouches c q r t

/-- Whether queue `q` may look at its head record at all: the device runs (R511, R537, R587), the queue is bound, its job is
not halted (R250), its port is not lost (R501), and a completion entry is free (R60). -/
def State.queueOpen (s : State) (q : Nat) : Bool :=
  s.running && s.bound q && !s.fb F.FLT_NAN_INFO_HALT (s.queueJob q) && !(decide (s.f F.QE_Q_CTRL_PORT q < 2) && s.portLost (s.f F.QE_Q_CTRL_PORT q)) &&
  decide (0 < s.cqFree q)

/-- Whether a wait is satisfied (R56). -/
def State.waitMet (s : State) (f : Nat) (v : Nat) : Bool := decide (v ≤ s.fenceValue f)

/-- The head record leaves the ring (R45). -/
def State.advanceHead (s : State) (q : Nat) : State :=
  let s := s.setF F.QE_Q_HEAD_HEAD_SEQ ((s.f F.QE_Q_HEAD_HEAD_SEQ q + 1) % 2 ^ 48) q
  s.setQueue q { s.queue q with head := .fresh }

/-! ## A `ROUTE` that fails before it runs (R351, R376) -/

/-- `LAYER`. -/
def Rec.routeLayer (r : Rec) : Nat := bitsOf r.w3 0 6
/-- `GROUP`. -/
def Rec.routeGroup (r : Rec) : Nat := bitsOf r.w3 6 4
/-- `PHASE`. -/
def Rec.routePhase (r : Rec) : Nat := bitsOf r.w3 10 2

/-- A group that holds no plan. -/
def RouteSt.fresh : RouteSt where
  key := none
  plan := none
  stage := 0
  draft := none
  flight := none
  since := 0
  sentAll := false
  ends := []
  sent := 0
  partial_ := []
  filled := []
  refused := none
  held := []

/-- What the Watershed unit holds for group `g`. -/
def State.route (s : State) (g : Nat) : RouteSt := mgetD s.wsu.groups g .fresh

/-- The state with a group replaced. -/
def State.setRoute (s : State) (g : Nat) (x : RouteSt) : State :=
  { s with wsu := { s.wsu with groups := mset s.wsu.groups g x } }

/-- Whether a group has a `ROUTE` that runs or waits for the unit. -/
def State.routeBusy (s : State) (g : Nat) : Bool := s.wsu.running == some g || s.wsu.waiting.any (fun x => x.1 == g)

/-- What a group holds without its plan (R351): the held messages stay. -/
def State.dropPlan (s : State) (g : Nat) : State := s.setRoute g { RouteSt.fresh with held := (s.route g).held }

/-- A group returned to `IDLE` without its plan (R351). -/
def State.discardPlan (s : State) (g : Nat) : State := (s.dropPlan g).setF F.WSU_G_STAT_PHASE 0 g

/-- A `ROUTE` of the job that owns its group completes with a failure before it runs (R351, R376): the status is recorded, and a phase
returns the group to `IDLE`. DESIGN CHOICE: while another `ROUTE` of the group runs or waits, that one keeps what it needs, and the
plan goes when it is over; the manual does not say what becomes of it. -/
def State.routeTurnedAway (s : State) (n : Nat) (r : Rec) (st : Status) : State :=
  let g := r.routeGroup
  if s.f F.WSU_G_CFG_OWNER_JOB g = n ∧ s.fb F.WSU_G_CFG_VALID g then
    let s := (s.setF F.WSU_G_STAT_LAST_STATUS st.code g).setF F.WSU_G_STAT_LAST_MEMBER 0 g
    if r.routePhase = 3 then s
    else if s.routeBusy g then (s.setRoute g { s.route g with key := none }).setF F.WSU_G_STAT_PHASE 0 g
    else s.discardPlan g
  else s

/-- What the end of a record that never ran changes beside its queue (R351). -/
def State.unrun (s : State) (q : Nat) (r : Rec) (st : Status) : State :=
  if r.opcode = 0x30 ∧ st ≠ .ok then s.routeTurnedAway (s.queueJob q) r st else s

/-- The head record completes without having started. -/
def State.headDone (s : State) (q : Nat) (r : Rec) (st : Status) (detail : W64 := 0) : State :=
  let seq := s.headSeq q
  ((s.unrun q r st).advanceHead q).finish q seq r st 0 detail

/-- The record with its `SIGNAL` bit clear. -/
def Rec.unsignalled (r : Rec) : Rec := { r with w0 := setBits r.w0 9 1 0 }

/-- The head record fails step 4 of R47: its completion alone reports it, and it signals nothing (R54). -/
def State.headUnfenced (s : State) (q : Nat) (r : Rec) : State := s.headDone q r.unsignalled .denied

/-- The head record's phase set. -/
def State.setHead (s : State) (q : Nat) (h : HeadPhase) : State := s.setQueue q { s.queue q with head := h }

/-- The shared engine of an opcode (R64): 1 data movers, 2 translation, 3 collective engine, 4 Meander, 5 Watershed,
6 sampler; 0 for none. -/
def engineOf : Nat → Nat
  | 0x08 | 0x10 | 0x11 => 1
  | 0x12 => 2
  | 0x20 => 3
  | 0x28 => 4
  | 0x30 => 5
  | _ => 0

/-- Whether the head record of queue `q` is ready for a shared engine: it waits for no fence, no barrier and no full ring. -/
def State.readyFor (s : State) (q e : Nat) : Bool :=
  match s.headRec q with
  | none => false
  | some r =>
    engineOf r.opcode == e && s.queueOpen q && !(r.barrier && !(s.queue q).flights.isEmpty) &&
    decide ((s.queue q).flights.length < 64) &&
    match (s.queue q).head with
    | .fresh => !r.wait || s.waitMet r.waitFence r.w1.toNat
    | .ready => true
    | _ => false

/-- Whether it is the turn of queue `q` on a shared engine (R64): no LC queue is ready where `q` is BE, and in its class no
ready queue comes before it in the round that starts after the queue last served. -/
def State.turn (s : State) (q e : Nat) : Bool :=
  e == 0 || (
    let cls := s.f F.QE_Q_CTRL_CLASS q
    let last := mgetD s.turns (2 * e + cls) 4095
    let key := fun x => (x + 4095 - last) % 4096
    (s.queues.map (fun x => x.1)).all fun x =>
      x == q || !s.readyFor x e ||
      (decide (cls ≤ s.f F.QE_Q_CTRL_CLASS x) && (s.f F.QE_Q_CTRL_CLASS x != cls || decide (key q < key x))))

/-- The head record leaves the ring and is in flight (R45, R47, R64): the turn of the shared engine it uses, if any, passes on. -/
def State.takeHead (s : State) (q e : Nat) (r : Rec) : State :=
  let seq := s.headSeq q
  let t := s.advanceHead q
  let t := t.setQueue q { t.queue q with flights := (t.queue q).flights ++
    [{ seq := seq, cmd := r, start := t.now, entry := 0, bytes := 0, phase := 0, fail := none, degraded := false }] }
  if e = 0 then t else { t with turns := mset t.turns (2 * e + t.f F.QE_Q_CTRL_CLASS q) q }

/-- Whether the head record of queue `q` has passed step 6 and cannot start yet (R57): behind a barrier, 64 records in flight, what its
opcode waits for, or the turn of another queue (R64). -/
def State.startHeld (c : CmdSpec) (s : State) (q : Nat) (r : Rec) : Bool :=
  let x := s.queue q
  (r.barrier && !x.flights.isEmpty) || decide (64 ≤ x.flights.length) || c.hold s q r || !s.turn q c.engine

/-- Whether the head record of queue `q` stays ready: at step 6 for a commit (R68), or past it. -/
def State.headHeld (c : CmdSpec) (s : State) (q : Nat) (r : Rec) : Bool := s.heldByCommit c q r || s.startHeld c q r

/-- Steps 6 and 7 of R47 for the head record: it stays ready while a commit holds it (R68); it completes `DENIED` without ownership; it
stays ready while something else keeps it from starting; otherwise it starts. -/
def State.startHead (c : CmdSpec) (s : State) (q : Nat) (r : Rec) : State :=
  if s.heldByCommit c q r then s.setHead q .ready
  else if !c.owns s q r then s.headDone q r .denied
  else if s.startHeld c q r then s.setHead q .ready
  else c.run (s.takeHead q c.engine r) q (s.headSeq q) r

/-- The second wait of a `FENCE_WAIT` (R56), then steps 6 and 7. -/
def State.opWait (c : CmdSpec) (s : State) (q : Nat) (r : Rec) : State :=
  if r.opcode = 0x03 then
    if s.waitMet (bitsOf r.w3 0 16) r.w4.toNat then
      if s.fenceErr (bitsOf r.w3 0 16) then s.headDone q r .fenced else s.startHead c q r
    else s.setHead q (.waitOp s.now)
  else s.startHead c q r

/-- Step 5 of R47 on `WAIT_FENCE` (R56), then the rest. -/
def State.firstWait (c : CmdSpec) (s : State) (q : Nat) (r : Rec) : State :=
  if r.wait then
    if s.waitMet r.waitFence r.w1.toNat then
      if s.fenceErr r.waitFence then s.headDone q r .fenced else s.opWait c q r
    else s.setHead q (.waitFence s.now)
  else s.opWait c q r

/-- Whether the fences a record names lie in its job's range (step 4). -/
def State.fencesOwned (s : State) (c : CmdSpec) (q : Nat) (r : Rec) : Bool :=
  let n := s.queueJob q
  (!r.wait || s.ownsFence n r.waitFence) && (!r.signal || s.ownsFence n r.signalFence) &&
  match c.opFence r with
  | some f => s.ownsFence n f
  | none => true

/-- A record's job consumed a poisoned record (R525): it completes `POISONED` with one fault. -/
def State.poisonedHead (s : State) (q : Nat) (r : Rec) : State :=
  let n := s.queueJob q
  let d := s.faultDetail 0x4407
  (s.fault 0x4407 .job n n (some (q, s.headSeq q))).headDone q r .poisoned d

/-- The head record of an open queue taken through the steps of R47 from where it stands. A record that waits at step 5
stays where it is: `WAIT_SATISFIED` and `WAIT_TIMEOUT` move it. -/
def State.headStep (c : CmdSpec) (s : State) (q : Nat) (r : Rec) : State :=
  match (s.queue q).head with
  | .fresh =>
    if s.headPoisoned q then s.poisonedHead q r
    else if !c.present s r then s.headDone q r .absent
    else match reservedField [(0, 14, 2)] r with
      | some d => s.headDone q r .badCommand d
      | none =>
        if !c.takesTx && r.tx != 0 then s.headDone q r .badCommand (badField 0 16)
        else match c.encoding s (s.queueJob q) r with
          | some d => s.headDone q r .badCommand d
          | none => match c.early s q r with
            | .error (t, st, d) => t.headDone q r st d
            | .ok t => if t.fencesOwned c q r then t.firstWait c q r else t.headUnfenced q r
  | .ready => s.startHead c q r
  | _ => s

/-- The queue engine looks at the head record of queue `q` for a command of the given kind: the record runs through the
steps of R47 where it is of that kind; otherwise nothing happens. -/
def State.queueCommand (c : CmdSpec) (kind : Rec → Bool) (s : State) (q : Nat) : State :=
  match s.headRec q with
  | none => s
  | some r => if s.queueOpen q && kind r then s.headStep c q r else s

/-! ## NOP, FENCE_SIGNAL, FENCE_WAIT -/

/-- A command that completes `OK` as soon as it runs and names nothing. -/
def CmdSpec.plain (resv : List (Nat × Nat × Nat)) (run : State → Nat → Nat → Rec → State) : CmdSpec where
  present := fun _ _ => true
  encoding := fun _ _ r => reservedField resv r
  takesTx := false
  opFence := fun _ => none
  owns := fun _ _ _ => true
  touches := fun _ _ _ _ => false
  engine := 0
  run := run

/-- `NOP` (R49). -/
def specNop : CmdSpec :=
  .plain [(3, 0, 64), (4, 0, 64), (5, 0, 64), (6, 0, 64)] (fun s q seq _ => s.finishFlight q seq .ok)

/-- `FENCE_SIGNAL` (R49, R55). -/
def specFenceSignal : CmdSpec :=
  { CmdSpec.plain [(3, 18, 46), (5, 0, 64), (6, 0, 64)] (fun s q seq r =>
      (s.signal (s.queueJob q) (bitsOf r.w3 0 16) r.w4.toNat (bitOf r.w3 16) false (bitOf r.w3 17)).finishFlight q seq .ok)
    with opFence := fun r => some (bitsOf r.w3 0 16) }

/-- `FENCE_WAIT` (R49, R56): once its wait is satisfied it completes `OK`. -/
def specFenceWait : CmdSpec :=
  { CmdSpec.plain [(3, 16, 48), (6, 0, 64)] (fun s q seq _ => s.finishFlight q seq .ok)
    with opFence := fun r => some (bitsOf r.w3 0 16) }

/-- The opcodes that the table of R49 and the engine chapters define. -/
def definedOpcode (o : Nat) : Bool :=
  [0x01, 0x02, 0x03, 0x04, 0x05, 0x06, 0x08, 0x09, 0x0A, 0x0B, 0x10, 0x11, 0x12, 0x14, 0x20, 0x28, 0x30, 0x38, 0x39, 0x3A,
   0x3B, 0x40, 0x41].contains o

/-- A record of an undefined opcode (R47, step 1): it completes `BAD_COMMAND` naming its `OPCODE`. -/
def State.undefinedHead (s : State) (q : Nat) (r : Rec) : State :=
  if s.headPoisoned q then s.poisonedHead q r else s.headDone q r .badCommand (badField 0 0)

/-- `WINDOW_WRITE` (R41). -/
def execWindowWrite (o : Origin) (q : QId) (off : BitVec 18) (bs : List Byte) (s : State) :
    Host.Outcome State Fault Refusal :=
  .next (s.windowBytes o q.val off.toNat bs)

/-- `SEAL` (R43): the seal word of a slot, under the rules of R41 for the write that carries it. -/
def execSeal (o : Origin) (q : QId) (slot : BitVec 12) (w : W64) (s : State) : Host.Outcome State Fault Refusal :=
  .next (if s.windowOpen o q.val then s.sealSlot q.val slot.toNat w else s.reject q.val 6)

/-- `NOP` (R49). A record of an undefined opcode is taken here too (R47, step 1). -/
def execNop (q : QId) (s : State) : Host.Outcome State Fault Refusal :=
  .next (match s.headRec q.val with
    | some r =>
      if s.queueOpen q.val && !definedOpcode r.opcode then s.undefinedHead q.val r
      else s.queueCommand specNop (fun r => r.opcode == 0x01) q.val
    | none => s)

/-- `FENCE_SIGNAL` (R55). -/
def execFenceSignal (q : QId) (s : State) : Host.Outcome State Fault Refusal :=
  .next (s.queueCommand specFenceSignal (fun r => r.opcode == 0x02) q.val)

/-- `FENCE_WAIT` (R56). -/
def execFenceWait (q : QId) (s : State) : Host.Outcome State Fault Refusal :=
  .next (s.queueCommand specFenceWait (fun r => r.opcode == 0x03) q.val)

/-- The limit of the wait at the head of queue `q` and the fence and value it is for: the fence, the value, the tick at which
it reaches its limit (R56). -/
def State.headWait (s : State) (q : Nat) : Option (Nat × Nat × Nat) :=
  match s.headRec q with
  | none => none
  | some r =>
    let lim := 2 ^ s.f F.QE_Q_CTRL_WAIT_LOG2 q
    match (s.queue q).head with
    | .waitFence t => some (r.waitFence, r.w1.toNat, t + lim)
    | .waitOp t => some (bitsOf r.w3 0 16, r.w4.toNat, t + (if r.w5 = 0 then lim else r.w5.toNat))
    | _ => none

/-- `WAIT_TIMEOUT` (R56): the wait at the head of queue `q` has reached its limit with the value still short. -/
def execWaitTimeout (q : QId) (s : State) : Host.Outcome State Fault Refusal :=
  .next (match s.headRec q.val, s.headWait q.val with
    | some r, some (f, v, t) =>
      if s.queueOpen q.val && decide (t ≤ s.now) && !s.waitMet f v then s.headDone q.val r .timeout else s
    | _, _ => s)

/-- `IRQ_DELAY_EXPIRY` (R61): `DELAY` µs after the oldest unreported completion, the vector is raised. -/
def execIrqDelayExpiry (q : QId) (s : State) : Host.Outcome State Fault Refusal :=
  let x := s.queue q.val
  .next (if s.fb F.QE_Q_IRQ_EN q.val && decide (0 < x.unraised) &&
      decide (x.oldest + 1000 * s.f F.QE_Q_IRQ_DELAY q.val ≤ s.now) then s.queueRaise q.val else s)

end Sys2Proof.Machine
end

