-- ==== Sys2Proof/Machine/CastImage.lean ====
section
/-! DEFINITION. Cast images: header, directory and records (R107 to R109), the encodings of unit programs, slot tables and
channel descriptors (R139, R140, R262 to R278), and the checks of staging (R113, R279 to R281). -/

namespace Sys2Proof.Machine

/-! ## Header (R107) -/

/-- Word `i` of a list of words. -/
def wordAt (ws : List W64) (i : Nat) : W64 := nth ws i 0

/-- Field of word `i`. -/
def wordField (ws : List W64) (i lo w : Nat) : Nat := bitsOf (wordAt ws i) lo w

/-- `MAGIC`. -/
def castMagic : W64 := leWord [0x46#8, 0x5A#8, 0x32#8, 0x43#8, 0x41#8, 0x53#8, 0x54#8, 0x00#8]

/-- `DALE_COUNT`. -/
def hdrCount (h : List W64) : Nat := wordField h 1 16 8
/-- `SADDLE_AT`. -/
def hdrSaddleAt (h : List W64) : Nat := wordField h 1 24 8
/-- `REQ_UNITS`. -/
def hdrReqUnits (h : List W64) : Nat := wordField h 1 32 32
/-- `STEP_TICKS`. -/
def hdrStepTicks (h : List W64) : Nat := (wordAt h 2).toNat
/-- `SKEW_SADDLE`. -/
def hdrSkew (h : List W64) : Nat := wordField h 4 0 16
/-- `NUM_MODE` bit 0: `RECORD`. -/
def hdrRecord (h : List W64) : Bool := bitOf (wordAt h 4) 32
/-- `NUM_MODE` bit 1: stochastic rounding permitted. -/
def hdrStochastic (h : List W64) : Bool := bitOf (wordAt h 4) 33
/-- First byte of the footprint in each MU (R110). -/
def hdrFootFrom (h : List W64) : Nat := 4096 * wordField h 5 0 32
/-- End of the footprint. -/
def hdrFootTo (h : List W64) : Nat := 4096 * (wordField h 5 0 32 + wordField h 5 32 32)
/-- `CAST_ID`. -/
def hdrCastId (h : List W64) : W64 := wordAt h 6
/-- `IMAGE_BYTES`. -/
def hdrBytes (h : List W64) : Nat := (wordAt h 7).toNat
/-- `ARG_COUNT`. -/
def hdrArgs (h : List W64) : Nat := wordField h 10 0 32
/-- `DIGEST`. -/
def hdrDigest (h : List W64) : List Byte := wordsBytes ((h.drop 16).take 8)

/-- The report of a failed stage (R279): check code, relative Dale, section, index and word. -/
structure CheckFail where
  check : Nat
  rel : Nat
  sect : Nat
  index : Nat
  word : Nat
  deriving DecidableEq, Repr

/-- `RESULT` of a failed stage (R279). -/
def CheckFail.result (x : CheckFail) : W64 :=
  let v := setBits (0x1FF : W64) 16 8 x.check
  let v := setBits v 24 5 x.rel
  let v := setBits v 29 3 x.sect
  let v := setBits v 32 6 x.index
  setBits v 38 15 x.word

/-- Whether the Dales of a cast lie as its `SADDLE_AT` says (R107, R113). -/
def saddleFits (first count at_ : Nat) : Bool :=
  if at_ = 255 then decide (first + count ≤ 16 ∨ 16 ≤ first)
  else decide (0 < at_ ∧ at_ < count ∧ first + at_ = 16)

/-- Check 3 of R113: the first header word at fault, with its check code and the `DETAIL` of R58: a disagreement with an operand names
that operand field, any other fault `OP0`. -/
def headerFault (h : List W64) (first count len : Nat) : Option (Nat × Nat × W64) :=
  let bad := fun (c : Bool) (w k : Nat) (d : W64) => if c then [(w, k, d)] else []
  let own := badField 3 0
  (bad (hdrCount h != count) 1 0x02 (badField 4 8) ++
   bad (decide (32 < first + count) || !saddleFits first count (hdrSaddleAt h)) 1 0x02 (badField 4 0) ++
   bad (hdrReqUnits h / 16 != 0) 1 0x04 own ++
   bad (hdrStepTicks h == 0) 2 0x02 own ++
   bad (wordField h 4 34 30 != 0) 4 0x04 own ++
   bad (decide (255 < wordField h 5 0 32) || wordField h 5 32 32 == 0 ||
        decide (256 < wordField h 5 0 32 + wordField h 5 32 32)) 5 0x02 own ++
   bad (hdrBytes h != len) 7 0x02 (badField 5 0) ++
   bad (decide (0x100000 * hdrCount h < (wordAt h 9).toNat)) 9 0x02 own ++
   bad (decide (255 < hdrArgs h)) 10 0x02 own ++
   bad (wordField h 10 32 32 != 0) 10 0x04 own ++
   (List.range 5).flatMap (fun i => bad (wordAt h (11 + i) != 0) (11 + i) 0x04 own) ++
   (List.range 8).flatMap (fun i => bad (wordAt h (24 + i) != 0) (24 + i) 0x04 own)).head?

/-! ## Units and sites (R109, R130 to R132) -/

/-- The site of the compute unit (`mu = false`) or memory unit with local index `k`. -/
def siteOf (mu : Bool) (k : Nat) : Nat :=
  let col := k / 16 % 2
  32 * col + 2 * (k % 16) + (if mu then 1 - col else col)

/-- Whether a site carries a compute unit. -/
def siteIsCu (site : Nat) : Bool := (site % 32 + site / 32) % 2 == 0

/-- The local index of the unit at a site. -/
def siteLocal (site : Nat) : Nat := 16 * (site / 32) + site % 32 / 2

/-- The neighbour of a site of a Dale in a direction (0 N, 1 E, 2 S, 3 W): its Dale and site. -/
def neighbour (dale site dir : Nat) : Option (Nat × Nat) :=
  let row := site % 32
  let col := 2 * dale + site / 32
  let at_ := fun (r c : Nat) => some (c / 2, 32 * (c % 2) + r)
  match dir with
  | 0 => if row = 0 then none else at_ (row - 1) col
  | 1 => if col = 63 then none else at_ row (col + 1)
  | 2 => if row = 31 then none else at_ (row + 1) col
  | _ => if col = 0 then none else at_ row (col - 1)

/-! ## Channel descriptors (R139, R140) -/

/-- An endpoint (R140). -/
structure Endpoint where
  rel : Nat
  site : Nat
  port : Nat
  kind : Nat
  deriving DecidableEq, Repr

/-- The endpoint that 16 bits code. -/
def Endpoint.ofNat (v : Nat) : Endpoint := { rel := v % 32, site := v / 32 % 64, port := v / 2048 % 8, kind := v / 16384 % 4 }

/-- A channel descriptor (R139). -/
structure Chan where
  spill : Bool
  ctrl : Bool
  tagOp : Nat
  window : Nat
  slots : Nat
  src : Endpoint
  spillBind : Nat
  spillOff : Nat
  spillGroups : Nat
  dests : List Endpoint
  deriving DecidableEq, Repr

/-- The descriptor that 8 words hold. -/
def Chan.ofWords (ws : List W64) : Chan where
  spill := bitOf (wordAt ws 0) 1
  ctrl := bitOf (wordAt ws 0) 2
  tagOp := wordField ws 0 3 2
  window := wordField ws 0 5 6 + 1
  slots := wordField ws 0 11 16
  src := .ofNat (wordField ws 0 32 16)
  spillBind := wordField ws 1 0 8
  spillOff := wordField ws 1 16 40
  spillGroups := wordField ws 2 0 32
  dests := (List.range (wordField ws 0 27 4 + 1)).map (fun i => .ofNat (wordField ws (4 + i / 4) (16 * (i % 4)) 16))

/-! ## Slot tables (R277, R278) -/

/-- Entry of target `t` in slot `j`: source code, channel and owner, where it is valid. -/
def slotEntry (tab : List W64) (t j : Nat) : Option (Nat × Nat × Nat) :=
  let i := 16 * t + j
  let v := wordField tab (8 + i / 2) (32 * (i % 2)) 32
  if v / 16 % 2 = 1 then some (v % 16, v / 32 % 4096, v / 131072 % 32) else none

/-- `MODE` of a steering element. -/
def steerMode (tab : List W64) (e : Nat) : Nat := wordField tab e 0 2

/-- `GROUP` of a steering element. -/
def steerGroup (tab : List W64) (e : Nat) : Nat := wordField tab e 2 6 + 1

/-! ## Compute-unit programs (R262 to R269) -/

/-- Whether word `i` begins an instruction, counting `MM` as two words. -/
def cuStartsFrom : List W64 → Nat → Bool → List Nat
  | [], _, _ => []
  | w :: t, i, second =>
    if second then cuStartsFrom t (i + 1) false
    else i :: cuStartsFrom t (i + 1) (bitsOf w 0 8 == 0x10)

/-- The first words of the instructions of a stage program. -/
def cuStarts (ws : List W64) : List Nat := cuStartsFrom (ws.drop 2) 2 false

/-- The stage opcodes of R264. -/
def cuOpcodes : List Nat :=
  [0x00, 0x01, 0x02, 0x03, 0x04, 0x05, 0x10, 0x11, 0x12, 0x13, 0x14, 0x18, 0x19, 0x20, 0x21, 0x22, 0x23, 0x24, 0x25, 0x26,
   0x27, 0x28, 0x29, 0x2A, 0x2B, 0x2C, 0x2D, 0x30]

/-- The bits of an instruction word that must be zero, as (lowest bit, width), by opcode (R265 to R269). -/
def cuZero (op : Nat) : List (Nat × Nat) :=
  match op with
  | 0x00 => [(8, 56)]
  | 0x01 => [(12, 52)]
  | 0x02 | 0x03 => [(20, 44)]
  | 0x04 => [(34, 30)]
  | 0x05 => [(22, 42)]
  | 0x10 => [(62, 2)]
  | 0x11 => [(37, 27)]
  | 0x12 => [(35, 29)]
  | 0x13 => [(8, 8), (36, 28)]
  | 0x14 => [(8, 8), (42, 22)]
  | 0x18 => [(8, 3), (23, 41)]
  | 0x19 => [(8, 8), (29, 35)]
  | 0x29 => [(22, 12), (38, 1), (56, 8)]
  | 0x2D => [(8, 3), (16, 16)]
  | 0x2C => [(47, 1)]
  | 0x30 => [(11, 5), (22, 12), (45, 1), (48, 16)]
  | 0x27 => [(14, 2), (39, 4), (47, 1)]
  | _ => [(39, 4), (47, 1)]

/-- Whether a source code is usable: a register or the immediate, or a port for `MOV` (R265). -/
def cuSourceOk (mov : Bool) (v : Nat) : Bool := decide (v < 32) || v == 40 || (mov && decide (v < 40))

/-- Elements of k that a step count must be a multiple of (R176). -/
def kMultiple (f : Nat) : Nat := match f with
  | 1 | 2 => 2
  | 7 | 9 => 8
  | 5 | 6 => 16
  | _ => 4

/-- Whether two operand formats pair (R175). -/
def pairs (a b : Nat) : Bool :=
  (decide (3 ≤ a ∧ a ≤ 7) && decide (3 ≤ b ∧ b ≤ 7)) || (isInt a && isInt b) || (a == 1 && b == 1) || (a == 2 && b == 2)
where
  /-- An integer format. -/
  isInt (f : Nat) : Bool := f == 8 || f == 9

/-- Scale bytes of a B operand (R179). -/
def bScales (k l : Nat) (across : Bool) : Nat := if l = 0 then 0 else if across then k * max 1 (64 / l) else 64 * ceilDiv k l

/-- Scale bytes of an A operand (R176): 16 for each block along K, or one for each L rows at each k. -/
def aScales (k l : Nat) (across : Bool) : Nat := if l = 0 then 0 else if across then k * max 1 (16 / l) else 16 * ceilDiv k l

/-- The check of the second word of an `MM`, whose first word is `w` (R268, R236, R179). -/
def mmSecondCheck (w v : W64) : Option Nat :=
  let f := fun lo n => bitsOf w lo n
  let g := fun lo n => bitsOf v lo n
  let s := 2 ^ f 15 3
  let k := f 38 13
  let la := blkLen (g 0 3)
  let lb := blkLen (g 27 3)
  let narrow := f 18 4 == 1 || f 18 4 == 2
  if g 51 13 ≠ 0 ∨ 5 < g 0 3 ∨ 5 < g 27 3 then some 0x04
  else if 8192 < g 32 13 + bScales k lb (g 30 1 == 1) ∨ (f 26 1 = 1 ∧ 8192 < g 8 13 + aScales k la (g 3 1 == 1)) then some 0x0A
  else if (narrow && (la != 0 || lb != 0)) || (g 3 1 == 1 && decide (16 < la)) ||
      (g 3 1 == 0 && la != 0 && decide (la < s)) || (g 30 1 == 0 && lb != 0 && decide (lb < s)) then some 0x0B
  else none

/-- The check of the first word of an instruction by itself: reserved bits, registers, formats, ranges (codes 0x03 to 0x0C). -/
def cuInstrCheck (stochastic : Bool) (w : W64) : Option Nat :=
  let op := bitsOf w 0 8
  let f := fun lo n => bitsOf w lo n
  if !cuOpcodes.contains op then some 0x03
  else if (cuZero op).any (fun x => f x.1 x.2 != 0) then some 0x04
  else match op with
    | 0x01 => if f 8 4 = 0 ∨ 8 < f 8 4 then some 0x04 else none
    | 0x10 =>
      let s := 2 ^ f 15 3
      let a := f 18 4
      let b := f 22 4
      let k := f 38 13
      if 4 < f 15 3 ∨ (f 26 1 = 0 ∧ f 30 8 ≠ 0) then some 0x04
      else if !pairs a b then some 0x08
      else if k = 0 ∨ 4096 < k ∨ k % s ≠ 0 ∨ (k / s) % kMultiple a ≠ 0 then some 0x09
      else if 131072 < 64 * f 51 11 + k * 8 * fmtBits b ∨ (f 26 1 = 1 ∧ 131072 < 64 * f 27 11 + k / s * 2 * fmtBits a) then some 0x0A
      else none
    | 0x11 => if f 25 12 = 0 ∨ 2048 < f 25 12 then some 0x04 else if 2048 < f 14 11 + f 25 12 then some 0x0A else none
    | 0x12 =>
      if f 27 8 = 0 ∨ 128 < f 27 8 then some 0x04
      else if f 14 13 % 64 ≠ 0 ∨ 8192 < f 14 13 + 64 * f 27 8 then some 0x0A else none
    | 0x13 => if 31 < f 16 6 ∨ f 33 3 = 0 ∨ 4 < f 33 3 then some 0x04 else if 2048 < f 22 11 + f 33 3 then some 0x0A else none
    | 0x14 => if 31 < f 16 6 ∨ f 35 7 = 0 ∨ 64 < f 35 7 then some 0x04 else if 8192 < f 22 13 + f 35 7 then some 0x0A else none
    | 0x19 => if 31 < f 16 6 then some 0x04 else none
    | 0x29 =>
      let fm := f 39 4
      if 31 < f 16 6 ∨ fm = 0 ∨ 9 < fm ∨ 5 < f 44 3 then some 0x04
      else if f 47 1 = 1 ∨ ((fm = 1 ∨ fm = 2) ∧ f 44 3 ≠ 0) ∨ (f 49 1 = 1 ∧ !stochastic) then some 0x0B
      else if f 44 3 ≠ 0 ∧ (if f 43 1 = 0 then f 11 5 else f 16 6) = 31 then some 0x0C
      else none
    | 0x30 =>
      if 31 < f 16 6 ∨ 10 < f 39 4 then some 0x04
      else if f 46 1 = 1 ∧ f 16 6 = 31 then some 0x0C
      else none
    | 0x2C =>
      if !cuSourceOk true (f 16 6) ∨ 10 < f 39 4 ∨ ((f 16 6 < 32 ∨ f 16 6 = 40) ∧ (f 39 4 ≠ 0 ∨ f 46 1 ≠ 0)) then some 0x04
      else if f 46 1 = 1 ∧ f 11 5 = 31 then some 0x0C
      else none
    | 0x2B => if f 43 3 = 0 ∨ 4 < f 43 3 then some 0x04 else none
    | 0x2A => if !cuSourceOk false (f 16 6) ∨ 1 < f 43 3 then some 0x04 else none
    | 0x27 => if !cuSourceOk false (f 16 6) ∨ !cuSourceOk false (f 22 6) ∨ 3 < f 43 3 then some 0x04 else none
    | 0x22 => if !cuSourceOk false (f 16 6) ∨ !cuSourceOk false (f 22 6) ∨ !cuSourceOk false (f 28 6) then some 0x04 else none
    | 0x20 | 0x21 | 0x26 | 0x28 => if !cuSourceOk false (f 16 6) ∨ !cuSourceOk false (f 22 6) then some 0x04 else none
    | 0x23 | 0x24 | 0x25 => if !cuSourceOk false (f 16 6) then some 0x04 else none
    | _ => none

/-- The bank an instruction names. -/
def cuBankOf (w : W64) : Option Nat :=
  match bitsOf w 0 8 with
  | 0x10 => some (bitsOf w 12 3)
  | 0x18 => some (bitsOf w 16 3)
  | 0x19 => some (bitsOf w 22 3)
  | 0x2B => some (bitsOf w 16 3)
  | _ => none

/-- The input port that the second word of an `MM` names. -/
def mmScalePort (w v : W64) : List Nat := if bitsOf w 26 1 = 0 ∧ bitsOf v 0 3 ≠ 0 then [bitsOf v 5 3] else []

/-- The input ports that the first word of an instruction names. -/
def cuWordPorts (w : W64) : List Nat :=
  match bitsOf w 0 8 with
  | 0x10 => if bitsOf w 26 1 = 0 then [bitsOf w 27 3] else []
  | 0x11 | 0x12 => [bitsOf w 11 3]
  | 0x2C => if 32 ≤ bitsOf w 16 6 ∧ bitsOf w 16 6 < 40 then [bitsOf w 16 6 - 32] else []
  | _ => []

/-- The input ports an instruction names. -/
def cuInPorts (w v : W64) : List Nat := cuWordPorts w ++ if bitsOf w 0 8 = 0x10 then mmScalePort w v else []

/-- The output port an instruction names. -/
def cuOutPorts (w : W64) : List Nat := if bitsOf w 0 8 = 0x30 then [bitsOf w 37 2] else []

/-- The target an instruction names. -/
def cuTargetOf (w : W64) : Option Nat :=
  match bitsOf w 0 8 with
  | 0x02 | 0x03 => some (bitsOf w 8 12)
  | 0x05 => some (bitsOf w 10 12)
  | _ => none

/-- The instructions that may follow the one at `i`. -/
def cuNextOf (ws : List W64) (i : Nat) : List Nat :=
  let w := wordAt ws i
  match bitsOf w 0 8 with
  | 0x00 => []
  | 0x02 => [bitsOf w 8 12]
  | 0x03 => [bitsOf w 8 12, i + 1]
  | 0x05 => [bitsOf w 10 12, i + 1]
  | 0x10 => [i + 2]
  | _ => [i + 1]

/-- The instructions reached from a worklist; `fuel` bounds the number of visits. -/
def cuReach (ws : List W64) : Nat → List Nat → List Nat → List Nat
  | 0, _, seen => seen
  | _, [], seen => seen
  | fuel + 1, i :: t, seen => if seen.contains i then cuReach ws fuel t seen else cuReach ws fuel (cuNextOf ws i ++ t) (i :: seen)

/-- `TASKS` of a stage program. -/
def cuTasks (ws : List W64) : Nat := wordField ws 0 0 4
/-- The owner of a bank. -/
def cuBankTask (ws : List W64) (b : Nat) : Nat := wordField ws 0 (8 + 3 * b) 3
/-- `ENTRY_t`. -/
def cuEntry (ws : List W64) (t : Nat) : Nat := wordField ws 1 (16 * t) 12

/-- Checks of a stage program (R262 to R270): the first word at fault with its code. `bound` tells how many channels end at an
input port and begin at an output port. -/
def cuCheck (stochastic : Bool) (boundIn boundOut : Nat → Nat) (ws : List W64) : Option (Nat × Nat) :=
  let starts := cuStarts ws
  let tasks := (List.range 4).filter (fun t => (cuTasks ws).testBit t)
  let reach := tasks.map (fun t => (t, cuReach ws (4 * ws.length + 4) [cuEntry ws t] []))
  let head0 : Option Nat :=
    if wordField ws 0 4 4 ≠ 0 ∨ wordField ws 0 32 32 ≠ 0 then some 0x04
    else if tasks.isEmpty || (List.range 8).any (fun b => decide (3 < cuBankTask ws b ∧ cuBankTask ws b ≠ 7)) ||
        tasks.any (fun t => (List.range 8).all (fun b => cuBankTask ws b != t)) then some 0x06
    else none
  let head1 : Option Nat :=
    if (List.range 4).any (fun t => wordField ws 1 (16 * t + 12) 4 != 0) then some 0x04
    else if (List.range 4).any (fun t =>
        if (cuTasks ws).testBit t then !starts.contains (cuEntry ws t) else cuEntry ws t != 0) then some 0x05
    else none
  let at_ := fun (i : Nat) =>
    let w := wordAt ws i
    let v := wordAt ws (i + 1)
    let second := fun (_ : Unit) =>
      if bitsOf w 0 8 ≠ 0x10 then none
      else match mmSecondCheck w v with
        | some c => some (i + 1, c)
        | none => if (mmScalePort w v).any (fun p => boundIn p != 1) then some (i + 1, 0x07) else none
    match cuInstrCheck stochastic w with
    | some c => some (i, c)
    | none =>
      if (cuTargetOf w).any (fun t => !starts.contains t) then some (i, 0x05)
      else if (cuBankOf w).any (fun b => reach.any (fun x => x.2.contains i && cuBankTask ws b != x.1)) then some (i, 0x06)
      else if (cuWordPorts w).any (fun p => boundIn p != 1) || (cuOutPorts w).any (fun p => boundOut p != 1) then some (i, 0x07)
      else second ()
  match head0, head1 with
  | some c, _ => some (0, c)
  | none, some c => some (1, c)
  | none, none =>
    match starts.findSome? at_ with
    | some x => some x
    | none =>
      let last := (starts.getLast?).getD 0
      let op := bitsOf (wordAt ws last) 0 8
      if last + 1 = ws.length ∧ (op = 0x00 ∨ op = 0x02) then none else some (ws.length - 1, 0x14)

/-! ## Memory-unit programs (R271 to R276) -/

/-- `ENTRY_a`. -/
def muEntry (ws : List W64) (a : Nat) : Nat := wordField ws 0 (9 * a) 9
/-- Whether generator `a` has a program. -/
def muUsed (ws : List W64) (a : Nat) : Bool := bitOf (wordAt ws 0) (51 + a)
/-- The generator that holds read port `p`. -/
def muReadPort (ws : List W64) (p : Nat) : Nat := wordField ws 0 (36 + 3 * p) 3
/-- The generator that holds write port `p`. -/
def muWritePort (ws : List W64) (p : Nat) : Nat := wordField ws 0 (45 + 3 * p) 3
/-- The declaration word of ring `r`. -/
def muRing (ws : List W64) (r : Nat) : W64 := wordAt ws (1 + r)

/-- A ring declaration (R227, R272). -/
structure RingDecl where
  base : Nat
  lines : Nat
  slots : Nat
  keep : Bool
  producer : Nat
  extWport : Nat
  twoCons : Bool
  valid : Bool
  prodAg : Nat
  cons0Ag : Nat
  cons1Ag : Nat
  cons0Ext : Bool
  cons1Ext : Bool
  deriving DecidableEq, Repr

/-- The declaration that a word holds. -/
def RingDecl.ofWord (w : W64) : RingDecl where
  base := bitsOf w 0 14
  lines := bitsOf w 14 10 + 1
  slots := bitsOf w 24 7
  keep := bitOf w 31
  producer := bitsOf w 32 2
  extWport := bitsOf w 34 1
  twoCons := bitOf w 35
  valid := bitOf w 36
  prodAg := bitsOf w 37 2
  cons0Ag := bitsOf w 39 2
  cons1Ag := bitsOf w 41 2
  cons0Ext := bitOf w 43
  cons1Ext := bitOf w 44

/-- Words of a stream instruction (R273). -/
def muLen (w : W64) : Nat :=
  match bitsOf w 0 4 with
  | 1 | 2 | 3 => 2 + bitsOf w 4 3
  | 4 | 5 => 2
  | _ => 1

/-- The first words of a generator's instructions from a word to its `END`; `fuel` bounds their number. -/
def muStarts (ws : List W64) : Nat → Nat → List Nat
  | 0, _ => []
  | fuel + 1, i =>
    if ws.length ≤ i then []
    else if bitsOf (wordAt ws i) 0 4 = 0 then [i]
    else i :: muStarts ws fuel (i + muLen (wordAt ws i))

/-- The first words of the instructions that a store holds from a word on, one after another; `fuel` bounds their number. -/
def muWordStarts (ws : List W64) : Nat → Nat → List Nat
  | 0, _ => []
  | fuel + 1, i => if ws.length ≤ i then [] else i :: muWordStarts ws fuel (i + muLen (wordAt ws i))

/-- The instructions of generator `a`. -/
def muProgram (ws : List W64) (a : Nat) : List Nat := if muUsed ws a then muStarts ws 512 (muEntry ws a) else []

/-- The ring an instruction names: its number, or none; codes 1 to 3 name an undeclared one. -/
def muRingOf (w : W64) : Option Nat :=
  let v := if bitsOf w 0 4 = 4 ∨ bitsOf w 0 4 = 5 then bitsOf w 37 3 else bitsOf w 26 3
  if v = 0 then none else some (if 4 ≤ v then v - 4 else 4)

/-- One loop level of an affine stream (R207, R273). -/
structure Level where
  n : Nat
  stride : Int
  dim : Nat
  mult : Nat
  deriving DecidableEq, Repr

/-- The level that a word holds; the stride is in bytes. -/
def Level.ofWord (w : W64) : Level :=
  { n := bitsOf w 0 16 + 1, stride := 64 * signedOf 16 (bitsOf w 16 16), dim := bitsOf w 32 2, mult := bitsOf w 34 16 }

/-- The levels of the affine stream at word `i`. -/
def muLevels (ws : List W64) (i : Nat) : List Level :=
  (List.range (bitsOf (wordAt ws i) 4 3)).map (fun l => .ofWord (wordAt ws (i + 2 + l)))

/-- The least and the greatest byte offset that a nest can form. -/
def nestSpan (ls : List Level) : Int × Int :=
  ls.foldl (fun (a : Int × Int) l =>
    let d : Int := l.stride * ((l.n - 1 : Nat) : Int)
    if d < 0 then (a.1 + d, a.2) else (a.1, a.2 + d)) (0, 0)

/-- The check of one stream instruction (R273 to R276, R205, R215), word by word (R279); an address outside its slot is the head's. -/
def muInstrCheck (ws : List W64) (boundIn boundOut : Nat → Nat) (a i : Nat) : Option (Nat × Nat) :=
  let w := wordAt ws i
  let op := bitsOf w 0 4
  let ringOk := fun (writes : Bool) (csel : Nat) =>
    match muRingOf w with
    | none => true
    | some r =>
      let d := RingDecl.ofWord (muRing ws r)
      decide (r < 4) && d.valid &&
      (if writes then d.producer == 1 && d.prodAg == a
       else if csel = 0 then !d.cons0Ext && d.cons0Ag == a else d.twoCons && !d.cons1Ext && d.cons1Ag == a)
  match op with
  | 0 => if bitsOf w 4 60 ≠ 0 then some (i, 0x04) else none
  | 1 | 2 | 3 =>
    let ls := muLevels ws i
    let span := nestSpan ls
    let outside := match muRingOf w with
      | none => false
      | some r => bitsOf w 12 14 != 0 || decide (span.1 < 0 ∨ (64 * (RingDecl.ofWord (muRing ws r)).lines : Nat) ≤ span.2)
    if bitsOf w 55 9 ≠ 0 ∨ bitsOf w 4 3 = 0 ∨ 5 < bitsOf w 4 3 ∨ 4 < bitsOf w 30 3 ∨ 10 < bitsOf w 51 4 then some (i, 0x04)
    else if (if op = 1 then boundOut (bitsOf w 10 2) else boundIn (bitsOf w 10 2)) ≠ 1 then some (i, 0x07)
    else if (op ≠ 2 ∧ (2 < bitsOf w 7 2 ∨ muReadPort ws (bitsOf w 7 2) ≠ a)) ∨
        (op ≠ 1 ∧ muWritePort ws (bitsOf w 9 1) ≠ a) then some (i, 0x0D)
    else if !ringOk (op != 1) (bitsOf w 29 1) || outside then some (i, 0x0E)
    else ((List.range (bitsOf w 4 3)).find? (fun l => bitsOf (wordAt ws (i + 2 + l)) 50 14 != 0 ||
        decide (1048576 < (Level.ofWord (wordAt ws (i + 2 + l))).stride.natAbs))).map (fun l => (i + 2 + l, 0x04))
  | 4 | 5 =>
    if bitsOf w 41 23 ≠ 0 ∨ bitsOf w 14 9 = 0 ∨ 256 < bitsOf w 14 9 then some (i, 0x04)
    else if (if op = 4 then muWritePort ws (bitsOf w 4 1) else if bitsOf w 4 2 = 3 then 7 else muReadPort ws (bitsOf w 4 2)) ≠ a
      then some (i, 0x0D)
    else if !ringOk (op == 4) (bitsOf w 40 1) then some (i, 0x0E)
    else if wordField ws (i + 1) 48 16 ≠ 0 ∨ wordField ws (i + 1) 0 48 % 32 ≠ 0 then some (i + 1, 0x04)
    else none
  | 6 =>
    if bitsOf w 18 46 ≠ 0 then some (i, 0x04)
    else if bitsOf w 4 2 = a ∨ (muProgram ws (bitsOf w 4 2)).length < bitsOf w 6 12 then some (i, 0x0F)
    else none
  | _ => some (i, 0x03)

/-- One pass of the generators' positions over their `SYNC` waits (R276): each moves to its end or to a `SYNC` whose count is not
yet reached. -/
def syncPass (ws : List W64) (ps : List Nat) : List Nat :=
  (List.range 4).map fun a =>
    ((muProgram ws a).zip (List.range 513)).foldl
      (fun p x =>
        let w := wordAt ws x.1
        if x.2 ≠ p then p
        else if bitsOf w 0 4 = 6 ∧ nth ps (bitsOf w 4 2) 0 < bitsOf w 6 12 then p
        else p + 1) (nth ps a 0)

/-- Whether some set of `SYNC` waits forms a cycle: the generators cannot all reach their ends. -/
def syncCycle (ws : List W64) : Bool :=
  let n := ((List.range 4).map (fun a => (muProgram ws a).length)).foldl (· + ·) 0
  let ps := (List.range (n + 1)).foldl (fun ps _ => syncPass ws ps) [0, 0, 0, 0]
  (List.range 4).any (fun a => decide (nth ps a 0 < (muProgram ws a).length))

/-- The check of a ring declaration (R214, R215, R272). -/
def ringDeclCheck (footFrom footTo : Nat) (ws : List W64) (r : Nat) : Option Nat :=
  let w := muRing ws r
  let d := RingDecl.ofWord w
  if bitsOf w 45 19 ≠ 0 then some 0x04
  else if !d.valid then none
  else if d.slots < 3 ∨ 64 < d.slots ∨ 64 * d.base < footFrom ∨ footTo < 64 * (d.base + d.slots * d.lines) ∨
      (d.producer ≠ 1 ∧ d.producer ≠ 2) ∨ (d.producer = 1 ∧ !muUsed ws d.prodAg) ∨ (!d.cons0Ext ∧ !muUsed ws d.cons0Ag) ∨
      (d.twoCons ∧ !d.cons1Ext ∧ !muUsed ws d.cons1Ag) then some 0x0E
  else if d.producer = 2 ∧ muWritePort ws d.extWport ≠ 7 then some 0x0D
  else none

/-- Checks of an address-generator program. -/
def muCheck (footFrom footTo : Nat) (boundIn boundOut : Nat → Nat) (ws : List W64) : Option (Nat × Nat) :=
  let ports := [muReadPort ws 0, muReadPort ws 1, muReadPort ws 2, muWritePort ws 0, muWritePort ws 1]
  if wordField ws 0 55 9 ≠ 0 then some (0, 0x04)
  else if ports.any (fun p => decide (3 < p ∧ p ≠ 7)) then some (0, 0x0D)
  else if (List.range 4).any (fun a => muUsed ws a && !(muWordStarts ws 512 5).contains (muEntry ws a)) then some (0, 0x05)
  else match (List.range 4).findSome? (fun r => (ringDeclCheck footFrom footTo ws r).map (fun c => (1 + r, c))) with
    | some x => some x
    | none =>
      let found := (List.range 4).filterMap fun a =>
        match (muProgram ws a).findSome? (muInstrCheck ws boundIn boundOut a) with
        | some x => some x
        | none =>
          let last := ((muProgram ws a).getLast?).getD 0
          if muUsed ws a && (bitsOf (wordAt ws last) 0 4 != 0 || decide (ws.length ≤ last)) then some (ws.length - 1, 0x14) else none
      match found.foldl (fun (b : Option (Nat × Nat)) x => match b with
          | none => some x
          | some y => if x.1 < y.1 then some x else some y) none with
      | some x => some x
      | none =>
        if syncCycle ws then
          let syncs := ((List.range 4).flatMap (muProgram ws)).filter (fun i => bitsOf (wordAt ws i) 0 4 == 6)
          some (syncs.foldl min ws.length, 0x0F)
        else none

/-! ## Records (R108, R109) -/

/-- A directory pair of relative Dale `r`, section `k`: offset and length in bytes. -/
def dirPair (img : List Byte) (r k : Nat) : Nat × Nat :=
  let b := 0x100 + 64 * r + 8 * k
  (leNat (slice img b 4), leNat (slice img (b + 4) 4))

/-- The check that the head of the record of local index `k` of section `sect` fails (R109, R260), if any. -/
def headCheck (limit maxLen sect k pos : Nat) (h : W64) : Option Nat :=
  let len := bitsOf h 0 32
  if limit < pos + 8 then some 0x02
  else if bitsOf h 40 24 ≠ 0 then some 0x04
  else if len % 8 ≠ 0 ∨ maxLen < len ∨ bitsOf h 32 8 ≠ k ∨ limit < pos + 8 + len then some 0x02
  else if sect = 3 ∧ len ≠ 0 ∧ len ≠ 768 then some 0x02
  else none

/-- The `n` program records of a section from a byte position: their payloads as far as they are well formed, and the index and check
of the record at fault. -/
def readRecords (img : List Byte) (limit maxLen sect : Nat) : Nat → Nat → Nat → List (List W64) × Option (Nat × Nat)
  | 0, k, pos => ([], if pos = limit then none else some (k, 0x02))
  | n + 1, k, pos =>
    let h := leWord (slice img pos 8)
    match headCheck limit maxLen sect k pos h with
    | some c => ([], some (k, c))
    | none =>
      let len := bitsOf h 0 32
      let (ps, e) := readRecords img limit maxLen sect n (k + 1) (pos + 8 + len)
      (leWords (len / 8) (img.drop (pos + 8)) :: ps, e)

/-- Whether a directory pair names a section with a place in the image: on a 64-byte boundary, after the directory, inside (R108). -/
def pairOk (img : List Byte) (count : Nat) (x : Nat × Nat) : Bool :=
  x.2 == 0 || (x.1 % 64 == 0 && decide (0x100 + 64 * count ≤ x.1) && decide (x.1 + x.2 ≤ img.length))

/-- The records of section `sect` (1 to 4) of relative Dale `r`: none where its length is 0 or its bounds are wrong. -/
def sectionRecords (img : List Byte) (count r sect n maxLen : Nat) : List (List W64) × Option (Nat × Nat) :=
  let (off, len) := dirPair img r (sect - 1)
  if len = 0 ∨ !pairOk img count (off, len) then ([], none)
  else readRecords img (off + len) maxLen sect n 0 off

/-- A preload record (R109): its payload's place in the image, MU local index, Terrace offset, payload. -/
structure Preload where
  pos : Nat
  unit : Nat
  off : Nat
  data : List Byte
  deriving DecidableEq, Repr

/-- The preload records of a section as far as they are well formed, and the check and MU local index of the one at fault. `fuel` bounds
their number. -/
def readPreloads (img : List Byte) (limit footFrom footTo : Nat) : Nat → Nat → List Preload × Option (Nat × Nat)
  | 0, _ => ([], none)
  | fuel + 1, pos =>
    if limit ≤ pos then ([], none)
    else if limit < pos + 16 then ([], some (0, 0x02))
    else
      let u := leNat (slice img pos 2)
      let off := leNat (slice img (pos + 4) 4)
      let len := leNat (slice img (pos + 8) 4)
      if leNat (slice img (pos + 2) 2) ≠ 0 ∨ leNat (slice img (pos + 12) 4) ≠ 0 then ([], some (u, 0x04))
      else if off % 64 ≠ 0 ∨ len % 64 ≠ 0 ∨ limit < pos + 16 + len then ([], some (u, 0x02))
      else if 31 < u ∨ off < footFrom ∨ footTo < off + len then ([], some (u, 0x10))
      else
        let (ps, e) := readPreloads img limit footFrom footTo fuel (pos + 16 + len)
        ({ pos := pos + 16, unit := u, off := off, data := slice img (pos + 16) len } :: ps, e)

/-- The preload records of relative Dale `r`. -/
def preloadsOf (img : List Byte) (h : List W64) (r : Nat) : List Preload × Option (Nat × Nat) :=
  let (off, len) := dirPair img r 4
  if len = 0 ∨ !pairOk img (hdrCount h) (off, len) then ([], none)
  else readPreloads img (off + len) (hdrFootFrom h) (hdrFootTo h) (len / 16 + 1) off

/-! ## The loaded cast -/

/-- The units, tables and channels of a cast image as its program stores hold them. -/
structure Loaded where
  progs : SMap (List W64)
  tables : SMap (List W64)
  chans : SMap (List W64)
  deriving DecidableEq, Repr

/-- A list of payloads put into a map from a key on; empty payloads are idle units. -/
def putPayloads (m : SMap (List W64)) (key : Nat) (ps : List (List W64)) : SMap (List W64) :=
  ((List.range ps.length).zip ps).foldl (fun m x => if x.2.isEmpty then m else mset m (key + x.1) x.2) m

/-- Relative Dale `r` loaded, as far as its records are well formed. -/
def loadDale (img : List Byte) (count r : Nat) (l : Loaded) : Loaded :=
  let cu := (sectionRecords img count r 1 32 16384).1
  let mu := (sectionRecords img count r 2 32 4096).1
  let tab := (sectionRecords img count r 3 64 768).1
  let words := ((sectionRecords img count r 4 1 262144).1.head?).getD []
  let ds := (List.range (words.length / 8)).map (fun k => (k, (words.drop (8 * k)).take 8))
  { progs := putPayloads (putPayloads l.progs (32 * r) cu) (1024 + 32 * r) mu
    tables := putPayloads l.tables (64 * r) tab
    chans := (ds.filter (fun d => bitOf (wordAt d.2 0) 0)).foldl (fun m d => mset m (4096 * r + d.1) d.2) l.chans }

/-- Every relative Dale loaded, as far as its records are well formed. -/
def loadAll (img : List Byte) (count : Nat) : Loaded :=
  (List.range count).foldl (fun l r => loadDale img count r l) { progs := [], tables := [], chans := [] }

/-- The first fault in the directory entry of relative Dale `r` (R108): a section without a place in the image, or a reserved byte. -/
def dirCheck (img : List Byte) (count r : Nat) : Option CheckFail :=
  let at_ := fun (k : Nat) => 32 + 8 * r + k
  match (List.range 5).find? (fun k => !pairOk img count (dirPair img r k)),
      (List.range 3).find? (fun i => leNat (slice img (0x100 + 64 * r + 40 + 8 * i) 8) != 0) with
  | some k, _ => some { check := 0x02, rel := r, sect := 0, index := 0, word := at_ k }
  | none, some i => some { check := 0x04, rel := r, sect := 0, index := 0, word := at_ (5 + i) }
  | none, none => none

/-- The record fault of section `sect` of relative Dale `r`, after the checks of the records before it. -/
def recordFail (r sect : Nat) (x : Option (Nat × Nat)) : Option CheckFail :=
  x.map (fun e => { check := e.2, rel := r, sect := sect, index := e.1, word := 0 })

/-! ## Channels and routes (R141, R261, R281) -/

/-- The ports of the unit at a site, input and output (R140, R171, R199). -/
def unitPorts (site : Nat) (out : Bool) : Nat := if out then 4 else if siteIsCu site then 8 else 4

/-- Channels of a loaded cast with an endpoint satisfying a predicate, as (key, channel). -/
def Loaded.chanList (l : Loaded) : List (Nat × Chan) := l.chans.map (fun x => (x.1, Chan.ofWords x.2))

/-- How many channel destinations name a unit input port. -/
def Loaded.boundIn (l : Loaded) (rel site port : Nat) : Nat :=
  ((l.chanList.flatMap (fun c => c.2.dests)).filter (fun e => e.kind == 0 && e.rel == rel && e.site == site && e.port == port)).length

/-- How many channels begin at a unit output port. -/
def Loaded.boundOut (l : Loaded) (rel site port : Nat) : Nat :=
  (l.chanList.filter (fun c => c.2.src.kind == 0 && c.2.src.rel == rel && c.2.src.site == site && c.2.src.port == port)).length

/-- The slot table of a site. -/
def Loaded.table (l : Loaded) (rel site : Nat) : List W64 := mgetD l.tables (64 * rel + site) []

/-- The program of a unit, compute or memory. -/
def Loaded.prog (l : Loaded) (mu : Bool) (rel k : Nat) : List W64 := mgetD l.progs ((if mu then 1024 else 0) + 32 * rel + k) []

/-- Whether a port of the unit at a site is used by its program (R261). -/
def Loaded.portUsed (l : Loaded) (rel site port : Nat) (out : Bool) : Bool :=
  if siteIsCu site then
    let ws := l.prog false rel (siteLocal site)
    (cuStarts ws).any (fun i =>
      if out then (cuOutPorts (wordAt ws i)).contains port else (cuInPorts (wordAt ws i) (wordAt ws (i + 1))).contains port)
  else
    let ws := l.prog true rel (siteLocal site)
    ((List.range 4).flatMap (muProgram ws)).any (fun i =>
      let w := wordAt ws i
      let op := bitsOf w 0 4
      (if out then op == 1 else op == 2 || op == 3) && bitsOf w 10 2 == port)

/-- Whether a steering endpoint names a port that its element's mode has (R149, R150, R261). -/
def Loaded.steerPort (l : Loaded) (e : Endpoint) (out : Bool) : Bool :=
  let m := steerMode (l.table e.rel e.site) (e.kind - 1)
  match m, out with
  | 1, false => decide (e.port < 2)
  | 1, true => decide (e.port < 2)
  | 2, false => decide (e.port < 3)
  | 2, true => e.port == 0
  | 3, false => decide (e.port < 3)
  | 3, true => e.port == 0
  | _, _ => false

/-- Whether an endpoint is an output of a `STEER` element. -/
def Loaded.steerOut (l : Loaded) (e : Endpoint) : Bool := e.kind != 0 && steerMode (l.table e.rel e.site) (e.kind - 1) == 1

/-- The check of one descriptor (R139, R141, R261), word by word (R279): the first word at fault with its code. -/
def Loaded.chanCheck (l : Loaded) (count rel : Nat) (ws : List W64) : Option (Nat × Nat) :=
  let c := Chan.ofWords ws
  let ends := c.src :: c.dests
  let stray := fun (e : Endpoint) => decide (e.kind = 3 ∨ count ≤ e.rel)
  let port := fun (e : Endpoint) (out : Bool) =>
    if e.kind = 0 then decide (unitPorts e.site out ≤ e.port) || !l.portUsed e.rel e.site e.port out else !l.steerPort e out
  let windows := fun (e : Endpoint) => (l.chanList.flatMap (fun d =>
    (d.2.dests.filter (fun y => y.kind == 0 && y.rel == e.rel && y.site == e.site)).map (fun _ => d.2.window))).foldl (· + ·) 0
  let first := fun (_ : Unit) =>
    if wordField ws 0 31 1 ≠ 0 ∨ wordField ws 0 48 16 ≠ 0 then some 0x04
    else if c.tagOp = 3 ∨ c.window < 2 ∨ c.slots = 0 ∨ c.src.rel ≠ rel ∨ (c.spill ∧ c.dests.length ≠ 1) ∨
        (c.tagOp = 2 ∧ !l.steerOut c.src) ∨ (c.dests.any (fun e => e.kind != 0) && decide (16 < c.window)) || stray c.src ||
        (ends.filter (fun e => e.kind == 0)).any (fun e => decide (256 < windows e)) then some 0x11
    else if port c.src true then some 0x07 else none
  let dests := fun (k : Nat) => ((List.range 4).map (4 * (k - 4) + ·)).findSome? (fun i =>
    match c.dests[i]? with
    | none => if wordField ws k (16 * (i % 4)) 16 ≠ 0 then some 0x04 else none
    | some e => if stray e then some 0x11 else if port e false then some 0x07 else none)
  (List.range 8).findSome? (fun k => (match k with
    | 0 => first ()
    | 1 => if wordField ws 1 8 8 ≠ 0 ∨ wordField ws 1 56 8 ≠ 0 then some 0x04
      else if c.spill ∧ c.spillOff % 4096 ≠ 0 then some 0x11 else none
    | 2 => if wordField ws 2 32 32 ≠ 0 then some 0x04 else if c.spill ∧ c.spillGroups = 0 then some 0x11 else none
    | 3 => if wordAt ws 3 ≠ 0 then some 0x04 else none
    | k => dests k).map (fun (x : Nat) => (k, x)))

/-- A point of a route trace: relative Dale, site, source code, slot. -/
abbrev TracePoint := Nat × Nat × Nat × Nat

/-- What a trace of one starting slot finds: the links used as (Dale, site, target), the destinations reached, the points
visited, and whether it left the cast or came back to a point. -/
structure Trace where
  links : List (Nat × Nat × Nat)
  ends : List Endpoint
  seen : List TracePoint
  bad : Bool
  deriving DecidableEq, Repr

/-- The trace of a channel from a worklist of points; `fuel` bounds the number of points (R281). -/
def Loaded.trace (l : Loaded) (first count owner chan : Nat) : Nat → List TracePoint → Trace → Trace
  | 0, _, t => { t with bad := true }
  | _, [], t => t
  | fuel + 1, (r, s, src, j) :: rest, t =>
    if t.seen.any (fun p => p.1 == r && p.2.1 == s && p.2.2.2 == j) then { t with bad := true }
    else
      let tab := l.table r s
      let hits := (List.range 11).filter (fun k => slotEntry tab k j == some (src, chan, owner))
      let t := { t with seen := (r, s, src, j) :: t.seen, links := hits.map (fun k => (r, s, k)) ++ t.links }
      let step := hits.foldl (fun (a : Trace × List TracePoint) k =>
        if k < 4 then
          match neighbour (first + r) s k with
          | none => ({ a.1 with bad := true }, a.2)
          | some (d, s') =>
            if d < first ∨ first + count ≤ d then ({ a.1 with bad := true }, a.2)
            else
              let hop := if (first + r < 16) = (d < 16) then 1 else 7
              (a.1, (d - first, s', 1 + (k + 2) % 4, (j + hop) % 16) :: a.2)
        else if k = 4 then ({ a.1 with ends := { rel := r, site := s, port := 0, kind := 0 } :: a.1.ends }, a.2)
        else
          let e : Endpoint := { rel := r, site := s, port := (k - 5) % 3, kind := 1 + (k - 5) / 3 }
          ({ a.1 with ends := e :: a.1.ends }, a.2)) (t, [])
      l.trace first count owner chan fuel (step.2 ++ rest) step.1

/-- The source code of a channel's producer (R278). -/
def Endpoint.sourceCode (e : Endpoint) : Nat := if e.kind = 0 then 5 else if e.kind = 1 then 6 + e.port else 8 + e.port

/-- A destination as a trace sees it: a unit without its port. -/
def Endpoint.traced (e : Endpoint) : Endpoint := if e.kind = 0 then { e with port := 0 } else e

/-- The slots of a mask in rising order. -/
def slotList (m : Nat) : List Nat := maskList m 16

/-- The traces of a channel, one for each of its slots. -/
def Loaded.traces (l : Loaded) (first count key : Nat) (c : Chan) : List Trace :=
  (slotList c.slots).map fun j =>
    l.trace first count (key / 4096) (key % 4096) (64 * count * 16 + 1) [(c.src.rel, c.src.site, c.src.sourceCode, j)]
      { links := [], ends := [], seen := [], bad := false }

/-- Whether a channel's route passes the check of R281. -/
def Loaded.routeOk (l : Loaded) (first count key : Nat) (c : Chan) : Bool :=
  let ts := l.traces first count key c
  let n := (slotList c.slots).length
  let want := (c.dests.map Endpoint.traced).eraseDups
  let links := ts.flatMap (fun t => t.links)
  ts.all (fun t => !t.bad && t.ends.length == want.length && want.all (fun e => t.ends.contains e)) &&
  links.all (fun k => (links.filter (· == k)).length == n)

/-- Whether the slot-table entry of a target and slot lies on a traced channel (R281). -/
def Loaded.entryTraced (l : Loaded) (first count r s t j : Nat) : Bool :=
  match slotEntry (l.table r s) t j with
  | none => true
  | some (src, chan, owner) =>
    match mget l.chans (4096 * owner + chan) with
    | none => false
    | some ws => (l.traces first count (4096 * owner + chan) (.ofWords ws)).any (fun x => x.seen.contains (r, s, src, j))

/-- The check of the slot table of a site (R277, R278, R281). -/
def Loaded.tableCheck (l : Loaded) (first count r s : Nat) : Option (Nat × Nat) :=
  let tab := l.table r s
  if tab.isEmpty then none
  else
    let word := fun t j => 8 + (16 * t + j) / 2
    let raw := fun t j => wordField tab (word t j) (32 * (j % 2)) 32
    let modeBad := fun (e p : Nat) => steerMode tab e == 0 || (steerMode tab e == 1 && p == 2)
    match (List.range 2).find? (fun e => wordField tab e 8 56 != 0), (List.range 6).find? (fun i => wordAt tab (2 + i) != 0) with
    | some e, _ => some (e, 0x04)
    | none, some i => some (2 + i, 0x04)
    | none, none =>
      ((List.range 11).flatMap (fun t => (List.range 16).map (fun j => (t, j)))).findSome? fun x =>
        let t := x.1
        let j := x.2
        if raw t j / 2 ^ 22 ≠ 0 then some (word t j, 0x04)
        else match slotEntry tab t j with
          | none => none
          | some (src, _, _) =>
            if src = 0 ∨ 9 < src then some (word t j, 0x04)
            else if (5 ≤ t ∧ modeBad ((t - 5) / 3) ((t - 5) % 3)) ∨ (6 ≤ src ∧ steerMode tab ((src - 6) / 2) = 0) ∨
                (6 ≤ src ∧ src % 2 = 1 ∧ steerMode tab ((src - 6) / 2) ≠ 1) then some (word t j, 0x13)
            else if !l.entryTraced first count r s t j then some (word t j, 0x12)
            else none

/-- The first failing check of a loaded cast in the order of R279: relative Dale, section, local index, word. -/
def Loaded.check (l : Loaded) (img : List Byte) (h : List W64) (first count : Nat) : Option CheckFail :=
  (List.range count).findSome? fun r =>
    let cu := (List.range 32).findSome? fun k =>
      let ws := l.prog false r k
      if ws.isEmpty then none
      else (cuCheck (hdrStochastic h) (l.boundIn r (siteOf false k)) (l.boundOut r (siteOf false k)) ws).map
        (fun x => ({ check := x.2, rel := r, sect := 1, index := k, word := x.1 } : CheckFail))
    let mu := (List.range 32).findSome? fun k =>
      let ws := l.prog true r k
      if ws.isEmpty then none
      else (muCheck (hdrFootFrom h) (hdrFootTo h) (l.boundIn r (siteOf true k)) (l.boundOut r (siteOf true k)) ws).map
        (fun x => ({ check := x.2, rel := r, sect := 2, index := k, word := x.1 } : CheckFail))
    let tab := (List.range 64).findSome? fun s =>
      (l.tableCheck first count r s).map (fun x => ({ check := x.2, rel := r, sect := 3, index := s, word := x.1 } : CheckFail))
    let ch := (l.chans.filter (fun c => c.1 / 4096 == r)).findSome? fun c =>
      match l.chanCheck count r c.2 with
      | some x => some ({ check := x.2, rel := r, sect := 4, index := 0, word := 8 * (c.1 % 4096) + x.1 } : CheckFail)
      | none =>
        if l.routeOk first count c.1 (.ofWords c.2) then none
        else some { check := 0x12, rel := r, sect := 4, index := 0, word := 8 * (c.1 % 4096) }
    let chRec := sectionRecords img count r 4 1 262144
    let chLen : Option CheckFail :=
      if ((chRec.1.head?).getD []).length % 8 = 0 then none else some { check := 0x02, rel := r, sect := 4, index := 0, word := 0 }
    (dirCheck img count r).or (cu.or ((recordFail r 1 (sectionRecords img count r 1 32 16384).2).or
      (mu.or ((recordFail r 2 (sectionRecords img count r 2 32 4096).2).or
      (tab.or ((recordFail r 3 (sectionRecords img count r 3 64 768).2).or
      ((recordFail r 4 chRec.2).or (chLen.or (ch.or (recordFail r 5 (preloadsOf img h r).2))))))))))

/-- Whether the digest of an image matches its header (R107). -/
def digestOk (img : List Byte) : Bool :=
  shake256 (overlay img 0x80 (List.replicate 64 0#8)) 64 == slice img 0x80 64

/-- An image brought in and checked (R279): the loaded cast, or the failing check. A digest mismatch comes first, then an image too
short for its directory. -/
def checkImage (img : List Byte) (h : List W64) (first count : Nat) : Except CheckFail Loaded :=
  if !digestOk img then .error { check := 0x01, rel := 0, sect := 0, index := 0, word := 16 }
  else if img.length < 0x100 + 64 * count then .error { check := 0x02, rel := 0, sect := 0, index := 0, word := img.length / 8 }
  else
    let l := loadAll img count
    match l.check img h first count with
    | some e => .error e
    | none => .ok l

end Sys2Proof.Machine
end

