-- ==== Sys2Proof/Machine/Numerics.lean ====
section
/-! DEFINITION. Numbers (R232 to R247): element encodings, exact arithmetic with one rounding at the end, block scales,
conversions, the truncating block accumulator and the precise rule, and the vector functions of R185. -/

namespace Sys2Proof.Machine

/-- A 32-bit lane. -/
abbrev W32 := BitVec 32

/-! ## Exact values -/

/-- A value: not a number, an infinity, or `±sig × 2^exp`. -/
inductive Num where
  | nan
  | inf (neg : Bool)
  | fin (neg : Bool) (sig : Nat) (exp : Int)
  deriving DecidableEq, Repr

/-- Positive zero. -/
def Num.zero : Num := .fin false 0 0

/-- One. -/
def Num.one : Num := .fin false 1 0

/-- Whether a value is not a number. -/
def Num.isNan : Num → Bool
  | .nan => true
  | _ => false

/-- Whether a value is an infinity. -/
def Num.isInf : Num → Bool
  | .inf _ => true
  | _ => false

/-- Whether a value is a zero of either sign. -/
def Num.isZero : Num → Bool
  | .fin _ 0 _ => true
  | _ => false

/-- The sign. -/
def Num.neg? : Num → Bool
  | .nan => false
  | .inf n => n
  | .fin n _ _ => n

/-- `2^e` for a natural power, `1` for a negative one. -/
def pow2 (e : Int) : Nat := 2 ^ e.toNat

/-- Exact product. -/
def Num.mul : Num → Num → Num
  | .nan, _ => .nan
  | _, .nan => .nan
  | .inf a, .inf b => .inf (a != b)
  | .inf a, .fin b s _ => if s = 0 then .nan else .inf (a != b)
  | .fin a s _, .inf b => if s = 0 then .nan else .inf (a != b)
  | .fin a s e, .fin b t f => .fin (a != b) (s * t) (e + f)

/-- Exact sum; an exact zero of operands that differ in sign is +0, as round-to-nearest gives it. -/
def Num.add : Num → Num → Num
  | .nan, _ => .nan
  | _, .nan => .nan
  | .inf a, .inf b => if a = b then .inf a else .nan
  | .inf a, .fin _ _ _ => .inf a
  | .fin _ _ _, .inf b => .inf b
  | .fin a s e, .fin b t f =>
    let m := min e f
    let x : Int := (s * pow2 (e - m) : Nat)
    let y : Int := (t * pow2 (f - m) : Nat)
    let z := (if a then -x else x) + (if b then -y else y)
    if z = 0 then .fin (a && b) 0 0 else .fin (decide (z < 0)) z.natAbs m

/-- The order of two values that are numbers. -/
def Num.lt : Num → Num → Bool
  | .nan, _ => false
  | _, .nan => false
  | .inf a, .inf b => a && !b
  | .inf a, .fin _ _ _ => a
  | .fin _ _ _, .inf b => !b
  | .fin a s e, .fin b t f =>
    let m := min e f
    let x : Int := (s * pow2 (e - m) : Nat)
    let y : Int := (t * pow2 (f - m) : Nat)
    decide ((if a then -x else x) < (if b then -y else y))

/-- Equality of two values that are numbers; zeros of both signs are equal. -/
def Num.eqv (a b : Num) : Bool := !a.isNan && !b.isNan && !a.lt b && !b.lt a

/-! ## Formats (R232, R103) -/

/-- Exponent bits, mantissa bits and bias of a floating-point format code. -/
def floatShape : Nat → Nat × Nat × Nat
  | 0 => (8, 23, 127)
  | 1 => (8, 7, 127)
  | 2 => (5, 10, 15)
  | 3 => (4, 3, 7)
  | 4 => (5, 2, 15)
  | 5 => (2, 3, 1)
  | 6 => (3, 2, 3)
  | _ => (2, 1, 1)

/-- Whether a format code is an integer format. -/
def isIntFmt (f : Nat) : Bool := f == 8 || f == 9

/-- Whether a format has infinities (and many NaNs). -/
def hasInf (f : Nat) : Bool := f == 0 || f == 1 || f == 2 || f == 4

/-- The significand width of R232. -/
def sigWidth : Nat → Nat
  | 0 => 24 | 1 => 8 | 2 => 11 | 3 => 4 | 4 => 3 | 5 => 4 | 6 => 3 | 7 => 2 | 8 => 8 | _ => 4

/-- The value of an element (R232). -/
def decodeNum (f v : Nat) : Num :=
  if isIntFmt f then
    let x := signedOf (fmtBits f) v
    .fin (decide (x < 0)) x.natAbs 0
  else
    let (eb, mb, bias) := floatShape f
    let neg := v.testBit (eb + mb)
    let e := v / 2 ^ mb % 2 ^ eb
    let m := v % 2 ^ mb
    if hasInf f && e == 2 ^ eb - 1 then (if m = 0 then .inf neg else .nan)
    else if f = 3 && e == 15 && m == 7 then .nan
    else if e = 0 then .fin neg m (1 - (bias : Int) - mb)
    else .fin neg (m + 2 ^ mb) ((e : Int) - bias - mb)

/-- The canonical NaN of a format (R232); +0 or 0 where the format has none (R244). -/
def canonicalNan : Nat → Nat
  | 0 => 0x7FC00000 | 1 => 0x7FC0 | 2 => 0x7E00 | 3 => 0x7F | 4 => 0x7E | _ => 0

/-- The largest finite encoding of a floating-point format, without its sign. -/
def largestCode (f : Nat) : Nat :=
  let (eb, mb, _) := floatShape f
  if f = 3 then 0x7E
  else if hasInf f then (2 ^ eb - 1) * 2 ^ mb - 1
  else 2 ^ (eb + mb) - 1

/-! ## Rounding -/

/-- `sig × 2^exp`, with something nonzero below it where `sticky`, rounded to nearest even to a multiple of `2^lsb`. -/
def roundEven (sig : Nat) (exp lsb : Int) (sticky : Bool) : Nat :=
  if lsb ≤ exp then sig * pow2 (exp - lsb)
  else
    let k := (lsb - exp).toNat
    let q := sig / 2 ^ k
    let r := sig % 2 ^ k
    let half := 2 ^ (k - 1)
    if half < r || (r == half && (sticky || q % 2 == 1)) then q + 1 else q

/-- The exponent of the last place of a float format at a magnitude. -/
def lastPlace (f sig : Nat) (exp : Int) : Int :=
  let (_, mb, bias) := floatShape f
  max (exp + Nat.log2 sig - mb) (1 - (bias : Int) - mb)

/-- The encoding of `q × 2^lsb`, where `q` has at most one bit more than the format's significand; `none` beyond the largest
finite magnitude. -/
def packFloat (f q : Nat) (lsb : Int) : Option Nat :=
  let (_, mb, bias) := floatShape f
  let (q, lsb) := if 2 ^ (mb + 1) ≤ q then (q / 2, lsb + 1) else (q, lsb)
  let code := if q < 2 ^ mb then q else (lsb + mb + bias).toNat * 2 ^ mb + (q - 2 ^ mb)
  if code ≤ largestCode f then some code else none

/-- What R244 writes for a value beyond a float format, without its sign. -/
def beyond (f : Nat) : Nat :=
  if hasInf f then (let (eb, mb, _) := floatShape f; (2 ^ eb - 1) * 2 ^ mb) else largestCode f

/-- A sign put on a float encoding. -/
def withSign (f : Nat) (neg : Bool) (code : Nat) : Nat := if neg then code + 2 ^ (fmtBits f - 1) else code

/-- A finite magnitude rounded into a float format (R244). -/
def encodeFinite (f : Nat) (neg : Bool) (sig : Nat) (exp : Int) (sticky : Bool) : Nat :=
  if sig = 0 then withSign f neg 0
  else
    let l := lastPlace f sig exp
    withSign f neg ((packFloat f (roundEven sig exp l sticky) l).getD (beyond f))

/-- A finite magnitude rounded into an integer format (R244). -/
def encodeInt (f : Nat) (neg : Bool) (sig : Nat) (exp : Int) (sticky : Bool) : Nat :=
  let w := fmtBits f
  let q := roundEven sig exp 0 sticky
  let v : Int := if neg then -(q : Int) else q
  let hi : Int := (2 ^ (w - 1) : Nat) - 1
  let lo : Int := -((2 ^ (w - 1) : Nat) : Int)
  encodeSigned w (if v < lo then lo else if hi < v then hi else v)

/-- A value rounded into a format to nearest even (R244); `sticky` marks something nonzero below it. -/
def encodeNum (f : Nat) (x : Num) (sticky : Bool := false) : Nat :=
  match x with
  | .nan => canonicalNan f
  | .inf neg =>
    if isIntFmt f then (if neg then 2 ^ (fmtBits f - 1) else 2 ^ (fmtBits f - 1) - 1) else withSign f neg (beyond f)
  | .fin neg s e => if isIntFmt f then encodeInt f neg s e sticky else encodeFinite f neg s e sticky

/-- A value rounded to `FP32`. -/
def toF32 (x : Num) (sticky : Bool := false) : W32 := BitVec.ofNat 32 (encodeNum 0 x sticky)

/-- The value of an `FP32` lane. -/
def ofF32 (x : W32) : Num := decodeNum 0 x.toNat

/-- A quotient of values, as a truncated value of at least 64 bits with what it leaves out (R245). -/
def Num.div (a b : Num) : Num × Bool :=
  match a, b with
  | .nan, _ => (.nan, false)
  | _, .nan => (.nan, false)
  | .inf _, .inf _ => (.nan, false)
  | .inf x, .fin y _ _ => (.inf (x != y), false)
  | .fin x _ _, .inf y => (.fin (x != y) 0 0, false)
  | .fin x s e, .fin y t f =>
    if t = 0 then (if s = 0 then (.nan, false) else (.inf (x != y), false))
    else
      let k := 80 + Nat.log2 t
      (.fin (x != y) (s * 2 ^ k / t) (e - f - k), s * 2 ^ k % t != 0)

/-! ## Vector operations (R185, R186) -/

/-- `FP32` sum. -/
def f32Add (a b : W32) : W32 := toF32 ((ofF32 a).add (ofF32 b))
/-- `FP32` product. -/
def f32Mul (a b : W32) : W32 := toF32 ((ofF32 a).mul (ofF32 b))
/-- Fused multiply-add, rounded once. -/
def f32Fma (a b c : W32) : W32 := toF32 (((ofF32 a).mul (ofF32 b)).add (ofF32 c))

/-- IEEE 754-2019 maximum. -/
def f32Max (a b : W32) : W32 :=
  let x := ofF32 a
  let y := ofF32 b
  if x.isNan || y.isNan then 0x7FC00000#32
  else if x.lt y then b
  else if y.lt x then a
  else if x.neg? then b else a

/-- The comparison of a `CMP` code (R265). -/
def f32Cmp (sub : Nat) (a b : W32) : Bool :=
  let x := ofF32 a
  let y := ofF32 b
  match sub with
  | 0 => x.lt y
  | 1 => x.lt y || x.eqv y
  | 2 => x.eqv y
  | _ => !x.eqv y

/-- `⌊2^(2^-i) × 2^80⌋` for `i = 1, 2, …`. -/
def rootTable : Nat → Nat → List Nat
  | 0, _ => []
  | n + 1, c => let r := Nat.sqrt (c * 2 ^ 80); r :: rootTable n r

/-- `2^f × 2^80` for a fraction of 40 bits, from the table of roots. -/
def expFraction (bits : Nat) : Nat :=
  ((List.range 40).zip (rootTable 40 (2 * 2 ^ 80))).foldl
    (fun a x => if bits.testBit (39 - x.1) then a * x.2 / 2 ^ 80 else a) (2 ^ 80)

/-- A result within `bound` last places of `sig × 2^exp` (80 or more bits): the nearest one moved by the free offset where the
moved one is within the bound, the nearest one otherwise. -/
def looseF32 (op : Nat) (x : W32) (ctr bound : Nat) (neg : Bool) (sig : Nat) (exp : Int) : W32 :=
  let l := lastPlace 0 sig exp
  let q := roundEven sig exp l true
  let off := Config.ulpOffset op x ctr
  let c : Int := q + off
  let exact := sig * pow2 (20 + exp - l) / pow2 (l - exp - 20)
  let far := (c * 2 ^ 20 - exact).natAbs
  let q := if 0 ≤ c ∧ far ≤ bound * 2 ^ 20 then c.toNat else q
  BitVec.ofNat 32 (withSign 0 neg ((packFloat 0 q l).getD (beyond 0)))

/-- `EXP2` (R185). -/
def f32Exp2 (x : W32) (ctr : Nat) : W32 :=
  match ofF32 x with
  | .nan => 0x7FC00000#32
  | .inf true => 0
  | .inf false => 0x7F800000#32
  | .fin neg s e =>
    let scaled := s * pow2 (e + 40)
    let mag := scaled / pow2 (-(e + 40))
    let lost := scaled % pow2 (-(e + 40)) != 0
    let v : Int := if neg then -(mag : Int) else mag
    let v := if neg && lost then v - 1 else v
    let n := v / (2 ^ 40 : Int)
    let fr := (v % (2 ^ 40 : Int)).toNat
    if (128 : Int) ≤ n then 0x7F800000#32
    else if v ≤ -(150 * 2 ^ 40 : Int) then 0
    else if fr = 0 && !lost then toF32 (.fin false 1 n)
    else looseF32 0x23 x ctr 2 false (expFraction fr) (n - 80)

/-- `RCP` (R185). -/
def f32Rcp (x : W32) (ctr : Nat) : W32 :=
  match ofF32 x with
  | .nan => 0x7FC00000#32
  | .inf n => if n then 0x80000000#32 else 0
  | .fin n s e =>
    if s = 0 then toF32 (.inf n)
    else
      let exact := toF32 (.fin n (2 ^ 200 / s) (-e - 200))
      if 2 ^ Nat.log2 s = s ∧ 0x00800000 ≤ exact.toNat % 0x80000000 ∧ exact.toNat % 0x80000000 < 0x7F800000 then exact
      else looseF32 0x24 x ctr 1 n (2 ^ 200 / s) (-e - 200)

/-- `RSQRT` (R185). -/
def f32Rsqrt (x : W32) (ctr : Nat) : W32 :=
  match ofF32 x with
  | .nan => 0x7FC00000#32
  | .inf n => if n then 0x7FC00000#32 else 0
  | .fin n s e =>
    if s = 0 then toF32 (.inf n)
    else if n then 0x7FC00000#32
    else
      let odd := e % 2 != 0
      let s' := if odd then 2 * s else s
      let e' := if odd then e - 1 else e
      looseF32 0x25 x ctr 1 false (Nat.sqrt (2 ^ 400 / s')) (-(e' / 2) - 200)

/-- Adjacent pairs combined. -/
def pairwise (f : W32 → W32 → W32) : List W32 → List W32
  | a :: b :: t => f a b :: pairwise f t
  | l => l

/-- The fixed tree of `RED` over 64 lanes (R186). -/
def redTree (f : W32 → W32 → W32) (l : List W32) : W32 :=
  nth (pairwise f (pairwise f (pairwise f (pairwise f (pairwise f (pairwise f l)))))) 0 0

/-! ## Packed rows and scales (R233, R234) -/

/-- Element `i` of packed bytes. -/
def packedElem (f : Nat) (bs : List Byte) (i : Nat) : Nat :=
  let w := fmtBits f
  leNat (slice bs (i * w / 8) 5) / 2 ^ (i * w % 8) % 2 ^ w

/-- Elements packed into bytes (R233). -/
def packElems (f : Nat) (es : List Nat) : List Byte :=
  let w := fmtBits f
  leBytes (ceilDiv (es.length * w) 8) (es.foldr (fun e a => a * 2 ^ w + e % 2 ^ w) 0)

/-- The value of a scale byte (R234): `E8M0` or `UE4M3`. -/
def scaleNum (ue4m3 : Bool) (c : Nat) : Num :=
  if ue4m3 then (if 128 ≤ c then .nan else decodeNum 3 c)
  else if c = 255 then .nan else .fin false 1 ((c : Int) - 127)

/-- The implicit factor of a block-scaled integer format, as an exponent (R235). -/
def intFactor (f : Nat) (scaled : Bool) : Int := if scaled && f == 8 then -6 else if scaled && f == 9 then -2 else 0

/-- A value with an exponent added. -/
def Num.shift (x : Num) (k : Int) : Num :=
  match x with
  | .fin n s e => .fin n s (e + k)
  | y => y

/-! ## Conversions (R244 to R247) -/

/-- The exponent of the largest finite value that R246 uses. -/
def fmtEmax : Nat → Int
  | 3 => 8 | 4 => 15 | 5 => 2 | 6 => 4 | 7 => 2 | _ => 0

/-- The largest finite value of a format, integers with their implicit factor (R246). -/
def fmtLargest (f : Nat) : Num :=
  if f = 8 then .fin false 127 (-6) else if f = 9 then .fin false 7 (-2) else decodeNum f (largestCode f)

/-- `⌊log2⌋` of a nonzero magnitude. -/
def Num.floorLog2 : Num → Int
  | .fin _ s e => e + Nat.log2 s
  | _ => 0

/-- The magnitude. -/
def Num.abs : Num → Num
  | .fin _ s e => .fin false s e
  | .inf _ => .inf false
  | .nan => .nan

/-- The scale of a block (R246): from its values and the tensor scale that divides them; an infinite one leaves quotients of zero. -/
def chooseScale (f : Nat) (ue4m3 : Bool) (t : Num) (xs : List Num) : Nat :=
  if xs.any (fun x => (x.div t).1.isNan || (x.div t).1.isInf) then (if ue4m3 then 0x7F else 0xFF)
  else
    let a := xs.foldl (fun m x => if m.lt x.abs then x.abs else m) Num.zero
    if a.isZero || t.isInf then 0
    else if ue4m3 then
      let d := a.div (t.abs.mul (fmtLargest f))
      let c := min (encodeNum 3 d.1 d.2 % 128) 0x7E
      if c = 0 then 1 else c
    else
      let e := (a.div t.abs).1.floorLog2 - fmtEmax f
      ((if e < -127 then -127 else if 127 < e then 127 else e) + 127).toNat

/-- Rounding by a 16-bit random value in place of nearest even (R247); values beyond the format are as R244 gives them. -/
def encodeStochastic (f : Nat) (x : Num) (sticky : Bool) (r : Nat) : Nat :=
  match x with
  | .fin neg s e =>
    if s = 0 then withSign f neg 0
    else
      let l := lastPlace f s e
      match packFloat f (roundEven s e l sticky) l with
      | none => withSign f neg (beyond f)
      | some _ =>
        let t := s * pow2 (e - l + 16) / pow2 (l - 16 - e)
        let q := t / 65536 + if r < t % 65536 then 1 else 0
        withSign f neg ((packFloat f q l).getD (largestCode f))
  | _ => encodeNum f x

/-- One element converted: the value over the tensor scale and its block scale, in one rounding; `r` is the random value of
a stochastic conversion. -/
def convertElem (f : Nat) (scaled : Bool) (x t s : Num) (r : Option Nat) : Nat :=
  let d := x.div (t.mul s)
  let y := d.1.shift (-(intFactor f scaled))
  match r with
  | some r => encodeStochastic f y d.2 r
  | none => encodeNum f y d.2

/-- A row of 64 lanes narrowed (R245, R246): the elements, and the scale bytes of its blocks of `blk` lanes (none for 0). -/
def narrowRow (f blk : Nat) (ue4m3 : Bool) (t : Num) (xs : List Num) (rs : List (Option Nat)) : List Nat × List Nat :=
  let n := if blk = 0 then 64 else min blk 64
  let groups := chunksOf n 64 xs
  let scales := if blk = 0 then [] else groups.map (chooseScale f ue4m3 t)
  let es := ((List.range xs.length).zip xs).map fun p =>
    let c := nth scales (p.1 / n) 0
    let s := if blk = 0 then Num.one else scaleNum ue4m3 c
    convertElem f (blk != 0) p.2 t (if s.isNan then .one else s) (nth rs p.1 none)
  (es, scales)

/-- A packed row widened (R244): each element times its scale and the tensor scale, exactly, rounded to `FP32` where the
product does not fit. -/
def widenRow (f blk : Nat) (ue4m3 : Bool) (t : Num) (es scales : List Nat) : List W32 :=
  let n := if blk = 0 then 64 else min blk 64
  ((List.range es.length).zip es).map fun p =>
    let s := if blk = 0 then Num.one else scaleNum ue4m3 (nth scales (p.1 / n) 0)
    if s.isNan then 0x7FC00000#32
    else toF32 (((decodeNum f p.2).shift (intFactor f (blk != 0))).mul (s.mul t))

/-- One step of the generator of R247: the new state and the random value. -/
def xorshift (s : W32) : W32 × Nat :=
  let s := s ^^^ (s <<< 13)
  let s := s ^^^ (s >>> 17)
  let s := s ^^^ (s <<< 5)
  (s, s.toNat / 65536)

/-- The seed of a lane (R247). -/
def laneSeed (castId : W64) (nStep relDale localIndex task lane : Nat) : W32 :=
  let s := castId.setWidth 32 ^^^ BitVec.ofNat 32 (nStep * 0x9E3779B9)
  let s := s ^^^ BitVec.ofNat 32 (relDale * 8192 + localIndex * 256 + task * 64 + lane)
  if s = 0 then 1 else s

/-! ## The matrix accumulators (R238 to R243) -/

/-- One product of a matrix instruction: the two elements, the scales folded in across M/N, the scales along K, and the raw
encodings that a trap record shows. -/
structure MatTerm where
  a : Num
  b : Num
  acrossA : Num
  acrossB : Num
  alongA : Num
  alongB : Num
  rawA : Nat
  rawB : Nat
  rawSa : Nat
  rawSb : Nat
  deriving DecidableEq, Repr

/-- The exact product of a term without the scales along K (R239). -/
def MatTerm.base (x : MatTerm) : Num := (x.a.mul x.acrossA).mul (x.b.mul x.acrossB)

/-- Whether a factor of a term, tensor scales included, is not a number. -/
def MatTerm.factors (x : MatTerm) (t : Num) : List Num := [x.a, x.acrossA, x.alongA, x.b, x.acrossB, x.alongB, t]

/-- The exact product with every scale, as R242 classifies it: a NaN factor, or a zero factor beside an infinite one, is NaN. -/
def MatTerm.full (x : MatTerm) (t : Num) : Num :=
  let fs := x.factors t
  if fs.any Num.isNan || (fs.any Num.isZero && fs.any Num.isInf) then .nan
  else fs.foldl Num.mul .one

/-- The block register of R240. -/
structure BlockReg where
  used : Bool
  v : Int
  emax : Int
  deriving DecidableEq, Repr

/-- Division by a power of two toward zero. -/
def truncShift (v : Int) (k : Nat) : Int := if v < 0 then -((v.natAbs / 2 ^ k : Nat) : Int) else ((v.natAbs / 2 ^ k : Nat) : Int)

/-- A product taken into the block register (R240). -/
def BlockReg.take (r : BlockReg) (x : Num) : BlockReg :=
  match x with
  | .fin neg s e =>
    if s = 0 then r
    else
      let p : Int := if neg then -(s : Int) else s
      if !r.used then { used := true, v := p * 8, emax := e }
      else
        let r := if r.emax < e then { r with v := truncShift r.v (e - r.emax).toNat, emax := e } else r
        let k := e - r.emax + 3
        { r with v := r.v + (if 0 ≤ k then p * (pow2 k : Nat) else truncShift p (-k).toNat) }
  | _ => r

/-- A NaN event of one output element: the firing, the stage of R252 and its four fields. -/
structure NanEvent where
  firing : Nat
  stage : Nat
  src0 : Nat
  src1 : Nat
  src2 : Nat
  result : Nat
  deriving DecidableEq, Repr

/-- The accumulator of one element after one addition, with its NaN event (stage 1). -/
def accumulate (firing : Nat) (acc : W32) (x : Num) : W32 × List NanEvent :=
  let r := toF32 ((ofF32 acc).add x)
  let v := toF32 x
  (r, if (ofF32 r).isNan || (ofF32 acc).isNan || x.isNan then
    [{ firing := firing, stage := 1, src0 := acc.toNat, src1 := v.toNat, src2 := 0, result := r.toNat }] else [])

/-- The stage 0 event of a term. -/
def MatTerm.event (x : MatTerm) (firing : Nat) : NanEvent :=
  { firing := firing, stage := 0, src0 := x.rawA, src1 := x.rawB, src2 := x.rawSa + 256 * x.rawSb, result := 0x7FC00000 }

/-- One accumulation block of an ordinary CU (R240 to R242) added to the accumulator: `xs` are the terms with their firings,
`t` the product of the tensor scales. -/
def truncBlock (t : Num) (acc : W32) (xs : List (Nat × MatTerm)) : W32 × List NanEvent :=
  let fulls := xs.map (fun x => (x, x.2.full t))
  let ev := (fulls.filter (fun x => x.2.isNan)).map (fun x => x.1.2.event x.1.1)
  let last := (xs.getLast?.map (fun x => x.1)).getD 0
  let infs := fulls.filter (fun x => x.2.isInf)
  let both := infs.any (fun x => x.2.neg?) && infs.any (fun x => !x.2.neg?)
  let mixed := match infs.head? with
    | some h => if both && ev.isEmpty then
        ((infs.find? (fun x => x.2.neg? != h.2.neg?)).map (fun x => [x.1.2.event x.1.1])).getD [] else []
    | none => []
  let value :=
    if !ev.isEmpty || both then Num.nan
    else match infs.head? with
      | some h => h.2
      | none =>
        let r := xs.foldl (fun (r : BlockReg) x => r.take x.2.base) { used := false, v := 0, emax := 0 }
        let first := (xs.head?.map (fun x => x.2.alongA.mul x.2.alongB)).getD .one
        if r.used then (Num.fin (decide (r.v < 0)) r.v.natAbs (r.emax - 3)).mul (first.mul t) else .zero
  let z := accumulate last acc value
  (z.1, ev ++ mixed ++ z.2)

/-- One output element of an ordinary CU: its terms in blocks of `g` (R238, R241). -/
def truncElement (g : Nat) (t : Num) (acc : W32) (xs : List (Nat × MatTerm)) : W32 × List NanEvent :=
  (chunksOf g xs.length xs).foldl (fun a b => let z := truncBlock t a.1 b; (z.1, a.2 ++ z.2)) (acc, [])

/-- One output element of a precise CU (R243). -/
def preciseElement (t : Num) (acc : W32) (xs : List (Nat × MatTerm)) : W32 × List NanEvent :=
  xs.foldl (fun a x =>
    let full := x.2.full t
    let p := ofF32 (toF32 full)
    let z := accumulate x.1 a.1 p
    (z.1, a.2 ++ (if full.isNan then [x.2.event x.1] else []) ++ z.2)) (acc, [])

end Sys2Proof.Machine
end

