-- ==== Sys2Proof/Machine/Matrix.lean ====
section
/-! DEFINITION. The matrix engine (R173 to R183, R238 to R243): the extents of a matrix instruction, its operands, and what its firings
add to the cells of a bank. -/

namespace Sys2Proof.Machine

/-! ## Extents -/

/-- The split factor of a matrix instruction. -/
def mmSplit (w : W64) : Nat := 2 ^ bitsOf w 15 3
/-- Its steps: `k / s`. -/
def mmSteps (w : W64) : Nat := bitsOf w 38 13 / mmSplit w
/-- Bytes of A. -/
def mmABytes (w : W64) : Nat := mmSteps w * 2 * fmtBits (bitsOf w 18 4)
/-- Scale bytes of A. -/
def mmAScales (w v : W64) : Nat := aScales (bitsOf w 38 13) (blkLen (bitsOf v 0 3)) (bitOf v 3)
/-- Bytes of B. -/
def mmBBytes (w : W64) : Nat := bitsOf w 38 13 * 8 * fmtBits (bitsOf w 22 4)
/-- Scale bytes of B. -/
def mmBScales (w v : W64) : Nat := bScales (bitsOf w 38 13) (blkLen (bitsOf v 27 3)) (bitOf v 30)

/-- The buffer lines that a matrix instruction reads, as (first, count). -/
def mmLines (w : W64) : List (Nat × Nat) :=
  (bitsOf w 51 11, ceilDiv (mmBBytes w) 64) ::
    (if bitOf w 26 then [(bitsOf w 27 11, ceilDiv (mmABytes w) 64)] else [])

/-- The scales that a matrix instruction reads from the store. -/
def mmScales (w v : W64) : List (Nat × Nat) :=
  (bitsOf v 32 13, mmBScales w v) :: (if bitOf w 26 then [(bitsOf v 8 13, mmAScales w v)] else [])

/-! ## Results -/

/-- Bytes of the buffer or of the scale store. -/
def storeBytes (m : SMap Byte) (a n : Nat) : List Byte := (List.range n).map (fun i => memGet m (a + i))

/-- The operand bytes of a matrix instruction: A, A's scales, B, B's scales. -/
structure MmData where
  a : List Byte
  sa : List Byte
  b : List Byte
  sb : List Byte
  deriving DecidableEq, Repr

/-- The operands of the matrix instruction that runs. -/
def CuSt.mmData (x : CuSt) (m : MmSt) : MmData :=
  let res := bitOf m.w0 26
  { a := if res then storeBytes x.buf (64 * bitsOf m.w0 27 11) (mmABytes m.w0) else m.aBytes
    sa := if res then storeBytes x.scales (bitsOf m.w1 8 13) (mmAScales m.w0 m.w1) else m.sBytes
    b := storeBytes x.buf (64 * bitsOf m.w0 51 11) (mmBBytes m.w0)
    sb := storeBytes x.scales (bitsOf m.w1 32 13) (mmBScales m.w0 m.w1) }

/-- Firings that `n` steps take (R174). -/
def mmFirings (w : W64) (n : Nat) : Nat :=
  let a := fmtBits (bitsOf w 18 4)
  let b := fmtBits (bitsOf w 22 4)
  if 8 < a then 2 * n else if a = 8 ∨ b = 8 then n else ceilDiv n 2

/-- The product of a step in a cell (R176, R183, R235). -/
def mmTerm (w v : W64) (d : MmData) (step row col : Nat) : MatTerm :=
  let s := mmSplit w
  let k := step * s + row % s
  let fa := bitsOf w 18 4
  let fb := bitsOf w 22 4
  let la := blkLen (bitsOf v 0 3)
  let lb := blkLen (bitsOf v 27 3)
  let rawA := packedElem fa d.a (16 * step + row)
  let rawB := packedElem fb d.b (64 * k + col)
  let sa := if la = 0 then 0 else (nth d.sa (if bitOf v 3 then k * max 1 (16 / la) + row / la else 16 * (k / la) + row) 0).toNat
  let sb := if lb = 0 then 0 else (nth d.sb (if bitOf v 30 then k * max 1 (64 / lb) + col / lb else 64 * (k / lb) + col) 0).toNat
  let na := if la = 0 then Num.one else scaleNum (bitOf v 4) sa
  let nb := if lb = 0 then Num.one else scaleNum (bitOf v 31) sb
  { a := (decodeNum fa rawA).shift (intFactor fa (la != 0)), b := (decodeNum fb rawB).shift (intFactor fb (lb != 0))
    acrossA := if bitOf v 3 then na else .one, alongA := if bitOf v 3 then .one else na
    acrossB := if bitOf v 30 then nb else .one, alongB := if bitOf v 30 then .one else nb
    rawA := rawA, rawB := rawB, rawSa := sa, rawSb := sb }

/-- Products in an accumulation block (R238). -/
def mmBlock (w v : W64) : Nat :=
  let s := mmSplit w
  let la := if bitOf v 3 then 0 else blkLen (bitsOf v 0 3)
  let lb := if bitOf v 30 then 0 else blkLen (bitsOf v 27 3)
  let g := if la ≠ 0 ∧ lb ≠ 0 then min la lb else la + lb
  if g ≠ 0 then max 1 (g / s)
  else if 8 < fmtBits (bitsOf w 18 4) then max 1 (8 / s) else max 1 (32 / s)

/-- The terms of an element with their firings. -/
def mmTerms (w v : W64) (d : MmData) (row col : Nat) : List (Nat × MatTerm) :=
  (List.range (mmSteps w)).map (fun j => (mmFirings w (j + 1) - 1, mmTerm w v d j row col))

/-- The terms of whole blocks that end by a firing: what a stop there leaves added. -/
def termsBy (g f : Nat) (xs : List (Nat × MatTerm)) : List (Nat × MatTerm) :=
  ((chunksOf g xs.length xs).filter (fun b => (b.getLast?.map (fun x => decide (x.1 ≤ f))).getD false)).flatMap id

/-- The compute units that use the precise rule: logical (0, 2d) of each Dale, local index 0 (R177). -/
def cuPrecise (n : Nat) : Bool := n % 32 == 0

/-- An element of the result with its events. -/
def mmElement (precise : Bool) (w v : W64) (t : Num) (acc : W32) (xs : List (Nat × MatTerm)) : W32 × List NanEvent :=
  if precise then preciseElement t acc xs else truncElement (mmBlock w v) t acc xs

/-- The cells of a bank in the order of R249: rows, then columns. -/
def bankCells : List (Nat × Nat) := (List.range 16).flatMap (fun r => (List.range 64).map (fun c => (r, c)))

/-- The events of a matrix instruction in their order: by firing, then by row and column. -/
def sortEvents (es : List (Nat × Nat × NanEvent)) : List (Nat × Nat × NanEvent) :=
  es.foldl (fun l e => (l.filter (fun x => decide (x.2.2.firing ≤ e.2.2.firing))) ++ [e] ++
    (l.filter (fun x => decide (e.2.2.firing < x.2.2.firing)))) []

/-- The value from which a cell of the bank starts (R173). -/
def CuSt.mmStart (x : CuSt) (m : MmSt) (c : Nat × Nat) : W32 :=
  if bitOf m.w0 11 then mgetD x.acc (1024 * bitsOf m.w0 12 3 + 64 * c.1 + c.2) 0 else 0

/-- The cells of the bank once the given terms of each are added, with the events met. -/
def CuSt.mmBank (x : CuSt) (n : Nat) (m : MmSt) (terms : Nat → Nat → List (Nat × MatTerm)) :
    List ((Nat × Nat) × W32 × List NanEvent) :=
  bankCells.map (fun c =>
    (c, mmElement (cuPrecise n) m.w0 m.w1 ((ofF32 m.ta).mul (ofF32 m.tb)) (x.mmStart m c) (terms c.1 c.2)))

/-- The terms of a cell that firings 0 to `f` have added. -/
def CuSt.mmTermsBy (x : CuSt) (n : Nat) (m : MmSt) (f : Nat) (row col : Nat) : List (Nat × MatTerm) :=
  termsBy (if cuPrecise n then 1 else mmBlock m.w0 m.w1) f (mmTerms m.w0 m.w1 (x.mmData m) row col)

/-- The events of a bank with their cells, in their order. -/
def mmEvents (all : List ((Nat × Nat) × W32 × List NanEvent)) : List (Nat × Nat × NanEvent) :=
  sortEvents (all.flatMap (fun p => p.2.2.map (fun e => (p.1.1, p.1.2, e))))

/-- Whether an operand of a matrix instruction carries a poison mark (R524). -/
def CuSt.mmMarked (x : CuSt) (m : MmSt) : Bool :=
  m.poison || (mmLines m.w0).any (fun r => (List.range r.2).any (fun i => x.lineMarks.contains (r.1 + i))) ||
    (mmScales m.w0 m.w1).any (fun r => (unitsOf r.1 r.2).any (fun u => x.scaleMarks.contains u))

/-- The unit with the cells of the bank written, the bank's mark following, and the engine free. -/
def CuSt.mmWrite (x : CuSt) (m : MmSt) (cells : List ((Nat × Nat) × W32)) : CuSt :=
  let b := bitsOf m.w0 12 3
  { x with
    mm := none
    acc := cells.foldl (fun a p => mset a (1024 * b + 64 * p.1.1 + p.1.2) p.2) x.acc
    bankMarks := if x.mmMarked m then sinsert x.bankMarks b else if bitOf m.w0 11 then x.bankMarks else sremove x.bankMarks b }

/-- The firings of a matrix instruction whose operands are there: those of the steps of A that have come, and none while scales of A
are still to come. -/
def CuSt.mmReady (x : CuSt) (m : MmSt) : Nat :=
  let w := m.w0
  let come := if bitOf w 26 then mmSteps w else min (mmSteps w) ((x.mmData m).a.length / max 1 (2 * fmtBits (bitsOf w 18 4)))
  if m.sLeft ≠ 0 then 0
  else if come = mmSteps w then mmFirings w come
  else min (mmFirings w come) (mmFirings w (come + 1) - 1)

end Sys2Proof.Machine
end

