-- ==== Sys2Proof/Machine/Mapping.lean ====
section
/-! DEFINITION. The commands `MAP` and `UNMAP` (R51, R94 to R96), frame ownership and charging (R95, R96, R125), and page
migration (R100 to R102). -/

namespace Sys2Proof.Machine

/-! ## Frames: what an entry covers, who owns what -/

/-- The output range that one entry maps: its first global address and its length. -/
def entryRange (k : Nat) (e : W64) : Nat × Nat :=
  (leafAddr e + keyVa k % 2 ^ leafLog2 e, 2 ^ min (leafLog2 e) (levelShift (keyLevel k)))

/-- Whether an entry maps part of the 2 MiB frame at a local offset. -/
def State.entryMaps (s : State) (k : Nat) (e : W64) (base : Nat) : Bool :=
  let r := entryRange k e
  leafV e && r.1 / 2 ^ 51 == s.chip && decide (r.1 % 2 ^ 51 < base + frameBytes) && decide (base < r.1 % 2 ^ 51 + r.2)

/-- Whether job `n` maps part of the frame at a local offset. -/
def State.mapsFrame (s : State) (n base : Nat) : Bool :=
  (s.pageTable n).entries.any (fun x => s.entryMaps x.1 x.2 base)

/-- Whether frame `f` lies in a pool given as first frame and count. -/
def inPool (first frames f : Nat) : Bool := decide (first ≤ f) && decide (f < first + frames)

/-- Whether frame `f` lies in the migration pool of job `n` (R122). -/
def State.inMigPool (s : State) (n f : Nat) : Bool :=
  inPool (s.f F.TR_MIG_POOL_FIRST n) (s.f F.TR_MIG_POOL_FRAMES n) f

/-- Whether frame `f` lies in the KV pool of job `n` (R298). -/
def State.inKvPool (s : State) (n f : Nat) : Bool :=
  inPool (s.f F.SRV_KV_POOL_FIRST n) (s.f F.SRV_KV_POOL_FRAMES n) f

/-- Whether frame `f` holds a table of job `n` (R95). -/
def State.tableFrame (s : State) (n f : Nat) : Bool := (s.pageTable n).tables.any (fun x => frameOf x.2 == f)

/-- The jobs that have tables. -/
def State.tableJobs (s : State) : List Nat := s.frames.pages.map (fun x => x.1)

/-- Whether Basin frame `f` is free to be claimed: below the reserved range, outside the hot set, and held by no job as a
mapped, table or pool frame. -/
def State.frameFree (s : State) (f : Nat) : Bool :=
  decide (f < s.reservedFrom) && (mget s.frames.basinOwner f).isNone &&
  !inPool (s.f F.TR_CCACHE_CFG_FIRST) (s.f F.TR_CCACHE_CFG_FRAMES) f &&
  !s.tableJobs.any (fun n => s.tableFrame n f) &&
  !(List.range 256).any (fun n => s.inMigPool n f || s.inKvPool n f)

/-- The first frame from `f` upward that satisfies `p`, of the next `fuel`. -/
def findFrame (p : Nat → Bool) : Nat → Nat → Option Nat
  | 0, _ => none
  | fuel + 1, f => if p f then some f else findFrame p fuel (f + 1)

/-- A free frame that satisfies `p`, chosen by a free value: the manual does not say which (R95). -/
def State.chooseFrame (s : State) (p : Nat → Bool) : Option Nat :=
  let n := s.reservedFrom
  match findFrame p (n - s.free % (n + 1)) (s.free % (n + 1)) with
  | some f => some f
  | none => findFrame p n 0

/-- MiB charged to a job for the hot-set entries it pins (R118, R125). -/
def State.pinnedMib (s : State) (n : Nat) : Nat :=
  (s.casts.hot.filter (fun x => x.2.pins.contains n)).foldl (fun a x => a + 2 * x.2.frames.length) 0

/-- The Basin frames that hold tables of job `n`, each once. -/
def State.tableFrames (s : State) (n : Nat) : List Nat :=
  (s.pageTable n).tables.foldl (fun l x => sinsert l (frameOf x.2)) []

/-- Basin charged to job `n` in MiB (R125): owned frames, table frames, pools and pins. DESIGN CHOICE: a frame that counts under two of
these, a table frame inside a pool or a frame of both pools, is charged under each; an owned frame inside a pool only as part of the
pool. The manual does not say. -/
def State.usedMib (s : State) (n : Nat) : Nat :=
  2 * ((s.frames.basinOwner.filter (fun x => x.2 == n && !s.inMigPool n x.1 && !s.inKvPool n x.1)).length +
       (s.tableFrames n).length + s.f F.TR_MIG_POOL_FRAMES n + s.f F.SRV_KV_POOL_FRAMES n) + s.pinnedMib n

/-- Frames that job `n` no longer maps return to free (R96). The home of a promoted page stays mapped through its page (R100). -/
def State.releaseFrames (s : State) (n : Nat) : State :=
  let fr := s.frames
  { s with frames := { fr with
      basinOwner := fr.basinOwner.filter (fun x => x.2 != n || s.mapsFrame n (frameAddr x.1))
      plainOwner := fr.plainOwner.filter (fun x => x.2 != n || s.mapsFrame n (plainBase + x.1 * frameBytes) ||
        fr.mig.any (fun m => m.job == n && m.home == plainBase + x.1 * frameBytes)) } }

/-! ## Changing tables -/

/-- The migratable page of job `n` at a virtual address. -/
def State.migPage (s : State) (n va : Nat) : Option MigPage :=
  s.frames.mig.find? (fun m => m.job == n && m.va == va)

/-- The migratable pages replaced. -/
def State.setMig (s : State) (l : List MigPage) : State := { s with frames := { s.frames with mig := l } }

/-- The entries below an entry that becomes a leaf or goes away: everything job `n` maps in the range of the entry of a
level, tables of lower levels included. -/
def clearBelow (p : PageTable) (l va : Nat) : PageTable :=
  let lo := va / 2 ^ levelShift l * 2 ^ levelShift l
  let hi := lo + 2 ^ levelShift l
  let inside := fun (v : Nat) => decide (lo ≤ v) && decide (v < hi)
  let tabs := p.tables.filter (fun x =>
    !(decide (keyLevel x.1 < l) && inside (x.1 % 2 ^ 40 * 2 ^ levelShift (keyLevel x.1 + 1))))
  let ents := p.entries.filter (fun x => !(decide (keyLevel x.1 ≤ l) && inside (keyVa x.1)))
  { tables := tabs, entries := ents }

/-- The level and virtual address at which the entries of a page begin, and how many entries its group has (R94). -/
def groupOf (log2 : Nat) : Nat := 2 ^ (log2 - levelShift (leafLevel log2))

/-- A page's group of entries cleared. -/
def clearGroup (p : PageTable) (log2 va : Nat) : PageTable :=
  (List.range (groupOf log2)).foldl
    (fun p i => clearBelow p (leafLevel log2) (va + i * 2 ^ levelShift (leafLevel log2))) p

/-- A page's group of entries written with identical contents. -/
def writeGroup (p : PageTable) (log2 va : Nat) (e : W64) : PageTable :=
  let l := leafLevel log2
  let p := clearGroup p log2 va
  let ents := (List.range (groupOf log2)).foldl
    (fun m i => mset m (entryKey l (va + i * 2 ^ levelShift l)) e) p.entries
  { p with entries := ents }

/-- The tables that a leaf at a level needs and that do not exist, root first. -/
def missingTables (p : PageTable) (l va : Nat) : List Nat :=
  ([3, 2, 1, 0].filter (fun k => decide (l ≤ k))).filterMap fun k =>
    if (mget p.tables (tableKey k va)).isSome then none else some (tableKey k va)

/-- A free 4 KiB place in the frames that job `n` has already claimed (R95). -/
def State.freeTablePlace (s : State) (n : Nat) : Option Nat :=
  let used := (s.pageTable n).tables.map (fun x => x.2)
  (s.tableFrames n).findSome? fun f =>
    ((List.range 512).find? (fun i => !used.contains (frameAddr f + 4096 * i))).map (fun i => frameAddr f + 4096 * i)

/-- A table built for a key (R95): in a claimed frame with room, or in a frame claimed for the job. A leaf in the way of its
pointer is replaced. -/
def State.buildTable (s : State) (n key : Nat) (avoid : Nat → Bool) : State :=
  let put := fun (s : State) (a : Nat) =>
    let l := key / 2 ^ 40
    let va := key % 2 ^ 40 * 2 ^ levelShift (l + 1)
    let p := s.pageTable n
    let p := { p with entries := merase p.entries (entryKey (l + 1) va), tables := mset p.tables key a }
    let s := (s.zero a 4096).setPageTable n p
    if l = 3 then (s.setF F.TR_CTX_ROOT_VALID 1 n).setF F.TR_CTX_ROOT (a / 4096) n else s
  match s.freeTablePlace n with
  | some a => put s a
  | none =>
    match s.chooseFrame (fun f => s.frameFree f && !avoid f) with
    | some f => put s.drawn (frameAddr f)
    | none => s

/-- Tables that hold no entry and no table below are freed, except the root (R95); `fuel` is the number of levels. -/
def pruneTables : Nat → PageTable → PageTable
  | 0, p => p
  | fuel + 1, p =>
    let used := fun (k : Nat) =>
      let l := k / 2 ^ 40
      let i := k % 2 ^ 40
      p.entries.any (fun x => keyLevel x.1 == l && x.1 % 2 ^ 40 / 512 == i) ||
      p.tables.any (fun x => x.1 / 2 ^ 40 + 1 == l && x.1 % 2 ^ 40 / 512 == i)
    pruneTables fuel { p with tables := p.tables.filter (fun x => decide (3 ≤ x.1 / 2 ^ 40) || used x.1) }

/-- The migratable pages of job `n` whose entry a change of its tables has removed or replaced leave the list; a pool frame
they held returns to the pool (R100). -/
def State.dropMig (s : State) (n : Nat) : State :=
  s.setMig (s.frames.mig.filter fun m =>
    m.job != n || (match mget (s.pageTable n).entries (entryKey 1 m.va) with
      | some e => leafMig e && leafAddr e == (match m.frame with
        | some f => s.globalOf (frameAddr f)
        | none => s.globalOf m.home)
      | none => false))

/-! ## MAP (R51, R96) -/

/-- The pages of a `MAP`. -/
def mapPages (r : Rec) : Nat := bitsOf r.w5 0 32
/-- Whether a `MAP` unmaps. -/
def mapUnmaps (r : Rec) : Bool := bitOf r.w5 32
/-- The length that a `MAP` names. -/
def mapLen (r : Rec) : Nat := mapPages r * 2 ^ leafLog2 r.w4

/-- Whether both ends of the output of a mapping `MAP` lie in the tier that the template names (R94, R96). -/
def State.templateTier (s : State) (e : W64) (len : Nat) : Bool :=
  s.tierOf (leafAddr e) == leafTier e && (len == 0 || s.tierOf (leafAddr e + len - 1) == leafTier e)

/-- Encoding of `MAP` (R96). DESIGN CHOICE: a range that ends exactly at 2^48 does not reach it. -/
def mapEncoding (s : State) (_n : Nat) (r : Rec) : Option W64 :=
  match reservedField [(5, 33, 31), (6, 0, 64)] r with
  | some d => some d
  | none =>
    let e := r.w4
    let z := leafLog2 e
    if z < 12 ∨ 30 < z then some (badField 4 8)
    else if r.w3.toNat % 2 ^ z ≠ 0 ∨ 2 ^ 48 < r.w3.toNat + mapLen r then some (badField 3 0)
    else if mapUnmaps r then none
    else if !leafV e then some (badField 4 0)
    else if !leafLeaf e then some (badField 4 1)
    else if leafMig e ∧ (z ≠ 21 ∨ leafTier e ≠ 2) then some (badField 4 5)
    else if leafAddr e % 2 ^ z ≠ 0 then some (badField 4 13)
    else if regionOf (leafAddr e % 2 ^ 51) = .control then some (badField 4 13)
    else if !s.templateTier e (mapLen r) then some (badField 4 6)
    else none

/-- Presence of the output of a mapping `MAP`, every part of it, whatever its other operands are (R6, R8, R88). -/
def mapPresent (s : State) (r : Rec) : Bool :=
  mapUnmaps r || leafAddr r.w4 / 2 ^ 51 != s.chip || !s.rangeAbsent (leafAddr r.w4 % 2 ^ 51) (mapLen r)

/-- The 2 MiB frames that a local range touches, counted from a base. -/
def framesIn (base off len : Nat) : List Nat :=
  if len = 0 then []
  else (List.range ((off + len - 1 - base) / frameBytes - (off - base) / frameBytes + 1)).map
    ((off - base) / frameBytes + ·)

/-- Ownership of the output of a `MAP` by job `n` (R96, R298): own Dales for the Terrace, unowned or own frames below the
reserved range and outside every pool for the Basin, unowned or own frames for the Plain, a chip inside the fence. DESIGN CHOICE: a frame
of the hot set, a frame that holds one of the job's own tables and a frame of its own migration pool are refused as well; the manual does
not speak of them. -/
def mapOwns (s : State) (n : Nat) (r : Rec) : Bool :=
  let g := leafAddr r.w4
  let off := g % 2 ^ 51
  let len := mapLen r
  if mapUnmaps r || len == 0 then true
  else if g / 2 ^ 51 ≠ s.chip then s.inFence (g / 2 ^ 51)
  else match regionOf off with
    | .terrace => (List.range ((off + len - 1) / 0x2000000 - off / 0x2000000 + 1)).all
        (fun i => s.ownsDale n (off / 0x2000000 + i))
    | .basin => (framesIn basinBase off len).all fun f =>
        !s.reservedFrame f && ((mget s.frames.basinOwner f).getD n == n) &&
        !s.tableJobs.any (fun j => s.tableFrame j f) && !inPool (s.f F.TR_CCACHE_CFG_FIRST) (s.f F.TR_CCACHE_CFG_FRAMES) f &&
        !(List.range 256).any (fun j => s.inMigPool j f || s.inKvPool j f)
    | .plain => (framesIn plainBase off len).all fun f => (mget s.frames.plainOwner f).getD n == n
    | _ => false

/-- What an unmap finds for a page (R96): nothing to clear, a group to clear, or an entry of another shape. -/
inductive UnmapFind where
  | skip | clear | bad
  deriving DecidableEq, Repr

/-- What an unmap finds at the page at `va` of size `2^log2`. -/
def unmapFind (p : PageTable) (log2 va : Nat) : UnmapFind :=
  let l := leafLevel log2
  let upper := [2, 1].filter (fun k => decide (l < k))
  if upper.any (fun k => (mget p.entries (entryKey k va)).isSome) then .bad
  else match mget p.entries (entryKey l va) with
    | some e => if leafLog2 e = log2 then .clear else .bad
    | none => if l ≠ 0 ∧ (mget p.tables (tableKey (l - 1) va)).isSome then .bad else .skip

/-- The virtual addresses of the pages of a `MAP`. -/
def mapVas (r : Rec) : List Nat := (List.range (mapPages r)).map (fun i => r.w3.toNat + i * 2 ^ leafLog2 r.w4)

/-- An unmapping `MAP` runs (R96): every page is checked before any is cleared. -/
def State.runUnmap (s : State) (q seq : Nat) (r : Rec) : State :=
  let n := s.queueJob q
  let p := s.pageTable n
  let z := leafLog2 r.w4
  let found := (mapVas r).map (fun va => (va, unmapFind p z va))
  if found.any (fun x => x.2 == .bad) then s.finishFlight q seq .badCommand 0 (badField 4 8)
  else
    let p := (found.filter (fun x => x.2 == .clear)).foldl (fun p x => clearGroup p z x.1) p
    let s := s.setPageTable n (pruneTables 3 p)
    ((s.dropMig n).releaseFrames n).finishFlight q seq .ok

/-- The tables that a mapping `MAP` needs and that do not exist, each once. -/
def mapMissing (p : PageTable) (r : Rec) : List Nat :=
  (mapVas r).foldl (fun l va => (missingTables p (leafLevel (leafLog2 r.w4)) va).foldl (fun l k => sinsert l k) l) []

/-- The Basin frames a mapping `MAP` would newly own. -/
def State.mapNewFrames (s : State) (r : Rec) : List Nat :=
  let g := leafAddr r.w4
  if g / 2 ^ 51 = s.chip ∧ regionOf (g % 2 ^ 51) = .basin then
    (framesIn basinBase (g % 2 ^ 51) (mapLen r)).filter (fun f => (mget s.frames.basinOwner f).isNone)
  else []

/-- The new table frames that a number of new tables needs beyond the free places in claimed frames (R95). -/
def State.newTableFrames (s : State) (n tables : Nat) : Nat :=
  let free := 512 * (s.tableFrames n).length - (s.pageTable n).tables.length
  ceilDiv (tables - free) 512

/-- Whether job `n` may be charged `frames` more Basin frames (R63, R95, R96). -/
def State.quotaBears (s : State) (n frames : Nat) : Bool :=
  decide (s.usedMib n + 2 * frames ≤ s.f F.QE_JOB_QUOTA_QUOTA_MIB n)

/-- One page of a mapping `MAP` written, with its frames owned (R96) and its migratable page listed (R100). -/
def State.mapPage (s : State) (n : Nat) (e : W64) (va g : Nat) (avoid : Nat → Bool) : State :=
  let z := leafLog2 e
  let l := leafLevel z
  -- missing tables, root first: keys fall from level 3
  let s := (missingTables (s.pageTable n) l va).foldl (fun s k => s.buildTable n k avoid) s
  let s := s.setPageTable n (writeGroup (s.pageTable n) z va (leafWithAddr e g))
  let off := g % 2 ^ 51
  let fr := s.frames
  let s := if g / 2 ^ 51 ≠ s.chip then s
    else match regionOf off with
      | .basin => { s with frames := { fr with basinOwner :=
          (framesIn basinBase off (2 ^ z)).foldl (fun m f => mset m f n) fr.basinOwner } }
      | .plain => { s with frames := { fr with plainOwner :=
          (framesIn plainBase off (2 ^ z)).foldl (fun m f => mset m f n) fr.plainOwner } }
      | _ => s
  let s := s.dropMig n
  if leafMig e then
    s.setMig (s.frames.mig.filter (fun m => !(m.job == n && m.va == va)) ++
      [{ job := n, va := va, home := off, frame := none, heat := 0, dirty := false, copying := 0, copyFrame := 0 }])
  else s

/-- A mapping `MAP` runs (R51, R95, R96). -/
def State.runMap (s : State) (q seq : Nat) (r : Rec) : State :=
  let n := s.queueJob q
  let newData := s.mapNewFrames r
  let need := s.newTableFrames n (mapMissing (s.pageTable n) r).length
  if mapPages r ≠ 0 ∧ !s.quotaBears n (newData.length + need) then s.finishFlight q seq .noSpace
  else
    let z := leafLog2 r.w4
    let g := leafAddr r.w4
    let avoid := fun f => newData.contains f
    let s := (List.range (mapPages r)).foldl
      (fun s i => s.mapPage n r.w4 (r.w3.toNat + i * 2 ^ z) (g + i * 2 ^ z) avoid) s
    let s := s.setPageTable n (pruneTables 3 (s.pageTable n))
    (s.releaseFrames n).finishFlight q seq .ok

/-- `MAP` and `UNMAP` (0x12). The caches drop the replaced entries before it completes (R51), so no stale entry exists. -/
def specMap : CmdSpec where
  present := mapPresent
  encoding := mapEncoding
  takesTx := false
  opFence := fun _ => none
  owns := fun s q r => mapOwns s (s.queueJob q) r
  touches := fun s q r t => leafTier r.w4 == 0 && (List.range 32).any fun d =>
    s.txTouchesDale t d && s.ownsDale (s.queueJob q) d
  engine := 2
  run := fun s q seq r => if mapUnmaps r then s.runUnmap q seq r else s.runMap q seq r

/-- `MAP` (R51). -/
def execMap (q : QId) (s : State) : Host.Outcome State Fault Refusal :=
  .next (s.queueCommand specMap (fun r => r.opcode == 0x12 && !mapUnmaps r) q.val)

/-- `UNMAP` (R96): `MAP` with bit 32 of `OP2` set. -/
def execUnmap (q : QId) (s : State) : Host.Outcome State Fault Refusal :=
  .next (s.queueCommand specMap (fun r => r.opcode == 0x12 && mapUnmaps r) q.val)

/-! ## Migration (R100 to R102) -/

/-- A migratable page updated. -/
def State.updMig (s : State) (n va : Nat) (f : MigPage → MigPage) : State :=
  s.setMig (s.frames.mig.map (fun m => if m.job = n ∧ m.va = va then f m else m))

/-- `k` accesses to the migratable page that holds `va` (R101, R102): heat rises by `k`, a write marks a promoted page and abandons a
copy in progress. -/
def State.touchPage (s : State) (n va k : Nat) (wr : Bool) : State :=
  match s.migPage n (va / 0x200000 * 0x200000) with
  | none => s
  | some m =>
    let s := if wr && m.copying != 0 then s.count F.TR_MIG_STAT_ABANDONED n else s
    s.updMig n m.va fun m => { m with
      heat := min 255 (m.heat + k), dirty := m.dirty || (wr && m.frame.isSome),
      copying := if wr then 0 else m.copying }

/-- Every page that a range of virtual addresses touches, with the part of the range that lies in it. -/
def pageParts (va len : Nat) : List (Nat × Nat) :=
  if len = 0 then []
  else (List.range ((va + len - 1) / 0x200000 - va / 0x200000 + 1)).map fun i =>
    let a := max va ((va / 0x200000 + i) * 0x200000)
    (a, min (va + len) ((va / 0x200000 + i + 1) * 0x200000) - a)

/-- An access by a mover or a memory unit to a range (R101, R102). DESIGN CHOICE: each 64-byte line of it is one access; the manual does
not say what counts as one. -/
def State.touchRange (s : State) (n va len : Nat) (wr : Bool) : State :=
  (pageParts va len).foldl (fun s x => s.touchPage n x.1 (unitsOf x.1 x.2).length wr) s

/-- A write by any other engine or by a core to a range (R102): it marks promoted pages and abandons copies in progress, and adds no
heat. -/
def State.noteRange (s : State) (n va len : Nat) : State :=
  (pageParts va len).foldl (fun s x => s.touchPage n x.1 0 true) s

/-- `HEAT_EPOCH` (R101): every `2^EPOCH_LOG2` ticks all counters halve. DESIGN CHOICE: a period runs from the last halving, the first from
reset, and a change of `EPOCH_LOG2` holds for the period in progress; the manual does not say. -/
def execHeatEpoch (s : State) : Host.Outcome State Fault Refusal :=
  let p := 2 ^ s.f F.TR_MIG_CTRL_EPOCH_LOG2
  .next (if s.frames.epoch + p ≤ s.now then
      let s := s.setMig (s.frames.mig.map (fun m => { m with heat := m.heat / 2 }))
      { s with frames := { s.frames with epoch := s.now - (s.now - s.frames.epoch) % p } }
    else s)

/-- Whether a frame of the migration pool of job `n` is in use. -/
def State.poolFrameUsed (s : State) (n f : Nat) : Bool :=
  s.frames.mig.any fun m => m.job == n && (m.frame == some f || (m.copying == 1 && m.copyFrame == f))

/-- The free frames of the migration pool of job `n`. -/
def State.freePoolFrames (s : State) (n : Nat) : List Nat :=
  ((List.range (s.f F.TR_MIG_POOL_FRAMES n)).map (s.f F.TR_MIG_POOL_FIRST n + ·)).filter
    (fun f => !s.poolFrameUsed n f)

/-- `MIGRATION_PROMOTE` (R100, R101): the copy of a hot Plain-resident page into a free pool frame begins; which free frame
is taken is a free value. -/
def execMigrationPromote (n : JobId) (va : W64) (s : State) : Host.Outcome State Fault Refusal :=
  .next (match s.migPage n.val va.toNat with
    | none => s
    | some m =>
      let free := s.freePoolFrames n.val
      if m.frame.isNone && m.copying == 0 && decide (s.f F.TR_MIG_CTRL_PROMOTE ≤ m.heat) && !free.isEmpty then
        let f := nth free (s.free % free.length) 0
        s.drawn.updMig n.val m.va (fun m => { m with copying := 1, copyFrame := f })
      else s)

/-- `MIGRATION_DEMOTE` (R100, R101): the pool is full, a hot page waits in the Plain, and the coldest promoted page below
`DEMOTE` begins its way home. -/
def execMigrationDemote (n : JobId) (va : W64) (s : State) : Host.Outcome State Fault Refusal :=
  .next (match s.migPage n.val va.toNat with
    | none => s
    | some m =>
      let others := s.frames.mig.filter (fun x => x.job == n.val && x.frame.isSome)
      let hot := s.frames.mig.any fun x =>
        x.job == n.val && x.frame.isNone && decide (s.f F.TR_MIG_CTRL_PROMOTE ≤ x.heat)
      if m.frame.isSome && m.copying == 0 && decide (m.heat < s.f F.TR_MIG_CTRL_DEMOTE) &&
          others.all (fun x => decide (m.heat ≤ x.heat)) && (s.freePoolFrames n.val).isEmpty && hot then
        s.updMig n.val m.va (fun m => { m with copying := 2 })
      else s)

/-- The leaf of a migratable page rewritten with a tier and a local offset (R100, R102). -/
def State.rewriteLeaf (s : State) (n va tier off : Nat) : State :=
  let p := s.pageTable n
  match mget p.entries (entryKey 1 va) with
  | none => s
  | some e => s.setPageTable n { p with
      entries := mset p.entries (entryKey 1 va) (setBits (leafWithAddr e (s.globalOf off)) 6 2 tier) }

/-- A range copied with its poison marks. -/
def State.copyRange (s : State) (src dst len : Nat) : State :=
  (List.range (ceilDiv len 64)).foldl
    (fun t i => t.store (dst + 64 * i) (s.bytes (src + 64 * i) (min 64 (len - 64 * i)))
      (s.poisoned (src + 64 * i) (min 64 (len - 64 * i)))) s

/-- The owner of a frame that lies outside the job's migration pool, once a page is promoted into it or has left it (R96, R100): it is a
frame that the job maps, or returns to free. -/
def State.settlePoolFrame (s : State) (n f : Nat) (held : Bool) : State :=
  let fr := s.frames
  if s.inMigPool n f then s
  else if held then { s with frames := { fr with basinOwner := mset fr.basinOwner f n } }
  else if mget fr.basinOwner f = some n ∧ !s.mapsFrame n (frameAddr f) then
    { s with frames := { fr with basinOwner := merase fr.basinOwner f } }
  else s

/-- `MIGRATION_SWITCH` (R102): a completed copy takes effect; the leaf is rewritten and the source frame freed. A demotion
copies the page home only if it was written while promoted (R100). -/
def execMigrationSwitch (n : JobId) (va : W64) (s : State) : Host.Outcome State Fault Refusal :=
  .next (match s.migPage n.val va.toNat with
    | none => s
    | some m =>
      if m.copying = 1 then
        let s := s.copyRange m.home (frameAddr m.copyFrame) frameBytes
        let s := s.rewriteLeaf n.val m.va 1 (frameAddr m.copyFrame)
        let s := s.updMig n.val m.va (fun m => { m with frame := some m.copyFrame, dirty := false, copying := 0 })
        (s.settlePoolFrame n.val m.copyFrame true).count F.TR_MIG_STAT_PROMOTED n.val
      else if m.copying = 2 then
        match m.frame with
        | none => s
        | some f =>
          let s := if m.dirty then s.copyRange (frameAddr f) m.home frameBytes else s
          let s := s.rewriteLeaf n.val m.va 2 m.home
          let s := s.updMig n.val m.va (fun m => { m with frame := none, dirty := false, copying := 0 })
          (s.settlePoolFrame n.val f false).count F.TR_MIG_STAT_DEMOTED n.val
      else s)

end Sys2Proof.Machine
end

