-- ==== Sys2Proof/Machine/Timebase.lean ====
section
/-! DEFINITION. The timebase and its comparators (R28 to R31, R38, R39), the rate windows (R36) and the delay-line margin
monitors (R25). -/

namespace Sys2Proof.Machine

/-! ## Ticks (R28, R30) -/

/-- The signed part of the committed offset not yet absorbed (R35). -/
def State.adjRemain (s : State) : Int := signedOf 32 (s.f F.GLB_TIME_STATUS_ADJ_REMAIN)

/-- What the slew absorbs next (R29, R30): the committed offset, then the phase difference of a change of source. DESIGN CHOICE: the
order of the two, which the manual leaves open. -/
def State.slewLeft (s : State) : Int := if s.adjRemain = 0 then s.tb.phase else s.adjRemain

/-- One tick toward zero. -/
def towardZero (d : Int) : Int := if 0 < d then d - 1 else d + 1

/-- Whether the next tick is the one in a thousand that absorbs a tick (R30). -/
def State.slewDue (s : State) : Bool := s.tb.locked && s.slewLeft != 0 && decide (999 ≤ s.tb.slewPhase)

/-- What is left to absorb after a slewed tick: the committed offset, or where none is left the phase difference, moves one toward zero. -/
def State.absorbOne (s : State) : State :=
  if s.adjRemain = 0 then { s with tb := { s.tb with phase := towardZero s.tb.phase } }
  else s.setF F.GLB_TIME_STATUS_ADJ_REMAIN (encodeSigned 32 (towardZero s.adjRemain))

/-- The slewed tick (R28, R30): two for a positive offset, none for a negative one; the remainder moves one toward zero. -/
def State.slewTick (s : State) : State :=
  let t := s.absorbOne
  { t with tb := { t.tb with tick := if 0 < s.slewLeft then s.tb.tick + 2 else s.tb.tick, slewPhase := 0 } }

/-- One tick of an unslewed timebase. -/
def State.plainTick (s : State) : State :=
  { s with tb := { s.tb with
      tick := s.tb.tick + 1, slewPhase := if s.slewLeft = 0 then 0 else s.tb.slewPhase + 1 } }

/-- One tick (R28): nothing counts before the first lock. -/
def State.tickOnce (s : State) : State :=
  if !s.tb.locked then s else if s.slewDue then s.slewTick else s.plainTick

/-! ## Sources (R29) -/

/-- The first present source in the order of R29; 3 for none. -/
def firstSource (ps : List Bool) : Nat := (ps.findIdx? id).getD 3

/-- The phase difference that the slew of R30 absorbs after a change to another source (R29): a free value. -/
def State.phaseStep (s : State) : State :=
  { s.drawn with tb := { s.tb with phase := s.tb.phase + signedOf 64 s.free } }

/-- A change of `SOURCE` after the first lock (R29, R35): it steps nothing, and the phase difference of the new source is left to the slew. -/
def State.setSource (s : State) (k : Nat) : State :=
  if s.f F.GLB_TIME_STATUS_SOURCE = k then s
  else
    let s := if k = 3 then s else s.phaseStep
    let s := s.setF F.GLB_TIME_STATUS_SOURCE k
    let s := s.setF F.GLB_TIME_STATUS_HOLDOVER (if k = 3 then 1 else 0)
    s.setF F.GLB_TIME_STATUS_SRC_CHANGED 1

/-- The state with the presence of a source set; a source that appears has been present since now. -/
def State.setPresent (s : State) (k : Nat) (b : Bool) : State :=
  { s with tb := { s.tb with
      present := setNth s.tb.present k b
      presentAt := if b && !nth s.tb.present k false then setNth s.tb.presentAt k s.now else s.tb.presentAt } }

/-- Whether a source has been present and stable for 10 ms (R29). -/
def State.stable (s : State) (k : Nat) : Bool :=
  nth s.tb.present k false && decide (nth s.tb.presentAt k 0 + 10000000 ≤ s.now)

/-- `TIMEBASE_LOCK` (R28, R29): the first lock after power-on, to the highest source present; without a source nothing
locks. -/
def execTimebaseLock (timeref portA portB : Bool) (s : State) : Host.Outcome State Fault Refusal :=
  let ps := [timeref, portA, portB]
  .next (if s.tb.locked || firstSource ps == 3 then s
    else
      let s := s.setF F.GLB_TIME_STATUS_SOURCE (firstSource ps)
      { s with tb := { s.tb with locked := true, tick := 0, present := ps, presentAt := [0, 0, 0], rateStart := 0 } })

/-- `TIMEREF_LOSS` (R29): a source shows no edge for 200 ns. Loss of the source in use changes to the next present one, or to
holdover with a `HOLDOVER` fault. DESIGN CHOICE: the next present source is the highest of the whole order that is present, also one
above the lost one that has been present for less than 10 ms; the manual does not say. -/
def execTimerefLoss (k : Fin 3) (s : State) : Host.Outcome State Fault Refusal :=
  let s := s.setPresent k.val false
  .next (if s.tb.locked && s.f F.GLB_TIME_STATUS_SOURCE == k.val then
      let n := firstSource s.tb.present
      let s := s.setSource n
      if n = 3 then s.fault 0x1004 .device 0 else s
    else s)

/-- `SOURCE_PRESENT` (R29): a source appears; in holdover it is taken at once. -/
def execSourcePresent (k : Fin 3) (s : State) : Host.Outcome State Fault Refusal :=
  let s := s.setPresent k.val true
  .next (if s.tb.locked && s.f F.GLB_TIME_STATUS_SOURCE == 3 then s.setSource k.val else s)

/-- `SOURCE_RETAKE` (R29): a source higher in the order than the one in use has been present and stable for 10 ms. -/
def execSourceRetake (k : Fin 3) (s : State) : Host.Outcome State Fault Refusal :=
  .next (if s.tb.locked && decide (k.val < s.f F.GLB_TIME_STATUS_SOURCE) && s.f F.GLB_TIME_STATUS_SOURCE != 3 && s.stable k.val then
      s.setSource k.val
    else s)

/-! ## Rate windows (R36) -/

/-- `RATE_WINDOW` (R36): at the end of each 1 ms window the measured rates are shown. -/
def execRateWindow (w e : BitVec 16) (s : State) : Host.Outcome State Fault Refusal :=
  let d := s.now - s.tb.rateStart.toNat
  .next (if s.tb.locked && decide (1000000 ≤ d) then
      let s := (s.setF F.GLB_RATE_RATE_WEST w.toNat).setF F.GLB_RATE_RATE_EAST e.toNat
      { s with tb := { s.tb with rateStart := BitVec.ofNat 64 (s.now - d % 1000000) } }
    else s)

/-! ## Comparators (R38, R39) -/

/-- Comparator `n` fires (R39): its fence by one, its vector on the owner's port, then `EN` clears. -/
def State.fireComparator (s : State) (n : Nat) : State :=
  let j := s.f F.GLB_CMP_CTRL_OWNER_JOB n
  let s := s.signal j (s.f F.GLB_CMP_CTRL_FENCE n) 1 true false
  let s := s.raise (s.f F.QE_JOB_CTRL_OWNER_PORT j) (s.f F.GLB_CMP_CTRL_VECTOR n)
  s.setF F.GLB_CMP_CTRL_EN 0 n

/-- Whether comparator `n` is enabled, owned and at its target (R28, R39). -/
def State.comparatorDue (s : State) (n : Nat) : Bool :=
  s.fb F.GLB_CMP_CTRL_EN n && s.fb F.GLB_CMP_CTRL_OWNED n && decide (s.f F.GLB_CMP_TGT_TARGET n ≤ s.now)

/-- `COMPARATOR_FIRE` (R39). -/
def execComparatorFire (n : Fin 64) (s : State) : Host.Outcome State Fault Refusal :=
  .next (if s.comparatorDue n.val then s.fireComparator n.val else s)

/-- Whether a control value's `FENCE` lies in the fence range of the job that owns comparator `n` (R39). -/
def State.comparatorFence (s : State) (n : Nat) (v : W64) : Bool := s.ownsFence (s.f F.GLB_CMP_CTRL_OWNER_JOB n) (bitsOf v 28 16)

/-- A new control value of comparator `n` from its owner (R39): the `RW` fields are written, but for a `FENCE` outside the job's
range, and a target already reached when `EN` is written to 1 fires at once. -/
def State.writeComparator (s : State) (n : Nat) (v : W64) : State :=
  let s := s.setF F.GLB_CMP_CTRL_EN (bitsOf v 0 1) n
  let s := s.setF F.GLB_CMP_CTRL_VECTOR (bitsOf v 17 11) n
  let s := if s.comparatorFence n v then s.setF F.GLB_CMP_CTRL_FENCE (bitsOf v 28 16) n else s
  if bitOf v 0 && s.comparatorDue n then s.fireComparator n else s

/-- The port by which a direct access arrives. -/
def viaPort : Via → Option Nat
  | .port p => some p.val
  | _ => none

/-- `GLB_CMP_CTRL_WRITE` (R39): a direct write from the owning job's port. -/
def execGlbCmpCtrlWrite (via : Via) (n : Fin 64) (v : W64) (s : State) : Host.Outcome State Fault Refusal :=
  let j := s.f F.GLB_CMP_CTRL_OWNER_JOB n.val
  .next (if viaPort via == some (s.f F.QE_JOB_CTRL_OWNER_PORT j) && s.jobValid j && s.fb F.GLB_CMP_CTRL_OWNED n.val then
      s.writeComparator n.val v
    else s)

/-! ## Delay-line margins (R25) -/

/-- Whether a site index names a site of the part. -/
def State.siteExists (s : State) (i : Nat) : Bool := decide (siteCol i ≤ s.part.dieCols)

/-- An element queued for recalibration once (R547). -/
def State.queueCal (s : State) (kind element : Nat) : State :=
  if s.cal.queued.contains (kind, element) then s
  else
    let s := { s with cal := { s.cal with queued := s.cal.queued ++ [(kind, element)] } }
    s.setF F.FLT_CAL_STAT_QUEUED (satTo 8 s.cal.queued.length)

/-- A margin below 8% (R25): logged, counted, and the delay-line record marked `CALSTALE`. -/
def State.marginWarn (s : State) (site margin : Nat) : State :=
  let s := s.fault 0x1001 .site site 0xFF none (BitVec.ofNat 64 margin)
  let s := s.count F.GLB_MARGIN_WARN_COUNT
  (s.count F.FLT_CAL_STAT_STALE).queueCal 3 site

/-- A margin below 4% (R25): one trim step, or at the greatest trim code a `UNIT` fault that retires the site. -/
def State.marginCrit (s : State) (site margin : Nat) : State :=
  let s := s.count F.GLB_MARGIN_CRIT_COUNT
  let t := mgetD s.cal.trims site 0
  if t < 63 then
    let s := { s with cal := { s.cal with trims := mset s.cal.trims site (t + 1) } }
    s.fault 0x1002 .site site 0xFF none (BitVec.ofNat 64 margin)
  else s.fault 0x3003 .site site 0xFF none (BitVec.ofNat 64 margin)

/-- `MARGIN_EVENT` (R25, R37): a monitor measures a margin, in 0.5% steps. -/
def execMarginEvent (site : BitVec 12) (margin : BitVec 8) (s : State) : Host.Outcome State Fault Refusal :=
  let m := margin.toNat
  .next (if !s.siteExists site.toNat then s
    else
      let s := if m < s.f F.GLB_MARGIN_WORST then s.setF F.GLB_MARGIN_WORST m else s
      let s := if m < 16 then s.marginWarn site.toNat m else s
      if m < 8 then s.marginCrit site.toNat m else s)

end Sys2Proof.Machine
end

