-- ==== Sys2Proof/Machine/Power.lean ====
section
/-! DEFINITION. The voltage governor and the Plinth current limit (R21 to R23, R583, R584, R594 to R597). -/

namespace Sys2Proof.Machine

/-- Whether a cast that spans the Saddle is active (R107). -/
def State.spanningActive (s : State) : Bool :=
  s.casts.active.any fun x =>
    (x.2.state == .ready || x.2.state == .running) &&
    match mget s.casts.refs x.2.cast with
    | some c => decide (c.first < 16) && decide (16 < c.first + c.count)
    | none => false

/-- `BELOW_FLOOR` after a change of the requested voltages (R21, R36): set while either die is below 0.70 V, with `WAS_BELOW`
and one fault where it becomes 1. -/
def State.updateFloor (s : State) : State :=
  let w := decide (s.f F.PWR_STAT_VID_W < 700)
  let e := decide (s.f F.PWR_STAT_VID_E < 700)
  if (w || e) && !s.fb F.GLB_RATE_BELOW_FLOOR then
    let s := (s.setF F.GLB_RATE_BELOW_FLOOR 1).setF F.GLB_RATE_WAS_BELOW 1
    s.fault 0x1A01 .die (if w then 0 else 1)
  else if !(w || e) then s.setF F.GLB_RATE_BELOW_FLOOR 0
  else s

/-- A voltage requested of a die's regulator over AVSBus, and shown in `PWR_STAT`. -/
def State.requestVid (s : State) (die mv : Nat) : State :=
  let x := if die = 0 then F.PWR_STAT_VID_W else F.PWR_STAT_VID_E
  if s.f x = mv then s else (s.setF x mv).emit (.avs die mv)

/-- The nearest end of a range (R594). -/
def clampTo (lo hi v : Nat) : Nat := if v < lo then lo else if hi < v then hi else v

/-- The lowest of the governor's voltages for a die with the item that decided (R583): set-point, power cap, Tj, HBM3, and the
current-limit ceiling; ties go to the lower item. Only Tj, HBM3 and the ceiling may ask for less than 0.70 V, and nothing
for less than 0.60 V (R21). -/
def governDie (setpoint cap tj hbm : Nat) (ceil : Option Nat) : Nat × Nat :=
  let c1 := (max 700 setpoint, 0)
  let low := fun (a b : Nat × Nat) => if b.1 < a.1 then b else a
  let v := low (low (low c1 (max 700 cap, 1)) (max 600 tj, 2)) (max 600 hbm, 3)
  match ceil with
  | some c => low v (max 600 c, 4)
  | none => v

/-- The two dies held together (R23, R107): while a Saddle-spanning cast is active, or where they would differ by more than
100 mV, both take the lower voltage. The flag says that the hold decided. -/
def holdDies (span : Bool) (w e : Nat) : Nat × Nat × Bool :=
  if w ≠ e ∧ (span ∨ w + 100 < e ∨ e + 100 < w) then (min w e, min w e, true) else (w, e, false)

/-- The measurements of a period (R585, R595 to R597). -/
def State.measure (s : State) (g : GovInput) : State :=
  let s := s.setF F.PWR_MEAS_I_CORE_W g.iW
  let s := s.setF F.PWR_MEAS_I_CORE_E g.iE
  let s := s.setF F.PWR_MEAS_P_PKG g.power
  let s := s.setF F.PWR_TEMP_TJ_W g.tjW
  let s := s.setF F.PWR_TEMP_TJ_E g.tjE
  let s := s.setF F.PWR_TEMP_HBM_MAX g.hbmMax
  let s := s.setF F.PWR_TEMP_HBM_STACK g.hbmStack
  let s := s.setF F.PWR_TEMP_OE_MAX g.oeMax
  let s := s.setF F.PWR_TEMP_OE_ENGINE g.oeEngine
  s.countWrap F.PWR_ENERGY_MJ 0 0 g.energyMj

/-- The requests of one governor period (R583). `LIMITER` shows the item that decided for the die with the lower voltage,
West on a tie. -/
def State.govern (s : State) (g : GovInput) : State :=
  let sp := clampTo 700 850 (s.f F.PWR_GOV_SETPOINT_MV)
  let w := governDie sp g.vCap g.vTjW g.vHbmW s.power.ceilW
  let e := governDie sp g.vCap g.vTjE g.vHbmE s.power.ceilE
  let h := holdDies s.spanningActive w.1 e.1
  let s := (s.requestVid 0 h.1).requestVid 1 h.2.1
  let s := s.setF F.PWR_STAT_LIMITER (if h.2.2 then 5 else if e.1 < w.1 then e.2 else w.2)
  s.updateFloor

/-- `GOVERNOR_PERIOD` (R583): the governor runs on the supervisor firmware, and the Plinth trip ends it. -/
def execGovernorPeriod (g : GovInput) (s : State) : Host.Outcome State Fault Refusal :=
  .next (if s.f F.SEC_BOOT_STAT_MODE == 1 && !s.fb F.PWR_STAT_TRIPPED then (s.measure g).govern g else s)

/-- The ceiling of a die set to a voltage for 10 ms (R584). -/
def State.setCeiling (s : State) (die mv : Nat) : State :=
  let t := s.now + 10000000
  if die = 0 then { s with power := { s.power with ceilW := some mv, ceilWEnd := t } }
  else { s with power := { s.power with ceilE := some mv, ceilEEnd := t } }

/-- One 20 mV step of the current limit on a die, never below 0.60 V (R584). -/
def State.limitStep (s : State) (die : Nat) : State :=
  let v := s.f (if die = 0 then F.PWR_STAT_VID_W else F.PWR_STAT_VID_E)
  s.requestVid die (max 600 (v - 20))

/-- `n` steps of the current limit, applied to both dies while a Saddle-spanning cast is active. -/
def State.limitSteps : Nat → State → Nat → State
  | 0, s, _ => s
  | n + 1, s, die =>
    let s' := if s.spanningActive then (s.limitStep 0).limitStep 1 else s.limitStep die
    s'.limitSteps n die

/-- `CURRENT_LIMIT` (R584): the current of a die exceeds 820 A, and `steps + 1` steps bring it down. -/
def execCurrentLimit (die : Fin 2) (steps : Fin 16) (s : State) : Host.Outcome State Fault Refusal :=
  .next (if !s.power.good || s.fb F.PWR_STAT_TRIPPED then s
    else
      let span := s.spanningActive
      let s := s.limitSteps (steps.val + 1) die.val
      let s := s.count F.SEC_PLINTH_STAT_CURRENT_EVENTS
      let s := if span || die.val == 0 then s.setCeiling 0 (s.f F.PWR_STAT_VID_W) else s
      let s := if span || die.val == 1 then s.setCeiling 1 (s.f F.PWR_STAT_VID_E) else s
      (s.setF F.PWR_STAT_LIMITER 4).updateFloor)

/-- `CURRENT_CEILING_EXPIRY` (R584): the 10 ms have passed. -/
def execCurrentCeilingExpiry (die : Fin 2) (s : State) : Host.Outcome State Fault Refusal :=
  .next (if die.val == 0 then
      (if s.power.ceilW.isSome && decide (s.power.ceilWEnd ≤ s.now) then
        { s with power := { s.power with ceilW := none } } else s)
    else (if s.power.ceilE.isSome && decide (s.power.ceilEEnd ≤ s.now) then
        { s with power := { s.power with ceilE := none } } else s))

end Sys2Proof.Machine
end

