-- ==== Sys2Proof/Machine/Links.lean ====
section
/-! DEFINITION. The Altur links: calibration records and their validity (R431, R546, R547), the link state machine (R428 to
R431), flits (R432, R433), bundles and ports (R435 to R438), routing and the sending of messages (R439 to R441, R472). -/

namespace Sys2Proof

/-! ## Fields of a flit (R432) -/

/-- The header of a flit. -/
def Flit.header (f : Flit) : BitVec 64 := Machine.leWord (f.bytes.take 8)
/-- `KIND`. -/
def Flit.kind (f : Flit) : Nat := Machine.bitsOf f.header 0 2
/-- `SEQ`. -/
def Flit.seq (f : Flit) : Nat := Machine.bitsOf f.header 2 12
/-- `ACK`. -/
def Flit.ack (f : Flit) : Nat := Machine.bitsOf f.header 14 12
/-- `NAK`. -/
def Flit.nak (f : Flit) : Bool := Machine.bitOf f.header 26
/-- `VC`. -/
def Flit.vc (f : Flit) : Nat := Machine.bitsOf f.header 27 3
/-- `SOM`. -/
def Flit.som (f : Flit) : Bool := Machine.bitOf f.header 30
/-- `EOM`. -/
def Flit.eom (f : Flit) : Bool := Machine.bitOf f.header 31
/-- `PAYLEN`. -/
def Flit.paylen (f : Flit) : Nat := Machine.bitsOf f.header 32 8
/-- `CRVC`. -/
def Flit.crvc (f : Flit) : Nat := Machine.bitsOf f.header 40 3
/-- `CREDITS`. -/
def Flit.credits (f : Flit) : Nat := Machine.bitsOf f.header 43 10
/-- The valid payload bytes. DESIGN CHOICE: a `PAYLEN` above 244, which the manual does not define, takes all 244. -/
def Flit.payload (f : Flit) : List (BitVec 8) := ((f.bytes.drop 8).take 244).take f.paylen
/-- Whether the CRC-32 of bytes 0 to 251 stands in bytes 252 to 255. -/
def Flit.crcOk (f : Flit) : Bool := Machine.leNat (f.bytes.drop 252) == (Machine.crc32 (f.bytes.take 252)).toNat

end Sys2Proof

namespace Sys2Proof.Machine

/-! ## Records of links and ports -/

/-- What link `l` holds. -/
def State.link (s : State) (l : Nat) : LinkSt := mgetD s.net.links l .fresh

/-- The state with what link `l` holds replaced. -/
def State.setLink (s : State) (l : Nat) (x : LinkSt) : State :=
  { s with net := { s.net with links := mset s.net.links l x } }

/-- What logical port `p` holds. -/
def State.lport (s : State) (p : Nat) : PortRt := mgetD s.net.ports p .fresh

/-- The state with what logical port `p` holds replaced. -/
def State.setLport (s : State) (p : Nat) (x : PortRt) : State :=
  { s with net := { s.net with ports := mset s.net.ports p x } }

/-- The state code of a link (R428). -/
def State.linkState (s : State) (l : Nat) : Nat := s.f F.ALT_LINK_STAT_STATE l

/-- The valid port that names link `l` (R435). -/
def State.portOf (s : State) (l : Nat) : Option Nat :=
  (List.range 8).find? (fun p => s.fb F.ALT_PORT_CFG_VALID p && (s.f F.ALT_PORT_CFG_LINKS p).testBit l)

/-- Whether link `l` carries traffic (R435): `UP`, not `MISMATCH`, and named by a valid port. -/
def State.carries (s : State) (l : Nat) : Bool :=
  s.linkState l == 6 && !s.faults.outLinks.contains l && !s.fb F.ALT_LINK_STAT_MISMATCH l && (s.portOf l).isSome

/-- The carrying links of port `p`, in ascending order. -/
def State.carrying (s : State) (p : Nat) : List Nat := (List.range 22).filter (fun l => s.carries l && s.portOf l == some p)

/-! ## Calibration records (R431, R546, R547) -/

/-- The load class of a package power in W (R546). -/
def loadClass (w : Nat) : Nat := if w < 500 then 0 else if w < 1000 then 1 else if w < 1500 then 2 else 3

/-- The optical engine of a link (R420). -/
def engineOfLink (l : Nat) : Nat := if l < 16 then l / 4 else if l < 19 then 4 else 5

/-- The laser input of a link (R420). -/
def laserOfLink (l : Nat) : Nat :=
  if l < 16 then l / 2 else if l < 18 then 8 else if l = 18 then 9 else if l < 21 then 10 else 11

/-- The die by which an element of a calibration kind is placed: the stack's die for a channel, the die above which the
engine sits for a link or a laser input (R590), the site's die for a delay line, West otherwise. -/
def State.calDie (s : State) (kind element : Nat) : Nat :=
  match kind with
  | 0 => s.stackDie (element / 16)
  | 1 => let e := engineOfLink element; if e = 2 ∨ e = 3 ∨ e = 5 then 1 else 0
  | 2 => let e := element / 2; if e = 2 ∨ e = 3 ∨ e = 5 then 1 else 0
  | 3 => siteDie element
  | _ => 0

/-- Whether a record is within its window under the present measurements (R547). -/
def State.recordValid (s : State) (x : CalRecord) : Bool :=
  let die := s.calDie x.kind x.element
  let tj := s.f (if die = 0 then F.PWR_TEMP_TJ_W else F.PWR_TEMP_TJ_E)
  let v := s.f (if die = 0 then F.PWR_STAT_VID_W else F.PWR_STAT_VID_E)
  let c := loadClass (s.f F.PWR_MEAS_P_PKG)
  let laser := signedOf 8 (s.f F.ALT_LASER_IN_MIN (if x.kind = 1 then laserOfLink x.element else x.element))
  decide (tj ≤ x.tj + 20) && decide (x.tj ≤ tj + 20) && decide (v ≤ x.vdd + 25) && decide (x.vdd ≤ v + 25) &&
  decide (c ≤ x.load + 1) && decide (x.load ≤ c + 1) &&
  (decide (x.kind ≠ 1 ∧ x.kind ≠ 2) || (decide (laser ≤ x.laser + 4) && decide (x.laser ≤ laser + 4)))

/-- The record of an element. -/
def State.calRecord (s : State) (kind element : Nat) : Option CalRecord :=
  s.cal.records.find? (fun x => x.kind == kind && x.element == element)

/-- A record written in place of the element's old one. -/
def State.putRecord (s : State) (x : CalRecord) : State :=
  { s with cal := { s.cal with
      records := s.cal.records.filter (fun y => !(y.kind == x.kind && y.element == x.element)) ++ [x] } }

/-- The record of an element as the present measurements give it. -/
def State.freshRecord (s : State) (kind element : Nat) : CalRecord :=
  let die := s.calDie kind element
  { kind := kind, element := element
    tj := s.f (if die = 0 then F.PWR_TEMP_TJ_W else F.PWR_TEMP_TJ_E)
    vdd := s.f (if die = 0 then F.PWR_STAT_VID_W else F.PWR_STAT_VID_E)
    load := loadClass (s.f F.PWR_MEAS_P_PKG)
    laser := signedOf 8 (s.f F.ALT_LASER_IN_MIN (if kind = 1 then laserOfLink element else element))
    time := s.now }

/-- The domain of a calibration element (R526, R546). -/
def calDomain (kind : Nat) : Domain :=
  match kind with
  | 0 => .hbmChannel | 1 => .link | 3 => .site | _ => .device

/-- A record used outside its window (R547): `CALSTALE` is logged and counted, and the element queued. A link also shows it in
its status (R431). -/
def State.calStale (s : State) (kind element : Nat) : State :=
  let d := calDomain kind
  let s := s.fault 0x1B01 d (if d = .device then 0 else element) 0xFF none (BitVec.ofNat 64 kind)
  let s := (s.count F.FLT_CAL_STAT_STALE).queueCal kind element
  if kind = 1 then s.setF F.ALT_LINK_STAT_CALSTALE 1 element else s

/-! ## Routing (R440, R441, R472) -/

/-- Where a message for a chip goes next. -/
inductive Hop where
  | here
  | port (p : Nat)
  | unroutable
  deriving DecidableEq, Repr

/-- The direction port of R456: 0 N, 1 E, 2 S, 3 W; none where it is not valid. -/
def State.dirPort (s : State) (d : Nat) : Hop :=
  let v := (s.r R.ALT_DIR_PORT)
  if bitOf v (4 * d + 3) then .port (bitsOf v (4 * d) 3) else .unroutable

/-- The next port for a chip (R440). -/
def State.nextHop (s : State) (d : Nat) : Hop :=
  let b := s.f F.ALT_MESH_BASE
  let w := s.f F.ALT_MESH_W_M1 + 1
  let h := s.f F.ALT_MESH_H_M1 + 1
  if d = s.chip then .here
  else if !(s.fb F.ALT_MESH_VALID && decide (b ≤ d) && decide (d < b + w * h)) then
    if s.fb F.ALT_EXT_VALID && decide (s.f F.ALT_EXT_BASE ≤ d) && decide (d < s.f F.ALT_EXT_BASE + s.f F.ALT_EXT_COUNT) then
      .port (s.f F.ALT_EXT_PORT)
    else .unroutable
  else
    let dx := (d - b) % w
    let dy := (d - b) / w
    let x := (s.chip - b) % w
    let y := (s.chip - b) / w
    if dx ≠ x then (if x < dx then s.dirPort 1 else s.dirPort 3)
    else (if y < dy then s.dirPort 0 else s.dirPort 2)

/-- The port for a message of job `j` to chip `d` (R472): an owned port to that very chip with a carrying link, otherwise the
port of R440. -/
def State.hopFor (s : State) (j d : Nat) : Hop :=
  match (List.range 8).find? (fun p => s.fb F.ALT_PORT_OWN_OWNED p && s.f F.ALT_PORT_OWN_OWNER_JOB p == j &&
      s.fb F.ALT_PORT_CFG_VALID p && s.f F.ALT_PORT_CFG_PEER_CHIP p == d && !(s.carrying p).isEmpty) with
  | some p => .port p
  | none => s.nextHop d

/-! ## Sending (R434, R436) -/

/-- Flits of a message: 244 payload bytes each, after a 32-byte header (R432, R442). -/
def flitsOf (m : OutMsg) : Nat := ceilDiv (32 + m.data.length) 244

/-- `LEN` of a message: its data bytes, or the bytes that a Plain read asks for (R442, R446). -/
def OutMsg.len (m : OutMsg) : Nat := if m.op = 0x40 then m.arg1 else m.data.length

/-- The first word of a message's header (R442). -/
def OutMsg.word0 (m : OutMsg) : W64 :=
  let w := setBits (setBits (BitVec.ofNat 64 m.op) 8 3 m.vc) 11 1 (if m.poison then 1 else 0)
  setBits (setBits (setBits (setBits w 12 12 m.src) 24 12 m.dst) 36 14 m.len) 50 8 m.job

/-- The bytes of a message (R442): its header, then its data. A message with values for which the manual gives no place in the header
has free bytes in the header's last three words, a function of what it says. -/
def OutMsg.bytes (m : OutMsg) : List Byte :=
  let args := if m.op = 0x40 ∨ m.op = 0x42 then 0 else m.arg1
  let rest := wordsBytes [BitVec.ofNat 64 (m.addr % 2 ^ 51), BitVec.ofNat 64 (m.xid % 2 ^ 32 + 2 ^ 32 * (m.arg0 % 2 ^ 32)), BitVec.ofNat 64 args]
  wordsBytes [m.word0] ++
    (if m.extra.isEmpty then rest else padTo 24 (Config.messageWords m.op (m.addr :: m.xid :: m.arg0 :: m.arg1 :: m.extra))) ++ m.data

/-- The data flits of a message (R432): up to 244 bytes each, the first with `SOM` and the last with `EOM`. -/
def OutMsg.flits (m : OutMsg) (p pseq : Nat) : List TxFlit :=
  let n := flitsOf m
  (List.range n).map fun i =>
    { port := p, pseq := pseq, vc := m.vc, som := i == 0, eom := i + 1 == n, payload := (m.bytes.drop (244 * i)).take 244 }

/-- The 256 bytes of a data flit (R432) with its number, the acknowledgement and the credit total it carries. -/
def TxFlit.bytes (f : TxFlit) (seq ack crvc credits : Nat) : List Byte :=
  let w := setBits (setBits (setBits (1 : W64) 2 12 seq) 14 12 ack) 27 3 f.vc
  let w := setBits (setBits w 30 1 (if f.som then 1 else 0)) 31 1 (if f.eom then 1 else 0)
  let w := setBits (setBits (setBits w 32 8 f.payload.length) 40 3 crvc) 43 10 credits
  let bs := wordsBytes [w] ++ padTo 244 f.payload
  bs ++ leBytes 4 (crc32 bs).toNat

/-- The channels of a link (R434). -/
def channelsOf (l : Nat) : Nat := if l < 18 then 6 else 3

/-- A data flit number `i` put on link `l` (R432): it carries the last flit received in order and the next channel's credit total. -/
def State.putFlit (s : State) (l i : Nat) (f : TxFlit) : State :=
  let x := s.link l
  let c := x.creditTurn
  (s.setLink l { x with creditTurn := (c + 1) % channelsOf l }).emit
    (.flit l (f.bytes (i % 4096) ((x.rxNext + 4095) % 4096) c (nth x.freed c 0 % 1024)))

/-- Data flits put on link `l` one after another, numbered from `i`. -/
def State.putFlits (s : State) (l : Nat) : Nat → List TxFlit → State
  | _, [] => s
  | i, f :: t => (s.putFlit l i f).putFlits l (i + 1) t

/-! ## The order of flits on a link (R473) -/

/-- Whether a flit of a channel waits on link `l` and has a credit (R434). -/
def State.mayGo (s : State) (l vc : Nat) : Bool :=
  let x := s.link l
  x.queue.any (fun f => f.vc == vc) && decide (nth x.spent vc 0 < nth x.granted vc 0 + nth x.peerFreed vc 0)

/-- The channels of the weighted round-robin in their order (R473). -/
def turnVc (i : Nat) : Nat := nth [0, 2, 3, 4] (i % 4) 0

/-- The flits a channel sends in its turn (R473, R487). -/
def State.turnWeight (s : State) (vc : Nat) : Nat :=
  match vc with
  | 0 => s.f F.ALT_RM_CFG_W_REQ
  | 2 => s.f F.ALT_RM_CFG_W_POST
  | 3 => s.f F.ALT_RM_CFG_W_RING
  | _ => s.f F.ALT_RM_CFG_W_COLL

/-- The channel that sends the next flit of link `l`, with the place of the turn and the flits the turn then has left (R473): `CTL`, then
`RSP`, then the channel whose turn it is, or the next in the round that has something to send. DEDUCED: a channel without a credit has
nothing to send. -/
def State.nextVc (s : State) (l : Nat) : Option (Nat × Nat × Nat) :=
  let x := s.link l
  if s.mayGo l 5 then some (5, x.turn, x.turnLeft)
  else if s.mayGo l 1 then some (1, x.turn, x.turnLeft)
  else if decide (0 < x.turnLeft) && s.mayGo l (turnVc x.turn) then some (turnVc x.turn, x.turn, x.turnLeft - 1)
  else ((List.range 4).map (fun k => (x.turn + 1 + k) % 4)).findSome? fun i =>
    if s.mayGo l (turnVc i) then some (turnVc i, i, s.turnWeight (turnVc i) - 1) else none

/-- The next data flit of link `l` sent: numbered on, charged to its channel's credits and kept until acknowledged; at most 512 are
unacknowledged (R433). -/
def State.sendFlit (s : State) (l : Nat) : State :=
  let x := s.link l
  if 512 ≤ x.unacked.length then s
  else match s.nextVc l with
  | none => s
  | some (c, t, k) =>
    match x.queue.find? (fun f => f.vc == c) with
    | none => s
    | some f =>
      (s.setLink l { x with
        queue := x.queue.eraseP (fun f => f.vc == c), turn := t, turnLeft := k, txNext := x.txNext + 1
        spent := setNth x.spent c (nth x.spent c 0 + 1), unacked := x.unacked ++ [f] }).putFlit l x.txNext f

/-- `n` times the next flit of link `l`. -/
def State.sendQueued : Nat → Nat → State → State
  | 0, _, s => s
  | n + 1, l, s => State.sendQueued n l (s.sendFlit l)

/-- Link `l` sends what it can while it is `UP` or draining. -/
def State.drainLink (s : State) (l : Nat) : State :=
  if s.linkState l = 6 ∨ s.linkState l = 7 then State.sendQueued (s.link l).queue.length l s else s

/-- Flits put behind those that wait on link `l`. -/
def State.queueFlits (s : State) (l : Nat) (fs : List TxFlit) : State :=
  let x := s.link l
  s.setLink l { x with queue := x.queue ++ fs }

/-- The carrying link a message goes on (R436): the one with the fewest flits queued, the lower number on a tie. -/
def State.pickLink (s : State) (p : Nat) : Option Nat :=
  (s.carrying p).foldl
    (fun b l => match b with
      | none => some l
      | some k => if (s.link l).queue.length < (s.link k).queue.length then some l else some k) none

/-- A held message queued on a carrying link of its port, where there is one. -/
def State.launch (s : State) (p : Nat) (t : TxMsg) : State × TxMsg :=
  match s.pickLink p with
  | none => (s, { t with link := none })
  | some l =>
    let m := { t.msg with port := p }
    ((s.emit (.message m)).queueFlits l (m.flits p t.pseq), { t with link := some l })

/-- Every held message of port `p` queued on a link in order, while at most 256 messages of its channel are unacknowledged (R436); the links
then send what they can. -/
def State.pump (s : State) (p : Nat) : State :=
  let r := (s.lport p).txq.foldl
    (fun (a : State × List TxMsg) t =>
      if t.link.isSome || decide (256 ≤ (a.2.filter (fun u => u.msg.vc == t.msg.vc)).length) then (a.1, a.2 ++ [t])
      else
        let z := a.1.launch p t
        (z.1, a.2 ++ [z.2])) (s, [])
  (s.carrying p).foldl (fun s l => s.drainLink l) (r.1.setLport p { r.1.lport p with txq := r.2 })

/-- A message queued on a port with its port sequence number, and sent as soon as a link takes it (R436, R438). -/
def State.sendOn (s : State) (p : Nat) (m : OutMsg) : State :=
  let x := s.lport p
  let n := nth x.seqs m.vc 0
  let s := s.setLport p { x with
    seqs := setNth x.seqs m.vc ((n + 1) % 65536)
    txq := x.txq ++ [{ msg := { m with port := p }, pseq := n, link := none }] }
  s.pump p

/-- What became of a message at its source (R441, R470). -/
inductive Sent where
  | sent | fenced | unreachable
  deriving DecidableEq, Repr

/-- An `UNREACHABLE` notice that a lost port drops is counted (R441). DEDUCED: in `UNROUTABLE`, the count of messages that go nowhere. -/
def State.dropNotice (s : State) (m : OutMsg) : State := if m.op = 0x2A then s.count F.ALT_NET_STAT_UNROUTABLE else s

/-- A message sent to its destination by a hop: fenced at the source, where the destination or the device itself lies outside the
fence (R537), dropped and counted as unroutable, dropped for a lost port, or queued (R441). -/
def State.sendVia (s : State) (hop : Hop) (m : OutMsg) : State × Sent :=
  if !s.inFence m.dst || !s.inFence s.chip then (s.count F.ALT_NET_STAT_FENCE_DROPS, .fenced)
  else match hop with
    | .port p =>
      if !s.fb F.ALT_PORT_CFG_VALID p then (s.count F.ALT_NET_STAT_UNROUTABLE, .unreachable)
      else if s.fb F.ALT_PORT_STAT_LOST p then (s.dropNotice m, .unreachable)
      else (s.sendOn p m, .sent)
    | _ => (s.count F.ALT_NET_STAT_UNROUTABLE, .unreachable)

/-- A message of the device's own sent for its job (R472). -/
def State.send (s : State) (m : OutMsg) : State × Sent :=
  s.sendVia (s.hopFor m.job m.dst) { m with src := s.chip }

/-- A response, a forwarded message or a collective step: it always follows R440 (R472). -/
def State.sendPlainRoute (s : State) (m : OutMsg) : State × Sent := s.sendVia (s.nextHop m.dst) m

/-- A message with every field at zero. -/
def OutMsg.blank : OutMsg where
  port := 0
  op := 0
  src := 0
  dst := 0
  vc := 0
  poison := false
  job := 0
  addr := 0
  xid := 0
  arg0 := 0
  arg1 := 0
  extra := []
  data := []

/-- An `UNREACHABLE` notice to the source of a message that cannot go on (R441); a notice that is itself undeliverable is
dropped. -/
def State.noticeUnreachable (s : State) (m : OutMsg) : State :=
  if m.op = 0x2A then s
  else
    let r := s.sendPlainRoute
      { OutMsg.blank with op := 0x2A, src := s.chip, dst := m.src, vc := 5, job := m.job, addr := m.addr, xid := m.xid,
                          arg0 := m.op, arg1 := m.dst }
    if r.2 = .sent then r.1.count F.ALT_NET_STAT_UNREACH_SENT else r.1

/-- The channel of each message type (R443); `none` for an undefined type or a Plain type. -/
def vcOf : Nat → Option Nat
  | 0x01 => some 0 | 0x02 => some 1 | 0x03 => some 2 | 0x04 => some 1 | 0x05 => some 0 | 0x06 => some 1
  | 0x08 => some 2 | 0x09 => some 1 | 0x10 => some 3 | 0x11 => some 3 | 0x12 => some 3 | 0x13 => some 3 | 0x14 => some 5
  | 0x18 => some 4 | 0x19 => some 4 | 0x20 => some 2 | 0x21 => some 2 | 0x28 => some 5 | 0x29 => some 5 | 0x2A => some 5
  | _ => none

/-- The received message as a message to forward. -/
def forwarded (m : Msg) (op : Nat) : OutMsg :=
  { port := 0, op := op, src := m.src.toNat, dst := m.dst.toNat, vc := m.vc, poison := m.poison, job := m.job.val,
    addr := m.addr, xid := m.xid.toNat, arg0 := m.arg0.toNat, arg1 := m.arg1.toNat, extra := [], data := m.data }

/-- A message dropped on link `l` under R443. DEDUCED: it is one of the link codes, whose `DATUM` is `LAST_FAIL` (R560). -/
def State.badMsg (s : State) (l : Nat) : State :=
  (s.count F.ALT_NET_STAT_BAD_MSG).fault 0x1503 .link l 0xFF none (BitVec.ofNat 64 (s.f F.ALT_LINK_STAT_LAST_FAIL l))

/-- A message received on a link (R441, R443): dropped outside the fence, dropped as malformed on the wrong channel or on a
Plain link, forwarded when it is for another chip, and handled otherwise. -/
def State.receive (s : State) (m : Msg) (op : Nat) (handle : State → State) : State :=
  if s.linkState m.link.val ≠ 6 ∧ s.linkState m.link.val ≠ 7 then s
  else if vcOf op ≠ some m.vc ∨ 18 ≤ m.link.val then
    s.badMsg m.link.val
  else if !s.inFence m.src.toNat || !s.inFence m.dst.toNat then
    (s.count F.ALT_NET_STAT_FENCE_DROPS).count F.ALT_LINK_ERR_FENCE_DROPS m.link.val
  else if m.dst.toNat = s.chip then handle s
  else
    let r := s.sendVia (s.nextHop m.dst.toNat) (forwarded m op)
    if r.2 = .unreachable then r.1.noticeUnreachable (forwarded m op) else r.1

/-! ## Plain requests (R446, R447) -/

/-- The Plain links of the part, in ascending order (R3, R447). -/
def State.plainLinks (s : State) : List Nat := [18, 19, 20, 21].filter s.part.hasLink

/-- The link of a Plain request at a Plain offset (R447): that of its 4 KiB granule, or the next one that is `UP`, with whether
it was rerouted. `none` while no Plain link is `UP`. -/
def State.plainLink (s : State) (addr : Nat) : Option (Nat × Bool) :=
  let ls := s.plainLinks
  let i := addr / 4096 % max 1 ls.length
  ((List.range ls.length).map (fun k => nth ls ((i + k) % ls.length) 0)).findSome? fun l =>
    if s.linkState l = 6 then some (l, l != nth ls i 0) else none

/-- Whether two Plain requests may not be outstanding at once (R447): a read and a write, or two writes, of overlapping bytes. -/
def plainClash (a b : OutMsg) : Bool :=
  (a.op == 0x42 || b.op == 0x42) && decide (a.addr < b.addr + b.arg1) && decide (b.addr < a.addr + a.arg1)

/-- An unsent Plain request put on a link where one is `UP`; it stays unsent while a request it clashes with is outstanding. -/
def State.plainSend (s : State) (x : Request) : State × Request :=
  if s.net.requests.any (fun y => y.xid != x.xid && y.plainLink.any (fun l => decide (l < 22)) && plainClash x.msg y.msg) then (s, x)
  else match s.plainLink x.msg.addr with
  | none => (s, x)
  | some (l, re) =>
    let s := if re then s.count F.PLN_STAT_REROUTED else s
    let s := s.emit (.plainReq l x.msg.op x.xid x.msg.addr x.msg.arg1 x.msg.poison x.msg.data)
    ((s.queueFlits l ({ x.msg with xid := x.xid }.flits 8 0)).drainLink l, { x with plainLink := some l })

/-- A Plain request issued (R446): `len` bytes at a Plain offset, whole 64-byte lines. A `plainLink` of 22 marks a request that
no link has taken yet. -/
def State.issuePlain (s : State) (who : Issuer) (op addr len job : Nat) (poison : Bool) (data : List Byte) : State :=
  let x : Request :=
    { xid := s.net.nextXid, issuer := who, plainLink := some 22, sentAt := s.now, result := none, busyAt := none
      msg := { OutMsg.blank with op := op, vc := if op = 0x42 then 2 else 0, job := job, addr := addr, arg1 := len, poison := poison, data := data } }
  let r := s.plainSend x
  { r.1 with net := { r.1.net with nextXid := (r.1.net.nextXid + 1) % 2 ^ 32, requests := r.1.net.requests ++ [r.2] } }

/-- The Plain requests that no link had taken go out once one is `UP`. -/
def State.flushPlain (s : State) : State :=
  s.net.requests.foldl (fun s x =>
    if x.plainLink = some 22 then
      let r := s.plainSend x
      { r.1 with net := { r.1.net with requests := r.1.net.requests.map (fun y => if y.xid = x.xid then r.2 else y) } }
    else s) s

/-- A remote request issued (R460): sent and kept until its response, or refused at the source with the status that R470
gives. -/
def State.issueRemote (s : State) (who : Issuer) (m : OutMsg) : State × Option Status :=
  let m := { m with xid := s.net.nextXid, src := s.chip }
  let r := s.send m
  match r.2 with
  | .fenced => (r.1, some .fenced)
  | .unreachable => (r.1, some .memberLost)
  | .sent =>
    let x : Request := { xid := m.xid, issuer := who, msg := m, plainLink := none, sentAt := s.now, result := none, busyAt := none }
    ({ r.1 with net := { r.1.net with
        nextXid := (r.1.net.nextXid + 1) % 2 ^ 32, requests := r.1.net.requests ++ [x] } }, none)

/-- The outstanding requests of an issuer. -/
def State.outstanding (s : State) (who : Issuer) : List Request :=
  s.net.requests.filter (fun x => x.issuer == who && x.result.isNone)

/-- The requests of an issuer forgotten: later responses are late (R470). -/
def State.forgetRequests (s : State) (who : Issuer) : State :=
  { s with net := { s.net with requests := s.net.requests.filter (fun x => x.issuer != who) } }

/-! ## Link states (R428 to R431) -/

/-- The status fields that follow from the configuration and the states: carrying links, names, and the ports that have just
lost or regained their last carrying link (R435, R438, R451, R457). Messages held by a port that carries again go out. -/
def State.refreshPorts (s : State) : State :=
  let s := (List.range 22).foldl (fun s l =>
    let p := s.portOf l
    let s := s.setF F.ALT_LINK_STAT_CARRYING (if s.carries l then 1 else 0) l
    let s := s.setF F.ALT_LINK_STAT_NAMED (if p.isSome then 1 else 0) l
    s.setF F.ALT_LINK_STAT_PORT (p.getD 0) l) s
  (List.range 8).foldl (fun s p =>
    let c := s.carrying p
    let s := s.setF F.ALT_PORT_STAT_CARRYING (c.foldl (fun m l => m ||| 2 ^ l) 0) p
    let x := s.lport p
    if c.isEmpty then
      if s.fb F.ALT_PORT_CFG_VALID p && x.noCarry.isNone then s.setLport p { x with noCarry := some s.now } else s
    else
      let s := if x.noCarry.isSome || s.fb F.ALT_PORT_STAT_LOST p then
          (s.setLport p { x with noCarry := none }).setF F.ALT_PORT_STAT_LOST 0 p
        else s
      s.pump p) s

/-- A link enters a state (R428, R451). -/
def State.setLinkState (s : State) (l st : Nat) : State :=
  if s.linkState l = st then s
  else
    let s := (s.setF F.ALT_LINK_STAT_STATE st l).setF F.ALT_LINK_STAT_CHANGED 1 l
    (s.setLink l { s.link l with since := s.now }).refreshPorts

/-- The unacknowledged messages of a link sent again, whole, on the remaining carrying links (R437). A Plain link keeps its flits (R433). -/
def State.resend (s : State) (l : Nat) : State :=
  let s := if l < 18 then s.setLink l { s.link l with queue := [] } else s
  (List.range 8).foldl (fun s p =>
    let x := s.lport p
    (s.setLport p { x with txq := x.txq.map (fun t => if t.link = some l then { t with link := none } else t) }).pump p) s

/-- A link leaves `UP` for a state with a cause (R429): the departure is counted and logged. The training pattern of the peer is still to
be seen (R428). -/
def State.depart (s : State) (l st cause : Nat) : State :=
  let s := s.setF F.ALT_LINK_STAT_LAST_FAIL cause l
  let s := s.count F.ALT_LINK_ERR_RETRAINS l
  let s := (s.setLink l { s.link l with patternAt := none }).setLinkState l st
  s.fault 0x1501 .link l 0xFF none (BitVec.ofNat 64 cause)

/-- A link leaves `UP` because it failed (R429, R433, R437): its messages are resent. -/
def State.leaveUp (s : State) (l st cause : Nat) : State := (s.depart l st cause).resend l

/-- A link leaves `UP` for `DRAIN` and then for a state (R428, R429). The manual gives a recalibration and a disabled link no cause:
`LAST_FAIL` reads 0, none. -/
def State.beginDrain (s : State) (l dest : Nat) : State := (s.setLink l { s.link l with drainTo := dest }).depart l 7 0

/-- A link enters `TUNE` (R428, R431): from its record when that is valid, with a full search otherwise; a record outside its
window sets `CALSTALE`. -/
def State.enterTune (s : State) (l : Nat) : State :=
  let x := s.link l
  let valid := match s.calRecord 1 l with
    | some c => s.recordValid c
    | none => false
  let stale := !x.forceSearch && (s.calRecord 1 l).isSome && !valid
  let s := s.setLink l { x with searching := x.forceSearch || !valid, forceSearch := false, patternAt := none }
  let s := if stale then s.calStale 1 l else s
  s.setLinkState l 2

/-- `LIGHT_DETECTED` (R428). -/
def execLightDetected (l : LinkId) (s : State) : Host.Outcome State Fault Refusal :=
  .next (if s.part.hasLink l.val && s.linkState l.val == 1 then s.enterTune l.val else s)

/-- `LIGHT_LOSS` (R428, R429). A draining link without light resends its unacknowledged messages on the others. -/
def execLightLoss (l : LinkId) (s : State) : Host.Outcome State Fault Refusal :=
  let st := s.linkState l.val
  .next (if st = 6 then s.leaveUp l.val 1 1
    else if st = 7 then s.resend l.val
    else if 2 ≤ st ∧ st < 6 then (s.setF F.ALT_LINK_STAT_LAST_FAIL 1 l.val).setLinkState l.val 1
    else s)

/-- `TUNING_LOOP` (R423): one adjustment of the sixteen heaters of a link that is not dark. -/
def execTuningLoop (l : LinkId) (settings : List Nat) (s : State) : Host.Outcome State Fault Refusal :=
  let st := s.linkState l.val
  .next (if s.part.hasLink l.val && decide (2 ≤ st) && decide (st ≠ 9) then
      s.setLink l.val { s.link l.val with heaters := (List.range 16).map (fun i => nth settings i 0) }
    else s)

/-- `RING_LOCK_LOST` (R423): the link leaves `UP` for `TUNE`. -/
def execRingLockLost (l : LinkId) (ring : Fin 8) (s : State) : Host.Outcome State Fault Refusal :=
  .next (if s.linkState l.val = 6 then
      let s := s.setF F.ALT_LINK_OPT_RING_LOCK (s.f F.ALT_LINK_OPT_RING_LOCK l.val &&& (255 - 2 ^ ring.val)) l.val
      let s := s.leaveUp l.val 2 6
      s.enterTune l.val
    else s)

/-- `RINGS_LOCKED` (R422, R428, R431): a link in `TUNE` whose laser input is not low enters `ALIGN`; a full search has written
a new record and clears `CALSTALE`. -/
def execRingsLocked (l : LinkId) (s : State) : Host.Outcome State Fault Refusal :=
  .next (if s.linkState l.val = 2 ∧ !s.fb F.ALT_LASER_LOW (laserOfLink l.val) then
      let x := s.link l.val
      let s := if x.searching then
          (s.putRecord (s.freshRecord 1 l.val)).setF F.ALT_LINK_STAT_CALSTALE 0 l.val
        else s
      let s := s.setLink l.val { s.link l.val with searching := false }
      (s.setF F.ALT_LINK_OPT_RING_LOCK 0xFF l.val).setLinkState l.val 3
    else s)

/-- `PATTERN_DETECTED` (R428): the first detection of the peer's pattern starts the `ALIGN` limit. -/
def execPatternDetected (l : LinkId) (s : State) : Host.Outcome State Fault Refusal :=
  let st := s.linkState l.val
  .next (if (st = 2 ∨ st = 3) ∧ (s.link l.val).patternAt.isNone then
      s.setLink l.val { s.link l.val with patternAt := some s.now }
    else s)

/-- The device's own identity sent on a link (R428): its chip number and whether it is valid, the link number and the part code. -/
def State.sendIdent (s : State) (l : Nat) : State := s.emit (.ident l s.chip (s.fb F.ALT_MESH_VALID) s.part.code)

/-- The initial credits and the replay position sent on a link (R428, R433, R434): the receive buffers of its channels, and the number of
the data flit expected next. -/
def State.sendCredits (s : State) (l : Nat) : State :=
  s.emit (.credits l ([64, 128, 160, 128, 96, 16].take (channelsOf l)) (s.link l).rxNext)

/-- `CODEWORD_LOCK` (R428): a link in `ALIGN` that has seen the pattern enters `IDENT` and sends its identity. -/
def execCodewordLock (l : LinkId) (s : State) : Host.Outcome State Fault Refusal :=
  .next (if s.linkState l.val = 3 ∧ (s.link l.val).patternAt.isSome then (s.setLinkState l.val 4).sendIdent l.val else s)

/-- Whether an identity exchange agrees (R430, R445): an Altur index sees an Altur device, the own mesh is valid, and the
peer's valid chip is the one the port names; a Plain index sees a Plain buffer of the recorded identity. -/
def State.identAgrees (s : State) (l : Nat) (i : IdentInfo) : Bool :=
  if l < 18 then
    !i.plain && s.fb F.ALT_MESH_VALID && (match s.portOf l with
      | some p => i.chipValid && s.f F.ALT_PORT_CFG_PEER_CHIP p == i.chip.toNat
      | none => true)
  else i.plain && (!s.fb F.PLN_CAP_VALID || s.f F.PLN_CAP_BUF_ID == i.bufId.toNat)

/-- An identity exchange on a link in `IDENT` (R428, R430, R445, R452). -/
def State.identify (s : State) (l : Nat) (i : IdentInfo) : State :=
  let v := setBits (0 : W64) 0 12 i.chip.toNat
  let v := setBits v 12 5 i.link
  let v := setBits v 17 8 (if i.plain then 0xFF else i.part.toNat)
  let v := setBits v 25 1 (if i.chipValid then 1 else 0)
  let s := s.setR R.ALT_LINK_PEER (setBits v 26 1 1) l
  let s := s.setLink l { s.link l with identAt := s.now }
  if s.identAgrees l i then
    let s := if 18 ≤ l then
        s.setR R.PLN_CAP (setBits (setBits (setBits (0 : W64) 0 15 (min 16384 i.capGib)) 15 1 1) 32 32 i.bufId.toNat)
      else s
    ((s.setF F.ALT_LINK_STAT_MISMATCH 0 l).setLinkState l 5).sendCredits l
  else s.setF F.ALT_LINK_STAT_MISMATCH 1 l

/-- `IDENT` (R430). -/
def execIdent (l : LinkId) (i : IdentInfo) (s : State) : Host.Outcome State Fault Refusal :=
  .next (if s.linkState l.val = 4 ∧ !s.fb F.ALT_LINK_STAT_MISMATCH l.val then s.identify l.val i else s)

/-- `IDENT_RETRY` (R430): a mismatched link repeats the exchange every 10 ms. -/
def execIdentRetry (l : LinkId) (i : IdentInfo) (s : State) : Host.Outcome State Fault Refusal :=
  .next (if s.linkState l.val = 4 ∧ s.fb F.ALT_LINK_STAT_MISMATCH l.val ∧ (s.link l.val).identAt + 10000000 ≤ s.now then
      (s.sendIdent l.val).identify l.val i
    else s)

/-- Whether another member of the port of link `l` is `UP` (R431). -/
def State.otherUp (s : State) (l : Nat) : Bool :=
  match s.portOf l with
  | none => true
  | some p => (List.range 22).any (fun k => k != l && s.portOf k == some p && s.linkState k == 6)

/-- A link taken out for recalibration (R431): it drains, or its request is held while it is the last `UP` member. -/
def State.startRecal (s : State) (l : Nat) : State :=
  if s.linkState l ≠ 6 then s
  else if s.otherUp l then
    let s := s.setLink l { s.link l with recalHeld := false }
    (s.beginRecovery .link l).beginDrain l 8
  else s.setLink l { s.link l with recalHeld := true }

/-- The held recalibrations that may begin now that another member is `UP` (R431). -/
def State.releaseRecals (s : State) : State :=
  (List.range 22).foldl (fun s l => if (s.link l).recalHeld && s.otherUp l then s.startRecal l else s) s

/-- The count of data flits that agrees with number `n` modulo 4,096 and is not behind those acknowledged (R432, R433). -/
def LinkSt.countOf (x : LinkSt) (n : Nat) : Nat := x.txAcked + (n + 4096 - x.txAcked % 4096) % 4096

/-- What a link resumes with at the peer's replay position (R433). The messages of a logical port were sent again whole (R437), so an Altur
link goes on from that position with nothing; a Plain link still has the flits that the peer had not received. -/
def LinkSt.resumed (x : LinkSt) (altur : Bool) (credits : List Nat) (replay : Nat) : LinkSt :=
  let n := x.countOf replay
  let again := if altur then [] else x.unacked.drop (n - x.txAcked)
  { x with
    granted := (List.range 6).map (fun i => nth credits i 0), peerFreed := List.replicate 6 0
    spent := (List.range 6).map (fun i => (again.filter (fun f => f.vc == i)).length)
    freed := List.replicate 6 0, assembling := List.replicate 6 []
    txAcked := n, txNext := n + again.length, unacked := again, creditTurn := 0, replays := 0, cwLog := [] }

/-- `CREDIT` (R428, R433, R434): the initial credits of each channel and the peer's replay position. The link is `UP`, its failed attempts
are forgotten, and it sends what waits. -/
def execCredit (l : LinkId) (credits : List Nat) (replay : Nat) (s : State) : Host.Outcome State Fault Refusal :=
  .next (if s.linkState l.val = 5 then
      let x := (s.link l.val).resumed (decide (l.val < 18)) credits replay
      let s := (s.setLink l.val x).setF F.ALT_LINK_STAT_ATTEMPTS 0 l.val
      (((s.setLinkState l.val 6).putFlits l.val x.txAcked x.unacked).drainLink l.val).releaseRecals.flushPlain
    else s)

/-- The tick at which the state of a link reaches its limit (R428): `TUNE` 20 or 150 ms, `ALIGN` 20 ms from the pattern,
`CREDIT` 1 ms. -/
def State.linkLimit (s : State) (l : Nat) : Option Nat :=
  let x := s.link l
  match s.linkState l with
  | 2 => some (x.since + if x.searching then 150000000 else 20000000)
  | 3 => x.patternAt.map (fun t => max x.since t + 20000000)
  | 5 => some (x.since + 1000000)
  | _ => none

/-- `TRAINING_TIMEOUT` (R429): a failed attempt, and the third enters `FAULTED`. -/
def execTrainingTimeout (l : LinkId) (s : State) : Host.Outcome State Fault Refusal :=
  .next (match s.linkLimit l.val with
    | none => s
    | some t =>
      if t ≤ s.now then
        let st := s.linkState l.val
        let cause := if st = 2 then 2 else if st = 3 then 3 else 4
        let n := s.f F.ALT_LINK_STAT_ATTEMPTS l.val + 1
        let s := (s.setF F.ALT_LINK_STAT_LAST_FAIL cause l.val).setF F.ALT_LINK_STAT_ATTEMPTS (min n 3) l.val
        if 3 ≤ n then
          (s.setLinkState l.val 9).fault 0x3502 .link l.val 0xFF none (BitVec.ofNat 64 cause)
        else s.setLinkState l.val 1
      else s)

/-- `DRAIN_COMPLETE` (R428): no message of the link is unacknowledged, and no Plain request on it unanswered. -/
def execDrainComplete (l : LinkId) (s : State) : Host.Outcome State Fault Refusal :=
  .next (if s.linkState l.val = 7 ∧ (List.range 8).all (fun p => (s.lport p).txq.all (fun t => t.link != some l.val)) ∧
      s.net.requests.all (fun x => x.plainLink != some l.val) then
      s.setLinkState l.val (s.link l.val).drainTo
    else s)

/-- `RECAL_COMPLETE` (R428): the link goes to `TUNE`, and its recalibration counts (R548). -/
def execRecalComplete (l : LinkId) (s : State) : Host.Outcome State Fault Refusal :=
  .next (if s.linkState l.val = 8 then
      let s := (s.endRecovery .link l.val).count F.FLT_CAL_STAT_RECALS
      s.enterTune l.val
    else s)

/-- `RECAL` (R431, R450): only the supervisor firmware writes it. -/
def execRecal (via : Via) (l : LinkId) (s : State) : Host.Outcome State Fault Refusal :=
  .next (if via = .firmware ∧ s.part.hasLink l.val then s.startRecal l.val else s)

/-- `FULL_SEARCH` (R450): only the supervisor firmware writes it. -/
def execFullSearch (via : Via) (l : LinkId) (s : State) : Host.Outcome State Fault Refusal :=
  .next (if via = .firmware ∧ s.part.hasLink l.val then s.setLink l.val { s.link l.val with forceSearch := true } else s)

/-! ## Lasers (R422) -/

/-- Whether the part uses laser input `i` (R420, chapter opening of the manual's optical links). -/
def Part.hasLaser (p : Part) (i : Nat) : Bool :=
  match p with
  | .x12 => decide (i < 12)
  | .s12 => decide (i < 12) && !(decide (4 ≤ i) && decide (i < 8))
  | .s08 => decide (i < 11) && !(decide (4 ≤ i) && decide (i < 8))

/-- `LASER_LOW` (R422): a wavelength of an input measures below +13 dBm, in 0.25 dBm units. -/
def execLaserLow (i : Fin 12) (wave : Fin 8) (power : Int) (s : State) : Host.Outcome State Fault Refusal :=
  .next (if s.part.hasLaser i.val ∧ power < 52 then
      let s := s.setF F.ALT_LASER_IN_MIN (encodeSigned 8 power) i.val
      let s := s.setF F.ALT_LASER_PRESENT (s.f F.ALT_LASER_PRESENT i.val &&& (255 - 2 ^ wave.val)) i.val
      s.setF F.ALT_LASER_LOW 1 i.val
    else s)

/-- `LASER_INPUT_RESTORED` (R422): every wavelength is at +13 dBm or more. -/
def execLaserInputRestored (i : Fin 12) (power : Int) (s : State) : Host.Outcome State Fault Refusal :=
  .next (if s.part.hasLaser i.val ∧ 52 ≤ power then
      let s := s.setF F.ALT_LASER_IN_MIN (encodeSigned 8 power) i.val
      (s.setF F.ALT_LASER_PRESENT 0xFF i.val).setF F.ALT_LASER_LOW 0 i.val
    else s)

/-! ## Flits (R432, R433) -/

/-- The messages whose last flit is among those just acknowledged leave their ports. -/
def State.dropAcked (s : State) (fs : List TxFlit) : State :=
  (fs.filter (fun f => f.eom && decide (f.port < 8))).foldl (fun s f =>
    let x := s.lport f.port
    (s.setLport f.port { x with txq := x.txq.filter (fun t => !(t.msg.vc == f.vc && t.pseq == f.pseq)) }).pump f.port) s

/-- The acknowledgement a flit carries (R432): `ack` names the last data flit received in order, modulo 4,096. -/
def State.takeAck (s : State) (l ack : Nat) : State :=
  let x := s.link l
  let n := x.countOf (ack + 1)
  if n ≤ x.txNext then
    let done := n - x.txAcked
    ((s.setLink l { x with txAcked := n, unacked := x.unacked.drop done }).dropAcked (x.unacked.take done)).drainLink l
  else s

/-- The credit total a flit carries for a channel, modulo 1,024 (R432). -/
def State.takeCredits (s : State) (l vc total : Nat) : State :=
  let x := s.link l
  let old := nth x.peerFreed vc 0
  let n := old + (total + 1024 - old % 1024) % 1024
  (s.setLink l { x with peerFreed := setNth x.peerFreed vc n }).drainLink l

/-- A `NAK` (R433): the sender replays every flit from `ACK + 1`; the eighth consecutive replay of one number makes the link leave `UP`. -/
def State.replay (s : State) (l : Nat) : State :=
  let x := s.link l
  let n := if x.replaySeq = x.txAcked then x.replays + 1 else 1
  let s := (s.setLink l { x with replaySeq := x.txAcked, replays := n }).count F.ALT_LINK_ERR_REPLAYS l
  let s := s.emit (.linkCtl l 3 (x.txAcked % 4096))
  if 8 ≤ n then s.leaveUp l 3 5 else s.putFlits l x.txAcked x.unacked

/-- Uncorrectable codewords counted (R433): more than 64 within any millisecond make the link leave `UP`. -/
def State.countCodewords (s : State) (l n : Nat) : State :=
  let x := s.link l
  let log := (x.cwLog ++ if n = 0 then [] else [(s.now, n)]).filter (fun y => decide (s.now < y.1 + 1000000))
  let s := s.setLink l { x with cwLog := log }
  if 64 < log.foldl (fun (a : Nat) y => a + y.2) 0 then s.leaveUp l 3 7 else s

/-- The type of an assembled message is one that its link and channel admit (R443). -/
def msgTypeOk (l vc : Nat) (bs : List Byte) : Bool :=
  let ty := (nth bs 0 0).toNat
  if l < 18 then vcOf ty == some vc && bitsOf (leWord bs) 8 3 == vc
  else (ty == 0x41 || ty == 0x43) && vc == 1 && bitsOf (leWord bs) 8 3 == vc

/-- A data flit in order (R432, R433): its payload joins its message, its buffer is freed, and at `EOM` the message is
delivered, or dropped as malformed (R443). -/
def State.takeData (s : State) (l : Nat) (x : Flit) : State :=
  let k := s.link l
  let bs := if x.som then x.payload else nth k.assembling x.vc [] ++ x.payload
  let s := s.setLink l { k with
    rxNext := (k.rxNext + 1) % 4096, freed := setNth k.freed x.vc (nth k.freed x.vc 0 + 1)
    assembling := setNth k.assembling x.vc (if x.eom then [] else bs)
    delivered := if x.eom && msgTypeOk l x.vc bs then bs else k.delivered }
  if x.eom && !msgTypeOk l x.vc bs then s.badMsg l else s

/-- `FLIT` (R433). -/
def execFlit (l : LinkId) (x : Flit) (s : State) : Host.Outcome State Fault Refusal :=
  let n := l.val
  .next (if s.linkState n ≠ 6 ∧ s.linkState n ≠ 7 then s
    else
      let s := s.count F.ALT_LINK_FEC_CW_CORRECTED n 0 x.cwCorrected
      let s := s.count F.ALT_LINK_FEC_CW_UNCORR n 0 x.cwUncorr
      let s := s.setF F.ALT_LINK_FEC_PEAK_SYM (max (s.f F.ALT_LINK_FEC_PEAK_SYM n) (min x.peakSym 15)) n
      let s := s.countCodewords n x.cwUncorr
      if s.linkState n ≠ 6 ∧ s.linkState n ≠ 7 then s
      else if !x.crcOk || decide (0 < x.cwUncorr) then
        (s.count F.ALT_LINK_ERR_CRC_ERR n).emit (.linkCtl n 1 (((s.link n).rxNext + 4095) % 4096))
      else
        let s := s.takeAck n x.ack
        let s := s.takeCredits n x.crvc x.credits
        let s := if x.nak then s.replay n else s
        if x.kind ≠ 1 then s
        else if x.seq ≠ (s.link n).rxNext then
          (s.count F.ALT_LINK_ERR_CRC_ERR n).emit (.linkCtl n 1 (((s.link n).rxNext + 4095) % 4096))
        else s.takeData n x)

end Sys2Proof.Machine
end

