-- ==== Sys2Proof/Machine/Move.lean ====
section
/-! DEFINITION. The data movers: block lists (R104 to R106), the commands `MOVE` and `FILL`, and the completion of their
entries, with the remote and Plain requests they issue (R460 to R462). -/

namespace Sys2Proof.Machine

/-! ## Entries (R104 to R106) -/

/-- Elements of an entry. -/
def Entry.total (e : Entry) : Nat := e.ext0 * e.ext1 * e.ext2

/-- Rows of a tile of a shape; 0 for a linear entry. -/
def Entry.tileRows (e : Entry) : Nat := if e.shape = 1 then 16 else if e.shape = 2 then 64 else 0

/-- Bytes of the element data of one tile (R104). -/
def Entry.tileData (e : Entry) : Nat := e.tileRows * 64 * fmtBits e.fmt / 8

/-- Scales along a row of a tile, or across it where blocks run down columns (R104). -/
def Entry.scalesAcross (e : Entry) : Nat := if e.dir then 64 else max 1 (64 / blkLen e.blk)

/-- Scales of one tile, one for each block (R104). A block longer than the tile has one scale in it. -/
def Entry.scaleCount (e : Entry) : Nat :=
  if e.blk = 0 then 0 else if e.dir then 64 * max 1 (e.tileRows / blkLen e.blk) else e.tileRows * e.scalesAcross

/-- Bytes of the scale region of one tile (R104): one byte for each block, a tensor scale where present, padded to 64. -/
def Entry.tileScales (e : Entry) : Nat := roundUp (e.scaleCount + if e.tscale then 4 else 0) 64

/-- The scale of the block that holds row `r` and column `c` of a tile, blocks taken row by row (R104). -/
def Entry.scaleIndex (e : Entry) (r c : Nat) : Nat :=
  if e.dir then r / blkLen e.blk * 64 + c else r * e.scalesAcross + c / blkLen e.blk

/-- The row and column at which the block of a scale begins in its tile. -/
def Entry.scaleBlock (e : Entry) (j : Nat) : Nat × Nat :=
  if e.dir then (j / 64 * blkLen e.blk, j % 64) else (j / e.scalesAcross, j % e.scalesAcross * blkLen e.blk)

/-- Bytes of one tile. -/
def Entry.tileBytes (e : Entry) : Nat := e.tileData + e.tileScales

/-- Tiles across and down one matrix. -/
def Entry.tilesAcross (e : Entry) : Nat := ceilDiv e.ext0 64

/-- The position in bits, from `BASE`, of element `(i0, i1, i2)` (R104, R105). The tiles of a matrix follow each other in
row-major tile order. -/
def Entry.bitPos (e : Entry) (i0 i1 i2 : Nat) : Nat :=
  if e.shape = 0 then 8 * (i2 * e.stride2 + i1 * e.stride1) + i0 * fmtBits e.fmt
  else
    let t := i1 / e.tileRows * e.tilesAcross + i0 / 64
    8 * (i2 * e.stride2 + t * e.tileBytes) + (i1 % e.tileRows * 64 + i0 % 64) * fmtBits e.fmt

/-- The position of the element at place `k` of the entry's stream: dimension 0 fastest, or dimension 1 where rows and columns
are exchanged (R105). -/
def Entry.streamPos (e : Entry) (k : Nat) : Nat :=
  let m := e.ext0 * e.ext1
  let r := k % m
  if e.transpose then e.bitPos (r / e.ext1) (r % e.ext1) (k / m) else e.bitPos (r % e.ext0) (r / e.ext0) (k / m)

/-- The virtual address of the scale region of the tile of matrix `i2` that holds row `i1` and column `i0`. -/
def Entry.scaleRegion (e : Entry) (i0 i1 i2 : Nat) : Nat :=
  e.base + i2 * e.stride2 + (i1 / e.tileRows * e.tilesAcross + i0 / 64) * e.tileBytes + e.tileData

/-- The stretches of virtual addresses that an entry covers: rows of a linear entry, the tiles of each matrix otherwise. -/
def Entry.stretches (e : Entry) : List (Nat × Nat) :=
  if e.shape = 0 then
    (List.range (e.ext1 * e.ext2)).map fun k =>
      (e.base + k / e.ext1 * e.stride2 + k % e.ext1 * e.stride1, e.ext0 * fmtBits e.fmt / 8)
  else
    (List.range e.ext2).map fun k =>
      (e.base + k * e.stride2, e.tilesAcross * ceilDiv e.ext1 e.tileRows * e.tileBytes)

/-- Whether an entry is malformed by itself (R105, R106). -/
def Entry.bad (e : Entry) : Bool :=
  e.reserved || e.ext0 == 0 || e.ext1 == 0 || e.ext2 == 0 || fmtBits e.fmt == 0 || e.shape == 3 || decide (5 < e.blk) ||
  decide (0x4000000 * 8 < e.total * fmtBits e.fmt) || (e.shape == 0 && e.ext0 * fmtBits e.fmt % 8 != 0) ||
  (e.fmt == 0xA && (e.blk != 0 || e.tscale))

/-- Whether two entries agree in format and scale fields (R106). -/
def Entry.sameFormat (a b : Entry) : Bool :=
  a.fmt == b.fmt && a.blk == b.blk && a.dir == b.dir && a.sfmt == b.sfmt && a.tscale == b.tscale

/-- The entries that the bytes of a block list hold. -/
def entriesOf (n : Nat) (bs : List Byte) : List Entry := (List.range n).map (fun i => Entry.ofBytes (slice bs (32 * i) 32))

/-! ## Encoding, and reading the lists -/

/-- The entry count of a `MOVE` or `FILL`. -/
def moveCount (r : Rec) : Nat := bitsOf r.w5 0 9

/-- Encoding of `MOVE` (R49, R105): counts from 1 to 256, lists aligned to 32 bytes. -/
def moveEncoding (_s : State) (_n : Nat) (r : Rec) : Option W64 :=
  if r.w3.toNat % 32 ≠ 0 then some (badField 3 0)
  else if r.w4.toNat % 32 ≠ 0 then some (badField 4 0)
  else if moveCount r = 0 ∨ 256 < moveCount r then some (badField 5 0)
  else reservedField [(5, 9, 55), (6, 0, 64)] r

/-- Encoding of `FILL`. -/
def fillEncoding (_s : State) (_n : Nat) (r : Rec) : Option W64 :=
  if r.w3.toNat % 32 ≠ 0 then some (badField 3 0)
  else if moveCount r = 0 ∨ 256 < moveCount r then some (badField 5 0)
  else reservedField [(5, 9, 55), (6, 0, 64)] r

/-- The entries of a block list of job `n`, with whether any carries a poison mark. -/
def State.readList (s : State) (n va count : Nat) : Except AccErr (List Entry × Bool) :=
  match s.readVirt n va (32 * count) with
  | .error e => .error e
  | .ok (bs, mark) => .ok (entriesOf count bs, mark)

/-- The entries that job `n` reads now, or none on an error. -/
def State.peekList (s : State) (n va count : Nat) : List Entry :=
  match s.readList n va count with
  | .ok (es, _) => es
  | .error _ => []

/-- The source and destination lists of a flight's record; a `FILL` has no source. -/
def State.moveLists (s : State) (n : Nat) (r : Rec) : List Entry × List Entry :=
  if r.opcode = 0x10 then (s.peekList n r.w3.toNat (moveCount r), s.peekList n r.w4.toNat (moveCount r))
  else ([], s.peekList n r.w3.toNat (moveCount r))

/-- Total bits of a list's elements (R106). -/
def listBits (es : List Entry) : Nat := es.foldl (fun a e => a + e.total * fmtBits e.fmt) 0

/-- The operand word at fault in a pair of lists, or none (R58, R106). -/
def listsBad (src dst : List Entry) (fill : Bool) : Option W64 :=
  if src.any Entry.bad then some (badField 3 0)
  else if dst.any Entry.bad then some (badField (if fill then 3 else 4) 0)
  else if !fill && ((src.zip dst).any (fun x => !x.1.sameFormat x.2) || listBits src != listBits dst) then
    some (badField 4 0)
  else none

/-! ## Moving one entry -/

/-- Bytes written at a virtual address without touching marks: local bytes, the remote view for another chip. Pieces whose
leaf carries `POISON` are discarded (R98). -/
def State.pokePieces : State → List Piece → List Byte → State
  | s, [], _ => s
  | s, p :: ps, bs =>
    let s' := match p.place, p.leafPoison with
      | .here a, false =>
        let m := s.memory
        if regionOf a = Region.plain then { s with memory := { m with plain := plainWrite m.plain a (bs.take p.len) } }
        else { s with memory := { m with mem := memWrite m.mem a (bs.take p.len) } }
      | .there c a, false => { s with remoteView := plainWrite s.remoteView (c * 2 ^ 51 + a) (bs.take p.len) }
      | _, _ => s
    s'.pokePieces ps (bs.drop p.len)

/-- The bits of one element at a bit position from a base, with the poison mark of what it lies in. -/
def State.elemAt (s : State) (n base pos bits : Nat) : Nat × Bool :=
  let len := ceilDiv (pos % 8 + bits) 8
  match s.readVirt n (base + pos / 8) len with
  | .ok (bs, mark) => (leNat bs / 2 ^ (pos % 8) % 2 ^ bits, mark)
  | .error _ => (0, false)

/-- The bits of one element written at a bit position from a base. -/
def State.pokeElem (s : State) (n base pos bits v : Nat) : State :=
  let len := ceilDiv (pos % 8 + bits) 8
  match s.range n (base + pos / 8) len true with
  | .error _ => s
  | .ok ps =>
    let old := leNat (ps.flatMap s.pieceBytes)
    let k := pos % 8
    let new := old % 2 ^ k + (v % 2 ^ bits) * 2 ^ k + old / 2 ^ (k + bits) * 2 ^ (k + bits)
    s.pokePieces ps (leBytes len new)

/-- The element at a place of the joined stream of a list: the entry and the place within it. -/
def streamFind : List Entry → Nat → Option (Entry × Nat)
  | [], _ => none
  | e :: es, k => if k < e.total then some (e, k) else streamFind es (k - e.total)

/-- The bits at a place of the source stream: of the source list, or of the repeated 64-bit pattern of a `FILL`. -/
def State.sourceBits (s : State) (n : Nat) (src : List Entry) (pattern : Option W64) (k bits : Nat) : Nat × Bool :=
  match pattern with
  | some p => ((List.range bits).foldl (fun a i => a + if p.toNat.testBit ((k * bits + i) % 64) then 2 ^ i else 0) 0, false)
  | none =>
    match streamFind src k with
    | some (e, j) => s.elemAt n e.base (e.streamPos j) bits
    | none => (0, false)

/-- The key of a piece: its local offset, or where the model keeps the memory of another chip. -/
def Piece.key (p : Piece) : Option Nat :=
  match p.place with
  | .here a => some a
  | .there c a => some (remoteKey c a)
  | _ => none

/-- Where the pieces of a source and of a destination overlap (R106). -/
def overlapRuns (src dst : List Piece) : List (Nat × Nat) :=
  dst.flatMap fun d => src.filterMap fun p =>
    match p.key, d.key with
    | some a, some b =>
      let lo := max a b
      let hi := min (a + p.len) (b + d.len)
      if lo < hi then some (lo, hi - lo) else none
    | _, _ => none

/-- Whether the byte at a virtual address is one of an overlap. -/
def State.overlapped (s : State) (n va : Nat) (ov : List (Nat × Nat)) : Bool :=
  !ov.isEmpty && match s.range n va 1 true with
  | .ok (p :: _) => p.key.any (fun k => ov.any (fun r => decide (r.1 ≤ k) && decide (k < r.1 + r.2)))
  | _ => false

/-- Every element of a destination entry whose stream begins at place `off`, written from the source, free where source and destination
overlap (R106); the second part lists the virtual addresses of elements that came with a mark. -/
def State.moveElems (s : State) (n : Nat) (src : List Entry) (pattern : Option W64) (d : Entry) (off : Nat)
    (ov : List (Nat × Nat)) : State × List Nat :=
  let bits := fmtBits d.fmt
  (List.range d.total).foldl
    (fun a k =>
      let pos := d.streamPos k
      if s.overlapped n (d.base + pos / 8) ov then (a.1.drawn.pokeElem n d.base pos bits a.1.free, a.2)
      else
        let v := s.sourceBits n src pattern (off + k) bits
        (a.1.pokeElem n d.base pos bits v.1, if v.2 then a.2 ++ [d.base + pos / 8] else a.2)) (s, [])

/-- Whether two tiled entries hold the same matrices, neither exchanging rows and columns: then blocks of one are blocks of the other. -/
def Entry.sameBlocks (e d : Entry) : Bool :=
  e.shape != 0 && d.shape != 0 && e.ext0 == d.ext0 && e.ext1 == d.ext1 && e.ext2 == d.ext2 && !e.transpose && !d.transpose

/-- Where byte `j` of the scale region of a destination tile comes from: an address of the source, zero padding, nothing for a block beyond
the extents, or a free value where the manual does not say. -/
inductive ScaleFrom where
  | address (va : Nat)
  | zero
  | keep
  | open_
  deriving DecidableEq, Repr

/-- The origin of byte `j` of the scale region of the tile at column `i0` and row `i1` of matrix `i2` of a destination (R104, R105), where
`src` is the source entry that begins and ends with it, if there is one. -/
def Entry.scaleFrom (d : Entry) (src : Option Entry) (i0 i1 i2 j : Nat) : ScaleFrom :=
  let n := d.scaleCount
  if j < n then
    let b := d.scaleBlock j
    let r := i1 + b.1
    let c := i0 + b.2
    if d.ext1 ≤ r ∨ d.ext0 ≤ c then .keep
    else match src with
      | some e => if e.sameBlocks d then .address (e.scaleRegion c r i2 + e.scaleIndex (r % e.tileRows) (c % 64)) else .open_
      | none => .open_
  else if d.tscale ∧ j < n + 4 then
    match src with
    | some e => if e.shape = 0 then .address (e.base - 4 + (j - n))
        else if e.sameBlocks d then .address (e.scaleRegion i0 i1 i2 + e.scaleCount + (j - n)) else .open_
    | none => .open_
  else .zero

/-- The scale regions of a tiled destination (R104, R105): each scale is that of its block in the source, the tensor scale of a linear source
stands before its `BASE`, the padding is zero, and what the manual does not give is free. The second part lists the addresses that took a
marked byte. -/
def State.moveScales (s : State) (n : Nat) (src : Option Entry) (d : Entry) (ov : List (Nat × Nat)) : State × List Nat :=
  let tiles := d.tilesAcross * ceilDiv d.ext1 d.tileRows
  if d.shape = 0 then (s, [])
  else
    (List.range (d.ext2 * tiles * d.tileScales)).foldl (fun (a : State × List Nat) k =>
      let j := k % d.tileScales
      let t := k / d.tileScales % tiles
      let i2 := k / d.tileScales / tiles
      let i0 := t % d.tilesAcross * 64
      let i1 := t / d.tilesAcross * d.tileRows
      let va := d.scaleRegion i0 i1 i2 + j
      let poke := fun (s : State) (v : Nat) => s.pokeElem n va 0 8 v
      if s.overlapped n va ov then (poke a.1.drawn a.1.free, a.2)
      else match d.scaleFrom src i0 i1 i2 j with
        | .keep => a
        | .zero => (poke a.1 0, a.2)
        | .open_ => (poke a.1.drawn a.1.free, a.2)
        | .address x =>
          let v := s.elemAt n x 0 8
          (poke a.1 v.1, if v.2 then a.2 ++ [va] else a.2)) (s, [])

/-- The marks of a written stretch (R524): cleared on every unit it writes whole, set on every unit that took a marked
element. -/
def State.markStretch (s : State) (n va len : Nat) (marks : List Nat) : State :=
  match s.range n va len true with
  | .error _ => s
  | .ok ps =>
    (ps.foldl (fun (a : State × Nat) p =>
      let s := a.1
      let at_ : Option Nat := match p.place, p.leafPoison with
        | .here x, false => some x
        | .there c x, false => some (remoteKey c x)
        | _, _ => none
      let s := match at_ with
        | some x =>
          let ms := marks.filter (fun v => decide (a.2 ≤ v) && decide (v < a.2 + p.len))
          let l := poisonAfter s.memory.poison x p.len false
          { s with memory := { s.memory with poison := ms.foldl (fun l v => sinsert l ((x + (v - a.2)) / 64)) l } }
        | none => s
      (s, a.2 + p.len)) (s, va)).1

/-! ## The life of a flight -/

/-- The mover's issuer for a record in flight. -/
def moverIssuer (q seq : Nat) : Issuer := .flight q seq

/-- The first access error of an entry's stretches. -/
def State.entryError (s : State) (n : Nat) (e : Entry) (wr : Bool) : Option AccErr :=
  e.stretches.findSome? fun x => match s.range n x.1 x.2 wr with
    | .error er => some er
    | .ok _ => none

/-- A whole Plain line range around a piece (R461: accesses are widened to whole 64-byte lines). -/
def lineSpan (a len : Nat) : Nat × Nat := (a / 64 * 64, roundUp (a % 64 + len) 64)

/-- The requests that reading a piece needs (R446, R460): a Plain read, a remote read, nothing for local memory. -/
def State.requestRead (s : State) (who : Issuer) (job : Nat) (p : Piece) : State × Option Status :=
  match p.place with
  | .here a =>
    if regionOf a = Region.plain then
      let l := lineSpan (a - plainBase) p.len
      (s.issuePlain who 0x40 l.1 l.2 job false [], none)
    else (s, none)
  | .there c a =>
    s.issueRemote who { OutMsg.blank with op := 0x01, dst := c, vc := 0, job := job, addr := a, arg1 := p.len }
  | _ => (s, none)

/-- The requests that a written piece needs: a Plain write of whole lines, a remote `WRITE`, or a `TILE_PUT` for a remote
Terrace (R460). A piece whose leaf carries `POISON` is discarded wherever it lies (R98). -/
def State.requestWrite (s : State) (who : Issuer) (job : Nat) (p : Piece) : State × Option Status :=
  match p.place with
  | .here a =>
    if regionOf a == Region.plain && !p.leafPoison then
      let l := lineSpan (a - plainBase) p.len
      (s.issuePlain who 0x42 l.1 l.2 job (s.poisoned (plainBase + l.1) l.2) (s.bytes (plainBase + l.1) l.2), none)
    else (s, none)
  | .there c a =>
    let tile := regionOf a == .terrace
    if p.leafPoison then (s, none)
    else s.issueRemote who { OutMsg.blank with
      op := if tile then 0x08 else 0x03, dst := c, vc := 2, poison := s.poisoned (remoteKey c a) p.len, job := job, addr := a
      data := s.pieceBytes p }
  | _ => (s, none)

/-- The reads that the partial lines of written Plain pieces need, since a Plain write carries whole lines (R446, R461). -/
def State.requestEdge (s : State) (who : Issuer) (job : Nat) (p : Piece) : State × Option Status :=
  match p.place with
  | .here a =>
    if regionOf a = Region.plain ∧ !p.leafPoison ∧ (a % 64 ≠ 0 ∨ p.len % 64 ≠ 0) then s.requestRead who job p else (s, none)
  | _ => (s, none)

/-- The requests of every piece of a list, stopping at the first that the source refuses. -/
def State.requestAll (req : State → Piece → State × Option Status) : State → List Piece → State × Option Status
  | s, [] => (s, none)
  | s, p :: ps =>
    match req s p with
    | (s, some st) => (s, some st)
    | (s, none) => s.requestAll req ps

/-- The pieces of an entry. -/
def State.entryPieces (s : State) (n : Nat) (e : Entry) (wr : Bool) : List Piece :=
  e.stretches.flatMap fun x => match s.range n x.1 x.2 wr with
    | .ok ps => ps
    | .error _ => []

/-- The lines of the Terrace that an entry's pieces touch, counted (R230). -/
def State.countPieces (s : State) (wr : Bool) (ps : List Piece) : State :=
  ps.foldl (fun s p => match p.place with
    | .here a => s.countLines wr a p.len
    | _ => s) s

/-- A tiled entry of at most 8,192 bytes that lies in the Terrace of another chip goes as one tile put, so that it can fill a
slot of a ring (R461); other pieces stay as they are. -/
def tilePieces (e : Entry) (ps : List Piece) : List Piece :=
  match ps.head? with
  | some { place := .there c a, len := _, leafPoison := _ } =>
    let len := (ps.map (fun p => p.len)).foldl (· + ·) 0
    if e.shape ≠ 0 ∧ e.ext2 = 1 ∧ regionOf a = .terrace ∧ len ≤ 8192 ∧
        (ps.all (fun p => !p.leafPoison && match p.place with
          | .there c' a' => c' == c && decide (a ≤ a') && decide (a' < a + len)
          | _ => false)) = true then [{ place := .there c a, len := len, leafPoison := false }]
    else ps
  | _ => ps

/-- A flight of a queue command ends with a status: its requests are forgotten and it completes. -/
def State.endFlight (s : State) (q seq : Nat) (st : Status) (result detail : W64) : State :=
  (s.forgetRequests (moverIssuer q seq)).finishFlight q seq st result detail

/-- An access error ends a flight (R97, R525, R8). -/
def State.failFlight (s : State) (q seq : Nat) (e : AccErr) (word : Nat) : State :=
  let n := s.queueJob q
  let d := s.accDetail e word
  (s.accFault n e (some (q, seq))).endFlight q seq e.status 0 d

/-- The entries of a list with the places in its stream at which they begin. -/
def streamStarts : Nat → List Entry → List (Nat × Entry)
  | _, [] => []
  | k, e :: es => (k, e) :: streamStarts (k + e.total) es

/-- The place in the joined stream of a list at which its entry `i` begins. -/
def streamOff (es : List Entry) (i : Nat) : Nat := (es.take i).foldl (fun a e => a + e.total) 0

/-- The source entries that begin while entry `i` of the destination is moved: with those begun before, they hold every element that it
takes, however the two lists are split (R106). -/
def sourcesOf (src dst : List Entry) (i : Nat) : List Entry :=
  ((streamStarts 0 src).filter (fun x => decide (streamOff dst i ≤ x.1) && decide (x.1 < streamOff dst (i + 1)))).map (fun x => x.2)

/-- An access of the data movers that serve queue `q` to a range of job `n` (R99, R101). -/
def State.moverAccess (s : State) (q n va len : Nat) (wr : Bool) : State :=
  ((s.lookUps (moverTlb (dieOfQueue q)) (dieOfQueue q) n va len).1).touchRange n va len wr

/-- The accesses of the data movers to every stretch of an entry. -/
def State.moverEntry (s : State) (q n : Nat) (e : Entry) (wr : Bool) : State :=
  e.stretches.foldl (fun s y => s.moverAccess q n y.1 y.2 wr) s

/-- The present entry of a mover flight begins (R106): its addresses and those of the source entries that begin with it are translated, and
the reads of what is not local are requested. -/
def State.beginEntry (s : State) (q : Nat) (x : Flight) : State :=
  let n := s.queueJob q
  let l := s.moveLists n x.cmd
  let src := sourcesOf l.1 l.2 x.entry
  let dst := l.2[x.entry]?
  match src.findSome? (fun e => s.entryError n e false), (dst.bind (fun e => s.entryError n e true)) with
  | some e, _ => s.failFlight q x.seq e 3
  | none, some e => s.failFlight q x.seq e 4
  | none, none =>
    let s := s.setFlight q { x with phase := 1 }
    let s := match dst with
      | some d => (State.requestAll (fun s p => s.requestEdge (moverIssuer q x.seq) n p) s (s.entryPieces n d true)).1
      | none => s
    let s := src.foldl (fun s e => s.moverEntry q n e false) s
    let ps := src.flatMap (fun e => s.entryPieces n e false)
    let r := State.requestAll (fun s p => s.requestRead (moverIssuer q x.seq) n p) (s.countPieces false ps) ps
    match r.2 with
    | some st => r.1.endFlight q x.seq st 0 0
    | none => r.1

/-- The bytes of the entries before entry `i`. -/
def bytesBefore (es : List Entry) (i : Nat) : Nat := listBits (es.take i) / 8

/-- The source entry that begins and ends in the stream where entry `i` of the destination does. -/
def sourceEntry (src dst : List Entry) (i : Nat) : Option Entry :=
  ((streamStarts 0 src).find? (fun x => x.1 == streamOff dst i && x.1 + x.2.total == streamOff dst (i + 1))).map (fun x => x.2)

/-- The present entry is written (R106, R460, R98): its elements, its scale regions and its marks, then the requests for what is
not local. A `FILL` writes elements alone. -/
def State.writeEntry (s : State) (q : Nat) (x : Flight) : State :=
  let n := s.queueJob q
  let l := s.moveLists n x.cmd
  match l.2[x.entry]? with
  | none => s
  | some d =>
    let pattern := if x.cmd.opcode = 0x11 then some x.cmd.w4 else none
    let ps := s.entryPieces n d true
    let hit := ps.any (fun p => p.leafPoison)
    let ov := overlapRuns (l.1.flatMap (fun e => s.entryPieces n e false)) ps
    let r := s.moveElems n l.1 pattern d (streamOff l.2 x.entry) ov
    let z := if pattern.isSome then (r.1, []) else r.1.moveScales n (sourceEntry l.1 l.2 x.entry) d ov
    let s := d.stretches.foldl (fun s y => (s.markStretch n y.1 y.2 (r.2 ++ z.2)).moverAccess q n y.1 y.2 true) z.1
    let s := s.setFlight q { x with phase := 2, fail := if hit then some Status.poisoned.code else x.fail }
    let s := s.countPieces true ps
    let z := State.requestAll (fun s p => s.requestWrite (moverIssuer q x.seq) n p) s (tilePieces d ps)
    match z.2 with
    | some st => z.1.endFlight q x.seq st 0 0
    | none => z.1

/-- The next entry of a mover flight, or its completion after the last (R106): `RESULT` gives the bytes moved, and a discarded
write to a poisoned leaf completes it `POISONED` (R98). -/
def State.nextEntry (s : State) (q : Nat) (x : Flight) : State :=
  let n := s.queueJob q
  let total := moveCount x.cmd
  if x.entry + 1 < total then
    let y := { x with entry := x.entry + 1, phase := 0 }
    (s.setFlight q y).beginEntry q y
  else
    let bytes := BitVec.ofNat 64 (listBits (s.moveLists n x.cmd).2 / 8)
    s.endFlight q x.seq (if x.fail.isSome then .poisoned else .ok) bytes 0

/-- A mover flight goes on where nothing is outstanding: from reading to writing, from writing to the next entry. -/
def State.moverStep (s : State) (q seq : Nat) : State :=
  match s.flight q seq with
  | none => s
  | some x =>
    if !(s.outstanding (moverIssuer q seq)).isEmpty then s
    else if x.phase = 1 then
      let s := s.writeEntry q x
      match s.flight q seq with
      | none => s
      | some y => if (s.outstanding (moverIssuer q seq)).isEmpty && y.phase == 2 then s.nextEntry q y else s
    else if x.phase = 2 then s.nextEntry q x
    else s

/-- `MOVE` or `FILL` starts (R106): its lists are read and checked before any byte moves. -/
def State.runMove (s : State) (q seq : Nat) (r : Rec) : State :=
  let n := s.queueJob q
  let fill := r.opcode == 0x11
  let a := if fill then .ok ([], false) else s.readList n r.w3.toNat (moveCount r)
  let b := s.readList n (if fill then r.w3.toNat else r.w4.toNat) (moveCount r)
  match a, b with
  | .error e, _ => s.failFlight q seq e 3
  | .ok _, .error e => s.failFlight q seq e (if fill then 3 else 4)
  | .ok (src, m1), .ok (dst, m2) =>
    if m1 || m2 then s.failFlight q seq .poison 3
    else match listsBad src dst fill with
      | some d => s.finishFlight q seq .badCommand 0 d
      | none => match s.flight q seq with
        | some x => s.beginEntry q x
        | none => s

/-- The Dales whose Terrace a list of job `n` reaches now. -/
def State.listDales (s : State) (n : Nat) (es : List Entry) : List Nat :=
  es.filterMap fun e => match s.translate n e.base false with
    | .ok g _ => match s.place g with
      | .here a => if regionOf a = .terrace then some (a / 0x2000000) else none
      | _ => none
    | _ => none

/-- The commits that hold a `MOVE` or `FILL` (R68): those that move a Dale whose Terrace it reaches. -/
def moveTouches (s : State) (q : Nat) (r : Rec) (t : Tx) : Bool :=
  let l := s.moveLists (s.queueJob q) r
  (s.listDales (s.queueJob q) (l.1 ++ l.2)).any (fun d => s.txTouchesDale t d)

/-- `MOVE` (R49, R106). -/
def specMove : CmdSpec :=
  { CmdSpec.plain [] State.runMove with encoding := moveEncoding, touches := moveTouches, engine := 1 }

/-- `FILL` (R49, R106). -/
def specFill : CmdSpec :=
  { CmdSpec.plain [] State.runMove with encoding := fillEncoding, touches := moveTouches, engine := 1 }

/-- `MOVE` (R106). -/
def execMove (q : QId) (s : State) : Host.Outcome State Fault Refusal :=
  .next (s.queueCommand specMove (fun r => r.opcode == 0x10) q.val)

/-- `FILL` (R106). -/
def execFill (q : QId) (s : State) : Host.Outcome State Fault Refusal :=
  .next (s.queueCommand specFill (fun r => r.opcode == 0x11) q.val)

/-- `DATA_MOVER_DONE` (R106): a mover finishes the present entry of a `MOVE` or `FILL`. -/
def execDataMoverDone (q : QId) (seq : BitVec 48) (s : State) : Host.Outcome State Fault Refusal :=
  .next (match s.flightOf q.val seq.toNat 0x10 0x11 with
    | some x => s.moverStep q.val x.seq
    | none => s)

end Sys2Proof.Machine
end

