-- ==== Sys2Proof/Machine/Kv.lean ====
section
/-! DEFINITION. The KV cache (R289 to R304): layouts and page sizes, sequence ranges, the KV list, free lists and growth, and
the release of a range. -/

namespace Sys2Proof.Machine

/-! ## Layouts (R292 to R295) -/

/-- A KV layout with tokens per page: format, block length, layers, heads and dimensions of the two groups, and T. -/
structure KvShape where
  fmt : Nat
  blk : Nat
  sfmt : Bool
  kt : Bool
  l0 : Nat
  h0 : Nat
  d0 : Nat
  l1 : Nat
  h1 : Nat
  d1 : Nat
  t : Nat
  deriving DecidableEq, Repr

/-- The shape of layout `j` with `2^tok` tokens per page. -/
def State.kvShape (s : State) (j tok : Nat) : KvShape where
  fmt := s.f F.SRV_KV_LAYOUT_FMT j
  blk := s.f F.SRV_KV_LAYOUT_BLK j
  sfmt := s.fb F.SRV_KV_LAYOUT_SFMT j
  kt := s.fb F.SRV_KV_LAYOUT_K_T j
  l0 := s.f F.SRV_KV_LAYOUT_G0_LAYERS j
  h0 := s.f F.SRV_KV_LAYOUT_G0_HEADS_M1 j + 1
  d0 := 64 * (s.f F.SRV_KV_LAYOUT_G0_DIM_M1 j + 1)
  l1 := s.f F.SRV_KV_LAYOUT_G1_LAYERS j
  h1 := s.f F.SRV_KV_LAYOUT_G1_HEADS_M1 j + 1
  d1 := 64 * (s.f F.SRV_KV_LAYOUT_G1_DIM_M1 j + 1)
  t := 2 ^ tok

/-- Rows of a tile (R293). -/
def KvShape.rows (k : KvShape) : Nat := if 64 ≤ k.t then 64 else 16

/-- Bytes of a tile (R293). -/
def KvShape.tile (k : KvShape) : Nat :=
  k.rows * 64 * fmtBits k.fmt / 8 + if k.blk = 0 then 0 else roundUp (k.rows * 64 / blkLen k.blk) 64

/-- Bytes of a block of the target group or of the draft group (R293). -/
def KvShape.block (k : KvShape) (draft : Bool) : Nat := k.t / k.rows * ((if draft then k.d1 else k.d0) / 64) * k.tile

/-- Streams of the target group. -/
def KvShape.streams0 (k : KvShape) : Nat := 2 * k.l0 * k.h0

/-- Streams in all (R295). -/
def KvShape.streams (k : KvShape) : Nat := k.streams0 + 2 * k.l1 * k.h1

/-- Whether stream `i` belongs to the draft group (R294). -/
def KvShape.isDraft (k : KvShape) (i : Nat) : Bool := decide (k.streams0 ≤ i)

/-- The byte offset of block `i` within a page (R294). -/
def KvShape.offset (k : KvShape) (i : Nat) : Nat :=
  if i < k.streams0 then i * k.block false else k.streams0 * k.block false + (i - k.streams0) * k.block true

/-- log2 of the page size (R294). -/
def KvShape.pageLog2 (k : KvShape) : Nat := max 12 (clog2 (k.offset k.streams))

/-- Pages of a run (R295). A layout without a draft group has no block of that group. -/
def KvShape.runPages (k : KvShape) : Nat :=
  2 ^ Nat.log2 (2 ^ 26 / max 1 (max (k.block false) (if k.l1 = 0 then 0 else k.block true)))

/-- `RUN_CAP` (R295). -/
def KvShape.runCap (k : KvShape) (maxLen : Nat) : Nat := ceilDiv (ceilDiv maxLen k.t) k.runPages

/-- Bytes of the KV list (R295). -/
def KvShape.listBytes (k : KvShape) (maxLen : Nat) : Nat := 32 * k.streams * k.runCap maxLen

/-- `PAGE_AREA` (R289). -/
def KvShape.pageArea (k : KvShape) (maxLen : Nat) : Nat := roundUp (k.listBytes maxLen) (2 ^ k.pageLog2)

/-! ## Request entries (R378) -/

/-- A field of a request entry: word, lowest bit, width. -/
abbrev ReqField := Nat × Nat × Nat

/-- `STATE`. -/
def qfState : ReqField := (0, 0, 4)
/-- `CLASS`. -/
def qfClass : ReqField := (0, 4, 1)
/-- `PRIO`. -/
def qfPrio : ReqField := (0, 5, 4)
/-- `DROP_ON_MISS`. -/
def qfDrop : ReqField := (0, 9, 1)
/-- `DEADLINE_MISSED`. -/
def qfMissed : ReqField := (0, 10, 1)
/-- `CANCEL_PEND`. -/
def qfCancel : ReqField := (0, 11, 1)
/-- `PEN_PROMPT`. -/
def qfPenPrompt : ReqField := (0, 12, 1)
/-- `PEN_FULL`. -/
def qfPenFull : ReqField := (0, 13, 1)
/-- `GEN`. -/
def qfGen : ReqField := (0, 16, 16)
/-- `JOB`. -/
def qfJob : ReqField := (0, 32, 8)
/-- `OWNER_Q`. -/
def qfOwnerQ : ReqField := (0, 40, 12)
/-- `OUT_RING`. -/
def qfOut : ReqField := (0, 52, 12)
/-- `DEADLINE`. -/
def qfDeadline : ReqField := (1, 0, 64)
/-- `LENGTH`. -/
def qfLength : ReqField := (2, 0, 28)
/-- `MAX_LENGTH`. -/
def qfMax : ReqField := (2, 28, 28)
/-- `TOK_LOG2`. -/
def qfTok : ReqField := (2, 56, 4)
/-- `SEQ_BASE`. -/
def qfBase : ReqField := (3, 0, 48)
/-- `PAGE_LOG2`. -/
def qfPageLog2 : ReqField := (3, 48, 5)
/-- `KV_LAYOUT`. -/
def qfLayout : ReqField := (3, 53, 6)
/-- `PAGES`. -/
def qfPages : ReqField := (4, 0, 28)
/-- `DLEN`. -/
def qfDlen : ReqField := (4, 28, 28)
/-- `TARGET`. -/
def qfTarget : ReqField := (5, 0, 6)
/-- `DRAFT`. -/
def qfDraft : ReqField := (5, 6, 6)
/-- `K`. -/
def qfK : ReqField := (5, 12, 4)
/-- `SAMP`. -/
def qfSamp : ReqField := (5, 16, 8)
/-- `STOP_SET`. -/
def qfStop : ReqField := (5, 24, 8)
/-- `RING_GROUP`. -/
def qfRing : ReqField := (5, 32, 4)
/-- `DONE_FENCE`. -/
def qfDoneFence : ReqField := (5, 36, 16)
/-- `DONE_SIG`. -/
def qfDoneSig : ReqField := (5, 52, 1)
/-- `PEN_VA`. -/
def qfPenVa : ReqField := (6, 0, 48)
/-- `PROMPT_VA`. -/
def qfPromptVa : ReqField := (7, 0, 48)
/-- `PROMPT_LEN`. -/
def qfPromptLen : ReqField := (8, 0, 28)
/-- `PREFILLED`. -/
def qfPrefilled : ReqField := (8, 28, 28)
/-- `SEED`. -/
def qfSeed : ReqField := (9, 0, 64)
/-- `ADMIT_TIME`. -/
def qfAdmit : ReqField := (10, 0, 64)
/-- `PENDING`. -/
def qfPending : ReqField := (11, 0, 20)
/-- `PEND_VALID`. -/
def qfPendValid : ReqField := (11, 20, 1)
/-- `PARTNER_GEN`. -/
def qfPartner : ReqField := (11, 32, 16)
/-- `GENERATED`. -/
def qfGenerated : ReqField := (12, 0, 32)
/-- `STEPS`. -/
def qfSteps : ReqField := (12, 32, 32)
/-- `PROPOSED`. -/
def qfProposed : ReqField := (13, 0, 32)
/-- `ACCEPTED`. -/
def qfAccepted : ReqField := (13, 32, 32)

/-- A field of an entry. -/
def Req.f (e : Req) (x : ReqField) : Nat := bitsOf (nth e.words x.1 0) x.2.1 x.2.2

/-- An entry with a field set. -/
def Req.setF (e : Req) (x : ReqField) (v : Nat) : Req :=
  { e with words := setNth e.words x.1 (setBits (nth e.words x.1 0) x.2.1 x.2.2 v) }

/-- An entry that holds no request. -/
def Req.blank : Req where
  words := List.replicate 16 0#64
  cancels := []
  listPages := 0
  inStep := false
  reserved := 0
  finalHeld := false
  cause := none
  cancelStatus := none
  feed := []
  feedNext := 0

/-- The request of an entry. -/
def State.req (s : State) (i : Nat) : Req := mgetD s.serve.reqs i .blank

/-- The state with the request of an entry replaced. -/
def State.setReq (s : State) (i : Nat) (e : Req) : State :=
  { s with serve := { s.serve with reqs := mset s.serve.reqs i e } }

/-- The shape of a request's range. -/
def State.reqShape (s : State) (e : Req) : KvShape := s.kvShape (e.f qfLayout) (e.f qfTok)

/-- The virtual address of page `i` of a range (R289). -/
def State.pageVa (s : State) (e : Req) (i : Nat) : Nat :=
  e.f qfBase + (s.reqShape e).pageArea (e.f qfMax) + i * 2 ^ e.f qfPageLog2

/-! ## Free lists (R299, R300, R302) -/

/-- Whether a page of class `c` overlaps a page that is on a list or mapped. -/
def State.kvBusy (s : State) (page c : Nat) : Bool :=
  s.serve.pages.any fun x => decide (x.1 < page + 2 ^ (c - 12)) && decide (page < x.1 + 2 ^ (x.2 % 32 - 12))

/-- The pages in use replaced. -/
def State.setKvPages (s : State) (m : SMap Nat) : State := { s with serve := { s.serve with pages := m } }

/-- A page placed at the head of its list (R299). -/
def State.kvPlace (s : State) (n c page : Nat) : State :=
  let old := s.f F.SRV_FL_HEAD n (c - 12)
  let a := basinBase + 4096 * page
  let s := s.storeWord a (setBits (s.word a) 0 29 old)
  let s := (s.setF F.SRV_FL_HEAD page n (c - 12)).setF F.SRV_FL_COUNT (s.f F.SRV_FL_COUNT n (c - 12) + 1) n (c - 12)
  (s.setF F.SRV_FL_CUT 0 n (c - 12)).setKvPages (mset s.serve.pages page (c + 32))

/-- A push of job `n` (R300): rejected and counted unless the page lies in the pool, aligned, of a class from 12 to 30, and no
granule of it is on a list or mapped. -/
def State.kvPush (s : State) (n c page : Nat) : State :=
  let first := s.f F.SRV_KV_POOL_FIRST n
  let frames := s.f F.SRV_KV_POOL_FRAMES n
  if 12 ≤ c ∧ c ≤ 30 ∧ page % 2 ^ (c - 12) = 0 ∧ 512 * first ≤ page ∧ page + 2 ^ (c - 12) ≤ 512 * (first + frames) ∧
      !s.kvBusy page c then s.kvPlace n c page
  else s.count F.SRV_KV_STAT_PUSH_REJECT n

/-- The pages of class `c` of the pool of job `n` that lie on its list, or lay there before it was cut. -/
def State.kvListed (s : State) (n c : Nat) : List Nat :=
  (s.serve.pages.filter (fun x => x.2 == c + 32 && s.inKvPool n (x.1 / 512))).map (fun x => x.1)

/-- A drain of list `c` of job `n` (R300): every page of the class goes back to unused. -/
def State.kvDrain (s : State) (n c : Nat) : State :=
  if c < 12 ∨ 30 < c then s
  else
    let ps := s.kvListed n c
    let s := (s.setF F.SRV_FL_COUNT 0 n (c - 12)).setF F.SRV_FL_CUT 0 n (c - 12)
    s.setKvPages (s.serve.pages.filter (fun x => !ps.contains x.1))

/-- A write to `SRV_KV_PUSH_n` (R300, R313). -/
def State.kvWrite (s : State) (n : Nat) (v : W64) : State :=
  let c := bitsOf v 0 5
  if bitOf v 63 then s.kvDrain n c else s.kvPush n c (bitsOf v 5 29)

/-- A pop of list `c` of job `n` (R299, R302): none from an empty list; a poisoned link word cuts the list. -/
def State.kvPop (cmd : Option (Nat × Nat)) (s : State) (n c : Nat) : State × Option Nat :=
  if s.f F.SRV_FL_COUNT n (c - 12) = 0 then (s, none)
  else
    let page := s.f F.SRV_FL_HEAD n (c - 12)
    let a := basinBase + 4096 * page
    if s.poisoned a 8 then
      let s := (s.setF F.SRV_FL_COUNT 0 n (c - 12)).setF F.SRV_FL_CUT 1 n (c - 12)
      (s.fault 0x1405 .job n n cmd (s.globalOf a), none)
    else
      let s := (s.setF F.SRV_FL_HEAD (bitsOf (s.word a) 0 29) n (c - 12)).setF F.SRV_FL_COUNT
        (s.f F.SRV_FL_COUNT n (c - 12) - 1) n (c - 12)
      (s.setKvPages (mset s.serve.pages page c), some page)

/-! ## Growth (R301, R302) -/

/-- What became of a request's growth: its pages are there, it waits, or its range overlaps valid entries. -/
inductive Grow where
  | ok | wait | overlap
  deriving DecidableEq, Repr

/-- Whether the leaf entries that a page would occupy are valid already (R302): an entry of its group, a leaf above it, or a
table below one of them. -/
def leafBusy (p : PageTable) (log2 va : Nat) : Bool :=
  let l := leafLevel log2
  [2, 1].any (fun k => decide (l < k) && (mget p.entries (entryKey k va)).isSome) ||
  (List.range (groupOf log2)).any fun i =>
    let v := va + i * 2 ^ levelShift l
    (mget p.entries (entryKey l v)).isSome || (l != 0 && (mget p.tables (tableKey (l - 1) v)).isSome)

/-- The leaf of a page of class `c` (R291). -/
def kvLeaf (c : Nat) : W64 := setBits (setBits (0xF : W64) 6 2 1) 8 5 c

/-- One page of class `c` popped, zeroed and mapped at a virtual address of job `n` (R291, R301). -/
def State.kvMapOne (cmd : Option (Nat × Nat)) (s : State) (n c va : Nat) : State × Grow :=
  let missing := missingTables (s.pageTable n) (leafLevel c) va
  if s.f F.SRV_FL_COUNT n (c - 12) ≠ 0 ∧ !s.quotaBears n (s.newTableFrames n missing.length) then (s, .wait)
  else
    match s.kvPop cmd n c with
    | (s, none) => (s, .wait)
    | (s, some page) =>
      let a := basinBase + 4096 * page
      if leafBusy (s.pageTable n) c va then
        ((s.kvPlace n c page).fault 0x4404 .job n n cmd (BitVec.ofNat 64 va), .overlap)
      else
        ((s.zero a (2 ^ c)).mapPage n (kvLeaf c) va (s.globalOf a) (fun _ => false), .ok)

/-- Pages of a range mapped one by one until `need` are (R301); `fuel` bounds them. -/
def State.growPages (cmd : Option (Nat × Nat)) : Nat → State → Nat → Nat → State × Grow
  | 0, s, _, _ => (s, .ok)
  | fuel + 1, s, i, need =>
    let e := s.req i
    if need ≤ e.f qfPages then (s, .ok)
    else match s.kvMapOne cmd (e.f qfJob) (e.f qfPageLog2) (s.pageVa e (e.f qfPages)) with
      | (s, .ok) => (s.setReq i ((s.req i).setF qfPages (e.f qfPages + 1))).growPages cmd fuel i need
      | r => r

/-- List pages of a range mapped one by one (R295, R301). -/
def State.growList (cmd : Option (Nat × Nat)) : Nat → State → Nat → Nat → State × Grow
  | 0, s, _, _ => (s, .ok)
  | fuel + 1, s, i, need =>
    let e := s.req i
    if need ≤ e.listPages then (s, .ok)
    else match s.kvMapOne cmd (e.f qfJob) 12 (e.f qfBase + 4096 * e.listPages) with
      | (s, .ok) => (s.setReq i { s.req i with listPages := e.listPages + 1 }).growList cmd fuel i need
      | r => r

/-- The growth of a request to `need` pages, with its list pages (R301). -/
def State.kvGrow (cmd : Option (Nat × Nat)) (s : State) (i need : Nat) : State × Grow :=
  let e := s.req i
  match s.growPages cmd (need + 1) i need with
  | (s, .ok) =>
    let lp := ceilDiv ((s.reqShape e).listBytes (e.f qfMax)) 4096
    s.growList cmd (lp + 1) i lp
  | r => r

/-! ## The KV list and the KV view (R296, R297) -/

/-- The 32 bytes of a list entry of stream `i` and run `r` with `pages` pages of the run in use (R296). -/
def KvShape.entryBytes (k : KvShape) (base maxLen c i r pages : Nat) : List Byte :=
  let w1 := setBits (BitVec.ofNat 64 (if k.isDraft i then k.d1 else k.d0)) 24 24 k.t
  let w1 := setBits w1 48 4 k.fmt
  let w1 := setBits w1 52 2 (if 64 ≤ k.t then 2 else 1)
  let w1 := setBits w1 56 3 k.blk
  let w1 := setBits w1 60 1 (if k.sfmt then 1 else 0)
  let w3 := setBits (BitVec.ofNat 64 (2 ^ c)) 40 1 (if k.kt && i % 2 == 0 then 1 else 0)
  wordsBytes [BitVec.ofNat 64 (base + k.pageArea maxLen + r * k.runPages * 2 ^ c + k.offset i), w1, BitVec.ofNat 64 pages, w3]

/-- Bytes written through the translation of job `n`; an error leaves the rest unwritten. -/
def State.writeVirt (s : State) (n va : Nat) (bs : List Byte) : Except AccErr State :=
  match s.range n va bs.length true with
  | .error e => .error e
  | .ok ps => .ok ((s.noteRange n va bs.length).writePieces ps bs false)

/-- The pages of run `r` in use where `pages` pages of the range are (R296): none in a run beyond those in use. -/
def KvShape.runUse (k : KvShape) (pages r : Nat) : Nat := min k.runPages (pages - r * k.runPages)

/-- The runs whose pages in use differ between two counts of pages (R296). -/
def KvShape.changedRuns (k : KvShape) (old new : Nat) : List Nat :=
  (List.range (ceilDiv (max old new) k.runPages)).filter (fun r => k.runUse old r != k.runUse new r)

/-- The list entries of a request brought to a step that uses `pages` pages (R296): those of each run whose pages in use change
are written, of a run no longer in use with `EXT2` 0. The list pages were zeroed when they were mapped. -/
def State.kvWriteLists (s : State) (i pages : Nat) : State :=
  let e := s.req i
  let k := s.reqShape e
  let cap := k.runCap (e.f qfMax)
  let s := s.setReq i { e with listed := pages }
  (List.range k.streams).foldl (fun s st =>
    (k.changedRuns e.listed pages).foldl (fun s r =>
      let bs := k.entryBytes (e.f qfBase) (e.f qfMax) (e.f qfPageLog2) st r (k.runUse pages r)
      match s.writeVirt (e.f qfJob) (e.f qfBase + 32 * (st * cap + r)) bs with
      | .ok t => t
      | .error _ => s) s) s

/-- The KV view of a request in a step (R297, R388). -/
def State.kvView (s : State) (e : Req) (length new : Nat) : List W64 :=
  let k := s.reqShape e
  let pages := ceilDiv (length + new) k.t
  let w1 := setBits (BitVec.ofNat 64 length) 28 16 new
  let w1 := setBits w1 44 5 (e.f qfPageLog2)
  let w1 := setBits w1 49 4 (e.f qfTok)
  let w1 := setBits w1 53 6 (e.f qfLayout)
  let w2 := setBits (BitVec.ofNat 64 pages) 28 16 (ceilDiv pages k.runPages)
  [BitVec.ofNat 64 (e.f qfBase), w1, setBits w2 44 16 (k.runCap (e.f qfMax)), 0]

/-! ## Release (R303) -/

/-- The pages of a range, as virtual address and class, pages before list pages. -/
def State.rangePages (s : State) (e : Req) : List (Nat × Nat) :=
  (List.range (e.f qfPages)).map (fun i => (s.pageVa e i, e.f qfPageLog2)) ++
  (List.range e.listPages).map (fun i => (e.f qfBase + 4096 * i, 12))

/-- The Basin-relative page number that the leaf at a virtual address of job `n` names. -/
def State.pageNumber (s : State) (n c va : Nat) : Option Nat :=
  (mget (s.pageTable n).entries (entryKey (leafLevel c) va)).map (fun e => (leafAddr e % 2 ^ 51 - basinBase) / 4096)

/-- A range unmapped and its pages pushed (R303). -/
def State.kvRelease (s : State) (i : Nat) : State :=
  let e := s.req i
  let n := e.f qfJob
  let ps := (s.rangePages e).map (fun x => (x.1, x.2, s.pageNumber n x.2 x.1))
  let p := ps.foldl (fun p x => clearGroup p x.2.1 x.1) (s.pageTable n)
  let s := (s.setPageTable n (pruneTables 3 p)).releaseFrames n
  let s := ps.foldl (fun s x => match x.2.2 with
    | some page => s.kvPlace n x.2.1 page
    | none => s) s
  s.setReq i { (s.req i).setF qfPages 0 with listPages := 0, listed := 0 }

/-! ## Rows of the table -/

/-- Whether a register access comes from host software on the owning port of job `n` (R310, R410). -/
def State.jobPort (s : State) (via : Via) (n : Nat) : Bool :=
  match via with
  | .port p => s.jobValid n && s.f F.QE_JOB_CTRL_OWNER_PORT n == p.val
  | _ => false

/-- `SRV_KV_PUSH` (R300): a write from the owning port; any other writer is ignored. -/
def execSrvKvPush (via : Via) (n : JobId) (v : W64) (s : State) : Host.Outcome State Fault Refusal :=
  .next (if s.running && s.jobPort via n.val then s.kvWrite n.val v else s)

/-- `KV_LIST_DRAIN` (R300): a write with `DRAIN` set. -/
def execKvListDrain (via : Via) (n : JobId) (v : W64) (s : State) : Host.Outcome State Fault Refusal :=
  .next (if s.running && s.jobPort via n.val then s.kvWrite n.val (setBits v 63 1 1) else s)

end Sys2Proof.Machine
end

