-- ==== Sys2Proof/Machine/Requests.lean ====
section
/-! DEFINITION. What becomes of a request: output rings and their records (R401, R409), mirror copies (R402, R403), ends and
final records (R408), cancel points (R407), an abandoned serving step (R392) and the release of a range (R303). -/

namespace Sys2Proof.Machine

/-! ## Output rings (R401, R409, R419) -/

/-- What the serving unit holds for output ring `o`. -/
def State.outRing (s : State) (o : Nat) : OutRing := mgetD s.serve.rings o { rseq := 0, used := 0, reserved := 0, dead := false }

/-- The state with an output ring replaced. -/
def State.setOutRing (s : State) (o : Nat) (x : OutRing) : State :=
  { s with serve := { s.serve with rings := mset s.serve.rings o x } }

/-- Entries that hold a final-record reservation on ring `o` (R409). -/
def State.finalHolds (s : State) (o : Nat) : Nat :=
  (s.serve.reqs.filter (fun x => x.2.finalHeld && x.2.f qfOut == o)).length

/-- Records that ring `o` can still take beyond its reservations (R401, R409); none for an unbound ring, or for one that has had
no new `BASE` since its port was lost (R502). -/
def State.ringFree (s : State) (o : Nat) : Nat :=
  let x := s.outRing o
  if !s.fb F.SRV_OUT_CTRL_VALID o || x.dead then 0
  else 2 ^ s.f F.SRV_OUT_CTRL_LOG2 o - x.used - x.reserved - s.finalHolds o

/-- Whether the port of ring `o` is lost (R501). -/
def State.ringLost (s : State) (o : Nat) : Bool :=
  decide (s.f F.SRV_OUT_CTRL_PORT o < 2) && s.portLost (s.f F.SRV_OUT_CTRL_PORT o)

/-- Records that ring `o` has room for at batch formation: none while its port is lost (R501, step 5). -/
def State.ringRoom (s : State) (o : Nat) : Nat := if s.ringLost o then 0 else s.ringFree o

/-- `n` records reserved on ring `o`, or given back with a negative number. -/
def State.reserveOut (s : State) (o : Nat) (n : Int) : State :=
  let x := s.outRing o
  s.setOutRing o { x with reserved := ((x.reserved : Int) + n).toNat }

/-- A write of the serving unit into ring `o` (R401): to its port, or into the Basin. -/
def State.ringWrite (s : State) (o off : Nat) (bs : List Byte) : State :=
  let a := s.f F.SRV_OUT_BASE_BASE o + off
  let p := s.f F.SRV_OUT_CTRL_PORT o
  if p < 2 then s.hostWrite p a bs else s.store a bs

/-! ## Mirror copies (R402, R403, R544) -/

/-- Records of a feed ring of `2^n` frames (R403). -/
def feedRecords (n : Nat) : Nat := 2 ^ n * 131072

/-- A mirror copy that does not reach the follower (R544). -/
def State.mirrorLost (s : State) : State := s.count F.FLT_PENDANT_STAT_MIRROR_LOST

/-- A copy of an output record of binding `m` sent to its follower's feed ring, with the mirror sequence in place of `RSEQ`
(R402, R403). -/
def State.mirrorRecord (s : State) (m job : Nat) (w0 w1 : W64) : State :=
  if !s.fb F.SRV_MIRROR_EN m then s
  else
    let n := mgetD s.serve.mirror m 1
    let g := s.f F.SRV_MIRROR_ADDR m * 2 ^ 21 + 16 * ((n - 1) % feedRecords (s.f F.SRV_MIRROR_FRAMES_LOG2 m))
    let bs := wordsBytes [w0, setBits w1 32 32 n]
    let s := { s with serve := { s.serve with mirror := mset s.serve.mirror m (n + 1) } }
    match s.place g with
    | .here a => s.store a bs
    | .there c a =>
      match s.issueRemote (.mirror m) { OutMsg.blank with op := 0x03, dst := c, vc := 2, job := job, addr := a, data := bs } with
      | (s, none) => s
      | (s, some _) => s.mirrorLost
    | _ => s.mirrorLost

/-! ## Output records (R401) -/

/-- Word 0 of an output record of entry `i` (R401). -/
def recordWord (e : Req) (i tok st : Nat) (last drafted : Bool) : W64 :=
  let w := setBits (setBits (BitVec.ofNat 64 i) 16 16 (e.f qfGen)) 32 20 tok
  let w := setBits (setBits w 52 8 (if last then st else 0)) 60 1 (if last then 1 else 0)
  setBits (setBits w 61 1 (e.f qfMissed)) 62 1 (if drafted then 1 else 0)

/-- An output record of entry `i` written at the tail of its ring, word 0 and then word 1, and copied to the follower (R401,
R402). -/
def State.outRecord (s : State) (i tok st : Nat) (last drafted : Bool) (pos : Nat) : State :=
  let e := s.req i
  let o := e.f qfOut
  let x := s.outRing o
  let n := (x.rseq + 1) % 2 ^ 32
  let t := s.f F.SRV_OUT_TAIL_TAIL o
  let w0 := recordWord e i tok st last drafted
  let w1 := setBits (setBits (0 : W64) 0 28 pos) 32 32 n
  let s := s.ringWrite o (16 * t) (leBytes 8 w0.toNat)
  let s := s.ringWrite o (16 * t + 8) (leBytes 8 w1.toNat)
  let s := s.setF F.SRV_OUT_TAIL_TAIL ((t + 1) % 2 ^ s.f F.SRV_OUT_CTRL_LOG2 o) o
  (s.setOutRing o { x with rseq := n, used := x.used + 1 }).mirrorRecord (e.f qfTarget) (e.f qfJob) w0 w1

/-! ## Ends (R407 to R409) -/

/-- Whether a code of R380 is the state of a live request. -/
def liveCode (k : Nat) : Bool := (decide (1 ≤ k) && decide (k ≤ 5)) || k == 10 || k == 11

/-- Whether an entry holds a live request. -/
def Req.live (e : Req) : Bool := liveCode (e.f qfState)

/-- The end state of a final status (R408): `DONE`, `CANCELLED` or `FAULTED`. -/
def endState (st : Status) : Nat :=
  match st with
  | .ok | .cancelLate | .timeout => 7
  | .cancelled => 8
  | _ => 9

/-- Whether a ring run in flight uses entry `i` (R408). -/
def State.inRingRun (s : State) (i : Nat) : Bool := s.ringRuns.any (fun x => x.2.entry == i)

/-- The status with which a cancel answers the end of a request, where a cancel decided that end: `OK` after `CANCELLED` and for a
`SHARD`, `CANCEL_LATE` after `CANCEL_LATE` (R408). -/
def cancelAnswer (e : Req) (st : Status) : Option Status :=
  if e.f qfCancel = 0 then none
  else match st with
    | .cancelled | .ok => some .ok
    | .cancelLate => some .cancelLate
    | _ => none

/-- A `REQ_CANCEL` completes for a request whose end is decided: with the status of the cancel that decided it, or `CANCEL_LATE` with
`RESULT` bit 0 where the request ended on its own (R407). -/
def State.answerCancel (s : State) (q seq : Nat) (a : Option Nat) : State :=
  match a with
  | some 0 => s.finishFlight q seq .ok
  | some _ => s.finishFlight q seq .cancelLate
  | none => s.finishFlight q seq .cancelLate 1

/-- The last of an end (R408, R409): the final record where the last token's record did not carry `LAST`, the waiting cancels,
`DONE_FENCE`, and the end state. -/
def State.closeRequest (s : State) (i : Nat) (st : Status) : State :=
  let e := s.req i
  let s := if e.finalHeld then
      let s := s.outRecord i 0xFFFFF st.code true false (e.f qfLength + e.f qfPendValid)
      s.setReq i { s.req i with finalHeld := false }
    else s
  let a := (cancelAnswer e st).map (fun x => if x = .ok then 0 else 1)
  let s := e.cancels.foldl (fun s x => s.answerCancel x.1 x.2 a) s
  let s := if e.f qfDoneSig = 1 then s.signal (e.f qfJob) (e.f qfDoneFence) 1 true (endState st == 9) else s
  let s := if st = .cancelLate then s.count F.SRV_JOB_STAT_CANCEL_LATE (e.f qfJob) else s
  let e := (((s.req i).setF qfState (endState st)).setF qfCancel 0)
  s.setReq i { e with cancels := [], cause := some st.code, cancelStatus := a }

/-- The end of a request decided (R408): it passes through `FINISHING`, and stays there while a ring run in flight uses the entry.
`last` says that the record of its last token carries `LAST`. -/
def State.endRequest (s : State) (i : Nat) (st : Status) (last : Bool) : State :=
  let e := s.req i
  let s := if e.reserved = 0 then s else s.reserveOut (e.f qfOut) (-(e.reserved : Int))
  let e := e.setF qfState 6
  let s := s.setReq i { e with reserved := 0, inStep := false, cause := some st.code, finalHeld := e.finalHeld && !last }
  if s.inRingRun i then s else s.closeRequest i st

/-- The ends that R408 decides for a request whose step delivered no last token: a fault, the end that a fed record carried (R404),
a cancel, a missed deadline. -/
def State.decideEnd (s : State) (i : Nat) (fault : Option Status) : State :=
  let e := s.req i
  if !e.live then s
  else match fault, e.cause with
    | some st, _ => s.endRequest i st false
    | none, some st => s.endRequest i (.ofCode st) false
    | none, none =>
      if e.f qfCancel = 1 then s.endRequest i (if e.f qfState = 10 then .ok else .cancelled) false
      else if e.f qfDrop = 1 ∧ e.f qfMissed = 1 then s.endRequest i .timeout false
      else s

/-- Whether a request is in a step whose target step has started, or its binding commits in this tick (R407). -/
def State.stepFixed (s : State) (e : Req) : Bool :=
  match mget s.serve.runs (e.f qfTarget) with
  | some x => x.commitDue || (e.inStep && x.target)
  | none => false

/-- The cancel of a live request accepted (R407): its cancel point is the commit point of a step whose target step has started, and
this moment otherwise; a cancel in the tick of a commit point binds to that commit point. -/
def State.cancelRequest (s : State) (i : Nat) : State :=
  let s := s.setReq i ((s.req i).setF qfCancel 1)
  if s.stepFixed (s.req i) then s else s.decideEnd i none

/-- The requests that a ring run which has ended held in `FINISHING` (R408). -/
def State.releaseShard (s : State) (i : Nat) : State :=
  let e := s.req i
  match e.cause with
  | some st => if e.f qfState = 6 ∧ !s.inRingRun i then s.closeRequest i (.ofCode st) else s
  | none => s

/-! ## Steps of a binding (R386, R392) -/

/-- The `SERVE_START` in flight on a binding replaced. -/
def State.setServeRun (s : State) (m : Nat) (x : ServeRun) : State :=
  { s with serve := { s.serve with runs := mset s.serve.runs m x } }

/-- Whether an item of a step still stands for its request: the entry has not ended or passed to another. -/
def State.itemLive (s : State) (x : Item) : Bool := (s.req x.entry).inStep && (s.req x.entry).f qfGen == x.gen

/-- A `SERVE_START` completes (R385). -/
def State.endServe (s : State) (m : Nat) (x : ServeRun) (st : Status) (result detail : W64) : State :=
  let s := { s with serve := { s.serve with runs := merase s.serve.runs m } }
  let s := (s.setF F.SRV_RUN_RUNNING 0 m).setF F.SRV_RUN_PHASE 0 m
  s.finishFlight x.q x.seq st result detail

/-- A serving step abandoned (R392): nothing is committed, `VERIFY` entries return to `DECODE`, reservations are released, and the
`SERVE_START` completes with the status. A cancel that waited for the commit point is decided here. -/
def State.abandonStep (s : State) (m : Nat) (st : Status) (detail : W64) : State :=
  match mget s.serve.runs m with
  | none => s
  | some x =>
    let live := x.items.filter s.itemLive
    let s := live.foldl (fun s y =>
      let e := s.req y.entry
      let s := s.reserveOut (e.f qfOut) (-(e.reserved : Int))
      let e := if e.f qfState = 4 then e.setF qfState 3 else e
      s.setReq y.entry { e with inStep := false, reserved := 0 }) s
    let s := live.foldl (fun s y => s.decideEnd y.entry none) s
    s.endServe m x st 0 detail

/-- A serving step abandoned for an access to a serving area that stopped (R97, R525). -/
def State.abandonAccess (s : State) (m n : Nat) (err : AccErr) : State :=
  match mget s.serve.runs m with
  | none => s
  | some x =>
    let d := s.accDetail err 3
    (s.accFault n err (some (x.q, x.seq))).abandonStep m err.status d

/-- The whole number that the `EMPTY` word of a KV view holds, where it is one below 2^24 and not negative (R308). -/
def emptyRows (w : Nat) : Option Nat :=
  let e := w / 2 ^ 23 % 256
  let sig := w % 2 ^ 23 + 2 ^ 23
  if w % 2 ^ 31 = 0 then some 0
  else if 2 ^ 31 ≤ w ∨ e < 127 ∨ 150 < e then none
  else if sig % 2 ^ (150 - e) = 0 then some (sig / 2 ^ (150 - e)) else none

/-- `EMPTY` of the first `k` views of a binding's batch counted for job `n` (R308). -/
def State.countEmpty (s : State) (b n k : Nat) : Except AccErr State :=
  match s.readVirt n (s.f F.SRV_MODEL_BATCH_VA b + 64) (64 * k) with
  | .error e => .error e
  | .ok (bs, _) => .ok ((List.range k).foldl (fun s i =>
      match emptyRows (leNat (slice bs (64 * i + 24) 4)) with
      | some r => s.count F.SRV_KV_STAT_EMPTY_ROWS n 0 r
      | none => s.setF F.SRV_KV_STAT_EMPTY_BAD 1 n) s)

/-- A cast step of a serving step has ended (R308, R386, R392): the pass is ready for the sampler, or the step is abandoned. -/
def State.servingEnd (s : State) (m : Nat) (draft : Bool) (st : Status) (detail : W64) : State :=
  match mget s.serve.runs m with
  | none => s
  | some x =>
    if st ≠ .ok then s.abandonStep m st detail
    else
      let b := if draft then s.f F.SRV_MODEL_CFG_DRAFT m else m
      let n := s.f F.SRV_MODEL_CFG_OWNER_JOB m
      match s.countEmpty b n x.views with
      | .error e => s.abandonAccess m n e
      | .ok t =>
        let t := t.setServeRun m { x with casting := false, readyAt := some s.now }
        if draft then t else t.setF F.SRV_RUN_PHASE 4 m

/-! ## Rows of the table -/

/-- `RANGE_RELEASE` (R303, R381): the range of an ended request is unmapped and its pages are pushed; the entry is `FREE` after the
last push. -/
def execRangeRelease (e : BitVec 16) (s : State) : Host.Outcome State Fault Refusal :=
  let i := e.toNat
  let k := (s.req i).f qfState
  .next (if 7 ≤ k ∧ k ≤ 9 then
      let n := (s.req i).f qfJob
      let s := s.kvRelease i
      let s := s.setReq i ((s.req i).setF qfState 0)
      let s := { s with serve := { s.serve with history := merase s.serve.history i } }
      let s := s.setF F.SRV_TABLE_STAT_FREE (s.f F.SRV_TABLE_STAT_FREE + 1)
      s.setF F.SRV_JOB_STAT_IN_USE (s.f F.SRV_JOB_STAT_IN_USE n - 1) n
    else s)

/-- A new head of output ring `o` (R419): accepted where it passes only records that have been written and not consumed. -/
def State.outHead (s : State) (o v : Nat) : State :=
  let l := 2 ^ s.f F.SRV_OUT_CTRL_LOG2 o
  let n := (v % 2 ^ 20 + 2 ^ 20 - s.f F.SRV_OUT_HEAD_HEAD o) % l
  let x := s.outRing o
  if n ≤ x.used then (s.setF F.SRV_OUT_HEAD_HEAD v o).setOutRing o { x with used := x.used - n } else s

/-- `SRV_OUT_HEAD_WRITE` (R419, R410): a write from the owning job's port. -/
def execSrvOutHeadWrite (via : Via) (o : QId) (v : W64) (s : State) : Host.Outcome State Fault Refusal :=
  .next (if s.fb F.SRV_OUT_CTRL_VALID o.val && s.jobPort via (s.f F.SRV_OUT_CTRL_OWNER_JOB o.val) then s.outHead o.val v.toNat else s)

end Sys2Proof.Machine
end

