-- ==== Sys2Proof/Machine/Rings.lean ====
section
/-! DEFINITION. Ring runs as the fabric sees them: the rings a run uses (R330, R331), notices to its neighbours (R336 to R338), and
how a run ends (R324, R339, R340). -/

namespace Sys2Proof.Machine

/-! ## Rings in use -/

/-- The rings of a run as memory unit and ring: its lanes, and the feed ring where it feeds. -/
def RingRun.rings (x : RingRun) : List (Nat × Nat) :=
  x.lanes.map (fun l => (l.mu, l.ring)) ++ if x.feed then [(x.feedMu, x.feedRing)] else []

/-- Whether ring `r` of memory unit `n` is used by a run in flight (R330). -/
def State.ringInRun (s : State) (n r : Nat) : Bool := s.ringRuns.any (fun x => x.2.rings.contains (n, r))

/-- Whether a run has a ring on one of some Dales. -/
def RingRun.onDales (x : RingRun) (first count : Nat) : Bool :=
  x.rings.any (fun r => decide (first ≤ r.1 / 32) && decide (r.1 / 32 < first + count))

/-- Whether a run in flight has a ring on one of some Dales (R331). -/
def State.ringHolds (s : State) (first count : Nat) : Bool := s.ringRuns.any (fun x => x.2.onDales first count)

/-! ## Notices and ends -/

/-- `INDEX` of ring group `g` (R342). -/
def State.ringIndex (s : State) (g : Nat) : Nat := s.f F.MRE_G_CFG_INDEX g

/-- A ring message of group `g` sent to the successor or to the predecessor: it uses only the group's ports (R472). -/
def State.ringSend (s : State) (g : Nat) (succ : Bool) (m : OutMsg) : State :=
  let p := if succ then s.f F.MRE_G_CFG_SEND_PORT g else s.f F.MRE_G_CFG_RECV_PORT g
  let d := if succ then s.f F.MRE_G_NBR_SUCC_CHIP g else s.f F.MRE_G_NBR_PRED_CHIP g
  (s.sendVia (.port p) { m with src := s.chip, dst := d, job := s.f F.MRE_G_CFG_OWNER_JOB g }).1

/-- A ring-abort notice sent to one neighbour (R336 to R338): the group, the run, the cause and the member that raised it. -/
def State.ringNotice (s : State) (g : Nat) (succ : Bool) (cause member : Nat) : State :=
  s.ringSend g succ { OutMsg.blank with
    op := 0x14, vc := 5, extra := [g, s.f F.MRE_G_STEPMAX_RUN_ID g, cause, member] }

/-- Notices sent on both ports. -/
def State.ringNotices (s : State) (g cause member : Nat) : State := (s.ringNotice g true cause member).ringNotice g false cause member

/-- The fault of a ring run (R336 to R338). -/
def State.ringFault (s : State) (x : RingRun) : State :=
  s.fault 0x4701 .job x.job x.job (some (x.q, x.seq))

/-- A ring run completes (R324, R345): the group is idle, the record completes with `STEPS_DONE`, `STEPS_IN` and `RUN_ID`, and an
entry that waited for it goes on (R408). -/
def State.closeRing (s : State) (g : Nat) (x : RingRun) (st : Status) (detail : W64) : State :=
  let result := setBits (setBits (BitVec.ofNat 64 (s.f F.MRE_G_PROG_STEPS_DONE g)) 11 11 (s.f F.MRE_G_PROG_STEPS_IN g)) 32 32
    (s.f F.MRE_G_STEPMAX_RUN_ID g)
  let s := (s.setF F.MRE_G_STAT_STATE 0 g).setF F.MRE_G_STAT_LAST_STATUS st.code g
  let s := { s with ringRuns := merase s.ringRuns g }
  (s.finishFlight x.q x.seq st result detail).releaseShard x.entry

/-- The cause of an abort recorded with the member that raised it (R338). -/
def State.ringCause (s : State) (g cause member : Nat) : State :=
  (s.setF F.MRE_G_STAT_ABORT_CAUSE cause g).setF F.MRE_G_STAT_ABORT_MEMBER member g

/-- The statuses of a consuming `CAST_RUN` that end a ring run (R340). -/
def Status.endsRing : Status → Bool
  | .stalled | .nanTrap | .denied | .badCommand => true
  | _ => false

end Sys2Proof.Machine
end

