-- ==== Sys2Proof/Machine/Fabric.lean ====
section
/-! DEFINITION. The grid fabric (R130 to R162): running casts and their steps, slots and boxes, channels and credits, steering,
the trap record (R248 to R251), and the limits that stop a cast. -/

namespace Sys2Proof.Machine

/-! ## Casts that run -/

/-- A cast that nothing refers to. -/
def CastRef.blank : CastRef :=
  { header := [], first := 0, count := 0, entry := 511, job := 0, addr := 0, len := 0, progs := [], tables := [], chans := [] }

/-- The cast with a number. -/
def State.castRef (s : State) (c : Nat) : CastRef := mgetD s.casts.refs c .blank

/-- A slot that is `EMPTY`. -/
def DaleSlot.empty : DaleSlot := { state := .empty, cast := 0 }

/-- The active slot of a Dale. -/
def State.activeSlot (s : State) (d : Nat) : DaleSlot := mgetD s.casts.active d .empty

/-- The standby slot of a Dale. -/
def State.standbySlot (s : State) (d : Nat) : DaleSlot := mgetD s.casts.standby d .empty

/-- The Dales of a cast. -/
def CastRef.dales (c : CastRef) : List Nat := (List.range c.count).map (c.first + ·)

/-- The first Dale and the count of the fabric domain of a Dale (R136). -/
def State.domainOf (s : State) (d : Nat) : Nat × Nat :=
  let x := s.activeSlot d
  if x.state = .empty then (d, 1) else ((s.castRef x.cast).first, (s.castRef x.cast).count)

/-- The run on a Dale: its first Dale and itself. -/
def State.runOn (s : State) (d : Nat) : Option (Nat × CastRun) :=
  s.fabric.runs.find? (fun x => decide (x.1 ≤ d) && decide (d < x.1 + (s.castRef x.2.cast).count))

/-- The run on a Dale with a step in flight. -/
def State.stepOn (s : State) (d : Nat) : Option (Nat × CastRun) :=
  (s.runOn d).bind (fun x => if x.2.stepping then some x else none)

/-- The state with a run replaced. -/
def State.setRun (s : State) (first : Nat) (x : CastRun) : State :=
  { s with fabric := { s.fabric with runs := mset s.fabric.runs first x } }

/-- The record of a run, as a fault log names it. -/
def CastRun.cmd (x : CastRun) : Option (Nat × Nat) :=
  match x.owner with
  | .command q seq => some (q, seq)
  | .serving _ _ q seq => some (q, seq)

/-- The program of unit `n` (a logical number) under the active cast of its Dale. -/
def State.unitProg (s : State) (mu : Bool) (n : Nat) : List W64 :=
  let x := s.activeSlot (n / 32)
  if x.state = .empty then []
  else
    let c := s.castRef x.cast
    mgetD c.progs ((if mu then 1024 else 0) + 32 * (n / 32 - c.first) + n % 32) []

/-- The logical row of a unit. -/
def unitRow (mu : Bool) (n : Nat) : Nat := siteOf mu (n % 32) % 32

/-- The site index (R526) of a logical unit: a column held one column east crosses over within its row pairs (R132). -/
def State.unitSite (s : State) (mu : Bool) (n : Nat) : Nat :=
  let die := n / 512
  let c := n / 16 % 32
  let p := s.physCol die c
  let row := unitRow mu n
  let prow := if p = c then row else if row % 2 = 0 then row + 1 else row - 1
  die + 2 * prow + 64 * p

/-- The site index of the box at a site of a Dale. -/
def State.boxSite (s : State) (d site : Nat) : Nat :=
  let die := dieOfDale d
  die + 2 * (site % 32) + 64 * s.physCol die ((2 * d + site / 32) % 32)

/-! ## Channels of the active cast -/

/-- The channel descriptor of a key `4096 × absolute Dale + number`. -/
def State.chanDesc (s : State) (key : Nat) : Option Chan :=
  let d := key / 4096
  let x := s.activeSlot d
  if x.state = .empty then none
  else
    let c := s.castRef x.cast
    (mget c.chans (4096 * (d - c.first) + key % 4096)).map Chan.ofWords

/-- What channel `key` holds. -/
def State.chan (s : State) (key : Nat) : ChanSt :=
  mgetD s.fabric.chans key { credits := [], returning := [], spilled := [], spillAt := 0, moved := 0 }

/-- The state with a channel replaced. -/
def State.setChan (s : State) (key : Nat) (x : ChanSt) : State :=
  { s with fabric := { s.fabric with chans := mset s.fabric.chans key x } }

/-- The keys of the channels of a cast. -/
def State.chanKeys (s : State) (first : Nat) : List Nat :=
  let c := s.castRef (s.activeSlot first).cast
  c.chans.map (fun x => 4096 * first + x.1)

/-- The channel that ends at an endpoint of a Dale (absolute): its key and the destination number. -/
def State.chanInto (s : State) (d site kind port : Nat) : Option (Nat × Nat) :=
  let first := (s.domainOf d).1
  (s.chanKeys first).findSome? fun key =>
    match s.chanDesc key with
    | none => none
    | some c =>
      ((List.range c.dests.length).zip c.dests).findSome? fun x =>
        if x.2.rel + first = d ∧ x.2.site = site ∧ x.2.kind = kind ∧ x.2.port = port then some (key, x.1) else none

/-- The channel that begins at an endpoint of a Dale (absolute). -/
def State.chanFrom (s : State) (d site kind port : Nat) : Option Nat :=
  let first := (s.domainOf d).1
  (s.chanKeys first).find? fun key =>
    match s.chanDesc key with
    | none => false
    | some c => c.src.rel + first == d && c.src.site == site && c.src.kind == kind && c.src.port == port

/-! ## Units, boxes and elements -/

/-- An output port that holds nothing. -/
def OutPort.empty : OutPort := { tokens := [], since := 0 }

/-- A task at power-on. -/
def TaskSt.fresh : TaskSt :=
  { pc := 0, tb := 0, loops := [0, 0, 0, 0], lanes := [], masks := List.replicate 8 0, marks := [], maskMarks := [],
    finished := true, rng := [] }

/-- A compute unit whose state is zero. -/
def CuSt.fresh : CuSt :=
  { active := 0, tasks := List.replicate 4 .fresh, buf := [], scales := [], acc := [], bankMarks := [], lineMarks := [],
    scaleMarks := [], intakes := [], mm := none, arrivals := [], store := [], outs := List.replicate 4 .empty, halted := false }

/-- A generator at the start of its program. -/
def AgSt.fresh : AgSt :=
  { pc := 0, done := 0, base := 0, written := [], line := 0, completed := 0, finished := true, phase := 0, tag := 0, wait := 0,
    since := 0 }

/-- A ring whose counters are zero. -/
def RingPtr.zero : RingPtr := { tail := 0, cons0 := 0, cons1 := 0 }

/-- A memory unit with nothing held. -/
def MuSt.fresh : MuSt :=
  { ags := List.replicate 4 .fresh, rings := List.replicate 4 .zero, arrivals := [], store := [],
    outs := List.replicate 4 .empty, halted := false }

/-- A box before its first slot. -/
def BoxSt.fresh : BoxSt := { fired := 0, inputs := [[], [], [], []] }

/-- An element that holds nothing. -/
def ElemSt.fresh : ElemSt := { arrivals := [], store := [], base := 0, fired := [], outs := [.empty, .empty] }

/-- Compute unit `n`. -/
def State.cu (s : State) (n : Nat) : CuSt := mgetD s.fabric.cus n .fresh
/-- The state with a compute unit replaced. -/
def State.setCu (s : State) (n : Nat) (x : CuSt) : State := { s with fabric := { s.fabric with cus := mset s.fabric.cus n x } }
/-- Memory unit `n`. -/
def State.mu (s : State) (n : Nat) : MuSt := mgetD s.fabric.mus n .fresh
/-- The state with a memory unit replaced. -/
def State.setMu (s : State) (n : Nat) (x : MuSt) : State := { s with fabric := { s.fabric with mus := mset s.fabric.mus n x } }
/-- The box of a site of a Dale. -/
def State.box (s : State) (d site : Nat) : BoxSt := mgetD s.fabric.boxes (64 * d + site) .fresh
/-- The state with a box replaced. -/
def State.setBox (s : State) (d site : Nat) (x : BoxSt) : State :=
  { s with fabric := { s.fabric with boxes := mset s.fabric.boxes (64 * d + site) x } }
/-- Steering element `e` of a site. -/
def State.elem (s : State) (d site e : Nat) : ElemSt := mgetD s.fabric.elems (2 * (64 * d + site) + e) .fresh
/-- The state with a steering element replaced. -/
def State.setElem (s : State) (d site e : Nat) (x : ElemSt) : State :=
  { s with fabric := { s.fabric with elems := mset s.fabric.elems (2 * (64 * d + site) + e) x } }

/-- The logical unit at a site of a Dale. -/
def unitAt (d site : Nat) : Nat := 32 * d + siteLocal site

/-- The slot table of a site of a Dale under its active cast. -/
def State.slotTable (s : State) (d site : Nat) : List W64 :=
  let x := s.activeSlot d
  if x.state = .empty then []
  else
    let c := s.castRef x.cast
    mgetD c.tables (64 * (d - c.first) + site) []

/-! ## NaN records (R248 to R251) -/

/-- What a trap record shows of where an event arose (R256, R257): unit kind, tag, task, lane, row, first Dale, relative Dale,
local index, generator, instruction index and cast. -/
structure NanWhere where
  kind : Nat
  tag : Nat
  task : Nat
  lane : Nat
  row : Nat
  first : Nat
  rel : Nat
  index : Nat
  ag : Nat
  pc : Nat
  castId : W64
  deriving DecidableEq, Repr

/-- An engine's place: every field zero but the unit kind. -/
def NanWhere.engine (kind : Nat) : NanWhere :=
  { kind := kind, tag := 0, task := 0, lane := 0, row := 0, first := 0, rel := 0, index := 0, ag := 0, pc := 0, castId := 0 }

/-- The place of a unit in the order of R249: by kind, then relative Dale, then local index. -/
def unitRank (kind rel index : Nat) : Nat := 65536 * kind + 64 * rel + index

/-- The place in that order of the unit that the trap record of job `n` names. -/
def State.recordRank (s : State) (n : Nat) : Nat :=
  unitRank (s.f F.FLT_NAN_INFO_UNIT_KIND n) (bitsOf (s.r R.FLT_NAN_WHERE n) 5 5) (bitsOf (s.r R.FLT_NAN_WHERE n) 10 5)

/-- Whether an event of a unit takes the trap record of job `n` (R249): none is held, or the one held arrived in the same tick from a
unit that ranks after it. DESIGN CHOICE: events arrive together when they arrive in one tick. -/
def State.takesRecord (s : State) (n rank : Nat) : Bool :=
  !s.fb F.FLT_NAN_INFO_VALID n || (s.r R.FLT_NAN_TIME n == s.tb.tick && decide (rank < s.recordRank n))

/-- NaN events of job `n` (R249): the record is written where the first of them takes it, and every event counts. `record` is the mode
applied. -/
def State.nanRecord (s : State) (n : Nat) (record : Bool) (w : NanWhere) (e : NanEvent) (count : Nat) : State :=
  if count = 0 then s
  else
    let s := if !s.takesRecord n (unitRank w.kind w.rel w.index) then s
      else
        let v := setBits (1 : W64) 2 1 (if record then 1 else 0)
        let v := setBits (setBits v 3 3 w.kind) 6 3 e.stage
        let v := setBits (setBits v 9 16 w.tag) 25 2 w.task
        let v := setBits (setBits v 27 6 w.lane) 33 4 w.row
        let v := setBits v 1 1 (s.f F.FLT_NAN_INFO_HALT n)
        let v := setBits v 37 16 (s.f F.FLT_NAN_INFO_COUNT n)
        let s := s.setR R.FLT_NAN_INFO v n
        let p := setBits (setBits (0 : W64) 0 5 w.first) 5 5 w.rel
        let p := setBits (setBits (setBits p 10 5 w.index) 15 2 w.ag) 17 11 w.pc
        let s := s.setR R.FLT_NAN_WHERE p n
        let s := s.setR R.FLT_NAN_CAST w.castId n
        let s := s.setR R.FLT_NAN_OPS (setBits (setBits (0 : W64) 0 32 e.src0) 32 32 e.src1) n
        let s := s.setR R.FLT_NAN_OPX (setBits (setBits (0 : W64) 0 32 e.src2) 32 32 e.result) n
        s.setR R.FLT_NAN_TIME s.tb.tick n
    s.count F.FLT_NAN_INFO_COUNT n 0 count

/-- `HALT` of job `n` set (R250): the records at the heads of its queues stand before step 1 again, so no wait runs for them. -/
def State.nanHalt (s : State) (n : Nat) : State :=
  let s := s.setF F.FLT_NAN_INFO_HALT 1 n
  { s with queues := s.queues.map (fun x => if s.queueJob x.1 = n then (x.1, { x.2 with head := .fresh }) else x) }

/-- NaN events of an engine acting for job `n` (R249, R250): recorded and counted; in `TRAP` mode a fault is logged and `HALT` set, with
the `DETAIL` of the fault for the command that the engine ends. -/
def State.engineNan (s : State) (n kind : Nat) (es : List NanEvent) (cmd : Option (Nat × Nat)) : State × Option W64 :=
  match es with
  | [] => (s, none)
  | e :: _ =>
    if s.fb F.FLT_NAN_CTRL_ENG_MODE n then (s.nanRecord n true (.engine kind) e es.length, none)
    else
      let s := s.nanRecord n false (.engine kind) e es.length
      let d := s.faultDetail 0x4406
      ((s.fault 0x4406 .job n n cmd).nanHalt n, some d)

/-! ## Steps (R158, R181, R217) -/

/-- Whether the next or present step of a cast is its first since it became active (R181). -/
def State.firstStep (s : State) (c : Nat) : Bool := !s.fabric.beyond.contains c

/-- A compute unit at the start of a step (R181, R158): every task at its entry, buffers and registers kept. -/
def CuSt.start (x : CuSt) (ws : List W64) (castId : W64) (nStep rel k : Nat) : CuSt :=
  { x with
    active := ((List.range 4).find? (fun t => (cuTasks ws).testBit t)).getD 0
    tasks := (List.range 4).map (fun t =>
      let y := nth x.tasks t .fresh
      { y with pc := cuEntry ws t, tb := 0, loops := [0, 0, 0, 0], finished := !(cuTasks ws).testBit t,
               rng := (List.range 64).map (laneSeed castId nStep rel k t) })
    intakes := [], mm := none, arrivals := [], store := [], outs := List.replicate 4 .empty, halted := false }

/-- The rings of a program at the start of a step: zero where the declaration does not set `KEEP` (R217). -/
def ringsKept (ws : List W64) (rs : List RingPtr) : List RingPtr :=
  (List.range 4).map (fun r => if (RingDecl.ofWord (muRing ws r)).keep then nth rs r .zero else .zero)

/-- A memory unit at the start of a step (R206, R217). -/
def MuSt.start (x : MuSt) (ws : List W64) : MuSt :=
  { x with
    ags := (List.range 4).map (fun a => { AgSt.fresh with pc := muEntry ws a, finished := !muUsed ws a })
    rings := ringsKept ws x.rings
    arrivals := [], store := [], outs := List.replicate 4 .empty, halted := false }

/-- The units of a cast, as logical numbers. -/
def CastRef.units (c : CastRef) : List Nat := c.dales.flatMap (fun d => (List.range 32).map (32 * d + ·))

/-- The boxes of a cast across the Saddle start with the six idle transfers that a crossing adds (R143). -/
def bridgeInputs (d site : Nat) (c : CastRef) : List (List (Option Token)) :=
  let six : List (Option Token) := List.replicate 6 none
  let inside := c.first ≤ 15 ∧ 16 < c.first + c.count
  if inside ∧ d = 15 ∧ site / 32 = 1 then [[], six, [], []]
  else if inside ∧ d = 16 ∧ site / 32 = 0 then [[], [], [], six]
  else [[], [], [], []]

/-- A step of the run on a cast begins: channels empty, credits whole, every W at 0 (R158). -/
def State.beginStep (s : State) (first : Nat) (x : CastRun) : State :=
  let c := s.castRef x.cast
  let n := (mgetD s.fabric.started x.cast 0 + 1) % 2 ^ 32
  let id := hdrCastId c.header
  let f := s.fabric
  let cus := c.units.foldl (fun m u =>
    let ws := mgetD c.progs (u - 32 * c.first) []
    if ws.isEmpty then m else mset m u ((mgetD m u .fresh).start ws id n (u / 32 - c.first) (u % 32))) f.cus
  let mus := c.units.foldl (fun m u =>
    let ws := mgetD c.progs (1024 + (u - 32 * c.first)) []
    if ws.isEmpty then m else mset m u ((mgetD m u .fresh).start ws)) f.mus
  let chans := c.chans.foldl (fun m k =>
    let d := Chan.ofWords k.2
    mset m (4096 * first + k.1)
      { credits := List.replicate d.dests.length d.window, returning := [], spilled := [], spillAt := 0, moved := s.now }) f.chans
  let boxes := c.dales.foldl (fun m d =>
    (List.range 64).foldl (fun m site => mset m (64 * d + site) { fired := 0, inputs := bridgeInputs d site c }) m) f.boxes
  let elems := f.elems.filter (fun e => !(decide (first ≤ e.1 / 128) && decide (e.1 / 128 < first + c.count)))
  { s with fabric := { f with
      runs := mset f.runs first { x with stepping := true, start := s.now, ticks := 0, residue := 0 }
      started := mset f.started x.cast n
      beyond := if (mget f.started x.cast).isSome then sinsert f.beyond x.cast else f.beyond
      cus := cus, mus := mus, chans := chans, boxes := boxes, elems := elems } }

/-- Whether a compute unit has finished its program for the step, its issued work included. -/
def CuSt.atEnd (x : CuSt) : Bool := x.tasks.all (fun t => t.finished) && x.mm.isNone && x.intakes.isEmpty

/-- Whether a memory unit has finished. -/
def MuSt.atEnd (x : MuSt) : Bool := x.ags.all (fun a => a.finished)

/-- Whether a cause of this tick stops the run that began on a Dale (R601). -/
def State.stopping (s : State) (first : Nat) : Bool := ((mget s.fabric.runs first).bind (fun x => x.stop)).isSome

/-- Whether every unit of a cast has finished its program for the step (R158), and nothing stops the cast. -/
def State.castAtEnd (s : State) (c : CastRef) : Bool :=
  !s.stopping c.first && c.units.all (fun u =>
    ((s.unitProg false u).isEmpty || (s.cu u).atEnd) && ((s.unitProg true u).isEmpty || (s.mu u).atEnd))

/-- The tokens still held in channels, stores and spill regions of a cast (R158). -/
def State.heldTokens (s : State) (c : CastRef) : Nat :=
  let outs := fun (l : List OutPort) => (l.map (fun o => o.tokens.length)).foldl (· + ·) 0
  let cu := (c.units.map (fun u => let x := s.cu u; x.arrivals.length + x.store.length + outs x.outs)).foldl (· + ·) 0
  let mu := (c.units.map (fun u => let x := s.mu u; x.arrivals.length + x.store.length + outs x.outs)).foldl (· + ·) 0
  let inC := fun (d : Nat) => decide (c.first ≤ d) && decide (d < c.first + c.count)
  let bx := (s.fabric.boxes.filter (fun b => inC (b.1 / 64))).foldl
    (fun a b => a + ((b.2.inputs.flatMap id).filter (fun o => o.isSome)).length + b.2.fromUnit.length) 0
  let el := (s.fabric.elems.filter (fun e => inC (e.1 / 128))).foldl
    (fun a e => a + e.2.arrivals.length + e.2.store.length + outs e.2.outs) 0
  let ch := (s.fabric.chans.filter (fun k => inC (k.1 / 4096))).foldl (fun a k => a + k.2.spilled.length) 0
  cu + mu + bx + el + ch

/-- Every token of a cast discarded (R158): boxes, elements and channels emptied, stores cleared; `halt` marks the units of a cast
that was stopped (R160), whose rings that are not `KEEP` are reset (R217). -/
def State.discardTokens (s : State) (c : CastRef) (halt : Bool) : State :=
  let inC := fun (d : Nat) => decide (c.first ≤ d) && decide (d < c.first + c.count)
  let f := s.fabric
  let none4 := List.replicate 4 OutPort.empty
  { s with fabric := { f with
      boxes := f.boxes.filter (fun b => !inC (b.1 / 64))
      elems := f.elems.filter (fun e => !inC (e.1 / 128))
      chans := f.chans.filter (fun k => !inC (k.1 / 4096))
      cus := f.cus.map (fun x => if inC (x.1 / 32) then
        (x.1, { x.2 with arrivals := [], store := [], outs := none4, intakes := [], mm := none, halted := halt || x.2.halted })
        else x)
      mus := f.mus.map (fun x => if inC (x.1 / 32) then
        (x.1, { x.2 with arrivals := [], store := [], outs := none4, halted := halt || x.2.halted
                         rings := ringsKept (s.unitProg true x.1) x.2.rings })
        else x) } }

/-- The residue of a step counted and logged (R158). -/
def State.countResidue (s : State) (x : CastRun) (c : CastRef) : State :=
  let n := s.heldTokens c
  let s := s.count F.FAB_JOB_STAT_RESIDUE x.job 0 n
  if n + x.residue = 0 then s else s.fault 0x1202 .dale c.first x.job x.cmd

/-- Whether a paused run (R65, R530) is in flight on a Dale. -/
def State.pausedOn (s : State) (d : Nat) : Bool := s.fabric.paused.any (fun x => (s.castRef x.cast).dales.contains d)

/-- The slots of a cast's Dales leave `RUNNING`, but for those with another run or a paused one in flight (R112). -/
def State.slotsRest (s : State) (c : CastRef) : State :=
  { s with casts := { s.casts with active := c.dales.foldl (fun m d =>
      let y := mgetD m d .empty
      if y.state = .running ∧ s.pausedOn d = false ∧ (s.runOn d).isNone then mset m d { y with state := .ready } else m) s.casts.active } }

/-- The slots of a cast's Dales become `RUNNING`. -/
def State.slotsRun (s : State) (c : CastRef) : State :=
  { s with casts := { s.casts with active := c.dales.foldl (fun m d =>
      mset m d { mgetD m d .empty with state := .running }) s.casts.active } }

/-- A run that a cause stops at the end of this tick (R601): `NAN_TRAP` ranks before the others, and the first of equals stands. -/
def CastRun.stopWith (x : CastRun) (st : Status) (detail : W64) : CastRun :=
  match x.stop with
  | none => { x with stop := some (st.code, detail) }
  | some (k, _) => if st = .nanTrap ∧ k ≠ Status.nanTrap.code then { x with stop := some (st.code, detail) } else x

/-- A cause that stops a cast at the end of this tick (R601). -/
def State.markStop (s : State) (first : Nat) (st : Status) (detail : W64) : State :=
  match mget s.fabric.runs first with
  | none => s
  | some x => s.setRun first (x.stopWith st detail)

/-- The casts that consume the rings of a ring run, paused ones included, stop with a status at the end of this tick (R339). -/
def State.stopConsumers (s : State) (x : RingRun) (st : Status) : State :=
  let stop := fun (y : CastRun) =>
    let c := s.castRef y.cast
    if y.job = x.job ∧ x.onDales c.first c.count then y.stopWith st 0 else y
  { s with fabric := { s.fabric with
      runs := s.fabric.runs.map (fun y => (y.1, stop y.2)), paused := s.fabric.paused.map stop } }

/-- A cast on some Dales has ended with a status (R340): the ring runs whose rings lie there notify their neighbours with cause 3 and
complete with it, and the other casts that consume their rings stop (R339). -/
def State.ringsAfterCast (s : State) (first count : Nat) (st : Status) : State :=
  if !st.endsRing then s
  else (s.ringRuns.filter (fun x => x.2.onDales first count)).foldl (fun s x =>
    let k := s.ringIndex x.1
    (((s.ringCause x.1 3 k).ringNotices x.1 3 k).closeRing x.1 x.2 st 0).stopConsumers x.2 st) s

/-- What the end of a run that has left the fabric does: its slots rest, its record completes, or the serving step learns how its cast
ended, and ring runs that it consumed may end with it (R340). -/
def State.leaveRun (s : State) (x : CastRun) (st : Status) (detail : W64) : State :=
  let c := s.castRef x.cast
  let s := s.slotsRest c
  let s := match x.owner with
    | .command q seq => s.finishFlight q seq st 0 detail
    | .serving m d _ _ => s.servingEnd m d st detail
  s.ringsAfterCast c.first c.count st

/-- A run ends with a status: it leaves its Dales. -/
def State.endRun (s : State) (first : Nat) (x : CastRun) (st : Status) (detail : W64) : State :=
  ({ s with fabric := { s.fabric with runs := merase s.fabric.runs first } }).leaveRun x st detail

/-- A paused run ends with a status: no step of it is in flight. -/
def State.endPaused (s : State) (x : CastRun) (st : Status) (detail : W64) : State :=
  ({ s with fabric := { s.fabric with paused := s.fabric.paused.filter (fun y => y != x) } }).leaveRun x st detail

/-- What a trap record shows of an event of a matrix instruction. -/
def mmWhere (m : MmSt) (first n : Nat) (e : Nat × Nat × NanEvent) : NanWhere :=
  { kind := 0, tag := m.tag, task := m.task, lane := e.2.1, row := e.1, first := first, rel := n / 32 - first, index := n % 32
    ag := 0, pc := m.pc, castId := 0 }

/-- The matrix instruction of a unit of a cast that stops (R18, R160, R181): the firings complete by then stand in its bank and count.
The manual does not say how many are complete: the number is a free value, up to the firings whose operands have come, and in `TRAP` mode
up to the first with an event. -/
def State.haltMm (s : State) (first : Nat) (x : CastRun) (n : Nat) : State :=
  let u := s.cu n
  match u.mm with
  | none => s
  | some m =>
    let h := (s.castRef x.cast).header
    let after := fun (k : Nat) => u.mmBank n m (u.mmTermsBy n m (k - 1))
    let k := s.free % (u.mmReady m + 1)
    let k := match (mmEvents (after k)).head? with
      | some e => if hdrRecord h then k else min k e.2.2.firing
      | none => k
    let es := mmEvents (after k)
    let s := s.drawn
    if k = 0 then s
    else
      let s := s.setCu n (u.mmWrite m ((after k).map (fun p => (p.1, p.2.1))))
      let s := s.countWrap F.CU_MM_FIRINGS_COUNT (s.unitWindow n) 0 k
      match es.head? with
      | some e =>
        if hdrRecord h then
          s.nanRecord x.job true { mmWhere m first n e with castId := hdrCastId h } e.2.2 es.length
        else s
      | none => s

/-- A cast is stopped (R160, R161, R250, R525): firings in progress complete, tokens are discarded as at a step end, the run ends with the
status, and the active slot stays loaded. A cause of this tick that ranks before the given one decides the status (R601); a limit was
reached in an earlier tick. -/
def State.stopCast (s : State) (first : Nat) (x : CastRun) (st : Status) (detail : W64) : State :=
  let c := s.castRef x.cast
  let s := c.units.foldl (fun s n => s.haltMm first x n) s
  let s := (s.countResidue x c).discardTokens c true
  match x.stop with
  | some (k, d) => if st = .stalled ∨ st = .timeout then s.endRun first x st detail else s.endRun first x (.ofCode k) d
  | none => s.endRun first x st detail

/-- The casts that a cause of the tick that ends stops (R601), those in a step first. -/
def State.settleStops (s : State) : State :=
  let s := s.fabric.runs.foldl (fun s (y : Nat × CastRun) =>
    match mget s.fabric.runs y.1 with
    | none => s
    | some x => match x.stop with
      | none => s
      | some (k, d) => s.stopCast y.1 x (.ofCode k) d) s
  s.fabric.paused.foldl (fun s (y : CastRun) =>
    match y.stop with
    | some (k, d) => if s.fabric.paused.contains y then s.endPaused y (.ofCode k) d else s
    | none => s) s

/-- A fault that decides the status of a run at the end of its step (R601): the first in time stands, and of those of one tick the one
whose unit ranks first. -/
def State.runFault (s : State) (first : Nat) (st : Status) (detail : W64) (rank : Nat) : State :=
  match mget s.fabric.runs first with
  | none => s
  | some x =>
    if x.fault.isSome && !(x.faultAt == s.now && decide (rank < x.faultRank)) then s
    else s.setRun first { x with fault := some (st.code, detail), faultAt := s.now, faultRank := rank }

/-- A `JOB` fault of a running cast that completes the run at the end of the step. -/
def State.castFault (s : State) (first rank code : Nat) (st : Status) (datum : W64 := 0) : State :=
  match mget s.fabric.runs first with
  | none => s
  | some x =>
    let d := s.faultDetail code
    (s.fault code .job x.job x.job x.cmd datum).runFault first st d rank

/-- A translation fault of a running cast (R97). -/
def State.castXlate (s : State) (first rank va reason level : Nat) (wr : Bool) : State :=
  match mget s.fabric.runs first with
  | none => s
  | some x =>
    let d := s.faultDetail 0x4401
    (s.xlateFault x.job va reason level wr x.cmd).runFault first .denied d rank

/-- Poison consumed by a running cast (R525): it stops as in R160 and completes `POISONED`. -/
def State.castPoisoned (s : State) (first : Nat) : State :=
  match mget s.fabric.runs first with
  | none => s
  | some x =>
    let d := s.faultDetail 0x4407
    (s.fault 0x4407 .job x.job x.job x.cmd).markStop first .poisoned d

/-- NaN events of a running cast (R249, R250): recorded, and in `TRAP` mode one fault is logged, the cast stops with `NAN_TRAP` and the job
halts. -/
def State.castNan (s : State) (first : Nat) (w : NanWhere) (es : List NanEvent) : State :=
  match es.head?, mget s.fabric.runs first with
  | some e, some x =>
    let c := s.castRef x.cast
    let rec_ := hdrRecord c.header
    let s := s.nanRecord x.job rec_ { w with castId := hdrCastId c.header, first := first } e es.length
    if rec_ || x.stop.map (fun y => y.1) == some Status.nanTrap.code then s
    else
      let d := s.faultDetail 0x4406
      ((s.fault 0x4406 .job x.job x.job x.cmd).nanHalt x.job).markStop first .nanTrap d
  | _, _ => s

/-- Whether a ready LC `CAST_RUN` of a job names some of the Dales of a run (R65). -/
def State.lcWaiting (s : State) (n : Nat) (c : CastRef) : Bool :=
  (s.queues.map (fun x => x.1)).any fun q =>
    s.bound q && s.queueJob q == n && s.isLc q &&
    match s.headRec q with
    | some r => r.opcode == 0x0A && (s.queue q).head == .ready && r.dales.any (fun d => c.dales.contains d)
    | none => false

/-- Whether a Dale recovers (R530). -/
def State.recoversDale (s : State) (d : Nat) : Bool :=
  s.faults.recovering.any (fun x => decide (x.domain = .dale) && x.index == d)

/-- Whether a cast lies on both sides of the Saddle. -/
def CastRef.spans (c : CastRef) : Bool := decide (c.first < 16) && decide (16 < c.first + c.count)

/-- Whether a run that has steps to do pauses between two of them: the device starts no step (R511, R537), a Dale recovers (R530),
a row link of the Saddle that the cast uses waits for its spare (R142), or a BE run yields to an LC run (R65). -/
def State.pauses (s : State) (x : CastRun) (c : CastRef) : Bool :=
  !s.running || c.dales.any s.recoversDale || (c.spans && !s.fabric.failedRows.isEmpty) ||
  (match x.owner with
    | .command q _ => !s.isLc q
    | .serving _ _ _ _ => false) && s.lcWaiting x.job c

/-- A step of a cast ends (R158): residue discarded, then the next step, a pause, or the run's end. -/
def State.stepEnd (s : State) (first : Nat) (x : CastRun) : State :=
  let c := s.castRef x.cast
  let s := (s.countResidue x c).discardTokens c false
  let x := { x with done := x.done + 1, stepping := false }
  match x.fault with
  | some (k, d) => s.endRun first x (.ofCode k) d
  | none =>
    if x.total ≤ x.done then s.endRun first x .ok 0
    else
      if s.pauses x c then
        { s with fabric := { s.fabric with runs := merase s.fabric.runs first, paused := s.fabric.paused ++ [x] } }
      else s.beginStep first x

/-- `CAST_STEP_END` (R158): every unit has finished its step; for a run that paused, its next step begins once its Dales are free
and nothing makes it pause (R65, R530). -/
def execCastStepEnd (d : DaleId) (s : State) : Host.Outcome State Fault Refusal :=
  .next (match mget s.fabric.runs d.val with
    | some x => if x.stepping && s.castAtEnd (s.castRef x.cast) then s.stepEnd d.val x else s
    | none =>
      match s.fabric.paused.find? (fun x => (s.castRef x.cast).first == d.val) with
      | none => s
      | some x =>
        let c := s.castRef x.cast
        if c.dales.any (fun k => (s.runOn k).isSome) || s.pauses x c then s
        else
          let s := { s with fabric := { s.fabric with paused := s.fabric.paused.filter (fun y => y != x) } }
          (s.slotsRun c).beginStep d.val x)

/-! ## Spill regions (R154, R155) -/

/-- The virtual address of a place in the spill region of a channel: of its payload and of its sideband. -/
def spillPlace (base i : Nat) : Nat × Nat :=
  (base + 4608 * (i / 64) + 64 * (i % 64), base + 4608 * (i / 64) + 4096 + 8 * (i % 64))

/-- The place of a channel's own faults in the order of R601. DESIGN CHOICE: after those of every unit; the manual ranks units only. -/
def channelRank : Nat := unitRank 7 0 0

/-- The virtual base of a channel's spill region under a run. -/
def CastRun.spillBase (x : CastRun) (c : Chan) : Nat :=
  ((x.binds.find? (fun b => b.index == c.spillBind)).map (fun b => b.base)).getD 0 + c.spillOff

/-- Bytes of a cast's spill traffic written through its job's translation; a fault acts under R97, a poisoned leaf under R98. -/
def State.spillWrite (s : State) (first n va : Nat) (bs : List Byte) (mark : Bool) : State :=
  match s.range n va bs.length true with
  | .ok ps =>
    let s := (s.noteRange n va bs.length).writePieces ps bs mark
    if ps.any (fun p => p.leafPoison) then s.runFault first .poisoned 0 channelRank else s
  | .error (.xlate a r l w) => s.castXlate first channelRank a r l w
  | .error _ => s

/-- A token put at the end of a channel's spill region. The manual does not lay out its sideband's 8 bytes: they are free. -/
def State.spillPut (s : State) (first : Nat) (x : CastRun) (key : Nat) (c : Chan) (t : Token) : State :=
  let y := s.chan key
  let i := (y.spillAt + y.spilled.length) % (64 * c.spillGroups)
  let p := spillPlace (x.spillBase c) i
  let s := s.spillWrite first x.job p.1 t.payload t.poison
  let s := (s.spillWrite first x.job p.2 (leBytes 8 s.free) false).drawn
  let s := s.setChan key { y with spilled := y.spilled ++ [t] }
  let used := ceilDiv (y.spilled.length + 1) 64
  if s.f F.FAB_JOB_STAT_SPILL_PEAK x.job < used then s.setF F.FAB_JOB_STAT_SPILL_PEAK (satTo 16 used) x.job else s

/-- The oldest token of a spill region, its payload as memory now holds it. -/
def State.spillTake (s : State) (first : Nat) (x : CastRun) (key : Nat) (c : Chan) : State × Option Token :=
  let y := s.chan key
  match y.spilled with
  | [] => (s, none)
  | t :: rest =>
    let p := spillPlace (x.spillBase c) y.spillAt
    let s := s.setChan key { y with spilled := rest, spillAt := (y.spillAt + 1) % (64 * c.spillGroups) }
    match s.readVirt x.job p.1 64 with
    | .ok (bs, mark) => (s, some { t with payload := bs, poison := mark })
    | .error (.xlate a r l w) => (s.castXlate first channelRank a r l w, some { t with payload := List.replicate 64 0#8 })
    | .error _ => (s, some { t with payload := List.replicate 64 0#8 })

/-! ## Slots (R135 to R137, R152, R154, R156) -/

/-- A token arriving at a destination of its channel. -/
def State.arrive (s : State) (d site kind port dest : Nat) (t : Token) : State :=
  let h : Held := { port := port, dest := dest, since := s.now, token := t }
  let s := s.setChan t.chan { s.chan t.chan with moved := s.now }
  if kind ≠ 0 then
    let e := s.elem d site (kind - 1)
    s.setElem d site (kind - 1) { e with arrivals := e.arrivals ++ [h] }
  else if siteIsCu site then
    let x := s.cu (unitAt d site)
    s.setCu (unitAt d site) { x with arrivals := x.arrivals ++ [h] }
  else
    let x := s.mu (unitAt d site)
    s.setMu (unitAt d site) { x with arrivals := x.arrivals ++ [h] }

/-- The output port of a channel's producer. -/
def State.outPort (s : State) (first : Nat) (e : Endpoint) : OutPort :=
  let d := first + e.rel
  if e.kind ≠ 0 then nth (s.elem d e.site (e.kind - 1)).outs e.port .empty
  else if siteIsCu e.site then nth (s.cu (unitAt d e.site)).outs e.port .empty
  else nth (s.mu (unitAt d e.site)).outs e.port .empty

/-- The output port of a channel's producer replaced. -/
def State.setOutPort (s : State) (first : Nat) (e : Endpoint) (o : OutPort) : State :=
  let d := first + e.rel
  if e.kind ≠ 0 then
    let x := s.elem d e.site (e.kind - 1)
    s.setElem d e.site (e.kind - 1) { x with outs := setNth x.outs e.port o }
  else if siteIsCu e.site then
    let x := s.cu (unitAt d e.site)
    s.setCu (unitAt d e.site) { x with outs := setNth x.outs e.port o }
  else
    let x := s.mu (unitAt d e.site)
    s.setMu (unitAt d e.site) { x with outs := setNth x.outs e.port o }

/-- Tokens put on an output port. -/
def OutPort.push (o : OutPort) (now : Nat) (ts : List Token) : OutPort :=
  { tokens := o.tokens ++ ts, since := if o.tokens.isEmpty then now else o.since }

/-- The token that a producer puts on a channel in a slot: one with a credit from every destination (R152); for a spill channel
that lacks one, or already spills, the token goes to the region while it has room (R154). -/
def State.takeToken (s : State) (first : Nat) (x : CastRun) (key : Nat) (c : Chan) : State × Option Token :=
  let o := s.outPort first c.src
  match o.tokens with
  | [] => (s, none)
  | t :: rest =>
    let t := { t with chan := key }
    let y := s.chan key
    let pop := fun (s : State) => s.setOutPort first c.src { tokens := rest, since := s.now }
    if c.spill && (y.credits.any (· == 0) || !y.spilled.isEmpty) then
      if y.spilled.length < 64 * c.spillGroups then
        let s := (pop s).setChan key { y with moved := s.now }
        (s.spillPut first x key c t, none)
      else (s, none)
    else if y.credits.all (fun k => decide (0 < k)) then
      ((pop s).setChan key { y with credits := y.credits.map (· - 1), moved := s.now }, some t)
    else (s, none)

/-- Whether a link leaves the domain: out of the cast, or across a fenced row of the Saddle (R157, R532). DESIGN CHOICE: a row link that
has failed and waits for its spare carries its tokens until the step ends; the manual does not say what becomes of them. -/
def State.linkFenced (s : State) (first count d site dir : Nat) : Bool :=
  match neighbour d site dir with
  | some (d', _) =>
    decide (d' < first ∨ first + count ≤ d') ||
    (dieOfDale d != dieOfDale d' && s.fabric.fencedRows.contains (site % 32 + if d < 16 then 0 else 32))
  | none => true

/-- Whether a box may fire its next slot (R136, R143): each in-domain neighbour on its die has fired as many; across the Saddle its slot
leads that of the neighbour by at most `depth`. -/
def State.boxReady (s : State) (d site first count depth : Nat) : Bool :=
  let b := s.box d site
  (List.range 4).all fun dir =>
    match neighbour d site dir with
    | none => true
    | some (d', site') =>
      if s.linkFenced first count d site dir || s.linkFenced first count d' site' ((dir + 2) % 4) then true
      else
        let n := (s.box d' site').fired
        if dieOfDale d = dieOfDale d' then decide (b.fired ≤ n)
        else decide (b.fired ≤ n + depth)

/-- `SKEW_SADDLE` as the bridge applies it (R143). -/
def saddleDepth (h : List W64) : Nat := min 16 (hdrSkew h)

/-- The lead of a box over its neighbour across the Saddle recorded (R143, R165). DESIGN CHOICE: a hold counts for each row whose lead
reaches the depth; the manual does not say whether the rows of one hold count together. -/
def State.noteLead (s : State) (d lead depth : Nat) : State :=
  let s := if depth ≠ 0 ∧ lead = depth then s.count F.FAB_SADDLE_STAT_HOLD_EVENTS else s
  if s.f F.FAB_SADDLE_STAT_MAX_LEAD < lead then
    (s.setF F.FAB_SADDLE_STAT_MAX_LEAD lead).setF F.FAB_SADDLE_STAT_LEAD_EAST (dieOfDale d)
  else s

/-- The tokens that the sources named by some entries of a slot put out: by source code and channel key. -/
def State.slotSources (s : State) (first : Nat) (x : CastRun) (es : List (Nat × Nat × Nat × Nat)) :
    State × List (Nat × Nat × Token) :=
  es.foldl (fun (a : State × List (Nat × Nat × Token)) e =>
    let src := e.2.1
    let key := 4096 * (first + e.2.2.2) + e.2.2.1
    if a.2.any (fun y => y.1 == src && y.2.1 == key) then a
    else match a.1.chanDesc key with
      | none => a
      | some c =>
        let z := a.1.takeToken first x key c
        match z.2 with
        | none => (z.1, a.2)
        | some t => (z.1, a.2 ++ [(src, key, t)])) (s, [])

/-- The valid entries of slot `j` of a slot table: target, source code, channel and owner. -/
def slotEntries (tab : List W64) (j : Nat) : List (Nat × Nat × Nat × Nat) :=
  (List.range 11).filterMap (fun t => (slotEntry tab t j).map (fun e => (t, e.1, e.2.1, e.2.2)))

/-- The transfer of the local link out of a unit in a slot-firing (R137, R278): the token that the next slot of its box takes, for the
channel that the entries of that slot name. -/
def State.unitTransfer (s : State) (d site first : Nat) (x : CastRun) (tab : List W64) (next : Nat) : State :=
  let z := s.slotSources first x (((slotEntries tab (next % 16)).filter (fun e => e.2.1 == 5)).take 1)
  z.1.setBox d site { z.1.box d site with fromUnit := z.2.map (fun y => y.2) }

/-- A token at a local target of a box: the unit, or a steering port. -/
def State.localTarget (s : State) (first d site target : Nat) (t : Token) : State :=
  match s.chanDesc t.chan with
  | none => s
  | some c =>
    let kind := if target = 4 then 0 else 1 + (target - 5) / 3
    ((List.range c.dests.length).zip c.dests).foldl (fun s y =>
      if y.2.rel + first = d ∧ y.2.site = site ∧ y.2.kind = kind ∧ (target = 4 ∨ y.2.port = (target - 5) % 3) then
        s.arrive d site kind y.2.port y.1 t
      else s) s

/-- The transfers that wait at an input from across the Saddle with a token added (R143): the bridge delivers it in the receiver's slot
7 after the one it was sent in, or, where the receiver has passed that slot, in the same slot of a later frame, behind the tokens sent
before it. `fired` counts the receiver's slots, and the first transfer of the list is for its next slot, from slot 1. -/
def bridgePut (l : List (Option Token)) (fired sent : Nat) (t : Token) : List (Option Token) :=
  let base := max 1 fired
  let low := base + (l.length - (l.reverse.takeWhile (fun o => o.isNone)).length)
  let at_ := sent + 7 + 16 * ceilDiv (low - (sent + 7)) 16
  let k := at_ - base
  l.take k ++ List.replicate (k - l.length) none ++ [some t]

/-- A transfer on the output link of a box in a direction, in its slot `sent` of the step: put on the neighbour's input, or, at a fenced
link, a token dropped and logged (R157). -/
def State.linkOut (s : State) (first count : Nat) (x : CastRun) (d site dir sent : Nat) (t : Option Token) : State :=
  match neighbour d site dir, s.linkFenced first count d site dir with
  | some (d', site'), false =>
    let b := s.box d' site'
    let i := (dir + 2) % 4
    let l := nth b.inputs i []
    let l := match decide (dieOfDale d = dieOfDale d'), t with
      | true, _ => l ++ [t]
      | false, some k => bridgePut l b.fired sent k
      | false, none => l
    s.setBox d' site' { b with inputs := setNth b.inputs i l }
  | _, _ =>
    if t.isSome then
      let s := s.count F.FAB_JOB_STAT_BORDER_DROPS x.job
      let i := s.boxSite d site
      s.fault 0x3201 .site i x.job x.cmd
    else s

/-- The neighbour across the Saddle of a site of a cast. -/
def CastRef.acrossSaddle (c : CastRef) (d site : Nat) : Option (Nat × Nat) :=
  if d = 15 ∧ site / 32 = 1 ∧ 16 < c.first + c.count then neighbour d site 1
  else if d = 16 ∧ site / 32 = 0 ∧ c.first < 16 then neighbour d site 3
  else none

/-- A slot of a box fires (R135 to R137): its inputs are taken, every valid entry of the slot carries its token, and each in-domain
output link carries a token or an idle mark; the local link out of the unit carries the token of the next slot. -/
def State.fireSlot (s : State) (d site first : Nat) (x : CastRun) (c : CastRef) : State :=
  let b := s.box d site
  let tab := s.slotTable d site
  let es := slotEntries tab (b.fired % 16)
  let pop := b.fired ≠ 0
  let ins := b.inputs.map (fun l => if pop then (l.head?).getD none else none)
  let s := s.setBox d site { fired := b.fired + 1, inputs := if pop then b.inputs.map List.tail else b.inputs }
  let z := s.slotSources first x (es.filter (fun e => decide (6 ≤ e.2.1)))
  let found := fun (t : Nat) =>
    (es.find? (fun e => e.1 == t)).bind fun e =>
      let key := 4096 * (first + e.2.2.2) + e.2.2.1
      if e.2.1 < 5 then (nth ins (e.2.1 - 1) none).bind (fun k => if k.chan = key then some k else none)
      else if e.2.1 = 5 then (b.fromUnit.find? (fun y => y.1 == key)).map (fun y => y.2)
      else (z.2.find? (fun y => y.1 == e.2.1 && y.2.1 == key)).map (fun y => y.2.2)
  let s := (List.range 4).foldl (fun s dir => s.linkOut first c.count x d site dir b.fired (found dir)) z.1
  let s := ((List.range 7).map (· + 4)).foldl (fun s t => match found t with
    | some k => s.localTarget first d site t k
    | none => s) s
  let s := s.unitTransfer d site first x tab (b.fired + 1)
  match c.acrossSaddle d site with
  | none => s
  | some (d', site') =>
    let n := (s.box d' site').fired
    if n < b.fired then s.noteLead d (b.fired - n) (saddleDepth c.header) else s

/-- `SLOT_FIRING` (R136). -/
def execSlotFiring (d : DaleId) (site : SiteId) (s : State) : Host.Outcome State Fault Refusal :=
  .next (match s.stepOn d.val with
    | none => s
    | some (first, x) =>
      let c := s.castRef x.cast
      if s.boxReady d.val site.val first c.count (saddleDepth c.header) then s.fireSlot d.val site.val first x c else s)

/-! ## Delivery and credits (R145, R146, R151, R152) -/

/-- `TAG_OP` applied as a token is delivered (R151). -/
def State.tagged (s : State) (t : Token) : Token :=
  match s.chanDesc t.chan with
  | none => t
  | some c => if c.tagOp = 1 then { t with tag := (t.tag + 1) % 65536 }
    else if c.tagOp = 2 then { t with tag := t.steerTag } else t

/-- A credit of a destination set on its way back (R152). -/
def State.creditBack (s : State) (h : Held) : State :=
  let y := s.chan h.token.chan
  s.setChan h.token.chan { y with returning := y.returning ++ [h.dest] }

/-- How far a tag lies ahead of a base, modulo 2^16 (R145). -/
def tagAhead (tag base : Nat) : Nat := (tag + 65536 - base % 65536) % 65536

/-- What becomes of a token at a window of 8 tags from a base: admitted, waiting, or a duplicate (R145, R146). -/
inductive Admit where
  | now | later | duplicate
  deriving DecidableEq, Repr

/-- The admission of a tag. -/
def admitTag (tag base : Nat) : Admit :=
  let k := tagAhead tag base
  if k < 8 then .now else if 32768 ≤ k then .duplicate else .later

/-- The place in the order of R601 of what holds a token: a unit, or a steering element. DESIGN CHOICE: elements rank after the units;
the manual ranks units only. -/
def State.holderRank (s : State) (h : Held) : Nat :=
  match (s.chanDesc h.token.chan).map (fun c => nth c.dests h.dest c.src) with
  | none => channelRank
  | some e =>
    if e.kind ≠ 0 then unitRank 6 e.rel e.site
    else unitRank (if siteIsCu e.site then 0 else 1) e.rel (siteLocal e.site)

/-- A dropped token: its credit returns, and the run completes `BAD_COMMAND` at the end of the step (R146, R188). -/
def State.tagFault (s : State) (first : Nat) (h : Held) : State :=
  (s.creditBack h).castFault first (s.holderRank h) 0x4204 .badCommand

/-- Whether a load or a matrix instruction in progress still takes a token. -/
def CuSt.wants (x : CuSt) (h : Held) : Bool :=
  (match x.mm with
    | none => false
    | some m => m.task == h.token.task && m.tag == h.token.tag &&
      ((decide (0 < m.aLeft) && bitsOf m.w0 27 3 == h.port) || (decide (0 < m.sLeft) && bitsOf m.w1 5 3 == h.port))) ||
  x.intakes.any (fun i => i.task == h.token.task && i.tag == h.token.tag && i.port == h.port)

/-- Bytes put into a buffer from a byte position. -/
def bufWrite (m : SMap Byte) (a : Nat) (bs : List Byte) : SMap Byte := memWrite m a bs

/-- A list of marks with one line marked or cleared. -/
def markLine (l : List Nat) (k : Nat) (on : Bool) : List Nat := if on then sinsert l k else sremove l k

/-- A token taken by the matrix instruction or by the oldest load that wants it. -/
def CuSt.feed (x : CuSt) (h : Held) : CuSt :=
  let takesMm := match x.mm with
    | none => false
    | some m => m.task == h.token.task && m.tag == h.token.tag &&
      ((decide (0 < m.aLeft) && bitsOf m.w0 27 3 == h.port) || (decide (0 < m.sLeft) && bitsOf m.w1 5 3 == h.port))
  match x.mm, takesMm with
  | some m, true =>
    if 0 < m.aLeft ∧ bitsOf m.w0 27 3 = h.port then
      { x with mm := some { m with aBytes := m.aBytes ++ h.token.payload, aLeft := m.aLeft - 1, poison := m.poison || h.token.poison } }
    else
      { x with mm := some { m with sBytes := m.sBytes ++ h.token.payload, sLeft := m.sLeft - 1, poison := m.poison || h.token.poison } }
  | _, _ =>
    match x.intakes.find? (fun i => i.task == h.token.task && i.tag == h.token.tag && i.port == h.port) with
    | none => x
    | some i =>
      let j := { i with next := i.next + (if i.scales then 64 else 1), left := i.left - 1 }
      let rest := if j.left = 0 then x.intakes.filter (fun k => k != i) else x.intakes.map (fun k => if k = i then j else k)
      if i.scales then
        { x with scales := bufWrite x.scales i.next h.token.payload, scaleMarks := markLine x.scaleMarks (i.next / 64) h.token.poison
                 intakes := rest }
      else
        { x with buf := bufWrite x.buf (64 * i.next) h.token.payload, lineMarks := markLine x.lineMarks i.next h.token.poison
                 intakes := rest }

/-- Every held token that a load or matrix instruction in progress wants is taken, oldest first, and its credit returns. -/
def State.feedCu (s : State) (n : Nat) : State :=
  (s.cu n).store.foldl (fun s h =>
    let x := s.cu n
    if x.wants h then (s.setCu n { x.feed h with store := x.store.erase h }).creditBack h else s) s

/-- A token delivered to a compute unit (R145, R146, R188). -/
def State.deliverCu (s : State) (first n : Nat) (h : Held) : State :=
  let x := s.cu n
  let h := { h with token := s.tagged h.token }
  let rest := { x with arrivals := x.arrivals.eraseP (fun k => k.port == h.port) }
  let ws := s.unitProg false n
  if !(cuTasks ws).testBit h.token.task then (s.setCu n rest).tagFault first h
  else if x.wants h then (s.setCu n { rest with store := rest.store ++ [h] }).feedCu n
  else match admitTag h.token.tag (nth x.tasks h.token.task .fresh).tb with
    | .now => s.setCu n { rest with store := rest.store ++ [{ h with since := s.now }] }
    | .later => s
    | .duplicate => (s.setCu n rest).tagFault first h

/-- The generator whose present stream takes tokens from an input port (R205). -/
def State.portAg (s : State) (n port : Nat) : Option Nat :=
  let ws := s.unitProg true n
  (List.range 4).find? fun a =>
    let g := nth (s.mu n).ags a .fresh
    let w := wordAt ws g.pc
    !g.finished && (bitsOf w 0 4 == 2 || bitsOf w 0 4 == 3) && bitsOf w 10 2 == port

/-- A token delivered to a memory unit: the window of the stream that reads the port decides (R209); with no such stream yet the
token waits. -/
def State.deliverMu (s : State) (first n : Nat) (h : Held) : State :=
  let x := s.mu n
  let h := { h with token := s.tagged h.token }
  let rest := { x with arrivals := x.arrivals.eraseP (fun k => k.port == h.port) }
  match s.portAg n h.port with
  | none => s
  | some a =>
    let g := nth x.ags a .fresh
    let t0 := bitsOf (wordAt (s.unitProg true n) g.pc) 33 16
    match admitTag h.token.tag (t0 + g.base) with
    | .now => s.setMu n { rest with store := rest.store ++ [{ h with since := s.now }] }
    | .later => s
    | .duplicate => (s.setMu n rest).tagFault first h

/-- A token delivered to a steering element. -/
def State.deliverElem (s : State) (first d site e : Nat) (h : Held) : State :=
  let x := s.elem d site e
  let h := { h with token := s.tagged h.token }
  let rest := { x with arrivals := x.arrivals.eraseP (fun k => k.port == h.port) }
  match admitTag h.token.tag x.base with
  | .now => s.setElem d site e { rest with store := rest.store ++ [{ h with since := s.now }] }
  | .later => s
  | .duplicate => (s.setElem d site e rest).tagFault first h

/-- `TOKEN_DELIVERY` (R145, R146, R151, R188, R209): the oldest token at a port is admitted, dropped, or left waiting. Ports 0 to 7
are the unit's, 8 to 10 those of steering element 0 and 11 to 13 those of element 1. -/
def execTokenDelivery (d : DaleId) (site : SiteId) (port : Fin 14) (s : State) : Host.Outcome State Fault Refusal :=
  .next (match s.stepOn d.val with
    | none => s
    | some (first, _) =>
      let p := port.val
      if 8 ≤ p then
        let e := (p - 8) / 3
        match (s.elem d.val site.val e).arrivals.find? (fun h => h.port == (p - 8) % 3) with
        | some h => s.deliverElem first d.val site.val e h
        | none => s
      else
        let n := unitAt d.val site.val
        if siteIsCu site.val then
          match (s.cu n).arrivals.find? (fun h => h.port == p) with
          | some h => s.deliverCu first n h
          | none => s
        else
          match (s.mu n).arrivals.find? (fun h => h.port == p) with
          | some h => s.deliverMu first n h
          | none => s)

/-- Whether tokens of a channel are on its links. -/
def State.onLinks (s : State) (key : Nat) : Bool :=
  s.fabric.boxes.any (fun b => b.2.fromUnit.any (fun y => y.1 == key) ||
    b.2.inputs.any (fun l => l.any (fun o => match o with
      | some t => t.chan == key
      | none => false)))

/-- `CREDIT_RETURN` (R152, R154): the oldest credit on its way reaches the producer of a channel, or lets the oldest spilled token
refill the destination once the tokens sent before it have left the links. -/
def execCreditReturn (d : DaleId) (k : Fin 4096) (s : State) : Host.Outcome State Fault Refusal :=
  .next (match s.stepOn d.val with
    | none => s
    | some (first, x) =>
      let key := 4096 * d.val + k.val
      match s.chanDesc key, (s.chan key).returning with
      | some c, i :: rest =>
        let y := s.chan key
        let s := s.setChan key { y with returning := rest }
        if y.spilled.isEmpty then
          s.setChan key { y with returning := rest, credits := setNth y.credits i (nth y.credits i 0 + 1) }
        else if s.onLinks key then s.setChan key y
        else
          let z := s.spillTake first x key c
          match z.2, c.dests.head? with
          | some t, some e => z.1.arrive (first + e.rel) e.site e.kind e.port 0 t
          | _, _ => z.1
      | _, _ => s)

/-! ## Steering (R148 to R151) -/

/-- The tokens of a tag that an element holds on a port, oldest first. -/
def ElemSt.tokensOf (x : ElemSt) (port tag : Nat) : List Held := x.store.filter (fun h => h.port == port && h.token.tag == tag)

/-- The base moved to the oldest tag not yet fired; `fuel` bounds the moves. -/
def advanceBase : Nat → Nat → List Nat → Nat × List Nat
  | 0, b, l => (b, l)
  | fuel + 1, b, l => if l.contains b then advanceBase fuel ((b + 1) % 65536) (l.erase b) else (b, l)

/-- A tag fired by an element: tokens consumed with their credits, the base moved, and the selected tokens put on an output
where a channel takes them. -/
def State.fireElem (s : State) (d site e tag : Nat) (consumed : List Held) (out : Nat) (sent : List Token) : State :=
  let x := s.elem d site e
  let b := advanceBase 8 x.base (tag :: x.fired)
  let bound := (s.chanFrom d site (e + 1) out).isSome
  let o := nth x.outs out .empty
  let s := s.setElem d site e { x with
    store := consumed.foldl List.erase x.store
    base := b.1, fired := b.2
    outs := if bound then setNth x.outs out (o.push s.now sent) else x.outs }
  consumed.foldl State.creditBack s

/-- Whether an element may put tokens on an output: no channel, or nothing left there. -/
def State.elemOutFree (s : State) (d site e out : Nat) : Bool :=
  (s.chanFrom d site (e + 1) out).isNone || (nth (s.elem d site e).outs out .empty).tokens.isEmpty

/-- The decision in a control token (R144). -/
def Token.decision (t : Token) : Nat := leNat (t.payload.take 4) % 2
/-- The tag in a control token. -/
def Token.ctlTag (t : Token) : Nat := leNat (t.payload.take 4) / 65536 % 65536

/-- `STEER` (R149): the control token and the `GROUP` data tokens of a tag are there, and the data goes to the output that the
decision names. A poisoned control token stops the cast (R525). -/
def execSteer (d : DaleId) (site : SiteId) (e : Fin 2) (tag : BitVec 16) (s : State) : Host.Outcome State Fault Refusal :=
  .next (match s.stepOn d.val with
    | none => s
    | some (first, _) =>
      let x := s.elem d.val site.val e.val
      let tab := s.slotTable d.val site.val
      let g := steerGroup tab e.val
      let data := (x.tokensOf 1 tag.toNat).take g
      match steerMode tab e.val, (x.tokensOf 0 tag.toNat).head? with
      | 1, some ctl =>
        if data.length < g ∨ x.fired.contains tag.toNat then s
        else if ctl.token.poison then s.castPoisoned first
        else if !s.elemOutFree d.val site.val e.val ctl.token.decision then s
        else s.fireElem d.val site.val e.val tag.toNat (ctl :: data) ctl.token.decision
          (data.map (fun h => { h.token with steerTag := ctl.token.ctlTag }))
      | _, _ => s)

/-- `JOIN` (R150), in `PRED` or `MERGE` mode. -/
def execJoin (d : DaleId) (site : SiteId) (e : Fin 2) (tag : BitVec 16) (s : State) : Host.Outcome State Fault Refusal :=
  .next (match s.stepOn d.val with
    | none => s
    | some (first, _) =>
      let x := s.elem d.val site.val e.val
      let tab := s.slotTable d.val site.val
      let g := steerGroup tab e.val
      let mode := steerMode tab e.val
      let one := (x.tokensOf 1 tag.toNat).take g
      let two := (x.tokensOf 2 tag.toNat).take g
      match (x.tokensOf 0 tag.toNat).head? with
      | none => s
      | some ctl =>
        let sel := if ctl.token.decision = 0 then one else two
        if mode ≠ 2 ∧ mode ≠ 3 ∨ x.fired.contains tag.toNat then s
        else if sel.length < g ∨ (mode = 2 ∧ (one.length < g ∨ two.length < g)) then s
        else if ctl.token.poison then s.castPoisoned first
        else if !s.elemOutFree d.val site.val e.val 0 then s
        else s.fireElem d.val site.val e.val tag.toNat (ctl :: (if mode = 2 then one ++ two else sel)) 0
          (sel.map (fun h => h.token)))

/-! ## Stalls and limits (R159 to R162) -/

/-- A blocked channel (R159): its key, the kind of R170, the destination, the tag, the task and since when. -/
structure Blocked where
  key : Nat
  kind : Nat
  dest : Nat
  tag : Nat
  task : Nat
  since : Nat
  deriving DecidableEq, Repr

/-- A channel that is full (R159). -/
def State.fullChan (s : State) (first key : Nat) : Option Blocked :=
  match s.chanDesc key with
  | none => none
  | some c =>
    let o := s.outPort first c.src
    let y := s.chan key
    match o.tokens.head?, y.credits.findIdx? (· == 0) with
    | some t, some i =>
      if c.spill ∧ y.spilled.length < 64 * c.spillGroups then none
      else some { key := key, kind := if c.dests.length = 1 then 0 else 2, dest := i, tag := t.tag, task := t.task
                  since := max o.since y.moved }
    | _, _ => none

/-- The starved channel of two inputs of one instruction: where one holds tokens of a tag and the other holds none of them. -/
def State.starvedOf (s : State) (d site kind tag task : Nat) (ps : Nat × Nat) (held : List Held) : Option Blocked :=
  let of := fun (p : Nat) => held.filter (fun h => h.port == p && h.token.tag == tag)
  let mk := fun (p q : Nat) =>
    match (of p).head?, (of q).head?, s.chanInto d site kind q with
    | some h, none, some (key, i) =>
      some ({ key := key, kind := 1, dest := i, tag := tag, task := task, since := max h.since (s.chan key).moved } : Blocked)
    | _, _, _ => none
  (mk ps.1 ps.2).or (mk ps.2 ps.1)

/-- The channels starved at a compute unit: a matrix instruction that waits on one of its two ports. -/
def State.starvedCu (s : State) (n : Nat) : List Blocked :=
  let ws := s.unitProg false n
  let x := s.cu n
  (List.range 4).filterMap fun t =>
    let y := nth x.tasks t .fresh
    let w := wordAt ws y.pc
    let v := wordAt ws (y.pc + 1)
    match y.finished, cuInPorts w v with
    | false, [p, q] => s.starvedOf (n / 32) (siteOf false (n % 32)) 0 ((y.tb + bitsOf w 8 3) % 65536) t (p, q)
        (x.store.filter (fun h => h.token.task == t))
    | _, _ => none

/-- The channels starved at a steering element. -/
def State.starvedElem (s : State) (k : Nat) : List Blocked :=
  let d := k / 128
  let site := k / 2 % 64
  let e := k % 2
  let x := s.elem d site e
  let mode := steerMode (s.slotTable d site) e
  (((x.store.map (fun h => h.token.tag)).filter (fun t => decide (tagAhead t x.base < 8) && !x.fired.contains t)).eraseDups).flatMap
    fun tag =>
    let sel := ((x.tokensOf 0 tag).head?).map (fun h => 1 + h.token.decision)
    let pairs := match mode, sel with
      | 1, _ => [(0, 1)]
      | 2, _ => [(0, 1), (0, 2), (1, 2)]
      | 3, some p => [(0, p)]
      | 3, none => [(0, 1), (0, 2)]
      | _, _ => []
    pairs.filterMap (fun p => s.starvedOf d site (e + 1) tag 0 p x.store)

/-- Innermost iterations of the given levels. -/
def nestCount (ls : List Level) : Nat := ls.foldl (fun a l => a * l.n) 1

/-- Lines in one iteration of the tag level of a stream (R208). -/
def linesPerTag (ls : List Level) (w : W64) : Nat := nestCount (ls.take (bitsOf w 30 3))

/-- The tag of the next token that a read stream sends (R208). -/
def AgSt.nextTag (g : AgSt) (ws : List W64) : Nat :=
  let w := wordAt ws g.pc
  (bitsOf w 33 16 + g.done / max 1 (linesPerTag (muLevels ws g.pc) w)) % 65536

/-- The tag of the token that waits on a full channel into a port of a memory unit: that of the producer's output, or of the oldest
that the unit holds for the port. -/
def State.waitingTag (s : State) (first key n port : Nat) : Nat :=
  let out := (s.chanDesc key).bind (fun c => (s.outPort first c.src).tokens.head?.map (fun t => t.tag))
  let held := ((s.mu n).store.find? (fun h => h.port == port)).map (fun h => h.token.tag)
  (out.or held).getD 0

/-- The channels blocked by a memory unit's stream that waits on a ring (R216): behind a full ring the channel that feeds it counts as full,
after an empty one the channel that it feeds as starved of the tag that the stream sends next. A consumer stream of a ring that a run in
flight uses does not count (R330). -/
def State.ringBlocked (s : State) (first n : Nat) : List Blocked :=
  let ws := s.unitProg true n
  let d := n / 32
  let site := siteOf true (n % 32)
  (s.mu n).ags.filterMap fun g =>
    let w := wordAt ws g.pc
    let op := bitsOf w 0 4
    if g.finished then none
    else if g.wait = 3 ∧ (op = 2 ∨ op = 3) then
      (s.chanInto d site 0 (bitsOf w 10 2)).map (fun k =>
        { key := k.1, kind := if ((s.chanDesc k.1).map (fun c => c.dests.length)).getD 1 = 1 then 0 else 2, dest := k.2
          tag := s.waitingTag first k.1 n (bitsOf w 10 2), task := 0, since := max g.since (s.chan k.1).moved })
    else if g.wait = 4 ∧ op = 1 ∧ !(muRingOf w).any (fun r => s.ringInRun n r) then
      (s.chanFrom d site 0 (bitsOf w 10 2)).map (fun k =>
        { key := k, kind := 1, dest := 0, tag := g.nextTag ws, task := bitsOf w 49 2, since := max g.since (s.chan k).moved })
    else none

/-- Every blocked channel of a running cast, longest blocked first, each once. -/
def State.blockedChans (s : State) (first : Nat) (c : CastRef) : List Blocked :=
  let all := (s.chanKeys first).filterMap (s.fullChan first) ++ c.units.flatMap s.starvedCu ++ c.units.flatMap (s.ringBlocked first) ++
    ((s.fabric.elems.filter (fun e => decide (first ≤ e.1 / 128) && decide (e.1 / 128 < first + c.count))).flatMap
      (fun e => s.starvedElem e.1))
  let sorted := all.foldl (fun l b =>
    (l.filter (fun x => decide (x.since ≤ b.since))) ++ [b] ++ (l.filter (fun x => decide (b.since < x.since)))) []
  sorted.foldl (fun l b => if l.any (fun x => x.key == b.key) then l else l ++ [b]) []

/-- One entry of `FAB_STALL_LOG` (R169, R170), with the time at which the stall limit was reached. -/
def State.stallEntry (s : State) (x : CastRun) (first time : Nat) (b : Blocked) : State :=
  let k := s.f F.FAB_STALL_HEAD_NEXT
  let a := setBits (setBits (setBits (1 : W64) 1 2 b.kind) 3 8 x.job) 11 5 first
  let a := setBits (setBits (setBits a 16 5 (b.key / 4096 - first)) 21 12 (b.key % 4096)) 33 4 b.dest
  let a := setBits (setBits a 37 16 b.tag) 53 2 b.task
  let s := (s.setR R.FAB_STALL_LOG_A a k).setR R.FAB_STALL_LOG_B (BitVec.ofNat 64 time) k
  (s.setF F.FAB_STALL_HEAD_NEXT ((k + 1) % 16)).count F.FAB_STALL_HEAD_TOTAL

/-- Whether some channel has been blocked for 2^`STALL_LOG2` ticks (R160), and the tick in which that limit was reached is over: what
happens in that tick comes before the limit (R162, R251). -/
def State.stallDue (s : State) (first : Nat) (x : CastRun) : Bool :=
  (s.blockedChans first (s.castRef x.cast)).any
    (fun b => decide (b.since + 2 ^ s.f F.QE_JOB_CTRL_STALL_LOG2 x.job < s.now))

/-- A stalled cast stopped (R160). -/
def State.stall (s : State) (first : Nat) (x : CastRun) : State :=
  let bs := (s.blockedChans first (s.castRef x.cast)).take 8
  let time := ((bs.head?).map (fun b => b.since)).getD 0 + 2 ^ s.f F.QE_JOB_CTRL_STALL_LOG2 x.job
  let s := bs.foldl (fun s b => s.stallEntry x first time b) s
  let s := s.count F.FAB_JOB_STAT_STALLS x.job
  let d := s.faultDetail 0x4203
  (s.fault 0x4203 .job x.job x.job x.cmd).stopCast first x .stalled d

/-- `STALL_LIMIT` (R160). -/
def execStallLimit (d : DaleId) (s : State) : Host.Outcome State Fault Refusal :=
  .next (match mget s.fabric.runs d.val with
    | some x =>
      if x.stepping && !s.castAtEnd (s.castRef x.cast) && s.stallDue d.val x then s.stall d.val x else s
    | none => s)

/-- The count of ticks at which the step limit of a run ends its step (R161): the tick in which the count reaches the limit is over, so
that what happens in that tick comes before the limit (R162). -/
def State.stepLimit (s : State) (x : CastRun) : Nat :=
  max (8 * hdrStepTicks (s.castRef x.cast).header) (2 ^ s.f F.QE_JOB_CTRL_STEP_LOG2 x.job) + 1

/-- `STEP_LIMIT` (R161): a step that cannot end is stopped; a stall limit reached in the same tick decides (R162). -/
def execStepLimit (d : DaleId) (s : State) : Host.Outcome State Fault Refusal :=
  .next (match mget s.fabric.runs d.val with
    | some x =>
      if x.stepping && !s.castAtEnd (s.castRef x.cast) && decide (s.stepLimit x ≤ x.ticks) then
        if s.stallDue d.val x then s.stall d.val x
        else
          let k := s.faultDetail 0x4206
          (s.fault 0x4206 .job x.job x.job x.cmd).stopCast d.val x .timeout k
      else s
    | none => s)

end Sys2Proof.Machine
end

