-- ==== Sys2Proof/Machine/Cu.lean ====
section
/-! DEFINITION. The compute unit (R171 to R198, R260 to R270): issue, the stage instructions, matrix instructions, and the
cooperative task switch. -/

namespace Sys2Proof.Machine

/-! ## Registers of a task -/

/-- Lane `i` of vector register `r`. -/
def TaskSt.lane (y : TaskSt) (r i : Nat) : W32 := mgetD y.lanes (64 * r + i) 0

/-- The 64 lanes of a register. -/
def TaskSt.reg (y : TaskSt) (r : Nat) : List W32 := (List.range 64).map (y.lane r)

/-- A register written in the lanes of a mask. -/
def TaskSt.setReg (y : TaskSt) (r : Nat) (vs : List W32) (mask : W64) : TaskSt :=
  { y with lanes := (List.range 64).foldl (fun m i => if bitOf mask i then mset m (64 * r + i) (nth vs i 0) else m) y.lanes }

/-- The 256 bytes of a register. -/
def TaskSt.regBytes (y : TaskSt) (r : Nat) : List Byte := (y.reg r).flatMap (fun v => leBytes 4 v.toNat)

/-- Lanes from 256 bytes. -/
def lanesOf (bs : List Byte) : List W32 := (List.range 64).map (fun i => BitVec.ofNat 32 (leNat (slice bs (4 * i) 4)))

/-- A mask register. -/
def TaskSt.mask (y : TaskSt) (k : Nat) : W64 := nth y.masks k 0

/-- Whether a register carries a poison mark. -/
def TaskSt.marked (y : TaskSt) (r : Nat) : Bool := y.marks.contains r

/-- The mark of a register set, cleared, or kept where the write leaves lanes of it. -/
def TaskSt.setMark (y : TaskSt) (r : Nat) (mark partly : Bool) : TaskSt :=
  if mark then { y with marks := sinsert y.marks r }
  else if partly then y else { y with marks := sremove y.marks r }

/-- Every lane. -/
def allLanes : W64 := BitVec.allOnes 64

/-! ## Issue (R172, R180, R189) -/

/-- Whether two ranges share a place. -/
def rangesMeet (a la b lb : Nat) : Bool := decide (a < b + lb) && decide (b < a + la)

/-- Whether the matrix instruction that runs reads some of the given lines, or scales. -/
def CuSt.mmReads (x : CuSt) (scales : Bool) (a n : Nat) : Bool :=
  match x.mm with
  | none => false
  | some m => (if scales then mmScales m.w0 m.w1 else mmLines m.w0).any (fun r => rangesMeet r.1 r.2 a n)

/-- Whether a load in progress has still to write some of the given lines, or scales. -/
def CuSt.loadWrites (x : CuSt) (scales : Bool) (a n : Nat) : Bool :=
  x.intakes.any (fun i => i.scales == scales && rangesMeet i.next (if scales then 64 * i.left else i.left) a n)

/-- Whether the matrix instruction that runs writes a bank. -/
def CuSt.bankBusy (x : CuSt) (b : Nat) : Bool :=
  match x.mm with
  | none => false
  | some m => bitsOf m.w0 12 3 == b

/-- The tokens that a `MOV` receives: those of R187 for its format, and a scale token. -/
def movTokens (w : W64) : Nat :=
  (match bitsOf w 39 4 with
    | 0 => 4
    | 1 | 2 => 2
    | _ => 1) + if bitOf w 46 then 1 else 0

/-- The tokens that an instruction needs before it issues, by port. A load and a streamed matrix operand take the rest as they
arrive (R180). -/
def cuNeeds (w v : W64) : List (Nat × Nat) :=
  if bitsOf w 0 8 = 0x2C then (cuInPorts w v).map (fun p => (p, movTokens w)) else (cuInPorts w v).map (fun p => (p, 1))

/-- The tokens of a task, port and tag that a unit holds, oldest first. -/
def CuSt.tokensOf (x : CuSt) (task port tag : Nat) : List Held :=
  x.store.filter (fun h => h.token.task == task && h.port == port && h.token.tag == tag)

/-- The tag that an instruction works on (R263). -/
def cuTag (y : TaskSt) (w : W64) : Nat := (y.tb + bitsOf w 8 3) % 65536

/-- Whether an earlier instruction, or a full output, makes an instruction wait (R172, R180, R182). -/
def CuSt.busy (x : CuSt) (w v : W64) : Bool :=
  match bitsOf w 0 8 with
  | 0x10 => x.mm.isSome || (mmLines w).any (fun r => x.loadWrites false r.1 r.2) ||
      (mmScales w v).any (fun r => x.loadWrites true r.1 r.2)
  | 0x11 => x.mmReads false (bitsOf w 14 11) (bitsOf w 25 12) || x.loadWrites false (bitsOf w 14 11) (bitsOf w 25 12)
  | 0x12 => x.mmReads true (bitsOf w 14 13) (64 * bitsOf w 27 8) || x.loadWrites true (bitsOf w 14 13) (64 * bitsOf w 27 8)
  | 0x13 => x.mmReads false (bitsOf w 22 11) (bitsOf w 33 3) || x.loadWrites false (bitsOf w 22 11) (bitsOf w 33 3)
  | 0x14 => x.mmReads true (bitsOf w 22 13) (bitsOf w 35 7) || x.loadWrites true (bitsOf w 22 13) (bitsOf w 35 7)
  | 0x18 => x.bankBusy (bitsOf w 16 3)
  | 0x19 => x.bankBusy (bitsOf w 22 3)
  | 0x2B => x.bankBusy (bitsOf w 16 3)
  | 0x30 => decide (2 ≤ (nth x.outs (bitsOf w 37 2) .empty).tokens.length)
  | _ => false

/-- Whether task `t` can issue, waits for a port that holds no token of its tag, waits for the rest of a port's tokens, waits for something
else, or has finished. -/
inductive CanIssue where
  | yes | input (port tag : Nat) | part (port tag : Nat) | busy | finished
  deriving DecidableEq, Repr

/-- What keeps a task from issuing. -/
def CuSt.canIssue (x : CuSt) (ws : List W64) (t : Nat) : CanIssue :=
  let y := nth x.tasks t .fresh
  let w := wordAt ws y.pc
  let v := wordAt ws (y.pc + 1)
  if y.finished || !(cuTasks ws).testBit t then .finished
  else match (cuNeeds w v).find? (fun p => (x.tokensOf t p.1 (cuTag y w)).isEmpty),
      (cuNeeds w v).find? (fun p => decide ((x.tokensOf t p.1 (cuTag y w)).length < p.2)) with
    | some p, _ => .input p.1 (cuTag y w)
    | none, some p => .part p.1 (cuTag y w)
    | none, none => if x.busy w v then .busy else .yes

/-- What an instruction that issues works with: the unit, the first Dale and the run of its cast, its task, its index and its
two words. -/
structure CuOp where
  n : Nat
  first : Nat
  run : CastRun
  t : Nat
  pc : Nat
  w : W64
  v : W64
  deriving DecidableEq, Repr

/-- The next instruction of the active task of a unit, where a step is in flight and it can issue (R172). -/
def State.cuReady (s : State) (n : Nat) : Option CuOp :=
  match s.stepOn (n / 32) with
  | none => none
  | some (first, run) =>
    let ws := s.unitProg false n
    let x := s.cu n
    let pc := (nth x.tasks x.active .fresh).pc
    if x.canIssue ws x.active = .yes then
      some { n := n, first := first, run := run, t := x.active, pc := pc, w := wordAt ws pc, v := wordAt ws (pc + 1) }
    else none

/-- The active task's next instruction issued where it has the given opcode. -/
def State.cuIssue (s : State) (n op : Nat) (f : State → CuOp → State) : State :=
  match s.cuReady n with
  | none => s
  | some o => if bitsOf o.w 0 8 = op then f s o else s

/-- The task of an instruction. -/
def State.cuTask (s : State) (o : CuOp) : TaskSt := nth (s.cu o.n).tasks o.t .fresh

/-- The task of an instruction replaced. -/
def State.setCuTask (s : State) (o : CuOp) (y : TaskSt) : State :=
  s.setCu o.n { s.cu o.n with tasks := setNth (s.cu o.n).tasks o.t y }

/-- The task goes on at a word. -/
def State.cuGoto (s : State) (o : CuOp) (pc : Nat) : State := s.setCuTask o { s.cuTask o with pc := pc }

/-- The task goes on at the next word. -/
def State.cuAdvance (s : State) (o : CuOp) : State := s.cuGoto o (o.pc + 1)

/-- A vector instruction counted (R197). -/
def State.cuCountVec (s : State) (o : CuOp) : State := s.countWrap F.CU_VEC_ISSUES_COUNT (s.unitWindow o.n)

/-- The place of an event at an instruction (R256, R257). -/
def State.cuWhere (s : State) (o : CuOp) (lane row : Nat) : NanWhere :=
  { kind := 0, tag := cuTag (s.cuTask o) o.w, task := o.t, lane := lane, row := row, first := o.first
    rel := o.n / 32 - o.first, index := o.n % 32, ag := 0, pc := o.pc, castId := 0 }

/-! ## Control flow (R263, R264) -/

/-- `END`: the task has finished for the step. -/
def State.cuEnd (s : State) (o : CuOp) : State := s.setCuTask o { s.cuTask o with finished := true }

/-- `NEXT`: the tag base moves; tokens held for tags below it are discarded and counted (R263). -/
def State.cuNext (s : State) (o : CuOp) : State :=
  let y := s.cuTask o
  let tb := (y.tb + bitsOf o.w 8 4) % 65536
  let x := s.cu o.n
  let old := x.store.filter (fun h => h.token.task == o.t && !x.wants h && decide (32768 ≤ tagAhead h.token.tag tb))
  let s := s.setCu o.n { x with store := old.foldl List.erase x.store }
  let s := old.foldl State.creditBack s
  let s := s.setCuTask o { y with tb := tb, pc := o.pc + 1 }
  if old.isEmpty then s
  else
    let s := s.count F.FAB_JOB_STAT_RESIDUE o.run.job 0 old.length
    s.setRun o.first { o.run with residue := o.run.residue + old.length }

/-- `JMP`. -/
def State.cuJmp (s : State) (o : CuOp) : State := s.cuGoto o (bitsOf o.w 8 12)

/-- `BFIRST` (R181). -/
def State.cuBfirst (s : State) (o : CuOp) : State :=
  if s.firstStep o.run.cast then s.cuGoto o (bitsOf o.w 8 12) else s.cuAdvance o

/-- `SETL`. -/
def State.cuSetl (s : State) (o : CuOp) : State :=
  let y := s.cuTask o
  s.setCuTask o { y with loops := setNth y.loops (bitsOf o.w 8 2) (bitsOf o.w 10 24), pc := o.pc + 1 }

/-- `LOOP`. -/
def State.cuLoop (s : State) (o : CuOp) : State :=
  let y := s.cuTask o
  let k := bitsOf o.w 8 2
  let l := nth y.loops k 0
  if 1 < l then s.setCuTask o { y with loops := setNth y.loops k (l - 1), pc := bitsOf o.w 10 12 }
  else s.setCuTask o { y with loops := setNth y.loops k 0, pc := o.pc + 1 }

/-! ## Loads and stores of the buffer (R178, R180, R269) -/

/-- `LDB` and `LDS`: a load begins and takes the tokens already held. -/
def State.cuLoad (s : State) (o : CuOp) (scales : Bool) : State :=
  let x := s.cu o.n
  let i : Intake :=
    { task := o.t, port := bitsOf o.w 11 3, tag := cuTag (s.cuTask o) o.w, scales := scales
      next := if scales then bitsOf o.w 14 13 else bitsOf o.w 14 11
      left := if scales then bitsOf o.w 27 8 else bitsOf o.w 25 12 }
  ((s.cuAdvance o).setCu o.n { (s.cuAdvance o).cu o.n with intakes := x.intakes ++ [i] }).feedCu o.n

/-- The units of 64 bytes wholly inside a range, and those that it touches. -/
def wholeUnits (a n : Nat) : List Nat := (unitsOf a n).filter (fun u => decide (a ≤ 64 * u) && decide (64 * u + 64 ≤ a + n))

/-- The marks of lines after a write of a range (R524). -/
def marksAfter (l : List Nat) (a n : Nat) (mark : Bool) : List Nat :=
  if mark then (unitsOf a n).foldl sinsert l else (wholeUnits a n).foldl sremove l

/-- `STB`. -/
def State.cuStb (s : State) (o : CuOp) : State :=
  let y := s.cuTask o
  let x := s.cu o.n
  let a := 64 * bitsOf o.w 22 11
  let n := 64 * bitsOf o.w 33 3
  (s.setCu o.n { x with
    buf := bufWrite x.buf a ((y.regBytes (bitsOf o.w 16 6)).take n)
    lineMarks := marksAfter x.lineMarks a n (y.marked (bitsOf o.w 16 6)) }).cuAdvance o

/-- `STS`. -/
def State.cuSts (s : State) (o : CuOp) : State :=
  let y := s.cuTask o
  let x := s.cu o.n
  let a := bitsOf o.w 22 13
  let n := bitsOf o.w 35 7
  (s.setCu o.n { x with
    scales := bufWrite x.scales a ((y.regBytes (bitsOf o.w 16 6)).take n)
    scaleMarks := marksAfter x.scaleMarks a n (y.marked (bitsOf o.w 16 6)) }).cuAdvance o

/-! ## Accumulator banks (R182, R183) -/

/-- Row `r` of bank `b`. -/
def CuSt.bankRow (x : CuSt) (b r : Nat) : List W32 := (List.range 64).map (fun i => mgetD x.acc (1024 * b + 64 * r + i) 0)

/-- A row of a bank written in the lanes of a mask. -/
def CuSt.setBankRow (x : CuSt) (b r : Nat) (vs : List W32) (mask : W64) : CuSt :=
  let put := fun (m : SMap W32) (i : Nat) => if bitOf mask i then mset m (1024 * b + 64 * r + i) (nth vs i 0) else m
  { x with acc := (List.range 64).foldl put x.acc }

/-- `DRAIN`. -/
def State.cuDrain (s : State) (o : CuOp) : State :=
  let y := s.cuTask o
  let x := s.cu o.n
  let b := bitsOf o.w 16 3
  let vd := bitsOf o.w 11 5
  let y := (y.setReg vd (x.bankRow b (bitsOf o.w 19 4)) allLanes).setMark vd (x.bankMarks.contains b) false
  (s.setCuTask o y).cuAdvance o

/-- `BLOAD`. -/
def State.cuBload (s : State) (o : CuOp) : State :=
  let y := s.cuTask o
  let x := s.cu o.n
  let b := bitsOf o.w 22 3
  let x := x.setBankRow b (bitsOf o.w 25 4) (y.reg (bitsOf o.w 16 6)) allLanes
  let x := if y.marked (bitsOf o.w 16 6) then { x with bankMarks := sinsert x.bankMarks b } else x
  (s.setCu o.n x).cuAdvance o

/-! ## Vector instructions (R185, R186, R265, R266) -/

/-- A source of the vector layout: a register or the `BF16` immediate, broadcast from lane 0 where asked. -/
def cuSource (y : TaskSt) (w : W64) (code : Nat) (bcast : Bool) : List W32 :=
  if code = 40 then List.replicate 64 (BitVec.ofNat 32 (bitsOf w 48 16 * 65536))
  else if bcast then List.replicate 64 (y.lane code 0)
  else y.reg code

/-- Whether a source carries a mark. -/
def cuSourceMark (y : TaskSt) (code : Nat) : Bool := decide (code < 32) && y.marked code

/-- The lanes that an instruction writes: all, or those of `KM` where `MASKED` is set. -/
def cuMask (y : TaskSt) (w : W64) : W64 := if bitOf w 37 then y.mask (bitsOf w 34 3) else allLanes

/-- Whether a lane value is not a number. -/
def isNanLane (v : W32) : Bool := (ofF32 v).isNan

/-- The NaN events of lanes: those of a mask where an operand or the result is not a number. -/
def laneEvents (mask : W64) (a b c r : List W32) : List (Nat × NanEvent) :=
  (List.range 64).filterMap fun i =>
    let x := nth a i 0
    let y := nth b i 0
    let z := nth c i 0
    let v := nth r i 0
    if bitOf mask i && (isNanLane x || isNanLane y || isNanLane z || isNanLane v) then
      some (i, { firing := 0, stage := 2, src0 := x.toNat, src1 := y.toNat, src2 := z.toNat, result := v.toNat })
    else none

/-- The events of a vector instruction taken to the trap (R248 to R250). -/
def State.cuEvents (s : State) (o : CuOp) (es : List (Nat × NanEvent)) : State :=
  match es with
  | [] => s
  | e :: _ => s.castNan o.first (s.cuWhere o e.1 0) (es.map (fun x => x.2))

/-- An instruction of one, two or three sources whose lanes are independent. Absent sources take part as +0. -/
def State.cuLanes (s : State) (o : CuOp) (srcs : Nat) (f : W32 → W32 → W32 → W32) : State :=
  let y := s.cuTask o
  let zero := List.replicate 64 (0 : W32)
  let a := cuSource y o.w (bitsOf o.w 16 6) (bitOf o.w 38)
  let b := if 2 ≤ srcs then cuSource y o.w (bitsOf o.w 22 6) false else zero
  let c := if 3 ≤ srcs then cuSource y o.w (bitsOf o.w 28 6) false else zero
  let r := (List.range 64).map (fun i => f (nth a i 0) (nth b i 0) (nth c i 0))
  let mask := cuMask y o.w
  let vd := bitsOf o.w 11 5
  let mark := cuSourceMark y (bitsOf o.w 16 6) || (decide (2 ≤ srcs) && cuSourceMark y (bitsOf o.w 22 6)) ||
    (decide (3 ≤ srcs) && cuSourceMark y (bitsOf o.w 28 6)) || (bitOf o.w 37 && y.maskMarks.contains (bitsOf o.w 34 3))
  let es := laneEvents mask a b c r
  let s := s.setCuTask o ((y.setReg vd r mask).setMark vd mark (bitOf o.w 37))
  ((s.cuCountVec o).cuAdvance o).cuEvents o es

/-- `CMP`: the mask register named in `VD` is written. A NaN operand is an event (R248); `RESULT` of its record has no `FP32` result
to show and is free. -/
def State.cuCmp (s : State) (o : CuOp) : State :=
  let y := s.cuTask o
  let a := cuSource y o.w (bitsOf o.w 16 6) (bitOf o.w 38)
  let b := cuSource y o.w (bitsOf o.w 22 6) false
  let mask := cuMask y o.w
  let k := bitsOf o.w 11 3
  let bits := (List.range 64).foldl (fun m i => if f32Cmp (bitsOf o.w 43 3) (nth a i 0) (nth b i 0) then m + 2 ^ i else m) 0
  let mark := cuSourceMark y (bitsOf o.w 16 6) || cuSourceMark y (bitsOf o.w 22 6) ||
    (bitOf o.w 37 && (y.maskMarks.contains (bitsOf o.w 34 3) || y.maskMarks.contains k))
  let zero := List.replicate 64 (0 : W32)
  let es := (laneEvents mask a b zero zero).map (fun e => (e.1, { e.2 with result := s.free % 2 ^ 32 }))
  let s := s.setCuTask o { y with
    masks := setNth y.masks k (mergeMask (y.mask k) (BitVec.ofNat 64 bits) mask)
    maskMarks := if mark then sinsert y.maskMarks k else sremove y.maskMarks k }
  let s := if es.isEmpty then s else s.drawn
  ((s.cuCountVec o).cuAdvance o).cuEvents o es

/-- `SEL`. -/
def State.cuSel (s : State) (o : CuOp) : State :=
  let y := s.cuTask o
  let m := y.mask (bitsOf o.w 34 3)
  let a := cuSource y o.w (bitsOf o.w 16 6) (bitOf o.w 38)
  let b := cuSource y o.w (bitsOf o.w 22 6) false
  let r := (List.range 64).map (fun i => if bitOf m i then nth a i 0 else nth b i 0)
  let mask := cuMask y o.w
  let vd := bitsOf o.w 11 5
  let mark := cuSourceMark y (bitsOf o.w 16 6) || cuSourceMark y (bitsOf o.w 22 6) || y.maskMarks.contains (bitsOf o.w 34 3)
  let es := laneEvents mask a b (List.replicate 64 0) r
  let s := s.setCuTask o ((y.setReg vd r mask).setMark vd mark (bitOf o.w 37))
  ((s.cuCountVec o).cuAdvance o).cuEvents o es

/-- `RED` (R186, R266): lane 0 takes the reduction, the others +0. A NaN lane is an event of its own; a NaN that the tree makes of
lanes without one is an event of lane 0. -/
def State.cuRed (s : State) (o : CuOp) : State :=
  let y := s.cuTask o
  let a := cuSource y o.w (bitsOf o.w 16 6) (bitOf o.w 38)
  let v := redTree (if bitsOf o.w 43 3 = 0 then f32Add else f32Max) a
  let r := v :: List.replicate 63 (0 : W32)
  let mask := cuMask y o.w
  let vd := bitsOf o.w 11 5
  let mark := cuSourceMark y (bitsOf o.w 16 6)
  let zero := List.replicate 64 (0 : W32)
  let seen := (laneEvents allLanes a zero zero zero).map (fun e => (e.1, { e.2 with result := v.toNat }))
  let es := if seen.isEmpty && isNanLane v then
      [(0, ({ firing := 0, stage := 2, src0 := (nth a 0 0).toNat, src1 := 0, src2 := 0, result := v.toNat } : NanEvent))]
    else seen
  let s := s.setCuTask o ((y.setReg vd r mask).setMark vd mark (bitOf o.w 37))
  ((s.cuCountVec o).cuAdvance o).cuEvents o es

/-- `ROWSUM` (R183, R266): array row `r` copied or added into its effective row. -/
def State.cuRowsum (s : State) (o : CuOp) : State :=
  let y := s.cuTask o
  let x := s.cu o.n
  let b := bitsOf o.w 16 3
  let r := bitsOf o.w 19 4
  let k := 2 ^ bitsOf o.w 43 3
  let src := x.bankRow b r
  let dst := x.bankRow b (r / k)
  let mask := cuMask y o.w
  if r % k = 0 then
    ((s.setCu o.n (x.setBankRow b (r / k) src mask)).cuCountVec o).cuAdvance o
  else
    let v := (List.range 64).map (fun i => f32Add (nth dst i 0) (nth src i 0))
    let es := laneEvents mask dst src (List.replicate 64 0) v
    (((s.setCu o.n (x.setBankRow b (r / k) v mask)).cuCountVec o).cuAdvance o).cuEvents o es

/-! ## Conversions (R244 to R247, R267) -/

/-- The tensor scale of a `CVT`: lane 0 of `TSREG`, or one. -/
def cvtScale (y : TaskSt) (w : W64) : W32 := if bitOf w 55 then y.lane (bitsOf w 50 5) 0 else 0x3F800000#32

/-- The mask of the lanes that a `CVT` converts. -/
def cvtLanes (y : TaskSt) (w : W64) : List Nat := maskList (cuMask y w).toNat 64

/-- Whether a `CVT` rounds stochastically (R247): to a floating-point format of 8 bits or fewer. -/
def cvtStochastic (w : W64) : Bool := bitOf w 49 && decide (3 ≤ bitsOf w 39 4) && decide (bitsOf w 39 4 ≤ 7)

/-- Bytes whose value the manual leaves open: drawn from a free number. -/
def freeBytes (n f : Nat) : List Byte := leBytes n f

/-- Packed elements written into a register in the lanes of a mask; bytes past them are left open by the manual. -/
def packInto (f : Nat) (old : List Byte) (es : List Nat) (mask : W64) (free : Nat) : List Byte :=
  let keep := (List.range 64).map (fun i => if bitOf mask i then nth es i 0 else packedElem f old i)
  let bs := packElems f keep
  bs ++ freeBytes (256 - bs.length) free

/-- A narrowing `CVT`. A scale that is not a number is an event at the first lane of its block that makes it so, masked or not (R246,
R248). -/
def State.cvtNarrow (s : State) (o : CuOp) : State :=
  let y := s.cuTask o
  let f := bitsOf o.w 39 4
  let blk := blkLen (bitsOf o.w 44 3)
  let ue := bitOf o.w 48
  let a := cuSource y o.w (bitsOf o.w 16 6) false
  let t := cvtScale y o.w
  let mask := cuMask y o.w
  let draw := cvtStochastic o.w
  let rng : List (W32 × Nat) := (List.range 64).map (fun i =>
    let z := nth y.rng i 0
    if draw && bitOf mask i then xorshift z else (z, 0))
  let rs := rng.map (fun z => if draw then some z.2 else none)
  let z := narrowRow f blk ue (ofF32 t) (a.map ofF32) rs
  let n := if blk = 0 then 64 else min blk 64
  let scale := fun (i : Nat) => nth z.2 (i / n) 0
  let bad := fun (i : Nat) => blk != 0 && (scaleNum ue (scale i)).isNan
  let quot := fun (i : Nat) => ((ofF32 (nth a i 0)).div (ofF32 t)).1
  let own := fun (i : Nat) => (quot i).isNan || (decodeNum f (nth z.1 i 0)).isNan
  let off := fun (i : Nat) => (quot i).isNan || (quot i).isInf
  let first := fun (i : Nat) => off i && (List.range i).all (fun j => decide (j / n ≠ i / n) || !off j)
  let es := (List.range 64).filterMap (fun i =>
    if (bitOf mask i && own i) || (bad i && first i) then
      some (i, ({ firing := 0, stage := 3, src0 := (nth a i 0).toNat, src1 := if bitOf o.w 55 then t.toNat else 0
                  src2 := if blk = 0 then 0 else scale i, result := nth z.1 i 0 } : NanEvent))
    else none)
  let vd := bitsOf o.w 11 5
  let mark := cuSourceMark y (bitsOf o.w 16 6) || (bitOf o.w 55 && y.marked (bitsOf o.w 50 5))
  let y : TaskSt := { y with rng := rng.map (fun (g : W32 × Nat) => g.1) }
  let y := (y.setReg vd (lanesOf (packInto f (y.regBytes vd) z.1 mask s.free)) allLanes).setMark vd mark (bitOf o.w 37)
  let s := s.drawn
  let y := if blk = 0 then y
    else (y.setReg (vd + 1) (lanesOf (z.2.map (BitVec.ofNat 8) ++ freeBytes (256 - z.2.length) s.free)) allLanes).setMark (vd + 1) mark false
  let s := if blk = 0 then s else s.drawn
  let s := s.setCuTask o y
  ((s.cuCountVec o).cuAdvance o).cuEvents o es

/-- A widening `CVT`. -/
def State.cvtWiden (s : State) (o : CuOp) : State :=
  let y := s.cuTask o
  let f := bitsOf o.w 39 4
  let sa := bitsOf o.w 16 6
  let blk := blkLen (bitsOf o.w 44 3)
  let ue := bitOf o.w 48
  let t := cvtScale y o.w
  let es := (List.range 64).map (packedElem f (y.regBytes sa))
  let sc := if blk = 0 then [] else (y.regBytes (sa + 1)).map (fun b => b.toNat)
  let r := widenRow f blk ue (ofF32 t) es sc
  let mask := cuMask y o.w
  let n := if blk = 0 then 64 else min blk 64
  let ev := (List.range 64).filterMap (fun i =>
    if bitOf mask i && isNanLane (nth r i 0) then
      some (i, ({ firing := 0, stage := 3, src0 := nth es i 0, src1 := if bitOf o.w 55 then t.toNat else 0
                  src2 := if blk = 0 then 0 else nth sc (i / n) 0, result := (nth r i 0).toNat } : NanEvent))
    else none)
  let vd := bitsOf o.w 11 5
  let mark := y.marked sa || (blk != 0 && y.marked (sa + 1)) || (bitOf o.w 55 && y.marked (bitsOf o.w 50 5))
  let s := s.setCuTask o ((y.setReg vd r mask).setMark vd mark (bitOf o.w 37))
  ((s.cuCountVec o).cuAdvance o).cuEvents o ev

/-- `CVT` (R267). -/
def State.cuCvt (s : State) (o : CuOp) : State := if bitOf o.w 43 then s.cvtWiden o else s.cvtNarrow o

/-! ## MOV, MOVI and SEND (R187, R266, R269) -/

/-- The lanes that tokens of a format carry (R187): `FP32` and widened 16-bit lanes; packed bytes of a narrower format with what
follows them left open. -/
def receivedLanes (f : Nat) (ts : List Token) (free : Nat) : List W32 :=
  let bs := ts.flatMap (fun t => t.payload)
  match f with
  | 0 => lanesOf bs
  | 1 | 2 => (List.range 64).map (fun i => toF32 (decodeNum f (packedElem f bs i)))
  | _ =>
    let n := 64 * fmtBits f / 8
    lanesOf (bs.take n ++ freeBytes (256 - n) free)

/-- `MOV`: a register, the immediate, or the tokens of a port. -/
def State.cuMov (s : State) (o : CuOp) : State :=
  let y := s.cuTask o
  let code := bitsOf o.w 16 6
  let vd := bitsOf o.w 11 5
  let mask := cuMask y o.w
  if code < 32 ∨ code = 40 then
    let r := cuSource y o.w code (bitOf o.w 38)
    (s.setCuTask o ((y.setReg vd r mask).setMark vd (cuSourceMark y code) (bitOf o.w 37))).cuAdvance o
  else
    let x := s.cu o.n
    let hs := (x.tokensOf o.t (code - 32) (cuTag y o.w)).take (movTokens o.w)
    let n := hs.length - if bitOf o.w 46 then 1 else 0
    let ts := hs.map (fun h => h.token)
    let y := (y.setReg vd (receivedLanes (bitsOf o.w 39 4) (ts.take n) s.free) mask).setMark vd
      ((ts.take n).any (fun t => t.poison)) (bitOf o.w 37)
    let s := s.drawn
    let sc := ts.drop n
    let y := if sc.isEmpty then y
      else (y.setReg (vd + 1) (lanesOf (sc.flatMap (fun t => t.payload) ++ freeBytes 192 s.free)) allLanes).setMark (vd + 1)
        (sc.any (fun t => t.poison)) false
    let s := s.drawn
    let s := s.setCu o.n { x with store := hs.foldl List.erase x.store }
    let s := (s.setCuTask o y).cuAdvance o
    hs.foldl State.creditBack s

/-- `MOVI`. -/
def State.cuMovi (s : State) (o : CuOp) : State :=
  let y := s.cuTask o
  let vd := bitsOf o.w 11 5
  let y := (y.setReg vd (List.replicate 64 (BitVec.ofNat 32 (bitsOf o.w 32 32))) allLanes).setMark vd false false
  (s.setCuTask o y).cuAdvance o

/-- The payloads of the tokens that a register is sent as (R187, R269). -/
def sentPayloads (f : Nat) (y : TaskSt) (r : Nat) : List (List Byte) :=
  let bs := y.regBytes r
  match f with
  | 0 => (List.range 4).map (fun i => slice bs (64 * i) 64)
  | 1 | 2 =>
    let p := packElems f ((y.reg r).map (fun v => encodeNum f (ofF32 v)))
    (List.range 2).map (fun i => slice p (64 * i) 64)
  | _ => [bs.take 64]

/-- The payload of a control token (R144, R269): the decision, the tag, and bits that nothing reads, which are free. -/
def controlPayload (decision : Bool) (tag free : Nat) : List Byte :=
  leBytes 64 (free / 2 ^ 32 * 2 ^ 32 + tag * 2 ^ 16 + free % 2 ^ 16 / 2 * 2 + if decision then 1 else 0)

/-- `SEND`. A control token from a marked register stops the cast (R525). -/
def State.cuSend (s : State) (o : CuOp) : State :=
  let y := s.cuTask o
  let sa := bitsOf o.w 16 6
  let p := bitsOf o.w 37 2
  let mk := fun (mark ctrl : Bool) (bs : List Byte) =>
    ({ tag := cuTag y o.w, task := bitsOf o.w 43 2, ctrl := ctrl, poison := mark, payload := bs, chan := 0, steerTag := 0 } : Token)
  let push := fun (s : State) (ts : List Token) =>
    let x := s.cu o.n
    (s.setCu o.n { x with outs := setNth x.outs p ((nth x.outs p .empty).push s.now ts) }).cuAdvance o
  if bitOf o.w 47 then
    if y.marked sa || y.maskMarks.contains (bitsOf o.w 34 3) then s.castPoisoned o.first
    else (push s [mk false true (controlPayload (bitOf (y.mask (bitsOf o.w 34 3)) 0) ((y.lane sa 0).toNat % 65536) s.free)]).drawn
  else
    let ts := (sentPayloads (bitsOf o.w 39 4) y sa).map (mk (y.marked sa) false)
    push s (ts ++ if bitOf o.w 46 then [mk (y.marked (sa + 1)) false ((y.regBytes (sa + 1)).take 64)] else [])

/-! ## The matrix engine (R173 to R183, R238 to R243) -/

/-- The matrix instruction that runs completes (R173, R238 to R243, R248 to R250). -/
def State.mmDone (s : State) (first : Nat) (run : CastRun) (n : Nat) (m : MmSt) : State :=
  let x := s.cu n
  let all := x.mmBank n m (mmTerms m.w0 m.w1 (x.mmData m))
  let es := mmEvents all
  let stop := match es.head? with
    | some e => if hdrRecord (s.castRef run.cast).header then none else some e.2.2.firing
    | none => none
  let out := match stop with
    | none => all
    | some f => x.mmBank n m (x.mmTermsBy n m f)
  let es := match stop with
    | none => es
    | some f => es.filter (fun e => e.2.2.firing == f)
  let s := s.setCu n (x.mmWrite m (out.map (fun p => (p.1, p.2.1))))
  let s := s.countWrap F.CU_MM_FIRINGS_COUNT (s.unitWindow n) 0 (match stop with
    | none => mmFirings m.w0 (mmSteps m.w0)
    | some f => f + 1)
  match es with
  | [] => s
  | e :: _ => s.castNan first (mmWhere m first n e) (es.map (fun e => e.2.2))

/-- `MM` issues (R173, R268): the tensor scales are read, and a streamed A is taken from its port as it arrives. -/
def State.cuMm (s : State) (o : CuOp) : State :=
  let y := s.cuTask o
  let stream := !bitOf o.w 26
  let scaled := stream && bitsOf o.v 0 3 != 0
  let one : W32 := 0x3F800000#32
  let m : MmSt :=
    { task := o.t, pc := o.pc, w0 := o.w, w1 := o.v, tag := cuTag y o.w
      ta := if bitOf o.v 26 then y.lane (bitsOf o.v 21 5) 0 else one, tb := if bitOf o.v 50 then y.lane (bitsOf o.v 45 5) 0 else one
      aBytes := [], sBytes := [], aLeft := if stream then ceilDiv (mmABytes o.w) 64 else 0
      sLeft := if scaled then ceilDiv (mmAScales o.w o.v) 64 else 0
      poison := (bitOf o.v 26 && y.marked (bitsOf o.v 21 5)) || (bitOf o.v 50 && y.marked (bitsOf o.v 45 5)) }
  let s := s.cuGoto o (o.pc + 2)
  (s.setCu o.n { s.cu o.n with mm := some m }).feedCu o.n

/-! ## The commands -/

/-- `TASK_SWITCH` (R189): the active task waits for a token or has finished, and the next task that can issue takes over. -/
def State.taskSwitch (s : State) (n : Nat) : State :=
  let ws := s.unitProg false n
  let x := s.cu n
  let next := ((List.range 3).map (fun i => (x.active + 1 + i) % 4)).find? (fun t => x.canIssue ws t == .yes)
  let why := match x.canIssue ws x.active with
    | .input _ _ | .finished => true
    | _ => false
  match (s.stepOn (n / 32)).isSome && why, next with
  | true, some t => (s.setCu n { x with active := t, switchAt := some s.now }).countWrap F.CU_SWITCHES_COUNT (s.unitWindow n)
  | _, _ => s

/-- `TASK_SWITCH` (R189). -/
def execTaskSwitch (cu : UnitId) (s : State) : Host.Outcome State Fault Refusal := .next (s.taskSwitch cu.val)

/-- `END` of a stage program (R264). -/
def execCuEnd (cu : UnitId) (s : State) : Host.Outcome State Fault Refusal := .next (s.cuIssue cu.val 0x00 State.cuEnd)

/-- `NEXT` (R263). -/
def execCuNext (cu : UnitId) (s : State) : Host.Outcome State Fault Refusal := .next (s.cuIssue cu.val 0x01 State.cuNext)

/-- `JMP` (R264). -/
def execCuJmp (cu : UnitId) (s : State) : Host.Outcome State Fault Refusal := .next (s.cuIssue cu.val 0x02 State.cuJmp)

/-- `BFIRST` (R264, R181). -/
def execCuBfirst (cu : UnitId) (s : State) : Host.Outcome State Fault Refusal := .next (s.cuIssue cu.val 0x03 State.cuBfirst)

/-- `SETL` (R264). -/
def execCuSetl (cu : UnitId) (s : State) : Host.Outcome State Fault Refusal := .next (s.cuIssue cu.val 0x04 State.cuSetl)

/-- `LOOP` (R264). -/
def execCuLoop (cu : UnitId) (s : State) : Host.Outcome State Fault Refusal := .next (s.cuIssue cu.val 0x05 State.cuLoop)

/-- `MM` (R173, R268). -/
def execCuMm (cu : UnitId) (s : State) : Host.Outcome State Fault Refusal := .next (s.cuIssue cu.val 0x10 State.cuMm)

/-- `MM_COMPLETE` (R173): the matrix instruction of a unit has taken its whole A and finishes its steps. -/
def execMmComplete (cu : UnitId) (s : State) : Host.Outcome State Fault Refusal :=
  .next (match s.stepOn (cu.val / 32), (s.cu cu.val).mm with
    | some (first, run), some m => if m.aLeft = 0 ∧ m.sLeft = 0 then s.mmDone first run cu.val m else s
    | _, _ => s)

/-- `LDB` (R180). -/
def execCuLdb (cu : UnitId) (s : State) : Host.Outcome State Fault Refusal :=
  .next (s.cuIssue cu.val 0x11 (fun s o => s.cuLoad o false))

/-- `LDS` (R180). -/
def execCuLds (cu : UnitId) (s : State) : Host.Outcome State Fault Refusal :=
  .next (s.cuIssue cu.val 0x12 (fun s o => s.cuLoad o true))

/-- `STB` (R269). -/
def execCuStb (cu : UnitId) (s : State) : Host.Outcome State Fault Refusal := .next (s.cuIssue cu.val 0x13 State.cuStb)

/-- `STS` (R269). -/
def execCuSts (cu : UnitId) (s : State) : Host.Outcome State Fault Refusal := .next (s.cuIssue cu.val 0x14 State.cuSts)

/-- `DRAIN` (R182). -/
def execCuDrain (cu : UnitId) (s : State) : Host.Outcome State Fault Refusal := .next (s.cuIssue cu.val 0x18 State.cuDrain)

/-- `BLOAD` (R182). -/
def execCuBload (cu : UnitId) (s : State) : Host.Outcome State Fault Refusal := .next (s.cuIssue cu.val 0x19 State.cuBload)

/-- `ADD` (R185). -/
def execCuAdd (cu : UnitId) (s : State) : Host.Outcome State Fault Refusal :=
  .next (s.cuIssue cu.val 0x20 (fun s o => s.cuLanes o 2 (fun a b _ => f32Add a b)))

/-- `MUL` (R185). -/
def execCuMul (cu : UnitId) (s : State) : Host.Outcome State Fault Refusal :=
  .next (s.cuIssue cu.val 0x21 (fun s o => s.cuLanes o 2 (fun a b _ => f32Mul a b)))

/-- `FMA` (R185). -/
def execCuFma (cu : UnitId) (s : State) : Host.Outcome State Fault Refusal :=
  .next (s.cuIssue cu.val 0x22 (fun s o => s.cuLanes o 3 f32Fma))

/-- `EXP2` (R185). The same operand gives the same result (R253). -/
def execCuExp2 (cu : UnitId) (s : State) : Host.Outcome State Fault Refusal :=
  .next (s.cuIssue cu.val 0x23 (fun s o => s.cuLanes o 1 (fun a _ _ => f32Exp2 a 0)))

/-- `RCP` (R185). -/
def execCuRcp (cu : UnitId) (s : State) : Host.Outcome State Fault Refusal :=
  .next (s.cuIssue cu.val 0x24 (fun s o => s.cuLanes o 1 (fun a _ _ => f32Rcp a 0)))

/-- `RSQRT` (R185). -/
def execCuRsqrt (cu : UnitId) (s : State) : Host.Outcome State Fault Refusal :=
  .next (s.cuIssue cu.val 0x25 (fun s o => s.cuLanes o 1 (fun a _ _ => f32Rsqrt a 0)))

/-- `MAX` (R185). -/
def execCuMax (cu : UnitId) (s : State) : Host.Outcome State Fault Refusal :=
  .next (s.cuIssue cu.val 0x26 (fun s o => s.cuLanes o 2 (fun a b _ => f32Max a b)))

/-- `CMP` (R185). -/
def execCuCmp (cu : UnitId) (s : State) : Host.Outcome State Fault Refusal := .next (s.cuIssue cu.val 0x27 State.cuCmp)

/-- `SEL` (R185). -/
def execCuSel (cu : UnitId) (s : State) : Host.Outcome State Fault Refusal := .next (s.cuIssue cu.val 0x28 State.cuSel)

/-- `CVT` (R267). -/
def execCuCvt (cu : UnitId) (s : State) : Host.Outcome State Fault Refusal := .next (s.cuIssue cu.val 0x29 State.cuCvt)

/-- `RED` (R186). -/
def execCuRed (cu : UnitId) (s : State) : Host.Outcome State Fault Refusal := .next (s.cuIssue cu.val 0x2A State.cuRed)

/-- `ROWSUM` (R183). -/
def execCuRowsum (cu : UnitId) (s : State) : Host.Outcome State Fault Refusal := .next (s.cuIssue cu.val 0x2B State.cuRowsum)

/-- `MOV` (R266). -/
def execCuMov (cu : UnitId) (s : State) : Host.Outcome State Fault Refusal := .next (s.cuIssue cu.val 0x2C State.cuMov)

/-- `MOVI` (R266). -/
def execCuMovi (cu : UnitId) (s : State) : Host.Outcome State Fault Refusal := .next (s.cuIssue cu.val 0x2D State.cuMovi)

/-- `SEND` (R269). -/
def execCuSend (cu : UnitId) (s : State) : Host.Outcome State Fault Refusal := .next (s.cuIssue cu.val 0x30 State.cuSend)

end Sys2Proof.Machine
end

