-- ==== Sys2Proof/Machine/Mu.lean ====
section
/-! DEFINITION. The memory unit (R199 to R231, R271 to R276): affine streams, list streams, slot rings, `SYNC`, and the patrol
scrub. -/

namespace Sys2Proof.Machine

/-! ## Affine nests (R207, R208, R211) -/

/-- The loop indexes of iteration `k`, innermost first. -/
def indexesOf : List Level → Nat → List Nat
  | [], _ => []
  | l :: t, k => k % l.n :: indexesOf t (k / l.n)

/-- The byte offset of an iteration. -/
def nestOffset (ls : List Level) (is : List Nat) : Int := (ls.zip is).foldl (fun a x => a + (x.2 : Int) * x.1.stride) 0

/-- A coordinate of an iteration: X, Y and Z are dimensions 1, 2 and 3. -/
def nestCoord (ls : List Level) (is : List Nat) (dim : Nat) : Nat :=
  (ls.zip is).foldl (fun a x => if x.1.dim = dim then a + x.2 * x.1.mult else a) 0

/-- The bits of a line inside the extents (R211): 512 for a whole line, 0 for an excluded one. A line holds 84 elements of a 6-bit format:
no packing group is split across lines (R233). -/
def insideBits (ext : W64) (fmt : Nat) (ls : List Level) (is : List Nat) : Nat :=
  let named := fun (d : Nat) => ls.any (fun l => l.dim == d)
  let c := nestCoord ls is
  let w := max 1 (fmtBits fmt)
  let perLine := if w = 6 then 84 else 512 / w
  if (named 2 && decide (bitsOf ext 24 20 ≤ c 2)) || (named 3 && decide (bitsOf ext 44 20 ≤ c 3)) then 0
  else if !named 1 then 512
  else if bitsOf ext 0 24 ≤ c 1 then 0
  else if c 1 + perLine ≤ bitsOf ext 0 24 then 512
  else (bitsOf ext 0 24 - c 1) * w

/-- Iterations of the tag level. -/
def tagCount (ls : List Level) (w : W64) : Nat := nestCount (ls.drop (bitsOf w 30 3))

/-- Whether 64 bytes at an MU-local offset lie in a footprint (R110). -/
def inFootprint (h : List W64) (a : Int) : Bool := decide ((hdrFootFrom h : Int) ≤ a) && decide (a + 64 ≤ (hdrFootTo h : Int))

/-! ## Slot rings (R214, R215) -/

/-- Slots written and not yet released by a consumer. -/
def ringLag (tail cons : Nat) : Nat := (tail + 65536 - cons % 65536) % 65536

/-- Slots between TAIL and HEAD: HEAD is the cursor that lags most. -/
def RingPtr.fill (p : RingPtr) (two : Bool) : Nat := max (ringLag p.tail p.cons0) (if two then ringLag p.tail p.cons1 else 0)

/-- The cursor of a consumer. -/
def RingPtr.cons (p : RingPtr) (c : Nat) : Nat := if c = 0 then p.cons0 else p.cons1

/-- A slot released by a consumer. -/
def RingPtr.release (p : RingPtr) (c : Nat) : RingPtr :=
  if c = 0 then { p with cons0 := (p.cons0 + 1) % 65536 } else { p with cons1 := (p.cons1 + 1) % 65536 }

/-- The MU-local offset of the slot of a counter value. -/
def RingDecl.slotAt (d : RingDecl) (k : Nat) : Nat := 64 * (d.base + k % 65536 % max 1 d.slots * d.lines)

/-! ## Generators -/

/-- What a stream instruction works with: unit, generator, first Dale and run of its cast, program and head word. -/
structure AgOp where
  n : Nat
  a : Nat
  first : Nat
  run : CastRun
  ws : List W64
  w : W64
  deriving DecidableEq, Repr

/-- The generator of an instruction. -/
def State.ag (s : State) (o : AgOp) : AgSt := nth (s.mu o.n).ags o.a .fresh

/-- The generator of an instruction replaced. -/
def State.setAg (s : State) (o : AgOp) (g : AgSt) : State :=
  s.setMu o.n { s.mu o.n with ags := setNth (s.mu o.n).ags o.a g }

/-- A generator waits (R225) from now on, unless it waited for the same thing already. -/
def State.agWait (s : State) (o : AgOp) (code : Nat) : State :=
  let g := s.ag o
  s.setAg o (if g.wait = code then g else { g with wait := code, since := s.now })

/-- A generator that goes on no longer waits. -/
def State.setAgGo (s : State) (o : AgOp) (g : AgSt) : State := s.setAg o { g with wait := 0, since := s.now }

/-- A generator goes to its next instruction. -/
def AgSt.next (g : AgSt) (w : W64) : AgSt :=
  { g with pc := g.pc + muLen w, done := 0, base := 0, written := [], line := 0, phase := 0, completed := g.completed + 1, wait := 0 }

/-- The instruction of a generator issued where a step is in flight and it has the given opcode. -/
def State.agIssue (s : State) (n a op : Nat) (f : State → AgOp → State) : State :=
  match s.stepOn (n / 32) with
  | none => s
  | some (first, run) =>
    let ws := s.unitProg true n
    let g := nth (s.mu n).ags a .fresh
    let w := wordAt ws g.pc
    if ws.isEmpty || !muUsed ws a || g.finished || bitsOf w 0 4 != op then s
    else f s { n := n, a := a, first := first, run := run, ws := ws, w := w }

/-- The header of the cast that an instruction belongs to. -/
def State.agHeader (s : State) (o : AgOp) : List W64 := (s.castRef o.run.cast).header

/-- The declaration and the counters of a ring. -/
def State.agRing (s : State) (o : AgOp) (r : Nat) : RingDecl × RingPtr :=
  (RingDecl.ofWord (muRing o.ws r), nth (s.mu o.n).rings r .zero)

/-- The counters of a ring replaced. -/
def State.setRing (s : State) (n r : Nat) (p : RingPtr) : State := s.setMu n { s.mu n with rings := setNth (s.mu n).rings r p }

/-- The place of the unit of an instruction in the order of R601. -/
def AgOp.rank (o : AgOp) : Nat := unitRank 1 (o.n / 32 - o.first) (o.n % 32)

/-- An access outside the footprint (R110). -/
def State.footprintFault (s : State) (o : AgOp) (a : Int) : State :=
  s.castFault o.first o.rank 0x4402 .denied (BitVec.ofInt 64 ((s.globalOf (0x100000 * o.n) : Nat) + a))

/-- The low bits of a line written, the rest kept (R201, R212), with the marks of R524. -/
def State.putLine (s : State) (a bits new : Nat) (mark : Bool) : State :=
  let old := leNat (s.bytes a 64)
  let v := new % 2 ^ bits + old / 2 ^ bits * 2 ^ bits
  let m := s.memory
  let ps := if mark then sinsert m.poison (a / 64) else if bits = 512 then sremove m.poison (a / 64) else m.poison
  let s := { s with memory := { m with mem := memWrite m.mem a (leBytes 64 v), poison := ps } }
  let s := s.countLines true a 64
  if bits % 64 = 0 then s else s.countLines false a 64

/-- A line of the unit read, its mark included. -/
def State.takeLine (s : State) (a : Nat) : State × Nat × Bool := (s.countLines false a 64, leNat (s.bytes a 64), s.poisoned a 64)

/-! ## AFF_READ (R208, R212, R274) -/

/-- A token put on an output port of a memory unit. -/
def State.muSend (s : State) (n port : Nat) (t : Token) : State :=
  let x := s.mu n
  s.setMu n { x with outs := setNth x.outs port ((nth x.outs port .empty).push s.now [t]) }

/-- One line of a read stream sent, from the line's base. -/
def State.readLine (s : State) (o : AgOp) (start : Nat) : State :=
  let g := s.ag o
  let ls := muLevels o.ws g.pc
  let is := indexesOf ls g.done
  let bits := insideBits (wordAt o.ws (g.pc + 1)) (bitsOf o.w 51 4) ls is
  let tag := (bitsOf o.w 33 16 + g.done / linesPerTag ls o.w) % 65536
  let a := (start : Int) + nestOffset ls is
  let mk := fun (v : Nat) (mark : Bool) =>
    ({ tag := tag, task := bitsOf o.w 49 2, ctrl := false, poison := mark, payload := leBytes 64 v, chan := 0, steerTag := 0 } : Token)
  let z : State × Token :=
    if bits = 0 then (s.countWrap F.MU_PAD_LINES_COUNT (s.unitWindow o.n), mk 0 false)
    else if !inFootprint (s.agHeader o) a then (s.footprintFault o a, mk 0 false)
    else
      let l := s.takeLine (0x100000 * o.n + a.toNat)
      (l.1, mk (l.2.1 % 2 ^ bits) l.2.2)
  let s := z.1.muSend o.n (bitsOf o.w 10 2) z.2
  let total := linesPerTag ls o.w * tagCount ls o.w
  let s := match muRingOf o.w with
    | some r => if (g.done + 1) % linesPerTag ls o.w = 0 then
        s.setRing o.n r ((s.agRing o r).2.release (bitsOf o.w 29 1)) else s
    | none => s
  let g := { g with tag := tag }
  s.setAgGo o (if g.done + 1 = total then g.next o.w else { g with done := g.done + 1 })

/-- `AFF_READ`: the next line is sent, unless its ring is empty or its output full. -/
def State.affRead (s : State) (o : AgOp) : State :=
  let full := decide (2 ≤ (nth (s.mu o.n).outs (bitsOf o.w 10 2) .empty).tokens.length)
  match muRingOf o.w with
  | some r =>
    let z := s.agRing o r
    if ringLag z.2.tail (z.2.cons (bitsOf o.w 29 1)) = 0 then s.agWait o 4
    else if full then s.agWait o 1
    else s.readLine o (z.1.slotAt (z.2.cons (bitsOf o.w 29 1)))
  | none => if full then s.agWait o 1 else s.readLine o (64 * bitsOf o.w 12 14)

/-! ## AFF_WRITE and AFF_ADD (R209, R212, R219, R274) -/

/-- The sums of 16 `FP32` lanes, with their events: those of the lanes inside the extents. -/
def addLanes (bits line token : Nat) : Nat × List (Nat × NanEvent) :=
  let lane := fun (v i : Nat) => BitVec.ofNat 32 (v / 2 ^ (32 * i))
  (List.range 16).foldl (fun (a : Nat × List (Nat × NanEvent)) i =>
    let x := lane line i
    let y := lane token i
    let v := f32Add x y
    let e : NanEvent := { firing := 0, stage := 4, src0 := x.toNat, src1 := y.toNat, src2 := 0, result := v.toNat }
    let nan := decide (32 * i + 32 ≤ bits) && ((ofF32 x).isNan || (ofF32 y).isNan || (ofF32 v).isNan)
    (a.1 + v.toNat * 2 ^ (32 * i), if nan then a.2 ++ [(i, e)] else a.2)) (0, [])

/-- The slots of the ring of a stream that are free, from TAIL on; without a ring every iteration has its lines. -/
def State.roomFor (s : State) (o : AgOp) (k : Nat) : Bool :=
  match muRingOf o.w with
  | none => true
  | some r => let y := s.agRing o r; decide (y.2.fill y.1.twoCons + k < y.1.slots)

/-- The token that a write stream takes: the oldest on its port that lies behind the stream, or whose iteration it has and, into a ring,
whose slot is free (R209, R215). -/
def State.streamToken (s : State) (o : AgOp) (count : Nat) : Option Held :=
  let g := s.ag o
  (s.mu o.n).store.find? fun h =>
    let k := tagAhead h.token.tag (bitsOf o.w 33 16 + g.base)
    h.port == bitsOf o.w 10 2 && (decide (32768 ≤ k) || (decide (g.base + k < count) && s.roomFor o k))

/-- Whether a write stream holds a token of an iteration it has. -/
def State.holdsFor (s : State) (o : AgOp) (count : Nat) : Bool :=
  (s.mu o.n).store.any fun h =>
    h.port == bitsOf o.w 10 2 && decide ((s.ag o).base + tagAhead h.token.tag (bitsOf o.w 33 16 + (s.ag o).base) < count)

/-- Whole iterations at the base passed, each with its ring slot; `fuel` bounds their number. -/
def passIterations (per count : Nat) : Nat → Nat → SMap Nat → Nat → Nat × SMap Nat × Nat
  | 0, b, m, t => (b, m, t)
  | fuel + 1, b, m, t =>
    if b < count ∧ mgetD m b 0 = per then passIterations per count fuel (b + 1) (merase m b) ((t + 1) % 65536) else (b, m, t)

/-- A token placed at its line (R209): written, added, or dropped by the extents. -/
def State.placeToken (s : State) (o : AgOp) (add : Bool) (start k : Nat) (h : Held) : State :=
  let g := s.ag o
  let ls := muLevels o.ws g.pc
  let per := linesPerTag ls o.w
  let j := mgetD g.written k 0
  let is := indexesOf ls (k * per + j)
  let bits := insideBits (wordAt o.ws (g.pc + 1)) (bitsOf o.w 51 4) ls is
  let a := (start : Int) + nestOffset ls is
  let g := { g with written := mset g.written k (j + 1) }
  let z := passIterations per (tagCount ls o.w) 9 g.base g.written 0
  let g := { g with base := z.1, written := z.2.1, tag := (bitsOf o.w 33 16 + z.1) % 65536 }
  let x := s.mu o.n
  let s := s.setMu o.n { x with store := x.store.erase h }
  let s := s.creditBack h
  let s := match muRingOf o.w with
    | some r => let p := (s.agRing o r).2; s.setRing o.n r { p with tail := (p.tail + z.2.2) % 65536 }
    | none => s
  let pc := (s.ag o).pc
  let s := s.setAgGo o (if g.base = tagCount ls o.w then g.next o.w else g)
  if bits = 0 then s.countWrap F.MU_PAD_LINES_COUNT (s.unitWindow o.n)
  else if !inFootprint (s.agHeader o) a then s.footprintFault o a
  else
    let at_ := 0x100000 * o.n + a.toNat
    if !add then s.putLine at_ bits (leNat h.token.payload) h.token.poison
    else
      let l := s.takeLine at_
      let v := addLanes bits l.2.1 (leNat h.token.payload)
      let s := l.1.putLine at_ bits v.1 (l.2.2 || h.token.poison)
      match v.2 with
      | [] => s
      | e :: _ => s.castNan o.first
          { kind := 1, tag := h.token.tag, task := 0, lane := e.1, row := 0, first := o.first, rel := o.n / 32 - o.first
            index := o.n % 32, ag := o.a, pc := pc, castId := 0 } (v.2.map (fun e => e.2))

/-- `AFF_WRITE` and `AFF_ADD`: the oldest token that the stream can take is placed; a token of an iteration that is whole or passed
is a duplicate (R146). With no such token the stream waits for one, or for its ring where it holds one whose slot is not free. -/
def State.affWrite (s : State) (o : AgOp) (add : Bool) : State :=
  let g := s.ag o
  let ls := muLevels o.ws g.pc
  match s.streamToken o (tagCount ls o.w) with
  | none => s.agWait o (if s.holdsFor o (tagCount ls o.w) then 3 else 2)
  | some h =>
    let k := tagAhead h.token.tag (bitsOf o.w 33 16 + g.base)
    if 32768 ≤ k ∨ linesPerTag ls o.w ≤ mgetD g.written (g.base + k) 0 then
      let x := s.mu o.n
      (s.setMu o.n { x with store := x.store.erase h }).tagFault o.first h
    else match muRingOf o.w with
      | none => s.placeToken o add (64 * bitsOf o.w 12 14) (g.base + k) h
      | some r =>
        let z := s.agRing o r
        s.placeToken o add (z.1.slotAt (z.2.tail + k)) (g.base + k) h

/-! ## Images of block-list entries on the Terrace side (R104, R105, R210, R275) -/

/-- A stretch of bits of an entry: its place in the Terrace image and in memory from `BASE`. -/
structure Cell where
  at_ : Nat
  pos : Nat
  bits : Nat
  deriving DecidableEq, Repr

/-- The part of a cell between two bits of the image. -/
def Cell.clip (c : Cell) (lo hi : Nat) : Option Cell :=
  let a := max c.at_ lo
  let b := min (c.at_ + c.bits) hi
  if a < b then some { at_ := a, pos := c.pos + (a - c.at_), bits := b - a } else none

/-- Rows and columns of an entry's matrices as they move: exchanged by `TRANSPOSE`. -/
def Entry.rows (e : Entry) : Nat := if e.transpose then e.ext0 else e.ext1
/-- Columns as they move. -/
def Entry.cols (e : Entry) : Nat := if e.transpose then e.ext1 else e.ext0

/-- Tiles of one matrix as they move: down and across. -/
def Entry.tiles (e : Entry) : Nat × Nat := (ceilDiv e.rows (max 1 e.tileRows), ceilDiv e.cols 64)

/-- Bytes of an entry on the Terrace side. -/
def Entry.imageBytes (e : Entry) : Nat :=
  if e.shape = 0 then ceilDiv (e.total * fmtBits e.fmt) 8 else e.ext2 * e.tiles.1 * e.tiles.2 * e.tileBytes

/-- The place of scale byte `i` of a tile in the memory tile that holds it: as it stands, or, for a transposed T64 tile, that of
the same block; `none` where the manual gives a transposed tile no scale layout. -/
def Entry.scalePlace (e : Entry) (i : Nat) : Option Nat :=
  let n := if e.blk = 0 then 0 else max 1 (64 / blkLen e.blk)
  if !e.transpose then some i
  else if e.shape = 1 then none
  else if 64 * n ≤ i then some i
  else if e.dir then some (i % n * 64 + i / n) else some (i % 64 * n + i / 64)

/-- The cells of tile `t` of batch matrix `k` of a tiled entry. -/
def Entry.tileCells (e : Entry) (k t : Nat) : List Cell :=
  let w := fmtBits e.fmt
  let a := t / max 1 e.tiles.2
  let b := t % max 1 e.tiles.2
  let start := 8 * e.tileBytes * (k * e.tiles.1 * e.tiles.2 + t)
  let elems := (List.range (64 * e.tileRows)).filterMap fun i =>
    let r := a * e.tileRows + i / 64
    let c := b * 64 + i % 64
    if r < e.rows ∧ c < e.cols then
      some { at_ := start + i * w, pos := (if e.transpose then e.bitPos r c k else e.bitPos c r k), bits := w }
    else none
  let mt := if e.transpose then b * e.tilesAcross + a else t
  let scales := (List.range e.tileScales).filterMap fun i =>
    (e.scalePlace i).map fun p =>
      { at_ := start + 8 * (e.tileData + i), pos := 8 * (k * e.stride2 + mt * e.tileBytes + e.tileData + p), bits := 8 }
  elems ++ scales

/-- The cells of an entry in image order. -/
def Entry.cells (e : Entry) : List Cell :=
  if e.shape = 0 then
    (List.range e.total).map (fun k => { at_ := k * fmtBits e.fmt, pos := e.streamPos k, bits := fmtBits e.fmt })
  else
    let n := e.tiles.1 * e.tiles.2
    (List.range (e.ext2 * n)).flatMap (fun i => e.tileCells (i / n) (i % n))

/-- The image bytes of an entry whose value the manual leaves open. -/
def Entry.openBytes (e : Entry) : List Nat :=
  if e.shape = 1 ∧ e.transpose then
    (List.range (e.ext2 * e.tiles.1 * e.tiles.2)).flatMap
      (fun t => (List.range e.tileScales).map (fun i => t * e.tileBytes + e.tileData + i))
  else []

/-- The lines of an entry's image, and the lines that carry a mark, as its memory now reads. Open bytes are drawn from `free`. -/
def State.entryImage (s : State) (n : Nat) (e : Entry) (free : Nat) : List Byte × List Nat :=
  let z := e.cells.foldl (fun (a : Nat × List Nat) c =>
    let v := s.elemAt n e.base c.pos c.bits
    (a.1 + v.1 * 2 ^ c.at_, if v.2 then sinsert (sinsert a.2 (c.at_ / 512)) ((c.at_ + c.bits - 1) / 512) else a.2)) (0, [])
  let v := ((List.range e.openBytes.length).zip e.openBytes).foldl
    (fun a x => a + free / 2 ^ (8 * x.1) % 256 * 2 ^ (8 * x.2)) z.1
  (leBytes (roundUp e.imageBytes 64) v, z.2)

/-! ## List streams (R210, R275) -/

/-- How a list entry was begun: ready to move, or passed over with the lines it takes. -/
inductive ListStart where
  | ready (bs : List Byte) (e : Entry)
  | pass (lines : Nat)
  | gone
  deriving DecidableEq, Repr

/-- A bad entry of a list stream (R210): logged with the entry's virtual address (R560). -/
def State.listBad (s : State) (o : AgOp) (va lines : Nat) : State × ListStart :=
  (s.castFault o.first o.rank 0x4403 .badCommand (BitVec.ofNat 64 va), .pass lines)

/-- An access error of a list stream at an entry (R97, R525, R8, R88). -/
def State.listError (s : State) (o : AgOp) (va : Nat) (e : AccErr) (lines : Nat) : State × ListStart :=
  match e with
  | .xlate a r l w => (s.castXlate o.first o.rank a r l w, .pass lines)
  | .poison => (s.castPoisoned o.first, .gone)
  | .bad => s.listBad o va lines
  | .absent => (s.runFault o.first .absent 0 o.rank, .pass lines)

/-- An access of a memory unit's generators to a range of their job (R99, R101): look-ups in its micro-TLB, which count their misses
(R230), and heat. -/
def State.muAccess (s : State) (o : AgOp) (va len : Nat) (wr : Bool) : State :=
  let r := s.lookUps o.n (o.n / 512) o.run.job va len
  (r.1.countWrap F.MU_TLB_MISSES_COUNT (s.unitWindow o.n) 0 r.2).touchRange o.run.job va len wr

/-- The next entry of a list stream read and checked (R106, R210). -/
def State.listEntry (s : State) (o : AgOp) (wr : Bool) : State × ListStart :=
  let g := s.ag o
  match o.run.binds.find? (fun b => b.index == bitsOf o.w 6 8) with
  | none => s.listBad o (bitsOf (wordAt o.ws (g.pc + 1)) 0 48 + 32 * g.done) 0
  | some b =>
    let va := b.base + bitsOf (wordAt o.ws (g.pc + 1)) 0 48 + 32 * g.done
    let s := s.muAccess o va 32 false
    match s.readVirt o.run.job va 32 with
    | .error e => s.listError o va e 0
    | .ok (_, true) => (s.castPoisoned o.first, .gone)
    | .ok (bs, false) =>
      let e := Entry.ofBytes bs
      if e.bad then s.listBad o va 0
      else match s.entryError o.run.job e wr with
        | some x => s.listError o va x (ceilDiv e.imageBytes 64)
        | none => (s, .ready bs e)

/-- The entry in progress, as it was read when it began (R210). -/
def State.listCurrent (s : State) (o : AgOp) : Option Entry :=
  let bs := (s.ag o).entry
  if bs.isEmpty then none else some (Entry.ofBytes bs)

/-- The stream passes to its next entry, or its generator to the next instruction. -/
def State.listNext (s : State) (o : AgOp) (lines : Nat) : State :=
  let g := s.ag o
  s.setAgGo o (if g.done + 1 = bitsOf o.w 14 9 then g.next o.w
    else { g with done := g.done + 1, line := g.line + lines, phase := 0 })

/-- The issuer of a generator's requests. -/
def AgOp.issuer (o : AgOp) : Issuer := .gen o.n o.a

/-- A request that the source refused (R470): the cast stops with its status. -/
def State.listRefused (s : State) (o : AgOp) (st : Status) : State :=
  match mget s.fabric.runs o.first with
  | some x => (s.forgetRequests o.issuer).stopCast o.first x st 0
  | none => s

/-- An entry of a list stream begun: read, checked, and for a fetch its distant bytes requested. -/
def State.listBegin (s : State) (o : AgOp) (wr : Bool) : State :=
  match s.listEntry o wr with
  | (s, .gone) => s
  | (s, .pass lines) => s.listNext o lines
  | (s, .ready bs e) =>
    let ps := s.entryPieces o.run.job e wr
    let s := e.stretches.foldl (fun s y => s.muAccess o y.1 y.2 wr) s
    let s := s.setAgGo o { s.ag o with phase := 1, entry := bs }
    if wr then (State.requestAll (fun s p => s.requestEdge o.issuer o.run.job p) s ps).1
    else
      let z := State.requestAll (fun s p => s.requestRead o.issuer o.run.job p) (s.countPieces false ps) ps
      match z.2 with
      | some st => z.1.listRefused o st
      | none => z.1

/-- Whole lines written to the unit from an MU-local offset, under the footprint rule (R110). -/
def State.fillLines (s : State) (o : AgOp) (a : Nat) (bs : List Byte) (marks : List Nat) (from_ : Nat) : State :=
  (List.range (bs.length / 64)).foldl (fun s i =>
    let at_ := a + 64 * i
    if inFootprint (s.agHeader o) (at_ : Nat) then
      s.putLine (0x100000 * o.n + at_) 512 (leNat (slice bs (64 * i) 64)) (marks.contains (from_ + i))
    else s.footprintFault o (at_ : Nat)) s

/-- The next part of a fetched entry written: all of it, or one ring slot (R275). -/
def State.fetchPart (s : State) (o : AgOp) (e : Entry) : State :=
  let g := s.ag o
  let z := s.entryImage o.run.job e s.free
  match muRingOf o.w with
  | none =>
    let s := s.fillLines o (64 * (bitsOf o.w 23 14 + g.line)) z.1 z.2 0
    s.drawn.listNext o (ceilDiv e.imageBytes 64)
  | some r =>
    let y := s.agRing o r
    if y.1.slots ≤ y.2.fill y.1.twoCons then s.agWait o 3
    else
      let n := 64 * y.1.lines
      let j := g.phase - 1
      let s := s.fillLines o (y.1.slotAt y.2.tail) (slice z.1 (n * j) n) z.2 (y.1.lines * j)
      let s := s.drawn.setRing o.n r { y.2 with tail := (y.2.tail + 1) % 65536 }
      if n * (j + 1) < e.imageBytes then s.setAgGo o { s.ag o with phase := g.phase + 1 } else s.listNext o 0

/-- `LIST_FETCH` (R210): an entry begins, or goes on once its bytes are there. -/
def State.listFetch (s : State) (o : AgOp) : State :=
  let s := if (s.ag o).phase = 0 then s.listBegin o false else s
  if (s.stepOn (o.n / 32)).isNone || (s.ag o).phase == 0 then s
  else if !(s.outstanding o.issuer).isEmpty then s.agWait o 6
  else match s.listCurrent o with
    | some e => s.fetchPart o e
    | none => s.listNext o 0

/-- Lines read from the unit under the footprint rule, with the marked ones. -/
def State.drainLines (s : State) (o : AgOp) (a n : Nat) : State × List Byte × List Nat :=
  (List.range n).foldl (fun (z : State × List Byte × List Nat) i =>
    let at_ := a + 64 * i
    if inFootprint (z.1.agHeader o) (at_ : Nat) then
      let l := z.1.takeLine (0x100000 * o.n + at_)
      (l.1, z.2.1 ++ leBytes 64 l.2.1, if l.2.2 then z.2.2 ++ [i] else z.2.2)
    else (z.1.footprintFault o (at_ : Nat), z.2.1 ++ List.replicate 64 0#8, z.2.2)) (s, [], [])

/-- The cells of an entry, and the parts of cells, that lie in a stretch of its image written from the stretch's bytes; marked elements mark
what they reach. -/
def State.scatter (s : State) (n : Nat) (e : Entry) (from_ : Nat) (bs : List Byte) (marks : List Nat) : State :=
  let v := leNat bs
  let cs := e.cells.filterMap (fun c => c.clip (8 * from_) (8 * (from_ + bs.length)))
  let s := cs.foldl (fun s c => s.pokeElem n e.base c.pos c.bits (v / 2 ^ (c.at_ - 8 * from_))) s
  let hit := (cs.filter (fun c => marks.contains ((c.at_ - 8 * from_) / 512))).map (fun c => e.base + c.pos / 8)
  if from_ = 0 then e.stretches.foldl (fun s y => s.markStretch n y.1 y.2 hit) s
  else hit.foldl (fun s va => s.markStretch n va 1 [va]) s

/-- A stored entry whose bytes are all placed: what is distant is sent; a write to a poisoned leaf completes the run `POISONED`
(R98). -/
def State.storeSend (s : State) (o : AgOp) (e : Entry) : State :=
  let ps := s.entryPieces o.run.job e true
  let s := if ps.any (fun p => p.leafPoison) then s.runFault o.first .poisoned 0 o.rank else s
  let s := (s.countPieces true ps).setAgGo o { s.ag o with phase := 0x10000 }
  let z := State.requestAll (fun s p => s.requestWrite o.issuer o.run.job p) s (tilePieces e ps)
  match z.2 with
  | some st => z.1.listRefused o st
  | none => if (z.1.outstanding o.issuer).isEmpty then z.1.listNext o (ceilDiv e.imageBytes 64) else z.1

/-- The next part of a stored entry read from the unit: all of it, or one ring slot. -/
def State.storePart (s : State) (o : AgOp) (e : Entry) : State :=
  let g := s.ag o
  match muRingOf o.w with
  | none =>
    let z := s.drainLines o (64 * (bitsOf o.w 23 14 + g.line)) (ceilDiv e.imageBytes 64)
    (z.1.scatter o.run.job e 0 (z.2.1.take e.imageBytes) z.2.2).storeSend o e
  | some r =>
    let y := s.agRing o r
    let c := bitsOf o.w 40 1
    if ringLag y.2.tail (y.2.cons c) = 0 then s.agWait o 4
    else
      let n := 64 * y.1.lines
      let j := g.phase - 1
      let z := s.drainLines o (y.1.slotAt (y.2.cons c)) y.1.lines
      let s := z.1.scatter o.run.job e (n * j) (z.2.1.take (e.imageBytes - n * j)) z.2.2
      let s := s.setRing o.n r ((s.agRing o r).2.release c)
      if n * (j + 1) < e.imageBytes then s.setAgGo o { s.ag o with phase := g.phase + 1 } else s.storeSend o e

/-- `LIST_STORE` (R210). -/
def State.listStore (s : State) (o : AgOp) : State :=
  let s := if (s.ag o).phase = 0 then s.listBegin o true else s
  if (s.stepOn (o.n / 32)).isNone || (s.ag o).phase == 0 then s
  else if !(s.outstanding o.issuer).isEmpty then s.agWait o 6
  else match s.listCurrent o with
    | some e => if (s.ag o).phase = 0x10000 then s.listNext o (ceilDiv e.imageBytes 64) else s.storePart o e
    | none => s.listNext o 0

/-! ## SYNC, END and the scrub (R276, R202) -/

/-- `SYNC`: goes on once the named generator has completed its count of instructions. -/
def State.muSync (s : State) (o : AgOp) : State :=
  if bitsOf o.w 6 12 ≤ (nth (s.mu o.n).ags (bitsOf o.w 4 2) .fresh).completed then s.setAgGo o ((s.ag o).next o.w) else s

/-- `END`: the generator has finished for the step. -/
def State.muEnd (s : State) (o : AgOp) : State :=
  let g := s.ag o
  s.setAgGo o { g with finished := true, completed := g.completed + 1 }

/-- `AFF_READ` (R208). -/
def execAffRead (mu : UnitId) (a : Fin 4) (s : State) : Host.Outcome State Fault Refusal :=
  .next (s.agIssue mu.val a.val 1 State.affRead)

/-- `AFF_WRITE` (R209). -/
def execAffWrite (mu : UnitId) (a : Fin 4) (s : State) : Host.Outcome State Fault Refusal :=
  .next (s.agIssue mu.val a.val 2 (fun s o => s.affWrite o false))

/-- `AFF_ADD` (R219). -/
def execAffAdd (mu : UnitId) (a : Fin 4) (s : State) : Host.Outcome State Fault Refusal :=
  .next (s.agIssue mu.val a.val 3 (fun s o => s.affWrite o true))

/-- `LIST_FETCH` (R210). -/
def execListFetch (mu : UnitId) (a : Fin 4) (s : State) : Host.Outcome State Fault Refusal :=
  .next (s.agIssue mu.val a.val 4 State.listFetch)

/-- `LIST_STORE` (R210). -/
def execListStore (mu : UnitId) (a : Fin 4) (s : State) : Host.Outcome State Fault Refusal :=
  .next (s.agIssue mu.val a.val 5 State.listStore)

/-- `SYNC` (R276). -/
def execMuSync (mu : UnitId) (a : Fin 4) (s : State) : Host.Outcome State Fault Refusal :=
  .next (s.agIssue mu.val a.val 6 State.muSync)

/-- `AG_END` (R276). -/
def execAgEnd (mu : UnitId) (a : Fin 4) (s : State) : Host.Outcome State Fault Refusal :=
  .next (s.agIssue mu.val a.val 0 State.muEnd)

/-- `PATROL_SCRUB` (R202, R201, R231): the scrub reads a line, which is clean (0), held a corrected error (1) or holds an
uncorrectable word (2): that line delivers poison from then on, as does a corrected one whose fault is escalated (R527). -/
def execPatrolScrub (mu : UnitId) (line : Nat) (outcome : Fin 3) (s : State) : Host.Outcome State Fault Refusal :=
  .next (if !s.hasUnit mu.val then s
    else
      let k := line % 16384
      let w := s.unitWindow mu.val
      let a := 0x100000 * mu.val + 64 * k
      let s := s.countLines false a 64
      let site := s.unitSite true mu.val
      let s := if outcome.val = 0 then s
        else
          let s := s.count (if outcome.val = 1 then F.MU_ECC_CORRECTED else F.MU_ECC_UNCORRECTED) w
          let s := (s.setF F.MU_ECC_LAST_BANK (k % 8) w).setF F.MU_ECC_LAST_LINE k w
          let lost := decide (outcome.val = 2) || s.escalates .site site
          let s := if lost then { s with memory := { s.memory with poison := sinsert s.memory.poison (a / 64) } } else s
          s.fault (if outcome.val = 1 then 0x1101 else 0x2102) .site site 0xFF none (BitVec.ofNat 64 (s.globalOf a))
      if k = 16383 then s.count F.MU_ECC_SCRUB_PASSES w else s)

end Sys2Proof.Machine
end

