-- ==== Sys2Proof/Machine/Casts.lean ====
section
/-! DEFINITION. Casts: staging through the hot set, switching, running and evicting (R110 to R119, R279), and the zeroing of a
Dale that moved to another job. -/

namespace Sys2Proof.Machine

/-! ## Slots -/

/-- The Dales of a part that operands name: a number of 32 or more names none, and check 3 of R113 decides on it. -/
def Rec.castDales (r : Rec) : List Nat := r.dales.filter (fun d => decide (d < 32))

/-- Step 2 of R47 for a command that names Dales (R6, R531). -/
def dalesPresent (s : State) (r : Rec) : Bool := r.castDales.all s.hasDale

/-- The commits that hold a command that names Dales (R68). -/
def dalesTouch (s : State) (_q : Nat) (r : Rec) (t : Tx) : Bool := r.castDales.any (fun d => s.txTouchesDale t d)

/-- The casts that some slot, staging or run refers to. -/
def State.castsInUse (s : State) : List Nat :=
  (s.casts.active.filterMap (fun x => if x.2.state = .empty then none else some x.2.cast)) ++
  (s.casts.standby.filterMap (fun x => if x.2.state = .empty then none else some x.2.cast)) ++
  s.casts.staging.map (fun x => x.cast) ++ s.fabric.runs.map (fun x => x.2.cast) ++ s.fabric.paused.map (fun x => x.cast)

/-- Casts that nothing refers to any more forgotten. -/
def State.dropCasts (s : State) : State :=
  let used := s.castsInUse
  { s with
    casts := { s.casts with refs := s.casts.refs.filter (fun x => used.contains x.1) }
    fabric := { s.fabric with started := s.fabric.started.filter (fun x => used.contains x.1)
                              beyond := s.fabric.beyond.filter used.contains } }

/-- The standby slots of a list of Dales set. -/
def State.setStandby (s : State) (ds : List Nat) (x : DaleSlot) : State :=
  { s with casts := { s.casts with standby := ds.foldl (fun m d => mset m d x) s.casts.standby } }

/-- The active slots of a list of Dales set. -/
def State.setActive (s : State) (ds : List Nat) (x : DaleSlot) : State :=
  { s with casts := { s.casts with active := ds.foldl (fun m d => mset m d x) s.casts.active } }

/-- The staging whose standby slots hold Dale `d`. -/
def State.stagingOn (s : State) (d : Nat) : Option Staging :=
  s.casts.staging.find? (fun x => (s.castRef x.cast).dales.contains d)

/-- `FAB_SADDLE_STAT.DEPTH` follows the active Saddle-spanning cast; the counters clear when one becomes active (R165). -/
def State.refreshSaddle (s : State) (became : Bool) : State :=
  let c := s.casts.active.findSome? fun x =>
    let c := s.castRef x.2.cast
    if x.2.state ≠ .empty ∧ c.first < 16 ∧ 16 < c.first + c.count then some c else none
  let s := if became then ((s.setF F.FAB_SADDLE_STAT_HOLD_EVENTS 0).setF F.FAB_SADDLE_STAT_MAX_LEAD 0).setF F.FAB_SADDLE_STAT_LEAD_EAST 0
    else s
  s.setF F.FAB_SADDLE_STAT_DEPTH ((c.map (fun c => saddleDepth c.header)).getD 0)

/-- A Dale's active slot emptied. The steps, boxes and channels of its former cast hold nothing between runs. -/
def State.evictActive (s : State) (ds : List Nat) : State :=
  ((s.setActive ds .empty).dropCasts).refreshSaddle false

/-! ## The hot set (R117, R118) -/

/-- Frames that an image takes in the hot set. -/
def imageFrames (len : Nat) : Nat := ceilDiv len frameBytes

/-- Frames in use. -/
def State.hotFrames (s : State) : Nat := s.casts.hot.foldl (fun a x => a + x.2.frames.length) 0

/-- `TR_CCACHE_STAT` after a change of the hot set (R127). -/
def State.refreshHot (s : State) : State :=
  let s := s.setF F.TR_CCACHE_STAT_ENTRIES s.casts.hot.length
  let s := s.setF F.TR_CCACHE_STAT_PINNED (s.casts.hot.filter (fun x => !x.2.pins.isEmpty)).length
  s.setF F.TR_CCACHE_STAT_USED_FRAMES s.hotFrames

/-- The hot set replaced. -/
def State.setHot (s : State) (h : SMap HotImage) : State := { s with casts := { s.casts with hot := h } }.refreshHot

/-- The entry that matches an identity (R117). An entry whose image is still being copied in matches nothing. -/
def State.hotFind (s : State) (id : W64) (digest : List Byte) : Option Nat :=
  (s.casts.hot.find? (fun x => x.2.castId == id && x.2.digest == digest && x.2.whole)).map (fun x => x.1)

/-- Whether an entry may be evicted: no job pins it, its image is whole, and no stage in progress reads it. DESIGN CHOICE: an entry that a
stage in progress reads on a hit is kept, and counts as not evictable; the manual does not say. -/
def State.hotLoose (s : State) (e : Nat) (x : HotImage) : Bool :=
  x.pins.isEmpty && x.whole && !s.casts.staging.any (fun y => y.hit && (s.castRef y.cast).entry == e)

/-- Whether the hot set can make room for an image of so many frames (R113, R117). -/
def State.hotRoom (s : State) (frames : Nat) : Bool :=
  let keep := s.casts.hot.filter (fun x => !s.hotLoose x.1 x.2)
  decide (keep.length < 256) && decide (keep.foldl (fun a x => a + x.2.frames.length) 0 + frames ≤ s.f F.TR_CCACHE_CFG_FRAMES)

/-- An entry evicted; casts that were loaded from it are uncached from then on. -/
def State.hotEvict (s : State) (e : Nat) : State :=
  let s := s.setHot (merase s.casts.hot e)
  { s with casts := { s.casts with refs := s.casts.refs.map (fun x => if x.2.entry = e then (x.1, { x.2 with entry := 511 }) else x) } }

/-- The least recently used entry that may be evicted. -/
def State.hotOldest (s : State) : Option Nat :=
  ((s.casts.hot.filter (fun x => s.hotLoose x.1 x.2)).foldl (fun (b : Option (Nat × Nat)) x => match b with
    | none => some (x.1, x.2.lastUse)
    | some y => if x.2.lastUse < y.2 then some (x.1, x.2.lastUse) else b) none).map (fun y => y.1)

/-- Least recently used entries evicted until an image fits; `fuel` bounds their number. -/
def State.hotMakeRoom : Nat → State → Nat → State
  | 0, s, _ => s
  | fuel + 1, s, frames =>
    if s.casts.hot.length < 256 ∧ s.hotFrames + frames ≤ s.f F.TR_CCACHE_CFG_FRAMES then s
    else match s.hotOldest with
      | none => s
      | some e => hotMakeRoom fuel (s.hotEvict e) frames

/-- The frames of the hot set that no image takes (R117). -/
def State.hotFreeFrames (s : State) : List Nat :=
  ((List.range (s.f F.TR_CCACHE_CFG_FRAMES)).map (s.f F.TR_CCACHE_CFG_FIRST + ·)).filter
    (fun f => !s.casts.hot.any (fun x => x.2.frames.contains f))

/-- The frames that a new image of so many frames takes: free ones in order from a free value on. The manual does not say which. -/
def State.hotPlace (s : State) (frames : Nat) : List Nat :=
  let l := s.hotFreeFrames
  let k := s.free % (l.length + 1)
  (l.drop k ++ l.take k).take frames

/-- The Basin offset of byte `i` of an image in the hot set. -/
def HotImage.addr (x : HotImage) (i : Nat) : Nat := frameAddr (nth x.frames (i / frameBytes) 0) + i % frameBytes

/-- The bytes of an image in the hot set, as its frames hold them. -/
def State.hotBytes (s : State) (x : HotImage) : List Byte := (List.range x.len).map (fun i => s.byte (x.addr i))

/-- The 64-byte units of an image in the hot set that carry a poison mark. -/
def State.hotMarks (s : State) (x : HotImage) : List Nat :=
  (List.range (ceilDiv x.len 64)).filter (fun u => s.poisoned (x.addr (64 * u)) 64)

/-- An image written into its frames with its marks. -/
def State.hotWrite (s : State) (x : HotImage) (img : List Byte) (marks : List Nat) : State :=
  (List.range (ceilDiv img.length 64)).foldl (fun s u => s.store (x.addr (64 * u)) (img.drop (64 * u) |>.take 64) (marks.contains u)) s

/-- The number that a new entry takes: the first unused one from a free value on. The manual does not say which it is. -/
def State.hotNumber (s : State) : Nat :=
  let k := s.free % 256
  (((List.range 256).map (fun i => (k + i) % 256)).find? (fun e => (mget s.casts.hot e).isNone)).getD k

/-- A use of an entry. -/
def State.hotUse (s : State) (e : Nat) (pin : Option Nat) : State :=
  let h := match mget s.casts.hot e with
    | none => s.casts.hot
    | some x => mset s.casts.hot e { x with
        lastUse := s.casts.useCtr + 1
        pins := match pin with
          | some n => sinsert x.pins n
          | none => x.pins }
  let s := s.setHot h
  { s with casts := { s.casts with useCtr := s.casts.useCtr + 1 } }

/-! ## CAST_STAGE (R113) -/

/-- Whether an image takes its pin: `OP1[16]`. -/
def stagePin (r : Rec) : Bool := bitOf r.w4 16

/-- The encoding of `CAST_STAGE` (R49). -/
def stageEncoding (_s : State) (_n : Nat) (r : Rec) : Option W64 :=
  if r.daleCount = 0 ∨ 32 < r.daleCount then some (badField 4 8) else reservedField [(4, 17, 47), (6, 0, 64)] r

/-- The header of an image as the job reads it (R107): its 256 bytes, whatever `OP2` says. -/
def State.stageHeader (s : State) (n : Nat) (r : Rec) : Except AccErr (List W64) :=
  match s.readVirt n r.w3.toNat 256 with
  | .error e => .error e
  | .ok (bs, _) => .ok (leWords 32 bs)

/-- Check 2 of R113 and R7: a unit that the header requires is absent, or it has more Dales than are present. -/
def State.stageAbsent (s : State) (h : List W64) : Bool :=
  ((hdrReqUnits h).testBit 0 && !s.part.hasMeander) || ((hdrReqUnits h).testBit 1 && !s.part.hasWatershed) ||
  (decide (hdrCount h ≤ 32) && decide (((List.range 32).filter s.part.hasDale).length < hdrCount h))

/-- The Dale and its holder that make a stage conflict (check 4 of R113). -/
def State.stageConflict (s : State) (r : Rec) : Option (Nat × Nat) :=
  (r.castDales.find? (fun d => (s.standbySlot d).state == .loading ||
    s.txs.any (fun t => t.casts.any (fun c => !c.evict && decide (c.first ≤ d) && decide (d < c.first + c.count))))).map
    (fun d => (d, (s.daleOwner d).getD 0xFF))

/-- Whether check 5 of R113 fails: a pin with no room, or that the job's quota cannot bear. -/
def State.stageNoSpace (s : State) (n : Nat) (r : Rec) (h : List W64) : Bool :=
  stagePin r &&
    let hit := s.hotFind (hdrCastId h) (hdrDigest h)
    let mine := hit.any (fun e => ((mget s.casts.hot e).map (fun x => x.pins.contains n)).getD false)
    let frames := imageFrames r.w5.toNat
    (hit.isNone && !s.hotRoom frames) || (!mine && !s.quotaBears n frames)

/-- The first check of R113 that fails: its status, `RESULT` and `DETAIL`. -/
def State.stageCheck (s : State) (n : Nat) (r : Rec) (h : List W64) : Option (Status × W64 × W64) :=
  let bad := fun (w k : Nat) (d : W64) =>
    let f : CheckFail := { check := k, rel := 0, sect := 0, index := 0, word := w }
    some (Status.badCommand, f.result, d)
  if wordAt h 0 ≠ castMagic then bad 0 0x02 (badField 3 0)
  else if wordField h 1 0 16 ≠ 1 then bad 1 0x02 (badField 3 0)
  else if s.stageAbsent h then some (.absent, 0, 0)
  else match headerFault h r.firstDale r.daleCount r.w5.toNat with
    | some (w, k, d) => bad w k d
    | none => match s.stageConflict r with
      | some (d, j) => some (.conflict, 0, conflictDetail 5 d j)
      | none => if s.stageNoSpace n r h then some (.noSpace, 0, 0) else none

/-- A miss cached in flight where the hot set can make room (R117): the entry it takes. -/
def State.hotStart (s : State) (n : Nat) (r : Rec) (h : List W64) : State × Nat :=
  let frames := imageFrames r.w5.toNat
  if !s.hotRoom frames then (s, 511)
  else
    let s := State.hotMakeRoom 257 s frames
    let e := s.hotNumber
    let x : HotImage := { castId := hdrCastId h, digest := hdrDigest h, len := r.w5.toNat, whole := false
                          frames := s.drawn.hotPlace frames, pins := if stagePin r then [n] else [], lastUse := s.casts.useCtr }
    (((s.drawn.drawn).setHot (mset s.casts.hot e x)).hotUse e none, e)

/-- Staging begins (R113, R117): the look-up is counted, the standby slots go to `LOADING`, and the image is read. -/
def State.beginStage (s : State) (q seq : Nat) (r : Rec) (h : List W64) : State :=
  let n := s.queueJob q
  let hit := s.hotFind (hdrCastId h) (hdrDigest h)
  let s := if hit.isSome then s.count F.TR_CCACHE_HITS_HITS else s.count F.TR_CCACHE_HITS_MISSES
  let z := match hit with
    | some e => (s.hotUse e (if stagePin r then some n else none), e)
    | none => s.hotStart n r h
  let s := z.1
  let k := s.casts.nextRef
  let c : CastRef := { CastRef.blank with header := h, first := r.firstDale, count := r.daleCount, entry := z.2, job := n
                                          addr := r.w3.toNat, len := r.w5.toNat }
  let y : Staging := { q := q, seq := seq, cast := k, hit := hit.isSome }
  let s := { s with casts := { s.casts with
      refs := mset s.casts.refs k c, nextRef := k + 1, staging := s.casts.staging ++ [y] } }
  s.setStandby r.castDales { state := .loading, cast := k }

/-- A stage ends without a cast: its standby slots are `EMPTY`, and what was copied into the hot set is discarded (R113, R115,
R279). -/
def State.stageDrop (s : State) (x : Staging) : State :=
  let c := s.castRef x.cast
  let s := s.setStandby (c.dales.filter (fun d => (s.standbySlot d).cast == x.cast && (s.standbySlot d).state == .loading)) .empty
  let s := if !x.hit && c.entry != 511 then s.hotEvict c.entry else s
  let s := { s with casts := { s.casts with staging := s.casts.staging.filter (fun y => y != x) } }
  s.dropCasts

/-- A stage fails: it is dropped and its record completes. -/
def State.stageFail (s : State) (x : Staging) (st : Status) (result detail : W64) : State :=
  (s.stageDrop x).endFlight x.q x.seq st result detail

/-- The reads that a stage needs of an image that is not local, or the error that stops it. -/
def State.stageReads (s : State) (q seq n va len : Nat) : Except AccErr (State × Option Status) :=
  match s.range n va len false with
  | .error e => .error e
  | .ok ps => .ok (State.requestAll (fun s p => s.requestRead (moverIssuer q seq) n p) (s.moverAccess q n va len false) ps)

/-- The checks of R113 are made once the header is there; then the rest of a missed image is read. -/
def State.stageStep (s : State) (q seq : Nat) : State :=
  match s.flight q seq with
  | none => s
  | some x =>
    let n := s.queueJob q
    if x.phase ≠ 0 ∨ !(s.outstanding (moverIssuer q seq)).isEmpty then s
    else match s.stageHeader n x.cmd with
      | .error e => s.failFlight q seq e 3
      | .ok h => match s.stageCheck n x.cmd h with
        | some (st, res, d) => s.endFlight q seq st res d
        | none =>
          let s := (s.setFlight q { x with phase := 1 }).beginStage q seq x.cmd h
          match s.casts.staging.find? (fun y => y.q == q && y.seq == seq) with
          | none => s
          | some y =>
            match s.range n x.cmd.w3.toNat x.cmd.w5.toNat false with
            | .error e =>
              let d := s.accDetail e 3
              (s.accFault n e (some (q, seq))).stageFail y e.status 0 d
            | .ok ps =>
              if y.hit then s
              else
                let s := s.moverAccess q n x.cmd.w3.toNat x.cmd.w5.toNat false
                let z := State.requestAll (fun s p => s.requestRead (moverIssuer q seq) n p) s ps
                match z.2 with
                | some st => z.1.stageFail y st 0 0
                | none => z.1

/-- `CAST_STAGE` starts (R113): the header is read first. -/
def State.runStage (s : State) (q seq : Nat) (r : Rec) : State :=
  match s.stageReads q seq (s.queueJob q) r.w3.toNat 256 with
  | .error e => s.failFlight q seq e 3
  | .ok (s, some st) => s.endFlight q seq st 0 0
  | .ok (s, none) => s.stageStep q seq

/-- Whether a job owns every Dale that a record names. -/
def dalesOwned (s : State) (q : Nat) (r : Rec) : Bool := r.castDales.all (fun d => s.ownsDale (s.queueJob q) d)

/-- `CAST_STAGE` (R49, R113). -/
def specCastStage : CmdSpec :=
  { CmdSpec.plain [] State.runStage with
    present := dalesPresent, encoding := stageEncoding, owns := dalesOwned, touches := dalesTouch, engine := 1 }

/-- `CAST_STAGE` (R113). -/
def execCastStage (q : QId) (s : State) : Host.Outcome State Fault Refusal :=
  .next (s.queueCommand specCastStage (fun r => r.opcode == 0x08) q.val)

/-- The image of a stage, with the 64-byte units of it that carry a mark: from the hot set, or through the job's translation. -/
def State.imageOf (s : State) (c : CastRef) (hit : Bool) : Except AccErr (List Byte × List Nat) :=
  match hit, mget s.casts.hot c.entry with
  | true, some x => .ok (s.hotBytes x, s.hotMarks x)
  | _, _ =>
    match s.readVirt c.job c.addr c.len with
    | .error e => .error e
    | .ok (bs, false) => .ok (bs, [])
    | .ok (bs, true) => .ok (bs, (List.range (ceilDiv c.len 64)).filter (fun u =>
        match s.readVirt c.job (c.addr + 64 * u) (min 64 (c.len - 64 * u)) with
        | .ok (_, m) => m
        | .error _ => false))

/-- Whether a channel table of an image carries a mark (R525). -/
def chanMarked (img : List Byte) (count : Nat) (marks : List Nat) : Bool :=
  (List.range count).any fun r =>
    let p := dirPair img r 3
    (unitsOf p.1 p.2).any (fun u => marks.contains u)

/-- Whether the footprints of two casts overlap (R110). -/
def footprintsMeet (a b : List W64) : Bool :=
  decide (hdrFootFrom a < hdrFootTo b) && decide (hdrFootFrom b < hdrFootTo a)

/-- Whether the footprint of a cast overlaps an active one on some Dale it names (R113). -/
def State.overlapsActive (s : State) (c : CastRef) : Bool :=
  c.dales.any (fun d => (s.activeSlot d).state != .empty && footprintsMeet c.header (s.castRef (s.activeSlot d).cast).header)

/-- The Terrace offset of memory unit `n` (R89). -/
def terraceOf (n : Nat) : Nat := 0x100000 * n

/-- The preload of a cast written (R110): footprint bytes that no record names become zero. -/
def State.writePreload (s : State) (c : CastRef) (img : List Byte) (marks : List Nat) : State :=
  let lo := hdrFootFrom c.header
  let len := hdrFootTo c.header - lo
  let s := c.units.foldl (fun s u => (s.zero (terraceOf u + lo) len).countLines true (terraceOf u + lo) len) s
  (List.range c.count).foldl (fun s r =>
    (preloadsOf img c.header r).1.foldl (fun s p =>
      ((List.range (p.data.length / 64)).foldl (fun s i =>
        s.store (terraceOf (32 * (c.first + r) + p.unit) + p.off + 64 * i) (slice p.data (64 * i) 64)
          ((unitsOf (p.pos + 64 * i) 64).any (fun u => marks.contains u))) s)) s) s

/-- `RESULT` of a stage that passed (R113). -/
def stageResult (entry : Nat) (hit : Bool) : W64 := setBits (BitVec.ofNat 64 entry) 9 1 (if hit then 1 else 0)

/-- A stage whose image passed: the programs are in the standby stores, the preload is written unless it overlaps, and a missed image is
whole in its frames of the hot set. DESIGN CHOICE: the preload and the copy in the hot set are written once every check has passed; what a
stage that fails them leaves of either the manual does not say. -/
def State.stageDone (s : State) (x : Staging) (c : CastRef) (img : List Byte) (marks : List Nat) (l : Loaded) : State :=
  let c := { c with progs := l.progs, tables := l.tables, chans := l.chans }
  let s := { s with casts := { s.casts with
      refs := mset s.casts.refs x.cast c, staging := s.casts.staging.filter (fun y => y != x) } }
  let s := match x.hit, mget s.casts.hot c.entry with
    | false, some h => (s.hotWrite h img marks).setHot (mset s.casts.hot c.entry { h with whole := true })
    | _, _ => s
  let late := s.overlapsActive c
  let s := if late then s else s.writePreload c img marks
  let s := s.setStandby c.dales { state := if late then .deferred else .ready, cast := x.cast }
  s.endFlight x.q x.seq .ok (stageResult c.entry x.hit) 0

/-- Whether a Saddle-spanning cast cannot be routed because a row of the Saddle is fenced (R532). -/
def State.saddleBroken (s : State) (c : CastRef) : Bool :=
  !s.fabric.fencedRows.isEmpty && decide (c.first < 16) && decide (16 < c.first + c.count)

/-- The image of a stage is there: digest and program checks decide (R113, R279, R525). -/
def State.stageImage (s : State) (x : Staging) : State :=
  let c := s.castRef x.cast
  match s.imageOf c x.hit with
  | .error e =>
    let d := s.accDetail e 3
    (s.accFault c.job e (some (x.q, x.seq))).stageFail x e.status 0 d
  | .ok (img, marks) =>
    let loaded := if x.hit then .ok (loadAll img c.count)
      else checkImage img c.header c.first c.count
    match loaded with
    | .error f => s.stageFail x .badCommand f.result (badField 3 0)
    | .ok l =>
      if chanMarked img c.count marks then
        let d := s.faultDetail 0x4407
        (s.fault 0x4407 .job c.job c.job (some (x.q, x.seq))).stageFail x .poisoned 0 d
      else if s.saddleBroken c then
        (s.drawn).stageFail x .badCommand ({ check := 0x12, rel := 0, sect := 4, index := 0, word := s.free % 32768 } : CheckFail).result
          (badField 3 0)
      else s.stageDone x c img marks l

/-- `CAST_STAGE_COMPLETE` (R113, R116, R279): the movers finish the stage whose cast begins at a Dale. -/
def execCastStageComplete (d : DaleId) (s : State) : Host.Outcome State Fault Refusal :=
  .next (match s.casts.staging.find? (fun x => (s.castRef x.cast).first == d.val) with
    | none => s
    | some x =>
      if !(s.outstanding (moverIssuer x.q x.seq)).isEmpty ||
          (s.castRef x.cast).dales.any (fun k => s.casts.zeroing.contains k) then s
      else s.stageImage x)

/-! ## CAST_SWITCH (R114) -/

/-- The standby cast that a switch of the given Dales brings in, where R114 allows it. -/
def State.switchCast (s : State) (first count : Nat) : Option Nat :=
  let k := (s.standbySlot first).cast
  let c := s.castRef k
  let inside := fun (d : CastRef) => decide (first ≤ d.first) && decide (d.first + d.count ≤ first + count)
  if count ≠ 0 ∧ c.first = first ∧ c.count = count ∧
      ((List.range count).map (first + ·)).all (fun d =>
        let y := s.standbySlot d
        let a := s.activeSlot d
        (y.state == .ready || y.state == .deferred) && y.cast == k &&
        (a.state == .empty || inside (s.castRef a.cast))) then some k
  else none

/-- Whether runs, paused ones included, are in flight on some of the Dales. -/
def State.runsOn (s : State) (first count : Nat) : Bool :=
  let meet := fun (c : CastRef) => decide (c.first < first + count) && decide (first < c.first + c.count)
  s.fabric.runs.any (fun x => meet (s.castRef x.2.cast)) || s.fabric.paused.any (fun x => meet (s.castRef x.cast))

/-- The slots of the named Dales swap at one instant (R114): each old active cast becomes the standby, `READY` where its footprint
is disjoint from the new one; the fabric state of the Dales is reset (R181, R217, R165), but `HALTED` stands until the next step
(R194, R224). -/
def State.swapSlots (s : State) (first count k : Nat) : State :=
  let c := s.castRef k
  let ds := (List.range count).map (first + ·)
  let old := ds.map (fun d => (d, s.activeSlot d))
  let s := ds.foldl (fun s d => s.setActive [d] { state := .ready, cast := k }) s
  let s := old.foldl (fun s x => s.setStandby [x.1]
    (if x.2.state = .empty then .empty
     else { state := if footprintsMeet c.header (s.castRef x.2.cast).header then .deferred else .ready, cast := x.2.cast })) s
  let inC := fun (d : Nat) => decide (first ≤ d) && decide (d < first + count)
  let f := s.fabric
  let s := { s with fabric := { f with
      started := merase f.started k, beyond := sremove f.beyond k
      boxes := f.boxes.filter (fun x => !inC (x.1 / 64)), elems := f.elems.filter (fun x => !inC (x.1 / 128))
      chans := f.chans.filter (fun x => !inC (x.1 / 4096))
      cus := f.cus.filterMap (fun (x : Nat × CuSt) => if !inC (x.1 / 32) then some x
        else if x.2.halted then some (x.1, { CuSt.fresh with halted := true }) else none)
      mus := f.mus.filterMap (fun (x : Nat × MuSt) => if !inC (x.1 / 32) then some x
        else if x.2.halted then some (x.1, { MuSt.fresh with halted := true }) else none) } }
  s.refreshSaddle (decide (first < 16) && decide (16 < first + count))

/-- The deferred preload of a cast written, from the hot set or from the image address (R114). -/
def State.latePreload (s : State) (first k : Nat) : Except AccErr State :=
  if (s.standbySlot first).state = .deferred then
    let c := s.castRef k
    match s.imageOf c (c.entry != 511) with
    | .error e => .error e
    | .ok (img, marks) => .ok (s.writePreload c img marks)
  else .ok s

/-- A switch that goes ahead: the deferred preload, then the swap; a read fault completes it `DENIED` without a swap. -/
def State.switchNow (s : State) (q seq first count : Nat) : State :=
  match s.switchCast first count with
  | none => s.endFlight q seq .badCommand 0 (badField 4 0)
  | some k =>
    match s.latePreload first k with
    | .error e => s.failFlight q seq e 3
    | .ok s => (s.swapSlots first count k).endFlight q seq .ok 0 0

/-- What a record that carries a `TX` finds (R48, R67): its open transaction, or the status that refuses it. -/
def State.txFor (s : State) (q : Nat) (r : Rec) : Except (Status × W64) Tx :=
  match s.tx r.tx with
  | none => .error (.txAborted, 0)
  | some t =>
    if t.opener ≠ .queue q then .error (.txAborted, 0)
    else if t.committing then
      .error (.conflict, conflictDetail 7 (match t.scope with
        | .partition => 0 | .job => 1 | .cast => 2 | .serve => 3) (s.queueJob q))
    else .ok t

/-- The open transaction of a record replaced. -/
def State.setTx (s : State) (t : Tx) : State := { s with txs := s.txs.map (fun u => if u.handle = t.handle then t else u) }

/-- The casts staged in a transaction applied to the slots, in order, as a later one finds them. -/
def State.applyStaged (s : State) (cs : List StagedCast) : State :=
  cs.foldl (fun s c =>
    if c.evict then
      let ds := (List.range c.count).map (c.first + ·)
      if c.active then s.evictActive ds else (s.setStandby ds .empty).dropCasts
    else match s.switchCast c.first c.count with
      | some k => s.swapSlots c.first c.count k
      | none => s) s

/-- The job whose Dales a record may name: that of its `CAST` transaction, or of its queue. -/
def State.castJob (s : State) (q : Nat) (r : Rec) : Nat :=
  match s.tx r.tx with
  | some t => if r.tx ≠ 0 ∧ t.opener = .queue q ∧ t.scope = .cast then t.job else s.queueJob q
  | none => s.queueJob q

/-- Step 6 of R47 for a command that may be staged. -/
def castOwned (s : State) (q : Nat) (r : Rec) : Bool := r.castDales.all (fun d => s.ownsDale (s.castJob q r) d)

/-- A `CAST_SWITCH` or `CAST_EVICT` staged in a transaction (R52, R67, R114): it must carry a `CAST` handle, and a switch must be
possible in the state that the transaction's earlier ones leave. -/
def State.stageCast (s : State) (q seq : Nat) (r : Rec) (evict : Bool) : State :=
  match s.txFor q r with
  | .error (st, d) => s.finishFlight q seq st 0 d
  | .ok t =>
    if t.scope ≠ .cast then s.finishFlight q seq .badCommand 0 (badField 0 16)
    else if !evict && ((s.applyStaged t.casts).switchCast r.firstDale r.daleCount).isNone then
      s.finishFlight q seq .badCommand 0 (badField 4 0)
    else
      let c : StagedCast := { first := r.firstDale, count := r.daleCount, evict := evict, active := evict && bitOf r.w4 16, seq := seq }
      (s.setTx { t with casts := t.casts ++ [c] }).finishFlight q seq .ok

/-- `CAST_SWITCH` starts (R52, R114): it is staged, or waits for the runs on its Dales; the preload of an uncached deferred cast is
read meanwhile. -/
def State.runSwitch (s : State) (q seq : Nat) (r : Rec) : State :=
  if r.tx ≠ 0 then s.stageCast q seq r false
  else match s.switchCast r.firstDale r.daleCount with
    | none => s.finishFlight q seq .badCommand 0 (badField 4 0)
    | some k =>
      let c := s.castRef k
      if (s.standbySlot r.firstDale).state = .deferred ∧ c.entry = 511 then
        match s.stageReads q seq c.job c.addr c.len with
        | .error e => s.failFlight q seq e 3
        | .ok (s, some st) => s.endFlight q seq st 0 0
        | .ok (s, none) => s
      else s

/-- The encoding of `CAST_SWITCH`. -/
def switchEncoding (_s : State) (_n : Nat) (r : Rec) : Option W64 :=
  if r.daleCount = 0 ∨ 32 < r.daleCount then some (badField 4 8)
  else if 32 < r.firstDale + r.daleCount then some (badField 4 0)
  else reservedField [(3, 0, 64), (4, 16, 48), (5, 0, 64), (6, 0, 64)] r

/-- `CAST_SWITCH` (R49, R52). -/
def specCastSwitch : CmdSpec :=
  { CmdSpec.plain [] State.runSwitch with
    present := dalesPresent, encoding := switchEncoding, takesTx := true, owns := castOwned, touches := dalesTouch }

/-- `CAST_SWITCH` (R114). -/
def execCastSwitch (q : QId) (s : State) : Host.Outcome State Fault Refusal :=
  .next (s.queueCommand specCastSwitch (fun r => r.opcode == 0x09) q.val)

/-- The `CAST_SWITCH` in flight whose Dales begin at `d`: its queue and flight. -/
def State.switchFlight (s : State) (d : Nat) : Option (Nat × Flight) :=
  s.queues.findSome? fun x =>
    (x.2.flights.find? (fun y => y.cmd.opcode == 0x09 && y.cmd.firstDale == d)).map (fun y => (x.1, y))

/-- `CAST_SWAP` (R114): the runs have drained, ring runs that use rings of the Dales among them (R331), and the deferred preload can be
written; the slots swap. -/
def execCastSwap (d : DaleId) (s : State) : Host.Outcome State Fault Refusal :=
  .next (match s.switchFlight d.val with
    | none => s
    | some (q, x) =>
      if s.runsOn d.val x.cmd.daleCount || s.ringHolds d.val x.cmd.daleCount || !(s.outstanding (moverIssuer q x.seq)).isEmpty then s
      else s.switchNow q x.seq d.val x.cmd.daleCount)

/-! ## CAST_RUN (R111, R115, R155, R218) -/

/-- The encoding of `CAST_RUN` (R49, R111). -/
def runEncoding (_s : State) (_n : Nat) (r : Rec) : Option W64 :=
  if r.daleCount = 0 ∨ 32 < r.daleCount then some (badField 4 8)
  else if 32 < r.firstDale + r.daleCount then some (badField 4 0)
  else if bitsOf r.w5 0 32 = 0 then some (badField 5 0)
  else if r.w6.toNat % 64 ≠ 0 then some (badField 6 0)
  else reservedField [(3, 0, 64), (4, 16, 48), (5, 32, 32)] r

/-- The cast that a run of the given Dales runs (R115). -/
def State.runCast (s : State) (first count : Nat) : Option Nat :=
  let k := (s.activeSlot first).cast
  let c := s.castRef k
  if count ≠ 0 ∧ c.first = first ∧ c.count = count ∧
      ((List.range count).map (first + ·)).all (fun d => (s.activeSlot d).state != .empty && (s.activeSlot d).cast == k) then some k
  else none

/-- The bindings of an argument block, or none where it is malformed (R111). -/
def bindingsOf (n : Nat) (bs : List Byte) : Option (List Binding) :=
  let w := leWords 2 bs
  let es := (List.range n).map (fun i => leWords 2 (bs.drop (16 + 16 * i)))
  let ds := es.map (fun e => ({ index := wordField e 0 0 16, write := bitOf (wordAt e 0) 16, base := (wordAt e 1).toNat } : Binding))
  if wordAt w 0 ≠ BitVec.ofNat 64 n ∨ wordAt w 1 ≠ 0 then none
  else if es.any (fun e => wordField e 0 17 47 != 0) then none
  else if (List.range n).any (fun i => (ds.filter (fun d => d.index == i)).length != 1) then none
  else some ds

/-- Whether a job owns every ring that a cast declares (R218). -/
def State.ownsRings (s : State) (n : Nat) (c : CastRef) : Bool :=
  c.units.all fun u =>
    let ws := mgetD c.progs (1024 + (u - 32 * c.first)) []
    (List.range 4).all fun r =>
      ws.isEmpty || !(RingDecl.ofWord (muRing ws r)).valid ||
      (s.fb F.MU_RING_OWN_OWNED (s.unitWindow u) r && s.f F.MU_RING_OWN_OWNER_JOB (s.unitWindow u) r == n)

/-- Whether every spill channel of a cast has a binding with write permission (R155). -/
def spillsWritable (c : CastRef) (bs : List Binding) : Bool :=
  c.chans.all fun x =>
    let d := Chan.ofWords x.2
    !d.spill || bs.any (fun b => b.index == d.spillBind && b.write)

/-- A run of a cast checked and made ready (R111, R115, R155, R218): its bindings, or the error, status and `DETAIL` that end it. -/
def State.prepareRun (s : State) (n : Nat) (c : CastRef) (args : Nat) : Except (AccErr ⊕ (Status × W64)) (List Binding) :=
  match s.readVirt n args (16 + 16 * hdrArgs c.header) with
  | .error e => .error (.inl e)
  | .ok (bs, mark) =>
    if mark then .error (.inl .poison)
    else match bindingsOf (hdrArgs c.header) bs with
      | none => .error (.inr (.badCommand, badField 6 0))
      | some ds =>
        if !spillsWritable c ds || !s.ownsRings n c then .error (.inr (.denied, 0)) else .ok ds

/-- A run begins with its first step. -/
def State.startRun (s : State) (owner : RunOwner) (n k total : Nat) (ds : List Binding) : State :=
  let c := s.castRef k
  (s.slotsRun c).beginStep c.first
    { owner := owner, job := n, cast := k, binds := ds, total := total, done := 0, stepping := false, start := s.now, ticks := 0
      fault := none, residue := 0 }

/-- Whether new runs on some Dales are held: a run is in flight or paused there, a `CAST_SWITCH` waits (R114), or a Dale recovers
(R530). `lc` is for a run that a paused run yields to (R65). -/
def State.runHeld (s : State) (first count : Nat) (lc : Bool) : Bool :=
  let meet := fun (f c : Nat) => decide (f < first + count) && decide (first < f + c)
  s.fabric.runs.any (fun x => let c := s.castRef x.2.cast; meet c.first c.count) ||
  (!lc && s.fabric.paused.any (fun x => let c := s.castRef x.cast; meet c.first c.count)) ||
  s.queues.any (fun x => x.2.flights.any (fun y => y.cmd.opcode == 0x09 && meet y.cmd.firstDale y.cmd.daleCount)) ||
  ((List.range count).map (first + ·)).any s.recoversDale

/-- The first Dale and the Dale count of a binding (R411). -/
def State.bindDales (s : State) (m : Nat) : Nat × Nat := (s.f F.SRV_MODEL_CFG_FIRST_DALE m, s.f F.SRV_MODEL_CFG_DALES m)

/-- The binding whose cast step a serving step of binding `m` has to start next: the draft binding in phase 2, `m` itself in phase 3
(R386, R413). -/
def State.castDue (s : State) (m : Nat) (x : ServeRun) : Option Nat :=
  if x.casting || x.readyAt.isSome then none
  else if s.f F.SRV_RUN_PHASE m = 2 then some (s.f F.SRV_MODEL_CFG_DRAFT m)
  else if s.f F.SRV_RUN_PHASE m = 3 then some m
  else none

/-- Whether queue `x` has a step that could start now on some of the Dales: a `CAST_RUN` ready at its head, or a cast step of one of its
serving steps (R385). -/
def State.castReady (s : State) (x first count : Nat) : Bool :=
  let lc := s.isLc x
  let fits := fun (f c : Nat) => decide (f < first + count) && decide (first < f + c) && !s.runHeld f c lc
  (match s.headRec x with
    | some r => r.opcode == 0x0A && (s.queue x).head == .ready && s.queueOpen x && fits r.firstDale r.daleCount
    | none => false) ||
  s.serve.runs.any fun y => y.2.q == x &&
    match s.castDue y.1 y.2 with
    | some b => fits (s.bindDales b).1 (s.bindDales b).2
    | none => false

/-- Whether it is the turn of queue `q` to start a step on some Dales (R64, R385): LC before BE, and round-robin within a class. -/
def State.castTurn (s : State) (q first count : Nat) : Bool :=
  let cls := s.f F.QE_Q_CTRL_CLASS q
  let last := mgetD s.turns (14 + cls) 4095
  let key := fun x => (x + 4095 - last) % 4096
  (s.queues.map (fun x => x.1)).all fun x =>
    x == q || !s.castReady x first count ||
    (decide (cls ≤ s.f F.QE_Q_CTRL_CLASS x) && (s.f F.QE_Q_CTRL_CLASS x != cls || decide (key q < key x)))

/-- The turn of queue `q` taken. -/
def State.takeCastTurn (s : State) (q : Nat) : State := { s with turns := mset s.turns (14 + s.f F.QE_Q_CTRL_CLASS q) q }

/-- `CAST_RUN` starts (R115). -/
def State.runRun (s : State) (q seq : Nat) (r : Rec) : State :=
  let n := s.queueJob q
  match s.runCast r.firstDale r.daleCount with
  | none => s.finishFlight q seq .badCommand 0 (badField 4 0)
  | some k => match s.prepareRun n (s.castRef k) r.w6.toNat with
    | .error (.inl e) => s.failFlight q seq e 6
    | .error (.inr (st, d)) => s.finishFlight q seq st 0 d
    | .ok ds => (s.takeCastTurn q).startRun (.command q seq) n k (bitsOf r.w5 0 32) ds

/-- `CAST_RUN` (R49, R65, R115). -/
def specCastRun : CmdSpec :=
  { CmdSpec.plain [] State.runRun with
    present := dalesPresent, encoding := runEncoding, owns := dalesOwned, touches := dalesTouch
    hold := fun s q r => s.runHeld r.firstDale r.daleCount (s.isLc q) ||
      !s.castTurn q r.firstDale r.daleCount }

/-- `CAST_RUN` (R115). -/
def execCastRun (q : QId) (s : State) : Host.Outcome State Fault Refusal :=
  .next (s.queueCommand specCastRun (fun r => r.opcode == 0x0A) q.val)

/-! ## CAST_EVICT (R52, R115) and zeroing (R116) -/

/-- The encoding of `CAST_EVICT`. -/
def evictEncoding (_s : State) (_n : Nat) (r : Rec) : Option W64 :=
  if r.daleCount = 0 ∨ 32 < r.daleCount then some (badField 4 8)
  else if 32 < r.firstDale + r.daleCount then some (badField 4 0)
  else reservedField [(3, 0, 64), (4, 17, 47), (5, 0, 64), (6, 0, 64)] r

/-- The standby slots of some Dales evicted; a stage that loads them ends `CANCELLED` on every Dale it names (R115). -/
def State.evictStandby (s : State) (ds : List Nat) : State :=
  let s := (s.casts.staging.filter (fun x => ds.any (fun d => (s.castRef x.cast).dales.contains d))).foldl
    (fun s x => s.stageFail x .cancelled 0 0) s
  (s.setStandby ds .empty).dropCasts

/-- `CAST_EVICT` starts. -/
def State.runEvict (s : State) (q seq : Nat) (r : Rec) : State :=
  if r.tx ≠ 0 then s.stageCast q seq r true
  else if bitOf r.w4 16 then
    match r.castDales.find? (fun d => s.runsOn d 1) with
    | some d => s.finishFlight q seq .conflict 0 (conflictDetail 5 d ((s.daleOwner d).getD 0xFF))
    | none => (s.evictActive r.castDales).finishFlight q seq .ok
  else (s.evictStandby r.castDales).finishFlight q seq .ok

/-- `CAST_EVICT` (R49, R52). An evict of active slots waits for ring runs that use rings of the Dales (R331). -/
def specCastEvict : CmdSpec :=
  { CmdSpec.plain [] State.runEvict with
    present := dalesPresent, encoding := evictEncoding, takesTx := true, owns := castOwned, touches := dalesTouch
    hold := fun s _ r => bitOf r.w4 16 && r.tx == 0 && s.ringHolds r.firstDale r.daleCount }

/-- `CAST_EVICT` (R115). -/
def execCastEvict (q : QId) (s : State) : Host.Outcome State Fault Refusal :=
  .next (s.queueCommand specCastEvict (fun r => r.opcode == 0x0B) q.val)

/-- A Dale moves to another job (R116, R181, R217, R218, R192, R222): its slots are evicted, its Terrace reads zero and is being
zeroed, its units' state, micro-TLBs, counters and ring ownership clear. -/
def State.moveDale (s : State) (d : Nat) : State :=
  let s := (s.evictStandby [d]).evictActive [d]
  let units := (List.range 32).map (32 * d + ·)
  let f := s.fabric
  let s := { s with
    casts := { s.casts with zeroing := sinsert s.casts.zeroing d }
    fabric := { f with
      cus := f.cus.filter (fun x => x.1 / 32 != d), mus := f.mus.filter (fun x => x.1 / 32 != d)
      boxes := f.boxes.filter (fun x => x.1 / 64 != d), elems := f.elems.filter (fun x => x.1 / 128 != d)
      chans := f.chans.filter (fun x => x.1 / 4096 != d) }
    frames := { s.frames with tlbs := s.frames.tlbs.filter (fun x => decide (1024 ≤ x.1) || x.1 / 32 != d) } }
  let s := s.zero (terraceOf (32 * d)) 0x2000000
  units.foldl (fun s u =>
    let w := s.unitWindow u
    let s := [R.CU_MM_FIRINGS, R.CU_VEC_ISSUES, R.CU_SWITCHES, R.CU_WAIT_TICKS, R.CU_ECC, R.MU_READ_LINES, R.MU_WRITE_LINES,
      R.MU_BANK_WAITS, R.MU_PAD_LINES, R.MU_TLB_MISSES, R.MU_ECC].foldl (fun s x => s.setR x 0 w) s
    let s := s.setR R.MU_WRITE_LINES 16384 w
    (List.range 4).foldl (fun s r => s.setR R.MU_RING_OWN 0 w r) s) s

/-- `DALE_ZEROING_COMPLETE` (R116, R204): stages that waited for the Dale may proceed. -/
def execDaleZeroingComplete (d : DaleId) (s : State) : Host.Outcome State Fault Refusal :=
  .next { s with casts := { s.casts with zeroing := sremove s.casts.zeroing d.val } }

end Sys2Proof.Machine
end

