-- ==== Sys2Proof/Machine/Sampler.lean ====
section
/-! DEFINITION. The sampler's arithmetic (R393 to R398): random values, penalty counts, distributions and verification, over one
row of logits. -/

namespace Sys2Proof.Machine

/-! ## Philox4x32-10 (R397)

PRESUMED: the constants and the round of the published generator, which the manual names and does not restate. -/

/-- One round on a counter with a key. -/
def philoxRound (c : Nat × Nat × Nat × Nat) (k0 k1 : Nat) : Nat × Nat × Nat × Nat :=
  let a := 0xD2511F53 * c.1
  let b := 0xCD9E8D57 * c.2.2.1
  ((b / 2 ^ 32) ^^^ c.2.1 ^^^ k0, b % 2 ^ 32, (a / 2 ^ 32) ^^^ c.2.2.2 ^^^ k1, a % 2 ^ 32)

/-- `n` rounds, the key stepping after each. -/
def philoxRounds : Nat → Nat × Nat × Nat × Nat → Nat → Nat → Nat × Nat × Nat × Nat
  | 0, c, _, _ => c
  | n + 1, c, k0, k1 => philoxRounds n (philoxRound c k0 k1) ((k0 + 0x9E3779B9) % 2 ^ 32) ((k1 + 0xBB67AE85) % 2 ^ 32)

/-- Output word 0 for a seed, a position, a purpose and a draft index (R397). -/
def philoxWord (seed : Nat) (pos purpose j : Nat) : Nat :=
  (philoxRounds 10 (pos % 2 ^ 32, purpose, j, 0) (seed % 2 ^ 32) (seed / 2 ^ 32 % 2 ^ 32)).1

/-- The value u of R397, exact in `FP32`. -/
def drawU (seed pos purpose j : Nat) : F32 := toF32 (.fin false (philoxWord seed pos purpose j / 256) (-24))

/-! ## Penalty counts (R394) -/

/-- The first slot of a token (R394). -/
def penHash (id : Nat) : Nat := id * 0x9E3779B1 % 2 ^ 32 / 2 ^ 20

/-- A token counted in the 4,096 slots; the second part says that it found no slot (R394). -/
def penInsert (slots : List W64) (id : Nat) : List W64 × Bool :=
  let at_ := fun (k : Nat) => (penHash id + k) % 4096
  let key := fun (k : Nat) => bitsOf (nth slots (at_ k) 0) 0 21
  match (List.range 4096).find? (fun k => key k == id + 1 || key k == 0) with
  | none => (slots, true)
  | some k =>
    let w := nth slots (at_ k) 0
    let w := if key k = 0 then setBits (setBits w 0 21 (id + 1)) 21 16 1 else setBits w 21 16 (satTo 16 (bitsOf w 21 16 + 1))
    (setNth slots (at_ k) w, false)

/-- Tokens counted one by one. -/
def penAdd (slots : List W64) (ids : List Nat) : List W64 × Bool :=
  ids.foldl (fun a id => let r := penInsert a.1 id; (r.1, a.2 || r.2)) (slots, false)

/-- The counts that the slots hold, by token. -/
def penCounts (slots : List W64) : SMap Nat :=
  slots.foldl (fun m w => if bitsOf w 0 21 = 0 then m else mset m (bitsOf w 0 21 - 1) (bitsOf w 21 16)) []

/-! ## One row (R393, R395, R396) -/

/-- The values of a parameter set (R415). -/
structure SampParams where
  temp : F32
  topP : F32
  minP : F32
  topK : Nat
  rep : F32
  freq : F32
  pres : F32
  deriving DecidableEq, Repr

/-- Whether a row under this set needs the candidates in order, and so the sorter (R367, R395). -/
def SampParams.sorts (p : SampParams) : Bool :=
  !(ofF32 p.temp).isZero && !(p.topK == 0 && (ofF32 p.topP).eqv .one)

/-- `FP32` difference. -/
def f32Sub (a b : F32) : F32 := f32Add a (b ^^^ 0x80000000#32)

/-- `FP32` quotient, correctly rounded. -/
def f32Div (a b : F32) : F32 := let r := (ofF32 a).div (ofF32 b); toF32 r.1 r.2

/-- Whether `a` is greater than `b`. -/
def f32Gt (a b : F32) : Bool := (ofF32 b).lt (ofF32 a)

/-- Negative infinity. -/
def f32NegInf : F32 := 0xFF800000#32

/-- The penalties of a counted token (R393). -/
def penalise (p : SampParams) (cnt : Nat) (z : F32) : F32 :=
  let z := if f32Gt z 0 then f32Div z p.rep else f32Mul z p.rep
  f32Sub (f32Sub z (f32Mul p.freq (toF32 (.fin false cnt 0)))) p.pres

/-- A list with its indexes. -/
def indexed {α : Type} (l : List α) : List (Nat × α) := (List.range l.length).zip l

/-- The index of a largest element, the lower one among equals (R393). -/
def argmax (z : List F32) : Nat :=
  ((indexed z).foldl (fun (b : Option (Nat × F32)) x =>
    match b with
    | none => some x
    | some y => if f32Gt x.2 y.2 then some x else b) none).elim 0 (fun x => x.1)

/-- A candidate put into a list in descending order of weight, after equals (R395). -/
def insertCand (x : Nat × F32) : List (Nat × F32) → List (Nat × F32)
  | [] => [x]
  | y :: t => if f32Gt x.2 y.2 then x :: y :: t else y :: insertCand x t

/-- The candidates in the order of R395: descending weight, ties by lower index. -/
def sortCands (l : List (Nat × F32)) : List (Nat × F32) := l.foldl (fun a x => insertCand x a) []

/-- The weights of candidates summed in order. -/
def sumWeights (l : List (Nat × F32)) : F32 := l.foldl (fun a x => f32Add a x.2) 0

/-- The shortest prefix whose running sum reaches a bound (R395). -/
def prefixTo (bound : F32) : F32 → List (Nat × F32) → List (Nat × F32)
  | _, [] => []
  | acc, x :: t =>
    let a := f32Add acc x.2
    if f32Gt bound a then x :: prefixTo bound a t else [x]

/-- Top-k, top-p and min-p in that order (R395), from the weights of all tokens. -/
def candidates (p : SampParams) (w : List F32) : List (Nat × F32) :=
  let all := indexed w
  let s := sumWeights all
  let l := if p.sorts then (sortCands all).take (if p.topK = 0 then 1024 else p.topK) else all
  let l := prefixTo (f32Mul p.topP s) 0 l
  let kept := l.filter (fun x => !f32Gt p.minP x.2)
  if kept.isEmpty then l.take 1 else kept

/-- What a logit row gives: the distribution, the NaN events of the row, whether top-k 1,024 was applied to it, and whether every
logit is −∞ after penalties. -/
structure RowResult where
  dist : Dist
  events : List NanEvent
  implicitK : Bool
  empty : Bool
  deriving DecidableEq, Repr

/-- A NaN event of the sampler at a vocabulary index (R396). -/
def samplerEvent (entry : Nat) (x : Nat × F32) : NanEvent :=
  { firing := 0, stage := 5, src0 := x.2.toNat, src1 := entry, src2 := x.1, result := 0x7FC00000 }

/-- One logit row (R393 to R396). A NaN logit, a NaN that the penalties make and a weight that is NaN count as NaN events, and act
as −∞. -/
def rowDist (p : SampParams) (cnt : SMap Nat) (entry : Nat) (z : List F32) : RowResult :=
  let raw := indexed z
  let clean := fun (l : List (Nat × F32)) => l.map (fun x => (x.1, if (ofF32 x.2).isNan then f32NegInf else x.2))
  let bad1 := raw.filter (fun x => (ofF32 x.2).isNan)
  let pen := (clean raw).map (fun x => (x.1, match mget cnt x.1 with
    | some c => if c = 0 then x.2 else penalise p c x.2
    | none => x.2))
  let bad2 := pen.filter (fun x => (ofF32 x.2).isNan)
  let z2 := (clean pen).map (fun x => x.2)
  let events := (bad1 ++ bad2).map (fun x => samplerEvent entry (x.1, nth z x.1 0))
  if z2.all (fun x => x == f32NegInf) then
    { dist := { cands := [], total := 0 }, events := events, implicitK := false, empty := true }
  else if (ofF32 p.temp).isZero then
    { dist := { cands := [(argmax z2, 0x3F800000#32)], total := 0x3F800000#32 }, events := events, implicitK := false, empty := false }
  else
    let zt := z2.map (fun x => f32Div x p.temp)
    let m := nth zt (argmax zt) 0
    let w := zt.map (fun x => f32Exp2 (f32Mul (f32Sub x m) 0x3FB8AA3B#32) 0)
    let bad3 := (indexed w).filter (fun x => (ofF32 x.2).isNan)
    let w := w.map (fun x => if (ofF32 x).isNan then 0#32 else x)
    let c := candidates p w
    { dist := { cands := c, total := sumWeights c }
      events := events ++ bad3.map (fun x => samplerEvent entry (x.1, nth z x.1 0))
      implicitK := p.sorts && p.topK == 0, empty := false }

/-! ## Draws and verification (R393, R398) -/

/-- The first candidate at which the running sum exceeds a bound, the last where none does (R393). -/
def firstWhere (bound : F32) : F32 → List (Nat × F32) → Nat
  | _, [] => 0
  | acc, x :: t =>
    let a := f32Add acc x.2
    if f32Gt a bound || t.isEmpty then x.1 else firstWhere bound a t

/-- A token drawn from weighted candidates with u. -/
def pick (l : List (Nat × F32)) (u : F32) : Nat := firstWhere (f32Mul u (sumWeights l)) 0 l

/-- The probability of a token under a distribution (R395). -/
def Dist.prob (d : Dist) (v : Nat) : F32 :=
  match d.cands.find? (fun x => x.1 == v) with
  | some x => f32Div x.2 d.total
  | none => 0

/-- The residual of R398 over the candidates of `p`; `p` itself where it sums to +0. -/
def residual (p q : Dist) : List (Nat × F32) :=
  let r := p.cands.map (fun x => (x.1, f32Max 0 (f32Sub (p.prob x.1) (q.prob x.1))))
  if sumWeights r = 0 then p.cands.map (fun x => (x.1, p.prob x.1)) else r

/-- The drafts verified from index `i` on (R398): the tokens committed and the number accepted. `greedy` is greedy mode; the lists
are the drafts with their distributions, and the target's rows from row `i` on; `pos` is the position of draft `i + 1`. -/
def verify (seed : Nat) (greedy : Bool) : Nat → Nat → List (Nat × Dist) → List Dist → List Nat × Nat
  | _, _, _, [] => ([], 0)
  | _, pos, [], p :: _ => ([if greedy then pick p.cands 0 else pick p.cands (drawU seed pos 1 0)], 0)
  | i, pos, (d, q) :: ds, p :: ps =>
    let accept := if greedy then p.cands.head?.map (fun x => x.1) == some d
      else f32Gt (p.prob d) (f32Mul (drawU seed pos 2 (i + 1)) (q.prob d))
    if accept then
      let r := verify seed greedy (i + 1) (pos + 1) ds ps
      (d :: r.1, r.2 + 1)
    else ([if greedy then pick p.cands 0 else pick (residual p q) (drawU seed pos 3 (i + 1))], 0)

end Sys2Proof.Machine
end

