-- ==== Sys2Proof/Machine/Serve.lean ====
section
/-! DEFINITION. Request serving: admission and its companions (R382 to R384, R407), `SERVE_START` and the serving step (R385 to
R392), the sampler's passes (R393 to R398), the commit point (R399 to R401), and the feed of a follower (R403 to R405). -/

namespace Sys2Proof.Machine

/-! ## REQ_ADMIT (R290, R383) -/

/-- The reserved bits of an admission image, as word, lowest bit and width (R378). -/
def imageReserved : List (Nat × Nat × Nat) :=
  [(0, 14, 2), (2, 60, 4), (3, 59, 5), (4, 56, 8), (5, 53, 11), (6, 48, 16), (7, 48, 16), (8, 56, 8), (11, 21, 11), (11, 48, 16),
   (14, 0, 64), (15, 0, 64)]

/-- The checks of R290 in their order. -/
def State.rangeCheck (s : State) (n : Nat) (e : Req) : Option Status :=
  let j := e.f qfLayout
  let k := s.reqShape e
  let c := k.pageLog2
  if e.f qfTok < 4 ∨ 12 < e.f qfTok then some .badCommand
  else if !s.fb F.SRV_KV_LAYOUT_VALID j then some .badCommand
  else if s.f F.SRV_KV_LAYOUT_OWNER_JOB j ≠ n then some .denied
  else if 30 < c then some .badCommand
  else if e.f qfBase % 2 ^ c ≠ 0 then some .badCommand
  else if 2 ^ 48 < e.f qfBase + k.pageArea (e.f qfMax) + ceilDiv (e.f qfMax) k.t * 2 ^ c then some .badCommand
  else none

/-- Check 4 of R383, with the ranges that R378 gives the fields. -/
def State.imageBad (s : State) (e : Req) : Bool :=
  let m := e.f qfTarget
  imageReserved.any (fun x => bitsOf (nth e.words x.1 0) x.2.1 x.2.2 != 0) ||
  !s.fb F.SRV_MODEL_CFG_VALID m || s.fb F.SRV_MODEL_CFG_IS_DRAFT m ||
  (e.f qfDraft != 0x3F && e.f qfDraft != s.f F.SRV_MODEL_CFG_DRAFT m) ||
  (e.f qfK != 0 && e.f qfDraft == 0x3F) || !s.fb F.SRV_SAMP3_VALID (e.f qfSamp) ||
  e.f qfPromptLen == 0 || decide (e.f qfMax < e.f qfPromptLen + 1) || decide (2 ^ 27 < e.f qfMax) ||
  e.f qfPenVa % 4096 != 0 ||
  (e.f qfState == 10 && !s.fb F.MRE_G_CFG_VALID (e.f qfRing))

/-- Check 5 of R383. -/
def State.imageDenied (s : State) (n : Nat) (e : Req) : Bool :=
  let o := e.f qfOut
  s.f F.SRV_MODEL_CFG_OWNER_JOB (e.f qfTarget) != n || s.f F.SRV_SAMP3_OWNER_JOB (e.f qfSamp) != n ||
  (s.fb F.SRV_OUT_CTRL_VALID o && s.f F.SRV_OUT_CTRL_OWNER_JOB o != n) ||
  (e.f qfState == 10 && s.f F.MRE_G_CFG_OWNER_JOB (e.f qfRing) != n)

/-- The entry that an admission takes: the wanted one, or the lowest `FREE` one (R383). -/
def State.admitIndex (s : State) (op : W64) : Option Nat :=
  let free := fun (i : Nat) => (s.req i).f qfState == 0
  if bitOf op 16 then (List.range 65536).find? free
  else if free (bitsOf op 0 16) then some (bitsOf op 0 16) else none

/-- The checks of R383 on an image: the entry it takes, or the status. -/
def State.admitCheck (s : State) (n : Nat) (op : W64) (e : Req) : Except Status Nat :=
  let st := e.f qfState
  if st ≠ 1 ∧ st ≠ 10 ∧ st ≠ 11 then .error .badCommand
  else if st = 10 ∧ !s.part.hasMeander then .error .absent
  else match s.rangeCheck n e with
    | some x => .error x
    | none =>
      if s.imageBad e then .error .badCommand
      else if s.imageDenied n e then .error .denied
      else match s.admitIndex op with
        | none => .error .noSpace
        | some i =>
          if s.f F.SRV_JOB_MAX_ENTRIES n ≤ s.f F.SRV_JOB_STAT_IN_USE n ∨ s.ringFree (e.f qfOut) = 0 then .error .noSpace
          else .ok i

/-- An image as an entry that holds it. -/
def imageReq (ws : List W64) : Req := { Req.blank with words := ws }

/-- The encoding of `REQ_ADMIT` (R382). -/
def admitEncoding (_s : State) (_n : Nat) (r : Rec) : Option W64 :=
  if bitsOf r.w3 0 6 ≠ 0 then some (badField 3 0)
  else if bitOf r.w4 16 ∧ bitsOf r.w4 0 16 ≠ 0 then some (badField 4 0)
  else reservedField [(4, 17, 47), (5, 0, 64), (6, 0, 64)] r

/-- The status and `DETAIL` of an image that fails a check: the image lies where `OP0` points (R58). -/
def admitDetail (st : Status) : W64 := if st = .badCommand then badField 3 0 else 0

/-- The image read once and checked at step 3 of R47 (R383). -/
def admitEarly (s : State) (q : Nat) (r : Rec) : Except (State × Status × W64) State :=
  let n := s.queueJob q
  match s.readVirt n r.w3.toNat 128 with
  | .error e => .error (s.accFault n e (some (q, s.headSeq q)), e.status, s.accDetail e 3)
  | .ok (bs, _) =>
    let ws := leWords 16 bs
    match s.admitCheck n r.w4 (imageReq ws) with
    | .error st => .error (s, st, admitDetail st)
    | .ok _ => .ok { s with serve := { s.serve with images := mset s.serve.images q ws } }

/-- The entry that an image makes (R378, R383). -/
def State.admitted (s : State) (n q i : Nat) (e : Req) : Req :=
  let e := e.setF qfMissed 0
  let e := (e.setF qfCancel 0).setF qfPenFull 0
  let e := ((e.setF qfGen ((s.req i).f qfGen + 1)).setF qfJob n).setF qfOwnerQ q
  let e := (e.setF qfLength 0).setF qfPageLog2 (s.reqShape e).pageLog2
  let e := ((e.setF qfPages 0).setF qfDlen 0).setF qfPrefilled 0
  let e := (e.setF qfAdmit s.now).setF qfPending 0
  let e := e.setF qfPendValid 0
  let e := ((e.setF qfGenerated 0).setF qfSteps 0).setF qfProposed 0
  { e.setF qfAccepted 0 with finalHeld := true, feedNext := e.f qfPromptLen }

/-- Bytes of the serving unit written through a job's translation, with their poison mark. `none` stands for a leaf that carries
`POISON` (R98). -/
def State.serveWrite (s : State) (n va : Nat) (bs : List Byte) (mark : Bool) : Except (Option AccErr) State :=
  match s.range n va bs.length true with
  | .error e => .error (some e)
  | .ok ps => if ps.any (fun p => p.leafPoison) then .error none else .ok ((s.noteRange n va bs.length).writePieces ps bs mark)

/-- `REQ_ADMIT` runs (R383). The checks are made again against the table as it now stands. -/
def State.runAdmit (s : State) (q seq : Nat) (r : Rec) : State :=
  let n := s.queueJob q
  let e := imageReq (mgetD s.serve.images q [])
  match s.admitCheck n r.w4 e with
  | .error st => s.finishFlight q seq st 0 (admitDetail st)
  | .ok i =>
    match s.serveWrite n (e.f qfPenVa) (List.replicate 32768 0#8) false with
    | .error (some x) =>
      let d := s.accDetail x 3
      (s.accFault n x (some (q, seq))).finishFlight q seq x.status 0 d
    | .error none => s.finishFlight q seq .poisoned
    | .ok t =>
      let e := s.admitted n q i e
      let t := t.setReq i e
      let t := t.setF F.SRV_TABLE_STAT_FREE (t.f F.SRV_TABLE_STAT_FREE - 1)
      let t := t.setF F.SRV_JOB_STAT_IN_USE (t.f F.SRV_JOB_STAT_IN_USE n + 1) n
      t.finishFlight q seq .ok (BitVec.ofNat 64 (i + 65536 * e.f qfGen))

/-- `REQ_ADMIT` (R382, R383). -/
def specReqAdmit : CmdSpec :=
  { CmdSpec.plain [] State.runAdmit with encoding := admitEncoding, early := admitEarly }

/-- `REQ_ADMIT` (R383). -/
def execReqAdmit (q : QId) (s : State) : Host.Outcome State Fault Refusal :=
  .next (s.queueCommand specReqAdmit (fun r => r.opcode == 0x38) q.val)

/-! ## REQ_QUERY and REQ_CANCEL (R384, R407) -/

/-- Whether an entry is `FREE` or belongs to the job of queue `q`. -/
def State.entryOwned (s : State) (q i : Nat) : Bool := (s.req i).f qfState == 0 || (s.req i).f qfJob == s.queueJob q

/-- `REQ_QUERY` runs (R384). -/
def State.runQuery (s : State) (q seq : Nat) (r : Rec) : State :=
  let n := s.queueJob q
  let ws := (s.req (bitsOf r.w3 0 16)).words
  if r.w4 = 0 then s.finishFlight q seq .ok (nth ws 0 0)
  else match s.serveWrite n r.w4.toNat (wordsBytes ws) false with
    | .error (some x) =>
      let d := s.accDetail x 4
      (s.accFault n x (some (q, seq))).finishFlight q seq x.status 0 d
    | .error none => s.finishFlight q seq .poisoned
    | .ok t => t.finishFlight q seq .ok (nth ws 0 0)

/-- `REQ_QUERY` (R382, R384). -/
def specReqQuery : CmdSpec :=
  { CmdSpec.plain [] State.runQuery with
    encoding := fun _ _ r =>
      if r.w4.toNat % 64 ≠ 0 then some (badField 4 0) else reservedField [(3, 16, 48), (5, 0, 64), (6, 0, 64)] r
    owns := fun s q r => s.entryOwned q (bitsOf r.w3 0 16) }

/-- `REQ_QUERY` (R384). -/
def execReqQuery (q : QId) (s : State) : Host.Outcome State Fault Refusal :=
  .next (s.queueCommand specReqQuery (fun r => r.opcode == 0x3B) q.val)

/-- `REQ_CANCEL` runs (R407). -/
def State.runCancel (s : State) (q seq : Nat) (r : Rec) : State :=
  let i := bitsOf r.w3 0 16
  let e := s.req i
  if e.f qfState = 0 ∨ e.f qfGen ≠ bitsOf r.w3 16 16 then s.finishFlight q seq .cancelLate 1
  else if e.live then
    let s := s.setReq i { e with cancels := e.cancels ++ [(q, seq)] }
    if e.f qfCancel = 1 then s else s.cancelRequest i
  else if e.f qfState = 6 then
    if e.f qfCancel = 1 then s.setReq i { e with cancels := e.cancels ++ [(q, seq)] } else s.finishFlight q seq .cancelLate 1
  else s.answerCancel q seq e.cancelStatus

/-- `REQ_CANCEL` (R382, R407). -/
def specReqCancel : CmdSpec :=
  { CmdSpec.plain [(3, 32, 32), (4, 0, 64), (5, 0, 64), (6, 0, 64)] State.runCancel with
    owns := fun s q r => s.entryOwned q (bitsOf r.w3 0 16) }

/-- `REQ_CANCEL` (R407). -/
def execReqCancel (q : QId) (s : State) : Host.Outcome State Fault Refusal :=
  .next (s.queueCommand specReqCancel (fun r => r.opcode == 0x39) q.val)

/-! ## SERVE_START and STOP (R385, R413) -/

/-- Whether a transaction's commit affects a step of binding `m` (R68, R385): its Dales or those of its draft binding, or a register
of either binding. -/
def State.txTouchesBinding (s : State) (t : Tx) (m : Nat) : Bool :=
  let bs := if s.f F.SRV_MODEL_CFG_DRAFT m = 0x3F then [m] else [m, s.f F.SRV_MODEL_CFG_DRAFT m]
  bs.any fun b =>
    (List.range (s.bindDales b).2).any (fun i => s.txTouchesDale t ((s.bindDales b).1 + i)) ||
    t.staged.any fun x =>
      decide (R.SRV_MODEL_CFG.at b ≤ x.off) && decide (x.off < R.SRV_MODEL_CFG.at b + 0x40) &&
      mergeMask (s.reg x.off) x.value x.mask != s.reg x.off

/-- The binding a `SERVE_START` names. -/
def Rec.binding (r : Rec) : Nat := bitsOf r.w3 0 6

/-- `SERVE_START` starts (R385). -/
def State.runServe (s : State) (q seq : Nat) (r : Rec) : State :=
  let m := r.binding
  let s := s.setServeRun m
    { q := q, seq := seq, done := 0, stop := false, number := 0, items := [], pass := 0, drafted := false, casting := false,
      target := false, readyAt := none, views := 0 }
  (s.setF F.SRV_RUN_RUNNING 1 m).setF F.SRV_RUN_PHASE 1 m

/-- `SERVE_START` (R382, R385, R543). -/
def specServeStart : CmdSpec :=
  { CmdSpec.plain [] State.runServe with
    encoding := fun s _ r =>
      match reservedField [(3, 6, 58), (5, 0, 64), (6, 0, 64)] r with
      | some d => some d
      | none =>
        if !s.fb F.SRV_MODEL_CFG_VALID r.binding || s.fb F.SRV_MODEL_CFG_IS_DRAFT r.binding then some (badField 3 0) else none
    owns := fun s q r => s.f F.SRV_MODEL_CFG_OWNER_JOB r.binding == s.queueJob q &&
      !(s.fb F.FLT_PENDANT_STOPPED && s.fb F.SRV_MIRROR_EN r.binding)
    touches := fun s _ r t => s.txTouchesBinding t r.binding
    hold := fun s _ r => (mget s.serve.runs r.binding).isSome }

/-- `SERVE_START` (R385). -/
def execServeStart (q : QId) (s : State) : Host.Outcome State Fault Refusal :=
  .next (s.queueCommand specServeStart (fun r => r.opcode == 0x3A) q.val)

/-- `STOP` written for binding `m` (R385): it takes effect at the commit point of the step in flight, and at once between steps. -/
def State.stopServe (s : State) (m : Nat) : State :=
  match mget s.serve.runs m with
  | none => s
  | some x => if x.items.isEmpty then s.endServe m x .ok x.done 0 else s.setServeRun m { x with stop := true }

/-- Whether a write to a register of binding `m` comes from its owning job (R410). -/
def State.bindPort (s : State) (via : Via) (m : Nat) : Bool :=
  s.fb F.SRV_MODEL_CFG_VALID m && s.jobPort via (s.f F.SRV_MODEL_CFG_OWNER_JOB m)

/-- `STOP` (R385, R413). -/
def execStop (via : Via) (m : BindId) (s : State) : Host.Outcome State Fault Refusal :=
  .next (if s.bindPort via m.val then s.stopServe m.val else s)

/-- `PROMOTE` written for binding `m` (R405). -/
def State.promoteBinding (s : State) (m : Nat) : State :=
  { s with serve := { s.serve with promote := sinsert s.serve.promote m } }

/-- `PROMOTE` (R405, R413). -/
def execPromote (via : Via) (m : BindId) (s : State) : Host.Outcome State Fault Refusal :=
  .next (if s.bindPort via m.val then s.promoteBinding m.val else s)

/-! ## Forming the batch (R389 to R391) -/

/-- What an entry could do in a step of its binding (R389, R404), where it is a candidate. -/
def candidateKind (e : Req) : Option ItemKind :=
  let st := e.f qfState
  let more := e.f qfPrefilled < e.f qfPromptLen
  if st = 10 then (if more then some .shard else none)
  else if st = 11 then
    if more then some .prefill
    else match e.feed with
      | x :: _ => if x.1 = e.f qfLength then some .follow else none
      | [] => none
  else if st = 1 ∨ st = 2 ∨ st = 3 ∨ st = 5 then some (if more then .prefill else .decode)
  else none

/-- Whether candidate `a` comes before candidate `b` (R389). -/
def candidateBefore (a b : Nat × Req) : Bool :=
  let dl := fun (e : Req) => if e.f qfDeadline = 0 then 2 ^ 64 - 1 else e.f qfDeadline
  let key := fun (x : Nat × Req) =>
    if x.2.f qfClass = 0 then [0, dl x.2, x.2.f qfAdmit, x.1] else [1, 15 - x.2.f qfPrio, x.2.f qfAdmit, x.1]
  decide (key a < key b)

/-- A candidate put into its place. -/
def insertCandidate (x : Nat × Req) : List (Nat × Req) → List (Nat × Req)
  | [] => [x]
  | y :: t => if candidateBefore x y then x :: y :: t else y :: insertCandidate x t

/-- The candidates of binding `m` in the order of R389. -/
def State.candidateList (s : State) (m : Nat) : List Nat :=
  ((s.serve.reqs.filter (fun x => x.2.live && x.2.f qfTarget == m && x.2.f qfCancel == 0 &&
    !s.fb F.FLT_NAN_INFO_HALT (x.2.f qfJob) && (candidateKind x.2).isSome)).foldl (fun l x => insertCandidate x l) []).map (fun x => x.1)

/-- What forming has reached: rows left, the next row and logit row, the items, and the counters of those left out with whether each
newly waits. -/
structure Forming where
  left : Nat
  row : Nat
  logit : Nat
  items : List Item
  out : List (Field × Nat × Bool)

/-- A request left out of a step (R302, R390): it enters `WAITING` where its state allows it. -/
def State.leaveOut (s : State) (i : Nat) (c : Field) (f : Forming) : State × Forming :=
  let e := s.req i
  let newly := decide (1 ≤ e.f qfState ∧ e.f qfState ≤ 3)
  (if newly then s.setReq i (e.setF qfState 5) else s, { f with out := f.out ++ [(c, e.f qfJob, newly)] })

/-- Rows, draft length, logit rows and output records of a request in a step with `left` rows left (R387, R390, R404, R405). -/
def itemShape (e : Req) (k : ItemKind) (chunk left : Nat) : ItemKind × Nat × Nat × Nat × Nat :=
  let more := e.f qfPromptLen - e.f qfPrefilled
  match k with
  | .shard => (.shard, max 1 (min more (min chunk left)), 0, 0, 0)
  | .prefill =>
    let rows := max 1 (min more (min chunk left))
    let done := decide (more ≤ rows)
    let samples := done && e.f qfState != 11 && e.f qfPendValid == 0
    (.prefill, rows, 0, if done then 1 else 0, if samples then 1 else 0)
  | .follow => (.follow, max 1 (min e.feed.length (min chunk left)), 0, 0, 0)
  | .decode =>
    if left < e.feed.length + 1 then (.follow, left, 0, 0, 0)
    else
      let ke := if e.feed.isEmpty then min (e.f qfK) (min (e.f qfMax - e.f qfLength - 2) (left - 1)) else 0
      (.decode, e.feed.length + ke + 1, ke, ke + 1, ke + 1)

/-- The state that an included request shows (R381). -/
def includedState (e : Req) (k : ItemKind) (ke : Nat) : Nat :=
  let st := e.f qfState
  if st = 10 ∨ st = 11 then st
  else if e.f qfPrefilled < e.f qfPromptLen then (if e.f qfPrefilled = 0 then 1 else 2)
  else if k = .decode ∧ 0 < ke then 4 else 3

/-- One candidate tried (R390, R301, R302). -/
def State.tryCandidate (cmd : Option (Nat × Nat)) (maxReqs chunk : Nat) (a : State × Forming) (i : Nat) : State × Forming :=
  let s := a.1
  let f := a.2
  let e := s.req i
  match candidateKind e with
  | none => a
  | some k =>
    if maxReqs ≤ f.items.length ∨ f.left = 0 then a
    else
      let (k, rows, ke, logits, recs) := itemShape e k chunk f.left
      if recs ≠ 0 ∧ s.ringRoom (e.f qfOut) < recs then s.leaveOut i F.SRV_JOB_STAT_OUT_WAITS f
      else
        let need := ceilDiv (e.f qfLength + rows) (s.reqShape e).t
        match s.kvGrow cmd i need with
        | (s, .wait) => s.leaveOut i F.SRV_KV_STAT_PAGE_WAITS f
        | (s, .overlap) => (s.decideEnd i (some .denied), f)
        | (s, .ok) =>
          let s := (s.kvWriteLists i need).reserveOut (e.f qfOut) recs
          let e := (s.req i).setF qfState (includedState e k ke)
          let s := s.setReq i { e with inStep := true, reserved := recs }
          let x : Item :=
            { entry := i, gen := e.f qfGen, kind := k, rows := rows, ke := ke, firstRow := f.row, logitFirst := f.logit,
              logitRows := logits, proposals := [], dists := [], tokens := [], accepted := 0, fault := none }
          (s, { f with left := f.left - rows, row := f.row + rows, logit := f.logit + logits, items := f.items ++ [x] })

/-- A batch formed for binding `m` (R389 to R391). A request that a step leaves out counts; where no step can be formed it counts
once, as it enters `WAITING`. -/
def State.formBatch (s : State) (m : Nat) (cmd : Option (Nat × Nat)) : State × List Item :=
  let f : Forming := { left := s.f F.SRV_MODEL_LIMITS_MAX_ROWS m, row := 0, logit := 0, items := [], out := [] }
  let r := (s.candidateList m).foldl
    (State.tryCandidate cmd (s.f F.SRV_MODEL_LIMITS_MAX_REQS m) (s.f F.SRV_MODEL_LIMITS_CHUNK m)) (s, f)
  (r.2.out.foldl (fun s x => if x.2.2 || !r.2.items.isEmpty then s.count x.1 x.2.1 else s) r.1, r.2.items)

/-! ## The step batch (R387, R388) -/

/-- A request record of a batch: its entry, the positions it carries from `length` on, their token ids as far as they are known with
the poison mark of the prompt bytes they came from, its first row, its logit rows, and `PREFILL`. -/
structure BatchRow where
  entry : Nat
  length : Nat
  new : Nat
  ids : List Nat
  mark : Bool
  firstRow : Nat
  logitFirst : Nat
  logitRows : Nat
  prefill : Bool
  deriving DecidableEq, Repr

/-- The token ids at `n` positions from `lo` on, as far as they are known: the prompt, the tokens cached since, tokens of the feed, the
pending token, and the proposals after it (R387, R388). -/
def State.tokensAt (s : State) (i lo n : Nat) (props : List Nat) : Except AccErr (List Nat × Bool) :=
  let e := s.req i
  let p := e.f qfPromptLen
  let pend := e.f qfLength + e.feed.length
  let known := mgetD s.serve.history i [] ++ e.feed ++ (if e.f qfPendValid = 1 then [(pend, e.f qfPending)] else []) ++
    ((List.range props.length).zip props).map (fun x => (pend + 1 + x.1, x.2))
  let rest := (List.range n).filterMap (fun k =>
    if lo + k < p then none else (known.find? (fun x => x.1 == lo + k)).map (fun x => x.2))
  let np := min n (p - lo)
  if np = 0 then .ok (rest, false)
  else match s.readVirt (e.f qfJob) (e.f qfPromptVa + 4 * lo) (4 * np) with
    | .error x => .error x
    | .ok (bs, mark) => .ok ((List.range np).map (fun k => leNat (slice bs (4 * k) 4) % 2 ^ 20) ++ rest, mark)

/-- A batch written in the area of binding `b` for job `n` (R387). -/
def State.writeBatch (s : State) (b n number pass : Nat) (rows : List BatchRow) : Except (Option AccErr) State :=
  let va := s.f F.SRV_MODEL_BATCH_VA b
  let total := rows.foldl (fun a x => a + x.new) 0
  let head := [BitVec.ofNat 64 number, BitVec.ofNat 64 rows.length, BitVec.ofNat 64 total, BitVec.ofNat 64 pass, 0, 0, 0, 0]
  let recs := rows.flatMap (fun x =>
    let e := s.req x.entry
    let w4 := setBits (setBits (BitVec.ofNat 64 x.entry) 16 16 (e.f qfGen)) 32 32 x.firstRow
    let w5 := setBits (setBits (BitVec.ofNat 64 x.logitFirst) 32 5 x.logitRows) 37 1 (if x.prefill then 1 else 0)
    s.kvView e x.length x.new ++ [w4, w5, 0, 0])
  let area := va + 64 + 64 * s.f F.SRV_MODEL_LIMITS_MAX_REQS b
  match s.serveWrite n va (wordsBytes (head ++ recs)) false with
  | .error e => .error e
  | .ok t => rows.foldl (fun (a : Except (Option AccErr) State) x =>
      match a with
      | .error e => .error e
      | .ok t => if x.ids.isEmpty then .ok t
        else t.serveWrite n (area + 4 * x.firstRow) (x.ids.flatMap (fun k => leBytes 4 k)) x.mark) (.ok t)

/-- A step abandoned because a serving area could not be written or read. -/
def State.abandonWrite (s : State) (m n : Nat) (e : Option AccErr) : State :=
  match e with
  | some x => s.abandonAccess m n x
  | none => s.abandonStep m .poisoned 0

/-- The target's record of an item. -/
def State.targetRow (s : State) (x : Item) : Except AccErr BatchRow :=
  let e := s.req x.entry
  match s.tokensAt x.entry (e.f qfLength) x.rows x.proposals with
  | .error err => .error err
  | .ok (ids, mark) => .ok
    { entry := x.entry, length := e.f qfLength, new := x.rows, ids := ids.take x.rows, mark := mark, firstRow := x.firstRow,
       logitFirst := x.logitFirst, logitRows := x.logitRows, prefill := x.kind == .prefill || x.kind == .shard }

/-- The target's batch written (R387). -/
def State.writeTarget (s : State) (m : Nat) (x : ServeRun) : Except (Option AccErr) State :=
  match x.items.mapM (fun y => s.targetRow y) with
  | .error e => .error (some e)
  | .ok rows => s.writeBatch m (s.f F.SRV_MODEL_CFG_OWNER_JOB m) x.number 0 rows

/-- Rows and logit rows of the items numbered from 0 on. -/
def renumber : Nat → Nat → List Item → List Item
  | _, _, [] => []
  | r, l, x :: t => { x with firstRow := r, logitFirst := l } :: renumber (r + x.rows) (l + x.logitRows) t

/-- Whether binding `m`'s Dales, and those of its draft binding, belong to its job (R385). -/
def State.bindOwned (s : State) (m : Nat) : Bool :=
  let n := s.f F.SRV_MODEL_CFG_OWNER_JOB m
  let d := s.f F.SRV_MODEL_CFG_DRAFT m
  (if d = 0x3F then [m] else [m, d]).all fun b =>
    (List.range (s.bindDales b).2).all (fun i => s.ownsDale n ((s.bindDales b).1 + i))

/-- The largest effective draft length of a step (R386). -/
def maxDraft (items : List Item) : Nat := items.foldl (fun a x => max a x.ke) 0

/-- Whether an item enters prompt rows of a request that has a Maquette: draft pass 1 carries the target's chunk for it (R388). -/
def State.primesDraft (s : State) (x : Item) : Bool :=
  (x.kind == .prefill || x.kind == .shard) && (s.req x.entry).f qfDraft != 0x3F && (s.req x.entry).f qfState != 11

/-- The draft passes of a step (R386): as many as its largest effective draft length. DEDUCED: at least one where prompt rows of a
request with a Maquette are in the batch, since R388 gives pass 1 the target's chunk in a prefill step. -/
def State.draftPasses (s : State) (items : List Item) : Nat := max (maxDraft items) (if items.any s.primesDraft then 1 else 0)

/-- `BATCH_FORMATION` (R386, R389 to R391). -/
def execBatchFormation (m : BindId) (s : State) : Host.Outcome State Fault Refusal :=
  .next (match mget s.serve.runs m.val with
    | none => s
    | some x =>
      if !x.items.isEmpty || !s.running || s.txs.any (fun t => t.committing && s.txTouchesBinding t m.val) then s
      else if !s.bindOwned m.val then s.endServe m.val x .denied 0 0
      else
        let r := s.formBatch m.val (some (x.q, x.seq))
        if r.2.isEmpty then r.1.setF F.SRV_RUN_PHASE 0 m.val
        else
          let x := { x with items := r.2, number := (s.f F.SRV_RUN_STEP m.val + 1) % 2 ^ 58, pass := 1, drafted := false, target := false }
          let s := (r.1.setServeRun m.val x).setF F.SRV_RUN_PHASE (if r.1.draftPasses r.2 = 0 then 3 else 2) m.val
          match s.writeTarget m.val x with
          | .error e => s.abandonWrite m.val (s.f F.SRV_MODEL_CFG_OWNER_JOB m.val) e
          | .ok t => t)

/-! ## Cast steps of a serving step (R385, R386) -/

/-- The step of binding `b`'s cast started for the serving step of binding `m` (R385): held while its Dales are taken or it is another
queue's turn; a run that cannot be made ends the step with its status. -/
def State.startCast (s : State) (m b : Nat) (x : ServeRun) (views : Nat) : State :=
  let n := s.f F.SRV_MODEL_CFG_OWNER_JOB b
  let (first, count) := s.bindDales b
  match s.runCast first count with
  | none => s.abandonStep m .badCommand (badField 3 0)
  | some k =>
    match s.prepareRun n (s.castRef k) (s.f F.SRV_MODEL_ARGS_VA b) with
    | .error (.inl e) => s.abandonAccess m n e
    | .error (.inr (st, d)) => s.abandonStep m st d
    | .ok ds =>
      let s := s.setServeRun m { x with casting := true, readyAt := none, target := b == m, views := views }
      (s.takeCastTurn x.q).startRun (.serving m (b != m) x.q x.seq) n k 1 ds

/-- Whether the cast of binding `b` may start its step now (R65, R385). -/
def State.castFree (s : State) (q b : Nat) : Bool :=
  let (first, count) := s.bindDales b
  s.running && !s.runHeld first count (s.isLc q) && s.castTurn q first count

/-- The positions that draft pass `j` carries for an item, from and to, with its logit rows (R388). -/
def State.draftSpan (s : State) (j : Nat) (x : Item) : Option (Nat × Nat × Nat) :=
  let e := s.req x.entry
  if e.f qfDraft = 0x3F ∨ e.f qfState = 11 then none
  else if j = 1 then
    let hi := if x.kind = .decode then e.f qfLength + e.feed.length else e.f qfLength + x.rows - 1
    some (e.f qfDlen, hi, if x.kind = .decode then 1 else 0)
  else if j ≤ x.ke then some (e.f qfLength + j - 1, e.f qfLength + j - 1, 1)
  else none

/-- The records of draft pass `j` over the items from one on, with each item's logit row noted; the numbers are the next row and logit
row. -/
def State.draftRows (s : State) (j : Nat) : Nat → Nat → List Item → Except AccErr (List BatchRow × List Item)
  | _, _, [] => .ok ([], [])
  | r, l, x :: t =>
    match s.draftSpan j x with
    | none => match s.draftRows j r l t with
      | .error e => .error e
      | .ok (bs, is) => .ok (bs, x :: is)
    | some (lo, hi, lr) =>
      let new := hi + 1 - lo
      match s.tokensAt x.entry lo new x.proposals, s.draftRows j (r + new) (l + lr) t with
      | .error e, _ => .error e
      | _, .error e => .error e
      | .ok (ids, mark), .ok (bs, is) =>
        .ok ({ entry := x.entry, length := lo, new := new, ids := ids.take new, mark := mark, firstRow := r, logitFirst := l,
               logitRows := lr, prefill := x.kind == .prefill || x.kind == .shard } :: bs, { x with logitFirst := l } :: is)

/-! ## The sampler (R386, R393 to R398) -/

/-- The parameter set of a request (R415). -/
def State.sampParams (s : State) (i : Nat) : SampParams where
  temp := BitVec.ofNat 32 (s.f F.SRV_SAMP0_TEMP i)
  topP := BitVec.ofNat 32 (s.f F.SRV_SAMP0_TOP_P i)
  minP := BitVec.ofNat 32 (s.f F.SRV_SAMP1_MIN_P i)
  topK := s.f F.SRV_SAMP1_TOP_K i
  rep := BitVec.ofNat 32 (s.f F.SRV_SAMP2_REP i)
  freq := BitVec.ofNat 32 (s.f F.SRV_SAMP2_FREQ i)
  pres := BitVec.ofNat 32 (s.f F.SRV_SAMP3_PRES i)

/-- V of a binding (R387, R411). -/
def State.vocab (s : State) (m : Nat) : Nat := s.f F.SRV_MODEL_CFG_VOCAB_M1 m + 1

/-- The virtual address of a logit row of binding `b` (R387). -/
def State.logitVa (s : State) (b row : Nat) : Nat := s.f F.SRV_MODEL_LOGITS_VA b + row * roundUp (4 * s.vocab b) 64

/-- What became of a row: its distribution, the status that ends its request, or the `DETAIL` of a trap. -/
inductive RowOut where
  | dist (d : Dist)
  | fault (st : Status)
  | trap (detail : W64)
  deriving DecidableEq, Repr

/-- A logit row of binding `b` sampled for entry `i`, with tokens counted as if accepted (R393 to R396). -/
def State.sampleRow (s : State) (b row i : Nat) (extra : List Nat) (cmd : Option (Nat × Nat)) : State × RowOut :=
  let e := s.req i
  let n := e.f qfJob
  match s.readVirt n (s.logitVa b row) (4 * s.vocab b) with
  | .error x => (s.accFault n x cmd, .fault x.status)
  | .ok (_, true) => (s.fault 0x4407 .job n n cmd, .fault .poisoned)
  | .ok (bs, false) =>
    match s.readVirt n (e.f qfPenVa) 32768 with
    | .error x => (s.accFault n x cmd, .fault x.status)
    | .ok (tb, _) =>
      let cnt := penCounts (penAdd (leWords 4096 tb) extra).1
      let z := (List.range (s.vocab b)).map (fun k => (BitVec.ofNat 32 (leNat (slice bs (4 * k) 4)) : F32))
      let r := rowDist (s.sampParams (e.f qfSamp)) cnt i z
      match s.engineNan n 4 r.events cmd with
      | (s, some d) => (s, .trap d)
      | (s, none) =>
        let s := if r.implicitK then s.count F.SRV_TABLE_STAT_IMPLICIT_K else s
        (s, if r.empty then .fault .badCommand else .dist r.dist)

/-- Several rows of one request sampled in order, row `k` counting the first `k` proposals (R394): their distributions, the status
that ends the request, or a trap. -/
def State.sampleRows (s : State) (b i : Nat) (extra : List Nat) (cmd : Option (Nat × Nat)) :
    Nat → List Nat → List Nat → State × Except RowOut (List Dist)
  | _, _, [] => (s, .ok [])
  | k, props, row :: rows =>
    match s.sampleRow b row i (extra ++ props.take k) cmd with
    | (s, .dist d) =>
      match s.sampleRows b i extra cmd (k + 1) props rows with
      | (s, .ok ds) => (s, .ok (d :: ds))
      | r => r
    | (s, x) => (s, .error x)

/-- Sorts that a pass of binding `m` needs: one for each row whose candidates are ordered (R367, R395). -/
def State.sortsNeeded (s : State) (x : ServeRun) (j : Option Nat) : Nat :=
  (x.items.filter (fun y => s.itemLive y && y.fault.isNone && (s.sampParams ((s.req y.entry).f qfSamp)).sorts)).foldl
    (fun a y => a + match j with
      | some j => if j ≤ y.ke then 1 else 0
      | none => y.logitRows) 0

/-- Whether the sampler takes the pass of binding `m` (R386): it became ready first, and the lower binding goes first in a tie. -/
def State.samplerTurn (s : State) (m t : Nat) : Bool :=
  s.serve.runs.all fun y =>
    y.1 == m || match y.2.readyAt with
      | some u => decide (t < u) || (t == u && decide (m < y.1))
      | none => true

/-- The sampler asks for the sorter for binding `m`'s pass; `true` once it has had the sorts the pass needs (R367). -/
def State.askSorter (s : State) (m need : Nat) : State × Bool :=
  let w := s.wsu
  if need = 0 then (s, true)
  else
    let w := if w.sampBinding = m then w else { w with sampBinding := m, sampSorts := 0, sampWait := none }
    if need ≤ w.sampSorts then ({ s with wsu := { w with sampBinding := 64, sampSorts := 0, sampWait := none } }, true)
    else if w.sampWait.isNone && w.holder != 2 then ({ s with wsu := { w with sampWait := some s.now } }, false)
    else ({ s with wsu := w }, false)

/-- The proposals of draft pass `j` over some items (R386, R398): the items after it, or the trap that abandons the step. -/
def State.propose (s : State) (b j : Nat) (cmd : Option (Nat × Nat)) : List Item → State × Except W64 (List Item)
  | [] => (s, .ok [])
  | x :: t =>
    let r := if s.itemLive x && x.fault.isNone && decide (j ≤ x.ke) then
        let e := s.req x.entry
        match s.sampleRow b x.logitFirst x.entry x.proposals cmd with
        | (s, .dist d) =>
          let u := drawU (e.f qfSeed) (e.f qfLength + j) 0 j
          (s, .ok { x with proposals := x.proposals ++ [pick d.cands u], dists := x.dists ++ [d] })
        | (s, .fault st) => (s, .ok { x with fault := some st.code })
        | (s, .trap d) => (s, .error d)
      else (s, Except.ok x)
    match r with
    | (s, .error d) => (s, .error d)
    | (s, .ok y) => match s.propose b j cmd t with
      | (s, .ok ys) => (s, .ok (y :: ys))
      | z => z

/-- The prompt tokens that a chunk's counts cover before they are in the table (R394). -/
def State.chunkTokens (s : State) (i rows : Nat) : List Nat :=
  let e := s.req i
  if e.f qfPenPrompt = 0 then []
  else match s.tokensAt i (e.f qfPrefilled) rows [] with
    | .ok (ids, _) => ids
    | .error _ => []

/-- The target pass of the sampler over some items (R386, R393, R398). -/
def State.sampleItems (s : State) (m : Nat) (cmd : Option (Nat × Nat)) : List Item → State × Except W64 (List Item)
  | [] => (s, .ok [])
  | x :: t =>
    let e := s.req x.entry
    let samples := x.kind == .decode || (x.kind == .prefill && e.f qfState != 11 && e.f qfPendValid == 0)
    let r := if s.itemLive x && x.fault.isNone && samples && x.logitRows != 0 then
        let rows := (List.range x.logitRows).map (x.logitFirst + ·)
        let extra := if x.kind = .prefill then s.chunkTokens x.entry x.rows else []
        match s.sampleRows m x.entry extra cmd 0 x.proposals rows with
        | (s, .ok ds) =>
          let pos := if x.kind = .decode then e.f qfLength + e.feed.length + 1 else e.f qfLength + x.rows
          let v := verify (e.f qfSeed) (ofF32 (s.sampParams (e.f qfSamp)).temp).isZero 0 pos (x.proposals.zip x.dists) ds
          (s, .ok { x with tokens := v.1, accepted := v.2 })
        | (s, .error (.fault st)) => (s, .ok { x with fault := some st.code })
        | (s, .error (.trap d)) => (s, .error d)
        | (s, .error (.dist _)) => (s, .ok x)
      else (s, Except.ok x)
    match r with
    | (s, .error d) => (s, .error d)
    | (s, .ok y) => match s.sampleItems m cmd t with
      | (s, .ok ys) => (s, .ok (y :: ys))
      | z => z

/-- A draft pass begins: its batch is written and its cast step starts (R386, R388). -/
def State.beginDraft (s : State) (m : Nat) (x : ServeRun) : State :=
  let b := s.f F.SRV_MODEL_CFG_DRAFT m
  let n := s.f F.SRV_MODEL_CFG_OWNER_JOB b
  let live := x.items.filter (fun y => s.itemLive y && y.fault.isNone)
  if s.draftPasses live < x.pass then s.setF F.SRV_RUN_PHASE 3 m
  else if !s.castFree x.q b then s
  else match s.draftRows x.pass 0 0 live with
    | .error e => s.abandonAccess m n e
    | .ok (rows, is) =>
      let items := x.items.map (fun y => (is.find? (fun z => z.entry == y.entry)).getD y)
      match s.writeBatch b n x.number x.pass rows with
      | .error e => s.abandonWrite m n e
      | .ok t => t.startCast m b { x with items := items, drafted := true } rows.length

/-- `DRAFT_PASS` (R386, R388): the draft cast's step begins; once it has ended and the sampler can take the pass, each request gets its
proposal and the next pass, or the target step, follows. -/
def execDraftPass (m : BindId) (s : State) : Host.Outcome State Fault Refusal :=
  .next (match mget s.serve.runs m.val with
    | none => s
    | some x =>
      if s.f F.SRV_RUN_PHASE m.val ≠ 2 ∨ x.casting then s
      else match x.readyAt with
        | none => s.beginDraft m.val x
        | some t =>
          if !s.samplerTurn m.val t then s
          else match s.askSorter m.val (s.sortsNeeded x (some x.pass)) with
            | (s, false) => s
            | (s, true) =>
              match s.propose (s.f F.SRV_MODEL_CFG_DRAFT m.val) x.pass (some (x.q, x.seq)) x.items with
              | (s, .error d) => s.abandonStep m.val .nanTrap d
              | (s, .ok items) =>
                let s := s.setServeRun m.val { x with items := items, pass := x.pass + 1, readyAt := none }
                if s.draftPasses (items.filter (fun y => s.itemLive y && y.fault.isNone)) ≤ x.pass then s.setF F.SRV_RUN_PHASE 3 m.val else s)

/-- The target step begins (R386, R391): the batch is written with the proposals and is fixed from now on. Requests that a cancel has
ended since it was formed are left out. -/
def State.beginTarget (s : State) (m : Nat) (x : ServeRun) : State :=
  let items := renumber 0 0 (x.items.filter s.itemLive)
  let x := { x with items := items }
  if !s.castFree x.q m then s
  else match s.writeTarget m x with
    | .error e => (s.setServeRun m x).abandonWrite m (s.f F.SRV_MODEL_CFG_OWNER_JOB m) e
    | .ok t => t.startCast m m x items.length

/-- `SAMPLER_PASS` (R386, R393 to R398): the target's step begins; once it has ended and the sampler can take the pass, the logit rows
are sampled and the drafts verified. -/
def execSamplerPass (m : BindId) (s : State) : Host.Outcome State Fault Refusal :=
  .next (match mget s.serve.runs m.val with
    | none => s
    | some x =>
      if x.casting then s
      else if s.f F.SRV_RUN_PHASE m.val = 3 then s.beginTarget m.val x
      else match x.readyAt with
        | none => s
        | some t =>
          if s.f F.SRV_RUN_PHASE m.val ≠ 4 ∨ !s.samplerTurn m.val t then s
          else match s.askSorter m.val (s.sortsNeeded x none) with
            | (s, false) => s
            | (s, true) =>
              match s.sampleItems m.val (some (x.q, x.seq)) x.items with
              | (s, .error d) => s.abandonStep m.val .nanTrap d
              | (s, .ok items) => (s.setServeRun m.val { x with items := items, readyAt := none }).setF F.SRV_RUN_PHASE 5 m.val)

/-! ## The commit point (R399 to R401, R406, R408) -/

/-- Deadlines reached by live requests of binding `m` (R406). -/
def State.markDeadlines (s : State) (m : Nat) : State :=
  s.serve.reqs.foldl (fun s x =>
    let e := x.2
    if e.live && e.f qfTarget == m && e.f qfDeadline != 0 && decide (e.f qfDeadline ≤ s.now) && e.f qfMissed == 0 then
      (s.setReq x.1 (e.setF qfMissed 1)).count F.SRV_JOB_STAT_MISSED (e.f qfJob)
    else s) s

/-- The stop tokens of a request's set, read at once (R416). -/
def State.stopSet (s : State) (e : Req) : List Nat :=
  if e.f qfStop = 0xFF then []
  else
    let bs := s.bytes (s.f F.SRV_STOP_BASE_VA + 64 * e.f qfStop) 64
    ((List.range 16).map (fun k => leNat (slice bs (4 * k) 4))).filter (fun k => k != 0xFFFFFFFF)

/-- The tokens of a step up to the one that ends the request, and whether one does (R400): a stop token, or the one that brings the
token count to `MAX_LENGTH`. `count` is the token count before the first. -/
def cutTokens (stops : List Nat) (limit : Nat) : Nat → List Nat → List Nat × Bool
  | _, [] => ([], false)
  | count, t :: ts =>
    if stops.contains t || decide (limit ≤ count + 1) then ([t], true)
    else
      let r := cutTokens stops limit (count + 1) ts
      (t :: r.1, r.2)

/-- Tokens counted in the penalty table of a request (R394). -/
def State.countTokens (s : State) (i : Nat) (ids : List Nat) (cmd : Option (Nat × Nat)) : State :=
  let e := s.req i
  let n := e.f qfJob
  if ids.isEmpty then s
  else match s.readVirt n (e.f qfPenVa) 32768 with
    | .error x => s.accFault n x cmd
    | .ok (tb, mark) =>
      let r := penAdd (leWords 4096 tb) ids
      let s := if r.2 then s.setReq i ((s.req i).setF qfPenFull 1) else s
      match s.serveWrite n (e.f qfPenVa) (wordsBytes r.1) mark with
      | .ok t => t
      | .error (some x) => s.accFault n x cmd
      | .error none => s

/-- A saturating field of an entry. -/
def Req.addSat (e : Req) (x : ReqField) (n : Nat) : Req := e.setF x (satTo x.2.2 (e.f x + n))

/-- One output record for each committed token (R400, R401); `last` marks the last one with the status. -/
def State.writeTokens (s : State) (i acc : Nat) (st : Nat) (hit : Bool) : Nat → Nat → List Nat → State
  | _, _, [] => s
  | j, pos, t :: ts => (s.outRecord i t st (hit && ts.isEmpty) (decide (j < acc)) pos).writeTokens i acc st hit (j + 1) (pos + 1) ts

/-- The tokens that a request remembers at positions that its draft group has not cached (R388). -/
def State.remember (s : State) (i : Nat) (new : List (Nat × Nat)) : State :=
  let e := s.req i
  let keep := (mgetD s.serve.history i [] ++ new).filter (fun x => decide (e.f qfDlen ≤ x.1) || x.1 + 1 == e.f qfLength)
  { s with serve := { s.serve with history := mset s.serve.history i keep } }

/-- A chunk of a prompt or a shard, or fed tokens, entered (R400, R404). -/
def State.commitRows (s : State) (x : Item) (drafted : Bool) (cmd : Option (Nat × Nat)) : State :=
  let i := x.entry
  let e := s.req i
  let fed := e.feed.take x.rows
  let ids := if x.kind = .follow then (if e.f qfState = 11 then fed.map (fun y => y.2) else []) else s.chunkTokens i x.rows
  let e := e.setF qfLength (e.f qfLength + x.rows)
  let e := if x.kind = .follow then { e with feed := e.feed.drop x.rows } else e.setF qfPrefilled (e.f qfPrefilled + x.rows)
  let e := if drafted && x.kind != .follow && e.f qfDraft != 0x3F && e.f qfState != 11 then e.setF qfDlen (e.f qfLength) else e
  let e := if e.f qfState = 1 ∨ e.f qfState = 2 then e.setF qfState (if e.f qfPrefilled < e.f qfPromptLen then 2 else 3) else e
  let e := if x.kind = .follow ∧ e.f qfState = 11 then e.addSat qfGenerated x.rows else e
  ((s.setReq i e).remember i (if x.kind = .follow then fed else [])).countTokens i ids cmd

/-- The tokens of a decode, or the first token after a prompt, committed (R399, R400). -/
def State.commitTokens (s : State) (x : Item) (cmd : Option (Nat × Nat)) : State × Bool :=
  let i := x.entry
  let e := s.req i
  let decode := x.kind == .decode
  let old := e.f qfLength
  let base := if decode then old + e.feed.length + 1 else old
  let r := cutTokens (s.stopSet e) (e.f qfMax) base x.tokens
  let n := r.1.length
  let entered := if decode then e.feed ++ (old + e.feed.length, e.f qfPending) ::
      ((List.range (n - 1)).zip r.1).map (fun y => (base + y.1, y.2)) else []
  let e := if decode then
      let e := { e.setF qfLength (base + n - 1) with feed := [] }
      let e := e.setF qfDlen (min (e.f qfLength) (old + x.ke))
      (e.addSat qfProposed x.ke).addSat qfAccepted x.accepted
    else e
  let e := match r.1.getLast? with
    | some t => (e.setF qfPending t).setF qfPendValid 1
    | none => e
  let e := e.addSat qfGenerated n
  let s := (s.setReq i e).remember i entered
  let s := s.countTokens i r.1 cmd
  let s := if decode then (s.countWrap F.SRV_SPEC_STAT_PROPOSED 0 0 x.ke).countWrap F.SRV_SPEC_STAT_ACCEPTED 0 0 x.accepted else s
  let st := if e.f qfCancel = 1 then Status.cancelLate else .ok
  let s := s.writeTokens i x.accepted st.code r.2 0 base r.1
  (if r.2 then s.endRequest i st true else s, r.2)

/-- One included request at the commit point (R400), with its end (R408). A request whose ring's port is lost commits nothing
(R501). -/
def State.commitItem (s : State) (drafted : Bool) (cmd : Option (Nat × Nat)) (x : Item) : State :=
  if !s.itemLive x then s
  else
    let i := x.entry
    let e := s.req i
    let s := s.reserveOut (e.f qfOut) (-(e.reserved : Int))
    let e := if e.f qfState = 4 then e.setF qfState 3 else e
    let s := s.setReq i { e with inStep := false, reserved := 0 }
    match x.fault with
    | some st => s.decideEnd i (some (.ofCode st))
    | none =>
      if s.ringLost (e.f qfOut) then s.decideEnd i none
      else
        let s := if x.kind = .decode then s else s.commitRows x drafted cmd
        let s := s.setReq i ((s.req i).addSat qfSteps 1)
        let r := if x.tokens.isEmpty then (s, false) else s.commitTokens x cmd
        if r.2 then r.1 else r.1.decideEnd i none

/-- The vectors of the rings that took records since a state (R401). -/
def State.raiseRings (s old : State) : State :=
  s.serve.rings.foldl (fun s x =>
    if x.2.rseq != (old.outRing x.1).rseq && s.fb F.SRV_OUT_CTRL_IRQ_EN x.1 && decide (s.f F.SRV_OUT_CTRL_PORT x.1 < 2) then
      s.raise (s.f F.SRV_OUT_CTRL_PORT x.1) (s.f F.SRV_OUT_CTRL_VECTOR x.1)
    else s) s

/-- A `FOLLOW` entry promoted (R405): its last fed token becomes the pending token, and the fed tokens before it that it has not
entered are carried by its next step. One that has entered every token resumes from the last one entered (R403, R544). -/
def State.promoteEntry (s : State) (i : Nat) (cmd : Option (Nat × Nat)) : State :=
  let e := s.req i
  let more := decide (e.f qfPrefilled < e.f qfPromptLen)
  let st := fun (e : Req) => e.setF qfState (if e.f qfPrefilled < e.f qfPromptLen then 2 else 3)
  match e.feed.getLast? with
  | some (_, t) =>
    let ids := e.feed.map (fun x => x.2)
    let e := { ((e.setF qfPending t).setF qfPendValid 1).addSat qfGenerated ids.length with feed := e.feed.dropLast }
    (s.setReq i (st e)).countTokens i ids cmd
  | none =>
    if more then s.setReq i (st e)
    else
      let e := e.setF qfLength (e.f qfLength - 1)
      match (mgetD s.serve.history i []).find? (fun x => x.1 == e.f qfLength) with
      | some (_, t) => s.setReq i (st ((e.setF qfPending t).setF qfPendValid 1))
      | none => s.setReq i (st (e.setF qfPrefilled (e.f qfPrefilled - 1)))

/-- The promotion that a binding's commit point carries out (R405, R542). -/
def State.promoteNow (s : State) (m : Nat) (cmd : Option (Nat × Nat)) : State :=
  if !s.serve.promote.contains m then s
  else
    let es := (s.serve.reqs.filter (fun x => x.2.f qfState == 11 && x.2.f qfTarget == m && x.2.cause.isNone)).map (fun x => x.1)
    let s := es.foldl (fun s i => s.promoteEntry i cmd) s
    let s := { s with serve := { s.serve with promote := sremove s.serve.promote m } }
    if s.faults.promoting && (s.f F.FLT_PROMOTE_MASK_BINDINGS).testBit m then
      { s.setF F.FLT_PENDANT_PROMOTED 1 with faults := { s.faults with promoting := false } }
    else s

/-- The ends of the binding's other requests at its commit point (R400, R408). -/
def State.decideRest (s : State) (m : Nat) (items : List Item) : State :=
  s.serve.reqs.foldl (fun s x =>
    if x.2.live && x.2.f qfTarget == m && !items.any (fun y => y.entry == x.1) then s.decideEnd x.1 none else s) s

/-- The `SERVE_START` after its commit point (R385): it ends after its last step or a `STOP`, and forms its next batch otherwise. -/
def State.nextStep (s : State) (m : Nat) (x : ServeRun) : State :=
  let x := { x with done := x.done + 1, items := [], target := false, drafted := false, casting := false, readyAt := none, commitDue := false }
  let want := match s.flight x.q x.seq with
    | some y => y.cmd.w4.toNat
    | none => 1
  if x.stop || (want != 0 && decide (want ≤ x.done)) then s.endServe m x .ok x.done 0
  else (s.setServeRun m x).setF F.SRV_RUN_PHASE 1 m

/-- The commit point of a step (R400): every included request in batch order, then the others of the binding, and the rings' vectors. -/
def State.commitStep (s : State) (m : Nat) (x : ServeRun) : State :=
  let cmd := some (x.q, x.seq)
  let old := s
  let s := s.markDeadlines m
  let s := x.items.foldl (fun s y => s.commitItem x.drafted cmd y) s
  let s := (s.decideRest m x.items).raiseRings old
  let s := s.countWrap F.SRV_RUN_STEP m
  (s.promoteNow m cmd).nextStep m x

/-- The commit point of binding `m` that falls into the tick that ends. -/
def State.settleCommit (s : State) (m : Nat) : State :=
  match mget s.serve.runs m with
  | some x => if x.commitDue && !x.items.isEmpty && s.f F.SRV_RUN_PHASE m == 5 then s.commitStep m x else s
  | none => s

/-- The commit points that fall into the tick that ends, in ascending order of bindings. -/
def State.settleCommits (s : State) : State := (s.serve.runs.map (fun x => x.1)).foldl (fun s m => s.settleCommit m) s

/-- `COMMIT_POINT` (R386, R400): the step commits when the tick is over, for a cancel accepted in its tick binds to it (R407). A binding
that waits between steps, with a promotion pending, carries it out here too. -/
def execCommitPoint (m : BindId) (s : State) : Host.Outcome State Fault Refusal :=
  .next (match mget s.serve.runs m.val with
    | none => s
    | some x =>
      if x.items.isEmpty then
        if s.serve.promote.contains m.val then ((s.markDeadlines m.val).decideRest m.val []).promoteNow m.val (some (x.q, x.seq)) else s
      else if s.f F.SRV_RUN_PHASE m.val = 5 then s.setServeRun m.val { x with commitDue := true }
      else s)

/-! ## The feed of a follower (R403, R404) -/

/-- The slot of a feed ring that a mirror sequence takes (R403). -/
def State.feedSlot (s : State) (m n : Nat) : Nat :=
  frameAddr (s.f F.SRV_FEED_FIRST m) + 16 * ((n - 1) % feedRecords (s.f F.SRV_FEED_FRAMES_LOG2 m))

/-- The mirror sequence that a slot carries. -/
def State.feedSeq (s : State) (m n : Nat) : Nat := bitsOf (s.word (s.feedSlot m n + 8)) 32 32

/-- A feed record discarded (R404). -/
def State.feedDrop (s : State) (m : Nat) : State := s.count F.SRV_JOB_STAT_FEED_DROPS (s.f F.SRV_MODEL_CFG_OWNER_JOB m)

/-- The sequence expected next after records that a whole lap has overwritten (R403): each lost record counts. -/
def State.feedSkip : Nat → State → Nat → Nat → State × Nat
  | 0, s, _, n => (s, n)
  | fuel + 1, s, m, n => if n < s.feedSeq m n then feedSkip fuel (s.feedDrop m) m (n + 1) else (s, n)

/-- A feed record taken by its `FOLLOW` entry (R404). -/
def State.takeFeed (s : State) (m : Nat) (w0 w1 : W64) : State :=
  let i := bitsOf w0 0 16
  let tok := bitsOf w0 32 20
  let pos := bitsOf w1 0 28
  let e := s.req i
  if e.f qfState ≠ 11 ∨ e.f qfTarget ≠ m ∨ e.f qfPartner ≠ bitsOf w0 16 16 ∨ e.feedNext ≠ pos ∨ e.cause.isSome then s.feedDrop m
  else
    let e := if tok = 0xFFFFF ∧ bitOf w0 60 then e else { e with feed := e.feed ++ [(pos, tok)], feedNext := pos + 1 }
    let s := s.setReq i e
    if bitOf w0 60 then
      let s := s.setReq i { e with cause := some (bitsOf w0 52 8) }
      if s.stepFixed (s.req i) then s else s.decideEnd i none
    else s

/-- `FEED_RECORD` (R403, R404): the follower of a bound feed ring reads the slot of the sequence it expects. -/
def execFeedRecord (m : BindId) (s : State) : Host.Outcome State Fault Refusal :=
  .next (match mget s.serve.feed m.val with
    | none => s
    | some n =>
      let k := s.feedSeq m.val n
      let set := fun (s : State) (n : Nat) => { s with serve := { s.serve with feed := mset s.serve.feed m.val n } }
      if k = n then
        let a := s.feedSlot m.val n
        set (s.takeFeed m.val (s.word a) (s.word (a + 8))) (n + 1)
      else if n < k then
        let r := State.feedSkip (feedRecords (s.f F.SRV_FEED_FRAMES_LOG2 m.val)) s m.val n
        set r.1 r.2
      else s)

/-! ## Pendant promotion (R542) -/

/-- A promotion starts (R542): the trigger is noted, and `PROMOTE` is written for every binding in the mask. -/
def State.startPromotion (s : State) (trigger chip : Nat) : State :=
  let s := (s.setF F.FLT_PENDANT_STAT_TRIGGER trigger).setF F.FLT_PENDANT_STAT_TRIGGER_CHIP chip
  let s := { s with faults := { s.faults with promoting := s.f F.FLT_PROMOTE_MASK_BINDINGS != 0 } }
  (maskList (s.f F.FLT_PROMOTE_MASK_BINDINGS) 64).foldl (fun s m => s.promoteBinding m) s

end Sys2Proof.Machine
end

