-- ==== Sys2Proof/Machine/Coll.lean ====
section
/-! DEFINITION. The collective engine: groups (R476), `COLLECTIVE` and its operations (R474 to R480), broadcast trees (R483), NaN events
(R484), the limits and losses of R479, R483 and R485, and the messages `COLL_STEP` and `COLL_CREDIT` (R478, R479). -/

namespace Sys2Proof.Machine

/-! ## Groups (R476) -/

/-- `M` of collective group `g`. -/
def State.collMembers (s : State) (g : Nat) : Nat := s.f F.ALT_CG_CFG_MEMBERS_M1 g + 1
/-- This member's index. -/
def State.collIndex (s : State) (g : Nat) : Nat := s.f F.ALT_CG_CFG_INDEX g
/-- Whether group `g` is a list. -/
def State.collIsList (s : State) (g : Nat) : Bool := s.fb F.ALT_CG_CFG_KIND g
/-- `W` of a rectangle. -/
def State.collW (s : State) (g : Nat) : Nat := s.f F.ALT_CG_GEOM_W_M1 g + 1
/-- `H` of a rectangle. -/
def State.collH (s : State) (g : Nat) : Nat := s.f F.ALT_CG_GEOM_H_M1 g + 1

/-- The chip of member `k` (R440, R476). -/
def State.collChip (s : State) (g k : Nat) : Nat :=
  if s.collIsList g then nth (mgetD s.coll.lists g []) k 0
  else
    let x := s.f F.ALT_CG_GEOM_X0 g + k % s.collW g
    let y := s.f F.ALT_CG_GEOM_Y0 g + k / s.collW g
    s.f F.ALT_MESH_BASE + y * (s.f F.ALT_MESH_W_M1 + 1) + x

/-- The chips of a group in member order. -/
def State.collChips (s : State) (g : Nat) : List Nat := (List.range (s.collMembers g)).map (s.collChip g)

/-- The group with a `GID` (R466: the matching group authorises a step). -/
def State.collGroup (s : State) (gid : Nat) : Option Nat :=
  (List.range 64).find? (fun g => s.fb F.ALT_CG_CFG_VALID g && s.f F.ALT_CG_CFG_GID g == gid)

/-! ## Entries (R479) -/

/-- A pending collective replaced. -/
def State.setColl (s : State) (e : Nat) (x : CollEntry) : State :=
  { s with coll := { s.coll with entries := mset s.coll.entries e x } }

/-- `PENDING` brought up to date (R488). -/
def State.refreshColl (s : State) : State := s.setF F.ALT_COLL_STAT_PENDING s.coll.entries.length

/-- A pending collective gone. -/
def State.dropColl (s : State) (e : Nat) : State :=
  { s with coll := { s.coll with entries := merase s.coll.entries e } }.refreshColl

/-- The pending collective with a tag, with its slot. -/
def State.collTag (s : State) (gid seq : Nat) : Option (Nat × CollEntry) :=
  s.coll.entries.find? (fun x => x.2.gid == gid && x.2.seq == seq)

/-- A free slot of the four (R479). -/
def State.collSlot (s : State) : Option Nat := (List.range 4).find? (fun e => (mget s.coll.entries e).isNone)

/-- Whether group `g` has a collective pending (R490). -/
def State.collPending (s : State) (g : Nat) : Bool := s.coll.entries.any (fun x => x.2.group == g)

/-- The fields of R478 that a `COLLECTIVE` of group `g` carries. -/
def State.collKey (s : State) (g : Nat) (r : Rec) : CollKey where
  oper := bitsOf r.w3 0 4
  red := bitsOf r.w3 4 2
  fmt := bitsOf r.w3 6 4
  ordered := bitOf r.w3 10
  bytes := bitsOf r.w6 0 40
  members := s.collMembers g
  root := bitsOf r.w3 18 12
  listCrc := s.f F.ALT_CG_STAT_LIST_CRC g

/-! ## What each member reads and writes (R475) -/

/-- Bytes of the source on this member; none for a `BARRIER`, and for a `BROADCAST` away from the root. -/
def CollKey.srcBytes (k : CollKey) (index : Nat) : Nat :=
  match k.oper with
  | 0 | 1 | 2 => k.bytes
  | 3 => if index = k.root then k.bytes else 0
  | 4 => k.members * k.bytes
  | _ => 0

/-- Bytes of the destination on each member. -/
def CollKey.dstBytes (k : CollKey) : Nat :=
  match k.oper with
  | 0 | 3 => k.bytes
  | 1 => k.bytes / k.members
  | 2 | 4 => k.members * k.bytes
  | _ => 0

/-- Whether an operation reduces. -/
def CollKey.reduces (k : CollKey) : Bool := decide (k.oper < 2)

/-- Bytes of an element of the operation's format. -/
def CollKey.elem (k : CollKey) : Nat := fmtBits k.fmt / 8

/-- Whether an operation runs one-shot (R480). `ALL_TO_ALL` has nothing to pass around: its parts go straight to their members. -/
def State.collOneShot (s : State) (k : CollKey) : Bool :=
  decide (k.bytes * (k.members - 1) ≤ s.f F.ALT_COLL_CFG_ONESHOT_KIB * 1024) || k.oper == 5 || k.oper == 4

/-- What this member sends to member `j` in one-shot, as a range of its source. -/
def CollKey.contribution (k : CollKey) (j : Nat) : Nat × Nat :=
  match k.oper with
  | 0 | 2 => (0, k.bytes)
  | 1 => (j * (k.bytes / k.members), k.bytes / k.members)
  | 4 => (j * k.bytes, k.bytes)
  | _ => (0, 0)

/-! ## Passes around the member order (R480) -/

/-- A step of a pass on this member: whether it combines, whom it sends to and receives from, and the parts sent and received. -/
structure PassStep where
  reduce : Bool
  dest : Nat
  source : Nat
  send : List Nat
  recv : List Nat
  deriving DecidableEq, Repr

/-- The steps of one pass along a line of members, at position `p`; chunk `c` consists of the parts `ch c`. -/
def lineSteps (reduce : Bool) (line : List Nat) (p : Nat) (ch : Nat → List Nat) : List PassStep :=
  let n := line.length
  (List.range (n - 1)).map fun t =>
    let a := if reduce then (p + 2 * n - 1 - t) % n else (p + n - t) % n
    { reduce := reduce, dest := nth line ((p + 1) % n) 0, source := nth line ((p + n - 1) % n) 0
      send := ch a, recv := ch ((a + n - 1) % n) }

/-- The steps of every pass of an operation on this member: the whole order for a list, rows and then columns for a rectangle, and back
for the gather. -/
def State.passSteps (s : State) (g : Nat) (k : CollKey) : List PassStep :=
  let own := s.collIndex g
  let all := List.range (s.collMembers g)
  let w := s.collW g
  let h := s.collH g
  let row := (List.range w).map (fun x => own / w * w + x)
  let col := (List.range h).map (fun y => y * w + own % w)
  let rowCh := fun c => (List.range h).map (fun y => y * w + c)
  let colCh := fun c => [c * w + own % w]
  let reduce := if s.collIsList g then lineSteps true all own (fun c => [c])
    else lineSteps true row (own % w) rowCh ++ lineSteps true col (own / w) colCh
  let gather := if s.collIsList g then lineSteps false all own (fun c => [c])
    else lineSteps false col (own / w) colCh ++ lineSteps false row (own % w) rowCh
  match k.oper with
  | 0 => reduce ++ gather
  | 1 => reduce
  | 2 => gather
  | _ => []

/-- Part `i` of the data worked on, as a range of bytes: elements of 4 bytes are divided evenly in a reduction, and part `i` of a gather
is member `i`'s source. -/
def CollKey.partRange (k : CollKey) (i : Nat) : Nat × Nat :=
  if k.reduces then
    let n := k.bytes / max 1 k.elem
    (4 * (i * n / k.members), 4 * ((i + 1) * n / k.members) - 4 * (i * n / k.members))
  else (i * k.bytes, k.bytes)

/-- Bytes with marks from a place of a buffer. -/
def cutMarked (b : List (Byte × Bool)) (off n : Nat) : List (Byte × Bool) := (b.drop off).take n

/-- Bytes with marks written over a buffer. -/
def putMarked (b : List (Byte × Bool)) (off : Nat) (x : List (Byte × Bool)) : List (Byte × Bool) :=
  b.take off ++ x ++ b.drop (off + x.length)

/-- The parts of the data worked on, one after another. -/
def CollKey.partsOf (k : CollKey) (b : List (Byte × Bool)) (ps : List Nat) : List (Byte × Bool) :=
  ps.flatMap (fun i => cutMarked b (k.partRange i).1 (k.partRange i).2)

/-! ## Combining (R480, R484) -/

/-- The `FP32` value of an element. -/
def widenElem (fmt : Nat) (bs : List Byte) : W32 := toF32 (decodeNum fmt (leNat bs))

/-- A source widened to `FP32`, with marks. -/
def widenMarked (k : CollKey) (b : List (Byte × Bool)) : List (Byte × Bool) :=
  (List.range (b.length / max 1 k.elem)).flatMap fun i =>
    let x := cutMarked b (i * k.elem) k.elem
    let m := x.any (fun y => y.2)
    (leBytes 4 (widenElem k.fmt (x.map (fun y => y.1))).toNat).map (fun y => (y, m))

/-- `FP32` data narrowed to the operation's format (R244), with marks. -/
def narrowMarked (k : CollKey) (b : List (Byte × Bool)) : List (Byte × Bool) :=
  (List.range (b.length / 4)).flatMap fun i =>
    let x := cutMarked b (4 * i) 4
    let m := x.any (fun y => y.2)
    (leBytes k.elem (encodeNum k.fmt (ofF32 (BitVec.ofNat 32 (leNat (x.map (fun y => y.1))))))).map (fun y => (y, m))

/-- One combination of R480: sum, maximum or minimum; the minimum follows the rule of `MAX` on negated values. -/
def combine (red : Nat) (a b : W32) : W32 :=
  let neg := fun (x : W32) => x ^^^ 0x80000000#32
  match red with
  | 0 => f32Add a b
  | 1 => f32Max a b
  | _ => let r := f32Max (neg a) (neg b); if (ofF32 r).isNan then r else neg r

/-- Two buffers of `FP32` combined, the first holding the partial, with the NaN events met; `base` is the index of the first element. -/
def combineMarked (red base : Nat) (a b : List (Byte × Bool)) : List (Byte × Bool) × List NanEvent :=
  let rs := (List.range (a.length / 4)).map fun i =>
    let x := cutMarked a (4 * i) 4
    let y := cutMarked b (4 * i) 4
    let u : W32 := BitVec.ofNat 32 (leNat (x.map (fun z => z.1)))
    let v : W32 := BitVec.ofNat 32 (leNat (y.map (fun z => z.1)))
    let r := combine red u v
    let m := x.any (fun z => z.2) || y.any (fun z => z.2)
    let ev : List NanEvent := if (ofF32 u).isNan || (ofF32 v).isNan || (ofF32 r).isNan then
      [{ firing := 0, stage := 5, src0 := u.toNat, src1 := v.toNat, src2 := (base + i) % 2 ^ 32, result := 0x7FC00000 }] else []
    ((leBytes 4 r.toNat).map (fun z => (z, m)), ev)
  (rs.flatMap (fun z => z.1), rs.flatMap (fun z => z.2))

/-- Contributions combined in a given order. -/
def combineAll (red base : Nat) : List (List (Byte × Bool)) → List (Byte × Bool) × List NanEvent
  | [] => ([], [])
  | x :: t => t.foldl (fun a y =>
      let r := combineMarked red base a.1 y
      (r.1, a.2 ++ r.2)) (x, [])

/-! ## Messages (R442, R478) -/

/-- The messages of some data: at most 4,096 bytes each, and one empty message where there is nothing to carry. -/
def collCut (stage : Nat) (b : List (Byte × Bool)) : List CollPiece :=
  (List.range (max 1 (ceilDiv b.length 4096))).map fun i =>
    let x := cutMarked b (4096 * i) 4096
    { stage := stage, offset := 4096 * i, data := x.map (fun y => y.1), poison := x.any (fun y => y.2) }

/-- A `COLL_STEP` sent to member `j`. -/
def State.collSend (s : State) (x : CollEntry) (j : Nat) (p : CollPiece) : State × Sent :=
  let k := x.key
  s.sendPlainRoute { OutMsg.blank with
    op := 0x18, src := s.chip, dst := s.collChip x.group j, vc := 4, poison := p.poison, job := s.f F.ALT_CG_CFG_OWNER_JOB x.group
    extra := [x.gid, x.seq, p.stage, s.collIndex x.group, k.oper, k.red, k.fmt, if k.ordered then 1 else 0, k.bytes, k.members,
              k.root, k.listCrc, p.offset]
    data := p.data }

/-- A `COLL_CREDIT` sent to member `j` of group `g`: a credit, or the reason for which its step is refused or its branch cut. -/
def State.collAnswer (s : State) (g gid seq j code : Nat) : State :=
  (s.sendPlainRoute { OutMsg.blank with
    op := 0x19, src := s.chip, dst := s.collChip g j, vc := 4, job := s.f F.ALT_CG_CFG_OWNER_JOB g
    extra := [gid, seq, s.collIndex g, code] }).1

/-! ## Trees (R483) -/

/-- The children of a member in the tree of a `BROADCAST`. In a rectangle the data travels along the root's row, and from each row
member along its column, from neighbour to neighbour. -/
def State.treeChildren (s : State) (g : Nat) (k : CollKey) (i : Nat) : List Nat :=
  if s.collIsList g then
    let p := (i + k.members - k.root) % k.members
    ([2 * p + 1, 2 * p + 2].filter (fun c => decide (c < k.members))).map (fun c => (c + k.root) % k.members)
  else
    let w := s.collW g
    let h := s.collH g
    let x := i % w
    let y := i / w
    let rx := k.root % w
    let ry := k.root / w
    let east := if y = ry ∧ rx ≤ x ∧ x + 1 < w then [i + 1] else []
    let west := if y = ry ∧ x ≤ rx ∧ 0 < x then [i - 1] else []
    let north := if ry ≤ y ∧ y + 1 < h then [i + w] else []
    let south := if y ≤ ry ∧ 0 < y then [i - w] else []
    east ++ west ++ north ++ south

/-- The parent of a member; none for the root. -/
def State.treeParent (s : State) (g : Nat) (k : CollKey) (i : Nat) : Option Nat :=
  (List.range k.members).find? (fun p => (s.treeChildren g k p).contains i)

/-- Whether member `a` is `b` or lies above it; `fuel` bounds the height. -/
def State.treeAbove (s : State) (g : Nat) (k : CollKey) (a : Nat) : Nat → Nat → Bool
  | 0, b => a == b
  | fuel + 1, b => a == b || match s.treeParent g k b with
    | some p => s.treeAbove g k a fuel p
    | none => false

/-! ## Ends -/

/-- The branches of an entry cut (R483): each child learns that it is a laggard. -/
def State.cutBranches (s : State) (x : CollEntry) : State :=
  if x.key.oper = 3 ∧ x.detach then
    (x.flows.filter (fun f => !f.cut)).foldl (fun s f => s.collAnswer x.group x.gid x.seq f.dest 3) s
  else s

/-- A pending collective ends with a status that is not success (R470, R479, R483, R485): at once where its command has started;
otherwise the status waits for the start. -/
def State.failColl (s : State) (e : Nat) (x : CollEntry) (st : Status) (detail : W64 := 0) : State :=
  match x.started with
  | none => s.setColl e { x with status := some st.code, detail := detail }
  | some (q, seq) =>
    let st' := if x.status = some Status.nanTrap.code ∧ st = .collOrder then .nanTrap else st
    let s := if st' = .collOrder then s.count F.ALT_COLL_STAT_ORDER_FAILS else s
    (s.dropColl e).finishFlight q seq st' 0 (if st' = .nanTrap then x.detail else detail)

/-- The overlap of two ranges as a first byte and a length. -/
def overlap (a n b m : Nat) : Nat × Nat :=
  let lo := max a b
  let hi := min (a + n) (b + m)
  (lo, hi - lo)

/-- Bytes that a source and destination that overlap otherwise than R475 allows leave unpredictable: they are free. -/
def State.unpredictable (s : State) (k : CollKey) (index src dst : Nat) (bs : List (Byte × Bool)) : State × List (Byte × Bool) :=
  let n := k.srcBytes index
  let o := overlap src n dst k.dstBytes
  if o.2 = 0 ∨ (src = dst ∧ (k.oper = 0 ∨ k.oper = 3)) then (s, bs)
  else
    let free := (List.range o.2).map (fun i => (BitVec.ofNat 8 (s.free / 256 ^ i), false))
    (s.drawn, putMarked bs (o.1 - dst) free)

/-- Bytes with marks written at a virtual address (R98, R524). -/
def State.writeMarked (s : State) (n va : Nat) (b : List (Byte × Bool)) : Except (Option AccErr) State :=
  match s.serveWrite n va (b.map (fun x => x.1)) false with
  | .error e => .error e
  | .ok s => (List.range (ceilDiv b.length 64)).foldl (fun a i =>
      let x := cutMarked b (64 * i) 64
      match a with
      | .error e => .error e
      | .ok s => if x.any (fun y => y.2) then s.serveWrite n (va + 64 * i) (x.map (fun y => y.1)) true else .ok s) (.ok s)

/-- A collective ended by an access that stopped. -/
def State.collAccess (s : State) (e : Nat) (x : CollEntry) (err : Option AccErr) (word : Nat) : State :=
  let n := s.f F.ALT_CG_CFG_OWNER_JOB x.group
  match err with
  | none => s.failColl e x .poisoned
  | some a => (s.accFault n a x.started).failColl e x a.status (s.accDetail a word)

/-! ## Progress -/

/-- The record of a started entry. -/
def State.collRec (s : State) (x : CollEntry) : Option Rec :=
  match x.started with
  | some (q, seq) => (s.flight q seq).map (fun y => y.cmd)
  | none => none

/-- NaN events of an entry recorded (R484): in `TRAP` mode the entry ends `NAN_TRAP` once it has run to its end; the events that follow
the first of them count, with no further fault (R249, R250). -/
def State.collNan (s : State) (x : CollEntry) (es : List NanEvent) : State × CollEntry :=
  let n := s.f F.ALT_CG_CFG_OWNER_JOB x.group
  match es.head?, x.status == some Status.nanTrap.code with
  | some e, true => (s.nanRecord n false (.engine 2) e es.length, x)
  | _, _ =>
    let r := s.engineNan n 2 es x.started
    match r.2 with
    | some d => (r.1, if x.status.isSome then x else { x with status := some Status.nanTrap.code, detail := d })
    | none => (r.1, x)

/-- What has been received from a sender for a stage. -/
def CollEntry.received (x : CollEntry) (stage src : Nat) : Option (List (Byte × Bool)) := mget x.inbox (4096 * stage + src)

/-- Pieces put on the flow to a member, which is opened where there is none. -/
def CollEntry.push (x : CollEntry) (j : Nat) (ps : List CollPiece) : CollEntry :=
  if x.flows.any (fun f => f.dest == j) then
    { x with flows := x.flows.map (fun f => if f.dest = j then { f with out := f.out ++ ps } else f) }
  else { x with flows := x.flows ++ [{ dest := j, out := ps, open_ := 0, fullSince := none, cut := false }] }

/-- The destination written with the whole result (R475, R480). -/
def State.collWrite (s : State) (e : Nat) (x : CollEntry) (bs : List (Byte × Bool)) : State :=
  match s.collRec x with
  | none => s
  | some r =>
    let n := s.f F.ALT_CG_CFG_OWNER_JOB x.group
    let z := s.unpredictable x.key (s.collIndex x.group) r.w4.toNat r.w5.toNat bs
    match z.1.writeMarked n r.w5.toNat z.2 with
    | .error err => z.1.collAccess e x err 5
    | .ok t => t.setColl e { x with written := true }

/-- The result of a one-shot once every contribution is whole (R475, R480). -/
def State.collCombine (s : State) (e : Nat) (x : CollEntry) : State :=
  let k := x.key
  let own := s.collIndex x.group
  let from_ := fun j => if j = own then cutMarked x.work (k.contribution own).1 (k.contribution own).2 else (x.received 0 j).getD []
  let order := if k.ordered then List.range k.members else own :: x.whole
  match k.oper with
  | 0 | 1 =>
    let r := combineAll k.red ((if k.oper = 1 then (k.contribution own).1 else 0) / max 1 k.elem) (order.map (fun j => widenMarked k (from_ j)))
    let y := s.collNan x r.2
    y.1.collWrite e y.2 (narrowMarked k r.1)
  | 2 | 4 => s.collWrite e x ((List.range k.members).flatMap from_)
  | _ => s.setColl e { x with written := true }

/-- One step of a pass taken where its data is whole (R480): combined or stored, and the next one's data sent. DEDUCED: the partial of
R484 is what this member holds, and the incoming value what has arrived. -/
def State.passAdvance (s : State) (e : Nat) (x : CollEntry) (steps : List PassStep) : Option State :=
  match steps[x.stage]? with
  | none => none
  | some p =>
    match x.received (1 + x.stage) p.source with
    | none => none
    | some d =>
      let k := x.key
      if d.length < (k.partsOf x.work p.recv).length then none
      else
        let r := p.recv.foldl (fun (a : List (Byte × Bool) × List NanEvent × Nat) i =>
          let g := k.partRange i
          let inc := cutMarked d a.2.2 g.2
          if p.reduce then
            let c := combineMarked k.red (g.1 / 4) (cutMarked a.1 g.1 g.2) inc
            (putMarked a.1 g.1 c.1, a.2.1 ++ c.2, a.2.2 + g.2)
          else (putMarked a.1 g.1 inc, a.2.1, a.2.2 + g.2)) (x.work, [], 0)
        let y := s.collNan { x with work := r.1, stage := x.stage + 1 } r.2.1
        let z := match steps[y.2.stage]? with
          | some n => y.2.push n.dest (collCut (1 + y.2.stage) (k.partsOf y.2.work n.send))
          | none => y.2
        some (y.1.setColl e z)

/-- The result of the passes (R475). -/
def CollEntry.passResult (x : CollEntry) (own : Nat) : List (Byte × Bool) :=
  match x.key.oper with
  | 0 => narrowMarked x.key x.work
  | 1 => narrowMarked x.key (cutMarked x.work (x.key.partRange own).1 (x.key.partRange own).2)
  | _ => x.work

/-- The steps of the passes taken as far as their data has come; `fuel` bounds them. -/
def State.passPump (e : Nat) (steps : List PassStep) : Nat → State → State
  | 0, s => s
  | fuel + 1, s =>
    match mget s.coll.entries e with
    | none => s
    | some x =>
      if steps.length ≤ x.stage ∧ !x.written then s.collWrite e x (x.passResult (s.collIndex x.group))
      else match s.passAdvance e x steps with
        | some t => passPump e steps fuel t
        | none => s

/-- The data of a `BROADCAST` that has come since the last look, written and put on the branches (R483). -/
def State.treeAdvance (s : State) (e : Nat) (x : CollEntry) : State :=
  match s.treeParent x.group x.key (s.collIndex x.group), s.collRec x with
  | some p, some r =>
    let d := (x.received 0 p).getD []
    let new := d.drop x.stage
    let done := { x with stage := d.length, written := decide (x.key.bytes ≤ d.length) }
    if new.isEmpty then s.setColl e done
    else match s.writeMarked (s.f F.ALT_CG_CFG_OWNER_JOB x.group) (r.w5.toNat + x.stage) new with
      | .error err => s.collAccess e x err 5
      | .ok t =>
        let ps := (collCut 0 new).map (fun c => { c with offset := c.offset + x.stage })
        t.setColl e ((s.treeChildren x.group x.key (s.collIndex x.group)).foldl (fun y j => y.push j ps) done)
  | _, _ => s

/-- Messages a flow may have open before it is full: 256 KiB (R483). -/
def collWindow : Nat := 64

/-- Whether every branch of a `STALL` broadcast has room: a full branch holds the parent (R483). -/
def CollEntry.branchesOpen (x : CollEntry) : Bool :=
  x.key.oper != 3 || x.detach || x.flows.all (fun f => f.cut || decide (f.open_ < collWindow))

/-- The flow that can send next: it has something to send, room in its window, and, in a `STALL` broadcast, as much left to send as any
other branch. -/
def CollEntry.nextFlow (x : CollEntry) : Option CollFlow :=
  if !x.branchesOpen then none
  else
    let most := x.flows.foldl (fun a f => max a f.out.length) 0
    x.flows.find? (fun f => !f.cut && !f.out.isEmpty && decide (f.open_ < collWindow) &&
      (x.key.oper != 3 || x.detach || f.out.length == most))

/-- Everything sent that the windows allow (R479, R483); `fuel` bounds the messages. -/
def State.flowPump (e : Nat) : Nat → State → State
  | 0, s => s
  | fuel + 1, s =>
    match mget s.coll.entries e with
    | none => s
    | some x => match x.nextFlow with
      | none => s
      | some f => match f.out with
        | [] => s
        | p :: t =>
          match s.collSend x f.dest p with
          | (s, .sent) =>
            let n := f.open_ + 1
            let f' := { f with out := t, open_ := n, fullSince := if n = collWindow then some s.now else none }
            flowPump e fuel (s.setColl e { x with flows := x.flows.map (fun y => if y.dest = f.dest then f' else y) })
          | (s, .fenced) => s.failColl e x .fenced
          | (s, .unreachable) => s.failColl e x .memberLost

/-- Credits returned for data that has been taken (R479, R483): in a `STALL` broadcast only as far as the branches have taken it on. -/
def State.creditPump (s : State) (e : Nat) : State :=
  match mget s.coll.entries e with
  | none => s
  | some x =>
    if x.started.isNone then s
    else
      let hold := if x.key.oper = 3 ∧ !x.detach then x.flows.foldl (fun a f => max a f.out.length) 0 else 0
      let due := x.early.map (fun y => (y.1, y.2 - hold))
      let s := due.foldl (fun s y => (List.range y.2).foldl (fun s _ => s.collAnswer x.group x.gid x.seq y.1 0) s) s
      s.setColl e { x with early := x.early.map (fun y => (y.1, min y.2 hold)) }

/-- The members whose contributions a one-shot of this member waits for. -/
def State.contributors (s : State) (x : CollEntry) : List Nat :=
  (List.range x.key.members).filter (fun j => j != s.collIndex x.group)

/-- A started entry moved on as far as it goes, and completed once its data is written and everything sent is credited (R462, R480). -/
def State.collPump (s : State) (e : Nat) : State :=
  match mget s.coll.entries e with
  | none => s
  | some x =>
    if x.started.isNone then s
    else
      let s :=
        if x.key.oper = 3 then (if x.written then s else s.treeAdvance e x)
        else if x.oneShot then
          (if !x.written && (s.contributors x).all (fun j => x.whole.contains j) then s.collCombine e x else s)
        else
          let steps := s.passSteps x.group x.key
          passPump e steps (steps.length + 2) s
      let s := (flowPump e 100000 s).creditPump e
      match mget s.coll.entries e with
      | none => s
      | some x => match x.started with
        | none => s
        | some (q, seq) =>
          if x.written && x.flows.all (fun f => f.cut || (f.out.isEmpty && f.open_ == 0)) then
            (s.dropColl e).finishFlight q seq (match x.status with
              | some k => .ofCode k
              | none => .ok) 0 x.detail
          else s

/-! ## COLLECTIVE (R474, R477) -/

/-- `OPER`. -/
def Rec.collOper (r : Rec) : Nat := bitsOf r.w3 0 4
/-- `GROUP`. -/
def Rec.collGroupOf (r : Rec) : Nat := bitsOf r.w3 12 6

/-- The encoding checks of R477. -/
def collEncoding (s : State) (_n : Nat) (r : Rec) : Option W64 :=
  let o := r.collOper
  let g := r.collGroupOf
  let m := s.collMembers g
  let b := bitsOf r.w6 0 40
  match reservedField [(3, 30, 34), (6, 40, 24)] r with
  | some d => some d
  | none =>
    if 5 < o then some (badField 3 0)
    else if !s.fb F.ALT_CG_CFG_VALID g then some (badField 3 12)
    else if (if o < 2 then decide (2 < bitsOf r.w3 4 2) else bitsOf r.w3 4 2 != 0) then some (badField 3 4)
    else if (if o < 2 then decide (2 < bitsOf r.w3 6 4) else bitsOf r.w3 6 4 != 10) then some (badField 3 6)
    else if bitOf r.w3 10 && decide (2 ≤ o) then some (badField 3 10)
    else if bitOf r.w3 11 && o != 3 then some (badField 3 11)
    else if (if o = 3 then decide (m ≤ bitsOf r.w3 18 12) else bitsOf r.w3 18 12 != 0) then some (badField 3 18)
    else if o = 5 then
      (if r.w4 ≠ 0 then some (badField 4 0) else if r.w5 ≠ 0 then some (badField 5 0) else if b ≠ 0 then some (badField 6 0) else none)
    else if r.w4.toNat % 64 ≠ 0 then some (badField 4 0)
    else if r.w5.toNat % 64 ≠ 0 then some (badField 5 0)
    else if b = 0 ∨ b % 64 ≠ 0 ∨ 2 ^ 36 < b ∨ (o = 1 ∧ (b % m ≠ 0 ∨ b / m % 64 ≠ 0)) then some (badField 6 0)
    else none

/-- Bytes of a virtual range with the poison mark of each byte. -/
def State.readMarked (s : State) (n va len : Nat) : Except AccErr (List (Byte × Bool)) :=
  match s.readVirt n va len with
  | .error e => .error e
  | .ok (bs, false) => .ok (bs.map (fun b => (b, false)))
  | .ok (bs, true) =>
    let marks := (List.range (ceilDiv len 64)).map (fun i => match s.readVirt n (va + 64 * i) (min 64 (len - 64 * i)) with
      | .ok (_, m) => m
      | .error _ => false)
    .ok ((indexed bs).map (fun x => (x.2, nth marks (x.1 / 64) false)))

/-- An entry for a tag (R479). -/
def CollEntry.fresh (gid seq : Nat) (k : CollKey) (g now : Nat) : CollEntry where
  gid := gid
  seq := seq
  key := k
  group := g
  started := none
  detach := false
  oneShot := false
  created := now
  inbox := []
  whole := []
  seen := []
  early := []
  work := []
  stage := 0
  written := false
  flows := []
  status := none
  detail := 0

/-- What a started entry sends first and works on: its contributions, the first step of its passes, or the root's data (R480, R483). -/
def State.collOpen (s : State) (x : CollEntry) (src : List (Byte × Bool)) : CollEntry :=
  let k := x.key
  let own := s.collIndex x.group
  if k.oper = 3 then
    let x := (s.treeChildren x.group k own).foldl (fun y j => y.push j []) x
    if own = k.root then (s.treeChildren x.group k own).foldl (fun y j => y.push j (collCut 0 src)) x else x
  else if x.oneShot then
    (s.contributors x).foldl (fun y j =>
      y.push j (collCut 0 (cutMarked src (k.contribution j).1 (k.contribution j).2))) { x with work := src }
  else
    let work := if k.reduces then widenMarked k src
      else (List.range k.members).flatMap (fun j => if j = own then src else List.replicate k.bytes (0#8, false))
    let x := { x with work := work }
    match (s.passSteps x.group k).head? with
    | some p => x.push p.dest (collCut 1 (k.partsOf work p.send))
    | none => x

/-- A started entry read, opened and moved on. The root of a `BROADCAST` writes its own destination at once (R475). -/
def State.collBegin (s : State) (e : Nat) (x : CollEntry) (n : Nat) (r : Rec) : State :=
  let k := x.key
  let own := s.collIndex x.group
  let root := k.oper == 3 && own == k.root
  match s.readMarked n r.w4.toNat (k.srcBytes own), s.range n r.w5.toNat k.dstBytes true with
  | .error a, _ => s.collAccess e x (some a) 4
  | _, .error a => s.collAccess e x (some a) 5
  | .ok src, .ok _ =>
    let y := s.collOpen x src
    let s := s.setColl e y
    (if root then s.collWrite e y src else s).collPump e

/-- `COLLECTIVE` runs (R478, R479, R485): it takes the group's next `SEQ`, and starts, joins a pending entry, or fails. -/
def State.runColl (s : State) (q seq : Nat) (r : Rec) : State :=
  let g := r.collGroupOf
  let n := s.queueJob q
  let k := s.collKey g r
  let gid := s.f F.ALT_CG_CFG_GID g
  let tag := s.f F.ALT_CG_STAT_SEQ g
  let s := s.setF F.ALT_CG_STAT_SEQ ((tag + 1) % 2 ^ 32) g
  let join := fun (s : State) (e : Nat) (x : CollEntry) =>
    let x := { x with started := some (q, seq), detach := bitOf r.w3 11, oneShot := s.collOneShot k }
    (s.setColl e x).collBegin e x n r
  if !(s.collChips g).all s.inFence then s.finishFlight q seq .fenced
  else match s.collTag gid tag with
    | some (e, x) =>
      match x.status with
      | some st => (s.dropColl e).finishFlight q seq (.ofCode st) 0 x.detail
      | none =>
        if x.key = k then join s e x
        else
          let s := x.seen.foldl (fun s j => s.collAnswer g gid tag j 1) s
          (s.dropColl e).finishFlight q seq .badCommand
    | none =>
      match s.collSlot with
      | none => (s.count F.ALT_COLL_STAT_ORDER_FAILS).finishFlight q seq .collOrder
      | some e =>
        let x := CollEntry.fresh gid tag k g s.now
        join (s.setColl e x).refreshColl e x

/-- Whether a commit changes a collective group or the ports (R485). -/
def collTouches (s : State) (_q : Nat) (r : Rec) (t : Tx) : Bool :=
  let g := r.collGroupOf
  t.staged.any fun x =>
    ((decide (R.ALT_CG_CFG.at g ≤ x.off) && decide (x.off < R.ALT_CG_CFG.at g + 0x20)) ||
     (decide (R.ALT_PORT_CFG.at 0 ≤ x.off) && decide (x.off < R.ALT_PORT_CFG.at 0 + 0x80))) &&
    mergeMask (s.reg x.off) x.value x.mask != s.reg x.off

/-- `COLLECTIVE` (R474, R477). -/
def specColl : CmdSpec :=
  { CmdSpec.plain [] State.runColl with
    encoding := collEncoding
    owns := fun s q r => s.f F.ALT_CG_CFG_OWNER_JOB r.collGroupOf == s.queueJob q
    touches := collTouches
    engine := 3 }

/-- `ALL_REDUCE` (R475). A `COLLECTIVE` with an undefined operation is taken here too. -/
def execAllReduce (q : QId) (s : State) : Host.Outcome State Fault Refusal :=
  .next (s.queueCommand specColl (fun r => r.opcode == 0x20 && (r.collOper == 0 || decide (5 < r.collOper))) q.val)

/-- `REDUCE_SCATTER` (R475). -/
def execReduceScatter (q : QId) (s : State) : Host.Outcome State Fault Refusal :=
  .next (s.queueCommand specColl (fun r => r.opcode == 0x20 && r.collOper == 1) q.val)

/-- `ALL_GATHER` (R475). -/
def execAllGather (q : QId) (s : State) : Host.Outcome State Fault Refusal :=
  .next (s.queueCommand specColl (fun r => r.opcode == 0x20 && r.collOper == 2) q.val)

/-- `BROADCAST` (R475, R483). -/
def execBroadcast (q : QId) (s : State) : Host.Outcome State Fault Refusal :=
  .next (s.queueCommand specColl (fun r => r.opcode == 0x20 && r.collOper == 3) q.val)

/-- `ALL_TO_ALL` (R475). -/
def execAllToAll (q : QId) (s : State) : Host.Outcome State Fault Refusal :=
  .next (s.queueCommand specColl (fun r => r.opcode == 0x20 && r.collOper == 4) q.val)

/-- `BARRIER` (R475). -/
def execBarrier (q : QId) (s : State) : Host.Outcome State Fault Refusal :=
  .next (s.queueCommand specColl (fun r => r.opcode == 0x20 && r.collOper == 5) q.val)

/-! ## Steps and credits (R478, R479, R483) -/

/-- The fields of R478 that a step carries. -/
def stepKey (m : CollStepMsg) : CollKey where
  oper := m.oper
  red := m.red
  fmt := m.fmt
  ordered := m.ordered
  bytes := m.bytes
  members := m.members
  root := m.root
  listCrc := m.listCrc.toNat

/-- The bytes that a whole contribution to member `own` has in one-shot. -/
def CollKey.wholeBytes (k : CollKey) (own : Nat) : Nat := (k.contribution own).2

/-- A step taken into an entry: its data, who was heard, and whose contribution is now whole. -/
def CollEntry.takeStep (x : CollEntry) (own : Nat) (m : CollStepMsg) : CollEntry :=
  let key := 4096 * m.stage + m.src
  let d := mgetD x.inbox key [] ++ m.data.map (fun b => (b, m.poison))
  { x with
    inbox := mset x.inbox key d
    seen := sinsert x.seen m.src
    whole := if m.stage = 0 ∧ x.key.wholeBytes own ≤ d.length ∧ !x.whole.contains m.src then x.whole ++ [m.src] else x.whole
    early := mset x.early m.src (mgetD x.early m.src 0 + 1) }

/-- A step that its tag's entry refuses (R478): both members complete `BAD_COMMAND`. -/
def State.collDisagree (s : State) (e : Nat) (x : CollEntry) (src : Nat) : State :=
  (s.collAnswer x.group x.gid x.seq src 1).failColl e x .badCommand

/-- A step of group `g` (R478, R479): it joins its entry, opens one, or is refused or discarded. A step of a finished collective is counted
in `LATE`. -/
def State.collReceive (s : State) (g : Nat) (m : CollStepMsg) : State :=
  let own := s.collIndex g
  let next := s.f F.ALT_CG_STAT_SEQ g
  let seq := m.seq.toNat
  if s.collMembers g ≤ m.src ∨ m.src = own then s.count F.ALT_RM_STAT_LATE
  else match s.collTag m.gid.toNat seq with
    | some (e, x) =>
      if x.key ≠ stepKey m ∨ m.offset ≠ (mgetD x.inbox (4096 * m.stage + m.src) []).length then s.collDisagree e x m.src
      else (s.setColl e (x.takeStep own m)).collPump e
    | none =>
      if 2 ^ 31 ≤ (seq + 2 ^ 32 - next) % 2 ^ 32 then s.count F.ALT_RM_STAT_LATE
      else match s.collSlot with
        | none => s.collAnswer g m.gid.toNat seq m.src 2
        | some e =>
          let x := CollEntry.fresh m.gid.toNat seq (stepKey m) g s.now
          if m.offset ≠ 0 then s.collAnswer g m.gid.toNat seq m.src 1
          else (s.setColl e (x.takeStep own m)).refreshColl

/-- `COLL_STEP` (R478, R479). A step that no valid group matches is dropped. -/
def execCollStep (m : CollStepMsg) (s : State) : Host.Outcome State Fault Refusal :=
  .next (match s.collGroup m.gid.toNat with
    | none => s
    | some g => s.collReceive g m)

/-- A branch or flow to a member credited once. -/
def CollEntry.credited (x : CollEntry) (src : Nat) : CollEntry :=
  { x with
    seen := sinsert x.seen src
    flows := x.flows.map (fun f => if f.dest = src then { f with open_ := f.open_ - 1, fullSince := none } else f) }

/-- `COLL_CREDIT` (R479, R483): a credit, or a refusal that ends the collective here too: `BAD_COMMAND`, `COLL_ORDER`, `LAGGARD` or
`MEMBER_LOST`. -/
def execCollCredit (gid : BitVec 16) (seq : BitVec 32) (src : Nat) (code : Fin 5) (s : State) : Host.Outcome State Fault Refusal :=
  .next (match s.collTag gid.toNat seq.toNat with
    | none => s
    | some (e, x) => match code.val with
      | 0 => (s.setColl e (x.credited src)).collPump e
      | 1 => s.failColl e x .badCommand
      | 2 => s.failColl e x .collOrder
      | 3 => (s.cutBranches x).failColl e x .laggard
      | _ => s.failColl e x .memberLost)

/-! ## Limits and losses (R479, R483, R485) -/

/-- The members that an entry waits to hear from (R479). -/
def State.collWaits (s : State) (x : CollEntry) : List Nat :=
  let own := s.collIndex x.group
  if x.key.oper = 3 then (s.treeParent x.group x.key own).toList ++ s.treeChildren x.group x.key own
  else if (if x.started.isSome then x.oneShot else s.collOneShot x.key) then s.contributors x
  else (s.passSteps x.group x.key).map (fun p => p.source)

/-- `ORDER_TIMEOUT` in ticks (R487). -/
def State.orderLimit (s : State) : Nat :=
  let l := s.f F.ALT_COLL_CFG_ORDER_TIMEOUT
  if l = 0 then 0x00989680 else l

/-- `ORDER_TIMEOUT` (R479, R485): an entry has not heard from every member it waits for within the limit, whose last tick still belongs to
a member that is lost. -/
def execOrderTimeout (e : Nat) (s : State) : Host.Outcome State Fault Refusal :=
  .next (match mget s.coll.entries e with
    | none => s
    | some x =>
      if x.created + s.orderLimit < s.now ∧ !((s.collWaits x).all (fun j => x.seen.contains j)) then
        if x.started.isSome then s.failColl e x .collOrder
        else (s.dropColl e).count F.ALT_COLL_STAT_EARLY_DISCARDS
      else s)

/-- `LAG_LIMIT` in ticks (R487). -/
def State.lagTicks (s : State) : Nat :=
  let l := s.f F.ALT_COLL_CFG_LAG_LIMIT
  1000 * (if l = 0 then 1000 else l)

/-- A branch cut (R483): its child is told where it can be, and nothing more goes there. -/
def State.cutBranch (s : State) (e : Nat) (x : CollEntry) (j : Nat) (tell : Bool) : State :=
  let s := s.count F.ALT_COLL_STAT_LAGGARDS
  let s := if tell then s.collAnswer x.group x.gid x.seq j 3 else s
  (s.setColl e { x with flows := x.flows.map (fun f =>
    if f.dest = j then { f with out := [], open_ := 0, fullSince := none, cut := true } else f) }).collPump e

/-- `LAG_LIMIT` (R483, R485): a branch of a `DETACH` broadcast has stayed full for the limit, to the end of its last tick, and is cut. -/
def execLagLimit (e : Nat) (branch : Fin 4) (s : State) : Host.Outcome State Fault Refusal :=
  .next (match mget s.coll.entries e with
    | none => s
    | some x => match x.flows[branch.val]? with
      | none => s
      | some f => match f.fullSince with
        | none => s
        | some t => if x.detach && !f.cut && decide (t + s.lagTicks < s.now) then s.cutBranch e x f.dest true else s)

/-- A member's chip has disappeared (R483, R485): every pending collective with it ends `MEMBER_LOST`, except that a `DETACH` broadcast
loses only the branch. -/
def State.collLost (s : State) (chip : Nat) : State :=
  s.coll.entries.foldl (fun s y =>
    match mget s.coll.entries y.1 with
    | none => s
    | some x =>
      match (List.range x.key.members).find? (fun j => s.collChip x.group j == chip) with
      | none => s
      | some j =>
        let own := s.collIndex x.group
        if x.key.oper = 3 ∧ x.detach then
          if s.treeAbove x.group x.key j x.key.members own then (s.cutBranches x).failColl y.1 x .laggard
          else if x.flows.any (fun f => f.dest == j && !f.cut) then s.cutBranch y.1 x j false
          else s
        else s.failColl y.1 x .memberLost) s

end Sys2Proof.Machine
end

