-- ==== Sys2Proof/Machine/Cores.lean ====
section
/-! DEFINITION. The Armature cores (R283 to R288): `CORE_RUN` and its ends, the caches and the accesses of a core, the ordinary
instructions, and the instructions of Mboval-C. -/

namespace Sys2Proof.Machine

/-! ## Cores and runs (R53, R283, R288) -/

/-- What core `c` holds, where it runs. -/
def State.core (s : State) (c : Nat) : Option CoreSt := mget s.cores c

/-- The state with what core `c` holds replaced. -/
def State.setCore (s : State) (c : Nat) (x : CoreSt) : State := { s with cores := mset s.cores c x }

/-- The state with core `c` reset: it holds nothing and its requests are forgotten. -/
def State.resetCore (s : State) (c : Nat) : State :=
  { s with cores := merase s.cores c }.forgetRequests (.core c)

/-- The cores that run for a record in flight, in ascending order. -/
def State.runCores (s : State) (q seq : Nat) : List Nat :=
  (s.cores.filter (fun x => x.2.q == q && x.2.seq == seq)).map (fun x => x.1)

/-- A `CORE_RUN` ends with a status: every core of it is reset. -/
def State.endCores (s : State) (q seq : Nat) (st : Status) (result : W64 := 0) (detail : W64 := 0) : State :=
  ((s.runCores q seq).foldl (fun s c => s.resetCore c) s).finishFlight q seq st result detail

/-- `RESULT` after a trap (R288): the core, the exception code and the low 48 bits of its `pc`. -/
def trapResult (c code : Nat) (pc : W64) : W64 :=
  setBits (setBits (BitVec.ofNat 64 c) 8 8 code) 16 48 (pc.toNat % 2 ^ 48)

/-- Whether the timeout of a `CORE_RUN` has been reached (R53). -/
def State.coresLate (s : State) (q seq : Nat) : Bool :=
  match s.flight q seq with
  | some x => x.cmd.w6 != 0 && decide (x.start + x.cmd.w6.toNat ≤ s.now)
  | none => false

/-- Core `c` traps with a status (R288). The run ends when the tick has passed, for of the cores that trap in one tick the
lowest-numbered is reported; until then the core does nothing more. A core that has trapped keeps its first trap. -/
def State.coreEnds (s : State) (c code : Nat) (st : Status) (detail : W64 := 0) : State :=
  match s.core c with
  | none => s
  | some x =>
    if x.trapped.isSome then s
    else s.setCore c { x with trapped := some (st.code, trapResult c code x.pc, detail), wait := .none }

/-- The trap of a run that is reported: that of its lowest-numbered core that has trapped. -/
def State.trapOf (s : State) (q seq : Nat) : Option (Nat × W64 × W64) :=
  (s.runCores q seq).findSome? (fun c => (s.core c).bind (fun x => x.trapped))

/-- A run of which a core has trapped ends (R288): with the trap, or with `TIMEOUT` where the timeout falls into the same tick. -/
def State.endTrapped (s : State) (q seq : Nat) : State :=
  match s.trapOf q seq with
  | none => s
  | some (k, result, detail) =>
    if s.coresLate q seq then s.endCores q seq .timeout else s.endCores q seq (.ofCode k) result detail

/-- The runs that a trap of the tick that ends stops. -/
def State.settleTraps (s : State) : State := s.cores.foldl (fun s y => s.endTrapped y.2.q y.2.seq) s

/-- A core consumes poison (R525): exception code 0x3F, with one fault of its job. -/
def State.corePoisoned (s : State) (c : Nat) : State :=
  match s.core c with
  | none => s
  | some x =>
    let d := s.faultDetail 0x4407
    (s.fault 0x4407 .job x.job x.job (some (x.q, x.seq))).coreEnds c 0x3F .poisoned d

/-- A denied fence (R285, R288). The manual gives it no exception code: the code is a free value. -/
def State.coreFenceDenied (s : State) (c : Nat) : State := s.drawn.coreEnds c (s.free % 256) .denied

/-- The run of a record ends when every named core has exited and nothing it sent is outstanding (R288, R462): `OK` with the
exit value of the lowest-numbered core, or `POISONED` where a write met a poisoned leaf (R98). -/
def State.coresSettle (s : State) (q seq : Nat) : State :=
  let cs := s.runCores q seq
  let done := cs.all fun c => (s.outstanding (.core c)).isEmpty && match s.core c with
    | some x => x.exited.isSome
    | none => true
  if cs.isEmpty || !done then s
  else
    let bad := cs.any fun c => match s.core c with
      | some x => x.poisonWrite
      | none => false
    let v := match cs.head?.bind s.core with
      | some x => x.exited.getD 0
      | none => 0
    s.endCores q seq (if bad then .poisoned else .ok) v

/-! ## Translation and caches (R284, R465) -/

/-- The exception code of a translation fault and of an access fault (RISC-V: fetch, load, store). -/
def pageFaultCode (code wr : Bool) : Nat := if code then 12 else if wr then 15 else 13

/-- The exception code of an access that no memory answers. -/
def accessFaultCode (code wr : Bool) : Nat := if code then 1 else if wr then 7 else 5

/-- Whether a core has the line of a cache. -/
def CoreSt.has (x : CoreSt) (code : Bool) (line : Nat) : Bool :=
  if code then (mget x.code line).isSome else (mget x.data line).isSome

/-- Lines that a cache of 32 KiB holds (R284). -/
def cacheLines : Nat := 512

/-- A dirty line written back (R284, R465): into the local memory, through a Plain write, or by a remote `WRITE`. -/
def State.writeBack (s : State) (c line : Nat) (l : DataLine) : State × Option Status :=
  let g := 64 * line
  let job := match s.core c with
    | some x => x.job
    | none => 0
  match s.place g with
  | .here a =>
    let s := (s.store a l.bytes l.mark).countLines true a 64
    if regionOf a = Region.plain then (s.issuePlain (.core c) 0x42 (a - plainBase) 64 job l.mark l.bytes, none) else (s, none)
  | .there k a =>
    s.issueRemote (.core c) { OutMsg.blank with
      op := 0x03, dst := k, vc := 2, poison := l.mark, job := job, addr := a, data := l.bytes }
  | _ => (s, none)

/-- The victim of a miss, where one is taken: a line of the cache other than those the access needs. A full cache always
gives one; which line goes, and whether a line goes before the cache is full, the manual leaves open (free value). -/
def victimOf (lines keep : List Nat) (v : Nat) : Option Nat :=
  let ls := lines.filter (fun l => !keep.contains l)
  if ls.isEmpty then none
  else if cacheLines ≤ lines.length ∨ v % 2 = 1 then ls[v / 2 % ls.length]? else none

/-- Room made for a line in a cache of core `c`; a dirty victim is written back. -/
def State.evictLine (s : State) (c : Nat) (code : Bool) (keep : List Nat) : State × Option Status :=
  match s.core c with
  | none => (s, none)
  | some x =>
    let v := s.free
    if code then
      if x.code.isEmpty then (s, none)
      else match victimOf (x.code.map (fun l => l.1)) keep v with
        | none => (s.drawn, none)
        | some k => (s.drawn.setCore c { x with code := merase x.code k }, none)
    else if x.data.isEmpty then (s, none)
    else match victimOf (x.data.map (fun l => l.1)) keep v with
      | none => (s.drawn, none)
      | some k =>
        let l := mgetD x.data k { bytes := [], dirty := false, mark := false }
        let s := s.drawn.setCore c { x with data := merase x.data k }
        if l.dirty then s.writeBack c k l else (s, none)

/-- A line filled into a cache of core `c`. -/
def State.fillLine (s : State) (c line : Nat) (code : Bool) (bs : List Byte) (mark : Bool) : State :=
  match s.core c with
  | none => s
  | some x =>
    if code then s.setCore c { x with code := mset x.code line (bs, mark) }
    else s.setCore c { x with data := mset x.data line { bytes := bs, dirty := false, mark := mark } }

/-- What an access of a core comes to: it may go on at the global address of each byte's line, it waits for a line, or it has ended the run. -/
inductive CoreRes where
  | ready
  | stalled
  | ended
  deriving DecidableEq, Repr

/-- A translated line of an access: the global line address and whether its leaf carries `POISON`. -/
structure XLine where
  line : Nat
  poison : Bool
  deriving DecidableEq, Repr

/-- The 64-byte lines of virtual addresses that `n` bytes from `va` touch. -/
def lineVas (va n : Nat) : List Nat := (unitsOf va n).map (fun u => max va (64 * u))

/-- The lines of a list of virtual addresses translated for core `c`, or the end of its run (R97, R288, R525). -/
def State.coreLines (s : State) (c : Nat) (code wr : Bool) : List Nat → Except State (List XLine)
  | [] => .ok []
  | va :: vas =>
    match s.core c with
    | none => .error s
    | some x =>
      match s.translate x.job va wr with
      | .fault r l =>
        let d := s.faultDetail 0x4401
        .error ((s.xlateFault x.job va r l wr (some (x.q, x.seq))).coreEnds c (pageFaultCode code wr) .denied d)
      | .poison => .error (s.corePoisoned c)
      | .ok g e =>
        match s.place g with
        | .bad | .absent => .error (s.coreEnds c (accessFaultCode code wr) .badCommand)
        | _ =>
          match s.coreLines c code wr vas with
          | .error t => .error t
          | .ok ls => .ok ({ line := g / 64, poison := leafPoison e } :: ls)

/-- The missing lines of an access brought in one by one: local lines at once, others by a request for which the core waits. -/
def State.coreFill (s : State) (c : Nat) (code : Bool) (keep : List Nat) : List XLine → State × CoreRes
  | [] => (s, .ready)
  | l :: ls =>
    match s.core c with
    | none => (s, .ended)
    | some x =>
      if x.has code l.line then s.coreFill c code keep ls
      else
        let r := s.evictLine c code keep
        match r.2 with
        | some st => (r.1.coreEnds c (accessFaultCode code true) st, .ended)
        | none =>
          let s := r.1
          let g := 64 * l.line
          match s.place g with
          | .here a =>
            if regionOf a = Region.plain then
              let s := s.issuePlain (.core c) 0x40 (a - plainBase) 64 x.job false []
              match s.core c with
              | some y => (s.setCore c { y with wait := .line code l.line }, .stalled)
              | none => (s, .ended)
            else
              ((s.countLines false a 64).fillLine c l.line code (s.bytes a 64) (s.poisoned a 64)).coreFill c code keep ls
          | .there k a =>
            let z := s.issueRemote (.core c) { OutMsg.blank with op := 0x01, dst := k, vc := 0, job := x.job, addr := a, arg1 := 64 }
            match z.2, z.1.core c with
            | some st, _ => (z.1.coreEnds c (accessFaultCode code false) st, .ended)
            | none, some y => (z.1.setCore c { y with wait := .line code l.line }, .stalled)
            | none, none => (z.1, .ended)
          | _ => (s, .ended)

/-- An access of core `c` to bytes at virtual addresses: translated, brought into the cache, and ready with its lines, one for
each 64-byte stretch. -/
def State.coreAccess (s : State) (c : Nat) (code wr : Bool) (vas : List Nat) : State × CoreRes × List XLine :=
  match s.coreLines c code wr vas with
  | .error t => (t, .ended, [])
  | .ok ls =>
    let r := s.coreFill c code (ls.map (fun l => l.line)) ls
    (r.1, r.2, ls)

/-- The byte of a cached line. -/
def CoreSt.cached (x : CoreSt) (code : Bool) (line off : Nat) : Byte :=
  if code then nth (mgetD x.code line ([], false)).1 off 0
  else nth (mgetD x.data line { bytes := [], dirty := false, mark := false }).bytes off 0

/-- Whether a line of an access brings poison: its leaf or the cached bytes carry a mark. -/
def CoreSt.markedLine (x : CoreSt) (code : Bool) (l : XLine) : Bool :=
  l.poison || if code then (mgetD x.code l.line ([], false)).2
    else (mgetD x.data l.line { bytes := [], dirty := false, mark := false }).mark

/-- The line of an access that holds the byte at `va`. -/
def lineAt (ls : List XLine) (va0 va : Nat) : XLine := nth ls (va / 64 - va0 / 64) { line := 0, poison := false }

/-- `n` cached bytes from `va`, the lines of the access given. -/
def CoreSt.readAt (x : CoreSt) (code : Bool) (ls : List XLine) (va n : Nat) : List Byte :=
  (List.range n).map (fun i => x.cached code (lineAt ls va (va + i)).line ((va + i) % 64))

/-- Bytes written into the data cache from `va`: the lines become dirty; a line whose leaf carries `POISON` stays as it is (R98). -/
def CoreSt.writeAt (x : CoreSt) (ls : List XLine) (va : Nat) (bs : List Byte) : CoreSt :=
  ((List.range bs.length).zip bs).foldl (fun (x : CoreSt) p =>
    let l := lineAt ls va (va + p.1)
    if l.poison then { x with poisonWrite := true }
    else
      let y := mgetD x.data l.line { bytes := [], dirty := false, mark := false }
      let y := { y with bytes := setNth y.bytes ((va + p.1) % 64) p.2, dirty := true }
      { x with data := mset x.data l.line y }) x

/-- A read of `n` bytes at `va` by core `c` and what follows it: the end of the run on poison (R525), a wait, or `k`. -/
def State.coreRead (s : State) (c : Nat) (code : Bool) (va n : Nat) (k : State → List Byte → State) : State :=
  let r := s.coreAccess c code false (lineVas va n)
  match r.2.1, r.1.core c with
  | .ready, some x =>
    if r.2.2.any (x.markedLine code) then r.1.corePoisoned c else k r.1 (x.readAt code r.2.2 va n)
  | _, _ => r.1

/-- A write of bytes at `va` by core `c` and what follows it. -/
def State.coreWrite (s : State) (c va : Nat) (bs : List Byte) (k : State → State) : State :=
  let r := s.coreAccess c false true (lineVas va bs.length)
  match r.2.1, r.1.core c with
  | .ready, some x => k ((r.1.setCore c (x.writeAt r.2.2 va bs)).noteRange x.job va bs.length)
  | _, _ => r.1

/-! ## One instruction -/

/-- An integer register; register 0 reads as zero. -/
def CoreSt.xr (x : CoreSt) (i : Nat) : W64 := if i = 0 then 0 else nth x.x i 0

/-- An integer register written; register 0 discards the value. -/
def CoreSt.setX (x : CoreSt) (i : Nat) (v : W64) : CoreSt := if i = 0 then x else { x with x := setNth x.x i v }

/-- Core `c` exits with a value (R285, R288). Whether a dirty line that no fence wrote back reaches memory the manual leaves
open: a free value decides for each line. -/
def State.coreExit (s : State) (c : Nat) (v : W64) : State :=
  match s.core c with
  | none => s
  | some x =>
    let dirty := x.data.filter (fun l => l.2.dirty)
    let s := s.setCore c { x with exited := some v, wait := .none, code := [], data := [] }
    let r := dirty.foldl (fun (a : State × Option Status) l =>
      match a.2 with
      | some _ => a
      | none => if a.1.free % 2 = 1 then a.1.drawn.writeBack c l.1 l.2 else (a.1.drawn, none)) (s, none)
    match r.2 with
    | some st => r.1.coreEnds c (accessFaultCode false true) st
    | none => r.1.coresSettle x.q x.seq

/-- The firings of a core that an instruction takes: the manual gives no count, so a free value advances `cycle` (R283). -/
def State.coreCycles (s : State) (c : Nat) : State :=
  match s.core c with
  | none => s
  | some x => s.drawn.setCore c { x with cycles := x.cycles + s.free }

/-- Whether four fetched bytes are a word of the custom-0 opcode whose funct7 and funct3 R285 does not give: an illegal instruction. -/
def illegalFz (bs : List Byte) : Bool :=
  let w := leNat bs
  decide (bs.length = 4) && decide (w % 128 = 0b0001011) &&
    !((w / 2 ^ 25 == 0 && decide (w / 2 ^ 12 % 8 ≤ 6)) || (w / 2 ^ 25 == 1 && decide (w / 2 ^ 12 % 8 ≤ 1)))

/-- Core `c` fetches and runs an instruction of `len` bytes whose bytes satisfy `ok` (R283, R284, R288): nothing while the
core does not run, has exited, has trapped or waits; a fetch from address 0 is an exit with a0; a fetch that misses waits; another
funct7 and funct3 of the custom-0 opcode than those of R285 is an illegal instruction. -/
def State.coreStep (s : State) (c len : Nat) (ok : List Byte → Bool) (k : State → CoreSt → State) : State :=
  match s.core c with
  | none => s
  | some x =>
    if !s.running || x.exited.isSome || x.trapped.isSome || x.wait != .none then s
    else if x.pc = 0 then s.coreExit c (x.xr 10)
    else if x.pc.toNat % 2 = 1 then s.coreEnds c 0 .badCommand
    else s.coreRead c true x.pc.toNat len fun t bs =>
      if !ok bs then (if illegalFz bs then t.coreEnds c 2 .badCommand else s)
      else
        let t := t.coreCycles c
        match t.core c with
        | some y => k t y
        | none => t

/-- Core `c` with an integer register written and the `pc` moved past an instruction of `len` bytes. -/
def State.coreNext (s : State) (c len rd : Nat) (v : W64) : State :=
  match s.core c with
  | none => s
  | some x => s.setCore c { x.setX rd v with pc := x.pc + BitVec.ofNat 64 len }

/-! ## CORE_RUN -/

/-- The cores an operand `OP2` names. -/
def coreMask (r : Rec) : List Nat := maskList r.w5.toNat 64

/-- A core at the start of a run (R283). -/
def CoreSt.start (q seq job c : Nat) (entry arg : W64) : CoreSt where
  q := q
  seq := seq
  job := job
  pc := entry
  x := setNth (setNth (List.replicate 32 0#64) 10 arg) 11 (BitVec.ofNat 64 c)
  fp := List.replicate 32 0#64
  v := List.replicate 32 (List.replicate 64 0#8)
  csrs := []
  cycles := 0
  code := []
  data := []
  reserved := none
  wait := .none
  exited := none
  poisonWrite := false

/-- `CORE_RUN` starts the named cores (R53, R283). With an empty mask every named core has returned: it completes at once, and
its `RESULT` is 0, since no core gives one (R58). -/
def State.runCoreRun (s : State) (q seq : Nat) (r : Rec) : State :=
  if r.w5 = 0 then s.finishFlight q seq .ok 0
  else (coreMask r).foldl (fun s c => s.setCore c (.start q seq (s.queueJob q) c r.w3 r.w4)) s

/-- `CORE_RUN` (R49, R53, R536): a failed core is absent; a core that the job does not own is denied; the record waits while a
named core still runs another record. -/
def specCoreRun : CmdSpec :=
  { CmdSpec.plain [] State.runCoreRun with
    present := fun s r => (coreMask r).all s.hasCore
    owns := fun s q r => (coreMask r).all (fun c => s.ownsCore (s.queueJob q) c && c % 32 ≥ 2)
    touches := fun s _ r t => (coreMask r).any (fun c => s.txTouchesCore t c)
    hold := fun s _ r => (coreMask r).any (fun c => (s.core c).isSome) }

/-- `CORE_RUN` (R53). -/
def execCoreRun (q : QId) (s : State) : Host.Outcome State Fault Refusal :=
  .next (s.queueCommand specCoreRun (fun r => r.opcode == 0x14) q.val)

/-- `CORE_RUN_TIMEOUT` (R53). -/
def execCoreRunTimeout (q : QId) (seq : BitVec 48) (s : State) : Host.Outcome State Fault Refusal :=
  .next (match s.flightOf q.val seq.toNat 0x14 0x14 with
    | some x => if s.coresLate q.val x.seq then s.endCores q.val x.seq .timeout else s
    | none => s)

/-! ## Mboval-C (R285 to R287) -/

/-- The word of an R-type Mboval-C instruction (R285): the custom-0 opcode, and the fields of the RISC-V R type. -/
def fzWord (funct7 funct3 rd rs1 rs2 : Nat) : Nat :=
  0b0001011 + 2 ^ 7 * rd + 2 ^ 12 * funct3 + 2 ^ 15 * rs1 + 2 ^ 20 * rs2 + 2 ^ 25 * funct7

/-- Core `c` runs the Mboval-C instruction that stands at its `pc`, where the fields are the given ones; an operand that the
instruction does not have may hold anything. -/
def State.fzStep (s : State) (c funct7 funct3 : Nat) (rd rs1 rs2 : Option Nat) (k : State → CoreSt → State) : State :=
  s.coreStep c 4 (fun bs =>
    let w := leNat bs
    w == fzWord funct7 funct3 (rd.getD (w / 2 ^ 7 % 32)) (rs1.getD (w / 2 ^ 15 % 32)) (rs2.getD (w / 2 ^ 20 % 32))) k

/-- The word of a fence as `QE_FENCE_f` lays it out. -/
def State.fenceWord (s : State) (f : Nat) : W64 := s.r R.QE_FENCE f

/-- Whether the value of a register names a fence of a job's range (R54). -/
def State.coreFence (s : State) (x : CoreSt) (v : W64) : Bool := s.ownsFence x.job v.toNat

/-- `FZ.FREAD` (R285). -/
def execFzFread (c : CoreId) (rd rs1 : Fin 32) (s : State) : Host.Outcome State Fault Refusal :=
  .next (s.fzStep c.val 0 0 (some rd.val) (some rs1.val) none fun s x =>
    let f := x.xr rs1.val
    if s.coreFence x f then s.coreNext c.val 4 rd.val (s.fenceWord f.toNat) else s.coreFenceDenied c.val)

/-- A returning `FZ.FWAIT` (R284, R285): the clean lines of the core are invalid, and the register holds the fence. -/
def State.fwaitReturn (s : State) (c : Nat) (x : CoreSt) (f rd : Nat) : State :=
  (s.setCore c { x with wait := .none, code := [], data := x.data.filter (fun l => l.2.dirty) }).coreNext c 4 rd (s.fenceWord f)

/-- `FZ.FWAIT` (R285). -/
def execFzFwait (c : CoreId) (rd rs1 rs2 : Fin 32) (s : State) : Host.Outcome State Fault Refusal :=
  .next (s.fzStep c.val 0 1 (some rd.val) (some rs1.val) (some rs2.val) fun s x =>
    let f := x.xr rs1.val
    let v := (x.xr rs2.val).toNat
    if !s.coreFence x f then s.coreFenceDenied c.val
    else if s.waitMet f.toNat v then s.fwaitReturn c.val x f.toNat rd.val
    else s.setCore c.val { x with wait := .fence f.toNat v rd.val })

/-- `FZ_FWAIT_RETURN` (R284): the fence that a core waits for has reached its value. -/
def execFzFwaitReturn (c : CoreId) (s : State) : Host.Outcome State Fault Refusal :=
  .next (match s.core c.val with
    | some x =>
      match x.wait with
      | .fence f v rd => if s.running && s.waitMet f v then s.fwaitReturn c.val x f rd else s
      | _ => s
    | none => s)

/-- The signal of a core whose written lines have all been acknowledged (R284, R465). -/
def State.flushDone (s : State) (c : Nat) : State :=
  match s.core c with
  | none => s
  | some x =>
    match x.wait with
    | .flush f v add =>
      if (s.outstanding (.core c)).isEmpty then
        ((s.setCore c { x with wait := .none }).signal x.job f v add false).coreNext c 4 0 0
      else s
    | _ => s

/-- Every dirty line of a core written back, then a signal (R284): at once where nothing is outstanding. -/
def State.coreSignal (s : State) (c : Nat) (x : CoreSt) (f v : Nat) (add : Bool) : State :=
  let dirty := x.data.filter (fun l => l.2.dirty)
  let s := s.setCore c { x with
    data := x.data.map (fun l => (l.1, { l.2 with dirty := false })), wait := .flush f v add }
  let r := dirty.foldl (fun (a : State × Option Status) l =>
    match a.2 with
    | some _ => a
    | none => a.1.writeBack c l.1 l.2) (s, none)
  match r.2 with
  | some st => r.1.coreEnds c (accessFaultCode false true) st
  | none => r.1.flushDone c

/-- `FZ.FSIG` (R285). -/
def execFzFsig (c : CoreId) (rs1 rs2 : Fin 32) (s : State) : Host.Outcome State Fault Refusal :=
  .next (s.fzStep c.val 0 2 none (some rs1.val) (some rs2.val) fun s x =>
    let f := x.xr rs1.val
    if s.coreFence x f then s.coreSignal c.val x f.toNat (x.xr rs2.val).toNat false else s.coreFenceDenied c.val)

/-- `FZ.FADD` (R285). -/
def execFzFadd (c : CoreId) (rs1 rs2 : Fin 32) (s : State) : Host.Outcome State Fault Refusal :=
  .next (s.fzStep c.val 0 3 none (some rs1.val) (some rs2.val) fun s x =>
    let f := x.xr rs1.val
    if s.coreFence x f then s.coreSignal c.val x f.toNat (x.xr rs2.val).toNat true else s.coreFenceDenied c.val)

/-- The seal word that `FZ.SEAL` computes for a body of 56 bytes (R42, R286). -/
def sealWord (body : List Byte) (seq : Nat) : W64 :=
  setBits (BitVec.ofNat 64 seq) 48 16 (crc16 (body ++ leBytes 6 seq)).toNat

/-- A record submitted by a core to a local queue of its job (R286), with the code of the outcome. -/
def State.coreSeal (s : State) (q seq : Nat) (body : List Byte) : State × Nat :=
  let j := seq % 4096
  if (s.slot q j).held then (s.reject q 5, 5)
  else
    let t := (s.windowWords q (64 * j) (leWords 7 body)).1
    let w := sealWord body seq
    (t.sealSlot q j w, t.sealReason q j w)

/-- `FZ.SEAL` (R286). -/
def execFzSeal (c : CoreId) (rd rs1 rs2 : Fin 32) (s : State) : Host.Outcome State Fault Refusal :=
  .next (s.fzStep c.val 0 4 (some rd.val) (some rs1.val) (some rs2.val) fun s x =>
    let va := (x.xr rs1.val).toNat
    let q := bitsOf (x.xr rs2.val) 0 12
    let seq := bitsOf (x.xr rs2.val) 16 48
    if va % 8 ≠ 0 then s.coreEnds c.val 4 .badCommand
    else if !(s.bound q && s.f F.QE_Q_CTRL_PORT q == 2 && s.queueJob q == x.job) then s.coreNext c.val 4 rd.val 6
    else s.coreRead c.val false va 56 fun s bs =>
      let r := s.coreSeal q seq bs
      r.1.coreNext c.val 4 rd.val (BitVec.ofNat 64 r.2))

/-- `FZ.XLATE` (R285): the global address, or 2^63 plus the reason of R97, with no fault logged. -/
def execFzXlate (c : CoreId) (rd rs1 : Fin 32) (s : State) : Host.Outcome State Fault Refusal :=
  .next (s.fzStep c.val 0 5 (some rd.val) (some rs1.val) none fun s x =>
    match s.translate x.job (x.xr rs1.val).toNat false with
    | .ok g _ => s.coreNext c.val 4 rd.val (BitVec.ofNat 64 g)
    | .fault r _ => s.coreNext c.val 4 rd.val (BitVec.ofNat 64 (2 ^ 63 + r))
    | .poison => s.corePoisoned c.val)

/-- `FZ.EXIT` (R285, R288). -/
def execFzExit (c : CoreId) (rs1 : Fin 32) (s : State) : Host.Outcome State Fault Refusal :=
  .next (s.fzStep c.val 0 6 none (some rs1.val) none fun s x => s.coreExit c.val (x.xr rs1.val))

/-- `fzcfg` and `fzts` (R287). -/
def CoreSt.fzcfg (x : CoreSt) : W64 := mgetD x.csrs 0x800 0

/-- Whether the format of `fzcfg` is one that R287 defines. -/
def CoreSt.fzFormatOk (x : CoreSt) : Bool :=
  decide (1 ≤ bitsOf x.fzcfg 0 4) && decide (bitsOf x.fzcfg 0 4 ≤ 9) && decide (bitsOf x.fzcfg 4 3 ≤ 5)

/-- The tensor scale that `fzcfg` and `fzts` give: one where `TSEN` is clear. -/
def CoreSt.tensorScale (x : CoreSt) : Num :=
  if bitOf x.fzcfg 8 then ofF32 (BitVec.ofNat 32 (mgetD x.csrs 0x801 0).toNat) else Num.one

/-- The row that `FZ.PACK` writes (R287): 64 packed elements, then the scale bytes of its blocks. -/
def CoreSt.packRow (x : CoreSt) (xs : List W32) : List Byte :=
  let f := bitsOf x.fzcfg 0 4
  let z := narrowRow f (blkLen (bitsOf x.fzcfg 4 3)) (bitOf x.fzcfg 7) x.tensorScale (xs.map ofF32) (List.replicate 64 none)
  packElems f z.1 ++ z.2.map (BitVec.ofNat 8)

/-- Bytes of a packed row with its scales. -/
def CoreSt.packedLen (x : CoreSt) : Nat :=
  let b := blkLen (bitsOf x.fzcfg 4 3)
  8 * fmtBits (bitsOf x.fzcfg 0 4) + if b = 0 then 0 else max 1 (64 / b)

/-- The values that `FZ.UNPACK` writes (R287). -/
def CoreSt.unpackRow (x : CoreSt) (bs : List Byte) : List W32 :=
  let f := bitsOf x.fzcfg 0 4
  let es := (List.range 64).map (packedElem f bs)
  widenRow f (blkLen (bitsOf x.fzcfg 4 3)) (bitOf x.fzcfg 7) x.tensorScale es ((bs.drop (8 * fmtBits f)).map (fun b => b.toNat))

/-- The binary32 values of bytes. -/
def f32sOf (bs : List Byte) : List W32 := (chunksOf 4 (bs.length / 4 + 1) bs).map (fun b => BitVec.ofNat 32 (leNat b))

/-- `FZ.PACK` (R287). A format that R287 does not define makes it an illegal instruction. -/
def execFzPack (c : CoreId) (rd rs1 rs2 : Fin 32) (s : State) : Host.Outcome State Fault Refusal :=
  .next (s.fzStep c.val 1 0 (some rd.val) (some rs1.val) (some rs2.val) fun s x =>
    if !x.fzFormatOk then s.coreEnds c.val 2 .badCommand
    else s.coreRead c.val false (x.xr rs1.val).toNat 256 fun s bs =>
      let row := x.packRow (f32sOf bs)
      s.coreWrite c.val (x.xr rs2.val).toNat row fun s => s.coreNext c.val 4 rd.val (BitVec.ofNat 64 row.length))

/-- `FZ.UNPACK` (R285, R287). -/
def execFzUnpack (c : CoreId) (rd rs1 rs2 : Fin 32) (s : State) : Host.Outcome State Fault Refusal :=
  .next (s.fzStep c.val 1 1 (some rd.val) (some rs1.val) (some rs2.val) fun s x =>
    if !x.fzFormatOk then s.coreEnds c.val 2 .badCommand
    else s.coreRead c.val false (x.xr rs1.val).toNat x.packedLen fun s bs =>
      s.coreWrite c.val (x.xr rs2.val).toNat ((x.unpackRow bs).flatMap (fun v => leBytes 4 v.toNat)) fun s =>
        s.coreNext c.val 4 rd.val 256)

/-! ## Ordinary instructions (R283, R284) -/

/-- Bytes of an access width. -/
def widthBytes : MemW → Nat
  | .b1 => 1 | .b2 => 2 | .b4 => 4 | .b8 => 8

/-- A loaded value widened to a register. -/
def loadValue (w : MemW) (signed : Bool) (bs : List Byte) : W64 :=
  let n := leNat bs
  if signed then BitVec.ofInt 64 (signedOf (8 * (widthBytes w)) n) else BitVec.ofNat 64 n

/-- The value an atomic leaves (R464), for a word of `w` bits. -/
def amoValue (op : AmoOp) (w old v : Nat) : Nat :=
  let v := v % 2 ^ w
  match op with
  | .add => (old + v) % 2 ^ w
  | .swap => v
  | .and => old &&& v
  | .or => old ||| v
  | .xor => old ^^^ v
  | .max => if signedOf w old < signedOf w v then v else old
  | .min => if signedOf w v < signedOf w old then v else old
  | .maxu => max old v
  | .minu => min old v

/-- The code of an atomic in `ARG0` (R464). -/
def amoCode : AmoOp → Nat
  | .add => 0 | .swap => 1 | .and => 2 | .or => 3 | .xor => 4 | .max => 5 | .min => 6 | .maxu => 7 | .minu => 8

/-- The atomic of a code of R464. -/
def amoOf : Nat → Option AmoOp
  | 0 => some .add | 1 => some .swap | 2 => some .and | 3 => some .or | 4 => some .xor | 5 => some .max
  | 6 => some .min | 7 => some .maxu | 8 => some .minu | _ => none

/-- Reservations that cover a written word end. PRESUMED: as RISC-V gives LR and SC. -/
def State.breakReservations (s : State) (g : Nat) : State :=
  { s with cores := s.cores.map (fun x => (x.1, if x.2.reserved = some (g / 8) then { x.2 with reserved := none } else x.2)) }

/-- The local offset and the global address of an atomic of core `c`, once its line is out of the data cache: a dirty line is
written back first. The continuation gets the state, the place and whether the leaf carries `POISON`. -/
def State.atomicAt (s : State) (c : Nat) (va n : Nat) (wr : Bool) (k : State → Place → Nat → Bool → State) : State :=
  match s.core c with
  | none => s
  | some x =>
    if va % n ≠ 0 then s.coreEnds c (if wr then 6 else 4) .badCommand
    else match s.coreLines c false wr [va] with
      | .error t => t
      | .ok _ =>
        match s.translate x.job va wr with
        | .ok g e =>
          let line := g / 64
          let r : State × Option Status := match mget x.data line with
            | none => (s, none)
            | some l =>
              let s := s.setCore c { x with data := merase x.data line }
              if l.dirty then s.writeBack c line l else (s, none)
          match r.2 with
          | some st => r.1.coreEnds c 7 st
          | none => k r.1 (r.1.place g) g (leafPoison e)
        | _ => s

/-- A sign-extended old value of an atomic. -/
def oldValue (wide : Bool) (n : Nat) : W64 := loadValue (if wide then .b8 else .b4) true (leBytes 8 n |>.take (if wide then 8 else 4))

/-- An AMO of core `c` (R284, R464): on a local word at once, on a remote page by one `ATOMIC`, for which the core waits. A
word of the Plain is worked on in the data cache. -/
def State.coreAmo (s : State) (c : Nat) (op : AmoOp) (wide : Bool) (rd rs2 rs1 : Nat) : State :=
  match s.core c with
  | none => s
  | some x =>
    let n := if wide then 8 else 4
    let va := (x.xr rs1).toNat
    let v := (x.xr rs2).toNat
    s.atomicAt c va n true fun s pl g poison =>
      match pl with
      | .there k a =>
        let r := s.issueRemote (.core c) { OutMsg.blank with
          op := 0x05, dst := k, vc := 0, job := x.job, addr := a
          arg0 := amoCode op + if wide then 16 else 0, arg1 := v % 2 ^ (8 * n) }
        match r.2, r.1.core c with
        | some st, _ => r.1.coreEnds c 7 st
        | none, some y => r.1.setCore c { y with wait := .atomic wide rd }
        | none, none => r.1
      | .here a =>
        if regionOf a = Region.plain then
          s.coreRead c false va n fun s bs =>
            s.coreWrite c va (leBytes n (amoValue op (8 * n) (leNat bs) v)) fun s =>
              s.coreNext c 4 rd (oldValue wide (leNat bs))
        else if poison || s.poisoned a n then s.corePoisoned c
        else
          let old := leNat (s.bytes a n)
          let s := (s.store a (leBytes n (amoValue op (8 * n) old v))).noteRange x.job va n
          let s := (s.countLines false a n).countLines true a n
          (s.breakReservations g).coreNext c 4 rd (oldValue wide old)
      | _ => s

/-- LR of core `c`: a store access fault on a remote page (R464). -/
def State.coreLr (s : State) (c : Nat) (wide : Bool) (rd rs1 : Nat) : State :=
  match s.core c with
  | none => s
  | some x =>
    let n := if wide then 8 else 4
    s.atomicAt c (x.xr rs1).toNat n false fun s pl g poison =>
      match pl with
      | .there _ _ => s.coreEnds c 7 .badCommand
      | .here a =>
        if poison || s.poisoned a n then s.corePoisoned c
        else
          let v := leNat (s.bytes a n)
          match (s.countLines false a n).core c with
          | some y => ((s.countLines false a n).setCore c { y with reserved := some (g / 8) }).coreNext c 4 rd (oldValue wide v)
          | none => s
      | _ => s

/-- SC of core `c`: it stores and answers 0 where the reservation stands, and answers 1 otherwise. -/
def State.coreSc (s : State) (c : Nat) (wide : Bool) (rd rs2 rs1 : Nat) : State :=
  match s.core c with
  | none => s
  | some x =>
    let n := if wide then 8 else 4
    let va := (x.xr rs1).toNat
    s.atomicAt c va n true fun s pl g poison =>
      match pl with
      | .there _ _ => s.coreEnds c 7 .badCommand
      | .here a =>
        match s.core c with
        | none => s
        | some y =>
          let held := y.reserved == some (g / 8)
          let s := s.setCore c { y with reserved := none, poisonWrite := y.poisonWrite || (held && poison) }
          if held then
            let s := if poison then s
              else ((s.store a (leBytes n (x.xr rs2).toNat)).countLines true a n).noteRange x.job va n
            (s.breakReservations g).coreNext c 4 rd 0
          else s.coreNext c 4 rd 1
      | _ => s

/-- The control registers that user mode may write besides those of R287: `fflags`, `frm`, `fcsr`, `vstart`, `vxsat`, `vxrm`,
`vcsr`, with the width of each. PRESUMED: RISC-V. -/
def csrWidth : Nat → Option Nat
  | 0x001 => some 5 | 0x002 => some 3 | 0x003 => some 8 | 0x008 => some 64 | 0x009 => some 1 | 0x00A => some 2
  | 0x00F => some 3 | 0x800 => some 9 | 0x801 => some 32 | _ => none

/-- The value of a control register (R283, R287): `time` reads `GLB_TIME`, `cycle` the firings; `fflags`, `frm`, `vxsat` and
`vxrm` share `fcsr` and `vcsr`. `none` where user mode has no such register. -/
def State.csrValue (s : State) (x : CoreSt) : Nat → Option W64
  | 0x001 => some (BitVec.ofNat 64 (bitsOf (mgetD x.csrs 0x003 0) 0 5))
  | 0x002 => some (BitVec.ofNat 64 (bitsOf (mgetD x.csrs 0x003 0) 5 3))
  | 0x009 => some (BitVec.ofNat 64 (bitsOf (mgetD x.csrs 0x00F 0) 0 1))
  | 0x00A => some (BitVec.ofNat 64 (bitsOf (mgetD x.csrs 0x00F 0) 1 2))
  | 0xC00 => some (BitVec.ofNat 64 x.cycles)
  | 0xC01 => some s.tb.tick
  | 0xC02 => some (BitVec.ofNat 64 s.free)
  | 0xC20 => some (mgetD x.csrs 0xC20 0)
  | 0xC21 => some (mgetD x.csrs 0xC21 0)
  | 0xC22 => some 64
  | n => if (csrWidth n).isSome then some (mgetD x.csrs n 0) else none

/-- A control register written. -/
def CoreSt.setCsr (x : CoreSt) (n : Nat) (v : W64) : CoreSt :=
  let put := fun (k lo w : Nat) => { x with csrs := mset x.csrs k (setBits (mgetD x.csrs k 0) lo w v.toNat) }
  match n with
  | 0x001 => put 0x003 0 5
  | 0x002 => put 0x003 5 3
  | 0x009 => put 0x00F 0 1
  | 0x00A => put 0x00F 1 2
  | _ => put n 0 ((csrWidth n).getD 0)

/-- Floating-point flags raised by an instruction. -/
def CoreSt.raiseFlags (x : CoreSt) (fl : BitVec 5) : CoreSt :=
  if fl = 0 then x
  else { x with csrs := mset x.csrs 0x003 (mgetD x.csrs 0x003 0 ||| BitVec.ofNat 64 fl.toNat) }

/-- A CSR instruction of core `c` (R287). An unknown register, or a write to one that only reads, is illegal. -/
def State.coreCsr (s : State) (c : Nat) (x : CoreSt) (n : Nat) (op : CsrOp) (rd : Nat) (v : W64) : State :=
  match s.csrValue x n with
  | none => s.coreEnds c 2 .badCommand
  | some old =>
    let s := if n = 0xC02 then s.drawn else s
    if op = .read then s.coreNext c 4 rd old
    else if (csrWidth n).isNone then s.coreEnds c 2 .badCommand
    else
      let new := match op with
        | .set => old ||| v
        | .clear => old &&& ~~~ v
        | _ => v
      (s.setCore c (x.setCsr n new)).coreNext c 4 rd old

/-- The elements of a vector load taken one after the other. -/
def State.vecLoad (s : State) (c len : Nat) (w : MemW) : List VecElem → State
  | [] => s.coreNext c len 0 0
  | e :: es =>
    let r := s.coreAccess c false false (lineVas e.addr.toNat (widthBytes w))
    match r.2.1, r.1.core c with
    | .ready, some x =>
      if r.2.2.any (x.markedLine false) then r.1.corePoisoned c
      else
        let old := nth x.v e.reg.val []
        let new := (overlay old e.off.val (x.readAt false r.2.2 e.addr.toNat (widthBytes w))).take 64
        (r.1.setCore c { x with v := setNth x.v e.reg.val new }).vecLoad c len w es
    | _, _ => r.1

/-- The elements of a vector store taken one after the other. -/
def State.vecStore (s : State) (c len : Nat) (w : MemW) : List VecElem → State
  | [] => s.coreNext c len 0 0
  | e :: es =>
    let r := s.coreAccess c false true (lineVas e.addr.toNat (widthBytes w))
    match r.2.1, r.1.core c with
    | .ready, some x =>
      let bs := slice (nth x.v e.reg.val []) e.off.val (widthBytes w)
      ((r.1.setCore c (x.writeAt r.2.2 e.addr.toNat bs)).noteRange x.job e.addr.toNat bs.length).vecStore c len w es
    | _, _ => r.1

/-- The length of an instruction in bytes. -/
def actLen : CoreAct → Nat
  | .intOp n .. | .floatOp n .. | .vectorOp n .. | .vectorConfig n .. | .jump n .. | .load n .. | .loadFloat n ..
  | .store n .. | .storeFloat n .. | .vectorLoad n .. | .vectorStore n .. => n
  | _ => 4

/-- An uncorrectable error of core `c` (R536): the core fails and its run ends as on poison; a supervisor core stops the
device. -/
def State.coreFailed (s : State) (c : Nat) : State :=
  if c % 32 < 2 then s.fault 0x5902 .device 0
  else
    let job := match s.core c with
      | some x => x.job
      | none => 0xFF
    let cmd := (s.core c).map (fun x => (x.q, x.seq))
    let d := s.faultDetail 0x3901
    (s.fault 0x3901 .core c job cmd).coreEnds c 0x3F .poisoned d

/-- What an ordinary instruction of core `c` does once fetched. -/
def State.coreDo (s : State) (c : Nat) (x : CoreSt) : CoreAct → State
  | .intOp n rd v fl => (s.setCore c (x.raiseFlags fl)).coreNext c n rd.val v
  | .floatOp n fd v fl =>
    (s.setCore c ({ x with fp := setNth x.fp fd.val v }.raiseFlags fl)).coreNext c n 0 0
  | .vectorOp n vd bs fl =>
    (s.setCore c ({ x with v := setNth x.v vd.val (padTo 64 bs) }.raiseFlags fl)).coreNext c n 0 0
  | .vectorConfig n rd vl vt =>
    (s.setCore c { x with csrs := mset (mset x.csrs 0xC20 vl) 0xC21 vt }).coreNext c n rd.val vl
  | .jump n rd t => s.setCore c { x.setX rd.val (x.pc + BitVec.ofNat 64 n) with pc := t }
  | .load n w sg rd rs1 imm =>
    s.coreRead c false (x.xr rs1.val + imm).toNat (widthBytes w) fun s bs => s.coreNext c n rd.val (loadValue w sg bs)
  | .loadFloat n w fd rs1 imm =>
    s.coreRead c false (x.xr rs1.val + imm).toNat (widthBytes w) fun s bs =>
      let v : W64 := BitVec.ofNat 64 (leNat bs + (2 ^ 64 - 2 ^ (8 * (widthBytes w))))
      match s.core c with
      | some y => (s.setCore c { y with fp := setNth y.fp fd.val v }).coreNext c n 0 0
      | none => s
  | .store n w rs2 rs1 imm =>
    s.coreWrite c (x.xr rs1.val + imm).toNat (leBytes (widthBytes w) (x.xr rs2.val).toNat) fun s => s.coreNext c n 0 0
  | .storeFloat n w fs2 rs1 imm =>
    s.coreWrite c (x.xr rs1.val + imm).toNat (leBytes (widthBytes w) (nth x.fp fs2.val 0).toNat) fun s => s.coreNext c n 0 0
  | .vectorLoad n w es => s.vecLoad c n w es
  | .vectorStore n w es => s.vecStore c n w es
  | .amo op wide rd rs2 rs1 => s.coreAmo c op wide rd.val rs2.val rs1.val
  | .lr wide rd rs1 => s.coreLr c wide rd.val rs1.val
  | .sc wide rd rs2 rs1 => s.coreSc c wide rd.val rs2.val rs1.val
  | .csr n op rd v => s.coreCsr c x n.toNat op rd.val v
  | .fence => s.coreNext c 4 0 0
  | .fenceI => (s.setCore c { x with code := [] }).coreNext c 4 0 0
  | .fail => s.coreFailed c

/-- `CORE_INSTRUCTION` (R283, R284, R288): the instruction at the `pc` of core `c`, which is not of the custom-0 opcode. -/
def execCoreInstruction (c : CoreId) (act : CoreAct) (s : State) : Host.Outcome State Fault Refusal :=
  .next (if act = .fail then s.coreFailed c.val
    else s.coreStep c.val (actLen act) (fun bs => leNat bs % 128 != 0b0001011) (fun s x => s.coreDo c.val x act))

/-- `CORE_TRAP` (R288): an exception of core `c` ends the run; a translation fault completes `DENIED`, any other exception
`BAD_COMMAND`. -/
def execCoreTrap (c : CoreId) (cause : BitVec 8) (s : State) : Host.Outcome State Fault Refusal :=
  .next (match s.core c.val with
    | some x =>
      if s.running && x.exited.isNone && x.trapped.isNone then
        s.coreEnds c.val cause.toNat (if cause = 12 ∨ cause = 13 ∨ cause = 15 then .denied else .badCommand)
      else s
    | none => s)

/-! ## Responses (R465, R469, R447) -/

/-- A line that core `c` waited for arrives, with or without a mark; the instruction that missed runs again. -/
def State.coreLineArrived (s : State) (c : Nat) (bs : List Byte) (mark : Bool) : State :=
  match s.core c with
  | none => s
  | some x =>
    match x.wait with
    | .line code line => (s.setCore c { x with wait := .none }).fillLine c line code (padTo 64 bs) mark
    | _ => s

/-- The old value of a remote atomic arrives at core `c`. -/
def State.coreAtomicArrived (s : State) (c : Nat) (old : Nat) : State :=
  match s.core c with
  | none => s
  | some x =>
    match x.wait with
    | .atomic wide rd => (s.setCore c { x with wait := .none }).coreNext c 4 rd (oldValue wide old)
    | _ => s

/-- A write of core `c` has been acknowledged: a signal that waits may go, and a run may be over (R284, R462). -/
def State.coreAcked (s : State) (c : Nat) : State :=
  match s.core c with
  | none => s
  | some x => (s.flushDone c).coresSettle x.q x.seq

/-- A request of core `c` fails with a status (R469, R470): its run ends. -/
def State.coreRequestFailed (s : State) (c : Nat) (st : Status) : State :=
  match s.core c with
  | none => s
  | some x => s.endCores x.q x.seq st

/-- A write of core `c` met a poisoned leaf at its destination (R469). -/
def State.coreWritePoisoned (s : State) (c : Nat) : State :=
  match s.core c with
  | none => s
  | some x => (s.setCore c { x with poisonWrite := true }).coreAcked c

end Sys2Proof.Machine
end

