-- ==== Sys2Proof/Machine/Meander.lean ====
section
/-! DEFINITION. The Meander ring engine: shards (R319), `RING_RUN` and its checks (R321 to R324), setup (R325), circulation (R326 to
R329, R444), step words and the feed (R333, R334), the ring stall limit and lost members (R336 to R340). -/

namespace Sys2Proof.Machine

/-! ## Shards (R316, R319) -/

/-- `M` of ring group `g`. -/
def State.ringMembers (s : State) (g : Nat) : Nat := s.f F.MRE_G_CFG_MEMBERS_M1 g + 1

/-- The chunk C of group `g`. -/
def State.ringChunk (s : State) (g : Nat) : Nat := s.f F.MRE_G_SEQ_CHUNK g

/-- The length of the shard of member `o` (R319). -/
def State.shardLen (s : State) (g o : Nat) : Nat :=
  let c := s.ringChunk g
  if s.fb F.MRE_G_CFG_ZIGZAG g then 2 * c else min ((o + 1) * c) (s.f F.MRE_G_SEQ_SEQ_LEN g) - o * c

/-- The global position of local position `p` of member `o` (R319). -/
def State.globalPos (s : State) (g o p : Nat) : Nat :=
  let c := s.ringChunk g
  if s.fb F.MRE_G_CFG_ZIGZAG g ∧ c ≤ p then (2 * s.ringMembers g - 1 - o) * c + p - c else o * c + p

/-- The origin of the shard that this member holds in step `j` (R326). -/
def State.ringOrigin (s : State) (g j : Nat) : Nat :=
  let m := s.ringMembers g
  (s.ringIndex g + m - j % m) % m

/-! ## The order of blocks (R326, R327) -/

/-- The KV shape of a run's entry. -/
def State.ringShape (s : State) (x : RingRun) : KvShape := s.reqShape (s.req x.entry)

/-- `B_g` of a run's streams (R293). -/
def State.ringBlockBytes (s : State) (x : RingRun) : Nat := (s.ringShape x).block ((s.ringShape x).isDraft x.s0)

/-- `D` of a run's streams. -/
def State.ringDim (s : State) (x : RingRun) : Nat :=
  let k := s.ringShape x
  if k.isDraft x.s0 then k.d1 else k.d0

/-- The streams of lane `i` (R322), ascending. -/
def RingRun.streams (x : RingRun) (i : Nat) : List Nat :=
  ((List.range x.scount).filter (fun k => k / 2 % max 1 x.lanes.length == i)).map (x.s0 + ·)

/-- Blocks of lane `i` in step `j`. -/
def State.laneBlocks (s : State) (g : Nat) (x : RingRun) (i j : Nat) : Nat :=
  ceilDiv (s.shardLen g (s.ringOrigin g j)) (s.ringShape x).t * (x.streams i).length

/-- Blocks of lane `i` in the first `n` steps. -/
def State.laneTotal (s : State) (g : Nat) (x : RingRun) (i n : Nat) : Nat :=
  (List.range n).foldl (fun a j => a + s.laneBlocks g x i j) 0

/-- A block of a lane (R327): step, origin, page, stream, valid rows, global position, and whether it is the last of its step. -/
structure BlockId where
  step : Nat
  origin : Nat
  page : Nat
  stream : Nat
  rows : Nat
  gpos : Nat
  last : Bool
  deriving DecidableEq, Repr

/-- The `n`-th block of lane `i`, counted from the start of the run; `fuel` is the steps that remain from step `j` on. -/
def State.blockAt (s : State) (g : Nat) (x : RingRun) (i : Nat) : Nat → Nat → Nat → Option BlockId
  | 0, _, _ => none
  | fuel + 1, j, n =>
    let per := s.laneBlocks g x i j
    if n < per then
      let o := s.ringOrigin g j
      let ss := x.streams i
      let t := (s.ringShape x).t
      let p := n / max 1 ss.length
      some { step := j, origin := o, page := p, stream := nth ss (n % max 1 ss.length) 0
             rows := min t (s.shardLen g o - p * t), gpos := s.globalPos g o (p * t), last := n + 1 == per }
    else s.blockAt g x i fuel (j + 1) (n - per)

/-- The block head (R327). -/
def State.blockHead (s : State) (g : Nat) (b : BlockId) : List Byte :=
  leBytes 4 (s.f F.MRE_G_STEPMAX_RUN_ID g) ++ leBytes 2 b.origin ++ leBytes 2 b.step ++ leBytes 4 b.page ++ leBytes 4 b.gpos ++
    leBytes 2 b.rows ++ leBytes 2 b.stream ++ leBytes 1 (if b.last then 1 else 0) ++ List.replicate 43 0#8

/-! ## Lanes and their rings (R322, R323, R328) -/

/-- A ring's declaration and counters. -/
def State.ringOf (s : State) (n r : Nat) : RingDecl × RingPtr :=
  (RingDecl.ofWord (muRing (s.unitProg true n) r), nth (s.mu n).rings r .zero)

/-- The local offset of the slot that a counter value of a ring names. -/
def State.slotOffset (s : State) (n r k : Nat) : Nat := 0x100000 * n + (s.ringOf n r).1.slotAt k

/-- The counters of a ring replaced. -/
def State.setRingPtr (s : State) (n r : Nat) (p : RingPtr) : State := s.setRing n r p

/-- The lane map (R322): the rings of the lanes and the feed ring, as memory unit and ring; `none` where it is unreadable or the lane
count is out of range. -/
def State.laneMap (s : State) (n : Nat) (r : Rec) : Option (List (Nat × Nat) × Nat × Nat) :=
  match s.readVirt n r.w4.toNat 144 with
  | .error _ => none
  | .ok (bs, _) =>
    let w := fun i => leWord (slice bs (8 * i) 8)
    let l := bitsOf (w 0) 0 5
    if l = 0 ∨ 16 < l then none
    else
      let ring := fun (v : W64) => (bitsOf v 0 10, bitsOf v 10 2)
      some ((List.range l).map (fun i => ring (w (1 + i))), ring (w 17))

/-! ## Operands and checks (R321, R323) -/

/-- `GROUP`. -/
def Rec.ringGroup (r : Rec) : Nat := bitsOf r.w3 0 4
/-- `FEED`. -/
def Rec.ringFeed (r : Rec) : Bool := bitOf r.w3 4
/-- `ENTRY`. -/
def Rec.ringEntry (r : Rec) : Nat := bitsOf r.w3 16 16
/-- `S0`. -/
def Rec.ringS0 (r : Rec) : Nat := bitsOf r.w3 32 16
/-- `SCOUNT`. -/
def Rec.ringScount (r : Rec) : Nat := bitsOf r.w3 48 16

/-- The encoding checks of R323. -/
def ringEncoding (s : State) (n : Nat) (r : Rec) : Option W64 :=
  let g := r.ringGroup
  let e := s.req r.ringEntry
  let k := s.reqShape e
  match reservedField [(3, 5, 11), (6, 16, 48)] r with
  | some d => some d
  | none =>
    if !s.fb F.MRE_G_CFG_VALID g then some (badField 3 0)
    else if e.f qfState ≠ 10 ∨ e.f qfRing ≠ g then some (badField 3 16)
    else if r.ringS0 % 2 ≠ 0 ∨ k.streams < r.ringS0 + r.ringScount then some (badField 3 32)
    else if r.ringScount < 2 ∨ r.ringScount % 2 ≠ 0 ∨ k.isDraft r.ringS0 ≠ k.isDraft (r.ringS0 + r.ringScount - 1) then
      some (badField 3 48)
    else if r.w4.toNat % 64 ≠ 0 then some (badField 4 0)
    else if r.w5.toNat % 4096 ≠ 0 then some (badField 5 0)
    else if bitsOf r.w6 0 16 = 0 then some (badField 6 0)
    else if s.ringChunk g % k.t ≠ 0 then some (badField 3 0)
    else if e.f qfLength ≠ s.shardLen g (s.ringIndex g) then some (badField 3 16)
    else if (s.laneMap n r).isNone then some (badField 4 0)
    else none

/-- Whether job `n` owns ring `r` of memory unit `u` (R218). -/
def State.ownsRing (s : State) (n u r : Nat) : Bool :=
  let w := s.unitWindow u
  s.fb F.MU_RING_OWN_OWNED w r && s.f F.MU_RING_OWN_OWNER_JOB w r == n

/-- The rings that a `RING_RUN` names: its lanes, and the feed ring where it feeds. -/
def State.namedRings (s : State) (n : Nat) (r : Rec) : List (Nat × Nat) :=
  match s.laneMap n r with
  | none => []
  | some (ls, f) => ls ++ if r.ringFeed then [f] else []

/-- The checks of a lane or feed ring (R323): declared by the job's active cast, with the right producer, consumers and slot size, and
empty. -/
def State.ringReady (s : State) (n : Nat) (u : Nat × Nat) (feed : Bool) (lines : Nat) : Bool :=
  let z := s.ringOf u.1 u.2
  let d := z.1
  s.hasUnit u.1 && s.ownsDale n (u.1 / 32) && (s.activeSlot (u.1 / 32)).state != .empty &&
  d.valid && d.keep && d.producer == 2 && decide (lines ≤ d.lines) &&
  (if feed then !d.twoCons else d.twoCons && d.cons1Ext) &&
  z.2.tail == z.2.cons0 && (feed || z.2.tail == z.2.cons1)

/-! ## How a run ends (R324, R336 to R340) -/

/-- A run ends with another status than `OK` (R339): the runs of casts that consume its rings, paused ones included, stop with it. -/
def State.endRing (s : State) (g : Nat) (x : RingRun) (st : Status) (detail : W64) : State :=
  let s := s.closeRing g x st detail
  (x.rings.map (fun r => r.1 / 32)).foldl (fun s d =>
    let s := match s.fabric.paused.find? (fun y => y.job == x.job && (s.castRef y.cast).dales.contains d) with
      | some y => s.endPaused y st detail
      | none => s
    match s.runOn d with
    | some (first, y) => if y.job = x.job then s.stopCast first y st detail else s
    | none => s) s

/-- A run ends with a status of its own (R340): notices with cause 3 go out first. -/
def State.ringLocal (s : State) (g : Nat) (x : RingRun) (st : Status) (detail : W64) : State :=
  let k := s.ringIndex g
  ((s.ringCause g 3 k).ringNotices g 3 k).endRing g x st detail

/-- A run ends because an access through translation stopped (R97, R525). -/
def State.ringAccess (s : State) (g : Nat) (x : RingRun) (e : AccErr) (word : Nat) : State :=
  let d := s.accDetail e word
  (s.accFault x.job e (some (x.q, x.seq))).ringLocal g x e.status d

/-- The run of group `g` replaced. -/
def State.setRingRun (s : State) (g : Nat) (x : RingRun) : State := { s with ringRuns := mset s.ringRuns g x }

/-! ## Setup (R325) -/

/-- The values that the setup messages of neighbours must share (R325). -/
def State.setupValues (s : State) (g : Nat) (x : RingRun) : List Nat :=
  [s.ringMembers g, s.f F.MRE_G_NBR_LIST_CRC g, s.f F.MRE_G_STEPMAX_RUN_ID g, s.f F.MRE_G_SEQ_SEQ_LEN g, s.ringChunk g,
   s.f F.MRE_G_CFG_ZIGZAG g, x.lanes.length, x.scount, s.ringBlockBytes x]

/-- The same values as a message carries them. -/
def setupOf (m : RingSetupMsg) : List Nat :=
  [m.members, m.listCrc.toNat, m.runId.toNat, m.seqLen, m.chunk, if m.zigzag then 1 else 0, m.lanes, m.scount, m.blockBytes]

/-- A setup message taken by a run in setup (R325): agreement with a neighbour is noted; a disagreement ends the run. A message that
stands for a neighbour already heard is kept for the next run. -/
def State.takeSetup (s : State) (g : Nat) (m : RingSetupMsg) : State :=
  let keep := { s with ringSetups := mset s.ringSetups g (mgetD s.ringSetups g [] ++ [m]) }
  let pred := m.src.toNat == s.f F.MRE_G_NBR_PRED_CHIP g
  let succ := m.src.toNat == s.f F.MRE_G_NBR_SUCC_CHIP g
  if !s.fb F.MRE_G_CFG_VALID g || !(pred || succ) then s
  else match mget s.ringRuns g with
    | none => keep
    | some x =>
      let k := s.ringIndex g
      let n := s.ringMembers g
      let asPred := pred && !x.predOk
      if s.f F.MRE_G_STAT_STATE g ≠ 1 ∨ !(asPred || (succ && !x.succOk)) then keep
      else if setupOf m ≠ s.setupValues g x ∨ m.index ≠ (if asPred then (k + n - 1) % n else (k + 1) % n) then
        s.endRing g x .badCommand 0
      else
        let x := if asPred then { x with predOk := true } else { x with succOk := true }
        let s := s.setRingRun g x
        if x.predOk && x.succOk then s.setF F.MRE_G_STAT_STATE 2 g else s

/-- The setup messages that came before the run taken in order. -/
def State.takeHeldSetups (s : State) (g : Nat) : State :=
  let ms := mgetD s.ringSetups g []
  ms.foldl (fun s m => s.takeSetup g m) { s with ringSetups := merase s.ringSetups g }

/-- A run begins (R325, R346): its number, the cleared step words and progress, and the setup messages. -/
def State.beginRing (s : State) (g : Nat) (x : RingRun) : State :=
  let id := (s.f F.MRE_G_STEPMAX_RUN_ID g + 1) % 2 ^ 32
  let s := s.setR R.MRE_G_PROG 0 g
  let s := s.setR R.MRE_G_STEPMAX (setBits (0 : W64) 32 32 id) g
  let s := (((s.setF F.MRE_G_STAT_STATE 1 g).setF F.MRE_G_STAT_STEP 0 g).ringCause g 0 0).setRingRun g x
  match s.writeVirt x.job x.part (List.replicate (8 * s.ringMembers g) 0#8) with
  | .error e => s.ringAccess g x e 5
  | .ok s =>
    let m : OutMsg := { OutMsg.blank with op := 0x10, vc := 3, arg0 := s.ringIndex g, extra := g :: s.setupValues g x }
    ((s.ringSend g true m).ringSend g false m).takeHeldSetups g

/-- `RING_RUN` runs (R323, R325): the ring checks, then setup. -/
def State.runRing (s : State) (q seq : Nat) (r : Rec) : State :=
  let n := s.queueJob q
  match ringEncoding s n r, s.laneMap n r with
  | none, some (ls, f) =>
    let x : RingRun :=
      { q := q, seq := seq, job := n, entry := r.ringEntry, s0 := r.ringS0, scount := r.ringScount, part := r.w5.toNat
        hq := bitsOf r.w6 0 16, feed := r.ringFeed, feedMu := f.1, feedRing := f.2
        lanes := ls.map (fun l => { mu := l.1, ring := l.2, own := 0, arrived := 0, forwarded := 0, acked := 0, grants := 0
                                    given := 0, segs := 0 })
        predOk := false, succOk := false, step := 0, since := s.now, fed := 0, m0 := 0, feedE := 0 }
    if !ls.all (fun l => s.ringReady n l false (1 + s.ringBlockBytes x / 64)) ||
        (x.feed && !s.ringReady n f true (s.ringDim x / 16 + 1)) then
      s.finishFlight q seq .badCommand 0 (badField 4 0)
    else s.beginRing r.ringGroup x
  | some d, _ => s.finishFlight q seq .badCommand 0 d
  | none, none => s.finishFlight q seq .badCommand 0 (badField 4 0)

/-- Whether a run in flight is that of a record of queue `q`. -/
def RingRun.isOf (x : RingRun) (q : Nat) (r : Rec) : Bool :=
  x.q == q && x.entry == r.ringEntry && x.s0 == r.ringS0 && x.scount == r.ringScount && x.part == r.w5.toNat &&
  x.hq == bitsOf r.w6 0 16 && x.feed == r.ringFeed

/-- The rings of a `RING_RUN`: of a run in flight those it took at its start, of a waiting record those its lane map names. -/
def State.ringsOf (s : State) (q : Nat) (r : Rec) : List (Nat × Nat) :=
  match mget s.ringRuns r.ringGroup with
  | some x => if x.isOf q r then x.rings else s.namedRings (s.queueJob q) r
  | none => s.namedRings (s.queueJob q) r

/-- Whether a commit changes a ring group, its ports or the ownership of its rings (R331). -/
def ringTouches (s : State) (q : Nat) (r : Rec) (t : Tx) : Bool :=
  let g := r.ringGroup
  let ports := [s.f F.MRE_G_CFG_SEND_PORT g, s.f F.MRE_G_CFG_RECV_PORT g]
  let rings := s.ringsOf q r
  (rings.any (fun u => s.txTouchesDale t (u.1 / 32))) ||
  t.staged.any fun x =>
    ((decide (R.MRE_G_CFG.at g ≤ x.off) && decide (x.off < R.MRE_G_CFG.at g + 0x40)) ||
     ports.any (fun p => decide (R.ALT_PORT_CFG.at p ≤ x.off) && decide (x.off < R.ALT_PORT_CFG.at p + 0x10)) ||
     rings.any (fun u => x.off == R.MU_RING_OWN.at (s.unitWindow u.1) u.2)) &&
    mergeMask (s.reg x.off) x.value x.mask != s.reg x.off

/-- `RING_RUN` (R321, R323). -/
def specRingRun : CmdSpec :=
  { CmdSpec.plain [] State.runRing with
    present := fun s _ => s.part.hasMeander
    encoding := ringEncoding
    owns := fun s q r => s.f F.MRE_G_CFG_OWNER_JOB r.ringGroup == s.queueJob q &&
      (s.namedRings (s.queueJob q) r).all (fun u => s.ownsRing (s.queueJob q) u.1 u.2)
    touches := ringTouches
    engine := 4
    hold := fun s _ r => (mget s.ringRuns r.ringGroup).isSome }

/-- `RING_RUN` (R321). -/
def execRingRun (q : QId) (s : State) : Host.Outcome State Fault Refusal :=
  .next (s.queueCommand specRingRun (fun r => r.opcode == 0x28) q.val)

/-! ## Circulation (R326 to R329) -/

/-- Blocks put into the ring of a lane so far. -/
def LaneSt.put (l : LaneSt) : Nat := l.own + l.arrived

/-- Blocks of a lane that a consumer has released. -/
def State.laneReleased (s : State) (l : LaneSt) (c : Nat) : Nat :=
  l.put - ringLag (s.ringOf l.mu l.ring).2.tail ((s.ringOf l.mu l.ring).2.cons c)

/-- The block a slot ends with: head and tiles written through `EXT_WPORT`, and TAIL advanced (R215, R328). -/
def State.putBlock (s : State) (l : LaneSt) (bs : List Byte) (mark : Bool) : State :=
  let z := s.ringOf l.mu l.ring
  let a := s.slotOffset l.mu l.ring z.2.tail
  ((s.store a bs mark).countLines true a bs.length).setRingPtr l.mu l.ring { z.2 with tail := (z.2.tail + 1) % 65536 }

/-- The segments of a block sent to the successor (R327, R444). -/
def State.sendBlock (s : State) (g i : Nat) (b : BlockId) (bs : List Byte) (mark : Bool) : State :=
  let count := ceilDiv bs.length 4096
  (List.range count).foldl (fun s k => s.ringSend g true { OutMsg.blank with
    op := 0x11, vc := 3, poison := mark, arg0 := i, arg1 := 4096 * k + 2 ^ 32 * k + 2 ^ 48 * count
    extra := [g, s.f F.MRE_G_STEPMAX_RUN_ID g, i, b.origin, b.step, b.page, b.stream, b.rows, b.gpos, if b.last then 1 else 0]
    data := (bs.drop (4096 * k)).take 4096 }) s

/-- What a lane does next: put in an own block, release or forward a slot as consumer 1, grant a slot; `none` when it waits. -/
def State.laneMove (s : State) (g : Nat) (x : RingRun) (i : Nat) : Option (Except AccErr (State × LaneSt)) :=
  match x.lanes[i]? with
  | none => none
  | some l =>
    let m := s.ringMembers g
    let z := s.ringOf l.mu l.ring
    let free := z.1.slots - z.2.fill true
    let rel := s.laneReleased l 1
    let own := s.laneBlocks g x i 0
    let all := s.laneTotal g x i m
    if rel < l.put ∧ (s.laneTotal g x i (m - 1) ≤ rel ∨ 0 < l.grants) then
      let released := s.setRingPtr l.mu l.ring (z.2.release 1)
      if s.laneTotal g x i (m - 1) ≤ rel then some (.ok (released, l))
      else match s.blockAt g x i m 0 rel with
        | none => none
        | some b =>
          let a := s.slotOffset l.mu l.ring z.2.cons1
          let n := 64 + s.ringBlockBytes x
          let t := (released.countLines false a n).sendBlock g i b (s.bytes a n) (s.poisoned a n)
          some (.ok (t, { l with forwarded := l.forwarded + 1, grants := l.grants - 1 }))
    else if l.own < own then
      if free = 0 then none
      else match s.blockAt g x i m 0 l.own with
        | none => none
        | some b =>
          let e := s.req x.entry
          let n := s.ringBlockBytes x
          match s.readVirt x.job (s.pageVa e b.page + (s.ringShape x).offset b.stream) n with
          | .error err => some (.error err)
          | .ok (bs, mark) => some (.ok (s.putBlock l (s.blockHead g b ++ bs) mark, { l with own := l.own + 1 }))
    else if l.given < free ∧ l.put + l.given < all then
      some (.ok (s.ringSend g false { OutMsg.blank with op := 0x12, vc := 3, arg0 := i, extra := [g, i] },
        { l with given := l.given + 1 }))
    else none

/-- A lane moved as far as it goes; `fuel` bounds its moves. -/
def State.lanePump (g i : Nat) : Nat → State → State
  | 0, s => s
  | fuel + 1, s =>
    match mget s.ringRuns g with
    | none => s
    | some x => match s.laneMove g x i with
      | none => s
      | some (.error e) => s.ringAccess g x e 3
      | some (.ok (t, l)) => lanePump g i fuel (t.setRingRun g { x with lanes := setNth x.lanes i l })

/-- Whether the blocks of the first `n` steps satisfy a bound in every lane. -/
def State.lanesAt (s : State) (g : Nat) (x : RingRun) (n : Nat) (f : LaneSt → Nat) : Bool :=
  (List.range x.lanes.length).all fun i =>
    match x.lanes[i]? with
    | some l => decide (s.laneTotal g x i n ≤ f l)
    | none => true

/-- The number of steps, from `n` on, for which a bound holds; `fuel` bounds it. -/
def State.stepsAt (s : State) (g : Nat) (x : RingRun) (f : LaneSt → Nat) : Nat → Nat → Nat
  | 0, n => n
  | fuel + 1, n => if s.lanesAt g x (n + 1) f then s.stepsAt g x f fuel (n + 1) else n

/-- Whether a step has ended (R329): its blocks released by both consumers and every forwarded one acknowledged. -/
def State.stepOver (s : State) (g : Nat) (x : RingRun) (n : Nat) : Bool :=
  s.lanesAt g x n (fun l => s.laneReleased l 0) && s.lanesAt g x n (fun l => s.laneReleased l 1) &&
  s.lanesAt g x (min n (s.ringMembers g - 1)) (fun l => l.acked)

/-- The progress fields and the ends of steps brought up to date (R329, R336, R345, R346); `fuel` bounds the steps. -/
def State.ringSteps (g : Nat) : Nat → State → State
  | 0, s => s
  | fuel + 1, s =>
    match mget s.ringRuns g with
    | none => s
    | some x =>
      let m := s.ringMembers g
      if x.step < m ∧ s.stepOver g x (x.step + 1) then
        let s := s.setF F.MRE_G_STEPMAX_STEPMAX (satTo 32 (max (s.f F.MRE_G_STEPMAX_STEPMAX g) (s.now - x.since))) g
        let n := x.step + 1
        let s := if n < m then s.setF F.MRE_G_STAT_STEP n g
          else s.setF F.MRE_G_STAT_STATE (if x.feed then 3 else 4) g
        ringSteps g fuel (s.setRingRun g { x with step := n, since := s.now })
      else s

/-- Whether everything a run waits for has happened (R324). -/
def State.ringDone (s : State) (g : Nat) (x : RingRun) : Bool :=
  let m := s.ringMembers g
  x.step == m && (!x.feed ||
    (x.fed == m * s.shardLen g (s.ringIndex g) * x.hq &&
     (s.ringOf x.feedMu x.feedRing).2.tail == (s.ringOf x.feedMu x.feedRing).2.cons0))

/-- A run in circulation moved on as far as it goes: its lanes, its steps, and its end (R324). One that a notice ends stands still. -/
def State.ringPump (s : State) (g : Nat) : State :=
  match mget s.ringRuns g with
  | none => s
  | some x =>
    if s.f F.MRE_G_STAT_STATE g < 2 ∨ x.notice.isSome then s
    else
      let s := (List.range x.lanes.length).foldl (fun s i => lanePump g i 512 s) s
      match mget s.ringRuns g with
      | none => s
      | some x =>
        let m := s.ringMembers g
        let s := s.setF F.MRE_G_PROG_STEPS_IN (s.stepsAt g x LaneSt.put (m - s.f F.MRE_G_PROG_STEPS_IN g) (s.f F.MRE_G_PROG_STEPS_IN g)) g
        let s := s.setF F.MRE_G_PROG_STEPS_FWD
          (s.stepsAt g x (fun l => l.acked) (m - 1 - s.f F.MRE_G_PROG_STEPS_FWD g) (s.f F.MRE_G_PROG_STEPS_FWD g)) g
        let s := ringSteps g (m + 1) s
        match mget s.ringRuns g with
        | none => s
        | some x => if s.ringDone g x then s.closeRing g x .ok 0 else s

/-- The fields of an arriving segment that must be those of the block that is due (R325, R327, R444). -/
def State.segmentOk (s : State) (g : Nat) (x : RingRun) (l : LaneSt) (m : RingBlockMsg) (b : BlockId) : Bool :=
  let n := 64 + s.ringBlockBytes x
  m.origin == b.origin && m.step + 1 == b.step && m.page == b.page && m.stream == b.stream && m.rows == b.rows && m.gpos == b.gpos &&
  m.last == b.last && m.segIndex == l.segs && m.segCount == ceilDiv n 4096 && m.offset == 4096 * l.segs &&
  m.data.length == min 4096 (n - 4096 * l.segs) && decide (m.runId.toNat = s.f F.MRE_G_STEPMAX_RUN_ID g)

/-- A segment of a block taken (R328, R444): written at its offset, and with the last one the head, TAIL and the acknowledgement. -/
def State.takeBlock (s : State) (g : Nat) (x : RingRun) (m : RingBlockMsg) : State :=
  match x.lanes[m.lane]? with
  | none => s.ringLocal g x .badCommand 0
  | some l =>
    match s.blockAt g x m.lane (s.ringMembers g) 0 l.put with
    | none => s.ringLocal g x .badCommand 0
    | some b =>
      if l.given = 0 ∨ !s.segmentOk g x l m b then s.ringLocal g x .badCommand 0
      else
        let z := s.ringOf l.mu l.ring
        let a := s.slotOffset l.mu l.ring z.2.tail
        let s := (s.store (a + m.offset) m.data m.poison).countLines true (a + m.offset) m.data.length
        if m.segIndex + 1 < m.segCount then
          let l := { l with segs := l.segs + 1 }
          s.setRingRun g { x with lanes := setNth x.lanes m.lane l }
        else
          let s := s.store a (s.blockHead g b) (s.poisoned a 64)
          let s := s.setRingPtr l.mu l.ring { z.2 with tail := (z.2.tail + 1) % 65536 }
          let s := s.ringSend g false { OutMsg.blank with op := 0x13, vc := 3, arg0 := m.lane, extra := [g, m.lane] }
          let l := { l with segs := 0, arrived := l.arrived + 1, given := l.given - 1 }
          s.setRingRun g { x with lanes := setNth x.lanes m.lane l }

/-- `RING_BLOCK` (R327, R328, R444): a segment from the predecessor. One of another run is ignored. -/
def execRingBlock (g : GroupId) (m : RingBlockMsg) (s : State) : Host.Outcome State Fault Refusal :=
  .next (match mget s.ringRuns g.val with
    | none => s
    | some x =>
      if s.f F.MRE_G_STAT_STATE g.val ≠ 2 ∨ m.runId.toNat ≠ s.f F.MRE_G_STEPMAX_RUN_ID g.val then s
      else (s.takeBlock g.val x m).ringPump g.val)

/-- A change to one lane of the run of a group, and what follows from it. -/
def State.laneEvent (s : State) (g lane : Nat) (f : LaneSt → LaneSt) : State :=
  match mget s.ringRuns g with
  | none => s
  | some x => match x.lanes[lane]? with
    | none => s
    | some l => (s.setRingRun g { x with lanes := setNth x.lanes lane (f l) }).ringPump g

/-- `RING_GRANT` (R328): the successor has a free slot in a lane. -/
def execRingGrant (g : GroupId) (lane : Nat) (s : State) : Host.Outcome State Fault Refusal :=
  .next (s.laneEvent g.val lane (fun l => { l with grants := l.grants + 1 }))

/-- `RING_ACK` (R324, R329): the successor acknowledges a forwarded block. -/
def execRingAck (g : GroupId) (lane : Nat) (s : State) : Host.Outcome State Fault Refusal :=
  .next (s.laneEvent g.val lane (fun l => { l with acked := min l.forwarded (l.acked + 1) }))

/-- `RING_SETUP` (R325): a neighbour's setup message. -/
def execRingSetup (g : GroupId) (m : RingSetupMsg) (s : State) : Host.Outcome State Fault Refusal :=
  .next (if s.part.hasMeander then (s.takeSetup g.val m).ringPump g.val else s)

/-! ## Step words and the feed (R333, R334) -/

/-- `STEP_WORD` (R333): the engine reads step word `index` of a run; the steps done are counted in ascending order. -/
def execStepWord (g : GroupId) (index : Nat) (s : State) : Host.Outcome State Fault Refusal :=
  let n := g.val
  .next (match mget s.ringRuns n with
    | none => s
    | some x =>
      if s.f F.MRE_G_STAT_STATE n < 2 ∨ index ≠ s.f F.MRE_G_PROG_STEPS_DONE n ∨ s.ringMembers n ≤ index then s
      else match s.readVirt x.job (x.part + 8 * index) 8 with
        | .error e => s.ringAccess n x e 5
        | .ok (bs, _) =>
          let due := setBits (setBits (0 : W64) 16 32 (s.f F.MRE_G_STEPMAX_RUN_ID n)) 63 1 1
          if leWord bs = due then (s.setF F.MRE_G_PROG_STEPS_DONE (index + 1) n).ringPump n else s)

/-- The virtual address of the partial record of a step, query row and query head (R332). -/
def State.partialVa (s : State) (g : Nat) (x : RingRun) (j q h : Nat) : Nat :=
  x.part + 8192 + ((j * s.shardLen g (s.ringIndex g) + q) * x.hq + h) * (4 * s.ringDim x + 64)

/-- The running maximum over the tails of a pair from step `j` on, with its NaN events (R334). -/
def State.tailMax (s : State) (g : Nat) (x : RingRun) (q h : Nat) : Nat → Nat → W32 → Except AccErr (W32 × List NanEvent)
  | 0, _, acc => .ok (acc, [])
  | fuel + 1, j, acc =>
    match s.readVirt x.job (s.partialVa g x j q h + 4 * s.ringDim x) 4 with
    | .error e => .error e
    | .ok (bs, _) =>
      let m : W32 := BitVec.ofNat 32 (leNat bs)
      let ev : List NanEvent := if (ofF32 m).isNan then
        [{ firing := 0, stage := 5, src0 := acc.toNat, src1 := m.toNat, src2 := j % 65536 + 65536 * (h % 65536), result := 0x7FC00000 }]
        else []
      match s.tailMax g x q h fuel (j + 1) (f32Max acc m) with
      | .error e => .error e
      | .ok (r, es) => .ok (r, ev ++ es)

/-- m0 and E of a pair from its maximum (R334). The manual gives m0 for a finite maximum and for −∞; for any other it is free. -/
def feedScale (m : W32) (free : Nat) : W32 × W32 :=
  let v := ofF32 m
  if m = f32NegInf then (0, 0x3F800000#32)
  else if v.isNan || v.isInf then (BitVec.ofNat 32 free, 0)
  else (m, 0)

/-- A record of the feed ring (R334): the partial with `m_j`, `l_j`, m0 and E in its tail. -/
def feedRecord (bs : List Byte) (d : Nat) (m0 e : W32) : List Byte :=
  overlay bs (4 * d + 8) (leBytes 4 m0.toNat ++ leBytes 4 e.toNat)

/-- One record written into the feed ring (R334). -/
def State.feedOne (s : State) (g : Nat) (x : RingRun) : State :=
  let m := s.ringMembers g
  let z := s.ringOf x.feedMu x.feedRing
  let pair := x.fed / m
  let q := pair / x.hq
  let h := pair % x.hq
  let j := x.fed % m
  let d := s.ringDim x
  if z.1.slots ≤ z.2.fill false then s
  else
    let start : Except AccErr (State × RingRun × Option W64) :=
      if j ≠ 0 then .ok (s, x, none)
      else match s.tailMax g x q h m 0 f32NegInf with
        | .error e => .error e
        | .ok (mx, es) =>
          let r := s.engineNan x.job 3 es (some (x.q, x.seq))
          let sc := feedScale mx r.1.free
          .ok (r.1.drawn, { x with m0 := sc.1, feedE := sc.2 }, r.2)
    match start with
    | .error e => s.ringAccess g x e 5
    | .ok (s, x, some dt) => s.ringLocal g x .nanTrap dt
    | .ok (s, x, none) =>
      match s.readVirt x.job (s.partialVa g x j q h) (4 * d + 64) with
      | .error e => s.ringAccess g x e 5
      | .ok (bs, mark) =>
        let a := s.slotOffset x.feedMu x.feedRing z.2.tail
        let s := (s.store a (feedRecord bs d x.m0 x.feedE) mark).countLines true a (4 * d + 64)
        let s := s.setRingPtr x.feedMu x.feedRing { z.2 with tail := (z.2.tail + 1) % 65536 }
        (s.setRingRun g { x with fed := x.fed + 1 }).ringPump g

/-- `RING_FEED` (R334): once the steps have ended and all step words are done, the next record goes into the feed ring. -/
def execRingFeed (g : GroupId) (s : State) : Host.Outcome State Fault Refusal :=
  let n := g.val
  let s := s.ringPump n
  .next (match mget s.ringRuns n with
    | none => s
    | some x =>
      if s.f F.MRE_G_STAT_STATE n = 3 ∧ s.f F.MRE_G_PROG_STEPS_DONE n = s.ringMembers n ∧
          x.fed < s.ringMembers n * s.shardLen n (s.ringIndex n) * x.hq then s.feedOne n x
      else s)

/-! ## Slow and lost members (R336 to R338) -/

/-- The ring stall limit in ticks (R344): 0 acts as the reset value. -/
def State.ringLimit (s : State) (g : Nat) : Nat :=
  let l := s.f F.MRE_G_LIMIT_RING_STALL g
  if l = 0 then 0x01312D00 else l

/-- `RING_STALL` (R336): a step or the feed has taken longer than the limit, which applies once the tick in which it is reached is over: a
step that ends, a neighbour lost or a trap in that tick comes first (R340). -/
def execRingStall (g : GroupId) (s : State) : Host.Outcome State Fault Refusal :=
  let n := g.val
  let s := s.ringPump n
  .next (match mget s.ringRuns n with
    | none => s
    | some x =>
      if x.since + s.ringLimit n < s.now then
        let k := s.ringIndex n
        let d := s.faultDetail 0x4701
        (((s.ringFault x).ringCause n 1 k).ringNotices n 1 k).endRing n x .ringStall d
      else s)

/-- Whether a lost neighbour no longer matters to a run (R337): its last block is here and every forwarded block is acknowledged. -/
def State.ringSafe (s : State) (g : Nat) (x : RingRun) : Bool :=
  let m := s.ringMembers g
  decide (2 ≤ s.f F.MRE_G_STAT_STATE g) && s.lanesAt g x m LaneSt.put && s.lanesAt g x (m - 1) (fun l => l.acked)

/-- A neighbour of the run of group `g` has been lost on the port to the successor or to the predecessor (R337). -/
def State.ringNeighbourLost (s : State) (g : Nat) (succ : Bool) : State :=
  match mget s.ringRuns g with
  | none => s
  | some x =>
    if s.ringSafe g x then s
    else
      let k := s.ringIndex g
      let d := s.faultDetail 0x4701
      (((s.ringFault x).ringCause g 2 k).ringNotice g (!succ) 2 k).endRing g x .memberLost d

/-- A logical port, or the chip behind it, has been lost: the runs that use it learn of it (R337). -/
def State.ringsLose (s : State) (lost : Nat → Bool → Bool) : State :=
  (s.ringRuns.map (fun x => x.1)).foldl (fun s g =>
    if lost g true then s.ringNeighbourLost g true else if lost g false then s.ringNeighbourLost g false else s) s

/-- The runs whose group uses logical port `p` lose that neighbour. -/
def State.ringPortLost (s : State) (p : Nat) : State :=
  s.ringsLose (fun g succ => (if succ then s.f F.MRE_G_CFG_SEND_PORT g else s.f F.MRE_G_CFG_RECV_PORT g) == p)

/-- The runs whose neighbour is a chip lose that neighbour. -/
def State.ringChipLost (s : State) (chip : Nat) : State :=
  s.ringsLose (fun g succ => (if succ then s.f F.MRE_G_NBR_SUCC_CHIP g else s.f F.MRE_G_NBR_PRED_CHIP g) == chip)

/-- The notice that decides of one received before and one that arrives (R340): the first, but in one tick cause 2. -/
def noticeOf (old : Option (Nat × Nat)) (cause member : Nat) : Nat × Nat :=
  match old with
  | some (c, m) => if cause = 2 ∧ c ≠ 2 then (cause, member) else (c, m)
  | none => (cause, member)

/-- `RING_ABORT` (R338): a neighbour's notice is passed on and ends the run when the tick is over; one for another run is discarded. -/
def execRingAbort (g : GroupId) (runId : BitVec 32) (cause : Fin 4) (member : Nat) (fromPred : Bool) (s : State) :
    Host.Outcome State Fault Refusal :=
  let n := g.val
  .next (match mget s.ringRuns n with
    | none => s
    | some x =>
      if runId.toNat ≠ s.f F.MRE_G_STEPMAX_RUN_ID n then s
      else (s.ringNotice n fromPred cause.val member).setRingRun n { x with notice := some (noticeOf x.notice cause.val member) })

/-- A run that a notice of this tick ends (R338): one fault, the cause and the member that raised it, and the status of the cause. -/
def State.endNoticed (s : State) (g : Nat) : State :=
  match mget s.ringRuns g with
  | none => s
  | some x => match x.notice with
    | none => s
    | some (c, m) =>
      let d := s.faultDetail 0x4701
      ((s.ringFault x).ringCause g c m).endRing g x (if c = 2 then .memberLost else .ringStall) d

/-- The runs that a notice of the tick that ends has ended. -/
def State.settleNotices (s : State) : State := (s.ringRuns.map (fun x => x.1)).foldl (fun s g => s.endNoticed g) s

end Sys2Proof.Machine
end

