-- ==== Sys2Proof/Machine/Watershed.lean ====
section
/-! DEFINITION. The Watershed unit: `ROUTE` in its three phases (R347 to R366), the exchange of token rows, the limit of R368,
and the prefix-sum sorter (R367). -/

namespace Sys2Proof.Machine

/-! ## Groups -/

/-- The settings of a group as its registers hold them (R373 to R375). -/
def State.routeLive (s : State) (g : Nat) : RouteSet where
  job := s.f F.WSU_G_CFG_OWNER_JOB g
  members := s.f F.WSU_G_CFG_MEMBERS_M1 g + 1
  index := s.f F.WSU_G_CFG_INDEX g
  recv := s.f F.WSU_G_RECV_FIRST g
  ret := s.f F.WSU_G_RET_FIRST g
  chips := (List.range 64).map (fun m => bitsOf (s.r R.WSU_G_CHIPS g (m / 4)) (12 * (m % 4)) 12)

/-- The settings in force for a group: those captured at its `PLAN`, else those of its registers (R351). -/
def State.routeSet (s : State) (g : Nat) : RouteSet :=
  match (s.route g).draft, (s.route g).plan with
  | some p, _ | none, some p => p.group
  | none, none => s.routeLive g

/-- `M` of group `g` (R373). -/
def State.routeMembers (s : State) (g : Nat) : Nat := (s.routeSet g).members

/-- This member's index. -/
def State.routeIndex (s : State) (g : Nat) : Nat := (s.routeSet g).index

/-- The chip of member `m` of group `g` (R375). -/
def State.routeChip (s : State) (g m : Nat) : Nat := nth (s.routeSet g).chips m 0

/-- The members of a group beside this one, in ascending order. -/
def State.routeOthers (s : State) (g : Nat) : List Nat := (List.range (s.routeMembers g)).filter (fun m => m != s.routeIndex g)

/-- `BATCH` of group `g` (R376). -/
def State.batch (s : State) (g : Nat) : Nat := s.f F.WSU_G_STAT_BATCH g

/-- Experts a plan covers. -/
def RoutePlan.experts (p : RoutePlan) : Nat := bitsOf p.cfg 27 13
/-- Slots of each expert. -/
def RoutePlan.cap (p : RoutePlan) : Nat := bitsOf p.cfg 40 16
/-- `ROW_BYTES`. -/
def RoutePlan.rowBytes (p : RoutePlan) : Nat := 64 * p.rowLines
/-- Ranks of a return row (R361): `HASH_K` under hash selection, `K_MAX` otherwise. -/
def RoutePlan.ranks (p : RoutePlan) : Nat := if p.hash then bitsOf p.cfg 22 5 else bitsOf p.cfg 17 5
/-- Whether expert `e` exists (R349). -/
def RoutePlan.valid (p : RoutePlan) (e : Nat) : Bool := (nth p.map e 0).testBit 31
/-- The member of expert `e`. -/
def RoutePlan.member (p : RoutePlan) (e : Nat) : Nat := nth p.map e 0 % 64
/-- The local index of expert `e`. -/
def RoutePlan.localOf (p : RoutePlan) (e : Nat) : Nat := nth p.map e 0 / 64 % 1024
/-- The local experts of member `m`: `X_m`. -/
def RoutePlan.locals (p : RoutePlan) (m : Nat) : Nat :=
  ((List.range p.experts).filter (fun e => p.valid e && p.member e == m)).length

/-- The start of the input rows in the receive area (R362). -/
def RoutePlan.inAt (p : RoutePlan) (x m : Nat) : Nat := roundUp (4 * x * m * p.cap) 4096
/-- The start of the output rows in the receive area (R362). -/
def RoutePlan.outAt (p : RoutePlan) (x m : Nat) : Nat := p.inAt x m + x * m * p.cap * p.rowBytes

/-- The first local offset of the receive area (R362). -/
def State.recvAt (s : State) (g : Nat) : Nat := frameAddr (s.routeSet g).recv
/-- The first local offset of the return area (R361). -/
def State.returnAt (s : State) (g : Nat) : Nat := frameAddr (s.routeSet g).ret
/-- The return row of a token and rank (R361). -/
def State.returnRow (s : State) (g : Nat) (p : RoutePlan) (t i : Nat) : Nat := s.returnAt g + (t * p.ranks + i) * p.rowBytes

/-! ## Operands (R347, R350) -/

/-- `TOKENS`. -/
def Rec.routeTokens (r : Rec) : Nat := bitsOf r.w3 16 16

/-- What must not change between the phases of a batch (R351): `LAYER`, `TOKENS` and the route block. -/
def Rec.routeKey (r : Rec) : Nat × Nat × Nat := (r.routeLayer, r.routeTokens, r.w4.toNat)

/-- The encoding checks of R350 that need no memory. -/
def routeEncoding (s : State) (_n : Nat) (r : Rec) : Option W64 :=
  match reservedField [(3, 13, 3), (3, 32, 32), (5, 0, 64), (6, 0, 64)] r with
  | some d => some d
  | none =>
    if r.routePhase = 3 then some (badField 3 10)
    else if r.routeTokens = 0 ∨ 16384 < r.routeTokens then some (badField 3 16)
    else if r.w4.toNat % 64 ≠ 0 then some (badField 4 0)
    else if !s.fb F.WSU_L_CFG_VALID r.routeLayer then some (badField 3 0)
    else if !s.fb F.WSU_G_CFG_VALID r.routeGroup then some (badField 3 6)
    else none

/-- Why a plan cannot be made: an access, or a field at fault. -/
inductive PlanErr where
  | acc (e : AccErr)
  | bad (d : W64)
  deriving DecidableEq, Repr

/-- Whether the entries of a map that name member `m` use the local indexes 0 to X_m − 1, each once (R349). -/
def RoutePlan.localsOk (p : RoutePlan) (m : Nat) : Bool :=
  let ls := ((List.range p.experts).filter (fun e => p.valid e && p.member e == m)).map p.localOf
  decide (ls.length ≤ 1024) && ls.foldl sinsert [] == List.range ls.length

/-- Whether a map obeys R349 for a group of `m` members. -/
def RoutePlan.mapOk (p : RoutePlan) (m : Nat) : Bool :=
  p.map.all (fun w => w / 65536 % 32768 == 0 && (!w.testBit 31 || decide (w % 64 < m))) &&
  (List.range m).all p.localsOk

/-- Whether the areas of R361 and R362 fit the frames of a group. -/
def State.areasFit (s : State) (g : Nat) (p : RoutePlan) : Bool :=
  let m := p.group.members
  let x := p.locals p.group.index
  decide (p.outAt x m + x * m * p.cap * p.rowBytes ≤ s.f F.WSU_G_RECV_FRAMES g * frameBytes) &&
  decide (p.tokens * p.ranks * p.rowBytes ≤ s.f F.WSU_G_RET_FRAMES g * frameBytes)

/-- The settings, the map and the route block that a `PLAN` captures, with `SCORES` and `TOKENS_AT`, checked as R350 says. -/
def State.capturePlan (s : State) (n : Nat) (r : Rec) : Except PlanErr (RoutePlan × Nat × Nat) :=
  let cfg := s.r R.WSU_L_CFG r.routeLayer
  match s.readVirt n r.w4.toNat 64 with
  | .error e => .error (.acc e)
  | .ok (bs, _) =>
    let w := fun i => nth (leWords 8 bs) i (0 : W64)
    let p : RoutePlan :=
      { layer := r.routeLayer, tokens := r.routeTokens, block := r.w4.toNat, hash := bitOf r.w3 12 || bitsOf cfg 9 2 == 2
        cfg := cfg, param := s.r R.WSU_L_PARAM r.routeLayer, map := [], mapCrc := 0, choices := []
        planAt := (w 3).toNat, act := (w 4).toNat, rowLines := bitsOf (w 5) 0 11
        group := s.routeLive r.routeGroup }
    if p.rowLines = 0 ∨ 1024 < p.rowLines ∨ bitsOf (w 5) 11 53 ≠ 0 ∨ w 6 ≠ 0 ∨ w 7 ≠ 0 ∨ p.planAt % 4096 ≠ 0 then
      .error (.bad (badField 4 0))
    else if 65536 < p.tokens * p.ranks then .error (.bad (badField 3 16))
    else match s.readVirt n (w 2).toNat (4 * p.experts) with
      | .error e => .error (.acc e)
      | .ok (ms, _) =>
        let p := { p with map := (List.range p.experts).map (fun e => leNat (slice ms (4 * e) 4)), mapCrc := (crc32 ms).toNat }
        if !p.mapOk p.group.members || !s.areasFit r.routeGroup p then .error (.bad (badField 4 0))
        else .ok (p, (w 0).toNat, (w 1).toNat)

/-- Whether a phase is in order (R351). -/
def State.routeInOrder (s : State) (r : Rec) : Bool :=
  let g := r.routeGroup
  s.f F.WSU_G_STAT_PHASE g == r.routePhase && (r.routePhase == 0 || (s.route g).key == some r.routeKey)

/-- The status and `DETAIL` of a plan error. -/
def State.planErr (s : State) (n : Nat) (e : PlanErr) (cmd : Option (Nat × Nat)) : State × Status × W64 :=
  match e with
  | .bad d => (s, .badCommand, d)
  | .acc a => (s.accFault n a cmd, a.status, s.accDetail a 4)

/-- The checks of R350 at step 3 that read the route block, the map and the phase state. -/
def routeEarly (s : State) (q : Nat) (r : Rec) : Except (State × Status × W64) State :=
  let n := s.queueJob q
  let cmd := some (q, s.headSeq q)
  if !s.routeInOrder r then .error (s, .badCommand, badField 3 10)
  else if r.routePhase ≠ 0 then .ok s
  else match s.capturePlan n r with
    | .ok _ => .ok s
    | .error e =>
      .error (s.planErr n e cmd)

/-! ## Choosing experts (R352 to R354) -/

/-- The mixing function of R354. -/
def hashMix (x : Nat) : Nat :=
  let x := Nat.xor x (x / 2 ^ 16)
  let x := x * 0x2C1B3C6D % 2 ^ 32
  let x := Nat.xor x (x / 2 ^ 12)
  let x := x * 0x297A2D39 % 2 ^ 32
  Nat.xor x (x / 2 ^ 15)

/-- The probing loop of R354; `fuel` is what remains of its 4k probes. -/
def hashProbe (key e k : Nat) (valid : Nat → Bool) : Nat → Nat → List Nat → List Nat
  | 0, _, out => out
  | fuel + 1, i, out =>
    if k ≤ out.length then out
    else
      let c := hashMix ((key + i) % 2 ^ 32) * e / 2 ^ 32
      hashProbe key e k valid fuel (i + 1) (if valid c && !out.contains c then out ++ [c] else out)

/-- The ascending fill of R354; `fuel` bounds the experts it looks at. -/
def hashFill (e k : Nat) (valid : Nat → Bool) : Nat → Nat → List Nat → List Nat
  | 0, _, out => out
  | fuel + 1, c, out =>
    if k ≤ out.length then out
    else hashFill e k valid fuel ((c + 1) % e) (if valid c && !out.contains c then out ++ [c] else out)

/-- The experts of a token under hash selection, in rank order (R354). -/
def hashChoices (tok pos salt e k : Nat) (valid : Nat → Bool) : List Nat :=
  let key := hashMix (Nat.xor tok (hashMix (Nat.xor pos salt)))
  hashFill e k valid e (key * e / 2 ^ 32) (hashProbe key e k valid (4 * k) 0 [])

/-- The experts of a token by score, in rank order, with their scores (R352, R353). -/
def RoutePlan.byScore (p : RoutePlan) (scores : List F32) : List (Nat × F32) :=
  let all := sortCands ((indexed scores).filter (fun x => p.valid x.1 && !(ofF32 x.2).isNan && x.2 != f32NegInf))
  let thresh : F32 := BitVec.ofNat 32 (bitsOf p.param 0 32)
  let bound := if bitsOf p.cfg 9 2 = 1 then f32Add ((all.head?).elim 0 (fun x => x.2)) thresh else thresh
  let n := (all.filter (fun x => !f32Gt bound x.2)).length
  all.take (min (max n (bitsOf p.cfg 12 5)) (bitsOf p.cfg 17 5))

/-- An unassigned choice. -/
def Choice.of (x : Nat × F32) : Choice := { expert := x.1, weight := x.2, slot := 0, accepted := false }

/-- The NaN events of a token's scores (R352). -/
def scoreEvents (t : Nat) (scores : List F32) : List NanEvent :=
  (indexed scores).filterMap fun x =>
    if (ofF32 x.2).isNan then
      some { firing := 0, stage := 5, src0 := x.2.toNat, src1 := t, src2 := x.1, result := 0x7FC00000 }
    else none

/-- The choices of tokens from `t` on under threshold selection, with the NaN events and a poison mark met. -/
def State.chooseByScore (s : State) (n : Nat) (p : RoutePlan) (at_ : Nat) :
    Nat → Nat → Except AccErr (List (List Choice) × List NanEvent × Bool)
  | 0, _ => .ok ([], [], false)
  | fuel + 1, t =>
    match s.readVirt n (at_ + t * roundUp (4 * p.experts) 64) (4 * p.experts) with
    | .error e => .error e
    | .ok (bs, mark) =>
      let scores : List F32 := (List.range p.experts).map (fun e => BitVec.ofNat 32 (leNat (slice bs (4 * e) 4)))
      match s.chooseByScore n p at_ fuel (t + 1) with
      | .error e => .error e
      | .ok (cs, es, m) => .ok ((p.byScore scores).map Choice.of :: cs, scoreEvents t scores ++ es, mark || m)

/-- The choices of every token under hash selection (R354). -/
def State.chooseByHash (s : State) (n : Nat) (p : RoutePlan) (at_ : Nat) : Except AccErr (List (List Choice)) :=
  let valids := ((List.range p.experts).filter p.valid).length
  let k := min (bitsOf p.cfg 22 5) valids
  let w := f32Div 0x3F800000#32 (toF32 (.fin false k 0))
  match s.readVirt n at_ (8 * p.tokens) with
  | .error e => .error e
  | .ok (bs, _) => .ok ((List.range p.tokens).map fun t =>
      let x := leWord (slice bs (8 * t) 8)
      (hashChoices (bitsOf x 0 32) (bitsOf x 32 28) (bitsOf p.param 32 32) p.experts k p.valid).map (fun e => Choice.of (e, w)))

/-! ## Slots and weights (R355 to R357) -/

/-- One rank-`i` choice of the pass: the slots used so far and the choice as it stands afterwards. -/
def assignOne (cap : Nat) (used : SMap Nat) (c : Choice) : SMap Nat × Choice :=
  let u := mgetD used c.expert 0
  if u < cap then (mset used c.expert (u + 1), { c with slot := u, accepted := true }) else (used, c)

/-- Pass `i` over the tokens in ascending order (R355). -/
def assignPass (cap i : Nat) : SMap Nat → List (List Choice) → SMap Nat × List (List Choice)
  | used, [] => (used, [])
  | used, cs :: t =>
    match cs[i]? with
    | none =>
      let r := assignPass cap i used t
      (r.1, cs :: r.2)
    | some c =>
      let a := assignOne cap used c
      let r := assignPass cap i a.1 t
      (r.1, setNth cs i a.2 :: r.2)

/-- Slots in rank passes (R355). -/
def assignSlots (cap kmax : Nat) (cs : List (List Choice)) : List (List Choice) :=
  ((List.range kmax).foldl (fun (a : SMap Nat × List (List Choice)) i => assignPass cap i a.1 a.2) ([], cs)).2

/-- The weights of a token's choices (R356), and whether renormalisation was left out. -/
def renorm (on : Bool) (cs : List Choice) : List Choice × Bool :=
  let acc := cs.filter (fun c => c.accepted)
  let zeroed := cs.map (fun c => if c.accepted then c else { c with weight := 0 })
  if !on || acc.isEmpty then (zeroed, false)
  else
    let sum := acc.foldl (fun a c => f32Add a c.weight) (0 : F32)
    let x := ofF32 sum
    if !x.isNan && !x.isInf && f32Gt sum 0 then
      (zeroed.map (fun c => if c.accepted then { c with weight := f32Div c.weight sum } else c), false)
    else (zeroed, true)

/-! ## Sending and receiving: the common parts -/

/-- The header values of R366 with the group, the phase and the slot index, as a message carries them. -/
def State.routeExtra (s : State) (g phase : Nat) (p : RoutePlan) (slot : Nat) : List Nat :=
  [g, phase, p.layer, s.batch g, s.routeMembers g, p.cap, p.experts, p.rowLines, p.mapCrc, slot]

/-- `HELD` of group `g` (R376). -/
def State.refreshHeld (s : State) (g : Nat) : State :=
  let next := (s.batch g + 1) % 2 ^ 20
  s.setF F.WSU_G_STAT_HELD (if (s.route g).held.any (fun h => match h with
    | .row m => m.hdr.batch == next
    | .done _ _ hdr _ => hdr.batch == next) then 1 else 0) g

/-- A response to member `src` of group `g` for one of its messages (R469); an index that names no member gets none. -/
def State.routeAnswer (s : State) (g src xid st : Nat) : State :=
  if s.routeMembers g ≤ src then s
  else
    let m : OutMsg := { OutMsg.blank with
      op := 0x04, src := s.chip, dst := s.routeChip g src, vc := 1, job := s.f F.WSU_G_CFG_OWNER_JOB g, xid := xid, arg0 := st }
    (s.sendPlainRoute m).1

/-- What a receiver makes of a message (R366): refused, held, or taken with the plan it belongs to. -/
inductive Judged where
  | refuse
  | hold
  | take (p : RoutePlan)
  deriving DecidableEq, Repr

/-- The header comparison of R366. A message of the present batch is held too while this member has no plan for it. -/
def State.judge (s : State) (g src : Nat) (h : RouteHdr) : Judged :=
  let x := s.route g
  if s.routeMembers g ≤ src ∨ src = s.routeIndex g then .refuse
  else if h.batch = (s.batch g + 1) % 2 ^ 20 then .hold
  else if h.batch ≠ s.batch g then .refuse
  else match x.plan with
    | none => .hold
    | some p =>
      if h.layer = p.layer ∧ h.members = s.routeMembers g ∧ h.cap = p.cap ∧ h.experts = p.experts ∧ h.rowLines = p.rowLines ∧
          h.mapCrc.toNat = p.mapCrc then .take p else .refuse

/-- Who runs in group `g`, as queue and sequence number. -/
def State.routeFlight (s : State) (g : Nat) : Option (Nat × Nat) := if s.wsu.running = some g then (s.route g).flight else none

/-- The phase of the `ROUTE` that runs in group `g`; `PLAN` is 0. -/
def State.runningPhase (s : State) (g : Nat) : Option Nat :=
  match s.routeFlight g with
  | some (q, seq) => (s.flight q seq).map (fun x => x.cmd.routePhase)
  | none => none

/-- The status with which the `ROUTE` of group `g` completes: `OK` becomes `DEGRADED` where a domain it used recovered meanwhile (R529). -/
def State.routeStatus (s : State) (g : Nat) (st : Status) : Status :=
  match (s.routeFlight g).bind (fun x => s.flight x.1 x.2) with
  | some x => if st = .ok ∧ x.degraded then .degraded else st
  | none => st

/-- The unit is free of the `ROUTE` of group `g`, which completes (R350, R351, R365): another status than `OK` returns the group to
`IDLE`, and a plan discarded meanwhile goes. The next `ROUTE` that waits is not yet begun. -/
def State.closeRoute (s : State) (g : Nat) (st : Status) (member : Nat) (result detail : W64) : State :=
  match s.routeFlight g with
  | none => s
  | some (q, seq) =>
    let st := s.routeStatus g st
    let s := { s with wsu := { s.wsu with running := none, wsuWait := none } }
    let s := (s.forgetRequests (.route g true)).forgetRequests (.route g false)
    let s := s.setRoute g { s.route g with flight := none, sentAll := false, draft := none }
    let s := (s.setF F.WSU_G_STAT_LAST_STATUS st.code g).setF F.WSU_G_STAT_LAST_MEMBER (if st = .ok then 0 else member) g
    let s := if st ≠ .ok then s.discardPlan g else if (s.route g).key.isNone then s.dropPlan g else s
    (s.finishFlight q seq st result detail).refreshHeld g

/-- Whether a `DISPATCH` or `RETURN` of group `g` is complete (R365): everything sent and acknowledged, every end marker here. -/
def State.routeComplete (s : State) (g : Nat) : Option Nat :=
  let x := s.route g
  match s.runningPhase g with
  | some (k + 1) =>
    if x.sentAll && (s.outstanding (.route g true)).isEmpty && (s.routeOthers g).all (fun m => x.ends.contains (m, k + 1)) then
      some (k + 1)
    else none
  | _ => none

/-! ## Receiving (R362 to R366, R444) -/

/-- A message refused (R366): answered `MALFORMED`, and the receiver's own phase ends `BAD_COMMAND`, at once if it runs and
otherwise when it begins. -/
def State.routeRefuse (s : State) (g src xid : Nat) : State :=
  let s := s.routeAnswer g src xid 4
  match s.runningPhase g with
  | some (_ + 1) => s.closeRoute g .badCommand src 0 0
  | _ => s.setRoute g { s.route g with refused := some src }

/-- Where a taken segment's row lies and under which key its segments are counted; `none` where its place does not exist. -/
def State.rowPlace (s : State) (g : Nat) (p : RoutePlan) (m : RouteRowMsg) : Option (Nat × Nat) :=
  let M := s.routeMembers g
  let x := p.locals (s.routeIndex g)
  let tag := m.tag.toNat
  if m.phase = 1 then
    if m.slotQ < x * M * p.cap ∧ m.slotQ / max 1 p.cap % M = m.src then
      some (s.recvAt g + p.inAt x M + m.slotQ * p.rowBytes, 2 ^ 40 * m.phase + m.slotQ)
    else none
  else if m.phase = 2 ∧ tag % 2 ^ 14 < p.tokens ∧ tag / 2 ^ 14 % 16 < p.ranks then
    some (s.returnRow g p (tag % 2 ^ 14) (tag / 2 ^ 14 % 16), 2 ^ 40 * m.phase + 2 ^ 20 * m.src + tag % 2 ^ 18)
  else none

/-- A segment taken (R444): written at its offset as it arrives; after the last one a dispatched row gets its tag with `FILLED`. -/
def State.takeRow (s : State) (g : Nat) (p : RoutePlan) (m : RouteRowMsg) : State :=
  let x := s.route g
  match s.rowPlace g p m with
  | none => s.routeRefuse g m.src m.xid.toNat
  | some (at_, key) =>
    let seen := mgetD x.partial_ key 0
    if m.segIndex ≠ seen ∨ m.segCount ≠ ceilDiv p.rowBytes 4096 ∨ m.offset ≠ 4096 * seen ∨
        m.data.length ≠ min 4096 (p.rowBytes - 4096 * seen) then
      s.routeRefuse g m.src m.xid.toNat
    else
      let s := s.store (at_ + m.offset) m.data m.poison
      let s :=
        if m.segIndex + 1 = m.segCount then
          let s := s.setRoute g { x with
            partial_ := merase x.partial_ key
            filled := if m.phase = 1 then sinsert x.filled m.slotQ else x.filled }
          if m.phase = 1 then s.store (s.recvAt g + 4 * m.slotQ) (leBytes 4 (m.tag.toNat % 2 ^ 31 + 2 ^ 31)) else s
        else s.setRoute g { x with partial_ := mset x.partial_ key (seen + 1) }
      s.routeAnswer g m.src m.xid.toNat 0

/-- The input rows and tags that a source left idle, written with zeros (R363). -/
def State.zeroIdle (s : State) (g : Nat) (p : RoutePlan) (src : Nat) : State :=
  let M := s.routeMembers g
  let x := p.locals (s.routeIndex g)
  (List.range x).foldl (fun s e => (List.range p.cap).foldl (fun s c =>
    let q := (e * M + src) * p.cap + c
    if (s.route g).filled.contains q then s
    else (s.zero (s.recvAt g + p.inAt x M + q * p.rowBytes) p.rowBytes).store (s.recvAt g + 4 * q) (leBytes 4 0)) s) s

/-- An end marker taken (R363, R365). -/
def State.takeEnd (s : State) (g src phase : Nat) (p : RoutePlan) : State :=
  let x := s.route g
  let s := s.setRoute g { x with ends := if x.ends.contains (src, phase) then x.ends else x.ends ++ [(src, phase)] }
  if phase = 1 then s.zeroIdle g p src else s

/-- A message of group `g` judged and then refused, held or taken. -/
def State.routeTake (s : State) (g : Nat) (h : HeldRoute) : State :=
  let hold := fun (s : State) => (s.setRoute g { s.route g with held := (s.route g).held ++ [h] }).refreshHeld g
  match h with
  | .row m => match s.judge g m.src m.hdr with
    | .refuse => s.routeRefuse g m.src m.xid.toNat
    | .hold => hold s
    | .take p => s.takeRow g p m
  | .done src phase hdr xid => match s.judge g src hdr with
    | .refuse => s.routeRefuse g src xid.toNat
    | .hold => hold s
    | .take p => if phase = 1 ∨ phase = 2 then s.takeEnd g src phase p else s.routeRefuse g src xid.toNat

/-- The held messages of group `g` judged again, in the order in which they came (R366). -/
def State.releaseHeld (s : State) (g : Nat) : State :=
  let hs := (s.route g).held
  let s := s.setRoute g { s.route g with held := [] }
  (hs.foldl (fun s h => s.routeTake g h) s).refreshHeld g

/-! ## Sending (R363, R364) -/

/-- A row to send: the member it goes to, its slot index, its tag, its destination offset, and where it is read: a virtual address,
or a local offset. -/
structure RowSend where
  member : Nat
  slot : Nat
  tag : Nat
  dest : Nat
  virt : Bool
  src : Nat
  deriving DecidableEq, Repr

/-- Why sending stopped: the member concerned, the status, and an access error. -/
structure SendStop where
  member : Nat
  status : Status
  acc : Option AccErr
  deriving DecidableEq, Repr

/-- The segments of a row from index `i` on (R444). -/
def State.sendSegments (s : State) (g phase n : Nat) (p : RoutePlan) (x : RowSend) : Nat → Nat → State × Option SendStop
  | 0, _ => (s, none)
  | fuel + 1, i =>
    let count := ceilDiv p.rowBytes 4096
    let len := min 4096 (p.rowBytes - 4096 * i)
    let data : Except AccErr (List Byte × Bool) :=
      if x.virt then s.readVirt n (x.src + 4096 * i) len
      else .ok (s.bytes (x.src + 4096 * i) len, s.poisoned (x.src + 4096 * i) len)
    match data with
    | .error e => (s, some { member := x.member, status := e.status, acc := some e })
    | .ok (bs, mark) =>
      let m : OutMsg := { OutMsg.blank with
        op := 0x20, dst := s.routeChip g x.member, vc := 2, poison := mark, job := n, addr := x.dest + 4096 * i, arg0 := x.tag
        arg1 := 4096 * i + 2 ^ 32 * i + 2 ^ 48 * count, extra := s.routeExtra g phase p x.slot, data := bs }
      match s.issueRemote (.route g true) m with
      | (s, some st) => (s, some { member := x.member, status := st, acc := none })
      | (s, none) => s.sendSegments g phase n p x fuel (i + 1)

/-- Rows sent one after another, counted. -/
def State.sendRows (s : State) (g phase n : Nat) (p : RoutePlan) : List RowSend → State × Option SendStop
  | [] => (s, none)
  | x :: t =>
    match s.sendSegments g phase n p x (ceilDiv p.rowBytes 4096) 0 with
    | (s, some e) => (s, some e)
    | (s, none) => (s.setRoute g { s.route g with sent := (s.route g).sent + 1 }).sendRows g phase n p t

/-- Each member's rows, then its end marker, in ascending order of members. -/
def State.sendMembers (s : State) (g phase n : Nat) (p : RoutePlan) (rows : List RowSend) : List Nat → State × Option SendStop
  | [] => (s, none)
  | m :: t =>
    match s.sendRows g phase n p (rows.filter (fun x => x.member == m)) with
    | (s, some e) => (s, some e)
    | (s, none) =>
      match s.issueRemote (.route g false) { OutMsg.blank with
          op := 0x21, dst := s.routeChip g m, vc := 2, job := n, extra := s.routeExtra g phase p 0 } with
      | (s, some st) => (s, some { member := m, status := st, acc := none })
      | (s, none) => s.sendMembers g phase n p rows t

/-- The remote accepted choices of a plan in send order (R363), with their token and rank: by member, local index and slot. -/
def RoutePlan.remote (p : RoutePlan) (own : Nat) : List (Choice × Nat × Nat) :=
  let all := (indexed p.choices).flatMap (fun x => (indexed x.2).map (fun y => (y.2, x.1, y.1)))
  let m := all.foldl (fun (a : SMap (Choice × Nat × Nat)) x =>
    let c := x.1
    if c.accepted && p.member c.expert != own then
      mset a (2 ^ 32 * p.member c.expert + 2 ^ 16 * p.localOf c.expert + c.slot) x
    else a) []
  m.map (fun x => x.2)

/-- The rows of a `DISPATCH` (R363). -/
def State.dispatchRows (s : State) (g : Nat) (p : RoutePlan) : List RowSend :=
  let M := s.routeMembers g
  (p.remote (s.routeIndex g)).map fun x =>
    let m := p.member x.1.expert
    let q := (p.localOf x.1.expert * M + s.routeIndex g) * p.cap + x.1.slot
    { member := m, slot := q, tag := x.2.1 + 2 ^ 14 * x.2.2 + 2 ^ 31
      dest := s.recvAt g + p.inAt (p.locals m) M + q * p.rowBytes, virt := true, src := p.act + x.2.1 * p.rowBytes }

/-- The rows of a `RETURN` (R364): the output row of every `FILLED` slot of a remote source. -/
def State.returnRows (s : State) (g : Nat) (p : RoutePlan) : List RowSend :=
  let M := s.routeMembers g
  let x := p.locals (s.routeIndex g)
  (List.range (x * M * p.cap)).filterMap fun q =>
    let src := q / max 1 p.cap % M
    let tag := leNat (s.bytes (s.recvAt g + 4 * q) 4)
    if src ≠ s.routeIndex g ∧ tag.testBit 31 then
      some { member := src, slot := q, tag := tag, dest := s.returnRow g p (tag % 2 ^ 14) (tag / 2 ^ 14 % 16), virt := false
             src := s.recvAt g + p.outAt x M + q * p.rowBytes }
    else none

/-- A `DISPATCH` or `RETURN` begins (R363, R364): a refusal met before ends it, otherwise its rows and end markers go out. -/
def State.beginExchange (s : State) (g phase q seq : Nat) : State :=
  let n := (s.routeSet g).job
  let x := s.route g
  match x.plan, x.refused with
  | none, _ => s.closeRoute g .badCommand 0 0 (badField 3 10)
  | some _, some src => s.closeRoute g .badCommand src 0 0
  | some p, none =>
    if x.stage ≠ phase then s.closeRoute g .badCommand 0 0 (badField 3 10)
    else
      let s := s.setRoute g { x with since := s.now, sent := 0 }
      let rows := if phase = 1 then s.dispatchRows g p else s.returnRows g p
      match s.sendMembers g phase n p rows (s.routeOthers g) with
      | (s, none) => s.setRoute g { s.route g with sentAll := true }
      | (s, some e) =>
        match e.acc with
        | none => s.closeRoute g e.status e.member 0 0
        | some a =>
          let d := s.accDetail a 4
          (s.accFault n a (some (q, seq))).closeRoute g e.status e.member 0 d

/-! ## Where the plan lands (R358 to R361) -/

/-- The word of a selection record (R359). -/
def RoutePlan.recordWord (p : RoutePlan) (own : Nat) (c : Choice) : W64 :=
  let w := setBits (0 : W64) 0 12 c.expert
  let w := setBits (setBits w 12 1 (if c.accepted then 1 else 0)) 13 1 (if p.member c.expert = own then 1 else 0)
  setBits (setBits (setBits w 14 1 1) 16 16 (if c.accepted then c.slot else 0)) 32 32 c.weight.toNat

/-- The overflow mask of a token (R357, R359). -/
def overflowMask (cs : List Choice) : Nat := (indexed cs).foldl (fun a x => if x.2.accepted then a else a + 2 ^ x.1) 0

/-- A linear block-list entry of one row of raw bytes (R105, R360). -/
def rowEntry (base bytes : Nat) : List Byte :=
  wordsBytes [BitVec.ofNat 64 base, BitVec.ofNat 64 (bytes + 2 ^ 24 + 10 * 2 ^ 48), 1, 0]

/-- The token and rank that hold each local slot, by `C × x + c`. -/
def RoutePlan.holders (p : RoutePlan) (own : Nat) : SMap (Nat × Nat) :=
  (indexed p.choices).foldl (fun a x => (indexed x.2).foldl (fun (a : SMap (Nat × Nat)) y =>
    if y.2.accepted && p.member y.2.expert == own then mset a (p.cap * p.localOf y.2.expert + y.2.slot) (x.1, y.1) else a) a) []

/-- Accepted choices of a plan. -/
def RoutePlan.accepted (p : RoutePlan) : Nat := (p.choices.flatMap id).countP (fun c => c.accepted)
/-- Dropped choices of a plan. -/
def RoutePlan.dropped (p : RoutePlan) : Nat := (p.choices.flatMap id).countP (fun c => !c.accepted)
/-- Tokens left with no accepted choice though they had one (R357). -/
def RoutePlan.allDropped (p : RoutePlan) : Nat := p.choices.countP (fun cs => !cs.isEmpty && cs.all (fun c => !c.accepted))

/-- The writes of the plan area (R358 to R360), in order: offset from `PLAN_AT` and bytes. `ret` gives the virtual address of the return
row of a token and rank. -/
def RoutePlan.area (p : RoutePlan) (own batch : Nat) (ret : Nat → Nat → Nat) : List (Nat × List Byte) :=
  let rb := p.rowBytes
  let x := p.locals own
  let mask := 4096 + 128 * p.tokens
  let gath := mask + roundUp (2 * p.tokens) 64
  let scat := gath + 32 * p.cap * x
  let zrow := scat + 32 * p.cap * x
  let remote := (p.remote own).length
  let hs := p.holders own
  let slots := List.range (p.cap * x)
  let header : List W64 :=
    [BitVec.ofNat 64 batch, setBits (setBits (setBits (0 : W64) 0 24 p.accepted) 24 20 p.dropped) 44 20 p.allDropped,
     BitVec.ofNat 64 (remote + 2 ^ 32 * (p.accepted - remote)), 0, 0, 0, 0, 0]
  [(0, wordsBytes header),
   (4096, p.choices.flatMap (fun cs => padTo 128 (wordsBytes (cs.map (p.recordWord own))))),
   (mask, p.choices.flatMap (fun cs => leBytes 2 (overflowMask cs))),
   (gath, slots.flatMap (fun k => rowEntry (match mget hs k with
      | some (t, _) => p.act + t * rb
      | none => p.planAt + zrow) rb)),
   (scat, slots.flatMap (fun k => rowEntry (match mget hs k with
      | some (t, i) => ret t i
      | none => p.planAt + zrow + rb) rb)),
   (zrow, List.replicate rb 0#8)]

/-- The writes of an area made in order. -/
def State.writeArea (s : State) (n at_ : Nat) : List (Nat × List Byte) → Except (Option AccErr) State
  | [] => .ok s
  | x :: t => match s.serveWrite n (at_ + x.1) x.2 false with
    | .error e => .error e
    | .ok s => s.writeArea n at_ t

/-- The return rows of dropped and unused ranks written with zeros (R361). -/
def State.zeroReturns (s : State) (g : Nat) (p : RoutePlan) : State :=
  (indexed p.choices).foldl (fun s x => (List.range p.ranks).foldl (fun (s : State) i =>
    match x.2[i]? with
    | some c => if c.accepted then s else s.zero (s.returnRow g p x.1 i) p.rowBytes
    | none => s.zero (s.returnRow g p x.1 i) p.rowBytes) s) s

/-- The virtual addresses under which job `n` has the byte at a local offset mapped for writing. -/
def State.virtualsOf (s : State) (n a : Nat) : List Nat :=
  (s.pageTable n).entries.filterMap fun x =>
    let z := leafLog2 x.2
    let g := s.globalOf a
    if leafV x.2 && leafLeaf x.2 && leafW x.2 && decide (leafAddr x.2 ≤ g) && decide (g < leafAddr x.2 + 2 ^ z) then
      some (keyVa x.1 / 2 ^ z * 2 ^ z + (g - leafAddr x.2))
    else none

/-- The virtual address of a return row in a scatter entry (R360). The manual does not name the address under which the job maps the
return area: one of those that lead to the row is taken, and a free value decides which; where none does, the address is free. -/
def State.returnVirtual (s : State) (g n : Nat) (p : RoutePlan) (t i : Nat) : Nat :=
  let vs := s.virtualsOf n (s.returnRow g p t i)
  let v := s.free / 2 ^ (48 * (t * p.ranks + i))
  (vs[v % vs.length]?).getD (v % 2 ^ 48)

/-- The end of a `PLAN` once its choices are in send order (R358, R361, R365): the plan area, the zeroed return rows, the counts. -/
def State.finishPlan (s : State) (g : Nat) : State :=
  let x := s.route g
  match x.draft, s.routeFlight g with
  | some p, some (q, seq) =>
    let n := p.group.job
    match s.drawn.writeArea n p.planAt (p.area (s.routeIndex g) (s.batch g) (s.returnVirtual g n p)) with
    | .error none => s.closeRoute g .poisoned 0 0 0
    | .error (some e) =>
      let d := s.accDetail e 4
      (s.accFault n e (some (q, seq))).closeRoute g e.status 0 0 d
    | .ok s =>
      let s := s.zeroReturns g p
      let s := s.count F.WSU_L_DROPS_DROPPED p.layer 0 p.dropped
      let s := s.count F.WSU_L_DROPS_ALL_DROPPED p.layer 0 p.allDropped
      let result := setBits (setBits (setBits (0 : W64) 0 24 p.accepted) 24 20 p.dropped) 44 20 (s.batch g)
      let s := s.setRoute g { s.route g with plan := some p, stage := 1, draft := none }
      (s.closeRoute g .ok 0 result 0).releaseHeld g
  | _, _ => s

/-- The choices of a `PLAN` found, given slots and weights, and handed to the sorter (R352 to R357, R363). -/
def State.planChoices (s : State) (g n q seq : Nat) (p : RoutePlan) (cs : List (List Choice)) (es : List NanEvent) : State :=
  match s.engineNan n 5 es (some (q, seq)) with
  | (s, some d) => s.closeRoute g .nanTrap 0 0 d
  | (s, none) =>
    let rs := (assignSlots p.cap 16 cs).map (renorm (bitOf p.cfg 11))
    let p := { p with choices := rs.map (fun x => x.1) }
    let s := s.count F.WSU_L_DROPS_RENORM_SKIP p.layer 0 (rs.countP (fun x => x.2))
    let s := s.setRoute g { s.route g with draft := some p }
    if (p.remote (s.routeIndex g)).isEmpty then s.finishPlan g
    else { s with wsu := { s.wsu with wsuWait := some s.now } }

/-- A `PLAN` begins (R350 to R354). -/
def State.beginPlan (s : State) (g q seq : Nat) (r : Rec) : State :=
  let n := s.f F.WSU_G_CFG_OWNER_JOB g
  let cmd := some (q, seq)
  let x := s.route g
  let s := if x.key.isSome then s else (s.setRoute g { x with key := some r.routeKey }).setF F.WSU_G_STAT_PHASE 1 g
  let s := s.setRoute g { s.route g with plan := none, stage := 0, refused := none, ends := [], filled := [], partial_ := [] }
  match s.capturePlan n r with
  | .error e =>
    let t := s.planErr n e cmd
    t.1.closeRoute g t.2.1 0 0 t.2.2
  | .ok (p, scores, tokens) =>
    if p.hash then
      match s.chooseByHash n p tokens with
      | .error e =>
        let d := s.accDetail e 4
        (s.accFault n e cmd).closeRoute g e.status 0 0 d
      | .ok cs => s.planChoices g n q seq p cs []
    else
      match s.chooseByScore n p scores p.tokens 0 with
      | .error e =>
        let d := s.accDetail e 4
        (s.accFault n e cmd).closeRoute g e.status 0 0 d
      | .ok (_, _, true) =>
        let d := s.faultDetail 0x4407
        (s.fault 0x4407 .job n n cmd).closeRoute g .poisoned 0 0 d
      | .ok (cs, es, false) => s.planChoices g n q seq p cs es

/-! ## The unit (R350, R365) -/

/-- A `ROUTE` given to the unit. -/
def State.beginRoute (s : State) (g q seq : Nat) : State :=
  match s.flight q seq with
  | none => s
  | some x =>
    let s := { s with wsu := { s.wsu with running := some g } }
    let s := s.setRoute g { s.route g with flight := some (q, seq), sentAll := false }
    if x.cmd.routePhase = 0 then s.beginPlan g q seq x.cmd else s.beginExchange g x.cmd.routePhase q seq

/-- What follows once a `DISPATCH` or `RETURN` is complete (R351, R365, R366). -/
def State.settleExchange (s : State) (g : Nat) : State :=
  match s.routeComplete g with
  | none => s
  | some phase =>
    let x := s.route g
    let b := s.batch g
    let result := setBits (BitVec.ofNat 64 x.sent) 44 20 b
    if phase = 1 then (s.setRoute g { x with stage := 2 }).closeRoute g .ok 0 result 0
    else
      let s := s.setRoute g { x with plan := none, stage := 0, ends := [], filled := [], partial_ := [], refused := none }
      let s := if s.routeStatus g .ok = .ok then s.setF F.WSU_G_STAT_BATCH ((b + 1) % 2 ^ 20) g else s
      (s.closeRoute g .ok 0 result 0).releaseHeld g

/-- The unit looks at what it can do: complete the phase of the group that runs, and begin the next `ROUTE` that waits; `fuel` bounds
the records it takes up. -/
def State.wsuPump : Nat → State → State
  | 0, s => s
  | fuel + 1, s =>
    let s := match s.wsu.running with
      | some g => s.settleExchange g
      | none => s
    match s.wsu.running, s.wsu.waiting with
    | none, (g, q, seq) :: t => wsuPump fuel ({ s with wsu := { s.wsu with waiting := t } }.beginRoute g q seq)
    | _, _ => s

/-- The unit moved on as far as it goes. -/
def State.wsuGo (s : State) : State := wsuPump (s.wsu.waiting.length + 2) s

/-- `ROUTE` runs (R350, R351): the phase is accepted in order, and the unit takes it up when it is free. -/
def State.runRoute (s : State) (q seq : Nat) (r : Rec) : State :=
  let g := r.routeGroup
  if !s.routeInOrder r then
    (s.routeTurnedAway (s.queueJob q) r .badCommand).finishFlight q seq .badCommand 0 (badField 3 10)
  else
    let s := s.setF F.WSU_G_STAT_PHASE ((r.routePhase + 1) % 3) g
    let s := if r.routePhase = 0 then s.setRoute g { s.route g with key := some r.routeKey } else s
    { s with wsu := { s.wsu with waiting := s.wsu.waiting ++ [(g, q, seq)] } }.wsuGo

/-- Whether a commit changes a setting of the layer or the group of a `ROUTE` (R68, R368). -/
def routeTouches (s : State) (_q : Nat) (r : Rec) (t : Tx) : Bool :=
  let j := r.routeLayer
  let g := r.routeGroup
  t.staged.any fun x =>
    ((decide (R.WSU_L_CFG.at j ≤ x.off) && decide (x.off < R.WSU_L_CFG.at j + 0x20)) ||
     (decide (R.WSU_G_CFG.at g ≤ x.off) && decide (x.off < R.WSU_G_CFG.at g + 0x40)) ||
     (decide (R.WSU_G_CHIPS.at g ≤ x.off) && decide (x.off < R.WSU_G_CHIPS.at g + 0x80))) &&
    mergeMask (s.reg x.off) x.value x.mask != s.reg x.off

/-- `ROUTE` (R347, R350). -/
def specRoute : CmdSpec :=
  { CmdSpec.plain [] State.runRoute with
    present := fun s _ => s.part.hasWatershed
    encoding := routeEncoding
    early := routeEarly
    owns := fun s q r => s.f F.WSU_L_CFG_OWNER_JOB r.routeLayer == s.queueJob q &&
      s.f F.WSU_G_CFG_OWNER_JOB r.routeGroup == s.queueJob q
    touches := routeTouches
    engine := 5 }

/-- `PLAN` (R351). A `ROUTE` with the reserved phase is taken here too. -/
def execPlan (q : QId) (s : State) : Host.Outcome State Fault Refusal :=
  .next (s.queueCommand specRoute (fun r => r.opcode == 0x30 && (r.routePhase == 0 || r.routePhase == 3)) q.val)

/-- `DISPATCH` (R363). -/
def execDispatch (q : QId) (s : State) : Host.Outcome State Fault Refusal :=
  .next (s.queueCommand specRoute (fun r => r.opcode == 0x30 && r.routePhase == 1) q.val)

/-- `RETURN` (R364). -/
def execRouteReturn (q : QId) (s : State) : Host.Outcome State Fault Refusal :=
  .next (s.queueCommand specRoute (fun r => r.opcode == 0x30 && r.routePhase == 2) q.val)

/-- The wait for end markers in ticks (R375): 0 acts as the reset value. -/
def State.routeLimit (s : State) (g : Nat) : Nat :=
  let l := s.f F.WSU_G_LIMIT_LIMIT g
  if l = 0 then 0x01312D00 else l

/-- `ROUTE_LIMIT` (R368): end markers are still missing after the limit. -/
def execRouteLimit (g : GroupId) (s : State) : Host.Outcome State Fault Refusal :=
  let x := s.route g.val
  .next (match s.runningPhase g.val with
    | some (k + 1) =>
      match (s.routeOthers g.val).find? (fun m => !x.ends.contains (m, k + 1)) with
      | some m => if x.since + s.routeLimit g.val ≤ s.now then (s.closeRoute g.val .timeout m 0 0).wsuGo else s
      | none => s
    | _ => s)

/-- A `ROUTE` of group `g` that exchanges rows fails (R368, R470). -/
def State.routeFail (s : State) (g : Nat) (st : Status) (member : Nat) : State :=
  match s.runningPhase g with
  | some (_ + 1) => (s.closeRoute g st member 0 0).wsuGo
  | _ => s

/-- A chip has disappeared (R368): the phases of every group that counts it as a member end `MEMBER_LOST`. -/
def State.routeLost (s : State) (chip : Nat) : State :=
  (List.range 16).foldl (fun s g =>
    match (s.routeOthers g).find? (fun m => s.routeChip g m == chip) with
    | some m => s.routeFail g .memberLost m
    | none => s) s

/-- A response to a row or an end marker of group `g` (R365, R366, R469). -/
def State.routeAcked (s : State) (g dst st : Nat) : State :=
  let m := ((s.routeOthers g).find? (fun m => s.routeChip g m == dst)).getD 0
  match st with
  | 0 => s.wsuGo
  | 1 => s.routeFail g .poisoned m
  | 2 => s.routeFail g .denied m
  | 3 => s.routeFail g .absent m
  | _ => s.routeFail g .badCommand m

/-- `ROUTE_ROW` (R444, R366): a segment of a routed row arrives. A message for a group that is not valid is refused. -/
def execRouteRow (g : GroupId) (m : RouteRowMsg) (s : State) : Host.Outcome State Fault Refusal :=
  .next (if !s.part.hasWatershed || !s.fb F.WSU_G_CFG_VALID g.val then s else (s.routeTake g.val (.row m)).wsuGo)

/-- `ROUTE_END` (R363, R366): a member's end marker arrives. -/
def execRouteEnd (g : GroupId) (src phase : Nat) (hdr : RouteHdr) (xid : BitVec 32) (s : State) :
    Host.Outcome State Fault Refusal :=
  .next (if !s.part.hasWatershed || !s.fb F.WSU_G_CFG_VALID g.val then s
    else (s.routeTake g.val (.done src phase hdr xid)).wsuGo)

/-! ## The sorter (R367, R377) -/

/-- The sorter granted for one whole sort to the unit (`1`) or to the sampler (`2`), which has waited since a tick. -/
def State.grantSorter (s : State) (who since : Nat) : State :=
  let s := s.setF F.WSU_SORT_STAT_MAX_WAIT (satTo 32 (max (s.f F.WSU_SORT_STAT_MAX_WAIT) (s.now - since)))
  let s := if who = 1 then s.countWrap F.WSU_SORT_STAT_SORTS else s
  let w := s.wsu
  { s with wsu := { w with
      holder := who, lastGrant := who, wsuWait := if who = 1 then none else w.wsuWait
      sampWait := if who = 2 then none else w.sampWait } }

/-- `SORTER_GRANT` (R367): round-robin between the unit and the sampler, one whole sort at a time. -/
def execSorterGrant (sampler : Bool) (s : State) : Host.Outcome State Fault Refusal :=
  let w := s.wsu
  .next (if w.holder ≠ 0 then s
    else match sampler, w.wsuWait, w.sampWait with
      | false, some t, o => if o.isSome && w.lastGrant == 1 then s else s.grantSorter 1 t
      | true, o, some t => if o.isSome && w.lastGrant == 2 then s else s.grantSorter 2 t
      | _, _, _ => s)

/-- `SORT_COMPLETE` (R367): the sort that holds the sorter ends. -/
def execSortComplete (s : State) : Host.Outcome State Fault Refusal :=
  let w := s.wsu
  let s' := { s with wsu := { w with holder := 0 } }
  .next (if w.holder = 1 then (match w.running with
      | some g => (s'.finishPlan g).wsuGo
      | none => s')
    else if w.holder = 2 then { s with wsu := { w with holder := 0, sampSorts := w.sampSorts + 1 } }
    else s)

/-- `WSU_SORT_STAT_READ` (R377): the read returns the register and clears `MAX_WAIT`. On a part without the unit it reads zero (R5). -/
def execWsuSortStatRead (via : Via) (s : State) : Host.Outcome State Fault Refusal :=
  .next (if s.part.hasWatershed then
      (s.emit (.readData via false (leBytes 8 (s.r R.WSU_SORT_STAT).toNat))).setF F.WSU_SORT_STAT_MAX_WAIT 0
    else s.emit (.readData via false (leBytes 8 0)))

end Sys2Proof.Machine
end

