-- ==== Sys2Proof/Machine/Remote.lean ====
section
/-! DEFINITION. Remote memory: inbound reads, writes, atomics and tile puts under the export windows (R461 to R468), their responses
(R462, R469), lost responses (R470), and the responses of the Plain (R446, R447). -/

namespace Sys2Proof.Machine

/-! ## Export windows (R466, R467) -/

/-- Whether export window `w` admits a message from a chip and job for `len` bytes at a local offset, with the right that `right`
names (R466). -/
def State.windowAdmits (s : State) (w : Nat) (right : Field) (src job a len : Nat) : Bool :=
  let base := s.f F.ALT_RM_WIN_BASE_FIRST w * frameBytes
  let first := s.f F.ALT_RM_WIN_CTRL_FIRST_CHIP w
  s.fb F.ALT_RM_WIN_CTRL_VALID w && s.fb right w &&
  decide (base ≤ a) && decide (a + len ≤ base + s.f F.ALT_RM_WIN_BASE_FRAMES w * frameBytes) &&
  decide (first ≤ src) && decide (src < first + s.f F.ALT_RM_WIN_CTRL_CHIP_COUNT w) &&
  (s.fb F.ALT_RM_WIN_CTRL_ANY_JOB w || s.f F.ALT_RM_WIN_CTRL_SRC_JOB w == job)

/-- The lowest window that admits a message. -/
def State.windowFor (s : State) (right : Field) (m : Msg) (len : Nat) : Option Nat :=
  (List.range 64).find? (fun w => s.windowAdmits w right m.src.toNat m.job.val m.addr len)

/-- Whether bytes lie in a region, or a part of one, that the device lacks (R88, R469). -/
def State.lacks (s : State) (a len : Nat) : Bool :=
  let there := fun x => regionOf x == .none || s.provides x
  !(there a && there (a + (len - 1)))

/-- The signal of a window with `NOTIFY` (R467). -/
def State.notify (s : State) (w n : Nat) : State :=
  if s.fb F.ALT_RM_WIN_CTRL_NOTIFY w then
    s.signal (s.f F.ALT_RM_WIN_CTRL_OWNER_JOB w) (s.f F.ALT_RM_WIN_CTRL_NOTIFY_FENCE w) n true false
  else s

/-! ## Responses that leave (R443, R469, R472) -/

/-- A response to an inbound message. -/
def State.respond (s : State) (m : Msg) (op status : Nat) (mark : Bool := false) (data : List Byte := []) : State :=
  (s.sendPlainRoute { OutMsg.blank with
    op := op, src := s.chip, dst := m.src.toNat, vc := 1, poison := mark, job := m.job.val, addr := m.addr
    xid := m.xid.toNat, arg0 := status, data := data }).1

/-- The response type of a request type. -/
def responseOf : Nat → Nat
  | 0x01 => 0x02 | 0x03 => 0x04 | 0x05 => 0x06 | _ => 0x09

/-- The checks that every inbound message passes before it is applied (R466, R469): the device carries the offset, and a window
admits it; then `go` with the window. -/
def State.screened (s : State) (m : Msg) (op : Nat) (right : Field) (len : Nat) (go : Nat → State) : State :=
  if s.lacks m.addr len then s.respond m (responseOf op) 3
  else match s.windowFor right m len with
    | none => (s.count F.ALT_RM_STAT_NO_WINDOW).respond m (responseOf op) 2
    | some w => go w

/-! ## Inbound messages -/

/-- The pending part of an inbound message of a type in the device's own Plain (R461): step `0` a read, `1` a write that waits for
the rest of its lines, `2` a write on its way. Its issuer carries the type times 4 plus the step. -/
def State.plainReply (s : State) (m : Msg) (op step len : Nat) (mark : Bool) : State :=
  let l := lineSpan (m.addr - plainBase) len
  let who := Issuer.reply m (4 * op + step)
  if step = 2 then s.issuePlain who 0x42 l.1 l.2 m.job.val mark (s.bytes (plainBase + l.1) l.2)
  else s.issuePlain who 0x40 l.1 l.2 m.job.val false []

/-- An inbound `READ` of `ARG1` bytes (R466, R461). -/
def State.inboundRead (s : State) (m : Msg) : State :=
  let n := m.arg1.toNat
  s.screened m 0x01 F.ALT_RM_WIN_CTRL_R n fun _ =>
    if regionOf m.addr = Region.plain then s.plainReply m 0x01 0 n false
    else
      let mark := s.poisoned m.addr n
      (s.countLines false m.addr n).respond m 0x02 (if mark then 1 else 0) mark (s.bytes m.addr n)

/-- The data of an inbound write in place and visible: the notice of its window and its acknowledgement (R462, R467). -/
def State.written (s : State) (m : Msg) (w n op : Nat) : State := (s.notify w n).respond m op 0

/-- An inbound `WRITE`, or a `TILE_PUT` that is no ring put, applied (R463, R468). -/
def State.inboundStore (s : State) (m : Msg) (op w : Nat) : State :=
  let n := m.data.length
  if regionOf m.addr = Region.plain then
    if m.addr % 64 ≠ 0 ∨ n % 64 ≠ 0 then s.plainReply m op 1 n false
    else (s.store m.addr m.data m.poison).plainReply m op 2 n (m.poison || s.poisoned m.addr n)
  else ((s.store m.addr m.data m.poison).countLines true m.addr n).written m w n (responseOf op)

/-- The ring that an address is the first byte of and that takes ring puts (R468), as memory unit and ring. -/
def State.putRing (s : State) (a : Nat) : Option (Nat × Nat) :=
  if regionOf a ≠ Region.terrace then none
  else
    let n := a / 0x100000
    ((List.range 4).find? fun r =>
      let d := (s.ringOf n r).1
      d.valid && d.producer == 2 && !s.ringInRun n r && 64 * d.base == a % 0x100000).map (fun r => (n, r))

/-- A ring put (R468, R215): refused when it is longer than a slot or when the ring is full. -/
def State.ringPut (s : State) (m : Msg) (w n r : Nat) : State :=
  let x := s.ringOf n r
  let size := 64 * x.1.lines
  if size < m.data.length then s.respond m 0x09 4
  else if x.1.slots ≤ x.2.fill x.1.twoCons then s.respond m 0x09 5
  else
    let a := s.slotOffset n r x.2.tail
    let s := (s.store a (padTo size m.data) m.poison).countLines true a size
    (s.setRing n r { x.2 with tail := (x.2.tail + 1) % 65536 }).written m w m.data.length 0x09

/-- An inbound `ATOMIC` (R464, R469): malformed outside the Basin, misaligned or with an undefined operation. A word that carries a mark
is delivered with it and not changed. -/
def State.inboundAtomic (s : State) (m : Msg) : State :=
  let n := if bitOf (BitVec.ofNat 64 m.arg0.toNat) 4 then 8 else 4
  s.screened m 0x05 F.ALT_RM_WIN_CTRL_A n fun w =>
    match amoOf (m.arg0.toNat % 16) with
    | none => s.respond m 0x06 4
    | some op =>
      if regionOf m.addr ≠ Region.basin ∨ m.addr % n ≠ 0 then s.respond m 0x06 4
      else
        let old := leNat (s.bytes m.addr n)
        if s.poisoned m.addr n then s.respond m 0x06 1 true (leBytes 8 old)
        else
          let s := s.store m.addr (leBytes n (amoValue op (8 * n) old m.arg1.toNat))
          ((s.breakReservations (s.globalOf m.addr)).notify w 8).respond m 0x06 0 false (leBytes 8 old)

/-- `READ` (R466). -/
def execRead (m : Msg) (s : State) : Host.Outcome State Fault Refusal :=
  .next (s.receive m 0x01 (fun s => s.inboundRead m))

/-- `WRITE` (R466). -/
def execWrite (m : Msg) (s : State) : Host.Outcome State Fault Refusal :=
  .next (s.receive m 0x03 fun s => s.screened m 0x03 F.ALT_RM_WIN_CTRL_W m.data.length fun w => s.inboundStore m 0x03 w)

/-- `ATOMIC` (R464). -/
def execAtomic (m : Msg) (s : State) : Host.Outcome State Fault Refusal :=
  .next (s.receive m 0x05 (fun s => s.inboundAtomic m))

/-- `TILE_PUT` (R468). -/
def execTilePut (m : Msg) (s : State) : Host.Outcome State Fault Refusal :=
  .next (s.receive m 0x08 fun s => s.screened m 0x08 F.ALT_RM_WIN_CTRL_W m.data.length fun w =>
    match s.putRing m.addr with
    | some (n, r) => s.ringPut m w n r
    | none => s.inboundStore m 0x08 w)

/-! ## Requests that end (R462, R469, R470) -/

/-- The outstanding request of a transaction, over Altur or over the Plain. -/
def State.requestOf (s : State) (xid : Nat) (plain : Bool) : Option Request :=
  s.net.requests.find? (fun x => x.xid == xid && x.plainLink.isSome == plain)

/-- A request removed. -/
def State.dropRequest (s : State) (xid : Nat) : State :=
  { s with net := { s.net with requests := s.net.requests.filter (fun x => x.xid != xid) } }

/-- The request of a transaction changed. -/
def State.mapRequest (s : State) (xid : Nat) (f : Request → Request) : State :=
  { s with net := { s.net with requests := s.net.requests.map (fun y => if y.xid = xid then f y else y) } }

/-- A response that nothing waits for (R470). -/
def State.late (s : State) : State := s.count F.ALT_RM_STAT_LATE

/-- A record in flight goes on after a response. -/
def State.resumeFlight (s : State) (q seq : Nat) : State :=
  match s.flight q seq with
  | none => s
  | some x =>
    if x.cmd.opcode = 0x10 ∨ x.cmd.opcode = 0x11 then s.moverStep q seq
    else if x.cmd.opcode = 0x08 then s.stageStep q seq
    else s

/-- A record in flight ends for a request of it that failed. -/
def State.flightFailed (s : State) (q seq : Nat) (st : Status) : State :=
  match s.casts.staging.find? (fun y => y.q == q && y.seq == seq) with
  | some y => s.stageFail y st 0 0
  | none => s.endFlight q seq st 0 0

/-- A request fails (R469, R470): what issued it ends with the status, and its other requests are forgotten. -/
def State.failRequest (s : State) (x : Request) (st : Status) : State :=
  let s := s.dropRequest x.xid
  match x.issuer with
  | .flight q seq => s.flightFailed q seq st
  | .gen mu ag =>
    let s := s.forgetRequests (.gen mu ag)
    match s.runOn (mu / 32) with
    | some (first, run) => s.stopCast first run st 0
    | none => s
  | .core c => s.coreRequestFailed c st
  | .mirror _ => s.mirrorLost
  | .reply m k => if st = .absent then s.respond m (responseOf (k / 4)) 3 else s
  | .aperture p a n _ step => if step = 0 then s.emit (.readData (.port (Fin.ofNat 2 p)) true (s.bytes a n)) else s
  | .route g _ =>
    let m := ((s.routeOthers g).find? (fun m => s.routeChip g m == x.msg.dst)).getD 0
    s.routeFail g st m

/-- A write of a request met a poisoned leaf at its destination (R469). -/
def State.writePoisoned (s : State) (x : Request) : State :=
  match x.issuer with
  | .flight q seq => match s.flight q seq with
    | some y => (s.setFlight q { y with fail := some Status.poisoned.code }).resumeFlight q seq
    | none => s
  | .gen mu _ => match s.runOn (mu / 32) with
    | some (first, _) => s.runFault first .poisoned 0 (unitRank 1 (mu / 32 - first) (mu % 32))
    | none => s
  | .core c => s.coreWritePoisoned c
  | .mirror _ => s.mirrorLost
  | .route g _ => s.routeAcked g x.msg.dst 1
  | .reply _ _ => s
  | .aperture .. => s

/-- A request of which everything is done (R462). -/
def State.requestDone (s : State) (x : Request) : State :=
  match x.issuer with
  | .flight q seq => s.resumeFlight q seq
  | .core c => s.coreAcked c
  | .route g _ => s.routeAcked g x.msg.dst 0
  | _ => s

/-- The status that a refusal of R469 gives the issuing command. -/
def refusalStatus : Nat → Status
  | 2 => .denied
  | 3 => .absent
  | _ => .badCommand

/-- The marks of delivered bytes: set or cleared on every unit they touch. -/
def State.markUnits (s : State) (a n : Nat) (mark : Bool) : State :=
  { s with memory := { s.memory with
      poison := (unitsOf a n).foldl (fun l u => if mark then sinsert l u else sremove l u) s.memory.poison } }

/-- Bytes of another chip as they have been delivered. -/
def State.deliver (s : State) (c a : Nat) (bs : List Byte) (mark : Bool) : State :=
  { s.markUnits (remoteKey c a) bs.length mark with remoteView := plainWrite s.remoteView (c * 2 ^ 51 + a) bs }

/-- A response to a request of a given type (R469, R470): late where nothing waits for it. -/
def State.answer (s : State) (m : Msg) (ops : List Nat) (done : State → Request → Bool → State) : State :=
  match s.requestOf m.xid.toNat false with
  | none => s.late
  | some x =>
    if !ops.contains x.msg.op || x.busyAt.isSome || x.msg.dst ≠ m.src.toNat then s.late
    else
      let st := m.arg0.toNat % 8
      if st ≤ 1 then done (s.dropRequest x.xid) x (st == 1 || m.poison)
      else if st = 5 then s.mapRequest x.xid (fun y => { y with busyAt := some s.now })
      else s.failRequest x (refusalStatus st)

/-- `READ_DATA` (R469): the data is delivered with its mark. -/
def execReadData (m : Msg) (s : State) : Host.Outcome State Fault Refusal :=
  .next (s.receive m 0x02 fun s => s.answer m [0x01] fun s x mark =>
    match x.issuer with
    | .core c => s.coreLineArrived c m.data mark
    | _ => (s.deliver x.msg.dst x.msg.addr (m.data.take x.msg.arg1) mark).requestDone x)

/-- `WRITE_ACK` (R462, R469): it also answers the rows and end markers of a route group. -/
def execWriteAck (m : Msg) (s : State) : Host.Outcome State Fault Refusal :=
  .next (s.receive m 0x04 fun s => s.answer m [0x03, 0x20, 0x21] fun s x hit =>
    if hit then s.writePoisoned x else s.requestDone x)

/-- `ATOMIC_DATA` (R462, R469). -/
def execAtomicData (m : Msg) (s : State) : Host.Outcome State Fault Refusal :=
  .next (s.receive m 0x06 fun s => s.answer m [0x05] fun s x mark =>
    match x.issuer with
    | .core c => if mark then s.corePoisoned c else s.coreAtomicArrived c (leNat (m.data.take 8))
    | _ => s)

/-- `TILE_ACK` (R462, R469, R468). -/
def execTileAck (m : Msg) (s : State) : Host.Outcome State Fault Refusal :=
  .next (s.receive m 0x09 fun s => s.answer m [0x08] fun s x hit =>
    if hit then s.writePoisoned x else s.requestDone x)

/-- `RING_PUT_RESEND` (R468): 1 µs after a `BUSY` refusal. -/
def execRingPutResend (xid : BitVec 32) (s : State) : Host.Outcome State Fault Refusal :=
  .next (match s.requestOf xid.toNat false with
    | none => s
    | some x => match x.busyAt with
      | none => s
      | some t =>
        if s.now < t + 1000 then s
        else
          let s := s.count F.ALT_RM_STAT_BUSY_RESENDS
          let s := s.mapRequest x.xid (fun y => { y with busyAt := none, sentAt := s.now })
          let r := s.send x.msg
          match r.2 with
          | .sent => r.1
          | .fenced => r.1.failRequest x .fenced
          | .unreachable => r.1.failRequest x .memberLost)

/-- A limit in µs that a register gives, with what 0 acts as, in ticks. -/
def limitTicks (v z : Nat) : Nat := (if v = 0 then z else v) * 1000

/-- `RM_TIMEOUT` (R470): the response of a request is missing after the limit, whose own tick still belongs to what else ends the command.
End markers of a route group wait for none. -/
def execRmTimeout (xid : BitVec 32) (s : State) : Host.Outcome State Fault Refusal :=
  .next (match s.requestOf xid.toNat false with
    | none => s
    | some x =>
      if x.busyAt.isSome || x.msg.op == 0x21 || decide (s.now ≤ x.sentAt + limitTicks (s.f F.ALT_RM_CFG_RM_TIMEOUT_US) 1000) then s
      else (s.count F.ALT_RM_STAT_TIMEOUTS).failRequest x .timeout)

/-! ## The Plain (R446, R447) -/

/-- A Plain request for an access through the aperture of port `p` (R461, R496): a read of its lines, or in step 2 their write. -/
def State.aperturePlain (s : State) (p a n : Nat) (bs : List Byte) (step : Nat) : State :=
  let l := lineSpan (a - plainBase) n
  let who := Issuer.aperture p a n bs step
  let job := s.f F.GLB_APERTURE_JOB p
  if step = 2 then s.issuePlain who 0x42 l.1 l.2 job (s.poisoned (plainBase + l.1) l.2) (s.bytes (plainBase + l.1) l.2)
  else s.issuePlain who 0x40 l.1 l.2 job false []

/-- A Plain request has been answered with good or marked data: what asked for it goes on. -/
def State.plainDone (s : State) (x : Request) (data : List Byte) (mark : Bool) : State :=
  match x.issuer with
  | .core c => if x.msg.op = 0x40 then s.coreLineArrived c data mark else s.coreAcked c
  | .reply m k =>
    let op := k / 4
    match k % 4 with
    | 0 =>
      let n := m.arg1.toNat
      let mark := s.poisoned m.addr n
      s.respond m 0x02 (if mark then 1 else 0) mark (s.bytes m.addr n)
    | 1 =>
      let s := s.store m.addr m.data m.poison
      let l := lineSpan (m.addr - plainBase) m.data.length
      s.plainReply m op 2 m.data.length (s.poisoned (plainBase + l.1) l.2)
    | _ => match s.windowFor F.ALT_RM_WIN_CTRL_W m m.data.length with
      | some w => s.written m w m.data.length (responseOf op)
      | none => s.respond m (responseOf op) 0
  | .aperture p a n bs step =>
    if step = 0 then s.emit (.readData (.port (Fin.ofNat 2 p)) (s.poisoned a n) (s.bytes a n))
    else if step = 1 then (s.store a bs).aperturePlain p a n bs 2
    else s
  | _ => s.requestDone x

/-- The `DEFERRED` fault of a marked Plain answer on a link (R522, R560). One that escalation makes `UNIT` takes the link out as a fault of
that class does: it is `FAULTED` (R429, R527). -/
def State.plainPoison (s : State) (l job addr : Nat) : State :=
  let out := s.escalates .link l
  let s := s.fault 0x2601 .link l job none (BitVec.ofNat 64 (s.globalOf (plainBase + addr)))
  if out then s.setLinkState l 9 else s

/-- A Plain response (R446, R447): status 1 and 3 deliver a mark, status 2 completes the command `ABSENT`. -/
def State.plainAnswer (s : State) (m : PlainRsp) (op : Nat) : State :=
  if s.linkState m.link.val ≠ 6 ∧ s.linkState m.link.val ≠ 7 then s
  else match s.requestOf m.xid.toNat true with
    | none => s
    | some x =>
      if x.msg.op ≠ op ∨ x.plainLink ≠ some m.link.val then s
      else
        let st := m.status % 4
        if st = 2 then ((s.count F.PLN_STAT_RANGE_ERR).failRequest x .absent).flushPlain
        else
          let bad := st ≠ 0
          let s := if bad then (s.count F.PLN_STAT_POISONED).plainPoison m.link.val x.msg.job x.msg.addr else s
          let s := s.dropRequest x.xid
          let s := if op = 0x40 then
              let n := min x.msg.arg1 m.data.length
              let a := plainBase + x.msg.addr
              { s.markUnits a n bad with memory := { (s.markUnits a n bad).memory with
                  plain := plainWrite s.memory.plain a (m.data.take n) } }
            else if bad then s.markUnits (plainBase + x.msg.addr) x.msg.arg1 true
            else s
          (s.plainDone x m.data bad).flushPlain

/-- `P_DATA` (R447). -/
def execPData (m : PlainRsp) (s : State) : Host.Outcome State Fault Refusal := .next (s.plainAnswer m 0x40)

/-- `P_WACK` (R447). -/
def execPWack (m : PlainRsp) (s : State) : Host.Outcome State Fault Refusal := .next (s.plainAnswer m 0x42)

/-- `PLAIN_TIMEOUT` (R447): a request that a link took, or that no link could take, has had no answer for `TIMEOUT_US`. -/
def execPlainTimeout (l : LinkId) (xid : BitVec 32) (s : State) : Host.Outcome State Fault Refusal :=
  .next (match s.requestOf xid.toNat true with
    | none => s
    | some x =>
      if (x.plainLink ≠ some l.val ∧ x.plainLink ≠ some 22) ∨ s.now < x.sentAt + limitTicks (s.f F.PLN_CFG_TIMEOUT_US) 100 then s
      else ((s.count F.PLN_STAT_TIMEOUTS).failRequest x .timeout).flushPlain)

end Sys2Proof.Machine
end

