-- ==== Sys2Proof/Machine/Notices.lean ====
section
/-! DEFINITION. Lost chips and ports, fault notices and Pendant promotion (R438, R441, R538 to R544). -/

namespace Sys2Proof.Machine

/-! ## Notices that leave (R538, R539, R541) -/

/-- The valid direction ports, each once (R456). -/
def State.dirPorts (s : State) : List Nat :=
  ((List.range 4).filterMap (fun d => match s.dirPort d with
    | .port p => some p
    | _ => none)).eraseDups

/-- A `CTL` notice sent on a port to the chip at its far end. -/
def State.noticeOn (s : State) (p op kind chip xid : Nat) : State :=
  (s.sendVia (.port p) { OutMsg.blank with
    op := op, src := s.chip, dst := s.f F.ALT_PORT_CFG_PEER_CHIP p, vc := 5, xid := xid, arg0 := kind, arg1 := chip }).1

/-- A notice sent on every valid direction port but one. -/
def State.flood (s : State) (kind chip xid : Nat) (except_ : Option Nat) : State :=
  (s.dirPorts.filter (fun p => except_ != some p)).foldl (fun s p => s.noticeOn p 0x28 kind chip xid) s

/-- A notice identifier seen; the last 64 are kept (R539). -/
def State.noteXid (s : State) (xid : Nat) : State :=
  { s with faults := { s.faults with seenNotices := (xid :: s.faults.seenNotices).take 64 } }

/-- The identifier of the next notice that the device originates: its chip, and a counter of 20 bits (R539). -/
def State.newXid (s : State) : State × Nat :=
  let n := s.faults.noticeCtr
  let xid := s.chip * 2 ^ 20 + n
  ({ s with faults := { s.faults with noticeCtr := (n + 1) % 2 ^ 20 } }.noteXid xid, xid)

/-- The chip of the partner (R541). -/
def State.partner (s : State) : Nat := s.chip - s.f F.ALT_MESH_BASE + s.f F.ALT_EXT_BASE

/-- A copy of a notice sent to the partner. -/
def State.noticePartner (s : State) (kind chip xid : Nat) : State :=
  (s.sendPlainRoute { OutMsg.blank with
    op := 0x28, src := s.chip, dst := s.partner, vc := 5, xid := xid, arg0 := kind, arg1 := chip }).1

/-- `GOING_DOWN`, or a notice about this device, sent on every port with a carrying link (R511, R537). -/
def State.announce (s : State) (op kind : Nat) : State :=
  let r := s.newXid
  ((List.range 8).filter (fun p => !(s.carrying p).isEmpty)).foldl (fun s p => s.noticeOn p op kind s.chip r.2) r.1

/-! ## Lost chips (R538, R540) -/

/-- Whether a chip is in the lost set. -/
def State.isLost (s : State) (x : Nat) : Bool := (s.f F.FLT_LOST_LOST (x / 64)).testBit (x % 64)

/-- The requests in flight to a chip end `MEMBER_LOST` (R540). -/
def State.failChip (s : State) (x : Nat) : State :=
  (s.net.requests.filter (fun y => y.plainLink.isNone && y.msg.dst == x)).foldl
    (fun s y => if s.net.requests.any (fun z => z.xid == y.xid) then s.failRequest y .memberLost else s) s

/-- A chip added to the lost set (R538, R539): logged, with a kind-1 notice in the partition and a copy to the partner of a device
with a role; work that needs the chip ends (R337, R368, R470, R485). -/
def State.addLost (s : State) (x : Nat) : State :=
  if s.isLost x then s
  else
    let s := s.setF F.FLT_LOST_LOST (s.f F.FLT_LOST_LOST (x / 64) ||| 2 ^ (x % 64)) (x / 64)
    let s := s.fault 0x1504 .chip x 0xFF none (BitVec.ofNat 64 x)
    let r := s.newXid
    let s := r.1.flood 1 x r.2 none
    let s := if s.fb F.FLT_PENDANT_VALID then s.noticePartner 1 x r.2 else s
    (((s.failChip x).ringChipLost x).routeLost x).collLost x

/-! ## Promotion (R542, R543) -/

/-- Whether this device is a Pendant. -/
def State.isPendant (s : State) : Bool := s.fb F.FLT_PENDANT_VALID && s.fb F.FLT_PENDANT_ROLE

/-- Whether a chip belongs to the partner partition (R541). -/
def State.partnerChip (s : State) (x : Nat) : Bool :=
  s.fb F.ALT_EXT_VALID && decide (s.f F.ALT_EXT_BASE ≤ x) && decide (x < s.f F.ALT_EXT_BASE + s.f F.ALT_EXT_COUNT)

/-- A promotion begun (R542, R544): a kind-3 notice in the partition, a copy to the partner, and `PROMOTE` for the bindings of the mask.
A trigger after another is ignored. -/
def State.beginPromotion (s : State) (trigger chip : Nat) : State :=
  if s.faults.promoting || s.fb F.FLT_PENDANT_PROMOTED then s
  else
    let r := s.newXid
    ((r.1.flood 3 chip r.2 none).noticePartner 3 chip r.2).startPromotion trigger chip

/-- A trigger of R542 on a Pendant with `AUTO`. -/
def State.autoPromote (s : State) (trigger chip : Nat) : State :=
  if s.isPendant && s.fb F.FLT_PENDANT_AUTO then s.beginPromotion trigger chip else s

/-- A primary receives a kind-3 notice (R543): `STOPPED`, `STOP` for every mirrored binding, and a kind-4 notice. -/
def State.stopPrimary (s : State) : State :=
  let s := s.setF F.FLT_PENDANT_STOPPED 1
  let s := ((List.range 64).filter (fun m => s.fb F.SRV_MIRROR_EN m)).foldl (fun s m => s.stopServe m) s
  let r := s.newXid
  r.1.flood 4 s.chip r.2 none

/-! ## Rows of the table -/

/-- A notice that has not been seen (R539). -/
def State.takeNotice (s : State) (m : Msg) : State :=
  let kind := m.arg0.toNat % 256
  let x := m.arg1.toNat % 4096
  let s := s.noteXid m.xid.toNat
  let s := if kind = 1 ∨ kind = 3 then s.flood kind x m.xid.toNat (s.portOf m.link.val) else s
  match kind with
  | 1 =>
    let s := s.addLost x
    if s.partnerChip x then s.autoPromote 1 x else s
  | 2 =>
    let s := s.addLost m.src.toNat
    if s.partnerChip m.src.toNat then s.autoPromote 2 m.src.toNat else s
  | 3 => if s.fb F.FLT_PENDANT_VALID && !s.fb F.FLT_PENDANT_ROLE then s.stopPrimary else s.autoPromote 4 x
  | _ => s

/-- `FAULT_NOTICE` (R539): one whose `XID` is among the last 64 is dropped. -/
def execFaultNotice (m : Msg) (s : State) : Host.Outcome State Fault Refusal :=
  .next (s.receive m 0x28 fun s => if s.faults.seenNotices.contains m.xid.toNat then s else s.takeNotice m)

/-- `GOING_DOWN` (R538, R542): its source is lost at once. -/
def execGoingDown (m : Msg) (s : State) : Host.Outcome State Fault Refusal :=
  .next (s.receive m 0x29 fun s =>
    let s := s.addLost m.src.toNat
    if s.partnerChip m.src.toNat then s.autoPromote 3 m.src.toNat else s)

/-- A message of this device's own that did not reach a chip (R441, R470). -/
def State.undelivered (s : State) (op dst xid : Nat) : State :=
  if [0x01, 0x03, 0x05, 0x08, 0x20, 0x21].contains op then
    match s.requestOf xid false with
    | some x => s.failRequest x .memberLost
    | none => s
  else if 0x10 ≤ op ∧ op ≤ 0x14 then s.ringChipLost dst
  else if op = 0x18 ∨ op = 0x19 then s.collLost dst
  else s

/-- `UNREACHABLE` (R441, R470): `ARG0` gives the type of the message and `ARG1` the chip it could not reach. -/
def execUnreachable (m : Msg) (s : State) : Host.Outcome State Fault Refusal :=
  .next (s.receive m 0x2A fun s => s.undelivered m.arg0.toNat (m.arg1.toNat % 4096) m.xid.toNat)

/-- Port `p` becomes lost (R438): its messages return to their sources, Meander runs over it end, and the chip at its far end is lost
with the last port to it. -/
def State.losePort (s : State) (p : Nat) : State :=
  let msgs := (s.lport p).txq.map (fun t => t.msg)
  let s := (s.setF F.ALT_PORT_STAT_LOST 1 p).setF F.ALT_PORT_STAT_LOST_EVT 1 p
  let s := s.setLport p { s.lport p with txq := [] }
  let s := msgs.foldl (fun s m =>
    if m.src = s.chip then (s.dropNotice m).undelivered m.op m.dst m.xid else (s.dropNotice m).noticeUnreachable m) s
  let s := s.ringPortLost p
  let x := s.f F.ALT_PORT_CFG_PEER_CHIP p
  if (List.range 8).all (fun k =>
      !s.fb F.ALT_PORT_CFG_VALID k || s.f F.ALT_PORT_CFG_PEER_CHIP k != x || s.fb F.ALT_PORT_STAT_LOST k) then s.addLost x
  else s

/-- `PORT_LOST` (R438): a valid port has had no carrying link for `LOST_US` µs, where 0 acts as 20. -/
def execPortLost (p : LPort) (s : State) : Host.Outcome State Fault Refusal :=
  let n := p.val
  .next (match (s.lport n).noCarry with
    | some t =>
      if s.fb F.ALT_PORT_CFG_VALID n && !s.fb F.ALT_PORT_STAT_LOST n &&
          decide (t + limitTicks (s.f F.ALT_PORT_CFG_LOST_US n) 20 ≤ s.now) then s.losePort n
      else s
    | none => s)

/-- `PROMOTE_NOW` (R542, R557): a write of 1 on a Pendant, from either port or the supervisor firmware. -/
def execPromoteNow (via : Via) (s : State) : Host.Outcome State Fault Refusal :=
  .next (match via with
    | .sideband => s
    | _ => if s.isPendant then s.beginPromotion 5 0 else s)

end Sys2Proof.Machine
end

