-- ==== Sys2Proof/Machine/Views.lean ====
section
/-! DEFINITION. Reading a register: the registers that show other state are computed when they are read, the windows of
absent units read zero (R5), and some reads change what they show (R31, R37, R165, R454, R523). -/

namespace Sys2Proof.Machine

/-! ## The two-site windows (R191, R193 to R196, R221, R223 to R228) -/

/-- The die, the physical column and the row pair of a window (R191). -/
def windowPlace (w : Nat) : Nat × Nat × Nat := (w / 528, w % 528 / 16, w % 16)

/-- The logical unit of a window: none in an unused or retired column. -/
def State.windowUnit (s : State) (w : Nat) : Option Nat :=
  let x := windowPlace w
  (s.logicalCol x.1 x.2.1).map (fun c => 16 * (32 * x.1 + c) + x.2.2)

/-- Whether the part has the physical column of a window (R134). -/
def State.windowExists (s : State) (w : Nat) : Bool := decide ((windowPlace w).2.1 ≤ s.part.dieCols)

/-- The fields that `CU_ID` and `MU_ID` share: die, physical row and column, global logical column and validity. -/
def State.siteIdWord (s : State) (mu : Bool) (w : Nat) : W64 :=
  let x := windowPlace w
  let row := 2 * x.2.2 + (if mu then 1 - x.2.1 % 2 else x.2.1 % 2)
  let v := setBits (setBits (BitVec.ofNat 64 x.1) 1 5 row) 6 6 x.2.1
  match s.windowUnit w with
  | none => v
  | some n => setBits (setBits v 12 6 (n / 16)) 18 1 1

/-- `CU_ID` (R193). -/
def State.cuId (s : State) (w : Nat) : W64 :=
  let v := s.siteIdWord false w
  match s.windowUnit w with
  | none => v
  | some n => setBits (setBits (setBits v 19 1 (if cuPrecise n then 1 else 0)) 20 5 (n / 32)) 25 5 (n % 32)

/-- `MU_ID` (R223). -/
def State.muId (s : State) (w : Nat) : W64 :=
  let v := s.siteIdWord true w
  match s.windowUnit w with
  | none => v
  | some n => setBits (setBits (setBits v 19 5 (n / 32)) 24 5 (n % 32)) 29 10 n

/-- The owning job of a Dale as a byte; 0xFF for none. -/
def State.ownerByte (s : State) (d : Nat) : Nat := (s.daleOwner d).getD 0xFF

/-- Whether the active cast of a Dale has begun a step since it became active. -/
def State.everStepped (s : State) (d : Nat) : Bool := (mget s.fabric.started (s.activeSlot d).cast).isSome

/-- `FIRST` of the current or next step on a Dale (R181, R194). -/
def State.firstView (s : State) (d : Nat) : Bool :=
  let x := s.activeSlot d
  x.state != .empty && (if (s.stepOn d).isSome then s.firstStep x.cast else !s.everStepped d)

/-- A compute unit as its registers show it. DESIGN CHOICE: before the first step of a cast its tasks stand at their entries, as at the
start of that step. -/
def State.cuShown (s : State) (n : Nat) : CuSt :=
  let x := s.cu n
  if s.everStepped (n / 32) then x else { x.start (s.unitProg false n) 0 0 0 0 with halted := x.halted }

/-- A memory unit as its registers show it: before the first step of a cast, as at the start of that step. -/
def State.muShown (s : State) (n : Nat) : MuSt :=
  let x := s.mu n
  if s.everStepped (n / 32) then x else { x.start (s.unitProg true n) with halted := x.halted, rings := x.rings }

/-- Whether a unit is in the 4 firings of a task switch (R189). DESIGN CHOICE: a firing counts as one tick; the manual gives it no fixed
time. -/
def State.switching (s : State) (n : Nat) : Bool :=
  match (s.cu n).switchAt with
  | some a => (s.stepOn (n / 32)).isSome && decide (s.now < a + 4)
  | none => false

/-- A Boolean as a bit. -/
def bit (b : Bool) : Nat := if b then 1 else 0

/-- `CU_STAT` (R194). -/
def State.cuStat (s : State) (n : Nat) : W64 :=
  let x := s.cuShown n
  let ws := s.unitProg false n
  let v := setBits (BitVec.ofNat 64 (s.ownerByte (n / 32))) 8 1 (bit (s.stepOn (n / 32)).isSome)
  let v := setBits (setBits (setBits v 9 2 x.active) 11 1 (bit (s.switching n))) 12 1 (bit x.halted)
  setBits (setBits v 13 1 (bit (s.firstView (n / 32)))) 14 4 (cuTasks ws)

/-- `CU_TASK_t` (R195). -/
def State.cuTaskView (s : State) (n t : Nat) : W64 :=
  let x := s.cuShown n
  let ws := s.unitProg false n
  let y := nth x.tasks t .fresh
  if !(cuTasks ws).testBit t then 0
  else
    let v := setBits (setBits (0 : W64) 2 12 y.pc) 14 16 y.tb
    if y.finished then setBits v 0 2 3
    else match x.canIssue ws t with
      | .input p g | .part p g => setBits (setBits (setBits v 0 2 2) 30 3 p) 33 16 g
      | _ => setBits v 0 2 1

/-- `CU_BANKS` (R196). -/
def State.cuBanks (s : State) (n : Nat) : W64 :=
  let ws := s.unitProg false n
  (List.range 8).foldl (fun v b => setBits v (3 * b) 3 (if ws.isEmpty then 7 else cuBankTask ws b)) 0

/-- `MU_STAT` (R224). -/
def State.muStat (s : State) (n : Nat) : W64 :=
  let x := s.muShown n
  let ws := s.unitProg true n
  let used := fun a => !ws.isEmpty && muUsed ws a
  let mask := fun (p : Nat → Bool) => (List.range 4).foldl (fun m a => m + (if p a then 2 ^ a else 0)) 0
  let v := setBits (BitVec.ofNat 64 (s.ownerByte (n / 32))) 8 1 (bit (s.stepOn (n / 32)).isSome)
  let v := setBits (setBits v 9 1 (bit x.halted)) 10 4 (mask used)
  let v := setBits v 14 4 (mask (fun a => used a && (nth x.ags a .fresh).finished))
  setBits v 18 1 (bit (s.casts.zeroing.contains (n / 32)))

/-- The port that a stream instruction holds: its write port in modes 2 to 4, its read port otherwise (R205). -/
def streamPort (w : W64) : Nat :=
  match bitsOf w 0 4 with
  | 1 => bitsOf w 7 2
  | 2 | 3 => bitsOf w 9 1
  | 4 => bitsOf w 4 1
  | 5 => bitsOf w 4 2
  | _ => 0

/-- `MU_AG_a` (R225): a generator in `SYNC` waits, with no code of its own in `WAIT` (R276). -/
def State.muAg (s : State) (n a : Nat) : W64 :=
  let ws := s.unitProg true n
  let x := s.muShown n
  let g := nth x.ags a .fresh
  let w := wordAt ws g.pc
  let op := bitsOf w 0 4
  let sync := op == 6 && decide ((nth x.ags (bitsOf w 4 2) .fresh).completed < bitsOf w 6 12)
  let stream := decide (1 ≤ op) && decide (op ≤ 5) && !g.finished
  if ws.isEmpty || !muUsed ws a then 0
  else
    let v := setBits (setBits (0 : W64) 0 3 (if stream then op else 0)) 3 2 (if g.finished then 3 else if g.wait = 0 ∧ !sync then 1 else 2)
    let v := setBits (setBits v 5 3 g.wait) 8 2 (if stream then streamPort w else 0)
    let tag := if op = 2 ∨ op = 3 then bitsOf w 33 16 + g.base else g.tag
    let v := setBits (setBits v 10 9 g.pc) 19 16 tag
    let v := setBits v 35 8 (if op = 4 ∨ op = 5 then g.done else 0)
    setBits v 43 2 (if g.wait = 3 ∨ g.wait = 4 then (muRingOf w).getD 0 else 0)

/-- `MU_EXT_a` (R226): zero without an active cast (R222). -/
def State.muExt (s : State) (n a : Nat) : W64 :=
  let ws := s.unitProg true n
  let g := nth (s.muShown n).ags a .fresh
  let op := bitsOf (wordAt ws g.pc) 0 4
  if ws.isEmpty || !muUsed ws a || g.finished || decide (op = 0) || decide (3 < op) then 0 else wordAt ws (g.pc + 1)

/-- `MU_RING_GEOM_r` (R227): zero without an active cast (R222). -/
def State.muGeom (s : State) (n r : Nat) : W64 :=
  let ws := s.unitProg true n
  if ws.isEmpty then 0 else BitVec.ofNat 64 (bitsOf (muRing ws r) 0 37)

/-- `MU_RING_PTR_r` (R228): `HEAD` is the cursor of the consumer that has released fewer slots. -/
def State.muPtr (s : State) (n r : Nat) : W64 :=
  let ws := s.unitProg true n
  if ws.isEmpty then 0
  else
    let p := nth (s.mu n).rings r .zero
    let two := (RingDecl.ofWord (muRing ws r)).twoCons
    let c1 := if two then p.cons1 else p.cons0
    let head := if ringLag p.tail p.cons0 < ringLag p.tail c1 then c1 else p.cons0
    setBits (setBits (setBits (BitVec.ofNat 64 (p.tail % 65536)) 16 16 head) 32 16 p.cons0) 48 16 c1

/-! ## Other views -/

/-- The code of a slot state (R112). -/
def SlotState.code : SlotState → Nat
  | .empty => 0
  | .loading => 1
  | .ready => 2
  | .deferred => 3
  | .running => 4

/-- `TR_SLOT_d` (R129). -/
def State.slotView (s : State) (d : Nat) : W64 :=
  let a := s.activeSlot d
  let b := s.standbySlot d
  let first := fun (x : DaleSlot) => if x.state = .empty then 0 else (s.castRef x.cast).first
  let v := setBits (setBits (0 : W64) 0 3 a.state.code) 3 3 b.state.code
  let v := setBits (setBits v 8 5 (first a)) 16 5 (first b)
  setBits v 32 32 (if a.state = .empty then 0 else (hdrCastId (s.castRef a.cast).header).toNat)

/-- `FAB_BORDER_d` (R167): a border is fenced unless the domain goes on across it to a Dale that has not failed (R157, R531). -/
def State.borderView (s : State) (d : Nat) : W64 :=
  let x := s.domainOf d
  let v := setBits (BitVec.ofNat 64 (s.ownerByte d)) 8 5 x.1
  let v := setBits v 13 1 (bit (d == x.1 || !s.hasDale (d - 1)))
  setBits v 14 1 (bit (d + 1 == x.1 + x.2 || !s.hasDale (d + 1)))

/-- The code of a scope (R66). -/
def Scope.code : Scope → Nat
  | .partition => 0
  | .job => 1
  | .cast => 2
  | .serve => 3

/-- The layout of `QE_TX_STATE_s` and `QE_TX_CAST_n` (R84). -/
def Tx.word (t : Tx) : W64 :=
  let v := setBits (1 : W64) 1 1 (bit t.committing)
  let v := match t.opener with
    | .queue q => setBits v 32 12 q
    | .session _ => setBits v 2 1 1
  setBits (setBits v 16 16 t.handle) 44 13 t.staged.length

/-- `QE_TX_STATE_s` (R84). -/
def State.txState (s : State) (k : Nat) : W64 :=
  match s.txs.find? (fun t => t.scope.code == k && t.scope != .cast) with
  | some t => t.word
  | none => 0

/-- `QE_TX_CAST_n` (R84). -/
def State.txCast (s : State) (n : Nat) : W64 :=
  match s.txs.find? (fun t => t.scope == .cast && t.job == n) with
  | some t => t.word
  | none => 0

/-- `QE_Q_STAT_q` (R80). -/
def State.queueStat (s : State) (q : Nat) : W64 :=
  let waiting := match (s.queue q).head with
    | .waitFence _ => true
    | .waitOp _ => true
    | _ => false
  setBits (setBits (s.r R.QE_Q_STAT q) 20 1 (bit waiting)) 21 7 (s.queue q).flights.length

/-- `FLT_RECOV` (R555): `WARM` from a `DEVICE` fault that R537 recovers until the device is ready again. -/
def State.recovView (s : State) : W64 :=
  let rs := s.faults.recovering
  let mask := fun (n : Nat) (p : Nat → Recovery → Bool) =>
    (List.range n).foldl (fun m i => m + (if rs.any (p i) then 2 ^ i else 0)) 0
  let v := setBits (0 : W64) 0 32 (mask 32 (fun d r => r.domain == .dale && r.index == d))
  let v := setBits v 32 12 (mask 12 (fun k r =>
    (r.domain == .hbmChannel && r.index / 16 == k) || (r.domain == .hbmStack && r.index == k)))
  let v := setBits v 44 2 (mask 2 (fun d r => r.domain == .die && r.index == d))
  setBits v 46 1 (bit (s.power.stopped && !s.fb F.GLB_BOARD_PWRFAIL && !s.fb F.PWR_STAT_TRIPPED))

/-- `SEC_ROLE_r` (R578). -/
def State.roleView (s : State) (r : Nat) : W64 :=
  let x := s.role r
  let v := setBits (setBits (s.r R.SEC_ROLE r) 8 1 (bit x.session.isSome)) 9 1 (bit x.nonce.isSome)
  match x.session with
  | some y => setBits v 10 2 y.transport
  | none => setBits v 10 2 0

/-- `SEC_ROLE_TIME_r` (R578): the expiry of the open session, or the end of the lock. -/
def State.roleTime (s : State) (r : Nat) : W64 :=
  match (s.role r).session with
  | some y => BitVec.ofNat 64 y.expiry
  | none => if s.fb F.SEC_ROLE_LOCKED r then s.r R.SEC_ROLE_TIME r else 0

/-- `SEC_FUSES` (R576). -/
def Fuses.word (f : Fuses) : W64 :=
  let slot := fun r => nth f.activeSlot r 0
  let v := setBits (BitVec.ofNat 64 f.svn) 7 2 f.keyMin
  setBits (setBits (setBits v 9 3 (slot 0)) 12 3 (slot 1)) 15 3 (slot 2)

/-! ## Presence -/

/-- Whether the unit that a register belongs to is there (R5, R134, R531). -/
def State.regPresent (s : State) (off : Nat) (x : Reg) (i : Nat) : Bool :=
  if 0x1800000 ≤ off ∧ off < 0x1900000 then s.part.hasMeander
  else if 0x1900000 ≤ off ∧ off < 0x1A00000 then s.part.hasWatershed
  else if 0x800000 ≤ off ∧ off < 0x1800000 then s.windowExists i
  else if x = R.TR_SLOT ∨ x = R.FAB_BORDER then s.hasDale i
  else if x = R.ALT_LINK_CTRL ∨ x = R.ALT_LINK_STAT ∨ x = R.ALT_LINK_PEER ∨ x = R.ALT_LINK_OPT ∨ x = R.ALT_LINK_ERR ∨
      x = R.ALT_LINK_FEC then s.part.hasLink i
  else if x = R.ALT_LASER then s.part.hasLaser i
  else true

/-- Whether BAR0 serves an offset: in recovery mode only the `CAP` block, `GLB_BOARD` and the `SEC` block (R566). -/
def State.barServes (s : State) (off : Nat) : Bool :=
  s.f F.SEC_BOOT_STAT_MODE != 2 || off == R.GLB_BOARD.at || (decide (0x1000 ≤ off) && decide (off < 0x100000)) ||
  (decide (0x1F00000 ≤ off) && decide (off < 0x1F80000))

/-! ## Reading -/

/-- `MU_BANK_WAITS` (R200, R230): the firings lost to bank conflicts depend on which accesses share a firing, which is left out with the
other times of firings: a free value, 0 where the unit has served at most one line. -/
def State.bankWaits (s : State) (w : Nat) : W64 :=
  if s.f F.MU_READ_LINES_COUNT w + s.f F.MU_WRITE_LINES_COUNT w ≤ 1 then 0 else BitVec.ofNat 64 s.free

/-- The view of a CU or MU window register of a logical unit, where it is one. -/
def State.unitView (s : State) (x : Reg) (w j : Nat) : Option W64 :=
  if x = R.CU_ID then some (s.cuId w)
  else if x = R.MU_ID then some (s.muId w)
  else
    let of := fun (f : Nat → W64) (idle : W64) => some (((s.windowUnit w).map f).getD idle)
    if x = R.CU_STAT then of s.cuStat 0xFF
    else if x = R.CU_TASK then of (fun n => s.cuTaskView n j) 0
    else if x = R.CU_BANKS then of s.cuBanks 0xFFFFFF
    else if x = R.MU_STAT then of s.muStat 0xFF
    else if x = R.MU_AG then of (fun n => s.muAg n j) 0
    else if x = R.MU_EXT then of (fun n => s.muExt n j) 0
    else if x = R.MU_RING_GEOM then of (fun n => s.muGeom n j) 0
    else if x = R.MU_BANK_WAITS then some (s.bankWaits w)
    else if x = R.MU_RING_PTR then of (fun n => s.muPtr n j) 0
    else none

/-- The view of a register that shows other state, where it is one. A link in `OFF` emits no light (R424): its `LAUNCH` shows 0. -/
def State.otherView (s : State) (x : Reg) (i : Nat) : Option W64 :=
  if x = R.CAP_UNITS then some s.part.capUnits
  else if x = R.CAP_COUNTS then some s.part.capCounts
  else if x = R.GLB_TIME then some s.tb.tick
  else if x = R.TR_SLOT then some (s.slotView i)
  else if x = R.FAB_BORDER then some (s.borderView i)
  else if x = R.QE_TX_STATE then some (s.txState i)
  else if x = R.QE_TX_CAST then some (s.txCast i)
  else if x = R.QE_Q_STAT then some (s.queueStat i)
  else if x = R.TR_BASIN_USED then some (BitVec.ofNat 64 (satTo 21 (s.usedMib i)))
  else if x = R.ALT_LINK_OPT ∧ s.linkState i = 0 then some (setBits (s.r R.ALT_LINK_OPT i) 8 8 0)
  else if x = R.FLT_RECOV then some s.recovView
  else if x = R.SEC_FUSES then some s.fuses.word
  else if x = R.SEC_IDPK then some (leWord (slice s.fuses.idPk (8 * i) 8))
  else if x = R.SEC_ROLE then some (s.roleView i)
  else if x = R.SEC_ROLE_TIME then some (s.roleTime i)
  else none

/-- The value that a read of a BAR0 register returns (R16, R494): zero outside every register, for an absent unit and for
`WO` fields. -/
def State.readReg (s : State) (off : Nat) : W64 :=
  match regAt? off with
  | none => 0
  | some (t, i, j) =>
    if !s.regPresent off t.reg i || !s.barServes off then 0
    else match (if 0x800000 ≤ off ∧ off < 0x1800000 then s.unitView t.reg i j else s.otherView t.reg i) with
      | some v => v
      | none => s.reg off &&& ~~~ maskOf (· == .wo) t.fields

/-- What a read of a register changes (R37, R165, R377, R454), where the device serves it. Only a read through BAR0 from a port
marks a fault-log entry as read (R523). -/
def State.readEffect (s : State) (port : Bool) (off : Nat) : State :=
  match regAt? off with
  | none => s
  | some (t, i, _) =>
    if !s.regPresent off t.reg i || !s.barServes off then s
    else if t.reg = R.GLB_MARGIN then s.setF F.GLB_MARGIN_WORST 0xFF
    else if t.reg = R.FAB_SADDLE_STAT then s.setF F.FAB_SADDLE_STAT_MAX_LEAD 0
    else if t.reg = R.ALT_LINK_FEC then s.setF F.ALT_LINK_FEC_PEAK_SYM 0 i
    else if t.reg = R.WSU_SORT_STAT then s.setF F.WSU_SORT_STAT_MAX_WAIT 0
    else if port ∧ (t.reg = R.FLT_LOG_A ∨ t.reg = R.FLT_LOG_B ∨ t.reg = R.FLT_LOG_C ∨ t.reg = R.FLT_LOG_D) then
      { s with faults := { s.faults with readMarks := sinsert s.faults.readMarks i } }
    else s

/-- A direct read of a register: the data goes back to the reader. -/
def State.directRead (s : State) (via : Via) (off : Nat) : State :=
  (s.readEffect (viaPort via).isSome off).emit (.readData via false (leBytes 8 (s.readReg off).toNat))

/-- The shadow of a reader set (R31). -/
def Timebase.setShadow (t : Timebase) (via : Via) (v : BitVec 32) : Timebase :=
  match via with
  | .port p => if p.val = 0 then { t with shadowA := v } else { t with shadowB := v }
  | .sideband => { t with shadowS := v }
  | .firmware => t

/-- The shadow of a reader; the supervisor firmware, which is on no port, has none and reads the live half. -/
def Timebase.shadow (t : Timebase) (via : Via) : BitVec 32 :=
  match via with
  | .port p => if p.val = 0 then t.shadowA else t.shadowB
  | .sideband => t.shadowS
  | .firmware => BitVec.ofNat 32 (t.tick.toNat / 2 ^ 32)

/-- What a 32-bit read of BAR0 returns (R31, R494): the half of the register that the offset names, but for bits [63:32] of `GLB_TIME`,
which read as the shadow of the reader's port and never as the live half. -/
def State.read32 (s : State) (via : Via) (off : Nat) : BitVec 32 :=
  if off = R.GLB_TIME.at + 4 ∧ s.barServes R.GLB_TIME.at then s.tb.shadow via
  else BitVec.ofNat 32 ((s.readReg (off / 8 * 8)).toNat / 2 ^ (8 * (off % 8)))

/-- `GLB_TIME_LOW_READ` (R31): the low half is returned and the high half latched into the shadow of the port or the sideband, which a
32-bit read of the high half returns from then on. -/
def execGlbTimeLowRead (via : Via) (s : State) : Host.Outcome State Fault Refusal :=
  let t := if s.barServes R.GLB_TIME.at then
      { s with tb := s.tb.setShadow via (BitVec.ofNat 32 (s.tb.tick.toNat / 2 ^ 32)) }
    else s
  .next (t.emit (.readData via false (leBytes 4 (s.read32 via R.GLB_TIME.at).toNat)))

/-- `GLB_MARGIN_READ` (R37). -/
def execGlbMarginRead (via : Via) (s : State) : Host.Outcome State Fault Refusal := .next (s.directRead via R.GLB_MARGIN.at)

/-- `FAB_SADDLE_STAT_READ` (R165). -/
def execFabSaddleStatRead (via : Via) (s : State) : Host.Outcome State Fault Refusal :=
  .next (s.directRead via R.FAB_SADDLE_STAT.at)

/-- `ALT_LINK_FEC_READ` (R454). -/
def execAltLinkFecRead (via : Via) (l : LinkId) (s : State) : Host.Outcome State Fault Refusal :=
  .next (s.directRead via (R.ALT_LINK_FEC.at l.val))

/-- The register of a word of a fault-log entry (R560). -/
def logReg (word : Nat) : Reg :=
  if word = 0 then R.FLT_LOG_A else if word = 1 then R.FLT_LOG_B else if word = 2 then R.FLT_LOG_C else R.FLT_LOG_D

/-- `FLT_LOG_READ` (R523): a read of any word of an entry marks it as read. -/
def execFltLogRead (via : Via) (e : Fin 256) (word : Fin 4) (s : State) : Host.Outcome State Fault Refusal :=
  .next (s.directRead via ((logReg word.val).at e.val))

/-- `GLB_HWIN_SIZE_READ` (R499): what the device wrote under the earlier value has left, since writes leave as they are
issued; the value is returned. -/
def execGlbHwinSizeRead (reader p : PortId) (w : Fin 16) (s : State) : Host.Outcome State Fault Refusal :=
  .next (s.directRead (.port reader) (R.GLB_HWIN_SIZE.at p.val w.val))

end Sys2Proof.Machine
end

