-- ==== Sys2Proof/Machine/Access.lean ====
section
/-! DEFINITION. Writing a register: who may write which one, what a write does under its access code (R16), and the registers whose
writes act (R39, R76, R78, R118, R250, R300, R413, R419, R424, R450, R496, R499, R557, R587); the aperture (R496) and MSI-X (R500). -/

namespace Sys2Proof.Machine

/-! ## Who writes -/

/-- Who writes a register: a direct access, or a `SET` of a queue with `TX` zero. -/
inductive Writer where
  | direct (via : Via)
  | set (q : Nat)
  deriving DecidableEq, Repr

/-- Whether a writer acts for job `n`: host software on its owning port, or one of its queues (R50, R63). -/
def State.actsFor (s : State) (w : Writer) (n : Nat) : Bool :=
  match w with
  | .direct via => s.jobPort via n
  | .set q => s.queueJob q == n

/-- Who may write a register: anyone, a job, only direct writes from one port, or nobody. -/
inductive Right where
  | any
  | job (n : Nat)
  | port (p : Nat)
  | nobody
  deriving DecidableEq, Repr

/-- A right of a job where the object has an owner, and of nobody otherwise. -/
def Right.owned (valid : Bool) (n : Nat) : Right := if valid then .job n else .nobody

/-- The registers indexed by a queue, beside `QE_Q_CQ_q` (R73). -/
def queueRegs : List Reg := [R.QE_Q_CTRL, R.QE_Q_RING, R.QE_Q_TAIL, R.QE_Q_HEAD, R.QE_Q_CQ_HEAD, R.QE_Q_IRQ, R.QE_Q_STAT]

/-- The registers indexed by a job. -/
def jobRegs : List Reg :=
  [R.QE_JOB_CTRL, R.QE_JOB_DALES, R.QE_JOB_CORES, R.QE_JOB_QUOTA, R.QE_JOB_FENCE, R.QE_TX_CAST, R.TR_CTX, R.TR_MIG_POOL,
   R.TR_MIG_STAT, R.TR_FAULT_VA, R.TR_FAULT_INFO, R.TR_BASIN_USED, R.FAB_JOB_STAT, R.FLT_NAN_CTRL, R.FLT_NAN_INFO, R.FLT_NAN_WHERE,
   R.FLT_NAN_CAST, R.FLT_NAN_OPS, R.FLT_NAN_OPX, R.FLT_NAN_TIME, R.SRV_KV_POOL, R.SRV_KV_PUSH, R.SRV_KV_STAT, R.SRV_FL, R.SRV_JOB,
   R.SRV_JOB_STAT]

/-- The registers indexed by a serving binding (R410). -/
def bindRegs : List Reg :=
  [R.SRV_MODEL_CFG, R.SRV_MODEL_BATCH, R.SRV_MODEL_LOGITS, R.SRV_MODEL_ARGS, R.SRV_MODEL_LIMITS, R.SRV_RUN, R.SRV_MIRROR, R.SRV_FEED]

/-- The registers indexed by an output ring (R410). -/
def ringRegs : List Reg := [R.SRV_OUT_BASE, R.SRV_OUT_CTRL, R.SRV_OUT_HEAD, R.SRV_OUT_TAIL]

/-- The registers of a sampling set. -/
def sampRegs : List Reg := [R.SRV_SAMP0, R.SRV_SAMP1, R.SRV_SAMP2, R.SRV_SAMP3]

/-- Who may write the register `x` of index `i` (R39, R50, R63, R254, R310, R410, R499). -/
def State.writeRight (s : State) (x : Reg) (i : Nat) : Right :=
  if queueRegs.contains x then (if s.bound i then .job (s.queueJob i) else .any)
  else if jobRegs.contains x then .job i
  else if bindRegs.contains x then .owned (s.fb F.SRV_MODEL_CFG_VALID i) (s.f F.SRV_MODEL_CFG_OWNER_JOB i)
  else if ringRegs.contains x then .owned (s.fb F.SRV_OUT_CTRL_VALID i) (s.f F.SRV_OUT_CTRL_OWNER_JOB i)
  else if sampRegs.contains x then .owned (s.fb F.SRV_SAMP3_VALID i) (s.f F.SRV_SAMP3_OWNER_JOB i)
  else if x = R.GLB_CMP_TGT ∨ x = R.GLB_CMP_CTRL then .owned (s.fb F.GLB_CMP_CTRL_OWNED i) (s.f F.GLB_CMP_CTRL_OWNER_JOB i)
  else if x = R.GLB_PORT_CFG ∨ x = R.GLB_APERTURE ∨ x = R.GLB_HWIN_BASE ∨ x = R.GLB_HWIN_SIZE then .port i
  else .any

/-- Whether an offset lies in the `PWR` block (R593). -/
def inPwrBlock (off : Nat) : Bool := decide (0x1F80000 ≤ off) && decide (off < 0x2000000)

/-- Whether the sideband may write a register directly: the `PWR` block and `ALT_LINK_OPT` (R507). -/
def sidebandWrites (off : Nat) (x : Reg) : Bool := x == R.ALT_LINK_OPT || inPwrBlock off

/-- Whether a writer may write the register at an offset. The `PWR` block takes writes of the sideband and the firmware only (R593). -/
def State.mayWrite (s : State) (w : Writer) (off : Nat) (x : Reg) (i : Nat) : Bool :=
  (w != .direct .sideband || sidebandWrites off x) &&
  (!inPwrBlock off || w == .direct .sideband || w == .direct .firmware) &&
  match s.writeRight x i with
  | .any => true
  | .job n => s.actsFor w n
  | .port p => w == .direct (.port (Fin.ofNat 2 p))
  | .nobody => false

/-! ## What a write does -/

/-- A write under the access codes of R16: `RW` and `RWS` bits take the value, 1 clears a `W1C` bit, all others keep theirs. -/
def State.writeFields (s : State) (t : RegInfo) (off : Nat) (v mask : W64) : State :=
  let rw := maskOf (fun a => a == .rw || a == .rws) t.fields &&& mask
  let clr := v &&& mask &&& maskOf (· == .w1c) t.fields
  s.setReg off (mergeMask (s.reg off) v rw &&& ~~~ clr)

/-- Whether `QE_Q_CQ_q` takes a value (R76). -/
def State.cqTakes (s : State) (w : Writer) (q : Nat) (v : W64) : Bool :=
  s.bound q && (s.queue q).flights.isEmpty && decide (v.toNat % (32 * s.cqSize q) = 0) &&
  match w with
  | .direct via => viaPort via == some (s.f F.QE_Q_CTRL_PORT q)
  | .set k => s.f F.QE_Q_CTRL_PORT q == 2 && s.queueJob k == s.queueJob q &&
      s.basinRangeOk (s.queueJob q) v.toNat (32 * s.cqSize q) true

/-- A new `CQ_HEAD` (R78): accepted where it passes only completions that have been written and not consumed. -/
def State.cqHead (s : State) (q v : Nat) : State :=
  let n := (v % 2 ^ 16 + 2 ^ 16 - s.f F.QE_Q_CQ_HEAD_CQ_HEAD q) % s.cqSize q
  let x := s.queue q
  if n ≤ x.cqUsed then (s.setF F.QE_Q_CQ_HEAD_CQ_HEAD v q).setQueue q { x with cqUsed := x.cqUsed - n } else s

/-- `VALID` of `FLT_NAN_INFO_n` cleared, with `HALT` and `COUNT` (R250). -/
def State.clearNan (s : State) (n : Nat) : State :=
  ((s.setF F.FLT_NAN_INFO_VALID 0 n).setF F.FLT_NAN_INFO_HALT 0 n).setF F.FLT_NAN_INFO_COUNT 0 n

/-- `VALID` of `TR_FAULT_INFO_n` cleared, and the count since then restarted (R124). -/
def State.clearXlate (s : State) (n : Nat) : State := (s.setF F.TR_FAULT_INFO_VALID 0 n).setF F.TR_FAULT_INFO_COUNT 0 n

/-- The greatest launch power per wavelength that the Plinth applies, in units of 0.25 dBm (R424). DEDUCED: eight wavelengths at +3 dBm
make 12.03 dBm, more than the +12 dBm of the whole fibre; +2.75 dBm is the greatest step that keeps both limits. -/
def launchLimit : Int := 11

/-- The launch applied for `TARGET_LAUNCH` (R424, R453). -/
def State.applyLaunch (s : State) (l : Nat) : State :=
  let t := signedOf 8 (s.f F.ALT_LINK_OPT_TARGET_LAUNCH l)
  let high := decide (launchLimit < t)
  let s := s.setF F.ALT_LINK_OPT_LAUNCH (encodeSigned 8 (if high then launchLimit else t)) l
  let s := s.setF F.ALT_LINK_OPT_CLAMPED (bit high) l
  if high then s.count F.SEC_PLINTH_STAT_LAUNCH_CLAMPS else s

/-- A value for `GLB_APERTURE_p` (R496): ignored where it sets `VALID` for a job that the port does not own. -/
def State.aperture (s : State) (p : Nat) (v : W64) : State :=
  let n := bitsOf v 1 8
  if bitOf v 0 && !(s.jobValid n && s.f F.QE_JOB_CTRL_OWNER_PORT n == p) then s
  else ((s.setF F.GLB_APERTURE_VALID (bitsOf v 0 1) p).setF F.GLB_APERTURE_JOB n p).setF F.GLB_APERTURE_BASE (bitsOf v 30 21) p

/-- Whether a window of these values would be valid with no pages or end past 2^64 (R499). -/
def hwinBad (base size : W64) : Bool :=
  bitOf size 0 && (decide (bitsOf size 12 40 = 0) || decide (2 ^ 64 < bitsOf base 12 52 * 4096 + bitsOf size 12 40 * 4096))

/-- A value for `GLB_HWIN_BASE_p_w` or `GLB_HWIN_SIZE_p_w` (R499). -/
def State.hwin (s : State) (p w : Nat) (size : Bool) (v : W64) : State :=
  if hwinBad (if size then s.r R.GLB_HWIN_BASE p w else v) (if size then v else s.r R.GLB_HWIN_SIZE p w) then s
  else if size then (s.setF F.GLB_HWIN_SIZE_VALID (bitsOf v 0 1) p w).setF F.GLB_HWIN_SIZE_PAGES (bitsOf v 12 40) p w
  else s.setF F.GLB_HWIN_BASE_ADDR (bitsOf v 12 52) p w

/-- The pin of job `n` on a hot-set entry released (R118): `none` where the job does not pin it. -/
def State.unpin (s : State) (n e : Nat) : Option State :=
  match mget s.casts.hot e with
  | some x => if x.pins.contains n then some (s.setHot (mset s.casts.hot e { x with pins := sremove x.pins n })) else none
  | none => none

/-- `STOP` and `PROMOTE` of `SRV_RUN_m` written (R385, R405, R413). -/
def State.runWrite (s : State) (m : Nat) (v : W64) : State :=
  let s := if bitOf v 0 then s.stopServe m else s
  if bitOf v 1 then s.promoteBinding m else s

/-- A write to a register that the writer may write: `none` where the register does not take it. DESIGN CHOICE: a `SET` of
`TR_CCACHE_UNPIN` whose mask leaves out bits of `ENTRY` takes them as 0, and one that writes reserved bits alone names entry 0; the manual
does not say. -/
def State.writeReg (s : State) (w : Writer) (t : RegInfo) (i j off : Nat) (v mask : W64) : Option State :=
  let x := t.reg
  let new := mergeMask (s.reg off) v mask
  let put := v &&& mask
  if x = R.QE_Q_CQ then (if s.cqTakes w i new then some (s.setR R.QE_Q_CQ new i) else none)
  else if x = R.QE_Q_CQ_HEAD then some (s.cqHead i (bitsOf new 0 16))
  else if x = R.SRV_OUT_HEAD then some (s.outHead i (bitsOf new 0 20))
  else if x = R.GLB_CMP_CTRL then
    (match w with
     | .direct _ => some (s.writeComparator i new)
     | .set _ => if (mask &&& fieldMask 28 16) != 0 && !s.comparatorFence i new then none else some (s.writeComparator i new))
  else if x = R.FLT_NAN_INFO then some (if bitOf put 0 then s.clearNan i else s)
  else if x = R.TR_FAULT_INFO then some (if bitOf put 0 then s.clearXlate i else s)
  else if x = R.TR_CCACHE_UNPIN then
    (match w with
     | .set q => s.unpin (s.queueJob q) (bitsOf put 0 8)
     | .direct _ => none)
  else if x = R.SRV_KV_PUSH then some (if s.running then s.kvWrite i put else s)
  else if x = R.SRV_RUN then some (s.runWrite i put)
  else if x = R.FLT_PENDANT_CMD then some (if bitOf put 0 && s.isPendant then s.beginPromotion 5 0 else s)
  else if x = R.ALT_LINK_CTRL then
    (if w = .direct .firmware then
      (let s := if bitOf put 1 then s.startRecal i else s
       some (if bitOf put 2 then s.setLink i { s.link i with forceSearch := true } else s))
     else none)
  else if x = R.ALT_LINK_OPT then
    (let s := s.writeFields t off v mask
     some (if bitsOf mask 0 8 = 0 then s else s.applyLaunch i))
  else if x = R.PWR_GOV then some (if s.fb F.PWR_STAT_TRIPPED then s else s.writeFields t off v mask)
  else if x = R.GLB_APERTURE then some (s.aperture i new)
  else if x = R.GLB_HWIN_BASE then some (s.hwin i j false new)
  else if x = R.GLB_HWIN_SIZE then some (s.hwin i j true new)
  else some (s.writeFields t off v mask)

/-- A write of `value` under `mask` to the register at an aligned offset: `none` where the writer may not make it or the register
does not take it; no effect for an absent unit (R5). -/
def State.applyWrite (s : State) (w : Writer) (off : Nat) (v mask : W64) : Option State :=
  match regAt? off with
  | none => none
  | some (t, i, j) =>
    if !s.regPresent off t.reg i then some s
    else if !s.mayWrite w off t.reg i then none
    else s.writeReg w t i j off v mask

/-! ## MSI-X (R494, R500) -/

/-- The pending vectors of a port that are no longer masked are sent. -/
def State.sendPending (s : State) (p : Nat) : State :=
  (s.port p).pendingBits.foldl (fun s v =>
    if (s.port p).masked v then s
    else (s.setPort p { s.port p with pendingBits := sremove (s.port p).pendingBits v }).emit (.vector (Fin.ofNat 2 p) v)) s

/-- A write of a word of a port's vector table: the mask bit is bit 32 of an entry's second word. -/
def State.tableWrite (s : State) (p off : Nat) (v mask : W64) : State :=
  let k := (off - 0x2000000) / 8
  let x := s.port p
  let old := mgetD x.table k (if k % 2 = 1 then 0x100000000#64 else 0)
  (s.setPort p { x with table := mset x.table k (mergeMask old v mask) }).sendPending p

/-- `MSIX_UNMASK` (R500): the entry, or the function, is unmasked and what was pending is sent. -/
def execMsixUnmask (p : PortId) (v : Option (Fin 2048)) (s : State) : Host.Outcome State Fault Refusal :=
  let x := s.port p.val
  .next (match v with
    | none => (s.setPort p.val { x with functionMask := false }).sendPending p.val
    | some k => s.tableWrite p.val (0x2000008 + 16 * k.val) 0 (fieldMask 32 1))

/-! ## Direct writes -/

/-- A direct write whose conditions fail is ignored. -/
def State.directReg (s : State) (via : Via) (off : Nat) (v mask : W64) : State :=
  if s.barServes off then (s.applyWrite (.direct via) off v mask).getD s else s

/-- A direct write of 4 or 8 aligned bytes (R495): a 4-byte write changes its half of the register. -/
def State.directWrite (s : State) (via : Via) (off size : Nat) (v : W64) : State :=
  if (size ≠ 4 ∧ size ≠ 8) ∨ off % size ≠ 0 then s
  else
    let hi := size = 4 ∧ off % 8 = 4
    let mask := if size = 8 then fieldMask 0 64 else if hi then fieldMask 32 32 else fieldMask 0 32
    let v := if hi then v <<< 32 else v
    let a := off / 8 * 8
    if 0x2000000 ≤ a then
      match via with
      | .port p => if a < 0x2008000 then s.tableWrite p.val a v mask else s
      | _ => s
    else s.directReg via a v mask

/-- `REGISTER_WRITE` (R16, R495). -/
def execRegisterWrite (via : Via) (off : BitVec 26) (size : Nat) (v : W64) (s : State) : Host.Outcome State Fault Refusal :=
  .next (s.directWrite via off.toNat size v)

/-- `GLB_HWIN_WRITE` (R499). -/
def execGlbHwinWrite (via : Via) (p : PortId) (w : Fin 16) (size : Bool) (v : W64) (s : State) :
    Host.Outcome State Fault Refusal :=
  .next (s.directWrite via ((if size then R.GLB_HWIN_SIZE else R.GLB_HWIN_BASE).at p.val w.val) 8 v)

/-- `GLB_APERTURE_WRITE` (R496). -/
def execGlbApertureWrite (via : Via) (p : PortId) (v : W64) (s : State) : Host.Outcome State Fault Refusal :=
  .next (s.directWrite via (R.GLB_APERTURE.at p.val) 8 v)

/-- `QE_Q_CQ_WRITE` (R76). -/
def execQeQCqWrite (via : Via) (q : QId) (v : W64) (s : State) : Host.Outcome State Fault Refusal :=
  .next (s.directWrite via (R.QE_Q_CQ.at q.val) 8 v)

/-- `QE_Q_CQ_HEAD_WRITE` (R78). -/
def execQeQCqHeadWrite (via : Via) (q : QId) (v : W64) (s : State) : Host.Outcome State Fault Refusal :=
  .next (s.directWrite via (R.QE_Q_CQ_HEAD.at q.val) 8 v)

/-- `FLT_NAN_INFO_WRITE` (R250). -/
def execFltNanInfoWrite (via : Via) (n : JobId) (v : W64) (s : State) : Host.Outcome State Fault Refusal :=
  .next (s.directWrite via (R.FLT_NAN_INFO.at n.val) 8 v)

/-! ## The aperture (R496) -/

/-- Whether an access of `n` bytes at a local offset is one that job `j` may make through an aperture. -/
def State.apertureAllows (s : State) (j a n : Nat) : Bool :=
  let z := a + n - 1
  decide (0 < n) && regionOf a == regionOf z && s.provides a && s.provides z &&
  match regionOf a with
  | .terrace => (List.range (z / 0x2000000 - a / 0x2000000 + 1)).all (fun k => s.ownsDale j (a / 0x2000000 + k))
  | .basin => (framesIn basinBase a n).all (fun f => s.ownsFrame j f && !s.reservedFrame f)
  | .plain => (framesIn plainBase a n).all (fun f => mget s.frames.plainOwner f == some j)
  | _ => false

/-- `APERTURE_ACCESS` (R496): a refused read returns zeros, a refused write is ignored, and either counts; a read of poisoned data
returns with the EP bit. For a read, only the number of `bytes` counts. -/
def execApertureAccess (p : PortId) (off : BitVec 36) (wr : Bool) (bytes : List Byte) (s : State) :
    Host.Outcome State Fault Refusal :=
  let a := s.f F.GLB_APERTURE_BASE p.val * 2 ^ 30 + off.toNat
  let n := bytes.length
  let back := fun (s : State) (mark : Bool) (bs : List Byte) => s.emit (.readData (.port p) mark bs)
  .next (if !(s.fb F.GLB_APERTURE_VALID p.val && s.apertureAllows (s.f F.GLB_APERTURE_JOB p.val) a n) then
      let s := s.count F.GLB_PORT_STAT_APER_DENY p.val
      if wr then s else back s false (List.replicate n 0#8)
    else if regionOf a = Region.plain then
      if !wr then s.aperturePlain p.val a n [] 0
      else if a % 64 ≠ 0 ∨ n % 64 ≠ 0 then s.aperturePlain p.val a n bytes 1
      else (s.store a bytes).aperturePlain p.val a n bytes 2
    else if wr then (s.store a bytes).countLines true a n
    else back (s.countLines false a n) (s.poisoned a n) (s.bytes a n))

end Sys2Proof.Machine
end

