-- ==== Sys2Proof/Machine/Txs.lean ====
section
/-! DEFINITION. Configuration transactions up to their commit (R48, R50, R66, R67, R70): opening, staging, what the staged values would
leave, and aborting. -/

namespace Sys2Proof.Machine

/-! ## Staging (R67) -/

/-- The bits of a register that a `SET` in a transaction of a scope may stage: its `RWL` fields, and the key-rotation registers, which are
`WO` (R572, R579). -/
def stageBits (sc : Scope) (t : RegInfo) : W64 :=
  if t.scope = sc then
    maskOf (fun a => a == .rwl || (a == .wo && (t.reg == R.SEC_KEYNEW || t.reg == R.SEC_KEYNEW_CTRL))) t.fields
  else 0

/-- The mask that a `SET` stages; `none` where it names a field outside the scope. Bits of `RO` fields keep their value (R16). -/
def stageMask (sc : Scope) (t : RegInfo) (mask : W64) : Option W64 :=
  let ok := stageBits sc t
  if ok = 0 ∨ mask &&& maskOf (· != .ro) t.fields &&& ~~~ok ≠ 0 then none else some (mask &&& ok)

/-- A `SET` staged (R67): `BAD_COMMAND` outside the scope, `NO_SPACE` beyond 4,096 records. -/
def State.stageSet (s : State) (t : Tx) (off : Nat) (v mask : W64) : Except Status State :=
  match regAt? off with
  | none => .error .badCommand
  | some (x, _, _) =>
    match stageMask t.scope x mask with
    | none => .error .badCommand
    | some m =>
      if 4096 ≤ t.staged.length then .error .noSpace
      else .ok (s.setTx { t with staged := t.staged ++ [{ off := off, value := v, mask := m }] })

/-- The value that a staged `SET` leaves in its register. In the lost set a commit only clears bits (R538). -/
def State.stagedValue (s : State) (x : Staged) : W64 :=
  let v := mergeMask (s.reg x.off) x.value x.mask
  if R.FLT_LOST.base ≤ x.off ∧ x.off < R.FLT_LOST.base + 0x200 then v &&& s.reg x.off else v

/-- The registers with every staged value in place, in sequence order. -/
def State.merged (s : State) (xs : List Staged) : State := xs.foldl (fun s x => s.setReg x.off (s.stagedValue x)) s

/-- The registers that a transaction names, each as its register with its two indexes. -/
def Tx.named (t : Tx) : List (Reg × Nat × Nat) :=
  t.staged.filterMap (fun x => (regAt? x.off).map (fun y => (y.1.reg, y.2.1, y.2.2)))

/-- The first indexes of the registers among `rs` that a transaction names, each once. -/
def Tx.objects (t : Tx) (rs : List Reg) : List Nat :=
  t.named.foldl (fun l x => if rs.contains x.1 then sinsert l x.2.1 else l) []

/-- Whether a transaction names one of some registers. -/
def Tx.names (t : Tx) (rs : List Reg) : Bool := t.named.any (fun x => rs.contains x.1)

/-- The mask of the bits that a transaction stages of the register at an offset. -/
def Tx.bitsAt (t : Tx) (off : Nat) : W64 := t.staged.foldl (fun m x => if x.off = off then m ||| x.mask else m) 0

/-! ## Opening (R66) -/

/-- The `DETAIL` of a scope that is held (R71): a queue's job, or 0xFF for a management session. -/
def State.scopeConflict (s : State) (t : Tx) : W64 :=
  conflictDetail 7 t.scope.code (match t.opener with
    | .queue q => s.queueJob q
    | .session _ => 0xFF)

/-- The open transaction that keeps a scope from being opened again. -/
def State.scopeHeld (s : State) (k job : Nat) : Option Tx :=
  s.txs.find? (fun t => t.scope.code == k && (k != 2 || t.job == job))

/-- The scope of a code. -/
def Scope.ofCode (k : Nat) : Scope := if k = 0 then .partition else if k = 1 then .job else if k = 2 then .cast else .serve

/-- A transaction opened: its handle is the next one, and handles wrap past zero (R67). -/
def State.openTx (s : State) (k job : Nat) (o : Opener) (timeout : Nat) (tag : BitVec 16 := 0) : State × Nat :=
  let h := s.nextHandle
  let t : Tx := { handle := h, scope := .ofCode k, job := job, opener := o, timeout := if timeout = 0 then 2 ^ 24 else timeout
                  staged := [], casts := [], committing := false, since := 0, commitSeq := 0, tag := tag }
  ({ s with txs := s.txs ++ [t], nextHandle := if h = 0xFFFF then 1 else h + 1 }, h)

/-- Whether a queue may open a scope (R66). -/
def State.mayOpen (s : State) (q k job : Nat) : Bool :=
  let admin := s.fb F.QE_Q_CTRL_ADMIN q
  match k with
  | 0 => false
  | 2 => s.jobValid job && (admin || s.queueJob q == job)
  | _ => admin

/-- `TX_BEGIN` starts (R66, R67): `RESULT` is the handle. -/
def State.runTxBegin (s : State) (q seq : Nat) (r : Rec) : State :=
  let k := bitsOf r.w3 0 2
  let job := bitsOf r.w3 8 8
  match s.scopeHeld k job with
  | some t => s.finishFlight q seq .conflict 0 (s.scopeConflict t)
  | none =>
    let x := s.openTx k job (.queue q) r.w4.toNat
    x.1.finishFlight q seq .ok (BitVec.ofNat 64 x.2)

/-- `TX_BEGIN` (R49, R66). -/
def specTxBegin : CmdSpec :=
  { CmdSpec.plain [] State.runTxBegin with
    encoding := fun _ _ r =>
      match reservedField [(3, 2, 6), (3, 16, 48), (5, 0, 64), (6, 0, 64)] r with
      | some d => some d
      | none => if bitsOf r.w3 0 2 ≠ 2 ∧ bitsOf r.w3 8 8 ≠ 0 then some (badField 3 8) else none
    owns := fun s q r => s.mayOpen q (bitsOf r.w3 0 2) (bitsOf r.w3 8 8) }

/-- `TX_BEGIN` (R66). -/
def execTxBegin (q : QId) (s : State) : Host.Outcome State Fault Refusal :=
  .next (s.queueCommand specTxBegin (fun r => r.opcode == 0x04) q.val)

/-! ## Aborting (R67, R70) -/

/-- The open transaction that a record's `TX` names, committing or not (R48). -/
def State.ownTx (s : State) (q : Nat) (r : Rec) : Option Tx :=
  match s.tx r.tx with
  | some t => if t.opener = .queue q then some t else none
  | none => none

/-- `TX_ABORT` starts: the transaction rolls back, a pending `TX_COMMIT` completes `TX_ABORTED`, and it completes `OK`. -/
def State.runTxAbort (s : State) (q seq : Nat) (r : Rec) : State :=
  match s.ownTx q r with
  | none => s.finishFlight q seq .txAborted
  | some t => (s.rollback t.handle .txAborted).finishFlight q seq .ok

/-- `TX_ABORT` (R49, R70). -/
def specTxAbort : CmdSpec :=
  { CmdSpec.plain [(3, 0, 64), (4, 0, 64), (5, 0, 64), (6, 0, 64)] State.runTxAbort with takesTx := true }

/-- `TX_ABORT` (R70). -/
def execTxAbort (q : QId) (s : State) : Host.Outcome State Fault Refusal :=
  .next (s.queueCommand specTxAbort (fun r => r.opcode == 0x06) q.val)

end Sys2Proof.Machine
end

