-- ==== Sys2Proof/Machine/Validate.lean ====
section
/-! DEFINITION. The validation of a commit (R68): the state that the staged values would leave is checked as a whole against the present
one. Every check is a Boolean over the present state, the state with the registers merged, and the transaction. -/

namespace Sys2Proof.Machine

/-! ## Helpers -/

/-- Whether `p` holds of `n` numbers from `i`. -/
def allFrom (p : Nat → Bool) : Nat → Nat → Bool
  | 0, _ => true
  | n + 1, i => p i && allFrom p n (i + 1)

/-- The jobs that are valid. -/
def State.validJobs (s : State) : List Nat := (List.range 256).filter s.jobValid

/-- Whether no number stands twice in a list. -/
def distinct (l : List Nat) : Bool :=
  match l with
  | [] => true
  | a :: t => !t.contains a && distinct t

/-! ## Ranges and codes of fields (R600) -/

/-- The fields whose description states a range, with its bounds (R74, R83, R126, R292, R344, R370, R411, R412, R415, R417, R419, R456,
R459, R487, R489, R490). -/
def fieldRanges : List (Field × Nat × Nat) :=
  [(F.QE_Q_CTRL_PORT, 0, 2), (F.QE_Q_CTRL_LOG2_SIZE, 6, 16), (F.QE_Q_CTRL_LOG2_CQ, 6, 16),
   (F.QE_JOB_FENCE_COUNT, 0, 65536), (F.TR_MIG_CTRL_CAP_PCT, 0, 50), (F.SRV_KV_LAYOUT_BLK, 0, 4),
   (F.SRV_KV_LAYOUT_G0_LAYERS, 1, 255), (F.MRE_G_SEQ_SEQ_LEN, 1, 2 ^ 27), (F.MRE_G_SEQ_CHUNK, 1, 2 ^ 28),
   (F.WSU_L_CFG_MODE, 0, 2), (F.WSU_L_CFG_K_MIN, 1, 16), (F.WSU_L_CFG_K_MAX, 1, 16), (F.WSU_L_CFG_HASH_K, 1, 16),
   (F.WSU_L_CFG_EXPERTS, 1, 4096), (F.WSU_L_CFG_CAP, 1, 65535), (F.SRV_MODEL_CFG_DALES, 1, 32),
   (F.SRV_MODEL_LIMITS_MAX_REQS, 1, 4096), (F.SRV_MODEL_LIMITS_MAX_ROWS, 1, 65535), (F.SRV_MODEL_LIMITS_CHUNK, 1, 65535)] ++
  [(F.SRV_SAMP1_TOP_K, 0, 1024), (F.SRV_JOB_MAX_ENTRIES, 0, 65536), (F.SRV_OUT_CTRL_PORT, 0, 2), (F.SRV_OUT_CTRL_LOG2, 6, 20),
   (F.ALT_EXT_COUNT, 0, 4096), (F.PLN_RSV_GBPS, 1, 90), (F.ALT_RM_CFG_W_REQ, 1, 15), (F.ALT_RM_CFG_W_POST, 1, 15),
   (F.ALT_RM_CFG_W_RING, 1, 15), (F.ALT_RM_CFG_W_COLL, 1, 15), (F.ALT_RM_WIN_CTRL_CHIP_COUNT, 1, 4096),
   (F.ALT_CG_CFG_MEMBERS_M1, 1, 4095), (F.SEC_KEYNEW_CTRL_ROLE, 0, 2)]

/-- Whether a field that a transaction stages would hold a value of its range; a field of which it stages no bit is not looked at. -/
def Tx.fieldOk (n : State) (t : Tx) (x : Reg × Nat × Nat) (c : Field × Nat × Nat) : Bool :=
  let off := x.1.at x.2.1 x.2.2
  x.1 != c.1.reg || (t.bitsAt off &&& fieldMask c.1.lo c.1.width) == 0 ||
  (decide (c.2.1 ≤ bitsOf (n.reg off) c.1.lo c.1.width) && decide (bitsOf (n.reg off) c.1.lo c.1.width ≤ c.2.2))

/-- Every staged field within its range (R600). -/
def Tx.rangesOk (n : State) (t : Tx) : Bool := t.named.all (fun x => fieldRanges.all (t.fieldOk n x))

/-- Whether a run of Basin frames lies in the Basin of the part. -/
def State.framesFit (s : State) (first frames : Nat) : Bool := decide (first + frames ≤ s.part.basinFrames)

/-- The alignment and region rules of the registers that hold addresses (R75, R83, R122, R127, R312, R374, R412, R414, R416, R419, R490,
R600). -/
def Tx.placesOk (n : State) (t : Tx) : Bool :=
  t.named.all fun x =>
    let i := x.2.1
    if x.1 = R.QE_Q_RING ∨ x.1 = R.QE_Q_CTRL then n.f F.QE_Q_RING_BASE i % (64 * 2 ^ n.f F.QE_Q_CTRL_LOG2_SIZE i) == 0
    else if x.1 = R.QE_JOB_FENCE then decide (n.f F.QE_JOB_FENCE_BASE i + n.f F.QE_JOB_FENCE_COUNT i ≤ 65536)
    else if x.1 = R.TR_MIG_POOL then n.framesFit (n.f F.TR_MIG_POOL_FIRST i) (n.f F.TR_MIG_POOL_FRAMES i)
    else if x.1 = R.SRV_KV_POOL then n.framesFit (n.f F.SRV_KV_POOL_FIRST i) (n.f F.SRV_KV_POOL_FRAMES i)
    else if x.1 = R.TR_CCACHE_CFG then n.framesFit (n.f F.TR_CCACHE_CFG_FIRST) (n.f F.TR_CCACHE_CFG_FRAMES)
    else if x.1 = R.WSU_G_RECV then n.framesFit (n.f F.WSU_G_RECV_FIRST i) (n.f F.WSU_G_RECV_FRAMES i)
    else if x.1 = R.WSU_G_RET then n.framesFit (n.f F.WSU_G_RET_FIRST i) (n.f F.WSU_G_RET_FRAMES i)
    else if x.1 = R.SRV_FEED then n.framesFit (n.f F.SRV_FEED_FIRST i) (2 ^ n.f F.SRV_FEED_FRAMES_LOG2 i)
    else if x.1 = R.SRV_MODEL_BATCH then n.f F.SRV_MODEL_BATCH_VA i % 64 == 0
    else if x.1 = R.SRV_MODEL_LOGITS then n.f F.SRV_MODEL_LOGITS_VA i % 64 == 0
    else if x.1 = R.SRV_MODEL_ARGS then n.f F.SRV_MODEL_ARGS_VA i % 64 == 0
    else if x.1 = R.SRV_STOP_BASE then
      n.f F.SRV_STOP_BASE_VA % 64 == 0 && decide (basinBase ≤ n.f F.SRV_STOP_BASE_VA) &&
      decide (n.f F.SRV_STOP_BASE_VA + 16384 ≤ basinBase + n.part.basinFrames * frameBytes)
    else if x.1 = R.SRV_OUT_BASE ∨ x.1 = R.SRV_OUT_CTRL then
      n.f F.SRV_OUT_BASE_BASE i % (16 * 2 ^ n.f F.SRV_OUT_CTRL_LOG2 i) == 0
    else if x.1 = R.ALT_CG_LIST then n.f F.ALT_CG_LIST_LIST_BASE i % 64 == 0
    else true

/-! ## Disjointness and single owners (R63, R68, R71, R218) -/

/-- A conflict over a resource: its type, its index and the job that holds it. -/
abbrev Claim := Nat × Nat × Nat

/-- The first of `count` bits that two valid jobs would hold, with the present holder (R71, types 0x05 and 0x06). -/
def doubleClaim (n : State) (owns : State → Nat → Nat → Bool) (s : State) (type count : Nat) : Option Claim :=
  let js := n.validJobs
  (List.range count).findSome? fun d =>
    match js.filter (fun j => owns n j d) with
    | a :: _ :: _ => some (type, d, ((s.validJobs.find? (fun j => owns s j d)).getD a))
    | _ => none

/-- A single-owner resource given to a second owner: `owned` and `owner` are the fields of R71's registers. -/
def ownerClaim (s n : State) (owned owner : Field) (type i j index : Nat) : Option Claim :=
  if s.fb owned i j && n.fb owned i j && s.f owner i j != n.f owner i j && n.jobValid (s.f owner i j) then
    some (type, index, s.f owner i j)
  else none

/-- The ring claim of a window's ring register, unless the ring's Dale moves, which clears the ownership (R218). -/
def ringClaim (s n : State) (w r : Nat) : Option Claim :=
  match s.windowUnit w with
  | none => none
  | some u =>
    if s.daleOwner (u / 32) ≠ n.daleOwner (u / 32) then none
    else ownerClaim s n F.MU_RING_OWN_OWNED F.MU_RING_OWN_OWNER_JOB 3 w r (4 * u + r)

/-- The first resource that the commit would give to a second owner. -/
def Tx.claim (s n : State) (t : Tx) : Option Claim :=
  match t.named.findSome? (fun x =>
    if x.1 = R.ALT_PORT_OWN then ownerClaim s n F.ALT_PORT_OWN_OWNED F.ALT_PORT_OWN_OWNER_JOB 1 x.2.1 0 x.2.1
    else if x.1 = R.GLB_CMP_CTRL then ownerClaim s n F.GLB_CMP_CTRL_OWNED F.GLB_CMP_CTRL_OWNER_JOB 2 x.2.1 0 x.2.1
    else if x.1 = R.MU_RING_OWN then ringClaim s n x.2.1 x.2.2
    else if x.1 = R.PLN_RSV then ownerClaim s n F.PLN_RSV_OWNED F.PLN_RSV_OWNER_JOB 4 x.2.1 0 x.2.1
    else none) with
  | some c => some c
  | none =>
    if !t.names [R.QE_JOB_CTRL, R.QE_JOB_DALES, R.QE_JOB_CORES] then none
    else match doubleClaim n State.ownsDale s 5 32 with
      | some c => some c
      | none => doubleClaim n State.ownsCore s 6 64

/-- The fence ranges of valid jobs are disjoint (R54). -/
def State.fencesDisjoint (n : State) : Bool :=
  let js := n.validJobs
  js.all fun a => js.all fun b => decide (b ≤ a) ||
    !runsMeet (n.f F.QE_JOB_FENCE_BASE a) (n.f F.QE_JOB_FENCE_COUNT a) (n.f F.QE_JOB_FENCE_BASE b) (n.f F.QE_JOB_FENCE_COUNT b)

/-! ## Jobs, queues and pools -/

/-- Dales and cores given to a job: present, not failed, and not a supervisor core (R82, R283, R531, R536). -/
def jobUnitsOk (s n : State) (j : Nat) : Bool :=
  let newDale := fun d => n.ownsDale j d && !s.ownsDale j d
  let newCore := fun c => n.ownsCore j c && !s.ownsCore j c
  (List.range 32).all (fun d => !newDale d || s.hasDale d) &&
  (List.range 64).all (fun c => !newCore c || (s.hasCore c && decide (2 ≤ c % 32)))

/-- The indexes of a register that is written or differs from its reset value somewhere. -/
def State.listed (s : State) (x : Reg) : List Nat :=
  s.regs.filterMap fun y =>
    if x.base ≤ y.1 ∧ y.1 < x.base + x.s1 * x.n1 ∧ (y.1 - x.base) % x.s1 = 0 then some ((y.1 - x.base) / x.s1) else none

/-- Whether job `j` owns a frame after the commit: a valid job owns its frames, its pools, and the frames its pages are promoted to. -/
def State.ownsAfter (n : State) (j f : Nat) : Bool :=
  n.jobValid j && (n.ownsFrame j f || n.frames.mig.any (fun m => m.job == j && m.frame == some f))

/-- Whether a ring of job `j` lies, after the commit, wholly in frames of the job or in the reserved range (R75, R419). -/
def State.ringPlaced (n : State) (j a len : Nat) : Bool :=
  n.inBasin a len && (rangeFrames (n.ownsAfter j) a len || rangeFrames n.reservedFrame a len)

/-- The registers that decide who owns a frame. -/
def ownershipRegs : List Reg := [R.QE_JOB_CTRL, R.TR_MIG_POOL, R.SRV_KV_POOL]

/-- The ring of every queue that the commit leaves bound lies in frames of its job or in the reserved range (R75). -/
def Tx.queuesOk (n : State) (t : Tx) : Bool :=
  !t.names (R.QE_Q_CTRL :: R.QE_Q_RING :: ownershipRegs) ||
  (n.listed R.QE_Q_CTRL).all fun q =>
    !n.bound q || n.ringPlaced (n.queueJob q) (n.f F.QE_Q_RING_BASE q) (64 * 2 ^ n.f F.QE_Q_CTRL_LOG2_SIZE q)

/-- Every output ring in the Basin that the commit leaves bound lies in frames of its job or in the reserved range (R419). -/
def Tx.outputsOk (n : State) (t : Tx) : Bool :=
  !t.names (R.SRV_OUT_CTRL :: R.SRV_OUT_BASE :: ownershipRegs) ||
  (n.listed R.SRV_OUT_CTRL).all fun o =>
    !n.fb F.SRV_OUT_CTRL_VALID o || n.f F.SRV_OUT_CTRL_PORT o != 2 ||
    n.ringPlaced (n.f F.SRV_OUT_CTRL_OWNER_JOB o) (n.f F.SRV_OUT_BASE_BASE o) (16 * 2 ^ n.f F.SRV_OUT_CTRL_LOG2 o)

/-- Whether another job than `j` owns a frame of a run (R96, R122, R298). -/
def State.othersOwn (n : State) (j first frames : Nat) : Bool :=
  n.frames.basinOwner.any (fun x => x.2 != j && inPool first frames x.1) ||
  n.frames.pages.any (fun x => x.1 != j && x.2.tables.any (fun y => inPool first frames (frameOf y.2))) ||
  n.validJobs.any (fun k => k != j &&
    (runsMeet first frames (n.f F.TR_MIG_POOL_FIRST k) (n.f F.TR_MIG_POOL_FRAMES k) ||
     runsMeet first frames (n.f F.SRV_KV_POOL_FIRST k) (n.f F.SRV_KV_POOL_FRAMES k)))

/-- A pool names no frame of another job and none of the reserved range (R122, R298). -/
def State.poolOk (n : State) (j first frames : Nat) : Bool :=
  frames == 0 || (decide (first + frames ≤ n.reservedFrom) && !n.othersOwn j first frames)

/-- The pools that a commit names (R122, R298): no frame with a page on a list or mapped leaves a KV pool. -/
def Tx.poolsOk (s n : State) (t : Tx) : Bool :=
  (t.objects [R.TR_MIG_POOL]).all (fun j => n.poolOk j (n.f F.TR_MIG_POOL_FIRST j) (n.f F.TR_MIG_POOL_FRAMES j)) &&
  (t.objects [R.SRV_KV_POOL]).all (fun j =>
    n.poolOk j (n.f F.SRV_KV_POOL_FIRST j) (n.f F.SRV_KV_POOL_FRAMES j) &&
    s.serve.pages.all (fun x => !s.inKvPool j (x.1 / 512) ||
      (n.inKvPool j (x.1 / 512) && n.inKvPool j ((x.1 + 2 ^ (x.2 % 32 - 12) - 1) / 512))))

/-- The quotas of R68: together within the Basin less the reserved range, and each job's charge within its own. -/
def State.quotasOk (n : State) : Bool :=
  let js := n.validJobs
  decide (js.foldl (fun a j => a + n.f F.QE_JOB_QUOTA_QUOTA_MIB j) 0 + n.f F.TR_BASIN_RSV_RSV_MIB ≤ 2 * n.part.basinFrames) &&
  js.all (fun j => decide (n.usedMib j ≤ n.f F.QE_JOB_QUOTA_QUOTA_MIB j))

/-- A job that the commit makes invalid has no request other than `FREE` (R304). -/
def jobsLeave (s n : State) (t : Tx) : Bool :=
  (t.objects [R.QE_JOB_CTRL]).all fun j =>
    !s.jobValid j || n.jobValid j || s.serve.reqs.all (fun x => x.2.f qfState == 0 || x.2.f qfJob != j)

/-- The rings that a commit gives to a job lie in Dales of that job (R218). -/
def Tx.ringsOk (s n : State) (t : Tx) : Bool :=
  t.named.all fun x =>
    x.1 != R.MU_RING_OWN || !n.fb F.MU_RING_OWN_OWNED x.2.1 x.2.2 ||
    match s.windowUnit x.2.1 with
    | some u => n.ownsDale (n.f F.MU_RING_OWN_OWNER_JOB x.2.1 x.2.2) (u / 32)
    | none => false

/-- The hot set changes only while nothing is pinned (R118). -/
def Tx.hotOk (s n : State) : Bool := n.r R.TR_CCACHE_CFG == s.r R.TR_CCACHE_CFG || s.casts.hot.all (fun x => x.2.pins.isEmpty)

/-- Plain reservations: at most 90 GB/s together (R448). -/
def State.reservationsOk (n : State) : Bool :=
  decide ((List.range 16).foldl (fun a r => if n.fb F.PLN_RSV_OWNED r then a + n.f F.PLN_RSV_GBPS r else a) 0 ≤ 90)

/-! ## Groups -/

/-- A Meander group (R318, R319). -/
def State.meanderOk (n : State) (g : Nat) : Bool :=
  let j := n.f F.MRE_G_CFG_OWNER_JOB g
  let m := n.f F.MRE_G_CFG_MEMBERS_M1 g + 1
  let sp := n.f F.MRE_G_CFG_SEND_PORT g
  let rp := n.f F.MRE_G_CFG_RECV_PORT g
  let succ := n.f F.MRE_G_NBR_SUCC_CHIP g
  let pred := n.f F.MRE_G_NBR_PRED_CHIP g
  let len := n.f F.MRE_G_SEQ_SEQ_LEN g
  let c := n.f F.MRE_G_SEQ_CHUNK g
  let owns := fun p => n.fb F.ALT_PORT_OWN_OWNED p && n.f F.ALT_PORT_OWN_OWNER_JOB p == j
  let far := fun p x => n.fb F.ALT_PORT_CFG_VALID p && n.f F.ALT_PORT_CFG_PEER_CHIP p == x
  owns sp && owns rp && far sp succ && far rp pred && n.inFence succ && n.inFence pred &&
  m % 2 == 0 && decide (n.f F.MRE_G_CFG_INDEX g < m) && (m != 2 || pred == succ) &&
  decide (1 ≤ len) && decide (len ≤ 2 ^ 27) && decide (1 ≤ c) &&
  (if n.fb F.MRE_G_CFG_ZIGZAG g then len == 2 * m * c else decide (len ≤ m * c) && decide ((m - 1) * c < len))

/-- Whether an area of an expert group lies in frames of its job outside the reserved range (R374). -/
def State.areaOk (n : State) (g : Nat) (first frames : Field) : Bool :=
  allFrom (fun f => n.ownsFrame (n.f F.WSU_G_CFG_OWNER_JOB g) f && !n.reservedFrame f) (n.f frames g) (n.f first g)

/-- The areas of expert groups (R374): those that a commit names, and both of a group whose configuration it names and leaves valid. -/
def Tx.areasOk (n : State) (t : Tx) : Bool :=
  let cfg := (t.objects [R.WSU_G_CFG]).filter (fun g => n.fb F.WSU_G_CFG_VALID g)
  (t.objects [R.WSU_G_RECV] ++ cfg).all (fun g => n.areaOk g F.WSU_G_RECV_FIRST F.WSU_G_RECV_FRAMES) &&
  (t.objects [R.WSU_G_RET] ++ cfg).all (fun g => n.areaOk g F.WSU_G_RET_FIRST F.WSU_G_RET_FRAMES)

/-- The configuration and the members of an expert group (R373). -/
def State.expertsOk (n : State) (g : Nat) : Bool :=
  let m := n.f F.WSU_G_CFG_MEMBERS_M1 g + 1
  let chips := (List.range m).map (fun i => bitsOf (n.r R.WSU_G_CHIPS g (i / 4)) (12 * (i % 4)) 12)
  decide (n.f F.WSU_G_CFG_INDEX g < m) && nth chips (n.f F.WSU_G_CFG_INDEX g) 0 == n.chip &&
  chips.all n.inFence && distinct chips

/-- The members of a collective group as the staged values give them (R476). -/
def State.stagedMembers (n : State) (g : Nat) : List Nat :=
  let m := n.f F.ALT_CG_CFG_MEMBERS_M1 g + 1
  let w := n.f F.ALT_MESH_W_M1 + 1
  if n.fb F.ALT_CG_CFG_KIND g then
    (List.range m).map (fun k => leNat (n.bytes (n.f F.ALT_CG_LIST_LIST_BASE g + 2 * k) 2) % 4096)
  else
    (List.range m).map (fun k =>
      let gw := n.f F.ALT_CG_GEOM_W_M1 g + 1
      n.f F.ALT_MESH_BASE + (n.f F.ALT_CG_GEOM_Y0 g + k / gw) * w + n.f F.ALT_CG_GEOM_X0 g + k % gw)

/-- A collective group (R476, R490). -/
def State.collectiveOk (s n : State) (g : Nat) : Bool :=
  let m := n.f F.ALT_CG_CFG_MEMBERS_M1 g + 1
  let gw := n.f F.ALT_CG_GEOM_W_M1 g + 1
  let gh := n.f F.ALT_CG_GEOM_H_M1 g + 1
  let list := n.fb F.ALT_CG_CFG_KIND g
  decide (2 ≤ m) && !s.collPending g &&
  (if list then n.basinRangeOk (n.f F.ALT_CG_CFG_OWNER_JOB g) (n.f F.ALT_CG_LIST_LIST_BASE g) (2 * m) false
   else m == gw * gh && n.fb F.ALT_MESH_VALID && decide (n.f F.ALT_CG_GEOM_X0 g + gw ≤ n.f F.ALT_MESH_W_M1 + 1) &&
     decide (n.f F.ALT_CG_GEOM_Y0 g + gh ≤ n.f F.ALT_MESH_H_M1 + 1)) &&
  (let chips := n.stagedMembers g
   decide (n.f F.ALT_CG_CFG_INDEX g < m) && nth chips (n.f F.ALT_CG_CFG_INDEX g) 0 == n.chip && chips.all n.inFence && distinct chips)

/-- A remote window (R489). -/
def State.remoteWindowOk (n : State) (w : Nat) : Bool :=
  let j := n.f F.ALT_RM_WIN_CTRL_OWNER_JOB w
  let frame := fun k =>
    let a := k * frameBytes
    n.provides a && match regionOf a with
      | .terrace => n.ownsDale j (a / 0x2000000)
      | .basin => n.ownsFrame j (frameOf a) && !n.reservedFrame (frameOf a)
      | .plain => mget n.frames.plainOwner ((a - plainBase) / frameBytes) == some j
      | _ => false
  decide (1 ≤ n.f F.ALT_RM_WIN_CTRL_CHIP_COUNT w) && n.ownsFence j (n.f F.ALT_RM_WIN_CTRL_NOTIFY_FENCE w) &&
  allFrom frame (n.f F.ALT_RM_WIN_BASE_FRAMES w) (n.f F.ALT_RM_WIN_BASE_FIRST w)

/-! ## Serving and routing -/

/-- Whether a register differs after the commit. -/
def changed (s n : State) (x : Reg) (i : Nat := 0) (j : Nat := 0) : Bool := s.r x i j != n.r x i j

/-- The requests that are admitted and not yet free. -/
def State.admittedReqs (s : State) : List Req := (s.serve.reqs.map (fun x => x.2)).filter (fun e => e.f qfState != 0)

/-- A KV layout (R292): its format one of `BF16`, `FP16`, `E4M3`, `E5M2`, `E2M1` and `INT8` (R103), no block scaling for the 16-bit formats, and no change while a request uses it. A code that R292 does not name is denied whether or not
the layout is valid (R600). -/
def layoutOk (s n : State) (j : Nat) : Bool :=
  let fmt := n.f F.SRV_KV_LAYOUT_FMT j
  let blk := n.f F.SRV_KV_LAYOUT_BLK j
  let wide := fmt == 1 || fmt == 2
  [1, 2, 3, 4, 7, 8].contains fmt && (!wide || blk == 0) && decide (blk ≤ 4) && decide (1 ≤ n.f F.SRV_KV_LAYOUT_G0_LAYERS j) &&
  (!changed s n R.SRV_KV_LAYOUT j || s.admittedReqs.all (fun e => e.f qfLayout != j))

/-- The code of `DRAFT` for no draft binding (R289, R411). -/
def noDraft : Nat := 0x3F

/-- Whether a binding is in use: by an admitted request, or by a `SERVE_START` in flight (R411). -/
def State.bindingUsed (s : State) (m : Nat) : Bool :=
  s.admittedReqs.any (fun e => e.f qfTarget == m || (m != noDraft && e.f qfDraft == m)) ||
  s.serve.runs.any (fun x => x.1 == m || (m != noDraft && s.f F.SRV_MODEL_CFG_DRAFT x.1 == m))

/-- A serving binding (R411, R412). -/
def State.bindingOk (n : State) (m : Nat) : Bool :=
  let j := n.f F.SRV_MODEL_CFG_OWNER_JOB m
  let first := n.f F.SRV_MODEL_CFG_FIRST_DALE m
  let count := n.f F.SRV_MODEL_CFG_DALES m
  let d := n.f F.SRV_MODEL_CFG_DRAFT m
  decide (1 ≤ count) && decide (first + count ≤ 32) && (List.range count).all (fun i => n.ownsDale j (first + i)) &&
  (d == noDraft || (n.fb F.SRV_MODEL_CFG_VALID d && n.fb F.SRV_MODEL_CFG_IS_DRAFT d && n.f F.SRV_MODEL_CFG_OWNER_JOB d == j &&
    n.f F.SRV_MODEL_CFG_VOCAB_M1 d == n.f F.SRV_MODEL_CFG_VOCAB_M1 m)) &&
  decide (1 ≤ n.f F.SRV_MODEL_LIMITS_MAX_REQS m) && decide (1 ≤ n.f F.SRV_MODEL_LIMITS_MAX_ROWS m) &&
  decide (1 ≤ n.f F.SRV_MODEL_LIMITS_CHUNK m)

/-- The bindings of a commit: the named ones that stay valid, those whose draft binding is named, and no change of one in use. -/
def Tx.bindingsOk (s n : State) (t : Tx) : Bool :=
  let named := t.objects [R.SRV_MODEL_CFG, R.SRV_MODEL_LIMITS]
  named.all (fun m => !changed s n R.SRV_MODEL_CFG m || !s.bindingUsed m) &&
  (named.isEmpty || (List.range 64).all fun m =>
    let d := n.f F.SRV_MODEL_CFG_DRAFT m
    !n.fb F.SRV_MODEL_CFG_VALID m || !(named.contains m || (d != noDraft && named.contains d)) || n.bindingOk m)

/-- Whether an `FP32` code is finite. -/
def f32Finite (v : Nat) : Bool := v / 2 ^ 23 % 256 != 255
/-- Whether a finite `FP32` code is less than zero. -/
def f32Neg (v : Nat) : Bool := v / 2 ^ 31 % 2 == 1 && v % 2 ^ 31 != 0
/-- Whether a finite `FP32` code is greater than zero. -/
def f32Pos (v : Nat) : Bool := v / 2 ^ 31 % 2 == 0 && v != 0
/-- Whether a finite `FP32` code is at most one. -/
def f32AtMostOne (v : Nat) : Bool := v / 2 ^ 31 % 2 == 1 || decide (v ≤ 0x3F800000)

/-- A sampling set (R415). -/
def samplingOk (s n : State) (i : Nat) : Bool :=
  let temp := n.f F.SRV_SAMP0_TEMP i
  let topP := n.f F.SRV_SAMP0_TOP_P i
  let minP := n.f F.SRV_SAMP1_MIN_P i
  let rep := n.f F.SRV_SAMP2_REP i
  [temp, topP, minP, rep, n.f F.SRV_SAMP2_FREQ i, n.f F.SRV_SAMP3_PRES i].all f32Finite &&
  !f32Neg temp && f32Pos topP && f32AtMostOne topP && !f32Neg minP && f32AtMostOne minP && f32Pos rep &&
  decide (n.f F.SRV_SAMP1_TOP_K i ≤ 1024) &&
  (sampRegs.all (fun x => !changed s n x i) || s.admittedReqs.all (fun e => e.f qfSamp != i))

/-- A feed ring lies in frames of its binding's job (R414). -/
def State.feedOk (n : State) (m : Nat) : Bool :=
  allFrom (fun f => n.ownsFrame (n.f F.SRV_MODEL_CFG_OWNER_JOB m) f) (2 ^ n.f F.SRV_FEED_FRAMES_LOG2 m) (n.f F.SRV_FEED_FIRST m)

/-- An output ring is not unbound under a live request (R419). -/
def outputOk (s n : State) (o : Nat) : Bool :=
  n.fb F.SRV_OUT_CTRL_VALID o || !s.fb F.SRV_OUT_CTRL_VALID o || s.admittedReqs.all (fun e => !e.live || e.f qfOut != o)

/-- The configuration of a routing layer (R370), valid or not. -/
def State.layerOk (n : State) (j : Nat) : Bool :=
  let lo := n.f F.WSU_L_CFG_K_MIN j
  let hi := n.f F.WSU_L_CFG_K_MAX j
  decide (1 ≤ lo) && decide (lo ≤ 16) && decide (lo ≤ hi) && decide (hi ≤ 16) && decide (1 ≤ n.f F.WSU_L_CFG_HASH_K j) &&
  decide (n.f F.WSU_L_CFG_HASH_K j ≤ 16) && decide (1 ≤ n.f F.WSU_L_CFG_EXPERTS j) &&
  decide (n.f F.WSU_L_CFG_EXPERTS j ≤ 4096) && decide (1 ≤ n.f F.WSU_L_CFG_CAP j) && n.f F.WSU_L_CFG_MODE j != 3

/-- The threshold of a routing layer (R371). -/
def State.thresholdOk (n : State) (j : Nat) : Bool :=
  let th := n.f F.WSU_L_PARAM_THRESH j
  f32Finite th && !(f32Pos th && n.f F.WSU_L_CFG_MODE j == 1)

/-! ## The partition -/

/-- The ports that the mesh routes use: those of the valid directions, and that of a valid external range. -/
def State.routingPorts (n : State) : List Nat :=
  ((List.range 4).filter (fun d => bitOf (n.r R.ALT_DIR_PORT) (4 * d + 3))).map (fun d => bitsOf (n.r R.ALT_DIR_PORT) (4 * d) 3) ++
  (if n.fb F.ALT_EXT_VALID then [n.f F.ALT_EXT_PORT] else [])

/-- No owned port is named for routing (R439). -/
def State.routingUnowned (n : State) : Bool := n.routingPorts.all (fun p => !n.fb F.ALT_PORT_OWN_OWNED p)

/-- The logical ports (R455). -/
def State.portsOk (n : State) : Bool :=
  let ps := (List.range 8).filter (fun p => n.fb F.ALT_PORT_CFG_VALID p)
  let links := fun (p : Nat) => n.f F.ALT_PORT_CFG_LINKS p
  (List.range 8).all (fun p => links p / 2 ^ 18 == 0) && ps.all (fun p => links p != 0) &&
  (List.range 8).all (fun a => (List.range 8).all (fun b => decide (b ≤ a) || links a &&& links b == 0))

/-- The mesh and the external range (R456). -/
def State.meshOk (n : State) : Bool :=
  let size := (n.f F.ALT_MESH_W_M1 + 1) * (n.f F.ALT_MESH_H_M1 + 1)
  let base := n.f F.ALT_MESH_BASE
  decide (size ≤ 4096) && decide (base + size ≤ 4096) && decide (base ≤ n.f F.ALT_MESH_CHIP) &&
  decide (n.f F.ALT_MESH_CHIP < base + size) &&
  (!n.fb F.ALT_EXT_VALID || !runsMeet base size (n.f F.ALT_EXT_BASE) (n.f F.ALT_EXT_COUNT)) &&
  n.routingPorts.all (fun p => n.fb F.ALT_PORT_CFG_VALID p) && n.routingUnowned

/-- Whether the partition fence table holds a chip. -/
def State.fenceHolds (n : State) (x : Nat) : Bool := (n.f F.SEC_FENCE_INSIDE (x / 64)).testBit (x % 64)

/-- The fence table holds the own chip and the far end of every valid port (R574). -/
def State.fenceOk (n : State) : Bool :=
  n.fenceHolds (n.f F.ALT_MESH_CHIP) &&
  (List.range 8).all (fun p => !n.fb F.ALT_PORT_CFG_VALID p || n.fenceHolds (n.f F.ALT_PORT_CFG_PEER_CHIP p))

/-- A role of the pair (R541). -/
def State.pendantOk (n : State) : Bool :=
  !n.fb F.FLT_PENDANT_VALID ||
  (n.fb F.ALT_EXT_VALID && n.f F.ALT_EXT_COUNT == (n.f F.ALT_MESH_W_M1 + 1) * (n.f F.ALT_MESH_H_M1 + 1))

/-- A key rotation has a free slot (R572). -/
def Tx.keyOk (n : State) (t : Tx) : Bool :=
  !t.names [R.SEC_KEYNEW_CTRL] || !n.fb F.SEC_KEYNEW_CTRL_BURN ||
  decide (nth n.fuses.slotsUsed (n.f F.SEC_KEYNEW_CTRL_ROLE) 8 < 8)

/-! ## The verdict (R68) -/

/-- Whether a binding of a layout, a group or a window that a commit names passes its check where it is valid after the commit. -/
def Tx.each (t : Tx) (rs : List Reg) (ok : Nat → Bool) : Bool := (t.objects rs).all ok

/-- The checks of a commit that fail with `DENIED`. -/
def Tx.allowed (s n : State) (t : Tx) : Bool :=
  t.rangesOk n && t.placesOk n &&
  (!t.names [R.QE_JOB_CTRL, R.QE_JOB_FENCE] || n.fencesDisjoint) &&
  t.each [R.QE_JOB_DALES, R.QE_JOB_CORES] (jobUnitsOk s n) && jobsLeave s n t && t.queuesOk n && t.poolsOk s n &&
  (!t.names [R.QE_JOB_CTRL, R.QE_JOB_QUOTA, R.TR_MIG_POOL, R.SRV_KV_POOL] || n.quotasOk) &&
  t.ringsOk s n && Tx.hotOk s n && n.reservationsOk &&
  t.each [R.MRE_G_CFG, R.MRE_G_NBR, R.MRE_G_SEQ, R.MRE_G_LIMIT] n.meanderOk &&
  t.each [R.WSU_G_CFG, R.WSU_G_CHIPS] n.expertsOk && t.areasOk n &&
  t.each [R.ALT_CG_CFG, R.ALT_CG_GEOM, R.ALT_CG_LIST] (s.collectiveOk n) &&
  t.each [R.ALT_RM_WIN_BASE, R.ALT_RM_WIN_CTRL] n.remoteWindowOk &&
  (!t.names [R.ALT_PORT_OWN] || n.routingUnowned) &&
  t.each [R.SRV_KV_LAYOUT] (layoutOk s n) && t.bindingsOk s n && t.each sampRegs (samplingOk s n) &&
  t.each [R.SRV_FEED] n.feedOk && t.each [R.SRV_OUT_CTRL] (outputOk s n) && t.outputsOk n &&
  t.each [R.WSU_L_CFG] n.layerOk && t.each [R.WSU_L_CFG, R.WSU_L_PARAM] n.thresholdOk &&
  (!t.names [R.ALT_PORT_CFG] || n.portsOk) &&
  (!t.names [R.ALT_MESH, R.ALT_DIR_PORT, R.ALT_EXT, R.ALT_PORT_CFG] || n.meshOk) &&
  (!t.names [R.SEC_FENCE, R.ALT_MESH, R.ALT_PORT_CFG] || n.fenceOk) &&
  (!t.names [R.FLT_PENDANT, R.ALT_EXT, R.ALT_MESH] || n.pendantOk) && t.keyOk n

/-- Whether the staged casts can take place on the Dales of the transaction's job, in order (R68, R114). -/
def State.castsOk (s : State) (t : Tx) : Bool :=
  (t.casts.foldl (fun (x : State × Bool) c =>
    let ds := (List.range c.count).map (c.first + ·)
    let own := ds.all (s.ownsDale t.job)
    (x.1.applyStaged [c], x.2 && own && (c.evict || (x.1.switchCast c.first c.count).isSome))) (s, true)).2

/-- The first phase of a commit (R68): nothing where it passes, else the status with its `DETAIL`. -/
def State.validate (s : State) (t : Tx) : Option (Status × W64) :=
  let n := s.merged t.staged
  match t.claim s n with
  | some (type, i, holder) => some (.conflict, conflictDetail type i holder)
  | none => if t.allowed s n && s.castsOk t then none else some (.denied, 0)

end Sys2Proof.Machine
end

