-- ==== Sys2Proof/Machine/Apply.lean ====
section
/-! DEFINITION. The ordering point of a commit (R68, third phase): every staged value is applied at once, with what the manual attaches
to the change of each kind of register. -/

namespace Sys2Proof.Machine

/-! ## Queues (R74, R503) -/

/-- Whether a commit rebinds a queue that stays bound (R503). -/
def rebinds (s n : State) (q : Nat) : Bool :=
  s.bound q && n.bound q &&
  (s.f F.QE_Q_CTRL_PORT q != n.f F.QE_Q_CTRL_PORT q || s.queueJob q != n.queueJob q ||
   s.f F.QE_Q_CTRL_LOG2_SIZE q != n.f F.QE_Q_CTRL_LOG2_SIZE q || s.f F.QE_Q_CTRL_LOG2_CQ q != n.f F.QE_Q_CTRL_LOG2_CQ q ||
   s.f F.QE_Q_RING_BASE q != n.f F.QE_Q_RING_BASE q)

/-- Every record still in the ring completes `CANCELLED`, in sequence order (R74); `fuel` bounds their number. -/
def State.cancelRing : Nat → State → Nat → State
  | 0, s, _ => s
  | fuel + 1, s, q =>
    match s.headRec q with
    | none => s
    | some r =>
      let seq := s.headSeq q
      cancelRing fuel (((s.unrun q r .cancelled).advanceHead q).cancelUnstarted q seq r) q

/-- A queue restarted as at binding (R74, R502): window slots cleared, sequences and `CQ_HEAD` zero, `CSEQ` from 1. Records in flight
stay: a commit leaves none but its own `TX_COMMIT`. -/
def State.restartQueue (s : State) (q : Nat) : State :=
  let s := s.setQueue q { QState.fresh with flights := (s.queue q).flights, epoch := (s.queue q).epoch }
  ((s.setR R.QE_Q_TAIL 0 q).setR R.QE_Q_HEAD 0 q).setR R.QE_Q_CQ_HEAD 0 q

/-- The transactions of an unbound queue roll back (R70), but for the commit that unbinds it. -/
def State.dropTxs (s : State) (q keep : Nat) : State :=
  (s.txs.filter (fun u => u.opener = .queue q && u.handle != keep)).foldl (fun s u => s.rollback u.handle .txAborted) s

/-- What the commit of a transaction does to a queue that it names, before its registers change. DESIGN CHOICE: where it binds an unbound
queue, the whole of `QE_Q_STAT` becomes 0, `LAST_REASON` with the counters that R80 clears. -/
def State.leaveQueue (s n : State) (keep q : Nat) : State :=
  if s.bound q && (!n.bound q || rebinds s n q) then
    let s := (s.cancelRing 65536 q).restartQueue q
    if n.bound q then s
    else let s := s.dropTxs q keep
    (s.serve.reqs.filter (fun x => x.2.f qfState != 0 && x.2.f qfOwnerQ == q)).foldl (fun s x => s.cancelRequest x.1) s
  else if !s.bound q && n.bound q then (s.restartQueue q).setR R.QE_Q_STAT 0 q
  else s

/-! ## Jobs (R63, R95, R116, R118, R250, R304) -/

/-- The counters that clear when a job is made valid (R168, R314, R417); `IN_USE` stays with the entries. -/
def State.jobValidated (s : State) (j : Nat) : State :=
  let use := s.f F.SRV_JOB_STAT_IN_USE j
  (((s.setR R.FAB_JOB_STAT 0 j).setR R.SRV_KV_STAT 0 j).setR R.SRV_JOB_STAT 0 j).setF F.SRV_JOB_STAT_IN_USE use j

/-- What a job loses when it is made invalid: its tables and frames (R95, R96), its pins (R118), its NaN record (R251), its free lists
and its KV pool (R304). -/
def State.jobInvalidated (s : State) (j : Nat) : State :=
  let fr := s.frames
  let s := { s with frames := { fr with
      basinOwner := fr.basinOwner.filter (fun x => x.2 != j)
      plainOwner := fr.plainOwner.filter (fun x => x.2 != j)
      pages := merase fr.pages j
      tlbs := fr.tlbs.map (fun (c : Nat × List TlbEntry) => (c.1, c.2.filter (fun x => x.job != j)))
      mig := fr.mig.filter (fun m => m.job != j) } }
  let s := (s.setR R.TR_CTX 0 j).setHot (s.casts.hot.map (fun x => (x.1, { x.2 with pins := sremove x.2.pins j })))
  let s := [R.FLT_NAN_INFO, R.FLT_NAN_WHERE, R.FLT_NAN_CAST, R.FLT_NAN_OPS, R.FLT_NAN_OPX, R.FLT_NAN_TIME].foldl (fun s x => s.setR x 0 j) s
  let s := s.setKvPages (s.serve.pages.filter (fun x => !s.inKvPool j (x.1 / 512)))
  let s := (List.range 19).foldl (fun s c => s.setR R.SRV_FL 0 j c) s
  s.setR R.SRV_KV_POOL 0 j

/-- A frame that leaves a migration pool while a page of the job is promoted into it is a frame the job maps, and stays its own (R96). -/
def State.poolLeft (s : State) (j : Nat) : State :=
  (s.frames.mig.filter (fun m => m.job == j)).foldl (fun s m =>
    match m.frame with
    | some f => if s.inMigPool j f then s else { s with frames := { s.frames with basinOwner := mset s.frames.basinOwner f j } }
    | none => s) s

/-- The effects on jobs that a commit names. -/
def State.changeJob (s old : State) (j : Nat) : State :=
  if old.jobValid j && !s.jobValid j then s.jobInvalidated j
  else if !old.jobValid j && s.jobValid j then s.jobValidated j
  else s

/-- The aperture of a port whose job the commit made invalid or gave to another port (R496). -/
def State.changeAperture (s old : State) (p : Nat) : State :=
  let j := s.f F.GLB_APERTURE_JOB p
  if s.fb F.GLB_APERTURE_VALID p && (!s.jobValid j || s.f F.QE_JOB_CTRL_OWNER_PORT j != old.f F.QE_JOB_CTRL_OWNER_PORT j) then
    s.setF F.GLB_APERTURE_VALID 0 p
  else s

/-! ## Rings, groups, serving -/

/-- An output ring that the commit binds, or whose `PORT` or `BASE` it changes (R419, R502, R503). -/
def State.changeOutput (s old : State) (o : Nat) : State :=
  let base := changed old s R.SRV_OUT_BASE o
  let bound := s.fb F.SRV_OUT_CTRL_VALID o && !old.fb F.SRV_OUT_CTRL_VALID o
  if bound || (s.fb F.SRV_OUT_CTRL_VALID o && (base || s.f F.SRV_OUT_CTRL_PORT o != old.f F.SRV_OUT_CTRL_PORT o)) then
    let x := s.outRing o
    let s := s.setOutRing o { x with rseq := 0, used := 0, dead := x.dead && !base }
    (s.setR R.SRV_OUT_TAIL 0 o).setR R.SRV_OUT_HEAD 0 o
  else s

/-- A Meander group made valid: `RUN_ID` clears (R346). -/
def State.changeMeander (s old : State) (g : Nat) : State :=
  if s.fb F.MRE_G_CFG_VALID g && !old.fb F.MRE_G_CFG_VALID g then
    { s.setF F.MRE_G_STEPMAX_RUN_ID 0 g with ringSetups := merase s.ringSetups g }
  else s

/-- A routing layer that the commit changes: its drop counters clear (R372). -/
def State.changeLayer (s old : State) (j : Nat) : State :=
  if changed old s R.WSU_L_CFG j || changed old s R.WSU_L_PARAM j then s.setR R.WSU_L_DROPS 0 j else s

/-- An expert group made valid: it starts with no plan, and `BATCH` is 0 (R366). -/
def State.changeExperts (s old : State) (g : Nat) : State :=
  if s.fb F.WSU_G_CFG_VALID g && !old.fb F.WSU_G_CFG_VALID g then
    { s.setR R.WSU_G_STAT 0 g with wsu := { s.wsu with groups := merase s.wsu.groups g } }
  else s

/-- A collective group that the commit names: its members are copied, `LIST_CRC` is computed over them, and `SEQ` is 0 (R476, R490). -/
def State.changeCollective (s : State) (g : Nat) : State :=
  let chips := s.stagedMembers g
  let s := { s with coll := { s.coll with lists := mset s.coll.lists g chips } }
  let s := s.setR R.ALT_CG_STAT 0 g
  s.setF F.ALT_CG_STAT_LIST_CRC (crc32 (chips.flatMap (leBytes 2))).toNat g

/-- The feed ring of a binding bound (R403): it is zeroed and read from sequence 1. -/
def State.bindFeed (s : State) (m : Nat) : State :=
  let s := { s with serve := { s.serve with feed := mset s.serve.feed m 1 } }
  s.zero (frameAddr (s.f F.SRV_FEED_FIRST m)) (frameBytes * 2 ^ s.f F.SRV_FEED_FRAMES_LOG2 m)

/-- The mirror sequence restarts where the commit sets `EN` (R403). -/
def State.bindMirror (s old : State) (m : Nat) : State :=
  if s.fb F.SRV_MIRROR_EN m && !old.fb F.SRV_MIRROR_EN m then
    { s with serve := { s.serve with mirror := mset s.serve.mirror m 1 } }
  else s

/-- The hot set empties where its range changes (R118); slots keep what they hold. -/
def State.changeHot (s old : State) : State :=
  if changed old s R.TR_CCACHE_CFG then
    let refs : SMap CastRef := s.casts.refs.map (fun (x : Nat × CastRef) => (x.1, { x.2 with entry := 511 }))
    let s := { s with casts := { s.casts with refs := refs } }
    s.setHot []
  else s

/-! ## The partition (R30, R428, R441, R527, R567, R572, R574) -/

/-- A link whose `EN` the commit changes (R428): it drains to `OFF` from `UP`, goes `OFF` at once otherwise, and leaves `OFF` for `DARK`. -/
def State.changeLink (s old : State) (l : Nat) : State :=
  let on := s.fb F.ALT_LINK_CTRL_EN l
  if on == old.fb F.ALT_LINK_CTRL_EN l || !s.part.hasLink l then s
  else if on then ((s.setF F.ALT_LINK_STAT_ATTEMPTS 0 l).setLinkState l 1)
  else if s.linkState l = 6 then s.beginDrain l 0
  else if s.linkState l = 7 then s.setLink l { s.link l with drainTo := 0 }
  else s.setLinkState l 0

/-- The links that a named port holds are no longer kept out (R527). -/
def State.readmitLinks (s : State) (t : Tx) : State :=
  let named := (t.objects [R.ALT_PORT_CFG]).foldl (fun m p => m ||| s.f F.ALT_PORT_CFG_LINKS p) 0
  { s with faults := { s.faults with outLinks := s.faults.outLinks.filter (fun l => !named.testBit l) } }

/-- Whether the identity that the peer of an Altur link gave last agrees with the configuration (R430, R452). -/
def State.peerAgrees (s : State) (l : Nat) : Bool :=
  s.fb F.ALT_MESH_VALID && match s.portOf l with
    | some p => s.fb F.ALT_LINK_PEER_PEER_CHIP_VALID l && s.f F.ALT_PORT_CFG_PEER_CHIP p == s.f F.ALT_LINK_PEER_PEER_CHIP l
    | none => true

/-- `MISMATCH` of an Altur link that is `UP`, after a commit (R430, R533). DEDUCED: a link that came up under no port, or under another
one, is held out of a port whose peer it does not have, by the identity it got last. -/
def State.recheckLink (s : State) (l : Nat) : State :=
  if s.linkState l = 6 ∧ l < 18 then s.setF F.ALT_LINK_STAT_MISMATCH (bit !(s.peerAgrees l)) l else s

/-- Work with a message outstanding to a chip that has left the fence ends `FENCED` (R574). -/
def State.fenceOut (s old : State) : State :=
  let left := fun (x : Nat) => old.inFence x && !s.inFence x
  let s := (s.net.requests.filter (fun y => y.plainLink.isNone && left y.msg.dst)).foldl
    (fun s y => if s.net.requests.any (fun z => z.xid == y.xid) then s.failRequest y .fenced else s) s
  let s := s.ringRuns.foldl (fun s y =>
    if left (s.f F.MRE_G_NBR_SUCC_CHIP y.1) || left (s.f F.MRE_G_NBR_PRED_CHIP y.1) then s.ringLocal y.1 y.2 .fenced 0 else s) s
  s.coll.entries.foldl (fun s y =>
    if y.2.flows.any (fun f => f.open_ != 0 && left (s.collChip y.2.group f.dest)) then s.failColl y.1 y.2 .fenced else s) s

/-- A measurement register extended with a digest (R567). -/
def State.extendMeas (s : State) (r : Nat) (d : List Byte) : State :=
  let m := (List.range 8).flatMap (fun w => leBytes 8 (s.r R.SEC_MEAS r w).toNat)
  let x := shake256 (m ++ d) 64
  (List.range 8).foldl (fun s w => s.setR R.SEC_MEAS (leWord (slice x (8 * w) 8)) r w) s

/-- The measurement of the committed partition (R567). -/
def State.measurePartition (s : State) : State :=
  let ws := (List.range 64).map (fun w => s.r R.SEC_FENCE w) ++ [s.r R.ALT_MESH, s.r R.ALT_EXT] ++
    (List.range 8).map (fun p => s.r R.ALT_PORT_CFG p) ++ [s.r R.FLT_PENDANT]
  s.extendMeas 2 (shake256 (wordsBytes ws) 64)

/-- The bytes of "FZ2 KEY WRAP". -/
def keyWrap : List Byte := ascii ['F', 'Z', '2', ' ', 'K', 'E', 'Y', ' ', 'W', 'R', 'A', 'P']

/-- A key rotation (R572): the wrapped key is unwrapped with the session's key, burnt into the role's next slot, which becomes active, and
measured (R567). -/
def State.rotateKey (s : State) (t : Tx) : State :=
  match t.opener with
  | .queue _ => s
  | .session o =>
    if !t.names [R.SEC_KEYNEW_CTRL] || !s.fb F.SEC_KEYNEW_CTRL_BURN then s
    else
      let role := s.f F.SEC_KEYNEW_CTRL_ROLE
      let slot := nth s.fuses.slotsUsed role 0
      let k := match (s.role o).session with
        | some y => y.key
        | none => []
      let tag := [BitVec.ofNat 8 role, BitVec.ofNat 8 slot]
      let wrapped := wordsBytes ((List.range 4).map (fun w => s.r R.SEC_KEYNEW w))
      let key := (wrapped.zip (kmac256 k tag keyWrap 32)).map (fun x => x.1 ^^^ x.2)
      let f := s.fuses
      let s := { s with fuses := { f with
          roleKeys := setNth f.roleKeys role (setNth (nth f.roleKeys role [] ++ List.replicate 8 []) slot key |>.take 8)
          activeSlot := setNth f.activeSlot role slot
          slotsUsed := setNth f.slotsUsed role (slot + 1) } }
      s.extendMeas 3 (shake256 tag 64)

/-- Whether the commit of a transaction burns a key slot (R572). -/
def State.burnsKey (s : State) (t : Tx) : Bool :=
  match t.opener with
  | .queue _ => false
  | .session _ => t.scope == .partition && t.names [R.SEC_KEYNEW_CTRL] && (s.merged t.staged).fb F.SEC_KEYNEW_CTRL_BURN

/-- A burn that fails its read-back consumes its slot (R572): the next one is free, and the active slot stays. -/
def State.consumeSlot (s : State) (t : Tx) : State :=
  let role := (s.merged t.staged).f F.SEC_KEYNEW_CTRL_ROLE
  { s with fuses := { s.fuses with slotsUsed := setNth s.fuses.slotsUsed role (nth s.fuses.slotsUsed role 0 + 1) } }

/-- The key-rotation registers hold nothing after a commit. -/
def State.dropKey (s : State) : State :=
  ((List.range 4).foldl (fun s w => s.setR R.SEC_KEYNEW 0 w) s).setR R.SEC_KEYNEW_CTRL 0

/-- What a `PARTITION` ordering point does beside its registers. -/
def State.changePartition (s old : State) (t : Tx) : State :=
  let s := if t.names [R.GLB_TIME_ADJ] then s.setF F.GLB_TIME_STATUS_ADJ_REMAIN (s.f F.GLB_TIME_ADJ_OFFSET) else s
  let s := (t.objects [R.ALT_LINK_CTRL]).foldl (fun s l => s.changeLink old l) s
  let s := ((List.range 18).foldl (fun s l => s.recheckLink l) (s.readmitLinks t)).refreshPorts.releaseRecals
  let s := s.fenceOut old
  (s.rotateKey t).dropKey.measurePartition

/-! ## The ordering point -/

/-- The staged casts applied in order, each switch with its deferred preload (R52, R114). -/
def State.commitCasts : List StagedCast → State → Except AccErr State
  | [], s => .ok s
  | c :: cs, s =>
    if c.evict then commitCasts cs (s.applyStaged [c])
    else match s.switchCast c.first c.count with
      | none => commitCasts cs s
      | some k => match s.latePreload c.first k with
        | .error e => .error e
        | .ok s => commitCasts cs (s.swapSlots c.first c.count k)

/-- Every staged register value applied at one point, with its effects. -/
def State.commitRegs (s : State) (t : Tx) : State :=
  let n := s.merged t.staged
  let s1 := (List.range 32).foldl (fun x d => if s.daleOwner d = n.daleOwner d then x else x.moveDale d) s
  let s2 := (t.objects [R.QE_Q_CTRL, R.QE_Q_RING]).foldl (fun x q => x.leaveQueue n t.handle q) s1
  let s3 := (t.objects [R.GLB_CMP_CTRL]).foldl (fun x i =>
    if n.fb F.GLB_CMP_CTRL_OWNED i && s.fb F.GLB_CMP_CTRL_OWNED i && n.f F.GLB_CMP_CTRL_OWNER_JOB i == s.f F.GLB_CMP_CTRL_OWNER_JOB i
    then x else x.setF F.GLB_CMP_CTRL_EN 0 i) s2
  let x := s3.merged t.staged
  let x := (t.objects [R.QE_JOB_CTRL]).foldl (fun x j => x.changeJob s j) x
  let x := (t.objects [R.TR_MIG_POOL]).foldl (fun x j => x.poolLeft j) x
  let x := (x.changeAperture s 0).changeAperture s 1
  let x := (t.objects [R.SRV_OUT_BASE, R.SRV_OUT_CTRL]).foldl (fun x o => x.changeOutput s o) x
  let x := (t.objects [R.MRE_G_CFG]).foldl (fun x g => x.changeMeander s g) x
  let x := (t.objects [R.WSU_G_CFG]).foldl (fun x g => x.changeExperts s g) x
  let x := (t.objects [R.WSU_L_CFG, R.WSU_L_PARAM]).foldl (fun x j => x.changeLayer s j) x
  let x := (t.objects [R.ALT_CG_CFG, R.ALT_CG_GEOM, R.ALT_CG_LIST]).foldl (fun x g => x.changeCollective g) x
  let x := (t.objects [R.SRV_FEED]).foldl (fun x m => x.bindFeed m) x
  let x := (t.objects [R.SRV_MIRROR]).foldl (fun x m => x.bindMirror s m) x
  let x := x.changeHot s
  if t.scope = .partition then x.changePartition s t else x

/-- The state after the ordering point of a transaction, which is still open in it. -/
def State.ordered (s : State) (t : Tx) : Except AccErr State := State.commitCasts t.casts (s.commitRegs t)

end Sys2Proof.Machine
end

