-- ==== Sys2Proof/Machine/Commit.lean ====
section
/-! DEFINITION. Commits (R68 to R70), the commands `SET` and `GET` (R50, R67), and a satisfied wait (R56). -/

namespace Sys2Proof.Machine

/-! ## SET and GET (R49, R50) -/

/-- The BAR0 offset that `OP0` of a `SET` or `GET` names. -/
def Rec.barOffset (r : Rec) : Nat := 8 * bitsOf r.w3 3 23

/-- The bits of a register that a `SET` with `TX` zero may not touch: `RWL` fields, and the key-rotation registers. -/
def lockedBits (t : RegInfo) : W64 :=
  if t.reg = R.SEC_KEYNEW ∨ t.reg = R.SEC_KEYNEW_CTRL then BitVec.allOnes 64 else maskOf (· == .rwl) t.fields

/-- `SET` starts: at once with `TX` zero, staged otherwise. -/
def State.runSet (s : State) (q seq : Nat) (r : Rec) : State :=
  let off := r.barOffset
  if r.tx = 0 then
    match regAt? off with
    | none => s.finishFlight q seq .badCommand 0 (badField 3 3)
    | some (t, i, _) =>
      if r.w5 &&& lockedBits t ≠ 0 ∨ !s.mayWrite (.set q) off t.reg i then s.finishFlight q seq .denied
      else if r.w5 = 0 then s.finishFlight q seq .ok
      else match s.applyWrite (.set q) off r.w4 r.w5 with
        | none => s.finishFlight q seq .denied
        | some s => s.finishFlight q seq .ok
  else match s.txFor q r with
    | .error (st, d) => s.finishFlight q seq st 0 d
    | .ok t => match s.stageSet t off r.w4 r.w5 with
      | .error st => s.finishFlight q seq st 0 (if st = .badCommand then badField 3 3 else 0)
      | .ok s => s.finishFlight q seq .ok

/-- Whether the unit of the register that a `SET` names is present, and every link that it names in the `LINKS` of a port (R6). -/
def State.setNamesPresent (s : State) (r : Rec) : Bool :=
  match regAt? r.barOffset with
  | none => true
  | some (t, i, _) =>
    let links := bitsOf (r.w4 &&& r.w5) F.ALT_PORT_CFG_LINKS.lo F.ALT_PORT_CFG_LINKS.width
    s.regPresent r.barOffset t.reg i && (t.reg != R.ALT_PORT_CFG || (maskList links 22).all s.part.hasLink)

/-- The object that a register belongs to: its kind with its index (a queue, a job, a binding, an output ring, a sampling set, a
comparator, a port, a link, a group), or the register itself. -/
def regObject (x : Reg) (i j : Nat) : Nat × Nat × Nat :=
  let kinds : List (List Reg) :=
    [R.QE_Q_CQ :: queueRegs, jobRegs, bindRegs, ringRegs, sampRegs, [R.GLB_CMP_TGT, R.GLB_CMP_CTRL], [R.ALT_PORT_CFG, R.ALT_PORT_OWN],
     [R.ALT_LINK_CTRL, R.ALT_LINK_OPT], [R.MRE_G_CFG, R.MRE_G_NBR, R.MRE_G_SEQ, R.MRE_G_LIMIT],
     [R.WSU_G_CFG, R.WSU_G_RECV, R.WSU_G_RET, R.WSU_G_CHIPS], [R.WSU_L_CFG, R.WSU_L_PARAM], [R.ALT_CG_CFG, R.ALT_CG_GEOM, R.ALT_CG_LIST],
     [R.ALT_RM_WIN_BASE, R.ALT_RM_WIN_CTRL]]
  match kinds.findIdx? (fun l => l.contains x) with
  | some k => (k, i, 0)
  | none => (kinds.length + x.base, i, j)

/-- Whether a commit changes a register of the object that a `SET` or `GET` with `TX` zero names (R68). -/
def State.setTouches (s : State) (_ : Nat) (r : Rec) (t : Tx) : Bool :=
  r.tx == 0 && match regAt? r.barOffset with
  | none => false
  | some (x, i, j) => t.staged.any fun y =>
      !(s.stagedChange y).isEmpty && (regAt? y.off).any (fun z => regObject z.1.reg z.2.1 z.2.2 == regObject x.reg i j)

/-- `SET` (R49, R50): an offset at which no register of the full part lies fails step 3. -/
def specSet : CmdSpec :=
  { CmdSpec.plain [] State.runSet with
    takesTx := true
    present := State.setNamesPresent
    touches := State.setTouches
    encoding := fun _ _ r =>
      match reservedField [(3, 0, 3), (3, 26, 38), (6, 0, 64)] r with
      | some d => some d
      | none => if (regAt? r.barOffset).isNone then some (badField 3 3) else none }

/-- Whether a record is a `SET` of `TR_CCACHE_UNPIN` with `TX` zero (R118). -/
def isUnpin (r : Rec) : Bool := r.opcode == 0x40 && r.tx == 0 && r.barOffset == R.TR_CCACHE_UNPIN.at

/-- `SET` (R50). -/
def execSet (q : QId) (s : State) : Host.Outcome State Fault Refusal :=
  .next (s.queueCommand specSet (fun r => r.opcode == 0x40 && !isUnpin r) q.val)

/-- `TR_CCACHE_UNPIN` (R118): a `SET` that releases a pin. -/
def execTrCcacheUnpin (q : QId) (s : State) : Host.Outcome State Fault Refusal :=
  .next (s.queueCommand specSet isUnpin q.val)

/-- A transaction is over. -/
def State.dropTx (s : State) (t : Tx) : State := { s with txs := s.txs.filter (fun u => u.handle != t.handle) }

/-- The registers as they will read after a transaction commits (R50, R67). -/
def State.afterCommit (s : State) (t : Tx) : State :=
  (match s.ordered t with
  | .ok s => s
  | .error _ => s.commitRegs t).dropTx t

/-- `GET` starts: with a `TX`, the value as it would read after that transaction commits. -/
def State.runGet (s : State) (q seq : Nat) (r : Rec) : State :=
  if r.tx = 0 then (s.readEffect false r.barOffset).finishFlight q seq .ok (s.readReg r.barOffset)
  else match s.ownTx q r with
    | none => s.finishFlight q seq .txAborted
    | some t => s.finishFlight q seq .ok ((s.afterCommit t).readReg r.barOffset)

/-- `GET` (R49, R50). -/
def specGet : CmdSpec :=
  { CmdSpec.plain [(3, 0, 3), (3, 26, 38), (4, 0, 64), (5, 0, 64), (6, 0, 64)] State.runGet with takesTx := true, touches := State.setTouches }

/-- `GET` (R50). -/
def execGet (q : QId) (s : State) : Host.Outcome State Fault Refusal :=
  .next (s.queueCommand specGet (fun r => r.opcode == 0x41) q.val)

/-! ## TX_COMMIT (R68) -/

/-- The first phase: a failed validation rolls back and gives its status; otherwise the commit waits for quiescence. -/
def State.beginCommit (s : State) (t : Tx) (seq : Nat) : Except (State × Status × W64) State :=
  match s.validate t with
  | some (st, d) => .error (s.rollback t.handle st d, st, d)
  | none => .ok (s.setTx { t with committing := true, since := s.now, commitSeq := seq })

/-- `TX_COMMIT` starts. -/
def State.runTxCommit (s : State) (q seq : Nat) (r : Rec) : State :=
  match s.txFor q r with
  | .error (st, d) => s.finishFlight q seq st 0 d
  | .ok t => match s.beginCommit t seq with
    | .error (s, st, d) => s.finishFlight q seq st 0 d
    | .ok s => s

/-- `TX_COMMIT` (R49, R68). -/
def specTxCommit : CmdSpec :=
  { CmdSpec.plain [(3, 0, 64), (4, 0, 64), (5, 0, 64), (6, 0, 64)] State.runTxCommit with takesTx := true }

/-- `TX_COMMIT` (R68). -/
def execTxCommit (q : QId) (s : State) : Host.Outcome State Fault Refusal :=
  .next (s.queueCommand specTxCommit (fun r => r.opcode == 0x05) q.val)

/-! ## Quiescence (R68) -/

/-- What the opcode of a record brings to R47; `NOP` for the opcodes that are none of the table. -/
def specOf (r : Rec) : CmdSpec :=
  match r.opcode with
  | 0x02 => specFenceSignal | 0x03 => specFenceWait | 0x04 => specTxBegin | 0x05 => specTxCommit | 0x06 => specTxAbort
  | 0x08 => specCastStage | 0x09 => specCastSwitch | 0x0A => specCastRun | 0x0B => specCastEvict
  | 0x10 => specMove | 0x11 => specFill | 0x12 => specMap | 0x14 => specCoreRun
  | 0x20 => specColl | 0x28 => specRingRun | 0x30 => specRoute
  | 0x38 => specReqAdmit | 0x39 => specReqCancel | 0x3A => specServeStart | 0x3B => specReqQuery
  | 0x40 => specSet | 0x41 => specGet
  | _ => specNop

/-- Whether a record in flight keeps a commit waiting. The commit's own record does not; a `SERVE_START` only where its queue changes,
since its step in flight stands for it. -/
def State.flightWaits (s : State) (t : Tx) (q : Nat) (x : Flight) : Bool :=
  if t.opener = .queue q ∧ x.seq = t.commitSeq then false
  else if x.cmd.opcode = 0x3A then s.txTouchesQueue t q
  else s.recTouches (specOf x.cmd) q x.cmd t

/-- Whether a commit changes the links or the far end of a logical port (R439). -/
def State.txPort (s : State) (t : Tx) (p : Nat) : Bool := s.txChanges t R.ALT_PORT_CFG p

/-- Quiescence (R68): every affected unit has come to rest. A serving step in flight counts (R385), messages of a changed port that are
not acknowledged (R439), pending collectives while a port changes (R485), and copies into a migration pool that changes. -/
def State.quiet (s : State) (t : Tx) : Bool :=
  s.queues.all (fun x => x.2.flights.all (fun y => !s.flightWaits t x.1 y)) &&
  s.serve.runs.all (fun x => (x.2.items.isEmpty && !x.2.casting) || !s.txTouchesBinding t x.1) &&
  (List.range 8).all (fun p => !s.txPort t p || ((s.lport p).txq.isEmpty && s.coll.entries.isEmpty)) &&
  s.frames.mig.all (fun m => m.copying == 0 || !s.txChanges t R.TR_MIG_POOL m.job)

/-! ## The end of a commit -/

/-- A commit completes after its ordering point. Where it has unbound its own queue, no completion ring is left: its record leaves
with its signal alone. DESIGN CHOICE: the record's own signal is given on behalf of the queue's job after the commit, also where the
commit has rebound its queue to another job; the manual does not say which job is meant there. -/
def State.completeCommit (s : State) (t : Tx) : State :=
  let s := s.dropTx t
  match t.opener with
  | .session r => s.sessionAnswer r t.tag.toNat t.commitSeq 0x14 Status.ok.code []
  | .queue q =>
    if s.bound q then s.finishFlight q t.commitSeq .ok
    else match s.flight q t.commitSeq with
      | none => s
      | some x =>
        (s.setQueue q { s.queue q with flights := (s.queue q).flights.filter (fun y => y.seq != t.commitSeq) }).recordSignal q x.cmd .ok

/-- The ordering point of a transaction that is quiet (R68, R69): it validates again against the state that earlier ordering points left; a
translation fault of a deferred preload rolls it back `DENIED`, and so does a key burn that fails its read-back (R572), which consumes its
slot. -/
def State.orderTx (s : State) (t : Tx) (readBackFails : Bool) : State :=
  match s.validate t with
  | some (st, d) => s.rollback t.handle st d
  | none =>
    if readBackFails && s.burnsKey t then (s.consumeSlot t).rollback t.handle .denied
    else match s.ordered t with
      | .error e => (s.accFault t.job e none).rollback t.handle .denied (s.accDetail e 3)
      | .ok s => s.completeCommit t

/-- The committing transaction with a handle. -/
def State.committingTx (s : State) (h : Nat) : Option Tx := s.txs.find? (fun t => t.handle == h && t.committing)

/-- `ORDERING_POINT` (R68): quiescence is reached. Whether a key burn of the commit fails its read-back (R572) comes with the event. -/
def execOrderingPoint (h : BitVec 16) (readBackFails : Bool) (s : State) : Host.Outcome State Fault Refusal :=
  .next (match s.committingTx h.toNat with
    | none => s
    | some t => if s.quiet t then s.orderTx t readBackFails else s)

/-- `COMMIT_TIMEOUT` (R70): quiescence is not reached within the timeout; reached in the same tick, the commit proceeds. -/
def execCommitTimeout (h : BitVec 16) (s : State) : Host.Outcome State Fault Refusal :=
  .next (match s.committingTx h.toNat with
    | none => s
    | some t =>
      if s.now < t.since + t.timeout then s
      else if s.quiet t then s.orderTx t false else s.rollback t.handle .timeout)

/-! ## WAIT_SATISFIED (R56) -/

/-- The head record's wait is over: `FENCED` where the fence carries an error mark, otherwise the steps that follow. -/
def State.waitOver (s : State) (q f : Nat) (r : Rec) : State :=
  if s.fenceErr f then s.headDone q r .fenced
  else match (s.queue q).head with
    | .waitFence _ => s.opWait (specOf r) q r
    | _ => s.startHead (specOf r) q r

/-- `WAIT_SATISFIED` (R56): the fence that the head record waits for has reached the value. -/
def execWaitSatisfied (q : QId) (s : State) : Host.Outcome State Fault Refusal :=
  .next (match s.headRec q.val, s.headWait q.val with
    | some r, some (f, v, _) => if s.queueOpen q.val && s.waitMet f v then s.waitOver q.val f r else s
    | _, _ => s)

end Sys2Proof.Machine
end

