-- ==== Sys2Proof/Machine/Sessions.lean ====
section
/-! DEFINITION. Management sessions (R505 to R509, R569 to R571): the limits of a transport, the checks that every request passes, and
how a session begins, is answered and ends. -/

namespace Sys2Proof.Machine

/-! ## Sessions that end (R508, R570, R571) -/

/-- The session of a role ends (R508): its open transaction rolls back. -/
def State.endSession (s : State) (r : Nat) : State :=
  let s := s.setRole r { s.role r with session := none }
  (s.txs.filter (fun t => t.opener = .session r)).foldl (fun s t => s.rollback t.handle .txAborted) s

/-- The lock of a role (R571): it lasts 60 × 2^L s, where L is at most 10. -/
def State.lockRole (s : State) (r : Nat) : State :=
  let until_ := s.now + 60000000000 * 2 ^ min 10 (s.f F.SEC_ROLE_LEVEL r)
  let s := (s.setF F.SEC_ROLE_LOCKED 1 r).count F.SEC_ROLE_LOCKOUTS r
  s.setR R.SEC_ROLE_TIME (BitVec.ofNat 64 until_) r

/-- One authentication failure of a role (R571): the fifth in a row locks it. `FAILS` shows at most 4 (R578). -/
def State.authFailure (s : State) (r : Nat) : State :=
  if s.fb F.SEC_ROLE_LOCKED r then s
  else if s.f F.SEC_ROLE_FAILS r < 4 then s.setF F.SEC_ROLE_FAILS (s.f F.SEC_ROLE_FAILS r + 1) r
  else s.lockRole r

/-- Whether the lock of a role is over. -/
def State.lockOver (s : State) (r : Nat) : Bool :=
  s.fb F.SEC_ROLE_LOCKED r && decide ((s.r R.SEC_ROLE_TIME r).toNat ≤ s.now)

/-- The lock of a role ends (R571): the failure count returns to 0 and L grows by one, to 10 at most. -/
def State.unlockRole (s : State) (r : Nat) : State :=
  let s := (s.setF F.SEC_ROLE_LOCKED 0 r).setF F.SEC_ROLE_FAILS 0 r
  (s.setF F.SEC_ROLE_LEVEL (min 10 (s.f F.SEC_ROLE_LEVEL r + 1)) r).setR R.SEC_ROLE_TIME 0 r

/-- Whether the pending nonce of a role has lapsed: it is kept for 10 s (R569). -/
def State.nonceOver (s : State) (r : Nat) : Bool :=
  match (s.role r).nonce with
  | some (_, t) => decide (t + 10000000000 ≤ s.now)
  | none => false

/-- A pending nonce dropped. -/
def State.dropNonce (s : State) (r : Nat) : State := s.setRole r { s.role r with nonce := none }

/-- Whether a session has had no valid message for 30 s (R508). -/
def Session.idle (y : Session) (now : Nat) : Bool := decide (y.lastValid + 30000000000 ≤ now)

/-- Whether a session has reached its expiry tick (R570). -/
def Session.expired (y : Session) (now : Nat) : Bool := decide (y.expiry ≤ now)

/-- What is due for a role by now: the end of its session, of its lock and of its nonce. -/
def State.settleRole (s : State) (r : Nat) : State :=
  let s := if (s.role r).session.any (fun y => y.expired s.now || y.idle s.now) then s.endSession r else s
  let s := if s.lockOver r then s.unlockRole r else s
  if s.nonceOver r then s.dropNonce r else s

/-- `SESSION_TIMEOUT` (R508). -/
def execSessionTimeout (r : RoleId) (s : State) : Host.Outcome State Fault Refusal :=
  .next (match (s.role r.val).session with
    | some y => if y.idle s.now then s.endSession r.val else s
    | none => s)

/-- `SESSION_EXPIRY` (R570). -/
def execSessionExpiry (r : RoleId) (s : State) : Host.Outcome State Fault Refusal :=
  .next (match (s.role r.val).session with
    | some y => if y.expired s.now then s.endSession r.val else s
    | none => s)

/-- `NONCE_EXPIRY` (R569). -/
def execNonceExpiry (r : RoleId) (s : State) : Host.Outcome State Fault Refusal :=
  .next (if s.nonceOver r.val then s.dropNonce r.val else s)

/-- `LOCKOUT_END` (R571). -/
def execLockoutEnd (r : RoleId) (s : State) : Host.Outcome State Fault Refusal :=
  .next (if s.lockOver r.val then s.unlockRole r.val else s)

/-! ## The limit of a transport (R509) -/

/-- The allowance of a transport at this tick: 500 messages a second, so 2,000,000 ticks each, with a burst of 64. -/
def State.allowance (s : State) (t : Nat) : Nat :=
  min 128000000 (nth s.mgmt.allowance t 0 + (s.now - nth s.mgmt.refilled t 0))

/-- One request message taken from the allowance of a transport; `none` where the limit is reached. -/
def State.takeAllowance (s : State) (t : Nat) : Option State :=
  let a := s.allowance t
  if a < 2000000 then none
  else some { s with mgmt := { s.mgmt with
    allowance := setNth s.mgmt.allowance t (a - 2000000), refilled := setNth s.mgmt.refilled t s.now } }

/-! ## The checks of a request (R506, R507, R509, R566, R570) -/

/-- The open session with a number, with its role. -/
def State.sessionOf (s : State) (sid : Nat) : Option (Nat × Session) :=
  (List.range 3).findSome? fun r =>
    match (s.role r).session with
    | some y => if y.sid = sid then some (r, y) else none
    | none => none

/-- What the checks of a session message lead to: no answer, an answer outside any session, or a session. -/
inductive Gate where
  | drop
  | outside
  | inside (r : Nat) (y : Session)
  deriving DecidableEq, Repr

/-- A message whose `MAC` fails (R570): the eighth in a row ends the session and counts as an authentication failure. -/
def State.macFailure (s : State) (r : Nat) (y : Session) : State :=
  let s := s.count F.SEC_SESS_MAC_FAIL r
  if 7 ≤ y.macRun then (s.endSession r).authFailure r
  else s.setRole r { s.role r with session := some { y with macRun := y.macRun + 1 } }

/-- A message that names a session (R506, R509, R569, R570). Expiry and timeout are decided first; a message on another transport fails
its `MAC`; a sequence number that is not greater than the last accepted one is dropped. -/
def State.gate (s : State) (h : MgmtHdr) (op : Nat) (payload : List Byte) : State × Gate :=
  match s.sessionOf h.session.toNat with
  | none => (s, .outside)
  | some (r, y) =>
    if y.expired s.now || y.idle s.now then (s.endSession r, .outside)
    else if h.transport.val ≠ y.transport ∨
        h.mac ≠ sessionMac y.key (mgmtBody op 0 h.tag.toNat h.session.toNat h.mseq.toNat 0 payload) then (s.macFailure r y, .drop)
    else if h.mseq.toNat ≤ y.lastMseq then
      (s.setRole r { s.role r with session := some { y with macRun := 0 } }, .drop)
    else
      let y := { y with macRun := 0, lastMseq := h.mseq.toNat, lastValid := s.now }
      (s.setRole r { s.role r with session := some y }, .inside r y)

/-- An answer to a request: its status and payload, or none from here. -/
abbrev Answer := Option (Status × List Byte)

/-- An answer outside any session (R506): `SESSION`, `MSEQ` and `MAC` are zero. -/
def State.answerOutside (s : State) (h : MgmtHdr) (op : Nat) (x : Answer) : State :=
  match x with
  | none => s
  | some (st, bs) => s.mgmtSend h.transport.val none (mgmtBody op 1 h.tag.toNat 0 0 st.code bs)

/-- An answer in a session, which may have ended with the request it answers. -/
def State.answerInside (s : State) (h : MgmtHdr) (y : Session) (op : Nat) (x : Answer) : State :=
  match x with
  | none => s
  | some (st, bs) => s.mgmtSend y.transport (some y.key) (mgmtBody op 1 h.tag.toNat y.sid h.mseq.toNat st.code bs)

/-- Whether the device takes messages of a transport at all: in the ready and recovery modes, on a port that is not lost, and over I3C
alone in recovery mode (R501, R566). -/
def State.transportOpen (s : State) (t : Nat) : Bool :=
  let mode := s.f F.SEC_BOOT_STAT_MODE
  (mode == 1 || (mode == 2 && t == 0)) && (t == 0 || !s.portLost (t - 1))

/-- Whether recovery mode answers an opcode (R566). -/
def recoveryOpcode (op : Nat) : Bool := [0x01, 0x02, 0x03, 0x04, 0x05, 0x22, 0x30, 0x31].contains op

/-- One request (R506, R507, R509). `need` is the code of the least role that may send it, `none` where no session is needed; `f` says
what it does, given the role in whose session it came. -/
def State.request (s : State) (h : MgmtHdr) (op : Nat) (need : Option Nat) (payload : List Byte)
    (f : State → Option Nat → State × Answer) : State :=
  let t := h.transport.val
  let barred := s.f F.SEC_BOOT_STAT_MODE == 2 && !recoveryOpcode op
  if !s.transportOpen t then s
  else match s.takeAllowance t with
    | none => s.count F.GLB_BOARD_MGMT_DROPS
    | some s =>
      if h.session = 0 then
        if barred || need.isSome then s.answerOutside h op (some (.denied, []))
        else let x := f s none; x.1.answerOutside h op x.2
      else match s.gate h op payload with
        | (s, .drop) => s
        | (s, .outside) => s.answerOutside h op (some (.denied, []))
        | (s, .inside r y) =>
          if barred || decide (need.getD 2 < r) then s.answerInside h y op (some (.denied, []))
          else let x := f s (some r); x.1.answerInside h y op x.2

/-- The codes of the roles (R507, R569): Owner, Operator, Observer. DEDUCED: from the order of the fields of R576. -/
def ownerRole : Nat := 0
/-- The Operator's role code. -/
def operatorRole : Nat := 1
/-- The Observer's role code. -/
def observerRole : Nat := 2

/-! ## Opening and closing a session (R508, R569) -/

/-- The bytes `hdr` of R569. -/
def authHdr (h : MgmtHdr) (role : Nat) (life : List Byte) : List Byte :=
  [BitVec.ofNat 8 role, BitVec.ofNat 8 h.transport.val, h.eid, 0#8] ++ life

/-- The lifetime in seconds that a field gives (R569): 0 gives 3,600, and 60 to 86,400 stand; `none` outside. -/
def lifetimeOf (n : Nat) : Option Nat := if n = 0 then some 3600 else if 60 ≤ n ∧ n ≤ 86400 then some n else none

/-- The active key of a role (R561). -/
def State.roleKey (s : State) (r : Nat) : List Byte := nth (nth s.fuses.roleKeys r []) (nth s.fuses.activeSlot r 0) []

/-- The answer of R569. -/
def sessionProof (key nonce hdr call : List Byte) : List Byte :=
  kmac256 key (nonce ++ hdr ++ call) (ascii ['F', 'Z', '2', ' ', 'S', 'E', 'S', 'S', 'I', 'O', 'N', ' ', 'A', 'U', 'T', 'H']) 32

/-- The confirmation of R569. -/
def sessionConfirm (key nonce call : List Byte) (sid : Nat) : List Byte :=
  kmac256 key (call ++ nonce ++ leBytes 4 sid)
    (ascii ['F', 'Z', '2', ' ', 'S', 'E', 'S', 'S', 'I', 'O', 'N', ' ', 'C', 'O', 'N', 'F', 'I', 'R', 'M']) 32

/-- The session key of R569. -/
def sessionKey (key nonce call : List Byte) (sid : Nat) : List Byte :=
  kmac256 key (nonce ++ call ++ leBytes 4 sid) (ascii ['F', 'Z', '2', ' ', 'S', 'E', 'S', 'S', 'I', 'O', 'N', ' ', 'K', 'E', 'Y']) 32

/-- The number of the next session: one more, wrapping at 2^32 and skipping 0 (R569). -/
def nextSid (n : Nat) : Nat := if n = 2 ^ 32 - 1 then 1 else n + 1

/-- `SESSION_OPEN` for a role (R508, R569, R571): `DENIED` while locked, `CONFLICT` where a session is open, otherwise a nonce. -/
def State.openSession (s : State) (r : Nat) : State × Answer :=
  if s.fb F.SEC_ROLE_LOCKED r then (s, some (.denied, []))
  else if (s.role r).session.isSome then (s, some (.conflict, []))
  else
    let nonce := shake256 (leBytes 32 s.free) 32
    let s := s.drawn
    (s.setRole r { s.role r with nonce := some (nonce, s.now) }, some (.ok, nonce))

/-- `SESSION_OPEN` (R507, R569). -/
def execSessionOpen (h : MgmtHdr) (payload : List Byte) (s : State) : Host.Outcome State Fault Refusal :=
  .next (s.request h 0x02 none payload fun s _ =>
    let r := (nth payload 0 0).toNat
    if payload.length < 8 ∨ 2 < r ∨ lifetimeOf (leNat (slice payload 4 4)) = none then (s, some (.badCommand, []))
    else (s.settleRole r).openSession r)

/-- A session opened by a right answer (R569, R571): both failure counts return to 0, and the response carries the `MAC` of the new
session. -/
def State.startSession (s : State) (h : MgmtHdr) (r life : Nat) (nonce call : List Byte) : State :=
  let sid := nextSid s.mgmt.lastSid
  let key := s.roleKey r
  let expiry := s.now + life * 1000000000
  let y : Session := { sid := sid, key := sessionKey key nonce call sid, transport := h.transport.val, eid := h.eid, lastMseq := 0
                       lastValid := s.now, expiry := expiry, macRun := 0 }
  let s := s.setRole r { session := some y, nonce := none }
  let s := { s with mgmt := { s.mgmt with lastSid := sid } }
  let s := ((s.setF F.SEC_ROLE_FAILS 0 r).setF F.SEC_ROLE_LEVEL 0 r).setF F.SEC_SESS_SESSION sid r
  s.sessionAnswer r h.tag.toNat h.mseq.toNat 0x03 Status.ok.code
    (leBytes 4 sid ++ leBytes 4 0 ++ leBytes 8 expiry ++ sessionConfirm key nonce call sid)

/-- `SESSION_AUTH` for a role (R569, R571): it consumes the pending nonce. -/
def State.authSession (s : State) (h : MgmtHdr) (r : Nat) (payload : List Byte) : State × Answer :=
  if (s.role r).session.isSome then (s, some (.conflict, []))
  else match (s.role r).nonce with
    | none => (s, some (.denied, []))
    | some (nonce, _) =>
      let s := s.dropNonce r
      let life := slice payload 4 4
      let call := slice payload 8 32
      match lifetimeOf (leNat life) with
      | none => (s, some (.badCommand, []))
      | some n =>
        if slice payload 40 32 = sessionProof (s.roleKey r) nonce (authHdr h r life) call then (s.startSession h r n nonce call, none)
        else (s.authFailure r, some (.denied, []))

/-- `SESSION_AUTH` (R507, R569). -/
def execSessionAuth (h : MgmtHdr) (payload : List Byte) (s : State) : Host.Outcome State Fault Refusal :=
  .next (s.request h 0x03 none payload fun s _ =>
    let r := (nth payload 0 0).toNat
    if payload.length < 72 ∨ 2 < r then (s, some (.badCommand, []))
    else (s.settleRole r).authSession h r payload)

/-- `SESSION_CLOSE` (R507, R508). -/
def execSessionClose (h : MgmtHdr) (s : State) : Host.Outcome State Fault Refusal :=
  .next (s.request h 0x04 (some observerRole) [] fun s r =>
    (match r with
      | some r => s.endSession r
      | none => s, some (.ok, [])))

/-- `HEARTBEAT` (R507): the message itself restarts the inactivity timer. -/
def execHeartbeat (h : MgmtHdr) (s : State) : Host.Outcome State Fault Refusal :=
  .next (s.request h 0x05 (some observerRole) [] fun s _ => (s, some (.ok, [])))

end Sys2Proof.Machine
end

