-- ==== Sys2Proof/Machine/Ports.lean ====
section
/-! DEFINITION. The PCIe ports (R492, R500 to R504): loss, return, and Bus Master Enable. -/

namespace Sys2Proof.Machine

/-! ## Losing a port (R501) -/

/-- The queues bound to port `p`. -/
def State.queuesOn (s : State) (p : Nat) : List Nat :=
  (List.range 4096).filter (fun q => s.bound q && s.f F.QE_Q_CTRL_PORT q == p)

/-- Every host-granted window and the aperture of a port cleared (R501, R518, R519). -/
def State.clearWindows (s : State) (p : Nat) : State :=
  ((List.range 16).foldl (fun s w => (s.setR R.GLB_HWIN_BASE 0 p w).setR R.GLB_HWIN_SIZE 0 p w) s).setR R.GLB_APERTURE 0 p

/-- Records of a queue that have not started complete `CANCELLED`, and its transactions roll back (R70, R501). -/
def State.loseQueue (s : State) (q : Nat) : State := (s.cancelRing 65536 q).dropTxs q 0

/-- The `SERVE_START`s in flight from queues of port `p` end as if `STOP` had been written. -/
def State.stopServing (s : State) (p : Nat) : State :=
  (s.serve.runs.filter (fun x => s.f F.QE_Q_CTRL_PORT x.2.q == p)).foldl (fun s x => s.stopServe x.1) s

/-- The management sessions carried on port `p` end (R508). -/
def State.endSessionsOn (s : State) (p : Nat) : State :=
  [0, 1, 2].foldl (fun s r =>
    match (s.role r).session with
    | some y => if y.transport = p + 1 then s.endSession r else s
    | none => s) s

/-- What PCIe itself resets in a port: everything but at an entry to D3hot. PRESUMED: as PCIe gives it. -/
def State.resetPort (s : State) (p cause : Nat) : State := if cause = 4 then s else s.setPort p .reset

/-- A port is lost (R501), for a cause of R516. A port that is lost already stays as it is. -/
def State.losePcie (s : State) (p cause : Nat) : State :=
  if !s.power.good || s.portLost p then s
  else
    let s := ((s.setF F.GLB_PORT_STAT_LOST 1 p).setF F.GLB_PORT_STAT_LOSS_EVT 1 p).setF F.GLB_PORT_STAT_LOSS_CAUSE cause p
    let s := if cause = 2 then s else s.setF F.GLB_PORT_STAT_LINK_UP 0 p
    let s := (s.resetPort p cause).clearWindows p
    let s := (s.queuesOn p).foldl (fun s q => s.loseQueue q) s
    let s := (s.stopServing p).endSessionsOn p
    let s := s.fault 0x1801 .device 0
    if s.fb F.GLB_PORT_CFG_LOSS_EN (1 - p) then s.raise (1 - p) (s.f F.GLB_PORT_CFG_LOSS_VEC (1 - p)) else s

/-- `PERST_N` (R501). -/
def execPerstN (p : PortId) (s : State) : Host.Outcome State Fault Refusal := .next (s.losePcie p.val 1)

/-- `FUNCTION_LEVEL_RESET` (R501). -/
def execFunctionLevelReset (p : PortId) (s : State) : Host.Outcome State Fault Refusal := .next (s.losePcie p.val 2)

/-- `SURPRISE_DOWN` (R501). -/
def execSurpriseDown (p : PortId) (s : State) : Host.Outcome State Fault Refusal := .next (s.losePcie p.val 3)

/-- `D3HOT_ENTRY` (R492, R501). -/
def execD3hotEntry (p : PortId) (s : State) : Host.Outcome State Fault Refusal := .next (s.losePcie p.val 4)

/-! ## Return (R502) -/

/-- The output rings of a port that returns stay without room until a commit changes their `BASE`. -/
def State.killRings (s : State) (p : Nat) : State :=
  ((List.range 4096).filter (fun o => s.fb F.SRV_OUT_CTRL_VALID o && s.f F.SRV_OUT_CTRL_PORT o == p)).foldl
    (fun s o => s.setOutRing o { s.outRing o with dead := true }) s

/-- A queue of a port that returns restarts; its records still in flight belong to the epoch that the loss ended. -/
def State.reopenQueue (s : State) (q : Nat) : State :=
  let k := (s.queue q).epoch
  let s := s.restartQueue q
  s.setQueue q { s.queue q with epoch := k + 1 }

/-- `PORT_RETURN` (R502): the link is in L0 at a speed code and width, with its function enabled, Bus Master Enable included; each
queue of a lost port restarts. -/
def execPortReturn (p : PortId) (speed : Fin 8) (width : Fin 32) (s : State) : Host.Outcome State Fault Refusal :=
  let n := p.val
  .next (
    let t := ((s.setF F.GLB_PORT_STAT_LINK_UP 1 n).setF F.GLB_PORT_STAT_SPEED speed.val n).setF F.GLB_PORT_STAT_WIDTH width.val n
    let t := t.setPort n { t.port n with busMaster := true }
    if s.portLost n then
      ((t.queuesOn n).foldl (fun t q => t.reopenQueue q) (t.setF F.GLB_PORT_STAT_LOST 0 n)).killRings n
    else t)

/-- `BUS_MASTER_DISABLE` (R501): no loss; device writes to the port are discarded and counted. -/
def execBusMasterDisable (p : PortId) (s : State) : Host.Outcome State Fault Refusal :=
  .next (s.setPort p.val { s.port p.val with busMaster := false })

/-- `BUS_MASTER_ENABLE` (R501). -/
def execBusMasterEnable (p : PortId) (s : State) : Host.Outcome State Fault Refusal :=
  .next (s.setPort p.val { s.port p.val with busMaster := true })

end Sys2Proof.Machine
end

