-- ==== Sys2Proof/Machine/Boot.lean ====
section
/-! DEFINITION. Boot, power failure and warm restart (R72, R511, R537, R561 to R567, R581, R582, R587). -/

namespace Sys2Proof.Machine

/-! ## Firmware images (R562, R563) -/

/-- `n` bytes of an image slot from an offset. -/
def State.fwBytes (s : State) (b : Bool) (off n : Nat) : List Byte :=
  (List.range n).map (fun i => mgetD (if b then s.fw.slotB else s.fw.slotA) (off + i) (Config.fwByte b (off + i)))

/-- The number that `n` bytes of an image slot hold. -/
def State.fwNat (s : State) (b : Bool) (off n : Nat) : Nat := leNat (s.fwBytes b off n)

/-- `VERSION` of the image in a slot. -/
def State.fwVersion (s : State) (b : Bool) : Nat := s.fwNat b 0x00C 4

/-- `BODY_BYTES` of the image in a slot. -/
def State.fwBody (s : State) (b : Bool) : Nat := s.fwNat b 0x014 4

/-- `SVN` of the image in a slot. -/
def State.fwSvn (s : State) (b : Bool) : Nat := s.fwNat b 0x00B 1

/-- `KEY_INDEX` of the image in a slot. -/
def State.fwKey (s : State) (b : Bool) : Nat := s.fwNat b 0x00A 1

/-- The signed message of an image: its header and body. -/
def State.fwMessage (s : State) (b : Bool) : List Byte := s.fwBytes b 0 (0x1000 + s.fwBody b)

/-- The fail code of the image in a slot, 0 where it passes every check of R563. `disagree` says that the two ROMs differ. -/
def State.fwCheck (s : State) (b disagree : Bool) : Nat :=
  if s.fwBytes b 0 8 ≠ ascii ['F', 'Z', '2', 'S', 'U', 'P', 'V'] ++ [0#8] ∨ s.fwNat b 8 2 ≠ 1 ∨ s.fwNat b 0x018 8 ≠ 0 ∨
      s.fwNat b 0x060 4000 ≠ 0 then 1
  else if s.fwBody b % 64 ≠ 0 ∨ 0x3FF7B80 < s.fwBody b then 2
  else if s.fwKey b < s.fuses.keyMin ∨ 3 < s.fwKey b ∨
      shake256 (s.fwBytes b 0x020 64) 32 ≠ nth s.fuses.rootHash (s.fwKey b) [] then 3
  else if s.fwSvn b < s.fuses.svn then 4
  else if !Config.slhVerify (s.fwBytes b 0x020 64) (ascii ['F', 'Z', '2', ' ', 'S', 'U', 'P', 'E', 'R', 'V', 'I', 'S', 'O', 'R'])
      (s.fwMessage b) (s.fwBytes b (0x1000 + s.fwBody b) 29792) then 5
  else if disagree then 6
  else 0

/-- The fail code of an image shown (R576). -/
def State.showFail (s : State) (b : Bool) (code : Nat) : State :=
  s.setF (if b then F.SEC_BOOT_STAT_B_FAIL else F.SEC_BOOT_STAT_A_FAIL) code

/-- The supervisor firmware starts from an image on all four cores: its version shown and its signed message measured (R567). -/
def State.runImage (s : State) (b : Bool) : State :=
  let s := { s with power := { s.power with imageOk := true, runningB := b } }
  let s := s.setF F.SEC_BOOT_STAT_VERSION (s.fwVersion b)
  let s := s.setR R.FLT_FW_STAT 0
  let s := s.setF F.FLT_FW_STAT_IMAGE (if b then 15 else 0)
  let s := s.setF F.FLT_FW_STAT_ACTIVE_B (if s.fw.activeB then 1 else 0)
  s.extendMeas 1 (shake256 (s.fwMessage b) 64)

/-- Every enabled link of the part begins in `DARK` (R428, R564, step 6). -/
def State.startLinks (s : State) : State :=
  (List.range 22).foldl (fun s l => if s.part.hasLink l && s.fb F.ALT_LINK_CTRL_EN l then s.setLinkState l 1 else s) s

/-- The ROMs check the active image, then the other one, and start the first that passes; where both fail, the device enters recovery
mode (R564, R566). -/
def State.startImage (s : State) (disagree : Bool) : State :=
  let a := s.fw.activeB
  let x := s.fwCheck a disagree
  let s := s.showFail a x
  if x = 0 then (s.runImage a).startLinks
  else
    let y := s.fwCheck (!a) false
    let s := s.showFail (!a) y
    if y = 0 then (s.runImage (!a)).startLinks
    else (s.setF F.SEC_BOOT_STAT_MODE 2).setF F.GLB_BOARD_FAULT 1

/-- The fused values that are measured (R567). -/
def State.fuseBytes (s : State) : List Byte :=
  BitVec.ofNat 8 s.fuses.svn :: BitVec.ofNat 8 s.fuses.keyMin :: (List.range 3).map (fun r => BitVec.ofNat 8 (nth s.fuses.activeSlot r 0))

/-- The boot ROMs start (R564, steps 1 to 4): they measure themselves and the fuses, then check the images. -/
def State.bootRoms (s : State) (disagree : Bool) : State :=
  let s := (s.setF F.SEC_BOOT_STAT_MODE 0).setF F.GLB_BOARD_FAULT 1
  ((s.extendMeas 0 (padTo 64 Config.romDigest)).extendMeas 0 (shake256 s.fuseBytes 64)).startImage disagree

/-- The device after its power has been lost (R2): no operating state is left; the fuses and the firmware store keep what was burnt and
written. What has left the device, the commands that wait, the memory of other chips and the free values are none of its state. -/
def State.poweredOff (s : State) : State :=
  { State.reset with
    pending := s.pending, fuses := s.fuses, fw := s.fw, remoteView := s.remoteView, out := s.out, freeCtr := s.freeCtr }

/-- `POWER_GOOD` (R2, R510, R564, R581): `SLOT_ID` is sampled and the boot ROMs start. DESIGN CHOICE: power-good declared again means that
power was lost before, since the table has no row for the loss. -/
def execPowerGood (slotId : BitVec 6) (romDisagree : Bool) (s : State) : Host.Outcome State Fault Refusal :=
  let s := if s.power.good then s.poweredOff else s
  .next (({ s.setF F.GLB_BOARD_SLOT_ID slotId.toNat with power := { s.power with good := true } }).bootRoms romDisagree)

/-! ## Ready (R72, R164, R564) -/

/-- The values that the supervisor firmware gives registers before the device reports ready: the reserved range, the rings of
queues 0 and 1, the range of the hot set and the launch targets. DESIGN CHOICE, within R72, R91 and R534. -/
def State.firmwareValues (s : State) : State :=
  let s := s.setF F.TR_BASIN_RSV_RSV_MIB 22528
  let s := s.setF F.QE_Q_RING_BASE (frameAddr s.reservedFrom) 0
  let s := s.setF F.QE_Q_RING_BASE (frameAddr s.reservedFrom + 4096) 1
  let s := s.setF F.TR_CCACHE_CFG_FIRST (s.reservedFrom + 1)
  s.setF F.TR_CCACHE_CFG_FRAMES 2048

/-- The column maps that the repair fuses give at boot (R164). -/
def State.columnMaps (s : State) : State :=
  let r := fun die => min (nth s.fuses.repair die 32) s.part.dieCols
  (s.setF F.FAB_COL_MAP_W_RETIRED (r 0)).setF F.FAB_COL_MAP_E_RETIRED (r 1)

/-- At boot every line of the Terrace and the Basin is zeroed (R599). -/
def State.zeroAll (s : State) : State :=
  { s with memory := { s.memory with mem := [], poison := s.memory.poison.filter (fun u => regionOf (64 * u) == .plain) } }

/-- Whether the supervisor firmware runs and may report ready: in boot without a `DEVICE` fault, or in a warm restart. -/
def State.mayReady (s : State) : Bool :=
  s.power.good && s.power.imageOk && !s.fb F.GLB_BOARD_PWRFAIL && !s.fb F.PWR_STAT_TRIPPED &&
  ((s.f F.SEC_BOOT_STAT_MODE == 0 && !s.power.stopped) || s.f F.SEC_BOOT_STAT_MODE == 3)

/-- `DEVICE_READY` (R564, steps 5 to 8): the calibration records gathered, memory zeroed at boot, the state of R72, and `FAULT_N` high. -/
def execDeviceReady (cal : List CalRecord) (s : State) : Host.Outcome State Fault Refusal :=
  .next (if !s.mayReady then s
    else
      let s := if s.f F.SEC_BOOT_STAT_MODE = 0 then s.zeroAll.columnMaps else s
      let s := cal.foldl (fun s r => s.putRecord r) s.firmwareValues
      let s := { s with power := { s.power with stopped := false } }
      (s.setF F.SEC_BOOT_STAT_MODE 1).setF F.GLB_BOARD_FAULT 0)

/-! ## Power failure (R511, R582) and the thermal trip (R587) -/

/-- The 32 bytes of a fault-log entry (R523, R552). -/
def State.logBytes (s : State) (e : Nat) : List Byte :=
  wordsBytes [s.r R.FLT_LOG_A e, s.r R.FLT_LOG_B e, s.r R.FLT_LOG_C e, s.r R.FLT_LOG_D e]

/-- The fault log written to the window `FLUSH_WIN` of a port, entry by entry, and its vector (R511, steps 4 and 5). -/
def State.flushPort (s : State) (p : Nat) : State :=
  let base := 4096 * s.f F.GLB_HWIN_BASE_ADDR p (s.f F.GLB_PORT_CFG_FLUSH_WIN p)
  let s := if s.fb F.GLB_PORT_CFG_FLUSH_EN p then
      let s := (List.range 256).foldl (fun s e => s.hostWrite p (base + 32 * e) (s.logBytes e)) s
      { s with faults := { s.faults with readMarks := List.range 256 } }
    else s
  if s.fb F.GLB_PORT_CFG_PWRFAIL_EN p then s.raise p (s.f F.GLB_PORT_CFG_PWRFAIL_VEC p) else s

/-- The sequence of R511: nothing where it has started already. -/
def State.powerFail (s : State) : State :=
  if !s.power.good || s.fb F.GLB_BOARD_PWRFAIL then s
  else
    let s := (s.setF F.GLB_BOARD_PWRFAIL 1).setF F.GLB_BOARD_FAULT 1
    let s := { s with power := { s.power with failedAt := s.now } }
    let s := s.fault 0x5A02 .device 0
    ((s.announce 0x29 0).flushPort 0).flushPort 1

/-- `PWRFAIL` (R511). -/
def execPwrfail (s : State) : Host.Outcome State Fault Refusal := .next s.powerFail

/-- The rail of an undervoltage recorded (R582, R597). -/
def State.recordRail (s : State) (rail : Nat) : State := (s.setF F.PWR_RAILS_UV_RAIL rail).setF F.PWR_RAILS_UV_EVT 1

/-- `RAIL_UNDERVOLTAGE` (R582): the rail is recorded where it starts the sequence, or falls in the tick in which `PWRFAIL_N` did. -/
def execRailUndervoltage (rail : Fin 9) (s : State) : Host.Outcome State Fault Refusal :=
  .next (if !s.power.good then s
    else
      let t := s.setF F.PWR_RAILS_IN_TOL (s.f F.PWR_RAILS_IN_TOL &&& (511 - 2 ^ rail.val))
      if s.fb F.GLB_BOARD_PWRFAIL then
        if s.power.failedAt = s.now ∧ !s.fb F.PWR_RAILS_UV_EVT then t.recordRail rail.val else t
      else (t.recordRail rail.val).powerFail)

/-- `THERMTRIP` (R587): the trip latches, 0.60 V is requested on both dies, and `GOING_DOWN` leaves; `LIMITER` shows it. -/
def execThermtrip (s : State) : Host.Outcome State Fault Refusal :=
  .next (if !s.power.good || s.fb F.PWR_STAT_TRIPPED then s
    else
      let s := (s.setF F.PWR_STAT_TRIPPED 1).setF F.GLB_BOARD_THERMTRIP 1
      let s := ((s.requestVid 0 600).requestVid 1 600).setF F.PWR_STAT_LIMITER 6
      ((s.announce 0x29 0).fault 0x5A03 .device 0).updateFloor)

/-! ## Warm restart (R537) -/

/-- Every record of a queue that is not complete completes `FENCED`: those in flight, then those in the ring in sequence order. -/
def State.fenceRing : Nat → State → Nat → State
  | 0, s, _ => s
  | fuel + 1, s, q =>
    match s.headRec q with
    | none => s
    | some r => if 0 < s.cqFree q then fenceRing fuel (s.headDone q r .fenced) q else s

/-- The records of a queue completed `FENCED`. -/
def State.fenceQueue (s : State) (q : Nat) : State :=
  let s := (s.queue q).flights.foldl (fun s x => s.finishFlight q x.seq .fenced) s
  s.fenceRing 65536 q

/-- The registers that a warm restart keeps: those of R537, and those whose own rules clear them only at power-on or power-off, or
show what the hardware is at (the column maps, the HBM remap, the rails and sensors, the ports). -/
def keptRegs : List Reg :=
  [R.GLB_TIME_STATUS, R.GLB_RATE, R.GLB_MARGIN, R.GLB_BOARD, R.GLB_PORT_STAT, R.FAB_COL_MAP_W, R.FAB_COL_MAP_E, R.FAB_SADDLE_STAT,
   R.FAB_SADDLE_LINKS, R.FAB_STALL_HEAD, R.ALT_LINK_ERR, R.ALT_LINK_FEC, R.ALT_LASER, R.FLT_LOG_HEAD, R.FLT_CLASS_CNT, R.FLT_HBM, R.FLT_FAILED,
   R.FLT_FAILED_CORES, R.FLT_CAL_STAT, R.FLT_LOST, R.FLT_LOG_A, R.FLT_LOG_B, R.FLT_LOG_C, R.FLT_LOG_D, R.SEC_BOOT_STAT,
   R.SEC_PLINTH_STAT, R.SEC_MEAS, R.SEC_ROLE, R.SEC_ROLE_TIME, R.SEC_SESS, R.PWR_STAT, R.PWR_MEAS, R.PWR_TEMP, R.PWR_RAILS,
   R.PWR_ENERGY]

/-- Whether a warm restart keeps the register at an offset: one of the list, or a counter of a CU or MU window (R192, R222). -/
def keptOffset (off : Nat) : Bool :=
  match regAt? off with
  | none => false
  | some (t, _, _) => keptRegs.contains t.reg || (decide (0x800000 ≤ off) && decide (off < 0x1800000) && t.reg != R.MU_RING_OWN)

/-- The state of R72 with what a warm restart keeps (R537, step 4; R599, R567): the Terrace is zeroed, the Basin stays, and no frame
is owned. -/
def State.restarted (s : State) : State :=
  let m := s.memory
  let keep := fun (a : Nat) => regionOf a != .terrace
  let sess := s.mgmt.roles.map (fun _ => ({ session := none, nonce := none } : RoleSt))
  let r := State.reset
  { r with
    pending := s.pending
    fuses := s.fuses
    fw := s.fw
    regs := s.regs.foldl (fun m x => if keptOffset x.1 then mset m x.1 x.2 else m) State.resetRegs
    tb := s.tb
    memory := { m with mem := m.mem.filter (fun x => keep x.1), poison := m.poison.filter (fun u => keep (64 * u)) }
    remoteView := s.remoteView
    portA := s.portA
    portB := s.portB
    faults := { r.faults with
      readMarks := s.faults.readMarks, lastRepeat := s.faults.lastRepeat, seenNotices := s.faults.seenNotices
      noticeCtr := s.faults.noticeCtr, recovering := s.faults.recovering.filter (fun x => x.domain != .link) }
    cal := { r.cal with trims := s.cal.trims, checked := s.cal.checked }
    power := s.power
    mgmt := { s.mgmt with roles := sess, roll := none }
    fabric := { r.fabric with
      fencedRows := s.fabric.fencedRows, failedRows := s.fabric.failedRows, sparesSpent := s.fabric.sparesSpent }
    out := s.out
    freeCtr := s.freeCtr }

/-- Whether a `DEVICE` fault other than a power failure or a trip has stopped the device and waits for its restart. -/
def State.mayRestart (s : State) : Bool :=
  s.power.good && s.power.stopped && !s.fb F.GLB_BOARD_PWRFAIL && !s.fb F.PWR_STAT_TRIPPED &&
  (s.f F.SEC_BOOT_STAT_MODE == 0 || s.f F.SEC_BOOT_STAT_MODE == 1)

/-- The chip's own bit in the lost set (R537, step 2). -/
def State.fenceSelf (s : State) : State :=
  let c := s.chip
  s.setF F.FLT_LOST_LOST (s.f F.FLT_LOST_LOST (c / 64) ||| 2 ^ (c % 64)) (c / 64)

/-- `WARM_RESTART` (R537): the notice, every record `FENCED`, the state of R72, and the firmware started from the image marked active. -/
def execWarmRestart (s : State) : Host.Outcome State Fault Refusal :=
  .next (if !s.mayRestart then s
    else
      let s := (s.announce 0x28 2).fenceSelf
      let s := (s.queues.map (fun x => x.1)).foldl (fun s q => s.fenceQueue q) s
      let s := [0, 1, 2].foldl (fun s r => s.endSession r) s
      (s.restarted.setF F.SEC_BOOT_STAT_MODE 3).startImage false)

end Sys2Proof.Machine
end

