-- ==== Sys2Proof/Machine/Recover.lean ====
section
/-! DEFINITION. Recovery in service (R527 to R536, R546 to R548): calibration, column retirement, Saddle sparing, and the remap of an HBM
channel. -/

namespace Sys2Proof.Machine

/-! ## Calibration (R546 to R548) -/

/-- Whether the supervisor firmware runs in service. -/
def State.inService (s : State) : Bool := s.f F.SEC_BOOT_STAT_MODE == 1 && !s.fb F.PWR_STAT_TRIPPED

/-- `DEFERRED` (R548): while a die is below the floor, queued channels and links wait. -/
def State.updateDeferred (s : State) : State :=
  s.setF F.FLT_CAL_STAT_DEFERRED (if s.fb F.GLB_RATE_BELOW_FLOOR && s.cal.queued.any (fun x => x.1 ≤ 1) then 1 else 0)

/-- `CAL_VALIDITY_CHECK` (R547): every 100 ms each record outside its window raises `CALSTALE`. -/
def execCalValidityCheck (s : State) : Host.Outcome State Fault Refusal :=
  .next (if s.inService && decide (s.cal.checked + 100000000 ≤ s.now) then
      let s := { s with cal := { s.cal with checked := s.now } }
      (s.cal.records.foldl (fun s x => if s.recordValid x then s else s.calStale x.kind x.element) s).updateDeferred
    else s)

/-- An element taken from the queue. -/
def State.dequeueCal (s : State) (kind element : Nat) : State :=
  let s := { s with cal := { s.cal with queued := s.cal.queued.filter (fun x => x != (kind, element)) } }
  (s.setF F.FLT_CAL_STAT_QUEUED (satTo 8 s.cal.queued.length)).updateDeferred

/-- Whether a channel or link reports errors (R548): a fault of the channel stands in the log, or the link has counted errors. -/
def State.reportsErrors (s : State) (kind element : Nat) : Bool :=
  if kind = 0 then (List.range 256).any (fun e =>
    s.fb F.FLT_LOG_A_VALID e && s.f F.FLT_LOG_A_DOMAIN e == Domain.hbmChannel.code && s.f F.FLT_LOG_A_INDEX e == element)
  else s.r R.ALT_LINK_ERR element != 0

/-- Whether a data-mover record in flight reaches blocks on HBM channel `k` (R90). -/
def State.moverUses (s : State) (q : Nat) (x : Flight) (k : Nat) : Bool :=
  let n := s.queueJob q
  let on := fun (wr : Bool) (es : List Entry) => es.any (fun e => (s.entryPieces n e wr).any (fun p =>
    match p.place with
    | .here a => regionOf a == .basin && s.rangeOnChannel a p.len k
    | _ => false))
  (x.cmd.opcode == 0x10 || x.cmd.opcode == 0x11) &&
  (on false (s.moveLists n x.cmd).1 || on true (s.moveLists n x.cmd).2)

/-- The data-mover records in flight on a channel will complete `DEGRADED` in place of `OK` (R529). -/
def State.degradeMovers (s : State) (k : Nat) : State :=
  let mark := fun (q : Nat) (x : Flight) => if s.moverUses q x k then { x with degraded := true } else x
  { s with queues := s.queues.map (fun (x : Nat × QState) => (x.1, { x.2 with flights := x.2.flights.map (mark x.1) })) }

/-- A channel is recalibrated (R527, R529, R548): it is out for the time of it, and a failure raises `HBM_CHANNEL`. -/
def State.recalChannel (s : State) (element : Nat) (ok : Bool) (x : CalRecord) : State :=
  let s := (s.degradeMovers element).dequeueCal 0 element
  if ok then (s.putRecord { x with kind := 0, element := element }).count F.FLT_CAL_STAT_RECALS
  else s.fault 0x3303 .hbmChannel element

/-- Whether another member of the bundle of a link is taken out (R548). -/
def State.bundleBusy (s : State) (l : Nat) : Bool :=
  match s.portOf l with
  | none => false
  | some p => (List.range 22).any (fun k => k != l && s.portOf k == some p && (s.linkState k == 7 || s.linkState k == 8))

/-- Whether a site's Dale has a step in flight. -/
def State.siteBusy (s : State) (site : Nat) : Bool :=
  match s.siteDale site with
  | some d => (s.stepOn d).isSome
  | none => false

/-- A queued element recalibrated (R548). A link is drained; what follows are its own events. A site waits for the end of the step. -/
def State.recalibrate (s : State) (kind element : Nat) (ok : Bool) (x : CalRecord) : State :=
  if kind = 0 then s.recalChannel element ok x
  else if kind = 1 then (if s.bundleBusy element then s else (s.startRecal element).dequeueCal 1 element)
  else if kind = 3 ∧ s.siteBusy element then s
  else
    let s := s.dequeueCal kind element
    if ok then (s.putRecord { x with kind := kind, element := element }).count F.FLT_CAL_STAT_RECALS else s

/-- `RECALIBRATION` (R548). -/
def execRecalibration (kind element : Nat) (ok : Bool) (x : CalRecord) (s : State) : Host.Outcome State Fault Refusal :=
  .next (if !s.inService || !s.cal.queued.contains (kind, element) then s
    else if kind ≤ 1 && s.fb F.GLB_RATE_BELOW_FLOOR && !s.reportsErrors kind element then s.updateDeferred
    else s.recalibrate kind element ok x)

/-! ## Column retirement (R530) -/

/-- The offset that the registers of a window have after physical columns `p` and east of it move one column east on a die; `none` for
the spare column, whose window is written over. -/
def movedOffset (die p last off : Nat) : Option Nat :=
  let w := off % 0x800000 / 0x800
  let c := w % 528 / 16
  if off < 0x800000 ∨ 0x1800000 ≤ off ∨ w / 528 ≠ die ∨ c < p then some off
  else if c < last then some (off + 16 * 0x800)
  else none

/-- The windows of a die's units moved with their columns. -/
def State.moveWindows (s : State) (die p : Nat) : State :=
  { s with regs := s.regs.foldl (fun m (x : Nat × W64) => match movedOffset die p s.part.dieCols x.1 with
    | some off => mset m off x.2
    | none => m) [] }

/-- The site whose fault a column retirement of a die answers. -/
def State.retiringSite (s : State) (die : Nat) : Option Nat :=
  s.faults.recovering.findSome? (fun r => if r.domain = .site ∧ siteDie r.index = die then some r.index else none)

/-- `COLUMN_RETIREMENT` (R530): once the affected Dales are at rest, every unit's state lies one column further east, the column map
changes at one ordering point, and the recovery is over. Units are numbered by their logical place, so what they hold stays theirs. -/
def execColumnRetirement (die : Fin 2) (s : State) : Host.Outcome State Fault Refusal :=
  .next (match s.retiringSite die.val with
    | none => s
    | some i =>
      let p := siteCol i
      let ds := s.dalesFrom die.val p
      if ds.any (fun d => (s.stepOn d).isSome) then s
      else
        let s := (s.moveWindows die.val p).setF
          (if die.val = 0 then F.FAB_COL_MAP_W_RETIRED else F.FAB_COL_MAP_E_RETIRED) p
        ds.foldl (fun s d => s.endRecovery .dale d) (s.endRecovery .site i))

/-! ## Saddle rows (R142, R532) -/

/-- The number of a row link: its row, plus 32 from East to West. -/
def rowLink (die row : Nat) : Nat := row + 32 * die

/-- `SADDLE_ROW_FAILURE` (R142, R532): the row link from a die fails. It waits for a spare of its direction, or, where both are in use,
the row is fenced. -/
def execSaddleRowFailure (die : Fin 2) (row : Fin 32) (s : State) : Host.Outcome State Fault Refusal :=
  let k := rowLink die.val row.val
  let x := s.fabric
  .next (if x.failedRows.contains k || x.fencedRows.contains k then s
    else
      let s := s.fault 0x3205 .die die.val
      let waiting := (x.failedRows.filter (fun j => j / 32 == die.val)).length
      if nth x.sparesSpent die.val 0 + waiting < 2 then
        ({ s with fabric := { s.fabric with failedRows := s.fabric.failedRows ++ [k] } }).beginRecovery .die die.val
      else { s with fabric := { s.fabric with fencedRows := sinsert s.fabric.fencedRows k } })

/-- Whether a step of a cast that spans the Saddle is in flight. -/
def State.saddleBusy (s : State) : Bool :=
  s.fabric.runs.any (fun (x : Nat × CastRun) =>
    x.2.stepping && decide (x.1 < 16) && decide (16 < x.1 + (s.castRef x.2.cast).count))

/-- `SADDLE_SPARE` (R532): between two steps a spare takes the place of a failed row link. -/
def execSaddleSpare (die : Fin 2) (row : Fin 32) (s : State) : Host.Outcome State Fault Refusal :=
  let k := rowLink die.val row.val
  let x := s.fabric
  .next (if !x.failedRows.contains k || s.saddleBusy then s
    else
      let f := if die.val = 0 then F.FAB_SADDLE_LINKS_W2E_SPARED else F.FAB_SADDLE_LINKS_E2W_SPARED
      let s := { s with fabric := { x with
        failedRows := sremove x.failedRows k
        sparesSpent := setNth x.sparesSpent die.val (nth x.sparesSpent die.val 0 + 1) } }
      let s := if (s.f f).testBit row.val then s else (s.setF f (s.f f ||| 2 ^ row.val)).count F.FAB_SADDLE_STAT_SPARES_USED
      if s.fabric.failedRows.any (fun j => j / 32 == die.val) then s else s.endRecovery .die die.val)

/-! ## HBM channels (R534, R535) -/

/-- The channel whose copy into the spare of a die is in progress. -/
def State.copyingChannel (s : State) (die : Nat) : Option Nat :=
  s.faults.recovering.findSome? (fun r => if r.domain = .hbmChannel ∧ s.stackDie (r.index / 16) = die then some r.index else none)

/-- `HBM_CHANNEL_REMAP` (R535): the copy is complete, and the remap takes effect behind unchanged addresses. -/
def execHbmChannelRemap (die : Fin 2) (s : State) : Host.Outcome State Fault Refusal :=
  let w := decide (die.val = 0)
  .next (if !s.fb (if w then F.FLT_HBM_COPYING_W else F.FLT_HBM_COPYING_E) then s
    else match s.copyingChannel die.val with
      | none => s
      | some i =>
        let s := (s.setF (if w then F.FLT_HBM_COPYING_W else F.FLT_HBM_COPYING_E) 0).setF
          (if w then F.FLT_HBM_RET_W else F.FLT_HBM_RET_E) i
        s.endRecovery .hbmChannel i)

end Sys2Proof.Machine
end

