-- ==== Sys2Proof/Machine/Mgmt.lean ====
section
/-! DEFINITION. The messages of the management sideband (R505 to R507, R549, R562 to R568). Where the manual does not give the layout of
a payload, its fields stand in the order in which R507 names them, each as 8 little-endian bytes (DESIGN CHOICE). -/

namespace Sys2Proof.Machine

/-! ## MCTP control (R505) -/

/-- `ENTDAA` (R505): the I3C target takes a dynamic address. -/
def execEntdaa (address : BitVec 7) (s : State) : Host.Outcome State Fault Refusal :=
  .next { s with mgmt := { s.mgmt with i3cAddr := some address } }

/-- One MCTP control request (R505, R509): its response carries the command code, a completion code of zero and `data`. PRESUMED: the
layout of MCTP control messages. -/
def State.control (s : State) (t command : Nat) (f : State → State) (data : State → List Byte) : State :=
  if !s.transportOpen t then s
  else match s.takeAllowance t with
    | none => s.count F.GLB_BOARD_MGMT_DROPS
    | some s =>
      let s := f s
      s.emit (.mgmt t ([0#8, 0#8, BitVec.ofNat 8 command, 0#8] ++ data s))

/-- The endpoint identifier of a transport. -/
def State.eid (s : State) (t : Nat) : Byte := nth s.mgmt.eids t 0

/-- Set Endpoint ID (R505). -/
def execSetEndpointId (transport : Fin 3) (eid : Byte) (s : State) : Host.Outcome State Fault Refusal :=
  let t := transport.val
  .next (s.control t 1 (fun s => { s with mgmt := { s.mgmt with eids := setNth s.mgmt.eids t eid } }) (fun _ => [0#8, eid, 0#8]))

/-- Get Endpoint ID (R505). -/
def execGetEndpointId (transport : Fin 3) (s : State) : Host.Outcome State Fault Refusal :=
  .next (s.control transport.val 2 id (fun s => [s.eid transport.val, 0#8, 0#8]))

/-- Get MCTP Version Support (R505). -/
def execGetMctpVersionSupport (transport : Fin 3) (s : State) : Host.Outcome State Fault Refusal :=
  .next (s.control transport.val 4 id (fun _ => Config.mctpVersions))

/-- Get Message Type Support (R505, R506): control messages and type 0x7E. -/
def execGetMessageTypeSupport (transport : Fin 3) (s : State) : Host.Outcome State Fault Refusal :=
  .next (s.control transport.val 5 id (fun _ => [2#8, 0#8, 0x7E#8]))

/-- Get Vendor Defined Message Support (R505, R506): the PCI vendor identifier. -/
def execGetVendorDefinedMessageSupport (transport : Fin 3) (s : State) : Host.Outcome State Fault Refusal :=
  .next (s.control transport.val 6 id (fun _ =>
    [0xFF#8, 0#8, Config.vendorId.extractLsb' 8 8, Config.vendorId.extractLsb' 0 8, Config.vendorCommandSet.extractLsb' 8 8,
     Config.vendorCommandSet.extractLsb' 0 8]))

/-! ## Reading (R507) -/

/-- The values of some registers, in order, as bytes. -/
def State.regBytes (s : State) (offs : List Nat) : List Byte := wordsBytes (offs.map (fun o => s.readReg o))

/-- What `GET_INFO` returns: `CAP_UNITS`, `CAP_COUNTS`, `GLB_BOARD`, `SEC_BOOT_STAT`, and the `VERSION` of each image slot. -/
def State.infoBytes (s : State) : List Byte :=
  s.regBytes [R.CAP_UNITS.at, R.CAP_COUNTS.at, R.GLB_BOARD.at, R.SEC_BOOT_STAT.at] ++
  leBytes 4 (s.fwVersion false) ++ leBytes 4 (s.fwVersion true)

/-- The management opcodes of the table of R507. -/
def definedMgmt (op : Nat) : Bool :=
  [0x01, 0x02, 0x03, 0x04, 0x05, 0x10, 0x11, 0x12, 0x13, 0x14, 0x15, 0x20, 0x21, 0x22, 0x30, 0x31, 0x32].contains op

/-- `GET_INFO` (R507). A request with an undefined opcode is taken here too: it completes `BAD_COMMAND`. -/
def execGetInfo (h : MgmtHdr) (opcode : Byte) (payload : List Byte) (s : State) : Host.Outcome State Fault Refusal :=
  .next (if opcode.toNat = 0x01 then s.request h 0x01 none payload fun s _ => (s, some (.ok, s.infoBytes))
    else if definedMgmt opcode.toNat then s
    else s.request h opcode.toNat none payload fun s _ => (s, some (.badCommand, [])))

/-- The payload of a list of words. -/
def payloadOf (ws : List W64) : List Byte := wordsBytes ws

/-- `REG_READ` (R507): up to 120 registers. -/
def execRegRead (h : MgmtHdr) (offsets : List W64) (s : State) : Host.Outcome State Fault Refusal :=
  .next (s.request h 0x10 (some observerRole) (payloadOf offsets) fun s _ =>
    if 120 < offsets.length then (s, some (.badCommand, []))
    else (offsets.foldl (fun s o => s.readEffect false o.toNat) s, some (.ok, s.regBytes (offsets.map (fun o => o.toNat)))))

/-- `REG_WRITE` (R507): `PWR` and `ALT_LINK_OPT` registers alone. -/
def execRegWrite (h : MgmtHdr) (offset value : W64) (s : State) : Host.Outcome State Fault Refusal :=
  .next (s.request h 0x11 (some operatorRole) (payloadOf [offset, value]) fun s _ =>
    match regAt? offset.toNat with
    | none => (s, some (.denied, []))
    | some (t, _, _) =>
      if sidebandWrites offset.toNat t.reg then (s.directWrite .sideband offset.toNat 8 value, some (.ok, []))
      else (s, some (.denied, [])))

/-- `FAULT_LOG` (R507, R523): up to 30 entries from an index onward, which then count as read. -/
def execFaultLog (h : MgmtHdr) (index : Nat) (s : State) : Host.Outcome State Fault Refusal :=
  .next (s.request h 0x20 (some observerRole) (payloadOf [BitVec.ofNat 64 index]) fun s _ =>
    if 256 ≤ index then (s, some (.badCommand, []))
    else
      let es := (List.range (min 30 (256 - index))).map (· + index)
      let marks := es.foldl sinsert s.faults.readMarks
      ({ s with faults := { s.faults with readMarks := marks } }, some (.ok, es.flatMap s.logBytes)))

/-- The registers that `TELEMETRY` returns: power, temperatures, `GLB_RATE` and the state of each link. -/
def telemetryRegs : List Nat :=
  [R.PWR_STAT.at, R.PWR_MEAS.at, R.PWR_TEMP.at, R.PWR_RAILS.at, R.PWR_ENERGY.at, R.GLB_RATE.at] ++
  (List.range 22).map (fun l => R.ALT_LINK_STAT.at l)

/-- `TELEMETRY` (R507). -/
def execTelemetry (h : MgmtHdr) (s : State) : Host.Outcome State Fault Refusal :=
  .next (s.request h 0x21 (some observerRole) [] fun s _ => (s, some (.ok, s.regBytes telemetryRegs)))

/-! ## Transactions of a session (R66 to R70, R507) -/

/-- The open transaction of the session of a role. -/
def State.sessionTx (s : State) (r : Option Nat) : Option Tx :=
  r.bind (fun r => s.txs.find? (fun t => t.opener = .session r))

/-- `TX_BEGIN` of the sideband (R66, R507): scope `PARTITION`, in an Owner session on I3C. -/
def execMgmtTxBegin (h : MgmtHdr) (scope : Nat) (timeout : W64) (s : State) : Host.Outcome State Fault Refusal :=
  .next (s.request h 0x12 (some ownerRole) (payloadOf [BitVec.ofNat 64 scope, timeout]) fun s r =>
    if h.transport.val ≠ 0 ∨ scope ≠ 0 then (s, some (.denied, []))
    else if (s.scopeHeld 0 0).isSome then (s, some (.conflict, []))
    else
      let x := s.openTx 0 0 (.session (r.getD 0)) timeout.toNat
      (x.1, some (.ok, leBytes 8 x.2)))

/-- The entries of a `TX_SET` staged in order, to the first that fails. -/
def State.stageAll (h : Nat) : List SetEntry → State → State × Status
  | [], s => (s, .ok)
  | x :: xs, s =>
    match s.tx h with
    | none => (s, .txAborted)
    | some t => match s.stageSet t x.off.toNat x.value x.mask with
      | .error st => (s, st)
      | .ok s => stageAll h xs s

/-- `TX_SET` (R67, R507): up to 40 entries. -/
def execTxSet (h : MgmtHdr) (entries : List SetEntry) (s : State) : Host.Outcome State Fault Refusal :=
  .next (s.request h 0x13 (some ownerRole) (payloadOf (entries.flatMap (fun x => [x.off.setWidth 64, x.value, x.mask]))) fun s r =>
    match s.sessionTx r with
    | none => (s, some (.txAborted, []))
    | some t =>
      if t.committing then (s, some (.conflict, []))
      else if 40 < entries.length then (s, some (.badCommand, []))
      else let x := s.stageAll t.handle entries; (x.1, some (x.2, [])))

/-- `TX_COMMIT` of the sideband (R68, R507): answered after the ordering point or the rollback. -/
def execMgmtTxCommit (h : MgmtHdr) (s : State) : Host.Outcome State Fault Refusal :=
  .next (s.request h 0x14 (some ownerRole) [] fun s r =>
    match s.sessionTx r with
    | none => (s, some (.txAborted, []))
    | some t =>
      if t.committing then (s, some (.conflict, []))
      else match s.beginCommit { t with tag := h.tag } h.mseq.toNat with
        | .error (s, st, _) => (s, some (st, []))
        | .ok s => (s, none))

/-- `TX_ABORT` of the sideband (R70, R507). -/
def execMgmtTxAbort (h : MgmtHdr) (s : State) : Host.Outcome State Fault Refusal :=
  .next (s.request h 0x15 (some ownerRole) [] fun s r =>
    match s.sessionTx r with
    | none => (s, some (.txAborted, []))
    | some t => (s.rollback t.handle .txAborted, some (.ok, [])))

/-! ## Attestation (R568) -/

/-- The report of R568. -/
def State.attestReport (s : State) (nonce : List Byte) : List Byte :=
  let recovery := s.f F.SEC_BOOT_STAT_MODE == 2
  let flags := bit recovery + 2 * bit s.mgmt.roll.isSome + 4 * bit s.isPendant
  ascii ['F', 'Z', '2', 'A', 'T', 'T', 'S', 'T'] ++ leBytes 2 1 ++ leBytes 1 s.part.code ++ leBytes 1 s.fuses.svn ++
  leBytes 4 (s.f F.SEC_BOOT_STAT_VERSION) ++ leBytes 2 (if s.fb F.ALT_MESH_VALID then s.chip else 0xFFFF) ++ leBytes 1 flags ++
  List.replicate 13 0#8 ++ padTo 32 nonce ++ leBytes 8 s.now ++ padTo 64 s.fuses.idPk ++
  wordsBytes ((List.range 4).flatMap (fun r => (List.range 8).map (fun w => s.r R.SEC_MEAS r w)))

/-- The parts of an answer sent in the session of a role: each carries 972 bytes with `FLAGS` bit 1, and the last the rest; `fuel`
bounds their number. -/
def State.sendParts : Nat → State → MgmtHdr → Session → List Byte → State
  | 0, s, _, _, _ => s
  | fuel + 1, s, h, y, bs =>
    let more := decide (972 < bs.length)
    let body := mgmtBody 0x22 (if more then 3 else 1) h.tag.toNat y.sid h.mseq.toNat 0 (bs.take 972)
    let s := s.mgmtSend y.transport (some y.key) body
    if more then sendParts fuel s h y (bs.drop 972) else s

/-- `ATTEST` (R568): the report and its signature in 52 messages. -/
def execAttest (h : MgmtHdr) (nonce : List Byte) (s : State) : Host.Outcome State Fault Refusal :=
  .next (s.request h 0x22 (some observerRole) nonce fun s r =>
    if nonce.length ≠ 32 then (s, some (.badCommand, []))
    else match r.bind (fun r => (s.role r).session) with
      | none => (s, none)
      | some y =>
        let report := s.attestReport nonce
        let sig := Config.slhSign (ascii ['F', 'Z', '2', ' ', 'A', 'T', 'T', 'E', 'S', 'T']) report s.freeCtr
        (s.drawn.sendParts 52 h y (report ++ padTo 49856 sig), none))

/-! ## Firmware (R549, R561, R562, R565, R566) -/

/-- Bytes written into an image slot. -/
def slotWrite : SMap Byte → Nat → List Byte → SMap Byte
  | m, _, [] => m
  | m, a, b :: bs => slotWrite (mset m a b) (a + 1) bs

/-- `FW_STAGE` (R562): a part of the inactive image. -/
def execFwStage (h : MgmtHdr) (offset : Nat) (bytes : List Byte) (s : State) : Host.Outcome State Fault Refusal :=
  .next (s.request h 0x30 (some ownerRole) (leBytes 8 offset ++ bytes) fun s _ =>
    if s.mgmt.roll.isSome then (s, some (.conflict, []))
    else if 0x4000000 < offset + bytes.length then (s, some (.badCommand, []))
    else
      let w := s.fw
      let w := if w.activeB then { w with slotA := slotWrite w.slotA offset bytes }
        else { w with slotB := slotWrite w.slotB offset bytes }
      ({ s with fw := w }, some (.ok, [])))

/-- An image marked active (R565, R567): `SVN` and `KEY_MIN` are burnt up to its own, and it is measured. -/
def State.markActive (s : State) (b : Bool) : State :=
  let f := s.fuses
  let s := { s with
    fw := { s.fw with activeB := b }
    fuses := { f with svn := max f.svn (s.fwSvn b), keyMin := max f.keyMin (s.fwKey b) } }
  (s.setF F.FLT_FW_STAT_ACTIVE_B (bit b)).extendMeas 1 (shake256 (s.fwMessage b) 64)

/-- The cores in the order in which they roll (R549), coded as in `FLT_FW_STAT.IMAGE`: E1, E0, W1, W0. -/
def rollCore (done : Nat) : Nat := 3 - done

/-- Whether the inactive image, valid under R563, may not roll from the running version (R565). -/
def State.rollBarred (s : State) (b : Bool) : Bool :=
  let v := s.f F.SEC_BOOT_STAT_VERSION
  decide (v < s.fwNat b 0x010 4) || (decide (s.fwVersion b < v) && s.fwSvn b == s.fuses.svn)

/-- `FW_ACTIVATE` (R549, R565, R566): the inactive image is checked; it rolls, or in recovery mode it is marked active and the ROMs
restart. -/
def execFwActivate (h : MgmtHdr) (s : State) : Host.Outcome State Fault Refusal :=
  .next (s.request h 0x31 (some ownerRole) [] fun s _ =>
    let b := !s.fw.activeB
    if s.mgmt.roll.isSome then (s, some (.conflict, []))
    else
      let x := s.fwCheck b false
      let s := s.showFail b x
      if x ≠ 0 then (s, some (.badCommand, []))
      else if s.f F.SEC_BOOT_STAT_MODE = 2 then ((s.markActive b).bootRoms false, some (.ok, []))
      else if s.rollBarred b then (s, some (.badCommand, []))
      else
        let s := { s with mgmt := { s.mgmt with roll := some { done := 0, since := s.now, hdr := h } } }
        ((s.setF F.FLT_FW_STAT_ROLL 1).setF F.FLT_FW_STAT_ROLL_CORE (rollCore 0), none))

/-- The answer to the `FW_ACTIVATE` of a roll, where its session is still open. -/
def State.answerRoll (s : State) (h : MgmtHdr) (status : Nat) : State :=
  match s.sessionOf h.session.toNat with
  | some (r, _) => s.sessionAnswer r h.tag.toNat h.mseq.toNat 0x31 status []
  | none => s

/-- A roll ends with a state shown in `ROLL`. -/
def State.endRoll (s : State) (code : Nat) : State :=
  { s.setF F.FLT_FW_STAT_ROLL code with mgmt := { s.mgmt with roll := none } }

/-- The roll in progress in which it is the turn of a core. -/
def State.rollOf (s : State) (core : Nat) : Option Roll :=
  s.mgmt.roll.bind (fun x => if s.inService && rollCore x.done == core then some x else none)

/-- `FW_CORE_READY` (R549): the core runs the new image; with the last one the image is marked active and the request answered. -/
def execFwCoreReady (core : Fin 4) (s : State) : Host.Outcome State Fault Refusal :=
  .next (match s.rollOf core.val with
    | none => s
    | some x =>
      if x.since + 500000000 < s.now then s
      else
        let b := !s.fw.activeB
        let i := s.f F.FLT_FW_STAT_IMAGE
        let i := if b then i ||| 2 ^ core.val else i &&& (15 - 2 ^ core.val)
        let s := s.setF F.FLT_FW_STAT_IMAGE i
        if x.done < 3 then
          let s := s.setF F.FLT_FW_STAT_ROLL_CORE (rollCore (x.done + 1))
          { s with mgmt := { s.mgmt with roll := some { x with done := x.done + 1, since := s.now } } }
        else
          let s := (s.markActive b).setF F.SEC_BOOT_STAT_VERSION (s.fwVersion b)
          let s := { s with power := { s.power with runningB := b } }
          (s.endRoll 2).answerRoll x.hdr Status.ok.code)

/-- `FW_CORE_TIMEOUT` (R549): the core and those that have rolled return to the old image, and `FW_ROLL` is logged. The manual does not
give the status of the answer. -/
def execFwCoreTimeout (core : Fin 4) (s : State) : Host.Outcome State Fault Refusal :=
  .next (match s.rollOf core.val with
    | none => s
    | some x =>
      if s.now ≤ x.since + 500000000 then s
      else
        let s := s.setF F.FLT_FW_STAT_IMAGE (if s.power.runningB then 15 else 0)
        let s := (s.endRoll 3).fault 0x1903 .device 0
        (s.drawn).answerRoll x.hdr (s.free % 256))

/-! ## Calibration (R507, R548) -/

/-- `CAL_CTRL` (R507): a recalibration of a link or of an HBM channel is queued. -/
def execCalCtrl (h : MgmtHdr) (kind element : Nat) (s : State) : Host.Outcome State Fault Refusal :=
  .next (s.request h 0x32 (some operatorRole) (payloadOf [BitVec.ofNat 64 kind, BitVec.ofNat 64 element]) fun s _ =>
    if kind = 0 ∧ element < 192 then
      (if element < 16 * s.part.stacks then (s.queueCal 0 element, some (.ok, [])) else (s, some (.absent, [])))
    else if kind = 1 ∧ element < 22 then
      (if s.part.hasLink element then (s.queueCal 1 element, some (.ok, [])) else (s, some (.absent, [])))
    else (s, some (.badCommand, [])))

end Sys2Proof.Machine
end

