-- ==== Sys2Proof/Machine/Tick.lean ====
section
/-! DEFINITION. What happens at a tick whatever is commanded: `GLB_TIME` (R28), the waits of compute units (R197), the ticks that count
toward the step limits (R161), and the ring runs in circulation (R321). -/

namespace Sys2Proof.Machine

/-- Whether every hosted, unfinished task of a CU waits for input (R172, R197). -/
def State.cuWaits (s : State) (n : Nat) : Bool :=
  let ws := s.unitProg false n
  let x := s.cu n
  let on := (List.range 4).filter (fun t => (cuTasks ws).testBit t)
  let done := on.all (fun t => (nth x.tasks t .fresh).finished)
  !ws.isEmpty && !done && on.all (fun t => match x.canIssue ws t with
    | .input _ _ | .part _ _ | .finished => true
    | _ => false)

/-- Whether a CU has nothing left to do in the step. -/
def State.cuDone (s : State) (n : Nat) : Bool := (s.unitProg false n).isEmpty || (s.cu n).atEnd

/-- Whether a ring of a memory unit is a lane or feed ring of a run in flight (R330). -/
def State.ringOfRun (s : State) (n r : Nat) : Bool :=
  s.ringRuns.any (fun (x : Nat × RingRun) =>
    x.2.lanes.any (fun l => l.mu == n && l.ring == r) || (x.2.feed && x.2.feedMu == n && x.2.feedRing == r))

/-- Whether an address generator waits on a lane or feed ring of a run in flight. -/
def State.agOnRun (s : State) (n a : Nat) : Bool :=
  let g := nth (s.mu n).ags a .fresh
  (g.wait == 3 || g.wait == 4) && (match muRingOf (wordAt (s.unitProg true n) g.pc) with
    | some r => s.ringOfRun n r
    | none => false)

/-- The generators of a memory unit that have not finished. -/
def State.agsLeft (s : State) (n : Nat) : List Nat :=
  let ws := s.unitProg true n
  if ws.isEmpty then []
  else (List.range 4).filter (fun a => muUsed ws a && !(nth (s.mu n).ags a .fresh).finished)

/-- The site index in its Dale of a unit of a cast (R109). -/
def unitSiteOf (mu : Bool) (n : Nat) : Nat := siteOf mu (n % 32)

/-- The units that an endpoint of a channel stands for: itself, or what feeds a steering element; `fuel` bounds a chain of elements. -/
def State.unitsBehind (s : State) (first : Nat) : Nat → Endpoint → List (Bool × Nat)
  | 0, _ => []
  | fuel + 1, e =>
    let d := first + e.rel
    if e.kind = 0 then [(!siteIsCu e.site, unitAt d e.site)]
    else (List.range 3).flatMap (fun p =>
      match (s.chanInto d e.site e.kind p).bind (fun k => s.chanDesc k.1) with
      | some c => s.unitsBehind first fuel c.src
      | none => [])

/-- The units that an endpoint of a channel leads to: itself, or what a steering element feeds. -/
def State.unitsAhead (s : State) (first : Nat) : Nat → Endpoint → List (Bool × Nat)
  | 0, _ => []
  | fuel + 1, e =>
    let d := first + e.rel
    if e.kind = 0 then [(!siteIsCu e.site, unitAt d e.site)]
    else (List.range 2).flatMap (fun p =>
      match (s.chanFrom d e.site e.kind p).bind s.chanDesc with
      | some c => c.dests.flatMap (s.unitsAhead first fuel)
      | none => [])

/-- Whether some unit behind an input port of a unit is one of a list. -/
def State.fedBy (s : State) (first : Nat) (ws : List (Bool × Nat)) (u : Bool × Nat) (port : Nat) : Bool :=
  match (s.chanInto (u.2 / 32) (unitSiteOf u.1 u.2) 0 port).bind (fun k => s.chanDesc k.1) with
  | some c => (s.unitsBehind first 8 c.src).any ws.contains
  | none => false

/-- Whether some unit ahead of an output port of a unit is one of a list. -/
def State.feeds (s : State) (first : Nat) (ws : List (Bool × Nat)) (u : Bool × Nat) (port : Nat) : Bool :=
  match (s.chanFrom (u.2 / 32) (unitSiteOf u.1 u.2) 0 port).bind s.chanDesc with
  | some c => c.dests.any (fun e => (s.unitsAhead first 8 e).any ws.contains)
  | none => false

/-- Whether an unfinished unit waits, each of its tasks or generators on a ring of a run in flight or on a unit of a list. -/
def State.unitWaits (s : State) (first : Nat) (ws : List (Bool × Nat)) (u : Bool × Nat) : Bool :=
  let n := u.2
  if u.1 then
    let left := s.agsLeft n
    !left.isEmpty && left.all (fun a =>
      let g := nth (s.mu n).ags a .fresh
      let port := bitsOf (wordAt (s.unitProg true n) g.pc) 10 2
      s.agOnRun n a || (g.wait == 1 && s.feeds first ws u port) || (g.wait == 2 && s.fedBy first ws u port) ||
      (((g.wait != 6 && decide (3 ≤ g.wait)) || bitsOf (wordAt (s.unitProg true n) g.pc) 0 4 == 6) &&
        left.any (fun b => b != a && s.agOnRun n b)))
  else
    let x := s.cu n
    let prog := s.unitProg false n
    !s.cuDone n && (match x.mm with
      | none => true
      | some m => decide (0 < m.aLeft + m.sLeft)) &&
    (List.range 4).all (fun t => match x.canIssue prog t with
      | .finished => true
      | .input p _ | .part p _ => s.fedBy first ws u p
      | .busy => decide (bitsOf (wordAt prog (nth x.tasks t .fresh).pc) 0 8 = 0x30) &&
          s.feeds first ws u (bitsOf (wordAt prog (nth x.tasks t .fresh).pc) 37 2)
      | .yes => false)

/-- The units of a list that wait on rings of runs, or behind units that do; `fuel` bounds how far behind. -/
def State.waitingUnits (s : State) (first : Nat) (us : List (Bool × Nat)) : Nat → List (Bool × Nat) → List (Bool × Nat)
  | 0, ws => ws
  | fuel + 1, ws => s.waitingUnits first us fuel (ws ++ us.filter (fun u => !ws.contains u && s.unitWaits first ws u))

/-- Whether a tick is one in which every unfinished unit of a cast waits on a ring of a run, through the channels between them (R161).
DEDUCED: a unit that waits for tokens of one that waits on such a ring, or for room in it, waits on that ring. -/
def State.waitsOnRings (s : State) (c : CastRef) : Bool :=
  let left := (c.units.filter (fun n => !s.cuDone n)).map (fun n => (false, n)) ++
    (c.units.filter (fun n => !(s.agsLeft n).isEmpty)).map (fun n => (true, n))
  c.units.any (fun n => (s.agsLeft n).any (fun a => s.agOnRun n a)) &&
  left.all (s.waitingUnits c.first left left.length []).contains

/-- `d` ticks counted toward the step limit of every step in flight (R161). -/
def State.countSteps (s : State) (d : Nat) : State :=
  s.fabric.runs.foldl (fun s (x : Nat × CastRun) =>
    if x.2.stepping && !s.waitsOnRings (s.castRef x.2.cast) then s.setRun x.1 { x.2 with ticks := x.2.ticks + d } else s) s

/-- `d` ticks counted in `CU_WAIT_TICKS` of every unit that waits in a step (R197). -/
def State.countWaits (s : State) (d : Nat) : State :=
  s.fabric.runs.foldl (fun s (x : Nat × CastRun) =>
    if x.2.stepping then
      (s.castRef x.2.cast).units.foldl (fun s n =>
        if s.cuWaits n then s.countWrap F.CU_WAIT_TICKS_COUNT (s.unitWindow n) 0 d else s) s
    else s) s

/-- The ring runs moved on as far as they go. -/
def State.pumpRings (s : State) : State := (s.ringRuns.map (fun x => x.1)).foldl (fun s g => s.ringPump g) s

/-- What the tick that ends still has to decide, since the manual ranks causes of one tick whatever their order: the casts that a cause
stops (R601), the ring runs that a notice ends (R340), the core runs that a trap ends (R288), and the commit points (R407). -/
def State.settleTick (s : State) : State := s.settleStops.settleNotices.settleTraps.settleCommits

/-- One tick of the timebase with what it counts; what the tick that ends has to decide is decided first. -/
def State.passTick (s : State) : State :=
  let d := s.tickOnce.now - s.now
  if d = 0 then s.tickOnce else ((s.settleTick.tickOnce.countSteps d).countWaits d).pumpRings

/-- `TIMEBASE_SLEW` (R30). -/
def execTimebaseSlew (s : State) : Host.Outcome State Fault Refusal :=
  .next (if s.slewDue then s.passTick else s)

end Sys2Proof.Machine
end

