-- ==== Sys2Proof/Machine/Dispatch.lean ====
section
/-! DEFINITION. The dispatch: one arm for each command, each a direct call of that command's meaning. -/

namespace Sys2Proof.Machine

/-- The effect of a command on everything but the queue of waiting commands. -/
def exec (i : Instr) (s : State) : Host.Outcome State Fault Refusal :=
  match i with
  | .powerGood slotId romDisagree => Sys2Proof.Machine.execPowerGood slotId romDisagree s
  | .deviceReady cal => Sys2Proof.Machine.execDeviceReady cal s
  | .pwrfail => Sys2Proof.Machine.execPwrfail s
  | .railUndervoltage rail => Sys2Proof.Machine.execRailUndervoltage rail s
  | .thermtrip => Sys2Proof.Machine.execThermtrip s
  | .governorPeriod g => Sys2Proof.Machine.execGovernorPeriod g s
  | .currentLimit die steps => Sys2Proof.Machine.execCurrentLimit die steps s
  | .currentCeilingExpiry die => Sys2Proof.Machine.execCurrentCeilingExpiry die s
  | .rateWindow west east => Sys2Proof.Machine.execRateWindow west east s
  | .marginEvent site margin => Sys2Proof.Machine.execMarginEvent site margin s
  | .timebaseLock timeref portA portB => Sys2Proof.Machine.execTimebaseLock timeref portA portB s
  | .timerefLoss source => Sys2Proof.Machine.execTimerefLoss source s
  | .sourcePresent source => Sys2Proof.Machine.execSourcePresent source s
  | .sourceRetake source => Sys2Proof.Machine.execSourceRetake source s
  | .comparatorFire n => Sys2Proof.Machine.execComparatorFire n s
  | .windowWrite origin q offset bytes => Sys2Proof.Machine.execWindowWrite origin q offset bytes s
  | .seal origin q slot word => Sys2Proof.Machine.execSeal origin q slot word s
  | .nop q => Sys2Proof.Machine.execNop q s
  | .fenceSignal q => Sys2Proof.Machine.execFenceSignal q s
  | .fenceWait q => Sys2Proof.Machine.execFenceWait q s
  | .waitSatisfied q => Sys2Proof.Machine.execWaitSatisfied q s
  | .waitTimeout q => Sys2Proof.Machine.execWaitTimeout q s
  | .irqDelayExpiry q => Sys2Proof.Machine.execIrqDelayExpiry q s
  | .txBegin q => Sys2Proof.Machine.execTxBegin q s
  | .txCommit q => Sys2Proof.Machine.execTxCommit q s
  | .orderingPoint handle readBackFails => Sys2Proof.Machine.execOrderingPoint handle readBackFails s
  | .commitTimeout handle => Sys2Proof.Machine.execCommitTimeout handle s
  | .txAbort q => Sys2Proof.Machine.execTxAbort q s
  | .set q => Sys2Proof.Machine.execSet q s
  | .get q => Sys2Proof.Machine.execGet q s
  | .castStage q => Sys2Proof.Machine.execCastStage q s
  | .castStageComplete firstDale => Sys2Proof.Machine.execCastStageComplete firstDale s
  | .castSwitch q => Sys2Proof.Machine.execCastSwitch q s
  | .castSwap firstDale => Sys2Proof.Machine.execCastSwap firstDale s
  | .castRun q => Sys2Proof.Machine.execCastRun q s
  | .castEvict q => Sys2Proof.Machine.execCastEvict q s
  | .daleZeroingComplete d => Sys2Proof.Machine.execDaleZeroingComplete d s
  | .move q => Sys2Proof.Machine.execMove q s
  | .fill q => Sys2Proof.Machine.execFill q s
  | .map q => Sys2Proof.Machine.execMap q s
  | .unmap q => Sys2Proof.Machine.execUnmap q s
  | .coreRun q => Sys2Proof.Machine.execCoreRun q s
  | .coreRunTimeout q seq => Sys2Proof.Machine.execCoreRunTimeout q seq s
  | .reqAdmit q => Sys2Proof.Machine.execReqAdmit q s
  | .reqCancel q => Sys2Proof.Machine.execReqCancel q s
  | .serveStart q => Sys2Proof.Machine.execServeStart q s
  | .reqQuery q => Sys2Proof.Machine.execReqQuery q s
  | .ringRun q => Sys2Proof.Machine.execRingRun q s
  | .plan q => Sys2Proof.Machine.execPlan q s
  | .dispatch q => Sys2Proof.Machine.execDispatch q s
  | .routeReturn q => Sys2Proof.Machine.execRouteReturn q s
  | .routeLimit g => Sys2Proof.Machine.execRouteLimit g s
  | .sorterGrant sampler => Sys2Proof.Machine.execSorterGrant sampler s
  | .allReduce q => Sys2Proof.Machine.execAllReduce q s
  | .reduceScatter q => Sys2Proof.Machine.execReduceScatter q s
  | .allGather q => Sys2Proof.Machine.execAllGather q s
  | .broadcast q => Sys2Proof.Machine.execBroadcast q s
  | .allToAll q => Sys2Proof.Machine.execAllToAll q s
  | .barrier q => Sys2Proof.Machine.execBarrier q s
  | .orderTimeout e => Sys2Proof.Machine.execOrderTimeout e s
  | .lagLimit e branch => Sys2Proof.Machine.execLagLimit e branch s
  | .slotFiring d site => Sys2Proof.Machine.execSlotFiring d site s
  | .tokenDelivery d site port => Sys2Proof.Machine.execTokenDelivery d site port s
  | .creditReturn d chan => Sys2Proof.Machine.execCreditReturn d chan s
  | .steer d site element tag => Sys2Proof.Machine.execSteer d site element tag s
  | .join d site element tag => Sys2Proof.Machine.execJoin d site element tag s
  | .taskSwitch cu => Sys2Proof.Machine.execTaskSwitch cu s
  | .castStepEnd firstDale => Sys2Proof.Machine.execCastStepEnd firstDale s
  | .stallLimit firstDale => Sys2Proof.Machine.execStallLimit firstDale s
  | .stepLimit firstDale => Sys2Proof.Machine.execStepLimit firstDale s
  | .cuEnd cu => Sys2Proof.Machine.execCuEnd cu s
  | .cuNext cu => Sys2Proof.Machine.execCuNext cu s
  | .cuJmp cu => Sys2Proof.Machine.execCuJmp cu s
  | .cuBfirst cu => Sys2Proof.Machine.execCuBfirst cu s
  | .cuSetl cu => Sys2Proof.Machine.execCuSetl cu s
  | .cuLoop cu => Sys2Proof.Machine.execCuLoop cu s
  | .cuMm cu => Sys2Proof.Machine.execCuMm cu s
  | .mmComplete cu => Sys2Proof.Machine.execMmComplete cu s
  | .cuLdb cu => Sys2Proof.Machine.execCuLdb cu s
  | .cuLds cu => Sys2Proof.Machine.execCuLds cu s
  | .cuStb cu => Sys2Proof.Machine.execCuStb cu s
  | .cuSts cu => Sys2Proof.Machine.execCuSts cu s
  | .cuDrain cu => Sys2Proof.Machine.execCuDrain cu s
  | .cuBload cu => Sys2Proof.Machine.execCuBload cu s
  | .cuAdd cu => Sys2Proof.Machine.execCuAdd cu s
  | .cuMul cu => Sys2Proof.Machine.execCuMul cu s
  | .cuFma cu => Sys2Proof.Machine.execCuFma cu s
  | .cuExp2 cu => Sys2Proof.Machine.execCuExp2 cu s
  | .cuRcp cu => Sys2Proof.Machine.execCuRcp cu s
  | .cuRsqrt cu => Sys2Proof.Machine.execCuRsqrt cu s
  | .cuMax cu => Sys2Proof.Machine.execCuMax cu s
  | .cuCmp cu => Sys2Proof.Machine.execCuCmp cu s
  | .cuSel cu => Sys2Proof.Machine.execCuSel cu s
  | .cuCvt cu => Sys2Proof.Machine.execCuCvt cu s
  | .cuRed cu => Sys2Proof.Machine.execCuRed cu s
  | .cuRowsum cu => Sys2Proof.Machine.execCuRowsum cu s
  | .cuMov cu => Sys2Proof.Machine.execCuMov cu s
  | .cuMovi cu => Sys2Proof.Machine.execCuMovi cu s
  | .cuSend cu => Sys2Proof.Machine.execCuSend cu s
  | .affRead mu ag => Sys2Proof.Machine.execAffRead mu ag s
  | .affWrite mu ag => Sys2Proof.Machine.execAffWrite mu ag s
  | .affAdd mu ag => Sys2Proof.Machine.execAffAdd mu ag s
  | .listFetch mu ag => Sys2Proof.Machine.execListFetch mu ag s
  | .listStore mu ag => Sys2Proof.Machine.execListStore mu ag s
  | .muSync mu ag => Sys2Proof.Machine.execMuSync mu ag s
  | .agEnd mu ag => Sys2Proof.Machine.execAgEnd mu ag s
  | .patrolScrub mu line outcome => Sys2Proof.Machine.execPatrolScrub mu line outcome s
  | .heatEpoch => Sys2Proof.Machine.execHeatEpoch s
  | .migrationPromote job va => Sys2Proof.Machine.execMigrationPromote job va s
  | .migrationDemote job va => Sys2Proof.Machine.execMigrationDemote job va s
  | .migrationSwitch job va => Sys2Proof.Machine.execMigrationSwitch job va s
  | .fzFread c rd rs1 => Sys2Proof.Machine.execFzFread c rd rs1 s
  | .fzFwait c rd rs1 rs2 => Sys2Proof.Machine.execFzFwait c rd rs1 rs2 s
  | .fzFwaitReturn c => Sys2Proof.Machine.execFzFwaitReturn c s
  | .fzFsig c rs1 rs2 => Sys2Proof.Machine.execFzFsig c rs1 rs2 s
  | .fzFadd c rs1 rs2 => Sys2Proof.Machine.execFzFadd c rs1 rs2 s
  | .fzSeal c rd rs1 rs2 => Sys2Proof.Machine.execFzSeal c rd rs1 rs2 s
  | .fzXlate c rd rs1 => Sys2Proof.Machine.execFzXlate c rd rs1 s
  | .fzExit c rs1 => Sys2Proof.Machine.execFzExit c rs1 s
  | .fzPack c rd rs1 rs2 => Sys2Proof.Machine.execFzPack c rd rs1 rs2 s
  | .fzUnpack c rd rs1 rs2 => Sys2Proof.Machine.execFzUnpack c rd rs1 rs2 s
  | .coreInstruction c act => Sys2Proof.Machine.execCoreInstruction c act s
  | .coreTrap c cause => Sys2Proof.Machine.execCoreTrap c cause s
  | .batchFormation m => Sys2Proof.Machine.execBatchFormation m s
  | .draftPass m => Sys2Proof.Machine.execDraftPass m s
  | .samplerPass m => Sys2Proof.Machine.execSamplerPass m s
  | .commitPoint m => Sys2Proof.Machine.execCommitPoint m s
  | .feedRecord m => Sys2Proof.Machine.execFeedRecord m s
  | .rangeRelease e => Sys2Proof.Machine.execRangeRelease e s
  | .stepWord g index => Sys2Proof.Machine.execStepWord g index s
  | .ringFeed g => Sys2Proof.Machine.execRingFeed g s
  | .ringStall g => Sys2Proof.Machine.execRingStall g s
  | .ringSetup g m => Sys2Proof.Machine.execRingSetup g m s
  | .ringBlock g m => Sys2Proof.Machine.execRingBlock g m s
  | .ringGrant g lane => Sys2Proof.Machine.execRingGrant g lane s
  | .ringAck g lane => Sys2Proof.Machine.execRingAck g lane s
  | .ringAbort g runId cause member fromPred => Sys2Proof.Machine.execRingAbort g runId cause member fromPred s
  | .routeRow g m => Sys2Proof.Machine.execRouteRow g m s
  | .routeEnd g src phase hdr xid => Sys2Proof.Machine.execRouteEnd g src phase hdr xid s
  | .collStep m => Sys2Proof.Machine.execCollStep m s
  | .collCredit gid seq src code => Sys2Proof.Machine.execCollCredit gid seq src code s
  | .read m => Sys2Proof.Machine.execRead m s
  | .readData m => Sys2Proof.Machine.execReadData m s
  | .write m => Sys2Proof.Machine.execWrite m s
  | .writeAck m => Sys2Proof.Machine.execWriteAck m s
  | .atomic m => Sys2Proof.Machine.execAtomic m s
  | .atomicData m => Sys2Proof.Machine.execAtomicData m s
  | .tilePut m => Sys2Proof.Machine.execTilePut m s
  | .tileAck m => Sys2Proof.Machine.execTileAck m s
  | .ringPutResend xid => Sys2Proof.Machine.execRingPutResend xid s
  | .rmTimeout xid => Sys2Proof.Machine.execRmTimeout xid s
  | .faultNotice m => Sys2Proof.Machine.execFaultNotice m s
  | .goingDown m => Sys2Proof.Machine.execGoingDown m s
  | .unreachable m => Sys2Proof.Machine.execUnreachable m s
  | .pData m => Sys2Proof.Machine.execPData m s
  | .pWack m => Sys2Proof.Machine.execPWack m s
  | .plainTimeout link xid => Sys2Proof.Machine.execPlainTimeout link xid s
  | .flit l f => Sys2Proof.Machine.execFlit l f s
  | .lightDetected l => Sys2Proof.Machine.execLightDetected l s
  | .lightLoss l => Sys2Proof.Machine.execLightLoss l s
  | .tuningLoop l settings => Sys2Proof.Machine.execTuningLoop l settings s
  | .ringLockLost l ring => Sys2Proof.Machine.execRingLockLost l ring s
  | .ringsLocked l => Sys2Proof.Machine.execRingsLocked l s
  | .patternDetected l => Sys2Proof.Machine.execPatternDetected l s
  | .codewordLock l => Sys2Proof.Machine.execCodewordLock l s
  | .ident l info => Sys2Proof.Machine.execIdent l info s
  | .identRetry l info => Sys2Proof.Machine.execIdentRetry l info s
  | .credit l credits replay => Sys2Proof.Machine.execCredit l credits replay s
  | .trainingTimeout l => Sys2Proof.Machine.execTrainingTimeout l s
  | .drainComplete l => Sys2Proof.Machine.execDrainComplete l s
  | .recalComplete l => Sys2Proof.Machine.execRecalComplete l s
  | .portLost p => Sys2Proof.Machine.execPortLost p s
  | .laserLow l wave power => Sys2Proof.Machine.execLaserLow l wave power s
  | .calValidityCheck => Sys2Proof.Machine.execCalValidityCheck s
  | .recalibration kind element ok rec => Sys2Proof.Machine.execRecalibration kind element ok rec s
  | .columnRetirement die => Sys2Proof.Machine.execColumnRetirement die s
  | .saddleSpare die row => Sys2Proof.Machine.execSaddleSpare die row s
  | .hbmChannelRemap die => Sys2Proof.Machine.execHbmChannelRemap die s
  | .warmRestart => Sys2Proof.Machine.execWarmRestart s
  | .fwCoreReady core => Sys2Proof.Machine.execFwCoreReady core s
  | .fwCoreTimeout core => Sys2Proof.Machine.execFwCoreTimeout core s
  | .perstN p => Sys2Proof.Machine.execPerstN p s
  | .functionLevelReset p => Sys2Proof.Machine.execFunctionLevelReset p s
  | .surpriseDown p => Sys2Proof.Machine.execSurpriseDown p s
  | .d3hotEntry p => Sys2Proof.Machine.execD3hotEntry p s
  | .portReturn p speed width => Sys2Proof.Machine.execPortReturn p speed width s
  | .busMasterDisable p => Sys2Proof.Machine.execBusMasterDisable p s
  | .apertureAccess p offset wr bytes => Sys2Proof.Machine.execApertureAccess p offset wr bytes s
  | .msixUnmask p vector => Sys2Proof.Machine.execMsixUnmask p vector s
  | .registerWrite via offset size value => Sys2Proof.Machine.execRegisterWrite via offset size value s
  | .glbTimeLowRead via => Sys2Proof.Machine.execGlbTimeLowRead via s
  | .glbMarginRead via => Sys2Proof.Machine.execGlbMarginRead via s
  | .fabSaddleStatRead via => Sys2Proof.Machine.execFabSaddleStatRead via s
  | .altLinkFecRead via l => Sys2Proof.Machine.execAltLinkFecRead via l s
  | .wsuSortStatRead via => Sys2Proof.Machine.execWsuSortStatRead via s
  | .fltLogRead via e word => Sys2Proof.Machine.execFltLogRead via e word s
  | .glbHwinSizeRead reader p w => Sys2Proof.Machine.execGlbHwinSizeRead reader p w s
  | .glbHwinWrite via p w size value => Sys2Proof.Machine.execGlbHwinWrite via p w size value s
  | .glbApertureWrite via p value => Sys2Proof.Machine.execGlbApertureWrite via p value s
  | .glbCmpCtrlWrite via n value => Sys2Proof.Machine.execGlbCmpCtrlWrite via n value s
  | .qeQCqWrite via q value => Sys2Proof.Machine.execQeQCqWrite via q value s
  | .qeQCqHeadWrite via q value => Sys2Proof.Machine.execQeQCqHeadWrite via q value s
  | .srvOutHeadWrite via o value => Sys2Proof.Machine.execSrvOutHeadWrite via o value s
  | .fltNanInfoWrite via n value => Sys2Proof.Machine.execFltNanInfoWrite via n value s
  | .trCcacheUnpin q => Sys2Proof.Machine.execTrCcacheUnpin q s
  | .srvKvPush via n value => Sys2Proof.Machine.execSrvKvPush via n value s
  | .kvListDrain via n value => Sys2Proof.Machine.execKvListDrain via n value s
  | .stop via m => Sys2Proof.Machine.execStop via m s
  | .promote via m => Sys2Proof.Machine.execPromote via m s
  | .promoteNow via => Sys2Proof.Machine.execPromoteNow via s
  | .recal via l => Sys2Proof.Machine.execRecal via l s
  | .fullSearch via l => Sys2Proof.Machine.execFullSearch via l s
  | .entdaa address => Sys2Proof.Machine.execEntdaa address s
  | .setEndpointId transport eid => Sys2Proof.Machine.execSetEndpointId transport eid s
  | .getEndpointId transport => Sys2Proof.Machine.execGetEndpointId transport s
  | .getMctpVersionSupport transport => Sys2Proof.Machine.execGetMctpVersionSupport transport s
  | .getMessageTypeSupport transport => Sys2Proof.Machine.execGetMessageTypeSupport transport s
  | .getVendorDefinedMessageSupport transport => Sys2Proof.Machine.execGetVendorDefinedMessageSupport transport s
  | .getInfo h opcode payload => Sys2Proof.Machine.execGetInfo h opcode payload s
  | .sessionOpen h payload => Sys2Proof.Machine.execSessionOpen h payload s
  | .sessionAuth h payload => Sys2Proof.Machine.execSessionAuth h payload s
  | .sessionClose h => Sys2Proof.Machine.execSessionClose h s
  | .heartbeat h => Sys2Proof.Machine.execHeartbeat h s
  | .regRead h offsets => Sys2Proof.Machine.execRegRead h offsets s
  | .regWrite h offset value => Sys2Proof.Machine.execRegWrite h offset value s
  | .mgmtTxBegin h scope timeout => Sys2Proof.Machine.execMgmtTxBegin h scope timeout s
  | .txSet h entries => Sys2Proof.Machine.execTxSet h entries s
  | .mgmtTxCommit h => Sys2Proof.Machine.execMgmtTxCommit h s
  | .mgmtTxAbort h => Sys2Proof.Machine.execMgmtTxAbort h s
  | .faultLog h index => Sys2Proof.Machine.execFaultLog h index s
  | .telemetry h => Sys2Proof.Machine.execTelemetry h s
  | .attest h nonce => Sys2Proof.Machine.execAttest h nonce s
  | .fwStage h offset bytes => Sys2Proof.Machine.execFwStage h offset bytes s
  | .fwActivate h => Sys2Proof.Machine.execFwActivate h s
  | .calCtrl h kind element => Sys2Proof.Machine.execCalCtrl h kind element s
  | .sessionTimeout r => Sys2Proof.Machine.execSessionTimeout r s
  | .sessionExpiry r => Sys2Proof.Machine.execSessionExpiry r s
  | .nonceExpiry r => Sys2Proof.Machine.execNonceExpiry r s
  | .lockoutEnd r => Sys2Proof.Machine.execLockoutEnd r s
  | .timebaseSlew => Sys2Proof.Machine.execTimebaseSlew s
  | .dataMoverDone q seq => Sys2Proof.Machine.execDataMoverDone q seq s
  | .sortComplete => Sys2Proof.Machine.execSortComplete s
  | .saddleRowFailure die row => Sys2Proof.Machine.execSaddleRowFailure die row s
  | .laserInputRestored l power => Sys2Proof.Machine.execLaserInputRestored l power s
  | .busMasterEnable p => Sys2Proof.Machine.execBusMasterEnable p s

end Sys2Proof.Machine
end

