-- ==== Sys2Proof/Machine/Step.lean ====
section
/-! DEFINITION. The step: the command at the front of the queue runs; on an empty queue one tick of `GLB_TIME` passes. -/

namespace Sys2Proof.Machine

/-- One step: take the command at the front of the queue and run it on the state with the rest of the queue. On an empty
queue one tick passes (R28). DESIGN CHOICE: the table has no row for a tick. -/
def step (s : State) : Host.Outcome State Fault Refusal :=
  match s.pending with
  | [] => .next s.passTick
  | c :: cs => exec c { s with pending := cs }

/-- The state with the command that a word spells put at the front of the queue; unchanged where the word spells none. -/
def State.withFetchWord (s : State) (nbits w : Nat) : State :=
  match decodeTableWord nbits w with
  | some c => { s with pending := c :: s.pending }
  | none => s

end Sys2Proof.Machine
end

