-- ==== Sys2Proof/Safety.lean ====
section
/-! DEFINITION. The terms in which statements speak of runs: frames of a step, a record that starts at the head of its queue, a
management request that passes its checks, and the invariants that every step keeps. -/

namespace Sys2Proof.Machine

/-! ## Frames -/

/-- Every register at an offset outside `offs` reads in `t` as it did in `s`. -/
def SameRegsBut (s t : State) (offs : List Nat) : Prop := ∀ off, off ∉ offs → t.reg off = s.reg off

/-- Every byte of the Terrace, the Basin and the Plain outside `[a, a + n)` reads in `t` as it did in `s`. -/
def SameBytesBut (s t : State) (a n : Nat) : Prop := ∀ c, c < a ∨ a + n ≤ c → t.byte c = s.byte c

/-! ## Records (R47) -/

/-- The record `r` at the head of queue `q` passes steps 1 to 6 of R47 as its opcode gives them, and nothing holds it: it runs now, from the
state `t` that its checks leave (a copy of what `REQ_ADMIT` has read, for one; `s` itself for every other opcode). -/
structure StartsFrom (c : CmdSpec) (s t : State) (q : Nat) (r : Rec) : Prop where
  head : s.headRec q = some r
  opened : s.queueOpen q = true
  fresh : (s.queue q).head = .fresh
  clean : s.headPoisoned q = false
  present : c.present s r = true
  reserved : reservedField [(0, 14, 2)] r = none
  tx : c.takesTx = true ∨ r.tx = 0
  encoding : c.encoding s (s.queueJob q) r = none
  early : c.early s q r = .ok t
  fences : t.fencesOwned c q r = true
  waits : r.wait = true → t.waitMet r.waitFence r.w1.toNat = true ∧ t.fenceErr r.waitFence = false
  second : r.opcode = 0x03 → t.waitMet (bitsOf r.w3 0 16) r.w4.toNat = true ∧ t.fenceErr (bitsOf r.w3 0 16) = false
  free : t.headHeld c q r = false
  owns : c.owns t q r = true

/-- A record that runs now from the state in which it is found. -/
abbrev Starts (c : CmdSpec) (s : State) (q : Nat) (r : Rec) : Prop := StartsFrom c s s q r

/-! ## Management requests (R506, R507) -/

/-- A request of opcode `op` on the sideband is admitted in session `y` of role `r`: `u` is the state after the transport's allowance and
the session's checks, from which the request is carried out. -/
structure Admitted (s : State) (h : MgmtHdr) (op : Nat) (need : Option Nat) (payload : List Byte) (u : State) (r : Nat) (y : Session) :
    Prop where
  opened : s.transportOpen h.transport.val = true
  mode : s.f F.SEC_BOOT_STAT_MODE = 1 ∨ recoveryOpcode op = true
  named : h.session ≠ 0
  checks : ∃ v, s.takeAllowance h.transport.val = some v ∧ v.gate h op payload = (u, .inside r y)
  mayR : r ≤ need.getD 2

/-! ## Compute units -/

/-- The instruction `o` of a compute unit leaves its task as `y` in `t`; nothing else of the device differs but the registers at `offs`. -/
structure TaskGoes (s t : State) (o : CuOp) (y : TaskSt) (offs : List Nat) : Prop where
  unit : t.cu o.n = { s.cu o.n with tasks := setNth (s.cu o.n).tasks o.t y }
  units : ∀ k, k ≠ o.n → t.cu k = s.cu k
  regs : SameRegsBut s t offs
  rest : t = { s with regs := t.regs, fabric := { s.fabric with cus := t.fabric.cus } }

/-- The vector instruction `o` leaves `f i` in lane `i` of the register that it names, in the lanes that it writes; its task goes on at
the next word, with every other lane and register as it was, and the instruction is counted. -/
def VectorResult (s t : State) (o : CuOp) (f : Nat → W32) : Prop :=
  ∃ y, TaskGoes s t o y [R.CU_VEC_ISSUES.at (s.unitWindow o.n)] ∧ y.pc = o.pc + 1 ∧
    (∀ i, i < 64 → y.lane (bitsOf o.w 11 5) i =
      if bitOf (cuMask (s.cuTask o) o.w) i then f i else (s.cuTask o).lane (bitsOf o.w 11 5) i) ∧
    (∀ r i, r ≠ bitsOf o.w 11 5 → i < 64 → y.lane r i = (s.cuTask o).lane r i) ∧
    y.masks = (s.cuTask o).masks ∧ y.loops = (s.cuTask o).loops ∧ y.tb = (s.cuTask o).tb ∧ y.finished = (s.cuTask o).finished

/-! ## Memory units -/

/-- Generator `o.a` of memory unit `o.n` has not finished in the step in flight, and its present instruction is `o`. -/
structure AgReady (s : State) (o : AgOp) : Prop where
  step : s.stepOn (o.n / 32) = some (o.first, o.run)
  prog : o.ws = s.unitProg true o.n
  loaded : o.ws ≠ []
  used : muUsed o.ws o.a = true
  going : (s.ag o).finished = false
  word : o.w = wordAt o.ws (s.ag o).pc

/-- The instruction `o` leaves its generator as `g` in `t`; nothing else of the device differs. -/
structure AgGoes (s t : State) (o : AgOp) (g : AgSt) : Prop where
  unit : t.mu o.n = { s.mu o.n with ags := setNth (s.mu o.n).ags o.a g }
  units : ∀ k, k ≠ o.n → t.mu k = s.mu k
  rest : t = { s with fabric := { s.fabric with mus := t.fabric.mus } }

/-! ## Armature cores -/

/-- Core `c` runs, waits for nothing, and the fetch of `len` bytes at its pc is served from its caches or the memory behind them, with the bytes
`bs`: the instruction then works on the state `u`, in which the core is `x`. -/
structure Fetches (s : State) (c len : Nat) (bs : List Byte) (u : State) (x : CoreSt) : Prop where
  core : ∃ y, s.core c = some y ∧ y.exited = none ∧ y.trapped = none ∧ y.wait = .none ∧ y.pc ≠ 0 ∧ y.pc.toNat % 2 = 0 ∧
    ∃ a z ls, s.coreAccess c true false (lineVas y.pc.toNat len) = (a, .ready, ls) ∧ a.core c = some z ∧
      ls.any (z.markedLine true) = false ∧ z.readAt true ls y.pc.toNat len = bs ∧ u = a.coreCycles c
  runs : s.running = true
  now : u.core c = some x

/-- Core `c` reads `n` unmarked bytes `bs` at a virtual address at once; the state after the access is `v`, with the core `y`. -/
def Loads (s : State) (c va n : Nat) (v : State) (y : CoreSt) (bs : List Byte) : Prop :=
  ∃ ls, s.coreAccess c false false (lineVas va n) = (v, .ready, ls) ∧ v.core c = some y ∧ ls.any (y.markedLine false) = false ∧
    y.readAt false ls va n = bs

/-- Core `c` may write `n` bytes at a virtual address at once, into the lines `ls`; the state after the access is `v`, with the core `y`. -/
def Stores (s : State) (c va n : Nat) (v : State) (y : CoreSt) (ls : List XLine) : Prop :=
  s.coreAccess c false true (lineVas va n) = (v, .ready, ls) ∧ v.core c = some y

/-! ## Messages -/

/-- The message `m` of type `op` arrives on an Altur link that carries flits, on its type's channel, from a chip and for a chip inside the
fence, and it is for this chip (R441, R443). -/
structure Arrives (s : State) (m : Msg) (op : Nat) : Prop where
  up : s.linkState m.link.val = 6 ∨ s.linkState m.link.val = 7
  channel : vcOf op = some m.vc
  altur : m.link.val < 18
  source : s.inFence m.src.toNat = true
  fenced : s.inFence m.dst.toNat = true
  here : m.dst.toNat = s.chip

/-- The response `m` answers the request `x` of one of the types `ops`, which waits for it (R469, R470). -/
structure Awaited (s : State) (m : Msg) (ops : List Nat) (x : Request) : Prop where
  found : s.requestOf m.xid.toNat false = some x
  type : x.msg.op ∈ ops
  open_ : x.busyAt = none
  from_ : x.msg.dst = m.src.toNat

/-! ## Invariants -/

/-- The fuses of `t` come from those of `s` by burning alone (R561, R565, R572): the part, the root hash and the repair fuses stand, and
the security version and the least key index never fall. -/
def FusesKept (s t : State) : Prop :=
  t.fuses.part = s.fuses.part ∧ t.fuses.rootHash = s.fuses.rootHash ∧ t.fuses.repair = s.fuses.repair ∧
  s.fuses.svn ≤ t.fuses.svn ∧ s.fuses.keyMin ≤ t.fuses.keyMin

/-- The memory of the Terrace and the Basin is in canonical form. -/
def MemoryCanonical (s : State) : Prop := memWf s.memory.mem = true

end Sys2Proof.Machine
end

