-- ==== Sys2Proof/Certificates/Slice0/Obligations.lean ====
section
/-! DEFINITION. The statements about the device. Each docstring names the rules that the statement formalises. -/

open Sys2Proof Sys2Proof.Machine

/-! ## Time and power -/

/-- R28, R29. The first lock after power-on takes the highest source present and starts `GLB_TIME` at 0. A source that appears in holdover is
taken; a higher source that has been present for 10 ms takes over from the one in use without stepping `GLB_TIME`; a source lost while
another is present gives way to the first present one. The phase that a change leaves to the slew has a free value. Frames: nothing but
the timebase and `GLB_TIME_STATUS` changes. R30. Once in a thousand ticks a committed offset is absorbed: for a positive remainder the
tick counts two, for a negative one none. With no casts, cores, ring runs or serving at work nothing but the timebase and
`GLB_TIME_STATUS` changes. R36: a rate window's end shows both measured rates. R39: an enabled comparator at its target adds one to its
fence and clears `EN`. R25: a margin is shown as the worst where it is; below the first threshold it is warned of, and below the second it
is critical too. -/
def Obligations.TimebaseFollowsItsSources : Prop :=
  (∀ (s : State) (a b c : Bool), s.tb.locked = false → (a || b || c) = true →
    ∃ t, exec (.timebaseLock a b c) s = .next t ∧ t.tb.locked = true ∧ t.now = 0 ∧
      t.f F.GLB_TIME_STATUS_SOURCE = (if a then 0 else if b then 1 else 2) ∧
      t = { s with regs := t.regs, tb := t.tb } ∧ SameRegsBut s t [R.GLB_TIME_STATUS.at]) ∧
  (∀ (s : State) (k : Fin 3), s.tb.locked = true → s.f F.GLB_TIME_STATUS_SOURCE = 3 →
    ∃ t, exec (.sourcePresent k) s = .next t ∧ t.f F.GLB_TIME_STATUS_SOURCE = k.val ∧ t.f F.GLB_TIME_STATUS_HOLDOVER = 0 ∧
      t.f F.GLB_TIME_STATUS_SRC_CHANGED = 1 ∧ t.now = s.now ∧ t.tb.phase = s.tb.phase + signedOf 64 s.free ∧
      t = { s with regs := t.regs, tb := t.tb, freeCtr := s.freeCtr + 1 } ∧ SameRegsBut s t [R.GLB_TIME_STATUS.at]) ∧
  (∀ (s : State) (k : Fin 3), s.tb.locked = true → k.val < s.f F.GLB_TIME_STATUS_SOURCE → s.f F.GLB_TIME_STATUS_SOURCE ≠ 3 →
    nth s.tb.present k.val false = true → nth s.tb.presentAt k.val 0 + 10000000 ≤ s.now →
    ∃ t, exec (.sourceRetake k) s = .next t ∧ t.f F.GLB_TIME_STATUS_SOURCE = k.val ∧ t.f F.GLB_TIME_STATUS_SRC_CHANGED = 1 ∧
      t.now = s.now ∧ t.tb.phase = s.tb.phase + signedOf 64 s.free ∧ t = { s with regs := t.regs, tb := t.tb, freeCtr := s.freeCtr + 1 } ∧ SameRegsBut s t [R.GLB_TIME_STATUS.at]) ∧
  (∀ (s : State) (k : Fin 3), s.tb.locked = true → s.f F.GLB_TIME_STATUS_SOURCE = k.val →
    firstSource (s.setPresent k.val false).tb.present < 3 → firstSource (s.setPresent k.val false).tb.present ≠ k.val →
    ∃ t, exec (.timerefLoss k) s = .next t ∧
      t.f F.GLB_TIME_STATUS_SOURCE = firstSource (s.setPresent k.val false).tb.present ∧ t.f F.GLB_TIME_STATUS_HOLDOVER = 0 ∧
      t.f F.GLB_TIME_STATUS_SRC_CHANGED = 1 ∧ t.now = s.now ∧ t.tb.phase = s.tb.phase + signedOf 64 s.free ∧
      t = { s with regs := t.regs, tb := t.tb, freeCtr := s.freeCtr + 1 } ∧ SameRegsBut s t [R.GLB_TIME_STATUS.at]) ∧
  (∀ (s : State), s.slewDue = true → s.adjRemain < 0 →
    ∃ t, exec .timebaseSlew s = .next t ∧ t.now = s.now ∧ t.adjRemain = s.adjRemain + 1 ∧
      t = { s with regs := t.regs, tb := t.tb } ∧ SameRegsBut s t [R.GLB_TIME_STATUS.at]) ∧
  (∀ (s : State), s.slewDue = true → 0 < s.adjRemain → s.fabric.runs = [] → s.fabric.paused = [] → s.ringRuns = [] → s.cores = [] →
    s.serve.runs = [] → s.now + 2 < 2 ^ 64 →
    ∃ t, exec .timebaseSlew s = .next t ∧ t.now = s.now + 2 ∧ t.adjRemain = s.adjRemain - 1 ∧
      t = { s with regs := t.regs, tb := t.tb } ∧ SameRegsBut s t [R.GLB_TIME_STATUS.at]) ∧
  (∀ (s : State) (w e : BitVec 16), s.tb.locked = true → 1000000 ≤ s.now - s.tb.rateStart.toNat →
    ∃ t, exec (.rateWindow w e) s = .next t ∧ t.f F.GLB_RATE_RATE_WEST = w.toNat ∧ t.f F.GLB_RATE_RATE_EAST = e.toNat ∧
      t.f F.GLB_RATE_BELOW_FLOOR = s.f F.GLB_RATE_BELOW_FLOOR ∧ t.now = s.now ∧
      t = { s with regs := t.regs, tb := t.tb } ∧ SameRegsBut s t [R.GLB_RATE.at]) ∧
  (∀ (s : State) (n : Fin 64), s.comparatorDue n.val = true →
    s.ownsFence (s.f F.GLB_CMP_CTRL_OWNER_JOB n.val) (s.f F.GLB_CMP_CTRL_FENCE n.val) = true →
    s.fenceValue (s.f F.GLB_CMP_CTRL_FENCE n.val) < fenceMax →
    ∃ t, exec (.comparatorFire n) s = .next t ∧ t.f F.GLB_CMP_CTRL_EN n.val = 0 ∧
      t.fenceValue (s.f F.GLB_CMP_CTRL_FENCE n.val) = s.fenceValue (s.f F.GLB_CMP_CTRL_FENCE n.val) + 1 ∧
      t.fenceErr (s.f F.GLB_CMP_CTRL_FENCE n.val) = s.fenceErr (s.f F.GLB_CMP_CTRL_FENCE n.val) ∧ t.memory = s.memory) ∧
  (∀ (s : State) (site : BitVec 12) (m : BitVec 8), s.siteExists site.toNat = true → 16 ≤ m.toNat → m.toNat < s.f F.GLB_MARGIN_WORST →
    ∃ t, exec (.marginEvent site m) s = .next t ∧ t.f F.GLB_MARGIN_WORST = m.toNat ∧
      t.f F.GLB_MARGIN_WARN_COUNT = s.f F.GLB_MARGIN_WARN_COUNT ∧
      t = { s with regs := t.regs } ∧ SameRegsBut s t [R.GLB_MARGIN.at]) ∧
  (∀ (s u : State) (site : BitVec 12) (m : BitVec 8), s.siteExists site.toNat = true →
    u = (if m.toNat < s.f F.GLB_MARGIN_WORST then s.setF F.GLB_MARGIN_WORST m.toNat else s) →
    exec (.marginEvent site m) s = .next (if m.toNat < 8 then (u.marginWarn site.toNat m.toNat).marginCrit site.toNat m.toNat
      else if m.toNat < 16 then u.marginWarn site.toNat m.toNat else u)) ∧
  (∀ (s : State) (site : BitVec 12) (m : Nat), s.marginWarn site.toNat m =
    ((((s.fault 0x1001 .site site.toNat 0xFF none (BitVec.ofNat 64 m)).count F.GLB_MARGIN_WARN_COUNT).count F.FLT_CAL_STAT_STALE).queueCal 3
      site.toNat))

/-! ## None -/

/-- R583, R594. In a governor period both dies' requested voltages are the lowest that the set-point, the power cap, Tj, HBM3 and the
current-limit ceiling allow, held together where R23 says so. R584: a current limit steps the die's voltage down by 20 mV, counts one
event and imposes a ceiling of 10 ms; at its end the ceiling is gone. -/
def Obligations.GovernorRequestsTheLowestVoltage : Prop :=
  (∀ (s : State) (g : GovInput), s.f F.SEC_BOOT_STAT_MODE = 1 → s.fb F.PWR_STAT_TRIPPED = false →
    ∃ t, exec (.governorPeriod g) s = .next t ∧
      (let sp := clampTo 700 850 (s.f F.PWR_GOV_SETPOINT_MV)
       let h := holdDies s.spanningActive (governDie sp g.vCap g.vTjW g.vHbmW s.power.ceilW).1
         (governDie sp g.vCap g.vTjE g.vHbmE s.power.ceilE).1
       t.f F.PWR_STAT_VID_W = h.1 % 2 ^ 10 ∧ t.f F.PWR_STAT_VID_E = h.2.1 % 2 ^ 10) ∧
      t = { s with regs := t.regs, out := t.out, faults := t.faults, portA := t.portA, portB := t.portB, power := t.power }) ∧
  (∀ (s : State) (g : GovInput), s.f F.SEC_BOOT_STAT_MODE = 1 → s.fb F.PWR_STAT_TRIPPED = false →
    exec (.governorPeriod g) s = .next ((s.measure g).govern g)) ∧
  (∀ (s : State) (die : Fin 2) (v : Nat), die.val = 0 → s.power.ceilW = some v → s.power.ceilWEnd ≤ s.now →
    exec (.currentCeilingExpiry die) s = .next { s with power := { s.power with ceilW := none } }) ∧
  (∀ (s : State) (die : Fin 2) (v : Nat), die.val = 1 → s.power.ceilE = some v → s.power.ceilEEnd ≤ s.now →
    exec (.currentCeilingExpiry die) s = .next { s with power := { s.power with ceilE := none } }) ∧
  (∀ (s u v w : State) (die : Fin 2) (n : Fin 16), s.power.good = true → s.fb F.PWR_STAT_TRIPPED = false →
    u = (s.limitSteps (n.val + 1) die.val).count F.SEC_PLINTH_STAT_CURRENT_EVENTS →
    v = (if s.spanningActive ∨ die.val = 0 then u.setCeiling 0 (u.f F.PWR_STAT_VID_W) else u) →
    w = (if s.spanningActive ∨ die.val = 1 then v.setCeiling 1 (v.f F.PWR_STAT_VID_E) else v) →
    exec (.currentLimit die n) s = .next ((w.setF F.PWR_STAT_LIMITER 4).updateFloor)) ∧
  (∀ (s : State), s.power.good = true → s.fb F.PWR_STAT_TRIPPED = false → s.spanningActive = false → 720 ≤ s.f F.PWR_STAT_VID_W →
    700 ≤ s.f F.PWR_STAT_VID_E →
    ∃ t, exec (.currentLimit 0 0) s = .next t ∧ t.f F.PWR_STAT_VID_W = s.f F.PWR_STAT_VID_W - 20 ∧
      t.f F.PWR_STAT_VID_E = s.f F.PWR_STAT_VID_E ∧ t.f F.PWR_STAT_LIMITER = 4 ∧
      t = { s with regs := t.regs, out := t.out, power := { s.power with
        ceilW := some (s.f F.PWR_STAT_VID_W - 20), ceilWEnd := s.now + 10000000 } } ∧
      SameRegsBut s t [R.PWR_STAT.at, R.SEC_PLINTH_STAT.at, R.GLB_RATE.at])

/-- R2, R511, R564, R581, R582, R587. Power-good samples `SLOT_ID` and starts the boot ROMs; the power-good of a device that had power is a
power cycle, which leaves the fuses and the firmware store and nothing else of the device's state (log entry 137); the end of boot leaves
zeroed memory and mode 1; `PWRFAIL` and an undervoltage mark the failure, log one `DEVICE` fault, send `GOING_DOWN` and flush the log on
both ports, in that order, once; a trip latches, asks 0.60 V of both dies, sends `GOING_DOWN` and logs one `DEVICE` fault. R566, R576. The
boot ROMs start the active image where it passes its checks, the other one where only that passes, and enter recovery mode with `FAULT_N`
low where neither does. R537: a warm restart ends in mode 3 or 2. -/
def Obligations.PowerAndBootEventsTakeEffect : Prop :=
  (∀ (s : State) (slot : BitVec 6) (d : Bool), s.power.good = false →
    exec (.powerGood slot d) s =
      .next (({ s.setF F.GLB_BOARD_SLOT_ID slot.toNat with power := { s.power with good := true } } : State).bootRoms d)) ∧
  (∀ (s u : State) (slot : BitVec 6) (d : Bool), s.power.good = true → u = s.poweredOff →
    exec (.powerGood slot d) s =
      .next (({ u.setF F.GLB_BOARD_SLOT_ID slot.toNat with power := { u.power with good := true } } : State).bootRoms d) ∧
    u.fuses = s.fuses ∧ u.fw = s.fw ∧ u.regs = State.reset.regs ∧ u.memory = State.reset.memory ∧ u.queues = State.reset.queues) ∧
  (∀ (s : State), s.mayReady = true → s.f F.SEC_BOOT_STAT_MODE = 0 →
    ∃ t, exec (.deviceReady []) s = .next t ∧ t.f F.SEC_BOOT_STAT_MODE = 1 ∧ t.f F.GLB_BOARD_FAULT = 0 ∧ t.power.stopped = false ∧
      t.memory.mem = [] ∧ t.f F.TR_BASIN_RSV_RSV_MIB = 22528 ∧ t = { s with regs := t.regs, power := t.power, memory := t.memory } ∧
      SameRegsBut s t [R.FAB_COL_MAP_W.at, R.FAB_COL_MAP_E.at, R.TR_BASIN_RSV.at, R.QE_Q_RING.at 0, R.QE_Q_RING.at 1,
        R.TR_CCACHE_CFG.at, R.SEC_BOOT_STAT.at, R.GLB_BOARD.at]) ∧
  (∀ (s u v : State) (cal : List CalRecord), s.mayReady = true →
    u = (if s.f F.SEC_BOOT_STAT_MODE = 0 then s.zeroAll.columnMaps else s) →
    v = cal.foldl (fun s r => s.putRecord r) u.firmwareValues →
    exec (.deviceReady cal) s = .next ((({ v with power := { v.power with stopped := false } } : State).setF F.SEC_BOOT_STAT_MODE 1).setF
      F.GLB_BOARD_FAULT 0)) ∧
  (∀ (s : State), s.power.good = true → s.fb F.GLB_BOARD_PWRFAIL = false →
    exec .pwrfail s =
      .next (((((({ (s.setF F.GLB_BOARD_PWRFAIL 1).setF F.GLB_BOARD_FAULT 1 with
        power := { s.power with failedAt := s.now } } : State).fault 0x5A02 .device 0).announce 0x29 0).flushPort 0).flushPort 1))) ∧
  (∀ (s : State), s.fb F.GLB_BOARD_PWRFAIL = true → exec .pwrfail s = .next s) ∧
  (∀ (s : State) (k : Fin 9), s.power.good = true → s.fb F.GLB_BOARD_PWRFAIL = false →
    exec (.railUndervoltage k) s =
      exec .pwrfail ((s.setF F.PWR_RAILS_IN_TOL (s.f F.PWR_RAILS_IN_TOL &&& (511 - 2 ^ k.val))).recordRail k.val)) ∧
  (∀ (s : State), s.power.good = true → s.fb F.PWR_STAT_TRIPPED = false →
    exec .thermtrip s =
      .next (((((((s.setF F.PWR_STAT_TRIPPED 1).setF F.GLB_BOARD_THERMTRIP 1).requestVid 0 600).requestVid 1 600).setF
        F.PWR_STAT_LIMITER 6).announce 0x29 0).fault 0x5A03 .device 0).updateFloor) ∧
  (∀ (s : State) (d : Bool), s.fwCheck s.fw.activeB d = 0 →
    s.startImage d = ((s.showFail s.fw.activeB 0).runImage s.fw.activeB).startLinks) ∧
  (∀ (s : State) (d : Bool), s.fwCheck s.fw.activeB d ≠ 0 → s.fwCheck (!s.fw.activeB) false = 0 →
    s.startImage d = ((((s.showFail s.fw.activeB (s.fwCheck s.fw.activeB d)).showFail (!s.fw.activeB) 0).runImage (!s.fw.activeB)).startLinks)) ∧
  (∀ (s : State) (d : Bool), s.fwCheck s.fw.activeB d ≠ 0 → s.fwCheck (!s.fw.activeB) false ≠ 0 →
    (s.startImage d).f F.SEC_BOOT_STAT_MODE = 2 ∧ (s.startImage d).f F.GLB_BOARD_FAULT = 1 ∧
    s.startImage d = { s with regs := (s.startImage d).regs } ∧ SameRegsBut s (s.startImage d) [R.SEC_BOOT_STAT.at, R.GLB_BOARD.at]) ∧
  (∀ (s : State) (b : Bool), (s.runImage b).power.imageOk = true ∧ (s.runImage b).power.runningB = b ∧
    (s.runImage b).f F.SEC_BOOT_STAT_VERSION = s.fwVersion b % 2 ^ 32 ∧ (s.runImage b).fuses = s.fuses ∧ (s.runImage b).memory = s.memory) ∧
  (∀ (s : State), s.mayRestart = true →
    exec .warmRestart s = .next (((([0, 1, 2].foldl (fun s r => s.endSession r)
      ((((s.announce 0x28 2).fenceSelf).queues.map (fun x => x.1)).foldl (fun s q => s.fenceQueue q)
        (s.announce 0x28 2).fenceSelf)).restarted).setF F.SEC_BOOT_STAT_MODE 3).startImage false)) ∧
  (∀ (s : State), s.restarted.fuses = s.fuses ∧ s.restarted.tb = s.tb ∧ s.restarted.txs = [] ∧ s.restarted.pending = s.pending ∧
    s.restarted.frames.basinOwner = [] ∧ (∀ n, 2 ≤ n → n < 256 → s.restarted.jobValid n = false) ∧
    (∀ a, regionOf a = .terrace → s.restarted.byte a = 0) ∧ (∀ a, regionOf a = .basin → s.restarted.byte a = s.byte a) ∧
    (msorted s.regs = true → ∀ e, e < 256 → s.restarted.r R.FLT_LOG_A e = s.r R.FLT_LOG_A e))

/-! ## Windows, records and fences -/

/-- R41 to R44. A word written into a free slot of an open window is held there; a write from elsewhere is dropped and counted under reason 6;
a seal that passes the five conditions holds its record, and a held record whose `SEQ` is the tail's enters the ring; a seal that fails is
rejected under the code of its first failed condition, with its slot cleared. R47, R49, R55, R56. A `NOP`, a `FENCE_SIGNAL` and a
`FENCE_WAIT` that start leave the ring and complete `OK`, the signal applied first. A wait that is over goes on; one at its limit with the
value short completes `TIMEOUT`. R61: the vector is raised at the end of `DELAY`. -/
def Obligations.RecordsAreTakenAndComplete : Prop :=
  (∀ (s : State) (o : Origin) (q : QId) (j : BitVec 12) (i : Fin 7) (off : BitVec 18) (bs : List Byte), s.windowOpen o q.val = true →
    off.toNat = 64 * j.toNat + 8 * i.val → bs.length = 8 → (s.slot q.val j.toNat).held = false →
    exec (.windowWrite o q off bs) s = .next (s.setSlot q.val j.toNat
      { s.slot q.val j.toNat with
        words := setNth (s.slot q.val j.toNat).words i.val (leWord bs)
        written := setNth (s.slot q.val j.toNat).written i.val true })) ∧
  (∀ (s : State) (o : Origin) (q : QId) (off : BitVec 18) (bs : List Byte), s.windowOpen o q.val = false →
    exec (.windowWrite o q off bs) s = .next (s.reject q.val 6)) ∧
  (∀ (s : State) (o : Origin) (q : QId) (j : BitVec 12) (w : W64), s.windowOpen o q.val = true → (s.slot q.val j.toNat).held = false →
    s.sealReason q.val j.toNat w = 0 → s.f F.QE_Q_TAIL_TAIL_SEQ q.val % 4096 ≠ j.toNat →
    (s.slot q.val (s.f F.QE_Q_TAIL_TAIL_SEQ q.val % 4096)).held = false →
    exec (.seal o q j w) s = .next (s.setSlot q.val j.toNat
      { words := setNth (s.slot q.val j.toNat).words 7 w, written := setNth (s.slot q.val j.toNat).written 7 true, held := true })) ∧
  (∀ (s : State) (o : Origin) (q : QId) (j : BitVec 12) (w : W64), s.windowOpen o q.val = true → (s.slot q.val j.toNat).held = false →
    s.sealReason q.val j.toNat w = 0 → bitsOf w 0 48 = s.f F.QE_Q_TAIL_TAIL_SEQ q.val → (s.slot q.val j.toNat).words.length = 8 →
    (s.slot q.val ((s.f F.QE_Q_TAIL_TAIL_SEQ q.val + 1) % 4096)).held = false →
    exec (.seal o q j w) s = .next ((s.setSlot q.val j.toNat
      { words := setNth (s.slot q.val j.toNat).words 7 w, written := setNth (s.slot q.val j.toNat).written 7 true,
        held := true }).enterRing q.val j.toNat)) ∧
  (∀ (s : State) (o : Origin) (q : QId) (j : BitVec 12) (w : W64), s.windowOpen o q.val = true → (s.slot q.val j.toNat).held = false →
    s.sealReason q.val j.toNat w ≠ 0 →
    exec (.seal o q j w) s = .next ((s.clearSlot q.val j.toNat).reject q.val (s.sealReason q.val j.toNat w))) ∧
  (∀ (s : State) (q j : Nat), MemoryCanonical s → msorted (s.queue q).slots = true →
    s.ringAddr q (s.f F.QE_Q_TAIL_TAIL_SEQ q) + 64 ≤ plainBase → (s.slot q j).words.length = 8 →
    (s.enterRing q j).bytes (s.ringAddr q (s.f F.QE_Q_TAIL_TAIL_SEQ q)) 64 = wordsBytes (s.slot q j).words ∧
    (s.enterRing q j).f F.QE_Q_TAIL_TAIL_SEQ q = (s.f F.QE_Q_TAIL_TAIL_SEQ q + 1) % 2 ^ 48 ∧
    (s.enterRing q j).slot q j = Slot.empty ∧ SameRegsBut s (s.enterRing q j) [R.QE_Q_TAIL.at q] ∧
    SameBytesBut s (s.enterRing q j) (s.ringAddr q (s.f F.QE_Q_TAIL_TAIL_SEQ q)) 64) ∧
  (∀ (s : State) (q : QId) (r : Rec), Starts specNop s q.val r → r.opcode = 0x01 →
    exec (.nop q) s = .next ((s.takeHead q.val 0 r).finishFlight q.val (s.headSeq q.val) .ok 0 0)) ∧
  (∀ (s : State) (q : QId) (r : Rec), Starts specFenceSignal s q.val r → r.opcode = 0x02 →
    exec (.fenceSignal q) s = .next (((s.takeHead q.val 0 r).signal (s.queueJob q.val) (bitsOf r.w3 0 16) r.w4.toNat (bitOf r.w3 16) false
      (bitOf r.w3 17)).finishFlight q.val (s.headSeq q.val) .ok 0 0)) ∧
  (∀ (s : State) (q : QId) (r : Rec), Starts specFenceWait s q.val r → r.opcode = 0x03 →
    exec (.fenceWait q) s = .next ((s.takeHead q.val 0 r).finishFlight q.val (s.headSeq q.val) .ok 0 0)) ∧
  (∀ (s : State) (q : QId) (r : Rec) (f v l t0 : Nat), s.headRec q.val = some r → s.headWait q.val = some (f, v, l) →
    s.queueOpen q.val = true → v ≤ s.fenceValue f → s.fenceErr f = false → (s.queue q.val).head = .waitFence t0 → r.opcode ≠ 0x03 →
    s.headHeld (specOf r) q.val r = false → (specOf r).owns s q.val r = true →
    exec (.waitSatisfied q) s = .next ((specOf r).run (s.takeHead q.val (specOf r).engine r) q.val (s.headSeq q.val) r)) ∧
  (∀ (s : State) (q : QId) (r : Rec) (f v l : Nat), s.headRec q.val = some r → s.headWait q.val = some (f, v, l) →
    s.queueOpen q.val = true → v ≤ s.fenceValue f → s.fenceErr f = true →
    exec (.waitSatisfied q) s = .next (s.headDone q.val r .fenced 0)) ∧
  (∀ (s : State) (q : QId) (r : Rec) (f v l : Nat), s.headRec q.val = some r → s.headWait q.val = some (f, v, l) →
    s.queueOpen q.val = true → s.fenceValue f < v → l ≤ s.now →
    exec (.waitTimeout q) s = .next (s.headDone q.val r .timeout 0)) ∧
  (∀ (s : State) (q : QId), s.fb F.QE_Q_IRQ_EN q.val = true → 0 < (s.queue q.val).unraised →
    (s.queue q.val).oldest + 1000 * s.f F.QE_Q_IRQ_DELAY q.val ≤ s.now →
    exec (.irqDelayExpiry q) s = .next (s.queueRaise q.val))

/-- R55. A signal in its job's fence range without add leaves the larger of the old value and the new one, with add the saturating sum, and
never more than 2^63 − 1; it sets `ERR` for a failed record and clears it for `CLEAR_ERR`; no other register changes. R54: outside the
range it is not applied. -/
def Obligations.SignalsMoveFencesForward : Prop :=
  (∀ (s : State) (n f v : Nat) (add err clear : Bool), s.ownsFence n f = true →
    (s.signal n f v add err clear).fenceValue f =
      (if add then min (s.fenceValue f + v) (2 ^ 63 - 1) else max (s.fenceValue f) (min v (2 ^ 63 - 1))) ∧
    s.fenceValue f ≤ (s.signal n f v add err clear).fenceValue f ∧
    (s.signal n f v add err clear).fenceErr f = (!clear && (s.fenceErr f || err)) ∧
    s.signal n f v add err clear = { s with regs := (s.signal n f v add err clear).regs } ∧
    SameRegsBut s (s.signal n f v add err clear) [R.QE_FENCE.at f]) ∧
  (∀ (s : State) (n f v : Nat) (add err clear : Bool), s.ownsFence n f = false → s.signal n f v add err clear = s) ∧
  (∀ (s : State) (q : Nat) (r : Rec) (st : Status), r.signal = true →
    s.recordSignal q r st = s.signal (s.queueJob q) r.signalFence r.w2.toNat r.sigAdd (!(st == .ok || st == .cancelLate || st == .degraded))) ∧
  (∀ (s : State) (q : Nat) (r : Rec) (st : Status), r.signal = false → s.recordSignal q r st = s)

/-- R58 to R60. The completion of a record whose queue has a Basin ring: its signal, then unless it is `QUIET` and `OK` one record at the next
entry with `SEQ`, the status, the opcode, the result, the detail and the next `CSEQ`, and no other byte of memory. R45: a record that
starts leaves the ring and is in flight. -/
def Obligations.CompletionsAreWrittenInOrder : Prop :=
  (∀ (s : State) (q seq : Nat) (r : Rec) (st : Status) (res d : W64), (r.quiet && st == .ok) = true →
    s.finish q seq r st res d = s.recordSignal q r st) ∧
  (∀ (s : State) (q seq : Nat) (r : Rec) (st : Status) (res d : W64), r.signal = false → (r.quiet && st == .ok) = false →
    s.orphan q seq = false → MemoryCanonical s → 2 ≤ s.f F.QE_Q_CTRL_PORT q → s.fb F.QE_Q_IRQ_EN q = false →
    (let a := s.f F.QE_Q_CQ_BASE q + 32 * ((s.queue q).cqTail % s.cqSize q)
     let t := s.finish q seq r st res d
     a + 32 ≤ plainBase →
      t.word a = setBits (setBits (BitVec.ofNat 64 (seq % 2 ^ 48)) 48 8 st.code) 56 8 r.opcode ∧ t.word (a + 8) = res ∧
      t.word (a + 16) = d ∧ t.word (a + 24) = BitVec.ofNat 64 ((s.queue q).cseq + 1) ∧ SameBytesBut s t a 32 ∧
      (t.queue q).cseq = (s.queue q).cseq + 1 ∧ (t.queue q).cqUsed = (s.queue q).cqUsed + 1 ∧
      (t.queue q).cqTail = ((s.queue q).cqTail + 1) % s.cqSize q ∧ t.regs = s.regs)) ∧
  (∀ (s : State) (q seq : Nat) (st : Status) (res d : W64) (x : Flight), s.flight q seq = some x →
    s.finishFlight q seq st res d =
      (s.setQueue q { s.queue q with flights := (s.queue q).flights.filter (fun y => y.seq != seq) }).finish q seq x.cmd
        (if st = .ok ∧ x.degraded then .degraded else st) res d) ∧
  (∀ (s : State) (q e : Nat) (r : Rec),
    (s.takeHead q e r).f F.QE_Q_HEAD_HEAD_SEQ q = (s.f F.QE_Q_HEAD_HEAD_SEQ q + 1) % 2 ^ 48 ∧
    SameRegsBut s (s.takeHead q e r) [R.QE_Q_HEAD.at q] ∧ (s.takeHead q e r).memory = s.memory ∧
    ((s.takeHead q e r).queue q).flights = (s.queue q).flights ++
      [{ seq := s.headSeq q, cmd := r, start := s.now, entry := 0, bytes := 0, phase := 0, fail := none, degraded := false }])

/-! ## Transactions, SET and GET -/

/-- R66 to R70. A `TX_BEGIN` that starts on a free scope opens a transaction under the next handle and completes `OK` with it. A `TX_COMMIT`
whose staged state is valid waits for quiescence from then on; at quiescence every staged value is applied at one ordering point, and at
the timeout without it the transaction rolls back `TIMEOUT`. `TX_ABORT` rolls its transaction back and completes `OK`. R66, R67, R70.
Opening appends one transaction that stages nothing, under a handle that is never 0; a roll-back of a transaction that does not commit
discards it and nothing else; a staged `SET` changes no register. -/
def Obligations.TransactionsOpenCommitAndAbort : Prop :=
  (∀ (s : State) (q : QId) (r : Rec), Starts specTxBegin s q.val r → r.opcode = 0x04 →
    s.scopeHeld (bitsOf r.w3 0 2) (bitsOf r.w3 8 8) = none →
    exec (.txBegin q) s = .next
      ((((s.takeHead q.val 0 r).openTx (bitsOf r.w3 0 2) (bitsOf r.w3 8 8) (.queue q.val) r.w4.toNat).1).finishFlight q.val
        (s.headSeq q.val) .ok (BitVec.ofNat 64 s.nextHandle) 0)) ∧
  (∀ (s : State) (q : QId) (r : Rec) (t : Tx), Starts specTxCommit s q.val r → r.opcode = 0x05 →
    (s.takeHead q.val 0 r).txFor q.val r = .ok t → (s.takeHead q.val 0 r).validate t = none →
    exec (.txCommit q) s = .next
      ((s.takeHead q.val 0 r).setTx { t with committing := true, since := s.now, commitSeq := s.headSeq q.val })) ∧
  (∀ (s u : State) (h : BitVec 16) (t : Tx) (bad : Bool), s.committingTx h.toNat = some t → s.quiet t = true → s.validate t = none →
    (bad && s.burnsKey t) = false → s.ordered t = .ok u → exec (.orderingPoint h bad) s = .next (u.completeCommit t)) ∧
  (∀ (s : State) (h : BitVec 16) (t : Tx), s.committingTx h.toNat = some t → s.quiet t = true → s.validate t = none →
    s.burnsKey t = true → exec (.orderingPoint h true) s = .next ((s.consumeSlot t).rollback t.handle .denied 0)) ∧
  (∀ (s : State) (h : BitVec 16) (t : Tx), s.committingTx h.toNat = some t → s.quiet t = false → t.since + t.timeout ≤ s.now →
    exec (.commitTimeout h) s = .next (s.rollback t.handle .timeout 0)) ∧
  (∀ (s : State) (q : QId) (r : Rec) (t : Tx), Starts specTxAbort s q.val r → r.opcode = 0x06 →
    (s.takeHead q.val 0 r).ownTx q.val r = some t →
    exec (.txAbort q) s = .next
      (((s.takeHead q.val 0 r).rollback t.handle .txAborted 0).finishFlight q.val (s.headSeq q.val) .ok 0 0)) ∧
  (∀ (s : State) (k job timeout : Nat) (o : Opener), 0 < s.nextHandle → s.nextHandle ≤ 0xFFFF →
    (s.openTx k job o timeout).2 = s.nextHandle ∧
    (s.openTx k job o timeout).1.nextHandle = (if s.nextHandle = 0xFFFF then 1 else s.nextHandle + 1) ∧
    (∃ x, (s.openTx k job o timeout).1 = { s with txs := s.txs ++ [x], nextHandle := (s.openTx k job o timeout).1.nextHandle } ∧
      x.handle = s.nextHandle ∧ x.staged = [] ∧ x.casts = [] ∧ x.committing = false ∧
      x.timeout = (if timeout = 0 then 2 ^ 24 else timeout))) ∧
  (∀ (s : State) (h : Nat) (t : Tx) (st : Status) (d : W64), s.tx h = some t → t.committing = false →
    s.rollback h st d = { s with txs := s.txs.filter (fun u => u.handle != h) }) ∧
  (∀ (s u : State) (t : Tx) (off : Nat) (v mask : W64), s.stageSet t off v mask = .ok u →
    u = { s with txs := u.txs } ∧ t.staged.length < 4096) ∧
  (∀ (s : State) (t : Tx) (off : Nat) (v mask : W64) (x : RegInfo) (i j : Nat), regAt? off = some (x, i, j) → x.scope ≠ t.scope →
    s.stageSet t off v mask = .error .badCommand) ∧
  (∀ (s : State) (h : Nat), s.tx h = none → ∀ (st : Status) (d : W64), s.rollback h st d = s)

/-- R50, R67, R118. A `SET` with `TX` zero of a register that its job may write applies its value and completes `OK`, with no mask it changes
nothing, and one of locked bits or of another job's register completes `DENIED`; with a handle it is staged and completes `OK`. A `SET` of
`TR_CCACHE_UNPIN` releases the job's pin on the entry. A `GET` completes `OK` with the register's value, and its read has the register's
effect. -/
def Obligations.SetAndGetReachRegisters : Prop :=
  (∀ (s u : State) (q : QId) (r : Rec) (x : RegInfo) (i j : Nat), Starts specSet s q.val r → r.opcode = 0x40 → r.tx = 0 →
    r.barOffset ≠ R.TR_CCACHE_UNPIN.at → regAt? r.barOffset = some (x, i, j) → r.w5 &&& lockedBits x = 0 → r.w5 ≠ 0 →
    (s.takeHead q.val 0 r).mayWrite (.set q.val) r.barOffset x.reg i = true →
    (s.takeHead q.val 0 r).applyWrite (.set q.val) r.barOffset r.w4 r.w5 = some u →
    exec (.set q) s = .next (u.finishFlight q.val (s.headSeq q.val) .ok 0 0)) ∧
  (∀ (s : State) (q : QId) (r : Rec) (x : RegInfo) (i j : Nat), Starts specSet s q.val r → r.opcode = 0x40 → r.tx = 0 →
    r.barOffset ≠ R.TR_CCACHE_UNPIN.at → regAt? r.barOffset = some (x, i, j) →
    ((r.w5 = 0 → (s.takeHead q.val 0 r).mayWrite (.set q.val) r.barOffset x.reg i = true →
      exec (.set q) s = .next ((s.takeHead q.val 0 r).finishFlight q.val (s.headSeq q.val) .ok 0 0)) ∧
    (r.w5 &&& lockedBits x ≠ 0 ∨ (s.takeHead q.val 0 r).mayWrite (.set q.val) r.barOffset x.reg i = false →
      exec (.set q) s = .next ((s.takeHead q.val 0 r).finishFlight q.val (s.headSeq q.val) .denied 0 0)))) ∧
  (∀ (s u : State) (q : QId) (r : Rec) (t : Tx), Starts specSet s q.val r → r.opcode = 0x40 → r.tx ≠ 0 →
    (s.takeHead q.val 0 r).txFor q.val r = .ok t → (s.takeHead q.val 0 r).stageSet t r.barOffset r.w4 r.w5 = .ok u →
    exec (.set q) s = .next (u.finishFlight q.val (s.headSeq q.val) .ok 0 0)) ∧
  (∀ (s : State) (q : QId) (r : Rec) (x : HotImage), Starts specSet s q.val r → r.opcode = 0x40 → r.tx = 0 →
    r.barOffset = R.TR_CCACHE_UNPIN.at → r.w5 ≠ 0 → mget s.casts.hot (bitsOf (r.w4 &&& r.w5) 0 8) = some x →
    x.pins.contains (s.queueJob q.val) = true →
    exec (.trCcacheUnpin q) s = .next (((s.takeHead q.val 0 r).setHot (mset s.casts.hot (bitsOf (r.w4 &&& r.w5) 0 8)
      { x with pins := sremove x.pins (s.queueJob q.val) })).finishFlight q.val (s.headSeq q.val) .ok 0 0)) ∧
  (∀ (s : State) (q : QId) (r : Rec), Starts specGet s q.val r → r.opcode = 0x41 → r.tx = 0 →
    exec (.get q) s = .next (((s.takeHead q.val 0 r).readEffect false r.barOffset).finishFlight q.val (s.headSeq q.val) .ok
      ((s.takeHead q.val 0 r).readReg r.barOffset) 0))

/-! ## Registers -/

/-- R16, R495. A direct write of 8 aligned bytes to a register that its writer may write takes effect at once; a write to a register of no
special kind leaves each `RW` and `RWS` bit with the new value, clears the `W1C` bits written with 1 and keeps every other bit, and
changes no other register. A direct write that the writer may not make is ignored. -/
def Obligations.RegisterWritesFollowAccessCodes : Prop :=
  (∀ (s u : State) (via : Via) (off : BitVec 26) (v : W64) (t : RegInfo) (i j : Nat), off.toNat % 8 = 0 → off.toNat < 0x2000000 →
    regAt? off.toNat = some (t, i, j) → s.regPresent off.toNat t.reg i = true → s.barServes off.toNat = true →
    s.mayWrite (.direct via) off.toNat t.reg i = true →
    s.writeReg (.direct via) t i j off.toNat v (fieldMask 0 64) = some u →
    exec (.registerWrite via off 8 v) s = .next u) ∧
  (∀ (s : State) (via : Via) (off : BitVec 26) (v : W64) (t : RegInfo) (i j : Nat), off.toNat % 8 = 0 → off.toNat < 0x2000000 →
    regAt? off.toNat = some (t, i, j) → s.regPresent off.toNat t.reg i = true →
    s.mayWrite (.direct via) off.toNat t.reg i = false → exec (.registerWrite via off 8 v) s = .next s) ∧
  (∀ (s : State) (t : RegInfo) (off : Nat) (v mask : W64) (k : Nat), k < 64 →
    ((s.writeFields t off v mask).reg off).getLsbD k =
      (if mask.getLsbD k && v.getLsbD k && (maskOf (· == .w1c) t.fields).getLsbD k then false
       else if mask.getLsbD k && (maskOf (fun a => a == .rw || a == .rws) t.fields).getLsbD k then v.getLsbD k
       else (s.reg off).getLsbD k)) ∧
  (∀ (s : State) (t : RegInfo) (off : Nat) (v mask : W64), SameRegsBut s (s.writeFields t off v mask) [off] ∧
    s.writeFields t off v mask = { s with regs := (s.writeFields t off v mask).regs })

/-- R39, R76, R78, R250, R419, R496, R499. The registers whose writes act, written by those who may: a window or an aperture that is accepted
holds the new fields; `CQ_HEAD` and `SRV_OUT_HEAD` free the records they pass; `QE_Q_CQ` moves an idle queue's completion ring; 1 in
`FLT_NAN_INFO.VALID` clears `VALID`, `HALT` and `COUNT`; a comparator takes `EN`, `VECTOR` and a `FENCE` of its job. R300, R385, R413,
R431, R450, R542. Commands written to registers: a KV page pushed or a class drained by the job's port while the device runs, a stop and a
promotion of a binding by its owner's port, a promotion of the Pendant, and a recalibration or full search of a link by the firmware. From
elsewhere they change nothing. -/
def Obligations.RegistersActForTheirOwners : Prop :=
  (∀ (s : State) (p : PortId) (w : Fin 16) (v : W64), s.barServes (R.GLB_HWIN_SIZE.at p.val w.val) = true →
    hwinBad (s.r R.GLB_HWIN_BASE p.val w.val) v = false →
    ∃ t, exec (.glbHwinWrite (.port p) p w true v) s = .next t ∧ t.f F.GLB_HWIN_SIZE_VALID p.val w.val = bitsOf v 0 1 ∧
      t.f F.GLB_HWIN_SIZE_PAGES p.val w.val = bitsOf v 12 40 ∧ t = { s with regs := t.regs } ∧
      SameRegsBut s t [R.GLB_HWIN_SIZE.at p.val w.val]) ∧
  (∀ (s : State) (p : PortId) (v : W64), s.barServes (R.GLB_APERTURE.at p.val) = true →
    s.jobValid (bitsOf v 1 8) = true → s.f F.QE_JOB_CTRL_OWNER_PORT (bitsOf v 1 8) = p.val →
    ∃ t, exec (.glbApertureWrite (.port p) p v) s = .next t ∧ t.f F.GLB_APERTURE_VALID p.val = bitsOf v 0 1 ∧
      t.f F.GLB_APERTURE_JOB p.val = bitsOf v 1 8 ∧ t.f F.GLB_APERTURE_BASE p.val = bitsOf v 30 21 ∧ t = { s with regs := t.regs } ∧
      SameRegsBut s t [R.GLB_APERTURE.at p.val]) ∧
  (∀ (s : State) (p : PortId) (n : Fin 64) (v : W64), s.f F.QE_JOB_CTRL_OWNER_PORT (s.f F.GLB_CMP_CTRL_OWNER_JOB n.val) = p.val →
    s.jobValid (s.f F.GLB_CMP_CTRL_OWNER_JOB n.val) = true → s.fb F.GLB_CMP_CTRL_OWNED n.val = true → bitOf v 0 = false →
    s.comparatorFence n.val v = true →
    ∃ t, exec (.glbCmpCtrlWrite (.port p) n v) s = .next t ∧ t.f F.GLB_CMP_CTRL_EN n.val = 0 ∧
      t.f F.GLB_CMP_CTRL_VECTOR n.val = bitsOf v 17 11 ∧ t.f F.GLB_CMP_CTRL_FENCE n.val = bitsOf v 28 16 ∧ t = { s with regs := t.regs } ∧
      SameRegsBut s t [R.GLB_CMP_CTRL.at n.val]) ∧
  (∀ (s : State) (p : PortId) (q : QId) (v : W64), s.barServes (R.QE_Q_CQ.at q.val) = true → s.bound q.val = true →
    s.f F.QE_Q_CTRL_PORT q.val = p.val → (s.queue q.val).flights = [] → v.toNat % (32 * s.cqSize q.val) = 0 →
    exec (.qeQCqWrite (.port p) q v) s = .next (s.setR R.QE_Q_CQ v q.val)) ∧
  (∀ (s : State) (p : PortId) (q : QId) (v : W64), s.barServes (R.QE_Q_CQ_HEAD.at q.val) = true → s.bound q.val = true →
    s.jobPort (.port p) (s.queueJob q.val) = true →
    (bitsOf v 0 16 + 2 ^ 16 - s.f F.QE_Q_CQ_HEAD_CQ_HEAD q.val) % s.cqSize q.val ≤ (s.queue q.val).cqUsed →
    ∃ t, exec (.qeQCqHeadWrite (.port p) q v) s = .next t ∧ t.f F.QE_Q_CQ_HEAD_CQ_HEAD q.val = bitsOf v 0 16 ∧
      (t.queue q.val).cqUsed =
        (s.queue q.val).cqUsed - (bitsOf v 0 16 + 2 ^ 16 - s.f F.QE_Q_CQ_HEAD_CQ_HEAD q.val) % s.cqSize q.val ∧
      t = { s with regs := t.regs, queues := t.queues } ∧ SameRegsBut s t [R.QE_Q_CQ_HEAD.at q.val]) ∧
  (∀ (s : State) (p : PortId) (o : QId) (v : W64), s.fb F.SRV_OUT_CTRL_VALID o.val = true →
    s.jobPort (.port p) (s.f F.SRV_OUT_CTRL_OWNER_JOB o.val) = true →
    (v.toNat % 2 ^ 20 + 2 ^ 20 - s.f F.SRV_OUT_HEAD_HEAD o.val) % 2 ^ s.f F.SRV_OUT_CTRL_LOG2 o.val ≤ (s.outRing o.val).used →
    ∃ t, exec (.srvOutHeadWrite (.port p) o v) s = .next t ∧ t.f F.SRV_OUT_HEAD_HEAD o.val = v.toNat % 2 ^ 20 ∧
      (t.outRing o.val).used = (s.outRing o.val).used -
        (v.toNat % 2 ^ 20 + 2 ^ 20 - s.f F.SRV_OUT_HEAD_HEAD o.val) % 2 ^ s.f F.SRV_OUT_CTRL_LOG2 o.val ∧
      t = { s with regs := t.regs, serve := t.serve } ∧ SameRegsBut s t [R.SRV_OUT_HEAD.at o.val]) ∧
  (∀ (s : State) (p : PortId) (n : JobId) (v : W64), s.barServes (R.FLT_NAN_INFO.at n.val) = true → s.jobPort (.port p) n.val = true →
    bitOf v 0 = true →
    ∃ t, exec (.fltNanInfoWrite (.port p) n v) s = .next t ∧ t.f F.FLT_NAN_INFO_VALID n.val = 0 ∧ t.f F.FLT_NAN_INFO_HALT n.val = 0 ∧
      t.f F.FLT_NAN_INFO_COUNT n.val = 0 ∧ t = { s with regs := t.regs } ∧ SameRegsBut s t [R.FLT_NAN_INFO.at n.val]) ∧
  (∀ (s : State) (p : PortId) (n : JobId) (v : W64), s.running = true → s.jobPort (.port p) n.val = true → bitOf v 63 = false →
    exec (.srvKvPush (.port p) n v) s = .next (s.kvPush n.val (bitsOf v 0 5) (bitsOf v 5 29))) ∧
  (∀ (s : State) (p : PortId) (n : JobId) (v : W64), s.running = true → s.jobPort (.port p) n.val = true →
    exec (.kvListDrain (.port p) n v) s = .next (s.kvDrain n.val (bitsOf v 0 5))) ∧
  (∀ (s : State) (p : PortId) (m : BindId) (x : ServeRun), s.bindPort (.port p) m.val = true → mget s.serve.runs m.val = some x →
    x.items ≠ [] → exec (.stop (.port p) m) s = .next (s.setServeRun m.val { x with stop := true })) ∧
  (∀ (s : State) (p : PortId) (m : BindId), s.bindPort (.port p) m.val = true →
    exec (.promote (.port p) m) s = .next { s with serve := { s.serve with promote := sinsert s.serve.promote m.val } }) ∧
  (∀ (s : State) (p : PortId), s.isPendant = true → s.faults.promoting = false → s.fb F.FLT_PENDANT_PROMOTED = false →
    exec (.promoteNow (.port p)) s = .next (((s.newXid.1.flood 3 0 s.newXid.2 none).noticePartner 3 0 s.newXid.2).startPromotion 5 0)) ∧
  (∀ (s : State) (l : LinkId), s.part.hasLink l.val = true → s.linkState l.val = 6 → s.otherUp l.val = false →
    exec (.recal .firmware l) s = .next (s.setLink l.val { s.link l.val with recalHeld := true })) ∧
  (∀ (s : State) (l : LinkId), s.part.hasLink l.val = true → s.linkState l.val = 6 → s.otherUp l.val = true →
    exec (.recal .firmware l) s = .next
      (((s.setLink l.val { s.link l.val with recalHeld := false }).beginRecovery .link l.val).beginDrain l.val 8)) ∧
  (∀ (s : State) (l : LinkId), s.part.hasLink l.val = true →
    exec (.fullSearch .firmware l) s = .next (s.setLink l.val { s.link l.val with forceSearch := true })) ∧
  (∀ (s : State) (p : PortId) (l : LinkId), exec (.recal (.port p) l) s = .next s ∧ exec (.fullSearch (.port p) l) s = .next s)

/-- R31, R37, R165, R377, R454, R499, R523. Reads that change what they show, in a device that serves the register: the low half of `GLB_TIME`
latches the high half for its reader, whose 32-bit read of that half then returns it; `GLB_MARGIN.WORST` goes back to 0xFF; `MAX_LEAD`,
`PEAK_SYM` and `MAX_WAIT` clear; a port's read of a log entry marks it. Each read returns the value before the change. -/
def Obligations.ReadsReturnAndClear : Prop :=
  (∀ (s : State) (p : PortId), s.barServes 0x100 = true →
    exec (.glbTimeLowRead (.port p)) s = .next
      (({ s with tb := s.tb.setShadow (.port p) (BitVec.ofNat 32 (s.now / 2 ^ 32)) } : State).emit
        (.readData (.port p) false (leBytes 4 s.now))) ∧
    ({ s with tb := s.tb.setShadow (.port p) (BitVec.ofNat 32 (s.now / 2 ^ 32)) } : State).read32 (.port p) 0x104 =
      BitVec.ofNat 32 (s.now / 2 ^ 32)) ∧
  (∀ (s : State) (via : Via), s.barServes R.GLB_MARGIN.at = true →
    exec (.glbMarginRead via) s = .next
      ((s.setF F.GLB_MARGIN_WORST 0xFF).emit (.readData via false (leBytes 8 (s.r R.GLB_MARGIN).toNat)))) ∧
  (∀ (s : State) (via : Via), s.barServes R.FAB_SADDLE_STAT.at = true →
    exec (.fabSaddleStatRead via) s = .next
      ((s.setF F.FAB_SADDLE_STAT_MAX_LEAD 0).emit (.readData via false (leBytes 8 (s.r R.FAB_SADDLE_STAT).toNat)))) ∧
  (∀ (s : State) (via : Via) (l : LinkId), s.barServes (R.ALT_LINK_FEC.at l.val) = true → s.part.hasLink l.val = true →
    exec (.altLinkFecRead via l) s = .next ((s.setF F.ALT_LINK_FEC_PEAK_SYM 0 l.val).emit
      (.readData via false (leBytes 8 (s.r R.ALT_LINK_FEC l.val).toNat)))) ∧
  (∀ (s : State) (via : Via), s.part.hasWatershed = true →
    exec (.wsuSortStatRead via) s = .next ((s.emit (.readData via false (leBytes 8 (s.r R.WSU_SORT_STAT).toNat))).setF
      F.WSU_SORT_STAT_MAX_WAIT 0)) ∧
  (∀ (s : State) (p : PortId) (e : Fin 256), s.barServes (R.FLT_LOG_A.at e.val) = true →
    exec (.fltLogRead (.port p) e 0) s = .next (({ s with faults := { s.faults with
      readMarks := sinsert s.faults.readMarks e.val } } : State).emit
        (.readData (.port p) false (leBytes 8 (s.r R.FLT_LOG_A e.val).toNat)))) ∧
  (∀ (s : State) (reader p : PortId) (w : Fin 16), s.barServes (R.GLB_HWIN_SIZE.at p.val w.val) = true →
    exec (.glbHwinSizeRead reader p w) s = .next (s.emit (.readData (.port reader) false
      (leBytes 8 (s.r R.GLB_HWIN_SIZE p.val w.val).toNat))))

/-! ## Absent units, reductions and the fault log -/

/-- R5. Every register in the window of a unit that the variant does not carry reads as zero, and a write to it changes nothing: the windows
of the Meander engine, of the Watershed unit, of the compute and memory units, of the Dales and of the links. -/
def Obligations.AbsentUnitsReadZero : Prop :=
  ∀ (s : State) (off : BitVec 26) (t : RegInfo) (i j : Nat), regAt? off.toNat = some (t, i, j) →
    ((0x1800000 ≤ off.toNat ∧ off.toNat < 0x1900000 ∧ s.part.hasMeander = false) ∨
      (0x1900000 ≤ off.toNat ∧ off.toNat < 0x1A00000 ∧ s.part.hasWatershed = false) ∨
      (0x800000 ≤ off.toNat ∧ off.toNat < 0x1800000 ∧ s.windowExists i = false) ∨
      (0x200000 ≤ off.toNat ∧ off.toNat < 0x800000 ∧ t.reg ∈ [R.TR_SLOT, R.FAB_BORDER] ∧ s.hasDale i = false) ∨
      (0x1C00000 ≤ off.toNat ∧ t.reg ∈ [R.ALT_LINK_CTRL, R.ALT_LINK_STAT, R.ALT_LINK_PEER, R.ALT_LINK_OPT, R.ALT_LINK_ERR, R.ALT_LINK_FEC] ∧
        s.part.hasLink i = false)) →
    s.readReg off.toNat = 0 ∧
    ∀ (via : Via) (size : Nat) (v : W64), exec (.registerWrite via off size v) s = .next s

/-! ## Casts -/

/-- R113 to R116. A `CAST_STAGE` whose header has been read goes on to its checks, and its completion leaves the cast in the standby slots; a
`CAST_SWITCH` waits for the runs on its Dales, or is staged in its transaction; at the swap the slots change and it completes `OK`; a
`CAST_RUN` begins its first step; a `CAST_EVICT` empties the slots it names and completes `OK`; a zeroed Dale may be staged again. -/
def Obligations.CastCommandsTakeEffect : Prop :=
  (∀ (s u v : State) (q : QId) (r : Rec), Starts specCastStage s q.val r → r.opcode = 0x08 → u = s.takeHead q.val 1 r →
    u.stageReads q.val (s.headSeq q.val) (u.queueJob q.val) r.w3.toNat 256 = .ok (v, none) →
    exec (.castStage q) s = .next (v.stageStep q.val (s.headSeq q.val))) ∧
  (∀ (s : State) (d : DaleId) (x : Staging) (img : List Byte) (marks : List Nat) (l : Loaded),
    s.casts.staging.find? (fun x => (s.castRef x.cast).first == d.val) = some x → s.outstanding (moverIssuer x.q x.seq) = [] →
    (∀ k ∈ (s.castRef x.cast).dales, s.casts.zeroing.contains k = false) → s.imageOf (s.castRef x.cast) x.hit = .ok (img, marks) →
    (if x.hit then .ok (loadAll img (s.castRef x.cast).count)
      else checkImage img (s.castRef x.cast).header (s.castRef x.cast).first (s.castRef x.cast).count) = .ok l →
    chanMarked img (s.castRef x.cast).count marks = false → s.saddleBroken (s.castRef x.cast) = false →
    exec (.castStageComplete d) s = .next (s.stageDone x (s.castRef x.cast) img marks l)) ∧
  (∀ (s u : State) (q : QId) (r : Rec) (k : Nat), Starts specCastSwitch s q.val r → r.opcode = 0x09 → r.tx = 0 →
    u = s.takeHead q.val 0 r → u.switchCast r.firstDale r.daleCount = some k → (u.standbySlot r.firstDale).state ≠ .deferred →
    exec (.castSwitch q) s = .next u) ∧
  (∀ (s u : State) (q : QId) (r : Rec) (t : Tx) (k : Nat), Starts specCastSwitch s q.val r → r.opcode = 0x09 → r.tx ≠ 0 →
    u = s.takeHead q.val 0 r → u.txFor q.val r = .ok t → t.scope = .cast →
    (u.applyStaged t.casts).switchCast r.firstDale r.daleCount = some k →
    exec (.castSwitch q) s = .next ((u.setTx { t with
      casts := t.casts ++ [⟨r.firstDale, r.daleCount, false, false, s.headSeq q.val⟩] }).finishFlight q.val (s.headSeq q.val) .ok 0 0)) ∧
  (∀ (s : State) (d : DaleId) (q k : Nat) (x : Flight), s.switchFlight d.val = some (q, x) →
    s.runsOn d.val x.cmd.daleCount = false → s.ringHolds d.val x.cmd.daleCount = false → s.outstanding (moverIssuer q x.seq) = [] →
    s.switchCast d.val x.cmd.daleCount = some k → (s.standbySlot d.val).state ≠ .deferred →
    exec (.castSwap d) s = .next ((s.swapSlots d.val x.cmd.daleCount k).endFlight q x.seq .ok 0 0)) ∧
  (∀ (s u : State) (q : QId) (r : Rec) (k : Nat) (ds : List Binding), Starts specCastRun s q.val r → r.opcode = 0x0A →
    u = s.takeHead q.val 0 r → u.runCast r.firstDale r.daleCount = some k →
    u.prepareRun (u.queueJob q.val) (u.castRef k) r.w6.toNat = .ok ds →
    exec (.castRun q) s = .next
      ((u.takeCastTurn q.val).startRun (.command q.val (s.headSeq q.val)) (u.queueJob q.val) k (bitsOf r.w5 0 32) ds)) ∧
  (∀ (s u : State) (q : QId) (r : Rec), Starts specCastEvict s q.val r → r.opcode = 0x0B → r.tx = 0 → bitOf r.w4 16 = false →
    u = s.takeHead q.val 0 r →
    exec (.castEvict q) s = .next ((u.evictStandby r.castDales).finishFlight q.val (s.headSeq q.val) .ok 0 0)) ∧
  (∀ (s u : State) (q : QId) (r : Rec), Starts specCastEvict s q.val r → r.opcode = 0x0B → r.tx = 0 → bitOf r.w4 16 = true →
    u = s.takeHead q.val 0 r → (∀ d ∈ r.castDales, u.runsOn d 1 = false) →
    exec (.castEvict q) s = .next ((u.evictActive r.castDales).finishFlight q.val (s.headSeq q.val) .ok 0 0)) ∧
  (∀ (s : State) (d : DaleId), exec (.daleZeroingComplete d) s =
    .next { s with casts := { s.casts with zeroing := s.casts.zeroing.filter (fun a => a != d.val) } })

/-- R114. A swap of the Dales `first` to `first + count − 1` makes the new cast active on each of them; what was active there is the standby,
deferred where its footprint meets the new one's; the slots of every other Dale, the memory and the queues stand. R116, R599. A Dale that
a commit gives to another job reads zero throughout its Terrace, with no mark left in it; its zeroing is under way, and no cast is left in
its slots. -/
def Obligations.CastSlotsChangeTogether : Prop :=
  (∀ (s : State) (first count k : Nat),
    (∀ d, first ≤ d → d < first + count →
      (s.swapSlots first count k).activeSlot d = { state := .ready, cast := k } ∧
      (s.swapSlots first count k).standbySlot d = (if (s.activeSlot d).state = .empty then .empty else
        { state := if footprintsMeet (s.castRef k).header (s.castRef (s.activeSlot d).cast).header then .deferred else .ready,
          cast := (s.activeSlot d).cast })) ∧
    (∀ d, d < first ∨ first + count ≤ d →
      (s.swapSlots first count k).activeSlot d = s.activeSlot d ∧ (s.swapSlots first count k).standbySlot d = s.standbySlot d) ∧
    (s.swapSlots first count k).memory = s.memory ∧ (s.swapSlots first count k).queues = s.queues ∧
    SameRegsBut s (s.swapSlots first count k) [R.FAB_SADDLE_STAT.at]) ∧
  (∀ (s : State) (d : Nat), d < 32 →
    (∀ a, 0x2000000 * d ≤ a → a < 0x2000000 * (d + 1) → (s.moveDale d).byte a = 0 ∧ (s.moveDale d).poisoned a 1 = false) ∧
    d ∈ (s.moveDale d).casts.zeroing ∧ ((s.moveDale d).activeSlot d).state = .empty ∧ ((s.moveDale d).standbySlot d).state = .empty)

/-! ## Movers, mapping and migration -/

/-- R106. A `MOVE` and a `FILL` whose lists are well formed begin their first entry; a mover that is done with reading an entry goes on once
it is written; after the last entry it completes `OK` with the bytes moved, or `POISONED` where a write met a poisoned leaf. -/
def Obligations.MoversWorkThroughTheirLists : Prop :=
  (∀ (s u : State) (q : QId) (r : Rec) (src dst : List Entry) (x : Flight), Starts specMove s q.val r → r.opcode = 0x10 →
    u = s.takeHead q.val 1 r → u.readList (u.queueJob q.val) r.w3.toNat (moveCount r) = .ok (src, false) →
    u.readList (u.queueJob q.val) r.w4.toNat (moveCount r) = .ok (dst, false) → listsBad src dst false = none →
    u.flight q.val (s.headSeq q.val) = some x →
    exec (.move q) s = .next (u.beginEntry q.val x)) ∧
  (∀ (s u : State) (q : QId) (r : Rec) (dst : List Entry) (x : Flight), Starts specFill s q.val r → r.opcode = 0x11 →
    u = s.takeHead q.val 1 r → u.readList (u.queueJob q.val) r.w3.toNat (moveCount r) = .ok (dst, false) →
    listsBad [] dst true = none → u.flight q.val (s.headSeq q.val) = some x →
    exec (.fill q) s = .next (u.beginEntry q.val x)) ∧
  (∀ (s v : State) (q : QId) (seq : BitVec 48) (x y : Flight), s.flightOf q.val seq.toNat 0x10 0x11 = some x →
    s.flight q.val x.seq = some x → s.outstanding (moverIssuer q.val x.seq) = [] → x.phase = 1 → v = s.writeEntry q.val x →
    v.flight q.val x.seq = some y → v.outstanding (moverIssuer q.val x.seq) = [] → y.phase = 2 →
    exec (.dataMoverDone q seq) s = .next (v.nextEntry q.val y)) ∧
  (∀ (s : State) (q : Nat) (x : Flight), moveCount x.cmd ≤ x.entry + 1 →
    s.nextEntry q x = s.endFlight q x.seq (if x.fail.isSome then .poisoned else .ok)
      (BitVec.ofNat 64 (listBits (s.moveLists (s.queueJob q) x.cmd).2 / 8)) 0)

/-- R51, R96. A `MAP` that the quota bears maps every page of its template, frees the tables and frames that no entry uses, and completes
`OK`; one that the quota does not bear completes `NO_SPACE` with nothing changed. An unmap of pages that are each mapped at their size, or
not at all, clears them and completes `OK`. -/
def Obligations.MapAndUnmapChangeTheTables : Prop :=
  (∀ (s u : State) (q : QId) (r : Rec), Starts specMap s q.val r → r.opcode = 0x12 → mapUnmaps r = false → u = s.takeHead q.val 2 r →
    u.quotaBears (u.queueJob q.val) ((u.mapNewFrames r).length +
      u.newTableFrames (u.queueJob q.val) (mapMissing (u.pageTable (u.queueJob q.val)) r).length) = true →
    ∃ v, v = (List.range (mapPages r)).foldl (fun s i => s.mapPage (u.queueJob q.val) r.w4 (r.w3.toNat + i * 2 ^ leafLog2 r.w4)
        (leafAddr r.w4 + i * 2 ^ leafLog2 r.w4) (fun f => (u.mapNewFrames r).contains f)) u ∧
      exec (.map q) s = .next (((v.setPageTable (u.queueJob q.val) (pruneTables 3 (v.pageTable (u.queueJob q.val)))).releaseFrames
        (u.queueJob q.val)).finishFlight q.val (s.headSeq q.val) .ok 0 0)) ∧
  (∀ (s u : State) (q : QId) (r : Rec), Starts specMap s q.val r → r.opcode = 0x12 → mapUnmaps r = false → u = s.takeHead q.val 2 r →
    mapPages r ≠ 0 → u.quotaBears (u.queueJob q.val) ((u.mapNewFrames r).length +
      u.newTableFrames (u.queueJob q.val) (mapMissing (u.pageTable (u.queueJob q.val)) r).length) = false →
    exec (.map q) s = .next (u.finishFlight q.val (s.headSeq q.val) .noSpace 0 0)) ∧
  (∀ (s u : State) (q : QId) (r : Rec), Starts specMap s q.val r → r.opcode = 0x12 → mapUnmaps r = true → u = s.takeHead q.val 2 r →
    (∀ va ∈ mapVas r, unmapFind (u.pageTable (u.queueJob q.val)) (leafLog2 r.w4) va ≠ .bad) →
    ∃ p v, p = ((mapVas r).filter (fun va => unmapFind (u.pageTable (u.queueJob q.val)) (leafLog2 r.w4) va == .clear)).foldl
        (fun p va => clearGroup p (leafLog2 r.w4) va) (u.pageTable (u.queueJob q.val)) ∧
      v = u.setPageTable (u.queueJob q.val) (pruneTables 3 p) ∧
      exec (.unmap q) s = .next (((v.dropMig (u.queueJob q.val)).releaseFrames (u.queueJob q.val)).finishFlight q.val (s.headSeq q.val)
        .ok 0 0))

/-- R92 to R97. A walk that finds a well-formed leaf of its level, aligned, of the tier its address has and with the permission asked for
translates to the leaf's address plus the offset in the page; otherwise the fault's reason is 4, 5, 6, 3 or 2, in that order. A page that
has been written is found at every address in it. -/
def Obligations.TranslationFollowsTheLeaf : Prop :=
  (∀ (s : State) (n va l : Nat) (wr : Bool) (e : W64), s.walk n va = .leaf e l → leafLeaf e = true → 12 ≤ leafLog2 e →
    leafLog2 e ≤ 30 → leafLevel (leafLog2 e) = l → leafAddr e % 2 ^ leafLog2 e = 0 → s.tierOf (leafAddr e) = leafTier e →
    (if wr then leafW e else leafR e) = true → s.translate n va wr = .ok (leafAddr e + va % 2 ^ leafLog2 e) e) ∧
  (∀ (s : State) (n va l : Nat) (wr : Bool) (e : W64), s.walk n va = .leaf e l →
    (leafLeaf e = false ∨ leafLog2 e < 12 ∨ 30 < leafLog2 e ∨ leafLevel (leafLog2 e) ≠ l) → s.translate n va wr = .fault 4 l) ∧
  (∀ (s : State) (n va l : Nat) (wr : Bool) (e : W64), s.walk n va = .leaf e l → leafLeaf e = true → 12 ≤ leafLog2 e →
    leafLog2 e ≤ 30 → leafLevel (leafLog2 e) = l →
    (leafAddr e % 2 ^ leafLog2 e ≠ 0 → s.translate n va wr = .fault 5 l) ∧
    (leafAddr e % 2 ^ leafLog2 e = 0 → s.tierOf (leafAddr e) ≠ leafTier e → s.translate n va wr = .fault 6 l)) ∧
  (∀ (s : State) (n va l : Nat) (e : W64), s.walk n va = .leaf e l → leafLeaf e = true → 12 ≤ leafLog2 e → leafLog2 e ≤ 30 →
    leafLevel (leafLog2 e) = l → leafAddr e % 2 ^ leafLog2 e = 0 → s.tierOf (leafAddr e) = leafTier e →
    (leafW e = false → s.translate n va true = .fault 3 l) ∧ (leafR e = false → s.translate n va false = .fault 2 l)) ∧
  (∀ (s : State) (n va : Nat) (wr : Bool), 2 ^ 48 ≤ va → s.translate n va wr = .fault 1 3) ∧
  (∀ (p : PageTable) (z va a : Nat) (e : W64), 12 ≤ z → z ≤ 30 → va % 2 ^ z = 0 → va ≤ a → a < va + 2 ^ z →
    mget (writeGroup p z va e).entries (entryKey (leafLevel z) a) = some e)

/-- R100 to R102. At a heat epoch every counter halves. A hot page of the Plain begins its copy into a free frame of the pool; where the pool
is full and a hot page waits, the coldest promoted page begins its way home; a completed copy takes effect with the leaf rewritten. -/
def Obligations.HotPagesMigrate : Prop :=
  (∀ (s : State), s.frames.epoch + 2 ^ s.f F.TR_MIG_CTRL_EPOCH_LOG2 ≤ s.now →
    exec .heatEpoch s = .next { s with frames := { s.frames with
      mig := s.frames.mig.map (fun m => { m with heat := m.heat / 2 })
      epoch := s.now - (s.now - s.frames.epoch) % 2 ^ s.f F.TR_MIG_CTRL_EPOCH_LOG2 } }) ∧
  (∀ (s : State) (n : JobId) (va : W64) (m : MigPage), s.migPage n.val va.toNat = some m → m.frame = none → m.copying = 0 →
    s.f F.TR_MIG_CTRL_PROMOTE ≤ m.heat → s.freePoolFrames n.val ≠ [] →
    ∃ f, f ∈ s.freePoolFrames n.val ∧
      exec (.migrationPromote n va) s = .next (s.drawn.updMig n.val m.va (fun m => { m with copying := 1, copyFrame := f }))) ∧
  (∀ (s : State) (n : JobId) (va : W64) (m : MigPage) (f : Nat), s.migPage n.val va.toNat = some m → m.frame = some f → m.copying = 0 →
    m.heat < s.f F.TR_MIG_CTRL_DEMOTE → (∀ x ∈ s.frames.mig, x.job = n.val → x.frame.isSome = true → m.heat ≤ x.heat) →
    s.freePoolFrames n.val = [] →
    (∃ x ∈ s.frames.mig, x.job = n.val ∧ x.frame = none ∧ s.f F.TR_MIG_CTRL_PROMOTE ≤ x.heat) →
    exec (.migrationDemote n va) s = .next (s.updMig n.val m.va (fun m => { m with copying := 2 }))) ∧
  (∀ (s : State) (n : JobId) (va : W64) (m : MigPage), s.migPage n.val va.toNat = some m → m.copying = 1 →
    exec (.migrationSwitch n va) s = .next
      ((((((s.copyRange m.home (frameAddr m.copyFrame) frameBytes).rewriteLeaf n.val m.va 1 (frameAddr m.copyFrame))).updMig n.val m.va
        (fun m => { m with frame := some m.copyFrame, dirty := false, copying := 0 })).settlePoolFrame n.val m.copyFrame true).count
        F.TR_MIG_STAT_PROMOTED n.val)) ∧
  (∀ (s u : State) (n : JobId) (va : W64) (m : MigPage) (f : Nat), s.migPage n.val va.toNat = some m → m.copying = 2 → m.frame = some f →
    u = (if m.dirty then s.copyRange (frameAddr f) m.home frameBytes else s) →
    exec (.migrationSwitch n va) s = .next
      ((((u.rewriteLeaf n.val m.va 2 m.home).updMig n.val m.va
        (fun m => { m with frame := none, dirty := false, copying := 0 })).settlePoolFrame n.val f false).count F.TR_MIG_STAT_DEMOTED n.val)) ∧
  (∀ (s : State) (n f : Nat), s.inMigPool n f = false →
    (s.settlePoolFrame n f true).frames.basinOwner = mset s.frames.basinOwner f n ∧
    (mget s.frames.basinOwner f = some n → s.mapsFrame n (frameAddr f) = false →
      (s.settlePoolFrame n f false).frames.basinOwner = merase s.frames.basinOwner f))

/-! ## Armature cores -/

/-- R53, R283. A `CORE_RUN` that starts puts every core of its mask at the entry address with the argument in a0 and its number in a1; at the
timeout its cores stop and it completes `TIMEOUT`. R288: a trap stops its core, with the core, the cause and the pc for `RESULT`, and when
the tick is over it ends the run, `DENIED` for a page fault and `BAD_COMMAND` otherwise, by the lowest core that has trapped; the timeout
goes before it (log entry 136). A `CORE_RUN` with an empty mask completes with `RESULT` 0. R283, R284, R288. An instruction of the base
set that a core fetches does what the core's execution says of it: its results go to the registers it names, the pc goes past it or to its
target, and x0 stays 0; no other core, register or byte of memory changes for one that neither loads nor stores. What an instruction of
RISC-V computes comes with its command (log entry 121). A failure of the core is a `CORE` fault of its domain. -/
def Obligations.CoresRunTheirInstructions : Prop :=
  (∀ (s : State) (q : QId) (r : Rec), Starts specCoreRun s q.val r → r.opcode = 0x14 → r.w5 ≠ 0 →
    ∃ t, exec (.coreRun q) s = .next t ∧
      (∀ c, c ∈ coreMask r → t.core c = some (.start q.val (s.headSeq q.val) (s.queueJob q.val) c r.w3 r.w4)) ∧
      (∀ c, c ∉ coreMask r → t.core c = s.core c) ∧ t = { s.takeHead q.val 0 r with cores := t.cores }) ∧
  (∀ (s : State) (q : QId) (seq : BitVec 48) (x : Flight), s.flightOf q.val seq.toNat 0x14 0x14 = some x →
    s.coresLate q.val x.seq = true → exec (.coreRunTimeout q seq) s = .next (s.endCores q.val x.seq .timeout 0 0)) ∧
  (∀ (s : State) (q : QId) (r : Rec), Starts specCoreRun s q.val r → r.opcode = 0x14 → r.w5 = 0 →
    exec (.coreRun q) s = .next ((s.takeHead q.val 0 r).finishFlight q.val (s.headSeq q.val) .ok 0)) ∧
  (∀ (s : State) (c : CoreId) (cause : BitVec 8) (x : CoreSt), s.core c.val = some x → s.running = true → x.exited = none →
    x.trapped = none →
    exec (.coreTrap c cause) s = .next (s.setCore c.val { x with
      trapped := some ((if cause = 12 ∨ cause = 13 ∨ cause = 15 then Status.denied else .badCommand).code,
        trapResult c.val cause.toNat x.pc, 0), wait := .none })) ∧
  (∀ (s : State) (q seq c : Nat) (x : CoreSt) (st : Status) (v d : W64), s.trapOf q seq = some (st.code, v, d) →
    s.endTrapped q seq = (if s.coresLate q seq then s.endCores q seq .timeout else s.endCores q seq st v d) ∧
    (c ∈ s.runCores q seq → (∀ k ∈ s.runCores q seq, k < c → (s.core k).bind (fun y => y.trapped) = none) → s.core c = some x →
      x.trapped ≠ none → (s.runCores q seq).Pairwise (fun a b => a < b) → s.trapOf q seq = x.trapped)) ∧
  (∀ (s u : State) (c : CoreId) (act : CoreAct) (bs : List Byte) (x : CoreSt), act ≠ .fail → Fetches s c.val (actLen act) bs u x →
    leNat bs % 128 ≠ 0x0B → exec (.coreInstruction c act) s = .next (u.coreDo c.val x act)) ∧
  (∀ (s : State) (c : CoreId), exec (.coreInstruction c .fail) s = .next (s.coreFailed c.val)) ∧
  (∀ (u : State) (c : Nat) (x : CoreSt) (len rd : Nat) (v : W64), u.core c = some x → x.x.length = 32 → rd < 32 →
    ∃ y, (u.coreNext c len rd v).core c = some y ∧ y.pc = x.pc + BitVec.ofNat 64 len ∧
      (∀ i, i < 32 → y.xr i = if i = 0 then 0 else if i = rd then v else x.xr i) ∧
      (∀ d, d ≠ c → (u.coreNext c len rd v).core d = u.core d) ∧ u.coreNext c len rd v = { u with cores := (u.coreNext c len rd v).cores }) ∧
  (∀ (u : State) (c : Nat) (x : CoreSt) (n : Nat) (rd : Fin 32) (v : W64) (fl : BitVec 5),
    u.coreDo c x (.intOp n rd v fl) = (u.setCore c (x.raiseFlags fl)).coreNext c n rd.val v) ∧
  (∀ (u : State) (c : Nat) (x : CoreSt) (n : Nat) (rd : Fin 32) (a : W64),
    u.coreDo c x (.jump n rd a) = u.setCore c { x.setX rd.val (x.pc + BitVec.ofNat 64 n) with pc := a }) ∧
  (∀ (u v : State) (c : Nat) (x y : CoreSt) (n : Nat) (w : MemW) (sg : Bool) (rd rs1 : Fin 32) (imm : W64) (bs : List Byte),
    Loads u c (x.xr rs1.val + imm).toNat (widthBytes w) v y bs →
    u.coreDo c x (.load n w sg rd rs1 imm) = v.coreNext c n rd.val (loadValue w sg bs)) ∧
  (∀ (u v : State) (c : Nat) (x y : CoreSt) (n : Nat) (w : MemW) (rs2 rs1 : Fin 32) (imm : W64) (ls : List XLine),
    Stores u c (x.xr rs1.val + imm).toNat (leBytes (widthBytes w) (x.xr rs2.val).toNat).length v y ls →
    u.coreDo c x (.store n w rs2 rs1 imm) =
      ((v.setCore c (y.writeAt ls (x.xr rs1.val + imm).toNat (leBytes (widthBytes w) (x.xr rs2.val).toNat))).noteRange y.job
        (x.xr rs1.val + imm).toNat (leBytes (widthBytes w) (x.xr rs2.val).toNat).length).coreNext c n 0 0)

/-- R285 to R287. What each instruction of the custom opcode does once it is fetched from a core's pc: fence reads, waits, signals and adds in
the job's range; a record sealed into a local queue; an address translated; a row packed and unpacked in the format of `fzcfg`; and the
end of the run. Each leaves the pc at the next instruction, but for a wait that is not over and the end of the run. -/
def Obligations.FzInstructionsTakeEffect : Prop :=
  (∀ (s u : State) (c : CoreId) (rd rs1 : Fin 32) (bs : List Byte) (x : CoreSt), Fetches s c.val 4 bs u x →
    leNat bs = fzWord 0 0 rd.val rs1.val (leNat bs / 2 ^ 20 % 32) → u.ownsFence x.job (x.xr rs1.val).toNat = true →
    exec (.fzFread c rd rs1) s = .next (u.coreNext c.val 4 rd.val (u.r R.QE_FENCE (x.xr rs1.val).toNat))) ∧
  (∀ (s u : State) (c : CoreId) (rd rs1 rs2 : Fin 32) (bs : List Byte) (x : CoreSt), Fetches s c.val 4 bs u x →
    leNat bs = fzWord 0 1 rd.val rs1.val rs2.val → u.ownsFence x.job (x.xr rs1.val).toNat = true →
    (x.xr rs2.val).toNat ≤ u.fenceValue (x.xr rs1.val).toNat →
    exec (.fzFwait c rd rs1 rs2) s = .next (u.fwaitReturn c.val x (x.xr rs1.val).toNat rd.val)) ∧
  (∀ (s : State) (c : CoreId) (x : CoreSt) (f v rd : Nat), s.core c.val = some x → x.wait = .fence f v rd → s.running = true →
    v ≤ s.fenceValue f →
    exec (.fzFwaitReturn c) s = .next (s.setCore c.val
      { x.setX rd (s.r R.QE_FENCE f) with
        pc := x.pc + 4, wait := .none, code := [], data := x.data.filter (fun l => l.2.dirty) })) ∧
  (∀ (s u : State) (c : CoreId) (rs1 rs2 : Fin 32) (bs : List Byte) (x : CoreSt), Fetches s c.val 4 bs u x →
    leNat bs = fzWord 0 2 (leNat bs / 2 ^ 7 % 32) rs1.val rs2.val → u.ownsFence x.job (x.xr rs1.val).toNat = true →
    x.data.filter (fun l => l.2.dirty) = [] → u.outstanding (.core c.val) = [] →
    ∃ t y, exec (.fzFsig c rs1 rs2) s = .next t ∧
      t.fenceValue (x.xr rs1.val).toNat = max (u.fenceValue (x.xr rs1.val).toNat) (min (x.xr rs2.val).toNat (2 ^ 63 - 1)) ∧
      t.core c.val = some y ∧ y.pc = x.pc + 4 ∧ y.x = x.x ∧ y.wait = .none ∧ t = { u with regs := t.regs, cores := t.cores } ∧
      SameRegsBut u t [R.QE_FENCE.at (x.xr rs1.val).toNat]) ∧
  (∀ (s u : State) (c : CoreId) (rs1 rs2 : Fin 32) (bs : List Byte) (x : CoreSt), Fetches s c.val 4 bs u x →
    leNat bs = fzWord 0 3 (leNat bs / 2 ^ 7 % 32) rs1.val rs2.val → u.ownsFence x.job (x.xr rs1.val).toNat = true →
    x.data.filter (fun l => l.2.dirty) = [] → u.outstanding (.core c.val) = [] →
    ∃ t y, exec (.fzFadd c rs1 rs2) s = .next t ∧
      t.fenceValue (x.xr rs1.val).toNat = min (u.fenceValue (x.xr rs1.val).toNat + (x.xr rs2.val).toNat) (2 ^ 63 - 1) ∧
      t.core c.val = some y ∧ y.pc = x.pc + 4 ∧ y.x = x.x ∧ y.wait = .none ∧ t = { u with regs := t.regs, cores := t.cores } ∧
      SameRegsBut u t [R.QE_FENCE.at (x.xr rs1.val).toNat]) ∧
  (∀ (s u v : State) (c : CoreId) (rd rs1 rs2 : Fin 32) (bs body : List Byte) (x y : CoreSt), Fetches s c.val 4 bs u x →
    leNat bs = fzWord 0 4 rd.val rs1.val rs2.val → (x.xr rs1.val).toNat % 8 = 0 → u.bound (bitsOf (x.xr rs2.val) 0 12) = true →
    u.f F.QE_Q_CTRL_PORT (bitsOf (x.xr rs2.val) 0 12) = 2 → u.queueJob (bitsOf (x.xr rs2.val) 0 12) = x.job →
    Loads u c.val (x.xr rs1.val).toNat 56 v y body →
    exec (.fzSeal c rd rs1 rs2) s = .next ((v.coreSeal (bitsOf (x.xr rs2.val) 0 12) (bitsOf (x.xr rs2.val) 16 48) body).1.coreNext c.val 4
      rd.val (BitVec.ofNat 64 (v.coreSeal (bitsOf (x.xr rs2.val) 0 12) (bitsOf (x.xr rs2.val) 16 48) body).2))) ∧
  (∀ (s u : State) (c : CoreId) (rd rs1 : Fin 32) (bs : List Byte) (x : CoreSt) (g : Nat) (e : W64), Fetches s c.val 4 bs u x →
    leNat bs = fzWord 0 5 rd.val rs1.val (leNat bs / 2 ^ 20 % 32) → u.translate x.job (x.xr rs1.val).toNat false = .ok g e →
    exec (.fzXlate c rd rs1) s = .next (u.coreNext c.val 4 rd.val (BitVec.ofNat 64 g))) ∧
  (∀ (s u : State) (c : CoreId) (rs1 : Fin 32) (bs : List Byte) (x : CoreSt), Fetches s c.val 4 bs u x →
    leNat bs = fzWord 0 6 (leNat bs / 2 ^ 7 % 32) rs1.val (leNat bs / 2 ^ 20 % 32) → x.data.filter (fun l => l.2.dirty) = [] →
    x.poisonWrite = false → u.runCores x.q x.seq = [c.val] → u.outstanding (.core c.val) = [] →
    exec (.fzExit c rs1) s = .next ((u.setCore c.val { x with exited := some (x.xr rs1.val), wait := .none, code := [], data := [] }).endCores
      x.q x.seq .ok (x.xr rs1.val) 0)) ∧
  (∀ (s u v w : State) (c : CoreId) (rd rs1 rs2 : Fin 32) (bs row : List Byte) (x y z : CoreSt) (ls : List XLine),
    Fetches s c.val 4 bs u x → leNat bs = fzWord 1 0 rd.val rs1.val rs2.val → x.fzFormatOk = true →
    Loads u c.val (x.xr rs1.val).toNat 256 v y row →
    Stores v c.val (x.xr rs2.val).toNat (x.packRow (f32sOf row)).length w z ls →
    exec (.fzPack c rd rs1 rs2) s = .next (((w.setCore c.val (z.writeAt ls (x.xr rs2.val).toNat (x.packRow (f32sOf row)))).noteRange z.job
      (x.xr rs2.val).toNat (x.packRow (f32sOf row)).length).coreNext c.val 4 rd.val (BitVec.ofNat 64 (x.packRow (f32sOf row)).length))) ∧
  (∀ (s u v w : State) (c : CoreId) (rd rs1 rs2 : Fin 32) (bs row : List Byte) (x y z : CoreSt) (ls : List XLine),
    Fetches s c.val 4 bs u x → leNat bs = fzWord 1 1 rd.val rs1.val rs2.val → x.fzFormatOk = true →
    Loads u c.val (x.xr rs1.val).toNat x.packedLen v y row →
    Stores v c.val (x.xr rs2.val).toNat ((x.unpackRow row).flatMap (fun v => leBytes 4 v.toNat)).length w z ls →
    exec (.fzUnpack c rd rs1 rs2) s = .next (((w.setCore c.val (z.writeAt ls (x.xr rs2.val).toNat
      ((x.unpackRow row).flatMap (fun v => leBytes 4 v.toNat)))).noteRange z.job (x.xr rs2.val).toNat
        ((x.unpackRow row).flatMap (fun v => leBytes 4 v.toNat)).length).coreNext c.val 4 rd.val 256))

/-! ## Request serving -/

/-- R383, R384, R407. A `REQ_ADMIT` whose image passes its checks takes the entry they give, zeroes its penalty table, counts it and answers
with its index and generation; a `REQ_QUERY` answers with word 0 of the entry, as it stands, and writes all of it where an address is
given, and one of an entry of another job is `DENIED`; a `REQ_CANCEL` of a live request waits for the end that it asks for, and one for an
entry that is `FREE` or of another generation completes `CANCEL_LATE` with `RESULT` 1. R383. The checks on an admission image fail in
their order: the state, a `SHARD` where there is no Meander, the checks of the range, the other fields, the owners, the room. -/
def Obligations.RequestsAreAdmittedAskedAndCancelled : Prop :=
  (∀ (s t u v : State) (q : QId) (r : Rec) (i : Nat) (e : Req), StartsFrom specReqAdmit s t q.val r → r.opcode = 0x38 →
    u = t.takeHead q.val 0 r → e = imageReq (mgetD u.serve.images q.val []) → u.admitCheck (u.queueJob q.val) r.w4 e = .ok i →
    u.serveWrite (u.queueJob q.val) (e.f qfPenVa) (List.replicate 32768 0#8) false = .ok v →
    ∃ w x, x = u.admitted (u.queueJob q.val) q.val i e ∧
      exec (.reqAdmit q) s = .next (w.finishFlight q.val (t.headSeq q.val) .ok (BitVec.ofNat 64 (i + 65536 * x.f qfGen)) 0) ∧
      w.req i = x ∧ (∀ j, j ≠ i → w.req j = v.req j) ∧
      w.f F.SRV_TABLE_STAT_FREE = (v.f F.SRV_TABLE_STAT_FREE - 1) % 2 ^ 17 ∧
      w.f F.SRV_JOB_STAT_IN_USE (u.queueJob q.val) = (v.f F.SRV_JOB_STAT_IN_USE (u.queueJob q.val) + 1) % 2 ^ 17 ∧
      SameRegsBut v w [R.SRV_TABLE_STAT.at, R.SRV_JOB_STAT.at (u.queueJob q.val)] ∧
      w = { v with regs := w.regs, serve := { v.serve with reqs := w.serve.reqs } }) ∧
  (∀ (s u : State) (q : QId) (r : Rec), Starts specReqQuery s q.val r → r.opcode = 0x3B → r.w4 = 0 → u = s.takeHead q.val 0 r →
    exec (.reqQuery q) s = .next (u.finishFlight q.val (s.headSeq q.val) .ok (nth (u.req (bitsOf r.w3 0 16)).words 0 0) 0)) ∧
  (∀ (s u t : State) (q : QId) (r : Rec), Starts specReqQuery s q.val r → r.opcode = 0x3B → r.w4 ≠ 0 → u = s.takeHead q.val 0 r →
    u.serveWrite (u.queueJob q.val) r.w4.toNat (wordsBytes (u.req (bitsOf r.w3 0 16)).words) false = .ok t →
    exec (.reqQuery q) s = .next (t.finishFlight q.val (s.headSeq q.val) .ok (nth (u.req (bitsOf r.w3 0 16)).words 0 0) 0)) ∧
  (∀ (s : State) (q : Nat) (r : Rec), specReqQuery.owns s q r = ((s.req (bitsOf r.w3 0 16)).f qfState == 0 ||
    (s.req (bitsOf r.w3 0 16)).f qfJob == s.queueJob q)) ∧
  (∀ (s : State) (q : Nat) (r : Rec), (s.req (bitsOf r.w3 0 16)).f qfState ≠ 0 → (s.req (bitsOf r.w3 0 16)).f qfJob ≠ s.queueJob q →
    s.headHeld specReqQuery q r = false → s.startHead specReqQuery q r = s.headDone q r .denied) ∧
  (∀ (s u : State) (q : QId) (r : Rec) (i : Nat) (e : Req), Starts specReqCancel s q.val r → r.opcode = 0x39 → u = s.takeHead q.val 0 r →
    i = bitsOf r.w3 0 16 → e = u.req i → e.f qfGen = bitsOf r.w3 16 16 → e.live = true → e.f qfCancel ≠ 1 →
    exec (.reqCancel q) s = .next ((u.setReq i { e with cancels := e.cancels ++ [(q.val, s.headSeq q.val)] }).cancelRequest i)) ∧
  (∀ (s u : State) (q : QId) (r : Rec) (i : Nat), Starts specReqCancel s q.val r → r.opcode = 0x39 → u = s.takeHead q.val 0 r →
    i = bitsOf r.w3 0 16 → ((u.req i).f qfState = 0 ∨ (u.req i).f qfGen ≠ bitsOf r.w3 16 16) →
    exec (.reqCancel q) s = .next (u.finishFlight q.val (s.headSeq q.val) .cancelLate 1 0)) ∧
  (∀ (s : State) (n : Nat) (op : W64) (e : Req), e.f qfState ≠ 1 → e.f qfState ≠ 10 → e.f qfState ≠ 11 →
    s.admitCheck n op e = .error .badCommand) ∧
  (∀ (s : State) (n : Nat) (op : W64) (e : Req), e.f qfState = 10 → s.part.hasMeander = false → s.admitCheck n op e = .error .absent) ∧
  (∀ (s : State) (n : Nat) (op : W64) (e : Req) (st : Status), e.f qfState = 1 → s.rangeCheck n e = some st →
    s.admitCheck n op e = .error st) ∧
  (∀ (s : State) (n : Nat) (op : W64) (e : Req), e.f qfState = 1 → s.rangeCheck n e = none →
    e.f qfMax ≤ e.f qfPromptLen → s.admitCheck n op e = .error .badCommand) ∧
  (∀ (s : State) (n : Nat) (op : W64) (e : Req), e.f qfState = 1 → s.rangeCheck n e = none → s.imageBad e = false →
    s.imageDenied n e = true → s.admitCheck n op e = .error .denied) ∧
  (∀ (s : State) (n : Nat) (op : W64) (e : Req), e.f qfState = 1 → s.rangeCheck n e = none → s.imageBad e = false →
    s.imageDenied n e = false → s.f F.SRV_JOB_MAX_ENTRIES n ≤ s.f F.SRV_JOB_STAT_IN_USE n → s.admitCheck n op e = .error .noSpace) ∧
  (∀ (s : State) (n i : Nat) (op : W64) (e : Req), s.admitCheck n op e = .ok i → i < 65536 ∧ (s.req i).f qfState = 0 ∧
    s.f F.SRV_JOB_STAT_IN_USE n < s.f F.SRV_JOB_MAX_ENTRIES n ∧ 0 < s.ringFree (e.f qfOut) ∧
    (bitOf op 16 = true → ∀ j, j < i → (s.req j).f qfState ≠ 0) ∧ (bitOf op 16 = false → i = bitsOf op 0 16))

/-- R385, R386, R389, R400. A `SERVE_START` that starts runs on its binding from batch forming on; a batch that has been formed is written and
passes to its draft passes or to the target; a draft pass and a target pass begin their cast's step and go on from the sampler; a step
whose logit rows are sampled commits when the tick of its commit point is over (log entry 136). R403, R404. A feed record of the expected
sequence goes to its `FOLLOW` entry, and the next sequence is expected. R303: the range of an ended request is released, and its entry is
`FREE`. R413: `STOP` between steps ends the run. -/
def Obligations.ServingStepsAdvance : Prop :=
  (∀ (s : State) (q : QId) (r : Rec), Starts specServeStart s q.val r → r.opcode = 0x3A →
    ∃ t x, exec (.serveStart q) s = .next t ∧ mget t.serve.runs r.binding = some x ∧ x.q = q.val ∧ x.seq = s.headSeq q.val ∧ x.done = 0 ∧
      x.items = [] ∧ x.stop = false ∧ t.f F.SRV_RUN_RUNNING r.binding = 1 ∧ t.f F.SRV_RUN_PHASE r.binding = 1 ∧
      t = { s.takeHead q.val 0 r with regs := t.regs, serve := { s.serve with runs := t.serve.runs } } ∧
      SameRegsBut (s.takeHead q.val 0 r) t [R.SRV_RUN.at r.binding]) ∧
  (∀ (s u v w : State) (m : BindId) (x y : ServeRun) (is : List Item), mget s.serve.runs m.val = some x → x.items = [] →
    s.running = true → (∀ t ∈ s.txs, t.committing = false) → s.bindOwned m.val = true →
    s.formBatch m.val (some (x.q, x.seq)) = (u, is) → is ≠ [] →
    y = { x with items := is, number := (s.f F.SRV_RUN_STEP m.val + 1) % 2 ^ 58, pass := 1, drafted := false, target := false } →
    v = (u.setServeRun m.val y).setF F.SRV_RUN_PHASE (if u.draftPasses is = 0 then 3 else 2) m.val →
    v.writeTarget m.val y = .ok w →
    exec (.batchFormation m) s = .next w) ∧
  (∀ (s u : State) (m : BindId) (x : ServeRun), mget s.serve.runs m.val = some x → x.items = [] →
    s.running = true → (∀ t ∈ s.txs, t.committing = false) → s.bindOwned m.val = true →
    s.formBatch m.val (some (x.q, x.seq)) = (u, []) → exec (.batchFormation m) s = .next (u.setF F.SRV_RUN_PHASE 0 m.val)) ∧
  (∀ (s : State) (m : BindId) (x : ServeRun), mget s.serve.runs m.val = some x → x.casting = false → s.f F.SRV_RUN_PHASE m.val = 2 →
    x.readyAt = none → exec (.draftPass m) s = .next (s.beginDraft m.val x)) ∧
  (∀ (s u v : State) (m : BindId) (x : ServeRun) (at' : Nat) (is : List Item), mget s.serve.runs m.val = some x → x.casting = false →
    s.f F.SRV_RUN_PHASE m.val = 2 → x.readyAt = some at' → s.samplerTurn m.val at' = true →
    s.askSorter m.val (s.sortsNeeded x (some x.pass)) = (u, true) →
    u.propose (u.f F.SRV_MODEL_CFG_DRAFT m.val) x.pass (some (x.q, x.seq)) x.items = (v, .ok is) →
    ∃ w, w = v.setServeRun m.val { x with items := is, pass := x.pass + 1, readyAt := none } ∧
      exec (.draftPass m) s = .next (if w.draftPasses (is.filter (fun y => w.itemLive y && y.fault.isNone)) ≤ x.pass then
        w.setF F.SRV_RUN_PHASE 3 m.val else w)) ∧
  (∀ (s : State) (m : BindId) (x : ServeRun), mget s.serve.runs m.val = some x → x.casting = false → s.f F.SRV_RUN_PHASE m.val = 3 →
    exec (.samplerPass m) s = .next (s.beginTarget m.val x)) ∧
  (∀ (s u v : State) (m : BindId) (x : ServeRun) (at' : Nat) (is : List Item), mget s.serve.runs m.val = some x → x.casting = false →
    s.f F.SRV_RUN_PHASE m.val = 4 → x.readyAt = some at' → s.samplerTurn m.val at' = true →
    s.askSorter m.val (s.sortsNeeded x none) = (u, true) → u.sampleItems m.val (some (x.q, x.seq)) x.items = (v, .ok is) →
    ∃ t, exec (.samplerPass m) s = .next t ∧ mget t.serve.runs m.val = some { x with items := is, readyAt := none } ∧
      t.f F.SRV_RUN_PHASE m.val = 5 ∧ SameRegsBut v t [R.SRV_RUN.at m.val]) ∧
  (∀ (s : State) (m : BindId) (x : ServeRun), mget s.serve.runs m.val = some x → x.items ≠ [] → s.f F.SRV_RUN_PHASE m.val = 5 →
    exec (.commitPoint m) s = .next (s.setServeRun m.val { x with commitDue := true })) ∧
  (∀ (s : State) (m : Nat) (x : ServeRun), mget s.serve.runs m = some x → x.commitDue = true → x.items ≠ [] → s.f F.SRV_RUN_PHASE m = 5 →
    s.settleCommit m = s.commitStep m x) ∧
  (∀ (s : State) (m : BindId) (n : Nat), mget s.serve.feed m.val = some n → s.feedSeq m.val n = n →
    ∃ u, u = s.takeFeed m.val (s.word (s.feedSlot m.val n)) (s.word (s.feedSlot m.val n + 8)) ∧
      exec (.feedRecord m) s = .next { u with serve := { u.serve with feed := mset u.serve.feed m.val (n + 1) } }) ∧
  (∀ (s : State) (m : Nat) (w0 w1 : W64) (i : Nat) (e : Req), i = bitsOf w0 0 16 → e = s.req i → e.f qfState = 11 →
    e.f qfTarget = m → e.f qfPartner = bitsOf w0 16 16 → e.feedNext = bitsOf w1 0 28 → e.cause = none → bitOf w0 60 = false →
    s.takeFeed m w0 w1 = s.setReq i { e with feed := e.feed ++ [(bitsOf w1 0 28, bitsOf w0 32 20)], feedNext := bitsOf w1 0 28 + 1 }) ∧
  (∀ (s : State) (m : Nat) (w0 w1 : W64), (s.req (bitsOf w0 0 16)).f qfState ≠ 11 → s.takeFeed m w0 w1 = s.feedDrop m) ∧
  (∀ (s : State) (e : BitVec 16), 7 ≤ (s.req e.toNat).f qfState → (s.req e.toNat).f qfState ≤ 9 →
    ∃ u t, u = s.kvRelease e.toNat ∧ exec (.rangeRelease e) s = .next t ∧ (t.req e.toNat).f qfState = 0 ∧
      t.f F.SRV_TABLE_STAT_FREE = (u.f F.SRV_TABLE_STAT_FREE + 1) % 2 ^ 17 ∧ t.memory = u.memory ∧ t.frames = u.frames ∧
      (∀ j, j ≠ e.toNat → t.req j = u.req j) ∧
      SameRegsBut u t [R.SRV_TABLE_STAT.at, R.SRV_JOB_STAT.at ((s.req e.toNat).f qfJob)])

/-- R407, R408. A request's end leaves it in the end state of its status, with no cancel pending and none unanswered; R385: the end of a
`SERVE_START` leaves its binding idle and completes it. -/
def Obligations.RequestsEndOnce : Prop :=
  (∀ (s : State) (i : Nat) (st : Status), (s.req i).words.length = 16 →
    ((s.closeRequest i st).req i).f qfState = endState st ∧ ((s.closeRequest i st).req i).f qfCancel = 0 ∧
    ((s.closeRequest i st).req i).cancels = [] ∧ ((s.closeRequest i st).req i).cause = some st.code) ∧
  (∀ (s : State) (m : Nat) (x : ServeRun) (st : Status) (res d : W64), msorted s.serve.runs = true →
    ∃ u, s.endServe m x st res d = u.finishFlight x.q x.seq st res d ∧ mget u.serve.runs m = none ∧ u.f F.SRV_RUN_RUNNING m = 0 ∧
      u.f F.SRV_RUN_PHASE m = 0 ∧ SameRegsBut s u [R.SRV_RUN.at m]) ∧
  (∀ (s : State) (i : Nat) (st : Status), (s.req i).words.length = 16 → s.inRingRun i = true →
    ((s.endRequest i st false).req i).f qfState = 6)

/-- R299, R300. A page of the pool that no page on a list or in use overlaps is pushed at the head of its list, with the old head in its first
word; any other push is counted and changes nothing else; a drain leaves the list empty, and no page of it on a list. -/
def Obligations.FreeListsPushAndDrain : Prop :=
  (∀ (s : State) (n c page : Nat), 12 ≤ c → c ≤ 30 → page % 2 ^ (c - 12) = 0 → 512 * s.f F.SRV_KV_POOL_FIRST n ≤ page →
    page + 2 ^ (c - 12) ≤ 512 * (s.f F.SRV_KV_POOL_FIRST n + s.f F.SRV_KV_POOL_FRAMES n) → s.kvBusy page c = false →
    MemoryCanonical s → basinBase + 4096 * page + 8 ≤ plainBase → page < 2 ^ 29 →
    (s.kvPush n c page).f F.SRV_FL_HEAD n (c - 12) = page ∧
    (s.kvPush n c page).f F.SRV_FL_COUNT n (c - 12) = (s.f F.SRV_FL_COUNT n (c - 12) + 1) % 2 ^ 29 ∧
    (s.kvPush n c page).f F.SRV_FL_CUT n (c - 12) = 0 ∧
    bitsOf ((s.kvPush n c page).word (basinBase + 4096 * page)) 0 29 = s.f F.SRV_FL_HEAD n (c - 12) ∧
    SameBytesBut s (s.kvPush n c page) (basinBase + 4096 * page) 8 ∧ SameRegsBut s (s.kvPush n c page) [R.SRV_FL.at n (c - 12)]) ∧
  (∀ (s : State) (n c page : Nat), (c < 12 ∨ 30 < c ∨ page % 2 ^ (c - 12) ≠ 0 ∨ page < 512 * s.f F.SRV_KV_POOL_FIRST n ∨
      512 * (s.f F.SRV_KV_POOL_FIRST n + s.f F.SRV_KV_POOL_FRAMES n) < page + 2 ^ (c - 12) ∨ s.kvBusy page c = true) →
    s.kvPush n c page = s.count F.SRV_KV_STAT_PUSH_REJECT n) ∧
  (∀ (s : State) (n c : Nat), 12 ≤ c → c ≤ 30 →
    (s.kvDrain n c).f F.SRV_FL_COUNT n (c - 12) = 0 ∧ (s.kvDrain n c).kvListed n c = [] ∧ (s.kvDrain n c).memory = s.memory ∧
    SameRegsBut s (s.kvDrain n c) [R.SRV_FL.at n (c - 12)])

/-! ## The Meander -/

/-- R321 to R325. A `RING_RUN` whose checks pass, with every lane ring and feed ring ready, begins its run; R325: a neighbour's setup message
that agrees is noted, and with the second one the blocks circulate; one that disagrees ends the run `BAD_COMMAND`. R324, R336, R338, R345.
A run whose step or feed takes longer than its limit ends `RING_STALL`, with a fault, the cause 1 and notices to both neighbours; a
neighbour's notice of this run is passed on, and when the tick is over it ends the run with the notice's cause (log entry 136); the end of
a run leaves its group idle, with the status and the steps in its completion. -/
def Obligations.RingRunsBeginAndEnd : Prop :=
  (∀ (s u : State) (q : QId) (r : Rec) (ls : List (Nat × Nat)) (fd : Nat × Nat) (x : RingRun), Starts specRingRun s q.val r →
    r.opcode = 0x28 → u = s.takeHead q.val 4 r → ringEncoding u (u.queueJob q.val) r = none →
    u.laneMap (u.queueJob q.val) r = some (ls, fd) →
    x = { q := q.val, seq := s.headSeq q.val, job := u.queueJob q.val, entry := r.ringEntry, s0 := r.ringS0, scount := r.ringScount
          part := r.w5.toNat, hq := bitsOf r.w6 0 16, feed := r.ringFeed, feedMu := fd.1, feedRing := fd.2
          lanes := ls.map (fun l => ⟨l.1, l.2, 0, 0, 0, 0, 0, 0, 0⟩)
          predOk := false, succOk := false, step := 0, since := u.now, fed := 0, m0 := 0, feedE := 0 } →
    (∀ l ∈ ls, u.ringReady x.job l false (1 + u.ringBlockBytes x / 64) = true) →
    (x.feed = true → u.ringReady x.job fd true (u.ringDim x / 16 + 1) = true) →
    exec (.ringRun q) s = .next (u.beginRing r.ringGroup x)) ∧
  (∀ (s : State) (g : GroupId) (m : RingSetupMsg) (x : RingRun), s.part.hasMeander = true → mget s.ringRuns g.val = some x →
    s.fb F.MRE_G_CFG_VALID g.val = true → m.src.toNat = s.f F.MRE_G_NBR_PRED_CHIP g.val → x.predOk = false →
    s.f F.MRE_G_STAT_STATE g.val = 1 → setupOf m = s.setupValues g.val x →
    m.index = (s.ringIndex g.val + s.ringMembers g.val - 1) % s.ringMembers g.val →
    exec (.ringSetup g m) s = .next (if x.succOk then
      ((s.setRingRun g.val { x with predOk := true }).setF F.MRE_G_STAT_STATE 2 g.val).ringPump g.val
      else s.setRingRun g.val { x with predOk := true })) ∧
  (∀ (s : State) (g : GroupId) (m : RingSetupMsg) (x : RingRun), s.part.hasMeander = true → mget s.ringRuns g.val = some x →
    s.fb F.MRE_G_CFG_VALID g.val = true → m.src.toNat = s.f F.MRE_G_NBR_PRED_CHIP g.val → x.predOk = false →
    s.f F.MRE_G_STAT_STATE g.val = 1 → setupOf m ≠ s.setupValues g.val x →
    exec (.ringSetup g m) s = .next ((s.endRing g.val x .badCommand 0).ringPump g.val)) ∧
  (∀ (s u : State) (g : GroupId) (x : RingRun), u = s.ringPump g.val → mget u.ringRuns g.val = some x →
    x.since + u.ringLimit g.val < u.now →
    exec (.ringStall g) s = .next ((((u.ringFault x).ringCause g.val 1 (u.ringIndex g.val)).ringNotices g.val 1
      (u.ringIndex g.val)).endRing g.val x .ringStall (u.faultDetail 0x4701))) ∧
  (∀ (s : State) (g : GroupId) (runId : BitVec 32) (cause : Fin 4) (member : Nat) (fromPred : Bool) (x : RingRun),
    mget s.ringRuns g.val = some x → runId.toNat = s.f F.MRE_G_STEPMAX_RUN_ID g.val →
    exec (.ringAbort g runId cause member fromPred) s = .next ((s.ringNotice g.val fromPred cause.val member).setRingRun g.val
      { x with notice := some (noticeOf x.notice cause.val member) })) ∧
  (∀ (s : State) (g c m : Nat) (x : RingRun), mget s.ringRuns g = some x → x.notice = some (c, m) →
    s.endNoticed g = (((s.ringFault x).ringCause g c m).endRing g x (if c = 2 then .memberLost else .ringStall) (s.faultDetail 0x4701))) ∧
  (∀ (s : State) (g : GroupId) (runId : BitVec 32) (cause : Fin 4) (member : Nat) (fromPred : Bool),
    runId.toNat ≠ s.f F.MRE_G_STEPMAX_RUN_ID g.val → exec (.ringAbort g runId cause member fromPred) s = .next s) ∧
  (∀ (s : State) (g : Nat) (x : RingRun) (st : Status) (d : W64), msorted s.ringRuns = true →
    ∃ u, s.closeRing g x st d = (u.finishFlight x.q x.seq st (setBits (setBits (BitVec.ofNat 64 (s.f F.MRE_G_PROG_STEPS_DONE g)) 11 11
        (s.f F.MRE_G_PROG_STEPS_IN g)) 32 32 (s.f F.MRE_G_STEPMAX_RUN_ID g)) d).releaseShard x.entry ∧
      mget u.ringRuns g = none ∧ u.f F.MRE_G_STAT_STATE g = 0 ∧ u.f F.MRE_G_STAT_LAST_STATUS g = st.code % 2 ^ 8 ∧ u.memory = s.memory ∧
      SameRegsBut s u [R.MRE_G_STAT.at g])

/-- R327, R328, R444. A segment of the block that is due is written at its offset in the slot at the tail of its lane's ring; with the last
one the head is written, TAIL advances and the acknowledgement goes to the predecessor; a segment that is not due ends the run. A grant
and an acknowledgement of the successor count in their lane. R333, R334. The step word that is due counts its step as done; once all are
done and the steps have ended, the next record goes into the feed ring with the maximum's scale in its tail. -/
def Obligations.RingBlocksCirculate : Prop :=
  (∀ (s : State) (g : GroupId) (m : RingBlockMsg) (x : RingRun), mget s.ringRuns g.val = some x → s.f F.MRE_G_STAT_STATE g.val = 2 →
    m.runId.toNat = s.f F.MRE_G_STEPMAX_RUN_ID g.val →
    exec (.ringBlock g m) s = .next ((s.takeBlock g.val x m).ringPump g.val)) ∧
  (∀ (s : State) (g : Nat) (m : RingBlockMsg) (x : RingRun) (l : LaneSt) (b : BlockId) (a : Nat), x.lanes[m.lane]? = some l →
    s.blockAt g x m.lane (s.ringMembers g) 0 l.put = some b → l.given ≠ 0 → s.segmentOk g x l m b = true →
    a = s.slotOffset l.mu l.ring (s.ringOf l.mu l.ring).2.tail → m.segIndex + 1 < m.segCount →
    s.takeBlock g x m = ((s.store (a + m.offset) m.data m.poison).countLines true (a + m.offset) m.data.length).setRingRun g
      { x with lanes := setNth x.lanes m.lane { l with segs := l.segs + 1 } }) ∧
  (∀ (s : State) (g : Nat) (m : RingBlockMsg) (x : RingRun) (l : LaneSt) (b : BlockId) (a : Nat) (v : State),
    x.lanes[m.lane]? = some l → s.blockAt g x m.lane (s.ringMembers g) 0 l.put = some b → l.given ≠ 0 → s.segmentOk g x l m b = true →
    a = s.slotOffset l.mu l.ring (s.ringOf l.mu l.ring).2.tail → m.segCount ≤ m.segIndex + 1 →
    v = (s.store (a + m.offset) m.data m.poison).countLines true (a + m.offset) m.data.length →
    s.takeBlock g x m = (((v.store a (v.blockHead g b) (v.poisoned a 64)).setRingPtr l.mu l.ring
        { (s.ringOf l.mu l.ring).2 with tail := ((s.ringOf l.mu l.ring).2.tail + 1) % 65536 }).ringSend g false
        { OutMsg.blank with op := 0x13, vc := 3, arg0 := m.lane, extra := [g, m.lane] }).setRingRun g
      { x with lanes := setNth x.lanes m.lane { l with segs := 0, arrived := l.arrived + 1, given := l.given - 1 } }) ∧
  (∀ (s : State) (g : Nat) (m : RingBlockMsg) (x : RingRun) (l : LaneSt) (b : BlockId), x.lanes[m.lane]? = some l →
    s.blockAt g x m.lane (s.ringMembers g) 0 l.put = some b → (l.given = 0 ∨ s.segmentOk g x l m b = false) →
    s.takeBlock g x m = s.ringLocal g x .badCommand 0) ∧
  (∀ (s : State) (g : GroupId) (lane : Nat) (x : RingRun) (l : LaneSt), mget s.ringRuns g.val = some x → x.lanes[lane]? = some l →
    exec (.ringGrant g lane) s = .next ((s.setRingRun g.val
      { x with lanes := setNth x.lanes lane { l with grants := l.grants + 1 } }).ringPump g.val)) ∧
  (∀ (s : State) (g : GroupId) (lane : Nat) (x : RingRun) (l : LaneSt), mget s.ringRuns g.val = some x → x.lanes[lane]? = some l →
    exec (.ringAck g lane) s = .next ((s.setRingRun g.val
      { x with lanes := setNth x.lanes lane { l with acked := min l.forwarded (l.acked + 1) } }).ringPump g.val)) ∧
  (∀ (s : State) (g : GroupId) (i : Nat) (x : RingRun) (bs : List Byte) (mark : Bool), mget s.ringRuns g.val = some x →
    2 ≤ s.f F.MRE_G_STAT_STATE g.val → i = s.f F.MRE_G_PROG_STEPS_DONE g.val → i < s.ringMembers g.val →
    s.readVirt x.job (x.part + 8 * i) 8 = .ok (bs, mark) →
    leWord bs = setBits (setBits (0 : W64) 16 32 (s.f F.MRE_G_STEPMAX_RUN_ID g.val)) 63 1 1 →
    exec (.stepWord g i) s = .next ((s.setF F.MRE_G_PROG_STEPS_DONE (i + 1) g.val).ringPump g.val)) ∧
  (∀ (s : State) (g : GroupId) (i : Nat) (x : RingRun) (bs : List Byte) (mark : Bool), mget s.ringRuns g.val = some x →
    s.readVirt x.job (x.part + 8 * i) 8 = .ok (bs, mark) →
    leWord bs ≠ setBits (setBits (0 : W64) 16 32 (s.f F.MRE_G_STEPMAX_RUN_ID g.val)) 63 1 1 →
    exec (.stepWord g i) s = .next s) ∧
  (∀ (s u : State) (g : GroupId) (x : RingRun), u = s.ringPump g.val → mget u.ringRuns g.val = some x →
    u.f F.MRE_G_STAT_STATE g.val = 3 → u.f F.MRE_G_PROG_STEPS_DONE g.val = u.ringMembers g.val →
    x.fed < u.ringMembers g.val * u.shardLen g.val (u.ringIndex g.val) * x.hq →
    exec (.ringFeed g) s = .next (u.feedOne g.val x)) ∧
  (∀ (s : State) (g : Nat) (x : RingRun) (bs : List Byte) (mark : Bool) (a : Nat),
    (s.ringOf x.feedMu x.feedRing).2.fill false < (s.ringOf x.feedMu x.feedRing).1.slots → x.fed % s.ringMembers g ≠ 0 →
    s.readVirt x.job (s.partialVa g x (x.fed % s.ringMembers g) (x.fed / s.ringMembers g / x.hq) (x.fed / s.ringMembers g % x.hq))
      (4 * s.ringDim x + 64) = .ok (bs, mark) →
    a = s.slotOffset x.feedMu x.feedRing (s.ringOf x.feedMu x.feedRing).2.tail →
    s.feedOne g x = ((((s.store a (feedRecord bs (s.ringDim x) x.m0 x.feedE) mark).countLines true a (4 * s.ringDim x + 64)).setRingPtr
      x.feedMu x.feedRing { (s.ringOf x.feedMu x.feedRing).2 with
        tail := ((s.ringOf x.feedMu x.feedRing).2.tail + 1) % 65536 }).setRingRun g { x with fed := x.fed + 1 }).ringPump g)

/-! ## The Watershed -/

/-- R347, R350, R351. A `ROUTE` that starts in the order of its phases moves its group to the next phase and waits its turn for the unit;
R368: a phase still without an end marker at the limit ends `TIMEOUT`; R366: a row and an end marker of a valid group are judged and
taken. R367, R377. The sorter goes to one of the unit and the sampler at a time, in turn where both wait; a sort that ends frees it, and
the plan of the unit goes on. -/
def Obligations.RoutesTakeTheirPhases : Prop :=
  (∀ (s u : State) (q : QId) (r : Rec) (g : Nat), Starts specRoute s q.val r → r.opcode = 0x30 → r.routePhase = 0 →
    g = r.routeGroup → u = s.takeHead q.val 5 r → u.routeInOrder r = true →
    ∃ v, v = (u.setF F.WSU_G_STAT_PHASE 1 g).setRoute g { u.route g with key := some r.routeKey } ∧
      exec (.plan q) s = .next ({ v with wsu := { v.wsu with waiting := u.wsu.waiting ++ [(g, q.val, s.headSeq q.val)] } }.wsuGo)) ∧
  (∀ (s u v : State) (q : QId) (r : Rec) (g : Nat), Starts specRoute s q.val r → r.opcode = 0x30 → r.routePhase = 1 →
    g = r.routeGroup → u = s.takeHead q.val 5 r → u.routeInOrder r = true → v = u.setF F.WSU_G_STAT_PHASE 2 g →
    exec (.dispatch q) s = .next ({ v with wsu := { u.wsu with waiting := u.wsu.waiting ++ [(g, q.val, s.headSeq q.val)] } }.wsuGo)) ∧
  (∀ (s u v : State) (q : QId) (r : Rec) (g : Nat), Starts specRoute s q.val r → r.opcode = 0x30 → r.routePhase = 2 →
    g = r.routeGroup → u = s.takeHead q.val 5 r → u.routeInOrder r = true → v = u.setF F.WSU_G_STAT_PHASE 0 g →
    exec (.routeReturn q) s = .next ({ v with wsu := { u.wsu with waiting := u.wsu.waiting ++ [(g, q.val, s.headSeq q.val)] } }.wsuGo)) ∧
  (∀ (s : State) (g : GroupId) (k m : Nat), s.runningPhase g.val = some (k + 1) →
    (s.routeOthers g.val).find? (fun m => !(s.route g.val).ends.contains (m, k + 1)) = some m →
    (s.route g.val).since + s.routeLimit g.val ≤ s.now →
    exec (.routeLimit g) s = .next ((s.closeRoute g.val .timeout m 0 0).wsuGo)) ∧
  (∀ (s : State) (g : GroupId) (m : RouteRowMsg), s.part.hasWatershed = true → s.fb F.WSU_G_CFG_VALID g.val = true →
    exec (.routeRow g m) s = .next ((s.routeTake g.val (.row m)).wsuGo)) ∧
  (∀ (s : State) (g : GroupId) (src phase : Nat) (h : RouteHdr) (xid : BitVec 32), s.part.hasWatershed = true →
    s.fb F.WSU_G_CFG_VALID g.val = true →
    exec (.routeEnd g src phase h xid) s = .next ((s.routeTake g.val (.done src phase h xid)).wsuGo)) ∧
  (∀ (s : State) (t : Nat), s.wsu.holder = 0 → s.wsu.wsuWait = some t → (s.wsu.sampWait = none ∨ s.wsu.lastGrant ≠ 1) →
    exec (.sorterGrant false) s = .next (s.grantSorter 1 t)) ∧
  (∀ (s : State) (t : Nat), s.wsu.holder = 0 → s.wsu.sampWait = some t → (s.wsu.wsuWait = none ∨ s.wsu.lastGrant ≠ 2) →
    exec (.sorterGrant true) s = .next (s.grantSorter 2 t)) ∧
  (∀ (s : State) (who since : Nat), (who = 1 ∨ who = 2) → (s.grantSorter who since).wsu.holder = who ∧
    (s.grantSorter who since).wsu.lastGrant = who ∧
    (s.grantSorter who since).f F.WSU_SORT_STAT_MAX_WAIT = min (max (s.f F.WSU_SORT_STAT_MAX_WAIT) (s.now - since)) (2 ^ 32 - 1) ∧
    (s.grantSorter who since).f F.WSU_SORT_STAT_SORTS =
      (if who = 1 then (s.f F.WSU_SORT_STAT_SORTS + 1) % 2 ^ 32 else s.f F.WSU_SORT_STAT_SORTS) ∧
    SameRegsBut s (s.grantSorter who since) [R.WSU_SORT_STAT.at]) ∧
  (∀ (s : State) (b : Bool), s.wsu.holder ≠ 0 → exec (.sorterGrant b) s = .next s) ∧
  (∀ (s : State) (g : Nat), s.wsu.holder = 1 → s.wsu.running = some g →
    exec .sortComplete s = .next (({ s with wsu := { s.wsu with holder := 0 } }.finishPlan g).wsuGo)) ∧
  (∀ (s : State), s.wsu.holder = 2 →
    exec .sortComplete s = .next { s with wsu := { s.wsu with holder := 0, sampSorts := s.wsu.sampSorts + 1 } })

/-- R366. A message of the present batch whose header is the plan's is taken, one of the next batch is held, and any other is refused: it is
answered, and the phase that runs ends `BAD_COMMAND`. An end marker that is taken counts for its member and phase. -/
def Obligations.RoutedMessagesAreJudged : Prop :=
  (∀ (s : State) (g src : Nat) (h : RouteHdr) (p : RoutePlan), src < s.routeMembers g → src ≠ s.routeIndex g → h.batch = s.batch g →
    (s.route g).plan = some p →
    (s.judge g src h = .take p ↔ (h.layer = p.layer ∧ h.members = s.routeMembers g ∧ h.cap = p.cap ∧ h.experts = p.experts ∧
      h.rowLines = p.rowLines ∧ h.mapCrc.toNat = p.mapCrc)) ∧
    (s.judge g src h = .take p ∨ s.judge g src h = .refuse)) ∧
  (∀ (s : State) (g src : Nat) (h : RouteHdr), src < s.routeMembers g → src ≠ s.routeIndex g → h.batch = (s.batch g + 1) % 2 ^ 20 →
    s.judge g src h = .hold) ∧
  (∀ (s : State) (g src : Nat) (h : RouteHdr), (s.routeMembers g ≤ src ∨ src = s.routeIndex g ∨
      (h.batch ≠ (s.batch g + 1) % 2 ^ 20 ∧ h.batch ≠ s.batch g)) → s.judge g src h = .refuse) ∧
  (∀ (s : State) (g src phase : Nat) (h : RouteHdr) (xid : BitVec 32), s.judge g src h = .refuse →
    s.routeTake g (.done src phase h xid) = s.routeRefuse g src xid.toNat) ∧
  (∀ (s : State) (g src : Nat) (h : RouteHdr) (xid : BitVec 32) (p : RoutePlan), s.judge g src h = .take p →
    ∃ t, s.routeTake g (.done src 2 h xid) = t ∧ (src, 2) ∈ (t.route g).ends ∧ (∀ x ∈ (s.route g).ends, x ∈ (t.route g).ends) ∧
      t.memory = s.memory ∧ t.regs = s.regs)

/-- R355. The rank passes give each expert its slots once: an accepted choice has a slot below the capacity, two accepted choices of one
expert have two slots, and the expert and the weight of no choice change. R354. Hash selection names valid experts, each once, and no more
than asked for. -/
def Obligations.ExpertsAreChosenAndSlottedOnce : Prop :=
  (∀ (cap kmax : Nat) (cs : List (List Choice)), (∀ l ∈ cs, ∀ c ∈ l, c.accepted = false) →
    (assignSlots cap kmax cs).map (fun l => l.map (fun c => (c.expert, c.weight))) = cs.map (fun l => l.map (fun c => (c.expert, c.weight))) ∧
    (∀ l ∈ assignSlots cap kmax cs, ∀ c ∈ l, c.accepted = true → c.slot < cap) ∧
    (∀ (t u i j : Nat) (l m : List Choice) (c d : Choice), (assignSlots cap kmax cs)[t]? = some l → (assignSlots cap kmax cs)[u]? = some m →
      l[i]? = some c → m[j]? = some d → c.accepted = true → d.accepted = true → c.expert = d.expert → c.slot = d.slot →
      t = u ∧ i = j)) ∧
  (∀ (tok pos salt e k : Nat) (valid : Nat → Bool),
    (hashChoices tok pos salt e k valid).Nodup ∧ (∀ c ∈ hashChoices tok pos salt e k valid, valid c = true) ∧
    (hashChoices tok pos salt e k valid).length ≤ k)

/-! ## Collectives -/

/-- R475, R478, R479. A `COLLECTIVE` of any of the six operations that starts takes its group's next sequence number; with every member inside
the fence it opens one of the four entries, or joins the one of its tag that its fields match; with no entry free it completes
`COLL_ORDER`, and with a member outside the fence `FENCED`. R478, R479, R483. A step of a pending collective that matches its tag's fields
is taken, and one that does not ends both members' `BAD_COMMAND`; a step of a tag not seen before is held in a free entry; a credit opens
its flow again, and a refusal ends the collective. An entry that has not heard from a member for `ORDER_TIMEOUT` ends `COLL_ORDER` or,
where its command has not started, is discarded; a branch that stays full for `LAG_LIMIT` is cut. -/
def Obligations.CollectivesRunStepByStep : Prop :=
  (∀ (s u v : State) (q : QId) (r : Rec) (c : Instr) (o g e : Nat) (x : CollEntry),
    (c, o) ∈ [(Instr.allReduce q, 0), (.reduceScatter q, 1), (.allGather q, 2), (.broadcast q, 3), (.allToAll q, 4), (.barrier q, 5)] →
    Starts specColl s q.val r → r.opcode = 0x20 → r.collOper = o → u = s.takeHead q.val 3 r → g = r.collGroupOf →
    v = u.setF F.ALT_CG_STAT_SEQ ((u.f F.ALT_CG_STAT_SEQ g + 1) % 2 ^ 32) g → (v.collChips g).all v.inFence = true →
    v.collTag (u.f F.ALT_CG_CFG_GID g) (u.f F.ALT_CG_STAT_SEQ g) = none → v.collSlot = some e →
    x = CollEntry.fresh (u.f F.ALT_CG_CFG_GID g) (u.f F.ALT_CG_STAT_SEQ g) (u.collKey g r) g v.now →
    ∃ y, y = { x with started := some (q.val, s.headSeq q.val), detach := bitOf r.w3 11, oneShot := v.collOneShot (u.collKey g r) } ∧
      exec c s = .next (((v.setColl e x).refreshColl.setColl e y).collBegin e y (u.queueJob q.val) r)) ∧
  (∀ (s u v : State) (q : QId) (r : Rec) (c : Instr) (o g e : Nat) (x : CollEntry),
    (c, o) ∈ [(Instr.allReduce q, 0), (.reduceScatter q, 1), (.allGather q, 2), (.broadcast q, 3), (.allToAll q, 4), (.barrier q, 5)] →
    Starts specColl s q.val r → r.opcode = 0x20 → r.collOper = o → u = s.takeHead q.val 3 r → g = r.collGroupOf →
    v = u.setF F.ALT_CG_STAT_SEQ ((u.f F.ALT_CG_STAT_SEQ g + 1) % 2 ^ 32) g → (v.collChips g).all v.inFence = true →
    v.collTag (u.f F.ALT_CG_CFG_GID g) (u.f F.ALT_CG_STAT_SEQ g) = some (e, x) → x.status = none → x.key = u.collKey g r →
    ∃ y, y = { x with started := some (q.val, s.headSeq q.val), detach := bitOf r.w3 11, oneShot := v.collOneShot (u.collKey g r) } ∧
      exec c s = .next ((v.setColl e y).collBegin e y (u.queueJob q.val) r)) ∧
  (∀ (s u v : State) (q : QId) (r : Rec) (c : Instr) (o g : Nat),
    (c, o) ∈ [(Instr.allReduce q, 0), (.reduceScatter q, 1), (.allGather q, 2), (.broadcast q, 3), (.allToAll q, 4), (.barrier q, 5)] →
    Starts specColl s q.val r → r.opcode = 0x20 → r.collOper = o → u = s.takeHead q.val 3 r → g = r.collGroupOf →
    v = u.setF F.ALT_CG_STAT_SEQ ((u.f F.ALT_CG_STAT_SEQ g + 1) % 2 ^ 32) g → (v.collChips g).all v.inFence = true →
    v.collTag (u.f F.ALT_CG_CFG_GID g) (u.f F.ALT_CG_STAT_SEQ g) = none → v.collSlot = none →
    exec c s = .next ((v.count F.ALT_COLL_STAT_ORDER_FAILS).finishFlight q.val (s.headSeq q.val) .collOrder 0 0)) ∧
  (∀ (s u v : State) (q : QId) (r : Rec) (c : Instr) (o g : Nat),
    (c, o) ∈ [(Instr.allReduce q, 0), (.reduceScatter q, 1), (.allGather q, 2), (.broadcast q, 3), (.allToAll q, 4), (.barrier q, 5)] →
    Starts specColl s q.val r → r.opcode = 0x20 → r.collOper = o → u = s.takeHead q.val 3 r → g = r.collGroupOf →
    v = u.setF F.ALT_CG_STAT_SEQ ((u.f F.ALT_CG_STAT_SEQ g + 1) % 2 ^ 32) g → (v.collChips g).all v.inFence = false →
    exec c s = .next (v.finishFlight q.val (s.headSeq q.val) .fenced 0 0)) ∧
  (∀ (s : State) (m : CollStepMsg) (g e : Nat) (x : CollEntry), s.collGroup m.gid.toNat = some g → m.src < s.collMembers g →
    m.src ≠ s.collIndex g → s.collTag m.gid.toNat m.seq.toNat = some (e, x) → x.key = stepKey m →
    m.offset = (mgetD x.inbox (4096 * m.stage + m.src) []).length →
    exec (.collStep m) s = .next ((s.setColl e (x.takeStep (s.collIndex g) m)).collPump e)) ∧
  (∀ (s : State) (m : CollStepMsg) (g e : Nat) (x : CollEntry), s.collGroup m.gid.toNat = some g → m.src < s.collMembers g →
    m.src ≠ s.collIndex g → s.collTag m.gid.toNat m.seq.toNat = some (e, x) → x.key ≠ stepKey m →
    exec (.collStep m) s = .next ((s.collAnswer x.group x.gid x.seq m.src 1).failColl e x .badCommand)) ∧
  (∀ (s : State) (m : CollStepMsg) (g e : Nat), s.collGroup m.gid.toNat = some g → m.src < s.collMembers g → m.src ≠ s.collIndex g →
    s.collTag m.gid.toNat m.seq.toNat = none → (m.seq.toNat + 2 ^ 32 - s.f F.ALT_CG_STAT_SEQ g) % 2 ^ 32 < 2 ^ 31 →
    s.collSlot = some e → m.offset = 0 →
    exec (.collStep m) s = .next ((s.setColl e ((CollEntry.fresh m.gid.toNat m.seq.toNat (stepKey m) g s.now).takeStep (s.collIndex g)
      m)).refreshColl)) ∧
  (∀ (s : State) (gid : BitVec 16) (seq : BitVec 32) (src e : Nat) (x : CollEntry), s.collTag gid.toNat seq.toNat = some (e, x) →
    exec (.collCredit gid seq src 0) s = .next ((s.setColl e { x with
      seen := sinsert x.seen src
      flows := x.flows.map (fun f => if f.dest = src then { f with open_ := f.open_ - 1, fullSince := none } else f) }).collPump e) ∧
    exec (.collCredit gid seq src 1) s = .next (s.failColl e x .badCommand) ∧
    exec (.collCredit gid seq src 2) s = .next (s.failColl e x .collOrder) ∧
    exec (.collCredit gid seq src 3) s = .next ((s.cutBranches x).failColl e x .laggard) ∧
    exec (.collCredit gid seq src 4) s = .next (s.failColl e x .memberLost)) ∧
  (∀ (s : State) (e j : Nat) (x : CollEntry), mget s.coll.entries e = some x → x.created + s.orderLimit < s.now → j ∈ s.collWaits x →
    x.seen.contains j = false → exec (.orderTimeout e) s =
      .next (if x.started.isSome then s.failColl e x .collOrder else (s.dropColl e).count F.ALT_COLL_STAT_EARLY_DISCARDS)) ∧
  (∀ (s : State) (e : Nat) (b : Fin 4) (x : CollEntry) (f : CollFlow) (t : Nat), mget s.coll.entries e = some x →
    x.flows[b.val]? = some f → f.fullSince = some t → x.detach = true → f.cut = false → t + s.lagTicks < s.now →
    exec (.lagLimit e b) s = .next (s.cutBranch e x f.dest true)) ∧
  (∀ (s : State) (e q seq : Nat) (x : CollEntry) (st : Status) (d : W64), x.started = some (q, seq) → x.status = none → st ≠ .collOrder →
    st ≠ .nanTrap → s.failColl e x st d = (s.dropColl e).finishFlight q seq st 0 d) ∧
  (∀ (s : State) (e : Nat) (x : CollEntry) (st : Status) (d : W64), x.started = none →
    s.failColl e x st d = s.setColl e { x with status := some st.code, detail := d })

/-- R483. In the tree of a broadcast every member but the root is the child of exactly one member, and the root of none: in a list group, and
in a rectangle of `W` by `H` members. -/
def Obligations.BroadcastTreesReachEveryMember : Prop :=
  ∀ (s : State) (g : Nat) (k : CollKey), k.root < k.members → (s.collIsList g = false → k.members = s.collW g * s.collH g) →
    (∀ i, i < k.members → i ≠ k.root → ∃ p, p < k.members ∧ i ∈ s.treeChildren g k p ∧
      ∀ p', p' < k.members → i ∈ s.treeChildren g k p' → p' = p) ∧
    (∀ p, p < k.members → k.root ∉ s.treeChildren g k p) ∧
    (∀ p, p < k.members → ∀ i ∈ s.treeChildren g k p, i < k.members)

/-! ## The grid fabric -/

/-- R135 to R137, R145, R146, R152. A box whose neighbours have fired as many slots fires its next; a token that arrives at a unit's port
within the window of its tag is taken into the store, one that lies behind it is dropped with its credit and a fault; a credit on its way
reaches its channel's producer, or lets a spilled token in. R148 to R150. A `STEER` element that holds a tag's control token and its
group's data sends the data to the output that the decision names; a `PRED` element consumes both groups and passes the one selected; a
`MERGE` element consumes only the one it passes. A poisoned control token stops the cast. -/
def Obligations.TokensMoveThroughTheFabric : Prop :=
  (∀ (s : State) (d : DaleId) (site : SiteId) (first : Nat) (x : CastRun), s.stepOn d.val = some (first, x) →
    s.boxReady d.val site.val first (s.castRef x.cast).count (saddleDepth (s.castRef x.cast).header) = true →
    exec (.slotFiring d site) s = .next (s.fireSlot d.val site.val first x (s.castRef x.cast))) ∧
  (∀ (s : State) (d : DaleId) (site : SiteId) (port : Fin 14) (first n : Nat) (x : CastRun) (y : CuSt) (h : Held) (t : Token),
    s.stepOn d.val = some (first, x) → port.val < 8 → siteIsCu site.val = true → n = unitAt d.val site.val → y = s.cu n →
    y.arrivals.find? (fun h => h.port == port.val) = some h → t = s.tagged h.token →
    (cuTasks (s.unitProg false n)).testBit t.task = true → y.wants { h with token := t } = false →
    tagAhead t.tag (nth y.tasks t.task .fresh).tb < 8 →
    exec (.tokenDelivery d site port) s = .next (s.setCu n { y with
      arrivals := y.arrivals.eraseP (fun k => k.port == h.port)
      store := y.store ++ [{ h with token := t, since := s.now }] })) ∧
  (∀ (s : State) (d : DaleId) (site : SiteId) (port : Fin 14) (first n : Nat) (x : CastRun) (y : CuSt) (h : Held) (t : Token),
    s.stepOn d.val = some (first, x) → port.val < 8 → siteIsCu site.val = true → n = unitAt d.val site.val → y = s.cu n →
    y.arrivals.find? (fun h => h.port == port.val) = some h → t = s.tagged h.token →
    (cuTasks (s.unitProg false n)).testBit t.task = true → y.wants { h with token := t } = false →
    32768 ≤ tagAhead t.tag (nth y.tasks t.task .fresh).tb →
    exec (.tokenDelivery d site port) s = .next ((s.setCu n { y with
      arrivals := y.arrivals.eraseP (fun k => k.port == h.port) }).tagFault first { h with token := t })) ∧
  (∀ (s : State) (d : DaleId) (site : SiteId) (port : Fin 14) (first n a : Nat) (x : CastRun) (y : MuSt) (h : Held) (t : Token),
    s.stepOn d.val = some (first, x) → port.val < 8 → siteIsCu site.val = false → n = unitAt d.val site.val → y = s.mu n →
    y.arrivals.find? (fun h => h.port == port.val) = some h → t = s.tagged h.token → s.portAg n h.port = some a →
    tagAhead t.tag (bitsOf (wordAt (s.unitProg true n) (nth y.ags a .fresh).pc) 33 16 + (nth y.ags a .fresh).base) < 8 →
    exec (.tokenDelivery d site port) s = .next (s.setMu n { y with
      arrivals := y.arrivals.eraseP (fun k => k.port == h.port)
      store := y.store ++ [{ h with token := t, since := s.now }] })) ∧
  (∀ (s : State) (d : DaleId) (site : SiteId) (port : Fin 14) (first e : Nat) (x : CastRun) (y : ElemSt) (h : Held) (t : Token),
    s.stepOn d.val = some (first, x) → 8 ≤ port.val → e = (port.val - 8) / 3 → y = s.elem d.val site.val e →
    y.arrivals.find? (fun h => h.port == (port.val - 8) % 3) = some h → t = s.tagged h.token → tagAhead t.tag y.base < 8 →
    exec (.tokenDelivery d site port) s = .next (s.setElem d.val site.val e { y with
      arrivals := y.arrivals.eraseP (fun k => k.port == h.port)
      store := y.store ++ [{ h with token := t, since := s.now }] })) ∧
  (∀ (s : State) (d : DaleId) (k : Fin 4096) (first key i : Nat) (x : CastRun) (c : Chan) (y : ChanSt) (rest : List Nat),
    s.stepOn d.val = some (first, x) → key = 4096 * d.val + k.val → s.chanDesc key = some c → y = s.chan key →
    y.returning = i :: rest → y.spilled = [] →
    ∃ t, exec (.creditReturn d k) s = .next t ∧
      t.chan key = { y with returning := rest, credits := setNth y.credits i (nth y.credits i 0 + 1) } ∧
      (∀ j, j ≠ key → t.chan j = s.chan j) ∧ t = { s with fabric := { s.fabric with chans := t.fabric.chans } }) ∧
  (∀ (s : State) (d : DaleId) (site : SiteId) (e : Fin 2) (tag : BitVec 16) (first g : Nat) (x : CastRun) (y : ElemSt) (ctl : Held)
      (data : List Held), s.stepOn d.val = some (first, x) → y = s.elem d.val site.val e.val →
    g = steerGroup (s.slotTable d.val site.val) e.val → steerMode (s.slotTable d.val site.val) e.val = 1 →
    (y.tokensOf 0 tag.toNat).head? = some ctl → data = (y.tokensOf 1 tag.toNat).take g → data.length = g →
    y.fired.contains tag.toNat = false → ctl.token.poison = false → s.elemOutFree d.val site.val e.val ctl.token.decision = true →
    exec (.steer d site e tag) s = .next (s.fireElem d.val site.val e.val tag.toNat (ctl :: data) ctl.token.decision
      (data.map (fun h => { h.token with steerTag := ctl.token.ctlTag })))) ∧
  (∀ (s : State) (d : DaleId) (site : SiteId) (e : Fin 2) (tag : BitVec 16) (first g : Nat) (x : CastRun) (y : ElemSt) (ctl : Held)
      (one two : List Held), s.stepOn d.val = some (first, x) → y = s.elem d.val site.val e.val →
    g = steerGroup (s.slotTable d.val site.val) e.val → steerMode (s.slotTable d.val site.val) e.val = 2 →
    (y.tokensOf 0 tag.toNat).head? = some ctl → one = (y.tokensOf 1 tag.toNat).take g → two = (y.tokensOf 2 tag.toNat).take g →
    one.length = g → two.length = g → y.fired.contains tag.toNat = false → ctl.token.poison = false →
    s.elemOutFree d.val site.val e.val 0 = true →
    exec (.join d site e tag) s = .next (s.fireElem d.val site.val e.val tag.toNat (ctl :: (one ++ two)) 0
      ((if ctl.token.decision = 0 then one else two).map (fun h => h.token)))) ∧
  (∀ (s : State) (d : DaleId) (site : SiteId) (e : Fin 2) (tag : BitVec 16) (first g : Nat) (x : CastRun) (y : ElemSt) (ctl : Held)
      (sel : List Held), s.stepOn d.val = some (first, x) → y = s.elem d.val site.val e.val →
    g = steerGroup (s.slotTable d.val site.val) e.val → steerMode (s.slotTable d.val site.val) e.val = 3 →
    (y.tokensOf 0 tag.toNat).head? = some ctl → sel = (y.tokensOf (1 + ctl.token.decision) tag.toNat).take g → sel.length = g →
    y.fired.contains tag.toNat = false → ctl.token.poison = false → s.elemOutFree d.val site.val e.val 0 = true →
    exec (.join d site e tag) s = .next (s.fireElem d.val site.val e.val tag.toNat (ctl :: sel) 0 (sel.map (fun h => h.token)))) ∧
  (∀ (s : State) (d : DaleId) (site : SiteId) (e : Fin 2) (tag : BitVec 16) (first : Nat) (x : CastRun) (y : ElemSt) (ctl : Held),
    s.stepOn d.val = some (first, x) → y = s.elem d.val site.val e.val → steerMode (s.slotTable d.val site.val) e.val = 1 →
    (y.tokensOf 0 tag.toNat).head? = some ctl → steerGroup (s.slotTable d.val site.val) e.val ≤ (y.tokensOf 1 tag.toNat).length →
    y.fired.contains tag.toNat = false → ctl.token.poison = true → exec (.steer d site e tag) s = .next (s.castPoisoned first))

/-- R158. A step ends when every unit of its cast has finished: the run completes `OK` after its last step, with the status of the fault that
a step has met, and begins its next step otherwise. R160, R161: a step that is blocked or slow for its limit stops its cast. R189: a task
that waits gives way to one that can issue. -/
def Obligations.StepsEndOrAreStopped : Prop :=
  (∀ (s : State) (d : DaleId) (x : CastRun), mget s.fabric.runs d.val = some x → x.stepping = true →
    s.castAtEnd (s.castRef x.cast) = true → exec (.castStepEnd d) s = .next (s.stepEnd d.val x)) ∧
  (∀ (s : State) (d : DaleId) (x : CastRun), mget s.fabric.runs d.val = none →
    s.fabric.paused.find? (fun x => (s.castRef x.cast).first == d.val) = some x →
    (∀ k ∈ (s.castRef x.cast).dales, s.runOn k = none) → s.pauses x (s.castRef x.cast) = false →
    exec (.castStepEnd d) s = .next ((({ s with fabric := { s.fabric with
      paused := s.fabric.paused.filter (fun y => y != x) } }).slotsRun (s.castRef x.cast)).beginStep d.val x)) ∧
  (∀ (s u : State) (first : Nat) (x y : CastRun), x.fault = none → u = (s.countResidue x (s.castRef x.cast)).discardTokens
      (s.castRef x.cast) false → y = { x with done := x.done + 1, stepping := false } →
    (x.total ≤ x.done + 1 → s.stepEnd first x = u.endRun first y .ok 0) ∧
    (x.done + 1 < x.total → u.pauses y (s.castRef x.cast) = false → s.stepEnd first x = u.beginStep first y)) ∧
  (∀ (s : State) (first k : Nat) (x : CastRun) (dt : W64), x.fault = some (k, dt) →
    s.stepEnd first x = (((s.countResidue x (s.castRef x.cast)).discardTokens (s.castRef x.cast) false).endRun first
      { x with done := x.done + 1, stepping := false } (.ofCode k) dt)) ∧
  (∀ (s : State) (d : DaleId) (x : CastRun), mget s.fabric.runs d.val = some x → x.stepping = true →
    s.castAtEnd (s.castRef x.cast) = false → s.stallDue d.val x = true → exec (.stallLimit d) s = .next (s.stall d.val x)) ∧
  (∀ (s : State) (d : DaleId) (x : CastRun), mget s.fabric.runs d.val = some x → x.stepping = true →
    s.castAtEnd (s.castRef x.cast) = false → s.stepLimit x ≤ x.ticks → s.stallDue d.val x = false →
    exec (.stepLimit d) s = .next ((s.fault 0x4206 .job x.job x.job x.cmd).stopCast d.val x .timeout (s.faultDetail 0x4206))) ∧
  (∀ (s : State) (cu : UnitId) (t : Nat) (x : CuSt), x = s.cu cu.val → (s.stepOn (cu.val / 32)).isSome = true →
    x.canIssue (s.unitProg false cu.val) x.active = .finished →
    ((List.range 3).map (fun i => (x.active + 1 + i) % 4)).find? (fun t => x.canIssue (s.unitProg false cu.val) t == .yes) = some t →
    exec (.taskSwitch cu) s = .next ((s.setCu cu.val { x with active := t, switchAt := some s.now }).countWrap F.CU_SWITCHES_COUNT (s.unitWindow cu.val)))

/-- R158. A step that begins leaves every channel of its cast with a whole window of credits for each destination and no token, every box at
its first slot, and the counted step one higher. A step's end leaves no token in its cast's boxes, elements and channels. -/
def Obligations.StepsBeginClean : Prop :=
  (∀ (s : State) (first : Nat) (x : CastRun), ∃ y, mget (s.beginStep first x).fabric.runs first = some y ∧ y.stepping = true ∧
    y.start = s.now ∧ y.ticks = 0 ∧ y.residue = 0 ∧ y.cast = x.cast ∧
    mget (s.beginStep first x).fabric.started x.cast = some ((mgetD s.fabric.started x.cast 0 + 1) % 2 ^ 32) ∧
    s.beginStep first x = { s with fabric := (s.beginStep first x).fabric }) ∧
  (∀ (s : State) (first d site : Nat) (x : CastRun), d ∈ (s.castRef x.cast).dales → site < 64 →
    (s.beginStep first x).box d site = { fired := 0, inputs := bridgeInputs d site (s.castRef x.cast) }) ∧
  (∀ (s : State) (c : CastRef) (halt : Bool) (k : Nat), c.first ≤ k / 4096 → k / 4096 < c.first + c.count →
    mget (s.discardTokens c halt).fabric.chans k = none) ∧
  (∀ (s : State) (c : CastRef) (halt : Bool) (u : Nat), c.first ≤ u / 32 → u / 32 < c.first + c.count →
    ((s.discardTokens c halt).cu u).arrivals = [] ∧ ((s.discardTokens c halt).cu u).store = [] ∧ ((s.discardTokens c halt).cu u).mm = none ∧
    ((s.discardTokens c halt).cu u).acc = (s.cu u).acc ∧ ((s.discardTokens c halt).cu u).buf = (s.cu u).buf)

/-! ## Compute units -/

/-- R263, R264, R181. The control instructions of a compute unit's task: `END` finishes it; `NEXT` moves its tag base on; `JMP` goes to its
target, and `BFIRST` in the first step of its cast; `SETL` loads a loop counter, and `LOOP` counts it down and goes back while it is above
1. Nothing else of the task, of the other tasks or of the device changes. -/
def Obligations.TaskControlMovesThePc : Prop :=
  (∀ (s : State) (cu : UnitId) (o : CuOp), s.cuReady cu.val = some o → bitsOf o.w 0 8 = 0x00 →
    ∃ t, exec (.cuEnd cu) s = .next t ∧ TaskGoes s t o { s.cuTask o with finished := true } []) ∧
  (∀ (s : State) (cu : UnitId) (o : CuOp) (tb : Nat), s.cuReady cu.val = some o → bitsOf o.w 0 8 = 0x01 →
    tb = ((s.cuTask o).tb + bitsOf o.w 8 4) % 65536 → (∀ h ∈ (s.cu o.n).store, h.token.task = o.t → tagAhead h.token.tag tb < 32768) →
    ∃ t, exec (.cuNext cu) s = .next t ∧ TaskGoes s t o { s.cuTask o with tb := tb, pc := o.pc + 1 } []) ∧
  (∀ (s : State) (cu : UnitId) (o : CuOp), s.cuReady cu.val = some o → bitsOf o.w 0 8 = 0x02 →
    ∃ t, exec (.cuJmp cu) s = .next t ∧ TaskGoes s t o { s.cuTask o with pc := bitsOf o.w 8 12 } []) ∧
  (∀ (s : State) (cu : UnitId) (o : CuOp), s.cuReady cu.val = some o → bitsOf o.w 0 8 = 0x03 →
    ∃ t, exec (.cuBfirst cu) s = .next t ∧
      TaskGoes s t o { s.cuTask o with pc := if s.firstStep o.run.cast then bitsOf o.w 8 12 else o.pc + 1 } []) ∧
  (∀ (s : State) (cu : UnitId) (o : CuOp), s.cuReady cu.val = some o → bitsOf o.w 0 8 = 0x04 →
    ∃ t, exec (.cuSetl cu) s = .next t ∧
      TaskGoes s t o { s.cuTask o with loops := setNth (s.cuTask o).loops (bitsOf o.w 8 2) (bitsOf o.w 10 24), pc := o.pc + 1 } []) ∧
  (∀ (s : State) (cu : UnitId) (o : CuOp) (l : Nat), s.cuReady cu.val = some o → bitsOf o.w 0 8 = 0x05 →
    l = nth (s.cuTask o).loops (bitsOf o.w 8 2) 0 →
    ∃ t, exec (.cuLoop cu) s = .next t ∧
      TaskGoes s t o { s.cuTask o with loops := setNth (s.cuTask o).loops (bitsOf o.w 8 2) (l - 1)
                                       pc := if 1 < l then bitsOf o.w 10 12 else o.pc + 1 } [])

/-- R185, R233, R234. The lane operations `ADD`, `MUL`, `FMA`, `EXP2`, `RCP`, `RSQRT`, `MAX` and `SEL` leave the result of their FP32
operation in every lane that they write; where a written lane has an operand or a result that is not a number, an event is taken; without
one nothing else happens. R186, R183, R244 to R247, R266, R267. `CMP` writes its mask register in the lanes of its mask; `RED` leaves the
reduction in lane 0 and +0 elsewhere; `ROWSUM` copies or adds an array row into its effective row; a widening `CVT` leaves the widened
lanes, and a narrowing one the packed row, with its block scales in the next register; `MOV` leaves its source and `MOVI` its immediate. -/
def Obligations.VectorInstructionsLeaveTheirResults : Prop :=
  (∀ (s : State) (cu : UnitId) (o : CuOp) (a b : List W32), s.cuReady cu.val = some o → bitsOf o.w 0 8 = 0x20 →
    a = cuSource (s.cuTask o) o.w (bitsOf o.w 16 6) (bitOf o.w 38) → b = cuSource (s.cuTask o) o.w (bitsOf o.w 22 6) false →
    ∃ t es, exec (.cuAdd cu) s = .next (t.cuEvents o es) ∧ VectorResult s t o (fun i => f32Add (nth a i 0) (nth b i 0)) ∧
      (es = [] ↔ ∀ i, i < 64 → bitOf (cuMask (s.cuTask o) o.w) i = true → isNanLane (nth a i 0) = false ∧ isNanLane (nth b i 0) = false ∧
        isNanLane (f32Add (nth a i 0) (nth b i 0)) = false)) ∧
  (∀ (s : State) (cu : UnitId) (o : CuOp) (a b : List W32), s.cuReady cu.val = some o → bitsOf o.w 0 8 = 0x21 →
    a = cuSource (s.cuTask o) o.w (bitsOf o.w 16 6) (bitOf o.w 38) → b = cuSource (s.cuTask o) o.w (bitsOf o.w 22 6) false →
    ∃ t es, exec (.cuMul cu) s = .next (t.cuEvents o es) ∧ VectorResult s t o (fun i => f32Mul (nth a i 0) (nth b i 0)) ∧
      (es = [] ↔ ∀ i, i < 64 → bitOf (cuMask (s.cuTask o) o.w) i = true → isNanLane (nth a i 0) = false ∧ isNanLane (nth b i 0) = false ∧
        isNanLane (f32Mul (nth a i 0) (nth b i 0)) = false)) ∧
  (∀ (s : State) (cu : UnitId) (o : CuOp) (a b c : List W32), s.cuReady cu.val = some o → bitsOf o.w 0 8 = 0x22 →
    a = cuSource (s.cuTask o) o.w (bitsOf o.w 16 6) (bitOf o.w 38) → b = cuSource (s.cuTask o) o.w (bitsOf o.w 22 6) false →
    c = cuSource (s.cuTask o) o.w (bitsOf o.w 28 6) false →
    ∃ t, exec (.cuFma cu) s = .next (t.cuEvents o (laneEvents (cuMask (s.cuTask o) o.w) a b c
        ((List.range 64).map (fun i => f32Fma (nth a i 0) (nth b i 0) (nth c i 0))))) ∧
      VectorResult s t o (fun i => f32Fma (nth a i 0) (nth b i 0) (nth c i 0))) ∧
  (∀ (s : State) (cu : UnitId) (o : CuOp) (a : List W32), s.cuReady cu.val = some o → bitsOf o.w 0 8 = 0x23 →
    a = cuSource (s.cuTask o) o.w (bitsOf o.w 16 6) (bitOf o.w 38) →
    ∃ t es, exec (.cuExp2 cu) s = .next (t.cuEvents o es) ∧ VectorResult s t o (fun i => f32Exp2 (nth a i 0) 0)) ∧
  (∀ (s : State) (cu : UnitId) (o : CuOp) (a : List W32), s.cuReady cu.val = some o → bitsOf o.w 0 8 = 0x24 →
    a = cuSource (s.cuTask o) o.w (bitsOf o.w 16 6) (bitOf o.w 38) →
    ∃ t es, exec (.cuRcp cu) s = .next (t.cuEvents o es) ∧ VectorResult s t o (fun i => f32Rcp (nth a i 0) 0)) ∧
  (∀ (s : State) (cu : UnitId) (o : CuOp) (a : List W32), s.cuReady cu.val = some o → bitsOf o.w 0 8 = 0x25 →
    a = cuSource (s.cuTask o) o.w (bitsOf o.w 16 6) (bitOf o.w 38) →
    ∃ t es, exec (.cuRsqrt cu) s = .next (t.cuEvents o es) ∧ VectorResult s t o (fun i => f32Rsqrt (nth a i 0) 0)) ∧
  (∀ (s : State) (cu : UnitId) (o : CuOp) (a b : List W32), s.cuReady cu.val = some o → bitsOf o.w 0 8 = 0x26 →
    a = cuSource (s.cuTask o) o.w (bitsOf o.w 16 6) (bitOf o.w 38) → b = cuSource (s.cuTask o) o.w (bitsOf o.w 22 6) false →
    ∃ t es, exec (.cuMax cu) s = .next (t.cuEvents o es) ∧ VectorResult s t o (fun i => f32Max (nth a i 0) (nth b i 0))) ∧
  (∀ (s : State) (cu : UnitId) (o : CuOp) (a b : List W32), s.cuReady cu.val = some o → bitsOf o.w 0 8 = 0x28 →
    a = cuSource (s.cuTask o) o.w (bitsOf o.w 16 6) (bitOf o.w 38) → b = cuSource (s.cuTask o) o.w (bitsOf o.w 22 6) false →
    ∃ t es, exec (.cuSel cu) s = .next (t.cuEvents o es) ∧
      VectorResult s t o (fun i => if bitOf ((s.cuTask o).mask (bitsOf o.w 34 3)) i then nth a i 0 else nth b i 0)) ∧
  (∀ (s : State) (cu : UnitId) (o : CuOp) (a b : List W32) (k : Nat), s.cuReady cu.val = some o → bitsOf o.w 0 8 = 0x27 →
    a = cuSource (s.cuTask o) o.w (bitsOf o.w 16 6) (bitOf o.w 38) → b = cuSource (s.cuTask o) o.w (bitsOf o.w 22 6) false →
    k = bitsOf o.w 11 3 → (s.cuTask o).masks.length = 8 →
    (∀ i, i < 64 → bitOf (cuMask (s.cuTask o) o.w) i = true → isNanLane (nth a i 0) = false ∧ isNanLane (nth b i 0) = false) →
    ∃ t y, exec (.cuCmp cu) s = .next t ∧ TaskGoes s t o y [R.CU_VEC_ISSUES.at (s.unitWindow o.n)] ∧ y.pc = o.pc + 1 ∧
      y.lanes = (s.cuTask o).lanes ∧ (∀ j, j ≠ k → y.mask j = (s.cuTask o).mask j) ∧
      (∀ i, i < 64 → bitOf (y.mask k) i = if bitOf (cuMask (s.cuTask o) o.w) i then f32Cmp (bitsOf o.w 43 3) (nth a i 0) (nth b i 0)
        else bitOf ((s.cuTask o).mask k) i)) ∧
  (∀ (s : State) (cu : UnitId) (o : CuOp) (a : List W32), s.cuReady cu.val = some o → bitsOf o.w 0 8 = 0x2A →
    a = cuSource (s.cuTask o) o.w (bitsOf o.w 16 6) (bitOf o.w 38) →
    ∃ t es, exec (.cuRed cu) s = .next (t.cuEvents o es) ∧
      VectorResult s t o (fun i => if i = 0 then redTree (if bitsOf o.w 43 3 = 0 then f32Add else f32Max) a else 0)) ∧
  (∀ (s : State) (cu : UnitId) (o : CuOp) (x : CuSt) (k : Nat), s.cuReady cu.val = some o → bitsOf o.w 0 8 = 0x2B → x = s.cu o.n →
    k = 2 ^ bitsOf o.w 43 3 → bitsOf o.w 19 4 % k = 0 →
    exec (.cuRowsum cu) s = .next (((s.setCu o.n (x.setBankRow (bitsOf o.w 16 3) (bitsOf o.w 19 4 / k)
      (x.bankRow (bitsOf o.w 16 3) (bitsOf o.w 19 4)) (cuMask (s.cuTask o) o.w))).cuCountVec o).cuAdvance o)) ∧
  (∀ (s : State) (cu : UnitId) (o : CuOp) (x : CuSt) (k : Nat) (v : List W32), s.cuReady cu.val = some o → bitsOf o.w 0 8 = 0x2B →
    x = s.cu o.n → k = 2 ^ bitsOf o.w 43 3 → bitsOf o.w 19 4 % k ≠ 0 →
    v = (List.range 64).map (fun i => f32Add (nth (x.bankRow (bitsOf o.w 16 3) (bitsOf o.w 19 4 / k)) i 0)
      (nth (x.bankRow (bitsOf o.w 16 3) (bitsOf o.w 19 4)) i 0)) →
    ∃ es, exec (.cuRowsum cu) s = .next ((((s.setCu o.n (x.setBankRow (bitsOf o.w 16 3) (bitsOf o.w 19 4 / k) v
      (cuMask (s.cuTask o) o.w))).cuCountVec o).cuAdvance o).cuEvents o es)) ∧
  (∀ (s : State) (cu : UnitId) (o : CuOp) (f n : Nat) (bs : List Byte), s.cuReady cu.val = some o → bitsOf o.w 0 8 = 0x29 →
    bitOf o.w 43 = true → f = bitsOf o.w 39 4 → n = blkLen (bitsOf o.w 44 3) → bs = (s.cuTask o).regBytes (bitsOf o.w 16 6) →
    ∃ t es, exec (.cuCvt cu) s = .next (t.cuEvents o es) ∧
      VectorResult s t o (fun i => nth (widenRow f n (bitOf o.w 48) (ofF32 (cvtScale (s.cuTask o) o.w))
        ((List.range 64).map (packedElem f bs)) (if n = 0 then [] else ((s.cuTask o).regBytes (bitsOf o.w 16 6 + 1)).map (fun b => b.toNat)))
        i 0)) ∧
  (∀ (s : State) (cu : UnitId) (o : CuOp) (f vd : Nat) (a : List W32), s.cuReady cu.val = some o → bitsOf o.w 0 8 = 0x29 →
    bitOf o.w 43 = false → cvtStochastic o.w = false → f = bitsOf o.w 39 4 → vd = bitsOf o.w 11 5 → blkLen (bitsOf o.w 44 3) = 0 →
    a = cuSource (s.cuTask o) o.w (bitsOf o.w 16 6) false →
    ∃ t y es, exec (.cuCvt cu) s = .next (t.cuEvents o es) ∧
      TaskGoes { s with freeCtr := t.freeCtr } t o y [R.CU_VEC_ISSUES.at (s.unitWindow o.n)] ∧ y.pc = o.pc + 1 ∧
      y.reg vd = lanesOf (packInto f ((s.cuTask o).regBytes vd) (narrowRow f 0 (bitOf o.w 48) (ofF32 (cvtScale (s.cuTask o) o.w))
        (a.map ofF32) (List.replicate 64 none)).1 (cuMask (s.cuTask o) o.w) s.free) ∧
      (∀ r i, r ≠ vd → i < 64 → y.lane r i = (s.cuTask o).lane r i)) ∧
  (∀ (s : State) (cu : UnitId) (o : CuOp) (a : List W32), s.cuReady cu.val = some o → bitsOf o.w 0 8 = 0x2C →
    (bitsOf o.w 16 6 < 32 ∨ bitsOf o.w 16 6 = 40) → a = cuSource (s.cuTask o) o.w (bitsOf o.w 16 6) (bitOf o.w 38) →
    ∃ t y, exec (.cuMov cu) s = .next t ∧ TaskGoes s t o y [] ∧ y.pc = o.pc + 1 ∧
      (∀ i, i < 64 → y.lane (bitsOf o.w 11 5) i =
        if bitOf (cuMask (s.cuTask o) o.w) i then nth a i 0 else (s.cuTask o).lane (bitsOf o.w 11 5) i) ∧
      (∀ r i, r ≠ bitsOf o.w 11 5 → i < 64 → y.lane r i = (s.cuTask o).lane r i)) ∧
  (∀ (s : State) (cu : UnitId) (o : CuOp), s.cuReady cu.val = some o → bitsOf o.w 0 8 = 0x2D →
    ∃ t y, exec (.cuMovi cu) s = .next t ∧ TaskGoes s t o y [] ∧ y.pc = o.pc + 1 ∧
      (∀ i, i < 64 → y.lane (bitsOf o.w 11 5) i = BitVec.ofNat 32 (bitsOf o.w 32 32)) ∧
      (∀ r i, r ≠ bitsOf o.w 11 5 → i < 64 → y.lane r i = (s.cuTask o).lane r i))

/-- R173, R178, R180, R182, R187, R269. A load takes its tokens into the buffer or the scale store; `STB` and `STS` write a register's bytes
there; `DRAIN` and `BLOAD` move a row between a register and a bank; `SEND` puts a register's tokens, or a control token, on an output; an
`MM` begins, and once its A is there it completes. -/
def Obligations.UnitStoresAndBanksMove : Prop :=
  (∀ (s : State) (cu : UnitId) (o : CuOp), s.cuReady cu.val = some o → bitsOf o.w 0 8 = 0x11 →
    exec (.cuLdb cu) s = .next (((s.cuAdvance o).setCu o.n { (s.cuAdvance o).cu o.n with
      intakes := (s.cu o.n).intakes ++ [⟨o.t, bitsOf o.w 11 3, cuTag (s.cuTask o) o.w, false, bitsOf o.w 14 11, bitsOf o.w 25 12⟩] }).feedCu
      o.n)) ∧
  (∀ (s : State) (cu : UnitId) (o : CuOp), s.cuReady cu.val = some o → bitsOf o.w 0 8 = 0x12 →
    exec (.cuLds cu) s = .next (((s.cuAdvance o).setCu o.n { (s.cuAdvance o).cu o.n with
      intakes := (s.cu o.n).intakes ++ [⟨o.t, bitsOf o.w 11 3, cuTag (s.cuTask o) o.w, true, bitsOf o.w 14 13, bitsOf o.w 27 8⟩] }).feedCu
      o.n)) ∧
  (∀ (s : State) (cu : UnitId) (o : CuOp), s.cuReady cu.val = some o → bitsOf o.w 0 8 = 0x13 →
    memWf (s.cu o.n).buf = true →
    ∃ t, exec (.cuStb cu) s = .next t ∧ (t.cu o.n).acc = (s.cu o.n).acc ∧ (t.cu o.n).scales = (s.cu o.n).scales ∧ t.regs = s.regs ∧
      (t.cu o.n).tasks = setNth (s.cu o.n).tasks o.t { s.cuTask o with pc := o.pc + 1 } ∧
      (∀ i, i < 64 * bitsOf o.w 33 3 → i < 256 →
        memGet (t.cu o.n).buf (64 * bitsOf o.w 22 11 + i) = nth ((s.cuTask o).regBytes (bitsOf o.w 16 6)) i 0) ∧
      (∀ a, (a < 64 * bitsOf o.w 22 11 ∨ 64 * bitsOf o.w 22 11 + 64 * bitsOf o.w 33 3 ≤ a) →
        memGet (t.cu o.n).buf a = memGet (s.cu o.n).buf a)) ∧
  (∀ (s : State) (cu : UnitId) (o : CuOp), s.cuReady cu.val = some o → bitsOf o.w 0 8 = 0x14 →
    memWf (s.cu o.n).scales = true →
    ∃ t, exec (.cuSts cu) s = .next t ∧ (t.cu o.n).acc = (s.cu o.n).acc ∧ (t.cu o.n).buf = (s.cu o.n).buf ∧ t.regs = s.regs ∧
      (t.cu o.n).tasks = setNth (s.cu o.n).tasks o.t { s.cuTask o with pc := o.pc + 1 } ∧
      (∀ i, i < bitsOf o.w 35 7 →
        memGet (t.cu o.n).scales (bitsOf o.w 22 13 + i) = nth ((s.cuTask o).regBytes (bitsOf o.w 16 6)) i 0) ∧
      (∀ a, (a < bitsOf o.w 22 13 ∨ bitsOf o.w 22 13 + bitsOf o.w 35 7 ≤ a) →
        memGet (t.cu o.n).scales a = memGet (s.cu o.n).scales a)) ∧
  (∀ (s : State) (cu : UnitId) (o : CuOp), s.cuReady cu.val = some o → bitsOf o.w 0 8 = 0x18 →
    ∃ t y, exec (.cuDrain cu) s = .next t ∧ TaskGoes s t o y [] ∧ y.pc = o.pc + 1 ∧
      (∀ i, i < 64 → y.lane (bitsOf o.w 11 5) i = nth ((s.cu o.n).bankRow (bitsOf o.w 16 3) (bitsOf o.w 19 4)) i 0) ∧
      (∀ r i, r ≠ bitsOf o.w 11 5 → i < 64 → y.lane r i = (s.cuTask o).lane r i)) ∧
  (∀ (s : State) (cu : UnitId) (o : CuOp), s.cuReady cu.val = some o → bitsOf o.w 0 8 = 0x19 →
    ∃ t, exec (.cuBload cu) s = .next t ∧ t.regs = s.regs ∧ (t.cu o.n).buf = (s.cu o.n).buf ∧
      (t.cu o.n).tasks = setNth (s.cu o.n).tasks o.t { s.cuTask o with pc := o.pc + 1 } ∧
      (t.cu o.n).bankRow (bitsOf o.w 22 3) (bitsOf o.w 25 4) = (s.cuTask o).reg (bitsOf o.w 16 6) ∧
      (∀ b r, r < 16 → (b ≠ bitsOf o.w 22 3 ∨ r ≠ bitsOf o.w 25 4) → (t.cu o.n).bankRow b r = (s.cu o.n).bankRow b r)) ∧
  (∀ (s : State) (cu : UnitId) (o : CuOp) (p : Nat) (ts : List Token), s.cuReady cu.val = some o → bitsOf o.w 0 8 = 0x30 →
    bitOf o.w 47 = false → p = bitsOf o.w 37 2 → p < (s.cu o.n).outs.length →
    ts = (sentPayloads (bitsOf o.w 39 4) (s.cuTask o) (bitsOf o.w 16 6)).map (fun bs =>
      ⟨cuTag (s.cuTask o) o.w, bitsOf o.w 43 2, false, (s.cuTask o).marked (bitsOf o.w 16 6), bs, 0, 0⟩) → bitOf o.w 46 = false →
    ∃ t, exec (.cuSend cu) s = .next t ∧ (nth (t.cu o.n).outs p .empty).tokens = (nth (s.cu o.n).outs p .empty).tokens ++ ts ∧
      (∀ k, k ≠ p → nth (t.cu o.n).outs k .empty = nth (s.cu o.n).outs k .empty) ∧ t.regs = s.regs ∧ (t.cu o.n).buf = (s.cu o.n).buf ∧
      (t.cu o.n).tasks = setNth (s.cu o.n).tasks o.t { s.cuTask o with pc := o.pc + 1 }) ∧
  (∀ (s : State) (cu : UnitId) (o : CuOp), s.cuReady cu.val = some o → bitsOf o.w 0 8 = 0x30 → bitOf o.w 47 = true →
    (s.cuTask o).marked (bitsOf o.w 16 6) = true → exec (.cuSend cu) s = .next (s.castPoisoned o.first)) ∧
  (∀ (s u : State) (cu : UnitId) (o : CuOp), s.cuReady cu.val = some o → bitsOf o.w 0 8 = 0x10 → u = s.cuGoto o (o.pc + 2) →
    ∃ m, exec (.cuMm cu) s = .next ((u.setCu o.n { u.cu o.n with mm := some m }).feedCu o.n) ∧ m.task = o.t ∧ m.w0 = o.w ∧ m.w1 = o.v ∧
      m.tag = cuTag (s.cuTask o) o.w ∧ m.ta = (if bitOf o.v 26 then (s.cuTask o).lane (bitsOf o.v 21 5) 0 else 0x3F800000#32) ∧
      m.tb = (if bitOf o.v 50 then (s.cuTask o).lane (bitsOf o.v 45 5) 0 else 0x3F800000#32) ∧
      m.aLeft = (if bitOf o.w 26 then 0 else ceilDiv (mmABytes o.w) 64) ∧
      m.sLeft = (if bitOf o.w 26 = false ∧ bitsOf o.v 0 3 ≠ 0 then ceilDiv (mmAScales o.w o.v) 64 else 0)) ∧
  (∀ (s : State) (cu : UnitId) (first : Nat) (x : CastRun) (m : MmSt), s.stepOn (cu.val / 32) = some (first, x) →
    (s.cu cu.val).mm = some m → m.aLeft = 0 → m.sLeft = 0 → exec (.mmComplete cu) s = .next (s.mmDone first x cu.val m))

/-- R173 to R177, R182, R238 to R243. A matrix instruction that completes without an event leaves in each cell of its bank the element that
its rule gives, started from the cell where it accumulates and from +0 otherwise; every other bank stands, and the engine is free. -/
def Obligations.MatrixResultsFillTheBank : Prop :=
  ∀ (s t : State) (first n b : Nat) (x : CastRun) (m : MmSt) (start : Nat → Nat → W32) (el : Nat → Nat → W32 × List NanEvent),
    b = bitsOf m.w0 12 3 →
    (∀ r c, start r c = if bitOf m.w0 11 then mgetD (s.cu n).acc (1024 * b + 64 * r + c) 0 else 0) →
    (∀ r c, el r c = mmElement (cuPrecise n) m.w0 m.w1 ((ofF32 m.ta).mul (ofF32 m.tb)) (start r c)
      (mmTerms m.w0 m.w1 ((s.cu n).mmData m) r c)) →
    (∀ r c, r < 16 → c < 64 → (el r c).2 = []) → t = s.mmDone first x n m →
    (∀ r c, r < 16 → c < 64 → mgetD (t.cu n).acc (1024 * b + 64 * r + c) 0 = (el r c).1) ∧
    (∀ a, (a < 1024 * b ∨ 1024 * (b + 1) ≤ a) → mgetD (t.cu n).acc a 0 = mgetD (s.cu n).acc a 0) ∧
    (t.cu n).mm = none ∧ (t.cu n).buf = (s.cu n).buf ∧ (t.cu n).tasks = (s.cu n).tasks ∧ (∀ k, k ≠ n → t.cu k = s.cu k) ∧
    SameRegsBut s t [R.CU_MM_FIRINGS.at (s.unitWindow n)]

/-! ## Absent units, reductions and the fault log -/

/-- R186. A reduction combines lanes `2i` and `2i + 1` for `i` from 0 to 31, then adjacent results in the same way, over six levels, with the
same result for the same inputs on every unit: `RED` with operation 0 adds with one rounding to nearest even in every addition, and with
operation 1 applies `MAX`. -/
def Obligations.ReductionsCombineInAFixedTree : Prop :=
  (∀ (f : W32 → W32 → W32) (a : List W32) (l : Nat → Nat → W32), a.length = 64 → (∀ i, i < 64 → l 0 i = nth a i 0) →
    (∀ k, k < 6 → ∀ i, i < 2 ^ (5 - k) → l (k + 1) i = f (l k (2 * i)) (l k (2 * i + 1))) → redTree f a = l 6 0) ∧
  (∀ a b : W32, f32Add a b = toF32 ((ofF32 a).add (ofF32 b))) ∧
  (∀ (s : State) (cu : UnitId) (o : CuOp) (a : List W32), s.cuReady cu.val = some o → bitsOf o.w 0 8 = 0x2A →
    a = cuSource (s.cuTask o) o.w (bitsOf o.w 16 6) (bitOf o.w 38) →
    ∃ t es, exec (.cuRed cu) s = .next (t.cuEvents o es) ∧
      VectorResult s t o (fun i => if i = 0 then redTree (if bitsOf o.w 43 3 = 0 then f32Add else f32Max) a else 0))

/-! ## Memory units -/

/-- R208 to R210, R219, R276. A read stream sends its next line where its output takes it; a write stream and an adding one place the oldest
token of an iteration in their window, and drop one that lies behind it; a list stream moves its entry once its bytes are there; `SYNC`
goes on once the other generator has completed its count, and `END` finishes the generator. R201, R202, R231. A patrol scrub of a clean
line counts its read; a corrected error is counted and logged with its bank and line, and an uncorrectable one also leaves the line
poisoned; the last line of the unit completes a pass. -/
def Obligations.StreamsMoveLines : Prop :=
  (∀ (s : State) (mu : UnitId) (a : Fin 4) (o : AgOp), AgReady s o → o.n = mu.val → o.a = a.val → bitsOf o.w 0 4 = 1 →
    (nth (s.mu o.n).outs (bitsOf o.w 10 2) .empty).tokens.length < 2 → muRingOf o.w = none →
    exec (.affRead mu a) s = .next (s.readLine o (64 * bitsOf o.w 12 14))) ∧
  (∀ (s : State) (mu : UnitId) (a : Fin 4) (o : AgOp) (r : Nat), AgReady s o → o.n = mu.val → o.a = a.val → bitsOf o.w 0 4 = 1 →
    (nth (s.mu o.n).outs (bitsOf o.w 10 2) .empty).tokens.length < 2 → muRingOf o.w = some r →
    ringLag (s.agRing o r).2.tail ((s.agRing o r).2.cons (bitsOf o.w 29 1)) ≠ 0 →
    exec (.affRead mu a) s = .next (s.readLine o ((s.agRing o r).1.slotAt ((s.agRing o r).2.cons (bitsOf o.w 29 1))))) ∧
  (∀ (s : State) (mu : UnitId) (a : Fin 4) (o : AgOp) (h : Held) (ls : List Level) (k : Nat), AgReady s o → o.n = mu.val → o.a = a.val →
    bitsOf o.w 0 4 = 2 → ls = muLevels o.ws (s.ag o).pc → s.streamToken o (tagCount ls o.w) = some h →
    k = tagAhead h.token.tag (bitsOf o.w 33 16 + (s.ag o).base) → k < 32768 →
    mgetD (s.ag o).written ((s.ag o).base + k) 0 < linesPerTag ls o.w → muRingOf o.w = none →
    exec (.affWrite mu a) s = .next (s.placeToken o false (64 * bitsOf o.w 12 14) ((s.ag o).base + k) h)) ∧
  (∀ (s : State) (mu : UnitId) (a : Fin 4) (o : AgOp) (h : Held) (ls : List Level) (k : Nat), AgReady s o → o.n = mu.val → o.a = a.val →
    bitsOf o.w 0 4 = 2 → ls = muLevels o.ws (s.ag o).pc → s.streamToken o (tagCount ls o.w) = some h →
    k = tagAhead h.token.tag (bitsOf o.w 33 16 + (s.ag o).base) → 32768 ≤ k →
    exec (.affWrite mu a) s = .next ((s.setMu o.n { s.mu o.n with store := (s.mu o.n).store.erase h }).tagFault o.first h)) ∧
  (∀ (s : State) (mu : UnitId) (a : Fin 4) (o : AgOp) (h : Held) (ls : List Level) (k : Nat), AgReady s o → o.n = mu.val → o.a = a.val →
    bitsOf o.w 0 4 = 3 → ls = muLevels o.ws (s.ag o).pc → s.streamToken o (tagCount ls o.w) = some h →
    k = tagAhead h.token.tag (bitsOf o.w 33 16 + (s.ag o).base) → k < 32768 →
    mgetD (s.ag o).written ((s.ag o).base + k) 0 < linesPerTag ls o.w → muRingOf o.w = none →
    exec (.affAdd mu a) s = .next (s.placeToken o true (64 * bitsOf o.w 12 14) ((s.ag o).base + k) h)) ∧
  (∀ (s u : State) (mu : UnitId) (a : Fin 4) (o : AgOp) (e : Entry), AgReady s o → o.n = mu.val → o.a = a.val → bitsOf o.w 0 4 = 4 →
    u = (if (s.ag o).phase = 0 then s.listBegin o false else s) → (u.stepOn (o.n / 32)).isSome = true → (u.ag o).phase ≠ 0 →
    u.outstanding o.issuer = [] → u.listCurrent o = some e →
    exec (.listFetch mu a) s = .next (u.fetchPart o e)) ∧
  (∀ (s u : State) (mu : UnitId) (a : Fin 4) (o : AgOp) (e : Entry), AgReady s o → o.n = mu.val → o.a = a.val → bitsOf o.w 0 4 = 5 →
    u = (if (s.ag o).phase = 0 then s.listBegin o true else s) → (u.stepOn (o.n / 32)).isSome = true → (u.ag o).phase ≠ 0 →
    u.outstanding o.issuer = [] → u.listCurrent o = some e → (u.ag o).phase ≠ 0x10000 →
    exec (.listStore mu a) s = .next (u.storePart o e)) ∧
  (∀ (s : State) (mu : UnitId) (a : Fin 4) (o : AgOp), AgReady s o → o.n = mu.val → o.a = a.val → bitsOf o.w 0 4 = 6 →
    bitsOf o.w 6 12 ≤ (nth (s.mu o.n).ags (bitsOf o.w 4 2) .fresh).completed →
    ∃ t g, exec (.muSync mu a) s = .next t ∧ AgGoes s t o g ∧ g.pc = (s.ag o).pc + muLen o.w ∧
      g.completed = (s.ag o).completed + 1 ∧ g.done = 0 ∧ g.base = 0 ∧ g.finished = false) ∧
  (∀ (s : State) (mu : UnitId) (a : Fin 4) (o : AgOp), AgReady s o → o.n = mu.val → o.a = a.val → bitsOf o.w 0 4 = 6 →
    (nth (s.mu o.n).ags (bitsOf o.w 4 2) .fresh).completed < bitsOf o.w 6 12 → exec (.muSync mu a) s = .next s) ∧
  (∀ (s : State) (mu : UnitId) (a : Fin 4) (o : AgOp), AgReady s o → o.n = mu.val → o.a = a.val → bitsOf o.w 0 4 = 0 →
    ∃ t g, exec (.agEnd mu a) s = .next t ∧ AgGoes s t o g ∧ g.finished = true ∧ g.completed = (s.ag o).completed + 1 ∧
      g.pc = (s.ag o).pc) ∧
  (∀ (s : State) (mu : UnitId) (line : Nat), s.hasUnit mu.val = true → line % 16384 ≠ 16383 →
    exec (.patrolScrub mu line 0) s = .next (s.countLines false (0x100000 * mu.val + 64 * (line % 16384)) 64)) ∧
  (∀ (s : State) (mu : UnitId), s.hasUnit mu.val = true →
    exec (.patrolScrub mu 16383 0) s = .next ((s.countLines false (0x100000 * mu.val + 64 * 16383) 64).count F.MU_ECC_SCRUB_PASSES
      (s.unitWindow mu.val))) ∧
  (∀ (s u : State) (mu : UnitId) (line a w : Nat), s.hasUnit mu.val = true → line < 16383 → a = 0x100000 * mu.val + 64 * line →
    w = s.unitWindow mu.val →
    u = (((s.countLines false a 64).count F.MU_ECC_CORRECTED w).setF F.MU_ECC_LAST_BANK (line % 8) w).setF F.MU_ECC_LAST_LINE line w →
    exec (.patrolScrub mu line 1) s = .next (u.fault 0x1101 .site ((s.countLines false a 64).unitSite true mu.val) 0xFF none (BitVec.ofNat 64 (u.globalOf a)))) ∧
  (∀ (s u v : State) (mu : UnitId) (line a w : Nat), s.hasUnit mu.val = true → line < 16383 → a = 0x100000 * mu.val + 64 * line →
    w = s.unitWindow mu.val →
    u = (((s.countLines false a 64).count F.MU_ECC_UNCORRECTED w).setF F.MU_ECC_LAST_BANK (line % 8) w).setF F.MU_ECC_LAST_LINE line w →
    v = { u with memory := { u.memory with poison := sinsert u.memory.poison (a / 64) } } →
    exec (.patrolScrub mu line 2) s =
      .next (v.fault 0x2102 .site ((s.countLines false a 64).unitSite true mu.val) 0xFF none (BitVec.ofNat 64 (u.globalOf a)))) ∧
  (∀ (s : State) (mu : UnitId) (line : Nat) (outcome : Fin 3), s.hasUnit mu.val = false →
    exec (.patrolScrub mu line outcome) s = .next s)

/-- R201, R208, R212. A line that a stream writes takes the low bits of the token and keeps the rest, and no other byte changes; a line that a
read stream sends carries the bits inside the extents and zeros beyond them, with the line's mark, on the stream's output port. -/
def Obligations.LinesKeepTheBitsOutsideTheExtents : Prop :=
  (∀ (s : State) (a bits new : Nat) (mark : Bool), MemoryCanonical s → a % 64 = 0 → a + 64 ≤ 0x40000000 → bits ≤ 512 →
    (s.putLine a bits new mark).bytes a 64 =
      leBytes 64 (new % 2 ^ bits + leNat (s.bytes a 64) / 2 ^ bits * 2 ^ bits) ∧
    SameBytesBut s (s.putLine a bits new mark) a 64 ∧ MemoryCanonical (s.putLine a bits new mark) ∧
    (s.putLine a bits new mark).fabric = s.fabric ∧ (mark = true → (s.putLine a bits new mark).poisoned a 64 = true)) ∧
  (∀ (s : State) (o : AgOp) (start bits : Nat) (is : List Nat) (x : Int), is = indexesOf (muLevels o.ws (s.ag o).pc) (s.ag o).done →
    bits = insideBits (wordAt o.ws ((s.ag o).pc + 1)) (bitsOf o.w 51 4) (muLevels o.ws (s.ag o).pc) is → bits ≠ 0 →
    x = (start : Int) + nestOffset (muLevels o.ws (s.ag o).pc) is → inFootprint (s.agHeader o) x = true → muRingOf o.w = none →
    bitsOf o.w 10 2 < (s.mu o.n).outs.length →
    (nth ((s.readLine o start).mu o.n).outs (bitsOf o.w 10 2) .empty).tokens = (nth (s.mu o.n).outs (bitsOf o.w 10 2) .empty).tokens ++
      [{ tag := (bitsOf o.w 33 16 + (s.ag o).done / linesPerTag (muLevels o.ws (s.ag o).pc) o.w) % 65536, task := bitsOf o.w 49 2
         ctrl := false, poison := s.poisoned (0x100000 * o.n + x.toNat) 64
         payload := leBytes 64 (leNat (s.bytes (0x100000 * o.n + x.toNat) 64) % 2 ^ bits), chan := 0, steerTag := 0 }] ∧
    (s.readLine o start).memory = s.memory ∧ (∀ k, k ≠ o.n → (s.readLine o start).mu k = s.mu k))

/-! ## Remote memory and the Plain -/

/-- R462, R464, R466 to R469. An inbound message that a window admits is applied and answered: a read returns the bytes with their mark, a
write is stored and its window notified, an atomic changes its word and returns the old value, a ring put fills the slot at `TAIL`; an
access to the device's own Plain goes there in whole lines. A store changes the bytes it names and no other. -/
def Obligations.RemoteAccessesAreApplied : Prop :=
  (∀ (s : State) (m : Msg) (w : Nat), Arrives s m 0x01 → s.lacks m.addr m.arg1.toNat = false →
    s.windowFor F.ALT_RM_WIN_CTRL_R m m.arg1.toNat = some w → regionOf m.addr ≠ Region.plain →
    exec (.read m) s = .next ((s.countLines false m.addr m.arg1.toNat).respond m 0x02 (if s.poisoned m.addr m.arg1.toNat then 1 else 0)
      (s.poisoned m.addr m.arg1.toNat) (s.bytes m.addr m.arg1.toNat))) ∧
  (∀ (s : State) (m : Msg) (w : Nat) (l : Nat × Nat), Arrives s m 0x01 → s.lacks m.addr m.arg1.toNat = false →
    s.windowFor F.ALT_RM_WIN_CTRL_R m m.arg1.toNat = some w → regionOf m.addr = Region.plain →
    l = lineSpan (m.addr - plainBase) m.arg1.toNat →
    exec (.read m) s = .next (s.issuePlain (.reply m 4) 0x40 l.1 l.2 m.job.val false [])) ∧
  (∀ (s : State) (m : Msg) (w : Nat), Arrives s m 0x03 → s.lacks m.addr m.data.length = false →
    s.windowFor F.ALT_RM_WIN_CTRL_W m m.data.length = some w → regionOf m.addr ≠ Region.plain →
    exec (.write m) s = .next ((((s.store m.addr m.data m.poison).countLines true m.addr m.data.length).notify w m.data.length).respond
      m 0x04 0)) ∧
  (∀ (s : State) (m : Msg) (w n : Nat) (op : AmoOp), Arrives s m 0x05 → n = (if m.arg0.toNat.testBit 4 then 8 else 4) →
    s.lacks m.addr n = false → s.windowFor F.ALT_RM_WIN_CTRL_A m n = some w → amoOf (m.arg0.toNat % 16) = some op →
    regionOf m.addr = Region.basin → m.addr % n = 0 → s.poisoned m.addr n = false →
    exec (.atomic m) s = .next ((((s.store m.addr (leBytes n (amoValue op (8 * n) (leNat (s.bytes m.addr n)) m.arg1.toNat)))
      |>.breakReservations (s.globalOf m.addr)).notify w 8).respond m 0x06 0 false (leBytes 8 (leNat (s.bytes m.addr n))))) ∧
  (∀ (s : State) (m : Msg) (w : Nat), Arrives s m 0x08 → s.lacks m.addr m.data.length = false →
    s.windowFor F.ALT_RM_WIN_CTRL_W m m.data.length = some w → regionOf m.addr ≠ Region.plain → s.putRing m.addr = none →
    exec (.tilePut m) s = .next ((((s.store m.addr m.data m.poison).countLines true m.addr m.data.length).notify w m.data.length).respond
      m 0x09 0)) ∧
  (∀ (s : State) (m : Msg) (w n r : Nat) (d : RingDecl) (x : RingPtr) (a : Nat), Arrives s m 0x08 → s.lacks m.addr m.data.length = false →
    s.windowFor F.ALT_RM_WIN_CTRL_W m m.data.length = some w → s.putRing m.addr = some (n, r) → s.ringOf n r = (d, x) →
    m.data.length ≤ 64 * d.lines → x.fill d.twoCons < d.slots → a = s.slotOffset n r x.tail →
    exec (.tilePut m) s = .next (((((s.store a (padTo (64 * d.lines) m.data) m.poison).countLines true a (64 * d.lines)).setRing n r
      { x with tail := (x.tail + 1) % 65536 }).notify w m.data.length).respond m 0x09 0)) ∧
  (∀ (s : State) (m : Msg) (w n r : Nat) (d : RingDecl) (x : RingPtr), Arrives s m 0x08 → s.lacks m.addr m.data.length = false →
    s.windowFor F.ALT_RM_WIN_CTRL_W m m.data.length = some w → s.putRing m.addr = some (n, r) → s.ringOf n r = (d, x) →
    m.data.length ≤ 64 * d.lines → d.slots ≤ x.fill d.twoCons →
    exec (.tilePut m) s = .next (s.respond m 0x09 5)) ∧
  (∀ (s : State) (a : Nat) (bs : List Byte) (mark : Bool), MemoryCanonical s → a + bs.length ≤ plainBase →
    (s.store a bs mark).bytes a bs.length = bs ∧ SameBytesBut s (s.store a bs mark) a bs.length ∧ MemoryCanonical (s.store a bs mark) ∧
    s.store a bs mark = { s with memory := (s.store a bs mark).memory })

/-- R466, R469. A message whose bytes lie in a region that the device lacks is answered `NOT_PRESENT`, and one that no window admits is
counted and answered `NO_WINDOW`; neither changes memory, and a write, an atomic or a tile put for this chip changes memory only where a
window with its right admits it. -/
def Obligations.InboundMessagesNeedAWindow : Prop :=
  (∀ (s : State) (m : Msg) (c : Instr) (op n : Nat) (right : Field),
    (c, op, right, n) ∈ [(Instr.read m, 0x01, F.ALT_RM_WIN_CTRL_R, m.arg1.toNat), (.write m, 0x03, F.ALT_RM_WIN_CTRL_W, m.data.length),
      (.atomic m, 0x05, F.ALT_RM_WIN_CTRL_A, if m.arg0.toNat.testBit 4 then 8 else 4),
      (.tilePut m, 0x08, F.ALT_RM_WIN_CTRL_W, m.data.length)] →
    Arrives s m op → (s.lacks m.addr n = true ∨ s.windowFor right m n = none) →
    exec c s = .next (if s.lacks m.addr n then s.respond m (responseOf op) 3
      else (s.count F.ALT_RM_STAT_NO_WINDOW).respond m (responseOf op) 2)) ∧
  (∀ (s t : State) (m : Msg) (c : Instr), c ∈ [Instr.read m, .write m, .atomic m, .tilePut m] →
    (∀ w right n, w < 64 → s.windowAdmits w right m.src.toNat m.job.val m.addr n = false) → exec c s = .next t → t.memory = s.memory) ∧
  (∀ (s : State) (w : Nat) (right : Field) (src job a len : Nat), s.windowAdmits w right src job a len = true →
    s.fb F.ALT_RM_WIN_CTRL_VALID w = true ∧ s.fb right w = true ∧ s.f F.ALT_RM_WIN_BASE_FIRST w * frameBytes ≤ a ∧
    a + len ≤ (s.f F.ALT_RM_WIN_BASE_FIRST w + s.f F.ALT_RM_WIN_BASE_FRAMES w) * frameBytes ∧
    s.f F.ALT_RM_WIN_CTRL_FIRST_CHIP w ≤ src ∧ src < s.f F.ALT_RM_WIN_CTRL_FIRST_CHIP w + s.f F.ALT_RM_WIN_CTRL_CHIP_COUNT w ∧
    (s.fb F.ALT_RM_WIN_CTRL_ANY_JOB w = true ∨ s.f F.ALT_RM_WIN_CTRL_SRC_JOB w = job))

/-- R461, R462, R468 to R470. A response ends the request that waits for it: data is delivered with its mark and an acknowledgement counts;
`BUSY` has the message sent again 1 µs later; a refusal ends the issuing command with its status; a response that nothing waits for is
counted in `LATE`; a response missing after the limit ends the command `TIMEOUT`. R446, R447. Data from the Plain is delivered to what
asked for it, and an acknowledgement goes on with it; status 1 or 3 adds a mark, a count and a fault, status 2 ends the command `ABSENT`,
and no answer within the limit ends it `TIMEOUT`. -/
def Obligations.ResponsesEndRequests : Prop :=
  (∀ (s : State) (m : Msg) (x : Request), Arrives s m 0x02 → Awaited s m [0x01] x → m.arg0.toNat % 8 ≤ 1 → (∀ c, x.issuer ≠ .core c) →
    exec (.readData m) s = .next (((s.dropRequest x.xid).deliver x.msg.dst x.msg.addr (m.data.take x.msg.arg1)
      (m.arg0.toNat % 8 == 1 || m.poison)).requestDone x)) ∧
  (∀ (s : State) (m : Msg) (x : Request) (c : Nat), Arrives s m 0x02 → Awaited s m [0x01] x → m.arg0.toNat % 8 ≤ 1 → x.issuer = .core c →
    exec (.readData m) s = .next ((s.dropRequest x.xid).coreLineArrived c m.data (m.arg0.toNat % 8 == 1 || m.poison))) ∧
  (∀ (s : State) (m : Msg) (x : Request), Arrives s m 0x04 → Awaited s m [0x03, 0x20, 0x21] x → m.arg0.toNat % 8 = 0 → m.poison = false →
    exec (.writeAck m) s = .next ((s.dropRequest x.xid).requestDone x)) ∧
  (∀ (s : State) (m : Msg) (x : Request), Arrives s m 0x04 → Awaited s m [0x03, 0x20, 0x21] x → m.arg0.toNat % 8 = 1 →
    exec (.writeAck m) s = .next ((s.dropRequest x.xid).writePoisoned x)) ∧
  (∀ (s : State) (m : Msg) (x : Request) (c : Nat), Arrives s m 0x06 → Awaited s m [0x05] x → m.arg0.toNat % 8 = 0 → m.poison = false →
    x.issuer = .core c →
    exec (.atomicData m) s = .next ((s.dropRequest x.xid).coreAtomicArrived c (leNat (m.data.take 8)))) ∧
  (∀ (s : State) (m : Msg) (x : Request), Arrives s m 0x09 → Awaited s m [0x08] x → m.arg0.toNat % 8 = 0 → m.poison = false →
    exec (.tileAck m) s = .next ((s.dropRequest x.xid).requestDone x)) ∧
  (∀ (s : State) (m : Msg) (x : Request), Arrives s m 0x09 → Awaited s m [0x08] x → m.arg0.toNat % 8 = 5 →
    exec (.tileAck m) s = .next (s.mapRequest x.xid (fun y => { y with busyAt := some s.now }))) ∧
  (∀ (s : State) (m : Msg) (c : Instr) (op : Nat) (ops : List Nat), (c, op, ops) ∈ [(Instr.readData m, 0x02, [0x01]),
      (.writeAck m, 0x04, [0x03, 0x20, 0x21]), (.atomicData m, 0x06, [0x05]), (.tileAck m, 0x09, [0x08])] → Arrives s m op →
    (∀ x, Awaited s m ops x → m.arg0.toNat % 8 ∈ [2, 3, 4] → exec c s = .next (s.failRequest x (refusalStatus (m.arg0.toNat % 8)))) ∧
    (s.requestOf m.xid.toNat false = none → exec c s = .next (s.count F.ALT_RM_STAT_LATE))) ∧
  (∀ (s v : State) (xid : BitVec 32) (x : Request) (t : Nat), s.requestOf xid.toNat false = some x → x.busyAt = some t → t + 1000 ≤ s.now →
    v = (s.count F.ALT_RM_STAT_BUSY_RESENDS).mapRequest x.xid (fun y => { y with busyAt := none, sentAt := s.now }) →
    (v.send x.msg).2 = .sent → exec (.ringPutResend xid) s = .next (v.send x.msg).1) ∧
  (∀ (s : State) (xid : BitVec 32) (x : Request), s.requestOf xid.toNat false = some x → x.busyAt = none → x.msg.op ≠ 0x21 →
    x.sentAt + 1000 * (if s.f F.ALT_RM_CFG_RM_TIMEOUT_US = 0 then 1000 else s.f F.ALT_RM_CFG_RM_TIMEOUT_US) < s.now →
    exec (.rmTimeout xid) s = .next ((s.count F.ALT_RM_STAT_TIMEOUTS).failRequest x .timeout)) ∧
  (∀ (s v : State) (m : PlainRsp) (x : Request) (a n : Nat), (s.linkState m.link.val = 6 ∨ s.linkState m.link.val = 7) →
    s.requestOf m.xid.toNat true = some x → x.msg.op = 0x40 → x.plainLink = some m.link.val → m.status % 4 = 0 →
    a = plainBase + x.msg.addr → n = min x.msg.arg1 m.data.length → v = (s.dropRequest x.xid).markUnits a n false →
    exec (.pData m) s = .next (({ v with memory := { v.memory with plain := plainWrite s.memory.plain a (m.data.take n) } }.plainDone x
      m.data false).flushPlain)) ∧
  (∀ (s u v : State) (m : PlainRsp) (x : Request) (a n : Nat), (s.linkState m.link.val = 6 ∨ s.linkState m.link.val = 7) →
    s.requestOf m.xid.toNat true = some x → x.msg.op = 0x40 → x.plainLink = some m.link.val → m.status % 4 ∈ [1, 3] →
    a = plainBase + x.msg.addr → n = min x.msg.arg1 m.data.length →
    u = (s.count F.PLN_STAT_POISONED).fault 0x2601 .link m.link.val x.msg.job none (BitVec.ofNat 64 (s.globalOf a)) →
    v = (u.dropRequest x.xid).markUnits a n true →
    exec (.pData m) s = .next (({ v with memory := { v.memory with plain := plainWrite v.memory.plain a (m.data.take n) } }.plainDone x
      m.data true).flushPlain)) ∧
  (∀ (s : State) (m : PlainRsp) (x : Request), (s.linkState m.link.val = 6 ∨ s.linkState m.link.val = 7) →
    s.requestOf m.xid.toNat true = some x → x.msg.op = 0x42 → x.plainLink = some m.link.val → m.status % 4 = 0 →
    exec (.pWack m) s = .next (((s.dropRequest x.xid).plainDone x m.data false).flushPlain)) ∧
  (∀ (s : State) (m : PlainRsp) (x : Request) (c : Instr) (op : Nat), (c, op) ∈ [(Instr.pData m, 0x40), (.pWack m, 0x42)] →
    (s.linkState m.link.val = 6 ∨ s.linkState m.link.val = 7) → s.requestOf m.xid.toNat true = some x → x.msg.op = op →
    x.plainLink = some m.link.val → m.status % 4 = 2 →
    exec c s = .next (((s.count F.PLN_STAT_RANGE_ERR).failRequest x .absent).flushPlain)) ∧
  (∀ (s : State) (l : LinkId) (xid : BitVec 32) (x : Request), s.requestOf xid.toNat true = some x →
    (x.plainLink = some l.val ∨ x.plainLink = some 22) →
    x.sentAt + 1000 * (if s.f F.PLN_CFG_TIMEOUT_US = 0 then 100 else s.f F.PLN_CFG_TIMEOUT_US) ≤ s.now →
    exec (.plainTimeout l xid) s = .next (((s.count F.PLN_STAT_TIMEOUTS).failRequest x .timeout).flushPlain))

/-! ## Lost chips and promotion -/

/-- R438, R441, R538, R539, R542, R543. A notice that has not been seen has the effect of its kind and spreads where its kind says;
`GOING_DOWN` makes its source lost; `UNREACHABLE` ends the work that sent the message; a port without a carrying link for `LOST_US` µs is
lost. A chip that is lost is in the lost set, and a notice seen before has no effect. -/
def Obligations.NoticesSpreadAndChipsAreLost : Prop :=
  (∀ (s : State) (m : Msg), Arrives s m 0x28 → m.xid.toNat ∈ s.faults.seenNotices → exec (.faultNotice m) s = .next s) ∧
  (∀ (s v : State) (m : Msg) (x : Nat), Arrives s m 0x28 → m.xid.toNat ∉ s.faults.seenNotices → m.arg0.toNat % 256 = 1 →
    x = m.arg1.toNat % 4096 → v = ((s.noteXid m.xid.toNat).flood 1 x m.xid.toNat (s.portOf m.link.val)).addLost x →
    exec (.faultNotice m) s = .next (if v.partnerChip x then v.autoPromote 1 x else v)) ∧
  (∀ (s v : State) (m : Msg), Arrives s m 0x28 → m.xid.toNat ∉ s.faults.seenNotices → m.arg0.toNat % 256 = 2 →
    v = (s.noteXid m.xid.toNat).addLost m.src.toNat →
    exec (.faultNotice m) s = .next (if v.partnerChip m.src.toNat then v.autoPromote 2 m.src.toNat else v)) ∧
  (∀ (s v : State) (m : Msg) (x : Nat), Arrives s m 0x28 → m.xid.toNat ∉ s.faults.seenNotices → m.arg0.toNat % 256 = 3 →
    x = m.arg1.toNat % 4096 → v = (s.noteXid m.xid.toNat).flood 3 x m.xid.toNat (s.portOf m.link.val) →
    exec (.faultNotice m) s = .next (if v.fb F.FLT_PENDANT_VALID = true ∧ v.fb F.FLT_PENDANT_ROLE = false then v.stopPrimary
      else v.autoPromote 4 x)) ∧
  (∀ (s v : State) (m : Msg), Arrives s m 0x29 → v = s.addLost m.src.toNat →
    exec (.goingDown m) s = .next (if v.partnerChip m.src.toNat then v.autoPromote 3 m.src.toNat else v)) ∧
  (∀ (s : State) (m : Msg), Arrives s m 0x2A →
    exec (.unreachable m) s = .next (s.undelivered m.arg0.toNat (m.arg1.toNat % 4096) m.xid.toNat)) ∧
  (∀ (s : State) (p : LPort) (t : Nat), (s.lport p.val).noCarry = some t → s.fb F.ALT_PORT_CFG_VALID p.val = true →
    s.fb F.ALT_PORT_STAT_LOST p.val = false →
    t + 1000 * (if s.f F.ALT_PORT_CFG_LOST_US p.val = 0 then 20 else s.f F.ALT_PORT_CFG_LOST_US p.val) ≤ s.now →
    exec (.portLost p) s = .next (s.losePort p.val)) ∧
  (∀ (s : State) (op dst xid : Nat) (x : Request), op ∈ [0x01, 0x03, 0x05, 0x08, 0x20, 0x21] → s.requestOf xid false = some x →
    s.undelivered op dst xid = s.failRequest x .memberLost) ∧
  (∀ (s : State) (xid : Nat), (s.noteXid xid).faults.seenNotices = (xid :: s.faults.seenNotices).take 64)

/-! ## Links -/

/-- R422, R423, R428 to R431. A link climbs from `DARK` to `UP` by light, locked rings, codeword lock, an identity that agrees and credits; a
loss of light or of a ring, a limit that passes, a drain and a recalibration take it where the state table says; an identity that does not
agree holds it in `IDENT`; a laser input shows what it measures. -/
def Obligations.LinksFollowTheirStateMachine : Prop :=
  (∀ (s : State) (l : LinkId), s.part.hasLink l.val = true → s.linkState l.val = 1 → exec (.lightDetected l) s = .next (s.enterTune l.val)) ∧
  (∀ (s : State) (l : LinkId), s.linkState l.val = 6 → exec (.lightLoss l) s = .next (s.leaveUp l.val 1 1)) ∧
  (∀ (s : State) (l : LinkId), 2 ≤ s.linkState l.val → s.linkState l.val < 6 →
    exec (.lightLoss l) s = .next ((s.setF F.ALT_LINK_STAT_LAST_FAIL 1 l.val).setLinkState l.val 1)) ∧
  (∀ (s : State) (l : LinkId) (hs : List Nat), s.part.hasLink l.val = true → 2 ≤ s.linkState l.val → s.linkState l.val ≠ 9 →
    hs.length = 16 → exec (.tuningLoop l hs) s = .next (s.setLink l.val { s.link l.val with heaters := hs })) ∧
  (∀ (s : State) (l : LinkId) (ring : Fin 8), s.linkState l.val = 6 →
    exec (.ringLockLost l ring) s = .next (((s.setF F.ALT_LINK_OPT_RING_LOCK
      (s.f F.ALT_LINK_OPT_RING_LOCK l.val &&& (255 - 2 ^ ring.val)) l.val).leaveUp l.val 2 6).enterTune l.val)) ∧
  (∀ (s u : State) (l : LinkId), s.linkState l.val = 2 → s.fb F.ALT_LASER_LOW (laserOfLink l.val) = false →
    u = (if (s.link l.val).searching then (s.putRecord (s.freshRecord 1 l.val)).setF F.ALT_LINK_STAT_CALSTALE 0 l.val else s) →
    exec (.ringsLocked l) s = .next (((u.setLink l.val { s.link l.val with searching := false }).setF F.ALT_LINK_OPT_RING_LOCK 0xFF
      l.val).setLinkState l.val 3)) ∧
  (∀ (s : State) (l : LinkId), s.fb F.ALT_LASER_LOW (laserOfLink l.val) = true → exec (.ringsLocked l) s = .next s) ∧
  (∀ (s : State) (l : LinkId), (s.linkState l.val = 2 ∨ s.linkState l.val = 3) → (s.link l.val).patternAt = none →
    exec (.patternDetected l) s = .next (s.setLink l.val { s.link l.val with patternAt := some s.now })) ∧
  (∀ (s : State) (l : LinkId) (t : Nat), s.linkState l.val = 3 → (s.link l.val).patternAt = some t →
    exec (.codewordLock l) s = .next ((s.setLinkState l.val 4).emit (.ident l.val s.chip (s.fb F.ALT_MESH_VALID) s.part.code))) ∧
  (∀ (s : State) (l : LinkId) (i : IdentInfo), s.linkState l.val = 4 → s.fb F.ALT_LINK_STAT_MISMATCH l.val = false →
    exec (.ident l i) s = .next (s.identify l.val i)) ∧
  (∀ (s : State) (l : LinkId) (i : IdentInfo), s.linkState l.val = 4 → s.fb F.ALT_LINK_STAT_MISMATCH l.val = true →
    (s.link l.val).identAt + 10000000 ≤ s.now → exec (.identRetry l i) s =
      .next ((s.emit (.ident l.val s.chip (s.fb F.ALT_MESH_VALID) s.part.code)).identify l.val i)) ∧
  (∀ (s u : State) (l : LinkId) (cs : List Nat) (n : Nat) (x : LinkSt), s.linkState l.val = 5 →
    x = (s.link l.val).resumed (decide (l.val < 18)) cs n →
    u = ((s.setLink l.val x).setF F.ALT_LINK_STAT_ATTEMPTS 0 l.val).setLinkState l.val 6 →
    exec (.credit l cs n) s = .next (((u.putFlits l.val x.txAcked x.unacked).drainLink l.val).releaseRecals.flushPlain)) ∧
  (∀ (s u : State) (l : LinkId) (t st : Nat), s.linkLimit l.val = some t → t ≤ s.now → st = s.linkState l.val →
    s.f F.ALT_LINK_STAT_ATTEMPTS l.val < 2 →
    u = (s.setF F.ALT_LINK_STAT_LAST_FAIL (if st = 2 then 2 else if st = 3 then 3 else 4) l.val).setF F.ALT_LINK_STAT_ATTEMPTS
      (s.f F.ALT_LINK_STAT_ATTEMPTS l.val + 1) l.val →
    exec (.trainingTimeout l) s = .next (u.setLinkState l.val 1)) ∧
  (∀ (s u : State) (l : LinkId) (t st cause : Nat), s.linkLimit l.val = some t → t ≤ s.now → st = s.linkState l.val →
    2 ≤ s.f F.ALT_LINK_STAT_ATTEMPTS l.val → cause = (if st = 2 then 2 else if st = 3 then 3 else 4) →
    u = (s.setF F.ALT_LINK_STAT_LAST_FAIL cause l.val).setF F.ALT_LINK_STAT_ATTEMPTS 3 l.val →
    exec (.trainingTimeout l) s = .next ((u.setLinkState l.val 9).fault 0x3502 .link l.val 0xFF none (BitVec.ofNat 64 cause))) ∧
  (∀ (s : State) (l : LinkId), s.linkState l.val = 7 → (∀ p, p < 8 → ∀ t ∈ (s.lport p).txq, t.link ≠ some l.val) →
    (∀ x ∈ s.net.requests, x.plainLink ≠ some l.val) →
    exec (.drainComplete l) s = .next (s.setLinkState l.val (s.link l.val).drainTo)) ∧
  (∀ (s : State) (l : LinkId), s.linkState l.val = 8 →
    exec (.recalComplete l) s = .next (((s.endRecovery .link l.val).count F.FLT_CAL_STAT_RECALS).enterTune l.val)) ∧
  (∀ (s : State) (i : Fin 12) (wave : Fin 8) (power : Int), s.part.hasLaser i.val = true → power < 52 →
    exec (.laserLow i wave power) s = .next (((s.setF F.ALT_LASER_IN_MIN (encodeSigned 8 power) i.val).setF F.ALT_LASER_PRESENT
      (s.f F.ALT_LASER_PRESENT i.val &&& (255 - 2 ^ wave.val)) i.val).setF F.ALT_LASER_LOW 1 i.val)) ∧
  (∀ (s : State) (i : Fin 12) (power : Int), s.part.hasLaser i.val = true → 52 ≤ power →
    exec (.laserInputRestored i power) s = .next (((s.setF F.ALT_LASER_IN_MIN (encodeSigned 8 power) i.val).setF F.ALT_LASER_PRESENT 0xFF
      i.val).setF F.ALT_LASER_LOW 0 i.val))

/-- R428, R430, R431, R445. A link that enters a state is in that state and has changed; `TUNE` starts from a record inside its window and
from a full search otherwise; an identity that does not agree leaves the link in `IDENT` with `MISMATCH`, and one that agrees takes it to
`CREDIT`. -/
def Obligations.LinkStatesAreEntered : Prop :=
  (∀ (s : State) (l st : Nat), l < 22 → st < 16 → s.linkState l ≠ st →
    (s.setLinkState l st).linkState l = st ∧ (s.setLinkState l st).fb F.ALT_LINK_STAT_CHANGED l = true ∧
    ((s.setLinkState l st).link l).since = s.now ∧ ∀ k, k < 22 → k ≠ l → (s.setLinkState l st).linkState k = s.linkState k) ∧
  (∀ (s : State) (l : Nat) (c : CalRecord), l < 22 → s.linkState l = 1 → s.calRecord 1 l = some c → s.recordValid c = true →
    (s.link l).forceSearch = false → (s.enterTune l).linkState l = 2 ∧ ((s.enterTune l).link l).searching = false) ∧
  (∀ (s : State) (l : Nat), l < 22 → s.linkState l = 1 → (∀ c, s.calRecord 1 l = some c → s.recordValid c = false) →
    (s.enterTune l).linkState l = 2 ∧ ((s.enterTune l).link l).searching = true) ∧
  (∀ (s : State) (l : Nat) (i : IdentInfo) (p : Nat), l < 18 → s.linkState l = 4 → s.portOf l = some p →
    (i.plain = true ∨ s.fb F.ALT_MESH_VALID = false ∨ i.chipValid = false ∨ s.f F.ALT_PORT_CFG_PEER_CHIP p ≠ i.chip.toNat) →
    (s.identify l i).linkState l = 4 ∧ (s.identify l i).fb F.ALT_LINK_STAT_MISMATCH l = true) ∧
  (∀ (s : State) (l : Nat) (i : IdentInfo) (p : Nat), l < 18 → s.linkState l = 4 → s.portOf l = some p → i.plain = false →
    s.fb F.ALT_MESH_VALID = true → i.chipValid = true → s.f F.ALT_PORT_CFG_PEER_CHIP p = i.chip.toNat →
    (s.identify l i).linkState l = 5 ∧ (s.identify l i).fb F.ALT_LINK_STAT_MISMATCH l = false)

/-- R432, R433. A good data flit with the expected number is taken after its acknowledgement and its credits; one that is out of order,
damaged or in an uncorrectable codeword is discarded, counted and answered with `NAK`; `NAK` replays from the acknowledged flit, and the
eighth replay of the same flit takes the link to `ALIGN`. -/
def Obligations.FlitsAreTakenInOrder : Prop :=
  (∀ (s u v : State) (l : LinkId) (x : Flit), s.linkState l.val = 6 →
    u = (((s.count F.ALT_LINK_FEC_CW_CORRECTED l.val 0 x.cwCorrected).count F.ALT_LINK_FEC_CW_UNCORR l.val 0 x.cwUncorr).setF
      F.ALT_LINK_FEC_PEAK_SYM (max (((s.count F.ALT_LINK_FEC_CW_CORRECTED l.val 0 x.cwCorrected).count F.ALT_LINK_FEC_CW_UNCORR l.val 0
        x.cwUncorr).f F.ALT_LINK_FEC_PEAK_SYM l.val) (min x.peakSym 15)) l.val).countCodewords l.val x.cwUncorr →
    (u.linkState l.val = 6 ∨ u.linkState l.val = 7) →
    ((x.crcOk = false ∨ 0 < x.cwUncorr) →
      exec (.flit l x) s = .next ((u.count F.ALT_LINK_ERR_CRC_ERR l.val).emit (.linkCtl l.val 1 (((u.link l.val).rxNext + 4095) % 4096)))) ∧
    (x.crcOk = true → x.cwUncorr = 0 → v = (u.takeAck l.val x.ack).takeCredits l.val x.crvc x.credits → x.nak = false → x.kind = 1 →
      x.seq ≠ (v.link l.val).rxNext →
      exec (.flit l x) s = .next ((v.count F.ALT_LINK_ERR_CRC_ERR l.val).emit (.linkCtl l.val 1 (((v.link l.val).rxNext + 4095) % 4096)))) ∧
    (x.crcOk = true → x.cwUncorr = 0 → v = (u.takeAck l.val x.ack).takeCredits l.val x.crvc x.credits → x.nak = false → x.kind = 1 →
      x.seq = (v.link l.val).rxNext → exec (.flit l x) s = .next (v.takeData l.val x)) ∧
    (x.crcOk = true → x.cwUncorr = 0 → v = (u.takeAck l.val x.ack).takeCredits l.val x.crvc x.credits → x.nak = true → x.kind ≠ 1 →
      exec (.flit l x) s = .next (v.replay l.val))) ∧
  (∀ (s : State) (l : Nat) (x : Flit), x.eom = false →
    (s.takeData l x).link l = { s.link l with
      rxNext := ((s.link l).rxNext + 1) % 4096, freed := setNth (s.link l).freed x.vc (nth (s.link l).freed x.vc 0 + 1)
      assembling := setNth (s.link l).assembling x.vc
        (if x.som then x.payload else nth (s.link l).assembling x.vc [] ++ x.payload) } ∧
    (∀ k, k ≠ l → (s.takeData l x).link k = s.link k) ∧ (s.takeData l x).regs = s.regs ∧ (s.takeData l x).memory = s.memory) ∧
  (∀ (s : State) (l : Nat), (s.link l).replaySeq = (s.link l).txAcked → 7 ≤ (s.link l).replays →
    s.replay l = (((s.setLink l { s.link l with replays := (s.link l).replays + 1 }).count F.ALT_LINK_ERR_REPLAYS l).emit
      (.linkCtl l 3 ((s.link l).txAcked % 4096))).leaveUp l 3 5)

/-! ## Recovery and calibration -/

/-- R530, R532, R534, R547, R548, R549. A check every 100 ms queues each record outside its window; a recalibration writes a record or logs
the channel's failure, and is put off below the floor; a column retires between steps and its units move; a failed Saddle row takes a
spare, and is fenced once both are spent; a channel's remap ends its copying; a core that reports ready hands the roll on, and one that
does not in 500 ms ends it. -/
def Obligations.RecoveryActionsTakeEffect : Prop :=
  (∀ (s v : State), s.inService = true → s.cal.checked + 100000000 ≤ s.now →
    v = { s with cal := { s.cal with checked := s.now } } →
    exec .calValidityCheck s = .next ((v.cal.records.foldl (fun s x => if s.recordValid x then s else s.calStale x.kind x.element)
      v).updateDeferred)) ∧
  (∀ (s : State), s.now < s.cal.checked + 100000000 → exec .calValidityCheck s = .next s) ∧
  (∀ (s : State) (e : Nat) (x : CalRecord), s.inService = true → (0, e) ∈ s.cal.queued → s.fb F.GLB_RATE_BELOW_FLOOR = false →
    exec (.recalibration 0 e true x) s = .next (((((s.degradeMovers (e / 16)).dequeueCal 0 e)).putRecord
      { x with kind := 0, element := e }).count F.FLT_CAL_STAT_RECALS) ∧
    exec (.recalibration 0 e false x) s = .next (((s.degradeMovers (e / 16)).dequeueCal 0 e).fault 0x3303 .hbmChannel e)) ∧
  (∀ (s : State) (k e : Nat) (x : CalRecord), s.inService = true → (k, e) ∈ s.cal.queued → (k = 4 ∨ k = 5 ∨ k = 2 ∨ k = 3 ∧ s.siteBusy e = false) →
    exec (.recalibration k e true x) s = .next (((s.dequeueCal k e).putRecord { x with kind := k, element := e }).count F.FLT_CAL_STAT_RECALS)) ∧
  (∀ (s : State) (k e : Nat) (ok : Bool) (x : CalRecord), s.inService = true → (k, e) ∈ s.cal.queued → k ≤ 1 →
    s.fb F.GLB_RATE_BELOW_FLOOR = true → s.reportsErrors k e = false →
    exec (.recalibration k e ok x) s = .next (s.setF F.FLT_CAL_STAT_DEFERRED 1)) ∧
  (∀ (s : State) (die : Fin 2) (i : Nat), s.retiringSite die.val = some i →
    (∀ d ∈ s.dalesFrom die.val (siteCol i), s.stepOn d = none) →
    exec (.columnRetirement die) s = .next ((s.dalesFrom die.val (siteCol i)).foldl (fun s d => s.endRecovery .dale d)
      (((s.moveWindows die.val (siteCol i)).setF (if die.val = 0 then F.FAB_COL_MAP_W_RETIRED else F.FAB_COL_MAP_E_RETIRED)
        (siteCol i)).endRecovery .site i))) ∧
  (∀ (s : State) (die : Fin 2) (i d : Nat), s.retiringSite die.val = some i → d ∈ s.dalesFrom die.val (siteCol i) →
    (s.stepOn d).isSome = true → exec (.columnRetirement die) s = .next s) ∧
  (∀ (s v : State) (die : Fin 2) (row : Fin 32) (k : Nat), k = rowLink die.val row.val → k ∉ s.fabric.failedRows → k ∉ s.fabric.fencedRows →
    v = s.fault 0x3205 .die die.val →
    exec (.saddleRowFailure die row) s = .next
      (if nth s.fabric.sparesSpent die.val 0 + (s.fabric.failedRows.filter (fun j => j / 32 == die.val)).length < 2 then
        ({ v with fabric := { v.fabric with failedRows := v.fabric.failedRows ++ [k] } }).beginRecovery .die die.val
      else { v with fabric := { v.fabric with fencedRows := sinsert v.fabric.fencedRows k } })) ∧
  (∀ (s v : State) (row : Fin 32) (k : Nat), k = rowLink 0 row.val → s.fabric.failedRows = [k] → s.saddleBusy = false →
    (s.f F.FAB_SADDLE_LINKS_W2E_SPARED).testBit row.val = false →
    v = { s with fabric := { s.fabric with
      failedRows := [], sparesSpent := setNth s.fabric.sparesSpent 0 (nth s.fabric.sparesSpent 0 0 + 1) } } →
    exec (.saddleSpare 0 row) s = .next (((v.setF F.FAB_SADDLE_LINKS_W2E_SPARED (s.f F.FAB_SADDLE_LINKS_W2E_SPARED ||| 2 ^ row.val)).count
      F.FAB_SADDLE_STAT_SPARES_USED).endRecovery .die 0)) ∧
  (∀ (s : State) (die : Fin 2) (row : Fin 32), s.saddleBusy = true → exec (.saddleSpare die row) s = .next s) ∧
  (∀ (s : State) (i : Nat), s.fb F.FLT_HBM_COPYING_W = true → s.copyingChannel 0 = some i →
    exec (.hbmChannelRemap 0) s = .next (((s.setF F.FLT_HBM_COPYING_W 0).setF F.FLT_HBM_RET_W i).endRecovery .hbmChannel i)) ∧
  (∀ (s : State) (i : Nat), s.fb F.FLT_HBM_COPYING_E = true → s.copyingChannel 1 = some i →
    exec (.hbmChannelRemap 1) s = .next (((s.setF F.FLT_HBM_COPYING_E 0).setF F.FLT_HBM_RET_E i).endRecovery .hbmChannel i)) ∧
  (∀ (s v : State) (core : Fin 4) (x : Roll), s.inService = true → s.mgmt.roll = some x → x.done + core.val = 3 →
    s.now ≤ x.since + 500000000 →
    v = s.setF F.FLT_FW_STAT_IMAGE (if s.fw.activeB then s.f F.FLT_FW_STAT_IMAGE &&& (15 - 2 ^ core.val)
      else s.f F.FLT_FW_STAT_IMAGE ||| 2 ^ core.val) →
    (x.done < 3 → exec (.fwCoreReady core) s = .next { v.setF F.FLT_FW_STAT_ROLL_CORE (2 - x.done) with
      mgmt := { v.mgmt with roll := some { x with done := x.done + 1, since := s.now } } }) ∧
    (x.done = 3 → ∃ u : State, exec (.fwCoreReady core) s = .next (u.answerRoll x.hdr Status.ok.code) ∧ u.fw.activeB = !s.fw.activeB ∧
      u.power.runningB = !s.fw.activeB ∧ u.mgmt.roll = none ∧ u.f F.FLT_FW_STAT_ROLL = 2 ∧ u.memory = s.memory ∧
      u.f F.SEC_BOOT_STAT_VERSION = s.fwVersion (!s.fw.activeB) % 2 ^ 32)) ∧
  (∀ (s v : State) (core : Fin 4) (x : Roll), s.inService = true → s.mgmt.roll = some x → x.done + core.val = 3 →
    x.since + 500000000 < s.now → v = s.setF F.FLT_FW_STAT_IMAGE (if s.power.runningB then 15 else 0) →
    exec (.fwCoreTimeout core) s = .next ((((v.endRoll 3).fault 0x1903 .device 0).drawn).answerRoll x.hdr
      (((v.endRoll 3).fault 0x1903 .device 0).free % 256)))

/-! ## Ports -/

/-- R495, R496, R500 to R502. Each of the four events loses a port that works; a port that returns takes its queues up again; Bus Master
Enable follows its writes; an access through the aperture reaches what the aperture's job owns, and is otherwise denied and counted;
unmasking sends what was pending. -/
def Obligations.PortEventsTakeEffect : Prop :=
  (∀ (s : State) (p : PortId) (c : Instr) (cause : Nat),
    (c, cause) ∈ [(Instr.perstN p, 1), (.functionLevelReset p, 2), (.surpriseDown p, 3), (.d3hotEntry p, 4)] →
    exec c s = .next (s.losePcie p.val cause)) ∧
  (∀ (s : State) (p cause : Nat), (s.power.good = false ∨ s.portLost p = true) → s.losePcie p cause = s) ∧
  (∀ (s : State) (p : Nat), p < 2 →
    (∀ w, w < 16 → (s.clearWindows p).fb F.GLB_HWIN_SIZE_VALID p w = false ∧
      (s.clearWindows p).r R.GLB_HWIN_SIZE (1 - p) w = s.r R.GLB_HWIN_SIZE (1 - p) w ∧
      (s.clearWindows p).r R.GLB_HWIN_BASE (1 - p) w = s.r R.GLB_HWIN_BASE (1 - p) w) ∧
    (s.clearWindows p).fb F.GLB_APERTURE_VALID p = false ∧ (s.clearWindows p).r R.GLB_APERTURE (1 - p) = s.r R.GLB_APERTURE (1 - p) ∧
    s.clearWindows p = { s with regs := (s.clearWindows p).regs }) ∧
  (∀ (s v : State) (p : PortId) (speed : Fin 8) (width : Fin 32),
    v = ((s.setF F.GLB_PORT_STAT_LINK_UP 1 p.val).setF F.GLB_PORT_STAT_SPEED speed.val p.val).setF F.GLB_PORT_STAT_WIDTH width.val p.val →
    exec (.portReturn p speed width) s = .next (if s.portLost p.val then
        ((((v.setPort p.val { v.port p.val with busMaster := true }).queuesOn p.val).foldl (fun t q => t.reopenQueue q)
          ((v.setPort p.val { v.port p.val with busMaster := true }).setF F.GLB_PORT_STAT_LOST 0 p.val)).killRings p.val)
      else v.setPort p.val { v.port p.val with busMaster := true })) ∧
  (∀ (s : State) (p : PortId), exec (.busMasterDisable p) s = .next (s.setPort p.val { s.port p.val with busMaster := false }) ∧
    exec (.busMasterEnable p) s = .next (s.setPort p.val { s.port p.val with busMaster := true })) ∧
  (∀ (s : State) (p : PortId) (off : BitVec 36) (bs : List Byte) (a : Nat), a = s.f F.GLB_APERTURE_BASE p.val * 2 ^ 30 + off.toNat →
    (s.fb F.GLB_APERTURE_VALID p.val = false ∨ s.apertureAllows (s.f F.GLB_APERTURE_JOB p.val) a bs.length = false) →
    exec (.apertureAccess p off true bs) s = .next (s.count F.GLB_PORT_STAT_APER_DENY p.val) ∧
    exec (.apertureAccess p off false bs) s = .next ((s.count F.GLB_PORT_STAT_APER_DENY p.val).emit
      (.readData (.port p) false (List.replicate bs.length 0#8)))) ∧
  (∀ (s : State) (p : PortId) (off : BitVec 36) (bs : List Byte) (a : Nat), a = s.f F.GLB_APERTURE_BASE p.val * 2 ^ 30 + off.toNat →
    s.fb F.GLB_APERTURE_VALID p.val = true → s.apertureAllows (s.f F.GLB_APERTURE_JOB p.val) a bs.length = true →
    regionOf a ≠ Region.plain →
    exec (.apertureAccess p off true bs) s = .next ((s.store a bs).countLines true a bs.length) ∧
    exec (.apertureAccess p off false bs) s = .next ((s.countLines false a bs.length).emit
      (.readData (.port p) (s.poisoned a bs.length) (s.bytes a bs.length)))) ∧
  (∀ (s : State) (p : PortId) (off : BitVec 36) (bs : List Byte) (a : Nat), a = s.f F.GLB_APERTURE_BASE p.val * 2 ^ 30 + off.toNat →
    s.fb F.GLB_APERTURE_VALID p.val = true → s.apertureAllows (s.f F.GLB_APERTURE_JOB p.val) a bs.length = true →
    regionOf a = Region.plain →
    exec (.apertureAccess p off false bs) s = .next (s.issuePlain (.aperture p.val a bs.length [] 0) 0x40
      (lineSpan (a - plainBase) bs.length).1 (lineSpan (a - plainBase) bs.length).2 (s.f F.GLB_APERTURE_JOB p.val) false [])) ∧
  (∀ (s : State) (p : PortId) (k : Fin 2048),
    exec (.msixUnmask p none) s = .next ((s.setPort p.val { s.port p.val with functionMask := false }).sendPending p.val) ∧
    exec (.msixUnmask p (some k)) s = .next (s.tableWrite p.val (0x2000008 + 16 * k.val) 0 (fieldMask 32 1))) ∧
  (∀ (s : State) (p : Nat), p < 2 → (∀ v ∈ ((s.sendPending p).port p).pendingBits, (s.port p).masked v = true) ∧
    (∀ v ∈ (s.port p).pendingBits, (s.port p).masked v = true → v ∈ ((s.sendPending p).port p).pendingBits) ∧
    s.sendPending p = { s with portA := (s.sendPending p).portA, portB := (s.sendPending p).portB, out := (s.sendPending p).out })

/-! ## The management sideband -/

/-- R505, R509, R569, R571. A session opens by a nonce and its answer, within the transport's allowance: a correct answer starts it, a wrong
one counts as a failure, and a locked role or one with a session is refused; it ends by `SESSION_CLOSE`, without a message for 30 s, or at
its expiry, and its transaction with it; a nonce and a lockout pass with their time. An MCTP control message is answered on its transport.
The layout of the MCTP control response, the role codes and the definition of the hashes are the model's (log entries 88, 91 and 95). -/
def Obligations.SessionsOpenAndEnd : Prop :=
  (∀ (s : State) (a : BitVec 7), exec (.entdaa a) s = .next { s with mgmt := { s.mgmt with i3cAddr := some a } }) ∧
  (∀ (s v : State) (t : Fin 3), s.transportOpen t.val = true → s.takeAllowance t.val = some v →
    (∀ eid, exec (.setEndpointId t eid) s = .next ({ v with mgmt := { v.mgmt with eids := setNth v.mgmt.eids t.val eid } }.emit
      (.mgmt t.val [0#8, 0#8, 1#8, 0#8, 0#8, eid, 0#8]))) ∧
    exec (.getEndpointId t) s = .next (v.emit (.mgmt t.val [0#8, 0#8, 2#8, 0#8, v.eid t.val, 0#8, 0#8])) ∧
    exec (.getMctpVersionSupport t) s = .next (v.emit (.mgmt t.val ([0#8, 0#8, 4#8, 0#8] ++ Config.mctpVersions))) ∧
    exec (.getMessageTypeSupport t) s = .next (v.emit (.mgmt t.val [0#8, 0#8, 5#8, 0#8, 2#8, 0#8, 0x7E#8])) ∧
    exec (.getVendorDefinedMessageSupport t) s = .next (v.emit (.mgmt t.val ([0#8, 0#8, 6#8, 0#8, 0xFF#8, 0#8,
      Config.vendorId.extractLsb' 8 8, Config.vendorId.extractLsb' 0 8, Config.vendorCommandSet.extractLsb' 8 8,
      Config.vendorCommandSet.extractLsb' 0 8])))) ∧
  (∀ (s v w : State) (h : MgmtHdr) (payload : List Byte) (r n : Nat) (nonce : List Byte), h.session = 0 →
    s.transportOpen h.transport.val = true → s.takeAllowance h.transport.val = some v → 8 ≤ payload.length →
    r = (nth payload 0 0).toNat → r ≤ 2 → lifetimeOf (leNat (slice payload 4 4)) = some n → w = v.settleRole r →
    nonce = shake256 (leBytes 32 w.free) 32 →
    exec (.sessionOpen h payload) s = .next (if w.fb F.SEC_ROLE_LOCKED r then w.answerOutside h 2 (some (.denied, []))
      else if (w.role r).session.isSome then w.answerOutside h 2 (some (.conflict, []))
      else (w.drawn.setRole r { w.drawn.role r with nonce := some (nonce, w.now) }).answerOutside h 2 (some (.ok, nonce)))) ∧
  (∀ (s v w : State) (h : MgmtHdr) (payload nonce : List Byte) (r n at_ : Nat), h.session = 0 → s.transportOpen h.transport.val = true →
    s.takeAllowance h.transport.val = some v → 72 ≤ payload.length → r = (nth payload 0 0).toNat → r ≤ 2 → w = v.settleRole r →
    (w.role r).session = none → (w.role r).nonce = some (nonce, at_) → lifetimeOf (leNat (slice payload 4 4)) = some n →
    exec (.sessionAuth h payload) s = .next
      (if slice payload 40 32 = sessionProof (w.roleKey r) nonce (authHdr h r (slice payload 4 4)) (slice payload 8 32)
        then (w.dropNonce r).startSession h r n nonce (slice payload 8 32)
        else ((w.dropNonce r).authFailure r).answerOutside h 3 (some (.denied, [])))) ∧
  (∀ (s u : State) (h : MgmtHdr) (r : Nat) (y : Session), Admitted s h 0x04 (some observerRole) [] u r y →
    exec (.sessionClose h) s = .next ((u.endSession r).answerInside h y 0x04 (some (.ok, [])))) ∧
  (∀ (s u : State) (h : MgmtHdr) (r : Nat) (y : Session), Admitted s h 0x05 (some observerRole) [] u r y →
    exec (.heartbeat h) s = .next (u.answerInside h y 0x05 (some (.ok, [])))) ∧
  (∀ (s : State) (r : RoleId) (y : Session), (s.role r.val).session = some y →
    (y.lastValid + 30000000000 ≤ s.now → exec (.sessionTimeout r) s = .next (s.endSession r.val)) ∧
    (y.expiry ≤ s.now → exec (.sessionExpiry r) s = .next (s.endSession r.val))) ∧
  (∀ (s : State) (r : RoleId) (n : List Byte) (t : Nat), (s.role r.val).nonce = some (n, t) → t + 10000000000 ≤ s.now →
    exec (.nonceExpiry r) s = .next (s.setRole r.val { s.role r.val with nonce := none })) ∧
  (∀ (s : State) (r : RoleId), s.fb F.SEC_ROLE_LOCKED r.val = true → (s.r R.SEC_ROLE_TIME r.val).toNat ≤ s.now →
    ∃ t, exec (.lockoutEnd r) s = .next t ∧ t.f F.SEC_ROLE_LOCKED r.val = 0 ∧ t.f F.SEC_ROLE_FAILS r.val = 0 ∧
      t.f F.SEC_ROLE_LEVEL r.val = min 10 (s.f F.SEC_ROLE_LEVEL r.val + 1) ∧ t.r R.SEC_ROLE_TIME r.val = 0 ∧
      t = { s with regs := t.regs } ∧ SameRegsBut s t [R.SEC_ROLE.at r.val, R.SEC_ROLE_TIME.at r.val]) ∧
  (∀ (s : State) (r : Nat), r < 3 → s.mgmt.roles.length = 3 →
    ((s.endSession r).role r).session = none ∧ ∀ t ∈ (s.endSession r).txs, t.opener ≠ .session r)

/-- R506, R507, R509. A request beyond the transport's allowance is discarded and counted, one from a lesser role is `DENIED`, an undefined
opcode completes `BAD_COMMAND`, and an admitted one does what its opcode says and is answered in its session: registers read and written,
a `PARTITION` transaction opened, staged, committed and rolled back, the fault log, the telemetry and the report returned, an image staged
and its roll begun, an element queued. The layout of the payloads is the model's (log entry 90). -/
def Obligations.ManagementRequestsAreAnswered : Prop :=
  (∀ (s : State) (h : MgmtHdr) (op : Nat) (need : Option Nat) (payload : List Byte) (f : State → Option Nat → State × Answer),
    s.transportOpen h.transport.val = true → s.takeAllowance h.transport.val = none →
    s.request h op need payload f = s.count F.GLB_BOARD_MGMT_DROPS) ∧
  (∀ (s v u : State) (h : MgmtHdr) (op r : Nat) (need : Nat) (payload : List Byte) (f : State → Option Nat → State × Answer) (y : Session),
    s.transportOpen h.transport.val = true → s.takeAllowance h.transport.val = some v → h.session ≠ 0 →
    v.gate h op payload = (u, .inside r y) → need < r →
    s.request h op (some need) payload f = u.answerInside h y op (some (.denied, []))) ∧
  (∀ (s v : State) (h : MgmtHdr) (p : List Byte), h.session = 0 → s.transportOpen h.transport.val = true →
    s.takeAllowance h.transport.val = some v →
    exec (.getInfo h 0x01 p) s = .next (v.answerOutside h 0x01 (some (.ok, v.infoBytes)))) ∧
  (∀ (s v : State) (h : MgmtHdr) (op : Byte) (p : List Byte), h.session = 0 → s.transportOpen h.transport.val = true →
    s.takeAllowance h.transport.val = some v → s.f F.SEC_BOOT_STAT_MODE ≠ 2 → definedMgmt op.toNat = false →
    exec (.getInfo h op p) s = .next (v.answerOutside h op.toNat (some (.badCommand, [])))) ∧
  (∀ (s u : State) (h : MgmtHdr) (os : List W64) (r : Nat) (y : Session), Admitted s h 0x10 (some observerRole) (payloadOf os) u r y →
    os.length ≤ 120 →
    exec (.regRead h os) s = .next ((os.foldl (fun s o => s.readEffect false o.toNat) u).answerInside h y 0x10
      (some (.ok, u.regBytes (os.map (fun o => o.toNat)))))) ∧
  (∀ (s u : State) (h : MgmtHdr) (off v : W64) (r : Nat) (y : Session) (x : RegInfo) (i j : Nat),
    Admitted s h 0x11 (some operatorRole) (payloadOf [off, v]) u r y → regAt? off.toNat = some (x, i, j) →
    exec (.regWrite h off v) s = .next (if sidebandWrites off.toNat x.reg
      then (u.directWrite .sideband off.toNat 8 v).answerInside h y 0x11 (some (.ok, []))
      else u.answerInside h y 0x11 (some (.denied, [])))) ∧
  (∀ (s u : State) (h : MgmtHdr) (timeout : W64) (r : Nat) (y : Session),
    Admitted s h 0x12 (some ownerRole) (payloadOf [0, timeout]) u r y → h.transport.val = 0 →
    exec (.mgmtTxBegin h 0 timeout) s = .next (if (u.scopeHeld 0 0).isSome then u.answerInside h y 0x12 (some (.conflict, []))
      else (u.openTx 0 0 (.session r) timeout.toNat).1.answerInside h y 0x12 (some (.ok, leBytes 8 u.nextHandle)))) ∧
  (∀ (s u : State) (h : MgmtHdr) (es : List SetEntry) (r : Nat) (y : Session) (t : Tx),
    Admitted s h 0x13 (some ownerRole) (payloadOf (es.flatMap (fun x => [x.off.setWidth 64, x.value, x.mask]))) u r y →
    u.txs.find? (fun t => t.opener = .session r) = some t → t.committing = false → es.length ≤ 40 →
    exec (.txSet h es) s = .next ((State.stageAll t.handle es u).1.answerInside h y 0x13 (some ((State.stageAll t.handle es u).2, [])))) ∧
  (∀ (s u : State) (h : MgmtHdr) (r : Nat) (y : Session) (t : Tx), Admitted s h 0x14 (some ownerRole) [] u r y →
    u.txs.find? (fun t => t.opener = .session r) = some t → t.committing = false →
    (u.validate { t with tag := h.tag } = none → exec (.mgmtTxCommit h) s = .next (u.setTx
      { t with tag := h.tag, committing := true, since := u.now, commitSeq := h.mseq.toNat })) ∧
    (∀ st d, u.validate { t with tag := h.tag } = some (st, d) →
      exec (.mgmtTxCommit h) s = .next ((u.rollback t.handle st d).answerInside h y 0x14 (some (st, []))))) ∧
  (∀ (s u : State) (h : MgmtHdr) (r : Nat) (y : Session) (t : Tx), Admitted s h 0x15 (some ownerRole) [] u r y →
    u.txs.find? (fun t => t.opener = .session r) = some t →
    exec (.mgmtTxAbort h) s = .next ((u.rollback t.handle .txAborted).answerInside h y 0x15 (some (.ok, [])))) ∧
  (∀ (s u : State) (h : MgmtHdr) (k r : Nat) (y : Session), Admitted s h 0x20 (some observerRole) (payloadOf [BitVec.ofNat 64 k]) u r y →
    k < 256 →
    exec (.faultLog h k) s = .next ({ u with faults := { u.faults with
      readMarks := ((List.range (min 30 (256 - k))).map (· + k)).foldl sinsert u.faults.readMarks } }.answerInside h y 0x20
        (some (.ok, ((List.range (min 30 (256 - k))).map (· + k)).flatMap u.logBytes)))) ∧
  (∀ (s u : State) (h : MgmtHdr) (r : Nat) (y : Session), Admitted s h 0x21 (some observerRole) [] u r y →
    exec (.telemetry h) s = .next (u.answerInside h y 0x21 (some (.ok, u.regBytes telemetryRegs)))) ∧
  (∀ (s u : State) (h : MgmtHdr) (nonce : List Byte) (r : Nat) (y z : Session), Admitted s h 0x22 (some observerRole) nonce u r y →
    nonce.length = 32 → (u.role r).session = some z →
    exec (.attest h nonce) s = .next (State.sendParts 52 u.drawn h z (u.attestReport nonce ++ padTo 49856
      (Config.slhSign (ascii ['F', 'Z', '2', ' ', 'A', 'T', 'T', 'E', 'S', 'T']) (u.attestReport nonce) u.freeCtr)))) ∧
  (∀ (s u : State) (h : MgmtHdr) (off : Nat) (bs : List Byte) (r : Nat) (y : Session),
    Admitted s h 0x30 (some ownerRole) (leBytes 8 off ++ bs) u r y → u.mgmt.roll = none → off + bs.length ≤ 0x4000000 →
    exec (.fwStage h off bs) s = .next ({ u with fw := if u.fw.activeB then { u.fw with slotA := slotWrite u.fw.slotA off bs }
      else { u.fw with slotB := slotWrite u.fw.slotB off bs } }.answerInside h y 0x30 (some (.ok, [])))) ∧
  (∀ (s u : State) (h : MgmtHdr) (r : Nat) (y : Session) (v : State), Admitted s h 0x31 (some ownerRole) [] u r y → u.mgmt.roll = none →
    v = u.showFail (!u.fw.activeB) (u.fwCheck (!u.fw.activeB) false) →
    (u.fwCheck (!u.fw.activeB) false ≠ 0 → exec (.fwActivate h) s = .next (v.answerInside h y 0x31 (some (.badCommand, [])))) ∧
    (u.fwCheck (!u.fw.activeB) false = 0 → v.f F.SEC_BOOT_STAT_MODE ≠ 2 → v.rollBarred (!u.fw.activeB) = false →
      exec (.fwActivate h) s = .next ((({ v with mgmt := { v.mgmt with roll := some { done := 0, since := v.now, hdr := h } } } : State).setF
        F.FLT_FW_STAT_ROLL 1).setF F.FLT_FW_STAT_ROLL_CORE 3)) ∧
    (u.fwCheck (!u.fw.activeB) false = 0 → v.f F.SEC_BOOT_STAT_MODE = 2 →
      exec (.fwActivate h) s = .next (((v.markActive (!u.fw.activeB)).bootRoms false).answerInside h y 0x31 (some (.ok, []))))) ∧
  (∀ (s u : State) (h : MgmtHdr) (k e r : Nat) (y : Session),
    Admitted s h 0x32 (some operatorRole) (payloadOf [BitVec.ofNat 64 k, BitVec.ofNat 64 e]) u r y →
    (k = 0 ∧ e < 16 * u.part.stacks ∧ e < 192 ∨ k = 1 ∧ u.part.hasLink e = true ∧ e < 22) →
    exec (.calCtrl h k e) s = .next ((u.queueCal k e).answerInside h y 0x32 (some (.ok, []))))

/-! ## Absent units, reductions and the fault log -/

/-- R521. An escalated code keeps its area and its event and carries the raised class; a fault outside a recovering domain keeps its code.
R523: a fault that does not coalesce writes one entry, at `NEXT`, with its code, job, domain, index, mark, time and datum, as not yet
read, and no other entry; one that coalesces counts in `REPEAT`. -/
def Obligations.FaultsWriteTheLog : Prop :=
  (∀ (s : State) (code i : Nat) (d : Domain), faultClass code < 5 → s.escalates d i = true →
    s.faultCode code d i % 0x1000 = code % 0x1000 ∧ faultClass (s.faultCode code d i) = faultClass code + 1) ∧
  (∀ (s : State) (code i : Nat) (d : Domain), (5 ≤ faultClass code ∨ s.escalates d i = false) → s.faultCode code d i = code) ∧
  (∀ (s t : State) (code i job e : Nat) (esc : Bool) (d : Domain) (cmd : Option (Nat × Nat)) (datum : W64), code < 2 ^ 16 →
    e = s.f F.FLT_LOG_HEAD_NEXT → t = s.writeLog code esc d i job cmd datum →
    t.f F.FLT_LOG_A_CODE e = code ∧ t.f F.FLT_LOG_A_JOB e = job % 2 ^ 8 ∧ t.f F.FLT_LOG_A_DOMAIN e = d.code % 2 ^ 4 ∧
    t.f F.FLT_LOG_A_INDEX e = i % 2 ^ 12 ∧ t.fb F.FLT_LOG_A_ESCALATED e = esc ∧ t.fb F.FLT_LOG_A_VALID e = true ∧
    t.f F.FLT_LOG_A_REPEAT e = 0 ∧ t.r R.FLT_LOG_B e = s.tb.tick ∧ t.r R.FLT_LOG_D e = datum ∧
    (∀ q n, cmd = some (q, n) → t.f F.FLT_LOG_C_SEQ e = n % 2 ^ 48 ∧ t.f F.FLT_LOG_C_QUEUE e = q % 2 ^ 12) ∧
    t.f F.FLT_LOG_HEAD_NEXT = (e + 1) % 256 ∧ e ∉ t.faults.readMarks ∧
    (∀ k, k < 256 → k ≠ e → t.r R.FLT_LOG_A k = s.r R.FLT_LOG_A k ∧ t.r R.FLT_LOG_B k = s.r R.FLT_LOG_B k ∧
      t.r R.FLT_LOG_C k = s.r R.FLT_LOG_C k ∧ t.r R.FLT_LOG_D k = s.r R.FLT_LOG_D k) ∧
    t.memory = s.memory ∧ t.queues = s.queues) ∧
  (∀ (s u : State) (code i job e : Nat) (esc : Bool) (d : Domain) (cmd : Option (Nat × Nat)) (datum : W64),
    u = s.count (classCounter (faultClass code)) → u.coalesceWith code d i job = some e →
    s.logAs code esc d i job cmd datum = { u.count F.FLT_LOG_A_REPEAT e with
      faults := { u.faults with lastRepeat := mset u.faults.lastRepeat e u.now } })

/-! ## What every form does where it runs -/

/-- Under the conditions of its rule on the state and its operands alone, each of these commands answers a next state, and the next state is
that of its own effect, for all its operands. R25, R583, R584: margins, the governor and its current limit. R385, R386: the steps of a
serving run. R171 to R198: an instruction at which the task of a compute unit stands. R199 to R231: an instruction of an address
generator, and the patrol scrub. R100 to R102, R126: the migration. Under the conditions of its rule on the state and its operands alone,
each of these commands answers a next state, and the next state is that of its own effect, for all its operands. R285 to R287: the FZ
instructions. R326 to R334: blocks, grants, acknowledgements, step words and feed records of a ring run. R442 to R448, R469, R470:
messages of other chips and of the Plain, and what waits for them. R422 to R433: the links. Under the conditions of its rule on the state
and its operands alone, each of these commands answers a next state, and the next state is that of its own effect. R31, R495: register
reads and writes, direct ones of a port among them. R300, R405, R413: pages pushed, a run stopped, a binding promoted. R422: laser inputs.
R530 to R536, R546 to R549: recoveries, calibration and firmware. R496, R500 to R502: the ports and the aperture. R505 to R509: the
sideband. R100, R330, R469, R470: a demotion, a feed record, and the time limits of requests. -/
def Obligations.CommandsTakeTheirEffect : Prop :=
  (∀ (s : State) (g : GovInput), s.f F.SEC_BOOT_STAT_MODE = 1 → s.fb F.PWR_STAT_TRIPPED = false →
    exec (.governorPeriod g) s = .next ((s.measure g).govern g)) ∧
  (∀ (s u v w : State) (die : Fin 2) (n : Fin 16), s.power.good = true → s.fb F.PWR_STAT_TRIPPED = false →
    u = (s.limitSteps (n.val + 1) die.val).count F.SEC_PLINTH_STAT_CURRENT_EVENTS →
    v = (if s.spanningActive ∨ die.val = 0 then u.setCeiling 0 (u.f F.PWR_STAT_VID_W) else u) →
    w = (if s.spanningActive ∨ die.val = 1 then v.setCeiling 1 (v.f F.PWR_STAT_VID_E) else v) →
    exec (.currentLimit die n) s = .next ((w.setF F.PWR_STAT_LIMITER 4).updateFloor)) ∧
  (∀ (s : State) (die : Fin 2),
    (if die.val = 0 then s.power.ceilW.isSome ∧ s.power.ceilWEnd ≤ s.now else s.power.ceilE.isSome ∧ s.power.ceilEEnd ≤ s.now) →
    exec (.currentCeilingExpiry die) s = .next { s with power := { s.power with
      ceilW := if die.val = 0 then none else s.power.ceilW, ceilE := if die.val = 0 then s.power.ceilE else none } }) ∧
  (∀ (s u v : State) (site : BitVec 12) (m : BitVec 8), s.siteExists site.toNat = true →
    u = (if m.toNat < s.f F.GLB_MARGIN_WORST then s.setF F.GLB_MARGIN_WORST m.toNat else s) →
    v = (if m.toNat < 16 then u.marginWarn site.toNat m.toNat else u) →
    exec (.marginEvent site m) s = .next (if m.toNat < 8 then v.marginCrit site.toNat m.toNat else v)) ∧
  (∀ (s : State) (q : QId) (r : Rec), Starts specServeStart s q.val r → r.opcode = 0x3A →
    exec (.serveStart q) s = .next ((s.takeHead q.val 0 r).runServe q.val (s.headSeq q.val) r)) ∧
  (∀ (s u v : State) (m : BindId) (x y : ServeRun) (is : List Item), mget s.serve.runs m.val = some x → x.items = [] → s.running = true →
    (∀ t ∈ s.txs, t.committing = false) → s.bindOwned m.val = true → s.formBatch m.val (some (x.q, x.seq)) = (u, is) → is ≠ [] →
    y = { x with items := is, number := (s.f F.SRV_RUN_STEP m.val + 1) % 2 ^ 58, pass := 1, drafted := false, target := false } →
    v = (u.setServeRun m.val y).setF F.SRV_RUN_PHASE (if u.draftPasses is = 0 then 3 else 2) m.val →
    exec (.batchFormation m) s = .next (match v.writeTarget m.val y with
      | .ok t => t
      | .error e => v.abandonWrite m.val (v.f F.SRV_MODEL_CFG_OWNER_JOB m.val) e)) ∧
  (∀ (s : State) (m : BindId) (x : ServeRun), mget s.serve.runs m.val = some x → x.casting = false →
    (s.f F.SRV_RUN_PHASE m.val = 2 → x.readyAt = none → exec (.draftPass m) s = .next (s.beginDraft m.val x)) ∧
    (s.f F.SRV_RUN_PHASE m.val = 3 → exec (.samplerPass m) s = .next (s.beginTarget m.val x)) ∧
    (s.f F.SRV_RUN_PHASE m.val = 5 → x.items ≠ [] → exec (.commitPoint m) s = .next (s.setServeRun m.val { x with commitDue := true }))) ∧
  (∀ (s : State) (cu : UnitId) (o : CuOp), s.cuReady cu.val = some o →
    (bitsOf o.w 0 8 = 0x10 → exec (.cuMm cu) s = .next (s.cuMm o)) ∧
    (bitsOf o.w 0 8 = 0x11 → exec (.cuLdb cu) s = .next (s.cuLoad o false)) ∧
    (bitsOf o.w 0 8 = 0x12 → exec (.cuLds cu) s = .next (s.cuLoad o true)) ∧
    (bitsOf o.w 0 8 = 0x13 → exec (.cuStb cu) s = .next (s.cuStb o)) ∧
    (bitsOf o.w 0 8 = 0x14 → exec (.cuSts cu) s = .next (s.cuSts o)) ∧
    (bitsOf o.w 0 8 = 0x18 → exec (.cuDrain cu) s = .next (s.cuDrain o)) ∧
    (bitsOf o.w 0 8 = 0x19 → exec (.cuBload cu) s = .next (s.cuBload o)) ∧
    (bitsOf o.w 0 8 = 0x20 → exec (.cuAdd cu) s = .next (s.cuLanes o 2 (fun a b _ => f32Add a b))) ∧
    (bitsOf o.w 0 8 = 0x21 → exec (.cuMul cu) s = .next (s.cuLanes o 2 (fun a b _ => f32Mul a b))) ∧
    (bitsOf o.w 0 8 = 0x22 → exec (.cuFma cu) s = .next (s.cuLanes o 3 f32Fma)) ∧
    (bitsOf o.w 0 8 = 0x23 → exec (.cuExp2 cu) s = .next (s.cuLanes o 1 (fun a _ _ => f32Exp2 a 0))) ∧
    (bitsOf o.w 0 8 = 0x24 → exec (.cuRcp cu) s = .next (s.cuLanes o 1 (fun a _ _ => f32Rcp a 0))) ∧
    (bitsOf o.w 0 8 = 0x25 → exec (.cuRsqrt cu) s = .next (s.cuLanes o 1 (fun a _ _ => f32Rsqrt a 0))) ∧
    (bitsOf o.w 0 8 = 0x26 → exec (.cuMax cu) s = .next (s.cuLanes o 2 (fun a b _ => f32Max a b))) ∧
    (bitsOf o.w 0 8 = 0x27 → exec (.cuCmp cu) s = .next (s.cuCmp o)) ∧
    (bitsOf o.w 0 8 = 0x28 → exec (.cuSel cu) s = .next (s.cuSel o)) ∧
    (bitsOf o.w 0 8 = 0x29 → exec (.cuCvt cu) s = .next (s.cuCvt o)) ∧
    (bitsOf o.w 0 8 = 0x2A → exec (.cuRed cu) s = .next (s.cuRed o)) ∧
    (bitsOf o.w 0 8 = 0x2B → exec (.cuRowsum cu) s = .next (s.cuRowsum o)) ∧
    (bitsOf o.w 0 8 = 0x2C → exec (.cuMov cu) s = .next (s.cuMov o)) ∧
    (bitsOf o.w 0 8 = 0x2D → exec (.cuMovi cu) s = .next (s.cuMovi o)) ∧
    (bitsOf o.w 0 8 = 0x30 → exec (.cuSend cu) s = .next (s.cuSend o))) ∧
  (∀ (s : State) (cu : UnitId) (first : Nat) (x : CastRun) (m : MmSt), s.stepOn (cu.val / 32) = some (first, x) →
    (s.cu cu.val).mm = some m → m.aLeft = 0 → m.sLeft = 0 →
    ∃ t, exec (.mmComplete cu) s = .next t ∧ t = s.mmDone first x cu.val m ∧ (t.cu cu.val).mm = none) ∧
  (∀ (s : State) (mu : UnitId) (a : Fin 4) (o : AgOp), AgReady s o → o.n = mu.val → o.a = a.val →
    (bitsOf o.w 0 4 = 1 → exec (.affRead mu a) s = .next (s.affRead o)) ∧
    (bitsOf o.w 0 4 = 2 → exec (.affWrite mu a) s = .next (s.affWrite o false)) ∧
    (bitsOf o.w 0 4 = 3 → exec (.affAdd mu a) s = .next (s.affWrite o true)) ∧
    (bitsOf o.w 0 4 = 4 → exec (.listFetch mu a) s = .next (s.listFetch o)) ∧
    (bitsOf o.w 0 4 = 5 → exec (.listStore mu a) s = .next (s.listStore o)) ∧
    (bitsOf o.w 0 4 = 6 → exec (.muSync mu a) s = .next (s.muSync o)) ∧
    (bitsOf o.w 0 4 = 0 → exec (.agEnd mu a) s = .next (s.muEnd o))) ∧
  (∀ (s u v : State) (mu : UnitId) (line k w : Nat) (outcome : Fin 3), s.hasUnit mu.val = true → k = line % 16384 →
    w = s.unitWindow mu.val → u = s.countLines false (0x100000 * mu.val + 64 * k) 64 →
    v = ((u.count (if outcome.val = 1 then F.MU_ECC_CORRECTED else F.MU_ECC_UNCORRECTED) w).setF F.MU_ECC_LAST_BANK (k % 8) w).setF
      F.MU_ECC_LAST_LINE k w →
    exec (.patrolScrub mu line outcome) s = .next ((fun t => if k = 16383 then t.count F.MU_ECC_SCRUB_PASSES w else t)
      (if outcome.val = 0 then u
       else (if outcome.val = 2 ∨ (v.escalates .site (s.unitSite true mu.val)) = true then
           { v with memory := { v.memory with poison := sinsert v.memory.poison (0x4000 * mu.val + k) } } else v).fault
         (if outcome.val = 1 then 0x1101 else 0x2102) .site (s.unitSite true mu.val) 0xFF none
         (BitVec.ofNat 64 (s.globalOf (0x100000 * mu.val + 64 * k)))))) ∧
  (∀ (s : State), s.frames.epoch + 2 ^ s.f F.TR_MIG_CTRL_EPOCH_LOG2 ≤ s.now →
    exec .heatEpoch s = .next { s with frames := { s.frames with
      mig := s.frames.mig.map (fun m => { m with heat := m.heat / 2 })
      epoch := s.now - (s.now - s.frames.epoch) % 2 ^ s.f F.TR_MIG_CTRL_EPOCH_LOG2 } }) ∧
  (∀ (s : State) (n : JobId) (va : W64) (m : MigPage), s.migPage n.val va.toNat = some m → m.frame = none → m.copying = 0 →
    s.f F.TR_MIG_CTRL_PROMOTE ≤ m.heat → s.freePoolFrames n.val ≠ [] →
    exec (.migrationPromote n va) s = .next (s.drawn.updMig n.val m.va (fun m => { m with
      copying := 1, copyFrame := nth (s.freePoolFrames n.val) (s.free % (s.freePoolFrames n.val).length) 0 }))) ∧
  (∀ (s : State) (n : JobId) (va : W64) (m : MigPage), s.migPage n.val va.toNat = some m → m.copying = 1 →
    ∃ t, exec (.migrationSwitch n va) s = .next t ∧ t.f F.TR_MIG_STAT_PROMOTED n.val = min (s.f F.TR_MIG_STAT_PROMOTED n.val + 1) (2 ^ 32 - 1)) ∧
  (∀ (s u : State) (c : CoreId) (rd rs1 rs2 : Fin 32) (bs : List Byte) (x : CoreSt), Fetches s c.val 4 bs u x →
    (leNat bs = fzWord 0 0 rd.val rs1.val (leNat bs / 2 ^ 20 % 32) → exec (.fzFread c rd rs1) s = .next
      (if u.coreFence x (x.xr rs1.val) then u.coreNext c.val 4 rd.val (u.fenceWord (x.xr rs1.val).toNat) else u.coreFenceDenied c.val)) ∧
    (leNat bs = fzWord 0 1 rd.val rs1.val rs2.val → exec (.fzFwait c rd rs1 rs2) s = .next
      (if u.coreFence x (x.xr rs1.val) = false then u.coreFenceDenied c.val
       else if u.waitMet (x.xr rs1.val).toNat (x.xr rs2.val).toNat then u.fwaitReturn c.val x (x.xr rs1.val).toNat rd.val
       else u.setCore c.val { x with wait := .fence (x.xr rs1.val).toNat (x.xr rs2.val).toNat rd.val })) ∧
    (leNat bs = fzWord 0 2 (leNat bs / 2 ^ 7 % 32) rs1.val rs2.val → exec (.fzFsig c rs1 rs2) s = .next
      (if u.coreFence x (x.xr rs1.val) then u.coreSignal c.val x (x.xr rs1.val).toNat (x.xr rs2.val).toNat false
       else u.coreFenceDenied c.val)) ∧
    (leNat bs = fzWord 0 3 (leNat bs / 2 ^ 7 % 32) rs1.val rs2.val → exec (.fzFadd c rs1 rs2) s = .next
      (if u.coreFence x (x.xr rs1.val) then u.coreSignal c.val x (x.xr rs1.val).toNat (x.xr rs2.val).toNat true
       else u.coreFenceDenied c.val)) ∧
    (leNat bs = fzWord 0 4 rd.val rs1.val rs2.val → (x.xr rs1.val).toNat % 8 = 0 → u.bound (bitsOf (x.xr rs2.val) 0 12) = true →
      u.f F.QE_Q_CTRL_PORT (bitsOf (x.xr rs2.val) 0 12) = 2 → u.queueJob (bitsOf (x.xr rs2.val) 0 12) = x.job →
      exec (.fzSeal c rd rs1 rs2) s = .next (u.coreRead c.val false (x.xr rs1.val).toNat 56 (fun v body =>
        (v.coreSeal (bitsOf (x.xr rs2.val) 0 12) (bitsOf (x.xr rs2.val) 16 48) body).1.coreNext c.val 4 rd.val (BitVec.ofNat 64
          (v.coreSeal (bitsOf (x.xr rs2.val) 0 12) (bitsOf (x.xr rs2.val) 16 48) body).2)))) ∧
    (∀ k, leNat bs = fzWord 0 5 rd.val rs1.val (leNat bs / 2 ^ 20 % 32) → (∀ e, u.translate x.job (x.xr rs1.val).toNat false = .fault k e →
      exec (.fzXlate c rd rs1) s = .next (u.coreNext c.val 4 rd.val (BitVec.ofNat 64 (2 ^ 63 + k)))) ∧
      (∀ e, u.translate x.job (x.xr rs1.val).toNat false = .ok k e →
        exec (.fzXlate c rd rs1) s = .next (u.coreNext c.val 4 rd.val (BitVec.ofNat 64 k)))) ∧
    (leNat bs = fzWord 0 6 (leNat bs / 2 ^ 7 % 32) rs1.val (leNat bs / 2 ^ 20 % 32) →
      exec (.fzExit c rs1) s = .next (u.coreExit c.val (x.xr rs1.val))) ∧
    (leNat bs = fzWord 1 0 rd.val rs1.val rs2.val → x.fzFormatOk = true →
      exec (.fzPack c rd rs1 rs2) s = .next (u.coreRead c.val false (x.xr rs1.val).toNat 256 (fun v row =>
        v.coreWrite c.val (x.xr rs2.val).toNat (x.packRow (f32sOf row)) (fun w =>
          w.coreNext c.val 4 rd.val (BitVec.ofNat 64 (x.packRow (f32sOf row)).length))))) ∧
    (leNat bs = fzWord 1 1 rd.val rs1.val rs2.val → x.fzFormatOk = true →
      exec (.fzUnpack c rd rs1 rs2) s = .next (u.coreRead c.val false (x.xr rs1.val).toNat x.packedLen (fun v row =>
        v.coreWrite c.val (x.xr rs2.val).toNat ((x.unpackRow row).flatMap (fun y => leBytes 4 y.toNat)) (fun w =>
          w.coreNext c.val 4 rd.val 256))))) ∧
  (∀ (s : State) (c : CoreId) (x : CoreSt) (f v rd : Nat), s.core c.val = some x → x.wait = .fence f v rd → s.running = true →
    s.waitMet f v = true → exec (.fzFwaitReturn c) s = .next (s.fwaitReturn c.val x f rd)) ∧
  (∀ (s : State) (g : GroupId) (x : RingRun) (m : RingBlockMsg) (lane : Nat), mget s.ringRuns g.val = some x →
    (s.f F.MRE_G_STAT_STATE g.val = 2 → m.runId.toNat = s.f F.MRE_G_STEPMAX_RUN_ID g.val →
      exec (.ringBlock g m) s = .next ((s.takeBlock g.val x m).ringPump g.val)) ∧
    (lane < x.lanes.length →
      exec (.ringGrant g lane) s = .next (s.laneEvent g.val lane (fun l => { l with grants := l.grants + 1 })) ∧
      exec (.ringAck g lane) s = .next (s.laneEvent g.val lane (fun l => { l with acked := min l.forwarded (l.acked + 1) })))) ∧
  (∀ (s : State) (g : GroupId) (i : Nat) (x : RingRun) (e : AccErr), mget s.ringRuns g.val = some x → 2 ≤ s.f F.MRE_G_STAT_STATE g.val →
    i = s.f F.MRE_G_PROG_STEPS_DONE g.val → i < s.ringMembers g.val → s.readVirt x.job (x.part + 8 * i) 8 = .error e →
    exec (.stepWord g i) s = .next (s.ringAccess g.val x e 5)) ∧
  (∀ (s : State) (g : GroupId) (i : Nat) (x : RingRun) (bs : List Byte) (mark : Bool), mget s.ringRuns g.val = some x →
    2 ≤ s.f F.MRE_G_STAT_STATE g.val → i = s.f F.MRE_G_PROG_STEPS_DONE g.val → i < s.ringMembers g.val →
    s.readVirt x.job (x.part + 8 * i) 8 = .ok (bs, mark) →
    leWord bs = setBits (setBits (0 : W64) 16 32 (s.f F.MRE_G_STEPMAX_RUN_ID g.val)) 63 1 1 →
    exec (.stepWord g i) s = .next ((s.setF F.MRE_G_PROG_STEPS_DONE (i + 1) g.val).ringPump g.val)) ∧
  (∀ (s : State) (m : Msg), (Arrives s m 0x01 → exec (.read m) s = .next (s.inboundRead m)) ∧
    (Arrives s m 0x03 → exec (.write m) s = .next (s.screened m 0x03 F.ALT_RM_WIN_CTRL_W m.data.length (fun w => s.inboundStore m 0x03 w))) ∧
    (Arrives s m 0x05 → exec (.atomic m) s = .next (s.inboundAtomic m)) ∧
    (Arrives s m 0x08 → s.putRing m.addr = none →
      exec (.tilePut m) s = .next (s.screened m 0x08 F.ALT_RM_WIN_CTRL_W m.data.length (fun w => s.inboundStore m 0x08 w))) ∧
    (Arrives s m 0x28 → m.xid.toNat ∉ s.faults.seenNotices → exec (.faultNotice m) s = .next (s.takeNotice m)) ∧
    (Arrives s m 0x29 → exec (.goingDown m) s = .next (if (s.addLost m.src.toNat).partnerChip m.src.toNat then
      (s.addLost m.src.toNat).autoPromote 3 m.src.toNat else s.addLost m.src.toNat)) ∧
    (Arrives s m 0x2A → exec (.unreachable m) s = .next (s.undelivered m.arg0.toNat (m.arg1.toNat % 4096) m.xid.toNat))) ∧
  (∀ (s : State) (m : Msg) (x : Request), m.arg0.toNat % 8 ≤ 1 →
    (Arrives s m 0x02 → Awaited s m [0x01] x → (∀ c, x.issuer ≠ .core c) → exec (.readData m) s = .next
      (((s.dropRequest x.xid).deliver x.msg.dst x.msg.addr (m.data.take x.msg.arg1) (m.arg0.toNat % 8 == 1 || m.poison)).requestDone x)) ∧
    (Arrives s m 0x04 → Awaited s m [0x03, 0x20, 0x21] x → exec (.writeAck m) s = .next
      (if m.arg0.toNat % 8 == 1 || m.poison then (s.dropRequest x.xid).writePoisoned x else (s.dropRequest x.xid).requestDone x)) ∧
    (∀ c, Arrives s m 0x06 → Awaited s m [0x05] x → x.issuer = .core c → exec (.atomicData m) s = .next
      (if m.arg0.toNat % 8 == 1 || m.poison then (s.dropRequest x.xid).corePoisoned c
       else (s.dropRequest x.xid).coreAtomicArrived c (leNat (m.data.take 8)))) ∧
    (Arrives s m 0x09 → Awaited s m [0x08] x → exec (.tileAck m) s = .next
      (if m.arg0.toNat % 8 == 1 || m.poison then (s.dropRequest x.xid).writePoisoned x else (s.dropRequest x.xid).requestDone x))) ∧
  (∀ (s : State) (m : PlainRsp) (x : Request) (c : Instr) (op : Nat), (c, op) ∈ [(Instr.pData m, 0x40), (.pWack m, 0x42)] →
    (s.linkState m.link.val = 6 ∨ s.linkState m.link.val = 7) → s.requestOf m.xid.toNat true = some x → x.msg.op = op →
    x.plainLink = some m.link.val → exec c s = .next (s.plainAnswer m op)) ∧
  (∀ (s : State) (p : LPort) (t : Nat), (s.lport p.val).noCarry = some t → s.fb F.ALT_PORT_CFG_VALID p.val = true →
    s.fb F.ALT_PORT_STAT_LOST p.val = false → t + limitTicks (s.f F.ALT_PORT_CFG_LOST_US p.val) 20 ≤ s.now →
    exec (.portLost p) s = .next (s.losePort p.val)) ∧
  (∀ (s u : State) (l : LinkId) (x : Flit), s.linkState l.val = 6 →
    u = (((s.count F.ALT_LINK_FEC_CW_CORRECTED l.val 0 x.cwCorrected).count F.ALT_LINK_FEC_CW_UNCORR l.val 0 x.cwUncorr).setF
      F.ALT_LINK_FEC_PEAK_SYM (max (((s.count F.ALT_LINK_FEC_CW_CORRECTED l.val 0 x.cwCorrected).count F.ALT_LINK_FEC_CW_UNCORR l.val 0
        x.cwUncorr).f F.ALT_LINK_FEC_PEAK_SYM l.val) (min x.peakSym 15)) l.val).countCodewords l.val x.cwUncorr →
    (u.linkState l.val ≠ 6 → u.linkState l.val ≠ 7 → exec (.flit l x) s = .next u) ∧
    ((u.linkState l.val = 6 ∨ u.linkState l.val = 7) → x.crcOk = true → x.cwUncorr = 0 → x.nak = false → x.kind ≠ 1 →
      exec (.flit l x) s = .next ((u.takeAck l.val x.ack).takeCredits l.val x.crvc x.credits))) ∧
  (∀ (s : State) (l : LinkId) (hs : List Nat) (ring : Fin 8), s.part.hasLink l.val = true →
    (s.linkState l.val = 1 → exec (.lightDetected l) s = .next (s.enterTune l.val)) ∧
    (s.linkState l.val = 6 → exec (.lightLoss l) s = .next (s.leaveUp l.val 1 1)) ∧
    (s.linkState l.val = 7 → exec (.lightLoss l) s = .next (s.resend l.val)) ∧
    (2 ≤ s.linkState l.val → s.linkState l.val ≠ 9 → exec (.tuningLoop l hs) s = .next
      (s.setLink l.val { s.link l.val with heaters := (List.range 16).map (fun i => nth hs i 0) })) ∧
    (s.linkState l.val = 6 → exec (.ringLockLost l ring) s = .next (((s.setF F.ALT_LINK_OPT_RING_LOCK
      (s.f F.ALT_LINK_OPT_RING_LOCK l.val &&& (255 - 2 ^ ring.val)) l.val).leaveUp l.val 2 6).enterTune l.val)) ∧
    (s.linkState l.val = 2 → s.fb F.ALT_LASER_LOW (laserOfLink l.val) = false →
      ∃ t, exec (.ringsLocked l) s = .next t ∧ t.linkState l.val = 3) ∧
    ((s.linkState l.val = 2 ∨ s.linkState l.val = 3) → (s.link l.val).patternAt = none →
      exec (.patternDetected l) s = .next (s.setLink l.val { s.link l.val with patternAt := some s.now })) ∧
    (s.linkState l.val = 3 → (s.link l.val).patternAt ≠ none → exec (.codewordLock l) s = .next ((s.setLinkState l.val 4).sendIdent l.val)) ∧
    (s.linkState l.val = 8 →
      exec (.recalComplete l) s = .next (((s.endRecovery .link l.val).count F.FLT_CAL_STAT_RECALS).enterTune l.val))) ∧
  (∀ (s : State) (l : LinkId) (i : IdentInfo), s.linkState l.val = 4 →
    (s.fb F.ALT_LINK_STAT_MISMATCH l.val = false → exec (.ident l i) s = .next (s.identify l.val i)) ∧
    (s.fb F.ALT_LINK_STAT_MISMATCH l.val = true → (s.link l.val).identAt + 10000000 ≤ s.now →
      exec (.identRetry l i) s = .next ((s.sendIdent l.val).identify l.val i))) ∧
  (∀ (s : State) (l : LinkId) (cs : List Nat) (n : Nat), s.linkState l.val = 5 → ∃ t, exec (.credit l cs n) s = .next t ∧
    t = (((((s.setLink l.val ((s.link l.val).resumed (decide (l.val < 18)) cs n)).setF F.ALT_LINK_STAT_ATTEMPTS 0 l.val).setLinkState l.val
      6).putFlits l.val ((s.link l.val).resumed (decide (l.val < 18)) cs n).txAcked
      ((s.link l.val).resumed (decide (l.val < 18)) cs n).unacked).drainLink l.val).releaseRecals.flushPlain) ∧
  (∀ (s u : State) (l : LinkId) (t k : Nat), s.linkLimit l.val = some t → t ≤ s.now →
    k = (if s.linkState l.val = 2 then 2 else if s.linkState l.val = 3 then 3 else 4) →
    u = (s.setF F.ALT_LINK_STAT_LAST_FAIL k l.val).setF F.ALT_LINK_STAT_ATTEMPTS (min (s.f F.ALT_LINK_STAT_ATTEMPTS l.val + 1) 3) l.val →
    exec (.trainingTimeout l) s = .next (if 2 ≤ s.f F.ALT_LINK_STAT_ATTEMPTS l.val then
      (u.setLinkState l.val 9).fault 0x3502 .link l.val 0xFF none (BitVec.ofNat 64 k) else u.setLinkState l.val 1)) ∧
  (∀ (s : State) (l : LinkId), s.linkState l.val = 7 → (∀ p ∈ List.range 8, ∀ t ∈ (s.lport p).txq, t.link ≠ some l.val) →
    (∀ x ∈ s.net.requests, x.plainLink ≠ some l.val) →
    exec (.drainComplete l) s = .next (s.setLinkState l.val (s.link l.val).drainTo)) ∧
  (∀ (s u : State) (via : Via) (v : W64) (x : RegInfo) (i j off : Nat) (c : Instr) (p : PortId) (w : Fin 16) (q : QId) (n : JobId)
    (size : Bool),
    (c, off) ∈ [(Instr.glbHwinWrite via p w size v, (if size then R.GLB_HWIN_SIZE else R.GLB_HWIN_BASE).at p.val w.val),
      (.glbApertureWrite via p v, R.GLB_APERTURE.at p.val), (.qeQCqWrite via q v, R.QE_Q_CQ.at q.val),
      (.qeQCqHeadWrite via q v, R.QE_Q_CQ_HEAD.at q.val), (.fltNanInfoWrite via n v, R.FLT_NAN_INFO.at n.val)] →
    off % 8 = 0 → off < 0x2000000 → regAt? off = some (x, i, j) → s.regPresent off x.reg i = true → s.barServes off = true →
    s.mayWrite (.direct via) off x.reg i = true → s.writeReg (.direct via) x i j off v (fieldMask 0 64) = some u → exec c s = .next u) ∧
  (∀ (s u : State) (via : Via) (off : BitVec 26) (v : W64) (x : RegInfo) (i j : Nat), off.toNat < 0x2000000 →
    regAt? (off.toNat / 8 * 8) = some (x, i, j) → s.regPresent (off.toNat / 8 * 8) x.reg i = true → s.barServes (off.toNat / 8 * 8) = true →
    s.mayWrite (.direct via) (off.toNat / 8 * 8) x.reg i = true →
    (off.toNat % 8 = 0 → s.writeReg (.direct via) x i j (off.toNat / 8 * 8) v (fieldMask 0 64) = some u → exec (.registerWrite via off 8 v) s = .next u) ∧
    (off.toNat % 8 = 0 → s.writeReg (.direct via) x i j (off.toNat / 8 * 8) v (fieldMask 0 32) = some u → exec (.registerWrite via off 4 v) s = .next u) ∧
    (off.toNat % 8 = 4 → s.writeReg (.direct via) x i j (off.toNat / 8 * 8) (v <<< 32) (fieldMask 32 32) = some u →
      exec (.registerWrite via off 4 v) s = .next u)) ∧
  (∀ (s : State) (via : Via) (n : Fin 64) (v : W64) (j : Nat), j = s.f F.GLB_CMP_CTRL_OWNER_JOB n.val →
    viaPort via = some (s.f F.QE_JOB_CTRL_OWNER_PORT j) → s.jobValid j = true → s.fb F.GLB_CMP_CTRL_OWNED n.val = true →
    exec (.glbCmpCtrlWrite via n v) s = .next (s.writeComparator n.val v)) ∧
  (∀ (s : State) (via : Via) (l : LinkId) (e : Fin 256) (w : Fin 4) (r p : PortId) (k : Fin 16) (c : Instr) (from_ : Via) (off : Nat),
    (c, from_, off) ∈ [(Instr.glbMarginRead via, via, R.GLB_MARGIN.at), (.fabSaddleStatRead via, via, R.FAB_SADDLE_STAT.at),
      (.altLinkFecRead via l, via, R.ALT_LINK_FEC.at l.val), (.fltLogRead via e w, via, (logReg w.val).at e.val),
      (.glbHwinSizeRead r p k, .port r, R.GLB_HWIN_SIZE.at p.val k.val)] →
    exec c s = .next ((s.readEffect (viaPort from_).isSome off).emit (.readData from_ false (leBytes 8 (s.readReg off).toNat)))) ∧
  (∀ (s : State) (via : Via), s.barServes R.GLB_TIME.at = true → exec (.glbTimeLowRead via) s = .next
    ({ s with tb := s.tb.setShadow via (BitVec.ofNat 32 (s.tb.tick.toNat / 2 ^ 32)) }.emit
      (.readData via false (leBytes 4 (s.read32 via R.GLB_TIME.at).toNat)))) ∧
  (∀ (s : State) (via : Via), s.part.hasWatershed = true → exec (.wsuSortStatRead via) s = .next
    ((s.emit (.readData via false (leBytes 8 (s.r R.WSU_SORT_STAT).toNat))).setF F.WSU_SORT_STAT_MAX_WAIT 0)) ∧
  (∀ (s : State) (via : Via) (o : QId) (n : JobId) (m : BindId) (l : LinkId) (v : W64),
    (s.fb F.SRV_OUT_CTRL_VALID o.val = true → s.jobPort via (s.f F.SRV_OUT_CTRL_OWNER_JOB o.val) = true →
      exec (.srvOutHeadWrite via o v) s = .next (s.outHead o.val v.toNat)) ∧
    (s.running = true → s.jobPort via n.val = true → exec (.srvKvPush via n v) s = .next (s.kvWrite n.val v) ∧
      exec (.kvListDrain via n v) s = .next (s.kvWrite n.val (setBits v 63 1 1))) ∧
    (s.bindPort via m.val = true → exec (.stop via m) s = .next (s.stopServe m.val) ∧
      exec (.promote via m) s = .next (s.promoteBinding m.val)) ∧
    (via ≠ .sideband → s.isPendant = true → exec (.promoteNow via) s = .next (s.beginPromotion 5 0)) ∧
    (s.part.hasLink l.val = true → exec (.recal .firmware l) s = .next (s.startRecal l.val) ∧
      exec (.fullSearch .firmware l) s = .next (s.setLink l.val { s.link l.val with forceSearch := true }))) ∧
  (∀ (s : State) (i : Fin 12) (wave : Fin 8) (power : Int), s.part.hasLaser i.val = true →
    (power < 52 → exec (.laserLow i wave power) s = .next (((s.setF F.ALT_LASER_IN_MIN (encodeSigned 8 power) i.val).setF
      F.ALT_LASER_PRESENT (s.f F.ALT_LASER_PRESENT i.val &&& (255 - 2 ^ wave.val)) i.val).setF F.ALT_LASER_LOW 1 i.val)) ∧
    (52 ≤ power → exec (.laserInputRestored i power) s = .next (((s.setF F.ALT_LASER_IN_MIN (encodeSigned 8 power) i.val).setF
      F.ALT_LASER_PRESENT 0xFF i.val).setF F.ALT_LASER_LOW 0 i.val))) ∧
  (∀ (s : State), s.inService = true → s.cal.checked + 100000000 ≤ s.now → exec .calValidityCheck s = .next (State.updateDeferred
    (s.cal.records.foldl (fun t x => if t.recordValid x then t else t.calStale x.kind x.element)
      { s with cal := { s.cal with checked := s.now } }))) ∧
  (∀ (s : State) (kind element : Nat) (ok : Bool) (x : CalRecord), s.inService = true → s.cal.queued.contains (kind, element) = true →
    (kind ≤ 1 → s.fb F.GLB_RATE_BELOW_FLOOR = true → s.reportsErrors kind element = true) →
    exec (.recalibration kind element ok x) s = .next (s.recalibrate kind element ok x)) ∧
  (∀ (s : State) (die : Fin 2) (i : Nat), s.retiringSite die.val = some i →
    (∀ d ∈ s.dalesFrom die.val (siteCol i), s.stepOn d = none) →
    exec (.columnRetirement die) s = .next ((s.dalesFrom die.val (siteCol i)).foldl (fun t d => t.endRecovery .dale d)
      (((s.moveWindows die.val (siteCol i)).setF (if die.val = 0 then F.FAB_COL_MAP_W_RETIRED else F.FAB_COL_MAP_E_RETIRED)
        (siteCol i)).endRecovery .site i))) ∧
  (∀ (s t : State) (die : Fin 2) (row : Fin 32) (k : Nat) (f : Field), k = rowLink die.val row.val →
    s.fabric.failedRows.contains k = true → s.saddleBusy = false →
    f = (if die.val = 0 then F.FAB_SADDLE_LINKS_W2E_SPARED else F.FAB_SADDLE_LINKS_E2W_SPARED) →
    t = { s with fabric := { s.fabric with
      failedRows := sremove s.fabric.failedRows k
      sparesSpent := setNth s.fabric.sparesSpent die.val (nth s.fabric.sparesSpent die.val 0 + 1) } } →
    exec (.saddleSpare die row) s = .next ((fun (u : State) =>
        if u.fabric.failedRows.any (fun j => j / 32 == die.val) then u else u.endRecovery .die die.val)
      (if (t.f f).testBit row.val then t else (t.setF f (t.f f ||| 2 ^ row.val)).count F.FAB_SADDLE_STAT_SPARES_USED))) ∧
  (∀ (s : State) (die : Fin 2) (row : Fin 32) (k : Nat), k = rowLink die.val row.val →
    s.fabric.failedRows.contains k = false → s.fabric.fencedRows.contains k = false →
    ∃ t, exec (.saddleRowFailure die row) s = .next t ∧ t = (fun (u : State) =>
      if nth s.fabric.sparesSpent die.val 0 + (s.fabric.failedRows.filter (fun j => j / 32 == die.val)).length < 2 then
        ({ u with fabric := { u.fabric with failedRows := u.fabric.failedRows ++ [k] } } : State).beginRecovery .die die.val
      else { u with fabric := { u.fabric with fencedRows := sinsert u.fabric.fencedRows k } }) (s.fault 0x3205 .die die.val)) ∧
  (∀ (s : State) (die : Fin 2) (i : Nat), s.copyingChannel die.val = some i →
    s.fb (if die.val = 0 then F.FLT_HBM_COPYING_W else F.FLT_HBM_COPYING_E) = true →
    exec (.hbmChannelRemap die) s = .next (((s.setF (if die.val = 0 then F.FLT_HBM_COPYING_W else F.FLT_HBM_COPYING_E) 0).setF
      (if die.val = 0 then F.FLT_HBM_RET_W else F.FLT_HBM_RET_E) i).endRecovery .hbmChannel i)) ∧
  (∀ (s : State) (core : Fin 4) (x : Roll), s.rollOf core.val = some x →
    (x.since + 500000000 < s.now → exec (.fwCoreTimeout core) s = .next (State.answerRoll (State.drawn
      (((s.setF F.FLT_FW_STAT_IMAGE (if s.power.runningB then 15 else 0)).endRoll 3).fault 0x1903 .device 0)) x.hdr
      ((((s.setF F.FLT_FW_STAT_IMAGE (if s.power.runningB then 15 else 0)).endRoll 3).fault 0x1903 .device 0).free % 256))) ∧
    (s.now ≤ x.since + 500000000 → x.done < 3 → ∃ t, exec (.fwCoreReady core) s = .next t ∧
      t.mgmt.roll = some { x with done := x.done + 1, since := s.now } ∧ t.f F.FLT_FW_STAT_ROLL_CORE = rollCore (x.done + 1)) ∧
    (s.now ≤ x.since + 500000000 → ¬ x.done < 3 → ∃ t, exec (.fwCoreReady core) s = .next t ∧ t.power.runningB = !s.fw.activeB)) ∧
  (∀ (s : State) (p : PortId) (speed : Fin 8) (width : Fin 32) (k : Fin 2048),
    exec (.perstN p) s = .next (s.losePcie p.val 1) ∧
    exec (.functionLevelReset p) s = .next (s.losePcie p.val 2) ∧
    exec (.surpriseDown p) s = .next (s.losePcie p.val 3) ∧
    exec (.d3hotEntry p) s = .next (s.losePcie p.val 4) ∧
    exec (.busMasterDisable p) s = .next (s.setPort p.val { s.port p.val with busMaster := false }) ∧
    exec (.busMasterEnable p) s = .next (s.setPort p.val { s.port p.val with busMaster := true }) ∧
    exec (.msixUnmask p none) s = .next ((s.setPort p.val { s.port p.val with functionMask := false }).sendPending p.val) ∧
    exec (.msixUnmask p (some k)) s = .next (s.tableWrite p.val (0x2000008 + 16 * k.val) 0 (fieldMask 32 1)) ∧
    (∃ t, exec (.portReturn p speed width) s = .next t ∧ (t.port p.val).busMaster = true)) ∧
  (∀ (s : State) (p : PortId) (off : BitVec 36) (bs : List Byte) (a : Nat), a = s.f F.GLB_APERTURE_BASE p.val * 2 ^ 30 + off.toNat →
    s.fb F.GLB_APERTURE_VALID p.val = true → s.apertureAllows (s.f F.GLB_APERTURE_JOB p.val) a bs.length = true →
    (regionOf a ≠ Region.plain → exec (.apertureAccess p off true bs) s = .next ((s.store a bs).countLines true a bs.length) ∧
      exec (.apertureAccess p off false bs) s = .next ((s.countLines false a bs.length).emit
        (.readData (.port p) (s.poisoned a bs.length) (s.bytes a bs.length)))) ∧
    (regionOf a = Region.plain → exec (.apertureAccess p off false bs) s = .next (s.aperturePlain p.val a bs.length [] 0) ∧
      (a % 64 ≠ 0 ∨ bs.length % 64 ≠ 0 →
        exec (.apertureAccess p off true bs) s = .next (s.aperturePlain p.val a bs.length bs 1)) ∧
      (a % 64 = 0 → bs.length % 64 = 0 →
        exec (.apertureAccess p off true bs) s = .next ((s.store a bs).aperturePlain p.val a bs.length bs 2)))) ∧
  (∀ (s : State) (a : BitVec 7), exec (.entdaa a) s = .next { s with mgmt := { s.mgmt with i3cAddr := some a } }) ∧
  (∀ (s v : State) (t : Fin 3) (c : Instr) (command : Byte) (data : List Byte), s.transportOpen t.val = true →
    s.takeAllowance t.val = some v →
    (c, command, data) ∈ [(Instr.getEndpointId t, 2#8, [v.eid t.val, 0#8, 0#8]), (.getMctpVersionSupport t, 4#8, Config.mctpVersions),
      (.getMessageTypeSupport t, 5#8, [2#8, 0#8, 0x7E#8]),
      (.getVendorDefinedMessageSupport t, 6#8, [0xFF#8, 0#8, Config.vendorId.extractLsb' 8 8, Config.vendorId.extractLsb' 0 8,
        Config.vendorCommandSet.extractLsb' 8 8, Config.vendorCommandSet.extractLsb' 0 8])] →
    exec c s = .next (v.emit (.mgmt t.val ([0#8, 0#8, command, 0#8] ++ data)))) ∧
  (∀ (s v : State) (t : Fin 3) (eid : Byte), s.transportOpen t.val = true → s.takeAllowance t.val = some v →
    exec (.setEndpointId t eid) s = .next ({ v with mgmt := { v.mgmt with eids := setNth v.mgmt.eids t.val eid } }.emit
      (.mgmt t.val [0#8, 0#8, 1#8, 0#8, 0#8, eid, 0#8]))) ∧
  (∀ (s v : State) (h : MgmtHdr) (payload : List Byte) (r : Nat), h.session = 0 → s.transportOpen h.transport.val = true →
    s.takeAllowance h.transport.val = some v → r = (nth payload 0 0).toNat → r ≤ 2 →
    exec (.getInfo h 0x01 payload) s = .next (v.answerOutside h 0x01 (some (.ok, v.infoBytes))) ∧
    (∀ n w nonce, 8 ≤ payload.length → lifetimeOf (leNat (slice payload 4 4)) = some n → w = v.settleRole r →
      nonce = shake256 (leBytes 32 w.free) 32 → w.fb F.SEC_ROLE_LOCKED r = false → (w.role r).session = none →
      exec (.sessionOpen h payload) s = .next
        ((w.drawn.setRole r { w.drawn.role r with nonce := some (nonce, w.now) }).answerOutside h 2 (some (.ok, nonce)))) ∧
    (∀ n at_ w nonce, 72 ≤ payload.length → lifetimeOf (leNat (slice payload 4 4)) = some n → w = v.settleRole r →
      (w.role r).session = none → (w.role r).nonce = some (nonce, at_) →
      slice payload 40 32 = sessionProof (w.roleKey r) nonce (authHdr h r (slice payload 4 4)) (slice payload 8 32) →
      exec (.sessionAuth h payload) s = .next ((w.dropNonce r).startSession h r n nonce (slice payload 8 32)))) ∧
  (∀ (s u : State) (h : MgmtHdr) (r : Nat) (y : Session), Admitted s h 0x04 (some observerRole) [] u r y →
    exec (.sessionClose h) s = .next ((u.endSession r).answerInside h y 0x04 (some (.ok, [])))) ∧
  (∀ (s u : State) (h : MgmtHdr) (r : Nat) (y : Session), Admitted s h 0x05 (some observerRole) [] u r y →
    exec (.heartbeat h) s = .next (u.answerInside h y 0x05 (some (.ok, [])))) ∧
  (∀ (s u : State) (h : MgmtHdr) (os : List W64) (r : Nat) (y : Session), Admitted s h 0x10 (some observerRole) (payloadOf os) u r y →
    os.length ≤ 120 →
    exec (.regRead h os) s = .next ((os.foldl (fun s o => s.readEffect false o.toNat) u).answerInside h y 0x10
      (some (.ok, u.regBytes (os.map (fun o => o.toNat)))))) ∧
  (∀ (s u : State) (h : MgmtHdr) (off v : W64) (r : Nat) (y : Session) (x : RegInfo) (i j : Nat),
    Admitted s h 0x11 (some operatorRole) (payloadOf [off, v]) u r y → regAt? off.toNat = some (x, i, j) →
    sidebandWrites off.toNat x.reg = true →
    exec (.regWrite h off v) s = .next ((u.directWrite .sideband off.toNat 8 v).answerInside h y 0x11 (some (.ok, [])))) ∧
  (∀ (s u : State) (h : MgmtHdr) (timeout : W64) (r : Nat) (y : Session),
    Admitted s h 0x12 (some ownerRole) (payloadOf [0, timeout]) u r y → h.transport.val = 0 → u.scopeHeld 0 0 = none →
    exec (.mgmtTxBegin h 0 timeout) s = .next
      ((u.openTx 0 0 (.session r) timeout.toNat).1.answerInside h y 0x12 (some (.ok, leBytes 8 u.nextHandle)))) ∧
  (∀ (s u w : State) (h : MgmtHdr) (es : List SetEntry) (r : Nat) (y : Session) (t : Tx),
    Admitted s h 0x13 (some ownerRole) (payloadOf (es.flatMap (fun x => [x.off.setWidth 64, x.value, x.mask]))) u r y →
    u.txs.find? (fun t => t.opener = .session r) = some t → t.committing = false → es.length ≤ 40 →
    State.stageAll t.handle es u = (w, .ok) → exec (.txSet h es) s = .next (w.answerInside h y 0x13 (some (.ok, [])))) ∧
  (∀ (s u : State) (h : MgmtHdr) (r : Nat) (y : Session) (t : Tx), Admitted s h 0x15 (some ownerRole) [] u r y →
    u.txs.find? (fun t => t.opener = .session r) = some t →
    exec (.mgmtTxAbort h) s = .next ((u.rollback t.handle .txAborted).answerInside h y 0x15 (some (.ok, [])))) ∧
  (∀ (s u : State) (h : MgmtHdr) (k r : Nat) (y : Session), Admitted s h 0x20 (some observerRole) (payloadOf [BitVec.ofNat 64 k]) u r y →
    k < 256 →
    exec (.faultLog h k) s = .next ({ u with faults := { u.faults with
      readMarks := ((List.range (min 30 (256 - k))).map (· + k)).foldl sinsert u.faults.readMarks } }.answerInside h y 0x20
        (some (.ok, ((List.range (min 30 (256 - k))).map (· + k)).flatMap u.logBytes)))) ∧
  (∀ (s u : State) (h : MgmtHdr) (r : Nat) (y : Session), Admitted s h 0x21 (some observerRole) [] u r y →
    exec (.telemetry h) s = .next (u.answerInside h y 0x21 (some (.ok, u.regBytes telemetryRegs)))) ∧
  (∀ (s u : State) (h : MgmtHdr) (off : Nat) (bs : List Byte) (r : Nat) (y : Session),
    Admitted s h 0x30 (some ownerRole) (leBytes 8 off ++ bs) u r y → u.mgmt.roll = none → off + bs.length ≤ 0x4000000 →
    exec (.fwStage h off bs) s = .next ({ u with fw := if u.fw.activeB then { u.fw with slotA := slotWrite u.fw.slotA off bs }
      else { u.fw with slotB := slotWrite u.fw.slotB off bs } }.answerInside h y 0x30 (some (.ok, [])))) ∧
  (∀ (s u : State) (h : MgmtHdr) (k e r : Nat) (y : Session),
    Admitted s h 0x32 (some operatorRole) (payloadOf [BitVec.ofNat 64 k, BitVec.ofNat 64 e]) u r y →
    (k = 0 ∧ e < 16 * u.part.stacks ∧ e < 192 ∨ k = 1 ∧ u.part.hasLink e = true ∧ e < 22) →
    exec (.calCtrl h k e) s = .next ((u.queueCal k e).answerInside h y 0x32 (some (.ok, [])))) ∧
  (∀ (s u : State) (h : MgmtHdr) (r : Nat) (y : Session) (t : Tx), Admitted s h 0x14 (some ownerRole) [] u r y →
    u.txs.find? (fun t => t.opener = .session r) = some t → t.committing = false → u.validate { t with tag := h.tag } = none →
    exec (.mgmtTxCommit h) s = .next (u.setTx
      { t with tag := h.tag, committing := true, since := u.now, commitSeq := h.mseq.toNat })) ∧
  (∀ (s u : State) (h : MgmtHdr) (nonce : List Byte) (r : Nat) (y z : Session), Admitted s h 0x22 (some observerRole) nonce u r y →
    nonce.length = 32 → (u.role r).session = some z →
    ∃ report sig, exec (.attest h nonce) s = .next (State.sendParts 52 u.drawn h z (report ++ padTo 49856 sig))) ∧
  (∀ (s u v : State) (h : MgmtHdr) (r : Nat) (y : Session), Admitted s h 0x31 (some ownerRole) [] u r y → u.mgmt.roll = none →
    v = u.showFail (!u.fw.activeB) (u.fwCheck (!u.fw.activeB) false) → u.fwCheck (!u.fw.activeB) false = 0 →
    v.f F.SEC_BOOT_STAT_MODE ≠ 2 → v.rollBarred (!u.fw.activeB) = false →
    ∃ t, exec (.fwActivate h) s = .next t ∧ t.mgmt.roll = some { done := 0, since := v.now, hdr := h }) ∧
  (∀ (s : State) (r : RoleId) (y : Session), (s.role r.val).session = some y →
    (y.idle s.now = true → exec (.sessionTimeout r) s = .next (s.endSession r.val)) ∧
    (y.expired s.now = true → exec (.sessionExpiry r) s = .next (s.endSession r.val))) ∧
  (∀ (s : State) (r : RoleId), (s.nonceOver r.val = true → exec (.nonceExpiry r) s = .next (s.dropNonce r.val)) ∧
    (s.lockOver r.val = true → exec (.lockoutEnd r) s = .next (s.unlockRole r.val))) ∧
  (∀ (s : State) (n : JobId) (va : W64) (m : MigPage), s.migPage n.val va.toNat = some m → m.frame.isSome = true → m.copying = 0 →
    m.heat < s.f F.TR_MIG_CTRL_DEMOTE → (∀ x ∈ s.frames.mig, x.job = n.val → x.frame.isSome = true → m.heat ≤ x.heat) →
    s.freePoolFrames n.val = [] → (∃ x ∈ s.frames.mig, x.job = n.val ∧ x.frame = none ∧ s.f F.TR_MIG_CTRL_PROMOTE ≤ x.heat) →
    exec (.migrationDemote n va) s = .next (s.updMig n.val m.va (fun m => { m with copying := 2 }))) ∧
  (∀ (s : State) (g : GroupId) (x : RingRun), mget (s.ringPump g.val).ringRuns g.val = some x →
    (s.ringPump g.val).f F.MRE_G_STAT_STATE g.val = 3 →
    (s.ringPump g.val).f F.MRE_G_PROG_STEPS_DONE g.val = (s.ringPump g.val).ringMembers g.val →
    x.fed < (s.ringPump g.val).ringMembers g.val * (s.ringPump g.val).shardLen g.val ((s.ringPump g.val).ringIndex g.val) * x.hq →
    exec (.ringFeed g) s = .next ((s.ringPump g.val).feedOne g.val x)) ∧
  (∀ (s u : State) (xid : BitVec 32) (x : Request) (t : Nat), s.requestOf xid.toNat false = some x → x.busyAt = some t → t + 1000 ≤ s.now →
    u = (s.count F.ALT_RM_STAT_BUSY_RESENDS).mapRequest x.xid (fun y => { y with busyAt := none, sentAt := s.now }) →
    exec (.ringPutResend xid) s = .next (match (u.send x.msg).2 with
      | .sent => (u.send x.msg).1
      | .fenced => (u.send x.msg).1.failRequest x .fenced
      | .unreachable => (u.send x.msg).1.failRequest x .memberLost)) ∧
  (∀ (s : State) (xid : BitVec 32) (x : Request), s.requestOf xid.toNat false = some x → x.busyAt = none → x.msg.op ≠ 0x21 →
    x.sentAt + limitTicks (s.f F.ALT_RM_CFG_RM_TIMEOUT_US) 1000 < s.now →
    exec (.rmTimeout xid) s = .next ((s.count F.ALT_RM_STAT_TIMEOUTS).failRequest x .timeout)) ∧
  (∀ (s : State) (l : LinkId) (xid : BitVec 32) (x : Request), s.requestOf xid.toNat true = some x →
    (x.plainLink = some l.val ∨ x.plainLink = some 22) → x.sentAt + limitTicks (s.f F.PLN_CFG_TIMEOUT_US) 100 ≤ s.now →
    exec (.plainTimeout l xid) s = .next (((s.count F.PLN_STAT_TIMEOUTS).failRequest x .timeout).flushPlain))

/-! ## The whole device -/

/-- A step takes the command at the front of the queue and runs it on the state with the rest of the queue; R28: on an empty queue a tick
passes (the model's choice, log entry 1). -/
def Obligations.StepsRunTheFrontCommand : Prop :=
  (∀ (c : Instr) (cs : List Instr) (s : State), step { s with pending := c :: cs } = exec c { s with pending := cs }) ∧
  (∀ (s : State), s.pending = [] → step s = .next s.passTick)

/-- R38, R42, R47. Every step answers a next state, whatever the command and the state, and leaves the queue without its front command: no
command stops the device, and no command gives another. -/
def Obligations.EveryStepCompletes : Prop :=
  ∀ s : State, ∃ t, step s = .next t ∧ t.pending = s.pending.tail

/-- R561, R565, R572. No step changes the part, the root hash or a repair fuse, and none takes back the security version or the least key
index. -/
def Obligations.FusesAreOnlyBurnt : Prop :=
  ∀ s t : State, step s = .next t → FusesKept s t

/-- R87 to R90. Every step keeps the memory of the Terrace and the Basin in canonical form: addresses strictly rising, and no byte listed that
reads as an unlisted one. -/
def Obligations.MemoryStaysCanonical : Prop :=
  ∀ s t : State, MemoryCanonical s → step s = .next t → MemoryCanonical t

/-- R599. The memory is in canonical form at reset: nothing is listed, and an unlisted byte of the Terrace and the Basin reads 0 (the model's
choice before the device is ready, log entry 35). -/
def Obligations.MemoryIsCanonicalAtReset : Prop :=
 MemoryCanonical State.reset

/-- R15, R33, R37, R74, R79, R81, R126, R344, R375, R418, R450, R515, R594, R595, R597. The registers hold the values at reset that their
tables give; nothing waits, no transaction is open and no message is out (the emptiness of the model's own lists is its choice, log
entries 31 and 32). -/
def Obligations.ResetLeavesTheTablesValues : Prop :=
  (∀ x ∈ [(F.PWR_GOV_SETPOINT_MV, 0, 750), (F.PWR_GOV_POWER_CAP_W, 0, 1800), (F.PWR_GOV_TJ_TARGET, 0, 100), (F.PWR_STAT_VID_W, 0, 750),
      (F.PWR_STAT_VID_E, 0, 750), (F.PWR_RAILS_IN_TOL, 0, 511), (F.PWR_RAILS_UV_RAIL, 0, 15), (F.GLB_TIME_TICKS, 0, 0),
      (F.GLB_MARGIN_WORST, 0, 255), (F.GLB_BOARD_FAULT, 0, 1), (F.FLT_IRQ_MIN_CLASS, 0, 3), (F.FLT_IRQ_MIN_CLASS, 1, 3),
      (F.FLT_HBM_RET_W, 0, 255), (F.FLT_HBM_RET_E, 0, 255), (F.SRV_TABLE_STAT_FREE, 0, 65536), (F.QE_Q_CTRL_BOUND, 0, 1),
      (F.QE_Q_CTRL_ADMIN, 1, 1), (F.QE_Q_CTRL_BOUND, 2, 0), (F.QE_Q_CTRL_LOG2_SIZE, 4095, 6), (F.QE_Q_CTRL_LOG2_CQ, 4095, 6),
      (F.QE_Q_CTRL_WAIT_LOG2, 4095, 30), (F.QE_Q_IRQ_COUNT, 4095, 1), (F.QE_JOB_CTRL_STALL_LOG2, 255, 20),
      (F.QE_JOB_CTRL_STEP_LOG2, 255, 31), (F.TR_MIG_CTRL_CAP_PCT, 0, 10), (F.TR_MIG_CTRL_EPOCH_LOG2, 0, 24),
      (F.MRE_G_LIMIT_RING_STALL, 0, 20000000), (F.WSU_G_LIMIT_LIMIT, 0, 20000000), (F.WSU_L_CFG_K_MAX, 0, 16),
      (F.ALT_LINK_CTRL_EN, 0, 1), (F.ALT_PORT_CFG_LOST_US, 7, 20), (F.ALT_RM_CFG_RM_TIMEOUT_US, 0, 1000), (F.PLN_CFG_TIMEOUT_US, 0, 100)],
    State.reset.f x.1 x.2.1 = x.2.2) ∧
  State.reset.pending = [] ∧ State.reset.txs = [] ∧ State.reset.out = [] ∧ State.reset.f F.SEC_BOOT_STAT_MODE = 0
end

