-- ==== Sys2Proof/Laws/Cores.lean ====
section
/-! SUPPORT. What an Armature core does with an instruction that it fetches: said once for the instructions of R285 and for the others. -/

namespace Sys2Proof.Laws

open Sys2Proof.Machine

/-- A fetched instruction that the decoder accepts works on the state and the core after the fetch. -/
theorem coreStep_fetches {s u : State} {c len : Nat} {bs : List Byte} {x : CoreSt} (h : Fetches s c len bs u x) (ok : List Byte → Bool)
    (k : State → CoreSt → State) (ho : ok bs = true) : s.coreStep c len ok k = k u x := by
  obtain ⟨⟨y, hy, he, ht, hw, hz, hp, a, z, ls, ha, hc, hm, hb, hu⟩, hr, hn⟩ := h
  have hp1 : ¬ y.pc.toNat % 2 = 1 := by omega
  unfold State.coreStep
  simp only [hy, hr, he, ht, hw, hz, hp1, if_false, Bool.not_true, Option.isSome_none, Bool.false_or, bne_self_eq_false, Bool.false_eq_true]
  unfold State.coreRead
  simp only [ha, hc, hm, hb, ho, Bool.false_eq_true, if_false, Bool.not_true]
  rw [← hu, hn]

/-- An instruction of R285 whose word is at the pc works on the state and the core after the fetch. -/
theorem fzStep_fetches {s u : State} {c f7 f3 : Nat} {rd rs1 rs2 : Option Nat} {bs : List Byte} {x : CoreSt} (h : Fetches s c 4 bs u x)
    (k : State → CoreSt → State)
    (ho : leNat bs = fzWord f7 f3 (rd.getD (leNat bs / 2 ^ 7 % 32)) (rs1.getD (leNat bs / 2 ^ 15 % 32)) (rs2.getD (leNat bs / 2 ^ 20 % 32))) :
    s.fzStep c f7 f3 rd rs1 rs2 k = k u x :=
  coreStep_fetches h _ k (beq_iff_eq.2 ho)

/-- What the end of an instruction leaves in its core. -/
theorem coreNext_core {s : State} {c : Nat} {x : CoreSt} (h : s.core c = some x) (len rd : Nat) (v : W64) :
    (s.coreNext c len rd v) = s.setCore c { x.setX rd v with pc := x.pc + BitVec.ofNat 64 len } := by
  simp [State.coreNext, h]

end Sys2Proof.Laws
end

