-- ==== Sys2Proof/Laws/State.lean ====
section
/-! SUPPORT. One lemma for each field of `State` under each shared update: what the update leaves as it was. -/

namespace Sys2Proof.Laws

open Sys2Proof.Machine

variable (s : State)

/-! ### `State.setReg` -/

@[simp] theorem setReg_pending (off : Nat) (v : W64) : (s.setReg off v).pending = s.pending := rfl
@[simp] theorem setReg_fuses (off : Nat) (v : W64) : (s.setReg off v).fuses = s.fuses := rfl
@[simp] theorem setReg_fw (off : Nat) (v : W64) : (s.setReg off v).fw = s.fw := rfl
@[simp] theorem setReg_tb (off : Nat) (v : W64) : (s.setReg off v).tb = s.tb := rfl
@[simp] theorem setReg_queues (off : Nat) (v : W64) : (s.setReg off v).queues = s.queues := rfl
@[simp] theorem setReg_turns (off : Nat) (v : W64) : (s.setReg off v).turns = s.turns := rfl
@[simp] theorem setReg_txs (off : Nat) (v : W64) : (s.setReg off v).txs = s.txs := rfl
@[simp] theorem setReg_nextHandle (off : Nat) (v : W64) : (s.setReg off v).nextHandle = s.nextHandle := rfl
@[simp] theorem setReg_memory (off : Nat) (v : W64) : (s.setReg off v).memory = s.memory := rfl
@[simp] theorem setReg_remoteView (off : Nat) (v : W64) : (s.setReg off v).remoteView = s.remoteView := rfl
@[simp] theorem setReg_frames (off : Nat) (v : W64) : (s.setReg off v).frames = s.frames := rfl
@[simp] theorem setReg_casts (off : Nat) (v : W64) : (s.setReg off v).casts = s.casts := rfl
@[simp] theorem setReg_portA (off : Nat) (v : W64) : (s.setReg off v).portA = s.portA := rfl
@[simp] theorem setReg_portB (off : Nat) (v : W64) : (s.setReg off v).portB = s.portB := rfl
@[simp] theorem setReg_faults (off : Nat) (v : W64) : (s.setReg off v).faults = s.faults := rfl
@[simp] theorem setReg_cal (off : Nat) (v : W64) : (s.setReg off v).cal = s.cal := rfl
@[simp] theorem setReg_power (off : Nat) (v : W64) : (s.setReg off v).power = s.power := rfl
@[simp] theorem setReg_mgmt (off : Nat) (v : W64) : (s.setReg off v).mgmt = s.mgmt := rfl
@[simp] theorem setReg_net (off : Nat) (v : W64) : (s.setReg off v).net = s.net := rfl
@[simp] theorem setReg_fabric (off : Nat) (v : W64) : (s.setReg off v).fabric = s.fabric := rfl
@[simp] theorem setReg_cores (off : Nat) (v : W64) : (s.setReg off v).cores = s.cores := rfl
@[simp] theorem setReg_serve (off : Nat) (v : W64) : (s.setReg off v).serve = s.serve := rfl
@[simp] theorem setReg_ringRuns (off : Nat) (v : W64) : (s.setReg off v).ringRuns = s.ringRuns := rfl
@[simp] theorem setReg_ringSetups (off : Nat) (v : W64) : (s.setReg off v).ringSetups = s.ringSetups := rfl
@[simp] theorem setReg_wsu (off : Nat) (v : W64) : (s.setReg off v).wsu = s.wsu := rfl
@[simp] theorem setReg_coll (off : Nat) (v : W64) : (s.setReg off v).coll = s.coll := rfl
@[simp] theorem setReg_out (off : Nat) (v : W64) : (s.setReg off v).out = s.out := rfl
@[simp] theorem setReg_freeCtr (off : Nat) (v : W64) : (s.setReg off v).freeCtr = s.freeCtr := rfl

/-! ### `State.setR` -/

@[simp] theorem setR_pending (x : Reg) (v : W64) (i j : Nat) : (s.setR x v i j).pending = s.pending := rfl
@[simp] theorem setR_fuses (x : Reg) (v : W64) (i j : Nat) : (s.setR x v i j).fuses = s.fuses := rfl
@[simp] theorem setR_fw (x : Reg) (v : W64) (i j : Nat) : (s.setR x v i j).fw = s.fw := rfl
@[simp] theorem setR_tb (x : Reg) (v : W64) (i j : Nat) : (s.setR x v i j).tb = s.tb := rfl
@[simp] theorem setR_queues (x : Reg) (v : W64) (i j : Nat) : (s.setR x v i j).queues = s.queues := rfl
@[simp] theorem setR_turns (x : Reg) (v : W64) (i j : Nat) : (s.setR x v i j).turns = s.turns := rfl
@[simp] theorem setR_txs (x : Reg) (v : W64) (i j : Nat) : (s.setR x v i j).txs = s.txs := rfl
@[simp] theorem setR_nextHandle (x : Reg) (v : W64) (i j : Nat) : (s.setR x v i j).nextHandle = s.nextHandle := rfl
@[simp] theorem setR_memory (x : Reg) (v : W64) (i j : Nat) : (s.setR x v i j).memory = s.memory := rfl
@[simp] theorem setR_remoteView (x : Reg) (v : W64) (i j : Nat) : (s.setR x v i j).remoteView = s.remoteView := rfl
@[simp] theorem setR_frames (x : Reg) (v : W64) (i j : Nat) : (s.setR x v i j).frames = s.frames := rfl
@[simp] theorem setR_casts (x : Reg) (v : W64) (i j : Nat) : (s.setR x v i j).casts = s.casts := rfl
@[simp] theorem setR_portA (x : Reg) (v : W64) (i j : Nat) : (s.setR x v i j).portA = s.portA := rfl
@[simp] theorem setR_portB (x : Reg) (v : W64) (i j : Nat) : (s.setR x v i j).portB = s.portB := rfl
@[simp] theorem setR_faults (x : Reg) (v : W64) (i j : Nat) : (s.setR x v i j).faults = s.faults := rfl
@[simp] theorem setR_cal (x : Reg) (v : W64) (i j : Nat) : (s.setR x v i j).cal = s.cal := rfl
@[simp] theorem setR_power (x : Reg) (v : W64) (i j : Nat) : (s.setR x v i j).power = s.power := rfl
@[simp] theorem setR_mgmt (x : Reg) (v : W64) (i j : Nat) : (s.setR x v i j).mgmt = s.mgmt := rfl
@[simp] theorem setR_net (x : Reg) (v : W64) (i j : Nat) : (s.setR x v i j).net = s.net := rfl
@[simp] theorem setR_fabric (x : Reg) (v : W64) (i j : Nat) : (s.setR x v i j).fabric = s.fabric := rfl
@[simp] theorem setR_cores (x : Reg) (v : W64) (i j : Nat) : (s.setR x v i j).cores = s.cores := rfl
@[simp] theorem setR_serve (x : Reg) (v : W64) (i j : Nat) : (s.setR x v i j).serve = s.serve := rfl
@[simp] theorem setR_ringRuns (x : Reg) (v : W64) (i j : Nat) : (s.setR x v i j).ringRuns = s.ringRuns := rfl
@[simp] theorem setR_ringSetups (x : Reg) (v : W64) (i j : Nat) : (s.setR x v i j).ringSetups = s.ringSetups := rfl
@[simp] theorem setR_wsu (x : Reg) (v : W64) (i j : Nat) : (s.setR x v i j).wsu = s.wsu := rfl
@[simp] theorem setR_coll (x : Reg) (v : W64) (i j : Nat) : (s.setR x v i j).coll = s.coll := rfl
@[simp] theorem setR_out (x : Reg) (v : W64) (i j : Nat) : (s.setR x v i j).out = s.out := rfl
@[simp] theorem setR_freeCtr (x : Reg) (v : W64) (i j : Nat) : (s.setR x v i j).freeCtr = s.freeCtr := rfl

/-! ### `State.setF` -/

@[simp] theorem setF_pending (x : Field) (v i j : Nat) : (s.setF x v i j).pending = s.pending := rfl
@[simp] theorem setF_fuses (x : Field) (v i j : Nat) : (s.setF x v i j).fuses = s.fuses := rfl
@[simp] theorem setF_fw (x : Field) (v i j : Nat) : (s.setF x v i j).fw = s.fw := rfl
@[simp] theorem setF_tb (x : Field) (v i j : Nat) : (s.setF x v i j).tb = s.tb := rfl
@[simp] theorem setF_queues (x : Field) (v i j : Nat) : (s.setF x v i j).queues = s.queues := rfl
@[simp] theorem setF_turns (x : Field) (v i j : Nat) : (s.setF x v i j).turns = s.turns := rfl
@[simp] theorem setF_txs (x : Field) (v i j : Nat) : (s.setF x v i j).txs = s.txs := rfl
@[simp] theorem setF_nextHandle (x : Field) (v i j : Nat) : (s.setF x v i j).nextHandle = s.nextHandle := rfl
@[simp] theorem setF_memory (x : Field) (v i j : Nat) : (s.setF x v i j).memory = s.memory := rfl
@[simp] theorem setF_remoteView (x : Field) (v i j : Nat) : (s.setF x v i j).remoteView = s.remoteView := rfl
@[simp] theorem setF_frames (x : Field) (v i j : Nat) : (s.setF x v i j).frames = s.frames := rfl
@[simp] theorem setF_casts (x : Field) (v i j : Nat) : (s.setF x v i j).casts = s.casts := rfl
@[simp] theorem setF_portA (x : Field) (v i j : Nat) : (s.setF x v i j).portA = s.portA := rfl
@[simp] theorem setF_portB (x : Field) (v i j : Nat) : (s.setF x v i j).portB = s.portB := rfl
@[simp] theorem setF_faults (x : Field) (v i j : Nat) : (s.setF x v i j).faults = s.faults := rfl
@[simp] theorem setF_cal (x : Field) (v i j : Nat) : (s.setF x v i j).cal = s.cal := rfl
@[simp] theorem setF_power (x : Field) (v i j : Nat) : (s.setF x v i j).power = s.power := rfl
@[simp] theorem setF_mgmt (x : Field) (v i j : Nat) : (s.setF x v i j).mgmt = s.mgmt := rfl
@[simp] theorem setF_net (x : Field) (v i j : Nat) : (s.setF x v i j).net = s.net := rfl
@[simp] theorem setF_fabric (x : Field) (v i j : Nat) : (s.setF x v i j).fabric = s.fabric := rfl
@[simp] theorem setF_cores (x : Field) (v i j : Nat) : (s.setF x v i j).cores = s.cores := rfl
@[simp] theorem setF_serve (x : Field) (v i j : Nat) : (s.setF x v i j).serve = s.serve := rfl
@[simp] theorem setF_ringRuns (x : Field) (v i j : Nat) : (s.setF x v i j).ringRuns = s.ringRuns := rfl
@[simp] theorem setF_ringSetups (x : Field) (v i j : Nat) : (s.setF x v i j).ringSetups = s.ringSetups := rfl
@[simp] theorem setF_wsu (x : Field) (v i j : Nat) : (s.setF x v i j).wsu = s.wsu := rfl
@[simp] theorem setF_coll (x : Field) (v i j : Nat) : (s.setF x v i j).coll = s.coll := rfl
@[simp] theorem setF_out (x : Field) (v i j : Nat) : (s.setF x v i j).out = s.out := rfl
@[simp] theorem setF_freeCtr (x : Field) (v i j : Nat) : (s.setF x v i j).freeCtr = s.freeCtr := rfl

/-! ### `State.count` -/

@[simp] theorem count_pending (x : Field) (i j n : Nat) : (s.count x i j n).pending = s.pending := rfl
@[simp] theorem count_fuses (x : Field) (i j n : Nat) : (s.count x i j n).fuses = s.fuses := rfl
@[simp] theorem count_fw (x : Field) (i j n : Nat) : (s.count x i j n).fw = s.fw := rfl
@[simp] theorem count_tb (x : Field) (i j n : Nat) : (s.count x i j n).tb = s.tb := rfl
@[simp] theorem count_queues (x : Field) (i j n : Nat) : (s.count x i j n).queues = s.queues := rfl
@[simp] theorem count_turns (x : Field) (i j n : Nat) : (s.count x i j n).turns = s.turns := rfl
@[simp] theorem count_txs (x : Field) (i j n : Nat) : (s.count x i j n).txs = s.txs := rfl
@[simp] theorem count_nextHandle (x : Field) (i j n : Nat) : (s.count x i j n).nextHandle = s.nextHandle := rfl
@[simp] theorem count_memory (x : Field) (i j n : Nat) : (s.count x i j n).memory = s.memory := rfl
@[simp] theorem count_remoteView (x : Field) (i j n : Nat) : (s.count x i j n).remoteView = s.remoteView := rfl
@[simp] theorem count_frames (x : Field) (i j n : Nat) : (s.count x i j n).frames = s.frames := rfl
@[simp] theorem count_casts (x : Field) (i j n : Nat) : (s.count x i j n).casts = s.casts := rfl
@[simp] theorem count_portA (x : Field) (i j n : Nat) : (s.count x i j n).portA = s.portA := rfl
@[simp] theorem count_portB (x : Field) (i j n : Nat) : (s.count x i j n).portB = s.portB := rfl
@[simp] theorem count_faults (x : Field) (i j n : Nat) : (s.count x i j n).faults = s.faults := rfl
@[simp] theorem count_cal (x : Field) (i j n : Nat) : (s.count x i j n).cal = s.cal := rfl
@[simp] theorem count_power (x : Field) (i j n : Nat) : (s.count x i j n).power = s.power := rfl
@[simp] theorem count_mgmt (x : Field) (i j n : Nat) : (s.count x i j n).mgmt = s.mgmt := rfl
@[simp] theorem count_net (x : Field) (i j n : Nat) : (s.count x i j n).net = s.net := rfl
@[simp] theorem count_fabric (x : Field) (i j n : Nat) : (s.count x i j n).fabric = s.fabric := rfl
@[simp] theorem count_cores (x : Field) (i j n : Nat) : (s.count x i j n).cores = s.cores := rfl
@[simp] theorem count_serve (x : Field) (i j n : Nat) : (s.count x i j n).serve = s.serve := rfl
@[simp] theorem count_ringRuns (x : Field) (i j n : Nat) : (s.count x i j n).ringRuns = s.ringRuns := rfl
@[simp] theorem count_ringSetups (x : Field) (i j n : Nat) : (s.count x i j n).ringSetups = s.ringSetups := rfl
@[simp] theorem count_wsu (x : Field) (i j n : Nat) : (s.count x i j n).wsu = s.wsu := rfl
@[simp] theorem count_coll (x : Field) (i j n : Nat) : (s.count x i j n).coll = s.coll := rfl
@[simp] theorem count_out (x : Field) (i j n : Nat) : (s.count x i j n).out = s.out := rfl
@[simp] theorem count_freeCtr (x : Field) (i j n : Nat) : (s.count x i j n).freeCtr = s.freeCtr := rfl

/-! ### `State.countWrap` -/

@[simp] theorem countWrap_pending (x : Field) (i j n : Nat) : (s.countWrap x i j n).pending = s.pending := rfl
@[simp] theorem countWrap_fuses (x : Field) (i j n : Nat) : (s.countWrap x i j n).fuses = s.fuses := rfl
@[simp] theorem countWrap_fw (x : Field) (i j n : Nat) : (s.countWrap x i j n).fw = s.fw := rfl
@[simp] theorem countWrap_tb (x : Field) (i j n : Nat) : (s.countWrap x i j n).tb = s.tb := rfl
@[simp] theorem countWrap_queues (x : Field) (i j n : Nat) : (s.countWrap x i j n).queues = s.queues := rfl
@[simp] theorem countWrap_turns (x : Field) (i j n : Nat) : (s.countWrap x i j n).turns = s.turns := rfl
@[simp] theorem countWrap_txs (x : Field) (i j n : Nat) : (s.countWrap x i j n).txs = s.txs := rfl
@[simp] theorem countWrap_nextHandle (x : Field) (i j n : Nat) : (s.countWrap x i j n).nextHandle = s.nextHandle := rfl
@[simp] theorem countWrap_memory (x : Field) (i j n : Nat) : (s.countWrap x i j n).memory = s.memory := rfl
@[simp] theorem countWrap_remoteView (x : Field) (i j n : Nat) : (s.countWrap x i j n).remoteView = s.remoteView := rfl
@[simp] theorem countWrap_frames (x : Field) (i j n : Nat) : (s.countWrap x i j n).frames = s.frames := rfl
@[simp] theorem countWrap_casts (x : Field) (i j n : Nat) : (s.countWrap x i j n).casts = s.casts := rfl
@[simp] theorem countWrap_portA (x : Field) (i j n : Nat) : (s.countWrap x i j n).portA = s.portA := rfl
@[simp] theorem countWrap_portB (x : Field) (i j n : Nat) : (s.countWrap x i j n).portB = s.portB := rfl
@[simp] theorem countWrap_faults (x : Field) (i j n : Nat) : (s.countWrap x i j n).faults = s.faults := rfl
@[simp] theorem countWrap_cal (x : Field) (i j n : Nat) : (s.countWrap x i j n).cal = s.cal := rfl
@[simp] theorem countWrap_power (x : Field) (i j n : Nat) : (s.countWrap x i j n).power = s.power := rfl
@[simp] theorem countWrap_mgmt (x : Field) (i j n : Nat) : (s.countWrap x i j n).mgmt = s.mgmt := rfl
@[simp] theorem countWrap_net (x : Field) (i j n : Nat) : (s.countWrap x i j n).net = s.net := rfl
@[simp] theorem countWrap_fabric (x : Field) (i j n : Nat) : (s.countWrap x i j n).fabric = s.fabric := rfl
@[simp] theorem countWrap_cores (x : Field) (i j n : Nat) : (s.countWrap x i j n).cores = s.cores := rfl
@[simp] theorem countWrap_serve (x : Field) (i j n : Nat) : (s.countWrap x i j n).serve = s.serve := rfl
@[simp] theorem countWrap_ringRuns (x : Field) (i j n : Nat) : (s.countWrap x i j n).ringRuns = s.ringRuns := rfl
@[simp] theorem countWrap_ringSetups (x : Field) (i j n : Nat) : (s.countWrap x i j n).ringSetups = s.ringSetups := rfl
@[simp] theorem countWrap_wsu (x : Field) (i j n : Nat) : (s.countWrap x i j n).wsu = s.wsu := rfl
@[simp] theorem countWrap_coll (x : Field) (i j n : Nat) : (s.countWrap x i j n).coll = s.coll := rfl
@[simp] theorem countWrap_out (x : Field) (i j n : Nat) : (s.countWrap x i j n).out = s.out := rfl
@[simp] theorem countWrap_freeCtr (x : Field) (i j n : Nat) : (s.countWrap x i j n).freeCtr = s.freeCtr := rfl

/-! ### `State.emit` -/

@[simp] theorem emit_pending (o : Output) : (s.emit o).pending = s.pending := rfl
@[simp] theorem emit_fuses (o : Output) : (s.emit o).fuses = s.fuses := rfl
@[simp] theorem emit_fw (o : Output) : (s.emit o).fw = s.fw := rfl
@[simp] theorem emit_regs (o : Output) : (s.emit o).regs = s.regs := rfl
@[simp] theorem emit_tb (o : Output) : (s.emit o).tb = s.tb := rfl
@[simp] theorem emit_queues (o : Output) : (s.emit o).queues = s.queues := rfl
@[simp] theorem emit_turns (o : Output) : (s.emit o).turns = s.turns := rfl
@[simp] theorem emit_txs (o : Output) : (s.emit o).txs = s.txs := rfl
@[simp] theorem emit_nextHandle (o : Output) : (s.emit o).nextHandle = s.nextHandle := rfl
@[simp] theorem emit_memory (o : Output) : (s.emit o).memory = s.memory := rfl
@[simp] theorem emit_remoteView (o : Output) : (s.emit o).remoteView = s.remoteView := rfl
@[simp] theorem emit_frames (o : Output) : (s.emit o).frames = s.frames := rfl
@[simp] theorem emit_casts (o : Output) : (s.emit o).casts = s.casts := rfl
@[simp] theorem emit_portA (o : Output) : (s.emit o).portA = s.portA := rfl
@[simp] theorem emit_portB (o : Output) : (s.emit o).portB = s.portB := rfl
@[simp] theorem emit_faults (o : Output) : (s.emit o).faults = s.faults := rfl
@[simp] theorem emit_cal (o : Output) : (s.emit o).cal = s.cal := rfl
@[simp] theorem emit_power (o : Output) : (s.emit o).power = s.power := rfl
@[simp] theorem emit_mgmt (o : Output) : (s.emit o).mgmt = s.mgmt := rfl
@[simp] theorem emit_net (o : Output) : (s.emit o).net = s.net := rfl
@[simp] theorem emit_fabric (o : Output) : (s.emit o).fabric = s.fabric := rfl
@[simp] theorem emit_cores (o : Output) : (s.emit o).cores = s.cores := rfl
@[simp] theorem emit_serve (o : Output) : (s.emit o).serve = s.serve := rfl
@[simp] theorem emit_ringRuns (o : Output) : (s.emit o).ringRuns = s.ringRuns := rfl
@[simp] theorem emit_ringSetups (o : Output) : (s.emit o).ringSetups = s.ringSetups := rfl
@[simp] theorem emit_wsu (o : Output) : (s.emit o).wsu = s.wsu := rfl
@[simp] theorem emit_coll (o : Output) : (s.emit o).coll = s.coll := rfl
@[simp] theorem emit_freeCtr (o : Output) : (s.emit o).freeCtr = s.freeCtr := rfl

/-! ### `State.setQueue` -/

@[simp] theorem setQueue_pending (q : Nat) (x : QState) : (s.setQueue q x).pending = s.pending := rfl
@[simp] theorem setQueue_fuses (q : Nat) (x : QState) : (s.setQueue q x).fuses = s.fuses := rfl
@[simp] theorem setQueue_fw (q : Nat) (x : QState) : (s.setQueue q x).fw = s.fw := rfl
@[simp] theorem setQueue_regs (q : Nat) (x : QState) : (s.setQueue q x).regs = s.regs := rfl
@[simp] theorem setQueue_tb (q : Nat) (x : QState) : (s.setQueue q x).tb = s.tb := rfl
@[simp] theorem setQueue_turns (q : Nat) (x : QState) : (s.setQueue q x).turns = s.turns := rfl
@[simp] theorem setQueue_txs (q : Nat) (x : QState) : (s.setQueue q x).txs = s.txs := rfl
@[simp] theorem setQueue_nextHandle (q : Nat) (x : QState) : (s.setQueue q x).nextHandle = s.nextHandle := rfl
@[simp] theorem setQueue_memory (q : Nat) (x : QState) : (s.setQueue q x).memory = s.memory := rfl
@[simp] theorem setQueue_remoteView (q : Nat) (x : QState) : (s.setQueue q x).remoteView = s.remoteView := rfl
@[simp] theorem setQueue_frames (q : Nat) (x : QState) : (s.setQueue q x).frames = s.frames := rfl
@[simp] theorem setQueue_casts (q : Nat) (x : QState) : (s.setQueue q x).casts = s.casts := rfl
@[simp] theorem setQueue_portA (q : Nat) (x : QState) : (s.setQueue q x).portA = s.portA := rfl
@[simp] theorem setQueue_portB (q : Nat) (x : QState) : (s.setQueue q x).portB = s.portB := rfl
@[simp] theorem setQueue_faults (q : Nat) (x : QState) : (s.setQueue q x).faults = s.faults := rfl
@[simp] theorem setQueue_cal (q : Nat) (x : QState) : (s.setQueue q x).cal = s.cal := rfl
@[simp] theorem setQueue_power (q : Nat) (x : QState) : (s.setQueue q x).power = s.power := rfl
@[simp] theorem setQueue_mgmt (q : Nat) (x : QState) : (s.setQueue q x).mgmt = s.mgmt := rfl
@[simp] theorem setQueue_net (q : Nat) (x : QState) : (s.setQueue q x).net = s.net := rfl
@[simp] theorem setQueue_fabric (q : Nat) (x : QState) : (s.setQueue q x).fabric = s.fabric := rfl
@[simp] theorem setQueue_cores (q : Nat) (x : QState) : (s.setQueue q x).cores = s.cores := rfl
@[simp] theorem setQueue_serve (q : Nat) (x : QState) : (s.setQueue q x).serve = s.serve := rfl
@[simp] theorem setQueue_ringRuns (q : Nat) (x : QState) : (s.setQueue q x).ringRuns = s.ringRuns := rfl
@[simp] theorem setQueue_ringSetups (q : Nat) (x : QState) : (s.setQueue q x).ringSetups = s.ringSetups := rfl
@[simp] theorem setQueue_wsu (q : Nat) (x : QState) : (s.setQueue q x).wsu = s.wsu := rfl
@[simp] theorem setQueue_coll (q : Nat) (x : QState) : (s.setQueue q x).coll = s.coll := rfl
@[simp] theorem setQueue_out (q : Nat) (x : QState) : (s.setQueue q x).out = s.out := rfl
@[simp] theorem setQueue_freeCtr (q : Nat) (x : QState) : (s.setQueue q x).freeCtr = s.freeCtr := rfl

/-! ### `State.drawn` -/

@[simp] theorem drawn_pending : (s.drawn).pending = s.pending := rfl
@[simp] theorem drawn_fuses : (s.drawn).fuses = s.fuses := rfl
@[simp] theorem drawn_fw : (s.drawn).fw = s.fw := rfl
@[simp] theorem drawn_regs : (s.drawn).regs = s.regs := rfl
@[simp] theorem drawn_tb : (s.drawn).tb = s.tb := rfl
@[simp] theorem drawn_queues : (s.drawn).queues = s.queues := rfl
@[simp] theorem drawn_turns : (s.drawn).turns = s.turns := rfl
@[simp] theorem drawn_txs : (s.drawn).txs = s.txs := rfl
@[simp] theorem drawn_nextHandle : (s.drawn).nextHandle = s.nextHandle := rfl
@[simp] theorem drawn_memory : (s.drawn).memory = s.memory := rfl
@[simp] theorem drawn_remoteView : (s.drawn).remoteView = s.remoteView := rfl
@[simp] theorem drawn_frames : (s.drawn).frames = s.frames := rfl
@[simp] theorem drawn_casts : (s.drawn).casts = s.casts := rfl
@[simp] theorem drawn_portA : (s.drawn).portA = s.portA := rfl
@[simp] theorem drawn_portB : (s.drawn).portB = s.portB := rfl
@[simp] theorem drawn_faults : (s.drawn).faults = s.faults := rfl
@[simp] theorem drawn_cal : (s.drawn).cal = s.cal := rfl
@[simp] theorem drawn_power : (s.drawn).power = s.power := rfl
@[simp] theorem drawn_mgmt : (s.drawn).mgmt = s.mgmt := rfl
@[simp] theorem drawn_net : (s.drawn).net = s.net := rfl
@[simp] theorem drawn_fabric : (s.drawn).fabric = s.fabric := rfl
@[simp] theorem drawn_cores : (s.drawn).cores = s.cores := rfl
@[simp] theorem drawn_serve : (s.drawn).serve = s.serve := rfl
@[simp] theorem drawn_ringRuns : (s.drawn).ringRuns = s.ringRuns := rfl
@[simp] theorem drawn_ringSetups : (s.drawn).ringSetups = s.ringSetups := rfl
@[simp] theorem drawn_wsu : (s.drawn).wsu = s.wsu := rfl
@[simp] theorem drawn_coll : (s.drawn).coll = s.coll := rfl
@[simp] theorem drawn_out : (s.drawn).out = s.out := rfl

/-! ### `State.zero` -/

@[simp] theorem zero_pending (a n : Nat) : (s.zero a n).pending = s.pending := rfl
@[simp] theorem zero_fuses (a n : Nat) : (s.zero a n).fuses = s.fuses := rfl
@[simp] theorem zero_fw (a n : Nat) : (s.zero a n).fw = s.fw := rfl
@[simp] theorem zero_regs (a n : Nat) : (s.zero a n).regs = s.regs := rfl
@[simp] theorem zero_tb (a n : Nat) : (s.zero a n).tb = s.tb := rfl
@[simp] theorem zero_queues (a n : Nat) : (s.zero a n).queues = s.queues := rfl
@[simp] theorem zero_turns (a n : Nat) : (s.zero a n).turns = s.turns := rfl
@[simp] theorem zero_txs (a n : Nat) : (s.zero a n).txs = s.txs := rfl
@[simp] theorem zero_nextHandle (a n : Nat) : (s.zero a n).nextHandle = s.nextHandle := rfl
@[simp] theorem zero_remoteView (a n : Nat) : (s.zero a n).remoteView = s.remoteView := rfl
@[simp] theorem zero_frames (a n : Nat) : (s.zero a n).frames = s.frames := rfl
@[simp] theorem zero_casts (a n : Nat) : (s.zero a n).casts = s.casts := rfl
@[simp] theorem zero_portA (a n : Nat) : (s.zero a n).portA = s.portA := rfl
@[simp] theorem zero_portB (a n : Nat) : (s.zero a n).portB = s.portB := rfl
@[simp] theorem zero_faults (a n : Nat) : (s.zero a n).faults = s.faults := rfl
@[simp] theorem zero_cal (a n : Nat) : (s.zero a n).cal = s.cal := rfl
@[simp] theorem zero_power (a n : Nat) : (s.zero a n).power = s.power := rfl
@[simp] theorem zero_mgmt (a n : Nat) : (s.zero a n).mgmt = s.mgmt := rfl
@[simp] theorem zero_net (a n : Nat) : (s.zero a n).net = s.net := rfl
@[simp] theorem zero_fabric (a n : Nat) : (s.zero a n).fabric = s.fabric := rfl
@[simp] theorem zero_cores (a n : Nat) : (s.zero a n).cores = s.cores := rfl
@[simp] theorem zero_serve (a n : Nat) : (s.zero a n).serve = s.serve := rfl
@[simp] theorem zero_ringRuns (a n : Nat) : (s.zero a n).ringRuns = s.ringRuns := rfl
@[simp] theorem zero_ringSetups (a n : Nat) : (s.zero a n).ringSetups = s.ringSetups := rfl
@[simp] theorem zero_wsu (a n : Nat) : (s.zero a n).wsu = s.wsu := rfl
@[simp] theorem zero_coll (a n : Nat) : (s.zero a n).coll = s.coll := rfl
@[simp] theorem zero_out (a n : Nat) : (s.zero a n).out = s.out := rfl
@[simp] theorem zero_freeCtr (a n : Nat) : (s.zero a n).freeCtr = s.freeCtr := rfl

/-! ### `State.setHead` -/

@[simp] theorem setHead_pending (q : Nat) (h : HeadPhase) : (s.setHead q h).pending = s.pending := rfl
@[simp] theorem setHead_fuses (q : Nat) (h : HeadPhase) : (s.setHead q h).fuses = s.fuses := rfl
@[simp] theorem setHead_fw (q : Nat) (h : HeadPhase) : (s.setHead q h).fw = s.fw := rfl
@[simp] theorem setHead_regs (q : Nat) (h : HeadPhase) : (s.setHead q h).regs = s.regs := rfl
@[simp] theorem setHead_tb (q : Nat) (h : HeadPhase) : (s.setHead q h).tb = s.tb := rfl
@[simp] theorem setHead_turns (q : Nat) (h : HeadPhase) : (s.setHead q h).turns = s.turns := rfl
@[simp] theorem setHead_txs (q : Nat) (h : HeadPhase) : (s.setHead q h).txs = s.txs := rfl
@[simp] theorem setHead_nextHandle (q : Nat) (h : HeadPhase) : (s.setHead q h).nextHandle = s.nextHandle := rfl
@[simp] theorem setHead_memory (q : Nat) (h : HeadPhase) : (s.setHead q h).memory = s.memory := rfl
@[simp] theorem setHead_remoteView (q : Nat) (h : HeadPhase) : (s.setHead q h).remoteView = s.remoteView := rfl
@[simp] theorem setHead_frames (q : Nat) (h : HeadPhase) : (s.setHead q h).frames = s.frames := rfl
@[simp] theorem setHead_casts (q : Nat) (h : HeadPhase) : (s.setHead q h).casts = s.casts := rfl
@[simp] theorem setHead_portA (q : Nat) (h : HeadPhase) : (s.setHead q h).portA = s.portA := rfl
@[simp] theorem setHead_portB (q : Nat) (h : HeadPhase) : (s.setHead q h).portB = s.portB := rfl
@[simp] theorem setHead_faults (q : Nat) (h : HeadPhase) : (s.setHead q h).faults = s.faults := rfl
@[simp] theorem setHead_cal (q : Nat) (h : HeadPhase) : (s.setHead q h).cal = s.cal := rfl
@[simp] theorem setHead_power (q : Nat) (h : HeadPhase) : (s.setHead q h).power = s.power := rfl
@[simp] theorem setHead_mgmt (q : Nat) (h : HeadPhase) : (s.setHead q h).mgmt = s.mgmt := rfl
@[simp] theorem setHead_net (q : Nat) (h : HeadPhase) : (s.setHead q h).net = s.net := rfl
@[simp] theorem setHead_fabric (q : Nat) (h : HeadPhase) : (s.setHead q h).fabric = s.fabric := rfl
@[simp] theorem setHead_cores (q : Nat) (h : HeadPhase) : (s.setHead q h).cores = s.cores := rfl
@[simp] theorem setHead_serve (q : Nat) (h : HeadPhase) : (s.setHead q h).serve = s.serve := rfl
@[simp] theorem setHead_ringRuns (q : Nat) (h : HeadPhase) : (s.setHead q h).ringRuns = s.ringRuns := rfl
@[simp] theorem setHead_ringSetups (q : Nat) (h : HeadPhase) : (s.setHead q h).ringSetups = s.ringSetups := rfl
@[simp] theorem setHead_wsu (q : Nat) (h : HeadPhase) : (s.setHead q h).wsu = s.wsu := rfl
@[simp] theorem setHead_coll (q : Nat) (h : HeadPhase) : (s.setHead q h).coll = s.coll := rfl
@[simp] theorem setHead_out (q : Nat) (h : HeadPhase) : (s.setHead q h).out = s.out := rfl
@[simp] theorem setHead_freeCtr (q : Nat) (h : HeadPhase) : (s.setHead q h).freeCtr = s.freeCtr := rfl

/-! ### `State.setFlight` -/

@[simp] theorem setFlight_pending (q : Nat) (x : Flight) : (s.setFlight q x).pending = s.pending := rfl
@[simp] theorem setFlight_fuses (q : Nat) (x : Flight) : (s.setFlight q x).fuses = s.fuses := rfl
@[simp] theorem setFlight_fw (q : Nat) (x : Flight) : (s.setFlight q x).fw = s.fw := rfl
@[simp] theorem setFlight_regs (q : Nat) (x : Flight) : (s.setFlight q x).regs = s.regs := rfl
@[simp] theorem setFlight_tb (q : Nat) (x : Flight) : (s.setFlight q x).tb = s.tb := rfl
@[simp] theorem setFlight_turns (q : Nat) (x : Flight) : (s.setFlight q x).turns = s.turns := rfl
@[simp] theorem setFlight_txs (q : Nat) (x : Flight) : (s.setFlight q x).txs = s.txs := rfl
@[simp] theorem setFlight_nextHandle (q : Nat) (x : Flight) : (s.setFlight q x).nextHandle = s.nextHandle := rfl
@[simp] theorem setFlight_memory (q : Nat) (x : Flight) : (s.setFlight q x).memory = s.memory := rfl
@[simp] theorem setFlight_remoteView (q : Nat) (x : Flight) : (s.setFlight q x).remoteView = s.remoteView := rfl
@[simp] theorem setFlight_frames (q : Nat) (x : Flight) : (s.setFlight q x).frames = s.frames := rfl
@[simp] theorem setFlight_casts (q : Nat) (x : Flight) : (s.setFlight q x).casts = s.casts := rfl
@[simp] theorem setFlight_portA (q : Nat) (x : Flight) : (s.setFlight q x).portA = s.portA := rfl
@[simp] theorem setFlight_portB (q : Nat) (x : Flight) : (s.setFlight q x).portB = s.portB := rfl
@[simp] theorem setFlight_faults (q : Nat) (x : Flight) : (s.setFlight q x).faults = s.faults := rfl
@[simp] theorem setFlight_cal (q : Nat) (x : Flight) : (s.setFlight q x).cal = s.cal := rfl
@[simp] theorem setFlight_power (q : Nat) (x : Flight) : (s.setFlight q x).power = s.power := rfl
@[simp] theorem setFlight_mgmt (q : Nat) (x : Flight) : (s.setFlight q x).mgmt = s.mgmt := rfl
@[simp] theorem setFlight_net (q : Nat) (x : Flight) : (s.setFlight q x).net = s.net := rfl
@[simp] theorem setFlight_fabric (q : Nat) (x : Flight) : (s.setFlight q x).fabric = s.fabric := rfl
@[simp] theorem setFlight_cores (q : Nat) (x : Flight) : (s.setFlight q x).cores = s.cores := rfl
@[simp] theorem setFlight_serve (q : Nat) (x : Flight) : (s.setFlight q x).serve = s.serve := rfl
@[simp] theorem setFlight_ringRuns (q : Nat) (x : Flight) : (s.setFlight q x).ringRuns = s.ringRuns := rfl
@[simp] theorem setFlight_ringSetups (q : Nat) (x : Flight) : (s.setFlight q x).ringSetups = s.ringSetups := rfl
@[simp] theorem setFlight_wsu (q : Nat) (x : Flight) : (s.setFlight q x).wsu = s.wsu := rfl
@[simp] theorem setFlight_coll (q : Nat) (x : Flight) : (s.setFlight q x).coll = s.coll := rfl
@[simp] theorem setFlight_out (q : Nat) (x : Flight) : (s.setFlight q x).out = s.out := rfl
@[simp] theorem setFlight_freeCtr (q : Nat) (x : Flight) : (s.setFlight q x).freeCtr = s.freeCtr := rfl

/-! ### `State.setSlot` -/

@[simp] theorem setSlot_pending (q j : Nat) (x : Slot) : (s.setSlot q j x).pending = s.pending := rfl
@[simp] theorem setSlot_fuses (q j : Nat) (x : Slot) : (s.setSlot q j x).fuses = s.fuses := rfl
@[simp] theorem setSlot_fw (q j : Nat) (x : Slot) : (s.setSlot q j x).fw = s.fw := rfl
@[simp] theorem setSlot_regs (q j : Nat) (x : Slot) : (s.setSlot q j x).regs = s.regs := rfl
@[simp] theorem setSlot_tb (q j : Nat) (x : Slot) : (s.setSlot q j x).tb = s.tb := rfl
@[simp] theorem setSlot_turns (q j : Nat) (x : Slot) : (s.setSlot q j x).turns = s.turns := rfl
@[simp] theorem setSlot_txs (q j : Nat) (x : Slot) : (s.setSlot q j x).txs = s.txs := rfl
@[simp] theorem setSlot_nextHandle (q j : Nat) (x : Slot) : (s.setSlot q j x).nextHandle = s.nextHandle := rfl
@[simp] theorem setSlot_memory (q j : Nat) (x : Slot) : (s.setSlot q j x).memory = s.memory := rfl
@[simp] theorem setSlot_remoteView (q j : Nat) (x : Slot) : (s.setSlot q j x).remoteView = s.remoteView := rfl
@[simp] theorem setSlot_frames (q j : Nat) (x : Slot) : (s.setSlot q j x).frames = s.frames := rfl
@[simp] theorem setSlot_casts (q j : Nat) (x : Slot) : (s.setSlot q j x).casts = s.casts := rfl
@[simp] theorem setSlot_portA (q j : Nat) (x : Slot) : (s.setSlot q j x).portA = s.portA := rfl
@[simp] theorem setSlot_portB (q j : Nat) (x : Slot) : (s.setSlot q j x).portB = s.portB := rfl
@[simp] theorem setSlot_faults (q j : Nat) (x : Slot) : (s.setSlot q j x).faults = s.faults := rfl
@[simp] theorem setSlot_cal (q j : Nat) (x : Slot) : (s.setSlot q j x).cal = s.cal := rfl
@[simp] theorem setSlot_power (q j : Nat) (x : Slot) : (s.setSlot q j x).power = s.power := rfl
@[simp] theorem setSlot_mgmt (q j : Nat) (x : Slot) : (s.setSlot q j x).mgmt = s.mgmt := rfl
@[simp] theorem setSlot_net (q j : Nat) (x : Slot) : (s.setSlot q j x).net = s.net := rfl
@[simp] theorem setSlot_fabric (q j : Nat) (x : Slot) : (s.setSlot q j x).fabric = s.fabric := rfl
@[simp] theorem setSlot_cores (q j : Nat) (x : Slot) : (s.setSlot q j x).cores = s.cores := rfl
@[simp] theorem setSlot_serve (q j : Nat) (x : Slot) : (s.setSlot q j x).serve = s.serve := rfl
@[simp] theorem setSlot_ringRuns (q j : Nat) (x : Slot) : (s.setSlot q j x).ringRuns = s.ringRuns := rfl
@[simp] theorem setSlot_ringSetups (q j : Nat) (x : Slot) : (s.setSlot q j x).ringSetups = s.ringSetups := rfl
@[simp] theorem setSlot_wsu (q j : Nat) (x : Slot) : (s.setSlot q j x).wsu = s.wsu := rfl
@[simp] theorem setSlot_coll (q j : Nat) (x : Slot) : (s.setSlot q j x).coll = s.coll := rfl
@[simp] theorem setSlot_out (q j : Nat) (x : Slot) : (s.setSlot q j x).out = s.out := rfl
@[simp] theorem setSlot_freeCtr (q j : Nat) (x : Slot) : (s.setSlot q j x).freeCtr = s.freeCtr := rfl

/-! ### `State.clearSlot` -/

@[simp] theorem clearSlot_pending (q j : Nat) : (s.clearSlot q j).pending = s.pending := rfl
@[simp] theorem clearSlot_fuses (q j : Nat) : (s.clearSlot q j).fuses = s.fuses := rfl
@[simp] theorem clearSlot_fw (q j : Nat) : (s.clearSlot q j).fw = s.fw := rfl
@[simp] theorem clearSlot_regs (q j : Nat) : (s.clearSlot q j).regs = s.regs := rfl
@[simp] theorem clearSlot_tb (q j : Nat) : (s.clearSlot q j).tb = s.tb := rfl
@[simp] theorem clearSlot_turns (q j : Nat) : (s.clearSlot q j).turns = s.turns := rfl
@[simp] theorem clearSlot_txs (q j : Nat) : (s.clearSlot q j).txs = s.txs := rfl
@[simp] theorem clearSlot_nextHandle (q j : Nat) : (s.clearSlot q j).nextHandle = s.nextHandle := rfl
@[simp] theorem clearSlot_memory (q j : Nat) : (s.clearSlot q j).memory = s.memory := rfl
@[simp] theorem clearSlot_remoteView (q j : Nat) : (s.clearSlot q j).remoteView = s.remoteView := rfl
@[simp] theorem clearSlot_frames (q j : Nat) : (s.clearSlot q j).frames = s.frames := rfl
@[simp] theorem clearSlot_casts (q j : Nat) : (s.clearSlot q j).casts = s.casts := rfl
@[simp] theorem clearSlot_portA (q j : Nat) : (s.clearSlot q j).portA = s.portA := rfl
@[simp] theorem clearSlot_portB (q j : Nat) : (s.clearSlot q j).portB = s.portB := rfl
@[simp] theorem clearSlot_faults (q j : Nat) : (s.clearSlot q j).faults = s.faults := rfl
@[simp] theorem clearSlot_cal (q j : Nat) : (s.clearSlot q j).cal = s.cal := rfl
@[simp] theorem clearSlot_power (q j : Nat) : (s.clearSlot q j).power = s.power := rfl
@[simp] theorem clearSlot_mgmt (q j : Nat) : (s.clearSlot q j).mgmt = s.mgmt := rfl
@[simp] theorem clearSlot_net (q j : Nat) : (s.clearSlot q j).net = s.net := rfl
@[simp] theorem clearSlot_fabric (q j : Nat) : (s.clearSlot q j).fabric = s.fabric := rfl
@[simp] theorem clearSlot_cores (q j : Nat) : (s.clearSlot q j).cores = s.cores := rfl
@[simp] theorem clearSlot_serve (q j : Nat) : (s.clearSlot q j).serve = s.serve := rfl
@[simp] theorem clearSlot_ringRuns (q j : Nat) : (s.clearSlot q j).ringRuns = s.ringRuns := rfl
@[simp] theorem clearSlot_ringSetups (q j : Nat) : (s.clearSlot q j).ringSetups = s.ringSetups := rfl
@[simp] theorem clearSlot_wsu (q j : Nat) : (s.clearSlot q j).wsu = s.wsu := rfl
@[simp] theorem clearSlot_coll (q j : Nat) : (s.clearSlot q j).coll = s.coll := rfl
@[simp] theorem clearSlot_out (q j : Nat) : (s.clearSlot q j).out = s.out := rfl
@[simp] theorem clearSlot_freeCtr (q j : Nat) : (s.clearSlot q j).freeCtr = s.freeCtr := rfl

/-! ### `State.advanceHead` -/

@[simp] theorem advanceHead_pending (q : Nat) : (s.advanceHead q).pending = s.pending := rfl
@[simp] theorem advanceHead_fuses (q : Nat) : (s.advanceHead q).fuses = s.fuses := rfl
@[simp] theorem advanceHead_fw (q : Nat) : (s.advanceHead q).fw = s.fw := rfl
@[simp] theorem advanceHead_tb (q : Nat) : (s.advanceHead q).tb = s.tb := rfl
@[simp] theorem advanceHead_turns (q : Nat) : (s.advanceHead q).turns = s.turns := rfl
@[simp] theorem advanceHead_txs (q : Nat) : (s.advanceHead q).txs = s.txs := rfl
@[simp] theorem advanceHead_nextHandle (q : Nat) : (s.advanceHead q).nextHandle = s.nextHandle := rfl
@[simp] theorem advanceHead_memory (q : Nat) : (s.advanceHead q).memory = s.memory := rfl
@[simp] theorem advanceHead_remoteView (q : Nat) : (s.advanceHead q).remoteView = s.remoteView := rfl
@[simp] theorem advanceHead_frames (q : Nat) : (s.advanceHead q).frames = s.frames := rfl
@[simp] theorem advanceHead_casts (q : Nat) : (s.advanceHead q).casts = s.casts := rfl
@[simp] theorem advanceHead_portA (q : Nat) : (s.advanceHead q).portA = s.portA := rfl
@[simp] theorem advanceHead_portB (q : Nat) : (s.advanceHead q).portB = s.portB := rfl
@[simp] theorem advanceHead_faults (q : Nat) : (s.advanceHead q).faults = s.faults := rfl
@[simp] theorem advanceHead_cal (q : Nat) : (s.advanceHead q).cal = s.cal := rfl
@[simp] theorem advanceHead_power (q : Nat) : (s.advanceHead q).power = s.power := rfl
@[simp] theorem advanceHead_mgmt (q : Nat) : (s.advanceHead q).mgmt = s.mgmt := rfl
@[simp] theorem advanceHead_net (q : Nat) : (s.advanceHead q).net = s.net := rfl
@[simp] theorem advanceHead_fabric (q : Nat) : (s.advanceHead q).fabric = s.fabric := rfl
@[simp] theorem advanceHead_cores (q : Nat) : (s.advanceHead q).cores = s.cores := rfl
@[simp] theorem advanceHead_serve (q : Nat) : (s.advanceHead q).serve = s.serve := rfl
@[simp] theorem advanceHead_ringRuns (q : Nat) : (s.advanceHead q).ringRuns = s.ringRuns := rfl
@[simp] theorem advanceHead_ringSetups (q : Nat) : (s.advanceHead q).ringSetups = s.ringSetups := rfl
@[simp] theorem advanceHead_wsu (q : Nat) : (s.advanceHead q).wsu = s.wsu := rfl
@[simp] theorem advanceHead_coll (q : Nat) : (s.advanceHead q).coll = s.coll := rfl
@[simp] theorem advanceHead_out (q : Nat) : (s.advanceHead q).out = s.out := rfl
@[simp] theorem advanceHead_freeCtr (q : Nat) : (s.advanceHead q).freeCtr = s.freeCtr := rfl

/-! ### `State.store` -/

@[simp] theorem store_pending (a : Nat) (bs : List Byte) (mark : Bool) : (s.store a bs mark).pending = s.pending := by unfold State.store; split <;> rfl
@[simp] theorem store_fuses (a : Nat) (bs : List Byte) (mark : Bool) : (s.store a bs mark).fuses = s.fuses := by unfold State.store; split <;> rfl
@[simp] theorem store_fw (a : Nat) (bs : List Byte) (mark : Bool) : (s.store a bs mark).fw = s.fw := by unfold State.store; split <;> rfl
@[simp] theorem store_regs (a : Nat) (bs : List Byte) (mark : Bool) : (s.store a bs mark).regs = s.regs := by unfold State.store; split <;> rfl
@[simp] theorem store_tb (a : Nat) (bs : List Byte) (mark : Bool) : (s.store a bs mark).tb = s.tb := by unfold State.store; split <;> rfl
@[simp] theorem store_queues (a : Nat) (bs : List Byte) (mark : Bool) : (s.store a bs mark).queues = s.queues := by unfold State.store; split <;> rfl
@[simp] theorem store_turns (a : Nat) (bs : List Byte) (mark : Bool) : (s.store a bs mark).turns = s.turns := by unfold State.store; split <;> rfl
@[simp] theorem store_txs (a : Nat) (bs : List Byte) (mark : Bool) : (s.store a bs mark).txs = s.txs := by unfold State.store; split <;> rfl
@[simp] theorem store_nextHandle (a : Nat) (bs : List Byte) (mark : Bool) : (s.store a bs mark).nextHandle = s.nextHandle := by unfold State.store; split <;> rfl
@[simp] theorem store_remoteView (a : Nat) (bs : List Byte) (mark : Bool) : (s.store a bs mark).remoteView = s.remoteView := by unfold State.store; split <;> rfl
@[simp] theorem store_frames (a : Nat) (bs : List Byte) (mark : Bool) : (s.store a bs mark).frames = s.frames := by unfold State.store; split <;> rfl
@[simp] theorem store_casts (a : Nat) (bs : List Byte) (mark : Bool) : (s.store a bs mark).casts = s.casts := by unfold State.store; split <;> rfl
@[simp] theorem store_portA (a : Nat) (bs : List Byte) (mark : Bool) : (s.store a bs mark).portA = s.portA := by unfold State.store; split <;> rfl
@[simp] theorem store_portB (a : Nat) (bs : List Byte) (mark : Bool) : (s.store a bs mark).portB = s.portB := by unfold State.store; split <;> rfl
@[simp] theorem store_faults (a : Nat) (bs : List Byte) (mark : Bool) : (s.store a bs mark).faults = s.faults := by unfold State.store; split <;> rfl
@[simp] theorem store_cal (a : Nat) (bs : List Byte) (mark : Bool) : (s.store a bs mark).cal = s.cal := by unfold State.store; split <;> rfl
@[simp] theorem store_power (a : Nat) (bs : List Byte) (mark : Bool) : (s.store a bs mark).power = s.power := by unfold State.store; split <;> rfl
@[simp] theorem store_mgmt (a : Nat) (bs : List Byte) (mark : Bool) : (s.store a bs mark).mgmt = s.mgmt := by unfold State.store; split <;> rfl
@[simp] theorem store_net (a : Nat) (bs : List Byte) (mark : Bool) : (s.store a bs mark).net = s.net := by unfold State.store; split <;> rfl
@[simp] theorem store_fabric (a : Nat) (bs : List Byte) (mark : Bool) : (s.store a bs mark).fabric = s.fabric := by unfold State.store; split <;> rfl
@[simp] theorem store_cores (a : Nat) (bs : List Byte) (mark : Bool) : (s.store a bs mark).cores = s.cores := by unfold State.store; split <;> rfl
@[simp] theorem store_serve (a : Nat) (bs : List Byte) (mark : Bool) : (s.store a bs mark).serve = s.serve := by unfold State.store; split <;> rfl
@[simp] theorem store_ringRuns (a : Nat) (bs : List Byte) (mark : Bool) : (s.store a bs mark).ringRuns = s.ringRuns := by unfold State.store; split <;> rfl
@[simp] theorem store_ringSetups (a : Nat) (bs : List Byte) (mark : Bool) : (s.store a bs mark).ringSetups = s.ringSetups := by unfold State.store; split <;> rfl
@[simp] theorem store_wsu (a : Nat) (bs : List Byte) (mark : Bool) : (s.store a bs mark).wsu = s.wsu := by unfold State.store; split <;> rfl
@[simp] theorem store_coll (a : Nat) (bs : List Byte) (mark : Bool) : (s.store a bs mark).coll = s.coll := by unfold State.store; split <;> rfl
@[simp] theorem store_out (a : Nat) (bs : List Byte) (mark : Bool) : (s.store a bs mark).out = s.out := by unfold State.store; split <;> rfl
@[simp] theorem store_freeCtr (a : Nat) (bs : List Byte) (mark : Bool) : (s.store a bs mark).freeCtr = s.freeCtr := by unfold State.store; split <;> rfl

/-! ### `State.setPort` -/

@[simp] theorem setPort_pending (p : Nat) (x : PortSt) : (s.setPort p x).pending = s.pending := by unfold State.setPort; split <;> rfl
@[simp] theorem setPort_fuses (p : Nat) (x : PortSt) : (s.setPort p x).fuses = s.fuses := by unfold State.setPort; split <;> rfl
@[simp] theorem setPort_fw (p : Nat) (x : PortSt) : (s.setPort p x).fw = s.fw := by unfold State.setPort; split <;> rfl
@[simp] theorem setPort_regs (p : Nat) (x : PortSt) : (s.setPort p x).regs = s.regs := by unfold State.setPort; split <;> rfl
@[simp] theorem setPort_tb (p : Nat) (x : PortSt) : (s.setPort p x).tb = s.tb := by unfold State.setPort; split <;> rfl
@[simp] theorem setPort_queues (p : Nat) (x : PortSt) : (s.setPort p x).queues = s.queues := by unfold State.setPort; split <;> rfl
@[simp] theorem setPort_turns (p : Nat) (x : PortSt) : (s.setPort p x).turns = s.turns := by unfold State.setPort; split <;> rfl
@[simp] theorem setPort_txs (p : Nat) (x : PortSt) : (s.setPort p x).txs = s.txs := by unfold State.setPort; split <;> rfl
@[simp] theorem setPort_nextHandle (p : Nat) (x : PortSt) : (s.setPort p x).nextHandle = s.nextHandle := by unfold State.setPort; split <;> rfl
@[simp] theorem setPort_memory (p : Nat) (x : PortSt) : (s.setPort p x).memory = s.memory := by unfold State.setPort; split <;> rfl
@[simp] theorem setPort_remoteView (p : Nat) (x : PortSt) : (s.setPort p x).remoteView = s.remoteView := by unfold State.setPort; split <;> rfl
@[simp] theorem setPort_frames (p : Nat) (x : PortSt) : (s.setPort p x).frames = s.frames := by unfold State.setPort; split <;> rfl
@[simp] theorem setPort_casts (p : Nat) (x : PortSt) : (s.setPort p x).casts = s.casts := by unfold State.setPort; split <;> rfl
@[simp] theorem setPort_faults (p : Nat) (x : PortSt) : (s.setPort p x).faults = s.faults := by unfold State.setPort; split <;> rfl
@[simp] theorem setPort_cal (p : Nat) (x : PortSt) : (s.setPort p x).cal = s.cal := by unfold State.setPort; split <;> rfl
@[simp] theorem setPort_power (p : Nat) (x : PortSt) : (s.setPort p x).power = s.power := by unfold State.setPort; split <;> rfl
@[simp] theorem setPort_mgmt (p : Nat) (x : PortSt) : (s.setPort p x).mgmt = s.mgmt := by unfold State.setPort; split <;> rfl
@[simp] theorem setPort_net (p : Nat) (x : PortSt) : (s.setPort p x).net = s.net := by unfold State.setPort; split <;> rfl
@[simp] theorem setPort_fabric (p : Nat) (x : PortSt) : (s.setPort p x).fabric = s.fabric := by unfold State.setPort; split <;> rfl
@[simp] theorem setPort_cores (p : Nat) (x : PortSt) : (s.setPort p x).cores = s.cores := by unfold State.setPort; split <;> rfl
@[simp] theorem setPort_serve (p : Nat) (x : PortSt) : (s.setPort p x).serve = s.serve := by unfold State.setPort; split <;> rfl
@[simp] theorem setPort_ringRuns (p : Nat) (x : PortSt) : (s.setPort p x).ringRuns = s.ringRuns := by unfold State.setPort; split <;> rfl
@[simp] theorem setPort_ringSetups (p : Nat) (x : PortSt) : (s.setPort p x).ringSetups = s.ringSetups := by unfold State.setPort; split <;> rfl
@[simp] theorem setPort_wsu (p : Nat) (x : PortSt) : (s.setPort p x).wsu = s.wsu := by unfold State.setPort; split <;> rfl
@[simp] theorem setPort_coll (p : Nat) (x : PortSt) : (s.setPort p x).coll = s.coll := by unfold State.setPort; split <;> rfl
@[simp] theorem setPort_out (p : Nat) (x : PortSt) : (s.setPort p x).out = s.out := by unfold State.setPort; split <;> rfl
@[simp] theorem setPort_freeCtr (p : Nat) (x : PortSt) : (s.setPort p x).freeCtr = s.freeCtr := by unfold State.setPort; split <;> rfl

end Sys2Proof.Laws
end

