-- ==== Sys2Proof/Laws/Regs.lean ====
section
/-! SUPPORT. Sparse maps, fields of a word, and registers: what is read after a write. -/

namespace Sys2Proof.Laws

open Sys2Proof.Machine

/-! ## Sparse maps -/

section Maps

variable {α : Type}

@[simp] theorem mget_mset_self (m : SMap α) (k : Nat) (v : α) : mget (mset m k v) k = some v := by
  induction m with
  | nil => simp [mset, mget]
  | cons p t ih =>
    obtain ⟨a, w⟩ := p
    by_cases h : a = k
    · simp [mset, mget, h]
    · by_cases h' : k < a <;> simp [mset, mget, h, h', ih]

@[simp] theorem mset_mset_self (m : SMap α) (k : Nat) (v w : α) : mset (mset m k v) k w = mset m k w := by
  induction m with
  | nil => simp [mset]
  | cons p t ih =>
    obtain ⟨a, u⟩ := p
    by_cases h : a = k
    · simp [mset, h]
    · by_cases h' : k < a
      · simp [mset, h, h']
      · simp [mset, h, h', ih]

theorem mget_mset_ne (m : SMap α) {k l : Nat} (v : α) (h : k ≠ l) : mget (mset m k v) l = mget m l := by
  induction m with
  | nil => simp [mset, mget, h]
  | cons p t ih =>
    obtain ⟨a, w⟩ := p
    by_cases h1 : a = k
    · subst h1; simp [mset, mget, h]
    · by_cases h2 : k < a
      · simp [mset, mget, h1, h2, h]
      · rw [mset, if_neg h1, if_neg h2, mget, mget, ih]

@[simp] theorem mgetD_mset_self (m : SMap α) (k : Nat) (v d : α) : mgetD (mset m k v) k d = v := by simp [mgetD]

theorem mgetD_mset_ne (m : SMap α) {k l : Nat} (v d : α) (h : k ≠ l) : mgetD (mset m k v) l d = mgetD m l d := by
  simp [mgetD, mget_mset_ne m v h]

end Maps

/-! ## Fields of a word -/

theorem fieldMask_getLsbD (lo w i : Nat) : (fieldMask lo w).getLsbD i = (decide (i < 64) && decide (lo ≤ i) && decide (i < lo + w)) := by
  unfold fieldMask
  have e : ∀ k, ((1#64 <<< w) - 1#64).getLsbD k = (decide (k < 64) && decide (k < w)) := by
    intro k
    by_cases hw : w < 64
    · have h2 : (1#64 <<< w) - 1#64 = BitVec.ofNat 64 (2 ^ w - 1) := by
        apply BitVec.eq_of_toNat_eq
        have hp : 2 ^ w < 2 ^ 64 := Nat.pow_lt_pow_right (by decide) hw
        have h1 : 0 < 2 ^ w := Nat.two_pow_pos w
        rw [BitVec.toNat_sub, BitVec.toNat_shiftLeft, BitVec.toNat_ofNat, BitVec.toNat_ofNat, Nat.shiftLeft_eq]
        simp only [Nat.one_mod_two_pow (show 0 < 64 by decide), Nat.one_mul, Nat.mod_eq_of_lt hp]
        omega
      rw [h2, BitVec.getLsbD_ofNat, Nat.testBit_two_pow_sub_one]
    · have h2 : (1#64 <<< w) = 0#64 := by
        apply BitVec.eq_of_toNat_eq
        rw [BitVec.toNat_shiftLeft, Nat.shiftLeft_eq]
        obtain ⟨k, rfl⟩ := Nat.exists_eq_add_of_le (Nat.le_of_not_lt hw)
        simp [Nat.pow_add]
      have h3 : (0#64 - 1#64) = BitVec.allOnes 64 := by decide
      rw [h2, h3, BitVec.getLsbD_allOnes]
      by_cases hk : k < 64
      · simp [hk]; omega
      · simp [hk]
  rw [BitVec.getLsbD_shiftLeft, e]
  rw [Bool.eq_iff_iff]
  simp only [Bool.and_eq_true, Bool.not_eq_true', decide_eq_true_eq, decide_eq_false_iff_not]
  omega

theorem setBits_getLsbD (x : W64) (lo w v i : Nat) :
    (setBits x lo w v).getLsbD i =
      (decide (i < 64) && (if lo ≤ i ∧ i < lo + w then v.testBit (i - lo) else x.getLsbD i)) := by
  unfold setBits
  simp only [BitVec.getLsbD_or, BitVec.getLsbD_and, BitVec.getLsbD_not, fieldMask_getLsbD, BitVec.getLsbD_shiftLeft, BitVec.getLsbD_ofNat]
  by_cases h1 : i < 64
  · by_cases h2 : lo ≤ i
    · have h4 : ¬ i < lo := by omega
      have h5 : i - lo < 64 := by omega
      by_cases h3 : i < lo + w <;> simp [h1, h2, h3, h4, h5]
    · simp [h1, h2]
  · simp [h1]

theorem bitsOf_testBit (x : W64) (lo w i : Nat) : (bitsOf x lo w).testBit i = (decide (i < w) && x.getLsbD (lo + i)) := by
  unfold bitsOf
  rw [Nat.testBit_mod_two_pow, Nat.testBit_shiftRight]
  rfl

theorem bitsOf_setBits_self (x : W64) {lo w : Nat} (v : Nat) (h : lo + w ≤ 64) : bitsOf (setBits x lo w v) lo w = v % 2 ^ w := by
  apply Nat.eq_of_testBit_eq
  intro i
  rw [bitsOf_testBit, setBits_getLsbD, Nat.testBit_mod_two_pow]
  by_cases h1 : i < w
  · have h2 : lo + i < 64 := by omega
    simp [h1, h2]
  · simp [h1]

theorem bitsOf_setBits_apart (x : W64) {lo w lo' w' : Nat} (v : Nat) (h : lo + w ≤ lo' ∨ lo' + w' ≤ lo) :
    bitsOf (setBits x lo w v) lo' w' = bitsOf x lo' w' := by
  apply Nat.eq_of_testBit_eq
  intro i
  rw [bitsOf_testBit, bitsOf_testBit, setBits_getLsbD]
  by_cases h1 : i < w'
  · have h2 : ¬ (lo ≤ lo' + i ∧ lo' + i < lo + w) := by omega
    by_cases h3 : lo' + i < 64
    · simp [h1, h2, h3]
    · simp [h1, h3, BitVec.getLsbD_of_ge x (lo' + i) (Nat.le_of_not_lt h3)]
  · simp [h1]

theorem bitsOf_zero (lo w : Nat) : bitsOf 0 lo w = 0 := by simp [bitsOf]

theorem bitsOf_lt (x : W64) (lo w : Nat) : bitsOf x lo w < 2 ^ w := Nat.mod_lt _ (Nat.two_pow_pos w)

/-! ## Registers -/

variable (s : State)

@[simp] theorem reg_setReg_self (off : Nat) (v : W64) : (s.setReg off v).reg off = v := by
  simp [State.reg, State.setReg]

theorem reg_setReg_ne {off off' : Nat} (v : W64) (h : off ≠ off') : (s.setReg off v).reg off' = s.reg off' := by
  simp [State.reg, State.setReg, mget_mset_ne s.regs v h]

@[simp] theorem r_setR_self (x : Reg) (v : W64) (i j : Nat) : (s.setR x v i j).r x i j = v := by
  simp [State.r, State.setR]

theorem r_setR_ne {x y : Reg} (v : W64) {i j i' j' : Nat} (h : x.at i j ≠ y.at i' j') : (s.setR x v i j).r y i' j' = s.r y i' j' := by
  simp [State.r, State.setR, reg_setReg_ne s v h]

theorem f_setR_self (x : Reg) (v : W64) (i j : Nat) (y : Field) (h : y.reg = x) : (s.setR x v i j).f y i j = bitsOf v y.lo y.width := by
  subst h; simp [State.f]

theorem f_setR_ne {x : Reg} (v : W64) {y : Field} {i j i' j' : Nat} (h : x.at i j ≠ y.reg.at i' j') :
    (s.setR x v i j).f y i' j' = s.f y i' j' := by
  simp [State.f, r_setR_ne s v h]

/-- A field read after it is written. -/
theorem f_setF_self (x : Field) (v i j : Nat) (h : x.lo + x.width ≤ 64) : (s.setF x v i j).f x i j = v % 2 ^ x.width := by
  simp [State.f, State.setF, bitsOf_setBits_self _ _ h]

/-- A field of the same register that does not overlap the one written. -/
theorem f_setF_apart {x y : Field} (v i j : Nat) (hr : y.reg = x.reg) (h : x.lo + x.width ≤ y.lo ∨ y.lo + y.width ≤ x.lo) :
    (s.setF x v i j).f y i j = s.f y i j := by
  simp [State.f, State.setF, hr, bitsOf_setBits_apart _ _ h]

/-- A field of another register. -/
theorem f_setF_ne {x y : Field} (v : Nat) {i j i' j' : Nat} (h : x.reg.at i j ≠ y.reg.at i' j') :
    (s.setF x v i j).f y i' j' = s.f y i' j' := by
  simp [State.setF, f_setR_ne s _ h]

theorem r_setF_ne {x : Field} {y : Reg} (v : Nat) {i j i' j' : Nat} (h : x.reg.at i j ≠ y.at i' j') :
    (s.setF x v i j).r y i' j' = s.r y i' j' := by
  simp [State.setF, r_setR_ne s _ h]

/-- The states of two record updates that agree on registers read the same. -/
theorem reg_congr {s t : State} (h : s.regs = t.regs) (off : Nat) : s.reg off = t.reg off := by simp [State.reg, h]

theorem r_congr {s t : State} (h : s.regs = t.regs) (x : Reg) (i j : Nat) : s.r x i j = t.r x i j := by simp [State.r, State.reg, h]

theorem f_congr {s t : State} (h : s.regs = t.regs) (x : Field) (i j : Nat) : s.f x i j = t.f x i j := by
  simp [State.f, State.r, State.reg, h]

end Sys2Proof.Laws
end

