-- ==== Sys2Proof/Laws/Memory.lean ====
section
/-! SUPPORT. The byte memory of the Terrace and the Basin: its canonical form, kept by every operation, and what a byte reads after a
store. -/

namespace Sys2Proof.Laws

open Sys2Proof.Machine

/-! ## Sorted maps -/

section Sorted

variable {α : Type}

/-- Every key of a map lies above `k`. -/
def Above (k : Nat) (m : SMap α) : Prop := ∀ x ∈ m, k < x.1

theorem msorted_cons (k : Nat) (v : α) (m : SMap α) : msorted ((k, v) :: m) = true ↔ Above k m ∧ msorted m = true := by
  induction m generalizing k v with
  | nil => simp [msorted, Above]
  | cons p t ih =>
    obtain ⟨a, w⟩ := p
    simp only [msorted, Bool.and_eq_true, decide_eq_true_eq, Above, List.mem_cons, forall_eq_or_imp]
    constructor
    · rintro ⟨h1, h2⟩
      exact ⟨⟨h1, fun x hx => Nat.lt_trans h1 (((ih a w).1 h2).1 x hx)⟩, h2⟩
    · rintro ⟨⟨h1, _⟩, h2⟩
      exact ⟨h1, h2⟩

theorem mget_above {k : Nat} {m : SMap α} (h : Above k m) : mget m k = none := by
  induction m with
  | nil => rfl
  | cons p t ih =>
    obtain ⟨a, w⟩ := p
    have ha : k < a := h (a, w) (by simp)
    rw [mget, if_neg (by omega)]
    exact ih (fun x hx => h x (by simp [hx]))

theorem above_mset {k l : Nat} {m : SMap α} (v : α) (h : Above k m) (hl : k < l) : Above k (mset m l v) := by
  induction m with
  | nil => intro x hx; simp only [mset, List.mem_singleton] at hx; subst hx; exact hl
  | cons p t ih =>
    obtain ⟨a, w⟩ := p
    have ha : k < a := h (a, w) (by simp)
    have ht : Above k t := fun x hx => h x (by simp [hx])
    unfold mset
    split
    · intro x hx
      rcases List.mem_cons.1 hx with rfl | hx
      · exact hl
      · exact ht x hx
    · split
      · intro x hx
        rcases List.mem_cons.1 hx with rfl | hx
        · exact hl
        · exact h x hx
      · intro x hx
        rcases List.mem_cons.1 hx with rfl | hx
        · exact ha
        · exact ih ht x hx

theorem msorted_mset {m : SMap α} (k : Nat) (v : α) (h : msorted m = true) : msorted (mset m k v) = true := by
  induction m with
  | nil => rfl
  | cons p t ih =>
    obtain ⟨a, w⟩ := p
    obtain ⟨h1, h2⟩ := (msorted_cons a w t).1 h
    unfold mset
    split
    · next e => subst e; exact (msorted_cons a v t).2 ⟨h1, h2⟩
    · split
      · next e =>
        refine (msorted_cons k v _).2 ⟨?_, h⟩
        intro x hx
        rcases List.mem_cons.1 hx with rfl | hx
        · exact e
        · exact Nat.lt_trans e (h1 x hx)
      · next e1 e2 => exact (msorted_cons a w _).2 ⟨above_mset v h1 (by omega), ih h2⟩

theorem mem_mset {m : SMap α} {k : Nat} {v : α} {x : Nat × α} (h : x ∈ mset m k v) : x = (k, v) ∨ x ∈ m := by
  induction m with
  | nil => simp only [mset, List.mem_singleton] at h; exact .inl h
  | cons p t ih =>
    obtain ⟨a, w⟩ := p
    unfold mset at h
    split at h
    · rcases List.mem_cons.1 h with h | h
      · exact .inl h
      · exact .inr (by simp [h])
    · split at h
      · rcases List.mem_cons.1 h with h | h
        · exact .inl h
        · exact .inr h
      · rcases List.mem_cons.1 h with h | h
        · exact .inr (by simp [h])
        · rcases ih h with h | h
          · exact .inl h
          · exact .inr (by simp [h])

theorem merase_sub {m : SMap α} {k : Nat} {x : Nat × α} (h : x ∈ merase m k) : x ∈ m := by
  induction m with
  | nil => simp [merase] at h
  | cons p t ih =>
    obtain ⟨a, w⟩ := p
    unfold merase at h
    split at h
    · simp [h]
    · rcases List.mem_cons.1 h with h | h
      · simp [h]
      · simp [ih h]

theorem msorted_merase {m : SMap α} (k : Nat) (h : msorted m = true) : msorted (merase m k) = true := by
  induction m with
  | nil => rfl
  | cons p t ih =>
    obtain ⟨a, w⟩ := p
    obtain ⟨h1, h2⟩ := (msorted_cons a w t).1 h
    unfold merase
    split
    · exact h2
    · exact (msorted_cons a w _).2 ⟨fun x hx => h1 x (merase_sub hx), ih h2⟩

theorem mget_merase_self {m : SMap α} (k : Nat) (h : msorted m = true) : mget (merase m k) k = none := by
  induction m with
  | nil => rfl
  | cons p t ih =>
    obtain ⟨a, w⟩ := p
    obtain ⟨h1, h2⟩ := (msorted_cons a w t).1 h
    unfold merase
    split
    · next e => subst e; exact mget_above h1
    · next e => rw [mget, if_neg e]; exact ih h2

theorem mget_merase_ne (m : SMap α) {k l : Nat} (h : k ≠ l) : mget (merase m k) l = mget m l := by
  induction m with
  | nil => rfl
  | cons p t ih =>
    obtain ⟨a, w⟩ := p
    by_cases e : a = k
    · subst e; rw [merase, if_pos rfl, mget, if_neg h]
    · rw [merase, if_neg e, mget, mget, ih]

theorem msorted_filter {m : SMap α} (p : Nat × α → Bool) (h : msorted m = true) : msorted (m.filter p) = true := by
  induction m with
  | nil => rfl
  | cons q t ih =>
    obtain ⟨a, w⟩ := q
    obtain ⟨h1, h2⟩ := (msorted_cons a w t).1 h
    rw [List.filter_cons]
    split
    · exact (msorted_cons a w _).2 ⟨fun x hx => h1 x (List.mem_filter.1 hx).1, ih h2⟩
    · exact ih h2

end Sorted

/-! ## The canonical form -/

theorem memWf_iff (m : SMap Byte) : memWf m = true ↔ msorted m = true ∧ ∀ x ∈ m, x.2 ≠ memDefault := by
  simp [memWf, List.all_eq_true]

theorem memWf_memSet {m : SMap Byte} (a : Nat) (b : Byte) (h : memWf m = true) : memWf (memSet m a b) = true := by
  rw [memWf_iff] at h ⊢
  unfold memSet
  split
  · exact ⟨msorted_merase a h.1, fun x hx => h.2 x (merase_sub hx)⟩
  · next hb =>
    refine ⟨msorted_mset a b h.1, fun x hx => ?_⟩
    rcases mem_mset hx with rfl | hx
    · exact hb
    · exact h.2 x hx

theorem memWf_memWrite {m : SMap Byte} (a : Nat) (bs : List Byte) (h : memWf m = true) : memWf (memWrite m a bs) = true := by
  induction bs generalizing m a with
  | nil => exact h
  | cons b t ih => exact ih (a + 1) (memWf_memSet a b h)

theorem memWf_filter {m : SMap Byte} (p : Nat × Byte → Bool) (h : memWf m = true) : memWf (m.filter p) = true := by
  rw [memWf_iff] at h ⊢
  exact ⟨msorted_filter p h.1, fun x hx => h.2 x (List.mem_filter.1 hx).1⟩

theorem memWf_store {s : State} (a : Nat) (bs : List Byte) (mark : Bool) (h : memWf s.memory.mem = true) :
    memWf (s.store a bs mark).memory.mem = true := by
  unfold State.store
  split
  · exact h
  · exact memWf_memWrite a bs h

theorem memWf_zero {s : State} (a n : Nat) (h : memWf s.memory.mem = true) : memWf (s.zero a n).memory.mem = true :=
  memWf_filter _ h

/-! ## Reading a byte after a store -/

theorem memGet_memSet_self {m : SMap Byte} (a : Nat) (b : Byte) (h : msorted m = true) : memGet (memSet m a b) a = b := by
  unfold memSet memGet
  split
  · next e => simp [mgetD, mget_merase_self a h, e]
  · simp

theorem memGet_memSet_ne (m : SMap Byte) {a c : Nat} (b : Byte) (h : a ≠ c) : memGet (memSet m a b) c = memGet m c := by
  unfold memSet memGet mgetD
  split
  · rw [mget_merase_ne m h]
  · rw [mget_mset_ne m b h]

theorem msorted_memSet {m : SMap Byte} (a : Nat) (b : Byte) (h : msorted m = true) : msorted (memSet m a b) = true := by
  unfold memSet
  split
  · exact msorted_merase a h
  · exact msorted_mset a b h

/-- A byte outside a run of bytes written keeps its value. -/
theorem memGet_memWrite_out (m : SMap Byte) (a : Nat) (bs : List Byte) (c : Nat) (h : c < a ∨ a + bs.length ≤ c) :
    memGet (memWrite m a bs) c = memGet m c := by
  induction bs generalizing m a with
  | nil => rfl
  | cons b t ih =>
    simp only [List.length_cons] at h
    rw [memWrite, ih _ (a + 1) (by omega), memGet_memSet_ne m b (by omega)]

/-- A byte of a run of bytes written reads as written. -/
theorem memGet_memWrite_in {m : SMap Byte} (a : Nat) (bs : List Byte) (i : Nat) (hs : msorted m = true) (h : i < bs.length) :
    memGet (memWrite m a bs) (a + i) = bs[i] := by
  induction bs generalizing m a i with
  | nil => simp at h
  | cons b t ih =>
    cases i with
    | zero =>
      rw [memWrite, memGet_memWrite_out _ _ _ _ (by omega)]
      exact memGet_memSet_self a b hs
    | succ k =>
      have := ih (m := memSet m a b) (a + 1) k (msorted_memSet a b hs) (by simpa using h)
      rw [memWrite, show a + (k + 1) = a + 1 + k by omega]
      simpa using this

end Sys2Proof.Laws
end

