-- ==== Sys2Proof/Laws/Queue.lean ====
section
/-! SUPPORT. What the queue engine does with a head record that starts, and what a request does that is admitted: each said once. -/

namespace Sys2Proof.Laws

open Sys2Proof.Machine

/-! ## Records -/

theorem startHead_runs {c : CmdSpec} {s : State} {q : Nat} {r : Rec} (hf : s.headHeld c q r = false) (ho : c.owns s q r = true) :
    s.startHead c q r = c.run (s.takeHead q c.engine r) q (s.headSeq q) r := by
  obtain ⟨hc, hs⟩ := Bool.or_eq_false_iff.1 hf
  simp [State.startHead, hc, hs, ho]

theorem opWait_runs {c : CmdSpec} {s : State} {q : Nat} {r : Rec}
    (hw : r.opcode = 0x03 → s.waitMet (bitsOf r.w3 0 16) r.w4.toNat = true ∧ s.fenceErr (bitsOf r.w3 0 16) = false)
    (hf : s.headHeld c q r = false) (ho : c.owns s q r = true) :
    s.opWait c q r = c.run (s.takeHead q c.engine r) q (s.headSeq q) r := by
  unfold State.opWait
  split
  · next h => simp [hw h, startHead_runs hf ho]
  · exact startHead_runs hf ho

/-- A record that starts runs as its opcode says, from the state in which it has left the ring. -/
theorem queueCommand_runsFrom {c : CmdSpec} {s t : State} {q : Nat} {r : Rec} (kind : Rec → Bool) (h : StartsFrom c s t q r)
    (hk : kind r = true) : s.queueCommand c kind q = c.run (t.takeHead q c.engine r) q (t.headSeq q) r := by
  have ho := opWait_runs h.second h.free h.owns
  have hw : t.firstWait c q r = c.run (t.takeHead q c.engine r) q (t.headSeq q) r := by
    unfold State.firstWait
    split
    · next e => simp [h.waits e, ho]
    · exact ho
  have ht : (!c.takesTx && r.tx != 0) = false := by
    rcases h.tx with e | e <;> simp [e]
  simp [State.queueCommand, h.head, h.opened, hk, State.headStep, h.fresh, h.clean, h.present, h.reserved, ht, h.encoding, h.early,
    h.fences, hw]

theorem queueCommand_runs {c : CmdSpec} {s : State} {q : Nat} {r : Rec} (kind : Rec → Bool) (h : Starts c s q r)
    (hk : kind r = true) : s.queueCommand c kind q = c.run (s.takeHead q c.engine r) q (s.headSeq q) r := queueCommand_runsFrom kind h hk

/-- The record that has left the ring is in flight. -/
theorem takeHead_queue (s : State) (q e : Nat) (r : Rec) :
    (s.takeHead q e r).queue q = { s.queue q with
      head := .fresh, flights := (s.queue q).flights ++
        [{ seq := s.headSeq q, cmd := r, start := s.now, entry := 0, bytes := 0, phase := 0, fail := none, degraded := false }] } := by
  unfold State.takeHead
  split <;> simp [State.queue, State.setQueue, State.advanceHead, State.setF, State.setR, State.setReg, State.now]

/-- Taking the head record out of the ring changes one register, `QE_Q_HEAD`. -/
theorem takeHead_reg (s : State) (q e : Nat) (r : Rec) {off : Nat} (h : R.QE_Q_HEAD.at q ≠ off) :
    (s.takeHead q e r).reg off = s.reg off := by
  unfold State.takeHead
  have h' : F.QE_Q_HEAD_HEAD_SEQ.reg.at q ≠ off := h
  split <;> simp [State.reg, State.setQueue, State.advanceHead, State.setF, State.setR, State.setReg, mget_mset_ne _ _ h']

/-- A completed flight leaves the queue. -/
theorem finishFlight_eq {s : State} {q seq : Nat} {x : Flight} (h : s.flight q seq = some x) (st : Status) (res d : W64) :
    s.finishFlight q seq st res d =
      (s.setQueue q { s.queue q with flights := (s.queue q).flights.filter (fun y => y.seq != seq) }).finish q seq x.cmd
        (if st = .ok ∧ x.degraded then .degraded else st) res d := by
  simp [State.finishFlight, h]

/-! ## Requests -/

/-- An admitted request does what its opcode does and is answered in its session. -/
theorem request_admitted {s : State} {h : MgmtHdr} {op : Nat} {need : Option Nat} {payload : List Byte} {u : State} {r : Nat} {y : Session}
    (f : State → Option Nat → State × Answer) (a : Admitted s h op need payload u r y) :
    s.request h op need payload f = (f u (some r)).1.answerInside h y op (f u (some r)).2 := by
  obtain ⟨v, hv, hg⟩ := a.checks
  have hb : (s.f F.SEC_BOOT_STAT_MODE == 2 && !recoveryOpcode op) = false := by
    rcases a.mode with e | e <;> simp [e]
  have hr : ¬ need.getD 2 < r := Nat.not_lt.2 a.mayR
  have hn : ¬ h.session = 0 := a.named
  unfold State.request
  simp only [a.opened, hv, if_neg hn, hg, hb, hr, Bool.not_true, Bool.false_or, decide_false, Bool.false_eq_true, if_false]

end Sys2Proof.Laws
end

