-- ==== Sys2Proof/Laws/Frames.lean ====
section
/-! SUPPORT. How the frames of `Safety` follow from the updates that make up a step. -/

namespace Sys2Proof.Laws

open Sys2Proof.Machine

theorem sameRegs_refl (s : State) (offs : List Nat) : SameRegsBut s s offs := fun _ _ => rfl

theorem sameRegs_trans {s t u : State} {offs : List Nat} (h : SameRegsBut s t offs) (k : SameRegsBut t u offs) : SameRegsBut s u offs :=
  fun off ho => (k off ho).trans (h off ho)

/-- Two states with the same registers. -/
theorem sameRegs_of_regs {s t : State} (h : t.regs = s.regs) (offs : List Nat) : SameRegsBut s t offs :=
  fun off _ => reg_congr h off

/-- A later state with the same registers. -/
theorem sameRegs_congr {s t u : State} {offs : List Nat} (h : SameRegsBut s t offs) (e : u.regs = t.regs) : SameRegsBut s u offs :=
  fun off ho => (reg_congr e off).trans (h off ho)

theorem sameRegs_setReg {s t : State} {offs : List Nat} (h : SameRegsBut s t offs) {off : Nat} (v : W64) (m : off ∈ offs) :
    SameRegsBut s (t.setReg off v) offs := by
  intro o ho
  have hne : off ≠ o := fun e => ho (e ▸ m)
  rw [reg_setReg_ne t v hne]
  exact h o ho

theorem sameRegs_setR {s t : State} {offs : List Nat} (h : SameRegsBut s t offs) (x : Reg) (v : W64) (i j : Nat) (m : x.at i j ∈ offs) :
    SameRegsBut s (t.setR x v i j) offs := sameRegs_setReg h v m

theorem sameRegs_setF {s t : State} {offs : List Nat} (h : SameRegsBut s t offs) (x : Field) (v i j : Nat) (m : x.reg.at i j ∈ offs) :
    SameRegsBut s (t.setF x v i j) offs := sameRegs_setR h _ _ _ _ m

theorem sameRegs_count {s t : State} {offs : List Nat} (h : SameRegsBut s t offs) (x : Field) (i j n : Nat) (m : x.reg.at i j ∈ offs) :
    SameRegsBut s (t.count x i j n) offs := sameRegs_setF h _ _ _ _ m

theorem sameRegs_countWrap {s t : State} {offs : List Nat} (h : SameRegsBut s t offs) (x : Field) (i j n : Nat)
    (m : x.reg.at i j ∈ offs) : SameRegsBut s (t.countWrap x i j n) offs := sameRegs_setF h _ _ _ _ m

/-- A store of unmarked bytes outside the Plain changes no byte outside it. -/
theorem byte_store_out (s : State) (a : Nat) (bs : List Byte) (mark : Bool) (c : Nat) (h : c < a ∨ a + bs.length ≤ c)
    (hp : regionOf a ≠ .plain) : (s.store a bs mark).byte c = s.byte c := by
  unfold State.store State.byte
  rw [if_neg hp]
  split
  · rfl
  · exact memGet_memWrite_out _ _ _ _ h

end Sys2Proof.Laws
end

