-- ==== Sys2Proof/Laws/Flags.lean ====
section
/-! SUPPORT. What signals, completions and faults do to the registers: each shared operation said once. -/

namespace Sys2Proof.Laws

open Sys2Proof.Machine

/-! ## What leaves the device -/

theorem count_reg_ne (s : State) (x : Field) (i j n : Nat) {off : Nat} (h : x.reg.at i j ≠ off) : (s.count x i j n).reg off = s.reg off :=
  reg_setReg_ne s _ h

theorem setF_reg_ne (s : State) (x : Field) (v i j : Nat) {off : Nat} (h : x.reg.at i j ≠ off) : (s.setF x v i j).reg off = s.reg off :=
  reg_setReg_ne s _ h

theorem setR_reg_ne (s : State) (x : Reg) (v : W64) (i j : Nat) {off : Nat} (h : x.at i j ≠ off) : (s.setR x v i j).reg off = s.reg off :=
  reg_setReg_ne s _ h

/-- A write to a host changes one register at most, `GLB_PORT_STAT` of the port. -/
theorem hostWrite_reg (s : State) (p a : Nat) (bs : List Byte) {off : Nat} (h : R.GLB_PORT_STAT.at p ≠ off) :
    (s.hostWrite p a bs).reg off = s.reg off := by
  unfold State.hostWrite
  split
  · exact count_reg_ne s _ _ _ _ h
  · split
    · rfl
    · exact count_reg_ne s _ _ _ _ h

/-- A vector changes one register at most, `GLB_PORT_STAT` of the port. -/
theorem raise_reg (s : State) (p v : Nat) {off : Nat} (h : R.GLB_PORT_STAT.at p ≠ off) : (s.raise p v).reg off = s.reg off := by
  unfold State.raise
  split
  · exact count_reg_ne s _ _ _ _ h
  · split
    · unfold State.setPort; split <;> rfl
    · rfl

theorem store_reg (s : State) (a : Nat) (bs : List Byte) (mark : Bool) (off : Nat) : (s.store a bs mark).reg off = s.reg off := by
  unfold State.store; dsimp only; split <;> rfl

theorem cqWrite_reg (s : State) (q o : Nat) (bs : List Byte) {off : Nat} (h : ∀ p, p < 2 → R.GLB_PORT_STAT.at p ≠ off) :
    (s.cqWrite q o bs).reg off = s.reg off := by
  unfold State.cqWrite; dsimp only
  split
  · next hp => exact hostWrite_reg _ _ _ _ (h _ hp)
  · exact store_reg _ _ _ _ _

theorem queueRaise_reg (s : State) (q : Nat) {off : Nat} (h : ∀ p, p < 2 → R.GLB_PORT_STAT.at p ≠ off) :
    (s.queueRaise q).reg off = s.reg off := by
  unfold State.queueRaise; dsimp only
  split
  · next hp => exact raise_reg _ _ _ (h _ hp)
  · rfl

theorem moderate_reg (s : State) (q : Nat) (now : Bool) {off : Nat} (h : ∀ p, p < 2 → R.GLB_PORT_STAT.at p ≠ off) :
    (s.moderate q now).reg off = s.reg off := by
  unfold State.moderate; dsimp only
  repeat' split
  all_goals first | rfl | exact queueRaise_reg _ _ h

/-- A completion record changes registers in `GLB_PORT_STAT` alone. -/
theorem writeCompletion_reg (s : State) (q seq op : Nat) (st : Status) (res d : W64) (now : Bool) {off : Nat}
    (h : ∀ p, p < 2 → R.GLB_PORT_STAT.at p ≠ off) : (s.writeCompletion q seq op st res d now).reg off = s.reg off := by
  unfold State.writeCompletion; dsimp only
  rw [moderate_reg _ _ _ h]
  exact (cqWrite_reg _ _ _ _ h).trans (cqWrite_reg _ _ _ _ h)

/-! ## Signals (R54, R55) -/

/-- A signal changes one register at most, its fence. -/
theorem signal_reg (s : State) (n f v : Nat) (add err clear : Bool) {off : Nat} (h : R.QE_FENCE.at f ≠ off) :
    (s.signal n f v add err clear).reg off = s.reg off := by
  unfold State.signal; split
  · exact setR_reg_ne _ _ _ _ _ h
  · rfl

theorem recordSignal_reg (s : State) (q : Nat) (r : Rec) (st : Status) {off : Nat} (h : r.signal = true → R.QE_FENCE.at r.signalFence ≠ off) :
    (s.recordSignal q r st).reg off = s.reg off := by
  unfold State.recordSignal; split
  · next e => exact signal_reg _ _ _ _ _ _ _ (h e)
  · rfl

/-- A completion changes the fence that the record signals and `GLB_PORT_STAT`, and no other register. -/
theorem finish_reg (s : State) (q seq : Nat) (r : Rec) (st : Status) (res d : W64) {off : Nat}
    (hs : r.signal = true → R.QE_FENCE.at r.signalFence ≠ off) (h : ∀ p, p < 4 → R.GLB_PORT_STAT.at p ≠ off) :
    (s.finish q seq r st res d).reg off = s.reg off := by
  unfold State.finish; dsimp only
  split
  · exact recordSignal_reg _ _ _ _ hs
  · split
    · rw [count_reg_ne _ _ _ _ _ (h _ (bitsOf_lt _ _ _))]
      exact recordSignal_reg _ _ _ _ hs
    · rw [writeCompletion_reg _ _ _ _ _ _ _ _ (fun p hp => h p (by omega))]
      exact recordSignal_reg _ _ _ _ hs

/-- The end of a record in flight changes the fence that it signals and `GLB_PORT_STAT`, and no other register. -/
theorem finishFlight_reg (s : State) (q seq : Nat) (st : Status) (res d : W64) {off : Nat}
    (hs : ∀ x, s.flight q seq = some x → x.cmd.signal = true → R.QE_FENCE.at x.cmd.signalFence ≠ off)
    (h : ∀ p, p < 4 → R.GLB_PORT_STAT.at p ≠ off) : (s.finishFlight q seq st res d).reg off = s.reg off := by
  unfold State.finishFlight
  split
  · rfl
  · next x hx =>
    dsimp only
    rw [finish_reg _ _ _ _ _ _ _ (hs x hx) h]
    rfl

end Sys2Proof.Laws
end

