-- ==== Sys2Proof/Laws/Remote.lean ====
section
/-! SUPPORT. What a message that arrives does, what a response that is awaited does, and when a generator's instruction issues: each said
once. -/

namespace Sys2Proof.Laws

open Sys2Proof.Machine

/-- A message that arrives is handled here. -/
theorem receive_arrives {s : State} {m : Msg} {op : Nat} (h : Arrives s m op) (f : State → State) : s.receive m op f = f s := by
  have hl : ¬ (s.linkState m.link.val ≠ 6 ∧ s.linkState m.link.val ≠ 7) := fun ⟨a, b⟩ => h.up.elim a b
  have hc : ¬ (vcOf op ≠ some m.vc ∨ 18 ≤ m.link.val) := fun x => x.elim (fun a => a h.channel) (Nat.not_le.2 h.altur)
  have hf : (!s.inFence m.src.toNat || !s.inFence m.dst.toNat) = false := by simp [h.source, h.fenced]
  rw [State.receive, if_neg hl, if_neg hc, hf, if_pos h.here]
  rfl

/-- A response that is awaited: it is taken by its status. -/
theorem answer_awaited {s : State} {m : Msg} {ops : List Nat} {x : Request} (h : Awaited s m ops x) (f : State → Request → Bool → State) :
    s.answer m ops f =
      if m.arg0.toNat % 8 ≤ 1 then f (s.dropRequest x.xid) x (m.arg0.toNat % 8 == 1 || m.poison)
      else if m.arg0.toNat % 8 = 5 then s.mapRequest x.xid (fun y => { y with busyAt := some s.now })
      else s.failRequest x (refusalStatus (m.arg0.toNat % 8)) := by
  simp [State.answer, h.found, h.type, h.open_, h.from_]

/-- A generator whose present instruction has the operation carries it out. -/
theorem agIssue_ready {s : State} {o : AgOp} (h : AgReady s o) {op : Nat} (ho : bitsOf o.w 0 4 = op) (f : State → AgOp → State) :
    s.agIssue o.n o.a op f = f s o := by
  have h4 := h.used
  have h5 := h.going
  have hp := h.prog
  have hw := h.word
  unfold State.ag at h5 hw
  have hl : o.ws.isEmpty = false := by
    cases e : o.ws with
    | nil => exact absurd e h.loaded
    | cons => rfl
  simp only [State.agIssue, h.step, ← hp, ← hw, hl, h4, h5, ho]
  simp

end Sys2Proof.Laws
end

