-- ==== Sys2Proof/WellFormed.lean ====
section
/-! DEFINITION. Well-formed commands: the operands that the types of Syntax.lean leave open hold what their carrier can hold. The meanings
are total and take any command; an ill-formed one can reach the device only by a fault of its sender. -/

namespace Sys2Proof

/-- A message of R442: `LEN` counts its data and is at most 8,192, `VC` has three bits and `ADDR` 51. -/
def Msg.wf (m : Msg) : Bool :=
  m.len == m.data.length && decide (m.len ≤ 8192) && decide (m.vc < 8) && decide (m.addr < 2 ^ 51)

/-- A Plain response: `ARG0` gives two bits of status, and the data is at most 8,192 bytes (R442, R446). -/
def PlainRsp.wf (m : PlainRsp) : Bool := decide (m.status < 4) && decide (m.data.length ≤ 8192)

/-- A flit of R432 has 256 bytes. -/
def Flit.wf (f : Flit) : Bool := f.bytes.length == 256

/-- The identity of a peer (R430, R452): a link number of five bits. -/
def IdentInfo.wf (i : IdentInfo) : Bool := decide (i.link < 32)

/-- A calibration record of one of the six kinds of R546. -/
def CalRecord.wf (x : CalRecord) : Bool := decide (x.kind < 6)

/-- A setup message of a ring with at most 1,024 members (R325, R342). -/
def RingSetupMsg.wf (m : RingSetupMsg) : Bool := decide (m.members ≤ 1024) && decide (m.index < m.members)

/-- A segment of a block: one message of its segments (R327, R444). -/
def RingBlockMsg.wf (m : RingBlockMsg) : Bool := decide (m.segIndex < m.segCount) && decide (m.data.length ≤ 4096)

/-- The header of a routed message (R366): a batch of 20 bits and at most 64 members. -/
def RouteHdr.wf (h : RouteHdr) : Bool := decide (h.batch < 2 ^ 20) && decide (h.members ≤ 64)

/-- A row of a dispatch or a return, in one of its segments (R363, R364). -/
def RouteRowMsg.wf (m : RouteRowMsg) : Bool :=
  (m.phase == 1 || m.phase == 2) && m.hdr.wf && decide (m.segIndex < m.segCount) && decide (m.data.length ≤ 4096)

/-- A step of a collective: one of six operations, and at most 4,096 bytes (R442, R475). -/
def CollStepMsg.wf (m : CollStepMsg) : Bool := decide (m.oper < 6) && decide (m.data.length ≤ 4096)

/-- The header of a management message: a `MAC` of 32 bytes (R506). -/
def MgmtHdr.wf (h : MgmtHdr) : Bool := h.mac.length == 32

/-- The length of a core instruction: 2 or 4 bytes. -/
def lenOk (n : Nat) : Bool := n == 2 || n == 4

/-- An action of a core: an instruction of 2 or 4 bytes, a vector result of one register of 512 bits (R283). -/
def CoreAct.wf : CoreAct → Bool
  | .intOp n _ _ _ => lenOk n
  | .floatOp n _ _ _ => lenOk n
  | .vectorOp n _ bs _ => lenOk n && bs.length == 64
  | .vectorConfig n _ _ _ => lenOk n
  | .jump n _ _ => lenOk n
  | .load n _ _ _ _ _ => lenOk n
  | .loadFloat n _ _ _ _ => lenOk n
  | .store n _ _ _ _ => lenOk n
  | .storeFloat n _ _ _ _ => lenOk n
  | .vectorLoad n _ _ => lenOk n
  | .vectorStore n _ _ => lenOk n
  | .amo _ _ _ _ _ => true
  | .lr _ _ _ => true
  | .sc _ _ _ _ => true
  | .csr _ _ _ _ => true
  | .fence => true
  | .fenceI => true
  | .fail => true

/-- Whether a command is well formed: the checks of its operands. -/
def Instr.wf : Instr → Bool
  | .powerGood _ _ => true
  | .deviceReady cal => cal.all CalRecord.wf
  | .pwrfail => true
  | .railUndervoltage _ => true
  | .thermtrip => true
  | .governorPeriod _ => true
  | .currentLimit _ _ => true
  | .currentCeilingExpiry _ => true
  | .rateWindow _ _ => true
  | .marginEvent _ _ => true
  | .timebaseLock _ _ _ => true
  | .timerefLoss _ => true
  | .sourcePresent _ => true
  | .sourceRetake _ => true
  | .comparatorFire _ => true
  | .windowWrite _ _ _ bytes => bytes != []
  | .seal _ _ _ _ => true
  | .nop _ => true
  | .fenceSignal _ => true
  | .fenceWait _ => true
  | .waitSatisfied _ => true
  | .waitTimeout _ => true
  | .irqDelayExpiry _ => true
  | .txBegin _ => true
  | .txCommit _ => true
  | .orderingPoint _ _ => true
  | .commitTimeout _ => true
  | .txAbort _ => true
  | .set _ => true
  | .get _ => true
  | .castStage _ => true
  | .castStageComplete _ => true
  | .castSwitch _ => true
  | .castSwap _ => true
  | .castRun _ => true
  | .castEvict _ => true
  | .daleZeroingComplete _ => true
  | .move _ => true
  | .fill _ => true
  | .map _ => true
  | .unmap _ => true
  | .coreRun _ => true
  | .coreRunTimeout _ _ => true
  | .reqAdmit _ => true
  | .reqCancel _ => true
  | .serveStart _ => true
  | .reqQuery _ => true
  | .ringRun _ => true
  | .plan _ => true
  | .dispatch _ => true
  | .routeReturn _ => true
  | .routeLimit _ => true
  | .sorterGrant _ => true
  | .allReduce _ => true
  | .reduceScatter _ => true
  | .allGather _ => true
  | .broadcast _ => true
  | .allToAll _ => true
  | .barrier _ => true
  | .orderTimeout _ => true
  | .lagLimit _ _ => true
  | .slotFiring _ _ => true
  | .tokenDelivery _ _ _ => true
  | .creditReturn _ _ => true
  | .steer _ _ _ _ => true
  | .join _ _ _ _ => true
  | .taskSwitch _ => true
  | .castStepEnd _ => true
  | .stallLimit _ => true
  | .stepLimit _ => true
  | .cuEnd _ => true
  | .cuNext _ => true
  | .cuJmp _ => true
  | .cuBfirst _ => true
  | .cuSetl _ => true
  | .cuLoop _ => true
  | .cuMm _ => true
  | .mmComplete _ => true
  | .cuLdb _ => true
  | .cuLds _ => true
  | .cuStb _ => true
  | .cuSts _ => true
  | .cuDrain _ => true
  | .cuBload _ => true
  | .cuAdd _ => true
  | .cuMul _ => true
  | .cuFma _ => true
  | .cuExp2 _ => true
  | .cuRcp _ => true
  | .cuRsqrt _ => true
  | .cuMax _ => true
  | .cuCmp _ => true
  | .cuSel _ => true
  | .cuCvt _ => true
  | .cuRed _ => true
  | .cuRowsum _ => true
  | .cuMov _ => true
  | .cuMovi _ => true
  | .cuSend _ => true
  | .affRead _ _ => true
  | .affWrite _ _ => true
  | .affAdd _ _ => true
  | .listFetch _ _ => true
  | .listStore _ _ => true
  | .muSync _ _ => true
  | .agEnd _ _ => true
  | .patrolScrub _ line _ => decide (line < 16384)
  | .heatEpoch => true
  | .migrationPromote _ _ => true
  | .migrationDemote _ _ => true
  | .migrationSwitch _ _ => true
  | .fzFread _ _ _ => true
  | .fzFwait _ _ _ _ => true
  | .fzFwaitReturn _ => true
  | .fzFsig _ _ _ => true
  | .fzFadd _ _ _ => true
  | .fzSeal _ _ _ _ => true
  | .fzXlate _ _ _ => true
  | .fzExit _ _ => true
  | .fzPack _ _ _ _ => true
  | .fzUnpack _ _ _ _ => true
  | .coreInstruction _ act => act.wf
  | .coreTrap _ _ => true
  | .batchFormation _ => true
  | .draftPass _ => true
  | .samplerPass _ => true
  | .commitPoint _ => true
  | .feedRecord _ => true
  | .rangeRelease _ => true
  | .stepWord _ _ => true
  | .ringFeed _ => true
  | .ringStall _ => true
  | .ringSetup _ m => m.wf
  | .ringBlock _ m => m.wf
  | .ringGrant _ _ => true
  | .ringAck _ _ => true
  | .ringAbort _ _ _ _ _ => true
  | .routeRow _ m => m.wf
  | .routeEnd _ _ phase hdr _ => (phase == 1 || phase == 2) && hdr.wf
  | .collStep m => m.wf
  | .collCredit _ _ _ _ => true
  | .read m => m.wf
  | .readData m => m.wf
  | .write m => m.wf
  | .writeAck m => m.wf
  | .atomic m => m.wf
  | .atomicData m => m.wf
  | .tilePut m => m.wf
  | .tileAck m => m.wf
  | .ringPutResend _ => true
  | .rmTimeout _ => true
  | .faultNotice m => m.wf
  | .goingDown m => m.wf
  | .unreachable m => m.wf
  | .pData m => m.wf
  | .pWack m => m.wf
  | .plainTimeout _ _ => true
  | .flit _ f => f.wf
  | .lightDetected _ => true
  | .lightLoss _ => true
  | .tuningLoop _ settings => settings.length == 16
  | .ringLockLost _ _ => true
  | .ringsLocked _ => true
  | .patternDetected _ => true
  | .codewordLock _ => true
  | .ident _ info => info.wf
  | .identRetry _ info => info.wf
  | .credit _ credits _ => credits.length == 6
  | .trainingTimeout _ => true
  | .drainComplete _ => true
  | .recalComplete _ => true
  | .portLost _ => true
  | .laserLow _ _ _ => true
  | .calValidityCheck => true
  | .recalibration kind _ _ rec => decide (kind < 6) && rec.wf
  | .columnRetirement _ => true
  | .saddleSpare _ _ => true
  | .hbmChannelRemap _ => true
  | .warmRestart => true
  | .fwCoreReady _ => true
  | .fwCoreTimeout _ => true
  | .perstN _ => true
  | .functionLevelReset _ => true
  | .surpriseDown _ => true
  | .d3hotEntry _ => true
  | .portReturn _ _ _ => true
  | .busMasterDisable _ => true
  | .apertureAccess _ _ _ bytes => bytes != []
  | .msixUnmask _ _ => true
  | .registerWrite _ _ size _ => size != 0
  | .glbTimeLowRead _ => true
  | .glbMarginRead _ => true
  | .fabSaddleStatRead _ => true
  | .altLinkFecRead _ _ => true
  | .wsuSortStatRead _ => true
  | .fltLogRead _ _ _ => true
  | .glbHwinSizeRead _ _ _ => true
  | .glbHwinWrite _ _ _ _ _ => true
  | .glbApertureWrite _ _ _ => true
  | .glbCmpCtrlWrite _ _ _ => true
  | .qeQCqWrite _ _ _ => true
  | .qeQCqHeadWrite _ _ _ => true
  | .srvOutHeadWrite _ _ _ => true
  | .fltNanInfoWrite _ _ _ => true
  | .trCcacheUnpin _ => true
  | .srvKvPush _ _ _ => true
  | .kvListDrain _ _ _ => true
  | .stop _ _ => true
  | .promote _ _ => true
  | .promoteNow _ => true
  | .recal _ _ => true
  | .fullSearch _ _ => true
  | .entdaa _ => true
  | .setEndpointId _ _ => true
  | .getEndpointId _ => true
  | .getMctpVersionSupport _ => true
  | .getMessageTypeSupport _ => true
  | .getVendorDefinedMessageSupport _ => true
  | .getInfo h _ payload => h.wf && decide (payload.length ≤ 972)
  | .sessionOpen h payload => h.wf && decide (payload.length ≤ 972)
  | .sessionAuth h payload => h.wf && decide (payload.length ≤ 972)
  | .sessionClose h => h.wf
  | .heartbeat h => h.wf
  | .regRead h offsets => h.wf && decide (8 * offsets.length ≤ 972)
  | .regWrite h _ _ => h.wf
  | .mgmtTxBegin h _ _ => h.wf
  | .txSet h entries => h.wf && decide (24 * entries.length ≤ 972)
  | .mgmtTxCommit h => h.wf
  | .mgmtTxAbort h => h.wf
  | .faultLog h _ => h.wf
  | .telemetry h => h.wf
  | .attest h nonce => h.wf && decide (nonce.length ≤ 972)
  | .fwStage h _ bytes => h.wf && decide (8 + bytes.length ≤ 972)
  | .fwActivate h => h.wf
  | .calCtrl h _ _ => h.wf
  | .sessionTimeout _ => true
  | .sessionExpiry _ => true
  | .nonceExpiry _ => true
  | .lockoutEnd _ => true
  | .timebaseSlew => true
  | .dataMoverDone _ _ => true
  | .sortComplete => true
  | .saddleRowFailure _ _ => true
  | .laserInputRestored _ _ => true
  | .busMasterEnable _ => true

end Sys2Proof
end

