-- ==== Sys2Proof/Tests/Slice0.lean ====
section
/-! SUPPORT. Tests: an ill-formed command for each check of WellFormed.lean, and for each statement about the device states and operands that
meet the hypotheses of its clauses. -/

namespace Sys2Proof.Tests

open Sys2Proof.Machine

/-! ## Ill-formed commands -/

/-- A message with every field at zero. -/
def msg0 : Msg := ⟨0, 0, 0, 0, false, 0, 0, 0, 0, 0, 0, []⟩
/-- A flit of zeros. -/
def flit0 : Flit := ⟨List.replicate 256 0, 0, 0, 0⟩
/-- A management header outside a session. -/
def hdr0 : MgmtHdr := ⟨0, 0, 0, 0, 0, List.replicate 32 0⟩
/-- A calibration record with every field at zero. -/
def rec0 : CalRecord := ⟨0, 0, 0, 0, 0, 0, 0⟩
/-- The header of a routed message with every field at zero. -/
def route0 : RouteHdr := ⟨0, 0, 0, 0, 0, 0, 0⟩

theorem test_wf_messages : (Instr.read msg0).wf = true ∧ (Instr.read { msg0 with len := 1 }).wf = false ∧
    (Instr.write { msg0 with len := 8193, data := List.replicate 8193 0 }).wf = false ∧ (Instr.atomic { msg0 with vc := 8 }).wf = false ∧
    (Instr.tilePut { msg0 with addr := 2 ^ 51 }).wf = false := by decide +kernel
theorem test_wf_plain : (Instr.pData ⟨0, 0, 0, []⟩).wf = true ∧ (Instr.pData ⟨0, 0, 4, []⟩).wf = false ∧
    (Instr.pWack ⟨0, 0, 0, List.replicate 8193 0⟩).wf = false := by decide +kernel
theorem test_wf_flits : (Instr.flit 0 flit0).wf = true ∧ (Instr.flit 0 { flit0 with bytes := List.replicate 255 0 }).wf = false ∧
    (Instr.flit 0 { flit0 with bytes := List.replicate 257 0 }).wf = false := by decide +kernel
theorem test_wf_links : (Instr.ident 0 ⟨0, true, 32, 0, false, 0, 0⟩).wf = false ∧ (Instr.identRetry 0 ⟨0, true, 32, 0, false, 0, 0⟩).wf = false ∧
    (Instr.tuningLoop 0 [1]).wf = false ∧ (Instr.credit 0 [1] 0).wf = false := by decide
theorem test_wf_calibration : (Instr.deviceReady [rec0]).wf = true ∧ (Instr.deviceReady [{ rec0 with kind := 6 }]).wf = false ∧
    (Instr.recalibration 6 0 true rec0).wf = false ∧ (Instr.recalibration 0 0 true { rec0 with kind := 6 }).wf = false := by decide
theorem test_wf_engines : (Instr.ringSetup 0 ⟨0, 1025, 0, 0, 0, 0, 0, false, 0, 0, 0⟩).wf = false ∧
    (Instr.ringSetup 0 ⟨0, 2, 2, 0, 0, 0, 0, false, 0, 0, 0⟩).wf = false ∧
    (Instr.ringBlock 0 ⟨0, 0, 0, 0, 0, 0, 0, 0, false, 1, 1, 0, false, []⟩).wf = false ∧
    (Instr.routeRow 0 ⟨0, 3, route0, 0, 0, 0, 0, 1, 0, false, []⟩).wf = false ∧
    (Instr.routeRow 0 ⟨0, 1, route0, 0, 0, 0, 1, 1, 0, false, []⟩).wf = false ∧
    (Instr.routeEnd 0 0 0 route0 0).wf = false ∧ (Instr.routeEnd 0 0 1 { route0 with members := 65 } 0).wf = false ∧
    (Instr.collStep ⟨0, 0, 0, 0, 6, 0, 0, false, 0, 0, 0, 0, 0, false, []⟩).wf = false := by decide
theorem test_wf_management : (Instr.heartbeat hdr0).wf = true ∧ (Instr.heartbeat { hdr0 with mac := [] }).wf = false ∧
    (Instr.sessionOpen hdr0 (List.replicate 973 0)).wf = false ∧ (Instr.sessionAuth hdr0 (List.replicate 973 0)).wf = false ∧
    (Instr.regRead hdr0 (List.replicate 122 0)).wf = false ∧ (Instr.txSet hdr0 (List.replicate 41 ⟨0, 0, 0⟩)).wf = false ∧
    (Instr.attest hdr0 (List.replicate 973 0)).wf = false ∧ (Instr.fwStage hdr0 0 (List.replicate 965 0)).wf = false := by decide +kernel
theorem test_wf_others : (Instr.windowWrite (.port 0) 0 0 []).wf = false ∧ (Instr.patrolScrub 0 16384 0).wf = false ∧
    (Instr.apertureAccess 0 0 false []).wf = false ∧ (Instr.registerWrite .firmware 0 0 0).wf = false ∧
    (Instr.coreInstruction 0 (.jump 3 0 0)).wf = false ∧ (Instr.coreInstruction 0 (.vectorOp 4 0 [] 0)).wf = false ∧
    (Instr.coreInstruction 0 .fence).wf = true := by decide

section Witnesses
set_option Elab.async false

/-! ## Helpers for the witnesses -/

/-- The value of an answer that is no error. -/
def okOr {ε α : Type} (d : α) : Except ε α → α
  | .ok a => a
  | .error _ => d
/-- Whether an answer is no error. -/
def okB {ε α : Type} : Except ε α → Bool
  | .ok _ => true
  | .error _ => false
theorem ok_eq {ε α : Type} (d : α) {e : Except ε α} (h : okB e = true) : e = .ok (okOr d e) := by
  cases e with
  | ok _ => rfl
  | error _ => cases h
def errOf {α : Type} : Except AccErr α → AccErr
  | .error e => e
  | .ok _ => .bad
theorem err_eq {α : Type} {e : Except AccErr α} (h : okB e = false) : e = .error (errOf e) := by
  cases e with
  | error _ => rfl
  | ok _ => cases h
theorem some_eq {α : Type} (d : α) {e : Option α} (h : e.isSome = true) : e = some (e.getD d) := by
  cases e with
  | some _ => rfl
  | none => cases h
/-- What `StartsFrom` asks, as a test. -/
def startsB (c : CmdSpec) (s : State) (q : Nat) (r : Rec) : Bool :=
  let t := okOr s (c.early s q r)
  decide (s.headRec q = some r) && s.queueOpen q && decide ((s.queue q).head = .fresh) && !s.headPoisoned q && c.present s r &&
  decide (reservedField [(0, 14, 2)] r = none) && (c.takesTx || decide (r.tx = 0)) && decide (c.encoding s (s.queueJob q) r = none) &&
  okB (c.early s q r) && t.fencesOwned c q r &&
  (!r.wait || (t.waitMet r.waitFence r.w1.toNat && !t.fenceErr r.waitFence)) &&
  (decide (r.opcode ≠ 0x03) || (t.waitMet (bitsOf r.w3 0 16) r.w4.toNat && !t.fenceErr (bitsOf r.w3 0 16))) &&
  !t.headHeld c q r && c.owns t q r
theorem startsFrom {c : CmdSpec} {s : State} {q : Nat} {r : Rec} (h : startsB c s q r = true) :
    StartsFrom c s (okOr s (c.early s q r)) q r := by
  simp only [startsB, Bool.and_eq_true, decide_eq_true_eq, Bool.not_eq_true', Bool.or_eq_true] at h
  obtain ⟨⟨⟨⟨⟨⟨⟨⟨⟨⟨⟨⟨⟨h1, h2⟩, h3⟩, h4⟩, h5⟩, h6⟩, h7⟩, h8⟩, h9⟩, h10⟩, h11⟩, h12⟩, h13⟩, h14⟩ := h
  exact ⟨h1, h2, h3, h4, h5, h6, h7, h8, ok_eq s h9, h10, fun w => h11.resolve_left (by simp [w]), fun w => h12.resolve_left (by simp [w]), h13, h14⟩
theorem canonical {s : State} (h : memWf s.memory.mem = true) : MemoryCanonical s := h
theorem starts {c : CmdSpec} {s : State} {q : Nat} {r : Rec} (he : c.early s q r = .ok s) (h : startsB c s q r = true) :
    Starts c s q r := by
  have := startsFrom h
  rwa [he] at this

/-- A device in normal operation. -/
def dev : State := ({ State.reset with power := { State.reset.power with good := true } }).setF F.SEC_BOOT_STAT_MODE 1
/-- `dev` with its timebase locked, at a tick. -/
def devT (tick : BitVec 64) : State := { dev with tb := { dev.tb with locked := true, tick := tick } }
/-- Registers of a device set field by field. -/
def fields (fs : List (Field × Nat × Nat)) (s : State) : State := fs.foldl (fun s x => s.setF x.1 x.2.1 x.2.2) s
/-- A record of an opcode with fields by word, lowest bit, width and value. -/
def cmd (op : Nat) (fs : List (Nat × Nat × Nat × Nat) := []) : Rec :=
  Rec.ofWords (fs.foldl (fun ws x => setNth ws x.1 (setBits (nth ws x.1 0) x.2.1 x.2.2.1 x.2.2.2)) (BitVec.ofNat 64 op :: List.replicate 7 0))
/-- A record at the head of queue 0. -/
def put (r : Rec) (s : State) : State := (s.store 0 r.bytes).setF F.QE_Q_TAIL_TAIL_SEQ 1
/-- A staging slot whose words have all been written. -/
def slotFull (w : W64) : Slot := ⟨List.replicate 8 true, w :: List.replicate 7 0, false⟩
/-- The last word of a record of zeros with a sequence number, under its right code. -/
def sealOf (x : Slot) (seq : Nat) : W64 :=
  setBits (BitVec.ofNat 64 seq) 48 16 (crc16 ((wordsBytes (x.words.take 7 ++ [BitVec.ofNat 64 seq])).take 62)).toNat
/-- A transaction that queue 0 has opened. -/
def txOf (k : Scope) : Tx := ⟨1, k, 0, .queue 0, 0, [], [], false, 0, 0, 0⟩
/-- A record in flight. -/
def flightOf (r : Rec) (seq : Nat := 0) : Flight := ⟨seq, r, 0, 0, 0, 0, none, false⟩
/-- Queue 0 with records in flight. -/
def flying (s : State) (fs : List Flight) : State := s.setQueue 0 { s.queue 0 with flights := fs }
/-- The register at an offset, as the table gives it. -/
def regOf (off : Nat) : RegInfo × Nat × Nat := (regAt? off).getD (⟨R.GLB_BOARD, .partition, []⟩, 0, 0)

/-- A governor input with every reading at zero. -/
def gov0 : GovInput := ⟨0, 0, 0, 0, 0, 0, 0, 0, 0, 0, 0, 0, 0, 0, 0⟩
/-- Firmware slots whose headers are wrong. -/
def fwBad : FwStore := ⟨[(0, 0)], [(0, 0)], false⟩
/-- Queue 0 with its head record in a phase. -/
def headAt (p : HeadPhase) (s : State) : State := s.setQueue 0 { s.queue 0 with head := p }
/-- A transaction of scope `PARTITION` that waits for quiescence. -/
def txc : Tx := { txOf .partition with committing := true, commitSeq := 5 }
def txBurn : Tx := { txc with opener := .session 0, staged := [⟨R.SEC_KEYNEW_CTRL.at, setBits 0 F.SEC_KEYNEW_CTRL_BURN.lo 1 1, setBits 0 F.SEC_KEYNEW_CTRL_BURN.lo 1 1⟩] }
def txHeld : Tx := { txc with staged := [⟨R.QE_Q_CTRL.at, 0, 1⟩] }

/-- The state in which a record at the head of queue 0 works. -/
def taken (c : CmdSpec) (r : Rec) (s : State) : State := s.takeHead 0 c.engine r
def putTaken (r : Rec) (c : CmdSpec) (s : State) : State := (put r s).takeHead 0 c.engine r
def devTx : State := { dev with txs := [txOf .job] }
def cSet : Rec := cmd 0x40 [(3, 0, 26, R.QE_Q_IRQ.at), (4, 0, 64, 0x800), (5, 0, 64, 0x800)]
def cSetTx : Rec := cmd 0x10040 [(3, 0, 26, R.ALT_RM_CFG.at), (4, 0, 64, 1), (5, 0, 64, 0xFFFF)]
def cUnpin : Rec := cmd 0x40 [(3, 0, 26, R.TR_CCACHE_UNPIN.at), (4, 0, 64, 3), (5, 0, 64, 0xFF)]
def hot0 : HotImage := ⟨0, [], 0, true, [], [0], 0⟩
def devHot : State := { dev with casts := { dev.casts with hot := [(3, hot0)] } }

/-- A serving run of queue 0 that has no items yet. -/
def serve0 : ServeRun := ⟨0, 0, 0, false, 0, [], 0, false, false, false, none, 0, false⟩
/-- An item that decodes entry 0. -/
def item0 : Item := ⟨0, 0, .decode, 1, 0, 0, 0, 1, [], [], [], 0, none⟩
/-- A device whose binding 0 of job 0 is valid, with serving runs on it. -/
def devServe (xs : List ServeRun) : State :=
  fields [(F.SRV_MODEL_CFG_VALID, 1, 0)] { dev with serve := { dev.serve with runs := xs.map (fun x => (0, x)) } }

/-- A leaf that maps the Terrace for reading and writing in one page of a gigabyte. -/
def leaf0 : W64 := 0x1E0F
/-- `dev` with job 0 owning every Dale, and one leaf at virtual address 0. -/
def mappedBy (e : W64) : State :=
  fields [(F.TR_CTX_ROOT_VALID, 1, 0), (F.QE_JOB_DALES_DALES, 2 ^ 32 - 1, 0)]
    { dev with frames := { dev.frames with pages := [(0, { tables := [(tableKey 2 0, basinBase)], entries := [(entryKey 2 0, e)] })] } }
def mapped : State := mappedBy leaf0
/-- Put before a machine with casts: Dale 0's cast. -/
def cast0 : CastRef := { CastRef.blank with count := 1 }
/-- `mapped` with a cast in both slots of Dale 0. -/
def castDev : State :=
  { mapped with casts := { mapped.casts with refs := [(0, cast0)], nextRef := 1, active := [(0, ⟨.ready, 0⟩)], standby := [(0, ⟨.ready, 0⟩)] } }
theorem ok_none {ε α β : Type} (d : α) {e : Except ε (α × Option β)} (h : (okB e && (okOr (d, none) e).2.isNone) = true) :
    e = .ok ((okOr (d, none) e).1, none) := by
  match e, h with
  | .ok (_, none), _ => rfl
def cStage : Rec := cmd 0x08 [(3, 0, 64, 0x1000), (4, 8, 8, 1), (5, 0, 64, 0x100)]
def castStaging : State :=
  { castDev with casts := { castDev.casts with refs := [(0, { cast0 with entry := 3 })], hot := [(3, hot0)], staging := [⟨0, 0, 0, true⟩] } }
def cSwitch (op : Nat) : Rec := cmd op [(4, 8, 8, 1)]
def castTx : State := { castDev with txs := [txOf .cast] }
def cRun : Rec := cmd 0x0A [(4, 8, 8, 1), (5, 0, 32, 1), (6, 0, 64, 0x1000)]
def cEvict (active : Nat) : Rec := cmd 0x0B [(4, 8, 8, 1), (4, 16, 1, active)]
/-- A list of one entry of 16 elements of 32 bits at 0x2000. -/
def entry1 : List Byte := wordsBytes [0x2000, 0x1000010, 1, 0]
def moveDev : State := mapped.store 0x1000 entry1
def cMove : Rec := cmd 0x10 [(3, 0, 64, 0x1000), (4, 0, 64, 0x1000), (5, 0, 9, 1)]
def cFill : Rec := cmd 0x11 [(3, 0, 64, 0x1000), (4, 0, 64, 7), (5, 0, 9, 1)]
def list1 (r : Rec) (e : Nat) : List Entry := (okOr ([], false) ((taken specMove r (put r moveDev)).readList 0 0x1000 e)).1
/-- A template for the Terrace's gigabyte. -/
def cMap (unmap : Nat) : Rec := cmd 0x12 [(3, 0, 64, if unmap = 1 then 0 else 2 ^ 40), (4, 0, 64, 0x1E0F), (5, 0, 32, 1), (5, 32, 1, unmap)]
def mig0 : MigPage := ⟨0, 0x200000, plainBase, none, 0x7F, false, 0, 0⟩
def migDev (ms : List MigPage) (frames : Nat) : State :=
  fields [(F.TR_MIG_POOL_FIRST, 100, 0), (F.TR_MIG_POOL_FRAMES, frames, 0)] { devT (2 ^ 24) with frames := { dev.frames with mig := ms } }

/-- An Armature core of queue 0's job that is at 0x1000, with 0x2000 in `x5` and 2 in `x6`. -/
def core0 : CoreSt :=
  { CoreSt.start 0 0 0 2 0x1000 0 with x := setNth (setNth (List.replicate 32 0#64) 5 0x2000) 6 2 }
/-- A device whose core 2 is `x`, with an instruction word at 0x1000. -/
def coreDev (x : CoreSt) (w : Nat) : State :=
  fields [(F.QE_JOB_FENCE_COUNT, 1, 0), (F.QE_Q_CTRL_BOUND, 1, 2), (F.QE_Q_CTRL_PORT, 2, 2)]
    ({ mapped with cores := [(2, x)] }.store 0x1000 (leBytes 4 w))
def pcOf (s : State) (c : Nat) : Nat := ((s.core c).getD core0).pc.toNat
/-- A fetch of `n` bytes by core `c` of `s`: its access, the state after it, the core in it, and the bytes. -/
def fetchA (s : State) (c n : Nat) : State × CoreRes × List XLine := s.coreAccess c true false (lineVas (pcOf s c) n)
def fetchU (s : State) (c n : Nat) : State := (fetchA s c n).1.coreCycles c
def fetchX (s : State) (c n : Nat) : CoreSt := ((fetchU s c n).core c).getD core0
def fetchZ (s : State) (c n : Nat) : CoreSt := ((fetchA s c n).1.core c).getD core0
def fetchBs (s : State) (c n : Nat) : List Byte := (fetchZ s c n).readAt true (fetchA s c n).2.2 (pcOf s c) n
def fetchB (s : State) (c n : Nat) : Bool :=
  let y := (s.core c).getD core0
  (s.core c).isSome && y.exited.isNone && y.trapped.isNone && decide (y.wait = .none) && decide (y.pc ≠ 0) && decide (y.pc.toNat % 2 = 0) && decide ((fetchA s c n).2.1 = .ready) &&
  ((fetchA s c n).1.core c).isSome && !(fetchA s c n).2.2.any ((fetchZ s c n).markedLine true) && s.running && ((fetchU s c n).core c).isSome
theorem fetches {s : State} {c n : Nat} (h : fetchB s c n = true) : Fetches s c n (fetchBs s c n) (fetchU s c n) (fetchX s c n) := by
  simp only [fetchB, Bool.and_eq_true, decide_eq_true_eq, Bool.not_eq_true'] at h
  obtain ⟨⟨⟨⟨⟨⟨⟨⟨⟨⟨h1, h2⟩, h0⟩, h3⟩, h4⟩, h5⟩, h6⟩, h7⟩, h8⟩, h9⟩, h10⟩ := h
  exact ⟨⟨_, some_eq core0 h1, Option.isNone_iff_eq_none.mp h2, Option.isNone_iff_eq_none.mp h0, h3, h4, h5, _, _, _, Prod.ext rfl (Prod.ext h6 rfl), some_eq core0 h7, h8, rfl, rfl⟩,
    h9, some_eq core0 h10⟩
/-- A read of `n` bytes at `va` by core `c` of `u`: the state after it, the core in it, and the bytes. -/
def loadA (u : State) (c va n : Nat) : State × CoreRes × List XLine := u.coreAccess c false false (lineVas va n)
def loadY (u : State) (c va n : Nat) : CoreSt := ((loadA u c va n).1.core c).getD core0
def loadBs (u : State) (c va n : Nat) : List Byte := (loadY u c va n).readAt false (loadA u c va n).2.2 va n
theorem loads {u : State} {c va n : Nat} (h : (decide ((loadA u c va n).2.1 = .ready) && ((loadA u c va n).1.core c).isSome &&
    !(loadA u c va n).2.2.any ((loadY u c va n).markedLine false)) = true) : Loads u c va n (loadA u c va n).1 (loadY u c va n) (loadBs u c va n) := by
  simp only [Bool.and_eq_true, decide_eq_true_eq, Bool.not_eq_true'] at h
  exact ⟨_, Prod.ext rfl (Prod.ext h.1.1 rfl), some_eq core0 h.1.2, h.2, rfl⟩
def storeA (u : State) (c va n : Nat) : State × CoreRes × List XLine := u.coreAccess c false true (lineVas va n)
theorem stores {u : State} {c va n : Nat} (h : (decide ((storeA u c va n).2.1 = .ready) && ((storeA u c va n).1.core c).isSome) = true) :
    Stores u c va n (storeA u c va n).1 (((storeA u c va n).1.core c).getD core0) (storeA u c va n).2.2 := by
  simp only [Bool.and_eq_true, decide_eq_true_eq] at h
  exact ⟨Prod.ext rfl (Prod.ext h.1 rfl), some_eq core0 h.2⟩
/-- The bytes that `FZ.UNPACK` writes. -/
theorem storesUnpack {u : State} {c va : Nat} {x : CoreSt} {row : List Byte} {n : Nat} (hn : ((x.unpackRow row).flatMap (fun v => leBytes 4 v.toNat)).length = n)
    (h : (decide ((storeA u c va n).2.1 = .ready) && ((storeA u c va n).1.core c).isSome) = true) :
    Stores u c va ((x.unpackRow row).flatMap (fun v => leBytes 4 v.toNat)).length (storeA u c va n).1
      (((storeA u c va n).1.core c).getD core0) (storeA u c va n).2.2 := by
  subst hn
  exact stores h
def cCore0 : Rec := cmd 0x14 [(3, 0, 64, 0x1000)]
/-- Core 2 after a trap on an instruction page. -/
def coreTrapped : CoreSt := { core0 with trapped := some (Status.denied.code, 12, 0x1000) }
def cCore : Rec := cmd 0x14 [(3, 0, 64, 0x1000), (5, 0, 64, 4), (6, 0, 64, 5)]
def trapDev : State := flying (coreDev coreTrapped 0) [flightOf cCore]
/-- A device whose core 2 is at the custom instruction with these fields. -/
def fzDev (f7 f3 rd rs1 rs2 : Nat) : State := coreDev core0 (fzWord f7 f3 rd rs1 rs2)
/-- The state, the core and the bytes of the fetch of 4 bytes by core 2. -/
def fzU (s : State) : State := fetchU s 2 4
def fzX (s : State) : CoreSt := fetchX s 2 4
def fzBs (s : State) : List Byte := fetchBs s 2 4
/-- The address in a register of that core. -/
def fzAdr (s : State) (r : Fin 32) : Nat := ((fzX s).xr r.val).toNat
/-- A read of `n` bytes at the address in `x5`. -/
def fzV (s : State) (n : Nat) : State := (loadA (fzU s) 2 (fzAdr s 5) n).1
def fzY (s : State) (n : Nat) : CoreSt := loadY (fzU s) 2 (fzAdr s 5) n
def fzRow (s : State) (n : Nat) : List Byte := loadBs (fzU s) 2 (fzAdr s 5) n
/-- A device whose core 2 is at `FZ.PACK` or `FZ.UNPACK` of 8-bit values, from and to 0x2000. -/
def packDev (f3 : Nat) : State := coreDev { core0 with csrs := [(0x800, 3)] } (fzWord 1 f3 1 5 5)
/-- The address of the first register operand of an ordinary load or store. -/
def adr0 : Nat := (core0.xr (5 : Fin 32).val + 0).toNat
def st0 : State × CoreRes × List XLine := storeA (coreDev core0 0) 2 adr0 (leBytes (widthBytes .b8) (core0.xr (6 : Fin 32).val).toNat).length

/-- The words of a request entry from its fields. -/
def reqOf (fs : List (ReqField × Nat)) : Req := fs.foldl (fun e x => e.setF x.1 x.2) Req.blank
/-- Entries of the request table. -/
def reqDev (xs : List (Nat × Req)) : State :=
  fields [(F.SRV_MODEL_CFG_VALID, 1, 0), (F.SRV_MODEL_CFG_DRAFT, 0x3F, 0), (F.SRV_OUT_CTRL_VALID, 1, 0), (F.SRV_OUT_CTRL_LOG2, 4, 0), (F.SRV_KV_LAYOUT_VALID, 1, 0), (F.SRV_SAMP3_VALID, 1, 0),
      (F.SRV_JOB_MAX_ENTRIES, 1, 0), (F.SRV_MODEL_LIMITS_MAX_ROWS, 4, 0), (F.SRV_MODEL_LIMITS_MAX_REQS, 4, 0)]
    { mapped with serve := { mapped.serve with reqs := xs } }
/-- An image that passes every check. -/
def image0 : Req := reqOf [(qfState, 1), (qfTok, 4), (qfMax, 2), (qfPromptLen, 1), (qfDraft, 0x3F), (qfPenVa, 0x10000)]
def imageDev : State := (reqDev []).store 0x1000 (wordsBytes image0.words)
def cAdmit : Rec := cmd 0x38 [(3, 0, 64, 0x1000)]
def admitT : State := okOr (put cAdmit imageDev) (specReqAdmit.early (put cAdmit imageDev) 0 cAdmit)
def admitU : State := taken specReqAdmit cAdmit admitT
def cQuery (va : Nat) : Rec := cmd 0x3B [(4, 0, 64, va)]
def cCancel : Rec := cmd 0x39
/-- A request that decodes. -/
def decode0 : Req := reqOf [(qfState, 3), (qfTok, 4), (qfPages, 1), (qfDraft, 0x3F), (qfMax, 1)]
def serveDev (phase : Nat) (x : ServeRun) : State :=
  (reqDev [(0, decode0)]).setF F.SRV_RUN_PHASE phase |> fun s => { s with serve := { s.serve with runs := [(0, x)] } }
/-- The batch that binding 0 of `serveDev` forms. -/
def formed : State × List Item := (serveDev 0 serve0).formBatch 0 (some (0, 0))
def formedY : ServeRun :=
  { serve0 with items := formed.2, number := ((serveDev 0 serve0).f F.SRV_RUN_STEP (0 : BindId).val + 1) % 2 ^ 58, pass := 1, drafted := false, target := false }
def formedV : State := (formed.1.setServeRun (0 : BindId).val formedY).setF F.SRV_RUN_PHASE (if maxDraft formed.2 = 0 then 3 else 2) (0 : BindId).val
def itemF : Item := { item0 with fault := some 6 }
def passRun : ServeRun := { serve0 with items := [itemF], pass := 1, readyAt := some 0 }
def noReqs (phase : Nat) (x : ServeRun) : State := { serveDev phase x with serve := { (serveDev phase x).serve with reqs := [] } }

def feedDev : State := { (reqDev []).store ((reqDev []).feedSlot 63 1 + 8) (leBytes 8 (2 ^ 32)) with serve := { (reqDev []).serve with feed := [(63, 1)] } }
/-- A ring run of entry 0. -/
def ring0 : RingRun :=
  { q := 0, seq := 0, job := 0, entry := 0, s0 := 0, scount := 0, part := 0, hq := 0, feed := false, feedMu := 0, feedRing := 0, lanes := [],
    predOk := false, succOk := false, step := 0, since := 0, fed := 0, m0 := 0, feedE := 0 }
def kvDev : State := fields [(F.SRV_KV_POOL_FIRST, 512 * 17, 0), (F.SRV_KV_POOL_FRAMES, 512, 0)] (reqDev [])

/-- A declaration of a kept ring of 16 slots of 100 lines that the Meander unit fills, for two consumers or one. -/
def ringWord (two : Nat) : W64 :=
  setBits (setBits (setBits (setBits (setBits (setBits 0 14 10 99) 24 7 16) 31 3 5) 35 1 two) 36 1 1) 44 1 two
/-- A device with ring group 0 of two members, memory unit 0 with two rings, and entry 0 in a ring. -/
def ringDev (xs : List RingRun) (stage : Nat) : State :=
  let s := reqDev [(0, reqOf [(qfState, 10), (qfTok, 4), (qfLength, 16)])]
  let c := { cast0 with progs := [(1024, [0, ringWord 1, ringWord 0])] }
  let s := { s with casts := { s.casts with refs := [(0, c)], nextRef := 1, active := [(0, ⟨.ready, 0⟩)] }, ringRuns := xs.map (fun x => (0, x)) }
  let s := fields [(F.MRE_G_CFG_VALID, 1, 0), (F.MRE_G_CFG_MEMBERS_M1, 1, 0), (F.MRE_G_SEQ_SEQ_LEN, 32, 0), (F.MRE_G_SEQ_CHUNK, 16, 0), (F.MRE_G_STAT_STATE, stage, 0),
    (F.SRV_KV_LAYOUT_G0_LAYERS, 1, 0)] s
  (s.setF F.MU_RING_OWN_OWNED 1 (s.unitWindow 0) 0).setF F.MU_RING_OWN_OWNED 1 (s.unitWindow 0) 1
/-- The lane map at 0x1000: one lane in ring 0 of memory unit 0, and ring 1 for the feed. -/
def laneWords : List W64 := 1 :: 0 :: List.replicate 15 0 ++ [0x400]
def cRing (feed : Nat) : Rec := cmd 0x28 [(3, 4, 1, feed), (3, 48, 16, 2), (4, 0, 64, 0x1000), (5, 0, 64, 0x3000), (6, 0, 16, 1)]
def ringCmdDev : State := (ringDev [] 0).store 0x1000 (wordsBytes laneWords)
def ringRun1 (u : State) : RingRun :=
  { q := (0 : QId).val, seq := (put (cRing 1) ringCmdDev).headSeq (0 : QId).val, job := u.queueJob (0 : QId).val, entry := (cRing 1).ringEntry, s0 := (cRing 1).ringS0, scount := (cRing 1).ringScount,
    part := (cRing 1).w5.toNat, hq := bitsOf (cRing 1).w6 0 16, feed := (cRing 1).ringFeed, feedMu := (0, 1).1, feedRing := (0, 1).2,
    lanes := [(0, 0)].map (fun l => ⟨l.1, l.2, 0, 0, 0, 0, 0, 0, 0⟩),
    predOk := false, succOk := false, step := 0, since := u.now, fed := 0, m0 := 0, feedE := 0 }
/-- A run of two streams on one lane, with a grant given for the next block. -/
def lane0 : LaneSt := ⟨0, 0, 2, 0, 0, 0, 0, 1, 0⟩
def ring1 : RingRun := { ring0 with scount := 2, part := 0x3000, hq := 1, feedRing := 1, lanes := [lane0] }
def ringBlk (x : RingRun) (l : LaneSt) : BlockId := ((ringDev [x] 2).blockAt 0 x 0 2 0 l.put).getD ⟨0, 0, 0, 0, 0, 0, false⟩
/-- Segment `k` of the block that comes next. -/
def blockMsg (x : RingRun) (l : LaneSt) : RingBlockMsg :=
  let b := ringBlk x l
  let n := 64 + (ringDev [x] 2).ringBlockBytes x
  ⟨0, 0, b.origin, b.step - 1, b.page, b.stream, b.rows, b.gpos, b.last, l.segs, ceilDiv n 4096, 4096 * l.segs, false, List.replicate (min 4096 (n - 4096 * l.segs)) 0⟩
def lane1 : LaneSt := { lane0 with segs := 1 }
def ring2 : RingRun := { ring1 with lanes := [lane1] }
def setupMsg (v : List Nat) (i : Nat) : RingSetupMsg :=
  ⟨0, nth v 0 0, i, BitVec.ofNat 32 (nth v 1 0), BitVec.ofNat 32 (nth v 2 0), nth v 3 0, nth v 4 0, nth v 5 0 != 0, nth v 6 0, nth v 7 0, nth v 8 0⟩
/-- The word that a member writes at the end of a step of run 0. -/
def stepMark : List Byte := leBytes 8 (2 ^ 63)
def ringFeedRun : RingRun := { ring0 with hq := 1, step := 2, feed := true, feedRing := 1 }

/-- A device with Watershed group 0 of two members and layer 0 with one expert, and a route block at 0x1000. -/
def routeDev (phase : Nat) (g : RouteSt) : State :=
  let s := fields [(F.WSU_L_CFG_VALID, 1, 0), (F.WSU_L_CFG_EXPERTS, 1, 0), (F.WSU_G_CFG_VALID, 1, 0), (F.WSU_G_CFG_MEMBERS_M1, 1, 0), (F.WSU_G_RECV_FRAMES, 1, 0),
    (F.WSU_G_RET_FRAMES, 1, 0), (F.WSU_G_STAT_PHASE, phase, 0)] (mapped.store 0x1000 (wordsBytes [0, 0, 0x1100, 0, 0, 1, 0, 0]))
  { s.store 0x1100 (leBytes 4 0x80000000) with wsu := { s.wsu with groups := [(0, g)] } }
def cRoute (phase : Nat) : Rec := cmd 0x30 [(3, 10, 2, phase), (3, 16, 16, 1), (4, 0, 64, 0x1000)]
def keyed : RouteSt := { RouteSt.fresh with key := some (0, 1, 0x1000) }
def plan0 : RoutePlan := ⟨0, 1, 0x1000, false, 0, 0, [], 0, [], 0, 0, 1, ⟨0, 2, 0, 0, 0, [0, 0]⟩⟩
def planned : RouteSt := { keyed with plan := some plan0 }
def hdr1 (batch : Nat) : RouteHdr := ⟨0, batch, 2, 0, 0, 1, 0⟩
def row1 : RouteRowMsg := ⟨1, 1, hdr1 0, 0, 0, 0, 0, 1, 0, false, []⟩
def routing : State :=
  let s := routeDev 1 { planned with flight := some (0, 0) }
  { flying s [flightOf (cRoute 1)] with tb := { s.tb with tick := 2 ^ 26 }, wsu := { s.wsu with running := some 0 } }
/-- A device with collective group 0 of two members inside the fence. -/
def collDev (xs : List (Nat × CollEntry)) (inside : Nat) : State :=
  { fields [(F.ALT_CG_CFG_VALID, 1, 0), (F.ALT_CG_CFG_MEMBERS_M1, 1, 0), (F.SEC_FENCE_INSIDE, inside, 0), (F.ALT_CG_GEOM_W_M1, 1, 0)] dev with coll := { dev.coll with entries := xs } }
def cBarrier : Rec := cmd 0x20 [(3, 0, 4, 5), (3, 6, 4, 10)]
def barrierKey : CollKey := ⟨5, 0, 10, false, 0, 2, 0, 0⟩
def coll0 : CollEntry := CollEntry.fresh 0 0 barrierKey 0 0
def collU (s : State) : State := taken specColl cBarrier (put cBarrier s)
def collV (s : State) : State := (collU s).setF F.ALT_CG_STAT_SEQ (((collU s).f F.ALT_CG_STAT_SEQ cBarrier.collGroupOf + 1) % 2 ^ 32) cBarrier.collGroupOf
def collX (s : State) : CollEntry :=
  CollEntry.fresh ((collU s).f F.ALT_CG_CFG_GID cBarrier.collGroupOf) ((collU s).f F.ALT_CG_STAT_SEQ cBarrier.collGroupOf) ((collU s).collKey cBarrier.collGroupOf cBarrier) cBarrier.collGroupOf (collV s).now
def collMsg (members : Nat) : CollStepMsg := ⟨0, 0, 0, 1, 5, 0, 10, false, 0, members, 0, 0, 0, false, []⟩

def coll1 : CollEntry := { coll0 with seq := 7 }
def collCut : CollEntry := { coll0 with detach := true, flows := [⟨1, [], 8, some 0, false⟩] }

/-! ### Casts, units and streams -/

def run0 : CastRun :=
  { owner := .command 0 0, job := 0, cast := 0, binds := [⟨0, true, 0x1000⟩], total := 1, done := 0, stepping := true, start := 0, ticks := 0, fault := none, residue := 0 }
/-- A cast of Dale 0 in a step. -/
def stepDev (c : CastRef) (x : CastRun) : State :=
  { moveDev with
    casts := { moveDev.casts with refs := [(0, c)], nextRef := 1, active := [(0, ⟨.running, 0⟩)] }, fabric := { moveDev.fabric with runs := [(0, x)] } }
/-- Compute unit 0 in a step, its first task at the words `w` and `v`. -/
def task0 : TaskSt := { TaskSt.fresh with pc := 2, finished := false }
def cu0 : CuSt := { CuSt.fresh with tasks := task0 :: List.replicate 3 .fresh }
def cuProg (w v : W64) : List W64 := [1, 2, w, v]
def cuDev (x : CuSt) (w v : W64) : State :=
  let s := stepDev { cast0 with progs := [(0, cuProg w v)] } run0
  { s with fabric := { s.fabric with cus := [(0, x)] } }
def opAt (w v : W64) : CuOp := { n := 0, first := 0, run := run0, t := 0, pc := 2, w := w, v := v }
/-- Compute unit 0 about to issue `w`. -/
def cuS (w : W64) : State := cuDev cu0 w 0
def opS (w : W64) : CuOp := opAt w 0
def srcA (w : W64) : List W32 := cuSource ((cuS w).cuTask (opS w)) (opS w).w (bitsOf (opS w).w 16 6) (bitOf (opS w).w 38)
def srcB (w : W64) : List W32 := cuSource ((cuS w).cuTask (opS w)) (opS w).w (bitsOf (opS w).w 22 6) false
def srcC (w : W64) : List W32 := cuSource ((cuS w).cuTask (opS w)) (opS w).w (bitsOf (opS w).w 28 6) false
/-- A token and where it is held. -/
def token0 (tag : Nat) : Token := ⟨tag, 0, false, false, List.replicate 64 0, 5, 0⟩
def heldAt (port tag : Nat) : Held := ⟨port, 0, 0, token0 tag⟩
/-- A word of each opcode of a compute unit that holds a token at its port 0. -/
def cuWord (k : Nat) : W64 :=
  if k = 0x11 then 0x2000011 else if k = 0x12 then 0x8000012 else if k = 0x13 then 0x200000013 else if k = 0x14 then 0x800000014 else BitVec.ofNat 64 k
def cuT (k : Nat) : State := cuDev { cu0 with store := [heldAt 0 0] } (cuWord k) 0
theorem cuWords : ∀ k ∈ ([0x10, 0x11, 0x12, 0x13, 0x14, 0x18, 0x19, 0x20, 0x21, 0x22, 0x23, 0x24, 0x25, 0x26, 0x27, 0x28, 0x29, 0x2A, 0x2B, 0x2C, 0x2D, 0x30] : List Nat),
    (cuT k).cuReady (0 : UnitId).val = some (opS (cuWord k)) ∧ bitsOf (opS (cuWord k)).w 0 8 = k := by decide +kernel
def cuTok (tag : Nat) : CuSt := { cu0 with arrivals := [heldAt 7 tag] }
/-- Memory unit 0 in a step, its first generator at the words `ws`. -/
def muHead : W64 := 2 ^ 51
def ag0 : AgSt := { AgSt.fresh with pc := 5, finished := false }
def mu0 : MuSt := { MuSt.fresh with ags := ag0 :: List.replicate 3 .fresh }
def muWs (ws : List W64) : List W64 := muHead :: ringWord 0 :: 0 :: 0 :: 0 :: ws
def muDev (x : MuSt) (ws : List W64) : State :=
  let s := stepDev { cast0 with header := [0, 0, 0, 0, 0, 2 ^ 42], progs := [(1024, muWs ws)] } run0
  { s with fabric := { s.fabric with mus := [(0, x)] } }
def agOf (ws : List W64) : AgOp := { n := 0, a := 0, first := 0, run := run0, ws := muWs ws, w := wordAt (muWs ws) 5 }
def muTok (tag : Nat) : MuSt := { mu0 with store := [heldAt 0 tag] }
/-- A stream of one line. -/
def affS (op : Nat) : List W64 := [BitVec.ofNat 64 op, 0]
def agReadyB (s : State) (o : AgOp) : Bool :=
  decide (s.stepOn (o.n / 32) = some (o.first, o.run)) && decide (o.ws = s.unitProg true o.n) && decide (o.ws ≠ []) && muUsed o.ws o.a && !(s.ag o).finished &&
  decide (o.w = wordAt o.ws (s.ag o).pc)
theorem agReady {s : State} {o : AgOp} (h : agReadyB s o = true) : AgReady s o := by
  simp only [agReadyB, Bool.and_eq_true, decide_eq_true_eq, Bool.not_eq_true'] at h
  obtain ⟨⟨⟨⟨⟨h1, h2⟩, h3⟩, h4⟩, h5⟩, h6⟩ := h
  exact ⟨h1, h2, h3, h4, h5, h6⟩
/-- Dale 0 with a steering element at site 0 in a mode, and tokens in its store. -/
def steerDev (mode : Nat) (x : ElemSt) : State :=
  let s := stepDev { cast0 with tables := [(0, [BitVec.ofNat 64 mode])], chans := [(4095, [0, 0, 0, 0])] } run0
  { s with fabric := { s.fabric with elems := [(0, x)] } }
def elem0 : ElemSt := { ElemSt.fresh with store := [heldAt 0 0, heldAt 1 0, heldAt 2 0] }
def elemP : ElemSt := { ElemSt.fresh with store := [{ heldAt 0 0 with token := { token0 0 with poison := true } }, heldAt 1 0] }
def elemA : ElemSt := { ElemSt.fresh with arrivals := [heldAt 2 7] }
def chanY : ChanSt := ⟨[0], [0], [], 0, 0⟩
def chanDev : State := { steerDev 0 elem0 with fabric := { (steerDev 0 elem0).fabric with chans := [(4095, chanY)] } }

def pausedDev : State := { stepDev cast0 run0 with fabric := { (stepDev cast0 run0).fabric with runs := [], paused := [run0] } }
def stallDev : State :=
  let s := stepDev { cast0 with progs := [(0, cuProg 0x11 0)], chans := [(4095, [0, 0, 0, 0])] } run0
  { s with tb := { dev.tb with tick := 2 ^ 20 + 1 }, fabric := { s.fabric with chans := [(4095, chanY)], cus := [(0, { cu0 with outs := ⟨[token0 0], 0⟩ :: List.replicate 3 .empty })] } }
def cuLate : State := { cuDev cu0 0x11 0 with fabric := { (cuDev cu0 0x11 0).fabric with runs := [(0, { run0 with ticks := 2 ^ 31 + 1 })] } }
/-- A unit whose active task has finished and whose next one can issue. -/
def twoTasks : State :=
  let s := stepDev { cast0 with progs := [(0, [3, 2, 0, 0])] } run0
  { s with fabric := { s.fabric with cus := [(0, { CuSt.fresh with tasks := .fresh :: task0 :: List.replicate 2 .fresh })] } }
def mm0 : MmSt := ⟨0, 2, 0, 0, 0, 0, 0, [], [], 0, 0, false⟩
def muA : MuSt := { mu0 with arrivals := [heldAt 0 7] }
def muPh : MuSt := { MuSt.fresh with ags := { ag0 with phase := 1, entry := entry1 } :: List.replicate 3 .fresh }
def entry1' : Entry := Entry.ofBytes entry1

/-! ### Altur -/

/-- A device with link 0 and Plain link 18 up, chips 0 and 1 inside the fence, chip 1 behind port 0, and window 63 open to it from a frame on. -/
def netDev (first : Nat) : State :=
  fields [(F.ALT_LINK_STAT_STATE, 6, 0), (F.ALT_LINK_STAT_STATE, 6, 18), (F.SEC_FENCE_INSIDE, 3, 0), (F.ALT_EXT_VALID, 1, 0), (F.ALT_EXT_BASE, 1, 0), (F.ALT_EXT_COUNT, 1, 0),
    (F.ALT_PORT_CFG_VALID, 1, 0), (F.ALT_PORT_CFG_LINKS, 1, 0), (F.PLN_CAP_CAP_GIB, 1, 0), (F.ALT_RM_WIN_CTRL_VALID, 1, 63), (F.ALT_RM_WIN_CTRL_R, 1, 63),
    (F.ALT_RM_WIN_CTRL_W, 1, 63), (F.ALT_RM_WIN_CTRL_A, 1, 63), (F.ALT_RM_WIN_CTRL_FIRST_CHIP, 1, 63), (F.ALT_RM_WIN_CTRL_CHIP_COUNT, 1, 63), (F.ALT_RM_WIN_CTRL_ANY_JOB, 1, 63),
    (F.ALT_RM_WIN_BASE_FIRST, first, 63), (F.ALT_RM_WIN_BASE_FRAMES, 1, 63)] mapped
/-- A message from chip 1 on link 0. -/
def msgOf (vc addr : Nat) (arg0 : BitVec 32) (arg1 : BitVec 64) (data : List Byte) : Msg := ⟨0, 1, 0, vc, false, 0, addr, 0, arg0, arg1, data.length, data⟩
def basinF : Nat := basinBase / frameBytes
def plainF : Nat := plainBase / frameBytes
def line64 : List Byte := List.replicate 64 7
def netB : State := netDev basinF
def netP : State := netDev plainF
def rdB : Msg := msgOf 0 basinBase 0 64 []
def rdP : Msg := msgOf 0 plainBase 0 64 []
def wrB : Msg := msgOf 2 basinBase 0 0 line64
def amB : Msg := msgOf 0 (basinBase + 8) 16 1 []
def wr0 : Msg := msgOf 2 0 0 0 line64
/-- `netDev` whose memory unit 0 has a ring that the outside fills, with a number of slots filled. -/
def putDev (tail : Nat) : State :=
  { netDev 0 with
    casts := { mapped.casts with refs := [(0, { cast0 with progs := [(1024, [0, ringWord 0])] })], nextRef := 1, active := [(0, ⟨.ready, 0⟩)] }
    fabric := { mapped.fabric with mus := [(0, { MuSt.fresh with rings := ⟨tail, 0, 0⟩ :: List.replicate 3 .zero })] } }
/-- A request that waits for its response. -/
def reqAt (op : Nat) (i : Issuer) (plain : Option Nat) (busy : Option Nat) : Request := ⟨0, i, { OutMsg.blank with op := op, dst := 1, arg1 := 64 }, plain, 0, none, busy⟩
def waiting (x : Request) (tick : BitVec 64) : State := { netB with net := { netB.net with requests := [x] }, tb := { dev.tb with tick := tick } }
theorem arrives {s : State} {m : Msg} {op : Nat} (h : (decide (s.linkState m.link.val = 6 ∨ s.linkState m.link.val = 7) && decide (vcOf op = some m.vc) &&
    decide (m.link.val < 18) && s.inFence m.src.toNat && s.inFence m.dst.toNat && decide (m.dst.toNat = s.chip)) = true) : Arrives s m op := by
  simp only [Bool.and_eq_true, decide_eq_true_eq] at h
  obtain ⟨⟨⟨⟨⟨h1, h2⟩, h3⟩, h4⟩, h5⟩, h6⟩ := h
  exact ⟨h1, h2, h3, h4, h5, h6⟩
theorem awaited {s : State} {m : Msg} {ops : List Nat} {x : Request} (h : (decide (s.requestOf m.xid.toNat false = some x) && decide (x.msg.op ∈ ops) &&
    decide (x.busyAt = none) && decide (x.msg.dst = m.src.toNat)) = true) : Awaited s m ops x := by
  simp only [Bool.and_eq_true, decide_eq_true_eq] at h
  obtain ⟨⟨⟨h1, h2⟩, h3⟩, h4⟩ := h
  exact ⟨h1, h2, h3, h4⟩
/-- The next state of an outcome. -/
def outOf (o : Host.Outcome State Fault Refusal) : State :=
  match o with
  | .next t => t
  | _ => dev
def fl0 : Issuer := .flight 0 0
def rspOf (vc : Nat) (code : BitVec 32) : Msg := msgOf vc 0 code 0 line64
def plainRsp (st : Nat) : PlainRsp := ⟨18, 0, st, line64⟩
def noticeOf (code : BitVec 32) (chip : BitVec 64) : Msg := { msgOf 5 0 code chip [] with xid := 9 }
/-- A device with link 0 in a state. -/
def linkDev (st : Nat) (x : LinkSt) : State :=
  { (fields [(F.ALT_LINK_STAT_STATE, st, 0), (F.ALT_PORT_CFG_VALID, 1, 0), (F.ALT_PORT_CFG_LINKS, 1, 0)] (devT (2 ^ 30))) with net := { dev.net with links := [(0, x)] } }
def ident1 (chip : ChipId) : IdentInfo := ⟨chip, true, 0, 0, false, 0, 0⟩
def meshOf (s : State) : State := fields [(F.ALT_MESH_VALID, 1, 0), (F.ALT_PORT_CFG_PEER_CHIP, 1, 0)] s
def calOf (k e : Nat) : CalRecord := ⟨k, e, 0, 750, 0, 0, 0⟩
theorem leBytes_len : ∀ n v, (leBytes n v).length = n
  | 0, _ => rfl
  | n + 1, v => congrArg (· + 1) (leBytes_len n (v / 256))
theorem leNat_leBytes : ∀ n v, leNat (leBytes n v) = v % 256 ^ n
  | 0, v => by simp [leBytes, leNat, Nat.mod_one]
  | n + 1, v => by
    have e : 256 ^ (n + 1) = 256 * 256 ^ n := by rw [Nat.pow_succ, Nat.mul_comm]
    rw [leBytes, leNat, leNat_leBytes n, BitVec.toNat_ofNat, e, Nat.mod_mul]
/-- A data flit of one whole message without payload under its right CRC. -/
def flitBs (header : Nat) : List Byte := leBytes 8 header ++ List.replicate 244 0
def flitOk (header : Nat := 1 + 2 ^ 30 + 2 ^ 31) : Flit := ⟨flitBs header ++ leBytes 4 (crc32 (flitBs header)).toNat, 0, 0, 0⟩
theorem crc_ok (bs : List Byte) (h : bs.length = 252) : (Flit.mk (bs ++ leBytes 4 (crc32 bs).toNat) 0 0 0).crcOk = true := by
  have hb := (crc32 bs).isLt
  simp only [Flit.crcOk, beq_iff_eq]
  rw [List.drop_left' h, List.take_left' h, leNat_leBytes, Nat.mod_eq_of_lt (by simpa using hb)]
theorem flitBs_len (header : Nat) : (flitBs header).length = 252 := by
  unfold flitBs
  rw [List.length_append, leBytes_len, List.length_replicate]
theorem flit_crc (header : Nat) : (flitOk header).crcOk = true := crc_ok _ (flitBs_len header)

def mapped' : State := netDev 0
theorem noWindow (w : Nat) (hw : w < 64) {right : Field} {src job a len : Nat} : mapped.windowAdmits w right src job a len = false := by
  have h : ∀ w, w < 64 → mapped.fb F.ALT_RM_WIN_CTRL_VALID w = false := by decide +kernel
  simp [State.windowAdmits, h w hw]
def lostDev : State := { (fields [(F.ALT_PORT_CFG_VALID, 1, 7)] (devT 20000)) with net := { dev.net with ports := [(7, { PortRt.fresh with noCarry := some 0 })] } }


/-! ### Management -/

/-- An open session of the owner on the first transport. -/
def ses0 : Session := ⟨1, [], 0, 0, 0, 0, 10 ^ 12, 0⟩
/-- A device in normal operation with that session. -/
def devS : State := { dev with mgmt := { dev.mgmt with roles := { session := some ses0, nonce := none } :: List.replicate 2 { session := none, nonce := none } } }
/-- The header of a request in that session. -/
def hdrS (op : Nat) (p : List Byte) : MgmtHdr := ⟨0, 0, 1, 1, 1, sessionMac ses0.key (mgmtBody op 0 (1#16).toNat (1#32).toNat (1#32).toNat 0 p)⟩
/-- The header of a request outside any session. -/
def hdrO : MgmtHdr := ⟨0, 0, 1, 0, 0, []⟩
/-- A device after a message on its first transport. -/
def heard (s : State) : State := (s.takeAllowance 0).getD dev
/-- That session after a request in it. -/
def sesS (s : State) : Session := { ses0 with macRun := 0, lastMseq := 1, lastValid := (heard s).now }
/-- A device after a request in that session has been admitted. -/
def inR (r : Nat) (s : State) : State := (heard s).setRole r { (heard s).role r with session := some (sesS s) }
def inS (s : State) : State := inR 0 s
theorem gated {s : State} {op r : Nat} {p : List Byte} (h : (decide ((heard s).sessionOf 1 = some (r, ses0)) && !ses0.expired (heard s).now && !ses0.idle (heard s).now) = true) :
    (heard s).gate (hdrS op p) op p = (inR r s, .inside r (sesS s)) := by
  simp only [Bool.and_eq_true, decide_eq_true_eq, Bool.not_eq_true'] at h
  obtain ⟨⟨h1, h2⟩, h3⟩ := h
  have h1' : (heard s).sessionOf (hdrS op p).session.toNat = some (r, ses0) := h1
  unfold State.gate
  rw [h1']
  simp only [h2, h3]
  simp [hdrS, ses0, inR, sesS]
def gatedB (s : State) : Bool := decide ((heard s).sessionOf 1 = some (0, ses0)) && !ses0.expired (heard s).now && !ses0.idle (heard s).now
theorem admitted {s : State} {op : Nat} {need : Option Nat} {p : List Byte} (h : (s.transportOpen 0 && decide (s.f F.SEC_BOOT_STAT_MODE = 1) &&
    (s.takeAllowance 0).isSome && gatedB s) = true) : Admitted s (hdrS op p) op need p (inS s) 0 (sesS s) := by
  simp only [Bool.and_eq_true, decide_eq_true_eq] at h
  obtain ⟨⟨⟨h1, h2⟩, h3⟩, h4⟩ := h
  exact ⟨h1, .inl h2, by simp [hdrS], ⟨_, some_eq dev h3, gated h4⟩, Nat.zero_le _⟩
/-- A device with an element queued for calibration. -/
def calDev (k e : Nat) : State := { dev with cal := { dev.cal with queued := [(k, e)] } }
/-- A device whose site 0 is being retired. -/
def retDev (s : State) : State := { s with faults := { s.faults with recovering := [⟨.site, 0⟩] } }
def recDev : State := { dev with faults := { dev.faults with recovering := [⟨.die, 0⟩] } }
def rowDev : State := { dev with fabric := { dev.fabric with failedRows := [3] } }
/-- A device with a step in flight whose cast spans both dies. -/
def acrossDev : State := stepDev { cast0 with count := 32 } run0
def copyDev (e : Nat) (f : Field) : State :=
  { fields [(f, 1, 0)] dev with faults := { dev.faults with recovering := [⟨.hbmChannel, e⟩] } }
def rollDev (done : Nat) (tick : BitVec 64) : State := { devT tick with mgmt := { dev.mgmt with roll := some ⟨done, 0, hdrO⟩ } }
/-- A device with port 0's aperture open at a gigabyte boundary, and job 0 owning the first Plain frame. -/
def aperDev (gib frames : Nat) : State :=
  let s := fields [(F.GLB_APERTURE_VALID, 1, 0), (F.GLB_APERTURE_BASE, gib, 0), (F.PLN_CAP_CAP_GIB, frames, 0)] mapped
  { s with frames := { s.frames with plainOwner := [(0, 0)] } }
def nonceDev (r : Nat) : State := dev.setRole r { dev.role r with nonce := some ([7], 0) }
/-- An authentication with the right answer to the nonce of `nonceDev 0`. -/
def authPay : List Byte :=
  List.replicate 40 0 ++ sessionProof (((heard (nonceDev 0)).settleRole 0).roleKey 0) [7] (authHdr hdrO 0 (List.replicate 4 0)) (List.replicate 32 0)
theorem proof_length (k n h c : List Byte) : (sessionProof k n h c).length = 32 := by
  simp [sessionProof, kmac256, sponge, Sponge.give, ceilDiv, shakeRate, leBytes_len]
theorem authPay_life : lifetimeOf (leNat (slice authPay 4 4)) = some 3600 := rfl
theorem authPay_ok : 72 ≤ authPay.length ∧ slice authPay 40 32 =
    sessionProof (((heard (nonceDev 0)).settleRole 0).roleKey 0) [7] (authHdr hdrO 0 (List.replicate 4 0)) (List.replicate 32 0) := by
  refine ⟨by simp [authPay, proof_length], ?_⟩
  simp only [slice, authPay]
  rw [List.drop_left' (by simp)]
  simp [padTo, proof_length]
def spentDev : State := { dev with mgmt := { dev.mgmt with allowance := [0, 0, 0] } }
/-- A device with an open session of the operator. -/
def operDev : State := { dev with mgmt := { dev.mgmt with roles := { session := none, nonce := none } :: { session := some ses0, nonce := none } :: [{ session := none, nonce := none }] } }
/-- A transaction of that session of the owner. -/
def txS : Tx := { txOf .job with opener := .session 0 }
def devST : State := { devS with txs := [txS] }
/-- A log whose first entry can be repeated. -/
def logDev : State := { dev.writeLog 0x1105 false .site 0 7 none 0 with tb := dev.tb }
def set1 : List SetEntry := [⟨8, 1, 1⟩]
def set2 : List SetEntry := [⟨BitVec.ofNat 26 R.ALT_RM_CFG.at, 1, 0xFFFF⟩]

/-! ### A good firmware slot -/

/-- Zeros at `n` addresses from `a` on. -/
def zeros : Nat → Nat → SMap Byte
  | _, 0 => []
  | a, n + 1 => (a, 0) :: zeros (a + 1) n
theorem mget_zeros (n : Nat) : ∀ a k, a ≤ k → k < a + n → mget (zeros a n) k = some 0 := by
  induction n with
  | zero => intro a k h1 h2; omega
  | succ n ih =>
    intro a k h1 h2
    by_cases h : a = k
    · simp [zeros, mget, h]
    · simp only [zeros, mget, h, if_false]
      exact ih (a + 1) k (by omega) (by omega)
theorem mget_past (m : SMap Byte) : ∀ l : SMap Byte, ∀ k, (∀ x ∈ l, x.1 ≠ k) → mget (l ++ m) k = mget m k
  | [], _, _ => rfl
  | (a, v) :: l, k, h => by
    have h1 := h (a, v) (by simp)
    simp only [List.cons_append, mget, h1, if_false]
    exact mget_past m l k (fun x hx => h x (by simp [hx]))
theorem leNat_zeros (n : Nat) : leNat (List.replicate n 0#8) = 0 := by
  induction n with
  | zero => rfl
  | succ n ih => simp [List.replicate_succ, leNat, ih]
/-- The header of an image without a body, signed under root key 0. -/
def head0 : SMap Byte :=
  (ascii ['F', 'Z', '2', 'S', 'U', 'P', 'V'] ++ [0#8, 1, 0] ++ List.replicate 86 0).mapIdx (fun i v => (i, v))
def good0 : SMap Byte := head0 ++ zeros 0x60 4000
/-- A device whose slot A, or B, holds that image. -/
def imgDev (b : Bool) : State :=
  { dev with
    fw := ⟨if b then [(0, 0)] else good0, if b then good0 else [(0, 0)], false⟩
    fuses := { dev.fuses with svn := 0, keyMin := 0, rootHash := [shake256 (List.replicate 64 0) 32] } }
theorem good_rest (s : State) (b : Bool) (h : (if b then s.fw.slotB else s.fw.slotA) = good0) : s.fwNat b 0x060 4000 = 0 := by
  have : s.fwBytes b 0x060 4000 = List.replicate 4000 0#8 := by
    refine List.eq_replicate_iff.mpr ⟨by simp [State.fwBytes], fun x hx => ?_⟩
    simp only [State.fwBytes, List.mem_map, List.mem_range] at hx
    obtain ⟨i, hi, rfl⟩ := hx
    have hk : ∀ x ∈ head0, x.1 < 0x60 := by decide +kernel
    rw [h, mgetD, good0, mget_past _ _ _ (fun x hx => by have := hk x hx; omega), mget_zeros _ _ _ (by omega) (by omega)]
    rfl
  rw [State.fwNat, this, leNat_zeros]
theorem good_check (s : State) (b : Bool) (hv : ∀ k c m g, Config.slhVerify k c m g = true)
    (h : (if b then s.fw.slotB else s.fw.slotA) = good0)
    (h1 : decide (s.fwBytes b 0 8 = ascii ['F', 'Z', '2', 'S', 'U', 'P', 'V'] ++ [0#8] ∧ s.fwNat b 8 2 = 1 ∧ s.fwNat b 0x018 8 = 0 ∧
      s.fwBody b = 0 ∧ s.fwKey b = 0 ∧ s.fuses.keyMin = 0 ∧ shake256 (s.fwBytes b 0x020 64) 32 = nth s.fuses.rootHash 0 [] ∧ s.fuses.svn = 0) = true) :
    s.fwCheck b false = 0 := by
  obtain ⟨a1, a2, a3, a4, a5, a6, a7, a8⟩ := of_decide_eq_true h1
  unfold State.fwCheck
  rw [a1, a2, a3, good_rest s b h, a4, a5, a6, a7, a8, hv]
  simp

/-! ## Witnesses

Each theorem shows, clause by clause, a state and operands that meet the hypotheses of the statement it names. -/

/-- An image that passes, in slot A and in slot B, where the signature check, which the spec leaves to the algorithm, says that it verifies. -/
theorem test_meets_PowerAndBootEventsTakeEffect_images (hv : ∀ k c m g, Config.slhVerify k c m g = true) :
    (∃ (s : State) (d : Bool), s.fwCheck s.fw.activeB d = 0) ∧
    (∃ (s : State) (d : Bool), s.fwCheck s.fw.activeB d ≠ 0 ∧ s.fwCheck (!s.fw.activeB) false = 0) :=
  ⟨⟨imgDev false, false, good_check _ false hv rfl (by decide +kernel)⟩,
   ⟨imgDev true, false, by decide +kernel, good_check _ true hv rfl (by decide +kernel)⟩⟩
/-- A device with an open session of the owner and a good image in the slot that is not active. -/
def fwS : State := { imgDev true with mgmt := devS.mgmt }
/-- The activation of that image, where the signature check says that it verifies. -/
theorem test_meets_CommandsTakeTheirEffect_activation (hv : ∀ k c m g, Config.slhVerify k c m g = true) :
    ∃ (s u v : State) (h : MgmtHdr) (r : Nat) (y : Session), Admitted s h 0x31 (some ownerRole) [] u r y ∧ u.mgmt.roll = none ∧
      v = u.showFail (!u.fw.activeB) (u.fwCheck (!u.fw.activeB) false) ∧ u.fwCheck (!u.fw.activeB) false = 0 ∧
      v.f F.SEC_BOOT_STAT_MODE ≠ 2 ∧ v.rollBarred (!u.fw.activeB) = false := by
  have hc : (inS fwS).fwCheck (!(inS fwS).fw.activeB) false = 0 := good_check _ true hv rfl (by decide +kernel)
  refine ⟨fwS, inS fwS, (inS fwS).showFail true 0, hdrS 0x31 [], 0, sesS fwS, admitted (by decide +kernel), by decide +kernel, ?_, hc,
    by decide +kernel, by decide +kernel⟩
  rw [hc]
  rfl

theorem test_meets_TimebaseFollowsItsSources :
    (∃ (s : State) (a b c : Bool), s.tb.locked = false ∧ (a || b || c) = true) ∧
    (∃ (s : State), s.tb.locked = true ∧ s.f F.GLB_TIME_STATUS_SOURCE = 3) ∧
    (∃ (s : State) (k : Fin 3), s.tb.locked = true ∧ k.val < s.f F.GLB_TIME_STATUS_SOURCE ∧ s.f F.GLB_TIME_STATUS_SOURCE ≠ 3 ∧ nth s.tb.present k.val false = true ∧ nth s.tb.presentAt k.val 0 + 10000000 ≤ s.now) ∧
    (∃ (s : State) (k : Fin 3), s.tb.locked = true ∧ s.f F.GLB_TIME_STATUS_SOURCE = k.val ∧ firstSource (s.setPresent k.val false).tb.present < 3 ∧ firstSource (s.setPresent k.val false).tb.present ≠ k.val) ∧
    (∃ (s : State), s.slewDue = true ∧ s.adjRemain < 0) ∧
    (∃ (s : State), s.slewDue = true ∧ 0 < s.adjRemain ∧ s.fabric.runs = [] ∧ s.fabric.paused = [] ∧ s.ringRuns = [] ∧ s.cores = [] ∧ s.serve.runs = [] ∧ s.now + 2 < 2 ^ 64) ∧
    (∃ (s : State), s.tb.locked = true ∧ 1000000 ≤ s.now - s.tb.rateStart.toNat) ∧
    (∃ (s : State) (n : Fin 64), s.comparatorDue n.val = true ∧ s.ownsFence (s.f F.GLB_CMP_CTRL_OWNER_JOB n.val) (s.f F.GLB_CMP_CTRL_FENCE n.val) = true ∧ s.fenceValue (s.f F.GLB_CMP_CTRL_FENCE n.val) < fenceMax) ∧
    (∃ (s : State) (site : BitVec 12) (m : BitVec 8), s.siteExists site.toNat = true ∧ 16 ≤ m.toNat ∧ m.toNat < s.f F.GLB_MARGIN_WORST) ∧
    (∃ (s u : State) (site : BitVec 12) (m : BitVec 8), s.siteExists site.toNat = true ∧ u = (if m.toNat < s.f F.GLB_MARGIN_WORST then s.setF F.GLB_MARGIN_WORST m.toNat else s)) :=
  ⟨⟨dev, true, false, false, by decide +kernel, by decide +kernel⟩,
   ⟨(devT 0).setF F.GLB_TIME_STATUS_SOURCE 3, by decide +kernel, by decide +kernel⟩,
   ⟨({ devT 20000000 with tb := { (devT 20000000).tb with present := [true, true, false], presentAt := [0, 0, 0] } }).setF F.GLB_TIME_STATUS_SOURCE 2, 1, by decide +kernel, by decide +kernel, by decide +kernel, by decide +kernel, by decide +kernel⟩,
   ⟨({ devT 0 with tb := { (devT 0).tb with present := [true, true, false] } }).setF F.GLB_TIME_STATUS_SOURCE 0, 0, by decide +kernel, by decide +kernel, by decide +kernel, by decide +kernel⟩,
   ⟨({ devT 0 with tb := { (devT 0).tb with slewPhase := 999 } }).setF F.GLB_TIME_STATUS_ADJ_REMAIN 0xFFFFFFFF, by decide +kernel, by decide +kernel⟩,
   ⟨({ devT 0 with tb := { (devT 0).tb with slewPhase := 999 } }).setF F.GLB_TIME_STATUS_ADJ_REMAIN 1, by decide +kernel, by decide +kernel, by decide +kernel, by decide +kernel, by decide +kernel, by decide +kernel, by decide +kernel, by decide +kernel⟩,
   ⟨devT 1000000, by decide +kernel, by decide +kernel⟩,
   ⟨fields [(F.GLB_CMP_CTRL_EN, 1, 63), (F.GLB_CMP_CTRL_OWNED, 1, 63), (F.QE_JOB_FENCE_COUNT, 1, 0)] (devT 5), 63, by decide +kernel, by decide +kernel, by decide +kernel⟩,
   ⟨dev, 0, 16, by decide +kernel, by decide +kernel, by decide +kernel⟩,
   ⟨dev, (if (7 : BitVec 8).toNat < dev.f F.GLB_MARGIN_WORST then dev.setF F.GLB_MARGIN_WORST (7 : BitVec 8).toNat else dev), 63, 7, by decide +kernel, rfl⟩⟩

theorem test_meets_GovernorRequestsTheLowestVoltage :
    (∃ (s : State), s.f F.SEC_BOOT_STAT_MODE = 1 ∧ s.fb F.PWR_STAT_TRIPPED = false) ∧
    (∃ (s : State), s.f F.SEC_BOOT_STAT_MODE = 1 ∧ s.fb F.PWR_STAT_TRIPPED = false) ∧
    (∃ (s : State) (die : Fin 2) (v : Nat), die.val = 0 ∧ s.power.ceilW = some v ∧ s.power.ceilWEnd ≤ s.now) ∧
    (∃ (s : State) (die : Fin 2) (v : Nat), die.val = 1 ∧ s.power.ceilE = some v ∧ s.power.ceilEEnd ≤ s.now) ∧
    (∃ (s u v w : State) (die : Fin 2) (n : Fin 16), s.power.good = true ∧ s.fb F.PWR_STAT_TRIPPED = false ∧ u = (s.limitSteps (n.val + 1) die.val).count F.SEC_PLINTH_STAT_CURRENT_EVENTS ∧ (v = (if s.spanningActive ∨ die.val = 0 then u.setCeiling 0 (u.f F.PWR_STAT_VID_W) else u)) ∧ (w = (if s.spanningActive ∨ die.val = 1 then v.setCeiling 1 (v.f F.PWR_STAT_VID_E) else v))) ∧
    (∃ (s : State), s.power.good = true ∧ s.fb F.PWR_STAT_TRIPPED = false ∧ s.spanningActive = false ∧ 720 ≤ s.f F.PWR_STAT_VID_W ∧ 700 ≤ s.f F.PWR_STAT_VID_E) :=
  ⟨⟨dev, by decide +kernel, by decide +kernel⟩,
   ⟨dev, by decide +kernel, by decide +kernel⟩,
   ⟨{ devT 5 with power := { dev.power with ceilW := some 700, ceilWEnd := 5 } }, 0, 700, by decide +kernel, by decide +kernel, by decide +kernel⟩,
   ⟨{ devT 5 with power := { dev.power with ceilE := some 700, ceilEEnd := 5 } }, 1, 700, by decide +kernel, by decide +kernel, by decide +kernel⟩,
   ⟨dev, ((dev.limitSteps ((15 : Fin 16).val + 1) (1 : Fin 2).val).count F.SEC_PLINTH_STAT_CURRENT_EVENTS), (if dev.spanningActive ∨ (1 : Fin 2).val = 0 then ((dev.limitSteps ((15 : Fin 16).val + 1) (1 : Fin 2).val).count F.SEC_PLINTH_STAT_CURRENT_EVENTS).setCeiling 0 (((dev.limitSteps ((15 : Fin 16).val + 1) (1 : Fin 2).val).count F.SEC_PLINTH_STAT_CURRENT_EVENTS).f F.PWR_STAT_VID_W) else ((dev.limitSteps ((15 : Fin 16).val + 1) (1 : Fin 2).val).count F.SEC_PLINTH_STAT_CURRENT_EVENTS)), (if dev.spanningActive ∨ (1 : Fin 2).val = 1 then (if dev.spanningActive ∨ (1 : Fin 2).val = 0 then ((dev.limitSteps ((15 : Fin 16).val + 1) (1 : Fin 2).val).count F.SEC_PLINTH_STAT_CURRENT_EVENTS).setCeiling 0 (((dev.limitSteps ((15 : Fin 16).val + 1) (1 : Fin 2).val).count F.SEC_PLINTH_STAT_CURRENT_EVENTS).f F.PWR_STAT_VID_W) else ((dev.limitSteps ((15 : Fin 16).val + 1) (1 : Fin 2).val).count F.SEC_PLINTH_STAT_CURRENT_EVENTS)).setCeiling 1 ((if dev.spanningActive ∨ (1 : Fin 2).val = 0 then ((dev.limitSteps ((15 : Fin 16).val + 1) (1 : Fin 2).val).count F.SEC_PLINTH_STAT_CURRENT_EVENTS).setCeiling 0 (((dev.limitSteps ((15 : Fin 16).val + 1) (1 : Fin 2).val).count F.SEC_PLINTH_STAT_CURRENT_EVENTS).f F.PWR_STAT_VID_W) else ((dev.limitSteps ((15 : Fin 16).val + 1) (1 : Fin 2).val).count F.SEC_PLINTH_STAT_CURRENT_EVENTS)).f F.PWR_STAT_VID_E) else (if dev.spanningActive ∨ (1 : Fin 2).val = 0 then ((dev.limitSteps ((15 : Fin 16).val + 1) (1 : Fin 2).val).count F.SEC_PLINTH_STAT_CURRENT_EVENTS).setCeiling 0 (((dev.limitSteps ((15 : Fin 16).val + 1) (1 : Fin 2).val).count F.SEC_PLINTH_STAT_CURRENT_EVENTS).f F.PWR_STAT_VID_W) else ((dev.limitSteps ((15 : Fin 16).val + 1) (1 : Fin 2).val).count F.SEC_PLINTH_STAT_CURRENT_EVENTS))), 1, 15, by decide +kernel, by decide +kernel, rfl, rfl, rfl⟩,
   ⟨dev.setF F.PWR_STAT_VID_W 720, by decide +kernel, by decide +kernel, by decide +kernel, by decide +kernel, by decide +kernel⟩⟩

theorem test_meets_PowerAndBootEventsTakeEffect :
    (∃ (s : State), s.power.good = false) ∧
    (∃ (s u : State), s.power.good = true ∧ u = s.poweredOff) ∧
    (∃ (s : State), s.mayReady = true ∧ s.f F.SEC_BOOT_STAT_MODE = 0) ∧
    (∃ (s u v : State) (cal : List CalRecord), s.mayReady = true ∧ u = (if s.f F.SEC_BOOT_STAT_MODE = 0 then s.zeroAll.columnMaps else s) ∧ v = cal.foldl (fun s r => s.putRecord r) u.firmwareValues) ∧
    (∃ (s : State), s.power.good = true ∧ s.fb F.GLB_BOARD_PWRFAIL = false) ∧
    (∃ (s : State), s.fb F.GLB_BOARD_PWRFAIL = true) ∧
    (∃ (s : State), s.power.good = true ∧ s.fb F.GLB_BOARD_PWRFAIL = false) ∧
    (∃ (s : State), s.power.good = true ∧ s.fb F.PWR_STAT_TRIPPED = false) ∧
    (∃ (s : State) (d : Bool), s.fwCheck s.fw.activeB d ≠ 0 ∧ s.fwCheck (!s.fw.activeB) false ≠ 0) ∧
    (∃ (s : State), s.mayRestart = true) :=
  ⟨⟨State.reset, by decide +kernel⟩,
   ⟨dev, dev.poweredOff, by decide +kernel, rfl⟩,
   ⟨{ State.reset with power := { State.reset.power with good := true, imageOk := true } }, by decide +kernel, by decide +kernel⟩,
   ⟨{ State.reset with power := { State.reset.power with good := true, imageOk := true } }, (if ({ State.reset with power := { State.reset.power with good := true, imageOk := true } } : State).f F.SEC_BOOT_STAT_MODE = 0 then (({ State.reset with power := { State.reset.power with good := true, imageOk := true } } : State).zeroAll.columnMaps) else ({ State.reset with power := { State.reset.power with good := true, imageOk := true } } : State)), [calOf 1 0].foldl (fun s r => s.putRecord r) ((if ({ State.reset with power := { State.reset.power with good := true, imageOk := true } } : State).f F.SEC_BOOT_STAT_MODE = 0 then (({ State.reset with power := { State.reset.power with good := true, imageOk := true } } : State).zeroAll.columnMaps) else ({ State.reset with power := { State.reset.power with good := true, imageOk := true } } : State))).firmwareValues, [calOf 1 0], by decide +kernel, rfl, rfl⟩,
   ⟨dev, by decide +kernel, by decide +kernel⟩,
   ⟨dev.setF F.GLB_BOARD_PWRFAIL 1, by decide +kernel⟩,
   ⟨dev, by decide +kernel, by decide +kernel⟩,
   ⟨dev, by decide +kernel, by decide +kernel⟩,
   ⟨{ dev with fw := fwBad }, false, by decide +kernel, by decide +kernel⟩,
   ⟨{ dev with power := { dev.power with stopped := true } }, by decide +kernel⟩⟩

theorem test_meets_RecordsAreTakenAndComplete_1 :
    (∃ (s : State) (o : Origin) (q : QId) (j : BitVec 12) (i : Fin 7) (off : BitVec 18) (bs : List Byte), s.windowOpen o q.val = true ∧ off.toNat = 64 * j.toNat + 8 * i.val ∧ bs.length = 8 ∧ (s.slot q.val j.toNat).held = false) ∧
    (∃ (s : State) (o : Origin) (q : QId), s.windowOpen o q.val = false) ∧
    (∃ (s : State) (o : Origin) (q : QId) (j : BitVec 12) (w : W64), s.windowOpen o q.val = true ∧ (s.slot q.val j.toNat).held = false ∧ s.sealReason q.val j.toNat w = 0 ∧ s.f F.QE_Q_TAIL_TAIL_SEQ q.val % 4096 ≠ j.toNat ∧ (s.slot q.val (s.f F.QE_Q_TAIL_TAIL_SEQ q.val % 4096)).held = false) ∧
    (∃ (s : State) (o : Origin) (q : QId) (j : BitVec 12) (w : W64), s.windowOpen o q.val = true ∧ (s.slot q.val j.toNat).held = false ∧ s.sealReason q.val j.toNat w = 0 ∧ bitsOf w 0 48 = s.f F.QE_Q_TAIL_TAIL_SEQ q.val ∧ (s.slot q.val j.toNat).words.length = 8 ∧ (s.slot q.val ((s.f F.QE_Q_TAIL_TAIL_SEQ q.val + 1) % 4096)).held = false) ∧
    (∃ (s : State) (o : Origin) (q : QId) (j : BitVec 12) (w : W64), s.windowOpen o q.val = true ∧ (s.slot q.val j.toNat).held = false ∧ s.sealReason q.val j.toNat w ≠ 0) ∧
    (∃ (s : State) (q j : Nat), MemoryCanonical s ∧ msorted (s.queue q).slots = true ∧ s.ringAddr q (s.f F.QE_Q_TAIL_TAIL_SEQ q) + 64 ≤ plainBase ∧ (s.slot q j).words.length = 8) ∧
    (∃ (s : State) (q : QId) (r : Rec), Starts specNop s q.val r ∧ r.opcode = 0x01) :=
  ⟨⟨dev, .port 0, 0, 4095, 6, 0x3FFF0, List.replicate 8 0, by decide +kernel, by decide +kernel, by decide +kernel, by decide +kernel⟩,
   ⟨dev, .port 1, 0, by decide +kernel⟩,
   ⟨dev.setSlot 0 1 (slotFull 1), .port 0, 0, 1, sealOf (slotFull 1) 1, by decide +kernel, by decide +kernel, by decide +kernel, by decide +kernel, by decide +kernel⟩,
   ⟨dev.setSlot 0 0 (slotFull 1), .port 0, 0, 0, sealOf (slotFull 1) 0, by decide +kernel, by decide +kernel, by decide +kernel, by decide +kernel, by decide +kernel, by decide +kernel⟩,
   ⟨dev, .port 0, 0, 0, 0, by decide +kernel, by decide +kernel, by decide +kernel⟩,
   ⟨dev, 0, 0, canonical (by decide +kernel), by decide +kernel, by decide +kernel, by decide +kernel⟩,
   ⟨put (cmd 1) dev, 0, cmd 1, starts rfl (by decide +kernel), by decide +kernel⟩⟩

theorem test_meets_RecordsAreTakenAndComplete_2 :
    (∃ (s : State) (q : QId) (r : Rec), Starts specFenceSignal s q.val r ∧ r.opcode = 0x02) ∧
    (∃ (s : State) (q : QId) (r : Rec), Starts specFenceWait s q.val r ∧ r.opcode = 0x03) ∧
    (∃ (s : State) (q : QId) (r : Rec) (f v l t0 : Nat), s.headRec q.val = some r ∧ s.headWait q.val = some (f, v, l) ∧ s.queueOpen q.val = true ∧ v ≤ s.fenceValue f ∧ s.fenceErr f = false ∧ (s.queue q.val).head = .waitFence t0 ∧ r.opcode ≠ 0x03 ∧ s.headHeld (specOf r) q.val r = false ∧ (specOf r).owns s q.val r = true) ∧
    (∃ (s : State) (q : QId) (r : Rec) (f v l : Nat), s.headRec q.val = some r ∧ s.headWait q.val = some (f, v, l) ∧ s.queueOpen q.val = true ∧ v ≤ s.fenceValue f ∧ s.fenceErr f = true) ∧
    (∃ (s : State) (q : QId) (r : Rec) (f v l : Nat), s.headRec q.val = some r ∧ s.headWait q.val = some (f, v, l) ∧ s.queueOpen q.val = true ∧ s.fenceValue f < v ∧ l ≤ s.now) ∧
    (∃ (s : State) (q : QId), s.fb F.QE_Q_IRQ_EN q.val = true ∧ 0 < (s.queue q.val).unraised ∧ (s.queue q.val).oldest + 1000 * s.f F.QE_Q_IRQ_DELAY q.val ≤ s.now) :=
  ⟨⟨put (cmd 2) (dev.setF F.QE_JOB_FENCE_COUNT 1), 0, cmd 2, starts rfl (by decide +kernel), by decide +kernel⟩,
   ⟨put (cmd 3) (dev.setF F.QE_JOB_FENCE_COUNT 1), 0, cmd 3, starts rfl (by decide +kernel), by decide +kernel⟩,
   ⟨headAt (.waitFence 0) (put (cmd 0x101) dev), 0, cmd 0x101, 0, 0, 2 ^ 30, 0, by decide +kernel, by decide +kernel, by decide +kernel, by decide +kernel, by decide +kernel, by decide +kernel, by decide +kernel, by decide +kernel, by decide +kernel⟩,
   ⟨(headAt (.waitFence 0) (put (cmd 0x101) dev)).setF F.QE_FENCE_ERR 1, 0, cmd 0x101, 0, 0, 2 ^ 30, by decide +kernel, by decide +kernel, by decide +kernel, by decide +kernel, by decide +kernel⟩,
   ⟨headAt (.waitFence 0) (put (cmd 0x101 [(1, 0, 64, 1)]) (devT (2 ^ 30))), 0, cmd 0x101 [(1, 0, 64, 1)], 0, 1, 2 ^ 30, by decide +kernel, by decide +kernel, by decide +kernel, by decide +kernel, by decide +kernel⟩,
   ⟨(dev.setQueue 0 { dev.queue 0 with unraised := 1 }).setF F.QE_Q_IRQ_EN 1, 0, by decide +kernel, by decide +kernel, by decide +kernel⟩⟩

theorem test_meets_SignalsMoveFencesForward :
    (∃ (s : State) (n f : Nat), s.ownsFence n f = true) ∧
    (∃ (s : State) (n f : Nat), s.ownsFence n f = false) ∧
    (∃ (r : Rec), r.signal = true) ∧
    (∃ (r : Rec), r.signal = false) :=
  ⟨⟨dev.setF F.QE_JOB_FENCE_COUNT 1, 0, 0, by decide +kernel⟩,
   ⟨dev, 0, 0, by decide +kernel⟩,
   ⟨cmd 0x201, by decide +kernel⟩,
   ⟨cmd 1, by decide +kernel⟩⟩

theorem test_meets_CompletionsAreWrittenInOrder :
    (∃ (r : Rec) (st : Status), (r.quiet && st == .ok) = true) ∧
    (∃ (s : State) (q seq : Nat) (r : Rec) (st : Status), r.signal = false ∧ (r.quiet && st == .ok) = false ∧ s.orphan q seq = false ∧ MemoryCanonical s ∧ 2 ≤ s.f F.QE_Q_CTRL_PORT q ∧ s.fb F.QE_Q_IRQ_EN q = false) ∧
    (∃ (s : State) (q seq : Nat) (x : Flight), s.flight q seq = some x) :=
  ⟨⟨cmd 0x801, .ok, by decide +kernel⟩,
   ⟨dev.setF F.QE_Q_CTRL_PORT 2, 0, 0, cmd 1, .ok, by decide +kernel, by decide +kernel, by decide +kernel, canonical (by decide +kernel), by decide +kernel, by decide +kernel⟩,
   ⟨flying dev [flightOf (cmd 1)], 0, 0, flightOf (cmd 1), by decide +kernel⟩⟩

theorem test_meets_TransactionsOpenCommitAndAbort :
    (∃ (s : State) (q : QId) (r : Rec), Starts specTxBegin s q.val r ∧ r.opcode = 0x04 ∧ s.scopeHeld (bitsOf r.w3 0 2) (bitsOf r.w3 8 8) = none) ∧
    (∃ (s : State) (q : QId) (r : Rec) (t : Tx), Starts specTxCommit s q.val r ∧ r.opcode = 0x05 ∧ (s.takeHead q.val 0 r).txFor q.val r = .ok t ∧ (s.takeHead q.val 0 r).validate t = none) ∧
    (∃ (s u : State) (h : BitVec 16) (t : Tx) (bad : Bool), s.committingTx h.toNat = some t ∧ s.quiet t = true ∧ s.validate t = none ∧ (bad && s.burnsKey t) = false ∧ s.ordered t = .ok u) ∧
    (∃ (s : State) (h : BitVec 16) (t : Tx), s.committingTx h.toNat = some t ∧ s.quiet t = true ∧ s.validate t = none ∧ s.burnsKey t = true) ∧
    (∃ (s : State) (h : BitVec 16) (t : Tx), s.committingTx h.toNat = some t ∧ s.quiet t = false ∧ t.since + t.timeout ≤ s.now) ∧
    (∃ (s : State) (q : QId) (r : Rec) (t : Tx), Starts specTxAbort s q.val r ∧ r.opcode = 0x06 ∧ (s.takeHead q.val 0 r).ownTx q.val r = some t) ∧
    (∃ (s : State), 0 < s.nextHandle ∧ s.nextHandle ≤ 0xFFFF) ∧
    (∃ (s : State) (h : Nat) (t : Tx), s.tx h = some t ∧ t.committing = false) ∧
    (∃ (s u : State) (t : Tx) (off : Nat) (v mask : W64), s.stageSet t off v mask = .ok u) ∧
    (∃ (t : Tx) (off : Nat) (x : RegInfo) (i j : Nat), regAt? off = some (x, i, j) ∧ x.scope ≠ t.scope) ∧
    (∃ (s : State) (h : Nat), s.tx h = none) :=
  ⟨⟨put (cmd 4 [(3, 0, 2, 1)]) dev, 0, cmd 4 [(3, 0, 2, 1)], starts rfl (by decide +kernel), by decide +kernel, by decide +kernel⟩,
   ⟨put (cmd 0x10005) { dev with txs := [txOf .partition] }, 0, cmd 0x10005, txOf .partition, starts rfl (by decide +kernel), by decide +kernel, by decide +kernel, by decide +kernel⟩,
   ⟨{ dev with txs := [txc] }, okOr dev (State.ordered { dev with txs := [txc] } txc), 1, txc, true, by decide +kernel, by decide +kernel, by decide +kernel, by decide +kernel, ok_eq dev (by decide +kernel)⟩,
   ⟨({ dev with txs := [txBurn] }), 1, txBurn, by decide +kernel, by decide +kernel, by decide +kernel, by decide +kernel⟩,
   ⟨({ (flying (devT 5) [flightOf (cmd 0x09 [(4, 8, 8, 1)])]) with txs := [txHeld] }), 1, txHeld, by decide +kernel, by decide +kernel, by decide +kernel⟩,
   ⟨put (cmd 0x10006) { dev with txs := [txOf .partition] }, 0, cmd 0x10006, txOf .partition, starts rfl (by decide +kernel), by decide +kernel, by decide +kernel⟩,
   ⟨{ dev with nextHandle := 0xFFFF }, by decide +kernel, by decide +kernel⟩,
   ⟨{ dev with txs := [txOf .job] }, 1, txOf .job, by decide +kernel, by decide +kernel⟩,
   ⟨dev, okOr dev (dev.stageSet (txOf .job) R.ALT_RM_CFG.at 1 0xFFFF), txOf .job, R.ALT_RM_CFG.at, 1, 0xFFFF, ok_eq _ (by decide +kernel)⟩,
   ⟨txOf .partition, R.PWR_GOV.at, (regOf R.PWR_GOV.at).1, (regOf R.PWR_GOV.at).2.1, (regOf R.PWR_GOV.at).2.2, by decide +kernel, by decide +kernel⟩,
   ⟨dev, 1, by decide +kernel⟩⟩

theorem test_meets_SetAndGetReachRegisters :
    (∃ (s u : State) (q : QId) (r : Rec) (x : RegInfo) (i j : Nat), Starts specSet s q.val r ∧ r.opcode = 0x40 ∧ r.tx = 0 ∧ r.barOffset ≠ R.TR_CCACHE_UNPIN.at ∧ regAt? r.barOffset = some (x, i, j) ∧ r.w5 &&& lockedBits x = 0 ∧ r.w5 ≠ 0 ∧ (s.takeHead q.val 0 r).mayWrite (.set q.val) r.barOffset x.reg i = true ∧ (s.takeHead q.val 0 r).applyWrite (.set q.val) r.barOffset r.w4 r.w5 = some u) ∧
    (∃ (s : State) (q : QId) (r : Rec) (x : RegInfo) (i j : Nat), Starts specSet s q.val r ∧ r.opcode = 0x40 ∧ r.tx = 0 ∧ r.barOffset ≠ R.TR_CCACHE_UNPIN.at ∧ regAt? r.barOffset = some (x, i, j)) ∧
    (∃ (s u : State) (q : QId) (r : Rec) (t : Tx), Starts specSet s q.val r ∧ r.opcode = 0x40 ∧ r.tx ≠ 0 ∧ (s.takeHead q.val 0 r).txFor q.val r = .ok t ∧ (s.takeHead q.val 0 r).stageSet t r.barOffset r.w4 r.w5 = .ok u) ∧
    (∃ (s : State) (q : QId) (r : Rec) (x : HotImage), Starts specSet s q.val r ∧ r.opcode = 0x40 ∧ r.tx = 0 ∧ r.barOffset = R.TR_CCACHE_UNPIN.at ∧ r.w5 ≠ 0 ∧ mget s.casts.hot (bitsOf (r.w4 &&& r.w5) 0 8) = some x ∧ x.pins.contains (s.queueJob q.val) = true) ∧
    (∃ (s : State) (q : QId) (r : Rec), Starts specGet s q.val r ∧ r.opcode = 0x41 ∧ r.tx = 0) :=
  ⟨⟨put cSet dev, ((putTaken cSet specSet dev).applyWrite (.set 0) R.QE_Q_IRQ.at 0x800 0x800).getD dev, 0, cSet, (regOf R.QE_Q_IRQ.at).1, (regOf R.QE_Q_IRQ.at).2.1, (regOf R.QE_Q_IRQ.at).2.2, starts rfl (by decide +kernel), by decide +kernel, by decide +kernel, by decide +kernel, by decide +kernel, by decide +kernel, by decide +kernel, by decide +kernel, some_eq _ (by decide +kernel)⟩,
   ⟨put cSet dev, 0, cSet, (regOf R.QE_Q_IRQ.at).1, (regOf R.QE_Q_IRQ.at).2.1, (regOf R.QE_Q_IRQ.at).2.2, starts rfl (by decide +kernel), by decide +kernel, by decide +kernel, by decide +kernel, by decide +kernel⟩,
   ⟨put cSetTx devTx, okOr devTx ((putTaken cSetTx specSet devTx).stageSet (txOf .job) R.ALT_RM_CFG.at 1 0xFFFF), 0, cSetTx, txOf .job, starts rfl (by decide +kernel), by decide +kernel, by decide +kernel, by decide +kernel, ok_eq _ (by decide +kernel)⟩,
   ⟨put cUnpin devHot, 0, cUnpin, hot0, starts rfl (by decide +kernel), by decide +kernel, by decide +kernel, by decide +kernel, by decide +kernel, by decide +kernel, by decide +kernel⟩,
   ⟨put (cmd 0x41) dev, 0, cmd 0x41, starts rfl (by decide +kernel), by decide +kernel, by decide +kernel⟩⟩

theorem test_meets_RegisterWritesFollowAccessCodes :
    (∃ (s u : State) (via : Via) (off : BitVec 26) (v : W64) (t : RegInfo) (i j : Nat), off.toNat % 8 = 0 ∧ off.toNat < 0x2000000 ∧ regAt? off.toNat = some (t, i, j) ∧ s.regPresent off.toNat t.reg i = true ∧ s.barServes off.toNat = true ∧ s.mayWrite (.direct via) off.toNat t.reg i = true ∧ s.writeReg (.direct via) t i j off.toNat v (fieldMask 0 64) = some u) ∧
    (∃ (s : State) (via : Via) (off : BitVec 26) (t : RegInfo) (i j : Nat), off.toNat % 8 = 0 ∧ off.toNat < 0x2000000 ∧ regAt? off.toNat = some (t, i, j) ∧ s.regPresent off.toNat t.reg i = true ∧ s.mayWrite (.direct via) off.toNat t.reg i = false) ∧
    (∃ (k : Nat), k < 64) :=
  ⟨⟨dev, (dev.writeReg (.direct (.port 0)) (regOf R.QE_Q_IRQ.at).1 0 0 R.QE_Q_IRQ.at 0x800 (fieldMask 0 64)).getD dev, .port 0, BitVec.ofNat 26 R.QE_Q_IRQ.at, 0x800, (regOf R.QE_Q_IRQ.at).1, 0, 0, by decide +kernel, by decide +kernel, by decide +kernel, by decide +kernel, by decide +kernel, by decide +kernel, some_eq _ (by decide +kernel)⟩,
   ⟨dev, .port 1, BitVec.ofNat 26 R.QE_Q_IRQ.at, (regOf R.QE_Q_IRQ.at).1, 0, 0, by decide +kernel, by decide +kernel, by decide +kernel, by decide +kernel, by decide +kernel⟩,
   ⟨63, by decide +kernel⟩⟩

theorem test_meets_RegistersActForTheirOwners_1 :
    (∃ (s : State) (p : PortId) (w : Fin 16) (v : W64), s.barServes (R.GLB_HWIN_SIZE.at p.val w.val) = true ∧ hwinBad (s.r R.GLB_HWIN_BASE p.val w.val) v = false) ∧
    (∃ (s : State) (p : PortId) (v : W64), s.barServes (R.GLB_APERTURE.at p.val) = true ∧ s.jobValid (bitsOf v 1 8) = true ∧ s.f F.QE_JOB_CTRL_OWNER_PORT (bitsOf v 1 8) = p.val) ∧
    (∃ (s : State) (p : PortId) (n : Fin 64) (v : W64), s.f F.QE_JOB_CTRL_OWNER_PORT (s.f F.GLB_CMP_CTRL_OWNER_JOB n.val) = p.val ∧ s.jobValid (s.f F.GLB_CMP_CTRL_OWNER_JOB n.val) = true ∧ s.fb F.GLB_CMP_CTRL_OWNED n.val = true ∧ bitOf v 0 = false ∧ s.comparatorFence n.val v = true) ∧
    (∃ (s : State) (p : PortId) (q : QId) (v : W64), s.barServes (R.QE_Q_CQ.at q.val) = true ∧ s.bound q.val = true ∧ s.f F.QE_Q_CTRL_PORT q.val = p.val ∧ (s.queue q.val).flights = [] ∧ v.toNat % (32 * s.cqSize q.val) = 0) ∧
    (∃ (s : State) (p : PortId) (q : QId) (v : W64), s.barServes (R.QE_Q_CQ_HEAD.at q.val) = true ∧ s.bound q.val = true ∧ s.jobPort (.port p) (s.queueJob q.val) = true ∧ (bitsOf v 0 16 + 2 ^ 16 - s.f F.QE_Q_CQ_HEAD_CQ_HEAD q.val) % s.cqSize q.val ≤ (s.queue q.val).cqUsed) ∧
    (∃ (s : State) (p : PortId) (o : QId) (v : W64), s.fb F.SRV_OUT_CTRL_VALID o.val = true ∧ s.jobPort (.port p) (s.f F.SRV_OUT_CTRL_OWNER_JOB o.val) = true ∧ (v.toNat % 2 ^ 20 + 2 ^ 20 - s.f F.SRV_OUT_HEAD_HEAD o.val) % 2 ^ s.f F.SRV_OUT_CTRL_LOG2 o.val ≤ (s.outRing o.val).used) ∧
    (∃ (s : State) (p : PortId) (n : JobId) (v : W64), s.barServes (R.FLT_NAN_INFO.at n.val) = true ∧ s.jobPort (.port p) n.val = true ∧ bitOf v 0 = true) ∧
    (∃ (s : State) (p : PortId) (n : JobId) (v : W64), s.running = true ∧ s.jobPort (.port p) n.val = true ∧ bitOf v 63 = false) :=
  ⟨⟨dev, 0, 15, 0x1001, by decide +kernel, by decide +kernel⟩,
   ⟨dev, 1, 3, by decide +kernel, by decide +kernel, by decide +kernel⟩,
   ⟨fields [(F.GLB_CMP_CTRL_OWNED, 1, 63), (F.QE_JOB_FENCE_COUNT, 1, 0)] dev, 0, 63, 0, by decide +kernel, by decide +kernel, by decide +kernel, by decide +kernel, by decide +kernel⟩,
   ⟨dev, 0, 0, 0, by decide +kernel, by decide +kernel, by decide +kernel, by decide +kernel, by decide +kernel⟩,
   ⟨dev, 0, 0, 0, by decide +kernel, by decide +kernel, by decide +kernel, by decide +kernel⟩,
   ⟨fields [(F.SRV_OUT_CTRL_VALID, 1, 0)] dev, 0, 0, 0, by decide +kernel, by decide +kernel, by decide +kernel⟩,
   ⟨dev, 1, 1, 1, by decide +kernel, by decide +kernel, by decide +kernel⟩,
   ⟨dev, 0, 0, 0, by decide +kernel, by decide +kernel, by decide +kernel⟩⟩

theorem test_meets_RegistersActForTheirOwners_2 :
    (∃ (s : State) (p : PortId) (n : JobId), s.running = true ∧ s.jobPort (.port p) n.val = true) ∧
    (∃ (s : State) (p : PortId) (m : BindId) (x : ServeRun), s.bindPort (.port p) m.val = true ∧ mget s.serve.runs m.val = some x ∧ x.items ≠ []) ∧
    (∃ (s : State) (p : PortId) (m : BindId), s.bindPort (.port p) m.val = true) ∧
    (∃ (s : State), s.isPendant = true ∧ s.faults.promoting = false ∧ s.fb F.FLT_PENDANT_PROMOTED = false) ∧
    (∃ (s : State) (l : LinkId), s.part.hasLink l.val = true ∧ s.linkState l.val = 6 ∧ s.otherUp l.val = false) ∧
    (∃ (s : State) (l : LinkId), s.part.hasLink l.val = true ∧ s.linkState l.val = 6 ∧ s.otherUp l.val = true) ∧
    (∃ (s : State) (l : LinkId), s.part.hasLink l.val = true) :=
  ⟨⟨dev, 0, 0, by decide +kernel, by decide +kernel⟩,
   ⟨devServe [({ serve0 with items := [item0] })], 0, 0, { serve0 with items := [item0] }, by decide +kernel, by decide +kernel, by decide +kernel⟩,
   ⟨devServe [], 0, 0, by decide +kernel⟩,
   ⟨fields [(F.FLT_PENDANT_VALID, 1, 0), (F.FLT_PENDANT_ROLE, 1, 0)] dev, by decide +kernel, by decide +kernel, by decide +kernel⟩,
   ⟨fields [(F.ALT_LINK_STAT_STATE, 6, 0), (F.ALT_PORT_CFG_VALID, 1, 0), (F.ALT_PORT_CFG_LINKS, 1, 0)] dev, 0, by decide +kernel, by decide +kernel, by decide +kernel⟩,
   ⟨fields [(F.ALT_LINK_STAT_STATE, 6, 0), (F.ALT_LINK_STAT_STATE, 6, 1), (F.ALT_PORT_CFG_VALID, 1, 0), (F.ALT_PORT_CFG_LINKS, 3, 0)] dev, 0, by decide +kernel, by decide +kernel, by decide +kernel⟩,
   ⟨dev, 17, by decide +kernel⟩⟩

theorem test_meets_ReadsReturnAndClear :
    (∃ (s : State), s.barServes 0x100 = true) ∧
    (∃ (s : State), s.barServes R.GLB_MARGIN.at = true) ∧
    (∃ (s : State), s.barServes R.FAB_SADDLE_STAT.at = true) ∧
    (∃ (s : State) (l : LinkId), s.barServes (R.ALT_LINK_FEC.at l.val) = true ∧ s.part.hasLink l.val = true) ∧
    (∃ (s : State), s.part.hasWatershed = true) ∧
    (∃ (s : State) (e : Fin 256), s.barServes (R.FLT_LOG_A.at e.val) = true) ∧
    (∃ (s : State) (p : PortId) (w : Fin 16), s.barServes (R.GLB_HWIN_SIZE.at p.val w.val) = true) :=
  ⟨⟨dev, by decide +kernel⟩,
   ⟨dev, by decide +kernel⟩,
   ⟨dev, by decide +kernel⟩,
   ⟨dev, 21, by decide +kernel, by decide +kernel⟩,
   ⟨dev, by decide +kernel⟩,
   ⟨dev, 255, by decide +kernel⟩,
   ⟨dev, 0, 15, by decide +kernel⟩⟩

theorem test_meets_AbsentUnitsReadZero : ∃ (s : State) (off : BitVec 26) (t : RegInfo) (i j : Nat), regAt? off.toNat = some (t, i, j) ∧ (((0x1800000 ≤ off.toNat ∧ off.toNat < 0x1900000 ∧ s.part.hasMeander = false) ∨ (0x1900000 ≤ off.toNat ∧ off.toNat < 0x1A00000 ∧ s.part.hasWatershed = false) ∨ (0x800000 ≤ off.toNat ∧ off.toNat < 0x1800000 ∧ s.windowExists i = false) ∨ (0x200000 ≤ off.toNat ∧ off.toNat < 0x800000 ∧ t.reg ∈ [R.TR_SLOT, R.FAB_BORDER] ∧ s.hasDale i = false) ∨ (0x1C00000 ≤ off.toNat ∧ t.reg ∈ [R.ALT_LINK_CTRL, R.ALT_LINK_STAT, R.ALT_LINK_PEER, R.ALT_LINK_OPT, R.ALT_LINK_ERR, R.ALT_LINK_FEC] ∧ s.part.hasLink i = false))) :=
  ⟨{ dev with fuses := { dev.fuses with part := .s08 } }, 0x1800000, (regOf 0x1800000).1, (regOf 0x1800000).2.1, (regOf 0x1800000).2.2, by decide +kernel, by decide +kernel⟩

theorem test_meets_CastCommandsTakeEffect :
    (∃ (s u v : State) (q : QId) (r : Rec), Starts specCastStage s q.val r ∧ r.opcode = 0x08 ∧ u = s.takeHead q.val 1 r ∧ u.stageReads q.val (s.headSeq q.val) (u.queueJob q.val) r.w3.toNat 256 = .ok (v, none)) ∧
    (∃ (s : State) (d : DaleId) (x : Staging) (img : List Byte) (marks : List Nat) (l : Loaded), s.casts.staging.find? (fun x => (s.castRef x.cast).first == d.val) = some x ∧ s.outstanding (moverIssuer x.q x.seq) = [] ∧ (∀ k ∈ (s.castRef x.cast).dales, s.casts.zeroing.contains k = false) ∧ s.imageOf (s.castRef x.cast) x.hit = .ok (img, marks) ∧ (if x.hit then .ok (loadAll img (s.castRef x.cast).count) else checkImage img (s.castRef x.cast).header (s.castRef x.cast).first (s.castRef x.cast).count) = .ok l ∧ chanMarked img (s.castRef x.cast).count marks = false ∧ s.saddleBroken (s.castRef x.cast) = false) ∧
    (∃ (s u : State) (q : QId) (r : Rec) (k : Nat), Starts specCastSwitch s q.val r ∧ r.opcode = 0x09 ∧ r.tx = 0 ∧ u = s.takeHead q.val 0 r ∧ u.switchCast r.firstDale r.daleCount = some k ∧ (u.standbySlot r.firstDale).state ≠ .deferred) ∧
    (∃ (s u : State) (q : QId) (r : Rec) (t : Tx) (k : Nat), Starts specCastSwitch s q.val r ∧ r.opcode = 0x09 ∧ r.tx ≠ 0 ∧ u = s.takeHead q.val 0 r ∧ u.txFor q.val r = .ok t ∧ t.scope = .cast ∧ (u.applyStaged t.casts).switchCast r.firstDale r.daleCount = some k) ∧
    (∃ (s : State) (d : DaleId) (q k : Nat) (x : Flight), s.switchFlight d.val = some (q, x) ∧ s.runsOn d.val x.cmd.daleCount = false ∧ s.ringHolds d.val x.cmd.daleCount = false ∧ s.outstanding (moverIssuer q x.seq) = [] ∧ s.switchCast d.val x.cmd.daleCount = some k ∧ (s.standbySlot d.val).state ≠ .deferred) ∧
    (∃ (s u : State) (q : QId) (r : Rec) (k : Nat) (ds : List Binding), Starts specCastRun s q.val r ∧ r.opcode = 0x0A ∧ u = s.takeHead q.val 0 r ∧ u.runCast r.firstDale r.daleCount = some k ∧ u.prepareRun (u.queueJob q.val) (u.castRef k) r.w6.toNat = .ok ds) ∧
    (∃ (s u : State) (q : QId) (r : Rec), Starts specCastEvict s q.val r ∧ r.opcode = 0x0B ∧ r.tx = 0 ∧ bitOf r.w4 16 = false ∧ u = s.takeHead q.val 0 r) ∧
    (∃ (s u : State) (q : QId) (r : Rec), Starts specCastEvict s q.val r ∧ r.opcode = 0x0B ∧ r.tx = 0 ∧ bitOf r.w4 16 = true ∧ u = s.takeHead q.val 0 r ∧ (∀ d ∈ r.castDales, u.runsOn d 1 = false)) :=
  ⟨⟨put cStage mapped, taken specCastStage cStage (put cStage mapped), (okOr (dev, none) ((taken specCastStage cStage (put cStage mapped)).stageReads 0 0 0 0x1000 256)).1, 0, cStage, starts rfl (by decide +kernel), by decide +kernel, rfl, ok_none dev (by decide +kernel)⟩,
   ⟨castStaging, 0, ⟨0, 0, 0, true⟩, [], [], loadAll [] 1, by decide +kernel, by decide +kernel, by decide +kernel, by decide +kernel, ok_eq ⟨[], [], []⟩ (by decide +kernel), by decide +kernel, by decide +kernel⟩,
   ⟨put (cSwitch 9) castDev, taken specCastSwitch (cSwitch 9) (put (cSwitch 9) castDev), 0, cSwitch 9, 0, starts rfl (by decide +kernel), by decide +kernel, by decide +kernel, rfl, by decide +kernel, by decide +kernel⟩,
   ⟨put (cSwitch 0x10009) castTx, taken specCastSwitch (cSwitch 0x10009) (put (cSwitch 0x10009) castTx), 0, cSwitch 0x10009, txOf .cast, 0, starts rfl (by decide +kernel), by decide +kernel, by decide +kernel, rfl, by decide +kernel, by decide +kernel, by decide +kernel⟩,
   ⟨flying castDev [flightOf (cSwitch 9)], 0, 0, 0, flightOf (cSwitch 9), by decide +kernel, by decide +kernel, by decide +kernel, by decide +kernel, by decide +kernel, by decide +kernel⟩,
   ⟨put cRun castDev, taken specCastRun cRun (put cRun castDev), 0, cRun, 0, [], starts rfl (by decide +kernel), by decide +kernel, rfl, by decide +kernel, by decide +kernel⟩,
   ⟨put (cEvict 0) castDev, taken specCastEvict (cEvict 0) (put (cEvict 0) castDev), 0, cEvict 0, starts rfl (by decide +kernel), by decide +kernel, by decide +kernel, by decide +kernel, rfl⟩,
   ⟨put (cEvict 1) castDev, taken specCastEvict (cEvict 1) (put (cEvict 1) castDev), 0, cEvict 1, starts rfl (by decide +kernel), by decide +kernel, by decide +kernel, by decide +kernel, rfl, by decide +kernel⟩⟩

theorem test_meets_CastSlotsChangeTogether : ∃ (d : Nat), d < 32 :=
  ⟨31, by decide +kernel⟩

theorem test_meets_MoversWorkThroughTheirLists :
    (∃ (s u : State) (q : QId) (r : Rec) (src dst : List Entry) (x : Flight), Starts specMove s q.val r ∧ r.opcode = 0x10 ∧ u = s.takeHead q.val 1 r ∧ u.readList (u.queueJob q.val) r.w3.toNat (moveCount r) = .ok (src, false) ∧ u.readList (u.queueJob q.val) r.w4.toNat (moveCount r) = .ok (dst, false) ∧ listsBad src dst false = none ∧ u.flight q.val (s.headSeq q.val) = some x) ∧
    (∃ (s u : State) (q : QId) (r : Rec) (dst : List Entry) (x : Flight), Starts specFill s q.val r ∧ r.opcode = 0x11 ∧ u = s.takeHead q.val 1 r ∧ u.readList (u.queueJob q.val) r.w3.toNat (moveCount r) = .ok (dst, false) ∧ listsBad [] dst true = none ∧ u.flight q.val (s.headSeq q.val) = some x) ∧
    (∃ (s v : State) (q : QId) (seq : BitVec 48) (x y : Flight), s.flightOf q.val seq.toNat 0x10 0x11 = some x ∧ s.flight q.val x.seq = some x ∧ s.outstanding (moverIssuer q.val x.seq) = [] ∧ x.phase = 1 ∧ v = s.writeEntry q.val x ∧ v.flight q.val x.seq = some y ∧ v.outstanding (moverIssuer q.val x.seq) = [] ∧ y.phase = 2) ∧
    (∃ (x : Flight), moveCount x.cmd ≤ x.entry + 1) :=
  ⟨⟨put cMove moveDev, taken specMove cMove (put cMove moveDev), 0, cMove, list1 cMove 1, list1 cMove 1, flightOf cMove, starts rfl (by decide +kernel), by decide +kernel, rfl, by decide +kernel, by decide +kernel, by decide +kernel, by decide +kernel⟩,
   ⟨put cFill moveDev, taken specFill cFill (put cFill moveDev), 0, cFill, list1 cFill 1, flightOf cFill, starts rfl (by decide +kernel), by decide +kernel, rfl, by decide +kernel, by decide +kernel, by decide +kernel⟩,
   ⟨flying moveDev [{ flightOf cMove with phase := 1 }], (flying moveDev [{ flightOf cMove with phase := 1 }]).writeEntry 0 { flightOf cMove with phase := 1 }, 0, 0, { flightOf cMove with phase := 1 }, { flightOf cMove with phase := 2 }, by decide +kernel, by decide +kernel, by decide +kernel, by decide +kernel, rfl, by decide +kernel, by decide +kernel, by decide +kernel⟩,
   ⟨flightOf cMove, by decide +kernel⟩⟩

theorem test_meets_MapAndUnmapChangeTheTables :
    (∃ (s u : State) (q : QId) (r : Rec), Starts specMap s q.val r ∧ r.opcode = 0x12 ∧ mapUnmaps r = false ∧ u = s.takeHead q.val 2 r ∧ u.quotaBears (u.queueJob q.val) ((u.mapNewFrames r).length + u.newTableFrames (u.queueJob q.val) (mapMissing (u.pageTable (u.queueJob q.val)) r).length) = true) ∧
    (∃ (s u : State) (q : QId) (r : Rec), Starts specMap s q.val r ∧ r.opcode = 0x12 ∧ mapUnmaps r = false ∧ u = s.takeHead q.val 2 r ∧ mapPages r ≠ 0 ∧ u.quotaBears (u.queueJob q.val) ((u.mapNewFrames r).length + u.newTableFrames (u.queueJob q.val) (mapMissing (u.pageTable (u.queueJob q.val)) r).length) = false) ∧
    (∃ (s u : State) (q : QId) (r : Rec), Starts specMap s q.val r ∧ r.opcode = 0x12 ∧ mapUnmaps r = true ∧ u = s.takeHead q.val 2 r ∧ (∀ va ∈ mapVas r, unmapFind (u.pageTable (u.queueJob q.val)) (leafLog2 r.w4) va ≠ .bad)) :=
  ⟨⟨put (cMap 0) (mapped.setF F.QE_JOB_QUOTA_QUOTA_MIB 100), taken specMap (cMap 0) (put (cMap 0) (mapped.setF F.QE_JOB_QUOTA_QUOTA_MIB 100)), 0, cMap 0, starts rfl (by decide +kernel), by decide +kernel, by decide +kernel, rfl, by decide +kernel⟩,
   ⟨put (cMap 0) mapped, taken specMap (cMap 0) (put (cMap 0) mapped), 0, cMap 0, starts rfl (by decide +kernel), by decide +kernel, by decide +kernel, rfl, by decide +kernel, by decide +kernel⟩,
   ⟨put (cMap 1) mapped, taken specMap (cMap 1) (put (cMap 1) mapped), 0, cMap 1, starts rfl (by decide +kernel), by decide +kernel, by decide +kernel, rfl, by decide +kernel⟩⟩

theorem test_meets_TranslationFollowsTheLeaf :
    (∃ (s : State) (n va l : Nat) (wr : Bool) (e : W64), s.walk n va = .leaf e l ∧ leafLeaf e = true ∧ 12 ≤ leafLog2 e ∧ leafLog2 e ≤ 30 ∧ leafLevel (leafLog2 e) = l ∧ leafAddr e % 2 ^ leafLog2 e = 0 ∧ s.tierOf (leafAddr e) = leafTier e ∧ (if wr then leafW e else leafR e) = true) ∧
    (∃ (s : State) (n va l : Nat) (e : W64), s.walk n va = .leaf e l ∧ ((leafLeaf e = false ∨ leafLog2 e < 12 ∨ 30 < leafLog2 e ∨ leafLevel (leafLog2 e) ≠ l))) ∧
    (∃ (s : State) (n va l : Nat) (e : W64), s.walk n va = .leaf e l ∧ leafLeaf e = true ∧ 12 ≤ leafLog2 e ∧ leafLog2 e ≤ 30 ∧ leafLevel (leafLog2 e) = l) ∧
    (∃ (s : State) (n va l : Nat) (e : W64), s.walk n va = .leaf e l ∧ leafLeaf e = true ∧ 12 ≤ leafLog2 e ∧ leafLog2 e ≤ 30 ∧ leafLevel (leafLog2 e) = l ∧ leafAddr e % 2 ^ leafLog2 e = 0 ∧ s.tierOf (leafAddr e) = leafTier e) ∧
    (∃ (va : Nat), 2 ^ 48 ≤ va) ∧
    (∃ (z va a : Nat), 12 ≤ z ∧ z ≤ 30 ∧ va % 2 ^ z = 0 ∧ va ≤ a ∧ a < va + 2 ^ z) :=
  ⟨⟨mapped, 0, 2 ^ 30 - 1, 2, true, leaf0, by decide +kernel, by decide +kernel, by decide +kernel, by decide +kernel, by decide +kernel, by decide +kernel, by decide +kernel, by decide +kernel⟩,
   ⟨mappedBy 1, 0, 0, 2, 1, by decide +kernel, by decide +kernel⟩,
   ⟨mapped, 0, 0, 2, leaf0, by decide +kernel, by decide +kernel, by decide +kernel, by decide +kernel, by decide +kernel⟩,
   ⟨mapped, 0, 0, 2, leaf0, by decide +kernel, by decide +kernel, by decide +kernel, by decide +kernel, by decide +kernel, by decide +kernel, by decide +kernel⟩,
   ⟨2 ^ 48, by decide +kernel⟩,
   ⟨30, 2 ^ 30, 2 ^ 31 - 1, by decide +kernel, by decide +kernel, by decide +kernel, by decide +kernel, by decide +kernel⟩⟩

theorem test_meets_HotPagesMigrate :
    (∃ (s : State), s.frames.epoch + 2 ^ s.f F.TR_MIG_CTRL_EPOCH_LOG2 ≤ s.now) ∧
    (∃ (s : State) (n : JobId) (va : W64) (m : MigPage), s.migPage n.val va.toNat = some m ∧ m.frame = none ∧ m.copying = 0 ∧ s.f F.TR_MIG_CTRL_PROMOTE ≤ m.heat ∧ s.freePoolFrames n.val ≠ []) ∧
    (∃ (s : State) (n : JobId) (va : W64) (m : MigPage) (f : Nat), s.migPage n.val va.toNat = some m ∧ m.frame = some f ∧ m.copying = 0 ∧ m.heat < s.f F.TR_MIG_CTRL_DEMOTE ∧ ((∀ x ∈ s.frames.mig, x.job = n.val → x.frame.isSome = true → m.heat ≤ x.heat)) ∧ s.freePoolFrames n.val = [] ∧ (∃ x ∈ s.frames.mig, x.job = n.val ∧ x.frame = none ∧ s.f F.TR_MIG_CTRL_PROMOTE ≤ x.heat)) ∧
    (∃ (s : State) (n : JobId) (va : W64) (m : MigPage), s.migPage n.val va.toNat = some m ∧ m.copying = 1) ∧
    (∃ (s u : State) (n : JobId) (va : W64) (m : MigPage) (f : Nat), s.migPage n.val va.toNat = some m ∧ m.copying = 2 ∧ m.frame = some f ∧ u = (if m.dirty then s.copyRange (frameAddr f) m.home frameBytes else s)) ∧
    (∃ (s : State) (n f : Nat), s.inMigPool n f = false) :=
  ⟨⟨migDev [] 0, by decide +kernel⟩,
   ⟨migDev [mig0] 1, 0, 0x200000, mig0, by decide +kernel, by decide +kernel, by decide +kernel, by decide +kernel, by decide +kernel⟩,
   ⟨migDev [{ mig0 with frame := some 100, heat := 0 }, { mig0 with va := 0x400000 }] 1, 0, 0x200000, { mig0 with frame := some 100, heat := 0 }, 100, by decide +kernel, by decide +kernel, by decide +kernel, by decide +kernel, by decide +kernel, by decide +kernel, by decide +kernel⟩,
   ⟨migDev [{ mig0 with copying := 1, copyFrame := 100 }] 1, 0, 0x200000, { mig0 with copying := 1, copyFrame := 100 }, by decide +kernel, by decide +kernel⟩,
   ⟨migDev [{ mig0 with copying := 2, frame := some 100, dirty := true }] 1, (if ({ mig0 with copying := 2, frame := some 100, dirty := true } : MigPage).dirty then State.copyRange (migDev [{ mig0 with copying := 2, frame := some 100, dirty := true }] 1) (frameAddr 100) ({ mig0 with copying := 2, frame := some 100, dirty := true } : MigPage).home frameBytes else (migDev [{ mig0 with copying := 2, frame := some 100, dirty := true }] 1)), 0, 0x200000, { mig0 with copying := 2, frame := some 100, dirty := true }, 100, by decide +kernel, by decide +kernel, by decide +kernel, rfl⟩,
   ⟨migDev [] 1, 0, 101, by decide +kernel⟩⟩

theorem test_meets_CoresRunTheirInstructions :
    (∃ (s : State) (q : QId) (r : Rec), Starts specCoreRun s q.val r ∧ r.opcode = 0x14 ∧ r.w5 ≠ 0) ∧
    (∃ (s : State) (q : QId) (seq : BitVec 48) (x : Flight), s.flightOf q.val seq.toNat 0x14 0x14 = some x ∧ s.coresLate q.val x.seq = true) ∧
    (∃ (s : State) (q : QId) (r : Rec), Starts specCoreRun s q.val r ∧ r.opcode = 0x14 ∧ r.w5 = 0) ∧
    (∃ (s : State) (c : CoreId) (x : CoreSt), s.core c.val = some x ∧ s.running = true ∧ x.exited = none ∧ x.trapped = none) ∧
    (∃ (s : State) (q seq : Nat) (st : Status) (v d : W64), s.trapOf q seq = some (st.code, v, d)) ∧
    (∃ (s u : State) (c : CoreId) (act : CoreAct) (bs : List Byte) (x : CoreSt), act ≠ .fail ∧ Fetches s c.val (actLen act) bs u x ∧ leNat bs % 128 ≠ 0x0B) ∧
    (∃ (u : State) (c : Nat) (x : CoreSt) (rd : Nat), u.core c = some x ∧ x.x.length = 32 ∧ rd < 32) ∧
    (∃ (u v : State) (c : Nat) (x y : CoreSt) (w : MemW) (rs1 : Fin 32) (imm : W64) (bs : List Byte), Loads u c (x.xr rs1.val + imm).toNat (widthBytes w) v y bs) ∧
    (∃ (u v : State) (c : Nat) (x y : CoreSt) (w : MemW) (rs2 rs1 : Fin 32) (imm : W64) (ls : List XLine), Stores u c (x.xr rs1.val + imm).toNat (leBytes (widthBytes w) (x.xr rs2.val).toNat).length v y ls) :=
  ⟨⟨put cCore (mapped.setF F.QE_JOB_CORES_CORES 4), 0, cCore, starts rfl (by decide +kernel), by decide +kernel, by decide +kernel⟩,
   ⟨flying (devT 5) [flightOf cCore], 0, 0, flightOf cCore, by decide +kernel, by decide +kernel⟩,
   ⟨put cCore0 dev, 0, cCore0, starts rfl (by decide +kernel), by decide +kernel, by decide +kernel⟩,
   ⟨flying (coreDev core0 0) [flightOf cCore], 2, core0, by decide +kernel, by decide +kernel, by decide +kernel, by decide +kernel⟩,
   ⟨trapDev, 0, 0, .denied, 12, 0x1000, by decide +kernel⟩,
   ⟨coreDev core0 0x13, fetchU (coreDev core0 0x13) 2 4, 2, .intOp 4 0 0 0, fetchBs (coreDev core0 0x13) 2 4, fetchX (coreDev core0 0x13) 2 4, by decide +kernel, fetches (by decide +kernel), by decide +kernel⟩,
   ⟨coreDev core0 0, 2, core0, 31, by decide +kernel, by decide +kernel, by decide +kernel⟩,
   ⟨coreDev core0 0, (loadA (coreDev core0 0) 2 adr0 (widthBytes .b8)).1, 2, core0, loadY (coreDev core0 0) 2 adr0 (widthBytes .b8), .b8, 5, 0, loadBs (coreDev core0 0) 2 adr0 (widthBytes .b8), loads (by decide +kernel)⟩,
   ⟨coreDev core0 0, st0.1, 2, core0, (st0.1.core (2 : CoreId).val).getD core0, .b8, 6, 5, 0, st0.2.2, stores (by decide +kernel)⟩⟩

theorem test_meets_FzInstructionsTakeEffect :
    (∃ (s u : State) (c : CoreId) (rd rs1 : Fin 32) (bs : List Byte) (x : CoreSt), Fetches s c.val 4 bs u x ∧ leNat bs = fzWord 0 0 rd.val rs1.val (leNat bs / 2 ^ 20 % 32) ∧ u.ownsFence x.job (x.xr rs1.val).toNat = true) ∧
    (∃ (s u : State) (c : CoreId) (rd rs1 rs2 : Fin 32) (bs : List Byte) (x : CoreSt), Fetches s c.val 4 bs u x ∧ leNat bs = fzWord 0 1 rd.val rs1.val rs2.val ∧ u.ownsFence x.job (x.xr rs1.val).toNat = true ∧ (x.xr rs2.val).toNat ≤ u.fenceValue (x.xr rs1.val).toNat) ∧
    (∃ (s : State) (c : CoreId) (x : CoreSt) (f v rd : Nat), s.core c.val = some x ∧ x.wait = .fence f v rd ∧ s.running = true ∧ v ≤ s.fenceValue f) ∧
    (∃ (s u : State) (c : CoreId) (rs1 rs2 : Fin 32) (bs : List Byte) (x : CoreSt), Fetches s c.val 4 bs u x ∧ leNat bs = fzWord 0 2 (leNat bs / 2 ^ 7 % 32) rs1.val rs2.val ∧ u.ownsFence x.job (x.xr rs1.val).toNat = true ∧ x.data.filter (fun l => l.2.dirty) = [] ∧ u.outstanding (.core c.val) = []) ∧
    (∃ (s u : State) (c : CoreId) (rs1 rs2 : Fin 32) (bs : List Byte) (x : CoreSt), Fetches s c.val 4 bs u x ∧ leNat bs = fzWord 0 3 (leNat bs / 2 ^ 7 % 32) rs1.val rs2.val ∧ u.ownsFence x.job (x.xr rs1.val).toNat = true ∧ x.data.filter (fun l => l.2.dirty) = [] ∧ u.outstanding (.core c.val) = []) ∧
    (∃ (s u v : State) (c : CoreId) (rd rs1 rs2 : Fin 32) (bs body : List Byte) (x y : CoreSt), Fetches s c.val 4 bs u x ∧ leNat bs = fzWord 0 4 rd.val rs1.val rs2.val ∧ (x.xr rs1.val).toNat % 8 = 0 ∧ u.bound (bitsOf (x.xr rs2.val) 0 12) = true ∧ u.f F.QE_Q_CTRL_PORT (bitsOf (x.xr rs2.val) 0 12) = 2 ∧ u.queueJob (bitsOf (x.xr rs2.val) 0 12) = x.job ∧ Loads u c.val (x.xr rs1.val).toNat 56 v y body) ∧
    (∃ (s u : State) (c : CoreId) (rd rs1 : Fin 32) (bs : List Byte) (x : CoreSt) (g : Nat) (e : W64), Fetches s c.val 4 bs u x ∧ leNat bs = fzWord 0 5 rd.val rs1.val (leNat bs / 2 ^ 20 % 32) ∧ u.translate x.job (x.xr rs1.val).toNat false = .ok g e) ∧
    (∃ (s u : State) (c : CoreId) (rs1 : Fin 32) (bs : List Byte) (x : CoreSt), Fetches s c.val 4 bs u x ∧ leNat bs = fzWord 0 6 (leNat bs / 2 ^ 7 % 32) rs1.val (leNat bs / 2 ^ 20 % 32) ∧ x.data.filter (fun l => l.2.dirty) = [] ∧ x.poisonWrite = false ∧ u.runCores x.q x.seq = [c.val] ∧ u.outstanding (.core c.val) = []) ∧
    (∃ (s u v w : State) (c : CoreId) (rd rs1 rs2 : Fin 32) (bs row : List Byte) (x y z : CoreSt) (ls : List XLine), Fetches s c.val 4 bs u x ∧ leNat bs = fzWord 1 0 rd.val rs1.val rs2.val ∧ x.fzFormatOk = true ∧ Loads u c.val (x.xr rs1.val).toNat 256 v y row ∧ Stores v c.val (x.xr rs2.val).toNat (x.packRow (f32sOf row)).length w z ls) ∧
    (∃ (s u v w : State) (c : CoreId) (rd rs1 rs2 : Fin 32) (bs row : List Byte) (x y z : CoreSt) (ls : List XLine), Fetches s c.val 4 bs u x ∧ leNat bs = fzWord 1 1 rd.val rs1.val rs2.val ∧ x.fzFormatOk = true ∧ Loads u c.val (x.xr rs1.val).toNat x.packedLen v y row ∧ Stores v c.val (x.xr rs2.val).toNat ((x.unpackRow row).flatMap (fun v => leBytes 4 v.toNat)).length w z ls) :=
  ⟨⟨fzDev 0 0 1 0 0, fzU (fzDev 0 0 1 0 0), 2, 1, 0, fzBs (fzDev 0 0 1 0 0), fzX (fzDev 0 0 1 0 0), fetches (by decide +kernel), by decide +kernel, by decide +kernel⟩,
   ⟨fzDev 0 1 1 0 0, fzU (fzDev 0 1 1 0 0), 2, 1, 0, 0, fzBs (fzDev 0 1 1 0 0), fzX (fzDev 0 1 1 0 0), fetches (by decide +kernel), by decide +kernel, by decide +kernel, by decide +kernel⟩,
   ⟨coreDev { core0 with wait := .fence 0 0 1 } 0, 2, { core0 with wait := .fence 0 0 1 }, 0, 0, 1, by decide +kernel, by decide +kernel, by decide +kernel, by decide +kernel⟩,
   ⟨fzDev 0 2 0 0 6, fzU (fzDev 0 2 0 0 6), 2, 0, 6, fzBs (fzDev 0 2 0 0 6), fzX (fzDev 0 2 0 0 6), fetches (by decide +kernel), by decide +kernel, by decide +kernel, by decide +kernel, by decide +kernel⟩,
   ⟨fzDev 0 3 0 0 6, fzU (fzDev 0 3 0 0 6), 2, 0, 6, fzBs (fzDev 0 3 0 0 6), fzX (fzDev 0 3 0 0 6), fetches (by decide +kernel), by decide +kernel, by decide +kernel, by decide +kernel, by decide +kernel⟩,
   ⟨fzDev 0 4 1 5 6, fzU (fzDev 0 4 1 5 6), fzV (fzDev 0 4 1 5 6) 56, 2, 1, 5, 6, fzBs (fzDev 0 4 1 5 6), fzRow (fzDev 0 4 1 5 6) 56, fzX (fzDev 0 4 1 5 6), fzY (fzDev 0 4 1 5 6) 56, fetches (by decide +kernel), by decide +kernel, by decide +kernel, by decide +kernel, by decide +kernel, by decide +kernel, loads (by decide +kernel)⟩,
   ⟨fzDev 0 5 1 5 0, fzU (fzDev 0 5 1 5 0), 2, 1, 5, fzBs (fzDev 0 5 1 5 0), fzX (fzDev 0 5 1 5 0), 0x2000, leaf0, fetches (by decide +kernel), by decide +kernel, by decide +kernel⟩,
   ⟨fzDev 0 6 0 5 0, fzU (fzDev 0 6 0 5 0), 2, 5, fzBs (fzDev 0 6 0 5 0), fzX (fzDev 0 6 0 5 0), fetches (by decide +kernel), by decide +kernel, by decide +kernel, by decide +kernel, by decide +kernel, by decide +kernel⟩,
   ⟨packDev 0, fzU (packDev 0), fzV (packDev 0) 256, (storeA (fzV (packDev 0) 256) (2 : CoreId).val ((fzX (packDev 0)).xr (5 : Fin 32).val).toNat ((fzX (packDev 0)).packRow (f32sOf (fzRow (packDev 0) 256))).length).1, 2, 1, 5, 5, fzBs (packDev 0), fzRow (packDev 0) 256, fzX (packDev 0), fzY (packDev 0) 256, ((storeA (fzV (packDev 0) 256) (2 : CoreId).val ((fzX (packDev 0)).xr (5 : Fin 32).val).toNat ((fzX (packDev 0)).packRow (f32sOf (fzRow (packDev 0) 256))).length).1.core (2 : CoreId).val).getD core0, (storeA (fzV (packDev 0) 256) (2 : CoreId).val ((fzX (packDev 0)).xr (5 : Fin 32).val).toNat ((fzX (packDev 0)).packRow (f32sOf (fzRow (packDev 0) 256))).length).2.2, fetches (by decide +kernel), by decide +kernel, by decide +kernel, loads (by decide +kernel), stores (by decide +kernel)⟩,
   ⟨packDev 1, fzU (packDev 1), fzV (packDev 1) (fzX (packDev 1)).packedLen, (storeA (fzV (packDev 1) (fzX (packDev 1)).packedLen) (2 : CoreId).val ((fzX (packDev 1)).xr (5 : Fin 32).val).toNat 256).1, 2, 1, 5, 5, fzBs (packDev 1), fzRow (packDev 1) (fzX (packDev 1)).packedLen, fzX (packDev 1), fzY (packDev 1) (fzX (packDev 1)).packedLen, ((storeA (fzV (packDev 1) (fzX (packDev 1)).packedLen) (2 : CoreId).val ((fzX (packDev 1)).xr (5 : Fin 32).val).toNat 256).1.core (2 : CoreId).val).getD core0, (storeA (fzV (packDev 1) (fzX (packDev 1)).packedLen) (2 : CoreId).val ((fzX (packDev 1)).xr (5 : Fin 32).val).toNat 256).2.2, fetches (by decide +kernel), by decide +kernel, by decide +kernel, @loads (fzU (packDev 1)) (2 : CoreId).val ((fzX (packDev 1)).xr (5 : Fin 32).val).toNat (fzX (packDev 1)).packedLen (by decide +kernel), storesUnpack (by decide +kernel) (by decide +kernel)⟩⟩

theorem test_meets_RequestsAreAdmittedAskedAndCancelled_1 :
    (∃ (s t u v : State) (q : QId) (r : Rec) (i : Nat) (e : Req), StartsFrom specReqAdmit s t q.val r ∧ r.opcode = 0x38 ∧ u = t.takeHead q.val 0 r ∧ e = imageReq (mgetD u.serve.images q.val []) ∧ u.admitCheck (u.queueJob q.val) r.w4 e = .ok i ∧ u.serveWrite (u.queueJob q.val) (e.f qfPenVa) (List.replicate 32768 0#8) false = .ok v) ∧
    (∃ (s u : State) (q : QId) (r : Rec), Starts specReqQuery s q.val r ∧ r.opcode = 0x3B ∧ r.w4 = 0 ∧ u = s.takeHead q.val 0 r) ∧
    (∃ (s u t : State) (q : QId) (r : Rec), Starts specReqQuery s q.val r ∧ r.opcode = 0x3B ∧ r.w4 ≠ 0 ∧ u = s.takeHead q.val 0 r ∧ u.serveWrite (u.queueJob q.val) r.w4.toNat (wordsBytes (u.req (bitsOf r.w3 0 16)).words) false = .ok t) ∧
    (∃ (s : State) (q : Nat) (r : Rec), (s.req (bitsOf r.w3 0 16)).f qfState ≠ 0 ∧ (s.req (bitsOf r.w3 0 16)).f qfJob ≠ s.queueJob q ∧ s.headHeld specReqQuery q r = false) ∧
    (∃ (s u : State) (q : QId) (r : Rec) (i : Nat) (e : Req), Starts specReqCancel s q.val r ∧ r.opcode = 0x39 ∧ u = s.takeHead q.val 0 r ∧ i = bitsOf r.w3 0 16 ∧ e = u.req i ∧ e.f qfGen = bitsOf r.w3 16 16 ∧ e.live = true ∧ e.f qfCancel ≠ 1) ∧
    (∃ (s u : State) (q : QId) (r : Rec) (i : Nat), Starts specReqCancel s q.val r ∧ r.opcode = 0x39 ∧ u = s.takeHead q.val 0 r ∧ i = bitsOf r.w3 0 16 ∧ (((u.req i).f qfState = 0 ∨ (u.req i).f qfGen ≠ bitsOf r.w3 16 16))) ∧
    (∃ (e : Req), e.f qfState ≠ 1 ∧ e.f qfState ≠ 10 ∧ e.f qfState ≠ 11) :=
  ⟨⟨put cAdmit imageDev, admitT, admitU, okOr admitU (admitU.serveWrite (admitU.queueJob (0 : QId).val) ((imageReq (mgetD admitU.serve.images (0 : QId).val [])).f qfPenVa) (List.replicate 32768 0#8) false), 0, cAdmit, 0, imageReq (mgetD admitU.serve.images (0 : QId).val []), startsFrom (by decide +kernel), by decide +kernel, rfl, rfl, by decide +kernel, ok_eq _ (by decide +kernel)⟩,
   ⟨put (cQuery 0) (reqDev []), taken specReqQuery (cQuery 0) (put (cQuery 0) (reqDev [])), 0, cQuery 0, starts rfl (by decide +kernel), by decide +kernel, by decide +kernel, rfl⟩,
   ⟨put (cQuery 0x1000) (reqDev []), taken specReqQuery (cQuery 0x1000) (put (cQuery 0x1000) (reqDev [])), okOr dev ((taken specReqQuery (cQuery 0x1000) (put (cQuery 0x1000) (reqDev []))).serveWrite 0 0x1000 (wordsBytes Req.blank.words) false), 0, cQuery 0x1000, starts rfl (by decide +kernel), by decide +kernel, by decide +kernel, rfl, ok_eq _ (by decide +kernel)⟩,
   ⟨reqDev [(0, reqOf [(qfState, 1), (qfJob, 1)])], 0, cQuery 0, by decide +kernel, by decide +kernel, by decide +kernel⟩,
   ⟨put cCancel (reqDev [(0, decode0)]), taken specReqCancel cCancel (put cCancel (reqDev [(0, decode0)])), 0, cCancel, 0, (taken specReqCancel cCancel (put cCancel (reqDev [(0, decode0)]))).req 0, starts rfl (by decide +kernel), by decide +kernel, rfl, rfl, rfl, by decide +kernel, by decide +kernel, by decide +kernel⟩,
   ⟨put cCancel (reqDev []), taken specReqCancel cCancel (put cCancel (reqDev [])), 0, cCancel, 0, starts rfl (by decide +kernel), by decide +kernel, rfl, rfl, by decide +kernel⟩,
   ⟨reqOf [(qfState, 2)], by decide +kernel, by decide +kernel, by decide +kernel⟩⟩

theorem test_meets_RequestsAreAdmittedAskedAndCancelled_2 :
    (∃ (s : State) (e : Req), e.f qfState = 10 ∧ s.part.hasMeander = false) ∧
    (∃ (s : State) (n : Nat) (e : Req) (st : Status), e.f qfState = 1 ∧ s.rangeCheck n e = some st) ∧
    (∃ (s : State) (n : Nat) (e : Req), e.f qfState = 1 ∧ s.rangeCheck n e = none ∧ e.f qfMax ≤ e.f qfPromptLen) ∧
    (∃ (s : State) (n : Nat) (e : Req), e.f qfState = 1 ∧ s.rangeCheck n e = none ∧ s.imageBad e = false ∧ s.imageDenied n e = true) ∧
    (∃ (s : State) (n : Nat) (e : Req), e.f qfState = 1 ∧ s.rangeCheck n e = none ∧ s.imageBad e = false ∧ s.imageDenied n e = false ∧ s.f F.SRV_JOB_MAX_ENTRIES n ≤ s.f F.SRV_JOB_STAT_IN_USE n) ∧
    (∃ (s : State) (n i : Nat) (op : W64) (e : Req), s.admitCheck n op e = .ok i) :=
  ⟨⟨{ dev with fuses := { dev.fuses with part := .s08 } }, reqOf [(qfState, 10)], by decide +kernel, by decide +kernel⟩,
   ⟨dev, 0, reqOf [(qfState, 1), (qfTok, 3)], .badCommand, by decide +kernel, by decide +kernel⟩,
   ⟨reqDev [], 0, image0.setF qfMax 1, by decide +kernel, by decide +kernel, by decide +kernel⟩,
   ⟨(reqDev []).setF F.SRV_MODEL_CFG_OWNER_JOB 1, 0, image0, by decide +kernel, by decide +kernel, by decide +kernel, by decide +kernel⟩,
   ⟨(reqDev []).setF F.SRV_JOB_MAX_ENTRIES 0, 0, image0, by decide +kernel, by decide +kernel, by decide +kernel, by decide +kernel, by decide +kernel⟩,
   ⟨reqDev [], 0, 0, 0, image0, by decide +kernel⟩⟩

theorem test_meets_ServingStepsAdvance_1 :
    (∃ (s : State) (q : QId) (r : Rec), Starts specServeStart s q.val r ∧ r.opcode = 0x3A) ∧
    (∃ (s u v w : State) (m : BindId) (x y : ServeRun) (is : List Item), mget s.serve.runs m.val = some x ∧ x.items = [] ∧ s.running = true ∧ (∀ t ∈ s.txs, t.committing = false) ∧ s.bindOwned m.val = true ∧ s.formBatch m.val (some (x.q, x.seq)) = (u, is) ∧ is ≠ [] ∧ y = { x with items := is, number := (s.f F.SRV_RUN_STEP m.val + 1) % 2 ^ 58, pass := 1, drafted := false, target := false } ∧ v = (u.setServeRun m.val y).setF F.SRV_RUN_PHASE (if u.draftPasses is = 0 then 3 else 2) m.val ∧ v.writeTarget m.val y = .ok w) ∧
    (∃ (s u : State) (m : BindId) (x : ServeRun), mget s.serve.runs m.val = some x ∧ x.items = [] ∧ s.running = true ∧ (∀ t ∈ s.txs, t.committing = false) ∧ s.bindOwned m.val = true ∧ s.formBatch m.val (some (x.q, x.seq)) = (u, [])) ∧
    (∃ (s : State) (m : BindId) (x : ServeRun), mget s.serve.runs m.val = some x ∧ x.casting = false ∧ s.f F.SRV_RUN_PHASE m.val = 2 ∧ x.readyAt = none) ∧
    (∃ (s u v : State) (m : BindId) (x : ServeRun) (at' : Nat) (is : List Item), mget s.serve.runs m.val = some x ∧ x.casting = false ∧ s.f F.SRV_RUN_PHASE m.val = 2 ∧ x.readyAt = some at' ∧ s.samplerTurn m.val at' = true ∧ s.askSorter m.val (s.sortsNeeded x (some x.pass)) = (u, true) ∧ u.propose (u.f F.SRV_MODEL_CFG_DRAFT m.val) x.pass (some (x.q, x.seq)) x.items = (v, .ok is)) ∧
    (∃ (s : State) (m : BindId) (x : ServeRun), mget s.serve.runs m.val = some x ∧ x.casting = false ∧ s.f F.SRV_RUN_PHASE m.val = 3) ∧
    (∃ (s u v : State) (m : BindId) (x : ServeRun) (at' : Nat) (is : List Item), mget s.serve.runs m.val = some x ∧ x.casting = false ∧ s.f F.SRV_RUN_PHASE m.val = 4 ∧ x.readyAt = some at' ∧ s.samplerTurn m.val at' = true ∧ s.askSorter m.val (s.sortsNeeded x none) = (u, true) ∧ u.sampleItems m.val (some (x.q, x.seq)) x.items = (v, .ok is)) :=
  ⟨⟨put (cmd 0x3A) (reqDev []), 0, cmd 0x3A, starts rfl (by decide +kernel), by decide +kernel⟩,
   ⟨serveDev 0 serve0, formed.1, formedV, okOr dev (formedV.writeTarget (0 : BindId).val formedY), 0, serve0, formedY, formed.2, by decide +kernel, by decide +kernel, by decide +kernel, by decide +kernel, by decide +kernel, rfl, by decide +kernel, rfl, rfl, ok_eq _ (by decide +kernel)⟩,
   ⟨noReqs 0 serve0, ((noReqs 0 serve0).formBatch 0 (some (0, 0))).1, 0, serve0, by decide +kernel, by decide +kernel, by decide +kernel, by decide +kernel, by decide +kernel, Prod.ext rfl (by decide +kernel)⟩,
   ⟨serveDev 2 serve0, 0, serve0, by decide +kernel, by decide +kernel, by decide +kernel, by decide +kernel⟩,
   ⟨serveDev 2 passRun, ((serveDev 2 passRun).askSorter 0 ((serveDev 2 passRun).sortsNeeded passRun (some passRun.pass))).1, (((serveDev 2 passRun).askSorter 0 ((serveDev 2 passRun).sortsNeeded passRun (some passRun.pass))).1.propose 0x3F 1 (some (0, 0)) [itemF]).1, 0, passRun, 0, [itemF], by decide +kernel, by decide +kernel, by decide +kernel, by decide +kernel, by decide +kernel, Prod.ext rfl (by decide +kernel), Prod.ext rfl (by decide +kernel)⟩,
   ⟨serveDev 3 serve0, 0, serve0, by decide +kernel, by decide +kernel, by decide +kernel⟩,
   ⟨serveDev 4 passRun, ((serveDev 4 passRun).askSorter 0 ((serveDev 4 passRun).sortsNeeded passRun none)).1, (((serveDev 4 passRun).askSorter 0 ((serveDev 4 passRun).sortsNeeded passRun none)).1.sampleItems 0 (some (0, 0)) [itemF]).1, 0, passRun, 0, [itemF], by decide +kernel, by decide +kernel, by decide +kernel, by decide +kernel, by decide +kernel, Prod.ext rfl (by decide +kernel), Prod.ext rfl (by decide +kernel)⟩⟩

theorem test_meets_ServingStepsAdvance_2 :
    (∃ (s : State) (m : BindId) (x : ServeRun), mget s.serve.runs m.val = some x ∧ x.items ≠ [] ∧ s.f F.SRV_RUN_PHASE m.val = 5) ∧
    (∃ (s : State) (m : Nat) (x : ServeRun), mget s.serve.runs m = some x ∧ x.commitDue = true ∧ x.items ≠ [] ∧ s.f F.SRV_RUN_PHASE m = 5) ∧
    (∃ (s : State) (m : BindId) (n : Nat), mget s.serve.feed m.val = some n ∧ s.feedSeq m.val n = n) ∧
    (∃ (s : State) (m : Nat) (w0 w1 : W64) (i : Nat) (e : Req), i = bitsOf w0 0 16 ∧ e = s.req i ∧ e.f qfState = 11 ∧ e.f qfTarget = m ∧ e.f qfPartner = bitsOf w0 16 16 ∧ e.feedNext = bitsOf w1 0 28 ∧ e.cause = none ∧ bitOf w0 60 = false) ∧
    (∃ (s : State) (w0 : W64), (s.req (bitsOf w0 0 16)).f qfState ≠ 11) ∧
    (∃ (s : State) (e : BitVec 16), 7 ≤ (s.req e.toNat).f qfState ∧ (s.req e.toNat).f qfState ≤ 9) :=
  ⟨⟨serveDev 5 passRun, 0, passRun, by decide +kernel, by decide +kernel, by decide +kernel⟩,
   ⟨serveDev 5 { passRun with commitDue := true }, 0, { passRun with commitDue := true }, by decide +kernel, by decide +kernel, by decide +kernel, by decide +kernel⟩,
   ⟨feedDev, 63, 1, by decide +kernel, by decide +kernel⟩,
   ⟨reqDev [(0, reqOf [(qfState, 11)])], 0, 0, 0, 0, reqOf [(qfState, 11)], rfl, rfl, by decide +kernel, by decide +kernel, by decide +kernel, by decide +kernel, by decide +kernel, by decide +kernel⟩,
   ⟨reqDev [], 0, by decide +kernel⟩,
   ⟨reqDev [(65535, reqOf [(qfState, 9)])], 65535, by decide +kernel, by decide +kernel⟩⟩

theorem test_meets_RequestsEndOnce :
    (∃ (s : State) (i : Nat), (s.req i).words.length = 16) ∧
    (∃ (s : State), msorted s.serve.runs = true) ∧
    (∃ (s : State) (i : Nat), (s.req i).words.length = 16 ∧ s.inRingRun i = true) :=
  ⟨⟨reqDev [(0, decode0)], 0, by decide +kernel⟩,
   ⟨serveDev 0 serve0, by decide +kernel⟩,
   ⟨{ reqDev [(0, decode0)] with ringRuns := [(0, ring0)] }, 0, by decide +kernel, by decide +kernel⟩⟩

theorem test_meets_FreeListsPushAndDrain :
    (∃ (s : State) (n c page : Nat), 12 ≤ c ∧ c ≤ 30 ∧ page % 2 ^ (c - 12) = 0 ∧ 512 * s.f F.SRV_KV_POOL_FIRST n ≤ page ∧ page + 2 ^ (c - 12) ≤ 512 * (s.f F.SRV_KV_POOL_FIRST n + s.f F.SRV_KV_POOL_FRAMES n) ∧ s.kvBusy page c = false ∧ MemoryCanonical s ∧ basinBase + 4096 * page + 8 ≤ plainBase ∧ page < 2 ^ 29) ∧
    (∃ (s : State) (n c page : Nat), ((c < 12 ∨ 30 < c ∨ page % 2 ^ (c - 12) ≠ 0 ∨ page < 512 * s.f F.SRV_KV_POOL_FIRST n ∨ 512 * (s.f F.SRV_KV_POOL_FIRST n + s.f F.SRV_KV_POOL_FRAMES n) < page + 2 ^ (c - 12) ∨ s.kvBusy page c = true))) ∧
    (∃ (c : Nat), 12 ≤ c ∧ c ≤ 30) :=
  ⟨⟨kvDev, 0, 30, 512 * (17 * 512), by decide +kernel, by decide +kernel, by decide +kernel, by decide +kernel, by decide +kernel, by decide +kernel, canonical (by decide +kernel), by decide +kernel, by decide +kernel⟩,
   ⟨kvDev, 0, 30, 1, by decide +kernel⟩,
   ⟨12, by decide +kernel, by decide +kernel⟩⟩

theorem test_meets_RingRunsBeginAndEnd :
    (∃ (s u : State) (q : QId) (r : Rec) (ls : List (Nat × Nat)) (fd : Nat × Nat) (x : RingRun), Starts specRingRun s q.val r ∧ r.opcode = 0x28 ∧ u = s.takeHead q.val 4 r ∧ ringEncoding u (u.queueJob q.val) r = none ∧ u.laneMap (u.queueJob q.val) r = some (ls, fd) ∧ x = { q := q.val, seq := s.headSeq q.val, job := u.queueJob q.val, entry := r.ringEntry, s0 := r.ringS0, scount := r.ringScount, part := r.w5.toNat, hq := bitsOf r.w6 0 16, feed := r.ringFeed, feedMu := fd.1, feedRing := fd.2, lanes := ls.map (fun l => ⟨l.1, l.2, 0, 0, 0, 0, 0, 0, 0⟩), predOk := false, succOk := false, step := 0, since := u.now, fed := 0, m0 := 0, feedE := 0 } ∧ (∀ l ∈ ls, u.ringReady x.job l false (1 + u.ringBlockBytes x / 64) = true) ∧ ((x.feed = true → u.ringReady x.job fd true (u.ringDim x / 16 + 1) = true))) ∧
    (∃ (s : State) (g : GroupId) (m : RingSetupMsg) (x : RingRun), s.part.hasMeander = true ∧ mget s.ringRuns g.val = some x ∧ s.fb F.MRE_G_CFG_VALID g.val = true ∧ m.src.toNat = s.f F.MRE_G_NBR_PRED_CHIP g.val ∧ x.predOk = false ∧ s.f F.MRE_G_STAT_STATE g.val = 1 ∧ setupOf m = s.setupValues g.val x ∧ m.index = (s.ringIndex g.val + s.ringMembers g.val - 1) % s.ringMembers g.val) ∧
    (∃ (s : State) (g : GroupId) (m : RingSetupMsg) (x : RingRun), s.part.hasMeander = true ∧ mget s.ringRuns g.val = some x ∧ s.fb F.MRE_G_CFG_VALID g.val = true ∧ m.src.toNat = s.f F.MRE_G_NBR_PRED_CHIP g.val ∧ x.predOk = false ∧ s.f F.MRE_G_STAT_STATE g.val = 1 ∧ setupOf m ≠ s.setupValues g.val x) ∧
    (∃ (s u : State) (g : GroupId) (x : RingRun), u = s.ringPump g.val ∧ mget u.ringRuns g.val = some x ∧ x.since + u.ringLimit g.val < u.now) ∧
    (∃ (s : State) (g : GroupId) (runId : BitVec 32) (x : RingRun), mget s.ringRuns g.val = some x ∧ runId.toNat = s.f F.MRE_G_STEPMAX_RUN_ID g.val) ∧
    (∃ (s : State) (g c m : Nat) (x : RingRun), mget s.ringRuns g = some x ∧ x.notice = some (c, m)) ∧
    (∃ (s : State) (g : GroupId) (runId : BitVec 32), runId.toNat ≠ s.f F.MRE_G_STEPMAX_RUN_ID g.val) ∧
    (∃ (s : State), msorted s.ringRuns = true) :=
  ⟨⟨put (cRing 1) ringCmdDev, taken specRingRun (cRing 1) (put (cRing 1) ringCmdDev), 0, cRing 1, [(0, 0)], (0, 1), ringRun1 (taken specRingRun (cRing 1) (put (cRing 1) ringCmdDev)), starts rfl (by decide +kernel), by decide +kernel, rfl, by decide +kernel, by decide +kernel, rfl, by decide +kernel, by decide +kernel⟩,
   ⟨ringDev [ring0] 1, 0, setupMsg ((ringDev [ring0] 1).setupValues 0 ring0) 1, ring0, by decide +kernel, by decide +kernel, by decide +kernel, by decide +kernel, by decide +kernel, by decide +kernel, by decide +kernel, by decide +kernel⟩,
   ⟨ringDev [ring0] 1, 0, setupMsg [] 1, ring0, by decide +kernel, by decide +kernel, by decide +kernel, by decide +kernel, by decide +kernel, by decide +kernel, by decide +kernel⟩,
   ⟨{ ringDev [ring0] 1 with tb := { dev.tb with tick := 2 ^ 26 } }, State.ringPump { ringDev [ring0] 1 with tb := { dev.tb with tick := 2 ^ 26 } } 0, 0, ring0, rfl, by decide +kernel, by decide +kernel⟩,
   ⟨ringDev [ring0] 1, 0, 0, ring0, by decide +kernel, by decide +kernel⟩,
   ⟨ringDev [{ ring0 with notice := some (2, 1023) }] 1, 0, 2, 1023, { ring0 with notice := some (2, 1023) }, by decide +kernel, by decide +kernel⟩,
   ⟨ringDev [ring0] 1, 0, 1, by decide +kernel⟩,
   ⟨ringDev [ring0] 2, by decide +kernel⟩⟩

theorem test_meets_RingBlocksCirculate :
    (∃ (s : State) (g : GroupId) (m : RingBlockMsg) (x : RingRun), mget s.ringRuns g.val = some x ∧ s.f F.MRE_G_STAT_STATE g.val = 2 ∧ m.runId.toNat = s.f F.MRE_G_STEPMAX_RUN_ID g.val) ∧
    (∃ (s : State) (g : Nat) (m : RingBlockMsg) (x : RingRun) (l : LaneSt) (b : BlockId) (a : Nat), x.lanes[m.lane]? = some l ∧ s.blockAt g x m.lane (s.ringMembers g) 0 l.put = some b ∧ l.given ≠ 0 ∧ s.segmentOk g x l m b = true ∧ a = s.slotOffset l.mu l.ring (s.ringOf l.mu l.ring).2.tail ∧ m.segIndex + 1 < m.segCount) ∧
    (∃ (s : State) (g : Nat) (m : RingBlockMsg) (x : RingRun) (l : LaneSt) (b : BlockId) (a : Nat) (v : State), x.lanes[m.lane]? = some l ∧ s.blockAt g x m.lane (s.ringMembers g) 0 l.put = some b ∧ l.given ≠ 0 ∧ s.segmentOk g x l m b = true ∧ a = s.slotOffset l.mu l.ring (s.ringOf l.mu l.ring).2.tail ∧ m.segCount ≤ m.segIndex + 1 ∧ v = (s.store (a + m.offset) m.data m.poison).countLines true (a + m.offset) m.data.length) ∧
    (∃ (s : State) (g : Nat) (m : RingBlockMsg) (x : RingRun) (l : LaneSt) (b : BlockId), x.lanes[m.lane]? = some l ∧ s.blockAt g x m.lane (s.ringMembers g) 0 l.put = some b ∧ ((l.given = 0 ∨ s.segmentOk g x l m b = false))) ∧
    (∃ (s : State) (g : GroupId) (lane : Nat) (x : RingRun) (l : LaneSt), mget s.ringRuns g.val = some x ∧ x.lanes[lane]? = some l) ∧
    (∃ (s : State) (g : GroupId) (lane : Nat) (x : RingRun) (l : LaneSt), mget s.ringRuns g.val = some x ∧ x.lanes[lane]? = some l) ∧
    (∃ (s : State) (g : GroupId) (i : Nat) (x : RingRun) (bs : List Byte) (mark : Bool), mget s.ringRuns g.val = some x ∧ 2 ≤ s.f F.MRE_G_STAT_STATE g.val ∧ i = s.f F.MRE_G_PROG_STEPS_DONE g.val ∧ i < s.ringMembers g.val ∧ s.readVirt x.job (x.part + 8 * i) 8 = .ok (bs, mark) ∧ leWord bs = setBits (setBits (0 : W64) 16 32 (s.f F.MRE_G_STEPMAX_RUN_ID g.val)) 63 1 1) ∧
    (∃ (s : State) (g : GroupId) (i : Nat) (x : RingRun) (bs : List Byte) (mark : Bool), mget s.ringRuns g.val = some x ∧ s.readVirt x.job (x.part + 8 * i) 8 = .ok (bs, mark) ∧ leWord bs ≠ setBits (setBits (0 : W64) 16 32 (s.f F.MRE_G_STEPMAX_RUN_ID g.val)) 63 1 1) ∧
    (∃ (s u : State) (g : GroupId) (x : RingRun), u = s.ringPump g.val ∧ mget u.ringRuns g.val = some x ∧ u.f F.MRE_G_STAT_STATE g.val = 3 ∧ u.f F.MRE_G_PROG_STEPS_DONE g.val = u.ringMembers g.val ∧ x.fed < u.ringMembers g.val * u.shardLen g.val (u.ringIndex g.val) * x.hq) ∧
    (∃ (s : State) (g : Nat) (x : RingRun) (bs : List Byte) (mark : Bool) (a : Nat), (s.ringOf x.feedMu x.feedRing).2.fill false < (s.ringOf x.feedMu x.feedRing).1.slots ∧ x.fed % s.ringMembers g ≠ 0 ∧ s.readVirt x.job (s.partialVa g x (x.fed % s.ringMembers g) (x.fed / s.ringMembers g / x.hq) (x.fed / s.ringMembers g % x.hq)) (4 * s.ringDim x + 64) = .ok (bs, mark) ∧ a = s.slotOffset x.feedMu x.feedRing (s.ringOf x.feedMu x.feedRing).2.tail) :=
  ⟨⟨ringDev [ring1] 2, 0, blockMsg ring1 lane0, ring1, by decide +kernel, by decide +kernel, by decide +kernel⟩,
   ⟨ringDev [ring1] 2, 0, blockMsg ring1 lane0, ring1, lane0, ringBlk ring1 lane0, (ringDev [ring1] 2).slotOffset 0 0 ((ringDev [ring1] 2).ringOf 0 0).2.tail, by decide +kernel, by decide +kernel, by decide +kernel, by decide +kernel, rfl, by decide +kernel⟩,
   ⟨ringDev [ring2] 2, 0, blockMsg ring2 lane1, ring2, lane1, ringBlk ring2 lane1, (ringDev [ring2] 2).slotOffset 0 0 ((ringDev [ring2] 2).ringOf 0 0).2.tail, ((ringDev [ring2] 2).store ((ringDev [ring2] 2).slotOffset 0 0 ((ringDev [ring2] 2).ringOf 0 0).2.tail + (blockMsg ring2 lane1).offset) (blockMsg ring2 lane1).data (blockMsg ring2 lane1).poison).countLines true ((ringDev [ring2] 2).slotOffset 0 0 ((ringDev [ring2] 2).ringOf 0 0).2.tail + (blockMsg ring2 lane1).offset) (blockMsg ring2 lane1).data.length, by decide +kernel, by decide +kernel, by decide +kernel, by decide +kernel, rfl, by decide +kernel, rfl⟩,
   ⟨ringDev [{ ring1 with lanes := [{ lane0 with given := 0 }] }] 2, 0, blockMsg ring1 lane0, { ring1 with lanes := [{ lane0 with given := 0 }] }, { lane0 with given := 0 }, ringBlk ring1 lane0, by decide +kernel, by decide +kernel, by decide +kernel⟩,
   ⟨ringDev [ring1] 2, 0, 0, ring1, lane0, by decide +kernel, by decide +kernel⟩,
   ⟨ringDev [ring1] 2, 0, 0, ring1, lane0, by decide +kernel, by decide +kernel⟩,
   ⟨(ringDev [ring1] 2).store 0x3000 stepMark, 0, 0, ring1, stepMark, false, by decide +kernel, by decide +kernel, rfl, by decide +kernel, by decide +kernel, by decide +kernel⟩,
   ⟨ringDev [ring1] 2, 0, 1, ring1, List.replicate 8 0, false, by decide +kernel, by decide +kernel, by decide +kernel⟩,
   ⟨(ringDev [ringFeedRun] 3).setF F.MRE_G_PROG_STEPS_DONE 2, ((ringDev [ringFeedRun] 3).setF F.MRE_G_PROG_STEPS_DONE 2).ringPump 0, 0, ringFeedRun, rfl, by decide +kernel, by decide +kernel, by decide +kernel, by decide +kernel⟩,
   ⟨ringDev [ring1] 3, 0, { ring1 with fed := 1 }, List.replicate (4 * 64 + 64) 0, false, (ringDev [ring1] 3).slotOffset 0 1 ((ringDev [ring1] 3).ringOf 0 1).2.tail, by decide +kernel, by decide +kernel, by decide +kernel, rfl⟩⟩

theorem test_meets_RoutesTakeTheirPhases :
    (∃ (s u : State) (q : QId) (r : Rec) (g : Nat), Starts specRoute s q.val r ∧ r.opcode = 0x30 ∧ r.routePhase = 0 ∧ g = r.routeGroup ∧ u = s.takeHead q.val 5 r ∧ u.routeInOrder r = true) ∧
    (∃ (s u v : State) (q : QId) (r : Rec) (g : Nat), Starts specRoute s q.val r ∧ r.opcode = 0x30 ∧ r.routePhase = 1 ∧ g = r.routeGroup ∧ u = s.takeHead q.val 5 r ∧ u.routeInOrder r = true ∧ v = u.setF F.WSU_G_STAT_PHASE 2 g) ∧
    (∃ (s u v : State) (q : QId) (r : Rec) (g : Nat), Starts specRoute s q.val r ∧ r.opcode = 0x30 ∧ r.routePhase = 2 ∧ g = r.routeGroup ∧ u = s.takeHead q.val 5 r ∧ u.routeInOrder r = true ∧ v = u.setF F.WSU_G_STAT_PHASE 0 g) ∧
    (∃ (s : State) (g : GroupId) (k m : Nat), s.runningPhase g.val = some (k + 1) ∧ (s.routeOthers g.val).find? (fun m => !(s.route g.val).ends.contains (m, k + 1)) = some m ∧ (s.route g.val).since + s.routeLimit g.val ≤ s.now) ∧
    (∃ (s : State) (g : GroupId), s.part.hasWatershed = true ∧ s.fb F.WSU_G_CFG_VALID g.val = true) ∧
    (∃ (s : State) (g : GroupId), s.part.hasWatershed = true ∧ s.fb F.WSU_G_CFG_VALID g.val = true) ∧
    (∃ (s : State) (t : Nat), s.wsu.holder = 0 ∧ s.wsu.wsuWait = some t ∧ ((s.wsu.sampWait = none ∨ s.wsu.lastGrant ≠ 1))) ∧
    (∃ (s : State) (t : Nat), s.wsu.holder = 0 ∧ s.wsu.sampWait = some t ∧ ((s.wsu.wsuWait = none ∨ s.wsu.lastGrant ≠ 2))) ∧
    (∃ (who : Nat), ((who = 1 ∨ who = 2))) ∧
    (∃ (s : State), s.wsu.holder ≠ 0) ∧
    (∃ (s : State) (g : Nat), s.wsu.holder = 1 ∧ s.wsu.running = some g) ∧
    (∃ (s : State), s.wsu.holder = 2) :=
  ⟨⟨put (cRoute 0) (routeDev 0 .fresh), taken specRoute (cRoute 0) (put (cRoute 0) (routeDev 0 .fresh)), 0, cRoute 0, (cRoute 0).routeGroup, starts (by decide +kernel) (by decide +kernel), by decide +kernel, by decide +kernel, rfl, rfl, by decide +kernel⟩,
   ⟨put (cRoute 1) (routeDev 1 keyed), taken specRoute (cRoute 1) (put (cRoute 1) (routeDev 1 keyed)), (taken specRoute (cRoute 1) (put (cRoute 1) (routeDev 1 keyed))).setF F.WSU_G_STAT_PHASE 2 (cRoute 1).routeGroup, 0, cRoute 1, (cRoute 1).routeGroup, starts rfl (by decide +kernel), by decide +kernel, by decide +kernel, rfl, rfl, by decide +kernel, rfl⟩,
   ⟨put (cRoute 2) (routeDev 2 keyed), taken specRoute (cRoute 2) (put (cRoute 2) (routeDev 2 keyed)), (taken specRoute (cRoute 2) (put (cRoute 2) (routeDev 2 keyed))).setF F.WSU_G_STAT_PHASE 0 (cRoute 2).routeGroup, 0, cRoute 2, (cRoute 2).routeGroup, starts rfl (by decide +kernel), by decide +kernel, by decide +kernel, rfl, rfl, by decide +kernel, rfl⟩,
   ⟨routing, 0, 0, 1, by decide +kernel, by decide +kernel, by decide +kernel⟩,
   ⟨routeDev 1 planned, 0, by decide +kernel, by decide +kernel⟩,
   ⟨routeDev 1 planned, 0, by decide +kernel, by decide +kernel⟩,
   ⟨{ dev with wsu := { dev.wsu with wsuWait := some 3, sampWait := some 3, lastGrant := 2 } }, 3, by decide +kernel, by decide +kernel, by decide +kernel⟩,
   ⟨{ dev with wsu := { dev.wsu with wsuWait := some 3, sampWait := some 3, lastGrant := 1 } }, 3, by decide +kernel, by decide +kernel, by decide +kernel⟩,
   ⟨2, by decide +kernel⟩,
   ⟨{ dev with wsu := { dev.wsu with holder := 2 } }, by decide +kernel⟩,
   ⟨{ dev with wsu := { dev.wsu with holder := 1, running := some 0 } }, 0, by decide +kernel, by decide +kernel⟩,
   ⟨{ dev with wsu := { dev.wsu with holder := 2 } }, by decide +kernel⟩⟩

theorem test_meets_RoutedMessagesAreJudged :
    (∃ (s : State) (g src : Nat) (h : RouteHdr) (p : RoutePlan), src < s.routeMembers g ∧ src ≠ s.routeIndex g ∧ h.batch = s.batch g ∧ (s.route g).plan = some p) ∧
    (∃ (s : State) (g src : Nat) (h : RouteHdr), src < s.routeMembers g ∧ src ≠ s.routeIndex g ∧ h.batch = (s.batch g + 1) % 2 ^ 20) ∧
    (∃ (s : State) (g src : Nat) (h : RouteHdr), ((s.routeMembers g ≤ src ∨ src = s.routeIndex g ∨ (h.batch ≠ (s.batch g + 1) % 2 ^ 20 ∧ h.batch ≠ s.batch g)))) ∧
    (∃ (s : State) (g src : Nat) (h : RouteHdr), s.judge g src h = .refuse) ∧
    (∃ (s : State) (g src : Nat) (h : RouteHdr) (p : RoutePlan), s.judge g src h = .take p) :=
  ⟨⟨routeDev 1 planned, 0, 1, hdr1 0, plan0, by decide +kernel, by decide +kernel, by decide +kernel, by decide +kernel⟩,
   ⟨routeDev 1 planned, 0, 1, hdr1 1, by decide +kernel, by decide +kernel, by decide +kernel⟩,
   ⟨routeDev 1 planned, 0, 2, hdr1 0, by decide +kernel⟩,
   ⟨routeDev 1 planned, 0, 1, hdr1 2, by decide +kernel⟩,
   ⟨routeDev 1 planned, 0, 1, hdr1 0, plan0, by decide +kernel⟩⟩

theorem test_meets_ExpertsAreChosenAndSlottedOnce : ∃ (cs : List (List Choice)), (∀ l ∈ cs, ∀ c ∈ l, c.accepted = false) :=
  ⟨[[⟨0, 0, 0, false⟩, ⟨1, 0, 0, false⟩], [⟨0, 0, 0, false⟩]], by decide +kernel⟩

theorem test_meets_CollectivesRunStepByStep :
    (∃ (s u v : State) (q : QId) (r : Rec) (c : Instr) (o g e : Nat) (x : CollEntry), (c, o) ∈ [(Instr.allReduce q, 0), (.reduceScatter q, 1), (.allGather q, 2), (.broadcast q, 3), (.allToAll q, 4), (.barrier q, 5)] ∧ Starts specColl s q.val r ∧ r.opcode = 0x20 ∧ r.collOper = o ∧ u = s.takeHead q.val 3 r ∧ g = r.collGroupOf ∧ v = u.setF F.ALT_CG_STAT_SEQ ((u.f F.ALT_CG_STAT_SEQ g + 1) % 2 ^ 32) g ∧ (v.collChips g).all v.inFence = true ∧ v.collTag (u.f F.ALT_CG_CFG_GID g) (u.f F.ALT_CG_STAT_SEQ g) = none ∧ v.collSlot = some e ∧ x = CollEntry.fresh (u.f F.ALT_CG_CFG_GID g) (u.f F.ALT_CG_STAT_SEQ g) (u.collKey g r) g v.now) ∧
    (∃ (s u v : State) (q : QId) (r : Rec) (c : Instr) (o g e : Nat) (x : CollEntry), (c, o) ∈ [(Instr.allReduce q, 0), (.reduceScatter q, 1), (.allGather q, 2), (.broadcast q, 3), (.allToAll q, 4), (.barrier q, 5)] ∧ Starts specColl s q.val r ∧ r.opcode = 0x20 ∧ r.collOper = o ∧ u = s.takeHead q.val 3 r ∧ g = r.collGroupOf ∧ v = u.setF F.ALT_CG_STAT_SEQ ((u.f F.ALT_CG_STAT_SEQ g + 1) % 2 ^ 32) g ∧ (v.collChips g).all v.inFence = true ∧ v.collTag (u.f F.ALT_CG_CFG_GID g) (u.f F.ALT_CG_STAT_SEQ g) = some (e, x) ∧ x.status = none ∧ x.key = u.collKey g r) ∧
    (∃ (s u v : State) (q : QId) (r : Rec) (c : Instr) (o g : Nat), (c, o) ∈ [(Instr.allReduce q, 0), (.reduceScatter q, 1), (.allGather q, 2), (.broadcast q, 3), (.allToAll q, 4), (.barrier q, 5)] ∧ Starts specColl s q.val r ∧ r.opcode = 0x20 ∧ r.collOper = o ∧ u = s.takeHead q.val 3 r ∧ g = r.collGroupOf ∧ v = u.setF F.ALT_CG_STAT_SEQ ((u.f F.ALT_CG_STAT_SEQ g + 1) % 2 ^ 32) g ∧ (v.collChips g).all v.inFence = true ∧ v.collTag (u.f F.ALT_CG_CFG_GID g) (u.f F.ALT_CG_STAT_SEQ g) = none ∧ v.collSlot = none) ∧
    (∃ (s u v : State) (q : QId) (r : Rec) (c : Instr) (o g : Nat), (c, o) ∈ [(Instr.allReduce q, 0), (.reduceScatter q, 1), (.allGather q, 2), (.broadcast q, 3), (.allToAll q, 4), (.barrier q, 5)] ∧ Starts specColl s q.val r ∧ r.opcode = 0x20 ∧ r.collOper = o ∧ u = s.takeHead q.val 3 r ∧ g = r.collGroupOf ∧ v = u.setF F.ALT_CG_STAT_SEQ ((u.f F.ALT_CG_STAT_SEQ g + 1) % 2 ^ 32) g ∧ (v.collChips g).all v.inFence = false) ∧
    (∃ (s : State) (m : CollStepMsg) (g e : Nat) (x : CollEntry), s.collGroup m.gid.toNat = some g ∧ m.src < s.collMembers g ∧ m.src ≠ s.collIndex g ∧ s.collTag m.gid.toNat m.seq.toNat = some (e, x) ∧ x.key = stepKey m ∧ m.offset = (mgetD x.inbox (4096 * m.stage + m.src) []).length) ∧
    (∃ (s : State) (m : CollStepMsg) (g e : Nat) (x : CollEntry), s.collGroup m.gid.toNat = some g ∧ m.src < s.collMembers g ∧ m.src ≠ s.collIndex g ∧ s.collTag m.gid.toNat m.seq.toNat = some (e, x) ∧ x.key ≠ stepKey m) ∧
    (∃ (s : State) (m : CollStepMsg) (g e : Nat), s.collGroup m.gid.toNat = some g ∧ m.src < s.collMembers g ∧ m.src ≠ s.collIndex g ∧ s.collTag m.gid.toNat m.seq.toNat = none ∧ (m.seq.toNat + 2 ^ 32 - s.f F.ALT_CG_STAT_SEQ g) % 2 ^ 32 < 2 ^ 31 ∧ s.collSlot = some e ∧ m.offset = 0) ∧
    (∃ (s : State) (gid : BitVec 16) (seq : BitVec 32) (e : Nat) (x : CollEntry), s.collTag gid.toNat seq.toNat = some (e, x)) ∧
    (∃ (s : State) (e j : Nat) (x : CollEntry), mget s.coll.entries e = some x ∧ x.created + s.orderLimit < s.now ∧ j ∈ s.collWaits x ∧ x.seen.contains j = false) ∧
    (∃ (s : State) (e : Nat) (b : Fin 4) (x : CollEntry) (f : CollFlow) (t : Nat), mget s.coll.entries e = some x ∧ x.flows[b.val]? = some f ∧ f.fullSince = some t ∧ x.detach = true ∧ f.cut = false ∧ t + s.lagTicks < s.now) ∧
    (∃ (q seq : Nat) (x : CollEntry) (st : Status), x.started = some (q, seq) ∧ x.status = none ∧ st ≠ .collOrder ∧ st ≠ .nanTrap) ∧
    (∃ (x : CollEntry), x.started = none) :=
  ⟨⟨put cBarrier (collDev [] 3), collU (collDev [] 3), collV (collDev [] 3), 0, cBarrier, .barrier 0, 5, cBarrier.collGroupOf, 0, collX (collDev [] 3), by decide +kernel, starts rfl (by decide +kernel), by decide +kernel, by decide +kernel, rfl, rfl, rfl, by decide +kernel, by decide +kernel, by decide +kernel, rfl⟩,
   ⟨put cBarrier (collDev [(2, coll0)] 3), collU (collDev [(2, coll0)] 3), collV (collDev [(2, coll0)] 3), 0, cBarrier, .barrier 0, 5, cBarrier.collGroupOf, 2, coll0, by decide +kernel, starts rfl (by decide +kernel), by decide +kernel, by decide +kernel, rfl, rfl, rfl, by decide +kernel, by decide +kernel, by decide +kernel, by decide +kernel⟩,
   ⟨put cBarrier (collDev [(0, coll1), (1, coll1), (2, coll1), (3, coll1)] 3), collU (collDev [(0, coll1), (1, coll1), (2, coll1), (3, coll1)] 3), collV (collDev [(0, coll1), (1, coll1), (2, coll1), (3, coll1)] 3), 0, cBarrier, .barrier 0, 5, cBarrier.collGroupOf, by decide +kernel, starts rfl (by decide +kernel), by decide +kernel, by decide +kernel, rfl, rfl, rfl, by decide +kernel, by decide +kernel, by decide +kernel⟩,
   ⟨put cBarrier (collDev [] 0), collU (collDev [] 0), collV (collDev [] 0), 0, cBarrier, .barrier 0, 5, cBarrier.collGroupOf, by decide +kernel, starts rfl (by decide +kernel), by decide +kernel, by decide +kernel, rfl, rfl, rfl, by decide +kernel⟩,
   ⟨collDev [(2, coll0)] 3, collMsg 2, 0, 2, coll0, by decide +kernel, by decide +kernel, by decide +kernel, by decide +kernel, by decide +kernel, by decide +kernel⟩,
   ⟨collDev [(2, coll0)] 3, collMsg 3, 0, 2, coll0, by decide +kernel, by decide +kernel, by decide +kernel, by decide +kernel, by decide +kernel⟩,
   ⟨collDev [] 3, collMsg 2, 0, 0, by decide +kernel, by decide +kernel, by decide +kernel, by decide +kernel, by decide +kernel, by decide +kernel, by decide +kernel⟩,
   ⟨collDev [(2, coll0)] 3, 0, 0, 2, coll0, by decide +kernel⟩,
   ⟨{ collDev [(2, coll0)] 3 with tb := { dev.tb with tick := 0x989681 } }, 2, 1, coll0, by decide +kernel, by decide +kernel, by decide +kernel, by decide +kernel⟩,
   ⟨{ collDev [(2, collCut)] 3 with tb := { dev.tb with tick := 1000001 } }, 2, 0, collCut, ⟨1, [], 8, some 0, false⟩, 0, by decide +kernel, by decide +kernel, by decide +kernel, by decide +kernel, by decide +kernel, by decide +kernel⟩,
   ⟨0, 0, { coll0 with started := some (0, 0) }, .timeout, by decide +kernel, by decide +kernel, by decide +kernel, by decide +kernel⟩,
   ⟨coll0, by decide +kernel⟩⟩

theorem test_meets_BroadcastTreesReachEveryMember : ∃ (s : State) (g : Nat) (k : CollKey), k.root < k.members ∧ ((s.collIsList g = false → k.members = s.collW g * s.collH g)) :=
  ⟨collDev [] 3, 0, { barrierKey with root := 1 }, by decide +kernel, by decide +kernel⟩

theorem test_meets_TokensMoveThroughTheFabric :
    (∃ (s : State) (d : DaleId) (site : SiteId) (first : Nat) (x : CastRun), s.stepOn d.val = some (first, x) ∧ s.boxReady d.val site.val first (s.castRef x.cast).count (saddleDepth (s.castRef x.cast).header) = true) ∧
    (∃ (s : State) (d : DaleId) (site : SiteId) (port : Fin 14) (first n : Nat) (x : CastRun) (y : CuSt) (h : Held) (t : Token), s.stepOn d.val = some (first, x) ∧ port.val < 8 ∧ siteIsCu site.val = true ∧ n = unitAt d.val site.val ∧ y = s.cu n ∧ y.arrivals.find? (fun h => h.port == port.val) = some h ∧ t = s.tagged h.token ∧ (cuTasks (s.unitProg false n)).testBit t.task = true ∧ y.wants { h with token := t } = false ∧ tagAhead t.tag (nth y.tasks t.task .fresh).tb < 8) ∧
    (∃ (s : State) (d : DaleId) (site : SiteId) (port : Fin 14) (first n : Nat) (x : CastRun) (y : CuSt) (h : Held) (t : Token), s.stepOn d.val = some (first, x) ∧ port.val < 8 ∧ siteIsCu site.val = true ∧ n = unitAt d.val site.val ∧ y = s.cu n ∧ y.arrivals.find? (fun h => h.port == port.val) = some h ∧ t = s.tagged h.token ∧ (cuTasks (s.unitProg false n)).testBit t.task = true ∧ y.wants { h with token := t } = false ∧ 32768 ≤ tagAhead t.tag (nth y.tasks t.task .fresh).tb) ∧
    (∃ (s : State) (d : DaleId) (site : SiteId) (port : Fin 14) (first n a : Nat) (x : CastRun) (y : MuSt) (h : Held) (t : Token), s.stepOn d.val = some (first, x) ∧ port.val < 8 ∧ siteIsCu site.val = false ∧ n = unitAt d.val site.val ∧ y = s.mu n ∧ y.arrivals.find? (fun h => h.port == port.val) = some h ∧ t = s.tagged h.token ∧ s.portAg n h.port = some a ∧ tagAhead t.tag (bitsOf (wordAt (s.unitProg true n) (nth y.ags a .fresh).pc) 33 16 + (nth y.ags a .fresh).base) < 8) ∧
    (∃ (s : State) (d : DaleId) (site : SiteId) (port : Fin 14) (first e : Nat) (x : CastRun) (y : ElemSt) (h : Held) (t : Token), s.stepOn d.val = some (first, x) ∧ 8 ≤ port.val ∧ e = (port.val - 8) / 3 ∧ y = s.elem d.val site.val e ∧ y.arrivals.find? (fun h => h.port == (port.val - 8) % 3) = some h ∧ t = s.tagged h.token ∧ tagAhead t.tag y.base < 8) ∧
    (∃ (s : State) (d : DaleId) (k : Fin 4096) (first key i : Nat) (x : CastRun) (c : Chan) (y : ChanSt) (rest : List Nat), s.stepOn d.val = some (first, x) ∧ key = 4096 * d.val + k.val ∧ s.chanDesc key = some c ∧ y = s.chan key ∧ y.returning = i :: rest ∧ y.spilled = []) ∧
    (∃ (s : State) (d : DaleId) (site : SiteId) (e : Fin 2) (tag : BitVec 16) (first g : Nat) (x : CastRun) (y : ElemSt) (ctl : Held) (data : List Held), s.stepOn d.val = some (first, x) ∧ y = s.elem d.val site.val e.val ∧ g = steerGroup (s.slotTable d.val site.val) e.val ∧ steerMode (s.slotTable d.val site.val) e.val = 1 ∧ (y.tokensOf 0 tag.toNat).head? = some ctl ∧ data = (y.tokensOf 1 tag.toNat).take g ∧ data.length = g ∧ y.fired.contains tag.toNat = false ∧ ctl.token.poison = false ∧ s.elemOutFree d.val site.val e.val ctl.token.decision = true) ∧
    (∃ (s : State) (d : DaleId) (site : SiteId) (e : Fin 2) (tag : BitVec 16) (first g : Nat) (x : CastRun) (y : ElemSt) (ctl : Held) (one two : List Held), s.stepOn d.val = some (first, x) ∧ y = s.elem d.val site.val e.val ∧ g = steerGroup (s.slotTable d.val site.val) e.val ∧ steerMode (s.slotTable d.val site.val) e.val = 2 ∧ (y.tokensOf 0 tag.toNat).head? = some ctl ∧ one = (y.tokensOf 1 tag.toNat).take g ∧ two = (y.tokensOf 2 tag.toNat).take g ∧ one.length = g ∧ two.length = g ∧ y.fired.contains tag.toNat = false ∧ ctl.token.poison = false ∧ s.elemOutFree d.val site.val e.val 0 = true) ∧
    (∃ (s : State) (d : DaleId) (site : SiteId) (e : Fin 2) (tag : BitVec 16) (first g : Nat) (x : CastRun) (y : ElemSt) (ctl : Held) (sel : List Held), s.stepOn d.val = some (first, x) ∧ y = s.elem d.val site.val e.val ∧ g = steerGroup (s.slotTable d.val site.val) e.val ∧ steerMode (s.slotTable d.val site.val) e.val = 3 ∧ (y.tokensOf 0 tag.toNat).head? = some ctl ∧ sel = (y.tokensOf (1 + ctl.token.decision) tag.toNat).take g ∧ sel.length = g ∧ y.fired.contains tag.toNat = false ∧ ctl.token.poison = false ∧ s.elemOutFree d.val site.val e.val 0 = true) ∧
    (∃ (s : State) (d : DaleId) (site : SiteId) (e : Fin 2) (tag : BitVec 16) (first : Nat) (x : CastRun) (y : ElemSt) (ctl : Held), s.stepOn d.val = some (first, x) ∧ y = s.elem d.val site.val e.val ∧ steerMode (s.slotTable d.val site.val) e.val = 1 ∧ (y.tokensOf 0 tag.toNat).head? = some ctl ∧ steerGroup (s.slotTable d.val site.val) e.val ≤ (y.tokensOf 1 tag.toNat).length ∧ y.fired.contains tag.toNat = false ∧ ctl.token.poison = true) :=
  ⟨⟨stepDev cast0 run0, 0, 63, 0, run0, by decide +kernel, by decide +kernel⟩,
   ⟨cuDev (cuTok 7) 0 0, 0, 0, 7, 0, unitAt (0 : DaleId).val (0 : SiteId).val, run0, (cuDev (cuTok 7) 0 0).cu (unitAt (0 : DaleId).val (0 : SiteId).val), heldAt 7 7, (cuDev (cuTok 7) 0 0).tagged (heldAt 7 7).token, by decide +kernel, by decide +kernel, by decide +kernel, rfl, rfl, by decide +kernel, rfl, by decide +kernel, by decide +kernel, by decide +kernel⟩,
   ⟨cuDev (cuTok 65535) 0 0, 0, 0, 7, 0, unitAt (0 : DaleId).val (0 : SiteId).val, run0, (cuDev (cuTok 65535) 0 0).cu (unitAt (0 : DaleId).val (0 : SiteId).val), heldAt 7 65535, (cuDev (cuTok 65535) 0 0).tagged (heldAt 7 65535).token, by decide +kernel, by decide +kernel, by decide +kernel, rfl, rfl, by decide +kernel, rfl, by decide +kernel, by decide +kernel, by decide +kernel⟩,
   ⟨muDev muA (affS 2), 0, 1, 0, 0, unitAt (0 : DaleId).val (1 : SiteId).val, 0, run0, (muDev muA (affS 2)).mu (unitAt (0 : DaleId).val (1 : SiteId).val), heldAt 0 7, (muDev muA (affS 2)).tagged (heldAt 0 7).token, by decide +kernel, by decide +kernel, by decide +kernel, rfl, rfl, by decide +kernel, rfl, by decide +kernel, by decide +kernel⟩,
   ⟨steerDev 0 elemA, 0, 0, 10, 0, ((10 : Fin 14).val - 8) / 3, run0, (steerDev 0 elemA).elem (0 : DaleId).val (0 : SiteId).val (((10 : Fin 14).val - 8) / 3), heldAt 2 7, (steerDev 0 elemA).tagged (heldAt 2 7).token, by decide +kernel, by decide +kernel, rfl, rfl, by decide +kernel, rfl, by decide +kernel⟩,
   ⟨chanDev, 0, 4095, 0, 4096 * (0 : DaleId).val + (4095 : Fin 4096).val, 0, run0, Chan.ofWords [0, 0, 0, 0], chanDev.chan (4096 * (0 : DaleId).val + (4095 : Fin 4096).val), [], by decide +kernel, rfl, by decide +kernel, rfl, by decide +kernel, by decide +kernel⟩,
   ⟨(steerDev 1 elem0), 0, 0, 0, 0, 0, steerGroup ((steerDev 1 elem0).slotTable (0 : DaleId).val (0 : SiteId).val) (0 : Fin 2).val, run0, (steerDev 1 elem0).elem (0 : DaleId).val (0 : SiteId).val (0 : Fin 2).val, heldAt 0 0, (((steerDev 1 elem0).elem (0 : DaleId).val (0 : SiteId).val (0 : Fin 2).val).tokensOf 1 (0 : BitVec 16).toNat).take (steerGroup ((steerDev 1 elem0).slotTable (0 : DaleId).val (0 : SiteId).val) (0 : Fin 2).val), by decide +kernel, rfl, rfl, by decide +kernel, by decide +kernel, rfl, by decide +kernel, by decide +kernel, by decide +kernel, by decide +kernel⟩,
   ⟨(steerDev 2 elem0), 0, 0, 0, 0, 0, steerGroup ((steerDev 2 elem0).slotTable (0 : DaleId).val (0 : SiteId).val) (0 : Fin 2).val, run0, (steerDev 2 elem0).elem (0 : DaleId).val (0 : SiteId).val (0 : Fin 2).val, heldAt 0 0, (((steerDev 2 elem0).elem (0 : DaleId).val (0 : SiteId).val (0 : Fin 2).val).tokensOf 1 (0 : BitVec 16).toNat).take (steerGroup ((steerDev 2 elem0).slotTable (0 : DaleId).val (0 : SiteId).val) (0 : Fin 2).val), (((steerDev 2 elem0).elem (0 : DaleId).val (0 : SiteId).val (0 : Fin 2).val).tokensOf 2 (0 : BitVec 16).toNat).take (steerGroup ((steerDev 2 elem0).slotTable (0 : DaleId).val (0 : SiteId).val) (0 : Fin 2).val), by decide +kernel, rfl, rfl, by decide +kernel, by decide +kernel, rfl, rfl, by decide +kernel, by decide +kernel, by decide +kernel, by decide +kernel, by decide +kernel⟩,
   ⟨(steerDev 3 elem0), 0, 0, 0, 0, 0, steerGroup ((steerDev 3 elem0).slotTable (0 : DaleId).val (0 : SiteId).val) (0 : Fin 2).val, run0, (steerDev 3 elem0).elem (0 : DaleId).val (0 : SiteId).val (0 : Fin 2).val, heldAt 0 0, (((steerDev 3 elem0).elem (0 : DaleId).val (0 : SiteId).val (0 : Fin 2).val).tokensOf (1 + (heldAt 0 0).token.decision) (0 : BitVec 16).toNat).take (steerGroup ((steerDev 3 elem0).slotTable (0 : DaleId).val (0 : SiteId).val) (0 : Fin 2).val), by decide +kernel, rfl, rfl, by decide +kernel, by decide +kernel, rfl, by decide +kernel, by decide +kernel, by decide +kernel, by decide +kernel⟩,
   ⟨(steerDev 1 elemP), 0, 0, 0, 0, 0, run0, (steerDev 1 elemP).elem (0 : DaleId).val (0 : SiteId).val (0 : Fin 2).val, { heldAt 0 0 with token := { token0 0 with poison := true } }, by decide +kernel, rfl, by decide +kernel, by decide +kernel, by decide +kernel, by decide +kernel, by decide +kernel⟩⟩

theorem test_meets_StepsEndOrAreStopped :
    (∃ (s : State) (d : DaleId) (x : CastRun), mget s.fabric.runs d.val = some x ∧ x.stepping = true ∧ s.castAtEnd (s.castRef x.cast) = true) ∧
    (∃ (s : State) (d : DaleId) (x : CastRun), mget s.fabric.runs d.val = none ∧ s.fabric.paused.find? (fun x => (s.castRef x.cast).first == d.val) = some x ∧ (∀ k ∈ (s.castRef x.cast).dales, s.runOn k = none) ∧ s.pauses x (s.castRef x.cast) = false) ∧
    (∃ (s u : State) (x y : CastRun), x.fault = none ∧ u = (s.countResidue x (s.castRef x.cast)).discardTokens (s.castRef x.cast) false ∧ y = { x with done := x.done + 1, stepping := false }) ∧
    (∃ (k : Nat) (x : CastRun) (dt : W64), x.fault = some (k, dt)) ∧
    (∃ (s : State) (d : DaleId) (x : CastRun), mget s.fabric.runs d.val = some x ∧ x.stepping = true ∧ s.castAtEnd (s.castRef x.cast) = false ∧ s.stallDue d.val x = true) ∧
    (∃ (s : State) (d : DaleId) (x : CastRun), mget s.fabric.runs d.val = some x ∧ x.stepping = true ∧ s.castAtEnd (s.castRef x.cast) = false ∧ s.stepLimit x ≤ x.ticks ∧ s.stallDue d.val x = false) ∧
    (∃ (s : State) (cu : UnitId) (t : Nat) (x : CuSt), x = s.cu cu.val ∧ (s.stepOn (cu.val / 32)).isSome = true ∧ x.canIssue (s.unitProg false cu.val) x.active = .finished ∧ ((List.range 3).map (fun i => (x.active + 1 + i) % 4)).find? (fun t => x.canIssue (s.unitProg false cu.val) t == .yes) = some t) :=
  ⟨⟨stepDev cast0 run0, 0, run0, by decide +kernel, by decide +kernel, by decide +kernel⟩,
   ⟨pausedDev, 0, run0, by decide +kernel, by decide +kernel, by decide +kernel, by decide +kernel⟩,
   ⟨stepDev cast0 run0, (State.countResidue (stepDev cast0 run0) run0 (State.castRef (stepDev cast0 run0) run0.cast)).discardTokens (State.castRef (stepDev cast0 run0) run0.cast) false, run0, { run0 with done := run0.done + 1, stepping := false }, by decide +kernel, rfl, rfl⟩,
   ⟨0x4206, { run0 with fault := some (0x4206, 0) }, 0, by decide +kernel⟩,
   ⟨stallDev, 0, run0, by decide +kernel, by decide +kernel, by decide +kernel, by decide +kernel⟩,
   ⟨cuLate, 0, { run0 with ticks := 2 ^ 31 + 1 }, by decide +kernel, by decide +kernel, by decide +kernel, by decide +kernel, by decide +kernel⟩,
   ⟨twoTasks, 0, 1, twoTasks.cu (0 : UnitId).val, rfl, by decide +kernel, by decide +kernel, by decide +kernel⟩⟩

theorem test_meets_StepsBeginClean :
    (∃ (s : State) (d site : Nat) (x : CastRun), d ∈ (s.castRef x.cast).dales ∧ site < 64) ∧
    (∃ (c : CastRef) (k : Nat), c.first ≤ k / 4096 ∧ k / 4096 < c.first + c.count) ∧
    (∃ (c : CastRef) (u : Nat), c.first ≤ u / 32 ∧ u / 32 < c.first + c.count) :=
  ⟨⟨stepDev cast0 run0, 0, 63, run0, by decide +kernel, by decide +kernel⟩,
   ⟨cast0, 4095, by decide +kernel, by decide +kernel⟩,
   ⟨cast0, 31, by decide +kernel, by decide +kernel⟩⟩

theorem test_meets_TaskControlMovesThePc :
    (∃ (s : State) (cu : UnitId) (o : CuOp), s.cuReady cu.val = some o ∧ bitsOf o.w 0 8 = 0x00) ∧
    (∃ (s : State) (cu : UnitId) (o : CuOp) (tb : Nat), s.cuReady cu.val = some o ∧ bitsOf o.w 0 8 = 0x01 ∧ tb = ((s.cuTask o).tb + bitsOf o.w 8 4) % 65536 ∧ ((∀ h ∈ (s.cu o.n).store, h.token.task = o.t → tagAhead h.token.tag tb < 32768))) ∧
    (∃ (s : State) (cu : UnitId) (o : CuOp), s.cuReady cu.val = some o ∧ bitsOf o.w 0 8 = 0x02) ∧
    (∃ (s : State) (cu : UnitId) (o : CuOp), s.cuReady cu.val = some o ∧ bitsOf o.w 0 8 = 0x03) ∧
    (∃ (s : State) (cu : UnitId) (o : CuOp), s.cuReady cu.val = some o ∧ bitsOf o.w 0 8 = 0x04) ∧
    (∃ (s : State) (cu : UnitId) (o : CuOp) (l : Nat), s.cuReady cu.val = some o ∧ bitsOf o.w 0 8 = 0x05 ∧ l = nth (s.cuTask o).loops (bitsOf o.w 8 2) 0) :=
  ⟨⟨cuS 0, 0, opS 0, by decide +kernel, by decide +kernel⟩,
   ⟨cuS 1, 0, opS 1, (((cuS 1).cuTask (opS 1)).tb + bitsOf (opS 1).w 8 4) % 65536, by decide +kernel, by decide +kernel, rfl, by decide +kernel⟩,
   ⟨cuS 2, 0, opS 2, by decide +kernel, by decide +kernel⟩,
   ⟨cuS 3, 0, opS 3, by decide +kernel, by decide +kernel⟩,
   ⟨cuS 4, 0, opS 4, by decide +kernel, by decide +kernel⟩,
   ⟨cuS 5, 0, opS 5, nth ((cuS 5).cuTask (opS 5)).loops (bitsOf (opS 5).w 8 2) 0, by decide +kernel, by decide +kernel, rfl⟩⟩

theorem test_meets_VectorInstructionsLeaveTheirResults_1 :
    (∃ (s : State) (cu : UnitId) (o : CuOp) (a b : List W32), s.cuReady cu.val = some o ∧ bitsOf o.w 0 8 = 0x20 ∧ a = cuSource (s.cuTask o) o.w (bitsOf o.w 16 6) (bitOf o.w 38) ∧ b = cuSource (s.cuTask o) o.w (bitsOf o.w 22 6) false) ∧
    (∃ (s : State) (cu : UnitId) (o : CuOp) (a b : List W32), s.cuReady cu.val = some o ∧ bitsOf o.w 0 8 = 0x21 ∧ a = cuSource (s.cuTask o) o.w (bitsOf o.w 16 6) (bitOf o.w 38) ∧ b = cuSource (s.cuTask o) o.w (bitsOf o.w 22 6) false) ∧
    (∃ (s : State) (cu : UnitId) (o : CuOp) (a b c : List W32), s.cuReady cu.val = some o ∧ bitsOf o.w 0 8 = 0x22 ∧ a = cuSource (s.cuTask o) o.w (bitsOf o.w 16 6) (bitOf o.w 38) ∧ b = cuSource (s.cuTask o) o.w (bitsOf o.w 22 6) false ∧ c = cuSource (s.cuTask o) o.w (bitsOf o.w 28 6) false) ∧
    (∃ (s : State) (cu : UnitId) (o : CuOp) (a : List W32), s.cuReady cu.val = some o ∧ bitsOf o.w 0 8 = 0x23 ∧ a = cuSource (s.cuTask o) o.w (bitsOf o.w 16 6) (bitOf o.w 38)) ∧
    (∃ (s : State) (cu : UnitId) (o : CuOp) (a : List W32), s.cuReady cu.val = some o ∧ bitsOf o.w 0 8 = 0x24 ∧ a = cuSource (s.cuTask o) o.w (bitsOf o.w 16 6) (bitOf o.w 38)) ∧
    (∃ (s : State) (cu : UnitId) (o : CuOp) (a : List W32), s.cuReady cu.val = some o ∧ bitsOf o.w 0 8 = 0x25 ∧ a = cuSource (s.cuTask o) o.w (bitsOf o.w 16 6) (bitOf o.w 38)) ∧
    (∃ (s : State) (cu : UnitId) (o : CuOp) (a b : List W32), s.cuReady cu.val = some o ∧ bitsOf o.w 0 8 = 0x26 ∧ a = cuSource (s.cuTask o) o.w (bitsOf o.w 16 6) (bitOf o.w 38) ∧ b = cuSource (s.cuTask o) o.w (bitsOf o.w 22 6) false) ∧
    (∃ (s : State) (cu : UnitId) (o : CuOp) (a b : List W32), s.cuReady cu.val = some o ∧ bitsOf o.w 0 8 = 0x28 ∧ a = cuSource (s.cuTask o) o.w (bitsOf o.w 16 6) (bitOf o.w 38) ∧ b = cuSource (s.cuTask o) o.w (bitsOf o.w 22 6) false) :=
  ⟨⟨cuS 0x68f820, 0, opS 0x68f820, srcA 0x68f820, srcB 0x68f820, by decide +kernel, by decide +kernel, rfl, rfl⟩,
   ⟨cuS 0x68f821, 0, opS 0x68f821, srcA 0x68f821, srcB 0x68f821, by decide +kernel, by decide +kernel, rfl, rfl⟩,
   ⟨cuS 0x68f822, 0, opS 0x68f822, srcA 0x68f822, srcB 0x68f822, srcC 0x68f822, by decide +kernel, by decide +kernel, rfl, rfl, rfl⟩,
   ⟨cuS 0x68f823, 0, opS 0x68f823, srcA 0x68f823, by decide +kernel, by decide +kernel, rfl⟩,
   ⟨cuS 0x68f824, 0, opS 0x68f824, srcA 0x68f824, by decide +kernel, by decide +kernel, rfl⟩,
   ⟨cuS 0x68f825, 0, opS 0x68f825, srcA 0x68f825, by decide +kernel, by decide +kernel, rfl⟩,
   ⟨cuS 0x68f826, 0, opS 0x68f826, srcA 0x68f826, srcB 0x68f826, by decide +kernel, by decide +kernel, rfl, rfl⟩,
   ⟨cuS 0x68f828, 0, opS 0x68f828, srcA 0x68f828, srcB 0x68f828, by decide +kernel, by decide +kernel, rfl, rfl⟩⟩

theorem test_meets_VectorInstructionsLeaveTheirResults_2 :
    (∃ (s : State) (cu : UnitId) (o : CuOp) (a b : List W32) (k : Nat), s.cuReady cu.val = some o ∧ bitsOf o.w 0 8 = 0x27 ∧ a = cuSource (s.cuTask o) o.w (bitsOf o.w 16 6) (bitOf o.w 38) ∧ b = cuSource (s.cuTask o) o.w (bitsOf o.w 22 6) false ∧ k = bitsOf o.w 11 3 ∧ (s.cuTask o).masks.length = 8 ∧ ((∀ i, i < 64 → bitOf (cuMask (s.cuTask o) o.w) i = true → isNanLane (nth a i 0) = false ∧ isNanLane (nth b i 0) = false))) ∧
    (∃ (s : State) (cu : UnitId) (o : CuOp) (a : List W32), s.cuReady cu.val = some o ∧ bitsOf o.w 0 8 = 0x2A ∧ a = cuSource (s.cuTask o) o.w (bitsOf o.w 16 6) (bitOf o.w 38)) ∧
    (∃ (s : State) (cu : UnitId) (o : CuOp) (x : CuSt) (k : Nat), s.cuReady cu.val = some o ∧ bitsOf o.w 0 8 = 0x2B ∧ x = s.cu o.n ∧ k = 2 ^ bitsOf o.w 43 3 ∧ bitsOf o.w 19 4 % k = 0) ∧
    (∃ (s : State) (cu : UnitId) (o : CuOp) (x : CuSt) (k : Nat) (v : List W32), s.cuReady cu.val = some o ∧ bitsOf o.w 0 8 = 0x2B ∧ x = s.cu o.n ∧ k = 2 ^ bitsOf o.w 43 3 ∧ bitsOf o.w 19 4 % k ≠ 0 ∧ v = (List.range 64).map (fun i => f32Add (nth (x.bankRow (bitsOf o.w 16 3) (bitsOf o.w 19 4 / k)) i 0) (nth (x.bankRow (bitsOf o.w 16 3) (bitsOf o.w 19 4)) i 0))) ∧
    (∃ (s : State) (cu : UnitId) (o : CuOp) (f n : Nat) (bs : List Byte), s.cuReady cu.val = some o ∧ bitsOf o.w 0 8 = 0x29 ∧ bitOf o.w 43 = true ∧ f = bitsOf o.w 39 4 ∧ n = blkLen (bitsOf o.w 44 3) ∧ bs = (s.cuTask o).regBytes (bitsOf o.w 16 6)) ∧
    (∃ (s : State) (cu : UnitId) (o : CuOp) (f vd : Nat) (a : List W32), s.cuReady cu.val = some o ∧ bitsOf o.w 0 8 = 0x29 ∧ bitOf o.w 43 = false ∧ cvtStochastic o.w = false ∧ f = bitsOf o.w 39 4 ∧ vd = bitsOf o.w 11 5 ∧ blkLen (bitsOf o.w 44 3) = 0 ∧ a = cuSource (s.cuTask o) o.w (bitsOf o.w 16 6) false) ∧
    (∃ (s : State) (cu : UnitId) (o : CuOp) (a : List W32), s.cuReady cu.val = some o ∧ bitsOf o.w 0 8 = 0x2C ∧ ((bitsOf o.w 16 6 < 32 ∨ bitsOf o.w 16 6 = 40)) ∧ a = cuSource (s.cuTask o) o.w (bitsOf o.w 16 6) (bitOf o.w 38)) ∧
    (∃ (s : State) (cu : UnitId) (o : CuOp), s.cuReady cu.val = some o ∧ bitsOf o.w 0 8 = 0x2D) :=
  ⟨⟨cuS 0x683827, 0, opS 0x683827, srcA 0x683827, srcB 0x683827, bitsOf (opS 0x683827).w 11 3, by decide +kernel, by decide +kernel, rfl, rfl, rfl, by decide +kernel, by decide +kernel⟩,
   ⟨cuS 0x800001f002a, 0, opS 0x800001f002a, srcA 0x800001f002a, by decide +kernel, by decide +kernel, rfl⟩,
   ⟨cuS 0x20000000002b, 0, opS 0x20000000002b, (cuS 0x20000000002b).cu (opS 0x20000000002b).n, 2 ^ bitsOf (opS 0x20000000002b).w 43 3, by decide +kernel, by decide +kernel, rfl, rfl, by decide +kernel⟩,
   ⟨cuS 0x20000078002b, 0, opS 0x20000078002b, ((cuS 0x20000078002b).cu (opS 0x20000078002b).n), 2 ^ bitsOf (opS 0x20000078002b).w 43 3, (List.range 64).map (fun i => f32Add (nth (((cuS 0x20000078002b).cu (opS 0x20000078002b).n).bankRow (bitsOf (opS 0x20000078002b).w 16 3) (bitsOf (opS 0x20000078002b).w 19 4 / 2 ^ bitsOf (opS 0x20000078002b).w 43 3)) i 0) (nth (((cuS 0x20000078002b).cu (opS 0x20000078002b).n).bankRow (bitsOf (opS 0x20000078002b).w 16 3) (bitsOf (opS 0x20000078002b).w 19 4)) i 0)), by decide +kernel, by decide +kernel, rfl, rfl, by decide +kernel, rfl⟩,
   ⟨cuS 0x298000000029, 0, opS 0x298000000029, bitsOf (opS 0x298000000029).w 39 4, blkLen (bitsOf (opS 0x298000000029).w 44 3), ((cuS 0x298000000029).cuTask (opS 0x298000000029)).regBytes (bitsOf (opS 0x298000000029).w 16 6), by decide +kernel, by decide +kernel, by decide +kernel, rfl, rfl, rfl⟩,
   ⟨cuS 0x1800000f029, 0, opS 0x1800000f029, bitsOf (opS 0x1800000f029).w 39 4, bitsOf (opS 0x1800000f029).w 11 5, cuSource ((cuS 0x1800000f029).cuTask (opS 0x1800000f029)) (opS 0x1800000f029).w (bitsOf (opS 0x1800000f029).w 16 6) false, by decide +kernel, by decide +kernel, by decide +kernel, by decide +kernel, rfl, rfl, by decide +kernel, rfl⟩,
   ⟨cuS 0x28f82c, 0, opS 0x28f82c, srcA 0x28f82c, by decide +kernel, by decide +kernel, by decide +kernel, rfl⟩,
   ⟨cuS 0x70000f82d, 0, opS 0x70000f82d, by decide +kernel, by decide +kernel⟩⟩

theorem test_meets_UnitStoresAndBanksMove :
    (∃ (s : State) (cu : UnitId) (o : CuOp), s.cuReady cu.val = some o ∧ bitsOf o.w 0 8 = 0x11) ∧
    (∃ (s : State) (cu : UnitId) (o : CuOp), s.cuReady cu.val = some o ∧ bitsOf o.w 0 8 = 0x12) ∧
    (∃ (s : State) (cu : UnitId) (o : CuOp), s.cuReady cu.val = some o ∧ bitsOf o.w 0 8 = 0x13 ∧ memWf (s.cu o.n).buf = true) ∧
    (∃ (s : State) (cu : UnitId) (o : CuOp), s.cuReady cu.val = some o ∧ bitsOf o.w 0 8 = 0x14 ∧ memWf (s.cu o.n).scales = true) ∧
    (∃ (s : State) (cu : UnitId) (o : CuOp), s.cuReady cu.val = some o ∧ bitsOf o.w 0 8 = 0x18) ∧
    (∃ (s : State) (cu : UnitId) (o : CuOp), s.cuReady cu.val = some o ∧ bitsOf o.w 0 8 = 0x19) ∧
    (∃ (s : State) (cu : UnitId) (o : CuOp) (p : Nat) (ts : List Token), s.cuReady cu.val = some o ∧ bitsOf o.w 0 8 = 0x30 ∧ bitOf o.w 47 = false ∧ p = bitsOf o.w 37 2 ∧ p < (s.cu o.n).outs.length ∧ ts = (sentPayloads (bitsOf o.w 39 4) (s.cuTask o) (bitsOf o.w 16 6)).map (fun bs => ⟨cuTag (s.cuTask o) o.w, bitsOf o.w 43 2, false, (s.cuTask o).marked (bitsOf o.w 16 6), bs, 0, 0⟩) ∧ bitOf o.w 46 = false) ∧
    (∃ (s : State) (cu : UnitId) (o : CuOp), s.cuReady cu.val = some o ∧ bitsOf o.w 0 8 = 0x30 ∧ bitOf o.w 47 = true ∧ (s.cuTask o).marked (bitsOf o.w 16 6) = true) ∧
    (∃ (s u : State) (cu : UnitId) (o : CuOp), s.cuReady cu.val = some o ∧ bitsOf o.w 0 8 = 0x10 ∧ u = s.cuGoto o (o.pc + 2)) ∧
    (∃ (s : State) (cu : UnitId) (first : Nat) (x : CastRun) (m : MmSt), s.stepOn (cu.val / 32) = some (first, x) ∧ (s.cu cu.val).mm = some m ∧ m.aLeft = 0 ∧ m.sLeft = 0) :=
  ⟨⟨cuDev { cu0 with store := [heldAt 0 0] } 0x2000011 0, 0, opS 0x2000011, by decide +kernel, by decide +kernel⟩,
   ⟨cuDev { cu0 with store := [heldAt 0 0] } 0x8000012 0, 0, opS 0x8000012, by decide +kernel, by decide +kernel⟩,
   ⟨cuS 0x200000013, 0, opS 0x200000013, by decide +kernel, by decide +kernel, by decide +kernel⟩,
   ⟨cuS 0x800000014, 0, opS 0x800000014, by decide +kernel, by decide +kernel, by decide +kernel⟩,
   ⟨cuS 0x18, 0, opS 0x18, by decide +kernel, by decide +kernel⟩,
   ⟨cuS 0x19, 0, opS 0x19, by decide +kernel, by decide +kernel⟩,
   ⟨cuS 0x6000000030, 0, opS 0x6000000030, bitsOf (opS 0x6000000030).w 37 2, (sentPayloads (bitsOf (opS 0x6000000030).w 39 4) ((cuS 0x6000000030).cuTask (opS 0x6000000030)) (bitsOf (opS 0x6000000030).w 16 6)).map (fun bs => ⟨cuTag ((cuS 0x6000000030).cuTask (opS 0x6000000030)) (opS 0x6000000030).w, bitsOf (opS 0x6000000030).w 43 2, false, ((cuS 0x6000000030).cuTask (opS 0x6000000030)).marked (bitsOf (opS 0x6000000030).w 16 6), bs, 0, 0⟩), by decide +kernel, by decide +kernel, by decide +kernel, rfl, by decide +kernel, rfl, by decide +kernel⟩,
   ⟨cuDev { cu0 with tasks := { task0 with marks := [0] } :: List.replicate 3 .fresh } 0x800000000030 0, 0, opS 0x800000000030, by decide +kernel, by decide +kernel, by decide +kernel, by decide +kernel⟩,
   ⟨cuS 0x10004440010, (cuS 0x10004440010).cuGoto (opS 0x10004440010) ((opS 0x10004440010).pc + 2), 0, opS 0x10004440010, by decide +kernel, by decide +kernel, rfl⟩,
   ⟨cuDev { cu0 with mm := some mm0 } 0 0, 0, 0, run0, mm0, by decide +kernel, by decide +kernel, by decide +kernel, by decide +kernel⟩⟩

theorem test_meets_MatrixResultsFillTheBank : ∃ (s t : State) (first n b : Nat) (x : CastRun) (m : MmSt) (start : Nat → Nat → W32) (el : Nat → Nat → W32 × List NanEvent), b = bitsOf m.w0 12 3 ∧ (∀ r c, start r c = if bitOf m.w0 11 then mgetD (s.cu n).acc (1024 * b + 64 * r + c) 0 else 0) ∧ (∀ r c, el r c = mmElement (cuPrecise n) m.w0 m.w1 ((ofF32 m.ta).mul (ofF32 m.tb)) (start r c) (mmTerms m.w0 m.w1 ((s.cu n).mmData m) r c)) ∧ ((∀ r c, r < 16 → c < 64 → (el r c).2 = [])) ∧ t = s.mmDone first x n m :=
  ⟨(cuDev { cu0 with mm := some mm0 } 0 0), State.mmDone (cuDev { cu0 with mm := some mm0 } 0 0) 0 run0 0 mm0, 0, 0, bitsOf mm0.w0 12 3, run0, mm0, fun r c => if bitOf mm0.w0 11 then mgetD (State.cu (cuDev { cu0 with mm := some mm0 } 0 0) 0).acc (1024 * bitsOf mm0.w0 12 3 + 64 * r + c) 0 else 0, fun r c => mmElement (cuPrecise 0) mm0.w0 mm0.w1 ((ofF32 mm0.ta).mul (ofF32 mm0.tb)) ((fun r c => if bitOf mm0.w0 11 then mgetD (State.cu (cuDev { cu0 with mm := some mm0 } 0 0) 0).acc (1024 * bitsOf mm0.w0 12 3 + 64 * r + c) 0 else 0) r c) (mmTerms mm0.w0 mm0.w1 ((State.cu (cuDev { cu0 with mm := some mm0 } 0 0) 0).mmData mm0) r c), rfl, fun _ _ => rfl, fun _ _ => rfl, fun _ _ _ _ => rfl, rfl⟩

theorem test_meets_ReductionsCombineInAFixedTree :
    (∃ (f : W32 → W32 → W32) (a : List W32) (l : Nat → Nat → W32), a.length = 64 ∧ ((∀ i, i < 64 → l 0 i = nth a i 0)) ∧ ((∀ k, k < 6 → ∀ i, i < 2 ^ (5 - k) → l (k + 1) i = f (l k (2 * i)) (l k (2 * i + 1))))) ∧
    (∃ (s : State) (cu : UnitId) (o : CuOp) (a : List W32), s.cuReady cu.val = some o ∧ bitsOf o.w 0 8 = 0x2A ∧ a = cuSource (s.cuTask o) o.w (bitsOf o.w 16 6) (bitOf o.w 38)) :=
  ⟨⟨f32Add, List.replicate 64 0, fun _ _ => 0, by decide +kernel, by decide +kernel, by decide +kernel⟩,
   ⟨cuS 0x1f002a, 0, opS 0x1f002a, srcA 0x1f002a, by decide +kernel, by decide +kernel, rfl⟩⟩

theorem test_meets_StreamsMoveLines_1 :
    (∃ (s : State) (mu : UnitId) (a : Fin 4) (o : AgOp), AgReady s o ∧ o.n = mu.val ∧ o.a = a.val ∧ bitsOf o.w 0 4 = 1 ∧ (nth (s.mu o.n).outs (bitsOf o.w 10 2) .empty).tokens.length < 2 ∧ muRingOf o.w = none) ∧
    (∃ (s : State) (mu : UnitId) (a : Fin 4) (o : AgOp) (r : Nat), AgReady s o ∧ o.n = mu.val ∧ o.a = a.val ∧ bitsOf o.w 0 4 = 1 ∧ (nth (s.mu o.n).outs (bitsOf o.w 10 2) .empty).tokens.length < 2 ∧ muRingOf o.w = some r ∧ ringLag (s.agRing o r).2.tail ((s.agRing o r).2.cons (bitsOf o.w 29 1)) ≠ 0) ∧
    (∃ (s : State) (mu : UnitId) (a : Fin 4) (o : AgOp) (h : Held) (ls : List Level) (k : Nat), AgReady s o ∧ o.n = mu.val ∧ o.a = a.val ∧ bitsOf o.w 0 4 = 2 ∧ ls = muLevels o.ws (s.ag o).pc ∧ s.streamToken o (tagCount ls o.w) = some h ∧ k = tagAhead h.token.tag (bitsOf o.w 33 16 + (s.ag o).base) ∧ k < 32768 ∧ mgetD (s.ag o).written ((s.ag o).base + k) 0 < linesPerTag ls o.w ∧ muRingOf o.w = none) ∧
    (∃ (s : State) (mu : UnitId) (a : Fin 4) (o : AgOp) (h : Held) (ls : List Level) (k : Nat), AgReady s o ∧ o.n = mu.val ∧ o.a = a.val ∧ bitsOf o.w 0 4 = 2 ∧ ls = muLevels o.ws (s.ag o).pc ∧ s.streamToken o (tagCount ls o.w) = some h ∧ k = tagAhead h.token.tag (bitsOf o.w 33 16 + (s.ag o).base) ∧ 32768 ≤ k) ∧
    (∃ (s : State) (mu : UnitId) (a : Fin 4) (o : AgOp) (h : Held) (ls : List Level) (k : Nat), AgReady s o ∧ o.n = mu.val ∧ o.a = a.val ∧ bitsOf o.w 0 4 = 3 ∧ ls = muLevels o.ws (s.ag o).pc ∧ s.streamToken o (tagCount ls o.w) = some h ∧ k = tagAhead h.token.tag (bitsOf o.w 33 16 + (s.ag o).base) ∧ k < 32768 ∧ mgetD (s.ag o).written ((s.ag o).base + k) 0 < linesPerTag ls o.w ∧ muRingOf o.w = none) ∧
    (∃ (s u : State) (mu : UnitId) (a : Fin 4) (o : AgOp) (e : Entry), AgReady s o ∧ o.n = mu.val ∧ o.a = a.val ∧ bitsOf o.w 0 4 = 4 ∧ u = (if (s.ag o).phase = 0 then s.listBegin o false else s) ∧ (u.stepOn (o.n / 32)).isSome = true ∧ (u.ag o).phase ≠ 0 ∧ u.outstanding o.issuer = [] ∧ u.listCurrent o = some e) ∧
    (∃ (s u : State) (mu : UnitId) (a : Fin 4) (o : AgOp) (e : Entry), AgReady s o ∧ o.n = mu.val ∧ o.a = a.val ∧ bitsOf o.w 0 4 = 5 ∧ u = (if (s.ag o).phase = 0 then s.listBegin o true else s) ∧ (u.stepOn (o.n / 32)).isSome = true ∧ (u.ag o).phase ≠ 0 ∧ u.outstanding o.issuer = [] ∧ u.listCurrent o = some e ∧ (u.ag o).phase ≠ 0x10000) ∧
    (∃ (s : State) (mu : UnitId) (a : Fin 4) (o : AgOp), AgReady s o ∧ o.n = mu.val ∧ o.a = a.val ∧ bitsOf o.w 0 4 = 6 ∧ bitsOf o.w 6 12 ≤ (nth (s.mu o.n).ags (bitsOf o.w 4 2) .fresh).completed) :=
  ⟨⟨muDev mu0 (affS 1), 0, 0, agOf (affS 1), agReady (by decide +kernel), by decide +kernel, by decide +kernel, by decide +kernel, by decide +kernel, by decide +kernel⟩,
   ⟨muDev { mu0 with rings := ⟨1, 0, 0⟩ :: List.replicate 3 .zero } [0x10000001, 0], 0, 0, agOf [0x10000001, 0], 0, agReady (by decide +kernel), by decide +kernel, by decide +kernel, by decide +kernel, by decide +kernel, by decide +kernel, by decide +kernel⟩,
   ⟨(muDev (muTok 0) (affS 2)), 0, 0, (agOf (affS 2)), heldAt 0 0, muLevels (agOf (affS 2)).ws (State.ag (muDev (muTok 0) (affS 2)) (agOf (affS 2))).pc, tagAhead (heldAt 0 0).token.tag (bitsOf (agOf (affS 2)).w 33 16 + (State.ag (muDev (muTok 0) (affS 2)) (agOf (affS 2))).base), agReady (by decide +kernel), by decide +kernel, by decide +kernel, by decide +kernel, rfl, by decide +kernel, rfl, by decide +kernel, by decide +kernel, by decide +kernel⟩,
   ⟨(muDev (muTok 65535) (affS 2)), 0, 0, (agOf (affS 2)), heldAt 0 65535, muLevels (agOf (affS 2)).ws (State.ag (muDev (muTok 65535) (affS 2)) (agOf (affS 2))).pc, tagAhead (heldAt 0 65535).token.tag (bitsOf (agOf (affS 2)).w 33 16 + (State.ag (muDev (muTok 65535) (affS 2)) (agOf (affS 2))).base), agReady (by decide +kernel), by decide +kernel, by decide +kernel, by decide +kernel, rfl, by decide +kernel, rfl, by decide +kernel⟩,
   ⟨(muDev (muTok 0) (affS 3)), 0, 0, (agOf (affS 3)), heldAt 0 0, muLevels (agOf (affS 3)).ws (State.ag (muDev (muTok 0) (affS 3)) (agOf (affS 3))).pc, tagAhead (heldAt 0 0).token.tag (bitsOf (agOf (affS 3)).w 33 16 + (State.ag (muDev (muTok 0) (affS 3)) (agOf (affS 3))).base), agReady (by decide +kernel), by decide +kernel, by decide +kernel, by decide +kernel, rfl, by decide +kernel, rfl, by decide +kernel, by decide +kernel, by decide +kernel⟩,
   ⟨(muDev muPh (affS 4)), (if (State.ag (muDev muPh (affS 4)) (agOf (affS 4))).phase = 0 then State.listBegin (muDev muPh (affS 4)) (agOf (affS 4)) false else (muDev muPh (affS 4))), 0, 0, (agOf (affS 4)), entry1', agReady (by decide +kernel), by decide +kernel, by decide +kernel, by decide +kernel, rfl, by decide +kernel, by decide +kernel, by decide +kernel, by decide +kernel⟩,
   ⟨(muDev muPh (affS 5)), (if (State.ag (muDev muPh (affS 5)) (agOf (affS 5))).phase = 0 then State.listBegin (muDev muPh (affS 5)) (agOf (affS 5)) true else (muDev muPh (affS 5))), 0, 0, (agOf (affS 5)), entry1', agReady (by decide +kernel), by decide +kernel, by decide +kernel, by decide +kernel, rfl, by decide +kernel, by decide +kernel, by decide +kernel, by decide +kernel, by decide +kernel⟩,
   ⟨muDev mu0 [6], 0, 0, agOf [6], agReady (by decide +kernel), by decide +kernel, by decide +kernel, by decide +kernel, by decide +kernel⟩⟩

theorem test_meets_StreamsMoveLines_2 :
    (∃ (s : State) (mu : UnitId) (a : Fin 4) (o : AgOp), AgReady s o ∧ o.n = mu.val ∧ o.a = a.val ∧ bitsOf o.w 0 4 = 6 ∧ (nth (s.mu o.n).ags (bitsOf o.w 4 2) .fresh).completed < bitsOf o.w 6 12) ∧
    (∃ (s : State) (mu : UnitId) (a : Fin 4) (o : AgOp), AgReady s o ∧ o.n = mu.val ∧ o.a = a.val ∧ bitsOf o.w 0 4 = 0) ∧
    (∃ (s : State) (mu : UnitId) (line : Nat), s.hasUnit mu.val = true ∧ line % 16384 ≠ 16383) ∧
    (∃ (s : State) (mu : UnitId), s.hasUnit mu.val = true) ∧
    (∃ (s u : State) (mu : UnitId) (line a w : Nat), s.hasUnit mu.val = true ∧ line < 16383 ∧ a = 0x100000 * mu.val + 64 * line ∧ w = s.unitWindow mu.val ∧ u = (((s.countLines false a 64).count F.MU_ECC_CORRECTED w).setF F.MU_ECC_LAST_BANK (line % 8) w).setF F.MU_ECC_LAST_LINE line w) ∧
    (∃ (s u v : State) (mu : UnitId) (line a w : Nat), s.hasUnit mu.val = true ∧ line < 16383 ∧ a = 0x100000 * mu.val + 64 * line ∧ w = s.unitWindow mu.val ∧ u = (((s.countLines false a 64).count F.MU_ECC_UNCORRECTED w).setF F.MU_ECC_LAST_BANK (line % 8) w).setF F.MU_ECC_LAST_LINE line w ∧ v = { u with memory := { u.memory with poison := sinsert u.memory.poison (a / 64) } }) ∧
    (∃ (s : State) (mu : UnitId), s.hasUnit mu.val = false) :=
  ⟨⟨muDev mu0 [0x3ffc6], 0, 0, agOf [0x3ffc6], agReady (by decide +kernel), by decide +kernel, by decide +kernel, by decide +kernel, by decide +kernel⟩,
   ⟨muDev mu0 [0], 0, 0, agOf [0], agReady (by decide +kernel), by decide +kernel, by decide +kernel, by decide +kernel⟩,
   ⟨dev, 0, 16382, by decide +kernel, by decide +kernel⟩,
   ⟨dev, 1023, by decide +kernel⟩,
   ⟨dev, ((((State.countLines dev false (0x100000 * (0 : UnitId).val + 64 * 16382) 64).count F.MU_ECC_CORRECTED (State.unitWindow dev (0 : UnitId).val)).setF F.MU_ECC_LAST_BANK (16382 % 8) (State.unitWindow dev (0 : UnitId).val)).setF F.MU_ECC_LAST_LINE 16382 (State.unitWindow dev (0 : UnitId).val)), 0, 16382, 0x100000 * (0 : UnitId).val + 64 * 16382, State.unitWindow dev (0 : UnitId).val, by decide +kernel, by decide +kernel, rfl, rfl, rfl⟩,
   ⟨dev, ((((State.countLines dev false (0x100000 * (0 : UnitId).val + 64 * 16382) 64).count F.MU_ECC_UNCORRECTED (State.unitWindow dev (0 : UnitId).val)).setF F.MU_ECC_LAST_BANK (16382 % 8) (State.unitWindow dev (0 : UnitId).val)).setF F.MU_ECC_LAST_LINE 16382 (State.unitWindow dev (0 : UnitId).val)), { ((((State.countLines dev false (0x100000 * (0 : UnitId).val + 64 * 16382) 64).count F.MU_ECC_UNCORRECTED (State.unitWindow dev (0 : UnitId).val)).setF F.MU_ECC_LAST_BANK (16382 % 8) (State.unitWindow dev (0 : UnitId).val)).setF F.MU_ECC_LAST_LINE 16382 (State.unitWindow dev (0 : UnitId).val)) with memory := { (State.memory ((((State.countLines dev false (0x100000 * (0 : UnitId).val + 64 * 16382) 64).count F.MU_ECC_UNCORRECTED (State.unitWindow dev (0 : UnitId).val)).setF F.MU_ECC_LAST_BANK (16382 % 8) (State.unitWindow dev (0 : UnitId).val)).setF F.MU_ECC_LAST_LINE 16382 (State.unitWindow dev (0 : UnitId).val))) with poison := sinsert (State.memory ((((State.countLines dev false (0x100000 * (0 : UnitId).val + 64 * 16382) 64).count F.MU_ECC_UNCORRECTED (State.unitWindow dev (0 : UnitId).val)).setF F.MU_ECC_LAST_BANK (16382 % 8) (State.unitWindow dev (0 : UnitId).val)).setF F.MU_ECC_LAST_LINE 16382 (State.unitWindow dev (0 : UnitId).val))).poison ((0x100000 * (0 : UnitId).val + 64 * 16382) / 64) } }, 0, 16382, 0x100000 * (0 : UnitId).val + 64 * 16382, State.unitWindow dev (0 : UnitId).val, by decide +kernel, by decide +kernel, rfl, rfl, rfl, rfl⟩,
   ⟨{ dev with fuses := { dev.fuses with part := .s08 } }, 1023, by decide +kernel⟩⟩

theorem test_meets_LinesKeepTheBitsOutsideTheExtents :
    (∃ (s : State) (a bits : Nat), MemoryCanonical s ∧ a % 64 = 0 ∧ a + 64 ≤ 0x40000000 ∧ bits ≤ 512) ∧
    (∃ (s : State) (o : AgOp) (start bits : Nat) (is : List Nat) (x : Int), is = indexesOf (muLevels o.ws (s.ag o).pc) (s.ag o).done ∧ bits = insideBits (wordAt o.ws ((s.ag o).pc + 1)) (bitsOf o.w 51 4) (muLevels o.ws (s.ag o).pc) is ∧ bits ≠ 0 ∧ x = (start : Int) + nestOffset (muLevels o.ws (s.ag o).pc) is ∧ inFootprint (s.agHeader o) x = true ∧ muRingOf o.w = none ∧ bitsOf o.w 10 2 < (s.mu o.n).outs.length) :=
  ⟨⟨dev, 0x3FFFFFC0, 512, canonical (by decide +kernel), by decide +kernel, by decide +kernel, by decide +kernel⟩,
   ⟨(muDev mu0 (affS 1)), (agOf (affS 1)), 0, insideBits (wordAt (agOf (affS 1)).ws ((State.ag (muDev mu0 (affS 1)) (agOf (affS 1))).pc + 1)) (bitsOf (agOf (affS 1)).w 51 4) (muLevels (agOf (affS 1)).ws (State.ag (muDev mu0 (affS 1)) (agOf (affS 1))).pc) (indexesOf (muLevels (agOf (affS 1)).ws (State.ag (muDev mu0 (affS 1)) (agOf (affS 1))).pc) (State.ag (muDev mu0 (affS 1)) (agOf (affS 1))).done), indexesOf (muLevels (agOf (affS 1)).ws (State.ag (muDev mu0 (affS 1)) (agOf (affS 1))).pc) (State.ag (muDev mu0 (affS 1)) (agOf (affS 1))).done, ((0 : Nat) : Int) + nestOffset (muLevels (agOf (affS 1)).ws (State.ag (muDev mu0 (affS 1)) (agOf (affS 1))).pc) (indexesOf (muLevels (agOf (affS 1)).ws (State.ag (muDev mu0 (affS 1)) (agOf (affS 1))).pc) (State.ag (muDev mu0 (affS 1)) (agOf (affS 1))).done), rfl, rfl, by decide +kernel, rfl, by decide +kernel, by decide +kernel, by decide +kernel⟩⟩

theorem test_meets_RemoteAccessesAreApplied :
    (∃ (s : State) (m : Msg) (w : Nat), Arrives s m 0x01 ∧ s.lacks m.addr m.arg1.toNat = false ∧ s.windowFor F.ALT_RM_WIN_CTRL_R m m.arg1.toNat = some w ∧ regionOf m.addr ≠ Region.plain) ∧
    (∃ (s : State) (m : Msg) (w : Nat) (l : Nat × Nat), Arrives s m 0x01 ∧ s.lacks m.addr m.arg1.toNat = false ∧ s.windowFor F.ALT_RM_WIN_CTRL_R m m.arg1.toNat = some w ∧ regionOf m.addr = Region.plain ∧ l = lineSpan (m.addr - plainBase) m.arg1.toNat) ∧
    (∃ (s : State) (m : Msg) (w : Nat), Arrives s m 0x03 ∧ s.lacks m.addr m.data.length = false ∧ s.windowFor F.ALT_RM_WIN_CTRL_W m m.data.length = some w ∧ regionOf m.addr ≠ Region.plain) ∧
    (∃ (s : State) (m : Msg) (w n : Nat) (op : AmoOp), Arrives s m 0x05 ∧ n = (if m.arg0.toNat.testBit 4 then 8 else 4) ∧ s.lacks m.addr n = false ∧ s.windowFor F.ALT_RM_WIN_CTRL_A m n = some w ∧ amoOf (m.arg0.toNat % 16) = some op ∧ regionOf m.addr = Region.basin ∧ m.addr % n = 0 ∧ s.poisoned m.addr n = false) ∧
    (∃ (s : State) (m : Msg) (w : Nat), Arrives s m 0x08 ∧ s.lacks m.addr m.data.length = false ∧ s.windowFor F.ALT_RM_WIN_CTRL_W m m.data.length = some w ∧ regionOf m.addr ≠ Region.plain ∧ s.putRing m.addr = none) ∧
    (∃ (s : State) (m : Msg) (w n r : Nat) (d : RingDecl) (x : RingPtr) (a : Nat), Arrives s m 0x08 ∧ s.lacks m.addr m.data.length = false ∧ s.windowFor F.ALT_RM_WIN_CTRL_W m m.data.length = some w ∧ s.putRing m.addr = some (n, r) ∧ s.ringOf n r = (d, x) ∧ m.data.length ≤ 64 * d.lines ∧ x.fill d.twoCons < d.slots ∧ a = s.slotOffset n r x.tail) ∧
    (∃ (s : State) (m : Msg) (w n r : Nat) (d : RingDecl) (x : RingPtr), Arrives s m 0x08 ∧ s.lacks m.addr m.data.length = false ∧ s.windowFor F.ALT_RM_WIN_CTRL_W m m.data.length = some w ∧ s.putRing m.addr = some (n, r) ∧ s.ringOf n r = (d, x) ∧ m.data.length ≤ 64 * d.lines ∧ d.slots ≤ x.fill d.twoCons) ∧
    (∃ (s : State) (a : Nat) (bs : List Byte), MemoryCanonical s ∧ a + bs.length ≤ plainBase) :=
  ⟨⟨netB, rdB, 63, arrives (by decide +kernel), by decide +kernel, by decide +kernel, by decide +kernel⟩,
   ⟨netP, rdP, 63, lineSpan (rdP.addr - plainBase) rdP.arg1.toNat, arrives (by decide +kernel), by decide +kernel, by decide +kernel, by decide +kernel, rfl⟩,
   ⟨netB, wrB, 63, arrives (by decide +kernel), by decide +kernel, by decide +kernel, by decide +kernel⟩,
   ⟨netB, amB, 63, 8, .add, arrives (by decide +kernel), by decide +kernel, by decide +kernel, by decide +kernel, by decide +kernel, by decide +kernel, by decide +kernel, by decide +kernel⟩,
   ⟨netB, wrB, 63, arrives (by decide +kernel), by decide +kernel, by decide +kernel, by decide +kernel, by decide +kernel⟩,
   ⟨putDev 0, wr0, 63, 0, 0, ((putDev 0).ringOf 0 0).1, ((putDev 0).ringOf 0 0).2, (putDev 0).slotOffset 0 0 ((putDev 0).ringOf 0 0).2.tail, arrives (by decide +kernel), by decide +kernel, by decide +kernel, by decide +kernel, rfl, by decide +kernel, by decide +kernel, rfl⟩,
   ⟨putDev 16, wr0, 63, 0, 0, ((putDev 16).ringOf 0 0).1, ((putDev 16).ringOf 0 0).2, arrives (by decide +kernel), by decide +kernel, by decide +kernel, by decide +kernel, rfl, by decide +kernel, by decide +kernel⟩,
   ⟨dev, plainBase - 64, line64, canonical (by decide +kernel), by decide +kernel⟩⟩

theorem test_meets_InboundMessagesNeedAWindow :
    (∃ (s : State) (m : Msg) (c : Instr) (op n : Nat) (right : Field), (c, op, right, n) ∈ [(Instr.read m, 0x01, F.ALT_RM_WIN_CTRL_R, m.arg1.toNat), (.write m, 0x03, F.ALT_RM_WIN_CTRL_W, m.data.length), (.atomic m, 0x05, F.ALT_RM_WIN_CTRL_A, if m.arg0.toNat.testBit 4 then 8 else 4), (.tilePut m, 0x08, F.ALT_RM_WIN_CTRL_W, m.data.length)] ∧ Arrives s m op ∧ ((s.lacks m.addr n = true ∨ s.windowFor right m n = none))) ∧
    (∃ (s t : State) (m : Msg) (c : Instr), c ∈ [Instr.read m, .write m, .atomic m, .tilePut m] ∧ ((∀ w right n, w < 64 → s.windowAdmits w right m.src.toNat m.job.val m.addr n = false)) ∧ exec c s = .next t) ∧
    (∃ (s : State) (w : Nat) (right : Field) (src job a len : Nat), s.windowAdmits w right src job a len = true) :=
  ⟨⟨mapped', rdB, .read rdB, 1, 64, F.ALT_RM_WIN_CTRL_R, by decide +kernel, arrives (by decide +kernel), by decide +kernel⟩,
   ⟨mapped, outOf (exec (.read rdB) mapped), rdB, .read rdB, by decide +kernel, fun w _ _ hw => noWindow w hw, rfl⟩,
   ⟨netB, 63, F.ALT_RM_WIN_CTRL_W, 1, 255, basinBase, 0x200000, by decide +kernel⟩⟩

theorem test_meets_ResponsesEndRequests_1 :
    (∃ (s : State) (m : Msg) (x : Request), Arrives s m 0x02 ∧ Awaited s m [0x01] x ∧ m.arg0.toNat % 8 ≤ 1 ∧ (∀ c, x.issuer ≠ .core c)) ∧
    (∃ (s : State) (m : Msg) (x : Request) (c : Nat), Arrives s m 0x02 ∧ Awaited s m [0x01] x ∧ m.arg0.toNat % 8 ≤ 1 ∧ x.issuer = .core c) ∧
    (∃ (s : State) (m : Msg) (x : Request), Arrives s m 0x04 ∧ Awaited s m [0x03, 0x20, 0x21] x ∧ m.arg0.toNat % 8 = 0 ∧ m.poison = false) ∧
    (∃ (s : State) (m : Msg) (x : Request), Arrives s m 0x04 ∧ Awaited s m [0x03, 0x20, 0x21] x ∧ m.arg0.toNat % 8 = 1) ∧
    (∃ (s : State) (m : Msg) (x : Request) (c : Nat), Arrives s m 0x06 ∧ Awaited s m [0x05] x ∧ m.arg0.toNat % 8 = 0 ∧ m.poison = false ∧ x.issuer = .core c) ∧
    (∃ (s : State) (m : Msg) (x : Request), Arrives s m 0x09 ∧ Awaited s m [0x08] x ∧ m.arg0.toNat % 8 = 0 ∧ m.poison = false) ∧
    (∃ (s : State) (m : Msg) (x : Request), Arrives s m 0x09 ∧ Awaited s m [0x08] x ∧ m.arg0.toNat % 8 = 5) ∧
    (∃ (s : State) (m : Msg) (c : Instr) (op : Nat) (ops : List Nat), (c, op, ops) ∈ [(Instr.readData m, 0x02, [0x01]), (.writeAck m, 0x04, [0x03, 0x20, 0x21]), (.atomicData m, 0x06, [0x05]), (.tileAck m, 0x09, [0x08])] ∧ Arrives s m op) :=
  ⟨⟨waiting (reqAt 1 fl0 none none) 0, rspOf 1 1, (reqAt 1 fl0 none none), arrives (by decide +kernel), awaited (by decide +kernel), by decide +kernel, by intro c h; cases h⟩,
   ⟨waiting (reqAt 1 (.core 2) none none) 0, rspOf 1 0, (reqAt 1 (.core 2) none none), 2, arrives (by decide +kernel), awaited (by decide +kernel), by decide +kernel, by decide +kernel⟩,
   ⟨waiting (reqAt 33 fl0 none none) 0, rspOf 1 0, (reqAt 33 fl0 none none), arrives (by decide +kernel), awaited (by decide +kernel), by decide +kernel, by decide +kernel⟩,
   ⟨waiting (reqAt 33 fl0 none none) 0, rspOf 1 1, (reqAt 33 fl0 none none), arrives (by decide +kernel), awaited (by decide +kernel), by decide +kernel⟩,
   ⟨waiting (reqAt 5 (.core 2) none none) 0, rspOf 1 0, (reqAt 5 (.core 2) none none), 2, arrives (by decide +kernel), awaited (by decide +kernel), by decide +kernel, by decide +kernel, by decide +kernel⟩,
   ⟨waiting (reqAt 8 fl0 none none) 0, rspOf 1 0, (reqAt 8 fl0 none none), arrives (by decide +kernel), awaited (by decide +kernel), by decide +kernel, by decide +kernel⟩,
   ⟨waiting (reqAt 8 fl0 none none) 0, rspOf 1 5, (reqAt 8 fl0 none none), arrives (by decide +kernel), awaited (by decide +kernel), by decide +kernel⟩,
   ⟨waiting (reqAt 1 fl0 none none) 0, rspOf 1 4, .readData (rspOf 1 4), 2, [1], by decide +kernel, arrives (by decide +kernel)⟩⟩

theorem test_meets_ResponsesEndRequests_2 :
    (∃ (s v : State) (xid : BitVec 32) (x : Request) (t : Nat), s.requestOf xid.toNat false = some x ∧ x.busyAt = some t ∧ t + 1000 ≤ s.now ∧ v = (s.count F.ALT_RM_STAT_BUSY_RESENDS).mapRequest x.xid (fun y => { y with busyAt := none, sentAt := s.now }) ∧ (v.send x.msg).2 = .sent) ∧
    (∃ (s : State) (xid : BitVec 32) (x : Request), s.requestOf xid.toNat false = some x ∧ x.busyAt = none ∧ x.msg.op ≠ 0x21 ∧ x.sentAt + 1000 * (if s.f F.ALT_RM_CFG_RM_TIMEOUT_US = 0 then 1000 else s.f F.ALT_RM_CFG_RM_TIMEOUT_US) < s.now) ∧
    (∃ (s v : State) (m : PlainRsp) (x : Request) (a n : Nat), ((s.linkState m.link.val = 6 ∨ s.linkState m.link.val = 7)) ∧ s.requestOf m.xid.toNat true = some x ∧ x.msg.op = 0x40 ∧ x.plainLink = some m.link.val ∧ m.status % 4 = 0 ∧ a = plainBase + x.msg.addr ∧ n = min x.msg.arg1 m.data.length ∧ v = (s.dropRequest x.xid).markUnits a n false) ∧
    (∃ (s u v : State) (m : PlainRsp) (x : Request) (a n : Nat), ((s.linkState m.link.val = 6 ∨ s.linkState m.link.val = 7)) ∧ s.requestOf m.xid.toNat true = some x ∧ x.msg.op = 0x40 ∧ x.plainLink = some m.link.val ∧ m.status % 4 ∈ [1, 3] ∧ a = plainBase + x.msg.addr ∧ n = min x.msg.arg1 m.data.length ∧ u = (s.count F.PLN_STAT_POISONED).fault 0x2601 .link m.link.val x.msg.job none (BitVec.ofNat 64 (s.globalOf a)) ∧ v = (u.dropRequest x.xid).markUnits a n true) ∧
    (∃ (s : State) (m : PlainRsp) (x : Request), ((s.linkState m.link.val = 6 ∨ s.linkState m.link.val = 7)) ∧ s.requestOf m.xid.toNat true = some x ∧ x.msg.op = 0x42 ∧ x.plainLink = some m.link.val ∧ m.status % 4 = 0) ∧
    (∃ (s : State) (m : PlainRsp) (x : Request) (c : Instr) (op : Nat), (c, op) ∈ [(Instr.pData m, 0x40), (.pWack m, 0x42)] ∧ ((s.linkState m.link.val = 6 ∨ s.linkState m.link.val = 7)) ∧ s.requestOf m.xid.toNat true = some x ∧ x.msg.op = op ∧ x.plainLink = some m.link.val ∧ m.status % 4 = 2) ∧
    (∃ (s : State) (l : LinkId) (xid : BitVec 32) (x : Request), s.requestOf xid.toNat true = some x ∧ ((x.plainLink = some l.val ∨ x.plainLink = some 22)) ∧ x.sentAt + 1000 * (if s.f F.PLN_CFG_TIMEOUT_US = 0 then 100 else s.f F.PLN_CFG_TIMEOUT_US) ≤ s.now) :=
  ⟨⟨waiting (reqAt 8 fl0 none (some 0)) 1000, (State.mapRequest (State.count (waiting (reqAt 8 fl0 none (some 0)) 1000) F.ALT_RM_STAT_BUSY_RESENDS) (reqAt 8 fl0 none (some 0)).xid (fun y => { y with busyAt := none, sentAt := (waiting (reqAt 8 fl0 none (some 0)) 1000).now })), 0, (reqAt 8 fl0 none (some 0)), 0, by decide +kernel, by decide +kernel, by decide +kernel, rfl, by decide +kernel⟩,
   ⟨waiting (reqAt 1 fl0 none none) 1000001, 0, (reqAt 1 fl0 none none), by decide +kernel, by decide +kernel, by decide +kernel, by decide +kernel⟩,
   ⟨waiting (reqAt 64 fl0 (some 18) none) 0, ((waiting (reqAt 64 fl0 (some 18) none) 0).dropRequest (reqAt 64 fl0 (some 18) none).xid).markUnits (plainBase + (reqAt 64 fl0 (some 18) none).msg.addr) (min (reqAt 64 fl0 (some 18) none).msg.arg1 (plainRsp 0).data.length) false, (plainRsp 0), (reqAt 64 fl0 (some 18) none), plainBase + (reqAt 64 fl0 (some 18) none).msg.addr, min (reqAt 64 fl0 (some 18) none).msg.arg1 (plainRsp 0).data.length, by decide +kernel, by decide +kernel, by decide +kernel, by decide +kernel, by decide +kernel, rfl, rfl, rfl⟩,
   ⟨(waiting (reqAt 64 fl0 (some 18) none) 0), (((waiting (reqAt 64 fl0 (some 18) none) 0).count F.PLN_STAT_POISONED).fault 0x2601 .link (plainRsp 3).link.val (reqAt 64 fl0 (some 18) none).msg.job none (BitVec.ofNat 64 ((waiting (reqAt 64 fl0 (some 18) none) 0).globalOf (plainBase + (reqAt 64 fl0 (some 18) none).msg.addr)))), ((((waiting (reqAt 64 fl0 (some 18) none) 0).count F.PLN_STAT_POISONED).fault 0x2601 .link (plainRsp 3).link.val (reqAt 64 fl0 (some 18) none).msg.job none (BitVec.ofNat 64 ((waiting (reqAt 64 fl0 (some 18) none) 0).globalOf (plainBase + (reqAt 64 fl0 (some 18) none).msg.addr)))).dropRequest (reqAt 64 fl0 (some 18) none).xid).markUnits (plainBase + (reqAt 64 fl0 (some 18) none).msg.addr) (min (reqAt 64 fl0 (some 18) none).msg.arg1 (plainRsp 3).data.length) true, (plainRsp 3), (reqAt 64 fl0 (some 18) none), plainBase + (reqAt 64 fl0 (some 18) none).msg.addr, min (reqAt 64 fl0 (some 18) none).msg.arg1 (plainRsp 3).data.length, by decide +kernel, by decide +kernel, by decide +kernel, by decide +kernel, by decide +kernel, rfl, rfl, rfl, rfl⟩,
   ⟨waiting (reqAt 66 fl0 (some 18) none) 0, plainRsp 0, (reqAt 66 fl0 (some 18) none), by decide +kernel, by decide +kernel, by decide +kernel, by decide +kernel, by decide +kernel⟩,
   ⟨waiting (reqAt 66 fl0 (some 18) none) 0, plainRsp 2, (reqAt 66 fl0 (some 18) none), .pWack (plainRsp 2), 0x42, by decide +kernel, by decide +kernel, by decide +kernel, by decide +kernel, by decide +kernel, by decide +kernel⟩,
   ⟨waiting (reqAt 64 fl0 (some 22) none) 100000, 18, 0, (reqAt 64 fl0 (some 22) none), by decide +kernel, by decide +kernel, by decide +kernel⟩⟩

theorem test_meets_NoticesSpreadAndChipsAreLost :
    (∃ (s : State) (m : Msg), Arrives s m 0x28 ∧ m.xid.toNat ∈ s.faults.seenNotices) ∧
    (∃ (s v : State) (m : Msg) (x : Nat), Arrives s m 0x28 ∧ m.xid.toNat ∉ s.faults.seenNotices ∧ m.arg0.toNat % 256 = 1 ∧ x = m.arg1.toNat % 4096 ∧ v = ((s.noteXid m.xid.toNat).flood 1 x m.xid.toNat (s.portOf m.link.val)).addLost x) ∧
    (∃ (s v : State) (m : Msg), Arrives s m 0x28 ∧ m.xid.toNat ∉ s.faults.seenNotices ∧ m.arg0.toNat % 256 = 2 ∧ v = (s.noteXid m.xid.toNat).addLost m.src.toNat) ∧
    (∃ (s v : State) (m : Msg) (x : Nat), Arrives s m 0x28 ∧ m.xid.toNat ∉ s.faults.seenNotices ∧ m.arg0.toNat % 256 = 3 ∧ x = m.arg1.toNat % 4096 ∧ v = (s.noteXid m.xid.toNat).flood 3 x m.xid.toNat (s.portOf m.link.val)) ∧
    (∃ (s v : State) (m : Msg), Arrives s m 0x29 ∧ v = s.addLost m.src.toNat) ∧
    (∃ (s : State) (m : Msg), Arrives s m 0x2A) ∧
    (∃ (s : State) (p : LPort) (t : Nat), (s.lport p.val).noCarry = some t ∧ s.fb F.ALT_PORT_CFG_VALID p.val = true ∧ s.fb F.ALT_PORT_STAT_LOST p.val = false ∧ t + 1000 * (if s.f F.ALT_PORT_CFG_LOST_US p.val = 0 then 20 else s.f F.ALT_PORT_CFG_LOST_US p.val) ≤ s.now) ∧
    (∃ (s : State) (op xid : Nat) (x : Request), op ∈ [0x01, 0x03, 0x05, 0x08, 0x20, 0x21] ∧ s.requestOf xid false = some x) :=
  ⟨⟨{ netB with faults := { netB.faults with seenNotices := [9] } }, noticeOf 0 0, arrives (by decide +kernel), by decide +kernel⟩,
   ⟨netB, (((State.noteXid netB (noticeOf 1 4095).xid.toNat).flood 1 ((noticeOf 1 4095).arg1.toNat % 4096) (noticeOf 1 4095).xid.toNat (netB.portOf (noticeOf 1 4095).link.val))).addLost ((noticeOf 1 4095).arg1.toNat % 4096), noticeOf 1 4095, (noticeOf 1 4095).arg1.toNat % 4096, arrives (by decide +kernel), by decide +kernel, by decide +kernel, rfl, rfl⟩,
   ⟨netB, (State.noteXid netB (noticeOf 2 0).xid.toNat).addLost (noticeOf 2 0).src.toNat, noticeOf 2 0, arrives (by decide +kernel), by decide +kernel, by decide +kernel, rfl⟩,
   ⟨netB, (State.noteXid netB (noticeOf 3 5).xid.toNat).flood 3 ((noticeOf 3 5).arg1.toNat % 4096) (noticeOf 3 5).xid.toNat (netB.portOf (noticeOf 3 5).link.val), noticeOf 3 5, (noticeOf 3 5).arg1.toNat % 4096, arrives (by decide +kernel), by decide +kernel, by decide +kernel, rfl, rfl⟩,
   ⟨netB, netB.addLost (noticeOf 0 0).src.toNat, noticeOf 0 0, arrives (by decide +kernel), rfl⟩,
   ⟨netB, noticeOf 1 0, arrives (by decide +kernel)⟩,
   ⟨lostDev, 7, 0, by decide +kernel, by decide +kernel, by decide +kernel, by decide +kernel⟩,
   ⟨waiting (reqAt 33 fl0 none none) 0, 0x21, 0, (reqAt 33 fl0 none none), by decide +kernel, by decide +kernel⟩⟩

theorem test_meets_LinksFollowTheirStateMachine_1 :
    (∃ (s : State) (l : LinkId), s.part.hasLink l.val = true ∧ s.linkState l.val = 1) ∧
    (∃ (s : State) (l : LinkId), s.linkState l.val = 6) ∧
    (∃ (s : State) (l : LinkId), 2 ≤ s.linkState l.val ∧ s.linkState l.val < 6) ∧
    (∃ (s : State) (l : LinkId) (hs : List Nat), s.part.hasLink l.val = true ∧ 2 ≤ s.linkState l.val ∧ s.linkState l.val ≠ 9 ∧ hs.length = 16) ∧
    (∃ (s : State) (l : LinkId), s.linkState l.val = 6) ∧
    (∃ (s u : State) (l : LinkId), s.linkState l.val = 2 ∧ s.fb F.ALT_LASER_LOW (laserOfLink l.val) = false ∧ u = (if (s.link l.val).searching then (s.putRecord (s.freshRecord 1 l.val)).setF F.ALT_LINK_STAT_CALSTALE 0 l.val else s)) ∧
    (∃ (s : State) (l : LinkId), s.fb F.ALT_LASER_LOW (laserOfLink l.val) = true) ∧
    (∃ (s : State) (l : LinkId), ((s.linkState l.val = 2 ∨ s.linkState l.val = 3)) ∧ (s.link l.val).patternAt = none) ∧
    (∃ (s : State) (l : LinkId) (t : Nat), s.linkState l.val = 3 ∧ (s.link l.val).patternAt = some t) :=
  ⟨⟨linkDev 1 .fresh, 0, by decide +kernel, by decide +kernel⟩,
   ⟨linkDev 6 .fresh, 0, by decide +kernel⟩,
   ⟨linkDev 5 .fresh, 0, by decide +kernel, by decide +kernel⟩,
   ⟨linkDev 8 .fresh, 0, List.replicate 16 1, by decide +kernel, by decide +kernel, by decide +kernel, by decide +kernel⟩,
   ⟨linkDev 6 .fresh, 0, by decide +kernel⟩,
   ⟨(linkDev 2 { LinkSt.fresh with searching := true }), (if ((linkDev 2 { LinkSt.fresh with searching := true }).link (0 : LinkId).val).searching then ((linkDev 2 { LinkSt.fresh with searching := true }).putRecord ((linkDev 2 { LinkSt.fresh with searching := true }).freshRecord 1 (0 : LinkId).val)).setF F.ALT_LINK_STAT_CALSTALE 0 (0 : LinkId).val else (linkDev 2 { LinkSt.fresh with searching := true })), 0, by decide +kernel, by decide +kernel, rfl⟩,
   ⟨(linkDev 2 .fresh).setF F.ALT_LASER_LOW 1 0, 1, by decide +kernel⟩,
   ⟨linkDev 3 .fresh, 0, by decide +kernel, by decide +kernel⟩,
   ⟨linkDev 3 { LinkSt.fresh with patternAt := some 0 }, 0, 0, by decide +kernel, by decide +kernel⟩⟩

theorem test_meets_LinksFollowTheirStateMachine_2 :
    (∃ (s : State) (l : LinkId), s.linkState l.val = 4 ∧ s.fb F.ALT_LINK_STAT_MISMATCH l.val = false) ∧
    (∃ (s : State) (l : LinkId), s.linkState l.val = 4 ∧ s.fb F.ALT_LINK_STAT_MISMATCH l.val = true ∧ (s.link l.val).identAt + 10000000 ≤ s.now) ∧
    (∃ (s u : State) (l : LinkId) (cs : List Nat) (n : Nat) (x : LinkSt), s.linkState l.val = 5 ∧ x = (s.link l.val).resumed (decide (l.val < 18)) cs n ∧ u = ((s.setLink l.val x).setF F.ALT_LINK_STAT_ATTEMPTS 0 l.val).setLinkState l.val 6) ∧
    (∃ (s u : State) (l : LinkId) (t st : Nat), s.linkLimit l.val = some t ∧ t ≤ s.now ∧ st = s.linkState l.val ∧ s.f F.ALT_LINK_STAT_ATTEMPTS l.val < 2 ∧ u = (s.setF F.ALT_LINK_STAT_LAST_FAIL (if st = 2 then 2 else if st = 3 then 3 else 4) l.val).setF F.ALT_LINK_STAT_ATTEMPTS (s.f F.ALT_LINK_STAT_ATTEMPTS l.val + 1) l.val) ∧
    (∃ (s u : State) (l : LinkId) (t st cause : Nat), s.linkLimit l.val = some t ∧ t ≤ s.now ∧ st = s.linkState l.val ∧ 2 ≤ s.f F.ALT_LINK_STAT_ATTEMPTS l.val ∧ cause = (if st = 2 then 2 else if st = 3 then 3 else 4) ∧ u = (s.setF F.ALT_LINK_STAT_LAST_FAIL cause l.val).setF F.ALT_LINK_STAT_ATTEMPTS 3 l.val) ∧
    (∃ (s : State) (l : LinkId), s.linkState l.val = 7 ∧ ((∀ p, p < 8 → ∀ t ∈ (s.lport p).txq, t.link ≠ some l.val)) ∧ (∀ x ∈ s.net.requests, x.plainLink ≠ some l.val)) ∧
    (∃ (s : State) (l : LinkId), s.linkState l.val = 8) ∧
    (∃ (s : State) (i : Fin 12) (power : Int), s.part.hasLaser i.val = true ∧ power < 52) ∧
    (∃ (s : State) (i : Fin 12) (power : Int), s.part.hasLaser i.val = true ∧ 52 ≤ power) :=
  ⟨⟨linkDev 4 .fresh, 0, by decide +kernel, by decide +kernel⟩,
   ⟨(linkDev 4 .fresh).setF F.ALT_LINK_STAT_MISMATCH 1 0, 0, by decide +kernel, by decide +kernel, by decide +kernel⟩,
   ⟨linkDev 5 .fresh, (((linkDev 5 .fresh).setLink (0 : LinkId).val (((linkDev 5 .fresh).link (0 : LinkId).val).resumed (decide ((0 : LinkId).val < 18)) [1, 2, 3, 4, 5, 6] 7)).setF F.ALT_LINK_STAT_ATTEMPTS 0 (0 : LinkId).val).setLinkState (0 : LinkId).val 6, 0, [1, 2, 3, 4, 5, 6], 7, ((linkDev 5 .fresh).link (0 : LinkId).val).resumed (decide ((0 : LinkId).val < 18)) [1, 2, 3, 4, 5, 6] 7, by decide +kernel, rfl, rfl⟩,
   ⟨(linkDev 2 .fresh), ((linkDev 2 .fresh).setF F.ALT_LINK_STAT_LAST_FAIL (if (linkDev 2 .fresh).linkState (0 : LinkId).val = 2 then 2 else if (linkDev 2 .fresh).linkState (0 : LinkId).val = 3 then 3 else 4) (0 : LinkId).val).setF F.ALT_LINK_STAT_ATTEMPTS ((linkDev 2 .fresh).f F.ALT_LINK_STAT_ATTEMPTS (0 : LinkId).val + 1) (0 : LinkId).val, 0, 20000000, (linkDev 2 .fresh).linkState (0 : LinkId).val, by decide +kernel, by decide +kernel, rfl, by decide +kernel, rfl⟩,
   ⟨((linkDev 2 .fresh).setF F.ALT_LINK_STAT_ATTEMPTS 2 0), (((linkDev 2 .fresh).setF F.ALT_LINK_STAT_ATTEMPTS 2 0).setF F.ALT_LINK_STAT_LAST_FAIL (if ((linkDev 2 .fresh).setF F.ALT_LINK_STAT_ATTEMPTS 2 0).linkState (0 : LinkId).val = 2 then 2 else if ((linkDev 2 .fresh).setF F.ALT_LINK_STAT_ATTEMPTS 2 0).linkState (0 : LinkId).val = 3 then 3 else 4) (0 : LinkId).val).setF F.ALT_LINK_STAT_ATTEMPTS 3 (0 : LinkId).val, 0, 20000000, ((linkDev 2 .fresh).setF F.ALT_LINK_STAT_ATTEMPTS 2 0).linkState (0 : LinkId).val, (if ((linkDev 2 .fresh).setF F.ALT_LINK_STAT_ATTEMPTS 2 0).linkState (0 : LinkId).val = 2 then 2 else if ((linkDev 2 .fresh).setF F.ALT_LINK_STAT_ATTEMPTS 2 0).linkState (0 : LinkId).val = 3 then 3 else 4), by decide +kernel, by decide +kernel, rfl, by decide +kernel, rfl, rfl⟩,
   ⟨linkDev 7 .fresh, 0, by decide +kernel, by decide +kernel, by decide +kernel⟩,
   ⟨linkDev 8 .fresh, 0, by decide +kernel⟩,
   ⟨dev, 11, 51, by decide +kernel, by decide +kernel⟩,
   ⟨dev, 11, 52, by decide +kernel, by decide +kernel⟩⟩

theorem test_meets_LinkStatesAreEntered :
    (∃ (s : State) (l st : Nat), l < 22 ∧ st < 16 ∧ s.linkState l ≠ st) ∧
    (∃ (s : State) (l : Nat) (c : CalRecord), l < 22 ∧ s.linkState l = 1 ∧ s.calRecord 1 l = some c ∧ s.recordValid c = true ∧ (s.link l).forceSearch = false) ∧
    (∃ (s : State) (l : Nat), l < 22 ∧ s.linkState l = 1 ∧ (∀ c, s.calRecord 1 l = some c → s.recordValid c = false)) ∧
    (∃ (s : State) (l : Nat) (i : IdentInfo) (p : Nat), l < 18 ∧ s.linkState l = 4 ∧ s.portOf l = some p ∧ ((i.plain = true ∨ s.fb F.ALT_MESH_VALID = false ∨ i.chipValid = false ∨ s.f F.ALT_PORT_CFG_PEER_CHIP p ≠ i.chip.toNat))) ∧
    (∃ (s : State) (l : Nat) (i : IdentInfo) (p : Nat), l < 18 ∧ s.linkState l = 4 ∧ s.portOf l = some p ∧ i.plain = false ∧ s.fb F.ALT_MESH_VALID = true ∧ i.chipValid = true ∧ s.f F.ALT_PORT_CFG_PEER_CHIP p = i.chip.toNat) :=
  ⟨⟨dev, 21, 15, by decide, by decide, by decide +kernel⟩,
   ⟨{ linkDev 1 .fresh with cal := { dev.cal with records := [calOf 1 0] } }, 0, calOf 1 0, by decide +kernel, by decide +kernel, by decide +kernel, by decide +kernel, by decide +kernel⟩,
   ⟨linkDev 1 .fresh, 0, by decide, by decide +kernel, fun c h => by cases h⟩,
   ⟨linkDev 4 .fresh, 0, ident1 1, 0, by decide +kernel, by decide +kernel, by decide +kernel, by decide +kernel⟩,
   ⟨meshOf (linkDev 4 .fresh), 0, ident1 1, 0, by decide +kernel, by decide +kernel, by decide +kernel, by decide +kernel, by decide +kernel, by decide +kernel, by decide +kernel⟩⟩

theorem test_meets_FlitsAreTakenInOrder :
    (∃ (s u : State) (l : LinkId) (x : Flit), s.linkState l.val = 6 ∧ u = (((s.count F.ALT_LINK_FEC_CW_CORRECTED l.val 0 x.cwCorrected).count F.ALT_LINK_FEC_CW_UNCORR l.val 0 x.cwUncorr).setF F.ALT_LINK_FEC_PEAK_SYM (max (((s.count F.ALT_LINK_FEC_CW_CORRECTED l.val 0 x.cwCorrected).count F.ALT_LINK_FEC_CW_UNCORR l.val 0 x.cwUncorr).f F.ALT_LINK_FEC_PEAK_SYM l.val) (min x.peakSym 15)) l.val).countCodewords l.val x.cwUncorr ∧ ((u.linkState l.val = 6 ∨ u.linkState l.val = 7))) ∧
    (∃ (x : Flit), x.eom = false) ∧
    (∃ (s : State) (l : Nat), (s.link l).replaySeq = (s.link l).txAcked ∧ 7 ≤ (s.link l).replays) :=
  ⟨⟨(linkDev 6 .fresh), ((((linkDev 6 .fresh).count F.ALT_LINK_FEC_CW_CORRECTED (0 : LinkId).val 0 flitOk.cwCorrected).count F.ALT_LINK_FEC_CW_UNCORR (0 : LinkId).val 0 flitOk.cwUncorr).setF F.ALT_LINK_FEC_PEAK_SYM (max ((((linkDev 6 .fresh).count F.ALT_LINK_FEC_CW_CORRECTED (0 : LinkId).val 0 flitOk.cwCorrected).count F.ALT_LINK_FEC_CW_UNCORR (0 : LinkId).val 0 flitOk.cwUncorr).f F.ALT_LINK_FEC_PEAK_SYM (0 : LinkId).val) (min flitOk.peakSym 15)) (0 : LinkId).val).countCodewords (0 : LinkId).val flitOk.cwUncorr, 0, flitOk, by decide +kernel, rfl, by decide +kernel⟩,
   ⟨flitOk (1 + 2 ^ 30), by decide +kernel⟩,
   ⟨linkDev 6 { LinkSt.fresh with replays := 7 }, 0, by decide +kernel, by decide +kernel⟩⟩

theorem test_meets_RecoveryActionsTakeEffect_1 :
    (∃ (s v : State), s.inService = true ∧ s.cal.checked + 100000000 ≤ s.now ∧ v = { s with cal := { s.cal with checked := s.now } }) ∧
    (∃ (s : State), s.now < s.cal.checked + 100000000) ∧
    (∃ (s : State) (e : Nat), s.inService = true ∧ (0, e) ∈ s.cal.queued ∧ s.fb F.GLB_RATE_BELOW_FLOOR = false) ∧
    (∃ (s : State) (k e : Nat), s.inService = true ∧ (k, e) ∈ s.cal.queued ∧ ((k = 4 ∨ k = 5 ∨ k = 2 ∨ k = 3 ∧ s.siteBusy e = false))) ∧
    (∃ (s : State) (k e : Nat), s.inService = true ∧ (k, e) ∈ s.cal.queued ∧ k ≤ 1 ∧ s.fb F.GLB_RATE_BELOW_FLOOR = true ∧ s.reportsErrors k e = false) ∧
    (∃ (s : State) (die : Fin 2) (i : Nat), s.retiringSite die.val = some i ∧ (∀ d ∈ s.dalesFrom die.val (siteCol i), s.stepOn d = none)) ∧
    (∃ (s : State) (die : Fin 2) (i d : Nat), s.retiringSite die.val = some i ∧ d ∈ s.dalesFrom die.val (siteCol i) ∧ (s.stepOn d).isSome = true) :=
  ⟨⟨devT 200000000, { devT 200000000 with cal := { (devT 200000000).cal with checked := (devT 200000000).now } }, by decide +kernel, by decide +kernel, rfl⟩,
   ⟨dev, by decide +kernel⟩,
   ⟨calDev 0 0, 0, by decide +kernel, by decide +kernel, by decide +kernel⟩,
   ⟨calDev 3 0, 3, 0, by decide +kernel, by decide +kernel, by decide +kernel⟩,
   ⟨fields [(F.GLB_RATE_BELOW_FLOOR, 1, 0)] (calDev 1 0), 1, 0, by decide +kernel, by decide +kernel, by decide +kernel, by decide +kernel, by decide +kernel⟩,
   ⟨retDev mapped, 0, 0, by decide +kernel, by decide +kernel⟩,
   ⟨retDev (stepDev cast0 run0), 0, 0, 0, by decide +kernel, by decide +kernel, by decide +kernel⟩⟩

theorem test_meets_RecoveryActionsTakeEffect_2 :
    (∃ (s v : State) (die : Fin 2) (row : Fin 32) (k : Nat), k = rowLink die.val row.val ∧ k ∉ s.fabric.failedRows ∧ k ∉ s.fabric.fencedRows ∧ v = s.fault 0x3205 .die die.val) ∧
    (∃ (s v : State) (row : Fin 32) (k : Nat), k = rowLink 0 row.val ∧ s.fabric.failedRows = [k] ∧ s.saddleBusy = false ∧ (s.f F.FAB_SADDLE_LINKS_W2E_SPARED).testBit row.val = false ∧ v = { s with fabric := { s.fabric with failedRows := [], sparesSpent := setNth s.fabric.sparesSpent 0 (nth s.fabric.sparesSpent 0 0 + 1) } }) ∧
    (∃ (s : State), s.saddleBusy = true) ∧
    (∃ (s : State) (i : Nat), s.fb F.FLT_HBM_COPYING_W = true ∧ s.copyingChannel 0 = some i) ∧
    (∃ (s : State) (i : Nat), s.fb F.FLT_HBM_COPYING_E = true ∧ s.copyingChannel 1 = some i) ∧
    (∃ (s v : State) (core : Fin 4) (x : Roll), s.inService = true ∧ s.mgmt.roll = some x ∧ x.done + core.val = 3 ∧ s.now ≤ x.since + 500000000 ∧ v = s.setF F.FLT_FW_STAT_IMAGE (if s.fw.activeB then s.f F.FLT_FW_STAT_IMAGE &&& (15 - 2 ^ core.val) else s.f F.FLT_FW_STAT_IMAGE ||| 2 ^ core.val)) ∧
    (∃ (s v : State) (core : Fin 4) (x : Roll), s.inService = true ∧ s.mgmt.roll = some x ∧ x.done + core.val = 3 ∧ x.since + 500000000 < s.now ∧ v = s.setF F.FLT_FW_STAT_IMAGE (if s.power.runningB then 15 else 0)) :=
  ⟨⟨dev, State.fault dev 0x3205 .die (0 : Fin 2).val, 0, 3, 3, rfl, by decide +kernel, by decide +kernel, rfl⟩,
   ⟨rowDev, { rowDev with fabric := { rowDev.fabric with failedRows := [], sparesSpent := setNth rowDev.fabric.sparesSpent 0 (nth rowDev.fabric.sparesSpent 0 0 + 1) } }, 3, 3, rfl, by decide +kernel, by decide +kernel, by decide +kernel, rfl⟩,
   ⟨acrossDev, by decide +kernel⟩,
   ⟨copyDev 0 F.FLT_HBM_COPYING_W, 0, by decide +kernel, by decide +kernel⟩,
   ⟨copyDev 200 F.FLT_HBM_COPYING_E, 200, by decide +kernel, by decide +kernel⟩,
   ⟨rollDev 3 0, State.setF (rollDev 3 0) F.FLT_FW_STAT_IMAGE (if (rollDev 3 0).fw.activeB then (rollDev 3 0).f F.FLT_FW_STAT_IMAGE &&& (15 - 2 ^ (0 : Fin 4).val) else (rollDev 3 0).f F.FLT_FW_STAT_IMAGE ||| 2 ^ (0 : Fin 4).val), 0, ⟨3, 0, hdrO⟩, by decide +kernel, by decide +kernel, by decide +kernel, by decide +kernel, rfl⟩,
   ⟨rollDev 0 600000000, State.setF (rollDev 0 600000000) F.FLT_FW_STAT_IMAGE (if (rollDev 0 600000000).power.runningB then 15 else 0), 3, ⟨0, 0, hdrO⟩, by decide +kernel, by decide +kernel, by decide +kernel, by decide +kernel, rfl⟩⟩

theorem test_meets_PortEventsTakeEffect :
    (∃ (p : PortId) (c : Instr) (cause : Nat), (c, cause) ∈ [(Instr.perstN p, 1), (.functionLevelReset p, 2), (.surpriseDown p, 3), (.d3hotEntry p, 4)]) ∧
    (∃ (s : State) (p : Nat), ((s.power.good = false ∨ s.portLost p = true))) ∧
    (∃ (p : Nat), p < 2) ∧
    (∃ (s v : State) (p : PortId) (speed : Fin 8) (width : Fin 32), v = ((s.setF F.GLB_PORT_STAT_LINK_UP 1 p.val).setF F.GLB_PORT_STAT_SPEED speed.val p.val).setF F.GLB_PORT_STAT_WIDTH width.val p.val) ∧
    (∃ (s : State) (p : PortId) (off : BitVec 36) (bs : List Byte) (a : Nat), a = s.f F.GLB_APERTURE_BASE p.val * 2 ^ 30 + off.toNat ∧ ((s.fb F.GLB_APERTURE_VALID p.val = false ∨ s.apertureAllows (s.f F.GLB_APERTURE_JOB p.val) a bs.length = false))) ∧
    (∃ (s : State) (p : PortId) (off : BitVec 36) (bs : List Byte) (a : Nat), a = s.f F.GLB_APERTURE_BASE p.val * 2 ^ 30 + off.toNat ∧ s.fb F.GLB_APERTURE_VALID p.val = true ∧ s.apertureAllows (s.f F.GLB_APERTURE_JOB p.val) a bs.length = true ∧ regionOf a ≠ Region.plain) ∧
    (∃ (s : State) (p : PortId) (off : BitVec 36) (bs : List Byte) (a : Nat), a = s.f F.GLB_APERTURE_BASE p.val * 2 ^ 30 + off.toNat ∧ s.fb F.GLB_APERTURE_VALID p.val = true ∧ s.apertureAllows (s.f F.GLB_APERTURE_JOB p.val) a bs.length = true ∧ regionOf a = Region.plain) ∧
    (∃ (p : Nat), p < 2) :=
  ⟨⟨1, .d3hotEntry 1, 4, by decide +kernel⟩,
   ⟨dev.setF F.GLB_PORT_STAT_LOST 1 1, 1, by decide +kernel⟩,
   ⟨1, by decide +kernel⟩,
   ⟨dev, ((dev.setF F.GLB_PORT_STAT_LINK_UP 1 (1 : PortId).val).setF F.GLB_PORT_STAT_SPEED (6 : Fin 8).val (1 : PortId).val).setF F.GLB_PORT_STAT_WIDTH (16 : Fin 32).val (1 : PortId).val, 1, 6, 16, rfl⟩,
   ⟨mapped, 0, 64, [1], 64, rfl, by decide +kernel⟩,
   ⟨aperDev 0 0, 0, 64, [1], 64, rfl, by decide +kernel, by decide +kernel, by decide +kernel⟩,
   ⟨aperDev (plainBase / 2 ^ 30) 1, 0, 64, [1], plainBase + 64, rfl, by decide +kernel, by decide +kernel, by decide +kernel⟩,
   ⟨1, by decide +kernel⟩⟩

theorem test_meets_SessionsOpenAndEnd :
    (∃ (s v : State) (t : Fin 3), s.transportOpen t.val = true ∧ s.takeAllowance t.val = some v) ∧
    (∃ (s v w : State) (h : MgmtHdr) (payload : List Byte) (r n : Nat) (nonce : List Byte), h.session = 0 ∧ s.transportOpen h.transport.val = true ∧ s.takeAllowance h.transport.val = some v ∧ 8 ≤ payload.length ∧ r = (nth payload 0 0).toNat ∧ r ≤ 2 ∧ lifetimeOf (leNat (slice payload 4 4)) = some n ∧ w = v.settleRole r ∧ nonce = shake256 (leBytes 32 w.free) 32) ∧
    (∃ (s v w : State) (h : MgmtHdr) (payload nonce : List Byte) (r n at_ : Nat), h.session = 0 ∧ s.transportOpen h.transport.val = true ∧ s.takeAllowance h.transport.val = some v ∧ 72 ≤ payload.length ∧ r = (nth payload 0 0).toNat ∧ r ≤ 2 ∧ w = v.settleRole r ∧ (w.role r).session = none ∧ (w.role r).nonce = some (nonce, at_) ∧ lifetimeOf (leNat (slice payload 4 4)) = some n) ∧
    (∃ (s u : State) (h : MgmtHdr) (r : Nat) (y : Session), Admitted s h 0x04 (some observerRole) [] u r y) ∧
    (∃ (s u : State) (h : MgmtHdr) (r : Nat) (y : Session), Admitted s h 0x05 (some observerRole) [] u r y) ∧
    (∃ (s : State) (r : RoleId) (y : Session), (s.role r.val).session = some y) ∧
    (∃ (s : State) (r : RoleId) (n : List Byte) (t : Nat), (s.role r.val).nonce = some (n, t) ∧ t + 10000000000 ≤ s.now) ∧
    (∃ (s : State) (r : RoleId), s.fb F.SEC_ROLE_LOCKED r.val = true ∧ (s.r R.SEC_ROLE_TIME r.val).toNat ≤ s.now) ∧
    (∃ (s : State) (r : Nat), r < 3 ∧ s.mgmt.roles.length = 3) :=
  ⟨⟨dev, heard dev, 0, by decide +kernel, by decide +kernel⟩,
   ⟨dev, (heard dev).settleRole 1, (heard dev).settleRole 1, hdrO, 1 :: List.replicate 7 0, 1, 3600, shake256 (leBytes 32 ((heard dev).settleRole 1).free) 32, by decide +kernel, by decide +kernel, by decide +kernel, by decide +kernel, rfl, by decide +kernel, by decide +kernel, rfl, rfl⟩,
   ⟨nonceDev 0, heard (nonceDev 0), (heard (nonceDev 0)).settleRole 0, hdrO, List.replicate 72 0, [7], 0, 3600, 0, by decide +kernel, by decide +kernel, by decide +kernel, by decide +kernel, rfl, by decide +kernel, rfl, by decide +kernel, by decide +kernel, by decide +kernel⟩,
   ⟨devS, inS devS, hdrS 4 [], 0, sesS devS, admitted (by decide +kernel)⟩,
   ⟨devS, inS devS, hdrS 5 [], 0, sesS devS, admitted (by decide +kernel)⟩,
   ⟨{ devS with tb := { devS.tb with tick := 2 ^ 40 } }, 0, ses0, by decide +kernel⟩,
   ⟨{ nonceDev 0 with tb := { dev.tb with tick := 2 ^ 40 } }, 0, [7], 0, by decide +kernel, by decide +kernel⟩,
   ⟨dev.setF F.SEC_ROLE_LOCKED 1 2, 2, by decide +kernel, by decide +kernel⟩,
   ⟨devS, 0, by decide +kernel, by decide +kernel⟩⟩

theorem test_meets_ManagementRequestsAreAnswered_1 :
    (∃ (s : State) (h : MgmtHdr), s.transportOpen h.transport.val = true ∧ s.takeAllowance h.transport.val = none) ∧
    (∃ (s v u : State) (h : MgmtHdr) (op r : Nat) (need : Nat) (payload : List Byte) (y : Session), s.transportOpen h.transport.val = true ∧ s.takeAllowance h.transport.val = some v ∧ h.session ≠ 0 ∧ v.gate h op payload = (u, .inside r y) ∧ need < r) ∧
    (∃ (s v : State) (h : MgmtHdr), h.session = 0 ∧ s.transportOpen h.transport.val = true ∧ s.takeAllowance h.transport.val = some v) ∧
    (∃ (s v : State) (h : MgmtHdr) (op : Byte), h.session = 0 ∧ s.transportOpen h.transport.val = true ∧ s.takeAllowance h.transport.val = some v ∧ s.f F.SEC_BOOT_STAT_MODE ≠ 2 ∧ definedMgmt op.toNat = false) ∧
    (∃ (s u : State) (h : MgmtHdr) (os : List W64) (r : Nat) (y : Session), Admitted s h 0x10 (some observerRole) (payloadOf os) u r y ∧ os.length ≤ 120) ∧
    (∃ (s u : State) (h : MgmtHdr) (off v : W64) (r : Nat) (y : Session) (x : RegInfo) (i j : Nat), Admitted s h 0x11 (some operatorRole) (payloadOf [off, v]) u r y ∧ regAt? off.toNat = some (x, i, j)) ∧
    (∃ (s u : State) (h : MgmtHdr) (timeout : W64) (r : Nat) (y : Session), Admitted s h 0x12 (some ownerRole) (payloadOf [0, timeout]) u r y ∧ h.transport.val = 0) ∧
    (∃ (s u : State) (h : MgmtHdr) (es : List SetEntry) (r : Nat) (y : Session) (t : Tx), Admitted s h 0x13 (some ownerRole) (payloadOf (es.flatMap (fun x => [x.off.setWidth 64, x.value, x.mask]))) u r y ∧ u.txs.find? (fun t => t.opener = .session r) = some t ∧ t.committing = false ∧ es.length ≤ 40) :=
  ⟨⟨spentDev, hdrO, by decide +kernel, by decide +kernel⟩,
   ⟨operDev, heard operDev, inR 1 operDev, hdrS 0x13 [], 0x13, 1, 0, [], sesS operDev, by decide +kernel, by decide +kernel, by decide +kernel, gated (by decide +kernel), by decide +kernel⟩,
   ⟨dev, heard dev, hdrO, by decide +kernel, by decide +kernel, by decide +kernel⟩,
   ⟨dev, heard dev, hdrO, 0x7F, by decide +kernel, by decide +kernel, by decide +kernel, by decide +kernel, by decide +kernel⟩,
   ⟨devS, inS devS, hdrS 0x10 (payloadOf [0, 8]), [0, 8], 0, sesS devS, admitted (by decide +kernel), by decide +kernel⟩,
   ⟨devS, inS devS, hdrS 0x11 (payloadOf [BitVec.ofNat 64 R.ALT_RM_CFG.at, 1]), BitVec.ofNat 64 R.ALT_RM_CFG.at, 1, 0, sesS devS, (regOf R.ALT_RM_CFG.at).1, 0, 0, admitted (by decide +kernel), by decide +kernel⟩,
   ⟨devS, inS devS, hdrS 0x12 (payloadOf [0, 5]), 5, 0, sesS devS, admitted (by decide +kernel), by decide +kernel⟩,
   ⟨devST, inS devST, hdrS 0x13 (payloadOf (set1.flatMap (fun x => [x.off.setWidth 64, x.value, x.mask]))), set1, 0, sesS devST, txS, admitted (by decide +kernel), by decide +kernel, by decide +kernel, by decide +kernel⟩⟩

theorem test_meets_ManagementRequestsAreAnswered_2 :
    (∃ (s u : State) (h : MgmtHdr) (r : Nat) (y : Session) (t : Tx), Admitted s h 0x14 (some ownerRole) [] u r y ∧ u.txs.find? (fun t => t.opener = .session r) = some t ∧ t.committing = false) ∧
    (∃ (s u : State) (h : MgmtHdr) (r : Nat) (y : Session) (t : Tx), Admitted s h 0x15 (some ownerRole) [] u r y ∧ u.txs.find? (fun t => t.opener = .session r) = some t) ∧
    (∃ (s u : State) (h : MgmtHdr) (k r : Nat) (y : Session), Admitted s h 0x20 (some observerRole) (payloadOf [BitVec.ofNat 64 k]) u r y ∧ k < 256) ∧
    (∃ (s u : State) (h : MgmtHdr) (r : Nat) (y : Session), Admitted s h 0x21 (some observerRole) [] u r y) ∧
    (∃ (s u : State) (h : MgmtHdr) (nonce : List Byte) (r : Nat) (y z : Session), Admitted s h 0x22 (some observerRole) nonce u r y ∧ nonce.length = 32 ∧ (u.role r).session = some z) ∧
    (∃ (s u : State) (h : MgmtHdr) (off : Nat) (bs : List Byte) (r : Nat) (y : Session), Admitted s h 0x30 (some ownerRole) (leBytes 8 off ++ bs) u r y ∧ u.mgmt.roll = none ∧ off + bs.length ≤ 0x4000000) ∧
    (∃ (s u : State) (h : MgmtHdr) (r : Nat) (y : Session) (v : State), Admitted s h 0x31 (some ownerRole) [] u r y ∧ u.mgmt.roll = none ∧ v = u.showFail (!u.fw.activeB) (u.fwCheck (!u.fw.activeB) false)) ∧
    (∃ (s u : State) (h : MgmtHdr) (k e r : Nat) (y : Session), Admitted s h 0x32 (some operatorRole) (payloadOf [BitVec.ofNat 64 k, BitVec.ofNat 64 e]) u r y ∧ ((k = 0 ∧ e < 16 * u.part.stacks ∧ e < 192 ∨ k = 1 ∧ u.part.hasLink e = true ∧ e < 22))) :=
  ⟨⟨devST, inS devST, hdrS 0x14 [], 0, sesS devST, txS, admitted (by decide +kernel), by decide +kernel, by decide +kernel⟩,
   ⟨devST, inS devST, hdrS 0x15 [], 0, sesS devST, txS, admitted (by decide +kernel), by decide +kernel⟩,
   ⟨devS, inS devS, hdrS 0x20 (payloadOf [BitVec.ofNat 64 255]), 255, 0, sesS devS, admitted (by decide +kernel), by decide +kernel⟩,
   ⟨devS, inS devS, hdrS 0x21 [], 0, sesS devS, admitted (by decide +kernel)⟩,
   ⟨devS, inS devS, hdrS 0x22 (List.replicate 32 7), List.replicate 32 7, 0, sesS devS, sesS devS, admitted (by decide +kernel), by decide +kernel, by decide +kernel⟩,
   ⟨devS, inS devS, hdrS 0x30 (leBytes 8 0x3FFFFFF ++ [9]), 0x3FFFFFF, [9], 0, sesS devS, admitted (by decide +kernel), by decide +kernel, by decide +kernel⟩,
   ⟨devS, inS devS, hdrS 0x31 [], 0, sesS devS, (inS devS).showFail (!(inS devS).fw.activeB) ((inS devS).fwCheck (!(inS devS).fw.activeB) false), admitted (by decide +kernel), by decide +kernel, rfl⟩,
   ⟨devS, inS devS, hdrS 0x32 (payloadOf [BitVec.ofNat 64 0, BitVec.ofNat 64 15]), 0, 15, 0, sesS devS, admitted (by decide +kernel), by decide +kernel⟩⟩

theorem test_meets_FaultsWriteTheLog :
    (∃ (s : State) (code i : Nat) (d : Domain), faultClass code < 5 ∧ s.escalates d i = true) ∧
    (∃ (s : State) (code i : Nat) (d : Domain), ((5 ≤ faultClass code ∨ s.escalates d i = false))) ∧
    (∃ (s t : State) (code i job e : Nat) (esc : Bool) (d : Domain) (cmd : Option (Nat × Nat)) (datum : W64), code < 2 ^ 16 ∧ e = s.f F.FLT_LOG_HEAD_NEXT ∧ t = s.writeLog code esc d i job cmd datum) ∧
    (∃ (s u : State) (code i job e : Nat) (d : Domain), u = s.count (classCounter (faultClass code)) ∧ u.coalesceWith code d i job = some e) :=
  ⟨⟨recDev, 0x1001, 0, .site, by decide +kernel, by decide +kernel⟩,
   ⟨dev, 0x5001, 0, .site, by decide +kernel⟩,
   ⟨dev, State.writeLog dev 0x3303 true .hbmChannel 200 7 (some (3, 4)) 9, 0x3303, 200, 7, 0, true, .hbmChannel, some (3, 4), 9, by decide +kernel, rfl, rfl⟩,
   ⟨logDev, State.count logDev (classCounter (faultClass 0x1105)), 0x1105, 0, 7, 0, .site, rfl, by decide +kernel⟩⟩

theorem test_meets_CommandsTakeTheirEffect_1 :
    (∃ (s : State), s.f F.SEC_BOOT_STAT_MODE = 1 ∧ s.fb F.PWR_STAT_TRIPPED = false) ∧
    (∃ (s u v w : State) (die : Fin 2) (n : Fin 16), s.power.good = true ∧ s.fb F.PWR_STAT_TRIPPED = false ∧ u = (s.limitSteps (n.val + 1) die.val).count F.SEC_PLINTH_STAT_CURRENT_EVENTS ∧ (v = (if s.spanningActive ∨ die.val = 0 then u.setCeiling 0 (u.f F.PWR_STAT_VID_W) else u)) ∧ (w = (if s.spanningActive ∨ die.val = 1 then v.setCeiling 1 (v.f F.PWR_STAT_VID_E) else v))) ∧
    (∃ (s : State) (die : Fin 2), (if die.val = 0 then s.power.ceilW.isSome ∧ s.power.ceilWEnd ≤ s.now else s.power.ceilE.isSome ∧ s.power.ceilEEnd ≤ s.now)) ∧
    (∃ (s u v : State) (site : BitVec 12) (m : BitVec 8), s.siteExists site.toNat = true ∧ u = (if m.toNat < s.f F.GLB_MARGIN_WORST then s.setF F.GLB_MARGIN_WORST m.toNat else s) ∧ v = (if m.toNat < 16 then u.marginWarn site.toNat m.toNat else u)) ∧
    (∃ (s : State) (q : QId) (r : Rec), Starts specServeStart s q.val r ∧ r.opcode = 0x3A) ∧
    (∃ (s u v : State) (m : BindId) (x y : ServeRun) (is : List Item), mget s.serve.runs m.val = some x ∧ x.items = [] ∧ s.running = true ∧ (∀ t ∈ s.txs, t.committing = false) ∧ s.bindOwned m.val = true ∧ s.formBatch m.val (some (x.q, x.seq)) = (u, is) ∧ is ≠ [] ∧ y = { x with items := is, number := (s.f F.SRV_RUN_STEP m.val + 1) % 2 ^ 58, pass := 1, drafted := false, target := false } ∧ v = (u.setServeRun m.val y).setF F.SRV_RUN_PHASE (if u.draftPasses is = 0 then 3 else 2) m.val) ∧
    ((∃ (s : State) (m : BindId) (x : ServeRun), mget s.serve.runs m.val = some x ∧ x.casting = false ∧ s.f F.SRV_RUN_PHASE m.val = 2 ∧ x.readyAt = none) ∧ (∃ (s : State) (m : BindId) (x : ServeRun), mget s.serve.runs m.val = some x ∧ x.casting = false ∧ s.f F.SRV_RUN_PHASE m.val = 3) ∧ (∃ (s : State) (m : BindId) (x : ServeRun), mget s.serve.runs m.val = some x ∧ x.casting = false ∧ s.f F.SRV_RUN_PHASE m.val = 5 ∧ x.items ≠ [])) ∧
    (∀ k ∈ ([0x10, 0x11, 0x12, 0x13, 0x14, 0x18, 0x19, 0x20, 0x21, 0x22, 0x23, 0x24, 0x25, 0x26, 0x27, 0x28, 0x29, 0x2A, 0x2B, 0x2C, 0x2D, 0x30] : List Nat), ∃ (s : State) (o : CuOp), s.cuReady (0 : UnitId).val = some o ∧ bitsOf o.w 0 8 = k) ∧
    (∃ (s : State) (cu : UnitId) (first : Nat) (x : CastRun) (m : MmSt), s.stepOn (cu.val / 32) = some (first, x) ∧ (s.cu cu.val).mm = some m ∧ m.aLeft = 0 ∧ m.sLeft = 0) ∧
    (∀ k ∈ ([1, 2, 3, 4, 5, 6, 0] : List Nat), ∃ o : AgOp, AgReady (muDev mu0 (affS k)) o ∧ o.n = (0 : UnitId).val ∧ o.a = (0 : Fin 4).val ∧ bitsOf o.w 0 4 = k) :=
  ⟨⟨dev, by decide +kernel, by decide +kernel⟩,
   ⟨dev, ((dev.limitSteps ((15 : Fin 16).val + 1) (1 : Fin 2).val).count F.SEC_PLINTH_STAT_CURRENT_EVENTS), (if dev.spanningActive ∨ (1 : Fin 2).val = 0 then ((dev.limitSteps ((15 : Fin 16).val + 1) (1 : Fin 2).val).count F.SEC_PLINTH_STAT_CURRENT_EVENTS).setCeiling 0 (((dev.limitSteps ((15 : Fin 16).val + 1) (1 : Fin 2).val).count F.SEC_PLINTH_STAT_CURRENT_EVENTS).f F.PWR_STAT_VID_W) else ((dev.limitSteps ((15 : Fin 16).val + 1) (1 : Fin 2).val).count F.SEC_PLINTH_STAT_CURRENT_EVENTS)), (if dev.spanningActive ∨ (1 : Fin 2).val = 1 then (if dev.spanningActive ∨ (1 : Fin 2).val = 0 then ((dev.limitSteps ((15 : Fin 16).val + 1) (1 : Fin 2).val).count F.SEC_PLINTH_STAT_CURRENT_EVENTS).setCeiling 0 (((dev.limitSteps ((15 : Fin 16).val + 1) (1 : Fin 2).val).count F.SEC_PLINTH_STAT_CURRENT_EVENTS).f F.PWR_STAT_VID_W) else ((dev.limitSteps ((15 : Fin 16).val + 1) (1 : Fin 2).val).count F.SEC_PLINTH_STAT_CURRENT_EVENTS)).setCeiling 1 ((if dev.spanningActive ∨ (1 : Fin 2).val = 0 then ((dev.limitSteps ((15 : Fin 16).val + 1) (1 : Fin 2).val).count F.SEC_PLINTH_STAT_CURRENT_EVENTS).setCeiling 0 (((dev.limitSteps ((15 : Fin 16).val + 1) (1 : Fin 2).val).count F.SEC_PLINTH_STAT_CURRENT_EVENTS).f F.PWR_STAT_VID_W) else ((dev.limitSteps ((15 : Fin 16).val + 1) (1 : Fin 2).val).count F.SEC_PLINTH_STAT_CURRENT_EVENTS)).f F.PWR_STAT_VID_E) else (if dev.spanningActive ∨ (1 : Fin 2).val = 0 then ((dev.limitSteps ((15 : Fin 16).val + 1) (1 : Fin 2).val).count F.SEC_PLINTH_STAT_CURRENT_EVENTS).setCeiling 0 (((dev.limitSteps ((15 : Fin 16).val + 1) (1 : Fin 2).val).count F.SEC_PLINTH_STAT_CURRENT_EVENTS).f F.PWR_STAT_VID_W) else ((dev.limitSteps ((15 : Fin 16).val + 1) (1 : Fin 2).val).count F.SEC_PLINTH_STAT_CURRENT_EVENTS))), 1, 15, by decide +kernel, by decide +kernel, rfl, rfl, rfl⟩,
   ⟨{ devT 5 with power := { dev.power with ceilE := some 700, ceilEEnd := 5 } }, 1, by decide +kernel⟩,
   ⟨dev, (if (7 : BitVec 8).toNat < dev.f F.GLB_MARGIN_WORST then dev.setF F.GLB_MARGIN_WORST (7 : BitVec 8).toNat else dev), (if (7 : BitVec 8).toNat < 16 then State.marginWarn (if (7 : BitVec 8).toNat < dev.f F.GLB_MARGIN_WORST then dev.setF F.GLB_MARGIN_WORST (7 : BitVec 8).toNat else dev) (63 : BitVec 12).toNat (7 : BitVec 8).toNat else (if (7 : BitVec 8).toNat < dev.f F.GLB_MARGIN_WORST then dev.setF F.GLB_MARGIN_WORST (7 : BitVec 8).toNat else dev)), 63, 7, by decide +kernel, rfl, rfl⟩,
   ⟨put (cmd 0x3A) (reqDev []), 0, cmd 0x3A, starts rfl (by decide +kernel), by decide +kernel⟩,
   ⟨serveDev 0 serve0, formed.1, formedV, 0, serve0, formedY, formed.2, by decide +kernel, by decide +kernel, by decide +kernel, by decide +kernel, by decide +kernel, rfl, by decide +kernel, rfl, rfl⟩,
   ⟨⟨serveDev 2 serve0, 0, serve0, by decide +kernel, by decide +kernel, by decide +kernel, by decide +kernel⟩, ⟨serveDev 3 serve0, 0, serve0, by decide +kernel, by decide +kernel, by decide +kernel⟩, ⟨serveDev 5 passRun, 0, passRun, by decide +kernel, by decide +kernel, by decide +kernel, by decide +kernel⟩⟩,
   fun k hk => ⟨cuT k, opS (cuWord k), cuWords k hk⟩,
   ⟨cuDev { cu0 with mm := some mm0 } 0 0, 0, 0, run0, mm0, by decide +kernel, by decide +kernel, by decide +kernel, by decide +kernel⟩,
   fun k hk => ⟨agOf (affS k), agReady (by revert k; decide +kernel), rfl, rfl, by revert k; decide +kernel⟩⟩

theorem test_meets_CommandsTakeTheirEffect_2 :
    (∃ (s u v : State) (mu : UnitId) (line k w : Nat) (outcome : Fin 3), s.hasUnit mu.val = true ∧ k = line % 16384 ∧ w = s.unitWindow mu.val ∧ u = s.countLines false (0x100000 * mu.val + 64 * k) 64 ∧ v = ((u.count (if outcome.val = 1 then F.MU_ECC_CORRECTED else F.MU_ECC_UNCORRECTED) w).setF F.MU_ECC_LAST_BANK (k % 8) w).setF F.MU_ECC_LAST_LINE k w) ∧
    (∃ (s : State), s.frames.epoch + 2 ^ s.f F.TR_MIG_CTRL_EPOCH_LOG2 ≤ s.now) ∧
    (∃ (s : State) (n : JobId) (va : W64) (m : MigPage), s.migPage n.val va.toNat = some m ∧ m.frame = none ∧ m.copying = 0 ∧ s.f F.TR_MIG_CTRL_PROMOTE ≤ m.heat ∧ s.freePoolFrames n.val ≠ []) ∧
    (∃ (s : State) (n : JobId) (va : W64) (m : MigPage), s.migPage n.val va.toNat = some m ∧ m.copying = 1) ∧
    ((∃ (s u : State) (c : CoreId) (bs : List Byte) (x : CoreSt), Fetches s c.val 4 bs u x ∧ leNat bs = fzWord 0 0 1 0 (leNat bs / 2 ^ 20 % 32)) ∧ (∃ (s u : State) (c : CoreId) (bs : List Byte) (x : CoreSt), Fetches s c.val 4 bs u x ∧ leNat bs = fzWord 0 1 1 0 0) ∧ (∃ (s u : State) (c : CoreId) (bs : List Byte) (x : CoreSt), Fetches s c.val 4 bs u x ∧ leNat bs = fzWord 0 2 (leNat bs / 2 ^ 7 % 32) 0 6) ∧ (∃ (s u : State) (c : CoreId) (bs : List Byte) (x : CoreSt), Fetches s c.val 4 bs u x ∧ leNat bs = fzWord 0 3 (leNat bs / 2 ^ 7 % 32) 0 6) ∧ (∃ (s u : State) (c : CoreId) (bs : List Byte) (x : CoreSt), Fetches s c.val 4 bs u x ∧ leNat bs = fzWord 0 4 1 5 6 ∧ (x.xr 5).toNat % 8 = 0 ∧ u.bound (bitsOf (x.xr 6) 0 12) = true ∧ u.f F.QE_Q_CTRL_PORT (bitsOf (x.xr 6) 0 12) = 2 ∧ u.queueJob (bitsOf (x.xr 6) 0 12) = x.job) ∧ (∃ (s u : State) (c : CoreId) (bs : List Byte) (x : CoreSt), Fetches s c.val 4 bs u x ∧ leNat bs = fzWord 0 5 1 5 (leNat bs / 2 ^ 20 % 32) ∧ u.translate x.job (x.xr 5).toNat false = .ok 0x2000 leaf0) ∧ (∃ (s u : State) (c : CoreId) (bs : List Byte) (x : CoreSt), Fetches s c.val 4 bs u x ∧ leNat bs = fzWord 0 5 1 0 (leNat bs / 2 ^ 20 % 32) ∧ ∃ k e, u.translate x.job (x.xr 0).toNat false = .ok k e) ∧ (∃ (s u : State) (c : CoreId) (bs : List Byte) (x : CoreSt), Fetches s c.val 4 bs u x ∧ leNat bs = fzWord 0 6 (leNat bs / 2 ^ 7 % 32) 5 (leNat bs / 2 ^ 20 % 32)) ∧ (∃ (s u : State) (c : CoreId) (bs : List Byte) (x : CoreSt), Fetches s c.val 4 bs u x ∧ leNat bs = fzWord 1 0 1 5 5 ∧ x.fzFormatOk = true) ∧ (∃ (s u : State) (c : CoreId) (bs : List Byte) (x : CoreSt), Fetches s c.val 4 bs u x ∧ leNat bs = fzWord 1 1 1 5 5 ∧ x.fzFormatOk = true)) ∧
    (∃ (s : State) (c : CoreId) (x : CoreSt) (f v rd : Nat), s.core c.val = some x ∧ x.wait = .fence f v rd ∧ s.running = true ∧ s.waitMet f v = true) ∧
    (∃ (s : State) (g : GroupId) (x : RingRun) (m : RingBlockMsg), mget s.ringRuns g.val = some x ∧ s.f F.MRE_G_STAT_STATE g.val = 2 ∧ m.runId.toNat = s.f F.MRE_G_STEPMAX_RUN_ID g.val ∧ 0 < x.lanes.length) ∧
    (∃ (s : State) (g : GroupId) (i : Nat) (x : RingRun) (e : AccErr), mget s.ringRuns g.val = some x ∧ 2 ≤ s.f F.MRE_G_STAT_STATE g.val ∧ i = s.f F.MRE_G_PROG_STEPS_DONE g.val ∧ i < s.ringMembers g.val ∧ s.readVirt x.job (x.part + 8 * i) 8 = .error e) ∧
    (∃ (s : State) (g : GroupId) (i : Nat) (x : RingRun) (bs : List Byte) (mark : Bool), mget s.ringRuns g.val = some x ∧ 2 ≤ s.f F.MRE_G_STAT_STATE g.val ∧ i = s.f F.MRE_G_PROG_STEPS_DONE g.val ∧ i < s.ringMembers g.val ∧ s.readVirt x.job (x.part + 8 * i) 8 = .ok (bs, mark) ∧ leWord bs = setBits (setBits (0 : W64) 16 32 (s.f F.MRE_G_STEPMAX_RUN_ID g.val)) 63 1 1) ∧
    ((∃ (s : State) (m : Msg), Arrives s m 0x01) ∧ (∃ (s : State) (m : Msg), Arrives s m 0x03) ∧ (∃ (s : State) (m : Msg), Arrives s m 0x05) ∧ (∃ (s : State) (m : Msg), Arrives s m 0x08 ∧ s.putRing m.addr = none) ∧ (∃ (s : State) (m : Msg), Arrives s m 0x28 ∧ m.xid.toNat ∉ s.faults.seenNotices) ∧ (∃ (s : State) (m : Msg), Arrives s m 0x29) ∧ (∃ (s : State) (m : Msg), Arrives s m 0x2A)) :=
  ⟨⟨dev, (State.countLines dev false (0x100000 * (1023 : UnitId).val + 64 * 16383) 64), (((State.countLines dev false (0x100000 * (1023 : UnitId).val + 64 * 16383) 64).count (if (2 : Fin 3).val = 1 then F.MU_ECC_CORRECTED else F.MU_ECC_UNCORRECTED) (dev.unitWindow (1023 : UnitId).val)).setF F.MU_ECC_LAST_BANK (16383 % 8) (dev.unitWindow (1023 : UnitId).val)).setF F.MU_ECC_LAST_LINE 16383 (dev.unitWindow (1023 : UnitId).val), 1023, 32767, 16383, dev.unitWindow (1023 : UnitId).val, 2, by decide +kernel, rfl, rfl, rfl, rfl⟩,
   ⟨migDev [] 0, by decide +kernel⟩,
   ⟨migDev [mig0] 1, 0, 0x200000, mig0, by decide +kernel, by decide +kernel, by decide +kernel, by decide +kernel, by decide +kernel⟩,
   ⟨migDev [{ mig0 with copying := 1, copyFrame := 100 }] 1, 0, 0x200000, { mig0 with copying := 1, copyFrame := 100 }, by decide +kernel, by decide +kernel⟩,
   ⟨⟨fzDev 0 0 1 0 0, fzU (fzDev 0 0 1 0 0), 2, fzBs (fzDev 0 0 1 0 0), fzX (fzDev 0 0 1 0 0), fetches (by decide +kernel), by decide +kernel⟩, ⟨fzDev 0 1 1 0 0, fzU (fzDev 0 1 1 0 0), 2, fzBs (fzDev 0 1 1 0 0), fzX (fzDev 0 1 1 0 0), fetches (by decide +kernel), by decide +kernel⟩, ⟨fzDev 0 2 0 0 6, fzU (fzDev 0 2 0 0 6), 2, fzBs (fzDev 0 2 0 0 6), fzX (fzDev 0 2 0 0 6), fetches (by decide +kernel), by decide +kernel⟩, ⟨fzDev 0 3 0 0 6, fzU (fzDev 0 3 0 0 6), 2, fzBs (fzDev 0 3 0 0 6), fzX (fzDev 0 3 0 0 6), fetches (by decide +kernel), by decide +kernel⟩, ⟨fzDev 0 4 1 5 6, fzU (fzDev 0 4 1 5 6), 2, fzBs (fzDev 0 4 1 5 6), fzX (fzDev 0 4 1 5 6), fetches (by decide +kernel), by decide +kernel, by decide +kernel, by decide +kernel, by decide +kernel, by decide +kernel⟩, ⟨fzDev 0 5 1 5 0, fzU (fzDev 0 5 1 5 0), 2, fzBs (fzDev 0 5 1 5 0), fzX (fzDev 0 5 1 5 0), fetches (by decide +kernel), by decide +kernel, by decide +kernel⟩, ⟨fzDev 0 5 1 0 0, fzU (fzDev 0 5 1 0 0), 2, fzBs (fzDev 0 5 1 0 0), fzX (fzDev 0 5 1 0 0), fetches (by decide +kernel), by decide +kernel, ⟨0, leaf0, by decide +kernel⟩⟩, ⟨fzDev 0 6 0 5 0, fzU (fzDev 0 6 0 5 0), 2, fzBs (fzDev 0 6 0 5 0), fzX (fzDev 0 6 0 5 0), fetches (by decide +kernel), by decide +kernel⟩, ⟨packDev 0, fzU (packDev 0), 2, fzBs (packDev 0), fzX (packDev 0), fetches (by decide +kernel), by decide +kernel, by decide +kernel⟩, ⟨packDev 1, fzU (packDev 1), 2, fzBs (packDev 1), fzX (packDev 1), fetches (by decide +kernel), by decide +kernel, by decide +kernel⟩⟩,
   ⟨coreDev { core0 with wait := .fence 0 0 1 } 0, 2, { core0 with wait := .fence 0 0 1 }, 0, 0, 1, by decide +kernel, by decide +kernel, by decide +kernel, by decide +kernel⟩,
   ⟨ringDev [ring1] 2, 0, ring1, blockMsg ring1 lane0, by decide +kernel, by decide +kernel, by decide +kernel, by decide +kernel⟩,
   ⟨ringDev [{ ring1 with part := 2 ^ 47 }] 2, 0, 0, { ring1 with part := 2 ^ 47 }, errOf ((ringDev [{ ring1 with part := 2 ^ 47 }] 2).readVirt 0 (2 ^ 47) 8), by decide +kernel, by decide +kernel, rfl, by decide +kernel, err_eq (by decide +kernel)⟩,
   ⟨(ringDev [ring1] 2).store 0x3000 stepMark, 0, 0, ring1, stepMark, false, by decide +kernel, by decide +kernel, rfl, by decide +kernel, by decide +kernel, by decide +kernel⟩,
   ⟨⟨netB, rdB, arrives (by decide +kernel)⟩, ⟨netB, wrB, arrives (by decide +kernel)⟩, ⟨netB, amB, arrives (by decide +kernel)⟩, ⟨netB, wrB, arrives (by decide +kernel), by decide +kernel⟩, ⟨netB, noticeOf 1 4095, arrives (by decide +kernel), by decide +kernel⟩, ⟨netB, noticeOf 0 0, arrives (by decide +kernel)⟩, ⟨netB, noticeOf 0 0, arrives (by decide +kernel)⟩⟩⟩

theorem test_meets_CommandsTakeTheirEffect_3 :
    ((∃ (s : State) (m : Msg) (x : Request), m.arg0.toNat % 8 ≤ 1 ∧ Arrives s m 0x02 ∧ Awaited s m [0x01] x ∧ (∀ c, x.issuer ≠ .core c)) ∧ (∃ (s : State) (m : Msg) (x : Request), m.arg0.toNat % 8 ≤ 1 ∧ Arrives s m 0x04 ∧ Awaited s m [0x03, 0x20, 0x21] x) ∧ (∃ (s : State) (m : Msg) (x : Request), m.arg0.toNat % 8 ≤ 1 ∧ Arrives s m 0x06 ∧ Awaited s m [0x05] x ∧ x.issuer = .core 2) ∧ (∃ (s : State) (m : Msg) (x : Request), m.arg0.toNat % 8 ≤ 1 ∧ Arrives s m 0x09 ∧ Awaited s m [0x08] x)) ∧
    (∃ (s : State) (m : PlainRsp) (x : Request) (c : Instr) (op : Nat), (c, op) ∈ [(Instr.pData m, 0x40), (.pWack m, 0x42)] ∧ ((s.linkState m.link.val = 6 ∨ s.linkState m.link.val = 7)) ∧ s.requestOf m.xid.toNat true = some x ∧ x.msg.op = op ∧ x.plainLink = some m.link.val) ∧
    (∃ (s : State) (p : LPort) (t : Nat), (s.lport p.val).noCarry = some t ∧ s.fb F.ALT_PORT_CFG_VALID p.val = true ∧ s.fb F.ALT_PORT_STAT_LOST p.val = false ∧ t + limitTicks (s.f F.ALT_PORT_CFG_LOST_US p.val) 20 ≤ s.now) ∧
    (∃ (s : State) (l : LinkId) (x : Flit), s.linkState l.val = 6 ∧ x.crcOk = true ∧ x.cwUncorr = 0 ∧ x.nak = false ∧ x.kind ≠ 1) ∧
    ((∃ (s : State) (l : LinkId), s.part.hasLink l.val = true ∧ s.linkState l.val = 1) ∧ (∃ (s : State) (l : LinkId), s.part.hasLink l.val = true ∧ s.linkState l.val = 6) ∧ (∃ (s : State) (l : LinkId), s.part.hasLink l.val = true ∧ s.linkState l.val = 7) ∧ (∃ (s : State) (l : LinkId), s.part.hasLink l.val = true ∧ s.linkState l.val = 2 ∧ s.fb F.ALT_LASER_LOW (laserOfLink l.val) = false ∧ (s.link l.val).patternAt = none) ∧ (∃ (s : State) (l : LinkId), s.part.hasLink l.val = true ∧ s.linkState l.val = 3 ∧ (s.link l.val).patternAt ≠ none) ∧ (∃ (s : State) (l : LinkId), s.part.hasLink l.val = true ∧ s.linkState l.val = 8)) ∧
    (∃ (s : State) (l : LinkId), s.linkState l.val = 4) ∧
    (∃ (s : State) (l : LinkId), s.linkState l.val = 5) ∧
    (∃ (s u : State) (l : LinkId) (t k : Nat), s.linkLimit l.val = some t ∧ t ≤ s.now ∧ k = (if s.linkState l.val = 2 then 2 else if s.linkState l.val = 3 then 3 else 4) ∧ u = (s.setF F.ALT_LINK_STAT_LAST_FAIL k l.val).setF F.ALT_LINK_STAT_ATTEMPTS (min (s.f F.ALT_LINK_STAT_ATTEMPTS l.val + 1) 3) l.val) ∧
    (∃ (s : State) (l : LinkId), s.linkState l.val = 7 ∧ (∀ p ∈ List.range 8, ∀ t ∈ (s.lport p).txq, t.link ≠ some l.val) ∧ (∀ x ∈ s.net.requests, x.plainLink ≠ some l.val)) ∧
    ((∃ (s u : State) (x : RegInfo) (i j off : Nat), off % 8 = 0 ∧ off < 0x2000000 ∧ regAt? off = some (x, i, j) ∧ s.regPresent off x.reg i = true ∧ s.barServes off = true ∧ s.mayWrite (.direct (.port 0)) off x.reg i = true ∧ s.writeReg (.direct (.port 0)) x i j off 0x1001 (fieldMask 0 64) = some u ∧ off = (R.GLB_HWIN_SIZE.at 0 15)) ∧ (∃ (s u : State) (x : RegInfo) (i j off : Nat), off % 8 = 0 ∧ off < 0x2000000 ∧ regAt? off = some (x, i, j) ∧ s.regPresent off x.reg i = true ∧ s.barServes off = true ∧ s.mayWrite (.direct (.port 1)) off x.reg i = true ∧ s.writeReg (.direct (.port 1)) x i j off 0x1000 (fieldMask 0 64) = some u ∧ off = (R.GLB_HWIN_BASE.at 1 0)) ∧ (∃ (s u : State) (x : RegInfo) (i j off : Nat), off % 8 = 0 ∧ off < 0x2000000 ∧ regAt? off = some (x, i, j) ∧ s.regPresent off x.reg i = true ∧ s.barServes off = true ∧ s.mayWrite (.direct (.port 1)) off x.reg i = true ∧ s.writeReg (.direct (.port 1)) x i j off 3 (fieldMask 0 64) = some u ∧ off = (R.GLB_APERTURE.at 1)) ∧ (∃ (s u : State) (x : RegInfo) (i j off : Nat), off % 8 = 0 ∧ off < 0x2000000 ∧ regAt? off = some (x, i, j) ∧ s.regPresent off x.reg i = true ∧ s.barServes off = true ∧ s.mayWrite (.direct (.port 0)) off x.reg i = true ∧ s.writeReg (.direct (.port 0)) x i j off 0 (fieldMask 0 64) = some u ∧ off = (R.QE_Q_CQ.at 0)) ∧ (∃ (s u : State) (x : RegInfo) (i j off : Nat), off % 8 = 0 ∧ off < 0x2000000 ∧ regAt? off = some (x, i, j) ∧ s.regPresent off x.reg i = true ∧ s.barServes off = true ∧ s.mayWrite (.direct (.port 0)) off x.reg i = true ∧ s.writeReg (.direct (.port 0)) x i j off 0 (fieldMask 0 64) = some u ∧ off = (R.QE_Q_CQ_HEAD.at 0)) ∧ (∃ (s u : State) (x : RegInfo) (i j off : Nat), off % 8 = 0 ∧ off < 0x2000000 ∧ regAt? off = some (x, i, j) ∧ s.regPresent off x.reg i = true ∧ s.barServes off = true ∧ s.mayWrite (.direct (.port 0)) off x.reg i = true ∧ s.writeReg (.direct (.port 0)) x i j off 1 (fieldMask 0 64) = some u ∧ off = (R.FLT_NAN_INFO.at 0))) :=
  ⟨⟨⟨waiting (reqAt 1 fl0 none none) 0, rspOf 1 1, (reqAt 1 fl0 none none), by decide +kernel, arrives (by decide +kernel), awaited (by decide +kernel), fun c h => by cases h⟩, ⟨waiting (reqAt 33 fl0 none none) 0, rspOf 1 1, (reqAt 33 fl0 none none), by decide +kernel, arrives (by decide +kernel), awaited (by decide +kernel)⟩, ⟨waiting (reqAt 5 (.core 2) none none) 0, rspOf 1 0, (reqAt 5 (.core 2) none none), by decide +kernel, arrives (by decide +kernel), awaited (by decide +kernel), rfl⟩, ⟨waiting (reqAt 8 fl0 none none) 0, rspOf 1 0, (reqAt 8 fl0 none none), by decide +kernel, arrives (by decide +kernel), awaited (by decide +kernel)⟩⟩,
   ⟨waiting (reqAt 66 fl0 (some 18) none) 0, plainRsp 0, (reqAt 66 fl0 (some 18) none), .pWack (plainRsp 0), 0x42, by decide +kernel, by decide +kernel, by decide +kernel, by decide +kernel, by decide +kernel⟩,
   ⟨lostDev, 7, 0, by decide +kernel, by decide +kernel, by decide +kernel, by decide +kernel⟩,
   ⟨linkDev 6 .fresh, 0, flitOk 0, by decide +kernel, flit_crc 0, by decide +kernel, by decide +kernel, by decide +kernel⟩,
   ⟨⟨linkDev 1 .fresh, 0, by decide +kernel, by decide +kernel⟩, ⟨linkDev 6 .fresh, 0, by decide +kernel, by decide +kernel⟩, ⟨linkDev 7 .fresh, 0, by decide +kernel, by decide +kernel⟩, ⟨linkDev 2 .fresh, 0, by decide +kernel, by decide +kernel, by decide +kernel, by decide +kernel⟩, ⟨linkDev 3 { LinkSt.fresh with patternAt := some 0 }, 0, by decide +kernel, by decide +kernel, by decide +kernel⟩, ⟨linkDev 8 .fresh, 0, by decide +kernel, by decide +kernel⟩⟩,
   ⟨linkDev 4 .fresh, 0, by decide +kernel⟩,
   ⟨linkDev 5 .fresh, 0, by decide +kernel⟩,
   ⟨(linkDev 2 .fresh), ((linkDev 2 .fresh).setF F.ALT_LINK_STAT_LAST_FAIL (if (linkDev 2 .fresh).linkState (0 : LinkId).val = 2 then 2 else if (linkDev 2 .fresh).linkState (0 : LinkId).val = 3 then 3 else 4) (0 : LinkId).val).setF F.ALT_LINK_STAT_ATTEMPTS (min ((linkDev 2 .fresh).f F.ALT_LINK_STAT_ATTEMPTS (0 : LinkId).val + 1) 3) (0 : LinkId).val, 0, 20000000, (if (linkDev 2 .fresh).linkState (0 : LinkId).val = 2 then 2 else if (linkDev 2 .fresh).linkState (0 : LinkId).val = 3 then 3 else 4), by decide +kernel, by decide +kernel, rfl, rfl⟩,
   ⟨linkDev 7 .fresh, 0, by decide +kernel, by decide +kernel, by decide +kernel⟩,
   ⟨⟨dev, ((dev).writeReg (.direct (.port 0)) (regOf (R.GLB_HWIN_SIZE.at 0 15)).1 (regOf (R.GLB_HWIN_SIZE.at 0 15)).2.1 (regOf (R.GLB_HWIN_SIZE.at 0 15)).2.2 (R.GLB_HWIN_SIZE.at 0 15) 0x1001 (fieldMask 0 64)).getD dev, (regOf (R.GLB_HWIN_SIZE.at 0 15)).1, (regOf (R.GLB_HWIN_SIZE.at 0 15)).2.1, (regOf (R.GLB_HWIN_SIZE.at 0 15)).2.2, (R.GLB_HWIN_SIZE.at 0 15), by decide +kernel, by decide +kernel, by decide +kernel, by decide +kernel, by decide +kernel, by decide +kernel, some_eq _ (by decide +kernel), rfl⟩, ⟨dev, ((dev).writeReg (.direct (.port 1)) (regOf (R.GLB_HWIN_BASE.at 1 0)).1 (regOf (R.GLB_HWIN_BASE.at 1 0)).2.1 (regOf (R.GLB_HWIN_BASE.at 1 0)).2.2 (R.GLB_HWIN_BASE.at 1 0) 0x1000 (fieldMask 0 64)).getD dev, (regOf (R.GLB_HWIN_BASE.at 1 0)).1, (regOf (R.GLB_HWIN_BASE.at 1 0)).2.1, (regOf (R.GLB_HWIN_BASE.at 1 0)).2.2, (R.GLB_HWIN_BASE.at 1 0), by decide +kernel, by decide +kernel, by decide +kernel, by decide +kernel, by decide +kernel, by decide +kernel, some_eq _ (by decide +kernel), rfl⟩, ⟨dev, ((dev).writeReg (.direct (.port 1)) (regOf (R.GLB_APERTURE.at 1)).1 (regOf (R.GLB_APERTURE.at 1)).2.1 (regOf (R.GLB_APERTURE.at 1)).2.2 (R.GLB_APERTURE.at 1) 3 (fieldMask 0 64)).getD dev, (regOf (R.GLB_APERTURE.at 1)).1, (regOf (R.GLB_APERTURE.at 1)).2.1, (regOf (R.GLB_APERTURE.at 1)).2.2, (R.GLB_APERTURE.at 1), by decide +kernel, by decide +kernel, by decide +kernel, by decide +kernel, by decide +kernel, by decide +kernel, some_eq _ (by decide +kernel), rfl⟩, ⟨dev, ((dev).writeReg (.direct (.port 0)) (regOf (R.QE_Q_CQ.at 0)).1 (regOf (R.QE_Q_CQ.at 0)).2.1 (regOf (R.QE_Q_CQ.at 0)).2.2 (R.QE_Q_CQ.at 0) 0 (fieldMask 0 64)).getD dev, (regOf (R.QE_Q_CQ.at 0)).1, (regOf (R.QE_Q_CQ.at 0)).2.1, (regOf (R.QE_Q_CQ.at 0)).2.2, (R.QE_Q_CQ.at 0), by decide +kernel, by decide +kernel, by decide +kernel, by decide +kernel, by decide +kernel, by decide +kernel, some_eq _ (by decide +kernel), rfl⟩, ⟨dev, ((dev).writeReg (.direct (.port 0)) (regOf (R.QE_Q_CQ_HEAD.at 0)).1 (regOf (R.QE_Q_CQ_HEAD.at 0)).2.1 (regOf (R.QE_Q_CQ_HEAD.at 0)).2.2 (R.QE_Q_CQ_HEAD.at 0) 0 (fieldMask 0 64)).getD dev, (regOf (R.QE_Q_CQ_HEAD.at 0)).1, (regOf (R.QE_Q_CQ_HEAD.at 0)).2.1, (regOf (R.QE_Q_CQ_HEAD.at 0)).2.2, (R.QE_Q_CQ_HEAD.at 0), by decide +kernel, by decide +kernel, by decide +kernel, by decide +kernel, by decide +kernel, by decide +kernel, some_eq _ (by decide +kernel), rfl⟩, ⟨dev, ((dev).writeReg (.direct (.port 0)) (regOf (R.FLT_NAN_INFO.at 0)).1 (regOf (R.FLT_NAN_INFO.at 0)).2.1 (regOf (R.FLT_NAN_INFO.at 0)).2.2 (R.FLT_NAN_INFO.at 0) 1 (fieldMask 0 64)).getD dev, (regOf (R.FLT_NAN_INFO.at 0)).1, (regOf (R.FLT_NAN_INFO.at 0)).2.1, (regOf (R.FLT_NAN_INFO.at 0)).2.2, (R.FLT_NAN_INFO.at 0), by decide +kernel, by decide +kernel, by decide +kernel, by decide +kernel, by decide +kernel, by decide +kernel, some_eq _ (by decide +kernel), rfl⟩⟩⟩

theorem test_meets_CommandsTakeTheirEffect_4 :
    ((∃ (s u : State) (x : RegInfo) (i j : Nat), regAt? ((BitVec.ofNat 26 (R.QE_Q_IRQ.at + 0)).toNat / 8 * 8) = some (x, i, j) ∧ s.regPresent ((BitVec.ofNat 26 (R.QE_Q_IRQ.at + 0)).toNat / 8 * 8) x.reg i = true ∧ s.barServes ((BitVec.ofNat 26 (R.QE_Q_IRQ.at + 0)).toNat / 8 * 8) = true ∧ s.mayWrite (.direct (.port 0)) ((BitVec.ofNat 26 (R.QE_Q_IRQ.at + 0)).toNat / 8 * 8) x.reg i = true ∧ s.writeReg (.direct (.port 0)) x i j ((BitVec.ofNat 26 (R.QE_Q_IRQ.at + 0)).toNat / 8 * 8) 0x800 (fieldMask 0 64) = some u) ∧ (∃ (s u : State) (x : RegInfo) (i j : Nat), regAt? ((BitVec.ofNat 26 (R.QE_Q_IRQ.at + 0)).toNat / 8 * 8) = some (x, i, j) ∧ s.regPresent ((BitVec.ofNat 26 (R.QE_Q_IRQ.at + 0)).toNat / 8 * 8) x.reg i = true ∧ s.barServes ((BitVec.ofNat 26 (R.QE_Q_IRQ.at + 0)).toNat / 8 * 8) = true ∧ s.mayWrite (.direct (.port 0)) ((BitVec.ofNat 26 (R.QE_Q_IRQ.at + 0)).toNat / 8 * 8) x.reg i = true ∧ s.writeReg (.direct (.port 0)) x i j ((BitVec.ofNat 26 (R.QE_Q_IRQ.at + 0)).toNat / 8 * 8) 0x800 (fieldMask 0 32) = some u) ∧ (∃ (s u : State) (x : RegInfo) (i j : Nat), regAt? ((BitVec.ofNat 26 (R.QE_Q_IRQ.at + 4)).toNat / 8 * 8) = some (x, i, j) ∧ s.regPresent ((BitVec.ofNat 26 (R.QE_Q_IRQ.at + 4)).toNat / 8 * 8) x.reg i = true ∧ s.barServes ((BitVec.ofNat 26 (R.QE_Q_IRQ.at + 4)).toNat / 8 * 8) = true ∧ s.mayWrite (.direct (.port 0)) ((BitVec.ofNat 26 (R.QE_Q_IRQ.at + 4)).toNat / 8 * 8) x.reg i = true ∧ s.writeReg (.direct (.port 0)) x i j ((BitVec.ofNat 26 (R.QE_Q_IRQ.at + 4)).toNat / 8 * 8) ((1 : W64) <<< 32) (fieldMask 32 32) = some u)) ∧
    (∃ (s : State) (via : Via) (n : Fin 64) (j : Nat), j = s.f F.GLB_CMP_CTRL_OWNER_JOB n.val ∧ viaPort via = some (s.f F.QE_JOB_CTRL_OWNER_PORT j) ∧ s.jobValid j = true ∧ s.fb F.GLB_CMP_CTRL_OWNED n.val = true) ∧
    (∃ (via : Via) (l : LinkId) (e : Fin 256) (w : Fin 4) (r p : PortId) (k : Fin 16) (c : Instr) (from_ : Via) (off : Nat), (c, from_, off) ∈ [(Instr.glbMarginRead via, via, R.GLB_MARGIN.at), (.fabSaddleStatRead via, via, R.FAB_SADDLE_STAT.at), (.altLinkFecRead via l, via, R.ALT_LINK_FEC.at l.val), (.fltLogRead via e w, via, (logReg w.val).at e.val), (.glbHwinSizeRead r p k, .port r, R.GLB_HWIN_SIZE.at p.val k.val)]) ∧
    (∃ (s : State), s.barServes R.GLB_TIME.at = true) ∧
    (∃ (s : State), s.part.hasWatershed = true) ∧
    ((∃ (s : State) (via : Via) (o : QId), s.fb F.SRV_OUT_CTRL_VALID o.val = true ∧ s.jobPort via (s.f F.SRV_OUT_CTRL_OWNER_JOB o.val) = true) ∧ (∃ (s : State) (via : Via) (n : JobId), s.running = true ∧ s.jobPort via n.val = true) ∧ (∃ (s : State) (via : Via) (m : BindId), s.bindPort via m.val = true) ∧ (∃ (s : State) (via : Via), via ≠ .sideband ∧ s.isPendant = true) ∧ (∃ (s : State) (l : LinkId), s.part.hasLink l.val = true)) ∧
    (∃ (s : State) (i : Fin 12), s.part.hasLaser i.val = true) ∧
    (∃ (s : State), s.inService = true ∧ s.cal.checked + 100000000 ≤ s.now) ∧
    (∃ (s : State) (kind element : Nat), s.inService = true ∧ s.cal.queued.contains (kind, element) = true ∧ ((kind ≤ 1 → s.fb F.GLB_RATE_BELOW_FLOOR = true → s.reportsErrors kind element = true))) ∧
    (∃ (s : State) (die : Fin 2) (i : Nat), s.retiringSite die.val = some i ∧ (∀ d ∈ s.dalesFrom die.val (siteCol i), s.stepOn d = none)) :=
  ⟨⟨⟨dev, (dev.writeReg (.direct (.port 0)) (regOf R.QE_Q_IRQ.at).1 0 0 ((BitVec.ofNat 26 (R.QE_Q_IRQ.at + 0)).toNat / 8 * 8) 0x800 (fieldMask 0 64)).getD dev, (regOf R.QE_Q_IRQ.at).1, 0, 0, by decide +kernel, by decide +kernel, by decide +kernel, by decide +kernel, some_eq _ (by decide +kernel)⟩, ⟨dev, (dev.writeReg (.direct (.port 0)) (regOf R.QE_Q_IRQ.at).1 0 0 ((BitVec.ofNat 26 (R.QE_Q_IRQ.at + 0)).toNat / 8 * 8) 0x800 (fieldMask 0 32)).getD dev, (regOf R.QE_Q_IRQ.at).1, 0, 0, by decide +kernel, by decide +kernel, by decide +kernel, by decide +kernel, some_eq _ (by decide +kernel)⟩, ⟨dev, (dev.writeReg (.direct (.port 0)) (regOf R.QE_Q_IRQ.at).1 0 0 ((BitVec.ofNat 26 (R.QE_Q_IRQ.at + 4)).toNat / 8 * 8) ((1 : W64) <<< 32) (fieldMask 32 32)).getD dev, (regOf R.QE_Q_IRQ.at).1, 0, 0, by decide +kernel, by decide +kernel, by decide +kernel, by decide +kernel, some_eq _ (by decide +kernel)⟩⟩,
   ⟨fields [(F.GLB_CMP_CTRL_OWNED, 1, 63), (F.QE_JOB_FENCE_COUNT, 1, 0)] dev, .port 0, 63, 0, rfl, by decide +kernel, by decide +kernel, by decide +kernel⟩,
   ⟨.port 1, 0, 255, 3, 1, 0, 15, .glbHwinSizeRead 1 0 15, .port 1, R.GLB_HWIN_SIZE.at 0 15, by decide +kernel⟩,
   ⟨dev, by decide +kernel⟩,
   ⟨dev, by decide +kernel⟩,
   ⟨⟨fields [(F.SRV_OUT_CTRL_VALID, 1, 0)] dev, .port 0, 0, by decide +kernel, by decide +kernel⟩, ⟨dev, .port 0, 0, by decide +kernel, by decide +kernel⟩, ⟨devServe [], .port 0, 0, by decide +kernel⟩, ⟨fields [(F.FLT_PENDANT_VALID, 1, 0), (F.FLT_PENDANT_ROLE, 1, 0)] dev, .port 0, by decide +kernel, by decide +kernel⟩, ⟨dev, 17, by decide +kernel⟩⟩,
   ⟨dev, 11, by decide +kernel⟩,
   ⟨devT 200000000, by decide +kernel, by decide +kernel⟩,
   ⟨calDev 3 0, 3, 0, by decide +kernel, by decide +kernel, by decide +kernel⟩,
   ⟨retDev mapped, 0, 0, by decide +kernel, by decide +kernel⟩⟩

theorem test_meets_CommandsTakeTheirEffect_5 :
    (∃ (s t : State) (die : Fin 2) (row : Fin 32) (k : Nat) (f : Field), k = rowLink die.val row.val ∧ s.fabric.failedRows.contains k = true ∧ s.saddleBusy = false ∧ f = (if die.val = 0 then F.FAB_SADDLE_LINKS_W2E_SPARED else F.FAB_SADDLE_LINKS_E2W_SPARED) ∧ t = { s with fabric := { s.fabric with failedRows := sremove s.fabric.failedRows k, sparesSpent := setNth s.fabric.sparesSpent die.val (nth s.fabric.sparesSpent die.val 0 + 1) } }) ∧
    (∃ (s : State) (die : Fin 2) (row : Fin 32) (k : Nat), k = rowLink die.val row.val ∧ s.fabric.failedRows.contains k = false ∧ s.fabric.fencedRows.contains k = false) ∧
    (∃ (s : State) (die : Fin 2) (i : Nat), s.copyingChannel die.val = some i ∧ s.fb (if die.val = 0 then F.FLT_HBM_COPYING_W else F.FLT_HBM_COPYING_E) = true) ∧
    ((∃ (s : State) (core : Fin 4) (x : Roll), s.rollOf core.val = some x ∧ x.since + 500000000 < s.now) ∧ (∃ (s : State) (core : Fin 4) (x : Roll), s.rollOf core.val = some x ∧ s.now ≤ x.since + 500000000 ∧ x.done < 3) ∧ (∃ (s : State) (core : Fin 4) (x : Roll), s.rollOf core.val = some x ∧ s.now ≤ x.since + 500000000 ∧ ¬ x.done < 3)) ∧
    ((∃ (s : State) (p : PortId) (off : BitVec 36) (bs : List Byte) (a : Nat), a = s.f F.GLB_APERTURE_BASE p.val * 2 ^ 30 + off.toNat ∧ s.fb F.GLB_APERTURE_VALID p.val = true ∧ s.apertureAllows (s.f F.GLB_APERTURE_JOB p.val) a bs.length = true ∧ regionOf a ≠ Region.plain) ∧ (∃ (s : State) (p : PortId) (off : BitVec 36) (bs : List Byte) (a : Nat), a = s.f F.GLB_APERTURE_BASE p.val * 2 ^ 30 + off.toNat ∧ s.fb F.GLB_APERTURE_VALID p.val = true ∧ s.apertureAllows (s.f F.GLB_APERTURE_JOB p.val) a bs.length = true ∧ regionOf a = Region.plain ∧ (a % 64 ≠ 0 ∨ bs.length % 64 ≠ 0)) ∧ (∃ (s : State) (p : PortId) (off : BitVec 36) (bs : List Byte) (a : Nat), a = s.f F.GLB_APERTURE_BASE p.val * 2 ^ 30 + off.toNat ∧ s.fb F.GLB_APERTURE_VALID p.val = true ∧ s.apertureAllows (s.f F.GLB_APERTURE_JOB p.val) a bs.length = true ∧ regionOf a = Region.plain ∧ a % 64 = 0 ∧ bs.length % 64 = 0)) ∧
    (∃ (s v : State) (t : Fin 3) (c : Instr) (command : Byte) (data : List Byte), s.transportOpen t.val = true ∧ s.takeAllowance t.val = some v ∧ (c, command, data) ∈ [(Instr.getEndpointId t, 2#8, [v.eid t.val, 0#8, 0#8]), (.getMctpVersionSupport t, 4#8, Config.mctpVersions), (.getMessageTypeSupport t, 5#8, [2#8, 0#8, 0x7E#8]), (.getVendorDefinedMessageSupport t, 6#8, [0xFF#8, 0#8, Config.vendorId.extractLsb' 8 8, Config.vendorId.extractLsb' 0 8, Config.vendorCommandSet.extractLsb' 8 8, Config.vendorCommandSet.extractLsb' 0 8])]) ∧
    (∃ (s v : State) (t : Fin 3), s.transportOpen t.val = true ∧ s.takeAllowance t.val = some v) ∧
    ((∃ (s v w : State) (h : MgmtHdr) (payload : List Byte) (r n : Nat), h.session = 0 ∧ s.transportOpen h.transport.val = true ∧ s.takeAllowance h.transport.val = some v ∧ r = (nth payload 0 0).toNat ∧ r ≤ 2 ∧ w = v.settleRole r ∧ lifetimeOf (leNat (slice payload 4 4)) = some n ∧ (w.role r).session = none ∧ 8 ≤ payload.length ∧ w.fb F.SEC_ROLE_LOCKED r = false) ∧ (∃ (s v w : State) (h : MgmtHdr) (payload : List Byte) (r n : Nat), h.session = 0 ∧ s.transportOpen h.transport.val = true ∧ s.takeAllowance h.transport.val = some v ∧ r = (nth payload 0 0).toNat ∧ r ≤ 2 ∧ w = v.settleRole r ∧ lifetimeOf (leNat (slice payload 4 4)) = some n ∧ (w.role r).session = none ∧ 72 ≤ payload.length ∧ ∃ nonce at_, (w.role r).nonce = some (nonce, at_) ∧ slice payload 40 32 = sessionProof (w.roleKey r) nonce (authHdr h r (slice payload 4 4)) (slice payload 8 32))) ∧
    (∃ (s u : State) (h : MgmtHdr) (r : Nat) (y : Session), Admitted s h 0x04 (some observerRole) [] u r y) ∧
    (∃ (s u : State) (h : MgmtHdr) (r : Nat) (y : Session), Admitted s h 0x05 (some observerRole) [] u r y) :=
  ⟨⟨rowDev, { rowDev with fabric := { rowDev.fabric with failedRows := [], sparesSpent := setNth rowDev.fabric.sparesSpent 0 (nth rowDev.fabric.sparesSpent 0 0 + 1) } }, 0, 3, 3, F.FAB_SADDLE_LINKS_W2E_SPARED, rfl, by decide +kernel, by decide +kernel, rfl, rfl⟩,
   ⟨dev, 1, 31, 63, rfl, by decide +kernel, by decide +kernel⟩,
   ⟨copyDev 200 F.FLT_HBM_COPYING_E, 1, 200, by decide +kernel, by decide +kernel⟩,
   ⟨⟨rollDev 0 600000000, 3, ⟨0, 0, hdrO⟩, by decide +kernel, by decide +kernel⟩, ⟨rollDev 2 500000000, 1, ⟨2, 0, hdrO⟩, by decide +kernel, by decide +kernel, by decide +kernel⟩, ⟨rollDev 3 0, 0, ⟨3, 0, hdrO⟩, by decide +kernel, by decide +kernel, by decide +kernel⟩⟩,
   ⟨⟨aperDev 0 0, 0, 64, [1], 64, by decide +kernel, by decide +kernel, by decide +kernel, by decide +kernel⟩, ⟨aperDev (plainBase / 2 ^ 30) 1, 0, 65, [1], plainBase + 65, by decide +kernel, by decide +kernel, by decide +kernel, by decide +kernel, by decide +kernel⟩, ⟨aperDev (plainBase / 2 ^ 30) 1, 0, 64, List.replicate 64 1, plainBase + 64, by decide +kernel, by decide +kernel, by decide +kernel, by decide +kernel, by decide +kernel, by decide +kernel⟩⟩,
   ⟨dev, heard dev, 0, .getMessageTypeSupport 0, 5, [2, 0, 0x7E], by decide +kernel, by decide +kernel, List.mem_cons_of_mem _ (List.mem_cons_of_mem _ List.mem_cons_self)⟩,
   ⟨dev, heard dev, 0, by decide +kernel, by decide +kernel⟩,
   ⟨⟨dev, heard dev, (heard dev).settleRole 1, hdrO, 1 :: List.replicate 7 0, 1, 3600, rfl, by decide +kernel, by decide +kernel, by decide +kernel, by decide +kernel, rfl, by decide +kernel, by decide +kernel, by decide +kernel, by decide +kernel⟩, ⟨nonceDev 0, heard (nonceDev 0), (heard (nonceDev 0)).settleRole 0, hdrO, authPay, 0, 3600, rfl, by decide +kernel, by decide +kernel, rfl, by decide +kernel, rfl, authPay_life, by decide +kernel, authPay_ok.1, [7], 0, by decide +kernel, authPay_ok.2⟩⟩,
   ⟨devS, inS devS, hdrS 4 [], 0, sesS devS, admitted (by decide +kernel)⟩,
   ⟨devS, inS devS, hdrS 5 [], 0, sesS devS, admitted (by decide +kernel)⟩⟩

theorem test_meets_CommandsTakeTheirEffect_6 :
    (∃ (s u : State) (h : MgmtHdr) (os : List W64) (r : Nat) (y : Session), Admitted s h 0x10 (some observerRole) (payloadOf os) u r y ∧ os.length ≤ 120) ∧
    (∃ (s u : State) (h : MgmtHdr) (off v : W64) (r : Nat) (y : Session) (x : RegInfo) (i j : Nat), Admitted s h 0x11 (some operatorRole) (payloadOf [off, v]) u r y ∧ regAt? off.toNat = some (x, i, j) ∧ sidebandWrites off.toNat x.reg = true) ∧
    (∃ (s u : State) (h : MgmtHdr) (timeout : W64) (r : Nat) (y : Session), Admitted s h 0x12 (some ownerRole) (payloadOf [0, timeout]) u r y ∧ h.transport.val = 0 ∧ u.scopeHeld 0 0 = none) ∧
    (∃ (s u w : State) (h : MgmtHdr) (es : List SetEntry) (r : Nat) (y : Session) (t : Tx), Admitted s h 0x13 (some ownerRole) (payloadOf (es.flatMap (fun x => [x.off.setWidth 64, x.value, x.mask]))) u r y ∧ u.txs.find? (fun t => t.opener = .session r) = some t ∧ t.committing = false ∧ es.length ≤ 40 ∧ State.stageAll t.handle es u = (w, .ok)) ∧
    (∃ (s u : State) (h : MgmtHdr) (r : Nat) (y : Session) (t : Tx), Admitted s h 0x15 (some ownerRole) [] u r y ∧ u.txs.find? (fun t => t.opener = .session r) = some t) ∧
    (∃ (s u : State) (h : MgmtHdr) (k r : Nat) (y : Session), Admitted s h 0x20 (some observerRole) (payloadOf [BitVec.ofNat 64 k]) u r y ∧ k < 256) ∧
    (∃ (s u : State) (h : MgmtHdr) (r : Nat) (y : Session), Admitted s h 0x21 (some observerRole) [] u r y) ∧
    (∃ (s u : State) (h : MgmtHdr) (off : Nat) (bs : List Byte) (r : Nat) (y : Session), Admitted s h 0x30 (some ownerRole) (leBytes 8 off ++ bs) u r y ∧ u.mgmt.roll = none ∧ off + bs.length ≤ 0x4000000) ∧
    (∃ (s u : State) (h : MgmtHdr) (k e r : Nat) (y : Session), Admitted s h 0x32 (some operatorRole) (payloadOf [BitVec.ofNat 64 k, BitVec.ofNat 64 e]) u r y ∧ ((k = 0 ∧ e < 16 * u.part.stacks ∧ e < 192 ∨ k = 1 ∧ u.part.hasLink e = true ∧ e < 22))) ∧
    (∃ (s u : State) (h : MgmtHdr) (r : Nat) (y : Session) (t : Tx), Admitted s h 0x14 (some ownerRole) [] u r y ∧ u.txs.find? (fun t => t.opener = .session r) = some t ∧ t.committing = false ∧ u.validate { t with tag := h.tag } = none) :=
  ⟨⟨devS, inS devS, hdrS 0x10 (payloadOf [0, 8]), [0, 8], 0, sesS devS, admitted (by decide +kernel), by decide +kernel⟩,
   ⟨devS, inS devS, hdrS 0x11 (payloadOf [BitVec.ofNat 64 R.PWR_GOV.at, 1]), BitVec.ofNat 64 R.PWR_GOV.at, 1, 0, sesS devS, (regOf R.PWR_GOV.at).1, (regOf R.PWR_GOV.at).2.1, (regOf R.PWR_GOV.at).2.2, admitted (by decide +kernel), by decide +kernel, by decide +kernel⟩,
   ⟨devS, inS devS, hdrS 0x12 (payloadOf [0, 5]), 5, 0, sesS devS, admitted (by decide +kernel), by decide +kernel, by decide +kernel⟩,
   ⟨devST, inS devST, (State.stageAll 1 set2 (inS devST)).1, hdrS 0x13 (payloadOf (set2.flatMap (fun x => [x.off.setWidth 64, x.value, x.mask]))), set2, 0, sesS devST, txS, admitted (by decide +kernel), by decide +kernel, by decide +kernel, by decide +kernel, Prod.ext rfl (by decide +kernel)⟩,
   ⟨devST, inS devST, hdrS 0x15 [], 0, sesS devST, txS, admitted (by decide +kernel), by decide +kernel⟩,
   ⟨devS, inS devS, hdrS 0x20 (payloadOf [BitVec.ofNat 64 255]), 255, 0, sesS devS, admitted (by decide +kernel), by decide +kernel⟩,
   ⟨devS, inS devS, hdrS 0x21 [], 0, sesS devS, admitted (by decide +kernel)⟩,
   ⟨devS, inS devS, hdrS 0x30 (leBytes 8 0x3FFFFFF ++ [9]), 0x3FFFFFF, [9], 0, sesS devS, admitted (by decide +kernel), by decide +kernel, by decide +kernel⟩,
   ⟨devS, inS devS, hdrS 0x32 (payloadOf [BitVec.ofNat 64 0, BitVec.ofNat 64 15]), 0, 15, 0, sesS devS, admitted (by decide +kernel), by decide +kernel⟩,
   ⟨devST, inS devST, hdrS 0x14 [], 0, sesS devST, txS, admitted (by decide +kernel), by decide +kernel, by decide +kernel, by decide +kernel⟩⟩

theorem test_meets_CommandsTakeTheirEffect_7 :
    (∃ (s u : State) (h : MgmtHdr) (nonce : List Byte) (r : Nat) (y z : Session), Admitted s h 0x22 (some observerRole) nonce u r y ∧ nonce.length = 32 ∧ (u.role r).session = some z) ∧
    ((∃ (s : State) (r : RoleId) (y : Session), (s.role r.val).session = some y ∧ y.idle s.now = true) ∧ (∃ (s : State) (r : RoleId) (y : Session), (s.role r.val).session = some y ∧ y.expired s.now = true)) ∧
    ((∃ (s : State) (r : RoleId), s.nonceOver r.val = true) ∧ (∃ (s : State) (r : RoleId), s.lockOver r.val = true)) ∧
    (∃ (s : State) (n : JobId) (va : W64) (m : MigPage), s.migPage n.val va.toNat = some m ∧ m.frame.isSome = true ∧ m.copying = 0 ∧ m.heat < s.f F.TR_MIG_CTRL_DEMOTE ∧ ((∀ x ∈ s.frames.mig, x.job = n.val → x.frame.isSome = true → m.heat ≤ x.heat)) ∧ s.freePoolFrames n.val = [] ∧ (∃ x ∈ s.frames.mig, x.job = n.val ∧ x.frame = none ∧ s.f F.TR_MIG_CTRL_PROMOTE ≤ x.heat)) ∧
    (∃ (s : State) (g : GroupId) (x : RingRun), mget (s.ringPump g.val).ringRuns g.val = some x ∧ (s.ringPump g.val).f F.MRE_G_STAT_STATE g.val = 3 ∧ (s.ringPump g.val).f F.MRE_G_PROG_STEPS_DONE g.val = (s.ringPump g.val).ringMembers g.val ∧ x.fed < (s.ringPump g.val).ringMembers g.val * (s.ringPump g.val).shardLen g.val ((s.ringPump g.val).ringIndex g.val) * x.hq) ∧
    (∃ (s u : State) (xid : BitVec 32) (x : Request) (t : Nat), s.requestOf xid.toNat false = some x ∧ x.busyAt = some t ∧ t + 1000 ≤ s.now ∧ u = (s.count F.ALT_RM_STAT_BUSY_RESENDS).mapRequest x.xid (fun y => { y with busyAt := none, sentAt := s.now })) ∧
    (∃ (s : State) (xid : BitVec 32) (x : Request), s.requestOf xid.toNat false = some x ∧ x.busyAt = none ∧ x.msg.op ≠ 0x21 ∧ x.sentAt + limitTicks (s.f F.ALT_RM_CFG_RM_TIMEOUT_US) 1000 < s.now) ∧
    (∃ (s : State) (l : LinkId) (xid : BitVec 32) (x : Request), s.requestOf xid.toNat true = some x ∧ ((x.plainLink = some l.val ∨ x.plainLink = some 22)) ∧ x.sentAt + limitTicks (s.f F.PLN_CFG_TIMEOUT_US) 100 ≤ s.now) :=
  ⟨⟨devS, inS devS, hdrS 0x22 (List.replicate 32 7), List.replicate 32 7, 0, sesS devS, sesS devS, admitted (by decide +kernel), by decide +kernel, by decide +kernel⟩,
   ⟨⟨{ devS with tb := { devS.tb with tick := 2 ^ 40 } }, 0, ses0, by decide +kernel, by decide +kernel⟩, ⟨{ devS with tb := { devS.tb with tick := 2 ^ 40 } }, 0, ses0, by decide +kernel, by decide +kernel⟩⟩,
   ⟨⟨{ nonceDev 0 with tb := { dev.tb with tick := 2 ^ 40 } }, 0, by decide +kernel⟩, ⟨dev.setF F.SEC_ROLE_LOCKED 1 2, 2, by decide +kernel⟩⟩,
   ⟨migDev [{ mig0 with frame := some 100, heat := 0 }, { mig0 with va := 0x400000 }] 1, 0, 0x200000, { mig0 with frame := some 100, heat := 0 }, by decide +kernel, by decide +kernel, by decide +kernel, by decide +kernel, by decide +kernel, by decide +kernel, by decide +kernel⟩,
   ⟨(ringDev [ringFeedRun] 3).setF F.MRE_G_PROG_STEPS_DONE 2, 0, ringFeedRun, by decide +kernel, by decide +kernel, by decide +kernel, by decide +kernel⟩,
   ⟨waiting (reqAt 8 fl0 none (some 0)) 1000, (State.mapRequest (State.count (waiting (reqAt 8 fl0 none (some 0)) 1000) F.ALT_RM_STAT_BUSY_RESENDS) (reqAt 8 fl0 none (some 0)).xid (fun y => { y with busyAt := none, sentAt := (waiting (reqAt 8 fl0 none (some 0)) 1000).now })), 0, (reqAt 8 fl0 none (some 0)), 0, by decide +kernel, by decide +kernel, by decide +kernel, rfl⟩,
   ⟨waiting (reqAt 1 fl0 none none) 1000001, 0, (reqAt 1 fl0 none none), by decide +kernel, by decide +kernel, by decide +kernel, by decide +kernel⟩,
   ⟨waiting (reqAt 64 fl0 (some 22) none) 100000, 18, 0, (reqAt 64 fl0 (some 22) none), by decide +kernel, by decide +kernel, by decide +kernel⟩⟩

theorem test_meets_StepsRunTheFrontCommand : ∃ (s : State), s.pending = [] :=
  ⟨dev, by decide +kernel⟩

theorem test_meets_FusesAreOnlyBurnt : ∃ (s t : State), step s = .next t :=
  ⟨dev, dev.passTick, rfl⟩

theorem test_meets_MemoryStaysCanonical : ∃ (s t : State), MemoryCanonical s ∧ step s = .next t :=
  ⟨put (cmd 0) dev, (put (cmd 0) dev).passTick, canonical (by decide +kernel), rfl⟩

end Witnesses

end Sys2Proof.Tests
end

section
/-! What a BAR0 offset names, and what a direct write of a register does: the statements about absent units and access codes. -/

namespace Sys2Proof.Proofs

open Sys2Proof.Machine Sys2Proof.Laws

/-! ## Offsets (R14, R494) -/

/-- The indexes that an offset names give the offset back. -/
theorem index?_at {r : Reg} {off i j : Nat} (h : r.index? off = some (i, j)) : r.at i j = off ∧ i < r.n1 ∧ j < r.n2 := by
  simp only [Reg.index?, Option.ite_none_left_eq_some, Option.ite_none_right_eq_some, Option.some.injEq, Prod.mk.injEq] at h
  obtain ⟨hb, ⟨he, hi, hj⟩, rfl, rfl⟩ := h
  refine ⟨?_, hi, hj⟩
  have hle : r.s1 * (if r.n1 ≤ 1 then 0 else (off - r.base) / r.s1) ≤ off - r.base := by
    split
    · simp
    · exact Nat.mul_div_le _ _
  unfold Reg.at
  omega

theorem regAtIn_some {ts : List RegInfo} {off i j : Nat} {t : RegInfo} (h : regAtIn ts off = some (t, i, j)) :
    t ∈ ts ∧ t.reg.index? off = some (i, j) := by
  induction ts with
  | nil => simp [regAtIn] at h
  | cons x xs ih =>
    unfold regAtIn at h
    split at h
    · next a b e =>
      simp only [Option.some.injEq, Prod.mk.injEq] at h
      obtain ⟨rfl, rfl, rfl⟩ := h
      exact ⟨List.mem_cons_self, e⟩
    · exact ⟨List.mem_cons_of_mem _ (ih h).1, (ih h).2⟩

/-- A register that an offset names stands in the tables and lies at the offset. -/
theorem regAt?_at {off i j : Nat} {t : RegInfo} (h : regAt? off = some (t, i, j)) :
    t ∈ regTable ∧ t.reg.at i j = off ∧ i < t.reg.n1 ∧ j < t.reg.n2 :=
  ⟨(regAtIn_some h).1, index?_at (regAtIn_some h).2⟩

/-- Every register of the tables is naturally aligned and ends below the vector table. -/
theorem regTable_placed : ∀ t ∈ regTable, t.reg.base % 8 = 0 ∧ t.reg.s1 % 8 = 0 ∧ t.reg.s2 % 8 = 0 ∧
    t.reg.base + t.reg.s1 * (t.reg.n1 - 1) + t.reg.s2 * (t.reg.n2 - 1) < 0x2000000 := by decide +kernel

theorem regAt?_aligned {off i j : Nat} {t : RegInfo} (h : regAt? off = some (t, i, j)) : off % 8 = 0 := by
  obtain ⟨hm, rfl, _, _⟩ := regAt?_at h
  obtain ⟨hb, h1, h2, _⟩ := regTable_placed t hm
  simp [Reg.at, Nat.add_mod, Nat.mul_mod, hb, h1, h2]

theorem regAt?_below {off i j : Nat} {t : RegInfo} (h : regAt? off = some (t, i, j)) : off < 0x2000000 := by
  obtain ⟨hm, rfl, hi, hj⟩ := regAt?_at h
  obtain ⟨_, _, _, hl⟩ := regTable_placed t hm
  have h1 := Nat.mul_le_mul_left t.reg.s1 (Nat.le_sub_one_of_lt hi)
  have h2 := Nat.mul_le_mul_left t.reg.s2 (Nat.le_sub_one_of_lt hj)
  unfold Reg.at
  omega

/-! ## Direct writes (R16, R495) -/

section Writes

variable {s : State} {w : Writer} {via : Via} {t : RegInfo} {off i j : Nat}

theorem applyWrite_absent (hr : regAt? off = some (t, i, j)) (hp : s.regPresent off t.reg i = false) (v mask : W64) :
    s.applyWrite w off v mask = some s := by
  simp [State.applyWrite, hr, hp]

theorem applyWrite_forbidden (hr : regAt? off = some (t, i, j)) (hp : s.regPresent off t.reg i = true)
    (hw : s.mayWrite w off t.reg i = false) (v mask : W64) : s.applyWrite w off v mask = none := by
  simp [State.applyWrite, hr, hp, hw]

theorem applyWrite_allowed (hr : regAt? off = some (t, i, j)) (hp : s.regPresent off t.reg i = true)
    (hw : s.mayWrite w off t.reg i = true) (v mask : W64) : s.applyWrite w off v mask = s.writeReg w t i j off v mask := by
  simp [State.applyWrite, hr, hp, hw]

/-- A direct write leaves the device as it was where the write is refused or leaves it as it was. -/
theorem directReg_eq_self {v mask : W64} (h : (s.applyWrite (.direct via) off v mask).getD s = s) : s.directReg via off v mask = s := by
  simp [State.directReg, h]

/-- A direct write of 8 bytes at the offset of a register replaces the register whole. -/
theorem directWrite_whole (ha : off % 8 = 0) (hb : off < 0x2000000) (v : W64) :
    s.directWrite via off 8 v = s.directReg via off v (fieldMask 0 64) := by
  have he : off / 8 * 8 = off := by omega
  simp [State.directWrite, ha, he, Nat.not_le.2 hb]

/-- A direct write of any size at the offset of a register has no effect where none of its words has one. -/
theorem directWrite_eq_self (ha : off % 8 = 0) (hb : off < 0x2000000) (h : ∀ v mask, s.directReg via off v mask = s) (size : Nat)
    (v : W64) : s.directWrite via off size v = s := by
  have he : off / 8 * 8 = off := by omega
  unfold State.directWrite
  split
  · rfl
  · simp [he, Nat.not_le.2 hb, h]

end Writes

theorem mergeMask_getLsbD (old new mask : W64) (k : Nat) :
    (mergeMask old new mask).getLsbD k = if mask.getLsbD k then new.getLsbD k else old.getLsbD k := by
  by_cases hk : k < 64
  · simp only [mergeMask, BitVec.getLsbD_or, BitVec.getLsbD_and, BitVec.getLsbD_not, hk, decide_true, Bool.true_and]
    cases mask.getLsbD k <;> simp
  · simp [mergeMask, BitVec.getLsbD_of_ge _ k (Nat.le_of_not_lt hk)]

/-- What a write of the fields leaves in the register. -/
theorem writeFields_reg (s : State) (t : RegInfo) (off : Nat) (v mask : W64) :
    (s.writeFields t off v mask).reg off =
      mergeMask (s.reg off) v (maskOf (fun a => a == .rw || a == .rws) t.fields &&& mask) &&&
        ~~~ (v &&& mask &&& maskOf (· == .w1c) t.fields) := by
  simp [State.writeFields]

/-- A write of the fields, bit by bit: the access code of a bit decides. -/
theorem writeFields_getLsbD (s : State) (t : RegInfo) (off : Nat) (v mask : W64) {k : Nat} (hk : k < 64) :
    ((s.writeFields t off v mask).reg off).getLsbD k =
      (if mask.getLsbD k && v.getLsbD k && (maskOf (· == .w1c) t.fields).getLsbD k then false
       else if mask.getLsbD k && (maskOf (fun a => a == .rw || a == .rws) t.fields).getLsbD k then v.getLsbD k
       else (s.reg off).getLsbD k) := by
  rw [writeFields_reg]
  simp only [BitVec.getLsbD_and, BitVec.getLsbD_not, mergeMask_getLsbD, hk, decide_true, Bool.true_and]
  cases mask.getLsbD k <;> cases (maskOf (· == .w1c) t.fields).getLsbD k <;> cases v.getLsbD k <;> simp

/-- Settles O9: a write that is allowed goes to `writeReg`, one that is not has no effect, and the fields change bit by bit. -/
theorem registerWritesFollowAccessCodes : Obligations.RegisterWritesFollowAccessCodes := by
  unfold Obligations.RegisterWritesFollowAccessCodes
  refine ⟨?_, ?_, fun s t off v mask k hk => writeFields_getLsbD s t off v mask hk,
    fun s t off v mask => ⟨sameRegs_setReg (sameRegs_refl s _) _ List.mem_cons_self, rfl⟩⟩
  · intro s u via off v t i j ha hb hr hp hs hw hu
    change Host.Outcome.next (s.directWrite via off.toNat 8 v) = .next u
    rw [directWrite_whole ha hb, State.directReg, if_pos hs, applyWrite_allowed hr hp hw, hu, Option.getD_some]
  · intro s via off v t i j ha hb hr hp hw
    change Host.Outcome.next (s.directWrite via off.toNat 8 v) = .next s
    rw [directWrite_whole ha hb, directReg_eq_self]
    rw [applyWrite_forbidden hr hp hw, Option.getD_none]

/-! ## Absent units (R5) -/

section Absent

variable {s : State} {off i j : Nat} {t : RegInfo}

theorem readReg_absent (hr : regAt? off = some (t, i, j)) (hp : s.regPresent off t.reg i = false) : s.readReg off = 0 := by
  simp [State.readReg, hr, hp]

theorem directWrite_absent (hr : regAt? off = some (t, i, j)) (hp : s.regPresent off t.reg i = false) (via : Via) (size : Nat) (v : W64) :
    s.directWrite via off size v = s := by
  refine directWrite_eq_self (regAt?_aligned hr) (regAt?_below hr) (fun v mask => directReg_eq_self ?_) size v
  rw [applyWrite_absent hr hp, Option.getD_some]

/-- The window of a unit that the variant does not carry holds no register. -/
theorem regPresent_absent
    (h : (0x1800000 ≤ off ∧ off < 0x1900000 ∧ s.part.hasMeander = false) ∨
      (0x1900000 ≤ off ∧ off < 0x1A00000 ∧ s.part.hasWatershed = false) ∨
      (0x800000 ≤ off ∧ off < 0x1800000 ∧ s.windowExists i = false) ∨
      (0x200000 ≤ off ∧ off < 0x800000 ∧ t.reg ∈ [R.TR_SLOT, R.FAB_BORDER] ∧ s.hasDale i = false) ∨
      (0x1C00000 ≤ off ∧ t.reg ∈ [R.ALT_LINK_CTRL, R.ALT_LINK_STAT, R.ALT_LINK_PEER, R.ALT_LINK_OPT, R.ALT_LINK_ERR, R.ALT_LINK_FEC] ∧
        s.part.hasLink i = false)) : s.regPresent off t.reg i = false := by
  unfold State.regPresent
  rcases h with ⟨hl, hh, hu⟩ | ⟨hl, hh, hu⟩ | ⟨hl, hh, hu⟩ | ⟨hl, hh, hm, hu⟩ | ⟨hl, hm, hu⟩
  · rw [if_pos ⟨hl, hh⟩, hu]
  · rw [if_neg (by omega), if_pos ⟨hl, hh⟩, hu]
  · rw [if_neg (by omega), if_neg (by omega), if_pos ⟨hl, hh⟩, hu]
  · have hx : t.reg = R.TR_SLOT ∨ t.reg = R.FAB_BORDER := by simpa using hm
    rw [if_neg (by omega), if_neg (by omega), if_neg (by omega), if_pos hx, hu]
  · have hx : t.reg = R.ALT_LINK_CTRL ∨ t.reg = R.ALT_LINK_STAT ∨ t.reg = R.ALT_LINK_PEER ∨ t.reg = R.ALT_LINK_OPT ∨
        t.reg = R.ALT_LINK_ERR ∨ t.reg = R.ALT_LINK_FEC := by simpa using hm
    have hn : ¬ (t.reg = R.TR_SLOT ∨ t.reg = R.FAB_BORDER) := by
      rcases hx with e | e | e | e | e | e <;> rw [e] <;> decide
    rw [if_neg (by omega), if_neg (by omega), if_neg (by omega), if_neg hn, if_pos hx, hu]

end Absent

/-- Settles O12: in each of the windows no register is present, so a read answers zero and a write is dropped. -/
theorem absentUnitsReadZero : Obligations.AbsentUnitsReadZero := by
  unfold Obligations.AbsentUnitsReadZero
  intro s off t i j hr h
  have hp := regPresent_absent h
  exact ⟨readReg_absent hr hp, fun via size v => congrArg Host.Outcome.next (directWrite_absent hr hp via size v)⟩

/-! ## Reset (R15) -/

/-- Settles O60: closed facts about the one state after reset, so each register is evaluated. -/
theorem resetLeavesTheTablesValues : Obligations.ResetLeavesTheTablesValues := by
  unfold Obligations.ResetLeavesTheTablesValues
  exact ⟨by decide +kernel, rfl, rfl, rfl, by decide +kernel⟩

end Sys2Proof.Proofs
end

section
/-! Power-good, boot, power failure, trip and warm restart: the statement about the events of power and boot. -/

namespace Sys2Proof.Proofs

open Sys2Proof.Machine Sys2Proof.Laws

variable (s : State)

/-! ## Steps that change registers alone -/

/-- A field of a register outside a frame reads as it did. -/
theorem f_sameRegs {s t : State} {offs : List Nat} (h : SameRegsBut s t offs) (x : Field) {i j : Nat} (hx : x.reg.at i j ∉ offs) :
    t.f x i j = s.f x i j :=
  congrArg (fun v => bitsOf v x.lo x.width) (h _ hx)

/-- The two states differ in their registers alone. -/
def OnlyRegs (s t : State) : Prop := ∃ m, t = { s with regs := m }

section OnlyRegs

variable {s} {t : State}

theorem OnlyRegs.eq (h : OnlyRegs s t) : t = { s with regs := t.regs } := by
  obtain ⟨m, rfl⟩ := h
  rfl

theorem onlyRegs_refl (s : State) : OnlyRegs s s := ⟨s.regs, rfl⟩

theorem onlyRegs_setR (h : OnlyRegs s t) (x : Reg) (v : W64) (i j : Nat) : OnlyRegs s (t.setR x v i j) := by
  obtain ⟨m, rfl⟩ := h
  exact ⟨_, rfl⟩

theorem onlyRegs_setF (h : OnlyRegs s t) (x : Field) (v i j : Nat) : OnlyRegs s (t.setF x v i j) := onlyRegs_setR h _ _ _ _

theorem onlyRegs_showFail (h : OnlyRegs s t) (b : Bool) (x : Nat) : OnlyRegs s (t.showFail b x) := onlyRegs_setF h _ _ _ _

theorem onlyRegs_columnMaps (h : OnlyRegs s t) : OnlyRegs s t.columnMaps := onlyRegs_setF (onlyRegs_setF h _ _ _ _) _ _ _ _

theorem onlyRegs_firmwareValues (h : OnlyRegs s t) : OnlyRegs s t.firmwareValues :=
  onlyRegs_setF (onlyRegs_setF (onlyRegs_setF (onlyRegs_setF (onlyRegs_setF h _ _ _ _) _ _ _ _) _ _ _ _) _ _ _ _) _ _ _ _

theorem onlyRegs_extendMeas (h : OnlyRegs s t) (r : Nat) (d : List Byte) : OnlyRegs s (t.extendMeas r d) :=
  List.foldlRecOn (motive := OnlyRegs s) _ _ h fun _ hu _ _ => onlyRegs_setR hu _ _ _ _

/-- An image that starts to run changes registers and what the power block says of the image. -/
theorem onlyRegs_runImage (s : State) (b : Bool) :
    OnlyRegs { s with power := { s.power with imageOk := true, runningB := b } } (s.runImage b) :=
  onlyRegs_extendMeas (onlyRegs_setF (onlyRegs_setF (onlyRegs_setR (onlyRegs_setF (onlyRegs_refl _) _ _ _ _) _ _ _ _) _ _ _ _) _ _ _ _) _ _

end OnlyRegs

/-! ## Power-good and the end of boot (R2, R564) -/

theorem powerGood_poweredOn (slot : BitVec 6) (d : Bool) (h : s.power.good = false) :
    exec (.powerGood slot d) s =
      .next (({ s.setF F.GLB_BOARD_SLOT_ID slot.toNat with power := { s.power with good := true } } : State).bootRoms d) := by
  change execPowerGood slot d s = _
  simp [execPowerGood, h]

/-- Power-good of a device that had power begins from the power cycle (R2). -/
theorem powerGood_powerCycle (slot : BitVec 6) (d : Bool) (h : s.power.good = true) :
    exec (.powerGood slot d) s =
      .next (({ s.poweredOff.setF F.GLB_BOARD_SLOT_ID slot.toNat with power := { s.poweredOff.power with good := true } } : State).bootRoms
        d) := by
  change execPowerGood slot d s = _
  simp only [execPowerGood, h, if_true]

/-- The device once its firmware is ready: it is not stopped, in mode 1, with `FAULT_N` high. -/
def readied : State :=
  (({ s with power := { s.power with stopped := false } } : State).setF F.SEC_BOOT_STAT_MODE 1).setF F.GLB_BOARD_FAULT 0

theorem deviceReady_ready (cal : List CalRecord) (h : s.mayReady = true) :
    exec (.deviceReady cal) s = .next (readied (cal.foldl (fun s r => s.putRecord r)
      (if s.f F.SEC_BOOT_STAT_MODE = 0 then s.zeroAll.columnMaps else s).firmwareValues)) := by
  change execDeviceReady cal s = _
  simp only [execDeviceReady, h, Bool.not_true, Bool.false_eq_true, if_false, readied]

theorem readied_mode : (readied s).f F.SEC_BOOT_STAT_MODE = 1 := by
  unfold readied
  rw [f_setF_ne _ _ (by decide), f_setF_self _ _ _ _ _ (by decide)]
  rfl

theorem readied_fault : (readied s).f F.GLB_BOARD_FAULT = 0 := by
  unfold readied
  rw [f_setF_self _ _ _ _ _ (by decide)]
  rfl

theorem sameRegs_readied {s t : State} {offs : List Nat} (h : SameRegsBut s t offs) (m : [R.SEC_BOOT_STAT.at, R.GLB_BOARD.at] ⊆ offs) :
    SameRegsBut s (readied t) offs :=
  sameRegs_setF (sameRegs_setF (sameRegs_congr h rfl) _ _ _ _ (m (by decide))) _ _ _ _ (m (by decide))

theorem readied_frame : readied s = { s with regs := (readied s).regs, power := (readied s).power } := rfl

section FirstBoot

variable {s} {t : State} {offs : List Nat}

theorem sameRegs_columnMaps (h : SameRegsBut s t offs) (m : [R.FAB_COL_MAP_W.at, R.FAB_COL_MAP_E.at] ⊆ offs) :
    SameRegsBut s t.columnMaps offs :=
  sameRegs_setF (sameRegs_setF h _ _ _ _ (m (by decide))) _ _ _ _ (m (by decide))

theorem sameRegs_firmwareValues (h : SameRegsBut s t offs)
    (m : [R.TR_BASIN_RSV.at, R.QE_Q_RING.at 0, R.QE_Q_RING.at 1, R.TR_CCACHE_CFG.at] ⊆ offs) : SameRegsBut s t.firmwareValues offs :=
  sameRegs_setF (sameRegs_setF (sameRegs_setF (sameRegs_setF (sameRegs_setF h _ _ _ _ (m (by decide))) _ _ _ _ (m (by decide)))
    _ _ _ _ (m (by decide))) _ _ _ _ (m (by decide))) _ _ _ _ (m (by decide))

/-- The firmware reserves 22528 MiB of the Basin. -/
theorem firmwareValues_reserve : t.firmwareValues.f F.TR_BASIN_RSV_RSV_MIB = 22528 := by
  unfold State.firmwareValues
  dsimp only
  rw [f_setF_ne _ _ (by decide), f_setF_ne _ _ (by decide), f_setF_ne _ _ (by decide), f_setF_ne _ _ (by decide),
    f_setF_self _ _ _ _ _ (by decide)]
  rfl

end FirstBoot

/-- The state in which the first boot of a device ends, before its firmware has brought calibration records. -/
def firstReady : State := readied s.zeroAll.columnMaps.firmwareValues

theorem deviceReady_first (h : s.mayReady = true) (hm : s.f F.SEC_BOOT_STAT_MODE = 0) :
    exec (.deviceReady []) s = .next (firstReady s) := by
  rw [deviceReady_ready s [] h, if_pos hm, firstReady, List.foldl_nil]

theorem firstReady_reserve : (firstReady s).f F.TR_BASIN_RSV_RSV_MIB = 22528 := by
  have h := sameRegs_readied (sameRegs_refl s.zeroAll.columnMaps.firmwareValues _) (List.Subset.refl _)
  exact (f_sameRegs h _ (by decide)).trans firmwareValues_reserve

theorem firstReady_sameRegs : SameRegsBut s (firstReady s) [R.FAB_COL_MAP_W.at, R.FAB_COL_MAP_E.at, R.TR_BASIN_RSV.at, R.QE_Q_RING.at 0,
    R.QE_Q_RING.at 1, R.TR_CCACHE_CFG.at, R.SEC_BOOT_STAT.at, R.GLB_BOARD.at] := by
  refine sameRegs_readied (sameRegs_firmwareValues (sameRegs_columnMaps (sameRegs_of_regs (t := s.zeroAll) rfl _) ?_) ?_) ?_ <;> decide

/-- The end of the first boot changes registers, the run state of the power and the memory alone. -/
theorem onlyRegs_firstReady :
    OnlyRegs { s with power := { s.power with stopped := false }, memory := s.zeroAll.memory } (firstReady s) := by
  obtain ⟨m, hm⟩ := onlyRegs_firmwareValues (onlyRegs_columnMaps (onlyRegs_refl s.zeroAll))
  rw [firstReady, hm, readied_frame]
  exact ⟨_, rfl⟩

/-! ## Failure and trip (R511, R582, R587) -/

theorem pwrfail_first (hg : s.power.good = true) (hf : s.fb F.GLB_BOARD_PWRFAIL = false) :
    exec .pwrfail s =
      .next (((((({ (s.setF F.GLB_BOARD_PWRFAIL 1).setF F.GLB_BOARD_FAULT 1 with
        power := { s.power with failedAt := s.now } } : State).fault 0x5A02 .device 0).announce 0x29 0).flushPort 0).flushPort 1)) := by
  change Host.Outcome.next s.powerFail = _
  simp only [State.powerFail, hg, hf, Bool.not_true, Bool.or_false, Bool.false_eq_true, if_false, State.now, setF_tb, setF_power]

/-- A failure that is marked is not marked again. -/
theorem pwrfail_again (hf : s.fb F.GLB_BOARD_PWRFAIL = true) : exec .pwrfail s = .next s := by
  change Host.Outcome.next s.powerFail = _
  simp [State.powerFail, hf]

/-- A rail that leaves its tolerance is recorded, and then the power has failed. -/
theorem railUndervoltage_first (k : Fin 9) (hg : s.power.good = true) (hf : s.fb F.GLB_BOARD_PWRFAIL = false) :
    exec (.railUndervoltage k) s =
      exec .pwrfail ((s.setF F.PWR_RAILS_IN_TOL (s.f F.PWR_RAILS_IN_TOL &&& (511 - 2 ^ k.val))).recordRail k.val) := by
  change execRailUndervoltage k s = execPwrfail _
  simp [execRailUndervoltage, execPwrfail, hg, hf]

theorem thermtrip_first (hg : s.power.good = true) (ht : s.fb F.PWR_STAT_TRIPPED = false) :
    exec .thermtrip s =
      .next (((((((s.setF F.PWR_STAT_TRIPPED 1).setF F.GLB_BOARD_THERMTRIP 1).requestVid 0 600).requestVid 1 600).setF
        F.PWR_STAT_LIMITER 6).announce 0x29 0).fault 0x5A03 .device 0).updateFloor := by
  change execThermtrip s = _
  simp only [execThermtrip, hg, ht, Bool.not_true, Bool.or_false, Bool.false_eq_true, if_false]

/-! ## The boot ROMs (R566, R576) -/

/-- What a slot reports does not change what its checks say: they read the firmware store and the fuses. -/
theorem fwCheck_showFail (a b d : Bool) (x : Nat) : (s.showFail a x).fwCheck b d = s.fwCheck b d := rfl

variable {s} in
theorem startImage_active {d : Bool} (h : s.fwCheck s.fw.activeB d = 0) :
    s.startImage d = ((s.showFail s.fw.activeB 0).runImage s.fw.activeB).startLinks := by
  simp only [State.startImage, h, if_true]

variable {s} in
theorem startImage_other {d : Bool} (ha : s.fwCheck s.fw.activeB d ≠ 0) (ho : s.fwCheck (!s.fw.activeB) false = 0) :
    s.startImage d =
      (((s.showFail s.fw.activeB (s.fwCheck s.fw.activeB d)).showFail (!s.fw.activeB) 0).runImage (!s.fw.activeB)).startLinks := by
  simp only [State.startImage, ha, fwCheck_showFail, ho, if_true, if_false]

variable {s} in
theorem startImage_none {d : Bool} (ha : s.fwCheck s.fw.activeB d ≠ 0) (ho : s.fwCheck (!s.fw.activeB) false ≠ 0) :
    s.startImage d = (((s.showFail s.fw.activeB (s.fwCheck s.fw.activeB d)).showFail (!s.fw.activeB)
      (s.fwCheck (!s.fw.activeB) false)).setF F.SEC_BOOT_STAT_MODE 2).setF F.GLB_BOARD_FAULT 1 := by
  simp only [State.startImage, ha, fwCheck_showFail, ho, if_false]

theorem sameRegs_showFail {t : State} {offs : List Nat} (h : SameRegsBut s t offs) (b : Bool) (x : Nat) (m : R.SEC_BOOT_STAT.at ∈ offs) :
    SameRegsBut s (t.showFail b x) offs := by
  cases b <;> exact sameRegs_setF h _ _ _ _ m

/-- Recovery mode, with `FAULT_N` low. -/
theorem recovery_mode : ((s.setF F.SEC_BOOT_STAT_MODE 2).setF F.GLB_BOARD_FAULT 1).f F.SEC_BOOT_STAT_MODE = 2 ∧
    ((s.setF F.SEC_BOOT_STAT_MODE 2).setF F.GLB_BOARD_FAULT 1).f F.GLB_BOARD_FAULT = 1 := by
  rw [f_setF_ne _ _ (by decide), f_setF_self _ _ _ _ _ (by decide), f_setF_self _ _ _ _ _ (by decide)]
  decide

/-- An extension of a measurement changes that measurement alone. -/
theorem extendMeas_reg (r : Nat) (d : List Byte) {off : Nat} (h : ∀ w, w < 8 → R.SEC_MEAS.at r w ≠ off) :
    (s.extendMeas r d).reg off = s.reg off := by
  unfold State.extendMeas
  refine List.foldlRecOn (motive := fun u : State => u.reg off = s.reg off) _ _ rfl fun u hu w hw => ?_
  rw [setR_reg_ne u _ _ _ _ (h w (List.mem_range.1 hw)), hu]

/-- The version of the image that runs is shown. -/
theorem runImage_version (b : Bool) : (s.runImage b).f F.SEC_BOOT_STAT_VERSION = s.fwVersion b % 2 ^ 32 := by
  unfold State.runImage State.f State.r
  rw [extendMeas_reg _ _ _ (by decide)]
  exact (f_setF_ne _ _ (by decide)).trans ((f_setF_ne _ _ (by decide)).trans ((f_setR_ne _ _ (by decide)).trans
    (f_setF_self _ _ _ _ _ (by decide))))

/-! ## Warm restart (R537) -/

theorem warmRestart_restarts (h : s.mayRestart = true) :
    exec .warmRestart s = .next (((([0, 1, 2].foldl (fun s r => s.endSession r)
      ((((s.announce 0x28 2).fenceSelf).queues.map (fun x => x.1)).foldl (fun s q => s.fenceQueue q)
        (s.announce 0x28 2).fenceSelf)).restarted).setF F.SEC_BOOT_STAT_MODE 3).startImage false) := by
  change execWarmRestart s = _
  simp only [execWarmRestart, h, Bool.not_true, Bool.false_eq_true, if_false]

section Kept

variable {α : Type}

/-- The entries of `l` with a kept key, written over `m`. -/
def overlay (p : Nat → Bool) (l m : SMap α) : SMap α := l.foldl (fun m x => if p x.1 then mset m x.1 x.2 else m) m

theorem mget_overlay_dropped {p : Nat → Bool} (l m : SMap α) {k : Nat} (h : p k = false) : mget (overlay p l m) k = mget m k := by
  refine List.foldlRecOn (motive := fun n => mget n k = mget m k) _ _ rfl fun n hn x _ => ?_
  split
  · next hx => rw [mget_mset_ne n _ (fun e => by simp [e, h] at hx), hn]
  · exact hn

theorem mget_overlay_above {p : Nat → Bool} {l : SMap α} (m : SMap α) {k : Nat} (h : Above k l) : mget (overlay p l m) k = mget m k := by
  refine List.foldlRecOn (motive := fun n => mget n k = mget m k) _ _ rfl fun n hn x hx => ?_
  split
  · rw [mget_mset_ne n _ (Nat.ne_of_gt (h x hx)), hn]
  · exact hn

/-- A kept key of a sorted map takes its value from there where it has one. -/
theorem mget_overlay_kept {p : Nat → Bool} {l : SMap α} (m : SMap α) {k : Nat} (hs : msorted l = true) (h : p k = true) :
    mget (overlay p l m) k = (mget l k).or (mget m k) := by
  induction l generalizing m with
  | nil => rfl
  | cons x t ih =>
    obtain ⟨a, v⟩ := x
    obtain ⟨ha, ht⟩ := (msorted_cons a v t).1 hs
    change mget (overlay p t (if p a then mset m a v else m)) k = _
    by_cases e : a = k
    · subst e
      rw [mget_overlay_above _ ha, if_pos h]
      simp [mget]
    · have hm : mget (if p a then mset m a v else m) k = mget m k := by
        split
        · exact mget_mset_ne m v e
        · rfl
      rw [ih _ ht, hm, mget, if_neg e]

/-- What a filter over the keys leaves of a map. -/
theorem mget_filter (p : Nat → Bool) (m : SMap α) (k : Nat) : mget (m.filter fun x => p x.1) k = if p k then mget m k else none := by
  induction m with
  | nil => simp [mget]
  | cons x t ih =>
    obtain ⟨a, v⟩ := x
    by_cases e : a = k
    · subst e
      cases hp : p a <;> simp [hp, mget, ih]
    · cases hp : p a <;> simp [hp, mget, e, ih]

end Kept

theorem restarted_regs : s.restarted.regs = overlay keptOffset s.regs State.resetRegs := rfl

/-- A register that a restart does not keep takes its reset value. -/
theorem restarted_reg_dropped {off : Nat} (h : keptOffset off = false) : s.restarted.reg off = State.reset.reg off := by
  unfold State.reg
  rw [restarted_regs, mget_overlay_dropped _ _ h]
  rfl

/-- A register that a restart keeps holds its value, where its reset value is that of its table. -/
theorem restarted_reg_kept {off : Nat} (hs : msorted s.regs = true) (h : keptOffset off = true) (hr : mget State.resetRegs off = none) :
    s.restarted.reg off = s.reg off := by
  unfold State.reg
  rw [restarted_regs, mget_overlay_kept _ hs h, hr, Option.or_none]

/-- No job but 0 and 1 is valid at reset (R81), and a restart does not keep the jobs. -/
theorem jobs_at_restart : ∀ n < 256, keptOffset (R.QE_JOB_CTRL.at n) = false ∧ (2 ≤ n → State.reset.jobValid n = false) := by
  decide +kernel

theorem restarted_jobValid {n : Nat} (h2 : 2 ≤ n) (h : n < 256) : s.restarted.jobValid n = false := by
  obtain ⟨hk, hv⟩ := jobs_at_restart n h
  have he : s.restarted.jobValid n = State.reset.jobValid n := by
    unfold State.jobValid State.fb State.f State.r
    rw [show F.QE_JOB_CTRL_VALID.reg = R.QE_JOB_CTRL from rfl, restarted_reg_dropped s hk]
  rw [he, hv h2]

theorem restarted_mem : s.restarted.memory.mem = s.memory.mem.filter fun x => regionOf x.1 != .terrace := rfl

/-- A restart empties the Terrace. -/
theorem restarted_byte_terrace {a : Nat} (h : regionOf a = .terrace) : s.restarted.byte a = 0 := by
  unfold State.byte memGet mgetD
  rw [restarted_mem, mget_filter (fun a => regionOf a != .terrace), h]
  rfl

/-- A restart keeps the Basin. -/
theorem restarted_byte_basin {a : Nat} (h : regionOf a = .basin) : s.restarted.byte a = s.byte a := by
  unfold State.byte memGet mgetD
  rw [restarted_mem, mget_filter (fun a => regionOf a != .terrace), h]
  rfl

/-- The fault log is kept (R537), and no entry of it has a reset value of its own. -/
theorem faultLog_at_restart : ∀ e < 256, keptOffset (R.FLT_LOG_A.at e) = true ∧ mget State.resetRegs (R.FLT_LOG_A.at e) = none := by
  decide +kernel

theorem restarted_faultLog (hs : msorted s.regs = true) {e : Nat} (h : e < 256) : s.restarted.r R.FLT_LOG_A e = s.r R.FLT_LOG_A e :=
  restarted_reg_kept s hs (faultLog_at_restart e h).1 (faultLog_at_restart e h).2

end Sys2Proof.Proofs

namespace Sys2Proof.Proofs

open Sys2Proof.Machine Sys2Proof.Laws

/-- Settles O3: each event has the effect of its clause, and the frames follow from the registers that the event writes. -/
theorem powerAndBootEventsTakeEffect : Obligations.PowerAndBootEventsTakeEffect := by
  unfold Obligations.PowerAndBootEventsTakeEffect
  refine ⟨powerGood_poweredOn, ?powerCycle, ?firstReady, ?ready, pwrfail_first, pwrfail_again,
    fun s k hg hf => railUndervoltage_first s k hg hf, thermtrip_first, fun s d h => startImage_active h,
    fun s d ha ho => startImage_other ha ho,
    ?recovery, ?image, warmRestart_restarts, ?restarted⟩
  case powerCycle =>
    rintro s u slot d hg rfl
    exact ⟨powerGood_powerCycle s slot d hg, rfl, rfl, rfl, rfl, rfl⟩
  case firstReady =>
    intro s h hm
    obtain ⟨m, ht⟩ := onlyRegs_firstReady s
    refine ⟨firstReady s, deviceReady_first s h hm, readied_mode _, readied_fault _, ?_, ?_, firstReady_reserve s, ?_,
      firstReady_sameRegs s⟩
    · rw [ht]
    · rw [ht]
      rfl
    · rw [ht]
  case ready =>
    rintro s u v cal h rfl rfl
    exact deviceReady_ready s cal h
  case recovery =>
    intro s d ha ho
    rw [startImage_none ha ho]
    refine ⟨(recovery_mode _).1, (recovery_mode _).2, ?_, ?_⟩
    · exact (onlyRegs_setF (onlyRegs_setF (onlyRegs_showFail (onlyRegs_showFail (onlyRegs_refl s) _ _) _ _) _ _ _ _) _ _ _ _).eq
    · have h := sameRegs_showFail _ (sameRegs_showFail _ (sameRegs_refl s [R.SEC_BOOT_STAT.at, R.GLB_BOARD.at]) s.fw.activeB
        (s.fwCheck s.fw.activeB d) (by decide)) (!s.fw.activeB) (s.fwCheck (!s.fw.activeB) false) (by decide)
      exact sameRegs_setF (sameRegs_setF h _ _ _ _ (by decide)) _ _ _ _ (by decide)
  case image =>
    intro s b
    obtain ⟨m, ht⟩ := onlyRegs_runImage s b
    refine ⟨?_, ?_, runImage_version s b, ?_, ?_⟩ <;> rw [ht]
  case restarted =>
    intro s
    exact ⟨rfl, rfl, rfl, rfl, rfl, fun n h2 h => restarted_jobValid s h2 h, fun a h => restarted_byte_terrace s h,
      fun a h => restarted_byte_basin s h, fun hs e h => restarted_faultLog s hs h⟩

end Sys2Proof.Proofs
end

section
/-! Faults that are only logged, and the governor: the statements about the front command and about the requested voltages. -/

namespace Sys2Proof.Proofs

open Sys2Proof.Machine Sys2Proof.Laws

/-! ## The front of the queue -/

/-- Settles O55: both clauses are the two arms of `step`. -/
theorem stepsRunTheFrontCommand : Obligations.StepsRunTheFrontCommand := by
  unfold Obligations.StepsRunTheFrontCommand
  refine ⟨fun c cs s => rfl, fun s h => ?_⟩
  unfold step
  rw [h]

/-! ## Log entries (R523) -/

/-- The offsets of the registers that a log entry and its vectors write. -/
def logOffs : List Nat :=
  [R.FLT_CLASS_CNT.at, R.FLT_LOG_HEAD.at, R.GLB_PORT_STAT.at 0, R.GLB_PORT_STAT.at 1] ++
    (List.range 256).flatMap fun e => [R.FLT_LOG_A.at e, R.FLT_LOG_B.at e, R.FLT_LOG_C.at e, R.FLT_LOG_D.at e]

theorem mem_logOffs_entry {e : Nat} (h : e < 256) :
    R.FLT_LOG_A.at e ∈ logOffs ∧ R.FLT_LOG_B.at e ∈ logOffs ∧ R.FLT_LOG_C.at e ∈ logOffs ∧ R.FLT_LOG_D.at e ∈ logOffs := by
  have key : ∀ r ∈ [R.FLT_LOG_A.at e, R.FLT_LOG_B.at e, R.FLT_LOG_C.at e, R.FLT_LOG_D.at e], r ∈ logOffs := fun r hr =>
    List.mem_append_right _ (List.mem_flatMap.2 ⟨e, List.mem_range.2 h, hr⟩)
  exact ⟨key _ (by simp), key _ (by simp), key _ (by simp), key _ (by simp)⟩

/-- The two states differ in registers at `offs`, in what has left the device, in the log's own marks and in the ports' pending bits
alone. -/
structure Logs (offs : List Nat) (s t : State) : Prop where
  regs : SameRegsBut s t offs
  rest : t = { s with regs := t.regs, out := t.out, faults := t.faults, portA := t.portA, portB := t.portB }

section Logs

variable {s t : State} {offs : List Nat}

theorem logs_refl (offs : List Nat) (s : State) : Logs offs s s := ⟨sameRegs_refl s offs, rfl⟩

theorem Logs.trans {u : State} (h : Logs offs s t) (k : Logs offs t u) : Logs offs s u :=
  ⟨sameRegs_trans h.regs k.regs, by rw [k.rest, h.rest]⟩

theorem Logs.mono {offs' : List Nat} (h : Logs offs s t) (m : offs ⊆ offs') : Logs offs' s t :=
  ⟨fun off ho => h.regs off (fun hm => ho (m hm)), h.rest⟩

theorem logs_setR (h : Logs offs s t) (x : Reg) (v : W64) (i j : Nat) (m : x.at i j ∈ offs) : Logs offs s (t.setR x v i j) :=
  h.trans ⟨sameRegs_setR (sameRegs_refl t offs) x v i j m, rfl⟩

theorem logs_setF (h : Logs offs s t) (x : Field) (v i j : Nat) (m : x.reg.at i j ∈ offs) : Logs offs s (t.setF x v i j) :=
  logs_setR h _ _ _ _ m

theorem logs_count (h : Logs offs s t) (x : Field) (i j n : Nat) (m : x.reg.at i j ∈ offs) : Logs offs s (t.count x i j n) :=
  logs_setR h _ _ _ _ m

theorem logs_countWrap (h : Logs offs s t) (x : Field) (i j n : Nat) (m : x.reg.at i j ∈ offs) : Logs offs s (t.countWrap x i j n) :=
  logs_setR h _ _ _ _ m

theorem logs_emit (h : Logs offs s t) (o : Output) : Logs offs s (t.emit o) := h.trans ⟨sameRegs_refl t offs, rfl⟩

theorem logs_faults (h : Logs offs s t) (f : FaultSt) : Logs offs s { t with faults := f } := h.trans ⟨sameRegs_refl t offs, rfl⟩

/-- A vector is discarded and counted, kept pending or sent (R500). -/
theorem logs_raise (h : Logs offs s t) (p v : Nat) (m : R.GLB_PORT_STAT.at p ∈ offs) : Logs offs s (t.raise p v) := by
  unfold State.raise
  split
  · exact logs_count h _ _ _ _ m
  · split
    · refine h.trans ⟨sameRegs_of_regs (setPort_regs _ _ _) _, ?_⟩
      unfold State.setPort
      split <;> rfl
    · exact logs_emit h _

theorem logs_faultVectors (h : Logs offs s t) (cls : Nat) (m : ∀ p ∈ [0, 1], R.GLB_PORT_STAT.at p ∈ offs) :
    Logs offs s (t.faultVectors cls) := by
  refine List.foldlRecOn (motive := Logs offs s) _ _ h fun u hu p hp => ?_
  split
  · exact logs_raise hu _ _ (m p hp)
  · exact hu

variable (s) (code i job : Nat) (esc : Bool) (d : Domain) (cmd : Option (Nat × Nat)) (datum : W64)

theorem mem_logOffs : R.FLT_CLASS_CNT.at ∈ logOffs ∧ R.FLT_LOG_HEAD.at ∈ logOffs ∧ ∀ p ∈ [0, 1], R.GLB_PORT_STAT.at p ∈ logOffs := by
  simp [logOffs]

/-- A log entry changes the log, the counters of faults and what its vectors reach. -/
theorem writeLog_logs : Logs logOffs s (s.writeLog code esc d i job cmd datum) := by
  obtain ⟨ha, hb, hc, hd⟩ := mem_logOffs_entry (e := s.f F.FLT_LOG_HEAD_NEXT) (bitsOf_lt _ _ _)
  obtain ⟨_, hh, hp⟩ := mem_logOffs
  unfold State.writeLog
  refine logs_faultVectors (logs_faults (logs_count (logs_setF (logs_setR (logs_setR (logs_setR (logs_setR ?_ _ _ _ _ ha) _ _ _ _ hb)
    _ _ _ _ hc) _ _ _ _ hd) _ _ _ _ hh) _ _ _ _ hh) _) _ hp
  split
  · exact logs_count (logs_refl _ s) _ _ _ _ hh
  · exact logs_refl _ s

theorem coalesceWith_lt {e : Nat} (h : s.coalesceWith code d i job = some e) : e < 256 := by
  unfold State.coalesceWith at h
  split at h
  · cases h
  · exact List.mem_range.1 (List.mem_of_find?_eq_some h)

theorem logAs_logs : Logs logOffs s (s.logAs code esc d i job cmd datum) := by
  have hc : Logs logOffs s (s.count (classCounter (faultClass code))) := logs_count (logs_refl _ s) _ _ _ _ mem_logOffs.1
  unfold State.logAs
  dsimp only
  split
  · next e he => exact logs_faults (logs_count hc _ _ _ _ (mem_logOffs_entry (coalesceWith_lt _ _ _ _ _ he)).1) _
  · exact hc.trans (writeLog_logs _ _ _ _ _ _ _ _)

theorem faultClass_faultCode : faultClass (s.faultCode code d i) ≤ faultClass code + 1 := by
  unfold State.faultCode faultClass
  split
  · omega
  · omega

/-- A fault of class 1 is logged, escalated or not, and starts nothing else (R520). -/
theorem fault_corrected (h : faultClass code = 1) :
    s.fault code d i job cmd datum = s.logAs (s.faultCode code d i) (s.faultCode code d i != code) d i job cmd datum := by
  have hc := faultClass_faultCode s code i d
  have hlt : faultClass (s.faultCode code d i) < 3 := by omega
  have h3 : faultClass (s.faultCode code d i) ≠ 3 ∧ faultClass (s.faultCode code d i) ≠ 4 ∧ faultClass (s.faultCode code d i) ≠ 5 := by omega
  simp only [State.fault, State.faultRollback, hlt, if_true]
  unfold State.faultOutcome
  split <;> simp_all

theorem fault_corrected_logs (h : faultClass code = 1) : Logs logOffs s (s.fault code d i job cmd datum) := by
  rw [fault_corrected s code i job d cmd datum h]
  exact logAs_logs _ _ _ _ _ _ _ _

end Logs
end Sys2Proof.Proofs
end

section
/-! The governor and the current limit (R21 to R23, R583, R584): the statement about the requested voltages. -/

namespace Sys2Proof.Proofs

open Sys2Proof.Machine Sys2Proof.Laws

/-! ## Requested voltages -/

/-- The field of `PWR_STAT` that shows the voltage requested of a die. -/
def vidOf (die : Nat) : Field := if die = 0 then F.PWR_STAT_VID_W else F.PWR_STAT_VID_E

theorem vidOf_reg (die : Nat) : (vidOf die).reg = R.PWR_STAT := by unfold vidOf; split <;> rfl

section Vid

variable (s : State)

@[simp] theorem f_emit (o : Output) (y : Field) (i j : Nat) : (s.emit o).f y i j = s.f y i j := rfl

@[simp] theorem f_setCeiling (die mv : Nat) (y : Field) (i j : Nat) : (s.setCeiling die mv).f y i j = s.f y i j := by
  unfold State.setCeiling
  dsimp only
  split <;> rfl

theorem sameRegs_setCeiling {t : State} {offs : List Nat} (h : SameRegsBut s t offs) (die mv : Nat) :
    SameRegsBut s (t.setCeiling die mv) offs := by
  refine sameRegs_congr h ?_
  unfold State.setCeiling
  dsimp only
  split <;> rfl

theorem f_count_ne {x y : Field} (n : Nat) {i j i' j' : Nat} (h : x.reg.at i j ≠ y.reg.at i' j') :
    (s.count x i j n).f y i' j' = s.f y i' j' := f_setF_ne s _ h

theorem f_lt (x : Field) (i j : Nat) : s.f x i j < 2 ^ x.width := bitsOf_lt _ _ _

theorem requestVid_eq (die mv : Nat) :
    s.requestVid die mv = if s.f (vidOf die) = mv then s else (s.setF (vidOf die) mv).emit (.avs die mv) := rfl

/-- A request is shown, whether or not it goes out over AVSBus. -/
theorem requestVid_self (die mv : Nat) : (s.requestVid die mv).f (vidOf die) = mv % 2 ^ 10 := by
  have hw : (vidOf die).lo + (vidOf die).width ≤ 64 ∧ (vidOf die).width = 10 := by unfold vidOf; split <;> decide
  rw [requestVid_eq]
  split
  · next h => rw [← hw.2, ← h, Nat.mod_eq_of_lt (f_lt _ _ _ _)]
  · exact (f_setF_self s _ _ _ _ hw.1).trans (by rw [hw.2])

theorem requestVid_apart (die mv : Nat) {y : Field} (hr : y.reg = R.PWR_STAT)
    (h : (vidOf die).lo + (vidOf die).width ≤ y.lo ∨ y.lo + y.width ≤ (vidOf die).lo) : (s.requestVid die mv).f y = s.f y := by
  rw [requestVid_eq]
  split
  · rfl
  · exact f_setF_apart s _ _ _ (hr.trans (vidOf_reg die).symm) h

theorem logs_requestVid {t : State} {offs : List Nat} (h : Logs offs s t) (die mv : Nat) (m : R.PWR_STAT.at ∈ offs) :
    Logs offs s (t.requestVid die mv) := by
  rw [requestVid_eq]
  split
  · exact h
  · exact logs_emit (logs_setF h _ _ _ _ (vidOf_reg die ▸ m)) _

/-- The offsets of the registers that `BELOW_FLOOR` and its fault touch. -/
def floorOffs : List Nat := R.GLB_RATE.at :: logOffs

/-- A change of `BELOW_FLOOR`, with its fault (R21): neither voltage changes. -/
theorem updateFloor_logs : Logs floorOffs s s.updateFloor := by
  have hm : R.GLB_RATE.at ∈ floorOffs := List.mem_cons_self
  have hs : logOffs ⊆ floorOffs := List.subset_cons_self _ _
  unfold State.updateFloor
  dsimp only
  split
  · exact (logs_setF (logs_setF (logs_refl _ s) _ _ _ _ hm) _ _ _ _ hm).trans ((fault_corrected_logs _ 0x1A01 _ _ _ _ _ rfl).mono hs)
  · split
    · exact logs_setF (logs_refl _ s) _ _ _ _ hm
    · exact logs_refl _ s

/-- With both dies at 0.70 V or more `BELOW_FLOOR` is clear. -/
theorem updateFloor_high (hw : 700 ≤ s.f F.PWR_STAT_VID_W) (he : 700 ≤ s.f F.PWR_STAT_VID_E) :
    s.updateFloor = s.setF F.GLB_RATE_BELOW_FLOOR 0 := by
  have h1 : decide (s.f F.PWR_STAT_VID_W < 700) = false := decide_eq_false (Nat.not_lt.2 hw)
  have h2 : decide (s.f F.PWR_STAT_VID_E < 700) = false := decide_eq_false (Nat.not_lt.2 he)
  unfold State.updateFloor
  dsimp only
  rw [h1, h2]
  rfl

end Vid

theorem Logs.power {s t : State} {offs : List Nat} (h : Logs offs s t) : t.power = s.power := by rw [h.rest]

theorem Logs.spanningActive {s t : State} {offs : List Nat} (h : Logs offs s t) : t.spanningActive = s.spanningActive := by
  rw [h.rest]
  rfl

/-! ## A period of the governor (R583) -/

section Governor

variable (s : State) (g : GovInput)

/-- The offsets of the registers that show what a period measures. -/
def measureOffs : List Nat := [R.PWR_MEAS.at, R.PWR_TEMP.at, R.PWR_ENERGY.at]

theorem measure_logs : Logs measureOffs s (s.measure g) := by
  unfold State.measure
  dsimp only
  refine logs_countWrap ?_ _ _ _ _ (by decide)
  iterate 9 refine logs_setF ?_ _ _ _ _ (by decide)
  exact logs_refl _ s

theorem governorPeriod_runs (hm : s.f F.SEC_BOOT_STAT_MODE = 1) (ht : s.fb F.PWR_STAT_TRIPPED = false) :
    exec (.governorPeriod g) s = .next ((s.measure g).govern g) := by
  change execGovernorPeriod g s = _
  simp [execGovernorPeriod, hm, ht]

/-- The voltages that a period requests of the two dies, held together where R23 says so. -/
def governed : Nat × Nat × Bool :=
  let sp := clampTo 700 850 (s.f F.PWR_GOV_SETPOINT_MV)
  holdDies s.spanningActive (governDie sp g.vCap g.vTjW g.vHbmW s.power.ceilW).1 (governDie sp g.vCap g.vTjE g.vHbmE s.power.ceilE).1

/-- The measurements of a period do not change what it requests. -/
theorem governed_measure : governed (s.measure g) g = governed s g := by
  have h : (s.measure g).f F.PWR_GOV_SETPOINT_MV = s.f F.PWR_GOV_SETPOINT_MV := f_sameRegs (measure_logs s g).regs _ (by decide)
  have hp := (measure_logs s g).power
  have hs := (measure_logs s g).spanningActive
  unfold governed
  rw [h, hp, hs]

/-- The offsets of the registers that the requests of a period touch. -/
def governOffs : List Nat := R.PWR_STAT.at :: floorOffs

theorem govern_logs : Logs governOffs s (s.govern g) := by
  have hm : R.PWR_STAT.at ∈ governOffs := List.mem_cons_self
  exact (logs_setF (logs_requestVid s (logs_requestVid s (logs_refl _ s) 0 _ hm) 1 _ hm) _ _ _ _ hm).trans
    ((updateFloor_logs _).mono (List.subset_cons_self _ _))

/-- The requests of a period stand in `PWR_STAT`. -/
theorem govern_vid : (s.govern g).f F.PWR_STAT_VID_W = (governed s g).1 % 2 ^ 10 ∧
    (s.govern g).f F.PWR_STAT_VID_E = (governed s g).2.1 % 2 ^ 10 := by
  have hn : R.PWR_STAT.at ∉ floorOffs := by decide +kernel
  unfold State.govern
  dsimp only
  refine ⟨(f_sameRegs (updateFloor_logs _).regs _ hn).trans ?_, (f_sameRegs (updateFloor_logs _).regs _ hn).trans ?_⟩
  · rw [f_setF_apart (x := F.PWR_STAT_LIMITER) (y := F.PWR_STAT_VID_W) _ _ _ _ rfl (by decide),
      requestVid_apart (y := F.PWR_STAT_VID_W) _ _ _ rfl (by decide)]
    exact requestVid_self s 0 _
  · rw [f_setF_apart (x := F.PWR_STAT_LIMITER) (y := F.PWR_STAT_VID_E) _ _ _ _ rfl (by decide)]
    exact requestVid_self _ 1 _

end Governor

/-! ## The current limit (R584) -/

section Limit

variable (s : State)

theorem currentLimit_runs (die : Fin 2) (n : Fin 16) (hg : s.power.good = true) (ht : s.fb F.PWR_STAT_TRIPPED = false) :
    exec (.currentLimit die n) s =
      .next (((fun v : State => if s.spanningActive ∨ die.val = 1 then v.setCeiling 1 (v.f F.PWR_STAT_VID_E) else v)
        ((fun u : State => if s.spanningActive ∨ die.val = 0 then u.setCeiling 0 (u.f F.PWR_STAT_VID_W) else u)
          ((s.limitSteps (n.val + 1) die.val).count F.SEC_PLINTH_STAT_CURRENT_EVENTS))).setF F.PWR_STAT_LIMITER 4).updateFloor := by
  change execCurrentLimit die n s = _
  simp only [execCurrentLimit, hg, ht, Bool.not_true, Bool.or_false, Bool.false_eq_true, if_false, Bool.or_eq_true, beq_iff_eq]

theorem currentCeilingExpiry_west (die : Fin 2) (hd : die.val = 0) (hs : s.power.ceilW.isSome = true) (he : s.power.ceilWEnd ≤ s.now) :
    exec (.currentCeilingExpiry die) s = .next { s with power := { s.power with ceilW := none } } := by
  change execCurrentCeilingExpiry die s = _
  simp [execCurrentCeilingExpiry, hd, hs, he]

theorem currentCeilingExpiry_east (die : Fin 2) (hd : die.val = 1) (hs : s.power.ceilE.isSome = true) (he : s.power.ceilEEnd ≤ s.now) :
    exec (.currentCeilingExpiry die) s = .next { s with power := { s.power with ceilE := none } } := by
  change execCurrentCeilingExpiry die s = _
  simp [execCurrentCeilingExpiry, hd, hs, he]

/-- The requests of one step of the current limit on the West die, and its count. -/
def steppedWest : State :=
  ((s.setF F.PWR_STAT_VID_W (s.f F.PWR_STAT_VID_W - 20)).emit (.avs 0 (s.f F.PWR_STAT_VID_W - 20))).count F.SEC_PLINTH_STAT_CURRENT_EVENTS

/-- The step with its ceiling, before `BELOW_FLOOR` is looked at. -/
def limitedWest : State := ((steppedWest s).setCeiling 0 (s.f F.PWR_STAT_VID_W - 20)).setF F.PWR_STAT_LIMITER 4

theorem steppedWest_vid : (steppedWest s).f F.PWR_STAT_VID_W = s.f F.PWR_STAT_VID_W - 20 ∧
    (steppedWest s).f F.PWR_STAT_VID_E = s.f F.PWR_STAT_VID_E := by
  have hw : (s.f F.PWR_STAT_VID_W - 20) % 2 ^ F.PWR_STAT_VID_W.width = s.f F.PWR_STAT_VID_W - 20 :=
    Nat.mod_eq_of_lt (lt_of_le_of_lt (Nat.sub_le _ _) (f_lt s _ _ _))
  unfold steppedWest
  simp (disch := decide) only [f_setF_apart, f_setF_self, f_count_ne, f_emit, hw, true_and]

theorem limitedWest_reads : (limitedWest s).f F.PWR_STAT_VID_W = s.f F.PWR_STAT_VID_W - 20 ∧
    (limitedWest s).f F.PWR_STAT_VID_E = s.f F.PWR_STAT_VID_E ∧ (limitedWest s).f F.PWR_STAT_LIMITER = 4 := by
  obtain ⟨hw, he⟩ := steppedWest_vid s
  unfold limitedWest
  simp (disch := decide) only [f_setF_apart, f_setF_self, f_setCeiling, hw, he, true_and]
  decide

theorem limitedWest_sameRegs : SameRegsBut s (limitedWest s) [R.PWR_STAT.at, R.SEC_PLINTH_STAT.at, R.GLB_RATE.at] := by
  have h1 : SameRegsBut s (steppedWest s) [R.PWR_STAT.at, R.SEC_PLINTH_STAT.at, R.GLB_RATE.at] :=
    sameRegs_count (sameRegs_congr (sameRegs_setF (sameRegs_refl s _) F.PWR_STAT_VID_W _ _ _ (by decide)) rfl) _ _ _ _ (by decide)
  exact sameRegs_setF (sameRegs_setCeiling s h1 _ _) _ _ _ _ (by decide)

theorem limitStep_west (h : 720 ≤ s.f F.PWR_STAT_VID_W) :
    s.limitStep 0 = (s.setF F.PWR_STAT_VID_W (s.f F.PWR_STAT_VID_W - 20)).emit (.avs 0 (s.f F.PWR_STAT_VID_W - 20)) := by
  have hm : max 600 (s.f F.PWR_STAT_VID_W - 20) = s.f F.PWR_STAT_VID_W - 20 := by omega
  have hne : s.f F.PWR_STAT_VID_W ≠ s.f F.PWR_STAT_VID_W - 20 := by omega
  simp only [State.limitStep, State.requestVid, if_true, hm, hne, if_false]

/-- One step of the current limit on the West die of a device whose voltages stay above the floor (R584). -/
theorem currentLimit_west (hg : s.power.good = true) (ht : s.fb F.PWR_STAT_TRIPPED = false) (hs : s.spanningActive = false)
    (hw : 720 ≤ s.f F.PWR_STAT_VID_W) (he : 700 ≤ s.f F.PWR_STAT_VID_E) :
    exec (.currentLimit 0 0) s = .next ((limitedWest s).setF F.GLB_RATE_BELOW_FLOOR 0) := by
  obtain ⟨hvw, hve, -⟩ := limitedWest_reads s
  have h1 : (s.limitSteps 1 0).count F.SEC_PLINTH_STAT_CURRENT_EVENTS = steppedWest s := by
    simp only [State.limitSteps, hs, Bool.false_eq_true, if_false, limitStep_west s hw, steppedWest]
  rw [currentLimit_runs s 0 0 hg ht]
  simp only [Fin.val_zero, Nat.zero_add, h1, hs, Bool.false_eq_true, false_or, if_true, Nat.zero_ne_one, if_false, steppedWest_vid]
  exact congrArg Host.Outcome.next (updateFloor_high (limitedWest s) (by omega) (by omega))

end Limit

/-- Settles O2: a period's requests stand in `PWR_STAT` as `govern_vid` says, and the current limit and its ceiling take the effect of R584. -/
theorem governorRequestsTheLowestVoltage : Obligations.GovernorRequestsTheLowestVoltage := by
  unfold Obligations.GovernorRequestsTheLowestVoltage
  refine ⟨fun s g hm ht => ⟨_, governorPeriod_runs s g hm ht, ?_, ?_⟩, fun s g => governorPeriod_runs s g, ?_, ?_, ?_, ?_⟩
  · have h := govern_vid (s.measure g) g
    rw [governed_measure] at h
    exact h
  · have h := ((measure_logs s g).mono (List.subset_append_left _ governOffs)).trans
      ((govern_logs (s.measure g) g).mono (List.subset_append_right _ _))
    have hp := h.power
    rw [hp]
    exact h.rest
  · intro s die v hd hc he
    exact currentCeilingExpiry_west s die hd (by rw [hc]; rfl) he
  · intro s die v hd hc he
    exact currentCeilingExpiry_east s die hd (by rw [hc]; rfl) he
  · rintro s u v w die n hg ht rfl rfl rfl
    exact currentLimit_runs s die n hg ht
  · intro s hg ht hs hw he
    obtain ⟨hvw, hve, hl⟩ := limitedWest_reads s
    have hn : R.GLB_RATE.at ≠ R.PWR_STAT.at := by decide
    exact ⟨_, currentLimit_west s hg ht hs hw he, (f_setF_ne _ _ hn).trans hvw, (f_setF_ne _ _ hn).trans hve, (f_setF_ne _ _ hn).trans hl,
      rfl, sameRegs_setF (limitedWest_sameRegs s) _ _ _ _ (by decide)⟩

end Sys2Proof.Proofs
end

section
/-! The timebase (R28 to R30), its comparators (R39) and the margin monitors (R25): the statement about the timebase. -/

namespace Sys2Proof.Proofs

open Sys2Proof.Machine Sys2Proof.Laws

section Sources

variable (s : State)

/-! ## Sources (R28, R29) -/

theorem firstSource_three (a b c : Bool) : firstSource [a, b, c] = if a then 0 else if b then 1 else if c then 2 else 3 := by
  cases a <;> cases b <;> cases c <;> rfl

/-- The device that a first lock leaves (R28, R29). -/
def lockedOn (ps : List Bool) : State :=
  { s.setF F.GLB_TIME_STATUS_SOURCE (firstSource ps) with
    tb := { s.tb with locked := true, tick := 0, present := ps, presentAt := [0, 0, 0], rateStart := 0 } }

theorem timebaseLock_first (a b c : Bool) (hl : s.tb.locked = false) (hp : (a || b || c) = true) :
    exec (.timebaseLock a b c) s = .next (lockedOn s [a, b, c]) := by
  have h3 : (firstSource [a, b, c] == 3) = false := by
    rw [firstSource_three]
    revert hp
    cases a <;> cases b <;> cases c <;> decide
  change execTimebaseLock a b c s = _
  simp only [execTimebaseLock, hl, h3, Bool.or_false, Bool.false_eq_true, if_false, lockedOn, setF_tb]

theorem lockedOn_source (a b c : Bool) (hp : (a || b || c) = true) :
    (lockedOn s [a, b, c]).f F.GLB_TIME_STATUS_SOURCE = if a then 0 else if b then 1 else 2 := by
  have h : (lockedOn s [a, b, c]).f F.GLB_TIME_STATUS_SOURCE = firstSource [a, b, c] % 2 ^ 2 := f_setF_self s _ _ _ _ (by decide)
  rw [h, firstSource_three]
  revert hp
  cases a <;> cases b <;> cases c <;> decide

/-- A change to another source (R29) is shown, steps nothing, and leaves a free phase to the slew. -/
theorem setSource_change {k : Nat} (hk : s.f F.GLB_TIME_STATUS_SOURCE ≠ k) (h3 : k < 3) :
    (s.setSource k).f F.GLB_TIME_STATUS_SOURCE = k ∧ (s.setSource k).f F.GLB_TIME_STATUS_HOLDOVER = 0 ∧
    (s.setSource k).f F.GLB_TIME_STATUS_SRC_CHANGED = 1 ∧ (s.setSource k).now = s.now ∧
    (s.setSource k).tb.phase = s.tb.phase + signedOf 64 s.free ∧
    s.setSource k = { s with regs := (s.setSource k).regs, tb := (s.setSource k).tb, freeCtr := s.freeCtr + 1 } ∧
    SameRegsBut s (s.setSource k) [R.GLB_TIME_STATUS.at] := by
  have hn : k ≠ 3 := by omega
  have hm : k % 2 ^ F.GLB_TIME_STATUS_SOURCE.width = k := Nat.mod_eq_of_lt (by simp only [F.GLB_TIME_STATUS_SOURCE]; omega)
  have he : s.setSource k = ((s.phaseStep.setF F.GLB_TIME_STATUS_SOURCE k).setF F.GLB_TIME_STATUS_HOLDOVER 0).setF
      F.GLB_TIME_STATUS_SRC_CHANGED 1 := by
    simp only [State.setSource, hk, hn, if_false]
  rw [he]
  refine ⟨?_, ?_, ?_, rfl, rfl, rfl, ?_⟩
  · simp (disch := decide) only [f_setF_apart, f_setF_self, hm]
  · simp (disch := decide) only [f_setF_apart, f_setF_self]
    rfl
  · simp (disch := decide) only [f_setF_self]
    rfl
  · have h0 : SameRegsBut s s.phaseStep [R.GLB_TIME_STATUS.at] := sameRegs_of_regs rfl _
    exact sameRegs_setF (sameRegs_setF (sameRegs_setF h0 _ _ _ _ (by decide)) _ _ _ _ (by decide)) _ _ _ _ (by decide)

/-- A source that appears in holdover is taken. -/
theorem sourcePresent_holdover (k : Fin 3) (hl : s.tb.locked = true) (hs : s.f F.GLB_TIME_STATUS_SOURCE = 3) :
    exec (.sourcePresent k) s = .next ((s.setPresent k.val true).setSource k.val) := by
  have hl' : (s.setPresent k.val true).tb.locked = true := hl
  have hs' : (s.setPresent k.val true).f F.GLB_TIME_STATUS_SOURCE = 3 := hs
  change execSourcePresent k s = _
  simp [execSourcePresent, hl', hs']

theorem sourceRetake_stable (k : Fin 3) (hl : s.tb.locked = true) (hk : k.val < s.f F.GLB_TIME_STATUS_SOURCE)
    (h3 : s.f F.GLB_TIME_STATUS_SOURCE ≠ 3) (hp : nth s.tb.present k.val false = true)
    (ha : nth s.tb.presentAt k.val 0 + 10000000 ≤ s.now) : exec (.sourceRetake k) s = .next (s.setSource k.val) := by
  change execSourceRetake k s = _
  simp [execSourceRetake, State.stable, hl, hk, h3, hp, ha]

/-- The loss of the source in use while another is present. -/
theorem timerefLoss_next (k : Fin 3) (hl : s.tb.locked = true) (hs : s.f F.GLB_TIME_STATUS_SOURCE = k.val)
    (hf : firstSource (s.setPresent k.val false).tb.present < 3) :
    exec (.timerefLoss k) s =
      .next ((s.setPresent k.val false).setSource (firstSource (s.setPresent k.val false).tb.present)) := by
  have hl' : (s.setPresent k.val false).tb.locked = true := hl
  have hs' : (s.setPresent k.val false).f F.GLB_TIME_STATUS_SOURCE = k.val := hs
  have hn : firstSource (s.setPresent k.val false).tb.present ≠ 3 := by omega
  change execTimerefLoss k s = _
  simp only [execTimerefLoss, hl', hs', hn, beq_self_eq_true, Bool.and_self, if_true, if_false]

end Sources

/-! ## The slew (R30) -/

section Slew

variable (s : State)

theorem signedOf_bounds (v : Nat) : -2147483648 ≤ signedOf 32 v ∧ signedOf 32 v < 2147483648 := by
  unfold signedOf
  dsimp only
  split <;> omega

theorem signedOf_encodeSigned {x : Int} (hl : -2147483648 ≤ x) (hh : x < 2147483648) : signedOf 32 (encodeSigned 32 x % 2 ^ 32) = x := by
  unfold signedOf encodeSigned
  dsimp only
  split <;> omega

theorem towardZero_bounds {x : Int} (hl : -2147483648 ≤ x) (hh : x < 2147483648) :
    -2147483648 ≤ towardZero x ∧ towardZero x < 2147483648 := by
  unfold towardZero
  split <;> omega

/-- The state after a slewed tick of a committed offset. -/
theorem slewTick_offset (h0 : s.adjRemain ≠ 0) :
    s.slewTick.adjRemain = towardZero s.adjRemain ∧ s.slewTick = { s with regs := s.slewTick.regs, tb := s.slewTick.tb } ∧
    s.slewTick.tb.tick = (if 0 < s.adjRemain then s.tb.tick + 2 else s.tb.tick) ∧ SameRegsBut s s.slewTick [R.GLB_TIME_STATUS.at] := by
  obtain ⟨hl, hh⟩ := signedOf_bounds (s.f F.GLB_TIME_STATUS_ADJ_REMAIN)
  have hb := towardZero_bounds (x := s.adjRemain) hl hh
  have ht : s.slewTick.tb.tick = if 0 < s.adjRemain then s.tb.tick + 2 else s.tb.tick := by
    simp only [State.slewTick, State.slewLeft, h0, if_false]
  have hr : s.slewTick.regs = (s.setF F.GLB_TIME_STATUS_ADJ_REMAIN (encodeSigned 32 (towardZero s.adjRemain))).regs := by
    simp only [State.slewTick, State.absorbOne, h0, if_false]
  refine ⟨?_, ?_, ht, sameRegs_congr (sameRegs_setF (sameRegs_refl s _) _ _ _ _ (by decide)) hr⟩
  · unfold State.adjRemain
    rw [f_congr hr, f_setF_self _ _ _ _ _ (by decide)]
    exact signedOf_encodeSigned hb.1 hb.2
  · simp only [State.slewTick, State.absorbOne, h0, if_false]
    rfl

theorem tickOnce_slew (h : s.slewDue = true) : s.tickOnce = s.slewTick := by
  have hl : s.tb.locked = true := by
    unfold State.slewDue at h
    simp only [Bool.and_eq_true] at h
    exact h.1.1
  simp only [State.tickOnce, hl, h, Bool.not_true, Bool.false_eq_true, if_false, if_true]

theorem timebaseSlew_due (h : s.slewDue = true) : exec .timebaseSlew s = .next s.passTick := by
  change execTimebaseSlew s = _
  simp only [execTimebaseSlew, h, if_true]

/-- A tick that counts nothing decides nothing (R28). -/
theorem passTick_still (h : s.tickOnce.now = s.now) : s.passTick = s.tickOnce := by
  simp only [State.passTick, h, Nat.sub_self, if_true]

/-- Nothing that ticks count or decide is at work: no cast, core, ring run or serving run. -/
structure Quiet : Prop where
  runs : s.fabric.runs = []
  paused : s.fabric.paused = []
  rings : s.ringRuns = []
  cores : s.cores = []
  serve : s.serve.runs = []

theorem settleTick_quiet (h : Quiet s) : s.settleTick = s := by
  simp [State.settleTick, State.settleStops, State.settleNotices, State.settleTraps, State.settleCommits, h.runs, h.paused, h.rings, h.cores,
    h.serve]

/-- With nothing at work a tick moves the timebase alone. -/
theorem passTick_quiet (h : Quiet s) (ht : Quiet s.tickOnce) : s.passTick = s.tickOnce := by
  simp [State.passTick, settleTick_quiet s h, State.countSteps, State.countWaits, State.pumpRings, ht.runs, ht.rings]

end Slew

/-! ## Rate windows (R36) -/

section Rates

variable (s : State) (w e : BitVec 16)

/-- The device with the rates of a window shown. -/
def measuredRates : State := (s.setF F.GLB_RATE_RATE_WEST w.toNat).setF F.GLB_RATE_RATE_EAST e.toNat

theorem measuredRates_reads : (measuredRates s w e).f F.GLB_RATE_RATE_WEST = w.toNat ∧ (measuredRates s w e).f F.GLB_RATE_RATE_EAST = e.toNat ∧
    (measuredRates s w e).f F.GLB_RATE_BELOW_FLOOR = s.f F.GLB_RATE_BELOW_FLOOR := by
  have hw : w.toNat % 2 ^ F.GLB_RATE_RATE_WEST.width = w.toNat := Nat.mod_eq_of_lt w.isLt
  have he : e.toNat % 2 ^ F.GLB_RATE_RATE_EAST.width = e.toNat := Nat.mod_eq_of_lt e.isLt
  unfold measuredRates
  simp (disch := decide) only [f_setF_apart, f_setF_self, hw, he, and_self]

theorem measuredRates_sameRegs : SameRegsBut s (measuredRates s w e) [R.GLB_RATE.at] :=
  sameRegs_setF (sameRegs_setF (sameRegs_refl s _) F.GLB_RATE_RATE_WEST _ _ _ (by decide)) _ _ _ _ (by decide)

theorem rateWindow_end (hl : s.tb.locked = true) (hd : 1000000 ≤ s.now - s.tb.rateStart.toNat) :
    exec (.rateWindow w e) s = .next { measuredRates s w e with
      tb := { s.tb with rateStart := BitVec.ofNat 64 (s.now - (s.now - s.tb.rateStart.toNat) % 1000000) } } := by
  have hc : (s.tb.locked && decide (1000000 ≤ s.now - s.tb.rateStart.toNat)) = true := by rw [hl, decide_eq_true hd, Bool.and_self]
  exact congrArg Host.Outcome.next (if_pos hc)

end Rates

/-! ## Comparators (R39) -/

section Comparators

variable (s : State)

/-- What a signal leaves in its fence (R54, R55). -/
theorem signal_fence {n f v : Nat} {add err : Bool} (ho : s.ownsFence n f = true) (hm : signalValue (s.fenceValue f) v add ≤ fenceMax) :
    (s.signal n f v add err).fenceValue f = signalValue (s.fenceValue f) v add ∧
    (s.signal n f v add err).fenceErr f = (s.fenceErr f || err) := by
  have hlt : signalValue (s.fenceValue f) v add < 2 ^ 63 := Nat.lt_of_le_of_lt hm (by decide)
  have hw : bitsOf (BitVec.ofNat 64 (signalValue (s.fenceValue f) v add)) 0 63 = signalValue (s.fenceValue f) v add := by
    unfold bitsOf
    rw [BitVec.toNat_ofNat, Nat.shiftRight_zero]
    omega
  unfold State.signal State.fenceErr State.fb
  dsimp only
  rw [if_pos ho]
  change State.f _ F.QE_FENCE_VALUE f = _ ∧ _
  rw [f_setR_self s R.QE_FENCE _ f 0 F.QE_FENCE_VALUE rfl, f_setR_self s R.QE_FENCE _ f 0 F.QE_FENCE_ERR rfl]
  refine ⟨(bitsOf_setBits_apart _ _ (by decide)).trans hw, ?_⟩
  change (bitsOf (setBits _ 63 1 _) 63 1 != 0) = (s.fenceErr f || err)
  rw [bitsOf_setBits_self _ _ (by decide)]
  change ((if (s.fenceErr f || err) = true then 1 else 0) % 2 ^ 1 != 0) = (s.fenceErr f || err)
  cases s.fenceErr f || err <;> rfl

theorem raise_memory (p v : Nat) : (s.raise p v).memory = s.memory := by
  unfold State.raise
  split
  · rfl
  · split
    · exact setPort_memory _ _ _
    · rfl

theorem signal_memory (n f v : Nat) (add err clear : Bool) : (s.signal n f v add err clear).memory = s.memory := by
  unfold State.signal
  split <;> rfl

theorem comparatorFire_due (n : Fin 64) (h : s.comparatorDue n.val = true) :
    exec (.comparatorFire n) s = .next (s.fireComparator n.val) := by
  change execComparatorFire n s = _
  simp only [execComparatorFire, h, if_true]

/-- What an enabled comparator at its target leaves. -/
theorem fireComparator_effect (n : Nat) (hn : n < 64) (ho : s.ownsFence (s.f F.GLB_CMP_CTRL_OWNER_JOB n) (s.f F.GLB_CMP_CTRL_FENCE n) = true)
    (hv : s.fenceValue (s.f F.GLB_CMP_CTRL_FENCE n) < fenceMax) :
    (s.fireComparator n).f F.GLB_CMP_CTRL_EN n = 0 ∧
    (s.fireComparator n).fenceValue (s.f F.GLB_CMP_CTRL_FENCE n) = s.fenceValue (s.f F.GLB_CMP_CTRL_FENCE n) + 1 ∧
    (s.fireComparator n).fenceErr (s.f F.GLB_CMP_CTRL_FENCE n) = s.fenceErr (s.f F.GLB_CMP_CTRL_FENCE n) ∧
    (s.fireComparator n).memory = s.memory := by
  have hsv : signalValue (s.fenceValue (s.f F.GLB_CMP_CTRL_FENCE n)) 1 true = s.fenceValue (s.f F.GLB_CMP_CTRL_FENCE n) + 1 := by
    unfold signalValue
    rw [if_pos rfl]
    omega
  obtain ⟨h1, h2⟩ := signal_fence s (v := 1) (add := true) (err := false) ho (by omega)
  have hc : R.GLB_CMP_CTRL.at n ≠ R.QE_FENCE.at (s.f F.GLB_CMP_CTRL_FENCE n) := by
    simp only [Reg.at, R.GLB_CMP_CTRL, R.QE_FENCE]
    omega
  have hp : ∀ p < 2 ^ 1, R.GLB_PORT_STAT.at p ≠ R.QE_FENCE.at (s.f F.GLB_CMP_CTRL_FENCE n) := by
    intro p hp
    simp only [Reg.at, R.GLB_PORT_STAT, R.QE_FENCE]
    omega
  have hr : (s.fireComparator n).reg (R.QE_FENCE.at (s.f F.GLB_CMP_CTRL_FENCE n)) =
      (s.signal (s.f F.GLB_CMP_CTRL_OWNER_JOB n) (s.f F.GLB_CMP_CTRL_FENCE n) 1 true false).reg
        (R.QE_FENCE.at (s.f F.GLB_CMP_CTRL_FENCE n)) :=
    (setF_reg_ne _ _ _ _ _ hc).trans (raise_reg _ _ _ (hp _ (f_lt _ F.QE_JOB_CTRL_OWNER_PORT _ _)))
  have hf : ∀ x : Field, x.reg = R.QE_FENCE → (s.fireComparator n).f x (s.f F.GLB_CMP_CTRL_FENCE n) =
      (s.signal (s.f F.GLB_CMP_CTRL_OWNER_JOB n) (s.f F.GLB_CMP_CTRL_FENCE n) 1 true false).f x (s.f F.GLB_CMP_CTRL_FENCE n) :=
    fun x hx => congrArg (fun v => bitsOf v x.lo x.width) (by rw [hx]; exact hr)
  refine ⟨f_setF_self _ F.GLB_CMP_CTRL_EN _ _ _ (by decide), ?_, ?_, (raise_memory _ _ _).trans (signal_memory _ _ _ _ _ _ _)⟩
  · exact (hf F.QE_FENCE_VALUE rfl).trans (h1.trans hsv)
  · have he : (s.fireComparator n).fenceErr (s.f F.GLB_CMP_CTRL_FENCE n) = _ :=
      congrArg (fun v => v != 0) (hf F.QE_FENCE_ERR rfl)
    exact he.trans (h2.trans (Bool.or_false _))

end Comparators

/-! ## Margins (R25) -/

section Margins

variable (s : State) (site : BitVec 12) (m : BitVec 8)

/-- The worst margin of a state in which one has been measured. -/
def worsened (m : Nat) : State := if m < s.f F.GLB_MARGIN_WORST then s.setF F.GLB_MARGIN_WORST m else s

theorem marginEvent_runs (h : s.siteExists site.toNat = true) :
    exec (.marginEvent site m) s = .next (if m.toNat < 8 then ((worsened s m.toNat).marginWarn site.toNat m.toNat).marginCrit site.toNat m.toNat
      else if m.toNat < 16 then (worsened s m.toNat).marginWarn site.toNat m.toNat else worsened s m.toNat) := by
  change execMarginEvent site m s = _
  simp only [execMarginEvent, h, Bool.not_true, Bool.false_eq_true, if_false, worsened]
  by_cases h8 : m.toNat < 8
  · have h16 : m.toNat < 16 := by omega
    simp only [h8, h16, if_true]
  · simp only [h8, if_false]

end Margins

/-- Settles O1: the events of the timebase, each by the lemma about it above. -/
theorem timebaseFollowsItsSources : Obligations.TimebaseFollowsItsSources := by
  unfold Obligations.TimebaseFollowsItsSources
  refine ⟨?_, ?_, ?_, ?_, ?_, ?_, ?_, ?_, ?_, ?_, fun s site m => rfl⟩
  · intro s a b c hl hp
    exact ⟨_, timebaseLock_first s a b c hl hp, rfl, rfl, lockedOn_source s a b c hp, rfl,
      sameRegs_congr (sameRegs_setF (sameRegs_refl s _) F.GLB_TIME_STATUS_SOURCE _ _ _ (by decide)) rfl⟩
  · intro s k hl hs
    obtain ⟨h1, h2, h3, h4, h5, h6, h7⟩ := setSource_change (s.setPresent k.val true) (k := k.val)
      (fun e => absurd (hs.symm.trans e) (by omega)) k.isLt
    exact ⟨_, sourcePresent_holdover s k hl hs, h1, h2, h3, h4, h5, h6, h7⟩
  · intro s k hl hk h3 hp ha
    obtain ⟨h1, -, h3', h4, h5, h6, h7⟩ := setSource_change s (k := k.val) (by omega) k.isLt
    exact ⟨_, sourceRetake_stable s k hl hk h3 hp ha, h1, h3', h4, h5, h6, h7⟩
  · intro s k hl hs hf hne
    obtain ⟨h1, h2, h3, h4, h5, h6, h7⟩ := setSource_change (s.setPresent k.val false) (k := firstSource (s.setPresent k.val false).tb.present)
      (fun e => hne (e.symm.trans hs)) hf
    exact ⟨_, timerefLoss_next s k hl hs hf, h1, h2, h3, h4, h5, h6, h7⟩
  · intro s hd hn
    obtain ⟨h1, h2, h3, h4⟩ := slewTick_offset s (by omega)
    rw [if_neg (by omega)] at h3
    have hnow : s.slewTick.now = s.now := congrArg BitVec.toNat h3
    have ht := tickOnce_slew s hd
    refine ⟨_, timebaseSlew_due s hd, ?_⟩
    rw [passTick_still s (by rw [ht, hnow]), ht]
    exact ⟨hnow, h1.trans (if_neg (by omega)), h2, h4⟩
  · intro s hd hn hr hp hg hc hs hlt
    obtain ⟨h1, h2, h3, h4⟩ := slewTick_offset s (by omega)
    rw [if_pos hn] at h3
    have hnow : s.slewTick.now = s.now + 2 := by
      unfold State.now at hlt ⊢
      rw [h3, BitVec.toNat_add]
      exact Nat.mod_eq_of_lt hlt
    have ht := tickOnce_slew s hd
    have hq : Quiet s.slewTick := by
      rw [h2]
      exact ⟨hr, hp, hg, hc, hs⟩
    refine ⟨_, timebaseSlew_due s hd, ?_⟩
    rw [passTick_quiet s ⟨hr, hp, hg, hc, hs⟩ (ht ▸ hq), ht]
    exact ⟨hnow, h1.trans (if_pos hn), h2, h4⟩
  · intro s w e hl hd
    obtain ⟨h1, h2, h3⟩ := measuredRates_reads s w e
    exact ⟨_, rateWindow_end s w e hl hd, h1, h2, h3, rfl, rfl, measuredRates_sameRegs s w e⟩
  · intro s n hd ho hv
    exact ⟨_, comparatorFire_due s n hd, fireComparator_effect s n.val n.isLt ho hv⟩
  · intro s site m hs hm hw
    have h8 : ¬ m.toNat < 8 := by omega
    have hd : worsened s m.toNat = s.setF F.GLB_MARGIN_WORST m.toNat := if_pos hw
    refine ⟨_, marginEvent_runs s site m hs, ?_⟩
    rw [if_neg h8, if_neg (by omega), hd]
    refine ⟨(f_setF_self s _ _ _ _ (by decide)).trans (Nat.mod_eq_of_lt m.isLt), f_setF_apart s _ _ _ rfl (by decide), rfl,
      sameRegs_setF (sameRegs_refl s _) _ _ _ _ (by decide)⟩
  · intro s u site m hs hu
    subst hu
    exact marginEvent_runs s site m hs

end Sys2Proof.Proofs
end

section
/-! Every element of a register is named by its offset (R14, R494): no two registers of the tables share an offset. -/

namespace Sys2Proof.Proofs

open Sys2Proof.Machine Sys2Proof.Laws

/-! ## Registers that share no offset -/

/-- The last offset of a register's elements. -/
def lastOf (x : Reg) : Nat := x.base + x.s1 * (x.n1 - 1) + x.s2 * (x.n2 - 1)

/-- The place in its window of `m` bytes of the last element of a register's inner index. -/
def innerLast (m : Nat) (x : Reg) : Nat := x.base % m + x.s2 * (x.n2 - 1)

/-- The register lies at the same places of every window of `m` bytes. -/
def windowed (m : Nat) (x : Reg) : Bool := x.s1 % m == 0 && decide (innerLast m x < m)

/-- The two registers lie at different places of windows of `m` bytes. -/
def windowApart (m : Nat) (x y : Reg) : Bool :=
  windowed m x && windowed m y && (decide (innerLast m x < y.base % m) || decide (innerLast m y < x.base % m))

/-- All elements of the two registers lie at one place each, and different ones, modulo `m`. -/
def classApart (m : Nat) (x y : Reg) : Bool :=
  x.s1 % m == 0 && x.s2 % m == 0 && y.s1 % m == 0 && y.s2 % m == 0 && x.base % m != y.base % m

/-- A check that two registers share no offset. -/
def apart (x y : Reg) : Bool :=
  decide (lastOf x < y.base) || decide (lastOf y < x.base) || windowApart y.s1 x y || classApart y.s2 x y

section Apart

variable {x y : Reg} {i j k l : Nat}

theorem at_le_lastOf (hi : i < x.n1) (hj : j < x.n2) : x.base ≤ x.at i j ∧ x.at i j ≤ lastOf x := by
  have h1 := Nat.mul_le_mul_left x.s1 (Nat.le_sub_one_of_lt hi)
  have h2 := Nat.mul_le_mul_left x.s2 (Nat.le_sub_one_of_lt hj)
  unfold Reg.at lastOf
  omega

/-- The place of an element in its window. -/
theorem at_mod_window {m : Nat} (h : windowed m x = true) (hj : j < x.n2) :
    x.at i j % m = x.base % m + x.s2 * j ∧ x.base % m + x.s2 * j ≤ innerLast m x := by
  have h2 := Nat.mul_le_mul_left x.s2 (Nat.le_sub_one_of_lt hj)
  simp only [windowed, Bool.and_eq_true, beq_iff_eq, decide_eq_true_eq] at h
  have hle : x.base % m + x.s2 * j ≤ innerLast m x := by
    unfold innerLast
    omega
  refine ⟨?_, hle⟩
  obtain ⟨c, hc⟩ := Nat.dvd_of_mod_eq_zero h.1
  have he : x.at i j = x.base + x.s2 * j + m * (c * i) := by
    unfold Reg.at
    rw [hc, Nat.mul_assoc]
    omega
  rw [he, Nat.add_mul_mod_self_left, Nat.add_mod, Nat.add_mod_mod]
  exact Nat.mod_eq_of_lt (by omega)

/-- The place of an element where both strides are multiples of `m`. -/
theorem at_mod_class {m : Nat} (h1 : x.s1 % m = 0) (h2 : x.s2 % m = 0) : x.at i j % m = x.base % m := by
  simp [Reg.at, Nat.add_mod, Nat.mul_mod, h1, h2]

theorem at_ne_of_apart (h : apart x y = true) (hi : i < x.n1) (hj : j < x.n2) (hk : k < y.n1) (hl : l < y.n2) : x.at i j ≠ y.at k l := by
  intro e
  have hx := at_le_lastOf hi hj
  have hy := at_le_lastOf hk hl
  simp only [apart, Bool.or_eq_true, decide_eq_true_eq] at h
  rcases h with ((h | h) | h) | h
  · omega
  · omega
  · simp only [windowApart, Bool.and_eq_true, Bool.or_eq_true, decide_eq_true_eq] at h
    obtain ⟨⟨wx, wy⟩, hd⟩ := h
    obtain ⟨ex, lx⟩ := at_mod_window (i := i) wx hj
    obtain ⟨ey, ly⟩ := at_mod_window (i := k) wy hl
    rw [e] at ex
    omega
  · simp only [classApart, Bool.and_eq_true, beq_iff_eq, bne_iff_ne] at h
    obtain ⟨⟨⟨⟨h1, h2⟩, h3⟩, h4⟩, hne⟩ := h
    exact hne ((at_mod_class h1 h2).symm.trans ((congrArg (· % y.s2) e).trans (at_mod_class h3 h4)))

/-- The elements of a register lie at different offsets. -/
def spaced (x : Reg) : Bool :=
  (decide (x.n1 ≤ 1) || decide (x.s2 * (x.n2 - 1) < x.s1)) && (decide (x.n2 ≤ 1) || decide (0 < x.s2))

/-- The offset of an element gives its indexes back. -/
theorem index?_of_at (h : spaced x = true) (hi : i < x.n1) (hj : j < x.n2) : x.index? (x.at i j) = some (i, j) := by
  simp only [spaced, Bool.and_eq_true, Bool.or_eq_true, decide_eq_true_eq] at h
  obtain ⟨h1, h2⟩ := h
  have hle := Nat.mul_le_mul_left x.s2 (Nat.le_sub_one_of_lt hj)
  have hd : x.at i j - x.base = x.s1 * i + x.s2 * j := by
    unfold Reg.at
    omega
  have hn : ¬ x.at i j < x.base := by
    unfold Reg.at
    omega
  have hI : (if x.n1 ≤ 1 then 0 else (x.s1 * i + x.s2 * j) / x.s1) = i := by
    split
    · omega
    · have hlt : x.s2 * j < x.s1 := by omega
      rw [Nat.mul_add_div (by omega), Nat.div_eq_of_lt hlt, Nat.add_zero]
  have hJ : (if x.n2 ≤ 1 then 0 else x.s2 * j / x.s2) = j := by
    split
    · omega
    · exact Nat.mul_div_cancel_left j (by omega)
  unfold Reg.index?
  rw [if_neg hn]
  dsimp only
  rw [hd, hI, Nat.add_sub_cancel_left, hJ, if_pos ⟨rfl, hi, hj⟩]

end Apart

theorem regAtIn_of_mem {ts : List RegInfo} (hp : ts.Pairwise fun a b => apart a.reg b.reg = true) (hs : ∀ t ∈ ts, spaced t.reg = true)
    {t : RegInfo} (ht : t ∈ ts) {i j : Nat} (hi : i < t.reg.n1) (hj : j < t.reg.n2) : regAtIn ts (t.reg.at i j) = some (t, i, j) := by
  induction ts with
  | nil => cases ht
  | cons y ys ih =>
    obtain ⟨hy, hys⟩ := List.pairwise_cons.1 hp
    unfold regAtIn
    rcases List.mem_cons.1 ht with rfl | hm
    · rw [index?_of_at (hs t List.mem_cons_self) hi hj]
    · have hnone : y.reg.index? (t.reg.at i j) = none := by
        cases e : y.reg.index? (t.reg.at i j) with
        | none => rfl
        | some p =>
          obtain ⟨hat, h1, h2⟩ := index?_at e
          exact absurd hat (at_ne_of_apart (hy t hm) h1 h2 hi hj)
      rw [hnone]
      exact ih hys (fun t h => hs t (List.mem_cons_of_mem _ h)) hm

theorem regTable_apart : regTable.Pairwise fun a b => apart a.reg b.reg = true := by decide +kernel

theorem regTable_spaced : ∀ t ∈ regTable, spaced t.reg = true := by decide +kernel

/-- Each element of each register of the tables is what its offset names. -/
theorem regAt?_of_at {t : RegInfo} (ht : t ∈ regTable) {i j : Nat} (hi : i < t.reg.n1) (hj : j < t.reg.n2) :
    regAt? (t.reg.at i j) = some (t, i, j) := regAtIn_of_mem regTable_apart regTable_spaced ht hi hj

/-- The offset of an element of a register names the register and the indexes. -/
theorem regAt?_named (x : Reg) {i j : Nat} (hx : x ∈ regTable.map (·.reg)) (hi : i < x.n1) (hj : j < x.n2) :
    ∃ t, t.reg = x ∧ regAt? (x.at i j) = some (t, i, j) := by
  obtain ⟨t, ht, rfl⟩ := List.mem_map.1 hx
  exact ⟨t, rfl, regAt?_of_at ht hi hj⟩

end Sys2Proof.Proofs
end

section
/-! Registers whose writes act, and reads that change what they show: the statements about their owners and their readers. -/

namespace Sys2Proof.Proofs

open Sys2Proof.Machine Sys2Proof.Laws

/-! ## A direct write of a whole register (R495) -/

theorem fieldMask_whole : fieldMask 0 64 = BitVec.allOnes 64 := by decide

theorem mergeMask_whole (old v : W64) : mergeMask old v (fieldMask 0 64) = v := by
  rw [mergeMask, fieldMask_whole, BitVec.and_allOnes, BitVec.not_allOnes, BitVec.and_zero, BitVec.zero_or]

theorem and_fieldMask_whole (v : W64) : v &&& fieldMask 0 64 = v := by rw [fieldMask_whole, BitVec.and_allOnes]

section Writes

variable {s : State} {via : Via} {x : Reg} {i j : Nat}

/-- A direct write of 8 bytes that its writer may make, to a register that takes it. -/
theorem directWrite_taken {u : State} {v : W64} (hx : x ∈ regTable.map (·.reg)) (hi : i < x.n1) (hj : j < x.n2)
    (hs : s.barServes (x.at i j) = true) (hp : s.regPresent (x.at i j) x i = true) (hw : s.mayWrite (.direct via) (x.at i j) x i = true)
    (hu : ∀ t : RegInfo, t.reg = x → s.writeReg (.direct via) t i j (x.at i j) v (fieldMask 0 64) = some u) :
    s.directWrite via (x.at i j) 8 v = u := by
  obtain ⟨t, rfl, hr⟩ := regAt?_named x hx hi hj
  rw [directWrite_whole (regAt?_aligned hr) (regAt?_below hr), State.directReg, if_pos hs, applyWrite_allowed hr hp hw, hu t rfl,
    Option.getD_some]

/-- A register below the windows of units whose presence no unit decides is there. -/
theorem regPresent_plain (off : Nat) (h : off < 0x800000 ∨ 0x1A00000 ≤ off)
    (hx : x ∉ [R.TR_SLOT, R.FAB_BORDER, R.ALT_LINK_CTRL, R.ALT_LINK_STAT, R.ALT_LINK_PEER, R.ALT_LINK_OPT, R.ALT_LINK_ERR, R.ALT_LINK_FEC,
      R.ALT_LASER]) : s.regPresent off x i = true := by
  simp only [List.mem_cons, List.not_mem_nil, or_false, not_or] at hx
  unfold State.regPresent
  rw [if_neg (by omega), if_neg (by omega), if_neg (by omega)]
  simp [hx]

/-- Who may write a register outside the `PWR` block directly from a port. -/
theorem mayWrite_port (p : PortId) {off : Nat} (ho : off < 0x1F80000) :
    s.mayWrite (.direct (.port p)) off x i = (match s.writeRight x i with
      | .any => true
      | .job n => s.jobPort (.port p) n
      | .port k => decide (p = Fin.ofNat 2 k)
      | .nobody => false) := by
  have h : inPwrBlock off = false := by
    unfold inPwrBlock
    rw [decide_eq_false (by omega), Bool.false_and]
  have hv : (Writer.direct (.port p) != .direct .sideband) = true := by simp
  unfold State.mayWrite
  rw [h, hv]
  cases s.writeRight x i with
  | port k =>
    rw [Bool.eq_iff_iff]
    simp
  | _ => simp [State.actsFor]

end Writes

/-! ## Windows and the aperture (R496, R499) -/

section Ports

variable (s : State) (p : PortId) (v : W64)

theorem at_hwinSize_lt (w : Fin 16) : R.GLB_HWIN_SIZE.at p.val w.val < 0x1000 := by
  simp only [Reg.at, R.GLB_HWIN_SIZE]
  omega

theorem glbHwinWrite_size (w : Fin 16) (hs : s.barServes (R.GLB_HWIN_SIZE.at p.val w.val) = true) :
    exec (.glbHwinWrite (.port p) p w true v) s = .next (s.hwin p.val w.val true v) := by
  have hl := at_hwinSize_lt p w
  have hr : s.writeRight R.GLB_HWIN_SIZE p.val = .port p.val := rfl
  have hw : s.mayWrite (.direct (.port p)) (R.GLB_HWIN_SIZE.at p.val w.val) R.GLB_HWIN_SIZE p.val = true := by
    rw [mayWrite_port p (by omega), hr]
    simp
  refine congrArg Host.Outcome.next (directWrite_taken (x := R.GLB_HWIN_SIZE) (by decide) p.isLt w.isLt hs
    (regPresent_plain _ (by omega) (by decide)) hw fun t ht => ?_)
  unfold State.writeReg
  rw [ht, mergeMask_whole]
  rfl

/-- An accepted window of a port holds the new fields. -/
theorem hwin_size (w : Nat) (hb : hwinBad (s.r R.GLB_HWIN_BASE p.val w) v = false) :
    s.hwin p.val w true v =
      (s.setF F.GLB_HWIN_SIZE_VALID (bitsOf v 0 1) p.val w).setF F.GLB_HWIN_SIZE_PAGES (bitsOf v 12 40) p.val w := by
  simp [State.hwin, hb]

theorem glbApertureWrite_port (hs : s.barServes (R.GLB_APERTURE.at p.val) = true) :
    exec (.glbApertureWrite (.port p) p v) s = .next (s.aperture p.val v) := by
  have hl : R.GLB_APERTURE.at p.val < 0x1000 := by
    simp only [Reg.at, R.GLB_APERTURE]
    omega
  have hr : s.writeRight R.GLB_APERTURE p.val = .port p.val := rfl
  have hw : s.mayWrite (.direct (.port p)) (R.GLB_APERTURE.at p.val) R.GLB_APERTURE p.val = true := by
    rw [mayWrite_port p (by omega), hr]
    simp
  refine congrArg Host.Outcome.next (directWrite_taken (x := R.GLB_APERTURE) (j := 0) (by decide) p.isLt (by decide) hs
    (regPresent_plain _ (by omega) (by decide)) hw fun t ht => ?_)
  unfold State.writeReg
  rw [ht, mergeMask_whole]
  rfl

theorem aperture_owned (hj : s.jobValid (bitsOf v 1 8) = true) (ho : s.f F.QE_JOB_CTRL_OWNER_PORT (bitsOf v 1 8) = p.val) :
    s.aperture p.val v = ((s.setF F.GLB_APERTURE_VALID (bitsOf v 0 1) p.val).setF F.GLB_APERTURE_JOB (bitsOf v 1 8) p.val).setF
      F.GLB_APERTURE_BASE (bitsOf v 30 21) p.val := by
  simp [State.aperture, hj, ho]

end Ports

/-! ## Completion rings (R76, R78) -/

section Queues

variable (s : State) (p : PortId) (q : QId) (v : W64)

theorem at_cq_lt : R.QE_Q_CQ.at q.val < 0x800000 ∧ R.QE_Q_CQ_HEAD.at q.val < 0x800000 := by
  simp only [Reg.at, R.QE_Q_CQ, R.QE_Q_CQ_HEAD]
  omega

theorem qeQCqWrite_idle (hs : s.barServes (R.QE_Q_CQ.at q.val) = true) (hb : s.bound q.val = true) (hp : s.f F.QE_Q_CTRL_PORT q.val = p.val)
    (hf : (s.queue q.val).flights = []) (ha : v.toNat % (32 * s.cqSize q.val) = 0) :
    exec (.qeQCqWrite (.port p) q v) s = .next (s.setR R.QE_Q_CQ v q.val) := by
  obtain ⟨hl, -⟩ := at_cq_lt q
  have hr : s.writeRight R.QE_Q_CQ q.val = .any := rfl
  have hw : s.mayWrite (.direct (.port p)) (R.QE_Q_CQ.at q.val) R.QE_Q_CQ q.val = true := by
    rw [mayWrite_port p (by omega), hr]
  have htk : s.cqTakes (.direct (.port p)) q.val v = true := by simp [State.cqTakes, viaPort, hb, hf, ha, hp]
  refine congrArg Host.Outcome.next (directWrite_taken (x := R.QE_Q_CQ) (j := 0) (by decide) q.isLt (by decide) hs
    (regPresent_plain _ (by omega) (by decide)) hw fun t ht => ?_)
  unfold State.writeReg
  rw [ht, mergeMask_whole, if_pos rfl, if_pos htk]

theorem qeQCqHeadWrite_owner (hs : s.barServes (R.QE_Q_CQ_HEAD.at q.val) = true) (hb : s.bound q.val = true)
    (hj : s.jobPort (.port p) (s.queueJob q.val) = true) :
    exec (.qeQCqHeadWrite (.port p) q v) s = .next (s.cqHead q.val (bitsOf v 0 16)) := by
  obtain ⟨-, hl⟩ := at_cq_lt q
  have hr : s.writeRight R.QE_Q_CQ_HEAD q.val = if s.bound q.val then .job (s.queueJob q.val) else .any := rfl
  have hw : s.mayWrite (.direct (.port p)) (R.QE_Q_CQ_HEAD.at q.val) R.QE_Q_CQ_HEAD q.val = true := by
    rw [mayWrite_port p (by omega), hr, if_pos hb]
    exact hj
  refine congrArg Host.Outcome.next (directWrite_taken (x := R.QE_Q_CQ_HEAD) (j := 0) (by decide) q.isLt (by decide) hs
    (regPresent_plain _ (by omega) (by decide)) hw fun t ht => ?_)
  unfold State.writeReg
  rw [ht, mergeMask_whole]
  rfl

/-- A head that passes only completions that have been written frees them. -/
theorem cqHead_accepted (h : (bitsOf v 0 16 + 2 ^ 16 - s.f F.QE_Q_CQ_HEAD_CQ_HEAD q.val) % s.cqSize q.val ≤ (s.queue q.val).cqUsed) :
    s.cqHead q.val (bitsOf v 0 16) = (s.setF F.QE_Q_CQ_HEAD_CQ_HEAD (bitsOf v 0 16) q.val).setQueue q.val { s.queue q.val with
      cqUsed := (s.queue q.val).cqUsed - (bitsOf v 0 16 + 2 ^ 16 - s.f F.QE_Q_CQ_HEAD_CQ_HEAD q.val) % s.cqSize q.val } := by
  have hm : bitsOf v 0 16 % 2 ^ 16 = bitsOf v 0 16 := Nat.mod_eq_of_lt (bitsOf_lt _ _ _)
  simp only [State.cqHead, hm, if_pos h]

end Queues

/-! ## Comparators and the registers of jobs (R39, R250, R300, R385, R405, R419) -/

section Jobs

variable (s : State) (p : PortId) (v : W64)

theorem glbCmpCtrlWrite_owner (via : Via) (n : Fin 64)
    (ho : viaPort via = some (s.f F.QE_JOB_CTRL_OWNER_PORT (s.f F.GLB_CMP_CTRL_OWNER_JOB n.val)))
    (hj : s.jobValid (s.f F.GLB_CMP_CTRL_OWNER_JOB n.val) = true) (hv : s.fb F.GLB_CMP_CTRL_OWNED n.val = true) :
    exec (.glbCmpCtrlWrite via n v) s = .next (s.writeComparator n.val v) := by
  change execGlbCmpCtrlWrite via n v s = _
  simp [execGlbCmpCtrlWrite, ho, hj, hv]

/-- A write of another field of its control register does not change whose fences a comparator may name. -/
theorem comparatorFence_setF {n : Nat} (_hn : n < 64) {x : Field} (hr : x.reg = R.GLB_CMP_CTRL)
    (h : x.lo + x.width ≤ F.GLB_CMP_CTRL_OWNER_JOB.lo ∨ F.GLB_CMP_CTRL_OWNER_JOB.lo + F.GLB_CMP_CTRL_OWNER_JOB.width ≤ x.lo) (k : Nat) :
    (s.setF x k n).comparatorFence n v = s.comparatorFence n v := by
  have ho : (s.setF x k n).f F.GLB_CMP_CTRL_OWNER_JOB n = s.f F.GLB_CMP_CTRL_OWNER_JOB n := f_setF_apart s _ _ _ hr.symm h
  have hne : x.reg.at n ≠ R.QE_JOB_FENCE.at (s.f F.GLB_CMP_CTRL_OWNER_JOB n) := by
    rw [hr]
    simp only [Reg.at, R.GLB_CMP_CTRL, R.QE_JOB_FENCE]
    omega
  unfold State.comparatorFence State.ownsFence
  rw [ho, f_setF_ne (y := F.QE_JOB_FENCE_BASE) s _ hne, f_setF_ne (y := F.QE_JOB_FENCE_COUNT) s _ hne]

/-- A control value that leaves the comparator off, with a fence of its job. -/
theorem writeComparator_off {n : Nat} (hn : n < 64) (he : bitOf v 0 = false) (hf : s.comparatorFence n v = true) :
    s.writeComparator n v = ((s.setF F.GLB_CMP_CTRL_EN (bitsOf v 0 1) n).setF F.GLB_CMP_CTRL_VECTOR (bitsOf v 17 11) n).setF
      F.GLB_CMP_CTRL_FENCE (bitsOf v 28 16) n := by
  have hf2 : ((s.setF F.GLB_CMP_CTRL_EN (bitsOf v 0 1) n).setF F.GLB_CMP_CTRL_VECTOR (bitsOf v 17 11) n).comparatorFence n v = true := by
    rw [comparatorFence_setF _ v hn rfl (by decide), comparatorFence_setF s v hn rfl (by decide), hf]
  simp only [State.writeComparator, hf2, if_true, he, Bool.false_and, Bool.false_eq_true, if_false]

theorem fltNanInfoWrite_owner (n : JobId) (hs : s.barServes (R.FLT_NAN_INFO.at n.val) = true) (hj : s.jobPort (.port p) n.val = true)
    (hv : bitOf v 0 = true) : exec (.fltNanInfoWrite (.port p) n v) s = .next (s.clearNan n.val) := by
  have hl : 0x1A00000 ≤ R.FLT_NAN_INFO.at n.val ∧ R.FLT_NAN_INFO.at n.val < 0x1F80000 := by
    simp only [Reg.at, R.FLT_NAN_INFO]
    omega
  have hr : s.writeRight R.FLT_NAN_INFO n.val = .job n.val := rfl
  have hw : s.mayWrite (.direct (.port p)) (R.FLT_NAN_INFO.at n.val) R.FLT_NAN_INFO n.val = true := by
    rw [mayWrite_port p hl.2, hr]
    exact hj
  refine congrArg Host.Outcome.next (directWrite_taken (x := R.FLT_NAN_INFO) (j := 0) (by decide) n.isLt (by decide) hs
    (regPresent_plain _ (.inr hl.1) (by decide)) hw fun t ht => ?_)
  have hput : bitOf (v &&& fieldMask 0 64) 0 = true := by rw [and_fieldMask_whole, hv]
  unfold State.writeReg
  rw [ht]
  exact congrArg some (if_pos hput)

theorem srvOutHeadWrite_owner (via : Via) (o : QId) (hv : s.fb F.SRV_OUT_CTRL_VALID o.val = true)
    (hj : s.jobPort via (s.f F.SRV_OUT_CTRL_OWNER_JOB o.val) = true) :
    exec (.srvOutHeadWrite via o v) s = .next (s.outHead o.val v.toNat) := by
  change execSrvOutHeadWrite via o v s = _
  simp [execSrvOutHeadWrite, hv, hj]

/-- A head that passes only records that have been written frees them. -/
theorem outHead_accepted (o n : Nat)
    (h : (n % 2 ^ 20 + 2 ^ 20 - s.f F.SRV_OUT_HEAD_HEAD o) % 2 ^ s.f F.SRV_OUT_CTRL_LOG2 o ≤ (s.outRing o).used) :
    s.outHead o n = (s.setF F.SRV_OUT_HEAD_HEAD n o).setOutRing o { s.outRing o with
      used := (s.outRing o).used - (n % 2 ^ 20 + 2 ^ 20 - s.f F.SRV_OUT_HEAD_HEAD o) % 2 ^ s.f F.SRV_OUT_CTRL_LOG2 o } := by
  simp only [State.outHead, if_pos h]

theorem srvKvPush_owner (via : Via) (n : JobId) (hr : s.running = true) (hj : s.jobPort via n.val = true) :
    exec (.srvKvPush via n v) s = .next (s.kvWrite n.val v) := by
  change execSrvKvPush via n v s = _
  simp [execSrvKvPush, hr, hj]

theorem kvListDrain_owner (via : Via) (n : JobId) (hr : s.running = true) (hj : s.jobPort via n.val = true) :
    exec (.kvListDrain via n v) s = .next (s.kvWrite n.val (setBits v 63 1 1)) := by
  change execKvListDrain via n v s = _
  simp [execKvListDrain, hr, hj]

/-- A write with `DRAIN` set drains the class that it names. -/
theorem kvWrite_drain (n : Nat) : s.kvWrite n (setBits v 63 1 1) = s.kvDrain n (bitsOf v 0 5) := by
  have h1 : bitOf (setBits v 63 1 1) 63 = true := by
    unfold bitOf
    rw [← BitVec.getLsbD, setBits_getLsbD]
    rfl
  have h2 : bitsOf (setBits v 63 1 1) 0 5 = bitsOf v 0 5 := bitsOf_setBits_apart v 1 (by decide)
  simp only [State.kvWrite, h1, h2, if_true]

theorem stop_owner (via : Via) (m : BindId) (h : s.bindPort via m.val = true) : exec (.stop via m) s = .next (s.stopServe m.val) := by
  change execStop via m s = _
  simp only [execStop, h, if_true]

theorem promote_owner (via : Via) (m : BindId) (h : s.bindPort via m.val = true) :
    exec (.promote via m) s = .next (s.promoteBinding m.val) := by
  change execPromote via m s = _
  simp only [execPromote, h, if_true]

theorem promoteNow_pendant (via : Via) (hv : via ≠ .sideband) (h : s.isPendant = true) :
    exec (.promoteNow via) s = .next (s.beginPromotion 5 0) := by
  change execPromoteNow via s = _
  cases via with
  | sideband => exact absurd rfl hv
  | _ => simp only [execPromoteNow, h, if_true]

end Jobs

/-! ## Links (R431, R450) -/

section Links

variable (s : State) (l : LinkId)

theorem recal_firmware (h : s.part.hasLink l.val = true) : exec (.recal .firmware l) s = .next (s.startRecal l.val) := by
  change execRecal .firmware l s = _
  simp [execRecal, h]

theorem fullSearch_firmware (h : s.part.hasLink l.val = true) :
    exec (.fullSearch .firmware l) s = .next (s.setLink l.val { s.link l.val with forceSearch := true }) := by
  change execFullSearch .firmware l s = _
  simp [execFullSearch, h]

theorem recal_port (p : PortId) : exec (.recal (.port p) l) s = .next s ∧ exec (.fullSearch (.port p) l) s = .next s := by
  constructor
  · change execRecal (.port p) l s = _
    simp [execRecal]
  · change execFullSearch (.port p) l s = _
    simp [execFullSearch]

end Links

/-- A value of 0 in a field of one bit reads 0. -/
theorem bitsOf_bit {v : W64} (h : bitOf v 0 = false) : bitsOf v 0 1 = 0 := by
  have hd : v.toNat % 2 ≠ 1 := of_decide_eq_false ((Nat.testBit_zero _).symm.trans h)
  unfold bitsOf
  rw [Nat.shiftRight_zero, pow_one]
  omega

/-- Settles O10: each clause by the lemma about its register above. -/
theorem registersActForTheirOwners : Obligations.RegistersActForTheirOwners := by
  unfold Obligations.RegistersActForTheirOwners
  refine ⟨?_, ?_, ?_, ?_, ?_, ?_, ?_, ?_, ?_, ?_, ?_, ?_, ?_, ?_, ?_, fun s p l => recal_port s l p⟩
  · intro s p w v hs hb
    have hm : R.GLB_HWIN_SIZE.at p.val w.val ∈ [R.GLB_HWIN_SIZE.at p.val w.val] := List.mem_cons_self
    refine ⟨_, glbHwinWrite_size s p v w hs, ?_⟩
    rw [hwin_size s p v w.val hb]
    refine ⟨?_, ?_, rfl, sameRegs_setF (sameRegs_setF (sameRegs_refl s _) _ _ _ _ hm) _ _ _ _ hm⟩
    · simp (disch := decide) only [f_setF_apart, f_setF_self]
      exact Nat.mod_eq_of_lt (bitsOf_lt _ _ _)
    · simp (disch := decide) only [f_setF_self]
      exact Nat.mod_eq_of_lt (bitsOf_lt _ _ _)
  · intro s p v hs hj ho
    have hm : R.GLB_APERTURE.at p.val ∈ [R.GLB_APERTURE.at p.val] := List.mem_cons_self
    refine ⟨_, glbApertureWrite_port s p v hs, ?_⟩
    rw [aperture_owned s p v hj ho]
    refine ⟨?_, ?_, ?_, rfl, sameRegs_setF (sameRegs_setF (sameRegs_setF (sameRegs_refl s _) _ _ _ _ hm) _ _ _ _ hm) _ _ _ _ hm⟩
    all_goals
      simp (disch := decide) only [f_setF_apart, f_setF_self]
      exact Nat.mod_eq_of_lt (bitsOf_lt _ _ _)
  · intro s p n v ho hj hv he hf
    have hm : R.GLB_CMP_CTRL.at n.val ∈ [R.GLB_CMP_CTRL.at n.val] := List.mem_cons_self
    refine ⟨_, glbCmpCtrlWrite_owner s v _ n (congrArg some ho.symm) hj hv, ?_⟩
    rw [writeComparator_off s v n.isLt he hf]
    refine ⟨?_, ?_, ?_, rfl, sameRegs_setF (sameRegs_setF (sameRegs_setF (sameRegs_refl s _) _ _ _ _ hm) _ _ _ _ hm) _ _ _ _ hm⟩
    · simp (disch := decide) only [f_setF_apart, f_setF_self, bitsOf_bit he, Nat.zero_mod]
    all_goals
      simp (disch := decide) only [f_setF_apart, f_setF_self]
      exact Nat.mod_eq_of_lt (bitsOf_lt _ _ _)
  · intro s p q v hs hb hp hf ha
    exact qeQCqWrite_idle s p q v hs hb hp hf ha
  · intro s p q v hs hb hj hn
    refine ⟨_, qeQCqHeadWrite_owner s p q v hs hb hj, ?_⟩
    rw [cqHead_accepted s q v hn]
    refine ⟨(f_setF_self s _ _ _ _ (by decide)).trans (Nat.mod_eq_of_lt (bitsOf_lt _ _ _)), ?_, rfl, ?_⟩
    · exact congrArg QState.cqUsed (mgetD_mset_self _ _ _ _)
    · exact sameRegs_congr (sameRegs_setF (sameRegs_refl s _) F.QE_Q_CQ_HEAD_CQ_HEAD _ _ _ List.mem_cons_self) rfl
  · intro s p o v hv hj hn
    refine ⟨_, srvOutHeadWrite_owner s v _ o hv hj, ?_⟩
    rw [outHead_accepted s o.val v.toNat hn]
    refine ⟨f_setF_self s _ _ _ _ (by decide), ?_, rfl, ?_⟩
    · exact congrArg OutRing.used (mgetD_mset_self _ _ _ _)
    · exact sameRegs_congr (sameRegs_setF (sameRegs_refl s _) F.SRV_OUT_HEAD_HEAD _ _ _ List.mem_cons_self) rfl
  · intro s p n v hs hj hv
    have hm : R.FLT_NAN_INFO.at n.val ∈ [R.FLT_NAN_INFO.at n.val] := List.mem_cons_self
    refine ⟨_, fltNanInfoWrite_owner s p v n hs hj hv, ?_⟩
    unfold State.clearNan
    refine ⟨?_, ?_, ?_, rfl, sameRegs_setF (sameRegs_setF (sameRegs_setF (sameRegs_refl s _) _ _ _ _ hm) _ _ _ _ hm) _ _ _ _ hm⟩
    all_goals simp (disch := decide) only [f_setF_apart, f_setF_self, Nat.zero_mod]
  · intro s p n v hr hj hv
    rw [srvKvPush_owner s v _ n hr hj]
    simp only [State.kvWrite, hv, Bool.false_eq_true, if_false]
  · intro s p n v hr hj
    rw [kvListDrain_owner s v _ n hr hj, kvWrite_drain]
  · intro s p m x hb hx hi
    rw [stop_owner s _ m hb]
    simp only [State.stopServe, hx, List.isEmpty_iff, hi, if_false]
  · intro s p m hb
    exact promote_owner s _ m hb
  · intro s p hp hn hd
    rw [promoteNow_pendant s (.port p) (by simp) hp]
    simp only [State.beginPromotion, hn, hd, Bool.or_self, Bool.false_eq_true, if_false]
  · intro s l hl h6 ho
    rw [recal_firmware s l hl]
    simp only [State.startRecal, h6, ne_eq, not_true_eq_false, if_false, ho, Bool.false_eq_true]
  · intro s l hl h6 ho
    rw [recal_firmware s l hl]
    simp only [State.startRecal, h6, ne_eq, not_true_eq_false, if_false, ho, if_true]
  · intro s l hl
    exact fullSearch_firmware s l hl

end Sys2Proof.Proofs
end

section
/-! Reads that change what they show (R31, R37, R165, R377, R454, R523): the statement about what a read returns and clears. -/

namespace Sys2Proof.Proofs

open Sys2Proof.Machine Sys2Proof.Laws

/-! ## The value and the effect of a read (R16, R494) -/

section Reads

variable {s : State} {x : Reg} {i j : Nat}

/-- A read of a register that shows other state returns what it shows. -/
theorem readReg_view {v : W64} (hx : x ∈ regTable.map (·.reg)) (hi : i < x.n1) (hj : j < x.n2)
    (ho : x.at i j < 0x800000 ∨ 0x1800000 ≤ x.at i j) (hs : s.barServes (x.at i j) = true) (hp : s.regPresent (x.at i j) x i = true)
    (hv : s.otherView x i = some v) : s.readReg (x.at i j) = v := by
  obtain ⟨t, rfl, hr⟩ := regAt?_named x hx hi hj
  have hn : ¬ (0x800000 ≤ t.reg.at i j ∧ t.reg.at i j < 0x1800000) := by omega
  simp only [State.readReg, hr, hs, hp, Bool.not_true, Bool.or_false, Bool.false_eq_true, if_false, hn, hv]

/-- A read of a register that shows no other state and has no `WO` field returns its value. -/
theorem readReg_stored (hx : x ∈ regTable.map (·.reg)) (hi : i < x.n1) (hj : j < x.n2)
    (ho : x.at i j < 0x800000 ∨ 0x1800000 ≤ x.at i j) (hs : s.barServes (x.at i j) = true) (hp : s.regPresent (x.at i j) x i = true)
    (hv : s.otherView x i = none) (hw : ∀ t ∈ regTable, t.reg = x → maskOf (· == .wo) t.fields = 0) :
    s.readReg (x.at i j) = s.r x i j := by
  obtain ⟨t, ht, rfl⟩ := List.mem_map.1 hx
  have hr := regAt?_of_at ht hi hj
  have hn : ¬ (0x800000 ≤ t.reg.at i j ∧ t.reg.at i j < 0x1800000) := by omega
  have hm : s.reg (t.reg.at i j) &&& ~~~ (0 : W64) = s.r t.reg i j := BitVec.and_allOnes
  simp only [State.readReg, hr, hs, hp, Bool.not_true, Bool.or_false, Bool.false_eq_true, if_false, hn, hv, hw t ht rfl, hm]

/-- What a read of a register that is served and present changes. -/
def clearedBy (s : State) (port : Bool) (x : Reg) (i : Nat) : State :=
  if x = R.GLB_MARGIN then s.setF F.GLB_MARGIN_WORST 0xFF
  else if x = R.FAB_SADDLE_STAT then s.setF F.FAB_SADDLE_STAT_MAX_LEAD 0
  else if x = R.ALT_LINK_FEC then s.setF F.ALT_LINK_FEC_PEAK_SYM 0 i
  else if x = R.WSU_SORT_STAT then s.setF F.WSU_SORT_STAT_MAX_WAIT 0
  else if port ∧ (x = R.FLT_LOG_A ∨ x = R.FLT_LOG_B ∨ x = R.FLT_LOG_C ∨ x = R.FLT_LOG_D) then
    { s with faults := { s.faults with readMarks := sinsert s.faults.readMarks i } }
  else s

theorem readEffect_named (hx : x ∈ regTable.map (·.reg)) (hi : i < x.n1) (hj : j < x.n2) (hs : s.barServes (x.at i j) = true)
    (hp : s.regPresent (x.at i j) x i = true) (port : Bool) : s.readEffect port (x.at i j) = clearedBy s port x i := by
  obtain ⟨t, rfl, hr⟩ := regAt?_named x hx hi hj
  simp only [State.readEffect, hr, hs, hp, Bool.not_true, Bool.or_false, Bool.false_eq_true, if_false, clearedBy]

/-- A direct read of a register that is served and present and shows no other state. -/
theorem directRead_named (hx : x ∈ regTable.map (·.reg)) (hi : i < x.n1) (hj : j < x.n2)
    (ho : x.at i j < 0x800000 ∨ 0x1800000 ≤ x.at i j) (hs : s.barServes (x.at i j) = true) (hp : s.regPresent (x.at i j) x i = true)
    (hv : s.otherView x i = none) (hw : ∀ t ∈ regTable, t.reg = x → maskOf (· == .wo) t.fields = 0) (via : Via) :
    s.directRead via (x.at i j) =
      (clearedBy s (viaPort via).isSome x i).emit (.readData via false (leBytes 8 (s.r x i j).toNat)) := by
  rw [State.directRead, readEffect_named hx hi hj hs hp, readReg_stored hx hi hj ho hs hp hv hw]

end Reads

/-- The registers whose reads change what they show, and the sizes of host-granted windows, have no `WO` field. -/
theorem readable_noWo : ∀ x ∈ [R.GLB_MARGIN, R.FAB_SADDLE_STAT, R.ALT_LINK_FEC, R.FLT_LOG_A, R.FLT_LOG_B, R.FLT_LOG_C, R.FLT_LOG_D,
    R.GLB_HWIN_SIZE], ∀ t ∈ regTable, t.reg = x → maskOf (· == .wo) t.fields = 0 := by decide +kernel

/-! ## `GLB_TIME` (R31) -/

/-- Four bytes of a number are those of its low half. -/
theorem leBytes_low (v : Nat) : leBytes 4 (v % 2 ^ 32) = leBytes 4 v := by
  simp only [leBytes, List.cons.injEq, and_true]
  refine ⟨?_, ?_, ?_, ?_⟩ <;> apply BitVec.eq_of_toNat_eq <;> simp only [BitVec.toNat_ofNat] <;> omega

theorem shadow_setShadow (t : Timebase) (p : PortId) (v : BitVec 32) : (t.setShadow (.port p) v).shadow (.port p) = v := by
  unfold Timebase.setShadow Timebase.shadow
  dsimp only
  split <;> rfl

theorem read32_low (s : State) (via : Via) (h : s.barServes R.GLB_TIME.at = true) : s.read32 via R.GLB_TIME.at = BitVec.ofNat 32 s.now := by
  have hr : s.readReg R.GLB_TIME.at = s.tb.tick :=
    readReg_view (x := R.GLB_TIME) (by decide) (by decide) (by decide) (by decide) h (regPresent_plain _ (by decide) (by decide)) rfl
  have hn : ¬ (R.GLB_TIME.at = R.GLB_TIME.at + 4 ∧ s.barServes R.GLB_TIME.at = true) := fun e => absurd e.1 (by omega)
  have h0 : R.GLB_TIME.at / 8 * 8 = R.GLB_TIME.at ∧ R.GLB_TIME.at % 8 = 0 := by decide
  rw [State.read32, if_neg hn, h0.1, h0.2, hr]
  simp [State.now]

theorem glbTimeLowRead_served (s : State) (via : Via) (h : s.barServes R.GLB_TIME.at = true) :
    exec (.glbTimeLowRead via) s = .next (({ s with tb := s.tb.setShadow via (BitVec.ofNat 32 (s.now / 2 ^ 32)) } : State).emit
      (.readData via false (leBytes 4 s.now))) := by
  change execGlbTimeLowRead via s = _
  simp only [execGlbTimeLowRead, h, if_true, read32_low s via h, BitVec.toNat_ofNat, leBytes_low]
  rfl

/-- Settles O11: each read by `directRead_named`, and `GLB_TIME` by its own lemmas. -/
theorem readsReturnAndClear : Obligations.ReadsReturnAndClear := by
  unfold Obligations.ReadsReturnAndClear
  refine ⟨?_, ?_, ?_, ?_, ?_, ?_, ?_⟩
  · intro s p h
    exact ⟨glbTimeLowRead_served s _ h, (if_pos ⟨rfl, h⟩).trans (shadow_setShadow _ _ _)⟩
  · intro s via h
    exact congrArg Host.Outcome.next (directRead_named (x := R.GLB_MARGIN) (by decide) (by decide) (by decide) (by decide) h
      (regPresent_plain _ (by decide) (by decide)) rfl
      (readable_noWo _ (by simp)) via)
  · intro s via h
    exact congrArg Host.Outcome.next (directRead_named (x := R.FAB_SADDLE_STAT) (by decide) (by decide) (by decide) (by decide) h
      (regPresent_plain _ (by decide) (by decide)) rfl
      (readable_noWo _ (by simp)) via)
  · intro s via l h hl
    have ho : 0x1C00000 ≤ R.ALT_LINK_FEC.at l.val := by
      simp only [Reg.at, R.ALT_LINK_FEC]
      omega
    have hp : s.regPresent (R.ALT_LINK_FEC.at l.val) R.ALT_LINK_FEC l.val = true := by
      unfold State.regPresent
      rw [if_neg (by omega), if_neg (by omega), if_neg (by omega)]
      exact hl
    exact congrArg Host.Outcome.next (directRead_named (x := R.ALT_LINK_FEC) (j := 0) (by decide) l.isLt (by decide) (.inr (by omega)) h hp
      rfl (readable_noWo _ (by simp)) via)
  · intro s via h
    change execWsuSortStatRead via s = _
    simp only [execWsuSortStatRead, h, if_true]
  · intro s p e h
    have ho : 0x1E00000 ≤ R.FLT_LOG_A.at e.val := by
      simp only [Reg.at, R.FLT_LOG_A]
      omega
    exact congrArg Host.Outcome.next (directRead_named (x := R.FLT_LOG_A) (j := 0) (by decide) e.isLt (by decide) (.inr (by omega)) h
      (regPresent_plain _ (.inr (by omega)) (by decide)) rfl
      (readable_noWo _ (by simp)) (.port p))
  · intro s r p w h
    have ho := at_hwinSize_lt p w
    exact congrArg Host.Outcome.next (directRead_named (x := R.GLB_HWIN_SIZE) (by decide) p.isLt w.isLt (.inl (by omega)) h
      (regPresent_plain _ (.inl (by omega)) (by decide)) rfl
      (readable_noWo _ (by simp)) (.port r))

end Sys2Proof.Proofs
end

/-! ## The promotions of a job are counted in 24 bits (R126) -/

section
namespace Sys2Proof.Proofs

open Sys2Proof.Machine Sys2Proof.Laws

/-- The device out of reset in which job 0 has promoted 2^24 - 1 pages, as many as `TR_MIG_STAT.PROMOTED` can show, and the copy of one
more page into the Basin is under way. -/
def promotionsFull : State :=
  { State.reset.setF F.TR_MIG_STAT_PROMOTED (2 ^ 24 - 1) with
    frames := { State.reset.frames with
      mig := [{ job := 0, va := 0, home := 0, frame := none, heat := 0, dirty := false, copying := 1, copyFrame := 0 }] } }

theorem promotionsFull_promoted : promotionsFull.f F.TR_MIG_STAT_PROMOTED = 2 ^ 24 - 1 :=
  (f_congr rfl _ _ _).trans (f_setF_self State.reset F.TR_MIG_STAT_PROMOTED (2 ^ 24 - 1) 0 0 (by decide))

/-- No state shows 2^24 promotions: the field of the count has 24 bits. -/
theorem promoted_lt (s : State) (n : Nat) : s.f F.TR_MIG_STAT_PROMOTED n < 2 ^ 24 := bitsOf_lt _ _ _

/-- Refutes O54: the clause of `migrationSwitch` lets `PROMOTED` saturate at 2^32 - 1, but the field has 24 bits, [23:0], and saturates at
2^24 - 1; there it stands still, and the clause has it go on to 2^24. -/
theorem not_commandsTakeTheirEffect : ¬ Obligations.CommandsTakeTheirEffect := by
  unfold Obligations.CommandsTakeTheirEffect
  rintro ⟨-, -, -, -, -, -, -, -, -, -, -, -, -, switches, -⟩
  obtain ⟨t, -, ht⟩ := switches promotionsFull 0 0 _ rfl rfl
  have full : promotionsFull.f F.TR_MIG_STAT_PROMOTED (0 : JobId).val = 2 ^ 24 - 1 := promotionsFull_promoted
  have more := promoted_lt t (0 : JobId).val
  rw [ht, full] at more
  exact absurd more (by decide)

end Sys2Proof.Proofs
end

section
/-! The queue of the model's own commands (`State.pending`): only a step takes from it, and nothing adds to it. Each operation of the
model on the state has one lemma, in the order of the model: `<operation>_pending` says that the operation leaves the queue as it is,
`<command>_passes` that the command answers a next state with the queue that it found. An operation's lemma unfolds that operation once,
splits along its branches and cites the lemmas of what it calls. -/

namespace Sys2Proof.Proofs

open Sys2Proof.Machine Sys2Proof.Laws

/-! ## What it is to leave the queue as it is -/

@[simp] theorem ite_pending (c : Prop) [Decidable c] (s t : State) :
    (if c then s else t).pending = if c then s.pending else t.pending := apply_ite State.pending c s t

@[simp] theorem ite_fst_pending {α : Type} (c : Prop) [Decidable c] (x y : State × α) :
    (if c then x else y).1.pending = if c then x.1.pending else y.1.pending := apply_ite (fun z => z.1.pending) c x y

/-- A change of the state that leaves the queue of commands as it is. -/
def Keeps (f : State → State) : Prop := ∀ t, (f t).pending = t.pending

@[simp] theorem keeps_iff (f : State → State) : Keeps f ↔ ∀ t, (f t).pending = t.pending := Iff.rfl

/-- A step of a fold that leaves the queue of commands as it is. -/
def KeepsEach {α : Type} (f : State → α → State) : Prop := ∀ t x, (f t x).pending = t.pending

@[simp] theorem keepsEach_iff {α : Type} (f : State → α → State) : KeepsEach f ↔ ∀ t x, (f t x).pending = t.pending := Iff.rfl

@[simp] theorem foldl_pending {α : Type} {f : State → α → State} (h : KeepsEach f) (l : List α) (s : State) :
    (l.foldl f s).pending = s.pending :=
  List.foldlRecOn (motive := fun t : State => t.pending = s.pending) l f rfl fun t ht x _ => (h t x).trans ht

/-- The same for a step that also answers a value. -/
def KeepsFstEach {α β : Type} (f : State → α → State × β) : Prop := ∀ t x, (f t x).1.pending = t.pending

@[simp] theorem keepsFstEach_iff {α β : Type} (f : State → α → State × β) :
    KeepsFstEach f ↔ ∀ t x, (f t x).1.pending = t.pending := Iff.rfl

/-- A step of a fold over a state and a value that leaves the queue of commands as it is. -/
def KeepsFst {α β : Type} (f : State × β → α → State × β) : Prop := ∀ t x, (f t x).1.pending = t.1.pending

@[simp] theorem keepsFst_iff {α β : Type} (f : State × β → α → State × β) :
    KeepsFst f ↔ ∀ t x, (f t x).1.pending = t.1.pending := Iff.rfl

@[simp] theorem foldl_fst_pending {α β : Type} {f : State × β → α → State × β} (h : KeepsFst f) (l : List α) (x : State × β) :
    (l.foldl f x).1.pending = x.1.pending :=
  List.foldlRecOn (motive := fun t : State × β => t.1.pending = x.1.pending) l f rfl fun t ht y _ => (h t y).trans ht

/-- The outcome is a next state, and `p` is its queue of commands. -/
def Passes (p : List Instr) : Host.Outcome State Fault Refusal → Prop
  | .next t => t.pending = p
  | _ => False

@[simp] theorem passes_next (p : List Instr) (t : State) : Passes p (.next t) ↔ t.pending = p := Iff.rfl

theorem pending_of_eq {α : Type} {x : State × α} {t : State} {a : α} {p : List Instr} (e : x = (t, a)) (h : x.1.pending = p) :
    t.pending = p := by
  rw [e] at h
  exact h

/-- Where the option holds a state, its queue of commands is `p`. -/
def KeepsOpt (p : List Instr) (o : Option State) : Prop := ∀ t, o = some t → t.pending = p

theorem keepsOpt_none (p : List Instr) : KeepsOpt p none := by
  intro t h
  cases h

theorem keepsOpt_some {p : List Instr} {t : State} (h : t.pending = p) : KeepsOpt p (some t) := by
  intro u hu
  cases hu
  exact h

theorem keepsOpt_ite {p : List Instr} {c : Prop} [Decidable c] {a b : Option State} (ha : KeepsOpt p a)
    (hb : KeepsOpt p b) : KeepsOpt p (if c then a else b) := by
  split
  · exact ha
  · exact hb

variable (s : State)

/-! ## Shared operations -/

/-! ### What leaves the device -/

@[simp] theorem hostWrite_pending (p addr : Nat) (bs : List Byte) : (s.hostWrite p addr bs).pending = s.pending := by
  simp [State.hostWrite]

@[simp] theorem raise_pending (p v : Nat) : (s.raise p v).pending = s.pending := by simp [State.raise]

/-! ### Memory (R599, R524) -/

@[simp] theorem storeWord_pending (a : Nat) (w : W64) : (s.storeWord a w).pending = s.pending := by simp [State.storeWord]

/-! ## Management messages (R506, R569) -/

@[simp] theorem mgmtSend_pending (transport : Nat) (key : Option (List Byte)) (body : List Byte) :
    (s.mgmtSend transport key body).pending = s.pending := rfl

@[simp] theorem setRole_pending (r : Nat) (x : RoleSt) : (s.setRole r x).pending = s.pending := rfl

@[simp] theorem sessionAnswer_pending (r tag mseq op status : Nat) (payload : List Byte) :
    (s.sessionAnswer r tag mseq op status payload).pending = s.pending := by
  unfold State.sessionAnswer
  split <;> simp

/-! ## Flags, completions, interrupts and the fault log -/

/-! ### Fences (R54, R55) -/

@[simp] theorem signal_pending (n f value : Nat) (add err clear : Bool) :
    (s.signal n f value add err clear).pending = s.pending := by
  simp [State.signal]

/-! ### Completion records (R58 to R61) -/

@[simp] theorem cqWrite_pending (q off : Nat) (bs : List Byte) : (s.cqWrite q off bs).pending = s.pending := by
  simp [State.cqWrite]

@[simp] theorem queueRaise_pending (q : Nat) : (s.queueRaise q).pending = s.pending := by simp [State.queueRaise]

@[simp] theorem moderate_pending (q : Nat) (now : Bool) : (s.moderate q now).pending = s.pending := by simp [State.moderate]

@[simp] theorem writeCompletion_pending (q seq opcode : Nat) (st : Status) (result detail : W64) (now : Bool) :
    (s.writeCompletion q seq opcode st result detail now).pending = s.pending := by
  simp [State.writeCompletion]

@[simp] theorem recordSignal_pending (q : Nat) (r : Rec) (st : Status) : (s.recordSignal q r st).pending = s.pending := by
  simp [State.recordSignal]

@[simp] theorem finish_pending (q seq : Nat) (r : Rec) (st : Status) (result detail : W64) :
    (s.finish q seq r st result detail).pending = s.pending := by
  simp [State.finish]

@[simp] theorem cancelUnstarted_pending (q seq : Nat) (r : Rec) : (s.cancelUnstarted q seq r).pending = s.pending := by
  simp [State.cancelUnstarted]

@[simp] theorem finishFlight_pending (q seq : Nat) (st : Status) (result detail : W64) :
    (s.finishFlight q seq st result detail).pending = s.pending := by
  unfold State.finishFlight
  split <;> simp

/-! ### Transactions: rolling back (R70) -/

@[simp] theorem rollback_pending (h : Nat) (st : Status) (detail : W64) : (s.rollback h st detail).pending = s.pending := by
  unfold State.rollback
  repeat' split
  all_goals simp

/-! ### Faults (R520 to R527) -/

@[simp] theorem countLines_pending (wr : Bool) (a n : Nat) : (s.countLines wr a n).pending = s.pending := by
  simp [State.countLines]

@[simp] theorem faultVectors_pending (cls : Nat) : (s.faultVectors cls).pending = s.pending := by simp [State.faultVectors]

@[simp] theorem writeLog_pending (code : Nat) (esc : Bool) (d : Domain) (i job : Nat) (cmd : Option (Nat × Nat)) (datum : W64) :
    (s.writeLog code esc d i job cmd datum).pending = s.pending := by
  simp [State.writeLog]

@[simp] theorem logAs_pending (code : Nat) (esc : Bool) (d : Domain) (i job : Nat) (cmd : Option (Nat × Nat)) (datum : W64) :
    (s.logAs code esc d i job cmd datum).pending = s.pending := by
  unfold State.logAs
  dsimp only
  split <;> simp

@[simp] theorem faultRollback_pending (code : Nat) (d : Domain) (i e : Nat) :
    (s.faultRollback code d i e).pending = s.pending := by
  simp [State.faultRollback]

@[simp] theorem failDale_pending (d : Nat) : (s.failDale d).pending = s.pending := rfl

@[simp] theorem beginRecovery_pending (d : Domain) (i : Nat) : (s.beginRecovery d i).pending = s.pending := rfl

@[simp] theorem endRecovery_pending (d : Domain) (i : Nat) : (s.endRecovery d i).pending = s.pending := rfl

@[simp] theorem siteUnit_pending (i : Nat) : (s.siteUnit i).pending = s.pending := by
  unfold State.siteUnit
  split <;> simp

@[simp] theorem stopDevice_pending : s.stopDevice.pending = s.pending := rfl

@[simp] theorem loseStack_pending (k : Nat) : (s.loseStack k).pending = s.pending := by simp [State.loseStack]

@[simp] theorem failChannel_pending (i : Nat) : (s.failChannel i).pending = s.pending := by simp [State.failChannel]

@[simp] theorem faultOutcome_pending (code : Nat) (d : Domain) (i : Nat) : (s.faultOutcome code d i).pending = s.pending := by
  unfold State.faultOutcome
  repeat' split
  all_goals simp

@[simp] theorem fault_pending (code : Nat) (d : Domain) (i job : Nat) (cmd : Option (Nat × Nat)) (datum : W64) :
    (s.fault code d i job cmd datum).pending = s.pending := by
  simp [State.fault]

/-! ## Translation and accesses -/

/-! ### Translation entries (R93, R94) -/

@[simp] theorem setPageTable_pending (n : Nat) (p : PageTable) : (s.setPageTable n p).pending = s.pending := by
  simp [State.setPageTable]

/-! ### Translation caches (R99) -/

@[simp] theorem tlbFill_pending (k : Nat) (x : TlbEntry) : (s.tlbFill k x).pending = s.pending := by simp [State.tlbFill]

@[simp] theorem walkFill_pending (die n va level log2 : Nat) : (s.walkFill die n va level log2).pending = s.pending := by
  simp [State.walkFill]

@[simp] theorem lookUp_pending (k die n va : Nat) : (s.lookUp k die n va).1.pending = s.pending := by
  unfold State.lookUp
  repeat' split
  all_goals simp

@[simp] theorem lookUps_pending (k die n va len : Nat) : (s.lookUps k die n va len).1.pending = s.pending := by
  simp [State.lookUps]

@[simp] theorem xlateFault_pending (n va reason level : Nat) (wr : Bool) (cmd : Option (Nat × Nat)) :
    (s.xlateFault n va reason level wr cmd).pending = s.pending := by
  simp [State.xlateFault]

/-! ### Reads and writes through translation -/

@[simp] theorem writePieces_pending (ps : List Piece) (bs : List Byte) (mark : Bool) :
    (s.writePieces ps bs mark).pending = s.pending := by
  induction ps generalizing s bs with
  | nil => rfl
  | cons p ps ih =>
    rw [State.writePieces, ih]
    split <;> simp

@[simp] theorem accFault_pending (n : Nat) (e : AccErr) (cmd : Option (Nat × Nat)) :
    (s.accFault n e cmd).pending = s.pending := by
  unfold State.accFault
  split <;> simp

/-! ## The queue engine (R40 to R57) -/

/-! ### Windows and seals (R41 to R44) -/

@[simp] theorem reject_pending (q reason : Nat) : (s.reject q reason).pending = s.pending := rfl

@[simp] theorem enterRing_pending (q j : Nat) : (s.enterRing q j).pending = s.pending := by simp [State.enterRing]

@[simp] theorem enterHeld_pending (fuel q : Nat) : (State.enterHeld fuel s q).pending = s.pending := by
  induction fuel generalizing s with
  | zero => rfl
  | succ n ih => simp [State.enterHeld, ih]

@[simp] theorem sealSlot_pending (q j : Nat) (w : W64) : (s.sealSlot q j w).pending = s.pending := by simp [State.sealSlot]

theorem windowWord_pending (q off : Nat) (w : W64) {t : State} (h : s.windowWord q off w = some t) : t.pending = s.pending := by
  unfold State.windowWord at h
  dsimp only at h
  split at h
  · cases h
  · split at h <;> cases h <;> simp

@[simp] theorem windowWords_pending (q off : Nat) (ws : List W64) : (s.windowWords q off ws).1.pending = s.pending := by
  refine foldl_fst_pending (fun x y => ?_) _ _
  split
  · next h => exact windowWord_pending _ _ _ _ h
  · rfl

@[simp] theorem windowBytes_pending (o : Origin) (q off : Nat) (bs : List Byte) :
    (s.windowBytes o q off bs).pending = s.pending := by
  simp [State.windowBytes]

/-! ### A `ROUTE` that fails before it runs (R351, R376) -/

@[simp] theorem setRoute_pending (g : Nat) (x : RouteSt) : (s.setRoute g x).pending = s.pending := rfl

@[simp] theorem dropPlan_pending (g : Nat) : (s.dropPlan g).pending = s.pending := rfl

@[simp] theorem discardPlan_pending (g : Nat) : (s.discardPlan g).pending = s.pending := rfl

@[simp] theorem routeTurnedAway_pending (n : Nat) (r : Rec) (st : Status) : (s.routeTurnedAway n r st).pending = s.pending := by
  simp [State.routeTurnedAway]

@[simp] theorem unrun_pending (q : Nat) (r : Rec) (st : Status) : (s.unrun q r st).pending = s.pending := by simp [State.unrun]

@[simp] theorem headDone_pending (q : Nat) (r : Rec) (st : Status) (detail : W64) :
    (s.headDone q r st detail).pending = s.pending := by
  simp [State.headDone]

@[simp] theorem headUnfenced_pending (q : Nat) (r : Rec) : (s.headUnfenced q r).pending = s.pending := by
  simp [State.headUnfenced]

@[simp] theorem takeHead_pending (q e : Nat) (r : Rec) : (s.takeHead q e r).pending = s.pending := by simp [State.takeHead]

/-- The parts of a queue command leave the queue of the model's own commands as it is: its run, and its early checks whether they let
it go on or stop it. -/
structure KeepsSpec (c : CmdSpec) : Prop where
  run : ∀ s q seq r, (c.run s q seq r).pending = s.pending
  goes : ∀ s q r t, c.early s q r = .ok t → t.pending = s.pending
  stops : ∀ s q r t d, c.early s q r = .error (t, d) → t.pending = s.pending

theorem keepsSpec_of {c : CmdSpec} (h : ∀ s q seq r, (c.run s q seq r).pending = s.pending)
    (he : c.early = fun s _ _ => .ok s) :
    KeepsSpec c :=
  ⟨h, fun _ _ _ _ e => by rw [he] at e; cases e; rfl, fun _ _ _ _ _ e => by rw [he] at e; cases e⟩

theorem startHead_pending {c : CmdSpec} (h : KeepsSpec c) (q : Nat) (r : Rec) :
    (State.startHead c s q r).pending = s.pending := by
  simp [State.startHead, h.run]

theorem opWait_pending {c : CmdSpec} (h : KeepsSpec c) (q : Nat) (r : Rec) : (State.opWait c s q r).pending = s.pending := by
  simp [State.opWait, startHead_pending s h]

theorem firstWait_pending {c : CmdSpec} (h : KeepsSpec c) (q : Nat) (r : Rec) :
    (State.firstWait c s q r).pending = s.pending := by
  simp [State.firstWait, opWait_pending s h]

@[simp] theorem poisonedHead_pending (q : Nat) (r : Rec) : (s.poisonedHead q r).pending = s.pending := by
  simp [State.poisonedHead]

theorem headStep_pending {c : CmdSpec} (h : KeepsSpec c) (q : Nat) (r : Rec) :
    (State.headStep c s q r).pending = s.pending := by
  unfold State.headStep
  split
  · split
    · simp
    · split
      · simp
      · split
        · simp
        · split
          · simp
          · split
            · simp
            · split
              · next e => simp [h.stops _ _ _ _ _ e]
              · next e => simp [firstWait_pending _ h, h.goes _ _ _ _ e]
  · exact startHead_pending s h q r
  · rfl

@[simp] theorem queueCommand_pending {c : CmdSpec} (h : KeepsSpec c) (kind : Rec → Bool) (q : Nat) :
    (State.queueCommand c kind s q).pending = s.pending := by
  unfold State.queueCommand
  split
  · rfl
  · simp [headStep_pending s h]

/-! ### NOP, FENCE_SIGNAL, FENCE_WAIT -/

@[simp] theorem specNop_keeps : KeepsSpec specNop := keepsSpec_of (by simp [specNop, CmdSpec.plain]) rfl

@[simp] theorem specFenceSignal_keeps : KeepsSpec specFenceSignal := keepsSpec_of (by simp [specFenceSignal, CmdSpec.plain]) rfl

@[simp] theorem specFenceWait_keeps : KeepsSpec specFenceWait := keepsSpec_of (by simp [specFenceWait, CmdSpec.plain]) rfl

@[simp] theorem undefinedHead_pending (q : Nat) (r : Rec) : (s.undefinedHead q r).pending = s.pending := by
  simp [State.undefinedHead]

@[simp] theorem execWindowWrite_passes (o : Origin) (q : QId) (off : BitVec 18) (bs : List Byte) :
    Passes s.pending (execWindowWrite o q off bs s) := by
  simp [execWindowWrite]

@[simp] theorem execSeal_passes (o : Origin) (q : QId) (slot : BitVec 12) (w : W64) :
    Passes s.pending (execSeal o q slot w s) := by
  simp [execSeal]

@[simp] theorem execNop_passes (q : QId) : Passes s.pending (execNop q s) := by
  unfold execNop
  split <;> simp

@[simp] theorem execFenceSignal_passes (q : QId) : Passes s.pending (execFenceSignal q s) := by
  simp [execFenceSignal]

@[simp] theorem execFenceWait_passes (q : QId) : Passes s.pending (execFenceWait q s) := by
  simp [execFenceWait]

@[simp] theorem execWaitTimeout_passes (q : QId) : Passes s.pending (execWaitTimeout q s) := by
  unfold execWaitTimeout
  split <;> simp

@[simp] theorem execIrqDelayExpiry_passes (q : QId) : Passes s.pending (execIrqDelayExpiry q s) := by
  simp [execIrqDelayExpiry]

end Sys2Proof.Proofs

end

section
/-! The queue of the model's own commands, continued: `MAP`, `UNMAP` and migration (R51, R94 to R102) and what follows. -/

namespace Sys2Proof.Proofs

open Sys2Proof.Machine Sys2Proof.Laws

variable (s : State)

/-! ## `MAP`, `UNMAP` and migration (R51, R94 to R102) -/

/-! ### Frames: what an entry covers, who owns what -/

@[simp] theorem releaseFrames_pending (n : Nat) : (s.releaseFrames n).pending = s.pending := rfl

/-! ### Changing tables -/

@[simp] theorem setMig_pending (l : List MigPage) : (s.setMig l).pending = s.pending := rfl

@[simp] theorem buildTable_pending (n key : Nat) (avoid : Nat → Bool) : (s.buildTable n key avoid).pending = s.pending := by
  unfold State.buildTable
  repeat' split
  all_goals simp

@[simp] theorem dropMig_pending (n : Nat) : (s.dropMig n).pending = s.pending := rfl

/-! ### MAP (R51, R96) -/

@[simp] theorem runUnmap_pending (q seq : Nat) (r : Rec) : (s.runUnmap q seq r).pending = s.pending := by simp [State.runUnmap]

@[simp] theorem mapPage_pending (n : Nat) (e : W64) (va g : Nat) (avoid : Nat → Bool) :
    (s.mapPage n e va g avoid).pending = s.pending := by
  unfold State.mapPage
  dsimp only
  repeat' split
  all_goals simp

@[simp] theorem runMap_pending (q seq : Nat) (r : Rec) : (s.runMap q seq r).pending = s.pending := by simp [State.runMap]

@[simp] theorem specMap_keeps : KeepsSpec specMap := keepsSpec_of (by simp [specMap]) rfl

@[simp] theorem execMap_passes (q : QId) : Passes s.pending (execMap q s) := by
  simp [execMap]

@[simp] theorem execUnmap_passes (q : QId) : Passes s.pending (execUnmap q s) := by
  simp [execUnmap]

/-! ### Migration (R100 to R102) -/

@[simp] theorem updMig_pending (n va : Nat) (f : MigPage → MigPage) : (s.updMig n va f).pending = s.pending := rfl

@[simp] theorem touchPage_pending (n va k : Nat) (wr : Bool) : (s.touchPage n va k wr).pending = s.pending := by
  unfold State.touchPage
  split <;> simp

@[simp] theorem touchRange_pending (n va len : Nat) (wr : Bool) : (s.touchRange n va len wr).pending = s.pending := by
  simp [State.touchRange]

@[simp] theorem noteRange_pending (n va len : Nat) : (s.noteRange n va len).pending = s.pending := by simp [State.noteRange]

@[simp] theorem execHeatEpoch_passes : Passes s.pending (execHeatEpoch s) := by
  simp [execHeatEpoch]

@[simp] theorem execMigrationPromote_passes (n : JobId) (va : W64) : Passes s.pending (execMigrationPromote n va s) := by
  unfold execMigrationPromote
  split <;> simp

@[simp] theorem execMigrationDemote_passes (n : JobId) (va : W64) : Passes s.pending (execMigrationDemote n va s) := by
  unfold execMigrationDemote
  split <;> simp

@[simp] theorem rewriteLeaf_pending (n va tier off : Nat) : (s.rewriteLeaf n va tier off).pending = s.pending := by
  unfold State.rewriteLeaf
  dsimp only
  split <;> simp

@[simp] theorem copyRange_pending (src dst len : Nat) : (s.copyRange src dst len).pending = s.pending := by
  simp [State.copyRange]

@[simp] theorem settlePoolFrame_pending (n f : Nat) (held : Bool) : (s.settlePoolFrame n f held).pending = s.pending := by
  simp [State.settlePoolFrame]

@[simp] theorem execMigrationSwitch_passes (n : JobId) (va : W64) : Passes s.pending (execMigrationSwitch n va s) := by
  unfold execMigrationSwitch
  split
  · simp
  · split
    · rw [passes_next, count_pending, settlePoolFrame_pending, updMig_pending, rewriteLeaf_pending, copyRange_pending]
    · split
      · split
        · simp
        · rw [passes_next, count_pending, settlePoolFrame_pending, updMig_pending, rewriteLeaf_pending]
          split
          · rw [copyRange_pending]
          · rfl
      · simp

/-! ## The timebase and the margin monitors (R25 to R39) -/

/-! ### Ticks (R28, R30) -/

@[simp] theorem absorbOne_pending : s.absorbOne.pending = s.pending := by simp [State.absorbOne]

@[simp] theorem slewTick_pending : s.slewTick.pending = s.pending := by simp [State.slewTick]

@[simp] theorem plainTick_pending : s.plainTick.pending = s.pending := rfl

@[simp] theorem tickOnce_pending : s.tickOnce.pending = s.pending := by simp [State.tickOnce]

/-! ### Sources (R29) -/

@[simp] theorem phaseStep_pending : s.phaseStep.pending = s.pending := rfl

@[simp] theorem setSource_pending (k : Nat) : (s.setSource k).pending = s.pending := by simp [State.setSource]

@[simp] theorem setPresent_pending (k : Nat) (b : Bool) : (s.setPresent k b).pending = s.pending := rfl

@[simp] theorem execTimebaseLock_passes (timeref portA portB : Bool) :
    Passes s.pending (execTimebaseLock timeref portA portB s) := by
  simp [execTimebaseLock]

@[simp] theorem execTimerefLoss_passes (k : Fin 3) : Passes s.pending (execTimerefLoss k s) := by
  simp [execTimerefLoss]

@[simp] theorem execSourcePresent_passes (k : Fin 3) : Passes s.pending (execSourcePresent k s) := by
  simp [execSourcePresent]

@[simp] theorem execSourceRetake_passes (k : Fin 3) : Passes s.pending (execSourceRetake k s) := by
  simp [execSourceRetake]

/-! ### Rate windows (R36) -/

@[simp] theorem execRateWindow_passes (w e : BitVec 16) : Passes s.pending (execRateWindow w e s) := by
  simp [execRateWindow]

/-! ### Comparators (R38, R39) -/

@[simp] theorem fireComparator_pending (n : Nat) : (s.fireComparator n).pending = s.pending := by simp [State.fireComparator]

@[simp] theorem execComparatorFire_passes (n : Fin 64) : Passes s.pending (execComparatorFire n s) := by
  simp [execComparatorFire]

@[simp] theorem writeComparator_pending (n : Nat) (v : W64) : (s.writeComparator n v).pending = s.pending := by
  simp [State.writeComparator]

@[simp] theorem execGlbCmpCtrlWrite_passes (via : Via) (n : Fin 64) (v : W64) :
    Passes s.pending (execGlbCmpCtrlWrite via n v s) := by
  simp [execGlbCmpCtrlWrite]

/-! ### Delay-line margins (R25) -/

@[simp] theorem queueCal_pending (kind element : Nat) : (s.queueCal kind element).pending = s.pending := by
  simp [State.queueCal]

@[simp] theorem marginWarn_pending (site margin : Nat) : (s.marginWarn site margin).pending = s.pending := by
  simp [State.marginWarn]

@[simp] theorem marginCrit_pending (site margin : Nat) : (s.marginCrit site margin).pending = s.pending := by
  unfold State.marginCrit
  dsimp only
  split <;> simp

@[simp] theorem execMarginEvent_passes (site : BitVec 12) (margin : BitVec 8) :
    Passes s.pending (execMarginEvent site margin s) := by
  simp [execMarginEvent]

/-! ## The governor and the current limit (R583, R584, R594) -/

@[simp] theorem updateFloor_pending : s.updateFloor.pending = s.pending := by simp [State.updateFloor]

@[simp] theorem requestVid_pending (die mv : Nat) : (s.requestVid die mv).pending = s.pending := by simp [State.requestVid]

@[simp] theorem measure_pending (g : GovInput) : (s.measure g).pending = s.pending := by simp [State.measure]

@[simp] theorem govern_pending (g : GovInput) : (s.govern g).pending = s.pending := by simp [State.govern]

@[simp] theorem execGovernorPeriod_passes (g : GovInput) : Passes s.pending (execGovernorPeriod g s) := by
  simp [execGovernorPeriod]

@[simp] theorem setCeiling_pending (die mv : Nat) : (s.setCeiling die mv).pending = s.pending := by simp [State.setCeiling]

@[simp] theorem limitStep_pending (die : Nat) : (s.limitStep die).pending = s.pending := by simp [State.limitStep]

@[simp] theorem limitSteps_pending (n die : Nat) : (State.limitSteps n s die).pending = s.pending := by
  induction n generalizing s with
  | zero => rfl
  | succ n ih => simp [State.limitSteps, ih]

@[simp] theorem execCurrentLimit_passes (die : Fin 2) (steps : Fin 16) : Passes s.pending (execCurrentLimit die steps s) := by
  simp [execCurrentLimit]

@[simp] theorem execCurrentCeilingExpiry_passes (die : Fin 2) : Passes s.pending (execCurrentCeilingExpiry die s) := by
  simp [execCurrentCeilingExpiry]

end Sys2Proof.Proofs

end

section
/-! The queue of the model's own commands, continued: the Altur links (R422 to R448) and what follows. -/

namespace Sys2Proof.Proofs

open Sys2Proof.Machine Sys2Proof.Laws

variable (s : State)

/-! ## The Altur links (R422 to R448) -/

/-! ### Records of links and ports -/

@[simp] theorem setLink_pending (l : Nat) (x : LinkSt) : (s.setLink l x).pending = s.pending := rfl

@[simp] theorem setLport_pending (p : Nat) (x : PortRt) : (s.setLport p x).pending = s.pending := rfl

/-! ### Calibration records (R431, R546, R547) -/

@[simp] theorem putRecord_pending (x : CalRecord) : (s.putRecord x).pending = s.pending := rfl

@[simp] theorem calStale_pending (kind element : Nat) : (s.calStale kind element).pending = s.pending := by
  simp [State.calStale]

/-! ### Sending (R434, R436) -/

@[simp] theorem putFlit_pending (l i : Nat) (f : TxFlit) : (s.putFlit l i f).pending = s.pending := rfl

@[simp] theorem putFlits_pending (l i : Nat) (fs : List TxFlit) : (s.putFlits l i fs).pending = s.pending := by
  induction fs generalizing s i with
  | nil => rfl
  | cons f fs ih => simp [State.putFlits, ih]

/-! ### The order of flits on a link (R473) -/

@[simp] theorem sendFlit_pending (l : Nat) : (s.sendFlit l).pending = s.pending := by
  unfold State.sendFlit
  dsimp only
  repeat' split
  all_goals simp

@[simp] theorem sendQueued_pending (n l : Nat) : (State.sendQueued n l s).pending = s.pending := by
  induction n generalizing s with
  | zero => rfl
  | succ n ih => simp [State.sendQueued, ih]

@[simp] theorem drainLink_pending (l : Nat) : (s.drainLink l).pending = s.pending := by simp [State.drainLink]

@[simp] theorem queueFlits_pending (l : Nat) (fs : List TxFlit) : (s.queueFlits l fs).pending = s.pending := rfl

@[simp] theorem launch_pending (p : Nat) (t : TxMsg) : (s.launch p t).1.pending = s.pending := by
  unfold State.launch
  split <;> simp

@[simp] theorem pump_pending (p : Nat) : (s.pump p).pending = s.pending := by simp [State.pump]

@[simp] theorem sendOn_pending (p : Nat) (m : OutMsg) : (s.sendOn p m).pending = s.pending := by simp [State.sendOn]

@[simp] theorem dropNotice_pending (m : OutMsg) : (s.dropNotice m).pending = s.pending := by simp [State.dropNotice]

@[simp] theorem sendVia_pending (hop : Hop) (m : OutMsg) : (s.sendVia hop m).1.pending = s.pending := by
  unfold State.sendVia
  repeat' split
  all_goals simp

@[simp] theorem send_pending (m : OutMsg) : (s.send m).1.pending = s.pending := by simp [State.send]

@[simp] theorem sendPlainRoute_pending (m : OutMsg) : (s.sendPlainRoute m).1.pending = s.pending := by
  simp [State.sendPlainRoute]

@[simp] theorem noticeUnreachable_pending (m : OutMsg) : (s.noticeUnreachable m).pending = s.pending := by
  simp [State.noticeUnreachable]

@[simp] theorem badMsg_pending (l : Nat) : (s.badMsg l).pending = s.pending := by simp [State.badMsg]

@[simp] theorem receive_pending (m : Msg) (op : Nat) {handle : State → State} (h : Keeps handle) :
    (s.receive m op handle).pending = s.pending := by
  simp [State.receive, h s]

/-! ### Plain requests (R446, R447) -/

@[simp] theorem plainSend_pending (x : Request) : (s.plainSend x).1.pending = s.pending := by
  unfold State.plainSend
  repeat' split
  all_goals simp

@[simp] theorem issuePlain_pending (who : Issuer) (op addr len job : Nat) (poison : Bool) (data : List Byte) :
    (s.issuePlain who op addr len job poison data).pending = s.pending := by
  simp [State.issuePlain]

@[simp] theorem flushPlain_pending : s.flushPlain.pending = s.pending := by simp [State.flushPlain]

@[simp] theorem issueRemote_pending (who : Issuer) (m : OutMsg) : (s.issueRemote who m).1.pending = s.pending := by
  unfold State.issueRemote
  dsimp only
  split <;> simp

@[simp] theorem forgetRequests_pending (who : Issuer) : (s.forgetRequests who).pending = s.pending := rfl

/-! ### Link states (R428 to R431) -/

@[simp] theorem refreshPorts_pending : s.refreshPorts.pending = s.pending := by simp [State.refreshPorts]

@[simp] theorem setLinkState_pending (l st : Nat) : (s.setLinkState l st).pending = s.pending := by simp [State.setLinkState]

@[simp] theorem resend_pending (l : Nat) : (s.resend l).pending = s.pending := by simp [State.resend]

@[simp] theorem depart_pending (l st cause : Nat) : (s.depart l st cause).pending = s.pending := by simp [State.depart]

@[simp] theorem leaveUp_pending (l st cause : Nat) : (s.leaveUp l st cause).pending = s.pending := by simp [State.leaveUp]

@[simp] theorem beginDrain_pending (l dest : Nat) : (s.beginDrain l dest).pending = s.pending := by simp [State.beginDrain]

@[simp] theorem enterTune_pending (l : Nat) : (s.enterTune l).pending = s.pending := by simp [State.enterTune]

@[simp] theorem execLightDetected_passes (l : LinkId) : Passes s.pending (execLightDetected l s) := by
  simp [execLightDetected]

@[simp] theorem execLightLoss_passes (l : LinkId) : Passes s.pending (execLightLoss l s) := by
  simp [execLightLoss]

@[simp] theorem execTuningLoop_passes (l : LinkId) (settings : List Nat) : Passes s.pending (execTuningLoop l settings s) := by
  simp [execTuningLoop]

@[simp] theorem execRingLockLost_passes (l : LinkId) (ring : Fin 8) : Passes s.pending (execRingLockLost l ring s) := by
  simp [execRingLockLost]

@[simp] theorem execRingsLocked_passes (l : LinkId) : Passes s.pending (execRingsLocked l s) := by
  simp [execRingsLocked]

@[simp] theorem execPatternDetected_passes (l : LinkId) : Passes s.pending (execPatternDetected l s) := by
  simp [execPatternDetected]

@[simp] theorem sendIdent_pending (l : Nat) : (s.sendIdent l).pending = s.pending := rfl

@[simp] theorem sendCredits_pending (l : Nat) : (s.sendCredits l).pending = s.pending := rfl

@[simp] theorem execCodewordLock_passes (l : LinkId) : Passes s.pending (execCodewordLock l s) := by
  simp [execCodewordLock]

@[simp] theorem identify_pending (l : Nat) (i : IdentInfo) : (s.identify l i).pending = s.pending := by simp [State.identify]

@[simp] theorem execIdent_passes (l : LinkId) (i : IdentInfo) : Passes s.pending (execIdent l i s) := by
  simp [execIdent]

@[simp] theorem execIdentRetry_passes (l : LinkId) (i : IdentInfo) : Passes s.pending (execIdentRetry l i s) := by
  simp [execIdentRetry]

@[simp] theorem startRecal_pending (l : Nat) : (s.startRecal l).pending = s.pending := by simp [State.startRecal]

@[simp] theorem releaseRecals_pending : s.releaseRecals.pending = s.pending := by simp [State.releaseRecals]

@[simp] theorem execCredit_passes (l : LinkId) (credits : List Nat) (replay : Nat) :
    Passes s.pending (execCredit l credits replay s) := by
  simp [execCredit]

@[simp] theorem execTrainingTimeout_passes (l : LinkId) : Passes s.pending (execTrainingTimeout l s) := by
  unfold execTrainingTimeout
  split <;> simp

@[simp] theorem execDrainComplete_passes (l : LinkId) : Passes s.pending (execDrainComplete l s) := by
  simp [execDrainComplete]

@[simp] theorem execRecalComplete_passes (l : LinkId) : Passes s.pending (execRecalComplete l s) := by
  simp [execRecalComplete]

@[simp] theorem execRecal_passes (via : Via) (l : LinkId) : Passes s.pending (execRecal via l s) := by
  simp [execRecal]

@[simp] theorem execFullSearch_passes (via : Via) (l : LinkId) : Passes s.pending (execFullSearch via l s) := by
  simp [execFullSearch]

/-! ### Lasers (R422) -/

@[simp] theorem execLaserLow_passes (i : Fin 12) (wave : Fin 8) (power : ℤ) :
    Passes s.pending (execLaserLow i wave power s) := by
  simp [execLaserLow]

@[simp] theorem execLaserInputRestored_passes (i : Fin 12) (power : ℤ) :
    Passes s.pending (execLaserInputRestored i power s) := by
  simp [execLaserInputRestored]

/-! ### Flits (R432, R433) -/

@[simp] theorem dropAcked_pending (fs : List TxFlit) : (s.dropAcked fs).pending = s.pending := by simp [State.dropAcked]

@[simp] theorem takeAck_pending (l ack : Nat) : (s.takeAck l ack).pending = s.pending := by simp [State.takeAck]

@[simp] theorem takeCredits_pending (l vc total : Nat) : (s.takeCredits l vc total).pending = s.pending := by
  simp [State.takeCredits]

@[simp] theorem replay_pending (l : Nat) : (s.replay l).pending = s.pending := by simp [State.replay]

@[simp] theorem countCodewords_pending (l n : Nat) : (s.countCodewords l n).pending = s.pending := by
  simp [State.countCodewords]

@[simp] theorem takeData_pending (l : Nat) (x : Flit) : (s.takeData l x).pending = s.pending := by simp [State.takeData]

@[simp] theorem execFlit_passes (l : LinkId) (x : Flit) : Passes s.pending (execFlit l x s) := by
  simp [execFlit]

/-! ## The data movers (R104 to R106) -/

/-! ### Moving one entry -/

@[simp] theorem pokePieces_pending (ps : List Piece) (bs : List Byte) : (s.pokePieces ps bs).pending = s.pending := by
  induction ps generalizing s bs with
  | nil => rfl
  | cons p ps ih =>
    rw [State.pokePieces, ih]
    split
    · dsimp only
      split <;> rfl
    · rfl
    · rfl

@[simp] theorem pokeElem_pending (n base pos bits v : Nat) : (s.pokeElem n base pos bits v).pending = s.pending := by
  unfold State.pokeElem
  dsimp only
  split <;> simp

@[simp] theorem moveElems_pending (n : Nat) (src : List Entry) (pattern : Option W64) (d : Entry) (off : Nat) (ov : List
    (Nat × Nat)) :
    (s.moveElems n src pattern d off ov).1.pending = s.pending := by
  simp [State.moveElems]

@[simp] theorem moveScales_pending (n : Nat) (src : Option Entry) (d : Entry) (ov : List (Nat × Nat)) :
    (s.moveScales n src d ov).1.pending = s.pending := by
  unfold State.moveScales
  dsimp only
  split
  · rfl
  · refine foldl_fst_pending (fun x y => ?_) _ _
    split
    · simp
    · split <;> simp

@[simp] theorem markStretch_pending (n va len : Nat) (marks : List Nat) :
    (s.markStretch n va len marks).pending = s.pending := by
  unfold State.markStretch
  split
  · rfl
  · refine foldl_fst_pending (fun x y => ?_) _ _
    dsimp only
    split <;> rfl

/-! ### The life of a flight -/

@[simp] theorem requestRead_pending (who : Issuer) (job : Nat) (p : Piece) :
    (s.requestRead who job p).1.pending = s.pending := by
  unfold State.requestRead
  split <;> simp

@[simp] theorem requestWrite_pending (who : Issuer) (job : Nat) (p : Piece) :
    (s.requestWrite who job p).1.pending = s.pending := by
  unfold State.requestWrite
  split <;> simp

@[simp] theorem requestEdge_pending (who : Issuer) (job : Nat) (p : Piece) :
    (s.requestEdge who job p).1.pending = s.pending := by
  unfold State.requestEdge
  split <;> simp

@[simp] theorem requestAll_pending {req : State → Piece → State × Option Status} (h : KeepsFstEach req) (ps : List Piece) :
    (State.requestAll req s ps).1.pending = s.pending := by
  induction ps generalizing s with
  | nil => rfl
  | cons p ps ih =>
    have hp := h s p
    unfold State.requestAll
    split
    · next e => rw [e] at hp; exact hp
    · next e => rw [e] at hp; rw [ih]; exact hp

@[simp] theorem countPieces_pending (wr : Bool) (ps : List Piece) : (s.countPieces wr ps).pending = s.pending := by
  refine foldl_pending (fun t p => ?_) _ _
  split <;> simp

@[simp] theorem endFlight_pending (q seq : Nat) (st : Status) (result detail : W64) :
    (s.endFlight q seq st result detail).pending = s.pending := by
  simp [State.endFlight]

@[simp] theorem failFlight_pending (q seq : Nat) (e : AccErr) (word : Nat) :
    (s.failFlight q seq e word).pending = s.pending := by
  simp [State.failFlight]

@[simp] theorem moverAccess_pending (q n va len : Nat) (wr : Bool) : (s.moverAccess q n va len wr).pending = s.pending := by
  simp [State.moverAccess]

@[simp] theorem moverEntry_pending (q n : Nat) (e : Entry) (wr : Bool) : (s.moverEntry q n e wr).pending = s.pending := by
  simp [State.moverEntry]

@[simp] theorem beginEntry_pending (q : Nat) (x : Flight) : (s.beginEntry q x).pending = s.pending := by
  unfold State.beginEntry
  dsimp only
  repeat' split
  all_goals simp

@[simp] theorem writeEntry_pending (q : Nat) (x : Flight) : (s.writeEntry q x).pending = s.pending := by
  unfold State.writeEntry
  dsimp only
  repeat' split
  all_goals simp

@[simp] theorem nextEntry_pending (q : Nat) (x : Flight) : (s.nextEntry q x).pending = s.pending := by simp [State.nextEntry]

@[simp] theorem moverStep_pending (q seq : Nat) : (s.moverStep q seq).pending = s.pending := by
  unfold State.moverStep
  dsimp only
  repeat' split
  all_goals simp

@[simp] theorem runMove_pending (q seq : Nat) (r : Rec) : (s.runMove q seq r).pending = s.pending := by
  unfold State.runMove
  dsimp only
  repeat' split
  all_goals simp

@[simp] theorem specMove_keeps : KeepsSpec specMove := keepsSpec_of (by simp [specMove, CmdSpec.plain]) rfl

@[simp] theorem specFill_keeps : KeepsSpec specFill := keepsSpec_of (by simp [specFill, CmdSpec.plain]) rfl

@[simp] theorem execMove_passes (q : QId) : Passes s.pending (execMove q s) := by
  simp [execMove]

@[simp] theorem execFill_passes (q : QId) : Passes s.pending (execFill q s) := by
  simp [execFill]

@[simp] theorem execDataMoverDone_passes (q : QId) (seq : BitVec 48) : Passes s.pending (execDataMoverDone q seq s) := by
  unfold execDataMoverDone
  split <;> simp

/-! ## The KV cache (R289 to R304) -/

/-! ### Request entries (R378) -/

@[simp] theorem setReq_pending (i : Nat) (e : Req) : (s.setReq i e).pending = s.pending := rfl

/-! ### Free lists (R299, R300, R302) -/

@[simp] theorem setKvPages_pending (m : SMap Nat) : (s.setKvPages m).pending = s.pending := rfl

@[simp] theorem kvPlace_pending (n c page : Nat) : (s.kvPlace n c page).pending = s.pending := by simp [State.kvPlace]

@[simp] theorem kvPush_pending (n c page : Nat) : (s.kvPush n c page).pending = s.pending := by simp [State.kvPush]

@[simp] theorem kvDrain_pending (n c : Nat) : (s.kvDrain n c).pending = s.pending := by simp [State.kvDrain]

@[simp] theorem kvWrite_pending (n : Nat) (v : W64) : (s.kvWrite n v).pending = s.pending := by simp [State.kvWrite]

@[simp] theorem kvPop_pending (cmd : Option (Nat × Nat)) (n c : Nat) : (State.kvPop cmd s n c).1.pending = s.pending := by
  simp [State.kvPop]

/-! ### Growth (R301, R302) -/

@[simp] theorem kvMapOne_pending (cmd : Option (Nat × Nat)) (n c va : Nat) :
    (State.kvMapOne cmd s n c va).1.pending = s.pending := by
  unfold State.kvMapOne
  dsimp only
  split
  · rfl
  · split
    · next e => exact pending_of_eq e (kvPop_pending ..)
    · next e => split <;> simp [pending_of_eq e (kvPop_pending ..)]

@[simp] theorem growPages_pending (cmd : Option (Nat × Nat)) (fuel i need : Nat) :
    (State.growPages cmd fuel s i need).1.pending = s.pending := by
  induction fuel generalizing s with
  | zero => rfl
  | succ n ih =>
    unfold State.growPages
    dsimp only
    split
    · rfl
    · split
      · next e => simp [ih, pending_of_eq e (kvMapOne_pending ..)]
      · exact kvMapOne_pending ..

@[simp] theorem growList_pending (cmd : Option (Nat × Nat)) (fuel i need : Nat) :
    (State.growList cmd fuel s i need).1.pending = s.pending := by
  induction fuel generalizing s with
  | zero => rfl
  | succ n ih =>
    unfold State.growList
    dsimp only
    split
    · rfl
    · split
      · next e => simp [ih, pending_of_eq e (kvMapOne_pending ..)]
      · exact kvMapOne_pending ..

@[simp] theorem kvGrow_pending (cmd : Option (Nat × Nat)) (i need : Nat) :
    (State.kvGrow cmd s i need).1.pending = s.pending := by
  unfold State.kvGrow
  dsimp only
  split
  · next e => simp [pending_of_eq e (growPages_pending ..)]
  · exact growPages_pending ..

/-! ### The KV list and the KV view (R296, R297) -/

theorem writeVirt_pending (n va : Nat) (bs : List Byte) {t : State} (h : s.writeVirt n va bs = .ok t) :
    t.pending = s.pending := by
  unfold State.writeVirt at h
  split at h
  · cases h
  · cases h; simp

@[simp] theorem kvWriteLists_pending (i pages : Nat) : (s.kvWriteLists i pages).pending = s.pending := by
  unfold State.kvWriteLists
  dsimp only
  refine (foldl_pending (fun t j => foldl_pending (fun u r => ?_) _ _) _ _).trans (by simp)
  split
  · next h => exact writeVirt_pending _ _ _ _ h
  · rfl

/-! ### Release (R303) -/

@[simp] theorem kvRelease_pending (i : Nat) : (s.kvRelease i).pending = s.pending := by
  unfold State.kvRelease
  refine (setReq_pending ..).trans ((foldl_pending (fun t x => ?_) _ _).trans (by simp))
  split <;> simp

/-! ### Rows of the table -/

@[simp] theorem execSrvKvPush_passes (via : Via) (n : JobId) (v : W64) : Passes s.pending (execSrvKvPush via n v s) := by
  simp [execSrvKvPush]

@[simp] theorem execKvListDrain_passes (via : Via) (n : JobId) (v : W64) : Passes s.pending (execKvListDrain via n v s) := by
  simp [execKvListDrain]

/-! ## Outputs, mirror copies and ends of requests (R401 to R409) -/

/-! ### Output rings (R401, R409, R419) -/

@[simp] theorem setOutRing_pending (o : Nat) (x : OutRing) : (s.setOutRing o x).pending = s.pending := rfl

@[simp] theorem reserveOut_pending (o : Nat) (n : ℤ) : (s.reserveOut o n).pending = s.pending := rfl

@[simp] theorem ringWrite_pending (o off : Nat) (bs : List Byte) : (s.ringWrite o off bs).pending = s.pending := by
  simp [State.ringWrite]

/-! ### Mirror copies (R402, R403, R544) -/

@[simp] theorem mirrorLost_pending : s.mirrorLost.pending = s.pending := rfl

@[simp] theorem mirrorRecord_pending (m job : Nat) (w0 w1 : W64) : (s.mirrorRecord m job w0 w1).pending = s.pending := by
  -- Under `Passes` the kernel compares the states as they stand and never computes where `g` lies.
  refine (passes_next s.pending _).1 ?_
  unfold State.mirrorRecord
  split
  · exact (passes_next ..).2 rfl
  · extract_lets +onlyGivenNames n g bs
    generalize ht : ({ s with serve := { s.serve with mirror := mset s.serve.mirror m (n + 1) } } : State) = t
    have hp : t.pending = s.pending := by rw [← ht]
    clear_value n g bs
    extract_lets +onlyGivenNames u
    have hu : u.pending = s.pending := hp
    clear_value u
    clear ht hp
    split
    · exact (passes_next ..).2 ((store_pending ..).trans hu)
    · split
      · next e => exact (passes_next ..).2 (pending_of_eq e ((issueRemote_pending ..).trans hu))
      · next e => exact (passes_next ..).2 ((mirrorLost_pending ..).trans (pending_of_eq e ((issueRemote_pending ..).trans hu)))
    · exact (passes_next ..).2 ((mirrorLost_pending ..).trans hu)

/-! ### Output records (R401) -/

@[simp] theorem outRecord_pending (i tok st : Nat) (last drafted : Bool) (pos : Nat) :
    (s.outRecord i tok st last drafted pos).pending = s.pending := by
  simp [State.outRecord]

/-! ### Ends (R407 to R409) -/

@[simp] theorem answerCancel_pending (q seq : Nat) (a : Option Nat) : (s.answerCancel q seq a).pending = s.pending := by
  unfold State.answerCancel
  split <;> simp

@[simp] theorem closeRequest_pending (i : Nat) (st : Status) : (s.closeRequest i st).pending = s.pending := by
  simp [State.closeRequest]

@[simp] theorem endRequest_pending (i : Nat) (st : Status) (last : Bool) : (s.endRequest i st last).pending = s.pending := by
  simp [State.endRequest]

@[simp] theorem decideEnd_pending (i : Nat) (fault : Option Status) : (s.decideEnd i fault).pending = s.pending := by
  unfold State.decideEnd
  dsimp only
  repeat' split
  all_goals simp

@[simp] theorem cancelRequest_pending (i : Nat) : (s.cancelRequest i).pending = s.pending := by simp [State.cancelRequest]

@[simp] theorem releaseShard_pending (i : Nat) : (s.releaseShard i).pending = s.pending := by
  unfold State.releaseShard
  dsimp only
  split <;> simp

/-! ### Steps of a binding (R386, R392) -/

@[simp] theorem setServeRun_pending (m : Nat) (x : ServeRun) : (s.setServeRun m x).pending = s.pending := rfl

@[simp] theorem endServe_pending (m : Nat) (x : ServeRun) (st : Status) (result detail : W64) :
    (s.endServe m x st result detail).pending = s.pending := by
  simp [State.endServe]

@[simp] theorem abandonStep_pending (m : Nat) (st : Status) (detail : W64) :
    (s.abandonStep m st detail).pending = s.pending := by
  unfold State.abandonStep
  split <;> simp

@[simp] theorem abandonAccess_pending (m n : Nat) (err : AccErr) : (s.abandonAccess m n err).pending = s.pending := by
  unfold State.abandonAccess
  split <;> simp

theorem countEmpty_pending (b n k : Nat) {t : State} (h : s.countEmpty b n k = .ok t) : t.pending = s.pending := by
  unfold State.countEmpty at h
  split at h
  · cases h
  · cases h
    refine foldl_pending (fun t i => ?_) _ _
    split <;> simp

@[simp] theorem servingEnd_pending (m : Nat) (draft : Bool) (st : Status) (detail : W64) :
    (s.servingEnd m draft st detail).pending = s.pending := by
  unfold State.servingEnd
  split
  · rfl
  · split
    · simp
    · dsimp only
      split
      · simp
      · next h => simp [countEmpty_pending _ _ _ _ h]

/-! ### Rows of the table -/

@[simp] theorem execRangeRelease_passes (e : BitVec 16) : Passes s.pending (execRangeRelease e s) := by
  simp [execRangeRelease]

@[simp] theorem outHead_pending (o v : Nat) : (s.outHead o v).pending = s.pending := by simp [State.outHead]

@[simp] theorem execSrvOutHeadWrite_passes (via : Via) (o : QId) (v : W64) :
    Passes s.pending (execSrvOutHeadWrite via o v s) := by
  simp [execSrvOutHeadWrite]

/-! ## Ring runs as the fabric sees them (R330 to R340) -/

@[simp] theorem ringSend_pending (g : Nat) (succ : Bool) (m : OutMsg) : (s.ringSend g succ m).pending = s.pending := by
  simp [State.ringSend]

@[simp] theorem ringNotice_pending (g : Nat) (succ : Bool) (cause member : Nat) :
    (s.ringNotice g succ cause member).pending = s.pending := by
  simp [State.ringNotice]

@[simp] theorem ringNotices_pending (g cause member : Nat) : (s.ringNotices g cause member).pending = s.pending := by
  simp [State.ringNotices]

@[simp] theorem ringFault_pending (x : RingRun) : (s.ringFault x).pending = s.pending := by simp [State.ringFault]

@[simp] theorem closeRing_pending (g : Nat) (x : RingRun) (st : Status) (detail : W64) :
    (s.closeRing g x st detail).pending = s.pending := by
  simp [State.closeRing]

@[simp] theorem ringCause_pending (g cause member : Nat) : (s.ringCause g cause member).pending = s.pending := rfl

end Sys2Proof.Proofs

end

section
/-! The queue of the model's own commands, continued: the fabric (R130 to R162) and what follows. -/

namespace Sys2Proof.Proofs

open Sys2Proof.Machine Sys2Proof.Laws

variable (s : State)

/-! ## The fabric (R130 to R162) -/

/-! ### Casts that run -/

@[simp] theorem setRun_pending (first : Nat) (x : CastRun) : (s.setRun first x).pending = s.pending := rfl

/-! ### Channels of the active cast -/

@[simp] theorem setChan_pending (key : Nat) (x : ChanSt) : (s.setChan key x).pending = s.pending := rfl

/-! ### Units, boxes and elements -/

@[simp] theorem setCu_pending (n : Nat) (x : CuSt) : (s.setCu n x).pending = s.pending := rfl

@[simp] theorem setMu_pending (n : Nat) (x : MuSt) : (s.setMu n x).pending = s.pending := rfl

@[simp] theorem setBox_pending (d site : Nat) (x : BoxSt) : (s.setBox d site x).pending = s.pending := rfl

@[simp] theorem setElem_pending (d site e : Nat) (x : ElemSt) : (s.setElem d site e x).pending = s.pending := rfl

/-! ### NaN records (R248 to R251) -/

@[simp] theorem nanRecord_pending (n : Nat) (record : Bool) (w : NanWhere) (e : NanEvent) (count : Nat) :
    (s.nanRecord n record w e count).pending = s.pending := by
  simp [State.nanRecord]

@[simp] theorem nanHalt_pending (n : Nat) : (s.nanHalt n).pending = s.pending := rfl

@[simp] theorem engineNan_pending (n kind : Nat) (es : List NanEvent) (cmd : Option (Nat × Nat)) :
    (s.engineNan n kind es cmd).1.pending = s.pending := by
  unfold State.engineNan
  split <;> simp

/-! ### Steps (R158, R181, R217) -/

@[simp] theorem beginStep_pending (first : Nat) (x : CastRun) : (s.beginStep first x).pending = s.pending := rfl

@[simp] theorem discardTokens_pending (c : CastRef) (halt : Bool) : (s.discardTokens c halt).pending = s.pending := rfl

@[simp] theorem countResidue_pending (x : CastRun) (c : CastRef) : (s.countResidue x c).pending = s.pending := by
  simp [State.countResidue]

@[simp] theorem slotsRest_pending (c : CastRef) : (s.slotsRest c).pending = s.pending := rfl

@[simp] theorem slotsRun_pending (c : CastRef) : (s.slotsRun c).pending = s.pending := rfl

@[simp] theorem markStop_pending (first : Nat) (st : Status) (detail : W64) :
    (s.markStop first st detail).pending = s.pending := by
  unfold State.markStop
  split <;> simp

@[simp] theorem stopConsumers_pending (x : RingRun) (st : Status) : (s.stopConsumers x st).pending = s.pending := rfl

@[simp] theorem ringsAfterCast_pending (first count : Nat) (st : Status) :
    (s.ringsAfterCast first count st).pending = s.pending := by
  simp [State.ringsAfterCast]

@[simp] theorem leaveRun_pending (x : CastRun) (st : Status) (detail : W64) : (s.leaveRun x st detail).pending = s.pending := by
  unfold State.leaveRun
  split <;> simp

@[simp] theorem endRun_pending (first : Nat) (x : CastRun) (st : Status) (detail : W64) :
    (s.endRun first x st detail).pending = s.pending := by
  simp [State.endRun]

@[simp] theorem endPaused_pending (x : CastRun) (st : Status) (detail : W64) :
    (s.endPaused x st detail).pending = s.pending := by
  simp [State.endPaused]

@[simp] theorem haltMm_pending (first : Nat) (x : CastRun) (n : Nat) : (s.haltMm first x n).pending = s.pending := by
  unfold State.haltMm
  dsimp only
  repeat' split
  all_goals simp

@[simp] theorem stopCast_pending (first : Nat) (x : CastRun) (st : Status) (detail : W64) :
    (s.stopCast first x st detail).pending = s.pending := by
  unfold State.stopCast
  split <;> simp

@[simp] theorem settleStops_pending : s.settleStops.pending = s.pending := by
  unfold State.settleStops
  dsimp only
  refine (foldl_pending (fun t y => ?_) _ _).trans (foldl_pending (fun t y => ?_) _ _)
  · split
    · split <;> simp
    · rfl
  · split
    · rfl
    · split <;> simp

@[simp] theorem runFault_pending (first : Nat) (st : Status) (detail : W64) (rank : Nat) :
    (s.runFault first st detail rank).pending = s.pending := by
  unfold State.runFault
  split <;> simp

@[simp] theorem castFault_pending (first rank code : Nat) (st : Status) (datum : W64) :
    (s.castFault first rank code st datum).pending = s.pending := by
  unfold State.castFault
  split <;> simp

@[simp] theorem castXlate_pending (first rank va reason level : Nat) (wr : Bool) :
    (s.castXlate first rank va reason level wr).pending = s.pending := by
  unfold State.castXlate
  split <;> simp

@[simp] theorem castPoisoned_pending (first : Nat) : (s.castPoisoned first).pending = s.pending := by
  unfold State.castPoisoned
  split <;> simp

@[simp] theorem castNan_pending (first : Nat) (w : NanWhere) (es : List NanEvent) :
    (s.castNan first w es).pending = s.pending := by
  unfold State.castNan
  split <;> simp

@[simp] theorem stepEnd_pending (first : Nat) (x : CastRun) : (s.stepEnd first x).pending = s.pending := by
  unfold State.stepEnd
  dsimp only
  split <;> simp

@[simp] theorem execCastStepEnd_passes (d : DaleId) : Passes s.pending (execCastStepEnd d s) := by
  unfold execCastStepEnd
  dsimp only
  repeat' split
  all_goals simp

/-! ### Spill regions (R154, R155) -/

@[simp] theorem spillWrite_pending (first n va : Nat) (bs : List Byte) (mark : Bool) :
    (s.spillWrite first n va bs mark).pending = s.pending := by
  unfold State.spillWrite
  split <;> simp

@[simp] theorem spillPut_pending (first : Nat) (x : CastRun) (key : Nat) (c : Chan) (t : Token) :
    (s.spillPut first x key c t).pending = s.pending := by
  simp [State.spillPut]

@[simp] theorem spillTake_pending (first : Nat) (x : CastRun) (key : Nat) (c : Chan) :
    (s.spillTake first x key c).1.pending = s.pending := by
  unfold State.spillTake
  dsimp only
  repeat' split
  all_goals simp

/-! ### Slots (R135 to R137, R152, R154, R156) -/

@[simp] theorem arrive_pending (d site kind port dest : Nat) (t : Token) :
    (s.arrive d site kind port dest t).pending = s.pending := by
  simp [State.arrive]

@[simp] theorem setOutPort_pending (first : Nat) (e : Endpoint) (o : OutPort) :
    (s.setOutPort first e o).pending = s.pending := by
  simp [State.setOutPort]

@[simp] theorem takeToken_pending (first : Nat) (x : CastRun) (key : Nat) (c : Chan) :
    (s.takeToken first x key c).1.pending = s.pending := by
  unfold State.takeToken
  dsimp only
  split <;> simp

@[simp] theorem noteLead_pending (d lead depth : Nat) : (s.noteLead d lead depth).pending = s.pending := by
  simp [State.noteLead]

@[simp] theorem slotSources_pending (first : Nat) (x : CastRun) (es : List (Nat × Nat × Nat × Nat)) :
    (s.slotSources first x es).1.pending = s.pending := by
  refine foldl_fst_pending (fun x e => ?_) _ _
  dsimp only
  split
  · rfl
  · split
    · rfl
    · split <;> simp

@[simp] theorem unitTransfer_pending (d site first : Nat) (x : CastRun) (tab : List W64) (next : Nat) :
    (s.unitTransfer d site first x tab next).pending = s.pending := by
  simp [State.unitTransfer]

@[simp] theorem localTarget_pending (first d site target : Nat) (t : Token) :
    (s.localTarget first d site target t).pending = s.pending := by
  unfold State.localTarget
  split <;> simp

@[simp] theorem linkOut_pending (first count : Nat) (x : CastRun) (d site dir sent : Nat) (t : Option Token) :
    (s.linkOut first count x d site dir sent t).pending = s.pending := by
  unfold State.linkOut
  split <;> simp

@[simp] theorem fireSlot_pending (d site first : Nat) (x : CastRun) (c : CastRef) :
    (s.fireSlot d site first x c).pending = s.pending := by
  unfold State.fireSlot
  extract_lets b tab es pop ins s1 z found s2 s3 s4
  have h2 : s2.pending = s.pending := by simp [s2, z, s1]
  have h3 : s3.pending = s.pending := by
    refine (foldl_pending (fun t i => ?_) _ _).trans h2
    split <;> simp
  have h4 : s4.pending = s.pending := (unitTransfer_pending ..).trans h3
  clear_value s4
  split
  · exact h4
  · dsimp only
    split <;> simp [h4]

@[simp] theorem execSlotFiring_passes (d : DaleId) (site : SiteId) : Passes s.pending (execSlotFiring d site s) := by
  unfold execSlotFiring
  split <;> simp

/-! ### Delivery and credits (R145, R146, R151, R152) -/

@[simp] theorem creditBack_pending (h : Held) : (s.creditBack h).pending = s.pending := rfl

@[simp] theorem tagFault_pending (first : Nat) (h : Held) : (s.tagFault first h).pending = s.pending := by simp [State.tagFault]

@[simp] theorem feedCu_pending (n : Nat) : (s.feedCu n).pending = s.pending := by simp [State.feedCu]

@[simp] theorem deliverCu_pending (first n : Nat) (h : Held) : (s.deliverCu first n h).pending = s.pending := by
  unfold State.deliverCu
  dsimp only
  repeat' split
  all_goals simp

@[simp] theorem deliverMu_pending (first n : Nat) (h : Held) : (s.deliverMu first n h).pending = s.pending := by
  unfold State.deliverMu
  dsimp only
  repeat' split
  all_goals simp

@[simp] theorem deliverElem_pending (first d site e : Nat) (h : Held) :
    (s.deliverElem first d site e h).pending = s.pending := by
  unfold State.deliverElem
  dsimp only
  split <;> simp

@[simp] theorem execTokenDelivery_passes (d : DaleId) (site : SiteId) (port : Fin 14) :
    Passes s.pending (execTokenDelivery d site port s) := by
  unfold execTokenDelivery
  dsimp only
  repeat' split
  all_goals simp

@[simp] theorem execCreditReturn_passes (d : DaleId) (k : Fin 4096) : Passes s.pending (execCreditReturn d k s) := by
  unfold execCreditReturn
  dsimp only
  repeat' split
  all_goals simp

/-! ### Steering (R148 to R151) -/

@[simp] theorem fireElem_pending (d site e tag : Nat) (consumed : List Held) (out : Nat) (sent : List Token) :
    (s.fireElem d site e tag consumed out sent).pending = s.pending := by
  simp [State.fireElem]

@[simp] theorem execSteer_passes (d : DaleId) (site : SiteId) (e : Fin 2) (tag : BitVec 16) :
    Passes s.pending (execSteer d site e tag s) := by
  unfold execSteer
  dsimp only
  repeat' split
  all_goals simp

@[simp] theorem execJoin_passes (d : DaleId) (site : SiteId) (e : Fin 2) (tag : BitVec 16) :
    Passes s.pending (execJoin d site e tag s) := by
  unfold execJoin
  dsimp only
  repeat' split
  all_goals simp

/-! ### Stalls and limits (R159 to R162) -/

@[simp] theorem stallEntry_pending (x : CastRun) (first time : Nat) (b : Blocked) :
    (s.stallEntry x first time b).pending = s.pending := rfl

@[simp] theorem stall_pending (first : Nat) (x : CastRun) : (s.stall first x).pending = s.pending := by simp [State.stall]

@[simp] theorem execStallLimit_passes (d : DaleId) : Passes s.pending (execStallLimit d s) := by
  unfold execStallLimit
  split <;> simp

@[simp] theorem execStepLimit_passes (d : DaleId) : Passes s.pending (execStepLimit d s) := by
  unfold execStepLimit
  split <;> simp

/-! ## The compute unit (R171 to R198) -/

/-! ### Issue (R172, R180, R189) -/

@[simp] theorem cuIssue_pending (n op : Nat) {f : State → CuOp → State} (h : KeepsEach f) :
    (s.cuIssue n op f).pending = s.pending := by
  unfold State.cuIssue
  split
  · rfl
  · split
    · exact h _ _
    · rfl

@[simp] theorem setCuTask_pending (o : CuOp) (y : TaskSt) : (s.setCuTask o y).pending = s.pending := rfl

@[simp] theorem cuGoto_pending (o : CuOp) (pc : Nat) : (s.cuGoto o pc).pending = s.pending := rfl

@[simp] theorem cuAdvance_pending (o : CuOp) : (s.cuAdvance o).pending = s.pending := rfl

@[simp] theorem cuCountVec_pending (o : CuOp) : (s.cuCountVec o).pending = s.pending := rfl

/-! ### Control flow (R263, R264) -/

@[simp] theorem cuEnd_pending (o : CuOp) : (s.cuEnd o).pending = s.pending := rfl

@[simp] theorem cuNext_pending (o : CuOp) : (s.cuNext o).pending = s.pending := by simp [State.cuNext]

@[simp] theorem cuJmp_pending (o : CuOp) : (s.cuJmp o).pending = s.pending := rfl

@[simp] theorem cuBfirst_pending (o : CuOp) : (s.cuBfirst o).pending = s.pending := by simp [State.cuBfirst]

@[simp] theorem cuSetl_pending (o : CuOp) : (s.cuSetl o).pending = s.pending := rfl

@[simp] theorem cuLoop_pending (o : CuOp) : (s.cuLoop o).pending = s.pending := by simp [State.cuLoop]

/-! ### Loads and stores of the buffer (R178, R180, R269) -/

@[simp] theorem cuLoad_pending (o : CuOp) (scales : Bool) : (s.cuLoad o scales).pending = s.pending := by simp [State.cuLoad]

@[simp] theorem cuStb_pending (o : CuOp) : (s.cuStb o).pending = s.pending := rfl

@[simp] theorem cuSts_pending (o : CuOp) : (s.cuSts o).pending = s.pending := rfl

/-! ### Accumulator banks (R182, R183) -/

@[simp] theorem cuDrain_pending (o : CuOp) : (s.cuDrain o).pending = s.pending := rfl

@[simp] theorem cuBload_pending (o : CuOp) : (s.cuBload o).pending = s.pending := rfl

/-! ### Vector instructions (R185, R186, R265, R266) -/

@[simp] theorem cuEvents_pending (o : CuOp) (es : List (Nat × NanEvent)) : (s.cuEvents o es).pending = s.pending := by
  unfold State.cuEvents
  split <;> simp

@[simp] theorem cuLanes_pending (o : CuOp) (srcs : Nat) (f : W32 → W32 → W32 → W32) :
    (s.cuLanes o srcs f).pending = s.pending := by
  simp [State.cuLanes]

@[simp] theorem cuCmp_pending (o : CuOp) : (s.cuCmp o).pending = s.pending := by simp [State.cuCmp]

@[simp] theorem cuSel_pending (o : CuOp) : (s.cuSel o).pending = s.pending := by simp [State.cuSel]

@[simp] theorem cuRed_pending (o : CuOp) : (s.cuRed o).pending = s.pending := by simp [State.cuRed]

@[simp] theorem cuRowsum_pending (o : CuOp) : (s.cuRowsum o).pending = s.pending := by simp [State.cuRowsum]

/-! ### Conversions (R244 to R247, R267) -/

@[simp] theorem cvtNarrow_pending (o : CuOp) : (s.cvtNarrow o).pending = s.pending := by simp [State.cvtNarrow]

@[simp] theorem cvtWiden_pending (o : CuOp) : (s.cvtWiden o).pending = s.pending := by simp [State.cvtWiden]

@[simp] theorem cuCvt_pending (o : CuOp) : (s.cuCvt o).pending = s.pending := by simp [State.cuCvt]

/-! ### MOV, MOVI and SEND (R187, R266, R269) -/

@[simp] theorem cuMov_pending (o : CuOp) : (s.cuMov o).pending = s.pending := by simp [State.cuMov]

@[simp] theorem cuMovi_pending (o : CuOp) : (s.cuMovi o).pending = s.pending := rfl

@[simp] theorem cuSend_pending (o : CuOp) : (s.cuSend o).pending = s.pending := by simp [State.cuSend]

/-! ### The matrix engine (R173 to R183, R238 to R243) -/

@[simp] theorem mmDone_pending (first : Nat) (run : CastRun) (n : Nat) (m : MmSt) :
    (s.mmDone first run n m).pending = s.pending := by
  unfold State.mmDone
  dsimp only
  split <;> simp

@[simp] theorem cuMm_pending (o : CuOp) : (s.cuMm o).pending = s.pending := by simp [State.cuMm]

/-! ### The commands -/

@[simp] theorem taskSwitch_pending (n : Nat) : (s.taskSwitch n).pending = s.pending := by
  unfold State.taskSwitch
  dsimp only
  split <;> simp

@[simp] theorem execTaskSwitch_passes (cu : UnitId) : Passes s.pending (execTaskSwitch cu s) := by
  simp [execTaskSwitch]

@[simp] theorem execCuEnd_passes (cu : UnitId) : Passes s.pending (execCuEnd cu s) := by
  simp [execCuEnd]

@[simp] theorem execCuNext_passes (cu : UnitId) : Passes s.pending (execCuNext cu s) := by
  simp [execCuNext]

@[simp] theorem execCuJmp_passes (cu : UnitId) : Passes s.pending (execCuJmp cu s) := by
  simp [execCuJmp]

@[simp] theorem execCuBfirst_passes (cu : UnitId) : Passes s.pending (execCuBfirst cu s) := by
  simp [execCuBfirst]

@[simp] theorem execCuSetl_passes (cu : UnitId) : Passes s.pending (execCuSetl cu s) := by
  simp [execCuSetl]

@[simp] theorem execCuLoop_passes (cu : UnitId) : Passes s.pending (execCuLoop cu s) := by
  simp [execCuLoop]

@[simp] theorem execCuMm_passes (cu : UnitId) : Passes s.pending (execCuMm cu s) := by
  simp [execCuMm]

@[simp] theorem execMmComplete_passes (cu : UnitId) : Passes s.pending (execMmComplete cu s) := by
  unfold execMmComplete
  split <;> simp

@[simp] theorem execCuLdb_passes (cu : UnitId) : Passes s.pending (execCuLdb cu s) := by
  simp [execCuLdb]

@[simp] theorem execCuLds_passes (cu : UnitId) : Passes s.pending (execCuLds cu s) := by
  simp [execCuLds]

@[simp] theorem execCuStb_passes (cu : UnitId) : Passes s.pending (execCuStb cu s) := by
  simp [execCuStb]

@[simp] theorem execCuSts_passes (cu : UnitId) : Passes s.pending (execCuSts cu s) := by
  simp [execCuSts]

@[simp] theorem execCuDrain_passes (cu : UnitId) : Passes s.pending (execCuDrain cu s) := by
  simp [execCuDrain]

@[simp] theorem execCuBload_passes (cu : UnitId) : Passes s.pending (execCuBload cu s) := by
  simp [execCuBload]

@[simp] theorem execCuAdd_passes (cu : UnitId) : Passes s.pending (execCuAdd cu s) := by
  simp [execCuAdd]

@[simp] theorem execCuMul_passes (cu : UnitId) : Passes s.pending (execCuMul cu s) := by
  simp [execCuMul]

@[simp] theorem execCuFma_passes (cu : UnitId) : Passes s.pending (execCuFma cu s) := by
  simp [execCuFma]

@[simp] theorem execCuExp2_passes (cu : UnitId) : Passes s.pending (execCuExp2 cu s) := by
  simp [execCuExp2]

@[simp] theorem execCuRcp_passes (cu : UnitId) : Passes s.pending (execCuRcp cu s) := by
  simp [execCuRcp]

@[simp] theorem execCuRsqrt_passes (cu : UnitId) : Passes s.pending (execCuRsqrt cu s) := by
  simp [execCuRsqrt]

@[simp] theorem execCuMax_passes (cu : UnitId) : Passes s.pending (execCuMax cu s) := by
  simp [execCuMax]

@[simp] theorem execCuCmp_passes (cu : UnitId) : Passes s.pending (execCuCmp cu s) := by
  simp [execCuCmp]

@[simp] theorem execCuSel_passes (cu : UnitId) : Passes s.pending (execCuSel cu s) := by
  simp [execCuSel]

@[simp] theorem execCuCvt_passes (cu : UnitId) : Passes s.pending (execCuCvt cu s) := by
  simp [execCuCvt]

@[simp] theorem execCuRed_passes (cu : UnitId) : Passes s.pending (execCuRed cu s) := by
  simp [execCuRed]

@[simp] theorem execCuRowsum_passes (cu : UnitId) : Passes s.pending (execCuRowsum cu s) := by
  simp [execCuRowsum]

@[simp] theorem execCuMov_passes (cu : UnitId) : Passes s.pending (execCuMov cu s) := by
  simp [execCuMov]

@[simp] theorem execCuMovi_passes (cu : UnitId) : Passes s.pending (execCuMovi cu s) := by
  simp [execCuMovi]

@[simp] theorem execCuSend_passes (cu : UnitId) : Passes s.pending (execCuSend cu s) := by
  simp [execCuSend]

/-! ## The memory unit (R199 to R231) -/

/-! ### Slot rings (R214, R215) -/

/-- Stores one after another, each with its address, bytes and mark by number. -/
theorem storeEach_pending (l : List Nat) (a : Nat → Nat) (bs : Nat → List Byte) (mark : Nat → Bool) :
    (l.foldl (fun t i => t.store (a i) (bs i) (mark i)) s).pending = s.pending :=
  foldl_pending (fun _ _ => store_pending ..) l s

/-! ### Generators -/

@[simp] theorem setAg_pending (o : AgOp) (g : AgSt) : (s.setAg o g).pending = s.pending := rfl

@[simp] theorem agWait_pending (o : AgOp) (code : Nat) : (s.agWait o code).pending = s.pending := rfl

@[simp] theorem setAgGo_pending (o : AgOp) (g : AgSt) : (s.setAgGo o g).pending = s.pending := rfl

@[simp] theorem agIssue_pending (n a op : Nat) {f : State → AgOp → State} (h : KeepsEach f) :
    (s.agIssue n a op f).pending = s.pending := by
  unfold State.agIssue
  split
  · rfl
  · dsimp only
    split
    · rfl
    · exact h _ _

@[simp] theorem setRing_pending (n r : Nat) (p : RingPtr) : (s.setRing n r p).pending = s.pending := rfl

@[simp] theorem footprintFault_pending (o : AgOp) (a : ℤ) : (s.footprintFault o a).pending = s.pending := by
  simp [State.footprintFault]

@[simp] theorem putLine_pending (a bits new : Nat) (mark : Bool) : (s.putLine a bits new mark).pending = s.pending := by
  simp [State.putLine]

@[simp] theorem takeLine_pending (a : Nat) : (s.takeLine a).1.pending = s.pending := by simp [State.takeLine]

/-! ### AFF_READ (R208, R212, R274) -/

@[simp] theorem muSend_pending (n port : Nat) (t : Token) : (s.muSend n port t).pending = s.pending := rfl

@[simp] theorem readLine_pending (o : AgOp) (start : Nat) : (s.readLine o start).pending = s.pending := by
  unfold State.readLine
  split <;> simp

@[simp] theorem affRead_pending (o : AgOp) : (s.affRead o).pending = s.pending := by
  unfold State.affRead
  split <;> simp

/-! ### AFF_WRITE and AFF_ADD (R209, R212, R219, R274) -/

@[simp] theorem placeToken_pending (o : AgOp) (add : Bool) (start k : Nat) (h : Held) :
    (s.placeToken o add start k h).pending = s.pending := by
  unfold State.placeToken
  extract_lets g ls per j is bits a g1 z g2 x s1 s2 s3 pc s4 at_ l v s5
  have h3 : s3.pending = s.pending := by
    dsimp only [s3]
    split <;> simp [s2, s1]
  have h4 : s4.pending = s.pending := (setAgGo_pending ..).trans h3
  clear_value s4
  split
  · simp [h4]
  · split
    · simp [h4]
    · split
      · simp [h4]
      · split <;> simp [s5, l, h4]

@[simp] theorem affWrite_pending (o : AgOp) (add : Bool) : (s.affWrite o add).pending = s.pending := by
  unfold State.affWrite
  dsimp only
  repeat' split
  all_goals simp

/-! ### List streams (R210, R275) -/

@[simp] theorem listBad_pending (o : AgOp) (va lines : Nat) : (s.listBad o va lines).1.pending = s.pending := by
  simp [State.listBad]

@[simp] theorem listError_pending (o : AgOp) (va : Nat) (e : AccErr) (lines : Nat) :
    (s.listError o va e lines).1.pending = s.pending := by
  unfold State.listError
  split <;> simp

@[simp] theorem muAccess_pending (o : AgOp) (va len : Nat) (wr : Bool) : (s.muAccess o va len wr).pending = s.pending := by
  simp [State.muAccess]

@[simp] theorem listEntry_pending (o : AgOp) (wr : Bool) : (s.listEntry o wr).1.pending = s.pending := by
  unfold State.listEntry
  dsimp only
  repeat' split
  all_goals simp

@[simp] theorem listNext_pending (o : AgOp) (lines : Nat) : (s.listNext o lines).pending = s.pending := rfl

@[simp] theorem listRefused_pending (o : AgOp) (st : Status) : (s.listRefused o st).pending = s.pending := by
  unfold State.listRefused
  split <;> simp

@[simp] theorem listBegin_pending (o : AgOp) (wr : Bool) : (s.listBegin o wr).pending = s.pending := by
  unfold State.listBegin
  split
  · next e => exact pending_of_eq e (listEntry_pending ..)
  · next e => simp [pending_of_eq e (listEntry_pending ..)]
  · next e =>
    dsimp only
    split
    · simp [pending_of_eq e (listEntry_pending ..)]
    · split <;> simp [pending_of_eq e (listEntry_pending ..)]

@[simp] theorem fillLines_pending (o : AgOp) (a : Nat) (bs : List Byte) (marks : List Nat) (from_ : Nat) :
    (s.fillLines o a bs marks from_).pending = s.pending := by
  simp [State.fillLines]

@[simp] theorem fetchPart_pending (o : AgOp) (e : Entry) : (s.fetchPart o e).pending = s.pending := by
  unfold State.fetchPart
  split <;> simp

@[simp] theorem listFetch_pending (o : AgOp) : (s.listFetch o).pending = s.pending := by
  unfold State.listFetch
  dsimp only
  repeat' split
  all_goals simp

@[simp] theorem drainLines_pending (o : AgOp) (a n : Nat) : (s.drainLines o a n).1.pending = s.pending := by
  simp [State.drainLines]

@[simp] theorem scatter_pending (n : Nat) (e : Entry) (from_ : Nat) (bs : List Byte) (marks : List Nat) :
    (s.scatter n e from_ bs marks).pending = s.pending := by
  simp [State.scatter]

@[simp] theorem storeSend_pending (o : AgOp) (e : Entry) : (s.storeSend o e).pending = s.pending := by
  unfold State.storeSend
  dsimp only
  split <;> simp

@[simp] theorem storePart_pending (o : AgOp) (e : Entry) : (s.storePart o e).pending = s.pending := by
  unfold State.storePart
  split <;> simp

@[simp] theorem listStore_pending (o : AgOp) : (s.listStore o).pending = s.pending := by
  unfold State.listStore
  dsimp only
  repeat' split
  all_goals simp

/-! ### SYNC, END and the scrub (R276, R202) -/

@[simp] theorem muSync_pending (o : AgOp) : (s.muSync o).pending = s.pending := by simp [State.muSync]

@[simp] theorem muEnd_pending (o : AgOp) : (s.muEnd o).pending = s.pending := rfl

@[simp] theorem execAffRead_passes (mu : UnitId) (a : Fin 4) : Passes s.pending (execAffRead mu a s) := by
  simp [execAffRead]

@[simp] theorem execAffWrite_passes (mu : UnitId) (a : Fin 4) : Passes s.pending (execAffWrite mu a s) := by
  simp [execAffWrite]

@[simp] theorem execAffAdd_passes (mu : UnitId) (a : Fin 4) : Passes s.pending (execAffAdd mu a s) := by
  simp [execAffAdd]

@[simp] theorem execListFetch_passes (mu : UnitId) (a : Fin 4) : Passes s.pending (execListFetch mu a s) := by
  simp [execListFetch]

@[simp] theorem execListStore_passes (mu : UnitId) (a : Fin 4) : Passes s.pending (execListStore mu a s) := by
  simp [execListStore]

@[simp] theorem execMuSync_passes (mu : UnitId) (a : Fin 4) : Passes s.pending (execMuSync mu a s) := by
  simp [execMuSync]

@[simp] theorem execAgEnd_passes (mu : UnitId) (a : Fin 4) : Passes s.pending (execAgEnd mu a s) := by
  simp [execAgEnd]

@[simp] theorem execPatrolScrub_passes (mu : UnitId) (line : Nat) (outcome : Fin 3) :
    Passes s.pending (execPatrolScrub mu line outcome s) := by
  simp [execPatrolScrub]

/-! ## Casts (R110 to R119) -/

/-! ### Slots -/

@[simp] theorem dropCasts_pending : s.dropCasts.pending = s.pending := rfl

@[simp] theorem setStandby_pending (ds : List Nat) (x : DaleSlot) : (s.setStandby ds x).pending = s.pending := rfl

@[simp] theorem setActive_pending (ds : List Nat) (x : DaleSlot) : (s.setActive ds x).pending = s.pending := rfl

@[simp] theorem refreshSaddle_pending (became : Bool) : (s.refreshSaddle became).pending = s.pending := by
  simp [State.refreshSaddle]

@[simp] theorem evictActive_pending (ds : List Nat) : (s.evictActive ds).pending = s.pending := rfl

/-! ### The hot set (R117, R118) -/

@[simp] theorem refreshHot_pending : s.refreshHot.pending = s.pending := rfl

@[simp] theorem setHot_pending (h : SMap HotImage) : (s.setHot h).pending = s.pending := rfl

@[simp] theorem hotEvict_pending (e : Nat) : (s.hotEvict e).pending = s.pending := rfl

@[simp] theorem hotMakeRoom_pending (fuel frames : Nat) : (State.hotMakeRoom fuel s frames).pending = s.pending := by
  induction fuel generalizing s with
  | zero => rfl
  | succ n ih =>
    unfold State.hotMakeRoom
    split
    · rfl
    · split <;> simp [ih]

@[simp] theorem hotWrite_pending (x : HotImage) (img : List Byte) (marks : List Nat) :
    (s.hotWrite x img marks).pending = s.pending := by
  unfold State.hotWrite
  exact storeEach_pending ..

@[simp] theorem hotUse_pending (e : Nat) (pin : Option Nat) : (s.hotUse e pin).pending = s.pending := rfl

/-! ### CAST_STAGE (R113) -/

@[simp] theorem hotStart_pending (n : Nat) (r : Rec) (h : List W64) : (s.hotStart n r h).1.pending = s.pending := by
  simp [State.hotStart]

@[simp] theorem beginStage_pending (q seq : Nat) (r : Rec) (h : List W64) : (s.beginStage q seq r h).pending = s.pending := by
  unfold State.beginStage
  dsimp only
  split <;> simp

@[simp] theorem stageDrop_pending (x : Staging) : (s.stageDrop x).pending = s.pending := by simp [State.stageDrop]

@[simp] theorem stageFail_pending (x : Staging) (st : Status) (result detail : W64) :
    (s.stageFail x st result detail).pending = s.pending := by
  simp [State.stageFail]

theorem stageReads_pending (q seq n va len : Nat) {t : State} {o : Option Status} (h : s.stageReads q seq n va len = .ok
    (t, o)) :
    t.pending = s.pending := by
  unfold State.stageReads at h
  split at h
  · cases h
  · have e : State.requestAll (fun s p => s.requestRead (moverIssuer q seq) n p) (s.moverAccess q n va len false) _ = (t, o) :=
      Except.ok.inj h
    exact pending_of_eq e (by simp)

@[simp] theorem stageStep_pending (q seq : Nat) : (s.stageStep q seq).pending = s.pending := by
  unfold State.stageStep
  dsimp only
  repeat' split
  all_goals simp

@[simp] theorem runStage_pending (q seq : Nat) (r : Rec) : (s.runStage q seq r).pending = s.pending := by
  unfold State.runStage
  split
  · simp
  · next h => simp [stageReads_pending _ _ _ _ _ _ h]
  · next h => simp [stageReads_pending _ _ _ _ _ _ h]

@[simp] theorem specCastStage_keeps : KeepsSpec specCastStage := keepsSpec_of (by simp [specCastStage, CmdSpec.plain]) rfl

@[simp] theorem execCastStage_passes (q : QId) : Passes s.pending (execCastStage q s) := by
  simp [execCastStage]

@[simp] theorem writePreload_pending (c : CastRef) (img : List Byte) (marks : List Nat) :
    (s.writePreload c img marks).pending = s.pending := by
  unfold State.writePreload
  dsimp only
  exact (foldl_pending (fun t r => foldl_pending (fun u p => foldl_pending (fun v i => store_pending ..) _ _) _ _) _ _).trans (by simp)

@[simp] theorem stageDone_pending (x : Staging) (c : CastRef) (img : List Byte) (marks : List Nat) (l : Loaded) :
    (s.stageDone x c img marks l).pending = s.pending := by
  unfold State.stageDone
  dsimp only
  repeat' split
  all_goals simp

@[simp] theorem stageImage_pending (x : Staging) : (s.stageImage x).pending = s.pending := by
  unfold State.stageImage
  dsimp only
  repeat' split
  all_goals simp

@[simp] theorem execCastStageComplete_passes (d : DaleId) : Passes s.pending (execCastStageComplete d s) := by
  unfold execCastStageComplete
  split <;> simp

/-! ### CAST_SWITCH (R114) -/

@[simp] theorem swapSlots_pending (first count k : Nat) : (s.swapSlots first count k).pending = s.pending := by
  simp [State.swapSlots]

theorem latePreload_pending (first k : Nat) {t : State} (h : s.latePreload first k = .ok t) : t.pending = s.pending := by
  unfold State.latePreload at h
  split at h
  · dsimp only at h
    split at h <;> cases h
    simp
  · cases h
    rfl

@[simp] theorem switchNow_pending (q seq first count : Nat) : (s.switchNow q seq first count).pending = s.pending := by
  unfold State.switchNow
  split
  · simp
  · split
    · simp
    · next h => simp [latePreload_pending _ _ _ h]

@[simp] theorem setTx_pending (t : Tx) : (s.setTx t).pending = s.pending := rfl

@[simp] theorem applyStaged_pending (cs : List StagedCast) : (s.applyStaged cs).pending = s.pending := by
  refine foldl_pending (fun t c => ?_) _ _
  dsimp only
  split
  · simp
  · split <;> simp

@[simp] theorem stageCast_pending (q seq : Nat) (r : Rec) (evict : Bool) : (s.stageCast q seq r evict).pending = s.pending := by
  unfold State.stageCast
  split <;> simp

@[simp] theorem runSwitch_pending (q seq : Nat) (r : Rec) : (s.runSwitch q seq r).pending = s.pending := by
  unfold State.runSwitch
  split
  · simp
  · split
    · simp
    · dsimp only
      split
      · split
        · simp
        · next h => simp [stageReads_pending _ _ _ _ _ _ h]
        · next h => exact stageReads_pending _ _ _ _ _ _ h
      · rfl

@[simp] theorem specCastSwitch_keeps : KeepsSpec specCastSwitch := keepsSpec_of (by simp [specCastSwitch, CmdSpec.plain]) rfl

@[simp] theorem execCastSwitch_passes (q : QId) : Passes s.pending (execCastSwitch q s) := by
  simp [execCastSwitch]

@[simp] theorem execCastSwap_passes (d : DaleId) : Passes s.pending (execCastSwap d s) := by
  unfold execCastSwap
  split <;> simp

/-! ### CAST_RUN (R111, R115, R155, R218) -/

@[simp] theorem startRun_pending (owner : RunOwner) (n k total : Nat) (ds : List Binding) :
    (s.startRun owner n k total ds).pending = s.pending := rfl

@[simp] theorem takeCastTurn_pending (q : Nat) : (s.takeCastTurn q).pending = s.pending := rfl

@[simp] theorem runRun_pending (q seq : Nat) (r : Rec) : (s.runRun q seq r).pending = s.pending := by
  unfold State.runRun
  dsimp only
  repeat' split
  all_goals simp

@[simp] theorem specCastRun_keeps : KeepsSpec specCastRun := keepsSpec_of (by simp [specCastRun, CmdSpec.plain]) rfl

@[simp] theorem execCastRun_passes (q : QId) : Passes s.pending (execCastRun q s) := by
  simp [execCastRun]

/-! ### CAST_EVICT (R52, R115) and zeroing (R116) -/

@[simp] theorem evictStandby_pending (ds : List Nat) : (s.evictStandby ds).pending = s.pending := by simp [State.evictStandby]

@[simp] theorem runEvict_pending (q seq : Nat) (r : Rec) : (s.runEvict q seq r).pending = s.pending := by
  unfold State.runEvict
  repeat' split
  all_goals simp

@[simp] theorem specCastEvict_keeps : KeepsSpec specCastEvict := keepsSpec_of (by simp [specCastEvict, CmdSpec.plain]) rfl

@[simp] theorem execCastEvict_passes (q : QId) : Passes s.pending (execCastEvict q s) := by
  simp [execCastEvict]

@[simp] theorem moveDale_pending (d : Nat) : (s.moveDale d).pending = s.pending := by simp [State.moveDale]

@[simp] theorem execDaleZeroingComplete_passes (d : DaleId) : Passes s.pending (execDaleZeroingComplete d s) := by
  simp [execDaleZeroingComplete]

end Sys2Proof.Proofs

end

section
/-! The queue of the model's own commands, continued: request serving (R382 to R413) and what follows. -/

namespace Sys2Proof.Proofs

open Sys2Proof.Machine Sys2Proof.Laws

variable (s : State)

/-! ## Request serving (R382 to R413) -/

/-! ### REQ_ADMIT (R290, R383) -/

theorem admitEarly_pending (q : Nat) (r : Rec) {t : State} (h : admitEarly s q r = .ok t) : t.pending = s.pending := by
  unfold admitEarly at h
  dsimp only at h
  split at h
  · cases h
  · split at h <;> cases h
    rfl

theorem serveWrite_pending (n va : Nat) (bs : List Byte) (mark : Bool) {t : State} (h : s.serveWrite n va bs mark = .ok t) :
    t.pending = s.pending := by
  unfold State.serveWrite at h
  split at h
  · cases h
  · split at h <;> cases h
    simp

@[simp] theorem runAdmit_pending (q seq : Nat) (r : Rec) : (s.runAdmit q seq r).pending = s.pending := by
  unfold State.runAdmit
  dsimp only
  split
  · simp
  · split
    · simp
    · simp
    · next h => simp [serveWrite_pending _ _ _ _ _ h]

theorem admitEarly_stop_pending (q : Nat) (r : Rec) {t : State} {d : Status × W64} (h : admitEarly s q r = .error (t, d)) :
    t.pending = s.pending := by
  unfold admitEarly at h
  dsimp only at h
  split at h
  · cases h
    simp
  · split at h <;> cases h
    rfl

@[simp] theorem specReqAdmit_keeps : KeepsSpec specReqAdmit := {
  run := fun s q seq r => runAdmit_pending s q seq r
  goes := fun s q r _ h => admitEarly_pending s q r h
  stops := fun s q r _ _ h => admitEarly_stop_pending s q r h }

@[simp] theorem execReqAdmit_passes (q : QId) : Passes s.pending (execReqAdmit q s) := by
  simp [execReqAdmit]

/-! ### REQ_QUERY and REQ_CANCEL (R384, R407) -/

@[simp] theorem runQuery_pending (q seq : Nat) (r : Rec) : (s.runQuery q seq r).pending = s.pending := by
  unfold State.runQuery
  dsimp only
  split
  · simp
  · split
    · simp
    · simp
    · next h => simp [serveWrite_pending _ _ _ _ _ h]

@[simp] theorem specReqQuery_keeps : KeepsSpec specReqQuery := keepsSpec_of (by simp [specReqQuery, CmdSpec.plain]) rfl

@[simp] theorem execReqQuery_passes (q : QId) : Passes s.pending (execReqQuery q s) := by
  simp [execReqQuery]

@[simp] theorem runCancel_pending (q seq : Nat) (r : Rec) : (s.runCancel q seq r).pending = s.pending := by
  simp [State.runCancel]

@[simp] theorem specReqCancel_keeps : KeepsSpec specReqCancel := keepsSpec_of (by simp [specReqCancel, CmdSpec.plain]) rfl

@[simp] theorem execReqCancel_passes (q : QId) : Passes s.pending (execReqCancel q s) := by
  simp [execReqCancel]

/-! ### SERVE_START and STOP (R385, R413) -/

@[simp] theorem runServe_pending (q seq : Nat) (r : Rec) : (s.runServe q seq r).pending = s.pending := rfl

@[simp] theorem specServeStart_keeps : KeepsSpec specServeStart := keepsSpec_of (by simp [specServeStart, CmdSpec.plain]) rfl

@[simp] theorem execServeStart_passes (q : QId) : Passes s.pending (execServeStart q s) := by
  simp [execServeStart]

@[simp] theorem stopServe_pending (m : Nat) : (s.stopServe m).pending = s.pending := by
  unfold State.stopServe
  split <;> simp

@[simp] theorem execStop_passes (via : Via) (m : BindId) : Passes s.pending (execStop via m s) := by
  simp [execStop]

@[simp] theorem promoteBinding_pending (m : Nat) : (s.promoteBinding m).pending = s.pending := rfl

@[simp] theorem execPromote_passes (via : Via) (m : BindId) : Passes s.pending (execPromote via m s) := by
  simp [execPromote]

/-! ### Forming the batch (R389 to R391) -/

@[simp] theorem leaveOut_pending (i : Nat) (c : Field) (f : Forming) : (s.leaveOut i c f).1.pending = s.pending := by
  simp [State.leaveOut]

@[simp] theorem tryCandidate_pending (cmd : Option (Nat × Nat)) (maxReqs chunk : Nat) (a : State × Forming) (i : Nat) :
    (State.tryCandidate cmd maxReqs chunk a i).1.pending = a.1.pending := by
  unfold State.tryCandidate
  dsimp only
  split
  · rfl
  · split
    · rfl
    · split
      · simp
      · split
        · next e => simp [pending_of_eq e (kvGrow_pending ..)]
        · next e => simp [pending_of_eq e (kvGrow_pending ..)]
        · next e => simp [pending_of_eq e (kvGrow_pending ..)]

@[simp] theorem formBatch_pending (m : Nat) (cmd : Option (Nat × Nat)) : (s.formBatch m cmd).1.pending = s.pending := by
  simp [State.formBatch]

/-! ### The step batch (R387, R388) -/

theorem writeBatch_pending (b n number pass : Nat) (rows : List BatchRow) {t : State}
    (h : s.writeBatch b n number pass rows = .ok t) :
    t.pending = s.pending := by
  unfold State.writeBatch at h
  dsimp only at h
  split at h
  · cases h
  · next u hu =>
    have hs := serveWrite_pending _ _ _ _ _ hu
    refine List.foldlRecOn (motive := fun a : Except (Option AccErr) State => ∀ v, a = .ok v → v.pending = s.pending) rows _
      (fun v hv => by cases hv; exact hs) (fun a ha x _ v hv => ?_) t h
    split at hv
    · cases hv
    · next w =>
      split at hv
      · cases hv
        exact ha _ rfl
      · exact (serveWrite_pending _ _ _ _ _ hv).trans (ha _ rfl)

@[simp] theorem abandonWrite_pending (m n : Nat) (e : Option AccErr) : (s.abandonWrite m n e).pending = s.pending := by
  unfold State.abandonWrite
  split <;> simp

theorem writeTarget_pending (m : Nat) (x : ServeRun) {t : State} (h : s.writeTarget m x = .ok t) : t.pending = s.pending := by
  unfold State.writeTarget at h
  split at h
  · cases h
  · exact writeBatch_pending _ _ _ _ _ _ h

@[simp] theorem execBatchFormation_passes (m : BindId) : Passes s.pending (execBatchFormation m s) := by
  unfold execBatchFormation
  split
  · simp
  · split
    · simp
    · split
      · simp
      · dsimp only
        split
        · simp
        · split
          · simp
          · next h => simp [writeTarget_pending _ _ _ h]

/-! ### Cast steps of a serving step (R385, R386) -/

@[simp] theorem startCast_pending (m b : Nat) (x : ServeRun) (views : Nat) : (s.startCast m b x views).pending = s.pending := by
  unfold State.startCast
  dsimp only
  repeat' split
  all_goals simp

/-! ### The sampler (R386, R393 to R398) -/

@[simp] theorem sampleRow_pending (b row i : Nat) (extra : List Nat) (cmd : Option (Nat × Nat)) :
    (s.sampleRow b row i extra cmd).1.pending = s.pending := by
  unfold State.sampleRow
  dsimp only
  split
  · simp
  · simp
  · split
    · simp
    · split
      · next e => exact pending_of_eq e (engineNan_pending ..)
      · next e => simp [pending_of_eq e (engineNan_pending ..)]

@[simp] theorem sampleRows_pending (b i : Nat) (extra : List Nat) (cmd : Option (Nat × Nat)) (k : Nat) (props rows : List Nat) :
    (s.sampleRows b i extra cmd k props rows).1.pending = s.pending := by
  induction rows generalizing s k with
  | nil => rfl
  | cons row rows ih =>
    unfold State.sampleRows
    split
    · next e =>
      have ht := pending_of_eq e (sampleRow_pending ..)
      split
      · next e' => exact (pending_of_eq e' (ih _ _)).trans ht
      · exact (ih _ _).trans ht
    · next e => exact pending_of_eq e (sampleRow_pending ..)

@[simp] theorem askSorter_pending (m need : Nat) : (s.askSorter m need).1.pending = s.pending := by simp [State.askSorter]

@[simp] theorem propose_pending (b j : Nat) (cmd : Option (Nat × Nat)) (xs : List Item) :
    (s.propose b j cmd xs).1.pending = s.pending := by
  induction xs generalizing s with
  | nil => rfl
  | cons x xs ih =>
    unfold State.propose
    extract_lets e u r
    have hr : r.1.pending = s.pending := by
      dsimp only [r]
      split
      · split
        · next e => exact pending_of_eq e (sampleRow_pending ..)
        · next e => exact pending_of_eq e (sampleRow_pending ..)
        · next e => exact pending_of_eq e (sampleRow_pending ..)
      · rfl
    clear_value r
    split
    · exact hr
    · split
      · next e => exact (pending_of_eq e (ih _)).trans hr
      · exact (ih _).trans hr

@[simp] theorem sampleItems_pending (m : Nat) (cmd : Option (Nat × Nat)) (xs : List Item) :
    (s.sampleItems m cmd xs).1.pending = s.pending := by
  induction xs generalizing s with
  | nil => rfl
  | cons x xs ih =>
    unfold State.sampleItems
    extract_lets e samples rows extra pos r
    have hr : r.1.pending = s.pending := by
      dsimp only [r]
      split
      · split
        · next e => exact pending_of_eq e (sampleRows_pending ..)
        · next e => exact pending_of_eq e (sampleRows_pending ..)
        · next e => exact pending_of_eq e (sampleRows_pending ..)
        · next e => exact pending_of_eq e (sampleRows_pending ..)
      · rfl
    clear_value r
    split
    · exact hr
    · split
      · next e => exact (pending_of_eq e (ih _)).trans hr
      · exact (ih _).trans hr

@[simp] theorem beginDraft_pending (m : Nat) (x : ServeRun) : (s.beginDraft m x).pending = s.pending := by
  unfold State.beginDraft
  dsimp only
  split
  · simp
  · split
    · rfl
    · split
      · simp
      · split
        · simp
        · next h => simp [writeBatch_pending _ _ _ _ _ _ h]

@[simp] theorem execDraftPass_passes (m : BindId) : Passes s.pending (execDraftPass m s) := by
  unfold execDraftPass
  split
  · simp
  · split
    · simp
    · split
      · simp
      · split
        · simp
        · split
          · next e => simpa using pending_of_eq e (askSorter_pending ..)
          · next e =>
            have ht := pending_of_eq e (askSorter_pending ..)
            split
            · next e' => simp [pending_of_eq e' (propose_pending ..), ht]
            · next e' =>
              dsimp only
              split <;> simp [pending_of_eq e' (propose_pending ..), ht]

@[simp] theorem beginTarget_pending (m : Nat) (x : ServeRun) : (s.beginTarget m x).pending = s.pending := by
  unfold State.beginTarget
  dsimp only
  split
  · rfl
  · split
    · simp
    · next h => simp [writeTarget_pending _ _ _ h]

@[simp] theorem execSamplerPass_passes (m : BindId) : Passes s.pending (execSamplerPass m s) := by
  unfold execSamplerPass
  split
  · simp
  · split
    · simp
    · split
      · simp
      · split
        · simp
        · split
          · simp
          · split
            · next e => simpa using pending_of_eq e (askSorter_pending ..)
            · next e =>
              have ht := pending_of_eq e (askSorter_pending ..)
              split
              · next e' => simp [pending_of_eq e' (sampleItems_pending ..), ht]
              · next e' => simp [pending_of_eq e' (sampleItems_pending ..), ht]

/-! ### The commit point (R399 to R401, R406, R408) -/

@[simp] theorem markDeadlines_pending (m : Nat) : (s.markDeadlines m).pending = s.pending := by simp [State.markDeadlines]

@[simp] theorem countTokens_pending (i : Nat) (ids : List Nat) (cmd : Option (Nat × Nat)) :
    (s.countTokens i ids cmd).pending = s.pending := by
  unfold State.countTokens
  dsimp only
  split
  · rfl
  · split
    · simp
    · split
      · next h => rw [serveWrite_pending _ _ _ _ _ h]; split <;> simp
      · split <;> simp
      · split <;> simp

@[simp] theorem writeTokens_pending (i acc st : Nat) (hit : Bool) (j pos : Nat) (ts : List Nat) :
    (s.writeTokens i acc st hit j pos ts).pending = s.pending := by
  induction ts generalizing s j pos with
  | nil => rfl
  | cons t ts ih => simp [State.writeTokens, ih]

@[simp] theorem remember_pending (i : Nat) (new : List (Nat × Nat)) : (s.remember i new).pending = s.pending := rfl

@[simp] theorem commitRows_pending (x : Item) (drafted : Bool) (cmd : Option (Nat × Nat)) :
    (s.commitRows x drafted cmd).pending = s.pending := by
  simp [State.commitRows]

@[simp] theorem commitTokens_pending (x : Item) (cmd : Option (Nat × Nat)) : (s.commitTokens x cmd).1.pending = s.pending := by
  simp [State.commitTokens]

@[simp] theorem commitItem_pending (drafted : Bool) (cmd : Option (Nat × Nat)) (x : Item) :
    (s.commitItem drafted cmd x).pending = s.pending := by
  unfold State.commitItem
  repeat' split
  all_goals simp

@[simp] theorem raiseRings_pending (old : State) : (s.raiseRings old).pending = s.pending := by simp [State.raiseRings]

@[simp] theorem promoteEntry_pending (i : Nat) (cmd : Option (Nat × Nat)) : (s.promoteEntry i cmd).pending = s.pending := by
  unfold State.promoteEntry
  dsimp only
  repeat' split
  all_goals simp

@[simp] theorem promoteNow_pending (m : Nat) (cmd : Option (Nat × Nat)) : (s.promoteNow m cmd).pending = s.pending := by
  simp [State.promoteNow]

@[simp] theorem decideRest_pending (m : Nat) (items : List Item) : (s.decideRest m items).pending = s.pending := by
  simp [State.decideRest]

@[simp] theorem nextStep_pending (m : Nat) (x : ServeRun) : (s.nextStep m x).pending = s.pending := by simp [State.nextStep]

@[simp] theorem commitStep_pending (m : Nat) (x : ServeRun) : (s.commitStep m x).pending = s.pending := by
  simp [State.commitStep]

@[simp] theorem settleCommit_pending (m : Nat) : (s.settleCommit m).pending = s.pending := by
  unfold State.settleCommit
  split <;> simp

@[simp] theorem settleCommits_pending : s.settleCommits.pending = s.pending := by simp [State.settleCommits]

@[simp] theorem execCommitPoint_passes (m : BindId) : Passes s.pending (execCommitPoint m s) := by
  unfold execCommitPoint
  split <;> simp

/-! ### The feed of a follower (R403, R404) -/

@[simp] theorem feedDrop_pending (m : Nat) : (s.feedDrop m).pending = s.pending := rfl

@[simp] theorem feedSkip_pending (fuel m n : Nat) : (State.feedSkip fuel s m n).1.pending = s.pending := by
  induction fuel generalizing s n with
  | zero => rfl
  | succ k ih => simp [State.feedSkip, ih]

@[simp] theorem takeFeed_pending (m : Nat) (w0 w1 : W64) : (s.takeFeed m w0 w1).pending = s.pending := by simp [State.takeFeed]

@[simp] theorem execFeedRecord_passes (m : BindId) : Passes s.pending (execFeedRecord m s) := by
  unfold execFeedRecord
  split <;> simp

/-! ### Pendant promotion (R542) -/

@[simp] theorem startPromotion_pending (trigger chip : Nat) : (s.startPromotion trigger chip).pending = s.pending := by
  simp [State.startPromotion]

/-! ## The collective engine (R474 to R485) -/

/-! ### Entries (R479) -/

@[simp] theorem setColl_pending (e : Nat) (x : CollEntry) : (s.setColl e x).pending = s.pending := rfl

@[simp] theorem refreshColl_pending : s.refreshColl.pending = s.pending := rfl

@[simp] theorem dropColl_pending (e : Nat) : (s.dropColl e).pending = s.pending := rfl

/-! ### Messages (R442, R478) -/

@[simp] theorem collSend_pending (x : CollEntry) (j : Nat) (p : CollPiece) : (s.collSend x j p).1.pending = s.pending := by
  simp [State.collSend]

@[simp] theorem collAnswer_pending (g gid seq j code : Nat) : (s.collAnswer g gid seq j code).pending = s.pending := by
  simp [State.collAnswer]

/-! ### Ends -/

@[simp] theorem cutBranches_pending (x : CollEntry) : (s.cutBranches x).pending = s.pending := by simp [State.cutBranches]

@[simp] theorem failColl_pending (e : Nat) (x : CollEntry) (st : Status) (detail : W64) :
    (s.failColl e x st detail).pending = s.pending := by
  unfold State.failColl
  split <;> simp

@[simp] theorem unpredictable_pending (k : CollKey) (index src dst : Nat) (bs : List (Byte × Bool)) :
    (s.unpredictable k index src dst bs).1.pending = s.pending := by
  simp [State.unpredictable]

theorem writeMarked_pending (n va : Nat) (b : List (Byte × Bool)) {t : State} (h : s.writeMarked n va b = .ok t) :
    t.pending = s.pending := by
  unfold State.writeMarked at h
  split at h
  · cases h
  · next u hu =>
    have hs := serveWrite_pending _ _ _ _ _ hu
    refine List.foldlRecOn (motive := fun a : Except (Option AccErr) State => ∀ v, a = .ok v → v.pending = s.pending) _ _
      (fun v hv => by cases hv; exact hs) (fun a ha x _ v hv => ?_) t h
    dsimp only at hv
    split at hv
    · cases hv
    · split at hv
      · exact (serveWrite_pending _ _ _ _ _ hv).trans (ha _ rfl)
      · cases hv
        exact ha _ rfl

@[simp] theorem collAccess_pending (e : Nat) (x : CollEntry) (err : Option AccErr) (word : Nat) :
    (s.collAccess e x err word).pending = s.pending := by
  unfold State.collAccess
  split <;> simp

/-! ### Progress -/

@[simp] theorem collNan_pending (x : CollEntry) (es : List NanEvent) : (s.collNan x es).1.pending = s.pending := by
  unfold State.collNan
  dsimp only
  repeat' split
  all_goals simp

@[simp] theorem collWrite_pending (e : Nat) (x : CollEntry) (bs : List (Byte × Bool)) :
    (s.collWrite e x bs).pending = s.pending := by
  unfold State.collWrite
  split
  · rfl
  · dsimp only
    split
    · simp
    · next h => simp [writeMarked_pending _ _ _ _ h]

@[simp] theorem collCombine_pending (e : Nat) (x : CollEntry) : (s.collCombine e x).pending = s.pending := by
  unfold State.collCombine
  dsimp only
  split <;> simp

theorem passAdvance_pending (e : Nat) (x : CollEntry) (steps : List PassStep) {t : State}
    (h : s.passAdvance e x steps = some t) :
    t.pending = s.pending := by
  unfold State.passAdvance at h
  split at h
  · cases h
  · split at h
    · cases h
    · dsimp only at h
      split at h <;> cases h
      simp

@[simp] theorem passPump_pending (e : Nat) (steps : List PassStep) (fuel : Nat) :
    (State.passPump e steps fuel s).pending = s.pending := by
  induction fuel generalizing s with
  | zero => rfl
  | succ n ih =>
    unfold State.passPump
    split
    · rfl
    · split
      · simp
      · split
        · next h => rw [ih, passAdvance_pending _ _ _ _ h]
        · rfl

@[simp] theorem treeAdvance_pending (e : Nat) (x : CollEntry) : (s.treeAdvance e x).pending = s.pending := by
  unfold State.treeAdvance
  split
  · dsimp only
    split
    · simp
    · split
      · simp
      · next h => simp [writeMarked_pending _ _ _ _ h]
  · rfl

@[simp] theorem flowPump_pending (e fuel : Nat) : (State.flowPump e fuel s).pending = s.pending := by
  induction fuel generalizing s with
  | zero => rfl
  | succ n ih =>
    unfold State.flowPump
    split
    · rfl
    · split
      · rfl
      · split
        · rfl
        · split
          · next h => simp [ih, pending_of_eq h (collSend_pending ..)]
          · next h => simp [pending_of_eq h (collSend_pending ..)]
          · next h => simp [pending_of_eq h (collSend_pending ..)]

@[simp] theorem creditPump_pending (e : Nat) : (s.creditPump e).pending = s.pending := by
  unfold State.creditPump
  split <;> simp

@[simp] theorem collPump_pending (e : Nat) : (s.collPump e).pending = s.pending := by
  unfold State.collPump
  dsimp only
  repeat' split
  all_goals simp

/-! ### COLLECTIVE (R474, R477) -/

@[simp] theorem collBegin_pending (e : Nat) (x : CollEntry) (n : Nat) (r : Rec) :
    (s.collBegin e x n r).pending = s.pending := by
  unfold State.collBegin
  dsimp only
  split <;> simp

@[simp] theorem runColl_pending (q seq : Nat) (r : Rec) : (s.runColl q seq r).pending = s.pending := by
  unfold State.runColl
  dsimp only
  repeat' split
  all_goals simp

@[simp] theorem specColl_keeps : KeepsSpec specColl := keepsSpec_of (by simp [specColl, CmdSpec.plain]) rfl

@[simp] theorem execAllReduce_passes (q : QId) : Passes s.pending (execAllReduce q s) := by
  simp [execAllReduce]

@[simp] theorem execReduceScatter_passes (q : QId) : Passes s.pending (execReduceScatter q s) := by
  simp [execReduceScatter]

@[simp] theorem execAllGather_passes (q : QId) : Passes s.pending (execAllGather q s) := by
  simp [execAllGather]

@[simp] theorem execBroadcast_passes (q : QId) : Passes s.pending (execBroadcast q s) := by
  simp [execBroadcast]

@[simp] theorem execAllToAll_passes (q : QId) : Passes s.pending (execAllToAll q s) := by
  simp [execAllToAll]

@[simp] theorem execBarrier_passes (q : QId) : Passes s.pending (execBarrier q s) := by
  simp [execBarrier]

/-! ### Steps and credits (R478, R479, R483) -/

@[simp] theorem collDisagree_pending (e : Nat) (x : CollEntry) (src : Nat) : (s.collDisagree e x src).pending = s.pending := by
  simp [State.collDisagree]

@[simp] theorem collReceive_pending (g : Nat) (m : CollStepMsg) : (s.collReceive g m).pending = s.pending := by
  unfold State.collReceive
  dsimp only
  repeat' split
  all_goals simp

@[simp] theorem execCollStep_passes (m : CollStepMsg) : Passes s.pending (execCollStep m s) := by
  unfold execCollStep
  split <;> simp

@[simp] theorem execCollCredit_passes (gid : BitVec 16) (seq : BitVec 32) (src : Nat) (code : Fin 5) :
    Passes s.pending (execCollCredit gid seq src code s) := by
  unfold execCollCredit
  split
  · simp
  · split <;> simp

/-! ### Limits and losses (R479, R483, R485) -/

@[simp] theorem execOrderTimeout_passes (e : Nat) : Passes s.pending (execOrderTimeout e s) := by
  unfold execOrderTimeout
  split <;> simp

@[simp] theorem cutBranch_pending (e : Nat) (x : CollEntry) (j : Nat) (tell : Bool) :
    (s.cutBranch e x j tell).pending = s.pending := by
  simp [State.cutBranch]

@[simp] theorem execLagLimit_passes (e : Nat) (branch : Fin 4) : Passes s.pending (execLagLimit e branch s) := by
  unfold execLagLimit
  split
  · simp
  · split
    · simp
    · split
      · simp
      · split <;> simp

@[simp] theorem collLost_pending (chip : Nat) : (s.collLost chip).pending = s.pending := by
  unfold State.collLost
  refine foldl_pending (fun t y => ?_) _ _
  split
  · rfl
  · split <;> simp

end Sys2Proof.Proofs

end

section
/-! The queue of the model's own commands, continued: the Armature cores (R283 to R288) and what follows. -/

namespace Sys2Proof.Proofs

open Sys2Proof.Machine Sys2Proof.Laws

variable (s : State)

/-! ## The Armature cores (R283 to R288) -/

/-! ### Cores and runs (R53, R283, R288) -/

@[simp] theorem setCore_pending (c : Nat) (x : CoreSt) : (s.setCore c x).pending = s.pending := rfl

@[simp] theorem resetCore_pending (c : Nat) : (s.resetCore c).pending = s.pending := rfl

@[simp] theorem endCores_pending (q seq : Nat) (st : Status) (result detail : W64) :
    (s.endCores q seq st result detail).pending = s.pending := by
  simp [State.endCores]

@[simp] theorem coreEnds_pending (c code : Nat) (st : Status) (detail : W64) :
    (s.coreEnds c code st detail).pending = s.pending := by
  unfold State.coreEnds
  split <;> simp

@[simp] theorem endTrapped_pending (q seq : Nat) : (s.endTrapped q seq).pending = s.pending := by
  unfold State.endTrapped
  split <;> simp

@[simp] theorem settleTraps_pending : s.settleTraps.pending = s.pending := by simp [State.settleTraps]

@[simp] theorem corePoisoned_pending (c : Nat) : (s.corePoisoned c).pending = s.pending := by
  unfold State.corePoisoned
  split <;> simp

@[simp] theorem coreFenceDenied_pending (c : Nat) : (s.coreFenceDenied c).pending = s.pending := by simp [State.coreFenceDenied]

@[simp] theorem coresSettle_pending (q seq : Nat) : (s.coresSettle q seq).pending = s.pending := by simp [State.coresSettle]

/-! ### Translation and caches (R284, R465) -/

@[simp] theorem writeBack_pending (c line : Nat) (l : DataLine) : (s.writeBack c line l).1.pending = s.pending := by
  unfold State.writeBack
  dsimp only
  split <;> simp

@[simp] theorem evictLine_pending (c : Nat) (code : Bool) (keep : List Nat) :
    (s.evictLine c code keep).1.pending = s.pending := by
  unfold State.evictLine
  dsimp only
  repeat' split
  all_goals simp

@[simp] theorem fillLine_pending (c line : Nat) (code : Bool) (bs : List Byte) (mark : Bool) :
    (s.fillLine c line code bs mark).pending = s.pending := by
  unfold State.fillLine
  split <;> simp

theorem coreLines_pending (c : Nat) (code wr : Bool) (vas : List Nat) {t : State} (h : s.coreLines c code wr vas = .error t) :
    t.pending = s.pending := by
  induction vas with
  | nil => cases h
  | cons va vas ih =>
    unfold State.coreLines at h
    split at h
    · cases h
      rfl
    · split at h
      · cases h
        simp
      · cases h
        simp
      · split at h
        · cases h
          simp
        · cases h
          simp
        · split at h
          · next e =>
            cases h
            exact ih e
          · cases h

@[simp] theorem coreFill_pending (c : Nat) (code : Bool) (keep : List Nat) (ls : List XLine) :
    (s.coreFill c code keep ls).1.pending = s.pending := by
  induction ls generalizing s with
  | nil => rfl
  | cons l ls ih =>
    unfold State.coreFill
    dsimp only
    split
    · rfl
    · split
      · exact ih s
      · split
        · simp
        · split
          · split
            · split <;> simp
            · simp [ih]
          · split <;> simp
          · simp

@[simp] theorem coreAccess_pending (c : Nat) (code wr : Bool) (vas : List Nat) :
    (s.coreAccess c code wr vas).1.pending = s.pending := by
  unfold State.coreAccess
  split
  · next h => exact coreLines_pending _ _ _ _ _ h
  · simp

/-- A read of a core goes on from a state with the same queue of commands. -/
theorem coreRead_pending_of (c : Nat) (code : Bool) (va n : Nat) {k : State → List Byte → State}
    (h : ∀ t bs, t.pending = s.pending → (k t bs).pending = s.pending) : (s.coreRead c code va n k).pending = s.pending := by
  have ht := coreAccess_pending s c code false (lineVas va n)
  unfold State.coreRead
  dsimp only
  split
  · split
    · simp
    · exact h _ _ ht
  · exact ht

@[simp] theorem coreRead_pending (c : Nat) (code : Bool) (va n : Nat) {k : State → List Byte → State} (h : KeepsEach k) :
    (s.coreRead c code va n k).pending = s.pending :=
  coreRead_pending_of s c code va n fun t bs ht => (h t bs).trans ht

@[simp] theorem coreWrite_pending (c va : Nat) (bs : List Byte) {k : State → State} (h : Keeps k) :
    (s.coreWrite c va bs k).pending = s.pending := by
  unfold State.coreWrite
  dsimp only
  split
  · rw [h]; simp
  · simp

/-! ### One instruction -/

@[simp] theorem coreExit_pending (c : Nat) (v : W64) : (s.coreExit c v).pending = s.pending := by
  unfold State.coreExit
  split
  · rfl
  · dsimp only
    split
    · refine (coreEnds_pending ..).trans (foldl_fst_pending (fun a l => ?_) _ _)
      split
      · rfl
      · split <;> simp
    · refine (coresSettle_pending ..).trans (foldl_fst_pending (fun a l => ?_) _ _)
      split
      · rfl
      · split <;> simp

@[simp] theorem coreCycles_pending (c : Nat) : (s.coreCycles c).pending = s.pending := by
  unfold State.coreCycles
  split <;> simp

@[simp] theorem coreStep_pending (c len : Nat) (ok : List Byte → Bool) {k : State → CoreSt → State} (h : KeepsEach k) :
    (s.coreStep c len ok k).pending = s.pending := by
  unfold State.coreStep
  split
  · rfl
  · split
    · rfl
    · split
      · simp
      · split
        · simp
        · refine coreRead_pending_of _ _ _ _ _ fun t bs ht => ?_
          dsimp only
          split
          · split
            · simp [ht]
            · rfl
          · split
            · rw [h, coreCycles_pending, ht]
            · simp [ht]

@[simp] theorem coreNext_pending (c len rd : Nat) (v : W64) : (s.coreNext c len rd v).pending = s.pending := by
  unfold State.coreNext
  split <;> simp

/-! ### CORE_RUN -/

@[simp] theorem runCoreRun_pending (q seq : Nat) (r : Rec) : (s.runCoreRun q seq r).pending = s.pending := by
  simp [State.runCoreRun]

@[simp] theorem specCoreRun_keeps : KeepsSpec specCoreRun := keepsSpec_of (by simp [specCoreRun, CmdSpec.plain]) rfl

@[simp] theorem execCoreRun_passes (q : QId) : Passes s.pending (execCoreRun q s) := by
  simp [execCoreRun]

@[simp] theorem execCoreRunTimeout_passes (q : QId) (seq : BitVec 48) : Passes s.pending (execCoreRunTimeout q seq s) := by
  unfold execCoreRunTimeout
  split <;> simp

/-! ### Mboval-C (R285 to R287) -/

@[simp] theorem fzStep_pending (c f7 f3 : Nat) (rd rs1 rs2 : Option Nat) {k : State → CoreSt → State} (h : KeepsEach k) :
    (s.fzStep c f7 f3 rd rs1 rs2 k).pending = s.pending :=
  coreStep_pending s c 4 _ h

@[simp] theorem execFzFread_passes (c : CoreId) (rd rs1 : Fin 32) : Passes s.pending (execFzFread c rd rs1 s) := by
  simp [execFzFread]

@[simp] theorem fwaitReturn_pending (c : Nat) (x : CoreSt) (f rd : Nat) : (s.fwaitReturn c x f rd).pending = s.pending := by
  simp [State.fwaitReturn]

@[simp] theorem execFzFwait_passes (c : CoreId) (rd rs1 rs2 : Fin 32) : Passes s.pending (execFzFwait c rd rs1 rs2 s) := by
  simp [execFzFwait]

@[simp] theorem execFzFwaitReturn_passes (c : CoreId) : Passes s.pending (execFzFwaitReturn c s) := by
  unfold execFzFwaitReturn
  split
  · split
    · split <;> simp
    · simp
  · simp

@[simp] theorem flushDone_pending (c : Nat) : (s.flushDone c).pending = s.pending := by
  unfold State.flushDone
  repeat' split
  all_goals simp

@[simp] theorem coreSignal_pending (c : Nat) (x : CoreSt) (f v : Nat) (add : Bool) :
    (s.coreSignal c x f v add).pending = s.pending := by
  unfold State.coreSignal
  dsimp only
  split
  · refine (coreEnds_pending ..).trans (foldl_fst_pending (fun a l => ?_) _ _)
    split <;> simp
  · refine (flushDone_pending ..).trans (foldl_fst_pending (fun a l => ?_) _ _)
    split <;> simp

@[simp] theorem execFzFsig_passes (c : CoreId) (rs1 rs2 : Fin 32) : Passes s.pending (execFzFsig c rs1 rs2 s) := by
  simp [execFzFsig]

@[simp] theorem execFzFadd_passes (c : CoreId) (rs1 rs2 : Fin 32) : Passes s.pending (execFzFadd c rs1 rs2 s) := by
  simp [execFzFadd]

@[simp] theorem coreSeal_pending (q seq : Nat) (body : List Byte) : (s.coreSeal q seq body).1.pending = s.pending := by
  simp [State.coreSeal]

@[simp] theorem execFzSeal_passes (c : CoreId) (rd rs1 rs2 : Fin 32) : Passes s.pending (execFzSeal c rd rs1 rs2 s) := by
  simp [execFzSeal]

@[simp] theorem execFzXlate_passes (c : CoreId) (rd rs1 : Fin 32) : Passes s.pending (execFzXlate c rd rs1 s) := by
  refine fzStep_pending _ _ _ _ _ _ _ fun t x => ?_
  split <;> simp

@[simp] theorem execFzExit_passes (c : CoreId) (rs1 : Fin 32) : Passes s.pending (execFzExit c rs1 s) := by
  simp [execFzExit]

@[simp] theorem execFzPack_passes (c : CoreId) (rd rs1 rs2 : Fin 32) : Passes s.pending (execFzPack c rd rs1 rs2 s) := by
  refine fzStep_pending _ _ _ _ _ _ _ fun t x => ?_
  split
  · simp
  · exact coreRead_pending _ _ _ _ _ fun u bs => coreWrite_pending _ _ _ _ fun v => coreNext_pending ..

@[simp] theorem execFzUnpack_passes (c : CoreId) (rd rs1 rs2 : Fin 32) : Passes s.pending (execFzUnpack c rd rs1 rs2 s) := by
  refine fzStep_pending _ _ _ _ _ _ _ fun t x => ?_
  split
  · simp
  · exact coreRead_pending _ _ _ _ _ fun u bs => coreWrite_pending _ _ _ _ fun v => coreNext_pending ..

/-! ### Ordinary instructions (R283, R284) -/

@[simp] theorem breakReservations_pending (g : Nat) : (s.breakReservations g).pending = s.pending := rfl

theorem atomicAt_pending (c va n : Nat) (wr : Bool) {k : State → Place → Nat → Bool → State}
    (h : ∀ t p g m, (k t p g m).pending = t.pending) : (s.atomicAt c va n wr k).pending = s.pending := by
  unfold State.atomicAt
  split
  · rfl
  · split
    · simp
    · split
      · next e => exact coreLines_pending _ _ _ _ _ e
      · split
        · dsimp only
          split
          · rw [coreEnds_pending]
            split
            · rfl
            · split <;> simp
          · rw [h]
            split
            · rfl
            · split <;> simp
        · rfl

@[simp] theorem coreAmo_pending (c : Nat) (op : AmoOp) (wide : Bool) (rd rs2 rs1 : Nat) :
    (s.coreAmo c op wide rd rs2 rs1).pending = s.pending := by
  unfold State.coreAmo
  split
  · rfl
  · generalize (if wide = true then 8 else 4) = n
    refine atomicAt_pending _ _ _ _ _ fun t p g m => ?_
    split
    · dsimp only
      split <;> simp
    · split
      · exact coreRead_pending _ _ _ _ _ fun u bs => coreWrite_pending _ _ _ _ fun v => coreNext_pending ..
      · split <;> simp
    · rfl

@[simp] theorem coreLr_pending (c : Nat) (wide : Bool) (rd rs1 : Nat) : (s.coreLr c wide rd rs1).pending = s.pending := by
  unfold State.coreLr
  split
  · rfl
  · dsimp only
    generalize (if wide = true then 8 else 4) = n
    refine atomicAt_pending _ _ _ _ _ fun t p g m => ?_
    split
    · simp
    · split
      · simp
      · split <;> simp
    · rfl

@[simp] theorem coreSc_pending (c : Nat) (wide : Bool) (rd rs2 rs1 : Nat) :
    (s.coreSc c wide rd rs2 rs1).pending = s.pending := by
  unfold State.coreSc
  split
  · rfl
  · generalize (if wide = true then 8 else 4) = n
    refine atomicAt_pending _ _ _ _ _ fun t p g m => ?_
    split
    · simp
    · split
      · rfl
      · dsimp only
        split
        · split <;> simp
        · simp
    · rfl

@[simp] theorem coreCsr_pending (c : Nat) (x : CoreSt) (n : Nat) (op : CsrOp) (rd : Nat) (v : W64) :
    (s.coreCsr c x n op rd v).pending = s.pending := by
  unfold State.coreCsr
  split <;> simp

@[simp] theorem vecLoad_pending (c len : Nat) (w : MemW) (es : List VecElem) : (s.vecLoad c len w es).pending = s.pending := by
  induction es generalizing s with
  | nil => simp [State.vecLoad]
  | cons e es ih =>
    unfold State.vecLoad
    dsimp only
    split
    · split <;> simp [ih]
    · simp

@[simp] theorem vecStore_pending (c len : Nat) (w : MemW) (es : List VecElem) :
    (s.vecStore c len w es).pending = s.pending := by
  induction es generalizing s with
  | nil => simp [State.vecStore]
  | cons e es ih =>
    unfold State.vecStore
    dsimp only
    split <;> simp [ih]

@[simp] theorem coreFailed_pending (c : Nat) : (s.coreFailed c).pending = s.pending := by simp [State.coreFailed]

@[simp] theorem coreDo_pending (c : Nat) (x : CoreSt) (act : CoreAct) : (s.coreDo c x act).pending = s.pending := by
  cases act with
  | loadFloat n w fd rs1 imm =>
    refine coreRead_pending _ _ _ _ _ fun t bs => ?_
    dsimp only
    split <;> simp
  | _ => simp [State.coreDo]

@[simp] theorem execCoreInstruction_passes (c : CoreId) (act : CoreAct) : Passes s.pending (execCoreInstruction c act s) := by
  simp [execCoreInstruction]

@[simp] theorem execCoreTrap_passes (c : CoreId) (cause : BitVec 8) : Passes s.pending (execCoreTrap c cause s) := by
  unfold execCoreTrap
  split <;> simp

/-! ### Responses (R465, R469, R447) -/

@[simp] theorem coreLineArrived_pending (c : Nat) (bs : List Byte) (mark : Bool) :
    (s.coreLineArrived c bs mark).pending = s.pending := by
  unfold State.coreLineArrived
  repeat' split
  all_goals simp

@[simp] theorem coreAtomicArrived_pending (c old : Nat) : (s.coreAtomicArrived c old).pending = s.pending := by
  unfold State.coreAtomicArrived
  repeat' split
  all_goals simp

@[simp] theorem coreAcked_pending (c : Nat) : (s.coreAcked c).pending = s.pending := by
  unfold State.coreAcked
  split <;> simp

@[simp] theorem coreRequestFailed_pending (c : Nat) (st : Status) : (s.coreRequestFailed c st).pending = s.pending := by
  unfold State.coreRequestFailed
  split <;> simp

@[simp] theorem coreWritePoisoned_pending (c : Nat) : (s.coreWritePoisoned c).pending = s.pending := by
  unfold State.coreWritePoisoned
  split <;> simp

/-! ## The Meander ring engine (R316 to R345) -/

/-! ### Lanes and their rings (R322, R323, R328) -/

@[simp] theorem setRingPtr_pending (n r : Nat) (p : RingPtr) : (s.setRingPtr n r p).pending = s.pending := rfl

/-! ### How a run ends (R324, R336 to R340) -/

@[simp] theorem endRing_pending (g : Nat) (x : RingRun) (st : Status) (detail : W64) :
    (s.endRing g x st detail).pending = s.pending := by
  unfold State.endRing
  refine (foldl_pending (fun t d => ?_) _ _).trans (by simp)
  dsimp only
  split
  · split <;> split <;> simp
  · split <;> simp

@[simp] theorem ringLocal_pending (g : Nat) (x : RingRun) (st : Status) (detail : W64) :
    (s.ringLocal g x st detail).pending = s.pending := by
  simp [State.ringLocal]

@[simp] theorem ringAccess_pending (g : Nat) (x : RingRun) (e : AccErr) (word : Nat) :
    (s.ringAccess g x e word).pending = s.pending := by
  simp [State.ringAccess]

@[simp] theorem setRingRun_pending (g : Nat) (x : RingRun) : (s.setRingRun g x).pending = s.pending := rfl

/-! ### Setup (R325) -/

@[simp] theorem takeSetup_pending (g : Nat) (m : RingSetupMsg) : (s.takeSetup g m).pending = s.pending := by
  unfold State.takeSetup
  split <;> simp

@[simp] theorem takeHeldSetups_pending (g : Nat) : (s.takeHeldSetups g).pending = s.pending := by simp [State.takeHeldSetups]

@[simp] theorem beginRing_pending (g : Nat) (x : RingRun) : (s.beginRing g x).pending = s.pending := by
  unfold State.beginRing
  dsimp only
  split
  · simp
  · next h => simp [writeVirt_pending _ _ _ _ h]

@[simp] theorem runRing_pending (q seq : Nat) (r : Rec) : (s.runRing q seq r).pending = s.pending := by
  unfold State.runRing
  dsimp only
  split <;> simp

@[simp] theorem specRingRun_keeps : KeepsSpec specRingRun := keepsSpec_of (by simp [specRingRun, CmdSpec.plain]) rfl

@[simp] theorem execRingRun_passes (q : QId) : Passes s.pending (execRingRun q s) := by
  simp [execRingRun]

/-! ### Circulation (R326 to R329) -/

@[simp] theorem putBlock_pending (l : LaneSt) (bs : List Byte) (mark : Bool) : (s.putBlock l bs mark).pending = s.pending := by
  simp [State.putBlock]

@[simp] theorem sendBlock_pending (g i : Nat) (b : BlockId) (bs : List Byte) (mark : Bool) :
    (s.sendBlock g i b bs mark).pending = s.pending := by
  simp [State.sendBlock]

theorem laneMove_pending (g : Nat) (x : RingRun) (i : Nat) {t : State} {l : LaneSt} (h : s.laneMove g x i = some (.ok (t, l))) :
    t.pending = s.pending := by
  unfold State.laneMove at h
  dsimp only at h
  repeat' split at h
  all_goals cases h
  all_goals simp

@[simp] theorem lanePump_pending (g i fuel : Nat) : (State.lanePump g i fuel s).pending = s.pending := by
  induction fuel generalizing s with
  | zero => rfl
  | succ n ih =>
    unfold State.lanePump
    split
    · rfl
    · split
      · rfl
      · simp
      · next h => simp [ih, laneMove_pending _ _ _ _ h]

@[simp] theorem ringSteps_pending (g fuel : Nat) : (State.ringSteps g fuel s).pending = s.pending := by
  induction fuel generalizing s with
  | zero => rfl
  | succ n ih =>
    unfold State.ringSteps
    split
    · rfl
    · dsimp only
      split
      · simp [ih]
      · rfl

@[simp] theorem ringPump_pending (g : Nat) : (s.ringPump g).pending = s.pending := by
  unfold State.ringPump
  dsimp only
  repeat' split
  all_goals simp

@[simp] theorem takeBlock_pending (g : Nat) (x : RingRun) (m : RingBlockMsg) : (s.takeBlock g x m).pending = s.pending := by
  unfold State.takeBlock
  repeat' split
  all_goals simp

@[simp] theorem execRingBlock_passes (g : GroupId) (m : RingBlockMsg) : Passes s.pending (execRingBlock g m s) := by
  unfold execRingBlock
  split <;> simp

@[simp] theorem laneEvent_pending (g lane : Nat) (f : LaneSt → LaneSt) : (s.laneEvent g lane f).pending = s.pending := by
  unfold State.laneEvent
  repeat' split
  all_goals simp

@[simp] theorem execRingGrant_passes (g : GroupId) (lane : Nat) : Passes s.pending (execRingGrant g lane s) := by
  simp [execRingGrant]

@[simp] theorem execRingAck_passes (g : GroupId) (lane : Nat) : Passes s.pending (execRingAck g lane s) := by
  simp [execRingAck]

@[simp] theorem execRingSetup_passes (g : GroupId) (m : RingSetupMsg) : Passes s.pending (execRingSetup g m s) := by
  simp [execRingSetup]

/-! ### Step words and the feed (R333, R334) -/

@[simp] theorem execStepWord_passes (g : GroupId) (index : Nat) : Passes s.pending (execStepWord g index s) := by
  unfold execStepWord
  dsimp only
  repeat' split
  all_goals simp

@[simp] theorem feedOne_pending (g : Nat) (x : RingRun) : (s.feedOne g x).pending = s.pending := by
  unfold State.feedOne
  extract_lets m z pair q h j d start
  have hs : ∀ t y o, start = .ok (t, y, o) → t.pending = s.pending := fun t y o e => by
    dsimp only [start] at e
    split at e
    · cases e
      rfl
    · split at e
      · cases e
      · cases e
        simp
  clear_value start
  split
  · rfl
  · split
    · simp
    · simp [hs _ _ _ rfl]
    · have ht := hs _ _ _ rfl
      split
      · simp [ht]
      · simp [ht]

@[simp] theorem execRingFeed_passes (g : GroupId) : Passes s.pending (execRingFeed g s) := by
  unfold execRingFeed
  dsimp only
  split <;> simp

/-! ### Slow and lost members (R336 to R338) -/

@[simp] theorem execRingStall_passes (g : GroupId) : Passes s.pending (execRingStall g s) := by
  unfold execRingStall
  dsimp only
  split <;> simp

@[simp] theorem ringNeighbourLost_pending (g : Nat) (succ : Bool) : (s.ringNeighbourLost g succ).pending = s.pending := by
  unfold State.ringNeighbourLost
  split <;> simp

@[simp] theorem ringsLose_pending (lost : Nat → Bool → Bool) : (s.ringsLose lost).pending = s.pending := by
  simp [State.ringsLose]

@[simp] theorem ringPortLost_pending (p : Nat) : (s.ringPortLost p).pending = s.pending := by simp [State.ringPortLost]

@[simp] theorem ringChipLost_pending (chip : Nat) : (s.ringChipLost chip).pending = s.pending := by simp [State.ringChipLost]

@[simp] theorem execRingAbort_passes (g : GroupId) (runId : BitVec 32) (cause : Fin 4) (member : Nat) (fromPred : Bool) :
    Passes s.pending (execRingAbort g runId cause member fromPred s) := by
  unfold execRingAbort
  dsimp only
  split <;> simp

@[simp] theorem endNoticed_pending (g : Nat) : (s.endNoticed g).pending = s.pending := by
  unfold State.endNoticed
  repeat' split
  all_goals simp

@[simp] theorem settleNotices_pending : s.settleNotices.pending = s.pending := by simp [State.settleNotices]

/-! ## The Watershed unit (R347 to R368) -/

/-! ### Operands (R347, R350) -/

@[simp] theorem planErr_pending (n : Nat) (e : PlanErr) (cmd : Option (Nat × Nat)) :
    (s.planErr n e cmd).1.pending = s.pending := by
  unfold State.planErr
  split <;> simp

theorem routeEarly_pending (q : Nat) (r : Rec) {t : State} (h : routeEarly s q r = .ok t) : t.pending = s.pending := by
  unfold routeEarly at h
  dsimp only at h
  repeat' split at h
  all_goals cases h
  all_goals rfl

/-! ### Choosing experts (R352 to R354) -/

theorem routeEarly_stop_pending (q : Nat) (r : Rec) {t : State} {d : Status × W64} (h : routeEarly s q r = .error (t, d)) :
    t.pending = s.pending := by
  unfold routeEarly at h
  dsimp only at h
  split at h
  · cases h
    rfl
  · split at h
    · cases h
    · split at h
      · cases h
      · exact pending_of_eq (Except.error.inj h) (planErr_pending ..)

/-! ### Sending and receiving: the common parts -/

@[simp] theorem refreshHeld_pending (g : Nat) : (s.refreshHeld g).pending = s.pending := rfl

@[simp] theorem routeAnswer_pending (g src xid st : Nat) : (s.routeAnswer g src xid st).pending = s.pending := by
  simp [State.routeAnswer]

@[simp] theorem closeRoute_pending (g : Nat) (st : Status) (member : Nat) (result detail : W64) :
    (s.closeRoute g st member result detail).pending = s.pending := by
  unfold State.closeRoute
  split <;> simp

/-! ### Receiving (R362 to R366, R444) -/

@[simp] theorem routeRefuse_pending (g src xid : Nat) : (s.routeRefuse g src xid).pending = s.pending := by
  unfold State.routeRefuse
  dsimp only
  split <;> simp

@[simp] theorem takeRow_pending (g : Nat) (p : RoutePlan) (m : RouteRowMsg) : (s.takeRow g p m).pending = s.pending := by
  unfold State.takeRow
  split <;> simp

@[simp] theorem zeroIdle_pending (g : Nat) (p : RoutePlan) (src : Nat) : (s.zeroIdle g p src).pending = s.pending := by
  simp [State.zeroIdle]

@[simp] theorem takeEnd_pending (g src phase : Nat) (p : RoutePlan) : (s.takeEnd g src phase p).pending = s.pending := by
  simp [State.takeEnd]

@[simp] theorem routeTake_pending (g : Nat) (h : HeldRoute) : (s.routeTake g h).pending = s.pending := by
  unfold State.routeTake
  repeat' split
  all_goals simp

@[simp] theorem releaseHeld_pending (g : Nat) : (s.releaseHeld g).pending = s.pending := by simp [State.releaseHeld]

/-! ### Sending (R363, R364) -/

@[simp] theorem sendSegments_pending (g phase n : Nat) (p : RoutePlan) (x : RowSend) (fuel i : Nat) :
    (s.sendSegments g phase n p x fuel i).1.pending = s.pending := by
  induction fuel generalizing s i with
  | zero => rfl
  | succ k ih =>
    unfold State.sendSegments
    dsimp only
    split
    · rfl
    · split
      · next h => exact pending_of_eq h (issueRemote_pending ..)
      · next h => rw [ih, pending_of_eq h (issueRemote_pending ..)]

@[simp] theorem sendRows_pending (g phase n : Nat) (p : RoutePlan) (xs : List RowSend) :
    (s.sendRows g phase n p xs).1.pending = s.pending := by
  induction xs generalizing s with
  | nil => rfl
  | cons x xs ih =>
    unfold State.sendRows
    split
    · next h => exact pending_of_eq h (sendSegments_pending ..)
    · next h => simp [ih, pending_of_eq h (sendSegments_pending ..)]

@[simp] theorem sendMembers_pending (g phase n : Nat) (p : RoutePlan) (rows : List RowSend) (ms : List Nat) :
    (s.sendMembers g phase n p rows ms).1.pending = s.pending := by
  induction ms generalizing s with
  | nil => rfl
  | cons m ms ih =>
    unfold State.sendMembers
    split
    · next h => exact pending_of_eq h (sendRows_pending ..)
    · next h =>
      have ht := pending_of_eq h (sendRows_pending ..)
      split
      · next h' => exact (pending_of_eq h' (issueRemote_pending ..)).trans ht
      · next h' => rw [ih, pending_of_eq h' (issueRemote_pending ..), ht]

@[simp] theorem beginExchange_pending (g phase q seq : Nat) : (s.beginExchange g phase q seq).pending = s.pending := by
  unfold State.beginExchange
  dsimp only
  split
  · simp
  · simp
  · split
    · simp
    · split
      · next h => simp [pending_of_eq h (sendMembers_pending ..)]
      · next h => split <;> simp [pending_of_eq h (sendMembers_pending ..)]

/-! ### Where the plan lands (R358 to R361) -/

theorem writeArea_pending (n a : Nat) (xs : List (Nat × List Byte)) {t : State} (h : s.writeArea n a xs = .ok t) :
    t.pending = s.pending := by
  induction xs generalizing s with
  | nil => cases h; rfl
  | cons x xs ih =>
    unfold State.writeArea at h
    split at h
    · cases h
    · next e => exact (ih _ h).trans (serveWrite_pending _ _ _ _ _ e)

@[simp] theorem zeroReturns_pending (g : Nat) (p : RoutePlan) : (s.zeroReturns g p).pending = s.pending := by
  unfold State.zeroReturns
  refine foldl_pending (fun t x => foldl_pending (fun u i => ?_) _ _) _ _
  split
  · split <;> simp
  · simp

@[simp] theorem finishPlan_pending (g : Nat) : (s.finishPlan g).pending = s.pending := by
  unfold State.finishPlan
  dsimp only
  split
  · split
    · simp
    · simp
    · next h => simp [writeArea_pending _ _ _ _ h]
  · rfl

@[simp] theorem planChoices_pending (g n q seq : Nat) (p : RoutePlan) (cs : List (List Choice)) (es : List NanEvent) :
    (s.planChoices g n q seq p cs es).pending = s.pending := by
  unfold State.planChoices
  split
  · next h => simp [pending_of_eq h (engineNan_pending ..)]
  · next h =>
    dsimp only
    split <;> simp [pending_of_eq h (engineNan_pending ..)]

@[simp] theorem beginPlan_pending (g q seq : Nat) (r : Rec) : (s.beginPlan g q seq r).pending = s.pending := by
  unfold State.beginPlan
  dsimp only
  repeat' split
  all_goals simp

/-! ### The unit (R350, R365) -/

@[simp] theorem beginRoute_pending (g q seq : Nat) : (s.beginRoute g q seq).pending = s.pending := by
  unfold State.beginRoute
  split <;> simp

@[simp] theorem settleExchange_pending (g : Nat) : (s.settleExchange g).pending = s.pending := by
  unfold State.settleExchange
  split <;> simp

@[simp] theorem wsuPump_pending (fuel : Nat) : (State.wsuPump fuel s).pending = s.pending := by
  induction fuel generalizing s with
  | zero => rfl
  | succ n ih =>
    unfold State.wsuPump
    dsimp only
    split <;> split <;> simp [ih]

@[simp] theorem wsuGo_pending : s.wsuGo.pending = s.pending := by simp [State.wsuGo]

@[simp] theorem runRoute_pending (q seq : Nat) (r : Rec) : (s.runRoute q seq r).pending = s.pending := by simp [State.runRoute]

@[simp] theorem specRoute_keeps : KeepsSpec specRoute := {
  run := fun s q seq r => runRoute_pending s q seq r
  goes := fun s q r _ h => routeEarly_pending s q r h
  stops := fun s q r _ _ h => routeEarly_stop_pending s q r h }

@[simp] theorem execPlan_passes (q : QId) : Passes s.pending (execPlan q s) := by
  simp [execPlan]

@[simp] theorem execDispatch_passes (q : QId) : Passes s.pending (execDispatch q s) := by
  simp [execDispatch]

@[simp] theorem execRouteReturn_passes (q : QId) : Passes s.pending (execRouteReturn q s) := by
  simp [execRouteReturn]

@[simp] theorem execRouteLimit_passes (g : GroupId) : Passes s.pending (execRouteLimit g s) := by
  unfold execRouteLimit
  dsimp only
  repeat' split
  all_goals simp

@[simp] theorem routeFail_pending (g : Nat) (st : Status) (member : Nat) : (s.routeFail g st member).pending = s.pending := by
  unfold State.routeFail
  split <;> simp

@[simp] theorem routeLost_pending (chip : Nat) : (s.routeLost chip).pending = s.pending := by
  unfold State.routeLost
  refine foldl_pending (fun t g => ?_) _ _
  split <;> simp

@[simp] theorem routeAcked_pending (g dst st : Nat) : (s.routeAcked g dst st).pending = s.pending := by
  unfold State.routeAcked
  split <;> simp

@[simp] theorem execRouteRow_passes (g : GroupId) (m : RouteRowMsg) : Passes s.pending (execRouteRow g m s) := by
  simp [execRouteRow]

@[simp] theorem execRouteEnd_passes (g : GroupId) (src phase : Nat) (hdr : RouteHdr) (xid : BitVec 32) :
    Passes s.pending (execRouteEnd g src phase hdr xid s) := by
  simp [execRouteEnd]

/-! ### The sorter (R367, R377) -/

@[simp] theorem grantSorter_pending (who since : Nat) : (s.grantSorter who since).pending = s.pending := by
  simp [State.grantSorter]

@[simp] theorem execSorterGrant_passes (sampler : Bool) : Passes s.pending (execSorterGrant sampler s) := by
  unfold execSorterGrant
  dsimp only
  repeat' split
  all_goals simp

@[simp] theorem execSortComplete_passes : Passes s.pending (execSortComplete s) := by
  unfold execSortComplete
  dsimp only
  repeat' split
  all_goals simp

@[simp] theorem execWsuSortStatRead_passes (via : Via) : Passes s.pending (execWsuSortStatRead via s) := by
  simp [execWsuSortStatRead]

end Sys2Proof.Proofs

end

section
/-! The queue of the model's own commands, continued: remote memory (R461 to R470) and what follows. -/

namespace Sys2Proof.Proofs

open Sys2Proof.Machine Sys2Proof.Laws

variable (s : State)

/-! ## Remote memory (R461 to R470) -/

/-! ### Export windows (R466, R467) -/

@[simp] theorem notify_pending (w n : Nat) : (s.notify w n).pending = s.pending := by simp [State.notify]

/-! ### Responses that leave (R443, R469, R472) -/

@[simp] theorem respond_pending (m : Msg) (op status : Nat) (mark : Bool) (data : List Byte) :
    (s.respond m op status mark data).pending = s.pending := by
  simp [State.respond]

@[simp] theorem screened_pending (m : Msg) (op : Nat) (right : Field) (len : Nat) {go : Nat → State}
    (h : ∀ w, (go w).pending = s.pending) : (s.screened m op right len go).pending = s.pending := by
  unfold State.screened
  split
  · simp
  · split
    · simp
    · exact h _

/-! ### Inbound messages -/

@[simp] theorem plainReply_pending (m : Msg) (op step len : Nat) (mark : Bool) :
    (s.plainReply m op step len mark).pending = s.pending := by
  simp [State.plainReply]

@[simp] theorem inboundRead_pending (m : Msg) : (s.inboundRead m).pending = s.pending := by simp [State.inboundRead]

@[simp] theorem written_pending (m : Msg) (w n op : Nat) : (s.written m w n op).pending = s.pending := by simp [State.written]

@[simp] theorem inboundStore_pending (m : Msg) (op w : Nat) : (s.inboundStore m op w).pending = s.pending := by
  simp [State.inboundStore]

@[simp] theorem ringPut_pending (m : Msg) (w n r : Nat) : (s.ringPut m w n r).pending = s.pending := by simp [State.ringPut]

@[simp] theorem inboundAtomic_pending (m : Msg) : (s.inboundAtomic m).pending = s.pending := by
  refine screened_pending _ _ _ _ _ fun w => ?_
  split
  · simp
  · split
    · simp
    · dsimp only
      split <;> simp

@[simp] theorem execRead_passes (m : Msg) : Passes s.pending (execRead m s) := by
  simp [execRead]

@[simp] theorem execWrite_passes (m : Msg) : Passes s.pending (execWrite m s) := by
  simp [execWrite]

@[simp] theorem execAtomic_passes (m : Msg) : Passes s.pending (execAtomic m s) := by
  simp [execAtomic]

@[simp] theorem execTilePut_passes (m : Msg) : Passes s.pending (execTilePut m s) := by
  refine receive_pending _ _ _ fun t => screened_pending _ _ _ _ _ fun w => ?_
  split <;> simp

/-! ### Requests that end (R462, R469, R470) -/

@[simp] theorem dropRequest_pending (xid : Nat) : (s.dropRequest xid).pending = s.pending := rfl

@[simp] theorem mapRequest_pending (xid : Nat) (f : Request → Request) : (s.mapRequest xid f).pending = s.pending := rfl

@[simp] theorem late_pending : s.late.pending = s.pending := rfl

@[simp] theorem resumeFlight_pending (q seq : Nat) : (s.resumeFlight q seq).pending = s.pending := by
  unfold State.resumeFlight
  split <;> simp

@[simp] theorem flightFailed_pending (q seq : Nat) (st : Status) : (s.flightFailed q seq st).pending = s.pending := by
  unfold State.flightFailed
  split <;> simp

@[simp] theorem failRequest_pending (x : Request) (st : Status) : (s.failRequest x st).pending = s.pending := by
  unfold State.failRequest
  dsimp only
  repeat' split
  all_goals simp

@[simp] theorem writePoisoned_pending (x : Request) : (s.writePoisoned x).pending = s.pending := by
  unfold State.writePoisoned
  repeat' split
  all_goals simp

@[simp] theorem requestDone_pending (x : Request) : (s.requestDone x).pending = s.pending := by
  unfold State.requestDone
  split <;> simp

@[simp] theorem markUnits_pending (a n : Nat) (mark : Bool) : (s.markUnits a n mark).pending = s.pending := rfl

@[simp] theorem deliver_pending (c a : Nat) (bs : List Byte) (mark : Bool) : (s.deliver c a bs mark).pending = s.pending := rfl

theorem answer_pending (m : Msg) (ops : List Nat) {done : State → Request → Bool → State}
    (h : ∀ t x p, (done t x p).pending = t.pending) : (s.answer m ops done).pending = s.pending := by
  unfold State.answer
  split
  · simp
  · split
    · simp
    · simp [h]

@[simp] theorem execReadData_passes (m : Msg) : Passes s.pending (execReadData m s) := by
  refine receive_pending _ _ _ fun t => answer_pending _ _ _ fun u x mark => ?_
  split <;> simp

@[simp] theorem execWriteAck_passes (m : Msg) : Passes s.pending (execWriteAck m s) := by
  refine receive_pending _ _ _ fun t => answer_pending _ _ _ fun u x mark => ?_
  split <;> simp

@[simp] theorem execAtomicData_passes (m : Msg) : Passes s.pending (execAtomicData m s) := by
  refine receive_pending _ _ _ fun t => answer_pending _ _ _ fun u x mark => ?_
  split
  · split <;> simp
  · rfl

@[simp] theorem execTileAck_passes (m : Msg) : Passes s.pending (execTileAck m s) := by
  refine receive_pending _ _ _ fun t => answer_pending _ _ _ fun u x mark => ?_
  split <;> simp

@[simp] theorem execRingPutResend_passes (xid : BitVec 32) : Passes s.pending (execRingPutResend xid s) := by
  unfold execRingPutResend
  dsimp only
  repeat' split
  all_goals simp

@[simp] theorem execRmTimeout_passes (xid : BitVec 32) : Passes s.pending (execRmTimeout xid s) := by
  unfold execRmTimeout
  split <;> simp

/-! ### The Plain (R446, R447) -/

@[simp] theorem aperturePlain_pending (p a n : Nat) (bs : List Byte) (step : Nat) :
    (s.aperturePlain p a n bs step).pending = s.pending := by
  simp [State.aperturePlain]

@[simp] theorem plainDone_pending (x : Request) (data : List Byte) (mark : Bool) :
    (s.plainDone x data mark).pending = s.pending := by
  unfold State.plainDone
  repeat' split
  all_goals simp

@[simp] theorem plainPoison_pending (l job addr : Nat) : (s.plainPoison l job addr).pending = s.pending := by
  simp [State.plainPoison]

@[simp] theorem plainAnswer_pending (m : PlainRsp) (op : Nat) : (s.plainAnswer m op).pending = s.pending := by
  unfold State.plainAnswer
  repeat' split
  all_goals simp

@[simp] theorem execPData_passes (m : PlainRsp) : Passes s.pending (execPData m s) := by
  simp [execPData]

@[simp] theorem execPWack_passes (m : PlainRsp) : Passes s.pending (execPWack m s) := by
  simp [execPWack]

@[simp] theorem execPlainTimeout_passes (l : LinkId) (xid : BitVec 32) : Passes s.pending (execPlainTimeout l xid s) := by
  unfold execPlainTimeout
  split <;> simp

/-! ## Lost chips and ports, notices and promotion (R538 to R544) -/

/-! ### Notices that leave (R538, R539, R541) -/

@[simp] theorem noticeOn_pending (p op kind chip xid : Nat) : (s.noticeOn p op kind chip xid).pending = s.pending := by
  simp [State.noticeOn]

@[simp] theorem flood_pending (kind chip xid : Nat) (except_ : Option Nat) :
    (s.flood kind chip xid except_).pending = s.pending := by
  simp [State.flood]

@[simp] theorem noteXid_pending (xid : Nat) : (s.noteXid xid).pending = s.pending := rfl

@[simp] theorem newXid_pending : s.newXid.1.pending = s.pending := rfl

@[simp] theorem noticePartner_pending (kind chip xid : Nat) : (s.noticePartner kind chip xid).pending = s.pending := by
  simp [State.noticePartner]

@[simp] theorem announce_pending (op kind : Nat) : (s.announce op kind).pending = s.pending := by simp [State.announce]

/-! ### Lost chips (R538, R540) -/

@[simp] theorem failChip_pending (x : Nat) : (s.failChip x).pending = s.pending := by simp [State.failChip]

@[simp] theorem addLost_pending (x : Nat) : (s.addLost x).pending = s.pending := by simp [State.addLost]

/-! ### Promotion (R542, R543) -/

@[simp] theorem beginPromotion_pending (trigger chip : Nat) : (s.beginPromotion trigger chip).pending = s.pending := by
  simp [State.beginPromotion]

@[simp] theorem autoPromote_pending (trigger chip : Nat) : (s.autoPromote trigger chip).pending = s.pending := by
  simp [State.autoPromote]

@[simp] theorem stopPrimary_pending : s.stopPrimary.pending = s.pending := by simp [State.stopPrimary]

/-! ### Rows of the table -/

@[simp] theorem takeNotice_pending (m : Msg) : (s.takeNotice m).pending = s.pending := by
  unfold State.takeNotice
  dsimp only
  split <;> simp

@[simp] theorem execFaultNotice_passes (m : Msg) : Passes s.pending (execFaultNotice m s) := by
  simp [execFaultNotice]

@[simp] theorem execGoingDown_passes (m : Msg) : Passes s.pending (execGoingDown m s) := by
  simp [execGoingDown]

@[simp] theorem undelivered_pending (op dst xid : Nat) : (s.undelivered op dst xid).pending = s.pending := by
  unfold State.undelivered
  repeat' split
  all_goals simp

@[simp] theorem execUnreachable_passes (m : Msg) : Passes s.pending (execUnreachable m s) := by
  simp [execUnreachable]

@[simp] theorem losePort_pending (p : Nat) : (s.losePort p).pending = s.pending := by simp [State.losePort]

@[simp] theorem execPortLost_passes (p : LPort) : Passes s.pending (execPortLost p s) := by
  unfold execPortLost
  dsimp only
  split <;> simp

@[simp] theorem execPromoteNow_passes (via : Via) : Passes s.pending (execPromoteNow via s) := by
  unfold execPromoteNow
  split <;> simp

/-! ## Register reads -/

@[simp] theorem readEffect_pending (port : Bool) (off : Nat) : (s.readEffect port off).pending = s.pending := by
  unfold State.readEffect
  split <;> simp

@[simp] theorem directRead_pending (via : Via) (off : Nat) : (s.directRead via off).pending = s.pending := by
  simp [State.directRead]

@[simp] theorem execGlbTimeLowRead_passes (via : Via) : Passes s.pending (execGlbTimeLowRead via s) := by
  simp [execGlbTimeLowRead]

@[simp] theorem execGlbMarginRead_passes (via : Via) : Passes s.pending (execGlbMarginRead via s) := by
  simp [execGlbMarginRead]

@[simp] theorem execFabSaddleStatRead_passes (via : Via) : Passes s.pending (execFabSaddleStatRead via s) := by
  simp [execFabSaddleStatRead]

@[simp] theorem execAltLinkFecRead_passes (via : Via) (l : LinkId) : Passes s.pending (execAltLinkFecRead via l s) := by
  simp [execAltLinkFecRead]

@[simp] theorem execFltLogRead_passes (via : Via) (e : Fin 256) (word : Fin 4) :
    Passes s.pending (execFltLogRead via e word s) := by
  simp [execFltLogRead]

@[simp] theorem execGlbHwinSizeRead_passes (reader p : PortId) (w : Fin 16) :
    Passes s.pending (execGlbHwinSizeRead reader p w s) := by
  simp [execGlbHwinSizeRead]

/-! ## Register writes -/

/-! ### What a write does -/

@[simp] theorem writeFields_pending (t : RegInfo) (off : Nat) (v mask : W64) :
    (s.writeFields t off v mask).pending = s.pending := rfl

@[simp] theorem cqHead_pending (q v : Nat) : (s.cqHead q v).pending = s.pending := by simp [State.cqHead]

@[simp] theorem clearNan_pending (n : Nat) : (s.clearNan n).pending = s.pending := rfl

@[simp] theorem clearXlate_pending (n : Nat) : (s.clearXlate n).pending = s.pending := rfl

@[simp] theorem applyLaunch_pending (l : Nat) : (s.applyLaunch l).pending = s.pending := by simp [State.applyLaunch]

@[simp] theorem aperture_pending (p : Nat) (v : W64) : (s.aperture p v).pending = s.pending := by simp [State.aperture]

@[simp] theorem hwin_pending (p w : Nat) (size : Bool) (v : W64) : (s.hwin p w size v).pending = s.pending := by
  simp [State.hwin]

theorem unpin_pending (n e : Nat) {t : State} (h : s.unpin n e = some t) : t.pending = s.pending := by
  unfold State.unpin at h
  split at h
  · split at h <;> cases h
    simp
  · cases h

@[simp] theorem runWrite_pending (m : Nat) (v : W64) : (s.runWrite m v).pending = s.pending := by simp [State.runWrite]

theorem writeReg_keeps (w : Machine.Writer) (x : RegInfo) (i j off : Nat) (v mask : W64) :
    KeepsOpt s.pending (s.writeReg w x i j off v mask) := by
  unfold State.writeReg
  extract_lets +onlyGivenNames r new put
  clear_value new put
  refine keepsOpt_ite (keepsOpt_ite (keepsOpt_some (by simp)) (keepsOpt_none _)) <|
    keepsOpt_ite (keepsOpt_some (by simp)) <| keepsOpt_ite (keepsOpt_some (by simp)) <| keepsOpt_ite ?comparator <|
    keepsOpt_ite (keepsOpt_some (by simp)) <| keepsOpt_ite (keepsOpt_some (by simp)) <| keepsOpt_ite ?unpin <|
    keepsOpt_ite (keepsOpt_some (by simp)) <| keepsOpt_ite (keepsOpt_some (by simp)) <|
    keepsOpt_ite (keepsOpt_some (by simp)) <| keepsOpt_ite (keepsOpt_ite (keepsOpt_some (by simp)) (keepsOpt_none _)) <|
    keepsOpt_ite (keepsOpt_some (by simp)) <| keepsOpt_ite (keepsOpt_some (by simp)) <|
    keepsOpt_ite (keepsOpt_some (by simp)) <| keepsOpt_ite (keepsOpt_some (by simp)) <|
    keepsOpt_ite (keepsOpt_some (by simp)) <| keepsOpt_some (by simp)
  case comparator =>
    split
    · exact keepsOpt_some (by simp)
    · exact keepsOpt_ite (keepsOpt_none _) (keepsOpt_some (by simp))
  case unpin =>
    split
    · exact fun t h => unpin_pending _ _ _ h
    · exact keepsOpt_none _

theorem writeReg_pending (w : Machine.Writer) (x : RegInfo) (i j off : Nat) (v mask : W64) {t : State}
    (h : s.writeReg w x i j off v mask = some t) : t.pending = s.pending :=
  writeReg_keeps s w x i j off v mask t h

theorem applyWrite_pending (w : Machine.Writer) (off : Nat) (v mask : W64) {t : State}
    (h : s.applyWrite w off v mask = some t) :
    t.pending = s.pending := by
  unfold State.applyWrite at h
  split at h
  · cases h
  · split at h
    · cases h
      rfl
    · split at h
      · cases h
      · exact writeReg_pending _ _ _ _ _ _ _ _ h

/-! ### MSI-X (R494, R500) -/

@[simp] theorem sendPending_pending (p : Nat) : (s.sendPending p).pending = s.pending := by simp [State.sendPending]

@[simp] theorem tableWrite_pending (p off : Nat) (v mask : W64) : (s.tableWrite p off v mask).pending = s.pending := by
  simp [State.tableWrite]

@[simp] theorem execMsixUnmask_passes (p : PortId) (v : Option (Fin 2048)) : Passes s.pending (execMsixUnmask p v s) := by
  unfold execMsixUnmask
  split <;> simp

/-! ### Direct writes -/

@[simp] theorem directReg_pending (via : Via) (off : Nat) (v mask : W64) :
    (s.directReg via off v mask).pending = s.pending := by
  unfold State.directReg
  split
  · cases h : s.applyWrite (.direct via) off v mask with
    | none => rfl
    | some t => exact applyWrite_pending _ _ _ _ _ h
  · rfl

@[simp] theorem directWrite_pending (via : Via) (off size : Nat) (v : W64) :
    (s.directWrite via off size v).pending = s.pending := by
  unfold State.directWrite
  dsimp only
  repeat' split
  all_goals simp

@[simp] theorem execRegisterWrite_passes (via : Via) (off : BitVec 26) (size : Nat) (v : W64) :
    Passes s.pending (execRegisterWrite via off size v s) := by
  simp [execRegisterWrite]

@[simp] theorem execGlbHwinWrite_passes (via : Via) (p : PortId) (w : Fin 16) (size : Bool) (v : W64) :
    Passes s.pending (execGlbHwinWrite via p w size v s) := by
  simp [execGlbHwinWrite]

@[simp] theorem execGlbApertureWrite_passes (via : Via) (p : PortId) (v : W64) :
    Passes s.pending (execGlbApertureWrite via p v s) := by
  simp [execGlbApertureWrite]

@[simp] theorem execQeQCqWrite_passes (via : Via) (q : QId) (v : W64) : Passes s.pending (execQeQCqWrite via q v s) := by
  simp [execQeQCqWrite]

@[simp] theorem execQeQCqHeadWrite_passes (via : Via) (q : QId) (v : W64) :
    Passes s.pending (execQeQCqHeadWrite via q v s) := by
  simp [execQeQCqHeadWrite]

@[simp] theorem execFltNanInfoWrite_passes (via : Via) (n : JobId) (v : W64) :
    Passes s.pending (execFltNanInfoWrite via n v s) := by
  simp [execFltNanInfoWrite]

/-! ### The aperture (R496) -/

@[simp] theorem execApertureAccess_passes (p : PortId) (off : BitVec 36) (wr : Bool) (bytes : List Byte) :
    Passes s.pending (execApertureAccess p off wr bytes s) := by
  unfold execApertureAccess
  dsimp only
  split
  · split <;> simp
  · split
    · split
      · rw [passes_next, aperturePlain_pending]
      · split
        · rw [passes_next, aperturePlain_pending]
        · rw [passes_next, aperturePlain_pending, store_pending]
    · split
      · rw [passes_next, countLines_pending, store_pending]
      · rw [passes_next, emit_pending, countLines_pending]

/-! ## Configuration transactions before their commit -/

/-! ### Staging (R67) -/

theorem stageSet_pending (x : Tx) (off : Nat) (v mask : W64) {t : State} (h : s.stageSet x off v mask = .ok t) :
    t.pending = s.pending := by
  unfold State.stageSet at h
  split at h
  · cases h
  · split at h
    · cases h
    · split at h <;> cases h
      simp

@[simp] theorem merged_pending (xs : List Staged) : (s.merged xs).pending = s.pending := by simp [State.merged]

/-! ### Opening (R66) -/

@[simp] theorem openTx_pending (k job : Nat) (o : Opener) (timeout : Nat) (tag : BitVec 16) :
    (s.openTx k job o timeout tag).1.pending = s.pending := rfl

@[simp] theorem runTxBegin_pending (q seq : Nat) (r : Rec) : (s.runTxBegin q seq r).pending = s.pending := by
  unfold State.runTxBegin
  dsimp only
  split <;> simp

@[simp] theorem specTxBegin_keeps : KeepsSpec specTxBegin := keepsSpec_of (by simp [specTxBegin, CmdSpec.plain]) rfl

@[simp] theorem execTxBegin_passes (q : QId) : Passes s.pending (execTxBegin q s) := by
  simp [execTxBegin]

/-! ### Aborting (R67, R70) -/

@[simp] theorem runTxAbort_pending (q seq : Nat) (r : Rec) : (s.runTxAbort q seq r).pending = s.pending := by
  unfold State.runTxAbort
  split <;> simp

@[simp] theorem specTxAbort_keeps : KeepsSpec specTxAbort := keepsSpec_of (by simp [specTxAbort, CmdSpec.plain]) rfl

@[simp] theorem execTxAbort_passes (q : QId) : Passes s.pending (execTxAbort q s) := by
  simp [execTxAbort]

end Sys2Proof.Proofs

end

section
/-! The queue of the model's own commands, continued: the ordering point of a commit (R68) and what follows. -/

namespace Sys2Proof.Proofs

open Sys2Proof.Machine Sys2Proof.Laws

variable (s : State)

/-! ## The ordering point of a commit (R68) -/

/-! ### Queues (R74, R503) -/

@[simp] theorem cancelRing_pending (fuel q : Nat) : (State.cancelRing fuel s q).pending = s.pending := by
  induction fuel generalizing s with
  | zero => rfl
  | succ n ih =>
    unfold State.cancelRing
    split
    · rfl
    · simp [ih]

@[simp] theorem restartQueue_pending (q : Nat) : (s.restartQueue q).pending = s.pending := rfl

@[simp] theorem dropTxs_pending (q keep : Nat) : (s.dropTxs q keep).pending = s.pending := by simp [State.dropTxs]

@[simp] theorem leaveQueue_pending (n : State) (keep q : Nat) : (s.leaveQueue n keep q).pending = s.pending := by
  simp [State.leaveQueue]

/-! ### Jobs (R63, R95, R116, R118, R250, R304) -/

@[simp] theorem jobValidated_pending (j : Nat) : (s.jobValidated j).pending = s.pending := rfl

@[simp] theorem jobInvalidated_pending (j : Nat) : (s.jobInvalidated j).pending = s.pending := by simp [State.jobInvalidated]

@[simp] theorem poolLeft_pending (j : Nat) : (s.poolLeft j).pending = s.pending := by
  unfold State.poolLeft
  refine foldl_pending (fun t m => ?_) _ _
  split
  · split <;> rfl
  · rfl

@[simp] theorem changeJob_pending (old : State) (j : Nat) : (s.changeJob old j).pending = s.pending := by simp [State.changeJob]

@[simp] theorem changeAperture_pending (old : State) (p : Nat) : (s.changeAperture old p).pending = s.pending := by
  simp [State.changeAperture]

/-! ### Rings, groups, serving -/

@[simp] theorem changeOutput_pending (old : State) (o : Nat) : (s.changeOutput old o).pending = s.pending := by
  simp [State.changeOutput]

@[simp] theorem changeMeander_pending (old : State) (g : Nat) : (s.changeMeander old g).pending = s.pending := by
  simp [State.changeMeander]

@[simp] theorem changeLayer_pending (old : State) (j : Nat) : (s.changeLayer old j).pending = s.pending := by
  simp [State.changeLayer]

@[simp] theorem changeExperts_pending (old : State) (g : Nat) : (s.changeExperts old g).pending = s.pending := by
  simp [State.changeExperts]

@[simp] theorem changeCollective_pending (g : Nat) : (s.changeCollective g).pending = s.pending := rfl

@[simp] theorem bindFeed_pending (m : Nat) : (s.bindFeed m).pending = s.pending := rfl

@[simp] theorem bindMirror_pending (old : State) (m : Nat) : (s.bindMirror old m).pending = s.pending := by
  simp [State.bindMirror]

@[simp] theorem changeHot_pending (old : State) : (s.changeHot old).pending = s.pending := by simp [State.changeHot]

/-! ### The partition (R30, R428, R441, R527, R567, R572, R574) -/

@[simp] theorem changeLink_pending (old : State) (l : Nat) : (s.changeLink old l).pending = s.pending := by
  simp [State.changeLink]

@[simp] theorem readmitLinks_pending (t : Tx) : (s.readmitLinks t).pending = s.pending := rfl

@[simp] theorem recheckLink_pending (l : Nat) : (s.recheckLink l).pending = s.pending := by simp [State.recheckLink]

@[simp] theorem fenceOut_pending (old : State) : (s.fenceOut old).pending = s.pending := by simp [State.fenceOut]

@[simp] theorem extendMeas_pending (r : Nat) (d : List Byte) : (s.extendMeas r d).pending = s.pending := by
  simp [State.extendMeas]

@[simp] theorem measurePartition_pending : s.measurePartition.pending = s.pending := by simp [State.measurePartition]

@[simp] theorem rotateKey_pending (t : Tx) : (s.rotateKey t).pending = s.pending := by
  unfold State.rotateKey
  split <;> simp

@[simp] theorem consumeSlot_pending (t : Tx) : (s.consumeSlot t).pending = s.pending := rfl

@[simp] theorem dropKey_pending : s.dropKey.pending = s.pending := rfl

@[simp] theorem changePartition_pending (old : State) (t : Tx) : (s.changePartition old t).pending = s.pending := by
  simp [State.changePartition]

/-! ### The ordering point -/

theorem commitCasts_pending (cs : List StagedCast) {t : State} (h : State.commitCasts cs s = .ok t) :
    t.pending = s.pending := by
  induction cs generalizing s with
  | nil => cases h; rfl
  | cons c cs ih =>
    unfold State.commitCasts at h
    split at h
    · exact (ih _ h).trans (by simp)
    · split at h
      · exact ih _ h
      · split at h
        · cases h
        · next e => exact (ih _ h).trans (by simp [latePreload_pending _ _ _ e])

@[simp] theorem commitRegs_pending (t : Tx) : (s.commitRegs t).pending = s.pending := by simp [State.commitRegs]

theorem ordered_pending (x : Tx) {t : State} (h : s.ordered x = .ok t) : t.pending = s.pending :=
  (commitCasts_pending _ _ h).trans (by simp)

/-! ## Commits, `SET` and `GET` (R50, R67 to R70) -/

/-! ### SET and GET (R49, R50) -/

@[simp] theorem runSet_pending (q seq : Nat) (r : Rec) : (s.runSet q seq r).pending = s.pending := by
  unfold State.runSet
  dsimp only
  split
  · split
    · simp
    · split
      · simp
      · split
        · simp
        · split
          · simp
          · next h => simp [applyWrite_pending _ _ _ _ _ h]
  · split
    · simp
    · split
      · simp
      · next h => simp [stageSet_pending _ _ _ _ _ h]

@[simp] theorem specSet_keeps : KeepsSpec specSet := keepsSpec_of (by simp [specSet, CmdSpec.plain]) rfl

@[simp] theorem execSet_passes (q : QId) : Passes s.pending (execSet q s) := by
  simp [execSet]

@[simp] theorem execTrCcacheUnpin_passes (q : QId) : Passes s.pending (execTrCcacheUnpin q s) := by
  simp [execTrCcacheUnpin]

@[simp] theorem dropTx_pending (t : Tx) : (s.dropTx t).pending = s.pending := rfl

@[simp] theorem afterCommit_pending (t : Tx) : (s.afterCommit t).pending = s.pending := by
  unfold State.afterCommit
  rw [dropTx_pending]
  split
  · next h => exact ordered_pending _ _ h
  · simp

@[simp] theorem runGet_pending (q seq : Nat) (r : Rec) : (s.runGet q seq r).pending = s.pending := by
  unfold State.runGet
  repeat' split
  all_goals simp

@[simp] theorem specGet_keeps : KeepsSpec specGet := keepsSpec_of (by simp [specGet, CmdSpec.plain]) rfl

@[simp] theorem execGet_passes (q : QId) : Passes s.pending (execGet q s) := by
  simp [execGet]

/-! ### TX_COMMIT (R68) -/

theorem beginCommit_pending (x : Tx) (seq : Nat) {t : State} (h : s.beginCommit x seq = .ok t) : t.pending = s.pending := by
  unfold State.beginCommit at h
  split at h <;> cases h
  simp

theorem beginCommit_stop_pending (x : Tx) (seq : Nat) {t : State} {d : Status × W64} (h : s.beginCommit x seq = .error (t, d)) :
    t.pending = s.pending := by
  unfold State.beginCommit at h
  split at h <;> cases h
  simp

@[simp] theorem runTxCommit_pending (q seq : Nat) (r : Rec) : (s.runTxCommit q seq r).pending = s.pending := by
  unfold State.runTxCommit
  split
  · simp
  · split
    · next h => simp [beginCommit_stop_pending _ _ _ h]
    · next h => exact beginCommit_pending _ _ _ h

@[simp] theorem specTxCommit_keeps : KeepsSpec specTxCommit := keepsSpec_of (by simp [specTxCommit, CmdSpec.plain]) rfl

@[simp] theorem execTxCommit_passes (q : QId) : Passes s.pending (execTxCommit q s) := by
  simp [execTxCommit]

/-! ### Quiescence (R68) -/

theorem specOf_keeps (r : Rec) : KeepsSpec (specOf r) := by
  unfold specOf
  split <;> simp

/-! ### The end of a commit -/

@[simp] theorem completeCommit_pending (t : Tx) : (s.completeCommit t).pending = s.pending := by
  unfold State.completeCommit
  dsimp only
  repeat' split
  all_goals simp

@[simp] theorem orderTx_pending (t : Tx) (readBackFails : Bool) : (s.orderTx t readBackFails).pending = s.pending := by
  unfold State.orderTx
  split
  · simp
  · split
    · simp
    · split
      · simp
      · next h => simp [ordered_pending _ _ h]

@[simp] theorem execOrderingPoint_passes (h : BitVec 16) (readBackFails : Bool) :
    Passes s.pending (execOrderingPoint h readBackFails s) := by
  unfold execOrderingPoint
  split <;> simp

@[simp] theorem execCommitTimeout_passes (h : BitVec 16) : Passes s.pending (execCommitTimeout h s) := by
  unfold execCommitTimeout
  split <;> simp

/-! ### WAIT_SATISFIED (R56) -/

@[simp] theorem waitOver_pending (q f : Nat) (r : Rec) : (s.waitOver q f r).pending = s.pending := by
  unfold State.waitOver
  split
  · simp
  · split
    · exact opWait_pending _ (specOf_keeps r) _ _
    · exact startHead_pending _ (specOf_keeps r) _ _

@[simp] theorem execWaitSatisfied_passes (q : QId) : Passes s.pending (execWaitSatisfied q s) := by
  unfold execWaitSatisfied
  split <;> simp

end Sys2Proof.Proofs

end

section
/-! The queue of the model's own commands, continued: management sessions (R505 to R509, R569 to R571) and what follows. -/

namespace Sys2Proof.Proofs

open Sys2Proof.Machine Sys2Proof.Laws

variable (s : State)

/-! ## Management sessions (R505 to R509, R569 to R571) -/

/-! ### Sessions that end (R508, R570, R571) -/

@[simp] theorem endSession_pending (r : Nat) : (s.endSession r).pending = s.pending := by simp [State.endSession]

@[simp] theorem lockRole_pending (r : Nat) : (s.lockRole r).pending = s.pending := rfl

@[simp] theorem authFailure_pending (r : Nat) : (s.authFailure r).pending = s.pending := by simp [State.authFailure]

@[simp] theorem unlockRole_pending (r : Nat) : (s.unlockRole r).pending = s.pending := rfl

@[simp] theorem dropNonce_pending (r : Nat) : (s.dropNonce r).pending = s.pending := rfl

@[simp] theorem settleRole_pending (r : Nat) : (s.settleRole r).pending = s.pending := by simp [State.settleRole]

@[simp] theorem execSessionTimeout_passes (r : RoleId) : Passes s.pending (execSessionTimeout r s) := by
  unfold execSessionTimeout
  split <;> simp

@[simp] theorem execSessionExpiry_passes (r : RoleId) : Passes s.pending (execSessionExpiry r s) := by
  unfold execSessionExpiry
  split <;> simp

@[simp] theorem execNonceExpiry_passes (r : RoleId) : Passes s.pending (execNonceExpiry r s) := by
  simp [execNonceExpiry]

@[simp] theorem execLockoutEnd_passes (r : RoleId) : Passes s.pending (execLockoutEnd r s) := by
  simp [execLockoutEnd]

/-! ### The limit of a transport (R509) -/

theorem takeAllowance_pending (i : Nat) {t : State} (h : s.takeAllowance i = some t) : t.pending = s.pending := by
  unfold State.takeAllowance at h
  dsimp only at h
  split at h <;> cases h
  rfl

/-! ### The checks of a request (R506, R507, R509, R566, R570) -/

@[simp] theorem macFailure_pending (r : Nat) (y : Session) : (s.macFailure r y).pending = s.pending := by
  simp [State.macFailure]

@[simp] theorem gate_pending (h : MgmtHdr) (op : Nat) (payload : List Byte) : (s.gate h op payload).1.pending = s.pending := by
  unfold State.gate
  split <;> simp

@[simp] theorem answerOutside_pending (h : MgmtHdr) (op : Nat) (x : Answer) : (s.answerOutside h op x).pending = s.pending := by
  unfold State.answerOutside
  split <;> simp

@[simp] theorem answerInside_pending (h : MgmtHdr) (y : Session) (op : Nat) (x : Answer) :
    (s.answerInside h y op x).pending = s.pending := by
  unfold State.answerInside
  split <;> simp

@[simp] theorem request_pending (h : MgmtHdr) (op : Nat) (need : Option Nat) (payload : List Byte)
    {f : State → Option Nat → State × Answer} (hf : KeepsFstEach f) : (s.request h op need payload f).pending = s.pending := by
  unfold State.request
  dsimp only
  split
  · rfl
  · split
    · simp
    · next e =>
      have ht := takeAllowance_pending _ _ e
      split
      · split <;> simp [hf _ _, ht]
      · split
        · next e' => exact (pending_of_eq e' (gate_pending ..)).trans ht
        · next e' => simp [pending_of_eq e' (gate_pending ..), ht]
        · next e' => split <;> simp [hf _ _, pending_of_eq e' (gate_pending ..), ht]

/-! ### Opening and closing a session (R508, R569) -/

@[simp] theorem openSession_pending (r : Nat) : (s.openSession r).1.pending = s.pending := by simp [State.openSession]

@[simp] theorem execSessionOpen_passes (h : MgmtHdr) (payload : List Byte) :
    Passes s.pending (execSessionOpen h payload s) := by
  simp [execSessionOpen]

@[simp] theorem startSession_pending (h : MgmtHdr) (r life : Nat) (nonce call : List Byte) :
    (s.startSession h r life nonce call).pending = s.pending := by
  simp [State.startSession]

@[simp] theorem authSession_pending (h : MgmtHdr) (r : Nat) (payload : List Byte) :
    (s.authSession h r payload).1.pending = s.pending := by
  unfold State.authSession
  dsimp only
  repeat' split
  all_goals simp

@[simp] theorem execSessionAuth_passes (h : MgmtHdr) (payload : List Byte) :
    Passes s.pending (execSessionAuth h payload s) := by
  simp [execSessionAuth]

@[simp] theorem execSessionClose_passes (h : MgmtHdr) : Passes s.pending (execSessionClose h s) := by
  refine request_pending _ _ _ _ _ fun t r => ?_
  dsimp only
  split <;> simp

@[simp] theorem execHeartbeat_passes (h : MgmtHdr) : Passes s.pending (execHeartbeat h s) := by
  simp [execHeartbeat]

/-! ## The PCIe ports (R492, R500 to R504) -/

/-! ### Losing a port (R501) -/

@[simp] theorem clearWindows_pending (p : Nat) : (s.clearWindows p).pending = s.pending := by simp [State.clearWindows]

@[simp] theorem loseQueue_pending (q : Nat) : (s.loseQueue q).pending = s.pending := by simp [State.loseQueue]

@[simp] theorem stopServing_pending (p : Nat) : (s.stopServing p).pending = s.pending := by simp [State.stopServing]

@[simp] theorem endSessionsOn_pending (p : Nat) : (s.endSessionsOn p).pending = s.pending := by
  unfold State.endSessionsOn
  refine foldl_pending (fun t r => ?_) _ _
  split
  · split <;> simp
  · rfl

@[simp] theorem resetPort_pending (p cause : Nat) : (s.resetPort p cause).pending = s.pending := by simp [State.resetPort]

@[simp] theorem losePcie_pending (p cause : Nat) : (s.losePcie p cause).pending = s.pending := by simp [State.losePcie]

@[simp] theorem execPerstN_passes (p : PortId) : Passes s.pending (execPerstN p s) := by
  simp [execPerstN]

@[simp] theorem execFunctionLevelReset_passes (p : PortId) : Passes s.pending (execFunctionLevelReset p s) := by
  simp [execFunctionLevelReset]

@[simp] theorem execSurpriseDown_passes (p : PortId) : Passes s.pending (execSurpriseDown p s) := by
  simp [execSurpriseDown]

@[simp] theorem execD3hotEntry_passes (p : PortId) : Passes s.pending (execD3hotEntry p s) := by
  simp [execD3hotEntry]

/-! ### Return (R502) -/

@[simp] theorem killRings_pending (p : Nat) : (s.killRings p).pending = s.pending := by simp [State.killRings]

@[simp] theorem reopenQueue_pending (q : Nat) : (s.reopenQueue q).pending = s.pending := rfl

@[simp] theorem execPortReturn_passes (p : PortId) (speed : Fin 8) (width : Fin 32) :
    Passes s.pending (execPortReturn p speed width s) := by
  simp [execPortReturn]

@[simp] theorem execBusMasterDisable_passes (p : PortId) : Passes s.pending (execBusMasterDisable p s) := by
  simp [execBusMasterDisable]

@[simp] theorem execBusMasterEnable_passes (p : PortId) : Passes s.pending (execBusMasterEnable p s) := by
  simp [execBusMasterEnable]

/-! ## Boot, power failure and warm restart -/

/-! ### Firmware images (R562, R563) -/

@[simp] theorem showFail_pending (b : Bool) (code : Nat) : (s.showFail b code).pending = s.pending := rfl

@[simp] theorem runImage_pending (b : Bool) : (s.runImage b).pending = s.pending := by simp [State.runImage]

@[simp] theorem startLinks_pending : s.startLinks.pending = s.pending := by simp [State.startLinks]

@[simp] theorem startImage_pending (disagree : Bool) : (s.startImage disagree).pending = s.pending := by
  refine (passes_next s.pending _).1 ?_
  simp [State.startImage]

@[simp] theorem bootRoms_pending (disagree : Bool) : (s.bootRoms disagree).pending = s.pending := by simp [State.bootRoms]

@[simp] theorem poweredOff_pending : s.poweredOff.pending = s.pending := rfl

@[simp] theorem execPowerGood_passes (slotId : BitVec 6) (romDisagree : Bool) :
    Passes s.pending (execPowerGood slotId romDisagree s) := by
  simp [execPowerGood]

/-! ### Ready (R72, R164, R564) -/

@[simp] theorem firmwareValues_pending : s.firmwareValues.pending = s.pending := rfl

@[simp] theorem columnMaps_pending : s.columnMaps.pending = s.pending := rfl

@[simp] theorem zeroAll_pending : s.zeroAll.pending = s.pending := rfl

@[simp] theorem execDeviceReady_passes (cal : List CalRecord) : Passes s.pending (execDeviceReady cal s) := by
  simp [execDeviceReady]

/-! ### Power failure (R511, R582) and the thermal trip (R587) -/

@[simp] theorem flushPort_pending (p : Nat) : (s.flushPort p).pending = s.pending := by simp [State.flushPort]

@[simp] theorem powerFail_pending : s.powerFail.pending = s.pending := by simp [State.powerFail]

@[simp] theorem execPwrfail_passes : Passes s.pending (execPwrfail s) := by
  simp [execPwrfail]

@[simp] theorem recordRail_pending (rail : Nat) : (s.recordRail rail).pending = s.pending := rfl

@[simp] theorem execRailUndervoltage_passes (rail : Fin 9) : Passes s.pending (execRailUndervoltage rail s) := by
  simp [execRailUndervoltage]

@[simp] theorem execThermtrip_passes : Passes s.pending (execThermtrip s) := by
  simp [execThermtrip]

/-! ### Warm restart (R537) -/

@[simp] theorem fenceRing_pending (fuel q : Nat) : (State.fenceRing fuel s q).pending = s.pending := by
  induction fuel generalizing s with
  | zero => rfl
  | succ n ih =>
    unfold State.fenceRing
    split
    · rfl
    · split
      · simp [ih]
      · rfl

@[simp] theorem fenceQueue_pending (q : Nat) : (s.fenceQueue q).pending = s.pending := by simp [State.fenceQueue]

@[simp] theorem restarted_pending : s.restarted.pending = s.pending := rfl

@[simp] theorem fenceSelf_pending : s.fenceSelf.pending = s.pending := rfl

@[simp] theorem execWarmRestart_passes : Passes s.pending (execWarmRestart s) := by
  simp [execWarmRestart]

/-! ## Recovery in service (R527 to R548) -/

/-! ### Calibration (R546 to R548) -/

@[simp] theorem updateDeferred_pending : s.updateDeferred.pending = s.pending := rfl

@[simp] theorem execCalValidityCheck_passes : Passes s.pending (execCalValidityCheck s) := by
  simp [execCalValidityCheck]

@[simp] theorem dequeueCal_pending (kind element : Nat) : (s.dequeueCal kind element).pending = s.pending := rfl

@[simp] theorem degradeMovers_pending (k : Nat) : (s.degradeMovers k).pending = s.pending := rfl

@[simp] theorem recalChannel_pending (element : Nat) (ok : Bool) (x : CalRecord) :
    (s.recalChannel element ok x).pending = s.pending := by
  simp [State.recalChannel]

@[simp] theorem recalibrate_pending (kind element : Nat) (ok : Bool) (x : CalRecord) :
    (s.recalibrate kind element ok x).pending = s.pending := by
  simp [State.recalibrate]

@[simp] theorem execRecalibration_passes (kind element : Nat) (ok : Bool) (x : CalRecord) :
    Passes s.pending (execRecalibration kind element ok x s) := by
  simp [execRecalibration]

/-! ### Column retirement (R530) -/

@[simp] theorem moveWindows_pending (die p : Nat) : (s.moveWindows die p).pending = s.pending := rfl

@[simp] theorem execColumnRetirement_passes (die : Fin 2) : Passes s.pending (execColumnRetirement die s) := by
  unfold execColumnRetirement
  split <;> simp

/-! ### Saddle rows (R142, R532) -/

@[simp] theorem execSaddleRowFailure_passes (die : Fin 2) (row : Fin 32) :
    Passes s.pending (execSaddleRowFailure die row s) := by
  simp [execSaddleRowFailure]

@[simp] theorem execSaddleSpare_passes (die : Fin 2) (row : Fin 32) : Passes s.pending (execSaddleSpare die row s) := by
  simp [execSaddleSpare]

/-! ### HBM channels (R534, R535) -/

@[simp] theorem execHbmChannelRemap_passes (die : Fin 2) : Passes s.pending (execHbmChannelRemap die s) := by
  unfold execHbmChannelRemap
  split <;> simp

/-! ## The messages of the sideband (R505 to R507, R549, R562 to R568) -/

/-! ### MCTP control (R505) -/

@[simp] theorem execEntdaa_passes (address : BitVec 7) : Passes s.pending (execEntdaa address s) := by
  simp [execEntdaa]

@[simp] theorem control_pending (i command : Nat) {f : State → State} (h : Keeps f) (data : State → List Byte) :
    (s.control i command f data).pending = s.pending := by
  unfold State.control
  split
  · rfl
  · split
    · simp
    · next e => simp [h _, takeAllowance_pending _ _ e]

@[simp] theorem execSetEndpointId_passes (transport : Fin 3) (eid : Byte) :
    Passes s.pending (execSetEndpointId transport eid s) := by
  simp [execSetEndpointId]

@[simp] theorem execGetEndpointId_passes (transport : Fin 3) : Passes s.pending (execGetEndpointId transport s) := by
  simp [execGetEndpointId]

@[simp] theorem execGetMctpVersionSupport_passes (transport : Fin 3) :
    Passes s.pending (execGetMctpVersionSupport transport s) := by
  simp [execGetMctpVersionSupport]

@[simp] theorem execGetMessageTypeSupport_passes (transport : Fin 3) :
    Passes s.pending (execGetMessageTypeSupport transport s) := by
  simp [execGetMessageTypeSupport]

@[simp] theorem execGetVendorDefinedMessageSupport_passes (transport : Fin 3) :
    Passes s.pending (execGetVendorDefinedMessageSupport transport s) := by
  simp [execGetVendorDefinedMessageSupport]

/-! ### Reading (R507) -/

@[simp] theorem execGetInfo_passes (h : MgmtHdr) (opcode : Byte) (payload : List Byte) :
    Passes s.pending (execGetInfo h opcode payload s) := by
  simp [execGetInfo]

@[simp] theorem execRegRead_passes (h : MgmtHdr) (offsets : List W64) : Passes s.pending (execRegRead h offsets s) := by
  simp [execRegRead]

@[simp] theorem execRegWrite_passes (h : MgmtHdr) (offset value : W64) : Passes s.pending (execRegWrite h offset value s) := by
  refine request_pending _ _ _ _ _ fun t r => ?_
  split
  · rfl
  · split <;> simp

@[simp] theorem execFaultLog_passes (h : MgmtHdr) (index : Nat) : Passes s.pending (execFaultLog h index s) := by
  simp [execFaultLog]

@[simp] theorem execTelemetry_passes (h : MgmtHdr) : Passes s.pending (execTelemetry h s) := by
  simp [execTelemetry]

/-! ### Transactions of a session (R66 to R70, R507) -/

@[simp] theorem execMgmtTxBegin_passes (h : MgmtHdr) (scope : Nat) (timeout : W64) :
    Passes s.pending (execMgmtTxBegin h scope timeout s) := by
  simp [execMgmtTxBegin]

@[simp] theorem stageAll_pending (h : Nat) (xs : List SetEntry) : (State.stageAll h xs s).1.pending = s.pending := by
  induction xs generalizing s with
  | nil => rfl
  | cons x xs ih =>
    unfold State.stageAll
    split
    · rfl
    · split
      · rfl
      · next e => exact (ih _).trans (stageSet_pending _ _ _ _ _ e)

@[simp] theorem execTxSet_passes (h : MgmtHdr) (entries : List SetEntry) : Passes s.pending (execTxSet h entries s) := by
  refine request_pending _ _ _ _ _ fun t r => ?_
  split
  · rfl
  · split
    · rfl
    · split
      · rfl
      · simp

@[simp] theorem execMgmtTxCommit_passes (h : MgmtHdr) : Passes s.pending (execMgmtTxCommit h s) := by
  refine request_pending _ _ _ _ _ fun t r => ?_
  split
  · rfl
  · split
    · rfl
    · split
      · next h => exact beginCommit_stop_pending _ _ _ h
      · next h => exact beginCommit_pending _ _ _ h

@[simp] theorem execMgmtTxAbort_passes (h : MgmtHdr) : Passes s.pending (execMgmtTxAbort h s) := by
  refine request_pending _ _ _ _ _ fun t r => ?_
  split <;> simp

/-! ### Attestation (R568) -/

@[simp] theorem sendParts_pending (fuel : Nat) (h : MgmtHdr) (y : Session) (bs : List Byte) :
    (State.sendParts fuel s h y bs).pending = s.pending := by
  induction fuel generalizing s bs with
  | zero => rfl
  | succ n ih =>
    unfold State.sendParts
    dsimp only
    split <;> simp [ih]

@[simp] theorem execAttest_passes (h : MgmtHdr) (nonce : List Byte) : Passes s.pending (execAttest h nonce s) := by
  refine request_pending _ _ _ _ _ fun t r => ?_
  split
  · rfl
  · split <;> simp

/-! ### Firmware (R549, R561, R562, R565, R566) -/

@[simp] theorem execFwStage_passes (h : MgmtHdr) (offset : Nat) (bytes : List Byte) :
    Passes s.pending (execFwStage h offset bytes s) := by
  simp [execFwStage]

@[simp] theorem markActive_pending (b : Bool) : (s.markActive b).pending = s.pending := rfl

@[simp] theorem execFwActivate_passes (h : MgmtHdr) : Passes s.pending (execFwActivate h s) := by
  simp [execFwActivate]

@[simp] theorem answerRoll_pending (h : MgmtHdr) (status : Nat) : (s.answerRoll h status).pending = s.pending := by
  unfold State.answerRoll
  split <;> simp

@[simp] theorem endRoll_pending (code : Nat) : (s.endRoll code).pending = s.pending := rfl

@[simp] theorem execFwCoreReady_passes (core : Fin 4) : Passes s.pending (execFwCoreReady core s) := by
  unfold execFwCoreReady
  split
  · simp
  · split
    · simp
    · extract_lets b i i' s1 s2 mg s3 pw s4
      have h1 : s1.pending = s.pending := setF_pending ..
      have h2 : s2.pending = s.pending := (setF_pending s1 F.FLT_FW_STAT_ROLL_CORE _ 0 0).trans h1
      have h3 : s3.pending = s.pending := (setF_pending (s1.markActive b) F.SEC_BOOT_STAT_VERSION _ 0 0).trans
        ((markActive_pending ..).trans h1)
      have h4 : s4.pending = s.pending := h3
      clear_value s2 s4
      split
      · exact h2
      · exact ((answerRoll_pending ..).trans (endRoll_pending ..)).trans h4

@[simp] theorem execFwCoreTimeout_passes (core : Fin 4) : Passes s.pending (execFwCoreTimeout core s) := by
  unfold execFwCoreTimeout
  split <;> simp

/-! ### Calibration (R507, R548) -/

@[simp] theorem execCalCtrl_passes (h : MgmtHdr) (kind element : Nat) : Passes s.pending (execCalCtrl h kind element s) := by
  simp [execCalCtrl]

end Sys2Proof.Proofs

end

section
/-! The queue of the model's own commands, continued: ticks (R28, R161, R197) and what follows. -/

namespace Sys2Proof.Proofs

open Sys2Proof.Machine Sys2Proof.Laws

variable (s : State)

/-! ## Ticks (R28, R161, R197) -/

@[simp] theorem countSteps_pending (d : Nat) : (s.countSteps d).pending = s.pending := by simp [State.countSteps]

@[simp] theorem countWaits_pending (d : Nat) : (s.countWaits d).pending = s.pending := by simp [State.countWaits]

@[simp] theorem pumpRings_pending : s.pumpRings.pending = s.pending := by simp [State.pumpRings]

@[simp] theorem settleTick_pending : s.settleTick.pending = s.pending := by simp [State.settleTick]

@[simp] theorem passTick_pending : s.passTick.pending = s.pending := by simp [State.passTick]

@[simp] theorem execTimebaseSlew_passes : Passes s.pending (execTimebaseSlew s) := by
  simp [execTimebaseSlew]

/-! ## Every command and every step -/

@[simp] theorem exec_passes (i : Instr) : Passes s.pending (exec i s) := by
  cases i <;> simp [exec]

theorem exists_next_of_passes {p : List Instr} {o : Host.Outcome State Fault Refusal} (h : Passes p o) :
    ∃ t, o = .next t ∧ t.pending = p := by
  cases o with
  | next t => exact ⟨t, rfl, h⟩
  | _ => exact h.elim

theorem step_passes : Passes s.pending.tail (step s) := by
  unfold step
  split
  · next h => rw [passes_next, passTick_pending, h, List.tail_nil]
  · next c cs h => rw [h]; exact exec_passes { s with pending := cs } c

/-- Settles O56: a tick leaves an empty queue empty, and every command passes the rest of the queue on. -/
theorem everyStepCompletes : Obligations.EveryStepCompletes := by
  unfold Obligations.EveryStepCompletes
  exact fun s => exists_next_of_passes (step_passes s)

end Sys2Proof.Proofs

end

section
/-! Words and runs of bytes in memory (R599): what is read after a store below the Plain. -/

namespace Sys2Proof.Proofs

open Sys2Proof.Machine Sys2Proof.Laws

/-! ## Little-endian words -/

@[simp] theorem leBytes_length (n v : Nat) : (leBytes n v).length = n := by
  induction n generalizing v with
  | zero => rfl
  | succ n ih => rw [leBytes, List.length_cons, ih]

theorem leNat_of_leBytes (n v : Nat) : leNat (leBytes n v) = v % 256 ^ n := by
  induction n generalizing v with
  | zero => rw [leBytes, leNat, pow_zero, Nat.mod_one]
  | succ n ih => rw [leBytes, leNat, ih, BitVec.toNat_ofNat, pow_succ' 256 n, Nat.mod_mul]

theorem leWord_leBytes (v : Nat) : leWord (leBytes 8 v) = BitVec.ofNat 64 v := by
  rw [leWord, List.take_of_length_le (leBytes_length 8 v).le, leNat_of_leBytes]
  exact BitVec.eq_of_toNat_eq (by simp only [BitVec.toNat_ofNat]; omega)

theorem leWord_wordBytes (w : W64) : leWord (leBytes 8 w.toNat) = w := by rw [leWord_leBytes, BitVec.ofNat_toNat, BitVec.setWidth_eq]

@[simp] theorem wordsBytes_length (ws : List W64) : (wordsBytes ws).length = 8 * ws.length := by
  simp [wordsBytes, List.length_flatMap, Nat.mul_comm]

/-- The bytes of word `i` of a list of words. -/
theorem wordsBytes_word {ws : List W64} {i : Nat} (h : i < ws.length) : ((wordsBytes ws).drop (8 * i)).take 8 = leBytes 8 ws[i].toNat := by
  induction ws generalizing i with
  | nil => exact absurd h (Nat.not_lt_zero i)
  | cons w ws ih =>
    have hc : wordsBytes (w :: ws) = leBytes 8 w.toNat ++ wordsBytes ws := rfl
    cases i with
    | zero => rw [hc]; exact List.take_left' (leBytes_length 8 _)
    | succ i =>
      have hd : 8 * (i + 1) = (leBytes 8 w.toNat).length + 8 * i := by rw [leBytes_length]; omega
      rw [hc, hd, List.drop_append, List.drop_of_length_le (Nat.le_add_right _ _), Nat.add_sub_cancel_left]
      exact ih (Nat.lt_of_succ_lt_succ h)

/-! ## Runs of bytes in memory (R599) -/

section Memory

variable {s : State} {a : Nat}

theorem region_notPlain (h : a < plainBase) : regionOf a ≠ .plain := by
  unfold regionOf
  split
  · exact nofun
  · split
    · exact nofun
    · rw [if_neg fun e => Nat.not_le.2 h e.1]
      split <;> exact nofun

theorem store_mem_below (bs : List Byte) (mark : Bool) (h : a < plainBase) :
    (s.store a bs mark).memory.mem = memWrite s.memory.mem a bs := by
  unfold State.store
  rw [if_neg (region_notPlain h)]

theorem memoryCanonical_store (h : MemoryCanonical s) (bs : List Byte) (mark : Bool) : MemoryCanonical (s.store a bs mark) := by
  unfold MemoryCanonical State.store
  split
  · exact h
  · exact memWf_memWrite a bs h

theorem byte_below (h : a < plainBase) : s.byte a = memGet s.memory.mem a := if_neg (region_notPlain h)

/-- A byte of a stored run below the Plain. -/
theorem byte_store_in (h : MemoryCanonical s) (bs : List Byte) (mark : Bool) {i : Nat} (hi : i < bs.length)
    (hp : a + bs.length ≤ plainBase) : (s.store a bs mark).byte (a + i) = bs[i] := by
  rw [byte_below (by omega), store_mem_below bs mark (by omega)]
  exact memGet_memWrite_in a bs i ((memWf_iff _).1 h).1 hi

/-- A part of a stored run below the Plain. -/
theorem bytes_store_in (h : MemoryCanonical s) (bs : List Byte) (mark : Bool) {k n : Nat} (hk : k + n ≤ bs.length)
    (hp : a + bs.length ≤ plainBase) : (s.store a bs mark).bytes (a + k) n = (bs.drop k).take n := by
  refine List.ext_getElem (by simp [State.bytes]; omega) fun i hi _ => ?_
  have hn : i < n := by simpa [State.bytes] using hi
  simp only [State.bytes, List.getElem_map, List.getElem_range, List.getElem_take, List.getElem_drop, Nat.add_assoc]
  exact byte_store_in h bs mark (by omega) hp

theorem bytes_store (h : MemoryCanonical s) (bs : List Byte) (mark : Bool) {n : Nat} (hn : bs.length = n) (hp : a + n ≤ plainBase) :
    (s.store a bs mark).bytes a n = bs := by
  subst hn
  have := bytes_store_in (k := 0) h bs mark (Nat.zero_add _).le hp
  rwa [Nat.add_zero, List.drop_zero, List.take_length] at this

/-- Bytes outside a run stored below the Plain. -/
theorem sameBytes_store (s : State) (bs : List Byte) (mark : Bool) {n : Nat} (hn : bs.length = n) (h : a < plainBase) :
    SameBytesBut s (s.store a bs mark) a n :=
  fun c hc => byte_store_out s a bs mark c (hn ▸ hc) (region_notPlain h)

theorem bytes_congr {t : State} {n : Nat} (h : ∀ i, i < n → t.byte (a + i) = s.byte (a + i)) : t.bytes a n = s.bytes a n :=
  List.map_congr_left fun i hi => h i (List.mem_range.1 hi)

theorem word_congr {t : State} (h : ∀ i, i < 8 → t.byte (a + i) = s.byte (a + i)) : t.word a = s.word a :=
  congrArg leWord (bytes_congr h)

/-- A word of a stored run of words below the Plain. -/
theorem word_storeWords (h : MemoryCanonical s) (ws : List W64) {i : Nat} (hi : i < ws.length) (hp : a + 8 * ws.length ≤ plainBase) :
    (s.store a (wordsBytes ws)).word (a + 8 * i) = ws[i] := by
  rw [State.word, bytes_store_in h _ _ (by rw [wordsBytes_length]; omega) (by rwa [wordsBytes_length]), wordsBytes_word hi,
    leWord_wordBytes]

theorem word_storeBytes (h : MemoryCanonical s) (v : Nat) (hp : a + 8 ≤ plainBase) :
    (s.store a (leBytes 8 v)).word a = BitVec.ofNat 64 v := by
  rw [State.word, bytes_store h _ _ (leBytes_length 8 v) hp, leWord_leBytes]

/-- States of the same memory. -/
theorem byte_memory {s t : State} (h : t.memory = s.memory) (c : Nat) : t.byte c = s.byte c := by unfold State.byte; rw [h]

theorem word_memory {s t : State} (h : t.memory = s.memory) (c : Nat) : t.word c = s.word c := word_congr fun _ _ => byte_memory h _

end Memory

end Sys2Proof.Proofs
end

section
/-! What a queue holds beside its registers, and what a record that starts leaves as it was (R45). -/

namespace Sys2Proof.Proofs

open Sys2Proof.Machine Sys2Proof.Laws

/-! ## Queues -/

theorem fb_congr {s t : State} (h : t.regs = s.regs) (x : Field) (i j : Nat) : t.fb x i j = s.fb x i j := by
  unfold State.fb
  rw [f_congr h]

@[simp] theorem queue_setQueue_self (s : State) (q : Nat) (x : QState) : (s.setQueue q x).queue q = x := mgetD_mset_self _ _ _ _

@[simp] theorem setQueue_setQueue (s : State) (q : Nat) (x y : QState) : (s.setQueue q x).setQueue q y = s.setQueue q y :=
  congrArg (fun m => { s with queues := m }) (mset_mset_self s.queues q x y)

/-! ## Records that start (R45) -/

section TakeHead

variable (s : State) (q e : Nat) (r : Rec)

/-- A record that starts changes registers, queues and turns alone. -/
theorem takeHead_rest : s.takeHead q e r =
    { s with regs := (s.takeHead q e r).regs, queues := (s.takeHead q e r).queues, turns := (s.takeHead q e r).turns } := by
  unfold State.takeHead
  split <;> rfl

@[simp] theorem takeHead_tb : (s.takeHead q e r).tb = s.tb := by rw [takeHead_rest]
@[simp] theorem takeHead_txs : (s.takeHead q e r).txs = s.txs := by rw [takeHead_rest]
@[simp] theorem takeHead_nextHandle : (s.takeHead q e r).nextHandle = s.nextHandle := by rw [takeHead_rest]
@[simp] theorem takeHead_memory : (s.takeHead q e r).memory = s.memory := by rw [takeHead_rest]
@[simp] theorem takeHead_casts : (s.takeHead q e r).casts = s.casts := by rw [takeHead_rest]
@[simp] theorem takeHead_cores : (s.takeHead q e r).cores = s.cores := by rw [takeHead_rest]
@[simp] theorem takeHead_now : (s.takeHead q e r).now = s.now := by rw [State.now, takeHead_tb, State.now]
@[simp] theorem takeHead_core (c : Nat) : (s.takeHead q e r).core c = s.core c := by rw [State.core, takeHead_cores, State.core]

theorem takeHead_regs : (s.takeHead q e r).regs =
    (s.setF F.QE_Q_HEAD_HEAD_SEQ ((s.f F.QE_Q_HEAD_HEAD_SEQ q + 1) % 2 ^ 48) q).regs := by
  unfold State.takeHead
  split <;> rfl

theorem takeHead_headSeq : (s.takeHead q e r).f F.QE_Q_HEAD_HEAD_SEQ q = (s.f F.QE_Q_HEAD_HEAD_SEQ q + 1) % 2 ^ 48 := by
  rw [f_congr (takeHead_regs s q e r), f_setF_self _ _ _ _ _ (by decide)]
  exact Nat.mod_mod _ _

theorem takeHead_sameRegs : SameRegsBut s (s.takeHead q e r) [R.QE_Q_HEAD.at q] :=
  fun _ ho => takeHead_reg s q e r fun h => ho (List.mem_singleton.2 h.symm)

end TakeHead

/-- The head register of a queue, which a record that starts changes, does not hold its job. -/
theorem takeHead_queueJob (s : State) (q : QId) (e : Nat) (r : Rec) : (s.takeHead q.val e r).queueJob q.val = s.queueJob q.val :=
  f_sameRegs (takeHead_sameRegs s q.val e r) F.QE_Q_CTRL_JOB (by
    simp only [F.QE_Q_CTRL_JOB, R.QE_Q_CTRL, R.QE_Q_HEAD, Reg.at, List.mem_singleton]
    omega)

end Sys2Proof.Proofs
end

section
/-! Signals on fences (R54, R55): the statement about what a signal moves. -/

namespace Sys2Proof.Proofs

open Sys2Proof.Machine Sys2Proof.Laws

/-! ## Signals (R54, R55) -/

section Signals

variable (s : State) {n f : Nat} (v : Nat) (add err clear : Bool)

theorem fenceValue_le (f : Nat) : s.fenceValue f ≤ fenceMax := Nat.le_sub_one_of_lt (bitsOf_lt _ _ _)

theorem signalValue_le (old v : Nat) (add : Bool) (h : old ≤ fenceMax) : signalValue old v add ≤ fenceMax := by
  unfold signalValue
  split
  · exact Nat.min_le_right _ _
  · exact Nat.max_le.2 ⟨h, Nat.min_le_right _ _⟩

theorem le_signalValue (old v : Nat) (add : Bool) (h : old ≤ fenceMax) : old ≤ signalValue old v add := by
  unfold signalValue
  split
  · exact Nat.le_min.2 ⟨Nat.le_add_right _ _, h⟩
  · exact Nat.le_max_left _ _

variable {s}

/-- A signal in the job's range is one write of its fence's register. -/
theorem signal_owned (h : s.ownsFence n f = true) :
    s.signal n f v add err clear = s.setR R.QE_FENCE
      (setBits (BitVec.ofNat 64 (signalValue (s.fenceValue f) v add)) 63 1 (if !clear && (s.fenceErr f || err) then 1 else 0)) f := by
  unfold State.signal
  rw [if_pos h]
  cases clear <;> rfl

theorem signal_unowned (h : s.ownsFence n f = false) : s.signal n f v add err clear = s := by
  unfold State.signal
  rw [h, if_neg Bool.false_ne_true]

theorem signal_fenceValue (h : s.ownsFence n f = true) :
    (s.signal n f v add err clear).fenceValue f = signalValue (s.fenceValue f) v add := by
  have hle := signalValue_le _ v add (fenceValue_le s f)
  have hlt : signalValue (s.fenceValue f) v add < 2 ^ 63 := Nat.lt_of_le_of_lt hle (by decide)
  rw [signal_owned v add err clear h, State.fenceValue, f_setR_self s R.QE_FENCE _ f 0 F.QE_FENCE_VALUE rfl]
  simp only [F.QE_FENCE_VALUE]
  rw [bitsOf_setBits_apart _ _ (.inr (by decide))]
  simp only [bitsOf, BitVec.toNat_ofNat, Nat.shiftRight_zero]
  omega

theorem signal_fenceErr (h : s.ownsFence n f = true) :
    (s.signal n f v add err clear).fenceErr f = (!clear && (s.fenceErr f || err)) := by
  rw [signal_owned v add err clear h, State.fenceErr, State.fb, f_setR_self s R.QE_FENCE _ f 0 F.QE_FENCE_ERR rfl]
  simp only [F.QE_FENCE_ERR]
  rw [bitsOf_setBits_self _ _ (by decide)]
  cases !clear && (s.fenceErr f || err) <;> rfl

/-- A signal changes registers alone. -/
theorem signal_onlyRegs : OnlyRegs s (s.signal n f v add err clear) := by
  cases h : s.ownsFence n f with
  | true => rw [signal_owned v add err clear h]; exact onlyRegs_setR (onlyRegs_refl s) _ _ _ _
  | false => rw [signal_unowned v add err clear h]; exact onlyRegs_refl s

theorem signal_sameRegs : SameRegsBut s (s.signal n f v add err clear) [R.QE_FENCE.at f] :=
  fun _ ho => signal_reg s n f v add err clear (fun e => ho (List.mem_singleton.2 e.symm))

/-- The statuses that count as a success of a record's signal (R55). -/
theorem success_eq (st : Status) : st.success = (st == .ok || st == .cancelLate || st == .degraded) := by
  cases st <;> rfl

theorem recordSignal_signals {q : Nat} {r : Rec} (st : Status) (h : r.signal = true) :
    s.recordSignal q r st = s.signal (s.queueJob q) r.signalFence r.w2.toNat r.sigAdd (!st.success) := if_pos h

theorem recordSignal_none {q : Nat} {r : Rec} (st : Status) (h : r.signal = false) : s.recordSignal q r st = s := by
  rw [State.recordSignal, h, if_neg Bool.false_ne_true]

end Signals

/-- Settles O5: a signal in the range by what it leaves in its fence, one outside it by `signal_unowned`. -/
theorem signalsMoveFencesForward : Obligations.SignalsMoveFencesForward := by
  unfold Obligations.SignalsMoveFencesForward
  refine ⟨?_, ?_, ?_, ?_⟩
  · intro s n f v add err clear h
    rw [signal_fenceValue v add err clear h]
    exact ⟨rfl, le_signalValue _ _ _ (fenceValue_le s f), signal_fenceErr v add err clear h, (signal_onlyRegs v add err clear).eq,
      signal_sameRegs v add err clear⟩
  · intro s n f v add err clear h
    exact signal_unowned v add err clear h
  · intro s q r st h
    rw [recordSignal_signals st h, success_eq]
  · intro s q r st h
    exact recordSignal_none st h

end Sys2Proof.Proofs
end

section
/-! Completion records (R45, R58 to R60): the statement about what a completion writes. -/

namespace Sys2Proof.Proofs

open Sys2Proof.Machine Sys2Proof.Laws

/-! ## Completion records of local queues (R58, R59) -/

section Completions

variable (s : State) (q seq op : Nat) (st : Status) (res d : W64)

/-- Where the next completion record of a queue goes. -/
def nextEntryAt : Nat := s.f F.QE_Q_CQ_BASE q + 32 * ((s.queue q).cqTail % s.cqSize q)

/-- The first word of a completion record (R58). -/
def completionWord : W64 := setBits (setBits (BitVec.ofNat 64 (seq % 2 ^ 48)) 48 8 st.code) 56 8 op

/-- A completion record of a local queue written into the Basin. -/
def recordStored : State :=
  (s.store (nextEntryAt s q) (wordsBytes [completionWord seq op st, res, d])).store (nextEntryAt s q + 24)
    (leBytes 8 ((s.queue q).cseq + 1))

/-- What a queue that raises no vector holds after a completion record (R59, R61). -/
def queueCompleted : QState :=
  { s.queue q with
    cseq := (s.queue q).cseq + 1, cqTail := ((s.queue q).cqTail + 1) % s.cqSize q, cqUsed := (s.queue q).cqUsed + 1,
    unraised := (s.queue q).unraised + 1, oldest := if (s.queue q).unraised = 0 then s.now else (s.queue q).oldest }

variable {s q}

theorem cqWrite_local (off : Nat) (bs : List Byte) (h : 2 ≤ s.f F.QE_Q_CTRL_PORT q) :
    s.cqWrite q off bs = s.store (s.f F.QE_Q_CQ_BASE q + off) bs := if_neg (Nat.not_lt.2 h)

theorem moderate_off (now : Bool) (h : s.fb F.QE_Q_IRQ_EN q = false) :
    s.moderate q now = s.setQueue q { s.queue q with
      unraised := (s.queue q).unraised + 1, oldest := if (s.queue q).unraised = 0 then s.now else (s.queue q).oldest } := by
  have hs : ∀ x, (s.setQueue q x).fb F.QE_Q_IRQ_EN q = false := fun x => (fb_congr (setQueue_regs s q x) _ _ _).trans h
  unfold State.moderate
  simp only [hs, Bool.not_false, if_true]

/-- A completion of a local queue that raises no vector writes its record and changes its queue, and nothing else. -/
theorem writeCompletion_local (now : Bool) (hp : 2 ≤ s.f F.QE_Q_CTRL_PORT q) (he : s.fb F.QE_Q_IRQ_EN q = false) :
    s.writeCompletion q seq op st res d now = (recordStored s q seq op st res d).setQueue q (queueCompleted s q) := by
  have h2 : ∀ bs, (s.store (nextEntryAt s q) bs).cqWrite q (32 * ((s.queue q).cqTail % s.cqSize q) + 24) =
      (s.store (nextEntryAt s q) bs).store (nextEntryAt s q + 24) := by
    intro bs
    funext b
    have hf : ∀ x, (s.store (nextEntryAt s q) bs).f x q = s.f x q := fun x => f_congr (store_regs s _ _ _) _ _ _
    rw [cqWrite_local _ _ (by rw [hf]; exact hp), hf, ← Nat.add_assoc]
    rfl
  have hq : (recordStored s q seq op st res d).queue q = s.queue q := by simp [recordStored, State.queue]
  have hr : (recordStored s q seq op st res d).regs = s.regs := by simp [recordStored]
  have hz : (recordStored s q seq op st res d).cqSize q = s.cqSize q := congrArg (2 ^ ·) (f_congr hr _ _ _)
  have hn : ∀ x, ((recordStored s q seq op st res d).setQueue q x).now = s.now := fun x => by simp [recordStored, State.now]
  unfold State.writeCompletion
  dsimp only
  rw [cqWrite_local _ _ hp, ← nextEntryAt, h2]
  change ((recordStored s q seq op st res d).setQueue q { (recordStored s q seq op st res d).queue q with
    cseq := _, cqTail := (_ + 1) % (recordStored s q seq op st res d).cqSize q, cqUsed := _ }).moderate q _ = _
  rw [hq, hz]
  rw [moderate_off _ (by rw [fb_congr (setQueue_regs _ _ _), fb_congr hr]; exact he)]
  simp only [queue_setQueue_self, setQueue_setQueue, hn, queueCompleted]

/-- What the record of a completion leaves in memory: four words at the next entry, and no other byte (R58, R59). -/
theorem recordStored_memory (hm : MemoryCanonical s) (hp : nextEntryAt s q + 32 ≤ plainBase) :
    (recordStored s q seq op st res d).word (nextEntryAt s q) = completionWord seq op st ∧
    (recordStored s q seq op st res d).word (nextEntryAt s q + 8) = res ∧
    (recordStored s q seq op st res d).word (nextEntryAt s q + 16) = d ∧
    (recordStored s q seq op st res d).word (nextEntryAt s q + 24) = BitVec.ofNat 64 ((s.queue q).cseq + 1) ∧
    SameBytesBut s (recordStored s q seq op st res d) (nextEntryAt s q) 32 := by
  have h24 : SameBytesBut (s.store (nextEntryAt s q) (wordsBytes [completionWord seq op st, res, d])) (recordStored s q seq op st res d)
      (nextEntryAt s q + 24) 8 := sameBytes_store _ _ _ (leBytes_length 8 _) (by omega)
  have hw : ∀ i (hi : i < 3), (recordStored s q seq op st res d).word (nextEntryAt s q + 8 * i) =
      [completionWord seq op st, res, d][i] := fun i hi =>
    (word_congr fun _ _ => h24 _ (.inl (by omega))).trans
      (word_storeWords hm [completionWord seq op st, res, d] hi (by simp only [List.length_cons, List.length_nil]; omega))
  refine ⟨hw 0 (by decide), hw 1 (by decide), hw 2 (by decide), ?_, fun c hc => ?_⟩
  · exact word_storeBytes (memoryCanonical_store hm _ _) _ (by omega)
  · exact (h24 c (by omega)).trans (sameBytes_store s _ _ (wordsBytes_length _) (by omega) c (by simpa using by omega))

/-- A record that signals nothing and does not complete quietly is answered by its completion record alone. -/
theorem finish_writes {r : Rec} (hs : r.signal = false) (hq : (r.quiet && st == .ok) = false) (ho : s.orphan q seq = false) :
    s.finish q seq r st res d = s.writeCompletion q seq r.opcode st res d r.irq := by
  unfold State.finish
  simp only [recordSignal_none st hs, hq, ho, Bool.false_eq_true, if_false]

theorem finish_quiet {r : Rec} (hq : (r.quiet && st == .ok) = true) : s.finish q seq r st res d = s.recordSignal q r st := if_pos hq

end Completions

/-- Settles O6: the completion record of a local queue by `writeCompletion_local`, and a record that starts by the lemmas on `takeHead`. -/
theorem completionsAreWrittenInOrder : Obligations.CompletionsAreWrittenInOrder := by
  unfold Obligations.CompletionsAreWrittenInOrder
  refine ⟨?_, ?_, ?_, ?_⟩
  · intro s q seq r st res d hq
    exact finish_quiet seq st res d hq
  · intro s q seq r st res d hs hq ho hm hp he a t hb
    have ht : t = (recordStored s q seq r.opcode st res d).setQueue q (queueCompleted s q) :=
      (finish_writes seq st res d hs hq ho).trans (writeCompletion_local seq r.opcode st res d r.irq hp he)
    have hy : t.memory = (recordStored s q seq r.opcode st res d).memory := by rw [ht, setQueue_memory]
    have hx : t.queue q = queueCompleted s q := by rw [ht, queue_setQueue_self]
    obtain ⟨h0, h1, h2, h3, hf⟩ := recordStored_memory seq r.opcode st res d hm hb
    refine ⟨(word_memory hy _).trans h0, (word_memory hy _).trans h1, (word_memory hy _).trans h2, (word_memory hy _).trans h3,
      fun c hc => (byte_memory hy c).trans (hf c hc), ?_, ?_, ?_, ?_⟩
    · rw [hx, queueCompleted]
    · rw [hx, queueCompleted]
    · rw [hx, queueCompleted]
    · rw [ht, setQueue_regs, recordStored, store_regs, store_regs]
  · intro s q seq st res d x hx
    exact finishFlight_eq hx st res d
  · intro s q e r
    exact ⟨takeHead_headSeq s q e r, takeHead_sameRegs s q e r, takeHead_memory s q e r, by rw [takeHead_queue]⟩

end Sys2Proof.Proofs
end

section
/-! Configuration transactions (R66 to R70): the statement about how they open, stage, commit and roll back. -/

namespace Sys2Proof.Proofs

open Sys2Proof.Machine Sys2Proof.Laws

/-! ## The commands of a transaction (R66 to R68, R70) -/

section Commands

variable {s : State} {q : QId} {r : Rec}

theorem txBegin_opens (h : Starts specTxBegin s q.val r) (ho : r.opcode = 0x04)
    (hf : s.scopeHeld (bitsOf r.w3 0 2) (bitsOf r.w3 8 8) = none) :
    exec (.txBegin q) s = .next
      ((((s.takeHead q.val 0 r).openTx (bitsOf r.w3 0 2) (bitsOf r.w3 8 8) (.queue q.val) r.w4.toNat).1).finishFlight q.val
        (s.headSeq q.val) .ok (BitVec.ofNat 64 s.nextHandle) 0) := by
  refine congrArg Host.Outcome.next ((queueCommand_runs _ h (by rw [ho]; rfl)).trans ?_)
  have hf' : (s.takeHead q.val 0 r).scopeHeld (bitsOf r.w3 0 2) (bitsOf r.w3 8 8) = none := by
    rwa [State.scopeHeld, takeHead_txs]
  change State.runTxBegin (s.takeHead q.val 0 r) q.val (s.headSeq q.val) r = _
  simp only [State.runTxBegin, hf', State.openTx, takeHead_nextHandle]

theorem txCommit_waits {t : Tx} (h : Starts specTxCommit s q.val r) (ho : r.opcode = 0x05)
    (ht : (s.takeHead q.val 0 r).txFor q.val r = .ok t) (hv : (s.takeHead q.val 0 r).validate t = none) :
    exec (.txCommit q) s = .next
      ((s.takeHead q.val 0 r).setTx { t with committing := true, since := s.now, commitSeq := s.headSeq q.val }) := by
  refine congrArg Host.Outcome.next ((queueCommand_runs _ h (by rw [ho]; rfl)).trans ?_)
  change State.runTxCommit (s.takeHead q.val 0 r) q.val (s.headSeq q.val) r = _
  simp only [State.runTxCommit, ht, State.beginCommit, hv, takeHead_now]

theorem txAbort_rollsBack {t : Tx} (h : Starts specTxAbort s q.val r) (ho : r.opcode = 0x06)
    (ht : (s.takeHead q.val 0 r).ownTx q.val r = some t) :
    exec (.txAbort q) s = .next
      (((s.takeHead q.val 0 r).rollback t.handle .txAborted 0).finishFlight q.val (s.headSeq q.val) .ok 0 0) := by
  refine congrArg Host.Outcome.next ((queueCommand_runs _ h (by rw [ho]; rfl)).trans ?_)
  change State.runTxAbort (s.takeHead q.val 0 r) q.val (s.headSeq q.val) r = _
  simp only [State.runTxAbort, ht]

end Commands

/-! ## The end of a commit (R68 to R70) -/

section Commits

variable {s : State} {h : BitVec 16} {t : Tx}

theorem orderingPoint_quiet (bad : Bool) (hc : s.committingTx h.toNat = some t) (hq : s.quiet t = true) :
    exec (.orderingPoint h bad) s = .next (s.orderTx t bad) := by
  change execOrderingPoint h bad s = _
  simp only [execOrderingPoint, hc, hq, if_true]

theorem orderTx_completes {u : State} {bad : Bool} (hv : s.validate t = none) (hb : (bad && s.burnsKey t) = false)
    (ho : s.ordered t = .ok u) : s.orderTx t bad = u.completeCommit t := by
  simp only [State.orderTx, hv, hb, ho, Bool.false_eq_true, if_false]

theorem orderTx_burnFails (hv : s.validate t = none) (hb : s.burnsKey t = true) :
    s.orderTx t true = (s.consumeSlot t).rollback t.handle .denied 0 := by
  simp only [State.orderTx, hv, hb, Bool.and_self, if_true]

theorem commitTimeout_restless (hc : s.committingTx h.toNat = some t) (hq : s.quiet t = false) (hl : t.since + t.timeout ≤ s.now) :
    exec (.commitTimeout h) s = .next (s.rollback t.handle .timeout 0) := by
  change execCommitTimeout h s = _
  simp only [execCommitTimeout, hc, hq, if_neg (Nat.not_lt.2 hl), Bool.false_eq_true, if_false]

theorem rollback_open {h : Nat} (ht : s.tx h = some t) (hc : t.committing = false) (st : Status) (d : W64) :
    s.rollback h st d = { s with txs := s.txs.filter (fun u => u.handle != h) } := by
  simp only [State.rollback, ht, hc, Bool.false_eq_true, if_false]

theorem rollback_none {h : Nat} (ht : s.tx h = none) (st : Status) (d : W64) : s.rollback h st d = s := by
  simp only [State.rollback, ht]

end Commits

/-! ## Staging (R67) -/

section Staging

variable {s u : State} {t : Tx} {off : Nat} {v mask : W64}

theorem stageSet_ok (h : s.stageSet t off v mask = .ok u) : u = { s with txs := u.txs } ∧ t.staged.length < 4096 := by
  unfold State.stageSet at h
  split at h
  · cases h
  · split at h
    · cases h
    · split at h
      · cases h
      · next hl =>
        cases h
        exact ⟨rfl, Nat.not_le.1 hl⟩

/-- No bit of a register of another scope may be staged. -/
theorem stageMask_otherScope {sc : Scope} {x : RegInfo} (h : x.scope ≠ sc) (mask : W64) : stageMask sc x mask = none := by
  have hb : stageBits sc x = 0 := if_neg h
  unfold stageMask
  simp only [hb, true_or, if_true]

theorem stageSet_otherScope {x : RegInfo} {i j : Nat} (hr : regAt? off = some (x, i, j)) (h : x.scope ≠ t.scope) :
    s.stageSet t off v mask = .error .badCommand := by
  simp only [State.stageSet, hr, stageMask_otherScope h]

end Staging

/-- Settles O7: each command, each event and each operation of a transaction by its lemma above. -/
theorem transactionsOpenCommitAndAbort : Obligations.TransactionsOpenCommitAndAbort := by
  unfold Obligations.TransactionsOpenCommitAndAbort
  refine ⟨?_, ?_, ?_, ?_, ?_, ?_, ?_, ?_, ?_, ?_, ?_⟩
  · intro s q r h ho hf
    exact txBegin_opens h ho hf
  · intro s q r t h ho ht hv
    exact txCommit_waits h ho ht hv
  · intro s u h t bad hc hq hv hb ho
    rw [orderingPoint_quiet bad hc hq, orderTx_completes hv hb ho]
  · intro s h t hc hq hv hb
    rw [orderingPoint_quiet true hc hq, orderTx_burnFails hv hb]
  · intro s h t hc hq hl
    exact commitTimeout_restless hc hq hl
  · intro s q r t h ho ht
    exact txAbort_rollsBack h ho ht
  · intro s k job timeout o _ _
    exact ⟨rfl, rfl, _, rfl, rfl, rfl, rfl, rfl, rfl⟩
  · intro s h t st d ht hc
    exact rollback_open ht hc st d
  · intro s u t off v mask h
    exact stageSet_ok h
  · intro s t off v mask x i j hr h
    exact stageSet_otherScope hr h
  · intro s h ht st d
    exact rollback_none ht st d

end Sys2Proof.Proofs
end

section
/-! `SET` and `GET` (R50, R67, R118): the statement about the registers that they reach. -/

namespace Sys2Proof.Proofs

open Sys2Proof.Machine Sys2Proof.Laws

section SetGet

variable {s u : State} {q seq : Nat} {r : Rec} {x : RegInfo} {i j : Nat}

/-! ## `SET` (R50, R67) -/

/-- A `SET` whose register takes its value. -/
theorem runSet_applied (ht : r.tx = 0) (hr : regAt? r.barOffset = some (x, i, j)) (hl : r.w5 &&& lockedBits x = 0) (h5 : r.w5 ≠ 0)
    (hw : s.mayWrite (.set q) r.barOffset x.reg i = true) (hu : s.applyWrite (.set q) r.barOffset r.w4 r.w5 = some u) :
    s.runSet q seq r = u.finishFlight q seq .ok 0 0 := by
  simp only [State.runSet, ht, hr, hl, hw, hu, if_true, Bool.not_true, Bool.false_eq_true, ne_eq, not_true_eq_false, or_self, if_false,
    if_neg h5]

/-- A `SET` with no mask changes nothing. -/
theorem runSet_noMask (ht : r.tx = 0) (hr : regAt? r.barOffset = some (x, i, j)) (h5 : r.w5 = 0)
    (hw : s.mayWrite (.set q) r.barOffset x.reg i = true) : s.runSet q seq r = s.finishFlight q seq .ok 0 0 := by
  simp [State.runSet, ht, hr, h5, hw]

theorem runSet_denied (ht : r.tx = 0) (hr : regAt? r.barOffset = some (x, i, j))
    (h : r.w5 &&& lockedBits x ≠ 0 ∨ s.mayWrite (.set q) r.barOffset x.reg i = false) :
    s.runSet q seq r = s.finishFlight q seq .denied 0 0 := by
  have hd : r.w5 &&& lockedBits x ≠ 0 ∨ (!s.mayWrite (.set q) r.barOffset x.reg i) = true := by rwa [Bool.not_eq_true']
  simp only [State.runSet, ht, hr, if_true, if_pos hd]

theorem runSet_staged {t : Tx} (ht : r.tx ≠ 0) (hx : s.txFor q r = .ok t) (hu : s.stageSet t r.barOffset r.w4 r.w5 = .ok u) :
    s.runSet q seq r = u.finishFlight q seq .ok 0 0 := by
  simp [State.runSet, ht, hx, hu]

/-! ## `TR_CCACHE_UNPIN` (R118) -/

/-- The table of `TR_CCACHE_UNPIN` (R128). -/
def unpinInfo : RegInfo := ⟨R.TR_CCACHE_UNPIN, .job, [⟨0, 8, .wo, 0x0⟩]⟩

theorem regAt?_unpin : regAt? R.TR_CCACHE_UNPIN.at = some (unpinInfo, 0, 0) :=
  regAt?_of_at (t := unpinInfo) (i := 0) (j := 0) (by decide) (by decide) (by decide)

theorem applyWrite_unpin (s : State) (q : Nat) (v mask : W64) :
    s.applyWrite (.set q) R.TR_CCACHE_UNPIN.at v mask = s.unpin (s.queueJob q) (bitsOf (v &&& mask) 0 8) := by
  have hp : s.regPresent R.TR_CCACHE_UNPIN.at unpinInfo.reg 0 = true := regPresent_plain _ (by decide) (by decide)
  rw [State.applyWrite, regAt?_unpin]
  simp only [hp, Bool.not_true, Bool.false_eq_true, if_false]
  rfl

theorem unpin_pinned {n e : Nat} {y : HotImage} (hx : mget s.casts.hot e = some y) (hp : y.pins.contains n = true) :
    s.unpin n e = some (s.setHot (mset s.casts.hot e { y with pins := sremove y.pins n })) := by
  simp only [State.unpin, hx, hp, if_true]

end SetGet

/-! ## The commands -/

section Commands

variable {s : State} {q : QId} {r : Rec}

theorem isUnpin_eq_false (h : r.tx ≠ 0 ∨ r.barOffset ≠ R.TR_CCACHE_UNPIN.at) : isUnpin r = false := by
  rcases h with h | h <;> simp [isUnpin, h]

theorem set_runs (h : Starts specSet s q.val r) (ho : r.opcode = 0x40) (hn : r.tx ≠ 0 ∨ r.barOffset ≠ R.TR_CCACHE_UNPIN.at) :
    exec (.set q) s = .next ((s.takeHead q.val 0 r).runSet q.val (s.headSeq q.val) r) :=
  congrArg Host.Outcome.next (queueCommand_runs _ h (by rw [ho, isUnpin_eq_false hn]; rfl))

theorem trCcacheUnpin_runs (h : Starts specSet s q.val r) (ho : r.opcode = 0x40) (ht : r.tx = 0) (hn : r.barOffset = R.TR_CCACHE_UNPIN.at) :
    exec (.trCcacheUnpin q) s = .next ((s.takeHead q.val 0 r).runSet q.val (s.headSeq q.val) r) :=
  congrArg Host.Outcome.next (queueCommand_runs _ h (by simp [isUnpin, ho, ht, hn]))

theorem get_runs (h : Starts specGet s q.val r) (ho : r.opcode = 0x41) :
    exec (.get q) s = .next ((s.takeHead q.val 0 r).runGet q.val (s.headSeq q.val) r) :=
  congrArg Host.Outcome.next (queueCommand_runs _ h (by rw [ho]; rfl))

/-- The `SET` of a job that pins the entry releases its pin. -/
theorem trCcacheUnpin_unpins {x : HotImage} (h : Starts specSet s q.val r) (ho : r.opcode = 0x40) (ht : r.tx = 0)
    (hn : r.barOffset = R.TR_CCACHE_UNPIN.at) (h5 : r.w5 ≠ 0) (hx : mget s.casts.hot (bitsOf (r.w4 &&& r.w5) 0 8) = some x)
    (hp : x.pins.contains (s.queueJob q.val) = true) :
    exec (.trCcacheUnpin q) s = .next (((s.takeHead q.val 0 r).setHot (mset s.casts.hot (bitsOf (r.w4 &&& r.w5) 0 8)
      { x with pins := sremove x.pins (s.queueJob q.val) })).finishFlight q.val (s.headSeq q.val) .ok 0 0) := by
  have hu := applyWrite_unpin (s.takeHead q.val 0 r) q.val r.w4 r.w5
  rw [takeHead_queueJob, unpin_pinned ((congrArg (mget ·.hot _) (takeHead_casts s q.val 0 r)).trans hx) hp, takeHead_casts] at hu
  have hw : (s.takeHead q.val 0 r).mayWrite (.set q.val) r.barOffset unpinInfo.reg 0 = true := by rw [hn]; rfl
  rw [trCcacheUnpin_runs h ho ht hn, runSet_applied ht (hn ▸ regAt?_unpin) BitVec.and_zero h5 hw (hn ▸ hu)]

end Commands

/-- Settles O8: a `SET` that starts by what `runSet` does in each case, `TR_CCACHE_UNPIN` by `trCcacheUnpin_unpins`. -/
theorem setAndGetReachRegisters : Obligations.SetAndGetReachRegisters := by
  unfold Obligations.SetAndGetReachRegisters
  refine ⟨?_, ?_, ?_, ?_, ?_⟩
  · intro s u q r x i j h ho ht hn hr hl h5 hw hu
    rw [set_runs h ho (.inr hn), runSet_applied ht hr hl h5 hw hu]
  · intro s q r x i j h ho ht hn hr
    rw [set_runs h ho (.inr hn)]
    exact ⟨fun h5 hw => by rw [runSet_noMask ht hr h5 hw], fun hd => by rw [runSet_denied ht hr hd]⟩
  · intro s u q r t h ho ht hx hu
    rw [set_runs h ho (.inl ht), runSet_staged ht hx hu]
  · intro s q r x h ho ht hn h5 hx hp
    exact trCcacheUnpin_unpins h ho ht hn h5 hx hp
  · intro s q r h ho ht
    rw [get_runs h ho, State.runGet, if_pos ht]

end Sys2Proof.Proofs
end

section
/-! `MAP` and the unmap (R51, R96): the statement about what they change in the tables. -/

namespace Sys2Proof.Proofs

open Sys2Proof.Machine Sys2Proof.Laws

section Maps

variable {u : State} {q seq : Nat} {r : Rec}

/-! ## Mapping (R51, R95, R96) -/

/-- Every page of a mapping `MAP` written for job `n`, none of its tables in a frame that the `MAP` newly owns. -/
def pagesMapped (u : State) (n : Nat) (r : Rec) : State :=
  (List.range (mapPages r)).foldl (fun s i => s.mapPage n r.w4 (r.w3.toNat + i * 2 ^ leafLog2 r.w4)
    (leafAddr r.w4 + i * 2 ^ leafLog2 r.w4) (fun f => (u.mapNewFrames r).contains f)) u

/-- The Basin frames with which a mapping `MAP` is charged: what it maps newly, and the tables that it needs. -/
def mapCharge (u : State) (n : Nat) (r : Rec) : Nat :=
  (u.mapNewFrames r).length + u.newTableFrames n (mapMissing (u.pageTable n) r).length

theorem runMap_borne (h : u.quotaBears (u.queueJob q) (mapCharge u (u.queueJob q) r) = true) :
    u.runMap q seq r = (((pagesMapped u (u.queueJob q) r).setPageTable (u.queueJob q)
      (pruneTables 3 ((pagesMapped u (u.queueJob q) r).pageTable (u.queueJob q)))).releaseFrames
        (u.queueJob q)).finishFlight q seq .ok 0 0 := by
  have hn : ¬ (mapPages r ≠ 0 ∧ (!u.quotaBears (u.queueJob q) (mapCharge u (u.queueJob q) r)) = true) := by
    rw [h]
    exact fun e => Bool.false_ne_true e.2
  exact if_neg hn

theorem runMap_notBorne (hp : mapPages r ≠ 0) (h : u.quotaBears (u.queueJob q) (mapCharge u (u.queueJob q) r) = false) :
    u.runMap q seq r = u.finishFlight q seq .noSpace 0 0 := by
  have hn : mapPages r ≠ 0 ∧ (!u.quotaBears (u.queueJob q) (mapCharge u (u.queueJob q) r)) = true := ⟨hp, by rw [h]; rfl⟩
  exact if_pos hn

/-! ## Unmapping (R96) -/

/-- A table with the groups cleared of those pages of a record that are mapped at their size. -/
def pagesCleared (p : PageTable) (r : Rec) : PageTable :=
  ((mapVas r).filter (fun va => unmapFind p (leafLog2 r.w4) va == .clear)).foldl (fun p va => clearGroup p (leafLog2 r.w4) va) p

theorem runUnmap_clears (h : ∀ va ∈ mapVas r, unmapFind (u.pageTable (u.queueJob q)) (leafLog2 r.w4) va ≠ .bad) :
    u.runUnmap q seq r = (((u.setPageTable (u.queueJob q) (pruneTables 3 (pagesCleared (u.pageTable (u.queueJob q)) r))).dropMig
      (u.queueJob q)).releaseFrames (u.queueJob q)).finishFlight q seq .ok 0 0 := by
  have hb : ((mapVas r).map fun va => (va, unmapFind (u.pageTable (u.queueJob q)) (leafLog2 r.w4) va)).any
      (fun x => x.2 == .bad) = false := by
    rw [List.any_map, List.any_eq_false]
    exact fun va hva => by simpa using h va hva
  unfold State.runUnmap
  dsimp only
  rw [hb, if_neg Bool.false_ne_true, List.filter_map, List.foldl_map]
  rfl

end Maps

/-! ## The commands -/

section Commands

variable {s : State} {q : QId} {r : Rec}

theorem map_runs (h : Starts specMap s q.val r) (ho : r.opcode = 0x12) (hm : mapUnmaps r = false) :
    exec (.map q) s = .next ((s.takeHead q.val 2 r).runMap q.val (s.headSeq q.val) r) :=
  congrArg Host.Outcome.next ((queueCommand_runs _ h (by rw [ho, hm]; rfl)).trans (if_neg (by rw [hm]; exact Bool.false_ne_true)))

theorem unmap_runs (h : Starts specMap s q.val r) (ho : r.opcode = 0x12) (hm : mapUnmaps r = true) :
    exec (.unmap q) s = .next ((s.takeHead q.val 2 r).runUnmap q.val (s.headSeq q.val) r) :=
  congrArg Host.Outcome.next ((queueCommand_runs _ h (by rw [ho, hm]; rfl)).trans (if_pos hm))

end Commands

/-- Settles O16: each of the three ends of a `MAP` by what `runMap` and `runUnmap` do. -/
theorem mapAndUnmapChangeTheTables : Obligations.MapAndUnmapChangeTheTables := by
  unfold Obligations.MapAndUnmapChangeTheTables
  refine ⟨?_, ?_, ?_⟩
  · rintro s u q r h ho hm rfl hb
    exact ⟨pagesMapped _ _ r, rfl, by rw [map_runs h ho hm, runMap_borne hb]⟩
  · rintro s u q r h ho hm rfl hp hb
    rw [map_runs h ho hm, runMap_notBorne hp hb]
  · rintro s u q r h ho hm rfl hf
    exact ⟨pagesCleared _ r, _, rfl, rfl, by rw [unmap_runs h ho hm, runUnmap_clears hf]⟩

end Sys2Proof.Proofs
end

section
/-! Windows, seals, waits and the records of the queue engine (R41 to R44, R47, R49, R55, R56, R61): the statement about how records are
taken and complete. -/

namespace Sys2Proof.Proofs

open Sys2Proof.Machine Sys2Proof.Laws

/-! ## Staging slots (R41, R44) -/

section Slots

variable (s : State) (q : Nat)

@[simp] theorem slot_setSlot_self (j : Nat) (x : Slot) : (s.setSlot q j x).slot q j = x := by
  rw [State.slot, State.setSlot, queue_setQueue_self, mgetD_mset_self]

theorem slot_setSlot_ne {j k : Nat} (x : Slot) (h : j ≠ k) : (s.setSlot q j x).slot q k = s.slot q k := by
  rw [State.slot, State.setSlot, queue_setQueue_self, mgetD_mset_ne _ _ _ h, State.slot]

end Slots

/-! ## Records that enter the ring (R44) -/

section Rings

variable (s : State) (q j : Nat)

theorem enterRing_regs : (s.enterRing q j).regs =
    (s.setF F.QE_Q_TAIL_TAIL_SEQ ((s.f F.QE_Q_TAIL_TAIL_SEQ q + 1) % 2 ^ 48) q).regs := by
  simp only [State.enterRing, clearSlot_regs, State.setF, State.setR, State.setReg, State.r, State.reg, store_regs]

theorem enterRing_memory : (s.enterRing q j).memory =
    (s.store (s.ringAddr q (s.f F.QE_Q_TAIL_TAIL_SEQ q)) (wordsBytes (s.slot q j).words)).memory := rfl

theorem enterRing_tail : (s.enterRing q j).f F.QE_Q_TAIL_TAIL_SEQ q = (s.f F.QE_Q_TAIL_TAIL_SEQ q + 1) % 2 ^ 48 := by
  rw [f_congr (enterRing_regs s q j), f_setF_self _ _ _ _ _ (by decide)]
  exact Nat.mod_mod _ _

theorem enterRing_sameRegs : SameRegsBut s (s.enterRing q j) [R.QE_Q_TAIL.at q] :=
  sameRegs_congr (sameRegs_setF (sameRegs_refl s _) F.QE_Q_TAIL_TAIL_SEQ _ _ _ List.mem_cons_self) (enterRing_regs s q j)

/-- What a queue holds after a record has entered its ring: its slot is clear. -/
theorem enterRing_queue : (s.enterRing q j).queue q = { s.queue q with slots := merase (s.queue q).slots j } := by
  have hq : ∀ a bs, (s.store a bs).queue q = s.queue q := fun a bs => by rw [State.queue, store_queues, State.queue]
  exact (queue_setQueue_self _ _ _).trans (congrArg (fun x : QState => { x with slots := merase x.slots j }) (hq _ _))

theorem enterRing_slot_self (h : msorted (s.queue q).slots = true) : (s.enterRing q j).slot q j = Slot.empty := by
  rw [State.slot, enterRing_queue, mgetD, mget_merase_self j h, Option.getD_none]

theorem enterRing_slot_ne {k : Nat} (h : j ≠ k) : (s.enterRing q j).slot q k = s.slot q k := by
  rw [State.slot, enterRing_queue, mgetD, mget_merase_ne _ h, ← mgetD, State.slot]

variable {s q}

/-- Nothing more enters where the slot of the tail holds no record. -/
theorem enterHeld_none (fuel : Nat) (h : (s.slot q (s.f F.QE_Q_TAIL_TAIL_SEQ q % 4096)).held = false) :
    State.enterHeld fuel s q = s := by
  cases fuel with
  | zero => rfl
  | succ n =>
    unfold State.enterHeld
    simp only [h, Bool.false_and, Bool.false_eq_true, if_false]

/-- The record of the tail's slot enters, and the next ones after it. -/
theorem enterHeld_next (fuel : Nat) (hh : (s.slot q (s.f F.QE_Q_TAIL_TAIL_SEQ q % 4096)).held = true)
    (hs : bitsOf (nth (s.slot q (s.f F.QE_Q_TAIL_TAIL_SEQ q % 4096)).words 7 0) 0 48 = s.f F.QE_Q_TAIL_TAIL_SEQ q) :
    State.enterHeld (fuel + 1) s q = State.enterHeld fuel (s.enterRing q (s.f F.QE_Q_TAIL_TAIL_SEQ q % 4096)) q := by
  rw [State.enterHeld]
  simp only [hh, hs, BEq.rfl, Bool.and_self, if_true]

end Rings

/-! ## Writes into a window and seals (R41 to R44) -/

section Windows

variable {s : State} {q : QId} {o : Origin} {j : BitVec 12} {w : W64}

/-- A slot with a word written. -/
def writtenSlot (x : Slot) (i : Nat) (w : W64) : Slot := { x with words := setNth x.words i w, written := setNth x.written i true }

/-- A slot with its seal word written, held. -/
def sealedSlot (x : Slot) (w : W64) : Slot := { writtenSlot x 7 w with held := true }

/-- A write of one word goes where the word goes. -/
theorem windowWords_one {t : State} {k off : Nat} (h : s.windowWord k off w = some t) : s.windowWords k off [w] = (t, false) := by
  change (match s.windowWord k off w with | some t => (t, false) | none => (s, true)) = _
  rw [h]

theorem windowWrite_word (i : Fin 7) (off : BitVec 18) (bs : List Byte) (ho : s.windowOpen o q.val = true)
    (hf : off.toNat = 64 * j.toNat + 8 * i.val) (hb : bs.length = 8) (hh : (s.slot q.val j.toNat).held = false) :
    exec (.windowWrite o q off bs) s = .next (s.setSlot q.val j.toNat (writtenSlot (s.slot q.val j.toNat) i.val (leWord bs))) := by
  have hj : off.toNat / 64 = j.toNat := by omega
  have hi : off.toNat % 64 / 8 = i.val := by omega
  have h7 : i.val ≠ 7 := by omega
  have h8 : off.toNat % 8 = 0 := by omega
  have hw : s.windowWord q.val off.toNat (leWord bs) =
      some (s.setSlot q.val j.toNat (writtenSlot (s.slot q.val j.toNat) i.val (leWord bs))) := by
    simp only [State.windowWord, hj, hi, hh, h7, Bool.false_eq_true, if_false, writtenSlot]
  change execWindowWrite o q off bs s = _
  simp [execWindowWrite, State.windowBytes, ho, hb, h8, leWords, windowWords_one hw]

theorem windowWrite_elsewhere (off : BitVec 18) (bs : List Byte) (ho : s.windowOpen o q.val = false) :
    exec (.windowWrite o q off bs) s = .next (s.reject q.val 6) := by
  change execWindowWrite o q off bs s = _
  simp [execWindowWrite, State.windowBytes, ho]

/-- A seal that passes the conditions of R43 holds its record; then held records enter the ring from the tail. -/
theorem seal_holds (ho : s.windowOpen o q.val = true) (hh : (s.slot q.val j.toNat).held = false) (hr : s.sealReason q.val j.toNat w = 0) :
    exec (.seal o q j w) s =
      .next ((s.setSlot q.val j.toNat (sealedSlot (s.slot q.val j.toNat) w)).enterHeld 4096 q.val) := by
  change execSeal o q j w s = _
  simp only [execSeal, ho, if_true, State.sealSlot, hh, hr, Bool.false_eq_true, if_false, ne_eq, not_true_eq_false]
  rfl

theorem seal_rejected (ho : s.windowOpen o q.val = true) (hh : (s.slot q.val j.toNat).held = false)
    (hr : s.sealReason q.val j.toNat w ≠ 0) :
    exec (.seal o q j w) s = .next ((s.clearSlot q.val j.toNat).reject q.val (s.sealReason q.val j.toNat w)) := by
  change execSeal o q j w s = _
  simp only [execSeal, ho, if_true, State.sealSlot, hh, Bool.false_eq_true, if_false, if_pos hr]

/-- A seal that passes names the slot of its `SEQ` (R43). -/
theorem sealReason_slot {k : Nat} (h : s.sealReason q.val k w = 0) : bitsOf w 0 48 % 4096 = k := by
  by_contra hk
  unfold State.sealReason at h
  simp only [ne_eq, hk, not_false_eq_true, if_true] at h
  split at h <;> exact absurd h (by decide)

variable (s q j w) in
/-- The tail of a queue where a slot is sealed. -/
theorem setSlot_tail (x : Slot) : (s.setSlot q.val j.toNat x).f F.QE_Q_TAIL_TAIL_SEQ q.val = s.f F.QE_Q_TAIL_TAIL_SEQ q.val :=
  f_congr (setSlot_regs s _ _ _) _ _ _

theorem seal_ahead (ho : s.windowOpen o q.val = true) (hh : (s.slot q.val j.toNat).held = false) (hr : s.sealReason q.val j.toNat w = 0)
    (ht : s.f F.QE_Q_TAIL_TAIL_SEQ q.val % 4096 ≠ j.toNat) (hn : (s.slot q.val (s.f F.QE_Q_TAIL_TAIL_SEQ q.val % 4096)).held = false) :
    exec (.seal o q j w) s = .next (s.setSlot q.val j.toNat (sealedSlot (s.slot q.val j.toNat) w)) := by
  rw [seal_holds ho hh hr, enterHeld_none]
  rw [setSlot_tail, slot_setSlot_ne _ _ _ (Ne.symm ht), hn]

theorem seal_next (ho : s.windowOpen o q.val = true) (hh : (s.slot q.val j.toNat).held = false) (hr : s.sealReason q.val j.toNat w = 0)
    (ht : bitsOf w 0 48 = s.f F.QE_Q_TAIL_TAIL_SEQ q.val) (hl : (s.slot q.val j.toNat).words.length = 8)
    (hn : (s.slot q.val ((s.f F.QE_Q_TAIL_TAIL_SEQ q.val + 1) % 4096)).held = false) :
    exec (.seal o q j w) s =
      .next ((s.setSlot q.val j.toNat (sealedSlot (s.slot q.val j.toNat) w)).enterRing q.val j.toNat) := by
  have hj : s.f F.QE_Q_TAIL_TAIL_SEQ q.val % 4096 = j.toNat := ht ▸ sealReason_slot hr
  have hw : nth (sealedSlot (s.slot q.val j.toNat) w).words 7 0 = w := by simp [sealedSlot, writtenSlot, nth, setNth, hl]
  have hne : j.toNat ≠ (s.f F.QE_Q_TAIL_TAIL_SEQ q.val + 1) % 2 ^ 48 % 4096 := by omega
  have hm : (s.f F.QE_Q_TAIL_TAIL_SEQ q.val + 1) % 2 ^ 48 % 4096 = (s.f F.QE_Q_TAIL_TAIL_SEQ q.val + 1) % 4096 := by omega
  rw [seal_holds ho hh hr, enterHeld_next, setSlot_tail, hj, enterHeld_none]
  · rw [enterRing_tail, setSlot_tail, enterRing_slot_ne _ _ _ hne, slot_setSlot_ne _ _ _ hne, hm, hn]
  · rw [setSlot_tail, hj, slot_setSlot_self, sealedSlot]
  · rw [setSlot_tail, hj, slot_setSlot_self, hw, ht]

end Windows

/-! ## Records and waits (R47, R49, R55, R56, R61) -/

section Records

variable {s : State} {q : QId} {r : Rec} {f v l : Nat}

theorem nop_completes (h : Starts specNop s q.val r) (ho : r.opcode = 0x01) :
    exec (.nop q) s = .next ((s.takeHead q.val 0 r).finishFlight q.val (s.headSeq q.val) .ok 0 0) := by
  have hd : definedOpcode r.opcode = true := by rw [ho]; rfl
  change execNop q s = _
  simp only [execNop, h.head, hd, Bool.not_true, Bool.and_false, Bool.false_eq_true, if_false]
  exact congrArg Host.Outcome.next (queueCommand_runs _ h (by rw [ho]; rfl))

theorem fenceSignal_completes (h : Starts specFenceSignal s q.val r) (ho : r.opcode = 0x02) :
    exec (.fenceSignal q) s = .next (((s.takeHead q.val 0 r).signal (s.queueJob q.val) (bitsOf r.w3 0 16) r.w4.toNat (bitOf r.w3 16) false
      (bitOf r.w3 17)).finishFlight q.val (s.headSeq q.val) .ok 0 0) := by
  rw [← takeHead_queueJob s q 0 r]
  exact congrArg Host.Outcome.next (queueCommand_runs _ h (by rw [ho]; rfl))

theorem fenceWait_completes (h : Starts specFenceWait s q.val r) (ho : r.opcode = 0x03) :
    exec (.fenceWait q) s = .next ((s.takeHead q.val 0 r).finishFlight q.val (s.headSeq q.val) .ok 0 0) :=
  congrArg Host.Outcome.next (queueCommand_runs _ h (by rw [ho]; rfl))

/-- A wait that is over goes on by `waitOver`. -/
theorem waitSatisfied_over (hr : s.headRec q.val = some r) (hw : s.headWait q.val = some (f, v, l)) (ho : s.queueOpen q.val = true)
    (hv : v ≤ s.fenceValue f) : exec (.waitSatisfied q) s = .next (s.waitOver q.val f r) := by
  change execWaitSatisfied q s = _
  simp only [execWaitSatisfied, hr, hw, ho, State.waitMet, hv, decide_true, Bool.and_self, if_true]

theorem waitOver_fenced (he : s.fenceErr f = true) : s.waitOver q.val f r = s.headDone q.val r .fenced 0 := if_pos he

theorem waitOver_starts {t0 : Nat} (he : s.fenceErr f = false) (hp : (s.queue q.val).head = .waitFence t0) (hn : r.opcode ≠ 0x03)
    (hf : s.headHeld (specOf r) q.val r = false) (ho : (specOf r).owns s q.val r = true) :
    s.waitOver q.val f r = (specOf r).run (s.takeHead q.val (specOf r).engine r) q.val (s.headSeq q.val) r := by
  simp only [State.waitOver, he, hp, Bool.false_eq_true, if_false]
  exact opWait_runs (fun e => absurd e hn) hf ho

theorem waitTimeout_short (hr : s.headRec q.val = some r) (hw : s.headWait q.val = some (f, v, l)) (ho : s.queueOpen q.val = true)
    (hv : s.fenceValue f < v) (hl : l ≤ s.now) : exec (.waitTimeout q) s = .next (s.headDone q.val r .timeout 0) := by
  have hm : s.waitMet f v = false := decide_eq_false (Nat.not_le.2 hv)
  change execWaitTimeout q s = _
  simp only [execWaitTimeout, hr, hw, ho, hm, hl, decide_true, Bool.not_false, Bool.and_self, if_true]

theorem irqDelayExpiry_raises (he : s.fb F.QE_Q_IRQ_EN q.val = true) (hu : 0 < (s.queue q.val).unraised)
    (hl : (s.queue q.val).oldest + 1000 * s.f F.QE_Q_IRQ_DELAY q.val ≤ s.now) :
    exec (.irqDelayExpiry q) s = .next (s.queueRaise q.val) := by
  change execIrqDelayExpiry q s = _
  simp only [execIrqDelayExpiry, he, hu, hl, decide_true, Bool.and_self, if_true]

end Records

/-- Settles O4: windows, seals, records and waits each by their lemma above. -/
theorem recordsAreTakenAndComplete : Obligations.RecordsAreTakenAndComplete := by
  unfold Obligations.RecordsAreTakenAndComplete
  refine ⟨?_, ?_, ?_, ?_, ?_, ?_, ?_, ?_, ?_, ?_, ?_, ?_, ?_⟩
  · intro s o q j i off bs ho hf hb hh
    exact windowWrite_word i off bs ho hf hb hh
  · intro s o q off bs ho
    exact windowWrite_elsewhere off bs ho
  · intro s o q j w ho hh hr ht hn
    exact seal_ahead ho hh hr ht hn
  · intro s o q j w ho hh hr ht hl hn
    exact seal_next ho hh hr ht hl hn
  · intro s o q j w ho hh hr
    exact seal_rejected ho hh hr
  · intro s q j hm hs hp hl
    have hb : (wordsBytes (s.slot q j).words).length = 64 := by rw [wordsBytes_length, hl]
    have hy := enterRing_memory s q j
    exact ⟨(bytes_congr fun _ _ => byte_memory hy _).trans (bytes_store hm _ _ hb hp), enterRing_tail s q j, enterRing_slot_self s q j hs,
      enterRing_sameRegs s q j, fun c hc => (byte_memory hy c).trans (sameBytes_store s _ _ hb (by omega) c hc)⟩
  · intro s q r h ho
    exact nop_completes h ho
  · intro s q r h ho
    exact fenceSignal_completes h ho
  · intro s q r h ho
    exact fenceWait_completes h ho
  · intro s q r f v l t0 hr hw ho hv he hp hn hf hown
    rw [waitSatisfied_over hr hw ho hv, waitOver_starts he hp hn hf hown]
  · intro s q r f v l hr hw ho hv he
    rw [waitSatisfied_over hr hw ho hv, waitOver_fenced he]
  · intro s q r f v l hr hw ho hv hl
    exact waitTimeout_short hr hw ho hv hl
  · intro s q he hu hl
    exact irqDelayExpiry_raises he hu hl

end Sys2Proof.Proofs
end

section
/-! Core runs and the ordinary instructions of a core (R53, R283, R284, R288): the statement about what cores do. -/

namespace Sys2Proof.Proofs

open Sys2Proof.Machine Sys2Proof.Laws

/-! ## Cores -/

section Cores

variable (s : State)

@[simp] theorem core_setCore_self (c : Nat) (x : CoreSt) : (s.setCore c x).core c = some x := mget_mset_self _ _ _

theorem core_setCore_ne {c k : Nat} (x : CoreSt) (h : c ≠ k) : (s.setCore c x).core k = s.core k := mget_mset_ne _ _ h

theorem setCore_rest (c : Nat) (x : CoreSt) : s.setCore c x = { s with cores := (s.setCore c x).cores } := rfl

end Cores

/-! ## Runs that start (R53, R283) -/

section Runs

variable {s : State} (q seq : Nat) (r : Rec)

/-- The cores of a list started for a record. -/
def coresStarted (s : State) (q seq : Nat) (r : Rec) (cs : List Nat) : State :=
  cs.foldl (fun s c => s.setCore c (.start q seq (s.queueJob q) c r.w3 r.w4)) s

theorem coresStarted_cons (c : Nat) (cs : List Nat) :
    coresStarted s q seq r (c :: cs) = coresStarted (s.setCore c (.start q seq (s.queueJob q) c r.w3 r.w4)) q seq r cs := rfl

theorem coresStarted_rest (cs : List Nat) : coresStarted s q seq r cs = { s with cores := (coresStarted s q seq r cs).cores } := by
  induction cs generalizing s with
  | nil => rfl
  | cons c cs ih => rw [coresStarted_cons, ih]; rfl

theorem coresStarted_out {cs : List Nat} {k : Nat} (h : k ∉ cs) : (coresStarted s q seq r cs).core k = s.core k := by
  induction cs generalizing s with
  | nil => rfl
  | cons c cs ih =>
    obtain ⟨hc, hk⟩ := not_or.1 (mt List.mem_cons.2 h)
    rw [coresStarted_cons, ih hk, core_setCore_ne s _ (Ne.symm hc)]

theorem coresStarted_in {cs : List Nat} {k : Nat} (h : k ∈ cs) :
    (coresStarted s q seq r cs).core k = some (.start q seq (s.queueJob q) k r.w3 r.w4) := by
  induction cs generalizing s with
  | nil => exact absurd h List.not_mem_nil
  | cons c cs ih =>
    rw [coresStarted_cons]
    by_cases hk : k ∈ cs
    · exact ih hk
    · obtain rfl := (List.mem_cons.1 h).resolve_right hk
      rw [coresStarted_out _ _ _ hk, core_setCore_self]

theorem coreRun_runs {q : QId} {r : Rec} (h : Starts specCoreRun s q.val r) (ho : r.opcode = 0x14) :
    exec (.coreRun q) s = .next ((s.takeHead q.val 0 r).runCoreRun q.val (s.headSeq q.val) r) :=
  congrArg Host.Outcome.next (queueCommand_runs _ h (by rw [ho]; rfl))

theorem coreRun_starts {q : QId} {r : Rec} (h : Starts specCoreRun s q.val r) (ho : r.opcode = 0x14) (h5 : r.w5 ≠ 0) :
    exec (.coreRun q) s = .next (coresStarted (s.takeHead q.val 0 r) q.val (s.headSeq q.val) r (coreMask r)) :=
  (coreRun_runs h ho).trans (congrArg Host.Outcome.next (if_neg h5))

end Runs

/-! ## Runs that end (R53, R288) -/

section Ends

variable {s : State} {q seq : Nat}

theorem coreRunTimeout_late {q : QId} {seq : BitVec 48} {x : Flight} (hx : s.flightOf q.val seq.toNat 0x14 0x14 = some x)
    (hl : s.coresLate q.val x.seq = true) : exec (.coreRunTimeout q seq) s = .next (s.endCores q.val x.seq .timeout 0 0) := by
  change execCoreRunTimeout q seq s = _
  simp only [execCoreRunTimeout, hx, hl, if_true]

theorem coreTrap_traps {c : CoreId} {x : CoreSt} (cause : BitVec 8) (hx : s.core c.val = some x) (hr : s.running = true)
    (he : x.exited = none) (ht : x.trapped = none) :
    exec (.coreTrap c cause) s = .next (s.setCore c.val { x with
      trapped := some ((if cause = 12 ∨ cause = 13 ∨ cause = 15 then Status.denied else .badCommand).code,
        trapResult c.val cause.toNat x.pc, 0), wait := .none }) := by
  change execCoreTrap c cause s = _
  simp only [execCoreTrap, State.coreEnds, hx, hr, he, ht, Option.isNone_none, Option.isSome_none, Bool.and_self, if_true,
    Bool.false_eq_true, if_false]

theorem ofCode_code (st : Status) : Status.ofCode st.code = st := by cases st <;> rfl

/-- A run of which a core has trapped ends by its trap, or by its timeout. -/
theorem endTrapped_trap {st : Status} {v d : W64} (h : s.trapOf q seq = some (st.code, v, d)) :
    s.endTrapped q seq = if s.coresLate q seq then s.endCores q seq .timeout else s.endCores q seq st v d := by
  simp only [State.endTrapped, h, ofCode_code]

/-- In a rising list, the first element that gives a value is the least one. -/
theorem findSome?_least {β : Type} {g : Nat → Option β} {l : List Nat} {c : Nat} (hs : l.Pairwise (· < ·)) (hc : c ∈ l)
    (hn : ∀ k ∈ l, k < c → g k = none) (hg : g c ≠ none) : l.findSome? g = g c := by
  induction l with
  | nil => exact absurd hc List.not_mem_nil
  | cons a l ih =>
    obtain ⟨ha, hl⟩ := List.pairwise_cons.1 hs
    rcases List.mem_cons.1 hc with rfl | hc'
    · obtain ⟨y, hy⟩ := Option.ne_none_iff_exists'.1 hg
      rw [List.findSome?_cons, hy]
    · rw [List.findSome?_cons, hn a List.mem_cons_self (ha c hc')]
      exact ih hl hc' fun k hk => hn k (List.mem_cons_of_mem _ hk)

/-- The trap reported is that of the least core that has trapped. -/
theorem trapOf_least {c : Nat} {x : CoreSt} (hc : c ∈ s.runCores q seq)
    (hn : ∀ k ∈ s.runCores q seq, k < c → (s.core k).bind (fun y => y.trapped) = none) (hx : s.core c = some x)
    (ht : x.trapped ≠ none) (hs : (s.runCores q seq).Pairwise (fun a b => a < b)) : s.trapOf q seq = x.trapped := by
  have hg : (s.core c).bind (fun y => y.trapped) = x.trapped := by rw [hx, Option.bind_some]
  exact (findSome?_least hs hc hn (hg ▸ ht)).trans hg

end Ends

/-! ## Ordinary instructions (R283, R284, R288) -/

section Instructions

variable {u v : State} {c : Nat} {x y : CoreSt}

theorem coreInstruction_fetched {s : State} {c : CoreId} {act : CoreAct} {bs : List Byte} (ha : act ≠ .fail)
    (h : Fetches s c.val (actLen act) bs u x) (ho : leNat bs % 128 ≠ 0x0B) :
    exec (.coreInstruction c act) s = .next (u.coreDo c.val x act) := by
  change execCoreInstruction c act s = _
  rw [execCoreInstruction, if_neg ha]
  exact congrArg Host.Outcome.next (coreStep_fetches h _ _ (bne_iff_ne.2 ho))

/-- A register of a core after one is written. -/
theorem xr_setX {rd i : Nat} (w : W64) (hl : x.x.length = 32) (hi : i < 32) :
    (x.setX rd w).xr i = if i = 0 then 0 else if i = rd then w else x.xr i := by
  by_cases h0 : i = 0
  · simp [CoreSt.xr, h0]
  · by_cases hr : i = rd
    · subst hr
      simp [CoreSt.xr, CoreSt.setX, nth, setNth, h0, hl, hi]
    · by_cases hd : rd = 0
      · simp [CoreSt.xr, CoreSt.setX, h0, hd]
      · simp [CoreSt.xr, CoreSt.setX, nth, setNth, h0, hr, hd, List.getElem?_set_ne (Ne.symm hr)]

/-- An access for a load whose lines are in the cache and unmarked goes on with their bytes. -/
theorem coreRead_loads {va n : Nat} {bs : List Byte} (h : Loads u c va n v y bs) (k : State → List Byte → State) :
    u.coreRead c false va n k = k v bs := by
  obtain ⟨ls, ha, hy, hm, hb⟩ := h
  simp only [State.coreRead, ha, hy, hm, hb, Bool.false_eq_true, if_false]

/-- An access for a store whose lines are in the cache goes on with them written. -/
theorem coreWrite_stores {va : Nat} {bs : List Byte} {ls : List XLine} (h : Stores u c va bs.length v y ls) (k : State → State) :
    u.coreWrite c va bs k = k ((v.setCore c (y.writeAt ls va bs)).noteRange y.job va bs.length) := by
  obtain ⟨ha, hy⟩ := h
  simp only [State.coreWrite, ha, hy]

/-- The end of an instruction moves the `pc` past it, writes one register, and changes no other core. -/
theorem coreNext_moves (len : Nat) {rd : Nat} (w : W64) (hx : u.core c = some x) (hl : x.x.length = 32) :
    ∃ y, (u.coreNext c len rd w).core c = some y ∧ y.pc = x.pc + BitVec.ofNat 64 len ∧
      (∀ i, i < 32 → y.xr i = if i = 0 then 0 else if i = rd then w else x.xr i) ∧
      (∀ d, d ≠ c → (u.coreNext c len rd w).core d = u.core d) ∧
      u.coreNext c len rd w = { u with cores := (u.coreNext c len rd w).cores } := by
  rw [coreNext_core hx]
  exact ⟨_, core_setCore_self _ _ _, rfl, fun i hi => xr_setX w hl hi, fun d hd => core_setCore_ne _ _ (Ne.symm hd), setCore_rest _ _ _⟩

end Instructions

/-- Settles O19: runs, traps and instructions each by their lemma above. -/
theorem coresRunTheirInstructions : Obligations.CoresRunTheirInstructions := by
  unfold Obligations.CoresRunTheirInstructions
  refine ⟨?_, ?_, ?_, ?_, ?_, ?_, fun _ _ => rfl, ?_, fun _ _ _ _ _ _ _ => rfl, fun _ _ _ _ _ _ => rfl, ?_, ?_⟩
  · intro s q r h ho h5
    refine ⟨_, coreRun_starts h ho h5, fun c hc => ?_, fun c hc => ?_, coresStarted_rest _ _ _ _⟩
    · rw [coresStarted_in _ _ _ hc, takeHead_queueJob]
    · rw [coresStarted_out _ _ _ hc, takeHead_core]
  · intro s q seq x hx hl
    exact coreRunTimeout_late hx hl
  · intro s q r h ho h5
    rw [coreRun_runs h ho, State.runCoreRun, if_pos h5]
  · intro s c cause x hx hr he ht
    exact coreTrap_traps cause hx hr he ht
  · intro s q seq c x st v d h
    exact ⟨endTrapped_trap h, fun hc hn hx ht hs => trapOf_least hc hn hx ht hs⟩
  · intro s u c act bs x ha h ho
    exact coreInstruction_fetched ha h ho
  · intro u c x len rd v hx hl _
    exact coreNext_moves len v hx hl
  · intro u v c x y n w sg rd rs1 imm bs h
    exact coreRead_loads h (fun s bs => s.coreNext c n rd.val (loadValue w sg bs))
  · intro u v c x y n w rs2 rs1 imm ls h
    exact coreWrite_stores h (fun s => s.coreNext c n 0 0)

end Sys2Proof.Proofs
end

section
/-! Memory in canonical form (R87 to R90): what a step does to the bytes of the Terrace and the Basin. Each operation of the model on the
state has one lemma, in the order of the model: `MemoryCanonical.<operation>` says that the operation keeps the memory in canonical form,
`<command>_canonical` that the command answers a next state whose memory is. Only the writes of bytes touch the list of memory
(`MemoryCanonical.store`, `.zero`, `.pokePieces`, `.putLine`, `.restarted`, `memoryCanonical_zeroAll`); every other lemma cites those of
the operations that its own operation is made of, branch by branch. -/

namespace Sys2Proof.Machine

open Sys2Proof.Laws

variable {s : State}

/-! ## What it is to keep the memory in canonical form -/

theorem MemoryCanonical.of_memory {t : State} (h : MemoryCanonical s) (e : t.memory = s.memory) : MemoryCanonical t := by
  unfold MemoryCanonical
  rw [e]
  exact h

theorem MemoryCanonical.of_fst {α : Type} {x : State × α} {t : State} {a : α} (e : x = (t, a)) (h : MemoryCanonical x.1) :
    MemoryCanonical t := by
  rw [e] at h
  exact h

theorem MemoryCanonical.ite {c : Prop} [Decidable c] {s t : State} (hs : MemoryCanonical s) (ht : MemoryCanonical t) :
    MemoryCanonical (if c then s else t) := by
  split
  · exact hs
  · exact ht

theorem MemoryCanonical.iteFst {α : Type} {c : Prop} [Decidable c] {x y : State × α} (hx : MemoryCanonical x.1)
    (hy : MemoryCanonical y.1) : MemoryCanonical (if c then x else y).1 := by
  split
  · exact hx
  · exact hy

theorem MemoryCanonical.foldl {α : Type} {f : State → α → State} {l : List α} (h : MemoryCanonical s)
    (hf : ∀ t x, MemoryCanonical t → MemoryCanonical (f t x)) : MemoryCanonical (l.foldl f s) :=
  List.foldlRecOn (motive := MemoryCanonical) l f h fun t ht x _ => hf t x ht

theorem MemoryCanonical.foldlFst {α β : Type} {f : State × β → α → State × β} {l : List α} {x : State × β} (h : MemoryCanonical x.1)
    (hf : ∀ t x, MemoryCanonical t.1 → MemoryCanonical (f t x).1) : MemoryCanonical (l.foldl f x).1 :=
  List.foldlRecOn (motive := fun t : State × β => MemoryCanonical t.1) l f h fun t ht y _ => hf t y ht

theorem MemoryCanonical.foldlOk {ε α : Type} {f : Except ε State → α → Except ε State} {l : List α} {x : Except ε State} {t : State}
    (hf : ∀ a b u, (∀ v, a = .ok v → MemoryCanonical v) → f a b = .ok u → MemoryCanonical u)
    (hx : ∀ v, x = .ok v → MemoryCanonical v) (e : l.foldl f x = .ok t) : MemoryCanonical t := by
  induction l generalizing x with
  | nil => exact hx t e
  | cons b l ih => exact ih (fun v => hf x b v hx) e

/-- A next state whose memory is in canonical form. -/
inductive NextCanonical : Host.Outcome State Fault Refusal → Prop
  | next {t : State} (h : MemoryCanonical t) : NextCanonical (.next t)

theorem NextCanonical.ite {c : Prop} [Decidable c] {x y : Host.Outcome State Fault Refusal} (hx : NextCanonical x) (hy : NextCanonical y) :
    NextCanonical (if c then x else y) := by
  split
  · exact hx
  · exact hy

theorem NextCanonical.memory (h : NextCanonical (.next s)) : MemoryCanonical s := by
  cases h
  assumption

/-- The state that an operation answers, where it answers one, has its memory in canonical form. -/
def CanonicalOpt (o : Option State) : Prop := ∀ t, o = some t → MemoryCanonical t

theorem CanonicalOpt.none : CanonicalOpt .none := fun _ e => nomatch e

theorem CanonicalOpt.some (h : MemoryCanonical s) : CanonicalOpt (.some s) := fun _ e => Option.some.inj e ▸ h

theorem CanonicalOpt.ite {c : Prop} [Decidable c] {x y : Option State} (hx : CanonicalOpt x) (hy : CanonicalOpt y) :
    CanonicalOpt (if c then x else y) := by
  split
  · exact hx
  · exact hy

theorem memoryCanonical_reset : MemoryCanonical State.reset := rfl

/-! ### The setters of the state -/

theorem MemoryCanonical.setReg {off v} (h : MemoryCanonical s) : MemoryCanonical (s.setReg off v) := h

theorem MemoryCanonical.setR {x v i j} (h : MemoryCanonical s) : MemoryCanonical (s.setR x v i j) := h

theorem MemoryCanonical.setF {x v i j} (h : MemoryCanonical s) : MemoryCanonical (s.setF x v i j) := h

theorem MemoryCanonical.count {x i j n} (h : MemoryCanonical s) : MemoryCanonical (s.count x i j n) := h

theorem MemoryCanonical.countWrap {x i j n} (h : MemoryCanonical s) : MemoryCanonical (s.countWrap x i j n) := h

theorem MemoryCanonical.emit {o} (h : MemoryCanonical s) : MemoryCanonical (s.emit o) := h

theorem MemoryCanonical.setQueue {q x} (h : MemoryCanonical s) : MemoryCanonical (s.setQueue q x) := h

theorem MemoryCanonical.drawn (h : MemoryCanonical s) : MemoryCanonical s.drawn := h

theorem MemoryCanonical.setHead {q p} (h : MemoryCanonical s) : MemoryCanonical (s.setHead q p) := h

theorem MemoryCanonical.setFlight {q x} (h : MemoryCanonical s) : MemoryCanonical (s.setFlight q x) := h

theorem MemoryCanonical.setSlot {q j x} (h : MemoryCanonical s) : MemoryCanonical (s.setSlot q j x) := h

theorem MemoryCanonical.clearSlot {q j} (h : MemoryCanonical s) : MemoryCanonical (s.clearSlot q j) := h

theorem MemoryCanonical.advanceHead {q} (h : MemoryCanonical s) : MemoryCanonical (s.advanceHead q) := h

theorem MemoryCanonical.setPort {p x} (h : MemoryCanonical s) : MemoryCanonical (s.setPort p x) := h.of_memory (setPort_memory s p x)

theorem MemoryCanonical.store {a bs mark} (h : MemoryCanonical s) : MemoryCanonical (s.store a bs mark) := memWf_store a bs mark h

theorem MemoryCanonical.zero {a n} (h : MemoryCanonical s) : MemoryCanonical (s.zero a n) := memWf_zero a n h

theorem MemoryCanonical.setPoison {p : List Nat} (h : MemoryCanonical s) :
    MemoryCanonical { s with memory := { s.memory with poison := p } } := h

/-! ## Shared operations -/

/-! ### What leaves the device -/

theorem MemoryCanonical.hostWrite {p addr bs} (h : MemoryCanonical s) : MemoryCanonical (s.hostWrite p addr bs) :=
  .ite h.count (.ite h.emit h.count)

theorem MemoryCanonical.raise {p v} (h : MemoryCanonical s) : MemoryCanonical (s.raise p v) := .ite h.count (.ite h.setPort h.emit)

/-! ### Memory (R599, R524) -/

theorem MemoryCanonical.storeWord {a w} (h : MemoryCanonical s) : MemoryCanonical (s.storeWord a w) := h.store

/-! ## Management messages (R506, R569) -/

theorem MemoryCanonical.mgmtSend {transport key body} (h : MemoryCanonical s) : MemoryCanonical (s.mgmtSend transport key body) := h.emit

theorem MemoryCanonical.setRole {r x} (h : MemoryCanonical s) : MemoryCanonical (s.setRole r x) := h

theorem MemoryCanonical.sessionAnswer {r tag mseq op status payload} (h : MemoryCanonical s) :
    MemoryCanonical (s.sessionAnswer r tag mseq op status payload) := by
  unfold State.sessionAnswer
  split
  · exact h
  · exact h.mgmtSend

/-! ## Flags, completions, interrupts and the fault log -/

/-! ### Fences (R54, R55) -/

theorem MemoryCanonical.signal {n f value add err clear} (h : MemoryCanonical s) : MemoryCanonical (s.signal n f value add err clear) :=
  .ite h.setR h

/-! ### Completion records (R58 to R61) -/

theorem MemoryCanonical.cqWrite {q off bs} (h : MemoryCanonical s) : MemoryCanonical (s.cqWrite q off bs) := .ite h.hostWrite h.store

theorem MemoryCanonical.queueRaise {q} (h : MemoryCanonical s) : MemoryCanonical (s.queueRaise q) := .ite h.setQueue.raise h.setQueue

theorem MemoryCanonical.moderate {q now} (h : MemoryCanonical s) : MemoryCanonical (s.moderate q now) :=
  .ite h.setQueue (.ite h.setQueue.queueRaise h.setQueue)

theorem MemoryCanonical.writeCompletion {q seq opcode st result detail now} (h : MemoryCanonical s) :
    MemoryCanonical (s.writeCompletion q seq opcode st result detail now) :=
  h.cqWrite.cqWrite.setQueue.moderate

theorem MemoryCanonical.recordSignal {q r st} (h : MemoryCanonical s) : MemoryCanonical (s.recordSignal q r st) := .ite h.signal h

theorem MemoryCanonical.finish {q seq r st result detail} (h : MemoryCanonical s) : MemoryCanonical (s.finish q seq r st result detail) :=
  .ite h.recordSignal (.ite h.recordSignal.count h.recordSignal.writeCompletion)

theorem MemoryCanonical.cancelUnstarted {q seq r} (h : MemoryCanonical s) : MemoryCanonical (s.cancelUnstarted q seq r) :=
  .ite h.recordSignal.writeCompletion h.recordSignal.count

theorem MemoryCanonical.finishFlight {q seq st result detail} (h : MemoryCanonical s) :
    MemoryCanonical (s.finishFlight q seq st result detail) := by
  unfold State.finishFlight
  split
  · exact h
  · exact h.setQueue.finish

/-! ### Transactions: rolling back (R70) -/

theorem MemoryCanonical.rollback {m st detail} (h : MemoryCanonical s) : MemoryCanonical (s.rollback m st detail) := by
  unfold State.rollback
  split
  · exact h
  · refine .ite ?_ h
    split
    · exact .finishFlight h
    · exact .sessionAnswer h

/-! ### Faults (R520 to R527) -/

theorem MemoryCanonical.countLines {wr a n} (h : MemoryCanonical s) : MemoryCanonical (s.countLines wr a n) :=
  .ite h (h.foldl fun _ _ ht => ht.countWrap)

theorem MemoryCanonical.faultVectors {cls} (h : MemoryCanonical s) : MemoryCanonical (s.faultVectors cls) :=
  h.foldl fun _ _ ht => .ite ht.raise ht

theorem MemoryCanonical.writeLog {code esc d i job cmd datum} (h : MemoryCanonical s) :
    MemoryCanonical (s.writeLog code esc d i job cmd datum) := by
  unfold State.writeLog
  extract_lets z s₀ a₀ a₁ a₂ a₃ a₄ c s₁ s₂ s₃ s₄ s₅ s₆ f s₇
  have h₀ : MemoryCanonical s₀ := .ite h.count h
  have h₆ : MemoryCanonical s₆ := h₀.setR.setR.setR.setR.setF.count
  have h₇ : MemoryCanonical s₇ := h₆
  exact h₇.faultVectors

theorem MemoryCanonical.logAs {code esc d i job cmd datum} (h : MemoryCanonical s) :
    MemoryCanonical (s.logAs code esc d i job cmd datum) := by
  unfold State.logAs
  dsimp only
  split
  · exact h
  · exact h.count.writeLog

theorem MemoryCanonical.faultRollback {code d i k} (h : MemoryCanonical s) : MemoryCanonical (s.faultRollback code d i k) :=
  .ite h (h.foldl fun _ _ ht => ht.rollback)

theorem MemoryCanonical.failDale {d} (h : MemoryCanonical s) : MemoryCanonical (s.failDale d) := h.setF

theorem MemoryCanonical.beginRecovery {d i} (h : MemoryCanonical s) : MemoryCanonical (s.beginRecovery d i) := h

theorem MemoryCanonical.endRecovery {d i} (h : MemoryCanonical s) : MemoryCanonical (s.endRecovery d i) := h

theorem MemoryCanonical.siteUnit {i} (h : MemoryCanonical s) : MemoryCanonical (s.siteUnit i) := by
  unfold State.siteUnit
  refine .ite h.setF (.ite h (.ite (h.beginRecovery.foldl fun _ _ ht => ht.beginRecovery) ?_))
  split
  · exact h.failDale
  · exact h

theorem MemoryCanonical.stopDevice (h : MemoryCanonical s) : MemoryCanonical s.stopDevice := h

theorem MemoryCanonical.loseStack {k} (h : MemoryCanonical s) : MemoryCanonical (s.loseStack k) := h.logAs.setF.stopDevice

theorem MemoryCanonical.failChannel {i} (h : MemoryCanonical s) : MemoryCanonical (s.failChannel i) := .ite h.loseStack h.setF.beginRecovery

theorem MemoryCanonical.faultOutcome {code d i} (h : MemoryCanonical s) : MemoryCanonical (s.faultOutcome code d i) := by
  unfold State.faultOutcome
  split
  · exact h.stopDevice
  · exact h.setF
  · exact h.siteUnit
  · exact h.failChannel
  · split
    · exact h.failDale
    · exact h
  · exact h.failDale
  · exact h.setF
  · exact h
  · exact h.loseStack
  · exact h.loseStack
  · exact h

theorem MemoryCanonical.fault {code d i job cmd datum} (h : MemoryCanonical s) : MemoryCanonical (s.fault code d i job cmd datum) :=
  h.logAs.faultRollback.faultOutcome

/-! ## Translation and accesses -/

/-! ### Translation entries (R93, R94) -/

theorem MemoryCanonical.setPageTable {n p} (h : MemoryCanonical s) : MemoryCanonical (s.setPageTable n p) :=
  .foldl (h.foldl fun _ _ ht => ht.storeWord) fun _ _ ht => ht.storeWord

/-! ### Translation caches (R99) -/

theorem MemoryCanonical.tlbFill {k x} (h : MemoryCanonical s) : MemoryCanonical (s.tlbFill k x) := .ite h (.ite h h)

theorem MemoryCanonical.walkFill {die n va level log2} (h : MemoryCanonical s) : MemoryCanonical (s.walkFill die n va level log2) :=
  .ite h (.tlbFill (h.foldl fun _ _ ht => ht.tlbFill))

theorem MemoryCanonical.lookUp {k die n va} (h : MemoryCanonical s) : MemoryCanonical (s.lookUp k die n va).1 := by
  unfold State.lookUp
  refine .iteFst h ?_
  split
  · exact .iteFst h.walkFill.tlbFill h
  · exact h

theorem MemoryCanonical.lookUps {k die n va len} (h : MemoryCanonical s) : MemoryCanonical (s.lookUps k die n va len).1 :=
  .iteFst h (.foldlFst h fun _ _ ht => ht.lookUp)

theorem MemoryCanonical.xlateFault {n va reason level wr cmd} (h : MemoryCanonical s) :
    MemoryCanonical (s.xlateFault n va reason level wr cmd) :=
  .ite h.fault.setF h.fault.setF.setR

/-! ### Reads and writes through translation -/

theorem MemoryCanonical.writePieces {ps bs mark} (h : MemoryCanonical s) : MemoryCanonical (s.writePieces ps bs mark) := by
  induction ps generalizing s bs with
  | nil => exact h
  | cons p ps ih =>
    refine ih ?_
    split
    · exact h.store
    · exact h

theorem MemoryCanonical.accFault {n i cmd} (h : MemoryCanonical s) : MemoryCanonical (s.accFault n i cmd) := by
  unfold State.accFault
  split
  · exact h.xlateFault
  · exact h.fault
  · exact h

/-! ## The queue engine (R40 to R57) -/

/-! ### Windows and seals (R41 to R44) -/

theorem MemoryCanonical.reject {q reason} (h : MemoryCanonical s) : MemoryCanonical (s.reject q reason) := h.count.setF

theorem MemoryCanonical.enterRing {q j} (h : MemoryCanonical s) : MemoryCanonical (s.enterRing q j) := h.store.setF.clearSlot

theorem MemoryCanonical.enterHeld {fuel q} (h : MemoryCanonical s) : MemoryCanonical (State.enterHeld fuel s q) := by
  induction fuel generalizing s with
  | zero => exact h
  | succ fuel ih => exact .ite (ih h.enterRing) h

theorem MemoryCanonical.sealSlot {q j w} (h : MemoryCanonical s) : MemoryCanonical (s.sealSlot q j w) :=
  .ite h.reject (.ite h.clearSlot.reject h.setSlot.enterHeld)

theorem MemoryCanonical.windowWord {q off w t} (h : MemoryCanonical s) (e : s.windowWord q off w = some t) : MemoryCanonical t := by
  unfold State.windowWord at e
  dsimp only at e
  split at e
  · cases e
  · split at e <;> cases e
    · exact h.sealSlot
    · exact h.setSlot

theorem MemoryCanonical.windowWords {q off ws} (h : MemoryCanonical s) : MemoryCanonical (s.windowWords q off ws).1 := by
  unfold State.windowWords
  refine .foldlFst h fun _ _ ht => ?_
  split
  · next e =>
    refine .windowWord ?_ e
    exact ht
  · exact ht

theorem MemoryCanonical.windowBytes {o q off bs} (h : MemoryCanonical s) : MemoryCanonical (s.windowBytes o q off bs) :=
  .ite h.reject (.ite h.windowWords.reject h.windowWords)

/-! ### A `ROUTE` that fails before it runs (R351, R376) -/

theorem MemoryCanonical.setRoute {g x} (h : MemoryCanonical s) : MemoryCanonical (s.setRoute g x) := h

theorem MemoryCanonical.dropPlan {g} (h : MemoryCanonical s) : MemoryCanonical (s.dropPlan g) := h.setRoute

theorem MemoryCanonical.discardPlan {g} (h : MemoryCanonical s) : MemoryCanonical (s.discardPlan g) := h.dropPlan.setF

theorem MemoryCanonical.routeTurnedAway {n r st} (h : MemoryCanonical s) : MemoryCanonical (s.routeTurnedAway n r st) :=
  .ite (.ite h.setF.setF (.ite h.setF.setF.setRoute.setF h.setF.setF.discardPlan)) h

theorem MemoryCanonical.unrun {q r st} (h : MemoryCanonical s) : MemoryCanonical (s.unrun q r st) := .ite h.routeTurnedAway h

theorem MemoryCanonical.headDone {q r st detail} (h : MemoryCanonical s) : MemoryCanonical (s.headDone q r st detail) :=
  h.unrun.advanceHead.finish

theorem MemoryCanonical.headUnfenced {q r} (h : MemoryCanonical s) : MemoryCanonical (s.headUnfenced q r) := h.headDone

theorem MemoryCanonical.takeHead {q i r} (h : MemoryCanonical s) : MemoryCanonical (s.takeHead q i r) := .ite h.advanceHead.setQueue h

/-- A command of the queues that keeps the memory in canonical form: where it runs, and where its early checks pass or fail. -/
structure KeepsCanonical (c : CmdSpec) : Prop where
  run : ∀ {s q seq r}, MemoryCanonical s → MemoryCanonical (c.run s q seq r)
  goes : ∀ {s q r t}, MemoryCanonical s → c.early s q r = .ok t → MemoryCanonical t
  stops : ∀ {s q r t d}, MemoryCanonical s → c.early s q r = .error (t, d) → MemoryCanonical t

theorem KeepsCanonical.of_run {c : CmdSpec} (h : ∀ {s q seq r}, MemoryCanonical s → MemoryCanonical (c.run s q seq r))
    (he : c.early = fun s _ _ => .ok s) : KeepsCanonical c :=
  ⟨h, fun hs e => by rw [he] at e; cases e; exact hs, fun _ e => by rw [he] at e; cases e⟩

theorem MemoryCanonical.startHead {c q r} (h : MemoryCanonical s) (hc : KeepsCanonical c) : MemoryCanonical (State.startHead c s q r) := by
  unfold State.startHead
  exact .ite h.setHead (.ite h.headDone (.ite h.setHead (hc.run h.takeHead)))

theorem MemoryCanonical.opWait {c q r} (h : MemoryCanonical s) (hc : KeepsCanonical c) : MemoryCanonical (State.opWait c s q r) := by
  unfold State.opWait
  exact .ite (.ite (.ite h.headDone (h.startHead hc)) h.setHead) (h.startHead hc)

theorem MemoryCanonical.firstWait {c q r} (h : MemoryCanonical s) (hc : KeepsCanonical c) : MemoryCanonical (State.firstWait c s q r) := by
  unfold State.firstWait
  exact .ite (.ite (.ite h.headDone (h.opWait hc)) h.setHead) (h.opWait hc)

theorem MemoryCanonical.poisonedHead {q r} (h : MemoryCanonical s) : MemoryCanonical (s.poisonedHead q r) := h.fault.headDone

theorem MemoryCanonical.headStep {c q r} (h : MemoryCanonical s) (hc : KeepsCanonical c) : MemoryCanonical (State.headStep c s q r) := by
  unfold State.headStep
  split
  · refine .ite h.poisonedHead (.ite h.headDone ?_)
    split
    · exact h.headDone
    · refine .ite h.headDone ?_
      split
      · exact h.headDone
      · split
        · next e => exact (hc.stops h e).headDone
        · next e => exact .ite ((hc.goes h e).firstWait hc) (hc.goes h e).headUnfenced
  · exact h.startHead hc
  · exact h

theorem MemoryCanonical.queueCommand {c kind q} (h : MemoryCanonical s) (hc : KeepsCanonical c) :
    MemoryCanonical (State.queueCommand c kind s q) := by
  unfold State.queueCommand
  split
  · exact h
  · exact .ite (h.headStep hc) h

/-! ### NOP, FENCE_SIGNAL, FENCE_WAIT -/

theorem specNop_canonical : KeepsCanonical specNop := .of_run (fun h => h.finishFlight) rfl

theorem specFenceSignal_canonical : KeepsCanonical specFenceSignal := .of_run (fun h => h.signal.finishFlight) rfl

theorem specFenceWait_canonical : KeepsCanonical specFenceWait := .of_run (fun h => h.finishFlight) rfl

theorem MemoryCanonical.undefinedHead {q r} (h : MemoryCanonical s) : MemoryCanonical (s.undefinedHead q r) :=
  .ite h.poisonedHead h.headDone

theorem execWindowWrite_canonical {o q off bs} (h : MemoryCanonical s) : NextCanonical (execWindowWrite o q off bs s) := .next h.windowBytes

theorem execSeal_canonical {o q slot w} (h : MemoryCanonical s) : NextCanonical (execSeal o q slot w s) := .next (.ite h.sealSlot h.reject)

theorem execNop_canonical {q} (h : MemoryCanonical s) : NextCanonical (execNop q s) := by
  unfold execNop
  refine .next ?_
  split
  · exact .ite h.undefinedHead (h.queueCommand specNop_canonical)
  · exact h

theorem execFenceSignal_canonical {q} (h : MemoryCanonical s) : NextCanonical (execFenceSignal q s) :=
  .next (h.queueCommand specFenceSignal_canonical)

theorem execFenceWait_canonical {q} (h : MemoryCanonical s) : NextCanonical (execFenceWait q s) :=
  .next (h.queueCommand specFenceWait_canonical)

theorem execWaitTimeout_canonical {q} (h : MemoryCanonical s) : NextCanonical (execWaitTimeout q s) := by
  unfold execWaitTimeout
  refine .next ?_
  split
  · exact .ite h.headDone h
  · exact h

theorem execIrqDelayExpiry_canonical {q} (h : MemoryCanonical s) : NextCanonical (execIrqDelayExpiry q s) := .next (.ite h.queueRaise h)

end Sys2Proof.Machine

end

section
/-! Memory in canonical form, continued: `MAP`, `UNMAP` and migration (R51, R94 to R102) and what follows. -/

namespace Sys2Proof.Machine

open Sys2Proof.Laws

variable {s : State}

/-! ## `MAP`, `UNMAP` and migration (R51, R94 to R102) -/

/-! ### Frames: what an entry covers, who owns what -/

theorem MemoryCanonical.releaseFrames {n} (h : MemoryCanonical s) : MemoryCanonical (s.releaseFrames n) := h

/-! ### Changing tables -/

theorem MemoryCanonical.setMig {l} (h : MemoryCanonical s) : MemoryCanonical (s.setMig l) := h

theorem MemoryCanonical.buildTable {n key avoid} (h : MemoryCanonical s) : MemoryCanonical (s.buildTable n key avoid) := by
  unfold State.buildTable
  split
  · exact .ite h.zero.setPageTable.setF.setF h.zero.setPageTable
  · split
    · exact .ite h.drawn.zero.setPageTable.setF.setF h.drawn.zero.setPageTable
    · exact h

theorem MemoryCanonical.dropMig {n} (h : MemoryCanonical s) : MemoryCanonical (s.dropMig n) := h.setMig

/-! ### MAP (R51, R96) -/

theorem MemoryCanonical.runUnmap {q seq r} (h : MemoryCanonical s) : MemoryCanonical (s.runUnmap q seq r) :=
  .ite h.finishFlight h.setPageTable.dropMig.releaseFrames.finishFlight

theorem MemoryCanonical.mapPage {n i va g avoid} (h : MemoryCanonical s) : MemoryCanonical (s.mapPage n i va g avoid) := by
  unfold State.mapPage
  extract_lets +onlyGivenNames z l s₁ s₂ off fr s₃ s₄
  have h₂ : MemoryCanonical s₂ := .setPageTable (h.foldl fun _ _ ht => ht.buildTable)
  clear_value s₂ off
  have h₃ : MemoryCanonical s₃ := by
    refine .ite h₂ ?_
    split
    · exact h₂
    · exact h₂
    · exact h₂
  clear_value s₃
  have h₄ : MemoryCanonical s₄ := h₃.dropMig
  exact .ite h₄.setMig h₄

theorem MemoryCanonical.runMap {q seq r} (h : MemoryCanonical s) : MemoryCanonical (s.runMap q seq r) :=
  .ite h.finishFlight (.finishFlight (.releaseFrames (.setPageTable (h.foldl fun _ _ ht => ht.mapPage))))

theorem specMap_canonical : KeepsCanonical specMap := .of_run (fun h => .ite h.runUnmap h.runMap) rfl

theorem execMap_canonical {q} (h : MemoryCanonical s) : NextCanonical (execMap q s) := .next (h.queueCommand specMap_canonical)

theorem execUnmap_canonical {q} (h : MemoryCanonical s) : NextCanonical (execUnmap q s) := .next (h.queueCommand specMap_canonical)

/-! ### Migration (R100 to R102) -/

theorem MemoryCanonical.updMig {n va f} (h : MemoryCanonical s) : MemoryCanonical (s.updMig n va f) := h.setMig

theorem MemoryCanonical.touchPage {n va k wr} (h : MemoryCanonical s) : MemoryCanonical (s.touchPage n va k wr) := by
  unfold State.touchPage
  split
  · exact h
  · exact .updMig (.ite h.count h)

theorem MemoryCanonical.touchRange {n va len wr} (h : MemoryCanonical s) : MemoryCanonical (s.touchRange n va len wr) :=
  h.foldl fun _ _ ht => ht.touchPage

theorem MemoryCanonical.noteRange {n va len} (h : MemoryCanonical s) : MemoryCanonical (s.noteRange n va len) :=
  h.foldl fun _ _ ht => ht.touchPage

theorem execHeatEpoch_canonical (h : MemoryCanonical s) : NextCanonical (execHeatEpoch s) := .next (.ite h h)

theorem execMigrationPromote_canonical {n va} (h : MemoryCanonical s) : NextCanonical (execMigrationPromote n va s) := by
  unfold execMigrationPromote
  refine .next ?_
  split
  · exact h
  · exact .ite h.drawn.updMig h

theorem execMigrationDemote_canonical {n va} (h : MemoryCanonical s) : NextCanonical (execMigrationDemote n va s) := by
  unfold execMigrationDemote
  refine .next ?_
  split
  · exact h
  · exact .ite h.updMig h

theorem MemoryCanonical.rewriteLeaf {n va tier off} (h : MemoryCanonical s) : MemoryCanonical (s.rewriteLeaf n va tier off) := by
  unfold State.rewriteLeaf
  dsimp only
  split
  · exact h
  · exact h.setPageTable

theorem MemoryCanonical.copyRange {src dst len} (h : MemoryCanonical s) : MemoryCanonical (s.copyRange src dst len) :=
  h.foldl fun _ _ ht => ht.store

theorem MemoryCanonical.settlePoolFrame {n f held} (h : MemoryCanonical s) : MemoryCanonical (s.settlePoolFrame n f held) :=
  .ite h (.ite h (.ite h h))

theorem execMigrationSwitch_canonical {n va} (h : MemoryCanonical s) : NextCanonical (execMigrationSwitch n va s) := by
  unfold execMigrationSwitch
  refine .next ?_
  split
  · exact h
  · refine .ite h.copyRange.rewriteLeaf.updMig.settlePoolFrame.count (.ite ?_ h)
    split
    · exact h
    · exact .count (.settlePoolFrame (.updMig (.rewriteLeaf (.ite h.copyRange h))))

/-! ## The timebase and the margin monitors (R25 to R39) -/

/-! ### Ticks (R28, R30) -/

theorem MemoryCanonical.absorbOne (h : MemoryCanonical s) : MemoryCanonical s.absorbOne := .ite h h.setF

theorem MemoryCanonical.slewTick (h : MemoryCanonical s) : MemoryCanonical s.slewTick := h.absorbOne

theorem MemoryCanonical.plainTick (h : MemoryCanonical s) : MemoryCanonical s.plainTick := h

theorem MemoryCanonical.tickOnce (h : MemoryCanonical s) : MemoryCanonical s.tickOnce := .ite h (.ite h.slewTick h.plainTick)

/-! ### Sources (R29) -/

theorem MemoryCanonical.phaseStep (h : MemoryCanonical s) : MemoryCanonical s.phaseStep := h

theorem MemoryCanonical.setSource {k} (h : MemoryCanonical s) : MemoryCanonical (s.setSource k) :=
  .ite h (.setF (.setF (.setF (.ite h h.phaseStep))))

theorem MemoryCanonical.setPresent {k b} (h : MemoryCanonical s) : MemoryCanonical (s.setPresent k b) := h

theorem execTimebaseLock_canonical {timeref portA portB} (h : MemoryCanonical s) : NextCanonical (execTimebaseLock timeref portA portB s) :=
  .next (.ite h h)

theorem execTimerefLoss_canonical {k} (h : MemoryCanonical s) : NextCanonical (execTimerefLoss k s) :=
  .next (.ite (.ite h.setPresent.setSource.fault h.setPresent.setSource) h.setPresent)

theorem execSourcePresent_canonical {k} (h : MemoryCanonical s) : NextCanonical (execSourcePresent k s) :=
  .next (.ite h.setPresent.setSource h.setPresent)

theorem execSourceRetake_canonical {k} (h : MemoryCanonical s) : NextCanonical (execSourceRetake k s) := .next (.ite h.setSource h)

/-! ### Rate windows (R36) -/

theorem execRateWindow_canonical {w i} (h : MemoryCanonical s) : NextCanonical (execRateWindow w i s) := .next (.ite h h)

/-! ### Comparators (R38, R39) -/

theorem MemoryCanonical.fireComparator {n} (h : MemoryCanonical s) : MemoryCanonical (s.fireComparator n) := h.signal.raise.setF

theorem execComparatorFire_canonical {n} (h : MemoryCanonical s) : NextCanonical (execComparatorFire n s) := .next (.ite h.fireComparator h)

theorem MemoryCanonical.writeComparator {n v} (h : MemoryCanonical s) : MemoryCanonical (s.writeComparator n v) := by
  unfold State.writeComparator
  extract_lets s₁ s₂ s₃
  have h₃ : MemoryCanonical s₃ := .ite h.setF.setF.setF h.setF.setF
  exact .ite h₃.fireComparator h₃

theorem execGlbCmpCtrlWrite_canonical {via n v} (h : MemoryCanonical s) : NextCanonical (execGlbCmpCtrlWrite via n v s) :=
  .next (.ite h.writeComparator h)

/-! ### Delay-line margins (R25) -/

theorem MemoryCanonical.queueCal {kind element} (h : MemoryCanonical s) : MemoryCanonical (s.queueCal kind element) := .ite h (.setF h)

theorem MemoryCanonical.marginWarn {site margin} (h : MemoryCanonical s) : MemoryCanonical (s.marginWarn site margin) :=
  h.fault.count.count.queueCal

theorem MemoryCanonical.marginCrit {site margin} (h : MemoryCanonical s) : MemoryCanonical (s.marginCrit site margin) :=
  .ite (.fault h) h.count.fault

theorem execMarginEvent_canonical {site margin} (h : MemoryCanonical s) : NextCanonical (execMarginEvent site margin s) := by
  unfold execMarginEvent
  extract_lets m s₁ s₂
  have h₁ : MemoryCanonical s₁ := .ite h.setF h
  have h₂ : MemoryCanonical s₂ := .ite h₁.marginWarn h₁
  exact .next (.ite h (.ite h₂.marginCrit h₂))

/-! ## The governor and the current limit (R583, R584, R594) -/

theorem MemoryCanonical.updateFloor (h : MemoryCanonical s) : MemoryCanonical s.updateFloor := .ite h.setF.setF.fault (.ite h.setF h)

theorem MemoryCanonical.requestVid {die mv} (h : MemoryCanonical s) : MemoryCanonical (s.requestVid die mv) := .ite h h.setF.emit

theorem MemoryCanonical.measure {g} (h : MemoryCanonical s) : MemoryCanonical (s.measure g) :=
  h.setF.setF.setF.setF.setF.setF.setF.setF.setF.countWrap

theorem MemoryCanonical.govern {g} (h : MemoryCanonical s) : MemoryCanonical (s.govern g) := h.requestVid.requestVid.setF.updateFloor

theorem execGovernorPeriod_canonical {g} (h : MemoryCanonical s) : NextCanonical (execGovernorPeriod g s) := .next (.ite h.measure.govern h)

theorem MemoryCanonical.setCeiling {die mv} (h : MemoryCanonical s) : MemoryCanonical (s.setCeiling die mv) := .ite h h

theorem MemoryCanonical.limitStep {die} (h : MemoryCanonical s) : MemoryCanonical (s.limitStep die) := h.requestVid

theorem MemoryCanonical.limitSteps {n die} (h : MemoryCanonical s) : MemoryCanonical (State.limitSteps n s die) := by
  induction n generalizing s with
  | zero => exact h
  | succ n ih => exact ih (.ite h.limitStep.limitStep h.limitStep)

theorem execCurrentLimit_canonical {die steps} (h : MemoryCanonical s) : NextCanonical (execCurrentLimit die steps s) := by
  unfold execCurrentLimit
  extract_lets span s₁ s₂ s₃ s₄
  have h₂ : MemoryCanonical s₂ := h.limitSteps.count
  have h₃ : MemoryCanonical s₃ := .ite h₂.setCeiling h₂
  have h₄ : MemoryCanonical s₄ := .ite h₃.setCeiling h₃
  exact .next (.ite h h₄.setF.updateFloor)

theorem execCurrentCeilingExpiry_canonical {die} (h : MemoryCanonical s) : NextCanonical (execCurrentCeilingExpiry die s) :=
  .next (.ite (.ite h h) (.ite h h))

end Sys2Proof.Machine

end

section
/-! Memory in canonical form, continued: the Altur links (R422 to R448) and what follows. -/

namespace Sys2Proof.Machine

open Sys2Proof.Laws

variable {s : State}

/-! ## The Altur links (R422 to R448) -/

/-! ### Records of links and ports -/

theorem MemoryCanonical.setLink {l x} (h : MemoryCanonical s) : MemoryCanonical (s.setLink l x) := h

theorem MemoryCanonical.setLport {p x} (h : MemoryCanonical s) : MemoryCanonical (s.setLport p x) := h

/-! ### Calibration records (R431, R546, R547) -/

theorem MemoryCanonical.putRecord {x} (h : MemoryCanonical s) : MemoryCanonical (s.putRecord x) := h

theorem MemoryCanonical.calStale {kind element} (h : MemoryCanonical s) : MemoryCanonical (s.calStale kind element) :=
  .ite h.fault.count.queueCal.setF h.fault.count.queueCal

/-! ### Sending (R434, R436) -/

theorem MemoryCanonical.putFlit {l i f} (h : MemoryCanonical s) : MemoryCanonical (s.putFlit l i f) := h.setLink.emit

theorem MemoryCanonical.putFlits {l i fs} (h : MemoryCanonical s) : MemoryCanonical (s.putFlits l i fs) := by
  induction fs generalizing s i with
  | nil => exact h
  | cons f fs ih => exact ih h.putFlit

/-! ### The order of flits on a link (R473) -/

theorem MemoryCanonical.sendFlit {l} (h : MemoryCanonical s) : MemoryCanonical (s.sendFlit l) := by
  unfold State.sendFlit
  refine .ite h ?_
  split
  · exact h
  · split
    · exact h
    · exact h.setLink.putFlit

theorem MemoryCanonical.sendQueued {n l} (h : MemoryCanonical s) : MemoryCanonical (State.sendQueued n l s) := by
  induction n generalizing s with
  | zero => exact h
  | succ n ih => exact ih h.sendFlit

theorem MemoryCanonical.drainLink {l} (h : MemoryCanonical s) : MemoryCanonical (s.drainLink l) := .ite h.sendQueued h

theorem MemoryCanonical.queueFlits {l fs} (h : MemoryCanonical s) : MemoryCanonical (s.queueFlits l fs) := h.setLink

theorem MemoryCanonical.launch {p t} (h : MemoryCanonical s) : MemoryCanonical (s.launch p t).1 := by
  unfold State.launch
  split
  · exact h
  · exact h.emit.queueFlits

theorem MemoryCanonical.pump {p} (h : MemoryCanonical s) : MemoryCanonical (s.pump p) :=
  .foldl (.setLport (.foldlFst h fun _ _ ht => .iteFst ht ht.launch)) fun _ _ ht => ht.drainLink

theorem MemoryCanonical.sendOn {p m} (h : MemoryCanonical s) : MemoryCanonical (s.sendOn p m) := h.setLport.pump

theorem MemoryCanonical.dropNotice {m} (h : MemoryCanonical s) : MemoryCanonical (s.dropNotice m) := .ite h.count h

theorem MemoryCanonical.sendVia {hop m} (h : MemoryCanonical s) : MemoryCanonical (s.sendVia hop m).1 := by
  unfold State.sendVia
  refine .iteFst h.count ?_
  split
  · exact .iteFst h.count (.iteFst h.dropNotice h.sendOn)
  · exact h.count

theorem MemoryCanonical.send {m} (h : MemoryCanonical s) : MemoryCanonical (s.send m).1 := h.sendVia

theorem MemoryCanonical.sendPlainRoute {m} (h : MemoryCanonical s) : MemoryCanonical (s.sendPlainRoute m).1 := h.sendVia

theorem MemoryCanonical.noticeUnreachable {m} (h : MemoryCanonical s) : MemoryCanonical (s.noticeUnreachable m) :=
  .ite h (.ite h.sendPlainRoute.count h.sendPlainRoute)

theorem MemoryCanonical.badMsg {l} (h : MemoryCanonical s) : MemoryCanonical (s.badMsg l) := h.count.fault

theorem MemoryCanonical.receive {m op} {handle : State → State} (h : MemoryCanonical s)
    (hh : ∀ t, MemoryCanonical t → MemoryCanonical (handle t)) : MemoryCanonical (s.receive m op handle) := by
  unfold State.receive
  exact .ite h (.ite h.badMsg (.ite h.count.count (.ite (hh s h) (.ite h.sendVia.noticeUnreachable h.sendVia))))

/-! ### Plain requests (R446, R447) -/

theorem MemoryCanonical.plainSend {x} (h : MemoryCanonical s) : MemoryCanonical (s.plainSend x).1 := by
  unfold State.plainSend
  refine .iteFst h ?_
  split
  · exact h
  · exact .drainLink (.queueFlits (.emit (.ite h.count h)))

theorem MemoryCanonical.issuePlain {who op addr len job poison data} (h : MemoryCanonical s) :
    MemoryCanonical (s.issuePlain who op addr len job poison data) :=
  h.plainSend

theorem MemoryCanonical.flushPlain (h : MemoryCanonical s) : MemoryCanonical s.flushPlain := h.foldl fun _ _ ht => .ite ht.plainSend ht

theorem MemoryCanonical.issueRemote {who m} (h : MemoryCanonical s) : MemoryCanonical (s.issueRemote who m).1 := by
  unfold State.issueRemote
  dsimp only
  split
  · exact h.send
  · exact h.send
  · exact h.send

theorem MemoryCanonical.forgetRequests {who} (h : MemoryCanonical s) : MemoryCanonical (s.forgetRequests who) := h

/-! ### Link states (R428 to R431) -/

theorem MemoryCanonical.refreshPorts (h : MemoryCanonical s) : MemoryCanonical s.refreshPorts :=
  .foldl (h.foldl fun _ _ ht => ht.setF.setF.setF) fun _ _ ht => .ite (.ite ht.setF.setLport ht.setF)
    (.pump (.ite ht.setF.setLport.setF ht.setF))

theorem MemoryCanonical.setLinkState {l st} (h : MemoryCanonical s) : MemoryCanonical (s.setLinkState l st) :=
  .ite h h.setF.setF.setLink.refreshPorts

theorem MemoryCanonical.resend {l} (h : MemoryCanonical s) : MemoryCanonical (s.resend l) :=
  .foldl (.ite h.setLink h) fun _ _ ht => ht.setLport.pump

theorem MemoryCanonical.depart {l st cause} (h : MemoryCanonical s) : MemoryCanonical (s.depart l st cause) :=
  h.setF.count.setLink.setLinkState.fault

theorem MemoryCanonical.leaveUp {l st cause} (h : MemoryCanonical s) : MemoryCanonical (s.leaveUp l st cause) := h.depart.resend

theorem MemoryCanonical.beginDrain {l dest} (h : MemoryCanonical s) : MemoryCanonical (s.beginDrain l dest) := h.setLink.depart

theorem MemoryCanonical.enterTune {l} (h : MemoryCanonical s) : MemoryCanonical (s.enterTune l) :=
  .setLinkState (.ite h.setLink.calStale h.setLink)

theorem execLightDetected_canonical {l} (h : MemoryCanonical s) : NextCanonical (execLightDetected l s) := .next (.ite h.enterTune h)

theorem execLightLoss_canonical {l} (h : MemoryCanonical s) : NextCanonical (execLightLoss l s) :=
  .next (.ite h.leaveUp (.ite h.resend (.ite h.setF.setLinkState h)))

theorem execTuningLoop_canonical {l settings} (h : MemoryCanonical s) : NextCanonical (execTuningLoop l settings s) :=
  .next (.ite h.setLink h)

theorem execRingLockLost_canonical {l ring} (h : MemoryCanonical s) : NextCanonical (execRingLockLost l ring s) :=
  .next (.ite h.setF.leaveUp.enterTune h)

theorem execRingsLocked_canonical {l} (h : MemoryCanonical s) : NextCanonical (execRingsLocked l s) :=
  .next (.ite (.setLinkState (.setF (.setLink (.ite h.putRecord.setF h)))) h)

theorem execPatternDetected_canonical {l} (h : MemoryCanonical s) : NextCanonical (execPatternDetected l s) := .next (.ite h.setLink h)

theorem MemoryCanonical.sendIdent {l} (h : MemoryCanonical s) : MemoryCanonical (s.sendIdent l) := h.emit

theorem MemoryCanonical.sendCredits {l} (h : MemoryCanonical s) : MemoryCanonical (s.sendCredits l) := h.emit

theorem execCodewordLock_canonical {l} (h : MemoryCanonical s) : NextCanonical (execCodewordLock l s) :=
  .next (.ite h.setLinkState.sendIdent h)

theorem MemoryCanonical.identify {l i} (h : MemoryCanonical s) : MemoryCanonical (s.identify l i) :=
  .ite (.sendCredits (.setLinkState (.setF (.ite h.setR.setLink.setR h.setR.setLink)))) h.setR.setLink.setF

theorem execIdent_canonical {l i} (h : MemoryCanonical s) : NextCanonical (execIdent l i s) := .next (.ite h.identify h)

theorem execIdentRetry_canonical {l i} (h : MemoryCanonical s) : NextCanonical (execIdentRetry l i s) := .next (.ite h.sendIdent.identify h)

theorem MemoryCanonical.startRecal {l} (h : MemoryCanonical s) : MemoryCanonical (s.startRecal l) :=
  .ite h (.ite h.setLink.beginRecovery.beginDrain h.setLink)

theorem MemoryCanonical.releaseRecals (h : MemoryCanonical s) : MemoryCanonical s.releaseRecals :=
  h.foldl fun _ _ ht => .ite ht.startRecal ht

theorem execCredit_canonical {l credits replay} (h : MemoryCanonical s) : NextCanonical (execCredit l credits replay s) :=
  .next (.ite h.setLink.setF.setLinkState.putFlits.drainLink.releaseRecals.flushPlain h)

theorem execTrainingTimeout_canonical {l} (h : MemoryCanonical s) : NextCanonical (execTrainingTimeout l s) := by
  unfold execTrainingTimeout
  refine .next ?_
  split
  · exact h
  · exact .ite (.ite h.setF.setF.setLinkState.fault h.setF.setF.setLinkState) h

theorem execDrainComplete_canonical {l} (h : MemoryCanonical s) : NextCanonical (execDrainComplete l s) := .next (.ite h.setLinkState h)

theorem execRecalComplete_canonical {l} (h : MemoryCanonical s) : NextCanonical (execRecalComplete l s) :=
  .next (.ite h.endRecovery.count.enterTune h)

theorem execRecal_canonical {via l} (h : MemoryCanonical s) : NextCanonical (execRecal via l s) := .next (.ite h.startRecal h)

theorem execFullSearch_canonical {via l} (h : MemoryCanonical s) : NextCanonical (execFullSearch via l s) := .next (.ite h.setLink h)

/-! ### Lasers (R422) -/

theorem execLaserLow_canonical {i wave power} (h : MemoryCanonical s) : NextCanonical (execLaserLow i wave power s) :=
  .next (.ite h.setF.setF.setF h)

theorem execLaserInputRestored_canonical {i power} (h : MemoryCanonical s) : NextCanonical (execLaserInputRestored i power s) :=
  .next (.ite h.setF.setF.setF h)

/-! ### Flits (R432, R433) -/

theorem MemoryCanonical.dropAcked {fs} (h : MemoryCanonical s) : MemoryCanonical (s.dropAcked fs) := h.foldl fun _ _ ht => ht.setLport.pump

theorem MemoryCanonical.takeAck {l ack} (h : MemoryCanonical s) : MemoryCanonical (s.takeAck l ack) := .ite h.setLink.dropAcked.drainLink h

theorem MemoryCanonical.takeCredits {l vc total} (h : MemoryCanonical s) : MemoryCanonical (s.takeCredits l vc total) := h.setLink.drainLink

theorem MemoryCanonical.replay {l} (h : MemoryCanonical s) : MemoryCanonical (s.replay l) :=
  .ite h.setLink.count.emit.leaveUp h.setLink.count.emit.putFlits

theorem MemoryCanonical.countCodewords {l n} (h : MemoryCanonical s) : MemoryCanonical (s.countCodewords l n) :=
  .ite h.setLink.leaveUp h.setLink

theorem MemoryCanonical.takeData {l x} (h : MemoryCanonical s) : MemoryCanonical (s.takeData l x) := .ite h.setLink.badMsg h.setLink

theorem execFlit_canonical {l x} (h : MemoryCanonical s) : NextCanonical (execFlit l x s) := by
  unfold execFlit
  extract_lets n s₁ s₂ s₃ s₄ s₅ s₆ s₇
  have h₄ : MemoryCanonical s₄ := h.count.count.setF.countCodewords
  have h₆ : MemoryCanonical s₆ := h₄.takeAck.takeCredits
  have h₇ : MemoryCanonical s₇ := .ite h₆.replay h₆
  exact .next (.ite h (.ite h₄ (.ite h₄.count.emit (.ite h₇ (.ite h₇.count.emit h₇.takeData)))))

/-! ## The data movers (R104 to R106) -/

/-! ### Moving one entry -/

theorem MemoryCanonical.pokePieces {ps bs} (h : MemoryCanonical s) : MemoryCanonical (s.pokePieces ps bs) := by
  induction ps generalizing s bs with
  | nil => exact h
  | cons p ps ih =>
    refine ih ?_
    split
    · exact .ite h (memWf_memWrite _ _ h)
    · exact h
    · exact h

theorem MemoryCanonical.pokeElem {n base pos bits v} (h : MemoryCanonical s) : MemoryCanonical (s.pokeElem n base pos bits v) := by
  unfold State.pokeElem
  dsimp only
  split
  · exact h
  · exact h.pokePieces

theorem MemoryCanonical.moveElems {n src pattern d off ov} (h : MemoryCanonical s) :
    MemoryCanonical (s.moveElems n src pattern d off ov).1 :=
  .foldlFst h fun _ _ ht => .iteFst ht.drawn.pokeElem ht.pokeElem

theorem MemoryCanonical.moveScales {n src d ov} (h : MemoryCanonical s) : MemoryCanonical (s.moveScales n src d ov).1 := by
  unfold State.moveScales
  refine .iteFst h (.foldlFst h fun _ _ ht => .iteFst ht.drawn.pokeElem ?_)
  split
  · exact ht
  · exact ht.pokeElem
  · exact ht.drawn.pokeElem
  · exact ht.pokeElem

theorem MemoryCanonical.markStretch {n va len marks} (h : MemoryCanonical s) : MemoryCanonical (s.markStretch n va len marks) := by
  unfold State.markStretch
  dsimp only
  split
  · exact h
  · refine .foldlFst h fun _ _ ht => ?_
    split
    · exact ht
    · exact ht

/-! ### The life of a flight -/

theorem MemoryCanonical.requestRead {who job p} (h : MemoryCanonical s) : MemoryCanonical (s.requestRead who job p).1 := by
  unfold State.requestRead
  split
  · exact .iteFst h.issuePlain h
  · exact h.issueRemote
  · exact h

theorem MemoryCanonical.requestWrite {who job p} (h : MemoryCanonical s) : MemoryCanonical (s.requestWrite who job p).1 := by
  unfold State.requestWrite
  split
  · exact .iteFst h.issuePlain h
  · exact .iteFst h h.issueRemote
  · exact h

theorem MemoryCanonical.requestEdge {who job p} (h : MemoryCanonical s) : MemoryCanonical (s.requestEdge who job p).1 := by
  unfold State.requestEdge
  split
  · exact .iteFst h.requestRead h
  · exact h

theorem MemoryCanonical.requestAll {req : State → Piece → State × Option Status} {ps} (h : MemoryCanonical s)
    (hr : ∀ t p, MemoryCanonical t → MemoryCanonical (req t p).1) : MemoryCanonical (State.requestAll req s ps).1 := by
  induction ps generalizing s with
  | nil => exact h
  | cons p ps ih =>
    unfold State.requestAll
    split
    · next e => exact .of_fst e (hr s p h)
    · next e => exact ih (.of_fst e (hr s p h))

theorem MemoryCanonical.countPieces {wr ps} (h : MemoryCanonical s) : MemoryCanonical (s.countPieces wr ps) := by
  unfold State.countPieces
  refine h.foldl fun _ _ ht => ?_
  split
  · exact ht.countLines
  · exact ht

theorem MemoryCanonical.endFlight {q seq st result detail} (h : MemoryCanonical s) : MemoryCanonical (s.endFlight q seq st result detail) :=
  h.forgetRequests.finishFlight

theorem MemoryCanonical.failFlight {q seq i word} (h : MemoryCanonical s) : MemoryCanonical (s.failFlight q seq i word) :=
  h.accFault.endFlight

theorem MemoryCanonical.moverAccess {q n va len wr} (h : MemoryCanonical s) : MemoryCanonical (s.moverAccess q n va len wr) :=
  h.lookUps.touchRange

theorem MemoryCanonical.moverEntry {q n i wr} (h : MemoryCanonical s) : MemoryCanonical (s.moverEntry q n i wr) :=
  h.foldl fun _ _ ht => ht.moverAccess

theorem MemoryCanonical.beginEntry {q x} (h : MemoryCanonical s) : MemoryCanonical (s.beginEntry q x) := by
  unfold State.beginEntry
  extract_lets n l src dst s₁ s₂ s₃ ps r
  clear_value dst
  have h₂ : MemoryCanonical s₂ := by
    dsimp only [s₂]
    split
    · exact h.setFlight.requestAll fun _ _ ht => ht.requestEdge
    · exact h.setFlight
  have h₃ : MemoryCanonical s₃ := h₂.foldl fun _ _ ht => ht.moverEntry
  have hr : MemoryCanonical r.1 := h₃.countPieces.requestAll fun _ _ ht => ht.requestRead
  clear_value r
  split
  · exact h.failFlight
  · exact h.failFlight
  · split
    · exact hr.endFlight
    · exact hr

theorem MemoryCanonical.writeEntry {q x} (h : MemoryCanonical s) : MemoryCanonical (s.writeEntry q x) := by
  unfold State.writeEntry
  extract_lets n l pattern
  split
  · exact h
  · extract_lets ps hit ov r z s₁ s₂ s₃ w
    have hz : MemoryCanonical z.1 := .iteFst h.moveElems h.moveElems.moveScales
    have h₁ : MemoryCanonical s₁ := hz.foldl fun _ _ ht => ht.markStretch.moverAccess
    have hw : MemoryCanonical w.1 := h₁.setFlight.countPieces.requestAll fun _ _ ht => ht.requestWrite
    clear_value w
    split
    · exact hw.endFlight
    · exact hw

theorem MemoryCanonical.nextEntry {q x} (h : MemoryCanonical s) : MemoryCanonical (s.nextEntry q x) :=
  .ite h.setFlight.beginEntry h.endFlight

theorem MemoryCanonical.moverStep {q seq} (h : MemoryCanonical s) : MemoryCanonical (s.moverStep q seq) := by
  unfold State.moverStep
  split
  · exact h
  · refine .ite h (.ite ?_ (.ite h.nextEntry h))
    dsimp only
    split
    · exact h.writeEntry
    · exact .ite h.writeEntry.nextEntry h.writeEntry

theorem MemoryCanonical.runMove {q seq r} (h : MemoryCanonical s) : MemoryCanonical (s.runMove q seq r) := by
  unfold State.runMove
  split
  · dsimp only
    split
    · exact h.failFlight
    · exact h.failFlight
    · refine .ite h.failFlight ?_
      split
      · exact h.finishFlight
      · exact h.beginEntry
  · dsimp only
    split
    · exact h.failFlight
    · exact h.failFlight
    · refine .ite h.failFlight ?_
      split
      · exact h.finishFlight
      · exact h

theorem specMove_canonical : KeepsCanonical specMove := .of_run (fun h => h.runMove) rfl

theorem specFill_canonical : KeepsCanonical specFill := .of_run (fun h => h.runMove) rfl

theorem execMove_canonical {q} (h : MemoryCanonical s) : NextCanonical (execMove q s) := .next (h.queueCommand specMove_canonical)

theorem execFill_canonical {q} (h : MemoryCanonical s) : NextCanonical (execFill q s) := .next (h.queueCommand specFill_canonical)

theorem execDataMoverDone_canonical {q seq} (h : MemoryCanonical s) : NextCanonical (execDataMoverDone q seq s) := by
  unfold execDataMoverDone
  refine .next ?_
  split
  · exact h.moverStep
  · exact h

/-! ## The KV cache (R289 to R304) -/

/-! ### Request entries (R378) -/

theorem MemoryCanonical.setReq {i k} (h : MemoryCanonical s) : MemoryCanonical (s.setReq i k) := h

/-! ### Free lists (R299, R300, R302) -/

theorem MemoryCanonical.setKvPages {m} (h : MemoryCanonical s) : MemoryCanonical (s.setKvPages m) := h

theorem MemoryCanonical.kvPlace {n c page} (h : MemoryCanonical s) : MemoryCanonical (s.kvPlace n c page) :=
  h.storeWord.setF.setF.setF.setKvPages

theorem MemoryCanonical.kvPush {n c page} (h : MemoryCanonical s) : MemoryCanonical (s.kvPush n c page) := .ite h.kvPlace h.count

theorem MemoryCanonical.kvDrain {n c} (h : MemoryCanonical s) : MemoryCanonical (s.kvDrain n c) := .ite h h.setF.setF.setKvPages

theorem MemoryCanonical.kvWrite {n v} (h : MemoryCanonical s) : MemoryCanonical (s.kvWrite n v) := .ite h.kvDrain h.kvPush

theorem MemoryCanonical.kvPop {cmd n c} (h : MemoryCanonical s) : MemoryCanonical (State.kvPop cmd s n c).1 :=
  .iteFst h (.iteFst h.setF.setF.fault h.setF.setF.setKvPages)

/-! ### Growth (R301, R302) -/

theorem MemoryCanonical.kvMapOne {cmd n c va} (h : MemoryCanonical s) : MemoryCanonical (State.kvMapOne cmd s n c va).1 := by
  unfold State.kvMapOne
  refine .iteFst h ?_
  split
  · next e => exact .of_fst e h.kvPop
  · next e => exact .iteFst (.fault (.kvPlace (.of_fst e h.kvPop))) (.mapPage (.zero (.of_fst e h.kvPop)))

theorem MemoryCanonical.growPages {cmd fuel i need} (h : MemoryCanonical s) : MemoryCanonical (State.growPages cmd fuel s i need).1 := by
  induction fuel generalizing s with
  | zero => exact h
  | succ fuel ih =>
    refine .iteFst h ?_
    split
    · next e => exact ih (MemoryCanonical.of_fst e h.kvMapOne).setReq
    · exact h.kvMapOne

theorem MemoryCanonical.growList {cmd fuel i need} (h : MemoryCanonical s) : MemoryCanonical (State.growList cmd fuel s i need).1 := by
  induction fuel generalizing s with
  | zero => exact h
  | succ fuel ih =>
    refine .iteFst h ?_
    split
    · next e => exact ih (MemoryCanonical.of_fst e h.kvMapOne).setReq
    · exact h.kvMapOne

theorem MemoryCanonical.kvGrow {cmd i need} (h : MemoryCanonical s) : MemoryCanonical (State.kvGrow cmd s i need).1 := by
  unfold State.kvGrow
  split
  · next e => exact .growList (.of_fst e h.growPages)
  · exact h.growPages

/-! ### The KV list and the KV view (R296, R297) -/

theorem MemoryCanonical.writeVirt {n va bs t} (h : MemoryCanonical s) (e : s.writeVirt n va bs = .ok t) : MemoryCanonical t := by
  unfold State.writeVirt at e
  split at e <;> cases e
  exact h.noteRange.writePieces

theorem MemoryCanonical.kvWriteLists {i pages} (h : MemoryCanonical s) : MemoryCanonical (s.kvWriteLists i pages) := by
  unfold State.kvWriteLists
  refine h.setReq.foldl fun _ _ ht => ht.foldl fun _ _ hu => ?_
  dsimp only
  split
  · next e =>
    refine .writeVirt ?_ e
    exact hu
  · exact hu

/-! ### Release (R303) -/

theorem MemoryCanonical.kvRelease {i} (h : MemoryCanonical s) : MemoryCanonical (s.kvRelease i) := by
  unfold State.kvRelease
  refine .setReq (h.setPageTable.releaseFrames.foldl fun _ _ ht => ?_)
  split
  · exact ht.kvPlace
  · exact ht

/-! ### Rows of the table -/

theorem execSrvKvPush_canonical {via n v} (h : MemoryCanonical s) : NextCanonical (execSrvKvPush via n v s) := .next (.ite h.kvWrite h)

theorem execKvListDrain_canonical {via n v} (h : MemoryCanonical s) : NextCanonical (execKvListDrain via n v s) := .next (.ite h.kvWrite h)

/-! ## Outputs, mirror copies and ends of requests (R401 to R409) -/

/-! ### Output rings (R401, R409, R419) -/

theorem MemoryCanonical.setOutRing {o x} (h : MemoryCanonical s) : MemoryCanonical (s.setOutRing o x) := h

theorem MemoryCanonical.reserveOut {o n} (h : MemoryCanonical s) : MemoryCanonical (s.reserveOut o n) := h.setOutRing

theorem MemoryCanonical.ringWrite {o off bs} (h : MemoryCanonical s) : MemoryCanonical (s.ringWrite o off bs) := .ite h.hostWrite h.store

/-! ### Mirror copies (R402, R403, R544) -/

theorem MemoryCanonical.mirrorLost (h : MemoryCanonical s) : MemoryCanonical s.mirrorLost := h.count

theorem MemoryCanonical.mirrorRecord {m job w0 w1} (h : MemoryCanonical s) : MemoryCanonical (s.mirrorRecord m job w0 w1) := by
  -- Under `NextCanonical` the kernel compares the states as they stand and never computes where `g` lies.
  refine NextCanonical.memory ?_
  unfold State.mirrorRecord
  split
  · exact .next h
  · extract_lets +onlyGivenNames n g bs
    generalize ht : ({ s with serve := { s.serve with mirror := mset s.serve.mirror m (n + 1) } } : State) = t
    have hc : MemoryCanonical t := h.of_memory (by rw [← ht])
    clear_value n g bs
    extract_lets +onlyGivenNames u
    have hu : MemoryCanonical u := hc
    clear_value u
    clear ht hc
    split
    · exact .next hu.store
    · split
      · next e => exact .next (.of_fst e hu.issueRemote)
      · next e => exact .next (MemoryCanonical.of_fst e hu.issueRemote).mirrorLost
    · exact .next hu.mirrorLost

/-! ### Output records (R401) -/

theorem MemoryCanonical.outRecord {i tok st last drafted pos} (h : MemoryCanonical s) :
    MemoryCanonical (s.outRecord i tok st last drafted pos) :=
  h.ringWrite.ringWrite.setF.setOutRing.mirrorRecord

/-! ### Ends (R407 to R409) -/

theorem MemoryCanonical.answerCancel {q seq a} (h : MemoryCanonical s) : MemoryCanonical (s.answerCancel q seq a) := by
  unfold State.answerCancel
  split
  · exact h.finishFlight
  · exact h.finishFlight
  · exact h.finishFlight

theorem MemoryCanonical.closeRequest {i st} (h : MemoryCanonical s) : MemoryCanonical (s.closeRequest i st) := by
  unfold State.closeRequest
  extract_lets e s₀ _ s₁ a s₂ s₃ s₄ e₁
  have h₁ : MemoryCanonical s₁ := .ite h.outRecord.setReq h
  have h₂ : MemoryCanonical s₂ := h₁.foldl fun _ _ ht => ht.answerCancel
  have h₃ : MemoryCanonical s₃ := .ite h₂.signal h₂
  have h₄ : MemoryCanonical s₄ := .ite h₃.count h₃
  exact h₄.setReq

theorem MemoryCanonical.endRequest {i st last} (h : MemoryCanonical s) : MemoryCanonical (s.endRequest i st last) := by
  unfold State.endRequest
  extract_lets e s₁ e₁ s₂
  have h₂ : MemoryCanonical s₂ := .setReq (.ite h h.reserveOut)
  exact .ite h₂ h₂.closeRequest

theorem MemoryCanonical.decideEnd {i fault} (h : MemoryCanonical s) : MemoryCanonical (s.decideEnd i fault) := by
  unfold State.decideEnd
  refine .ite h ?_
  split
  · exact h.endRequest
  · exact h.endRequest
  · exact .ite h.endRequest (.ite h.endRequest h)

theorem MemoryCanonical.cancelRequest {i} (h : MemoryCanonical s) : MemoryCanonical (s.cancelRequest i) := .ite h.setReq h.setReq.decideEnd

theorem MemoryCanonical.releaseShard {i} (h : MemoryCanonical s) : MemoryCanonical (s.releaseShard i) := by
  unfold State.releaseShard
  dsimp only
  split
  · exact .ite h.closeRequest h
  · exact h

/-! ### Steps of a binding (R386, R392) -/

theorem MemoryCanonical.setServeRun {m x} (h : MemoryCanonical s) : MemoryCanonical (s.setServeRun m x) := h

theorem MemoryCanonical.endServe {m x st result detail} (h : MemoryCanonical s) : MemoryCanonical (s.endServe m x st result detail) :=
  .finishFlight (.setF (.setF h))

theorem MemoryCanonical.abandonStep {m st detail} (h : MemoryCanonical s) : MemoryCanonical (s.abandonStep m st detail) := by
  unfold State.abandonStep
  split
  · exact h
  · exact .endServe (.foldl (h.foldl fun _ _ ht => ht.reserveOut.setReq) fun _ _ ht => ht.decideEnd)

theorem MemoryCanonical.abandonAccess {m n err} (h : MemoryCanonical s) : MemoryCanonical (s.abandonAccess m n err) := by
  unfold State.abandonAccess
  split
  · exact h
  · exact h.accFault.abandonStep

theorem MemoryCanonical.countEmpty {b n k t} (h : MemoryCanonical s) (e : s.countEmpty b n k = .ok t) : MemoryCanonical t := by
  unfold State.countEmpty at e
  split at e <;> cases e
  refine h.foldl fun u i hu => ?_
  split
  · exact hu.count
  · exact hu.setF

theorem MemoryCanonical.servingEnd {m draft st detail} (h : MemoryCanonical s) : MemoryCanonical (s.servingEnd m draft st detail) := by
  unfold State.servingEnd
  split
  · exact h
  · refine .ite h.abandonStep ?_
    split
    · next e' =>
      dsimp only
      split
      · exact h.abandonAccess
      · next e' =>
        refine .setServeRun (.countEmpty ?_ e')
        exact h
    · dsimp only
      split
      · exact h.abandonAccess
      · next e' =>
        refine .setF (.setServeRun (.countEmpty ?_ e'))
        exact h

/-! ### Rows of the table -/

theorem execRangeRelease_canonical {i} (h : MemoryCanonical s) : NextCanonical (execRangeRelease i s) := by
  unfold execRangeRelease
  refine .next (.ite ?_ h)
  extract_lets n s₁ s₂ _ s₃ s₄
  have h₂ : MemoryCanonical s₂ := h.kvRelease.setReq
  have h₃ : MemoryCanonical s₃ := h₂
  clear_value s₃
  exact h₃.setF.setF

theorem MemoryCanonical.outHead {o v} (h : MemoryCanonical s) : MemoryCanonical (s.outHead o v) := .ite h.setF.setOutRing h

theorem execSrvOutHeadWrite_canonical {via o v} (h : MemoryCanonical s) : NextCanonical (execSrvOutHeadWrite via o v s) :=
  .next (.ite h.outHead h)

/-! ## Ring runs as the fabric sees them (R330 to R340) -/

theorem MemoryCanonical.ringSend {g succ m} (h : MemoryCanonical s) : MemoryCanonical (s.ringSend g succ m) := h.sendVia

theorem MemoryCanonical.ringNotice {g succ cause member} (h : MemoryCanonical s) : MemoryCanonical (s.ringNotice g succ cause member) :=
  h.ringSend

theorem MemoryCanonical.ringNotices {g cause member} (h : MemoryCanonical s) : MemoryCanonical (s.ringNotices g cause member) :=
  h.ringNotice.ringNotice

theorem MemoryCanonical.ringFault {x} (h : MemoryCanonical s) : MemoryCanonical (s.ringFault x) := h.fault

theorem MemoryCanonical.closeRing {g x st detail} (h : MemoryCanonical s) : MemoryCanonical (s.closeRing g x st detail) :=
  .releaseShard (.finishFlight h)

theorem MemoryCanonical.ringCause {g cause member} (h : MemoryCanonical s) : MemoryCanonical (s.ringCause g cause member) := h.setF.setF

end Sys2Proof.Machine

end

section
/-! Memory in canonical form, continued: the fabric (R130 to R162) and what follows. -/

namespace Sys2Proof.Machine

open Sys2Proof.Laws

variable {s : State}

/-! ## The fabric (R130 to R162) -/

/-! ### Casts that run -/

theorem MemoryCanonical.setRun {first x} (h : MemoryCanonical s) : MemoryCanonical (s.setRun first x) := h

/-! ### Channels of the active cast -/

theorem MemoryCanonical.setChan {key x} (h : MemoryCanonical s) : MemoryCanonical (s.setChan key x) := h

/-! ### Units, boxes and elements -/

theorem MemoryCanonical.setCu {n x} (h : MemoryCanonical s) : MemoryCanonical (s.setCu n x) := h

theorem MemoryCanonical.setMu {n x} (h : MemoryCanonical s) : MemoryCanonical (s.setMu n x) := h

theorem MemoryCanonical.setBox {d site x} (h : MemoryCanonical s) : MemoryCanonical (s.setBox d site x) := h

theorem MemoryCanonical.setElem {d site i x} (h : MemoryCanonical s) : MemoryCanonical (s.setElem d site i x) := h

/-! ### NaN records (R248 to R251) -/

theorem MemoryCanonical.nanRecord {n record w i count} (h : MemoryCanonical s) : MemoryCanonical (s.nanRecord n record w i count) :=
  .ite h (.count (.ite h h.setR.setR.setR.setR.setR.setR))

theorem MemoryCanonical.nanHalt {n} (h : MemoryCanonical s) : MemoryCanonical (s.nanHalt n) := h

theorem MemoryCanonical.engineNan {n kind es cmd} (h : MemoryCanonical s) : MemoryCanonical (s.engineNan n kind es cmd).1 := by
  unfold State.engineNan
  split
  · exact h
  · exact .iteFst h.nanRecord h.nanRecord.fault.nanHalt

/-! ### Steps (R158, R181, R217) -/

theorem MemoryCanonical.beginStep {first x} (h : MemoryCanonical s) : MemoryCanonical (s.beginStep first x) := h

theorem MemoryCanonical.discardTokens {c halt} (h : MemoryCanonical s) : MemoryCanonical (s.discardTokens c halt) := h

theorem MemoryCanonical.countResidue {x c} (h : MemoryCanonical s) : MemoryCanonical (s.countResidue x c) := .ite h.count h.count.fault

theorem MemoryCanonical.slotsRest {c} (h : MemoryCanonical s) : MemoryCanonical (s.slotsRest c) := h

theorem MemoryCanonical.slotsRun {c} (h : MemoryCanonical s) : MemoryCanonical (s.slotsRun c) := h

theorem MemoryCanonical.markStop {first st detail} (h : MemoryCanonical s) : MemoryCanonical (s.markStop first st detail) := by
  unfold State.markStop
  split
  · exact h
  · exact h.setRun

theorem MemoryCanonical.stopConsumers {x st} (h : MemoryCanonical s) : MemoryCanonical (s.stopConsumers x st) := h

theorem MemoryCanonical.ringsAfterCast {first count st} (h : MemoryCanonical s) : MemoryCanonical (s.ringsAfterCast first count st) :=
  .ite h (h.foldl fun _ _ ht => ht.ringCause.ringNotices.closeRing.stopConsumers)

theorem MemoryCanonical.leaveRun {x st detail} (h : MemoryCanonical s) : MemoryCanonical (s.leaveRun x st detail) := by
  unfold State.leaveRun
  refine .ringsAfterCast ?_
  split
  · exact h.slotsRest.finishFlight
  · exact h.slotsRest.servingEnd

theorem MemoryCanonical.endRun {first x st detail} (h : MemoryCanonical s) : MemoryCanonical (s.endRun first x st detail) := .leaveRun h

theorem MemoryCanonical.endPaused {x st detail} (h : MemoryCanonical s) : MemoryCanonical (s.endPaused x st detail) := .leaveRun h

theorem MemoryCanonical.haltMm {first x n} (h : MemoryCanonical s) : MemoryCanonical (s.haltMm first x n) := by
  unfold State.haltMm
  dsimp only
  split
  · exact h
  · refine .ite h.drawn ?_
    split
    · exact .ite h.drawn.setCu.countWrap.nanRecord h.drawn.setCu.countWrap
    · exact h.drawn.setCu.countWrap

theorem MemoryCanonical.stopCast {first x st detail} (h : MemoryCanonical s) : MemoryCanonical (s.stopCast first x st detail) := by
  unfold State.stopCast
  extract_lets c s₁ s₂
  have h₁ : MemoryCanonical s₁ := h.foldl fun _ _ ht => ht.haltMm
  have h₂ : MemoryCanonical s₂ := h₁.countResidue.discardTokens
  split
  · exact .ite h₂.endRun h₂.endRun
  · exact h₂.endRun

theorem MemoryCanonical.settleStops (h : MemoryCanonical s) : MemoryCanonical s.settleStops := by
  unfold State.settleStops
  refine .foldl (h.foldl fun _ _ ht => ?_) fun _ _ ht => ?_
  · split
    · exact ht
    · split
      · exact ht
      · exact ht.stopCast
  · split
    · exact .ite ht.endPaused ht
    · exact ht

theorem MemoryCanonical.runFault {first st detail rank} (h : MemoryCanonical s) : MemoryCanonical (s.runFault first st detail rank) := by
  unfold State.runFault
  split
  · exact h
  · exact .ite h h.setRun

theorem MemoryCanonical.castFault {first rank code st datum} (h : MemoryCanonical s) :
    MemoryCanonical (s.castFault first rank code st datum) := by
  unfold State.castFault
  split
  · exact h
  · exact h.fault.runFault

theorem MemoryCanonical.castXlate {first rank va reason level wr} (h : MemoryCanonical s) :
    MemoryCanonical (s.castXlate first rank va reason level wr) := by
  unfold State.castXlate
  split
  · exact h
  · exact h.xlateFault.runFault

theorem MemoryCanonical.castPoisoned {first} (h : MemoryCanonical s) : MemoryCanonical (s.castPoisoned first) := by
  unfold State.castPoisoned
  split
  · exact h
  · exact h.fault.markStop

theorem MemoryCanonical.castNan {first w es} (h : MemoryCanonical s) : MemoryCanonical (s.castNan first w es) := by
  unfold State.castNan
  split
  · exact .ite h.nanRecord h.nanRecord.fault.nanHalt.markStop
  · exact h

theorem MemoryCanonical.stepEnd {first x} (h : MemoryCanonical s) : MemoryCanonical (s.stepEnd first x) := by
  unfold State.stepEnd
  dsimp only
  split
  · exact h.countResidue.discardTokens.endRun
  · exact .ite h.countResidue.discardTokens.endRun (.ite h.countResidue h.countResidue.discardTokens.beginStep)

theorem execCastStepEnd_canonical {d} (h : MemoryCanonical s) : NextCanonical (execCastStepEnd d s) := by
  unfold execCastStepEnd
  refine .next ?_
  split
  · exact .ite h.stepEnd h
  · split
    · exact h
    · exact .ite h (.beginStep (.slotsRun h))

/-! ### Spill regions (R154, R155) -/

theorem MemoryCanonical.spillWrite {first n va bs mark} (h : MemoryCanonical s) : MemoryCanonical (s.spillWrite first n va bs mark) := by
  unfold State.spillWrite
  split
  · exact .ite h.noteRange.writePieces.runFault h.noteRange.writePieces
  · exact h.castXlate
  · exact h

theorem MemoryCanonical.spillPut {first x key c t} (h : MemoryCanonical s) : MemoryCanonical (s.spillPut first x key c t) :=
  .ite h.spillWrite.spillWrite.drawn.setChan.setF h.spillWrite.spillWrite.drawn.setChan

theorem MemoryCanonical.spillTake {first x key c} (h : MemoryCanonical s) : MemoryCanonical (s.spillTake first x key c).1 := by
  unfold State.spillTake
  dsimp only
  split
  · exact h
  · split
    · exact h.setChan
    · exact h.setChan.castXlate
    · exact h.setChan

/-! ### Slots (R135 to R137, R152, R154, R156) -/

theorem MemoryCanonical.arrive {d site kind port dest t} (h : MemoryCanonical s) : MemoryCanonical (s.arrive d site kind port dest t) :=
  .ite h.setChan.setElem (.ite h.setChan.setCu h.setChan.setMu)

theorem MemoryCanonical.setOutPort {first i o} (h : MemoryCanonical s) : MemoryCanonical (s.setOutPort first i o) :=
  .ite h.setElem (.ite h.setCu h.setMu)

theorem MemoryCanonical.takeToken {first x key c} (h : MemoryCanonical s) : MemoryCanonical (s.takeToken first x key c).1 := by
  unfold State.takeToken
  dsimp only
  split
  · exact h
  · exact .iteFst (.iteFst h.setOutPort.setChan.spillPut h) (.iteFst h.setOutPort.setChan h)

theorem MemoryCanonical.noteLead {d lead depth} (h : MemoryCanonical s) : MemoryCanonical (s.noteLead d lead depth) :=
  .ite (.setF (.setF (.ite h.count h))) (.ite h.count h)

theorem MemoryCanonical.slotSources {first x es} (h : MemoryCanonical s) : MemoryCanonical (s.slotSources first x es).1 := by
  unfold State.slotSources
  refine .foldlFst h fun _ _ ht => .iteFst ht ?_
  split
  · exact ht
  · dsimp only
    split
    · exact ht.takeToken
    · exact ht.takeToken

theorem MemoryCanonical.unitTransfer {d site first x tab next} (h : MemoryCanonical s) :
    MemoryCanonical (s.unitTransfer d site first x tab next) :=
  h.slotSources.setBox

theorem MemoryCanonical.localTarget {first d site target t} (h : MemoryCanonical s) :
    MemoryCanonical (s.localTarget first d site target t) := by
  unfold State.localTarget
  split
  · exact h
  · exact h.foldl fun _ _ ht => .ite ht.arrive ht

theorem MemoryCanonical.linkOut {first count x d site dir sent t} (h : MemoryCanonical s) :
    MemoryCanonical (s.linkOut first count x d site dir sent t) := by
  unfold State.linkOut
  split
  · exact h.setBox
  · exact .ite h.count.fault h

theorem MemoryCanonical.fireSlot {d site first x c} (h : MemoryCanonical s) : MemoryCanonical (s.fireSlot d site first x c) := by
  unfold State.fireSlot
  extract_lets b tab es pop ins s₁ z found s₂ s₃ s₄
  have hz : MemoryCanonical z.1 := h.setBox.slotSources
  have h₂ : MemoryCanonical s₂ := hz.foldl fun _ _ ht => ht.linkOut
  have h₃ : MemoryCanonical s₃ := by
    refine h₂.foldl fun t i ht => ?_
    split
    · exact ht.localTarget
    · exact ht
  have h₄ : MemoryCanonical s₄ := h₃.unitTransfer
  clear_value s₄
  split
  · exact h₄
  · exact .ite h₄.noteLead h₄

theorem execSlotFiring_canonical {d site} (h : MemoryCanonical s) : NextCanonical (execSlotFiring d site s) := by
  unfold execSlotFiring
  refine .next ?_
  split
  · exact h
  · exact .ite h.fireSlot h

/-! ### Delivery and credits (R145, R146, R151, R152) -/

theorem MemoryCanonical.creditBack {m} (h : MemoryCanonical s) : MemoryCanonical (s.creditBack m) := h.setChan

theorem MemoryCanonical.tagFault {first m} (h : MemoryCanonical s) : MemoryCanonical (s.tagFault first m) := h.creditBack.castFault

theorem MemoryCanonical.feedCu {n} (h : MemoryCanonical s) : MemoryCanonical (s.feedCu n) :=
  h.foldl fun _ _ ht => .ite ht.setCu.creditBack ht

theorem MemoryCanonical.deliverCu {first n m} (h : MemoryCanonical s) : MemoryCanonical (s.deliverCu first n m) := by
  unfold State.deliverCu
  refine .ite h.setCu.tagFault (.ite h.setCu.feedCu ?_)
  split
  · exact h.setCu
  · exact h
  · exact h.setCu.tagFault

theorem MemoryCanonical.deliverMu {first n m} (h : MemoryCanonical s) : MemoryCanonical (s.deliverMu first n m) := by
  unfold State.deliverMu
  dsimp only
  split
  · exact h
  · split
    · exact h.setMu
    · exact h
    · exact h.setMu.tagFault

theorem MemoryCanonical.deliverElem {first d site i m} (h : MemoryCanonical s) : MemoryCanonical (s.deliverElem first d site i m) := by
  unfold State.deliverElem
  dsimp only
  split
  · exact h.setElem
  · exact h
  · exact h.setElem.tagFault

theorem execTokenDelivery_canonical {d site port} (h : MemoryCanonical s) : NextCanonical (execTokenDelivery d site port s) := by
  unfold execTokenDelivery
  refine .next ?_
  split
  · exact h
  · refine .ite ?_ (.ite ?_ ?_)
    · dsimp only
      split
      · exact h.deliverElem
      · exact h
    · split
      · exact h.deliverCu
      · exact h
    · split
      · exact h.deliverMu
      · exact h

theorem execCreditReturn_canonical {d k} (h : MemoryCanonical s) : NextCanonical (execCreditReturn d k s) := by
  unfold execCreditReturn
  refine .next ?_
  split
  · exact h
  · dsimp only
    split
    · refine .ite h.setChan.setChan (.ite h.setChan.setChan ?_)
      split
      · exact h.setChan.spillTake.arrive
      · exact h.setChan.spillTake
    · exact h

/-! ### Steering (R148 to R151) -/

theorem MemoryCanonical.fireElem {d site i tag consumed out sent} (h : MemoryCanonical s) :
    MemoryCanonical (s.fireElem d site i tag consumed out sent) :=
  h.setElem.foldl fun _ _ ht => ht.creditBack

theorem execSteer_canonical {d site i tag} (h : MemoryCanonical s) : NextCanonical (execSteer d site i tag s) := by
  unfold execSteer
  refine .next ?_
  split
  · exact h
  · dsimp only
    split
    · exact .ite h (.ite h.castPoisoned (.ite h h.fireElem))
    · exact h

theorem execJoin_canonical {d site i tag} (h : MemoryCanonical s) : NextCanonical (execJoin d site i tag s) := by
  unfold execJoin
  refine .next ?_
  split
  · exact h
  · split
    · dsimp only
      split
      · exact h
      · exact .ite h (.ite h (.ite h.castPoisoned h))
    · dsimp only
      split
      · exact h
      · exact .ite h (.ite h (.ite h.castPoisoned h.fireElem))

/-! ### Stalls and limits (R159 to R162) -/

theorem MemoryCanonical.stallEntry {x first time b} (h : MemoryCanonical s) : MemoryCanonical (s.stallEntry x first time b) :=
  h.setR.setR.setF.count

theorem MemoryCanonical.stall {first x} (h : MemoryCanonical s) : MemoryCanonical (s.stall first x) :=
  .stopCast (.fault (.count (h.foldl fun _ _ ht => ht.stallEntry)))

theorem execStallLimit_canonical {d} (h : MemoryCanonical s) : NextCanonical (execStallLimit d s) := by
  unfold execStallLimit
  refine .next ?_
  split
  · exact .ite h.stall h
  · exact h

theorem execStepLimit_canonical {d} (h : MemoryCanonical s) : NextCanonical (execStepLimit d s) := by
  unfold execStepLimit
  refine .next ?_
  split
  · exact .ite (.ite h.stall h.fault.stopCast) h
  · exact h

/-! ## The compute unit (R171 to R198) -/

/-! ### Issue (R172, R180, R189) -/

theorem MemoryCanonical.cuIssue {n op} {f : State → CuOp → State} (h : MemoryCanonical s)
    (hf : ∀ t o, MemoryCanonical t → MemoryCanonical (f t o)) : MemoryCanonical (s.cuIssue n op f) := by
  unfold State.cuIssue
  split
  · exact h
  · exact .ite (hf _ _ h) h

theorem MemoryCanonical.setCuTask {o y} (h : MemoryCanonical s) : MemoryCanonical (s.setCuTask o y) := h.setCu

theorem MemoryCanonical.cuGoto {o pc} (h : MemoryCanonical s) : MemoryCanonical (s.cuGoto o pc) := h.setCuTask

theorem MemoryCanonical.cuAdvance {o} (h : MemoryCanonical s) : MemoryCanonical (s.cuAdvance o) := h.cuGoto

theorem MemoryCanonical.cuCountVec {o} (h : MemoryCanonical s) : MemoryCanonical (s.cuCountVec o) := h.countWrap

/-! ### Control flow (R263, R264) -/

theorem MemoryCanonical.cuEnd {o} (h : MemoryCanonical s) : MemoryCanonical (s.cuEnd o) := h.setCuTask

theorem MemoryCanonical.cuNext {o} (h : MemoryCanonical s) : MemoryCanonical (s.cuNext o) :=
  .ite (.setCuTask (h.setCu.foldl fun _ _ ht => ht.creditBack)) (.setRun (.count (.setCuTask (h.setCu.foldl fun _ _ ht => ht.creditBack))))

theorem MemoryCanonical.cuJmp {o} (h : MemoryCanonical s) : MemoryCanonical (s.cuJmp o) := h.cuGoto

theorem MemoryCanonical.cuBfirst {o} (h : MemoryCanonical s) : MemoryCanonical (s.cuBfirst o) := .ite h.cuGoto h.cuAdvance

theorem MemoryCanonical.cuSetl {o} (h : MemoryCanonical s) : MemoryCanonical (s.cuSetl o) := h.setCuTask

theorem MemoryCanonical.cuLoop {o} (h : MemoryCanonical s) : MemoryCanonical (s.cuLoop o) := .ite h.setCuTask h.setCuTask

/-! ### Loads and stores of the buffer (R178, R180, R269) -/

theorem MemoryCanonical.cuLoad {o scales} (h : MemoryCanonical s) : MemoryCanonical (s.cuLoad o scales) := h.cuAdvance.setCu.feedCu

theorem MemoryCanonical.cuStb {o} (h : MemoryCanonical s) : MemoryCanonical (s.cuStb o) := h.setCu.cuAdvance

theorem MemoryCanonical.cuSts {o} (h : MemoryCanonical s) : MemoryCanonical (s.cuSts o) := h.setCu.cuAdvance

/-! ### Accumulator banks (R182, R183) -/

theorem MemoryCanonical.cuDrain {o} (h : MemoryCanonical s) : MemoryCanonical (s.cuDrain o) := h.setCuTask.cuAdvance

theorem MemoryCanonical.cuBload {o} (h : MemoryCanonical s) : MemoryCanonical (s.cuBload o) := h.setCu.cuAdvance

/-! ### Vector instructions (R185, R186, R265, R266) -/

theorem MemoryCanonical.cuEvents {o es} (h : MemoryCanonical s) : MemoryCanonical (s.cuEvents o es) := by
  unfold State.cuEvents
  split
  · exact h
  · exact h.castNan

theorem MemoryCanonical.cuLanes {o srcs f} (h : MemoryCanonical s) : MemoryCanonical (s.cuLanes o srcs f) :=
  h.setCuTask.cuCountVec.cuAdvance.cuEvents

theorem MemoryCanonical.cuCmp {o} (h : MemoryCanonical s) : MemoryCanonical (s.cuCmp o) :=
  .cuEvents (.cuAdvance (.cuCountVec (.ite h.setCuTask h.setCuTask.drawn)))

theorem MemoryCanonical.cuSel {o} (h : MemoryCanonical s) : MemoryCanonical (s.cuSel o) := h.setCuTask.cuCountVec.cuAdvance.cuEvents

theorem MemoryCanonical.cuRed {o} (h : MemoryCanonical s) : MemoryCanonical (s.cuRed o) := h.setCuTask.cuCountVec.cuAdvance.cuEvents

theorem MemoryCanonical.cuRowsum {o} (h : MemoryCanonical s) : MemoryCanonical (s.cuRowsum o) :=
  .ite h.setCu.cuCountVec.cuAdvance h.setCu.cuCountVec.cuAdvance.cuEvents

/-! ### Conversions (R244 to R247, R267) -/

theorem MemoryCanonical.cvtNarrow {o} (h : MemoryCanonical s) : MemoryCanonical (s.cvtNarrow o) :=
  .cuEvents (.cuAdvance (.cuCountVec (.setCuTask (.ite h.drawn h.drawn.drawn))))

theorem MemoryCanonical.cvtWiden {o} (h : MemoryCanonical s) : MemoryCanonical (s.cvtWiden o) := h.setCuTask.cuCountVec.cuAdvance.cuEvents

theorem MemoryCanonical.cuCvt {o} (h : MemoryCanonical s) : MemoryCanonical (s.cuCvt o) := .ite h.cvtWiden h.cvtNarrow

/-! ### MOV, MOVI and SEND (R187, R266, R269) -/

theorem MemoryCanonical.cuMov {o} (h : MemoryCanonical s) : MemoryCanonical (s.cuMov o) :=
  .ite h.setCuTask.cuAdvance (h.drawn.drawn.setCu.setCuTask.cuAdvance.foldl fun _ _ ht => ht.creditBack)

theorem MemoryCanonical.cuMovi {o} (h : MemoryCanonical s) : MemoryCanonical (s.cuMovi o) := h.setCuTask.cuAdvance

theorem MemoryCanonical.cuSend {o} (h : MemoryCanonical s) : MemoryCanonical (s.cuSend o) :=
  .ite (.ite h.castPoisoned h.setCu.cuAdvance.drawn) h.setCu.cuAdvance

/-! ### The matrix engine (R173 to R183, R238 to R243) -/

theorem MemoryCanonical.mmDone {first run n m} (h : MemoryCanonical s) : MemoryCanonical (s.mmDone first run n m) := by
  unfold State.mmDone
  split
  · dsimp only
    split
    · exact h.setCu.countWrap
    · exact h.setCu.countWrap.castNan
  · dsimp only
    split
    · exact h.setCu.countWrap
    · exact h.setCu.countWrap.castNan

theorem MemoryCanonical.cuMm {o} (h : MemoryCanonical s) : MemoryCanonical (s.cuMm o) := h.cuGoto.setCu.feedCu

/-! ### The commands -/

theorem MemoryCanonical.taskSwitch {n} (h : MemoryCanonical s) : MemoryCanonical (s.taskSwitch n) := by
  unfold State.taskSwitch
  dsimp only
  split
  · exact h.setCu.countWrap
  · exact h

theorem execTaskSwitch_canonical {cu} (h : MemoryCanonical s) : NextCanonical (execTaskSwitch cu s) := .next h.taskSwitch

theorem execCuEnd_canonical {cu} (h : MemoryCanonical s) : NextCanonical (execCuEnd cu s) := .next (h.cuIssue (fun _ _ ht => ht.cuEnd))

theorem execCuNext_canonical {cu} (h : MemoryCanonical s) : NextCanonical (execCuNext cu s) := .next (h.cuIssue (fun _ _ ht => ht.cuNext))

theorem execCuJmp_canonical {cu} (h : MemoryCanonical s) : NextCanonical (execCuJmp cu s) := .next (h.cuIssue (fun _ _ ht => ht.cuJmp))

theorem execCuBfirst_canonical {cu} (h : MemoryCanonical s) : NextCanonical (execCuBfirst cu s) :=
  .next (h.cuIssue (fun _ _ ht => ht.cuBfirst))

theorem execCuSetl_canonical {cu} (h : MemoryCanonical s) : NextCanonical (execCuSetl cu s) := .next (h.cuIssue (fun _ _ ht => ht.cuSetl))

theorem execCuLoop_canonical {cu} (h : MemoryCanonical s) : NextCanonical (execCuLoop cu s) := .next (h.cuIssue (fun _ _ ht => ht.cuLoop))

theorem execCuMm_canonical {cu} (h : MemoryCanonical s) : NextCanonical (execCuMm cu s) := .next (h.cuIssue (fun _ _ ht => ht.cuMm))

theorem execMmComplete_canonical {cu} (h : MemoryCanonical s) : NextCanonical (execMmComplete cu s) := by
  unfold execMmComplete
  refine .next ?_
  split
  · exact .ite h.mmDone h
  · exact h

theorem execCuLdb_canonical {cu} (h : MemoryCanonical s) : NextCanonical (execCuLdb cu s) := .next (h.cuIssue (fun _ _ ht => ht.cuLoad))

theorem execCuLds_canonical {cu} (h : MemoryCanonical s) : NextCanonical (execCuLds cu s) := .next (h.cuIssue (fun _ _ ht => ht.cuLoad))

theorem execCuStb_canonical {cu} (h : MemoryCanonical s) : NextCanonical (execCuStb cu s) := .next (h.cuIssue (fun _ _ ht => ht.cuStb))

theorem execCuSts_canonical {cu} (h : MemoryCanonical s) : NextCanonical (execCuSts cu s) := .next (h.cuIssue (fun _ _ ht => ht.cuSts))

theorem execCuDrain_canonical {cu} (h : MemoryCanonical s) : NextCanonical (execCuDrain cu s) :=
  .next (h.cuIssue (fun _ _ ht => ht.cuDrain))

theorem execCuBload_canonical {cu} (h : MemoryCanonical s) : NextCanonical (execCuBload cu s) :=
  .next (h.cuIssue (fun _ _ ht => ht.cuBload))

theorem execCuAdd_canonical {cu} (h : MemoryCanonical s) : NextCanonical (execCuAdd cu s) := .next (h.cuIssue (fun _ _ ht => ht.cuLanes))

theorem execCuMul_canonical {cu} (h : MemoryCanonical s) : NextCanonical (execCuMul cu s) := .next (h.cuIssue (fun _ _ ht => ht.cuLanes))

theorem execCuFma_canonical {cu} (h : MemoryCanonical s) : NextCanonical (execCuFma cu s) := .next (h.cuIssue (fun _ _ ht => ht.cuLanes))

theorem execCuExp2_canonical {cu} (h : MemoryCanonical s) : NextCanonical (execCuExp2 cu s) := .next (h.cuIssue (fun _ _ ht => ht.cuLanes))

theorem execCuRcp_canonical {cu} (h : MemoryCanonical s) : NextCanonical (execCuRcp cu s) := .next (h.cuIssue (fun _ _ ht => ht.cuLanes))

theorem execCuRsqrt_canonical {cu} (h : MemoryCanonical s) : NextCanonical (execCuRsqrt cu s) :=
  .next (h.cuIssue (fun _ _ ht => ht.cuLanes))

theorem execCuMax_canonical {cu} (h : MemoryCanonical s) : NextCanonical (execCuMax cu s) := .next (h.cuIssue (fun _ _ ht => ht.cuLanes))

theorem execCuCmp_canonical {cu} (h : MemoryCanonical s) : NextCanonical (execCuCmp cu s) := .next (h.cuIssue (fun _ _ ht => ht.cuCmp))

theorem execCuSel_canonical {cu} (h : MemoryCanonical s) : NextCanonical (execCuSel cu s) := .next (h.cuIssue (fun _ _ ht => ht.cuSel))

theorem execCuCvt_canonical {cu} (h : MemoryCanonical s) : NextCanonical (execCuCvt cu s) := .next (h.cuIssue (fun _ _ ht => ht.cuCvt))

theorem execCuRed_canonical {cu} (h : MemoryCanonical s) : NextCanonical (execCuRed cu s) := .next (h.cuIssue (fun _ _ ht => ht.cuRed))

theorem execCuRowsum_canonical {cu} (h : MemoryCanonical s) : NextCanonical (execCuRowsum cu s) :=
  .next (h.cuIssue (fun _ _ ht => ht.cuRowsum))

theorem execCuMov_canonical {cu} (h : MemoryCanonical s) : NextCanonical (execCuMov cu s) := .next (h.cuIssue (fun _ _ ht => ht.cuMov))

theorem execCuMovi_canonical {cu} (h : MemoryCanonical s) : NextCanonical (execCuMovi cu s) := .next (h.cuIssue (fun _ _ ht => ht.cuMovi))

theorem execCuSend_canonical {cu} (h : MemoryCanonical s) : NextCanonical (execCuSend cu s) := .next (h.cuIssue (fun _ _ ht => ht.cuSend))

/-! ## The memory unit (R199 to R231) -/

/-! ### Slot rings (R214, R215) -/

theorem MemoryCanonical.storeEach {l : List Nat} {a : Nat → Nat} {bs : Nat → List Byte} {mark : Nat → Bool} (h : MemoryCanonical s) :
    MemoryCanonical (l.foldl (fun t i => t.store (a i) (bs i) (mark i)) s) :=
  h.foldl fun _ _ ht => ht.store

/-! ### Generators -/

theorem MemoryCanonical.setAg {o g} (h : MemoryCanonical s) : MemoryCanonical (s.setAg o g) := h.setMu

theorem MemoryCanonical.agWait {o code} (h : MemoryCanonical s) : MemoryCanonical (s.agWait o code) := h.setAg

theorem MemoryCanonical.setAgGo {o g} (h : MemoryCanonical s) : MemoryCanonical (s.setAgGo o g) := h.setAg

theorem MemoryCanonical.agIssue {n a op} {f : State → AgOp → State} (h : MemoryCanonical s)
    (hf : ∀ t o, MemoryCanonical t → MemoryCanonical (f t o)) : MemoryCanonical (s.agIssue n a op f) := by
  unfold State.agIssue
  split
  · exact h
  · exact .ite h (hf _ _ h)

theorem MemoryCanonical.setRing {n r p} (h : MemoryCanonical s) : MemoryCanonical (s.setRing n r p) := h.setMu

theorem MemoryCanonical.footprintFault {o a} (h : MemoryCanonical s) : MemoryCanonical (s.footprintFault o a) := h.castFault

theorem MemoryCanonical.putLine {a bits new mark} (h : MemoryCanonical s) : MemoryCanonical (s.putLine a bits new mark) := by
  unfold State.putLine
  extract_lets old v m ps t u
  have ht : MemoryCanonical t := memWf_memWrite _ _ h
  exact .ite ht.countLines ht.countLines.countLines

theorem MemoryCanonical.takeLine {a} (h : MemoryCanonical s) : MemoryCanonical (s.takeLine a).1 := h.countLines

/-! ### AFF_READ (R208, R212, R274) -/

theorem MemoryCanonical.muSend {n port t} (h : MemoryCanonical s) : MemoryCanonical (s.muSend n port t) := h.setMu

theorem MemoryCanonical.readLine {o start} (h : MemoryCanonical s) : MemoryCanonical (s.readLine o start) := by
  unfold State.readLine
  extract_lets g ls is bits tag a mk l z s₁ total s₂ g₁
  have hz : MemoryCanonical z.1 := .iteFst h.countWrap (.iteFst h.footprintFault h.takeLine)
  have h₁ : MemoryCanonical s₁ := hz.muSend
  have h₂ : MemoryCanonical s₂ := by
    dsimp only [s₂]
    split
    · exact .ite h₁.setRing h₁
    · exact h₁
  exact h₂.setAgGo

theorem MemoryCanonical.affRead {o} (h : MemoryCanonical s) : MemoryCanonical (s.affRead o) := by
  unfold State.affRead
  split
  · exact .ite h.agWait (.ite h.agWait h.readLine)
  · exact .ite h.agWait h.readLine

/-! ### AFF_WRITE and AFF_ADD (R209, R212, R219, R274) -/

theorem MemoryCanonical.placeToken {o add start k m} (h : MemoryCanonical s) : MemoryCanonical (s.placeToken o add start k m) := by
  unfold State.placeToken
  refine .ite (.countWrap (.setAgGo ?_)) (.ite (.footprintFault (.setAgGo ?_)) (.ite (.putLine (.setAgGo ?_)) ?_))
  · split
    · exact h.setMu.creditBack.setRing
    · exact h.setMu.creditBack
  · split
    · exact h.setMu.creditBack.setRing
    · exact h.setMu.creditBack
  · split
    · exact h.setMu.creditBack.setRing
    · exact h.setMu.creditBack
  · split
    · split
      · dsimp only
        split
        · exact h.setMu.creditBack.setRing.setAgGo.takeLine.putLine
        · exact h.setMu.creditBack.setRing.setAgGo.takeLine.putLine.castNan
      · dsimp only
        split
        · exact h.setMu.creditBack.setRing.setAgGo.takeLine.putLine
        · exact h.setMu.creditBack.setRing.setAgGo.takeLine.putLine.castNan
    · split
      · dsimp only
        split
        · exact h.setMu.creditBack.setAgGo.takeLine.putLine
        · exact h.setMu.creditBack.setAgGo.takeLine.putLine.castNan
      · dsimp only
        split
        · exact h.setMu.creditBack.setAgGo.takeLine.putLine
        · exact h.setMu.creditBack.setAgGo.takeLine.putLine.castNan

theorem MemoryCanonical.affWrite {o add} (h : MemoryCanonical s) : MemoryCanonical (s.affWrite o add) := by
  unfold State.affWrite
  split
  · dsimp only
    split
    · exact h.agWait
    · exact .ite h.setMu.tagFault h.placeToken
  · dsimp only
    split
    · exact h.agWait
    · exact .ite h.setMu.tagFault h.placeToken

/-! ### List streams (R210, R275) -/

theorem MemoryCanonical.listBad {o va lines} (h : MemoryCanonical s) : MemoryCanonical (s.listBad o va lines).1 := h.castFault

theorem MemoryCanonical.listError {o va i lines} (h : MemoryCanonical s) : MemoryCanonical (s.listError o va i lines).1 := by
  unfold State.listError
  split
  · exact h.castXlate
  · exact h.castPoisoned
  · exact h.listBad
  · exact h.runFault

theorem MemoryCanonical.muAccess {o va len wr} (h : MemoryCanonical s) : MemoryCanonical (s.muAccess o va len wr) :=
  h.lookUps.countWrap.touchRange

theorem MemoryCanonical.listEntry {o wr} (h : MemoryCanonical s) : MemoryCanonical (s.listEntry o wr).1 := by
  unfold State.listEntry
  split
  · exact h.listBad
  · dsimp only
    split
    · exact h.muAccess.listError
    · exact h.muAccess.castPoisoned
    · refine .iteFst h.muAccess.listBad ?_
      split
      · exact h.muAccess.listError
      · exact h.muAccess

theorem MemoryCanonical.listNext {o lines} (h : MemoryCanonical s) : MemoryCanonical (s.listNext o lines) := h.setAgGo

theorem MemoryCanonical.listRefused {o st} (h : MemoryCanonical s) : MemoryCanonical (s.listRefused o st) := by
  unfold State.listRefused
  split
  · exact h.forgetRequests.stopCast
  · exact h

theorem MemoryCanonical.listBegin {o wr} (h : MemoryCanonical s) : MemoryCanonical (s.listBegin o wr) := by
  unfold State.listBegin
  split
  · next e => exact .of_fst e h.listEntry
  · next e => exact .listNext (.of_fst e h.listEntry)
  · next e =>
    extract_lets ps s₁ _ s₂ z
    have h₁ : MemoryCanonical s₁ := (MemoryCanonical.of_fst e h.listEntry).foldl fun _ _ ht => ht.muAccess
    have hz : MemoryCanonical z.1 := h₁.setAgGo.countPieces.requestAll fun _ _ ht => ht.requestRead
    clear_value z
    refine .ite (h₁.setAgGo.requestAll fun _ _ ht => ht.requestEdge) ?_
    split
    · exact hz.listRefused
    · exact hz

theorem MemoryCanonical.fillLines {o a bs marks from_} (h : MemoryCanonical s) : MemoryCanonical (s.fillLines o a bs marks from_) :=
  h.foldl fun _ _ ht => .ite ht.putLine ht.footprintFault

theorem MemoryCanonical.fetchPart {o i} (h : MemoryCanonical s) : MemoryCanonical (s.fetchPart o i) := by
  unfold State.fetchPart
  split
  · exact h.fillLines.drawn.listNext
  · exact .ite h.agWait (.ite h.fillLines.drawn.setRing.setAgGo h.fillLines.drawn.setRing.listNext)

theorem MemoryCanonical.listFetch {o} (h : MemoryCanonical s) : MemoryCanonical (s.listFetch o) := by
  unfold State.listFetch
  refine .ite (.ite h.listBegin h) (.ite (.agWait (.ite h.listBegin h)) ?_)
  split
  · exact .fetchPart (.ite h.listBegin h)
  · exact .listNext (.ite h.listBegin h)

theorem MemoryCanonical.drainLines {o a n} (h : MemoryCanonical s) : MemoryCanonical (s.drainLines o a n).1 := by
  unfold State.drainLines
  refine .foldlFst h fun z i ht => ?_
  extract_lets p l
  have hl : MemoryCanonical l.1 := ht.takeLine
  clear_value l p
  exact .iteFst hl ht.footprintFault

theorem MemoryCanonical.scatter {n i from_ bs marks} (h : MemoryCanonical s) : MemoryCanonical (s.scatter n i from_ bs marks) := by
  unfold State.scatter
  extract_lets v cs s₁ hit
  have h₁ : MemoryCanonical s₁ := h.foldl fun _ _ ht => ht.pokeElem
  exact .ite (h₁.foldl fun _ _ ht => ht.markStretch) (h₁.foldl fun _ _ ht => ht.markStretch)

theorem MemoryCanonical.storeSend {o i} (h : MemoryCanonical s) : MemoryCanonical (s.storeSend o i) := by
  unfold State.storeSend
  extract_lets ps s₁ _ s₂ z
  have h₁ : MemoryCanonical s₁ := .ite h.runFault h
  have hz : MemoryCanonical z.1 := h₁.countPieces.setAgGo.requestAll fun _ _ ht => ht.requestWrite
  clear_value z
  split
  · exact hz.listRefused
  · exact .ite hz.listNext hz

theorem MemoryCanonical.storePart {o i} (h : MemoryCanonical s) : MemoryCanonical (s.storePart o i) := by
  unfold State.storePart
  split
  · exact h.drainLines.scatter.storeSend
  · exact .ite h.agWait (.ite h.drainLines.scatter.setRing.setAgGo h.drainLines.scatter.setRing.storeSend)

theorem MemoryCanonical.listStore {o} (h : MemoryCanonical s) : MemoryCanonical (s.listStore o) := by
  unfold State.listStore
  refine .ite (.ite h.listBegin h) (.ite (.agWait (.ite h.listBegin h)) ?_)
  split
  · exact .ite (.listNext (.ite h.listBegin h)) (.storePart (.ite h.listBegin h))
  · exact .listNext (.ite h.listBegin h)

/-! ### SYNC, END and the scrub (R276, R202) -/

theorem MemoryCanonical.muSync {o} (h : MemoryCanonical s) : MemoryCanonical (s.muSync o) := .ite h.setAgGo h

theorem MemoryCanonical.muEnd {o} (h : MemoryCanonical s) : MemoryCanonical (s.muEnd o) := h.setAgGo

theorem execAffRead_canonical {mu a} (h : MemoryCanonical s) : NextCanonical (execAffRead mu a s) :=
  .next (h.agIssue (fun _ _ ht => ht.affRead))

theorem execAffWrite_canonical {mu a} (h : MemoryCanonical s) : NextCanonical (execAffWrite mu a s) :=
  .next (h.agIssue (fun _ _ ht => ht.affWrite))

theorem execAffAdd_canonical {mu a} (h : MemoryCanonical s) : NextCanonical (execAffAdd mu a s) :=
  .next (h.agIssue (fun _ _ ht => ht.affWrite))

theorem execListFetch_canonical {mu a} (h : MemoryCanonical s) : NextCanonical (execListFetch mu a s) :=
  .next (h.agIssue (fun _ _ ht => ht.listFetch))

theorem execListStore_canonical {mu a} (h : MemoryCanonical s) : NextCanonical (execListStore mu a s) :=
  .next (h.agIssue (fun _ _ ht => ht.listStore))

theorem execMuSync_canonical {mu a} (h : MemoryCanonical s) : NextCanonical (execMuSync mu a s) :=
  .next (h.agIssue (fun _ _ ht => ht.muSync))

theorem execAgEnd_canonical {mu a} (h : MemoryCanonical s) : NextCanonical (execAgEnd mu a s) := .next (h.agIssue (fun _ _ ht => ht.muEnd))

theorem execPatrolScrub_canonical {mu line outcome} (h : MemoryCanonical s) : NextCanonical (execPatrolScrub mu line outcome s) := by
  unfold execPatrolScrub
  extract_lets k w a s₁ site s₂ s₃ lost _ s₄ s₅
  have h₁ : MemoryCanonical s₁ := h.countLines
  have h₃ : MemoryCanonical s₃ := h₁.count.setF.setF
  have h₄ : MemoryCanonical s₄ := .ite h₃.setPoison h₃
  have h₅ : MemoryCanonical s₅ := .ite h₁ h₄.fault
  exact .next (.ite h (.ite h₅.count h₅))

/-! ## Casts (R110 to R119) -/

/-! ### Slots -/

theorem MemoryCanonical.dropCasts (h : MemoryCanonical s) : MemoryCanonical s.dropCasts := h

theorem MemoryCanonical.setStandby {ds x} (h : MemoryCanonical s) : MemoryCanonical (s.setStandby ds x) := h

theorem MemoryCanonical.setActive {ds x} (h : MemoryCanonical s) : MemoryCanonical (s.setActive ds x) := h

theorem MemoryCanonical.refreshSaddle {became} (h : MemoryCanonical s) : MemoryCanonical (s.refreshSaddle became) :=
  .setF (.ite h.setF.setF.setF h)

theorem MemoryCanonical.evictActive {ds} (h : MemoryCanonical s) : MemoryCanonical (s.evictActive ds) := h.setActive.dropCasts.refreshSaddle

/-! ### The hot set (R117, R118) -/

theorem MemoryCanonical.refreshHot (h : MemoryCanonical s) : MemoryCanonical s.refreshHot := h.setF.setF.setF

theorem MemoryCanonical.setHot {m} (h : MemoryCanonical s) : MemoryCanonical (s.setHot m) := .refreshHot h

theorem MemoryCanonical.hotEvict {i} (h : MemoryCanonical s) : MemoryCanonical (s.hotEvict i) := h

theorem MemoryCanonical.hotMakeRoom {fuel frames} (h : MemoryCanonical s) : MemoryCanonical (State.hotMakeRoom fuel s frames) := by
  induction fuel generalizing s with
  | zero => exact h
  | succ fuel ih =>
    refine .ite h ?_
    split
    · exact h
    · exact ih h.hotEvict

theorem MemoryCanonical.hotWrite {x img marks} (h : MemoryCanonical s) : MemoryCanonical (s.hotWrite x img marks) :=
  h.foldl fun _ _ ht => ht.store

theorem MemoryCanonical.hotUse {i pin} (h : MemoryCanonical s) : MemoryCanonical (s.hotUse i pin) := h

/-! ### CAST_STAGE (R113) -/

theorem MemoryCanonical.hotStart {n r m} (h : MemoryCanonical s) : MemoryCanonical (s.hotStart n r m).1 := by
  unfold State.hotStart
  extract_lets frames t i x
  have ht : MemoryCanonical t := h.hotMakeRoom
  clear_value x t i
  refine .iteFst h ?_
  dsimp only
  exact ht.drawn.drawn.setHot.hotUse

theorem MemoryCanonical.beginStage {q seq r m} (h : MemoryCanonical s) : MemoryCanonical (s.beginStage q seq r m) := by
  unfold State.beginStage
  extract_lets n hit t z u k x c y _ v
  have ht : MemoryCanonical t := .ite h.count h.count
  clear_value t hit
  have hz : MemoryCanonical z.1 := by
    cases hit with
    | some e => exact ht.hotUse
    | none => exact ht.hotStart
  clear_value z
  have hv : MemoryCanonical v := hz
  exact hv.setStandby

theorem MemoryCanonical.stageDrop {x} (h : MemoryCanonical s) : MemoryCanonical (s.stageDrop x) :=
  .dropCasts (.ite h.setStandby.hotEvict h.setStandby)

theorem MemoryCanonical.stageFail {x st result detail} (h : MemoryCanonical s) : MemoryCanonical (s.stageFail x st result detail) :=
  h.stageDrop.endFlight

theorem MemoryCanonical.stageReads {q seq n va len t o} (h : MemoryCanonical s) (e : s.stageReads q seq n va len = .ok (t, o)) :
    MemoryCanonical t := by
  unfold State.stageReads at e
  split at e
  · cases e
  · exact .of_fst (Except.ok.inj e) (h.moverAccess.requestAll fun _ _ hu => hu.requestRead)

theorem MemoryCanonical.stageStep {q seq} (h : MemoryCanonical s) : MemoryCanonical (s.stageStep q seq) := by
  unfold State.stageStep
  split
  · exact h
  · refine .ite h ?_
    split
    · exact h.failFlight
    · split
      · exact h.endFlight
      · dsimp only
        split
        · exact h.setFlight.beginStage
        · split
          · exact h.setFlight.beginStage.accFault.stageFail
          · refine .ite h.setFlight.beginStage ?_
            split
            · exact .stageFail (h.setFlight.beginStage.moverAccess.requestAll (fun _ _ ht => ht.requestRead))
            · exact h.setFlight.beginStage.moverAccess.requestAll (fun _ _ ht => ht.requestRead)

theorem MemoryCanonical.runStage {q seq r} (h : MemoryCanonical s) : MemoryCanonical (s.runStage q seq r) := by
  unfold State.runStage
  split
  · exact h.failFlight
  · next e =>
    refine .endFlight (.stageReads ?_ e)
    exact h
  · next e =>
    refine .stageStep (.stageReads ?_ e)
    exact h

theorem specCastStage_canonical : KeepsCanonical specCastStage := .of_run (fun h => h.runStage) rfl

theorem execCastStage_canonical {q} (h : MemoryCanonical s) : NextCanonical (execCastStage q s) :=
  .next (h.queueCommand specCastStage_canonical)

theorem MemoryCanonical.writePreload {c img marks} (h : MemoryCanonical s) : MemoryCanonical (s.writePreload c img marks) :=
  .foldl (h.foldl fun _ _ ht => ht.zero.countLines) fun _ _ ht => ht.foldl fun _ _ hu => hu.foldl fun _ _ hv => hv.store

theorem MemoryCanonical.stageDone {x c img marks l} (h : MemoryCanonical s) : MemoryCanonical (s.stageDone x c img marks l) := by
  unfold State.stageDone
  refine .endFlight (.setStandby (.ite ?_ (.writePreload ?_)))
  · split
    · exact .setHot (.hotWrite h)
    · exact h
  · split
    · exact .setHot (.hotWrite h)
    · exact h

theorem MemoryCanonical.stageImage {x} (h : MemoryCanonical s) : MemoryCanonical (s.stageImage x) := by
  unfold State.stageImage
  split
  · dsimp only
    split
    · exact h.accFault.stageFail
    · exact .ite h.fault.stageFail (.ite h.drawn.stageFail h.stageDone)
  · dsimp only
    split
    · exact h.accFault.stageFail
    · split
      · exact h.stageFail
      · exact .ite h.fault.stageFail (.ite h.drawn.stageFail h.stageDone)

theorem execCastStageComplete_canonical {d} (h : MemoryCanonical s) : NextCanonical (execCastStageComplete d s) := by
  unfold execCastStageComplete
  refine .next ?_
  split
  · exact h
  · exact .ite h h.stageImage

/-! ### CAST_SWITCH (R114) -/

theorem MemoryCanonical.swapSlots {first count k} (h : MemoryCanonical s) : MemoryCanonical (s.swapSlots first count k) :=
  .refreshSaddle (.foldl (h.foldl fun _ _ ht => ht.setActive) fun _ _ ht => ht.setStandby)

theorem MemoryCanonical.latePreload {first k t} (h : MemoryCanonical s) (e : s.latePreload first k = .ok t) : MemoryCanonical t := by
  unfold State.latePreload at e
  split at e
  · dsimp only at e
    split at e <;> cases e
    exact h.writePreload
  · cases e
    exact h

theorem MemoryCanonical.switchNow {q seq first count} (h : MemoryCanonical s) : MemoryCanonical (s.switchNow q seq first count) := by
  unfold State.switchNow
  split
  · exact h.endFlight
  · split
    · exact h.failFlight
    · next e' =>
      refine .endFlight (.swapSlots (.latePreload ?_ e'))
      exact h

theorem MemoryCanonical.setTx {t} (h : MemoryCanonical s) : MemoryCanonical (s.setTx t) := h

theorem MemoryCanonical.applyStaged {cs} (h : MemoryCanonical s) : MemoryCanonical (s.applyStaged cs) := by
  unfold State.applyStaged
  refine h.foldl fun _ _ ht => .ite (.ite ht.evictActive ht.setStandby.dropCasts) ?_
  split
  · exact ht.swapSlots
  · exact ht

theorem MemoryCanonical.stageCast {q seq r evict} (h : MemoryCanonical s) : MemoryCanonical (s.stageCast q seq r evict) := by
  unfold State.stageCast
  split
  · exact h.finishFlight
  · exact .ite h.finishFlight (.ite h.finishFlight h.setTx.finishFlight)

theorem MemoryCanonical.runSwitch {q seq r} (h : MemoryCanonical s) : MemoryCanonical (s.runSwitch q seq r) := by
  unfold State.runSwitch
  refine .ite h.stageCast ?_
  split
  · exact h.finishFlight
  · refine .ite ?_ h
    split
    · exact h.failFlight
    · next e' =>
      refine .endFlight (.stageReads ?_ e')
      exact h
    · next e' =>
      refine .stageReads ?_ e'
      exact h

theorem specCastSwitch_canonical : KeepsCanonical specCastSwitch := .of_run (fun h => h.runSwitch) rfl

theorem execCastSwitch_canonical {q} (h : MemoryCanonical s) : NextCanonical (execCastSwitch q s) :=
  .next (h.queueCommand specCastSwitch_canonical)

theorem execCastSwap_canonical {d} (h : MemoryCanonical s) : NextCanonical (execCastSwap d s) := by
  unfold execCastSwap
  refine .next ?_
  split
  · exact h
  · exact .ite h h.switchNow

/-! ### CAST_RUN (R111, R115, R155, R218) -/

theorem MemoryCanonical.startRun {owner n k total ds} (h : MemoryCanonical s) : MemoryCanonical (s.startRun owner n k total ds) :=
  h.slotsRun.beginStep

theorem MemoryCanonical.takeCastTurn {q} (h : MemoryCanonical s) : MemoryCanonical (s.takeCastTurn q) := h

theorem MemoryCanonical.runRun {q seq r} (h : MemoryCanonical s) : MemoryCanonical (s.runRun q seq r) := by
  unfold State.runRun
  split
  · exact h.finishFlight
  · dsimp only
    split
    · exact h.failFlight
    · exact h.finishFlight
    · exact h.takeCastTurn.startRun

theorem specCastRun_canonical : KeepsCanonical specCastRun := .of_run (fun h => h.runRun) rfl

theorem execCastRun_canonical {q} (h : MemoryCanonical s) : NextCanonical (execCastRun q s) := .next (h.queueCommand specCastRun_canonical)

/-! ### CAST_EVICT (R52, R115) and zeroing (R116) -/

theorem MemoryCanonical.evictStandby {ds} (h : MemoryCanonical s) : MemoryCanonical (s.evictStandby ds) :=
  .dropCasts (.setStandby (h.foldl fun _ _ ht => ht.stageFail))

theorem MemoryCanonical.runEvict {q seq r} (h : MemoryCanonical s) : MemoryCanonical (s.runEvict q seq r) := by
  unfold State.runEvict
  refine .ite h.stageCast (.ite ?_ h.evictStandby.finishFlight)
  split
  · exact h.finishFlight
  · exact h.evictActive.finishFlight

theorem specCastEvict_canonical : KeepsCanonical specCastEvict := .of_run (fun h => h.runEvict) rfl

theorem execCastEvict_canonical {q} (h : MemoryCanonical s) : NextCanonical (execCastEvict q s) :=
  .next (h.queueCommand specCastEvict_canonical)

theorem MemoryCanonical.moveDale {d} (h : MemoryCanonical s) : MemoryCanonical (s.moveDale d) := by
  unfold State.moveDale
  extract_lets t units f _ _ v u
  have ht : MemoryCanonical t := h.evictStandby.evictActive
  have hv : MemoryCanonical v := ht
  have hu : MemoryCanonical u := hv.zero
  clear_value u
  refine hu.foldl fun _ _ hw => ?_
  extract_lets w t
  have ht : MemoryCanonical t := hw.foldl fun _ _ hx => hx.setR
  exact ht.setR.foldl fun _ _ hx => hx.setR

theorem execDaleZeroingComplete_canonical {d} (h : MemoryCanonical s) : NextCanonical (execDaleZeroingComplete d s) := .next h

end Sys2Proof.Machine

end

section
/-! Memory in canonical form, continued: request serving (R382 to R413) and what follows. -/

namespace Sys2Proof.Machine

open Sys2Proof.Laws

variable {s : State}

/-! ## Request serving (R382 to R413) -/

/-! ### REQ_ADMIT (R290, R383) -/

theorem MemoryCanonical.admitEarly {q r t} (h : MemoryCanonical s) (e : Machine.admitEarly s q r = .ok t) : MemoryCanonical t := by
  unfold Machine.admitEarly at e
  dsimp only at e
  split at e
  · cases e
  · split at e <;> cases e
    exact h

theorem MemoryCanonical.serveWrite {n va bs mark t} (h : MemoryCanonical s) (e : s.serveWrite n va bs mark = .ok t) :
    MemoryCanonical t := by
  unfold State.serveWrite at e
  split at e
  · cases e
  · split at e <;> cases e
    exact h.noteRange.writePieces

theorem MemoryCanonical.runAdmit {q seq r} (h : MemoryCanonical s) : MemoryCanonical (s.runAdmit q seq r) := by
  unfold State.runAdmit
  dsimp only
  split
  · exact h.finishFlight
  · split
    · exact h.accFault.finishFlight
    · exact h.finishFlight
    · next e' =>
      refine .finishFlight (.setF (.setF (.setReq (.serveWrite ?_ e'))))
      exact h

theorem MemoryCanonical.admitEarly_stop {q r t d} (h : MemoryCanonical s) (e : Machine.admitEarly s q r = Except.error (t, d)) :
    MemoryCanonical t := by
  unfold Machine.admitEarly at e
  dsimp only at e
  split at e
  · cases e
    exact h.accFault
  · split at e <;> cases e
    exact h

theorem specReqAdmit_canonical : KeepsCanonical specReqAdmit := by
  refine ⟨fun {s q seq r} h => ?_, fun h e => h.admitEarly e, fun h e => h.admitEarly_stop e⟩
  change MemoryCanonical (State.runAdmit s q seq r)
  exact h.runAdmit

theorem execReqAdmit_canonical {q} (h : MemoryCanonical s) : NextCanonical (execReqAdmit q s) :=
  .next (h.queueCommand specReqAdmit_canonical)

/-! ### REQ_QUERY and REQ_CANCEL (R384, R407) -/

theorem MemoryCanonical.runQuery {q seq r} (h : MemoryCanonical s) : MemoryCanonical (s.runQuery q seq r) := by
  unfold State.runQuery
  refine .ite h.finishFlight ?_
  split
  · exact h.accFault.finishFlight
  · exact h.finishFlight
  · next e =>
    refine .finishFlight (.serveWrite ?_ e)
    exact h

theorem specReqQuery_canonical : KeepsCanonical specReqQuery := .of_run (fun h => h.runQuery) rfl

theorem execReqQuery_canonical {q} (h : MemoryCanonical s) : NextCanonical (execReqQuery q s) :=
  .next (h.queueCommand specReqQuery_canonical)

theorem MemoryCanonical.runCancel {q seq r} (h : MemoryCanonical s) : MemoryCanonical (s.runCancel q seq r) :=
  .ite h.finishFlight (.ite (.ite h.setReq h.setReq.cancelRequest) (.ite (.ite h.setReq h.finishFlight) h.answerCancel))

theorem specReqCancel_canonical : KeepsCanonical specReqCancel := .of_run (fun h => h.runCancel) rfl

theorem execReqCancel_canonical {q} (h : MemoryCanonical s) : NextCanonical (execReqCancel q s) :=
  .next (h.queueCommand specReqCancel_canonical)

/-! ### SERVE_START and STOP (R385, R413) -/

theorem MemoryCanonical.runServe {q seq r} (h : MemoryCanonical s) : MemoryCanonical (s.runServe q seq r) := h.setServeRun.setF.setF

theorem specServeStart_canonical : KeepsCanonical specServeStart := .of_run (fun h => h.runServe) rfl

theorem execServeStart_canonical {q} (h : MemoryCanonical s) : NextCanonical (execServeStart q s) :=
  .next (h.queueCommand specServeStart_canonical)

theorem MemoryCanonical.stopServe {m} (h : MemoryCanonical s) : MemoryCanonical (s.stopServe m) := by
  unfold State.stopServe
  split
  · exact h
  · exact .ite h.endServe h.setServeRun

theorem execStop_canonical {via m} (h : MemoryCanonical s) : NextCanonical (execStop via m s) := .next (.ite h.stopServe h)

theorem MemoryCanonical.promoteBinding {m} (h : MemoryCanonical s) : MemoryCanonical (s.promoteBinding m) := h

theorem execPromote_canonical {via m} (h : MemoryCanonical s) : NextCanonical (execPromote via m s) := .next (.ite h.promoteBinding h)

/-! ### Forming the batch (R389 to R391) -/

theorem MemoryCanonical.leaveOut {i c f} (h : MemoryCanonical s) : MemoryCanonical (s.leaveOut i c f).1 := .ite h.setReq h

theorem MemoryCanonical.tryCandidate {cmd maxReqs chunk a i} (h : MemoryCanonical a.1) :
    MemoryCanonical (State.tryCandidate cmd maxReqs chunk a i).1 := by
  unfold State.tryCandidate
  dsimp only
  split
  · exact h
  · refine .iteFst h (.iteFst h.leaveOut ?_)
    split
    · next e => exact (MemoryCanonical.of_fst e h.kvGrow).leaveOut
    · next e => exact (MemoryCanonical.of_fst e h.kvGrow).decideEnd
    · next e => exact (MemoryCanonical.of_fst e h.kvGrow).kvWriteLists.reserveOut.setReq

theorem MemoryCanonical.formBatch {m cmd} (h : MemoryCanonical s) : MemoryCanonical (s.formBatch m cmd).1 :=
  .foldl (.foldlFst h fun _ _ ht => ht.tryCandidate) fun _ _ ht => .ite ht.count ht

/-! ### The step batch (R387, R388) -/

theorem MemoryCanonical.writeBatch {b n number pass rows t} (h : MemoryCanonical s) (e : s.writeBatch b n number pass rows = .ok t) :
    MemoryCanonical t := by
  unfold State.writeBatch at e
  dsimp only at e
  split at e
  · cases e
  · next e₁ =>
    refine .foldlOk (fun a x u ha e₂ => ?_) (fun v hv => ?_) e
    · split at e₂
      · cases e₂
      · split at e₂
        · cases e₂
          exact ha _ rfl
        · exact (ha _ rfl).serveWrite e₂
    · cases hv
      exact h.serveWrite e₁

theorem MemoryCanonical.abandonWrite {m n i} (h : MemoryCanonical s) : MemoryCanonical (s.abandonWrite m n i) := by
  unfold State.abandonWrite
  split
  · exact h.abandonAccess
  · exact h.abandonStep

theorem MemoryCanonical.writeTarget {m x t} (h : MemoryCanonical s) (e : s.writeTarget m x = .ok t) : MemoryCanonical t := by
  unfold State.writeTarget at e
  split at e
  · cases e
  · exact h.writeBatch e

theorem execBatchFormation_canonical {m} (h : MemoryCanonical s) : NextCanonical (execBatchFormation m s) := by
  unfold execBatchFormation
  refine .next ?_
  split
  · exact h
  · refine .ite h (.ite h.endServe (.ite h.formBatch.setF ?_))
    split
    · next e' =>
      dsimp only
      split
      · exact h.formBatch.setServeRun.setF.abandonWrite
      · next e' =>
        refine .writeTarget ?_ e'
        exact h.formBatch.setServeRun.setF
    · dsimp only
      split
      · exact h.formBatch.setServeRun.setF.abandonWrite
      · next e' =>
        refine .writeTarget ?_ e'
        exact h.formBatch.setServeRun.setF

/-! ### Cast steps of a serving step (R385, R386) -/

theorem MemoryCanonical.startCast {m b x views} (h : MemoryCanonical s) : MemoryCanonical (s.startCast m b x views) := by
  unfold State.startCast
  split
  · split
    · exact h.abandonStep
    · dsimp only
      split
      · exact h.abandonAccess
      · exact h.abandonStep
      · exact h.setServeRun.takeCastTurn.startRun

/-! ### The sampler (R386, R393 to R398) -/

theorem MemoryCanonical.sampleRow {b row i extra cmd} (h : MemoryCanonical s) : MemoryCanonical (s.sampleRow b row i extra cmd).1 := by
  unfold State.sampleRow
  dsimp only
  split
  · exact h.accFault
  · exact h.fault
  · split
    · exact h.accFault
    · next e' =>
      split
      · next e' => exact .of_fst e' h.engineNan
      · next e' => exact .ite (.count (.of_fst e' h.engineNan)) (.of_fst e' h.engineNan)

theorem MemoryCanonical.sampleRows {b i extra cmd k props rows} (h : MemoryCanonical s) :
    MemoryCanonical (s.sampleRows b i extra cmd k props rows).1 := by
  induction rows generalizing s k with
  | nil => exact h
  | cons row rows ih =>
    unfold State.sampleRows
    split
    · next e =>
      have ht := MemoryCanonical.of_fst e h.sampleRow
      split
      · next e' => exact .of_fst e' (ih ht)
      · exact ih ht
    · next e => exact .of_fst e h.sampleRow

theorem MemoryCanonical.askSorter {m need} (h : MemoryCanonical s) : MemoryCanonical (s.askSorter m need).1 :=
  .iteFst h (.iteFst h (.iteFst h h))

theorem MemoryCanonical.propose {b j cmd xs} (h : MemoryCanonical s) : MemoryCanonical (s.propose b j cmd xs).1 := by
  induction xs generalizing s with
  | nil => exact h
  | cons x xs ih =>
    unfold State.propose
    extract_lets i _ y
    have hy : MemoryCanonical y.1 := by
      refine .iteFst ?_ h
      split <;> (next e => exact .of_fst e h.sampleRow)
    clear_value y
    split
    · exact hy
    · split
      · next e => exact .of_fst e (ih hy)
      · exact ih hy

theorem MemoryCanonical.sampleItems {m cmd xs} (h : MemoryCanonical s) : MemoryCanonical (s.sampleItems m cmd xs).1 := by
  induction xs generalizing s with
  | nil => exact h
  | cons x xs ih =>
    unfold State.sampleItems
    extract_lets i b rows extra pos y
    have hy : MemoryCanonical y.1 := by
      refine .iteFst ?_ h
      split <;> (next e => exact .of_fst e h.sampleRows)
    clear_value y
    split
    · exact hy
    · split
      · next e => exact .of_fst e (ih hy)
      · exact ih hy

theorem MemoryCanonical.beginDraft {m x} (h : MemoryCanonical s) : MemoryCanonical (s.beginDraft m x) := by
  unfold State.beginDraft
  refine .ite h.setF (.ite h ?_)
  split
  · exact h.abandonAccess
  · split
    · exact h.abandonWrite
    · next e' =>
      refine .startCast (.writeBatch ?_ e')
      exact h

theorem execDraftPass_canonical {m} (h : MemoryCanonical s) : NextCanonical (execDraftPass m s) := by
  unfold execDraftPass
  refine .next ?_
  split
  · exact h
  · refine .ite h ?_
    split
    · exact h.beginDraft
    · refine .ite h ?_
      split
      · next e => exact .of_fst e h.askSorter
      · next e =>
        have ht := MemoryCanonical.of_fst e h.askSorter
        split
        · next e' => exact (MemoryCanonical.of_fst e' ht.propose).abandonStep
        · next e' =>
          have hu := MemoryCanonical.of_fst e' ht.propose
          exact .ite hu.setServeRun.setF hu.setServeRun

theorem MemoryCanonical.beginTarget {m x} (h : MemoryCanonical s) : MemoryCanonical (s.beginTarget m x) := by
  unfold State.beginTarget
  refine .ite h ?_
  split
  · exact h.setServeRun.abandonWrite
  · next e =>
    refine .startCast (.writeTarget ?_ e)
    exact h

theorem execSamplerPass_canonical {m} (h : MemoryCanonical s) : NextCanonical (execSamplerPass m s) := by
  unfold execSamplerPass
  refine .next ?_
  split
  · exact h
  · refine .ite h (.ite h.beginTarget ?_)
    split
    · exact h
    · refine .ite h ?_
      split
      · next e => exact .of_fst e h.askSorter
      · next e =>
        have ht := MemoryCanonical.of_fst e h.askSorter
        split
        · next e' => exact (MemoryCanonical.of_fst e' ht.sampleItems).abandonStep
        · next e' => exact (MemoryCanonical.of_fst e' ht.sampleItems).setServeRun.setF

/-! ### The commit point (R399 to R401, R406, R408) -/

theorem MemoryCanonical.markDeadlines {m} (h : MemoryCanonical s) : MemoryCanonical (s.markDeadlines m) :=
  h.foldl fun _ _ ht => .ite ht.setReq.count ht

theorem MemoryCanonical.countTokens {i ids cmd} (h : MemoryCanonical s) : MemoryCanonical (s.countTokens i ids cmd) := by
  unfold State.countTokens
  refine .ite h ?_
  split
  · exact h.accFault
  · dsimp only
    split
    · next e' =>
      refine .serveWrite ?_ e'
      exact .ite h.setReq h
    · exact .accFault (.ite h.setReq h)
    · exact .ite h.setReq h

theorem MemoryCanonical.writeTokens {i acc st hit j pos ts} (h : MemoryCanonical s) :
    MemoryCanonical (s.writeTokens i acc st hit j pos ts) := by
  induction ts generalizing s j pos with
  | nil => exact h
  | cons x ts ih => exact ih h.outRecord

theorem MemoryCanonical.remember {i new} (h : MemoryCanonical s) : MemoryCanonical (s.remember i new) := h

theorem MemoryCanonical.commitRows {x drafted cmd} (h : MemoryCanonical s) : MemoryCanonical (s.commitRows x drafted cmd) :=
  h.setReq.remember.countTokens

theorem MemoryCanonical.commitTokens {x cmd} (h : MemoryCanonical s) : MemoryCanonical (s.commitTokens x cmd).1 := by
  unfold State.commitTokens
  extract_lets i e decode old base r n entered e₁ e₂ e₃ e₄ e₅ e₆ s₁ s₂ s₃ st s₄
  have h₂ : MemoryCanonical s₂ := h.setReq.remember.countTokens
  have h₃ : MemoryCanonical s₃ := .ite h₂.countWrap.countWrap h₂
  have h₄ : MemoryCanonical s₄ := h₃.writeTokens
  exact .ite h₄.endRequest h₄

theorem MemoryCanonical.commitItem {drafted cmd x} (h : MemoryCanonical s) : MemoryCanonical (s.commitItem drafted cmd x) := by
  unfold State.commitItem
  refine .ite h ?_
  extract_lets i e s₁ e₁ s₂ s₃ s₄ r
  have h₂ : MemoryCanonical s₂ := h.reserveOut.setReq
  have h₃ : MemoryCanonical s₃ := .ite h₂ h₂.commitRows
  have hr : MemoryCanonical r.1 := .iteFst h₃.setReq h₃.setReq.commitTokens
  split
  · exact h₂.decideEnd
  · exact .ite h₂.decideEnd (.ite hr hr.decideEnd)

theorem MemoryCanonical.raiseRings {old} (h : MemoryCanonical s) : MemoryCanonical (s.raiseRings old) :=
  h.foldl fun _ _ ht => .ite ht.raise ht

theorem MemoryCanonical.promoteEntry {i cmd} (h : MemoryCanonical s) : MemoryCanonical (s.promoteEntry i cmd) := by
  unfold State.promoteEntry
  dsimp only
  split
  · exact h.setReq.countTokens
  · refine .ite h.setReq ?_
    split
    · exact h.setReq
    · exact h.setReq

theorem MemoryCanonical.promoteNow {m cmd} (h : MemoryCanonical s) : MemoryCanonical (s.promoteNow m cmd) :=
  .ite h (.ite (h.foldl fun _ _ ht => ht.promoteEntry) (h.foldl fun _ _ ht => ht.promoteEntry))

theorem MemoryCanonical.decideRest {m items} (h : MemoryCanonical s) : MemoryCanonical (s.decideRest m items) :=
  h.foldl fun _ _ ht => .ite ht.decideEnd ht

theorem MemoryCanonical.nextStep {m x} (h : MemoryCanonical s) : MemoryCanonical (s.nextStep m x) := .ite h.endServe h.setServeRun.setF

theorem MemoryCanonical.commitStep {m x} (h : MemoryCanonical s) : MemoryCanonical (s.commitStep m x) :=
  .nextStep (.promoteNow (.countWrap (.raiseRings (.decideRest (h.markDeadlines.foldl fun _ _ ht => ht.commitItem)))))

theorem MemoryCanonical.settleCommit {m} (h : MemoryCanonical s) : MemoryCanonical (s.settleCommit m) := by
  unfold State.settleCommit
  split
  · exact .ite h.commitStep h
  · exact h

theorem MemoryCanonical.settleCommits (h : MemoryCanonical s) : MemoryCanonical s.settleCommits := h.foldl fun _ _ ht => ht.settleCommit

theorem execCommitPoint_canonical {m} (h : MemoryCanonical s) : NextCanonical (execCommitPoint m s) := by
  unfold execCommitPoint
  refine .next ?_
  split
  · exact h
  · exact .ite (.ite h.markDeadlines.decideRest.promoteNow h) (.ite h.setServeRun h)

/-! ### The feed of a follower (R403, R404) -/

theorem MemoryCanonical.feedDrop {m} (h : MemoryCanonical s) : MemoryCanonical (s.feedDrop m) := h.count

theorem MemoryCanonical.feedSkip {fuel m n} (h : MemoryCanonical s) : MemoryCanonical (State.feedSkip fuel s m n).1 := by
  induction fuel generalizing s n with
  | zero => exact h
  | succ fuel ih =>
    rw [State.feedSkip]
    exact .iteFst (ih h.feedDrop) h

theorem MemoryCanonical.takeFeed {m w0 w1} (h : MemoryCanonical s) : MemoryCanonical (s.takeFeed m w0 w1) :=
  .ite h.feedDrop (.ite (.ite h.setReq.setReq h.setReq.setReq.decideEnd) h.setReq)

theorem execFeedRecord_canonical {m} (h : MemoryCanonical s) : NextCanonical (execFeedRecord m s) := by
  unfold execFeedRecord
  refine .next ?_
  split
  · exact h
  · exact .ite h.takeFeed (.ite h.feedSkip h)

/-! ### Pendant promotion (R542) -/

theorem MemoryCanonical.startPromotion {trigger chip} (h : MemoryCanonical s) : MemoryCanonical (s.startPromotion trigger chip) :=
  .foldl h fun _ _ ht => ht.promoteBinding

/-! ## The collective engine (R474 to R485) -/

/-! ### Entries (R479) -/

theorem MemoryCanonical.setColl {i x} (h : MemoryCanonical s) : MemoryCanonical (s.setColl i x) := h

theorem MemoryCanonical.refreshColl (h : MemoryCanonical s) : MemoryCanonical s.refreshColl := h.setF

theorem MemoryCanonical.dropColl {i} (h : MemoryCanonical s) : MemoryCanonical (s.dropColl i) := .refreshColl h

/-! ### Messages (R442, R478) -/

theorem MemoryCanonical.collSend {x j p} (h : MemoryCanonical s) : MemoryCanonical (s.collSend x j p).1 := h.sendPlainRoute

theorem MemoryCanonical.collAnswer {g gid seq j code} (h : MemoryCanonical s) : MemoryCanonical (s.collAnswer g gid seq j code) :=
  h.sendPlainRoute

/-! ### Ends -/

theorem MemoryCanonical.cutBranches {x} (h : MemoryCanonical s) : MemoryCanonical (s.cutBranches x) :=
  .ite (h.foldl fun _ _ ht => ht.collAnswer) h

theorem MemoryCanonical.failColl {i x st detail} (h : MemoryCanonical s) : MemoryCanonical (s.failColl i x st detail) := by
  unfold State.failColl
  split
  · exact h.setColl
  · exact .finishFlight (.dropColl (.ite h.count h))

theorem MemoryCanonical.unpredictable {k index src dst bs} (h : MemoryCanonical s) :
    MemoryCanonical (s.unpredictable k index src dst bs).1 :=
  .iteFst h h.drawn

theorem MemoryCanonical.writeMarked {n va b t} (h : MemoryCanonical s) (e : s.writeMarked n va b = .ok t) : MemoryCanonical t := by
  unfold State.writeMarked at e
  split at e
  · cases e
  · next e₁ =>
    refine .foldlOk (fun a x u ha e₂ => ?_) (fun v hv => ?_) e
    · dsimp only at e₂
      split at e₂
      · cases e₂
      · split at e₂
        · exact (ha _ rfl).serveWrite e₂
        · cases e₂
          exact ha _ rfl
    · cases hv
      exact h.serveWrite e₁

theorem MemoryCanonical.collAccess {i x err word} (h : MemoryCanonical s) : MemoryCanonical (s.collAccess i x err word) := by
  unfold State.collAccess
  split
  · exact h.failColl
  · exact h.accFault.failColl

/-! ### Progress -/

theorem MemoryCanonical.collNan {x es} (h : MemoryCanonical s) : MemoryCanonical (s.collNan x es).1 := by
  unfold State.collNan
  split
  · exact h.nanRecord
  · split
    · dsimp only
      split
      · exact h.engineNan
      · exact h.engineNan
    · dsimp only
      split
      · exact h.engineNan
      · exact h.engineNan

theorem MemoryCanonical.collWrite {i x bs} (h : MemoryCanonical s) : MemoryCanonical (s.collWrite i x bs) := by
  unfold State.collWrite
  split
  · exact h
  · dsimp only
    split
    · exact h.unpredictable.collAccess
    · next e' =>
      refine .setColl (.writeMarked ?_ e')
      exact h.unpredictable

theorem MemoryCanonical.collCombine {i x} (h : MemoryCanonical s) : MemoryCanonical (s.collCombine i x) := by
  unfold State.collCombine
  dsimp only
  split
  · exact h.collNan.collWrite
  · exact h.collNan.collWrite
  · exact h.collWrite
  · exact h.collWrite
  · exact h.setColl

theorem MemoryCanonical.passAdvance {i x steps t} (h : MemoryCanonical s) (e : s.passAdvance i x steps = some t) : MemoryCanonical t := by
  unfold State.passAdvance at e
  split at e
  · cases e
  · split at e
    · cases e
    · dsimp only at e
      split at e <;> cases e
      exact h.collNan.setColl

theorem MemoryCanonical.passPump {i steps fuel} (h : MemoryCanonical s) : MemoryCanonical (State.passPump i steps fuel s) := by
  induction fuel generalizing s with
  | zero => exact h
  | succ fuel ih =>
    unfold State.passPump
    split
    · exact h
    · refine .ite h.collWrite ?_
      split
      · next e => exact ih (h.passAdvance e)
      · exact h

theorem MemoryCanonical.treeAdvance {i x} (h : MemoryCanonical s) : MemoryCanonical (s.treeAdvance i x) := by
  unfold State.treeAdvance
  split
  · refine .ite h.setColl ?_
    split
    · exact h.collAccess
    · next e' =>
      refine .setColl (.writeMarked ?_ e')
      exact h
  · exact h

theorem MemoryCanonical.flowPump {i fuel} (h : MemoryCanonical s) : MemoryCanonical (State.flowPump i fuel s) := by
  induction fuel generalizing s with
  | zero => exact h
  | succ fuel ih =>
    unfold State.flowPump
    split
    · exact h
    · split
      · exact h
      · split
        · exact h
        · split
          · next e => exact ih (MemoryCanonical.of_fst e h.collSend).setColl
          · next e => exact (MemoryCanonical.of_fst e h.collSend).failColl
          · next e => exact (MemoryCanonical.of_fst e h.collSend).failColl

theorem MemoryCanonical.creditPump {i} (h : MemoryCanonical s) : MemoryCanonical (s.creditPump i) := by
  unfold State.creditPump
  split
  · exact h
  · exact .ite h (.setColl (h.foldl fun _ _ ht => ht.foldl fun _ _ hu => hu.collAnswer))

theorem MemoryCanonical.collPump {i} (h : MemoryCanonical s) : MemoryCanonical (s.collPump i) := by
  unfold State.collPump
  split
  · exact h
  · refine .ite h ?_
    split
    · split
      · dsimp only
        split
        · exact h.flowPump.creditPump
        · split
          · exact h.flowPump.creditPump
          · exact .ite h.flowPump.creditPump.dropColl.finishFlight h.flowPump.creditPump
      · dsimp only
        split
        · exact h.treeAdvance.flowPump.creditPump
        · split
          · exact h.treeAdvance.flowPump.creditPump
          · exact .ite h.treeAdvance.flowPump.creditPump.dropColl.finishFlight h.treeAdvance.flowPump.creditPump
    · split
      · split
        · dsimp only
          split
          · exact h.collCombine.flowPump.creditPump
          · split
            · exact h.collCombine.flowPump.creditPump
            · exact .ite h.collCombine.flowPump.creditPump.dropColl.finishFlight h.collCombine.flowPump.creditPump
        · dsimp only
          split
          · exact h.flowPump.creditPump
          · split
            · exact h.flowPump.creditPump
            · exact .ite h.flowPump.creditPump.dropColl.finishFlight h.flowPump.creditPump
      · dsimp only
        split
        · exact h.passPump.flowPump.creditPump
        · split
          · exact h.passPump.flowPump.creditPump
          · exact .ite h.passPump.flowPump.creditPump.dropColl.finishFlight h.passPump.flowPump.creditPump

/-! ### COLLECTIVE (R474, R477) -/

theorem MemoryCanonical.collBegin {i x n r} (h : MemoryCanonical s) : MemoryCanonical (s.collBegin i x n r) := by
  unfold State.collBegin
  dsimp only
  split
  · exact h.collAccess
  · exact h.collAccess
  · exact .collPump (.ite h.setColl.collWrite h.setColl)

theorem MemoryCanonical.runColl {q seq r} (h : MemoryCanonical s) : MemoryCanonical (s.runColl q seq r) := by
  unfold State.runColl
  refine .ite h.setF.finishFlight ?_
  split
  · split
    · exact h.setF.dropColl.finishFlight
    · exact .ite h.setF.setColl.collBegin (.finishFlight (.dropColl (h.setF.foldl fun _ _ ht => ht.collAnswer)))
  · split
    · exact h.setF.count.finishFlight
    · exact h.setF.setColl.refreshColl.setColl.collBegin

theorem specColl_canonical : KeepsCanonical specColl := .of_run (fun h => h.runColl) rfl

theorem execAllReduce_canonical {q} (h : MemoryCanonical s) : NextCanonical (execAllReduce q s) := .next (h.queueCommand specColl_canonical)

theorem execReduceScatter_canonical {q} (h : MemoryCanonical s) : NextCanonical (execReduceScatter q s) :=
  .next (h.queueCommand specColl_canonical)

theorem execAllGather_canonical {q} (h : MemoryCanonical s) : NextCanonical (execAllGather q s) := .next (h.queueCommand specColl_canonical)

theorem execBroadcast_canonical {q} (h : MemoryCanonical s) : NextCanonical (execBroadcast q s) := .next (h.queueCommand specColl_canonical)

theorem execAllToAll_canonical {q} (h : MemoryCanonical s) : NextCanonical (execAllToAll q s) := .next (h.queueCommand specColl_canonical)

theorem execBarrier_canonical {q} (h : MemoryCanonical s) : NextCanonical (execBarrier q s) := .next (h.queueCommand specColl_canonical)

/-! ### Steps and credits (R478, R479, R483) -/

theorem MemoryCanonical.collDisagree {i x src} (h : MemoryCanonical s) : MemoryCanonical (s.collDisagree i x src) := h.collAnswer.failColl

theorem MemoryCanonical.collReceive {g m} (h : MemoryCanonical s) : MemoryCanonical (s.collReceive g m) := by
  unfold State.collReceive
  refine .ite h.count ?_
  split
  · exact .ite h.collDisagree h.setColl.collPump
  · refine .ite h.count ?_
    split
    · exact h.collAnswer
    · exact .ite h.collAnswer h.setColl.refreshColl

theorem execCollStep_canonical {m} (h : MemoryCanonical s) : NextCanonical (execCollStep m s) := by
  unfold execCollStep
  refine .next ?_
  split
  · exact h
  · exact h.collReceive

theorem execCollCredit_canonical {gid seq src code} (h : MemoryCanonical s) : NextCanonical (execCollCredit gid seq src code s) := by
  unfold execCollCredit
  refine .next ?_
  split
  · exact h
  · split
    · exact h.setColl.collPump
    · exact h.failColl
    · exact h.failColl
    · exact h.cutBranches.failColl
    · exact h.failColl

/-! ### Limits and losses (R479, R483, R485) -/

theorem execOrderTimeout_canonical {i} (h : MemoryCanonical s) : NextCanonical (execOrderTimeout i s) := by
  unfold execOrderTimeout
  refine .next ?_
  split
  · exact h
  · exact .ite (.ite h.failColl h.dropColl.count) h

theorem MemoryCanonical.cutBranch {i x j tell} (h : MemoryCanonical s) : MemoryCanonical (s.cutBranch i x j tell) :=
  .collPump (.setColl (.ite h.count.collAnswer h.count))

theorem execLagLimit_canonical {i branch} (h : MemoryCanonical s) : NextCanonical (execLagLimit i branch s) := by
  unfold execLagLimit
  refine .next ?_
  split
  · exact h
  · split
    · exact h
    · split
      · exact h
      · exact .ite h.cutBranch h

theorem MemoryCanonical.collLost {chip} (h : MemoryCanonical s) : MemoryCanonical (s.collLost chip) := by
  unfold State.collLost
  refine h.foldl fun _ _ ht => ?_
  split
  · exact ht
  · split
    · exact ht
    · exact .ite (.ite ht.cutBranches.failColl (.ite ht.cutBranch ht)) ht.failColl

end Sys2Proof.Machine

end

section
/-! Memory in canonical form, continued: the Armature cores (R283 to R288) and what follows. -/

namespace Sys2Proof.Machine

open Sys2Proof.Laws

variable {s : State}

/-! ## The Armature cores (R283 to R288) -/

/-! ### Cores and runs (R53, R283, R288) -/

theorem MemoryCanonical.setCore {c x} (h : MemoryCanonical s) : MemoryCanonical (s.setCore c x) := h

theorem MemoryCanonical.resetCore {c} (h : MemoryCanonical s) : MemoryCanonical (s.resetCore c) := .forgetRequests h

theorem MemoryCanonical.endCores {q seq st result detail} (h : MemoryCanonical s) : MemoryCanonical (s.endCores q seq st result detail) :=
  .finishFlight (h.foldl fun _ _ ht => ht.resetCore)

theorem MemoryCanonical.coreEnds {c code st detail} (h : MemoryCanonical s) : MemoryCanonical (s.coreEnds c code st detail) := by
  unfold State.coreEnds
  split
  · exact h
  · exact .ite h h.setCore

theorem MemoryCanonical.endTrapped {q seq} (h : MemoryCanonical s) : MemoryCanonical (s.endTrapped q seq) := by
  unfold State.endTrapped
  split
  · exact h
  · exact .ite h.endCores h.endCores

theorem MemoryCanonical.settleTraps (h : MemoryCanonical s) : MemoryCanonical s.settleTraps := h.foldl fun _ _ ht => ht.endTrapped

theorem MemoryCanonical.corePoisoned {c} (h : MemoryCanonical s) : MemoryCanonical (s.corePoisoned c) := by
  unfold State.corePoisoned
  split
  · exact h
  · exact h.fault.coreEnds

theorem MemoryCanonical.coreFenceDenied {c} (h : MemoryCanonical s) : MemoryCanonical (s.coreFenceDenied c) := h.drawn.coreEnds

theorem MemoryCanonical.coresSettle {q seq} (h : MemoryCanonical s) : MemoryCanonical (s.coresSettle q seq) := .ite h h.endCores

/-! ### Translation and caches (R284, R465) -/

theorem MemoryCanonical.writeBack {c line l} (h : MemoryCanonical s) : MemoryCanonical (s.writeBack c line l).1 := by
  unfold State.writeBack
  split
  · dsimp only
    split
    · exact .iteFst h.store.countLines.issuePlain h.store.countLines
    · exact h.issueRemote
    · exact h
  · dsimp only
    split
    · exact .iteFst h.store.countLines.issuePlain h.store.countLines
    · exact h.issueRemote
    · exact h

theorem MemoryCanonical.evictLine {c code keep} (h : MemoryCanonical s) : MemoryCanonical (s.evictLine c code keep).1 := by
  unfold State.evictLine
  split
  · exact h
  · refine .iteFst (.iteFst h ?_) (.iteFst h ?_)
    · split
      · exact h.drawn
      · exact h.drawn.setCore
    · split
      · exact h.drawn
      · exact .iteFst h.drawn.setCore.writeBack h.drawn.setCore

theorem MemoryCanonical.fillLine {c line code bs mark} (h : MemoryCanonical s) : MemoryCanonical (s.fillLine c line code bs mark) := by
  unfold State.fillLine
  split
  · exact h
  · exact .ite h.setCore h.setCore

theorem MemoryCanonical.coreLines {c code wr vas t} (h : MemoryCanonical s) (e : s.coreLines c code wr vas = .error t) :
    MemoryCanonical t := by
  induction vas with
  | nil => cases e
  | cons va vas ih =>
    unfold State.coreLines at e
    split at e
    · cases e
      exact h
    · split at e
      · cases e
        exact h.xlateFault.coreEnds
      · cases e
        exact h.corePoisoned
      · split at e
        · cases e
          exact h.coreEnds
        · cases e
          exact h.coreEnds
        · split at e <;> cases e
          next e' => exact ih e'

theorem MemoryCanonical.coreFill {c code keep ls} (h : MemoryCanonical s) : MemoryCanonical (s.coreFill c code keep ls).1 := by
  induction ls generalizing s with
  | nil => exact h
  | cons l ls ih =>
    unfold State.coreFill
    split
    · exact h
    · refine .iteFst (ih h) ?_
      extract_lets r t g
      have ht : MemoryCanonical t := h.evictLine
      split
      · exact ht.coreEnds
      · split
        · refine .iteFst ?_ (ih ht.countLines.fillLine)
          dsimp only
          split
          · exact ht.issuePlain.setCore
          · exact ht.issuePlain
        · dsimp only
          split
          · exact ht.issueRemote.coreEnds
          · exact ht.issueRemote.setCore
          · exact ht.issueRemote
        · exact ht

theorem MemoryCanonical.coreAccess {c code wr vas} (h : MemoryCanonical s) : MemoryCanonical (s.coreAccess c code wr vas).1 := by
  unfold State.coreAccess
  split
  · next e =>
    refine .coreLines ?_ e
    exact h
  · exact h.coreFill

theorem MemoryCanonical.coreRead {c code va n} {k : State → List Byte → State} (h : MemoryCanonical s)
    (hk : ∀ t bs, MemoryCanonical t → MemoryCanonical (k t bs)) : MemoryCanonical (s.coreRead c code va n k) := by
  unfold State.coreRead
  dsimp only
  split
  · exact .ite h.coreAccess.corePoisoned (hk _ _ h.coreAccess)
  · exact h.coreAccess

theorem MemoryCanonical.coreWrite {c va bs} {k : State → State} (h : MemoryCanonical s)
    (hk : ∀ t, MemoryCanonical t → MemoryCanonical (k t)) : MemoryCanonical (s.coreWrite c va bs k) := by
  unfold State.coreWrite
  dsimp only
  split
  · exact hk _ h.coreAccess.setCore.noteRange
  · exact h.coreAccess

/-! ### One instruction -/

theorem MemoryCanonical.coreExit {c v} (h : MemoryCanonical s) : MemoryCanonical (s.coreExit c v) := by
  unfold State.coreExit
  split
  · exact h
  · dsimp only
    split
    · refine .coreEnds (.foldlFst h.setCore fun _ _ ht => ?_)
      split
      · exact ht
      · exact .iteFst ht.drawn.writeBack ht.drawn
    · refine .coresSettle (.foldlFst h.setCore fun _ _ ht => ?_)
      split
      · exact ht
      · exact .iteFst ht.drawn.writeBack ht.drawn

theorem MemoryCanonical.coreCycles {c} (h : MemoryCanonical s) : MemoryCanonical (s.coreCycles c) := by
  unfold State.coreCycles
  split
  · exact h
  · exact h.drawn.setCore

theorem MemoryCanonical.coreStep {c len ok} {k : State → CoreSt → State} (h : MemoryCanonical s)
    (hk : ∀ t x, MemoryCanonical t → MemoryCanonical (k t x)) : MemoryCanonical (s.coreStep c len ok k) := by
  unfold State.coreStep
  split
  · exact h
  · refine .ite h (.ite h.coreExit (.ite h.coreEnds (h.coreRead fun t bs ht => .ite (.ite ht.coreEnds h) ?_)))
    dsimp only
    split
    · exact hk _ _ ht.coreCycles
    · exact ht.coreCycles

theorem MemoryCanonical.coreNext {c len rd v} (h : MemoryCanonical s) : MemoryCanonical (s.coreNext c len rd v) := by
  unfold State.coreNext
  split
  · exact h
  · exact h.setCore

/-! ### CORE_RUN -/

theorem MemoryCanonical.runCoreRun {q seq r} (h : MemoryCanonical s) : MemoryCanonical (s.runCoreRun q seq r) :=
  .ite h.finishFlight (h.foldl fun _ _ ht => ht.setCore)

theorem specCoreRun_canonical : KeepsCanonical specCoreRun := .of_run (fun h => h.runCoreRun) rfl

theorem execCoreRun_canonical {q} (h : MemoryCanonical s) : NextCanonical (execCoreRun q s) := .next (h.queueCommand specCoreRun_canonical)

theorem execCoreRunTimeout_canonical {q seq} (h : MemoryCanonical s) : NextCanonical (execCoreRunTimeout q seq s) := by
  unfold execCoreRunTimeout
  refine .next ?_
  split
  · exact .ite h.endCores h
  · exact h

/-! ### Mboval-C (R285 to R287) -/

theorem MemoryCanonical.fzStep {c f7 f3 rd rs1 rs2} {k : State → CoreSt → State} (h : MemoryCanonical s)
    (hk : ∀ t x, MemoryCanonical t → MemoryCanonical (k t x)) : MemoryCanonical (s.fzStep c f7 f3 rd rs1 rs2 k) :=
  h.coreStep hk

theorem execFzFread_canonical {c rd rs1} (h : MemoryCanonical s) : NextCanonical (execFzFread c rd rs1 s) :=
  .next (h.fzStep (fun _ _ ht => .ite ht.coreNext ht.coreFenceDenied))

theorem MemoryCanonical.fwaitReturn {c x f rd} (h : MemoryCanonical s) : MemoryCanonical (s.fwaitReturn c x f rd) := h.setCore.coreNext

theorem execFzFwait_canonical {c rd rs1 rs2} (h : MemoryCanonical s) : NextCanonical (execFzFwait c rd rs1 rs2 s) :=
  .next (h.fzStep (fun _ _ ht => .ite ht.coreFenceDenied (.ite ht.fwaitReturn ht.setCore)))

theorem execFzFwaitReturn_canonical {c} (h : MemoryCanonical s) : NextCanonical (execFzFwaitReturn c s) := by
  unfold execFzFwaitReturn
  refine .next ?_
  split
  · split
    · exact .ite h.fwaitReturn h
    · exact h
  · exact h

theorem MemoryCanonical.flushDone {c} (h : MemoryCanonical s) : MemoryCanonical (s.flushDone c) := by
  unfold State.flushDone
  split
  · exact h
  · split
    · exact .ite h.setCore.signal.coreNext h
    · exact h

theorem MemoryCanonical.coreSignal {c x f v add} (h : MemoryCanonical s) : MemoryCanonical (s.coreSignal c x f v add) := by
  unfold State.coreSignal
  dsimp only
  split
  · refine .coreEnds (.foldlFst h.setCore fun _ _ ht => ?_)
    split
    · exact ht
    · exact ht.writeBack
  · refine .flushDone (.foldlFst h.setCore fun _ _ ht => ?_)
    split
    · exact ht
    · exact ht.writeBack

theorem execFzFsig_canonical {c rs1 rs2} (h : MemoryCanonical s) : NextCanonical (execFzFsig c rs1 rs2 s) :=
  .next (h.fzStep (fun _ _ ht => .ite ht.coreSignal ht.coreFenceDenied))

theorem execFzFadd_canonical {c rs1 rs2} (h : MemoryCanonical s) : NextCanonical (execFzFadd c rs1 rs2 s) :=
  .next (h.fzStep (fun _ _ ht => .ite ht.coreSignal ht.coreFenceDenied))

theorem MemoryCanonical.coreSeal {q seq body} (h : MemoryCanonical s) : MemoryCanonical (s.coreSeal q seq body).1 := by
  unfold State.coreSeal
  extract_lets j t w
  have ht : MemoryCanonical t := h.windowWords
  clear_value t
  exact .iteFst h.reject ht.sealSlot

theorem execFzSeal_canonical {c rd rs1 rs2} (h : MemoryCanonical s) : NextCanonical (execFzSeal c rd rs1 rs2 s) :=
  .next (h.fzStep (fun _ _ ht => .ite ht.coreEnds (.ite ht.coreNext (ht.coreRead (fun _ _ hu => hu.coreSeal.coreNext)))))

theorem execFzXlate_canonical {c rd rs1} (h : MemoryCanonical s) : NextCanonical (execFzXlate c rd rs1 s) := by
  unfold execFzXlate
  refine .next (h.fzStep (fun _ _ ht => ?_))
  split
  · exact ht.coreNext
  · exact ht.coreNext
  · exact ht.corePoisoned

theorem execFzExit_canonical {c rs1} (h : MemoryCanonical s) : NextCanonical (execFzExit c rs1 s) :=
  .next (h.fzStep (fun _ _ ht => ht.coreExit))

theorem execFzPack_canonical {c rd rs1 rs2} (h : MemoryCanonical s) : NextCanonical (execFzPack c rd rs1 rs2 s) :=
  .next (h.fzStep (fun _ _ ht => .ite ht.coreEnds (ht.coreRead (fun _ _ hu => hu.coreWrite (fun _ hv => hv.coreNext)))))

theorem execFzUnpack_canonical {c rd rs1 rs2} (h : MemoryCanonical s) : NextCanonical (execFzUnpack c rd rs1 rs2 s) :=
  .next (h.fzStep (fun _ _ ht => .ite ht.coreEnds (ht.coreRead (fun _ _ hu => hu.coreWrite (fun _ hv => hv.coreNext)))))

/-! ### Ordinary instructions (R283, R284) -/

theorem MemoryCanonical.breakReservations {g} (h : MemoryCanonical s) : MemoryCanonical (s.breakReservations g) := h

theorem MemoryCanonical.atomicAt {c va n wr} {k : State → Place → Nat → Bool → State} (h : MemoryCanonical s)
    (hk : ∀ t p g m, MemoryCanonical t → MemoryCanonical (k t p g m)) : MemoryCanonical (s.atomicAt c va n wr k) := by
  unfold State.atomicAt
  split
  · exact h
  · refine .ite h.coreEnds ?_
    split
    · next e => exact h.coreLines e
    · split
      · extract_lets line t r
        have hr : MemoryCanonical r.1 := by
          simp only [r]
          split
          · exact h
          · exact .iteFst h.setCore.writeBack h.setCore
        split
        · exact hr.coreEnds
        · exact hk _ _ _ _ hr
      · exact h

theorem MemoryCanonical.coreAmo {c op wide rd rs2 rs1} (h : MemoryCanonical s) : MemoryCanonical (s.coreAmo c op wide rd rs2 rs1) := by
  unfold State.coreAmo
  split
  · exact h
  · refine h.atomicAt (fun _ _ _ _ ht => ?_)
    split
    · split
      · dsimp only
        split
        · exact ht.issueRemote.coreEnds
        · exact ht.issueRemote.setCore
        · exact ht.issueRemote
      · dsimp only
        split
        · exact ht.issueRemote.coreEnds
        · exact ht.issueRemote.setCore
        · exact ht.issueRemote
    · exact .ite (ht.coreRead (fun _ _ hu => hu.coreWrite (fun _ hv => hv.coreNext)))
        (.ite ht.corePoisoned ht.store.noteRange.countLines.countLines.breakReservations.coreNext)
    · exact ht

theorem MemoryCanonical.coreLr {c wide rd rs1} (h : MemoryCanonical s) : MemoryCanonical (s.coreLr c wide rd rs1) := by
  unfold State.coreLr
  split
  · exact h
  · refine h.atomicAt (fun _ _ _ _ ht => ?_)
    split
    · exact ht.coreEnds
    · refine .ite ht.corePoisoned ?_
      split
      · split
        · exact ht.countLines.setCore.coreNext
        · exact ht
      · split
        · exact ht.countLines.setCore.coreNext
        · exact ht
    · exact ht

theorem MemoryCanonical.coreSc {c wide rd rs2 rs1} (h : MemoryCanonical s) : MemoryCanonical (s.coreSc c wide rd rs2 rs1) := by
  unfold State.coreSc
  split
  · exact h
  · refine h.atomicAt (fun _ _ _ _ ht => ?_)
    split
    · exact ht.coreEnds
    · split
      · exact ht
      · exact .ite (.coreNext (.breakReservations (.ite ht.setCore ht.setCore.store.countLines.noteRange))) ht.setCore.coreNext
    · exact ht

theorem MemoryCanonical.coreCsr {c x n op rd v} (h : MemoryCanonical s) : MemoryCanonical (s.coreCsr c x n op rd v) := by
  unfold State.coreCsr
  split
  · exact h.coreEnds
  · exact .ite (.coreNext (.ite h.drawn h)) (.ite (.coreEnds (.ite h.drawn h)) (.coreNext (.setCore (.ite h.drawn h))))

theorem MemoryCanonical.vecLoad {c len w es} (h : MemoryCanonical s) : MemoryCanonical (s.vecLoad c len w es) := by
  induction es generalizing s with
  | nil => exact h.coreNext
  | cons e es ih =>
    unfold State.vecLoad
    dsimp only
    split
    · exact .ite h.coreAccess.corePoisoned (ih h.coreAccess.setCore)
    · exact h.coreAccess

theorem MemoryCanonical.vecStore {c len w es} (h : MemoryCanonical s) : MemoryCanonical (s.vecStore c len w es) := by
  induction es generalizing s with
  | nil => exact h.coreNext
  | cons e es ih =>
    unfold State.vecStore
    dsimp only
    split
    · exact ih h.coreAccess.setCore.noteRange
    · exact h.coreAccess

theorem MemoryCanonical.coreFailed {c} (h : MemoryCanonical s) : MemoryCanonical (s.coreFailed c) := .ite h.fault h.fault.coreEnds

theorem MemoryCanonical.coreDo {c x act} (h : MemoryCanonical s) : MemoryCanonical (s.coreDo c x act) := by
  unfold State.coreDo
  split
  · exact h.setCore.coreNext
  · exact h.setCore.coreNext
  · exact h.setCore.coreNext
  · exact h.setCore.coreNext
  · exact h.setCore
  · exact h.coreRead (fun _ _ ht => ht.coreNext)
  · refine h.coreRead (fun _ _ ht => ?_)
    split
    · exact ht.setCore.coreNext
    · exact ht
  · exact h.coreWrite (fun _ ht => ht.coreNext)
  · exact h.coreWrite (fun _ ht => ht.coreNext)
  · exact h.vecLoad
  · exact h.vecStore
  · exact h.coreAmo
  · exact h.coreLr
  · exact h.coreSc
  · exact h.coreCsr
  · exact h.coreNext
  · exact h.setCore.coreNext
  · exact h.coreFailed

theorem execCoreInstruction_canonical {c act} (h : MemoryCanonical s) : NextCanonical (execCoreInstruction c act s) :=
  .next (.ite h.coreFailed (h.coreStep (fun _ _ ht => ht.coreDo)))

theorem execCoreTrap_canonical {c cause} (h : MemoryCanonical s) : NextCanonical (execCoreTrap c cause s) := by
  unfold execCoreTrap
  refine .next ?_
  split
  · exact .ite h.coreEnds h
  · exact h

/-! ### Responses (R465, R469, R447) -/

theorem MemoryCanonical.coreLineArrived {c bs mark} (h : MemoryCanonical s) : MemoryCanonical (s.coreLineArrived c bs mark) := by
  unfold State.coreLineArrived
  split
  · exact h
  · split
    · exact h.setCore.fillLine
    · exact h

theorem MemoryCanonical.coreAtomicArrived {c old} (h : MemoryCanonical s) : MemoryCanonical (s.coreAtomicArrived c old) := by
  unfold State.coreAtomicArrived
  split
  · exact h
  · split
    · exact h.setCore.coreNext
    · exact h

theorem MemoryCanonical.coreAcked {c} (h : MemoryCanonical s) : MemoryCanonical (s.coreAcked c) := by
  unfold State.coreAcked
  split
  · exact h
  · exact h.flushDone.coresSettle

theorem MemoryCanonical.coreRequestFailed {c st} (h : MemoryCanonical s) : MemoryCanonical (s.coreRequestFailed c st) := by
  unfold State.coreRequestFailed
  split
  · exact h
  · exact h.endCores

theorem MemoryCanonical.coreWritePoisoned {c} (h : MemoryCanonical s) : MemoryCanonical (s.coreWritePoisoned c) := by
  unfold State.coreWritePoisoned
  split
  · exact h
  · exact h.setCore.coreAcked

/-! ## The Meander ring engine (R316 to R345) -/

/-! ### Lanes and their rings (R322, R323, R328) -/

theorem MemoryCanonical.setRingPtr {n r p} (h : MemoryCanonical s) : MemoryCanonical (s.setRingPtr n r p) := h.setRing

/-! ### How a run ends (R324, R336 to R340) -/

theorem MemoryCanonical.endRing {g x st detail} (h : MemoryCanonical s) : MemoryCanonical (s.endRing g x st detail) := by
  unfold State.endRing
  refine h.closeRing.foldl fun _ _ ht => ?_
  split
  · dsimp only
    split
    · exact .ite ht.endPaused.stopCast ht.endPaused
    · exact ht.endPaused
  · dsimp only
    split
    · exact .ite ht.stopCast ht
    · exact ht

theorem MemoryCanonical.ringLocal {g x st detail} (h : MemoryCanonical s) : MemoryCanonical (s.ringLocal g x st detail) :=
  h.ringCause.ringNotices.endRing

theorem MemoryCanonical.ringAccess {g x i word} (h : MemoryCanonical s) : MemoryCanonical (s.ringAccess g x i word) := h.accFault.ringLocal

theorem MemoryCanonical.setRingRun {g x} (h : MemoryCanonical s) : MemoryCanonical (s.setRingRun g x) := h

/-! ### Setup (R325) -/

theorem MemoryCanonical.takeSetup {g m} (h : MemoryCanonical s) : MemoryCanonical (s.takeSetup g m) := by
  unfold State.takeSetup
  refine .ite h ?_
  split
  · exact h
  · exact .ite h (.ite h.endRing (.ite h.setRingRun.setF h.setRingRun))

theorem MemoryCanonical.takeHeldSetups {g} (h : MemoryCanonical s) : MemoryCanonical (s.takeHeldSetups g) :=
  .foldl h fun _ _ ht => ht.takeSetup

theorem MemoryCanonical.beginRing {g x} (h : MemoryCanonical s) : MemoryCanonical (s.beginRing g x) := by
  unfold State.beginRing
  dsimp only
  split
  · exact h.setR.setR.setF.setF.ringCause.setRingRun.ringAccess
  · next e =>
    refine .takeHeldSetups (.ringSend (.ringSend (.writeVirt ?_ e)))
    exact h.setR.setR.setF.setF.ringCause.setRingRun

theorem MemoryCanonical.runRing {q seq r} (h : MemoryCanonical s) : MemoryCanonical (s.runRing q seq r) := by
  unfold State.runRing
  dsimp only
  split
  · exact .ite h.finishFlight h.beginRing
  · exact h.finishFlight
  · exact h.finishFlight

theorem specRingRun_canonical : KeepsCanonical specRingRun := .of_run (fun h => h.runRing) rfl

theorem execRingRun_canonical {q} (h : MemoryCanonical s) : NextCanonical (execRingRun q s) := .next (h.queueCommand specRingRun_canonical)

/-! ### Circulation (R326 to R329) -/

theorem MemoryCanonical.putBlock {l bs mark} (h : MemoryCanonical s) : MemoryCanonical (s.putBlock l bs mark) :=
  h.store.countLines.setRingPtr

theorem MemoryCanonical.sendBlock {g i b bs mark} (h : MemoryCanonical s) : MemoryCanonical (s.sendBlock g i b bs mark) :=
  h.foldl fun _ _ ht => ht.ringSend

theorem MemoryCanonical.laneMove {g x i t l} (h : MemoryCanonical s) (e : s.laneMove g x i = some (.ok (t, l))) : MemoryCanonical t := by
  unfold State.laneMove at e
  split at e
  · cases e
  · dsimp only at e
    split at e
    · split at e
      · cases e
        exact h.setRingPtr
      · split at e <;> cases e
        exact h.setRingPtr.countLines.sendBlock
    · split at e
      · split at e
        · cases e
        · split at e
          · cases e
          · split at e <;> cases e
            exact h.putBlock
      · split at e <;> cases e
        exact h.ringSend

theorem MemoryCanonical.lanePump {g i fuel} (h : MemoryCanonical s) : MemoryCanonical (State.lanePump g i fuel s) := by
  induction fuel generalizing s with
  | zero => exact h
  | succ fuel ih =>
    unfold State.lanePump
    split
    · exact h
    · split
      · exact h
      · exact h.ringAccess
      · next e => exact ih (h.laneMove e).setRingRun

theorem MemoryCanonical.ringSteps {g fuel} (h : MemoryCanonical s) : MemoryCanonical (State.ringSteps g fuel s) := by
  induction fuel generalizing s with
  | zero => exact h
  | succ fuel ih =>
    unfold State.ringSteps
    split
    · exact h
    · exact .ite (ih (.setRingRun (.ite h.setF.setF h.setF.setF))) h

theorem MemoryCanonical.ringPump {g} (h : MemoryCanonical s) : MemoryCanonical (s.ringPump g) := by
  unfold State.ringPump
  split
  · exact h
  · refine .ite h ?_
    extract_lets s₁ m
    have h₁ : MemoryCanonical s₁ := h.foldl fun _ _ ht => ht.lanePump
    clear_value s₁
    split
    · exact h₁
    · extract_lets s₂ s₃ s₄
      have h₄ : MemoryCanonical s₄ := h₁.setF.setF.ringSteps
      clear_value s₄
      split
      · exact h₄
      · exact .ite h₄.closeRing h₄

theorem MemoryCanonical.takeBlock {g x m} (h : MemoryCanonical s) : MemoryCanonical (s.takeBlock g x m) := by
  unfold State.takeBlock
  split
  · exact h.ringLocal
  · split
    · exact h.ringLocal
    · exact .ite h.ringLocal (.ite h.store.countLines.setRingRun h.store.countLines.store.setRingPtr.ringSend.setRingRun)

theorem execRingBlock_canonical {g m} (h : MemoryCanonical s) : NextCanonical (execRingBlock g m s) := by
  unfold execRingBlock
  refine .next ?_
  split
  · exact h
  · exact .ite h h.takeBlock.ringPump

theorem MemoryCanonical.laneEvent {g lane f} (h : MemoryCanonical s) : MemoryCanonical (s.laneEvent g lane f) := by
  unfold State.laneEvent
  split
  · exact h
  · split
    · exact h
    · exact h.setRingRun.ringPump

theorem execRingGrant_canonical {g lane} (h : MemoryCanonical s) : NextCanonical (execRingGrant g lane s) := .next h.laneEvent

theorem execRingAck_canonical {g lane} (h : MemoryCanonical s) : NextCanonical (execRingAck g lane s) := .next h.laneEvent

theorem execRingSetup_canonical {g m} (h : MemoryCanonical s) : NextCanonical (execRingSetup g m s) := .next (.ite h.takeSetup.ringPump h)

/-! ### Step words and the feed (R333, R334) -/

theorem execStepWord_canonical {g index} (h : MemoryCanonical s) : NextCanonical (execStepWord g index s) := by
  unfold execStepWord
  refine .next ?_
  split
  · exact h
  · refine .ite h ?_
    split
    · exact h.ringAccess
    · exact .ite h.setF.ringPump h

theorem MemoryCanonical.feedOne {g x} (h : MemoryCanonical s) : MemoryCanonical (s.feedOne g x) := by
  unfold State.feedOne
  extract_lets m z pair q k j d start
  have hs : ∀ t y o, start = .ok (t, y, o) → MemoryCanonical t := by
    intro t y o e
    simp only [start] at e
    split at e
    · cases e
      exact h
    · split at e <;> cases e
      exact h.engineNan.drawn
  clear_value start
  refine .ite h ?_
  split
  · exact h.ringAccess
  · exact (hs _ _ _ rfl).ringLocal
  · have ht := hs _ _ _ rfl
    split
    · exact ht.ringAccess
    · exact ht.store.countLines.setRingPtr.setRingRun.ringPump

theorem execRingFeed_canonical {g} (h : MemoryCanonical s) : NextCanonical (execRingFeed g s) := by
  unfold execRingFeed
  refine .next ?_
  split
  · exact h.ringPump
  · exact .ite h.ringPump.feedOne h.ringPump

/-! ### Slow and lost members (R336 to R338) -/

theorem execRingStall_canonical {g} (h : MemoryCanonical s) : NextCanonical (execRingStall g s) := by
  unfold execRingStall
  refine .next ?_
  split
  · exact h.ringPump
  · exact .ite h.ringPump.ringFault.ringCause.ringNotices.endRing h.ringPump

theorem MemoryCanonical.ringNeighbourLost {g succ} (h : MemoryCanonical s) : MemoryCanonical (s.ringNeighbourLost g succ) := by
  unfold State.ringNeighbourLost
  split
  · exact h
  · exact .ite h h.ringFault.ringCause.ringNotice.endRing

theorem MemoryCanonical.ringsLose {lost} (h : MemoryCanonical s) : MemoryCanonical (s.ringsLose lost) :=
  h.foldl fun _ _ ht => .ite ht.ringNeighbourLost (.ite ht.ringNeighbourLost ht)

theorem MemoryCanonical.ringPortLost {p} (h : MemoryCanonical s) : MemoryCanonical (s.ringPortLost p) := h.ringsLose

theorem MemoryCanonical.ringChipLost {chip} (h : MemoryCanonical s) : MemoryCanonical (s.ringChipLost chip) := h.ringsLose

theorem execRingAbort_canonical {g runId cause member fromPred} (h : MemoryCanonical s) :
    NextCanonical (execRingAbort g runId cause member fromPred s) := by
  unfold execRingAbort
  refine .next ?_
  split
  · exact h
  · exact .ite h h.ringNotice.setRingRun

theorem MemoryCanonical.endNoticed {g} (h : MemoryCanonical s) : MemoryCanonical (s.endNoticed g) := by
  unfold State.endNoticed
  split
  · exact h
  · split
    · exact h
    · exact h.ringFault.ringCause.endRing

theorem MemoryCanonical.settleNotices (h : MemoryCanonical s) : MemoryCanonical s.settleNotices := h.foldl fun _ _ ht => ht.endNoticed

/-! ## The Watershed unit (R347 to R368) -/

/-! ### Operands (R347, R350) -/

theorem MemoryCanonical.planErr {n i cmd} (h : MemoryCanonical s) : MemoryCanonical (s.planErr n i cmd).1 := by
  unfold State.planErr
  split
  · exact h
  · exact h.accFault

theorem MemoryCanonical.routeEarly {q r t} (h : MemoryCanonical s) (e : Machine.routeEarly s q r = .ok t) : MemoryCanonical t := by
  unfold Machine.routeEarly at e
  dsimp only at e
  split at e
  · cases e
  · split at e
    · cases e
      exact h
    · split at e <;> cases e
      exact h

/-! ### Choosing experts (R352 to R354) -/

theorem MemoryCanonical.routeEarly_stop {q r t d} (h : MemoryCanonical s) (e : Machine.routeEarly s q r = Except.error (t, d)) :
    MemoryCanonical t := by
  unfold Machine.routeEarly at e
  dsimp only at e
  split at e
  · cases e
    exact h
  · split at e
    · cases e
    · split at e
      · cases e
      · exact .of_fst (Except.error.inj e) h.planErr

/-! ### Sending and receiving: the common parts -/

theorem MemoryCanonical.refreshHeld {g} (h : MemoryCanonical s) : MemoryCanonical (s.refreshHeld g) := h.setF

theorem MemoryCanonical.routeAnswer {g src xid st} (h : MemoryCanonical s) : MemoryCanonical (s.routeAnswer g src xid st) :=
  .ite h h.sendPlainRoute

theorem MemoryCanonical.closeRoute {g st member result detail} (h : MemoryCanonical s) :
    MemoryCanonical (s.closeRoute g st member result detail) := by
  unfold State.closeRoute
  split
  · exact h
  · extract_lets code _ s₁ s₂ _ s₃ s₄ s₅
    have h₁ : MemoryCanonical s₁ := h
    have h₄ : MemoryCanonical s₄ := h₁.forgetRequests.forgetRequests.setRoute.setF.setF
    have h₅ : MemoryCanonical s₅ := .ite h₄.discardPlan (.ite h₄.dropPlan h₄)
    exact h₅.finishFlight.refreshHeld

/-! ### Receiving (R362 to R366, R444) -/

theorem MemoryCanonical.routeRefuse {g src xid} (h : MemoryCanonical s) : MemoryCanonical (s.routeRefuse g src xid) := by
  unfold State.routeRefuse
  dsimp only
  split
  · exact h.routeAnswer.closeRoute
  · exact h.routeAnswer.setRoute

theorem MemoryCanonical.takeRow {g p m} (h : MemoryCanonical s) : MemoryCanonical (s.takeRow g p m) := by
  unfold State.takeRow
  split
  · exact h.routeRefuse
  · exact .ite h.routeRefuse (.routeAnswer (.ite (.ite h.store.setRoute.store h.store.setRoute) h.store.setRoute))

theorem MemoryCanonical.zeroIdle {g p src} (h : MemoryCanonical s) : MemoryCanonical (s.zeroIdle g p src) :=
  h.foldl fun _ _ ht => ht.foldl fun _ _ hu => .ite hu hu.zero.store

theorem MemoryCanonical.takeEnd {g src phase p} (h : MemoryCanonical s) : MemoryCanonical (s.takeEnd g src phase p) :=
  .ite h.setRoute.zeroIdle h.setRoute

theorem MemoryCanonical.routeTake {g m} (h : MemoryCanonical s) : MemoryCanonical (s.routeTake g m) := by
  unfold State.routeTake
  split
  · split
    · exact h.routeRefuse
    · exact h.setRoute.refreshHeld
    · exact h.takeRow
  · split
    · exact h.routeRefuse
    · exact h.setRoute.refreshHeld
    · exact .ite h.takeEnd h.routeRefuse

theorem MemoryCanonical.releaseHeld {g} (h : MemoryCanonical s) : MemoryCanonical (s.releaseHeld g) :=
  .refreshHeld (h.setRoute.foldl fun _ _ ht => ht.routeTake)

/-! ### Sending (R363, R364) -/

theorem MemoryCanonical.sendSegments {g phase n p x fuel i} (h : MemoryCanonical s) :
    MemoryCanonical (s.sendSegments g phase n p x fuel i).1 := by
  induction fuel generalizing s i with
  | zero => exact h
  | succ fuel ih =>
    unfold State.sendSegments
    dsimp only
    split
    · exact h
    · split
      · next e => exact .of_fst e h.issueRemote
      · next e => exact ih (.of_fst e h.issueRemote)

theorem MemoryCanonical.sendRows {g phase n p xs} (h : MemoryCanonical s) : MemoryCanonical (s.sendRows g phase n p xs).1 := by
  induction xs generalizing s with
  | nil => exact h
  | cons x xs ih =>
    unfold State.sendRows
    split
    · next e => exact .of_fst e h.sendSegments
    · next e => exact ih (MemoryCanonical.of_fst e h.sendSegments).setRoute

theorem MemoryCanonical.sendMembers {g phase n p rows ms} (h : MemoryCanonical s) :
    MemoryCanonical (s.sendMembers g phase n p rows ms).1 := by
  induction ms generalizing s with
  | nil => exact h
  | cons m ms ih =>
    unfold State.sendMembers
    split
    · next e => exact .of_fst e h.sendRows
    · next e =>
      have ht := MemoryCanonical.of_fst e h.sendRows
      split
      · next e' => exact .of_fst e' ht.issueRemote
      · next e' => exact ih (.of_fst e' ht.issueRemote)

theorem MemoryCanonical.beginExchange {g phase q seq} (h : MemoryCanonical s) : MemoryCanonical (s.beginExchange g phase q seq) := by
  unfold State.beginExchange
  extract_lets +onlyGivenNames n x
  split
  · exact h.closeRoute
  · exact h.closeRoute
  · refine .ite h.closeRoute ?_
    extract_lets +onlyGivenNames t rows
    have ht : MemoryCanonical t := h.setRoute
    split
    · next e => exact (MemoryCanonical.of_fst e ht.sendMembers).setRoute
    · next e =>
      have hu := MemoryCanonical.of_fst e ht.sendMembers
      split
      · exact hu.closeRoute
      · exact hu.accFault.closeRoute

/-! ### Where the plan lands (R358 to R361) -/

theorem MemoryCanonical.writeArea {n a xs t} (h : MemoryCanonical s) (e : s.writeArea n a xs = .ok t) : MemoryCanonical t := by
  induction xs generalizing s with
  | nil =>
    cases e
    exact h
  | cons x xs ih =>
    unfold State.writeArea at e
    split at e
    · cases e
    · next e' => exact ih (h.serveWrite e') e

theorem MemoryCanonical.zeroReturns {g p} (h : MemoryCanonical s) : MemoryCanonical (s.zeroReturns g p) := by
  unfold State.zeroReturns
  refine h.foldl fun _ _ ht => ht.foldl fun _ _ hu => ?_
  split
  · exact .ite hu hu.zero
  · exact hu.zero

theorem MemoryCanonical.finishPlan {g} (h : MemoryCanonical s) : MemoryCanonical (s.finishPlan g) := by
  unfold State.finishPlan
  dsimp only
  split
  · split
    · exact h.closeRoute
    · exact h.accFault.closeRoute
    · next e' =>
      refine .releaseHeld (.closeRoute (.setRoute (.count (.count (.zeroReturns (.writeArea ?_ e'))))))
      exact h.drawn
  · exact h

theorem MemoryCanonical.planChoices {g n q seq p cs es} (h : MemoryCanonical s) : MemoryCanonical (s.planChoices g n q seq p cs es) := by
  unfold State.planChoices
  split
  · next e => exact (MemoryCanonical.of_fst e h.engineNan).closeRoute
  · next e =>
    have ht := MemoryCanonical.of_fst e h.engineNan
    exact .ite ht.count.setRoute.finishPlan ht

theorem MemoryCanonical.beginPlan {g q seq r} (h : MemoryCanonical s) : MemoryCanonical (s.beginPlan g q seq r) := by
  unfold State.beginPlan
  dsimp only
  split
  · exact .closeRoute (.planErr (.setRoute (.ite h h.setRoute.setF)))
  · refine .ite ?_ ?_
    · split
      · exact .closeRoute (.accFault (.setRoute (.ite h h.setRoute.setF)))
      · exact .planChoices (.setRoute (.ite h h.setRoute.setF))
    · split
      · exact .closeRoute (.accFault (.setRoute (.ite h h.setRoute.setF)))
      · exact .closeRoute (.fault (.setRoute (.ite h h.setRoute.setF)))
      · exact .planChoices (.setRoute (.ite h h.setRoute.setF))

/-! ### The unit (R350, R365) -/

theorem MemoryCanonical.beginRoute {g q seq} (h : MemoryCanonical s) : MemoryCanonical (s.beginRoute g q seq) := by
  unfold State.beginRoute
  split
  · exact h
  · exact .ite (.beginPlan (.setRoute h)) (.beginExchange (.setRoute h))

theorem MemoryCanonical.settleExchange {g} (h : MemoryCanonical s) : MemoryCanonical (s.settleExchange g) := by
  unfold State.settleExchange
  split
  · exact h
  · exact .ite h.setRoute.closeRoute (.releaseHeld (.closeRoute (.ite h.setRoute.setF h.setRoute)))

theorem MemoryCanonical.wsuPump {fuel} (h : MemoryCanonical s) : MemoryCanonical (State.wsuPump fuel s) := by
  induction fuel generalizing s with
  | zero => exact h
  | succ fuel ih =>
    unfold State.wsuPump
    extract_lets t
    have ht : MemoryCanonical t := by
      simp only [t]
      split
      · exact h.settleExchange
      · exact h
    split
    · exact ih (MemoryCanonical.beginRoute ht)
    · exact ht

theorem MemoryCanonical.wsuGo (h : MemoryCanonical s) : MemoryCanonical s.wsuGo := h.wsuPump

theorem MemoryCanonical.runRoute {q seq r} (h : MemoryCanonical s) : MemoryCanonical (s.runRoute q seq r) :=
  .ite h.routeTurnedAway.finishFlight (.wsuGo (.ite h.setF.setRoute h.setF))

theorem specRoute_canonical : KeepsCanonical specRoute :=
  ⟨fun h => h.runRoute, fun h e => h.routeEarly e, fun h e => h.routeEarly_stop e⟩

theorem execPlan_canonical {q} (h : MemoryCanonical s) : NextCanonical (execPlan q s) := .next (h.queueCommand specRoute_canonical)

theorem execDispatch_canonical {q} (h : MemoryCanonical s) : NextCanonical (execDispatch q s) := .next (h.queueCommand specRoute_canonical)

theorem execRouteReturn_canonical {q} (h : MemoryCanonical s) : NextCanonical (execRouteReturn q s) :=
  .next (h.queueCommand specRoute_canonical)

theorem execRouteLimit_canonical {g} (h : MemoryCanonical s) : NextCanonical (execRouteLimit g s) := by
  unfold execRouteLimit
  refine .next ?_
  split
  · split
    · exact .ite h.closeRoute.wsuGo h
    · exact h
  · exact h

theorem MemoryCanonical.routeFail {g st member} (h : MemoryCanonical s) : MemoryCanonical (s.routeFail g st member) := by
  unfold State.routeFail
  split
  · exact h.closeRoute.wsuGo
  · exact h

theorem MemoryCanonical.routeLost {chip} (h : MemoryCanonical s) : MemoryCanonical (s.routeLost chip) := by
  unfold State.routeLost
  refine h.foldl fun _ _ ht => ?_
  split
  · exact ht.routeFail
  · exact ht

theorem MemoryCanonical.routeAcked {g dst st} (h : MemoryCanonical s) : MemoryCanonical (s.routeAcked g dst st) := by
  unfold State.routeAcked
  split
  · exact h.wsuGo
  · exact h.routeFail
  · exact h.routeFail
  · exact h.routeFail
  · exact h.routeFail

theorem execRouteRow_canonical {g m} (h : MemoryCanonical s) : NextCanonical (execRouteRow g m s) := .next (.ite h h.routeTake.wsuGo)

theorem execRouteEnd_canonical {g src phase hdr xid} (h : MemoryCanonical s) : NextCanonical (execRouteEnd g src phase hdr xid s) :=
  .next (.ite h h.routeTake.wsuGo)

/-! ### The sorter (R367, R377) -/

theorem MemoryCanonical.grantSorter {who since} (h : MemoryCanonical s) : MemoryCanonical (s.grantSorter who since) :=
  .ite h.setF.countWrap h.setF

theorem execSorterGrant_canonical {sampler} (h : MemoryCanonical s) : NextCanonical (execSorterGrant sampler s) := by
  unfold execSorterGrant
  refine .next (.ite h ?_)
  split
  · exact .ite h h.grantSorter
  · exact .ite h h.grantSorter
  · exact h

theorem execSortComplete_canonical (h : MemoryCanonical s) : NextCanonical (execSortComplete s) := by
  unfold execSortComplete
  refine .next (.ite ?_ (.ite h h))
  split
  · exact .wsuGo (.finishPlan h)
  · exact h

theorem execWsuSortStatRead_canonical {via} (h : MemoryCanonical s) : NextCanonical (execWsuSortStatRead via s) :=
  .next (.ite h.emit.setF h.emit)

end Sys2Proof.Machine

end

section
/-! Memory in canonical form, continued: remote memory (R461 to R470) and what follows. -/

namespace Sys2Proof.Machine

open Sys2Proof.Laws

variable {s : State}

/-! ## Remote memory (R461 to R470) -/

/-! ### Export windows (R466, R467) -/

theorem MemoryCanonical.notify {w n} (h : MemoryCanonical s) : MemoryCanonical (s.notify w n) := .ite h.signal h

/-! ### Responses that leave (R443, R469, R472) -/

theorem MemoryCanonical.respond {m op status mark data} (h : MemoryCanonical s) : MemoryCanonical (s.respond m op status mark data) :=
  h.sendPlainRoute

theorem MemoryCanonical.screened {m op right len} {go : Nat → State} (h : MemoryCanonical s)
    (hg : ∀ w, MemoryCanonical (go w)) : MemoryCanonical (s.screened m op right len go) := by
  unfold State.screened
  refine .ite h.respond ?_
  split
  · exact h.count.respond
  · exact hg _

/-! ### Inbound messages -/

theorem MemoryCanonical.plainReply {m op step len mark} (h : MemoryCanonical s) : MemoryCanonical (s.plainReply m op step len mark) :=
  .ite h.issuePlain h.issuePlain

theorem MemoryCanonical.inboundRead {m} (h : MemoryCanonical s) : MemoryCanonical (s.inboundRead m) :=
  h.screened (fun _ => .ite h.plainReply h.countLines.respond)

theorem MemoryCanonical.written {m w n op} (h : MemoryCanonical s) : MemoryCanonical (s.written m w n op) := h.notify.respond

theorem MemoryCanonical.inboundStore {m op w} (h : MemoryCanonical s) : MemoryCanonical (s.inboundStore m op w) :=
  .ite (.ite h.plainReply h.store.plainReply) h.store.countLines.written

theorem MemoryCanonical.ringPut {m w n r} (h : MemoryCanonical s) : MemoryCanonical (s.ringPut m w n r) :=
  .ite h.respond (.ite h.respond h.store.countLines.setRing.written)

theorem MemoryCanonical.inboundAtomic {m} (h : MemoryCanonical s) : MemoryCanonical (s.inboundAtomic m) := by
  unfold State.inboundAtomic
  refine h.screened (fun _ => ?_)
  split
  · exact h.respond
  · exact .ite h.respond (.ite h.respond h.store.breakReservations.notify.respond)

theorem execRead_canonical {m} (h : MemoryCanonical s) : NextCanonical (execRead m s) := .next (h.receive (fun _ ht => ht.inboundRead))

theorem execWrite_canonical {m} (h : MemoryCanonical s) : NextCanonical (execWrite m s) :=
  .next (h.receive (fun _ ht => ht.screened (fun _ => ht.inboundStore)))

theorem execAtomic_canonical {m} (h : MemoryCanonical s) : NextCanonical (execAtomic m s) :=
  .next (h.receive (fun _ ht => ht.inboundAtomic))

theorem execTilePut_canonical {m} (h : MemoryCanonical s) : NextCanonical (execTilePut m s) := by
  unfold execTilePut
  refine .next (h.receive (fun _ ht => ht.screened (fun _ => ?_)))
  split
  · exact ht.ringPut
  · exact ht.inboundStore

/-! ### Requests that end (R462, R469, R470) -/

theorem MemoryCanonical.dropRequest {xid} (h : MemoryCanonical s) : MemoryCanonical (s.dropRequest xid) := h

theorem MemoryCanonical.mapRequest {xid f} (h : MemoryCanonical s) : MemoryCanonical (s.mapRequest xid f) := h

theorem MemoryCanonical.late (h : MemoryCanonical s) : MemoryCanonical s.late := h.count

theorem MemoryCanonical.resumeFlight {q seq} (h : MemoryCanonical s) : MemoryCanonical (s.resumeFlight q seq) := by
  unfold State.resumeFlight
  split
  · exact h
  · exact .ite h.moverStep (.ite h.stageStep h)

theorem MemoryCanonical.flightFailed {q seq st} (h : MemoryCanonical s) : MemoryCanonical (s.flightFailed q seq st) := by
  unfold State.flightFailed
  split
  · exact h.stageFail
  · exact h.endFlight

theorem MemoryCanonical.failRequest {x st} (h : MemoryCanonical s) : MemoryCanonical (s.failRequest x st) := by
  unfold State.failRequest
  split
  · exact h.dropRequest.flightFailed
  · dsimp only
    split
    · exact h.dropRequest.forgetRequests.stopCast
    · exact h.dropRequest.forgetRequests
  · exact h.dropRequest.coreRequestFailed
  · exact h.dropRequest.mirrorLost
  · exact .ite h.dropRequest.respond h.dropRequest
  · exact .ite h.dropRequest.emit h.dropRequest
  · exact h.dropRequest.routeFail

theorem MemoryCanonical.writePoisoned {x} (h : MemoryCanonical s) : MemoryCanonical (s.writePoisoned x) := by
  unfold State.writePoisoned
  split
  · split
    · exact h.setFlight.resumeFlight
    · exact h
  · split
    · exact h.runFault
    · exact h
  · exact h.coreWritePoisoned
  · exact h.mirrorLost
  · exact h.routeAcked
  · exact h
  · exact h

theorem MemoryCanonical.requestDone {x} (h : MemoryCanonical s) : MemoryCanonical (s.requestDone x) := by
  unfold State.requestDone
  split
  · exact h.resumeFlight
  · exact h.coreAcked
  · exact h.routeAcked
  · exact h

theorem MemoryCanonical.markUnits {a n mark} (h : MemoryCanonical s) : MemoryCanonical (s.markUnits a n mark) := h

theorem MemoryCanonical.deliver {c a bs mark} (h : MemoryCanonical s) : MemoryCanonical (s.deliver c a bs mark) := h.markUnits

theorem MemoryCanonical.answer {m ops} {done : State → Request → Bool → State} (h : MemoryCanonical s)
    (hd : ∀ t x p, MemoryCanonical t → MemoryCanonical (done t x p)) : MemoryCanonical (s.answer m ops done) := by
  unfold State.answer
  split
  · exact h.late
  · exact .ite h.late (.ite (hd _ _ _ h.dropRequest) (.ite h.mapRequest h.failRequest))

theorem execReadData_canonical {m} (h : MemoryCanonical s) : NextCanonical (execReadData m s) := by
  unfold execReadData
  refine .next (h.receive (fun _ ht => ht.answer (fun _ _ _ hu => ?_)))
  split
  · exact hu.coreLineArrived
  · exact hu.deliver.requestDone

theorem execWriteAck_canonical {m} (h : MemoryCanonical s) : NextCanonical (execWriteAck m s) :=
  .next (h.receive (fun _ ht => ht.answer (fun _ _ _ hu => .ite hu.writePoisoned hu.requestDone)))

theorem execAtomicData_canonical {m} (h : MemoryCanonical s) : NextCanonical (execAtomicData m s) := by
  unfold execAtomicData
  refine .next (h.receive (fun _ ht => ht.answer (fun _ _ _ hu => ?_)))
  split
  · exact .ite hu.corePoisoned hu.coreAtomicArrived
  · exact hu

theorem execTileAck_canonical {m} (h : MemoryCanonical s) : NextCanonical (execTileAck m s) :=
  .next (h.receive (fun _ ht => ht.answer (fun _ _ _ hu => .ite hu.writePoisoned hu.requestDone)))

theorem execRingPutResend_canonical {xid} (h : MemoryCanonical s) : NextCanonical (execRingPutResend xid s) := by
  unfold execRingPutResend
  refine .next ?_
  split
  · exact h
  · split
    · exact h
    · refine .ite h ?_
      dsimp only
      split
      · exact h.count.mapRequest.send
      · exact h.count.mapRequest.send.failRequest
      · exact h.count.mapRequest.send.failRequest

theorem execRmTimeout_canonical {xid} (h : MemoryCanonical s) : NextCanonical (execRmTimeout xid s) := by
  unfold execRmTimeout
  refine .next ?_
  split
  · exact h
  · exact .ite h h.count.failRequest

/-! ### The Plain (R446, R447) -/

theorem MemoryCanonical.aperturePlain {p a n bs step} (h : MemoryCanonical s) : MemoryCanonical (s.aperturePlain p a n bs step) :=
  .ite h.issuePlain h.issuePlain

theorem MemoryCanonical.plainDone {x data mark} (h : MemoryCanonical s) : MemoryCanonical (s.plainDone x data mark) := by
  unfold State.plainDone
  split
  · exact .ite h.coreLineArrived h.coreAcked
  · split
    · exact h.respond
    · exact h.store.plainReply
    · split
      · exact h.written
      · exact h.respond
  · exact .ite h.emit (.ite h.store.aperturePlain h)
  · exact h.requestDone

theorem MemoryCanonical.plainPoison {l job addr} (h : MemoryCanonical s) : MemoryCanonical (s.plainPoison l job addr) :=
  .ite h.fault.setLinkState h.fault

theorem MemoryCanonical.plainAnswer {m op} (h : MemoryCanonical s) : MemoryCanonical (s.plainAnswer m op) := by
  unfold State.plainAnswer
  refine .ite h ?_
  split
  · exact h
  · next x _ =>
    refine .ite h ?_
    extract_lets +onlyGivenNames st
    refine .ite h.count.failRequest.flushPlain ?_
    extract_lets bad t u n a w _ v
    have ht : MemoryCanonical t := .ite h.count.plainPoison h
    have hu : MemoryCanonical u := ht.dropRequest
    have hw : MemoryCanonical w := hu.markUnits
    clear_value u
    have hv : MemoryCanonical v := .ite hw (.ite hu.markUnits hu)
    exact hv.plainDone.flushPlain

theorem execPData_canonical {m} (h : MemoryCanonical s) : NextCanonical (execPData m s) := .next h.plainAnswer

theorem execPWack_canonical {m} (h : MemoryCanonical s) : NextCanonical (execPWack m s) := .next h.plainAnswer

theorem execPlainTimeout_canonical {l xid} (h : MemoryCanonical s) : NextCanonical (execPlainTimeout l xid s) := by
  unfold execPlainTimeout
  refine .next ?_
  split
  · exact h
  · exact .ite h h.count.failRequest.flushPlain

/-! ## Lost chips and ports, notices and promotion (R538 to R544) -/

/-! ### Notices that leave (R538, R539, R541) -/

theorem MemoryCanonical.noticeOn {p op kind chip xid} (h : MemoryCanonical s) : MemoryCanonical (s.noticeOn p op kind chip xid) := h.sendVia

theorem MemoryCanonical.flood {kind chip xid except_} (h : MemoryCanonical s) : MemoryCanonical (s.flood kind chip xid except_) :=
  h.foldl fun _ _ ht => ht.noticeOn

theorem MemoryCanonical.noteXid {xid} (h : MemoryCanonical s) : MemoryCanonical (s.noteXid xid) := h

theorem MemoryCanonical.newXid (h : MemoryCanonical s) : MemoryCanonical s.newXid.1 := .noteXid h

theorem MemoryCanonical.noticePartner {kind chip xid} (h : MemoryCanonical s) : MemoryCanonical (s.noticePartner kind chip xid) :=
  h.sendPlainRoute

theorem MemoryCanonical.announce {op kind} (h : MemoryCanonical s) : MemoryCanonical (s.announce op kind) :=
  h.newXid.foldl fun _ _ ht => ht.noticeOn

/-! ### Lost chips (R538, R540) -/

theorem MemoryCanonical.failChip {x} (h : MemoryCanonical s) : MemoryCanonical (s.failChip x) :=
  h.foldl fun _ _ ht => .ite ht.failRequest ht

theorem MemoryCanonical.addLost {x} (h : MemoryCanonical s) : MemoryCanonical (s.addLost x) :=
  .ite h (.collLost (.routeLost (.ringChipLost (.failChip (.ite h.setF.fault.newXid.flood.noticePartner h.setF.fault.newXid.flood)))))

/-! ### Promotion (R542, R543) -/

theorem MemoryCanonical.beginPromotion {trigger chip} (h : MemoryCanonical s) : MemoryCanonical (s.beginPromotion trigger chip) :=
  .ite h h.newXid.flood.noticePartner.startPromotion

theorem MemoryCanonical.autoPromote {trigger chip} (h : MemoryCanonical s) : MemoryCanonical (s.autoPromote trigger chip) :=
  .ite h.beginPromotion h

theorem MemoryCanonical.stopPrimary (h : MemoryCanonical s) : MemoryCanonical s.stopPrimary :=
  .flood (.newXid (h.setF.foldl fun _ _ ht => ht.stopServe))

/-! ### Rows of the table -/

theorem MemoryCanonical.takeNotice {m} (h : MemoryCanonical s) : MemoryCanonical (s.takeNotice m) := by
  unfold State.takeNotice
  dsimp only
  split
  · exact .ite (.autoPromote (.addLost (.ite h.noteXid.flood h.noteXid))) (.addLost (.ite h.noteXid.flood h.noteXid))
  · exact .ite (.autoPromote (.addLost (.ite h.noteXid.flood h.noteXid))) (.addLost (.ite h.noteXid.flood h.noteXid))
  · exact .ite (.stopPrimary (.ite h.noteXid.flood h.noteXid)) (.autoPromote (.ite h.noteXid.flood h.noteXid))
  · exact .ite h.noteXid.flood h.noteXid

theorem execFaultNotice_canonical {m} (h : MemoryCanonical s) : NextCanonical (execFaultNotice m s) :=
  .next (h.receive (fun _ ht => .ite ht ht.takeNotice))

theorem execGoingDown_canonical {m} (h : MemoryCanonical s) : NextCanonical (execGoingDown m s) :=
  .next (h.receive (fun _ ht => .ite ht.addLost.autoPromote ht.addLost))

theorem MemoryCanonical.undelivered {op dst xid} (h : MemoryCanonical s) : MemoryCanonical (s.undelivered op dst xid) := by
  unfold State.undelivered
  refine .ite ?_ (.ite h.ringChipLost (.ite h.collLost h))
  split
  · exact h.failRequest
  · exact h

theorem execUnreachable_canonical {m} (h : MemoryCanonical s) : NextCanonical (execUnreachable m s) :=
  .next (h.receive (fun _ ht => ht.undelivered))

theorem MemoryCanonical.losePort {p} (h : MemoryCanonical s) : MemoryCanonical (s.losePort p) := by
  unfold State.losePort
  extract_lets msgs s₁ _ s₂ s₃ s₄ y
  have h₃ : MemoryCanonical s₃ :=
    h.setF.setF.setLport.foldl fun _ _ ht => .ite ht.dropNotice.undelivered ht.dropNotice.noticeUnreachable
  exact .ite h₃.ringPortLost.addLost h₃.ringPortLost

theorem execPortLost_canonical {p} (h : MemoryCanonical s) : NextCanonical (execPortLost p s) := by
  unfold execPortLost
  refine .next ?_
  split
  · exact .ite h.losePort h
  · exact h

theorem execPromoteNow_canonical {via} (h : MemoryCanonical s) : NextCanonical (execPromoteNow via s) := by
  unfold execPromoteNow
  refine .next ?_
  split
  · exact h
  · exact .ite h.beginPromotion h

/-! ## Register reads -/

theorem MemoryCanonical.readEffect {port off} (h : MemoryCanonical s) : MemoryCanonical (s.readEffect port off) := by
  unfold State.readEffect
  split
  · exact h
  · exact .ite h (.ite h.setF (.ite h.setF (.ite h.setF (.ite h.setF (.ite h h)))))

theorem MemoryCanonical.directRead {via off} (h : MemoryCanonical s) : MemoryCanonical (s.directRead via off) := h.readEffect.emit

theorem execGlbTimeLowRead_canonical {via} (h : MemoryCanonical s) : NextCanonical (execGlbTimeLowRead via s) := .next (.emit (.ite h h))

theorem execGlbMarginRead_canonical {via} (h : MemoryCanonical s) : NextCanonical (execGlbMarginRead via s) := .next h.directRead

theorem execFabSaddleStatRead_canonical {via} (h : MemoryCanonical s) : NextCanonical (execFabSaddleStatRead via s) := .next h.directRead

theorem execAltLinkFecRead_canonical {via l} (h : MemoryCanonical s) : NextCanonical (execAltLinkFecRead via l s) := .next h.directRead

theorem execFltLogRead_canonical {via i word} (h : MemoryCanonical s) : NextCanonical (execFltLogRead via i word s) := .next h.directRead

theorem execGlbHwinSizeRead_canonical {reader p w} (h : MemoryCanonical s) : NextCanonical (execGlbHwinSizeRead reader p w s) :=
  .next h.directRead

/-! ## Register writes -/

/-! ### What a write does -/

theorem MemoryCanonical.writeFields {t off v mask} (h : MemoryCanonical s) : MemoryCanonical (s.writeFields t off v mask) := h.setReg

theorem MemoryCanonical.cqHead {q v} (h : MemoryCanonical s) : MemoryCanonical (s.cqHead q v) := .ite h.setF.setQueue h

theorem MemoryCanonical.clearNan {n} (h : MemoryCanonical s) : MemoryCanonical (s.clearNan n) := h.setF.setF.setF

theorem MemoryCanonical.clearXlate {n} (h : MemoryCanonical s) : MemoryCanonical (s.clearXlate n) := h.setF.setF

theorem MemoryCanonical.applyLaunch {l} (h : MemoryCanonical s) : MemoryCanonical (s.applyLaunch l) := .ite h.setF.setF.count h.setF.setF

theorem MemoryCanonical.aperture {p v} (h : MemoryCanonical s) : MemoryCanonical (s.aperture p v) := .ite h h.setF.setF.setF

theorem MemoryCanonical.hwin {p w size v} (h : MemoryCanonical s) : MemoryCanonical (s.hwin p w size v) := .ite h (.ite h.setF.setF h.setF)

theorem MemoryCanonical.unpin {n i t} (h : MemoryCanonical s) (e : s.unpin n i = some t) : MemoryCanonical t := by
  unfold State.unpin at e
  split at e
  · split at e <;> cases e
    exact h.setHot
  · cases e

theorem MemoryCanonical.runWrite {m v} (h : MemoryCanonical s) : MemoryCanonical (s.runWrite m v) :=
  .ite (.promoteBinding (.ite h.stopServe h)) (.ite h.stopServe h)

theorem MemoryCanonical.writeReg {w x i j off v mask t} (h : MemoryCanonical s) (e : s.writeReg w x i j off v mask = some t) :
    MemoryCanonical t := by
  suffices hc : CanonicalOpt (s.writeReg w x i j off v mask) from hc t e
  unfold State.writeReg
  extract_lets +onlyGivenNames x' new put
  refine .ite (.ite (.some h.setR) .none) (.ite (.some h.cqHead)
    (.ite (.some h.outHead) (.ite ?_ (.ite (.some (.ite h.clearNan h))
      (.ite (.some (.ite h.clearXlate h)) (.ite ?_ (.ite (.some (.ite h.kvWrite h))
        (.ite (.some h.runWrite) (.ite (.some (.ite h.beginPromotion h))
          (.ite (.ite ?_ .none) (.ite ?_ (.ite (.some (.ite h h.writeFields))
            (.ite (.some h.aperture) (.ite (.some h.hwin) (.ite (.some h.hwin) (.some h.writeFields))))))))))))))))
  · split
    · exact .some h.writeComparator
    · exact .ite .none (.some h.writeComparator)
  · split
    · exact fun t e => h.unpin e
    · exact .none
  · exact .some (.ite (.setLink (.ite h.startRecal h)) (.ite h.startRecal h))
  · exact .some (.ite h.writeFields h.writeFields.applyLaunch)

theorem MemoryCanonical.applyWrite {w off v mask t} (h : MemoryCanonical s) (e : s.applyWrite w off v mask = some t) :
    MemoryCanonical t := by
  unfold State.applyWrite at e
  split at e
  · cases e
  · split at e
    · cases e
      exact h
    · split at e
      · cases e
      · exact h.writeReg e

/-! ### MSI-X (R494, R500) -/

theorem MemoryCanonical.sendPending {p} (h : MemoryCanonical s) : MemoryCanonical (s.sendPending p) :=
  h.foldl fun _ _ ht => .ite ht ht.setPort.emit

theorem MemoryCanonical.tableWrite {p off v mask} (h : MemoryCanonical s) : MemoryCanonical (s.tableWrite p off v mask) :=
  h.setPort.sendPending

theorem execMsixUnmask_canonical {p v} (h : MemoryCanonical s) : NextCanonical (execMsixUnmask p v s) := by
  unfold execMsixUnmask
  refine .next ?_
  split
  · exact h.setPort.sendPending
  · exact h.tableWrite

/-! ### Direct writes -/

theorem MemoryCanonical.directReg {via off v mask} (h : MemoryCanonical s) : MemoryCanonical (s.directReg via off v mask) := by
  refine .ite ?_ h
  cases e : s.applyWrite (.direct via) off v mask with
  | none => exact h
  | some t => exact h.applyWrite e

theorem MemoryCanonical.directWrite {via off size v} (h : MemoryCanonical s) : MemoryCanonical (s.directWrite via off size v) := by
  unfold State.directWrite
  refine .ite h (.ite ?_ h.directReg)
  split
  · exact .ite h.tableWrite h
  · exact h

theorem execRegisterWrite_canonical {via off size v} (h : MemoryCanonical s) : NextCanonical (execRegisterWrite via off size v s) :=
  .next h.directWrite

theorem execGlbHwinWrite_canonical {via p w size v} (h : MemoryCanonical s) : NextCanonical (execGlbHwinWrite via p w size v s) :=
  .next h.directWrite

theorem execGlbApertureWrite_canonical {via p v} (h : MemoryCanonical s) : NextCanonical (execGlbApertureWrite via p v s) :=
  .next h.directWrite

theorem execQeQCqWrite_canonical {via q v} (h : MemoryCanonical s) : NextCanonical (execQeQCqWrite via q v s) := .next h.directWrite

theorem execQeQCqHeadWrite_canonical {via q v} (h : MemoryCanonical s) : NextCanonical (execQeQCqHeadWrite via q v s) := .next h.directWrite

theorem execFltNanInfoWrite_canonical {via n v} (h : MemoryCanonical s) : NextCanonical (execFltNanInfoWrite via n v s) :=
  .next h.directWrite

/-! ### The aperture (R496) -/

theorem execApertureAccess_canonical {p off wr bytes} (h : MemoryCanonical s) : NextCanonical (execApertureAccess p off wr bytes s) :=
  .next (.ite (.ite h.count h.count.emit) (.ite (.ite h.aperturePlain (.ite h.aperturePlain h.store.aperturePlain))
    (.ite h.store.countLines h.countLines.emit)))

/-! ## Configuration transactions before their commit -/

/-! ### Staging (R67) -/

theorem MemoryCanonical.stageSet {x off v mask t} (h : MemoryCanonical s) (e : s.stageSet x off v mask = .ok t) : MemoryCanonical t := by
  unfold State.stageSet at e
  split at e
  · cases e
  · split at e
    · cases e
    · split at e <;> cases e
      exact h.setTx

theorem MemoryCanonical.merged {xs} (h : MemoryCanonical s) : MemoryCanonical (s.merged xs) := h.foldl fun _ _ ht => ht.setReg

/-! ### Opening (R66) -/

theorem MemoryCanonical.openTx {k job o timeout tag} (h : MemoryCanonical s) : MemoryCanonical (s.openTx k job o timeout tag).1 := h

theorem MemoryCanonical.runTxBegin {q seq r} (h : MemoryCanonical s) : MemoryCanonical (s.runTxBegin q seq r) := by
  unfold State.runTxBegin
  dsimp only
  split
  · exact h.finishFlight
  · exact h.openTx.finishFlight

theorem specTxBegin_canonical : KeepsCanonical specTxBegin := .of_run (fun h => h.runTxBegin) rfl

theorem execTxBegin_canonical {q} (h : MemoryCanonical s) : NextCanonical (execTxBegin q s) := .next (h.queueCommand specTxBegin_canonical)

/-! ### Aborting (R67, R70) -/

theorem MemoryCanonical.runTxAbort {q seq r} (h : MemoryCanonical s) : MemoryCanonical (s.runTxAbort q seq r) := by
  unfold State.runTxAbort
  split
  · exact h.finishFlight
  · exact h.rollback.finishFlight

theorem specTxAbort_canonical : KeepsCanonical specTxAbort := .of_run (fun h => h.runTxAbort) rfl

theorem execTxAbort_canonical {q} (h : MemoryCanonical s) : NextCanonical (execTxAbort q s) := .next (h.queueCommand specTxAbort_canonical)

end Sys2Proof.Machine

end

section
/-! Memory in canonical form, continued: the ordering point of a commit (R68) and what follows. -/

namespace Sys2Proof.Machine

open Sys2Proof.Laws

variable {s : State}

/-! ## The ordering point of a commit (R68) -/

/-! ### Queues (R74, R503) -/

theorem MemoryCanonical.cancelRing {fuel q} (h : MemoryCanonical s) : MemoryCanonical (State.cancelRing fuel s q) := by
  induction fuel generalizing s with
  | zero => exact h
  | succ fuel ih =>
    unfold State.cancelRing
    split
    · exact h
    · exact ih h.unrun.advanceHead.cancelUnstarted

theorem MemoryCanonical.restartQueue {q} (h : MemoryCanonical s) : MemoryCanonical (s.restartQueue q) := h.setQueue.setR.setR.setR

theorem MemoryCanonical.dropTxs {q keep} (h : MemoryCanonical s) : MemoryCanonical (s.dropTxs q keep) := h.foldl fun _ _ ht => ht.rollback

theorem MemoryCanonical.leaveQueue {n keep q} (h : MemoryCanonical s) : MemoryCanonical (s.leaveQueue n keep q) :=
  .ite (.ite h.cancelRing.restartQueue (h.cancelRing.restartQueue.dropTxs.foldl fun _ _ ht => ht.cancelRequest))
    (.ite h.restartQueue.setR h)

/-! ### Jobs (R63, R95, R116, R118, R250, R304) -/

theorem MemoryCanonical.jobValidated {j} (h : MemoryCanonical s) : MemoryCanonical (s.jobValidated j) := h.setR.setR.setR.setF

theorem MemoryCanonical.jobInvalidated {j} (h : MemoryCanonical s) : MemoryCanonical (s.jobInvalidated j) :=
  .setR (.foldl (.setKvPages (.foldl (.setHot (.setR h)) fun _ _ ht => ht.setR)) fun _ _ ht => ht.setR)

theorem MemoryCanonical.poolLeft {j} (h : MemoryCanonical s) : MemoryCanonical (s.poolLeft j) := by
  unfold State.poolLeft
  refine h.foldl fun _ _ ht => ?_
  split
  · exact .ite ht ht
  · exact ht

theorem MemoryCanonical.changeJob {old j} (h : MemoryCanonical s) : MemoryCanonical (s.changeJob old j) :=
  .ite h.jobInvalidated (.ite h.jobValidated h)

theorem MemoryCanonical.changeAperture {old p} (h : MemoryCanonical s) : MemoryCanonical (s.changeAperture old p) := .ite h.setF h

/-! ### Rings, groups, serving -/

theorem MemoryCanonical.changeOutput {old o} (h : MemoryCanonical s) : MemoryCanonical (s.changeOutput old o) :=
  .ite h.setOutRing.setR.setR h

theorem MemoryCanonical.changeMeander {old g} (h : MemoryCanonical s) : MemoryCanonical (s.changeMeander old g) := .ite h h

theorem MemoryCanonical.changeLayer {old j} (h : MemoryCanonical s) : MemoryCanonical (s.changeLayer old j) := .ite h.setR h

theorem MemoryCanonical.changeExperts {old g} (h : MemoryCanonical s) : MemoryCanonical (s.changeExperts old g) := .ite h h

theorem MemoryCanonical.changeCollective {g} (h : MemoryCanonical s) : MemoryCanonical (s.changeCollective g) := .setF (.setR h)

theorem MemoryCanonical.bindFeed {m} (h : MemoryCanonical s) : MemoryCanonical (s.bindFeed m) := .zero h

theorem MemoryCanonical.bindMirror {old m} (h : MemoryCanonical s) : MemoryCanonical (s.bindMirror old m) := .ite h h

theorem MemoryCanonical.changeHot {old} (h : MemoryCanonical s) : MemoryCanonical (s.changeHot old) := .ite (.setHot h) h

/-! ### The partition (R30, R428, R441, R527, R567, R572, R574) -/

theorem MemoryCanonical.changeLink {old l} (h : MemoryCanonical s) : MemoryCanonical (s.changeLink old l) :=
  .ite h (.ite h.setF.setLinkState (.ite h.beginDrain (.ite h.setLink h.setLinkState)))

theorem MemoryCanonical.readmitLinks {t} (h : MemoryCanonical s) : MemoryCanonical (s.readmitLinks t) := h

theorem MemoryCanonical.recheckLink {l} (h : MemoryCanonical s) : MemoryCanonical (s.recheckLink l) := .ite h.setF h

theorem MemoryCanonical.fenceOut {old} (h : MemoryCanonical s) : MemoryCanonical (s.fenceOut old) :=
  .foldl (.foldl (h.foldl fun _ _ ht => .ite ht.failRequest ht) fun _ _ ht => .ite ht.ringLocal ht) fun _ _ ht => .ite ht.failColl ht

theorem MemoryCanonical.extendMeas {r d} (h : MemoryCanonical s) : MemoryCanonical (s.extendMeas r d) := h.foldl fun _ _ ht => ht.setR

theorem MemoryCanonical.measurePartition (h : MemoryCanonical s) : MemoryCanonical s.measurePartition := h.extendMeas

theorem MemoryCanonical.rotateKey {t} (h : MemoryCanonical s) : MemoryCanonical (s.rotateKey t) := by
  unfold State.rotateKey
  split
  · exact h
  · exact .ite h (.extendMeas h)

theorem MemoryCanonical.consumeSlot {t} (h : MemoryCanonical s) : MemoryCanonical (s.consumeSlot t) := h

theorem MemoryCanonical.dropKey (h : MemoryCanonical s) : MemoryCanonical s.dropKey := .setR (h.foldl fun _ _ ht => ht.setR)

theorem MemoryCanonical.changePartition {old t} (h : MemoryCanonical s) : MemoryCanonical (s.changePartition old t) :=
  .measurePartition (.dropKey (.rotateKey (.fenceOut (.releaseRecals
    (.refreshPorts (.foldl (.readmitLinks (.foldl (.ite h.setF h) fun _ _ ht => ht.changeLink)) fun _ _ ht => ht.recheckLink))))))

/-! ### The ordering point -/

theorem MemoryCanonical.commitCasts {cs t} (h : MemoryCanonical s) (e : State.commitCasts cs s = .ok t) : MemoryCanonical t := by
  induction cs generalizing s with
  | nil =>
    cases e
    exact h
  | cons c cs ih =>
    unfold State.commitCasts at e
    split at e
    · exact ih h.applyStaged e
    · split at e
      · exact ih h e
      · split at e
        · cases e
        · next e' => exact ih (h.latePreload e').swapSlots e

theorem MemoryCanonical.commitRegs {t} (h : MemoryCanonical s) : MemoryCanonical (s.commitRegs t) := by
  unfold State.commitRegs
  extract_lets n s₁ s₂ s₃ x₀ x₁ x₂ x₃ x₄ x₅ x₆ x₇ x₈ x₉ x₁₀ x₁₁
  have h₁ : MemoryCanonical s₁ := h.foldl fun _ _ ht => .ite ht ht.moveDale
  have h₂ : MemoryCanonical s₂ := h₁.foldl fun _ _ ht => ht.leaveQueue
  have h₃ : MemoryCanonical s₃ := h₂.foldl fun _ _ ht => .ite ht ht.setF
  have h₁' : MemoryCanonical x₁ := h₃.merged.foldl fun _ _ ht => ht.changeJob
  have h₂' : MemoryCanonical x₂ := h₁'.foldl fun _ _ ht => ht.poolLeft
  have h₄ : MemoryCanonical x₄ := h₂'.changeAperture.changeAperture.foldl fun _ _ ht => ht.changeOutput
  have h₅ : MemoryCanonical x₅ := h₄.foldl fun _ _ ht => ht.changeMeander
  have h₆ : MemoryCanonical x₆ := h₅.foldl fun _ _ ht => ht.changeExperts
  have h₇ : MemoryCanonical x₇ := h₆.foldl fun _ _ ht => ht.changeLayer
  have h₈ : MemoryCanonical x₈ := h₇.foldl fun _ _ ht => ht.changeCollective
  have h₉ : MemoryCanonical x₉ := h₈.foldl fun _ _ ht => ht.bindFeed
  have h₁₀ : MemoryCanonical x₁₀ := h₉.foldl fun _ _ ht => ht.bindMirror
  have h₁₁ : MemoryCanonical x₁₁ := h₁₀.changeHot
  exact .ite h₁₁.changePartition h₁₁

theorem MemoryCanonical.ordered {x t} (h : MemoryCanonical s) (e : s.ordered x = .ok t) : MemoryCanonical t :=
  h.commitRegs.commitCasts e

/-! ## Commits, `SET` and `GET` (R50, R67 to R70) -/

/-! ### SET and GET (R49, R50) -/

theorem MemoryCanonical.runSet {q seq r} (h : MemoryCanonical s) : MemoryCanonical (s.runSet q seq r) := by
  unfold State.runSet
  refine .ite ?_ ?_
  · split
    · exact h.finishFlight
    · refine .ite h.finishFlight (.ite h.finishFlight ?_)
      split
      · exact h.finishFlight
      · next e' =>
        refine .finishFlight (.applyWrite ?_ e')
        exact h
  · split
    · exact h.finishFlight
    · split
      · exact h.finishFlight
      · next e' =>
        refine .finishFlight (.stageSet ?_ e')
        exact h

theorem specSet_canonical : KeepsCanonical specSet := .of_run (fun h => h.runSet) rfl

theorem execSet_canonical {q} (h : MemoryCanonical s) : NextCanonical (execSet q s) := .next (h.queueCommand specSet_canonical)

theorem execTrCcacheUnpin_canonical {q} (h : MemoryCanonical s) : NextCanonical (execTrCcacheUnpin q s) :=
  .next (h.queueCommand specSet_canonical)

theorem MemoryCanonical.dropTx {t} (h : MemoryCanonical s) : MemoryCanonical (s.dropTx t) := h

theorem MemoryCanonical.afterCommit {t} (h : MemoryCanonical s) : MemoryCanonical (s.afterCommit t) := by
  unfold State.afterCommit
  refine .dropTx ?_
  split
  · next e =>
    refine .ordered ?_ e
    exact h
  · exact h.commitRegs

theorem MemoryCanonical.runGet {q seq r} (h : MemoryCanonical s) : MemoryCanonical (s.runGet q seq r) := by
  unfold State.runGet
  refine .ite h.readEffect.finishFlight ?_
  split
  · exact h.finishFlight
  · exact h.finishFlight

theorem specGet_canonical : KeepsCanonical specGet := .of_run (fun h => h.runGet) rfl

theorem execGet_canonical {q} (h : MemoryCanonical s) : NextCanonical (execGet q s) := .next (h.queueCommand specGet_canonical)

/-! ### TX_COMMIT (R68) -/

theorem MemoryCanonical.beginCommit {x seq t} (h : MemoryCanonical s) (e : s.beginCommit x seq = .ok t) : MemoryCanonical t := by
  unfold State.beginCommit at e
  split at e <;> cases e
  exact h.setTx

theorem MemoryCanonical.beginCommit_stop {x seq t d} (h : MemoryCanonical s) (e : s.beginCommit x seq = .error (t, d)) :
    MemoryCanonical t := by
  unfold State.beginCommit at e
  split at e <;> cases e
  exact h.rollback

theorem MemoryCanonical.runTxCommit {q seq r} (h : MemoryCanonical s) : MemoryCanonical (s.runTxCommit q seq r) := by
  unfold State.runTxCommit
  split
  · exact h.finishFlight
  · split
    · next e => exact (h.beginCommit_stop e).finishFlight
    · next e => exact h.beginCommit e

theorem specTxCommit_canonical : KeepsCanonical specTxCommit := .of_run (fun h => h.runTxCommit) rfl

theorem execTxCommit_canonical {q} (h : MemoryCanonical s) : NextCanonical (execTxCommit q s) :=
  .next (h.queueCommand specTxCommit_canonical)

/-! ### Quiescence (R68) -/

theorem specOf_canonical (r : Rec) : KeepsCanonical (specOf r) := by
  unfold specOf
  split
  · exact specFenceSignal_canonical
  · exact specFenceWait_canonical
  · exact specTxBegin_canonical
  · exact specTxCommit_canonical
  · exact specTxAbort_canonical
  · exact specCastStage_canonical
  · exact specCastSwitch_canonical
  · exact specCastRun_canonical
  · exact specCastEvict_canonical
  · exact specMove_canonical
  · exact specFill_canonical
  · exact specMap_canonical
  · exact specCoreRun_canonical
  · exact specColl_canonical
  · exact specRingRun_canonical
  · exact specRoute_canonical
  · exact specReqAdmit_canonical
  · exact specReqCancel_canonical
  · exact specServeStart_canonical
  · exact specReqQuery_canonical
  · exact specSet_canonical
  · exact specGet_canonical
  · exact specNop_canonical

/-! ### The end of a commit -/

theorem MemoryCanonical.completeCommit {t} (h : MemoryCanonical s) : MemoryCanonical (s.completeCommit t) := by
  unfold State.completeCommit
  split
  · exact h.dropTx.sessionAnswer
  · refine .ite h.dropTx.finishFlight ?_
    split
    · exact h.dropTx
    · exact h.dropTx.setQueue.recordSignal

theorem MemoryCanonical.orderTx {t readBackFails} (h : MemoryCanonical s) : MemoryCanonical (s.orderTx t readBackFails) := by
  unfold State.orderTx
  split
  · exact h.rollback
  · refine .ite h.consumeSlot.rollback ?_
    split
    · exact h.accFault.rollback
    · next e' =>
      refine .completeCommit (.ordered ?_ e')
      exact h

theorem execOrderingPoint_canonical {m readBackFails} (h : MemoryCanonical s) : NextCanonical (execOrderingPoint m readBackFails s) := by
  unfold execOrderingPoint
  refine .next ?_
  split
  · exact h
  · exact .ite h.orderTx h

theorem execCommitTimeout_canonical {m} (h : MemoryCanonical s) : NextCanonical (execCommitTimeout m s) := by
  unfold execCommitTimeout
  refine .next ?_
  split
  · exact h
  · exact .ite h (.ite h.orderTx h.rollback)

/-! ### WAIT_SATISFIED (R56) -/

theorem MemoryCanonical.waitOver {q f r} (h : MemoryCanonical s) : MemoryCanonical (s.waitOver q f r) := by
  unfold State.waitOver
  refine .ite h.headDone ?_
  split
  · exact h.opWait (specOf_canonical r)
  · exact h.startHead (specOf_canonical r)

theorem execWaitSatisfied_canonical {q} (h : MemoryCanonical s) : NextCanonical (execWaitSatisfied q s) := by
  unfold execWaitSatisfied
  refine .next ?_
  split
  · exact .ite h.waitOver h
  · exact h

end Sys2Proof.Machine

end

section
/-! Memory in canonical form, continued: management sessions (R505 to R509, R569 to R571) and what follows. -/

namespace Sys2Proof.Machine

open Sys2Proof.Laws

variable {s : State}

/-! ## Management sessions (R505 to R509, R569 to R571) -/

/-! ### Sessions that end (R508, R570, R571) -/

theorem MemoryCanonical.endSession {r} (h : MemoryCanonical s) : MemoryCanonical (s.endSession r) :=
  h.setRole.foldl fun _ _ ht => ht.rollback

theorem MemoryCanonical.lockRole {r} (h : MemoryCanonical s) : MemoryCanonical (s.lockRole r) := h.setF.count.setR

theorem MemoryCanonical.authFailure {r} (h : MemoryCanonical s) : MemoryCanonical (s.authFailure r) := .ite h (.ite h.setF h.lockRole)

theorem MemoryCanonical.unlockRole {r} (h : MemoryCanonical s) : MemoryCanonical (s.unlockRole r) := h.setF.setF.setF.setR

theorem MemoryCanonical.dropNonce {r} (h : MemoryCanonical s) : MemoryCanonical (s.dropNonce r) := h.setRole

theorem MemoryCanonical.settleRole {r} (h : MemoryCanonical s) : MemoryCanonical (s.settleRole r) := by
  unfold State.settleRole
  extract_lets s₁ s₂
  have h₁ : MemoryCanonical s₁ := .ite h.endSession h
  have h₂ : MemoryCanonical s₂ := .ite h₁.unlockRole h₁
  exact .ite h₂.dropNonce h₂

theorem execSessionTimeout_canonical {r} (h : MemoryCanonical s) : NextCanonical (execSessionTimeout r s) := by
  unfold execSessionTimeout
  refine .next ?_
  split
  · exact .ite h.endSession h
  · exact h

theorem execSessionExpiry_canonical {r} (h : MemoryCanonical s) : NextCanonical (execSessionExpiry r s) := by
  unfold execSessionExpiry
  refine .next ?_
  split
  · exact .ite h.endSession h
  · exact h

theorem execNonceExpiry_canonical {r} (h : MemoryCanonical s) : NextCanonical (execNonceExpiry r s) := .next (.ite h.dropNonce h)

theorem execLockoutEnd_canonical {r} (h : MemoryCanonical s) : NextCanonical (execLockoutEnd r s) := .next (.ite h.unlockRole h)

/-! ### The limit of a transport (R509) -/

theorem MemoryCanonical.takeAllowance {i t} (h : MemoryCanonical s) (e : s.takeAllowance i = some t) : MemoryCanonical t := by
  unfold State.takeAllowance at e
  dsimp only at e
  split at e <;> cases e
  exact h

/-! ### The checks of a request (R506, R507, R509, R566, R570) -/

theorem MemoryCanonical.macFailure {r y} (h : MemoryCanonical s) : MemoryCanonical (s.macFailure r y) :=
  .ite h.count.endSession.authFailure h.count.setRole

theorem MemoryCanonical.gate {m op payload} (h : MemoryCanonical s) : MemoryCanonical (s.gate m op payload).1 := by
  unfold State.gate
  split
  · exact h
  · exact .iteFst h.endSession (.iteFst h.macFailure (.iteFst h.setRole h.setRole))

theorem MemoryCanonical.answerOutside {m op x} (h : MemoryCanonical s) : MemoryCanonical (s.answerOutside m op x) := by
  unfold State.answerOutside
  split
  · exact h
  · exact h.mgmtSend

theorem MemoryCanonical.answerInside {m y op x} (h : MemoryCanonical s) : MemoryCanonical (s.answerInside m y op x) := by
  unfold State.answerInside
  split
  · exact h
  · exact h.mgmtSend

theorem MemoryCanonical.request {m op need payload} {f : State → Option Nat → State × Answer} (h : MemoryCanonical s)
    (hf : ∀ t r, MemoryCanonical t → MemoryCanonical (f t r).1) : MemoryCanonical (s.request m op need payload f) := by
  unfold State.request
  dsimp only
  refine .ite h ?_
  split
  · exact h.count
  · next e =>
    have ht := h.takeAllowance e
    refine .ite (.ite ht.answerOutside (hf _ _ ht).answerOutside) ?_
    split
    · next e' => exact .of_fst e' ht.gate
    · next e' => exact (MemoryCanonical.of_fst e' ht.gate).answerOutside
    · next e' =>
      have hg := MemoryCanonical.of_fst e' ht.gate
      exact .ite hg.answerInside (hf _ _ hg).answerInside

/-! ### Opening and closing a session (R508, R569) -/

theorem MemoryCanonical.openSession {r} (h : MemoryCanonical s) : MemoryCanonical (s.openSession r).1 :=
  .iteFst h (.iteFst h h.drawn.setRole)

theorem execSessionOpen_canonical {m payload} (h : MemoryCanonical s) : NextCanonical (execSessionOpen m payload s) :=
  .next (h.request (fun _ _ ht => .iteFst ht ht.settleRole.openSession))

theorem MemoryCanonical.startSession {m r life nonce call} (h : MemoryCanonical s) : MemoryCanonical (s.startSession m r life nonce call) :=
  .sessionAnswer (.setF (.setF (.setF h)))

theorem MemoryCanonical.authSession {m r payload} (h : MemoryCanonical s) : MemoryCanonical (s.authSession m r payload).1 := by
  unfold State.authSession
  refine .iteFst h ?_
  split
  · exact h
  · dsimp only
    split
    · exact h.dropNonce
    · exact .iteFst h.dropNonce.startSession h.dropNonce.authFailure

theorem execSessionAuth_canonical {m payload} (h : MemoryCanonical s) : NextCanonical (execSessionAuth m payload s) :=
  .next (h.request (fun _ _ ht => .iteFst ht ht.settleRole.authSession))

theorem execSessionClose_canonical {m} (h : MemoryCanonical s) : NextCanonical (execSessionClose m s) := by
  unfold execSessionClose
  refine .next (h.request (fun _ _ ht => ?_))
  split
  · exact ht.endSession
  · exact ht

theorem execHeartbeat_canonical {m} (h : MemoryCanonical s) : NextCanonical (execHeartbeat m s) := .next (h.request (fun _ _ ht => ht))

/-! ## The PCIe ports (R492, R500 to R504) -/

/-! ### Losing a port (R501) -/

theorem MemoryCanonical.clearWindows {p} (h : MemoryCanonical s) : MemoryCanonical (s.clearWindows p) :=
  .setR (h.foldl fun _ _ ht => ht.setR.setR)

theorem MemoryCanonical.loseQueue {q} (h : MemoryCanonical s) : MemoryCanonical (s.loseQueue q) := h.cancelRing.dropTxs

theorem MemoryCanonical.stopServing {p} (h : MemoryCanonical s) : MemoryCanonical (s.stopServing p) := h.foldl fun _ _ ht => ht.stopServe

theorem MemoryCanonical.endSessionsOn {p} (h : MemoryCanonical s) : MemoryCanonical (s.endSessionsOn p) := by
  unfold State.endSessionsOn
  refine h.foldl fun _ _ ht => ?_
  split
  · exact .ite ht.endSession ht
  · exact ht

theorem MemoryCanonical.resetPort {p cause} (h : MemoryCanonical s) : MemoryCanonical (s.resetPort p cause) := .ite h h.setPort

theorem MemoryCanonical.losePcie {p cause} (h : MemoryCanonical s) : MemoryCanonical (s.losePcie p cause) := by
  unfold State.losePcie
  extract_lets s₁ s₂ s₃ s₄ s₅ s₆
  have h₂ : MemoryCanonical s₂ := .ite h.setF.setF.setF h.setF.setF.setF.setF
  have h₄ : MemoryCanonical s₄ := h₂.resetPort.clearWindows.foldl fun _ _ ht => ht.loseQueue
  have h₆ : MemoryCanonical s₆ := h₄.stopServing.endSessionsOn.fault
  exact .ite h (.ite h₆.raise h₆)

theorem execPerstN_canonical {p} (h : MemoryCanonical s) : NextCanonical (execPerstN p s) := .next h.losePcie

theorem execFunctionLevelReset_canonical {p} (h : MemoryCanonical s) : NextCanonical (execFunctionLevelReset p s) := .next h.losePcie

theorem execSurpriseDown_canonical {p} (h : MemoryCanonical s) : NextCanonical (execSurpriseDown p s) := .next h.losePcie

theorem execD3hotEntry_canonical {p} (h : MemoryCanonical s) : NextCanonical (execD3hotEntry p s) := .next h.losePcie

/-! ### Return (R502) -/

theorem MemoryCanonical.killRings {p} (h : MemoryCanonical s) : MemoryCanonical (s.killRings p) := h.foldl fun _ _ ht => ht.setOutRing

theorem MemoryCanonical.reopenQueue {q} (h : MemoryCanonical s) : MemoryCanonical (s.reopenQueue q) := h.restartQueue.setQueue

theorem execPortReturn_canonical {p speed width} (h : MemoryCanonical s) : NextCanonical (execPortReturn p speed width s) :=
  .next (.ite (.killRings (h.setF.setF.setF.setPort.setF.foldl fun _ _ ht => ht.reopenQueue)) h.setF.setF.setF.setPort)

theorem execBusMasterDisable_canonical {p} (h : MemoryCanonical s) : NextCanonical (execBusMasterDisable p s) := .next h.setPort

theorem execBusMasterEnable_canonical {p} (h : MemoryCanonical s) : NextCanonical (execBusMasterEnable p s) := .next h.setPort

/-! ## Boot, power failure and warm restart -/

/-! ### Firmware images (R562, R563) -/

theorem MemoryCanonical.showFail {b code} (h : MemoryCanonical s) : MemoryCanonical (s.showFail b code) := h.setF

theorem MemoryCanonical.runImage {b} (h : MemoryCanonical s) : MemoryCanonical (s.runImage b) :=
  .extendMeas (.setF (.setF (.setR (.setF h))))

theorem MemoryCanonical.startLinks (h : MemoryCanonical s) : MemoryCanonical s.startLinks := h.foldl fun _ _ ht => .ite ht.setLinkState ht

theorem MemoryCanonical.startImage {disagree} (h : MemoryCanonical s) : MemoryCanonical (s.startImage disagree) :=
  .ite h.showFail.runImage.startLinks (.ite h.showFail.showFail.runImage.startLinks h.showFail.showFail.setF.setF)

theorem MemoryCanonical.bootRoms {disagree} (h : MemoryCanonical s) : MemoryCanonical (s.bootRoms disagree) :=
  h.setF.setF.extendMeas.extendMeas.startImage

theorem memoryCanonical_poweredOff : MemoryCanonical s.poweredOff := memoryCanonical_reset

theorem execPowerGood_canonical {slotId romDisagree} (h : MemoryCanonical s) : NextCanonical (execPowerGood slotId romDisagree s) :=
  .next (.bootRoms (.ite memoryCanonical_poweredOff h))

/-! ### Ready (R72, R164, R564) -/

theorem MemoryCanonical.firmwareValues (h : MemoryCanonical s) : MemoryCanonical s.firmwareValues := h.setF.setF.setF.setF.setF

theorem MemoryCanonical.columnMaps (h : MemoryCanonical s) : MemoryCanonical s.columnMaps := h.setF.setF

theorem memoryCanonical_zeroAll : MemoryCanonical s.zeroAll := rfl

theorem execDeviceReady_canonical {cal} (h : MemoryCanonical s) : NextCanonical (execDeviceReady cal s) :=
  .next (.ite h (.setF (.setF (.foldl (.firmwareValues (.ite memoryCanonical_zeroAll.columnMaps h)) fun _ _ ht => ht.putRecord))))

/-! ### Power failure (R511, R582) and the thermal trip (R587) -/

theorem MemoryCanonical.flushPort {p} (h : MemoryCanonical s) : MemoryCanonical (s.flushPort p) := by
  unfold State.flushPort
  extract_lets base t _ v
  have ht : MemoryCanonical t := h.foldl fun _ _ hx => hx.hostWrite
  have hv : MemoryCanonical v := .ite (ht.of_memory rfl) h
  exact .ite hv.raise hv

theorem MemoryCanonical.powerFail (h : MemoryCanonical s) : MemoryCanonical s.powerFail :=
  .ite h (.flushPort (.flushPort (.announce (.fault h))))

theorem execPwrfail_canonical (h : MemoryCanonical s) : NextCanonical (execPwrfail s) := .next h.powerFail

theorem MemoryCanonical.recordRail {rail} (h : MemoryCanonical s) : MemoryCanonical (s.recordRail rail) := h.setF.setF

theorem execRailUndervoltage_canonical {rail} (h : MemoryCanonical s) : NextCanonical (execRailUndervoltage rail s) :=
  .next (.ite h (.ite (.ite h.setF.recordRail h.setF) h.setF.recordRail.powerFail))

theorem execThermtrip_canonical (h : MemoryCanonical s) : NextCanonical (execThermtrip s) :=
  .next (.ite h h.setF.setF.requestVid.requestVid.setF.announce.fault.updateFloor)

/-! ### Warm restart (R537) -/

theorem MemoryCanonical.fenceRing {fuel q} (h : MemoryCanonical s) : MemoryCanonical (State.fenceRing fuel s q) := by
  induction fuel generalizing s with
  | zero => exact h
  | succ fuel ih =>
    unfold State.fenceRing
    split
    · exact h
    · exact .ite (ih h.headDone) h

theorem MemoryCanonical.fenceQueue {q} (h : MemoryCanonical s) : MemoryCanonical (s.fenceQueue q) :=
  .fenceRing (h.foldl fun _ _ ht => ht.finishFlight)

theorem MemoryCanonical.restarted (h : MemoryCanonical s) : MemoryCanonical s.restarted := memWf_filter _ h

theorem MemoryCanonical.fenceSelf (h : MemoryCanonical s) : MemoryCanonical s.fenceSelf := h.setF

theorem execWarmRestart_canonical (h : MemoryCanonical s) : NextCanonical (execWarmRestart s) :=
  .next (.ite h (.startImage (.setF (.restarted (.foldl (h.announce.fenceSelf.foldl fun _ _ ht => ht.fenceQueue)
    fun _ _ ht => ht.endSession)))))

/-! ## Recovery in service (R527 to R548) -/

/-! ### Calibration (R546 to R548) -/

theorem MemoryCanonical.updateDeferred (h : MemoryCanonical s) : MemoryCanonical s.updateDeferred := h.setF

theorem execCalValidityCheck_canonical (h : MemoryCanonical s) : NextCanonical (execCalValidityCheck s) :=
  .next (.ite (.updateDeferred (.foldl h fun _ _ ht => .ite ht ht.calStale)) h)

theorem MemoryCanonical.dequeueCal {kind element} (h : MemoryCanonical s) : MemoryCanonical (s.dequeueCal kind element) :=
  .updateDeferred (.setF h)

theorem MemoryCanonical.degradeMovers {k} (h : MemoryCanonical s) : MemoryCanonical (s.degradeMovers k) := h

theorem MemoryCanonical.recalChannel {element ok x} (h : MemoryCanonical s) : MemoryCanonical (s.recalChannel element ok x) :=
  .ite h.degradeMovers.dequeueCal.putRecord.count h.degradeMovers.dequeueCal.fault

theorem MemoryCanonical.recalibrate {kind element ok x} (h : MemoryCanonical s) : MemoryCanonical (s.recalibrate kind element ok x) :=
  .ite h.recalChannel (.ite (.ite h h.startRecal.dequeueCal) (.ite h (.ite h.dequeueCal.putRecord.count h.dequeueCal)))

theorem execRecalibration_canonical {kind element ok x} (h : MemoryCanonical s) : NextCanonical (execRecalibration kind element ok x s) :=
  .next (.ite h (.ite h.updateDeferred h.recalibrate))

/-! ### Column retirement (R530) -/

theorem MemoryCanonical.moveWindows {die p} (h : MemoryCanonical s) : MemoryCanonical (s.moveWindows die p) := h

theorem execColumnRetirement_canonical {die} (h : MemoryCanonical s) : NextCanonical (execColumnRetirement die s) := by
  unfold execColumnRetirement
  refine .next ?_
  split
  · exact h
  · exact .ite h (h.moveWindows.setF.endRecovery.foldl fun _ _ ht => ht.endRecovery)

/-! ### Saddle rows (R142, R532) -/

theorem execSaddleRowFailure_canonical {die row} (h : MemoryCanonical s) : NextCanonical (execSaddleRowFailure die row s) :=
  .next (.ite h (.ite (.beginRecovery h.fault) h.fault))

theorem execSaddleSpare_canonical {die row} (h : MemoryCanonical s) : NextCanonical (execSaddleSpare die row s) :=
  .next (.ite h (.ite (.ite h (.count (.setF h))) (.endRecovery (.ite h (.count (.setF h))))))

/-! ### HBM channels (R534, R535) -/

theorem execHbmChannelRemap_canonical {die} (h : MemoryCanonical s) : NextCanonical (execHbmChannelRemap die s) := by
  unfold execHbmChannelRemap
  refine .next (.ite h ?_)
  split
  · exact h
  · exact h.setF.setF.endRecovery

/-! ## The messages of the sideband (R505 to R507, R549, R562 to R568) -/

/-! ### MCTP control (R505) -/

theorem execEntdaa_canonical {address} (h : MemoryCanonical s) : NextCanonical (execEntdaa address s) := .next h

theorem MemoryCanonical.control {i command data} {f : State → State} (h : MemoryCanonical s)
    (hf : ∀ t, MemoryCanonical t → MemoryCanonical (f t)) : MemoryCanonical (s.control i command f data) := by
  unfold State.control
  refine .ite h ?_
  split
  · exact h.count
  · next e => exact (hf _ (h.takeAllowance e)).emit

theorem execSetEndpointId_canonical {transport eid} (h : MemoryCanonical s) : NextCanonical (execSetEndpointId transport eid s) :=
  .next (h.control (fun _ ht => ht))

theorem execGetEndpointId_canonical {transport} (h : MemoryCanonical s) : NextCanonical (execGetEndpointId transport s) :=
  .next (h.control fun _ ht => ht)

theorem execGetMctpVersionSupport_canonical {transport} (h : MemoryCanonical s) : NextCanonical (execGetMctpVersionSupport transport s) :=
  .next (h.control fun _ ht => ht)

theorem execGetMessageTypeSupport_canonical {transport} (h : MemoryCanonical s) : NextCanonical (execGetMessageTypeSupport transport s) :=
  .next (h.control fun _ ht => ht)

theorem execGetVendorDefinedMessageSupport_canonical {transport} (h : MemoryCanonical s) :
    NextCanonical (execGetVendorDefinedMessageSupport transport s) :=
  .next (h.control fun _ ht => ht)

/-! ### Reading (R507) -/

theorem execGetInfo_canonical {m opcode payload} (h : MemoryCanonical s) : NextCanonical (execGetInfo m opcode payload s) :=
  .next (.ite (h.request (fun _ _ ht => ht)) (.ite h (h.request (fun _ _ ht => ht))))

theorem execRegRead_canonical {m offsets} (h : MemoryCanonical s) : NextCanonical (execRegRead m offsets s) :=
  .next (h.request (fun _ _ ht => .iteFst ht (ht.foldl fun _ _ hu => hu.readEffect)))

theorem execRegWrite_canonical {m offset value} (h : MemoryCanonical s) : NextCanonical (execRegWrite m offset value s) := by
  unfold execRegWrite
  refine .next (h.request (fun _ _ ht => ?_))
  split
  · exact ht
  · exact .iteFst ht.directWrite ht

theorem execFaultLog_canonical {m index} (h : MemoryCanonical s) : NextCanonical (execFaultLog m index s) :=
  .next (h.request (fun _ _ ht => .iteFst ht ht))

theorem execTelemetry_canonical {m} (h : MemoryCanonical s) : NextCanonical (execTelemetry m s) := .next (h.request (fun _ _ ht => ht))

/-! ### Transactions of a session (R66 to R70, R507) -/

theorem execMgmtTxBegin_canonical {m scope timeout} (h : MemoryCanonical s) : NextCanonical (execMgmtTxBegin m scope timeout s) :=
  .next (h.request (fun _ _ ht => .iteFst ht (.iteFst ht ht.openTx)))

theorem MemoryCanonical.stageAll {m xs} (h : MemoryCanonical s) : MemoryCanonical (State.stageAll m xs s).1 := by
  induction xs generalizing s with
  | nil => exact h
  | cons x xs ih =>
    unfold State.stageAll
    split
    · exact h
    · split
      · exact h
      · next e => exact ih (h.stageSet e)

theorem execTxSet_canonical {m entries} (h : MemoryCanonical s) : NextCanonical (execTxSet m entries s) := by
  unfold execTxSet
  refine .next (h.request (fun _ _ ht => ?_))
  split
  · exact ht
  · exact .iteFst ht (.iteFst ht ht.stageAll)

theorem execMgmtTxCommit_canonical {m} (h : MemoryCanonical s) : NextCanonical (execMgmtTxCommit m s) := by
  refine .next (h.request fun t r ht => ?_)
  split
  · exact ht
  · refine .iteFst ht ?_
    split
    · next e => exact ht.beginCommit_stop e
    · next e => exact ht.beginCommit e

theorem execMgmtTxAbort_canonical {m} (h : MemoryCanonical s) : NextCanonical (execMgmtTxAbort m s) := by
  unfold execMgmtTxAbort
  refine .next (h.request (fun _ _ ht => ?_))
  split
  · exact ht
  · exact ht.rollback

/-! ### Attestation (R568) -/

theorem MemoryCanonical.sendParts {fuel m y bs} (h : MemoryCanonical s) : MemoryCanonical (State.sendParts fuel s m y bs) := by
  induction fuel generalizing s bs with
  | zero => exact h
  | succ fuel ih => exact .ite (ih h.mgmtSend) h.mgmtSend

theorem execAttest_canonical {m nonce} (h : MemoryCanonical s) : NextCanonical (execAttest m nonce s) := by
  unfold execAttest
  refine .next (h.request (fun _ _ ht => .iteFst ht ?_))
  split
  · exact ht
  · exact ht.drawn.sendParts

/-! ### Firmware (R549, R561, R562, R565, R566) -/

theorem execFwStage_canonical {m offset bytes} (h : MemoryCanonical s) : NextCanonical (execFwStage m offset bytes s) :=
  .next (h.request (fun _ _ ht => .iteFst ht (.iteFst ht ht)))

theorem MemoryCanonical.markActive {b} (h : MemoryCanonical s) : MemoryCanonical (s.markActive b) := .extendMeas (.setF h)

theorem execFwActivate_canonical {m} (h : MemoryCanonical s) : NextCanonical (execFwActivate m s) :=
  .next (h.request (fun _ _ ht => .iteFst ht (.iteFst ht.showFail (.iteFst ht.showFail.markActive.bootRoms
    (.iteFst ht.showFail (.setF (.setF ht)))))))

theorem MemoryCanonical.answerRoll {m status} (h : MemoryCanonical s) : MemoryCanonical (s.answerRoll m status) := by
  unfold State.answerRoll
  split
  · exact h.sessionAnswer
  · exact h

theorem MemoryCanonical.endRoll {code} (h : MemoryCanonical s) : MemoryCanonical (s.endRoll code) := h

theorem execFwCoreReady_canonical {core} (h : MemoryCanonical s) : NextCanonical (execFwCoreReady core s) := by
  unfold execFwCoreReady
  refine .next ?_
  split
  · exact h
  · exact .ite h (.ite h (.answerRoll (.endRoll h)))

theorem execFwCoreTimeout_canonical {core} (h : MemoryCanonical s) : NextCanonical (execFwCoreTimeout core s) := by
  unfold execFwCoreTimeout
  refine .next ?_
  split
  · exact h
  · exact .ite h h.setF.endRoll.fault.drawn.answerRoll

/-! ### Calibration (R507, R548) -/

theorem execCalCtrl_canonical {m kind element} (h : MemoryCanonical s) : NextCanonical (execCalCtrl m kind element s) :=
  .next (h.request (fun _ _ ht => .iteFst (.iteFst ht.queueCal ht) (.iteFst (.iteFst ht.queueCal ht) ht)))

end Sys2Proof.Machine

end

section
/-! Memory in canonical form, continued: ticks (R28, R161, R197) and what follows. -/

namespace Sys2Proof.Machine

open Sys2Proof.Laws

variable {s : State}

/-! ## Ticks (R28, R161, R197) -/

theorem MemoryCanonical.countSteps {d} (h : MemoryCanonical s) : MemoryCanonical (s.countSteps d) := h.foldl fun _ _ ht => .ite ht.setRun ht

theorem MemoryCanonical.countWaits {d} (h : MemoryCanonical s) : MemoryCanonical (s.countWaits d) :=
  h.foldl fun _ _ ht => .ite (ht.foldl fun _ _ hu => .ite hu.countWrap hu) ht

theorem MemoryCanonical.pumpRings (h : MemoryCanonical s) : MemoryCanonical s.pumpRings := h.foldl fun _ _ ht => ht.ringPump

theorem MemoryCanonical.settleTick (h : MemoryCanonical s) : MemoryCanonical s.settleTick :=
  h.settleStops.settleNotices.settleTraps.settleCommits

theorem MemoryCanonical.passTick (h : MemoryCanonical s) : MemoryCanonical s.passTick :=
  .ite h.tickOnce h.settleTick.tickOnce.countSteps.countWaits.pumpRings

theorem execTimebaseSlew_canonical (h : MemoryCanonical s) : NextCanonical (execTimebaseSlew s) := .next (.ite h.passTick h)

/-! ## Every command and every step -/

theorem exec_canonical {i} (h : MemoryCanonical s) : NextCanonical (exec i s) := by
  unfold exec
  split
  · exact execPowerGood_canonical h
  · exact execDeviceReady_canonical h
  · exact execPwrfail_canonical h
  · exact execRailUndervoltage_canonical h
  · exact execThermtrip_canonical h
  · exact execGovernorPeriod_canonical h
  · exact execCurrentLimit_canonical h
  · exact execCurrentCeilingExpiry_canonical h
  · exact execRateWindow_canonical h
  · exact execMarginEvent_canonical h
  · exact execTimebaseLock_canonical h
  · exact execTimerefLoss_canonical h
  · exact execSourcePresent_canonical h
  · exact execSourceRetake_canonical h
  · exact execComparatorFire_canonical h
  · exact execWindowWrite_canonical h
  · exact execSeal_canonical h
  · exact execNop_canonical h
  · exact execFenceSignal_canonical h
  · exact execFenceWait_canonical h
  · exact execWaitSatisfied_canonical h
  · exact execWaitTimeout_canonical h
  · exact execIrqDelayExpiry_canonical h
  · exact execTxBegin_canonical h
  · exact execTxCommit_canonical h
  · exact execOrderingPoint_canonical h
  · exact execCommitTimeout_canonical h
  · exact execTxAbort_canonical h
  · exact execSet_canonical h
  · exact execGet_canonical h
  · exact execCastStage_canonical h
  · exact execCastStageComplete_canonical h
  · exact execCastSwitch_canonical h
  · exact execCastSwap_canonical h
  · exact execCastRun_canonical h
  · exact execCastEvict_canonical h
  · exact execDaleZeroingComplete_canonical h
  · exact execMove_canonical h
  · exact execFill_canonical h
  · exact execMap_canonical h
  · exact execUnmap_canonical h
  · exact execCoreRun_canonical h
  · exact execCoreRunTimeout_canonical h
  · exact execReqAdmit_canonical h
  · exact execReqCancel_canonical h
  · exact execServeStart_canonical h
  · exact execReqQuery_canonical h
  · exact execRingRun_canonical h
  · exact execPlan_canonical h
  · exact execDispatch_canonical h
  · exact execRouteReturn_canonical h
  · exact execRouteLimit_canonical h
  · exact execSorterGrant_canonical h
  · exact execAllReduce_canonical h
  · exact execReduceScatter_canonical h
  · exact execAllGather_canonical h
  · exact execBroadcast_canonical h
  · exact execAllToAll_canonical h
  · exact execBarrier_canonical h
  · exact execOrderTimeout_canonical h
  · exact execLagLimit_canonical h
  · exact execSlotFiring_canonical h
  · exact execTokenDelivery_canonical h
  · exact execCreditReturn_canonical h
  · exact execSteer_canonical h
  · exact execJoin_canonical h
  · exact execTaskSwitch_canonical h
  · exact execCastStepEnd_canonical h
  · exact execStallLimit_canonical h
  · exact execStepLimit_canonical h
  · exact execCuEnd_canonical h
  · exact execCuNext_canonical h
  · exact execCuJmp_canonical h
  · exact execCuBfirst_canonical h
  · exact execCuSetl_canonical h
  · exact execCuLoop_canonical h
  · exact execCuMm_canonical h
  · exact execMmComplete_canonical h
  · exact execCuLdb_canonical h
  · exact execCuLds_canonical h
  · exact execCuStb_canonical h
  · exact execCuSts_canonical h
  · exact execCuDrain_canonical h
  · exact execCuBload_canonical h
  · exact execCuAdd_canonical h
  · exact execCuMul_canonical h
  · exact execCuFma_canonical h
  · exact execCuExp2_canonical h
  · exact execCuRcp_canonical h
  · exact execCuRsqrt_canonical h
  · exact execCuMax_canonical h
  · exact execCuCmp_canonical h
  · exact execCuSel_canonical h
  · exact execCuCvt_canonical h
  · exact execCuRed_canonical h
  · exact execCuRowsum_canonical h
  · exact execCuMov_canonical h
  · exact execCuMovi_canonical h
  · exact execCuSend_canonical h
  · exact execAffRead_canonical h
  · exact execAffWrite_canonical h
  · exact execAffAdd_canonical h
  · exact execListFetch_canonical h
  · exact execListStore_canonical h
  · exact execMuSync_canonical h
  · exact execAgEnd_canonical h
  · exact execPatrolScrub_canonical h
  · exact execHeatEpoch_canonical h
  · exact execMigrationPromote_canonical h
  · exact execMigrationDemote_canonical h
  · exact execMigrationSwitch_canonical h
  · exact execFzFread_canonical h
  · exact execFzFwait_canonical h
  · exact execFzFwaitReturn_canonical h
  · exact execFzFsig_canonical h
  · exact execFzFadd_canonical h
  · exact execFzSeal_canonical h
  · exact execFzXlate_canonical h
  · exact execFzExit_canonical h
  · exact execFzPack_canonical h
  · exact execFzUnpack_canonical h
  · exact execCoreInstruction_canonical h
  · exact execCoreTrap_canonical h
  · exact execBatchFormation_canonical h
  · exact execDraftPass_canonical h
  · exact execSamplerPass_canonical h
  · exact execCommitPoint_canonical h
  · exact execFeedRecord_canonical h
  · exact execRangeRelease_canonical h
  · exact execStepWord_canonical h
  · exact execRingFeed_canonical h
  · exact execRingStall_canonical h
  · exact execRingSetup_canonical h
  · exact execRingBlock_canonical h
  · exact execRingGrant_canonical h
  · exact execRingAck_canonical h
  · exact execRingAbort_canonical h
  · exact execRouteRow_canonical h
  · exact execRouteEnd_canonical h
  · exact execCollStep_canonical h
  · exact execCollCredit_canonical h
  · exact execRead_canonical h
  · exact execReadData_canonical h
  · exact execWrite_canonical h
  · exact execWriteAck_canonical h
  · exact execAtomic_canonical h
  · exact execAtomicData_canonical h
  · exact execTilePut_canonical h
  · exact execTileAck_canonical h
  · exact execRingPutResend_canonical h
  · exact execRmTimeout_canonical h
  · exact execFaultNotice_canonical h
  · exact execGoingDown_canonical h
  · exact execUnreachable_canonical h
  · exact execPData_canonical h
  · exact execPWack_canonical h
  · exact execPlainTimeout_canonical h
  · exact execFlit_canonical h
  · exact execLightDetected_canonical h
  · exact execLightLoss_canonical h
  · exact execTuningLoop_canonical h
  · exact execRingLockLost_canonical h
  · exact execRingsLocked_canonical h
  · exact execPatternDetected_canonical h
  · exact execCodewordLock_canonical h
  · exact execIdent_canonical h
  · exact execIdentRetry_canonical h
  · exact execCredit_canonical h
  · exact execTrainingTimeout_canonical h
  · exact execDrainComplete_canonical h
  · exact execRecalComplete_canonical h
  · exact execPortLost_canonical h
  · exact execLaserLow_canonical h
  · exact execCalValidityCheck_canonical h
  · exact execRecalibration_canonical h
  · exact execColumnRetirement_canonical h
  · exact execSaddleSpare_canonical h
  · exact execHbmChannelRemap_canonical h
  · exact execWarmRestart_canonical h
  · exact execFwCoreReady_canonical h
  · exact execFwCoreTimeout_canonical h
  · exact execPerstN_canonical h
  · exact execFunctionLevelReset_canonical h
  · exact execSurpriseDown_canonical h
  · exact execD3hotEntry_canonical h
  · exact execPortReturn_canonical h
  · exact execBusMasterDisable_canonical h
  · exact execApertureAccess_canonical h
  · exact execMsixUnmask_canonical h
  · exact execRegisterWrite_canonical h
  · exact execGlbTimeLowRead_canonical h
  · exact execGlbMarginRead_canonical h
  · exact execFabSaddleStatRead_canonical h
  · exact execAltLinkFecRead_canonical h
  · exact execWsuSortStatRead_canonical h
  · exact execFltLogRead_canonical h
  · exact execGlbHwinSizeRead_canonical h
  · exact execGlbHwinWrite_canonical h
  · exact execGlbApertureWrite_canonical h
  · exact execGlbCmpCtrlWrite_canonical h
  · exact execQeQCqWrite_canonical h
  · exact execQeQCqHeadWrite_canonical h
  · exact execSrvOutHeadWrite_canonical h
  · exact execFltNanInfoWrite_canonical h
  · exact execTrCcacheUnpin_canonical h
  · exact execSrvKvPush_canonical h
  · exact execKvListDrain_canonical h
  · exact execStop_canonical h
  · exact execPromote_canonical h
  · exact execPromoteNow_canonical h
  · exact execRecal_canonical h
  · exact execFullSearch_canonical h
  · exact execEntdaa_canonical h
  · exact execSetEndpointId_canonical h
  · exact execGetEndpointId_canonical h
  · exact execGetMctpVersionSupport_canonical h
  · exact execGetMessageTypeSupport_canonical h
  · exact execGetVendorDefinedMessageSupport_canonical h
  · exact execGetInfo_canonical h
  · exact execSessionOpen_canonical h
  · exact execSessionAuth_canonical h
  · exact execSessionClose_canonical h
  · exact execHeartbeat_canonical h
  · exact execRegRead_canonical h
  · exact execRegWrite_canonical h
  · exact execMgmtTxBegin_canonical h
  · exact execTxSet_canonical h
  · exact execMgmtTxCommit_canonical h
  · exact execMgmtTxAbort_canonical h
  · exact execFaultLog_canonical h
  · exact execTelemetry_canonical h
  · exact execAttest_canonical h
  · exact execFwStage_canonical h
  · exact execFwActivate_canonical h
  · exact execCalCtrl_canonical h
  · exact execSessionTimeout_canonical h
  · exact execSessionExpiry_canonical h
  · exact execNonceExpiry_canonical h
  · exact execLockoutEnd_canonical h
  · exact execTimebaseSlew_canonical h
  · exact execDataMoverDone_canonical h
  · exact execSortComplete_canonical h
  · exact execSaddleRowFailure_canonical h
  · exact execLaserInputRestored_canonical h
  · exact execBusMasterEnable_canonical h

end Sys2Proof.Machine

end

section
/-! Memory in canonical form: from each command to each step, and from reset on. -/

namespace Sys2Proof.Proofs

open Sys2Proof.Machine Sys2Proof.Laws

theorem memoryCanonical_of_nextCanonical {o : Host.Outcome State Fault Refusal} {t : State} (h : NextCanonical o) (e : o = .next t) :
    MemoryCanonical t :=
  (e ▸ h).memory

theorem step_canonical {s : State} (h : MemoryCanonical s) : NextCanonical (step s) := by
  unfold step
  split
  · exact .next h.passTick
  · exact exec_canonical h

/-- Settles O58: a tick keeps the memory in canonical form, and so does every command. -/
theorem memoryStaysCanonical : Obligations.MemoryStaysCanonical := by
  unfold Obligations.MemoryStaysCanonical
  exact fun s t h e => memoryCanonical_of_nextCanonical (step_canonical h) e

/-- Settles O59: no byte is listed at reset. -/
theorem memoryIsCanonicalAtReset : Obligations.MemoryIsCanonicalAtReset := by
  unfold Obligations.MemoryIsCanonicalAtReset
  exact memoryCanonical_reset

end Sys2Proof.Proofs

end

section
/-! The slots of the Dales (R114, R116): what a swap and a move leave in them. -/

namespace Sys2Proof.Proofs

open Sys2Proof.Machine Sys2Proof.Laws

/-! ## Folds -/

/-- A fold leaves what each of its steps leaves. -/
theorem foldl_frame {α β γ : Type} (g : β → γ) {f : β → α → β} (h : ∀ t x, g (f t x) = g t) (l : List α) (s : β) :
    g (l.foldl f s) = g s :=
  List.foldlRecOn (motive := fun t => g t = g s) l f rfl fun t ht x _ => (h t x).trans ht

theorem mget_foldl_mset {α : Type} (v : α) (ds : List Nat) (m : SMap α) (k : Nat) :
    mget (ds.foldl (fun m d => mset m d v) m) k = if k ∈ ds then some v else mget m k := by
  induction ds generalizing m with
  | nil => simp
  | cons d ds ih =>
    rw [List.foldl_cons, ih]
    by_cases hd : d = k
    · subst hd
      simp
    · simp [mget_mset_ne m v hd, Ne.symm hd]

theorem mem_sinsert_self (l : List Nat) (k : Nat) : k ∈ sinsert l k := by
  induction l with
  | nil => simp [sinsert]
  | cons a t ih =>
    unfold sinsert
    split
    · simp_all
    · split
      · simp
      · exact List.mem_cons_of_mem a ih

/-! ## The slots -/

theorem activeSlot_setActive (s : State) (ds : List Nat) (x : DaleSlot) (d : Nat) :
    (s.setActive ds x).activeSlot d = if d ∈ ds then x else s.activeSlot d := by
  unfold State.activeSlot State.setActive
  dsimp only
  rw [mgetD, mget_foldl_mset]
  split <;> rfl

theorem standbySlot_setStandby (s : State) (ds : List Nat) (x : DaleSlot) (d : Nat) :
    (s.setStandby ds x).standbySlot d = if d ∈ ds then x else s.standbySlot d := by
  unfold State.standbySlot State.setStandby
  dsimp only
  rw [mgetD, mget_foldl_mset]
  split <;> rfl

theorem foldl_setActive (x : DaleSlot) (ds : List Nat) (s : State) :
    ds.foldl (fun s d => s.setActive [d] x) s = s.setActive ds x := by
  induction ds generalizing s with
  | nil => rfl
  | cons d ds ih => exact ih _

/-- Standby slots that are set one Dale after the other, each from what no standby slot changes. -/
theorem standbySlot_foldl {w : State → Nat → DaleSlot} (hw : ∀ t a y d, w (t.setStandby [a] y) d = w t d) (ds : List Nat) (s : State)
    (d : Nat) : (ds.foldl (fun s d => s.setStandby [d] (w s d)) s).standbySlot d = if d ∈ ds then w s d else s.standbySlot d := by
  induction ds generalizing s with
  | nil => rfl
  | cons a ds ih =>
    rw [List.foldl_cons, ih, hw, standbySlot_setStandby]
    by_cases hd : d ∈ ds
    · simp [hd]
    · by_cases ha : d = a
      · simp [ha]
      · simp [hd, ha]

@[simp] theorem refreshSaddle_casts (s : State) (b : Bool) : (s.refreshSaddle b).casts = s.casts := by
  cases b <;> rfl

@[simp] theorem refreshSaddle_memory (s : State) (b : Bool) : (s.refreshSaddle b).memory = s.memory := by
  cases b <;> rfl

@[simp] theorem refreshSaddle_queues (s : State) (b : Bool) : (s.refreshSaddle b).queues = s.queues := by
  cases b <;> rfl

theorem sameRegs_refreshSaddle {s t : State} (h : SameRegsBut s t [R.FAB_SADDLE_STAT.at]) (b : Bool) :
    SameRegsBut s (t.refreshSaddle b) [R.FAB_SADDLE_STAT.at] := by
  have hm (x : Field) (hx : x.reg = R.FAB_SADDLE_STAT) : x.reg.at ∈ [R.FAB_SADDLE_STAT.at] := by simp [hx]
  unfold State.refreshSaddle
  refine sameRegs_setF ?_ _ _ _ _ (hm _ rfl)
  split
  · exact sameRegs_setF (sameRegs_setF (sameRegs_setF h _ _ _ _ (hm _ rfl)) _ _ _ _ (hm _ rfl)) _ _ _ _ (hm _ rfl)
  · exact h

theorem sameRegs_fabric {s t : State} {offs : List Nat} (h : SameRegsBut s t offs) (f : FabricSt) :
    SameRegsBut s { t with fabric := f } offs := h

/-! ## A swap (R114) -/

/-- The standby slot that what was active leaves behind, under the cast `c` that takes its place. -/
def swappedOut (c : CastRef) (s : State) (x : DaleSlot) : DaleSlot :=
  if x.state = .empty then .empty
  else { state := if footprintsMeet c.header (s.castRef x.cast).header then .deferred else .ready, cast := x.cast }

/-- The slots of the Dales `ds` after a swap to cast `k`. -/
def swapped (s : State) (ds : List Nat) (k : Nat) : State :=
  ds.foldl (fun t d => t.setStandby [d] (swappedOut (s.castRef k) t (s.activeSlot d))) (s.setActive ds { state := .ready, cast := k })

theorem swapped_eq (s : State) (ds : List Nat) (k : Nat) :
    (ds.map fun d => (d, s.activeSlot d)).foldl (fun t x => t.setStandby [x.1] (swappedOut (s.castRef k) t x.2))
      (ds.foldl (fun t d => t.setActive [d] { state := .ready, cast := k }) s) = swapped s ds k := by
  rw [List.foldl_map, foldl_setActive]
  rfl

theorem swapSlots_eq (s : State) (first count k : Nat) : ∃ (f : FabricSt) (b : Bool),
    s.swapSlots first count k = State.refreshSaddle { swapped s ((List.range count).map (first + ·)) k with fabric := f } b := by
  rw [← swapped_eq]
  exact ⟨_, _, rfl⟩

theorem swapped_frame {γ : Type} (g : State → γ) (hg : ∀ t ds x, g (State.setStandby t ds x) = g t) (s : State) (ds : List Nat) (k : Nat) :
    g (swapped s ds k) = g (s.setActive ds { state := .ready, cast := k }) :=
  foldl_frame g (f := fun t d => t.setStandby [d] (swappedOut (s.castRef k) t (s.activeSlot d))) (fun _ _ => hg ..) ds _

theorem activeSlot_swapped (s : State) (ds : List Nat) (k d : Nat) :
    (swapped s ds k).activeSlot d = if d ∈ ds then { state := .ready, cast := k } else s.activeSlot d :=
  (swapped_frame (State.activeSlot · d) (fun _ _ _ => rfl) s ds k).trans (activeSlot_setActive ..)

theorem standbySlot_swapped (s : State) (ds : List Nat) (k d : Nat) :
    (swapped s ds k).standbySlot d = if d ∈ ds then swappedOut (s.castRef k) s (s.activeSlot d) else s.standbySlot d :=
  standbySlot_foldl (w := fun t d => swappedOut (s.castRef k) t (s.activeSlot d)) (fun _ _ _ _ => rfl) _ _ _

theorem swapped_memory (s : State) (ds : List Nat) (k : Nat) : (swapped s ds k).memory = s.memory :=
  swapped_frame State.memory (fun _ _ _ => rfl) s ds k

theorem swapped_queues (s : State) (ds : List Nat) (k : Nat) : (swapped s ds k).queues = s.queues :=
  swapped_frame State.queues (fun _ _ _ => rfl) s ds k

theorem swapped_regs (s : State) (ds : List Nat) (k : Nat) : (swapped s ds k).regs = s.regs :=
  swapped_frame State.regs (fun _ _ _ => rfl) s ds k

theorem mem_dales (first count d : Nat) : d ∈ (List.range count).map (first + ·) ↔ first ≤ d ∧ d < first + count := by
  simp only [List.mem_map, List.mem_range]
  constructor
  · rintro ⟨i, hi, rfl⟩
    omega
  · rintro ⟨h₁, h₂⟩
    exact ⟨d - first, by omega, by omega⟩

theorem activeSlot_swapSlots (s : State) (first count k d : Nat) : (s.swapSlots first count k).activeSlot d =
    if first ≤ d ∧ d < first + count then { state := .ready, cast := k } else s.activeSlot d := by
  obtain ⟨f, b, e⟩ := swapSlots_eq s first count k
  rw [e]
  unfold State.activeSlot
  rw [refreshSaddle_casts]
  exact (activeSlot_swapped s _ k d).trans (by simp only [mem_dales]; rfl)

theorem standbySlot_swapSlots (s : State) (first count k d : Nat) : (s.swapSlots first count k).standbySlot d =
    if first ≤ d ∧ d < first + count then swappedOut (s.castRef k) s (s.activeSlot d) else s.standbySlot d := by
  obtain ⟨f, b, e⟩ := swapSlots_eq s first count k
  rw [e]
  unfold State.standbySlot
  rw [refreshSaddle_casts]
  exact (standbySlot_swapped s _ k d).trans (by simp only [mem_dales]; rfl)

theorem swapSlots_memory (s : State) (first count k : Nat) : (s.swapSlots first count k).memory = s.memory := by
  obtain ⟨f, b, e⟩ := swapSlots_eq s first count k
  rw [e, refreshSaddle_memory]
  exact swapped_memory ..

theorem swapSlots_queues (s : State) (first count k : Nat) : (s.swapSlots first count k).queues = s.queues := by
  obtain ⟨f, b, e⟩ := swapSlots_eq s first count k
  rw [e, refreshSaddle_queues]
  exact swapped_queues ..

theorem sameRegs_swapSlots (s : State) (first count k : Nat) : SameRegsBut s (s.swapSlots first count k) [R.FAB_SADDLE_STAT.at] := by
  obtain ⟨f, b, e⟩ := swapSlots_eq s first count k
  rw [e]
  exact sameRegs_refreshSaddle (sameRegs_fabric (sameRegs_congr (t := s) (fun _ _ => rfl) (swapped_regs s _ k)) f) b

/-! ## A Dale that moves (R116, R599) -/

theorem memGet_filter (m : SMap Byte) (p : Nat → Bool) {a : Nat} (h : p a = false) : memGet (m.filter fun x => p x.1) a = 0 := by
  rw [memGet, mgetD, mget_filter p m a, h]
  rfl

theorem byte_zero (s : State) {a n c : Nat} (h₁ : a ≤ c) (h₂ : c < a + n) (hp : regionOf c ≠ .plain) : (s.zero a n).byte c = 0 := by
  unfold State.byte
  rw [if_neg hp]
  exact memGet_filter s.memory.mem (fun b => !(decide (a ≤ b) && decide (b < a + n))) (by simp [h₁, h₂])

theorem zero_casts (s : State) (a n : Nat) : (s.zero a n).casts = s.casts := rfl

theorem unitsOf_one (a : Nat) : unitsOf a 1 = [a / 64] := by
  simp [unitsOf]

theorem poisoned_zero (s : State) {a n c : Nat} (h₁ : a ≤ 64 * (c / 64)) (h₂ : 64 * (c / 64) + 64 ≤ a + n) :
    (s.zero a n).poisoned c 1 = false := by
  simp [State.poisoned, unitsOf_one, State.zero, h₁, h₂]

theorem standbySlot_evictStandby (s : State) (d : Nat) : (s.evictStandby [d]).standbySlot d = .empty :=
  (standbySlot_setStandby _ _ _ _).trans (if_pos (List.mem_singleton_self d))

theorem activeSlot_evictActive (s : State) (d : Nat) : (s.evictActive [d]).activeSlot d = .empty := by
  unfold State.activeSlot State.evictActive
  rw [refreshSaddle_casts]
  exact (activeSlot_setActive s [d] .empty d).trans (if_pos (List.mem_singleton_self d))

theorem standbySlot_evictActive (s : State) (ds : List Nat) (d : Nat) : (s.evictActive ds).standbySlot d = s.standbySlot d := by
  unfold State.standbySlot State.evictActive
  rw [refreshSaddle_casts]
  rfl

/-- The registers of the units of a Dale that moves, as it leaves them. -/
def freshUnit (s : State) (u : Nat) : State :=
  let w := s.unitWindow u
  let s := [R.CU_MM_FIRINGS, R.CU_VEC_ISSUES, R.CU_SWITCHES, R.CU_WAIT_TICKS, R.CU_ECC, R.MU_READ_LINES, R.MU_WRITE_LINES,
    R.MU_BANK_WAITS, R.MU_PAD_LINES, R.MU_TLB_MISSES, R.MU_ECC].foldl (fun s x => s.setR x 0 w) s
  (List.range 4).foldl (fun s r => s.setR R.MU_RING_OWN 0 w r) (s.setR R.MU_WRITE_LINES 16384 w)

theorem freshUnit_frame {γ : Type} (g : State → γ) (hg : ∀ t x v i j, g (State.setR t x v i j) = g t) (s : State) (u : Nat) :
    g (freshUnit s u) = g s := by
  unfold freshUnit
  dsimp only
  rw [foldl_frame g (fun _ _ => hg ..), hg, foldl_frame g (fun _ _ => hg ..)]

theorem moveDale_eq (s : State) (d : Nat) : ∃ (f : FabricSt) (g : FrameSt), s.moveDale d =
    ((List.range 32).map (32 * d + ·)).foldl freshUnit (State.zero { ((s.evictStandby [d]).evictActive [d]) with
      casts := { ((s.evictStandby [d]).evictActive [d]).casts with
        zeroing := sinsert ((s.evictStandby [d]).evictActive [d]).casts.zeroing d }
      fabric := f, frames := g } (terraceOf (32 * d)) 0x2000000) := by
  unfold State.moveDale
  exact ⟨_, _, rfl⟩

theorem byte_congr {s t : State} (h : s.memory = t.memory) (a : Nat) : s.byte a = t.byte a := by
  unfold State.byte
  rw [h]

theorem poisoned_congr {s t : State} (h : s.memory = t.memory) (a n : Nat) : s.poisoned a n = t.poisoned a n := by
  unfold State.poisoned
  rw [h]

theorem regionOf_terrace {a : Nat} (h : a < 0x40000000) : regionOf a = .terrace := if_pos h

theorem moveDale_reads_zero (s : State) {d a : Nat} (hd : d < 32) (h₁ : 0x2000000 * d ≤ a) (h₂ : a < 0x2000000 * (d + 1)) :
    (s.moveDale d).byte a = 0 ∧ (s.moveDale d).poisoned a 1 = false := by
  obtain ⟨f, g, e⟩ := moveDale_eq s d
  have hr : regionOf a ≠ .plain := by
    rw [regionOf_terrace (by omega)]
    decide
  have hm := foldl_frame State.memory (freshUnit_frame State.memory fun _ _ _ _ _ => rfl)
  rw [e, byte_congr (hm _ _), poisoned_congr (hm _ _), terraceOf]
  exact ⟨byte_zero _ (by omega) (by omega) hr, poisoned_zero _ (by omega) (by omega)⟩

theorem moveDale_slots (s : State) (d : Nat) : d ∈ (s.moveDale d).casts.zeroing ∧ (s.moveDale d).activeSlot d = .empty ∧
    (s.moveDale d).standbySlot d = .empty := by
  obtain ⟨f, g, e⟩ := moveDale_eq s d
  have ha := activeSlot_evictActive (s.evictStandby [d]) d
  have hs := (standbySlot_evictActive (s.evictStandby [d]) [d] d).trans (standbySlot_evictStandby s d)
  rw [e, State.activeSlot, State.standbySlot, foldl_frame State.casts (freshUnit_frame State.casts fun _ _ _ _ _ => rfl), zero_casts]
  exact ⟨mem_sinsert_self _ d, ha, hs⟩

/-- Settles O14: a swap sets the slots of its Dales and no others; a Dale that moves is zeroed and its slots are emptied. -/
theorem castSlotsChangeTogether : Obligations.CastSlotsChangeTogether := by
  unfold Obligations.CastSlotsChangeTogether
  refine ⟨fun s first count k => ⟨fun d h₁ h₂ => ?_, fun d hd => ?_, swapSlots_memory .., swapSlots_queues .., sameRegs_swapSlots s first count k⟩,
    fun s d hd => ⟨fun a h₁ h₂ => moveDale_reads_zero s hd h₁ h₂, ?_⟩⟩
  · rw [activeSlot_swapSlots, standbySlot_swapSlots, if_pos ⟨h₁, h₂⟩, if_pos ⟨h₁, h₂⟩]
    exact ⟨rfl, rfl⟩
  · rw [activeSlot_swapSlots, standbySlot_swapSlots, if_neg (by omega), if_neg (by omega)]
    exact ⟨rfl, rfl⟩
  · obtain ⟨hz, ha, hs⟩ := moveDale_slots s d
    rw [ha, hs]
    exact ⟨hz, rfl, rfl⟩

end Sys2Proof.Proofs

end

section
/-! Translation (R92 to R97): what a walk that finds an entry translates to, and where a page that has been written is found. -/

namespace Sys2Proof.Proofs

open Sys2Proof.Machine Sys2Proof.Laws

/-! ## The checks of a leaf (R93, R94, R97), in the order of log entry 41 -/

/-- A leaf of the level at which it stands, of a size that there is. -/
def LeafFormed (e : W64) (l : Nat) : Prop :=
  leafLeaf e = true ∧ 12 ≤ leafLog2 e ∧ leafLog2 e ≤ 30 ∧ leafLevel (leafLog2 e) = l

section Translation

variable {s : State} {n va l : Nat} {wr : Bool} {e : W64}

theorem translate_of_leaf (h : s.walk n va = .leaf e l) : s.translate n va wr =
    if !leafLeaf e || decide (leafLog2 e < 12) || decide (30 < leafLog2 e) || leafLevel (leafLog2 e) != l then .fault 4 l
    else if leafAddr e % 2 ^ leafLog2 e ≠ 0 then .fault 5 l
    else if s.tierOf (leafAddr e) ≠ leafTier e then .fault 6 l
    else if wr && !leafW e then .fault 3 l
    else if !wr && !leafR e then .fault 2 l
    else .ok (leafAddr e + va % 2 ^ leafLog2 e) e := by
  unfold State.translate
  rw [h]

theorem translate_malformed (h : s.walk n va = .leaf e l)
    (hb : leafLeaf e = false ∨ leafLog2 e < 12 ∨ 30 < leafLog2 e ∨ leafLevel (leafLog2 e) ≠ l) : s.translate n va wr = .fault 4 l := by
  rw [translate_of_leaf h, if_pos (by simpa [or_assoc] using hb)]

theorem translate_formed (h : s.walk n va = .leaf e l) (hf : LeafFormed e l) : s.translate n va wr =
    if leafAddr e % 2 ^ leafLog2 e ≠ 0 then .fault 5 l
    else if s.tierOf (leafAddr e) ≠ leafTier e then .fault 6 l
    else if wr && !leafW e then .fault 3 l
    else if !wr && !leafR e then .fault 2 l
    else .ok (leafAddr e + va % 2 ^ leafLog2 e) e := by
  obtain ⟨hl, hlo, hhi, hlv⟩ := hf
  rw [translate_of_leaf h, if_neg (by simp [hl, hlv, hlo, hhi])]

theorem translate_placed (h : s.walk n va = .leaf e l) (hf : LeafFormed e l) (ha : leafAddr e % 2 ^ leafLog2 e = 0)
    (ht : s.tierOf (leafAddr e) = leafTier e) : s.translate n va wr =
    if wr && !leafW e then .fault 3 l
    else if !wr && !leafR e then .fault 2 l
    else .ok (leafAddr e + va % 2 ^ leafLog2 e) e := by
  rw [translate_formed h hf, if_neg (by simp [ha]), if_neg (by simp [ht])]

theorem translate_past_top (h : 2 ^ 48 ≤ va) : s.translate n va wr = .fault 1 3 := by
  have hw : s.walk n va = .fault 1 3 := if_pos h
  unfold State.translate
  rw [hw]

/-! ## A page that has been written (R95) -/

theorem levelShift_leafLevel_le {z : Nat} (h : 12 ≤ z) : levelShift (leafLevel z) ≤ z := by
  unfold leafLevel levelShift
  split
  · omega
  · split <;> omega

/-- An address in a page falls to one of the entries of the page's group. -/
theorem entryKey_in_page {z a : Nat} (hz : 12 ≤ z) (ha : va % 2 ^ z = 0) (h₁ : va ≤ a) (h₂ : a < va + 2 ^ z) :
    ∃ i < groupOf z, entryKey (leafLevel z) (va + i * 2 ^ levelShift (leafLevel z)) = entryKey (leafLevel z) a := by
  have hle := levelShift_leafLevel_le hz
  unfold groupOf entryKey
  generalize levelShift (leafLevel z) = k at hle
  have hd : 2 ^ k ∣ va := (pow_dvd_pow 2 hle).trans (Nat.dvd_of_mod_eq_zero ha)
  have hp : 0 < 2 ^ k := Nat.two_pow_pos k
  have hz : 2 ^ z = 2 ^ k * 2 ^ (z - k) := by rw [← pow_add, Nat.add_sub_cancel' hle]
  refine ⟨(a - va) / 2 ^ k, Nat.div_lt_of_lt_mul (by omega), ?_⟩
  rw [Nat.add_mul_div_right _ _ hp, ← Nat.add_div_of_dvd_right hd, Nat.add_sub_cancel' h₁]

theorem mget_writeGroup (p : PageTable) {z a : Nat} (hz : 12 ≤ z) (ha : va % 2 ^ z = 0) (h₁ : va ≤ a) (h₂ : a < va + 2 ^ z) :
    mget (writeGroup p z va e).entries (entryKey (leafLevel z) a) = some e := by
  obtain ⟨i, hi, hk⟩ := entryKey_in_page hz ha h₁ h₂
  unfold writeGroup
  dsimp only
  rw [← List.foldl_map (f := fun i => entryKey (leafLevel z) (va + i * 2 ^ levelShift (leafLevel z)))
    (g := fun m k => mset m k e), mget_foldl_mset]
  exact if_pos (List.mem_map.2 ⟨i, List.mem_range.2 hi, hk⟩)

end Translation

/-- Settles O17: the checks of a leaf are taken in turn, and a page's group holds the entry of every address in it. -/
theorem translationFollowsTheLeaf : Obligations.TranslationFollowsTheLeaf := by
  unfold Obligations.TranslationFollowsTheLeaf
  refine ⟨fun s n va l wr e h hl hlo hhi hlv ha ht hp => ?_, fun s n va l wr e h hb => translate_malformed h hb,
    fun s n va l wr e h hl hlo hhi hlv => ⟨fun ha => ?_, fun ha ht => ?_⟩,
    fun s n va l e h hl hlo hhi hlv ha ht => ⟨fun hw => ?_, fun hr => ?_⟩,
    fun s n va wr h => translate_past_top h, fun p z va a e hz _ ha h₁ h₂ => mget_writeGroup p hz ha h₁ h₂⟩
  · rw [translate_placed h ⟨hl, hlo, hhi, hlv⟩ ha ht]
    cases wr <;> simp_all
  · rw [translate_formed h ⟨hl, hlo, hhi, hlv⟩, if_pos ha]
  · rw [translate_formed h ⟨hl, hlo, hhi, hlv⟩, if_neg (by simp [ha]), if_pos ht]
  · rw [translate_placed h ⟨hl, hlo, hhi, hlv⟩ ha ht]
    simp [hw]
  · rw [translate_placed h ⟨hl, hlo, hhi, hlv⟩ ha ht]
    simp [hr]

end Sys2Proof.Proofs

end

section
/-! The data movers (R106): how a `MOVE` and a `FILL` begin, go on and end. -/

namespace Sys2Proof.Proofs

open Sys2Proof.Machine Sys2Proof.Laws

section Movers

variable {s u v : State} {q : QId} {r : Rec} {src dst : List Entry} {x y : Flight} {n seq : Nat}

theorem move_runs (h : Starts specMove s q.val r) (ho : r.opcode = 0x10) :
    exec (.move q) s = .next ((s.takeHead q.val 1 r).runMove q.val (s.headSeq q.val) r) :=
  congrArg Host.Outcome.next (queueCommand_runs _ h (by rw [ho]; rfl))

theorem fill_runs (h : Starts specFill s q.val r) (ho : r.opcode = 0x11) :
    exec (.fill q) s = .next ((s.takeHead q.val 1 r).runMove q.val (s.headSeq q.val) r) :=
  congrArg Host.Outcome.next (queueCommand_runs _ h (by rw [ho]; rfl))

/-- A `MOVE` that has read two good lists begins its first entry. -/
theorem runMove_move (ho : r.opcode = 0x10) (hs : u.readList (u.queueJob n) r.w3.toNat (moveCount r) = .ok (src, false))
    (hd : u.readList (u.queueJob n) r.w4.toNat (moveCount r) = .ok (dst, false)) (hb : listsBad src dst false = none)
    (hx : u.flight n seq = some x) : u.runMove n seq r = u.beginEntry n x := by
  have hf : (r.opcode == 0x11) = false := by rw [ho]; rfl
  simp [State.runMove, hf, hs, hd, hb, hx]

/-- A `FILL` reads the list of its destinations only. -/
theorem runMove_fill (ho : r.opcode = 0x11) (hd : u.readList (u.queueJob n) r.w3.toNat (moveCount r) = .ok (dst, false))
    (hb : listsBad [] dst true = none) (hx : u.flight n seq = some x) : u.runMove n seq r = u.beginEntry n x := by
  have hf : (r.opcode == 0x11) = true := by rw [ho]; rfl
  simp [State.runMove, hf, hd, hb, hx]

/-- An entry that has been read is written; where nothing of the write is outstanding, the mover goes on. -/
theorem moverStep_goesOn (hx : s.flight n seq = some x) (hr : s.outstanding (moverIssuer n seq) = []) (hp : x.phase = 1)
    (hv : v = s.writeEntry n x) (hy : v.flight n seq = some y) (hw : v.outstanding (moverIssuer n seq) = []) (hq : y.phase = 2) :
    s.moverStep n seq = v.nextEntry n y := by
  subst hv
  simp [State.moverStep, hx, hr, hp, hy, hw, hq]

theorem nextEntry_last (h : moveCount x.cmd ≤ x.entry + 1) : s.nextEntry n x =
    s.endFlight n x.seq (if x.fail.isSome then .poisoned else .ok)
      (BitVec.ofNat 64 (listBits (s.moveLists (s.queueJob n) x.cmd).2 / 8)) 0 :=
  if_neg (Nat.not_lt.2 h)

end Movers

/-- Settles O15: what `runMove`, `moverStep` and `nextEntry` do on the paths that succeed. -/
theorem moversWorkThroughTheirLists : Obligations.MoversWorkThroughTheirLists := by
  unfold Obligations.MoversWorkThroughTheirLists
  refine ⟨?_, ?_, ?_, fun s q x h => nextEntry_last h⟩
  · rintro s u q r src dst x h ho rfl hs hd hb hx
    rw [move_runs h ho, runMove_move ho hs hd hb hx]
  · rintro s u q r dst x h ho rfl hd hb hx
    rw [fill_runs h ho, runMove_fill ho hd hb hx]
  · intro s v q seq x y hf hx hr hp hv hy hw hq
    have he : exec (.dataMoverDone q seq) s = .next (s.moverStep q.val x.seq) := by
      simp only [exec, execDataMoverDone, hf]
    rw [he, moverStep_goesOn hx hr hp hv hy hw hq]

end Sys2Proof.Proofs

end

section
/-! The migration of hot pages (R100 to R102): each of its events where it takes effect. -/

namespace Sys2Proof.Proofs

open Sys2Proof.Machine Sys2Proof.Laws

section Migration

variable {s u : State} {n : JobId} {va : W64} {m : MigPage} {f j : Nat}

theorem nth_mod_mem {α : Type} {l : List α} (h : l ≠ []) (i : Nat) (d : α) : nth l (i % l.length) d ∈ l := by
  have hi : i % l.length < l.length := Nat.mod_lt i (List.length_pos_of_ne_nil h)
  simp [nth, hi]

theorem heatEpoch_halves (h : s.frames.epoch + 2 ^ s.f F.TR_MIG_CTRL_EPOCH_LOG2 ≤ s.now) : exec .heatEpoch s =
    .next { s with frames := { s.frames with
      mig := s.frames.mig.map (fun m => { m with heat := m.heat / 2 })
      epoch := s.now - (s.now - s.frames.epoch) % 2 ^ s.f F.TR_MIG_CTRL_EPOCH_LOG2 } } :=
  congrArg Host.Outcome.next (if_pos h)

/-- A hot page of the Plain begins its copy into the free frame that the free value picks. -/
theorem migrationPromote_begins (hm : s.migPage n.val va.toNat = some m) (hf : m.frame = none) (hc : m.copying = 0)
    (hh : s.f F.TR_MIG_CTRL_PROMOTE ≤ m.heat) (hp : s.freePoolFrames n.val ≠ []) : exec (.migrationPromote n va) s =
    .next (s.drawn.updMig n.val m.va (fun m => { m with
      copying := 1, copyFrame := nth (s.freePoolFrames n.val) (s.free % (s.freePoolFrames n.val).length) 0 })) := by
  simp [exec, execMigrationPromote, hm, hf, hc, hh, hp]

/-- The coldest promoted page goes home where the pool is full and a hot page waits. -/
theorem migrationDemote_begins (hm : s.migPage n.val va.toNat = some m) (hf : m.frame = some f) (hc : m.copying = 0)
    (hh : m.heat < s.f F.TR_MIG_CTRL_DEMOTE) (hx : ∀ x ∈ s.frames.mig, x.job = n.val → x.frame.isSome = true → m.heat ≤ x.heat)
    (hp : s.freePoolFrames n.val = [])
    (hw : ∃ x ∈ s.frames.mig, x.job = n.val ∧ x.frame = none ∧ s.f F.TR_MIG_CTRL_PROMOTE ≤ x.heat) :
    exec (.migrationDemote n va) s = .next (s.updMig n.val m.va (fun m => { m with copying := 2 })) := by
  have hall : (s.frames.mig.filter (fun x => x.job == n.val && x.frame.isSome)).all (fun x => decide (m.heat ≤ x.heat)) = true := by
    rw [List.all_eq_true]
    intro x hm
    obtain ⟨hm, hj⟩ := List.mem_filter.1 hm
    simp only [Bool.and_eq_true, beq_iff_eq] at hj
    exact decide_eq_true (hx x hm hj.1 hj.2)
  have hany : (s.frames.mig.any fun x => x.job == n.val && x.frame.isNone && decide (s.f F.TR_MIG_CTRL_PROMOTE ≤ x.heat)) = true := by
    simpa [List.any_eq_true, and_assoc] using hw
  simp only [exec, execMigrationDemote, hm]
  rw [hall, hany, hf, hc, hp, decide_eq_true hh]
  rfl

theorem migrationSwitch_promotes (hm : s.migPage n.val va.toNat = some m) (hc : m.copying = 1) : exec (.migrationSwitch n va) s =
    .next ((((((s.copyRange m.home (frameAddr m.copyFrame) frameBytes).rewriteLeaf n.val m.va 1 (frameAddr m.copyFrame))).updMig n.val m.va
      (fun m => { m with frame := some m.copyFrame, dirty := false, copying := 0 })).settlePoolFrame n.val m.copyFrame true).count
      F.TR_MIG_STAT_PROMOTED n.val) := by
  simp only [exec, execMigrationSwitch, hm]
  rw [if_pos hc]

theorem migrationSwitch_demotes (hm : s.migPage n.val va.toNat = some m) (hc : m.copying = 2) (hf : m.frame = some f)
    (hu : u = if m.dirty then s.copyRange (frameAddr f) m.home frameBytes else s) : exec (.migrationSwitch n va) s =
    .next ((((u.rewriteLeaf n.val m.va 2 m.home).updMig n.val m.va
      (fun m => { m with frame := none, dirty := false, copying := 0 })).settlePoolFrame n.val f false).count F.TR_MIG_STAT_DEMOTED n.val) := by
  subst hu
  simp only [exec, execMigrationSwitch, hm]
  rw [if_neg (by omega), if_pos hc, hf]

theorem settlePoolFrame_held (h : s.inMigPool j f = false) :
    s.settlePoolFrame j f true = { s with frames := { s.frames with basinOwner := mset s.frames.basinOwner f j } } := by
  simp [State.settlePoolFrame, h]

theorem settlePoolFrame_freed (h : s.inMigPool j f = false) (ho : mget s.frames.basinOwner f = some j)
    (hm : s.mapsFrame j (frameAddr f) = false) :
    s.settlePoolFrame j f false = { s with frames := { s.frames with basinOwner := merase s.frames.basinOwner f } } := by
  simp [State.settlePoolFrame, h, ho, hm]

end Migration

/-- Settles O18: each event where its conditions hold. -/
theorem hotPagesMigrate : Obligations.HotPagesMigrate := by
  unfold Obligations.HotPagesMigrate
  refine ⟨fun s h => heatEpoch_halves h, fun s n va m hm hf hc hh hp => ⟨_, nth_mod_mem hp _ _, migrationPromote_begins hm hf hc hh hp⟩,
    fun s n va m f hm hf hc hh hx hp hw => migrationDemote_begins hm hf hc hh hx hp hw,
    fun s n va m hm hc => migrationSwitch_promotes hm hc, fun s u n va m f hm hc hf hu => migrationSwitch_demotes hm hc hf hu,
    fun s n f h => ⟨?_, fun ho hm => ?_⟩⟩
  · rw [settlePoolFrame_held h]
  · rw [settlePoolFrame_freed h ho hm]

end Sys2Proof.Proofs

end

section
/-! The commands of casts (R113 to R116): each where it takes effect. -/

namespace Sys2Proof.Proofs

open Sys2Proof.Machine Sys2Proof.Laws

section Casts

variable {s u v : State} {q : QId} {r : Rec} {d : DaleId} {n seq k : Nat}

/-! ## Staging (R113) -/

theorem castStage_runs (h : Starts specCastStage s q.val r) (ho : r.opcode = 0x08) :
    exec (.castStage q) s = .next ((s.takeHead q.val 1 r).runStage q.val (s.headSeq q.val) r) :=
  congrArg Host.Outcome.next (queueCommand_runs _ h (by rw [ho]; rfl))

theorem runStage_read (h : u.stageReads n seq (u.queueJob n) r.w3.toNat 256 = .ok (v, none)) : u.runStage n seq r = v.stageStep n seq := by
  unfold State.runStage
  rw [h]

/-- An image that has been read, that passes its checks and whose marks and Saddle rows stand in no cast's way completes its staging. -/
theorem stageImage_done {x : Staging} {img : List Byte} {marks : List Nat} {l : Loaded}
    (hi : s.imageOf (s.castRef x.cast) x.hit = .ok (img, marks))
    (hl : (if x.hit then .ok (loadAll img (s.castRef x.cast).count)
      else checkImage img (s.castRef x.cast).header (s.castRef x.cast).first (s.castRef x.cast).count) = .ok l)
    (hm : chanMarked img (s.castRef x.cast).count marks = false) (hb : s.saddleBroken (s.castRef x.cast) = false) :
    s.stageImage x = s.stageDone x (s.castRef x.cast) img marks l := by
  unfold State.stageImage
  dsimp only
  rw [hi]
  dsimp only
  rw [hl]
  dsimp only
  rw [if_neg (by simp [hm]), if_neg (by simp [hb])]

theorem castStageComplete_done {x : Staging} (hx : s.casts.staging.find? (fun x => (s.castRef x.cast).first == d.val) = some x)
    (hr : s.outstanding (moverIssuer x.q x.seq) = []) (hz : ∀ k ∈ (s.castRef x.cast).dales, s.casts.zeroing.contains k = false) :
    exec (.castStageComplete d) s = .next (s.stageImage x) := by
  have hd : ((s.castRef x.cast).dales.any fun k => s.casts.zeroing.contains k) = false :=
    List.any_eq_false.2 fun k hk => by rw [hz k hk]; exact Bool.false_ne_true
  simp only [exec, execCastStageComplete, hx, hr, hd]
  rfl

/-! ## Switching (R114) -/

theorem castSwitch_runs (h : Starts specCastSwitch s q.val r) (ho : r.opcode = 0x09) :
    exec (.castSwitch q) s = .next ((s.takeHead q.val 0 r).runSwitch q.val (s.headSeq q.val) r) :=
  congrArg Host.Outcome.next (queueCommand_runs _ h (by rw [ho]; rfl))

/-- A switch whose standby cast has its preloads waits for its swap. -/
theorem runSwitch_waits (ht : r.tx = 0) (hc : u.switchCast r.firstDale r.daleCount = some k)
    (hd : (u.standbySlot r.firstDale).state ≠ .deferred) : u.runSwitch n seq r = u := by
  simp [State.runSwitch, ht, hc, hd]

/-- A switch in a transaction of scope `CAST` is staged there, after the casts staged before it. -/
theorem runSwitch_staged {t : Tx} (ht : r.tx ≠ 0) (hx : u.txFor n r = .ok t) (hs : t.scope = .cast)
    (hc : (u.applyStaged t.casts).switchCast r.firstDale r.daleCount = some k) : u.runSwitch n seq r =
    (u.setTx { t with casts := t.casts ++ [⟨r.firstDale, r.daleCount, false, false, seq⟩] }).finishFlight n seq .ok 0 0 := by
  simp [State.runSwitch, State.stageCast, ht, hx, hs, hc]

theorem switchNow_swaps (hc : s.switchCast d.val n = some k) (hd : (s.standbySlot d.val).state ≠ .deferred) (p : Nat) :
    s.switchNow p seq d.val n = (s.swapSlots d.val n k).endFlight p seq .ok 0 0 := by
  simp [State.switchNow, State.latePreload, hc, hd]

theorem castSwap_swaps {p : Nat} {x : Flight} (hx : s.switchFlight d.val = some (p, x)) (hr : s.runsOn d.val x.cmd.daleCount = false)
    (hh : s.ringHolds d.val x.cmd.daleCount = false) (ho : s.outstanding (moverIssuer p x.seq) = []) :
    exec (.castSwap d) s = .next (s.switchNow p x.seq d.val x.cmd.daleCount) := by
  simp only [exec, execCastSwap, hx, hr, hh, ho]
  rfl

/-! ## Running (R115) -/

theorem castRun_runs (h : Starts specCastRun s q.val r) (ho : r.opcode = 0x0A) :
    exec (.castRun q) s = .next ((s.takeHead q.val 0 r).runRun q.val (s.headSeq q.val) r) :=
  congrArg Host.Outcome.next (queueCommand_runs _ h (by rw [ho]; rfl))

theorem runRun_starts {ds : List Binding} (hc : u.runCast r.firstDale r.daleCount = some k)
    (hp : u.prepareRun (u.queueJob n) (u.castRef k) r.w6.toNat = .ok ds) : u.runRun n seq r =
    (u.takeCastTurn n).startRun (.command n seq) (u.queueJob n) k (bitsOf r.w5 0 32) ds := by
  simp [State.runRun, hc, hp]

/-! ## Evicting (R52, R115) -/

theorem castEvict_runs (h : Starts specCastEvict s q.val r) (ho : r.opcode = 0x0B) :
    exec (.castEvict q) s = .next ((s.takeHead q.val 0 r).runEvict q.val (s.headSeq q.val) r) :=
  congrArg Host.Outcome.next (queueCommand_runs _ h (by rw [ho]; rfl))

theorem runEvict_standby (ht : r.tx = 0) (ha : bitOf r.w4 16 = false) :
    u.runEvict n seq r = (u.evictStandby r.castDales).finishFlight n seq .ok 0 0 := by
  simp [State.runEvict, ht, ha]

theorem runEvict_active (ht : r.tx = 0) (ha : bitOf r.w4 16 = true) (hr : ∀ d ∈ r.castDales, u.runsOn d 1 = false) :
    u.runEvict n seq r = (u.evictActive r.castDales).finishFlight n seq .ok 0 0 := by
  have hf : r.castDales.find? (fun d => u.runsOn d 1) = none :=
    List.find?_eq_none.2 fun d hd => by rw [hr d hd]; exact Bool.false_ne_true
  simp [State.runEvict, ht, ha, hf]

end Casts

/-- Settles O13: each command by what its run does where its checks pass. -/
theorem castCommandsTakeEffect : Obligations.CastCommandsTakeEffect := by
  unfold Obligations.CastCommandsTakeEffect
  refine ⟨?_, ?_, ?_, ?_, ?_, ?_, ?_, ?_, fun s d => rfl⟩
  · rintro s u v q r h ho rfl hv
    rw [castStage_runs h ho, runStage_read hv]
  · intro s d x img marks l hx hr hz hi hl hm hb
    rw [castStageComplete_done hx hr hz, stageImage_done hi hl hm hb]
  · rintro s u q r k h ho ht rfl hc hd
    rw [castSwitch_runs h ho, runSwitch_waits ht hc hd]
  · rintro s u q r t k h ho ht rfl hx hs hc
    rw [castSwitch_runs h ho, runSwitch_staged ht hx hs hc]
  · intro s d p k x hx hr hh ho hc hd
    rw [castSwap_swaps hx hr hh ho, switchNow_swaps hc hd]
  · rintro s u q r k ds h ho rfl hc hp
    rw [castRun_runs h ho, runRun_starts hc hp]
  · rintro s u q r h ho ht ha rfl
    rw [castEvict_runs h ho, runEvict_standby ht ha]
  · rintro s u q r h ho ht ha rfl hr
    rw [castEvict_runs h ho, runEvict_active ht ha hr]

end Sys2Proof.Proofs

end

section
/-! Steps of casts (R158): what a step's begin and its end leave in the fabric. -/

namespace Sys2Proof.Proofs

open Sys2Proof.Machine Sys2Proof.Laws

/-! ## Folds and maps -/

/-- A fold reaches what one of its steps sets and every step keeps. -/
theorem foldl_reaches {α β : Type} {P : β → Prop} {f : β → α → β} {l : List α} {a : α} (ha : a ∈ l) (hit : ∀ t, P (f t a))
    (keep : ∀ t, ∀ x ∈ l, P t → P (f t x)) (t : β) : P (l.foldl f t) := by
  induction l generalizing t with
  | nil => cases ha
  | cons x l ih =>
    have keep' : ∀ t, ∀ y ∈ l, P t → P (f t y) := fun t y hy => keep t y (List.mem_cons_of_mem x hy)
    rcases List.mem_cons.1 ha with rfl | hm
    · exact List.foldlRecOn (motive := P) l f (hit t) fun t ht y hy => keep' t y hy ht
    · exact ih hm keep' (f t x)

section Sites

variable {α : Type} (v : Nat → Nat → α) {d site : Nat}

/-- A key names one Dale and one site, so a value written for a site of its own leaves the value of every other. -/
theorem mget_mset_site (hs : site < 64) {e i : Nat} (hi : i < 64) {m : SMap α} (h : mget m (64 * d + site) = some (v d site)) :
    mget (mset m (64 * e + i) (v e i)) (64 * d + site) = some (v d site) := by
  by_cases hk : 64 * e + i = 64 * d + site
  · obtain ⟨rfl, rfl⟩ : e = d ∧ i = site := by omega
    exact mget_mset_self m _ _
  · rw [mget_mset_ne m _ hk, h]

/-- A value written for every one of some sites of some Dales. -/
theorem mget_foldl_sites {ds is : List Nat} (hd : d ∈ ds) (hs : site ∈ is) (hi : ∀ i ∈ is, i < 64) (m : SMap α) :
    mget (ds.foldl (fun m e => is.foldl (fun m i => mset m (64 * e + i) (v e i)) m) m) (64 * d + site) = some (v d site) := by
  have keep : ∀ m e, ∀ i ∈ is, mget m (64 * d + site) = some (v d site) →
      mget (mset m (64 * e + i) (v e i)) (64 * d + site) = some (v d site) :=
    fun m e i h => mget_mset_site v (hi site hs) (hi i h)
  refine foldl_reaches (P := fun m => mget m (64 * d + site) = some (v d site)) hd (fun m => ?_) (fun m e _ h => ?_) m
  · exact foldl_reaches (P := fun m => mget m (64 * d + site) = some (v d site)) hs (fun m => mget_mset_self m _ _)
      (fun m i => keep m d i) m
  · exact List.foldlRecOn (motive := fun m => mget m (64 * d + site) = some (v d site)) _ _ h fun m h i hi => keep m e i hi h

end Sites

/-- A change of the values at some keys. -/
theorem mget_map_if {α : Type} (p : Nat → Bool) (g : Nat → α → α) (m : SMap α) (k : Nat) :
    mget (m.map fun x => if p x.1 then (x.1, g x.1 x.2) else x) k = (mget m k).map (fun v => if p k then g k v else v) := by
  induction m with
  | nil => rfl
  | cons x t ih =>
    obtain ⟨a, v⟩ := x
    by_cases e : a = k
    · subst e
      cases hp : p a <;> simp [hp, mget]
    · cases hp : p a <;> simp [hp, mget, e, ih]

/-! ## The begin of a step -/

section Begin

variable (s : State) (first : Nat) (x : CastRun)

theorem beginStep_run : mget (s.beginStep first x).fabric.runs first =
    some { x with stepping := true, start := s.now, ticks := 0, residue := 0 } := mget_mset_self _ _ _

theorem beginStep_started : mget (s.beginStep first x).fabric.started x.cast =
    some ((mgetD s.fabric.started x.cast 0 + 1) % 2 ^ 32) := mget_mset_self _ _ _

theorem beginStep_box {d site : Nat} (hd : d ∈ (s.castRef x.cast).dales) (hs : site < 64) :
    (s.beginStep first x).box d site = { fired := 0, inputs := bridgeInputs d site (s.castRef x.cast) } := by
  unfold State.box State.beginStep mgetD
  dsimp only
  rw [mget_foldl_sites (fun d site => ({ fired := 0, inputs := bridgeInputs d site (s.castRef x.cast) } : BoxSt)) hd
    (List.mem_range.2 hs) (fun i => List.mem_range.1), Option.getD_some]

end Begin

/-! ## The end of a step -/

section End

variable (s : State) (c : CastRef) (halt : Bool)

/-- Whether a Dale is one of a cast's. -/
def castHas (c : CastRef) (d : Nat) : Bool := decide (c.first ≤ d) && decide (d < c.first + c.count)

theorem castHas_true {c : CastRef} {d : Nat} (h₁ : c.first ≤ d) (h₂ : d < c.first + c.count) : castHas c d = true := by
  simp [castHas, h₁, h₂]

/-- A compute unit of a cast whose tokens are discarded. -/
def cuEmptied (halt : Bool) (x : CuSt) : CuSt :=
  { x with arrivals := [], store := [], outs := List.replicate 4 OutPort.empty, intakes := [], mm := none, halted := halt || x.halted }

theorem discardTokens_chan {k : Nat} (h : castHas c (k / 4096) = true) : mget (s.discardTokens c halt).fabric.chans k = none :=
  (mget_filter (fun k => !castHas c (k / 4096)) s.fabric.chans k).trans (if_neg (by simp [h]))

theorem discardTokens_cus (u : Nat) : mget (s.discardTokens c halt).fabric.cus u =
    (mget s.fabric.cus u).map (fun x => if castHas c (u / 32) then cuEmptied halt x else x) :=
  mget_map_if (fun u => castHas c (u / 32)) (fun _ => cuEmptied halt) s.fabric.cus u

/-- A unit that the discard finds listed is emptied, and one that is not listed holds nothing. -/
theorem discardTokens_cu {u : Nat} (h : castHas c (u / 32) = true) :
    (s.discardTokens c halt).cu u = cuEmptied halt (s.cu u) ∨ (s.discardTokens c halt).cu u = .fresh ∧ s.cu u = .fresh := by
  unfold State.cu mgetD
  rw [discardTokens_cus]
  cases mget s.fabric.cus u with
  | none => exact .inr ⟨rfl, rfl⟩
  | some x => exact .inl (by simp [h])

end End

/-- Settles O34: a begin by what it sets, and an end by what the discard leaves of channels and units. -/
theorem stepsBeginClean : Obligations.StepsBeginClean := by
  unfold Obligations.StepsBeginClean
  refine ⟨fun s first x => ⟨_, beginStep_run s first x, rfl, rfl, rfl, rfl, rfl, beginStep_started s first x, rfl⟩,
    fun s first d site x hd hs => beginStep_box s first x hd hs,
    fun s c halt k h₁ h₂ => discardTokens_chan s c halt (castHas_true h₁ h₂), fun s c halt u h₁ h₂ => ?_⟩
  rcases discardTokens_cu s c halt (castHas_true h₁ h₂) with h | ⟨h, h'⟩
  · rw [h]
    exact ⟨rfl, rfl, rfl, rfl, rfl⟩
  · rw [h, h']
    exact ⟨rfl, rfl, rfl, rfl, rfl⟩

end Sys2Proof.Proofs

end

section
/-! How a step of a cast ends or is stopped (R158, R160, R161), and how a waiting task gives way (R189). -/

namespace Sys2Proof.Proofs

open Sys2Proof.Machine Sys2Proof.Laws

section StepEnds

variable {s u : State} {d : DaleId} {first k : Nat} {x y : CastRun} {dt : W64}

/-! ## The end of a step (R158) -/

theorem castStepEnd_ends (hr : mget s.fabric.runs d.val = some x) (hs : x.stepping = true)
    (he : s.castAtEnd (s.castRef x.cast) = true) : exec (.castStepEnd d) s = .next (s.stepEnd d.val x) := by
  simp only [exec, execCastStepEnd, hr]
  rw [if_pos (by simp [hs, he])]

/-- A paused run whose Dales are free goes on. -/
theorem castStepEnd_resumes (hr : mget s.fabric.runs d.val = none)
    (hx : s.fabric.paused.find? (fun x => (s.castRef x.cast).first == d.val) = some x)
    (hd : ∀ k ∈ (s.castRef x.cast).dales, s.runOn k = none) (hp : s.pauses x (s.castRef x.cast) = false) :
    exec (.castStepEnd d) s = .next ((({ s with fabric := { s.fabric with
      paused := s.fabric.paused.filter (fun y => y != x) } }).slotsRun (s.castRef x.cast)).beginStep d.val x) := by
  have hn : ((s.castRef x.cast).dales.any fun k => (s.runOn k).isSome) = false :=
    List.any_eq_false.2 fun k hk => by rw [hd k hk]; exact Bool.false_ne_true
  simp only [exec, execCastStepEnd, hr, hx]
  rw [if_neg (by simp only [hn, hp]; exact Bool.false_ne_true)]

section Ending

variable (hu : u = (s.countResidue x (s.castRef x.cast)).discardTokens (s.castRef x.cast) false)
  (hy : y = { x with done := x.done + 1, stepping := false })
include hu hy

theorem stepEnd_fault (hf : x.fault = some (k, dt)) : s.stepEnd first x = u.endRun first y (.ofCode k) dt := by
  subst hu hy
  simp only [State.stepEnd, hf]

theorem stepEnd_last (hf : x.fault = none) (hl : x.total ≤ x.done + 1) : s.stepEnd first x = u.endRun first y .ok 0 := by
  subst hu hy
  simp only [State.stepEnd, hf]
  rw [if_pos hl]

theorem stepEnd_next (hf : x.fault = none) (hl : x.done + 1 < x.total) (hp : u.pauses y (s.castRef x.cast) = false) :
    s.stepEnd first x = u.beginStep first y := by
  subst hu hy
  simp only [State.stepEnd, hf]
  rw [if_neg (Nat.not_le.2 hl), if_neg (by simpa [hf] using hp)]

end Ending

/-! ## The limits of a step (R160, R161) -/

section Limits

variable (hr : mget s.fabric.runs d.val = some x) (hs : x.stepping = true) (he : s.castAtEnd (s.castRef x.cast) = false)
include hr hs he

theorem stallLimit_stalls (hd : s.stallDue d.val x = true) : exec (.stallLimit d) s = .next (s.stall d.val x) := by
  simp only [exec, execStallLimit, hr]
  rw [if_pos (by simp [hs, he, hd])]

theorem stepLimit_stops (hl : s.stepLimit x ≤ x.ticks) (hd : s.stallDue d.val x = false) : exec (.stepLimit d) s =
    .next ((s.fault 0x4206 .job x.job x.job x.cmd).stopCast d.val x .timeout (s.faultDetail 0x4206)) := by
  simp only [exec, execStepLimit, hr]
  rw [if_pos (by simp [hs, he, hl]), if_neg (by simp [hd])]

end Limits

/-! ## The cooperative switch of tasks (R189) -/

/-- The next task that can issue takes over from one that has finished. -/
theorem taskSwitch_of_finished {n t : Nat} (hs : (s.stepOn (n / 32)).isSome = true)
    (hf : (s.cu n).canIssue (s.unitProg false n) (s.cu n).active = .finished)
    (ht : ((List.range 3).map (fun i => ((s.cu n).active + 1 + i) % 4)).find?
      (fun t => (s.cu n).canIssue (s.unitProg false n) t == .yes) = some t) :
    s.taskSwitch n = (s.setCu n { s.cu n with active := t, switchAt := some s.now }).countWrap F.CU_SWITCHES_COUNT (s.unitWindow n) := by
  simp only [State.taskSwitch, hf, hs, ht, Bool.and_true]

end StepEnds

/-- Settles O33: an end by the cases of `stepEnd`, each limit where it is due, and the switch of tasks by what keeps the active one. -/
theorem stepsEndOrAreStopped : Obligations.StepsEndOrAreStopped := by
  unfold Obligations.StepsEndOrAreStopped
  refine ⟨fun s d x hr hs he => castStepEnd_ends hr hs he, fun s d x hr hx hd hp => castStepEnd_resumes hr hx hd hp,
    fun s u first x y hf hu hy => ⟨stepEnd_last hu hy hf, stepEnd_next hu hy hf⟩, fun s first k x dt hf => stepEnd_fault rfl rfl hf,
    fun s d x hr hs he hd => stallLimit_stalls hr hs he hd, fun s d x hr hs he hl hd => stepLimit_stops hr hs he hl hd, ?_⟩
  rintro s cu t x rfl hs hf ht
  exact congrArg Host.Outcome.next (taskSwitch_of_finished hs hf ht)

end Sys2Proof.Proofs

end

section
/-! Tokens of the fabric (R135 to R137, R145 to R152): slots, deliveries, credits and steering elements. -/

namespace Sys2Proof.Proofs

open Sys2Proof.Machine Sys2Proof.Laws

section Tokens

variable {s : State} {d : DaleId} {site : SiteId} {first n a e : Nat} {x : CastRun} {h : Held} {t : Token}

/-! ## Slots (R135 to R137) -/

theorem slotFiring_fires (hs : s.stepOn d.val = some (first, x))
    (hb : s.boxReady d.val site.val first (s.castRef x.cast).count (saddleDepth (s.castRef x.cast).header) = true) :
    exec (.slotFiring d site) s = .next (s.fireSlot d.val site.val first x (s.castRef x.cast)) := by
  simp only [exec, execSlotFiring, hs]
  rw [if_pos hb]

/-! ## Delivery (R145, R146, R151) -/

theorem admitTag_now {tag base : Nat} (h : tagAhead tag base < 8) : admitTag tag base = .now := by
  unfold admitTag
  dsimp only
  rw [if_pos h]

theorem admitTag_duplicate {tag base : Nat} (h : 32768 ≤ tagAhead tag base) : admitTag tag base = .duplicate := by
  unfold admitTag
  dsimp only
  rw [if_neg (by omega), if_pos h]

/-- A delivery at a port of a compute unit. -/
theorem tokenDelivery_cu {port : Fin 14} (hs : s.stepOn d.val = some (first, x)) (hp : port.val < 8) (hc : siteIsCu site.val = true)
    (hh : (s.cu (unitAt d.val site.val)).arrivals.find? (fun h => h.port == port.val) = some h) :
    exec (.tokenDelivery d site port) s = .next (s.deliverCu first (unitAt d.val site.val) h) := by
  simp only [exec, execTokenDelivery, hs, hc, hh]
  rw [if_neg (by omega), if_pos trivial]

/-- A delivery at a port of a memory unit. -/
theorem tokenDelivery_mu {port : Fin 14} (hs : s.stepOn d.val = some (first, x)) (hp : port.val < 8) (hc : siteIsCu site.val = false)
    (hh : (s.mu (unitAt d.val site.val)).arrivals.find? (fun h => h.port == port.val) = some h) :
    exec (.tokenDelivery d site port) s = .next (s.deliverMu first (unitAt d.val site.val) h) := by
  simp only [exec, execTokenDelivery, hs, hc, hh]
  rw [if_neg (by omega), if_neg Bool.false_ne_true]

/-- A delivery at a port of a steering element. -/
theorem tokenDelivery_elem {port : Fin 14} (hs : s.stepOn d.val = some (first, x)) (hp : 8 ≤ port.val)
    (hh : (s.elem d.val site.val ((port.val - 8) / 3)).arrivals.find? (fun h => h.port == (port.val - 8) % 3) = some h) :
    exec (.tokenDelivery d site port) s = .next (s.deliverElem first d.val site.val ((port.val - 8) / 3) h) := by
  simp only [exec, execTokenDelivery, hs, hh]
  rw [if_pos hp]

/-- A token for a used task that no instruction in progress takes is admitted by its tag. -/
theorem deliverCu_admits {v : Admit} (ht : t = s.tagged h.token) (hk : (cuTasks (s.unitProg false n)).testBit t.task = true)
    (hw : (s.cu n).wants { h with token := t } = false) :
    admitTag t.tag (nth (s.cu n).tasks t.task .fresh).tb = v → s.deliverCu first n h = match v with
      | .now => s.setCu n { s.cu n with
          arrivals := (s.cu n).arrivals.eraseP (fun k => k.port == h.port)
          store := (s.cu n).store ++ [{ h with token := t, since := s.now }] }
      | .later => s
      | .duplicate => (s.setCu n { s.cu n with
          arrivals := (s.cu n).arrivals.eraseP (fun k => k.port == h.port) }).tagFault first { h with token := t } := by
  intro hv
  subst ht
  have hv' : admitTag ({ h with token := s.tagged h.token } : Held).token.tag
    (nth (s.cu n).tasks ({ h with token := s.tagged h.token } : Held).token.task .fresh).tb = v := hv
  cases v <;> rw [State.deliverCu, if_neg (by simp [hk]), if_neg (by simp [hw]), hv']

theorem deliverMu_now (ht : t = s.tagged h.token) (ha : s.portAg n h.port = some a)
    (hn : tagAhead t.tag (bitsOf (wordAt (s.unitProg true n) (nth (s.mu n).ags a .fresh).pc) 33 16 +
      (nth (s.mu n).ags a .fresh).base) < 8) :
    s.deliverMu first n h = s.setMu n { s.mu n with
      arrivals := (s.mu n).arrivals.eraseP (fun k => k.port == h.port)
      store := (s.mu n).store ++ [{ h with token := t, since := s.now }] } := by
  subst ht
  simp only [State.deliverMu, ha, admitTag_now hn]

theorem deliverElem_now {d site : Nat} (ht : t = s.tagged h.token) (hn : tagAhead t.tag (s.elem d site e).base < 8) :
    s.deliverElem first d site e h = s.setElem d site e { s.elem d site e with
      arrivals := (s.elem d site e).arrivals.eraseP (fun k => k.port == h.port)
      store := (s.elem d site e).store ++ [{ h with token := t, since := s.now }] } := by
  subst ht
  have hv : admitTag ({ h with token := s.tagged h.token } : Held).token.tag (s.elem d site e).base = .now := admitTag_now hn
  rw [State.deliverElem, hv]

/-! ## Credits (R152) -/

theorem chan_setChan_self (s : State) (key : Nat) (y : ChanSt) : (s.setChan key y).chan key = y := mgetD_mset_self _ _ _ _

theorem chan_setChan_ne (s : State) {key j : Nat} (y : ChanSt) (h : j ≠ key) : (s.setChan key y).chan j = s.chan j :=
  mgetD_mset_ne _ _ _ h.symm

theorem setChan_setChan (s : State) (key : Nat) (y z : ChanSt) : (s.setChan key y).setChan key z = s.setChan key z := by
  simp [State.setChan]

/-- The oldest credit on its way to a channel that spills nothing reaches its producer. -/
theorem creditReturn_credits {k : Fin 4096} {key i : Nat} {c : Chan} {rest : List Nat} (hs : s.stepOn d.val = some (first, x))
    (hk : key = 4096 * d.val + k.val) (hc : s.chanDesc key = some c) (hr : (s.chan key).returning = i :: rest)
    (hp : (s.chan key).spilled = []) : exec (.creditReturn d k) s = .next (s.setChan key { s.chan key with
      returning := rest, credits := setNth (s.chan key).credits i (nth (s.chan key).credits i 0 + 1) }) := by
  subst hk
  simp only [exec, execCreditReturn, hs, hc, hr]
  rw [if_pos (by simp [hp]), setChan_setChan]

/-! ## Steering elements (R148 to R150, R525) -/

section Elements

variable {el : Fin 2} {tag : BitVec 16} {g : Nat} {ctl : Held} {one two sel : List Held}

/-- A step is in flight, and an element that steers in some mode and groups holds a tag's control token and has not fired the tag. -/
structure Steers (s : State) (d : DaleId) (site : SiteId) (el : Fin 2) (tag : BitVec 16) (first : Nat) (x : CastRun) (mode g : Nat)
    (ctl : Held) : Prop where
  step : s.stepOn d.val = some (first, x)
  mode : steerMode (s.slotTable d.val site.val) el.val = mode
  group : steerGroup (s.slotTable d.val site.val) el.val = g
  control : ((s.elem d.val site.val el.val).tokensOf 0 tag.toNat).head? = some ctl
  unfired : (s.elem d.val site.val el.val).fired.contains tag.toNat = false

/-- A `STEER` element that holds its group stops the cast at a poisoned control token, and else fires where the output is free. -/
theorem steer_whole (h : Steers s d site el tag first x 1 g ctl)
    (ho : one = ((s.elem d.val site.val el.val).tokensOf 1 tag.toNat).take g) (hl : one.length = g) : exec (.steer d site el tag) s =
    .next (if ctl.token.poison then s.castPoisoned first
      else if !s.elemOutFree d.val site.val el.val ctl.token.decision then s
      else s.fireElem d.val site.val el.val tag.toNat (ctl :: one) ctl.token.decision
        (one.map (fun h => { h.token with steerTag := ctl.token.ctlTag }))) := by
  subst ho
  simp only [exec, execSteer, h.step, h.mode, h.group, h.control]
  rw [if_neg (not_or.2 ⟨by omega, Bool.eq_false_iff.1 h.unfired⟩)]

/-- A `PRED` or `MERGE` element that holds the groups it consumes fires where its output is free. -/
theorem join_fires {mode : Nat} (h : Steers s d site el tag first x mode g ctl) (hm : mode = 2 ∨ mode = 3)
    (ho : one = ((s.elem d.val site.val el.val).tokensOf 1 tag.toNat).take g)
    (ht : two = ((s.elem d.val site.val el.val).tokensOf 2 tag.toNat).take g)
    (hs : sel = if ctl.token.decision = 0 then one else two) (hl : sel.length = g) (hb : mode = 2 → one.length = g ∧ two.length = g)
    (hp : ctl.token.poison = false) (hf : s.elemOutFree d.val site.val el.val 0 = true) : exec (.join d site el tag) s =
    .next (s.fireElem d.val site.val el.val tag.toNat (ctl :: (if mode = 2 then one ++ two else sel)) 0 (sel.map (fun h => h.token))) := by
  subst hs ho ht
  simp only [exec, execJoin, h.step, h.mode, h.group, h.control]
  rw [if_neg (not_or.2 ⟨by omega, Bool.eq_false_iff.1 h.unfired⟩), if_neg (by omega), if_neg (by simp [hp]), if_neg (by simp [hf])]

/-- The control token of a `MERGE` element selects one of its two groups. -/
theorem tokensOf_decision (y : ElemSt) (tag : Nat) (t : Token) : (y.tokensOf (1 + t.decision) tag).take g =
    if t.decision = 0 then (y.tokensOf 1 tag).take g else (y.tokensOf 2 tag).take g := by
  have hd : t.decision < 2 := Nat.mod_lt _ (by decide)
  split
  · next h => rw [h]
  · next h => rw [show t.decision = 1 by omega]

end Elements

end Tokens

/-- Settles O32: slots, deliveries and credits where they take effect, and each steering element by what it does with whole groups. -/
theorem tokensMoveThroughTheFabric : Obligations.TokensMoveThroughTheFabric := by
  unfold Obligations.TokensMoveThroughTheFabric
  refine ⟨fun s d site first x hs hb => slotFiring_fires hs hb, ?_, ?_, ?_, ?_, ?_, ?_, ?_, ?_, ?_⟩
  · rintro s d site port first n x y h t hs hp hc rfl rfl hh ht hk hw hn
    rw [tokenDelivery_cu hs hp hc hh, deliverCu_admits ht hk hw (admitTag_now hn)]
  · rintro s d site port first n x y h t hs hp hc rfl rfl hh ht hk hw hn
    rw [tokenDelivery_cu hs hp hc hh, deliverCu_admits ht hk hw (admitTag_duplicate hn)]
  · rintro s d site port first n a x y h t hs hp hc rfl rfl hh ht ha hn
    rw [tokenDelivery_mu hs hp hc hh, deliverMu_now ht ha hn]
  · rintro s d site port first e x y h t hs hp rfl rfl hh ht hn
    rw [tokenDelivery_elem hs hp hh, deliverElem_now ht hn]
  · rintro s d k first key i x c y rest hs hk hc rfl hr hp
    exact ⟨_, creditReturn_credits hs hk hc hr hp, chan_setChan_self s key _, fun j hj => chan_setChan_ne s _ hj, rfl⟩
  · rintro s d site e tag first g x y ctl data hs rfl hg hm hc hd hl hf hp ho
    rw [steer_whole ⟨hs, hm, hg.symm, hc, hf⟩ hd hl, if_neg (by simp [hp]), if_neg (by simp [ho])]
  · rintro s d site e tag first g x y ctl one two hs rfl hg hm hc h₁ h₂ hl₁ hl₂ hf hp ho
    rw [join_fires ⟨hs, hm, hg.symm, hc, hf⟩ (.inl rfl) h₁ h₂ rfl (by split <;> assumption) (fun _ => ⟨hl₁, hl₂⟩) hp ho, if_pos rfl]
  · rintro s d site e tag first g x y ctl sel hs rfl hg hm hc h₁ hl hf hp ho
    rw [join_fires ⟨hs, hm, hg.symm, hc, hf⟩ (.inr rfl) rfl rfl (h₁.trans (tokensOf_decision ..)) hl nofun hp ho, if_neg (by decide)]
  · rintro s d site e tag first x y ctl hs rfl hm hc hl hf hp
    rw [steer_whole ⟨hs, hm, rfl, hc, hf⟩ rfl (List.length_take_of_le hl), if_pos hp]

end Sys2Proof.Proofs

end

section
/-! The compute unit (R171, R188): what its maps, its tasks and the device read after a write. -/

namespace Sys2Proof.Proofs

open Sys2Proof.Machine Sys2Proof.Laws

/-! ## Lists and maps -/

section Lists

variable {α β : Type}

theorem nth_map_range (f : Nat → α) (d : α) {n i : Nat} (h : i < n) : nth ((List.range n).map f) i d = f i := by simp [nth, h]

/-- A list is the row of its elements. -/
theorem map_range_eq {f : Nat → α} {l : List α} {d : α} {n : Nat} (hl : l.length = n) (h : ∀ i, i < n → f i = nth l i d) :
    (List.range n).map f = l :=
  List.ext_getElem (by simp [hl]) fun i _ hi => by simp [h i (hl ▸ hi), nth, hi]

theorem nth_replicate (v d : α) {n i : Nat} (h : i < n) : nth (List.replicate n v) i d = v := by simp [nth, h]

theorem nth_setNth_self (l : List α) (v d : α) {k : Nat} (h : k < l.length) : nth (setNth l k v) k d = v := by simp [nth, setNth, h]

theorem nth_setNth_ne (l : List α) (v d : α) {j k : Nat} (h : j ≠ k) : nth (setNth l k v) j d = nth l j d := by
  simp [nth, setNth, List.getElem?_set_ne h.symm]

/-- An element changed twice, or no element where there is none. -/
theorem setNth_setNth_map (f : α → α) (l : List α) (v d : α) (k : Nat) :
    setNth (setNth l k v) k (f (nth (setNth l k v) k d)) = setNth l k (f v) := by
  by_cases h : k < l.length
  · rw [nth_setNth_self l v d h]; simp [setNth]
  · simp [setNth, List.set_eq_of_length_le (Nat.le_of_not_lt h)]

section Writes

variable {p : β → Bool} {key : β → Nat} {v : β → α} {l : List β}

/-- A key that no write of a fold names. -/
theorem mgetD_foldl_mset_out {k : Nat} (h : ∀ x ∈ l, key x ≠ k) (m : SMap α) (d : α) :
    mgetD (l.foldl (fun m x => if p x then mset m (key x) (v x) else m) m) k d = mgetD m k d := by
  induction l generalizing m with
  | nil => rfl
  | cons a t ih =>
    rw [List.foldl_cons, ih fun x hx => h x (List.mem_cons_of_mem a hx)]
    split
    · exact mgetD_mset_ne m _ _ (h a List.mem_cons_self)
    · rfl

/-- A key that one write of a fold names. -/
theorem mgetD_foldl_mset_in {x : β} (hx : x ∈ l) (hi : ∀ y ∈ l, key y = key x → y = x) (m : SMap α) (d : α) :
    mgetD (l.foldl (fun m x => if p x then mset m (key x) (v x) else m) m) (key x) d = if p x then v x else mgetD m (key x) d := by
  induction l generalizing m with
  | nil => exact absurd hx List.not_mem_nil
  | cons a t ih =>
    have ht : ∀ y ∈ t, key y = key x → y = x := fun y hy => hi y (List.mem_cons_of_mem a hy)
    rw [List.foldl_cons]
    by_cases hm : x ∈ t
    · rw [ih hm ht]
      by_cases hk : key a = key x
      · obtain rfl := hi a List.mem_cons_self hk
        split <;> rfl
      · cases p a
        · rfl
        · simp only [if_true, mgetD_mset_ne m _ _ hk]
    · obtain rfl := (List.mem_cons.1 hx).resolve_right hm
      rw [mgetD_foldl_mset_out fun y hy e => hm (ht y hy e ▸ hy)]
      cases p x
      · rfl
      · exact mgetD_mset_self m _ _ _

end Writes

/-- The lane of a row that has been written in the lanes of a mask. -/
theorem mgetD_row_self (mask : W64) (base : Nat) (vs : Nat → α) (m : SMap α) (d : α) {i : Nat} (h : i < 64) :
    mgetD ((List.range 64).foldl (fun m i => if bitOf mask i then mset m (base + i) (vs i) else m) m) (base + i) d =
      if bitOf mask i then vs i else mgetD m (base + i) d :=
  mgetD_foldl_mset_in (key := fun i => base + i) (List.mem_range.2 h) (fun _ _ => Nat.add_left_cancel) m d

/-- A place outside a row that has been written. -/
theorem mgetD_row_out (mask : W64) {base k : Nat} (vs : Nat → α) (m : SMap α) (d : α) (h : k < base ∨ base + 64 ≤ k) :
    mgetD ((List.range 64).foldl (fun m i => if bitOf mask i then mset m (base + i) (vs i) else m) m) k d = mgetD m k d :=
  mgetD_foldl_mset_out (key := fun i => base + i) (fun i hi => by have := List.mem_range.1 hi; omega) m d

end Lists

/-! ## Masks -/

theorem bitOf_eq_getLsbD (x : W64) (i : Nat) : bitOf x i = x.getLsbD i := rfl

theorem bitOf_allLanes {i : Nat} (h : i < 64) : bitOf allLanes i = true :=
  BitVec.getLsbD_allOnes.trans (decide_eq_true h)

/-- A bit of the sum of the powers of two at which a test holds. -/
theorem testBit_foldl_bits (p : Nat → Bool) (n i : Nat) :
    ((List.range n).foldl (fun m i => if p i then m + 2 ^ i else m) 0).testBit i = (decide (i < n) && p i) := by
  induction n generalizing i with
  | zero => simp
  | succ n ih =>
    rw [List.range_succ, List.foldl_append, List.foldl_cons, List.foldl_nil]
    have hlt : (List.range n).foldl (fun m i => if p i then m + 2 ^ i else m) 0 < 2 ^ n :=
      Nat.lt_pow_two_of_testBit _ fun j hj => by simp [ih, Nat.not_lt.2 hj]
    by_cases hi : i = n
    · subst hi
      split
      · next hp => rw [Nat.add_comm, Nat.testBit_two_pow_add_eq, ih, hp]; simp
      · next hp => rw [ih, Bool.eq_false_iff.2 hp]; simp
    · have hd : decide (i < n + 1) = decide (i < n) := decide_eq_decide.2 (by omega)
      split
      · rw [Nat.add_comm, ← Nat.mul_one (2 ^ n), Nat.two_pow_add_eq_or_of_lt hlt, Nat.mul_one, Nat.testBit_or, ih,
          Nat.testBit_two_pow_of_ne (Ne.symm hi), hd, Bool.false_or]
      · rw [ih, hd]

/-! ## Registers of a task (R188) -/

section Task

variable (y : TaskSt) {q r i : Nat} (vs : List W32) (mask : W64) (mark partly : Bool)

theorem lane_setReg_self (h : i < 64) : (y.setReg r vs mask).lane r i = if bitOf mask i then nth vs i 0 else y.lane r i :=
  mgetD_row_self mask (64 * r) (fun i => nth vs i 0) y.lanes 0 h

theorem lane_setReg_ne (hq : q ≠ r) (h : i < 64) : (y.setReg r vs mask).lane q i = y.lane q i :=
  mgetD_row_out mask (fun i => nth vs i 0) y.lanes 0 (by omega)

theorem lane_setReg_all (h : i < 64) : (y.setReg r vs allLanes).lane r i = nth vs i 0 := by
  rw [lane_setReg_self y vs allLanes h, if_pos (bitOf_allLanes h)]

/-- A mark that is set changes the marks alone. -/
theorem setMark_eq : y.setMark r mark partly = { y with marks := (y.setMark r mark partly).marks } := by
  unfold TaskSt.setMark
  split
  · rfl
  · split <;> rfl

@[simp] theorem setMark_lanes : (y.setMark r mark partly).lanes = y.lanes := by rw [setMark_eq]
@[simp] theorem setMark_masks : (y.setMark r mark partly).masks = y.masks := by rw [setMark_eq]
@[simp] theorem setMark_loops : (y.setMark r mark partly).loops = y.loops := by rw [setMark_eq]
@[simp] theorem setMark_tb : (y.setMark r mark partly).tb = y.tb := by rw [setMark_eq]
@[simp] theorem setMark_finished : (y.setMark r mark partly).finished = y.finished := by rw [setMark_eq]

@[simp] theorem lane_setMark : (y.setMark r mark partly).lane q i = y.lane q i := by simp [TaskSt.lane]

theorem lane_written_self (h : i < 64) :
    ((y.setReg r vs mask).setMark r mark partly).lane r i = if bitOf mask i then nth vs i 0 else y.lane r i :=
  (lane_setMark ..).trans (lane_setReg_self y vs mask h)

theorem lane_written_all (h : i < 64) : ((y.setReg r vs allLanes).setMark r mark partly).lane r i = nth vs i 0 :=
  (lane_setMark ..).trans (lane_setReg_all y vs h)

theorem lane_written_ne (hq : q ≠ r) (h : i < 64) : ((y.setReg r vs mask).setMark r mark partly).lane q i = y.lane q i :=
  (lane_setMark ..).trans (lane_setReg_ne y vs mask hq h)

theorem reg_eq_of_lanes {y : TaskSt} {vs : List W32} (hl : vs.length = 64) (h : ∀ i, i < 64 → y.lane r i = nth vs i 0) :
    y.reg r = vs := map_range_eq hl h

@[simp] theorem length_reg : (y.reg r).length = 64 := by simp [TaskSt.reg]

@[simp] theorem length_regBytes : (y.regBytes r).length = 256 := by
  simp [TaskSt.regBytes, TaskSt.reg, List.length_flatMap, Function.comp_def]

end Task

/-! ## Rows of a bank (R182) -/

section Banks

variable (x : CuSt) {b c r k : Nat} (vs : List W32) (mask : W64)

theorem acc_setBankRow_self {i : Nat} (h : i < 64) : mgetD (x.setBankRow b r vs mask).acc (1024 * b + 64 * r + i) 0 =
    if bitOf mask i then nth vs i 0 else mgetD x.acc (1024 * b + 64 * r + i) 0 :=
  mgetD_row_self mask (1024 * b + 64 * r) (fun i => nth vs i 0) x.acc 0 h

theorem bankRow_setBankRow_all (hv : vs.length = 64) : (x.setBankRow b r vs allLanes).bankRow b r = vs :=
  map_range_eq (d := 0) hv fun i hi => by rw [acc_setBankRow_self x vs allLanes hi, if_pos (bitOf_allLanes hi)]

theorem bankRow_setBankRow_ne (hr : r < 16) (hk : k < 16) (h : c ≠ b ∨ k ≠ r) :
    (x.setBankRow b r vs mask).bankRow c k = x.bankRow c k :=
  List.map_congr_left fun i hi => by
    have hi' := List.mem_range.1 hi
    exact mgetD_row_out mask (fun i => nth vs i 0) x.acc 0 (by omega)

end Banks

/-! ## The device -/

section Device

variable (s : State) (o : CuOp) (y : TaskSt)

@[simp] theorem cu_setCu_self (n : Nat) (x : CuSt) : (s.setCu n x).cu n = x := mgetD_mset_self _ _ _ _

theorem cu_setCu_ne {n k : Nat} (x : CuSt) (h : k ≠ n) : (s.setCu n x).cu k = s.cu k := mgetD_mset_ne _ _ _ h.symm

@[simp] theorem setCu_setCu (n : Nat) (x z : CuSt) : (s.setCu n x).setCu n z = s.setCu n z := by simp [State.setCu]

theorem cu_setCuTask : (s.setCuTask o y).cu o.n = { s.cu o.n with tasks := setNth (s.cu o.n).tasks o.t y } := cu_setCu_self ..

/-- The task goes on at the next word after it is written. -/
theorem setCuTask_cuAdvance : (s.setCuTask o y).cuAdvance o = s.setCuTask o { y with pc := o.pc + 1 } := by
  have h := setNth_setNth_map (fun y : TaskSt => { y with pc := o.pc + 1 }) (s.cu o.n).tasks y .fresh o.t
  simp only [State.cuAdvance, State.cuGoto, State.cuTask, State.setCuTask, cu_setCu_self, setCu_setCu, h]

theorem cuCountVec_cuAdvance : (s.cuCountVec o).cuAdvance o = (s.cuAdvance o).cuCountVec o := rfl

/-- A unit that is written, with its tasks as they were, before its task goes on at the next word. -/
theorem cu_setCu_cuAdvance (x : CuSt) (h : x.tasks = (s.cu o.n).tasks) :
    ((s.setCu o.n x).cuAdvance o).cu o.n = { x with tasks := setNth (s.cu o.n).tasks o.t { s.cuTask o with pc := o.pc + 1 } } := by
  simp [State.cuAdvance, State.cuGoto, State.cuTask, State.setCuTask, h]

/-! ### What an instruction leaves of its task -/

theorem taskGoes_setCuTask : TaskGoes s (s.setCuTask o y) o y [] :=
  ⟨cu_setCuTask s o y, fun _ hk => cu_setCu_ne s _ hk, sameRegs_refl _ _, rfl⟩

theorem taskGoes_cuAdvance : TaskGoes s ((s.setCuTask o y).cuAdvance o) o { y with pc := o.pc + 1 } [] := by
  rw [setCuTask_cuAdvance]
  exact taskGoes_setCuTask s o _

/-- An instruction that writes lanes of a register and meets no event. -/
theorem taskGoes_written (r : Nat) (vs : List W32) (mask : W64) (mark partly : Bool) :
    ∃ y, TaskGoes s ((s.setCuTask o (((s.cuTask o).setReg r vs mask).setMark r mark partly)).cuAdvance o) o y [] ∧ y.pc = o.pc + 1 ∧
      (∀ i, i < 64 → y.lane r i = if bitOf mask i then nth vs i 0 else (s.cuTask o).lane r i) ∧
      (∀ q i, q ≠ r → i < 64 → y.lane q i = (s.cuTask o).lane q i) :=
  ⟨_, taskGoes_cuAdvance s o _, rfl, fun _ hi => lane_written_self _ vs mask mark partly hi,
    fun _ _ hq hi => lane_written_ne _ vs mask mark partly hq hi⟩

/-- One that writes every lane of the register. -/
theorem taskGoes_writtenWhole (r : Nat) (vs : List W32) (mark partly : Bool) :
    ∃ y, TaskGoes s ((s.setCuTask o (((s.cuTask o).setReg r vs allLanes).setMark r mark partly)).cuAdvance o) o y [] ∧ y.pc = o.pc + 1 ∧
      (∀ i, i < 64 → y.lane r i = nth vs i 0) ∧ (∀ q i, q ≠ r → i < 64 → y.lane q i = (s.cuTask o).lane q i) := by
  obtain ⟨y, hy, hp, hl, hr⟩ := taskGoes_written s o r vs allLanes mark partly
  exact ⟨y, hy, hp, fun i hi => (hl i hi).trans (if_pos (bitOf_allLanes hi)), hr⟩

/-- A vector instruction is counted in `CU_VEC_ISSUES` of its unit alone (R197). -/
theorem taskGoes_counted : TaskGoes s (((s.setCuTask o y).cuCountVec o).cuAdvance o) o { y with pc := o.pc + 1 }
    [R.CU_VEC_ISSUES.at (s.unitWindow o.n)] := by
  rw [cuCountVec_cuAdvance, setCuTask_cuAdvance]
  exact ⟨cu_setCuTask s o _, fun _ hk => cu_setCu_ne s _ hk,
    sameRegs_countWrap (sameRegs_refl s _) F.CU_VEC_ISSUES_COUNT (s.unitWindow o.n) 0 1 List.mem_cons_self, rfl⟩

end Device

/-- The instruction that is ready and has the opcode is carried out. -/
theorem cuIssue_ready {s : State} {n op : Nat} {o : CuOp} (h : s.cuReady n = some o) (ho : bitsOf o.w 0 8 = op)
    (f : State → CuOp → State) : s.cuIssue n op f = f s o := by
  simp [State.cuIssue, h, ho]

theorem next_cuIssue {s t : State} {n op : Nat} {o : CuOp} {f : State → CuOp → State} (h : s.cuReady n = some o)
    (ho : bitsOf o.w 0 8 = op) (hf : f s o = t) : (.next (s.cuIssue n op f) : Host.Outcome State Fault Refusal) = .next t :=
  congrArg _ ((cuIssue_ready h ho f).trans hf)

/-- What the work of an instruction leaves before its events are taken, once the instruction issues. -/
theorem next_cuIssue_events {s : State} {n op : Nat} {o : CuOp} {f : State → CuOp → State} {P : State → List (Nat × NanEvent) → Prop}
    (h : s.cuReady n = some o) (ho : bitsOf o.w 0 8 = op) (hf : ∃ t es, f s o = t.cuEvents o es ∧ P t es) :
    ∃ t es, (.next (s.cuIssue n op f) : Host.Outcome State Fault Refusal) = .next (t.cuEvents o es) ∧ P t es := by
  obtain ⟨t, es, ht, hp⟩ := hf
  exact ⟨t, es, next_cuIssue h ho ht, hp⟩

end Sys2Proof.Proofs

end

section
/-! Matrix instructions (R173 to R177, R182, R238 to R243): what one that completes without an event leaves in its bank. -/

namespace Sys2Proof.Proofs

open Sys2Proof.Machine Sys2Proof.Laws

section Matrix

variable {s : State} {x : CuSt} {first n r c : Nat} {run : CastRun} {m : MmSt} {cells : List ((Nat × Nat) × W32)}

/-! ## The cells of a bank (R182) -/

/-- The place in the accumulator file of the cell at a row and a column of a bank. -/
def cellKey (b : Nat) (p : Nat × Nat) : Nat := 1024 * b + 64 * p.1 + p.2

theorem mem_bankCells {p : Nat × Nat} : p ∈ bankCells ↔ p.1 < 16 ∧ p.2 < 64 := by
  obtain ⟨r, c⟩ := p
  simp [bankCells, eq_comm]

theorem cellKey_inj {b : Nat} {p q : Nat × Nat} (hp : p ∈ bankCells) (hq : q ∈ bankCells) (h : cellKey b p = cellKey b q) : p = q := by
  obtain ⟨_, hp⟩ := mem_bankCells.1 hp
  obtain ⟨_, hq⟩ := mem_bankCells.1 hq
  unfold cellKey at h
  exact Prod.ext (by omega) (by omega)

theorem cellKey_within {b : Nat} {p : Nat × Nat} (hp : p ∈ bankCells) : 1024 * b ≤ cellKey b p ∧ cellKey b p < 1024 * (b + 1) := by
  obtain ⟨hr, hc⟩ := mem_bankCells.1 hp
  unfold cellKey
  omega

/-- A unit with a value written in each cell of the bank of a matrix instruction. -/
theorem mmWrite_acc (v : Nat × Nat → W32) : (x.mmWrite m (bankCells.map fun p => (p, v p))).acc =
    bankCells.foldl (fun a p => mset a (cellKey (bitsOf m.w0 12 3) p) (v p)) x.acc := by
  simp only [CuSt.mmWrite, List.foldl_map, cellKey]

theorem mmWrite_mm : (x.mmWrite m cells).mm = none := rfl

theorem mmWrite_buf : (x.mmWrite m cells).buf = x.buf := rfl

theorem mmWrite_tasks : (x.mmWrite m cells).tasks = x.tasks := rfl

theorem mmWrite_cell (v : Nat × Nat → W32) (hr : r < 16) (hc : c < 64) :
    mgetD (x.mmWrite m (bankCells.map fun p => (p, v p))).acc (1024 * bitsOf m.w0 12 3 + 64 * r + c) 0 = v (r, c) := by
  have hp : (r, c) ∈ bankCells := mem_bankCells.2 ⟨hr, hc⟩
  rw [mmWrite_acc]
  exact mgetD_foldl_mset_in (p := fun _ => true) (key := cellKey _) hp (fun _ hq => cellKey_inj hq hp) x.acc 0

theorem mmWrite_apart (v : Nat × Nat → W32) {a : Nat} (h : a < 1024 * bitsOf m.w0 12 3 ∨ 1024 * (bitsOf m.w0 12 3 + 1) ≤ a) :
    mgetD (x.mmWrite m (bankCells.map fun p => (p, v p))).acc a 0 = mgetD x.acc a 0 := by
  rw [mmWrite_acc]
  refine mgetD_foldl_mset_out (p := fun _ => true) (key := cellKey _) (fun q hq => ?_) x.acc 0
  have := cellKey_within (b := bitsOf m.w0 12 3) hq
  omega

/-! ## Completion (R173, R248) -/

/-- The element of a cell by the rule of its unit, with the events met (R238 to R243). -/
def mmCell (x : CuSt) (n : Nat) (m : MmSt) (p : Nat × Nat) : W32 × List NanEvent :=
  mmElement (cuPrecise n) m.w0 m.w1 ((ofF32 m.ta).mul (ofF32 m.tb)) (x.mmStart m p) (mmTerms m.w0 m.w1 (x.mmData m) p.1 p.2)

theorem mmEvents_eq_nil {all : List ((Nat × Nat) × W32 × List NanEvent)} (h : ∀ p ∈ all, p.2.2 = []) : mmEvents all = [] := by
  have hf : all.flatMap (fun p => p.2.2.map fun e => (p.1.1, p.1.2, e)) = [] :=
    List.flatMap_eq_nil_iff.2 fun p hp => by rw [h p hp]; rfl
  rw [mmEvents, hf]
  rfl

/-- A matrix instruction that meets no event writes the element of every cell and counts all of its firings. -/
theorem mmDone_quiet (h : ∀ p ∈ bankCells, (mmCell (s.cu n) n m p).2 = []) : s.mmDone first run n m =
    (s.setCu n ((s.cu n).mmWrite m (bankCells.map fun p => (p, (mmCell (s.cu n) n m p).1)))).countWrap F.CU_MM_FIRINGS_COUNT
      (s.unitWindow n) 0 (mmFirings m.w0 (mmSteps m.w0)) := by
  have hall : (s.cu n).mmBank n m (mmTerms m.w0 m.w1 ((s.cu n).mmData m)) = bankCells.map fun p => (p, mmCell (s.cu n) n m p) :=
    rfl
  have hes : mmEvents (bankCells.map fun p => (p, mmCell (s.cu n) n m p)) = [] :=
    mmEvents_eq_nil fun q hq => by obtain ⟨p, hp, rfl⟩ := List.mem_map.1 hq; exact h p hp
  simp only [State.mmDone, hall, hes, List.head?_nil, List.map_map]
  rfl

end Matrix

/-- Settles O38: without an event every cell takes its element, and the fold that writes the bank names each cell once. -/
theorem matrixResultsFillTheBank : Obligations.MatrixResultsFillTheBank := by
  unfold Obligations.MatrixResultsFillTheBank
  rintro s t first n b x m start el rfl hs hel hq rfl
  have hc : ∀ p, mmCell (s.cu n) n m p = el p.1 p.2 := fun p => by rw [hel, hs]; rfl
  rw [mmDone_quiet fun p hp => by rw [hc]; exact hq _ _ (mem_bankCells.1 hp).1 (mem_bankCells.1 hp).2]
  have hu : ∀ z k, ((s.setCu n z).countWrap F.CU_MM_FIRINGS_COUNT (s.unitWindow n) 0 k).cu n = z := fun z _ => cu_setCu_self s n z
  simp only [hu, hc]
  refine ⟨fun r c hr hc => mmWrite_cell _ hr hc, fun a ha => mmWrite_apart _ ha, mmWrite_mm, mmWrite_buf, mmWrite_tasks,
    fun k hk => cu_setCu_ne s _ hk, ?_⟩
  exact sameRegs_countWrap (sameRegs_refl s _) F.CU_MM_FIRINGS_COUNT (s.unitWindow n) 0 _ List.mem_cons_self

end Sys2Proof.Proofs

end

section
/-! Task control of a compute unit (R263, R264, R181): what each control instruction leaves of its task. -/

namespace Sys2Proof.Proofs

open Sys2Proof.Machine Sys2Proof.Laws

section Control

variable {s : State} {o : CuOp}

/-- `NEXT` where no stored token of the task falls behind the new base: nothing is dropped and nothing counted (R263). -/
theorem cuNext_keeps {tb : Nat} (ht : tb = ((s.cuTask o).tb + bitsOf o.w 8 4) % 65536)
    (h : ∀ h ∈ (s.cu o.n).store, h.token.task = o.t → tagAhead h.token.tag tb < 32768) :
    s.cuNext o = s.setCuTask o { s.cuTask o with tb := tb, pc := o.pc + 1 } := by
  subst ht
  have old : (s.cu o.n).store.filter (fun h => h.token.task == o.t && !(s.cu o.n).wants h &&
      decide (32768 ≤ tagAhead h.token.tag (((s.cuTask o).tb + bitsOf o.w 8 4) % 65536))) = [] := by
    refine List.filter_eq_nil_iff.2 fun k hk => ?_
    simp only [Bool.and_eq_true, beq_iff_eq, decide_eq_true_eq, not_and, Nat.not_le]
    exact fun hp => h k hk hp.1
  simp only [State.cuNext, old]
  simp [State.setCuTask]

theorem taskGoes_cuNext {tb : Nat} (ht : tb = ((s.cuTask o).tb + bitsOf o.w 8 4) % 65536)
    (h : ∀ h ∈ (s.cu o.n).store, h.token.task = o.t → tagAhead h.token.tag tb < 32768) :
    TaskGoes s (s.cuNext o) o { s.cuTask o with tb := tb, pc := o.pc + 1 } [] := by
  rw [cuNext_keeps ht h]
  exact taskGoes_setCuTask s o _

theorem taskGoes_cuBfirst : TaskGoes s (s.cuBfirst o) o
    { s.cuTask o with pc := if s.firstStep o.run.cast then bitsOf o.w 8 12 else o.pc + 1 } [] := by
  unfold State.cuBfirst
  split
  · exact taskGoes_setCuTask s o _
  · exact taskGoes_setCuTask s o _

/-- `LOOP` leaves the counter one lower, where 0 stays 0 (R264). -/
theorem taskGoes_cuLoop {l : Nat} (hl : l = nth (s.cuTask o).loops (bitsOf o.w 8 2) 0) : TaskGoes s (s.cuLoop o) o
    { s.cuTask o with loops := setNth (s.cuTask o).loops (bitsOf o.w 8 2) (l - 1)
                      pc := if 1 < l then bitsOf o.w 10 12 else o.pc + 1 } [] := by
  subst hl
  unfold State.cuLoop
  dsimp only
  split
  · exact taskGoes_setCuTask s o _
  · next h =>
    rw [Nat.sub_eq_zero_of_le (Nat.not_lt.1 h)]
    exact taskGoes_setCuTask s o _

end Control

/-- Settles O35: each instruction issues and replaces its task in its unit. -/
theorem taskControlMovesThePc : Obligations.TaskControlMovesThePc := by
  unfold Obligations.TaskControlMovesThePc
  refine ⟨fun s cu o h ho => ?_, fun s cu o tb h ho ht hs => ?_, fun s cu o h ho => ?_, fun s cu o h ho => ?_, fun s cu o h ho => ?_,
    fun s cu o l h ho hl => ?_⟩
  · exact ⟨_, next_cuIssue h ho rfl, taskGoes_setCuTask s o _⟩
  · exact ⟨_, next_cuIssue h ho rfl, taskGoes_cuNext ht hs⟩
  · exact ⟨_, next_cuIssue h ho rfl, taskGoes_setCuTask s o _⟩
  · exact ⟨_, next_cuIssue h ho rfl, taskGoes_cuBfirst⟩
  · exact ⟨_, next_cuIssue h ho rfl, taskGoes_setCuTask s o _⟩
  · exact ⟨_, next_cuIssue h ho rfl, taskGoes_cuLoop hl⟩

end Sys2Proof.Proofs

end

section
/-! Vector instructions (R185, R186, R265): what each leaves in the lanes that it writes, and its events. -/

namespace Sys2Proof.Proofs

open Sys2Proof.Machine Sys2Proof.Laws

/-! ## The tree of a reduction (R186) -/

/-- One level of the tree halves the number of lanes. -/
theorem pairwise_eq_map (f : W32 → W32 → W32) {n : Nat} {l : List W32} (h : l.length = 2 * n) :
    pairwise f l = (List.range n).map (fun i => f (nth l (2 * i) 0) (nth l (2 * i + 1) 0)) := by
  induction n generalizing l with
  | zero => simp [List.length_eq_zero_iff.1 h, pairwise]
  | succ n ih =>
    match l, h with
    | a :: b :: t, h =>
      rw [pairwise, ih (by simp only [List.length_cons] at h; omega), List.range_succ_eq_map]
      simp [nth, Nat.mul_add]

/-- One level of the tree over the results of the level below. -/
theorem pairwise_level (f : W32 → W32 → W32) {u v : Nat → W32} {n : Nat} (h : ∀ i, i < n → v i = f (u (2 * i)) (u (2 * i + 1))) :
    pairwise f ((List.range (2 * n)).map u) = (List.range n).map v := by
  rw [pairwise_eq_map f (n := n) (by simp)]
  refine List.map_congr_left fun i hi => ?_
  have hi := List.mem_range.1 hi
  rw [nth_map_range u 0 (by omega), nth_map_range u 0 (by omega), h i hi]

theorem redTree_levels (f : W32 → W32 → W32) {a : List W32} {l : Nat → Nat → W32} (ha : a.length = 64)
    (h0 : ∀ i, i < 64 → l 0 i = nth a i 0)
    (hl : ∀ k, k < 6 → ∀ i, i < 2 ^ (5 - k) → l (k + 1) i = f (l k (2 * i)) (l k (2 * i + 1))) : redTree f a = l 6 0 := by
  rw [← map_range_eq ha h0, redTree, pairwise_level f (n := 32) (hl 0 (by decide)), pairwise_level f (n := 16) (hl 1 (by decide)),
    pairwise_level f (n := 8) (hl 2 (by decide)), pairwise_level f (n := 4) (hl 3 (by decide)), pairwise_level f (n := 2) (hl 4 (by decide)),
    pairwise_level f (n := 1) (hl 5 (by decide))]
  rfl

/-! ## Events of lanes (R248) -/

theorem laneEvents_eq_nil (mask : W64) (a b c r : List W32) : laneEvents mask a b c r = [] ↔ ∀ i, i < 64 → bitOf mask i = true →
    isNanLane (nth a i 0) = false ∧ isNanLane (nth b i 0) = false ∧ isNanLane (nth c i 0) = false ∧ isNanLane (nth r i 0) = false := by
  unfold laneEvents
  simp [List.filterMap_eq_nil_iff, and_assoc]

/-- An absent source, +0 in every lane, is a number. -/
theorem isNanLane_zeros {i : Nat} (h : i < 64) : isNanLane (nth (List.replicate 64 (0 : W32)) i 0) = false := by
  rw [nth_replicate _ _ h]
  decide

/-! ## Results -/

section Results

variable {s : State} {o : CuOp} {f : Nat → W32} {vs : List W32} {mark partly : Bool}

/-- A task whose register is written in the lanes of the mask, and marked. -/
theorem vectorResult_setReg (hf : ∀ i, i < 64 → nth vs i 0 = f i) : VectorResult s
    (((s.setCuTask o (((s.cuTask o).setReg (bitsOf o.w 11 5) vs (cuMask (s.cuTask o) o.w)).setMark (bitsOf o.w 11 5) mark partly)).cuCountVec
      o).cuAdvance o) o f := by
  refine ⟨_, taskGoes_counted s o _, rfl, fun i hi => ?_, fun r i hr hi => lane_written_ne _ vs _ mark partly hr hi,
    setMark_masks .., setMark_loops .., setMark_tb .., setMark_finished ..⟩
  rw [← hf i hi]
  exact lane_written_self _ vs _ mark partly hi

variable (s o) in
/-- The second or third source of a lane operation: +0 where the operation has fewer. -/
def laneSource (srcs k lo : Nat) : List W32 :=
  if k ≤ srcs then cuSource (s.cuTask o) o.w (bitsOf o.w lo 6) false else List.replicate 64 0

/-- An operation whose lanes are independent. -/
theorem cuLanes_result (srcs : Nat) (g : W32 → W32 → W32 → W32) {a b c : List W32}
    (ha : a = cuSource (s.cuTask o) o.w (bitsOf o.w 16 6) (bitOf o.w 38)) (hb : b = laneSource s o srcs 2 22)
    (hc : c = laneSource s o srcs 3 28) : ∃ t, s.cuLanes o srcs g = t.cuEvents o (laneEvents (cuMask (s.cuTask o) o.w) a b c
        ((List.range 64).map (fun i => g (nth a i 0) (nth b i 0) (nth c i 0)))) ∧
      VectorResult s t o (fun i => g (nth a i 0) (nth b i 0) (nth c i 0)) := by
  subst ha hb hc
  exact ⟨_, rfl, vectorResult_setReg fun i hi => nth_map_range _ 0 hi⟩

/-- An operation of one source. -/
theorem cuLanes_one (g : W32 → W32) {a : List W32} (ha : a = cuSource (s.cuTask o) o.w (bitsOf o.w 16 6) (bitOf o.w 38)) :
    ∃ t es, s.cuLanes o 1 (fun a _ _ => g a) = t.cuEvents o es ∧ VectorResult s t o (fun i => g (nth a i 0)) := by
  obtain ⟨t, ht, hr⟩ := cuLanes_result 1 (fun a _ _ => g a) ha rfl rfl
  exact ⟨t, _, ht, hr⟩

/-- An operation of two sources, with an event where an operand or the result of a lane that it writes is not a number. -/
theorem cuLanes_two (g : W32 → W32 → W32) {a b : List W32} (ha : a = cuSource (s.cuTask o) o.w (bitsOf o.w 16 6) (bitOf o.w 38))
    (hb : b = cuSource (s.cuTask o) o.w (bitsOf o.w 22 6) false) :
    ∃ t es, s.cuLanes o 2 (fun a b _ => g a b) = t.cuEvents o es ∧ VectorResult s t o (fun i => g (nth a i 0) (nth b i 0)) ∧
      (es = [] ↔ ∀ i, i < 64 → bitOf (cuMask (s.cuTask o) o.w) i = true →
        isNanLane (nth a i 0) = false ∧ isNanLane (nth b i 0) = false ∧ isNanLane (g (nth a i 0) (nth b i 0)) = false) := by
  obtain ⟨t, ht, hr⟩ := cuLanes_result (b := b) (c := List.replicate 64 0) 2 (fun a b _ => g a b) ha hb rfl
  refine ⟨t, _, ht, hr, (laneEvents_eq_nil ..).trans (forall₃_congr fun i hi _ => ?_)⟩
  rw [nth_map_range _ 0 hi, isNanLane_zeros hi]
  simp

/-- `SEL` (R185). -/
theorem cuSel_result {a b : List W32} (ha : a = cuSource (s.cuTask o) o.w (bitsOf o.w 16 6) (bitOf o.w 38))
    (hb : b = cuSource (s.cuTask o) o.w (bitsOf o.w 22 6) false) : ∃ t es, s.cuSel o = t.cuEvents o es ∧
      VectorResult s t o (fun i => if bitOf ((s.cuTask o).mask (bitsOf o.w 34 3)) i then nth a i 0 else nth b i 0) := by
  subst ha hb
  exact ⟨_, _, rfl, vectorResult_setReg fun i hi => nth_map_range _ 0 hi⟩

/-- `RED` (R186). -/
theorem cuRed_result {a : List W32} (ha : a = cuSource (s.cuTask o) o.w (bitsOf o.w 16 6) (bitOf o.w 38)) :
    ∃ t es, s.cuRed o = t.cuEvents o es ∧
      VectorResult s t o (fun i => if i = 0 then redTree (if bitsOf o.w 43 3 = 0 then f32Add else f32Max) a else 0) := by
  subst ha
  refine ⟨_, _, rfl, vectorResult_setReg fun i hi => ?_⟩
  cases i with
  | zero => rfl
  | succ i => exact nth_replicate _ _ (by omega)

end Results

/-- Settles O39: the tree level by level, one rounding in the definition of the addition, and what `RED` leaves. -/
theorem reductionsCombineInAFixedTree : Obligations.ReductionsCombineInAFixedTree := by
  unfold Obligations.ReductionsCombineInAFixedTree
  exact ⟨fun f a l ha h0 hl => redTree_levels f ha h0 hl, fun _ _ => rfl,
    fun s cu o a h ho ha => next_cuIssue_events h ho (cuRed_result ha)⟩

end Sys2Proof.Proofs

end

section
/-! Comparisons, row sums, conversions and moves of a compute unit (R183, R185, R244 to R247, R265 to R267). -/

namespace Sys2Proof.Proofs

open Sys2Proof.Machine Sys2Proof.Laws

section Moves

variable {s : State} {o : CuOp}

/-! ## `CMP` (R265) -/

/-- A mask register with the bits of a comparison in the lanes of a mask. -/
theorem bitOf_mergeMask_bits (old mask : W64) (p : Nat → Bool) {i : Nat} (h : i < 64) :
    bitOf (mergeMask old (BitVec.ofNat 64 ((List.range 64).foldl (fun m i => if p i then m + 2 ^ i else m) 0)) mask) i =
      if bitOf mask i then p i else bitOf old i := by
  rw [bitOf_eq_getLsbD, mergeMask_getLsbD, BitVec.getLsbD_ofNat, testBit_foldl_bits, decide_eq_true h, Bool.true_and, Bool.true_and]
  rfl

/-- `CMP` where no operand of a lane that it writes is a NaN. -/
theorem cuCmp_result {a b : List W32} {k : Nat} (ha : a = cuSource (s.cuTask o) o.w (bitsOf o.w 16 6) (bitOf o.w 38))
    (hb : b = cuSource (s.cuTask o) o.w (bitsOf o.w 22 6) false) (hk : k = bitsOf o.w 11 3) (hm : (s.cuTask o).masks.length = 8)
    (hn : ∀ i, i < 64 → bitOf (cuMask (s.cuTask o) o.w) i = true → isNanLane (nth a i 0) = false ∧ isNanLane (nth b i 0) = false) :
    ∃ y, TaskGoes s (s.cuCmp o) o y [R.CU_VEC_ISSUES.at (s.unitWindow o.n)] ∧ y.pc = o.pc + 1 ∧
      y.lanes = (s.cuTask o).lanes ∧ (∀ j, j ≠ k → y.mask j = (s.cuTask o).mask j) ∧
      (∀ i, i < 64 → bitOf (y.mask k) i = if bitOf (cuMask (s.cuTask o) o.w) i then f32Cmp (bitsOf o.w 43 3) (nth a i 0) (nth b i 0)
        else bitOf ((s.cuTask o).mask k) i) := by
  subst ha hb hk
  have hes : laneEvents (cuMask (s.cuTask o) o.w) (cuSource (s.cuTask o) o.w (bitsOf o.w 16 6) (bitOf o.w 38))
      (cuSource (s.cuTask o) o.w (bitsOf o.w 22 6) false) (List.replicate 64 0) (List.replicate 64 0) = [] :=
    (laneEvents_eq_nil ..).2 fun i hi hb => ⟨(hn i hi hb).1, (hn i hi hb).2, isNanLane_zeros hi, isNanLane_zeros hi⟩
  have hk : bitsOf o.w 11 3 < (s.cuTask o).masks.length := hm ▸ bitsOf_lt o.w 11 3
  unfold State.cuCmp
  simp only [hes, List.map_nil, List.isEmpty_nil, if_true]
  refine ⟨_, taskGoes_counted s o _, rfl, rfl, fun j hj => nth_setNth_ne _ _ 0 hj, fun i hi => ?_⟩
  refine (congrArg (bitOf · i) (nth_setNth_self _ _ 0 hk)).trans (bitOf_mergeMask_bits _ _ _ hi)

/-! ## `ROWSUM` (R183) -/

section Rowsum

variable {x : CuSt} {k : Nat} (hx : x = s.cu o.n) (hk : k = 2 ^ bitsOf o.w 43 3)
include hx hk

theorem cuRowsum_copies (hr : bitsOf o.w 19 4 % k = 0) : s.cuRowsum o = ((s.setCu o.n (x.setBankRow (bitsOf o.w 16 3)
    (bitsOf o.w 19 4 / k) (x.bankRow (bitsOf o.w 16 3) (bitsOf o.w 19 4)) (cuMask (s.cuTask o) o.w))).cuCountVec o).cuAdvance o := by
  subst hx hk
  exact if_pos hr

theorem cuRowsum_adds {v : List W32} (hr : bitsOf o.w 19 4 % k ≠ 0)
    (hv : v = (List.range 64).map (fun i => f32Add (nth (x.bankRow (bitsOf o.w 16 3) (bitsOf o.w 19 4 / k)) i 0)
      (nth (x.bankRow (bitsOf o.w 16 3) (bitsOf o.w 19 4)) i 0))) :
    ∃ es, s.cuRowsum o = (((s.setCu o.n (x.setBankRow (bitsOf o.w 16 3) (bitsOf o.w 19 4 / k) v
      (cuMask (s.cuTask o) o.w))).cuCountVec o).cuAdvance o).cuEvents o es := by
  subst hx hk hv
  exact ⟨_, if_neg hr⟩

end Rowsum

/-! ## `CVT` (R244 to R247, R267) -/

theorem cvtWiden_result {f n : Nat} {bs : List Byte} (hf : f = bitsOf o.w 39 4) (hn : n = blkLen (bitsOf o.w 44 3))
    (hb : bs = (s.cuTask o).regBytes (bitsOf o.w 16 6)) : ∃ t es, s.cvtWiden o = t.cuEvents o es ∧
      VectorResult s t o (fun i => nth (widenRow f n (bitOf o.w 48) (ofF32 (cvtScale (s.cuTask o) o.w))
        ((List.range 64).map (packedElem f bs)) (if n = 0 then [] else ((s.cuTask o).regBytes (bitsOf o.w 16 6 + 1)).map (fun b => b.toNat)))
        i 0) := by
  subst hf hn hb
  exact ⟨_, _, rfl, vectorResult_setReg fun _ _ => rfl⟩

/-- The random values of a conversion that draws none. -/
theorem map_undrawn {α : Type} (g : Nat → W32 × Nat) (v : W32 × Nat → α) (d : α) {draw : Bool} (h : draw = false) (n : Nat) :
    (((List.range n).map g).map fun z => if draw then v z else d) = List.replicate n d := by
  subst h
  simp [Function.comp_def, List.map_const']

@[simp] theorem length_lanesOf (bs : List Byte) : (lanesOf bs).length = 64 := by simp [lanesOf]

/-- A narrowing `CVT` without block scales and without random rounding draws one free value, for the bytes past the packed row. -/
theorem cvtNarrow_result {f vd : Nat} {a : List W32} (hs : cvtStochastic o.w = false) (hf : f = bitsOf o.w 39 4)
    (hv : vd = bitsOf o.w 11 5) (hb : blkLen (bitsOf o.w 44 3) = 0) (ha : a = cuSource (s.cuTask o) o.w (bitsOf o.w 16 6) false) :
    ∃ t y es, s.cvtNarrow o = t.cuEvents o es ∧
      TaskGoes { s with freeCtr := t.freeCtr } t o y [R.CU_VEC_ISSUES.at (s.unitWindow o.n)] ∧ y.pc = o.pc + 1 ∧
      y.reg vd = lanesOf (packInto f ((s.cuTask o).regBytes vd) (narrowRow f 0 (bitOf o.w 48) (ofF32 (cvtScale (s.cuTask o) o.w))
        (a.map ofF32) (List.replicate 64 none)).1 (cuMask (s.cuTask o) o.w) s.free) ∧
      (∀ r i, r ≠ vd → i < 64 → y.lane r i = (s.cuTask o).lane r i) := by
  subst hf hv ha
  unfold State.cvtNarrow
  simp only [hb, if_true, map_undrawn _ _ _ hs]
  refine ⟨_, _, _, rfl, taskGoes_counted s.drawn o _, rfl, reg_eq_of_lanes (length_lanesOf _) fun i hi => ?_, fun r i hr hi => ?_⟩
  · exact lane_written_all _ _ _ _ hi
  · exact lane_written_ne _ _ _ _ _ hr hi

/-! ## `MOV` and `MOVI` (R266) -/

theorem cuMov_result {a : List W32} (hc : bitsOf o.w 16 6 < 32 ∨ bitsOf o.w 16 6 = 40)
    (ha : a = cuSource (s.cuTask o) o.w (bitsOf o.w 16 6) (bitOf o.w 38)) :
    ∃ y, TaskGoes s (s.cuMov o) o y [] ∧ y.pc = o.pc + 1 ∧
      (∀ i, i < 64 → y.lane (bitsOf o.w 11 5) i =
        if bitOf (cuMask (s.cuTask o) o.w) i then nth a i 0 else (s.cuTask o).lane (bitsOf o.w 11 5) i) ∧
      (∀ r i, r ≠ bitsOf o.w 11 5 → i < 64 → y.lane r i = (s.cuTask o).lane r i) := by
  subst ha
  simp only [State.cuMov, if_pos hc]
  exact taskGoes_written s o _ _ _ _ _

theorem cuMovi_result : ∃ y, TaskGoes s (s.cuMovi o) o y [] ∧ y.pc = o.pc + 1 ∧
    (∀ i, i < 64 → y.lane (bitsOf o.w 11 5) i = BitVec.ofNat 32 (bitsOf o.w 32 32)) ∧
    (∀ r i, r ≠ bitsOf o.w 11 5 → i < 64 → y.lane r i = (s.cuTask o).lane r i) := by
  obtain ⟨y, hy, hp, hl, hr⟩ := taskGoes_writtenWhole s o (bitsOf o.w 11 5)
    (List.replicate 64 (BitVec.ofNat 32 (bitsOf o.w 32 32))) false false
  exact ⟨y, hy, hp, fun i hi => (hl i hi).trans (nth_replicate _ _ hi), hr⟩

end Moves

/-- Settles O36: each instruction issues, and its result is that of its lemma above. -/
theorem vectorInstructionsLeaveTheirResults : Obligations.VectorInstructionsLeaveTheirResults := by
  unfold Obligations.VectorInstructionsLeaveTheirResults
  refine ⟨fun s cu o a b h ho ha hb => next_cuIssue_events h ho (cuLanes_two f32Add ha hb),
    fun s cu o a b h ho ha hb => next_cuIssue_events h ho (cuLanes_two f32Mul ha hb), fun s cu o a b c h ho ha hb hc => ?fma,
    fun s cu o a h ho ha => next_cuIssue_events h ho (cuLanes_one (fun x => f32Exp2 x 0) ha),
    fun s cu o a h ho ha => next_cuIssue_events h ho (cuLanes_one (fun x => f32Rcp x 0) ha),
    fun s cu o a h ho ha => next_cuIssue_events h ho (cuLanes_one (fun x => f32Rsqrt x 0) ha), fun s cu o a b h ho ha hb => ?max,
    fun s cu o a b h ho ha hb => next_cuIssue_events h ho (cuSel_result ha hb), fun s cu o a b k h ho ha hb hk hm hn => ?cmp,
    fun s cu o a h ho ha => next_cuIssue_events h ho (cuRed_result ha),
    fun s cu o x k h ho hx hk hr => next_cuIssue h ho (cuRowsum_copies hx hk hr), fun s cu o x k v h ho hx hk hr hv => ?rowsum,
    fun s cu o f n bs h ho hw hf hn hb => next_cuIssue_events h ho ?widen, fun s cu o f vd a h ho hw hs hf hv hb ha => ?narrow,
    fun s cu o a h ho hc ha => ?mov, fun s cu o h ho => ?movi⟩
  case fma =>
    obtain ⟨t, ht, hr⟩ := cuLanes_result 3 f32Fma ha hb hc
    exact ⟨t, next_cuIssue h ho ht, hr⟩
  case max =>
    obtain ⟨t, es, ht, hr, _⟩ := cuLanes_two f32Max ha hb
    exact ⟨t, es, next_cuIssue h ho ht, hr⟩
  case cmp =>
    obtain ⟨y, hy⟩ := cuCmp_result ha hb hk hm hn
    exact ⟨_, y, next_cuIssue h ho rfl, hy⟩
  case rowsum =>
    obtain ⟨es, ht⟩ := cuRowsum_adds hx hk hr hv
    exact ⟨es, next_cuIssue h ho ht⟩
  case widen =>
    rw [State.cuCvt, if_pos hw]
    exact cvtWiden_result hf hn hb
  case narrow =>
    obtain ⟨t, y, es, ht, hy⟩ := cvtNarrow_result hs hf hv hb ha
    exact ⟨t, y, es, next_cuIssue h ho ((if_neg (Bool.eq_false_iff.1 hw)).trans ht), hy⟩
  case mov =>
    obtain ⟨y, hy⟩ := cuMov_result hc ha
    exact ⟨_, y, next_cuIssue h ho rfl, hy⟩
  case movi =>
    obtain ⟨y, hy⟩ := cuMovi_result (s := s) (o := o)
    exact ⟨_, y, next_cuIssue h ho rfl, hy⟩

end Sys2Proof.Proofs

end

section
/-! Buffers, stores, banks and tokens of a compute unit (R173, R178, R180, R182, R187, R269). -/

namespace Sys2Proof.Proofs

open Sys2Proof.Machine Sys2Proof.Laws

section Stores

variable {s : State} {o : CuOp}

/-! ## `STB` and `STS` (R178, R269) -/

/-- A byte of a range that is filled with the front of a list. -/
theorem memGet_bufWrite_in {m : SMap Byte} {bs : List Byte} {a n i : Nat} (hm : memWf m = true) (hn : i < n) (hi : i < bs.length) :
    memGet (bufWrite m a (bs.take n)) (a + i) = nth bs i 0 := by
  have h : i < (bs.take n).length := by rw [List.length_take]; omega
  rw [bufWrite, memGet_memWrite_in a _ i ((memWf_iff m).1 hm).1 h]
  simp [nth, hi]

/-- A byte outside the range. -/
theorem memGet_bufWrite_out (m : SMap Byte) (bs : List Byte) {a n c : Nat} (h : c < a ∨ a + n ≤ c) :
    memGet (bufWrite m a (bs.take n)) c = memGet m c :=
  memGet_memWrite_out m a _ c (h.imp id fun h => by rw [List.length_take]; omega)

theorem cuStb_cu : (s.cuStb o).cu o.n = { s.cu o.n with
    buf := bufWrite (s.cu o.n).buf (64 * bitsOf o.w 22 11) (((s.cuTask o).regBytes (bitsOf o.w 16 6)).take (64 * bitsOf o.w 33 3))
    lineMarks := marksAfter (s.cu o.n).lineMarks (64 * bitsOf o.w 22 11) (64 * bitsOf o.w 33 3) ((s.cuTask o).marked (bitsOf o.w 16 6))
    tasks := setNth (s.cu o.n).tasks o.t { s.cuTask o with pc := o.pc + 1 } } := cu_setCu_cuAdvance s o _ rfl

theorem cuSts_cu : (s.cuSts o).cu o.n = { s.cu o.n with
    scales := bufWrite (s.cu o.n).scales (bitsOf o.w 22 13) (((s.cuTask o).regBytes (bitsOf o.w 16 6)).take (bitsOf o.w 35 7))
    scaleMarks := marksAfter (s.cu o.n).scaleMarks (bitsOf o.w 22 13) (bitsOf o.w 35 7) ((s.cuTask o).marked (bitsOf o.w 16 6))
    tasks := setNth (s.cu o.n).tasks o.t { s.cuTask o with pc := o.pc + 1 } } := cu_setCu_cuAdvance s o _ rfl

/-! ## `BLOAD` (R182) -/

/-- A unit with a row of a bank written whole, and the bank marked where the row's register is. -/
def bankLoaded (x : CuSt) (b r : Nat) (vs : List W32) (mark : Bool) : CuSt :=
  if mark then { x.setBankRow b r vs allLanes with bankMarks := sinsert (x.setBankRow b r vs allLanes).bankMarks b }
  else x.setBankRow b r vs allLanes

section Loaded

variable (x : CuSt) (b r : Nat) (vs : List W32) (mark : Bool)

theorem bankLoaded_tasks : (bankLoaded x b r vs mark).tasks = x.tasks := by
  unfold bankLoaded CuSt.setBankRow
  split <;> rfl

theorem bankLoaded_buf : (bankLoaded x b r vs mark).buf = x.buf := by
  unfold bankLoaded CuSt.setBankRow
  split <;> rfl

theorem bankLoaded_acc : (bankLoaded x b r vs mark).acc = (x.setBankRow b r vs allLanes).acc := by
  cases mark <;> simp [bankLoaded]

theorem bankLoaded_bankRow (c k : Nat) : (bankLoaded x b r vs mark).bankRow c k = (x.setBankRow b r vs allLanes).bankRow c k := by
  simp only [CuSt.bankRow, bankLoaded_acc]

end Loaded

theorem cuBload_eq : s.cuBload o = (s.setCu o.n (bankLoaded (s.cu o.n) (bitsOf o.w 22 3) (bitsOf o.w 25 4)
    ((s.cuTask o).reg (bitsOf o.w 16 6)) ((s.cuTask o).marked (bitsOf o.w 16 6)))).cuAdvance o := rfl

theorem cuBload_cu : (s.cuBload o).cu o.n = { bankLoaded (s.cu o.n) (bitsOf o.w 22 3) (bitsOf o.w 25 4)
    ((s.cuTask o).reg (bitsOf o.w 16 6)) ((s.cuTask o).marked (bitsOf o.w 16 6)) with
      tasks := setNth (s.cu o.n).tasks o.t { s.cuTask o with pc := o.pc + 1 } } := by
  rw [cuBload_eq]
  exact cu_setCu_cuAdvance s o _ (bankLoaded_tasks ..)

theorem cuBload_bankRow (b r : Nat) : ((s.cuBload o).cu o.n).bankRow b r = ((s.cu o.n).setBankRow (bitsOf o.w 22 3) (bitsOf o.w 25 4)
    ((s.cuTask o).reg (bitsOf o.w 16 6)) allLanes).bankRow b r := by
  rw [cuBload_cu]
  exact bankLoaded_bankRow ..

/-! ## `DRAIN` (R182) -/

theorem cuDrain_result : ∃ y, TaskGoes s (s.cuDrain o) o y [] ∧ y.pc = o.pc + 1 ∧
    (∀ i, i < 64 → y.lane (bitsOf o.w 11 5) i = nth ((s.cu o.n).bankRow (bitsOf o.w 16 3) (bitsOf o.w 19 4)) i 0) ∧
    (∀ r i, r ≠ bitsOf o.w 11 5 → i < 64 → y.lane r i = (s.cuTask o).lane r i) :=
  taskGoes_writtenWhole s o _ _ _ _

/-! ## `SEND` (R187, R525) -/

section Send

variable {p : Nat} {ts : List Token} (hc : bitOf o.w 47 = false) (hs : bitOf o.w 46 = false) (hp : p = bitsOf o.w 37 2)
  (ht : ts = (sentPayloads (bitsOf o.w 39 4) (s.cuTask o) (bitsOf o.w 16 6)).map (fun bs =>
    ⟨cuTag (s.cuTask o) o.w, bitsOf o.w 43 2, false, (s.cuTask o).marked (bitsOf o.w 16 6), bs, 0, 0⟩))
include hc hs hp ht

/-- `SEND` of a register without a scale token: its tokens follow those of the output. -/
theorem cuSend_data : s.cuSend o = (s.setCu o.n { s.cu o.n with
    outs := setNth (s.cu o.n).outs p ((nth (s.cu o.n).outs p .empty).push s.now ts) }).cuAdvance o := by
  subst hp ht
  simp only [State.cuSend, hc, hs, Bool.false_eq_true, if_false, List.append_nil]

theorem cuSend_data_cu : (s.cuSend o).cu o.n = { s.cu o.n with
    outs := setNth (s.cu o.n).outs p ((nth (s.cu o.n).outs p .empty).push s.now ts)
    tasks := setNth (s.cu o.n).tasks o.t { s.cuTask o with pc := o.pc + 1 } } := by
  rw [cuSend_data hc hs hp ht]
  exact cu_setCu_cuAdvance s o _ rfl

theorem cuSend_data_regs : (s.cuSend o).regs = s.regs := by
  rw [cuSend_data hc hs hp ht]
  rfl

end Send

theorem cuSend_poisoned (hc : bitOf o.w 47 = true) (hm : (s.cuTask o).marked (bitsOf o.w 16 6) = true) :
    s.cuSend o = s.castPoisoned o.first := by
  simp only [State.cuSend, hc, hm, Bool.true_or, if_true]

/-! ## `MM` (R173, R268) -/

/-- The matrix instruction that an `MM` begins. -/
def mmBegun (s : State) (o : CuOp) : MmSt :=
  { task := o.t, pc := o.pc, w0 := o.w, w1 := o.v, tag := cuTag (s.cuTask o) o.w
    ta := if bitOf o.v 26 then (s.cuTask o).lane (bitsOf o.v 21 5) 0 else 0x3F800000#32
    tb := if bitOf o.v 50 then (s.cuTask o).lane (bitsOf o.v 45 5) 0 else 0x3F800000#32
    aBytes := [], sBytes := [], aLeft := if !bitOf o.w 26 then ceilDiv (mmABytes o.w) 64 else 0
    sLeft := if !bitOf o.w 26 && bitsOf o.v 0 3 != 0 then ceilDiv (mmAScales o.w o.v) 64 else 0
    poison := (bitOf o.v 26 && (s.cuTask o).marked (bitsOf o.v 21 5)) || (bitOf o.v 50 && (s.cuTask o).marked (bitsOf o.v 45 5)) }

theorem cuMm_begins : s.cuMm o = ((s.cuGoto o (o.pc + 2)).setCu o.n { (s.cuGoto o (o.pc + 2)).cu o.n with
    mm := some (mmBegun s o) }).feedCu o.n := rfl

theorem mmBegun_aLeft : (mmBegun s o).aLeft = if bitOf o.w 26 then 0 else ceilDiv (mmABytes o.w) 64 := by
  unfold mmBegun
  cases bitOf o.w 26 <;> rfl

theorem mmBegun_sLeft : (mmBegun s o).sLeft =
    if bitOf o.w 26 = false ∧ bitsOf o.v 0 3 ≠ 0 then ceilDiv (mmAScales o.w o.v) 64 else 0 := by
  simp [mmBegun]

/-- A matrix instruction that has taken its operands completes. -/
theorem mmComplete_done {cu : UnitId} {first : Nat} {x : CastRun} {m : MmSt} (hs : s.stepOn (cu.val / 32) = some (first, x))
    (hm : (s.cu cu.val).mm = some m) (ha : m.aLeft = 0) (hl : m.sLeft = 0) :
    exec (.mmComplete cu) s = .next (s.mmDone first x cu.val m) := by
  simp only [exec, execMmComplete, hs, hm]
  rw [if_pos ⟨ha, hl⟩]

end Stores

/-- Settles O37: each instruction issues; what it leaves is read off the unit that its lemma gives. -/
theorem unitStoresAndBanksMove : Obligations.UnitStoresAndBanksMove := by
  unfold Obligations.UnitStoresAndBanksMove
  refine ⟨fun s cu o h ho => next_cuIssue h ho rfl, fun s cu o h ho => next_cuIssue h ho rfl, ?_, ?_, ?_, ?_, ?_, ?_, ?_,
    fun s cu first x m hs hm ha hl => mmComplete_done hs hm ha hl⟩
  · intro s cu o h ho hw
    refine ⟨_, next_cuIssue h ho rfl, ?_⟩
    rw [cuStb_cu]
    exact ⟨rfl, rfl, rfl, rfl, fun i hi hb => memGet_bufWrite_in hw hi (by rwa [length_regBytes]), fun a ha => memGet_bufWrite_out _ _ ha⟩
  · intro s cu o h ho hw
    refine ⟨_, next_cuIssue h ho rfl, ?_⟩
    rw [cuSts_cu]
    refine ⟨rfl, rfl, rfl, rfl, fun i hi => memGet_bufWrite_in hw hi ?_, fun a ha => memGet_bufWrite_out _ _ ha⟩
    rw [length_regBytes]
    exact (hi.trans (bitsOf_lt o.w 35 7)).trans (by decide)
  · intro s cu o h ho
    obtain ⟨y, hy⟩ := cuDrain_result (s := s) (o := o)
    exact ⟨_, y, next_cuIssue h ho rfl, hy⟩
  · intro s cu o h ho
    refine ⟨_, next_cuIssue h ho rfl, rfl, ?_, ?_, ?_, fun b r hr hb => ?_⟩
    · rw [cuBload_cu]
      exact bankLoaded_buf ..
    · rw [cuBload_cu]
    · rw [cuBload_bankRow, bankRow_setBankRow_all _ _ (length_reg _)]
    · rw [cuBload_bankRow, bankRow_setBankRow_ne _ _ _ (bitsOf_lt o.w 25 4) hr hb]
  · intro s cu o p ts h ho hc hp hl ht hs
    refine ⟨_, next_cuIssue h ho rfl, ?_⟩
    rw [cuSend_data_cu hc hs hp ht, nth_setNth_self _ _ _ hl]
    exact ⟨rfl, fun k hk => nth_setNth_ne _ _ _ hk, cuSend_data_regs hc hs hp ht, rfl, rfl⟩
  · intro s cu o h ho hc hm
    exact next_cuIssue h ho (cuSend_poisoned hc hm)
  · rintro s u cu o h ho rfl
    exact ⟨mmBegun s o, next_cuIssue h ho cuMm_begins, rfl, rfl, rfl, rfl, rfl, rfl, mmBegun_aLeft, mmBegun_sLeft⟩

end Sys2Proof.Proofs

end

section
/-! Lines of a memory unit (R201, R208, R212): what a line that is written keeps, and the line that a read stream sends. -/

namespace Sys2Proof.Proofs

open Sys2Proof.Machine Sys2Proof.Laws

section Lines

variable {s : State}

/-! ## Counters of lines (R230) -/

theorem OnlyRegs.trans {t u : State} (h : OnlyRegs s t) (k : OnlyRegs t u) : OnlyRegs s u := by
  obtain ⟨m, rfl⟩ := h
  obtain ⟨m', rfl⟩ := k
  exact ⟨m', rfl⟩

theorem onlyRegs_countLines (s : State) (wr : Bool) (a n : Nat) : OnlyRegs s (s.countLines wr a n) := by
  unfold State.countLines
  split
  · exact onlyRegs_refl s
  · exact List.foldlRecOn (motive := OnlyRegs s) _ _ (onlyRegs_refl s) fun _ ht _ _ => onlyRegs_setF ht _ _ _ _

@[simp] theorem countLines_memory (wr : Bool) (a n : Nat) : (s.countLines wr a n).memory = s.memory := by
  rw [(onlyRegs_countLines s wr a n).eq]

@[simp] theorem countLines_fabric (wr : Bool) (a n : Nat) : (s.countLines wr a n).fabric = s.fabric := by
  rw [(onlyRegs_countLines s wr a n).eq]

theorem mu_fabric {t : State} (h : t.fabric = s.fabric) (k : Nat) : t.mu k = s.mu k := by rw [State.mu, State.mu, h]

/-! ## A line written (R201, R212) -/

/-- The value of a line after its low `bits` are replaced. -/
def lineAfter (s : State) (a bits new : Nat) : Nat := new % 2 ^ bits + leNat (s.bytes a 64) / 2 ^ bits * 2 ^ bits

/-- The marks after a line is written. -/
def marksAfter (s : State) (a bits : Nat) (mark : Bool) : List Nat :=
  if mark then sinsert s.memory.poison (a / 64)
  else if bits = 512 then sremove s.memory.poison (a / 64) else s.memory.poison

/-- The state with a line written and nothing counted. -/
def lineWritten (s : State) (a bits new : Nat) (mark : Bool) : State :=
  { s with memory := { s.memory with
      mem := memWrite s.memory.mem a (leBytes 64 (lineAfter s a bits new)), poison := marksAfter s a bits mark } }

theorem putLine_onlyRegs (a bits new : Nat) (mark : Bool) : OnlyRegs (lineWritten s a bits new mark) (s.putLine a bits new mark) := by
  have once := onlyRegs_countLines (lineWritten s a bits new mark) true a 64
  unfold State.putLine
  dsimp only
  split
  · exact once
  · exact once.trans (onlyRegs_countLines _ false a 64)

theorem putLine_memory (a bits new : Nat) (mark : Bool) :
    (s.putLine a bits new mark).memory = (lineWritten s a bits new mark).memory := by
  rw [(putLine_onlyRegs a bits new mark).eq]

theorem putLine_fabric (a bits new : Nat) (mark : Bool) : (s.putLine a bits new mark).fabric = s.fabric := by
  rw [(putLine_onlyRegs a bits new mark).eq]
  rfl

/-- The bytes after a line is written are those after a store of its new value. -/
theorem byte_putLine {a : Nat} (bits new : Nat) (mark : Bool) (h : a < plainBase) (c : Nat) :
    (s.putLine a bits new mark).byte c = (s.store a (leBytes 64 (lineAfter s a bits new)) mark).byte c := by
  simp only [State.byte, State.store, if_neg (region_notPlain h), putLine_memory, lineWritten]

theorem poisoned_of_mem {a n : Nat} (hn : n ≠ 0) (h : a / 64 ∈ s.memory.poison) : s.poisoned a n = true := by
  refine List.any_eq_true.2 ⟨a / 64, ?_, List.contains_iff_mem.2 h⟩
  rw [unitsOf, if_neg hn]
  exact List.mem_map.2 ⟨0, List.mem_range.2 (Nat.succ_pos _), rfl⟩

theorem putLine_marks (a bits new : Nat) : (s.putLine a bits new true).poisoned a 64 = true := by
  refine poisoned_of_mem (by decide) ?_
  rw [putLine_memory]
  exact mem_sinsert_self _ _

/-! ## Generators and output ports -/

@[simp] theorem mu_setMu_self (n : Nat) (x : MuSt) : (s.setMu n x).mu n = x := mgetD_mset_self _ _ _ _

theorem mu_setMu_ne {n k : Nat} (x : MuSt) (h : k ≠ n) : (s.setMu n x).mu k = s.mu k := mgetD_mset_ne _ _ _ h.symm

theorem outs_setAgGo (o : AgOp) (g : AgSt) : ((s.setAgGo o g).mu o.n).outs = (s.mu o.n).outs := by
  rw [State.setAgGo, State.setAg, mu_setMu_self]

theorem outs_muSend (n port : Nat) (t : Token) :
    ((s.muSend n port t).mu n).outs = setNth (s.mu n).outs port ((nth (s.mu n).outs port .empty).push s.now [t]) := by
  rw [State.muSend, mu_setMu_self]

theorem tokens_muSend {n port : Nat} (t : Token) (h : port < (s.mu n).outs.length) :
    (nth ((s.muSend n port t).mu n).outs port .empty).tokens = (nth (s.mu n).outs port .empty).tokens ++ [t] := by
  rw [outs_muSend, nth_setNth_self _ _ _ h]
  rfl

/-! ## A line read (R208, R212) -/

/-- The token of the line at the MU-local offset `x` with its low `bits` inside the extents. -/
def lineToken (s : State) (o : AgOp) (bits : Nat) (x : Int) : Token :=
  { tag := (bitsOf o.w 33 16 + (s.ag o).done / linesPerTag (muLevels o.ws (s.ag o).pc) o.w) % 65536, task := bitsOf o.w 49 2
    ctrl := false, poison := s.poisoned (0x100000 * o.n + x.toNat) 64
    payload := leBytes 64 (leNat (s.bytes (0x100000 * o.n + x.toNat) 64) % 2 ^ bits), chan := 0, steerTag := 0 }

/-- A line of a stream without a ring that lies in the footprint and not wholly outside the extents is counted and sent, and the generator
goes on. -/
theorem readLine_inside {o : AgOp} {start bits : Nat} {is : List Nat} {x : Int}
    (his : is = indexesOf (muLevels o.ws (s.ag o).pc) (s.ag o).done)
    (hbits : bits = insideBits (wordAt o.ws ((s.ag o).pc + 1)) (bitsOf o.w 51 4) (muLevels o.ws (s.ag o).pc) is) (hb : bits ≠ 0)
    (hx : x = (start : Int) + nestOffset (muLevels o.ws (s.ag o).pc) is) (hf : inFootprint (s.agHeader o) x = true)
    (hr : muRingOf o.w = none) :
    ∃ g, s.readLine o start = ((s.countLines false (0x100000 * o.n + x.toNat) 64).muSend o.n (bitsOf o.w 10 2)
      (lineToken s o bits x)).setAgGo o g := by
  subst his
  unfold State.readLine
  dsimp only
  rw [← hbits, ← hx, if_neg hb, hf, hr]
  exact ⟨_, rfl⟩

end Lines

/-- Settles O41: a line is written as a store of its new value, and the line that is read is put on the port by `muSend`. -/
theorem linesKeepTheBitsOutsideTheExtents : Obligations.LinesKeepTheBitsOutsideTheExtents := by
  unfold Obligations.LinesKeepTheBitsOutsideTheExtents
  refine ⟨fun s a bits new mark hc _ ha _ => ?_, fun s o start bits is x his hbits hb hx hf hr hp => ?_⟩
  · have hp : a + 64 ≤ plainBase := ha.trans (by decide)
    have hlt : a < plainBase := by omega
    have hbyte := byte_putLine (s := s) bits new mark hlt
    refine ⟨?_, fun c hc' => ?_, hc.putLine, putLine_fabric a bits new mark, by
      rintro rfl
      exact putLine_marks a bits new⟩
    · rw [bytes_congr fun i _ => hbyte (a + i), bytes_store hc _ mark (leBytes_length 64 _) hp, lineAfter]
    · rw [hbyte]
      exact sameBytes_store s _ mark (leBytes_length 64 _) hlt c hc'
  · obtain ⟨g, e⟩ := readLine_inside his hbits hb hx hf hr
    have hmu := mu_fabric (countLines_fabric (s := s) false (0x100000 * o.n + x.toNat) 64)
    rw [e]
    refine ⟨?_, countLines_memory (s := s) false _ 64, fun k hk => ?_⟩
    · rw [outs_setAgGo, tokens_muSend _ (by rwa [hmu]), hmu, lineToken]
    · exact (mu_setMu_ne _ hk).trans ((mu_setMu_ne _ hk).trans (hmu k))

end Sys2Proof.Proofs
end

section
/-! The patrol scrub of a unit that is recovering (R202, R527): the statement about streams and the scrub. -/

namespace Sys2Proof.Proofs

open Sys2Proof.Machine Sys2Proof.Laws

section Scrub

variable {s : State}

/-- The state in which a scrub logs the corrected error of line `line` of unit `n`. -/
def correctedCounted (s : State) (n line : Nat) : State :=
  ((((s.countLines false (0x100000 * n + 64 * line) 64).count F.MU_ECC_CORRECTED (s.unitWindow n)).setF F.MU_ECC_LAST_BANK (line % 8)
    (s.unitWindow n)).setF F.MU_ECC_LAST_LINE line (s.unitWindow n))

/-- The line at an offset marked. -/
def lineMarked (s : State) (a : Nat) : State :=
  { s with memory := { s.memory with poison := sinsert s.memory.poison (a / 64) } }

theorem correctedCounted_memory (n line : Nat) : (correctedCounted s n line).memory = s.memory :=
  countLines_memory (s := s) false (0x100000 * n + 64 * line) 64

/-- A fault of class `CORRECTED` leaves the memory as it is. -/
theorem fault_corrected_memory {code i job : Nat} {d : Domain} {cmd : Option (Nat × Nat)} {datum : W64} (h : faultClass code = 1) :
    (s.fault code d i job cmd datum).memory = s.memory := by
  rw [(fault_corrected_logs s code i job d cmd datum h).rest]

/-- A scrub that corrects an error marks its line where the fault is escalated (R527). -/
theorem patrolScrub_escalated {mu : UnitId} {line : Nat} (hu : s.hasUnit mu.val = true) (hl : line < 16383)
    (he : (correctedCounted s mu.val line).escalates .site
      ((s.countLines false (0x100000 * mu.val + 64 * line) 64).unitSite true mu.val) = true) :
    exec (.patrolScrub mu line 1) s =
      .next ((lineMarked (correctedCounted s mu.val line) (0x100000 * mu.val + 64 * line)).fault 0x1101 .site
        ((s.countLines false (0x100000 * mu.val + 64 * line) 64).unitSite true mu.val) 0xFF none
        (BitVec.ofNat 64 ((correctedCounted s mu.val line).globalOf (0x100000 * mu.val + 64 * line)))) := by
  have hk : line % 16384 = line := Nat.mod_eq_of_lt (by omega)
  show execPatrolScrub mu line 1 s = _
  unfold execPatrolScrub
  rw [hu, hk]
  refine congrArg Host.Outcome.next ((if_neg hl.ne).trans ?_)
  have hlost : (decide ((1 : Fin 3).val = 2) || (correctedCounted s mu.val line).escalates .site
      ((s.countLines false (0x100000 * mu.val + 64 * line) 64).unitSite true mu.val)) = true := by rw [he, Bool.or_true]
  exact congrArg (fun t : State => t.fault 0x1101 .site ((s.countLines false (0x100000 * mu.val + 64 * line) 64).unitSite true mu.val) 0xFF
    none (BitVec.ofNat 64 (t.globalOf (0x100000 * mu.val + 64 * line)))) (if_pos hlost)

end Scrub

/-- The device out of reset while the column of unit 0 is being retired: the site of memory unit 0 is recovering. -/
def siteRecovering : State :=
  { State.reset with faults := { State.reset.faults with recovering := [{ domain := .site, index := State.reset.unitSite true 0 }] } }

theorem siteRecovering_hasUnit : siteRecovering.hasUnit (0 : UnitId).val = true := by decide +kernel

theorem siteRecovering_escalates : (correctedCounted siteRecovering (0 : UnitId).val 0).escalates .site
    ((siteRecovering.countLines false (0x100000 * (0 : UnitId).val + 64 * 0) 64).unitSite true (0 : UnitId).val) = true := by
  decide +kernel

/-- Refutes O40: the clause of a corrected error leaves the line without a mark whatever is recovering, but where the unit's site recovers
the fault is escalated to `DEFERRED` and the corrected data is delivered with a mark (R527). -/
theorem not_streamsMoveLines : ¬ Obligations.StreamsMoveLines := by
  unfold Obligations.StreamsMoveLines
  rintro ⟨-, -, -, -, -, -, -, -, -, -, -, -, corrected, -⟩
  have outcome := corrected siteRecovering _ 0 0 _ _ siteRecovering_hasUnit (by decide) rfl rfl rfl
  rw [patrolScrub_escalated siteRecovering_hasUnit (by decide) siteRecovering_escalates] at outcome
  have same := congrArg State.memory (Host.Outcome.next.inj outcome)
  rw [fault_corrected_memory rfl, fault_corrected_memory rfl] at same
  have clean := same.trans (correctedCounted_memory (0 : UnitId).val 0)
  have marked : 0 ∈ siteRecovering.memory.poison := clean ▸ mem_sinsert_self _ _
  exact List.not_mem_nil marked

end Sys2Proof.Proofs
end

section
/-! The instructions of the custom opcode (R285 to R287): what each does where its checks pass, from its fetched word on. -/

namespace Sys2Proof.Proofs

open Sys2Proof.Machine Sys2Proof.Laws

theorem mem_mset_self {α : Type} (m : SMap α) (k : Nat) (v : α) : (k, v) ∈ mset m k v := by
  induction m with
  | nil => exact List.mem_singleton_self _
  | cons p t ih =>
    unfold mset
    split
    · exact List.mem_cons_self
    · split
      · exact List.mem_cons_self
      · exact List.mem_cons_of_mem _ ih

/-- Of two writes of a core the later one stands. -/
theorem setCore_setCore (s : State) (c : Nat) (x y : CoreSt) : (s.setCore c x).setCore c y = s.setCore c y :=
  congrArg (fun m => { s with cores := m }) (mset_mset_self s.cores c x y)

/-! ## Fences (R284, R285) -/

section Fences

variable {s u : State} {c : CoreId} {rd rs1 rs2 : Fin 32} {bs : List Byte} {x : CoreSt}

theorem fzFread_reads (h : Fetches s c.val 4 bs u x) (hw : leNat bs = fzWord 0 0 rd.val rs1.val (leNat bs / 2 ^ 20 % 32))
    (hf : u.ownsFence x.job (x.xr rs1.val).toNat = true) :
    exec (.fzFread c rd rs1) s = .next (u.coreNext c.val 4 rd.val (u.r R.QE_FENCE (x.xr rs1.val).toNat)) :=
  congrArg Host.Outcome.next ((fzStep_fetches (rd := some _) (rs1 := some _) (rs2 := none) h _ hw).trans (if_pos hf))

/-- A wait for a value that the fence has reached returns at once. -/
theorem fzFwait_returns (h : Fetches s c.val 4 bs u x) (hw : leNat bs = fzWord 0 1 rd.val rs1.val rs2.val)
    (hf : u.ownsFence x.job (x.xr rs1.val).toNat = true) (hv : (x.xr rs2.val).toNat ≤ u.fenceValue (x.xr rs1.val).toNat) :
    exec (.fzFwait c rd rs1 rs2) s = .next (u.fwaitReturn c.val x (x.xr rs1.val).toNat rd.val) := by
  refine congrArg Host.Outcome.next ((fzStep_fetches (rd := some _) (rs1 := some _) (rs2 := some _) h _ hw).trans ?_)
  have ho : u.coreFence x (x.xr rs1.val) = true := hf
  have hm : u.waitMet (x.xr rs1.val).toNat (x.xr rs2.val).toNat = true := decide_eq_true hv
  simp only [ho, hm, Bool.not_true, Bool.false_eq_true, if_false, if_true]

/-- A wait that returns writes its register, moves the `pc`, and leaves only the dirty lines in the caches. -/
theorem fwaitReturn_eq (s : State) (k : Nat) (x : CoreSt) (f d : Nat) : s.fwaitReturn k x f d = s.setCore k
    { x.setX d (s.r R.QE_FENCE f) with
      pc := x.pc + 4, wait := .none, code := [], data := x.data.filter (fun l => l.2.dirty) } := by
  rw [State.fwaitReturn, coreNext_core (core_setCore_self _ _ _), setCore_setCore]
  by_cases hd : d = 0
  · simp only [CoreSt.setX, if_pos hd]
    rfl
  · simp only [CoreSt.setX, if_neg hd]
    rfl

/-- The value that a core waits for is reached: the wait returns. -/
theorem fzFwaitReturn_returns {f v d : Nat} (hx : s.core c.val = some x) (hw : x.wait = .fence f v d) (hr : s.running = true)
    (hv : v ≤ s.fenceValue f) : exec (.fzFwaitReturn c) s = .next (s.fwaitReturn c.val x f d) := by
  change execFzFwaitReturn c s = _
  have hm : s.waitMet f v = true := decide_eq_true hv
  simp only [execFzFwaitReturn, hx, hw, hr, hm, Bool.and_self, if_true]

end Fences

/-! ## Signals (R284, R285) -/

section Signals

variable {s u : State} {k : Nat} {c : CoreId} {rs1 rs2 : Fin 32} {bs : List Byte} {x : CoreSt} {f : Nat} (v : Nat) (add : Bool)

/-- A core with every line of its data cache clean and nothing to wait for. -/
def flushed (x : CoreSt) : CoreSt := { x with data := x.data.map (fun l => (l.1, { l.2 with dirty := false })), wait := .none }

/-- The state once core `k`, flushed, has signalled a fence of its job. -/
def coreSignalled (u : State) (k : Nat) (x : CoreSt) (f v : Nat) (add : Bool) : State :=
  (u.setCore k (flushed x)).signal x.job f v add false

theorem coreSignalled_onlyRegs : OnlyRegs (u.setCore k (flushed x)) (coreSignalled u k x f v add) := signal_onlyRegs v add false false

theorem coreSignalled_core : (coreSignalled u k x f v add).core k = some (flushed x) := by
  obtain ⟨m, e⟩ := coreSignalled_onlyRegs (u := u) (k := k) (x := x) (f := f) v add
  rw [e]
  exact core_setCore_self u k (flushed x)

/-- Where no line is dirty and no write is outstanding, a core signals at once. -/
theorem coreSignal_clean (hd : x.data.filter (fun l => l.2.dirty) = []) (ho : u.outstanding (.core k) = []) :
    u.coreSignal k x f v add = (coreSignalled u k x f v add).setCore k { flushed x with pc := x.pc + 4 } := by
  have hflush (y : CoreSt) : (u.setCore k y).outstanding (.core k) = [] := ho
  unfold State.coreSignal
  simp only [hd, List.foldl_nil, State.flushDone, core_setCore_self, hflush, List.isEmpty_nil, if_true, setCore_setCore]
  exact coreNext_core (coreSignalled_core v add) 4 0 0

/-- What the signal of a core leaves in the fence and in the core, and what it leaves as it was. -/
theorem coreSignal_signals (hf : u.ownsFence x.job f = true) (hd : x.data.filter (fun l => l.2.dirty) = [])
    (ho : u.outstanding (.core k) = []) : ∃ t y, u.coreSignal k x f v add = t ∧
      t.fenceValue f = signalValue (u.fenceValue f) v add ∧
      t.core k = some y ∧ y.pc = x.pc + 4 ∧ y.x = x.x ∧ y.wait = .none ∧ t = { u with regs := t.regs, cores := t.cores } ∧
      SameRegsBut u t [R.QE_FENCE.at f] := by
  have howns : (u.setCore k (flushed x)).ownsFence x.job f = true := hf
  refine ⟨_, { flushed x with pc := x.pc + 4 }, coreSignal_clean v add hd ho, signal_fenceValue v add false false howns,
    core_setCore_self _ _ _, rfl, rfl, rfl, ?_, signal_sameRegs v add false false⟩
  obtain ⟨m, e⟩ := coreSignalled_onlyRegs (u := u) (k := k) (x := x) (f := f) v add
  rw [e]
  rfl

theorem fzFsig_signals (h : Fetches s c.val 4 bs u x) (hw : leNat bs = fzWord 0 2 (leNat bs / 2 ^ 7 % 32) rs1.val rs2.val)
    (hf : u.ownsFence x.job (x.xr rs1.val).toNat = true) :
    exec (.fzFsig c rs1 rs2) s = .next (u.coreSignal c.val x (x.xr rs1.val).toNat (x.xr rs2.val).toNat false) :=
  congrArg Host.Outcome.next ((fzStep_fetches (rd := none) (rs1 := some _) (rs2 := some _) h _ hw).trans (if_pos hf))

theorem fzFadd_signals (h : Fetches s c.val 4 bs u x) (hw : leNat bs = fzWord 0 3 (leNat bs / 2 ^ 7 % 32) rs1.val rs2.val)
    (hf : u.ownsFence x.job (x.xr rs1.val).toNat = true) :
    exec (.fzFadd c rs1 rs2) s = .next (u.coreSignal c.val x (x.xr rs1.val).toNat (x.xr rs2.val).toNat true) :=
  congrArg Host.Outcome.next ((fzStep_fetches (rd := none) (rs1 := some _) (rs2 := some _) h _ hw).trans (if_pos hf))

end Signals

/-! ## Records and addresses (R285, R286) -/

section Records

variable {s u v : State} {c : CoreId} {rd rs1 rs2 : Fin 32} {bs : List Byte} {x y : CoreSt}

/-- An aligned body in the cache is sealed into a local queue of the core's job. -/
theorem fzSeal_seals {body : List Byte} (h : Fetches s c.val 4 bs u x) (hw : leNat bs = fzWord 0 4 rd.val rs1.val rs2.val)
    (ha : (x.xr rs1.val).toNat % 8 = 0) (hb : u.bound (bitsOf (x.xr rs2.val) 0 12) = true)
    (hp : u.f F.QE_Q_CTRL_PORT (bitsOf (x.xr rs2.val) 0 12) = 2) (hj : u.queueJob (bitsOf (x.xr rs2.val) 0 12) = x.job)
    (hl : Loads u c.val (x.xr rs1.val).toNat 56 v y body) :
    exec (.fzSeal c rd rs1 rs2) s = .next ((v.coreSeal (bitsOf (x.xr rs2.val) 0 12) (bitsOf (x.xr rs2.val) 16 48) body).1.coreNext c.val 4
      rd.val (BitVec.ofNat 64 (v.coreSeal (bitsOf (x.xr rs2.val) 0 12) (bitsOf (x.xr rs2.val) 16 48) body).2)) := by
  refine congrArg Host.Outcome.next ((fzStep_fetches (rd := some _) (rs1 := some _) (rs2 := some _) h _ hw).trans ?_)
  simp only [ha, hb, hp, hj, beq_self_eq_true, Bool.and_self, Bool.not_true, Bool.false_eq_true, ne_eq, not_true_eq_false, if_false]
  exact coreRead_loads hl _

theorem fzXlate_translates {g : Nat} {e : W64} (h : Fetches s c.val 4 bs u x)
    (hw : leNat bs = fzWord 0 5 rd.val rs1.val (leNat bs / 2 ^ 20 % 32)) (ht : u.translate x.job (x.xr rs1.val).toNat false = .ok g e) :
    exec (.fzXlate c rd rs1) s = .next (u.coreNext c.val 4 rd.val (BitVec.ofNat 64 g)) := by
  refine congrArg Host.Outcome.next ((fzStep_fetches (rd := some _) (rs1 := some _) (rs2 := none) h _ hw).trans ?_)
  simp only [ht]

end Records

/-! ## The end of a run (R285, R288) -/

section Exit

variable {s u : State} {k : Nat} {c : CoreId} {rs1 : Fin 32} {bs : List Byte} {x y : CoreSt} {q seq : Nat}

theorem mem_runCores {j : Nat} : j ∈ s.runCores q seq ↔ ∃ z, (j, z) ∈ s.cores ∧ z.q = q ∧ z.seq = seq := by
  simp [State.runCores]

/-- A core written anew in the run that it was alone in leaves no other core in that run. -/
theorem runCores_setCore (h : u.runCores q seq = [k]) (hq : y.q = q) (hs : y.seq = seq) :
    ∃ n, (u.setCore k y).runCores q seq = List.replicate (n + 1) k := by
  have hk : k ∈ (u.setCore k y).runCores q seq := mem_runCores.2 ⟨y, mem_mset_self _ _ _, hq, hs⟩
  have hall : ∀ j ∈ (u.setCore k y).runCores q seq, j = k := by
    intro j hj
    obtain ⟨z, hz, hzq, hzs⟩ := mem_runCores.1 hj
    rcases mem_mset hz with e | hm
    · exact congrArg Prod.fst e
    · exact List.mem_singleton.1 (h ▸ mem_runCores.2 ⟨z, hm, hzq, hzs⟩)
  obtain ⟨n, hn⟩ := Nat.exists_eq_succ_of_ne_zero (List.length_pos_of_mem hk).ne'
  exact ⟨n, List.eq_replicate_iff.2 ⟨hn, hall⟩⟩

/-- A run whose one core has exited, with nothing outstanding and no write lost to poison, ends `OK` with that core's value. -/
theorem coresSettle_ends {w : W64} {n : Nat} (hr : u.runCores q seq = List.replicate (n + 1) k) (hx : u.core k = some x)
    (he : x.exited = some w) (hp : x.poisonWrite = false) (ho : u.outstanding (.core k) = []) :
    u.coresSettle q seq = u.endCores q seq .ok w 0 := by
  unfold State.coresSettle
  simp [hr, hx, he, hp, ho, List.replicate_succ]

/-- The last core of a run, with no dirty line, no write lost to poison and nothing outstanding, ends the run as it exits. -/
theorem coreExit_ends (w : W64) (hx : u.core k = some x) (hd : x.data.filter (fun l => l.2.dirty) = []) (hp : x.poisonWrite = false)
    (hr : u.runCores x.q x.seq = [k]) (ho : u.outstanding (.core k) = []) :
    u.coreExit k w = (u.setCore k { x with exited := some w, wait := .none, code := [], data := [] }).endCores x.q x.seq .ok w 0 := by
  obtain ⟨n, hn⟩ := runCores_setCore (y := { x with exited := some w, wait := .none, code := [], data := [] }) hr rfl rfl
  unfold State.coreExit
  simp only [hx, hd, List.foldl_nil]
  exact coresSettle_ends hn (core_setCore_self _ _ _) rfl hp ho

theorem fzExit_exits (h : Fetches s c.val 4 bs u x)
    (hw : leNat bs = fzWord 0 6 (leNat bs / 2 ^ 7 % 32) rs1.val (leNat bs / 2 ^ 20 % 32)) :
    exec (.fzExit c rs1) s = .next (u.coreExit c.val (x.xr rs1.val)) :=
  congrArg Host.Outcome.next (fzStep_fetches (rd := none) (rs1 := some _) (rs2 := none) h _ hw)

end Exit

/-! ## Rows (R287) -/

section Rows

variable {s u v w : State} {c : CoreId} {rd rs1 rs2 : Fin 32} {bs row : List Byte} {x y z : CoreSt} {ls : List XLine}

theorem fzPack_packs (h : Fetches s c.val 4 bs u x) (hw : leNat bs = fzWord 1 0 rd.val rs1.val rs2.val) (hf : x.fzFormatOk = true)
    (hl : Loads u c.val (x.xr rs1.val).toNat 256 v y row)
    (hs : Stores v c.val (x.xr rs2.val).toNat (x.packRow (f32sOf row)).length w z ls) :
    exec (.fzPack c rd rs1 rs2) s = .next (((w.setCore c.val (z.writeAt ls (x.xr rs2.val).toNat (x.packRow (f32sOf row)))).noteRange z.job
      (x.xr rs2.val).toNat (x.packRow (f32sOf row)).length).coreNext c.val 4 rd.val
        (BitVec.ofNat 64 (x.packRow (f32sOf row)).length)) := by
  refine congrArg Host.Outcome.next ((fzStep_fetches (rd := some _) (rs1 := some _) (rs2 := some _) h _ hw).trans ?_)
  simp only [hf, Bool.not_true, Bool.false_eq_true, if_false]
  exact (coreRead_loads hl _).trans (coreWrite_stores hs _)

theorem fzUnpack_unpacks (h : Fetches s c.val 4 bs u x) (hw : leNat bs = fzWord 1 1 rd.val rs1.val rs2.val) (hf : x.fzFormatOk = true)
    (hl : Loads u c.val (x.xr rs1.val).toNat x.packedLen v y row)
    (hs : Stores v c.val (x.xr rs2.val).toNat ((x.unpackRow row).flatMap (fun v => leBytes 4 v.toNat)).length w z ls) :
    exec (.fzUnpack c rd rs1 rs2) s = .next (((w.setCore c.val (z.writeAt ls (x.xr rs2.val).toNat
      ((x.unpackRow row).flatMap (fun v => leBytes 4 v.toNat)))).noteRange z.job (x.xr rs2.val).toNat
        ((x.unpackRow row).flatMap (fun v => leBytes 4 v.toNat)).length).coreNext c.val 4 rd.val 256) := by
  refine congrArg Host.Outcome.next ((fzStep_fetches (rd := some _) (rs1 := some _) (rs2 := some _) h _ hw).trans ?_)
  simp only [hf, Bool.not_true, Bool.false_eq_true, if_false]
  exact (coreRead_loads hl _).trans (coreWrite_stores hs _)

end Rows

/-- Settles O20: each instruction by its lemma above. -/
theorem fzInstructionsTakeEffect : Obligations.FzInstructionsTakeEffect := by
  unfold Obligations.FzInstructionsTakeEffect
  refine ⟨?_, ?_, ?_, ?_, ?_, ?_, ?_, ?_, ?_, ?_⟩
  · intro s u c rd rs1 bs x h hw hf
    exact fzFread_reads h hw hf
  · intro s u c rd rs1 rs2 bs x h hw hf hv
    exact fzFwait_returns h hw hf hv
  · intro s c x f v rd hx hw hr hv
    rw [fzFwaitReturn_returns hx hw hr hv, fwaitReturn_eq]
  · intro s u c rs1 rs2 bs x h hw hf hd ho
    obtain ⟨t, y, e, leaves⟩ := coreSignal_signals _ false hf hd ho
    exact ⟨t, y, (fzFsig_signals h hw hf).trans (congrArg Host.Outcome.next e), leaves⟩
  · intro s u c rs1 rs2 bs x h hw hf hd ho
    obtain ⟨t, y, e, leaves⟩ := coreSignal_signals _ true hf hd ho
    exact ⟨t, y, (fzFadd_signals h hw hf).trans (congrArg Host.Outcome.next e), leaves⟩
  · intro s u v c rd rs1 rs2 bs body x y h hw ha hb hp hj hl
    exact fzSeal_seals h hw ha hb hp hj hl
  · intro s u c rd rs1 bs x g e h hw ht
    exact fzXlate_translates h hw ht
  · intro s u c rs1 bs x h hw hd hp hr ho
    rw [fzExit_exits h hw, coreExit_ends _ h.now hd hp hr ho]
  · intro s u v w c rd rs1 rs2 bs row x y z ls h hw hf hl hs
    exact fzPack_packs h hw hf hl hs
  · intro s u v w c rd rs1 rs2 bs row x y z ls h hw hf hl hs
    exact fzUnpack_unpacks h hw hf hl hs

end Sys2Proof.Proofs
end

section
/-! Free lists of KV pages (R299, R300): what a push leaves in memory and in its list, and what a drain takes away. -/

namespace Sys2Proof.Proofs

open Sys2Proof.Machine Sys2Proof.Laws

section FreeLists

variable {s : State} {n c page : Nat}

/-! ## The head of a list (R299) -/

theorem setKvPages_f (s : State) (m : SMap Nat) (x : Field) (i j : Nat) : (s.setKvPages m).f x i j = s.f x i j := rfl

theorem sameRegs_setKvPages {t : State} {offs : List Nat} (h : SameRegsBut s t offs) (m : SMap Nat) :
    SameRegsBut s (t.setKvPages m) offs := h

theorem storeWord_f (s : State) (a : Nat) (w : W64) (x : Field) (i j : Nat) : (s.storeWord a w).f x i j = s.f x i j :=
  f_congr (store_regs ..) x i j

theorem kvPlace_head (h : page < 2 ^ 29) : (s.kvPlace n c page).f F.SRV_FL_HEAD n (c - 12) = page := by
  unfold State.kvPlace
  rw [setKvPages_f, f_setF_apart _ _ _ _ (by rfl) (by decide), f_setF_apart _ _ _ _ (by rfl) (by decide), f_setF_self _ _ _ _ _ (by decide)]
  exact Nat.mod_eq_of_lt h

theorem kvPlace_count : (s.kvPlace n c page).f F.SRV_FL_COUNT n (c - 12) = (s.f F.SRV_FL_COUNT n (c - 12) + 1) % 2 ^ 29 := by
  unfold State.kvPlace
  rw [setKvPages_f, f_setF_apart _ _ _ _ (by rfl) (by decide), f_setF_self _ _ _ _ _ (by decide), storeWord_f]
  rfl

theorem kvPlace_cut : (s.kvPlace n c page).f F.SRV_FL_CUT n (c - 12) = 0 := by
  unfold State.kvPlace
  rw [setKvPages_f, f_setF_self _ _ _ _ _ (by decide), Nat.zero_mod]

theorem kvPlace_sameRegs : SameRegsBut s (s.kvPlace n c page) [R.SRV_FL.at n (c - 12)] := by
  unfold State.kvPlace
  refine sameRegs_setKvPages (sameRegs_setF (sameRegs_setF (sameRegs_setF (sameRegs_of_regs (store_regs ..) _) _ _ _ _ ?_) _ _ _ _ ?_)
    _ _ _ _ ?_) _ <;> exact List.mem_singleton_self _

/-- A page placed on its list carries the old head of the list in the low bits of its first word. -/
theorem kvPlace_memory : (s.kvPlace n c page).memory = (s.storeWord (basinBase + 4096 * page)
    (setBits (s.word (basinBase + 4096 * page)) 0 29 (s.f F.SRV_FL_HEAD n (c - 12)))).memory := rfl

theorem kvPlace_link (hm : MemoryCanonical s) (hp : basinBase + 4096 * page + 8 ≤ plainBase) :
    bitsOf ((s.kvPlace n c page).word (basinBase + 4096 * page)) 0 29 = s.f F.SRV_FL_HEAD n (c - 12) := by
  rw [word_memory kvPlace_memory, State.storeWord, word_storeBytes hm _ hp, BitVec.ofNat_toNat, BitVec.setWidth_eq,
    bitsOf_setBits_self _ _ (by decide)]
  exact Nat.mod_eq_of_lt (f_lt s F.SRV_FL_HEAD n (c - 12))

theorem kvPlace_sameBytes (hp : basinBase + 4096 * page + 8 ≤ plainBase) :
    SameBytesBut s (s.kvPlace n c page) (basinBase + 4096 * page) 8 := fun a ha =>
  (byte_memory kvPlace_memory a).trans (sameBytes_store s _ false (leBytes_length 8 _) (by omega) a ha)

/-! ## Pushes (R300) -/

theorem kvPush_placed (h₁ : 12 ≤ c) (h₂ : c ≤ 30) (ha : page % 2 ^ (c - 12) = 0) (hl : 512 * s.f F.SRV_KV_POOL_FIRST n ≤ page)
    (hu : page + 2 ^ (c - 12) ≤ 512 * (s.f F.SRV_KV_POOL_FIRST n + s.f F.SRV_KV_POOL_FRAMES n)) (hb : s.kvBusy page c = false) :
    s.kvPush n c page = s.kvPlace n c page :=
  if_pos ⟨h₁, h₂, ha, hl, hu, by rw [hb]; rfl⟩

theorem kvPush_rejected (h : c < 12 ∨ 30 < c ∨ page % 2 ^ (c - 12) ≠ 0 ∨ page < 512 * s.f F.SRV_KV_POOL_FIRST n ∨
    512 * (s.f F.SRV_KV_POOL_FIRST n + s.f F.SRV_KV_POOL_FRAMES n) < page + 2 ^ (c - 12) ∨ s.kvBusy page c = true) :
    s.kvPush n c page = s.count F.SRV_KV_STAT_PUSH_REJECT n := by
  refine if_neg ?_
  rintro ⟨h₁, h₂, ha, hl, hu, hb⟩
  rcases h with h | h | h | h | h | h
  · exact Nat.not_le.2 h h₁
  · exact Nat.not_le.2 h h₂
  · exact h ha
  · exact Nat.not_le.2 h hl
  · exact Nat.not_le.2 h hu
  · rw [h] at hb; exact Bool.false_ne_true hb

/-! ## Drains (R300) -/

theorem kvDrain_drained (h₁ : 12 ≤ c) (h₂ : c ≤ 30) : s.kvDrain n c =
    ((s.setF F.SRV_FL_COUNT 0 n (c - 12)).setF F.SRV_FL_CUT 0 n (c - 12)).setKvPages
      (s.serve.pages.filter fun x => !(s.kvListed n c).contains x.1) :=
  if_neg (by omega)

theorem kvDrain_sameRegs (h₁ : 12 ≤ c) (h₂ : c ≤ 30) : SameRegsBut s (s.kvDrain n c) [R.SRV_FL.at n (c - 12)] := by
  rw [kvDrain_drained h₁ h₂]
  refine sameRegs_setKvPages (sameRegs_setF (sameRegs_setF (sameRegs_refl s _) _ _ _ _ ?_) _ _ _ _ ?_) _ <;>
    exact List.mem_singleton_self _

theorem kvDrain_count (h₁ : 12 ≤ c) (h₂ : c ≤ 30) : (s.kvDrain n c).f F.SRV_FL_COUNT n (c - 12) = 0 := by
  rw [kvDrain_drained h₁ h₂, setKvPages_f, f_setF_apart _ _ _ _ (by rfl) (by decide), f_setF_self _ _ _ _ _ (by decide), Nat.zero_mod]

theorem kvDrain_memory (h₁ : 12 ≤ c) (h₂ : c ≤ 30) : (s.kvDrain n c).memory = s.memory := by
  rw [kvDrain_drained h₁ h₂]
  rfl

/-- The registers of the lists lie above those of the pools, so a drain moves no pool. -/
theorem kvDrain_inKvPool (h₁ : 12 ≤ c) (h₂ : c ≤ 30) (f : Nat) : (s.kvDrain n c).inKvPool n f = s.inKvPool n f := by
  have hp : R.SRV_KV_POOL.at n ∉ [R.SRV_FL.at n (c - 12)] := by
    simp only [R.SRV_KV_POOL, R.SRV_FL, Reg.at, List.mem_singleton]
    omega
  unfold State.inKvPool
  rw [f_sameRegs (kvDrain_sameRegs h₁ h₂) F.SRV_KV_POOL_FIRST hp, f_sameRegs (kvDrain_sameRegs h₁ h₂) F.SRV_KV_POOL_FRAMES hp]

theorem mem_kvListed {x : Nat × Nat} (hx : x ∈ s.serve.pages) (hc : (x.2 == c + 32 && s.inKvPool n (x.1 / 512)) = true) :
    x.1 ∈ s.kvListed n c :=
  List.mem_map_of_mem (List.mem_filter.2 ⟨hx, hc⟩)

/-- No page that a drain leaves is one that the list held. -/
theorem kvDrain_listed (h₁ : 12 ≤ c) (h₂ : c ≤ 30) : (s.kvDrain n c).kvListed n c = [] := by
  have hpages : (s.kvDrain n c).serve.pages = s.serve.pages.filter fun x => !(s.kvListed n c).contains x.1 := by
    rw [kvDrain_drained h₁ h₂]
    rfl
  refine List.map_eq_nil_iff.2 (List.filter_eq_nil_iff.2 fun x hx hc => ?_)
  rw [hpages] at hx
  rw [kvDrain_inKvPool h₁ h₂] at hc
  obtain ⟨hmem, hout⟩ := List.mem_filter.1 hx
  simp [mem_kvListed hmem hc] at hout

end FreeLists

/-- Settles O24: a push by whether it places its page, a drain by what it keeps. -/
theorem freeListsPushAndDrain : Obligations.FreeListsPushAndDrain := by
  unfold Obligations.FreeListsPushAndDrain
  refine ⟨?_, fun s n c page h => kvPush_rejected h, fun s n c h₁ h₂ =>
    ⟨kvDrain_count h₁ h₂, kvDrain_listed h₁ h₂, kvDrain_memory h₁ h₂, kvDrain_sameRegs h₁ h₂⟩⟩
  intro s n c page h₁ h₂ ha hl hu hb hm hp hw
  rw [kvPush_placed h₁ h₂ ha hl hu hb]
  exact ⟨kvPlace_head hw, kvPlace_count, kvPlace_cut, kvPlace_link hm hp, kvPlace_sameBytes hp, kvPlace_sameRegs⟩

end Sys2Proof.Proofs

end

section
/-! Serving steps (R303, R385, R386, R389, R400, R403, R404): what begins a run of a binding, what moves it from one phase to the next, what
becomes of a feed record, and what an ended request leaves. -/

namespace Sys2Proof.Proofs

open Sys2Proof.Machine Sys2Proof.Laws

/-! ## Requests and runs -/

section Tables

variable (s : State)

@[simp] theorem req_setReq_self (i : Nat) (e : Req) : (s.setReq i e).req i = e := mgetD_mset_self ..

theorem req_setReq_ne {i j : Nat} (e : Req) (h : i ≠ j) : (s.setReq i e).req j = s.req j := mgetD_mset_ne _ _ _ h

@[simp] theorem mget_setServeRun (m : Nat) (x : ServeRun) : mget (s.setServeRun m x).serve.runs m = some x := mget_mset_self ..

theorem sameRegs_setServeRun {s t : State} {offs : List Nat} (h : SameRegsBut s t offs) (m : Nat) (x : ServeRun) :
    SameRegsBut s (t.setServeRun m x) offs := h

/-- A field of an entry that is set to zero reads zero, whether or not the entry holds its word. -/
theorem reqField_setF_zero (e : Req) {x : ReqField} (h : x.2.1 + x.2.2 ≤ 64) : (e.setF x 0).f x = 0 := by
  unfold Req.f Req.setF
  by_cases hx : x.1 < e.words.length
  · rw [nth_setNth_self _ _ _ hx, bitsOf_setBits_self _ _ h, Nat.zero_mod]
  · have hn : nth (setNth e.words x.1 (setBits (nth e.words x.1 0) x.2.1 x.2.2 0)) x.1 0 = 0 := by
      simp [nth, setNth, Nat.le_of_not_lt hx]
    rw [hn, bitsOf_zero]

end Tables

/-! ## The begin of a run (R385) -/

section Begin

variable {s : State} {q : QId} {r : Rec} {n seq : Nat}

theorem serveStart_runs (h : Starts specServeStart s q.val r) (ho : r.opcode = 0x3A) :
    exec (.serveStart q) s = .next ((s.takeHead q.val 0 r).runServe q.val (s.headSeq q.val) r) :=
  congrArg Host.Outcome.next (queueCommand_runs _ h (by rw [ho]; rfl))

theorem runServe_run : ∃ x, mget (s.runServe n seq r).serve.runs r.binding = some x ∧ x.q = n ∧ x.seq = seq ∧ x.done = 0 ∧
    x.items = [] ∧ x.stop = false :=
  ⟨_, mget_setServeRun .., rfl, rfl, rfl, rfl, rfl⟩

theorem runServe_running : (s.runServe n seq r).f F.SRV_RUN_RUNNING r.binding = 1 := by
  simp only [State.runServe]
  rw [f_setF_apart _ _ _ _ (by rfl) (by decide), f_setF_self _ _ _ _ _ (by decide)]
  rfl

theorem runServe_phase : (s.runServe n seq r).f F.SRV_RUN_PHASE r.binding = 1 := by
  unfold State.runServe
  rw [f_setF_self _ _ _ _ _ (by decide)]
  rfl

theorem runServe_sameRegs : SameRegsBut s (s.runServe n seq r) [R.SRV_RUN.at r.binding] := by
  unfold State.runServe
  refine sameRegs_setF (sameRegs_setF (sameRegs_setServeRun (sameRegs_refl s _) _ _) _ _ _ _ ?_) _ _ _ _ ?_ <;>
    exact List.mem_singleton_self _

theorem runServe_frame : s.runServe n seq r =
    { s with regs := (s.runServe n seq r).regs, serve := { s.serve with runs := (s.runServe n seq r).serve.runs } } := rfl

theorem takeHead_serve (s : State) (q e : Nat) (r : Rec) : (s.takeHead q e r).serve = s.serve := by rw [takeHead_rest]

end Begin

/-! ## The batch (R386, R389) -/

section Batch

variable {s u v w : State} {m : BindId} {x y : ServeRun} {is : List Item}

theorem txs_untouched (h : ∀ t ∈ s.txs, t.committing = false) (m : Nat) :
    (s.txs.any fun t => t.committing && s.txTouchesBinding t m) = false :=
  List.any_eq_false.2 fun t ht => by rw [h t ht]; exact Bool.false_ne_true

variable (hx : mget s.serve.runs m.val = some x) (hi : x.items = []) (hr : s.running = true)
  (ht : ∀ t ∈ s.txs, t.committing = false) (ho : s.bindOwned m.val = true)

include hx hi hr ht ho

/-- A batch with items stands in the run before its records are written. -/
theorem batchFormation_formed (hf : s.formBatch m.val (some (x.q, x.seq)) = (u, is)) (hn : is ≠ [])
    (hy : y = { x with items := is, number := (s.f F.SRV_RUN_STEP m.val + 1) % 2 ^ 58, pass := 1, drafted := false, target := false })
    (hv : v = (u.setServeRun m.val y).setF F.SRV_RUN_PHASE (if u.draftPasses is = 0 then 3 else 2) m.val)
    (hw : v.writeTarget m.val y = .ok w) : exec (.batchFormation m) s = .next w := by
  subst hy hv
  have he : is.isEmpty = false := by simpa using hn
  simp only [exec, execBatchFormation, hx, hi, hr, txs_untouched ht, ho, hf, he, List.isEmpty_nil, Bool.not_true, Bool.or_self,
    Bool.false_eq_true, if_false, hw]

/-- A binding that finds no candidate is idle until it tries again. -/
theorem batchFormation_empty (hf : s.formBatch m.val (some (x.q, x.seq)) = (u, [])) :
    exec (.batchFormation m) s = .next (u.setF F.SRV_RUN_PHASE 0 m.val) := by
  simp only [exec, execBatchFormation, hx, hi, hr, txs_untouched ht, ho, hf, List.isEmpty_nil, Bool.not_true, Bool.or_self,
    Bool.false_eq_true, if_false, if_true]

end Batch

/-! ## Draft passes and the target's pass (R386, R388, R393) -/

section Passes

variable {s u v : State} {m : BindId} {x : ServeRun} {t : Nat} {is : List Item}

theorem draftPass_begins (hx : mget s.serve.runs m.val = some x) (hc : x.casting = false) (hp : s.f F.SRV_RUN_PHASE m.val = 2)
    (hr : x.readyAt = none) : exec (.draftPass m) s = .next (s.beginDraft m.val x) := by
  simp [exec, execDraftPass, hx, hc, hp, hr]

theorem draftPass_proposes (hx : mget s.serve.runs m.val = some x) (hc : x.casting = false) (hp : s.f F.SRV_RUN_PHASE m.val = 2)
    (hr : x.readyAt = some t) (ht : s.samplerTurn m.val t = true)
    (hs : s.askSorter m.val (s.sortsNeeded x (some x.pass)) = (u, true))
    (hi : u.propose (u.f F.SRV_MODEL_CFG_DRAFT m.val) x.pass (some (x.q, x.seq)) x.items = (v, .ok is)) :
    ∃ w, w = v.setServeRun m.val { x with items := is, pass := x.pass + 1, readyAt := none } ∧
      exec (.draftPass m) s = .next (if w.draftPasses (is.filter (fun y => w.itemLive y && y.fault.isNone)) ≤ x.pass then
        w.setF F.SRV_RUN_PHASE 3 m.val else w) := by
  refine ⟨_, rfl, ?_⟩
  simp [exec, execDraftPass, hx, hc, hp, hr, ht, hs, hi]

theorem samplerPass_begins (hx : mget s.serve.runs m.val = some x) (hc : x.casting = false) (hp : s.f F.SRV_RUN_PHASE m.val = 3) :
    exec (.samplerPass m) s = .next (s.beginTarget m.val x) := by
  simp [exec, execSamplerPass, hx, hc, hp]

theorem samplerPass_samples (hx : mget s.serve.runs m.val = some x) (hc : x.casting = false) (hp : s.f F.SRV_RUN_PHASE m.val = 4)
    (hr : x.readyAt = some t) (ht : s.samplerTurn m.val t = true) (hs : s.askSorter m.val (s.sortsNeeded x none) = (u, true))
    (hi : u.sampleItems m.val (some (x.q, x.seq)) x.items = (v, .ok is)) : exec (.samplerPass m) s =
    .next ((v.setServeRun m.val { x with items := is, readyAt := none }).setF F.SRV_RUN_PHASE 5 m.val) := by
  simp [exec, execSamplerPass, hx, hc, hp, hr, ht, hs, hi]

end Passes

/-! ## The commit point (R386, R400) -/

section Commit

variable {s : State}

theorem commitPoint_due {m : BindId} {x : ServeRun} (hx : mget s.serve.runs m.val = some x) (hi : x.items ≠ [])
    (hp : s.f F.SRV_RUN_PHASE m.val = 5) : exec (.commitPoint m) s = .next (s.setServeRun m.val { x with commitDue := true }) := by
  simp [exec, execCommitPoint, hx, hi, hp]

theorem settleCommit_commits {m : Nat} {x : ServeRun} (hx : mget s.serve.runs m = some x) (hd : x.commitDue = true) (hi : x.items ≠ [])
    (hp : s.f F.SRV_RUN_PHASE m = 5) : s.settleCommit m = s.commitStep m x := by
  simp [State.settleCommit, hx, hd, hi, hp]

end Commit

/-! ## The feed of a follower (R403, R404) -/

section Feed

variable {s : State} {m : Nat} {w0 w1 : W64}

theorem feedRecord_expected {m : BindId} {n : Nat} (hn : mget s.serve.feed m.val = some n) (hk : s.feedSeq m.val n = n) :
    ∃ u, u = s.takeFeed m.val (s.word (s.feedSlot m.val n)) (s.word (s.feedSlot m.val n + 8)) ∧
      exec (.feedRecord m) s = .next { u with serve := { u.serve with feed := mset u.serve.feed m.val (n + 1) } } := by
  refine ⟨_, rfl, ?_⟩
  simp only [exec, execFeedRecord, hn, hk, if_true]

theorem takeFeed_enters {e : Req} (he : e = s.req (bitsOf w0 0 16)) (hs : e.f qfState = 11) (ht : e.f qfTarget = m)
    (hg : e.f qfPartner = bitsOf w0 16 16) (hf : e.feedNext = bitsOf w1 0 28) (hc : e.cause = none) (hl : bitOf w0 60 = false) :
    s.takeFeed m w0 w1 = s.setReq (bitsOf w0 0 16)
      { e with feed := e.feed ++ [(bitsOf w1 0 28, bitsOf w0 32 20)], feedNext := bitsOf w1 0 28 + 1 } := by
  subst he
  simp [State.takeFeed, hs, ht, hg, hf, hc, hl]

theorem takeFeed_drops (h : (s.req (bitsOf w0 0 16)).f qfState ≠ 11) : s.takeFeed m w0 w1 = s.feedDrop m := if_pos (.inl h)

end Feed

/-! ## The release of a range (R303) -/

section Release

variable {s u : State} {e : BitVec 16}

/-- An entry freed: what `RANGE_RELEASE` leaves once the range of entry `i` of job `n` is unmapped and its pages are pushed. -/
def entryFreed (u : State) (i n : Nat) : State :=
  let v := u.setReq i ((u.req i).setF qfState 0)
  let w := { v with serve := { v.serve with history := merase v.serve.history i } }
  let w := w.setF F.SRV_TABLE_STAT_FREE (w.f F.SRV_TABLE_STAT_FREE + 1)
  w.setF F.SRV_JOB_STAT_IN_USE (w.f F.SRV_JOB_STAT_IN_USE n - 1) n

theorem rangeRelease_frees (h₁ : 7 ≤ (s.req e.toNat).f qfState) (h₂ : (s.req e.toNat).f qfState ≤ 9) :
    exec (.rangeRelease e) s = .next (entryFreed (s.kvRelease e.toNat) e.toNat ((s.req e.toNat).f qfJob)) :=
  congrArg Host.Outcome.next (if_pos ⟨h₁, h₂⟩)

variable (u) (i n : Nat)

theorem entryFreed_req : (entryFreed u i n).req i = (u.req i).setF qfState 0 := req_setReq_self u i _

theorem entryFreed_req_ne {j : Nat} (h : j ≠ i) : (entryFreed u i n).req j = u.req j := req_setReq_ne u _ h.symm

theorem entryFreed_memory : (entryFreed u i n).memory = u.memory := rfl

theorem entryFreed_frames : (entryFreed u i n).frames = u.frames := rfl

theorem entryFreed_free : (entryFreed u i n).f F.SRV_TABLE_STAT_FREE = (u.f F.SRV_TABLE_STAT_FREE + 1) % 2 ^ 17 := by
  have hne : R.SRV_JOB_STAT.at n ≠ R.SRV_TABLE_STAT.at := by
    simp only [R.SRV_JOB_STAT, R.SRV_TABLE_STAT, Reg.at]
    omega
  unfold entryFreed
  rw [f_setF_ne _ _ hne, f_setF_self _ _ _ _ _ (by decide)]
  rfl

theorem entryFreed_sameRegs : SameRegsBut u (entryFreed u i n) [R.SRV_TABLE_STAT.at, R.SRV_JOB_STAT.at n] := by
  unfold entryFreed
  refine sameRegs_setF (sameRegs_setF (sameRegs_of_regs rfl _) _ _ _ _ ?_) _ _ _ _ ?_
  · exact List.mem_cons_self
  · exact List.mem_cons_of_mem _ (List.mem_singleton_self _)

end Release

/-- Settles O22: each step of a run by the lemma of its row, the release of a range by the entry that it frees. -/
theorem servingStepsAdvance : Obligations.ServingStepsAdvance := by
  unfold Obligations.ServingStepsAdvance
  refine ⟨?_, ?_, ?_, ?_, ?_, ?_, ?_, ?_, ?_, ?_, ?_, ?_, ?_⟩
  · intro s q r h ho
    obtain ⟨x, hx, hq, hs, hd, hi, hp⟩ := runServe_run (s := s.takeHead q.val 0 r) (n := q.val) (seq := s.headSeq q.val) (r := r)
    exact ⟨_, x, serveStart_runs h ho, hx, hq, hs, hd, hi, hp, runServe_running, runServe_phase,
      by rw [← takeHead_serve s q.val 0 r]; exact runServe_frame, runServe_sameRegs⟩
  · intro s u v w m x y is hx hi hr ht ho hf hn hy hv hw
    exact batchFormation_formed hx hi hr ht ho hf hn hy hv hw
  · intro s u m x hx hi hr ht ho hf
    exact batchFormation_empty hx hi hr ht ho hf
  · intro s m x hx hc hp hr
    exact draftPass_begins hx hc hp hr
  · intro s u v m x t is hx hc hp hr ht hs hi
    exact draftPass_proposes hx hc hp hr ht hs hi
  · intro s m x hx hc hp
    exact samplerPass_begins hx hc hp
  · intro s u v m x t is hx hc hp hr ht hs hi
    exact ⟨_, samplerPass_samples hx hc hp hr ht hs hi, mget_setServeRun .., f_setF_self _ _ _ _ _ (by decide),
      sameRegs_setF (sameRegs_setServeRun (sameRegs_refl v _) _ _) _ _ _ _ (List.mem_singleton_self _)⟩
  · intro s m x hx hi hp
    exact commitPoint_due hx hi hp
  · intro s m x hx hd hi hp
    exact settleCommit_commits hx hd hi hp
  · intro s m n hn hk
    exact feedRecord_expected hn hk
  · rintro s m w0 w1 i e rfl he hs ht hg hf hc hl
    exact takeFeed_enters he hs ht hg hf hc hl
  · intro s m w0 w1 h
    exact takeFeed_drops h
  · intro s e h₁ h₂
    exact ⟨_, _, rfl, rangeRelease_frees h₁ h₂, by rw [entryFreed_req]; exact reqField_setF_zero _ (by decide), entryFreed_free ..,
      entryFreed_memory .., entryFreed_frames .., fun j hj => entryFreed_req_ne _ _ _ hj, entryFreed_sameRegs _ _ _⟩

end Sys2Proof.Proofs

end

section
/-! The begin and the end of ring runs (R321 to R325, R336 to R338, R345): what starts a run, what a neighbour's setup message does to it,
what stops it, and what its end leaves. -/

namespace Sys2Proof.Proofs

open Sys2Proof.Machine Sys2Proof.Laws

/-! ## The begin of a run (R321 to R324) -/

section Begin

variable {s u : State} {q : QId} {r : Rec} {n seq : Nat} {ls : List (Nat × Nat)} {fd : Nat × Nat}

/-- The run of record `r` of queue `n` with the lanes `ls` and the feed ring `fd`, before any setup message. -/
def freshRun (u : State) (n seq : Nat) (r : Rec) (ls : List (Nat × Nat)) (fd : Nat × Nat) : RingRun :=
  { q := n, seq := seq, job := u.queueJob n, entry := r.ringEntry, s0 := r.ringS0, scount := r.ringScount
    part := r.w5.toNat, hq := bitsOf r.w6 0 16, feed := r.ringFeed, feedMu := fd.1, feedRing := fd.2
    lanes := ls.map (fun l => ⟨l.1, l.2, 0, 0, 0, 0, 0, 0, 0⟩)
    predOk := false, succOk := false, step := 0, since := u.now, fed := 0, m0 := 0, feedE := 0 }

theorem ringRun_runs (h : Starts specRingRun s q.val r) (ho : r.opcode = 0x28) :
    exec (.ringRun q) s = .next ((s.takeHead q.val 4 r).runRing q.val (s.headSeq q.val) r) :=
  congrArg Host.Outcome.next (queueCommand_runs _ h (by rw [ho]; rfl))

theorem runRing_begins (he : ringEncoding u (u.queueJob n) r = none) (hm : u.laneMap (u.queueJob n) r = some (ls, fd))
    (hl : ∀ l ∈ ls, u.ringReady (u.queueJob n) l false (1 + u.ringBlockBytes (freshRun u n seq r ls fd) / 64) = true)
    (hf : r.ringFeed = true → u.ringReady (u.queueJob n) fd true (u.ringDim (freshRun u n seq r ls fd) / 16 + 1) = true) :
    u.runRing n seq r = u.beginRing r.ringGroup (freshRun u n seq r ls fd) := by
  have hlanes := List.all_eq_true.2 hl
  have hfeed : (r.ringFeed && !u.ringReady (u.queueJob n) fd true (u.ringDim (freshRun u n seq r ls fd) / 16 + 1)) = false := by
    simpa using hf
  have hready := Bool.or_eq_false_iff.2 ⟨congrArg not hlanes, hfeed⟩
  unfold State.runRing
  simp only [he, hm]
  exact if_neg (ne_true_of_eq_false hready)

end Begin

/-! ## Setup messages (R325) -/

section Setup

variable {s : State} {g : Nat} {m : RingSetupMsg} {x : RingRun}

theorem takeSetup_agrees (hx : mget s.ringRuns g = some x) (hv : s.fb F.MRE_G_CFG_VALID g = true)
    (hc : m.src.toNat = s.f F.MRE_G_NBR_PRED_CHIP g) (hp : x.predOk = false) (hs : s.f F.MRE_G_STAT_STATE g = 1)
    (ha : setupOf m = s.setupValues g x) (hi : m.index = (s.ringIndex g + s.ringMembers g - 1) % s.ringMembers g) :
    s.takeSetup g m = if x.succOk then (s.setRingRun g { x with predOk := true }).setF F.MRE_G_STAT_STATE 2 g
      else s.setRingRun g { x with predOk := true } := by
  simp [State.takeSetup, hx, hv, hc, hp, hs, ha, hi]

theorem takeSetup_disagrees (hx : mget s.ringRuns g = some x) (hv : s.fb F.MRE_G_CFG_VALID g = true)
    (hc : m.src.toNat = s.f F.MRE_G_NBR_PRED_CHIP g) (hp : x.predOk = false) (hs : s.f F.MRE_G_STAT_STATE g = 1)
    (ha : setupOf m ≠ s.setupValues g x) : s.takeSetup g m = s.endRing g x .badCommand 0 := by
  simp [State.takeSetup, hx, hv, hc, hp, hs, ha]

theorem ringSetup_takes {g : GroupId} (h : s.part.hasMeander = true) :
    exec (.ringSetup g m) s = .next ((s.takeSetup g.val m).ringPump g.val) :=
  congrArg Host.Outcome.next (if_pos h)

/-- A run still in setup does not move. -/
theorem ringPump_inSetup (h : s.f F.MRE_G_STAT_STATE g = 1) : s.ringPump g = s := by
  unfold State.ringPump
  split
  · rfl
  · simp [h]

theorem ringSetup_agrees {g : GroupId} (hm : s.part.hasMeander = true) (hx : mget s.ringRuns g.val = some x)
    (hv : s.fb F.MRE_G_CFG_VALID g.val = true) (hc : m.src.toNat = s.f F.MRE_G_NBR_PRED_CHIP g.val) (hp : x.predOk = false)
    (hs : s.f F.MRE_G_STAT_STATE g.val = 1) (ha : setupOf m = s.setupValues g.val x)
    (hi : m.index = (s.ringIndex g.val + s.ringMembers g.val - 1) % s.ringMembers g.val) :
    exec (.ringSetup g m) s = .next (if x.succOk then
      ((s.setRingRun g.val { x with predOk := true }).setF F.MRE_G_STAT_STATE 2 g.val).ringPump g.val
      else s.setRingRun g.val { x with predOk := true }) := by
  rw [ringSetup_takes hm, takeSetup_agrees hx hv hc hp hs ha hi]
  cases x.succOk with
  | true => rfl
  | false =>
    have hwait : (s.setRingRun g.val { x with predOk := true }).f F.MRE_G_STAT_STATE g.val = 1 := hs
    exact congrArg Host.Outcome.next (ringPump_inSetup hwait)

end Setup

/-! ## Stalls and notices (R336, R338) -/

section Stops

variable {s : State} {x : RingRun}

theorem ringStall_ends {u : State} {g : GroupId} (hu : u = s.ringPump g.val) (hx : mget u.ringRuns g.val = some x)
    (ht : x.since + u.ringLimit g.val < u.now) :
    exec (.ringStall g) s = .next ((((u.ringFault x).ringCause g.val 1 (u.ringIndex g.val)).ringNotices g.val 1
      (u.ringIndex g.val)).endRing g.val x .ringStall (u.faultDetail 0x4701)) := by
  subst hu
  simp only [exec, execRingStall, hx, if_pos ht]

variable {g : GroupId} {runId : BitVec 32} {cause : Fin 4} {member : Nat} {fromPred : Bool}

theorem ringAbort_noted (hx : mget s.ringRuns g.val = some x) (hr : runId.toNat = s.f F.MRE_G_STEPMAX_RUN_ID g.val) :
    exec (.ringAbort g runId cause member fromPred) s = .next ((s.ringNotice g.val fromPred cause.val member).setRingRun g.val
      { x with notice := some (noticeOf x.notice cause.val member) }) := by
  simp [exec, execRingAbort, hx, hr]

theorem ringAbort_otherRun (hr : runId.toNat ≠ s.f F.MRE_G_STEPMAX_RUN_ID g.val) :
    exec (.ringAbort g runId cause member fromPred) s = .next s := by
  cases hx : mget s.ringRuns g.val with
  | none => simp [exec, execRingAbort, hx]
  | some x => simp [exec, execRingAbort, hx, hr]

theorem endNoticed_ends {g c m : Nat} (hx : mget s.ringRuns g = some x) (hn : x.notice = some (c, m)) :
    s.endNoticed g =
      ((s.ringFault x).ringCause g c m).endRing g x (if c = 2 then .memberLost else .ringStall) (s.faultDetail 0x4701) := by
  simp only [State.endNoticed, hx, hn]

end Stops

/-! ## The end of a run (R324, R345) -/

section Close

variable (s : State) (g : Nat) (x : RingRun) (st : Status) (d : W64)

/-- The state in which a run of group `g` has left it with status `st`, before its record completes. -/
def ringIdled : State :=
  { (s.setF F.MRE_G_STAT_STATE 0 g).setF F.MRE_G_STAT_LAST_STATUS st.code g with ringRuns := merase s.ringRuns g }

theorem closeRing_eq : s.closeRing g x st d = ((ringIdled s g st).finishFlight x.q x.seq st
    (setBits (setBits (BitVec.ofNat 64 (s.f F.MRE_G_PROG_STEPS_DONE g)) 11 11 (s.f F.MRE_G_PROG_STEPS_IN g)) 32 32
      (s.f F.MRE_G_STEPMAX_RUN_ID g)) d).releaseShard x.entry := rfl

theorem ringIdled_ringRuns (h : msorted s.ringRuns = true) : mget (ringIdled s g st).ringRuns g = none := mget_merase_self g h

theorem ringIdled_memory : (ringIdled s g st).memory = s.memory := rfl

theorem ringIdled_state : (ringIdled s g st).f F.MRE_G_STAT_STATE g = 0 :=
  calc (ringIdled s g st).f F.MRE_G_STAT_STATE g
    _ = (s.setF F.MRE_G_STAT_STATE 0 g).f F.MRE_G_STAT_STATE g := f_setF_apart _ _ _ _ rfl (by decide)
    _ = 0 := f_setF_self _ _ _ _ _ (by decide)

theorem ringIdled_lastStatus : (ringIdled s g st).f F.MRE_G_STAT_LAST_STATUS g = st.code % 2 ^ 8 := f_setF_self _ _ _ _ _ (by decide)

theorem ringIdled_sameRegs : SameRegsBut s (ringIdled s g st) [R.MRE_G_STAT.at g] :=
  have h := sameRegs_setF (sameRegs_refl s [R.MRE_G_STAT.at g]) F.MRE_G_STAT_STATE 0 g 0 (List.mem_singleton_self _)
  sameRegs_congr (sameRegs_setF h F.MRE_G_STAT_LAST_STATUS st.code g 0 (List.mem_singleton_self _)) rfl

end Close

/-- Settles O25: a begin by what `runRing` does where its checks pass, setup messages by `takeSetup`, a stop by its event, and an end by the
state that leaves the group idle. -/
theorem ringRunsBeginAndEnd : Obligations.RingRunsBeginAndEnd := by
  unfold Obligations.RingRunsBeginAndEnd
  refine ⟨?_, ?_, ?_, ?_, ?_, ?_, ?_, ?_⟩
  · rintro s u q r ls fd x h ho rfl he hm rfl hl hf
    rw [ringRun_runs h ho]
    exact congrArg Host.Outcome.next (runRing_begins he hm hl hf)
  · intro s g m x hm hx hv hc hp hs ha hi
    exact ringSetup_agrees hm hx hv hc hp hs ha hi
  · intro s g m x hm hx hv hc hp hs ha
    rw [ringSetup_takes hm, takeSetup_disagrees hx hv hc hp hs ha]
  · intro s u g x hu hx ht
    exact ringStall_ends hu hx ht
  · intro s g runId cause member fromPred x hx hr
    exact ringAbort_noted hx hr
  · intro s g c m x hx hn
    exact endNoticed_ends hx hn
  · intro s g runId cause member fromPred hr
    exact ringAbort_otherRun hr
  · intro s g x st d h
    exact ⟨ringIdled s g st, closeRing_eq .., ringIdled_ringRuns _ _ _ h, ringIdled_state .., ringIdled_lastStatus ..,
      ringIdled_memory .., ringIdled_sameRegs _ _ _⟩

end Sys2Proof.Proofs

end

section
/-! Circulation (R327, R328, R333, R334, R444): what a segment, a grant, an acknowledgement and a step word do to a run, and what goes into
its feed ring. -/

namespace Sys2Proof.Proofs

open Sys2Proof.Machine Sys2Proof.Laws

/-! ## Segments (R327, R328, R444) -/

section Blocks

variable {s : State} {m : RingBlockMsg} {x : RingRun}

theorem ringBlock_takes {g : GroupId} (hx : mget s.ringRuns g.val = some x) (hs : s.f F.MRE_G_STAT_STATE g.val = 2)
    (hr : m.runId.toNat = s.f F.MRE_G_STEPMAX_RUN_ID g.val) :
    exec (.ringBlock g m) s = .next ((s.takeBlock g.val x m).ringPump g.val) := by
  simp [exec, execRingBlock, hx, hs, hr]

variable {g : Nat} {l : LaneSt} {b : BlockId}

/-- The state with a segment written at its offset in the slot at the tail of lane `l`'s ring. -/
def segmentStored (s : State) (l : LaneSt) (m : RingBlockMsg) : State :=
  let a := s.slotOffset l.mu l.ring (s.ringOf l.mu l.ring).2.tail + m.offset
  (s.store a m.data m.poison).countLines true a m.data.length

/-- The state that the last segment of block `b` leaves in memory, ring and ports: its head, TAIL and the acknowledgement. -/
def blockEnded (s : State) (g : Nat) (l : LaneSt) (m : RingBlockMsg) (b : BlockId) : State :=
  let z := (s.ringOf l.mu l.ring).2
  let a := s.slotOffset l.mu l.ring z.tail
  let v := segmentStored s l m
  ((v.store a (v.blockHead g b) (v.poisoned a 64)).setRingPtr l.mu l.ring { z with tail := (z.tail + 1) % 65536 }).ringSend g false
    { OutMsg.blank with op := 0x13, vc := 3, arg0 := m.lane, extra := [g, m.lane] }

section Due

variable (hl : x.lanes[m.lane]? = some l) (hb : s.blockAt g x m.lane (s.ringMembers g) 0 l.put = some b)

include hl hb

/-- A segment that is due is written, and the last one ends its block. -/
theorem takeBlock_due (hg : l.given ≠ 0) (hk : s.segmentOk g x l m b = true) :
    s.takeBlock g x m = if m.segIndex + 1 < m.segCount then
        (segmentStored s l m).setRingRun g { x with lanes := setNth x.lanes m.lane { l with segs := l.segs + 1 } }
      else (blockEnded s g l m b).setRingRun g
        { x with lanes := setNth x.lanes m.lane { l with segs := 0, arrived := l.arrived + 1, given := l.given - 1 } } := by
  have hdue : ¬ (l.given = 0 ∨ (!s.segmentOk g x l m b) = true) := by simp [hg, hk]
  simp only [State.takeBlock, hl, hb, if_neg hdue]
  rfl

theorem takeBlock_notDue (h : l.given = 0 ∨ s.segmentOk g x l m b = false) : s.takeBlock g x m = s.ringLocal g x .badCommand 0 := by
  have hbad : l.given = 0 ∨ (!s.segmentOk g x l m b) = true := by simpa using h
  simp only [State.takeBlock, hl, hb, if_pos hbad]

end Due

end Blocks

/-! ## Grants and acknowledgements (R328, R329) -/

section Lanes

variable {s : State} {lane : Nat} {x : RingRun} {l : LaneSt}

theorem laneEvent_changes {g : Nat} (hx : mget s.ringRuns g = some x) (hl : x.lanes[lane]? = some l) (f : LaneSt → LaneSt) :
    s.laneEvent g lane f = (s.setRingRun g { x with lanes := setNth x.lanes lane (f l) }).ringPump g := by
  simp only [State.laneEvent, hx, hl]

end Lanes

/-! ## Step words (R333) -/

section Steps

variable {s : State} {g : GroupId} {i : Nat} {x : RingRun} {bs : List Byte} {mark : Bool}

theorem stepWord_done (hx : mget s.ringRuns g.val = some x) (hs : 2 ≤ s.f F.MRE_G_STAT_STATE g.val)
    (hd : i = s.f F.MRE_G_PROG_STEPS_DONE g.val) (hi : i < s.ringMembers g.val)
    (hr : s.readVirt x.job (x.part + 8 * i) 8 = .ok (bs, mark))
    (hw : leWord bs = setBits (setBits (0 : W64) 16 32 (s.f F.MRE_G_STEPMAX_RUN_ID g.val)) 63 1 1) :
    exec (.stepWord g i) s = .next ((s.setF F.MRE_G_PROG_STEPS_DONE (i + 1) g.val).ringPump g.val) := by
  have hturn : ¬ (s.f F.MRE_G_STAT_STATE g.val < 2 ∨ i ≠ s.f F.MRE_G_PROG_STEPS_DONE g.val ∨ s.ringMembers g.val ≤ i) := by omega
  simp only [exec, execStepWord, hx, if_neg hturn, hr, if_pos hw]

theorem stepWord_notDue (hx : mget s.ringRuns g.val = some x) (hr : s.readVirt x.job (x.part + 8 * i) 8 = .ok (bs, mark))
    (hw : leWord bs ≠ setBits (setBits (0 : W64) 16 32 (s.f F.MRE_G_STEPMAX_RUN_ID g.val)) 63 1 1) :
    exec (.stepWord g i) s = .next s := by
  simp only [exec, execStepWord, hx, hr, if_neg hw, ite_self]

end Steps

/-! ## The feed (R334) -/

section RingFeed

variable {s : State} {x : RingRun}

theorem ringFeed_feeds {u : State} {g : GroupId} (hu : u = s.ringPump g.val) (hx : mget u.ringRuns g.val = some x)
    (hs : u.f F.MRE_G_STAT_STATE g.val = 3) (hd : u.f F.MRE_G_PROG_STEPS_DONE g.val = u.ringMembers g.val)
    (hf : x.fed < u.ringMembers g.val * u.shardLen g.val (u.ringIndex g.val) * x.hq) :
    exec (.ringFeed g) s = .next (u.feedOne g.val x) := by
  subst hu
  simp only [exec, execRingFeed, hx, if_pos (And.intro hs (And.intro hd hf))]

theorem feedOne_writes {g : Nat} {bs : List Byte} {mark : Bool} {a : Nat}
    (hf : (s.ringOf x.feedMu x.feedRing).2.fill false < (s.ringOf x.feedMu x.feedRing).1.slots) (hj : x.fed % s.ringMembers g ≠ 0)
    (hr : s.readVirt x.job (s.partialVa g x (x.fed % s.ringMembers g) (x.fed / s.ringMembers g / x.hq)
      (x.fed / s.ringMembers g % x.hq)) (4 * s.ringDim x + 64) = .ok (bs, mark))
    (ha : a = s.slotOffset x.feedMu x.feedRing (s.ringOf x.feedMu x.feedRing).2.tail) :
    s.feedOne g x = ((((s.store a (feedRecord bs (s.ringDim x) x.m0 x.feedE) mark).countLines true a (4 * s.ringDim x + 64)).setRingPtr
      x.feedMu x.feedRing { (s.ringOf x.feedMu x.feedRing).2 with
        tail := ((s.ringOf x.feedMu x.feedRing).2.tail + 1) % 65536 }).setRingRun g { x with fed := x.fed + 1 }).ringPump g := by
  subst ha
  simp only [State.feedOne, if_neg (Nat.not_le.2 hf), if_pos hj, hr]

end RingFeed

/-- Settles O26: segments by `takeBlock`, grants and acknowledgements by `laneEvent`, step words and feed records by their lemmas. -/
theorem ringBlocksCirculate : Obligations.RingBlocksCirculate := by
  unfold Obligations.RingBlocksCirculate
  refine ⟨?_, ?_, ?_, ?_, ?_, ?_, ?_, ?_, ?_, ?_⟩
  · intro s g m x hx hs hr
    exact ringBlock_takes hx hs hr
  · rintro s g m x l b a hl hb hg hk rfl hn
    exact (takeBlock_due hl hb hg hk).trans (if_pos hn)
  · rintro s g m x l b a v hl hb hg hk rfl hn rfl
    exact (takeBlock_due hl hb hg hk).trans (if_neg (Nat.not_lt.2 hn))
  · intro s g m x l b hl hb h
    exact takeBlock_notDue hl hb h
  · intro s g lane x l hx hl
    exact congrArg Host.Outcome.next (laneEvent_changes hx hl _)
  · intro s g lane x l hx hl
    exact congrArg Host.Outcome.next (laneEvent_changes hx hl _)
  · intro s g i x bs mark hx hs hd hi hr hw
    exact stepWord_done hx hs hd hi hr hw
  · intro s g i x bs mark hx hr hw
    exact stepWord_notDue hx hr hw
  · intro s u g x hu hx hs hd hf
    exact ringFeed_feeds hu hx hs hd hf
  · intro s g x bs mark a hf hj hr ha
    exact feedOne_writes hf hj hr ha

end Sys2Proof.Proofs

end

section
/-! Routed messages (R366): what a header is judged to be, and what an end marker that is refused or taken does. -/

namespace Sys2Proof.Proofs

open Sys2Proof.Machine Sys2Proof.Laws

/-! ## The group's record -/

section Route

variable (s : State) (g : Nat) (x : RouteSt)

@[simp] theorem route_setRoute_self : (s.setRoute g x).route g = x := mgetD_mset_self ..

end Route

/-! ## The judgement of a header -/

section Judge

variable {s : State} {g src : Nat} {h : RouteHdr}

/-- Whether a header repeats what R366 lists of the plan `p` of group `g`. -/
abbrev HeaderOf (s : State) (g : Nat) (p : RoutePlan) (h : RouteHdr) : Prop :=
  h.layer = p.layer ∧ h.members = s.routeMembers g ∧ h.cap = p.cap ∧ h.experts = p.experts ∧ h.rowLines = p.rowLines ∧
    h.mapCrc.toNat = p.mapCrc

theorem judge_stranger (h' : s.routeMembers g ≤ src ∨ src = s.routeIndex g) : s.judge g src h = .refuse := if_pos h'

/-- The present batch is not the next one: the counter of R376 has 20 bits. -/
theorem batch_ne_next (s : State) (g : Nat) : s.batch g ≠ (s.batch g + 1) % 2 ^ 20 := by
  have hb : s.batch g < 2 ^ 20 := f_lt s F.WSU_G_STAT_BATCH g 0
  omega

section Member

variable (hm : ¬ (s.routeMembers g ≤ src ∨ src = s.routeIndex g))

include hm

theorem judge_next (hb : h.batch = (s.batch g + 1) % 2 ^ 20) : s.judge g src h = .hold := by
  rw [State.judge, if_neg hm, if_pos hb]

theorem judge_otherBatch (hn : h.batch ≠ (s.batch g + 1) % 2 ^ 20) (hb : h.batch ≠ s.batch g) : s.judge g src h = .refuse := by
  rw [State.judge, if_neg hm, if_neg hn, if_pos hb]

variable {p : RoutePlan} (hb : h.batch = s.batch g) (hp : (s.route g).plan = some p)

include hb hp

/-- A message of the present batch is judged by its header alone. -/
theorem judge_present : s.judge g src h = if HeaderOf s g p h then .take p else .refuse := by
  have hnext : ¬ h.batch = (s.batch g + 1) % 2 ^ 20 := hb ▸ batch_ne_next s g
  simp only [State.judge, if_neg hm, if_neg hnext, if_neg (not_not.2 hb), hp]

end Member

theorem judge_unknown (h' : s.routeMembers g ≤ src ∨ src = s.routeIndex g ∨
    (h.batch ≠ (s.batch g + 1) % 2 ^ 20 ∧ h.batch ≠ s.batch g)) : s.judge g src h = .refuse := by
  by_cases hm : s.routeMembers g ≤ src ∨ src = s.routeIndex g
  · exact judge_stranger hm
  · obtain ⟨hn, hb⟩ := (or_assoc.2 h').resolve_left hm
    exact judge_otherBatch hm hn hb

end Judge

/-! ## End markers -/

section Ends

variable {s : State} {g src : Nat} {h : RouteHdr} (phase : Nat) (xid : BitVec 32)

theorem routeTake_refused (hj : s.judge g src h = .refuse) :
    s.routeTake g (.done src phase h xid) = s.routeRefuse g src xid.toNat := by
  simp only [State.routeTake, hj]

theorem routeTake_returnEnd {p : RoutePlan} (hj : s.judge g src h = .take p) :
    s.routeTake g (.done src 2 h xid) = s.takeEnd g src 2 p := by
  simp only [State.routeTake, hj, or_true, if_true]

/-- The end marker of a `RETURN` is counted, and nothing else changes. -/
theorem takeEnd_return (p : RoutePlan) : s.takeEnd g src 2 p = s.setRoute g { s.route g with
    ends := if (s.route g).ends.contains (src, 2) then (s.route g).ends else (s.route g).ends ++ [(src, 2)] } := rfl

theorem mem_counted {α : Type} [BEq α] [LawfulBEq α] (es : List α) (e : α) {x : α} (hx : x = e ∨ x ∈ es) :
    x ∈ (if es.contains e then es else es ++ [e]) := by
  split
  · next hc =>
    rcases hx with rfl | hx
    · exact List.contains_iff_mem.1 hc
    · exact hx
  · simpa [or_comm] using hx

end Ends

/-- Settles O28: the judgement by its cases, the end markers by what each judgement makes of them. -/
theorem routedMessagesAreJudged : Obligations.RoutedMessagesAreJudged := by
  unfold Obligations.RoutedMessagesAreJudged
  refine ⟨?_, ?_, ?_, ?_, ?_⟩
  · intro s g src h p hlt hne hb hp
    have hm : ¬ (s.routeMembers g ≤ src ∨ src = s.routeIndex g) := not_or.2 ⟨Nat.not_le.2 hlt, hne⟩
    by_cases ha : HeaderOf s g p h
    · have hj := (judge_present hm hb hp).trans (if_pos ha)
      exact ⟨iff_of_true hj ha, .inl hj⟩
    · have hj := (judge_present hm hb hp).trans (if_neg ha)
      exact ⟨iff_of_false (by simp [hj]) ha, .inr hj⟩
  · intro s g src h hlt hne hb
    exact judge_next (not_or.2 ⟨Nat.not_le.2 hlt, hne⟩) hb
  · intro s g src h h'
    exact judge_unknown h'
  · intro s g src phase h xid hj
    exact routeTake_refused phase xid hj
  · intro s g src h xid p hj
    refine ⟨_, (routeTake_returnEnd xid hj).trans (takeEnd_return p), ?_, ?_, rfl, rfl⟩
    · rw [route_setRoute_self]
      exact mem_counted _ _ (.inl rfl)
    · intro x hx
      rw [route_setRoute_self]
      exact mem_counted _ _ (.inr hx)

end Sys2Proof.Proofs

end

section
/-! The choice of experts and the slots that they give (R354, R355). -/

namespace Sys2Proof.Proofs

open Sys2Proof.Machine Sys2Proof.Laws

/-! ## Hash selection (R354) -/

section Hash

/-- What both loops of R354 keep of the experts picked so far. -/
structure Picked (valid : Nat → Bool) (k : Nat) (out : List Nat) : Prop where
  nodup : out.Nodup
  valids : ∀ c ∈ out, valid c = true
  atMost : out.length ≤ k

variable {valid : Nat → Bool} {k : Nat} {out : List Nat}

/-- One look of either loop at an expert, made while fewer than `k` are picked. -/
theorem Picked.look (h : Picked valid k out) (hk : ¬ k ≤ out.length) (c : Nat) :
    Picked valid k (if valid c && !out.contains c then out ++ [c] else out) := by
  split
  · next hc =>
    obtain ⟨hv, hn⟩ : valid c = true ∧ c ∉ out := by simpa using hc
    refine ⟨?_, ?_, ?_⟩
    · exact List.concat_eq_append ▸ (List.nodup_concat out c).2 ⟨hn, h.nodup⟩
    · simpa [or_imp, forall_and, hv] using h.valids
    · simpa using Nat.lt_of_not_le hk
  · exact h

theorem Picked.probe (h : Picked valid k out) (key e fuel i : Nat) : Picked valid k (hashProbe key e k valid fuel i out) := by
  induction fuel generalizing i out with
  | zero => exact h
  | succ fuel ih =>
    unfold hashProbe
    split
    · exact h
    · next hk => exact ih (h.look hk _) _

theorem Picked.fill (h : Picked valid k out) (e fuel c : Nat) : Picked valid k (hashFill e k valid fuel c out) := by
  induction fuel generalizing c out with
  | zero => exact h
  | succ fuel ih =>
    unfold hashFill
    split
    · exact h
    · next hk => exact ih (h.look hk _) _

theorem picked_hashChoices (tok pos salt e k : Nat) (valid : Nat → Bool) : Picked valid k (hashChoices tok pos salt e k valid) :=
  have hnil : Picked valid k [] := ⟨List.nodup_nil, fun _ h => absurd h List.not_mem_nil, Nat.zero_le k⟩
  (hnil.probe ..).fill ..

end Hash

/-! ## One choice of a rank pass (R355) -/

section One

variable {cap : Nat} {used : SMap Nat} {c : Choice}

theorem assignOne_full (h : ¬ mgetD used c.expert 0 < cap) : assignOne cap used c = (used, c) := if_neg h

theorem assignOne_room (h : mgetD used c.expert 0 < cap) : assignOne cap used c =
    (mset used c.expert (mgetD used c.expert 0 + 1), { c with slot := mgetD used c.expert 0, accepted := true }) := if_pos h

/-- The expert and the weight of a choice. -/
def choiceLabel (c : Choice) : Nat × F32 := (c.expert, c.weight)

theorem assignOne_keepsLabel : choiceLabel (assignOne cap used c).2 = choiceLabel c := by
  unfold assignOne
  dsimp only
  split <;> rfl

end One

/-! ## Slots are given once (R355) -/

section Slots

variable {cap : Nat} {used : SMap Nat}

/-- What a pass keeps, for the choices of a batch by token and rank: an accepted choice has a slot below the capacity and below the count
of its expert, and its expert and slot are those of no other. -/
structure Slotted (cap : Nat) (used : SMap Nat) (f : Nat → Nat → Option Choice) : Prop where
  bounded : ∀ {t i c}, f t i = some c → c.accepted = true → c.slot < cap ∧ c.slot < mgetD used c.expert 0
  once : ∀ {t u i j c d}, f t i = some c → f u j = some d → c.accepted = true → d.accepted = true → c.expert = d.expert →
    c.slot = d.slot → t = u ∧ i = j

/-- The choices `f` with `c` in the place of token `t` and rank `i`. -/
def replaceChoice (f : Nat → Nat → Option Choice) (t i : Nat) (c : Choice) (u j : Nat) : Option Choice :=
  if u = t ∧ j = i then some c else f u j

/-- A choice given its slot, or dropped: its expert's count lies above every slot given before, so the slot is new. -/
theorem Slotted.one {f : Nat → Nat → Option Choice} {t i : Nat} {c : Choice} (h : Slotted cap used f) (hc : f t i = some c) :
    Slotted cap (assignOne cap used c).1 (replaceChoice f t i (assignOne cap used c).2) := by
  by_cases hu : mgetD used c.expert 0 < cap
  · rw [assignOne_room hu]
    have hnew : ∀ {u j d}, f u j = some d → d.accepted = true → d.expert = c.expert → d.slot ≠ mgetD used c.expert 0 := by
      intro u j d hd ha he
      exact Nat.ne_of_lt (he ▸ (h.bounded hd ha).2)
    refine ⟨?_, ?_⟩
    · intro u j d hd ha
      unfold replaceChoice at hd
      split at hd
      · cases hd
        exact ⟨hu, by simp⟩
      · obtain ⟨hcap, hcount⟩ := h.bounded hd ha
        refine ⟨hcap, ?_⟩
        by_cases he : c.expert = d.expert
        · rw [← he, mgetD_mset_self, he]
          exact Nat.lt_succ_of_lt hcount
        · rwa [mgetD_mset_ne _ _ _ he]
    · intro u v j k d e hd he had hae hexp hslot
      unfold replaceChoice at hd he
      split at hd <;> split at he
      · next h₁ h₂ => exact ⟨h₁.1.trans h₂.1.symm, h₁.2.trans h₂.2.symm⟩
      · cases hd
        exact absurd hslot.symm (hnew he hae hexp.symm)
      · cases he
        exact absurd hslot (hnew hd had hexp)
      · exact h.once hd he had hae hexp hslot
  · rw [assignOne_full hu]
    have hsame : replaceChoice f t i c = f := by
      funext u j
      unfold replaceChoice
      split
      · next e => rw [e.1, e.2, hc]
      · rfl
    rwa [hsame]

/-- The choice of token `t` at rank `i`. -/
def choiceAt (cs : List (List Choice)) (t i : Nat) : Option Choice := cs[t]?.bind (fun l => l[i]?)

theorem choiceAt_middle (done rest : List (List Choice)) (l : List Choice) (i : Nat) :
    choiceAt (done ++ l :: rest) done.length i = l[i]? := by simp [choiceAt]

theorem choiceAt_setNth (done rest : List (List Choice)) {l : List Choice} {i : Nat} {c : Choice} (hc : l[i]? = some c) (d : Choice) :
    choiceAt (done ++ setNth l i d :: rest) = replaceChoice (choiceAt (done ++ l :: rest)) done.length i d := by
  obtain ⟨hi, -⟩ := List.getElem?_eq_some_iff.1 hc
  funext t j
  by_cases ht : t = done.length
  · subst ht
    rw [replaceChoice, choiceAt_middle, choiceAt_middle, setNth, List.getElem?_set]
    by_cases hj : j = i
    · simp [hj, hi]
    · simp [hj, Ne.symm hj]
  · have hget : (done ++ setNth l i d :: rest)[t]? = (done ++ l :: rest)[t]? := by
      rw [List.getElem?_append, List.getElem?_append, List.getElem?_cons, List.getElem?_cons]
      split
      · rfl
      · rw [if_neg (by omega), if_neg (by omega)]
    simp [replaceChoice, choiceAt, ht, hget]

/-- A pass over the tokens that follow those of `done`. -/
theorem Slotted.pass {i : Nat} (cs done : List (List Choice)) (h : Slotted cap used (choiceAt (done ++ cs))) :
    Slotted cap (assignPass cap i used cs).1 (choiceAt (done ++ (assignPass cap i used cs).2)) := by
  induction cs generalizing used done with
  | nil => exact h
  | cons l rest ih =>
    rw [assignPass]
    split
    · simpa using ih (done ++ [l]) (by simpa using h)
    · next c hc =>
      have hone := h.one ((choiceAt_middle done rest l i).trans hc)
      rw [← choiceAt_setNth done rest hc] at hone
      simpa using ih (done ++ [setNth l i (assignOne cap used c).2]) (by simpa using hone)

theorem choiceAt_mem {cs : List (List Choice)} {t i : Nat} {c : Choice} (h : choiceAt cs t i = some c) : ∃ l ∈ cs, c ∈ l := by
  obtain ⟨l, hl, hc⟩ := Option.bind_eq_some_iff.1 h
  exact ⟨l, List.mem_of_getElem? hl, List.mem_of_getElem? hc⟩

theorem slotted_assignSlots (cap kmax : Nat) {cs : List (List Choice)} (h : ∀ l ∈ cs, ∀ c ∈ l, c.accepted = false) :
    ∃ used, Slotted cap used (choiceAt (assignSlots cap kmax cs)) := by
  have hno : ∀ {t i c}, choiceAt cs t i = some c → c.accepted ≠ true := by
    intro t i c hc
    obtain ⟨l, hl, hm⟩ := choiceAt_mem hc
    simp [h l hl c hm]
  have hstart : Slotted cap [] (choiceAt cs) := ⟨fun hc ha => absurd ha (hno hc), fun hc _ ha => absurd ha (hno hc)⟩
  exact ⟨_, List.foldlRecOn (motive := fun (a : SMap Nat × List (List Choice)) => Slotted cap a.1 (choiceAt a.2))
    (List.range kmax) _ hstart fun a ha _ _ => ha.pass a.2 []⟩

end Slots

/-! ## What no pass changes (R355) -/

section Labels

/-- The experts and weights of every choice of a batch. -/
def labels (cs : List (List Choice)) : List (List (Nat × F32)) := cs.map (fun l => l.map choiceLabel)

theorem map_label_setNth {l : List Choice} {i : Nat} {c d : Choice} (hc : l[i]? = some c) (hd : choiceLabel d = choiceLabel c) :
    (setNth l i d).map choiceLabel = l.map choiceLabel := by
  have hl : (l.map choiceLabel)[i]? = some (choiceLabel d) := by rw [List.getElem?_map, hc, hd, Option.map_some]
  obtain ⟨hi, he⟩ := List.getElem?_eq_some_iff.1 hl
  rw [setNth, List.map_set, ← he, List.set_getElem_self]

theorem assignPass_labels (cap i : Nat) (used : SMap Nat) (cs : List (List Choice)) :
    labels (assignPass cap i used cs).2 = labels cs := by
  induction cs generalizing used with
  | nil => rfl
  | cons l rest ih =>
    rw [assignPass]
    split
    · exact congrArg (List.cons _) (ih _)
    · next c hc => exact congrArg₂ List.cons (map_label_setNth hc assignOne_keepsLabel) (ih _)

theorem assignSlots_labels (cap kmax : Nat) (cs : List (List Choice)) : labels (assignSlots cap kmax cs) = labels cs :=
  List.foldlRecOn (motive := fun (a : SMap Nat × List (List Choice)) => labels a.2 = labels cs) (List.range kmax) _ rfl
    fun a ha i _ => (assignPass_labels cap i a.1 a.2).trans ha

end Labels

/-- Settles O29: the rank passes keep `Slotted` and the labels, the loops of hash selection keep `Picked`. -/
theorem expertsAreChosenAndSlottedOnce : Obligations.ExpertsAreChosenAndSlottedOnce := by
  unfold Obligations.ExpertsAreChosenAndSlottedOnce
  refine ⟨?_, ?_⟩
  · intro cap kmax cs hcs
    obtain ⟨used, hs⟩ := slotted_assignSlots cap kmax hcs
    refine ⟨assignSlots_labels cap kmax cs, ?_, ?_⟩
    · intro l hl c hc ha
      obtain ⟨t, ht⟩ := List.getElem?_of_mem hl
      obtain ⟨i, hi⟩ := List.getElem?_of_mem hc
      exact (hs.bounded (Option.bind_eq_some_iff.2 ⟨l, ht, hi⟩) ha).1
    · intro t u i j l m c d hl hm hc hd
      exact hs.once (Option.bind_eq_some_iff.2 ⟨l, hl, hc⟩) (Option.bind_eq_some_iff.2 ⟨m, hm, hd⟩)
  · intro tok pos salt e k valid
    have hp := picked_hashChoices tok pos salt e k valid
    exact ⟨hp.nodup, hp.valids, hp.atMost⟩

end Sys2Proof.Proofs

end

section
/-! Phases and the sorter (R347, R351, R366 to R368, R377): what a `ROUTE` in order does, what its limit and its messages do, and to whom
the sorter goes. -/

namespace Sys2Proof.Proofs

open Sys2Proof.Machine Sys2Proof.Laws

/-! ## `ROUTE` in its phases (R351) -/

section Phases

variable {s u : State} {q : QId} {r : Rec} {g : Nat} (seq : Nat)

theorem runRoute_plan (hi : u.routeInOrder r = true) (hp : r.routePhase = 0) (hg : g = r.routeGroup) :
    ∃ v, v = (u.setF F.WSU_G_STAT_PHASE 1 g).setRoute g { u.route g with key := some r.routeKey } ∧
      u.runRoute q.val seq r = ({ v with wsu := { v.wsu with waiting := u.wsu.waiting ++ [(g, q.val, seq)] } }).wsuGo := by
  subst hg
  refine ⟨_, rfl, ?_⟩
  simp only [State.runRoute, hi, hp, Bool.not_true, Bool.false_eq_true, if_false, if_true]
  rfl

theorem runRoute_exchange (hi : u.routeInOrder r = true) (hp : r.routePhase ≠ 0) (hg : g = r.routeGroup) :
    u.runRoute q.val seq r = ({ u.setF F.WSU_G_STAT_PHASE ((r.routePhase + 1) % 3) g with
      wsu := { u.wsu with waiting := u.wsu.waiting ++ [(g, q.val, seq)] } }).wsuGo := by
  subst hg
  simp only [State.runRoute, hi, if_neg hp, Bool.not_true, Bool.false_eq_true, if_false]
  rfl

variable (h : Starts specRoute s q.val r) (ho : r.opcode = 0x30)

include h ho

theorem plan_runs (hp : r.routePhase = 0) : exec (.plan q) s = .next ((s.takeHead q.val 5 r).runRoute q.val (s.headSeq q.val) r) :=
  congrArg Host.Outcome.next (queueCommand_runs _ h (by rw [ho, hp]; rfl))

theorem dispatch_runs (hp : r.routePhase = 1) :
    exec (.dispatch q) s = .next ((s.takeHead q.val 5 r).runRoute q.val (s.headSeq q.val) r) :=
  congrArg Host.Outcome.next (queueCommand_runs _ h (by rw [ho, hp]; rfl))

theorem routeReturn_runs (hp : r.routePhase = 2) :
    exec (.routeReturn q) s = .next ((s.takeHead q.val 5 r).runRoute q.val (s.headSeq q.val) r) :=
  congrArg Host.Outcome.next (queueCommand_runs _ h (by rw [ho, hp]; rfl))

end Phases

/-! ## The limit and the messages of a group (R366, R368) -/

section Messages

variable {s : State} {g : GroupId}

theorem routeLimit_timesOut {k m : Nat} (hr : s.runningPhase g.val = some (k + 1))
    (hm : (s.routeOthers g.val).find? (fun m => !(s.route g.val).ends.contains (m, k + 1)) = some m)
    (hl : (s.route g.val).since + s.routeLimit g.val ≤ s.now) :
    exec (.routeLimit g) s = .next ((s.closeRoute g.val .timeout m 0 0).wsuGo) := by
  simp only [exec, execRouteLimit, hr, hm, if_pos hl]

variable (hw : s.part.hasWatershed = true) (hv : s.fb F.WSU_G_CFG_VALID g.val = true)

include hw hv

theorem routeRow_taken (m : RouteRowMsg) : exec (.routeRow g m) s = .next ((s.routeTake g.val (.row m)).wsuGo) := by
  simp only [exec, execRouteRow, hw, hv, Bool.not_true, Bool.or_self, Bool.false_eq_true, if_false]

theorem routeEnd_taken (src phase : Nat) (h : RouteHdr) (xid : BitVec 32) :
    exec (.routeEnd g src phase h xid) s = .next ((s.routeTake g.val (.done src phase h xid)).wsuGo) := by
  simp only [exec, execRouteEnd, hw, hv, Bool.not_true, Bool.or_self, Bool.false_eq_true, if_false]

end Messages

/-! ## The grant of the sorter (R367, R377) -/

section Grant

variable {s : State}

theorem satTo_eq_min (w v : Nat) : satTo w v = min v (2 ^ w - 1) := by
  unfold satTo
  split <;> omega

theorem sorterGrant_held (b : Bool) (h : s.wsu.holder ≠ 0) : exec (.sorterGrant b) s = .next s := by
  simp only [exec, execSorterGrant, if_pos h]

variable (h : s.wsu.holder = 0) {t : Nat}

include h

theorem sorterGrant_unit (hw : s.wsu.wsuWait = some t) (ht : s.wsu.sampWait = none ∨ s.wsu.lastGrant ≠ 1) :
    exec (.sorterGrant false) s = .next (s.grantSorter 1 t) := by
  have hturn : (s.wsu.sampWait.isSome && s.wsu.lastGrant == 1) = false := by
    rcases ht with e | e <;> simp [e]
  simp only [exec, execSorterGrant, h, hw, hturn, ne_eq, not_true_eq_false, if_false, Bool.false_eq_true]

theorem sorterGrant_sampler (hw : s.wsu.sampWait = some t) (ht : s.wsu.wsuWait = none ∨ s.wsu.lastGrant ≠ 2) :
    exec (.sorterGrant true) s = .next (s.grantSorter 2 t) := by
  have hturn : (s.wsu.wsuWait.isSome && s.wsu.lastGrant == 2) = false := by
    rcases ht with e | e <;> simp [e]
  simp only [exec, execSorterGrant, h, hw, hturn, ne_eq, not_true_eq_false, if_false, Bool.false_eq_true]

end Grant

section Granted

variable (s : State) (who since : Nat)

/-- The registers of a grant: the longest wait, and the unit's sorts counted. -/
def grantRegs (s : State) (who since : Nat) : State :=
  let s := s.setF F.WSU_SORT_STAT_MAX_WAIT (satTo 32 (max (s.f F.WSU_SORT_STAT_MAX_WAIT) (s.now - since)))
  if who = 1 then s.countWrap F.WSU_SORT_STAT_SORTS else s

theorem grantSorter_regs : (s.grantSorter who since).regs = (grantRegs s who since).regs := rfl

theorem grantRegs_sameRegs : SameRegsBut s (grantRegs s who since) [R.WSU_SORT_STAT.at] := by
  have hw := sameRegs_setF (sameRegs_refl s [R.WSU_SORT_STAT.at]) F.WSU_SORT_STAT_MAX_WAIT
    (satTo 32 (max (s.f F.WSU_SORT_STAT_MAX_WAIT) (s.now - since))) 0 0 (List.mem_singleton_self _)
  unfold grantRegs
  dsimp only
  split
  · exact sameRegs_countWrap hw _ _ _ _ (List.mem_singleton_self _)
  · exact hw

theorem grantRegs_maxWait : (grantRegs s who since).f F.WSU_SORT_STAT_MAX_WAIT =
    min (max (s.f F.WSU_SORT_STAT_MAX_WAIT) (s.now - since)) (2 ^ 32 - 1) := by
  have hw : (s.setF F.WSU_SORT_STAT_MAX_WAIT (satTo 32 (max (s.f F.WSU_SORT_STAT_MAX_WAIT) (s.now - since)))).f
      F.WSU_SORT_STAT_MAX_WAIT = min (max (s.f F.WSU_SORT_STAT_MAX_WAIT) (s.now - since)) (2 ^ 32 - 1) := by
    rw [f_setF_self _ _ _ _ _ (by decide), satTo_eq_min]
    exact Nat.mod_eq_of_lt (by simp only [F.WSU_SORT_STAT_MAX_WAIT]; omega)
  unfold grantRegs
  dsimp only
  split
  · rw [State.countWrap, f_setF_apart _ _ _ _ (by rfl) (by decide), hw]
  · exact hw

theorem grantRegs_sorts : (grantRegs s who since).f F.WSU_SORT_STAT_SORTS =
    if who = 1 then (s.f F.WSU_SORT_STAT_SORTS + 1) % 2 ^ 32 else s.f F.WSU_SORT_STAT_SORTS := by
  unfold grantRegs
  dsimp only
  split
  · rw [State.countWrap, f_setF_self _ _ _ _ _ (by decide), f_setF_apart _ _ _ _ (by rfl) (by decide)]
    rfl
  · rw [f_setF_apart _ _ _ _ (by rfl) (by decide)]

end Granted

/-! ## The end of a sort (R367) -/

section Complete

variable {s : State}

theorem sortComplete_unit {g : Nat} (h : s.wsu.holder = 1) (hr : s.wsu.running = some g) :
    exec .sortComplete s = .next (({ s with wsu := { s.wsu with holder := 0 } }.finishPlan g).wsuGo) := by
  simp only [exec, execSortComplete, h, hr, if_true]

theorem sortComplete_sampler (h : s.wsu.holder = 2) :
    exec .sortComplete s = .next { s with wsu := { s.wsu with holder := 0, sampSorts := s.wsu.sampSorts + 1 } } := by
  simp [exec, execSortComplete, h]

end Complete

/-- Settles O27: a `ROUTE` by what `runRoute` does in its phase, every event row by the lemma of its case, a grant by its registers. -/
theorem routesTakeTheirPhases : Obligations.RoutesTakeTheirPhases := by
  unfold Obligations.RoutesTakeTheirPhases
  refine ⟨?_, ?_, ?_, ?_, ?_, ?_, ?_, ?_, ?_, ?_, ?_, ?_⟩
  · rintro s u q r g h ho hp hg rfl hi
    obtain ⟨v, hv, hr⟩ := runRoute_plan (q := q) (s.headSeq q.val) hi hp hg
    exact ⟨v, hv, (plan_runs h ho hp).trans (congrArg _ hr)⟩
  · rintro s u v q r g h ho hp hg rfl hi rfl
    rw [dispatch_runs h ho hp, runRoute_exchange _ hi (by simp [hp]) hg, hp]
  · rintro s u v q r g h ho hp hg rfl hi rfl
    rw [routeReturn_runs h ho hp, runRoute_exchange _ hi (by simp [hp]) hg, hp]
  · intro s g k m hr hm hl
    exact routeLimit_timesOut hr hm hl
  · intro s g m hw hv
    exact routeRow_taken hw hv m
  · intro s g src phase h xid hw hv
    exact routeEnd_taken hw hv src phase h xid
  · intro s t h hw ht
    exact sorterGrant_unit h hw ht
  · intro s t h hw ht
    exact sorterGrant_sampler h hw ht
  · intro s who since _
    have hregs := grantSorter_regs s who since
    exact ⟨rfl, rfl, (f_congr hregs ..).trans (grantRegs_maxWait ..), (f_congr hregs ..).trans (grantRegs_sorts ..),
      sameRegs_congr (grantRegs_sameRegs s who since) hregs⟩
  · intro s b h
    exact sorterGrant_held b h
  · intro s g h hr
    exact sortComplete_unit h hr
  · intro s h
    exact sortComplete_sampler h

end Sys2Proof.Proofs

end

section
/-! What a completion leaves as it is (R58 to R61): it reports in registers, memory, queues, ports and what leaves the device. -/

namespace Sys2Proof.Proofs

open Sys2Proof.Machine Sys2Proof.Laws

/-- `t` comes from `s` by reports: registers, memory, queues, ports and what leaves the device may change, and nothing else. -/
def Reports (s t : State) : Prop :=
  t = { s with regs := t.regs, queues := t.queues, memory := t.memory, portA := t.portA, portB := t.portB, out := t.out }

namespace Reports

variable {s t u : State}

theorem refl (s : State) : Reports s s := rfl

theorem trans (h : Reports s t) (k : Reports t u) : Reports s u := by
  unfold Reports at h k ⊢
  rw [k, h]

theorem ite {c : Prop} [Decidable c] (h : Reports s t) (k : Reports s u) : Reports s (if c then t else u) := by
  split
  · exact h
  · exact k

theorem setR (h : Reports s t) {x v i j} : Reports s (t.setR x v i j) := h.trans rfl

theorem count (h : Reports s t) {x i j n} : Reports s (t.count x i j n) := h.trans rfl

theorem emit (h : Reports s t) {o} : Reports s (t.emit o) := h.trans rfl

theorem setQueue (h : Reports s t) {q x} : Reports s (t.setQueue q x) := h.trans rfl

theorem setPort (h : Reports s t) {p x} : Reports s (t.setPort p x) := h.trans (by unfold State.setPort; split <;> rfl)

theorem store (h : Reports s t) {a bs mark} : Reports s (t.store a bs mark) := h.trans (by unfold State.store; split <;> rfl)

theorem hostWrite (h : Reports s t) {p a bs} : Reports s (t.hostWrite p a bs) := .ite h.count (.ite h.emit h.count)

theorem raise (h : Reports s t) {p v} : Reports s (t.raise p v) := .ite h.count (.ite h.setPort h.emit)

theorem signal (h : Reports s t) {n f v add err clear} : Reports s (t.signal n f v add err clear) := .ite h.setR h

theorem cqWrite (h : Reports s t) {q off bs} : Reports s (t.cqWrite q off bs) := .ite h.hostWrite h.store

theorem queueRaise (h : Reports s t) {q} : Reports s (t.queueRaise q) := .ite h.setQueue.raise h.setQueue

theorem moderate (h : Reports s t) {q now} : Reports s (t.moderate q now) :=
  .ite h.setQueue (.ite h.setQueue.queueRaise h.setQueue)

theorem writeCompletion (h : Reports s t) {q seq op st res d now} : Reports s (t.writeCompletion q seq op st res d now) :=
  h.cqWrite.cqWrite.setQueue.moderate

theorem finish (h : Reports s t) {q seq r st res d} : Reports s (t.finish q seq r st res d) :=
  have hs : Reports s (t.recordSignal q r st) := .ite h.signal h
  .ite hs (.ite hs.count hs.writeCompletion)

theorem finishFlight (h : Reports s t) {q seq st res d} : Reports s (t.finishFlight q seq st res d) := by
  unfold State.finishFlight
  split
  · exact h
  · exact h.setQueue.finish

theorem serve (h : Reports s t) : t.serve = s.serve := by rw [h]

theorem ringRuns (h : Reports s t) : t.ringRuns = s.ringRuns := by rw [h]

theorem net (h : Reports s t) : t.net = s.net := by rw [h]

end Reports

end Sys2Proof.Proofs

end

section
/-! What sending leaves as it is (R432 to R437): flits put on links and messages put on ports change the network and what leaves the device
alone, and of a link neither the tick at which it entered its state nor how it tunes. -/

namespace Sys2Proof.Proofs

open Sys2Proof.Machine Sys2Proof.Laws

section Tables

variable (s : State)

@[simp] theorem link_setLink_self (l : Nat) (x : LinkSt) : (s.setLink l x).link l = x := mgetD_mset_self ..

theorem link_setLink_ne {l k : Nat} (x : LinkSt) (h : l ≠ k) : (s.setLink l x).link k = s.link k := mgetD_mset_ne _ _ _ h

end Tables

/-- `t` comes from `s` by flits and messages put on links. -/
structure Sends (s t : State) : Prop where
  rest : t = { s with net := t.net, out := t.out }
  since : ∀ l, (t.link l).since = (s.link l).since
  searching : ∀ l, (t.link l).searching = (s.link l).searching

namespace Sends

variable {s t u : State}

theorem refl (s : State) : Sends s s := ⟨rfl, fun _ => rfl, fun _ => rfl⟩

theorem trans (h : Sends s t) (k : Sends t u) : Sends s u where
  rest := by rw [k.rest, h.rest]
  since l := (k.since l).trans (h.since l)
  searching l := (k.searching l).trans (h.searching l)

theorem ite {c : Prop} [Decidable c] (h : Sends s t) (k : Sends s u) : Sends s (if c then t else u) := by
  split
  · exact h
  · exact k

theorem foldl {α : Type} {f : State → α → State} (hf : ∀ t x, Sends t (f t x)) (l : List α) (h : Sends s t) : Sends s (l.foldl f t) :=
  List.foldlRecOn (motive := Sends s) l f h fun t ht x _ => ht.trans (hf t x)

theorem emit (h : Sends s t) (o : Output) : Sends s (t.emit o) := h.trans ⟨rfl, fun _ => rfl, fun _ => rfl⟩

theorem setLport (h : Sends s t) (p : Nat) (x : PortRt) : Sends s (t.setLport p x) := h.trans ⟨rfl, fun _ => rfl, fun _ => rfl⟩

theorem setLink (h : Sends s t) {l : Nat} {x : LinkSt} (hs : x.since = (t.link l).since) (hx : x.searching = (t.link l).searching) :
    Sends s (t.setLink l x) := by
  refine h.trans ⟨rfl, fun k => ?_, fun k => ?_⟩
  · by_cases e : l = k
    · subst e; rw [link_setLink_self, hs]
    · rw [link_setLink_ne _ _ e]
  · by_cases e : l = k
    · subst e; rw [link_setLink_self, hx]
    · rw [link_setLink_ne _ _ e]

theorem putFlit (h : Sends s t) (l i : Nat) (f : TxFlit) : Sends s (t.putFlit l i f) := by
  refine (h.setLink ?_ ?_).emit _ <;> rfl

theorem putFlits (h : Sends s t) (l i : Nat) (fs : List TxFlit) : Sends s (t.putFlits l i fs) := by
  induction fs generalizing t i with
  | nil => exact h
  | cons f fs ih => exact ih (h.putFlit l i f) (i + 1)

theorem sendFlit (h : Sends s t) (l : Nat) : Sends s (t.sendFlit l) := by
  unfold State.sendFlit
  refine .ite h ?_
  split
  · exact h
  · split
    · exact h
    · refine (h.setLink ?_ ?_).putFlit .. <;> rfl

theorem sendQueued (h : Sends s t) (n l : Nat) : Sends s (State.sendQueued n l t) := by
  induction n generalizing t with
  | zero => exact h
  | succ n ih => exact ih (h.sendFlit l)

theorem drainLink (h : Sends s t) (l : Nat) : Sends s (t.drainLink l) := .ite (h.sendQueued _ l) h

theorem queueFlits (h : Sends s t) (l : Nat) (fs : List TxFlit) : Sends s (t.queueFlits l fs) := by
  refine h.setLink ?_ ?_ <;> rfl

theorem launch (h : Sends s t) (p : Nat) (m : TxMsg) : Sends s (t.launch p m).1 := by
  unfold State.launch
  split
  · exact h
  · exact (h.emit _).queueFlits ..

theorem pump (h : Sends s t) (p : Nat) : Sends s (t.pump p) := by
  unfold State.pump
  refine .foldl (fun u l => (Sends.refl u).drainLink l) _ (.setLport ?_ ..)
  refine List.foldlRecOn (motive := fun a : State × List TxMsg => Sends s a.1) _ _ h fun a ha m _ => ?_
  dsimp only
  split
  · exact ha
  · exact ha.launch p m

theorem resend (h : Sends s t) (l : Nat) : Sends s (t.resend l) := by
  unfold State.resend
  refine .foldl (fun u p => ((Sends.refl u).setLport ..).pump p) _ (.ite (h.setLink ?_ ?_) h) <;> rfl

theorem sendOn (h : Sends s t) (p : Nat) (m : OutMsg) : Sends s (t.sendOn p m) := (h.setLport ..).pump p

theorem regs (h : Sends s t) : t.regs = s.regs := by rw [h.rest]

theorem serve (h : Sends s t) : t.serve = s.serve := by rw [h.rest]

end Sends

/-! ## Messages of the device's own (R441, R460) -/

section Messages

variable (s : State)

theorem sendVia_serve (hop : Hop) (m : OutMsg) : (s.sendVia hop m).1.serve = s.serve := by
  unfold State.sendVia
  split
  · rfl
  · split
    · split
      · rfl
      · split
        · unfold State.dropNotice
          split <;> rfl
        · exact ((Sends.refl s).sendOn ..).serve
    · rfl

theorem issueRemote_serve (who : Issuer) (m : OutMsg) : (s.issueRemote who m).1.serve = s.serve := by
  unfold State.issueRemote
  dsimp only
  split <;> exact sendVia_serve ..

end Messages

end Sys2Proof.Proofs

end

section
/-! The ends of requests and of runs (R385, R407, R408): what the report of an end leaves of the request table, the end state of an entry, and
the binding that a run leaves. -/

namespace Sys2Proof.Proofs

open Sys2Proof.Machine Sys2Proof.Laws

/-! ## What the report of an end leaves of the table -/

section Table

variable (s : State)

theorem serve_of_fst {α : Type} {x : State × α} {t u : State} {a : α} (e : x = (t, a)) (h : x.1.serve = u.serve) : t.serve = u.serve := by
  rw [e] at h
  exact h

/-- `t` has the request table of `s`. -/
structure SameReqs (s t : State) : Prop where
  reqs : t.serve.reqs = s.serve.reqs

theorem sameReqs_of_serve {s t u : State} (h : SameReqs s t) (e : u.serve = t.serve) : SameReqs s u := ⟨(congrArg ServeSt.reqs e).trans h.reqs⟩

theorem mirrorRecord_sameReqs (m job : Nat) (w0 w1 : W64) : SameReqs s (s.mirrorRecord m job w0 w1) := by
  unfold State.mirrorRecord
  split
  · exact ⟨rfl⟩
  · extract_lets +onlyGivenNames n g bs
    generalize ht : ({ s with serve := { s.serve with mirror := mset s.serve.mirror m (n + 1) } } : State) = t
    have hc : SameReqs s t := ⟨by rw [← ht]⟩
    clear_value n g bs
    extract_lets +onlyGivenNames u
    have hu : SameReqs s u := hc
    clear_value u
    clear ht hc
    split
    · exact sameReqs_of_serve hu (store_serve ..)
    · split
      · next e => exact sameReqs_of_serve hu (serve_of_fst e (issueRemote_serve ..))
      · next e => exact ⟨(sameReqs_of_serve hu (serve_of_fst e (issueRemote_serve ..))).reqs⟩
    · exact sameReqs_of_serve hu rfl

theorem ringWrite_serve (o off : Nat) (bs : List Byte) : (s.ringWrite o off bs).serve = s.serve := by
  unfold State.ringWrite
  dsimp only
  split
  · exact (Reports.refl s).hostWrite.serve
  · exact store_serve ..

theorem outRecord_reqs (i tok st : Nat) (last drafted : Bool) (pos : Nat) :
    (s.outRecord i tok st last drafted pos).serve.reqs = s.serve.reqs :=
  (mirrorRecord_sameReqs ..).reqs.trans (congrArg ServeSt.reqs ((ringWrite_serve (State.ringWrite ..) ..).trans (ringWrite_serve ..)) :)

theorem answerCancel_serve (q seq : Nat) (a : Option Nat) : (s.answerCancel q seq a).serve = s.serve := by
  unfold State.answerCancel
  split <;> exact (Reports.refl s).finishFlight.serve

theorem req_congr {s t : State} (h : t.serve.reqs = s.serve.reqs) (i : Nat) : t.req i = s.req i := by
  unfold State.req
  rw [h]

end Table

/-! ## Fields of an entry -/

theorem length_setNth {α : Type} (l : List α) (k : Nat) (v : α) : (setNth l k v).length = l.length := by simp [setNth]

theorem reqField_setF_self {e : Req} {x : ReqField} (v : Nat) (hw : x.1 < e.words.length) (h : x.2.1 + x.2.2 ≤ 64) :
    (e.setF x v).f x = v % 2 ^ x.2.2 := by
  unfold Req.f Req.setF
  rw [nth_setNth_self _ _ _ hw, bitsOf_setBits_self _ _ h]

/-- Another field of the same word, which the one that is set does not overlap. -/
theorem reqField_setF_apart {e : Req} {x y : ReqField} (v : Nat) (hw : x.1 < e.words.length) (hr : y.1 = x.1)
    (h : x.2.1 + x.2.2 ≤ y.2.1 ∨ y.2.1 + y.2.2 ≤ x.2.1) : (e.setF x v).f y = e.f y := by
  unfold Req.f Req.setF
  rw [hr, nth_setNth_self _ _ _ hw, bitsOf_setBits_apart _ _ h]

/-! ## The end of a request (R407, R408) -/

section Ends

variable (s : State) (i : Nat) (st : Status)

/-- The state in which an entry that holds its last record has written it. -/
def finalWritten : State :=
  if (s.req i).finalHeld then
    let t := s.outRecord i 0xFFFFF st.code true false ((s.req i).f qfLength + (s.req i).f qfPendValid)
    t.setReq i { t.req i with finalHeld := false }
  else s

/-- The answer that the end gives the cancels of its entry. -/
def cancelsAnswer : Option Nat := (cancelAnswer (s.req i) st).map (fun x => if x = .ok then 0 else 1)

def cancelsAnswered (t : State) : State :=
  (s.req i).cancels.foldl (fun t x => t.answerCancel x.1 x.2 (cancelsAnswer s i st)) t

def doneSignalled (t : State) : State :=
  if (s.req i).f qfDoneSig = 1 then t.signal ((s.req i).f qfJob) ((s.req i).f qfDoneFence) 1 true (endState st == 9) else t

def lateCounted (t : State) : State := if st = .cancelLate then t.count F.SRV_JOB_STAT_CANCEL_LATE ((s.req i).f qfJob) else t

/-- The state in which the report of an end has been made. -/
def endReported : State := lateCounted s i st (doneSignalled s i st (cancelsAnswered s i st (finalWritten s i st)))

theorem closeRequest_eq : s.closeRequest i st = (endReported s i st).setReq i
    { (((endReported s i st).req i).setF qfState (endState st)).setF qfCancel 0 with
      cancels := [], cause := some st.code, cancelStatus := cancelsAnswer s i st } := rfl

theorem finalWritten_words : ((finalWritten s i st).req i).words = (s.req i).words := by
  unfold finalWritten
  split
  · rw [req_setReq_self, req_congr (outRecord_reqs ..)]
  · rfl

theorem cancelsAnswered_serve (t : State) : (cancelsAnswered s i st t).serve = t.serve :=
  List.foldlRecOn (motive := fun u : State => u.serve = t.serve) _ _ rfl fun _ hu _ _ => (answerCancel_serve ..).trans hu

theorem doneSignalled_serve (t : State) : (doneSignalled s i st t).serve = t.serve := by
  unfold doneSignalled
  split
  · exact (Reports.refl t).signal.serve
  · rfl

theorem lateCounted_serve (t : State) : (lateCounted s i st t).serve = t.serve := by
  unfold lateCounted
  split <;> rfl

theorem endReported_words : ((endReported s i st).req i).words = (s.req i).words := by
  have h := (lateCounted_serve s i st _).trans ((doneSignalled_serve s i st _).trans (cancelsAnswered_serve s i st (finalWritten s i st)))
  exact (congrArg Req.words (req_congr (congrArg ServeSt.reqs h) i)).trans (finalWritten_words s i st)

theorem closeRequest_state (h : (s.req i).words.length = 16) : ((s.closeRequest i st).req i).f qfState = endState st := by
  have hw : ((endReported s i st).req i).words.length = 16 := by rw [endReported_words, h]
  have hs : endState st < 2 ^ 4 := by cases st <;> decide
  rw [closeRequest_eq, req_setReq_self]
  refine (reqField_setF_apart (x := qfCancel) (y := qfState) 0 ?_ rfl (by decide)).trans ?_
  · rw [Req.setF, length_setNth, hw]
    decide
  · rw [reqField_setF_self (x := qfState) _ (by rw [hw]; decide) (by decide)]
    exact Nat.mod_eq_of_lt hs

theorem closeRequest_cancel : ((s.closeRequest i st).req i).f qfCancel = 0 := by
  rw [closeRequest_eq, req_setReq_self]
  exact reqField_setF_zero _ (by decide)

theorem closeRequest_unasked : ((s.closeRequest i st).req i).cancels = [] ∧ ((s.closeRequest i st).req i).cause = some st.code := by
  rw [closeRequest_eq, req_setReq_self]
  exact ⟨rfl, rfl⟩

/-- R407: a request that a ring run still holds is finishing until that run has ended. -/
theorem endRequest_finishing (h : (s.req i).words.length = 16) (hr : s.inRingRun i = true) :
    ((s.endRequest i st false).req i).f qfState = 6 := by
  unfold State.endRequest
  extract_lets e t e' u
  have hu : u.inRingRun i = true := by
    rw [← hr]
    unfold u t
    split <;> rfl
  rw [if_pos hu, req_setReq_self]
  exact reqField_setF_self (x := qfState) 6 (by rw [h]; decide) (by decide)

end Ends

/-! ## The end of a run (R385) -/

section Runs

variable (s : State) (m : Nat)

/-- The state in which a run of binding `m` has left it, before its record completes. -/
def runIdled : State :=
  (State.setF { s with serve := { s.serve with runs := merase s.serve.runs m } } F.SRV_RUN_RUNNING 0 m).setF F.SRV_RUN_PHASE 0 m

theorem endServe_eq (x : ServeRun) (st : Status) (res d : W64) :
    s.endServe m x st res d = (runIdled s m).finishFlight x.q x.seq st res d := rfl

theorem runIdled_running : (runIdled s m).f F.SRV_RUN_RUNNING m = 0 := by
  unfold runIdled
  exact (f_setF_apart (x := F.SRV_RUN_PHASE) (y := F.SRV_RUN_RUNNING) _ _ _ _ rfl (by decide)).trans
    (f_setF_self _ F.SRV_RUN_RUNNING _ _ _ (by decide))

theorem runIdled_phase : (runIdled s m).f F.SRV_RUN_PHASE m = 0 := by
  unfold runIdled
  rw [f_setF_self _ _ _ _ _ (by decide), Nat.zero_mod]

theorem runIdled_sameRegs : SameRegsBut s (runIdled s m) [R.SRV_RUN.at m] := by
  refine sameRegs_setF (sameRegs_setF (sameRegs_of_regs rfl _) _ _ _ _ ?_) _ _ _ _ ?_ <;> exact List.mem_singleton_self _

end Runs

/-- Settles O23: an end by the entry that the report leaves, the end of a run by the state that leaves the binding idle. -/
theorem requestsEndOnce : Obligations.RequestsEndOnce := by
  unfold Obligations.RequestsEndOnce
  refine ⟨?_, ?_, ?_⟩
  · intro s i st h
    exact ⟨closeRequest_state s i st h, closeRequest_cancel s i st, closeRequest_unasked s i st⟩
  · intro s m x st res d h
    exact ⟨runIdled s m, endServe_eq .., mget_merase_self m h, runIdled_running .., runIdled_phase .., runIdled_sameRegs s m⟩
  · intro s i st h hr
    exact endRequest_finishing s i st h hr

end Sys2Proof.Proofs

end

section
/-! Requests at the table (R383, R384, R407): the checks on an admission image in their order, the entry that an admission takes, what a query
answers, and what a cancel waits for. -/

namespace Sys2Proof.Proofs

open Sys2Proof.Machine Sys2Proof.Laws

/-! ## Admission (R383) -/

section Checks

variable {s : State} {n i : Nat} {op : W64} {e : Req}

theorem admitCheck_state (h₁ : e.f qfState ≠ 1) (h₁₀ : e.f qfState ≠ 10) (h₁₁ : e.f qfState ≠ 11) : s.admitCheck n op e = .error .badCommand :=
  if_pos ⟨h₁, h₁₀, h₁₁⟩

theorem admitCheck_shard (h : e.f qfState = 10) (hm : s.part.hasMeander = false) : s.admitCheck n op e = .error .absent := by
  simp [State.admitCheck, h, hm]

/-- Past the checks on its state, an image is checked as to its range, its other fields, its owners and the room for it. -/
theorem admitCheck_full (h : e.f qfState = 1) : s.admitCheck n op e = match s.rangeCheck n e with
    | some x => .error x
    | none =>
      if s.imageBad e then .error .badCommand
      else if s.imageDenied n e then .error .denied
      else match s.admitIndex op with
        | none => .error .noSpace
        | some i =>
          if s.f F.SRV_JOB_MAX_ENTRIES n ≤ s.f F.SRV_JOB_STAT_IN_USE n ∨ s.ringFree (e.f qfOut) = 0 then .error .noSpace
          else .ok i := by
  unfold State.admitCheck
  rw [h]
  rfl

theorem admitCheck_range {st : Status} (h : e.f qfState = 1) (hr : s.rangeCheck n e = some st) : s.admitCheck n op e = .error st := by
  rw [admitCheck_full h, hr]

/-- Past the checks of the range. -/
theorem admitCheck_ranged (h : e.f qfState = 1) (hr : s.rangeCheck n e = none) : s.admitCheck n op e =
    if s.imageBad e then .error .badCommand
    else if s.imageDenied n e then .error .denied
    else match s.admitIndex op with
      | none => .error .noSpace
      | some i =>
        if s.f F.SRV_JOB_MAX_ENTRIES n ≤ s.f F.SRV_JOB_STAT_IN_USE n ∨ s.ringFree (e.f qfOut) = 0 then .error .noSpace
        else .ok i := by
  rw [admitCheck_full h, hr]

theorem imageBad_tooShort (h : e.f qfMax ≤ e.f qfPromptLen) : s.imageBad e = true := by
  simp [State.imageBad, Nat.lt_succ_of_le h]

theorem admitCheck_full_job (h : e.f qfState = 1) (hr : s.rangeCheck n e = none) (hb : s.imageBad e = false) (hd : s.imageDenied n e = false)
    (hm : s.f F.SRV_JOB_MAX_ENTRIES n ≤ s.f F.SRV_JOB_STAT_IN_USE n) : s.admitCheck n op e = .error .noSpace := by
  rw [admitCheck_ranged h hr, hb, hd]
  cases s.admitIndex op <;> simp [hm]

theorem admitIndex_some (h : s.admitIndex op = some i) : i < 65536 ∧ (s.req i).f qfState = 0 ∧
    (bitOf op 16 = true → ∀ j, j < i → (s.req j).f qfState ≠ 0) ∧ (bitOf op 16 = false → i = bitsOf op 0 16) := by
  unfold State.admitIndex at h
  cases hb : bitOf op 16 with
  | true =>
    simp only [hb, if_true, List.find?_range_eq_some, List.mem_range, beq_iff_eq, Bool.not_eq_true'] at h
    obtain ⟨hf, hi, hj⟩ := h
    exact ⟨hi, hf, fun _ j hji => by simpa using hj j hji, nofun⟩
  | false =>
    simp only [hb, Bool.false_eq_true, if_false, beq_iff_eq, Option.ite_none_right_eq_some, Option.some.injEq] at h
    obtain ⟨hf, rfl⟩ := h
    exact ⟨bitsOf_lt op 0 16, hf, nofun, fun _ => rfl⟩

theorem admitCheck_ok (h : s.admitCheck n op e = .ok i) : s.admitIndex op = some i ∧
    s.f F.SRV_JOB_STAT_IN_USE n < s.f F.SRV_JOB_MAX_ENTRIES n ∧ 0 < s.ringFree (e.f qfOut) := by
  unfold State.admitCheck at h
  dsimp only at h
  split at h
  · cases h
  · split at h
    · cases h
    · split at h
      · cases h
      · split at h
        · cases h
        · split at h
          · cases h
          · split at h
            · cases h
            · next hi =>
              split at h
              · cases h
              · next hr =>
                cases h
                obtain ⟨hm, hf⟩ := not_or.1 hr
                exact ⟨hi, Nat.lt_of_not_le hm, Nat.pos_of_ne_zero hf⟩

end Checks

section Admission

variable (v : State) (n i : Nat) (x : Req)

/-- What an admission of entry `x` for job `n` at index `i` leaves before its record completes. -/
def entryAdmitted : State :=
  let t := v.setReq i x
  let t := t.setF F.SRV_TABLE_STAT_FREE (t.f F.SRV_TABLE_STAT_FREE - 1)
  t.setF F.SRV_JOB_STAT_IN_USE (t.f F.SRV_JOB_STAT_IN_USE n + 1) n

theorem entryAdmitted_req : (entryAdmitted v n i x).req i = x := req_setReq_self v i x

theorem entryAdmitted_req_ne {j : Nat} (h : j ≠ i) : (entryAdmitted v n i x).req j = v.req j := req_setReq_ne v x h.symm

theorem jobStat_ne_tableStat : R.SRV_JOB_STAT.at n ≠ R.SRV_TABLE_STAT.at := by
  simp only [R.SRV_JOB_STAT, R.SRV_TABLE_STAT, Reg.at]
  omega

theorem entryAdmitted_free : (entryAdmitted v n i x).f F.SRV_TABLE_STAT_FREE = (v.f F.SRV_TABLE_STAT_FREE - 1) % 2 ^ 17 := by
  unfold entryAdmitted
  rw [f_setF_ne _ _ (jobStat_ne_tableStat n), f_setF_self _ _ _ _ _ (by decide)]
  rfl

theorem entryAdmitted_inUse : (entryAdmitted v n i x).f F.SRV_JOB_STAT_IN_USE n = (v.f F.SRV_JOB_STAT_IN_USE n + 1) % 2 ^ 17 := by
  unfold entryAdmitted
  rw [f_setF_self _ _ _ _ _ (by decide), f_setF_ne _ _ (jobStat_ne_tableStat n).symm]
  rfl

theorem entryAdmitted_sameRegs : SameRegsBut v (entryAdmitted v n i x) [R.SRV_TABLE_STAT.at, R.SRV_JOB_STAT.at n] := by
  unfold entryAdmitted
  refine sameRegs_setF (sameRegs_setF (sameRegs_of_regs rfl _) _ _ _ _ ?_) _ _ _ _ ?_
  · exact List.mem_cons_self
  · exact List.mem_cons_of_mem _ (List.mem_singleton_self _)

theorem entryAdmitted_frame : entryAdmitted v n i x =
    { v with regs := (entryAdmitted v n i x).regs, serve := { v.serve with reqs := (entryAdmitted v n i x).serve.reqs } } := rfl

theorem runAdmit_takes {u : State} {q seq : Nat} {r : Rec} {e : Req} (he : e = imageReq (mgetD u.serve.images q []))
    (hc : u.admitCheck (u.queueJob q) r.w4 e = .ok i)
    (hw : u.serveWrite (u.queueJob q) (e.f qfPenVa) (List.replicate 32768 0#8) false = .ok v) :
    u.runAdmit q seq r = (entryAdmitted v (u.queueJob q) i (u.admitted (u.queueJob q) q i e)).finishFlight q seq .ok
      (BitVec.ofNat 64 (i + 65536 * (u.admitted (u.queueJob q) q i e).f qfGen)) 0 := by
  subst he
  unfold State.runAdmit
  simp only [hc, hw]
  rfl

end Admission

/-! ## Queries (R384) and cancels (R407) -/

section Asked

variable {u : State} {q seq : Nat} {r : Rec}

theorem runQuery_short (h : r.w4 = 0) : u.runQuery q seq r = u.finishFlight q seq .ok (nth (u.req (bitsOf r.w3 0 16)).words 0 0) 0 :=
  if_pos h

theorem runQuery_whole {t : State} (h : r.w4 ≠ 0)
    (hw : u.serveWrite (u.queueJob q) r.w4.toNat (wordsBytes (u.req (bitsOf r.w3 0 16)).words) false = .ok t) :
    u.runQuery q seq r = t.finishFlight q seq .ok (nth (u.req (bitsOf r.w3 0 16)).words 0 0) 0 := by
  unfold State.runQuery
  simp only [if_neg h, hw]

theorem startHead_denied {c : CmdSpec} (hh : u.headHeld c q r = false) (ho : c.owns u q r = false) :
    u.startHead c q r = u.headDone q r .denied := by
  obtain ⟨hc, _⟩ := Bool.or_eq_false_iff.1 hh
  simp [State.startHead, hc, ho]

theorem runCancel_waits {i : Nat} {e : Req} (hi : i = bitsOf r.w3 0 16) (he : e = u.req i) (hg : e.f qfGen = bitsOf r.w3 16 16)
    (hl : e.live = true) (hc : e.f qfCancel ≠ 1) :
    u.runCancel q seq r = (u.setReq i { e with cancels := e.cancels ++ [(q, seq)] }).cancelRequest i := by
  subst hi he
  have h0 : (u.req (bitsOf r.w3 0 16)).f qfState ≠ 0 := fun e => by simp [Req.live, liveCode, e] at hl
  unfold State.runCancel
  simp only [h0, hg, hl, hc, ne_eq, not_true_eq_false, or_self, if_false, if_true]

theorem runCancel_late (h : (u.req (bitsOf r.w3 0 16)).f qfState = 0 ∨ (u.req (bitsOf r.w3 0 16)).f qfGen ≠ bitsOf r.w3 16 16) :
    u.runCancel q seq r = u.finishFlight q seq .cancelLate 1 0 := if_pos h

end Asked

section Rows

variable {s t : State} {q : QId} {r : Rec}

theorem reqAdmit_runs (h : StartsFrom specReqAdmit s t q.val r) (ho : r.opcode = 0x38) :
    exec (.reqAdmit q) s = .next ((t.takeHead q.val 0 r).runAdmit q.val (t.headSeq q.val) r) := by
  have he : specReqAdmit.engine = 0 := rfl
  have hr : specReqAdmit.run = State.runAdmit := rfl
  have hq := queueCommand_runsFrom (fun r => r.opcode == 0x38) h (by rw [ho]; rfl)
  rw [he, hr] at hq
  exact congrArg Host.Outcome.next hq

theorem reqQuery_runs (h : Starts specReqQuery s q.val r) (ho : r.opcode = 0x3B) :
    exec (.reqQuery q) s = .next ((s.takeHead q.val 0 r).runQuery q.val (s.headSeq q.val) r) :=
  congrArg Host.Outcome.next (queueCommand_runs _ h (by rw [ho]; rfl))

theorem reqCancel_runs (h : Starts specReqCancel s q.val r) (ho : r.opcode = 0x39) :
    exec (.reqCancel q) s = .next ((s.takeHead q.val 0 r).runCancel q.val (s.headSeq q.val) r) :=
  congrArg Host.Outcome.next (queueCommand_runs _ h (by rw [ho]; rfl))

end Rows

/-- Settles O21: each command by what its run does in the case of its clause, the checks in the order in which `admitCheck` makes them. -/
theorem requestsAreAdmittedAskedAndCancelled : Obligations.RequestsAreAdmittedAskedAndCancelled := by
  unfold Obligations.RequestsAreAdmittedAskedAndCancelled
  refine ⟨?_, ?_, ?_, ?_, ?_, ?_, ?_, ?_, ?_, ?_, ?_, ?_, ?_, ?_⟩
  · rintro s t u v q r i e h ho rfl he hc hw
    exact ⟨_, _, rfl, (reqAdmit_runs h ho).trans (congrArg _ (runAdmit_takes v i he hc hw)), entryAdmitted_req ..,
      fun j hj => entryAdmitted_req_ne _ _ _ _ hj, entryAdmitted_free .., entryAdmitted_inUse .., entryAdmitted_sameRegs v _ i _, entryAdmitted_frame ..⟩
  · rintro s u q r h ho h4 rfl
    rw [reqQuery_runs h ho, runQuery_short h4]
  · rintro s u t q r h ho h4 rfl hw
    rw [reqQuery_runs h ho, runQuery_whole h4 hw]
  · intro s q r
    rfl
  · intro s q r h0 hj hh
    refine startHead_denied hh ?_
    exact Bool.or_eq_false_iff.2 ⟨beq_false_of_ne h0, beq_false_of_ne hj⟩
  · rintro s u q r i e h ho rfl hi he hg hl hc
    rw [reqCancel_runs h ho, runCancel_waits hi he hg hl hc]
  · rintro s u q r i h ho rfl rfl hf
    rw [reqCancel_runs h ho, runCancel_late hf]
  · intro s n op e h₁ h₁₀ h₁₁
    exact admitCheck_state h₁ h₁₀ h₁₁
  · intro s n op e h hm
    exact admitCheck_shard h hm
  · intro s n op e st h hr
    exact admitCheck_range h hr
  · intro s n op e h hr hl
    rw [admitCheck_ranged h hr, imageBad_tooShort hl, if_pos rfl]
  · intro s n op e h hr hb hd
    rw [admitCheck_ranged h hr, hb, hd]
    rfl
  · intro s n op e h hr hb hd hm
    exact admitCheck_full_job h hr hb hd hm
  · intro s n i op e h
    obtain ⟨hi, hm, hf⟩ := admitCheck_ok h
    obtain ⟨h1, h2, h3, h4⟩ := admitIndex_some hi
    exact ⟨h1, h2, hm, hf, h3, h4⟩

end Sys2Proof.Proofs

end

section
/-! The states of links (R428, R430, R431, R445): what the refresh of the ports leaves of a link, the state that a link enters, how it tunes,
and what an identity exchange decides. -/

namespace Sys2Proof.Proofs

open Sys2Proof.Machine Sys2Proof.Laws

/-! ## What the refresh of the ports leaves (R435, R451) -/

/-- A field of a link's status other than those that follow from the configuration: `CARRYING`, `PORT` and `NAMED`. -/
def OwnStatus (x : Field) : Prop := x.reg = R.ALT_LINK_STAT ∧ (x.lo + x.width ≤ 12 ∨ 17 ≤ x.lo)

theorem altLinkStat_inj {l k : Nat} (h : l ≠ k) : R.ALT_LINK_STAT.at l ≠ R.ALT_LINK_STAT.at k := by
  simp only [R.ALT_LINK_STAT, Reg.at]
  omega

theorem altPortStat_apart {p k : Nat} (hp : p < 8) (hk : k < 22) : R.ALT_PORT_STAT.at p ≠ R.ALT_LINK_STAT.at k :=
  at_ne_of_apart (by decide) hp (by decide) hk (by decide)

/-- The offsets of the registers that the refresh of the ports writes. -/
def portOffs : List Nat := (List.range 22).map (fun l => R.ALT_LINK_STAT.at l) ++ (List.range 8).map (fun p => R.ALT_PORT_STAT.at p)

theorem altLinkStat_mem {l : Nat} (h : l < 22) : R.ALT_LINK_STAT.at l ∈ portOffs :=
  List.mem_append_left _ (List.mem_map_of_mem (List.mem_range.2 h))

theorem altPortStat_mem {p : Nat} (h : p < 8) : R.ALT_PORT_STAT.at p ∈ portOffs :=
  List.mem_append_right _ (List.mem_map_of_mem (List.mem_range.2 h))

/-- `t` comes from `s` by the status of links and ports, the network and what leaves the device: it has the status of each link that is its
own, and the tick and the tuning of each link, from `s`. -/
structure Refreshes (s t : State) : Prop where
  rest : t = { s with regs := t.regs, net := t.net, out := t.out }
  regs : SameRegsBut s t portOffs
  fields : ∀ x, OwnStatus x → ∀ k, k < 22 → t.f x k = s.f x k
  since : ∀ l, (t.link l).since = (s.link l).since
  searching : ∀ l, (t.link l).searching = (s.link l).searching

namespace Refreshes

variable {s t u : State}

theorem refl (s : State) : Refreshes s s := ⟨rfl, sameRegs_refl _ _, fun _ _ _ _ => rfl, fun _ => rfl, fun _ => rfl⟩

theorem trans (h : Refreshes s t) (k : Refreshes t u) : Refreshes s u where
  rest := by rw [k.rest, h.rest]
  regs := sameRegs_trans h.regs k.regs
  fields x hx l hl := (k.fields x hx l hl).trans (h.fields x hx l hl)
  since l := (k.since l).trans (h.since l)
  searching l := (k.searching l).trans (h.searching l)

theorem foldl {f : State → Nat → State} {n : Nat} (hf : ∀ t k, k < n → Refreshes t (f t k)) (h : Refreshes s t) :
    Refreshes s ((List.range n).foldl f t) :=
  List.foldlRecOn (motive := Refreshes s) _ f h fun t ht k hk => ht.trans (hf t k (List.mem_range.1 hk))

theorem ofSends (h : Sends s t) : Refreshes s t :=
  ⟨h.rest.trans (by rw [h.regs]), sameRegs_of_regs h.regs _, fun x _ k _ => f_congr h.regs x k 0, h.since, h.searching⟩

/-- A status field that follows from the configuration is set. -/
theorem setStatus (h : Refreshes s t) {y : Field} (hr : y.reg = R.ALT_LINK_STAT) (hy : 12 ≤ y.lo ∧ y.lo + y.width ≤ 17) (v : Nat) {l : Nat}
    (hl : l < 22) : Refreshes s (t.setF y v l) := by
  refine h.trans ⟨rfl, sameRegs_setF (sameRegs_refl _ _) _ _ _ _ (hr ▸ altLinkStat_mem hl), fun x hx k _ => ?_, fun _ => rfl, fun _ => rfl⟩
  obtain ⟨hxr, hxa⟩ := hx
  by_cases e : l = k
  · subst e
    exact f_setF_apart _ _ _ _ (hxr.trans hr.symm) (by omega)
  · exact f_setF_ne _ _ (by rw [hr, hxr]; exact altLinkStat_inj e)

/-- A field of a port's status is set. -/
theorem setPortStatus (h : Refreshes s t) {y : Field} (hr : y.reg = R.ALT_PORT_STAT) (v : Nat) {p : Nat} (hp : p < 8) :
    Refreshes s (t.setF y v p) := by
  refine h.trans ⟨rfl, sameRegs_setF (sameRegs_refl _ _) _ _ _ _ (hr ▸ altPortStat_mem hp), fun x hx k hk => ?_, fun _ => rfl, fun _ => rfl⟩
  exact f_setF_ne _ _ (by rw [hr, hx.1]; exact altPortStat_apart hp hk)

theorem setLport (h : Refreshes s t) (p : Nat) (x : PortRt) : Refreshes s (t.setLport p x) := h.trans (.ofSends ((Sends.refl t).setLport p x))

theorem pump (h : Refreshes s t) (p : Nat) : Refreshes s (t.pump p) := h.trans (.ofSends ((Sends.refl t).pump p))

theorem ite {c : Prop} [Decidable c] (h : Refreshes s t) (k : Refreshes s u) : Refreshes s (if c then t else u) := by
  split
  · exact h
  · exact k

theorem refreshPorts (s : State) : Refreshes s s.refreshPorts := by
  unfold State.refreshPorts
  refine .foldl (fun t p hp => ?_) (.foldl (fun t l hl => ?_) (.refl s))
  · have h := (refl t).setPortStatus (y := F.ALT_PORT_STAT_CARRYING) rfl ((t.carrying p).foldl (fun m l => m ||| 2 ^ l) 0) hp
    refine .ite (.ite (h.setLport ..) h) (.pump (.ite ?_ h) p)
    exact (h.setLport ..).setPortStatus rfl _ hp
  · exact (((refl t).setStatus (y := F.ALT_LINK_STAT_CARRYING) rfl (by decide) _ hl).setStatus (y := F.ALT_LINK_STAT_NAMED) rfl (by decide)
      _ hl).setStatus (y := F.ALT_LINK_STAT_PORT) rfl (by decide) _ hl

theorem linkState (h : Refreshes s t) {l : Nat} (hl : l < 22) : t.linkState l = s.linkState l :=
  h.fields F.ALT_LINK_STAT_STATE ⟨rfl, by decide⟩ l hl

theorem changed (h : Refreshes s t) {l : Nat} (hl : l < 22) : t.fb F.ALT_LINK_STAT_CHANGED l = s.fb F.ALT_LINK_STAT_CHANGED l :=
  congrArg (· != 0) (h.fields F.ALT_LINK_STAT_CHANGED ⟨rfl, by decide⟩ l hl)

theorem mismatch (h : Refreshes s t) {l : Nat} (hl : l < 22) : t.fb F.ALT_LINK_STAT_MISMATCH l = s.fb F.ALT_LINK_STAT_MISMATCH l :=
  congrArg (· != 0) (h.fields F.ALT_LINK_STAT_MISMATCH ⟨rfl, by decide⟩ l hl)

end Refreshes

/-! ## Entering a state (R428) -/

section Enter

variable (s : State) (l st : Nat)

/-- Link `l` in state `st` from now on, before the ports are refreshed. -/
def stateEntered : State :=
  let t := (s.setF F.ALT_LINK_STAT_STATE st l).setF F.ALT_LINK_STAT_CHANGED 1 l
  t.setLink l { t.link l with since := t.now }

theorem setLinkState_enters {s : State} {l st : Nat} (h : s.linkState l ≠ st) : s.setLinkState l st = (stateEntered s l st).refreshPorts :=
  if_neg h

theorem setLinkState_refreshes {s : State} {l st : Nat} (h : s.linkState l ≠ st) : Refreshes (stateEntered s l st) (s.setLinkState l st) := by
  rw [setLinkState_enters h]
  exact .refreshPorts _

theorem stateEntered_linkState {st : Nat} (h : st < 16) : (stateEntered s l st).linkState l = st :=
  calc (stateEntered s l st).f F.ALT_LINK_STAT_STATE l
    _ = (s.setF F.ALT_LINK_STAT_STATE st l).f F.ALT_LINK_STAT_STATE l := f_setF_apart _ _ _ _ rfl (by decide)
    _ = st % 2 ^ 4 := f_setF_self _ _ _ _ _ (by decide)
    _ = st := Nat.mod_eq_of_lt h

theorem stateEntered_linkState_ne {k : Nat} (h : k ≠ l) : (stateEntered s l st).linkState k = s.linkState k :=
  calc (stateEntered s l st).f F.ALT_LINK_STAT_STATE k
    _ = (s.setF F.ALT_LINK_STAT_STATE st l).f F.ALT_LINK_STAT_STATE k := f_setF_ne _ _ (altLinkStat_inj h.symm)
    _ = s.f F.ALT_LINK_STAT_STATE k := f_setF_ne _ _ (altLinkStat_inj h.symm)

theorem stateEntered_changed : (stateEntered s l st).fb F.ALT_LINK_STAT_CHANGED l = true :=
  have h : (stateEntered s l st).f F.ALT_LINK_STAT_CHANGED l = 1 := f_setF_self _ F.ALT_LINK_STAT_CHANGED _ _ _ (by decide)
  bne_iff_ne.2 (by rw [h]; decide)

theorem stateEntered_mismatch : (stateEntered s l st).fb F.ALT_LINK_STAT_MISMATCH l = s.fb F.ALT_LINK_STAT_MISMATCH l :=
  congrArg (· != 0) <|
    calc (stateEntered s l st).f F.ALT_LINK_STAT_MISMATCH l
      _ = (s.setF F.ALT_LINK_STAT_STATE st l).f F.ALT_LINK_STAT_MISMATCH l := f_setF_apart _ _ _ _ rfl (by decide)
      _ = s.f F.ALT_LINK_STAT_MISMATCH l := f_setF_apart _ _ _ _ rfl (by decide)

theorem stateEntered_since : ((stateEntered s l st).link l).since = s.now := congrArg LinkSt.since (link_setLink_self _ _ _)

theorem stateEntered_searching : ((stateEntered s l st).link l).searching = (s.link l).searching := by
  unfold stateEntered
  rw [link_setLink_self]
  rfl

variable {s l st}

theorem setLinkState_linkState (hl : l < 22) (hs : st < 16) : (s.setLinkState l st).linkState l = st := by
  by_cases h : s.linkState l = st
  · rw [State.setLinkState, if_pos h, h]
  · rw [(setLinkState_refreshes h).linkState hl, stateEntered_linkState s l hs]

theorem setLinkState_mismatch (hl : l < 22) :
    (s.setLinkState l st).fb F.ALT_LINK_STAT_MISMATCH l = s.fb F.ALT_LINK_STAT_MISMATCH l := by
  by_cases h : s.linkState l = st
  · rw [State.setLinkState, if_pos h]
  · rw [(setLinkState_refreshes h).mismatch hl, stateEntered_mismatch]

theorem setLinkState_searching : ((s.setLinkState l st).link l).searching = (s.link l).searching := by
  by_cases h : s.linkState l = st
  · rw [State.setLinkState, if_pos h]
  · rw [(setLinkState_refreshes h).searching, stateEntered_searching]

end Enter

/-- A field of a register that is neither a link's nor a port's status stands when a link enters a state. -/
theorem setLinkState_f {s : State} {l : Nat} (hl : l < 22) (st : Nat) {x : Field} {i j : Nat} (hx : x.reg.at i j ∉ portOffs) :
    (s.setLinkState l st).f x i j = s.f x i j := by
  by_cases h : s.linkState l = st
  · rw [State.setLinkState, if_pos h]
  · have he : SameRegsBut s (stateEntered s l st) portOffs :=
      sameRegs_setF (sameRegs_setF (sameRegs_refl _ _) _ _ _ _ (altLinkStat_mem hl)) _ _ _ _ (altLinkStat_mem hl)
    exact f_sameRegs (sameRegs_trans he (setLinkState_refreshes h).regs) x hx

theorem setLinkState_part (s : State) (l st : Nat) : (s.setLinkState l st).part = s.part := by
  by_cases h : s.linkState l = st
  · rw [State.setLinkState, if_pos h]
  · rw [(setLinkState_refreshes h).rest]
    rfl

/-! ## Tuning (R431) -/

section Tune

variable {s : State} {l : Nat}

theorem queueCal_net (s : State) (kind element : Nat) : (s.queueCal kind element).net = s.net := by
  unfold State.queueCal
  split <;> rfl

/-- A record outside its window is logged as a corrected fault, which recovers nothing. -/
theorem calStale_net (s : State) (kind element : Nat) : (s.calStale kind element).net = s.net := by
  have hf (d : Domain) (i : Nat) : (s.fault 0x1B01 d i 0xFF none (BitVec.ofNat 64 kind)).net = s.net := by
    rw [(fault_corrected_logs s _ _ _ _ _ _ (by decide)).rest]
  unfold State.calStale
  split <;> exact (queueCal_net ..).trans (hf ..)

theorem link_congr {s t : State} (h : t.net = s.net) (l : Nat) : t.link l = s.link l := by rw [State.link, h, State.link]

/-- A link in `TUNE` searches in full where it is forced to or has no record inside its window. -/
def mustSearch (s : State) (l : Nat) : Bool :=
  (s.link l).forceSearch || !(match s.calRecord 1 l with
    | some c => s.recordValid c
    | none => false)

theorem link_calStale_if (c : Prop) [Decidable c] (k : Nat) : (if c then s.calStale 1 l else s).link k = s.link k := by
  split
  · exact link_congr (calStale_net ..) k
  · rfl

theorem enterTune_searching : ((s.enterTune l).link l).searching = mustSearch s l := by
  unfold State.enterTune
  extract_lets x valid stale t u
  have hu : u.link l = t.link l := link_calStale_if _ l
  rw [setLinkState_searching, hu]
  exact congrArg LinkSt.searching (link_setLink_self _ _ _)

theorem enterTune_linkState (hl : l < 22) : (s.enterTune l).linkState l = 2 := setLinkState_linkState hl (by decide)

theorem mustSearch_valid {c : CalRecord} (hc : s.calRecord 1 l = some c) (hv : s.recordValid c = true) (hf : (s.link l).forceSearch = false) :
    mustSearch s l = false := by
  simp [mustSearch, hc, hv, hf]

theorem mustSearch_invalid (h : ∀ c, s.calRecord 1 l = some c → s.recordValid c = false) : mustSearch s l = true := by
  unfold mustSearch
  cases hc : s.calRecord 1 l with
  | none => simp
  | some c => simp [h c hc]

end Tune

/-! ## Identity (R430, R445) -/

section Identity

variable {s : State} {l : Nat} {i : IdentInfo} {p : Nat}

/-- A link that has noted what its peer is and when, before it judges it. -/
def peerNoted (s : State) (l : Nat) (i : IdentInfo) : State :=
  let v := setBits (0 : W64) 0 12 i.chip.toNat
  let v := setBits v 12 5 i.link
  let v := setBits v 17 8 (if i.plain then 0xFF else i.part.toNat)
  let v := setBits v 25 1 (if i.chipValid then 1 else 0)
  let s := s.setR R.ALT_LINK_PEER (setBits v 26 1 1) l
  s.setLink l { s.link l with identAt := s.now }

theorem peerNoted_f (hl : l < 22) {x : Field} {k : Nat} (hx : apart R.ALT_LINK_PEER x.reg = true) (hk : k < x.reg.n1) (h2 : 0 < x.reg.n2) :
    (peerNoted s l i).f x k = s.f x k :=
  f_setR_ne s _ (at_ne_of_apart hx hl (by decide) hk h2)

theorem peerNoted_fb (hl : l < 22) {x : Field} {k : Nat} (hx : apart R.ALT_LINK_PEER x.reg = true) (hk : k < x.reg.n1) (h2 : 0 < x.reg.n2) :
    (peerNoted s l i).fb x k = s.fb x k :=
  congrArg (· != 0) (peerNoted_f hl hx hk h2)

theorem peerNoted_linkState (hl : l < 22) : (peerNoted s l i).linkState l = s.linkState l :=
  peerNoted_f hl (by decide) hl (by decide)

theorem portOf_lt (h : s.portOf l = some p) : p < 8 := List.mem_range.1 (List.mem_of_find?_eq_some h)

theorem peerNoted_portOf (hl : l < 22) (k : Nat) : (peerNoted s l i).portOf k = s.portOf k := by
  refine List.find?_congr fun q hq => ?_
  have hq : q < 8 := List.mem_range.1 hq
  rw [peerNoted_fb hl (x := F.ALT_PORT_CFG_VALID) (by decide) hq (by decide),
    peerNoted_f hl (x := F.ALT_PORT_CFG_LINKS) (by decide) hq (by decide)]

/-- On an Altur link that a port names, an identity agrees where the own mesh is valid and the peer is the device that the port names. -/
theorem identAgrees_iff (hl : l < 18) (hp : s.portOf l = some p) : (peerNoted s l i).identAgrees l i = true ↔
    i.plain = false ∧ s.fb F.ALT_MESH_VALID = true ∧ i.chipValid = true ∧ s.f F.ALT_PORT_CFG_PEER_CHIP p = i.chip.toNat := by
  have hl' : l < 22 := by omega
  have hq := portOf_lt hp
  unfold State.identAgrees
  rw [if_pos hl, peerNoted_portOf hl', hp, peerNoted_fb hl' (x := F.ALT_MESH_VALID) (by decide) (by decide) (by decide)]
  simp [peerNoted_f hl' (x := F.ALT_PORT_CFG_PEER_CHIP) (by decide) hq (by decide), and_assoc]

theorem identify_agrees (hl : l < 18) (ha : (peerNoted s l i).identAgrees l i = true) : s.identify l i =
    (((peerNoted s l i).setF F.ALT_LINK_STAT_MISMATCH 0 l).setLinkState l 5).sendCredits l := by
  refine (if_pos ha).trans ?_
  rw [if_neg (Nat.not_le.2 hl)]
  rfl

theorem identify_disagrees (ha : (peerNoted s l i).identAgrees l i = false) :
    s.identify l i = (peerNoted s l i).setF F.ALT_LINK_STAT_MISMATCH 1 l := if_neg (Bool.not_eq_true _ ▸ ha)

theorem setMismatch_linkState (v : Nat) : (s.setF F.ALT_LINK_STAT_MISMATCH v l).linkState l = s.linkState l :=
  f_setF_apart s v l 0 rfl (by decide)

theorem setMismatch_mismatch {v : Nat} (h : v < 2) : (s.setF F.ALT_LINK_STAT_MISMATCH v l).fb F.ALT_LINK_STAT_MISMATCH l = (v != 0) :=
  congrArg (· != 0) ((f_setF_self s F.ALT_LINK_STAT_MISMATCH v l 0 (by decide)).trans (Nat.mod_eq_of_lt h))

theorem identify_mismatches (hl : l < 18) (hs : s.linkState l = 4) (ha : (peerNoted s l i).identAgrees l i = false) :
    (s.identify l i).linkState l = 4 ∧ (s.identify l i).fb F.ALT_LINK_STAT_MISMATCH l = true := by
  rw [identify_disagrees ha, setMismatch_linkState, peerNoted_linkState (by omega)]
  exact ⟨hs, setMismatch_mismatch (by decide)⟩

theorem identify_credits (hl : l < 18) (ha : (peerNoted s l i).identAgrees l i = true) :
    (s.identify l i).linkState l = 5 ∧ (s.identify l i).fb F.ALT_LINK_STAT_MISMATCH l = false := by
  rw [identify_agrees hl ha]
  exact ⟨setLinkState_linkState (by omega) (by decide), (setLinkState_mismatch (by omega)).trans (setMismatch_mismatch (by decide))⟩

end Identity

/-- Settles O47: an entered state by what the refresh of the ports leaves, tuning by the search that it must make, an identity by whether it
agrees. -/
theorem linkStatesAreEntered : Obligations.LinkStatesAreEntered := by
  unfold Obligations.LinkStatesAreEntered
  refine ⟨?_, ?_, ?_, ?_, ?_⟩
  · intro s l st hl hs h
    have hr := setLinkState_refreshes h
    refine ⟨setLinkState_linkState hl hs, ?_, ?_, fun k hk hkl => ?_⟩
    · rw [hr.changed hl, stateEntered_changed]
    · rw [hr.since, stateEntered_since]
    · rw [hr.linkState hk, stateEntered_linkState_ne _ _ _ hkl]
  · intro s l c hl _ hc hv hf
    exact ⟨enterTune_linkState hl, enterTune_searching.trans (mustSearch_valid hc hv hf)⟩
  · intro s l hl _ h
    exact ⟨enterTune_linkState hl, enterTune_searching.trans (mustSearch_invalid h)⟩
  · intro s l i p hl hs hp h
    refine identify_mismatches hl hs (Bool.eq_false_iff.2 fun ha => ?_)
    obtain ⟨h1, h2, h3, h4⟩ := (identAgrees_iff hl hp).1 ha
    simp [h1, h2, h3, h4] at h
  · intro s l i p hl _ hp h1 h2 h3 h4
    exact identify_credits hl ((identAgrees_iff hl hp).2 ⟨h1, h2, h3, h4⟩)

end Sys2Proof.Proofs

end

section
/-! Link events (R422, R423, R428 to R431): what moves a link from one state to the next, and what a laser input shows. -/

namespace Sys2Proof.Proofs

open Sys2Proof.Machine Sys2Proof.Laws

/-! ## Light and rings (R422, R423) -/

section Light

variable {s u : State} {l : LinkId}

theorem lightDetected_tunes (hp : s.part.hasLink l.val = true) (h : s.linkState l.val = 1) :
    exec (.lightDetected l) s = .next (s.enterTune l.val) := by
  simp [exec, execLightDetected, hp, h]

theorem lightLoss_up (h : s.linkState l.val = 6) : exec (.lightLoss l) s = .next (s.leaveUp l.val 1 1) :=
  congrArg Host.Outcome.next (if_pos h)

theorem lightLoss_training (h₁ : 2 ≤ s.linkState l.val) (h₂ : s.linkState l.val < 6) :
    exec (.lightLoss l) s = .next ((s.setF F.ALT_LINK_STAT_LAST_FAIL 1 l.val).setLinkState l.val 1) := by
  have h6 : s.linkState l.val ≠ 6 := by omega
  have h7 : s.linkState l.val ≠ 7 := by omega
  simp [exec, execLightLoss, h6, h7, h₁, h₂]

theorem tuningLoop_sets {hs : List Nat} (hp : s.part.hasLink l.val = true) (h₂ : 2 ≤ s.linkState l.val) (h₉ : s.linkState l.val ≠ 9)
    (hl : hs.length = 16) : exec (.tuningLoop l hs) s = .next (s.setLink l.val { s.link l.val with heaters := hs }) := by
  have he : (List.range 16).map (fun i => nth hs i 0) = hs := map_range_eq hl fun _ _ => rfl
  simp [exec, execTuningLoop, hp, h₂, h₉, he]

theorem ringLockLost_tunes (ring : Fin 8) (h : s.linkState l.val = 6) : exec (.ringLockLost l ring) s =
    .next (((s.setF F.ALT_LINK_OPT_RING_LOCK (s.f F.ALT_LINK_OPT_RING_LOCK l.val &&& (255 - 2 ^ ring.val)) l.val).leaveUp l.val 2
      6).enterTune l.val) := congrArg Host.Outcome.next (if_pos h)

theorem ringsLocked_aligns (h : s.linkState l.val = 2) (hl : s.fb F.ALT_LASER_LOW (laserOfLink l.val) = false)
    (hu : u = (if (s.link l.val).searching then (s.putRecord (s.freshRecord 1 l.val)).setF F.ALT_LINK_STAT_CALSTALE 0 l.val else s)) :
    exec (.ringsLocked l) s = .next (((u.setLink l.val { s.link l.val with searching := false }).setF F.ALT_LINK_OPT_RING_LOCK 0xFF
      l.val).setLinkState l.val 3) := by
  have hk : u.link l.val = s.link l.val := by
    rw [hu]
    split <;> rfl
  rw [← hk, hu]
  exact congrArg Host.Outcome.next (if_pos ⟨h, by rw [hl]; rfl⟩)

theorem ringsLocked_lowLaser (hl : s.fb F.ALT_LASER_LOW (laserOfLink l.val) = true) : exec (.ringsLocked l) s = .next s :=
  congrArg Host.Outcome.next (if_neg fun h => by simp [hl] at h)

end Light

/-! ## Training (R428 to R430) -/

section Training

variable {s u : State} {l : LinkId}

theorem patternDetected_first (h : s.linkState l.val = 2 ∨ s.linkState l.val = 3) (hn : (s.link l.val).patternAt = none) :
    exec (.patternDetected l) s = .next (s.setLink l.val { s.link l.val with patternAt := some s.now }) :=
  congrArg Host.Outcome.next (if_pos ⟨h, by rw [hn]; rfl⟩)

/-- R428: the identity that goes out is what the device had before the link entered `IDENT`. -/
theorem codewordLock_identifies {t : Nat} (h : s.linkState l.val = 3) (hp : (s.link l.val).patternAt = some t) :
    exec (.codewordLock l) s = .next ((s.setLinkState l.val 4).emit (.ident l.val s.chip (s.fb F.ALT_MESH_VALID) s.part.code)) := by
  have hm : R.ALT_MESH.at ∉ portOffs := by decide
  have hc : (s.setLinkState l.val 4).chip = s.chip := setLinkState_f l.isLt 4 hm
  have hv : (s.setLinkState l.val 4).fb F.ALT_MESH_VALID = s.fb F.ALT_MESH_VALID := congrArg (· != 0) (setLinkState_f l.isLt 4 hm)
  have hid : (s.setLinkState l.val 4).sendIdent l.val =
      (s.setLinkState l.val 4).emit (.ident l.val s.chip (s.fb F.ALT_MESH_VALID) s.part.code) := by
    rw [State.sendIdent, hc, hv, setLinkState_part]
  rw [← hid]
  exact congrArg Host.Outcome.next (if_pos ⟨h, by rw [hp]; rfl⟩)

theorem ident_judges {i : IdentInfo} (h : s.linkState l.val = 4) (hm : s.fb F.ALT_LINK_STAT_MISMATCH l.val = false) :
    exec (.ident l i) s = .next (s.identify l.val i) :=
  congrArg Host.Outcome.next (if_pos ⟨h, by rw [hm]; rfl⟩)

theorem identRetry_judges {i : IdentInfo} (h : s.linkState l.val = 4) (hm : s.fb F.ALT_LINK_STAT_MISMATCH l.val = true)
    (ht : (s.link l.val).identAt + 10000000 ≤ s.now) :
    exec (.identRetry l i) s = .next ((s.emit (.ident l.val s.chip (s.fb F.ALT_MESH_VALID) s.part.code)).identify l.val i) :=
  congrArg Host.Outcome.next (if_pos ⟨h, hm, ht⟩)

theorem credit_resumes {cs : List Nat} {n : Nat} {x : LinkSt} (h : s.linkState l.val = 5)
    (hx : x = (s.link l.val).resumed (decide (l.val < 18)) cs n)
    (hu : u = ((s.setLink l.val x).setF F.ALT_LINK_STAT_ATTEMPTS 0 l.val).setLinkState l.val 6) :
    exec (.credit l cs n) s = .next (((u.putFlits l.val x.txAcked x.unacked).drainLink l.val).releaseRecals.flushPlain) := by
  subst hx hu
  exact congrArg Host.Outcome.next (if_pos h)

end Training

/-! ## Limits, drains and recalibrations (R428, R429, R431) -/

section Limits

variable {s : State} {l : LinkId}

/-- The cause of a failed attempt in a state (R429). -/
def attemptCause (st : Nat) : Nat := if st = 2 then 2 else if st = 3 then 3 else 4

/-- The state in which the failure of an attempt has been noted, the `n`th. -/
def attemptFailed (s : State) (l n : Nat) : State :=
  (s.setF F.ALT_LINK_STAT_LAST_FAIL (attemptCause (s.linkState l)) l).setF F.ALT_LINK_STAT_ATTEMPTS n l

theorem trainingTimeout_due {t : Nat} (ht : s.linkLimit l.val = some t) (hd : t ≤ s.now) :
    exec (.trainingTimeout l) s = .next (
      let n := s.f F.ALT_LINK_STAT_ATTEMPTS l.val + 1
      let u := attemptFailed s l.val (min n 3)
      if 3 ≤ n then
        (u.setLinkState l.val 9).fault 0x3502 .link l.val 0xFF none (BitVec.ofNat 64 (attemptCause (s.linkState l.val)))
      else u.setLinkState l.val 1) := by
  refine congrArg Host.Outcome.next ?_
  rw [ht]
  exact if_pos hd

theorem trainingTimeout_retries {t : Nat} (ht : s.linkLimit l.val = some t) (hd : t ≤ s.now) (hn : s.f F.ALT_LINK_STAT_ATTEMPTS l.val < 2) :
    exec (.trainingTimeout l) s =
      .next ((attemptFailed s l.val (s.f F.ALT_LINK_STAT_ATTEMPTS l.val + 1)).setLinkState l.val 1) := by
  have h3 : ¬ 3 ≤ s.f F.ALT_LINK_STAT_ATTEMPTS l.val + 1 := by omega
  have hm : min (s.f F.ALT_LINK_STAT_ATTEMPTS l.val + 1) 3 = s.f F.ALT_LINK_STAT_ATTEMPTS l.val + 1 := by omega
  rw [trainingTimeout_due ht hd]
  simp only [if_neg h3, hm]

theorem trainingTimeout_gives_up {t : Nat} (ht : s.linkLimit l.val = some t) (hd : t ≤ s.now) (hn : 2 ≤ s.f F.ALT_LINK_STAT_ATTEMPTS l.val) :
    exec (.trainingTimeout l) s = .next (((attemptFailed s l.val 3).setLinkState l.val 9).fault 0x3502 .link l.val 0xFF none
      (BitVec.ofNat 64 (attemptCause (s.linkState l.val)))) := by
  have h3 : 3 ≤ s.f F.ALT_LINK_STAT_ATTEMPTS l.val + 1 := by omega
  rw [trainingTimeout_due ht hd]
  simp only [if_pos h3, Nat.min_eq_right h3]

theorem drainComplete_goes (h : s.linkState l.val = 7) (hp : ∀ p, p < 8 → ∀ t ∈ (s.lport p).txq, t.link ≠ some l.val)
    (hr : ∀ x ∈ s.net.requests, x.plainLink ≠ some l.val) :
    exec (.drainComplete l) s = .next (s.setLinkState l.val (s.link l.val).drainTo) := by
  refine congrArg Host.Outcome.next (if_pos ⟨h, ?_, ?_⟩)
  · exact List.all_eq_true.2 fun p hp' => List.all_eq_true.2 fun t ht => bne_iff_ne.2 (hp p (List.mem_range.1 hp') t ht)
  · exact List.all_eq_true.2 fun x hx => bne_iff_ne.2 (hr x hx)

theorem recalComplete_tunes (h : s.linkState l.val = 8) :
    exec (.recalComplete l) s = .next (((s.endRecovery .link l.val).count F.FLT_CAL_STAT_RECALS).enterTune l.val) :=
  congrArg Host.Outcome.next (if_pos h)

end Limits

/-! ## Laser inputs (R422) -/

section Lasers

variable {s : State} {i : Fin 12} {power : Int}

theorem laserLow_shows (wave : Fin 8) (hp : s.part.hasLaser i.val = true) (h : power < 52) : exec (.laserLow i wave power) s =
    .next (((s.setF F.ALT_LASER_IN_MIN (encodeSigned 8 power) i.val).setF F.ALT_LASER_PRESENT
      (s.f F.ALT_LASER_PRESENT i.val &&& (255 - 2 ^ wave.val)) i.val).setF F.ALT_LASER_LOW 1 i.val) := by
  have hk : (s.setF F.ALT_LASER_IN_MIN (encodeSigned 8 power) i.val).f F.ALT_LASER_PRESENT i.val = s.f F.ALT_LASER_PRESENT i.val :=
    f_setF_apart s _ _ _ rfl (by decide)
  rw [← hk]
  exact congrArg Host.Outcome.next (if_pos ⟨hp, h⟩)

theorem laserInputRestored_shows (hp : s.part.hasLaser i.val = true) (h : 52 ≤ power) : exec (.laserInputRestored i power) s =
    .next (((s.setF F.ALT_LASER_IN_MIN (encodeSigned 8 power) i.val).setF F.ALT_LASER_PRESENT 0xFF i.val).setF F.ALT_LASER_LOW 0 i.val) :=
  congrArg Host.Outcome.next (if_pos ⟨hp, h⟩)

end Lasers

/-- Settles O46: each event by its lemma above. -/
theorem linksFollowTheirStateMachine : Obligations.LinksFollowTheirStateMachine := by
  unfold Obligations.LinksFollowTheirStateMachine
  refine ⟨?_, ?_, ?_, ?_, ?_, ?_, ?_, ?_, ?_, ?_, ?_, ?_, ?_, ?_, ?_, ?_, ?_, ?_⟩
  · intro s l hp h
    exact lightDetected_tunes hp h
  · intro s l h
    exact lightLoss_up h
  · intro s l h₁ h₂
    exact lightLoss_training h₁ h₂
  · intro s l hs hp h₂ h₉ hl
    exact tuningLoop_sets hp h₂ h₉ hl
  · intro s l ring h
    exact ringLockLost_tunes ring h
  · intro s u l h hl hu
    exact ringsLocked_aligns h hl hu
  · intro s l hl
    exact ringsLocked_lowLaser hl
  · intro s l h hn
    exact patternDetected_first h hn
  · intro s l t h hp
    exact codewordLock_identifies h hp
  · intro s l i h hm
    exact ident_judges h hm
  · intro s l i h hm ht
    exact identRetry_judges h hm ht
  · intro s u l cs n x h hx hu
    exact credit_resumes h hx hu
  · rintro s u l t st ht hd rfl hn rfl
    exact trainingTimeout_retries ht hd hn
  · rintro s u l t st cause ht hd rfl hn rfl rfl
    exact trainingTimeout_gives_up ht hd hn
  · intro s l h hp hr
    exact drainComplete_goes h hp hr
  · intro s l h
    exact recalComplete_tunes h
  · intro s i wave power hp h
    exact laserLow_shows wave hp h
  · intro s i power hp h
    exact laserInputRestored_shows hp h

end Sys2Proof.Proofs

end

section
/-! Flits (R432, R433): what a link does with a flit by its checks, what a data flit in order leaves, and the eighth replay. -/

namespace Sys2Proof.Proofs

open Sys2Proof.Machine Sys2Proof.Laws

section Flits

variable {s : State} {l : LinkId} {x : Flit}

/-- The codewords of a flit counted on link `l` (R433). -/
def codewordsCounted (s : State) (l : Nat) (x : Flit) : State :=
  let t := (s.count F.ALT_LINK_FEC_CW_CORRECTED l 0 x.cwCorrected).count F.ALT_LINK_FEC_CW_UNCORR l 0 x.cwUncorr
  (t.setF F.ALT_LINK_FEC_PEAK_SYM (max (t.f F.ALT_LINK_FEC_PEAK_SYM l) (min x.peakSym 15)) l).countCodewords l x.cwUncorr

/-- A flit discarded on link `l`: counted and answered with `NAK`. -/
def flitDiscarded (s : State) (l : Nat) : State :=
  (s.count F.ALT_LINK_ERR_CRC_ERR l).emit (.linkCtl l 1 (((s.link l).rxNext + 4095) % 4096))

/-- What a good flit does: its acknowledgement, its credits, its `NAK`, and its data. -/
def flitTaken (u : State) (l : Nat) (x : Flit) : State :=
  let v := (u.takeAck l x.ack).takeCredits l x.crvc x.credits
  let v := if x.nak then v.replay l else v
  if x.kind ≠ 1 then v else if x.seq ≠ (v.link l).rxNext then flitDiscarded v l else v.takeData l x

theorem flit_counted {u : State} (he : u = codewordsCounted s l.val x) (h : s.linkState l.val = 6)
    (hu : u.linkState l.val = 6 ∨ u.linkState l.val = 7) :
    exec (.flit l x) s = .next (if !x.crcOk || decide (0 < x.cwUncorr) then flitDiscarded u l.val else flitTaken u l.val x) := by
  subst he
  have hs : ¬ (s.linkState l.val ≠ 6 ∧ s.linkState l.val ≠ 7) := fun e => e.1 h
  have hc : ¬ ((codewordsCounted s l.val x).linkState l.val ≠ 6 ∧ (codewordsCounted s l.val x).linkState l.val ≠ 7) :=
    fun e => hu.elim e.1 e.2
  exact congrArg Host.Outcome.next ((if_neg hs).trans (if_neg hc))

theorem flit_bad {u : State} (he : u = codewordsCounted s l.val x) (h : s.linkState l.val = 6)
    (hu : u.linkState l.val = 6 ∨ u.linkState l.val = 7) (hb : x.crcOk = false ∨ 0 < x.cwUncorr) :
    exec (.flit l x) s = .next (flitDiscarded u l.val) := by
  rw [flit_counted he h hu, if_pos (by simpa using hb)]

theorem flit_good {u : State} (he : u = codewordsCounted s l.val x) (h : s.linkState l.val = 6)
    (hu : u.linkState l.val = 6 ∨ u.linkState l.val = 7) (hc : x.crcOk = true) (hw : x.cwUncorr = 0) :
    exec (.flit l x) s = .next (flitTaken u l.val x) := by
  rw [flit_counted he h hu, if_neg (by simp [hc, hw])]

theorem flitTaken_unordered {u v : State} {n : Nat} (hv : v = (u.takeAck n x.ack).takeCredits n x.crvc x.credits) (hn : x.nak = false)
    (hk : x.kind = 1) (hq : x.seq ≠ (v.link n).rxNext) : flitTaken u n x = flitDiscarded v n := by
  subst hv
  simp [flitTaken, hn, hk, hq]

theorem flitTaken_data {u v : State} {n : Nat} (hv : v = (u.takeAck n x.ack).takeCredits n x.crvc x.credits) (hn : x.nak = false)
    (hk : x.kind = 1) (hq : x.seq = (v.link n).rxNext) : flitTaken u n x = v.takeData n x := by
  subst hv
  simp [flitTaken, hn, hk, hq]

theorem flitTaken_nak {u v : State} {n : Nat} (hv : v = (u.takeAck n x.ack).takeCredits n x.crvc x.credits) (hn : x.nak = true)
    (hk : x.kind ≠ 1) : flitTaken u n x = v.replay n := by
  subst hv
  simp [flitTaken, hn, hk]

/-- A data flit in order that does not end its message joins it. -/
theorem takeData_joins {n : Nat} (he : x.eom = false) : s.takeData n x = s.setLink n { s.link n with
    rxNext := ((s.link n).rxNext + 1) % 4096, freed := setNth (s.link n).freed x.vc (nth (s.link n).freed x.vc 0 + 1)
    assembling := setNth (s.link n).assembling x.vc
      (if x.som then x.payload else nth (s.link n).assembling x.vc [] ++ x.payload) } := by
  simp [State.takeData, he]

theorem replay_leaves {n : Nat} (hr : (s.link n).replaySeq = (s.link n).txAcked) (h7 : 7 ≤ (s.link n).replays) :
    s.replay n = (((s.setLink n { s.link n with replays := (s.link n).replays + 1 }).count F.ALT_LINK_ERR_REPLAYS n).emit
      (.linkCtl n 3 ((s.link n).txAcked % 4096))).leaveUp n 3 5 := by
  have h8 : 8 ≤ (s.link n).replays + 1 := by omega
  simp [State.replay, hr, h8]

end Flits

/-- Settles O48: a flit by its checks, a data flit by what its link holds then, the eighth replay by the state that it leaves. -/
theorem flitsAreTakenInOrder : Obligations.FlitsAreTakenInOrder := by
  unfold Obligations.FlitsAreTakenInOrder
  refine ⟨?_, ?_, ?_⟩
  · intro s u v l x h he hu
    refine ⟨fun hb => ?_, fun hc hw hv hn hk hq => ?_, fun hc hw hv hn hk hq => ?_, fun hc hw hv hn hk => ?_⟩
    · exact flit_bad he h hu hb
    · exact (flit_good he h hu hc hw).trans (congrArg _ (flitTaken_unordered hv hn hk hq))
    · exact (flit_good he h hu hc hw).trans (congrArg _ (flitTaken_data hv hn hk hq))
    · exact (flit_good he h hu hc hw).trans (congrArg _ (flitTaken_nak hv hn hk))
  · intro s l x he
    rw [takeData_joins he]
    exact ⟨link_setLink_self .., fun k hk => link_setLink_ne _ _ hk.symm, rfl, rfl⟩
  · intro s l hr h7
    exact replay_leaves hr h7

end Sys2Proof.Proofs

end

section
/-! An answer from the Plain on a link that is recovering (R447, R527): the statement about responses. -/

namespace Sys2Proof.Proofs

open Sys2Proof.Machine Sys2Proof.Laws

section Plain

variable {s : State}

/-- Requests for the Plain that go out count in `PLN_STAT` alone. -/
theorem plainSend_f (s : State) (x : Request) {y : Field} {i : Nat} (h : R.PLN_STAT.at ≠ y.reg.at i) : (s.plainSend x).1.f y i = s.f y i := by
  unfold State.plainSend
  split
  · rfl
  · split
    · rfl
    · next l re _ =>
      extract_lets t u
      have ht : t.f y i = s.f y i := by
        unfold t
        split
        · exact f_setF_ne s _ h
        · rfl
      have hu : Sends t ((u.queueFlits l ({ x.msg with xid := x.xid }.flits 8 0)).drainLink l) :=
        (((Sends.refl t).emit _).queueFlits ..).drainLink l
      exact (f_congr hu.regs y i 0).trans ht

theorem flushPlain_f (s : State) {y : Field} {i : Nat} (h : R.PLN_STAT.at ≠ y.reg.at i) : s.flushPlain.f y i = s.f y i := by
  refine List.foldlRecOn (motive := fun t : State => t.f y i = s.f y i) _ _ rfl fun t ht x _ => ?_
  split
  · exact (plainSend_f t x h).trans ht
  · exact ht

theorem flushPlain_linkState (s : State) {l : Nat} (h : l < 22) : s.flushPlain.linkState l = s.linkState l :=
  flushPlain_f s (at_ne_of_apart (x := R.PLN_STAT) (y := R.ALT_LINK_STAT) (i := 0) (j := 0) (l := 0) (by decide) (by decide) (by decide) h
    (by decide))

/-- A fault of a link below class 3 logs and does no more, where no transaction is committing. -/
theorem fault_link_logs {code i job : Nat} {cmd : Option (Nat × Nat)} {datum : W64} (hc : faultClass code ≤ 2) (ht : s.txs = []) :
    Logs logOffs s (s.fault code .link i job cmd datum) := by
  have hcls : faultClass (s.faultCode code .link i) ≤ 3 := (faultClass_faultCode ..).trans (by omega)
  have hl := logAs_logs s (s.faultCode code .link i) i job (s.faultCode code .link i != code) .link cmd datum
  have hr (u : State) (c e : Nat) (hu : u.txs = []) : u.faultRollback c .link i e = u := by simp [State.faultRollback, hu]
  have ho (u : State) (c : Nat) (h : faultClass c ≤ 3) : u.faultOutcome c .link i = u := by
    unfold State.faultOutcome
    split <;> first | rfl | omega | simp_all
  unfold State.fault
  dsimp only
  rw [hr _ _ _ (by rw [hl.rest]; exact ht), ho _ _ hcls]
  exact hl

theorem link_notLogged : ∀ l < 22, R.ALT_LINK_STAT.at l ∉ logOffs := by decide +kernel

/-- Data from the Plain in memory, with its mark: what `P_DATA` of the request `x` leaves before it goes on. -/
def plainStored (s : State) (x : Request) (bs : List Byte) (mark : Bool) : State :=
  { s.markUnits (plainBase + x.msg.addr) (min x.msg.arg1 bs.length) mark with
    memory := { (s.markUnits (plainBase + x.msg.addr) (min x.msg.arg1 bs.length) mark).memory with
      plain := plainWrite s.memory.plain (plainBase + x.msg.addr) (bs.take (min x.msg.arg1 bs.length)) } }

theorem plainStored_linkState (t : State) (x : Request) (bs : List Byte) (l : Nat) :
    (plainStored (t.dropRequest x.xid) x bs true).linkState l = t.linkState l := rfl

theorem plainAnswer_marked {m : PlainRsp} {x : Request} (hl : s.linkState m.link.val = 6) (hx : s.requestOf m.xid.toNat true = some x)
    (ho : x.msg.op = 0x40) (hp : x.plainLink = some m.link.val) (hm : m.status % 4 = 1) :
    s.plainAnswer m 0x40 =
      ((plainStored (((s.count F.PLN_STAT_POISONED).plainPoison m.link.val x.msg.job x.msg.addr).dropRequest x.xid) x m.data true).plainDone
        x m.data true).flushPlain := by
  have h2 : ¬ (s.linkState m.link.val ≠ 6 ∧ s.linkState m.link.val ≠ 7) := fun h => h.1 hl
  have hu : ¬ (x.msg.op ≠ 0x40 ∨ x.plainLink ≠ some m.link.val) := by simp [ho, hp]
  unfold State.plainAnswer
  rw [if_neg h2, hx]
  dsimp only
  rw [if_neg hu, if_neg (by rw [hm]; decide)]
  have hb : decide (m.status % 4 ≠ 0) = true := by simp [hm]
  rw [hb, if_pos rfl, if_pos (by rw [hm]; decide)]
  rfl

/-- R527: data that comes with a mark on a link that is recovering takes the link to `FAULTED`. -/
theorem pData_escalated {m : PlainRsp} {x : Request} {k : Nat} (hl : s.linkState m.link.val = 6) (hx : s.requestOf m.xid.toNat true = some x)
    (ho : x.msg.op = 0x40) (hp : x.plainLink = some m.link.val) (hm : m.status % 4 = 1)
    (he : (s.count F.PLN_STAT_POISONED).escalates .link m.link.val = true) (hi : x.issuer = .mirror k) :
    (s.plainAnswer m 0x40).linkState m.link.val = 9 := by
  have hd (t : State) : t.plainDone x m.data true = t := by simp [State.plainDone, State.requestDone, hi]
  rw [plainAnswer_marked hl hx ho hp hm, flushPlain_linkState _ m.link.isLt, hd, plainStored_linkState]
  unfold State.plainPoison
  dsimp only
  rw [he, if_pos rfl]
  exact setLinkState_linkState m.link.isLt (by decide)

/-- A read of the Plain of one line, for a mirror group, on link 18. -/
def plainRead : Request :=
  { xid := 0, issuer := .mirror 0, plainLink := some 18, sentAt := 0, result := none, busyAt := none
    msg := { OutMsg.blank with op := 0x40, arg1 := 64 } }

/-- Link 18 is `UP` and recovering, and a read of the Plain is on its way. -/
def recoveringLink : State :=
  State.setF { State.reset with
    faults := { State.reset.faults with recovering := [{ domain := .link, index := 18 }] }
    net := { State.reset.net with requests := [plainRead] } } F.ALT_LINK_STAT_STATE 6 18

theorem recoveringLink_up : recoveringLink.linkState 18 = 6 := f_setF_self _ _ 6 18 0 (by decide)

/-- The answer of link 18 to that read: its data is marked. -/
def markedAnswer : PlainRsp := { link := 18, xid := 0, status := 1, data := [] }

theorem recoveringLink_escalates : (recoveringLink.count F.PLN_STAT_POISONED).escalates .link 18 = true := by decide +kernel

/-- A fault of class 2 of link 18 leaves its state. -/
theorem recoveringLink_fault_up (job : Nat) (d : W64) :
    ((recoveringLink.count F.PLN_STAT_POISONED).fault 0x2601 .link 18 job none d).linkState 18 = 6 := by
  have hl := fault_link_logs (s := recoveringLink.count F.PLN_STAT_POISONED) (code := 0x2601) (i := 18) (job := job) (cmd := none)
    (datum := d) (by decide) rfl
  rw [State.linkState, f_sameRegs hl.regs F.ALT_LINK_STAT_STATE (link_notLogged 18 (by decide))]
  exact (f_setF_ne _ _ (by decide +kernel)).trans recoveringLink_up

end Plain

/-- Refutes O44: in the clause of marked data the fault of a link that is recovering is escalated, and the link goes to `FAULTED` (R527),
which the clause's next state leaves out. -/
theorem not_responsesEndRequests : ¬ Obligations.ResponsesEndRequests := by
  intro h
  obtain ⟨-, -, -, -, -, -, -, -, -, -, -, hpoison, -⟩ := h
  have hmarked : exec (.pData markedAnswer) recoveringLink = .next ((plainStored (((recoveringLink.count F.PLN_STAT_POISONED).fault 0x2601
      .link 18 0 none (BitVec.ofNat 64 (recoveringLink.globalOf plainBase))).dropRequest plainRead.xid) plainRead [] true).plainDone plainRead
      [] true |>.flushPlain) :=
    hpoison recoveringLink _ _ markedAnswer plainRead _ _ (.inl recoveringLink_up) (by decide +kernel) rfl rfl (by decide) rfl rfl rfl rfl
  have hfaulted : (recoveringLink.plainAnswer markedAnswer 0x40).linkState 18 = 9 :=
    pData_escalated (m := markedAnswer) (x := plainRead) (k := 0) recoveringLink_up (by decide +kernel) rfl rfl (by decide)
      recoveringLink_escalates rfl
  have hdone (t : State) : t.plainDone plainRead [] true = t := rfl
  rw [Host.Outcome.next.inj hmarked, hdone, flushPlain_linkState _ (by decide), plainStored_linkState _ plainRead,
    recoveringLink_fault_up] at hfaulted
  exact absurd hfaulted (by decide)

end Sys2Proof.Proofs
end

section
/-! Notices between chips and lost chips and ports (R438, R441, R538 to R543): the statement about them. -/

namespace Sys2Proof.Proofs

open Sys2Proof.Machine Sys2Proof.Laws

section Notices

variable {s : State} {m : Msg}

theorem faultNotice_seen (h : Arrives s m 0x28) (hx : m.xid.toNat ∈ s.faults.seenNotices) : exec (.faultNotice m) s = .next s :=
  congrArg Host.Outcome.next ((receive_arrives h _).trans (if_pos (List.contains_iff_mem.2 hx)))

theorem faultNotice_new (h : Arrives s m 0x28) (hx : m.xid.toNat ∉ s.faults.seenNotices) :
    exec (.faultNotice m) s = .next (s.takeNotice m) :=
  congrArg Host.Outcome.next ((receive_arrives h _).trans (if_neg fun hc => hx (List.contains_iff_mem.1 hc)))

theorem takeNotice_lost {x : Nat} (hk : m.arg0.toNat % 256 = 1) (hx : x = m.arg1.toNat % 4096) :
    s.takeNotice m = let v := ((s.noteXid m.xid.toNat).flood 1 x m.xid.toNat (s.portOf m.link.val)).addLost x
      if v.partnerChip x then v.autoPromote 1 x else v := by
  unfold State.takeNotice
  rw [hk, hx]
  rfl

theorem takeNotice_source (hk : m.arg0.toNat % 256 = 2) :
    s.takeNotice m = let v := (s.noteXid m.xid.toNat).addLost m.src.toNat
      if v.partnerChip m.src.toNat then v.autoPromote 2 m.src.toNat else v := by
  unfold State.takeNotice
  rw [hk]
  rfl

theorem takeNotice_promoting {x : Nat} (hk : m.arg0.toNat % 256 = 3) (hx : x = m.arg1.toNat % 4096) :
    s.takeNotice m = let v := (s.noteXid m.xid.toNat).flood 3 x m.xid.toNat (s.portOf m.link.val)
      if v.fb F.FLT_PENDANT_VALID && !v.fb F.FLT_PENDANT_ROLE then v.stopPrimary else v.autoPromote 4 x := by
  unfold State.takeNotice
  rw [hk, hx]
  rfl

theorem limitTicks_eq (v d : Nat) : limitTicks v d = 1000 * (if v = 0 then d else v) := Nat.mul_comm ..

theorem undelivered_ends {op dst xid : Nat} {x : Request} (ho : op ∈ [0x01, 0x03, 0x05, 0x08, 0x20, 0x21])
    (hx : s.requestOf xid false = some x) : s.undelivered op dst xid = s.failRequest x .memberLost := by
  unfold State.undelivered
  rw [if_pos (List.contains_iff_mem.2 ho), hx]

end Notices

/-- Settles O45: a notice that is new takes the branch of its kind, and the limit of `LOST_US` is in ticks of a nanosecond. -/
theorem noticesSpreadAndChipsAreLost : Obligations.NoticesSpreadAndChipsAreLost := by
  unfold Obligations.NoticesSpreadAndChipsAreLost
  refine ⟨fun s m => faultNotice_seen, ?lost, ?source, ?promoting, ?goingDown, ?unreachable, ?port, fun s op dst xid x => undelivered_ends,
    fun s xid => rfl⟩
  case lost =>
    rintro s v m x h hx hk hc rfl
    rw [faultNotice_new h hx, takeNotice_lost hk hc]
  case source =>
    rintro s v m h hx hk rfl
    rw [faultNotice_new h hx, takeNotice_source hk]
  case promoting =>
    rintro s v m x h hx hk hc rfl
    rw [faultNotice_new h hx, takeNotice_promoting hk hc]
    simp only [Bool.and_eq_true, Bool.not_eq_true']
  case goingDown =>
    rintro s v m h rfl
    exact congrArg Host.Outcome.next (receive_arrives h _)
  case unreachable => exact fun s m h => congrArg Host.Outcome.next (receive_arrives h _)
  case port =>
    intro s p t hn hv hl ht
    have hdue : (s.fb F.ALT_PORT_CFG_VALID p.val && !s.fb F.ALT_PORT_STAT_LOST p.val &&
        decide (t + limitTicks (s.f F.ALT_PORT_CFG_LOST_US p.val) 20 ≤ s.now)) = true := by
      rw [limitTicks_eq, hv, hl]
      exact decide_eq_true ht
    change Host.Outcome.next _ = _
    rw [hn]
    exact congrArg Host.Outcome.next (if_pos hdue)

end Sys2Proof.Proofs
end

section
/-! The fault log (R521, R523): the statement about escalated codes and about the entry that a fault writes. -/

namespace Sys2Proof.Proofs

open Sys2Proof.Machine Sys2Proof.Laws

section Entry

variable {s : State} {code i job e : Nat} {esc : Bool} {d : Domain} {cmd : Option (Nat × Nat)} {datum : W64}

theorem faultCode_escalated (hc : faultClass code < 5) (he : s.escalates d i = true) : s.faultCode code d i = code + 0x1000 := by
  simp [State.faultCode, hc, he]

theorem faultCode_kept (h : 5 ≤ faultClass code ∨ s.escalates d i = false) : s.faultCode code d i = code := by
  rcases h with h | h <;> simp [State.faultCode, h]

/-- The word `FLT_LOG_A` of an entry (R560). -/
def logWordA (code : Nat) (esc : Bool) (d : Domain) (i job : Nat) : W64 :=
  setBits (setBits (setBits (setBits (setBits (BitVec.ofNat 64 code) 16 8 job) 24 4 d.code) 28 1 (if esc then 1 else 0)) 29 1 1) 32 12 i

/-- The word `FLT_LOG_C` of an entry: the command, where there is one (R560). -/
def logWordC : Option (Nat × Nat) → W64
  | none => 0
  | some (q, seq) => setBits (setBits (BitVec.ofNat 64 (seq % 2 ^ 48)) 48 12 q) 60 1 1

theorem logWordA_code (h : code < 2 ^ 16) : bitsOf (logWordA code esc d i job) 0 16 = code := by
  simp only [logWordA]
  iterate 5 rw [bitsOf_setBits_apart _ _ (by omega)]
  simp [bitsOf]
  omega

theorem logWordA_job : bitsOf (logWordA code esc d i job) 16 8 = job % 2 ^ 8 := by
  simp only [logWordA]
  iterate 4 rw [bitsOf_setBits_apart _ _ (by omega)]
  exact bitsOf_setBits_self _ _ (by omega)

theorem logWordA_domain : bitsOf (logWordA code esc d i job) 24 4 = d.code % 2 ^ 4 := by
  simp only [logWordA]
  iterate 3 rw [bitsOf_setBits_apart _ _ (by omega)]
  exact bitsOf_setBits_self _ _ (by omega)

theorem logWordA_escalated : bitsOf (logWordA code esc d i job) 28 1 = if esc then 1 else 0 := by
  simp only [logWordA]
  iterate 2 rw [bitsOf_setBits_apart _ _ (by omega)]
  rw [bitsOf_setBits_self _ _ (by omega)]
  split <;> rfl

theorem logWordA_valid : bitsOf (logWordA code esc d i job) 29 1 = 1 := by
  simp only [logWordA]
  rw [bitsOf_setBits_apart _ _ (by omega), bitsOf_setBits_self _ _ (by omega)]
  rfl

theorem logWordA_index : bitsOf (logWordA code esc d i job) 32 12 = i % 2 ^ 12 := bitsOf_setBits_self _ _ (by omega)

theorem logWordA_repeat (h : code < 2 ^ 16) : bitsOf (logWordA code esc d i job) 44 16 = 0 := by
  simp only [logWordA]
  iterate 5 rw [bitsOf_setBits_apart _ _ (by omega)]
  simp [bitsOf]
  omega

theorem logWordC_seq (q n : Nat) : bitsOf (logWordC (some (q, n))) 0 48 = n % 2 ^ 48 := by
  simp only [logWordC]
  iterate 2 rw [bitsOf_setBits_apart _ _ (by omega)]
  simp [bitsOf]

theorem logWordC_queue (q n : Nat) : bitsOf (logWordC (some (q, n))) 48 12 = q % 2 ^ 12 := by
  simp only [logWordC]
  rw [bitsOf_setBits_apart _ _ (by omega), bitsOf_setBits_self _ _ (by omega)]

/-- The four words of entry `e` written. -/
def withEntry (s : State) (e : Nat) (a b c d : W64) : State :=
  (((s.setR R.FLT_LOG_A a e).setR R.FLT_LOG_B b e).setR R.FLT_LOG_C c e).setR R.FLT_LOG_D d e

theorem log_apart (e k : Nat) : R.FLT_LOG_A.at e ≠ R.FLT_LOG_B.at k ∧ R.FLT_LOG_A.at e ≠ R.FLT_LOG_C.at k ∧
    R.FLT_LOG_A.at e ≠ R.FLT_LOG_D.at k ∧ R.FLT_LOG_B.at e ≠ R.FLT_LOG_C.at k ∧ R.FLT_LOG_B.at e ≠ R.FLT_LOG_D.at k ∧
    R.FLT_LOG_C.at e ≠ R.FLT_LOG_D.at k := by
  simp only [Reg.at, R.FLT_LOG_A, R.FLT_LOG_B, R.FLT_LOG_C, R.FLT_LOG_D]
  omega

theorem withEntry_r (a b c d : W64) : (withEntry s e a b c d).r R.FLT_LOG_A e = a ∧ (withEntry s e a b c d).r R.FLT_LOG_B e = b ∧
    (withEntry s e a b c d).r R.FLT_LOG_C e = c ∧ (withEntry s e a b c d).r R.FLT_LOG_D e = d := by
  obtain ⟨hab, hac, had, hbc, hbd, hcd⟩ := log_apart e e
  unfold withEntry
  refine ⟨?_, ?_, ?_, r_setR_self ..⟩
  · rw [r_setR_ne _ _ had.symm, r_setR_ne _ _ hac.symm, r_setR_ne _ _ hab.symm, r_setR_self]
  · rw [r_setR_ne _ _ hbd.symm, r_setR_ne _ _ hbc.symm, r_setR_self]
  · rw [r_setR_ne _ _ hcd.symm, r_setR_self]

/-- The words of the entry and the head, and the ports' registers. -/
def entryOffs (e : Nat) : List Nat :=
  [R.FLT_LOG_HEAD.at, R.GLB_PORT_STAT.at 0, R.GLB_PORT_STAT.at 1, R.FLT_LOG_A.at e, R.FLT_LOG_B.at e, R.FLT_LOG_C.at e, R.FLT_LOG_D.at e]

/-- The state before the vectors of the entry. -/
def logged (s : State) (code : Nat) (esc : Bool) (d : Domain) (i job : Nat) (cmd : Option (Nat × Nat)) (datum : W64) : State :=
  let e := s.f F.FLT_LOG_HEAD_NEXT
  let u := if s.fb F.FLT_LOG_A_VALID e && !s.faults.readMarks.contains e then s.count F.FLT_LOG_HEAD_OVERWRITTEN else s
  let v := (withEntry u e (logWordA code esc d i job) u.tb.tick (logWordC cmd) datum).setF F.FLT_LOG_HEAD_NEXT ((e + 1) % 256)
  let w := v.count F.FLT_LOG_HEAD_TOTAL
  { w with faults := { w.faults with readMarks := sremove w.faults.readMarks e, lastRepeat := mset w.faults.lastRepeat e w.now } }

theorem writeLog_eq : s.writeLog code esc d i job cmd datum = (logged s code esc d i job cmd datum).faultVectors (faultClass code) := by
  cases cmd <;> rfl

theorem raise_faults (s : State) (p v : Nat) : (s.raise p v).faults = s.faults := by
  unfold State.raise
  split
  · rfl
  · split
    · exact setPort_faults ..
    · rfl

theorem faultVectors_faults (s : State) (c : Nat) : (s.faultVectors c).faults = s.faults := by
  refine List.foldlRecOn (motive := fun t : State => t.faults = s.faults) _ _ rfl fun t ht p _ => ?_
  split
  · exact (raise_faults ..).trans ht
  · exact ht

theorem faultVectors_regs (s : State) (c : Nat) : SameRegsBut s (s.faultVectors c) [R.GLB_PORT_STAT.at 0, R.GLB_PORT_STAT.at 1] :=
  (logs_faultVectors (logs_refl _ s) c (by simp)).regs

theorem sameRegs_mono {t : State} {offs offs' : List Nat} (h : SameRegsBut s t offs) (m : offs ⊆ offs') : SameRegsBut s t offs' :=
  fun off ho => h off fun hm => ho (m hm)

theorem sameRegs_withEntry (s : State) (e : Nat) (a b c d : W64) : SameRegsBut s (withEntry s e a b c d)
    [R.FLT_LOG_A.at e, R.FLT_LOG_B.at e, R.FLT_LOG_C.at e, R.FLT_LOG_D.at e] :=
  sameRegs_setR (sameRegs_setR (sameRegs_setR (sameRegs_setR (sameRegs_refl s _) _ _ _ _ (by simp)) _ _ _ _ (by simp)) _ _ _ _ (by simp))
    _ _ _ _ (by simp)

/-- What lies after the words of the entry changes the head alone. -/
theorem logged_regs : ∃ u, SameRegsBut s u [R.FLT_LOG_HEAD.at] ∧ u.tb = s.tb ∧
    SameRegsBut (withEntry u (s.f F.FLT_LOG_HEAD_NEXT) (logWordA code esc d i job) s.tb.tick (logWordC cmd) datum)
      (logged s code esc d i job cmd datum) [R.FLT_LOG_HEAD.at] := by
  unfold logged
  extract_lets e u v w
  have hu : SameRegsBut s u [R.FLT_LOG_HEAD.at] ∧ u.tb = s.tb := by
    unfold u
    split
    · exact ⟨sameRegs_count (sameRegs_refl s _) _ _ _ _ (by decide), rfl⟩
    · exact ⟨sameRegs_refl s _, rfl⟩
  refine ⟨u, hu.1, hu.2, ?_⟩
  have hw : SameRegsBut (withEntry u e (logWordA code esc d i job) u.tb.tick (logWordC cmd) datum) w [R.FLT_LOG_HEAD.at] :=
    sameRegs_count (sameRegs_setF (sameRegs_refl _ _) _ _ _ _ (by decide)) _ _ _ _ (by decide)
  rw [← hu.2]
  exact hw

theorem entry_apart (e : Nat) : ∀ off ∈ [R.FLT_LOG_A.at e, R.FLT_LOG_B.at e, R.FLT_LOG_C.at e, R.FLT_LOG_D.at e],
    off ∉ [R.FLT_LOG_HEAD.at, R.GLB_PORT_STAT.at 0, R.GLB_PORT_STAT.at 1] := by
  simp [Reg.at, R.FLT_LOG_A, R.FLT_LOG_B, R.FLT_LOG_C, R.FLT_LOG_D, R.FLT_LOG_HEAD, R.GLB_PORT_STAT]
  omega

theorem entry_ne {e k : Nat} (h : k ≠ e) : ∀ off ∈ [R.FLT_LOG_A.at k, R.FLT_LOG_B.at k, R.FLT_LOG_C.at k, R.FLT_LOG_D.at k],
    off ∉ [R.FLT_LOG_A.at e, R.FLT_LOG_B.at e, R.FLT_LOG_C.at e, R.FLT_LOG_D.at e] := by
  simp [Reg.at, R.FLT_LOG_A, R.FLT_LOG_B, R.FLT_LOG_C, R.FLT_LOG_D]
  omega

/-- Off the head and the ports' registers a log entry is the words that it writes. -/
theorem writeLog_entryRegs : ∃ u, SameRegsBut s u [R.FLT_LOG_HEAD.at] ∧
    SameRegsBut (withEntry u (s.f F.FLT_LOG_HEAD_NEXT) (logWordA code esc d i job) s.tb.tick (logWordC cmd) datum)
      (s.writeLog code esc d i job cmd datum) [R.FLT_LOG_HEAD.at, R.GLB_PORT_STAT.at 0, R.GLB_PORT_STAT.at 1] := by
  obtain ⟨u, hu, -, hw⟩ := logged_regs (s := s) (code := code) (esc := esc) (d := d) (i := i) (job := job) (cmd := cmd) (datum := datum)
  refine ⟨u, hu, ?_⟩
  rw [writeLog_eq]
  exact sameRegs_trans (sameRegs_mono hw (by simp)) (sameRegs_mono (faultVectors_regs _ _) (by simp))

theorem writeLog_r (he : e = s.f F.FLT_LOG_HEAD_NEXT) :
    (s.writeLog code esc d i job cmd datum).r R.FLT_LOG_A e = logWordA code esc d i job ∧
    (s.writeLog code esc d i job cmd datum).r R.FLT_LOG_B e = s.tb.tick ∧
    (s.writeLog code esc d i job cmd datum).r R.FLT_LOG_C e = logWordC cmd ∧
    (s.writeLog code esc d i job cmd datum).r R.FLT_LOG_D e = datum := by
  obtain ⟨u, -, hw⟩ := writeLog_entryRegs (s := s) (code := code) (esc := esc) (d := d) (i := i) (job := job) (cmd := cmd) (datum := datum)
  rw [← he] at hw
  obtain ⟨ha, hb, hc, hd⟩ := withEntry_r (s := u) (e := e) (logWordA code esc d i job) s.tb.tick (logWordC cmd) datum
  have hoff := entry_apart e
  exact ⟨(hw _ (hoff _ (by simp))).trans ha, (hw _ (hoff _ (by simp))).trans hb, (hw _ (hoff _ (by simp))).trans hc,
    (hw _ (hoff _ (by simp))).trans hd⟩

theorem writeLog_otherEntry {k : Nat} (hk : k ≠ s.f F.FLT_LOG_HEAD_NEXT) :
    ∀ off ∈ [R.FLT_LOG_A.at k, R.FLT_LOG_B.at k, R.FLT_LOG_C.at k, R.FLT_LOG_D.at k],
      (s.writeLog code esc d i job cmd datum).reg off = s.reg off := by
  intro off ho
  obtain ⟨u, hu, hw⟩ := writeLog_entryRegs (s := s) (code := code) (esc := esc) (d := d) (i := i) (job := job) (cmd := cmd) (datum := datum)
  have hhead := entry_apart k off ho
  rw [hw off hhead, sameRegs_withEntry _ _ _ _ _ _ off (entry_ne hk off ho)]
  exact hu off fun h => hhead (by simp_all)

theorem writeLog_next : (s.writeLog code esc d i job cmd datum).f F.FLT_LOG_HEAD_NEXT = (s.f F.FLT_LOG_HEAD_NEXT + 1) % 256 := by
  rw [writeLog_eq, f_sameRegs (faultVectors_regs _ _) F.FLT_LOG_HEAD_NEXT (by decide)]
  unfold logged
  extract_lets e u v w
  calc w.f F.FLT_LOG_HEAD_NEXT = v.f F.FLT_LOG_HEAD_NEXT := f_setF_apart _ _ _ _ rfl (.inr (by decide))
    _ = (e + 1) % 256 % 2 ^ 8 := f_setF_self _ _ _ _ _ (by decide)
    _ = (e + 1) % 256 := Nat.mod_mod _ _

theorem writeLog_unread : s.f F.FLT_LOG_HEAD_NEXT ∉ (s.writeLog code esc d i job cmd datum).faults.readMarks := by
  rw [writeLog_eq, faultVectors_faults]
  simp [logged, sremove]

end Entry

/-- Settles O53: the words of an entry field by field, apart from every register that the head and the vectors write. -/
theorem faultsWriteTheLog : Obligations.FaultsWriteTheLog := by
  unfold Obligations.FaultsWriteTheLog
  refine ⟨?escalated, ?kept, ?entry, ?coalesced⟩
  case escalated =>
    intro s code i d hc he
    rw [faultCode_escalated hc he]
    exact ⟨by omega, by unfold faultClass; omega⟩
  case kept => exact fun s code i d h => faultCode_kept h
  case entry =>
    rintro s t code i job e esc d cmd datum hcode he rfl
    obtain ⟨ha, hb, hc, hd⟩ := writeLog_r (code := code) (esc := esc) (d := d) (i := i) (job := job) (cmd := cmd) (datum := datum) he
    have hrest := (writeLog_logs s code i job esc d cmd datum).rest
    have hA (x : Field) (hx : x.reg = R.FLT_LOG_A) : (s.writeLog code esc d i job cmd datum).f x e =
        bitsOf (logWordA code esc d i job) x.lo x.width := by rw [State.f, hx, ha]
    refine ⟨?_, ?_, ?_, ?_, ?_, ?_, ?_, hb, hd, ?_, ?_, ?_, ?_, ?_, ?_⟩
    · exact (hA _ rfl).trans (logWordA_code hcode)
    · exact (hA _ rfl).trans logWordA_job
    · exact (hA _ rfl).trans logWordA_domain
    · exact (hA _ rfl).trans logWordA_index
    · rw [State.fb, (hA _ rfl).trans logWordA_escalated]
      cases esc <;> rfl
    · rw [State.fb, (hA _ rfl).trans logWordA_valid]
      rfl
    · exact (hA _ rfl).trans (logWordA_repeat hcode)
    · rintro q n rfl
      rw [State.f, State.f]
      exact ⟨by rw [← logWordC_seq q n, ← hc]; rfl, by rw [← logWordC_queue q n, ← hc]; rfl⟩
    · rw [he, writeLog_next]
    · rw [he]
      exact writeLog_unread
    · intro k _ hk
      have hother := writeLog_otherEntry (code := code) (esc := esc) (d := d) (i := i) (job := job) (cmd := cmd) (datum := datum) (he ▸ hk)
      exact ⟨hother _ (by simp), hother _ (by simp), hother _ (by simp), hother _ (by simp)⟩
    · rw [hrest]
    · rw [hrest]
  case coalesced =>
    rintro s u code i job e esc d cmd datum rfl h
    unfold State.logAs
    dsimp only
    rw [h]
    rfl

end Sys2Proof.Proofs
end

section
/-! Broadcast trees (R483): the statement that every member but the root has exactly one parent. -/

namespace Sys2Proof.Proofs

open Sys2Proof.Machine Sys2Proof.Laws

section Tree

variable {s : State} {g : Nat} {k : CollKey} {i p : Nat}

/-! ## List groups: a binary tree of the places counted from the root -/

/-- The place of member `i` counted from the root. -/
def treePlace (k : CollKey) (i : Nat) : Nat := (i + k.members - k.root) % k.members

theorem treePlace_of_lt (hr : k.root < k.members) (hi : i < k.members) :
    treePlace k i = if k.root ≤ i then i - k.root else i + k.members - k.root := by
  unfold treePlace
  split
  · rw [show i + k.members - k.root = i - k.root + k.members by omega, Nat.add_mod_right, Nat.mod_eq_of_lt (by omega)]
  · exact Nat.mod_eq_of_lt (by omega)

theorem memberAt_of_lt (hr : k.root < k.members) (hi : i < k.members) :
    (i + k.root) % k.members = if i + k.root < k.members then i + k.root else i + k.root - k.members := by
  split
  · next h => exact Nat.mod_eq_of_lt h
  · rw [Nat.mod_eq_sub_mod (by omega), Nat.mod_eq_of_lt (by omega)]

/-- A member is a child of the one whose place is half of its own. -/
theorem mem_listChildren (hl : s.collIsList g = true) (hr : k.root < k.members) (hi : i < k.members) :
    i ∈ s.treeChildren g k p ↔ treePlace k i = 2 * treePlace k p + 1 ∨ treePlace k i = 2 * treePlace k p + 2 := by
  have hplace (c : Nat) : (c < k.members ∧ (c + k.root) % k.members = i) ↔ treePlace k i = c := by
    rw [treePlace_of_lt hr hi]
    constructor
    · rintro ⟨hc, he⟩
      rw [memberAt_of_lt hr hc] at he
      split at he <;> split <;> omega
    · rintro rfl
      have hc : (if k.root ≤ i then i - k.root else i + k.members - k.root) < k.members := by split <;> omega
      refine ⟨hc, ?_⟩
      rw [memberAt_of_lt hr hc]
      split <;> split <;> omega
  unfold State.treeChildren
  rw [if_pos hl]
  change i ∈ (List.filter _ [2 * treePlace k p + 1, 2 * treePlace k p + 2]).map _ ↔ _
  simp only [List.mem_map, List.mem_filter, List.mem_cons, List.not_mem_nil, or_false, decide_eq_true_eq]
  constructor
  · rintro ⟨c, ⟨hc, hn⟩, he⟩
    rwa [(hplace c).1 ⟨hn, he⟩]
  · exact fun h => ⟨treePlace k i, ⟨h, ((hplace _).2 rfl).1⟩, ((hplace _).2 rfl).2⟩

theorem listChild_lt (hl : s.collIsList g = true) (hr : k.root < k.members) (h : i ∈ s.treeChildren g k p) : i < k.members := by
  unfold State.treeChildren at h
  rw [if_pos hl] at h
  obtain ⟨c, -, rfl⟩ := List.mem_map.1 h
  exact Nat.mod_lt _ (by omega)

theorem treePlace_inj {j : Nat} (hr : k.root < k.members) (hi : i < k.members) (hj : j < k.members) (h : treePlace k i = treePlace k j) :
    i = j := by
  rw [treePlace_of_lt hr hi, treePlace_of_lt hr hj] at h
  split at h <;> split at h <;> omega

/-- Every place below the number of members is that of a member. -/
theorem exists_treePlace {c : Nat} (hr : k.root < k.members) (hc : c < k.members) : ∃ j, j < k.members ∧ treePlace k j = c := by
  refine ⟨if c + k.root < k.members then c + k.root else c + k.root - k.members, by split <;> omega, ?_⟩
  rw [treePlace_of_lt hr (by split <;> omega)]
  split <;> split <;> omega

theorem listTree (hl : s.collIsList g = true) (hr : k.root < k.members) :
    (∀ i, i < k.members → i ≠ k.root → ∃ p, p < k.members ∧ i ∈ s.treeChildren g k p ∧
      ∀ p', p' < k.members → i ∈ s.treeChildren g k p' → p' = p) ∧
    (∀ p, p < k.members → k.root ∉ s.treeChildren g k p) ∧ (∀ p, p < k.members → ∀ i ∈ s.treeChildren g k p, i < k.members) := by
  have hroot : treePlace k k.root = 0 := by simp [treePlace]
  refine ⟨fun i hi hne => ?_, fun p _ h => ?_, fun p _ i h => listChild_lt hl hr h⟩
  · have hpos : treePlace k i ≠ 0 := fun h => hne (treePlace_inj hr hi hr (h.trans hroot.symm))
    have hlt : treePlace k i < k.members := Nat.mod_lt _ (by omega)
    obtain ⟨p, hp, hpp⟩ := exists_treePlace (c := (treePlace k i - 1) / 2) hr (by omega)
    refine ⟨p, hp, (mem_listChildren hl hr hi).2 (by omega), fun p' hp' h => treePlace_inj hr hp' hp ?_⟩
    have := (mem_listChildren hl hr hi).1 h
    omega
  · have := (mem_listChildren hl hr hr).1 h
    omega

/-! ## Rectangles: along the root's row, then along the columns -/

/-- A step of one column to the east. -/
theorem succ_place {w : Nat} : i = p + 1 ∧ p % w + 1 < w ↔ i / w = p / w ∧ i % w = p % w + 1 ∧ 0 < w := by
  constructor
  · rintro ⟨rfl, h⟩
    have hp := Nat.div_add_mod p w
    have hi : p + 1 = w * (p / w) + (p % w + 1) := by omega
    refine ⟨?_, ?_, by omega⟩
    · rw [hi, Nat.mul_add_div (by omega), Nat.div_eq_of_lt h, Nat.add_zero]
    · rw [hi, Nat.mul_add_mod, Nat.mod_eq_of_lt h]
  · rintro ⟨hd, hm, hw⟩
    have hlt := Nat.mod_lt i hw
    refine ⟨?_, by omega⟩
    have h := Nat.div_add_mod i w
    rw [hd] at h
    have := Nat.div_add_mod p w
    omega

/-- A step of one row to the north. -/
theorem row_place {w : Nat} (hw : 0 < w) : i = p + w ↔ i / w = p / w + 1 ∧ i % w = p % w := by
  constructor
  · rintro rfl
    exact ⟨Nat.add_div_right _ hw, Nat.add_mod_right _ _⟩
  · rintro ⟨hd, hm⟩
    rw [← Nat.div_add_mod i w, hd, hm, Nat.mul_add, ← Nat.div_add_mod p w]
    simp [Nat.mul_add_div hw]
    omega

/-- A step of one column to the west. -/
theorem pred_place {w : Nat} (hw : 0 < w) : 0 < p % w ∧ i = p - 1 ↔ p / w = i / w ∧ p % w = i % w + 1 := by
  constructor
  · rintro ⟨hp, rfl⟩
    have hlt := Nat.mod_lt p hw
    have hdm := Nat.div_add_mod p w
    have hi : p - 1 = w * (p / w) + (p % w - 1) := by omega
    have hm : (p - 1) % w = p % w - 1 := by rw [hi, Nat.mul_add_mod, Nat.mod_eq_of_lt (by omega)]
    obtain ⟨hd, hm', -⟩ := succ_place.1 (⟨by omega, by omega⟩ : p = p - 1 + 1 ∧ (p - 1) % w + 1 < w)
    exact ⟨hd, hm'⟩
  · rintro ⟨hd, hm⟩
    have := (succ_place.2 ⟨hd, hm, hw⟩).1
    omega

/-- A step of one row to the south. -/
theorem south_place {w : Nat} (hw : 0 < w) : 0 < p / w ∧ i = p - w ↔ p / w = i / w + 1 ∧ p % w = i % w := by
  rw [← row_place hw]
  constructor
  · rintro ⟨hp, rfl⟩
    have := (Nat.div_pos_iff.1 hp).2
    omega
  · rintro rfl
    exact ⟨Nat.div_pos (by omega) hw, by omega⟩

theorem rectPlace_inj {w : Nat} (hd : i / w = p / w) (hm : i % w = p % w) : i = p := by
  rw [← Nat.div_add_mod i w, ← Nat.div_add_mod p w, hd, hm]

/-- A member is a child of its neighbour towards the root: along its row in the root's row, along its column elsewhere. -/
theorem mem_rectChildren (hl : s.collIsList g = false) {w : Nat} (hw : w = s.collW g) :
    i ∈ s.treeChildren g k p ↔
      (p / w = k.root / w ∧ k.root % w ≤ p % w ∧ i / w = p / w ∧ i % w = p % w + 1) ∨
      (p / w = k.root / w ∧ p % w ≤ k.root % w ∧ p / w = i / w ∧ p % w = i % w + 1) ∨
      (k.root / w ≤ p / w ∧ p / w + 1 < s.collH g ∧ i / w = p / w + 1 ∧ i % w = p % w) ∨
      (p / w ≤ k.root / w ∧ p / w = i / w + 1 ∧ p % w = i % w) := by
  have hpos : 0 < w := hw ▸ Nat.succ_pos _
  have east : (p / w = k.root / w ∧ k.root % w ≤ p % w ∧ p % w + 1 < w) ∧ i = p + 1 ↔
      p / w = k.root / w ∧ k.root % w ≤ p % w ∧ i / w = p / w ∧ i % w = p % w + 1 := by
    have h := succ_place (i := i) (p := p) (w := w)
    tauto
  have west : (p / w = k.root / w ∧ p % w ≤ k.root % w ∧ 0 < p % w) ∧ i = p - 1 ↔
      p / w = k.root / w ∧ p % w ≤ k.root % w ∧ p / w = i / w ∧ p % w = i % w + 1 := by
    rw [← pred_place hpos]
    tauto
  have north : (k.root / w ≤ p / w ∧ p / w + 1 < s.collH g) ∧ i = p + w ↔
      k.root / w ≤ p / w ∧ p / w + 1 < s.collH g ∧ i / w = p / w + 1 ∧ i % w = p % w := by rw [← row_place hpos, and_assoc]
  have south : (p / w ≤ k.root / w ∧ 0 < p / w) ∧ i = p - w ↔ p / w ≤ k.root / w ∧ p / w = i / w + 1 ∧ p % w = i % w := by
    rw [← south_place hpos, and_assoc]
  unfold State.treeChildren
  rw [if_neg (by simp [hl])]
  simp only [List.mem_append, List.mem_ite_nil_right, List.mem_singleton, ← hw]
  rw [east, west, north, south, or_assoc, or_assoc]

/-- The neighbour towards the root of a place at column `x` and row `y`, where the root is at column `rx` and row `ry`. -/
theorem exists_towards {x y rx ry w h : Nat} (hx : x < w) (hy : y < h) (hrx : rx < w) (hry : ry < h) (hne : y = ry → x ≠ rx) :
    ∃ r c, r < h ∧ c < w ∧ ((r = ry ∧ rx ≤ c ∧ y = r ∧ x = c + 1) ∨ (r = ry ∧ c ≤ rx ∧ r = y ∧ c = x + 1) ∨
      (ry ≤ r ∧ r + 1 < h ∧ y = r + 1 ∧ x = c) ∨ (r ≤ ry ∧ r = y + 1 ∧ c = x)) := by
  rcases lt_trichotomy y ry with h | h | h
  · exact ⟨y + 1, x, by omega⟩
  · rcases lt_or_gt_of_ne (hne h) with h' | h'
    · exact ⟨y, x + 1, by omega⟩
    · exact ⟨y, x - 1, by omega⟩
  · exact ⟨y - 1, x, by omega⟩

theorem rectTree (hl : s.collIsList g = false) (hr : k.root < k.members) (hm : k.members = s.collW g * s.collH g) :
    (∀ i, i < k.members → i ≠ k.root → ∃ p, p < k.members ∧ i ∈ s.treeChildren g k p ∧
      ∀ p', p' < k.members → i ∈ s.treeChildren g k p' → p' = p) ∧
    (∀ p, p < k.members → k.root ∉ s.treeChildren g k p) ∧ (∀ p, p < k.members → ∀ i ∈ s.treeChildren g k p, i < k.members) := by
  obtain ⟨w, hw⟩ : ∃ w, w = s.collW g := ⟨_, rfl⟩
  have hpos : 0 < w := hw ▸ Nat.succ_pos _
  have hmem (j : Nat) : j < k.members ↔ j / w < s.collH g := by rw [hm, ← hw, Nat.div_lt_iff_lt_mul hpos, Nat.mul_comm]
  have hcol (j : Nat) : j % w < w := Nat.mod_lt j hpos
  have hroot := (hmem _).1 hr
  refine ⟨fun i hi hne => ?_, fun p _ h => ?_, fun p hp i h => ?_⟩
  · obtain ⟨r, c, hr', hc, hchild⟩ := exists_towards (hcol i) ((hmem i).1 hi) (hcol k.root) hroot fun hd hm => hne (rectPlace_inj hd hm)
    have hd : (w * r + c) / w = r := by rw [Nat.mul_add_div hpos, Nat.div_eq_of_lt hc, Nat.add_zero]
    have hm : (w * r + c) % w = c := by rw [Nat.mul_add_mod, Nat.mod_eq_of_lt hc]
    refine ⟨w * r + c, by rw [hmem, hd]; exact hr', (mem_rectChildren hl hw).2 (by rwa [hd, hm]), fun p' _ h => ?_⟩
    rw [mem_rectChildren hl hw] at h
    exact rectPlace_inj (by rw [hd]; omega) (by rw [hm]; omega)
  · rw [mem_rectChildren hl hw] at h
    omega
  · rw [mem_rectChildren hl hw] at h
    rw [hmem] at hp ⊢
    omega

end Tree

/-- Settles O31: in a list a member's parent has half its place, in a rectangle it is the next member towards the root. -/
theorem broadcastTreesReachEveryMember : Obligations.BroadcastTreesReachEveryMember := by
  unfold Obligations.BroadcastTreesReachEveryMember
  intro s g k hr hrect
  cases hl : s.collIsList g with
  | true => exact listTree hl hr
  | false => exact rectTree hl hr (hrect hl)

end Sys2Proof.Proofs
end

section
/-! Inbound accesses of remote memory (R462 to R469): the statements about what is applied and about the windows. -/

namespace Sys2Proof.Proofs

open Sys2Proof.Machine Sys2Proof.Laws

section Inbound

variable {s : State} {m : Msg} {w op n : Nat}

theorem screened_admitted {right : Field} {go : Nat → State} (hl : s.lacks m.addr n = false) (hw : s.windowFor right m n = some w) :
    s.screened m op right n go = go w := by
  unfold State.screened
  rw [hl, hw]
  rfl

/-- R466, R469: without the bytes or without a window the answer is a refusal. -/
theorem screened_refused {right : Field} {go : Nat → State} (h : s.lacks m.addr n = true ∨ s.windowFor right m n = none) :
    s.screened m op right n go = if s.lacks m.addr n then s.respond m (responseOf op) 3
      else (s.count F.ALT_RM_STAT_NO_WINDOW).respond m (responseOf op) 2 := by
  unfold State.screened
  split
  · rfl
  · next hl =>
    rw [h.resolve_left hl]

theorem inboundStore_lines (hp : regionOf m.addr ≠ Region.plain) : s.inboundStore m op w =
    (((s.store m.addr m.data m.poison).countLines true m.addr m.data.length).notify w m.data.length).respond m (responseOf op) 0 :=
  if_neg hp

theorem ringPut_taken {r : Nat} {d : RingDecl} {x : RingPtr} {a k : Nat} (hr : s.ringOf k r = (d, x)) (hn : m.data.length ≤ 64 * d.lines)
    (hf : x.fill d.twoCons < d.slots) (ha : a = s.slotOffset k r x.tail) :
    s.ringPut m w k r = ((((s.store a (padTo (64 * d.lines) m.data) m.poison).countLines true a (64 * d.lines)).setRing k r
      { x with tail := (x.tail + 1) % 65536 }).notify w m.data.length).respond m 0x09 0 := by
  unfold State.ringPut
  rw [hr]
  dsimp only
  rw [if_neg (Nat.not_lt.2 hn), if_neg (Nat.not_le.2 hf), ha]
  rfl

theorem ringPut_full {r : Nat} {d : RingDecl} {x : RingPtr} {k : Nat} (hr : s.ringOf k r = (d, x)) (hn : m.data.length ≤ 64 * d.lines)
    (hf : d.slots ≤ x.fill d.twoCons) : s.ringPut m w k r = s.respond m 0x09 5 := by
  unfold State.ringPut
  rw [hr]
  dsimp only
  rw [if_neg (Nat.not_lt.2 hn), if_pos hf]

theorem byte_store_nil (s : State) (a : Nat) (mark : Bool) (c : Nat) : (s.store a [] mark).byte c = s.byte c := by
  unfold State.store
  split <;> rfl

theorem globalOf_store (s : State) (a : Nat) (bs : List Byte) (mark : Bool) (b : Nat) : (s.store a bs mark).globalOf b = s.globalOf b := by
  unfold State.store
  split <;> rfl

/-- The bytes that an atomic names (R464). -/
theorem sizeOf_arg0 (m : Msg) : (if bitOf (BitVec.ofNat 64 m.arg0.toNat) 4 then 8 else 4) = if m.arg0.toNat.testBit 4 then 8 else 4 := by
  have h : (BitVec.ofNat 64 m.arg0.toNat).toNat = m.arg0.toNat :=
    (BitVec.toNat_ofNat ..).trans (Nat.mod_eq_of_lt (m.arg0.isLt.trans_le (by decide)))
  have hb : bitOf (BitVec.ofNat 64 m.arg0.toNat) 4 = m.arg0.toNat.testBit 4 := by rw [← h]; simp [bitOf]
  rw [hb]

theorem inboundAtomic_applied {op : AmoOp} (hn : (if bitOf (BitVec.ofNat 64 m.arg0.toNat) 4 then 8 else 4) = n)
    (hl : s.lacks m.addr n = false) (hw : s.windowFor F.ALT_RM_WIN_CTRL_A m n = some w) (hop : amoOf (m.arg0.toNat % 16) = some op)
    (hr : regionOf m.addr = Region.basin) (ha : m.addr % n = 0) (hm : s.poisoned m.addr n = false) :
    s.inboundAtomic m = (((s.store m.addr (leBytes n (amoValue op (8 * n) (leNat (s.bytes m.addr n)) m.arg1.toNat))).breakReservations
      (s.globalOf m.addr)).notify w 8).respond m 0x06 0 false (leBytes 8 (leNat (s.bytes m.addr n))) := by
  have hplace : ¬ (regionOf m.addr ≠ Region.basin ∨ m.addr % n ≠ 0) := by simp [hr, ha]
  unfold State.inboundAtomic
  rw [hn]
  dsimp only
  rw [screened_admitted hl hw, hop]
  dsimp only
  rw [if_neg hplace, hm, if_neg Bool.false_ne_true, globalOf_store]

end Inbound

/-- Settles O42: the message arrives and its window is found, and then its type's one branch is left. -/
theorem remoteAccessesAreApplied : Obligations.RemoteAccessesAreApplied := by
  unfold Obligations.RemoteAccessesAreApplied
  refine ⟨?read, ?readPlain, ?write, ?atomic, ?tile, ?ring, ?full, ?store⟩
  case read =>
    intro s m w h hl hw hp
    refine congrArg Host.Outcome.next ((receive_arrives h _).trans ((screened_admitted hl hw).trans ?_))
    exact if_neg hp
  case readPlain =>
    rintro s m w l h hl hw hp rfl
    refine congrArg Host.Outcome.next ((receive_arrives h _).trans ((screened_admitted hl hw).trans ?_))
    exact if_pos hp
  case write =>
    intro s m w h hl hw hp
    exact congrArg Host.Outcome.next ((receive_arrives h _).trans ((screened_admitted hl hw).trans (inboundStore_lines hp)))
  case atomic =>
    rintro s m w n op h rfl hl hw hop hr ha hm
    exact congrArg Host.Outcome.next ((receive_arrives h _).trans (inboundAtomic_applied (sizeOf_arg0 m) hl hw hop hr ha hm))
  case tile =>
    intro s m w h hl hw hp hr
    refine congrArg Host.Outcome.next ((receive_arrives h _).trans ((screened_admitted hl hw).trans ?_))
    rw [hr]
    exact inboundStore_lines hp
  case ring =>
    intro s m w n r d x a h hl hw hput hr hn hf ha
    refine congrArg Host.Outcome.next ((receive_arrives h _).trans ((screened_admitted hl hw).trans ?_))
    rw [hput]
    exact ringPut_taken hr hn hf ha
  case full =>
    intro s m w n r d x h hl hw hput hr hn hf
    refine congrArg Host.Outcome.next ((receive_arrives h _).trans ((screened_admitted hl hw).trans ?_))
    rw [hput]
    exact ringPut_full hr hn hf
  case store =>
    intro s a bs mark hm hp
    refine ⟨bytes_store hm bs mark rfl hp, ?_, memoryCanonical_store hm bs mark, ?_⟩
    · rcases List.eq_nil_or_concat bs with rfl | ⟨l, b, rfl⟩
      · exact fun c _ => byte_store_nil s a mark c
      · exact sameBytes_store s _ mark rfl (by simp at hp; omega)
    · unfold State.store
      split <;> rfl

section Refusals

variable {s : State} {m : Msg}

theorem sendVia_memory (s : State) (hop : Hop) (m : OutMsg) : (s.sendVia hop m).1.memory = s.memory := by
  unfold State.sendVia
  split
  · rfl
  · split
    · split
      · rfl
      · split
        · unfold State.dropNotice
          split <;> rfl
        · rw [((Sends.refl s).sendOn ..).rest]
    · rfl

theorem respond_memory (s : State) (m : Msg) (op status : Nat) (mark : Bool) (data : List Byte) :
    (s.respond m op status mark data).memory = s.memory := sendVia_memory ..

theorem noticeUnreachable_memory (s : State) (m : OutMsg) : (s.noticeUnreachable m).memory = s.memory := by
  unfold State.noticeUnreachable
  split
  · rfl
  · dsimp only
    split <;> exact sendVia_memory ..

theorem badMsg_memory (s : State) (l : Nat) : (s.badMsg l).memory = s.memory := fault_corrected_memory (by decide)

/-- A message that is not for this chip, or is malformed or outside the fence, changes no memory. -/
theorem receive_memory {op : Nat} {f : State → State} (hf : (f s).memory = s.memory) : (s.receive m op f).memory = s.memory := by
  unfold State.receive
  split
  · rfl
  · split
    · exact badMsg_memory ..
    · split
      · rfl
      · split
        · exact hf
        · dsimp only
          split
          · exact (noticeUnreachable_memory ..).trans (sendVia_memory ..)
          · exact sendVia_memory ..

theorem windowFor_none {right : Field} {n : Nat}
    (h : ∀ w right n, w < 64 → s.windowAdmits w right m.src.toNat m.job.val m.addr n = false) : s.windowFor right m n = none :=
  List.find?_eq_none.2 fun w hw => by simp [h w right n (List.mem_range.1 hw)]

theorem screened_memory {op n : Nat} {right : Field} {go : Nat → State} (h : s.windowFor right m n = none) :
    (s.screened m op right n go).memory = s.memory := by
  rw [screened_refused (.inr h)]
  split <;> exact respond_memory ..

end Refusals

/-- Settles O43: each of the four types passes the same screen first, and what the screen refuses is answered and no more. -/
theorem inboundMessagesNeedAWindow : Obligations.InboundMessagesNeedAWindow := by
  unfold Obligations.InboundMessagesNeedAWindow
  refine ⟨?refused, ?memory, ?right⟩
  case refused =>
    intro s m c op n right hc h hno
    simp only [List.mem_cons, List.not_mem_nil, or_false, Prod.mk.injEq] at hc
    obtain ⟨rfl, rfl, rfl, rfl⟩ | ⟨rfl, rfl, rfl, rfl⟩ | ⟨rfl, rfl, rfl, rfl⟩ | ⟨rfl, rfl, rfl, rfl⟩ := hc
    · exact congrArg Host.Outcome.next ((receive_arrives h _).trans (screened_refused hno))
    · exact congrArg Host.Outcome.next ((receive_arrives h _).trans (screened_refused hno))
    · rw [← sizeOf_arg0] at hno ⊢
      exact congrArg Host.Outcome.next ((receive_arrives h _).trans (screened_refused hno))
    · exact congrArg Host.Outcome.next ((receive_arrives h _).trans (screened_refused hno))
  case memory =>
    intro s t m c hc hno ht
    simp only [List.mem_cons, List.not_mem_nil, or_false] at hc
    obtain rfl | rfl | rfl | rfl := hc <;> rw [← Host.Outcome.next.inj ht]
    · exact receive_memory (screened_memory (windowFor_none hno))
    · exact receive_memory (screened_memory (windowFor_none hno))
    · exact receive_memory (screened_memory (windowFor_none hno))
    · exact receive_memory (screened_memory (windowFor_none hno))
  case right =>
    intro s w right src job a len h
    simp only [State.windowAdmits, Bool.and_eq_true, Bool.or_eq_true, decide_eq_true_eq, beq_iff_eq] at h
    obtain ⟨⟨⟨⟨⟨⟨hv, hr⟩, hb⟩, he⟩, hf⟩, hc⟩, hj⟩ := h
    exact ⟨hv, hr, hb, by rwa [Nat.add_mul], hf, hc, hj⟩

end Sys2Proof.Proofs
end

section
/-! Collectives (R475, R478, R479, R483): the statement about their commands, steps and credits. -/

namespace Sys2Proof.Proofs

open Sys2Proof.Machine Sys2Proof.Laws

section Collectives

variable {s u v : State} {q : QId} {r : Rec} {c : Instr} {o g e : Nat} {x : CollEntry}

/-- The six commands run `runColl` (R475). -/
theorem collective_runs
    (hc : (c, o) ∈ [(Instr.allReduce q, 0), (.reduceScatter q, 1), (.allGather q, 2), (.broadcast q, 3), (.allToAll q, 4), (.barrier q, 5)])
    (h : Starts specColl s q.val r) (hop : r.opcode = 0x20) (ho : r.collOper = o) :
    exec c s = .next ((s.takeHead q.val 3 r).runColl q.val (s.headSeq q.val) r) := by
  simp only [List.mem_cons, List.not_mem_nil, or_false, Prod.mk.injEq] at hc
  obtain ⟨rfl, rfl⟩ | ⟨rfl, rfl⟩ | ⟨rfl, rfl⟩ | ⟨rfl, rfl⟩ | ⟨rfl, rfl⟩ | ⟨rfl, rfl⟩ := hc
  all_goals exact congrArg Host.Outcome.next (queueCommand_runs _ h (by simp [hop, ho]))

/-- A collective of group `g` joins entry `e` (R478). -/
def collJoined (q seq : Nat) (r : Rec) (k : CollKey) (n : Nat) (s : State) (e : Nat) (x : CollEntry) : State :=
  let y := { x with started := some (q, seq), detach := bitOf r.w3 11, oneShot := s.collOneShot k }
  (s.setColl e y).collBegin e y n r

/-- The state in which the command has taken its group's next sequence number. -/
def collNumbered (u : State) (g : Nat) : State := u.setF F.ALT_CG_STAT_SEQ ((u.f F.ALT_CG_STAT_SEQ g + 1) % 2 ^ 32) g

section Runs

variable {n seq : Nat} (hg : g = r.collGroupOf) (hv : v = collNumbered u g)

include hg hv

theorem runColl_fenced (hf : (v.collChips g).all v.inFence = false) : u.runColl n seq r = v.finishFlight n seq .fenced := by
  subst hg hv
  exact if_pos (by rw [Bool.not_eq_true']; exact hf)

variable (hf : (v.collChips g).all v.inFence = true)

include hf

theorem runColl_joins (ht : v.collTag (u.f F.ALT_CG_CFG_GID g) (u.f F.ALT_CG_STAT_SEQ g) = some (e, x)) (hs : x.status = none)
    (hk : x.key = u.collKey g r) : u.runColl n seq r = collJoined n seq r (u.collKey g r) (u.queueJob n) v e x := by
  subst hg hv
  unfold State.runColl
  dsimp only
  rw [← collNumbered, if_neg (by rw [hf]; decide), ht]
  dsimp only
  split
  · next he => exact absurd (he.symm.trans hs) (Option.some_ne_none _)
  · exact if_pos hk

variable (ht : v.collTag (u.f F.ALT_CG_CFG_GID g) (u.f F.ALT_CG_STAT_SEQ g) = none)

include ht

theorem runColl_opens (hs : v.collSlot = some e)
    (hx : x = CollEntry.fresh (u.f F.ALT_CG_CFG_GID g) (u.f F.ALT_CG_STAT_SEQ g) (u.collKey g r) g v.now) :
    u.runColl n seq r = collJoined n seq r (u.collKey g r) (u.queueJob n) (v.setColl e x).refreshColl e x := by
  subst hg hv hx
  unfold State.runColl
  dsimp only
  rw [← collNumbered, if_neg (by rw [hf]; decide), ht]
  dsimp only
  rw [hs]
  rfl

theorem runColl_noEntry (hs : v.collSlot = none) :
    u.runColl n seq r = (v.count F.ALT_COLL_STAT_ORDER_FAILS).finishFlight n seq .collOrder := by
  subst hg hv
  unfold State.runColl
  dsimp only
  rw [← collNumbered, if_neg (by rw [hf]; decide), ht]
  dsimp only
  rw [hs]

end Runs

/-- What counts the pending entries leaves the choice of one-shot as it is. -/
theorem collOneShot_opened (v : State) (e : Nat) (x : CollEntry) (k : CollKey) :
    (v.setColl e x).refreshColl.collOneShot k = v.collOneShot k := by
  unfold State.collOneShot
  rw [State.refreshColl, f_setF_ne (v.setColl e x) _ (by decide)]
  rfl

/-! ## Steps and credits -/

section Steps

variable {m : CollStepMsg}

theorem collStep_group (hg : s.collGroup m.gid.toNat = some g) : exec (.collStep m) s = .next (s.collReceive g m) := by
  change Host.Outcome.next _ = _
  rw [hg]

variable (hm : m.src < s.collMembers g) (ho : m.src ≠ s.collIndex g)

include hm ho

theorem collReceive_known (ht : s.collTag m.gid.toNat m.seq.toNat = some (e, x)) : s.collReceive g m =
    if x.key ≠ stepKey m ∨ m.offset ≠ (mgetD x.inbox (4096 * m.stage + m.src) []).length then s.collDisagree e x m.src
    else (s.setColl e (x.takeStep (s.collIndex g) m)).collPump e := by
  unfold State.collReceive
  dsimp only
  rw [if_neg (by omega), ht]

theorem collReceive_early (ht : s.collTag m.gid.toNat m.seq.toNat = none)
    (hn : (m.seq.toNat + 2 ^ 32 - s.f F.ALT_CG_STAT_SEQ g) % 2 ^ 32 < 2 ^ 31) (hs : s.collSlot = some e) (hz : m.offset = 0) :
    s.collReceive g m =
      (s.setColl e ((CollEntry.fresh m.gid.toNat m.seq.toNat (stepKey m) g s.now).takeStep (s.collIndex g) m)).refreshColl := by
  unfold State.collReceive
  dsimp only
  rw [if_neg (by omega), ht]
  dsimp only
  rw [if_neg (Nat.not_le.2 hn), hs]
  exact if_neg fun h => h hz

end Steps

theorem collCredit_code {gid : BitVec 16} {seq : BitVec 32} {src : Nat} {code : Fin 5} (ht : s.collTag gid.toNat seq.toNat = some (e, x)) :
    exec (.collCredit gid seq src code) s = .next (match code.val with
      | 0 => (s.setColl e (x.credited src)).collPump e
      | 1 => s.failColl e x .badCommand
      | 2 => s.failColl e x .collOrder
      | 3 => (s.cutBranches x).failColl e x .laggard
      | _ => s.failColl e x .memberLost) := by
  change Host.Outcome.next _ = _
  rw [ht] <;> rfl

theorem orderTimeout_due {j : Nat} (hx : mget s.coll.entries e = some x) (hl : x.created + s.orderLimit < s.now) (hj : j ∈ s.collWaits x)
    (hn : x.seen.contains j = false) : exec (.orderTimeout e) s =
      .next (if x.started.isSome then s.failColl e x .collOrder else (s.dropColl e).count F.ALT_COLL_STAT_EARLY_DISCARDS) := by
  have hmissing : (!(s.collWaits x).all (fun j => x.seen.contains j)) = true := by
    rw [Bool.not_eq_true', List.all_eq_false]
    exact ⟨j, hj, by rw [hn]; decide⟩
  change Host.Outcome.next _ = _
  rw [hx]
  exact congrArg Host.Outcome.next (if_pos ⟨hl, hmissing⟩)

theorem lagLimit_due {b : Fin 4} {f : CollFlow} {t : Nat} (hx : mget s.coll.entries e = some x) (hf : x.flows[b.val]? = some f)
    (ht : f.fullSince = some t) (hd : x.detach = true) (hc : f.cut = false) (hl : t + s.lagTicks < s.now) :
    exec (.lagLimit e b) s = .next (s.cutBranch e x f.dest true) := by
  change Host.Outcome.next _ = _
  rw [hx]
  dsimp only
  rw [hf]
  dsimp only
  rw [ht]
  exact congrArg Host.Outcome.next (if_pos (by simp [hd, hc, hl]))

theorem failColl_started {n seq : Nat} {st : Status} {d : W64} (hx : x.started = some (n, seq)) (hs : x.status = none)
    (ho : st ≠ .collOrder) (hn : st ≠ .nanTrap) : s.failColl e x st d = (s.dropColl e).finishFlight n seq st 0 d := by
  unfold State.failColl
  rw [hx]
  dsimp only
  simp [hs, ho, hn]

theorem failColl_waiting {st : Status} {d : W64} (hx : x.started = none) :
    s.failColl e x st d = s.setColl e { x with status := some st.code, detail := d } := by
  unfold State.failColl
  rw [hx]

end Collectives

/-- Settles O30: the command's four ends, a step's tag known or not, the code of a credit, and the two limits. -/
theorem collectivesRunStepByStep : Obligations.CollectivesRunStepByStep := by
  unfold Obligations.CollectivesRunStepByStep
  refine ⟨?opens, ?joins, ?noEntry, ?fenced, ?taken, ?disagrees, ?early, ?credit, fun s e j x => orderTimeout_due,
    fun s e b x f t => lagLimit_due, fun s e n seq x st d => failColl_started, fun s e x st d => failColl_waiting⟩
  case opens =>
    intro s u v q r c o g e x hc h hop ho hu hg hv hf ht hs hx
    refine ⟨_, rfl, (collective_runs hc h hop ho).trans (congrArg Host.Outcome.next ?_)⟩
    rw [← hu, runColl_opens hg hv hf ht hs hx, collJoined, collOneShot_opened]
  case joins =>
    intro s u v q r c o g e x hc h hop ho hu hg hv hf ht hs hk
    refine ⟨_, rfl, (collective_runs hc h hop ho).trans (congrArg Host.Outcome.next ?_)⟩
    rw [← hu, runColl_joins hg hv hf ht hs hk, collJoined]
  case noEntry =>
    intro s u v q r c o g hc h hop ho hu hg hv hf ht hs
    refine (collective_runs hc h hop ho).trans (congrArg Host.Outcome.next ?_)
    rw [← hu, runColl_noEntry hg hv hf ht hs]
  case fenced =>
    intro s u v q r c o g hc h hop ho hu hg hv hf
    refine (collective_runs hc h hop ho).trans (congrArg Host.Outcome.next ?_)
    rw [← hu, runColl_fenced hg hv hf]
  case taken =>
    intro s m g e x hg hm ho ht hk hoff
    rw [collStep_group hg, collReceive_known hm ho ht, if_neg (by simp [hk, hoff])]
  case disagrees =>
    intro s m g e x hg hm ho ht hk
    rw [collStep_group hg, collReceive_known hm ho ht, if_pos (.inl hk)]
    rfl
  case early =>
    intro s m g e hg hm ho ht hn hs hz
    rw [collStep_group hg, collReceive_early hm ho ht hn hs hz]
  case credit =>
    intro s gid seq src e x ht
    exact ⟨collCredit_code ht, collCredit_code ht, collCredit_code ht, collCredit_code ht, collCredit_code ht⟩

end Sys2Proof.Proofs
end

section
/-! The events of the ports, the apertures and the masked vectors (R495, R496, R500 to R502): the statement about them. -/

namespace Sys2Proof.Proofs

open Sys2Proof.Machine Sys2Proof.Laws

section Windows

variable {s : State} {p : Nat}

/-- Registers cleared one after another. -/
def clearRegs (s : State) (offs : List Nat) : State := offs.foldl (fun t off => t.setReg off 0) s

theorem clearRegs_reg (offs : List Nat) (off : Nat) : (clearRegs s offs).reg off = if off ∈ offs then 0 else s.reg off := by
  induction offs generalizing s with
  | nil => rfl
  | cons o os ih =>
    rw [clearRegs, List.foldl_cons, ← clearRegs, ih]
    by_cases ho : off = o
    · subst ho; simp
    · rw [reg_setReg_ne s _ (Ne.symm ho)]
      simp [ho]

theorem clearRegs_rest (offs : List Nat) : clearRegs s offs = { s with regs := (clearRegs s offs).regs } :=
  List.foldlRecOn (motive := fun t : State => t = { s with regs := t.regs }) _ _ rfl fun t ht off _ => by
    conv => lhs; rw [ht]
    rfl

/-- The registers of the host windows and of the aperture of a port. -/
def windowOffs (p : Nat) : List Nat :=
  (List.range 16).flatMap (fun w => [R.GLB_HWIN_BASE.at p w, R.GLB_HWIN_SIZE.at p w]) ++ [R.GLB_APERTURE.at p]

theorem clearWindows_eq (s : State) (p : Nat) : s.clearWindows p = clearRegs s (windowOffs p) := by
  rw [clearRegs, windowOffs, List.foldl_append, List.foldl_flatMap]
  rfl

theorem mem_windowOffs {off : Nat} : off ∈ windowOffs p ↔
    (∃ w < 16, off = R.GLB_HWIN_BASE.at p w ∨ off = R.GLB_HWIN_SIZE.at p w) ∨ off = R.GLB_APERTURE.at p := by
  simp [windowOffs]

/-- The windows of the other port lie elsewhere. -/
theorem windowOffs_apart (hp : p < 2) {off : Nat} (h : off ∈ windowOffs (1 - p)) : off ∉ windowOffs p := by
  rw [mem_windowOffs] at h ⊢
  simp only [Reg.at, R.GLB_HWIN_BASE, R.GLB_HWIN_SIZE, R.GLB_APERTURE] at h ⊢
  rintro (⟨k, hk, hoff⟩ | hoff) <;> obtain ⟨w, hw, h⟩ | h := h <;> omega

theorem clearWindows_own {off : Nat} (h : off ∈ windowOffs p) : (s.clearWindows p).reg off = 0 := by
  rw [clearWindows_eq, clearRegs_reg, if_pos h]

theorem clearWindows_other {off : Nat} (hp : p < 2) (h : off ∈ windowOffs (1 - p)) : (s.clearWindows p).reg off = s.reg off := by
  rw [clearWindows_eq, clearRegs_reg, if_neg (windowOffs_apart hp h)]

end Windows

section Pending

variable {s : State} {p : Nat}

theorem port_setPort_self (x : PortSt) : (s.setPort p x).port p = x := by
  unfold State.setPort State.port
  split <;> rfl

/-- A pending vector sent where it is unmasked. -/
def sendOnePending (p : Nat) (s : State) (v : Nat) : State :=
  if (s.port p).masked v then s
  else (s.setPort p { s.port p with pendingBits := sremove (s.port p).pendingBits v }).emit (.vector (Fin.ofNat 2 p) v)

theorem sendPending_eq (s : State) (p : Nat) : s.sendPending p = (s.port p).pendingBits.foldl (sendOnePending p) s := rfl

theorem sendOnePending_port (v : Nat) : (sendOnePending p s v).port p =
    { s.port p with pendingBits := (s.port p).pendingBits.filter (fun u => u != v || (s.port p).masked u) } := by
  unfold sendOnePending
  split
  · next h =>
    have hall : (s.port p).pendingBits.filter (fun u => u != v || (s.port p).masked u) = (s.port p).pendingBits :=
      List.filter_eq_self.2 fun u _ => by
        by_cases hu : u = v
        · simp [hu, h]
        · simp [hu]
    rw [hall]
  · next h =>
    have hrest (u : Nat) : (u != v || (s.port p).masked u) = (u != v) := by
      by_cases hu : u = v
      · simp [hu, h]
      · simp [hu]
    simp only [hrest]
    exact port_setPort_self _

theorem sendPendings_port (vs : List Nat) : (vs.foldl (sendOnePending p) s).port p =
    { s.port p with pendingBits := (s.port p).pendingBits.filter (fun u => !vs.contains u || (s.port p).masked u) } := by
  induction vs generalizing s with
  | nil => simp
  | cons v vs ih =>
    have hmask (bs : List Nat) (u : Nat) : ({ s.port p with pendingBits := bs } : PortSt).masked u = (s.port p).masked u := rfl
    rw [List.foldl_cons, ih, sendOnePending_port]
    simp only [hmask, List.filter_filter]
    congr 2
    funext u
    by_cases hu : u = v
    · simp only [hu, List.contains_cons, BEq.rfl, bne_self_eq_false, Bool.true_or, Bool.not_true, Bool.false_or]
      cases (s.port p).masked v <;> simp
    · simp [hu]

/-- The two states differ in their ports and in what has left the device alone. -/
def PortsOnly (s t : State) : Prop := t = { s with portA := t.portA, portB := t.portB, out := t.out }

theorem PortsOnly.trans {t u : State} (h : PortsOnly s t) (k : PortsOnly t u) : PortsOnly s u := by
  unfold PortsOnly at *
  rw [k, h]

theorem portsOnly_sendOnePending (v : Nat) : PortsOnly s (sendOnePending p s v) := by
  unfold PortsOnly sendOnePending
  split
  · rfl
  · unfold State.setPort
    split <;> rfl

theorem portsOnly_sendPending (s : State) (p : Nat) : PortsOnly s (s.sendPending p) :=
  List.foldlRecOn (motive := PortsOnly s) _ _ rfl fun _ ht v _ => ht.trans (portsOnly_sendOnePending v)

theorem sendPending_port (s : State) (p : Nat) : (s.sendPending p).port p =
    { s.port p with pendingBits := (s.port p).pendingBits.filter (fun u => (s.port p).masked u) } := by
  rw [sendPending_eq, sendPendings_port]
  have h : (s.port p).pendingBits.filter (fun u => !(s.port p).pendingBits.contains u || (s.port p).masked u) =
      (s.port p).pendingBits.filter (fun u => (s.port p).masked u) := List.filter_congr fun u hu => by simp [hu]
  rw [h]

end Pending

section Aperture

variable {s : State} {p : PortId} {off : BitVec 36} {bs : List Byte} {a : Nat} {wr : Bool}

theorem aperture_denied (ha : a = s.f F.GLB_APERTURE_BASE p.val * 2 ^ 30 + off.toNat)
    (h : s.fb F.GLB_APERTURE_VALID p.val = false ∨ s.apertureAllows (s.f F.GLB_APERTURE_JOB p.val) a bs.length = false) :
    exec (.apertureAccess p off wr bs) s = .next (if wr then s.count F.GLB_PORT_STAT_APER_DENY p.val
      else (s.count F.GLB_PORT_STAT_APER_DENY p.val).emit (.readData (.port p) false (List.replicate bs.length 0#8))) := by
  subst ha
  have hno : (!(s.fb F.GLB_APERTURE_VALID p.val && s.apertureAllows (s.f F.GLB_APERTURE_JOB p.val)
      (s.f F.GLB_APERTURE_BASE p.val * 2 ^ 30 + off.toNat) bs.length)) = true := by
    rcases h with h | h <;> rw [h]
    · rfl
    · rw [Bool.and_false]
      rfl
  exact congrArg Host.Outcome.next (if_pos hno)

theorem aperture_admitted (ha : a = s.f F.GLB_APERTURE_BASE p.val * 2 ^ 30 + off.toNat) (hv : s.fb F.GLB_APERTURE_VALID p.val = true)
    (h : s.apertureAllows (s.f F.GLB_APERTURE_JOB p.val) a bs.length = true) :
    exec (.apertureAccess p off wr bs) s = .next (if regionOf a = Region.plain then
        if !wr then s.aperturePlain p.val a bs.length [] 0
        else if a % 64 ≠ 0 ∨ bs.length % 64 ≠ 0 then s.aperturePlain p.val a bs.length bs 1
        else (s.store a bs).aperturePlain p.val a bs.length bs 2
      else if wr then (s.store a bs).countLines true a bs.length
      else (s.countLines false a bs.length).emit (.readData (.port p) (s.poisoned a bs.length) (s.bytes a bs.length))) := by
  subst ha
  exact congrArg Host.Outcome.next (if_neg (by rw [hv, h]; decide))

end Aperture

/-- Settles O50: the aperture's access is admitted or not, the windows are registers that are cleared, and of the pending vectors the masked
ones stay. -/
theorem portEventsTakeEffect : Obligations.PortEventsTakeEffect := by
  unfold Obligations.PortEventsTakeEffect
  refine ⟨?events, ?idle, ?windows, ?returns, fun s p => ⟨rfl, rfl⟩, ?denied, ?lines, ?plain, fun s p k => ⟨rfl, rfl⟩, ?pending⟩
  case events =>
    intro s p c cause hc
    simp only [List.mem_cons, List.not_mem_nil, or_false, Prod.mk.injEq] at hc
    obtain ⟨rfl, rfl⟩ | ⟨rfl, rfl⟩ | ⟨rfl, rfl⟩ | ⟨rfl, rfl⟩ := hc
    all_goals rfl
  case idle =>
    intro s p cause h
    have hno : (!s.power.good || s.portLost p) = true := by rcases h with h | h <;> simp [h]
    exact if_pos hno
  case windows =>
    intro s p hp
    have hsize (p w : Nat) (hw : w < 16) : R.GLB_HWIN_SIZE.at p w ∈ windowOffs p := mem_windowOffs.2 (.inl ⟨w, hw, .inr rfl⟩)
    have hbase (p w : Nat) (hw : w < 16) : R.GLB_HWIN_BASE.at p w ∈ windowOffs p := mem_windowOffs.2 (.inl ⟨w, hw, .inl rfl⟩)
    have haperture (p : Nat) : R.GLB_APERTURE.at p ∈ windowOffs p := mem_windowOffs.2 (.inr rfl)
    have hzero (x : Field) (i j : Nat) (h : x.reg.at i j ∈ windowOffs p) : (s.clearWindows p).fb x i j = false := by
      rw [State.fb, State.f, State.r, clearWindows_own h, bitsOf_zero]
      rfl
    refine ⟨fun w hw => ⟨hzero _ _ _ (hsize p w hw), clearWindows_other hp (hsize _ w hw), clearWindows_other hp (hbase _ w hw)⟩,
      hzero _ _ _ (haperture p), clearWindows_other hp (haperture _), ?_⟩
    rw [clearWindows_eq]
    exact clearRegs_rest _
  case returns =>
    rintro s v p speed width rfl
    rfl
  case denied =>
    intro s p off bs a ha h
    exact ⟨aperture_denied ha h, aperture_denied ha h⟩
  case lines =>
    intro s p off bs a ha hv h hr
    exact ⟨(aperture_admitted ha hv h).trans (congrArg Host.Outcome.next (if_neg hr)),
      (aperture_admitted ha hv h).trans (congrArg Host.Outcome.next (if_neg hr))⟩
  case plain =>
    intro s p off bs a ha hv h hr
    exact (aperture_admitted ha hv h).trans (congrArg Host.Outcome.next (if_pos hr))
  case pending =>
    intro s p _
    rw [sendPending_port]
    refine ⟨fun v hv => (List.mem_filter.1 hv).2, fun v hv hm => List.mem_filter.2 ⟨hv, hm⟩, portsOnly_sendPending s p⟩

end Sys2Proof.Proofs
end

section
/-! Management sessions (R505, R509, R569, R571): the statement about how they open and end. -/

namespace Sys2Proof.Proofs

open Sys2Proof.Machine Sys2Proof.Laws

section Outside

variable {s v : State} {h : MgmtHdr} {op : Nat} {payload : List Byte}

/-- A request outside a session that needs none is carried out and answered there. -/
theorem request_outside (hz : h.session = 0) (ho : s.transportOpen h.transport.val = true) (hv : s.takeAllowance h.transport.val = some v)
    (hb : (s.f F.SEC_BOOT_STAT_MODE == 2 && !recoveryOpcode op) = false) (f : State → Option Nat → State × Answer) :
    s.request h op none payload f = (f v none).1.answerOutside h op (f v none).2 := by
  unfold State.request
  simp only [ho, hv, hz, hb, Bool.not_true, Bool.false_eq_true, if_false, if_true, Option.isSome_none, Bool.or_self]

theorem recovery_notBarred (h : recoveryOpcode op = true) : (s.f F.SEC_BOOT_STAT_MODE == 2 && !recoveryOpcode op) = false := by
  rw [h, Bool.not_true, Bool.and_false]

/-- A control message within the transport's allowance. -/
theorem control_open {t command : Nat} (ho : s.transportOpen t = true) (hv : s.takeAllowance t = some v) (f : State → State)
    (data : State → List Byte) :
    s.control t command f data = (f v).emit (.mgmt t ([0#8, 0#8, BitVec.ofNat 8 command, 0#8] ++ data (f v))) := by
  unfold State.control
  rw [if_neg (by rw [ho]; decide), hv]

end Outside

section Roles

variable {s : State} {r : Nat} {y : Session}

theorem openSession_eq (w : State) (r : Nat) : w.openSession r =
    if w.fb F.SEC_ROLE_LOCKED r then (w, some (.denied, []))
    else if (w.role r).session.isSome then (w, some (.conflict, []))
    else (w.drawn.setRole r { w.drawn.role r with nonce := some (shake256 (leBytes 32 w.free) 32, w.now) },
      some (.ok, shake256 (leBytes 32 w.free) 32)) := rfl

theorem authSession_eq {w : State} {h : MgmtHdr} {payload nonce : List Byte} {n since : Nat} (hs : (w.role r).session = none)
    (hn : (w.role r).nonce = some (nonce, since)) (hl : lifetimeOf (leNat (slice payload 4 4)) = some n) :
    w.authSession h r payload =
      if slice payload 40 32 = sessionProof (w.roleKey r) nonce (authHdr h r (slice payload 4 4)) (slice payload 8 32) then
        ((w.dropNonce r).startSession h r n nonce (slice payload 8 32), none)
      else ((w.dropNonce r).authFailure r, some (.denied, [])) := by
  unfold State.authSession
  rw [if_neg (by rw [hs]; decide), hn]
  dsimp only
  rw [hl]
  rfl

/-! ## Lockouts -/

theorem lockoutEnd_over (k : RoleId) (hl : s.fb F.SEC_ROLE_LOCKED k.val = true) (ht : (s.r R.SEC_ROLE_TIME k.val).toNat ≤ s.now) :
    exec (.lockoutEnd k) s = .next (s.unlockRole k.val) :=
  congrArg Host.Outcome.next (if_pos (by rw [State.lockOver, hl, decide_eq_true ht]; rfl))

theorem roleTime_ne (r k : Nat) : R.SEC_ROLE_TIME.at r ≠ R.SEC_ROLE.at k := by
  simp only [Reg.at, R.SEC_ROLE_TIME, R.SEC_ROLE]
  omega

/-- The role's word of a lockout that ends, before its time is cleared. -/
def unlockedWord (s : State) (r : Nat) : State :=
  let u := (s.setF F.SEC_ROLE_LOCKED 0 r).setF F.SEC_ROLE_FAILS 0 r
  u.setF F.SEC_ROLE_LEVEL (min 10 (u.f F.SEC_ROLE_LEVEL r + 1)) r

theorem unlockRole_eq (s : State) (r : Nat) : s.unlockRole r = (unlockedWord s r).setR R.SEC_ROLE_TIME 0 r := rfl

theorem unlockRole_f (s : State) (r : Nat) {x : Field} (hx : x.reg = R.SEC_ROLE) : (s.unlockRole r).f x r = (unlockedWord s r).f x r := by
  rw [unlockRole_eq, f_setR_ne _ _ (by rw [hx]; exact roleTime_ne r r)]

theorem unlockRole_locked (s : State) (r : Nat) : (s.unlockRole r).f F.SEC_ROLE_LOCKED r = 0 := by
  rw [unlockRole_f s r rfl, unlockedWord, f_setF_apart (x := F.SEC_ROLE_LEVEL) (y := F.SEC_ROLE_LOCKED) _ _ _ _ rfl (by decide),
    f_setF_apart (x := F.SEC_ROLE_FAILS) (y := F.SEC_ROLE_LOCKED) _ _ _ _ rfl (by decide), f_setF_self _ _ _ _ _ (by decide)]
  rfl

theorem unlockRole_fails (s : State) (r : Nat) : (s.unlockRole r).f F.SEC_ROLE_FAILS r = 0 := by
  rw [unlockRole_f s r rfl, unlockedWord, f_setF_apart (x := F.SEC_ROLE_LEVEL) (y := F.SEC_ROLE_FAILS) _ _ _ _ rfl (by decide),
    f_setF_self _ _ _ _ _ (by decide)]
  rfl

theorem unlockRole_level (s : State) (r : Nat) : (s.unlockRole r).f F.SEC_ROLE_LEVEL r = min 10 (s.f F.SEC_ROLE_LEVEL r + 1) := by
  rw [unlockRole_f s r rfl, unlockedWord, f_setF_self _ _ _ _ _ (by decide),
    f_setF_apart (x := F.SEC_ROLE_FAILS) (y := F.SEC_ROLE_LEVEL) _ _ _ _ rfl (by decide),
    f_setF_apart (x := F.SEC_ROLE_LOCKED) (y := F.SEC_ROLE_LEVEL) _ _ _ _ rfl (by decide)]
  exact Nat.mod_eq_of_lt (by have := Nat.min_le_left 10 (s.f F.SEC_ROLE_LEVEL r + 1); show _ < 16; omega)

theorem unlockRole_regs (s : State) (r : Nat) : SameRegsBut s (s.unlockRole r) [R.SEC_ROLE.at r, R.SEC_ROLE_TIME.at r] :=
  sameRegs_setR (sameRegs_setF (sameRegs_setF (sameRegs_setF (sameRegs_refl s _) _ _ _ _ (by simp [F.SEC_ROLE_LOCKED])) _ _ _ _
    (by simp [F.SEC_ROLE_FAILS])) _ _ _ _ (by simp [F.SEC_ROLE_LEVEL])) _ _ _ _ (by simp)

/-! ## The end of a session -/

theorem sessionAnswer_rest (s : State) (r tag mseq op status : Nat) (payload : List Byte) :
    Reports s (s.sessionAnswer r tag mseq op status payload) := by
  unfold State.sessionAnswer
  split <;> rfl

/-- A transaction rolled back is gone, and what answers it leaves the others and the sessions. -/
theorem rollback_reports (s : State) (h : Nat) (st : Status) (d : W64) :
    Reports { s with txs := s.txs.filter (fun u => u.handle != h) } (s.rollback h st d) := by
  unfold State.rollback
  split
  · next hn =>
    have hall : s.txs.filter (fun u => u.handle != h) = s.txs := by
      refine List.filter_eq_self.2 fun u hu => ?_
      have := List.find?_eq_none.1 hn u hu
      simpa using this
    rw [hall]
    exact Reports.refl s
  · refine .ite ?_ (Reports.refl _)
    split
    · exact (Reports.refl _).finishFlight
    · exact sessionAnswer_rest ..

theorem rollback_txs (s : State) (h : Nat) (st : Status) (d : W64) : (s.rollback h st d).txs = s.txs.filter (fun u => u.handle != h) := by
  rw [rollback_reports s h st d]

theorem rollback_role (s : State) (h : Nat) (st : Status) (d : W64) (r : Nat) : (s.rollback h st d).role r = s.role r := by
  rw [rollback_reports s h st d]
  rfl

theorem rollbacks_txs (ts : List Tx) (s : State) :
    ∀ t ∈ (ts.foldl (fun s t => s.rollback t.handle .txAborted) s).txs, t ∈ s.txs ∧ ∀ x ∈ ts, t.handle ≠ x.handle := by
  induction ts generalizing s with
  | nil => simp
  | cons x xs ih =>
    intro t ht
    obtain ⟨hm, hne⟩ := ih _ t ht
    rw [rollback_txs, List.mem_filter] at hm
    exact ⟨hm.1, List.forall_mem_cons.2 ⟨by simpa using hm.2, hne⟩⟩

theorem rollbacks_role (ts : List Tx) (s : State) (r : Nat) :
    (ts.foldl (fun s t => s.rollback t.handle .txAborted) s).role r = s.role r :=
  List.foldlRecOn (motive := fun t : State => t.role r = s.role r) _ _ rfl fun _ ht _ _ => (rollback_role ..).trans ht

theorem role_setRole_self (x : RoleSt) (h : r < s.mgmt.roles.length) : (s.setRole r x).role r = x := by
  simp [State.role, State.setRole, nth, setNth, h]

theorem endSession_role (h : r < s.mgmt.roles.length) : ((s.endSession r).role r).session = none := by
  unfold State.endSession
  dsimp only
  rw [rollbacks_role, role_setRole_self _ h]

theorem endSession_txs : ∀ t ∈ (s.endSession r).txs, t.opener ≠ .session r := by
  intro t ht he
  obtain ⟨hm, hne⟩ := rollbacks_txs _ _ t ht
  exact hne t (List.mem_filter.2 ⟨hm, decide_eq_true he⟩) rfl

end Roles

/-- Settles O51: a control message or a request passes its transport, and a role's nonce, session and lockout decide what it does. -/
theorem sessionsOpenAndEnd : Obligations.SessionsOpenAndEnd := by
  unfold Obligations.SessionsOpenAndEnd
  refine ⟨fun s a => rfl, ?control, ?opens, ?auth, ?closes, ?heartbeat, ?limits, ?nonce, ?lockout, ?ends⟩
  case control =>
    intro s v t ho hv
    exact ⟨fun eid => congrArg Host.Outcome.next (control_open ho hv _ _), congrArg Host.Outcome.next (control_open ho hv _ _),
      congrArg Host.Outcome.next (control_open ho hv _ _), congrArg Host.Outcome.next (control_open ho hv _ _),
      congrArg Host.Outcome.next (control_open ho hv _ _)⟩
  case opens =>
    intro s v w h payload r n nonce hz ho hv hp hr h2 hl hw hn
    refine congrArg Host.Outcome.next ((request_outside hz ho hv (recovery_notBarred (by decide)) _).trans ?_)
    dsimp only
    rw [← hr, if_neg (by rw [hl]; simp; omega), ← hw, openSession_eq, ← hn]
    split
    · rfl
    · split <;> rfl
  case auth =>
    intro s v w h payload nonce r n since hz ho hv hp hr h2 hw hs hn hl
    refine congrArg Host.Outcome.next ((request_outside hz ho hv (recovery_notBarred (by decide)) _).trans ?_)
    dsimp only
    rw [← hr, if_neg (by omega), ← hw, authSession_eq hs hn hl]
    split <;> rfl
  case closes => exact fun s u h r y ha => congrArg Host.Outcome.next (request_admitted _ ha)
  case heartbeat => exact fun s u h r y ha => congrArg Host.Outcome.next (request_admitted _ ha)
  case limits =>
    intro s r y hy
    refine ⟨fun h => ?_, fun h => ?_⟩
    all_goals
      change Host.Outcome.next _ = _
      rw [hy]
      exact congrArg Host.Outcome.next (if_pos (decide_eq_true h))
  case nonce =>
    intro s r n t hn ht
    refine congrArg Host.Outcome.next (if_pos ?_)
    unfold State.nonceOver
    rw [hn]
    exact decide_eq_true ht
  case lockout =>
    intro s r hl ht
    exact ⟨_, lockoutEnd_over r hl ht, unlockRole_locked s _, unlockRole_fails s _, unlockRole_level s _, r_setR_self .., rfl,
      unlockRole_regs s _⟩
  case ends => exact fun s r hr hn => ⟨endSession_role (hn ▸ hr), endSession_txs⟩

end Sys2Proof.Proofs
end

section
/-! Management requests (R506, R507, R509): the statement about what each opcode does. -/

namespace Sys2Proof.Proofs

open Sys2Proof.Machine Sys2Proof.Laws

section Requests

variable {s u v : State} {h : MgmtHdr} {op r : Nat} {payload : List Byte} {y : Session} {t : Tx}

theorem request_dropped {need : Option Nat} (ho : s.transportOpen h.transport.val = true) (hn : s.takeAllowance h.transport.val = none)
    (f : State → Option Nat → State × Answer) : s.request h op need payload f = s.count F.GLB_BOARD_MGMT_DROPS := by
  unfold State.request
  dsimp only
  rw [if_neg (by rw [ho]; decide), hn]

/-- A request of a role that is less than its opcode needs is `DENIED` in its session. -/
theorem request_lesser {need : Nat} (ho : s.transportOpen h.transport.val = true) (hv : s.takeAllowance h.transport.val = some v)
    (hz : h.session ≠ 0) (hg : v.gate h op payload = (u, .inside r y)) (hr : need < r) (f : State → Option Nat → State × Answer) :
    s.request h op (some need) payload f = u.answerInside h y op (some (.denied, [])) := by
  have hless : (s.f F.SEC_BOOT_STAT_MODE == 2 && !recoveryOpcode op || decide ((some need).getD 2 < r)) = true := by
    rw [Option.getD_some, decide_eq_true hr, Bool.or_true]
  unfold State.request
  dsimp only
  rw [if_neg (by rw [ho]; decide), hv]
  dsimp only
  rw [if_neg hz, hg]
  exact if_pos hless

theorem getInfo_undefined {p : List Byte} {c : Byte} (hd : definedMgmt c.toNat = false) :
    exec (.getInfo h c p) s = .next (s.request h c.toNat none p fun s _ => (s, some (.badCommand, []))) := by
  have hne : c.toNat ≠ 0x01 := fun e => absurd (hd.symm.trans (congrArg definedMgmt e)) (by decide)
  exact congrArg Host.Outcome.next ((if_neg hne).trans (if_neg (by rw [hd]; decide)))

/-- The transaction of a session. -/
theorem sessionTx_some (ht : u.txs.find? (fun t => t.opener = .session r) = some t) : u.sessionTx (some r) = some t := ht

theorem beginCommit_valid {n : Nat} (h : u.validate t = none) :
    u.beginCommit t n = .ok (u.setTx { t with committing := true, since := u.now, commitSeq := n }) := by
  unfold State.beginCommit
  rw [h]

theorem beginCommit_refused {n : Nat} {st : Status} {d : W64} (h : u.validate t = some (st, d)) :
    u.beginCommit t n = .error (u.rollback t.handle st d, st, d) := by
  unfold State.beginCommit
  rw [h]

/-- An admitted request whose opcode leaves `w` and the answer `x`. -/
theorem admitted_answers {need : Option Nat} {w : State} {x : Answer} {f : State → Option Nat → State × Answer}
    (ha : Admitted s h op need payload u r y) (hf : f u (some r) = (w, x)) : s.request h op need payload f = w.answerInside h y op x := by
  rw [request_admitted _ ha, hf]

/-- The rolling update of the cores begun by a message (R549). -/
def rollBegun (v : State) (h : MgmtHdr) : State :=
  (({ v with mgmt := { v.mgmt with roll := some { done := 0, since := v.now, hdr := h } } } : State).setF F.FLT_FW_STAT_ROLL 1).setF
    F.FLT_FW_STAT_ROLL_CORE 3

end Requests

/-- Settles O52: a request is dropped, denied or admitted, and what each opcode does is the one branch that its conditions leave. -/
theorem managementRequestsAreAnswered : Obligations.ManagementRequestsAreAnswered := by
  unfold Obligations.ManagementRequestsAreAnswered
  refine ⟨fun s h op need payload f ho hn => request_dropped ho hn f,
    fun s v u h op r need payload f y ho hv hz hg hr => request_lesser ho hv hz hg hr f, ?info, ?undefinedOp, ?regRead, ?regWrite, ?txBegin,
    ?txSet, ?commit, ?abort, ?faultLog, fun s u h r y ha => congrArg Host.Outcome.next (request_admitted _ ha), ?attest, ?stage, ?activate,
    ?calibrate⟩
  case info =>
    exact fun s v h p hz ho hv => congrArg Host.Outcome.next ((if_pos rfl).trans
      (request_outside hz ho hv (recovery_notBarred (by decide)) _))
  case undefinedOp =>
    intro s v h op p hz ho hv hm hd
    rw [getInfo_undefined hd, request_outside hz ho hv (by rw [beq_false_of_ne hm, Bool.false_and])]
  case regRead =>
    intro s u h os r y ha hl
    exact congrArg Host.Outcome.next (admitted_answers ha (if_neg (Nat.not_lt.2 hl)))
  case regWrite =>
    intro s u h off v r y x i j ha hx
    refine congrArg Host.Outcome.next ((request_admitted _ ha).trans ?_)
    rw [hx]
    dsimp only
    split <;> rfl
  case txBegin =>
    intro s u h timeout r y ha ht
    refine congrArg Host.Outcome.next ((request_admitted _ ha).trans ?_)
    rw [if_neg (by simp [ht])]
    split <;> rfl
  case txSet =>
    intro s u h es r y t ha ht hc hl
    refine congrArg Host.Outcome.next (admitted_answers ha ?_)
    rw [sessionTx_some ht]
    dsimp only
    rw [if_neg (by rw [hc]; decide), if_neg (Nat.not_lt.2 hl)]
  case commit =>
    intro s u h r y t ha ht hc
    refine ⟨fun hv => congrArg Host.Outcome.next ?_, fun st d hv => congrArg Host.Outcome.next ?_⟩
    · refine (admitted_answers ha (w := u.setTx { t with tag := h.tag, committing := true, since := u.now, commitSeq := h.mseq.toNat })
        (x := none) ?_).trans rfl
      rw [sessionTx_some ht]
      dsimp only
      rw [if_neg (by rw [hc]; decide), beginCommit_valid hv]
    · refine admitted_answers ha ?_
      rw [sessionTx_some ht]
      dsimp only
      rw [if_neg (by rw [hc]; decide), beginCommit_refused hv]
  case abort =>
    intro s u h r y t ha ht
    refine congrArg Host.Outcome.next (admitted_answers ha ?_)
    rw [sessionTx_some ht]
  case faultLog =>
    intro s u h k r y ha hk
    exact congrArg Host.Outcome.next (admitted_answers ha (if_neg (Nat.not_le.2 hk)))
  case attest =>
    intro s u h nonce r y z ha hn hz
    refine congrArg Host.Outcome.next ((admitted_answers ha (w := State.sendParts 52 u.drawn h z (u.attestReport nonce ++ padTo 49856
      (Config.slhSign (ascii ['F', 'Z', '2', ' ', 'A', 'T', 'T', 'E', 'S', 'T']) (u.attestReport nonce) u.freeCtr))) (x := none) ?_).trans
      rfl)
    rw [if_neg (by simp [hn]), Option.bind_some, hz]
  case stage =>
    intro s u h off bs r y ha hr hl
    refine congrArg Host.Outcome.next (admitted_answers ha ?_)
    rw [if_neg (by rw [hr]; decide), if_neg (Nat.not_lt.2 hl)]
  case activate =>
    rintro s u h r y v ha hr rfl
    have hnone : ¬ u.mgmt.roll.isSome = true := by rw [hr]; decide
    refine ⟨fun hx => congrArg Host.Outcome.next ?_, fun hx hm hb => congrArg Host.Outcome.next ?_,
      fun hx hm => congrArg Host.Outcome.next ?_⟩
    · refine admitted_answers ha ?_
      dsimp only
      rw [if_neg hnone, if_pos hx]
    · refine (admitted_answers ha (w := rollBegun (u.showFail (!u.fw.activeB) (u.fwCheck (!u.fw.activeB) false)) h) (x := none) ?_).trans rfl
      dsimp only
      rw [if_neg hnone, if_neg (not_not.2 hx), if_neg hm, if_neg (by rw [hb]; decide)]
      rfl
    · refine admitted_answers ha ?_
      dsimp only
      rw [if_neg hnone, if_neg (not_not.2 hx), if_pos hm]
  case calibrate =>
    intro s u h k e r y ha hk
    refine congrArg Host.Outcome.next (admitted_answers ha ?_)
    obtain ⟨rfl, hs, he⟩ | ⟨rfl, hl, he⟩ := hk
    · rw [if_pos ⟨rfl, he⟩, if_pos hs]
    · rw [if_neg (by omega), if_pos ⟨rfl, he⟩, if_pos hl]

end Sys2Proof.Proofs
end

section
/-! A recalibration of a channel and the data-mover records on it (R529, R548): the statement about recoveries. -/

namespace Sys2Proof.Proofs

open Sys2Proof.Machine Sys2Proof.Laws

/-- A `FILL` of one list entry at virtual address 0x1000. -/
def fillOnChannel : Flight :=
  { seq := 0, cmd := Rec.ofWords [0x11, 0, 0, 0x1000, 0, 1, 0, 0], start := 0, entry := 0, bytes := 0, phase := 0, fail := none
    degraded := false }

/-- Virtual address 0 in the Basin, as one leaf of a gigabyte for reading and writing. -/
def basinLeaf : W64 := setBits 0x1E4F 13 51 (basinBase / 4096)

/-- Channel 1 is queued for its recalibration, and queue 0 fills 64 bytes at 0x200 of the Basin, which lie on channel 1. -/
def channelQueued : State :=
  let s : State := { State.reset with
    cal := { State.reset.cal with queued := [(0, 1)] }
    frames := { State.reset.frames with
      pages := [(0, { tables := [(tableKey 2 0, basinBase + 0x100000)], entries := [(entryKey 2 0, basinLeaf)] })] } }
  let s := ((s.setF F.SEC_BOOT_STAT_MODE 1).setF F.TR_CTX_ROOT_VALID 1).store (basinBase + 0x1000)
    (wordsBytes [0x200, 0x1000010, 1, 0])
  s.setQueue 0 { s.queue 0 with flights := [fillOnChannel] }

/-- The record that the recalibration measures. -/
def channelRecord : CalRecord := { kind := 0, element := 1, tj := 0, vdd := 0, load := 0, laser := 0, time := 0 }

/-- Whether the flights of queue 0 will complete `DEGRADED`. -/
def degradedOf (s : State) : List Bool := (s.queue 0).flights.map (fun x => x.degraded)

theorem channelQueued_own : degradedOf (channelQueued.degradeMovers 1) = [true] := by decide +kernel

theorem channelQueued_stack : degradedOf (channelQueued.degradeMovers 0) = [false] := by decide +kernel

/-- A recalibrated channel degrades the movers on that channel. -/
theorem recalibration_channel {s : State} {e : Nat} {x : CalRecord} (hs : s.inService = true) (hq : (0, e) ∈ s.cal.queued)
    (hr : s.fb F.GLB_RATE_BELOW_FLOOR = false) : exec (.recalibration 0 e true x) s =
      .next ((((s.degradeMovers e).dequeueCal 0 e).putRecord { x with kind := 0, element := e }).count F.FLT_CAL_STAT_RECALS) := by
  have hqueued : ¬ ((!s.inService || !s.cal.queued.contains (0, e)) = true) := by
    rw [hs, List.contains_iff_mem.2 hq]
    decide
  have hfloor : ¬ ((decide (0 ≤ 1) && s.fb F.GLB_RATE_BELOW_FLOOR && !s.reportsErrors 0 e) = true) := by
    rw [hr, Bool.and_false]
    exact Bool.false_ne_true
  exact congrArg Host.Outcome.next ((if_neg hqueued).trans (if_neg hfloor))

/-- The counts and the record of a recalibration leave the queues. -/
theorem degradedOf_recorded (s : State) (k e : Nat) (x : CalRecord) (y : Field) :
    degradedOf (((s.dequeueCal k e).putRecord x).count y) = degradedOf s := rfl

/-- Refutes O49: a recalibration degrades the movers on the channel itself, `e`, and the statement names those on channel `e / 16`: with
channel 1 recalibrated, a `FILL` on it completes `DEGRADED`, and the statement leaves it as it is. -/
theorem not_recoveryActionsTakeEffect : ¬ Obligations.RecoveryActionsTakeEffect := by
  intro h
  obtain ⟨-, -, hchannel, -⟩ := h
  have hs : channelQueued.inService = true := by decide +kernel
  have hr : channelQueued.fb F.GLB_RATE_BELOW_FLOOR = false := by decide +kernel
  have hq : (0, 1) ∈ channelQueued.cal.queued := by decide +kernel
  have hstack := (hchannel channelQueued 1 channelRecord hs hq hr).1
  have hflights := congrArg degradedOf (Host.Outcome.next.inj ((recalibration_channel hs hq hr).symm.trans hstack))
  rw [degradedOf_recorded, degradedOf_recorded, channelQueued_own, channelQueued_stack] at hflights
  exact absurd hflights (by decide)

end Sys2Proof.Proofs
end

section
/-! The fuses of R561 but for the key slots. Only an image that is marked active burns them, in `FW_ACTIVATE` and `FW_CORE_READY`; every
other operation of the model leaves them as they are, and has one lemma that says so, in the order of the model: `<operation>_fixed` for an
operation on the state, `<command>_passes` for a command, which answers a next state with the fixed fuses that it found. An operation's
lemma unfolds that operation once, splits along its branches and cites the lemmas of what it calls. -/

namespace Sys2Proof.Machine

/-- The fuses with the key slots left out, which a key rotation burns (R572). -/
def Fuses.fixed (f : Fuses) : Fuses := { f with roleKeys := [], activeSlot := [], slotsUsed := [] }

end Sys2Proof.Machine

namespace Sys2Proof.Proofs.Fixed

open Sys2Proof.Machine Sys2Proof.Laws Sys2Proof.Proofs

/-! ## What it is to leave the fixed fuses as they are -/

@[simp] theorem ite_fixed (c : Prop) [Decidable c] (s t : State) :
    (if c then s else t).fuses.fixed = if c then s.fuses.fixed else t.fuses.fixed := apply_ite (fun z : State => z.fuses.fixed) c s t

@[simp] theorem ite_fst_fixed {α : Type} (c : Prop) [Decidable c] (x y : State × α) :
    (if c then x else y).1.fuses.fixed = if c then x.1.fuses.fixed else y.1.fuses.fixed := apply_ite (fun z => z.1.fuses.fixed) c x y

theorem fixed_of_fuses {s t : State} (h : t.fuses = s.fuses) : t.fuses.fixed = s.fuses.fixed := congrArg Fuses.fixed h

/-- A change of the state that leaves the fixed fuses as they are. -/
def Keeps (f : State → State) : Prop := ∀ t, (f t).fuses.fixed = t.fuses.fixed

@[simp] theorem keeps_iff (f : State → State) : Keeps f ↔ ∀ t, (f t).fuses.fixed = t.fuses.fixed := Iff.rfl

/-- A step of a fold that leaves the fixed fuses as they are. -/
def KeepsEach {α : Type} (f : State → α → State) : Prop := ∀ t x, (f t x).fuses.fixed = t.fuses.fixed

@[simp] theorem keepsEach_iff {α : Type} (f : State → α → State) : KeepsEach f ↔ ∀ t x, (f t x).fuses.fixed = t.fuses.fixed := Iff.rfl

@[simp] theorem foldl_fixed {α : Type} {f : State → α → State} (h : KeepsEach f) (l : List α) (s : State) :
    (l.foldl f s).fuses.fixed = s.fuses.fixed :=
  List.foldlRecOn (motive := fun t : State => t.fuses.fixed = s.fuses.fixed) l f rfl fun t ht x _ => (h t x).trans ht

/-- The same for a step that also answers a value. -/
def KeepsFstEach {α β : Type} (f : State → α → State × β) : Prop := ∀ t x, (f t x).1.fuses.fixed = t.fuses.fixed

@[simp] theorem keepsFstEach_iff {α β : Type} (f : State → α → State × β) :
    KeepsFstEach f ↔ ∀ t x, (f t x).1.fuses.fixed = t.fuses.fixed := Iff.rfl

/-- A step of a fold over a state and a value that leaves the fixed fuses as they are. -/
def KeepsFst {α β : Type} (f : State × β → α → State × β) : Prop := ∀ t x, (f t x).1.fuses.fixed = t.1.fuses.fixed

@[simp] theorem keepsFst_iff {α β : Type} (f : State × β → α → State × β) :
    KeepsFst f ↔ ∀ t x, (f t x).1.fuses.fixed = t.1.fuses.fixed := Iff.rfl

@[simp] theorem foldl_fst_fixed {α β : Type} {f : State × β → α → State × β} (h : KeepsFst f) (l : List α) (x : State × β) :
    (l.foldl f x).1.fuses.fixed = x.1.fuses.fixed :=
  List.foldlRecOn (motive := fun t : State × β => t.1.fuses.fixed = x.1.fuses.fixed) l f rfl fun t ht y _ => (h t y).trans ht

/-- The outcome is a next state, and `p` is its fixed fuses. -/
def Passes (p : Fuses) : Host.Outcome State Fault Refusal → Prop
  | .next t => t.fuses.fixed = p
  | _ => False

@[simp] theorem passes_next (p : Fuses) (t : State) : Passes p (.next t) ↔ t.fuses.fixed = p := Iff.rfl

theorem fixed_of_eq {α : Type} {x : State × α} {t : State} {a : α} {p : Fuses} (e : x = (t, a)) (h : x.1.fuses.fixed = p) :
    t.fuses.fixed = p := by
  rw [e] at h
  exact h

/-- Where the option holds a state, its fixed fuses is `p`. -/
def KeepsOpt (p : Fuses) (o : Option State) : Prop := ∀ t, o = some t → t.fuses.fixed = p

theorem keepsOpt_none (p : Fuses) : KeepsOpt p none := by
  intro t h
  cases h

theorem keepsOpt_some {p : Fuses} {t : State} (h : t.fuses.fixed = p) : KeepsOpt p (some t) := by
  intro u hu
  cases hu
  exact h

theorem keepsOpt_ite {p : Fuses} {c : Prop} [Decidable c] {a b : Option State} (ha : KeepsOpt p a)
    (hb : KeepsOpt p b) : KeepsOpt p (if c then a else b) := by
  split
  · exact ha
  · exact hb

variable (s : State)

/-! ## Shared operations -/

/-! ### What leaves the device -/

@[simp] theorem hostWrite_fixed (p addr : Nat) (bs : List Byte) : (s.hostWrite p addr bs).fuses.fixed = s.fuses.fixed := by
  simp [State.hostWrite]

@[simp] theorem raise_fixed (p v : Nat) : (s.raise p v).fuses.fixed = s.fuses.fixed := by simp [State.raise]

/-! ### Memory (R599, R524) -/

@[simp] theorem storeWord_fixed (a : Nat) (w : W64) : (s.storeWord a w).fuses.fixed = s.fuses.fixed := by simp [State.storeWord]

/-! ## Management messages (R506, R569) -/

@[simp] theorem mgmtSend_fixed (transport : Nat) (key : Option (List Byte)) (body : List Byte) :
    (s.mgmtSend transport key body).fuses.fixed = s.fuses.fixed := rfl

@[simp] theorem setRole_fixed (r : Nat) (x : RoleSt) : (s.setRole r x).fuses.fixed = s.fuses.fixed := rfl

@[simp] theorem sessionAnswer_fixed (r tag mseq op status : Nat) (payload : List Byte) :
    (s.sessionAnswer r tag mseq op status payload).fuses.fixed = s.fuses.fixed := by
  unfold State.sessionAnswer
  split <;> simp

/-! ## Flags, completions, interrupts and the fault log -/

/-! ### Fences (R54, R55) -/

@[simp] theorem signal_fixed (n f value : Nat) (add err clear : Bool) :
    (s.signal n f value add err clear).fuses.fixed = s.fuses.fixed := by
  simp [State.signal]

/-! ### Completion records (R58 to R61) -/

@[simp] theorem cqWrite_fixed (q off : Nat) (bs : List Byte) : (s.cqWrite q off bs).fuses.fixed = s.fuses.fixed := by
  simp [State.cqWrite]

@[simp] theorem queueRaise_fixed (q : Nat) : (s.queueRaise q).fuses.fixed = s.fuses.fixed := by simp [State.queueRaise]

@[simp] theorem moderate_fixed (q : Nat) (now : Bool) : (s.moderate q now).fuses.fixed = s.fuses.fixed := by simp [State.moderate]

@[simp] theorem writeCompletion_fixed (q seq opcode : Nat) (st : Status) (result detail : W64) (now : Bool) :
    (s.writeCompletion q seq opcode st result detail now).fuses.fixed = s.fuses.fixed := by
  simp [State.writeCompletion]

@[simp] theorem recordSignal_fixed (q : Nat) (r : Rec) (st : Status) : (s.recordSignal q r st).fuses.fixed = s.fuses.fixed := by
  simp [State.recordSignal]

@[simp] theorem finish_fixed (q seq : Nat) (r : Rec) (st : Status) (result detail : W64) :
    (s.finish q seq r st result detail).fuses.fixed = s.fuses.fixed := by
  simp [State.finish]

@[simp] theorem cancelUnstarted_fixed (q seq : Nat) (r : Rec) : (s.cancelUnstarted q seq r).fuses.fixed = s.fuses.fixed := by
  simp [State.cancelUnstarted]

@[simp] theorem finishFlight_fixed (q seq : Nat) (st : Status) (result detail : W64) :
    (s.finishFlight q seq st result detail).fuses.fixed = s.fuses.fixed := by
  unfold State.finishFlight
  split <;> simp

/-! ### Transactions: rolling back (R70) -/

@[simp] theorem rollback_fixed (h : Nat) (st : Status) (detail : W64) : (s.rollback h st detail).fuses.fixed = s.fuses.fixed := by
  unfold State.rollback
  repeat' split
  all_goals simp

/-! ### Faults (R520 to R527) -/

@[simp] theorem countLines_fixed (wr : Bool) (a n : Nat) : (s.countLines wr a n).fuses.fixed = s.fuses.fixed := by
  simp [State.countLines]

@[simp] theorem faultVectors_fixed (cls : Nat) : (s.faultVectors cls).fuses.fixed = s.fuses.fixed := by simp [State.faultVectors]

@[simp] theorem writeLog_fixed (code : Nat) (esc : Bool) (d : Domain) (i job : Nat) (cmd : Option (Nat × Nat)) (datum : W64) :
    (s.writeLog code esc d i job cmd datum).fuses.fixed = s.fuses.fixed := by
  simp [State.writeLog]

@[simp] theorem logAs_fixed (code : Nat) (esc : Bool) (d : Domain) (i job : Nat) (cmd : Option (Nat × Nat)) (datum : W64) :
    (s.logAs code esc d i job cmd datum).fuses.fixed = s.fuses.fixed := by
  unfold State.logAs
  dsimp only
  split <;> simp

@[simp] theorem faultRollback_fixed (code : Nat) (d : Domain) (i e : Nat) :
    (s.faultRollback code d i e).fuses.fixed = s.fuses.fixed := by
  simp [State.faultRollback]

@[simp] theorem failDale_fixed (d : Nat) : (s.failDale d).fuses.fixed = s.fuses.fixed := rfl

@[simp] theorem beginRecovery_fixed (d : Domain) (i : Nat) : (s.beginRecovery d i).fuses.fixed = s.fuses.fixed := rfl

@[simp] theorem endRecovery_fixed (d : Domain) (i : Nat) : (s.endRecovery d i).fuses.fixed = s.fuses.fixed := rfl

@[simp] theorem siteUnit_fixed (i : Nat) : (s.siteUnit i).fuses.fixed = s.fuses.fixed := by
  unfold State.siteUnit
  split <;> simp

@[simp] theorem stopDevice_fixed : s.stopDevice.fuses.fixed = s.fuses.fixed := rfl

@[simp] theorem loseStack_fixed (k : Nat) : (s.loseStack k).fuses.fixed = s.fuses.fixed := by simp [State.loseStack]

@[simp] theorem failChannel_fixed (i : Nat) : (s.failChannel i).fuses.fixed = s.fuses.fixed := by simp [State.failChannel]

@[simp] theorem faultOutcome_fixed (code : Nat) (d : Domain) (i : Nat) : (s.faultOutcome code d i).fuses.fixed = s.fuses.fixed := by
  unfold State.faultOutcome
  repeat' split
  all_goals simp

@[simp] theorem fault_fixed (code : Nat) (d : Domain) (i job : Nat) (cmd : Option (Nat × Nat)) (datum : W64) :
    (s.fault code d i job cmd datum).fuses.fixed = s.fuses.fixed := by
  simp [State.fault]

/-! ## Translation and accesses -/

/-! ### Translation entries (R93, R94) -/

@[simp] theorem setPageTable_fixed (n : Nat) (p : PageTable) : (s.setPageTable n p).fuses.fixed = s.fuses.fixed := by
  simp [State.setPageTable]

/-! ### Translation caches (R99) -/

@[simp] theorem tlbFill_fixed (k : Nat) (x : TlbEntry) : (s.tlbFill k x).fuses.fixed = s.fuses.fixed := by simp [State.tlbFill]

@[simp] theorem walkFill_fixed (die n va level log2 : Nat) : (s.walkFill die n va level log2).fuses.fixed = s.fuses.fixed := by
  simp [State.walkFill]

@[simp] theorem lookUp_fixed (k die n va : Nat) : (s.lookUp k die n va).1.fuses.fixed = s.fuses.fixed := by
  unfold State.lookUp
  repeat' split
  all_goals simp

@[simp] theorem lookUps_fixed (k die n va len : Nat) : (s.lookUps k die n va len).1.fuses.fixed = s.fuses.fixed := by
  simp [State.lookUps]

@[simp] theorem xlateFault_fixed (n va reason level : Nat) (wr : Bool) (cmd : Option (Nat × Nat)) :
    (s.xlateFault n va reason level wr cmd).fuses.fixed = s.fuses.fixed := by
  simp [State.xlateFault]

/-! ### Reads and writes through translation -/

@[simp] theorem writePieces_fixed (ps : List Piece) (bs : List Byte) (mark : Bool) :
    (s.writePieces ps bs mark).fuses.fixed = s.fuses.fixed := by
  induction ps generalizing s bs with
  | nil => rfl
  | cons p ps ih =>
    rw [State.writePieces, ih]
    split <;> simp

@[simp] theorem accFault_fixed (n : Nat) (e : AccErr) (cmd : Option (Nat × Nat)) :
    (s.accFault n e cmd).fuses.fixed = s.fuses.fixed := by
  unfold State.accFault
  split <;> simp

/-! ## The queue engine (R40 to R57) -/

/-! ### Windows and seals (R41 to R44) -/

@[simp] theorem reject_fixed (q reason : Nat) : (s.reject q reason).fuses.fixed = s.fuses.fixed := rfl

@[simp] theorem enterRing_fixed (q j : Nat) : (s.enterRing q j).fuses.fixed = s.fuses.fixed := by simp [State.enterRing]

@[simp] theorem enterHeld_fixed (fuel q : Nat) : (State.enterHeld fuel s q).fuses.fixed = s.fuses.fixed := by
  induction fuel generalizing s with
  | zero => rfl
  | succ n ih => simp [State.enterHeld, ih]

@[simp] theorem sealSlot_fixed (q j : Nat) (w : W64) : (s.sealSlot q j w).fuses.fixed = s.fuses.fixed := by simp [State.sealSlot]

theorem windowWord_fixed (q off : Nat) (w : W64) {t : State} (h : s.windowWord q off w = some t) : t.fuses.fixed = s.fuses.fixed := by
  unfold State.windowWord at h
  dsimp only at h
  split at h
  · cases h
  · split at h <;> cases h <;> simp

@[simp] theorem windowWords_fixed (q off : Nat) (ws : List W64) : (s.windowWords q off ws).1.fuses.fixed = s.fuses.fixed := by
  refine foldl_fst_fixed (fun x y => ?_) _ _
  split
  · next h => exact windowWord_fixed _ _ _ _ h
  · rfl

@[simp] theorem windowBytes_fixed (o : Origin) (q off : Nat) (bs : List Byte) :
    (s.windowBytes o q off bs).fuses.fixed = s.fuses.fixed := by
  simp [State.windowBytes]

/-! ### A `ROUTE` that fails before it runs (R351, R376) -/

@[simp] theorem setRoute_fixed (g : Nat) (x : RouteSt) : (s.setRoute g x).fuses.fixed = s.fuses.fixed := rfl

@[simp] theorem dropPlan_fixed (g : Nat) : (s.dropPlan g).fuses.fixed = s.fuses.fixed := rfl

@[simp] theorem discardPlan_fixed (g : Nat) : (s.discardPlan g).fuses.fixed = s.fuses.fixed := rfl

@[simp] theorem routeTurnedAway_fixed (n : Nat) (r : Rec) (st : Status) : (s.routeTurnedAway n r st).fuses.fixed = s.fuses.fixed := by
  simp [State.routeTurnedAway]

@[simp] theorem unrun_fixed (q : Nat) (r : Rec) (st : Status) : (s.unrun q r st).fuses.fixed = s.fuses.fixed := by simp [State.unrun]

@[simp] theorem headDone_fixed (q : Nat) (r : Rec) (st : Status) (detail : W64) :
    (s.headDone q r st detail).fuses.fixed = s.fuses.fixed := by
  simp [State.headDone]

@[simp] theorem headUnfenced_fixed (q : Nat) (r : Rec) : (s.headUnfenced q r).fuses.fixed = s.fuses.fixed := by
  simp [State.headUnfenced]

@[simp] theorem takeHead_fixed (q e : Nat) (r : Rec) : (s.takeHead q e r).fuses.fixed = s.fuses.fixed := by simp [State.takeHead]

/-- The parts of a queue command leave the fixed fuses as it is: its run, and its early checks whether they let
it go on or stop it. -/
structure KeepsSpec (c : CmdSpec) : Prop where
  run : ∀ s q seq r, (c.run s q seq r).fuses.fixed = s.fuses.fixed
  goes : ∀ s q r t, c.early s q r = .ok t → t.fuses.fixed = s.fuses.fixed
  stops : ∀ s q r t d, c.early s q r = .error (t, d) → t.fuses.fixed = s.fuses.fixed

theorem keepsSpec_of {c : CmdSpec} (h : ∀ s q seq r, (c.run s q seq r).fuses.fixed = s.fuses.fixed)
    (he : c.early = fun s _ _ => .ok s) :
    KeepsSpec c :=
  ⟨h, fun _ _ _ _ e => by rw [he] at e; cases e; rfl, fun _ _ _ _ _ e => by rw [he] at e; cases e⟩

theorem startHead_fixed {c : CmdSpec} (h : KeepsSpec c) (q : Nat) (r : Rec) :
    (State.startHead c s q r).fuses.fixed = s.fuses.fixed := by
  simp [State.startHead, h.run]

theorem opWait_fixed {c : CmdSpec} (h : KeepsSpec c) (q : Nat) (r : Rec) : (State.opWait c s q r).fuses.fixed = s.fuses.fixed := by
  simp [State.opWait, startHead_fixed s h]

theorem firstWait_fixed {c : CmdSpec} (h : KeepsSpec c) (q : Nat) (r : Rec) :
    (State.firstWait c s q r).fuses.fixed = s.fuses.fixed := by
  simp [State.firstWait, opWait_fixed s h]

@[simp] theorem poisonedHead_fixed (q : Nat) (r : Rec) : (s.poisonedHead q r).fuses.fixed = s.fuses.fixed := by
  simp [State.poisonedHead]

theorem headStep_fixed {c : CmdSpec} (h : KeepsSpec c) (q : Nat) (r : Rec) :
    (State.headStep c s q r).fuses.fixed = s.fuses.fixed := by
  unfold State.headStep
  split
  · split
    · simp
    · split
      · simp
      · split
        · simp
        · split
          · simp
          · split
            · simp
            · split
              · next e => simp [h.stops _ _ _ _ _ e]
              · next e => simp [firstWait_fixed _ h, h.goes _ _ _ _ e]
  · exact startHead_fixed s h q r
  · rfl

@[simp] theorem queueCommand_fixed {c : CmdSpec} (h : KeepsSpec c) (kind : Rec → Bool) (q : Nat) :
    (State.queueCommand c kind s q).fuses.fixed = s.fuses.fixed := by
  unfold State.queueCommand
  split
  · rfl
  · simp [headStep_fixed s h]

/-! ### NOP, FENCE_SIGNAL, FENCE_WAIT -/

@[simp] theorem specNop_keeps : KeepsSpec specNop := keepsSpec_of (by simp [specNop, CmdSpec.plain]) rfl

@[simp] theorem specFenceSignal_keeps : KeepsSpec specFenceSignal := keepsSpec_of (by simp [specFenceSignal, CmdSpec.plain]) rfl

@[simp] theorem specFenceWait_keeps : KeepsSpec specFenceWait := keepsSpec_of (by simp [specFenceWait, CmdSpec.plain]) rfl

@[simp] theorem undefinedHead_fixed (q : Nat) (r : Rec) : (s.undefinedHead q r).fuses.fixed = s.fuses.fixed := by
  simp [State.undefinedHead]

@[simp] theorem execWindowWrite_passes (o : Origin) (q : QId) (off : BitVec 18) (bs : List Byte) :
    Passes s.fuses.fixed (execWindowWrite o q off bs s) := by
  simp [execWindowWrite]

@[simp] theorem execSeal_passes (o : Origin) (q : QId) (slot : BitVec 12) (w : W64) :
    Passes s.fuses.fixed (execSeal o q slot w s) := by
  simp [execSeal]

@[simp] theorem execNop_passes (q : QId) : Passes s.fuses.fixed (execNop q s) := by
  unfold execNop
  split <;> simp

@[simp] theorem execFenceSignal_passes (q : QId) : Passes s.fuses.fixed (execFenceSignal q s) := by
  simp [execFenceSignal]

@[simp] theorem execFenceWait_passes (q : QId) : Passes s.fuses.fixed (execFenceWait q s) := by
  simp [execFenceWait]

@[simp] theorem execWaitTimeout_passes (q : QId) : Passes s.fuses.fixed (execWaitTimeout q s) := by
  unfold execWaitTimeout
  split <;> simp

@[simp] theorem execIrqDelayExpiry_passes (q : QId) : Passes s.fuses.fixed (execIrqDelayExpiry q s) := by
  simp [execIrqDelayExpiry]

end Sys2Proof.Proofs.Fixed

end

section
/-! The fuses that only an image marked active burns, continued: `MAP`, `UNMAP` and migration (R51, R94 to R102) and what follows. -/

namespace Sys2Proof.Proofs.Fixed

open Sys2Proof.Machine Sys2Proof.Laws Sys2Proof.Proofs

variable (s : State)

/-! ## `MAP`, `UNMAP` and migration (R51, R94 to R102) -/

/-! ### Frames: what an entry covers, who owns what -/

@[simp] theorem releaseFrames_fixed (n : Nat) : (s.releaseFrames n).fuses.fixed = s.fuses.fixed := rfl

/-! ### Changing tables -/

@[simp] theorem setMig_fixed (l : List MigPage) : (s.setMig l).fuses.fixed = s.fuses.fixed := rfl

@[simp] theorem buildTable_fixed (n key : Nat) (avoid : Nat → Bool) : (s.buildTable n key avoid).fuses.fixed = s.fuses.fixed := by
  unfold State.buildTable
  repeat' split
  all_goals simp

@[simp] theorem dropMig_fixed (n : Nat) : (s.dropMig n).fuses.fixed = s.fuses.fixed := rfl

/-! ### MAP (R51, R96) -/

@[simp] theorem runUnmap_fixed (q seq : Nat) (r : Rec) : (s.runUnmap q seq r).fuses.fixed = s.fuses.fixed := by simp [State.runUnmap]

@[simp] theorem mapPage_fixed (n : Nat) (e : W64) (va g : Nat) (avoid : Nat → Bool) :
    (s.mapPage n e va g avoid).fuses.fixed = s.fuses.fixed := by
  unfold State.mapPage
  dsimp only
  repeat' split
  all_goals simp

@[simp] theorem runMap_fixed (q seq : Nat) (r : Rec) : (s.runMap q seq r).fuses.fixed = s.fuses.fixed := by simp [State.runMap]

@[simp] theorem specMap_keeps : KeepsSpec specMap := keepsSpec_of (by simp [specMap]) rfl

@[simp] theorem execMap_passes (q : QId) : Passes s.fuses.fixed (execMap q s) := by
  simp [execMap]

@[simp] theorem execUnmap_passes (q : QId) : Passes s.fuses.fixed (execUnmap q s) := by
  simp [execUnmap]

/-! ### Migration (R100 to R102) -/

@[simp] theorem updMig_fixed (n va : Nat) (f : MigPage → MigPage) : (s.updMig n va f).fuses.fixed = s.fuses.fixed := rfl

@[simp] theorem touchPage_fixed (n va k : Nat) (wr : Bool) : (s.touchPage n va k wr).fuses.fixed = s.fuses.fixed := by
  unfold State.touchPage
  split <;> simp

@[simp] theorem touchRange_fixed (n va len : Nat) (wr : Bool) : (s.touchRange n va len wr).fuses.fixed = s.fuses.fixed := by
  simp [State.touchRange]

@[simp] theorem noteRange_fixed (n va len : Nat) : (s.noteRange n va len).fuses.fixed = s.fuses.fixed := by simp [State.noteRange]

@[simp] theorem execHeatEpoch_passes : Passes s.fuses.fixed (execHeatEpoch s) := by
  simp [execHeatEpoch]

@[simp] theorem execMigrationPromote_passes (n : JobId) (va : W64) : Passes s.fuses.fixed (execMigrationPromote n va s) := by
  unfold execMigrationPromote
  split <;> simp

@[simp] theorem execMigrationDemote_passes (n : JobId) (va : W64) : Passes s.fuses.fixed (execMigrationDemote n va s) := by
  unfold execMigrationDemote
  split <;> simp

@[simp] theorem rewriteLeaf_fixed (n va tier off : Nat) : (s.rewriteLeaf n va tier off).fuses.fixed = s.fuses.fixed := by
  unfold State.rewriteLeaf
  dsimp only
  split <;> simp

@[simp] theorem copyRange_fixed (src dst len : Nat) : (s.copyRange src dst len).fuses.fixed = s.fuses.fixed := by
  simp [State.copyRange]

@[simp] theorem settlePoolFrame_fixed (n f : Nat) (held : Bool) : (s.settlePoolFrame n f held).fuses.fixed = s.fuses.fixed := by
  simp [State.settlePoolFrame]

@[simp] theorem execMigrationSwitch_passes (n : JobId) (va : W64) : Passes s.fuses.fixed (execMigrationSwitch n va s) := by
  unfold execMigrationSwitch
  split
  · simp
  · split
    · rw [passes_next, count_fuses, settlePoolFrame_fixed, updMig_fixed, rewriteLeaf_fixed, copyRange_fixed]
    · split
      · split
        · simp
        · rw [passes_next, count_fuses, settlePoolFrame_fixed, updMig_fixed, rewriteLeaf_fixed]
          split
          · rw [copyRange_fixed]
          · rfl
      · simp

/-! ## The timebase and the margin monitors (R25 to R39) -/

/-! ### Ticks (R28, R30) -/

@[simp] theorem absorbOne_fixed : s.absorbOne.fuses.fixed = s.fuses.fixed := by simp [State.absorbOne]

@[simp] theorem slewTick_fixed : s.slewTick.fuses.fixed = s.fuses.fixed := by simp [State.slewTick]

@[simp] theorem plainTick_fixed : s.plainTick.fuses.fixed = s.fuses.fixed := rfl

@[simp] theorem tickOnce_fixed : s.tickOnce.fuses.fixed = s.fuses.fixed := by simp [State.tickOnce]

/-! ### Sources (R29) -/

@[simp] theorem phaseStep_fixed : s.phaseStep.fuses.fixed = s.fuses.fixed := rfl

@[simp] theorem setSource_fixed (k : Nat) : (s.setSource k).fuses.fixed = s.fuses.fixed := by simp [State.setSource]

@[simp] theorem setPresent_fixed (k : Nat) (b : Bool) : (s.setPresent k b).fuses.fixed = s.fuses.fixed := rfl

@[simp] theorem execTimebaseLock_passes (timeref portA portB : Bool) :
    Passes s.fuses.fixed (execTimebaseLock timeref portA portB s) := by
  simp [execTimebaseLock]

@[simp] theorem execTimerefLoss_passes (k : Fin 3) : Passes s.fuses.fixed (execTimerefLoss k s) := by
  simp [execTimerefLoss]

@[simp] theorem execSourcePresent_passes (k : Fin 3) : Passes s.fuses.fixed (execSourcePresent k s) := by
  simp [execSourcePresent]

@[simp] theorem execSourceRetake_passes (k : Fin 3) : Passes s.fuses.fixed (execSourceRetake k s) := by
  simp [execSourceRetake]

/-! ### Rate windows (R36) -/

@[simp] theorem execRateWindow_passes (w e : BitVec 16) : Passes s.fuses.fixed (execRateWindow w e s) := by
  simp [execRateWindow]

/-! ### Comparators (R38, R39) -/

@[simp] theorem fireComparator_fixed (n : Nat) : (s.fireComparator n).fuses.fixed = s.fuses.fixed := by simp [State.fireComparator]

@[simp] theorem execComparatorFire_passes (n : Fin 64) : Passes s.fuses.fixed (execComparatorFire n s) := by
  simp [execComparatorFire]

@[simp] theorem writeComparator_fixed (n : Nat) (v : W64) : (s.writeComparator n v).fuses.fixed = s.fuses.fixed := by
  simp [State.writeComparator]

@[simp] theorem execGlbCmpCtrlWrite_passes (via : Via) (n : Fin 64) (v : W64) :
    Passes s.fuses.fixed (execGlbCmpCtrlWrite via n v s) := by
  simp [execGlbCmpCtrlWrite]

/-! ### Delay-line margins (R25) -/

@[simp] theorem queueCal_fixed (kind element : Nat) : (s.queueCal kind element).fuses.fixed = s.fuses.fixed := by
  simp [State.queueCal]

@[simp] theorem marginWarn_fixed (site margin : Nat) : (s.marginWarn site margin).fuses.fixed = s.fuses.fixed := by
  simp [State.marginWarn]

@[simp] theorem marginCrit_fixed (site margin : Nat) : (s.marginCrit site margin).fuses.fixed = s.fuses.fixed := by
  unfold State.marginCrit
  dsimp only
  split <;> simp

@[simp] theorem execMarginEvent_passes (site : BitVec 12) (margin : BitVec 8) :
    Passes s.fuses.fixed (execMarginEvent site margin s) := by
  simp [execMarginEvent]

/-! ## The governor and the current limit (R583, R584, R594) -/

@[simp] theorem updateFloor_fixed : s.updateFloor.fuses.fixed = s.fuses.fixed := by simp [State.updateFloor]

@[simp] theorem requestVid_fixed (die mv : Nat) : (s.requestVid die mv).fuses.fixed = s.fuses.fixed := by simp [State.requestVid]

@[simp] theorem measure_fixed (g : GovInput) : (s.measure g).fuses.fixed = s.fuses.fixed := by simp [State.measure]

@[simp] theorem govern_fixed (g : GovInput) : (s.govern g).fuses.fixed = s.fuses.fixed := by simp [State.govern]

@[simp] theorem execGovernorPeriod_passes (g : GovInput) : Passes s.fuses.fixed (execGovernorPeriod g s) := by
  simp [execGovernorPeriod]

@[simp] theorem setCeiling_fixed (die mv : Nat) : (s.setCeiling die mv).fuses.fixed = s.fuses.fixed := by simp [State.setCeiling]

@[simp] theorem limitStep_fixed (die : Nat) : (s.limitStep die).fuses.fixed = s.fuses.fixed := by simp [State.limitStep]

@[simp] theorem limitSteps_fixed (n die : Nat) : (State.limitSteps n s die).fuses.fixed = s.fuses.fixed := by
  induction n generalizing s with
  | zero => rfl
  | succ n ih => simp [State.limitSteps, ih]

@[simp] theorem execCurrentLimit_passes (die : Fin 2) (steps : Fin 16) : Passes s.fuses.fixed (execCurrentLimit die steps s) := by
  simp [execCurrentLimit]

@[simp] theorem execCurrentCeilingExpiry_passes (die : Fin 2) : Passes s.fuses.fixed (execCurrentCeilingExpiry die s) := by
  simp [execCurrentCeilingExpiry]

end Sys2Proof.Proofs.Fixed

end

section
/-! The fuses that only an image marked active burns, continued: the Altur links (R422 to R448) and what follows. -/

namespace Sys2Proof.Proofs.Fixed

open Sys2Proof.Machine Sys2Proof.Laws Sys2Proof.Proofs

variable (s : State)

/-! ## The Altur links (R422 to R448) -/

/-! ### Records of links and ports -/

@[simp] theorem setLink_fixed (l : Nat) (x : LinkSt) : (s.setLink l x).fuses.fixed = s.fuses.fixed := rfl

@[simp] theorem setLport_fixed (p : Nat) (x : PortRt) : (s.setLport p x).fuses.fixed = s.fuses.fixed := rfl

/-! ### Calibration records (R431, R546, R547) -/

@[simp] theorem putRecord_fixed (x : CalRecord) : (s.putRecord x).fuses.fixed = s.fuses.fixed := rfl

@[simp] theorem calStale_fixed (kind element : Nat) : (s.calStale kind element).fuses.fixed = s.fuses.fixed := by
  simp [State.calStale]

/-! ### Sending (R434, R436) -/

@[simp] theorem putFlit_fixed (l i : Nat) (f : TxFlit) : (s.putFlit l i f).fuses.fixed = s.fuses.fixed := rfl

@[simp] theorem putFlits_fixed (l i : Nat) (fs : List TxFlit) : (s.putFlits l i fs).fuses.fixed = s.fuses.fixed := by
  induction fs generalizing s i with
  | nil => rfl
  | cons f fs ih => simp [State.putFlits, ih]

/-! ### The order of flits on a link (R473) -/

@[simp] theorem sendFlit_fixed (l : Nat) : (s.sendFlit l).fuses.fixed = s.fuses.fixed := by
  unfold State.sendFlit
  dsimp only
  repeat' split
  all_goals simp

@[simp] theorem sendQueued_fixed (n l : Nat) : (State.sendQueued n l s).fuses.fixed = s.fuses.fixed := by
  induction n generalizing s with
  | zero => rfl
  | succ n ih => simp [State.sendQueued, ih]

@[simp] theorem drainLink_fixed (l : Nat) : (s.drainLink l).fuses.fixed = s.fuses.fixed := by simp [State.drainLink]

@[simp] theorem queueFlits_fixed (l : Nat) (fs : List TxFlit) : (s.queueFlits l fs).fuses.fixed = s.fuses.fixed := rfl

@[simp] theorem launch_fixed (p : Nat) (t : TxMsg) : (s.launch p t).1.fuses.fixed = s.fuses.fixed := by
  unfold State.launch
  split <;> simp

@[simp] theorem pump_fixed (p : Nat) : (s.pump p).fuses.fixed = s.fuses.fixed := by simp [State.pump]

@[simp] theorem sendOn_fixed (p : Nat) (m : OutMsg) : (s.sendOn p m).fuses.fixed = s.fuses.fixed := by simp [State.sendOn]

@[simp] theorem dropNotice_fixed (m : OutMsg) : (s.dropNotice m).fuses.fixed = s.fuses.fixed := by simp [State.dropNotice]

@[simp] theorem sendVia_fixed (hop : Hop) (m : OutMsg) : (s.sendVia hop m).1.fuses.fixed = s.fuses.fixed := by
  unfold State.sendVia
  repeat' split
  all_goals simp

@[simp] theorem send_fixed (m : OutMsg) : (s.send m).1.fuses.fixed = s.fuses.fixed := by simp [State.send]

@[simp] theorem sendPlainRoute_fixed (m : OutMsg) : (s.sendPlainRoute m).1.fuses.fixed = s.fuses.fixed := by
  simp [State.sendPlainRoute]

@[simp] theorem noticeUnreachable_fixed (m : OutMsg) : (s.noticeUnreachable m).fuses.fixed = s.fuses.fixed := by
  simp [State.noticeUnreachable]

@[simp] theorem badMsg_fixed (l : Nat) : (s.badMsg l).fuses.fixed = s.fuses.fixed := by simp [State.badMsg]

@[simp] theorem receive_fixed (m : Msg) (op : Nat) {handle : State → State} (h : Keeps handle) :
    (s.receive m op handle).fuses.fixed = s.fuses.fixed := by
  simp [State.receive, h s]

/-! ### Plain requests (R446, R447) -/

@[simp] theorem plainSend_fixed (x : Request) : (s.plainSend x).1.fuses.fixed = s.fuses.fixed := by
  unfold State.plainSend
  repeat' split
  all_goals simp

@[simp] theorem issuePlain_fixed (who : Issuer) (op addr len job : Nat) (poison : Bool) (data : List Byte) :
    (s.issuePlain who op addr len job poison data).fuses.fixed = s.fuses.fixed := by
  simp [State.issuePlain]

@[simp] theorem flushPlain_fixed : s.flushPlain.fuses.fixed = s.fuses.fixed := by simp [State.flushPlain]

@[simp] theorem issueRemote_fixed (who : Issuer) (m : OutMsg) : (s.issueRemote who m).1.fuses.fixed = s.fuses.fixed := by
  unfold State.issueRemote
  dsimp only
  split <;> simp

@[simp] theorem forgetRequests_fixed (who : Issuer) : (s.forgetRequests who).fuses.fixed = s.fuses.fixed := rfl

/-! ### Link states (R428 to R431) -/

@[simp] theorem refreshPorts_fixed : s.refreshPorts.fuses.fixed = s.fuses.fixed := by simp [State.refreshPorts]

@[simp] theorem setLinkState_fixed (l st : Nat) : (s.setLinkState l st).fuses.fixed = s.fuses.fixed := by simp [State.setLinkState]

@[simp] theorem resend_fixed (l : Nat) : (s.resend l).fuses.fixed = s.fuses.fixed := by simp [State.resend]

@[simp] theorem depart_fixed (l st cause : Nat) : (s.depart l st cause).fuses.fixed = s.fuses.fixed := by simp [State.depart]

@[simp] theorem leaveUp_fixed (l st cause : Nat) : (s.leaveUp l st cause).fuses.fixed = s.fuses.fixed := by simp [State.leaveUp]

@[simp] theorem beginDrain_fixed (l dest : Nat) : (s.beginDrain l dest).fuses.fixed = s.fuses.fixed := by simp [State.beginDrain]

@[simp] theorem enterTune_fixed (l : Nat) : (s.enterTune l).fuses.fixed = s.fuses.fixed := by simp [State.enterTune]

@[simp] theorem execLightDetected_passes (l : LinkId) : Passes s.fuses.fixed (execLightDetected l s) := by
  simp [execLightDetected]

@[simp] theorem execLightLoss_passes (l : LinkId) : Passes s.fuses.fixed (execLightLoss l s) := by
  simp [execLightLoss]

@[simp] theorem execTuningLoop_passes (l : LinkId) (settings : List Nat) : Passes s.fuses.fixed (execTuningLoop l settings s) := by
  simp [execTuningLoop]

@[simp] theorem execRingLockLost_passes (l : LinkId) (ring : Fin 8) : Passes s.fuses.fixed (execRingLockLost l ring s) := by
  simp [execRingLockLost]

@[simp] theorem execRingsLocked_passes (l : LinkId) : Passes s.fuses.fixed (execRingsLocked l s) := by
  simp [execRingsLocked]

@[simp] theorem execPatternDetected_passes (l : LinkId) : Passes s.fuses.fixed (execPatternDetected l s) := by
  simp [execPatternDetected]

@[simp] theorem sendIdent_fixed (l : Nat) : (s.sendIdent l).fuses.fixed = s.fuses.fixed := rfl

@[simp] theorem sendCredits_fixed (l : Nat) : (s.sendCredits l).fuses.fixed = s.fuses.fixed := rfl

@[simp] theorem execCodewordLock_passes (l : LinkId) : Passes s.fuses.fixed (execCodewordLock l s) := by
  simp [execCodewordLock]

@[simp] theorem identify_fixed (l : Nat) (i : IdentInfo) : (s.identify l i).fuses.fixed = s.fuses.fixed := by simp [State.identify]

@[simp] theorem execIdent_passes (l : LinkId) (i : IdentInfo) : Passes s.fuses.fixed (execIdent l i s) := by
  simp [execIdent]

@[simp] theorem execIdentRetry_passes (l : LinkId) (i : IdentInfo) : Passes s.fuses.fixed (execIdentRetry l i s) := by
  simp [execIdentRetry]

@[simp] theorem startRecal_fixed (l : Nat) : (s.startRecal l).fuses.fixed = s.fuses.fixed := by simp [State.startRecal]

@[simp] theorem releaseRecals_fixed : s.releaseRecals.fuses.fixed = s.fuses.fixed := by simp [State.releaseRecals]

@[simp] theorem execCredit_passes (l : LinkId) (credits : List Nat) (replay : Nat) :
    Passes s.fuses.fixed (execCredit l credits replay s) := by
  simp [execCredit]

@[simp] theorem execTrainingTimeout_passes (l : LinkId) : Passes s.fuses.fixed (execTrainingTimeout l s) := by
  unfold execTrainingTimeout
  split <;> simp

@[simp] theorem execDrainComplete_passes (l : LinkId) : Passes s.fuses.fixed (execDrainComplete l s) := by
  simp [execDrainComplete]

@[simp] theorem execRecalComplete_passes (l : LinkId) : Passes s.fuses.fixed (execRecalComplete l s) := by
  simp [execRecalComplete]

@[simp] theorem execRecal_passes (via : Via) (l : LinkId) : Passes s.fuses.fixed (execRecal via l s) := by
  simp [execRecal]

@[simp] theorem execFullSearch_passes (via : Via) (l : LinkId) : Passes s.fuses.fixed (execFullSearch via l s) := by
  simp [execFullSearch]

/-! ### Lasers (R422) -/

@[simp] theorem execLaserLow_passes (i : Fin 12) (wave : Fin 8) (power : ℤ) :
    Passes s.fuses.fixed (execLaserLow i wave power s) := by
  simp [execLaserLow]

@[simp] theorem execLaserInputRestored_passes (i : Fin 12) (power : ℤ) :
    Passes s.fuses.fixed (execLaserInputRestored i power s) := by
  simp [execLaserInputRestored]

/-! ### Flits (R432, R433) -/

@[simp] theorem dropAcked_fixed (fs : List TxFlit) : (s.dropAcked fs).fuses.fixed = s.fuses.fixed := by simp [State.dropAcked]

@[simp] theorem takeAck_fixed (l ack : Nat) : (s.takeAck l ack).fuses.fixed = s.fuses.fixed := by simp [State.takeAck]

@[simp] theorem takeCredits_fixed (l vc total : Nat) : (s.takeCredits l vc total).fuses.fixed = s.fuses.fixed := by
  simp [State.takeCredits]

@[simp] theorem replay_fixed (l : Nat) : (s.replay l).fuses.fixed = s.fuses.fixed := by simp [State.replay]

@[simp] theorem countCodewords_fixed (l n : Nat) : (s.countCodewords l n).fuses.fixed = s.fuses.fixed := by
  simp [State.countCodewords]

@[simp] theorem takeData_fixed (l : Nat) (x : Flit) : (s.takeData l x).fuses.fixed = s.fuses.fixed := by simp [State.takeData]

@[simp] theorem execFlit_passes (l : LinkId) (x : Flit) : Passes s.fuses.fixed (execFlit l x s) := by
  simp [execFlit]

/-! ## The data movers (R104 to R106) -/

/-! ### Moving one entry -/

@[simp] theorem pokePieces_fixed (ps : List Piece) (bs : List Byte) : (s.pokePieces ps bs).fuses.fixed = s.fuses.fixed := by
  induction ps generalizing s bs with
  | nil => rfl
  | cons p ps ih =>
    rw [State.pokePieces, ih]
    split
    · dsimp only
      split <;> rfl
    · rfl
    · rfl

@[simp] theorem pokeElem_fixed (n base pos bits v : Nat) : (s.pokeElem n base pos bits v).fuses.fixed = s.fuses.fixed := by
  unfold State.pokeElem
  dsimp only
  split <;> simp

@[simp] theorem moveElems_fixed (n : Nat) (src : List Entry) (pattern : Option W64) (d : Entry) (off : Nat) (ov : List
    (Nat × Nat)) :
    (s.moveElems n src pattern d off ov).1.fuses.fixed = s.fuses.fixed := by
  simp [State.moveElems]

@[simp] theorem moveScales_fixed (n : Nat) (src : Option Entry) (d : Entry) (ov : List (Nat × Nat)) :
    (s.moveScales n src d ov).1.fuses.fixed = s.fuses.fixed := by
  unfold State.moveScales
  dsimp only
  split
  · rfl
  · refine foldl_fst_fixed (fun x y => ?_) _ _
    split
    · simp
    · split <;> simp

@[simp] theorem markStretch_fixed (n va len : Nat) (marks : List Nat) :
    (s.markStretch n va len marks).fuses.fixed = s.fuses.fixed := by
  unfold State.markStretch
  split
  · rfl
  · refine foldl_fst_fixed (fun x y => ?_) _ _
    dsimp only
    split <;> rfl

/-! ### The life of a flight -/

@[simp] theorem requestRead_fixed (who : Issuer) (job : Nat) (p : Piece) :
    (s.requestRead who job p).1.fuses.fixed = s.fuses.fixed := by
  unfold State.requestRead
  split <;> simp

@[simp] theorem requestWrite_fixed (who : Issuer) (job : Nat) (p : Piece) :
    (s.requestWrite who job p).1.fuses.fixed = s.fuses.fixed := by
  unfold State.requestWrite
  split <;> simp

@[simp] theorem requestEdge_fixed (who : Issuer) (job : Nat) (p : Piece) :
    (s.requestEdge who job p).1.fuses.fixed = s.fuses.fixed := by
  unfold State.requestEdge
  split <;> simp

@[simp] theorem requestAll_fixed {req : State → Piece → State × Option Status} (h : KeepsFstEach req) (ps : List Piece) :
    (State.requestAll req s ps).1.fuses.fixed = s.fuses.fixed := by
  induction ps generalizing s with
  | nil => rfl
  | cons p ps ih =>
    have hp := h s p
    unfold State.requestAll
    split
    · next e => rw [e] at hp; exact hp
    · next e => rw [e] at hp; rw [ih]; exact hp

@[simp] theorem countPieces_fixed (wr : Bool) (ps : List Piece) : (s.countPieces wr ps).fuses.fixed = s.fuses.fixed := by
  refine foldl_fixed (fun t p => ?_) _ _
  split <;> simp

@[simp] theorem endFlight_fixed (q seq : Nat) (st : Status) (result detail : W64) :
    (s.endFlight q seq st result detail).fuses.fixed = s.fuses.fixed := by
  simp [State.endFlight]

@[simp] theorem failFlight_fixed (q seq : Nat) (e : AccErr) (word : Nat) :
    (s.failFlight q seq e word).fuses.fixed = s.fuses.fixed := by
  simp [State.failFlight]

@[simp] theorem moverAccess_fixed (q n va len : Nat) (wr : Bool) : (s.moverAccess q n va len wr).fuses.fixed = s.fuses.fixed := by
  simp [State.moverAccess]

@[simp] theorem moverEntry_fixed (q n : Nat) (e : Entry) (wr : Bool) : (s.moverEntry q n e wr).fuses.fixed = s.fuses.fixed := by
  simp [State.moverEntry]

@[simp] theorem beginEntry_fixed (q : Nat) (x : Flight) : (s.beginEntry q x).fuses.fixed = s.fuses.fixed := by
  unfold State.beginEntry
  dsimp only
  repeat' split
  all_goals simp

@[simp] theorem writeEntry_fixed (q : Nat) (x : Flight) : (s.writeEntry q x).fuses.fixed = s.fuses.fixed := by
  unfold State.writeEntry
  dsimp only
  repeat' split
  all_goals simp

@[simp] theorem nextEntry_fixed (q : Nat) (x : Flight) : (s.nextEntry q x).fuses.fixed = s.fuses.fixed := by simp [State.nextEntry]

@[simp] theorem moverStep_fixed (q seq : Nat) : (s.moverStep q seq).fuses.fixed = s.fuses.fixed := by
  unfold State.moverStep
  dsimp only
  repeat' split
  all_goals simp

@[simp] theorem runMove_fixed (q seq : Nat) (r : Rec) : (s.runMove q seq r).fuses.fixed = s.fuses.fixed := by
  unfold State.runMove
  dsimp only
  repeat' split
  all_goals simp

@[simp] theorem specMove_keeps : KeepsSpec specMove := keepsSpec_of (by simp [specMove, CmdSpec.plain]) rfl

@[simp] theorem specFill_keeps : KeepsSpec specFill := keepsSpec_of (by simp [specFill, CmdSpec.plain]) rfl

@[simp] theorem execMove_passes (q : QId) : Passes s.fuses.fixed (execMove q s) := by
  simp [execMove]

@[simp] theorem execFill_passes (q : QId) : Passes s.fuses.fixed (execFill q s) := by
  simp [execFill]

@[simp] theorem execDataMoverDone_passes (q : QId) (seq : BitVec 48) : Passes s.fuses.fixed (execDataMoverDone q seq s) := by
  unfold execDataMoverDone
  split <;> simp

/-! ## The KV cache (R289 to R304) -/

/-! ### Request entries (R378) -/

@[simp] theorem setReq_fixed (i : Nat) (e : Req) : (s.setReq i e).fuses.fixed = s.fuses.fixed := rfl

/-! ### Free lists (R299, R300, R302) -/

@[simp] theorem setKvPages_fixed (m : SMap Nat) : (s.setKvPages m).fuses.fixed = s.fuses.fixed := rfl

@[simp] theorem kvPlace_fixed (n c page : Nat) : (s.kvPlace n c page).fuses.fixed = s.fuses.fixed := by simp [State.kvPlace]

@[simp] theorem kvPush_fixed (n c page : Nat) : (s.kvPush n c page).fuses.fixed = s.fuses.fixed := by simp [State.kvPush]

@[simp] theorem kvDrain_fixed (n c : Nat) : (s.kvDrain n c).fuses.fixed = s.fuses.fixed := by simp [State.kvDrain]

@[simp] theorem kvWrite_fixed (n : Nat) (v : W64) : (s.kvWrite n v).fuses.fixed = s.fuses.fixed := by simp [State.kvWrite]

@[simp] theorem kvPop_fixed (cmd : Option (Nat × Nat)) (n c : Nat) : (State.kvPop cmd s n c).1.fuses.fixed = s.fuses.fixed := by
  simp [State.kvPop]

/-! ### Growth (R301, R302) -/

@[simp] theorem kvMapOne_fixed (cmd : Option (Nat × Nat)) (n c va : Nat) :
    (State.kvMapOne cmd s n c va).1.fuses.fixed = s.fuses.fixed := by
  unfold State.kvMapOne
  dsimp only
  split
  · rfl
  · split
    · next e => exact fixed_of_eq e (kvPop_fixed ..)
    · next e => split <;> simp [fixed_of_eq e (kvPop_fixed ..)]

@[simp] theorem growPages_fixed (cmd : Option (Nat × Nat)) (fuel i need : Nat) :
    (State.growPages cmd fuel s i need).1.fuses.fixed = s.fuses.fixed := by
  induction fuel generalizing s with
  | zero => rfl
  | succ n ih =>
    unfold State.growPages
    dsimp only
    split
    · rfl
    · split
      · next e => simp [ih, fixed_of_eq e (kvMapOne_fixed ..)]
      · exact kvMapOne_fixed ..

@[simp] theorem growList_fixed (cmd : Option (Nat × Nat)) (fuel i need : Nat) :
    (State.growList cmd fuel s i need).1.fuses.fixed = s.fuses.fixed := by
  induction fuel generalizing s with
  | zero => rfl
  | succ n ih =>
    unfold State.growList
    dsimp only
    split
    · rfl
    · split
      · next e => simp [ih, fixed_of_eq e (kvMapOne_fixed ..)]
      · exact kvMapOne_fixed ..

@[simp] theorem kvGrow_fixed (cmd : Option (Nat × Nat)) (i need : Nat) :
    (State.kvGrow cmd s i need).1.fuses.fixed = s.fuses.fixed := by
  unfold State.kvGrow
  dsimp only
  split
  · next e => simp [fixed_of_eq e (growPages_fixed ..)]
  · exact growPages_fixed ..

/-! ### The KV list and the KV view (R296, R297) -/

theorem writeVirt_fixed (n va : Nat) (bs : List Byte) {t : State} (h : s.writeVirt n va bs = .ok t) :
    t.fuses.fixed = s.fuses.fixed := by
  unfold State.writeVirt at h
  split at h
  · cases h
  · cases h; simp

@[simp] theorem kvWriteLists_fixed (i pages : Nat) : (s.kvWriteLists i pages).fuses.fixed = s.fuses.fixed := by
  unfold State.kvWriteLists
  dsimp only
  refine (foldl_fixed (fun t j => foldl_fixed (fun u r => ?_) _ _) _ _).trans (by simp)
  split
  · next h => exact writeVirt_fixed _ _ _ _ h
  · rfl

/-! ### Release (R303) -/

@[simp] theorem kvRelease_fixed (i : Nat) : (s.kvRelease i).fuses.fixed = s.fuses.fixed := by
  unfold State.kvRelease
  refine (setReq_fixed ..).trans ((foldl_fixed (fun t x => ?_) _ _).trans (by simp))
  split <;> simp

/-! ### Rows of the table -/

@[simp] theorem execSrvKvPush_passes (via : Via) (n : JobId) (v : W64) : Passes s.fuses.fixed (execSrvKvPush via n v s) := by
  simp [execSrvKvPush]

@[simp] theorem execKvListDrain_passes (via : Via) (n : JobId) (v : W64) : Passes s.fuses.fixed (execKvListDrain via n v s) := by
  simp [execKvListDrain]

/-! ## Outputs, mirror copies and ends of requests (R401 to R409) -/

/-! ### Output rings (R401, R409, R419) -/

@[simp] theorem setOutRing_fixed (o : Nat) (x : OutRing) : (s.setOutRing o x).fuses.fixed = s.fuses.fixed := rfl

@[simp] theorem reserveOut_fixed (o : Nat) (n : ℤ) : (s.reserveOut o n).fuses.fixed = s.fuses.fixed := rfl

@[simp] theorem ringWrite_fixed (o off : Nat) (bs : List Byte) : (s.ringWrite o off bs).fuses.fixed = s.fuses.fixed := by
  simp [State.ringWrite]

/-! ### Mirror copies (R402, R403, R544) -/

@[simp] theorem mirrorLost_fixed : s.mirrorLost.fuses.fixed = s.fuses.fixed := rfl

@[simp] theorem mirrorRecord_fixed (m job : Nat) (w0 w1 : W64) : (s.mirrorRecord m job w0 w1).fuses.fixed = s.fuses.fixed := by
  -- Under `Passes` the kernel compares the states as they stand and never computes where `g` lies.
  refine (passes_next s.fuses.fixed _).1 ?_
  unfold State.mirrorRecord
  split
  · exact (passes_next ..).2 rfl
  · extract_lets +onlyGivenNames n g bs
    generalize ht : ({ s with serve := { s.serve with mirror := mset s.serve.mirror m (n + 1) } } : State) = t
    have hp : t.fuses.fixed = s.fuses.fixed := by rw [← ht]
    clear_value n g bs
    extract_lets +onlyGivenNames u
    have hu : u.fuses.fixed = s.fuses.fixed := hp
    clear_value u
    clear ht hp
    split
    · exact (passes_next ..).2 ((fixed_of_fuses (store_fuses ..)).trans hu)
    · split
      · next e => exact (passes_next ..).2 (fixed_of_eq e ((issueRemote_fixed ..).trans hu))
      · next e => exact (passes_next ..).2 ((mirrorLost_fixed ..).trans (fixed_of_eq e ((issueRemote_fixed ..).trans hu)))
    · exact (passes_next ..).2 ((mirrorLost_fixed ..).trans hu)

/-! ### Output records (R401) -/

@[simp] theorem outRecord_fixed (i tok st : Nat) (last drafted : Bool) (pos : Nat) :
    (s.outRecord i tok st last drafted pos).fuses.fixed = s.fuses.fixed := by
  simp [State.outRecord]

/-! ### Ends (R407 to R409) -/

@[simp] theorem answerCancel_fixed (q seq : Nat) (a : Option Nat) : (s.answerCancel q seq a).fuses.fixed = s.fuses.fixed := by
  unfold State.answerCancel
  split <;> simp

@[simp] theorem closeRequest_fixed (i : Nat) (st : Status) : (s.closeRequest i st).fuses.fixed = s.fuses.fixed := by
  simp [State.closeRequest]

@[simp] theorem endRequest_fixed (i : Nat) (st : Status) (last : Bool) : (s.endRequest i st last).fuses.fixed = s.fuses.fixed := by
  simp [State.endRequest]

@[simp] theorem decideEnd_fixed (i : Nat) (fault : Option Status) : (s.decideEnd i fault).fuses.fixed = s.fuses.fixed := by
  unfold State.decideEnd
  dsimp only
  repeat' split
  all_goals simp

@[simp] theorem cancelRequest_fixed (i : Nat) : (s.cancelRequest i).fuses.fixed = s.fuses.fixed := by simp [State.cancelRequest]

@[simp] theorem releaseShard_fixed (i : Nat) : (s.releaseShard i).fuses.fixed = s.fuses.fixed := by
  unfold State.releaseShard
  dsimp only
  split <;> simp

/-! ### Steps of a binding (R386, R392) -/

@[simp] theorem setServeRun_fixed (m : Nat) (x : ServeRun) : (s.setServeRun m x).fuses.fixed = s.fuses.fixed := rfl

@[simp] theorem endServe_fixed (m : Nat) (x : ServeRun) (st : Status) (result detail : W64) :
    (s.endServe m x st result detail).fuses.fixed = s.fuses.fixed := by
  simp [State.endServe]

@[simp] theorem abandonStep_fixed (m : Nat) (st : Status) (detail : W64) :
    (s.abandonStep m st detail).fuses.fixed = s.fuses.fixed := by
  unfold State.abandonStep
  split <;> simp

@[simp] theorem abandonAccess_fixed (m n : Nat) (err : AccErr) : (s.abandonAccess m n err).fuses.fixed = s.fuses.fixed := by
  unfold State.abandonAccess
  split <;> simp

theorem countEmpty_fixed (b n k : Nat) {t : State} (h : s.countEmpty b n k = .ok t) : t.fuses.fixed = s.fuses.fixed := by
  unfold State.countEmpty at h
  split at h
  · cases h
  · cases h
    refine foldl_fixed (fun t i => ?_) _ _
    split <;> simp

@[simp] theorem servingEnd_fixed (m : Nat) (draft : Bool) (st : Status) (detail : W64) :
    (s.servingEnd m draft st detail).fuses.fixed = s.fuses.fixed := by
  unfold State.servingEnd
  split
  · rfl
  · split
    · simp
    · dsimp only
      split
      · simp
      · next h => simp [countEmpty_fixed _ _ _ _ h]

/-! ### Rows of the table -/

@[simp] theorem execRangeRelease_passes (e : BitVec 16) : Passes s.fuses.fixed (execRangeRelease e s) := by
  simp [execRangeRelease]

@[simp] theorem outHead_fixed (o v : Nat) : (s.outHead o v).fuses.fixed = s.fuses.fixed := by simp [State.outHead]

@[simp] theorem execSrvOutHeadWrite_passes (via : Via) (o : QId) (v : W64) :
    Passes s.fuses.fixed (execSrvOutHeadWrite via o v s) := by
  simp [execSrvOutHeadWrite]

/-! ## Ring runs as the fabric sees them (R330 to R340) -/

@[simp] theorem ringSend_fixed (g : Nat) (succ : Bool) (m : OutMsg) : (s.ringSend g succ m).fuses.fixed = s.fuses.fixed := by
  simp [State.ringSend]

@[simp] theorem ringNotice_fixed (g : Nat) (succ : Bool) (cause member : Nat) :
    (s.ringNotice g succ cause member).fuses.fixed = s.fuses.fixed := by
  simp [State.ringNotice]

@[simp] theorem ringNotices_fixed (g cause member : Nat) : (s.ringNotices g cause member).fuses.fixed = s.fuses.fixed := by
  simp [State.ringNotices]

@[simp] theorem ringFault_fixed (x : RingRun) : (s.ringFault x).fuses.fixed = s.fuses.fixed := by simp [State.ringFault]

@[simp] theorem closeRing_fixed (g : Nat) (x : RingRun) (st : Status) (detail : W64) :
    (s.closeRing g x st detail).fuses.fixed = s.fuses.fixed := by
  simp [State.closeRing]

@[simp] theorem ringCause_fixed (g cause member : Nat) : (s.ringCause g cause member).fuses.fixed = s.fuses.fixed := rfl

end Sys2Proof.Proofs.Fixed

end

section
/-! The fuses that only an image marked active burns, continued: the fabric (R130 to R162) and what follows. -/

namespace Sys2Proof.Proofs.Fixed

open Sys2Proof.Machine Sys2Proof.Laws Sys2Proof.Proofs

variable (s : State)

/-! ## The fabric (R130 to R162) -/

/-! ### Casts that run -/

@[simp] theorem setRun_fixed (first : Nat) (x : CastRun) : (s.setRun first x).fuses.fixed = s.fuses.fixed := rfl

/-! ### Channels of the active cast -/

@[simp] theorem setChan_fixed (key : Nat) (x : ChanSt) : (s.setChan key x).fuses.fixed = s.fuses.fixed := rfl

/-! ### Units, boxes and elements -/

@[simp] theorem setCu_fixed (n : Nat) (x : CuSt) : (s.setCu n x).fuses.fixed = s.fuses.fixed := rfl

@[simp] theorem setMu_fixed (n : Nat) (x : MuSt) : (s.setMu n x).fuses.fixed = s.fuses.fixed := rfl

@[simp] theorem setBox_fixed (d site : Nat) (x : BoxSt) : (s.setBox d site x).fuses.fixed = s.fuses.fixed := rfl

@[simp] theorem setElem_fixed (d site e : Nat) (x : ElemSt) : (s.setElem d site e x).fuses.fixed = s.fuses.fixed := rfl

/-! ### NaN records (R248 to R251) -/

@[simp] theorem nanRecord_fixed (n : Nat) (record : Bool) (w : NanWhere) (e : NanEvent) (count : Nat) :
    (s.nanRecord n record w e count).fuses.fixed = s.fuses.fixed := by
  simp [State.nanRecord]

@[simp] theorem nanHalt_fixed (n : Nat) : (s.nanHalt n).fuses.fixed = s.fuses.fixed := rfl

@[simp] theorem engineNan_fixed (n kind : Nat) (es : List NanEvent) (cmd : Option (Nat × Nat)) :
    (s.engineNan n kind es cmd).1.fuses.fixed = s.fuses.fixed := by
  unfold State.engineNan
  split <;> simp

/-! ### Steps (R158, R181, R217) -/

@[simp] theorem beginStep_fixed (first : Nat) (x : CastRun) : (s.beginStep first x).fuses.fixed = s.fuses.fixed := rfl

@[simp] theorem discardTokens_fixed (c : CastRef) (halt : Bool) : (s.discardTokens c halt).fuses.fixed = s.fuses.fixed := rfl

@[simp] theorem countResidue_fixed (x : CastRun) (c : CastRef) : (s.countResidue x c).fuses.fixed = s.fuses.fixed := by
  simp [State.countResidue]

@[simp] theorem slotsRest_fixed (c : CastRef) : (s.slotsRest c).fuses.fixed = s.fuses.fixed := rfl

@[simp] theorem slotsRun_fixed (c : CastRef) : (s.slotsRun c).fuses.fixed = s.fuses.fixed := rfl

@[simp] theorem markStop_fixed (first : Nat) (st : Status) (detail : W64) :
    (s.markStop first st detail).fuses.fixed = s.fuses.fixed := by
  unfold State.markStop
  split <;> simp

@[simp] theorem stopConsumers_fixed (x : RingRun) (st : Status) : (s.stopConsumers x st).fuses.fixed = s.fuses.fixed := rfl

@[simp] theorem ringsAfterCast_fixed (first count : Nat) (st : Status) :
    (s.ringsAfterCast first count st).fuses.fixed = s.fuses.fixed := by
  simp [State.ringsAfterCast]

@[simp] theorem leaveRun_fixed (x : CastRun) (st : Status) (detail : W64) : (s.leaveRun x st detail).fuses.fixed = s.fuses.fixed := by
  unfold State.leaveRun
  split <;> simp

@[simp] theorem endRun_fixed (first : Nat) (x : CastRun) (st : Status) (detail : W64) :
    (s.endRun first x st detail).fuses.fixed = s.fuses.fixed := by
  simp [State.endRun]

@[simp] theorem endPaused_fixed (x : CastRun) (st : Status) (detail : W64) :
    (s.endPaused x st detail).fuses.fixed = s.fuses.fixed := by
  simp [State.endPaused]

@[simp] theorem haltMm_fixed (first : Nat) (x : CastRun) (n : Nat) : (s.haltMm first x n).fuses.fixed = s.fuses.fixed := by
  unfold State.haltMm
  dsimp only
  repeat' split
  all_goals simp

@[simp] theorem stopCast_fixed (first : Nat) (x : CastRun) (st : Status) (detail : W64) :
    (s.stopCast first x st detail).fuses.fixed = s.fuses.fixed := by
  unfold State.stopCast
  split <;> simp

@[simp] theorem settleStops_fixed : s.settleStops.fuses.fixed = s.fuses.fixed := by
  unfold State.settleStops
  dsimp only
  refine (foldl_fixed (fun t y => ?_) _ _).trans (foldl_fixed (fun t y => ?_) _ _)
  · split
    · split <;> simp
    · rfl
  · split
    · rfl
    · split <;> simp

@[simp] theorem runFault_fixed (first : Nat) (st : Status) (detail : W64) (rank : Nat) :
    (s.runFault first st detail rank).fuses.fixed = s.fuses.fixed := by
  unfold State.runFault
  split <;> simp

@[simp] theorem castFault_fixed (first rank code : Nat) (st : Status) (datum : W64) :
    (s.castFault first rank code st datum).fuses.fixed = s.fuses.fixed := by
  unfold State.castFault
  split <;> simp

@[simp] theorem castXlate_fixed (first rank va reason level : Nat) (wr : Bool) :
    (s.castXlate first rank va reason level wr).fuses.fixed = s.fuses.fixed := by
  unfold State.castXlate
  split <;> simp

@[simp] theorem castPoisoned_fixed (first : Nat) : (s.castPoisoned first).fuses.fixed = s.fuses.fixed := by
  unfold State.castPoisoned
  split <;> simp

@[simp] theorem castNan_fixed (first : Nat) (w : NanWhere) (es : List NanEvent) :
    (s.castNan first w es).fuses.fixed = s.fuses.fixed := by
  unfold State.castNan
  split <;> simp

@[simp] theorem stepEnd_fixed (first : Nat) (x : CastRun) : (s.stepEnd first x).fuses.fixed = s.fuses.fixed := by
  unfold State.stepEnd
  dsimp only
  split <;> simp

@[simp] theorem execCastStepEnd_passes (d : DaleId) : Passes s.fuses.fixed (execCastStepEnd d s) := by
  unfold execCastStepEnd
  dsimp only
  repeat' split
  all_goals simp

/-! ### Spill regions (R154, R155) -/

@[simp] theorem spillWrite_fixed (first n va : Nat) (bs : List Byte) (mark : Bool) :
    (s.spillWrite first n va bs mark).fuses.fixed = s.fuses.fixed := by
  unfold State.spillWrite
  split <;> simp

@[simp] theorem spillPut_fixed (first : Nat) (x : CastRun) (key : Nat) (c : Chan) (t : Token) :
    (s.spillPut first x key c t).fuses.fixed = s.fuses.fixed := by
  simp [State.spillPut]

@[simp] theorem spillTake_fixed (first : Nat) (x : CastRun) (key : Nat) (c : Chan) :
    (s.spillTake first x key c).1.fuses.fixed = s.fuses.fixed := by
  unfold State.spillTake
  dsimp only
  repeat' split
  all_goals simp

/-! ### Slots (R135 to R137, R152, R154, R156) -/

@[simp] theorem arrive_fixed (d site kind port dest : Nat) (t : Token) :
    (s.arrive d site kind port dest t).fuses.fixed = s.fuses.fixed := by
  simp [State.arrive]

@[simp] theorem setOutPort_fixed (first : Nat) (e : Endpoint) (o : OutPort) :
    (s.setOutPort first e o).fuses.fixed = s.fuses.fixed := by
  simp [State.setOutPort]

@[simp] theorem takeToken_fixed (first : Nat) (x : CastRun) (key : Nat) (c : Chan) :
    (s.takeToken first x key c).1.fuses.fixed = s.fuses.fixed := by
  unfold State.takeToken
  dsimp only
  split <;> simp

@[simp] theorem noteLead_fixed (d lead depth : Nat) : (s.noteLead d lead depth).fuses.fixed = s.fuses.fixed := by
  simp [State.noteLead]

@[simp] theorem slotSources_fixed (first : Nat) (x : CastRun) (es : List (Nat × Nat × Nat × Nat)) :
    (s.slotSources first x es).1.fuses.fixed = s.fuses.fixed := by
  refine foldl_fst_fixed (fun x e => ?_) _ _
  dsimp only
  split
  · rfl
  · split
    · rfl
    · split <;> simp

@[simp] theorem unitTransfer_fixed (d site first : Nat) (x : CastRun) (tab : List W64) (next : Nat) :
    (s.unitTransfer d site first x tab next).fuses.fixed = s.fuses.fixed := by
  simp [State.unitTransfer]

@[simp] theorem localTarget_fixed (first d site target : Nat) (t : Token) :
    (s.localTarget first d site target t).fuses.fixed = s.fuses.fixed := by
  unfold State.localTarget
  split <;> simp

@[simp] theorem linkOut_fixed (first count : Nat) (x : CastRun) (d site dir sent : Nat) (t : Option Token) :
    (s.linkOut first count x d site dir sent t).fuses.fixed = s.fuses.fixed := by
  unfold State.linkOut
  split <;> simp

@[simp] theorem fireSlot_fixed (d site first : Nat) (x : CastRun) (c : CastRef) :
    (s.fireSlot d site first x c).fuses.fixed = s.fuses.fixed := by
  unfold State.fireSlot
  extract_lets b tab es pop ins s1 z found s2 s3 s4
  have h2 : s2.fuses.fixed = s.fuses.fixed := by simp [s2, z, s1]
  have h3 : s3.fuses.fixed = s.fuses.fixed := by
    refine (foldl_fixed (fun t i => ?_) _ _).trans h2
    split <;> simp
  have h4 : s4.fuses.fixed = s.fuses.fixed := (unitTransfer_fixed ..).trans h3
  clear_value s4
  split
  · exact h4
  · dsimp only
    split <;> simp [h4]

@[simp] theorem execSlotFiring_passes (d : DaleId) (site : SiteId) : Passes s.fuses.fixed (execSlotFiring d site s) := by
  unfold execSlotFiring
  split <;> simp

/-! ### Delivery and credits (R145, R146, R151, R152) -/

@[simp] theorem creditBack_fixed (h : Held) : (s.creditBack h).fuses.fixed = s.fuses.fixed := rfl

@[simp] theorem tagFault_fixed (first : Nat) (h : Held) : (s.tagFault first h).fuses.fixed = s.fuses.fixed := by simp [State.tagFault]

@[simp] theorem feedCu_fixed (n : Nat) : (s.feedCu n).fuses.fixed = s.fuses.fixed := by simp [State.feedCu]

@[simp] theorem deliverCu_fixed (first n : Nat) (h : Held) : (s.deliverCu first n h).fuses.fixed = s.fuses.fixed := by
  unfold State.deliverCu
  dsimp only
  repeat' split
  all_goals simp

@[simp] theorem deliverMu_fixed (first n : Nat) (h : Held) : (s.deliverMu first n h).fuses.fixed = s.fuses.fixed := by
  unfold State.deliverMu
  dsimp only
  repeat' split
  all_goals simp

@[simp] theorem deliverElem_fixed (first d site e : Nat) (h : Held) :
    (s.deliverElem first d site e h).fuses.fixed = s.fuses.fixed := by
  unfold State.deliverElem
  dsimp only
  split <;> simp

@[simp] theorem execTokenDelivery_passes (d : DaleId) (site : SiteId) (port : Fin 14) :
    Passes s.fuses.fixed (execTokenDelivery d site port s) := by
  unfold execTokenDelivery
  dsimp only
  repeat' split
  all_goals simp

@[simp] theorem execCreditReturn_passes (d : DaleId) (k : Fin 4096) : Passes s.fuses.fixed (execCreditReturn d k s) := by
  unfold execCreditReturn
  dsimp only
  repeat' split
  all_goals simp

/-! ### Steering (R148 to R151) -/

@[simp] theorem fireElem_fixed (d site e tag : Nat) (consumed : List Held) (out : Nat) (sent : List Token) :
    (s.fireElem d site e tag consumed out sent).fuses.fixed = s.fuses.fixed := by
  simp [State.fireElem]

@[simp] theorem execSteer_passes (d : DaleId) (site : SiteId) (e : Fin 2) (tag : BitVec 16) :
    Passes s.fuses.fixed (execSteer d site e tag s) := by
  unfold execSteer
  dsimp only
  repeat' split
  all_goals simp

@[simp] theorem execJoin_passes (d : DaleId) (site : SiteId) (e : Fin 2) (tag : BitVec 16) :
    Passes s.fuses.fixed (execJoin d site e tag s) := by
  unfold execJoin
  dsimp only
  repeat' split
  all_goals simp

/-! ### Stalls and limits (R159 to R162) -/

@[simp] theorem stallEntry_fixed (x : CastRun) (first time : Nat) (b : Blocked) :
    (s.stallEntry x first time b).fuses.fixed = s.fuses.fixed := rfl

@[simp] theorem stall_fixed (first : Nat) (x : CastRun) : (s.stall first x).fuses.fixed = s.fuses.fixed := by simp [State.stall]

@[simp] theorem execStallLimit_passes (d : DaleId) : Passes s.fuses.fixed (execStallLimit d s) := by
  unfold execStallLimit
  split <;> simp

@[simp] theorem execStepLimit_passes (d : DaleId) : Passes s.fuses.fixed (execStepLimit d s) := by
  unfold execStepLimit
  split <;> simp

/-! ## The compute unit (R171 to R198) -/

/-! ### Issue (R172, R180, R189) -/

@[simp] theorem cuIssue_fixed (n op : Nat) {f : State → CuOp → State} (h : KeepsEach f) :
    (s.cuIssue n op f).fuses.fixed = s.fuses.fixed := by
  unfold State.cuIssue
  split
  · rfl
  · split
    · exact h _ _
    · rfl

@[simp] theorem setCuTask_fixed (o : CuOp) (y : TaskSt) : (s.setCuTask o y).fuses.fixed = s.fuses.fixed := rfl

@[simp] theorem cuGoto_fixed (o : CuOp) (pc : Nat) : (s.cuGoto o pc).fuses.fixed = s.fuses.fixed := rfl

@[simp] theorem cuAdvance_fixed (o : CuOp) : (s.cuAdvance o).fuses.fixed = s.fuses.fixed := rfl

@[simp] theorem cuCountVec_fixed (o : CuOp) : (s.cuCountVec o).fuses.fixed = s.fuses.fixed := rfl

/-! ### Control flow (R263, R264) -/

@[simp] theorem cuEnd_fixed (o : CuOp) : (s.cuEnd o).fuses.fixed = s.fuses.fixed := rfl

@[simp] theorem cuNext_fixed (o : CuOp) : (s.cuNext o).fuses.fixed = s.fuses.fixed := by simp [State.cuNext]

@[simp] theorem cuJmp_fixed (o : CuOp) : (s.cuJmp o).fuses.fixed = s.fuses.fixed := rfl

@[simp] theorem cuBfirst_fixed (o : CuOp) : (s.cuBfirst o).fuses.fixed = s.fuses.fixed := by simp [State.cuBfirst]

@[simp] theorem cuSetl_fixed (o : CuOp) : (s.cuSetl o).fuses.fixed = s.fuses.fixed := rfl

@[simp] theorem cuLoop_fixed (o : CuOp) : (s.cuLoop o).fuses.fixed = s.fuses.fixed := by simp [State.cuLoop]

/-! ### Loads and stores of the buffer (R178, R180, R269) -/

@[simp] theorem cuLoad_fixed (o : CuOp) (scales : Bool) : (s.cuLoad o scales).fuses.fixed = s.fuses.fixed := by simp [State.cuLoad]

@[simp] theorem cuStb_fixed (o : CuOp) : (s.cuStb o).fuses.fixed = s.fuses.fixed := rfl

@[simp] theorem cuSts_fixed (o : CuOp) : (s.cuSts o).fuses.fixed = s.fuses.fixed := rfl

/-! ### Accumulator banks (R182, R183) -/

@[simp] theorem cuDrain_fixed (o : CuOp) : (s.cuDrain o).fuses.fixed = s.fuses.fixed := rfl

@[simp] theorem cuBload_fixed (o : CuOp) : (s.cuBload o).fuses.fixed = s.fuses.fixed := rfl

/-! ### Vector instructions (R185, R186, R265, R266) -/

@[simp] theorem cuEvents_fixed (o : CuOp) (es : List (Nat × NanEvent)) : (s.cuEvents o es).fuses.fixed = s.fuses.fixed := by
  unfold State.cuEvents
  split <;> simp

@[simp] theorem cuLanes_fixed (o : CuOp) (srcs : Nat) (f : W32 → W32 → W32 → W32) :
    (s.cuLanes o srcs f).fuses.fixed = s.fuses.fixed := by
  simp [State.cuLanes]

@[simp] theorem cuCmp_fixed (o : CuOp) : (s.cuCmp o).fuses.fixed = s.fuses.fixed := by simp [State.cuCmp]

@[simp] theorem cuSel_fixed (o : CuOp) : (s.cuSel o).fuses.fixed = s.fuses.fixed := by simp [State.cuSel]

@[simp] theorem cuRed_fixed (o : CuOp) : (s.cuRed o).fuses.fixed = s.fuses.fixed := by simp [State.cuRed]

@[simp] theorem cuRowsum_fixed (o : CuOp) : (s.cuRowsum o).fuses.fixed = s.fuses.fixed := by simp [State.cuRowsum]

/-! ### Conversions (R244 to R247, R267) -/

@[simp] theorem cvtNarrow_fixed (o : CuOp) : (s.cvtNarrow o).fuses.fixed = s.fuses.fixed := by simp [State.cvtNarrow]

@[simp] theorem cvtWiden_fixed (o : CuOp) : (s.cvtWiden o).fuses.fixed = s.fuses.fixed := by simp [State.cvtWiden]

@[simp] theorem cuCvt_fixed (o : CuOp) : (s.cuCvt o).fuses.fixed = s.fuses.fixed := by simp [State.cuCvt]

/-! ### MOV, MOVI and SEND (R187, R266, R269) -/

@[simp] theorem cuMov_fixed (o : CuOp) : (s.cuMov o).fuses.fixed = s.fuses.fixed := by simp [State.cuMov]

@[simp] theorem cuMovi_fixed (o : CuOp) : (s.cuMovi o).fuses.fixed = s.fuses.fixed := rfl

@[simp] theorem cuSend_fixed (o : CuOp) : (s.cuSend o).fuses.fixed = s.fuses.fixed := by simp [State.cuSend]

/-! ### The matrix engine (R173 to R183, R238 to R243) -/

@[simp] theorem mmDone_fixed (first : Nat) (run : CastRun) (n : Nat) (m : MmSt) :
    (s.mmDone first run n m).fuses.fixed = s.fuses.fixed := by
  unfold State.mmDone
  dsimp only
  split <;> simp

@[simp] theorem cuMm_fixed (o : CuOp) : (s.cuMm o).fuses.fixed = s.fuses.fixed := by simp [State.cuMm]

/-! ### The commands -/

@[simp] theorem taskSwitch_fixed (n : Nat) : (s.taskSwitch n).fuses.fixed = s.fuses.fixed := by
  unfold State.taskSwitch
  dsimp only
  split <;> simp

@[simp] theorem execTaskSwitch_passes (cu : UnitId) : Passes s.fuses.fixed (execTaskSwitch cu s) := by
  simp [execTaskSwitch]

@[simp] theorem execCuEnd_passes (cu : UnitId) : Passes s.fuses.fixed (execCuEnd cu s) := by
  simp [execCuEnd]

@[simp] theorem execCuNext_passes (cu : UnitId) : Passes s.fuses.fixed (execCuNext cu s) := by
  simp [execCuNext]

@[simp] theorem execCuJmp_passes (cu : UnitId) : Passes s.fuses.fixed (execCuJmp cu s) := by
  simp [execCuJmp]

@[simp] theorem execCuBfirst_passes (cu : UnitId) : Passes s.fuses.fixed (execCuBfirst cu s) := by
  simp [execCuBfirst]

@[simp] theorem execCuSetl_passes (cu : UnitId) : Passes s.fuses.fixed (execCuSetl cu s) := by
  simp [execCuSetl]

@[simp] theorem execCuLoop_passes (cu : UnitId) : Passes s.fuses.fixed (execCuLoop cu s) := by
  simp [execCuLoop]

@[simp] theorem execCuMm_passes (cu : UnitId) : Passes s.fuses.fixed (execCuMm cu s) := by
  simp [execCuMm]

@[simp] theorem execMmComplete_passes (cu : UnitId) : Passes s.fuses.fixed (execMmComplete cu s) := by
  unfold execMmComplete
  split <;> simp

@[simp] theorem execCuLdb_passes (cu : UnitId) : Passes s.fuses.fixed (execCuLdb cu s) := by
  simp [execCuLdb]

@[simp] theorem execCuLds_passes (cu : UnitId) : Passes s.fuses.fixed (execCuLds cu s) := by
  simp [execCuLds]

@[simp] theorem execCuStb_passes (cu : UnitId) : Passes s.fuses.fixed (execCuStb cu s) := by
  simp [execCuStb]

@[simp] theorem execCuSts_passes (cu : UnitId) : Passes s.fuses.fixed (execCuSts cu s) := by
  simp [execCuSts]

@[simp] theorem execCuDrain_passes (cu : UnitId) : Passes s.fuses.fixed (execCuDrain cu s) := by
  simp [execCuDrain]

@[simp] theorem execCuBload_passes (cu : UnitId) : Passes s.fuses.fixed (execCuBload cu s) := by
  simp [execCuBload]

@[simp] theorem execCuAdd_passes (cu : UnitId) : Passes s.fuses.fixed (execCuAdd cu s) := by
  simp [execCuAdd]

@[simp] theorem execCuMul_passes (cu : UnitId) : Passes s.fuses.fixed (execCuMul cu s) := by
  simp [execCuMul]

@[simp] theorem execCuFma_passes (cu : UnitId) : Passes s.fuses.fixed (execCuFma cu s) := by
  simp [execCuFma]

@[simp] theorem execCuExp2_passes (cu : UnitId) : Passes s.fuses.fixed (execCuExp2 cu s) := by
  simp [execCuExp2]

@[simp] theorem execCuRcp_passes (cu : UnitId) : Passes s.fuses.fixed (execCuRcp cu s) := by
  simp [execCuRcp]

@[simp] theorem execCuRsqrt_passes (cu : UnitId) : Passes s.fuses.fixed (execCuRsqrt cu s) := by
  simp [execCuRsqrt]

@[simp] theorem execCuMax_passes (cu : UnitId) : Passes s.fuses.fixed (execCuMax cu s) := by
  simp [execCuMax]

@[simp] theorem execCuCmp_passes (cu : UnitId) : Passes s.fuses.fixed (execCuCmp cu s) := by
  simp [execCuCmp]

@[simp] theorem execCuSel_passes (cu : UnitId) : Passes s.fuses.fixed (execCuSel cu s) := by
  simp [execCuSel]

@[simp] theorem execCuCvt_passes (cu : UnitId) : Passes s.fuses.fixed (execCuCvt cu s) := by
  simp [execCuCvt]

@[simp] theorem execCuRed_passes (cu : UnitId) : Passes s.fuses.fixed (execCuRed cu s) := by
  simp [execCuRed]

@[simp] theorem execCuRowsum_passes (cu : UnitId) : Passes s.fuses.fixed (execCuRowsum cu s) := by
  simp [execCuRowsum]

@[simp] theorem execCuMov_passes (cu : UnitId) : Passes s.fuses.fixed (execCuMov cu s) := by
  simp [execCuMov]

@[simp] theorem execCuMovi_passes (cu : UnitId) : Passes s.fuses.fixed (execCuMovi cu s) := by
  simp [execCuMovi]

@[simp] theorem execCuSend_passes (cu : UnitId) : Passes s.fuses.fixed (execCuSend cu s) := by
  simp [execCuSend]

/-! ## The memory unit (R199 to R231) -/

/-! ### Slot rings (R214, R215) -/

/-- Stores one after another, each with its address, bytes and mark by number. -/
theorem storeEach_fixed (l : List Nat) (a : Nat → Nat) (bs : Nat → List Byte) (mark : Nat → Bool) :
    (l.foldl (fun t i => t.store (a i) (bs i) (mark i)) s).fuses.fixed = s.fuses.fixed :=
  foldl_fixed (fun _ _ => fixed_of_fuses (store_fuses ..)) l s

/-! ### Generators -/

@[simp] theorem setAg_fixed (o : AgOp) (g : AgSt) : (s.setAg o g).fuses.fixed = s.fuses.fixed := rfl

@[simp] theorem agWait_fixed (o : AgOp) (code : Nat) : (s.agWait o code).fuses.fixed = s.fuses.fixed := rfl

@[simp] theorem setAgGo_fixed (o : AgOp) (g : AgSt) : (s.setAgGo o g).fuses.fixed = s.fuses.fixed := rfl

@[simp] theorem agIssue_fixed (n a op : Nat) {f : State → AgOp → State} (h : KeepsEach f) :
    (s.agIssue n a op f).fuses.fixed = s.fuses.fixed := by
  unfold State.agIssue
  split
  · rfl
  · dsimp only
    split
    · rfl
    · exact h _ _

@[simp] theorem setRing_fixed (n r : Nat) (p : RingPtr) : (s.setRing n r p).fuses.fixed = s.fuses.fixed := rfl

@[simp] theorem footprintFault_fixed (o : AgOp) (a : ℤ) : (s.footprintFault o a).fuses.fixed = s.fuses.fixed := by
  simp [State.footprintFault]

@[simp] theorem putLine_fixed (a bits new : Nat) (mark : Bool) : (s.putLine a bits new mark).fuses.fixed = s.fuses.fixed := by
  simp [State.putLine]

@[simp] theorem takeLine_fixed (a : Nat) : (s.takeLine a).1.fuses.fixed = s.fuses.fixed := by simp [State.takeLine]

/-! ### AFF_READ (R208, R212, R274) -/

@[simp] theorem muSend_fixed (n port : Nat) (t : Token) : (s.muSend n port t).fuses.fixed = s.fuses.fixed := rfl

@[simp] theorem readLine_fixed (o : AgOp) (start : Nat) : (s.readLine o start).fuses.fixed = s.fuses.fixed := by
  unfold State.readLine
  split <;> simp

@[simp] theorem affRead_fixed (o : AgOp) : (s.affRead o).fuses.fixed = s.fuses.fixed := by
  unfold State.affRead
  split <;> simp

/-! ### AFF_WRITE and AFF_ADD (R209, R212, R219, R274) -/

@[simp] theorem placeToken_fixed (o : AgOp) (add : Bool) (start k : Nat) (h : Held) :
    (s.placeToken o add start k h).fuses.fixed = s.fuses.fixed := by
  unfold State.placeToken
  extract_lets g ls per j is bits a g1 z g2 x s1 s2 s3 pc s4 at_ l v s5
  have h3 : s3.fuses.fixed = s.fuses.fixed := by
    dsimp only [s3]
    split <;> simp [s2, s1]
  have h4 : s4.fuses.fixed = s.fuses.fixed := (setAgGo_fixed ..).trans h3
  clear_value s4
  split
  · simp [h4]
  · split
    · simp [h4]
    · split
      · simp [h4]
      · split <;> simp [s5, l, h4]

@[simp] theorem affWrite_fixed (o : AgOp) (add : Bool) : (s.affWrite o add).fuses.fixed = s.fuses.fixed := by
  unfold State.affWrite
  dsimp only
  repeat' split
  all_goals simp

/-! ### List streams (R210, R275) -/

@[simp] theorem listBad_fixed (o : AgOp) (va lines : Nat) : (s.listBad o va lines).1.fuses.fixed = s.fuses.fixed := by
  simp [State.listBad]

@[simp] theorem listError_fixed (o : AgOp) (va : Nat) (e : AccErr) (lines : Nat) :
    (s.listError o va e lines).1.fuses.fixed = s.fuses.fixed := by
  unfold State.listError
  split <;> simp

@[simp] theorem muAccess_fixed (o : AgOp) (va len : Nat) (wr : Bool) : (s.muAccess o va len wr).fuses.fixed = s.fuses.fixed := by
  simp [State.muAccess]

@[simp] theorem listEntry_fixed (o : AgOp) (wr : Bool) : (s.listEntry o wr).1.fuses.fixed = s.fuses.fixed := by
  unfold State.listEntry
  dsimp only
  repeat' split
  all_goals simp

@[simp] theorem listNext_fixed (o : AgOp) (lines : Nat) : (s.listNext o lines).fuses.fixed = s.fuses.fixed := rfl

@[simp] theorem listRefused_fixed (o : AgOp) (st : Status) : (s.listRefused o st).fuses.fixed = s.fuses.fixed := by
  unfold State.listRefused
  split <;> simp

@[simp] theorem listBegin_fixed (o : AgOp) (wr : Bool) : (s.listBegin o wr).fuses.fixed = s.fuses.fixed := by
  unfold State.listBegin
  split
  · next e => exact fixed_of_eq e (listEntry_fixed ..)
  · next e => simp [fixed_of_eq e (listEntry_fixed ..)]
  · next e =>
    dsimp only
    split
    · simp [fixed_of_eq e (listEntry_fixed ..)]
    · split <;> simp [fixed_of_eq e (listEntry_fixed ..)]

@[simp] theorem fillLines_fixed (o : AgOp) (a : Nat) (bs : List Byte) (marks : List Nat) (from_ : Nat) :
    (s.fillLines o a bs marks from_).fuses.fixed = s.fuses.fixed := by
  simp [State.fillLines]

@[simp] theorem fetchPart_fixed (o : AgOp) (e : Entry) : (s.fetchPart o e).fuses.fixed = s.fuses.fixed := by
  unfold State.fetchPart
  split <;> simp

@[simp] theorem listFetch_fixed (o : AgOp) : (s.listFetch o).fuses.fixed = s.fuses.fixed := by
  unfold State.listFetch
  dsimp only
  repeat' split
  all_goals simp

@[simp] theorem drainLines_fixed (o : AgOp) (a n : Nat) : (s.drainLines o a n).1.fuses.fixed = s.fuses.fixed := by
  simp [State.drainLines]

@[simp] theorem scatter_fixed (n : Nat) (e : Entry) (from_ : Nat) (bs : List Byte) (marks : List Nat) :
    (s.scatter n e from_ bs marks).fuses.fixed = s.fuses.fixed := by
  simp [State.scatter]

@[simp] theorem storeSend_fixed (o : AgOp) (e : Entry) : (s.storeSend o e).fuses.fixed = s.fuses.fixed := by
  unfold State.storeSend
  dsimp only
  split <;> simp

@[simp] theorem storePart_fixed (o : AgOp) (e : Entry) : (s.storePart o e).fuses.fixed = s.fuses.fixed := by
  unfold State.storePart
  split <;> simp

@[simp] theorem listStore_fixed (o : AgOp) : (s.listStore o).fuses.fixed = s.fuses.fixed := by
  unfold State.listStore
  dsimp only
  repeat' split
  all_goals simp

/-! ### SYNC, END and the scrub (R276, R202) -/

@[simp] theorem muSync_fixed (o : AgOp) : (s.muSync o).fuses.fixed = s.fuses.fixed := by simp [State.muSync]

@[simp] theorem muEnd_fixed (o : AgOp) : (s.muEnd o).fuses.fixed = s.fuses.fixed := rfl

@[simp] theorem execAffRead_passes (mu : UnitId) (a : Fin 4) : Passes s.fuses.fixed (execAffRead mu a s) := by
  simp [execAffRead]

@[simp] theorem execAffWrite_passes (mu : UnitId) (a : Fin 4) : Passes s.fuses.fixed (execAffWrite mu a s) := by
  simp [execAffWrite]

@[simp] theorem execAffAdd_passes (mu : UnitId) (a : Fin 4) : Passes s.fuses.fixed (execAffAdd mu a s) := by
  simp [execAffAdd]

@[simp] theorem execListFetch_passes (mu : UnitId) (a : Fin 4) : Passes s.fuses.fixed (execListFetch mu a s) := by
  simp [execListFetch]

@[simp] theorem execListStore_passes (mu : UnitId) (a : Fin 4) : Passes s.fuses.fixed (execListStore mu a s) := by
  simp [execListStore]

@[simp] theorem execMuSync_passes (mu : UnitId) (a : Fin 4) : Passes s.fuses.fixed (execMuSync mu a s) := by
  simp [execMuSync]

@[simp] theorem execAgEnd_passes (mu : UnitId) (a : Fin 4) : Passes s.fuses.fixed (execAgEnd mu a s) := by
  simp [execAgEnd]

@[simp] theorem execPatrolScrub_passes (mu : UnitId) (line : Nat) (outcome : Fin 3) :
    Passes s.fuses.fixed (execPatrolScrub mu line outcome s) := by
  simp [execPatrolScrub]

/-! ## Casts (R110 to R119) -/

/-! ### Slots -/

@[simp] theorem dropCasts_fixed : s.dropCasts.fuses.fixed = s.fuses.fixed := rfl

@[simp] theorem setStandby_fixed (ds : List Nat) (x : DaleSlot) : (s.setStandby ds x).fuses.fixed = s.fuses.fixed := rfl

@[simp] theorem setActive_fixed (ds : List Nat) (x : DaleSlot) : (s.setActive ds x).fuses.fixed = s.fuses.fixed := rfl

@[simp] theorem refreshSaddle_fixed (became : Bool) : (s.refreshSaddle became).fuses.fixed = s.fuses.fixed := by
  simp [State.refreshSaddle]

@[simp] theorem evictActive_fixed (ds : List Nat) : (s.evictActive ds).fuses.fixed = s.fuses.fixed := rfl

/-! ### The hot set (R117, R118) -/

@[simp] theorem refreshHot_fixed : s.refreshHot.fuses.fixed = s.fuses.fixed := rfl

@[simp] theorem setHot_fixed (h : SMap HotImage) : (s.setHot h).fuses.fixed = s.fuses.fixed := rfl

@[simp] theorem hotEvict_fixed (e : Nat) : (s.hotEvict e).fuses.fixed = s.fuses.fixed := rfl

@[simp] theorem hotMakeRoom_fixed (fuel frames : Nat) : (State.hotMakeRoom fuel s frames).fuses.fixed = s.fuses.fixed := by
  induction fuel generalizing s with
  | zero => rfl
  | succ n ih =>
    unfold State.hotMakeRoom
    split
    · rfl
    · split <;> simp [ih]

@[simp] theorem hotWrite_fixed (x : HotImage) (img : List Byte) (marks : List Nat) :
    (s.hotWrite x img marks).fuses.fixed = s.fuses.fixed := by
  unfold State.hotWrite
  exact storeEach_fixed ..

@[simp] theorem hotUse_fixed (e : Nat) (pin : Option Nat) : (s.hotUse e pin).fuses.fixed = s.fuses.fixed := rfl

/-! ### CAST_STAGE (R113) -/

@[simp] theorem hotStart_fixed (n : Nat) (r : Rec) (h : List W64) : (s.hotStart n r h).1.fuses.fixed = s.fuses.fixed := by
  simp [State.hotStart]

@[simp] theorem beginStage_fixed (q seq : Nat) (r : Rec) (h : List W64) : (s.beginStage q seq r h).fuses.fixed = s.fuses.fixed := by
  unfold State.beginStage
  dsimp only
  split <;> simp

@[simp] theorem stageDrop_fixed (x : Staging) : (s.stageDrop x).fuses.fixed = s.fuses.fixed := by simp [State.stageDrop]

@[simp] theorem stageFail_fixed (x : Staging) (st : Status) (result detail : W64) :
    (s.stageFail x st result detail).fuses.fixed = s.fuses.fixed := by
  simp [State.stageFail]

theorem stageReads_fixed (q seq n va len : Nat) {t : State} {o : Option Status} (h : s.stageReads q seq n va len = .ok
    (t, o)) :
    t.fuses.fixed = s.fuses.fixed := by
  unfold State.stageReads at h
  split at h
  · cases h
  · have e : State.requestAll (fun s p => s.requestRead (moverIssuer q seq) n p) (s.moverAccess q n va len false) _ = (t, o) :=
      Except.ok.inj h
    exact fixed_of_eq e (by simp)

@[simp] theorem stageStep_fixed (q seq : Nat) : (s.stageStep q seq).fuses.fixed = s.fuses.fixed := by
  unfold State.stageStep
  dsimp only
  repeat' split
  all_goals simp

@[simp] theorem runStage_fixed (q seq : Nat) (r : Rec) : (s.runStage q seq r).fuses.fixed = s.fuses.fixed := by
  unfold State.runStage
  split
  · simp
  · next h => simp [stageReads_fixed _ _ _ _ _ _ h]
  · next h => simp [stageReads_fixed _ _ _ _ _ _ h]

@[simp] theorem specCastStage_keeps : KeepsSpec specCastStage := keepsSpec_of (by simp [specCastStage, CmdSpec.plain]) rfl

@[simp] theorem execCastStage_passes (q : QId) : Passes s.fuses.fixed (execCastStage q s) := by
  simp [execCastStage]

@[simp] theorem writePreload_fixed (c : CastRef) (img : List Byte) (marks : List Nat) :
    (s.writePreload c img marks).fuses.fixed = s.fuses.fixed := by
  unfold State.writePreload
  dsimp only
  exact (foldl_fixed (fun t r => foldl_fixed (fun u p => foldl_fixed (fun v i => fixed_of_fuses (store_fuses ..)) _ _) _ _) _ _).trans (by simp)

@[simp] theorem stageDone_fixed (x : Staging) (c : CastRef) (img : List Byte) (marks : List Nat) (l : Loaded) :
    (s.stageDone x c img marks l).fuses.fixed = s.fuses.fixed := by
  unfold State.stageDone
  dsimp only
  repeat' split
  all_goals simp

@[simp] theorem stageImage_fixed (x : Staging) : (s.stageImage x).fuses.fixed = s.fuses.fixed := by
  unfold State.stageImage
  dsimp only
  repeat' split
  all_goals simp

@[simp] theorem execCastStageComplete_passes (d : DaleId) : Passes s.fuses.fixed (execCastStageComplete d s) := by
  unfold execCastStageComplete
  split <;> simp

/-! ### CAST_SWITCH (R114) -/

@[simp] theorem swapSlots_fixed (first count k : Nat) : (s.swapSlots first count k).fuses.fixed = s.fuses.fixed := by
  simp [State.swapSlots]

theorem latePreload_fixed (first k : Nat) {t : State} (h : s.latePreload first k = .ok t) : t.fuses.fixed = s.fuses.fixed := by
  unfold State.latePreload at h
  split at h
  · dsimp only at h
    split at h <;> cases h
    simp
  · cases h
    rfl

@[simp] theorem switchNow_fixed (q seq first count : Nat) : (s.switchNow q seq first count).fuses.fixed = s.fuses.fixed := by
  unfold State.switchNow
  split
  · simp
  · split
    · simp
    · next h => simp [latePreload_fixed _ _ _ h]

@[simp] theorem setTx_fixed (t : Tx) : (s.setTx t).fuses.fixed = s.fuses.fixed := rfl

@[simp] theorem applyStaged_fixed (cs : List StagedCast) : (s.applyStaged cs).fuses.fixed = s.fuses.fixed := by
  refine foldl_fixed (fun t c => ?_) _ _
  dsimp only
  split
  · simp
  · split <;> simp

@[simp] theorem stageCast_fixed (q seq : Nat) (r : Rec) (evict : Bool) : (s.stageCast q seq r evict).fuses.fixed = s.fuses.fixed := by
  unfold State.stageCast
  split <;> simp

@[simp] theorem runSwitch_fixed (q seq : Nat) (r : Rec) : (s.runSwitch q seq r).fuses.fixed = s.fuses.fixed := by
  unfold State.runSwitch
  split
  · simp
  · split
    · simp
    · dsimp only
      split
      · split
        · simp
        · next h => simp [stageReads_fixed _ _ _ _ _ _ h]
        · next h => exact stageReads_fixed _ _ _ _ _ _ h
      · rfl

@[simp] theorem specCastSwitch_keeps : KeepsSpec specCastSwitch := keepsSpec_of (by simp [specCastSwitch, CmdSpec.plain]) rfl

@[simp] theorem execCastSwitch_passes (q : QId) : Passes s.fuses.fixed (execCastSwitch q s) := by
  simp [execCastSwitch]

@[simp] theorem execCastSwap_passes (d : DaleId) : Passes s.fuses.fixed (execCastSwap d s) := by
  unfold execCastSwap
  split <;> simp

/-! ### CAST_RUN (R111, R115, R155, R218) -/

@[simp] theorem startRun_fixed (owner : RunOwner) (n k total : Nat) (ds : List Binding) :
    (s.startRun owner n k total ds).fuses.fixed = s.fuses.fixed := rfl

@[simp] theorem takeCastTurn_fixed (q : Nat) : (s.takeCastTurn q).fuses.fixed = s.fuses.fixed := rfl

@[simp] theorem runRun_fixed (q seq : Nat) (r : Rec) : (s.runRun q seq r).fuses.fixed = s.fuses.fixed := by
  unfold State.runRun
  dsimp only
  repeat' split
  all_goals simp

@[simp] theorem specCastRun_keeps : KeepsSpec specCastRun := keepsSpec_of (by simp [specCastRun, CmdSpec.plain]) rfl

@[simp] theorem execCastRun_passes (q : QId) : Passes s.fuses.fixed (execCastRun q s) := by
  simp [execCastRun]

/-! ### CAST_EVICT (R52, R115) and zeroing (R116) -/

@[simp] theorem evictStandby_fixed (ds : List Nat) : (s.evictStandby ds).fuses.fixed = s.fuses.fixed := by simp [State.evictStandby]

@[simp] theorem runEvict_fixed (q seq : Nat) (r : Rec) : (s.runEvict q seq r).fuses.fixed = s.fuses.fixed := by
  unfold State.runEvict
  repeat' split
  all_goals simp

@[simp] theorem specCastEvict_keeps : KeepsSpec specCastEvict := keepsSpec_of (by simp [specCastEvict, CmdSpec.plain]) rfl

@[simp] theorem execCastEvict_passes (q : QId) : Passes s.fuses.fixed (execCastEvict q s) := by
  simp [execCastEvict]

@[simp] theorem moveDale_fixed (d : Nat) : (s.moveDale d).fuses.fixed = s.fuses.fixed := by simp [State.moveDale]

@[simp] theorem execDaleZeroingComplete_passes (d : DaleId) : Passes s.fuses.fixed (execDaleZeroingComplete d s) := by
  simp [execDaleZeroingComplete]

end Sys2Proof.Proofs.Fixed

end

section
/-! The fuses that only an image marked active burns, continued: request serving (R382 to R413) and what follows. -/

namespace Sys2Proof.Proofs.Fixed

open Sys2Proof.Machine Sys2Proof.Laws Sys2Proof.Proofs

variable (s : State)

/-! ## Request serving (R382 to R413) -/

/-! ### REQ_ADMIT (R290, R383) -/

theorem admitEarly_fixed (q : Nat) (r : Rec) {t : State} (h : admitEarly s q r = .ok t) : t.fuses.fixed = s.fuses.fixed := by
  unfold admitEarly at h
  dsimp only at h
  split at h
  · cases h
  · split at h <;> cases h
    rfl

theorem serveWrite_fixed (n va : Nat) (bs : List Byte) (mark : Bool) {t : State} (h : s.serveWrite n va bs mark = .ok t) :
    t.fuses.fixed = s.fuses.fixed := by
  unfold State.serveWrite at h
  split at h
  · cases h
  · split at h <;> cases h
    simp

@[simp] theorem runAdmit_fixed (q seq : Nat) (r : Rec) : (s.runAdmit q seq r).fuses.fixed = s.fuses.fixed := by
  unfold State.runAdmit
  dsimp only
  split
  · simp
  · split
    · simp
    · simp
    · next h => simp [serveWrite_fixed _ _ _ _ _ h]

theorem admitEarly_stop_fixed (q : Nat) (r : Rec) {t : State} {d : Status × W64} (h : admitEarly s q r = .error (t, d)) :
    t.fuses.fixed = s.fuses.fixed := by
  unfold admitEarly at h
  dsimp only at h
  split at h
  · cases h
    simp
  · split at h <;> cases h
    rfl

@[simp] theorem specReqAdmit_keeps : KeepsSpec specReqAdmit := {
  run := fun s q seq r => runAdmit_fixed s q seq r
  goes := fun s q r _ h => admitEarly_fixed s q r h
  stops := fun s q r _ _ h => admitEarly_stop_fixed s q r h }

@[simp] theorem execReqAdmit_passes (q : QId) : Passes s.fuses.fixed (execReqAdmit q s) := by
  simp [execReqAdmit]

/-! ### REQ_QUERY and REQ_CANCEL (R384, R407) -/

@[simp] theorem runQuery_fixed (q seq : Nat) (r : Rec) : (s.runQuery q seq r).fuses.fixed = s.fuses.fixed := by
  unfold State.runQuery
  dsimp only
  split
  · simp
  · split
    · simp
    · simp
    · next h => simp [serveWrite_fixed _ _ _ _ _ h]

@[simp] theorem specReqQuery_keeps : KeepsSpec specReqQuery := keepsSpec_of (by simp [specReqQuery, CmdSpec.plain]) rfl

@[simp] theorem execReqQuery_passes (q : QId) : Passes s.fuses.fixed (execReqQuery q s) := by
  simp [execReqQuery]

@[simp] theorem runCancel_fixed (q seq : Nat) (r : Rec) : (s.runCancel q seq r).fuses.fixed = s.fuses.fixed := by
  simp [State.runCancel]

@[simp] theorem specReqCancel_keeps : KeepsSpec specReqCancel := keepsSpec_of (by simp [specReqCancel, CmdSpec.plain]) rfl

@[simp] theorem execReqCancel_passes (q : QId) : Passes s.fuses.fixed (execReqCancel q s) := by
  simp [execReqCancel]

/-! ### SERVE_START and STOP (R385, R413) -/

@[simp] theorem runServe_fixed (q seq : Nat) (r : Rec) : (s.runServe q seq r).fuses.fixed = s.fuses.fixed := rfl

@[simp] theorem specServeStart_keeps : KeepsSpec specServeStart := keepsSpec_of (by simp [specServeStart, CmdSpec.plain]) rfl

@[simp] theorem execServeStart_passes (q : QId) : Passes s.fuses.fixed (execServeStart q s) := by
  simp [execServeStart]

@[simp] theorem stopServe_fixed (m : Nat) : (s.stopServe m).fuses.fixed = s.fuses.fixed := by
  unfold State.stopServe
  split <;> simp

@[simp] theorem execStop_passes (via : Via) (m : BindId) : Passes s.fuses.fixed (execStop via m s) := by
  simp [execStop]

@[simp] theorem promoteBinding_fixed (m : Nat) : (s.promoteBinding m).fuses.fixed = s.fuses.fixed := rfl

@[simp] theorem execPromote_passes (via : Via) (m : BindId) : Passes s.fuses.fixed (execPromote via m s) := by
  simp [execPromote]

/-! ### Forming the batch (R389 to R391) -/

@[simp] theorem leaveOut_fixed (i : Nat) (c : Field) (f : Forming) : (s.leaveOut i c f).1.fuses.fixed = s.fuses.fixed := by
  simp [State.leaveOut]

@[simp] theorem tryCandidate_fixed (cmd : Option (Nat × Nat)) (maxReqs chunk : Nat) (a : State × Forming) (i : Nat) :
    (State.tryCandidate cmd maxReqs chunk a i).1.fuses.fixed = a.1.fuses.fixed := by
  unfold State.tryCandidate
  dsimp only
  split
  · rfl
  · split
    · rfl
    · split
      · simp
      · split
        · next e => simp [fixed_of_eq e (kvGrow_fixed ..)]
        · next e => simp [fixed_of_eq e (kvGrow_fixed ..)]
        · next e => simp [fixed_of_eq e (kvGrow_fixed ..)]

@[simp] theorem formBatch_fixed (m : Nat) (cmd : Option (Nat × Nat)) : (s.formBatch m cmd).1.fuses.fixed = s.fuses.fixed := by
  simp [State.formBatch]

/-! ### The step batch (R387, R388) -/

theorem writeBatch_fixed (b n number pass : Nat) (rows : List BatchRow) {t : State}
    (h : s.writeBatch b n number pass rows = .ok t) :
    t.fuses.fixed = s.fuses.fixed := by
  unfold State.writeBatch at h
  dsimp only at h
  split at h
  · cases h
  · next u hu =>
    have hs := serveWrite_fixed _ _ _ _ _ hu
    refine List.foldlRecOn (motive := fun a : Except (Option AccErr) State => ∀ v, a = .ok v → v.fuses.fixed = s.fuses.fixed) rows _
      (fun v hv => by cases hv; exact hs) (fun a ha x _ v hv => ?_) t h
    split at hv
    · cases hv
    · next w =>
      split at hv
      · cases hv
        exact ha _ rfl
      · exact (serveWrite_fixed _ _ _ _ _ hv).trans (ha _ rfl)

@[simp] theorem abandonWrite_fixed (m n : Nat) (e : Option AccErr) : (s.abandonWrite m n e).fuses.fixed = s.fuses.fixed := by
  unfold State.abandonWrite
  split <;> simp

theorem writeTarget_fixed (m : Nat) (x : ServeRun) {t : State} (h : s.writeTarget m x = .ok t) : t.fuses.fixed = s.fuses.fixed := by
  unfold State.writeTarget at h
  split at h
  · cases h
  · exact writeBatch_fixed _ _ _ _ _ _ h

@[simp] theorem execBatchFormation_passes (m : BindId) : Passes s.fuses.fixed (execBatchFormation m s) := by
  unfold execBatchFormation
  split
  · simp
  · split
    · simp
    · split
      · simp
      · dsimp only
        split
        · simp
        · split
          · simp
          · next h => simp [writeTarget_fixed _ _ _ h]

/-! ### Cast steps of a serving step (R385, R386) -/

@[simp] theorem startCast_fixed (m b : Nat) (x : ServeRun) (views : Nat) : (s.startCast m b x views).fuses.fixed = s.fuses.fixed := by
  unfold State.startCast
  dsimp only
  repeat' split
  all_goals simp

/-! ### The sampler (R386, R393 to R398) -/

@[simp] theorem sampleRow_fixed (b row i : Nat) (extra : List Nat) (cmd : Option (Nat × Nat)) :
    (s.sampleRow b row i extra cmd).1.fuses.fixed = s.fuses.fixed := by
  unfold State.sampleRow
  dsimp only
  split
  · simp
  · simp
  · split
    · simp
    · split
      · next e => exact fixed_of_eq e (engineNan_fixed ..)
      · next e => simp [fixed_of_eq e (engineNan_fixed ..)]

@[simp] theorem sampleRows_fixed (b i : Nat) (extra : List Nat) (cmd : Option (Nat × Nat)) (k : Nat) (props rows : List Nat) :
    (s.sampleRows b i extra cmd k props rows).1.fuses.fixed = s.fuses.fixed := by
  induction rows generalizing s k with
  | nil => rfl
  | cons row rows ih =>
    unfold State.sampleRows
    split
    · next e =>
      have ht := fixed_of_eq e (sampleRow_fixed ..)
      split
      · next e' => exact (fixed_of_eq e' (ih _ _)).trans ht
      · exact (ih _ _).trans ht
    · next e => exact fixed_of_eq e (sampleRow_fixed ..)

@[simp] theorem askSorter_fixed (m need : Nat) : (s.askSorter m need).1.fuses.fixed = s.fuses.fixed := by simp [State.askSorter]

@[simp] theorem propose_fixed (b j : Nat) (cmd : Option (Nat × Nat)) (xs : List Item) :
    (s.propose b j cmd xs).1.fuses.fixed = s.fuses.fixed := by
  induction xs generalizing s with
  | nil => rfl
  | cons x xs ih =>
    unfold State.propose
    extract_lets e u r
    have hr : r.1.fuses.fixed = s.fuses.fixed := by
      dsimp only [r]
      split
      · split
        · next e => exact fixed_of_eq e (sampleRow_fixed ..)
        · next e => exact fixed_of_eq e (sampleRow_fixed ..)
        · next e => exact fixed_of_eq e (sampleRow_fixed ..)
      · rfl
    clear_value r
    split
    · exact hr
    · split
      · next e => exact (fixed_of_eq e (ih _)).trans hr
      · exact (ih _).trans hr

@[simp] theorem sampleItems_fixed (m : Nat) (cmd : Option (Nat × Nat)) (xs : List Item) :
    (s.sampleItems m cmd xs).1.fuses.fixed = s.fuses.fixed := by
  induction xs generalizing s with
  | nil => rfl
  | cons x xs ih =>
    unfold State.sampleItems
    extract_lets e samples rows extra pos r
    have hr : r.1.fuses.fixed = s.fuses.fixed := by
      dsimp only [r]
      split
      · split
        · next e => exact fixed_of_eq e (sampleRows_fixed ..)
        · next e => exact fixed_of_eq e (sampleRows_fixed ..)
        · next e => exact fixed_of_eq e (sampleRows_fixed ..)
        · next e => exact fixed_of_eq e (sampleRows_fixed ..)
      · rfl
    clear_value r
    split
    · exact hr
    · split
      · next e => exact (fixed_of_eq e (ih _)).trans hr
      · exact (ih _).trans hr

@[simp] theorem beginDraft_fixed (m : Nat) (x : ServeRun) : (s.beginDraft m x).fuses.fixed = s.fuses.fixed := by
  unfold State.beginDraft
  dsimp only
  split
  · simp
  · split
    · rfl
    · split
      · simp
      · split
        · simp
        · next h => simp [writeBatch_fixed _ _ _ _ _ _ h]

@[simp] theorem execDraftPass_passes (m : BindId) : Passes s.fuses.fixed (execDraftPass m s) := by
  unfold execDraftPass
  split
  · simp
  · split
    · simp
    · split
      · simp
      · split
        · simp
        · split
          · next e => simpa using fixed_of_eq e (askSorter_fixed ..)
          · next e =>
            have ht := fixed_of_eq e (askSorter_fixed ..)
            split
            · next e' => simp [fixed_of_eq e' (propose_fixed ..), ht]
            · next e' =>
              dsimp only
              split <;> simp [fixed_of_eq e' (propose_fixed ..), ht]

@[simp] theorem beginTarget_fixed (m : Nat) (x : ServeRun) : (s.beginTarget m x).fuses.fixed = s.fuses.fixed := by
  unfold State.beginTarget
  dsimp only
  split
  · rfl
  · split
    · simp
    · next h => simp [writeTarget_fixed _ _ _ h]

@[simp] theorem execSamplerPass_passes (m : BindId) : Passes s.fuses.fixed (execSamplerPass m s) := by
  unfold execSamplerPass
  split
  · simp
  · split
    · simp
    · split
      · simp
      · split
        · simp
        · split
          · simp
          · split
            · next e => simpa using fixed_of_eq e (askSorter_fixed ..)
            · next e =>
              have ht := fixed_of_eq e (askSorter_fixed ..)
              split
              · next e' => simp [fixed_of_eq e' (sampleItems_fixed ..), ht]
              · next e' => simp [fixed_of_eq e' (sampleItems_fixed ..), ht]

/-! ### The commit point (R399 to R401, R406, R408) -/

@[simp] theorem markDeadlines_fixed (m : Nat) : (s.markDeadlines m).fuses.fixed = s.fuses.fixed := by simp [State.markDeadlines]

@[simp] theorem countTokens_fixed (i : Nat) (ids : List Nat) (cmd : Option (Nat × Nat)) :
    (s.countTokens i ids cmd).fuses.fixed = s.fuses.fixed := by
  unfold State.countTokens
  dsimp only
  split
  · rfl
  · split
    · simp
    · split
      · next h => rw [serveWrite_fixed _ _ _ _ _ h]; split <;> simp
      · split <;> simp
      · split <;> simp

@[simp] theorem writeTokens_fixed (i acc st : Nat) (hit : Bool) (j pos : Nat) (ts : List Nat) :
    (s.writeTokens i acc st hit j pos ts).fuses.fixed = s.fuses.fixed := by
  induction ts generalizing s j pos with
  | nil => rfl
  | cons t ts ih => simp [State.writeTokens, ih]

@[simp] theorem remember_fixed (i : Nat) (new : List (Nat × Nat)) : (s.remember i new).fuses.fixed = s.fuses.fixed := rfl

@[simp] theorem commitRows_fixed (x : Item) (drafted : Bool) (cmd : Option (Nat × Nat)) :
    (s.commitRows x drafted cmd).fuses.fixed = s.fuses.fixed := by
  simp [State.commitRows]

@[simp] theorem commitTokens_fixed (x : Item) (cmd : Option (Nat × Nat)) : (s.commitTokens x cmd).1.fuses.fixed = s.fuses.fixed := by
  simp [State.commitTokens]

@[simp] theorem commitItem_fixed (drafted : Bool) (cmd : Option (Nat × Nat)) (x : Item) :
    (s.commitItem drafted cmd x).fuses.fixed = s.fuses.fixed := by
  unfold State.commitItem
  repeat' split
  all_goals simp

@[simp] theorem raiseRings_fixed (old : State) : (s.raiseRings old).fuses.fixed = s.fuses.fixed := by simp [State.raiseRings]

@[simp] theorem promoteEntry_fixed (i : Nat) (cmd : Option (Nat × Nat)) : (s.promoteEntry i cmd).fuses.fixed = s.fuses.fixed := by
  unfold State.promoteEntry
  dsimp only
  repeat' split
  all_goals simp

@[simp] theorem promoteNow_fixed (m : Nat) (cmd : Option (Nat × Nat)) : (s.promoteNow m cmd).fuses.fixed = s.fuses.fixed := by
  simp [State.promoteNow]

@[simp] theorem decideRest_fixed (m : Nat) (items : List Item) : (s.decideRest m items).fuses.fixed = s.fuses.fixed := by
  simp [State.decideRest]

@[simp] theorem nextStep_fixed (m : Nat) (x : ServeRun) : (s.nextStep m x).fuses.fixed = s.fuses.fixed := by simp [State.nextStep]

@[simp] theorem commitStep_fixed (m : Nat) (x : ServeRun) : (s.commitStep m x).fuses.fixed = s.fuses.fixed := by
  simp [State.commitStep]

@[simp] theorem settleCommit_fixed (m : Nat) : (s.settleCommit m).fuses.fixed = s.fuses.fixed := by
  unfold State.settleCommit
  split <;> simp

@[simp] theorem settleCommits_fixed : s.settleCommits.fuses.fixed = s.fuses.fixed := by simp [State.settleCommits]

@[simp] theorem execCommitPoint_passes (m : BindId) : Passes s.fuses.fixed (execCommitPoint m s) := by
  unfold execCommitPoint
  split <;> simp

/-! ### The feed of a follower (R403, R404) -/

@[simp] theorem feedDrop_fixed (m : Nat) : (s.feedDrop m).fuses.fixed = s.fuses.fixed := rfl

@[simp] theorem feedSkip_fixed (fuel m n : Nat) : (State.feedSkip fuel s m n).1.fuses.fixed = s.fuses.fixed := by
  induction fuel generalizing s n with
  | zero => rfl
  | succ k ih => simp [State.feedSkip, ih]

@[simp] theorem takeFeed_fixed (m : Nat) (w0 w1 : W64) : (s.takeFeed m w0 w1).fuses.fixed = s.fuses.fixed := by simp [State.takeFeed]

@[simp] theorem execFeedRecord_passes (m : BindId) : Passes s.fuses.fixed (execFeedRecord m s) := by
  unfold execFeedRecord
  split <;> simp

/-! ### Pendant promotion (R542) -/

@[simp] theorem startPromotion_fixed (trigger chip : Nat) : (s.startPromotion trigger chip).fuses.fixed = s.fuses.fixed := by
  simp [State.startPromotion]

/-! ## The collective engine (R474 to R485) -/

/-! ### Entries (R479) -/

@[simp] theorem setColl_fixed (e : Nat) (x : CollEntry) : (s.setColl e x).fuses.fixed = s.fuses.fixed := rfl

@[simp] theorem refreshColl_fixed : s.refreshColl.fuses.fixed = s.fuses.fixed := rfl

@[simp] theorem dropColl_fixed (e : Nat) : (s.dropColl e).fuses.fixed = s.fuses.fixed := rfl

/-! ### Messages (R442, R478) -/

@[simp] theorem collSend_fixed (x : CollEntry) (j : Nat) (p : CollPiece) : (s.collSend x j p).1.fuses.fixed = s.fuses.fixed := by
  simp [State.collSend]

@[simp] theorem collAnswer_fixed (g gid seq j code : Nat) : (s.collAnswer g gid seq j code).fuses.fixed = s.fuses.fixed := by
  simp [State.collAnswer]

/-! ### Ends -/

@[simp] theorem cutBranches_fixed (x : CollEntry) : (s.cutBranches x).fuses.fixed = s.fuses.fixed := by simp [State.cutBranches]

@[simp] theorem failColl_fixed (e : Nat) (x : CollEntry) (st : Status) (detail : W64) :
    (s.failColl e x st detail).fuses.fixed = s.fuses.fixed := by
  unfold State.failColl
  split <;> simp

@[simp] theorem unpredictable_fixed (k : CollKey) (index src dst : Nat) (bs : List (Byte × Bool)) :
    (s.unpredictable k index src dst bs).1.fuses.fixed = s.fuses.fixed := by
  simp [State.unpredictable]

theorem writeMarked_fixed (n va : Nat) (b : List (Byte × Bool)) {t : State} (h : s.writeMarked n va b = .ok t) :
    t.fuses.fixed = s.fuses.fixed := by
  unfold State.writeMarked at h
  split at h
  · cases h
  · next u hu =>
    have hs := serveWrite_fixed _ _ _ _ _ hu
    refine List.foldlRecOn (motive := fun a : Except (Option AccErr) State => ∀ v, a = .ok v → v.fuses.fixed = s.fuses.fixed) _ _
      (fun v hv => by cases hv; exact hs) (fun a ha x _ v hv => ?_) t h
    dsimp only at hv
    split at hv
    · cases hv
    · split at hv
      · exact (serveWrite_fixed _ _ _ _ _ hv).trans (ha _ rfl)
      · cases hv
        exact ha _ rfl

@[simp] theorem collAccess_fixed (e : Nat) (x : CollEntry) (err : Option AccErr) (word : Nat) :
    (s.collAccess e x err word).fuses.fixed = s.fuses.fixed := by
  unfold State.collAccess
  split <;> simp

/-! ### Progress -/

@[simp] theorem collNan_fixed (x : CollEntry) (es : List NanEvent) : (s.collNan x es).1.fuses.fixed = s.fuses.fixed := by
  unfold State.collNan
  dsimp only
  repeat' split
  all_goals simp

@[simp] theorem collWrite_fixed (e : Nat) (x : CollEntry) (bs : List (Byte × Bool)) :
    (s.collWrite e x bs).fuses.fixed = s.fuses.fixed := by
  unfold State.collWrite
  split
  · rfl
  · dsimp only
    split
    · simp
    · next h => simp [writeMarked_fixed _ _ _ _ h]

@[simp] theorem collCombine_fixed (e : Nat) (x : CollEntry) : (s.collCombine e x).fuses.fixed = s.fuses.fixed := by
  unfold State.collCombine
  dsimp only
  split <;> simp

theorem passAdvance_fixed (e : Nat) (x : CollEntry) (steps : List PassStep) {t : State}
    (h : s.passAdvance e x steps = some t) :
    t.fuses.fixed = s.fuses.fixed := by
  unfold State.passAdvance at h
  split at h
  · cases h
  · split at h
    · cases h
    · dsimp only at h
      split at h <;> cases h
      simp

@[simp] theorem passPump_fixed (e : Nat) (steps : List PassStep) (fuel : Nat) :
    (State.passPump e steps fuel s).fuses.fixed = s.fuses.fixed := by
  induction fuel generalizing s with
  | zero => rfl
  | succ n ih =>
    unfold State.passPump
    split
    · rfl
    · split
      · simp
      · split
        · next h => rw [ih, passAdvance_fixed _ _ _ _ h]
        · rfl

@[simp] theorem treeAdvance_fixed (e : Nat) (x : CollEntry) : (s.treeAdvance e x).fuses.fixed = s.fuses.fixed := by
  unfold State.treeAdvance
  split
  · dsimp only
    split
    · simp
    · split
      · simp
      · next h => simp [writeMarked_fixed _ _ _ _ h]
  · rfl

@[simp] theorem flowPump_fixed (e fuel : Nat) : (State.flowPump e fuel s).fuses.fixed = s.fuses.fixed := by
  induction fuel generalizing s with
  | zero => rfl
  | succ n ih =>
    unfold State.flowPump
    split
    · rfl
    · split
      · rfl
      · split
        · rfl
        · split
          · next h => simp [ih, fixed_of_eq h (collSend_fixed ..)]
          · next h => simp [fixed_of_eq h (collSend_fixed ..)]
          · next h => simp [fixed_of_eq h (collSend_fixed ..)]

@[simp] theorem creditPump_fixed (e : Nat) : (s.creditPump e).fuses.fixed = s.fuses.fixed := by
  unfold State.creditPump
  split <;> simp

@[simp] theorem collPump_fixed (e : Nat) : (s.collPump e).fuses.fixed = s.fuses.fixed := by
  unfold State.collPump
  dsimp only
  repeat' split
  all_goals simp

/-! ### COLLECTIVE (R474, R477) -/

@[simp] theorem collBegin_fixed (e : Nat) (x : CollEntry) (n : Nat) (r : Rec) :
    (s.collBegin e x n r).fuses.fixed = s.fuses.fixed := by
  unfold State.collBegin
  dsimp only
  split <;> simp

@[simp] theorem runColl_fixed (q seq : Nat) (r : Rec) : (s.runColl q seq r).fuses.fixed = s.fuses.fixed := by
  unfold State.runColl
  dsimp only
  repeat' split
  all_goals simp

@[simp] theorem specColl_keeps : KeepsSpec specColl := keepsSpec_of (by simp [specColl, CmdSpec.plain]) rfl

@[simp] theorem execAllReduce_passes (q : QId) : Passes s.fuses.fixed (execAllReduce q s) := by
  simp [execAllReduce]

@[simp] theorem execReduceScatter_passes (q : QId) : Passes s.fuses.fixed (execReduceScatter q s) := by
  simp [execReduceScatter]

@[simp] theorem execAllGather_passes (q : QId) : Passes s.fuses.fixed (execAllGather q s) := by
  simp [execAllGather]

@[simp] theorem execBroadcast_passes (q : QId) : Passes s.fuses.fixed (execBroadcast q s) := by
  simp [execBroadcast]

@[simp] theorem execAllToAll_passes (q : QId) : Passes s.fuses.fixed (execAllToAll q s) := by
  simp [execAllToAll]

@[simp] theorem execBarrier_passes (q : QId) : Passes s.fuses.fixed (execBarrier q s) := by
  simp [execBarrier]

/-! ### Steps and credits (R478, R479, R483) -/

@[simp] theorem collDisagree_fixed (e : Nat) (x : CollEntry) (src : Nat) : (s.collDisagree e x src).fuses.fixed = s.fuses.fixed := by
  simp [State.collDisagree]

@[simp] theorem collReceive_fixed (g : Nat) (m : CollStepMsg) : (s.collReceive g m).fuses.fixed = s.fuses.fixed := by
  unfold State.collReceive
  dsimp only
  repeat' split
  all_goals simp

@[simp] theorem execCollStep_passes (m : CollStepMsg) : Passes s.fuses.fixed (execCollStep m s) := by
  unfold execCollStep
  split <;> simp

@[simp] theorem execCollCredit_passes (gid : BitVec 16) (seq : BitVec 32) (src : Nat) (code : Fin 5) :
    Passes s.fuses.fixed (execCollCredit gid seq src code s) := by
  unfold execCollCredit
  split
  · simp
  · split <;> simp

/-! ### Limits and losses (R479, R483, R485) -/

@[simp] theorem execOrderTimeout_passes (e : Nat) : Passes s.fuses.fixed (execOrderTimeout e s) := by
  unfold execOrderTimeout
  split <;> simp

@[simp] theorem cutBranch_fixed (e : Nat) (x : CollEntry) (j : Nat) (tell : Bool) :
    (s.cutBranch e x j tell).fuses.fixed = s.fuses.fixed := by
  simp [State.cutBranch]

@[simp] theorem execLagLimit_passes (e : Nat) (branch : Fin 4) : Passes s.fuses.fixed (execLagLimit e branch s) := by
  unfold execLagLimit
  split
  · simp
  · split
    · simp
    · split
      · simp
      · split <;> simp

@[simp] theorem collLost_fixed (chip : Nat) : (s.collLost chip).fuses.fixed = s.fuses.fixed := by
  unfold State.collLost
  refine foldl_fixed (fun t y => ?_) _ _
  split
  · rfl
  · split <;> simp

end Sys2Proof.Proofs.Fixed

end

section
/-! The fuses that only an image marked active burns, continued: the Armature cores (R283 to R288) and what follows. -/

namespace Sys2Proof.Proofs.Fixed

open Sys2Proof.Machine Sys2Proof.Laws Sys2Proof.Proofs

variable (s : State)

/-! ## The Armature cores (R283 to R288) -/

/-! ### Cores and runs (R53, R283, R288) -/

@[simp] theorem setCore_fixed (c : Nat) (x : CoreSt) : (s.setCore c x).fuses.fixed = s.fuses.fixed := rfl

@[simp] theorem resetCore_fixed (c : Nat) : (s.resetCore c).fuses.fixed = s.fuses.fixed := rfl

@[simp] theorem endCores_fixed (q seq : Nat) (st : Status) (result detail : W64) :
    (s.endCores q seq st result detail).fuses.fixed = s.fuses.fixed := by
  simp [State.endCores]

@[simp] theorem coreEnds_fixed (c code : Nat) (st : Status) (detail : W64) :
    (s.coreEnds c code st detail).fuses.fixed = s.fuses.fixed := by
  unfold State.coreEnds
  split <;> simp

@[simp] theorem endTrapped_fixed (q seq : Nat) : (s.endTrapped q seq).fuses.fixed = s.fuses.fixed := by
  unfold State.endTrapped
  split <;> simp

@[simp] theorem settleTraps_fixed : s.settleTraps.fuses.fixed = s.fuses.fixed := by simp [State.settleTraps]

@[simp] theorem corePoisoned_fixed (c : Nat) : (s.corePoisoned c).fuses.fixed = s.fuses.fixed := by
  unfold State.corePoisoned
  split <;> simp

@[simp] theorem coreFenceDenied_fixed (c : Nat) : (s.coreFenceDenied c).fuses.fixed = s.fuses.fixed := by simp [State.coreFenceDenied]

@[simp] theorem coresSettle_fixed (q seq : Nat) : (s.coresSettle q seq).fuses.fixed = s.fuses.fixed := by simp [State.coresSettle]

/-! ### Translation and caches (R284, R465) -/

@[simp] theorem writeBack_fixed (c line : Nat) (l : DataLine) : (s.writeBack c line l).1.fuses.fixed = s.fuses.fixed := by
  unfold State.writeBack
  dsimp only
  split <;> simp

@[simp] theorem evictLine_fixed (c : Nat) (code : Bool) (keep : List Nat) :
    (s.evictLine c code keep).1.fuses.fixed = s.fuses.fixed := by
  unfold State.evictLine
  dsimp only
  repeat' split
  all_goals simp

@[simp] theorem fillLine_fixed (c line : Nat) (code : Bool) (bs : List Byte) (mark : Bool) :
    (s.fillLine c line code bs mark).fuses.fixed = s.fuses.fixed := by
  unfold State.fillLine
  split <;> simp

theorem coreLines_fixed (c : Nat) (code wr : Bool) (vas : List Nat) {t : State} (h : s.coreLines c code wr vas = .error t) :
    t.fuses.fixed = s.fuses.fixed := by
  induction vas with
  | nil => cases h
  | cons va vas ih =>
    unfold State.coreLines at h
    split at h
    · cases h
      rfl
    · split at h
      · cases h
        simp
      · cases h
        simp
      · split at h
        · cases h
          simp
        · cases h
          simp
        · split at h
          · next e =>
            cases h
            exact ih e
          · cases h

@[simp] theorem coreFill_fixed (c : Nat) (code : Bool) (keep : List Nat) (ls : List XLine) :
    (s.coreFill c code keep ls).1.fuses.fixed = s.fuses.fixed := by
  induction ls generalizing s with
  | nil => rfl
  | cons l ls ih =>
    unfold State.coreFill
    dsimp only
    split
    · rfl
    · split
      · exact ih s
      · split
        · simp
        · split
          · split
            · split <;> simp
            · simp [ih]
          · split <;> simp
          · simp

@[simp] theorem coreAccess_fixed (c : Nat) (code wr : Bool) (vas : List Nat) :
    (s.coreAccess c code wr vas).1.fuses.fixed = s.fuses.fixed := by
  unfold State.coreAccess
  split
  · next h => exact coreLines_fixed _ _ _ _ _ h
  · simp

/-- A read of a core goes on from a state with the same queue of commands. -/
theorem coreRead_fixed_of (c : Nat) (code : Bool) (va n : Nat) {k : State → List Byte → State}
    (h : ∀ t bs, t.fuses.fixed = s.fuses.fixed → (k t bs).fuses.fixed = s.fuses.fixed) : (s.coreRead c code va n k).fuses.fixed = s.fuses.fixed := by
  have ht := coreAccess_fixed s c code false (lineVas va n)
  unfold State.coreRead
  dsimp only
  split
  · split
    · simp
    · exact h _ _ ht
  · exact ht

@[simp] theorem coreRead_fixed (c : Nat) (code : Bool) (va n : Nat) {k : State → List Byte → State} (h : KeepsEach k) :
    (s.coreRead c code va n k).fuses.fixed = s.fuses.fixed :=
  coreRead_fixed_of s c code va n fun t bs ht => (h t bs).trans ht

@[simp] theorem coreWrite_fixed (c va : Nat) (bs : List Byte) {k : State → State} (h : Keeps k) :
    (s.coreWrite c va bs k).fuses.fixed = s.fuses.fixed := by
  unfold State.coreWrite
  dsimp only
  split
  · rw [h]; simp
  · simp

/-! ### One instruction -/

@[simp] theorem coreExit_fixed (c : Nat) (v : W64) : (s.coreExit c v).fuses.fixed = s.fuses.fixed := by
  unfold State.coreExit
  split
  · rfl
  · dsimp only
    split
    · refine (coreEnds_fixed ..).trans (foldl_fst_fixed (fun a l => ?_) _ _)
      split
      · rfl
      · split <;> simp
    · refine (coresSettle_fixed ..).trans (foldl_fst_fixed (fun a l => ?_) _ _)
      split
      · rfl
      · split <;> simp

@[simp] theorem coreCycles_fixed (c : Nat) : (s.coreCycles c).fuses.fixed = s.fuses.fixed := by
  unfold State.coreCycles
  split <;> simp

@[simp] theorem coreStep_fixed (c len : Nat) (ok : List Byte → Bool) {k : State → CoreSt → State} (h : KeepsEach k) :
    (s.coreStep c len ok k).fuses.fixed = s.fuses.fixed := by
  unfold State.coreStep
  split
  · rfl
  · split
    · rfl
    · split
      · simp
      · split
        · simp
        · refine coreRead_fixed_of _ _ _ _ _ fun t bs ht => ?_
          dsimp only
          split
          · split
            · simp [ht]
            · rfl
          · split
            · rw [h, coreCycles_fixed, ht]
            · simp [ht]

@[simp] theorem coreNext_fixed (c len rd : Nat) (v : W64) : (s.coreNext c len rd v).fuses.fixed = s.fuses.fixed := by
  unfold State.coreNext
  split <;> simp

/-! ### CORE_RUN -/

@[simp] theorem runCoreRun_fixed (q seq : Nat) (r : Rec) : (s.runCoreRun q seq r).fuses.fixed = s.fuses.fixed := by
  simp [State.runCoreRun]

@[simp] theorem specCoreRun_keeps : KeepsSpec specCoreRun := keepsSpec_of (by simp [specCoreRun, CmdSpec.plain]) rfl

@[simp] theorem execCoreRun_passes (q : QId) : Passes s.fuses.fixed (execCoreRun q s) := by
  simp [execCoreRun]

@[simp] theorem execCoreRunTimeout_passes (q : QId) (seq : BitVec 48) : Passes s.fuses.fixed (execCoreRunTimeout q seq s) := by
  unfold execCoreRunTimeout
  split <;> simp

/-! ### Mboval-C (R285 to R287) -/

@[simp] theorem fzStep_fixed (c f7 f3 : Nat) (rd rs1 rs2 : Option Nat) {k : State → CoreSt → State} (h : KeepsEach k) :
    (s.fzStep c f7 f3 rd rs1 rs2 k).fuses.fixed = s.fuses.fixed :=
  coreStep_fixed s c 4 _ h

@[simp] theorem execFzFread_passes (c : CoreId) (rd rs1 : Fin 32) : Passes s.fuses.fixed (execFzFread c rd rs1 s) := by
  simp [execFzFread]

@[simp] theorem fwaitReturn_fixed (c : Nat) (x : CoreSt) (f rd : Nat) : (s.fwaitReturn c x f rd).fuses.fixed = s.fuses.fixed := by
  simp [State.fwaitReturn]

@[simp] theorem execFzFwait_passes (c : CoreId) (rd rs1 rs2 : Fin 32) : Passes s.fuses.fixed (execFzFwait c rd rs1 rs2 s) := by
  simp [execFzFwait]

@[simp] theorem execFzFwaitReturn_passes (c : CoreId) : Passes s.fuses.fixed (execFzFwaitReturn c s) := by
  unfold execFzFwaitReturn
  split
  · split
    · split <;> simp
    · simp
  · simp

@[simp] theorem flushDone_fixed (c : Nat) : (s.flushDone c).fuses.fixed = s.fuses.fixed := by
  unfold State.flushDone
  repeat' split
  all_goals simp

@[simp] theorem coreSignal_fixed (c : Nat) (x : CoreSt) (f v : Nat) (add : Bool) :
    (s.coreSignal c x f v add).fuses.fixed = s.fuses.fixed := by
  unfold State.coreSignal
  dsimp only
  split
  · refine (coreEnds_fixed ..).trans (foldl_fst_fixed (fun a l => ?_) _ _)
    split <;> simp
  · refine (flushDone_fixed ..).trans (foldl_fst_fixed (fun a l => ?_) _ _)
    split <;> simp

@[simp] theorem execFzFsig_passes (c : CoreId) (rs1 rs2 : Fin 32) : Passes s.fuses.fixed (execFzFsig c rs1 rs2 s) := by
  simp [execFzFsig]

@[simp] theorem execFzFadd_passes (c : CoreId) (rs1 rs2 : Fin 32) : Passes s.fuses.fixed (execFzFadd c rs1 rs2 s) := by
  simp [execFzFadd]

@[simp] theorem coreSeal_fixed (q seq : Nat) (body : List Byte) : (s.coreSeal q seq body).1.fuses.fixed = s.fuses.fixed := by
  simp [State.coreSeal]

@[simp] theorem execFzSeal_passes (c : CoreId) (rd rs1 rs2 : Fin 32) : Passes s.fuses.fixed (execFzSeal c rd rs1 rs2 s) := by
  simp [execFzSeal]

@[simp] theorem execFzXlate_passes (c : CoreId) (rd rs1 : Fin 32) : Passes s.fuses.fixed (execFzXlate c rd rs1 s) := by
  refine fzStep_fixed _ _ _ _ _ _ _ fun t x => ?_
  split <;> simp

@[simp] theorem execFzExit_passes (c : CoreId) (rs1 : Fin 32) : Passes s.fuses.fixed (execFzExit c rs1 s) := by
  simp [execFzExit]

@[simp] theorem execFzPack_passes (c : CoreId) (rd rs1 rs2 : Fin 32) : Passes s.fuses.fixed (execFzPack c rd rs1 rs2 s) := by
  refine fzStep_fixed _ _ _ _ _ _ _ fun t x => ?_
  split
  · simp
  · exact coreRead_fixed _ _ _ _ _ fun u bs => coreWrite_fixed _ _ _ _ fun v => coreNext_fixed ..

@[simp] theorem execFzUnpack_passes (c : CoreId) (rd rs1 rs2 : Fin 32) : Passes s.fuses.fixed (execFzUnpack c rd rs1 rs2 s) := by
  refine fzStep_fixed _ _ _ _ _ _ _ fun t x => ?_
  split
  · simp
  · exact coreRead_fixed _ _ _ _ _ fun u bs => coreWrite_fixed _ _ _ _ fun v => coreNext_fixed ..

/-! ### Ordinary instructions (R283, R284) -/

@[simp] theorem breakReservations_fixed (g : Nat) : (s.breakReservations g).fuses.fixed = s.fuses.fixed := rfl

theorem atomicAt_fixed (c va n : Nat) (wr : Bool) {k : State → Place → Nat → Bool → State}
    (h : ∀ t p g m, (k t p g m).fuses.fixed = t.fuses.fixed) : (s.atomicAt c va n wr k).fuses.fixed = s.fuses.fixed := by
  unfold State.atomicAt
  split
  · rfl
  · split
    · simp
    · split
      · next e => exact coreLines_fixed _ _ _ _ _ e
      · split
        · dsimp only
          split
          · rw [coreEnds_fixed]
            split
            · rfl
            · split <;> simp
          · rw [h]
            split
            · rfl
            · split <;> simp
        · rfl

@[simp] theorem coreAmo_fixed (c : Nat) (op : AmoOp) (wide : Bool) (rd rs2 rs1 : Nat) :
    (s.coreAmo c op wide rd rs2 rs1).fuses.fixed = s.fuses.fixed := by
  unfold State.coreAmo
  split
  · rfl
  · generalize (if wide = true then 8 else 4) = n
    refine atomicAt_fixed _ _ _ _ _ fun t p g m => ?_
    split
    · dsimp only
      split <;> simp
    · split
      · exact coreRead_fixed _ _ _ _ _ fun u bs => coreWrite_fixed _ _ _ _ fun v => coreNext_fixed ..
      · split <;> simp
    · rfl

@[simp] theorem coreLr_fixed (c : Nat) (wide : Bool) (rd rs1 : Nat) : (s.coreLr c wide rd rs1).fuses.fixed = s.fuses.fixed := by
  unfold State.coreLr
  split
  · rfl
  · dsimp only
    generalize (if wide = true then 8 else 4) = n
    refine atomicAt_fixed _ _ _ _ _ fun t p g m => ?_
    split
    · simp
    · split
      · simp
      · split <;> simp
    · rfl

@[simp] theorem coreSc_fixed (c : Nat) (wide : Bool) (rd rs2 rs1 : Nat) :
    (s.coreSc c wide rd rs2 rs1).fuses.fixed = s.fuses.fixed := by
  unfold State.coreSc
  split
  · rfl
  · generalize (if wide = true then 8 else 4) = n
    refine atomicAt_fixed _ _ _ _ _ fun t p g m => ?_
    split
    · simp
    · split
      · rfl
      · dsimp only
        split
        · split <;> simp
        · simp
    · rfl

@[simp] theorem coreCsr_fixed (c : Nat) (x : CoreSt) (n : Nat) (op : CsrOp) (rd : Nat) (v : W64) :
    (s.coreCsr c x n op rd v).fuses.fixed = s.fuses.fixed := by
  unfold State.coreCsr
  split <;> simp

@[simp] theorem vecLoad_fixed (c len : Nat) (w : MemW) (es : List VecElem) : (s.vecLoad c len w es).fuses.fixed = s.fuses.fixed := by
  induction es generalizing s with
  | nil => simp [State.vecLoad]
  | cons e es ih =>
    unfold State.vecLoad
    dsimp only
    split
    · split <;> simp [ih]
    · simp

@[simp] theorem vecStore_fixed (c len : Nat) (w : MemW) (es : List VecElem) :
    (s.vecStore c len w es).fuses.fixed = s.fuses.fixed := by
  induction es generalizing s with
  | nil => simp [State.vecStore]
  | cons e es ih =>
    unfold State.vecStore
    dsimp only
    split <;> simp [ih]

@[simp] theorem coreFailed_fixed (c : Nat) : (s.coreFailed c).fuses.fixed = s.fuses.fixed := by simp [State.coreFailed]

@[simp] theorem coreDo_fixed (c : Nat) (x : CoreSt) (act : CoreAct) : (s.coreDo c x act).fuses.fixed = s.fuses.fixed := by
  cases act with
  | loadFloat n w fd rs1 imm =>
    refine coreRead_fixed _ _ _ _ _ fun t bs => ?_
    dsimp only
    split <;> simp
  | _ => simp [State.coreDo]

@[simp] theorem execCoreInstruction_passes (c : CoreId) (act : CoreAct) : Passes s.fuses.fixed (execCoreInstruction c act s) := by
  simp [execCoreInstruction]

@[simp] theorem execCoreTrap_passes (c : CoreId) (cause : BitVec 8) : Passes s.fuses.fixed (execCoreTrap c cause s) := by
  unfold execCoreTrap
  split <;> simp

/-! ### Responses (R465, R469, R447) -/

@[simp] theorem coreLineArrived_fixed (c : Nat) (bs : List Byte) (mark : Bool) :
    (s.coreLineArrived c bs mark).fuses.fixed = s.fuses.fixed := by
  unfold State.coreLineArrived
  repeat' split
  all_goals simp

@[simp] theorem coreAtomicArrived_fixed (c old : Nat) : (s.coreAtomicArrived c old).fuses.fixed = s.fuses.fixed := by
  unfold State.coreAtomicArrived
  repeat' split
  all_goals simp

@[simp] theorem coreAcked_fixed (c : Nat) : (s.coreAcked c).fuses.fixed = s.fuses.fixed := by
  unfold State.coreAcked
  split <;> simp

@[simp] theorem coreRequestFailed_fixed (c : Nat) (st : Status) : (s.coreRequestFailed c st).fuses.fixed = s.fuses.fixed := by
  unfold State.coreRequestFailed
  split <;> simp

@[simp] theorem coreWritePoisoned_fixed (c : Nat) : (s.coreWritePoisoned c).fuses.fixed = s.fuses.fixed := by
  unfold State.coreWritePoisoned
  split <;> simp

/-! ## The Meander ring engine (R316 to R345) -/

/-! ### Lanes and their rings (R322, R323, R328) -/

@[simp] theorem setRingPtr_fixed (n r : Nat) (p : RingPtr) : (s.setRingPtr n r p).fuses.fixed = s.fuses.fixed := rfl

/-! ### How a run ends (R324, R336 to R340) -/

@[simp] theorem endRing_fixed (g : Nat) (x : RingRun) (st : Status) (detail : W64) :
    (s.endRing g x st detail).fuses.fixed = s.fuses.fixed := by
  unfold State.endRing
  refine (foldl_fixed (fun t d => ?_) _ _).trans (by simp)
  dsimp only
  split
  · split <;> split <;> simp
  · split <;> simp

@[simp] theorem ringLocal_fixed (g : Nat) (x : RingRun) (st : Status) (detail : W64) :
    (s.ringLocal g x st detail).fuses.fixed = s.fuses.fixed := by
  simp [State.ringLocal]

@[simp] theorem ringAccess_fixed (g : Nat) (x : RingRun) (e : AccErr) (word : Nat) :
    (s.ringAccess g x e word).fuses.fixed = s.fuses.fixed := by
  simp [State.ringAccess]

@[simp] theorem setRingRun_fixed (g : Nat) (x : RingRun) : (s.setRingRun g x).fuses.fixed = s.fuses.fixed := rfl

/-! ### Setup (R325) -/

@[simp] theorem takeSetup_fixed (g : Nat) (m : RingSetupMsg) : (s.takeSetup g m).fuses.fixed = s.fuses.fixed := by
  unfold State.takeSetup
  split <;> simp

@[simp] theorem takeHeldSetups_fixed (g : Nat) : (s.takeHeldSetups g).fuses.fixed = s.fuses.fixed := by simp [State.takeHeldSetups]

@[simp] theorem beginRing_fixed (g : Nat) (x : RingRun) : (s.beginRing g x).fuses.fixed = s.fuses.fixed := by
  unfold State.beginRing
  dsimp only
  split
  · simp
  · next h => simp [writeVirt_fixed _ _ _ _ h]

@[simp] theorem runRing_fixed (q seq : Nat) (r : Rec) : (s.runRing q seq r).fuses.fixed = s.fuses.fixed := by
  unfold State.runRing
  dsimp only
  split <;> simp

@[simp] theorem specRingRun_keeps : KeepsSpec specRingRun := keepsSpec_of (by simp [specRingRun, CmdSpec.plain]) rfl

@[simp] theorem execRingRun_passes (q : QId) : Passes s.fuses.fixed (execRingRun q s) := by
  simp [execRingRun]

/-! ### Circulation (R326 to R329) -/

@[simp] theorem putBlock_fixed (l : LaneSt) (bs : List Byte) (mark : Bool) : (s.putBlock l bs mark).fuses.fixed = s.fuses.fixed := by
  simp [State.putBlock]

@[simp] theorem sendBlock_fixed (g i : Nat) (b : BlockId) (bs : List Byte) (mark : Bool) :
    (s.sendBlock g i b bs mark).fuses.fixed = s.fuses.fixed := by
  simp [State.sendBlock]

theorem laneMove_fixed (g : Nat) (x : RingRun) (i : Nat) {t : State} {l : LaneSt} (h : s.laneMove g x i = some (.ok (t, l))) :
    t.fuses.fixed = s.fuses.fixed := by
  unfold State.laneMove at h
  dsimp only at h
  repeat' split at h
  all_goals cases h
  all_goals simp

@[simp] theorem lanePump_fixed (g i fuel : Nat) : (State.lanePump g i fuel s).fuses.fixed = s.fuses.fixed := by
  induction fuel generalizing s with
  | zero => rfl
  | succ n ih =>
    unfold State.lanePump
    split
    · rfl
    · split
      · rfl
      · simp
      · next h => simp [ih, laneMove_fixed _ _ _ _ h]

@[simp] theorem ringSteps_fixed (g fuel : Nat) : (State.ringSteps g fuel s).fuses.fixed = s.fuses.fixed := by
  induction fuel generalizing s with
  | zero => rfl
  | succ n ih =>
    unfold State.ringSteps
    split
    · rfl
    · dsimp only
      split
      · simp [ih]
      · rfl

@[simp] theorem ringPump_fixed (g : Nat) : (s.ringPump g).fuses.fixed = s.fuses.fixed := by
  unfold State.ringPump
  dsimp only
  repeat' split
  all_goals simp

@[simp] theorem takeBlock_fixed (g : Nat) (x : RingRun) (m : RingBlockMsg) : (s.takeBlock g x m).fuses.fixed = s.fuses.fixed := by
  unfold State.takeBlock
  repeat' split
  all_goals simp

@[simp] theorem execRingBlock_passes (g : GroupId) (m : RingBlockMsg) : Passes s.fuses.fixed (execRingBlock g m s) := by
  unfold execRingBlock
  split <;> simp

@[simp] theorem laneEvent_fixed (g lane : Nat) (f : LaneSt → LaneSt) : (s.laneEvent g lane f).fuses.fixed = s.fuses.fixed := by
  unfold State.laneEvent
  repeat' split
  all_goals simp

@[simp] theorem execRingGrant_passes (g : GroupId) (lane : Nat) : Passes s.fuses.fixed (execRingGrant g lane s) := by
  simp [execRingGrant]

@[simp] theorem execRingAck_passes (g : GroupId) (lane : Nat) : Passes s.fuses.fixed (execRingAck g lane s) := by
  simp [execRingAck]

@[simp] theorem execRingSetup_passes (g : GroupId) (m : RingSetupMsg) : Passes s.fuses.fixed (execRingSetup g m s) := by
  simp [execRingSetup]

/-! ### Step words and the feed (R333, R334) -/

@[simp] theorem execStepWord_passes (g : GroupId) (index : Nat) : Passes s.fuses.fixed (execStepWord g index s) := by
  unfold execStepWord
  dsimp only
  repeat' split
  all_goals simp

@[simp] theorem feedOne_fixed (g : Nat) (x : RingRun) : (s.feedOne g x).fuses.fixed = s.fuses.fixed := by
  unfold State.feedOne
  extract_lets m z pair q h j d start
  have hs : ∀ t y o, start = .ok (t, y, o) → t.fuses.fixed = s.fuses.fixed := fun t y o e => by
    dsimp only [start] at e
    split at e
    · cases e
      rfl
    · split at e
      · cases e
      · cases e
        simp
  clear_value start
  split
  · rfl
  · split
    · simp
    · simp [hs _ _ _ rfl]
    · have ht := hs _ _ _ rfl
      split
      · simp [ht]
      · simp [ht]

@[simp] theorem execRingFeed_passes (g : GroupId) : Passes s.fuses.fixed (execRingFeed g s) := by
  unfold execRingFeed
  dsimp only
  split <;> simp

/-! ### Slow and lost members (R336 to R338) -/

@[simp] theorem execRingStall_passes (g : GroupId) : Passes s.fuses.fixed (execRingStall g s) := by
  unfold execRingStall
  dsimp only
  split <;> simp

@[simp] theorem ringNeighbourLost_fixed (g : Nat) (succ : Bool) : (s.ringNeighbourLost g succ).fuses.fixed = s.fuses.fixed := by
  unfold State.ringNeighbourLost
  split <;> simp

@[simp] theorem ringsLose_fixed (lost : Nat → Bool → Bool) : (s.ringsLose lost).fuses.fixed = s.fuses.fixed := by
  simp [State.ringsLose]

@[simp] theorem ringPortLost_fixed (p : Nat) : (s.ringPortLost p).fuses.fixed = s.fuses.fixed := by simp [State.ringPortLost]

@[simp] theorem ringChipLost_fixed (chip : Nat) : (s.ringChipLost chip).fuses.fixed = s.fuses.fixed := by simp [State.ringChipLost]

@[simp] theorem execRingAbort_passes (g : GroupId) (runId : BitVec 32) (cause : Fin 4) (member : Nat) (fromPred : Bool) :
    Passes s.fuses.fixed (execRingAbort g runId cause member fromPred s) := by
  unfold execRingAbort
  dsimp only
  split <;> simp

@[simp] theorem endNoticed_fixed (g : Nat) : (s.endNoticed g).fuses.fixed = s.fuses.fixed := by
  unfold State.endNoticed
  repeat' split
  all_goals simp

@[simp] theorem settleNotices_fixed : s.settleNotices.fuses.fixed = s.fuses.fixed := by simp [State.settleNotices]

/-! ## The Watershed unit (R347 to R368) -/

/-! ### Operands (R347, R350) -/

@[simp] theorem planErr_fixed (n : Nat) (e : PlanErr) (cmd : Option (Nat × Nat)) :
    (s.planErr n e cmd).1.fuses.fixed = s.fuses.fixed := by
  unfold State.planErr
  split <;> simp

theorem routeEarly_fixed (q : Nat) (r : Rec) {t : State} (h : routeEarly s q r = .ok t) : t.fuses.fixed = s.fuses.fixed := by
  unfold routeEarly at h
  dsimp only at h
  repeat' split at h
  all_goals cases h
  all_goals rfl

/-! ### Choosing experts (R352 to R354) -/

theorem routeEarly_stop_fixed (q : Nat) (r : Rec) {t : State} {d : Status × W64} (h : routeEarly s q r = .error (t, d)) :
    t.fuses.fixed = s.fuses.fixed := by
  unfold routeEarly at h
  dsimp only at h
  split at h
  · cases h
    rfl
  · split at h
    · cases h
    · split at h
      · cases h
      · exact fixed_of_eq (Except.error.inj h) (planErr_fixed ..)

/-! ### Sending and receiving: the common parts -/

@[simp] theorem refreshHeld_fixed (g : Nat) : (s.refreshHeld g).fuses.fixed = s.fuses.fixed := rfl

@[simp] theorem routeAnswer_fixed (g src xid st : Nat) : (s.routeAnswer g src xid st).fuses.fixed = s.fuses.fixed := by
  simp [State.routeAnswer]

@[simp] theorem closeRoute_fixed (g : Nat) (st : Status) (member : Nat) (result detail : W64) :
    (s.closeRoute g st member result detail).fuses.fixed = s.fuses.fixed := by
  unfold State.closeRoute
  split <;> simp

/-! ### Receiving (R362 to R366, R444) -/

@[simp] theorem routeRefuse_fixed (g src xid : Nat) : (s.routeRefuse g src xid).fuses.fixed = s.fuses.fixed := by
  unfold State.routeRefuse
  dsimp only
  split <;> simp

@[simp] theorem takeRow_fixed (g : Nat) (p : RoutePlan) (m : RouteRowMsg) : (s.takeRow g p m).fuses.fixed = s.fuses.fixed := by
  unfold State.takeRow
  split <;> simp

@[simp] theorem zeroIdle_fixed (g : Nat) (p : RoutePlan) (src : Nat) : (s.zeroIdle g p src).fuses.fixed = s.fuses.fixed := by
  simp [State.zeroIdle]

@[simp] theorem takeEnd_fixed (g src phase : Nat) (p : RoutePlan) : (s.takeEnd g src phase p).fuses.fixed = s.fuses.fixed := by
  simp [State.takeEnd]

@[simp] theorem routeTake_fixed (g : Nat) (h : HeldRoute) : (s.routeTake g h).fuses.fixed = s.fuses.fixed := by
  unfold State.routeTake
  repeat' split
  all_goals simp

@[simp] theorem releaseHeld_fixed (g : Nat) : (s.releaseHeld g).fuses.fixed = s.fuses.fixed := by simp [State.releaseHeld]

/-! ### Sending (R363, R364) -/

@[simp] theorem sendSegments_fixed (g phase n : Nat) (p : RoutePlan) (x : RowSend) (fuel i : Nat) :
    (s.sendSegments g phase n p x fuel i).1.fuses.fixed = s.fuses.fixed := by
  induction fuel generalizing s i with
  | zero => rfl
  | succ k ih =>
    unfold State.sendSegments
    dsimp only
    split
    · rfl
    · split
      · next h => exact fixed_of_eq h (issueRemote_fixed ..)
      · next h => rw [ih, fixed_of_eq h (issueRemote_fixed ..)]

@[simp] theorem sendRows_fixed (g phase n : Nat) (p : RoutePlan) (xs : List RowSend) :
    (s.sendRows g phase n p xs).1.fuses.fixed = s.fuses.fixed := by
  induction xs generalizing s with
  | nil => rfl
  | cons x xs ih =>
    unfold State.sendRows
    split
    · next h => exact fixed_of_eq h (sendSegments_fixed ..)
    · next h => simp [ih, fixed_of_eq h (sendSegments_fixed ..)]

@[simp] theorem sendMembers_fixed (g phase n : Nat) (p : RoutePlan) (rows : List RowSend) (ms : List Nat) :
    (s.sendMembers g phase n p rows ms).1.fuses.fixed = s.fuses.fixed := by
  induction ms generalizing s with
  | nil => rfl
  | cons m ms ih =>
    unfold State.sendMembers
    split
    · next h => exact fixed_of_eq h (sendRows_fixed ..)
    · next h =>
      have ht := fixed_of_eq h (sendRows_fixed ..)
      split
      · next h' => exact (fixed_of_eq h' (issueRemote_fixed ..)).trans ht
      · next h' => rw [ih, fixed_of_eq h' (issueRemote_fixed ..), ht]

@[simp] theorem beginExchange_fixed (g phase q seq : Nat) : (s.beginExchange g phase q seq).fuses.fixed = s.fuses.fixed := by
  unfold State.beginExchange
  dsimp only
  split
  · simp
  · simp
  · split
    · simp
    · split
      · next h => simp [fixed_of_eq h (sendMembers_fixed ..)]
      · next h => split <;> simp [fixed_of_eq h (sendMembers_fixed ..)]

/-! ### Where the plan lands (R358 to R361) -/

theorem writeArea_fixed (n a : Nat) (xs : List (Nat × List Byte)) {t : State} (h : s.writeArea n a xs = .ok t) :
    t.fuses.fixed = s.fuses.fixed := by
  induction xs generalizing s with
  | nil => cases h; rfl
  | cons x xs ih =>
    unfold State.writeArea at h
    split at h
    · cases h
    · next e => exact (ih _ h).trans (serveWrite_fixed _ _ _ _ _ e)

@[simp] theorem zeroReturns_fixed (g : Nat) (p : RoutePlan) : (s.zeroReturns g p).fuses.fixed = s.fuses.fixed := by
  unfold State.zeroReturns
  refine foldl_fixed (fun t x => foldl_fixed (fun u i => ?_) _ _) _ _
  split
  · split <;> simp
  · simp

@[simp] theorem finishPlan_fixed (g : Nat) : (s.finishPlan g).fuses.fixed = s.fuses.fixed := by
  unfold State.finishPlan
  dsimp only
  split
  · split
    · simp
    · simp
    · next h => simp [writeArea_fixed _ _ _ _ h]
  · rfl

@[simp] theorem planChoices_fixed (g n q seq : Nat) (p : RoutePlan) (cs : List (List Choice)) (es : List NanEvent) :
    (s.planChoices g n q seq p cs es).fuses.fixed = s.fuses.fixed := by
  unfold State.planChoices
  split
  · next h => simp [fixed_of_eq h (engineNan_fixed ..)]
  · next h =>
    dsimp only
    split <;> simp [fixed_of_eq h (engineNan_fixed ..)]

@[simp] theorem beginPlan_fixed (g q seq : Nat) (r : Rec) : (s.beginPlan g q seq r).fuses.fixed = s.fuses.fixed := by
  unfold State.beginPlan
  dsimp only
  repeat' split
  all_goals simp

/-! ### The unit (R350, R365) -/

@[simp] theorem beginRoute_fixed (g q seq : Nat) : (s.beginRoute g q seq).fuses.fixed = s.fuses.fixed := by
  unfold State.beginRoute
  split <;> simp

@[simp] theorem settleExchange_fixed (g : Nat) : (s.settleExchange g).fuses.fixed = s.fuses.fixed := by
  unfold State.settleExchange
  split <;> simp

@[simp] theorem wsuPump_fixed (fuel : Nat) : (State.wsuPump fuel s).fuses.fixed = s.fuses.fixed := by
  induction fuel generalizing s with
  | zero => rfl
  | succ n ih =>
    unfold State.wsuPump
    dsimp only
    split <;> split <;> simp [ih]

@[simp] theorem wsuGo_fixed : s.wsuGo.fuses.fixed = s.fuses.fixed := by simp [State.wsuGo]

@[simp] theorem runRoute_fixed (q seq : Nat) (r : Rec) : (s.runRoute q seq r).fuses.fixed = s.fuses.fixed := by simp [State.runRoute]

@[simp] theorem specRoute_keeps : KeepsSpec specRoute := {
  run := fun s q seq r => runRoute_fixed s q seq r
  goes := fun s q r _ h => routeEarly_fixed s q r h
  stops := fun s q r _ _ h => routeEarly_stop_fixed s q r h }

@[simp] theorem execPlan_passes (q : QId) : Passes s.fuses.fixed (execPlan q s) := by
  simp [execPlan]

@[simp] theorem execDispatch_passes (q : QId) : Passes s.fuses.fixed (execDispatch q s) := by
  simp [execDispatch]

@[simp] theorem execRouteReturn_passes (q : QId) : Passes s.fuses.fixed (execRouteReturn q s) := by
  simp [execRouteReturn]

@[simp] theorem execRouteLimit_passes (g : GroupId) : Passes s.fuses.fixed (execRouteLimit g s) := by
  unfold execRouteLimit
  dsimp only
  repeat' split
  all_goals simp

@[simp] theorem routeFail_fixed (g : Nat) (st : Status) (member : Nat) : (s.routeFail g st member).fuses.fixed = s.fuses.fixed := by
  unfold State.routeFail
  split <;> simp

@[simp] theorem routeLost_fixed (chip : Nat) : (s.routeLost chip).fuses.fixed = s.fuses.fixed := by
  unfold State.routeLost
  refine foldl_fixed (fun t g => ?_) _ _
  split <;> simp

@[simp] theorem routeAcked_fixed (g dst st : Nat) : (s.routeAcked g dst st).fuses.fixed = s.fuses.fixed := by
  unfold State.routeAcked
  split <;> simp

@[simp] theorem execRouteRow_passes (g : GroupId) (m : RouteRowMsg) : Passes s.fuses.fixed (execRouteRow g m s) := by
  simp [execRouteRow]

@[simp] theorem execRouteEnd_passes (g : GroupId) (src phase : Nat) (hdr : RouteHdr) (xid : BitVec 32) :
    Passes s.fuses.fixed (execRouteEnd g src phase hdr xid s) := by
  simp [execRouteEnd]

/-! ### The sorter (R367, R377) -/

@[simp] theorem grantSorter_fixed (who since : Nat) : (s.grantSorter who since).fuses.fixed = s.fuses.fixed := by
  simp [State.grantSorter]

@[simp] theorem execSorterGrant_passes (sampler : Bool) : Passes s.fuses.fixed (execSorterGrant sampler s) := by
  unfold execSorterGrant
  dsimp only
  repeat' split
  all_goals simp

@[simp] theorem execSortComplete_passes : Passes s.fuses.fixed (execSortComplete s) := by
  unfold execSortComplete
  dsimp only
  repeat' split
  all_goals simp

@[simp] theorem execWsuSortStatRead_passes (via : Via) : Passes s.fuses.fixed (execWsuSortStatRead via s) := by
  simp [execWsuSortStatRead]

end Sys2Proof.Proofs.Fixed

end

section
/-! The fuses that only an image marked active burns, continued: remote memory (R461 to R470) and what follows. -/

namespace Sys2Proof.Proofs.Fixed

open Sys2Proof.Machine Sys2Proof.Laws Sys2Proof.Proofs

variable (s : State)

/-! ## Remote memory (R461 to R470) -/

/-! ### Export windows (R466, R467) -/

@[simp] theorem notify_fixed (w n : Nat) : (s.notify w n).fuses.fixed = s.fuses.fixed := by simp [State.notify]

/-! ### Responses that leave (R443, R469, R472) -/

@[simp] theorem respond_fixed (m : Msg) (op status : Nat) (mark : Bool) (data : List Byte) :
    (s.respond m op status mark data).fuses.fixed = s.fuses.fixed := by
  simp [State.respond]

@[simp] theorem screened_fixed (m : Msg) (op : Nat) (right : Field) (len : Nat) {go : Nat → State}
    (h : ∀ w, (go w).fuses.fixed = s.fuses.fixed) : (s.screened m op right len go).fuses.fixed = s.fuses.fixed := by
  unfold State.screened
  split
  · simp
  · split
    · simp
    · exact h _

/-! ### Inbound messages -/

@[simp] theorem plainReply_fixed (m : Msg) (op step len : Nat) (mark : Bool) :
    (s.plainReply m op step len mark).fuses.fixed = s.fuses.fixed := by
  simp [State.plainReply]

@[simp] theorem inboundRead_fixed (m : Msg) : (s.inboundRead m).fuses.fixed = s.fuses.fixed := by simp [State.inboundRead]

@[simp] theorem written_fixed (m : Msg) (w n op : Nat) : (s.written m w n op).fuses.fixed = s.fuses.fixed := by simp [State.written]

@[simp] theorem inboundStore_fixed (m : Msg) (op w : Nat) : (s.inboundStore m op w).fuses.fixed = s.fuses.fixed := by
  simp [State.inboundStore]

@[simp] theorem ringPut_fixed (m : Msg) (w n r : Nat) : (s.ringPut m w n r).fuses.fixed = s.fuses.fixed := by simp [State.ringPut]

@[simp] theorem inboundAtomic_fixed (m : Msg) : (s.inboundAtomic m).fuses.fixed = s.fuses.fixed := by
  refine screened_fixed _ _ _ _ _ fun w => ?_
  split
  · simp
  · split
    · simp
    · dsimp only
      split <;> simp

@[simp] theorem execRead_passes (m : Msg) : Passes s.fuses.fixed (execRead m s) := by
  simp [execRead]

@[simp] theorem execWrite_passes (m : Msg) : Passes s.fuses.fixed (execWrite m s) := by
  simp [execWrite]

@[simp] theorem execAtomic_passes (m : Msg) : Passes s.fuses.fixed (execAtomic m s) := by
  simp [execAtomic]

@[simp] theorem execTilePut_passes (m : Msg) : Passes s.fuses.fixed (execTilePut m s) := by
  refine receive_fixed _ _ _ fun t => screened_fixed _ _ _ _ _ fun w => ?_
  split <;> simp

/-! ### Requests that end (R462, R469, R470) -/

@[simp] theorem dropRequest_fixed (xid : Nat) : (s.dropRequest xid).fuses.fixed = s.fuses.fixed := rfl

@[simp] theorem mapRequest_fixed (xid : Nat) (f : Request → Request) : (s.mapRequest xid f).fuses.fixed = s.fuses.fixed := rfl

@[simp] theorem late_fixed : s.late.fuses.fixed = s.fuses.fixed := rfl

@[simp] theorem resumeFlight_fixed (q seq : Nat) : (s.resumeFlight q seq).fuses.fixed = s.fuses.fixed := by
  unfold State.resumeFlight
  split <;> simp

@[simp] theorem flightFailed_fixed (q seq : Nat) (st : Status) : (s.flightFailed q seq st).fuses.fixed = s.fuses.fixed := by
  unfold State.flightFailed
  split <;> simp

@[simp] theorem failRequest_fixed (x : Request) (st : Status) : (s.failRequest x st).fuses.fixed = s.fuses.fixed := by
  unfold State.failRequest
  dsimp only
  repeat' split
  all_goals simp

@[simp] theorem writePoisoned_fixed (x : Request) : (s.writePoisoned x).fuses.fixed = s.fuses.fixed := by
  unfold State.writePoisoned
  repeat' split
  all_goals simp

@[simp] theorem requestDone_fixed (x : Request) : (s.requestDone x).fuses.fixed = s.fuses.fixed := by
  unfold State.requestDone
  split <;> simp

@[simp] theorem markUnits_fixed (a n : Nat) (mark : Bool) : (s.markUnits a n mark).fuses.fixed = s.fuses.fixed := rfl

@[simp] theorem deliver_fixed (c a : Nat) (bs : List Byte) (mark : Bool) : (s.deliver c a bs mark).fuses.fixed = s.fuses.fixed := rfl

theorem answer_fixed (m : Msg) (ops : List Nat) {done : State → Request → Bool → State}
    (h : ∀ t x p, (done t x p).fuses.fixed = t.fuses.fixed) : (s.answer m ops done).fuses.fixed = s.fuses.fixed := by
  unfold State.answer
  split
  · simp
  · split
    · simp
    · simp [h]

@[simp] theorem execReadData_passes (m : Msg) : Passes s.fuses.fixed (execReadData m s) := by
  refine receive_fixed _ _ _ fun t => answer_fixed _ _ _ fun u x mark => ?_
  split <;> simp

@[simp] theorem execWriteAck_passes (m : Msg) : Passes s.fuses.fixed (execWriteAck m s) := by
  refine receive_fixed _ _ _ fun t => answer_fixed _ _ _ fun u x mark => ?_
  split <;> simp

@[simp] theorem execAtomicData_passes (m : Msg) : Passes s.fuses.fixed (execAtomicData m s) := by
  refine receive_fixed _ _ _ fun t => answer_fixed _ _ _ fun u x mark => ?_
  split
  · split <;> simp
  · rfl

@[simp] theorem execTileAck_passes (m : Msg) : Passes s.fuses.fixed (execTileAck m s) := by
  refine receive_fixed _ _ _ fun t => answer_fixed _ _ _ fun u x mark => ?_
  split <;> simp

@[simp] theorem execRingPutResend_passes (xid : BitVec 32) : Passes s.fuses.fixed (execRingPutResend xid s) := by
  unfold execRingPutResend
  dsimp only
  repeat' split
  all_goals simp

@[simp] theorem execRmTimeout_passes (xid : BitVec 32) : Passes s.fuses.fixed (execRmTimeout xid s) := by
  unfold execRmTimeout
  split <;> simp

/-! ### The Plain (R446, R447) -/

@[simp] theorem aperturePlain_fixed (p a n : Nat) (bs : List Byte) (step : Nat) :
    (s.aperturePlain p a n bs step).fuses.fixed = s.fuses.fixed := by
  simp [State.aperturePlain]

@[simp] theorem plainDone_fixed (x : Request) (data : List Byte) (mark : Bool) :
    (s.plainDone x data mark).fuses.fixed = s.fuses.fixed := by
  unfold State.plainDone
  repeat' split
  all_goals simp

@[simp] theorem plainPoison_fixed (l job addr : Nat) : (s.plainPoison l job addr).fuses.fixed = s.fuses.fixed := by
  simp [State.plainPoison]

@[simp] theorem plainAnswer_fixed (m : PlainRsp) (op : Nat) : (s.plainAnswer m op).fuses.fixed = s.fuses.fixed := by
  unfold State.plainAnswer
  repeat' split
  all_goals simp

@[simp] theorem execPData_passes (m : PlainRsp) : Passes s.fuses.fixed (execPData m s) := by
  simp [execPData]

@[simp] theorem execPWack_passes (m : PlainRsp) : Passes s.fuses.fixed (execPWack m s) := by
  simp [execPWack]

@[simp] theorem execPlainTimeout_passes (l : LinkId) (xid : BitVec 32) : Passes s.fuses.fixed (execPlainTimeout l xid s) := by
  unfold execPlainTimeout
  split <;> simp

/-! ## Lost chips and ports, notices and promotion (R538 to R544) -/

/-! ### Notices that leave (R538, R539, R541) -/

@[simp] theorem noticeOn_fixed (p op kind chip xid : Nat) : (s.noticeOn p op kind chip xid).fuses.fixed = s.fuses.fixed := by
  simp [State.noticeOn]

@[simp] theorem flood_fixed (kind chip xid : Nat) (except_ : Option Nat) :
    (s.flood kind chip xid except_).fuses.fixed = s.fuses.fixed := by
  simp [State.flood]

@[simp] theorem noteXid_fixed (xid : Nat) : (s.noteXid xid).fuses.fixed = s.fuses.fixed := rfl

@[simp] theorem newXid_fixed : s.newXid.1.fuses.fixed = s.fuses.fixed := rfl

@[simp] theorem noticePartner_fixed (kind chip xid : Nat) : (s.noticePartner kind chip xid).fuses.fixed = s.fuses.fixed := by
  simp [State.noticePartner]

@[simp] theorem announce_fixed (op kind : Nat) : (s.announce op kind).fuses.fixed = s.fuses.fixed := by simp [State.announce]

/-! ### Lost chips (R538, R540) -/

@[simp] theorem failChip_fixed (x : Nat) : (s.failChip x).fuses.fixed = s.fuses.fixed := by simp [State.failChip]

@[simp] theorem addLost_fixed (x : Nat) : (s.addLost x).fuses.fixed = s.fuses.fixed := by simp [State.addLost]

/-! ### Promotion (R542, R543) -/

@[simp] theorem beginPromotion_fixed (trigger chip : Nat) : (s.beginPromotion trigger chip).fuses.fixed = s.fuses.fixed := by
  simp [State.beginPromotion]

@[simp] theorem autoPromote_fixed (trigger chip : Nat) : (s.autoPromote trigger chip).fuses.fixed = s.fuses.fixed := by
  simp [State.autoPromote]

@[simp] theorem stopPrimary_fixed : s.stopPrimary.fuses.fixed = s.fuses.fixed := by simp [State.stopPrimary]

/-! ### Rows of the table -/

@[simp] theorem takeNotice_fixed (m : Msg) : (s.takeNotice m).fuses.fixed = s.fuses.fixed := by
  unfold State.takeNotice
  dsimp only
  split <;> simp

@[simp] theorem execFaultNotice_passes (m : Msg) : Passes s.fuses.fixed (execFaultNotice m s) := by
  simp [execFaultNotice]

@[simp] theorem execGoingDown_passes (m : Msg) : Passes s.fuses.fixed (execGoingDown m s) := by
  simp [execGoingDown]

@[simp] theorem undelivered_fixed (op dst xid : Nat) : (s.undelivered op dst xid).fuses.fixed = s.fuses.fixed := by
  unfold State.undelivered
  repeat' split
  all_goals simp

@[simp] theorem execUnreachable_passes (m : Msg) : Passes s.fuses.fixed (execUnreachable m s) := by
  simp [execUnreachable]

@[simp] theorem losePort_fixed (p : Nat) : (s.losePort p).fuses.fixed = s.fuses.fixed := by simp [State.losePort]

@[simp] theorem execPortLost_passes (p : LPort) : Passes s.fuses.fixed (execPortLost p s) := by
  unfold execPortLost
  dsimp only
  split <;> simp

@[simp] theorem execPromoteNow_passes (via : Via) : Passes s.fuses.fixed (execPromoteNow via s) := by
  unfold execPromoteNow
  split <;> simp

/-! ## Register reads -/

@[simp] theorem readEffect_fixed (port : Bool) (off : Nat) : (s.readEffect port off).fuses.fixed = s.fuses.fixed := by
  unfold State.readEffect
  split <;> simp

@[simp] theorem directRead_fixed (via : Via) (off : Nat) : (s.directRead via off).fuses.fixed = s.fuses.fixed := by
  simp [State.directRead]

@[simp] theorem execGlbTimeLowRead_passes (via : Via) : Passes s.fuses.fixed (execGlbTimeLowRead via s) := by
  simp [execGlbTimeLowRead]

@[simp] theorem execGlbMarginRead_passes (via : Via) : Passes s.fuses.fixed (execGlbMarginRead via s) := by
  simp [execGlbMarginRead]

@[simp] theorem execFabSaddleStatRead_passes (via : Via) : Passes s.fuses.fixed (execFabSaddleStatRead via s) := by
  simp [execFabSaddleStatRead]

@[simp] theorem execAltLinkFecRead_passes (via : Via) (l : LinkId) : Passes s.fuses.fixed (execAltLinkFecRead via l s) := by
  simp [execAltLinkFecRead]

@[simp] theorem execFltLogRead_passes (via : Via) (e : Fin 256) (word : Fin 4) :
    Passes s.fuses.fixed (execFltLogRead via e word s) := by
  simp [execFltLogRead]

@[simp] theorem execGlbHwinSizeRead_passes (reader p : PortId) (w : Fin 16) :
    Passes s.fuses.fixed (execGlbHwinSizeRead reader p w s) := by
  simp [execGlbHwinSizeRead]

/-! ## Register writes -/

/-! ### What a write does -/

@[simp] theorem writeFields_fixed (t : RegInfo) (off : Nat) (v mask : W64) :
    (s.writeFields t off v mask).fuses.fixed = s.fuses.fixed := rfl

@[simp] theorem cqHead_fixed (q v : Nat) : (s.cqHead q v).fuses.fixed = s.fuses.fixed := by simp [State.cqHead]

@[simp] theorem clearNan_fixed (n : Nat) : (s.clearNan n).fuses.fixed = s.fuses.fixed := rfl

@[simp] theorem clearXlate_fixed (n : Nat) : (s.clearXlate n).fuses.fixed = s.fuses.fixed := rfl

@[simp] theorem applyLaunch_fixed (l : Nat) : (s.applyLaunch l).fuses.fixed = s.fuses.fixed := by simp [State.applyLaunch]

@[simp] theorem aperture_fixed (p : Nat) (v : W64) : (s.aperture p v).fuses.fixed = s.fuses.fixed := by simp [State.aperture]

@[simp] theorem hwin_fixed (p w : Nat) (size : Bool) (v : W64) : (s.hwin p w size v).fuses.fixed = s.fuses.fixed := by
  simp [State.hwin]

theorem unpin_fixed (n e : Nat) {t : State} (h : s.unpin n e = some t) : t.fuses.fixed = s.fuses.fixed := by
  unfold State.unpin at h
  split at h
  · split at h <;> cases h
    simp
  · cases h

@[simp] theorem runWrite_fixed (m : Nat) (v : W64) : (s.runWrite m v).fuses.fixed = s.fuses.fixed := by simp [State.runWrite]

theorem writeReg_keeps (w : Machine.Writer) (x : RegInfo) (i j off : Nat) (v mask : W64) :
    KeepsOpt s.fuses.fixed (s.writeReg w x i j off v mask) := by
  unfold State.writeReg
  extract_lets +onlyGivenNames r new put
  clear_value new put
  refine keepsOpt_ite (keepsOpt_ite (keepsOpt_some (by simp)) (keepsOpt_none _)) <|
    keepsOpt_ite (keepsOpt_some (by simp)) <| keepsOpt_ite (keepsOpt_some (by simp)) <| keepsOpt_ite ?comparator <|
    keepsOpt_ite (keepsOpt_some (by simp)) <| keepsOpt_ite (keepsOpt_some (by simp)) <| keepsOpt_ite ?unpin <|
    keepsOpt_ite (keepsOpt_some (by simp)) <| keepsOpt_ite (keepsOpt_some (by simp)) <|
    keepsOpt_ite (keepsOpt_some (by simp)) <| keepsOpt_ite (keepsOpt_ite (keepsOpt_some (by simp)) (keepsOpt_none _)) <|
    keepsOpt_ite (keepsOpt_some (by simp)) <| keepsOpt_ite (keepsOpt_some (by simp)) <|
    keepsOpt_ite (keepsOpt_some (by simp)) <| keepsOpt_ite (keepsOpt_some (by simp)) <|
    keepsOpt_ite (keepsOpt_some (by simp)) <| keepsOpt_some (by simp)
  case comparator =>
    split
    · exact keepsOpt_some (by simp)
    · exact keepsOpt_ite (keepsOpt_none _) (keepsOpt_some (by simp))
  case unpin =>
    split
    · exact fun t h => unpin_fixed _ _ _ h
    · exact keepsOpt_none _

theorem writeReg_fixed (w : Machine.Writer) (x : RegInfo) (i j off : Nat) (v mask : W64) {t : State}
    (h : s.writeReg w x i j off v mask = some t) : t.fuses.fixed = s.fuses.fixed :=
  writeReg_keeps s w x i j off v mask t h

theorem applyWrite_fixed (w : Machine.Writer) (off : Nat) (v mask : W64) {t : State}
    (h : s.applyWrite w off v mask = some t) :
    t.fuses.fixed = s.fuses.fixed := by
  unfold State.applyWrite at h
  split at h
  · cases h
  · split at h
    · cases h
      rfl
    · split at h
      · cases h
      · exact writeReg_fixed _ _ _ _ _ _ _ _ h

/-! ### MSI-X (R494, R500) -/

@[simp] theorem sendPending_fixed (p : Nat) : (s.sendPending p).fuses.fixed = s.fuses.fixed := by simp [State.sendPending]

@[simp] theorem tableWrite_fixed (p off : Nat) (v mask : W64) : (s.tableWrite p off v mask).fuses.fixed = s.fuses.fixed := by
  simp [State.tableWrite]

@[simp] theorem execMsixUnmask_passes (p : PortId) (v : Option (Fin 2048)) : Passes s.fuses.fixed (execMsixUnmask p v s) := by
  unfold execMsixUnmask
  split <;> simp

/-! ### Direct writes -/

@[simp] theorem directReg_fixed (via : Via) (off : Nat) (v mask : W64) :
    (s.directReg via off v mask).fuses.fixed = s.fuses.fixed := by
  unfold State.directReg
  split
  · cases h : s.applyWrite (.direct via) off v mask with
    | none => rfl
    | some t => exact applyWrite_fixed _ _ _ _ _ h
  · rfl

@[simp] theorem directWrite_fixed (via : Via) (off size : Nat) (v : W64) :
    (s.directWrite via off size v).fuses.fixed = s.fuses.fixed := by
  unfold State.directWrite
  dsimp only
  repeat' split
  all_goals simp

@[simp] theorem execRegisterWrite_passes (via : Via) (off : BitVec 26) (size : Nat) (v : W64) :
    Passes s.fuses.fixed (execRegisterWrite via off size v s) := by
  simp [execRegisterWrite]

@[simp] theorem execGlbHwinWrite_passes (via : Via) (p : PortId) (w : Fin 16) (size : Bool) (v : W64) :
    Passes s.fuses.fixed (execGlbHwinWrite via p w size v s) := by
  simp [execGlbHwinWrite]

@[simp] theorem execGlbApertureWrite_passes (via : Via) (p : PortId) (v : W64) :
    Passes s.fuses.fixed (execGlbApertureWrite via p v s) := by
  simp [execGlbApertureWrite]

@[simp] theorem execQeQCqWrite_passes (via : Via) (q : QId) (v : W64) : Passes s.fuses.fixed (execQeQCqWrite via q v s) := by
  simp [execQeQCqWrite]

@[simp] theorem execQeQCqHeadWrite_passes (via : Via) (q : QId) (v : W64) :
    Passes s.fuses.fixed (execQeQCqHeadWrite via q v s) := by
  simp [execQeQCqHeadWrite]

@[simp] theorem execFltNanInfoWrite_passes (via : Via) (n : JobId) (v : W64) :
    Passes s.fuses.fixed (execFltNanInfoWrite via n v s) := by
  simp [execFltNanInfoWrite]

/-! ### The aperture (R496) -/

@[simp] theorem execApertureAccess_passes (p : PortId) (off : BitVec 36) (wr : Bool) (bytes : List Byte) :
    Passes s.fuses.fixed (execApertureAccess p off wr bytes s) := by
  unfold execApertureAccess
  dsimp only
  split
  · split <;> simp
  · split
    · split
      · rw [passes_next, aperturePlain_fixed]
      · split
        · rw [passes_next, aperturePlain_fixed]
        · rw [passes_next, aperturePlain_fixed, store_fuses]
    · split
      · rw [passes_next, countLines_fixed, store_fuses]
      · rw [passes_next, emit_fuses, countLines_fixed]

/-! ## Configuration transactions before their commit -/

/-! ### Staging (R67) -/

theorem stageSet_fixed (x : Tx) (off : Nat) (v mask : W64) {t : State} (h : s.stageSet x off v mask = .ok t) :
    t.fuses.fixed = s.fuses.fixed := by
  unfold State.stageSet at h
  split at h
  · cases h
  · split at h
    · cases h
    · split at h <;> cases h
      simp

@[simp] theorem merged_fixed (xs : List Staged) : (s.merged xs).fuses.fixed = s.fuses.fixed := by simp [State.merged]

/-! ### Opening (R66) -/

@[simp] theorem openTx_fixed (k job : Nat) (o : Opener) (timeout : Nat) (tag : BitVec 16) :
    (s.openTx k job o timeout tag).1.fuses.fixed = s.fuses.fixed := rfl

@[simp] theorem runTxBegin_fixed (q seq : Nat) (r : Rec) : (s.runTxBegin q seq r).fuses.fixed = s.fuses.fixed := by
  unfold State.runTxBegin
  dsimp only
  split <;> simp

@[simp] theorem specTxBegin_keeps : KeepsSpec specTxBegin := keepsSpec_of (by simp [specTxBegin, CmdSpec.plain]) rfl

@[simp] theorem execTxBegin_passes (q : QId) : Passes s.fuses.fixed (execTxBegin q s) := by
  simp [execTxBegin]

/-! ### Aborting (R67, R70) -/

@[simp] theorem runTxAbort_fixed (q seq : Nat) (r : Rec) : (s.runTxAbort q seq r).fuses.fixed = s.fuses.fixed := by
  unfold State.runTxAbort
  split <;> simp

@[simp] theorem specTxAbort_keeps : KeepsSpec specTxAbort := keepsSpec_of (by simp [specTxAbort, CmdSpec.plain]) rfl

@[simp] theorem execTxAbort_passes (q : QId) : Passes s.fuses.fixed (execTxAbort q s) := by
  simp [execTxAbort]

end Sys2Proof.Proofs.Fixed

end

section
/-! The fuses that only an image marked active burns, continued: the ordering point of a commit (R68) and what follows. -/

namespace Sys2Proof.Proofs.Fixed

open Sys2Proof.Machine Sys2Proof.Laws Sys2Proof.Proofs

variable (s : State)

/-! ## The ordering point of a commit (R68) -/

/-! ### Queues (R74, R503) -/

@[simp] theorem cancelRing_fixed (fuel q : Nat) : (State.cancelRing fuel s q).fuses.fixed = s.fuses.fixed := by
  induction fuel generalizing s with
  | zero => rfl
  | succ n ih =>
    unfold State.cancelRing
    split
    · rfl
    · simp [ih]

@[simp] theorem restartQueue_fixed (q : Nat) : (s.restartQueue q).fuses.fixed = s.fuses.fixed := rfl

@[simp] theorem dropTxs_fixed (q keep : Nat) : (s.dropTxs q keep).fuses.fixed = s.fuses.fixed := by simp [State.dropTxs]

@[simp] theorem leaveQueue_fixed (n : State) (keep q : Nat) : (s.leaveQueue n keep q).fuses.fixed = s.fuses.fixed := by
  simp [State.leaveQueue]

/-! ### Jobs (R63, R95, R116, R118, R250, R304) -/

@[simp] theorem jobValidated_fixed (j : Nat) : (s.jobValidated j).fuses.fixed = s.fuses.fixed := rfl

@[simp] theorem jobInvalidated_fixed (j : Nat) : (s.jobInvalidated j).fuses.fixed = s.fuses.fixed := by simp [State.jobInvalidated]

@[simp] theorem poolLeft_fixed (j : Nat) : (s.poolLeft j).fuses.fixed = s.fuses.fixed := by
  unfold State.poolLeft
  refine foldl_fixed (fun t m => ?_) _ _
  split
  · split <;> rfl
  · rfl

@[simp] theorem changeJob_fixed (old : State) (j : Nat) : (s.changeJob old j).fuses.fixed = s.fuses.fixed := by simp [State.changeJob]

@[simp] theorem changeAperture_fixed (old : State) (p : Nat) : (s.changeAperture old p).fuses.fixed = s.fuses.fixed := by
  simp [State.changeAperture]

/-! ### Rings, groups, serving -/

@[simp] theorem changeOutput_fixed (old : State) (o : Nat) : (s.changeOutput old o).fuses.fixed = s.fuses.fixed := by
  simp [State.changeOutput]

@[simp] theorem changeMeander_fixed (old : State) (g : Nat) : (s.changeMeander old g).fuses.fixed = s.fuses.fixed := by
  simp [State.changeMeander]

@[simp] theorem changeLayer_fixed (old : State) (j : Nat) : (s.changeLayer old j).fuses.fixed = s.fuses.fixed := by
  simp [State.changeLayer]

@[simp] theorem changeExperts_fixed (old : State) (g : Nat) : (s.changeExperts old g).fuses.fixed = s.fuses.fixed := by
  simp [State.changeExperts]

@[simp] theorem changeCollective_fixed (g : Nat) : (s.changeCollective g).fuses.fixed = s.fuses.fixed := rfl

@[simp] theorem bindFeed_fixed (m : Nat) : (s.bindFeed m).fuses.fixed = s.fuses.fixed := rfl

@[simp] theorem bindMirror_fixed (old : State) (m : Nat) : (s.bindMirror old m).fuses.fixed = s.fuses.fixed := by
  simp [State.bindMirror]

@[simp] theorem changeHot_fixed (old : State) : (s.changeHot old).fuses.fixed = s.fuses.fixed := by simp [State.changeHot]

/-! ### The partition (R30, R428, R441, R527, R567, R572, R574) -/

@[simp] theorem changeLink_fixed (old : State) (l : Nat) : (s.changeLink old l).fuses.fixed = s.fuses.fixed := by
  simp [State.changeLink]

@[simp] theorem readmitLinks_fixed (t : Tx) : (s.readmitLinks t).fuses.fixed = s.fuses.fixed := rfl

@[simp] theorem recheckLink_fixed (l : Nat) : (s.recheckLink l).fuses.fixed = s.fuses.fixed := by simp [State.recheckLink]

@[simp] theorem fenceOut_fixed (old : State) : (s.fenceOut old).fuses.fixed = s.fuses.fixed := by simp [State.fenceOut]

@[simp] theorem extendMeas_fixed (r : Nat) (d : List Byte) : (s.extendMeas r d).fuses.fixed = s.fuses.fixed := by
  simp [State.extendMeas]

@[simp] theorem measurePartition_fixed : s.measurePartition.fuses.fixed = s.fuses.fixed := by simp [State.measurePartition]

@[simp] theorem rotateKey_fixed (t : Tx) : (s.rotateKey t).fuses.fixed = s.fuses.fixed := by
  unfold State.rotateKey
  split
  · rfl
  · split
    · rfl
    · exact extendMeas_fixed ..

@[simp] theorem consumeSlot_fixed (t : Tx) : (s.consumeSlot t).fuses.fixed = s.fuses.fixed := rfl

@[simp] theorem dropKey_fixed : s.dropKey.fuses.fixed = s.fuses.fixed := rfl

@[simp] theorem changePartition_fixed (old : State) (t : Tx) : (s.changePartition old t).fuses.fixed = s.fuses.fixed := by
  simp [State.changePartition]

/-! ### The ordering point -/

theorem commitCasts_fixed (cs : List StagedCast) {t : State} (h : State.commitCasts cs s = .ok t) :
    t.fuses.fixed = s.fuses.fixed := by
  induction cs generalizing s with
  | nil => cases h; rfl
  | cons c cs ih =>
    unfold State.commitCasts at h
    split at h
    · exact (ih _ h).trans (by simp)
    · split at h
      · exact ih _ h
      · split at h
        · cases h
        · next e => exact (ih _ h).trans (by simp [latePreload_fixed _ _ _ e])

@[simp] theorem commitRegs_fixed (t : Tx) : (s.commitRegs t).fuses.fixed = s.fuses.fixed := by simp [State.commitRegs]

theorem ordered_fixed (x : Tx) {t : State} (h : s.ordered x = .ok t) : t.fuses.fixed = s.fuses.fixed :=
  (commitCasts_fixed _ _ h).trans (by simp)

/-! ## Commits, `SET` and `GET` (R50, R67 to R70) -/

/-! ### SET and GET (R49, R50) -/

@[simp] theorem runSet_fixed (q seq : Nat) (r : Rec) : (s.runSet q seq r).fuses.fixed = s.fuses.fixed := by
  unfold State.runSet
  dsimp only
  split
  · split
    · simp
    · split
      · simp
      · split
        · simp
        · split
          · simp
          · next h => simp [applyWrite_fixed _ _ _ _ _ h]
  · split
    · simp
    · split
      · simp
      · next h => simp [stageSet_fixed _ _ _ _ _ h]

@[simp] theorem specSet_keeps : KeepsSpec specSet := keepsSpec_of (by simp [specSet, CmdSpec.plain]) rfl

@[simp] theorem execSet_passes (q : QId) : Passes s.fuses.fixed (execSet q s) := by
  simp [execSet]

@[simp] theorem execTrCcacheUnpin_passes (q : QId) : Passes s.fuses.fixed (execTrCcacheUnpin q s) := by
  simp [execTrCcacheUnpin]

@[simp] theorem dropTx_fixed (t : Tx) : (s.dropTx t).fuses.fixed = s.fuses.fixed := rfl

@[simp] theorem afterCommit_fixed (t : Tx) : (s.afterCommit t).fuses.fixed = s.fuses.fixed := by
  unfold State.afterCommit
  rw [dropTx_fixed]
  split
  · next h => exact ordered_fixed _ _ h
  · simp

@[simp] theorem runGet_fixed (q seq : Nat) (r : Rec) : (s.runGet q seq r).fuses.fixed = s.fuses.fixed := by
  unfold State.runGet
  repeat' split
  all_goals simp

@[simp] theorem specGet_keeps : KeepsSpec specGet := keepsSpec_of (by simp [specGet, CmdSpec.plain]) rfl

@[simp] theorem execGet_passes (q : QId) : Passes s.fuses.fixed (execGet q s) := by
  simp [execGet]

/-! ### TX_COMMIT (R68) -/

theorem beginCommit_fixed (x : Tx) (seq : Nat) {t : State} (h : s.beginCommit x seq = .ok t) : t.fuses.fixed = s.fuses.fixed := by
  unfold State.beginCommit at h
  split at h <;> cases h
  simp

theorem beginCommit_stop_fixed (x : Tx) (seq : Nat) {t : State} {d : Status × W64} (h : s.beginCommit x seq = .error (t, d)) :
    t.fuses.fixed = s.fuses.fixed := by
  unfold State.beginCommit at h
  split at h <;> cases h
  simp

@[simp] theorem runTxCommit_fixed (q seq : Nat) (r : Rec) : (s.runTxCommit q seq r).fuses.fixed = s.fuses.fixed := by
  unfold State.runTxCommit
  split
  · simp
  · split
    · next h => simp [beginCommit_stop_fixed _ _ _ h]
    · next h => exact beginCommit_fixed _ _ _ h

@[simp] theorem specTxCommit_keeps : KeepsSpec specTxCommit := keepsSpec_of (by simp [specTxCommit, CmdSpec.plain]) rfl

@[simp] theorem execTxCommit_passes (q : QId) : Passes s.fuses.fixed (execTxCommit q s) := by
  simp [execTxCommit]

/-! ### Quiescence (R68) -/

theorem specOf_keeps (r : Rec) : KeepsSpec (specOf r) := by
  unfold specOf
  split <;> simp

/-! ### The end of a commit -/

@[simp] theorem completeCommit_fixed (t : Tx) : (s.completeCommit t).fuses.fixed = s.fuses.fixed := by
  unfold State.completeCommit
  dsimp only
  repeat' split
  all_goals simp

@[simp] theorem orderTx_fixed (t : Tx) (readBackFails : Bool) : (s.orderTx t readBackFails).fuses.fixed = s.fuses.fixed := by
  unfold State.orderTx
  split
  · simp
  · split
    · simp
    · split
      · simp
      · next h => simp [ordered_fixed _ _ h]

@[simp] theorem execOrderingPoint_passes (h : BitVec 16) (readBackFails : Bool) :
    Passes s.fuses.fixed (execOrderingPoint h readBackFails s) := by
  unfold execOrderingPoint
  split <;> simp

@[simp] theorem execCommitTimeout_passes (h : BitVec 16) : Passes s.fuses.fixed (execCommitTimeout h s) := by
  unfold execCommitTimeout
  split <;> simp

/-! ### WAIT_SATISFIED (R56) -/

@[simp] theorem waitOver_fixed (q f : Nat) (r : Rec) : (s.waitOver q f r).fuses.fixed = s.fuses.fixed := by
  unfold State.waitOver
  split
  · simp
  · split
    · exact opWait_fixed _ (specOf_keeps r) _ _
    · exact startHead_fixed _ (specOf_keeps r) _ _

@[simp] theorem execWaitSatisfied_passes (q : QId) : Passes s.fuses.fixed (execWaitSatisfied q s) := by
  unfold execWaitSatisfied
  split <;> simp

end Sys2Proof.Proofs.Fixed

end

section
/-! The fuses that only an image marked active burns, continued: management sessions (R505 to R509, R569 to R571) and what follows. -/

namespace Sys2Proof.Proofs.Fixed

open Sys2Proof.Machine Sys2Proof.Laws Sys2Proof.Proofs

variable (s : State)

/-! ## Management sessions (R505 to R509, R569 to R571) -/

/-! ### Sessions that end (R508, R570, R571) -/

@[simp] theorem endSession_fixed (r : Nat) : (s.endSession r).fuses.fixed = s.fuses.fixed := by simp [State.endSession]

@[simp] theorem lockRole_fixed (r : Nat) : (s.lockRole r).fuses.fixed = s.fuses.fixed := rfl

@[simp] theorem authFailure_fixed (r : Nat) : (s.authFailure r).fuses.fixed = s.fuses.fixed := by simp [State.authFailure]

@[simp] theorem unlockRole_fixed (r : Nat) : (s.unlockRole r).fuses.fixed = s.fuses.fixed := rfl

@[simp] theorem dropNonce_fixed (r : Nat) : (s.dropNonce r).fuses.fixed = s.fuses.fixed := rfl

@[simp] theorem settleRole_fixed (r : Nat) : (s.settleRole r).fuses.fixed = s.fuses.fixed := by simp [State.settleRole]

@[simp] theorem execSessionTimeout_passes (r : RoleId) : Passes s.fuses.fixed (execSessionTimeout r s) := by
  unfold execSessionTimeout
  split <;> simp

@[simp] theorem execSessionExpiry_passes (r : RoleId) : Passes s.fuses.fixed (execSessionExpiry r s) := by
  unfold execSessionExpiry
  split <;> simp

@[simp] theorem execNonceExpiry_passes (r : RoleId) : Passes s.fuses.fixed (execNonceExpiry r s) := by
  simp [execNonceExpiry]

@[simp] theorem execLockoutEnd_passes (r : RoleId) : Passes s.fuses.fixed (execLockoutEnd r s) := by
  simp [execLockoutEnd]

/-! ### The limit of a transport (R509) -/

theorem takeAllowance_fixed (i : Nat) {t : State} (h : s.takeAllowance i = some t) : t.fuses.fixed = s.fuses.fixed := by
  unfold State.takeAllowance at h
  dsimp only at h
  split at h <;> cases h
  rfl

/-! ### The checks of a request (R506, R507, R509, R566, R570) -/

@[simp] theorem macFailure_fixed (r : Nat) (y : Session) : (s.macFailure r y).fuses.fixed = s.fuses.fixed := by
  simp [State.macFailure]

@[simp] theorem gate_fixed (h : MgmtHdr) (op : Nat) (payload : List Byte) : (s.gate h op payload).1.fuses.fixed = s.fuses.fixed := by
  unfold State.gate
  split <;> simp

@[simp] theorem answerOutside_fixed (h : MgmtHdr) (op : Nat) (x : Answer) : (s.answerOutside h op x).fuses.fixed = s.fuses.fixed := by
  unfold State.answerOutside
  split <;> simp

@[simp] theorem answerInside_fixed (h : MgmtHdr) (y : Session) (op : Nat) (x : Answer) :
    (s.answerInside h y op x).fuses.fixed = s.fuses.fixed := by
  unfold State.answerInside
  split <;> simp

@[simp] theorem request_fixed (h : MgmtHdr) (op : Nat) (need : Option Nat) (payload : List Byte)
    {f : State → Option Nat → State × Answer} (hf : KeepsFstEach f) : (s.request h op need payload f).fuses.fixed = s.fuses.fixed := by
  unfold State.request
  dsimp only
  split
  · rfl
  · split
    · simp
    · next e =>
      have ht := takeAllowance_fixed _ _ e
      split
      · split <;> simp [hf _ _, ht]
      · split
        · next e' => exact (fixed_of_eq e' (gate_fixed ..)).trans ht
        · next e' => simp [fixed_of_eq e' (gate_fixed ..), ht]
        · next e' => split <;> simp [hf _ _, fixed_of_eq e' (gate_fixed ..), ht]

/-! ### Opening and closing a session (R508, R569) -/

@[simp] theorem openSession_fixed (r : Nat) : (s.openSession r).1.fuses.fixed = s.fuses.fixed := by simp [State.openSession]

@[simp] theorem execSessionOpen_passes (h : MgmtHdr) (payload : List Byte) :
    Passes s.fuses.fixed (execSessionOpen h payload s) := by
  simp [execSessionOpen]

@[simp] theorem startSession_fixed (h : MgmtHdr) (r life : Nat) (nonce call : List Byte) :
    (s.startSession h r life nonce call).fuses.fixed = s.fuses.fixed := by
  simp [State.startSession]

@[simp] theorem authSession_fixed (h : MgmtHdr) (r : Nat) (payload : List Byte) :
    (s.authSession h r payload).1.fuses.fixed = s.fuses.fixed := by
  unfold State.authSession
  dsimp only
  repeat' split
  all_goals simp

@[simp] theorem execSessionAuth_passes (h : MgmtHdr) (payload : List Byte) :
    Passes s.fuses.fixed (execSessionAuth h payload s) := by
  simp [execSessionAuth]

@[simp] theorem execSessionClose_passes (h : MgmtHdr) : Passes s.fuses.fixed (execSessionClose h s) := by
  refine request_fixed _ _ _ _ _ fun t r => ?_
  dsimp only
  split <;> simp

@[simp] theorem execHeartbeat_passes (h : MgmtHdr) : Passes s.fuses.fixed (execHeartbeat h s) := by
  simp [execHeartbeat]

/-! ## The PCIe ports (R492, R500 to R504) -/

/-! ### Losing a port (R501) -/

@[simp] theorem clearWindows_fixed (p : Nat) : (s.clearWindows p).fuses.fixed = s.fuses.fixed := by simp [State.clearWindows]

@[simp] theorem loseQueue_fixed (q : Nat) : (s.loseQueue q).fuses.fixed = s.fuses.fixed := by simp [State.loseQueue]

@[simp] theorem stopServing_fixed (p : Nat) : (s.stopServing p).fuses.fixed = s.fuses.fixed := by simp [State.stopServing]

@[simp] theorem endSessionsOn_fixed (p : Nat) : (s.endSessionsOn p).fuses.fixed = s.fuses.fixed := by
  unfold State.endSessionsOn
  refine foldl_fixed (fun t r => ?_) _ _
  split
  · split <;> simp
  · rfl

@[simp] theorem resetPort_fixed (p cause : Nat) : (s.resetPort p cause).fuses.fixed = s.fuses.fixed := by simp [State.resetPort]

@[simp] theorem losePcie_fixed (p cause : Nat) : (s.losePcie p cause).fuses.fixed = s.fuses.fixed := by simp [State.losePcie]

@[simp] theorem execPerstN_passes (p : PortId) : Passes s.fuses.fixed (execPerstN p s) := by
  simp [execPerstN]

@[simp] theorem execFunctionLevelReset_passes (p : PortId) : Passes s.fuses.fixed (execFunctionLevelReset p s) := by
  simp [execFunctionLevelReset]

@[simp] theorem execSurpriseDown_passes (p : PortId) : Passes s.fuses.fixed (execSurpriseDown p s) := by
  simp [execSurpriseDown]

@[simp] theorem execD3hotEntry_passes (p : PortId) : Passes s.fuses.fixed (execD3hotEntry p s) := by
  simp [execD3hotEntry]

/-! ### Return (R502) -/

@[simp] theorem killRings_fixed (p : Nat) : (s.killRings p).fuses.fixed = s.fuses.fixed := by simp [State.killRings]

@[simp] theorem reopenQueue_fixed (q : Nat) : (s.reopenQueue q).fuses.fixed = s.fuses.fixed := rfl

@[simp] theorem execPortReturn_passes (p : PortId) (speed : Fin 8) (width : Fin 32) :
    Passes s.fuses.fixed (execPortReturn p speed width s) := by
  simp [execPortReturn]

@[simp] theorem execBusMasterDisable_passes (p : PortId) : Passes s.fuses.fixed (execBusMasterDisable p s) := by
  simp [execBusMasterDisable]

@[simp] theorem execBusMasterEnable_passes (p : PortId) : Passes s.fuses.fixed (execBusMasterEnable p s) := by
  simp [execBusMasterEnable]

/-! ## Boot, power failure and warm restart -/

/-! ### Firmware images (R562, R563) -/

@[simp] theorem showFail_fixed (b : Bool) (code : Nat) : (s.showFail b code).fuses.fixed = s.fuses.fixed := rfl

@[simp] theorem runImage_fixed (b : Bool) : (s.runImage b).fuses.fixed = s.fuses.fixed := by simp [State.runImage]

@[simp] theorem startLinks_fixed : s.startLinks.fuses.fixed = s.fuses.fixed := by simp [State.startLinks]

@[simp] theorem startImage_fixed (disagree : Bool) : (s.startImage disagree).fuses.fixed = s.fuses.fixed := by
  refine (passes_next s.fuses.fixed _).1 ?_
  simp [State.startImage]

@[simp] theorem bootRoms_fixed (disagree : Bool) : (s.bootRoms disagree).fuses.fixed = s.fuses.fixed := by simp [State.bootRoms]

@[simp] theorem poweredOff_fixed : s.poweredOff.fuses.fixed = s.fuses.fixed := rfl

@[simp] theorem execPowerGood_passes (slotId : BitVec 6) (romDisagree : Bool) :
    Passes s.fuses.fixed (execPowerGood slotId romDisagree s) := by
  simp [execPowerGood]

/-! ### Ready (R72, R164, R564) -/

@[simp] theorem firmwareValues_fixed : s.firmwareValues.fuses.fixed = s.fuses.fixed := rfl

@[simp] theorem columnMaps_fixed : s.columnMaps.fuses.fixed = s.fuses.fixed := rfl

@[simp] theorem zeroAll_fixed : s.zeroAll.fuses.fixed = s.fuses.fixed := rfl

@[simp] theorem execDeviceReady_passes (cal : List CalRecord) : Passes s.fuses.fixed (execDeviceReady cal s) := by
  simp [execDeviceReady]

/-! ### Power failure (R511, R582) and the thermal trip (R587) -/

@[simp] theorem flushPort_fixed (p : Nat) : (s.flushPort p).fuses.fixed = s.fuses.fixed := by simp [State.flushPort]

@[simp] theorem powerFail_fixed : s.powerFail.fuses.fixed = s.fuses.fixed := by simp [State.powerFail]

@[simp] theorem execPwrfail_passes : Passes s.fuses.fixed (execPwrfail s) := by
  simp [execPwrfail]

@[simp] theorem recordRail_fixed (rail : Nat) : (s.recordRail rail).fuses.fixed = s.fuses.fixed := rfl

@[simp] theorem execRailUndervoltage_passes (rail : Fin 9) : Passes s.fuses.fixed (execRailUndervoltage rail s) := by
  simp [execRailUndervoltage]

@[simp] theorem execThermtrip_passes : Passes s.fuses.fixed (execThermtrip s) := by
  simp [execThermtrip]

/-! ### Warm restart (R537) -/

@[simp] theorem fenceRing_fixed (fuel q : Nat) : (State.fenceRing fuel s q).fuses.fixed = s.fuses.fixed := by
  induction fuel generalizing s with
  | zero => rfl
  | succ n ih =>
    unfold State.fenceRing
    split
    · rfl
    · split
      · simp [ih]
      · rfl

@[simp] theorem fenceQueue_fixed (q : Nat) : (s.fenceQueue q).fuses.fixed = s.fuses.fixed := by simp [State.fenceQueue]

@[simp] theorem restarted_fixed : s.restarted.fuses.fixed = s.fuses.fixed := rfl

@[simp] theorem fenceSelf_fixed : s.fenceSelf.fuses.fixed = s.fuses.fixed := rfl

@[simp] theorem execWarmRestart_passes : Passes s.fuses.fixed (execWarmRestart s) := by
  simp [execWarmRestart]

/-! ## Recovery in service (R527 to R548) -/

/-! ### Calibration (R546 to R548) -/

@[simp] theorem updateDeferred_fixed : s.updateDeferred.fuses.fixed = s.fuses.fixed := rfl

@[simp] theorem execCalValidityCheck_passes : Passes s.fuses.fixed (execCalValidityCheck s) := by
  simp [execCalValidityCheck]

@[simp] theorem dequeueCal_fixed (kind element : Nat) : (s.dequeueCal kind element).fuses.fixed = s.fuses.fixed := rfl

@[simp] theorem degradeMovers_fixed (k : Nat) : (s.degradeMovers k).fuses.fixed = s.fuses.fixed := rfl

@[simp] theorem recalChannel_fixed (element : Nat) (ok : Bool) (x : CalRecord) :
    (s.recalChannel element ok x).fuses.fixed = s.fuses.fixed := by
  simp [State.recalChannel]

@[simp] theorem recalibrate_fixed (kind element : Nat) (ok : Bool) (x : CalRecord) :
    (s.recalibrate kind element ok x).fuses.fixed = s.fuses.fixed := by
  simp [State.recalibrate]

@[simp] theorem execRecalibration_passes (kind element : Nat) (ok : Bool) (x : CalRecord) :
    Passes s.fuses.fixed (execRecalibration kind element ok x s) := by
  simp [execRecalibration]

/-! ### Column retirement (R530) -/

@[simp] theorem moveWindows_fixed (die p : Nat) : (s.moveWindows die p).fuses.fixed = s.fuses.fixed := rfl

@[simp] theorem execColumnRetirement_passes (die : Fin 2) : Passes s.fuses.fixed (execColumnRetirement die s) := by
  unfold execColumnRetirement
  split <;> simp

/-! ### Saddle rows (R142, R532) -/

@[simp] theorem execSaddleRowFailure_passes (die : Fin 2) (row : Fin 32) :
    Passes s.fuses.fixed (execSaddleRowFailure die row s) := by
  simp [execSaddleRowFailure]

@[simp] theorem execSaddleSpare_passes (die : Fin 2) (row : Fin 32) : Passes s.fuses.fixed (execSaddleSpare die row s) := by
  simp [execSaddleSpare]

/-! ### HBM channels (R534, R535) -/

@[simp] theorem execHbmChannelRemap_passes (die : Fin 2) : Passes s.fuses.fixed (execHbmChannelRemap die s) := by
  unfold execHbmChannelRemap
  split <;> simp

/-! ## The messages of the sideband (R505 to R507, R549, R562 to R568) -/

/-! ### MCTP control (R505) -/

@[simp] theorem execEntdaa_passes (address : BitVec 7) : Passes s.fuses.fixed (execEntdaa address s) := by
  simp [execEntdaa]

@[simp] theorem control_fixed (i command : Nat) {f : State → State} (h : Keeps f) (data : State → List Byte) :
    (s.control i command f data).fuses.fixed = s.fuses.fixed := by
  unfold State.control
  split
  · rfl
  · split
    · simp
    · next e => simp [h _, takeAllowance_fixed _ _ e]

@[simp] theorem execSetEndpointId_passes (transport : Fin 3) (eid : Byte) :
    Passes s.fuses.fixed (execSetEndpointId transport eid s) := by
  simp [execSetEndpointId]

@[simp] theorem execGetEndpointId_passes (transport : Fin 3) : Passes s.fuses.fixed (execGetEndpointId transport s) := by
  simp [execGetEndpointId]

@[simp] theorem execGetMctpVersionSupport_passes (transport : Fin 3) :
    Passes s.fuses.fixed (execGetMctpVersionSupport transport s) := by
  simp [execGetMctpVersionSupport]

@[simp] theorem execGetMessageTypeSupport_passes (transport : Fin 3) :
    Passes s.fuses.fixed (execGetMessageTypeSupport transport s) := by
  simp [execGetMessageTypeSupport]

@[simp] theorem execGetVendorDefinedMessageSupport_passes (transport : Fin 3) :
    Passes s.fuses.fixed (execGetVendorDefinedMessageSupport transport s) := by
  simp [execGetVendorDefinedMessageSupport]

/-! ### Reading (R507) -/

@[simp] theorem execGetInfo_passes (h : MgmtHdr) (opcode : Byte) (payload : List Byte) :
    Passes s.fuses.fixed (execGetInfo h opcode payload s) := by
  simp [execGetInfo]

@[simp] theorem execRegRead_passes (h : MgmtHdr) (offsets : List W64) : Passes s.fuses.fixed (execRegRead h offsets s) := by
  simp [execRegRead]

@[simp] theorem execRegWrite_passes (h : MgmtHdr) (offset value : W64) : Passes s.fuses.fixed (execRegWrite h offset value s) := by
  refine request_fixed _ _ _ _ _ fun t r => ?_
  split
  · rfl
  · split <;> simp

@[simp] theorem execFaultLog_passes (h : MgmtHdr) (index : Nat) : Passes s.fuses.fixed (execFaultLog h index s) := by
  simp [execFaultLog]

@[simp] theorem execTelemetry_passes (h : MgmtHdr) : Passes s.fuses.fixed (execTelemetry h s) := by
  simp [execTelemetry]

/-! ### Transactions of a session (R66 to R70, R507) -/

@[simp] theorem execMgmtTxBegin_passes (h : MgmtHdr) (scope : Nat) (timeout : W64) :
    Passes s.fuses.fixed (execMgmtTxBegin h scope timeout s) := by
  simp [execMgmtTxBegin]

@[simp] theorem stageAll_fixed (h : Nat) (xs : List SetEntry) : (State.stageAll h xs s).1.fuses.fixed = s.fuses.fixed := by
  induction xs generalizing s with
  | nil => rfl
  | cons x xs ih =>
    unfold State.stageAll
    split
    · rfl
    · split
      · rfl
      · next e => exact (ih _).trans (stageSet_fixed _ _ _ _ _ e)

@[simp] theorem execTxSet_passes (h : MgmtHdr) (entries : List SetEntry) : Passes s.fuses.fixed (execTxSet h entries s) := by
  refine request_fixed _ _ _ _ _ fun t r => ?_
  split
  · rfl
  · split
    · rfl
    · split
      · rfl
      · simp

@[simp] theorem execMgmtTxCommit_passes (h : MgmtHdr) : Passes s.fuses.fixed (execMgmtTxCommit h s) := by
  refine request_fixed _ _ _ _ _ fun t r => ?_
  split
  · rfl
  · split
    · rfl
    · split
      · next h => exact beginCommit_stop_fixed _ _ _ h
      · next h => exact beginCommit_fixed _ _ _ h

@[simp] theorem execMgmtTxAbort_passes (h : MgmtHdr) : Passes s.fuses.fixed (execMgmtTxAbort h s) := by
  refine request_fixed _ _ _ _ _ fun t r => ?_
  split <;> simp

/-! ### Attestation (R568) -/

@[simp] theorem sendParts_fixed (fuel : Nat) (h : MgmtHdr) (y : Session) (bs : List Byte) :
    (State.sendParts fuel s h y bs).fuses.fixed = s.fuses.fixed := by
  induction fuel generalizing s bs with
  | zero => rfl
  | succ n ih =>
    unfold State.sendParts
    dsimp only
    split <;> simp [ih]

@[simp] theorem execAttest_passes (h : MgmtHdr) (nonce : List Byte) : Passes s.fuses.fixed (execAttest h nonce s) := by
  refine request_fixed _ _ _ _ _ fun t r => ?_
  split
  · rfl
  · split <;> simp

/-! ### Firmware (R549, R561, R562, R565, R566) -/

@[simp] theorem execFwStage_passes (h : MgmtHdr) (offset : Nat) (bytes : List Byte) :
    Passes s.fuses.fixed (execFwStage h offset bytes s) := by
  simp [execFwStage]

@[simp] theorem answerRoll_fixed (h : MgmtHdr) (status : Nat) : (s.answerRoll h status).fuses.fixed = s.fuses.fixed := by
  unfold State.answerRoll
  split <;> simp

@[simp] theorem endRoll_fixed (code : Nat) : (s.endRoll code).fuses.fixed = s.fuses.fixed := rfl

@[simp] theorem execFwCoreTimeout_passes (core : Fin 4) : Passes s.fuses.fixed (execFwCoreTimeout core s) := by
  unfold execFwCoreTimeout
  split <;> simp

/-! ### Calibration (R507, R548) -/

@[simp] theorem execCalCtrl_passes (h : MgmtHdr) (kind element : Nat) : Passes s.fuses.fixed (execCalCtrl h kind element s) := by
  simp [execCalCtrl]

end Sys2Proof.Proofs.Fixed

end

section
/-! The fuses that only an image marked active burns, continued: ticks (R28, R161, R197) and what follows. -/

namespace Sys2Proof.Proofs.Fixed

open Sys2Proof.Machine Sys2Proof.Laws Sys2Proof.Proofs

variable (s : State)

/-! ## Ticks (R28, R161, R197) -/

@[simp] theorem countSteps_fixed (d : Nat) : (s.countSteps d).fuses.fixed = s.fuses.fixed := by simp [State.countSteps]

@[simp] theorem countWaits_fixed (d : Nat) : (s.countWaits d).fuses.fixed = s.fuses.fixed := by simp [State.countWaits]

@[simp] theorem pumpRings_fixed : s.pumpRings.fuses.fixed = s.fuses.fixed := by simp [State.pumpRings]

@[simp] theorem settleTick_fixed : s.settleTick.fuses.fixed = s.fuses.fixed := by simp [State.settleTick]

@[simp] theorem passTick_fixed : s.passTick.fuses.fixed = s.fuses.fixed := by simp [State.passTick]

@[simp] theorem execTimebaseSlew_passes : Passes s.fuses.fixed (execTimebaseSlew s) := by
  simp [execTimebaseSlew]

end Sys2Proof.Proofs.Fixed

end

section
/-! The fuses of R561: an image marked active raises `SVN` and `KEY_MIN` alone, and so every step keeps what `FusesKept` names. -/

namespace Sys2Proof.Machine

open Sys2Proof.Laws Sys2Proof.Proofs Sys2Proof.Proofs.Fixed

variable {s t u : State}

theorem FusesKept.of_fixed (h : t.fuses.fixed = s.fuses.fixed) : FusesKept s t :=
  ⟨(congrArg Fuses.part h :), (congrArg Fuses.rootHash h :), (congrArg Fuses.repair h :), (congrArg Fuses.svn h :).ge,
    (congrArg Fuses.keyMin h :).ge⟩

theorem FusesKept.trans (h : FusesKept s t) (k : FusesKept t u) : FusesKept s u := by
  obtain ⟨hp, hr, hf, hs, hk⟩ := h
  obtain ⟨kp, kr, kf, ks, kk⟩ := k
  exact ⟨kp.trans hp, kr.trans hr, kf.trans hf, hs.trans ks, hk.trans kk⟩

theorem FusesKept.then_fixed (h : FusesKept s t) (e : u.fuses.fixed = t.fuses.fixed) : FusesKept s u := h.trans (.of_fixed e)

theorem FusesKept.setPower (h : FusesKept s t) (p : PowerSt) : FusesKept s { t with power := p } := h

theorem FusesKept.setMgmt (h : FusesKept s t) (m : MgmtSt) : FusesKept s { t with mgmt := m } := h

theorem FusesKept.setF (h : FusesKept s t) (x : Field) (v i j : Nat) : FusesKept s (t.setF x v i j) := h

theorem FusesKept.refl (s : State) : FusesKept s s := .of_fixed rfl

/-- R565: an image is marked active with `SVN` and `KEY_MIN` burnt up to its own. -/
theorem markActive_fuses (s : State) (b : Bool) : (s.markActive b).fuses =
    { s.fuses with svn := max s.fuses.svn (s.fwSvn b), keyMin := max s.fuses.keyMin (s.fwKey b) } := by
  obtain ⟨m, e⟩ := onlyRegs_extendMeas (onlyRegs_refl (State.setF { s with
    fw := { s.fw with activeB := b }
    fuses := { s.fuses with svn := max s.fuses.svn (s.fwSvn b), keyMin := max s.fuses.keyMin (s.fwKey b) } }
      F.FLT_FW_STAT_ACTIVE_B (bit b))) 1 (shake256 (s.fwMessage b) 64)
  exact congrArg State.fuses e

theorem markActive_fusesKept (s : State) (b : Bool) : FusesKept s (s.markActive b) := by
  rw [FusesKept, markActive_fuses]
  exact ⟨rfl, rfl, rfl, Nat.le_max_left .., Nat.le_max_left ..⟩

/-- A request keeps the fuses where what its opcode does keeps them. -/
theorem request_fusesKept {f : State → Option Nat → State × Answer} (hf : ∀ t r, FusesKept t (f t r).1) (h : MgmtHdr) (op : Nat)
    (need : Option Nat) (payload : List Byte) : FusesKept s (s.request h op need payload f) := by
  unfold State.request
  dsimp only
  split
  · exact .refl s
  · split
    · exact .of_fixed rfl
    · next e =>
      have ht := FusesKept.of_fixed (takeAllowance_fixed _ _ e)
      split
      · split
        · exact ht.then_fixed (answerOutside_fixed ..)
        · exact (ht.trans (hf ..)).then_fixed (answerOutside_fixed ..)
      · split
        · next e' => exact ht.then_fixed (fixed_of_eq e' (gate_fixed ..))
        · next e' => exact (ht.then_fixed (fixed_of_eq e' (gate_fixed ..))).then_fixed (answerOutside_fixed ..)
        · next e' =>
          have hg := ht.then_fixed (fixed_of_eq e' (gate_fixed ..))
          split
          · exact hg.then_fixed (answerInside_fixed ..)
          · exact (hg.trans (hf ..)).then_fixed (answerInside_fixed ..)

/-- The next state that a command answers keeps the fuses. -/
def NextKept (s : State) (o : Host.Outcome State Fault Refusal) : Prop := ∀ t, o = .next t → FusesKept s t

theorem NextKept.next (h : FusesKept s t) : NextKept s (.next t) := by
  rintro u ⟨⟩
  exact h

theorem nextKept_of_passes {o : Host.Outcome State Fault Refusal} (h : Passes s.fuses.fixed o) : NextKept s o := by
  rintro t rfl
  exact .of_fixed h

theorem execFwActivate_kept (s : State) (h : MgmtHdr) : NextKept s (execFwActivate h s) := by
  refine .next (request_fusesKept (fun t r => ?_) ..)
  have hf (b : Bool) (x : Nat) : FusesKept t (t.showFail b x) := .of_fixed (showFail_fixed ..)
  dsimp only
  split
  · exact .refl t
  · split
    · exact hf ..
    · split
      · exact ((hf ..).trans (markActive_fusesKept ..)).then_fixed (bootRoms_fixed ..)
      · split
        · exact hf ..
        · exact (((hf ..).setMgmt _).setF ..).setF ..

theorem execFwCoreReady_kept (s : State) (core : Fin 4) : NextKept s (execFwCoreReady core s) := by
  unfold execFwCoreReady
  refine .next ?_
  split
  · exact .refl s
  · split
    · exact .refl s
    · extract_lets b i i' s1 s2 mg s3 pw s4
      have h1 : FusesKept s s1 := .of_fixed (fixed_of_fuses (setF_fuses ..))
      have h2 : FusesKept s s2 := h1.then_fixed (fixed_of_fuses (setF_fuses s1 F.FLT_FW_STAT_ROLL_CORE _ 0 0))
      have h3 : FusesKept s s3 := (h1.trans (markActive_fusesKept s1 b)).then_fixed
        (fixed_of_fuses (setF_fuses (s1.markActive b) F.SEC_BOOT_STAT_VERSION _ 0 0))
      have h4 : FusesKept s s4 := h3.setPower pw
      clear_value s2 s4
      split
      · exact h2
      · exact h4.then_fixed ((answerRoll_fixed ..).trans (endRoll_fixed ..))

/-- Only the two commands that mark an image active burn a fuse beside the key slots. -/
theorem exec_passes_fixed (s : State) (i : Instr) (ha : ∀ h, i ≠ .fwActivate h) (hr : ∀ c, i ≠ .fwCoreReady c) :
    Passes s.fuses.fixed (exec i s) := by
  cases i with
  | fwActivate h => exact absurd rfl (ha h)
  | fwCoreReady c => exact absurd rfl (hr c)
  | _ => simp [exec]

theorem exec_kept (s : State) (i : Instr) : NextKept s (exec i s) := by
  by_cases ha : ∃ h, i = .fwActivate h
  · obtain ⟨h, rfl⟩ := ha
    exact execFwActivate_kept s h
  · by_cases hr : ∃ c, i = .fwCoreReady c
    · obtain ⟨c, rfl⟩ := hr
      exact execFwCoreReady_kept s c
    · exact nextKept_of_passes (exec_passes_fixed s i (fun h e => ha ⟨h, e⟩) fun c e => hr ⟨c, e⟩)

end Sys2Proof.Machine

namespace Sys2Proof.Proofs

open Sys2Proof.Machine

/-- Settles O57: a tick burns nothing, and each command keeps the fuses or raises `SVN` and `KEY_MIN`. -/
theorem fusesAreOnlyBurnt : Obligations.FusesAreOnlyBurnt := by
  unfold Obligations.FusesAreOnlyBurnt step
  intro s t
  split
  · exact NextKept.next (.of_fixed (Fixed.passTick_fixed s)) t
  · next c cs _ => exact exec_kept { s with pending := cs } c t

end Sys2Proof.Proofs

end
